-- ==== Sys2Proof/Word.lean ====
section
/-! DEFINITION. The word types of a Rilide device (R3): bytes, 32-bit registers, 64-bit quadwords. -/

namespace Sys2Proof

/-- A register or instruction word (R205). -/
abbrev Word := BitVec 32

/-- A register pair, an awl register or a quadword of a register map. -/
abbrev DWord := BitVec 64

/-- A byte of storage. -/
abbrev Byte := BitVec 8

end Sys2Proof
end

