-- ==== Sys2Proof/Syntax.lean ====
section
/-! DEFINITION. The abstract syntax: one constructor for each row of spec/opcode_table.json. The first part of `Instr`
holds the instruction words (R205 to R212), the second the events of the device (95_what_each_step_holds.md). -/

namespace Sys2Proof

/-- A lane register v0 to v63 (R207). -/
abbrev VReg := BitVec 6
/-- A uniform register s0 to s31 (R207). -/
abbrev SReg := BitVec 5
/-- A mask register m0 to m7 (R205, R207). -/
abbrev MReg := BitVec 3
/-- An awl register b0 to b3 (R207). -/
abbrev BReg := BitVec 2

/-- The last source of a lane instruction (R207, R208): a v register, an s register read by every lane, or the literal. -/
inductive LaneSrc
  | v (r : VReg)
  | s (r : SReg)
  | lit (w : Word)
deriving DecidableEq, Repr

/-- The last source of an instruction whose S field holds a mode, so that no s register is admitted (R265, R328). -/
inductive VLit
  | v (r : VReg)
  | lit (w : Word)
deriving DecidableEq, Repr

/-- The second operand of a uniform instruction (R225). -/
inductive USrc
  | s (r : SReg)
  | lit (w : Word)
deriving DecidableEq, Repr

/-- A register that is an s or an m register (R212). -/
inductive XReg
  | s (r : SReg)
  | m (r : MReg)
deriving DecidableEq, Repr

/-- A second operand that is an s register, an m register or the literal (R212, R229). -/
inductive XSrc
  | s (r : SReg)
  | m (r : MReg)
  | lit (w : Word)
deriving DecidableEq, Repr

/-- The forms of uniform MOV (R229). -/
inductive MovForm
  | reg (d a : XReg)
  | toAwl (k : BReg) (p : SReg)
  | fromAwl (p : SReg) (k : BReg)
deriving DecidableEq, Repr

/-- imm14 or the literal that replaces it (R208, LI). -/
inductive Imm14
  | short (i : BitVec 14)
  | lit (w : Word)
deriving DecidableEq, Repr

/-- imm17 or the literal that replaces it (R209, UW). -/
inductive Imm17
  | short (i : BitVec 17)
  | lit (w : Word)
deriving DecidableEq, Repr

/-- The offset of LM and UM: off5, or a literal byte offset (R208, R294). -/
inductive Off
  | off5 (o : BitVec 5)
  | lit (w : Word)
deriving DecidableEq, Repr

/-- The offset of LT and UT: 0, or a literal byte offset (R298). -/
inductive TOff
  | zero
  | lit (w : Word)
deriving DecidableEq, Repr

/-- Conditions of CMP and BRC (R210). -/
inductive Cc
  | eq | ne | lt | ge | ltu | geu
deriving DecidableEq, Repr

/-- Conditions of FCMP (R210, R260). -/
inductive FCc
  | eq | ne | lt | ge | ord | unord
deriving DecidableEq, Repr

/-- Access widths (R210). -/
inductive Width
  | b8 | b16 | b32 | b64 | b128 | s8 | s16
deriving DecidableEq, Repr

/-- Scopes (R6, R210). -/
inductive Scope
  | grp | core | die | pkg | sys
deriving DecidableEq, Repr

/-- Order qualifiers (R210). -/
inductive Order
  | none | acq | rel | ar
deriving DecidableEq, Repr

/-- Operations of the ATOM majors (R210, R298). -/
inductive AtomOp
  | add | and | or | xor | min | max | minu | maxu
deriving DecidableEq, Repr

/-- The two low bits of an ATOM or CAS major: 64-bit data, and the core store as the space (R211). -/
structure AtomSpace where
  wide : Bool
  store : Bool
deriving DecidableEq, Repr

/-- Conversion formats (R210). -/
inductive CvtFmt
  | f32 | f16 | bf16 | e4m3 | e5m2 | s32 | u32 | s16
deriving DecidableEq, Repr

/-- Rounding modes (R210); `sr` is mode 4, stochastic. -/
inductive RMode
  | rne | rz | ru | rd | sr
deriving DecidableEq, Repr

/-- The rounding control of FCVT: its rm field, or a rounding literal (R210). -/
inductive CvtRnd
  | field (rm : BitVec 2)
  | lit (mode : RMode)
deriving DecidableEq, Repr

inductive ShflMode
  | idx | up | down | xor
deriving DecidableEq, Repr

inductive VoteMode
  | ballot | any | all | eq
deriving DecidableEq, Repr

inductive RedOp
  | add | min | max
deriving DecidableEq, Repr

inductive ScanOp
  | add | xadd | min | max
deriving DecidableEq, Repr

/-- The count of TOPK: a constant k - 1, or an s register (R211, R269). -/
inductive TopkK
  | imm (km1 : BitVec 5)
  | reg (r : SReg)
deriving DecidableEq, Repr

/-- Hint kinds of PREF (R302). -/
inductive PrefKind
  | l1 | l2 | line | evict | xlate
deriving DecidableEq, Repr

/-- BRM conditions (R210). -/
inductive BrmCond
  | any | all | none
deriving DecidableEq, Repr

/-- The ID operand of OVLD and OVQRY (R237). -/
inductive OvSrc
  | reg (a : SReg)
  | lit (w : Word)
deriving DecidableEq, Repr

/-- The block format b2 to b8 by its code 0 to 6, n = 2 + code (R210). -/
inductive BFmt
  | b2 | b3 | b4 | b5 | b6 | b7 | b8
deriving DecidableEq, Repr

/-- Streamed widths of MMA (R210). -/
inductive MmaCode
  | s2 | s3 | s4 | s5 | s6 | s7 | s8 | s12 | s16
deriving DecidableEq, Repr

/-- The operands shared by every UE format command (R209). -/
structure EngOps where
  scope : Scope
  a : SReg
  b : USrc
  acq : Bool
  rel : Bool
deriving DecidableEq, Repr

/-- What the host's ATS completion grants (R17, R18): page size in bytes, the permissions, the physical address of the
page in host physical space. -/
structure AtsGrant where
  pageSize : Nat
  read : Bool
  write : Bool
  phys : Nat
deriving DecidableEq, Repr

/-- A ray of 24 words (R315), or a hit of 12 words (R318), or a message of 4 (R366): words in order. -/
abbrev Words := List Word

/-- A reflected copy (R122). -/
structure Copy where
  epoch : Nat
  seq : Nat
  srcDev : Nat
  entry : Nat
  rx : Nat
  offset : Nat
  mask : List Nat
  data : List Byte
  poisonHdr : Bool
  poisonData : Bool
deriving DecidableEq, Repr

/-- The arguments of an ARM message (R125, R126). -/
structure ArmMsg where
  srcDev : Nat
  entry : Nat
  dest : Nat
  rx : Nat
  epoch : Nat
  pages : Nat
  major : Nat
  minor : Nat
deriving DecidableEq, Repr

/-- How a host request of the device ended (R27, R311). -/
inductive HostEnd
  | ok (data : List Byte)
  | error
deriving DecidableEq, Repr

/-- What a flit receiver sees (R386): a good flit, a single-bit error corrected in place, or an uncorrectable one. -/
inductive FlitCheck
  | good | corrected | bad
deriving DecidableEq, Repr

/-- The instruction set and the events of the device, one constructor a row of spec/opcode_table.json. -/
inductive Instr
  -- Lane integer (R254 to R257)
  | addLane (m : MReg) (d a : VReg) (b : LaneSrc)
  | subLane (m : MReg) (d a : VReg) (b : LaneSrc)
  | mulLane (m : MReg) (d a : VReg) (b : LaneSrc)
  | mulhiLane (m : MReg) (d a : VReg) (b : LaneSrc)
  | mulhuLane (m : MReg) (d a : VReg) (b : LaneSrc)
  | mad (m : MReg) (d a : VReg) (b : LaneSrc)
  | abs (m : MReg) (d a : VReg)
  | neg (m : MReg) (d a : VReg)
  | andLane (m : MReg) (d a : VReg) (b : LaneSrc)
  | orLane (m : MReg) (d a : VReg) (b : LaneSrc)
  | xorLane (m : MReg) (d a : VReg) (b : LaneSrc)
  | shlLane (m : MReg) (d a : VReg) (b : LaneSrc)
  | shrLane (m : MReg) (d a : VReg) (b : LaneSrc)
  | sarLane (m : MReg) (d a : VReg) (b : LaneSrc)
  | minLane (m : MReg) (d a : VReg) (b : LaneSrc)
  | minuLane (m : MReg) (d a : VReg) (b : LaneSrc)
  | maxLane (m : MReg) (d a : VReg) (b : LaneSrc)
  | maxuLane (m : MReg) (d a : VReg) (b : LaneSrc)
  | cmpLane (m : MReg) (cc : Cc) (md : MReg) (a : VReg) (b : LaneSrc)
  | selLane (m : MReg) (d a : VReg) (b : LaneSrc)
  | movLane (m : MReg) (d a : VReg)
  | moviLane (m : MReg) (d : VReg) (i : Imm14)
  | clzLane (m : MReg) (d a : VReg)
  | popcLane (m : MReg) (d a : VReg)
  | bfxLane (m : MReg) (d a : VReg) (b : LaneSrc)
  | bfiLane (m : MReg) (d a : VReg) (b : LaneSrc)
  -- Lane floating point (R258 to R264)
  | fadd (m : MReg) (d a : VReg) (b : LaneSrc)
  | fsub (m : MReg) (d a : VReg) (b : LaneSrc)
  | fmul (m : MReg) (d a : VReg) (b : LaneSrc)
  | ffma (m : MReg) (d a : VReg) (b : LaneSrc)
  | fmin (m : MReg) (d a : VReg) (b : LaneSrc)
  | fmax (m : MReg) (d a : VReg) (b : LaneSrc)
  | fcmp (m : MReg) (cc : FCc) (md : MReg) (a : VReg) (b : LaneSrc)
  | frcp (m : MReg) (d a : VReg)
  | frsq (m : MReg) (d a : VReg)
  | fex2 (m : MReg) (d a : VReg)
  | flg2 (m : MReg) (d a : VReg)
  | fsqrt (m : MReg) (d a : VReg)
  | fdiv (m : MReg) (d a : VReg) (b : LaneSrc)
  | hadd2 (m : MReg) (d a : VReg) (b : LaneSrc)
  | hmul2 (m : MReg) (d a : VReg) (b : LaneSrc)
  | hfma2 (m : MReg) (d a : VReg) (b : LaneSrc)
  | hadd2Bf (m : MReg) (d a : VReg) (b : LaneSrc)
  | hmul2Bf (m : MReg) (d a : VReg) (b : LaneSrc)
  | hfma2Bf (m : MReg) (d a : VReg) (b : LaneSrc)
  | fcvt (m : MReg) (d a : VReg) (dst src : CvtFmt) (r : CvtRnd)
  -- Group data (R265 to R269)
  | shfl (m : MReg) (mode : ShflMode) (d a : VReg) (b : VLit)
  | vote (m : MReg) (mode : VoteMode) (d a : VReg)
  | redg (m : MReg) (op : RedOp) (d a : VReg)
  | scan (m : MReg) (op : ScanOp) (d a : VReg)
  | topk (m : MReg) (nz : Bool) (d a : VReg) (k : TopkK)
  -- Lane messages and memory (R293 to R302, R320, R328)
  | raysendLane (m : MReg) (a : VReg)
  | spawnLane (m : MReg) (a : VReg) (b : VLit)
  | qapp (m : MReg) (d a : VReg) (sc : Scope) (o : Order) (off : TOff)
  | pref (m : MReg) (kind : PrefKind) (a : VReg) (off : Off)
  | ld (m : MReg) (d a : VReg) (w : Width) (off : Off)
  | st (m : MReg) (d a : VReg) (w : Width) (off : Off)
  | ldlLane (m : MReg) (d a : VReg) (w : Width) (off : Off)
  | stlLane (m : MReg) (d a : VReg) (w : Width) (off : Off)
  | ldp (m : MReg) (d a : VReg) (w : Width) (off : Off)
  | stp (m : MReg) (d a : VReg) (w : Width) (off : Off)
  | ldb (m : MReg) (d : VReg) (k : BReg) (nm1 : BitVec 6) (sx : Bool)
  | stb (m : MReg) (d : VReg) (k : BReg) (nm1 : BitVec 6)
  | atomLane (m : MReg) (sp : AtomSpace) (op : AtomOp) (d a : VReg) (sc : Scope) (o : Order) (off : TOff)
  | casLane (m : MReg) (sp : AtomSpace) (d a : VReg) (sc : Scope) (o : Order) (off : TOff)
  | atomExchLane (m : MReg) (sp : AtomSpace) (d a : VReg) (sc : Scope) (o : Order) (off : TOff)
  -- Block formats (R270 to R278)
  | bdot (m : MReg) (f : BFmt) (d a b : VReg) (bsel : BitVec 2)
  | bscl (m : MReg) (f : BFmt) (d a b : VReg) (bsel : BitVec 2)
  | qnt (m : MReg) (f : BFmt) (d a b : VReg) (bsel : BitVec 2) (r : Option RMode)
  | deq (m : MReg) (f : BFmt) (d a b : VReg) (bsel : BitVec 2)
  -- Uniform integer (R227 to R230)
  | addUniform (d a : SReg) (b : USrc)
  | subUniform (d a : SReg) (b : USrc)
  | mulUniform (d a : SReg) (b : USrc)
  | mulhiUniform (d a : SReg) (b : USrc)
  | mulhuUniform (d a : SReg) (b : USrc)
  | div (d a : SReg) (b : USrc)
  | divu (d a : SReg) (b : USrc)
  | rem (d a : SReg) (b : USrc)
  | remu (d a : SReg) (b : USrc)
  | andUniform (d a : XReg) (b : XSrc)
  | orUniform (d a : XReg) (b : XSrc)
  | xorUniform (d a : XReg) (b : XSrc)
  | shlUniform (d a : SReg) (b : USrc)
  | shrUniform (d a : SReg) (b : USrc)
  | sarUniform (d a : SReg) (b : USrc)
  | minUniform (d a : SReg) (b : USrc)
  | minuUniform (d a : SReg) (b : USrc)
  | maxUniform (d a : SReg) (b : USrc)
  | maxuUniform (d a : SReg) (b : USrc)
  | cmpUniform (cc : Cc) (d a : SReg) (b : USrc)
  | selUniform (d a : SReg) (b : USrc)
  | movUniform (f : MovForm)
  | moviUniform (d : SReg) (i : Imm17)
  | clzUniform (d : SReg) (a : XReg)
  | popcUniform (d : SReg) (a : XReg)
  | bfxUniform (d a : SReg) (b : USrc)
  | bfiUniform (d a : SReg) (b : USrc)
  | rdlane (d : SReg) (a : VReg) (b : USrc)
  | movhi (d : SReg) (i : BitVec 16)
  | addi (d a : SReg) (i : BitVec 11)
  | andi (d a : SReg) (i : BitVec 11)
  | ori (d a : SReg) (i : BitVec 11)
  | xori (d a : SReg) (i : BitVec 11)
  | shli (d a : SReg) (i : BitVec 11)
  | shri (d a : SReg) (i : BitVec 11)
  | sari (d a : SReg) (i : BitVec 11)
  -- Control flow, overlays, synchronisation (R231 to R243)
  | br (t : BitVec 14)
  | brc (cc : Cc) (d a : SReg) (t : BitVec 14)
  | brz (d : SReg) (t : BitVec 14)
  | brnz (d : SReg) (t : BitVec 14)
  | brm (c : BrmCond) (k : MReg) (t : BitVec 14)
  | jmpr (a : SReg)
  | call (t : BitVec 14)
  | callr (a : SReg)
  | callo (a : SReg)
  | calloLiteral (t : Word)
  | elect (d : SReg)
  | ovld (d : SReg) (id : OvSrc)
  | ovwait (a : SReg)
  | ovrel (a : SReg)
  | ovqry (d : SReg) (id : OvSrc)
  | bara (blk : Bool) (d a : SReg)
  | barw (blk : Bool) (a b : SReg)
  | fence (sc : Scope)
  | waitc (sc : Scope) (a : SReg) (b : USrc)
  | xacq (k : BitVec 2)
  | xrel (k : BitVec 2)
  | ctlsend (a b : SReg)
  | ctlrecv (d : SReg)
  -- Uniform memory (R293, R298)
  | lds (d a : SReg) (w : Width) (off : Off)
  | sts (d a : SReg) (w : Width) (off : Off)
  | ldlUniform (d a : SReg) (w : Width) (off : Off)
  | stlUniform (d a : SReg) (w : Width) (off : Off)
  | atomUniform (sp : AtomSpace) (op : AtomOp) (d a : SReg) (sc : Scope) (o : Order) (off : TOff)
  | casUniform (sp : AtomSpace) (d a : SReg) (sc : Scope) (o : Order) (off : TOff)
  | atomExchUniform (sp : AtomSpace) (d a : SReg) (sc : Scope) (o : Order) (off : TOff)
  -- Engine commands and rings (R303 to R313, R282, R333, R337)
  | cpy (e : EngOps)
  | cpysl (e : EngOps)
  | chain (e : EngOps)
  | cbwaitProd (d a : SReg) (n : USrc)
  | cbwaitCons (d a : SReg) (n : USrc)
  | cbrelProd (a : SReg) (n : USrc)
  | cbrelCons (a : SReg) (n : USrc)
  | get (e : EngOps)
  | put (e : EngOps)
  | bagq (e : EngOps)
  | mma (c : MmaCode) (e : EngOps)
  | accld (e : EngOps)
  | accst (e : EngOps)
  | rfence (sc : Scope)
  -- Rays and items (R319 to R328)
  | raysendUniform (a : SReg)
  | rayrecv (d : SReg)
  | rayfwd (n : BitVec 3) (a b : SReg)
  | hitsend (a b : SReg)
  | rayend (b : SReg)
  | boxt (d a b : SReg)
  | trit (d a b : SReg)
  | rxf (d a b : SReg)
  | spawnUniform (a : SReg) (b : USrc)
  -- Collectives (R331)
  | collAg (e : EngOps)
  | collRs (e : EngOps)
  | collA2a (e : EngOps)
  | collBar (e : EngOps)
  -- System (R343, R352, R353, R362, R363)
  | trap (code : BitVec 11)
  | rdsr (d : SReg) (n : BitVec 11)
  | wrsr (n : BitVec 11) (a : SReg)
  | termg (a : SReg)
  -- Events: decoding and special registers
  | undefinedEncoding (w lit : Word)
  -- Events: launch, placement, stages, clicker
  | launchRecordFetch (q : Nat)
  | blockDistribution (q : Nat)
  | placementOpportunity (d : Nat)
  | teamSave (d blk : Nat)
  | groupEnd (c gid : Nat)
  | copyAcknowledge (e k seq : Nat)
  | itemEnqueue (d st : Nat) (item : Words)
  | clickerTake (c : Nat)
  | shadeWordRead (c : Nat)
  | formedGroupLaunch (c : Nat)
  | barrierNotify (c ctx va : Nat)
  | boundaryTrapTake (c gid : Nat)
  -- Events: translation and host memory services
  | translationRequest (c op lane : Nat)
  | priResponse (d i code : Nat)
  | operandLogReplay (c i : Nat)
  | invalidationComplete (tag : Nat)
  | dirtyLogMerge (c : Nat)
  | sceneRetireComplete (scene : Nat)
  -- Events: memory system
  | storeBufferDrain (c pipe i : Nat)
  | sliceRequest (d sl : Nat)
  | sliceFill (d sl i : Nat)
  | capacityWriteAccept (d sl : Nat)
  | loadReply (c op lane : Nat)
  | l1Fill (c i : Nat)
  | coreStoreApertureAccess (c : Nat)
  -- Events: instruction store
  | overlayPlacement (c : Nat)
  | overlayLoadComplete (c ld : Nat)
  | overlayLoadFail (c ld cause info : Nat)
  -- Events: rays, treelets, hits
  | rayArrival (c : Nat) (ray : Words)
  | directoryRayArrival (d fwd : Nat) (ray : Words)
  | indexEntryRead (d tid : Nat)
  | placementRequest (d tid home : Nat) (replica : Bool)
  | slotDrained (c slot : Nat)
  | treeletFillComplete (c slot : Nat)
  | filled (d tid owner : Nat)
  | fillFailed (d tid owner cause : Nat)
  | leaving (d tid owner : Nat)
  | drained (d tid owner : Nat)
  | heatReport (d tid n : Nat)
  | mapUpdate (c tid : Nat) (owners : List Nat)
  | spillRefill (c : Nat) (hits : Bool)
  | hitArrival (c : Nat) (hit : Words)
  | endNotice (c slot : Nat)
  | sendexitArrival (c : Nat) (ray : Words)
  -- Events: capacity tier
  | bagQueryExecute (c cmd : Nat)
  | bagQueryReply (c cmd : Nat)
  -- Events: windows
  | reflectedStoreSequence (e : Nat)
  | reflectedCopyArrival (x : Copy)
  | rfenceMarker (f c : Nat)
  -- Events: engines
  | engineTakeCommand (c eng : Nat)
  | copyStep (c cmd : Nat)
  | transferRecord (c cmd : Nat) (r : HostEnd)
  | copyComplete (c cmd : Nat)
  | mmaRow (c cmd : Nat)
  | matrixCommandComplete (c cmd : Nat)
  | multicastJoin (c cmd : Nat)
  | collJoin (c cmd : Nat)
  | collComplete (c cmd : Nat)
  | peerAccess (c cmd : Nat)
  | getPutComplete (c cmd : Nat)
  | encoderFrameStart (e st : Nat)
  -- Events: system, mailboxes
  | controlMessageArrival (c src : Nat) (msg : Words)
  | controlMessageRetry (c src : Nat) (msg : Words)
  | mailboxArrival (m lcore : Nat) (msg : Words)
  -- Events: network
  | outputArbitration (r port : Nat)
  -- Events: power, fatal errors, reset, bring-up
  | fatalError (cause die lcore : Nat)
  | mapDone (n : Nat)
  | disc (c port idx : Nat)
  | report (c : Nat) (msg : Words)
  | img (c p : Nat) (msg : Words)
  | linkDown (link : Nat)
  | teamInitRead (q : Nat)
  | flitReceive (link : Nat) (chk : FlitCheck)
  | armReply (e k : Nat) (ok : Bool) (major minor : Nat)
  | hedgeChangeComplete (d : Nat)
  | overlayExhaustion (c : Nat)
  | quotaRecheck (c : Nat)
  -- Events that only the outside raises, and those that a step performs as part of another
  | nop
  | ret
  | exit
  | yield
  | halt
  | eret
  | drainst
  | harvestComplete
  | hbmSplitRelocateDone
  | booted
  | seedWrite (v : Word)
  | arithWrite (v : Word)
  | storeMapWrite (v : Word)
  | srpop (v : Word)
  | gresume (v : Word)
  | sfpop (v : Word)
  | registerWrite (fn off bytes : Nat) (v : DWord)
  | launchQueueDoorbell (q : Nat) (v : Word)
  | launchQueueEnable (q : Nat) (qw0 : DWord)
  | reservationTimer (d q : Nat)
  | budgetExpiry (d q : Nat)
  | stageGovernorPeriod (d : Nat)
  | clickWaitExpiry (c slot : Nat)
  | xacqTimeout (c gid : Nat)
  | xacqDeadlockDetect (c : Nat)
  | supervisorTrap (c cause : Nat)
  | atsCompletion (d i : Nat) (g : AtsGrant)
  | atsTimeout (d i : Nat)
  | priDisable
  | atsInvalidation (tag pasid va size : Nat)
  | contextPasidAssign (i pasid : Nat)
  | bitmapCasCompletion (d : Nat) (r : HostEnd)
  | bitmapEnableWrite (i : Nat) (qw5 : DWord)
  | harvest (ctx : Nat) (rearm : Bool)
  | retireScene (scene : Nat)
  | bootFromStaging
  | setPoolSize (n : Nat)
  | hbmSplitWrite (v : Word)
  | remoteSubbyteStore (c addr n : Nat) (v : DWord)
  | patrolScrub (c : Nat)
  | heatDecay (d : Nat)
  | poolRebalance (d d2 : Nat)
  | capacityLinkTraining (b major minor : Nat)
  | capacityReplayFail (b : Nat)
  | capacityRetrainTimeout (b : Nat)
  | tableRegister (b t : Nat) (qw0 : DWord)
  | windowArm (e : Nat) (qw0 : DWord)
  | windowDisarm (e : Nat) (qw0 : DWord)
  | armReceive (a : ArmMsg)
  | stageRetire (d st : Nat)
  | nack (e k seq : Nat)
  | pathUnreachableTimeout (e k : Nat)
  | engineSelfWait (c gid : Nat)
  | multicastTimeout (c cmd : Nat)
  | collTimeout (c cmd : Nat)
  | peerWaitTimeout (c cmd : Nat)
  | encoderFrameDone (e st : Nat) (bytes : List Byte)
  | encoderStreamConfig (e st : Nat) (v : DWord)
  | watchdogTrip (c kind i : Nat)
  | mailboxSend (m : Nat)
  | hello (major minor : Nat)
  | attestation (nonce : Words)
  | granuleReclaim (c g : Nat)
  | nak (link seq : Nat)
  | roundTripTimerExpiry (link : Nat)
  | linkTrainingComplete (link major minor : Nat)
  | weltRetrainTimeout (link : Nat)
  | reachLinkBroken (link : Nat)
  | reachRetrain (p : Nat)
  | hedgeGovernorSample (d occ : Nat)
  | hedgeCtlWrite (d : Nat) (v : Word)
  | powerAlarmRaise (reading : Nat)
  | powerAlarmClear
  | thermalTrip (d : Nat)
  | crashWriteTimeout
  | fundamentalReset (verdict : Nat)
  | secondaryBusReset (verdict : Nat)
  | bootTimerExpiry
  | imageDeliveryTimeout
  | hostCompletionTimeout (d : Nat)
  | priReenable
  | capacityLinkReenable (b : Nat)
  | hostRegisterRead (fn off : Nat)
deriving DecidableEq, Repr

end Sys2Proof
end

