-- ==== Sys2Proof/WellFormed.lean ====
section
/-! DEFINITION. The operand rules that make a word an instruction beyond its opcode and field values: R207 (pairs and
quads), R164 and R213 (m0 is no destination), and the register constraints of the families (R210, R273, R319, R366).
`Instr.flaw` names the first rule that a term breaks; a term is well formed when it breaks none. -/

namespace Sys2Proof

/-- The reasons of R213 for which a word is not an instruction. -/
inductive Reject
  /-- The major is unassigned in its set's map. -/
  | major
  /-- A field shown as zero is not zero. -/
  | zeroField
  /-- A fn, S, op, cc, width, scope, order, format or code value, or a register of a family's column, is not listed. -/
  | value
  /-- A register field names a value R207 rejects, or a kind that the major does not accept. -/
  | regKind
  /-- A pair or quad is misaligned. -/
  | misaligned
  /-- m0 is named as a destination. -/
  | maskDest
  /-- L contradicts the format (R206). -/
  | literal
  /-- The constructor is an event of the device, which no word encodes. -/
  | event
deriving DecidableEq, Repr

/-- The access size in bytes (R210). -/
def Width.bytes : Width → Nat
  | .b8 | .s8 => 1
  | .b16 | .s16 => 2
  | .b32 => 4
  | .b64 => 8
  | .b128 => 16

/-- The registers that an access of this width names (R293). -/
def Width.regs : Width → Nat
  | .b8 | .b16 | .b32 | .s8 | .s16 => 1
  | .b64 => 2
  | .b128 => 4

/-- The registers of an atomic's address operand: a pair for a global address (R298). -/
def AtomSpace.addrRegs (sp : AtomSpace) : Nat := if sp.store then 1 else 2

/-- The registers of one data element of an atomic (R298). -/
def AtomSpace.dataRegs (sp : AtomSpace) : Nat := if sp.wide then 2 else 1

/-- The special registers of R364, by number. -/
def srListed (n : Nat) : Bool :=
  n ≤ 0x00d ∨ (0x010 ≤ n ∧ n ≤ 0x01d) ∨ (0x020 ≤ n ∧ n ≤ 0x02b) ∨ (0x100 ≤ n ∧ n ≤ 0x106)
    ∨ (0x110 ≤ n ∧ n ≤ 0x127)

/-- The floating-point formats of FCVT (R245). -/
def CvtFmt.isFloat : CvtFmt → Bool
  | .f32 | .f16 | .bf16 | .e4m3 | .e5m2 => true
  | .s32 | .u32 | .s16 => false

namespace Flaw

/-- Nothing is wrong when `b` holds; otherwise `r`. -/
def req (b : Bool) (r : Reject) : Option Reject := if b then none else some r

/-- A pair or quad of v registers starts at a multiple of its size (R207). -/
def alignV (n : Nat) (r : VReg) : Option Reject := req (r.toNat % n = 0) .misaligned

/-- A pair or quad of s registers starts at a multiple of its size (R207). -/
def alignS (n : Nat) (r : SReg) : Option Reject := req (r.toNat % n = 0) .misaligned

/-- m0 is no destination (R213). -/
def maskDest (m : MReg) : Option Reject := req (m ≠ 0) .maskDest

/-- As `maskDest`, for a destination that may be an s register (R212). -/
def xDest : XReg → Option Reject
  | .s _ => none
  | .m r => maskDest r

/-- The width codes 5 and 6 are loads only (R210). -/
def storeWidth : Width → Option Reject
  | .b8 | .b16 | .b32 | .b64 | .b128 => none
  | .s8 | .s16 => some .value

/-- A uniform ray block starts at s0 or s8 (R319). -/
def rayBase (b : SReg) : Option Reject := req (b = 0 ∨ b = 8) .value

/-- The n registers from r exist and lie outside the 24 registers of the ray block at b (R319). -/
def outside (b r : SReg) (n : Nat) : Option Reject :=
  req (n = 0 ∨ (r.toNat + n ≤ 32 ∧ (r.toNat + n ≤ b.toNat ∨ b.toNat + 24 ≤ r.toNat))) .value

end Flaw

open Flaw in
/-- The first operand rule that the term breaks, or none. -/
def Instr.flaw : Instr → Option Reject
  | .cmpLane _ _ md _ _ => maskDest md
  | .fcmp _ _ md _ _ => maskDest md
  | .fcvt _ _ _ dst src r => req (dst ≠ src) .value <|> req (match r with | .lit .sr => dst.isFloat | _ => true) .value
  | .topk _ _ d _ _ => alignV 2 d
  | .raysendLane _ a => req (a.toNat % 8 = 0 ∧ a.toNat ≤ 40) .value
  | .spawnLane _ a _ => alignV 4 a
  | .qapp _ _ a _ _ _ => alignV 2 a
  | .pref _ _ a _ => alignV 2 a
  | .ld _ d a w _ => alignV 2 a <|> alignV w.regs d
  | .st _ d a w _ => storeWidth w <|> alignV 2 a <|> alignV w.regs d
  | .ldlLane _ d _ w _ => alignV w.regs d
  | .stlLane _ d _ w _ => storeWidth w <|> alignV w.regs d
  | .ldp _ d _ w _ => alignV w.regs d
  | .stp _ d _ w _ => storeWidth w <|> alignV w.regs d
  | .ldb _ d _ nm1 _ => alignV (if nm1.toNat < 32 then 1 else 2) d
  | .stb _ d _ nm1 => alignV (if nm1.toNat < 32 then 1 else 2) d
  | .atomLane _ sp _ d a _ _ _ => alignV sp.addrRegs a <|> alignV sp.dataRegs d
  | .casLane _ sp d a _ _ _ => alignV sp.addrRegs a <|> alignV (2 * sp.dataRegs) d
  | .atomExchLane _ sp d a _ _ _ => alignV sp.addrRegs a <|> alignV sp.dataRegs d
  | .bdot _ _ _ a b _ => alignV 2 a <|> alignV 2 b
  | .bscl _ _ _ _ b _ => alignV 2 b
  | .qnt _ _ d _ b _ _ => req (d ≠ b) .value
  | .andUniform d _ _ => xDest d
  | .orUniform d _ _ => xDest d
  | .xorUniform d _ _ => xDest d
  | .movUniform f => match f with | .reg d _ => xDest d | .toAwl _ p => alignS 2 p | .fromAwl p _ => alignS 2 p
  | .bara blk _ a => alignS (if blk then 2 else 1) a
  | .barw blk a _ => alignS (if blk then 2 else 1) a
  | .xacq k => req (k ≠ 0) .value
  | .xrel k => req (k ≠ 0) .value
  | .ctlsend a b => alignS 4 a <|> req (b.toNat < a.toNat ∨ a.toNat + 4 ≤ b.toNat) .value
  | .ctlrecv d => req (d.toNat ≤ 27) .value
  | .lds d a w _ => alignS 2 a <|> alignS w.regs d
  | .sts d a w _ => storeWidth w <|> alignS 2 a <|> alignS w.regs d
  | .ldlUniform d _ w _ => alignS w.regs d
  | .stlUniform d _ w _ => storeWidth w <|> alignS w.regs d
  | .atomUniform sp _ d a _ _ _ => alignS sp.addrRegs a <|> alignS sp.dataRegs d
  | .casUniform sp d a _ _ _ => alignS sp.addrRegs a <|> alignS (2 * sp.dataRegs) d
  | .atomExchUniform sp d a _ _ _ => alignS sp.addrRegs a <|> alignS sp.dataRegs d
  | .raysendUniform a => rayBase a
  | .rayrecv d => rayBase d
  | .rayfwd n a b => rayBase b <|> req (n.toNat ≤ 4) .value <|> alignS 2 a <|> outside b a (2 * n.toNat)
  | .hitsend a b => rayBase b <|> outside b a 1
  | .rayend b => rayBase b
  | .boxt d _ b => rayBase b <|> req (d.toNat = if b = 0 then 24 else 0) .value
  | .trit d _ b => rayBase b <|> outside b d 1
  | .rxf d _ b => rayBase b <|> outside b d 1
  | .spawnUniform a _ => alignS 4 a
  | .rdsr _ n => req (srListed n.toNat) .value
  | .wrsr n _ => req (srListed n.toNat) .value
  | .addLane .. | .subLane .. | .mulLane .. | .mulhiLane .. | .mulhuLane .. | .mad .. | .abs .. | .neg ..
  | .andLane .. | .orLane .. | .xorLane .. | .shlLane .. | .shrLane .. | .sarLane .. | .minLane .. | .minuLane ..
  | .maxLane .. | .maxuLane .. | .selLane .. | .movLane .. | .moviLane .. | .clzLane .. | .popcLane .. | .bfxLane ..
  | .bfiLane .. | .fadd .. | .fsub .. | .fmul .. | .ffma .. | .fmin .. | .fmax .. | .frcp .. | .frsq .. | .fex2 ..
  | .flg2 .. | .fsqrt .. | .fdiv .. | .hadd2 .. | .hmul2 .. | .hfma2 .. | .hadd2Bf .. | .hmul2Bf .. | .hfma2Bf ..
  | .shfl .. | .vote .. | .redg .. | .scan .. | .deq .. | .nop | .addUniform .. | .subUniform .. | .mulUniform ..
  | .mulhiUniform .. | .mulhuUniform .. | .div .. | .divu .. | .rem .. | .remu .. | .shlUniform .. | .shrUniform ..
  | .sarUniform .. | .minUniform .. | .minuUniform .. | .maxUniform .. | .maxuUniform .. | .cmpUniform ..
  | .selUniform .. | .moviUniform .. | .clzUniform .. | .popcUniform .. | .bfxUniform .. | .bfiUniform ..
  | .rdlane .. | .movhi .. | .addi .. | .andi .. | .ori .. | .xori .. | .shli .. | .shri .. | .sari .. | .br ..
  | .brc .. | .brz .. | .brnz .. | .brm .. | .jmpr .. | .call .. | .callr .. | .ret | .callo .. | .calloLiteral ..
  | .exit | .elect .. | .ovld .. | .ovwait .. | .ovrel .. | .ovqry .. | .fence .. | .waitc .. | .yield | .halt
  | .cpy .. | .cpysl .. | .chain .. | .cbwaitProd .. | .cbwaitCons .. | .cbrelProd .. | .cbrelCons .. | .get ..
  | .put .. | .bagq .. | .mma .. | .accld .. | .accst .. | .rfence .. | .collAg .. | .collRs .. | .collA2a ..
  | .collBar .. | .trap .. | .eret | .drainst | .termg .. => none
  | .undefinedEncoding .. | .seedWrite .. | .arithWrite .. | .storeMapWrite .. | .srpop .. | .gresume .. | .sfpop ..
  | .registerWrite .. | .launchQueueDoorbell .. | .launchQueueEnable .. | .launchRecordFetch .. | .teamInitRead ..
  | .blockDistribution .. | .placementOpportunity .. | .granuleReclaim .. | .reservationTimer .. | .budgetExpiry ..
  | .teamSave .. | .groupEnd .. | .stageRetire .. | .itemEnqueue .. | .stageGovernorPeriod .. | .clickerTake ..
  | .shadeWordRead .. | .clickWaitExpiry .. | .formedGroupLaunch .. | .xacqTimeout .. | .xacqDeadlockDetect ..
  | .barrierNotify .. | .boundaryTrapTake .. | .supervisorTrap .. | .translationRequest .. | .atsCompletion ..
  | .atsTimeout .. | .priResponse .. | .operandLogReplay .. | .priDisable .. | .atsInvalidation ..
  | .invalidationComplete .. | .contextPasidAssign .. | .dirtyLogMerge .. | .bitmapCasCompletion ..
  | .bitmapEnableWrite .. | .harvest .. | .harvestComplete | .retireScene .. | .sceneRetireComplete ..
  | .bootFromStaging | .setPoolSize .. | .hbmSplitWrite .. | .hbmSplitRelocateDone | .storeBufferDrain ..
  | .sliceRequest .. | .sliceFill .. | .capacityWriteAccept .. | .loadReply .. | .l1Fill ..
  | .coreStoreApertureAccess .. | .remoteSubbyteStore .. | .patrolScrub .. | .overlayPlacement ..
  | .overlayLoadComplete .. | .overlayLoadFail .. | .overlayExhaustion .. | .quotaRecheck .. | .rayArrival ..
  | .directoryRayArrival .. | .indexEntryRead .. | .placementRequest .. | .slotDrained .. | .treeletFillComplete ..
  | .filled .. | .fillFailed .. | .leaving .. | .drained .. | .heatReport .. | .heatDecay .. | .mapUpdate ..
  | .spillRefill .. | .poolRebalance .. | .hitArrival .. | .endNotice .. | .sendexitArrival ..
  | .capacityLinkTraining .. | .capacityReplayFail .. | .capacityRetrainTimeout .. | .tableRegister ..
  | .bagQueryExecute .. | .bagQueryReply .. | .windowArm .. | .windowDisarm .. | .armReceive .. | .armReply ..
  | .reflectedStoreSequence .. | .reflectedCopyArrival .. | .copyAcknowledge .. | .nack ..
  | .pathUnreachableTimeout .. | .rfenceMarker .. | .engineTakeCommand .. | .engineSelfWait .. | .copyStep ..
  | .transferRecord .. | .copyComplete .. | .mmaRow .. | .matrixCommandComplete .. | .multicastJoin ..
  | .multicastTimeout .. | .collJoin .. | .collTimeout .. | .collComplete .. | .peerAccess .. | .peerWaitTimeout ..
  | .getPutComplete .. | .encoderFrameStart .. | .encoderFrameDone .. | .encoderStreamConfig .. | .watchdogTrip ..
  | .controlMessageArrival .. | .controlMessageRetry .. | .mailboxSend .. | .mailboxArrival .. | .hello ..
  | .attestation .. | .flitReceive .. | .nak .. | .roundTripTimerExpiry .. | .linkDown .. | .linkTrainingComplete ..
  | .weltRetrainTimeout .. | .reachLinkBroken .. | .reachRetrain .. | .outputArbitration .. | .hedgeGovernorSample ..
  | .hedgeChangeComplete .. | .hedgeCtlWrite .. | .powerAlarmRaise .. | .powerAlarmClear | .thermalTrip ..
  | .fatalError .. | .crashWriteTimeout | .fundamentalReset .. | .secondaryBusReset .. | .disc .. | .report ..
  | .img .. | .mapDone .. | .booted | .bootTimerExpiry | .imageDeliveryTimeout | .hostCompletionTimeout ..
  | .priReenable .. | .capacityLinkReenable .. | .hostRegisterRead .. => none

/-- A term that breaks no operand rule (R213). -/
def WellFormed (i : Instr) : Bool := i.flaw.isNone

/-- Whether the row is an event of the device and no word (95_what_each_step_holds.md). -/
def Instr.isEvent : Instr → Bool
  | .addLane .. | .subLane .. | .mulLane .. | .mulhiLane .. | .mulhuLane .. | .mad .. | .abs .. | .neg ..
  | .andLane .. | .orLane .. | .xorLane .. | .shlLane .. | .shrLane .. | .sarLane .. | .minLane .. | .minuLane ..
  | .maxLane .. | .maxuLane .. | .cmpLane .. | .selLane .. | .movLane .. | .moviLane .. | .clzLane .. | .popcLane ..
  | .bfxLane .. | .bfiLane .. | .fadd .. | .fsub .. | .fmul .. | .ffma .. | .fmin .. | .fmax .. | .fcmp .. | .frcp ..
  | .frsq .. | .fex2 .. | .flg2 .. | .fsqrt .. | .fdiv .. | .hadd2 .. | .hmul2 .. | .hfma2 .. | .hadd2Bf ..
  | .hmul2Bf .. | .hfma2Bf .. | .fcvt .. | .shfl .. | .vote .. | .redg .. | .scan .. | .topk .. | .raysendLane ..
  | .spawnLane .. | .qapp .. | .pref .. | .ld .. | .st .. | .ldlLane .. | .stlLane .. | .ldp .. | .stp .. | .ldb ..
  | .stb .. | .atomLane .. | .casLane .. | .atomExchLane .. | .bdot .. | .bscl .. | .qnt .. | .deq .. | .nop
  | .addUniform .. | .subUniform .. | .mulUniform .. | .mulhiUniform .. | .mulhuUniform .. | .div .. | .divu ..
  | .rem .. | .remu .. | .andUniform .. | .orUniform .. | .xorUniform .. | .shlUniform .. | .shrUniform ..
  | .sarUniform .. | .minUniform .. | .minuUniform .. | .maxUniform .. | .maxuUniform .. | .cmpUniform ..
  | .selUniform .. | .movUniform .. | .moviUniform .. | .clzUniform .. | .popcUniform .. | .bfxUniform ..
  | .bfiUniform .. | .rdlane .. | .movhi .. | .addi .. | .andi .. | .ori .. | .xori .. | .shli .. | .shri ..
  | .sari .. | .br .. | .brc .. | .brz .. | .brnz .. | .brm .. | .jmpr .. | .call .. | .callr .. | .ret | .callo ..
  | .calloLiteral .. | .exit | .elect .. | .ovld .. | .ovwait .. | .ovrel .. | .ovqry .. | .bara .. | .barw ..
  | .fence .. | .waitc .. | .yield | .xacq .. | .xrel .. | .halt | .ctlsend .. | .ctlrecv .. | .lds .. | .sts ..
  | .ldlUniform .. | .stlUniform .. | .atomUniform .. | .casUniform .. | .atomExchUniform .. | .cpy .. | .cpysl ..
  | .chain .. | .cbwaitProd .. | .cbwaitCons .. | .cbrelProd .. | .cbrelCons .. | .get .. | .put .. | .bagq ..
  | .mma .. | .accld .. | .accst .. | .rfence .. | .raysendUniform .. | .rayrecv .. | .rayfwd .. | .hitsend ..
  | .rayend .. | .boxt .. | .trit .. | .rxf .. | .spawnUniform .. | .collAg .. | .collRs .. | .collA2a ..
  | .collBar .. | .trap .. | .eret | .rdsr .. | .wrsr .. | .drainst | .termg .. => false
  | .undefinedEncoding .. | .seedWrite .. | .arithWrite .. | .storeMapWrite .. | .srpop .. | .gresume .. | .sfpop ..
  | .registerWrite .. | .launchQueueDoorbell .. | .launchQueueEnable .. | .launchRecordFetch .. | .teamInitRead ..
  | .blockDistribution .. | .placementOpportunity .. | .granuleReclaim .. | .reservationTimer .. | .budgetExpiry ..
  | .teamSave .. | .groupEnd .. | .stageRetire .. | .itemEnqueue .. | .stageGovernorPeriod .. | .clickerTake ..
  | .shadeWordRead .. | .clickWaitExpiry .. | .formedGroupLaunch .. | .xacqTimeout .. | .xacqDeadlockDetect ..
  | .barrierNotify .. | .boundaryTrapTake .. | .supervisorTrap .. | .translationRequest .. | .atsCompletion ..
  | .atsTimeout .. | .priResponse .. | .operandLogReplay .. | .priDisable .. | .atsInvalidation ..
  | .invalidationComplete .. | .contextPasidAssign .. | .dirtyLogMerge .. | .bitmapCasCompletion ..
  | .bitmapEnableWrite .. | .harvest .. | .harvestComplete | .retireScene .. | .sceneRetireComplete ..
  | .bootFromStaging | .setPoolSize .. | .hbmSplitWrite .. | .hbmSplitRelocateDone | .storeBufferDrain ..
  | .sliceRequest .. | .sliceFill .. | .capacityWriteAccept .. | .loadReply .. | .l1Fill ..
  | .coreStoreApertureAccess .. | .remoteSubbyteStore .. | .patrolScrub .. | .overlayPlacement ..
  | .overlayLoadComplete .. | .overlayLoadFail .. | .overlayExhaustion .. | .quotaRecheck .. | .rayArrival ..
  | .directoryRayArrival .. | .indexEntryRead .. | .placementRequest .. | .slotDrained .. | .treeletFillComplete ..
  | .filled .. | .fillFailed .. | .leaving .. | .drained .. | .heatReport .. | .heatDecay .. | .mapUpdate ..
  | .spillRefill .. | .poolRebalance .. | .hitArrival .. | .endNotice .. | .sendexitArrival ..
  | .capacityLinkTraining .. | .capacityReplayFail .. | .capacityRetrainTimeout .. | .tableRegister ..
  | .bagQueryExecute .. | .bagQueryReply .. | .windowArm .. | .windowDisarm .. | .armReceive .. | .armReply ..
  | .reflectedStoreSequence .. | .reflectedCopyArrival .. | .copyAcknowledge .. | .nack ..
  | .pathUnreachableTimeout .. | .rfenceMarker .. | .engineTakeCommand .. | .engineSelfWait .. | .copyStep ..
  | .transferRecord .. | .copyComplete .. | .mmaRow .. | .matrixCommandComplete .. | .multicastJoin ..
  | .multicastTimeout .. | .collJoin .. | .collTimeout .. | .collComplete .. | .peerAccess .. | .peerWaitTimeout ..
  | .getPutComplete .. | .encoderFrameStart .. | .encoderFrameDone .. | .encoderStreamConfig .. | .watchdogTrip ..
  | .controlMessageArrival .. | .controlMessageRetry .. | .mailboxSend .. | .mailboxArrival .. | .hello ..
  | .attestation .. | .flitReceive .. | .nak .. | .roundTripTimerExpiry .. | .linkDown .. | .linkTrainingComplete ..
  | .weltRetrainTimeout .. | .reachLinkBroken .. | .reachRetrain .. | .outputArbitration .. | .hedgeGovernorSample ..
  | .hedgeChangeComplete .. | .hedgeCtlWrite .. | .powerAlarmRaise .. | .powerAlarmClear | .thermalTrip ..
  | .fatalError .. | .crashWriteTimeout | .fundamentalReset .. | .secondaryBusReset .. | .disc .. | .report ..
  | .img .. | .mapDone .. | .booted | .bootTimerExpiry | .imageDeliveryTimeout | .hostCompletionTimeout ..
  | .priReenable .. | .capacityLinkReenable .. | .hostRegisterRead .. => true

end Sys2Proof
end

