-- ==== Sys2Proof/Decode.lean ====
section
/-! DEFINITION. The instruction formats (R205 to R209), the coded fields (R210) and the opcode maps (R211, R212): the
decoder, total on every word and literal, which rejects by the reasons of R213, and the encoder beside it. -/

namespace Sys2Proof

/-! ### The fields of a word (R205) -/

/-- The bit fields of an instruction word (R205). -/
structure Fields where
  set : Bool
  major : BitVec 7
  l : Bool
  me : BitVec 3
  d : BitVec 6
  a : BitVec 6
  b : BitVec 6
  s : BitVec 2
deriving DecidableEq, Repr

/-- The fields of a word (R205). -/
def fieldsOf (w : Word) : Fields where
  set := w.getLsbD 31
  major := w.extractLsb' 24 7
  l := w.getLsbD 23
  me := w.extractLsb' 20 3
  d := w.extractLsb' 14 6
  a := w.extractLsb' 8 6
  b := w.extractLsb' 2 6
  s := w.extractLsb' 0 2

/-- The word with the given fields (R205). -/
def Fields.word (f : Fields) : Word :=
  (((((((BitVec.ofBool f.set ++ f.major) ++ BitVec.ofBool f.l) ++ f.me) ++ f.d) ++ f.a) ++ f.b) ++ f.s)

/-- Bit 1 of S: the last source of a lane word is an s register (R207). -/
def Fields.bs (f : Fields) : Bool := f.s.getLsbD 1
/-- Bit 0 of S. -/
def Fields.x (f : Fields) : Bool := f.s.getLsbD 0
/-- The fn field of UA (R209): E over S. -/
def Fields.fn (f : Fields) : BitVec 5 := f.me ++ f.s

/-! ### Coded fields (R210) -/

def Cc.code : Cc → BitVec 3
  | .eq => 0 | .ne => 1 | .lt => 2 | .ge => 3 | .ltu => 4 | .geu => 5
def Cc.ofCode (c : BitVec 3) : Option Cc :=
  match c.toNat with
  | 0 => some .eq | 1 => some .ne | 2 => some .lt | 3 => some .ge | 4 => some .ltu | 5 => some .geu | _ => none

def FCc.code : FCc → BitVec 3
  | .eq => 0 | .ne => 1 | .lt => 2 | .ge => 3 | .ord => 4 | .unord => 5
def FCc.ofCode (c : BitVec 3) : Option FCc :=
  match c.toNat with
  | 0 => some .eq | 1 => some .ne | 2 => some .lt | 3 => some .ge | 4 => some .ord | 5 => some .unord | _ => none

def Width.code : Width → BitVec 3
  | .b8 => 0 | .b16 => 1 | .b32 => 2 | .b64 => 3 | .b128 => 4 | .s8 => 5 | .s16 => 6
def Width.ofCode (c : BitVec 3) : Option Width :=
  match c.toNat with
  | 0 => some .b8 | 1 => some .b16 | 2 => some .b32 | 3 => some .b64 | 4 => some .b128 | 5 => some .s8
  | 6 => some .s16 | _ => none

def Scope.code : Scope → BitVec 3
  | .grp => 0 | .core => 1 | .die => 2 | .pkg => 3 | .sys => 4
def Scope.ofCode (c : BitVec 3) : Option Scope :=
  match c.toNat with
  | 0 => some .grp | 1 => some .core | 2 => some .die | 3 => some .pkg | 4 => some .sys | _ => none

def Order.code : Order → BitVec 2
  | .none => 0 | .acq => 1 | .rel => 2 | .ar => 3
def Order.ofCode (c : BitVec 2) : Order :=
  match c.toNat with
  | 0 => .none | 1 => .acq | 2 => .rel | _ => .ar

def AtomOp.code : AtomOp → BitVec 3
  | .add => 0 | .and => 1 | .or => 2 | .xor => 3 | .min => 4 | .max => 5 | .minu => 6 | .maxu => 7
def AtomOp.ofCode (c : BitVec 3) : AtomOp :=
  match c.toNat with
  | 0 => .add | 1 => .and | 2 => .or | 3 => .xor | 4 => .min | 5 => .max | 6 => .minu | _ => .maxu

def CvtFmt.code : CvtFmt → BitVec 3
  | .f32 => 0 | .f16 => 1 | .bf16 => 2 | .e4m3 => 3 | .e5m2 => 4 | .s32 => 5 | .u32 => 6 | .s16 => 7
def CvtFmt.ofCode (c : BitVec 3) : CvtFmt :=
  match c.toNat with
  | 0 => .f32 | 1 => .f16 | 2 => .bf16 | 3 => .e4m3 | 4 => .e5m2 | 5 => .s32 | 6 => .u32 | _ => .s16

/-- The rounding literal: bits [2:0], bits [31:3] zero (R210). -/
def RMode.word : RMode → Word
  | .rne => 0 | .rz => 1 | .ru => 2 | .rd => 3 | .sr => 4
def RMode.ofWord (w : Word) : Option RMode :=
  match w.toNat with
  | 0 => some .rne | 1 => some .rz | 2 => some .ru | 3 => some .rd | 4 => some .sr | _ => none
/-- The rounding mode of an rm field (R210). -/
def RMode.ofRm (rm : BitVec 2) : RMode :=
  match rm.toNat with
  | 0 => .rne | 1 => .rz | 2 => .ru | _ => .rd

def ShflMode.code : ShflMode → BitVec 2
  | .idx => 0 | .up => 1 | .down => 2 | .xor => 3
def ShflMode.ofCode (c : BitVec 2) : ShflMode :=
  match c.toNat with
  | 0 => .idx | 1 => .up | 2 => .down | _ => .xor

def VoteMode.code : VoteMode → BitVec 2
  | .ballot => 0 | .any => 1 | .all => 2 | .eq => 3
def VoteMode.ofCode (c : BitVec 2) : VoteMode :=
  match c.toNat with
  | 0 => .ballot | 1 => .any | 2 => .all | _ => .eq

def RedOp.code : RedOp → BitVec 2
  | .add => 0 | .min => 1 | .max => 2
def RedOp.ofCode (c : BitVec 2) : Option RedOp :=
  match c.toNat with
  | 0 => some .add | 1 => some .min | 2 => some .max | _ => none

def ScanOp.code : ScanOp → BitVec 2
  | .add => 0 | .xadd => 1 | .min => 2 | .max => 3
def ScanOp.ofCode (c : BitVec 2) : ScanOp :=
  match c.toNat with
  | 0 => .add | 1 => .xadd | 2 => .min | _ => .max

/-- Hint kinds of PREF in D (R302). -/
def PrefKind.code : PrefKind → BitVec 6
  | .l1 => 0 | .l2 => 1 | .line => 2 | .evict => 3 | .xlate => 4
def PrefKind.ofCode (c : BitVec 6) : Option PrefKind :=
  match c.toNat with
  | 0 => some .l1 | 1 => some .l2 | 2 => some .line | 3 => some .evict | 4 => some .xlate | _ => none

def BrmCond.code : BrmCond → BitVec 2
  | .any => 0 | .all => 1 | .none => 2
def BrmCond.ofCode (c : BitVec 2) : Option BrmCond :=
  match c.toNat with
  | 0 => some .any | 1 => some .all | 2 => some .none | _ => Option.none

/-- The low three bits of a block-format major: n = 2 + code (R210). -/
def BFmt.code : BFmt → BitVec 3
  | .b2 => 0 | .b3 => 1 | .b4 => 2 | .b5 => 3 | .b6 => 4 | .b7 => 5 | .b8 => 6
def BFmt.ofCode (c : BitVec 3) : Option BFmt :=
  match c.toNat with
  | 0 => some .b2 | 1 => some .b3 | 2 => some .b4 | 3 => some .b5 | 4 => some .b6 | 5 => some .b7
  | 6 => some .b8 | _ => none

def MmaCode.code : MmaCode → BitVec 6
  | .s2 => 0 | .s3 => 1 | .s4 => 2 | .s5 => 3 | .s6 => 4 | .s7 => 5 | .s8 => 6 | .s12 => 7 | .s16 => 8
def MmaCode.ofCode (c : BitVec 6) : Option MmaCode :=
  match c.toNat with
  | 0 => some .s2 | 1 => some .s3 | 2 => some .s4 | 3 => some .s5 | 4 => some .s6 | 5 => some .s7 | 6 => some .s8
  | 7 => some .s12 | 8 => some .s16 | _ => none

/-! ### Operand fields -/

namespace Parse

/-- Continue when `b` holds; otherwise reject. -/
def need {α : Type} (b : Bool) (r : Reject) (k : Except Reject α) : Except Reject α :=
  if b then k else .error r

/-- Continue with the value of a coded field, or reject an unlisted one (R210). -/
def val {α β : Type} (o : Option α) (k : α → Except Reject β) : Except Reject β :=
  match o with
  | some x => k x
  | none => .error .value

/-- A uniform register field that must name an s register (R207). -/
def sreg {β : Type} (r : BitVec 6) (k : SReg → Except Reject β) : Except Reject β :=
  if r.toNat < 32 then k (r.extractLsb' 0 5) else .error .regKind

/-- A uniform register field that names an s or an m register (R212). -/
def xreg {β : Type} (r : BitVec 6) (k : XReg → Except Reject β) : Except Reject β :=
  if r.toNat < 32 then k (.s (r.extractLsb' 0 5))
  else if r.toNat < 40 then k (.m (r.extractLsb' 0 3))
  else .error .regKind

/-- The last source of an LA or LK word (R207, R208). -/
def laneSrc {β : Type} (f : Fields) (lit : Word) (k : LaneSrc → Except Reject β) : Except Reject β :=
  if f.l then need (f.b = 0 ∧ f.bs = false) .zeroField (k (.lit lit))
  else if f.bs then sreg f.b fun r => k (.s r)
  else k (.v f.b)

/-- A v register or the literal (R265, R328). -/
def vlit {β : Type} (f : Fields) (lit : Word) (k : VLit → Except Reject β) : Except Reject β :=
  if f.l then need (f.b = 0) .zeroField (k (.lit lit)) else k (.v f.b)

/-- The second operand of a uniform word (R209, R225). -/
def usrc {β : Type} (f : Fields) (lit : Word) (k : USrc → Except Reject β) : Except Reject β :=
  if f.l then need (f.b = 0) .zeroField (k (.lit lit)) else sreg f.b fun r => k (.s r)

/-- A second operand that may be a mask (R212). -/
def xsrc {β : Type} (f : Fields) (lit : Word) (k : XSrc → Except Reject β) : Except Reject β :=
  if f.l then need (f.b = 0) .zeroField (k (.lit lit))
  else xreg f.b fun
    | .s r => k (.s r)
    | .m r => k (.m r)

/-- off5 of LM and UM (R208). -/
def off5 (f : Fields) : BitVec 5 := f.b.extractLsb' 0 3 ++ f.s

/-- The offset of LM: off5, or the literal, with off5 then 0 (R208). -/
def off {β : Type} (f : Fields) (lit : Word) (k : Off → Except Reject β) : Except Reject β :=
  if f.l then need (off5 f = 0) .zeroField (k (.lit lit)) else k (.off5 (off5 f))

/-- The offset of UM: off5, or the literal, which replaces it (R209). -/
def uoff (f : Fields) (lit : Word) : Off := if f.l then .lit lit else .off5 (off5 f)

/-- The second operand of UE: B, or the literal, which replaces it (R209). -/
def ueSrc {β : Type} (f : Fields) (lit : Word) (k : USrc → Except Reject β) : Except Reject β :=
  if f.l then k (.lit lit) else sreg f.b fun r => k (.s r)

/-- The offset of LT and UT: none, or the literal (R208). -/
def toff (f : Fields) (lit : Word) : TOff := if f.l then .lit lit else .zero

/-- The upper three bits of B: width, scope, or the to field (R208). -/
def hi3 (f : Fields) : BitVec 3 := f.b.extractLsb' 3 3
/-- The op field of LT and UT (R208). -/
def op3 (f : Fields) : BitVec 3 := f.b.extractLsb' 0 1 ++ f.s
/-- The order field of LT and UT (R208). -/
def ord2 (f : Fields) : BitVec 2 := f.b.extractLsb' 1 2
/-- The 14 low bits: imm14 and targets (R208, R209). -/
def low14 (f : Fields) : BitVec 14 := (f.a ++ f.b) ++ f.s
/-- imm11 of UI (R209). -/
def imm11 (f : Fields) : BitVec 11 := (f.me ++ f.b) ++ f.s
/-- imm17 of UW (R209). -/
def imm17 (f : Fields) : BitVec 17 := f.me ++ low14 f

abbrev Mk3 := MReg → VReg → VReg → LaneSrc → Instr

/-- LA with x = 0. -/
def la (f : Fields) (lit : Word) (k : Mk3) : Except Reject Instr :=
  need (f.x = false) .value (laneSrc f lit fun b => .ok (k f.me f.d f.a b))

/-- LA whose x selects the unsigned variant (R208). -/
def laX (f : Fields) (lit : Word) (k ku : Mk3) : Except Reject Instr :=
  laneSrc f lit fun b => .ok (if f.x then ku f.me f.d f.a b else k f.me f.d f.a b)

/-- LA with one source: B, bs, x and L are 0 (R211). -/
def la1 (f : Fields) (k : MReg → VReg → VReg → Instr) : Except Reject Instr :=
  need (f.l = false) .literal (need (f.b = 0 ∧ f.s = 0) .zeroField (.ok (k f.me f.d f.a)))

/-- LM. -/
def lm (f : Fields) (lit : Word) (k : MReg → VReg → VReg → Width → Off → Instr) : Except Reject Instr :=
  val (Width.ofCode (hi3 f)) fun w => off f lit fun o => .ok (k f.me f.d f.a w o)

/-- LT of an ATOM major. -/
def ltAtom (f : Fields) (lit : Word) (sp : AtomSpace) : Except Reject Instr :=
  val (Scope.ofCode (hi3 f)) fun sc =>
    .ok (.atomLane f.me sp (AtomOp.ofCode (op3 f)) f.d f.a sc (Order.ofCode (ord2 f)) (toff f lit))

/-- LT of a CAS major: op 0 compare-and-swap, op 1 exchange (R210). -/
def ltCas (f : Fields) (lit : Word) (sp : AtomSpace) : Except Reject Instr :=
  val (Scope.ofCode (hi3 f)) fun sc =>
    if op3 f = 0 then .ok (.casLane f.me sp f.d f.a sc (Order.ofCode (ord2 f)) (toff f lit))
    else if op3 f = 1 then .ok (.atomExchLane f.me sp f.d f.a sc (Order.ofCode (ord2 f)) (toff f lit))
    else .error .value

/-- UT of an ATOM major. -/
def utAtom (f : Fields) (lit : Word) (sp : AtomSpace) : Except Reject Instr :=
  need (f.me = 0) .zeroField (val (Scope.ofCode (hi3 f)) fun sc => sreg f.d fun d => sreg f.a fun a =>
    .ok (.atomUniform sp (AtomOp.ofCode (op3 f)) d a sc (Order.ofCode (ord2 f)) (toff f lit)))

/-- UT of a CAS major. -/
def utCas (f : Fields) (lit : Word) (sp : AtomSpace) : Except Reject Instr :=
  need (f.me = 0) .zeroField (val (Scope.ofCode (hi3 f)) fun sc => sreg f.d fun d => sreg f.a fun a =>
    if op3 f = 0 then .ok (.casUniform sp d a sc (Order.ofCode (ord2 f)) (toff f lit))
    else if op3 f = 1 then .ok (.atomExchUniform sp d a sc (Order.ofCode (ord2 f)) (toff f lit))
    else .error .value)

/-- UA with the given fn. -/
def ua (f : Fields) (lit : Word) (fn : Nat) (k : SReg → SReg → USrc → Instr) : Except Reject Instr :=
  need (f.fn.toNat = fn) .value (sreg f.d fun d => sreg f.a fun a => usrc f lit fun b => .ok (k d a b))

/-- UA whose fn selects between two instructions (R212). -/
def uaX (f : Fields) (lit : Word) (k ku : SReg → SReg → USrc → Instr) : Except Reject Instr :=
  if f.fn.toNat = 0 then ua f lit 0 k else ua f lit 1 ku

/-- UA logic over s and m registers (R212). -/
def uaLogic (f : Fields) (lit : Word) (k : XReg → XReg → XSrc → Instr) : Except Reject Instr :=
  need (f.fn = 0) .value (xreg f.d fun d => xreg f.a fun a => xsrc f lit fun b => .ok (k d a b))

/-- UA with an s destination and one s or m source (R212). -/
def uaOneX (f : Fields) (k : SReg → XReg → Instr) : Except Reject Instr :=
  need (f.l = false) .literal (need (f.fn = 0 ∧ f.b = 0) .zeroField
    (sreg f.d fun d => xreg f.a fun a => .ok (k d a)))

/-- A word whose bits [23:0] are all zero (R212). -/
def bare (f : Fields) (i : Instr) : Except Reject Instr :=
  need (f.l = false) .literal (need (f.me = 0 ∧ f.d = 0 ∧ f.a = 0 ∧ f.b = 0 ∧ f.s = 0) .zeroField (.ok i))

/-- UA with only D. -/
def uaD (f : Fields) (k : SReg → Instr) : Except Reject Instr :=
  need (f.l = false) .literal (need (f.fn = 0 ∧ f.a = 0 ∧ f.b = 0) .zeroField (sreg f.d fun d => .ok (k d)))

/-- UA with only A. -/
def uaA (f : Fields) (k : SReg → Instr) : Except Reject Instr :=
  need (f.l = false) .literal (need (f.fn = 0 ∧ f.d = 0 ∧ f.b = 0) .zeroField (sreg f.a fun a => .ok (k a)))

/-- UA with only B. -/
def uaB (f : Fields) (k : SReg → Instr) : Except Reject Instr :=
  need (f.l = false) .literal (need (f.fn = 0 ∧ f.d = 0 ∧ f.a = 0) .zeroField (sreg f.b fun b => .ok (k b)))

/-- UA with A and B registers, fn and D zero, no literal. -/
def uaAB (f : Fields) (k : SReg → SReg → Instr) : Except Reject Instr :=
  need (f.l = false) .literal (need (f.fn = 0 ∧ f.d = 0) .zeroField
    (sreg f.a fun a => sreg f.b fun b => .ok (k a b)))

/-- UA with D, A and B registers, fn zero, no literal. -/
def uaDAB (f : Fields) (k : SReg → SReg → SReg → Instr) : Except Reject Instr :=
  need (f.l = false) .literal (need (f.fn = 0) .zeroField
    (sreg f.d fun d => sreg f.a fun a => sreg f.b fun b => .ok (k d a b)))

/-- OVLD and OVQRY (R212, R237). -/
def uaOv (f : Fields) (lit : Word) (k : SReg → OvSrc → Instr) : Except Reject Instr :=
  need (f.fn = 0 ∧ f.b = 0) .zeroField (sreg f.d fun d =>
    if f.l then need (f.a = 0) .zeroField (.ok (k d (.lit lit))) else sreg f.a fun a => .ok (k d (.reg a)))

/-- FENCE and RFENCE: scope in fn[4:2] (R212). -/
def uaScope (f : Fields) (k : Scope → Instr) : Except Reject Instr :=
  need (f.l = false) .literal (need (f.d = 0 ∧ f.a = 0 ∧ f.b = 0 ∧ f.s = 0) .zeroField
    (val (Scope.ofCode f.me) fun sc => .ok (k sc)))

/-- XACQ and XREL: k in fn[1:0] (R212). -/
def uaK (f : Fields) (k : BitVec 2 → Instr) : Except Reject Instr :=
  need (f.l = false) .literal (need (f.me = 0 ∧ f.d = 0 ∧ f.a = 0 ∧ f.b = 0) .zeroField (.ok (k f.s)))

/-- UI with D and A. -/
def ui (f : Fields) (k : SReg → SReg → BitVec 11 → Instr) : Except Reject Instr :=
  need (f.l = false) .literal (sreg f.d fun d => sreg f.a fun a => .ok (k d a (imm11 f)))

/-- UB without registers (BR, CALL). -/
def ub (f : Fields) (k : BitVec 14 → Instr) : Except Reject Instr :=
  need (f.l = false) .literal (need (f.me = 0 ∧ f.d = 0) .zeroField (.ok (k (low14 f))))

/-- UB that tests D (BRZ, BRNZ). -/
def ubD (f : Fields) (k : SReg → BitVec 14 → Instr) : Except Reject Instr :=
  need (f.l = false) .literal (need (f.me = 0) .zeroField (sreg f.d fun d => .ok (k d (low14 f))))

/-- UM. -/
def um (f : Fields) (lit : Word) (k : SReg → SReg → Width → Off → Instr) : Except Reject Instr :=
  need (f.me = 0) .zeroField (val (Width.ofCode (hi3 f)) fun w => sreg f.d fun d => sreg f.a fun a =>
    .ok (k d a w (uoff f lit)))

/-- UE without a code in D. -/
def ueOps (f : Fields) (lit : Word) (k : EngOps → Except Reject Instr) : Except Reject Instr :=
  val (Scope.ofCode f.me) fun sc => sreg f.a fun a => ueSrc f lit fun b =>
    k { scope := sc, a := a, b := b, acq := f.s.getLsbD 1, rel := f.s.getLsbD 0 }

/-- UE with D = 0. -/
def ue (f : Fields) (lit : Word) (k : EngOps → Instr) : Except Reject Instr :=
  need (f.d = 0) .zeroField (ueOps f lit fun e => .ok (k e))

/-- A block-format word (LX) and its format (R211). -/
def lx (f : Fields) (k : BFmt → Instr) : Except Reject Instr :=
  need (f.l = false) .literal (val (BFmt.ofCode (f.major.extractLsb' 0 3)) fun n => .ok (k n))

/-- QNT, which alone of the LX words admits a rounding literal (R211). -/
def lxQnt (f : Fields) (lit : Word) : Except Reject Instr :=
  val (BFmt.ofCode (f.major.extractLsb' 0 3)) fun n =>
    if f.l then val (RMode.ofWord lit) fun r => .ok (.qnt f.me n f.d f.a f.b f.s (some r))
    else .ok (.qnt f.me n f.d f.a f.b f.s none)

/-- FCVT (R208, R210). -/
def lc (f : Fields) (lit : Word) : Except Reject Instr :=
  let dst := CvtFmt.ofCode (hi3 f)
  let src := CvtFmt.ofCode (f.b.extractLsb' 0 3)
  need (dst ≠ src) .value
    (if f.l then need (f.s = 0) .zeroField (val (RMode.ofWord lit) fun r => .ok (.fcvt f.me f.d f.a dst src (.lit r)))
     else .ok (.fcvt f.me f.d f.a dst src (.field f.s)))

/-- TOPK (R211, R269). -/
def topk (f : Fields) : Except Reject Instr :=
  need (f.l = false) .literal (sreg f.b fun r =>
    .ok (.topk f.me f.bs f.d f.a (if f.x then .imm r else .reg r)))

/-- Uniform MOV over s, m and b registers (R212, R229). -/
def movForm (f : Fields) : Except Reject Instr :=
  need (f.l = false) .literal (need (f.fn = 0 ∧ f.b = 0) .zeroField
    (if 40 ≤ f.d.toNat ∧ f.d.toNat < 44 then sreg f.a fun a => .ok (.movUniform (.toAwl (f.d.extractLsb' 0 2) a))
     else if 40 ≤ f.a.toNat ∧ f.a.toNat < 44 then sreg f.d fun d => .ok (.movUniform (.fromAwl d (f.a.extractLsb' 0 2)))
     else xreg f.d fun d => xreg f.a fun a => .ok (.movUniform (.reg d a))))

/-- A bit-memory word: `S[1]` and A[3:0] zero (R208). -/
def lb (f : Fields) (k : Except Reject Instr) : Except Reject Instr :=
  need (f.l = false) .literal (need (f.a.extractLsb' 0 4 = 0 ∧ f.bs = false) .zeroField k)

/-- The lane set (R211). -/
def lane (f : Fields) (lit : Word) : Except Reject Instr :=
  match f.major.toNat with
  | 0x01 => la f lit .addLane
  | 0x02 => la f lit .subLane
  | 0x03 => la f lit .mulLane
  | 0x04 => laX f lit .mulhiLane .mulhuLane
  | 0x05 => la f lit .mad
  | 0x06 => la1 f .abs
  | 0x07 => la1 f .neg
  | 0x08 => la f lit .andLane
  | 0x09 => la f lit .orLane
  | 0x0a => la f lit .xorLane
  | 0x0b => la f lit .shlLane
  | 0x0c => la f lit .shrLane
  | 0x0d => la f lit .sarLane
  | 0x0e => laX f lit .minLane .minuLane
  | 0x0f => laX f lit .maxLane .maxuLane
  | 0x10 => need (f.x = false) .zeroField (val (Cc.ofCode (f.d.extractLsb' 3 3)) fun cc =>
      laneSrc f lit fun b => .ok (.cmpLane f.me cc (f.d.extractLsb' 0 3) f.a b))
  | 0x11 => la f lit .selLane
  | 0x12 => la1 f .movLane
  | 0x13 => if f.l then need (low14 f = 0) .zeroField (.ok (.moviLane f.me f.d (.lit lit)))
            else .ok (.moviLane f.me f.d (.short (low14 f)))
  | 0x14 => la1 f .clzLane
  | 0x15 => la1 f .popcLane
  | 0x16 => la f lit .bfxLane
  | 0x17 => la f lit .bfiLane
  | 0x20 => la f lit .fadd
  | 0x21 => la f lit .fsub
  | 0x22 => la f lit .fmul
  | 0x23 => la f lit .ffma
  | 0x24 => la f lit .fmin
  | 0x25 => la f lit .fmax
  | 0x26 => need (f.x = false) .zeroField (val (FCc.ofCode (f.d.extractLsb' 3 3)) fun cc =>
      laneSrc f lit fun b => .ok (.fcmp f.me cc (f.d.extractLsb' 0 3) f.a b))
  | 0x27 => la1 f .frcp
  | 0x28 => la1 f .frsq
  | 0x29 => la1 f .fex2
  | 0x2a => la1 f .flg2
  | 0x2b => la1 f .fsqrt
  | 0x2c => la f lit .fdiv
  | 0x30 => la f lit .hadd2
  | 0x31 => la f lit .hmul2
  | 0x32 => la f lit .hfma2
  | 0x34 => la f lit .hadd2Bf
  | 0x35 => la f lit .hmul2Bf
  | 0x36 => la f lit .hfma2Bf
  | 0x38 => lc f lit
  | 0x40 => vlit f lit fun b => .ok (.shfl f.me (ShflMode.ofCode f.s) f.d f.a b)
  | 0x41 => need (f.l = false) .literal (need (f.b = 0) .zeroField (.ok (.vote f.me (VoteMode.ofCode f.s) f.d f.a)))
  | 0x42 => need (f.l = false) .literal (need (f.b = 0) .zeroField (val (RedOp.ofCode f.s) fun o =>
      .ok (.redg f.me o f.d f.a)))
  | 0x43 => need (f.l = false) .literal (need (f.b = 0) .zeroField (.ok (.scan f.me (ScanOp.ofCode f.s) f.d f.a)))
  | 0x44 => topk f
  | 0x48 => need (f.l = false) .literal (need (f.d = 0 ∧ f.b = 0 ∧ f.s = 0) .zeroField (.ok (.raysendLane f.me f.a)))
  | 0x49 => need (f.d = 0 ∧ f.s = 0) .zeroField (vlit f lit fun b => .ok (.spawnLane f.me f.a b))
  | 0x4a => need (op3 f = 0) .value (val (Scope.ofCode (hi3 f)) fun sc =>
      .ok (.qapp f.me f.d f.a sc (Order.ofCode (ord2 f)) (toff f lit)))
  | 0x4b => need (hi3 f = 0) .zeroField (val (PrefKind.ofCode f.d) fun k => off f lit fun o =>
      .ok (.pref f.me k f.a o))
  | 0x50 => lm f lit .ld
  | 0x51 => lm f lit .st
  | 0x52 => lm f lit .ldlLane
  | 0x53 => lm f lit .stlLane
  | 0x54 => lm f lit .ldp
  | 0x55 => lm f lit .stp
  | 0x56 => lb f (.ok (.ldb f.me f.d (f.a.extractLsb' 4 2) f.b f.x))
  | 0x57 => lb f (need (f.x = false) .zeroField (.ok (.stb f.me f.d (f.a.extractLsb' 4 2) f.b)))
  | 0x58 => ltAtom f lit ⟨false, false⟩
  | 0x59 => ltAtom f lit ⟨true, false⟩
  | 0x5a => ltAtom f lit ⟨false, true⟩
  | 0x5b => ltAtom f lit ⟨true, true⟩
  | 0x5c => ltCas f lit ⟨false, false⟩
  | 0x5d => ltCas f lit ⟨true, false⟩
  | 0x5e => ltCas f lit ⟨false, true⟩
  | 0x5f => ltCas f lit ⟨true, true⟩
  | _ =>
    if f.major.extractLsb' 3 4 = 0xc then lx f fun n => .bdot f.me n f.d f.a f.b f.s
    else if f.major.extractLsb' 3 4 = 0xd then lx f fun n => .bscl f.me n f.d f.a f.b f.s
    else if f.major.extractLsb' 3 4 = 0xe then lxQnt f lit
    else if f.major.extractLsb' 3 4 = 0xf then lx f fun n => .deq f.me n f.d f.a f.b f.s
    else .error .major

/-- The uniform set (R212). -/
def uniform (f : Fields) (lit : Word) : Except Reject Instr :=
  match f.major.toNat with
  | 0x00 => bare f .nop
  | 0x01 => ua f lit 0 .addUniform
  | 0x02 => ua f lit 0 .subUniform
  | 0x03 => ua f lit 0 .mulUniform
  | 0x04 => uaX f lit .mulhiUniform .mulhuUniform
  | 0x05 => uaX f lit .div .divu
  | 0x06 => uaX f lit .rem .remu
  | 0x08 => uaLogic f lit .andUniform
  | 0x09 => uaLogic f lit .orUniform
  | 0x0a => uaLogic f lit .xorUniform
  | 0x0b => ua f lit 0 .shlUniform
  | 0x0c => ua f lit 0 .shrUniform
  | 0x0d => ua f lit 0 .sarUniform
  | 0x0e => uaX f lit .minUniform .minuUniform
  | 0x0f => uaX f lit .maxUniform .maxuUniform
  | 0x10 => need (f.s = 0) .value (val (Cc.ofCode f.me) fun cc => sreg f.d fun d => sreg f.a fun a =>
      usrc f lit fun b => .ok (.cmpUniform cc d a b))
  | 0x11 => ua f lit 0 .selUniform
  | 0x12 => movForm f
  | 0x13 => sreg f.d fun d => if f.l then need (imm17 f = 0) .zeroField (.ok (.moviUniform d (.lit lit)))
            else .ok (.moviUniform d (.short (imm17 f)))
  | 0x14 => uaOneX f .clzUniform
  | 0x15 => uaOneX f .popcUniform
  | 0x16 => ua f lit 0 .bfxUniform
  | 0x17 => ua f lit 0 .bfiUniform
  | 0x18 => need (f.fn = 0) .value (sreg f.d fun d => usrc f lit fun b => .ok (.rdlane d f.a b))
  | 0x19 => need (f.l = false) .literal (need (f.me.getLsbD 2 = false) .zeroField
      (sreg f.d fun d => .ok (.movhi d ((imm17 f).extractLsb' 0 16))))
  | 0x21 => ui f .addi
  | 0x28 => ui f .andi
  | 0x29 => ui f .ori
  | 0x2a => ui f .xori
  | 0x2b => ui f .shli
  | 0x2c => ui f .shri
  | 0x2d => ui f .sari
  | 0x30 => ub f .br
  | 0x31 => need (f.l = true) .literal (need (f.b = 0 ∧ f.s = 0 ∧ lit.extractLsb' 14 18 = 0) .zeroField
      (val (Cc.ofCode f.me) fun cc => sreg f.d fun d => sreg f.a fun a =>
        .ok (.brc cc d a (lit.extractLsb' 0 14))))
  | 0x32 => ubD f .brz
  | 0x33 => ubD f .brnz
  | 0x34 => need (f.l = false) .literal (need (f.d.extractLsb' 2 4 = 0) .zeroField
      (val (BrmCond.ofCode (f.d.extractLsb' 0 2)) fun c => .ok (.brm c f.me (low14 f))))
  | 0x35 => uaA f .jmpr
  | 0x36 => ub f .call
  | 0x37 => uaA f .callr
  | 0x38 => bare f .ret
  | 0x39 => if f.l then need (f.fn = 0 ∧ f.d = 0 ∧ f.a = 0 ∧ f.b = 0) .zeroField (.ok (.calloLiteral lit))
            else uaA f .callo
  | 0x3a => bare f .exit
  | 0x3b => uaD f .elect
  | 0x40 => uaOv f lit .ovld
  | 0x41 => uaA f .ovwait
  | 0x42 => uaA f .ovrel
  | 0x43 => uaOv f lit .ovqry
  | 0x44 => need (f.l = false) .literal (need (f.me = 0 ∧ f.bs = false ∧ f.b = 0) .zeroField
      (sreg f.d fun d => sreg f.a fun a => .ok (.bara f.x d a)))
  | 0x45 => need (f.l = false) .literal (need (f.me = 0 ∧ f.bs = false ∧ f.d = 0) .zeroField
      (sreg f.a fun a => sreg f.b fun b => .ok (.barw f.x a b)))
  | 0x46 => uaScope f .fence
  | 0x47 => need (f.s = 0 ∧ f.d = 0) .zeroField (val (Scope.ofCode f.me) fun sc => sreg f.a fun a =>
      usrc f lit fun b => .ok (.waitc sc a b))
  | 0x48 => bare f .yield
  | 0x49 => uaK f .xacq
  | 0x4a => uaK f .xrel
  | 0x4c => bare f .halt
  | 0x4d => uaAB f .ctlsend
  | 0x4e => uaD f .ctlrecv
  | 0x50 => um f lit .lds
  | 0x51 => um f lit .sts
  | 0x52 => um f lit .ldlUniform
  | 0x53 => um f lit .stlUniform
  | 0x58 => utAtom f lit ⟨false, false⟩
  | 0x59 => utAtom f lit ⟨true, false⟩
  | 0x5a => utAtom f lit ⟨false, true⟩
  | 0x5b => utAtom f lit ⟨true, true⟩
  | 0x5c => utCas f lit ⟨false, false⟩
  | 0x5d => utCas f lit ⟨true, false⟩
  | 0x5e => utCas f lit ⟨false, true⟩
  | 0x5f => utCas f lit ⟨true, true⟩
  | 0x60 => ue f lit .cpy
  | 0x61 => ue f lit .cpysl
  | 0x62 => ue f lit .chain
  | 0x63 => uaX f lit .cbwaitProd .cbwaitCons
  | 0x64 => need (f.d = 0) .zeroField (sreg f.a fun a => usrc f lit fun n =>
      if f.fn.toNat = 0 then .ok (.cbrelProd a n) else if f.fn.toNat = 1 then .ok (.cbrelCons a n) else .error .value)
  | 0x65 => ue f lit .get
  | 0x66 => ue f lit .put
  | 0x67 => ue f lit .bagq
  | 0x68 => val (MmaCode.ofCode f.d) fun c => ueOps f lit fun e => .ok (.mma c e)
  | 0x69 => ue f lit .accld
  | 0x6a => ue f lit .accst
  | 0x6b => uaScope f .rfence
  | 0x70 => uaA f .raysendUniform
  | 0x71 => uaD f .rayrecv
  | 0x72 => need (f.l = false) .literal (need (f.fn = 0) .zeroField (need (f.d.toNat < 8) .value
      (sreg f.a fun a => sreg f.b fun b => .ok (.rayfwd (f.d.extractLsb' 0 3) a b))))
  | 0x73 => uaAB f .hitsend
  | 0x74 => uaB f .rayend
  | 0x75 => uaDAB f .boxt
  | 0x76 => uaDAB f .trit
  | 0x77 => uaDAB f .rxf
  | 0x78 => need (f.fn = 0 ∧ f.d = 0) .zeroField (sreg f.a fun a => usrc f lit fun b => .ok (.spawnUniform a b))
  | 0x79 => ueOps f lit fun e =>
      match f.d.toNat with
      | 0 => .ok (.collAg e)
      | 1 => .ok (.collRs e)
      | 2 => .ok (.collA2a e)
      | 3 => .ok (.collBar e)
      | _ => .error .value
  | 0x7a => need (f.l = false) .literal (need (f.d = 0 ∧ f.a = 0) .zeroField (.ok (.trap (imm11 f))))
  | 0x7b => bare f .eret
  | 0x7c => need (f.l = false) .literal (need (f.a = 0) .zeroField (sreg f.d fun d => .ok (.rdsr d (imm11 f))))
  | 0x7d => need (f.l = false) .literal (need (f.d = 0) .zeroField (sreg f.a fun a => .ok (.wrsr (imm11 f) a)))
  | 0x7e => bare f .drainst
  | 0x7f => uaA f .termg
  | _ => .error .major

end Parse

/-- The instruction that a word and its literal encode, or the reason of R213 for which the word is not an instruction.
The literal is read only when the word's L is 1 (R206). -/
def decode (w lit : Word) : Except Reject Instr :=
  let f := fieldsOf w
  match (if f.set then Parse.uniform f lit else Parse.lane f lit) with
  | .error r => .error r
  | .ok i =>
    match i.flaw with
    | some r => .error r
    | none => .ok i

/-- Whether a literal word follows (R206). -/
def hasLiteral (w : Word) : Bool := w.getLsbD 23

/-- Little-endian words of a byte string, as the instruction store holds them (R205). -/
def wordAt (bs : List Byte) (k : Nat) : Word :=
  ((bs.getD (4 * k + 3) 0 ++ bs.getD (4 * k + 2) 0) ++ bs.getD (4 * k + 1) 0) ++ bs.getD (4 * k) 0

/-- Decode a byte string, with the bytes beyond it read as 0. -/
def decodeBytes (bs : List Byte) : Except Reject Instr := decode (wordAt bs 0) (wordAt bs 1)

/-- What the decoder reads from an instruction numbered as spec/opcode_table.json numbers bits: the first word is bits
[31:0], the literal word the 32 bits above; bits at and above `nbits` are zero. -/
def decodeTableWord (nbits w : Nat) : Option Instr :=
  let v := w % 2 ^ nbits
  (decode (BitVec.ofNat 32 v) (BitVec.ofNat 32 (v / 2 ^ 32))).toOption

/-! ### The encoder -/

namespace Encode

/-- The fields of a lane word without its last source. -/
def base (set : Bool) (major : BitVec 7) (me : BitVec 3) (d a : BitVec 6) : Fields :=
  { set, major, l := false, me, d, a, b := 0, s := 0 }

/-- A literal is appended and L is set (R206). -/
def Fields.withLit (f : Fields) (w : Word) : Fields × Word := ({ f with l := true }, w)

/-- An s register in a 6-bit field. -/
def sf (r : SReg) : BitVec 6 := 0#1 ++ r
/-- An s or m register in a 6-bit field (R207). -/
def xf : XReg → BitVec 6
  | .s r => sf r
  | .m r => 0b100#3 ++ r
/-- An awl register in a 6-bit field (R207). -/
def bf (k : BReg) : BitVec 6 := 0b1010#4 ++ k

/-- The last source of LA and LK. -/
def laneSrc (f : Fields) : LaneSrc → Fields × Word
  | .v r => ({ f with b := r }, 0)
  | .s r => ({ f with b := sf r, s := f.s ||| 2 }, 0)
  | .lit w => Fields.withLit f w

def vlit (f : Fields) : VLit → Fields × Word
  | .v r => ({ f with b := r }, 0)
  | .lit w => Fields.withLit f w

def usrc (f : Fields) : USrc → Fields × Word
  | .s r => ({ f with b := sf r }, 0)
  | .lit w => Fields.withLit f w

def xsrc (f : Fields) : XSrc → Fields × Word
  | .s r => ({ f with b := xf (.s r) }, 0)
  | .m r => ({ f with b := xf (.m r) }, 0)
  | .lit w => Fields.withLit f w

/-- Three bits over off5 in B and S (R208). -/
def hiOff (f : Fields) (h : BitVec 3) : Off → Fields × Word
  | .off5 o => ({ f with b := h ++ o.extractLsb' 2 3, s := o.extractLsb' 0 2 }, 0)
  | .lit w => Fields.withLit { f with b := h ++ 0#3 } w

/-- Scope, order and op in B and S (R208). -/
def sco (f : Fields) (sc : Scope) (o : Order) (op : BitVec 3) (off : TOff) : Fields × Word :=
  let g := { f with b := sc.code ++ o.code ++ op.extractLsb' 2 1, s := op.extractLsb' 0 2 }
  match off with
  | .zero => (g, 0)
  | .lit w => Fields.withLit g w

/-- 14 bits in A, B and S. -/
def low14 (f : Fields) (i : BitVec 14) : Fields :=
  { f with a := i.extractLsb' 8 6, b := i.extractLsb' 2 6, s := i.extractLsb' 0 2 }

/-- imm11 in E, B and S. -/
def imm11 (f : Fields) (i : BitVec 11) : Fields :=
  { f with me := i.extractLsb' 8 3, b := i.extractLsb' 2 6, s := i.extractLsb' 0 2 }

/-- Words without a literal. -/
def plain (f : Fields) : Fields × Word := (f, 0)

def la (major : BitVec 7) (m : MReg) (d a : VReg) (b : LaneSrc) : Fields × Word :=
  laneSrc (base false major m d a) b
def laU (major : BitVec 7) (m : MReg) (d a : VReg) (b : LaneSrc) : Fields × Word :=
  laneSrc { base false major m d a with s := 1 } b
def la1 (major : BitVec 7) (m : MReg) (d a : VReg) : Fields × Word := plain (base false major m d a)
def laS (major : BitVec 7) (m : MReg) (d a : VReg) (s : BitVec 2) : Fields × Word :=
  plain { base false major m d a with s := s }
def lm (major : BitVec 7) (m : MReg) (d a : VReg) (w : Width) (o : Off) : Fields × Word :=
  hiOff (base false major m d a) w.code o
def lt (major : BitVec 7) (m : MReg) (d a : VReg) (sc : Scope) (o : Order) (op : BitVec 3) (off : TOff) :
    Fields × Word := sco (base false major m d a) sc o op off
def lx (row : BitVec 4) (m : MReg) (f : BFmt) (d a b : VReg) (bsel : BitVec 2) : Fields :=
  { base false (row ++ f.code) m d a with b := b, s := bsel }
def ua (major : BitVec 7) (fn : BitVec 5) (d a : SReg) (b : USrc) : Fields × Word :=
  usrc { base true major (fn.extractLsb' 2 3) (sf d) (sf a) with s := fn.extractLsb' 0 2 } b
def logic (major : BitVec 7) (d a : XReg) (b : XSrc) : Fields × Word := xsrc (base true major 0 (xf d) (xf a)) b
def bare (major : BitVec 7) : Fields × Word := plain (base true major 0 0 0)
def ui (major : BitVec 7) (d a : SReg) (i : BitVec 11) : Fields × Word :=
  plain (imm11 (base true major 0 (sf d) (sf a)) i)
def uiRaw (major : BitVec 7) (d a : BitVec 6) (i : BitVec 11) : Fields × Word := plain (imm11 (base true major 0 d a) i)
def ub (major : BitVec 7) (e : BitVec 3) (d : BitVec 6) (t : BitVec 14) : Fields × Word :=
  plain (low14 (base true major e d 0) t)
def dA (major : BitVec 7) (d a : BitVec 6) : Fields × Word := plain (base true major 0 d a)
def dAB (major : BitVec 7) (d a b : BitVec 6) : Fields × Word := plain { base true major 0 d a with b := b }
def ov (major : BitVec 7) (d : SReg) : OvSrc → Fields × Word
  | .reg a => plain (base true major 0 (sf d) (sf a))
  | .lit w => Fields.withLit (base true major 0 (sf d) 0) w
def um (major : BitVec 7) (d a : SReg) (w : Width) (o : Off) : Fields × Word :=
  hiOff (base true major 0 (sf d) (sf a)) w.code o
def ut (major : BitVec 7) (d a : SReg) (sc : Scope) (o : Order) (op : BitVec 3) (off : TOff) : Fields × Word :=
  sco (base true major 0 (sf d) (sf a)) sc o op off
def ue (major : BitVec 7) (code : BitVec 6) (e : EngOps) : Fields × Word :=
  usrc { base true major e.scope.code code (sf e.a) with s := BitVec.ofBool e.acq ++ BitVec.ofBool e.rel } e.b

/-- The atomic majors: five fixed bits, the space and the width of the data (R211). -/
def atomMajor (row : BitVec 5) (sp : AtomSpace) : BitVec 7 :=
  row ++ (BitVec.ofBool sp.store ++ BitVec.ofBool sp.wide)

end Encode

open Encode in
/-- The fields of an instruction and its literal word, which is 0 when the word has none; none for an event. -/
def encodeFields : Instr → Option (Fields × Word)
  | .addLane m d a b => some (la 0x01 m d a b)
  | .subLane m d a b => some (la 0x02 m d a b)
  | .mulLane m d a b => some (la 0x03 m d a b)
  | .mulhiLane m d a b => some (la 0x04 m d a b)
  | .mulhuLane m d a b => some (laU 0x04 m d a b)
  | .mad m d a b => some (la 0x05 m d a b)
  | .abs m d a => some (la1 0x06 m d a)
  | .neg m d a => some (la1 0x07 m d a)
  | .andLane m d a b => some (la 0x08 m d a b)
  | .orLane m d a b => some (la 0x09 m d a b)
  | .xorLane m d a b => some (la 0x0a m d a b)
  | .shlLane m d a b => some (la 0x0b m d a b)
  | .shrLane m d a b => some (la 0x0c m d a b)
  | .sarLane m d a b => some (la 0x0d m d a b)
  | .minLane m d a b => some (la 0x0e m d a b)
  | .minuLane m d a b => some (laU 0x0e m d a b)
  | .maxLane m d a b => some (la 0x0f m d a b)
  | .maxuLane m d a b => some (laU 0x0f m d a b)
  | .cmpLane m cc md a b => some (laneSrc (base false 0x10 m (cc.code ++ md) a) b)
  | .selLane m d a b => some (la 0x11 m d a b)
  | .movLane m d a => some (la1 0x12 m d a)
  | .moviLane m d i => some (match i with
    | .short i => plain (low14 (base false 0x13 m d 0) i)
    | .lit w => Fields.withLit (base false 0x13 m d 0) w)
  | .clzLane m d a => some (la1 0x14 m d a)
  | .popcLane m d a => some (la1 0x15 m d a)
  | .bfxLane m d a b => some (la 0x16 m d a b)
  | .bfiLane m d a b => some (la 0x17 m d a b)
  | .fadd m d a b => some (la 0x20 m d a b)
  | .fsub m d a b => some (la 0x21 m d a b)
  | .fmul m d a b => some (la 0x22 m d a b)
  | .ffma m d a b => some (la 0x23 m d a b)
  | .fmin m d a b => some (la 0x24 m d a b)
  | .fmax m d a b => some (la 0x25 m d a b)
  | .fcmp m cc md a b => some (laneSrc (base false 0x26 m (cc.code ++ md) a) b)
  | .frcp m d a => some (la1 0x27 m d a)
  | .frsq m d a => some (la1 0x28 m d a)
  | .fex2 m d a => some (la1 0x29 m d a)
  | .flg2 m d a => some (la1 0x2a m d a)
  | .fsqrt m d a => some (la1 0x2b m d a)
  | .fdiv m d a b => some (la 0x2c m d a b)
  | .hadd2 m d a b => some (la 0x30 m d a b)
  | .hmul2 m d a b => some (la 0x31 m d a b)
  | .hfma2 m d a b => some (la 0x32 m d a b)
  | .hadd2Bf m d a b => some (la 0x34 m d a b)
  | .hmul2Bf m d a b => some (la 0x35 m d a b)
  | .hfma2Bf m d a b => some (la 0x36 m d a b)
  | .fcvt m d a dst src r => some (match r with
    | .field rm => plain { base false 0x38 m d a with b := dst.code ++ src.code, s := rm }
    | .lit q => Fields.withLit { base false 0x38 m d a with b := dst.code ++ src.code } q.word)
  | .shfl m mode d a b => some (vlit { base false 0x40 m d a with s := mode.code } b)
  | .vote m mode d a => some (laS 0x41 m d a mode.code)
  | .redg m mode d a => some (laS 0x42 m d a mode.code)
  | .scan m mode d a => some (laS 0x43 m d a mode.code)
  | .topk m nz d a k => some (match k with
    | .imm i => plain { base false 0x44 m d a with b := sf i, s := BitVec.ofBool nz ++ 1#1 }
    | .reg r => plain { base false 0x44 m d a with b := sf r, s := BitVec.ofBool nz ++ 0#1 })
  | .raysendLane m a => some (la1 0x48 m 0 a)
  | .spawnLane m a b => some (vlit (base false 0x49 m 0 a) b)
  | .qapp m d a sc o off => some (lt 0x4a m d a sc o 0 off)
  | .pref m kind a off => some (hiOff (base false 0x4b m kind.code a) 0 off)
  | .ld m d a w off => some (lm 0x50 m d a w off)
  | .st m d a w off => some (lm 0x51 m d a w off)
  | .ldlLane m d a w off => some (lm 0x52 m d a w off)
  | .stlLane m d a w off => some (lm 0x53 m d a w off)
  | .ldp m d a w off => some (lm 0x54 m d a w off)
  | .stp m d a w off => some (lm 0x55 m d a w off)
  | .ldb m d k nm1 sx => some (plain { base false 0x56 m d (k ++ 0#4) with b := nm1, s := 0#1 ++ BitVec.ofBool sx })
  | .stb m d k nm1 => some (plain { base false 0x57 m d (k ++ 0#4) with b := nm1 })
  | .atomLane m sp op d a sc o off => some (lt (atomMajor 0x16 sp) m d a sc o op.code off)
  | .casLane m sp d a sc o off => some (lt (atomMajor 0x17 sp) m d a sc o 0 off)
  | .atomExchLane m sp d a sc o off => some (lt (atomMajor 0x17 sp) m d a sc o 1 off)
  | .bdot m f d a b bsel => some (plain (lx 0xc m f d a b bsel))
  | .bscl m f d a b bsel => some (plain (lx 0xd m f d a b bsel))
  | .qnt m f d a b bsel r => some (match r with
    | none => plain (lx 0xe m f d a b bsel)
    | some q => Fields.withLit (lx 0xe m f d a b bsel) q.word)
  | .deq m f d a b bsel => some (plain (lx 0xf m f d a b bsel))
  | .nop => some (bare 0x00)
  | .addUniform d a b => some (ua 0x01 0 d a b)
  | .subUniform d a b => some (ua 0x02 0 d a b)
  | .mulUniform d a b => some (ua 0x03 0 d a b)
  | .mulhiUniform d a b => some (ua 0x04 0 d a b)
  | .mulhuUniform d a b => some (ua 0x04 1 d a b)
  | .div d a b => some (ua 0x05 0 d a b)
  | .divu d a b => some (ua 0x05 1 d a b)
  | .rem d a b => some (ua 0x06 0 d a b)
  | .remu d a b => some (ua 0x06 1 d a b)
  | .andUniform d a b => some (logic 0x08 d a b)
  | .orUniform d a b => some (logic 0x09 d a b)
  | .xorUniform d a b => some (logic 0x0a d a b)
  | .shlUniform d a b => some (ua 0x0b 0 d a b)
  | .shrUniform d a b => some (ua 0x0c 0 d a b)
  | .sarUniform d a b => some (ua 0x0d 0 d a b)
  | .minUniform d a b => some (ua 0x0e 0 d a b)
  | .minuUniform d a b => some (ua 0x0e 1 d a b)
  | .maxUniform d a b => some (ua 0x0f 0 d a b)
  | .maxuUniform d a b => some (ua 0x0f 1 d a b)
  | .cmpUniform cc d a b => some (ua 0x10 (cc.code ++ 0#2) d a b)
  | .selUniform d a b => some (ua 0x11 0 d a b)
  | .movUniform f => some (match f with
    | .reg d a => dA 0x12 (xf d) (xf a)
    | .toAwl k p => dA 0x12 (bf k) (sf p)
    | .fromAwl p k => dA 0x12 (sf p) (bf k))
  | .moviUniform d i => some (match i with
    | .short i => plain (low14 (base true 0x13 (i.extractLsb' 14 3) (sf d) 0) (i.extractLsb' 0 14))
    | .lit w => Fields.withLit (base true 0x13 0 (sf d) 0) w)
  | .clzUniform d a => some (dA 0x14 (sf d) (xf a))
  | .popcUniform d a => some (dA 0x15 (sf d) (xf a))
  | .bfxUniform d a b => some (ua 0x16 0 d a b)
  | .bfiUniform d a b => some (ua 0x17 0 d a b)
  | .rdlane d a b => some (usrc (base true 0x18 0 (sf d) a) b)
  | .movhi d i => some (plain (low14 (base true 0x19 (0#1 ++ i.extractLsb' 14 2) (sf d) 0) (i.extractLsb' 0 14)))
  | .addi d a i => some (ui 0x21 d a i)
  | .andi d a i => some (ui 0x28 d a i)
  | .ori d a i => some (ui 0x29 d a i)
  | .xori d a i => some (ui 0x2a d a i)
  | .shli d a i => some (ui 0x2b d a i)
  | .shri d a i => some (ui 0x2c d a i)
  | .sari d a i => some (ui 0x2d d a i)
  | .br t => some (ub 0x30 0 0 t)
  | .brc cc d a t => some (Fields.withLit (base true 0x31 cc.code (sf d) (sf a)) (0#18 ++ t))
  | .brz d t => some (ub 0x32 0 (sf d) t)
  | .brnz d t => some (ub 0x33 0 (sf d) t)
  | .brm c k t => some (ub 0x34 k (0#4 ++ c.code) t)
  | .jmpr a => some (dA 0x35 0 (sf a))
  | .call t => some (ub 0x36 0 0 t)
  | .callr a => some (dA 0x37 0 (sf a))
  | .ret => some (bare 0x38)
  | .callo a => some (dA 0x39 0 (sf a))
  | .calloLiteral t => some (Fields.withLit (base true 0x39 0 0 0) t)
  | .exit => some (bare 0x3a)
  | .elect d => some (dA 0x3b (sf d) 0)
  | .ovld d id => some (ov 0x40 d id)
  | .ovwait a => some (dA 0x41 0 (sf a))
  | .ovrel a => some (dA 0x42 0 (sf a))
  | .ovqry d id => some (ov 0x43 d id)
  | .bara blk d a => some (plain { base true 0x44 0 (sf d) (sf a) with s := 0#1 ++ BitVec.ofBool blk })
  | .barw blk a b => some (plain { base true 0x45 0 0 (sf a) with b := sf b, s := 0#1 ++ BitVec.ofBool blk })
  | .fence sc => some (plain (base true 0x46 sc.code 0 0))
  | .waitc sc a b => some (usrc (base true 0x47 sc.code 0 (sf a)) b)
  | .yield => some (bare 0x48)
  | .xacq k => some (plain { base true 0x49 0 0 0 with s := k })
  | .xrel k => some (plain { base true 0x4a 0 0 0 with s := k })
  | .halt => some (bare 0x4c)
  | .ctlsend a b => some (dAB 0x4d 0 (sf a) (sf b))
  | .ctlrecv d => some (dA 0x4e (sf d) 0)
  | .lds d a w off => some (um 0x50 d a w off)
  | .sts d a w off => some (um 0x51 d a w off)
  | .ldlUniform d a w off => some (um 0x52 d a w off)
  | .stlUniform d a w off => some (um 0x53 d a w off)
  | .atomUniform sp op d a sc o off => some (ut (atomMajor 0x16 sp) d a sc o op.code off)
  | .casUniform sp d a sc o off => some (ut (atomMajor 0x17 sp) d a sc o 0 off)
  | .atomExchUniform sp d a sc o off => some (ut (atomMajor 0x17 sp) d a sc o 1 off)
  | .cpy e => some (ue 0x60 0 e)
  | .cpysl e => some (ue 0x61 0 e)
  | .chain e => some (ue 0x62 0 e)
  | .cbwaitProd d a n => some (ua 0x63 0 d a n)
  | .cbwaitCons d a n => some (ua 0x63 1 d a n)
  | .cbrelProd a n => some (ua 0x64 0 0 a n)
  | .cbrelCons a n => some (ua 0x64 1 0 a n)
  | .get e => some (ue 0x65 0 e)
  | .put e => some (ue 0x66 0 e)
  | .bagq e => some (ue 0x67 0 e)
  | .mma c e => some (ue 0x68 c.code e)
  | .accld e => some (ue 0x69 0 e)
  | .accst e => some (ue 0x6a 0 e)
  | .rfence sc => some (plain (base true 0x6b sc.code 0 0))
  | .raysendUniform a => some (dA 0x70 0 (sf a))
  | .rayrecv d => some (dA 0x71 (sf d) 0)
  | .rayfwd n a b => some (dAB 0x72 (0#3 ++ n) (sf a) (sf b))
  | .hitsend a b => some (dAB 0x73 0 (sf a) (sf b))
  | .rayend b => some (dAB 0x74 0 0 (sf b))
  | .boxt d a b => some (dAB 0x75 (sf d) (sf a) (sf b))
  | .trit d a b => some (dAB 0x76 (sf d) (sf a) (sf b))
  | .rxf d a b => some (dAB 0x77 (sf d) (sf a) (sf b))
  | .spawnUniform a b => some (usrc (base true 0x78 0 0 (sf a)) b)
  | .collAg e => some (ue 0x79 0 e)
  | .collRs e => some (ue 0x79 1 e)
  | .collA2a e => some (ue 0x79 2 e)
  | .collBar e => some (ue 0x79 3 e)
  | .trap code => some (uiRaw 0x7a 0 0 code)
  | .eret => some (bare 0x7b)
  | .rdsr d n => some (uiRaw 0x7c (sf d) 0 n)
  | .wrsr n a => some (uiRaw 0x7d 0 (sf a) n)
  | .drainst => some (bare 0x7e)
  | .termg a => some (dA 0x7f 0 (sf a))
  | .undefinedEncoding .. | .seedWrite .. | .arithWrite .. | .storeMapWrite .. | .srpop .. | .gresume .. | .sfpop ..
  | .registerWrite .. | .launchQueueDoorbell .. | .launchQueueEnable .. | .launchRecordFetch .. | .teamInitRead ..
  | .blockDistribution .. | .placementOpportunity .. | .granuleReclaim .. | .reservationTimer .. | .budgetExpiry ..
  | .teamSave .. | .groupEnd .. | .stageRetire .. | .itemEnqueue .. | .stageGovernorPeriod .. | .clickerTake ..
  | .shadeWordRead .. | .clickWaitExpiry .. | .formedGroupLaunch .. | .xacqTimeout .. | .xacqDeadlockDetect ..
  | .barrierNotify .. | .boundaryTrapTake .. | .supervisorTrap .. | .translationRequest .. | .atsCompletion ..
  | .atsTimeout .. | .priResponse .. | .operandLogReplay .. | .priDisable .. | .atsInvalidation ..
  | .invalidationComplete .. | .contextPasidAssign .. | .dirtyLogMerge .. | .bitmapCasCompletion ..
  | .bitmapEnableWrite .. | .harvest .. | .harvestComplete | .retireScene .. | .sceneRetireComplete ..
  | .bootFromStaging | .setPoolSize .. | .hbmSplitWrite .. | .hbmSplitRelocateDone | .storeBufferDrain ..
  | .sliceRequest .. | .sliceFill .. | .capacityWriteAccept .. | .loadReply .. | .l1Fill ..
  | .coreStoreApertureAccess .. | .remoteSubbyteStore .. | .patrolScrub .. | .overlayPlacement ..
  | .overlayLoadComplete .. | .overlayLoadFail .. | .overlayExhaustion .. | .quotaRecheck .. | .rayArrival ..
  | .directoryRayArrival .. | .indexEntryRead .. | .placementRequest .. | .slotDrained .. | .treeletFillComplete ..
  | .filled .. | .fillFailed .. | .leaving .. | .drained .. | .heatReport .. | .heatDecay .. | .mapUpdate ..
  | .spillRefill .. | .poolRebalance .. | .hitArrival .. | .endNotice .. | .sendexitArrival ..
  | .capacityLinkTraining .. | .capacityReplayFail .. | .capacityRetrainTimeout .. | .tableRegister ..
  | .bagQueryExecute .. | .bagQueryReply .. | .windowArm .. | .windowDisarm .. | .armReceive .. | .armReply ..
  | .reflectedStoreSequence .. | .reflectedCopyArrival .. | .copyAcknowledge .. | .nack ..
  | .pathUnreachableTimeout .. | .rfenceMarker .. | .engineTakeCommand .. | .engineSelfWait .. | .copyStep ..
  | .transferRecord .. | .copyComplete .. | .mmaRow .. | .matrixCommandComplete .. | .multicastJoin ..
  | .multicastTimeout .. | .collJoin .. | .collTimeout .. | .collComplete .. | .peerAccess .. | .peerWaitTimeout ..
  | .getPutComplete .. | .encoderFrameStart .. | .encoderFrameDone .. | .encoderStreamConfig .. | .watchdogTrip ..
  | .controlMessageArrival .. | .controlMessageRetry .. | .mailboxSend .. | .mailboxArrival .. | .hello ..
  | .attestation .. | .flitReceive .. | .nak .. | .roundTripTimerExpiry .. | .linkDown .. | .linkTrainingComplete ..
  | .weltRetrainTimeout .. | .reachLinkBroken .. | .reachRetrain .. | .outputArbitration .. | .hedgeGovernorSample ..
  | .hedgeChangeComplete .. | .hedgeCtlWrite .. | .powerAlarmRaise .. | .powerAlarmClear | .thermalTrip ..
  | .fatalError .. | .crashWriteTimeout | .fundamentalReset .. | .secondaryBusReset .. | .disc .. | .report ..
  | .img .. | .mapDone .. | .booted | .bootTimerExpiry | .imageDeliveryTimeout | .hostCompletionTimeout ..
  | .priReenable .. | .capacityLinkReenable .. | .hostRegisterRead .. => none

/-- The words of an instruction: the instruction word, and its literal word when L is 1 (R206). Events have none. -/
def encode (i : Instr) : List Word :=
  match encodeFields i with
  | none => []
  | some (f, lit) => if f.l then [f.word, lit] else [f.word]

end Sys2Proof
end

