-- ==== Sys2Proof/Config.lean ====
section
/-! DEFINITION. What an implementation fixes and what the spec leaves open: the free values (opaque, with no body), and
the figures of the products (R1, R2). -/

namespace Sys2Proof.Config

/-- FRCP where R259 states a bound and no value: for operands of one sign, a monotonic function of their magnitudes. -/
opaque frcp : Bool → Nat →o Nat
/-- FRSQ, the same (R259). -/
opaque frsq : Bool → Nat →o Nat
/-- FEX2, the same (R259). -/
opaque fex2 : Bool → Nat →o Nat
/-- FLG2, the same for operands below and above 1 (R259). -/
opaque flg2 : Bool → Nat →o Nat
/-- The set of the die translation cache for a context and a page number: "hash" without a formula (R16). -/
opaque dieSet : Nat → Nat → Nat
/-- The core of another package that a packet goes to, for the device and for what names its unit there: the spec does not give this
package the layout of that one (R369). -/
opaque farCore : Nat → Nat → Nat
/-- A fresh free word, by the counter `State.free`. -/
opaque freeWord : Nat → Word

end Sys2Proof.Config

namespace Sys2Proof

/-- The products (R1, `dev_ident` product of R395). -/
inductive Product
  | rilide16 | rilide64 | module64
deriving DecidableEq, Repr

/-- Dies in a row of the package (R1). -/
def Product.dieCols : Product → Nat
  | .rilide16 => 4
  | .rilide64 | .module64 => 8

/-- Dies of the package (R1). -/
def Product.dies : Product → Nat
  | .rilide16 => 16
  | .rilide64 | .module64 => 64

/-- Cores in a row of the lattice (R368). -/
def Product.width (p : Product) : Nat := 4 * p.dieCols

/-- Physical cores of the package (R1). -/
def Product.cores (p : Product) : Nat := p.width * p.width

/-- Populated HBM in bytes: 24 GiB a die (R1, R11). -/
def Product.hbmBytes (p : Product) : Nat := p.dies * (24 * 2 ^ 30)

/-- Host links (R1). -/
def Product.links : Product → Nat
  | .rilide16 => 1
  | .rilide64 | .module64 => 2

/-- Reach ports (R1). -/
def Product.reachPorts : Product → Nat
  | .rilide16 => 16
  | .rilide64 | .module64 => 32

/-- Bytes of the capacity tier (R1, R107). -/
def Product.capBytes : Product → Nat
  | .rilide16 | .rilide64 => 0
  | .module64 => 16 * 2 ^ 40

/-- The nominal power limit in W, the reset value of `pwr_ctl` limit (R1, R398). -/
def Product.watts : Product → Nat
  | .rilide16 => 2300
  | .rilide64 => 9200
  | .module64 => 11500

/-- The code of `dev_ident` product (R395). -/
def Product.code : Product → Nat
  | .rilide16 => 0
  | .rilide64 => 1
  | .module64 => 2

/-- Chunks of the spill pool (R105). -/
def Product.spillChunks : Product → Nat
  | .rilide16 => 1792
  | .rilide64 | .module64 => 6656

/-- Bytes of the home save table: one 64-byte record for each core and home slot (R317). -/
def Product.saveTable (p : Product) : Nat := 64 * 1024 * p.cores

end Sys2Proof
end

