-- ==== Sys2Proof/Machine/State.lean ====
section
/-! DEFINITION. The state of one Rilide package: plain data, a structure for each unit, and the state after reset. Numbers
name places: base sets 0 to 511, traversal thread t as 512 + t, and the supervisor thread as 576. -/

namespace Sys2Proof.Machine

/-- Why the machine stops. -/
inductive Fault
  /-- Raised by `exec` of an instruction word when `State.cur` names no resident thread: no hardware case, since only the
  issue of R162 and R163 performs a word. Safe: the machine stops where the hardware has no behaviour. -/
  | noIssuer
deriving DecidableEq, Repr

/-- Why an instruction has no meaning. -/
inductive Refusal
  /-- Raised by an arm of `exec` for a row of the opcode table whose meaning is not written. Safe. -/
  | notModelled (mnemonic : String)
deriving DecidableEq, Repr

/-- Sparse storage: (address, cell) pairs, addresses strictly rising, no cell equal to 0, the value of an unlisted one. -/
abbrev Mem (n : Nat) := List (Nat × BitVec n)
/-- Bytes by address. -/
abbrev Memory := List Host.Cell
/-- Records by number, numbers rising. -/
abbrev AMap (α : Type) := List (Nat × α)

/-! ### Threads and groups -/

/-- A trap that is pending or posted (R339, R340). -/
structure Trap where
  cause : Nat
  code : Nat := 0
  pc : Word := 0
  info : Word := 0
  addrL : Word := 0
  addrH : Word := 0
  lanes : Word := 0
  desc : Word := 0
  /-- Of a failed load or atomic: its number, whose destination is freed when the trap is taken (R295). -/
  op : Option Nat := none
deriving DecidableEq, Repr

/-- Where a thread parked on a fetch met the absent overlay (R71). -/
inductive ParkAt
  /-- A CALLO at this logical PC, whose link push is undone when the load fails. -/
  | callo (pc : Word)
  | ret
  | start
  /-- Entry to the handler: a failure escalates the trap being entered. -/
  | trapEntry
deriving DecidableEq, Repr

/-- What a thread that is not ready waits for (R160). -/
inductive Wait
  | barrier (addr : Nat)
  | blockBarrier (va : Nat)
  | counter (addr : Nat)
  | xacq
  | ovwait (id : Nat)
  | ring (addr : Nat) (cons : Bool)
  | park (id : Nat) (at_ : ParkAt)
  /-- The load of the thread's overlay has failed, and its group has not taken this precise trap yet (R66, R71). -/
  | failed (t : Trap)
  | raysend
  | spawn
  | rayrecv
  | halt
  | ctlsend
  | ctlrecv
  /-- Stores, releases and fences that wait for the store buffer to drain. -/
  | drain
  /-- A translation of an access made by the issuing bundle itself. -/
  | xlate
  /-- An acquire whose access, of this number, has not taken its value; the thread stands behind it (R140). -/
  | order (op : Nat)
  /-- A free engine queue slot (R305). -/
  | engine
  /-- YIELD: the groups that the pipe has still to serve, and the clock at which the wait ends (R242). -/
  | yield (who : List Nat) (until_ : Nat)
deriving DecidableEq, Repr

/-- One thread of a group (R156, R232, R342). -/
structure Thread where
  pc : Word := 0
  /-- Link entries 0 to 3; deeper ones lie in the lane private window (R232). -/
  link : List Word := [0, 0, 0, 0]
  depth : Nat := 0
  live : Bool := false
  held : Bool := false
  victim : Bool := false
  wait : Option Wait := none
  /-- Issues of the group's lane pipe, and of its uniform pipe, passed since the thread became ready (R162). -/
  laneWait : Nat := 0
  uniWait : Nat := 0
deriving DecidableEq, Repr

/-- The trap registers of a group (R341, R446). -/
structure TrapRegs where
  tvec : Word := 0
  inHandler : Bool := false
  tcause : Word := 0
  tpc : Word := 0
  tinfo : Word := 0
  taddrl : Word := 0
  taddrh : Word := 0
  tlanes : Word := 0
  ttag : Word := 0
  tdesc : Word := 0
deriving DecidableEq, Repr

/-- The ray a traversal thread holds (R319). -/
structure HeldRay where
  base : Nat
  home : Word
  slot : Option Nat
deriving DecidableEq, Repr

/-- What an instruction that waits has read when it issued (R165): the s registers, masks and awl registers of its group, and the
store-buffer entries, accesses and reflected stores below which everything is earlier than it. -/
structure Latch where
  sregs : List Word
  masks : List Word
  awl : List DWord
  sb : Nat
  op : Nat
  rs : Nat
deriving DecidableEq, Repr

/-- A bundle whose instruction has issued and waits (R160): it goes on from there, without another issue. -/
structure Issued where
  lanes : Word
  pc : Word
  word : Word
  lit : Word
  latch : Latch
deriving DecidableEq, Repr

/-- A group: 32 lanes, or one traversal thread, or the supervisor thread (R156, R167, R345). -/
structure Group where
  /-- Names this group among all groups of the package, and stays with it through a save (the model's own). -/
  uid : Nat := 0
  ctx : Nat := 0
  /-- The team's number on its core. -/
  team : Nat := 0
  /-- SR.TID with lane 0 (R157). -/
  tid : Word := 0
  block : Word := 0
  threads : List Thread := []
  /-- The launch mask m0 (R164). -/
  m0 : Word := 0
  /-- m1 to m7. -/
  masks : List Word := [0, 0, 0, 0, 0, 0, 0]
  /-- b0 to b3 (R51). -/
  awl : List DWord := [0, 0, 0, 0]
  /-- Chunks of ranges 1 to 3 (R30). -/
  chunks : List (Option Nat) := [none, none, none]
  arith : Word := 0
  seed : Word := 0
  /-- G(0) to G(31) (R251). -/
  gens : List Word := []
  emul : List Word := [0, 0, 0, 0]
  trap : TrapRegs := {}
  pending : List Trap := []
  /-- Escalated: held until SR.GRESUME or TERMG (R344). -/
  escalated : Bool := false
  eqsel : Word := 0
  /-- (overlay ID, count) (R69). -/
  pins : List (Nat × Nat) := []
  /-- (barrier identity, generation), latest written first (R175). -/
  arrivals : List (Nat × Nat) := []
  /-- Registers that a scoreboard lock holds: v 0 to 63, s 64 to 95 (R160). -/
  locks : List Nat := []
  /-- Bundles that wait at an instruction they have issued. -/
  issued : List Issued := []
  laneIssues : Nat := 0
  uniIssues : Nat := 0
  lastLane : Nat := 0
  lastUni : Nat := 0
  /-- Group end under way: every thread has ended, retirement pending (R235). -/
  ending : Bool := false
  startCc : Nat := 0
  ray : Option HeldRay := none
deriving DecidableEq, Repr

/-- The W record of a team (R290). -/
structure WRecord where
  src : Nat
  addr : Nat
  scales : Nat
  km1 : Nat
  colsm1 : Nat
deriving DecidableEq, Repr

/-- Team kinds (R182): grid, traversal, stage. -/
inductive TeamKind
  | grid | traversal | stage
deriving DecidableEq, Repr

/-- A team resident on a core (R31, R35, R40, R183, R194). -/
structure Team where
  kind : TeamKind := .grid
  ctx : Nat := 0
  queue : Nat := 0
  launch : Nat := 0
  block : Nat := 0
  index : Nat := 0
  /-- G, the team's group count; for a stage team the largest number at once (R196). -/
  groups : Nat := 0
  decl : DWord := 0
  base : Nat := 0
  size : Nat := 0
  bankBase : Nat := 0
  held : Nat := 0
  entry : Word := 0
  tag : Word := 0
  args : List Word := []
  blockCount : Word := 0
  stage : Nat := 0
  /-- Groups that have retired. -/
  retired : Nat := 0
  /-- Physical band of each team-relative band (R280). -/
  bands : AMap Nat := []
  wrec : Option WRecord := none
  /-- The team being saved (R356). -/
  saving : Bool := false
  /-- Base sets that the team holds until it retires (R187). -/
  sets : List Nat := []
deriving DecidableEq, Repr

/-! ### Translation (R16 to R28) -/

/-- The apertures of R11, and what lies outside them. -/
inductive Ap
  | hbm | store | window | cap | control | outside
deriving DecidableEq, Repr

/-- A translation entry (R16). -/
structure TEntry where
  ctx : Nat
  /-- Virtual address of the page. -/
  page : Nat
  size : Nat
  read : Bool
  write : Bool
  ap : Ap
  /-- Offset of the page in its aperture. -/
  off : Nat
  dirty : Bool
  /-- The host link whose copy of the aperture the physical page lies in (R11). -/
  link : Nat := 0
deriving DecidableEq, Repr

/-- Who waits for a translation: an event to perform again, or the threads of a group. -/
inductive Waiter
  | ev (i : Instr)
  | thr (core gid : Nat)
  /-- An operand log entry of a saved context, by its own number (R360). -/
  | saved (n : Nat)
deriving DecidableEq, Repr

/-- An outstanding ATS Translation Request (R17). -/
structure Miss where
  ctx : Nat
  page : Nat
  write : Bool
  /-- Who waits, whether for a write, and whether as a hint (R28). -/
  waiters : List (Waiter × Bool × Bool)
  /-- The fault table entry whose page request preceded this repeated request (R19). -/
  fault : Option Nat := none
  /-- Ranges invalidated since the request was sent: a completion that covers one is requested again (R20). -/
  stale : List (Nat × Nat) := []
deriving DecidableEq, Repr

/-- A verdict that a waiter finds when it is performed again (R18). -/
structure XFail where
  who : Waiter
  ctx : Nat
  page : Nat
  /-- PRI response code, 0xff for a time-out, 0xfe when PRI was disabled; 0x100 for a dropped hint. -/
  code : Nat
deriving DecidableEq, Repr

/-- State of a fault table entry (R354). -/
inductive FaultState
  | outstanding | success | failed
deriving DecidableEq, Repr

/-- A fault table entry (R354). -/
structure FaultEntry where
  state : FaultState := .outstanding
  write : Bool := false
  source : Nat := 0
  ctx : Nat := 0
  page : Nat := 0
  waiters : List Waiter := []
  response : Nat := 0
  prg : Nat := 0
  /-- Page requests that are outstanding in its group (R19). -/
  requests : Nat := 1
deriving DecidableEq, Repr

/-! ### Memory instructions in progress -/

/-- A read-modify-write operation (R298). -/
inductive Rmw
  | op (o : AtomOp)
  | exch
  | cas
deriving DecidableEq, Repr

/-- Kinds of outstanding lane or uniform access. -/
inductive MemKind
  | load (bytes : Nat) (sx : Bool)
  | atom (o : Rmw) (bytes : Nat) (scope : Scope) (order : Order)
  | qapp (scope : Scope) (order : Order)
  | pref (kind : PrefKind)
deriving DecidableEq, Repr

/-- One lane's access of an outstanding instruction. -/
structure LaneAcc where
  lane : Nat
  va : Nat
  /-- The operand: data, or the compare value and the swap value. -/
  x : List Byte := []
  done : Bool := false
  data : List Byte := []
  /-- Where the access goes once translated. -/
  ap : Ap := .hbm
  off : Nat := 0
  /-- Its translation has been used, so that it stands behind the page's entry (R20), and the host link whose copy of the
  aperture the translation named. -/
  translated : Bool := false
  link : Nat := 0
  /-- Bytes taken from the group's stores that still stand in the store buffer, by position (R135). -/
  fwd : List (Nat × Byte) := []
  /-- The boundary trap that ends the access (R295). -/
  trap : Option Trap := none
deriving DecidableEq, Repr

/-- An outstanding load, atomic or append (R295, R299, R301). -/
structure MemOp where
  uid : Nat
  gid : Nat
  ctx : Nat
  pc : Word
  word : Word
  lit : Word
  kind : MemKind
  /-- First destination register, in the numbering of `Group.locks`. -/
  dst : Nat
  regs : Nat
  uniform : Bool
  lanes : List LaneAcc
  /-- Lanes of the instruction: the victims of its boundary trap (R342). -/
  victims : Word := 0
  trapped : Bool := false
  /-- Its trap has been taken, and the lock on its destination freed (R295). -/
  unlocked : Bool := false
  /-- Store-buffer entries below this number precede the instruction. -/
  mark : Nat := 0
deriving DecidableEq, Repr

/-- A byte of a store with the lane it comes from. -/
structure SByte where
  va : Nat
  val : Byte
  lane : Nat
  sent : Bool := false
  /-- Of a byte on its way under its place in an aperture: the virtual address it was stored to. -/
  org : Nat := 0
deriving DecidableEq, Repr

/-- A store-buffer entry: one group's bytes for one 48-byte sector of virtual addresses (R296). -/
structure SbEntry where
  pipe : Nat
  uid : Nat
  gid : Nat
  ctx : Nat
  pc : Word
  width : Nat
  uniform : Bool
  bytes : List SByte
  /-- Lanes of the store instruction: the victims of its trap (R342). -/
  victims : Word := 0
  /-- Threads of the group that have read a byte of the entry before it left the buffer (R139). -/
  seen : Word := 0
  /-- Loads and atomics below this number precede the store (R136). -/
  opMark : Nat := 0
  /-- The first entry of the store instruction. -/
  instr : Nat := 0
  /-- Reserved by a QAPP whose header read-modify-write is outstanding (R301). -/
  ticket : Option Nat := none
  /-- Sectors of memory that hold bytes which left the buffer and are not accepted (R135). -/
  sectors : List (Ap × Nat) := []
  /-- Store-fault records that wait for room in the queue: page, trap and record (R351). -/
  faults : List (Nat × Trap × List Byte) := []
deriving DecidableEq, Repr

/-- A store-fault record of a group, in the 48-byte layout of R350. -/
structure SfRecord where
  uid : Nat
  gid : Nat
  bytes : List Byte
deriving DecidableEq, Repr

/-- An operand log entry and the waiter it replays (R348). -/
structure OpLog where
  op : Nat
  lanes : Word
  page : Nat
  ft : Nat
deriving DecidableEq, Repr

/-- A line of the first-level cache (R43): way is the lent granule, and `line` the host physical address of its first byte. Its
bytes lie in the granule (R42). -/
structure L1Line where
  way : Nat
  set : Nat
  ctx : Nat
  line : Nat
  valid : List Bool
deriving DecidableEq, Repr

/-- A fill of the first-level cache on its way (R43, R45, R46). -/
structure L1Fill where
  ctx : Nat
  ap : Ap
  /-- Aperture offset of the sector, and its place in the cache. -/
  off : Nat
  line : Nat
  sector : Nat
  way : Nat
  data : List Byte := []
  poison : List Bool := []
  install : Bool
  /-- The lane accesses that wait for it: operation and lane. -/
  waiters : List (Nat × Nat)
deriving DecidableEq, Repr

/-- States of a slice's sector (R56). -/
inductive SectorState
  | invalid | partly | clean | dirty
deriving DecidableEq, Repr

/-- A sector of a slice's line (R56). -/
structure Sector where
  state : SectorState := .invalid
  /-- Bytes kept while Partial. -/
  mask : List Bool := []
  data : List Byte := []
  poison : List Bool := []
deriving DecidableEq, Repr

/-- A line of a slice (R55): `line` is the die-local or buffer line index. -/
structure SLine where
  set : Nat
  way : Nat
  cap : Bool
  /-- Capacity lines of one die may come from several buffers: the buffer, else 0. -/
  buf : Nat
  line : Nat
  sectors : List Sector
deriving DecidableEq, Repr

/-- Who asked a slice or a memory port, and so where its reply goes. -/
inductive Client
  | load (core fill : Nat)
  | direct (core op lane : Nat)
  | atom (core op lane : Nat)
  /-- A core's atomic unit (R141): the read, and then the write, of a location that it holds. -/
  | unit (core op lane : Nat)
  | store (core entry page : Nat)
  /-- A write of an engine command. -/
  | cmd (core n : Nat)
  | none
deriving DecidableEq, Repr

/-- A request for a home slice or a memory port. -/
inductive ReqKind
  | read (bytes : Nat)
  | write (data : List SByte)
  | rmw
deriving DecidableEq, Repr

structure Req where
  ap : Ap
  off : Nat
  kind : ReqKind
  client : Client
deriving DecidableEq, Repr

/-- A location that a core's atomic unit holds for a `.grp` or `.core` atomic (R141): from the read of its sector until the
write has been accepted, and the value read. -/
structure AtomHold where
  ap : Ap
  off : Nat
  op : Nat
  lane : Nat
  old : Option (List Byte) := none
deriving DecidableEq, Repr

/-- A slice: its lines, its pseudo-LRU bits by set, its queue and its outstanding misses (R55, R57). -/
structure Slice where
  lines : List SLine := []
  plru : AMap (BitVec 15) := []
  queue : List Req := []
  misses : AMap (List Req) := []
  nextMiss : Nat := 0
  /-- A capacity write that the buffer has not accepted yet (R109). -/
  capWait : Option Req := none
deriving DecidableEq, Repr

/-! ### Overlays (R62 to R81) -/

/-- A residency record (R67). -/
structure OvRecord where
  resident : Bool := false
  first : Nat := 0
  slots : Nat := 0
  share : Nat := 0
  noShare : Bool := false
  /-- The host physical page of each page: host link, aperture and offset (R11). -/
  pages : List (Nat × Ap × Nat) := []
  aliases : List (Nat × Nat) := []
  pins : Nat := 0
  occupancy : Nat := 0
  stamp : Nat := 0
  owner : Option Nat := none
  /-- The clock at which threads last entered the copy: one cycle stamps it once (R73). -/
  enteredAt : Option Nat := none
  /-- Virtual address of the image in the context that loads it (R66). -/
  image : Nat := 0
  /-- Whether an entry triggered the load, so that the copy is stamped when it turns Resident. -/
  entered : Bool := false
  /-- It has its slots. -/
  placed : Bool := false
  /-- A copy that the boot ROM placed, always pinned (R345). -/
  firmware : Bool := false
deriving DecidableEq, Repr

/-- A load request waiting for its place (R68, R77): its slots once its table entry has been read, and whether it stands at the
head and has found no space. -/
structure OvReq where
  ctx : Nat
  id : Nat
  slots : Nat
  recNo : Nat
  stuck : Bool := false
deriving DecidableEq, Repr

/-! ### Rays, treelets, items -/

/-- A ray in an inbox, with the slot that accepted it, or none for a done ray (R92, R324). On its way and in a queue a ray has a
word 24, the physical core whose routing choice it follows and, above 16 bits, the context of the instance that it came through plus
1, and in a holding ring a word 25, the core that forwarded it plus 1. -/
structure InRay where
  slot : Option Nat
  words : List Word
  /-- Its place in the inbox of the core store (R38). -/
  place : Nat := 0
deriving DecidableEq, Repr

inductive SlotState
  | empty | filling | resident | draining
deriving DecidableEq, Repr

/-- A pool slot's record (R92), with the fill that follows a drain (R98). -/
structure PoolSlot where
  scene : Nat := 0
  number : Nat := 0
  state : SlotState := .empty
  pinned : Bool := false
  uses : Nat := 0
  heat : Nat := 0
  /-- A placement reserves the slot for this treelet: its ID, image page address and pinned bit. -/
  next : Option (Nat × Nat × Bool) := none
  /-- Rays accepted for that treelet while the slot drains. -/
  nextUses : Nat := 0
deriving DecidableEq, Repr

/-- A directory entry (R95). -/
structure DirEntry where
  tid : Nat
  pinned : Bool := false
  failed : Bool := false
  /-- (logical core, pool slot, filling, draining) of owners 0 to 3. -/
  owners : List (Nat × Nat × Bool × Bool) := []
  heat : Nat := 0
  image : Nat := 0
  /-- Being drained so that the way can be reused (R101). -/
  leavingWay : Bool := false
  /-- A placement is being looked for (R98). -/
  placing : Bool := false
deriving DecidableEq, Repr

/-- A spill ring: 64 KiB chunks of the spill pool, the entries taken from the head chunk, and the entries left, oldest first
(R105). -/
structure Spill where
  chunks : List Nat := []
  taken : Nat := 0
  entries : List (List Word) := []
deriving DecidableEq, Repr

/-- A forming slot of the clicker (R200): entry, arguments by lane, age, and whether its group is formed. -/
structure FormSlot where
  id : Nat
  ctx : Nat
  entry : Word
  /-- v1 and up of each filled lane. -/
  lanes : List (List Word)
  formed : Bool := false
  /-- The cycle of its first item. -/
  since : Nat := 0
  /-- A group made for a hit whose shade word could not be read (R198). -/
  trap : Option Trap := none
deriving DecidableEq, Repr

/-- An item in a stage queue: its four words (R328). -/
structure Item where
  words : List Word
  since : Nat
deriving DecidableEq, Repr

/-- A stage of a die (R196, R197). -/
structure Stage where
  ctx : Nat
  queue : Nat
  launch : Nat
  groups : Nat
  decl : DWord
  entry : Word
  tag : Word
  args : List Word
  initIdx : Nat
  items : List Item := []
  /-- Items that wait to be written to the spill ring, oldest first. -/
  spilling : List (List Word) := []
  /-- Head and count of the spill ring in memory (R198). -/
  spillHead : Nat := 0
  spillCount : Nat := 0
  lastOver : Bool := false
  retiring : Bool := false
deriving DecidableEq, Repr

/-! ### Engines -/

/-- Where a queued command stands (R305, R307). -/
inductive CmdState
  | queued | active | committed
deriving DecidableEq, Repr

/-- A command of the engine queue (R304). -/
structure Cmd where
  uid : Nat
  gid : Nat
  team : Nat
  ctx : Nat
  major : Nat
  /-- D: the MMA or COLL code. -/
  code : Nat
  desc : Nat
  ctr : Nat
  scope : Scope
  acq : Bool
  rel : Bool
  lanes : Word
  pc : Word
  /-- Holds a private slot of its group (R304). -/
  priv : Bool
  /-- Store-buffer entries, outstanding loads and reflected stores below these numbers precede the command (R143). -/
  sbMark : Nat := 0
  opMark : Nat := 0
  rsMark : Nat := 0
  state : CmdState := .queued
  /-- Unmet condition, in the codes of SR.EQREC cond. -/
  cond : Nat := 0
  /-- The acquire of the command has been performed; a checkpointed command does not repeat it (R143). -/
  acquired : Bool := false
  /-- The descriptor or parameter block as read when the engine took the command (R307). -/
  block : List Byte := []
  progress : Nat := 0
  /-- Bytes of the current row or record. -/
  inner : Nat := 0
  recIndex : Nat := 0
  /-- Completion code, trap cause (0 none), failing address, and the PRI response code or 2 for a forbidden target. -/
  outcome : Nat := 0
  cause : Nat := 0
  addr : Nat := 0
  resp : Nat := 0
  /-- Sticky flags of the status word. -/
  flags : Word := 0
  /-- The receivers that a multicast sender has joined: core and command. -/
  parties : List (Nat × Nat) := []
  /-- The sender that a receiver has joined. -/
  up : Option (Nat × Nat) := none
  /-- Instance of a collective tag; of a bag query, its number among those that its core has sent (R119). -/
  inst : Nat := 0
  /-- The transfer record that a CHAIN has reached, as read (R311). -/
  record : List Byte := []
  /-- The stationary operand of the running command, and poison in it. -/
  data : List Byte := []
  /-- Source bytes read and not yet written: the rest of a destination word is still to be read (R145). -/
  carry : List Byte := []
  /-- A host read is outstanding, or the join of the command has been sent. -/
  asked : Bool := false
  /-- A window write of the command was turned away or discarded (R131). -/
  window : Bool := false
  /-- Of a restored command: the core and number that its window writes know it by (R149). -/
  was : Option (Nat × Nat) := none
deriving DecidableEq, Repr

/-- A collective instance at its coordinator (R332). -/
structure CollInst where
  /-- Queue, launch, block and team index of the member of rank 0. -/
  coord : List Nat
  tag : Nat
  inst : Nat
  /-- What the joins are compared by. -/
  key : List Nat
  /-- (core, command, rank) of the members that joined. -/
  members : List (Nat × Nat × Nat) := []
  /-- 0 open, 1 committed, 2 aborted, 3 mismatched. -/
  verdict : Nat := 0
  /-- Source bytes by rank, read at the commit. -/
  sources : AMap (List Byte) := []
  /-- Members that have completed. -/
  done : Nat := 0
deriving DecidableEq, Repr

/-- A waiting CBWAIT (R49): its absolute descriptor and direction, its bundle, and quadwords 0 and 2 as it read them (R50). -/
structure RingWait where
  desc : Nat
  cons : Bool
  gid : Nat
  pc : Word
  lanes : Word
  q0 : DWord
  q2 : DWord
deriving DecidableEq, Repr

/-- A CBREL whose release and update are still to be performed (R303): its thread, descriptor, count and scope, quadwords 0 and 2
as it read them (R50), and the marks of the accesses that its release orders. -/
structure RingRel where
  uid : Nat
  gid : Nat
  ctx : Nat
  pc : Word
  lanes : Word
  /-- Absolute and team-relative offset of the descriptor. -/
  desc : Nat
  off : Nat
  n : Nat
  cons : Bool
  q0 : DWord := 0
  q2 : DWord := 0
  scope : Scope
  sb : Nat
  op : Nat
  rs : Nat
deriving DecidableEq, Repr

/-! ### The supervisor and the core -/

/-- A core of the lattice. -/
structure Core where
  /-- Register file rows, and the s registers of the traversal threads and the supervisor: word row × 32 + lane (R30). -/
  rf : Mem 32 := []
  rfHolder : AMap Nat := []
  chunkHolder : AMap Nat := []
  /-- (low, high, context) of the last holders (R33). -/
  bankHolder : List (Nat × Nat × Nat) := []
  storeHolder : List (Nat × Nat × Nat) := []
  /-- Lane banks: byte bank × 65,536 + address (R35). -/
  banks : Memory := []
  store : Memory := []
  storePoison : List Nat := []
  istore : Mem 32 := []
  records : AMap OvRecord := []
  nextRec : Nat := 0
  entryClock : BitVec 48 := 0
  loadQ : List OvReq := []
  refused : List OvReq := []
  ovExhausted : Bool := false
  /-- (park_misses, loads) of each context (R80). -/
  ovstat : AMap (Nat × Nat) := []
  teams : AMap Team := []
  nextTeam : Nat := 0
  groups : AMap Group := []
  nextUid : Nat := 0
  /-- Groups ended by TERMG, whose later traps are discarded (R353). -/
  killed : List Nat := []
  acquireQ : List (Nat × Nat) := []
  /-- Ring waiters in arrival order (R49). -/
  ringWaits : List RingWait := []
  /-- CBREL actions on their way, oldest first. -/
  releases : List RingRel := []
  sbuf : AMap SbEntry := []
  nextSb : Nat := 0
  l1 : List L1Line := []
  l1ptr : AMap Nat := []
  /-- Granules being reclaimed for a placement or a larger pool: no lookup sees them (R45). -/
  reclaiming : List Nat := []
  /-- A pool size that takes effect when the granules it will cover have been reclaimed (R39, R45). -/
  poolNext : Option Nat := none
  l1fills : AMap L1Fill := []
  nextFill : Nat := 0
  /-- Engine caches 0 lane pipe, 1 traversal, 2 copy, 3 matrix, 4 collective, 5 memory port: most recent first (R16). -/
  tcache : AMap (List TEntry) := []
  memops : AMap MemOp := []
  /-- The locations that the atomic unit holds (R141). -/
  atoms : List AtomHold := []
  nextOp : Nat := 0
  opLog : AMap OpLog := []
  /-- Faulted accesses that found the log full (R349): operation, lane, fault table entry. -/
  logStall : List (Nat × Nat × Nat) := []
  sfq : List SfRecord := []
  dlogNext : Nat := 0
  dlogFill : Nat := 0
  /-- Oldest entries that a merge under way has taken. -/
  dlogTaken : Nat := 0
  dlogMerging : Bool := false
  dlogWait : List Waiter := []
  poolSlots : Nat := 0
  slots : AMap PoolSlot := []
  inbox : List InRay := []
  inboxSpill : Spill := {}
  hitQ : List (List Word) := []
  /-- The place of the oldest hit in the hit queue of the core store (R38). -/
  hitHead : Nat := 0
  hitSpill : Spill := {}
  homeUsed : List Nat := []
  raySerial : Word := 0
  mapCache : List (Nat × List Nat) := []
  accepted : AMap Nat := []
  clicker : List FormSlot := []
  nextForm : Nat := 0
  eq : AMap Cmd := []
  nextCmd : Nat := 0
  /-- Restored commands and records that found no free place (R359). -/
  eqWait : List Cmd := []
  sfqWait : List SfRecord := []
  acc : Mem 32 := []
  /-- Physical bands in use. -/
  bandsUsed : List Nat := []
  /-- Team whose W the array holds (R290). -/
  arrayW : Option Nat := none
  arrayData : List Byte := []
  narrow : Bool := false
  /-- Instances issued here of each collective tag by each team: (team, tag, count). -/
  collCount : List (Nat × Nat × Nat) := []
  /-- Supervisor records: 24 words each (R346). -/
  srec : List (List Word) := []
  /-- Records of raisers that found the queue full. -/
  srecWait : List (List Word) := []
  ctlIn : List (Word × List Word) := []
  gresume : Word := 0
  wdog : Word := 0x80000014
  stage : Option Nat := none
  leaving : Bool := false
  /-- The stage that the core joins when it has left its stage (R199). -/
  nextStage : Option Nat := none
  lastMove : Option Nat := none
  portQ : List Req := []
  /-- Bring-up: the index that DISC gave, and the parent port (R413 to R417). -/
  coord : Option Nat := none
  parent : Option Nat := none
  stopped : Bool := false
deriving DecidableEq, Repr

/-! ### The die -/

/-- An access of the host through an aperture (R11, R13, R150): a read of `len` bytes, or a write. -/
structure HostAccess where
  tag : Nat
  phys : Nat
  len : Nat := 0
  data : Option (List Byte) := none
deriving DecidableEq, Repr

/-- A launch queue's arbiter state at a die (R188, R189). -/
structure ArbQueue where
  deficit : Int := 0
  held : Nat := 0
  /-- The launches of the blocks whose distribution message is on its way to the die (R186). -/
  coming : List Nat := []
  /-- Armed launches, the clock at which each budget ends, and whether the miss has been counted. -/
  armed : List (Nat × Nat × Bool) := []
deriving DecidableEq, Repr

/-- A saved operand log entry (R357): the number that its fault table entry knows it by, its operation and lanes. -/
structure SavedLog where
  n : Nat
  op : Nat
  lanes : Word
  page : Nat
  ft : Nat
deriving DecidableEq, Repr

/-- A team image of a saved block (R357): its pages in the save area, by virtual page and by aperture and offset, and what its
header, group records and entry sections hold. Registers, core store, lane banks and accumulators lie in the pages. -/
structure TeamImage where
  page : Nat
  pages : List (Ap × Nat)
  team : Team
  /-- The groups by group index. -/
  groups : List Group
  memops : List (Nat × MemOp)
  logs : List SavedLog
  /-- Accesses that stood behind others and had not been made: instruction and lane. -/
  held : List (Nat × Nat)
  /-- Store-buffer entries reserved by a saved append (R301). -/
  tickets : List SbEntry
  sfq : List SfRecord
  cmds : List Cmd
  colls : List (Nat × Nat)
  ovstat : Nat × Nat
deriving DecidableEq, Repr

/-- A save under way (R356): the block, and for each team its core, its number and its part of the save area as virtual pages; then
whether its groups have been stopped, and the translated pages. -/
structure SaveJob where
  queue : Nat
  launch : Nat
  block : Nat
  ranges : List (Nat × Nat × Nat × Nat)
  stopped : Bool := false
  pages : List (List (Ap × Nat)) := []
deriving DecidableEq, Repr

/-- A block in a die's list: unplaced, or saved with its images (R186, R203). -/
structure BlockRef where
  launch : Nat
  block : Nat
  saved : List TeamImage := []
deriving DecidableEq, Repr

/-- A block placed on a die: its teams by logical core and team number (R187, R202). -/
structure PlacedBlock where
  queue : Nat
  launch : Nat
  block : Nat
  teams : List (Nat × Nat)
  order : Nat
deriving DecidableEq, Repr

/-- A die. -/
structure Die where
  /-- Die translation cache: (set, way, entry) (R16). -/
  dcache : List (Nat × Nat × TEntry) := []
  dplru : AMap (BitVec 15) := []
  misses : AMap Miss := []
  /-- Waiters that found every miss entry in use. -/
  missWait : List Waiter := []
  xfails : List XFail := []
  faults : AMap FaultEntry := []
  slices : AMap Slice := []
  arb : AMap ArbQueue := []
  ptr : Nat := 0
  lists : AMap (List BlockRef) := []
  placed : List PlacedBlock := []
  placeOrder : Nat := 0
  /-- (queue, launch, block, cores) of the reservation (R193). -/
  reserved : Option (Nat × Nat × Nat × List Nat) := none
  /-- Blocks that qualify for a reservation while another holds it, in order of age (R193). -/
  reserveQ : List (Nat × Nat × Nat) := []
  /-- The save under way (R202). -/
  saving : Option SaveJob := none
  /-- Blocks whose image space could not be translated since the last change of the die (R356). -/
  noVictim : List (Nat × Nat × Nat) := []
  stages : AMap Stage := []
  dir : AMap (List DirEntry) := []
  holding : Spill := {}
  spillFree : List Nat := []
  hedgeHeld : Nat := 0
  /-- Governor periods that have passed (R199). -/
  period : Nat := 0
deriving DecidableEq, Repr

/-! ### The lattice (R368 to R391) -/

/-- What leaves the package (R17, R19, R20, R122, R311, R392). -/
inductive Out
  | ats (die miss pasid page : Nat) (write : Bool)
  | pri (die fault pasid page : Nat) (write : Bool)
  | invalidated (tag : Nat)
  | bitmapCas (die pasid addr : Nat) (cmp swap : DWord)
  | hostRead (core cmd pasid addr len : Nat)
  | hostWrite (core cmd pasid addr : Nat) (data : List Byte)
  /-- The completion of a host read: its data, poisoned or not, or Unsupported Request (R13). -/
  | completion (tag : Nat) (data : Option (List Byte)) (poison : Bool)
  | msix (fn vector : Nat)
  | copy (dev : Nat) (c : Copy)
  | arm (dev : Nat) (a : ArmMsg)
  | armReply (dev entry k : Nat) (ok : Bool) (major minor : Nat)
  | ack (dev entry k seq : Nat)
  | nack (dev entry k seq : Nat)
  | encode (enc stream : Nat) (frame : List Byte)
  | attest (nonce digest : List Word) (index fwVersion : Nat) (fused : List Nat) (signature : List Byte)
  | read (fn off : Nat) (v : DWord)
deriving DecidableEq, Repr

/-- What a packet carries: a message for a unit of this package, or one for another package of the reach ring, with its direction on
the row ring and the path of this package that it serves (R369, R374). -/
inductive Cargo
  | here (msg : Instr)
  | far (dev : Nat) (fwd : Bool) (out : Out) (path : Option (Nat × Nat))
deriving DecidableEq, Repr

/-- A packet of the lattice: route, network, length, and what it carries. -/
structure Packet where
  src : Nat
  dst : Nat
  vn : Nat
  bulk : Bool
  flits : Nat
  /-- The first of its flits that carries poison, as do all behind it (R386). -/
  poison : Option Nat := none
  cargo : Cargo
deriving DecidableEq, Repr

/-- A packet standing in an input buffer, with its ageing counter (R380). -/
structure Standing where
  input : Nat
  chan : Nat
  packet : Packet
  age : Nat := 0
  /-- When it was promoted, by the router's count. -/
  promoted : Option Nat := none
deriving DecidableEq, Repr

/-- The state of one output port (R379). -/
structure OutPort where
  credit : List Nat := []
  rr : List Nat := []
  vptr : Nat := 0
deriving DecidableEq, Repr

/-- A router: the packets in its buffers in arrival order, and its outputs. -/
structure Router where
  standing : List Standing := []
  /-- Packets whose units wait for an injection buffer: injection port and packet, oldest first (R373). -/
  outside : List (Nat × Packet) := []
  outs : AMap OutPort := []
  promotions : Nat := 0
deriving DecidableEq, Repr

/-- A directed link of the package, or the sending side of half a reach port (R385, R386, R389): sequence numbers; the packets sent and not acknowledged, which keep their upstream buffers; the
flits of the oldest that are acknowledged; and the failures of the flit after them. Whether a reach half is in service stands in
`reach_status` (R390). -/
structure Link where
  up : Bool := true
  /-- Of a reach half: it has been down for 10 ms (R389). -/
  broken : Bool := false
  nextSeq : Nat := 0
  expect : Nat := 0
  window : List Standing := []
  got : Nat := 0
  fails : Nat := 0
  /-- When the link last went down, by the model's clock (R386). -/
  downAt : Option Nat := none
deriving DecidableEq, Repr

/-! ### Windows (R120 to R133) -/

/-- The window unit's state of one path (R121, R126). -/
structure Path where
  seq : Nat := 0
  /-- First discarded sequence number. -/
  firstDrop : Option Nat := none
deriving DecidableEq, Repr

/-- A reflected store on its way to its window unit. -/
structure RStore where
  entry : Nat
  core : Nat
  uid : Nat
  ctx : Nat
  /-- Window offset of the sector. -/
  off : Nat
  /-- The bytes under the mask, addressed by window offset, and the virtual addresses they were stored to. -/
  bytes : List SByte
  vas : List Nat := []
  /-- The threads that stored it (R139). -/
  lanes : Word := 0
  id : Nat
  /-- Who made it: a store-buffer entry or an engine command. -/
  client : Client
  /-- Its packet reached the window unit poisoned (R387). -/
  poison : Bool := false
deriving DecidableEq, Repr

/-- A reflected store that its window unit has sequenced and that is not applied on every path, or was discarded on one
(R131). -/
structure Sequenced where
  id : Nat
  core : Nat
  uid : Nat
  entry : Nat
  client : Client
  lanes : Word := 0
  /-- (path, sequence, 0 open 1 applied 2 discarded). -/
  paths : List (Nat × Nat × Nat)
  /-- Entry, destination device and the path's first discarded sequence number, once a path has discarded it. -/
  bad : Option (Nat × Nat × Nat) := none
deriving DecidableEq, Repr

/-- An entry of the receive path table (R128), with the path's number at the source. -/
structure RxPath where
  src : Nat
  entry : Nat
  rx : Nat
  k : Nat
  epoch : Nat
  expect : Nat
  broken : Bool := false
deriving DecidableEq, Repr

/-- An open reflection fence (R131). -/
structure RFence where
  core : Nat
  gid : Nat
  uid : Nat
  scope : Scope
  lanes : Word
  pc : Word
  /-- Cores whose marker has not arrived. -/
  markers : List Nat
  /-- For each core reached: the first store-buffer entry and the first reflected store that the fence does not cover. -/
  marks : List (Nat × Nat × Nat)
  /-- The event of an engine command that waits for the fence, in place of a thread. -/
  resume : Option Instr := none
deriving DecidableEq, Repr

/-! ### Launches -/

/-- A launch: its number among all launches, its record and what has become of its blocks (R182, R187). -/
structure Launch where
  queue : Nat
  index : Nat
  ctx : Nat := 0
  words : List Word
  /-- Blocks of the launch. -/
  total : Nat := 0
  /-- Slots of the entry overlay, as the check of the record read them (R79, R185). -/
  entrySlots : Nat := 0
  /-- Next block to distribute. -/
  next : Nat := 0
  /-- Blocks retired. -/
  retired : Nat := 0
  distributed : Bool := false
  failed : Bool := false
deriving DecidableEq, Repr

/-! ### The package -/

/-- Bring-up and fatal-error state (R400, R405). -/
structure Boot where
  /-- Steps 4 and 5 are under way. -/
  running : Bool := false
  /-- The host has not read `dev_status` since a crash image was written. -/
  crashUnread : Bool := false
deriving DecidableEq, Repr

/-- An encoder's stream (R336, R399): its two frame inputs, each full or not, the input being encoded, the bytes of its
bitstream ring in use, and an encoded frame that waits to be written there. -/
structure EncStream where
  frames : List (Memory × Bool) := [([], false), ([], false)]
  /-- The frame input being written, until a command with eof ends it. -/
  filling : Option Nat := none
  encoding : Option Nat := none
  ringUsed : Nat := 0
  out : List Byte := []
deriving DecidableEq, Repr

/-- An ATS invalidation in progress (R20): PASID, address, size, and the dies that it has not reached. -/
structure Inval where
  pasid : Nat
  va : Nat
  size : Nat
  left : List Nat := []
deriving DecidableEq, Repr

/-- A bitmap update under way (R27): the core whose log is merged, context, word address, bits, compare value. -/
structure BitmapJob where
  core : Nat
  ctx : Nat
  addr : Nat
  bits : DWord
  cmp : DWord
deriving DecidableEq, Repr

/-- The bundle whose instruction is performed (the model's own). In the second slot of a dual issue, `quiet` says that the
first slot has trapped, so that a trap of the second changes nothing (R214); `mask` is the mask the first slot wrote, which
the second ORs into (R256); `fp` says that the first slot pended a floating-point trap (R249); `latch` is what an instruction that
goes on after a wait has read at its issue. -/
structure Cur where
  core : Nat
  gid : Nat
  lanes : Word
  pc : Word
  word : Word
  lit : Word
  quiet : Bool := false
  mask : Option (Nat × Word) := none
  fp : Bool := false
  latch : Option Latch := none
deriving DecidableEq, Repr

/-- One Rilide package. -/
structure State where
  product : Product
  fused : List Nat
  hbm : Memory
  hbmPoison : List Nat
  cap : Memory
  capPoison : List Nat
  /-- Quadwords of the control space that differ from their reset value (R394). -/
  ctl : AMap DWord
  /-- BAR bases of each host link: slots 0–1, 2–3, 4–5 (R11). -/
  bars : List (Nat × Nat × Nat)
  /-- The functions whose PRI is enabled, each with its Outstanding Page Request Allocation (R19). -/
  pri : AMap Nat
  /-- The function, and its allocation, of the PRI Control write that PRI_DISABLE and PRI_REENABLE stand for: set by the outside. -/
  priWrite : Nat × Nat
  /-- Accesses of the host through the memory apertures, oldest first (R150). -/
  hostQ : List HostAccess
  /-- The functions whose Device Control 2 does not enable AtomicOp requests (R27): set by the outside. -/
  noAtomics : List Nat
  cores : AMap Core
  dies : AMap Die
  routers : AMap Router
  /-- Link 8r + p leaves router r by port p; link 2¹⁶ + 2p + h is half h, 0 a and 1 b, of reach port p. -/
  links : AMap Link
  launches : List Launch
  nextLaunch : Nat
  hintDrops : AMap Word
  /-- Paths of the mapping entries: key 16 × entry + path, path 8 the loop-back (R121). -/
  paths : AMap Path
  /-- Block barrier waits registered at home slices: aperture, offset, core, context, address (R176). -/
  blockWaits : List (Ap × Nat × Nat × Nat × Nat)
  /-- Reflected stores on their way to each entry's window unit, in order. -/
  rstores : List RStore
  nextRstore : Nat
  sequenced : List Sequenced
  rxPaths : List RxPath
  fences : AMap RFence
  nextFence : Nat
  colls : List CollInst
  encoders : AMap EncStream
  /-- Bitmap updates by serial number, oldest first; the first of the cores of each die is outstanding on its host link. -/
  bitmaps : AMap BitmapJob
  nextBitmap : Nat
  /-- Invalidations in progress by tag (R20). -/
  invals : AMap Inval
  /-- A harvest under way: context and re-arm flag (R26). -/
  harvest : Option (Nat × Bool)
  /-- Scenes being retired, and scenes retired whose entry the host has not written since (R85). -/
  retiring : List Nat
  retired : List Nat
  /-- The split that a change of `hbm_split` applies when its copy is done (R59). -/
  splitNext : Nat
  mailHello : Option (Nat × Nat)
  /-- The board asserts the alarm pin (R399). -/
  pin : Bool
  attest : Nat
  flash : List Byte
  boot : Boot
  fatal : Option (Nat × Nat × Nat)
  agenda : List Instr
  outbox : List Out
  cc : Nat
  cur : Option Cur
  second : Option Cur
  turn : Bool
  free : Nat
deriving DecidableEq, Repr

/-- The machine right after reset, before bring-up (R400): every core, die and router at the defaults of its structure,
every register of the control space at the reset value of its table (`ctl` lists what differs), nothing in memory. -/
def State.reset : State where
  product := .module64
  fused := []
  hbm := []
  hbmPoison := []
  cap := []
  capPoison := []
  ctl := []
  bars := [(2 ^ 46, 2 ^ 45, 2 ^ 44), (3 * 2 ^ 46, 3 * 2 ^ 45, 3 * 2 ^ 44)]
  pri := []
  priWrite := (0, 512)
  hostQ := []
  noAtomics := []
  cores := []
  dies := []
  routers := []
  links := []
  launches := []
  nextLaunch := 0
  hintDrops := []
  paths := []
  blockWaits := []
  rstores := []
  nextRstore := 0
  sequenced := []
  rxPaths := []
  fences := []
  nextFence := 0
  colls := []
  encoders := []
  bitmaps := []
  nextBitmap := 0
  invals := []
  harvest := none
  retiring := []
  retired := []
  splitNext := 0
  mailHello := none
  pin := false
  attest := 0
  flash := []
  boot := {}
  fatal := none
  agenda := []
  outbox := []
  cc := 0
  cur := none
  second := none
  turn := false
  free := 0

end Sys2Proof.Machine
end

