-- ==== Sys2Proof/Machine/Ops.lean ====
section
/-! DEFINITION. The named operations over the state: numbered records, sparse storage, the control space, places of the
lattice, the register file, the core store, waits, overlay occupancy, traps and the events that units post to each other. -/

namespace Sys2Proof.Machine

/-! ### Numbered records -/

namespace AMap
variable {α : Type}

def look (k : Nat) : AMap α → Option α
  | [] => none
  | (j, x) :: t => if j = k then some x else look k t

def put (k : Nat) (x : α) : AMap α → AMap α
  | [] => [(k, x)]
  | (j, y) :: t => if k < j then (k, x) :: (j, y) :: t else if k = j then (k, x) :: t else (j, y) :: put k x t

def drop (k : Nat) (m : AMap α) : AMap α := m.filter fun p => p.1 ≠ k

def upd (k : Nat) (f : α → α) (m : AMap α) : AMap α := m.map fun p => if p.1 = k then (p.1, f p.2) else p

end AMap

/-! ### Sparse storage -/

namespace Mem
variable {n : Nat}

/-- The cell at an address; 0 where none is listed. -/
def get : Mem n → Nat → BitVec n
  | [], _ => 0
  | (k, b) :: t, a => if k = a then b else get t a

/-- Write one cell, keeping the canonical form. -/
def set : Mem n → Nat → BitVec n → Mem n
  | [], a, v => if v = 0 then [] else [(a, v)]
  | (k, b) :: t, a, v =>
    if a < k then (if v = 0 then (k, b) :: t else (a, v) :: (k, b) :: t)
    else if a = k then (if v = 0 then t else (a, v) :: t)
    else (k, b) :: set t a v

/-- Addresses strictly rising from `lo`, no cell 0. -/
def wfFrom (lo : Nat) : Mem n → Bool
  | [] => true
  | (k, b) :: t => decide (lo ≤ k) && decide (b ≠ 0) && wfFrom (k + 1) t

/-- The canonical form. -/
def wf (m : Mem n) : Bool := wfFrom 0 m

/-- Write consecutive cells. -/
def write : Mem n → Nat → List (BitVec n) → Mem n
  | m, _, [] => m
  | m, a, v :: t => write (set m a v) (a + 1) t

/-- Read consecutive cells. -/
def read (m : Mem n) (a count : Nat) : List (BitVec n) := (List.range count).map fun i => get m (a + i)

/-- Clear the cells lo to hi − 1. -/
def clear (m : Mem n) (lo hi : Nat) : Mem n := m.filter fun c => decide (c.1 < lo ∨ hi ≤ c.1)

end Mem

/-- The canonical form of a byte memory. -/
def Memory.wf (m : Memory) : Bool := Mem.wf (n := 8) m

/-- The number that little-endian bytes denote (R3). -/
def leNat : List Byte → Nat
  | [] => 0
  | b :: t => b.toNat + 256 * leNat t

/-- The low n bytes of a number, little-endian (R3). -/
def leBytes : Nat → Nat → List Byte
  | 0, _ => []
  | n + 1, v => BitVec.ofNat 8 v :: leBytes n (v / 256)

/-- Bits [hi:lo] of a number. -/
def bits (v hi lo : Nat) : Nat := v / 2 ^ lo % 2 ^ (hi + 1 - lo)

/-- v with bits [hi:lo] replaced. -/
def setBits (v hi lo x : Nat) : Nat :=
  v - bits v hi lo * 2 ^ lo + x % 2 ^ (hi + 1 - lo) * 2 ^ lo

/-- Bits [hi:lo] of a quadword. -/
def qf (q : DWord) (hi lo : Nat) : Nat := bits q.toNat hi lo
/-- A quadword with bits [hi:lo] replaced. -/
def qset (q : DWord) (hi lo x : Nat) : DWord := BitVec.ofNat 64 (setBits q.toNat hi lo x)
/-- Bits [hi:lo] of a word. -/
def wf32 (w : Word) (hi lo : Nat) : Nat := bits w.toNat hi lo
/-- The two words of a quadword, low first. -/
def loWord (q : DWord) : Word := q.extractLsb' 0 32
def hiWord (q : DWord) : Word := q.extractLsb' 32 32
/-- A number as a word. -/
def w32 (n : Nat) : Word := BitVec.ofNat 32 n
/-- A truth value as a bit. -/
def bit (b : Bool) : Nat := if b then 1 else 0

/-- The numbers of the lanes of a mask, ascending (R5). -/
def lanesOf (m : Word) : List Nat := (List.range 32).filter fun i => m.getLsbD i

/-- The mask of a list of lanes. -/
def maskOf (ls : List Nat) : Word := ls.foldl (fun m i => m ||| ((1#32) <<< i)) 0

/-- The first element by a strict order, from the left. -/
def pickBest {α : Type} (better : α → α → Bool) : List α → Option α
  | [] => none
  | x :: t => some (t.foldl (fun b y => if better y b then y else b) x)

/-- Insert by a strict order, after equals. -/
def insertBy {α : Type} (lt : α → α → Bool) (x : α) : List α → List α
  | [] => [x]
  | y :: t => if lt x y then x :: y :: t else y :: insertBy lt x t

/-- Stable sort. -/
def sortBy {α : Type} (lt : α → α → Bool) (l : List α) : List α := l.foldl (fun acc x => insertBy lt x acc) []

/-- The least number of a range that satisfies a test. -/
def firstFree (limit : Nat) (used : Nat → Bool) : Option Nat := (List.range limit).find? fun i => !used i

/-! ### Places of the package (R4, R59, R368, R398) -/

namespace State

/-- Physical coordinates of physical core i. -/
def coreX (s : State) (i : Nat) : Nat := i % s.product.width
def coreY (s : State) (i : Nat) : Nat := i / s.product.width
/-- The die of a physical core (R4). -/
def dieOf (s : State) (i : Nat) : Nat := s.coreY i / 4 * s.product.dieCols + s.coreX i / 4
/-- Physical core at coordinates. -/
def coreAt (s : State) (x y : Nat) : Nat := y * s.product.width + x
/-- Core at die-local coordinates. -/
def dieCore (s : State) (d lx ly : Nat) : Nat :=
  s.coreAt (d % s.product.dieCols * 4 + lx) (d / s.product.dieCols * 4 + ly)
/-- Cores of the package that are not fused off, in logical order (R4). -/
def present (s : State) : List Nat := (List.range s.product.cores).filter fun i => !s.fused.contains i
/-- Present cores of a die, in logical order. -/
def dieCores (s : State) (d : Nat) : List Nat := s.present.filter fun i => s.dieOf i = d
/-- Logical number of a physical core (R4). -/
def logical (s : State) (i : Nat) : Nat := i - (s.fused.filter (· < i)).length
/-- Physical core of a logical number. -/
def physical (s : State) (l : Nat) : Option Nat :=
  if s.fused.isEmpty then (if l < s.product.cores then some l else none) else s.present[l]?
/-- The core whose sixth port is the die agent (R398). -/
def agentCore (s : State) (d : Nat) : Nat := s.dieCore d 0 0
/-- The host link of a die (R17). -/
def hostLink (s : State) (d : Nat) : Nat :=
  match s.product with
  | .rilide16 => 0
  | .rilide64 | .module64 => if d % 8 < 4 then 0 else 1

/-! ### Cores, dies, groups -/

def core (s : State) (c : Nat) : Core := (s.cores.look c).getD {}
def setCore (s : State) (c : Nat) (k : Core) : State := { s with cores := s.cores.put c k }
def modCore (s : State) (c : Nat) (f : Core → Core) : State := s.setCore c (f (s.core c))
def die (s : State) (d : Nat) : Die := (s.dies.look d).getD {}
def setDie (s : State) (d : Nat) (x : Die) : State := { s with dies := s.dies.put d x }
def modDie (s : State) (d : Nat) (f : Die → Die) : State := s.setDie d (f (s.die d))
def group? (s : State) (c gid : Nat) : Option Group := (s.core c).groups.look gid
def group (s : State) (c gid : Nat) : Group := (s.group? c gid).getD {}
def setGroup (s : State) (c gid : Nat) (g : Group) : State := s.modCore c fun k => { k with groups := k.groups.put gid g }
def modGroup (s : State) (c gid : Nat) (f : Group → Group) : State :=
  s.modCore c fun k => { k with groups := k.groups.upd gid f }
def team (s : State) (c t : Nat) : Team := ((s.core c).teams.look t).getD {}
def modTeam (s : State) (c t : Nat) (f : Team → Team) : State := s.modCore c fun k => { k with teams := k.teams.upd t f }

/-- Append an event to the agenda. -/
def post (s : State) (i : Instr) : State := { s with agenda := s.agenda ++ [i] }
/-- Append several events. -/
def posts (s : State) (is : List Instr) : State := { s with agenda := s.agenda ++ is }
/-- Append an event unless it is already waiting. -/
def postOnce (s : State) (i : Instr) : State := if s.agenda.contains i then s else s.post i
/-- Something leaves the package. -/
def emit (s : State) (o : Out) : State := { s with outbox := s.outbox ++ [o] }

/-! ### The control space (R394) -/

/-- Reset value of a quadword of the control space, by offset. -/
def ctlReset (p : Product) (off : Nat) : DWord :=
  if off = 0x0 then BitVec.ofNat 64 (p.code * 2 ^ 48 + 2 ^ 40)
  else if off = 0x10 then BitVec.ofNat 64 (p.watts * 2 ^ 48 + 105 * 2 ^ 40 + 1)
  else if off = 0x20 then 0x2000
  else if 0x100000 ≤ off ∧ off < 0x102000 then (if off % 32 = 8 then BitVec.ofNat 64 (0x100 * 2 ^ 48) else 0)
  else if 0x200000 ≤ off ∧ off < 0x200000 + 0x10000 * p.dies then
    let r := off % 0x10000
    if r = 0x0 then BitVec.ofNat 64 (2 ^ 41 + 18 * 2 ^ 36 + 20 * 2 ^ 31 + 4 * 2 ^ 27 + 256)
    else if r = 0x8 then BitVec.ofNat 64 (((List.range 6).foldl (fun a i => a + 4 * 2 ^ (30 + 5 * i) + 12 * 2 ^ (5 * i)) 0))
    else if r = 0x10 then BitVec.ofNat 64 (2 ^ 31 + 4 * 2 ^ 28 + 7 * 2 ^ 20 + 2 * 2 ^ 16 + 0x60 * 2 ^ 8 + 0x20)
    else if r = 0x18 then BitVec.ofNat 64 (4 * 2 ^ 20 + 0x1000)
    else if 0x100 ≤ r ∧ r < 0x300 ∧ r % 32 = 0 then
      BitVec.ofNat 64 (1 * 2 ^ 58 + 16 * 2 ^ 53 + 0x400 * 2 ^ 32 + 0x40 * 2 ^ 16)
    else 0
  else 0

/-- A quadword of the control space. -/
def ctlQ (s : State) (off : Nat) : DWord := (s.ctl.look off).getD (ctlReset s.product off)
def setCtl (s : State) (off : Nat) (v : DWord) : State := { s with ctl := s.ctl.put off v }
/-- Replace a field of a quadword. -/
def setField (s : State) (off hi lo x : Nat) : State := s.setCtl off (qset (s.ctlQ off) hi lo x)
/-- Read a field. -/
def field (s : State) (off hi lo : Nat) : Nat := qf (s.ctlQ off) hi lo
/-- Add 1 to a field that saturates. -/
def bumpField (s : State) (off hi lo : Nat) : State :=
  s.setField off hi lo (min (s.field off hi lo + 1) (2 ^ (hi + 1 - lo) - 1))

/-- Offset of quadword q of a context entry. -/
def ctxOff (i q : Nat) : Nat := 0x110000 + 64 * i + 8 * q
def ctxQ (s : State) (i q : Nat) : DWord := s.ctlQ (ctxOff i q)
/-- Offset of a register of die d. -/
def dieOff (d r : Nat) : Nat := 0x200000 + 0x10000 * d + r
/-- Offset of quadword q of a launch queue. -/
def lqOff (q i : Nat) : Nat := 0x100000 + 32 * q + 8 * i
/-- Offset of quadword q of a stage register. -/
def stageOff (d st i : Nat) : Nat := dieOff d (0x100 + 32 * st + 8 * i)
def sceneOff (sc i : Nat) : Nat := 0x120000 + 16 * sc + 8 * i
def winOff (e i : Nat) : Nat := 0x130000 + 64 * e + 8 * i
def rxOff (e i : Nat) : Nat := 0x140000 + 16 * e + 8 * i
def mailOff (m i : Nat) : Nat := 0x10000 + 64 * m + 8 * i
def capLinkOff (b : Nat) : Nat := 0x800 + 8 * b
def capTableOff (b t i : Nat) : Nat := 0x600000 + 16 * (256 * b + t) + 8 * i
def encOff (e st i : Nat) : Nat := 0x800000 + 64 * (16 * e + st) + 8 * i
def reachOff (p : Nat) : Nat := 0x400 + 8 * p

/-- The device ID (R395). -/
def device (s : State) : Nat := s.field 0 63 52
/-- The power alarm holds (R395, R399). -/
def alarm (s : State) : Bool := s.field 8 29 29 = 1

/-- Slot quota of a context, 0 reading as 256 (R64). -/
def slotQuota (s : State) (ctx : Nat) : Nat :=
  let q := qf (s.ctxQ ctx 1) 32 24
  if q = 0 then 256 else q

end State

/-! ### The register file (R30, R167, R345) -/

/-- Base set number of the supervisor thread. -/
def supGid : Nat := 576

/-- Row of a lane register, none when its range is not held (R30, R32). -/
def Group.vRow (g : Group) (gid : Nat) (r : Nat) : Option Nat :=
  if r < 16 then some (17 * gid + r)
  else
    match g.chunks.getD (r / 16 - 1) none with
    | none => none
    | some c => some (8704 + 16 * c + r % 16)

/-- Place of a uniform register: row 16 of the base set, or the engine's or the supervisor's own registers. -/
def sPlace (gid j : Nat) : Nat := if gid < 512 then (17 * gid + 16) * 32 + j else 24576 * 32 + (gid - 512) * 32 + j

def Core.getV (k : Core) (g : Group) (gid r lane : Nat) : Word :=
  match g.vRow gid r with
  | none => 0
  | some row => k.rf.get (row * 32 + lane)

def Core.setV (k : Core) (g : Group) (gid r lane : Nat) (w : Word) : Core :=
  match g.vRow gid r with
  | none => k
  | some row => { k with rf := k.rf.set (row * 32 + lane) w }

def Core.getS (k : Core) (gid j : Nat) : Word := k.rf.get (sPlace gid j)
def Core.setS (k : Core) (gid j : Nat) (w : Word) : Core := { k with rf := k.rf.set (sPlace gid j) w }

/-- A pair of uniform registers, low word first (R207). -/
def Core.getS64 (k : Core) (gid j : Nat) : DWord := k.getS gid (j + 1) ++ k.getS gid j

/-- m0 to m7 (R164). -/
def Group.mask (g : Group) (m : Nat) : Word := if m = 0 then g.m0 else g.masks.getD (m - 1) 0
def Group.setMask (g : Group) (m : Nat) (w : Word) : Group := { g with masks := g.masks.set (m - 1) w }

/-! ### The team of a group (R8, R183) -/

def Team.storeBytes (t : Team) : Nat := qf t.decl 48 26
def Team.reserve (t : Team) : Nat := qf t.decl 25 16
def Team.barriers (t : Team) : Nat := qf t.decl 15 11
def Team.window (t : Team) : Nat := 16 * qf t.decl 7 0

/-- The group index of a group in its team (R157). -/
def Group.index (g : Group) : Nat := wf32 g.tid 13 5
/-- The kind of a group (R157). -/
def Group.kind (g : Group) : Nat := wf32 g.tid 19 18

/-- Size in bytes of a thread's lane private window: none on a traversal thread or the supervisor (R35). -/
def Team.windowOf (t : Team) (gid : Nat) : Nat := if gid < 512 then t.window else 0
/-- Bank address of a group's window (R35). -/
def Team.windowBase (t : Team) (g : Group) : Nat := t.bankBase + g.index * t.window

/-- The last absolute offset + 1 that a group may reach from offset 0 of its allocation, and where that offset lies: teams
see their allocation, the supervisor the populated store (R8, R345). -/
def storeSpan (t : Team) (gid : Nat) : Nat × Nat := if gid = supGid then (0, 0x600000) else (t.base, t.size)

/-! ### Waits (R160, R49, R241) -/

/-- Make the threads of a group that wait under a condition ready again. -/
def Group.wakeIf (g : Group) (p : Wait → Bool) : Group :=
  { g with threads := g.threads.map fun t => if t.wait.any p then { t with wait := none } else t }

/-- Make threads that wait under a condition ready again, in every group of a core. -/
def Core.wake (k : Core) (p : Wait → Bool) : Core :=
  { k with groups := k.groups.map fun (i, g) => (i, g.wakeIf p) }

/-- Whether a wait watches a byte of the core store in lo to hi − 1 (R176, R241, R49). -/
def Wait.watches (lo hi : Nat) : Wait → Bool
  | .barrier a => a < hi ∧ lo < a + 8
  | .counter a => a < hi ∧ lo < a + 4
  | .ring a _ => a < hi ∧ lo < a + 32
  | _ => false

/-- Write bytes into the core store at an absolute offset and notify the waits on them (R41, R241). -/
def Core.writeStore (k : Core) (a : Nat) (bs : List Byte) : Core :=
  ({ k with store := Mem.write (n := 8) k.store a bs,
            storePoison := k.storePoison.filter fun p => decide (p < a ∨ a + bs.length ≤ p) }).wake
    (Wait.watches a (a + bs.length))

/-- Read bytes of the core store at an absolute offset. -/
def Core.readStore (k : Core) (a n : Nat) : List Byte := Mem.read (n := 8) k.store a n
/-- Whether a range of the core store holds a poisoned byte (R403). -/
def Core.storeBad (k : Core) (a n : Nat) : Bool := k.storePoison.any fun p => decide (a ≤ p ∧ p < a + n)
def Core.store32 (k : Core) (a : Nat) : Nat := leNat (k.readStore a 4)
def Core.store64 (k : Core) (a : Nat) : DWord := BitVec.ofNat 64 (leNat (k.readStore a 8))
def Core.putStore32 (k : Core) (a v : Nat) : Core := k.writeStore a (leBytes 4 v)
def Core.putStore64 (k : Core) (a : Nat) (v : DWord) : Core := k.writeStore a (leBytes 8 v.toNat)

/-- Every byte of lo to hi − 1 was last held by a context. -/
def heldBy (h : List (Nat × Nat × Nat)) (lo hi ctx : Nat) : Bool :=
  (h.foldl (fun a (l, u, c) => if c = ctx then a + (min u hi - max l lo) else a) 0) == hi - lo

/-- A context becomes the holder of a range. -/
def markHeld (h : List (Nat × Nat × Nat)) (lo hi ctx : Nat) : List (Nat × Nat × Nat) :=
  (lo, hi, ctx) :: h.flatMap fun (l, u, c) =>
    (if l < min u lo then [(l, min u lo, c)] else []) ++ (if max l hi < u then [(max l hi, u, c)] else [])

/-- No context: the holder of bytes that something other than their team wrote (R33). -/
def noContext : Nat := 0x1ff

/-- Bytes that were written while no team holds them lose their holder (R33). -/
def Core.disown (k : Core) (lo hi : Nat) : Core :=
  if k.teams.any fun (_, t) => t.size ≠ 0 && decide (t.base ≤ lo ∧ hi ≤ t.base + t.size) then k
  else { k with storeHolder := markHeld k.storeHolder lo hi noContext }

/-- A write that reaches the core store otherwise than through the team that holds it: by the host, the supervisor, another
core, a treelet fill or the first-level cache (R33, R42). -/
def Core.writeForeign (k : Core) (a : Nat) (bs : List Byte) : Core := (k.writeStore a bs).disown a (a + bs.length)

/-- A core-store write of a thread of a group: the supervisor's makes no context a holder (R33). -/
def Core.storeBy (k : Core) (gid a : Nat) (bs : List Byte) : Core :=
  if gid = supGid then k.writeForeign a bs else k.writeStore a bs

/-- Read bytes of lane bank `b` (R35). -/
def Core.readBank (k : Core) (b a n : Nat) : List Byte := Mem.read (n := 8) k.banks (b * 65536 + a) n
def Core.writeBank (k : Core) (b a : Nat) (bs : List Byte) : Core :=
  { k with banks := Mem.write (n := 8) k.banks (b * 65536 + a) bs }

/-! ### Overlay copies (R67, R70, R73) -/

/-- The record that serves (context, overlay ID) on a core. -/
def Core.copy? (k : Core) (ctx id : Nat) : Option (Nat × OvRecord) := k.records.find? fun (_, r) => r.aliases.contains (ctx, id)
/-- The Resident copy of (context, overlay ID). -/
def Core.resident? (k : Core) (ctx id : Nat) : Option (Nat × OvRecord) :=
  match k.copy? ctx id with
  | some (n, r) => if r.resident then some (n, r) else none
  | none => none

def overlayOf (pc : Word) : Nat := wf32 pc 31 16
def wordOf (pc : Word) : Nat := wf32 pc 13 0

/-- What a fetch at a logical PC finds (R63, R214 step 1). -/
inductive Fetch
  | absent
  | fault
  | word (w lit : Word)
deriving DecidableEq, Repr

/-- Fetch a word and, when it asks for one, its literal (R63, R206). -/
def Core.fetch (k : Core) (ctx : Nat) (pc : Word) : Fetch :=
  if wf32 pc 15 14 ≠ 0 then .fault
  else
    match k.resident? ctx (overlayOf pc) with
    | none => .absent
    | some (_, r) =>
      if r.slots * 1024 ≤ wordOf pc then .fault
      else
        let w := k.istore.get (r.first * 1024 + wordOf pc)
        if hasLiteral w then
          (if r.slots * 1024 ≤ wordOf pc + 1 then .fault else .word w (k.istore.get (r.first * 1024 + wordOf pc + 1)))
        else .word w 0

/-- Live threads whose PC lies inside one of some overlays, named by context and ID (R70). -/
def Core.standing (k : Core) (names : List (Nat × Nat)) : Nat :=
  k.groups.foldl (fun a (_, g) => a + (g.threads.filter fun t => t.live && names.contains (g.ctx, overlayOf t.pc)).length) 0

/-- Pins that groups hold on one of some overlays (R69). -/
def Core.pinned (k : Core) (names : List (Nat × Nat)) : Nat :=
  k.groups.foldl (fun a (_, g) => g.pins.foldl (fun a p => if names.contains (g.ctx, p.1) then a + p.2 else a) a) 0

/-- The occupancy and pin counts follow the PCs and the pin tables of the groups (R69, R70). Firmware copies keep their own pin
(R345). -/
def Core.recount (k : Core) : Core :=
  { k with records := k.records.map fun (i, r) =>
      (i, { r with occupancy := k.standing r.aliases, pins := bit r.firmware + k.pinned r.aliases }) }

/-- Total slots charged to a context on a core (R74). -/
def Core.charge (k : Core) (ctx : Nat) : Nat :=
  k.records.foldl (fun a (_, r) => if r.owner = some ctx then a + r.slots else a) 0

/-- Threads enter the copy of an overlay: the clock and the stamp, once in a cycle, and, for an ownerless copy that fits the quota,
the owner (R70, R73, R74). -/
def Core.enterOv (k : Core) (ctx id quota cc : Nat) : Core :=
  match k.copy? ctx id with
  | none => k
  | some (i, r) =>
    let r := { r with owner := if r.placed ∧ r.owner = none ∧ k.charge ctx + r.slots ≤ quota then some ctx else r.owner }
    if ¬ r.resident then { k with records := k.records.put i { r with entered := true } }
    else if r.enteredAt = some cc then { k with records := k.records.put i r }
    else
      { k with
        entryClock := k.entryClock + 1
        records := k.records.put i { r with stamp := (k.entryClock + 1).toNat, enteredAt := some cc } }

/-- Add to park_misses or loads of SR.OVSTAT, each saturating at 0xffff (R80). -/
def Core.countOv (k : Core) (ctx parks loads : Nat) : Core :=
  let o := (k.ovstat.look ctx).getD (0, 0)
  { k with ovstat := k.ovstat.put ctx (min (o.1 + parks) 0xffff, min (o.2 + loads) 0xffff) }

/-- Change the threads of some lanes. -/
def Group.onLanes (g : Group) (lanes : Word) (f : Nat → Thread → Thread) : Group :=
  { g with threads := g.threads.mapIdx fun i t => if lanes.getLsbD i then f i t else t }

/-- Threads stand no more at an instruction that they have issued. -/
def Group.unlatch (g : Group) (lanes : Word) : Group :=
  { g with issued := (g.issued.map fun h => { h with lanes := h.lanes &&& ~~~lanes }).filter fun h => h.lanes ≠ 0 }

namespace State

/-- Request the copy of (context, overlay ID) on a core: join a record or a refused request, or start a record of its own
in the Loading state, which OVERLAY_PLACEMENT serves (R67, R68, R77). -/
def requestOv (s : State) (c ctx id : Nat) : State :=
  let k := s.core c
  if (k.copy? ctx id).isSome ∨ k.refused.any (fun q => q.ctx = ctx ∧ q.id = id) then s
  else
    let n := k.nextRec
    let k : Core := { k with
      records := k.records.put n { aliases := [(ctx, id)] }
      nextRec := n + 1
      loadQ := k.loadQ ++ [{ ctx, id, slots := 0, recNo := n }] }
    (s.setCore c k.recount).post (.overlayPlacement c)

/-- Something that reflection fences and releases wait for may have come about (R131): their threads look again, and so do
the engine commands behind them. -/
def wakeFences (s : State) : State :=
  s.fences.foldl (fun (s : State) (f : Nat × RFence) => match f.2.resume with
    | some e => s.postOnce e
    | none => s.modGroup f.2.core f.2.gid fun g => g.wakeIf fun w => w == .drain) s

/-- A pin or occupancy count may have fallen: a load that waits for its place is tried again (R72). -/
def retryLoads (s : State) (c : Nat) : State :=
  if (s.core c).loadQ.isEmpty then s else s.postOnce (.overlayPlacement c)

/-- Threads whose overlay is absent park and request it (R71). -/
def parkOn (s : State) (c gid : Nat) (lanes : Word) (id : Nat) (w : ParkAt) : State :=
  let g := s.group c gid
  if ((s.core c).resident? g.ctx id).isSome then s
  else
    let s := s.requestOv c g.ctx id
    let s := s.modCore c fun k => k.countOv g.ctx (lanesOf lanes).length 0
    s.modGroup c gid fun g => g.onLanes lanes fun _ t => { t with wait := some (.park id w) }

/-- Threads move to a logical PC, entering its overlay's copy when it differs from the one they leave, and park when that
copy is not Resident (R70, R71). -/
def moveTo (s : State) (c gid : Nat) (lanes : Word) (pc : Word) (w : ParkAt) : State :=
  let g := s.group c gid
  let movers := (lanesOf lanes).filterMap fun i => g.threads[i]?
  let leaving := (movers.filter fun t => overlayOf t.pc ≠ overlayOf pc)
  let s := s.modGroup c gid fun g =>
    (g.unlatch lanes).onLanes lanes fun _ t => { t with pc, wait := none, laneWait := 0, uniWait := 0 }
  let s := s.modCore c Core.recount
  let needs := ((s.core c).resident? g.ctx (overlayOf pc)).isNone ∧ wf32 pc 15 14 = 0
  let s := if needs then s.requestOv c g.ctx (overlayOf pc) else s
  let s := if leaving.isEmpty then s
           else s.modCore c fun k => k.enterOv g.ctx (overlayOf pc) (s.slotQuota g.ctx) s.cc
  let s := if leaving.isEmpty then s else s.retryLoads c
  if needs then s.parkOn c gid lanes (overlayOf pc) w else s

/-- Released threads whose overlay is no longer Resident enter it anew and park on it (R71). -/
def enterAgain (s : State) (c gid : Nat) : State :=
  let g := s.group c gid
  let lost := fun (t : Thread) => t.live && !t.held && t.wait.isNone && wf32 t.pc 15 14 == 0
    && ((s.core c).resident? g.ctx (overlayOf t.pc)).isNone
  let at_ := g.threads.zipIdx.filter fun (t, _) => lost t
  ((at_.map fun (t, _) => overlayOf t.pc).dedup).foldl (fun (s : State) id =>
    let lanes := maskOf ((at_.filter fun (t, _) => overlayOf t.pc = id).map (·.2))
    let s := s.requestOv c g.ctx id
    let s := s.modCore c fun k => k.enterOv g.ctx id (s.slotQuota g.ctx) s.cc
    s.parkOn c gid lanes id .start) s

/-- The failed load of an overlay on which threads of a group stood is taken as a precise trap, by one bundle at a time, when no
handler runs (R66, R71). -/
def failedAt (s : State) (c gid : Nat) : Option (Trap × Word) :=
  let g := s.group c gid
  let ts := g.threads.zipIdx.filterMap fun (t, i) => match t.wait with
    | some (.failed x) => if t.live && !t.held then some (x, i) else none
    | _ => none
  ts.head?.map fun x => (x.1, maskOf ((ts.filter fun y => y.1 = x.1).map (·.2)))

end State

/-! ### Boundary traps, supervisor records, traps (R339 to R346) -/

/-- A trap record of the current instruction. -/
def mkTrap (cause info : Nat) (addr : Nat := 0) (code : Nat := 0) : Trap :=
  { cause, code, info := w32 info, addrL := w32 addr, addrH := w32 (addr / 2 ^ 32) }

/-- The 24 words of a supervisor record (R346). -/
def supRecord (t : Trap) (escalated double : Bool) (ctx gid : Nat) (tag : Word) (payload : List Word) : List Word :=
  [w32 (t.cause + 256 * bit escalated + 512 * bit double), w32 (ctx * 2 ^ 24 + gid), t.pc, t.info, t.addrL, t.addrH,
   t.lanes, tag] ++ (payload ++ List.replicate 16 0).take 16

namespace State

/-- Post a supervisor record; a raiser that finds 32 records queued waits (R346). -/
def postRecord (s : State) (c : Nat) (r : List Word) : State :=
  s.modCore c fun k =>
    let k := if k.srec.length < 32 then { k with srec := k.srec ++ [r] } else { k with srecWait := k.srecWait ++ [r] }
    k.wake fun w => w = .halt

/-- Hold or release the threads of a group; a held thread is not ready, so its waits start again (R162). -/
def holdAll (s : State) (c gid : Nat) (b : Bool) : State :=
  s.modGroup c gid fun g => { g with threads := g.threads.map fun t => { t with held := b, laneWait := 0, uniWait := 0 } }

/-- A trap that the supervisor thread raises: the die agent restarts it at its firmware entry (R345). -/
def restartSupervisor (s : State) (c : Nat) : State :=
  let s := s.modGroup c supGid fun g =>
    { g with trap := {}, pending := [], locks := [], issued := [], escalated := false,
             threads := g.threads.map fun t => { t with held := false, victim := false, wait := none, depth := 0, live := true } }
  s.moveTo c supGid 1 0 .start

/-- The payload of a supervisor record (R346): for a store fault the oldest store-fault record of the group. -/
def trapPayload (s : State) (c uid : Nat) (t : Trap) : List Word :=
  if t.cause = 4 ∧ t.info.getLsbD 31 = false then
    match (s.core c).sfq.find? fun r => r.uid == uid with
    | some r => (List.range 12).map fun j => w32 (leNat ((r.bytes.drop (4 * j)).take 4))
    | none => []
  else []

/-- An escalated trap: a supervisor record, and the whole group held (R344). -/
def escalate (s : State) (c gid : Nat) (t : Trap) : State :=
  if gid = supGid then s.restartSupervisor c
  else
    let g := s.group c gid
    let payload := s.trapPayload c g.uid t
    let s := s.holdAll c gid true
    let s := s.modGroup c gid fun g => { g with escalated := true }
    s.postRecord c (supRecord t true g.trap.inHandler g.ctx gid (s.team c g.team).tag payload)

/-- Capacity of a thread's link stack (R232, R244). -/
def linkMax (s : State) (c gid : Nat) : Nat := 4 + (s.team c (s.group c gid).team).windowOf gid / 4

/-- Push on the link stacks of some threads; the deeper entries go to the lane private window (R232). -/
def pushLink (s : State) (c gid : Nat) (lanes : Word) (ret : Nat → Word) : State :=
  let g := s.group c gid
  let t := s.team c g.team
  let w := t.windowOf gid
  let s := s.modCore c fun k => (lanesOf lanes).foldl (fun k i =>
    let d := (g.threads.getD i {}).depth
    if d < 4 then k else k.writeBank i (t.windowBase g + w - 4 * (d - 3)) (leBytes 4 (ret i).toNat)) k
  s.modGroup c gid fun g => g.onLanes lanes fun i t =>
    { t with link := if t.depth < 4 then t.link.set t.depth (ret i) else t.link, depth := t.depth + 1 }

/-- The entry that a pop of a thread returns (R232). -/
def linkTop (s : State) (c gid lane : Nat) : Word :=
  let g := s.group c gid
  let th := g.threads.getD lane {}
  let t := s.team c g.team
  let d := th.depth - 1
  if d < 4 then th.link.getD d 0
  else w32 (leNat ((s.core c).readBank lane (t.windowBase g + t.windowOf gid - 4 * (d - 3)) 4))

/-- Lower the link depth of some threads by one. -/
def dropLink (s : State) (c gid : Nat) (lanes : Word) : State :=
  s.modGroup c gid fun g => g.onLanes lanes fun _ t => { t with depth := t.depth - 1 }

/-- Threads that take a trap perform the fence at which they stood anew, from its beginning, if they come back to it. -/
def forgetFences (s : State) (c uid : Nat) (lanes : Word) : State :=
  let mine := fun (f : RFence) => f.core == c && f.uid == uid && f.resume.isNone
  let left := s.fences.map fun (n, f) => (n, if mine f then { f with lanes := f.lanes &&& ~~~lanes } else f)
  { s with fences := left.filter fun p => !(mine p.2 && p.2.lanes == 0) }

/-- TAKING A TRAP (R342): the victims push their resume points, the trap registers are loaded, and the victims go on as
one bundle at the handler while every other thread is held; or the trap escalates. -/
def takeTrap (s : State) (c gid : Nat) (t : Trap) (victims : Word) (precise : Bool) (resume : Nat → Word) : State :=
  let g := s.group c gid
  let s := if precise then s.modGroup c gid fun g => g.unlatch victims else s
  if gid = supGid then s.restartSupervisor c
  else if victims = 0 ∨ ¬ g.trap.tvec.getLsbD 15 ∨ g.trap.inHandler
      ∨ (lanesOf victims).any (fun i => (g.threads.getD i {}).depth ≥ s.linkMax c gid) then
    s.escalate c gid { t with lanes := victims }
  else
    let s := (s.forgetFences c g.uid victims).pushLink c gid victims resume
    let s := s.modGroup c gid fun g =>
      { g with
        trap := { g.trap with
          inHandler := true
          tcause := w32 (bit precise * 2 ^ 31 + t.code * 2 ^ 16 + t.cause)
          tpc := t.pc, tinfo := t.info, taddrl := t.addrL, taddrh := t.addrH, tlanes := victims, tdesc := t.desc
          ttag := (s.team c g.team).tag }
        threads := g.threads.mapIdx fun i th =>
          if victims.getLsbD i then { th with victim := true, held := false, wait := none } else { th with held := true, laneWait := 0, uniWait := 0 } }
    s.moveTo c gid victims (g.trap.tvec &&& 0xffff3fff) .trapEntry

/-- One failed load of a group is taken, when threads that stood on it are not held (R66, R71). -/
def takeFailed (s : State) (c gid : Nat) : State :=
  match s.failedAt c gid with
  | none => s
  | some (t, lanes) =>
    let s := s.modGroup c gid fun g => g.onLanes lanes fun _ th => { th with wait := none }
    s.takeTrap c gid { t with lanes } lanes true fun _ => t.pc

/-- A group has a trap to take once no handler runs: a pending one, or a failed load. -/
def wantsTrap (s : State) (c gid : Nat) : Bool := !(s.group c gid).pending.isEmpty || (s.failedAt c gid).isSome

/-- A boundary trap becomes pending for a group, if the group of that number is still there; a trap of a group that ended
by EXIT goes to the supervisor, with the launch tag of its team, and one of a group ended by TERMG is discarded (R340, R346,
R351, R353). -/
def pendTrap (s : State) (c gid uid ctx : Nat) (t : Trap) (payload : List Word := []) (team : Nat := 0) : State :=
  let tag := (s.team c team).tag
  match s.group? c gid with
  | some g =>
    if g.uid = uid ∧ ¬ g.ending then
      if t.cause = 4 ∧ t.info.getLsbD 31 = false ∧ g.pending.any (fun p => p.cause = 4 ∧ p.info.getLsbD 31 = false) then s
      else (s.modGroup c gid fun g => { g with pending := g.pending ++ [t] }).postOnce (.boundaryTrapTake c gid)
    else if (s.core c).killed.contains uid then s
    else s.postRecord c (supRecord t false false ctx gid (if g.uid = uid then (s.team c g.team).tag else tag) payload)
  | none =>
    if (s.core c).killed.contains uid then s
    else s.postRecord c (supRecord t false false ctx gid tag payload)

/-! ### Releases (R138 to R140, R143) and ring updates (R47 to R50) -/

/-- An access of some of the threads of a group, by the lanes of its instruction. -/
def ofThreads (uid : Nat) (lanes : Word) (u : Nat) (victims : Word) : Bool := u == uid && (victims &&& lanes) != 0

/-- The accesses of some threads of a group below given marks are performed at a scope (R138 to R140): at `.grp` their loads have
their values; at `.core` also their stores are accepted, with the stores of their group whose bytes they took from the buffer, and
with every store and every result of the atomic unit that has left the core, whose value they may have read from the first-level
cache; at `.sys` also their reflected stores are applied or discarded on every path. -/
def marksDone (s : State) (c uid : Nat) (lanes : Word) (sc : Scope) (sb op rs : Nat) : Bool :=
  let k := s.core c
  let loads := !(k.memops.any fun (j, o) => decide (j < op) && ofThreads uid lanes o.uid o.victims && (match o.kind with
      | .pref _ => false
      | _ => true))
  let own := !(k.sbuf.any fun (j, e) => decide (j < sb) && ofThreads uid lanes e.uid (e.victims ||| e.seen))
  let core := !(k.sbuf.any fun (j, e) => decide (j < sb) && e.bytes.any (·.sent)) &&
    !(k.atoms.any fun h => decide (h.op < op) && h.old.isSome)
  -- a store that the group made on another core, before it was saved, precedes all that it does here
  let before := fun (cc : Nat) (cl : Client) (id : Nat) => cc != c || decide (id < rs) || (match cl with
    | .store _ key _ => decide (key < sb)
    | _ => false)
  let sys := !(s.rstores.any fun r => before r.core r.client r.id && ofThreads uid lanes r.uid r.lanes) &&
    !(s.sequenced.any fun q => before q.core q.client q.id && ofThreads uid lanes q.uid q.lanes && q.paths.any fun p => p.2.2 == 0)
  match sc with
  | .grp => loads
  | .core | .die | .pkg => loads && own && core
  | .sys => loads && own && core && sys

end State

/-- A scope by its number in a ring descriptor (R47). -/
def scopeOf : Nat → Scope
  | 0 => .grp
  | 1 => .core
  | 2 => .die
  | 3 => .pkg
  | _ => .sys

/-- Quadword q of a ring descriptor at an absolute offset. -/
def Core.ringQ (k : Core) (d q : Nat) : DWord := k.store64 (d + 8 * q)

/-- The descriptor is valid in an allocation of a given limit (R47). -/
def ringValid (q0 : DWord) (limit : Nat) : Bool :=
  qf q0 63 48 ≠ 0 && qf q0 3 0 == 0 && decide (qf q0 22 0 + qf q0 63 48 * (qf q0 39 32 + 1) * 16 ≤ limit)

/-- Quadword 1 is consistent (R50). -/
def ringSound (q0 q1 : DWord) : Bool :=
  decide (qf q1 63 48 + qf q1 47 32 ≤ qf q0 63 48 ∧ qf q1 15 0 < qf q0 63 48 ∧ qf q1 31 16 < qf q0 63 48)

/-- Set the sticky underflow or overflow bit of quadword 2. -/
def Core.ringFlag (k : Core) (d b : Nat) : Core := k.putStore64 (d + 16) (qset (k.ringQ d 2) b b 1)

/-- Publish (cons = false) or Return (cons = true) of n slots (R48) by an action that has read q0 as quadword 0; none when quadword 1
is broken (R50). -/
def Core.ringGive (k : Core) (d : Nat) (q0 : DWord) (n : Nat) (cons : Bool) : Option Core :=
  let q1 := k.ringQ d 1
  if ¬ ringSound q0 q1 then none
  else
    let (hi, lo) := if cons then (47, 32) else (63, 48)
    let c := qf q0 63 48
    let v := qf q1 hi lo + n
    if c < v then some ((k.ringFlag d 8).putStore64 (d + 8) (qset q1 hi lo c))
    else some (k.putStore64 (d + 8) (qset q1 hi lo v))

/-- TakeFree (cons = false) or TakeFilled (cons = true) of n slots that are there (R48): the first slot taken. -/
def Core.ringTake (k : Core) (d : Nat) (q0 : DWord) (n : Nat) (cons : Bool) : Core × Nat :=
  let c := qf q0 63 48
  let q1 := k.ringQ d 1
  let (hi, lo, ih, il) := if cons then (63, 48, 31, 16) else (47, 32, 15, 0)
  let first := qf q1 ih il
  (k.putStore64 (d + 8) (qset (qset q1 hi lo (qf q1 hi lo - n)) ih il ((first + n) % c)), first)

namespace State

/-- Perform one waiting CBREL when its release allows and no earlier one of the group on its descriptor waits (R303). Its
bundle has gone on, so that a broken quadword 1 is a trap at the group's next boundary. -/
def tryRelease (s : State) (c : Nat) (r : RingRel) : State :=
  let k := s.core c
  let first := k.releases.find? fun x => x.uid == r.uid && x.desc == r.desc
  if first ≠ some r ∨ ¬ s.marksDone c r.uid r.lanes r.scope r.sb r.op r.rs then s
  else
    let k := { k with releases := k.releases.erase r }
    match k.ringGive r.desc r.q0 r.n r.cons with
    | some k => s.setCore c (k.wake fun w => w == .drain)
    | none => (s.setCore c ((k.ringFlag r.desc 9).wake fun w => w == .drain)).pendTrap c r.gid r.uid r.ctx
        { mkTrap 5 3 r.off with pc := r.pc, lanes := r.lanes }

/-- Perform every waiting CBREL of a core that can be performed. -/
def ringReleases (s : State) (c : Nat) : State := (s.core c).releases.foldl (fun (s : State) r => s.tryRelease c r) s

end State

/-! ### Performing an instruction -/

/-- The thread or bundle that performs the current instruction. -/
structure Ctx where
  core : Nat
  gid : Nat
  lanes : Word
  pc : Word
  word : Word
  lit : Word
  quiet : Bool
  latch : Option Latch := none
  g : Group
deriving DecidableEq, Repr

/-- What a meaning answers for its bundle. -/
inductive Res
  /-- Done: the bundle goes on at the next instruction. -/
  | done (s : State)
  /-- Done, the PCs of the bundle already set. -/
  | moved (s : State)
  /-- The bundle waits at the instruction and goes on with it when it is ready (R160). -/
  | wait (s : State) (w : Wait)
  /-- A precise trap: the instruction changes nothing (R339). -/
  | trap (t : Trap)
deriving Repr

/-- Length of the current instruction in words (R206). -/
def Ctx.len (x : Ctx) : Nat := 1 + bit (hasLiteral x.word)

namespace State

/-- The bundle that `cur` names, when its group is resident. -/
def ctx? (s : State) : Option Ctx :=
  match s.cur with
  | none => none
  | some u =>
    match s.group? u.core u.gid with
    | none => none
    | some g => some { core := u.core, gid := u.gid, lanes := u.lanes, pc := u.pc, word := u.word, lit := u.lit, quiet := u.quiet,
                       latch := u.latch, g := match u.latch with
                         | none => g
                         | some l => { g with masks := l.masks, awl := l.awl } }

/-- The core with the s registers as the current instruction read them at its issue (R165). -/
def asIssued (s : State) (x : Ctx) : Core :=
  match x.latch with
  | none => s.core x.core
  | some l => l.sregs.zipIdx.foldl (fun (k : Core) p => k.setS x.gid p.2 p.1) (s.core x.core)

/-- Below which numbers store-buffer entries, accesses and reflected stores are earlier than the current instruction. -/
def marksOf (s : State) (x : Ctx) : Nat × Nat × Nat :=
  match x.latch with
  | none => ((s.core x.core).nextSb, (s.core x.core).nextOp, s.nextRstore)
  | some l => (l.sb, l.op, l.rs)

/-- What the current instruction has read at its issue. -/
def latchOf (s : State) (x : Ctx) : Latch :=
  x.latch.getD { sregs := (List.range 32).map fun j => (s.core x.core).getS x.gid j, masks := x.g.masks, awl := x.g.awl,
                 sb := (s.core x.core).nextSb, op := (s.core x.core).nextOp, rs := s.nextRstore }

/-- The bundle goes on at the instruction after the current one (R206). -/
def advance (s : State) (x : Ctx) : State :=
  s.modGroup x.core x.gid fun g => g.onLanes x.lanes fun _ t => { t with pc := x.pc + w32 x.len, wait := none }

/-- The bundle goes on behind an acquire once the access of this number has taken its value (R140). -/
def advanceBehind (s : State) (x : Ctx) (op : Nat) : State :=
  s.modGroup x.core x.gid fun g => g.onLanes x.lanes fun _ t => { t with pc := x.pc + w32 x.len, wait := some (.order op) }

/-- The threads of the bundle pause where they stand. -/
def pauseAt (s : State) (x : Ctx) (w : Wait) : State :=
  s.modGroup x.core x.gid fun g => g.onLanes x.lanes fun _ t => { t with wait := some w }

/-- The bundle waits at the current instruction, which keeps what it has read. -/
def waitAt (s : State) (x : Ctx) (w : Wait) : State :=
  (s.modGroup x.core x.gid fun g =>
    { g.unlatch x.lanes with issued := (g.unlatch x.lanes).issued ++
        [{ lanes := x.lanes, pc := x.pc, word := x.word, lit := x.lit, latch := s.latchOf x }] }).pauseAt x w

/-- The four registers of a cause 0x01 trap (R215). -/
def loadEmul (s : State) (x : Ctx) : State :=
  let f := fieldsOf x.word
  let e2 : Word := ((((((f.d ++ f.a) ++ f.b) ++ f.s) ++ f.me) ++ BitVec.ofBool f.l) ++ BitVec.ofBool f.set) ++ f.major
  let m := if f.set then x.lanes else x.lanes &&& x.g.mask f.me.toNat
  s.modGroup x.core x.gid fun g => { g with emul := [x.word, if f.l then x.lit else 0, e2, m] }

/-- The precise trap of the current instruction: the victims are its bundle (R214, R339, R342). -/
def preciseTrap (s : State) (x : Ctx) (t : Trap) : State :=
  if x.quiet then s
  else
    let s := if t.cause = 1 then s.loadEmul x else s
    let s := match s.second with
      | some u => { s with second := some { u with quiet := true } }
      | none => s
    let next : Word := if t.cause = 1 ∨ t.cause = 0xc then x.pc + w32 x.len else x.pc
    s.takeTrap x.core x.gid { t with pc := x.pc, lanes := x.lanes } x.lanes true fun _ => next

/-- The outcome of a meaning. -/
def finish (s : State) (x : Ctx) : Res → State
  | .done s' => s'.advance x
  | .moved s' => s'
  | .wait s' w => s'.waitAt x w
  | .trap t => s.preciseTrap x t

end State

/-- The register ranges that an instruction names and its group does not hold (R32). -/
def unheld (g : Group) (gid : Nat) (vs : List Nat) : List Nat :=
  if gid < 512 ∨ gid = supGid then ((vs.filter fun r => (g.vRow gid r).isNone).map fun r => r / 16).dedup else []

/-- The number in an event that names part k of unit i, one of fewer than n units. -/
def partNo (n i k : Nat) : Nat := i + n * k

/-- One of several: the rules do not say which, so the choice is free. -/
def State.oneOf (s : State) : List Nat → State × Nat
  | [k] => (s, k)
  | ks => ({ s with free := s.free + 1 }, ks.getD ((Config.freeWord s.free).toNat % ks.length) 0)

/-- Chunks that the supervisor thread, which is in no team, holds. -/
def Core.supHeld (k : Core) : Nat := ((k.groups.look supGid).map fun g => g.chunks.countP (·.isSome)).getD 0

/-- unreserved_free: 992 less the larger of reserve and holding of every resident team (R31, R34), and less what the supervisor
thread holds. -/
def Core.unreserved (k : Core) : Nat := 992 - k.teams.foldl (fun a (_, t) => a + max t.reserve t.held) 0 - k.supHeld

/-- TADDRL of cause 0x07 (R172, R339): H, Q and unreserved_free. -/
def State.poolAddr (s : State) (c t : Nat) : Nat :=
  (s.team c t).held + (s.team c t).reserve * 2 ^ 10 + (s.core c).unreserved * 2 ^ 20

/-- Perform an instruction word: on a thread where it is no instruction it takes cause 0x01 (R213, R345); then the range check
of R32; then the meaning. -/
def perform (barred : Nat → Bool) (vs : List Nat) (body : Ctx → State → Res) (s : State) :
    Host.Outcome State Fault Refusal :=
  match s.ctx? with
  | none => .fault .noIssuer
  | some x =>
    if barred x.gid then .next (s.finish x (.trap (mkTrap 1 0)))
    else
      match unheld x.g x.gid vs with
      | [] => .next (s.finish x (body x s))
      | k :: ks =>
        let (s, k) := s.oneOf (k :: ks)
        .next (s.finish x (.trap (mkTrap 7 (4 + k) (s.poolAddr x.core x.g.team))))

/-! ### Protection causes by sub code (R447) -/

def prot (sub : Nat) (addr : Nat := 0) : Res := .trap (mkTrap 5 sub addr)
def misaligned (size addr : Nat) : Res := .trap (mkTrap 2 size addr)

end Sys2Proof.Machine
end

