-- ==== Sys2Proof/Machine/Flags.lean ====
section
/-! DEFINITION. The scalar number formats, rounding and flags (R245 to R264): exact values as rationals times powers of two,
one rounding function for every format and mode, the FP32 and packed operations over it, and the flags each raises. -/

namespace Sys2Proof.Machine

/-! ### Flags (R247, R248), as bits [4:0] of SR.ARITH -/

def flInvalid : Word := 16
def flDivZero : Word := 8
def flOverflow : Word := 4
def flUnderflow : Word := 2
def flInexact : Word := 1
def flIf (b : Bool) (f : Word) : Word := if b then f else 0

namespace Fp

/-- A floating-point format (R245). -/
structure Fmt where
  exp : Nat
  frac : Nat
  bias : Nat
  /-- E4M3 has no infinity: its top exponent holds finite values, and only all ones is NaN. -/
  noInf : Bool := false
deriving DecidableEq, Repr

def f32 : Fmt := ⟨8, 23, 127, false⟩
def f16 : Fmt := ⟨5, 10, 15, false⟩
def bf16 : Fmt := ⟨8, 7, 127, false⟩
def e4m3 : Fmt := ⟨4, 3, 7, true⟩
def e5m2 : Fmt := ⟨5, 2, 15, false⟩

def Fmt.width (f : Fmt) : Nat := 1 + f.exp + f.frac
/-- Magnitude bits of the largest finite value. -/
def Fmt.maxBits (f : Fmt) : Nat := if f.noInf then 2 ^ (f.exp + f.frac) - 2 else (2 ^ f.exp - 1) * 2 ^ f.frac - 1
/-- Magnitude bits of infinity. -/
def Fmt.infBits (f : Fmt) : Nat := (2 ^ f.exp - 1) * 2 ^ f.frac
/-- The canonical NaN (R246). -/
def Fmt.nan (f : Fmt) : Nat := if f.noInf then 2 ^ (f.exp + f.frac) - 1 else f.infBits + 2 ^ (f.frac - 1)
def Fmt.sign (f : Fmt) (neg : Bool) : Nat := bit neg * 2 ^ (f.exp + f.frac)

/-- A decoded value: NaN (signalling or not), an infinity, or (−1)^neg × m × 2^e. -/
inductive Val
  | nan (sig : Bool)
  | inf (neg : Bool)
  | fin (neg : Bool) (m : Nat) (e : Int)
deriving DecidableEq, Repr

/-- The value of an encoding (R245, R246). -/
def unpack (f : Fmt) (w : Nat) : Val :=
  let neg := w.testBit (f.exp + f.frac)
  let mag := w % 2 ^ (f.exp + f.frac)
  let ex := mag / 2 ^ f.frac
  let fr := mag % 2 ^ f.frac
  if f.noInf ∧ mag = 2 ^ (f.exp + f.frac) - 1 then .nan false
  else if ¬ f.noInf ∧ ex = 2 ^ f.exp - 1 then
    (if fr = 0 then .inf neg else .nan (fr < 2 ^ (f.frac - 1)))
  else if ex = 0 then .fin neg fr (1 - (f.bias : Int) - f.frac)
  else .fin neg (2 ^ f.frac + fr) ((ex : Int) - f.bias - f.frac)

/-- Flush a subnormal input to a zero of its sign (R250). -/
def flushIn (f : Fmt) : Val → Val
  | .fin neg m e => if m < 2 ^ f.frac then .fin neg 0 e else .fin neg m e
  | v => v

/-- 2^e for e ≥ 0, else 1. -/
def pow2 (e : Int) : Nat := 2 ^ e.toNat

/-- Round the non-negative rational n / d to an integer, for a value of the given sign; `r` is the 24-bit draw of mode 4
(R250, R252). The flag says that the result differs. -/
def rint (mode : RMode) (neg : Bool) (r n d : Nat) : Nat × Bool :=
  let q := n / d
  let m := n % d
  if m = 0 then (q, false)
  else
    let up := match mode with
      | .rne => decide (d < 2 * m) || (decide (2 * m = d) && q % 2 == 1)
      | .rz => false
      | .ru => !neg
      | .rd => neg
      | .sr => if neg then !decide (r < (d - m) * 2 ^ 24 / d) else decide (r < m * 2 ^ 24 / d)
    (if up then q + 1 else q, true)

/-- Floor of log2 of the positive rational n / d. -/
def ilog2 (n d : Nat) : Int :=
  let k : Int := (n.log2 : Int) - d.log2
  if d * pow2 k ≤ n * pow2 (-k) then k else k - 1

/-- What an overflow writes: infinity or the largest finite value, by sign and mode (R250, R252, R263). -/
def overflow (f : Fmt) (mode : RMode) (neg : Bool) : Nat × Word :=
  let toMax := f.noInf || (match mode with
    | .rne | .sr => false
    | .rz => true
    | .ru => neg
    | .rd => !neg)
  (f.sign neg + (if toMax then f.maxBits else f.infBits), flOverflow ||| flInexact)

/-- Round (−1)^neg × n / d × 2^e, n > 0, to a format, with its flags (R248, R250, R252). -/
def roundPos (f : Fmt) (mode : RMode) (r : Nat) (neg : Bool) (n d : Nat) (e : Int) : Nat × Word :=
  let top := ilog2 n d + e
  let u := top - f.frac
  let emin : Int := 1 - (f.bias : Int) - f.frac
  let q := max u emin
  let (k, inex) := rint mode neg r (n * pow2 (e - q)) (d * pow2 (q - e))
  let maxTop : Int := if f.noInf then (2 ^ f.exp : Int) - 1 - f.bias else (2 ^ f.exp : Int) - 2 - f.bias
  -- encoding of k × 2^q: the carry into the next binade is the addition's
  let enc : Int := if q = emin then (k : Int) else (k : Int) - 2 ^ f.frac + (q - emin + 1) * 2 ^ f.frac
  if maxTop < top ∨ (f.maxBits : Int) < enc then overflow f mode neg
  else
    let (ku, _) := rint mode neg r (n * pow2 (e - u)) (d * pow2 (u - e))
    let tiny : Bool := decide (u < emin) && decide (ku * pow2 (u - emin) < 2 ^ f.frac * pow2 (emin - u))
    (f.sign neg + enc.toNat, flIf inex flInexact ||| flIf (inex && tiny) flUnderflow)

/-- Round a signed rational times a power of two; an exact zero has the given sign. -/
def roundVal (f : Fmt) (mode : RMode) (r : Nat) (neg : Bool) (n d : Nat) (e : Int) : Nat × Word :=
  if n = 0 then (f.sign neg, 0) else roundPos f mode r neg n d e

/-- Round an exact integer times a power of two; zero is `zneg`. -/
def roundInt (f : Fmt) (mode : RMode) (r : Nat) (x : Int) (e : Int) (zneg : Bool) : Nat × Word :=
  if x = 0 then (f.sign zneg, 0) else roundPos f mode r (x < 0) x.natAbs 1 e

/-- Flush a subnormal result of a format to a zero of its sign, with underflow (R250). -/
def flushOut (f : Fmt) (flush : Bool) (x : Nat × Word) : Nat × Word :=
  let mag := x.1 % 2 ^ (f.exp + f.frac)
  if flush ∧ 0 < mag ∧ mag < 2 ^ f.frac then (x.1 - mag, x.2 ||| flUnderflow ||| flInexact) else x

/-- Signed integer of a magnitude. -/
def signed (neg : Bool) (m : Nat) : Int := if neg then -(m : Int) else m

/-- The exact sum of two finite values: an integer and its exponent. -/
def addExact (n1 : Bool) (m1 : Nat) (e1 : Int) (n2 : Bool) (m2 : Nat) (e2 : Int) : Int × Int :=
  let e := min e1 e2
  (signed n1 m1 * (pow2 (e1 - e) : Int) + signed n2 m2 * (pow2 (e2 - e) : Int), e)

/-- The canonical NaN, with invalid when asked. -/
def nanRes (f : Fmt) (inv : Bool) : Nat × Word := (f.nan, flIf inv flInvalid)
def infRes (f : Fmt) (neg : Bool) : Nat × Word := (f.sign neg + f.infBits, 0)
def Val.isSig : Val → Bool
  | .nan s => s
  | _ => false
def Val.isNan : Val → Bool
  | .nan _ => true
  | _ => false

/-- Sum of two decoded values, one rounding (R258): the sign of an exact zero follows R250. -/
def addVal (f : Fmt) (x y : Val) : Nat × Word :=
  match x, y with
  | .nan s, v => nanRes f (s || v.isSig)
  | v, .nan s => nanRes f (s || v.isSig)
  | .inf a, .inf b => if a = b then infRes f a else nanRes f true
  | .inf a, .fin _ _ _ => infRes f a
  | .fin _ _ _, .inf b => infRes f b
  | .fin n1 m1 e1, .fin n2 m2 e2 =>
    let (v, e) := addExact n1 m1 e1 n2 m2 e2
    roundInt f .rne 0 v e (n1 && n2)

/-- Product of two decoded values, one rounding (R258). -/
def mulVal (f : Fmt) (x y : Val) : Nat × Word :=
  match x, y with
  | .nan s, v => nanRes f (s || v.isSig)
  | v, .nan s => nanRes f (s || v.isSig)
  | .inf a, .inf b => infRes f (a != b)
  | .inf a, .fin b m _ => if m = 0 then nanRes f true else infRes f (a != b)
  | .fin a m _, .inf b => if m = 0 then nanRes f true else infRes f (a != b)
  | .fin n1 m1 e1, .fin n2 m2 e2 => roundVal f .rne 0 (n1 != n2) (m1 * m2) 1 (e1 + e2)

/-- x × y + z with one rounding; 0 × ∞ raises invalid even beside a quiet NaN (R258). -/
def fmaVal (f : Fmt) (x y z : Val) : Nat × Word :=
  let sig := x.isSig || y.isSig || z.isSig
  let zeroInf := match x, y with
    | .inf _, .fin _ m _ => m == 0
    | .fin _ m _, .inf _ => m == 0
    | _, _ => false
  if x.isNan || y.isNan || z.isNan then nanRes f (sig || zeroInf)
  else if zeroInf then nanRes f true
  else
    match x, y, z with
    | .fin n1 m1 e1, .fin n2 m2 e2, .fin n3 m3 e3 =>
      let (v, e) := addExact (n1 != n2) (m1 * m2) (e1 + e2) n3 m3 e3
      roundInt f .rne 0 v e ((n1 != n2) && n3)
    | .fin _ _ _, .fin _ _ _, .inf c => infRes f c
    | a, b, c =>
      let neg := (match a with | .inf s => s | .fin s _ _ => s | _ => false)
        != (match b with | .inf s => s | .fin s _ _ => s | _ => false)
      match c with
      | .inf s => if s = neg then infRes f neg else nanRes f true
      | _ => infRes f neg

/-- Quotient, one rounding (R258). -/
def divVal (f : Fmt) (x y : Val) : Nat × Word :=
  match x, y with
  | .nan s, v => nanRes f (s || v.isSig)
  | v, .nan s => nanRes f (s || v.isSig)
  | .inf _, .inf _ => nanRes f true
  | .inf a, .fin b _ _ => infRes f (a != b)
  | .fin a _ _, .inf b => (f.sign (a != b), 0)
  | .fin a m e, .fin b n e' =>
    if n = 0 then (if m = 0 then nanRes f true else ((infRes f (a != b)).1, flDivZero))
    else roundVal f .rne 0 (a != b) m n (e - e')

/-- Integer square root by one bit a round, from bit k − 1 down. -/
def isqrtFrom : Nat → Nat → Nat → Nat
  | 0, _, r => r
  | k + 1, n, r => isqrtFrom k n (if (r + 2 ^ k) * (r + 2 ^ k) ≤ n then r + 2 ^ k else r)

/-- Floor of the square root. -/
def isqrt (n : Nat) : Nat := isqrtFrom (n.log2 / 2 + 1) n 0

/-- A square root as an integer with a sticky last bit and its exponent: √(m × 2^e). -/
def sqrtSticky (m : Nat) (e : Int) : Nat × Int :=
  let e' := (e - 64 - (e % 2)) 
  let n := m * pow2 (e - e')
  let r := isqrt n
  (2 * r + bit (r * r ≠ n), e' / 2 - 1)

/-- Square root, one rounding (R258). -/
def sqrtVal (f : Fmt) (x : Val) : Nat × Word :=
  match x with
  | .nan s => nanRes f s
  | .inf neg => if neg then nanRes f true else infRes f false
  | .fin neg m e =>
    if m = 0 then (f.sign neg, 0)
    else if neg then nanRes f true
    else
      let (r, e') := sqrtSticky m e
      roundVal f .rne 0 false r 1 e'

/-! ### Comparisons (R260) -/

/-- Order key of an FP32 encoding that is no NaN: −0 lies below +0. -/
def key (w : Nat) : Int := if w.testBit 31 then -((w % 2 ^ 31 : Nat) : Int) - 1 else (w : Int)
/-- Order key in which the zeros are equal. -/
def keyEq (w : Nat) : Int := if w.testBit 31 then -((w % 2 ^ 31 : Nat) : Int) else (w : Int)
def isNan32 (w : Word) : Bool := (unpack f32 w.toNat).isNan
def isSig32 (w : Word) : Bool := (unpack f32 w.toNat).isSig
def isInf32 (w : Word) : Bool := w.toNat % 2 ^ 31 = 0x7f800000
def finite32 (w : Word) : Bool := decide (w.toNat % 2 ^ 31 < 0x7f800000)
/-- a < b as numbers, neither a NaN. -/
def lt32 (a b : Word) : Bool := decide (keyEq a.toNat < keyEq b.toNat)
def le32 (a b : Word) : Bool := decide (keyEq a.toNat ≤ keyEq b.toNat)

def cmp (cc : FCc) (a b : Word) : Bool × Word :=
  let u := isNan32 a || isNan32 b
  let sig := isSig32 a || isSig32 b
  match cc with
  | .eq => (!u && keyEq a.toNat == keyEq b.toNat, flIf sig flInvalid)
  | .ne => (u || keyEq a.toNat != keyEq b.toNat, flIf sig flInvalid)
  | .lt => (!u && lt32 a b, flIf u flInvalid)
  | .ge => (!u && le32 b a, flIf u flInvalid)
  | .ord => (!u, flIf sig flInvalid)
  | .unord => (u, flIf sig flInvalid)

/-- FMIN and FMAX (R260). -/
def minMax (isMax : Bool) (a b : Word) : Word × Word :=
  let fl := flIf (isSig32 a || isSig32 b) flInvalid
  if isNan32 a then (if isNan32 b then 0x7fc00000 else b, fl)
  else if isNan32 b then (a, fl)
  else (if (key a.toNat < key b.toNat) = isMax then b else a, fl)

/-! ### The FP32 operations on words -/

def w (x : Nat × Word) : Word × Word := (BitVec.ofNat 32 x.1, x.2)
def v32 (a : Word) : Val := unpack f32 a.toNat
/-- The negation of a decoded value. -/
def Val.neg : Val → Val
  | .nan s => .nan s
  | .inf n => .inf (!n)
  | .fin n m e => .fin (!n) m e

def add (a b : Word) : Word × Word := w (addVal f32 (v32 a) (v32 b))
def sub (a b : Word) : Word × Word := w (addVal f32 (v32 a) (v32 b).neg)
def mul (a b : Word) : Word × Word := w (mulVal f32 (v32 a) (v32 b))
def fma (a b d : Word) : Word × Word := w (fmaVal f32 (v32 a) (v32 b) (v32 d))
def div (a b : Word) : Word × Word := w (divVal f32 (v32 a) (v32 b))
def sqrt (a : Word) : Word × Word := w (sqrtVal f32 (v32 a))

/-! ### Packed 16-bit operations (R261) -/

/-- One half: the operands are flushed, the operation rounded, and the result flushed, for the BF16 forms. -/
def half (f : Fmt) (flush : Bool) (op : Val → Val → Val → Nat × Word) (a b d : Nat) : Nat × Word :=
  let u := fun x => if flush then flushIn f (unpack f x) else unpack f x
  flushOut f flush (op (u a) (u b) (u d))

def packed (f : Fmt) (flush : Bool) (op : Val → Val → Val → Nat × Word) (a b d : Word) : Word × Word :=
  let l := half f flush op (a.toNat % 2 ^ 16) (b.toNat % 2 ^ 16) (d.toNat % 2 ^ 16)
  let h := half f flush op (a.toNat / 2 ^ 16) (b.toNat / 2 ^ 16) (d.toNat / 2 ^ 16)
  (BitVec.ofNat 32 (h.1 * 2 ^ 16 + l.1), l.2 ||| h.2)

/-! ### The approximate functions (R259) -/

/-- The magnitude of a value rounded toward or away from zero, as the low 31 bits of an FP32 word. -/
def magnitude (mode : RMode) (n d : Nat) (e : Int) : Nat := (roundVal f32 mode 0 false n d e).1

/-- A result of an approximate function: the free magnitude, held between two bounds that are themselves monotonic in the operand,
and then flushed (R250, R259). A falling function is 2^31 less a rising one. -/
def held (free : Nat →o Nat) (rising : Bool) (a : Word) (neg : Bool) (lo hi : Nat) : Word × Word :=
  let c := free (a.toNat % 2 ^ 31)
  let m := max lo (min hi (if rising then c else 2 ^ 31 - c))
  if 0 < m ∧ m < 2 ^ 23 then (BitVec.ofNat 32 (f32.sign neg), flUnderflow) else (BitVec.ofNat 32 (f32.sign neg + m), 0)

/-- A result within some units in the last place of the exact n / d × 2^e, and between the results at the nearest exact cases. -/
def bounded (free : Nat →o Nat) (rising : Bool) (a : Word) (ulps : Nat) (neg : Bool) (n d : Nat) (e : Int) (floor ceil : Nat) :
    Word × Word :=
  held free rising a neg (max floor (magnitude .rd n d e - (ulps - 1))) (min ceil (magnitude .ru n d e + (ulps - 1)))

def pow32 (neg : Bool) (k : Int) : Word := BitVec.ofNat 32 (roundVal f32 .rne 0 neg 1 1 k).1

/-- A power of two: the significand is 1.0. -/
def isPow2 (m : Nat) : Bool := m = 2 ^ 23

def rcp (a : Word) : Word × Word :=
  match flushIn f32 (v32 a) with
  | .nan s => w (nanRes f32 s)
  | .inf n => (BitVec.ofNat 32 (f32.sign n), 0)
  | .fin n m e =>
    if m = 0 then (BitVec.ofNat 32 (infRes f32 n).1, flDivZero)
    else if isPow2 m then
      (if -126 ≤ -(e + 23) then (pow32 n (-(e + 23)), 0) else (BitVec.ofNat 32 (f32.sign n), flUnderflow))
    else if ilog2 1 m - e < -126 then (BitVec.ofNat 32 (f32.sign n), flUnderflow)
    else bounded (Config.frcp n) false a 1 n 1 m (-e) 0 0x7f7fffff

def rsq (a : Word) : Word × Word :=
  match flushIn f32 (v32 a) with
  | .nan s => w (nanRes f32 s)
  | .inf n => if n then w (nanRes f32 true) else (0, 0)
  | .fin n m e =>
    if m = 0 then (BitVec.ofNat 32 (infRes f32 n).1, flDivZero)
    else if n then w (nanRes f32 true)
    else if isPow2 m ∧ (e + 23) % 2 = 0 then (pow32 false (-((e + 23) / 2)), 0)
    else
      let (r, e') := sqrtSticky m e
      let j := Int.fdiv (e + 23) 2
      bounded (Config.frsq false) false a 2 false 1 r (-e') (pow32 false (-j - 1)).toNat (pow32 false (-j)).toNat

/-- 2 to a fraction given by bits below the point, most significant first, scaled by 2^256: bit i multiplies by the i-th
successive square root of 2. It is low by less than 2^-240, and nearer to the exact value than that one is to any FP32 value. -/
def exp2Frac : List Bool → Nat → Nat → Nat
  | [], _, acc => acc
  | b :: t, root, acc =>
    let root := isqrt (root * 2 ^ 256)
    exp2Frac t root (if b then acc * root / 2 ^ 256 else acc)

def ex2 (a : Word) : Word × Word :=
  match flushIn f32 (v32 a) with
  | .nan s => w (nanRes f32 s)
  | .inf n => if n then (0, 0) else w (infRes f32 false)
  | .fin n m e =>
    let x := signed n m
    let i : Int := if 0 ≤ e then x * pow2 e else Int.fdiv x (pow2 (-e))
    let frac : Nat := if 0 ≤ e then 0 else (Int.fmod x (pow2 (-e))).toNat
    if 128 ≤ i then ((w (infRes f32 false)).1, flOverflow)
    else if i < -126 then (0, flUnderflow)
    else if frac = 0 then (pow32 false i, 0)
    else
      let d := (-e).toNat
      let bs := (List.range d).map fun j => frac.testBit (d - 1 - j)
      bounded (Config.fex2 n) (!n) a 2 false (exp2Frac bs (2 * 2 ^ 256) (2 ^ 256)) 1 (i - 256) (pow32 false i).toNat (pow32 false (i + 1)).toNat

/-- Binary digits of log2 of y / 2^192 in [1, 2): square and compare. -/
def log2Digits : Nat → Nat → Nat → Nat
  | 0, _, acc => acc
  | k + 1, y, acc =>
    let y := y * y / 2 ^ 192
    if 2 ^ 193 ≤ y then log2Digits k (y / 2) (2 * acc + 1) else log2Digits k y (2 * acc)

def lg2 (a : Word) : Word × Word :=
  match flushIn f32 (v32 a) with
  | .nan s => w (nanRes f32 s)
  | .inf n => if n then w (nanRes f32 true) else w (infRes f32 false)
  | .fin n m e =>
    if m = 0 then ((w (infRes f32 true)).1, flDivZero)
    else if n then w (nanRes f32 true)
    else if isPow2 m then (BitVec.ofNat 32 (roundInt f32 .rne 0 (e + 23) 0 false).1, 0)
    else
      let l : Int := (e + 23) * 2 ^ 128 + log2Digits 128 (m * 2 ^ 169) 0
      let neg := decide (l < 0)
      if e + 23 = -1 ∨ e + 23 = 0 then
        -- absolute error 2^-22 on [0.5, 2]
        let lo := magnitude .ru (l.natAbs - 2 ^ 106) 1 (-128)
        let hi := magnitude .rd (l.natAbs + 2 ^ 106) 1 (-128)
        held (Config.flg2 neg) (!neg) a neg lo (min (pow32 false 0).toNat hi)
      else
        let whole := l.natAbs / 2 ^ 128
        bounded (Config.flg2 neg) (!neg) a 2 neg l.natAbs 1 (-128) (magnitude .rd whole 1 0) (magnitude .rd (whole + 1) 1 0)

/-! ### Conversions (R262 to R264) -/

def fmtOf : CvtFmt → Option Fmt
  | .f32 => some f32 | .f16 => some f16 | .bf16 => some bf16 | .e4m3 => some e4m3 | .e5m2 => some e5m2
  | .s32 | .u32 | .s16 => none

/-- The source value of a conversion, read from the low bits of the register (R262). -/
def cvtSource (src : CvtFmt) (a : Word) : Val :=
  match src with
  | .s32 => let x := a.toInt; .fin (x < 0) x.natAbs 0
  | .u32 => .fin false a.toNat 0
  | .s16 => let x := (a.extractLsb' 0 16).toInt; .fin (x < 0) x.natAbs 0
  | .f32 => unpack f32 a.toNat
  | .f16 => unpack f16 (a.toNat % 2 ^ 16)
  | .bf16 => unpack bf16 (a.toNat % 2 ^ 16)
  | .e4m3 => unpack e4m3 (a.toNat % 2 ^ 8)
  | .e5m2 => unpack e5m2 (a.toNat % 2 ^ 8)

/-- Range of an integer destination (R264). -/
def intRange : CvtFmt → Int × Int
  | .u32 => (0, 2 ^ 32 - 1)
  | .s16 => (-(2 ^ 15), 2 ^ 15 - 1)
  | _ => (-(2 ^ 31), 2 ^ 31 - 1)

/-- Convert to an integer: round, then saturate (R264). -/
def toInt (dst : CvtFmt) (mode : RMode) (r : Nat) : Val → Word × Word
  | .nan _ => (0, flInvalid)
  | .inf neg => (BitVec.ofInt 32 (if neg then (intRange dst).1 else (intRange dst).2), flInvalid)
  | .fin neg m e =>
    let (k, inex) := rint mode neg r (m * pow2 e) (pow2 (-e))
    let v := signed neg k
    if v < (intRange dst).1 then (BitVec.ofInt 32 (intRange dst).1, flInvalid)
    else if (intRange dst).2 < v then (BitVec.ofInt 32 (intRange dst).2, flInvalid)
    else (BitVec.ofInt 32 v, flIf inex flInexact)

/-- Convert to a floating format (R263). -/
def toFloat (f : Fmt) (mode : RMode) (r : Nat) : Val → Word × Word
  | .nan s => w (nanRes f s)
  | .inf neg => if f.noInf then w (f.sign neg + f.maxBits, flOverflow ||| flInexact) else w (infRes f neg)
  | .fin neg m e => w (roundVal f mode r neg m 1 e)

def convert (dst src : CvtFmt) (mode : RMode) (r : Nat) (a : Word) : Word × Word :=
  match fmtOf dst with
  | some f => toFloat f mode r (cvtSource src a)
  | none => toInt dst mode r (cvtSource src a)

/-! ### Block formats (R270 to R277) -/

def BFmtBits : BFmt → Nat
  | .b2 => 2 | .b3 => 3 | .b4 => 4 | .b5 => 5 | .b6 => 6 | .b7 => 7 | .b8 => 8

/-- Sign-extended low n bits of a word. -/
def mantissa (n : Nat) (a : Word) : Int :=
  let x := a.toNat % 2 ^ n
  if x < 2 ^ (n - 1) then (x : Int) else (x : Int) - 2 ^ n

def clampInt (lo hi x : Int) : Int := max lo (min hi x)

end Fp

/-! ### SR.ARITH (R247 to R249) -/

/-- One step of a lane's generator (R251). -/
def genStep (g : Word) : Word :=
  let g := g ^^^ (g <<< 13)
  let g := g ^^^ (g >>> 17)
  g ^^^ (g <<< 5)

/-- The generators that a write of SR.SEED sets (R251). -/
def genSeed (s : Word) : List Word :=
  (List.range 32).map fun l =>
    let g := s ^^^ BitVec.ofNat 32 (0x9e3779b9 * (l + 1))
    if g = 0 then 0x6d2b79f5 else g

namespace State

/-- OR raised flags into SR.ARITH, and pend cause 0x0a when an enabled one was raised; the second slot of a dual issue joins
the trap that the first pended (R248, R249). -/
def raiseFlags (s : State) (x : Ctx) (active fl : Word) : State :=
  let g := s.group x.core x.gid
  let s := s.modGroup x.core x.gid fun g => { g with arith := g.arith ||| fl }
  let en := fl &&& (g.arith >>> 16) &&& 0x1f
  if en = 0 then s
  else if (s.cur.map (·.fp)).getD false ∧ !g.pending.isEmpty then
    s.modGroup x.core x.gid fun g =>
      { g with pending := g.pending.mapIdx fun i p =>
          if i + 1 = g.pending.length then
            { p with info := p.info ||| en ||| 0x100, addrL := x.pc, lanes := p.lanes ||| active }
          else p }
  else
    let s := s.pendTrap x.core x.gid g.uid g.ctx { cause := 0x0a, pc := x.pc, info := en, lanes := active }
    match s.second with
    | some u => { s with second := some { u with fp := true } }
    | none => s

end State

end Sys2Proof.Machine
end

