-- ==== Sys2Proof/Machine/Operands.lean ====
section
/-! DEFINITION. The operand forms: the registers a word names (R207, R226), source values (R225, R253), Active (R164), the
writes of lane and mask destinations, the integer operations (R227 to R229) and the formation and checks of addresses
(R294). -/

namespace Sys2Proof

/-! ### Registers named by a word: v r as r, s j as 64 + j -/

namespace Named

def v (n : Nat) (r : VReg) : List Nat := (List.range n).map fun i => r.toNat + i
def s (n : Nat) (r : SReg) : List Nat := (List.range n).map fun i => 64 + r.toNat + i
def src : LaneSrc → List Nat
  | .v r => [r.toNat] | .s r => [64 + r.toNat] | .lit _ => []
def vlit : VLit → List Nat
  | .v r => [r.toNat] | .lit _ => []
def usrc : USrc → List Nat
  | .s r => [64 + r.toNat] | .lit _ => []
def xreg : XReg → List Nat
  | .s r => [64 + r.toNat] | .m _ => []
def xsrc : XSrc → List Nat
  | .s r => [64 + r.toNat] | .m _ | .lit _ => []
def ovsrc : OvSrc → List Nat
  | .reg r => [64 + r.toNat] | .lit _ => []
def lane (d a : VReg) (b : LaneSrc) : List Nat := d.toNat :: a.toNat :: src b
def two (d a : VReg) : List Nat := [d.toNat, a.toNat]
def uni (d a : SReg) (b : USrc) : List Nat := s 1 d ++ s 1 a ++ usrc b
def imm (d a : SReg) : List Nat := s 1 d ++ s 1 a
def eng (e : EngOps) : List Nat := s 1 e.a ++ usrc e.b
/-- Lane registers and pairs of an awl element (R297). -/
def bitRegs (nm1 : BitVec 6) : Nat := if nm1.toNat < 32 then 1 else 2

end Named

open Named in
/-- The registers that an instruction word names, as sources or destinations. -/
def Instr.named : Instr → List Nat
  | .addLane _ d a b | .subLane _ d a b | .mulLane _ d a b | .mulhiLane _ d a b | .mulhuLane _ d a b | .mad _ d a b
  | .andLane _ d a b | .orLane _ d a b | .xorLane _ d a b | .shlLane _ d a b | .shrLane _ d a b | .sarLane _ d a b
  | .minLane _ d a b | .minuLane _ d a b | .maxLane _ d a b | .maxuLane _ d a b | .selLane _ d a b | .bfxLane _ d a b
  | .bfiLane _ d a b | .fadd _ d a b | .fsub _ d a b | .fmul _ d a b | .ffma _ d a b | .fmin _ d a b | .fmax _ d a b
  | .fdiv _ d a b | .hadd2 _ d a b | .hmul2 _ d a b | .hfma2 _ d a b | .hadd2Bf _ d a b | .hmul2Bf _ d a b
  | .hfma2Bf _ d a b => lane d a b
  | .abs _ d a | .neg _ d a | .movLane _ d a | .clzLane _ d a | .popcLane _ d a | .frcp _ d a | .frsq _ d a | .fex2 _ d a
  | .flg2 _ d a | .fsqrt _ d a | .fcvt _ d a _ _ _ | .vote _ _ d a | .redg _ _ d a | .scan _ _ d a => two d a
  | .cmpLane _ _ _ a b | .fcmp _ _ _ a b => a.toNat :: src b
  | .moviLane _ d _ => [d.toNat]
  | .shfl _ _ d a b => d.toNat :: a.toNat :: vlit b
  | .topk _ _ d a k => v 2 d ++ [a.toNat] ++ (match k with | .imm _ => [] | .reg r => s 1 r)
  | .raysendLane _ a => v 24 a
  | .spawnLane _ a b => v 4 a ++ vlit b
  | .qapp _ d a _ _ _ => d.toNat :: v 2 a
  | .pref _ _ a _ => v 2 a
  | .ld _ d a w _ | .st _ d a w _ => v w.regs d ++ v 2 a
  | .ldlLane _ d a w _ | .stlLane _ d a w _ | .ldp _ d a w _ | .stp _ d a w _ => v w.regs d ++ [a.toNat]
  | .ldb _ d _ n _ | .stb _ d _ n => v (bitRegs n) d
  | .atomLane _ sp _ d a _ _ _ | .atomExchLane _ sp d a _ _ _ => v sp.dataRegs d ++ v sp.addrRegs a
  | .casLane _ sp d a _ _ _ => v (2 * sp.dataRegs) d ++ v sp.addrRegs a
  | .bdot _ _ d a b _ => [d.toNat] ++ v 2 a ++ v 2 b
  | .bscl _ _ d a b _ => [d.toNat, a.toNat] ++ v 2 b
  | .qnt _ _ d a b _ _ | .deq _ _ d a b _ => [d.toNat, a.toNat, b.toNat]
  | .addUniform d a b | .subUniform d a b | .mulUniform d a b | .mulhiUniform d a b | .mulhuUniform d a b | .div d a b
  | .divu d a b | .rem d a b | .remu d a b | .shlUniform d a b | .shrUniform d a b | .sarUniform d a b
  | .minUniform d a b | .minuUniform d a b | .maxUniform d a b | .maxuUniform d a b | .cmpUniform _ d a b
  | .selUniform d a b | .bfxUniform d a b | .bfiUniform d a b | .cbwaitProd d a b | .cbwaitCons d a b => uni d a b
  | .andUniform d a b | .orUniform d a b | .xorUniform d a b => xreg d ++ xreg a ++ xsrc b
  | .movUniform f => match f with
    | .reg d a => xreg d ++ xreg a
    | .toAwl _ p | .fromAwl p _ => s 2 p
  | .moviUniform d _ | .movhi d _ | .brz d _ | .brnz d _ | .elect d | .rdsr d _ => s 1 d
  | .ctlrecv d => s 5 d
  | .clzUniform d a | .popcUniform d a => s 1 d ++ xreg a
  | .rdlane d a b => s 1 d ++ [a.toNat] ++ usrc b
  | .addi d a _ | .andi d a _ | .ori d a _ | .xori d a _ | .shli d a _ | .shri d a _ | .sari d a _ => imm d a
  | .brc _ d a _ => imm d a
  | .jmpr a | .callr a | .callo a | .ovwait a | .ovrel a | .wrsr _ a | .termg a => s 1 a
  | .ovld d a | .ovqry d a => s 1 d ++ ovsrc a
  | .bara blk d a => s 1 d ++ s (if blk then 2 else 1) a
  | .barw blk a b => s (if blk then 2 else 1) a ++ s 1 b
  | .waitc _ a b | .cbrelProd a b | .cbrelCons a b => s 1 a ++ usrc b
  | .ctlsend a b => s 4 a ++ s 1 b
  | .lds d a w _ | .sts d a w _ => s w.regs d ++ s 2 a
  | .ldlUniform d a w _ | .stlUniform d a w _ => s w.regs d ++ s 1 a
  | .atomUniform sp _ d a _ _ _ | .atomExchUniform sp d a _ _ _ => s sp.dataRegs d ++ s sp.addrRegs a
  | .casUniform sp d a _ _ _ => s (2 * sp.dataRegs) d ++ s sp.addrRegs a
  | .cpy e | .cpysl e | .chain e | .get e | .put e | .bagq e | .mma _ e | .accld e | .accst e | .collAg e | .collRs e
  | .collA2a e | .collBar e => eng e
  | .raysendUniform a => s 24 a
  | .rayfwd n a b => s (2 * n.toNat) a ++ s 24 b
  | .hitsend a b => s 1 a ++ s 24 b
  | .rayrecv b | .rayend b => s 24 b
  | .boxt d a b => s 8 d ++ s 1 a ++ s 24 b
  | .trit d a b | .rxf d a b => s 1 d ++ s 1 a ++ s 24 b
  | .spawnUniform a b => s 4 a ++ usrc b
  | _ => []

/-- The lane registers a word names (R32). -/
def Instr.vregs (i : Instr) : List Nat := i.named.filter (· < 64)

/-- Words that are no instructions on a traversal thread: every lane word, `RDLANE`, `XACQ`, `XREL` (R167, R213, R244). -/
def Instr.laneOnly : Instr → Bool
  | .addLane _ _ _ _ | .subLane _ _ _ _ | .mulLane _ _ _ _ | .mulhiLane _ _ _ _ | .mulhuLane _ _ _ _ | .mad _ _ _ _
  | .abs _ _ _ | .neg _ _ _ | .andLane _ _ _ _ | .orLane _ _ _ _ | .xorLane _ _ _ _ | .shlLane _ _ _ _
  | .shrLane _ _ _ _ | .sarLane _ _ _ _ | .minLane _ _ _ _ | .minuLane _ _ _ _ | .maxLane _ _ _ _ | .maxuLane _ _ _ _
  | .cmpLane _ _ _ _ _ | .selLane _ _ _ _ | .movLane _ _ _ | .moviLane _ _ _ | .clzLane _ _ _ | .popcLane _ _ _
  | .bfxLane _ _ _ _ | .bfiLane _ _ _ _ | .fadd _ _ _ _ | .fsub _ _ _ _ | .fmul _ _ _ _ | .ffma _ _ _ _
  | .fmin _ _ _ _ | .fmax _ _ _ _ | .fcmp _ _ _ _ _ | .frcp _ _ _ | .frsq _ _ _ | .fex2 _ _ _ | .flg2 _ _ _
  | .fsqrt _ _ _ | .fdiv _ _ _ _ | .hadd2 _ _ _ _ | .hmul2 _ _ _ _ | .hfma2 _ _ _ _ | .hadd2Bf _ _ _ _
  | .hmul2Bf _ _ _ _ | .hfma2Bf _ _ _ _ | .fcvt _ _ _ _ _ _ | .shfl _ _ _ _ _ | .vote _ _ _ _ | .redg _ _ _ _
  | .scan _ _ _ _ | .topk _ _ _ _ _ | .raysendLane _ _ | .spawnLane _ _ _ | .qapp _ _ _ _ _ _ | .pref _ _ _ _
  | .ld _ _ _ _ _ | .st _ _ _ _ _ | .ldlLane _ _ _ _ _ | .stlLane _ _ _ _ _ | .ldp _ _ _ _ _ | .stp _ _ _ _ _
  | .ldb _ _ _ _ _ | .stb _ _ _ _ | .atomLane _ _ _ _ _ _ _ _ | .casLane _ _ _ _ _ _ _ | .atomExchLane _ _ _ _ _ _ _
  | .bdot _ _ _ _ _ _ | .bscl _ _ _ _ _ _ | .qnt _ _ _ _ _ _ _ | .deq _ _ _ _ _ _ | .rdlane _ _ _ | .xacq _ | .xrel _ => true
  | _ => false

/-- A word is no instruction on the thread of base set gid: the words above on a traversal thread, and the lane words on the
supervisor thread, which executes the uniform set (R213, R345). -/
def Instr.barred (i : Instr) (gid : Nat) : Bool :=
  i.laneOnly && decide (512 ≤ gid) && match i with
    | .rdlane _ _ _ | .xacq _ | .xrel _ => gid != Machine.supGid
    | _ => true

namespace Machine

/-! ### Source values -/

/-- A lane's element of a v register, an s register, or the literal (R253). -/
def Core.lsrc (k : Core) (g : Group) (gid lane : Nat) : LaneSrc → Word
  | .v r => k.getV g gid r.toNat lane
  | .s r => k.getS gid r.toNat
  | .lit w => w
def Core.vlit (k : Core) (g : Group) (gid lane : Nat) : VLit → Word
  | .v r => k.getV g gid r.toNat lane
  | .lit w => w
/-- The second operand of a uniform instruction (R225). -/
def Core.usrc (k : Core) (gid : Nat) : USrc → Word
  | .s r => k.getS gid r.toNat
  | .lit w => w
def Core.xreg (k : Core) (g : Group) (gid : Nat) : XReg → Word
  | .s r => k.getS gid r.toNat
  | .m r => g.mask r.toNat
def Core.xsrc (k : Core) (g : Group) (gid : Nat) : XSrc → Word
  | .s r => k.getS gid r.toNat
  | .m r => g.mask r.toNat
  | .lit w => w
def Core.ovsrc (k : Core) (gid : Nat) : OvSrc → Word
  | .reg r => k.getS gid r.toNat
  | .lit w => w

/-- Active: the lanes that execute and lie in the named mask (R164). -/
def Ctx.active (x : Ctx) (m : MReg) : Word := x.lanes &&& x.g.mask m.toNat

/-! ### Destinations -/

/-- Write n elements of consecutive lane registers in each lane of a list. -/
def Core.putLanes (k : Core) (g : Group) (gid : Nat) (lanes : List Nat) (d n : Nat) (f : Nat → Nat → Word) : Core :=
  lanes.foldl (fun k l => (List.range n).foldl (fun k j => k.setV g gid (d + j) l (f l j)) k) k

namespace State

/-- Write one element of vD in each lane of a mask; every other element keeps its value (R253). -/
def writeLanes (s : State) (x : Ctx) (lanes : Word) (d : VReg) (f : Nat → Word) : State :=
  s.modCore x.core fun k => k.putLanes x.g x.gid (lanesOf lanes) d.toNat 1 fun l _ => f l

/-- Write a uniform register. -/
def writeS (s : State) (x : Ctx) (d : Nat) (w : Word) : State := s.modCore x.core fun k => k.setS x.gid d w

/-- Write consecutive uniform registers. -/
def writeSs (s : State) (x : Ctx) (d : Nat) (ws : List Word) : State :=
  s.modCore x.core fun k => (ws.zipIdx).foldl (fun k p => k.setS x.gid (d + p.2) p.1) k

/-- Write a mask; the second slot of a dual issue ORs into the mask that the first wrote (R256). -/
def writeMask (s : State) (x : Ctx) (md : MReg) (w : Word) : State :=
  let w := match s.cur.bind (·.mask) with
    | some (n, v) => if n = md.toNat then w ||| v else w
    | none => w
  let s := s.modGroup x.core x.gid fun g => g.setMask md.toNat w
  match s.second with
  | some u => { s with second := some { u with mask := some (md.toNat, w) } }
  | none => s

/-- Write an s or m register (R229). -/
def writeX (s : State) (x : Ctx) (d : XReg) (w : Word) : State :=
  match d with
  | .s r => s.writeS x r.toNat w
  | .m r => s.writeMask x r w

end State

/-! ### Integer operations (R227 to R229), shared by both sets (R254) -/

namespace Alu

def mulhi (a b : Word) : Word := BitVec.ofInt 32 (a.toInt * b.toInt / 2 ^ 32)
def mulhu (a b : Word) : Word := w32 (a.toNat * b.toNat / 2 ^ 32)
def div (a b : Word) : Word := if b = 0 then 0xffffffff else BitVec.ofInt 32 (Int.tdiv a.toInt b.toInt)
def divu (a b : Word) : Word := if b = 0 then 0xffffffff else w32 (a.toNat / b.toNat)
def rem (a b : Word) : Word := if b = 0 then a else BitVec.ofInt 32 (Int.tmod a.toInt b.toInt)
def remu (a b : Word) : Word := if b = 0 then a else w32 (a.toNat % b.toNat)
def shl (a b : Word) : Word := if 32 ≤ b.toNat then 0 else a <<< b.toNat
def shr (a b : Word) : Word := if 32 ≤ b.toNat then 0 else a >>> b.toNat
def sar (a b : Word) : Word := a.sshiftRight (min b.toNat 31)
def min (a b : Word) : Word := if b.toInt < a.toInt then b else a
def max (a b : Word) : Word := if a.toInt < b.toInt then b else a
def minu (a b : Word) : Word := if b.toNat < a.toNat then b else a
def maxu (a b : Word) : Word := if a.toNat < b.toNat then b else a
def abs (a : Word) : Word := if a.toInt < 0 then 0 - a else a
def clz (a : Word) : Word := w32 (if a = 0 then 32 else 31 - a.toNat.log2)
def popc (a : Word) : Word := w32 (lanesOf a).length

/-- The conditions of CMP and BRC (R210). -/
def cc (c : Cc) (a b : Word) : Bool :=
  match c with
  | .eq => a = b
  | .ne => a ≠ b
  | .lt => a.toInt < b.toInt
  | .ge => b.toInt ≤ a.toInt
  | .ltu => a.toNat < b.toNat
  | .geu => b.toNat ≤ a.toNat

/-- The position and width that b gives BFX and BFI (R229). -/
def field (b : Word) : Nat × Nat := (wf32 b 4 0, Nat.min (wf32 b 13 8) 32)
def bfx (a b : Word) : Word := w32 (a.toNat / 2 ^ (field b).1 % 2 ^ (field b).2)
def bfi (d a b : Word) : Word :=
  let m : DWord := BitVec.ofNat 64 (2 ^ (field b).2 - 1)
  let d64 : DWord := d.zeroExtend 64
  let a64 : DWord := a.zeroExtend 64
  ((d64 &&& ~~~(m <<< (field b).1)) ||| ((a64 &&& m) <<< (field b).1)).truncate 32

end Alu

/-! ### Offsets and addresses (R294, R298) -/

/-- The offset of LM and UM, from the access size. -/
def Off.val (size : Nat) : Off → Int
  | .off5 o => o.toInt * size
  | .lit w => w.toInt

def TOff.val : TOff → Int
  | .zero => 0
  | .lit w => w.toInt

/-- An address of global space. -/
def ea64 (base : DWord) (off : Int) : Nat := (base + BitVec.ofInt 64 off).toNat
/-- An address of a 32-bit space. -/
def ea32 (base : Word) (off : Int) : Nat := (base + BitVec.ofInt 32 off).toNat

/-- Alignment (R294 check 1). -/
def alignTrap (size a : Nat) : Option Trap := if a % size = 0 then none else some (mkTrap 2 size a)
/-- The form check of global space (R7). -/
def formTrap (width a : Nat) : Option Trap := if a < 2 ^ width then none else some (mkTrap 5 0 a)
/-- The form and allocation checks of the core store (R7, R8). -/
def storeTrap (limit size a : Nat) : Option Trap :=
  (formTrap 23 a).or (if a + size ≤ limit then none else some (mkTrap 5 1 a))
/-- The form and window checks of lane private space (R7, R9). -/
def windowTrap (limit size a : Nat) : Option Trap :=
  (formTrap 16 a).or (if a + size ≤ limit then none else some (mkTrap 5 1 a))
/-- The form and allocation checks of a bit address (R7, R8). -/
def bitTrap (limit n a : Nat) : Option Trap :=
  (formTrap 26 a).or (if (a + n + 7) / 8 ≤ limit then none else some (mkTrap 5 1 a))

/-- The checks of R294 in order, each over every lane: the first check that a lane fails decides, at the lowest failing
lane. -/
def laneTrap (lanes : List Nat) : List (Nat → Option Trap) → Option Trap
  | [] => none
  | c :: t => (lanes.findSome? c).or (laneTrap lanes t)

/-- The bits of an awl register that are kept (R51). -/
def awlMask : DWord := 0x03ffffff03ffffff

/-- The bit address of a lane's element (R52). -/
def awlAddr (b : DWord) (lane : Nat) : Nat :=
  (((qf b 25 0 : Int) + lane * (b.extractLsb' 32 26).toInt) % 2 ^ 26).toNat

/-- The address pair of a lane, low word first (R207). -/
def Core.getV64 (k : Core) (g : Group) (gid r lane : Nat) : DWord :=
  k.getV g gid (r + 1) lane ++ k.getV g gid r lane

/-- The bytes of consecutive registers, low register first. -/
def wordsBytes (ws : List Word) : List Byte := ws.flatMap fun w => leBytes 4 w.toNat

/-- Extend loaded bytes to whole registers (R295). -/
def extend (w : Width) (bs : List Byte) : List Word :=
  match w with
  | .s8 => [(BitVec.ofNat 8 (leNat bs)).signExtend 32]
  | .s16 => [(BitVec.ofNat 16 (leNat bs)).signExtend 32]
  | _ => (List.range w.regs).map fun j => w32 (leNat ((bs.drop (4 * j)).take 4))

/-- The team, the allocation base and the last offset of the issuing group in the core store (R8, R345). -/
def State.span (s : State) (x : Ctx) : Nat × Nat := storeSpan (s.team x.core x.g.team) x.gid

/-- Perform the meaning of an instruction word: `perform` with the word's own set and lane registers. -/
def run (i : Instr) (body : Ctx → State → Res) (s : State) : Host.Outcome State Fault Refusal :=
  perform i.barred i.vregs body s

end Machine
end Sys2Proof
end

