-- ==== Sys2Proof/Machine/Issue.lean ====
section
/-! DEFINITION. Readiness and issue (R160 to R163, R167, R345): which group a pipe serves, at which PCs, and the bundle that
an issue forms. -/

namespace Sys2Proof.Machine

/-- The ready threads of a group at one PC. -/
structure PcClass where
  pc : Word
  lanes : Word
  uniform : Bool
  fetch : Fetch
  wait : Nat
deriving DecidableEq, Repr

def PcClass.population (p : PcClass) : Nat := (lanesOf p.lanes).length

/-- A thread that no wait, park, hold or end keeps from being ready (R160). -/
def Thread.runnable (t : Thread) : Bool := t.live && !t.held && t.wait.isNone

/-- The fetched word is uniform, or the fetch itself faults: bit 31 of the word (R161). -/
def Fetch.uniform : Fetch → Bool
  | .word w _ => w.getLsbD 31
  | .fault | .absent => true

/-- The word is fetched and every register that it names is free (R160, R226). -/
def Fetch.ready (locks : List Nat) : Fetch → Bool
  | .absent => false
  | .fault => true
  | .word w lit =>
    match decode w lit with
    | .ok i => i.named.all fun r => !locks.contains r
    | .error _ => true

/-- Lanes whose threads stand at an instruction that they have issued (R165). -/
def Group.waiting (g : Group) : Word := g.issued.foldl (fun m h => m ||| h.lanes) 0

/-- The threads of a group that nothing keeps from issuing, with their lanes. -/
def Group.runners (g : Group) : List (Thread × Nat) := g.threads.zipIdx.filter fun p => p.1.runnable && !g.waiting.getLsbD p.2

/-- The PCs at which they stand, in order of their lowest lane. -/
def Group.pcs (g : Group) : List Word := g.runners.foldl (fun a p => if a.contains p.1.pc then a else a ++ [p.1.pc]) []

/-- Their lanes at a PC. -/
def Group.lanesAt (g : Group) (pc : Word) : Word := maskOf ((g.runners.filter fun p => p.1.pc == pc).map (·.2))

/-- The destination of an instruction that may wait after its issue, which the scoreboard holds meanwhile (R49, R160, R303): registers
in the numbering of `Group.locks`. -/
def awaited : Instr → List Nat
  | .bara _ d _ | .cbwaitProd d _ _ | .cbwaitCons d _ _ | .ldlUniform d _ _ _ => [64 + d.toNat]
  | .atomUniform _ _ d _ _ _ _ | .casUniform _ d _ _ _ _ | .atomExchUniform _ d _ _ _ _ => [64 + d.toNat, 65 + d.toNat]
  | .ctlrecv d => (List.range 5).map (64 + d.toNat + ·)
  | .rayrecv d => (List.range 24).map (64 + d.toNat + ·)
  | .atomLane _ _ _ d _ _ _ _ | .casLane _ _ d _ _ _ _ | .atomExchLane _ _ d _ _ _ _ => [d.toNat, d.toNat + 1]
  | .qapp _ d _ _ _ _ | .ldlLane _ d _ _ _ | .ldb _ d _ _ _ => [d.toNat]
  | _ => []

/-- Registers of a group that a lock holds: destinations of outstanding accesses, and of instructions that wait. -/
def Group.held (g : Group) : List Nat :=
  g.locks ++ g.issued.flatMap fun h => match decode h.word h.lit with
    | .ok i => awaited i
    | .error _ => []

/-- Free entries of the store buffer of a pipe (R296). -/
def Core.sbFree (k : Core) (pipe : Nat) : Nat := 64 - (k.sbuf.filter fun (_, e) => e.pipe == pipe).length

/-- The 48-byte sectors of virtual addresses that an access touches. -/
def sectorsOf (a n : Nat) : List Nat := [a / 48, (a + n - 1) / 48]

/-- Store-buffer entries that an instruction takes for a bundle (R296, R301). -/
def storeEntries (k : Core) (gid : Nat) (g : Group) (lanes : Word) : Instr → Nat
  | .st m _ a w off =>
    ((lanesOf (lanes &&& g.mask m.toNat)).flatMap fun l =>
      sectorsOf (ea64 (k.getV64 g gid a.toNat l) (Off.val w.bytes off)) w.bytes).dedup.length
  | .sts _ a w off => (sectorsOf (ea64 (k.getS64 gid a.toNat) (Off.val w.bytes off)) w.bytes).dedup.length
  | .qapp m _ _ _ _ _ => (lanesOf (lanes &&& g.mask m.toNat)).length
  | _ => 0

/-- A global load, atomic or append, which the lane memory pipe does not accept while a faulted access finds the operand log full
(R349). -/
def needsLog : Instr → Bool
  | .ld _ _ _ _ _ | .lds _ _ _ _ | .qapp _ _ _ _ _ _ => true
  | .atomLane _ sp _ _ _ _ _ _ | .casLane _ sp _ _ _ _ _ | .atomExchLane _ sp _ _ _ _ _ | .atomUniform sp _ _ _ _ _ _
  | .casUniform sp _ _ _ _ _ | .atomExchUniform sp _ _ _ _ _ => !sp.store
  | _ => false

/-- A thread whose instruction names a locked register is not ready, so its waits start again (R160, R162). -/
def Core.settleWaits (k : Core) (g : Group) : Group :=
  { g with threads := g.threads.map fun t =>
      if (t.laneWait = 0 ∧ t.uniWait = 0) ∨ (k.fetch g.ctx t.pc).ready g.held then t else { t with laneWait := 0, uniWait := 0 } }

/-- Largest wait of the threads that may issue at a PC. -/
def Group.waitAt (g : Group) (uniform : Bool) (pc : Word) : Nat :=
  g.runners.foldl (fun a p => if p.1.pc == pc then max a (if uniform then p.1.uniWait else p.1.laneWait) else a) 0

/-- The pipe that serves a base set (R161, R167): lane groups by g mod 8, traversal threads by t mod 4, and the supervisor
on uniform pipe 0 (R345). -/
def pipeOf (gid : Nat) : Nat := if gid < 512 then gid % 8 else if gid < supGid then 8 + (gid - 512) % 4 else 0

/-- The store-buffer entries that a fetched instruction takes for a bundle of a group. -/
def Core.entriesOf (k : Core) (gid : Nat) (g : Group) (lanes : Word) : Fetch → Nat
  | .word w lit => match decode w lit with
    | .ok i => storeEntries k gid g lanes i
    | .error _ => 0
  | .absent | .fault => 0

/-- The memory pipe accepts a fetched instruction of a bundle: its store finds the entries that it takes (R296), and its load finds no
full operand log (R349). -/
def Core.accepts (k : Core) (gid : Nat) (g : Group) (lanes : Word) (f : Fetch) : Bool :=
  decide (k.entriesOf gid g lanes f ≤ k.sbFree (pipeOf gid)) && (k.logStall.isEmpty || match f with
    | .word w lit => match decode w lit with
      | .ok i => !needsLog i
      | .error _ => true
    | .absent | .fault => true)

/-- The ready PCs of a group; none while a boundary trap is to be taken (R160, R296, R340, R349). -/
def Core.ready (k : Core) (gid : Nat) (g : Group) : List PcClass :=
  if !g.pending.isEmpty && !g.trap.inHandler then []
  else
    g.pcs.filterMap fun pc =>
      let f := k.fetch g.ctx pc
      if f.ready g.held && k.accepts gid g (g.lanesAt pc) f then
        some { pc, lanes := g.lanesAt pc, uniform := f.uniform, fetch := f, wait := g.waitAt f.uniform pc }
      else none

/-- More populous, then the larger wait, then the lower PC (R162 step 1). -/
def PcClass.populous (p q : PcClass) : Bool :=
  decide (q.population < p.population) || (p.population == q.population &&
    (decide (q.wait < p.wait) || (p.wait == q.wait && decide (p.pc.toNat < q.pc.toNat))))

/-- Longer wait, then the larger population, then the lower PC (R162 step 2). -/
def PcClass.longer (p q : PcClass) : Bool :=
  decide (q.wait < p.wait) || (p.wait == q.wait &&
    (decide (q.population < p.population) || (p.population == q.population && decide (p.pc.toNat < q.pc.toNat))))

/-- The first and second PC of a lane issue (R162), or the one PC of a uniform issue (R163). -/
def choose (uniform : Bool) (n : Nat) (ps : List PcClass) : List PcClass :=
  let ps := ps.filter fun p => p.uniform == uniform
  if uniform then (pickBest (if n % 4 = 3 then PcClass.longer else PcClass.populous) ps).toList
  else
    match pickBest PcClass.populous ps with
    | none => []
    | some first =>
      first :: (pickBest (if n % 4 = 3 then PcClass.longer else PcClass.populous) (ps.filter fun p => p.pc ≠ first.pc)).toList

/-- A group that may issue on a pipe of its kind. -/
structure Candidate where
  core : Nat
  gid : Nat
  uniform : Bool
  stamp : Nat
deriving DecidableEq, Repr

def Core.candidates (k : Core) (c : Nat) : List Candidate :=
  k.groups.flatMap fun (gid, g) =>
    let ps := if (k.teams.look g.team).any (·.saving) then [] else k.ready gid g
    let lane := if ps.any (fun p => !p.uniform) then [{ core := c, gid, uniform := false, stamp := g.lastLane }] else []
    let uni := if ps.any (fun p => p.uniform) then [{ core := c, gid, uniform := true, stamp := g.lastUni }] else []
    lane ++ uni

/-- Longest without an issue, ties to the lower base set; the supervisor thread goes ahead on its pipe (R161, R345). -/
def Candidate.before (a b : Candidate) : Bool :=
  if a.core = b.core ∧ a.uniform ∧ b.uniform ∧ pipeOf a.gid = pipeOf b.gid ∧ (a.gid = supGid ∨ b.gid = supGid) then a.gid = supGid
  else decide (a.stamp < b.stamp) || (a.stamp == b.stamp &&
    (decide (a.core < b.core) || (a.core == b.core && decide (a.gid < b.gid))))

/-- The next issue of the package: the group that has waited longest on its pipe. -/
def State.nextIssue (s : State) : Option Candidate :=
  pickBest Candidate.before (s.cores.flatMap fun (c, k) => if k.stopped then [] else k.candidates c)

/-- The yielded threads of a core whose wait is over (R242): every other group that their pipe was to serve has had its issue, of
which `by_` has one now, or has no ready uniform thread any more; or the bound has passed. -/
def Core.passYield (k : Core) (by_ : Option Nat) (cc : Nat) : Core :=
  { k with groups := k.groups.map fun (i, g) =>
      (i, { g with threads := g.threads.map fun t =>
              match t.wait with
              | some (.yield who u) =>
                let who := who.filter fun j => some j ≠ by_ && (k.groups.look j).any fun h => (k.ready j h).any (·.uniform)
                { t with wait := if who.isEmpty ∨ u ≤ cc then none else some (.yield who u) }
              | _ => t }) }

/-- Two stores that issue together find entries for both, or the second does not issue (R296). -/
def Core.fitting (k : Core) (gid : Nat) (g : Group) : List PcClass → List PcClass
  | p :: q :: rest =>
    if k.entriesOf gid g p.lanes p.fetch + k.entriesOf gid g q.lanes q.fetch ≤ k.sbFree (pipeOf gid) then p :: q :: rest else [p]
  | ps => ps

/-- The bundle of a class as the current instruction. -/
def PcClass.cur (p : PcClass) (c gid : Nat) : Cur :=
  match p.fetch with
  | .word w lit => { core := c, gid, lanes := p.lanes, pc := p.pc, word := w, lit }
  | _ => { core := c, gid, lanes := p.lanes, pc := p.pc, word := 0, lit := 0 }

namespace State

/-- Time passes: one step of the model clock, and the waits of R242 that end at it. -/
def tick (s : State) : State := { s with cc := s.cc + 1, cores := s.cores.map fun p => (p.1, p.2.passYield none (s.cc + 1)) }

/-- Count an issue for the group and for its threads (R162, R163). -/
def countIssue (s : State) (x : Candidate) (ps chosen : List PcClass) : State :=
  let s := s.modGroup x.core x.gid fun g =>
    let g := if x.uniform then { g with uniIssues := (g.uniIssues + 1) % 2 ^ 32, lastUni := s.cc + 1 }
      else { g with laneIssues := (g.laneIssues + 1) % 2 ^ 32, lastLane := s.cc + 1 }
    { g with threads := g.threads.mapIdx fun i t =>
        let mine := ps.any fun p => p.uniform == x.uniform && p.lanes.getLsbD i
        let issued := chosen.any fun p => p.lanes.getLsbD i
        if x.uniform then { t with uniWait := if mine && !issued then t.uniWait + 1 else 0 }
        else { t with laneWait := if mine && !issued then t.laneWait + 1 else 0 } }
  s.modCore x.core fun k => if x.uniform then k.passYield (some x.gid) s.cc else k

/-- Form the bundle or bundles of an issue: `cur` and, in a dual issue, `second`. -/
def issue (s : State) (x : Candidate) : State :=
  let k := s.core x.core
  let g := s.group x.core x.gid
  let ps := k.ready x.gid g
  let chosen := k.fitting x.gid g (choose x.uniform (if x.uniform then g.uniIssues else g.laneIssues) ps)
  let s := s.countIssue x ps chosen
  match chosen with
  | [] => s
  | [p] => { s with cur := some (p.cur x.core x.gid), second := none }
  | p :: q :: _ => { s with cur := some (p.cur x.core x.gid), second := some (q.cur x.core x.gid) }

/-- A bundle that waited at an instruction and is ready goes on with it (R160, R165): the first of the package. -/
def nextResume (s : State) : Option Cur :=
  s.cores.findSome? fun (c, k) => if k.stopped then none else k.groups.findSome? fun (gid, g) =>
    if (k.teams.look g.team).any (·.saving) ∨ (!g.pending.isEmpty && !g.trap.inHandler) then none
    else g.issued.findSome? fun h =>
      let lanes := h.lanes &&& maskOf ((g.threads.zipIdx.filter fun p => p.1.runnable).map (·.2))
      if lanes = 0 then none
      else some { core := c, gid, lanes, pc := h.pc, word := h.word, lit := h.lit, latch := some h.latch }

/-- It is the current bundle. -/
def resume (s : State) (u : Cur) : State :=
  { s.modGroup u.core u.gid fun g => g.unlatch u.lanes with cur := some u, second := none }

/-- The fetch of the current bundle faults (R63, R214 step 1): a precise trap that names the logical PC. -/
def fetchFaults (s : State) (u : Cur) : Bool := (s.core u.core).fetch (s.group u.core u.gid).ctx u.pc == .fault

/-- Cause 0x05, sub 5, at the current bundle. -/
def fetchTrap (s : State) : State :=
  match s.ctx? with
  | some x => s.preciseTrap x (mkTrap 5 5 x.pc.toNat)
  | none => s

/-- No unit and no thread has anything to do: time passes. -/
def idle (s : State) : State := s.tick

end State

/-- The instruction that a bundle's word stands for: an encoding that R213 rejects is the event UNDEFINED_ENCODING. -/
def Cur.instr (u : Cur) : Instr :=
  match decode u.word u.lit with
  | .ok i => i
  | .error _ => .undefinedEncoding u.word u.lit

end Sys2Proof.Machine
end

