-- ==== Sys2Proof/Machine/Lattice.lean ====
section
/-! DEFINITION. Routes and buffers of the lattice (R368 to R377). Ports are 0 north, 1 east, 2 south, 3 west, 4 core, 5 sixth. -/

namespace Sys2Proof.Machine

/-- Ring position of a physical column or row, with w die columns (R368). -/
def ringPos (w x : Nat) : Nat :=
  if x / 4 % 2 = 0 then 2 * (x / 4) + x % 4 else 2 * w + 2 * (w - 1 - x / 4) + 3 - x % 4

/-! ### The flit header (R370) -/

/-- The fields of a flit's header but its check code, from the top. -/
structure FlitHeader where
  dstDev : BitVec 12
  dstX : BitVec 5
  dstY : BitVec 5
  /-- 0 core, 1 HBM controller, 2 capacity controller, 3 encoder, 4 die agent, 5 host-link endpoint. -/
  sink : BitVec 3
  vn : BitVec 3
  bulk : Bool
  lenM1 : BitVec 2
  index : BitVec 2
  poison : Bool
  srcDev : BitVec 12
  srcX : BitVec 5
  srcY : BitVec 5
  kind : BitVec 8
  tag : BitVec 20
  seq : BitVec 10
  ack : BitVec 10
  creditVc : BitVec 4
deriving DecidableEq, Repr

/-- Bytes 0 to 15 of a flit with its check code. -/
def FlitHeader.bits (h : FlitHeader) (check : BitVec 16) : BitVec 128 :=
  h.dstDev ++ (h.dstX ++ (h.dstY ++ (h.sink ++ (h.vn ++ (BitVec.ofBool h.bulk ++ (h.lenM1 ++ (h.index ++ (BitVec.ofBool h.poison ++
    (h.srcDev ++ (h.srcX ++ (h.srcY ++ (h.kind ++ (h.tag ++ (h.seq ++ (h.ack ++ (h.creditVc ++ ((0 : BitVec 4) ++ check)))))))))))))))))

/-- A copy whose flits from i on carry poison (R386, R387). -/
def poisonCopy (x : Copy) (i : Nat) : Copy := { x with poisonHdr := x.poisonHdr || i == 0, poisonData := true }

/-- The unit of the other package that a packet goes to: the home slice of a copy, the receive window of an ARM, the window unit of
its answer. -/
def Out.place : Out → Nat
  | .copy _ x => x.rx * 2 ^ 41 + x.offset
  | .arm _ a => 2 ^ 50 + a.rx
  | .armReply _ e .. | .ack _ e .. | .nack _ e .. => 2 ^ 51 + e
  | _ => 0

/-- Two packets stand in the same buffers of a router: of one input and channel. -/
def Standing.beside (x y : Standing) : Bool := x.input == y.input && x.chan == y.chan

namespace State

/-- The column or row at a ring position. -/
def ringAt (s : State) (p : Nat) : Nat :=
  ((List.range s.product.width).find? fun x => ringPos s.product.dieCols x = p).getD 0

/-- Cores of the row ring that a position is counted modulo: nP in a reach ring (R369, R374). -/
def rowRing (s : State) : Nat :=
  let q := s.ctlQ 0x28
  s.product.width * (if qf q 31 31 = 1 then qf q 13 8 + 1 else 1)

/-- Hops along a ring of n positions, and whether forward (R374). -/
def ringHops (n cur dst : Nat) : Nat × Bool :=
  let f := (dst + n - cur) % n
  if 2 * f ≤ n then (f, true) else (n - f, false)

/-- The hop count between two cores (R374, R99). -/
def hops (s : State) (a b : Nat) : Nat :=
  let p := ringPos s.product.dieCols
  (ringHops s.rowRing (p (s.coreX a)) (p (s.coreX b))).1 + (ringHops s.product.width (p (s.coreY a)) (p (s.coreY b))).1

/-- The port of a router towards larger or smaller positions of its row or column ring (R368). -/
def ringPort (s : State) (r : Nat) (row fwd : Bool) : Nat :=
  if row then (if (s.coreX r / 4 % 2 = 0) = fwd then 1 else 3) else (if (s.coreY r / 4 % 2 = 0) = fwd then 0 else 2)

/-- The router at the other end of a port's link, and the port by which it is entered. -/
def neighbour (s : State) (r port : Nat) : Nat × Nat :=
  let row := decide (port % 2 = 1)
  let fwd := decide (s.ringPort r row true = port)
  let n := s.product.width
  let step := fun (x : Nat) => s.ringAt ((ringPos s.product.dieCols x + (if fwd then 1 else n - 1)) % n)
  let nr := if row then s.coreAt (step (s.coreX r)) (s.coreY r) else s.coreAt (s.coreX r) (step (s.coreY r))
  (nr, s.ringPort nr row !fwd)

/-- The core of a die's host link (R398). -/
def hostCore (s : State) : Nat := s.coreAt 0 (s.product.width - 2)

/-- The unit behind the destination router: messages to a die agent, its directory and its window unit use the sixth port (R370,
R398). -/
def sinkPort : Instr → Nat
  | .directoryRayArrival _ _ _ | .filled _ _ _ | .fillFailed _ _ _ _ | .leaving _ _ _ | .drained _ _ _ | .heatReport _ _ _
  | .placementRequest _ _ _ _ | .invalidationComplete _ | .blockDistribution _ | .mapDone _ | .booted | .reflectedStoreSequence _ => 5
  | _ => 4

/-- The output that a packet requests at a router (R374). -/
def outPort (s : State) (r : Nat) (p : Packet) : Nat :=
  let pos := ringPos s.product.dieCols
  match p.cargo with
  | .far _ fwd _ _ => s.ringPort r true fwd
  | .here msg =>
    if s.coreX r ≠ s.coreX p.dst then s.ringPort r true (ringHops s.rowRing (pos (s.coreX r)) (pos (s.coreX p.dst))).2
    else if s.coreY r ≠ s.coreY p.dst then s.ringPort r false (ringHops s.product.width (pos (s.coreY r)) (pos (s.coreY p.dst))).2
    else sinkPort msg

/-- The half of a reach port that takes the place of a router's closing link (R369): forward at core (4, y) on half b, backward at
core (0, y) on half a. -/
def reachHalf (s : State) (r port : Nat) : Option Nat :=
  let fwd := s.ringPort r true true == port
  if port < 4 ∧ port % 2 = 1 ∧ s.field 0x28 31 31 = 1 ∧ s.coreX r = (if fwd then 4 else 0) then some (2 * s.coreY r + bit fwd) else none

/-- The link behind a port of a router. -/
def portLink (s : State) (r port : Nat) : Nat :=
  match s.reachHalf r port with
  | some l => 2 ^ 16 + l
  | none => 8 * r + port

/-- The router and port that a link leaves. -/
def linkSource (s : State) (link : Nat) : Nat × Nat :=
  if link < 2 ^ 16 then (link / 8, link % 8)
  else
    let l := link - 2 ^ 16
    let r := s.coreAt (if l % 2 = 1 then 4 else 0) (l / 2)
    (r, s.ringPort r true (l % 2 == 1))

/-- The header of flit i of a packet; kind, tag and the fields of the link come from its ends (R370, R386). -/
def headerOf (s : State) (p : Packet) (i kind tag seq ack credit : Nat) : FlitHeader where
  dstDev := BitVec.ofNat 12 (match p.cargo with
    | .far dev .. => dev
    | .here _ => s.device)
  dstX := BitVec.ofNat 5 (s.coreX p.dst)
  dstY := BitVec.ofNat 5 (s.coreY p.dst)
  sink := match p.cargo with
    | .far .. => 4
    | .here msg => if sinkPort msg = 5 then 4 else 0
  vn := BitVec.ofNat 3 p.vn
  bulk := p.bulk
  lenM1 := BitVec.ofNat 2 (p.flits - 1)
  index := BitVec.ofNat 2 i
  poison := p.poison.any fun j => decide (j ≤ i)
  srcDev := BitVec.ofNat 12 s.device
  srcX := BitVec.ofNat 5 (s.coreX p.src)
  srcY := BitVec.ofNat 5 (s.coreY p.src)
  kind := BitVec.ofNat 8 kind
  tag := BitVec.ofNat 20 tag
  seq := BitVec.ofNat 10 seq
  ack := BitVec.ofNat 10 ack
  creditVc := BitVec.ofNat 4 credit

def router (s : State) (r : Nat) : Router := (s.routers.look r).getD {}
def setRouter (s : State) (r : Nat) (x : Router) : State := { s with routers := s.routers.put r x }
def link (s : State) (l : Nat) : Link := (s.links.look l).getD {}
def setLink (s : State) (l : Nat) (x : Link) : State := { s with links := s.links.put l x }

/-- Channel of a packet (R379). -/
def chanOf (p : Packet) : Nat := p.vn * 2 + bit p.bulk

/-- Packet buffers of an input and channel of a router that are taken: by a packet that stands there, or by one that has been sent on
and is not acknowledged (R373, R385). -/
def taken (s : State) (r input chan : Nat) : Nat :=
  let here := fun (l : List Standing) => (l.filter fun x => x.input = input && x.chan = chan).length
  here (s.router r).standing + ((List.range 4).map fun o => here (s.link (s.portLink r o)).window).sum

/-- Free packet buffers of a channel at a network input of a router: 3, less those taken and those that a packet on the link will
take (R373, R375). -/
def freeBuffers (s : State) (r input chan : Nat) : Nat :=
  let (up, port) := s.neighbour r input
  3 - s.taken r input chan - ((s.link (8 * up + port)).window.filter fun x => x.chan = chan).length

/-- An HBM attach point, which a capacity link shares, the die agent, an encoder or a host link makes the sixth port of a core (R60,
R107, R398). -/
def hasSixth (s : State) (r : Nat) : Bool :=
  let x := s.coreX r % 4
  let y := s.coreY r % 4
  let h := s.product.cores / s.product.width
  (x == 0 && y == 0) || ((x == 0 || x == 3) && y == 1)
  || ((x == 1 || x == 2) && y == (if s.coreY r / 4 % 2 = 0 then 3 else 0))
  || (s.coreY r == h - 2 && (s.coreX r == 0 || (s.product.links == 2 && s.coreX r == s.product.width - 1)))

/-- Packet buffers of an injection queue: 2, and 4 at the core port of a core without a sixth port (R373). -/
def injectionRoom (s : State) (r port chan : Nat) : Bool :=
  decide (s.taken r port chan < if port = 4 ∧ ¬ s.hasSixth r then 4 else 2)

/-- The head packets of a router that request an output: the first of each input and channel. -/
def heads (s : State) (r o : Nat) : List Standing :=
  let l := (s.router r).standing
  (l.zipIdx.filter fun (x, i) => s.outPort r x.packet == o && !(l.take i).any x.beside).map (·.1)

/-- A packet stands in an input buffer of a router, and its output arbitrates. -/
def stand (s : State) (r input : Nat) (p : Packet) : State :=
  let x := s.router r
  (s.setRouter r { x with standing := x.standing ++ [{ input, chan := chanOf p, packet := p }] }).postOnce
    (.outputArbitration r (s.outPort r p))

/-- The injection queue of a port takes a packet at once: it has a buffer, and none waits before it (R373). -/
def injects (s : State) (src port : Nat) (p : Packet) : Bool :=
  s.injectionRoom src port (chanOf p) && !(s.router src).outside.any fun q => q.1 == port && chanOf q.2 == chanOf p

/-- The unit behind a port of a router gives it a packet, which is injected, or waits in its unit for an injection buffer (R373). -/
def enter (s : State) (port : Nat) (p : Packet) : State :=
  let x := s.router p.src
  if s.injects p.src port p then s.stand p.src port p else s.setRouter p.src { x with outside := x.outside ++ [(port, p)] }

/-- Send a message from the unit behind a port of a core to another core; within one core it is delivered at once. -/
def send (s : State) (src dst vn flits : Nat) (msg : Instr) (bulk : Bool := false) (port : Nat := 4) : State :=
  if src = dst then s.post msg else s.enter port { src, dst, vn, bulk, flits, cargo := .here msg }

/-- A buffer of an injection queue has freed: the oldest packet that waits for it is injected (R373). -/
def inject (s : State) (r port chan : Nat) : State :=
  let x := s.router r
  match x.outside.find? fun q => q.1 == port && chanOf q.2 == chan with
  | none => s
  | some q =>
    if s.injectionRoom r port chan then (s.setRouter r { x with outside := x.outside.erase q }).stand r port q.2 else s

/-! ### Packets for other packages (R369, R374, R389) -/

/-- The place of a device in the reach ring: none when no valid entry names it, or the package is in no ring (R369). -/
def ringPlace (s : State) (dev : Nat) : Option Nat :=
  let q := s.ctlQ 0x28
  if qf q 31 31 = 0 then none
  else (List.range (qf q 13 8 + 1)).find? fun j => qf (s.ctlQ (0x100 + 8 * j)) 15 15 == 1 && qf (s.ctlQ (0x100 + 8 * j)) 11 0 == dev

/-- Send a message of core c to another device (R369): a packet on the row ring towards that package, its direction fixed by the two
ends (R374); it is discarded when no valid entry names the device, and the time-out of its path (R132) follows. Copies travel on
VN4 b, the rest on VN5 u; answers of a home slice are injected by the core port, the window unit's messages by the sixth. -/
def sendFar (s : State) (c dev : Nat) (out : Out) (path : Option (Nat × Nat) := none) (flits : Nat := 1) : State :=
  match s.ringPlace dev with
  | none => s
  | some j =>
    let n := s.product.width
    let pos := ringPos s.product.dieCols
    let dst := Config.farCore dev out.place % s.product.cores
    let fwd := (ringHops s.rowRing (n * s.field 0x28 5 0 + pos (s.coreX c)) (n * j + pos (s.coreX dst))).2
    let p : Packet := { src := c, dst, vn := 5, bulk := false, flits, cargo := .far dev fwd out path }
    match out with
    | .copy .. => s.enter 5 { p with vn := 4, bulk := true }
    | .ack .. | .nack .. => s.enter 4 p
    | _ => s.enter 5 p

/-- Half a reach port is in service (R390): half 0 is a, half 1 b. -/
def halfUp (s : State) (l : Nat) : Bool := s.field (reachOff (l / 2)) (31 - l % 2) (31 - l % 2) == 1

end State

end Sys2Proof.Machine
end

