-- ==== Sys2Proof/Machine/Xlate.lean ====
section
/-! DEFINITION. Translation (R10 to R22), the dirty-page log (R23 to R27), the fault table (R354), page requests (R19) and
the operand log (R348, R349). -/

namespace Sys2Proof.Machine

/-! ### Classification (R11 to R14, R59) -/

def gib (n : Nat) : Nat := n * 2 ^ 30
def hbmSize : Product → Nat
  | .rilide16 => gib 512
  | _ => gib 2048
def coreSize : Product → Nat
  | .rilide16 => gib 2
  | _ => gib 8
/-- Bytes at the top of populated HBM that firmware keeps (R12). -/
def reservedBytes : Nat := gib 4

namespace State

/-- The aperture that a host physical address lies in, and its offset there (R11, R15). -/
def classify (s : State) (p : Nat) : Ap × Nat :=
  (s.bars.take s.product.links).foldl (fun a (b0, b2, b4) =>
    if a.1 ≠ .outside then a
    else if b0 ≤ p ∧ p < b0 + hbmSize s.product then (.hbm, p - b0)
    else if s.product = .module64 ∧ b0 + gib 16384 ≤ p ∧ p < b0 + gib 32768 then (.cap, p - b0 - gib 16384)
    else if b2 ≤ p ∧ p < b2 + coreSize s.product then (.store, p - b2)
    else if b4 ≤ p ∧ p < b4 + gib 1024 then (.window, p - b4)
    else if b4 + gib 1024 ≤ p ∧ p < b4 + gib 1024 + 0x4000000 then (.control, p - b4 - gib 1024)
    else a) (.outside, p)

/-- The host link whose copy of an aperture holds a host physical address (R11). -/
def linkOf (s : State) (p : Nat) : Nat :=
  ((s.bars.take s.product.links).findIdx? fun (b0, b2, b4) =>
    decide (b0 ≤ p ∧ p < b0 + hbmSize s.product) || (s.product == .module64 && decide (b0 + gib 16384 ≤ p ∧ p < b0 + gib 32768)) ||
    decide (b2 ≤ p ∧ p < b2 + coreSize s.product) || decide (b4 ≤ p ∧ p < b4 + gib 1024 + 0x4000000)).getD 0

/-- The core that an offset of the core-store aperture names, and the absolute offset there (R13). -/
def storeTarget (s : State) (off : Nat) : Option (Nat × Nat) :=
  if 0x600000 ≤ off % 0x800000 then none else (s.physical (off / 0x800000)).map fun c => (c, off % 0x800000)

/-- The transmit window that holds an offset of the window aperture (R120, R123). -/
def windowAt (s : State) (off : Nat) : Option Nat :=
  (List.range 256).find? fun e =>
    let q := s.ctlQ (winOff e 0)
    let n := qf (s.ctlQ (winOff e 1)) 27 0
    qf q 63 63 = 1 && decide (qf q 27 0 * 4096 ≤ off ∧ off < (qf q 27 0 + n) * 4096)

/-- R14 for loads, atomics and the copy engine's reads: whether the target is permitted. -/
def readable (s : State) (ap : Ap) (off : Nat) : Bool :=
  match ap with
  | .hbm => decide (off < s.product.hbmBytes - reservedBytes)
  | .cap => true
  | .store => (s.storeTarget off).isSome
  | .window | .control | .outside => false

/-- The target of a hint (R14). -/
def hintable (s : State) (ap : Ap) (off : Nat) : Bool :=
  match ap with
  | .hbm | .cap => s.readable ap off
  | .store | .window | .control | .outside => false

/-- The spread size of a die (R59). -/
def spread (s : State) : Nat := s.field 0x20 13 0 * (3 * 2 ^ 20)

/-- The die and the die-local address of an HBM aperture offset (R59). -/
def hbmHome (s : State) (a : Nat) : Nat × Nat :=
  let d := s.product.dies
  let ls := s.spread
  if a < d * ls then (a / 3072 % d, a / 3072 / d * 3072 + a % 3072)
  else
    let h := a - d * ls
    (h / (gib 24 - ls), ls + h % (gib 24 - ls))

/-- Key in `State.hbm` of an HBM aperture offset. -/
def hbmKey (s : State) (a : Nat) : Nat := (s.hbmHome a).1 * gib 24 + (s.hbmHome a).2

/-- The HBM aperture offset of a key: the inverse of the mapping of R59. -/
def hbmOffset (s : State) (k : Nat) : Nat :=
  let d := k / gib 24
  let l := k % gib 24
  let ls := s.spread
  if l < ls then (l / 3072 * s.product.dies + d) * 3072 + l % 3072
  else s.product.dies * ls + d * (gib 24 - ls) + (l - ls)

end State

/-- Exclusive-or of the 4-bit fields of a line index (R60, R108). -/
def nibbles : Nat → Nat → Nat
  | 0, _ => 0
  | n + 1, l => (l % 16) ^^^ nibbles n (l / 16)

/-! ### Caches of translations (R16) -/

def TEntry.covers (e : TEntry) (ctx va : Nat) : Bool := e.ctx == ctx && decide (e.page ≤ va ∧ va < e.page + e.size)
def TEntry.grants (e : TEntry) (write : Bool) : Bool := if write then e.write else e.read

/-- Touch a way of a 16-way tree pseudo-LRU: every node on its path points away (R16, R55). -/
def plruTouch (t : BitVec 15) (way : Nat) : BitVec 15 :=
  ((List.range 4).foldl (fun (a : BitVec 15 × Nat) i =>
    let b := way.testBit (3 - i)
    (if b then a.1 &&& ~~~((1#15) <<< (a.2 - 1)) else a.1 ||| ((1#15) <<< (a.2 - 1)), 2 * a.2 + bit b)) (t, 1)).1

/-- The way that a tree pseudo-LRU points at. -/
def plruVictim (t : BitVec 15) : Nat :=
  ((List.range 4).foldl (fun (n : Nat) _ => 2 * n + bit (t.getLsbD (n - 1))) 1) - 16

/-- Put an entry in front of an engine cache of 32 (R16). -/
def engineFill (l : List TEntry) (e : TEntry) : List TEntry :=
  (e :: l.filter fun o => ¬ (o.ctx = e.ctx ∧ o.page = e.page ∧ o.size = e.size)).take 32

/-- The set of a page in the die cache (R16): the hash is free. -/
def dieSetOf (ctx page : Nat) : Nat := Config.dieSet ctx (page / 2 ^ 21) % 512

/-- A hit touches the way of the entry (R16). -/
def Die.touch (d : Die) (e : TEntry) : Die :=
  match d.dcache.find? fun (_, _, o) => o.ctx == e.ctx && o.page == e.page && o.size == e.size with
  | none => d
  | some (set, way, _) => { d with dplru := d.dplru.put set (plruTouch ((d.dplru.look set).getD 0) way) }

/-- Fill the die cache: replace an entry of the same page, else take a free way, else the pseudo-LRU way (R16). -/
def Die.fill (d : Die) (e : TEntry) : Die :=
  let set := dieSetOf e.ctx e.page
  let rest := d.dcache.filter fun (_, _, o) => ¬ (o.ctx = e.ctx ∧ o.page = e.page ∧ o.size = e.size)
  let used := (rest.filter fun (st, _, _) => st = set).map fun (_, w, _) => w
  let tree := (d.dplru.look set).getD 0
  let way := (firstFree 16 used.contains).getD (plruVictim tree)
  { d with
    dcache := (set, way, e) :: rest.filter fun (st, w, _) => ¬ (st = set ∧ w = way)
    dplru := d.dplru.put set (plruTouch tree way) }

/-- Sources of R354: 0 access, 1 treelet fill, 2 overlay load, 3 engine. -/
def Waiter.source : Waiter → Nat
  | .ev (.overlayPlacement _) | .ev (.overlayLoadComplete _ _) => 2
  | .ev (.indexEntryRead _ _) | .ev (.treeletFillComplete _ _) => 1
  | .ev (.copyStep _ _) | .ev (.transferRecord _ _ _) | .ev (.mmaRow _ _) | .ev (.multicastJoin _ _)
  | .ev (.matrixCommandComplete _ _) | .ev (.collJoin _ _) | .ev (.collComplete _ _) | .ev (.peerAccess _ _)
  | .ev (.bagQueryExecute _ _) | .ev (.bagQueryReply _ _) | .ev (.encoderFrameStart _ _) | .ev (.encoderFrameDone _ _ _) => 3
  | .ev _ | .thr _ _ | .saved _ => 0

/-- A log entry of a saved context (R360). -/
def Waiter.isSaved : Waiter → Bool
  | .saved _ => true
  | .ev _ | .thr _ _ => false

/-- The access of a lane has taken its value, or has failed (R135, R138). -/
def LaneAcc.taken (a : LaneAcc) : Bool := a.done || !a.data.isEmpty || a.trap.isSome

/-- What a translation finds. -/
inductive Xl
  | ok (ap : Ap) (off : Nat) (s : State)
  /-- A fatal fault with its response code (R18), 0x100 for a dropped hint. -/
  | fail (code : Nat) (s : State)
  /-- The access waits in its engine (R17). -/
  | wait (s : State)

namespace State

/-- A waiter goes on: its event is posted again, or its threads become ready. -/
def release (s : State) : Waiter → State
  | .ev i => s.postOnce i
  | .thr c g => s.modCore c fun k =>
      { k with groups := k.groups.upd g fun x =>
          { x with threads := x.threads.map fun t => if t.wait = some .xlate then { t with wait := none } else t } }
  | .saved _ => s

def releaseAll (s : State) (ws : List Waiter) : State := ws.foldl release s

/-- Append a page to the dirty-page log (R23, R24). -/
def dirtyAppend (s : State) (c : Nat) (e : TEntry) : State :=
  let k := s.core c
  let size := if e.size = 2 ^ 30 then 2 else if e.size = 2 ^ 21 then 1 else 0
  let q := 2 ^ 63 + size * 2 ^ 53 + e.ctx * 2 ^ 45 + e.page / 4096
  let k := { k.writeStore (0x5e8000 + 8 * k.dlogNext) (leBytes 8 q) with
    dlogNext := (k.dlogNext + 1) % 1024
    dlogFill := k.dlogFill + 1 }
  let s := s.setCore c k
  if 512 ≤ k.dlogFill then s.postOnce (.dirtyLogMerge c) else s

/-- A page is marked dirty-logged in the die cache and in the core's engine caches (R23). -/
def markDirty (s : State) (c : Nat) (e : TEntry) : State :=
  let mark := fun (o : TEntry) => if o.ctx = e.ctx ∧ o.page = e.page ∧ o.size = e.size then { o with dirty := true } else o
  let s := s.modDie (s.dieOf c) fun d => { d with dcache := d.dcache.map fun (a, b, o) => (a, b, mark o) }
  s.modCore c fun k => { k with tcache := k.tcache.map fun (i, l) => (i, l.map mark) }

/-- The PASID of a context index (R10). -/
def pasid (s : State) (ctx : Nat) : Nat := qf (s.ctxQ ctx 4) 19 0

/-- Send an ATS Translation Request with the PASID of the context (R17). -/
def sendAts (s : State) (d i ctx page : Nat) (write : Bool) : State := s.emit (.ats d i (s.pasid ctx) page write)

/-- Join the miss entry of the context and page, or open one; with all 256 in use the waiter waits in its engine (R17). -/
def joinMiss (s : State) (d ctx page : Nat) (write hint : Bool) (who : Waiter) : State :=
  let x := s.die d
  match x.misses.find? fun (_, m) => m.ctx == ctx && m.page == page with
  | some (i, m) => s.setDie d { x with misses := x.misses.put i { m with waiters := m.waiters ++ [(who, write, hint)] } }
  | none =>
    match firstFree 256 fun i => (x.misses.look i).isSome with
    | none => s.setDie d { x with missWait := x.missWait ++ [who] }
    | some i =>
      (s.setDie d { x with misses := x.misses.put i { ctx, page, write, waiters := [(who, write, hint)] } }).sendAts d i ctx page write

/-- TRANSLATION (R16, R17, R23): the verdict of an earlier wait, the engine cache, the die cache, else a miss. Engine
numbers of 6 and above have no cache of their own. -/
def xlate (s : State) (c eng ctx va : Nat) (write hint : Bool) (who : Waiter) : Xl :=
  let d := s.dieOf c
  let x := s.die d
  let page := va / 4096 * 4096
  match x.xfails.find? fun f => f.who == who && f.ctx == ctx && f.page == page with
  | some f => .fail f.code (s.setDie d { x with xfails := x.xfails.erase f })
  | none =>
    let k := s.core c
    let own := (k.tcache.look eng).getD []
    let mine := own.find? fun e => e.covers ctx va && e.grants write
    let hit := mine.or ((x.dcache.find? fun (_, _, e) => e.covers ctx va && e.grants write).map fun (_, _, e) => e)
    match hit with
    | none => .wait (s.joinMiss d ctx page write hint who)
    | some e =>
      let s := if mine.isSome then s else s.setDie d (x.touch e)
      let s := if eng < 6 then s.setCore c { k with tcache := k.tcache.put eng (engineFill own e) } else s
      -- a successful write translation, logged whatever R14 says of its target
      if write ∧ ¬ e.dirty then
        (if k.dlogFill = 1024 then .wait (s.modCore c fun k => { k with dlogWait := k.dlogWait ++ [who] })
         else .ok e.ap (e.off + (va - e.page)) ((s.markDirty c e).dirtyAppend c e))
      else .ok e.ap (e.off + (va - e.page)) s

/-- The host link of the entry that a core's engine cache has just used (R11, R43). -/
def usedLink (s : State) (c eng ctx va : Nat) : Nat :=
  (((((s.core c).tcache.look eng).getD []).find? fun e => e.covers ctx va).map TEntry.link).getD 0

/-! ### The operand log (R348, R349) -/

/-- Bytes of an operand log entry (R348). -/
def logImage (o : MemOp) (l : OpLog) : List Byte :=
  leBytes 4 o.pc.toNat ++ leBytes 4 o.word.toNat ++ leBytes 4 o.lit.toNat ++ leBytes 4 l.lanes.toNat ++ leBytes 8 l.page
    ++ leBytes 2 o.gid ++ leBytes 2 l.ft ++ leBytes 4 0
    ++ (List.range 32).flatMap fun i =>
      leBytes 2 (if l.lanes.getLsbD i then ((o.lanes.find? fun a => a.lane = i).map fun a => a.va % 4096).getD 0 else 0)

end State

/-- The kind is a hint, and the kind writes. -/
def MemKind.hint : MemKind → Bool
  | .pref _ => true
  | .load _ _ | .atom _ _ _ _ | .qapp _ _ => false
def MemKind.writes : MemKind → Bool
  | .atom _ _ _ _ | .qapp _ _ => true
  | .load _ _ | .pref _ => false

/-- The lanes for which a lane's access is made: those that name the same location, of an instruction that modifies it (R299,
R301). -/
def MemOp.together (o : MemOp) (lane : Nat) : List Nat :=
  let va := (o.lanes.find? fun a => a.lane = lane).map (·.va)
  if o.kind.writes then (o.lanes.filter fun b => some b.va = va).map (·.lane) else [lane]

namespace State

/-- A lane access that takes a recoverable fault enters the operand log, or waits in the pipe when it is full (R348,
R349). -/
def logFault (s : State) (c op lane ft : Nat) : State :=
  let k := s.core c
  match k.memops.look op with
  | none => s
  | some o =>
    let page := ((o.lanes.find? fun a => a.lane = lane).map fun a => a.va / 4096 * 4096).getD 0
    let k := { k with logStall := k.logStall.filter fun x => ¬ (x.1 = op ∧ x.2.1 = lane) }
    match (k.opLog.find? fun (_, l) => l.op == op && l.page == page).map (·.1) |>.or
        (firstFree 64 fun i => (k.opLog.look i).isSome) with
    | none => s.setCore c { k with logStall := k.logStall ++ [(op, lane, ft)] }
    | some i =>
      let l := (k.opLog.look i).getD { op, lanes := 0, page, ft }
      let l := { l with lanes := l.lanes ||| maskOf (o.together lane), ft }
      s.setCore c (({ k with opLog := k.opLog.put i l } : Core).writeStore (0x5fc000 + 96 * i) (logImage o l))

/-- Faulted accesses that found the log full enter it as far as it has room (R349). -/
def admitLog (s : State) (c : Nat) : State :=
  (s.core c).logStall.foldl (fun (s : State) (x : Nat × Nat × Nat) => s.logFault c x.1 x.2.1 x.2.2)
    (s.modCore c fun k => { k with logStall := [] })

/-- A logged lane has translated or failed: its bit leaves the entry, and a freed entry takes a stalled access (R348, R349). -/
def logDone (s : State) (c op lane : Nat) : State :=
  let k := s.core c
  let k := { k with logStall := k.logStall.filter fun x => ¬ (x.1 = op ∧ x.2.1 = lane) }
  match k.opLog.find? fun (_, l) => l.op == op && l.lanes.getLsbD lane with
  | none => s.setCore c k
  | some (i, l) =>
    let l : OpLog := { l with lanes := l.lanes &&& ~~~(maskOf (((k.memops.look op).map fun o => o.together lane).getD [lane])) }
    let k := k.writeStore (0x5fc000 + 96 * i + 12) (leBytes 4 l.lanes.toNat)
    if l.lanes ≠ 0 then s.setCore c { k with opLog := k.opLog.put i l }
    else (s.setCore c { k with opLog := k.opLog.drop i }).admitLog c

/-! ### Faults (R18, R19, R354) -/

/-- A waiter is told that its access failed. -/
def failWaiter (s : State) (d ctx page code : Nat) (who : Waiter) : State :=
  if who.isSaved then s
  else (s.modDie d fun x => { x with xfails := x.xfails ++ [{ who, ctx, page, code }] }).release who

/-- The outstanding page requests of a function are below its allocation (R19). -/
def priRoom (s : State) (d : Nat) : Bool :=
  let fn := s.hostLink d
  let used := ((List.range s.product.dies).filter fun x => s.hostLink x == fn).foldl (fun a x =>
    a + (((s.die x).faults.filter fun (_, f) => f.state == .outstanding).map fun (_, f) => f.requests).sum) 0
  decide (used < (s.pri.look fn).getD 0)

/-- A recoverable fault: join the fault table entry of the page or open one, send a page request for an access that none asks
for yet, all of a page in one group, and log a load (R19, R348); with no room for the request the fault waits. -/
def pageFault (s : State) (d ctx page : Nat) (write : Bool) (who : Waiter) : State :=
  let x := s.die d
  let logIt := fun (s : State) (i : Nat) => match who with
    | .ev (.translationRequest c op lane) => s.logFault c op lane i
    | _ => s
  match x.faults.find? fun (_, f) => f.state == .outstanding && f.ctx == ctx && f.page == page with
  | some (i, f) =>
    let more := write && !f.write
    if more && !s.priRoom d then s.setDie d { x with missWait := x.missWait ++ [who] }
    else
      let s' := s.setDie d { x with faults := x.faults.put i { f with
        waiters := f.waiters ++ [who], write := f.write || write, requests := f.requests + bit more } }
      logIt (if more then s'.emit (.pri d i (s.pasid ctx) page true) else s') i
  | none =>
    match (firstFree 512 fun i => (x.faults.look i).isSome).filter fun _ => s.priRoom d with
    | none => s.setDie d { x with missWait := x.missWait ++ [who] }
    | some i =>
      let f : FaultEntry := { write, source := who.source, ctx, page, waiters := [who], prg := i }
      logIt ((s.setDie d { x with faults := x.faults.put i f }).emit (.pri d i (s.pasid ctx) page write)) i

/-- A fault of a die is recoverable: PRI is enabled for the function of its host link (R18). -/
def priEnable (s : State) (d : Nat) : Bool := (s.pri.look (s.hostLink d)).isSome

/-- The waiters that found no miss or fault entry look again, on every die (R17, R19). -/
def retryMisses (s : State) (d : Nat) : State :=
  let ws := (s.die d).missWait
  (s.modDie d fun x => { x with missWait := [] }).releaseAll ws

/-- Free a fault table entry, unless a saved log entry still waits on it; faults and misses that waited for room on a die of the
function try again (R17, R19, R354, R360). -/
def freeFault (s : State) (d i : Nat) : State :=
  let x := s.die d
  let left := ((x.faults.look i).map fun f => f.waiters.filter Waiter.isSaved).getD []
  if left.isEmpty then
    ((List.range s.product.dies).filter fun y => s.hostLink y == s.hostLink d).foldl retryMisses
      (s.setDie d { x with faults := x.faults.drop i })
  else s.setDie d { x with faults := x.faults.upd i fun f => { f with waiters := left } }

/-- Every waiter of a fault table entry fails with a code (R19). -/
def failFault (s : State) (d i code : Nat) : State :=
  match (s.die d).faults.look i with
  | none => s
  | some f =>
    let s := s.modDie d fun x => { x with faults := x.faults.upd i fun f => { f with state := .failed, response := code } }
    (f.waiters.foldl (fun (s : State) w => s.failWaiter d f.ctx f.page code w) s).freeFault d i

/-- One waiter of a completed request (R17, R18): it goes on, it asks again because the request did not ask for its access, its
hint is dropped, its fault is recoverable, or it is fatal. -/
def serveWaiter (s : State) (d : Nat) (m : Miss) (granted : Bool → Bool) (w : Waiter × Bool × Bool) : State :=
  let (who, write, hint) := w
  if granted write ∨ (write ∧ ¬ m.write) then s.release who
  else if hint then s.failWaiter d m.ctx m.page 0x100 who
  else if s.priEnable d then s.pageFault d m.ctx m.page write who
  else ({ s with free := s.free + 1 }).failWaiter d m.ctx m.page ((Config.freeWord s.free).toNat % 256) who

/-- A waiter that stands in the operand log is replayed through its entry (R349). -/
def replay (s : State) (who : Waiter) : State :=
  match who with
  | .ev (.translationRequest c op lane) =>
    match (s.core c).opLog.find? fun (_, l) => l.op == op && l.lanes.getLsbD lane with
    | some (i, _) => s.postOnce (.operandLogReplay c i)
    | none => s.release who
  | _ => s.release who

end State

/-- `TRANSLATION` of an ATS completion (R17, R18, R20): the caches are filled, and each waiter goes on or faults. -/
def execAtsCompletion (d i : Nat) (g : AtsGrant) (s : State) : Host.Outcome State Fault Refusal :=
  match (s.die d).misses.look i with
  | none => .next s
  | some m =>
    let page := m.page / g.pageSize * g.pageSize
    if m.stale.any fun (lo, hi) => decide (page < hi ∧ lo < page + g.pageSize) then
      .next ((s.modDie d fun x => { x with misses := x.misses.put i { m with stale := [] } }).sendAts d i m.ctx m.page m.write)
    else
      let (ap, off) := s.classify (g.phys / g.pageSize * g.pageSize)
      let e : TEntry := { ctx := m.ctx, page, size := g.pageSize, read := g.read, write := g.write, ap, off, dirty := false, link := s.linkOf g.phys }
      let waiting := (s.die d).missWait
      let s := s.modDie d fun x => { (if g.read || g.write then x.fill e else x) with misses := x.misses.drop i, missWait := [] }
      let granted := fun w : Bool => if w then g.write else g.read
      let s := match m.fault with
        | none => m.waiters.foldl (fun (s : State) (w : Waiter × Bool × Bool) => s.serveWaiter d m granted w) s
        | some f =>
          -- the repeated request of R19: the held accesses retry, or with no permission the page is requested again
          if g.read || g.write then (m.waiters.foldl (fun (s : State) (w : Waiter × Bool × Bool) => s.replay w.1) s).freeFault d f
          else if s.priEnable d && s.priRoom d then
            ((s.modDie d fun x => { x with faults := x.faults.upd f fun y =>
              { y with state := .outstanding, requests := 1, waiters := m.waiters.map Prod.fst ++ y.waiters.filter Waiter.isSaved } }).emit (.pri d f (s.pasid m.ctx) m.page m.write))
          else if s.priEnable d then
            (s.modDie d fun x => { x with missWait := x.missWait ++ m.waiters.map Prod.fst }).freeFault d f
          else (({ s with free := s.free + 1 }).modDie d fun x => { x with faults := x.faults.upd f fun y =>
              { y with waiters := m.waiters.map Prod.fst ++ y.waiters.filter Waiter.isSaved } }).failFault d f ((Config.freeWord s.free).toNat % 256)
      .next (s.releaseAll waiting)

/-- An ATS request not completed in time is a fatal fault with code 0xff (R19). -/
def execAtsTimeout (d i : Nat) (s : State) : Host.Outcome State Fault Refusal :=
  match (s.die d).misses.look i with
  | none => .next s
  | some m =>
    let s := s.modDie d fun x => { x with misses := x.misses.drop i }
    let s := m.waiters.foldl (fun (s : State) (w : Waiter × Bool × Bool) => s.failWaiter d m.ctx m.page (if w.2.2 then 0x100 else 0xff) w.1) s
    let s := s.retryMisses d
    .next (match m.fault with
      | some f => (s.modDie d fun x => { x with faults := x.faults.upd f fun y => { y with state := .failed, response := 0xff } }).freeFault d f
      | none => s)

/-- PRI response codes of PCIe: 0 Success, 1 Invalid Request, 15 Response Failure. -/
def priFailure : Nat := 15

/-- Make every outstanding fault of a function fatal with a code; no further page requests are issued (R19). -/
def State.failAll (s : State) (fn code : Nat) : State :=
  let s := { s with pri := s.pri.drop fn }
  ((List.range s.product.dies).filter fun d => s.hostLink d == fn).foldl (fun s d =>
    ((s.die d).faults.filter fun (_, f) => f.state == .outstanding).foldl (fun s (i, _) => s.failFault d i code) s) s

/-- A PRI response (R19, R354). On Success the ATS request is repeated for every access held on the page. -/
def execPriResponse (d i code : Nat) (s : State) : Host.Outcome State Fault Refusal :=
  match (s.die d).faults.look i with
  | none => .next s
  | some f =>
    if f.state ≠ .outstanding then .next s
    else if code = 0 ∧ f.waiters.all Waiter.isSaved then
      .next ((s.modDie d fun x => { x with faults := x.faults.put i { f with state := .success, response := 0 } }).freeFault d i)
    else if code = 0 then
      let x := s.die d
      match firstFree 256 fun j => (x.misses.look j).isSome with
      | none => .next (s.post (.priResponse d i code))
      | some j =>
        let m : Miss := { ctx := f.ctx, page := f.page, write := f.write, fault := some i,
                          waiters := (f.waiters.filter fun w => !w.isSaved).map fun w => (w, f.write, false) }
        .next ((s.setDie d { x with
          faults := x.faults.put i { f with state := .success, response := 0 }
          misses := x.misses.put j m }).sendAts d j f.ctx f.page f.write)
    else if code = priFailure then .next (s.failAll (s.hostLink d) code)
    else .next (s.failFault d i code)

/-- The host clears PRI Enable of a function: its outstanding faults become fatal, with code 0xfe (R19). -/
def execPriDisable (s : State) : Host.Outcome State Fault Refusal := .next (s.failAll s.priWrite.1 0xfe)

/-- The host enables PRI of a function, with its Outstanding Page Request Allocation; a die holds at most 512 (R19). -/
def execPriReenable (s : State) : Host.Outcome State Fault Refusal :=
  let fn := s.priWrite.1
  let s := { s with pri := s.pri.put fn s.priWrite.2 }
  .next (((List.range s.product.dies).filter fun d => s.hostLink d == fn).foldl State.retryMisses s)

/-- Logged lanes reissue when their page's fault has cleared (R349). -/
def execOperandLogReplay (c i : Nat) (s : State) : Host.Outcome State Fault Refusal :=
  match (s.core c).opLog.look i with
  | none => .next s
  | some l => .next (s.posts ((lanesOf l.lanes).map fun lane => .translationRequest c l.op lane))

/-! ### Invalidation (R10, R20) -/

/-- Remove the entries of a context that meet a range from the caches of some dies and of their cores; the outstanding requests of
the context there learn the range, which a completion of any page size may cover (R20). -/
def State.invalidateOn (s : State) (on : Nat → Bool) (ctx lo hi : Nat) : State :=
  let meets := fun (e : TEntry) => e.ctx == ctx && decide (e.page < hi ∧ lo < e.page + e.size)
  { s with
    dies := s.dies.map fun (d, x) =>
      (d, if on d then { x with
        dcache := x.dcache.filter fun (_, _, e) => !meets e
        misses := x.misses.map fun (i, m) => (i, if m.ctx = ctx then { m with stale := m.stale ++ [(lo, hi)] } else m) } else x)
    cores := s.cores.map fun (c, k) =>
      (c, if on (s.dieOf c) then { k with tcache := k.tcache.map fun (i, l) => (i, l.filter fun e => !meets e) } else k) }

/-- The same on every die. -/
def State.invalidate (s : State) (ctx lo hi : Nat) : State := s.invalidateOn (fun _ => true) ctx lo hi

/-- The context indexes of a PASID, whether or not they are valid now (R10, R394). -/
def State.contextsOf (s : State) (pasid : Nat) : List Nat := (List.range 255).filter fun i => qf (s.ctxQ i 4) 19 0 = pasid

/-- The number of the event by which an invalidation reaches a die agent: above its tag the die plus 1. -/
def invalTag (tag d : Nat) : Nat := tag + 32 * (d + 1)

/-- An ATS Invalidation Request (R20): its tag is one of 32, so that up to 32 are in progress. The endpoint of the host link sends it
to every die agent on VN5. -/
def execAtsInvalidation (tag pasid va size : Nat) (s : State) : Host.Outcome State Fault Refusal :=
  let tag := tag % 32
  let s := { s with invals := s.invals.put tag { pasid, va, size, left := List.range s.product.dies } }
  .next (((List.range s.product.dies).foldl (fun (s : State) d =>
    s.send s.hostCore (s.agentCore d) 5 1 (.invalidationComplete (invalTag tag d)) (port := 5)) s).postOnce (.invalidationComplete tag))

/-- An invalidation reaches a die agent, which removes the entries of its die (R20). -/
def State.invalidateDie (s : State) (tag d : Nat) : State :=
  match s.invals.look tag with
  | none => s
  | some v =>
    let s := (s.contextsOf v.pasid).foldl (fun (s : State) i => s.invalidateOn (· == d) i v.va (v.va + v.size)) s
    { s with invals := s.invals.put tag { v with left := v.left.filter (· ≠ d) } }

/-- An overlay load whose translated pages lie in a range is not complete. -/
def OvRecord.loads (r : OvRecord) (ctx lo hi : Nat) : Bool :=
  r.placed && !r.resident && r.aliases.head?.any (·.1 == ctx) && decide (r.image < hi ∧ lo < r.image + 4096 * r.slots)

/-- Accesses translated through an entry of the range that are not complete (R20): store-buffer entries on their way, loads and atomics
whose data has not returned, and overlay loads. An engine command's page-sized step is one step of the model. -/
def State.accessesIn (s : State) (ctx lo hi : Nat) : Bool :=
  s.cores.any fun (_, k) =>
    k.sbuf.any (fun (_, e) => e.ctx == ctx && e.bytes.any fun b => b.sent && decide (lo ≤ b.va ∧ b.va < hi))
    || k.memops.any (fun (_, o) => o.ctx == ctx && o.lanes.any fun a => a.translated && !a.taken && decide (lo ≤ a.va ∧ a.va < hi))
    || k.records.any fun (_, r) => r.loads ctx lo hi

/-- Every die agent has reported: the Invalidation Completion is sent; until then the endpoint waits (R20, R21). A number of `invalTag`
is the message to a die agent. -/
def execInvalidationComplete (tag : Nat) (s : State) : Host.Outcome State Fault Refusal :=
  if 32 ≤ tag then .next (s.invalidateDie (tag % 32) (tag / 32 - 1))
  else
    match s.invals.look tag with
    | none => .next s
    | some v =>
      if ¬ v.left.isEmpty ∨ (s.contextsOf v.pasid).any (fun i => s.accessesIn i v.va (v.va + v.size)) then
        .next (s.post (.invalidationComplete tag))
      else .next ({ s with invals := s.invals.drop tag }.emit (.invalidated tag))

/-- Assigning a context index to a new PASID invalidates every entry of the index (R10). -/
def State.assignPasid (s : State) (i pasid : Nat) : State :=
  ((s.setField (State.ctxOff i 4) 19 0 pasid).invalidate i 0 (2 ^ 57))

/-- The event of `State.assignPasid`. -/
def execContextPasidAssign (i pasid : Nat) (s : State) : Host.Outcome State Fault Refusal := .next (s.assignPasid i pasid)

end Sys2Proof.Machine
end

