-- ==== Sys2Proof/Machine/Memory.lean ====
section
/-! DEFINITION. The memory system: memory arrays, home slices (R54 to R61, R108, R109), the first-level cache (R42 to R46),
memory ports (R13), store buffers (R296), and the accesses of loads and atomics (R295, R298, R299, R301). -/

namespace Sys2Proof.Machine

/-! ### Sectors and homes -/

/-- The first byte of the sector of an aperture offset; capacity sectors count from the first byte of their buffer (R108). -/
def sectorBase (ap : Ap) (off : Nat) : Nat :=
  match ap with
  | .cap => off / 2 ^ 39 * 2 ^ 39 + off % 2 ^ 39 / 48 * 48
  | _ => off / 48 * 48

/-- A write to a capacity buffer, which the buffer must accept (R109). -/
def Req.toBuffer (r : Req) : Bool :=
  match r.ap, r.kind with
  | .cap, .write _ => true
  | _, _ => false

/-- Address of a sector within the memory of its home: die-local, or within its buffer. -/
structure Home where
  die : Nat
  slice : Nat
  cap : Bool
  buf : Nat
  addr : Nat
deriving DecidableEq, Repr

def Home.line (h : Home) : Nat := h.addr / 192
def Home.set (h : Home) : Nat := h.line / 16 % 5461
def Home.sector (h : Home) : Nat := h.addr % 192 / 48

/-- The die of a capacity buffer's link (R107). -/
def bufDie (b : Nat) : Nat := 2 * b + b / 4 % 2

namespace State

/-- The home of an offset of the HBM or the capacity aperture (R59, R60, R108). -/
def homeOf (s : State) (ap : Ap) (off : Nat) : Home :=
  match ap with
  | .cap =>
    let b := off / 2 ^ 39
    { die := bufDie b, slice := nibbles 8 (off % 2 ^ 39 / 192), cap := true, buf := b, addr := off % 2 ^ 39 }
  | _ =>
    let (d, l) := s.hbmHome off
    { die := d, slice := nibbles 7 (l / 192), cap := false, buf := 0, addr := l }

/-- The buffer is offline (R110, R111). -/
def offline (s : State) (b : Nat) : Bool := s.field (capLinkOff b) 30 30 = 1

/-- The link of a buffer is down and retrains: requests wait (R110). -/
def capDown (s : State) (b : Nat) : Bool := s.field (capLinkOff b) 31 30 = 0

/-! ### The arrays behind the slices -/

/-- Bytes of memory at a home address, with their poison (R112). -/
def rawRead (s : State) (h : Home) (n : Nat) : List Byte × List Bool :=
  if h.cap then
    let a := h.buf * 2 ^ 39 + h.addr
    (Mem.read (n := 8) s.cap a n, (List.range n).map fun i => s.offline h.buf || s.capPoison.contains (a + i))
  else
    let a := h.die * gib 24 + h.addr
    (Mem.read (n := 8) s.hbm a n, (List.range n).map fun i => s.hbmPoison.contains (a + i))

/-- Write one byte of memory with its poison. -/
def rawPut (s : State) (h : Home) (i : Nat) (b : Byte) (bad : Bool) : State :=
  if h.cap then
    let a := h.buf * 2 ^ 39 + h.addr + i
    { s with cap := Mem.set (n := 8) s.cap a b, capPoison := if bad then a :: s.capPoison.erase a else s.capPoison.erase a }
  else
    let a := h.die * gib 24 + h.addr + i
    { s with hbm := Mem.set (n := 8) s.hbm a b, hbmPoison := if bad then a :: s.hbmPoison.erase a else s.hbmPoison.erase a }

def slice (s : State) (d sl : Nat) : Slice := ((s.die d).slices.look sl).getD {}
def setSlice (s : State) (d sl : Nat) (x : Slice) : State := s.modDie d fun y => { y with slices := y.slices.put sl x }

end State

/-! ### Lines of a slice (R55, R56) -/

def Slice.find (x : Slice) (h : Home) : Option SLine :=
  x.lines.find? fun l => l.cap == h.cap && l.buf == h.buf && l.line == h.line

/-- Requests that stand in the miss entries of a slice (R57). -/
def Slice.missUse (x : Slice) : Nat := x.misses.foldl (fun a p => a + p.2.length) 0

def emptySectors : List Sector := List.replicate 4 {}

/-- A sector of a line as it stands. -/
def Slice.sectorAt (x : Slice) (h : Home) : Sector := ((x.find h).map fun l => l.sectors.getD h.sector {}).getD {}

def Sector.full (q : Sector) : Bool :=
  match q.state with
  | .clean | .dirty => true
  | .invalid | .partly => false

namespace State

/-- Write back what an evicted line holds: the bytes kept by Partial and Dirty sectors (R56). -/
def writeBack (s : State) (d : Nat) (l : SLine) : State :=
  (l.sectors.zipIdx).foldl (fun s (q, j) =>
    match q.state with
    | .invalid | .clean => s
    | .partly | .dirty =>
      let h : Home := { die := d, slice := 0, cap := l.cap, buf := l.buf, addr := l.line * 192 + 48 * j }
      (List.range 48).foldl (fun s i =>
        if q.mask.getD i (q.state == .dirty) then s.rawPut h i (q.data.getD i 0) (q.poison.getD i false) else s) s) s

/-- A sector that is read: its line's way is touched (R55). -/
def touchLine (s : State) (h : Home) : State :=
  let x := s.slice h.die h.slice
  match x.find h with
  | none => s
  | some l => s.setSlice h.die h.slice { x with plru := x.plru.put h.set (plruTouch ((x.plru.look h.set).getD 0) l.way) }

/-- Put a sector into its line, allocating the line in the lowest invalid way or in the way of the pseudo-LRU victim (R55). -/
def putSector (s : State) (h : Home) (q : Sector) : State :=
  let x := s.slice h.die h.slice
  let (s, x, way) : State × Slice × Nat := match x.find h with
    | some l => (s, x, l.way)
    | none =>
      let tree := (x.plru.look h.set).getD 0
      let here := x.lines.filter fun (l : SLine) => l.set == h.set
      let way := (firstFree 16 fun w => here.any fun (l : SLine) => l.way == w).getD (plruVictim tree)
      let s := match here.find? fun (l : SLine) => l.way == way with
        | some old => s.writeBack h.die old
        | none => s
      (s, { x with lines := { set := h.set, way, cap := h.cap, buf := h.buf, line := h.line, sectors := emptySectors } ::
              x.lines.filter fun (l : SLine) => !(l.set == h.set && l.way == way) }, way)
  s.setSlice h.die h.slice { x with
    lines := x.lines.map fun l =>
      if l.cap = h.cap ∧ l.buf = h.buf ∧ l.line = h.line then { l with sectors := l.sectors.set h.sector q } else l
    plru := x.plru.put h.set (plruTouch ((x.plru.look h.set).getD 0) way) }

/-- Memory data fills a sector, but an offline buffer gives none (R112): Clean, or Dirty when it merges under the bytes a Partial sector kept (R56). -/
def fillSector (s : State) (h : Home) : State :=
  let h0 := { h with addr := h.addr / 48 * 48 }
  let q := (s.slice h.die h.slice).sectorAt h
  if q.full || (h.cap && s.offline h.buf) then s
  else
    let (data, bad) := s.rawRead h0 48
    let keep := fun i => q.state == .partly && q.mask.getD i false
    s.putSector h
      { state := if q.state = .partly then .dirty else .clean
        mask := []
        data := (List.range 48).map fun i => if keep i then q.data.getD i 0 else data.getD i 0
        poison := (List.range 48).map fun i => if keep i then q.poison.getD i false else bad.getD i false }

/-- A write of some bytes of a sector, offsets within it (R56). A capacity line's write has also gone to the buffer, and
leaves the sector Invalid or Clean (R109). -/
def mergeSector (s : State) (h : Home) (bs : List (Nat × Byte)) (bad : Bool := false) : State :=
  let q := (s.slice h.die h.slice).sectorAt h
  let get := fun (i : Nat) => (bs.find? fun b => b.1 = i).map (·.2)
  let data := (List.range 48).map fun i => (get i).getD (q.data.getD i 0)
  let poison := (List.range 48).map fun i => if (get i).isSome then bad else q.poison.getD i false
  let h0 := { h with addr := h.addr / 48 * 48 }
  if h.cap then
    let s := bs.foldl (fun s b => s.rawPut h0 b.1 b.2 bad) s
    match q.state with
    | .invalid => s
    | st => s.putSector h { q with state := st, data, poison }
  else
    match q.state with
    | .clean | .dirty => s.putSector h { state := .dirty, data, poison }
    | .invalid | .partly =>
      s.putSector h { state := .partly, data, poison, mask := (List.range 48).map fun i => q.mask.getD i false || (get i).isSome }

end State

/-! ### The first-level cache (R42 to R46) -/

/-- Granules of the core store that are lent: no byte of the pool, of an allocation, or of granule 63, and not being reclaimed
(R42, R45). -/
def Core.lent (k : Core) : List Nat :=
  (List.range 63).filter fun g =>
    !k.reclaiming.contains g && decide (k.poolSlots * 65536 ≤ g * 98304) && k.teams.all fun (_, t) =>
      t.size == 0 || decide (t.base + t.size ≤ g * 98304 ∨ (g + 1) * 98304 ≤ t.base)

/-- The host physical address of the first byte of the line of an aperture offset, through a link's copy of the aperture, and the
set of the first-level cache (R43). -/
def State.l1Place (s : State) (link : Nat) (ap : Ap) (off : Nat) : Nat × Nat :=
  let b0 := (s.bars.getD link (0, 0, 0)).1
  let first := match ap with
    | .cap => gib 16384 + off / 2 ^ 39 * 2 ^ 39 + off % 2 ^ 39 / 192 * 192
    | _ => off / 192 * 192
  (b0 + first, (b0 + first) / 192 % 512)

/-- The sector of its line that an aperture offset lies in. -/
def lineSector (ap : Ap) (off : Nat) : Nat :=
  match ap with
  | .cap => off % 2 ^ 39 % 192 / 48
  | _ => off % 192 / 48

/-- Place of a line in the core store: line i of way g at byte 192i of granule g (R42). -/
def lineBase (way set : Nat) : Nat := way * 98304 + 192 * set

def Core.l1Find (k : Core) (ctx line : Nat) : Option L1Line := k.l1.find? fun l => l.ctx == ctx && l.line == line

/-- An acquire at `.die` or wider invalidates the cache, and fills in flight only deliver (R46). -/
def Core.l1Acquire (k : Core) (sc : Scope) : Core :=
  match sc with
  | .grp | .core => k
  | .die | .pkg | .sys => { k with l1 := [], l1fills := k.l1fills.map fun (i, f) => (i, { f with install := false }) }

/-- Reclaim a way: its lines go, and its fills in flight only deliver; it is being reclaimed until the last of them has landed
(R45). -/
def Core.reclaim (k : Core) (g : Nat) : Core :=
  { k with
    reclaiming := if k.reclaiming.contains g then k.reclaiming else k.reclaiming ++ [g]
    l1 := k.l1.filter fun l => l.way ≠ g
    l1fills := k.l1fills.map fun (i, f) => (i, if f.way = g then { f with install := false } else f)
    l1ptr := [] }

/-- A fill to a granule being reclaimed is in flight (R45). -/
def Core.reclaimWaits (k : Core) : Bool := k.l1fills.any fun (_, f) => k.reclaiming.contains f.way

/-- Reclaim the lent granules of a range; the first-level cache gives them up at once, and the answer says whether every fill to
them has landed (R45). -/
def Core.reclaimRange (k : Core) (lo hi : Nat) : Core × Bool :=
  let k := (k.lent.filter fun g => decide (lo < (g + 1) * 98304 ∧ g * 98304 < hi)).foldl (fun (k : Core) g => k.reclaim g) k
  (k, !k.reclaimWaits)

/-- The granules whose reclaim has finished change hands: what no allocation and no pool has taken is lent again, and when the
granules lent are others than before, every set's pointer starts anew (R43). -/
def Core.relend (k : Core) (before : List Nat) : Core :=
  let k := if k.reclaimWaits then k else { k with reclaiming := [] }
  if k.lent = before then k else { k with l1ptr := [], l1 := k.l1.filter fun l => k.lent.contains l.way }

/-- The last fill to a granule being reclaimed has landed: a new pool size takes effect, and no reclaim is under way (R39, R45). -/
def Core.reclaimed (k : Core) : Core :=
  if k.reclaimWaits then k
  else
    match k.poolNext with
    | none => k
    | some n => ({ k with poolSlots := n, poolNext := none } : Core).relend k.lent

/-- The way that a miss allocates (R43): the first without a valid sector, else the set's pointer, which advances. -/
def Core.l1Victim (k : Core) (set : Nat) : Option Nat × Core :=
  let ways := k.lent
  match ways.find? fun g => ¬ k.l1.any fun l => l.way == g && l.set == set && l.valid.any id with
  | some g => (some g, k)
  | none =>
    match ways with
    | [] => (none, k)
    | first :: _ =>
      let p := ((k.l1ptr.look set).filter ways.contains).getD first
      (some p, { k with l1ptr := k.l1ptr.put set (((ways.find? fun g => decide (p < g))).getD first) })

/-- The cache holds lines of the HBM and the capacity aperture alone (R43). -/
def Ap.cached : Ap → Bool
  | .hbm | .cap => true
  | .store | .window | .control | .outside => false

/-- A store that hits a valid sector updates the cached bytes when it leaves the store buffer (R44): bytes by aperture offset. -/
def Core.l1Store (k : Core) (s : State) (ctx link : Nat) (ap : Ap) (bs : List (Nat × Byte)) : Core :=
  bs.foldl (fun k (off, b) =>
    let (line, set) := s.l1Place link ap off
    match (k.l1Find ctx line).filter fun l => ap.cached && l.valid.getD (lineSector ap off) false with
    | none => k
    | some l =>
      k.writeStore (lineBase l.way set + (48 * lineSector ap off + (off - sectorBase ap off))) [b]) k

/-- A write of this core to a sector has been accepted at its home: a fill that took its data before does not install (R135). -/
def Core.passFills (k : Core) (ap : Ap) (off : Nat) : Core :=
  { k with l1fills := k.l1fills.map fun (i, f) =>
      (i, if f.ap = ap ∧ f.off = sectorBase ap off ∧ ¬ f.data.isEmpty then { f with install := false } else f) }

/-! ### Loads and atomics in progress -/

def Core.modOp (k : Core) (op : Nat) (f : MemOp → MemOp) : Core := { k with memops := k.memops.upd op f }
def MemOp.modLane (o : MemOp) (lane : Nat) (f : LaneAcc → LaneAcc) : MemOp :=
  { o with lanes := o.lanes.map fun a => if a.lane = lane then f a else a }
/-- The locks of a group without those on an instruction's destination. -/
def MemOp.unlock (o : MemOp) (g : Group) : Group := { g with locks := (List.range o.regs).foldl (fun l j => l.erase (o.dst + j)) g.locks }
def MemOp.lane? (o : MemOp) (lane : Nat) : Option LaneAcc := o.lanes.find? fun a => a.lane = lane

/-- Bytes of the group's earlier stores that still stand in the buffer, by position in the access (R135). -/
def Core.forward (k : Core) (o : MemOp) (va n : Nat) : List (Nat × Byte) :=
  (List.range n).filterMap fun i =>
    (k.sbuf.foldl (fun (a : Option Byte) (key, e) =>
      if e.uid = o.uid ∧ e.ctx = o.ctx ∧ key < o.mark then ((e.bytes.find? fun b => b.va = va + i).map (·.val)).or a else a) none).map
      fun b => (i, b)

/-- The entries that bytes are taken from have been seen by the threads that take them (R139). -/
def Core.observe (k : Core) (o : MemOp) (va : Nat) (fwd : List (Nat × Byte)) (who : Word) : Core :=
  if fwd.isEmpty then k
  else { k with sbuf := k.sbuf.map fun (key, e) =>
    (key, if e.uid = o.uid ∧ e.ctx = o.ctx ∧ key < o.mark ∧ e.bytes.any (fun b => fwd.any fun p => va + p.1 == b.va)
      then { e with seen := e.seen ||| who } else e) }

/-- Place forwarded bytes over the bytes that memory gave. -/
def overlayBytes (data : List Byte) (fwd : List (Nat × Byte)) : List Byte := fwd.foldl (fun d p => d.set p.1 p.2) data

/-- New value of a read-modify-write on w bits (R298). -/
def Rmw.apply (o : Rmw) (w old x y : Nat) : Nat :=
  let sgn := fun (v : Nat) => if v < 2 ^ (w - 1) then (v : Int) else (v : Int) - 2 ^ w
  match o with
  | .op .add => (old + x) % 2 ^ w
  | .op .and => old &&& x
  | .op .or => old ||| x
  | .op .xor => old ^^^ x
  | .op .min => if sgn x < sgn old then x else old
  | .op .max => if sgn old < sgn x then x else old
  | .op .minu => if x < old then x else old
  | .op .maxu => if old < x then x else old
  | .exch => x
  | .cas => if old = x then y else old

/-- The lanes of an atomic that name one location act in ascending order on its value: the value left, and what each lane
received (R299). -/
def rmwLanes (r : Rmw) (bytes : Nat) (ls : List LaneAcc) (old : Nat) : Nat × List (Nat × Nat) :=
  ls.foldl (fun (v, got) a =>
    (r.apply (8 * bytes) v (leNat (a.x.take bytes)) (leNat (a.x.drop bytes)), got ++ [(a.lane, v)])) (old, [])

/-- A read-modify-write of the lanes makes a write: every operation but a CAS whose compare fails (R298). -/
def rmwMakes (r : Rmw) (bytes : Nat) (ls : List LaneAcc) (got : List (Nat × Nat)) : Bool :=
  match r with
  | .op _ | .exch => true
  | .cas => ls.any fun a => got.contains (a.lane, leNat (a.x.take bytes))

/-- Bytes that a lane's access reads or writes. -/
def MemKind.bytes : MemKind → Nat
  | .load b _ | .atom _ b _ _ => b
  | .qapp _ _ => 16
  | .pref _ => 0

/-- An earlier load or atomic of the group has not taken its value from a byte of va to va + n − 1 (R135, R136). -/
def Core.behindOps (k : Core) (uid before va n : Nat) : Bool :=
  k.memops.any fun (j, o) => decide (j < before) && o.uid == uid &&
    o.lanes.any fun a => !a.taken && decide (a.va < va + n ∧ va < a.va + o.kind.bytes)

/-- A header that an append takes before the lane's: a lower lane names it, and it has not been taken (R301). -/
def MemOp.headerBefore (o : MemOp) (a : LaneAcc) : Bool :=
  match o.kind with
  | .qapp _ _ => o.lanes.any fun b => decide (b.lane < a.lane ∧ b.va ≠ a.va) && !b.taken
  | .load _ _ | .atom _ _ _ _ | .pref _ => false

/-- An earlier append of some of the threads has its ticket, and so the place of its entry, still to come (R136). -/
def Core.behindTicket (k : Core) (uid before : Nat) (lanes : Word) : Bool :=
  k.sbuf.any fun (j, e) => decide (j < before) && e.ticket.isSome && State.ofThreads uid lanes e.uid e.victims

/-- An earlier store of the group to a byte of va to va + n − 1 has not left the store buffer (R135). -/
def Core.behindStores (k : Core) (uid before va n : Nat) : Bool :=
  k.sbuf.any fun (j, e) => decide (j < before) && e.uid == uid && e.bytes.any fun b => !b.sent && decide (va ≤ b.va ∧ b.va < va + n)

/-- An access stands behind earlier ones of its group to the same bytes, but for the stores a load can take its bytes from (R135,
R136), behind an append of its thread whose place is not known, or behind an earlier header of its instruction (R301). -/
def Core.heldBack (k : Core) (op : Nat) (o : MemOp) (a : LaneAcc) : Bool :=
  !o.kind.hint && (k.behindOps o.uid op a.va o.kind.bytes || k.behindTicket o.uid o.mark o.victims || (o.kind.writes && k.behindStores o.uid o.mark a.va o.kind.bytes)
    || o.headerBefore a)

/-- The result of a ticket append on a header (R300, R301): the new header, or none when it is malformed, and each lane's
ticket. -/
def qappHeader (h : List Byte) (lanes : List Nat) : Option (List Byte × Nat × List (Nat × Option Nat)) :=
  let count := leNat (h.take 4)
  let capacity := leNat ((h.drop 4).take 4)
  let q1 := leNat (h.drop 8)
  if bits q1 62 57 ≠ 0 ∨ bits q1 1 0 ≠ 0 then none
  else
    let k := min lanes.length (capacity - count)
    let q1' := if k < lanes.length then setBits q1 63 63 1 else q1
    some (leBytes 4 (count + k) ++ leBytes 4 capacity ++ leBytes 8 q1', bits q1 56 0,
      (lanes.zipIdx).map fun (l, j) => (l, if j < k then some (count + j) else none))

/-- Destination words of a loaded element (R295): zero- or sign-extended to whole registers. -/
def loadWords (regs : Nat) (sx : Bool) (bs : List Byte) : List Word :=
  let n := leNat bs
  let v := if sx ∧ n.testBit (8 * bs.length - 1) then n + (2 ^ 64 - 2 ^ (8 * bs.length)) else n
  (List.range regs).map fun j => w32 (v / 2 ^ (32 * j))

namespace State

/-! ### Store-fault records (R350, R351) -/

/-- The record queue as it stands in the core-owned region (R350). -/
def syncSfq (s : State) (c : Nat) : State :=
  s.modCore c fun k =>
    let k' : Core := { k with store := Mem.clear k.store 0x5fd800 0x5fe400 }
    (k'.writeStore 0x5fd800 (k.sfq.flatMap SfRecord.bytes)).wake (Wait.watches 0x5fd800 0x5fe400)

def wordsOf (bs : List Byte) : List Word := (List.range (bs.length / 4)).map fun j => w32 (leNat ((bs.drop (4 * j)).take 4))

/-- A group of a core has not ended. -/
def runs (s : State) (c gid uid : Nat) : Bool := (s.group? c gid).any fun g => g.uid == uid && !g.ending

/-- A faulting piece of a store-buffer entry becomes a record, and its trap pends; the record of a group that has ended by EXIT goes
to the supervisor in place of the queue (R235, R351). -/
def enterRecord (s : State) (c key page : Nat) (e : SbEntry) (t : Trap) (r : List Byte) : State :=
  let s := s.modCore c fun k => { k with
    sfq := if s.runs c e.gid e.uid then k.sfq ++ [{ uid := e.uid, gid := e.gid, bytes := r }] else k.sfq
    sbuf := k.sbuf.upd key fun e => { e with
      faults := e.faults.filter fun f => f.1 ≠ page
      bytes := e.bytes.filter fun b => b.va / 4096 ≠ page / 4096 } }
  (s.syncSfq c).pendTrap c e.gid e.uid e.ctx t (wordsOf r)

/-- The record of a faulting piece of a store-buffer entry (R350); with 64 records in the queue the piece keeps its place in the buffer
(R296, R351). -/
def storeFault (s : State) (c key page : Nat) (cause cls sub code : Nat) : State :=
  match (s.core c).sbuf.look key with
  | none => s
  | some e =>
    let mine := e.bytes.filter fun b => b.va / 4096 = page / 4096
    if mine.isEmpty then s else
    let low := mine.foldl (fun a b => min a b.lane) 32
    let data := mine.filter fun b => b.lane = low
    let addr := data.foldl (fun a b => min a b.va) ((data.map (·.va)).headD 0)
    let info := cause * 2 ^ 24 + e.width * 2 ^ 21 + bit e.uniform * 2 ^ 20 + e.gid * 2 ^ 10 + cls * 2 ^ 8 + e.ctx
    let lanes := maskOf (mine.map (·.lane))
    let r := leBytes 4 e.pc.toNat ++ leBytes 4 lanes.toNat ++ leBytes 8 (addr % 2 ^ 57) ++ leBytes 4 info ++ leBytes 4 code
      ++ (List.range 16).map (fun i => ((data.find? fun b => b.va = addr + i).map (·.val)).getD 0) ++ leBytes 8 0
    let t := { mkTrap cause (if cause = 5 then sub else 0) addr with pc := e.pc, lanes := e.victims }
    if (s.core c).sfq.length < 64 ∨ ¬ s.runs c e.gid e.uid then s.enterRecord c key page e t r
    else s.modCore c fun k => { k with sbuf := k.sbuf.upd key fun e => { e with faults := e.faults ++ [(page, t, r)] } }

/-- A store-buffer entry with no byte left leaves; entries of the group behind it, and the waits for room and for drained
stores, go on (R296). -/
def retireEntry (s : State) (c key : Nat) : State :=
  match (s.core c).sbuf.look key with
  | none => s
  | some e =>
    if ¬ e.bytes.isEmpty then s
    else
      let s := s.modCore c fun k => { k with sbuf := k.sbuf.drop key }
      let s := ((s.modCore c fun k => k.wake fun (w : Wait) => w == .drain).wakeFences).ringReleases c
      let s := (s.core c).sbuf.foldl (fun s (j, x) =>
        if x.uid = e.uid ∧ x.ticket = none ∧ x.bytes.any (fun b => !b.sent) then s.postOnce (.storeBufferDrain c x.pipe j) else s) s
      if (s.group c e.gid).ending then s.postOnce (.groupEnd c e.gid) else s

/-- Bytes of a store have been accepted at their order point (R134, R138), given under their places there; a sector of memory
that holds no more of the entry's bytes is no longer on the way. -/
def acceptStore (s : State) (c key : Nat) (ap : Ap) (bs : List SByte) : State :=
  let vas := bs.map (·.org)
  let s := match bs with
    | [] => s
    | b :: _ => s.modCore c fun k => k.passFills ap b.va
  (s.modCore c fun k => { k with sbuf := k.sbuf.upd key fun e =>
    { e with
      bytes := e.bytes.filter fun b => ¬ (b.sent ∧ vas.contains b.va)
      sectors := e.sectors.filter fun p => ¬ (p.1 = ap ∧ bs.any fun b => sectorBase ap b.va = p.2) } }).retireEntry c key

/-- The store-buffer entry that a ticket append reserved for a lane is freed (R301). -/
def dropTicket (s : State) (c : Nat) (o : MemOp) (lane : Nat) : State :=
  match o.kind with
  | .qapp _ _ =>
    match (s.core c).sbuf.find? fun (_, e) => e.uid == o.uid && e.ticket == some (o.uid * 64 + lane) && e.pc == o.pc with
    | none => s
    | some (key, _) => s.retireEntry c key
  | _ => s

/-! ### Lanes of an instruction -/

/-- A lane has taken its value, or failed: stores of its group that stood behind it leave, and its reply follows (R136). -/
def laneTaken (s : State) (c op lane : Nat) : State :=
  match (s.core c).memops.look op with
  | none => s
  | some o =>
    let s := (s.core c).sbuf.foldl (fun s (j, x) =>
      if x.uid = o.uid ∧ op < x.opMark ∧ x.ticket = none ∧ x.bytes.any (fun b => !b.sent) then s.postOnce (.storeBufferDrain c x.pipe j)
      else s) s
    s.postOnce (.loadReply c op lane)

/-- A lane of an outstanding instruction fails: its trap becomes pending once for the instruction (R295), and the entry of
its ticket is freed (R301). -/
def failLane (s : State) (c op lane : Nat) (t : Trap) : State :=
  match (s.core c).memops.look op with
  | none => s
  | some o =>
    let s := s.modCore c fun k => k.modOp op fun o =>
      { o.modLane lane fun a => { a with trap := some t, data := [] } with trapped := true }
    let s := s.dropTicket c o lane
    let s := if o.trapped then s else s.pendTrap c o.gid o.uid o.ctx { t with pc := o.pc, lanes := o.victims, op := some op }
    s.laneTaken c op lane

/-- Data for a lane has arrived: poisoned data is cause 0x0b, else the bytes wait for LOAD_REPLY. -/
def giveLane (s : State) (c op lane : Nat) (data : List Byte) (bad : Bool) : State :=
  match ((s.core c).memops.look op).bind (·.lane? lane) with
  | none => s
  | some a =>
    if bad then s.failLane c op lane (mkTrap 0x0b 0 a.va)
    else (s.modCore c fun k => k.modOp op fun o => o.modLane lane fun a => { a with data := overlayBytes data a.fwd }).laneTaken
      c op lane

/-- The trap of a failed instruction is taken: its destination is free, though lanes of it be outstanding (R295). -/
def unlockOp (s : State) (c : Nat) (t : Trap) : State :=
  match t.op.bind fun op => ((s.core c).memops.look op).map fun o => (op, o) with
  | none => s
  | some (op, o) => (s.modGroup c o.gid o.unlock).modCore c fun k => k.modOp op fun o => { o with unlocked := true }

/-- Write the results of an instruction whose last lane has completed, free its destination (R295, R349). -/
def finishOp (s : State) (c op : Nat) : State :=
  let k := s.core c
  match k.memops.look op with
  | none => s
  | some o =>
    let s := s.modCore c fun k => { k with memops := k.memops.drop op }
    let s := match (s.group? c o.gid) with
      | none => s
      | some g =>
        if g.uid ≠ o.uid then s
        else
          let put := fun (k : Core) (a : LaneAcc) (ws : List Word) =>
            ws.zipIdx.foldl (fun (k : Core) (w, j) =>
              if o.uniform then k.setS o.gid (o.dst - 64 + j) w else k.setV g o.gid (o.dst + j) a.lane w) k
          let s := s.modCore c fun k => o.lanes.foldl (fun (k : Core) (a : LaneAcc) =>
            if a.trap.isSome then k
            else match o.kind with
              | .load _ sx => put k a (loadWords o.regs sx a.data)
              | .atom _ b _ _ => put k a (loadWords (b / 4) false a.data)
              | .qapp _ _ => put k a (loadWords 1 false a.data)
              | .pref _ => k) k
          if o.unlocked then s else s.modGroup c o.gid o.unlock
    -- an acquire takes effect when its value has been taken (R140, R46)
    let s := s.modCore c fun k => match o.kind with
      | .atom _ _ sc .acq | .atom _ _ sc .ar | .qapp sc .acq | .qapp sc .ar => k.l1Acquire sc
      | _ => k
    let s := (s.modCore c fun k => k.wake fun (w : Wait) => w == .drain || w == .order op).ringReleases c
    if (s.group c o.gid).ending then s.postOnce (.groupEnd c o.gid) else s

/-! ### Requests -/

/-- Requests for a home slice queue there in order of arrival (R57); requests through the core-store aperture queue at the
target's memory port (R13). -/
def request (s : State) (r : Req) : State :=
  match r.ap with
  | .store =>
    match s.storeTarget r.off with
    | some (c, _) => (s.modCore c fun k => { k with portQ := k.portQ ++ [r] }).post (.coreStoreApertureAccess c)
    | none => s
  | _ =>
    let h := s.homeOf r.ap r.off
    let x := s.slice h.die h.slice
    (s.setSlice h.die h.slice { x with queue := x.queue ++ [r] }).post (.sliceRequest h.die h.slice)

/-- The read-modify-write of a client on the bytes of its location: what it leaves, or none when it changes nothing. The
lanes receive their values. -/
def rmwAt (s : State) (cl : Client) (old : List Byte) (bad : Bool) : State × Option (List Byte) :=
  match cl with
  | .atom c op lane =>
    match (s.core c).memops.look op with
    | none => (s, none)
    | some o =>
      match o.lane? lane with
      | none => (s, none)
      | some a =>
        let ls := o.lanes.filter fun b => b.va = a.va ∧ b.trap.isNone
        if bad then (ls.foldl (fun s b => s.failLane c op b.lane (mkTrap 0x0b 0 a.va)) s, none)
        else
          match o.kind with
          | .atom r n _ _ =>
            let (v, got) := rmwLanes r n ls (leNat old)
            (got.foldl (fun s (l, x) => s.giveLane c op l (leBytes n x) false) s,
              if rmwMakes r n ls got then some (leBytes n v) else none)
          | .qapp _ _ =>
            match qappHeader old (ls.map (·.lane)) with
            | none => (ls.foldl (fun s b => s.failLane c op b.lane (mkTrap 5 3 a.va)) s, none)
            | some (h, base, got) =>
              let s := got.foldl (fun s (l, t) => s.giveLane c op l (leBytes 4 (t.getD 0xffffffff)) false) s
              -- entry stores of lanes with a ticket; the entries of the others are freed (R301)
              let s := got.foldl (fun s (l, t) =>
                match (s.core c).sbuf.find? fun (_, e) => e.uid == o.uid && e.ticket == some (o.uid * 64 + l) && e.pc == o.pc with
                | none => s
                | some (key, e) =>
                  match t with
                  | some t =>
                    let x := (o.lane? l).map (·.x) |>.getD []
                    let bs := (x.take 4).zipIdx.map fun (b, i) => ({ va := base + 4 * t + i, val := b, lane := l } : SByte)
                    (s.modCore c fun k => { k with sbuf := k.sbuf.put key { e with bytes := bs, ticket := none, opMark := op } }).post
                      (.storeBufferDrain c e.pipe key)
                  | none => s.dropTicket c o l) s
              (s, some h)
          | _ => (s, none)
  | _ => (s, none)

/-- The atomic unit lets go of the location of an atomic (R141). -/
def dropAtom (s : State) (c op lane : Nat) : State :=
  s.modCore c fun k => { k with atoms := k.atoms.filter fun h => ¬ (h.op = op ∧ h.lane = lane) }

/-- The atomic unit has read the sector of a location that it holds: it computes, and writes the result through, updating a
present first-level line (R44, R141). -/
def unitRead (s : State) (c op lane : Nat) (old : List Byte) (bad : Bool) : State :=
  match ((s.core c).memops.look op).bind fun o => (o.lane? lane).map fun a => (o, a) with
  | none => s.dropAtom c op lane
  | some (o, a) =>
    match s.rmwAt (.atom c op lane) old bad with
    | (s', none) => s'.dropAtom c op lane
    | (_, some bs) =>
      let s := s.modCore c fun k => (k.l1Store s o.ctx a.link a.ap (bs.zipIdx.map fun (b, j) => (a.off + j, b)))
      let s := s.modCore c fun k => { k with atoms := k.atoms.map fun h => if h.op = op ∧ h.lane = lane then { h with old := some old } else h }
      s.request { ap := a.ap, off := a.off, client := .unit c op lane,
                  kind := .write (bs.zipIdx.map fun (b, j) => { va := a.off + j, val := b, lane, org := a.va + j }) }

/-- The write of the atomic unit has been accepted at the home: the lanes take their values, and the location is free; a buffer
that has gone offline meanwhile gives poison (R112, R141). -/
def unitWritten (s : State) (c op lane : Nat) (lost : Bool := false) : State :=
  match (s.core c).atoms.find? fun h => h.op == op && h.lane == lane with
  | none => s
  | some h =>
    let s := s.modCore c fun k => if lost then k else k.passFills h.ap h.off
    (s.rmwAt (.atom c op lane) (h.old.getD []) lost).1.dropAtom c op lane

/-- Answer a read: a fill of the first-level cache, or data for one lane. -/
def answer (s : State) (r : Req) (data : List Byte) (bad : List Bool) : State :=
  match r.client with
  | .load c f =>
    (s.modCore c fun k => { k with l1fills := k.l1fills.upd f fun x => { x with data, poison := bad } }).post (.l1Fill c f)
  | .direct c op lane => s.giveLane c op lane data (bad.any id)
  | .unit c op lane => s.unitRead c op lane data (bad.any id)
  | .atom _ _ _ | .store _ _ _ | .cmd _ _ | .none => s

/-- A location that a thread waits on by BARW has been written: its home slice notifies the waiting cores (R176). -/
def notifyBlock (s : State) (ap : Ap) (off len : Nat) : State :=
  s.blockWaits.foldl (fun s (a, o, c, ctx, va) =>
    if a = ap ∧ off < o + 8 ∧ o < off + len then s.postOnce (.barrierNotify c ctx va) else s) s

/-- A write of a core to a byte stands at the byte's slice, not accepted yet: the first-level cache holds its value already (R44). -/
def writeComing (s : State) (h : Home) (c : Nat) (ap : Ap) (off : Nat) : Bool :=
  let x := s.slice h.die h.slice
  (x.queue ++ x.misses.flatMap (·.2) ++ x.capWait.toList).any fun q => q.ap == ap && (match q.kind, q.client with
    | .write bs, .store k _ _ | .write bs, .unit k _ _ => k == c && bs.any fun b => b.va == off
    | _, _ => false)

/-- Serve one request at its home slice, its sector filled where it reads (R56 to R58). An atomic there updates a present line of its
core with what it leaves, but for bytes over which a later store of the core stands (R44, R135). -/
def serve (s : State) (r : Req) : State :=
  let h := s.homeOf r.ap r.off
  let inSec := fun (off : Nat) => off - sectorBase r.ap off
  match r.kind with
  | .read n =>
    let q := (s.slice h.die h.slice).sectorAt h
    let i := inSec r.off
    if q.full then (s.touchLine h).answer r ((q.data.drop i).take n) ((q.poison.drop i).take n)
    else s.answer r (List.replicate n 0) (List.replicate n true)
  | .write bs =>
    let s := s.mergeSector h (bs.map fun b => (inSec b.va, b.val))
    let s := s.notifyBlock r.ap r.off ((bs.map fun b => b.va + 1 - r.off).foldl max 1)
    match r.client with
    | .store c key _ => s.acceptStore c key r.ap bs
    | .unit c op lane => s.unitWritten c op lane
    | _ => s
  | .rmw =>
    let q := (s.slice h.die h.slice).sectorAt h
    let i := inSec r.off
    let n := match r.client with
      | .atom c op _ => match ((s.core c).memops.look op).map (·.kind) with
        | some (MemKind.atom _ b _ _) => b
        | _ => 16
      | _ => 16
    -- the result of an atomic must reach an offline buffer too, so its reply carries poison (R109, R112)
    let bad := ((q.poison.drop i).take n).any id || !q.full || (h.cap && s.offline h.buf)
    let (s, new) := s.rmwAt r.client ((q.data.drop i).take n) bad
    match new, r.client with
    | some bs, .atom c op lane =>
      let s := s.mergeSector h (bs.zipIdx.map fun (b, j) => (i + j, b))
      let ctx := (((s.core c).memops.look op).map (·.ctx)).getD 0
      let link := ((((s.core c).memops.look op).bind (·.lane? lane)).map (·.link)).getD 0
      let left := (bs.zipIdx.map fun (b, j) => (r.off + j, b)).filter fun p => !s.writeComing h c r.ap p.1
      let s := s.modCore c fun k => (k.l1Store s ctx link r.ap left).passFills r.ap r.off
      s.notifyBlock r.ap r.off n
    | _, _ => s

/-- Where the caches of a core translate an address to, when one of them holds its page (R16). -/
def peek (s : State) (c gid ctx va : Nat) : Option (Ap × Nat) :=
  let own := ((s.core c).tcache.look (if 512 ≤ gid then 1 else 0)).getD []
  ((own.find? fun e => e.covers ctx va).or (((s.die (s.dieOf c)).dcache.find? fun (_, _, e) => e.covers ctx va).map fun (_, _, e) => e)).map
    fun e => (e.ap, e.off + (va - e.page))

/-- A place in the core-store aperture lies in a range of a core's own store (R13). -/
def namesOwn (s : State) (c a n len : Nat) : Option (Ap × Nat) → Bool
  | some (.store, off) => match s.storeTarget off with
    | some (cc, b) => cc == c && decide (b < a + n ∧ a < b + len)
    | none => false
  | _ => false

/-- An earlier global access of a group through the core-store aperture, to a byte of a range of its own core's store, is not
performed: an access of the range waits for it (R135, R136). -/
def ownPending (s : State) (c uid a n : Nat) : Bool :=
  let k := s.core c
  (k.sbuf.any fun (_, e) => e.uid == uid && e.bytes.any fun b => s.namesOwn c a n 1 (s.peek c e.gid e.ctx b.va)) ||
  k.memops.any fun (_, o) => o.uid == uid && !o.kind.hint && o.lanes.any fun l => !l.taken &&
    s.namesOwn c a n o.kind.bytes (if l.translated then some (l.ap, l.off) else s.peek c o.gid o.ctx l.va)

/-- Whether a request needs its sector filled first (R56, R58). -/
def needsFill (s : State) (r : Req) : Bool :=
  let h := s.homeOf r.ap r.off
  match r.kind with
  | .write _ => false
  | .read _ | .rmw => !((s.slice h.die h.slice).sectorAt h).full

/-- The word of a byte of a buffer is uncorrectable (R112). -/
def wordBad (s : State) (h : Home) : Bool :=
  h.cap && (List.range 8).any fun i => s.capPoison.contains (h.buf * 2 ^ 39 + h.addr / 8 * 8 + i)

/-- A write meets its buffer: it is accepted, or the buffer is offline or a word uncorrectable, and a store becomes a record (R109,
R112). -/
def meetBuffer (s : State) (r : Req) : State :=
  let lost := match r.kind with
    | .write bs => bs.any fun b => s.wordBad (s.homeOf .cap b.va)
    | .read _ | .rmw => false
  if s.offline (r.off / 2 ^ 39) || lost then
    match r.client with
    | .store c key page => (s.storeFault c key page 4 3 0 0).retireEntry c key
    | .unit c op lane => s.unitWritten c op lane true
    | _ => s
  else s.serve r

/-- The requests for a line that have arrived at its slice and wait there, for memory or for a buffer, are served: an access that
a unit makes without waiting goes behind them (R57). A unit looks whether the buffer's link is down before it comes here. -/
def settleLine (s : State) (h : Home) : State :=
  let x := s.slice h.die h.slice
  let mine := fun (q : Req) => let g := s.homeOf q.ap q.off; g.cap == h.cap && g.buf == h.buf && g.line == h.line
  let late := x.capWait.filter mine
  let all := x.misses.flatMap fun (_, l) => l.filter mine
  let s := s.setSlice h.die h.slice { x with
    misses := x.misses.map fun (i, l) => (i, l.filter fun q => !mine q)
    capWait := if late.isSome then none else x.capWait }
  let s := match late with
    | some r => s.meetBuffer r
    | none => s
  all.foldl (fun s r => if r.toBuffer then s.meetBuffer r else (if s.needsFill r then s.fillSector (s.homeOf r.ap r.off) else s).serve r) s

/-- Bytes of memory as their home slice gives them, and whether one is poisoned: the access of a unit that is served at
once. -/
def homeRead (s : State) (ap : Ap) (off n : Nat) : State × List Byte × Bool :=
  (List.range n).foldl (fun (s, bs, bad) i =>
    let h := s.homeOf ap (off + i)
    let s := if i = 0 ∨ (off + i) = sectorBase ap (off + i) then ((s.settleLine h).fillSector h).touchLine h else s
    let q := (s.slice h.die h.slice).sectorAt h
    let j := off + i - sectorBase ap (off + i)
    (s, bs ++ [q.data.getD j 0], bad || !q.full || q.poison.getD j false)) (s, [], false)

/-- Write bytes of memory through their home slices at once. -/
def homeWrite (s : State) (ap : Ap) (off : Nat) (bs : List Byte) (bad : Bool := false) : State :=
  let s := bs.zipIdx.foldl (fun s (b, i) =>
    let h := s.homeOf ap (off + i)
    let s := if i = 0 ∨ (off + i) = sectorBase ap (off + i) then s.settleLine h else s
    s.mergeSector h [(off + i - sectorBase ap (off + i), b)] bad) s
  s.notifyBlock ap off bs.length

/-- Bytes at a target that R14 permits, for a unit that is served at once, and whether one is poisoned: through a core's memory port
or a home slice (R13). -/
def targetRead (s : State) (ap : Ap) (off n : Nat) : State × List Byte × Bool :=
  match ap with
  | .store =>
    match s.storeTarget off with
    | some (c, a) => (s, (s.core c).readStore a n, (s.core c).storeBad a n)
    | none => (s, [], true)
  | _ => s.homeRead ap off n

/-- Write bytes at a target that R14 permits, for a unit that is served at once (R13). -/
def targetWrite (s : State) (ap : Ap) (off : Nat) (bs : List Byte) : State :=
  match ap with
  | .store =>
    match s.storeTarget off with
    | some (c, a) => s.modCore c fun k => k.writeForeign a bs
    | none => s
  | _ => s.homeWrite ap off bs

/-- A request for the target waits: its buffer retrains (R110), or its slice has every miss entry in use and accepts none (R57). -/
def targetWaits (s : State) (ap : Ap) (off : Nat) : Bool :=
  (ap == .cap && s.capDown (off / 2 ^ 39)) || (ap.cached && (let h := s.homeOf ap off; decide (128 ≤ (s.slice h.die h.slice).missUse)))

end State

/-! ### Events of the slices -/

/-- The core that sent a request; units other than cores count as one. -/
def Client.sender : Client → Nat
  | .load c _ | .direct c _ _ | .atom c _ _ | .unit c _ _ | .store c _ _ | .cmd c _ => c + 1
  | .none => 0

/-- The requests on their way to a slice of which each may be the next to arrive: the first of each sender. The lattice keeps the
order of one core's requests, and the rules give none between cores. -/
def Slice.arriving (x : Slice) : List Nat :=
  (x.queue.zipIdx.filter fun (r, i) => !(x.queue.take i).any fun q => q.client.sender == r.client.sender).map (·.2)

/-- A request arrives at its home slice (R56, R57, R109): which of those on their way is free. It waits behind an outstanding
miss of its line, or opens one, in one of 128 entries; with all in use the slice accepts nothing. A capacity write waits for its
buffer, and later requests for its line behind it. -/
def execSliceRequest (d sl : Nat) (s : State) : Host.Outcome State Fault Refusal :=
  let (s, i) := s.oneOf (s.slice d sl).arriving
  let x := s.slice d sl
  match x.queue[i]? with
  | none => .next s
  | some r =>
    let h := s.homeOf r.ap r.off
    let same := fun (q : Req) => let g := s.homeOf q.ap q.off; g.cap == h.cap && g.buf == h.buf && g.line == h.line
    let rest := x.queue.eraseIdx i
    if 128 ≤ x.missUse ∨ x.capWait.any same then .next (s.post (.sliceRequest d sl))
    else
      match x.misses.find? fun (_, l) => l.any same with
      | some (j, l) => .next (s.setSlice d sl { x with queue := rest, misses := x.misses.put j (l ++ [r]) })
      | none =>
        if s.needsFill r then
          .next ((s.setSlice d sl { x with queue := rest, misses := x.misses.put x.nextMiss [r], nextMiss := x.nextMiss + 1 }).post
            (.sliceFill d sl x.nextMiss))
        else
          match r.ap, r.kind, x.capWait with
          | .cap, .write _, none =>
            .next ((s.setSlice d sl { x with queue := rest, capWait := some r }).post (.capacityWriteAccept d sl))
          | .cap, .write _, some _ => .next (s.post (.sliceRequest d sl))
          | .cap, .rmw, _ =>
            if s.capDown (r.off / 2 ^ 39) then .next (s.post (.sliceRequest d sl))
            else .next ((s.setSlice d sl { x with queue := rest }).serve r)
          | _, _, _ => .next ((s.setSlice d sl { x with queue := rest }).serve r)

/-- The requests of a miss entry are served in their order, each when it can be: one that reads takes its sector from memory, and a
capacity write goes to its buffer, with later requests for its line behind it (R56, R57, R109). -/
def execSliceFill (d sl i : Nat) (s : State) : Host.Outcome State Fault Refusal :=
  let x := s.slice d sl
  match x.misses.look i with
  | none => .next s
  | some [] => .next (s.setSlice d sl { x with misses := x.misses.drop i })
  | some (r :: rest) =>
    let h := s.homeOf r.ap r.off
    let same := fun (q : Req) => let g := s.homeOf q.ap q.off; g.cap == h.cap && g.buf == h.buf && g.line == h.line
    if x.capWait.any same || (if r.toBuffer then x.capWait.isSome else r.ap == .cap && s.capDown (r.off / 2 ^ 39)) then
      .next (s.post (.sliceFill d sl i))
    else
      let s := s.setSlice d sl { x with
        misses := if rest.isEmpty then x.misses.drop i else x.misses.put i rest
        capWait := if r.toBuffer then some r else x.capWait }
      let s := if r.toBuffer then s.post (.capacityWriteAccept d sl)
        else (if s.needsFill r then s.fillSector h else s).serve r
      .next (if rest.isEmpty then s else s.post (.sliceFill d sl i))

/-- The buffer accepts a capacity write, or is offline and the store faults (R109, R112). -/
def execCapacityWriteAccept (d sl : Nat) (s : State) : Host.Outcome State Fault Refusal :=
  let x := s.slice d sl
  match x.capWait with
  | none => .next s
  | some r =>
    if s.capDown (r.off / 2 ^ 39) then .next (s.post (.capacityWriteAccept d sl))
    else .next ((s.setSlice d sl { x with capWait := none }).meetBuffer r)

namespace State

/-- One lane's hint is done; the last frees its operation (R302). -/
def finishHint (s : State) (c op lane : Nat) : State :=
  match (s.core c).memops.look op with
  | none => s
  | some o =>
    let rest := o.lanes.filter fun a => a.lane ≠ lane
    s.modCore c fun k => { k with memops := if rest.isEmpty then k.memops.drop op else k.memops.put op { o with lanes := rest } }

/-- A read of one sector for the first-level cache (R43): the line is allocated, and the fill serves its waiters. -/
def missLine (s : State) (c ctx link : Nat) (ap : Ap) (off : Nat) (waiters : List (Nat × Nat)) : Option State :=
  let k := s.core c
  let (line, set) := s.l1Place link ap off
  let base := sectorBase ap off
  let (way, k) := match k.l1Find ctx line with
    | some l => (some l.way, k)
    | none => k.l1Victim set
  way.map fun way =>
    let k := if (k.l1Find ctx line).isSome then k
      else { k with l1 := { way, set, ctx, line, valid := [false, false, false, false] } ::
               k.l1.filter fun l => ¬ (l.way = way ∧ l.set = set) }
    let f := k.nextFill
    let k := { k with
      nextFill := f + 1
      l1fills := k.l1fills.put f { ctx, ap, off := base, line, sector := lineSector ap off, way, install := true, waiters } }
    (s.setCore c k).request { ap, off := base, kind := .read 48, client := .load c f }

/-- The bytes that the first-level cache holds for a load, when its sector is valid (R42, R43). -/
def l1Hit (s : State) (c ctx link : Nat) (ap : Ap) (off n : Nat) : Option (List Byte) :=
  let k := s.core c
  let (line, set) := s.l1Place link ap off
  ((k.l1Find ctx line).filter fun l => l.valid.getD (lineSector ap off) false).map fun l =>
    k.readStore (lineBase l.way set + 48 * lineSector ap off + (off - sectorBase ap off)) n

/-- A global load of a cacheable target (R43, R135): a hit, a fill already under way, or a miss. -/
def loadLine (s : State) (c op lane ctx link : Nat) (ap : Ap) (off n : Nat) : State :=
  match s.l1Hit c ctx link ap off n with
  | some bs => s.giveLane c op lane bs false
  | none =>
    let k := s.core c
    let base := sectorBase ap off
    match k.l1fills.find? fun (_, f) => f.install && f.ctx == ctx && f.ap == ap && f.off == base with
    | some (i, f) => s.setCore c { k with l1fills := k.l1fills.put i { f with waiters := f.waiters ++ [(op, lane)] } }
    | none => (s.missLine c ctx link ap off [(op, lane)]).getD (s.request { ap, off, kind := .read n, client := .direct c op lane })

/-- Make a line the pseudo-LRU victim of its set: every node on its path points at it (R302). -/
def plruExpose (t : BitVec 15) (way : Nat) : BitVec 15 := ~~~(plruTouch (~~~t) way)

/-- A hint meets an offline buffer or an uncorrectable word, and is dropped (R112). -/
def hintBad (s : State) (ap : Ap) (off : Nat) (line : Bool) : Bool :=
  let h := s.homeOf ap off
  let a := h.buf * 2 ^ 39 + (if line then h.line * 192 else h.addr / 48 * 48)
  ap == .cap && (s.offline h.buf || s.capPoison.any fun p => decide (a ≤ p ∧ p < a + (if line then 192 else 48)))

/-- The effect of a hint on a translated address (R302). -/
def takeHint (s : State) (c : Nat) (o : MemOp) (link : Nat) (ap : Ap) (off : Nat) : State :=
  let h := s.homeOf ap off
  let fill := fun (s : State) (h : Home) => (s.settleLine h).fillSector h
  match o.kind with
  | .pref .l1 => if (s.l1Hit c o.ctx link ap off 1).isSome then s else (s.missLine c o.ctx link ap off []).getD s
  | .pref .l2 => fill s h
  | .pref .line => (List.range 4).foldl (fun s j => fill s { h with addr := h.line * 192 + 48 * j }) s
  | .pref .evict =>
    let x := s.slice h.die h.slice
    match x.find h with
    | some l => s.setSlice h.die h.slice { x with plru := x.plru.put h.set (plruExpose ((x.plru.look h.set).getD 0) l.way) }
    | none => s
  | _ => s

end State

/-! ### Events of a core -/

/-- The core's atomic unit performs the operation on global memory (R141). -/
def MemKind.atUnit : MemKind → Bool
  | .atom _ _ .grp _ | .atom _ _ .core _ | .qapp .grp _ | .qapp .core _ => true
  | _ => false

namespace State

/-- A dropped hint is counted (R28). -/
def dropHints (s : State) (ctx n : Nat) : State :=
  let v := ((s.hintDrops.look ctx).getD 0).toNat + n
  if n = 0 then s else { s with hintDrops := s.hintDrops.put ctx (w32 (min v 0xffffffff)) }

/-- A hint whose address has been translated (R28, R112, R302). -/
def hintAt (s : State) (c op lane : Nat) (o : MemOp) (link : Nat) (ap : Ap) (off : Nat) : State :=
  let line := match o.kind with
    | .pref .line => true
    | _ => false
  if ap = .cap ∧ s.capDown (off / 2 ^ 39) then s.post (.translationRequest c op lane)
  else if s.hintable ap off ∧ ¬ s.hintBad ap off line then (s.takeHint c o link ap off).finishHint c op lane
  else (s.dropHints o.ctx 1).finishHint c op lane

/-- A translated and permitted access of a lane goes to the atomic unit, its home slice, a memory port or the first-level cache;
the unit takes a location that it holds only when the earlier atomic has been accepted (R13, R43, R141). -/
def accessAt (s : State) (c op lane : Nat) (o : MemOp) (a : LaneAcc) (link : Nat) (ap : Ap) (off : Nat) : State :=
  let n := o.kind.bytes
  let unit := decide (ap ≠ .store) && o.kind.atUnit
  if unit && (s.core c).atoms.any fun h => h.ap == ap && h.off / 16 == off / 16 then s.post (.translationRequest c op lane)
  else
    let fwd := if o.kind.writes then [] else (s.core c).forward o a.va n
    let who := if o.uniform then o.victims else maskOf [lane]
    let s := s.modCore c fun k => (k.modOp op fun o => o.modLane lane fun a => { a with ap, off, fwd, link, translated := true }).observe
      o a.va fwd who
    if unit then
      (s.modCore c fun k => { k with atoms := k.atoms ++ [{ ap, off, op, lane }] }).request
        { ap, off, kind := .read n, client := .unit c op lane }
    else if o.kind.writes then s.request { ap, off, kind := .rmw, client := .atom c op lane }
    else if ap = .store then s.request { ap, off, kind := .read n, client := .direct c op lane }
    else s.loadLine c op lane o.ctx link ap off n

end State

/-- TRANSLATION_REQUEST: one lane's access, when nothing holds it back, is translated and classified, then goes to its order point
(R14, R17, R295, R299, R302). -/
def execTranslationRequest (c op lane : Nat) (s : State) : Host.Outcome State Fault Refusal :=
  match (s.core c).memops.look op with
  | none => .next s
  | some o =>
    match o.lane? lane with
    | none => .next s
    | some a =>
      let eng := if 512 ≤ o.gid then 1 else 0
      let fail := fun (s : State) (t : Trap) => (o.together lane).foldl (fun (s : State) l => s.failLane c op l t) s
      if (s.core c).heldBack op o a then .next (s.post (.translationRequest c op lane))
      else
        match (if o.ctx = 255 then Xl.ok .hbm a.va s
            else s.xlate c eng o.ctx a.va o.kind.writes o.kind.hint (.ev (.translationRequest c op lane))) with
        | .wait s => .next s
        | .fail code s =>
          let s := s.logDone c op lane
          .next (if o.kind.hint then (s.dropHints o.ctx 1).finishHint c op lane else fail s (mkTrap 3 code a.va))
        | .ok ap off s =>
          let s := s.logDone c op lane
          let link := s.usedLink c eng o.ctx a.va
          .next (if o.kind.hint then s.hintAt c op lane o link ap off
            else if ¬ (o.ctx = 255 ∨ s.readable ap off) then fail s (mkTrap 5 2 a.va)
            else s.accessAt c op lane o a link ap off)

/-- A fill arrives (R43, R45, R46, R135): it installs unless it may only deliver, its waiters take their bytes, and with the
last fill to a granule being reclaimed the placement or pool write that waits goes on. -/
def execL1Fill (c i : Nat) (s : State) : Host.Outcome State Fault Refusal :=
  let k := s.core c
  match k.l1fills.look i with
  | none => .next s
  | some f =>
    let ok := f.install && !f.poison.any id && (!k.sbuf.any fun (_, e) => e.sectors.contains (f.ap, f.off)) &&
      !k.atoms.any fun h => h.ap == f.ap && sectorBase h.ap h.off == f.off
    let busy := k.reclaimWaits
    let mine := fun (l : L1Line) => l.way == f.way && l.ctx == f.ctx && l.line == f.line
    let k := { k with l1fills := k.l1fills.drop i }
    let k := match (k.l1.find? mine).filter fun _ => ok with
      | none => k
      | some l =>
        let k := k.writeForeign (lineBase l.way l.set + 48 * f.sector) f.data
        { k with l1 := k.l1.map fun l => if mine l then { l with valid := l.valid.set f.sector true } else l }
    let s := if busy ∧ ¬ k.reclaimWaits then
        let s := (s.setCore c k.reclaimed).postOnce (.placementOpportunity (s.dieOf c))
        if k.nextStage.isSome then s.postOnce (.clickerTake c) else s
      else s.setCore c k
    .next (f.waiters.foldl (fun s (op, lane) =>
      match ((s.core c).memops.look op) with
      | none => s
      | some o =>
        match o.lane? lane, o.kind with
        | some a, .load n _ =>
          s.giveLane c op lane ((f.data.drop (a.off - f.off)).take n) (((f.poison.drop (a.off - f.off)).take n).any id)
        | _, _ => s) s)

/-- A lane's access is complete; the last writes the destination (R295). -/
def execLoadReply (c op lane : Nat) (s : State) : Host.Outcome State Fault Refusal :=
  let s := s.modCore c fun k => k.modOp op fun o => o.modLane lane fun a => { a with done := true }
  match (s.core c).memops.look op with
  | none => .next s
  | some o => .next (if o.lanes.all (·.done) then s.finishOp c op else s)

/-- A memory port serves the oldest request through the core-store aperture, at the bank (R13, R37, R134). -/
def execCoreStoreApertureAccess (c : Nat) (s : State) : Host.Outcome State Fault Refusal :=
  let k := s.core c
  match k.portQ with
  | [] => .next s
  | r :: rest =>
    let s := s.setCore c { k with portQ := rest }
    let a := r.off % 0x800000
    match r.kind with
    | .read n => .next (s.answer r (k.readStore a n) ((List.range n).map fun i => k.storeBad (a + i) 1))
    | .write bs =>
      let s := s.modCore c fun k => bs.foldl (fun k b => k.writeForeign (b.va % 0x800000) [b.val]) k
      .next (match r.client with
        | .store cc key _ => s.acceptStore cc key .store bs
        | _ => s)
    | .rmw =>
      let n := match r.client with
        | .atom cc op _ => match ((s.core cc).memops.look op).map (·.kind) with
          | some (MemKind.atom _ b _ _) => b
          | _ => 16
        | _ => 16
      let (s, new) := s.rmwAt r.client (k.readStore a n) (k.storeBad a n)
      .next (match new with
        | some bs => s.modCore c fun k => k.writeForeign a bs
        | none => s)

namespace State

/-- The bytes of a store instruction on one page that have not left the store buffer, from all its entries. -/
def instrBytes (s : State) (c uid instr page : Nat) : List SByte :=
  (s.core c).sbuf.flatMap fun (_, e) =>
    if e.uid = uid ∧ e.instr = instr then e.bytes.filter fun b => !b.sent && b.va / 4096 == page / 4096 else []

/-- A page of a store instruction that no transmit window of the context takes becomes records (R120). -/
def windowFault (s : State) (c uid instr page : Nat) : State :=
  (s.core c).sbuf.foldl (fun s (key, e) =>
    if e.uid = uid ∧ e.instr = instr ∧ ¬ (e.faults.any fun f => f.1 = page) then (s.storeFault c key page 0x10 1 0 0).retireEntry c key else s) s

/-- The reflected stores of an instruction leave, one for each sector of window offsets that it touches, in ascending order (R122):
each travels on VN4 to the window unit in the entry's home die (R121). `pages` holds the virtual page, the entry and the window
offset of each page that lies in a transmit window. -/
def sendWindow (s : State) (c : Nat) (e : SbEntry) (pages : List (Nat × Nat × Nat)) : State :=
  let all := pages.flatMap fun (page, w, off) => (s.instrBytes c e.uid e.instr page).map fun b =>
    (w, page, ({ b with va := off + (b.va - page), org := b.va } : SByte))
  let secs := sortBy (fun (a b : Nat × Nat) => decide (a.1 < b.1 ∨ (a.1 = b.1 ∧ a.2 < b.2)))
    (all.map fun (w, _, b) => (w, b.va / 48)).dedup
  let s := s.modCore c fun k => { k with sbuf := k.sbuf.map fun (j, x) =>
    (j, if x.uid = e.uid ∧ x.instr = e.instr then
        { x with bytes := x.bytes.map fun b => if pages.any fun p => p.1 / 4096 == b.va / 4096 then { b with sent := true } else b }
      else x) }
  (secs.foldl (fun (s : State) (w, sec) =>
    let here := all.filter fun (w', _, b) => w' == w && b.va / 48 == sec
    let r : RStore := { entry := w, core := c, uid := e.uid, ctx := e.ctx, off := sec * 48, id := s.nextRstore,
                        bytes := here.map fun (_, _, b) => b, vas := here.map fun (_, _, b) => b.org, lanes := e.victims,
                        client := .store c e.instr ((here.head?.map fun (_, p, _) => p).getD 0) }
    ({ s with rstores := s.rstores ++ [r], nextRstore := s.nextRstore + 1 } : State).send c (s.agentCore (w % s.product.dies)) 4 2
      (.reflectedStoreSequence (partNo 256 w r.id)) true) s).wakeFences

/-- The transmit window of a context that holds a page: its entry, and the window offset of the page. -/
def windowOf (s : State) (ctx off : Nat) : Option (Nat × Nat) :=
  match s.windowAt off with
  | some w => if qf (s.ctlQ (winOff w 1)) 63 56 = ctx then some (w, off - qf (s.ctlQ (winOff w 0)) 27 0 * 4096) else none
  | none => none

/-- The pages of an instruction whose bytes have not left, translated for a window store: none while one of them waits. -/
def windowPages (s : State) (c : Nat) (e : SbEntry) (who : Waiter) : State × Option (List (Nat × Nat)) :=
  let pages := sortBy (fun a b => decide (a < b)) (((s.core c).sbuf.flatMap fun (_, x) =>
    if x.uid = e.uid ∧ x.instr = e.instr then (x.bytes.filter fun b => !b.sent).map fun b => b.va / 4096 * 4096 else []).dedup)
  pages.foldl (fun (s, l) page =>
    match s.xlate c (if 512 ≤ e.gid then 1 else 0) e.ctx page true false who with
    | .wait s => (s, none)
    | .fail _ s => (s, l)
    | .ok ap off s => (s, if ap = .window then l.map (· ++ [(page, off)]) else l)) (s, some [])

/-- One page's piece of a store-buffer entry is sent to its order point, or becomes a record (R296, R120); bytes for a window leave
by `sendWindow`. -/
def sendPiece (s : State) (c key page : Nat) (ap : Ap) (off : Nat) : State :=
  match (s.core c).sbuf.look key with
  | none => s
  | some e =>
    let mine := e.bytes.filter fun b => b.va / 4096 = page / 4096
    let low := mine.foldl (fun a b => min a b.va) ((mine.headD { va := 0, val := 0, lane := 0 }).va)
    let at_ := fun (va : Nat) => off + (va - page)
    let mark := fun (s : State) (secs : List (Ap × Nat)) => s.modCore c fun k => { k with sbuf := k.sbuf.upd key fun e =>
      { e with bytes := e.bytes.map (fun b => if b.va / 4096 = page / 4096 then { b with sent := true } else b),
               sectors := e.sectors ++ secs } }
    let moved := fun (bs : List SByte) => bs.map fun (b : SByte) => { b with va := at_ b.va, org := b.va }
    let link := s.usedLink c (if 512 ≤ e.gid then 1 else 0) e.ctx page
    match ap with
    | .window => s
    | .hbm | .cap | .store =>
      if ap = .cap ∧ s.offline (at_ low / 2 ^ 39) then (s.storeFault c key page 4 3 0 0).retireEntry c key
      else if e.ctx = 255 ∨ s.readable ap (at_ low) then
        let groups := if ap = .store then [0] else (mine.map fun b => sectorBase ap (at_ b.va)).dedup
        let s := mark s (if ap = .store then [] else groups.map fun g => (ap, g))
        let s := s.modCore c fun k => k.l1Store s e.ctx link ap (mine.map fun b => (at_ b.va, b.val))
        groups.foldl (fun s g =>
          let bs := moved (mine.filter fun b => ap = .store ∨ sectorBase ap (at_ b.va) = g)
          let first := bs.foldl (fun a b => min a b.va) ((bs.headD { va := 0, val := 0, lane := 0 }).va)
          s.request { ap, off := first, kind := .write bs, client := .store c key page }) s
      else (s.storeFault c key page 5 1 2 0).retireEntry c key
    | .control | .outside => (s.storeFault c key page 5 1 2 0).retireEntry c key

end State

/-- STORE_BUFFER_DRAIN (R296): the entry leaves behind earlier entries, loads and atomics of its group for the same bytes (R135,
R136); each of its
pages is translated, and each piece goes on, waits for PRI, or becomes a record. -/
def execStoreBufferDrain (c pipe i : Nat) (s : State) : Host.Outcome State Fault Refusal :=
  match (s.core c).sbuf.look i with
  | none => .next s
  | some e =>
    if e.ticket.isSome ∨ (s.core c).behindTicket e.uid i e.victims ∨ (s.core c).sbuf.any (fun (j, x) =>
        decide (j < i) && x.uid == e.uid && x.bytes.any fun b => e.bytes.any fun y => y.va == b.va)
        ∨ e.bytes.any (fun b => (s.core c).behindOps e.uid e.opMark b.va 1) then .next s
    else
      let pages := sortBy (fun a b => decide (a < b)) ((e.bytes.filter fun b => !b.sent).map fun b => b.va / 4096 * 4096).dedup
      .next (pages.foldl (fun s page =>
        if ((s.core c).sbuf.look i).any fun e => e.faults.any fun f => f.1 = page then s
        else
          let form := decide (page < 2 ^ 57)
          let x := if ¬ form then Xl.fail 0x200 s
            else if e.ctx = 255 then Xl.ok .hbm page s
            else s.xlate c (if 512 ≤ e.gid then 1 else 0) e.ctx page true false (.ev (.storeBufferDrain c pipe i))
          match x with
          | .wait s => s
          | .fail code s =>
            if code = 0x200 then (s.storeFault c i page 5 0 0 0).retireEntry c i
            else (s.storeFault c i page 4 3 0 code).retireEntry c i
          | .ok .window off s =>
            -- a group's stores to one entry reach its window unit in program order (R129)
            if (s.core c).sbuf.any (fun (j, x) => decide (j < e.instr) && x.uid == e.uid && (x.ticket.isSome || x.bytes.any fun b => !b.sent)) then s
            else if (s.windowOf e.ctx off).isNone then s.windowFault c e.uid e.instr page
            else
              match s.windowPages c e (.ev (.storeBufferDrain c pipe i)) with
              | (s, none) => s
              | (s, some l) => s.sendWindow c e (l.filterMap fun (page, off) => (s.windowOf e.ctx off).map fun (w, o) => (page, w, o))
          | .ok ap off s => s.sendPiece c i page ap off) s)

namespace State

/-- A record has left the queue: restored records enter (R359), and held pieces become records in order of their entries
(R351). -/
def admitFaults (s : State) (c : Nat) : State :=
  let room := 64 - (s.core c).sfq.length
  let s := (s.modCore c fun k => { k with sfq := k.sfq ++ k.sfqWait.take room, sfqWait := k.sfqWait.drop room }).syncSfq c
  (s.core c).sbuf.foldl (fun s (key, e) => e.faults.foldl (fun s (page, t, r) =>
    if (s.core c).sfq.length < 64 ∨ ¬ s.runs c e.gid e.uid then (s.enterRecord c key page e t r).retireEntry c key else s) s) s

end State

/-! ### Bits of the core store (R52, R53) -/

/-- n bits of the core store at an absolute bit address. -/
def Core.readBits (k : Core) (a n : Nat) : Nat := leNat (k.readStore (a / 8) ((a % 8 + n + 7) / 8)) / 2 ^ (a % 8) % 2 ^ n

/-- Replace n bits at an absolute bit address. -/
def Core.writeBits (k : Core) (a n v : Nat) : Core :=
  let len := (a % 8 + n + 7) / 8
  let old := leNat (k.readStore (a / 8) len)
  k.writeStore (a / 8) (leBytes len (setBits old (a % 8 + n - 1) (a % 8) v))

/-- Replace n bits of the core store for something other than the team that holds them (R33). -/
def Core.writeBitsForeign (k : Core) (a n v : Nat) : Core := (k.writeBits a n v).disown (a / 8) (a / 8 + (a % 8 + n + 7) / 8)

/-- A memory port executes a remote sub-byte store as one locked read-modify-write (R53, R146). -/
def execRemoteSubbyteStore (c addr n : Nat) (v : DWord) (s : State) : Host.Outcome State Fault Refusal :=
  .next (if 0 < n ∧ n ≤ 64 ∧ (addr + n + 7) / 8 ≤ 0x600000 then s.modCore c fun k => k.writeBitsForeign addr n (v.toNat % 2 ^ n) else s)

/-- Poisoned bytes with n more from a. -/
def addPoison (l : List Nat) (a n : Nat) : List Nat := l ++ ((List.range n).map (a + ·)).filter fun i => !l.contains i

/-- An error of an array that SECDED or the sector code protects, as a free draw picks it (R107, R403): 0 none; 1 a single bit,
corrected and counted in `link_err`; 2 a word of core c's store, fatal in granule 63; 3 a word of its instruction store or engine
queue, fatal; 4 a sector of its die's HBM; 5 a word of capacity DRAM. -/
def State.arrayError (s : State) (c kind at' : Nat) : State :=
  let d := s.dieOf c
  match kind with
  | 1 => s.bumpField (dieOff d 0x20) 15 0
  | 2 =>
    let a := at' % 0xc0000 * 8
    let s := s.modCore c fun k => { k with storePoison := addPoison k.storePoison a 8 }
    if 0x5e8000 ≤ a then s.post (.fatalError 0x0102 d (s.logical c)) else s
  | 3 => s.post (.fatalError 0x0102 d (s.logical c))
  | 4 => { s with hbmPoison := addPoison s.hbmPoison (d * gib 24 + at' % 2 ^ 29 * 48) 48 }
  | 5 => if s.product.capBytes = 0 then s else { s with capPoison := addPoison s.capPoison (at' % (s.product.capBytes / 8) * 8) 8 }
  | _ => s

/-- The patrol scrub reads every array of a core, of its die's HBM and of the capacity tier (R107, R403); what error it or a read finds
is free. -/
def execPatrolScrub (c : Nat) (s : State) : Host.Outcome State Fault Refusal :=
  let w i := (Config.freeWord (s.free + i)).toNat
  .next (({ s with free := s.free + 3 } : State).arrayError c (w 0 % 8) (w 1 * 2 ^ 32 + w 2))

/-- Reclaim one granule for a placement or a larger pool (R45): a granule that is not lent has nothing to give up. When no fill to a
granule given up is in flight, what waits for it goes on. -/
def execGranuleReclaim (c g : Nat) (s : State) : Host.Outcome State Fault Refusal :=
  let s := s.modCore c fun k => if k.lent.contains g then k.reclaim g else k
  .next (if (s.core c).reclaimWaits then s else s.postOnce (.placementOpportunity (s.dieOf c)))

/-- A home slice notifies a core of a write to a block barrier that its threads wait on (R176). -/
def execBarrierNotify (c ctx va : Nat) (s : State) : Host.Outcome State Fault Refusal :=
  let s := { s with blockWaits := s.blockWaits.filter fun (_, _, c', x, v) => ¬ (c' = c ∧ x = ctx ∧ v = va) }
  .next (s.modCore c fun k =>
    { k with groups := k.groups.map fun (i, g) => (i, if g.ctx = ctx then g.wakeIf (· == .blockBarrier va) else g) })

end Sys2Proof.Machine
end

