-- ==== Sys2Proof/Machine/MemInstr.lean ====
section
/-! DEFINITION. Memory instructions (R293 to R302): loads and stores of the four spaces, atomics, ticket appends, hints. -/

namespace Sys2Proof.Machine

/-! ### Who accesses: the lanes of Active, or the bundle once -/

/-- The register side of an access: lanes, elements and destinations. -/
structure Side where
  uniform : Bool
  lanes : List Nat
  victims : Word
deriving DecidableEq, Repr

def Ctx.laneSide (x : Ctx) (m : MReg) : Side := { uniform := false, lanes := lanesOf (x.active m), victims := x.active m }
def Ctx.uniSide (x : Ctx) : Side := { uniform := true, lanes := [0], victims := x.lanes }

/-- Words of n consecutive registers of a lane, or of the uniform file. -/
def Core.elem (k : Core) (x : Ctx) (sd : Side) (r n lane : Nat) : List Word :=
  (List.range n).map fun j => if sd.uniform then k.getS x.gid (r + j) else k.getV x.g x.gid (r + j) lane

/-- A 64-bit address operand: a pair, low word first (R207). -/
def Core.elem64 (k : Core) (x : Ctx) (sd : Side) (r lane : Nat) : DWord :=
  if sd.uniform then k.getS64 x.gid r else k.getV64 x.g x.gid r lane

def Core.elem32 (k : Core) (x : Ctx) (sd : Side) (r lane : Nat) : Word :=
  if sd.uniform then k.getS x.gid r else k.getV x.g x.gid r lane

/-- Write words to consecutive registers of a lane, or of the uniform file. -/
def Core.putElem (k : Core) (x : Ctx) (sd : Side) (r lane : Nat) (ws : List Word) : Core :=
  ws.zipIdx.foldl (fun k p => if sd.uniform then k.setS x.gid (r + p.2) p.1 else k.setV x.g x.gid (r + p.2) lane p.1) k

/-- The scoreboard number of a register of a side. -/
def Side.reg (sd : Side) (r : Nat) : Nat := if sd.uniform then 64 + r else r

/-- The check of a global address at issue: the form check of R7, or on the supervisor thread the bound of populated HBM
(R345). -/
def globalTrap (s : State) (x : Ctx) (size a : Nat) : Option Trap :=
  if x.gid = supGid then (if a + size ≤ s.product.hbmBytes then none else some (mkTrap 5 1 a)) else formTrap 57 a

namespace State

/-- Start an outstanding instruction: its destination is locked and each access posts its translation (R17, R160). -/
def startOp (s : State) (x : Ctx) (sd : Side) (kind : MemKind) (dst regs : Nat) (accs : List LaneAcc) (go : List Nat) : State :=
  let k := s.core x.core
  let n := k.nextOp
  let o : MemOp := { uid := x.g.uid, gid := x.gid, ctx := x.g.ctx, pc := x.pc, word := x.word, lit := x.lit, kind,
                     dst := sd.reg dst, regs, uniform := sd.uniform, lanes := accs, victims := sd.victims,
                     mark := k.nextSb }
  let s := s.setCore x.core { k with memops := k.memops.put n o, nextOp := n + 1 }
  let s := s.modGroup x.core x.gid fun g => k.settleWaits { g with locks := g.locks ++ (List.range regs).map fun j => sd.reg dst + j }
  s.posts (go.map fun l => .translationRequest x.core n l)

/-- The lanes that speak for their locations: the lowest that names each (R299, R301). -/
def leaders (accs : List LaneAcc) : List Nat :=
  (accs.filter fun a => accs.all fun b => b.va ≠ a.va || decide (a.lane ≤ b.lane)).map (·.lane)

/-- The conditions of a release at a scope by the bundle (R138 to R140), of its own accesses and what they observed. -/
def released (s : State) (x : Ctx) (sc : Scope) : Bool :=
  let m := s.marksOf x
  s.marksDone x.core x.g.uid x.lanes sc m.1 m.2.1 m.2.2

/-- An acquire at a scope (R46, R140). -/
def acquire (s : State) (c : Nat) (sc : Scope) : State := s.modCore c fun k => k.l1Acquire sc

end State

def Order.releases : Order → Bool
  | .rel | .ar => true
  | .none | .acq => false
def Order.acquires : Order → Bool
  | .acq | .ar => true
  | .none | .rel => false

/-- An access has started: with an acquire the bundle goes on behind it, else at once (R140). -/
def State.doneOrBehind (o : Order) (x : Ctx) (op : Nat) (s : State) : Res :=
  if Order.acquires o then .moved (s.advanceBehind x op) else .done s

/-! ### Global loads and stores -/

/-- A global load (R293 to R295). -/
def globalLoad (sd : Side) (w : Width) (d a : Nat) (off : Off) (x : Ctx) (s : State) : Res :=
  let k := s.asIssued x
  let ea := fun l => ea64 (k.elem64 x sd a l) (Off.val w.bytes off)
  match laneTrap sd.lanes [fun l => alignTrap w.bytes (ea l), fun l => globalTrap s x w.bytes (ea l)] with
  | some t => .trap t
  | none =>
    if sd.lanes.isEmpty then .done s
    else if ¬ k.logStall.isEmpty then .wait s .xlate
    else
      let sx := match w with
        | .s8 | .s16 => true
        | _ => false
      .done (s.startOp x sd (.load w.bytes sx) d w.regs (sd.lanes.map fun l => { lane := l, va := ea l }) sd.lanes)

/-- The bytes of a store, lane by lane; where lanes name one byte the highest lane's is kept (R137, R296). -/
def storeBytes (lanes : List Nat) (ea : Nat → Nat) (data : Nat → List Byte) : List SByte :=
  let all := lanes.flatMap fun l => (data l).zipIdx.map fun (b, i) => ({ va := ea l + i, val := b, lane := l } : SByte)
  all.filter fun b => all.all fun c => c.va ≠ b.va || decide (c.lane ≤ b.lane)

namespace State

/-- Take store-buffer entries for a store, one a sector of virtual addresses (R296). -/
def enterStore (s : State) (x : Ctx) (sd : Side) (w : Width) (bytes : List SByte) : State :=
  let secs := sortBy (fun a b => decide (a < b)) (bytes.map fun b => b.va / 48).dedup
  let first := (s.core x.core).nextSb
  secs.foldl (fun s sec =>
    let k := s.core x.core
    let e : SbEntry := { pipe := pipeOf x.gid, uid := x.g.uid, gid := x.gid, ctx := x.g.ctx, pc := x.pc,
                         width := w.code.toNat, uniform := sd.uniform, victims := sd.victims, opMark := k.nextOp, instr := first,
                         bytes := bytes.filter fun b => b.va / 48 = sec }
    (s.setCore x.core { k with sbuf := k.sbuf.put k.nextSb e, nextSb := k.nextSb + 1 }).post
      (.storeBufferDrain x.core (pipeOf x.gid) k.nextSb)) s

end State

/-- A global store (R293, R294, R296). -/
def globalStore (sd : Side) (w : Width) (d a : Nat) (off : Off) (x : Ctx) (s : State) : Res :=
  let k := s.asIssued x
  let ea := fun l => ea64 (k.elem64 x sd a l) (Off.val w.bytes off)
  match laneTrap sd.lanes [fun l => alignTrap w.bytes (ea l), fun l => globalTrap s x w.bytes (ea l)] with
  | some t => .trap t
  | none =>
    let bytes := storeBytes sd.lanes ea fun l => (wordsBytes (k.elem x sd d w.regs l)).take w.bytes
    if k.sbFree (pipeOf x.gid) < ((bytes.map fun b => b.va / 48).dedup).length then .wait s .drain
    else .done (s.enterStore x sd w bytes)

/-! ### Core store, lane private and bit space: performed at the bank -/

/-- Data read at a bank reaches each lane; a poisoned one keeps its old value, and the group takes cause 0x0b (R295). -/
def deliver (sd : Side) (d : Nat) (x : Ctx) (s : State) (read : Nat → List Word) (bad : Nat → Option Nat) : Res :=
  let s' := s.modCore x.core fun k => sd.lanes.foldl (fun k l => if (bad l).isSome then k else k.putElem x sd d l (read l)) k
  match sd.lanes.findSome? bad with
  | some addr => .done (s'.pendTrap x.core x.gid x.g.uid x.g.ctx { mkTrap 0x0b 0 addr with pc := x.pc, lanes := sd.victims })
  | none => .done s'

/-- A core-store access of some lanes stands behind an earlier access of its group through the aperture (R135, R136). -/
def behindAperture (s : State) (x : Ctx) (lanes : List Nat) (at_ : Nat → Nat) (n : Nat) : Bool :=
  lanes.any fun l => s.ownPending x.core x.g.uid (at_ l) n

/-- `LDL` (R293, R295). -/
def storeLoad (sd : Side) (w : Width) (d a : Nat) (off : Off) (x : Ctx) (s : State) : Res :=
  let k := s.asIssued x
  let (base, limit) := s.span x
  let ea := fun l => ea32 (k.elem32 x sd a l) (Off.val w.bytes off)
  match laneTrap sd.lanes [fun l => alignTrap w.bytes (ea l), fun l => storeTrap limit w.bytes (ea l)] with
  | some t => .trap t
  | none =>
    if behindAperture s x sd.lanes (fun l => base + ea l) w.bytes then .wait s .drain
    else deliver sd d x s (fun l => extend w (k.readStore (base + ea l) w.bytes))
      fun l => if k.storeBad (base + ea l) w.bytes then some (ea l) else none

/-- `STL` (R293, R296): each bank is written directly, in ascending lane order, so that the highest lane's bytes stay. -/
def storeStore (sd : Side) (w : Width) (d a : Nat) (off : Off) (x : Ctx) (s : State) : Res :=
  let k := s.asIssued x
  let (base, limit) := s.span x
  let ea := fun l => ea32 (k.elem32 x sd a l) (Off.val w.bytes off)
  match laneTrap sd.lanes [fun l => alignTrap w.bytes (ea l), fun l => storeTrap limit w.bytes (ea l)] with
  | some t => .trap t
  | none =>
    if behindAperture s x sd.lanes (fun l => base + ea l) w.bytes then .wait s .drain
    else .done (s.modCore x.core fun q => sd.lanes.foldl (fun q l =>
      q.storeBy x.gid (base + ea l) ((wordsBytes (k.elem x sd d w.regs l)).take w.bytes)) q)

/-- `LDP` (R9, R293). -/
def privateLoad (sd : Side) (w : Width) (d a : Nat) (off : Off) (x : Ctx) (s : State) : Res :=
  let k := s.core x.core
  let t := s.team x.core x.g.team
  let ea := fun l => ea32 (k.elem32 x sd a l) (Off.val w.bytes off)
  match laneTrap sd.lanes [fun l => alignTrap w.bytes (ea l), fun l => windowTrap (t.windowOf x.gid) w.bytes (ea l)] with
  | some tr => .trap tr
  | none => deliver sd d x s (fun l => extend w (k.readBank l (t.windowBase x.g + ea l) w.bytes)) fun _ => none

/-- `STP` (R9, R293). -/
def privateStore (sd : Side) (w : Width) (d a : Nat) (off : Off) (x : Ctx) (s : State) : Res :=
  let k := s.core x.core
  let t := s.team x.core x.g.team
  let ea := fun l => ea32 (k.elem32 x sd a l) (Off.val w.bytes off)
  match laneTrap sd.lanes [fun l => alignTrap w.bytes (ea l), fun l => windowTrap (t.windowOf x.gid) w.bytes (ea l)] with
  | some tr => .trap tr
  | none => .done (s.modCore x.core fun q => sd.lanes.foldl (fun q l =>
      q.writeBank l (t.windowBase x.g + ea l) ((wordsBytes (k.elem x sd d w.regs l)).take w.bytes)) q)

/-- `LD` (R293). -/
def execLd (m : MReg) (d a : VReg) (w : Width) (off : Off) (s : State) : Host.Outcome State Fault Refusal :=
  run (.ld m d a w off) (fun x s => globalLoad (x.laneSide m) w d.toNat a.toNat off x s) s
/-- `ST` (R293). -/
def execSt (m : MReg) (d a : VReg) (w : Width) (off : Off) (s : State) : Host.Outcome State Fault Refusal :=
  run (.st m d a w off) (fun x s => globalStore (x.laneSide m) w d.toNat a.toNat off x s) s
/-- `LDS` (R293). -/
def execLds (d a : SReg) (w : Width) (off : Off) (s : State) : Host.Outcome State Fault Refusal :=
  run (.lds d a w off) (fun x s => globalLoad x.uniSide w d.toNat a.toNat off x s) s
/-- `STS` (R293). -/
def execSts (d a : SReg) (w : Width) (off : Off) (s : State) : Host.Outcome State Fault Refusal :=
  run (.sts d a w off) (fun x s => globalStore x.uniSide w d.toNat a.toNat off x s) s
/-- `LDL`, v registers (R293). -/
def execLdlLane (m : MReg) (d a : VReg) (w : Width) (off : Off) (s : State) : Host.Outcome State Fault Refusal :=
  run (.ldlLane m d a w off) (fun x s => storeLoad (x.laneSide m) w d.toNat a.toNat off x s) s
/-- `STL`, v registers (R293). -/
def execStlLane (m : MReg) (d a : VReg) (w : Width) (off : Off) (s : State) : Host.Outcome State Fault Refusal :=
  run (.stlLane m d a w off) (fun x s => storeStore (x.laneSide m) w d.toNat a.toNat off x s) s
/-- `LDL`, s registers (R293). -/
def execLdlUniform (d a : SReg) (w : Width) (off : Off) (s : State) : Host.Outcome State Fault Refusal :=
  run (.ldlUniform d a w off) (fun x s => storeLoad x.uniSide w d.toNat a.toNat off x s) s
/-- `STL`, s registers (R293). -/
def execStlUniform (d a : SReg) (w : Width) (off : Off) (s : State) : Host.Outcome State Fault Refusal :=
  run (.stlUniform d a w off) (fun x s => storeStore x.uniSide w d.toNat a.toNat off x s) s
/-- `LDP` (R293). -/
def execLdp (m : MReg) (d a : VReg) (w : Width) (off : Off) (s : State) : Host.Outcome State Fault Refusal :=
  run (.ldp m d a w off) (fun x s => privateLoad (x.laneSide m) w d.toNat a.toNat off x s) s
/-- `STP` (R293). -/
def execStp (m : MReg) (d a : VReg) (w : Width) (off : Off) (s : State) : Host.Outcome State Fault Refusal :=
  run (.stp m d a w off) (fun x s => privateStore (x.laneSide m) w d.toNat a.toNat off x s) s

/-- A bit element as register words: zero-extended, or sign-extended with sx (R297). -/
def bitWords (n : Nat) (sx : Bool) (v : Nat) : List Word :=
  let v := if sx ∧ v.testBit (n - 1) then v + (2 ^ 64 - 2 ^ n) else v
  if n ≤ 32 then [w32 v] else [w32 v, w32 (v / 2 ^ 32)]

/-- `LDB` (R297). -/
def execLdb (m : MReg) (d : VReg) (k : BReg) (nm1 : BitVec 6) (sx : Bool) (s : State) : Host.Outcome State Fault Refusal :=
  run (.ldb m d k nm1 sx) (fun x s =>
    let c := s.core x.core
    let n := nm1.toNat + 1
    let sd := x.laneSide m
    let (base, limit) := s.span x
    let ea := awlAddr (x.g.awl.getD k.toNat 0)
    match laneTrap sd.lanes [fun l => bitTrap limit n (ea l)] with
    | some t => .trap t
    | none =>
      if behindAperture s x sd.lanes (fun l => base + ea l / 8) ((n + 14) / 8) then .wait s .drain
      else deliver sd d.toNat x s (fun l => bitWords n sx (c.readBits (base * 8 + ea l) n)) fun l =>
        if c.storeBad (base + ea l / 8) ((ea l % 8 + n + 7) / 8) then some (ea l) else none) s

/-- `STB` (R297, R53): each element is one locked read-modify-write. -/
def execStb (m : MReg) (d : VReg) (k : BReg) (nm1 : BitVec 6) (s : State) : Host.Outcome State Fault Refusal :=
  run (.stb m d k nm1) (fun x s =>
    let c := s.core x.core
    let n := nm1.toNat + 1
    let sd := x.laneSide m
    let (base, limit) := s.span x
    let ea := awlAddr (x.g.awl.getD k.toNat 0)
    match laneTrap sd.lanes [fun l => bitTrap limit n (ea l)] with
    | some t => .trap t
    | none =>
      let put := if x.gid = supGid then Core.writeBitsForeign else Core.writeBits
      if behindAperture s x sd.lanes (fun l => base + ea l / 8) ((n + 14) / 8) then .wait s .drain
      else .done (s.modCore x.core fun q => sd.lanes.foldl (fun q l =>
        put q (base * 8 + ea l) n (leNat (wordsBytes (c.elem x sd d.toNat (Named.bitRegs nm1) l)) % 2 ^ n)) q)) s

/-! ### Atomics (R298, R299) -/

/-- A global atomic: its release, then one read-modify-write for each location that its lanes name. -/
def globalAtom (sd : Side) (r : Rmw) (wide : Bool) (ops d a : Nat) (sc : Scope) (o : Order) (off : TOff) (x : Ctx) (s : State) :
    Res :=
  let k := s.asIssued x
  let size := if wide then 8 else 4
  let ea := fun l => ea64 (k.elem64 x sd a l) (TOff.val off)
  match laneTrap sd.lanes [fun l => alignTrap size (ea l), fun l => globalTrap s x size (ea l)] with
  | some t => .trap t
  | none =>
    if sd.lanes.isEmpty then .done s
    else if ¬ k.logStall.isEmpty then .wait s .xlate
    else if Order.releases o ∧ ¬ s.released x sc then .wait s .drain
    else
      let accs := sd.lanes.map fun l => ({ lane := l, va := ea l, x := wordsBytes (k.elem x sd d (ops * (size / 4)) l) } : LaneAcc)
      State.doneOrBehind o x k.nextOp (s.startOp x sd (.atom r size sc o) d (size / 4) accs (State.leaders accs))

/-- A core-store atomic: each lane in ascending order, one locked read-modify-write at the word's bank (R141). -/
def storeAtom (sd : Side) (r : Rmw) (wide : Bool) (ops d a : Nat) (sc : Scope) (o : Order) (off : TOff) (x : Ctx) (s : State) :
    Res :=
  let k := s.asIssued x
  let size := if wide then 8 else 4
  let (base, limit) := s.span x
  let ea := fun l => ea32 (k.elem32 x sd a l) (TOff.val off)
  match laneTrap sd.lanes [fun l => alignTrap size (ea l), fun l => storeTrap limit size (ea l)] with
  | some t => .trap t
  | none =>
    if sd.lanes.isEmpty then .done s
    else if behindAperture s x sd.lanes (fun l => base + ea l) size ∨ (Order.releases o ∧ ¬ s.released x sc) then .wait s .drain
    else
      let (q, got) := sd.lanes.foldl (fun (p : Core × List (Nat × Option Nat)) l =>
        let (q, got) := p
        if q.storeBad (base + ea l) size then (q, got ++ [(l, none)])
        else
          let old := leNat (q.readStore (base + ea l) size)
          let bs := wordsBytes (k.elem x sd d (ops * (size / 4)) l)
          let new := r.apply (8 * size) old (leNat (bs.take size)) (leNat (bs.drop size))
          (if new = old then q else q.storeBy x.gid (base + ea l) (leBytes size new), got ++ [(l, some old)])) (s.core x.core, [])
      let s := s.setCore x.core q
      let s := if Order.acquires o then s.acquire x.core sc else s
      deliver sd d x s (fun l => loadWords (size / 4) false (leBytes size (((got.find? fun p => p.1 = l).bind (·.2)).getD 0)))
        fun l => if ((got.find? fun p => p.1 = l).bind (·.2)).isNone then some (ea l) else none

/-- An atomic of either space (R298). -/
def atomOf (sd : Side) (sp : AtomSpace) (r : Rmw) (ops d a : Nat) (sc : Scope) (o : Order) (off : TOff) (x : Ctx) (s : State) : Res :=
  if sp.store then storeAtom sd r sp.wide ops d a sc o off x s else globalAtom sd r sp.wide ops d a sc o off x s

/-- `ATOM.op`, v registers (R298). -/
def execAtomLane (m : MReg) (sp : AtomSpace) (op : AtomOp) (d a : VReg) (sc : Scope) (o : Order) (off : TOff) (s : State) :
    Host.Outcome State Fault Refusal :=
  run (.atomLane m sp op d a sc o off) (fun x s => atomOf (x.laneSide m) sp (.op op) 1 d.toNat a.toNat sc o off x s) s
/-- `CAS`, v registers (R298). -/
def execCasLane (m : MReg) (sp : AtomSpace) (d a : VReg) (sc : Scope) (o : Order) (off : TOff) (s : State) :
    Host.Outcome State Fault Refusal :=
  run (.casLane m sp d a sc o off) (fun x s => atomOf (x.laneSide m) sp .cas 2 d.toNat a.toNat sc o off x s) s
/-- `ATOM.exch`, v registers (R298). -/
def execAtomExchLane (m : MReg) (sp : AtomSpace) (d a : VReg) (sc : Scope) (o : Order) (off : TOff) (s : State) :
    Host.Outcome State Fault Refusal :=
  run (.atomExchLane m sp d a sc o off) (fun x s => atomOf (x.laneSide m) sp .exch 1 d.toNat a.toNat sc o off x s) s
/-- `ATOM.op`, s registers (R298). -/
def execAtomUniform (sp : AtomSpace) (op : AtomOp) (d a : SReg) (sc : Scope) (o : Order) (off : TOff) (s : State) :
    Host.Outcome State Fault Refusal :=
  run (.atomUniform sp op d a sc o off) (fun x s => atomOf x.uniSide sp (.op op) 1 d.toNat a.toNat sc o off x s) s
/-- `CAS`, s registers (R298). -/
def execCasUniform (sp : AtomSpace) (d a : SReg) (sc : Scope) (o : Order) (off : TOff) (s : State) :
    Host.Outcome State Fault Refusal :=
  run (.casUniform sp d a sc o off) (fun x s => atomOf x.uniSide sp .cas 2 d.toNat a.toNat sc o off x s) s
/-- `ATOM.exch`, s registers (R298). -/
def execAtomExchUniform (sp : AtomSpace) (d a : SReg) (sc : Scope) (o : Order) (off : TOff) (s : State) :
    Host.Outcome State Fault Refusal :=
  run (.atomExchUniform sp d a sc o off) (fun x s => atomOf x.uniSide sp .exch 1 d.toNat a.toNat sc o off x s) s

/-- `QAPP` (R300, R301): a store-buffer entry is reserved for each lane of Active, and each distinct header gets one
read-modify-write. -/
def execQapp (m : MReg) (d a : VReg) (sc : Scope) (o : Order) (off : TOff) (s : State) : Host.Outcome State Fault Refusal :=
  run (.qapp m d a sc o off) (fun x s =>
    let k := s.asIssued x
    let sd := x.laneSide m
    let ea := fun l => ea64 (k.elem64 x sd a.toNat l) (TOff.val off)
    match laneTrap sd.lanes [fun l => alignTrap 16 (ea l), fun l => globalTrap s x 16 (ea l)] with
    | some t => .trap t
    | none =>
      if sd.lanes.isEmpty then .done s
      else if ¬ k.logStall.isEmpty then .wait s .xlate
      else if k.sbFree (pipeOf x.gid) < sd.lanes.length then .wait s .drain
      else if Order.releases o ∧ ¬ s.released x sc then .wait s .drain
      else
        let accs := sd.lanes.map fun l => ({ lane := l, va := ea l, x := wordsBytes (k.elem x sd d.toNat 1 l) } : LaneAcc)
        let s := s.startOp x sd (.qapp sc o) d.toNat 1 accs (State.leaders accs)
        State.doneOrBehind o x k.nextOp (s.modCore x.core fun k => sd.lanes.foldl (fun k l =>
          { k with
            sbuf := k.sbuf.put k.nextSb
              { pipe := pipeOf x.gid, uid := x.g.uid, gid := x.gid, ctx := x.g.ctx, pc := x.pc, width := 2, uniform := false,
                victims := sd.victims, bytes := [], ticket := some (x.g.uid * 64 + l), instr := k.nextSb }
            nextSb := k.nextSb + 1 }) k)) s

/-- `PREF` (R302, R28): one hint a sector; one whose address fails the form check is dropped. -/
def execPref (m : MReg) (kind : PrefKind) (a : VReg) (off : Off) (s : State) : Host.Outcome State Fault Refusal :=
  run (.pref m kind a off) (fun x s =>
    let k := s.core x.core
    let sd := x.laneSide m
    let ea := fun l => ea64 (k.elem64 x sd a.toNat l) (Off.val 1 off)
    let first := sd.lanes.filter fun l => sd.lanes.all fun j => decide (ea j / 48 ≠ ea l / 48 ∨ l ≤ j)
    let lead := first.filter fun l => decide (ea l < 2 ^ 57)
    let s := s.dropHints x.g.ctx (first.length - lead.length)
    if lead.isEmpty then .done s
    else .done (s.startOp x sd (.pref kind) 0 0 (lead.map fun l => { lane := l, va := ea l }) lead)) s

end Sys2Proof.Machine
end

