-- ==== Sys2Proof/Machine/Sync.lean ====
section
/-! DEFINITION. Overlay instructions (R237, R238), extended registers (R170, R171), barriers (R174 to R176, R239), counter
waits (R241) and HALT (R365). -/

namespace Sys2Proof.Machine

/-! ### Overlays -/

/-- The group's pin count of an ID. -/
def Group.pinCount (g : Group) (id : Nat) : Nat := ((g.pins.find? fun p => p.1 = id).map (·.2)).getD 0

/-- The group's pins with an ID's count changed; a count of 0 has no entry (R69). -/
def Group.setPin (g : Group) (id n : Nat) : Group :=
  let rest := g.pins.filter fun p => p.1 ≠ id
  { g with pins := if n = 0 then rest else rest ++ [(id, n)] }

/-- `OVLD` (R69, R237). -/
def execOvld (d : SReg) (id : OvSrc) (s : State) : Host.Outcome State Fault Refusal :=
  run (.ovld d id) (fun x s =>
    let v := (s.core x.core).ovsrc x.gid id
    let i := v.toNat
    if 0x10000 ≤ i then prot 3 i
    else if x.g.pinCount i = 255 ∨ (x.g.pinCount i = 0 ∧ 4 ≤ x.g.pins.length) then prot 7 i
    else
      let s := s.modGroup x.core x.gid fun g => g.setPin i (g.pinCount i + 1)
      let s := if ((s.core x.core).copy? x.g.ctx i).isSome then s.modCore x.core Core.recount else s.requestOv x.core x.g.ctx i
      .done (s.writeS x d.toNat (0x80000000 + w32 i))) s

/-- `OVWAIT` (R69, R237): a failed load is taken at this instruction by OVERLAY_LOAD_FAIL. -/
def execOvwait (a : SReg) (s : State) : Host.Outcome State Fault Refusal :=
  run (.ovwait a) (fun x s =>
    let v := (s.asIssued x).getS x.gid a.toNat
    let i := wf32 v 15 0
    if wf32 v 31 16 ≠ 0x8000 then prot 3 v.toNat
    else if ((s.core x.core).resident? x.g.ctx i).isSome then .done s
    else .wait (s.requestOv x.core x.g.ctx i) (.ovwait i)) s

/-- `OVREL` (R69, R237). -/
def execOvrel (a : SReg) (s : State) : Host.Outcome State Fault Refusal :=
  run (.ovrel a) (fun x s =>
    let v := (s.core x.core).getS x.gid a.toNat
    let i := wf32 v 15 0
    if wf32 v 31 16 ≠ 0x8000 then prot 3 v.toNat
    else if x.g.pinCount i = 0 then prot 7 v.toNat
    else
      let s := s.modGroup x.core x.gid fun g => g.setPin i (g.pinCount i - 1)
      .done ((s.modCore x.core Core.recount).retryLoads x.core)) s

/-- The state word of an ID (R238). The slot count of a copy whose table entry has not been read yet is stated nowhere: 1 to 16,
free. -/
def Core.ovState (k : Core) (g : Group) (id : Nat) (free : Word) : Word :=
  match k.copy? g.ctx id with
  | none => w32 (g.pinCount id * 2 ^ 16)
  | some (_, r) =>
    let slots := if r.slots = 0 then free.toNat % 16 + 1 else r.slots
    w32 (g.pinCount id * 2 ^ 16 + slots * 2 ^ 5 + (if r.resident then 2 else 1))

/-- `OVQRY` (R237, R238). -/
def execOvqry (d : SReg) (id : OvSrc) (s : State) : Host.Outcome State Fault Refusal :=
  run (.ovqry d id) (fun x s =>
    let k := s.core x.core
    let v := k.ovsrc x.gid id
    if 0x10000 ≤ v.toNat then prot 3 v.toNat
    else .done (({ s with free := s.free + 1 } : State).writeS x d.toNat (k.ovState x.g v.toNat (Config.freeWord s.free)))) s

/-! ### Extended registers (R31 to R34, R170 to R173) -/

/-- The chunks that a group holds. -/
def Group.heldChunks (g : Group) : List Nat := g.chunks.filterMap id

/-- The lowest chunk that no group holds. -/
def Core.freeChunk (k : Core) : Option Nat := firstFree 992 fun c => k.groups.any fun (_, g) => g.heldChunks.contains c

/-- A group of the team may be granted a chunk (R31). -/
def Core.grantable (k : Core) (t : Nat) : Bool :=
  let x := (k.teams.look t).getD {}
  decide (x.held < x.reserve) || decide (0 < k.unreserved)

/-- Grant a chunk for range r to a group: clear it when another context held it last (R33, R170). -/
def Core.grant (k : Core) (gid r c : Nat) : Core :=
  match k.groups.look gid with
  | none => k
  | some g =>
    let k := if k.chunkHolder.look c = some g.ctx then k
      else { k with rf := Mem.clear k.rf ((8704 + 16 * c) * 32) ((8704 + 16 * c + 16) * 32) }
    { k with
      chunkHolder := k.chunkHolder.put c g.ctx
      teams := k.teams.upd g.team fun t => { t with held := t.held + 1 }
      groups := k.groups.put gid { (g.wakeIf (· == .xacq)) with chunks := g.chunks.set (r - 1) (some c) } }

/-- Scan the acquire queue from its head and grant every request that R31 allows (R170). -/
def Core.grantScan (k : Core) : Core :=
  k.acquireQ.foldl (fun k (gid, r) =>
    match k.groups.look gid, k.freeChunk with
    | some g, some c => if k.grantable g.team then { k.grant gid r c with acquireQ := k.acquireQ.erase (gid, r) } else k
    | some _, none => k
    | none, _ => { k with acquireQ := k.acquireQ.erase (gid, r) }) k

/-- `XACQ` (R170): done when the range is held; else the request joins the queue and the bundle waits for its grant, with which it is
done though another bundle may have given the range back by then. -/
def execXacq (r : BitVec 2) (s : State) : Host.Outcome State Fault Refusal :=
  run (.xacq r) (fun x s =>
    let r := r.toNat
    if (x.g.chunks.getD (r - 1) none).isSome ∨ (x.latch.isSome ∧ ¬ (s.core x.core).acquireQ.contains (x.gid, r)) then .done s
    else
      let s := s.modCore x.core fun k =>
        (if k.acquireQ.contains (x.gid, r) then k else { k with acquireQ := k.acquireQ ++ [(x.gid, r)] }).grantScan
      if ((s.group x.core x.gid).chunks.getD (r - 1) none).isSome then .done s else .wait s .xacq) s

/-- Return the chunk of a range to the pool and grant what waits (R171). -/
def Core.releaseChunk (k : Core) (gid r : Nat) : Core :=
  match k.groups.look gid with
  | none => k
  | some g =>
    if (g.chunks.getD (r - 1) none).isNone then k
    else ({ k with
      groups := k.groups.put gid { g with chunks := g.chunks.set (r - 1) none }
      teams := k.teams.upd g.team fun t => { t with held := t.held - 1 } }).grantScan

/-- `XREL` (R171): waits while an outstanding result names the range. -/
def execXrel (r : BitVec 2) (s : State) : Host.Outcome State Fault Refusal :=
  run (.xrel r) (fun x s =>
    let r := r.toNat
    if (x.g.chunks.getD (r - 1) none).isNone then .done s
    else if x.g.locks.any (fun q => decide (16 * r ≤ q ∧ q < 16 * r + 16)) ∨ (s.core x.core).memops.any (fun (_, o) =>
        o.uid == x.g.uid && !o.uniform && !o.kind.hint && decide (o.dst < 16 * r + 16 ∧ 16 * r < o.dst + o.regs)) then .wait s .drain
    else .done (s.modCore x.core fun k => k.releaseChunk x.gid r)) s

/-! ### Barriers (R174 to R177) -/

/-- Arrive at a barrier word (R175): none when the word fails its checks; else the new word, the generation, and whether
the arrival counted. -/
def barArrive (w : DWord) (entry : Option Nat) : Option (DWord × Nat × Bool) :=
  let g := qf w 63 48
  if qf w 15 0 = 0 ∨ qf w 47 32 ≠ 0 then none
  else if entry = some g then some (w, g, false)
  else
    let n := qf w 31 16 + 1
    if qf w 15 0 ≤ n then some (qset (qset w 31 16 0) 63 48 ((g + 1) % 65536), g, true)
    else some (qset w 31 16 n, g, true)

/-- Identity of a barrier in the arrival table: the offset of a team barrier, the address of a block barrier set apart. -/
def barrierId (blk : Bool) (a : Nat) : Nat := if blk then 2 ^ 64 + a else a

/-- Record an arrival: a new entry replaces the least recently written of 16 (R175). -/
def Group.arrive (g : Group) (id gen : Nat) : Group :=
  { g with arrivals := ((id, gen) :: g.arrivals.filter fun p => p.1 ≠ id).take 16 }

def Group.arrival (g : Group) (id : Nat) : Option Nat := (g.arrivals.find? fun p => p.1 = id).map (·.2)

/-- Translate an address for the bundle itself, which waits at the instruction meanwhile (R239). -/
def uniXlate (x : Ctx) (s : State) (va : Nat) (write : Bool) : Xl :=
  if x.gid = supGid then .ok .hbm va s
  else s.xlate x.core (if x.gid < 512 then 0 else 1) x.g.ctx va write false (.thr x.core x.gid)

/-- A fatal fault of the bundle's own access: cause 0x03 at the next boundary (R18). -/
def fatalAt (x : Ctx) (s : State) (code va : Nat) (cause : Nat := 3) : Res :=
  .done (s.pendTrap x.core x.gid x.g.uid x.g.ctx { mkTrap cause code va with pc := x.pc, lanes := x.lanes })

/-- HBM and the capacity aperture: the targets of a block barrier (R239). -/
def barrierTarget (s : State) (x : Ctx) (ap : Ap) (off : Nat) : Bool :=
  match ap with
  | .hbm | .cap => x.gid == supGid || s.readable ap off
  | .store | .window | .control | .outside => false

/-- Operand checks of BARA and BARW (R239). -/
def barTrap (s : State) (x : Ctx) (blk : Bool) (a : Nat) : Option Trap :=
  if a % 8 ≠ 0 then some (mkTrap 2 8 a)
  else if blk then globalTrap s x 8 a
  else if 8 * (s.team x.core x.g.team).barriers ≤ a then some (mkTrap 5 1 a) else none

/-- Operand of BARA and BARW: an offset, or the address in a pair. -/
def barOperand (k : Core) (x : Ctx) (blk : Bool) (a : SReg) : Nat :=
  if blk then (k.getS64 x.gid a.toNat).toNat else (k.getS x.gid a.toNat).toNat

/-- `BARA` (R175, R239). -/
def execBara (blk : Bool) (d a : SReg) (s : State) : Host.Outcome State Fault Refusal :=
  run (.bara blk d a) (fun x s =>
    let k := s.asIssued x
    let v := barOperand k x blk a
    let id := barrierId blk v
    match barTrap s x blk v with
    | some t => .trap t
    | none =>
      if ¬ s.released x (if blk then .die else .core) then .wait s .drain
      else if blk then
        match uniXlate x s v true with
        | .wait s => .wait s .xlate
        | .fail code s => fatalAt x s code v
        | .ok ap off s =>
          if ¬ barrierTarget s x ap off then prot 2 v
          else if s.targetWaits ap off then .wait s .xlate
          else
            let (s, bs, bad) := s.homeRead ap off 8
            if bad then fatalAt x s 0 v 0x0b
            else
              match barArrive (BitVec.ofNat 64 (leNat bs)) (x.g.arrival id) with
              | none => prot 3 v
              | some (w, g, counted) =>
                let new := leBytes 8 w.toNat
                let link := s.usedLink x.core (if x.gid < 512 then 0 else 1) x.g.ctx v
                let s := if counted then
                    ((s.homeWrite ap off new).modCore x.core fun k =>
                      (k.l1Store s x.g.ctx link ap (new.zipIdx.map fun (b, i) => (off + i, b))).passFills ap off).modGroup x.core x.gid
                      fun y => y.arrive id g
                  else s
                .done (s.writeS x d.toNat (w32 g))
      else
        let addr := (s.span x).1 + v
        match barArrive (k.store64 addr) (x.g.arrival id) with
        | none => prot 3 v
        | some (w, g, counted) =>
          let s := if counted then
              (s.modCore x.core fun k => k.putStore64 addr w).modGroup x.core x.gid fun y => y.arrive id g
            else s
          .done (s.writeS x d.toNat (w32 g))) s

/-- `BARW` (R176, R239). -/
def execBarw (blk : Bool) (a b : SReg) (s : State) : Host.Outcome State Fault Refusal :=
  run (.barw blk a b) (fun x s =>
    let k := s.asIssued x
    let v := barOperand k x blk a
    let tok := k.getS x.gid b.toNat
    match barTrap s x blk v with
    | some t => .trap t
    | none =>
      if 0x10000 ≤ tok.toNat then prot 3 tok.toNat
      else if blk then
        match uniXlate x s v false with
        | .wait s => .wait s .xlate
        | .fail code s => fatalAt x s code v
        | .ok ap off s =>
          if ¬ barrierTarget s x ap off then prot 2 v
          else if s.targetWaits ap off then .wait s .xlate
          else
            let (s, bs, bad) := s.homeRead ap off 8
            if bad then fatalAt x s 0 v 0x0b
            else if bits (leNat bs) 63 48 ≠ tok.toNat then .done (s.acquire x.core .die)
            else .wait { s with blockWaits := s.blockWaits ++ [(ap, off, x.core, x.g.ctx, v)] } (.blockBarrier v)
      else
        let addr := (s.span x).1 + v
        if qf (k.store64 addr) 63 48 ≠ tok.toNat then .done (s.acquire x.core .core) else .wait s (.barrier addr)) s

/-! ### Counter waits and HALT -/

/-- The counter C has reached b (R241). -/
def reached (c b : Nat) : Bool := decide ((c + 2 ^ 32 - b) % 2 ^ 32 < 2 ^ 31)

/-- `WAITC` (R241). -/
def execWaitc (sc : Scope) (a : SReg) (b : USrc) (s : State) : Host.Outcome State Fault Refusal :=
  run (.waitc sc a b) (fun x s =>
    let k := s.asIssued x
    let v := (k.getS x.gid a.toNat).toNat
    let (base, limit) := s.span x
    match (alignTrap 4 v).or (storeTrap limit 4 v) with
    | some t => .trap t
    | none =>
      if reached (k.store32 (base + v)) (k.usrc x.gid b).toNat then .done (s.acquire x.core sc) else .wait s (.counter (base + v))) s

/-- `HALT` (R365), on the supervisor thread alone (R345). -/
def execHalt (s : State) : Host.Outcome State Fault Refusal :=
  run .halt (fun x s =>
    if x.gid ≠ supGid then prot 4
    else if (s.core x.core).srec.isEmpty && (s.core x.core).ctlIn.isEmpty then .wait s .halt else .done s) s

end Sys2Proof.Machine
end

