-- ==== Sys2Proof/Machine/Windows.lean ====
section
/-! DEFINITION. Reflection windows (R120 to R133): arming, the window units, the receive side, and the fences FENCE and
RFENCE. A path of mapping entry e is numbered k: 0 to 7 a remote destination, 8 the loop-back. -/

namespace Sys2Proof.Machine
namespace State

/-! ### Paths of a mapping entry -/

/-- Device and receive window of a path (R123). -/
def pathDest (s : State) (e k : Nat) : Nat × Nat :=
  if k = 8 then (s.device, s.field (winOff e 0) 41 34)
  else
    let q := s.ctlQ (winOff e (2 + k / 2))
    (qf q (32 * (k % 2) + 19) (32 * (k % 2) + 8), qf q (32 * (k % 2) + 7) (32 * (k % 2)))

/-- The paths of an entry, from its quadword 0. -/
def pathsOf (q0 : DWord) : List Nat := List.range (qf q0 45 42) ++ (if qf q0 62 62 = 1 then [8] else [])

/-- Path states 0 idle, 1 arming, 2 live, 3 refused, 4 broken, 5 unreachable (R126). -/
def pathState (s : State) (e k : Nat) : Nat :=
  if k = 8 then s.field (winOff e 6) 35 32 else s.field (winOff e 6) (4 * k + 3) (4 * k)
def setPathState (s : State) (e k v : Nat) : State :=
  if k = 8 then s.setField (winOff e 6) 35 32 v else s.setField (winOff e 6) (4 * k + 3) (4 * k) v

def path (s : State) (e k : Nat) : Path := (s.paths.look (16 * e + k)).getD {}
def setPath (s : State) (e k : Nat) (p : Path) : State := { s with paths := s.paths.put (16 * e + k) p }

/-- The core that holds a group: the one where it made a store, or the one where it has been restored (R149). -/
def coreOf (s : State) (c uid : Nat) : Nat :=
  if (s.core c).groups.any fun p => p.2.uid == uid then c
  else ((s.cores.find? fun (_, k) => k.groups.any fun p => p.2.uid == uid).map (·.1)).getD c

/-- Waits for drained stores on the core of a group, and the open fences, look again. -/
def settled (s : State) (c uid : Nat) : State :=
  let c := s.coreOf c uid
  ((s.modCore c fun k => k.wake fun w => w == .drain).wakeFences).ringReleases c

/-- The event that performs the end of a command. -/
def endEvent (major c n : Nat) : Instr :=
  if major ≤ 0x62 then .copyComplete c n
  else if major = 0x65 ∨ major = 0x66 then .getPutComplete c n
  else if major = 0x67 then .bagQueryReply c n
  else if major = 0x79 then .collComplete c n
  else .matrixCommandComplete c n

/-- An engine command learns of a window write that failed (R131), and its end looks again. -/
def cmdWindow (s : State) (cl : Client) (bad : Bool) (addr : Nat := 0) : State :=
  match cl with
  | .cmd c n =>
    let s := if bad then s.modCore c fun k => { k with eq := k.eq.upd n fun x => { x with window := true, addr } } else s
    match (s.core c).eq.look n with
    | some x => if x.state = .committed then s.postOnce (endEvent x.major c n) else s
    | none => s
  | _ => s

/-- A copy of a store is applied, or discarded, on a path (R126, R131): a store applied on every path is forgotten. -/
def resolve (s : State) (e k seq : Nat) (lost : Bool) : State :=
  match s.sequenced.find? fun q => q.entry == e && q.paths.contains (k, seq, 0) with
  | none => s
  | some q =>
    let s := if lost ∧ (s.path e k).firstDrop.isNone then s.setPath e k { s.path e k with firstDrop := some seq } else s
    let q' : Sequenced := { q with
      paths := q.paths.map fun p => if p = (k, seq, 0) then (k, seq, if lost then 2 else 1) else p
      bad := q.bad.or (if lost then some (e, (s.pathDest e k).1, ((s.path e k).firstDrop.getD seq)) else none) }
    let closed := q'.paths.all fun p => p.2.2 ≠ 0
    let s := { s with sequenced :=
      if closed ∧ q'.bad.isNone then s.sequenced.erase q else s.sequenced.map fun x => if x = q then q' else x }
    let s := if closed then s.setField (winOff e 7) 31 0 (s.field (winOff e 7) 31 0 - 1) else s
    (s.cmdWindow q.client lost).settled q.core q.uid

/-- Discard every open copy of a path at the window unit, counting each in dropped (R126, R132). -/
def flushPath (s : State) (e k : Nat) : State :=
  s.sequenced.foldl (fun (s : State) q =>
    if q.entry ≠ e then s
    else q.paths.foldl (fun (s : State) p =>
      if p.1 = k ∧ p.2.2 = 0 then (s.bumpField (winOff e 7) 63 32).resolve e k p.2.1 true else s) s) s

/-- A copy was applied at its destination. -/
def ackCopy (s : State) (e k seq : Nat) : State := s.resolve e k seq false

/-- A copy was discarded at its destination: the path is broken (R132). -/
def nackCopy (s : State) (e k seq : Nat) : State :=
  let s := if s.pathState e k < 3 then s.setPathState e k 4 else s
  s.resolve e k seq true

/-- A path cannot be reached (R132): its unacknowledged copies are discarded and counted. A path of a disarmed entry that still has
copies on their way is one too. -/
def unreachable (s : State) (e k : Nat) : State :=
  let open_ := s.sequenced.any fun q => q.entry == e && q.paths.any fun p => p.1 == k && p.2.2 == 0
  (if s.pathState e k = 1 ∨ s.pathState e k = 2 ∨ (s.pathState e k = 0 ∧ open_ = true) then s.setPathState e k 5 else s).flushPath e k

/-- A packet that waited at a broken link is discarded (R389), and R132 applies to the path it served. -/
def lostPath (s : State) (path : Option (Nat × Nat)) : State :=
  match path with
  | some (e, k) => s.unreachable e k
  | none => s

/-! ### Arming (R125 to R128) -/

/-- A destination accepts or refuses an ARM (R124, R126), and writes the negotiated version (R127): the lower of the two majors, and
within it the lower of the minors; an entry of a higher major sets no bound on the minor. -/
def recvArm (s : State) (a : ArmMsg) : State × Bool :=
  let q0 := s.ctlQ (rxOff a.rx 0)
  let q1 := s.ctlQ (rxOff a.rx 1)
  let known := s.rxPaths.any fun p => p.src == a.srcDev && p.entry == a.entry && p.rx == a.rx
  let ok := qf q0 63 63 = 1 ∧ (qf q1 63 63 = 1 ∨ qf q1 62 51 = a.srcDev)
    ∧ 1 ≤ min a.major (qf q0 61 58) ∧ a.pages ≤ qf q1 28 0
    ∧ (qf q0 40 12 + qf q1 28 0) * 4096 ≤ s.product.hbmBytes - reservedBytes
    ∧ (known = true ∨ s.rxPaths.length < 1024)
  let major := min a.major (qf q0 61 58)
  let minor := if a.major = qf q0 61 58 then min a.minor (qf q0 57 54) else if a.major = major then a.minor else qf q0 57 54
  if ok then
    let p : RxPath := { src := a.srcDev, entry := a.entry, rx := a.rx, k := a.dest, epoch := a.epoch, expect := 1 }
    let s := (s.setField (rxOff a.rx 1) 50 47 major).setField (rxOff a.rx 1) 46 43 minor
    ({ s with rxPaths := p :: s.rxPaths.filter fun p => ¬ (p.src = a.srcDev ∧ p.entry = a.entry ∧ p.rx = a.rx) }, true)
  else (s, false)

/-- The bits of quadword 0 that the host writes (R123). -/
def winMask : DWord := 0xffc03ffc0fffffff

/-- An arm is refused (R125). -/
def armRefused (s : State) (e : Nat) (q0 : DWord) : Bool :=
  let q1 := s.ctlQ (winOff e 1)
  let lo := qf q0 27 0
  let n := qf q1 27 0
  n == 0 || decide (2 ^ 28 < lo + n) ||
  (List.range 256).any (fun f => f ≠ e && qf (s.ctlQ (winOff f 0)) 63 63 == 1 &&
    decide (lo < qf (s.ctlQ (winOff f 0)) 27 0 + qf (s.ctlQ (winOff f 1)) 27 0 ∧ qf (s.ctlQ (winOff f 0)) 27 0 < lo + n)) ||
  decide (8 < qf q0 45 42) || (qf q0 45 42 == 0 && qf q0 62 62 == 0) || qf q0 61 58 == 0 || qf q0 32 28 ≠ 0 ||
  qf q1 55 28 ≠ 0 || (List.range 8).any fun k => qf (s.ctlQ (winOff e (2 + k / 2))) (32 * (k % 2) + 31) (32 * (k % 2) + 20) ≠ 0

/-- Send the ARM of a path (R125); the loop-back's is received here. -/
def sendArm (s : State) (e k : Nat) : State :=
  let q0 := s.ctlQ (winOff e 0)
  let (dev, rx) := s.pathDest e k
  let a : ArmMsg := { srcDev := s.device, entry := e, dest := k, rx, epoch := qf q0 53 46,
                      pages := s.field (winOff e 1) 27 0, major := qf q0 61 58, minor := qf q0 57 54 }
  let s := (s.setPath e k {}).setPathState e k 1
  if dev = s.device then
    let (s, ok) := s.recvArm a
    s.post (.armReply e k ok (s.field (rxOff a.rx 1) 50 47) (s.field (rxOff a.rx 1) 46 43))
  else s.sendFar (s.agentCore (e % s.product.dies)) dev (.arm dev a) (some (e, k))

end State

/-- A write of quadword 0 with valid = 1 (R125). -/
def State.armWindow (s : State) (e : Nat) (qw0 : DWord) : State :=
  let old := s.ctlQ (State.winOff e 0)
  if 256 ≤ e ∨ qf old 63 63 = 1 then s
  else
    let keep := (old &&& ~~~State.winMask) ||| (qw0 &&& State.winMask)
    if s.armRefused e qw0 then (s.setCtl (State.winOff e 0) (qset (qset keep 63 63 0) 33 33 1))
    else
      let s := s.setCtl (State.winOff e 0) (qset (qset (qset keep 63 63 1) 33 33 0) 53 46 (qf old 53 46 + 1))
      let s := s.setField (State.winOff e 6) 35 0 0
      ((State.pathsOf qw0).foldl (fun (s : State) k => s.sendArm e k) s)

/-- The event of `State.armWindow`. -/
def execWindowArm (e : Nat) (qw0 : DWord) (s : State) : Host.Outcome State Fault Refusal := .next (s.armWindow e qw0)

/-- A write of quadword 0 with valid = 0 (R125, R126, R133). -/
def State.disarmWindow (s : State) (e : Nat) (qw0 : DWord) : State :=
  if 256 ≤ e then s
  else
    let old := s.ctlQ (State.winOff e 0)
    let s := s.setCtl (State.winOff e 0) (qset ((old &&& ~~~State.winMask) ||| (qw0 &&& State.winMask)) 63 63 0)
    ((List.range 9).foldl (fun (s : State) k =>
      if s.pathState e k = 1 ∨ s.pathState e k = 2 then s.setPathState e k 0 else s) s)

/-- The event of `State.disarmWindow`. -/
def execWindowDisarm (e : Nat) (qw0 : DWord) (s : State) : Host.Outcome State Fault Refusal := .next (s.disarmWindow e qw0)

/-- ARM_RECEIVE (R128): an ARM of another device; `dest` is the path's number there. -/
def execArmReceive (a : ArmMsg) (s : State) : Host.Outcome State Fault Refusal :=
  let (s, ok) := s.recvArm a
  .next (s.sendFar (s.agentCore 0) a.srcDev
    (.armReply a.srcDev a.entry a.dest ok (s.field (State.rxOff a.rx 1) 50 47) (s.field (State.rxOff a.rx 1) 46 43)))

/-- ARM_REPLY (R126): the path turns live, or refused with every copy sequenced on it discarded. -/
def execArmReply (e k : Nat) (ok : Bool) (_major _minor : Nat) (s : State) : Host.Outcome State Fault Refusal :=
  let arming := s.pathState e k = 1
  if ok then .next (if arming then s.setPathState e k 2 else s)
  else if arming ∨ s.pathState e k = 0 then .next ((if arming then s.setPathState e k 3 else s).flushPath e k)
  else .next s

/-! ### The window unit -/

namespace State

/-- Send the copy of a sequenced store on a path (R121, R122). -/
def sendCopy (s : State) (r : RStore) (k seq : Nat) : State :=
  let (dev, rx) := s.pathDest r.entry k
  let at_ := fun (i : Nat) => r.bytes.find? fun b => b.va = r.off + i
  let x : Copy := { epoch := s.field (winOff r.entry 0) 53 46, seq, srcDev := s.device, entry := r.entry, rx, offset := r.off,
                    mask := (List.range 48).filter fun i => (at_ i).isSome,
                    data := (List.range 48).map fun i => ((at_ i).map (·.val)).getD 0,
                    poisonHdr := false, poisonData := r.poison }
  -- the loop-back path is delivered on VN4 at the die that homes the bytes (R130)
  if dev = s.device then
    s.send (s.agentCore (r.entry % s.product.dies)) (s.agentCore (s.hbmHome (s.field (rxOff rx 0) 40 12 * 4096 + r.off)).1) 4 2
      (.reflectedCopyArrival x) true 5
  else s.sendFar (s.agentCore (r.entry % s.product.dies)) dev (.copy dev x) (some (r.entry, k)) 2

/-- Sequence a store on every path of its entry: the copy is sent, or discarded on a refused, broken or unreachable path
(R121, R126, R129). -/
def sequence (s : State) (r : RStore) : State :=
  let e := r.entry
  let q : Sequenced := { id := r.id, core := r.core, uid := r.uid, entry := e, client := r.client, lanes := r.lanes,
                         paths := (pathsOf (s.ctlQ (winOff e 0))).map fun k => (k, ((s.path e k).seq + 1) % 2 ^ 32, 0) }
  let s := { s with sequenced := s.sequenced ++ [q] }.setField (winOff e 7) 31 0 (s.field (winOff e 7) 31 0 + 1)
  q.paths.foldl (fun (s : State) (k, seq, _) =>
    let s := s.setPath e k { s.path e k with seq }
    if s.pathState e k = 1 ∨ s.pathState e k = 2 then s.sendCopy r k seq
    else (s.bumpField (winOff e 7) 63 32).resolve e k seq true) s

end State

/-- REFLECTED_STORE_SEQUENCE (R120, R121, R133): the window unit of entry e takes the store that has reached it, by the number that
entry and store make; one that finds the entry changed lies outside every window. -/
def execReflectedStoreSequence (n : Nat) (s : State) : Host.Outcome State Fault Refusal :=
  let e := n % 256
  let id := n / 256
  match s.rstores.find? fun r => r.entry == e && r.id == id with
  | none => .next s
  | some r =>
    let s := { s with rstores := s.rstores.filter fun x => x.id ≠ r.id }
    let q1 := s.ctlQ (State.winOff e 1)
    let inside := decide (s.field (State.winOff e 0) 63 63 = 1) && decide (qf q1 63 56 = r.ctx)
      && r.bytes.all fun b => decide (b.va < qf q1 27 0 * 4096)
    match r.client, inside with
    | .store c key _, true =>
      let s := s.sequence r
      let mine := (s.core c).sbuf.filter fun (_, x) => x.uid == r.uid && x.instr == key
      let s := mine.foldl (fun (s : State) (j, _) => (s.modCore c fun k => { k with sbuf := k.sbuf.upd j fun x =>
        { x with bytes := x.bytes.filter fun b => ¬ (b.sent ∧ r.vas.contains b.va) } }).retireEntry c j) s
      .next (s.settled r.core r.uid)
    | .store c key page, false =>
      -- every page of the sector, with the instruction's other sectors on those pages alone
      let pages := (page :: r.vas.map fun a => a / 4096 * 4096).dedup
      let mine := fun (cl : Client) => match cl with
        | .store c' key' _ => c' == c && key' == key
        | _ => false
      let s := { s with rstores := s.rstores.filter fun x =>
        ¬ (mine x.client = true ∧ x.uid = r.uid ∧ (x.vas.all fun a => pages.contains (a / 4096 * 4096)) = true) }
      .next ((pages.foldl (fun (s : State) page => s.windowFault c r.uid key page) s).settled r.core r.uid)
    | _, true => .next (((s.sequence r).cmdWindow r.client false).settled r.core r.uid)
    | _, false => .next ((s.cmdWindow r.client true (r.vas.headD 0)).settled r.core r.uid)

/-- COPY_ACKNOWLEDGE (R123, R131); a number from 2³² up is that of a NACK within the package (R132). -/
def execCopyAcknowledge (e k seq : Nat) (s : State) : Host.Outcome State Fault Refusal :=
  .next (if seq < 2 ^ 32 then s.ackCopy e k seq else s.nackCopy e k (seq - 2 ^ 32))

/-- NACK (R132). -/
def execNack (e k seq : Nat) (s : State) : Host.Outcome State Fault Refusal := .next (s.nackCopy e k seq)

/-- PATH_UNREACHABLE_TIMEOUT (R132). -/
def execPathUnreachableTimeout (e k : Nat) (s : State) : Host.Outcome State Fault Refusal := .next (s.unreachable e k)

/-! ### The receive side -/

/-- REFLECTED_COPY_ARRIVAL (R128, R129, R132): applied in sequence at its home slice, or discarded. -/
def execReflectedCopyArrival (x : Copy) (s : State) : Host.Outcome State Fault Refusal :=
  match s.rxPaths.find? fun p => p.src == x.srcDev && p.entry == x.entry && p.rx == x.rx && p.epoch == x.epoch with
  | none => .next s
  | some p =>
    let q0 := s.ctlQ (State.rxOff x.rx 0)
    let pages := s.field (State.rxOff x.rx 1) 28 0
    let extent := x.mask.foldl (fun a i => max a (x.offset + i + 1)) x.offset
    let home := s.agentCore (s.hbmHome (qf q0 40 12 * 4096 + x.offset)).1
    let put := fun (s : State) (p' : RxPath) => { s with rxPaths := s.rxPaths.map fun y => if y = p then p' else y }
    -- the numbers wrap: how far the copy lies ahead
    let ahead := (x.seq + 2 ^ 32 - p.expect) % 2 ^ 32
    if ¬ p.broken ∧ 0 < ahead ∧ ahead < 2 ^ 31 then .next (s.post (.reflectedCopyArrival x))
    else if ¬ p.broken ∧ 2 ^ 31 ≤ ahead then .next s
    else if p.broken ∨ qf q0 63 63 = 0 ∨ pages * 4096 < extent ∨ x.poisonHdr then
      let s := (put s { p with broken := true }).bumpField (State.rxOff x.rx 1) 42 35
      .next (if x.srcDev = s.device then s.send home (s.agentCore (x.entry % s.product.dies)) 5 1 (.copyAcknowledge x.entry p.k (2 ^ 32 + x.seq))
        else s.sendFar home x.srcDev (.nack x.srcDev x.entry p.k x.seq))
    else
      let base := qf q0 40 12 * 4096 + x.offset
      let s := x.mask.foldl (fun (s : State) i => s.homeWrite .hbm (base + i) [x.data.getD i 0] x.poisonData)
        (put s { p with expect := (x.seq + 1) % 2 ^ 32 })
      .next (if x.srcDev = s.device then s.send home (s.agentCore (x.entry % s.product.dies)) 5 1 (.copyAcknowledge x.entry p.k x.seq)
        else s.sendFar home x.srcDev (.ack x.srcDev x.entry p.k x.seq))

/-! ### Fences -/

/-- A fence covers a reflected store (R131); all that its group made on another core precedes it (R149). -/
def RFence.covers (f : RFence) (core uid id : Nat) (cl : Client) : Bool :=
  (uid == f.uid && core != f.core) || ((f.scope ≠ .grp || uid == f.uid) &&
  f.marks.any fun (c, sb, rs) => c == core && (match cl with
    | .store _ key _ => decide (key < sb)
    | _ => decide (id < rs)))

namespace State

/-- Every covered reflected store has reached its window unit and is applied or discarded on every path (R131). -/
def fenceClear (s : State) (f : RFence) : Bool :=
  f.markers.isEmpty &&
  f.marks.all (fun (c, sb, _) => !(s.core c).sbuf.any fun (key, e) =>
    decide (key < sb) && (f.scope ≠ .grp || e.uid == f.uid) && (e.ticket.isSome || e.bytes.any fun b => !b.sent)) &&
  !s.rstores.any (fun r => f.covers r.core r.uid r.id r.client) &&
  !s.sequenced.any fun q => f.covers q.core q.uid q.id q.client && q.paths.any fun p => p.2.2 == 0

/-- The first covered store that was discarded on a path (R131). -/
def fenceBad (s : State) (f : RFence) : Option (Nat × Nat × Nat) :=
  (s.sequenced.find? fun q => q.bad.isSome && f.covers q.core q.uid q.id q.client).bind (·.bad)

/-- The marks of a fence at a core now. -/
def markAt (s : State) (c : Nat) : Nat × Nat × Nat := (c, (s.core c).nextSb, s.nextRstore)

/-- Open a fence; its marker travels to every other core of the extent of its scope (R131). -/
def openFence (s : State) (f : RFence) : State :=
  let others := match f.scope with
    | .grp | .core => []
    | .die => (s.dieCores (s.dieOf f.core)).filter (· ≠ f.core)
    | .pkg | .sys => s.present.filter (· ≠ f.core)
  ({ s with fences := s.fences.put s.nextFence { f with markers := others, marks := [s.markAt f.core] },
            nextFence := s.nextFence + 1 }).posts (others.map fun c => .rfenceMarker s.nextFence c)

/-- A fence that threads of the bundle x stand at. -/
def standsAt (x : Ctx) (f : RFence) : Bool :=
  f.core == x.core && f.gid == x.gid && f.uid == x.g.uid && f.pc == x.pc && f.resume.isNone && (f.lanes &&& x.lanes) != 0

/-- Open a fence for the threads of the bundle that do not stand at one already. -/
def joinFence (s : State) (x : Ctx) (sc : Scope) : State :=
  let rest := s.fences.foldl (fun (m : Word) f => if standsAt x f.2 then m &&& ~~~f.2.lanes else m) x.lanes
  if rest = 0 then s
  else s.openFence { core := x.core, gid := x.gid, uid := x.g.uid, scope := sc, lanes := rest, pc := x.pc, markers := [], marks := [] }

/-- The fences of a bundle are done. -/
def closeFences (s : State) (x : Ctx) : State := { s with fences := s.fences.filter fun f => !standsAt x f.2 }

/-- The store-buffer entries that the bundle's group made before the fences it stands at (R352). -/
def storesBefore (s : State) (x : Ctx) : Bool :=
  (s.core x.core).sbuf.any fun (key, e) => e.uid == x.g.uid &&
    s.fences.any fun f => standsAt x f.2 && f.2.marks.any fun m => decide (key < m.2.1)

/-- The cause 0x10 trap of a discarded path (R131, R339). -/
def pathTrap (b : Nat × Nat × Nat) : Trap := mkTrap 0x10 (2 ^ 31 + b.2.1 * 256 + b.1) b.2.2

/-- The conditions of a fence on the accesses of the bundle's threads (R139, R240). -/
def fenced (s : State) (x : Ctx) (sc : Scope) : Bool := s.released x sc

end State

/-- RFENCE_MARKER (R131): the marker of fence f reaches core c. -/
def execRfenceMarker (f c : Nat) (s : State) : Host.Outcome State Fault Refusal :=
  .next ({ s with fences := s.fences.upd f fun x =>
    if x.markers.contains c then { x with markers := x.markers.erase c, marks := x.marks ++ [s.markAt c] } else x }.wakeFences)

/-- `FENCE` (R139, R240). -/
def execFence (sc : Scope) (s : State) : Host.Outcome State Fault Refusal :=
  run (.fence sc) (fun x s =>
    if ¬ s.fenced x sc then .wait s .drain
    else
      let bad := if sc = .sys then (s.sequenced.find? fun q => q.bad.isSome && State.ofThreads x.g.uid x.lanes q.uid q.lanes).bind (·.bad)
        else none
      let s := s.acquire x.core sc
      .done (match bad with
        | some b => s.pendTrap x.core x.gid x.g.uid x.g.ctx { State.pathTrap b with pc := x.pc, lanes := x.lanes }
        | none => s)) s

/-- `RFENCE` (R131, R337): opened when the bundle first performs it, done when every store it covers is settled. -/
def execRfence (sc : Scope) (s : State) : Host.Outcome State Fault Refusal :=
  run (.rfence sc) (fun x s =>
    let s := s.joinFence x sc
    let open_ := s.fences.filter fun f => State.standsAt x f.2
    if s.fenced x sc && open_.all fun f => s.fenceClear f.2 then
      let bad := open_.findSome? fun f => s.fenceBad f.2
      let s := (s.closeFences x).acquire x.core sc
      .done (match bad with
        | some b => s.pendTrap x.core x.gid x.g.uid x.g.ctx { State.pathTrap b with pc := x.pc, lanes := x.lanes }
        | none => s)
    else .wait s .drain) s

end Sys2Proof.Machine
end

