-- ==== Sys2Proof/Machine/Rings.lean ====
section
/-! DEFINITION. Ring instructions (R47 to R50, R303). -/

namespace Sys2Proof.Machine

/-- Operand checks of the ring instructions (R303): alignment, allocation, the descriptor and the count. `q0` is quadword 0 as a
waiting action has read it (R50). -/
def ringTrap (s : State) (x : Ctx) (v n : Nat) (q0 : Option DWord := none) : Option Trap :=
  let (base, limit) := s.span x
  (alignTrap 32 v).or ((storeTrap limit 32 v).or
    (let q0 := q0.getD ((s.core x.core).ringQ (base + v) 0)
     if ringValid q0 limit && decide (1 ≤ n ∧ n ≤ qf q0 63 48) then none else some (mkTrap 5 3 v)))

/-- A ring action that finds quadword 1 broken sets underflow, leaves the wait list and traps precisely (R50). -/
def ringBroken (s : State) (x : Ctx) (d v : Nat) (me : Option RingWait) : Res :=
  let s := s.modCore x.core fun k => { k.ringFlag d 9 with ringWaits := k.ringWaits.filter fun w => some w ≠ me }
  .moved (s.preciseTrap x (mkTrap 5 3 v))

/-- The waiting action of some thread of the bundle at this instruction (R49, R165). -/
def ringMine (s : State) (x : Ctx) (desc : Nat) (cons : Bool) : Option RingWait :=
  (s.core x.core).ringWaits.find? fun w => w.desc == desc && w.cons == cons && w.gid == x.gid && w.pc == x.pc && (w.lanes &&& x.lanes) != 0

/-- CBWAIT (R48, R49): waits in arrival order of its direction, behind the group's own CBREL on the descriptor. Two bundles that
reach it in different cycles wait, and take, each for itself (R165). -/
def cbwait (cons : Bool) (d a : SReg) (n : USrc) (x : Ctx) (s : State) : Res :=
  let k := s.core x.core
  let v := ((s.asIssued x).getS x.gid a.toNat).toNat
  let n := ((s.asIssued x).usrc x.gid n).toNat
  let desc := (s.span x).1 + v
  let me := ringMine s x desc cons
  let x := { x with lanes := (me.map fun w => w.lanes &&& x.lanes).getD x.lanes }
  match ringTrap s x v n (me.map (·.q0)) with
  | some t => .moved (s.preciseTrap x t)
  | none =>
    if k.releases.any fun r => r.uid == x.g.uid && r.desc == desc then .moved (s.waitAt x .drain)
    else if k.storeBad desc 32 then .moved ((s.pendTrap x.core x.gid x.g.uid x.g.ctx { mkTrap 0x0b 0 v with pc := x.pc, lanes := x.lanes }).advance x)
    else
      let q0 := (me.map (·.q0)).getD (k.ringQ desc 0)
      let q2 := (me.map (·.q2)).getD (k.ringQ desc 2)
      if ¬ ringSound q0 (k.ringQ desc 1) then ringBroken s x desc v me
      else
        let first := (k.ringWaits.find? fun w => w.desc == desc && w.cons == cons).all fun w => some w = me
        let have_ := if cons then qf (k.ringQ desc 1) 63 48 else qf (k.ringQ desc 1) 47 32
        if first ∧ n ≤ have_ then
          let (k, i) := ({ k with ringWaits := k.ringWaits.filter fun w => some w ≠ me } : Core).ringTake desc q0 n cons
          let s := (s.setCore x.core k).writeS x d.toNat (w32 i)
          .moved ((if cons then s.acquire x.core (scopeOf (qf q2 5 3)) else s).advance x)
        else
          let k := if me.isSome then k
            else { k with ringWaits := k.ringWaits ++ [{ desc, cons, gid := x.gid, pc := x.pc, lanes := x.lanes, q0, q2 }] }
          .moved ((s.setCore x.core k).waitAt x (.ring desc cons))

/-- CBREL (R48, R303): the bundle goes on, and the release and the update follow in the order of the bank. -/
def cbrel (cons : Bool) (a : SReg) (n : USrc) (x : Ctx) (s : State) : Res :=
  let k := s.core x.core
  let v := (k.getS x.gid a.toNat).toNat
  let n := (k.usrc x.gid n).toNat
  let desc := (s.span x).1 + v
  match ringTrap s x v n with
  | some t => .trap t
  | none =>
    if k.storeBad desc 32 then fatalAt x s 0 v 0x0b
    else if ¬ ringSound (k.ringQ desc 0) (k.ringQ desc 1) then ringBroken s x desc v none
    else
      let q2 := k.ringQ desc 2
      let r : RingRel := { uid := x.g.uid, gid := x.gid, ctx := x.g.ctx, pc := x.pc, lanes := x.lanes, desc, off := v, n, cons, q0 := k.ringQ desc 0, q2,
                           scope := scopeOf (if cons then qf q2 5 3 else qf q2 2 0), sb := k.nextSb, op := k.nextOp, rs := s.nextRstore }
      .done ((s.setCore x.core { k with releases := k.releases ++ [r] }).ringReleases x.core)

/-- `CBWAIT.prod` (R48, R303). -/
def execCbwaitProd (d a : SReg) (n : USrc) (s : State) : Host.Outcome State Fault Refusal :=
  run (.cbwaitProd d a n) (cbwait false d a n) s
/-- `CBWAIT.cons` (R48, R303). -/
def execCbwaitCons (d a : SReg) (n : USrc) (s : State) : Host.Outcome State Fault Refusal :=
  run (.cbwaitCons d a n) (cbwait true d a n) s
/-- `CBREL.prod` (R48, R303). -/
def execCbrelProd (a : SReg) (n : USrc) (s : State) : Host.Outcome State Fault Refusal :=
  run (.cbrelProd a n) (cbrel false a n) s
/-- `CBREL.cons` (R48, R303). -/
def execCbrelCons (a : SReg) (n : USrc) (s : State) : Host.Outcome State Fault Refusal :=
  run (.cbrelCons a n) (cbrel true a n) s

end Sys2Proof.Machine
end

