-- ==== Sys2Proof/Machine/Engines.lean ====
section
/-! DEFINITION. The engine queue (R304 to R307, R143): the issue of a command, its conditions, the engines' reads and writes,
and the completion signal. Engines are numbered 0 copy, 1 collective unit, 2 matrix sequencer, 3 memory port. -/

namespace Sys2Proof.Machine

/-- The engine of a command by its major (R304). -/
def engineOf (major : Nat) : Nat :=
  if major ≤ 0x62 then 0 else if major = 0x65 ∨ major = 0x66 ∨ major = 0x79 then 1 else if major = 0x67 then 3 else 2

/-- Number of an engine's translation cache (R16). -/
def engineCache : Nat → Nat
  | 0 => 2
  | 1 => 4
  | 2 => 3
  | _ => 5

/-! ### Issue (R304) -/

/-- Checks at issue of every command: alignment, then allocation. -/
def engineTrap (s : State) (x : Ctx) (desc ctr : Nat) : Option Trap :=
  let (_, limit) := s.span x
  (alignTrap 64 desc).or ((alignTrap 4 ctr).or ((storeTrap limit 64 desc).or (storeTrap limit 4 ctr)))

/-- A free slot for a command of a group: a private one of a base set or a traversal thread, else one of the pool, else none
(R304). -/
def Core.freeSlot (k : Core) (gid : Nat) : Option Bool :=
  if gid ≠ supGid ∧ (k.eq.filter fun (_, q) => q.gid = gid && q.priv).length < 2 then some true
  else if (k.eq.filter fun (_, q) => !q.priv).length < 256 then some false
  else none

/-- The tag of the group that a COLL names: the parameter block at an address of the core store holds its offset (R330, R331). -/
def Core.collTag (k : Core) (base desc : Nat) : Nat := leNat (k.readStore (base + leNat (k.readStore (base + desc) 4) + 4) 2)

/-- A COLL that a team issues with a tag has the next instance number of it (R332). -/
def Core.countColl (k : Core) (team tag : Nat) : Nat × Core :=
  let n := ((k.collCount.find? fun x => x.1 = team ∧ x.2.1 = tag).map (·.2.2)).getD 0
  (n, { k with collCount := (team, tag, n + 1) :: k.collCount.filter fun x => ¬ (x.1 = team ∧ x.2.1 = tag) })

/-- Issue a command: it takes a slot and stands in its engine's queue, or the bundle stalls (R304, R305). -/
def engineIssue (major code : Nat) (e : EngOps) (x : Ctx) (s : State) : Res :=
  let k := s.core x.core
  let m := s.marksOf x
  let desc := ((s.asIssued x).getS x.gid e.a.toNat).toNat
  let ctr := ((s.asIssued x).usrc x.gid e.b).toNat
  match engineTrap s x desc ctr with
  | some t => .trap t
  | none =>
    match k.freeSlot x.gid with
    | none => .wait s .engine
    | some priv =>
      let (inst, k) := if major = 0x79 then k.countColl x.g.team (k.collTag (s.span x).1 desc) else (0, k)
      let q : Cmd := { uid := x.g.uid, gid := x.gid, team := x.g.team, ctx := x.g.ctx, major, code, desc, ctr,
                       scope := if e.acq || e.rel then e.scope else .core, acq := e.acq, rel := e.rel, lanes := x.lanes, pc := x.pc,
                       priv, inst, sbMark := m.1, opMark := m.2.1, rsMark := m.2.2 }
      .done ((s.setCore x.core { k with eq := k.eq.put k.nextCmd q, nextCmd := k.nextCmd + 1 }).postOnce
        (.engineTakeCommand x.core (engineOf major)))

/-- `CPY` (R308). -/
def execCpy (e : EngOps) (s : State) : Host.Outcome State Fault Refusal := run (.cpy e) (engineIssue 0x60 0 e) s
/-- `CPYSL` (R308). -/
def execCpysl (e : EngOps) (s : State) : Host.Outcome State Fault Refusal := run (.cpysl e) (engineIssue 0x61 0 e) s
/-- `CHAIN` (R308, R311). -/
def execChain (e : EngOps) (s : State) : Host.Outcome State Fault Refusal := run (.chain e) (engineIssue 0x62 0 e) s
/-- `GET` (R333). -/
def execGet (e : EngOps) (s : State) : Host.Outcome State Fault Refusal := run (.get e) (engineIssue 0x65 0 e) s
/-- `PUT` (R333). -/
def execPut (e : EngOps) (s : State) : Host.Outcome State Fault Refusal := run (.put e) (engineIssue 0x66 0 e) s
/-- `BAGQ` (R337). -/
def execBagq (e : EngOps) (s : State) : Host.Outcome State Fault Refusal := run (.bagq e) (engineIssue 0x67 0 e) s
/-- `MMA` (R282). -/
def execMma (c : MmaCode) (e : EngOps) (s : State) : Host.Outcome State Fault Refusal :=
  run (.mma c e) (engineIssue 0x68 c.code.toNat e) s
/-- `ACCLD` (R282). -/
def execAccld (e : EngOps) (s : State) : Host.Outcome State Fault Refusal := run (.accld e) (engineIssue 0x69 0 e) s
/-- `ACCST` (R282). -/
def execAccst (e : EngOps) (s : State) : Host.Outcome State Fault Refusal := run (.accst e) (engineIssue 0x6a 0 e) s
/-- `COLL.ag` (R331). -/
def execCollAg (e : EngOps) (s : State) : Host.Outcome State Fault Refusal := run (.collAg e) (engineIssue 0x79 0 e) s
/-- `COLL.rs` (R331). -/
def execCollRs (e : EngOps) (s : State) : Host.Outcome State Fault Refusal := run (.collRs e) (engineIssue 0x79 1 e) s
/-- `COLL.a2a` (R331). -/
def execCollA2a (e : EngOps) (s : State) : Host.Outcome State Fault Refusal := run (.collA2a e) (engineIssue 0x79 2 e) s
/-- `COLL.bar` (R331). -/
def execCollBar (e : EngOps) (s : State) : Host.Outcome State Fault Refusal := run (.collBar e) (engineIssue 0x79 3 e) s

/-! ### A command's core store, descriptor fields and accesses -/

/-- Allocation base and limit of a command's offsets (R8, R345). -/
def State.cmdSpan (s : State) (c : Nat) (q : Cmd) : Nat × Nat := storeSpan (s.team c q.team) q.gid

/-- n bytes of a block from byte i as a number. -/
def bytesAt (b : List Byte) (i n : Nat) : Nat := leNat ((b.drop i).take n)

/-- Some byte of a range of a block is set. -/
def anySet (b : List Byte) (i n : Nat) : Bool := ((b.drop i).take n).any fun x => x ≠ 0

/-- The offsets off to off + n − 1 lie in an allocation (R8). -/
def inAlloc (limit off n : Nat) : Bool := decide (off + n ≤ limit)

/-- An address quadword of source 0 or 1 is well formed (R284, R7, R8). -/
def addrOk (limit : Nat) (global : Bool) (q n : Nat) : Bool :=
  if global then decide (q < 2 ^ 57 ∧ q + n ≤ 2 ^ 57) else decide (q < 2 ^ 23) && inAlloc limit q n

/-- What an engine access finds. -/
inductive EngAcc
  | ok (s : State) (bs : List Byte)
  | poison (s : State)
  /-- Status FAULT with the cause of its trap, and the response code or 2 for a forbidden target (R312). -/
  | fault (s : State) (cause resp : Nat)
  /-- A write outside every transmit window (R120). -/
  | window (s : State)
  | wait (s : State)

namespace State

/-- Where a global address of an engine leads: the supervisor's are HBM offsets (R345). -/
def engXlate (s : State) (c eng ctx va : Nat) (write : Bool) (who : Instr) : Xl :=
  if ctx = 255 then .ok .hbm va s else s.xlate c (engineCache eng) ctx va write false (.ev who)

/-- Read n bytes, within one page, on an engine's behalf (R14, R112, R143, R312). The copy engine's read of the window aperture
outside every transmit window has the cause that R14 gives its column. -/
def engRead (s : State) (c eng ctx : Nat) (who : Instr) (global : Bool) (base addr n : Nat) : EngAcc :=
  if ¬ global then
    (if (s.core c).storeBad (base + addr) n then .poison s else .ok s ((s.core c).readStore (base + addr) n))
  else
    match s.engXlate c eng ctx addr false who with
    | .wait s => .wait s
    | .fail code s => .fault s 3 code
    | .ok ap off s =>
      if eng = 0 ∧ ap = .window ∧ (s.windowAt off).isNone then .fault s 0x10 0
      else if ¬ (ctx = 255 ∨ s.readable ap off) then .fault s 5 2
      else if s.targetWaits ap off then .wait (s.post who)
      else
        let (s, bs, bad) := s.targetRead ap off n
        if bad then (if ap = .cap then .fault s 0x0b 0 else .poison s) else .ok s bs

/-- Write bytes, within one page, on an engine's behalf (R14, R112, R120, R122, R143). -/
def engWrite (s : State) (c eng ctx uid : Nat) (who : Instr) (n : Nat) (global : Bool) (base addr : Nat) (bs : List Byte) : EngAcc :=
  if ¬ global then .ok (s.modCore c fun k => k.writeStore (base + addr) bs) []
  else
    match s.engXlate c eng ctx addr true who with
    | .wait s => .wait s
    | .fail code s => .fault s 4 code
    | .ok ap off s =>
      match ap with
      | .window =>
        match s.windowAt off with
        | none => .window s
        | some w =>
          if qf (s.ctlQ (winOff w 1)) 63 56 ≠ ctx then .window s
          else
            let rel := off - qf (s.ctlQ (winOff w 0)) 27 0 * 4096
            let all := bs.zipIdx.map fun (b, i) => ({ va := rel + i, val := b, lane := 0 } : SByte)
            let secs := (all.map fun b => b.va / 48).dedup
            let lanes := (((s.core c).eq.look n).map Cmd.lanes).getD 0
            .ok (secs.foldl (fun (s : State) sec =>
              let r : RStore := { entry := w, core := c, uid, ctx, off := sec * 48, id := s.nextRstore, lanes,
                                  bytes := all.filter (fun b => b.va / 48 = sec), vas := [addr], client := .cmd c n }
              ({ s with rstores := s.rstores ++ [r], nextRstore := s.nextRstore + 1 } : State).send c (s.agentCore (w % s.product.dies)) 4 2
                (.reflectedStoreSequence (partNo 256 w r.id)) true) s) []
      | .hbm | .cap | .store =>
        if ¬ (ctx = 255 ∨ s.readable ap off) then .fault s 5 2
        else if ap = .cap ∧ s.offline (off / 2 ^ 39) then .fault s 4 0
        else if s.targetWaits ap off then .wait (s.post who)
        else if ap = .cap ∧ bs.zipIdx.any (fun p => s.wordBad (s.homeOf .cap (off + p.2))) then .fault s 4 0
        else .ok (s.targetWrite ap off bs) []
      | .control | .outside => .fault s 5 2

/-! ### Commands in the queue -/

def cmd? (s : State) (c n : Nat) : Option Cmd := (s.core c).eq.look n
def modCmd (s : State) (c n : Nat) (f : Cmd → Cmd) : State := s.modCore c fun k => { k with eq := k.eq.upd n f }

/-- A command has its outcome: its completion follows. -/
def endCmd (s : State) (c n : Nat) (outcome cause : Nat := 0) (addr resp : Nat := 0) : State :=
  match s.cmd? c n with
  | none => s
  | some q => (s.modCmd c n fun q => { q with state := .committed, outcome, cause, addr, resp }).postOnce (endEvent q.major c n)

/-- A command's end by an access that failed: codes of FAULT, POISON and WINDOW of its engine. -/
def failAcc (s : State) (c n : Nat) (faultCode poisonCode windowCode addr : Nat) : EngAcc → State
  | .ok _ _ => s
  | .wait s' => s'
  | .poison s' => s'.endCmd c n poisonCode 0x0b addr
  | .fault s' cause resp => s'.endCmd c n faultCode cause addr resp
  | .window s' => s'.endCmd c n windowCode 0x10 addr

/-- The trap of a command's status (R339, R446, R447). One of a COLL names its group descriptor too (R332). -/
def cmdTrap (q : Cmd) : Option Trap :=
  let block := q.desc + (if q.major = 0x79 then bytesAt q.block 0 4 else 0) * 2 ^ 32
  let t := match q.cause with
    | 0 => none
    | 3 => some (mkTrap 3 (0x100 + q.resp) q.addr)
    | 4 => some (mkTrap 4 (2 ^ 31 + q.resp) q.addr)
    | 5 => some (if q.resp = 2 then mkTrap 5 2 q.addr else mkTrap 5 (6 + 256 * q.outcome) block)
    | 0x08 => some (mkTrap 8 q.outcome block)
    | 0x0b => some (mkTrap 0x0b 0x100 q.addr)
    | 0x0f => some (mkTrap 0x0f q.outcome q.desc)
    | k => some (mkTrap k q.resp q.addr)
  t.map fun t => { t with pc := q.pc, lanes := q.lanes, desc := w32 q.desc }

/-- The window writes of a command that a release waits for (R143): sequenced, and with a release flag applied or discarded
on every path. -/
def windowOpen (s : State) (c n : Nat) (rel : Bool) : Bool :=
  s.rstores.any (fun r => r.client == .cmd c n) ||
  (rel && s.sequenced.any fun q => q.client == .cmd c n && q.paths.any fun p => p.2.2 == 0)

/-- A window write of the command that was turned away, or discarded on a path, before the status is written: the status reports it
with the code of a write outside every window (R131). -/
def lateWindow (s : State) (c n : Nat) (q : Cmd) (code : Nat) : Cmd :=
  if q.outcome ≠ 0 then q
  else
    match (s.sequenced.find? fun x => x.client == .cmd c n && x.bad.isSome).bind (·.bad) with
    | some (e, dev, seq) => { q with outcome := code, cause := 0x10, resp := 2 ^ 31 + dev * 256 + e, addr := seq }
    | none => if q.window then { q with outcome := code, cause := 0x10 } else q

/-- The window writes of a restored command, still known by the core and number that it had, become those of its new number (R149). -/
def renameCmd (s : State) (was : Option (Nat × Nat)) (c n : Nat) : State :=
  match was with
  | none => s
  | some (c0, n0) =>
    let re := fun (cl : Client) => if cl = .cmd c0 n0 then .cmd c n else cl
    { s with
      rstores := s.rstores.map fun r => { r with client := re r.client }
      sequenced := s.sequenced.map fun q => { q with client := re q.client } }

/-- A slot has freed: restored commands that found none enter (R359). -/
def admitCmds (s : State) (c : Nat) : State :=
  match (s.core c).eqWait with
  | [] => s
  | q :: rest =>
    if q.priv ∨ ((s.core c).eq.filter fun (_, y) => !y.priv).length < 256 then
      ((s.renameCmd q.was c (s.core c).nextCmd).modCore c fun k => { k with
        eq := k.eq.put k.nextCmd { q with was := none }, nextCmd := k.nextCmd + 1, eqWait := rest }).postOnce
        (.engineTakeCommand c (engineOf q.major))
    else s

/-- The completion signal: the slot frees, and the trap of the status pends (R304, R312). -/
def finishCmd (s : State) (c n : Nat) (extra : List Trap := []) : State :=
  match s.cmd? c n with
  | none => s
  | some q =>
    let s := s.modCore c fun k => ({ k with eq := k.eq.drop n } : Core).wake fun (w : Wait) => w == Wait.engine
    let s := s.admitCmds c
    let s := ((cmdTrap q).toList ++ extra).foldl (fun (s : State) t => s.pendTrap c q.gid q.uid q.ctx t [] q.team) s
    let s := if (s.core c).eq.any fun (_, y) => engineOf y.major == engineOf q.major && y.state == .queued then
        s.postOnce (.engineTakeCommand c (engineOf q.major)) else s
    match s.group? c q.gid with
    | some g => if g.uid = q.uid ∧ ¬ g.ending then s else s.postOnce (.groupEnd c q.gid)
    | none => s.postOnce (.groupEnd c q.gid)

/-- Add 1 to a 32-bit completion counter (R144). -/
def bumpCounter (s : State) (c a : Nat) : State := s.modCore c fun k => k.putStore32 a ((k.store32 a + 1) % 2 ^ 32)

/-- The completion signal of a command as an increment of the counter at a team-relative offset. -/
def signalAt (s : State) (c n ctr : Nat) : State :=
  match s.cmd? c n with
  | none => s
  | some q => (s.bumpCounter c ((s.cmdSpan c q).1 + ctr)).finishCmd c n

/-- The completion signal on the counter of the instruction. -/
def signal (s : State) (c n : Nat) : State := s.signalAt c n (((s.cmd? c n).map Cmd.ctr).getD 0)

end State

/-! ### Conditions (R305, R307, R280) -/

/-- Team-relative bands that a matrix command's block names (R280). -/
def bandsNamed (b : List Byte) (acc : Bool) : List Nat :=
  let w := if acc then bytesAt b 0 4 else bytesAt b 4 4
  (List.range 8).filter fun i => decide (bits w 5 0 ≤ 8 * i + 7 ∧ 8 * i ≤ bits w 5 0 + bits w 14 9)

namespace State

/-- A PUT of remote sub-byte stores (R333, R334), by the parameter block that its engine has read, or will. -/
def bitPut (s : State) (c : Nat) (q : Cmd) : Bool :=
  let b := if q.state = .queued then (s.core c).readStore ((s.cmdSpan c q).1 + q.desc) 64 else q.block
  q.major == 0x66 && bits (bytesAt b 6 1) 7 6 == 2

/-- The unmet condition of a queued command, 0 when it may start: 1 wait, 2 acquire, 3 band, 5 group order. -/
def unmet (s : State) (c n : Nat) (q : Cmd) : Nat :=
  let k := s.core c
  let (base, limit) := s.cmdSpan c q
  let b := k.readStore (base + q.desc) 64
  let waits := q.major ≤ 0x62 && (bytesAt b 0 4).testBit 27 && !q.acquired &&
    bytesAt b 24 4 % 4 == 0 && inAlloc limit (bytesAt b 24 4) 4 && !reached (k.store32 (base + bytesAt b 24 4)) (bytesAt b 28 4)
  let acc := q.major = 0x69 ∨ q.major = 0x6a
  let t := s.team c q.team
  let need := (bandsNamed b acc).filter fun i => (t.bands.look i).isNone
  if engineOf q.major = 2 ∧ k.eq.any (fun (m, y) => decide (m < n) && engineOf y.major == 2 && y.uid == q.uid) then 5
  -- the sub-byte stores of a group keep its order (R146)
  else if s.bitPut c q ∧ k.eq.any (fun (m, y) => decide (m < n) && y.uid == q.uid && s.bitPut c y) then 5
  else if waits then 1
  else if q.acq ∧ ¬ q.acquired ∧ ¬ s.marksDone c q.uid q.lanes q.scope q.sbMark q.opMark q.rsMark then 2
  else if engineOf q.major = 2 ∧ 8 < k.bandsUsed.length + need.length then 3
  else 0

/-- Allot the bands that a command names and its team does not hold, each cleared (R280). -/
def allotBands (s : State) (c : Nat) (q : Cmd) (b : List Byte) : State :=
  (bandsNamed b (q.major ≠ 0x68)).foldl (fun (s : State) i =>
    let k := s.core c
    if ((s.team c q.team).bands.look i).isSome then s
    else
      match firstFree 8 k.bandsUsed.contains with
      | none => s
      | some p =>
        (s.setCore c { k with bandsUsed := p :: k.bandsUsed, acc := Mem.clear k.acc (p * 4096) ((p + 1) * 4096) }).modTeam c q.team
          fun t => { t with bands := t.bands.put i p }) s

end State

/-- ENGINE_SELF_WAIT (R305): a bundle has stalled for 2¹⁶ cc while every queued command of its group waits on a condition;
cause 0x09, precise, at the stalled command. -/
def execEngineSelfWait (c gid : Nat) (s : State) : Host.Outcome State Fault Refusal :=
  let k := s.core c
  let g := s.group c gid
  let stalled := (g.threads.zipIdx).filter fun (t, _) => t.live && !t.held && t.wait == some Wait.engine
  let mine := k.eq.filter fun (_, q) => q.uid = g.uid
  match stalled.head? with
  | none => .next s
  | some (t, _) =>
    if mine.any (fun (n, q) => if q.state = .queued then s.unmet c n q == 0 else q.cond == 0) then .next s
    else
      let lanes := maskOf ((stalled.filter fun x => x.1.pc == t.pc).map (·.2))
      .next (s.takeTrap c gid { mkTrap 9 mine.length with pc := t.pc, lanes } lanes true fun _ => t.pc)

end Sys2Proof.Machine
end

