-- ==== Sys2Proof/Machine/Bags.lean ====
section
/-! DEFINITION. The capacity tier's links (R110, R111), table registration (R113) and bag queries (R114 to R119). -/

namespace Sys2Proof.Machine

/-! ### Links -/

/-- Buffers of the package (R1, R107). -/
def State.buffers (s : State) : Nat := s.product.capBytes / 2 ^ 39

/-- The state of a capacity link has changed: the bundles whose accesses wait for it look again, and so do the dies, whose saved
blocks may have pages behind it (R110). -/
def State.wakeLink (s : State) : State :=
  let s := { s with cores := s.cores.map fun (p : Nat × Core) => (p.1, p.2.wake fun (w : Wait) => w == Wait.xlate) }
  s.dies.foldl (fun (s : State) (p : Nat × Die) => if p.2.lists.all (fun l => l.2.isEmpty) then s else s.postOnce (.placementOpportunity p.1)) s

/-- CAPACITY_LINK_TRAINING (R110): the highest common version, at present 1.0; without one the buffer is offline. -/
def execCapacityLinkTraining (b major _minor : Nat) (s : State) : Host.Outcome State Fault Refusal :=
  if s.buffers ≤ b ∨ s.offline b then .next s
  else if major = 0 then .next ((s.setField (State.capLinkOff b) 31 31 0).setField (State.capLinkOff b) 30 30 1).wakeLink
  else .next (((s.setField (State.capLinkOff b) 31 31 1).setField (State.capLinkOff b) 23 16 1).setField (State.capLinkOff b) 15 8 0).wakeLink

/-- CAPACITY_REPLAY_FAIL (R110): the link retrains. -/
def execCapacityReplayFail (b : Nat) (s : State) : Host.Outcome State Fault Refusal :=
  .next (if s.buffers ≤ b then s else (s.setField (State.capLinkOff b) 31 31 0).bumpField (State.capLinkOff b) 7 0)

/-- CAPACITY_RETRAIN_TIMEOUT (R110): 10 ms without success. -/
def execCapacityRetrainTimeout (b : Nat) (s : State) : Host.Outcome State Fault Refusal :=
  .next (if s.buffers ≤ b ∨ s.field (State.capLinkOff b) 31 31 = 1 then s else (s.setField (State.capLinkOff b) 30 30 1).wakeLink)

/-- CAPACITY_LINK_REENABLE (R110): the link trains again. -/
def execCapacityLinkReenable (b : Nat) (s : State) : Host.Outcome State Fault Refusal :=
  .next (if s.buffers ≤ b ∨ ¬ s.offline b then s else (s.setField (State.capLinkOff b) 31 30 0).bumpField (State.capLinkOff b) 7 0)

/-! ### Tables -/

/-- Bytes of a row (R114). -/
def rowBytes (format dim : Nat) : Nat := if format = 0 then 4 * dim else if format = 3 then 4 + dim else 2 * dim

/-- A descriptor write with valid = 1 is refused (R113). -/
def tableRefused (q0 q1 : DWord) : Bool :=
  let st := qf q0 60 57
  let rows := qf q1 31 0
  decide (st < 6 ∨ 12 < st) || rows == 0 || qf q0 11 0 ≠ 0 || decide (2 ^ 39 < qf q0 38 0 + rows * 2 ^ st) ||
  decide (2 ^ st < rowBytes (qf q0 62 61) (qf q0 53 45 + 1)) || qf q0 56 54 ≠ 0 || qf q0 44 40 ≠ 0 || qf q1 55 32 ≠ 0

/-- TABLE_REGISTER (R113): a write of quadword 0 of a table descriptor. `reg_error` tells of the last write of valid = 1; a refused
write still takes its other fields. -/
def State.registerTable (s : State) (b t : Nat) (qw0 : DWord) : State :=
  if s.buffers ≤ b ∨ 256 ≤ t then s
  else
    let v := qw0 &&& 0xfe3fe07fffffffff
    let old := s.ctlQ (State.capTableOff b t 0)
    if qf qw0 63 63 = 0 then s.setCtl (State.capTableOff b t 0) (qset v 39 39 (qf old 39 39))
    else if tableRefused qw0 (s.ctlQ (State.capTableOff b t 1)) then s.setCtl (State.capTableOff b t 0) (qset (qset v 63 63 0) 39 39 1)
    else s.setCtl (State.capTableOff b t 0) v

/-- The event of `State.registerTable`. -/
def execTableRegister (b t : Nat) (qw0 : DWord) (s : State) : Host.Outcome State Fault Refusal := .next (s.registerTable b t qw0)

/-! ### The query block (R115) -/

structure BagBlock where
  buffer : Nat
  table : Nat
  rangeTrap : Bool
  bf16 : Bool
  mode : Nat
  bags : Nat
  count : Nat
  idx : Nat
  wgt : Nat
  starts : Nat
  out : Nat
  ctr : Nat
deriving DecidableEq, Repr

def bagBlock (b : List Byte) : BagBlock :=
  let w := bytesAt b 0 2
  let f := bytesAt b 2 1
  { buffer := bits w 12 8, table := bits w 7 0, rangeTrap := f.testBit 3, bf16 := f.testBit 2, mode := bits f 1 0,
    bags := bytesAt b 4 4, count := bytesAt b 8 4, idx := bytesAt b 12 4, wgt := bytesAt b 16 4, starts := bytesAt b 20 4,
    out := bytesAt b 24 4, ctr := bytesAt b 28 4 }

namespace State

/-- A list of 32-bit words in a core's store. -/
def wordList (s : State) (c a n : Nat) : List Nat := (List.range n).map fun i => (s.core c).store32 (a + 4 * i)

/-- The checks of the core, before it sends anything (R117). -/
def bagOk (s : State) (c : Nat) (q : Cmd) (b : List Byte) : Bool :=
  let (base, limit) := s.cmdSpan c q
  let x := bagBlock b
  let st := s.wordList c (base + x.starts) x.bags
  bits (bytesAt b 0 2) 15 13 == 0 && bits (bytesAt b 2 1) 7 4 == 0 && !anySet b 3 1 && decide (1 ≤ x.bags ∧ x.bags ≤ 4096) &&
  decide (x.count ≤ 65536) && x.idx % 4 == 0 && x.wgt % 4 == 0 && x.starts % 4 == 0 && x.out % 16 == 0 && bytesAt b 28 4 % 4 == 0 &&
  inAlloc limit x.idx (4 * x.count) && inAlloc limit x.wgt (if x.mode = 2 then 4 * x.count else 0) && inAlloc limit x.starts (4 * x.bags) &&
  inAlloc limit (bytesAt b 28 4) 4 && inAlloc limit x.out 0 && !anySet b 44 20 && decide (x.buffer < s.buffers) &&
  (st.zip (st.drop 1 ++ [x.count])).all fun p => decide (p.1 ≤ p.2)

/-- Start a bag query: it is sent, behind those that its core has sent before (R119). -/
def startBag (s : State) (c n : Nat) (q : Cmd) : State :=
  let b := (s.core c).readStore ((s.cmdSpan c q).1 + q.desc) 64
  let last := (s.core c).eq.foldl (fun a (_, y) => if engineOf y.major = 3 then max a y.inst else a) 0
  let s := s.modCmd c n fun q => { q with state := .active, cond := 0, acquired := true, block := b, inner := 0xffffffff, inst := last + 1 }
  if s.bagOk c q b then s.post (.bagQueryExecute c n) else s.endCmd c n 2 0x0f

end State

/-! ### Pooling (R116) -/

/-- The largest, a NaN if either operand is one, −0 below +0. -/
def maxOf (a b : Word) : Word :=
  if Fp.isNan32 a || Fp.isNan32 b then w32 Fp.f32.nan else if Fp.key a.toNat < Fp.key b.toNat then b else a

/-- Element j of a row: its FP32 value and flags (R114, R116). -/
def elementOf (format : Nat) (row : List Byte) (j : Nat) : Word × Word :=
  match format with
  | 0 => let w := w32 (bytesAt row (4 * j) 4); (w, flIf (Fp.isSig32 w) flInvalid)
  | 1 => Fp.convert .f32 .bf16 .rne 0 (w32 (bytesAt row (2 * j) 2))
  | 2 => Fp.convert .f32 .f16 .rne 0 (w32 (bytesAt row (2 * j) 2))
  | _ =>
    let m := (Fp.convert .f32 .s32 .rne 0 ((row.getD (4 + j) 0).signExtend 32)).1
    Fp.mul (w32 (bytesAt row 0 4)) m

/-- One element of one bag, from the block, the descriptor and the rows alone (R116, R151): positions carry the rank, the row and the weight of each in-range index. -/
def poolOf (format mode : Nat) (bf16 : Bool) (j : Nat) (ps : List (Nat × List Byte × Word)) : Nat × Word :=
  let zero : Word := if mode = 3 then 0xff800000 else 0
  let parts := (List.range 8).map fun r =>
    (ps.filter fun p => p.1 = r).foldl (fun (a : Word × Word × Bool) p =>
      let x := elementOf format p.2.1 j
      let c := if mode = 2 then let y := Fp.mul p.2.2 x.1; (y.1, x.2 ||| y.2) else x
      if mode = 3 then (maxOf a.1 c.1, a.2.1 ||| c.2, true)
      else let y := Fp.add a.1 c.1; (y.1, a.2.1 ||| c.2 ||| y.2, true)) (zero, 0, false)
  let fl := parts.foldl (fun (f : Word) p => f ||| p.2.1) 0
  let y : Word × Word :=
    if ps.isEmpty then (0, 0)
    else if mode = 3 then
      let l := (parts.filter fun p => p.2.2).map (·.1)
      (l.tail.foldl maxOf (l.headD 0), fl)
    else
      let t := parts.foldl (fun (a : Word × Word) p => let z := Fp.add a.1 p.1; (z.1, a.2 ||| z.2)) (0, fl)
      if mode = 1 then
        let z := Fp.div t.1 (Fp.convert .f32 .u32 .rne 0 (w32 ps.length)).1
        (z.1, t.2 ||| z.2)
      else t
  let y := if Fp.isNan32 y.1 then (w32 Fp.f32.nan, y.2) else y
  if bf16 then let z := Fp.convert .bf16 .f32 .rne 0 y.1; (z.1.toNat % 2 ^ 16, y.2 ||| z.2) else (y.1.toNat, y.2)

/-- Bytes of an output vector (R115). -/
def outPitch (dim : Nat) (bf16 : Bool) : Nat := (dim * (if bf16 then 2 else 4) + 15) / 16 * 16

/-- A query waits for its buffer (R119): an earlier query of its core to the buffer has not started, or 64 are in progress there,
started and not answered. -/
def State.bagWaits (s : State) (c n b : Nat) : Bool :=
  let mine := ((s.cmd? c n).map (·.inst)).getD 0
  let there := fun (q : Cmd) => engineOf q.major == 3 && (bagBlock q.block).buffer == b
  (s.core c).eq.any (fun (_, q) => decide (q.inst < mine) && q.state == .active && there q) ||
  decide (64 ≤ s.cores.foldl (fun a (_, k) => a + (k.eq.filter fun (_, q) => q.state == .committed && there q).length) 0)

/-- BAG_QUERY_EXECUTE (R113, R116, R117, R119): the buffer checks the table, reads the rows and pools each bag. -/
def execBagQueryExecute (c n : Nat) (s : State) : Host.Outcome State Fault Refusal :=
  match s.cmd? c n with
  | none => .next s
  | some q =>
    let x := bagBlock q.block
    let base := (s.cmdSpan c q).1
    let q0 := s.ctlQ (State.capTableOff x.buffer x.table 0)
    let q1 := s.ctlQ (State.capTableOff x.buffer x.table 1)
    if q.state ≠ .active then .next s
    else if s.bagWaits c n x.buffer then .next (s.post (.bagQueryExecute c n))
    else if s.offline x.buffer then .next (s.endCmd c n 4 0x0f)
    else if s.capDown x.buffer then .next (s.post (.bagQueryExecute c n))
    else if qf q0 63 63 = 0 ∨ qf q1 63 56 ≠ q.ctx then .next (s.endCmd c n 3 0x0f)
    else
      let dim := qf q0 53 45 + 1
      let format := qf q0 62 61
      let len := rowBytes format dim
      let idx := s.wordList c (base + x.idx) x.count
      let wgt := if x.mode = 2 then s.wordList c (base + x.wgt) x.count else []
      let starts := s.wordList c (base + x.starts) x.bags
      let rowAt := fun (i : Nat) => x.buffer * 2 ^ 39 + qf q0 38 0 + i * 2 ^ qf q0 60 57
      let used := (List.range x.count).filter fun p => decide (starts.headD 0 ≤ p)
      let out := used.filter fun p => decide (qf q1 31 0 ≤ idx.getD p 0)
      let bad := used.any fun p => decide (idx.getD p 0 < qf q1 31 0) &&
        s.capPoison.any fun a => decide (rowAt (idx.getD p 0) ≤ a ∧ a < rowAt (idx.getD p 0) + len)
      let bag := fun (k : Nat) =>
        (used.filter fun p => decide (starts.getD k 0 ≤ p ∧ p < starts.getD (k + 1) x.count ∧ idx.getD p 0 < qf q1 31 0)).map fun p =>
          let a := rowAt (idx.getD p 0)
          (a % 2 ^ 39 / 4096 % 8, Mem.read (n := 8) s.cap a len, w32 (wgt.getD p 0))
      let vec := fun (k : Nat) => (List.range dim).map fun j => poolOf format x.mode x.bf16 j (bag k)
      let e := if x.bf16 then 2 else 4
      let outs := (List.range x.bags).map vec
      let data := outs.flatMap fun v => ((v.flatMap fun w => leBytes e w.1) ++ List.replicate 16 0).take (outPitch dim x.bf16)
      let fl := outs.foldl (fun (f : Word) v => v.foldl (fun (f : Word) w => f ||| w.2) f) 0
      if bad then .next (s.endCmd c n 5 0x0f)
      else
        let s := s.modCmd c n fun q => { q with
          data
          flags := fl
          recIndex := x.bags * outPitch dim x.bf16
          progress := out.length
          inner := out.headD 0xffffffff }
        .next (if out.isEmpty then s.endCmd c n 0 0 else s.endCmd c n 1 (if x.rangeTrap then 0x0f else 0))

/-- BAG_QUERY_REPLY (R117, R118): the output range is checked, and outputs, status and counter are written. The
counter is that of the block's ctr_off, or of the instruction when the block's is misaligned or beyond the allocation. -/
def execBagQueryReply (c n : Nat) (s : State) : Host.Outcome State Fault Refusal :=
  match s.cmd? c n with
  | none => .next s
  | some q =>
    let x := bagBlock q.block
    let (base, limit) := s.cmdSpan c q
    if q.state ≠ .committed then .next s
    else
      let fits := inAlloc limit x.out q.recIndex
      let q' := if q.outcome ≤ 1 ∧ ¬ fits then { q with outcome := 2, cause := 0x0f } else q
      let s := s.modCmd c n fun _ => q'
      let s := if q'.outcome ≤ 1 then s.modCore c fun k => k.writeStore (base + x.out) q.data else s
      let st := q'.outcome + bit (q.flags.getLsbD 4) * 2 ^ 8 + bit (q.flags.getLsbD 2) * 2 ^ 9
      .next ((s.modCore c fun k => k.writeStore (base + q.desc + 32) (leBytes 4 st ++ leBytes 4 q.progress ++ leBytes 4 q.inner)).signalAt c n
        (if x.ctr % 4 = 0 ∧ inAlloc limit x.ctr 4 then x.ctr else q.ctr))

end Sys2Proof.Machine
end

