-- ==== Sys2Proof/Machine/LaneInt.lean ====
section
/-! DEFINITION. Lane integer instructions (R253 to R257). -/

namespace Sys2Proof.Machine

/-- The form of R253: each lane of Active computes its element of vD from its elements of vD, vA and the last source. -/
def laneMap (i : Instr) (m : MReg) (d a : VReg) (b : LaneSrc) (f : Word → Word → Word → Word) :
    State → Host.Outcome State Fault Refusal :=
  run i fun x s =>
    let k := s.core x.core
    .done (s.writeLanes x (x.active m) d fun l =>
      f (k.getV x.g x.gid d.toNat l) (k.getV x.g x.gid a.toNat l) (k.lsrc x.g x.gid l b))

/-- The mask of the lanes of Active whose sources satisfy a condition (R256). -/
def laneCond (k : Core) (x : Ctx) (m : MReg) (a : VReg) (b : LaneSrc) (p : Word → Word → Bool) : Word :=
  maskOf ((lanesOf (x.active m)).filter fun l => p (k.getV x.g x.gid a.toNat l) (k.lsrc x.g x.gid l b))

/-- `ADD` (R254). -/
def execAddLane (m : MReg) (d a : VReg) (b : LaneSrc) (s : State) : Host.Outcome State Fault Refusal :=
  laneMap (.addLane m d a b) m d a b (fun _ a b => a + b) s

/-- `SUB` (R254). -/
def execSubLane (m : MReg) (d a : VReg) (b : LaneSrc) (s : State) : Host.Outcome State Fault Refusal :=
  laneMap (.subLane m d a b) m d a b (fun _ a b => a - b) s

/-- `MUL` (R254). -/
def execMulLane (m : MReg) (d a : VReg) (b : LaneSrc) (s : State) : Host.Outcome State Fault Refusal :=
  laneMap (.mulLane m d a b) m d a b (fun _ a b => a * b) s

/-- `MULHI` (R254). -/
def execMulhiLane (m : MReg) (d a : VReg) (b : LaneSrc) (s : State) : Host.Outcome State Fault Refusal :=
  laneMap (.mulhiLane m d a b) m d a b (fun _ a b => Alu.mulhi a b) s

/-- `MULHU` (R254). -/
def execMulhuLane (m : MReg) (d a : VReg) (b : LaneSrc) (s : State) : Host.Outcome State Fault Refusal :=
  laneMap (.mulhuLane m d a b) m d a b (fun _ a b => Alu.mulhu a b) s

/-- `MAD` (R254). -/
def execMad (m : MReg) (d a : VReg) (b : LaneSrc) (s : State) : Host.Outcome State Fault Refusal :=
  laneMap (.mad m d a b) m d a b (fun d a b => a * b + d) s

/-- `AND` (R254). -/
def execAndLane (m : MReg) (d a : VReg) (b : LaneSrc) (s : State) : Host.Outcome State Fault Refusal :=
  laneMap (.andLane m d a b) m d a b (fun _ a b => a &&& b) s

/-- `OR` (R254). -/
def execOrLane (m : MReg) (d a : VReg) (b : LaneSrc) (s : State) : Host.Outcome State Fault Refusal :=
  laneMap (.orLane m d a b) m d a b (fun _ a b => a ||| b) s

/-- `XOR` (R254). -/
def execXorLane (m : MReg) (d a : VReg) (b : LaneSrc) (s : State) : Host.Outcome State Fault Refusal :=
  laneMap (.xorLane m d a b) m d a b (fun _ a b => a ^^^ b) s

/-- `SHL` (R254). -/
def execShlLane (m : MReg) (d a : VReg) (b : LaneSrc) (s : State) : Host.Outcome State Fault Refusal :=
  laneMap (.shlLane m d a b) m d a b (fun _ a b => Alu.shl a b) s

/-- `SHR` (R254). -/
def execShrLane (m : MReg) (d a : VReg) (b : LaneSrc) (s : State) : Host.Outcome State Fault Refusal :=
  laneMap (.shrLane m d a b) m d a b (fun _ a b => Alu.shr a b) s

/-- `SAR` (R254). -/
def execSarLane (m : MReg) (d a : VReg) (b : LaneSrc) (s : State) : Host.Outcome State Fault Refusal :=
  laneMap (.sarLane m d a b) m d a b (fun _ a b => Alu.sar a b) s

/-- `MIN` (R254). -/
def execMinLane (m : MReg) (d a : VReg) (b : LaneSrc) (s : State) : Host.Outcome State Fault Refusal :=
  laneMap (.minLane m d a b) m d a b (fun _ a b => Alu.min a b) s

/-- `MINU` (R254). -/
def execMinuLane (m : MReg) (d a : VReg) (b : LaneSrc) (s : State) : Host.Outcome State Fault Refusal :=
  laneMap (.minuLane m d a b) m d a b (fun _ a b => Alu.minu a b) s

/-- `MAX` (R254). -/
def execMaxLane (m : MReg) (d a : VReg) (b : LaneSrc) (s : State) : Host.Outcome State Fault Refusal :=
  laneMap (.maxLane m d a b) m d a b (fun _ a b => Alu.max a b) s

/-- `MAXU` (R254). -/
def execMaxuLane (m : MReg) (d a : VReg) (b : LaneSrc) (s : State) : Host.Outcome State Fault Refusal :=
  laneMap (.maxuLane m d a b) m d a b (fun _ a b => Alu.maxu a b) s

/-- `BFX` (R254). -/
def execBfxLane (m : MReg) (d a : VReg) (b : LaneSrc) (s : State) : Host.Outcome State Fault Refusal :=
  laneMap (.bfxLane m d a b) m d a b (fun _ a b => Alu.bfx a b) s

/-- `BFI` (R254). -/
def execBfiLane (m : MReg) (d a : VReg) (b : LaneSrc) (s : State) : Host.Outcome State Fault Refusal :=
  laneMap (.bfiLane m d a b) m d a b (fun d a b => Alu.bfi d a b) s

/-- `ABS` (R255). -/
def execAbs (m : MReg) (d a : VReg) (s : State) : Host.Outcome State Fault Refusal :=
  laneMap (.abs m d a) m d a (.lit 0) (fun _ a _ => Alu.abs a) s

/-- `NEG` (R255). -/
def execNeg (m : MReg) (d a : VReg) (s : State) : Host.Outcome State Fault Refusal :=
  laneMap (.neg m d a) m d a (.lit 0) (fun _ a _ => 0 - a) s

/-- `MOV` (R255). -/
def execMovLane (m : MReg) (d a : VReg) (s : State) : Host.Outcome State Fault Refusal :=
  laneMap (.movLane m d a) m d a (.lit 0) (fun _ a _ => a) s

/-- `CLZ` (R255). -/
def execClzLane (m : MReg) (d a : VReg) (s : State) : Host.Outcome State Fault Refusal :=
  laneMap (.clzLane m d a) m d a (.lit 0) (fun _ a _ => Alu.clz a) s

/-- `POPC` (R255). -/
def execPopcLane (m : MReg) (d a : VReg) (s : State) : Host.Outcome State Fault Refusal :=
  laneMap (.popcLane m d a) m d a (.lit 0) (fun _ a _ => Alu.popc a) s

/-- `MOVI` (R255): imm14 sign-extended, or the literal. -/
def execMoviLane (m : MReg) (d : VReg) (i : Imm14) (s : State) : Host.Outcome State Fault Refusal :=
  laneMap (.moviLane m d i) m d d (.lit 0) (fun _ _ _ => match i with
    | .short i => i.signExtend 32
    | .lit w => w) s

/-- `CMP` (R256). -/
def execCmpLane (m : MReg) (cc : Cc) (md : MReg) (a : VReg) (b : LaneSrc) (s : State) : Host.Outcome State Fault Refusal :=
  run (.cmpLane m cc md a b) (fun x s => .done (s.writeMask x md (laneCond (s.core x.core) x m a b (Alu.cc cc)))) s

/-- `SEL` (R257): every lane that executes it, a where its mask bit is 1 and b elsewhere. -/
def execSelLane (m : MReg) (d a : VReg) (b : LaneSrc) (s : State) : Host.Outcome State Fault Refusal :=
  run (.selLane m d a b) (fun x s =>
    let k := s.core x.core
    .done (s.writeLanes x x.lanes d fun l =>
      if (x.g.mask m.toNat).getLsbD l then k.getV x.g x.gid a.toNat l else k.lsrc x.g x.gid l b)) s

end Sys2Proof.Machine
end

