-- ==== Sys2Proof/Machine/LaneFp.lean ====
section
/-! DEFINITION. Lane floating point (R258 to R264). -/

namespace Sys2Proof.Machine

/-- The form of R253 with flags: the flags of every lane of Active are raised together (R248, R249). -/
def laneFp (i : Instr) (m : MReg) (d a : VReg) (b : LaneSrc) (f : Word → Word → Word → Word × Word) :
    State → Host.Outcome State Fault Refusal :=
  run i fun x s =>
    let k := s.core x.core
    let r := fun l => f (k.getV x.g x.gid d.toNat l) (k.getV x.g x.gid a.toNat l) (k.lsrc x.g x.gid l b)
    let fl := (lanesOf (x.active m)).foldl (fun fl l => fl ||| (r l).2) 0
    .done ((s.writeLanes x (x.active m) d fun l => (r l).1).raiseFlags x (x.active m) fl)

/-- Step the generators of some lanes (R251, R252). -/
def State.stepGens (s : State) (x : Ctx) (lanes : Word) : State :=
  s.modGroup x.core x.gid fun g => { g with gens := g.gens.mapIdx fun l v => if lanes.getLsbD l then genStep v else v }

/-- The draw of a lane: the top 24 bits of its generator after its step (R252). -/
def Ctx.draw (x : Ctx) (l : Nat) : Nat := (genStep (x.g.gens.getD l 0)).toNat / 256

/-- `FADD` (R258). -/
def execFadd (m : MReg) (d a : VReg) (b : LaneSrc) (s : State) : Host.Outcome State Fault Refusal :=
  laneFp (.fadd m d a b) m d a b (fun _ a b => Fp.add a b) s

/-- `FSUB` (R258). -/
def execFsub (m : MReg) (d a : VReg) (b : LaneSrc) (s : State) : Host.Outcome State Fault Refusal :=
  laneFp (.fsub m d a b) m d a b (fun _ a b => Fp.sub a b) s

/-- `FMUL` (R258). -/
def execFmul (m : MReg) (d a : VReg) (b : LaneSrc) (s : State) : Host.Outcome State Fault Refusal :=
  laneFp (.fmul m d a b) m d a b (fun _ a b => Fp.mul a b) s

/-- `FFMA` (R258). -/
def execFfma (m : MReg) (d a : VReg) (b : LaneSrc) (s : State) : Host.Outcome State Fault Refusal :=
  laneFp (.ffma m d a b) m d a b (fun d a b => Fp.fma a b d) s

/-- `FMIN` (R260). -/
def execFmin (m : MReg) (d a : VReg) (b : LaneSrc) (s : State) : Host.Outcome State Fault Refusal :=
  laneFp (.fmin m d a b) m d a b (fun _ a b => Fp.minMax false a b) s

/-- `FMAX` (R260). -/
def execFmax (m : MReg) (d a : VReg) (b : LaneSrc) (s : State) : Host.Outcome State Fault Refusal :=
  laneFp (.fmax m d a b) m d a b (fun _ a b => Fp.minMax true a b) s

/-- `FDIV` (R258). -/
def execFdiv (m : MReg) (d a : VReg) (b : LaneSrc) (s : State) : Host.Outcome State Fault Refusal :=
  laneFp (.fdiv m d a b) m d a b (fun _ a b => Fp.div a b) s

/-- `HADD2` (R261). -/
def execHadd2 (m : MReg) (d a : VReg) (b : LaneSrc) (s : State) : Host.Outcome State Fault Refusal :=
  laneFp (.hadd2 m d a b) m d a b (fun d a b => Fp.packed Fp.f16 false (fun a b _ => Fp.addVal Fp.f16 a b) a b d) s

/-- `HMUL2` (R261). -/
def execHmul2 (m : MReg) (d a : VReg) (b : LaneSrc) (s : State) : Host.Outcome State Fault Refusal :=
  laneFp (.hmul2 m d a b) m d a b (fun d a b => Fp.packed Fp.f16 false (fun a b _ => Fp.mulVal Fp.f16 a b) a b d) s

/-- `HFMA2` (R261). -/
def execHfma2 (m : MReg) (d a : VReg) (b : LaneSrc) (s : State) : Host.Outcome State Fault Refusal :=
  laneFp (.hfma2 m d a b) m d a b (fun d a b => Fp.packed Fp.f16 false (Fp.fmaVal Fp.f16) a b d) s

/-- `HADD2.BF` (R261). -/
def execHadd2Bf (m : MReg) (d a : VReg) (b : LaneSrc) (s : State) : Host.Outcome State Fault Refusal :=
  laneFp (.hadd2Bf m d a b) m d a b (fun d a b => Fp.packed Fp.bf16 true (fun a b _ => Fp.addVal Fp.bf16 a b) a b d) s

/-- `HMUL2.BF` (R261). -/
def execHmul2Bf (m : MReg) (d a : VReg) (b : LaneSrc) (s : State) : Host.Outcome State Fault Refusal :=
  laneFp (.hmul2Bf m d a b) m d a b (fun d a b => Fp.packed Fp.bf16 true (fun a b _ => Fp.mulVal Fp.bf16 a b) a b d) s

/-- `HFMA2.BF` (R261). -/
def execHfma2Bf (m : MReg) (d a : VReg) (b : LaneSrc) (s : State) : Host.Outcome State Fault Refusal :=
  laneFp (.hfma2Bf m d a b) m d a b (fun d a b => Fp.packed Fp.bf16 true (Fp.fmaVal Fp.bf16) a b d) s

/-- `FRCP` (R259). -/
def execFrcp (m : MReg) (d a : VReg) (s : State) : Host.Outcome State Fault Refusal :=
  laneFp (.frcp m d a) m d a (.lit 0) (fun _ a _ => Fp.rcp a) s

/-- `FRSQ` (R259). -/
def execFrsq (m : MReg) (d a : VReg) (s : State) : Host.Outcome State Fault Refusal :=
  laneFp (.frsq m d a) m d a (.lit 0) (fun _ a _ => Fp.rsq a) s

/-- `FEX2` (R259). -/
def execFex2 (m : MReg) (d a : VReg) (s : State) : Host.Outcome State Fault Refusal :=
  laneFp (.fex2 m d a) m d a (.lit 0) (fun _ a _ => Fp.ex2 a) s

/-- `FLG2` (R259). -/
def execFlg2 (m : MReg) (d a : VReg) (s : State) : Host.Outcome State Fault Refusal :=
  laneFp (.flg2 m d a) m d a (.lit 0) (fun _ a _ => Fp.lg2 a) s

/-- `FSQRT` (R258). -/
def execFsqrt (m : MReg) (d a : VReg) (s : State) : Host.Outcome State Fault Refusal :=
  laneFp (.fsqrt m d a) m d a (.lit 0) (fun _ a _ => Fp.sqrt a) s

/-- `FCMP` (R260): the mask as CMP writes it, with the flags of the condition. -/
def execFcmp (m : MReg) (cc : FCc) (md : MReg) (a : VReg) (b : LaneSrc) (s : State) : Host.Outcome State Fault Refusal :=
  run (.fcmp m cc md a b) (fun x s =>
    let k := s.core x.core
    let fl := (lanesOf (x.active m)).foldl (fun fl l =>
      fl ||| (Fp.cmp cc (k.getV x.g x.gid a.toNat l) (k.lsrc x.g x.gid l b)).2) 0
    .done ((s.writeMask x md (laneCond k x m a b fun a b => (Fp.cmp cc a b).1)).raiseFlags x (x.active m) fl)) s

/-- The rounding mode of FCVT (R250, R262). -/
def CvtRnd.mode : CvtRnd → RMode
  | .field rm => match rm.toNat with
    | 0 => .rne | 1 => .rz | 2 => .ru | _ => .rd
  | .lit m => m

/-- `FCVT` (R262 to R264); mode 4 steps the generator of every lane of Active once (R252). -/
def execFcvt (m : MReg) (d a : VReg) (dst src : CvtFmt) (r : CvtRnd) (s : State) : Host.Outcome State Fault Refusal :=
  run (.fcvt m d a dst src r) (fun x s =>
    let k := s.core x.core
    let f := fun l => Fp.convert dst src (CvtRnd.mode r) (x.draw l) (k.getV x.g x.gid a.toNat l)
    let fl := (lanesOf (x.active m)).foldl (fun fl l => fl ||| (f l).2) 0
    let s := if CvtRnd.mode r = .sr then s.stepGens x (x.active m) else s
    .done ((s.writeLanes x (x.active m) d fun l => (f l).1).raiseFlags x (x.active m) fl)) s

end Sys2Proof.Machine
end

