-- ==== Sys2Proof/Machine/GroupData.lean ====
section
/-! DEFINITION. Group-data instructions (R265 to R269). -/

namespace Sys2Proof.Machine

/-- Results for the lanes of Active computed from their elements of vA: every read precedes every write (R265). -/
def groupMap (i : Instr) (m : MReg) (d a : VReg) (f : List Nat → (Nat → Word) → Nat → Word) :
    State → Host.Outcome State Fault Refusal :=
  run i fun x s =>
    let k := s.core x.core
    let ls := lanesOf (x.active m)
    .done (s.writeLanes x (x.active m) d fun l => f ls (fun j => k.getV x.g x.gid a.toNat j) l)

/-- The source lane of SHFL (R266). -/
def shflSource (mode : ShflMode) (l : Nat) (k : Word) : Int :=
  match mode with
  | .idx => wf32 k 4 0
  | .up => (l : Int) - k.toNat
  | .down => (l : Int) + k.toNat
  | .xor => (l ^^^ wf32 k 4 0 : Nat)

/-- `SHFL` (R266). -/
def execShfl (m : MReg) (mode : ShflMode) (d a : VReg) (b : VLit) (s : State) : Host.Outcome State Fault Refusal :=
  run (.shfl m mode d a b) (fun x s =>
    let k := s.core x.core
    let act := x.active m
    .done (s.writeLanes x act d fun l =>
      let src := shflSource mode l (k.vlit x.g x.gid l b)
      if src < 0 ∨ 31 < src ∨ ¬ act.getLsbD src.toNat then k.getV x.g x.gid a.toNat l
      else k.getV x.g x.gid a.toNat src.toNat)) s

/-- `VOTE` (R267). -/
def execVote (m : MReg) (mode : VoteMode) (d a : VReg) (s : State) : Host.Outcome State Fault Refusal :=
  groupMap (.vote m mode d a) m d a (fun ls e _ =>
    let v := ls.filter fun l => e l ≠ 0
    match mode with
    | .ballot => maskOf v
    | .any => w32 (bit (!v.isEmpty))
    | .all => w32 (bit (v == ls))
    | .eq => w32 (bit (ls.all fun l => e l == e (ls.headD 0)))) s

/-- The operation of REDG and SCAN over lanes in ascending order (R268). -/
def laneFold (op : RedOp) (e : Nat → Word) : List Nat → Word
  | [] => 0
  | l :: t => t.foldl (fun acc j => match op with
      | .add => acc + e j
      | .min => Alu.min acc (e j)
      | .max => Alu.max acc (e j)) (e l)

/-- `REDG` (R268). -/
def execRedg (m : MReg) (op : RedOp) (d a : VReg) (s : State) : Host.Outcome State Fault Refusal :=
  groupMap (.redg m op d a) m d a (fun ls e _ => laneFold op e ls) s

/-- `SCAN` (R268). -/
def execScan (m : MReg) (op : ScanOp) (d a : VReg) (s : State) : Host.Outcome State Fault Refusal :=
  groupMap (.scan m op d a) m d a (fun ls e l =>
    match op with
    | .add => laneFold .add e (ls.filter (· ≤ l))
    | .xadd => laneFold .add e (ls.filter (· < l))
    | .min => laneFold .min e (ls.filter (· ≤ l))
    | .max => laneFold .max e (ls.filter (· ≤ l))) s

/-- The order of TOPK: greater first, −0 below +0, equal values by ascending lane (R269). -/
def topkOrder (e : Nat → Word) (i j : Nat) : Bool :=
  decide (Fp.key (e j).toNat < Fp.key (e i).toNat) || (Fp.key (e j).toNat == Fp.key (e i).toNat && decide (i < j))

/-- `TOPK` (R269). -/
def execTopk (m : MReg) (nz : Bool) (d a : VReg) (k : TopkK) (s : State) : Host.Outcome State Fault Refusal :=
  run (.topk m nz d a k) (fun x s =>
    let c := s.core x.core
    let e := fun l => c.getV x.g x.gid a.toNat l
    let out := lanesOf (x.active m)
    let want := match k with
      | .imm km1 => km1.toNat + 1
      | .reg r => (c.getS x.gid r.toNat).toNat
    let clamp := decide (32 < want) && !out.isEmpty
    let order := sortBy (topkOrder e) (out.filter fun l => !Fp.isNan32 (e l))
    let sig := out.any fun l => Fp.isSig32 (e l)
    let put := fun (s : State) (l : Nat) (v ix : Word) =>
      s.modCore x.core fun q => (q.setV x.g x.gid d.toNat l v).setV x.g x.gid (d.toNat + 1) l ix
    let s' := (out.take (min want 32)).zipIdx.foldl (fun s p =>
      match order[p.2]? with
      | some src => put s p.1 (e src) (w32 src)
      | none => if nz then put s p.1 0xff800000 0xffff else s) s
    let s' := if clamp then s'.modGroup x.core x.gid fun g => { g with arith := g.arith ||| 0x20 } else s'
    .done (s'.raiseFlags x (x.active m) (flIf sig flInvalid))) s

end Sys2Proof.Machine
end

