-- ==== Sys2Proof/Machine/Block.lean ====
section
/-! DEFINITION. Block formats in registers (R270 to R278). -/

namespace Sys2Proof.Machine

open Fp

/-- The scale of the block in a scale register: byte bsel in the lowest lane of Active (R272). -/
def blockScale (e : Nat → Word) (bsel : BitVec 2) (ls : List Nat) : Nat :=
  wf32 (e (ls.headD 0)) (8 * bsel.toNat + 7) (8 * bsel.toNat)

/-- A register element with byte bsel replaced. -/
def putByte (w : Word) (bsel : BitVec 2) (e : Nat) : Word := w32 (setBits w.toNat (8 * bsel.toNat + 7) (8 * bsel.toNat) e)

/-- The four instructions: nothing at all when Active is empty (R278), else results by lane with flags. -/
def blockMap (i : Instr) (m : MReg) (d : VReg) (f : Core → Ctx → List Nat → Nat → Word × Word) :
    State → Host.Outcome State Fault Refusal :=
  run i fun x s =>
    let k := s.core x.core
    let ls := lanesOf (x.active m)
    if ls.isEmpty then .done s
    else
      let fl := ls.foldl (fun fl l => fl ||| (f k x ls l).2) 0
      .done ((s.writeLanes x (x.active m) d fun l => (f k x ls l).1).raiseFlags x (x.active m) fl)

/-- `BDOT` (R276). -/
def execBdot (m : MReg) (f : BFmt) (d a b : VReg) (bsel : BitVec 2) (s : State) : Host.Outcome State Fault Refusal :=
  blockMap (.bdot m f d a b bsel) m d (fun k x ls l =>
    let n := BFmtBits f
    let v := fun r j => k.getV x.g x.gid r j
    let ex := blockScale (v b.toNat) bsel ls
    let ey := blockScale (v (b.toNat + 1)) bsel ls
    if ex = 255 ∨ ey = 255 then (0x7fc00000, flInvalid)
    else
      let t := ls.foldl (fun t j => t + mantissa n (v a.toNat j) * mantissa n (v (a.toNat + 1) j)) 0
      match v32 (v d.toNat l) with
      | .nan sig => Fp.w (nanRes f32 sig)
      | .inf neg => Fp.w (infRes f32 neg)
      | .fin neg md e =>
        let (sum, e') := addExact neg md e (t < 0) t.natAbs ((ex : Int) + ey - 254 - 2 * ((n : Int) - 2))
        Fp.w (roundInt f32 .rne 0 sum e' false)) s

/-- `BSCL` (R277). -/
def execBscl (m : MReg) (f : BFmt) (d a b : VReg) (bsel : BitVec 2) (s : State) : Host.Outcome State Fault Refusal :=
  blockMap (.bscl m f d a b bsel) m d (fun k x ls l =>
    let n := BFmtBits f
    let v := fun r j => k.getV x.g x.gid r j
    let eo := blockScale (v b.toNat) bsel ls
    let en := blockScale (v (b.toNat + 1)) bsel ls
    if eo = 255 ∨ en = 255 then (0, flInvalid)
    else
      let mx : Int := 2 ^ (n - 1) - 1
      let mo := mantissa n (v a.toNat l)
      let e : Int := (eo : Int) - en
      let (q, inex) := rint .rne (mo < 0) 0 (mo.natAbs * pow2 e) (pow2 (-e))
      let r := signed (mo < 0) q
      let c := clampInt (-mx) mx r
      (BitVec.ofInt 32 c,
        flIf (c ≠ r) flOverflow ||| flIf (inex || c ≠ r) flInexact ||| flIf (mo ≠ 0 && c == 0) flUnderflow)) s

/-- `DEQ` (R275). -/
def execDeq (m : MReg) (f : BFmt) (d a b : VReg) (bsel : BitVec 2) (s : State) : Host.Outcome State Fault Refusal :=
  blockMap (.deq m f d a b bsel) m d (fun k x ls l =>
    let n := BFmtBits f
    let e := blockScale (fun j => k.getV x.g x.gid b.toNat j) bsel ls
    if e = 255 then (0x7fc00000, flInvalid)
    else
      let r := roundInt f32 .rne 0 (mantissa n (k.getV x.g x.gid a.toNat l)) ((e : Int) - 127 - ((n : Int) - 2)) false
      (BitVec.ofNat 32 r.1, r.2 &&& flOverflow)) s

/-- The scale byte that QNT gives a block without a NaN (R274): from the largest finite magnitude. -/
def qntScale (es : List Word) : Nat :=
  let fin := es.filter finite32
  if fin.isEmpty then 254
  else
    let big := fin.foldl (fun a e => max a (e.toNat % 2 ^ 31)) 0
    match unpack f32 big with
    | .fin _ mm e => if mm = 0 then 0 else (max 0 (ilog2 mm 1 + e + 127)).toNat
    | _ => 0

/-- One lane's mantissa and flags under a scale (R274). -/
def qntLane (n scale : Nat) (mode : RMode) (draw : Nat) (a : Word) : Int × Word :=
  let mx : Int := 2 ^ (n - 1) - 1
  match v32 a with
  | .nan _ => (0, 0)
  | .inf neg => (if neg then -mx - 1 else mx, flOverflow)
  | .fin neg mm e =>
    let e' := e - ((scale : Int) - 127 - ((n : Int) - 2))
    let (q, inex) := rint mode neg draw (mm * pow2 e') (pow2 (-e'))
    let r := signed neg q
    let c := clampInt (-mx) mx r
    (c, flIf (inex || c ≠ r) flInexact ||| flIf (mm ≠ 0 && c == 0) flUnderflow)

/-- `QNT` (R274): the mantissas to vD and the scale to byte bsel of vB; mode 4 steps every generator of Active once. -/
def execQnt (m : MReg) (f : BFmt) (d a b : VReg) (bsel : BitVec 2) (r : Option RMode) (s : State) :
    Host.Outcome State Fault Refusal :=
  run (.qnt m f d a b bsel r) (fun x s =>
    let k := s.core x.core
    let act := x.active m
    let ls := lanesOf act
    if ls.isEmpty then .done s
    else
      let mode := r.getD .rne
      let e := fun l => k.getV x.g x.gid a.toNat l
      let nan := ls.any fun l => isNan32 (e l)
      let scale := if nan then 255 else qntScale (ls.map e)
      let out := fun l => if nan then ((0 : Int), flInvalid) else qntLane (BFmtBits f) scale mode (x.draw l) (e l)
      let fl := ls.foldl (fun fl l => fl ||| (out l).2) 0
      let s := if mode = .sr then s.stepGens x act else s
      let s := s.writeLanes x act d fun l => BitVec.ofInt 32 (out l).1
      let s := s.writeLanes x act b fun l => putByte (k.getV x.g x.gid b.toNat l) bsel scale
      .done (s.raiseFlags x act fl)) s

end Sys2Proof.Machine
end

