-- ==== Sys2Proof/Machine/Copy.lean ====
section
/-! DEFINITION. The copy engine (R308 to R313): steps of CPY and CPYSL, transfer records of CHAIN, completion. -/

namespace Sys2Proof.Machine

/-- Signed value of a 32-bit field. -/
def signed32 (n : Nat) : Int := if n < 2 ^ 31 then n else (n : Int) - 2 ^ 32

/-- A copy descriptor as the engine reads it (R309). -/
structure CopyDesc where
  srcGlobal : Bool
  dstGlobal : Bool
  length : Nat
  src : Nat
  dst : Nat
  rows : Nat
  planes : Nat
  srcRow : Int
  dstRow : Int
  srcPlane : Int
  dstPlane : Int
deriving DecidableEq, Repr

/-- Fields of a CPY (slice = false) or CPYSL descriptor. -/
def copyDesc (slice : Bool) (b : List Byte) : CopyDesc :=
  let w := bytesAt b 0 4
  let f := fun i => if slice then signed32 (bytesAt b i 4) else 0
  { srcGlobal := w.testBit 30, dstGlobal := w.testBit 28, length := bytesAt b 4 4, src := bytesAt b 8 8, dst := bytesAt b 16 8,
    rows := if slice then bytesAt b 34 2 + 1 else 1, planes := if slice then bytesAt b 32 2 + 1 else 1,
    srcRow := f 36, dstRow := f 40, srcPlane := f 44, dstPlane := f 48 }

/-- Address of a row: modulo 2⁶⁴ in global space and 2³² in the core store (R310). -/
def rowAddr (global : Bool) (a : Nat) (d : Int) : Nat := (((a : Int) + d) % (if global then 2 ^ 64 else 2 ^ 32)).toNat
def CopyDesc.srcAt (d : CopyDesc) (i : Nat) : Nat :=
  rowAddr d.srcGlobal d.src ((i / d.rows : Nat) * d.srcPlane + (i % d.rows : Nat) * d.srcRow)
def CopyDesc.dstAt (d : CopyDesc) (i : Nat) : Nat :=
  rowAddr d.dstGlobal d.dst ((i / d.rows : Nat) * d.dstPlane + (i % d.rows : Nat) * d.dstRow)

/-- The descriptor check of CPY and CPYSL (R309, R312 code 1). -/
def copyOk (slice : Bool) (limit : Nat) (b : List Byte) : Bool :=
  let w := bytesAt b 0 4
  let d := copyDesc slice b
  !w.testBit 31 && !w.testBit 29 && bits w 25 0 == 0 && bits (bytesAt b 60 4) 30 0 == 0 &&
  (if w.testBit 27 then bytesAt b 24 4 % 4 == 0 && inAlloc limit (bytesAt b 24 4) 4 else true) &&
  (if slice then decide (1 ≤ d.length ∧ d.length ≤ 65536) else !anySet b 32 20) &&
  (d.srcGlobal || decide (d.src < 2 ^ 23)) && (d.dstGlobal || decide (d.dst < 2 ^ 23)) &&
  (List.range (d.rows * d.planes)).all fun i =>
    addrOk limit d.srcGlobal (d.srcAt i) d.length && addrOk limit d.dstGlobal (d.dstAt i) d.length

/-- The descriptor check of CHAIN (R311). Bits [31:30] of its first word select the space of `list` as in CPY. -/
def chainOk (limit : Nat) (b : List Byte) : Bool :=
  let w := bytesAt b 0 4
  !w.testBit 31 && bits w 29 28 == 0 && bits w 25 0 == 0 && decide (1 ≤ bytesAt b 4 4 ∧ bytesAt b 4 4 ≤ 65536) &&
  bytesAt b 8 8 % 32 == 0 && addrOk limit (w.testBit 30) (bytesAt b 8 8) (32 * bytesAt b 4 4) && !anySet b 16 8 && !anySet b 32 20 &&
  bits (bytesAt b 62 2) 14 0 == 0 &&
  (if w.testBit 27 then bytesAt b 24 4 % 4 == 0 && inAlloc limit (bytesAt b 24 4) 4 else true)

/-- The most that one step moves from an address, at most `n`, without crossing a page of a global operand (R22, R308). -/
def stepUp (global : Bool) (a n : Nat) : Nat := if global then min n (4096 - a % 4096) else n
/-- The same for a step that ends below an address. -/
def stepDown (global : Bool) (e n : Nat) : Nat := if global then min n ((e + 4095) % 4096 + 1) else n

/-- Of n bytes from an address, `left` being still to come: those up to the last boundary of words, or all the last ones (R145). -/
def wordsUp (a left n : Nat) : Nat := if left ≤ n then n else n - min n ((a + n) % 8)
/-- The same for bytes that end below an address. -/
def wordsDown (e left n : Nat) : Nat := if left ≤ n then n else n - min n ((8 - (e - n) % 8) % 8)

/-- What a step of a row does, from the bytes written, the bytes held and the length: bytes to read and where in the row, then bytes to
write and where. Source words are read whole and destination words written whole (R145); bytes of a word of the destination whose
rest lies on another page of the source are held for the next step (R308). -/
structure CopyMove where
  read : Nat
  readAt : Nat
  write : Nat
  writeAt : Nat
deriving DecidableEq, Repr

/-- A step in ascending order. -/
def moveUp (d : CopyDesc) (src dst done held : Nat) : CopyMove :=
  let writes := fun (have_ : Nat) => wordsUp (dst + done) (d.length - done) (stepUp d.dstGlobal (dst + done) (min 4096 have_))
  let left := d.length - done - held
  let n := if 0 < writes held then 0 else wordsUp (src + done + held) left (stepUp d.srcGlobal (src + done + held) (min 4096 left))
  { read := n, readAt := done + held, write := writes (held + n), writeAt := done }

/-- A step in descending order. -/
def moveDown (d : CopyDesc) (src dst done held : Nat) : CopyMove :=
  let e := d.length - done
  let writes := fun (have_ : Nat) => wordsDown (dst + e) e (stepDown d.dstGlobal (dst + e) (min 4096 have_))
  let left := e - held
  let n := if 0 < writes held then 0 else wordsDown (src + left) left (stepDown d.srcGlobal (src + left) (min 4096 left))
  { read := n, readAt := left - n, write := writes (held + n), writeAt := e - writes (held + n) }

namespace State

/-- Start a command of the copy engine: its descriptor is read and checked (R307, R312), and it resumes where its progress
word says (R313). -/
def startCopy (s : State) (c n : Nat) (q : Cmd) : State :=
  let (base, limit) := s.cmdSpan c q
  let b := (s.core c).readStore (base + q.desc) 64
  let resume := (bytesAt b 60 4).testBit 31
  let s := s.modCmd c n fun q =>
    { q with
      state := .active
      cond := 0
      acquired := true
      block := b
      carry := []
      progress := if resume then bytesAt b 56 4 else 0
      recIndex := if resume ∧ q.major = 0x62 then bytesAt b 60 2 else 0
      inner := if resume ∧ q.major = 0x62 then bytesAt b 56 4 else 0 }
  if (s.core c).storeBad (base + q.desc) 64 then s.endCmd c n 3 0x0b q.desc
  else if q.major = 0x62 then (if chainOk limit b then s.post (.transferRecord c n (.ok [])) else s.endCmd c n 1 5)
  else if copyOk (q.major = 0x61) limit b then s.post (.copyStep c n) else s.endCmd c n 1 5

end State

/-- COPY_STEP (R308, R310): one step of at most 4 KiB; all its source bytes are read before a destination byte is written. -/
def execCopyStep (c n : Nat) (s : State) : Host.Outcome State Fault Refusal :=
  match s.cmd? c n with
  | none => .next s
  | some q =>
    if q.state ≠ .active then .next s
    else
      let slice := q.major = 0x61
      let d := copyDesc slice q.block
      let (base, _) := s.cmdSpan c q
      let row := if slice then q.progress else 0
      let done := if slice then q.inner else q.progress
      if (if slice then d.rows * d.planes ≤ row else d.length ≤ done) then .next (s.endCmd c n)
      else
        let src := d.srcAt row
        let dst := d.dstAt row
        let down := d.srcGlobal = d.dstGlobal ∧ src < dst ∧ dst < src + d.length
        let v := if down then moveDown d src dst done q.carry.length else moveUp d src dst done q.carry.length
        let read := if v.read = 0 then EngAcc.ok s [] else s.engRead c 0 q.ctx (.copyStep c n) d.srcGlobal base (src + v.readAt) v.read
        match read with
        | .ok s bs =>
          let held := if down then bs ++ q.carry else q.carry ++ bs
          let (out, rest) := if down then (held.drop (held.length - v.write), held.take (held.length - v.write)) else held.splitAt v.write
          let write := if v.write = 0 then EngAcc.ok s []
            else s.engWrite c 0 q.ctx q.uid (.copyStep c n) n d.dstGlobal base (dst + v.writeAt) out
          match write with
          | .ok s _ =>
            .next ((s.modCmd c n fun q =>
              let q := { q with carry := rest }
              if slice then (if done + v.write = d.length then { q with progress := row + 1, inner := 0 } else { q with inner := done + v.write })
              else { q with progress := done + v.write }).post (.copyStep c n))
          | r => .next (s.failAcc c n 2 3 4 (dst + v.writeAt) r)
        | r => .next (s.failAcc c n 2 3 4 (src + v.readAt) r)

/-- A transfer record (R311): direction, device space, length, device address, host address; none when a field is out of
range. -/
def recordOf (limit : Nat) (b : List Byte) : Option (Bool × Bool × Nat × Nat × Nat) :=
  let w := bytesAt b 0 4
  let len := bytesAt b 4 4
  if bits w 29 0 = 0 ∧ len ≠ 0 ∧ ¬ anySet b 24 8 ∧ addrOk limit (w.testBit 30) (bytesAt b 8 8) len then
    some (w.testBit 31, w.testBit 30, len, bytesAt b 8 8, bytesAt b 16 8)
  else none

namespace State

/-- A free response code: the spec gives no PRI code to a failed host read. -/
def freeCode (s : State) : Nat := (Config.freeWord s.free).toNat % 256

/-- One step of the record that a CHAIN has reached: a host read is asked for, or bytes are moved. Words of the device are read and
written whole (R145); bytes that are not moved on are held. -/
def recordStep (s : State) (c n : Nat) (q : Cmd) (r : Bool × Bool × Nat × Nat × Nat) : State :=
  let (toHost, global, len, dev, host) := r
  let who : Instr := .transferRecord c n (.ok [])
  let base := (s.cmdSpan c q).1
  let pasid := s.pasid q.ctx
  let at_ := q.inner + q.carry.length
  let moved := fun (s : State) (m : Nat) (rest : List Byte) => (s.modCmd c n fun q =>
    if q.inner + m = len then { q with inner := 0, recIndex := q.recIndex + 1, data := [], carry := [], record := [] }
    else { q with inner := q.inner + m, data := [], carry := rest }).post who
  if toHost then
    let read := if q.carry.isEmpty then
        s.engRead c 0 q.ctx who global base (dev + at_) (wordsUp (dev + at_) (len - at_) (stepUp global (dev + at_) (min 4096 (len - at_))))
      else .ok s q.carry
    match read with
    | .ok s bs =>
      let m := stepUp true (host + q.inner) bs.length
      moved ((s.modCmd c n fun q => { q with flags := 1 }).emit (.hostWrite c n pasid (host + q.inner) (bs.take m))) m (bs.drop m)
    | r => s.failAcc c n 2 3 4 (dev + at_) r
  else
    let writes := fun (have_ : Nat) => wordsUp (dev + q.inner) (len - q.inner) (stepUp global (dev + q.inner) (min 4096 have_))
    let n0 := stepUp true (host + at_) (min 4096 (len - at_))
    if q.data.isEmpty ∧ writes q.carry.length = 0 then
      (s.modCmd c n fun q => { q with asked := true }).emit (.hostRead c n pasid (host + at_) n0)
    else
      let held := q.carry ++ (if q.data.isEmpty then [] else (q.data ++ List.replicate n0 0).take n0)
      let m := writes held.length
      let write := if m = 0 then EngAcc.ok s [] else s.engWrite c 0 q.ctx q.uid who n global base (dev + q.inner) (held.take m)
      match write with
      | .ok s _ => moved s m (held.drop m)
      | r => s.failAcc c n 2 3 4 (dev + q.inner) r

end State

/-- A host read that a transfer record asked for has failed (R311); a read that only orders a release has ended. -/
def State.failRecord (s : State) (c n : Nat) : State :=
  match s.cmd? c n with
  | none => s
  | some q =>
    if q.state = .committed then (s.modCmd c n fun q => { q with asked := false, flags := 0 }).postOnce (.copyComplete c n)
    else ({ s.endCmd c n 2 3 (bytesAt q.record 16 8 + q.inner + q.carry.length) s.freeCode with free := s.free + 1 } : State).modCmd c n fun q => { q with asked := false }

/-- TRANSFER_RECORD (R311): the record reached is read, once, and moved; `r` is the host's completion of a read that was asked for,
and has no part in a step that asked for none. -/
def execTransferRecord (c n : Nat) (r : HostEnd) (s : State) : Host.Outcome State Fault Refusal :=
  match s.cmd? c n with
  | none => .next s
  | some q =>
    if q.state = .committed then
      -- the zero-length read of a release at `.sys` has completed
      .next (if q.asked then (s.modCmd c n fun q => { q with asked := false, flags := 0 }).postOnce (.copyComplete c n) else s)
    else if q.state ≠ .active then .next s
    else
      let (base, limit) := s.cmdSpan c q
      let w := bytesAt q.block 0 4
      let global := w.testBit 30
      if bytesAt q.block 4 4 ≤ q.recIndex then .next (s.endCmd c n)
      else
        let at_ := bytesAt q.block 8 8 + 32 * q.recIndex
        match q.asked, r with
        | true, .error => .next (s.failRecord c n)
        | asked, r =>
          let s := match asked, r with
            | true, .ok bs => s.modCmd c n fun q => { q with asked := false, data := if bs.isEmpty then [0] else bs }
            | _, _ => s
          let r := if q.record.isEmpty then s.engRead c 0 q.ctx (.transferRecord c n (.ok [])) global base at_ 32 else .ok s q.record
          match r with
          | .ok s b =>
            let s := s.modCmd c n fun q => { q with record := b }
            match recordOf limit b, s.cmd? c n with
            | some rec_, some q => .next (s.recordStep c n q rec_)
            | _, _ => .next (s.endCmd c n 1 5)
          | e => .next (s.failAcc c n 2 3 4 at_ e)

/-- The completion signal of a command: the counter goes up, or with done_ring Publish(d, 1) is made on the ring at the counter offset
(R309, R50); a broken ring traps the group. -/
def State.copySignal (s : State) (c n : Nat) (q : Cmd) : State :=
  let sp := s.cmdSpan c q
  let d := sp.1 + q.ctr
  if (bytesAt q.block 0 4).testBit 26 then
    let bad : Trap := { mkTrap 5 3 q.ctr with pc := q.pc, lanes := q.lanes }
    let k := s.core c
    if q.ctr % 32 ≠ 0 ∨ sp.2 < q.ctr + 32 ∨ ringValid (k.ringQ d 0) sp.2 = false then s.finishCmd c n [bad]
    else
      match k.ringGive d (k.ringQ d 0) 1 false with
      | some k => (s.setCore c k).finishCmd c n
      | none => (s.setCore c (k.ringFlag d 9)).finishCmd c n [bad]
  else (s.bumpCounter c d).finishCmd c n

/-- COPY_COMPLETE (R312, R143): when the command's window writes allow, the status word, the progress word with resume 0, and
the completion signal. -/
def execCopyComplete (c n : Nat) (s : State) : Host.Outcome State Fault Refusal :=
  match s.cmd? c n with
  | none => .next s
  | some q =>
    if q.state ≠ .committed ∨ s.windowOpen c n q.rel ∨ q.asked then .next s
    else if q.major = 0x62 ∧ q.rel ∧ q.scope = .sys ∧ q.flags = 1 then
      .next ((s.modCmd c n fun q => { q with asked := true }).emit (.hostRead c n (s.pasid q.ctx) 0 0))
    else
      let base := (s.cmdSpan c q).1
      let q := s.lateWindow c n q 4
      let index := if q.major = 0x62 ∧ q.outcome ≠ 0 ∧ q.recIndex < bytesAt q.block 4 4 then q.recIndex else 0
      let s := s.modCore c fun k => { k with eq := k.eq.put n q }
      let s := s.modCore c fun k => (k.writeStore (base + q.desc + 52) (leBytes 4 (q.outcome + 65536 * index))).writeStore
        (base + q.desc + 56) (leBytes 8 (if q.major = 0x62 then q.inner + q.recIndex % 65536 * 2 ^ 32 else q.progress))
      .next (s.copySignal c n q)

end Sys2Proof.Machine
end

