-- ==== Sys2Proof/Machine/Matrix.lean ====
section
/-! DEFINITION. The matrix sequencer (R279 to R292): parameter blocks, W, rows, multicast, ACCLD and ACCST. -/

namespace Sys2Proof.Machine

/-- Mantissa width of a streamed-width code (R282). -/
def streamBits (code : Nat) : Nat := if code ≤ 6 then code + 2 else if code = 7 then 12 else 16

/-- An MMA parameter block (R283). -/
structure MmaBlock where
  n : Nat
  sSrc : Nat
  wSrc : Nat
  wLoad : Bool
  accZero : Bool
  send : Bool
  km1 : Nat
  cols : Nat
  rows : Nat
  accRow : Nat
  w : Nat
  ws : Nat
  s : Nat
  ss : Nat
  pitch : Nat
  mask : Nat
  tag : Nat
deriving DecidableEq, Repr

def mmaBlock (code : Nat) (b : List Byte) : MmaBlock :=
  let f := bytesAt b 0 4
  let g := bytesAt b 4 4
  { n := streamBits code, sSrc := bits f 31 30, wSrc := bits f 29 28, wLoad := f.testBit 27, accZero := f.testBit 26,
    send := f.testBit 25, km1 := bits g 31 24, cols := bits g 23 15 + 1, rows := bits g 14 9 + 1, accRow := bits g 5 0,
    w := bytesAt b 8 8, ws := bytesAt b 16 8, s := bytesAt b 24 8, ss := bytesAt b 32 8, pitch := bits (bytesAt b 40 4) 19 0,
    mask := bytesAt b 44 2, tag := bytesAt b 46 2 }

/-- A command takes an operand by multicast (R285). -/
def MmaBlock.receives (m : MmaBlock) : Bool := m.sSrc == 3 || (m.wLoad && m.wSrc == 3)

/-- K blocks of a K length minus 1 (R284). -/
def kBlocks (km1 : Nat) : Nat := (km1 + 32) / 32

/-- Where a source of R284 is read: the core, the allocation base, whether the address is global, and the address; none when
the quadword is malformed, names a missing team, or its extent leaves the allocation. -/
def State.operand (s : State) (c : Nat) (q : Cmd) (src quad n : Nat) : Option (Nat × Nat × Bool × Nat) :=
  let t := s.team c q.team
  let (base, limit) := s.cmdSpan c q
  let mate := fun (i : Nat) => s.cores.findSome? fun (cc, k) =>
    (k.teams.find? fun (_, y) => y.kind == t.kind && y.queue == t.queue && y.launch == t.launch && y.block == t.block && y.index == i).map
      fun p => (cc, p.2)
  match src with
  | 0 => if addrOk limit false quad n then some (c, base, false, quad) else none
  | 1 => if addrOk limit true quad n then some (c, base, true, quad) else none
  | 2 => if quad = bits quad 51 48 * 2 ^ 48 + bits quad 22 0 then
      match mate (bits quad 51 48) with
      | some (cc, y) => if inAlloc y.size (bits quad 22 0) n then some (cc, y.base, false, bits quad 22 0) else none
      | none => none
    else none
  | _ => if quad = bits quad 51 48 * 2 ^ 48 then (mate (bits quad 51 48)).map fun p => (p.1, 0, false, 0) else none

/-- Read a range page by page. -/
def State.engReadAll : Nat → State → Nat → Nat → Nat → Instr → Bool → Nat → Nat → Nat → EngAcc
  | 0, s, _, _, _, _, _, _, _, _ => .ok s []
  | f + 1, s, c, eng, ctx, who, global, base, addr, n =>
    let m := if global then min n (4096 - addr % 4096) else n
    match s.engRead c eng ctx who global base addr m with
    | .ok s bs =>
      if m = n then .ok s bs
      else
        match State.engReadAll f s c eng ctx who global base (addr + m) (n - m) with
        | .ok s bs' => .ok s (bs ++ bs')
        | r => r
    | r => r

/-- Read an operand of a matrix command, `at_` bytes from its address. -/
def State.readOperand (s : State) (c : Nat) (q : Cmd) (who : Instr) (src quad at_ n : Nat) : EngAcc :=
  match s.operand c q src quad 0 with
  | some (cc, base, global, a) => State.engReadAll (n / 4096 + 2) s cc 2 q.ctx who global base (a + at_) n
  | none => .fault s 3 0

/-- How far a read goes page by page before its first access that fails; none when every access is served. -/
def State.engReach : Nat → State → Nat → Nat → Nat → Instr → Bool → Nat → Nat → Nat → Option Nat
  | 0, _, _, _, _, _, _, _, _, _ => none
  | f + 1, s, c, eng, ctx, who, global, base, addr, n =>
    let m := if global then min n (4096 - addr % 4096) else n
    match s.engRead c eng ctx who global base addr m with
    | .ok s _ => if m = n then none else (State.engReach f s c eng ctx who global base (addr + m) (n - m)).map (m + ·)
    | _ => some 0

/-- The address, in the form of its quadword, at which the read of an operand first fails (R287). -/
def State.operandFault (s : State) (c : Nat) (q : Cmd) (who : Instr) (src quad at_ n : Nat) : Option Nat :=
  match s.operand c q src quad 0 with
  | some (cc, base, global, a) =>
    (State.engReach (n / 4096 + 2) s cc 2 q.ctx who global base (a + at_) n).map (quad + at_ + ·)
  | none => some (quad + at_)

/-- The checks behind BLOCK (R283, R284, R287). -/
def State.mmaOk (s : State) (c : Nat) (q : Cmd) (b : List Byte) : Bool :=
  let m := mmaBlock q.code b
  let kb := kBlocks m.km1
  let w := m.wLoad
  let good := fun (src quad n : Nat) => (s.operand c q src quad n).isSome
  bits (bytesAt b 0 4) 24 0 == 0 && bits (bytesAt b 4 4) 8 6 == 0 && decide (m.accRow + m.rows ≤ 64) &&
  bits (bytesAt b 40 4) 31 20 == 0 && m.pitch % 4 == 0 && decide (4 * m.n * kb ≤ m.pitch) && !anySet b 52 4 &&
  bits (bytesAt b 56 4) 30 7 == 0 && !anySet b 60 4 && decide (bits (bytesAt b 56 4) 6 0 ≤ 64) &&
  (!w || ((m.wSrc == 3 || m.w % 4 == 0) && good m.wSrc m.w (32 * kb * m.cols) && good m.wSrc m.ws (kb * m.cols))) &&
  (m.sSrc == 3 || m.s % 4 == 0) && good m.sSrc m.s ((m.rows - 1) * m.pitch + 4 * m.n * kb) && good m.sSrc m.ss (kb * m.rows)

/-- The checks behind BLOCK of ACCLD and ACCST (R288). -/
def accOk (major limit : Nat) (b : List Byte) : Bool :=
  let w := bytesAt b 0 4
  let e := if bits w 29 28 = 0 then 4 else 2
  let pitch := bytesAt b 16 4
  !w.testBit 31 && bits w 29 28 ≠ 3 && (major == 0x6a || !w.testBit 27) && bits w 26 24 == 0 && bits w 8 6 == 0 &&
  decide (bits w 5 0 + bits w 14 9 ≤ 63) && bytesAt b 8 8 % 16 == 0 && pitch % 16 == 0 && decide (pitch < 2 ^ 20) &&
  addrOk limit (w.testBit 30) (bytesAt b 8 8) (bits w 14 9 * pitch + (bits w 23 15 + 1) * e) && !anySet b 4 4 && !anySet b 20 28 && !anySet b 52 12

namespace State

/-- Start a command of the matrix sequencer (R280, R283, R287, R290, R291). -/
def startMatrix (s : State) (c n : Nat) (q : Cmd) : State :=
  let (base, limit) := s.cmdSpan c q
  let b := (s.core c).readStore (base + q.desc) 64
  let m := mmaBlock q.code b
  let resume := q.major = 0x68 ∧ (bytesAt b 56 4).testBit 31
  let joins := m.send ∨ m.receives
  let s := s.modCmd c n fun q =>
    { q with
      state := .active
      cond := if q.major = 0x68 ∧ joins then 4 else 0
      acquired := true
      block := b
      progress := if resume then bits (bytesAt b 56 4) 6 0 else 0
      asked := false }
  if (s.core c).storeBad (base + q.desc) 64 then s.endCmd c n 4 0x0b q.desc
  else if q.major ≠ 0x68 then
    (if accOk q.major limit b then (s.allotBands c q b).post (.matrixCommandComplete c n) else s.endCmd c n 1 5)
  else if ¬ s.mmaOk c q b then s.endCmd c n 1 5
  else
    let t := s.team c q.team
    let usable : Bool := match t.wrec with
      | some r => r.src ≠ 3 && decide (m.km1 ≤ r.km1 ∧ m.cols - 1 ≤ r.colsm1)
      | none => false
    if ¬ m.wLoad ∧ ¬ usable then s.endCmd c n 2 5
    else
      let s := s.allotBands c q b
      if joins then s.post (.multicastJoin c n) else s.post (.mmaRow c n)

/-! ### One row (R286) -/

/-- A mantissa of a packed block (R271), signed. -/
def packed (n : Nat) (bs : List Byte) (block e : Nat) : Int :=
  let v := leNat ((bs.drop (4 * n * block)).take (4 * n)) / 2 ^ (n * e) % 2 ^ n
  if v < 2 ^ (n - 1) then v else (v : Int) - 2 ^ n

/-- One output of a row: the accumulator value and the flags (R286). `kbW` is the number of K blocks of the loaded W. -/
def outputOf (m : MmaBlock) (kbW : Nat) (sm ss wm ws : List Byte) (col : Nat) (y0 : Word) : Word × Word :=
  (List.range 8).foldl (fun (a : Word × Word) kb =>
    let x : Nat × Word :=
      if m.km1 < 32 * kb then (0, 0)
      else
        let se := (ss.getD kb 0).toNat
        let we := (ws.getD (kbW * col + kb) 0).toNat
        if se = 255 ∨ we = 255 then (Fp.f32.nan, flInvalid)
        else
          let t := (List.range (min 32 (m.km1 + 1 - 32 * kb))).foldl (fun (t : Int) e =>
            t + packed m.n sm kb e * packed 8 wm (kbW * col + kb) e) 0
          Fp.roundInt Fp.f32 .rne 0 t ((se : Int) + we - 254 - (m.n - 2) - 6) false
    let y := Fp.addVal Fp.f32 (Fp.unpack Fp.f32 a.1.toNat) (Fp.unpack Fp.f32 x.1)
    (w32 y.1, a.2 ||| x.2 ||| y.2)) (y0, 0)

/-- Key of a team-relative accumulator row in `Core.acc`. -/
def accKey (t : Team) (row : Nat) : Nat := ((t.bands.look (row / 8)).getD 0) * 4096 + row % 8 * 512

/-- Compute one row of a command on its core (R286). -/
def computeRow (s : State) (c n : Nat) (q : Cmd) (sm ss : List Byte) : State :=
  let m := mmaBlock q.code q.block
  let t := s.team c q.team
  let kbW := match t.wrec with
    | some r => kBlocks r.km1
    | none => kBlocks m.km1
  let k := s.core c
  let key := accKey t (m.accRow + q.progress)
  let loaded := match t.wrec with
    | some r => r.colsm1 + 1
    | none => m.cols
  let cut := kbW * 32 * loaded
  -- a column that a multicast sender did not load has no stated result: a free value
  let outs := (List.range m.cols).map fun col =>
    if loaded ≤ col then (Config.freeWord (s.free + 2 * col), Config.freeWord (s.free + 2 * col + 1) &&& 0x17)
    else outputOf m kbW sm ss (k.arrayData.take cut) (k.arrayData.drop cut) col (if m.accZero then 0 else k.acc.get (key + col))
  let s := if loaded < m.cols then { s with free := s.free + 2 * m.cols } else s
  let s := s.setCore c { k with acc := k.acc.write key (outs.map (·.1)), narrow := s.alarm }
  s.modCmd c n fun q => { q with progress := q.progress + 1, flags := outs.foldl (fun (f : Word) o => f ||| o.2) q.flags }

/-- Load W into the array (R279, R290) from a source, and make it the team's record when the command loads it. -/
def loadW (s : State) (c : Nat) (q : Cmd) (who : Instr) (r : WRecord) : EngAcc :=
  let kb := kBlocks r.km1
  let cols := r.colsm1 + 1
  match s.readOperand c q who r.src r.addr 0 (32 * kb * cols) with
  | .ok s wm =>
    match s.readOperand c q who r.src r.scales 0 (kb * cols) with
    | .ok s ws => .ok ((s.modCore c fun k => { k with arrayData := wm ++ ws, arrayW := some q.team }).modTeam c q.team
        fun t => { t with wrec := some r }) (wm ++ ws)
    | e => e
  | e => e

/-- The address at which a load of W first fails (R287). -/
def faultW (s : State) (c : Nat) (q : Cmd) (who : Instr) (r : WRecord) : Nat :=
  let kb := kBlocks r.km1
  let cols := r.colsm1 + 1
  ((s.operandFault c q who r.src r.addr 0 (32 * kb * cols)).or (s.operandFault c q who r.src r.scales 0 (kb * cols))).getD r.addr

/-- A command has joined its sender, and the receivers of its own multicast, as far as it has them (R285). -/
def joined (q : Cmd) : Bool :=
  let m := mmaBlock q.code q.block
  (!m.send || m.mask == 0 || !q.parties.isEmpty) && (!m.receives || q.up.isSome)

/-- The receivers that a command feeds: those that joined it and have not ended. -/
def fed (s : State) (c n : Nat) : List (Nat × Nat) :=
  (((s.cmd? c n).map (·.parties)).getD []).filter fun p => (s.cmd? p.1 p.2).any fun y => y.state == .active && y.up == some (c, n)

/-- The commands that a command's copies reach: its receivers, and those of a receiver that sends on, each behind its sender. -/
def fedBy : Nat → State → Nat → Nat → List (Nat × Nat)
  | 0, _, _, _ => []
  | f + 1, s, c, n => (s.fed c n).flatMap fun p => p :: fedBy f s p.1 p.2

/-- The command at the head of a chain of senders. -/
def feeder : Nat → State → Nat → Nat → Nat × Nat
  | 0, _, c, n => (c, n)
  | f + 1, s, c, n =>
    match (s.cmd? c n).bind (·.up) with
    | some p => feeder f s p.1 p.2
    | none => (c, n)

/-- A command and those that it feeds end with one outcome. -/
def endParties (s : State) (c n : Nat) (outcome cause addr resp : Nat) : State :=
  (s.fedBy 16 c n).foldl (fun (s : State) p => s.endCmd p.1 p.2 outcome cause addr resp) (s.endCmd c n outcome cause addr resp)

/-- A failed access ends the command, and those that it feeds, with one status. -/
def failRow (s : State) (c n addr : Nat) : EngAcc → State
  | .ok _ _ => s
  | .wait s' => s'
  | .poison s' => s'.endParties c n 4 0x0b addr 0
  | .fault s' cause resp => s'.endParties c n 3 cause addr resp
  | .window s' => s'.endParties c n 3 0x10 addr 0

/-- Bytes of the mantissas of an S row. -/
def rowLen (q : Cmd) : Nat := 4 * (mmaBlock q.code q.block).n * kBlocks (mmaBlock q.code q.block).km1

/-- The next S row of a command, mantissas and then scales, from its own sources (R284, R286). -/
def readRow (s : State) (c : Nat) (q : Cmd) (who : Instr) : EngAcc :=
  let m := mmaBlock q.code q.block
  let kb := kBlocks m.km1
  match s.readOperand c q who m.sSrc m.s (q.progress * m.pitch) (rowLen q) with
  | .ok s sm =>
    match s.readOperand c q who m.sSrc m.ss (kb * q.progress) kb with
    | .ok s ss => .ok s (sm ++ ss)
    | e => e
  | e => e

/-- The address at which that read first fails (R287). -/
def faultRow (s : State) (c : Nat) (q : Cmd) (who : Instr) : Nat :=
  let m := mmaBlock q.code q.block
  let kb := kBlocks m.km1
  ((s.operandFault c q who m.sSrc m.s (q.progress * m.pitch) (rowLen q)).or
    (s.operandFault c q who m.sSrc m.ss (kb * q.progress) kb)).getD m.s

/-- The rows that the commands fed by a sender compute beside its row (R285): a copy of their sender's, or each a row of its own; or the
first whose own row cannot be read. `rows` holds those of the senders before them. -/
def readParties (s : State) (who : Instr) (rows : List ((Nat × Nat) × List Byte)) :
    List (Nat × Nat) → State × List ((Nat × Nat) × List Byte) × Option ((Nat × Nat) × EngAcc)
  | [] => (s, rows, none)
  | p :: t =>
    match s.cmd? p.1 p.2 with
    | none => s.readParties who rows t
    | some y =>
      let m := mmaBlock y.code y.block
      if m.rows ≤ y.progress then s.readParties who rows t
      else
        match if m.sSrc = 3 then .ok s (((rows.find? fun r => some r.1 == y.up).map (·.2)).getD []) else s.readRow p.1 y who with
        | .ok s r => s.readParties who (rows ++ [(p, r)]) t
        | e => (s, rows, some (p, e))

/-- A sender ends: receivers of W alone that have rows left go on without it. -/
def letGo (s : State) (c n : Nat) : State :=
  (s.fed c n).foldl (fun (s : State) p => (s.modCmd p.1 p.2 fun y => { y with up := none }).post (.mmaRow p.1 p.2)) s

/-- A party computes a row, and its command ends with its last. -/
def partyRow (s : State) (p : Nat × Nat) (row : List Byte) : State :=
  match s.cmd? p.1 p.2 with
  | none => s
  | some y =>
    let s := s.computeRow p.1 p.2 y (row.take (rowLen y)) (row.drop (rowLen y))
    if (mmaBlock y.code y.block).rows ≤ y.progress + 1 then (s.letGo p.1 p.2).endCmd p.1 p.2 else s

/-- The receivers of W take their copy, and send it on (R285). -/
def giveW : Nat → State → Nat → Nat → List Byte → WRecord → State
  | 0, s, _, _, _, _ => s
  | f + 1, s, c, n, ws, own =>
    (s.fed c n).foldl (fun (s : State) p =>
      match s.cmd? p.1 p.2 with
      | none => s
      | some y =>
        let m := mmaBlock y.code y.block
        if ¬ (m.wLoad ∧ m.wSrc = 3) then s
        else
          let s := s.modCore p.1 fun k => { k with arrayData := ws, arrayW := some y.team }
          let s := s.modTeam p.1 y.team fun t => { t with wrec := some { own with src := 3 } }
          giveW f ((s.modCmd p.1 p.2 fun y => { y with asked := true }).post (.mmaRow p.1 p.2)) p.1 p.2 ws own) s

end State

/-- MMA_ROW (R285, R286): W is loaded first; then one S row is fetched and accumulated, at the head of a multicast for every command that
it feeds with it, so that the parties advance together. -/
def execMmaRow (c n : Nat) (s : State) : Host.Outcome State Fault Refusal :=
  match s.cmd? c n with
  | none => .next s
  | some q =>
    let m := mmaBlock q.code q.block
    let who : Instr := .mmaRow c n
    let t := s.team c q.team
    let own : WRecord := { src := m.wSrc, addr := m.w, scales := m.ws, km1 := m.km1, colsm1 := m.cols - 1 }
    let held := fun (p : Nat × Nat) => (s.cmd? p.1 p.2).any fun y => y.cond ≠ 0
    if q.state ≠ .active ∨ q.major ≠ 0x68 ∨ q.cond ≠ 0 then .next s
    else if ¬ q.asked then
      let ready := fun (s : State) => (s.modCmd c n fun q => { q with asked := true }).post who
      if m.wLoad ∧ m.wSrc = 3 then .next s
      else if m.wLoad then
        -- the copies of W go out when every command that they reach has joined
        if (s.fedBy 16 c n).any held then .next (s.post who)
        else
          match s.loadW c q who own with
          | .ok s ws => .next (ready (State.giveW 16 s c n ws own))
          | e => .next (s.failRow c n (s.faultW c q who own) e)
      else
        match t.wrec with
        | none => .next (s.endCmd c n 2 5)
        | some r =>
          if (s.core c).arrayW = some q.team then .next (ready s)
          else
            match s.loadW c q who r with
            | .ok s _ => .next (ready s)
            | e => .next (s.failRow c n (s.faultW c q who r) e)
    else if m.rows ≤ q.progress then .next ((s.letGo c n).endCmd c n)
    else if q.up.isSome then .next s
    else
      let ps := s.fedBy 16 c n
      -- the row waits until every receiver has joined and holds its W
      if ps.any fun p => held p || (s.cmd? p.1 p.2).any fun y => !y.asked then .next (s.post who)
      else
        match s.readRow c q who with
        | .ok s row =>
          match s.readParties who [((c, n), row)] ps with
          | (s, rows, none) => .next ((rows.foldl (fun (s : State) r =>
              if r.1 = (c, n) then s.computeRow c n q (r.2.take (State.rowLen q)) (r.2.drop (State.rowLen q)) else s.partyRow r.1 r.2) s).post who)
          | (_, _, some (_, .wait s)) => .next s
          | (_, _, some (p, e)) =>
            .next ((s.failRow p.1 p.2 (((s.cmd? p.1 p.2).map fun y => s.faultRow p.1 y who).getD 0) e).post who)
        | e => .next (s.failRow c n (s.faultRow c q who) e)

/-- MULTICAST_JOIN (R285): the sender joins when every other team of its mask has a matching receiver in its sequencer; a mismatch, and
a mask that names its own team, ends every party. A command that also receives starts when both its joins are made. -/
def execMulticastJoin (c n : Nat) (s : State) : Host.Outcome State Fault Refusal :=
  match s.cmd? c n with
  | none => .next s
  | some q =>
    let m := mmaBlock q.code q.block
    let me := s.team c q.team
    if q.state ≠ .active ∨ q.cond ≠ 4 then .next s
    else if ¬ m.send ∨ ¬ q.parties.isEmpty then .next s
    else
      let names := fun (quad : Nat) => bits quad 51 48 == me.index
      let receiver := fun (i : Nat) => s.cores.findSome? fun (cc, k) =>
        (k.eq.find? fun (_, y) =>
          let t := (k.teams.look y.team).getD {}
          let my := mmaBlock y.code y.block
          y.state == .active && y.cond == 4 && y.up.isNone && y.major == 0x68 && t.queue == me.queue && t.launch == me.launch
            && t.block == me.block && t.index == i && my.tag == m.tag && my.receives
            && (my.sSrc ≠ 3 || names my.s) && (!(my.wLoad && my.wSrc == 3) || names my.w)).map fun p => (cc, p.1)
      let found := (List.range 16).filterMap fun i => if m.mask.testBit i && i != me.index then some (receiver i) else none
      if found.any (·.isNone) then .next (s.post (.multicastJoin c n))
      else
        let ps := found.filterMap id
        let bad := m.mask.testBit me.index || ps.any fun p => match s.cmd? p.1 p.2 with
          | none => true
          | some y =>
            let my := mmaBlock y.code y.block
            y.code ≠ q.code || my.km1 ≠ m.km1 || (my.sSrc == 3 && my.rows ≠ m.rows) || (my.wLoad && my.wSrc == 3 && !m.wLoad)
        let s := s.modCmd c n fun q => { q with parties := ps }
        let s := ps.foldl (fun (s : State) p => s.modCmd p.1 p.2 fun y => { y with up := some (c, n) }) s
        if bad then .next (s.endParties c n 1 5 0 0)
        else
          .next (((c, n) :: ps).foldl (fun (s : State) p =>
            if (s.cmd? p.1 p.2).any State.joined then (s.modCmd p.1 p.2 fun y => { y with cond := 0 }).post (.mmaRow p.1 p.2) else s) s)

/-- MULTICAST_TIMEOUT (R285). -/
def execMulticastTimeout (c n : Nat) (s : State) : Host.Outcome State Fault Refusal :=
  match s.cmd? c n with
  | none => .next s
  | some q => .next (if q.state = .active ∧ q.cond = 4 then s.endParties c n 5 8 0 0 else s)

/-- Flags of the status word (R287). -/
def statusFlags (f : Word) : Nat :=
  bit (f.getLsbD 0) * 2 ^ 8 + bit (f.getLsbD 1) * 2 ^ 9 + bit (f.getLsbD 2) * 2 ^ 10 + bit (f.getLsbD 4) * 2 ^ 11

/-- An element that ACCLD widens (R288). -/
def widen (fmt v : Nat) : Word × Word :=
  match fmt with
  | 0 => if Fp.isNan32 (w32 v) then (w32 Fp.f32.nan, flIf (Fp.isSig32 (w32 v)) flInvalid) else (w32 v, 0)
  | 1 => Fp.convert .f32 .bf16 .rne 0 (w32 v)
  | _ => Fp.convert .f32 .f16 .rne 0 (w32 v)

/-- An element that ACCST stores (R288). -/
def narrow (fmt : Nat) (w : Word) : Word × Word :=
  match fmt with
  | 0 => (w, 0)
  | 1 => Fp.convert .bf16 .f32 .rne 0 w
  | _ => Fp.convert .f16 .f32 .rne 0 w

/-- One accumulator row of ACCLD or ACCST (R288). -/
def State.accStep (s : State) (c n : Nat) (q : Cmd) : State :=
  let w := bytesAt q.block 0 4
  let fmt := bits w 29 28
  let e := if fmt = 0 then 4 else 2
  let len := (bits w 23 15 + 1) * e
  let t := s.team c q.team
  let base := (s.cmdSpan c q).1
  let global := w.testBit 30
  let addr := bytesAt q.block 8 8 + q.progress * bytesAt q.block 16 4
  let key := State.accKey t (bits w 5 0 + q.progress)
  let who : Instr := .matrixCommandComplete c n
  if bits w 14 9 < q.progress then s.endCmd c n
  else if q.major = 0x69 then
    match State.engReadAll 2 s c 2 q.ctx who global base addr len with
    | .ok s bs =>
      let vs := (List.range (bits w 23 15 + 1)).map fun i => widen fmt (bytesAt bs (i * e) e)
      ((s.modCore c fun k => { k with acc := k.acc.write key (vs.map (·.1)) }).modCmd c n fun q =>
        { q with progress := q.progress + 1, flags := vs.foldl (fun (f : Word) v => f ||| v.2) q.flags }).post who
    | r => s.failAcc c n 3 4 3 (addr + (State.engReach 2 s c 2 q.ctx who global base addr len).getD 0) r
  else
    let vs := ((s.core c).acc.read key (bits w 23 15 + 1)).map (narrow fmt)
    let bs := vs.flatMap fun v => leBytes e v.1.toNat
    let m := stepUp global addr len
    let put := fun (s : State) (at_ : Nat) (bs : List Byte) => s.engWrite c 2 q.ctx q.uid who n global base (addr + at_) bs
    let stored := fun (s : State) =>
      let s := if w.testBit 27 then s.modCore c fun k => { k with acc := k.acc.write key (vs.map fun _ => 0) } else s
      (s.modCmd c n fun q => { q with progress := q.progress + 1, flags := vs.foldl (fun (f : Word) v => f ||| v.2) q.flags }).post who
    match put s 0 (bs.take m) with
    | .ok s1 _ =>
      if m = len then stored s1
      else
        -- nothing of a row is written unless both its pages take it (R287)
        match put s m (bs.drop m) with
        | .ok _ _ =>
          match put s1 m (bs.drop m) with
          | .ok s _ => stored s
          | r => s.failAcc c n 3 4 3 (addr + m) r
        | r => s.failAcc c n 3 4 3 (addr + m) r
    | r => s.failAcc c n 3 4 3 addr r

/-- MATRIX_COMMAND_COMPLETE (R287, R288): the rows of ACCLD and ACCST, then status, progress and counter. -/
def execMatrixCommandComplete (c n : Nat) (s : State) : Host.Outcome State Fault Refusal :=
  match s.cmd? c n with
  | none => .next s
  | some q =>
    if q.state = .active ∧ q.major ≠ 0x68 then .next (s.accStep c n q)
    else if q.state ≠ .committed ∨ s.windowOpen c n q.rel then .next s
    else
      let base := (s.cmdSpan c q).1
      let q := s.lateWindow c n q 3
      let s := s.modCore c fun k => { k with eq := k.eq.put n q }
      let s := s.modCore c fun k => k.writeStore (base + q.desc + 48) (leBytes 4 (q.outcome + statusFlags q.flags))
      let s := if q.major = 0x68 then s.modCore c fun k => k.writeStore (base + q.desc + 56) (leBytes 4 (q.progress % 128)) else s
      .next (s.signal c n)

end Sys2Proof.Machine
end

