-- ==== Sys2Proof/Machine/RayMath.lean ====
section
/-! DEFINITION. Rays, hits and nodes as words, and the exact arithmetic of the box and triangle units (R87, R315 to R318, R322 to
R325). -/

namespace Sys2Proof.Machine

/-! ### Flags of a ray (R316) -/

def flagOf (ray : List Word) (hi lo : Nat) : Nat := wf32 (ray.getD 13 0) hi lo
def setFlag (ray : List Word) (hi lo x : Nat) : List Word := ray.set 13 (w32 (setBits (ray.getD 13 0).toNat hi lo x))
def Ray.inst (ray : List Word) : Bool := flagOf ray 18 18 == 1
def Ray.done (ray : List Word) : Bool := flagOf ray 16 16 == 1
def Ray.depth (ray : List Word) : Nat := flagOf ray 21 19
def Ray.tid (ray : List Word) : Nat := (ray.getD 9 0).toNat
/-- Words a to b − 1 replaced. -/
def setWords (ray : List Word) (a : Nat) (ws : List Word) : List Word := (ws.zipIdx).foldl (fun r p => r.set (a + p.2) p.1) ray

/-- One more send, saturating (R316). -/
def addHop (ray : List Word) : List Word := setFlag ray 9 0 (min 1023 (flagOf ray 9 0 + 1))

/-- An FP16 value widened to FP32 (R318). -/
def widen16 (h : Nat) : Word := (Fp.toFloat Fp.f32 .rne 0 (Fp.unpack Fp.f16 h)).1

/-- The hit of a ray with a status and a shader index (R318). -/
def hitOf (ray : List Word) (status : Nat) (shader : Word) : List Word :=
  let r := fun i => ray.getD i 0
  let fl := status * 2 ^ 29 + flagOf ray 11 11 * 2 ^ 28 + flagOf ray 31 30 * 2 ^ 26 + flagOf ray 15 13 * 2 ^ 10 + flagOf ray 9 0
  [r 8, r 7, r 10, r 11, shader, widen16 (wf32 (r 12) 15 0), widen16 (wf32 (r 12) 31 16), w32 fl, r 22, r 23, 0, 0]

/-- A hit that the directory, a poisoned packet or TERMG makes (R96, R318, R353, R387). -/
def lostHit (ray : List Word) (status : Nat) : List Word := hitOf ray status 0xffffffff

/-! ### Exact values -/

/-- A finite FP32 value times 2¹⁴⁹. -/
def fx (w : Word) : Int :=
  match Fp.v32 w with
  | .fin neg m e => (if neg then -1 else 1) * (m : Int) * 2 ^ (e + 149).toNat
  | .nan _ | .inf _ => 0

/-- RoundFP32 of an exact integer times a power of two: the word and the flags raised (R5). -/
def roundFx (mode : RMode) (x : Int) (e : Int) : Word × Word :=
  let r := Fp.roundVal Fp.f32 mode 0 (x < 0) x.natAbs 1 e
  (w32 r.1, r.2)

/-- An exact quotient, or an infinity. -/
inductive Quo
  | ninf
  | fin (n : Int) (d : Nat)
  | pinf
deriving DecidableEq, Repr

def Quo.lt : Quo → Quo → Bool
  | .ninf, .ninf => false
  | .ninf, _ => true
  | .fin _ _, .ninf => false
  | .fin n d, .fin m e => decide (n * e < m * d)
  | .fin _ _, .pinf => true
  | .pinf, _ => false

/-- (b − o) / d for d ≠ 0, b possibly infinite. -/
def quotient (b o d : Word) : Quo :=
  let dn := decide (fx d < 0)
  if Fp.isInf32 b then (if b.getLsbD 31 = dn then .pinf else .ninf)
  else
    let n := fx b - fx o
    .fin (if dn then -n else n) (fx d).natAbs

/-- RoundFP32 of a quotient: the word and the flags raised (R5); an infinity is exact. -/
def Quo.round (mode : RMode) : Quo → Word × Word
  | .ninf => (0xff800000, 0)
  | .pinf => (0x7f800000, 0)
  | .fin n d => let r := Fp.roundVal Fp.f32 mode 0 (n < 0) n.natAbs d 0; (w32 r.1, r.2)

def maxW (a b : Word) : Word := if Fp.lt32 a b then b else a
def minW (a b : Word) : Word := if Fp.lt32 b a then b else a

/-! ### Nodes (R87, R88) -/

def byteAt (b : List Byte) (i : Nat) : Nat := (b.getD i 0).toNat
def wordAt (b : List Byte) (i : Nat) : Word := w32 (leNat ((b.drop i).take 4))

/-- A child's bound in a plane, and the flags its rounding raises (R87). -/
def planeBound (b : List Byte) (a q : Nat) (mode : RMode) : Word × Word :=
  roundFx mode (fx (wordAt b (4 * a)) + (q : Int) * 2 ^ (byteAt b (12 + a) + 22)) (-149)

/-- A malformed reference, for a treelet of n nodes and m slots (R88). -/
def badRef (n m : Nat) (ref : Word) : Bool :=
  let r := ref.toNat
  match bits r 31 30 with
  | 0 => bits r 29 10 ≠ 0 || decide (n ≤ bits r 9 0)
  | 1 => bits r 29 15 ≠ 0 || decide (m < bits r 10 0 + bits r 14 11 + 1)
  | 2 => bits r 29 24 ≠ 0
  | _ => bits r 29 11 ≠ 0 || decide (m < bits r 10 0 + 2)

/-- A malformed node, or one with a malformed reference of a valid child (R87, R88). -/
def badNode (n m : Nat) (b : List Byte) : Bool :=
  (List.range 3).any (fun a => byteAt b (12 + a) == 255) || decide (16 ≤ byteAt b 15) ||
    (List.range 8).any (fun i => byteAt b (40 + i) ≠ 0) ||
    (List.range 4).any fun k => (byteAt b 15).testBit k && badRef n m (wordAt b (48 + 4 * k))

/-- Child k is not valid, or its box is empty: it is not tested (R322). -/
def boxSkipped (b : List Byte) (k : Nat) : Bool :=
  !(byteAt b 15).testBit k || (List.range 3).any fun a => decide (byteAt b (19 + 6 * k + a) < byteAt b (16 + 6 * k + a))

/-- Near and far of child k in plane a, or a miss, and the flags raised (R322). The spec states no bound for an origin of the node that
is not finite, and no quotient for an origin or direction of the ray that is not: these are free values. -/
def boxPlane (free : Nat → Word) (ray : List Word) (b : List Byte) (k a : Nat) : Option (Word × Word) × Word :=
  let o := ray.getD a 0
  let d := ray.getD (3 + a) 0
  let placed := Fp.finite32 (wordAt b (4 * a))
  let lo := if placed then planeBound b a (byteAt b (16 + 6 * k + a)) .rd else (free (16 * k + 4 * a), 0)
  let hi := if placed then planeBound b a (byteAt b (19 + 6 * k + a)) .ru else (free (16 * k + 4 * a + 1), 0)
  let fl := lo.2 ||| hi.2
  if d.toNat % 2 ^ 31 = 0 then (if Fp.lt32 o lo.1 ∨ Fp.lt32 hi.1 o then none else some (0xff800000, 0x7f800000), fl)
  else if placed ∧ Fp.finite32 o ∧ Fp.finite32 d then
    let x := quotient lo.1 o d
    let y := quotient hi.1 o d
    let near := (if y.lt x then y else x).round .rd
    let far := (if y.lt x then x else y).round .ru
    (some (near.1, far.1), fl ||| near.2 ||| far.2)
  else (some (free (16 * k + 4 * a + 2), free (16 * k + 4 * a + 3)), fl)

/-- The test of child k: its entry t when the ray enters its box, and the flags raised, plane by plane until a miss (R322). With a t_min
that is no number the entry is a free value. -/
def boxChild (free : Nat → Word) (ray : List Word) (b : List Byte) (k : Nat) : Option Word × Word :=
  if boxSkipped b k then (none, 0)
  else
    let start : Option (Word × Word) × Word := (some (ray.getD 6 0, 0x7f800000), 0)
    let r := (List.range 3).foldl (fun (acc : Option (Word × Word) × Word) a =>
      match acc.1 with
      | none => acc
      | some (te, tx) =>
        let p := boxPlane free ray b k a
        (p.1.map fun q => (maxW te q.1, minW tx q.2), acc.2 ||| p.2)) start
    (r.1.bind fun (te, tx) =>
      let te := if Fp.isNan32 (ray.getD 6 0) then free (16 * k + 12) else te
      if Fp.le32 te tx ∧ Fp.lt32 te (ray.getD 7 0) then some te else none, r.2)

/-- The eight result words of BOXT (R322). -/
def boxResult (free : Nat → Word) (ray : List Word) (b : List Byte) : List Word :=
  let hits := (List.range 4).filterMap fun k => (boxChild free ray b k).1.map fun t => (wordAt b (48 + 4 * k), t)
  let order := sortBy (fun (x y : Word × Word) => Fp.lt32 x.2 y.2) hits
  (List.range 4).map (fun i => ((order[i]?).map (·.1)).getD 0xffffffff)
    ++ (List.range 4).map fun i => ((order[i]?).map (·.2)).getD 0x7f800000

/-- The flags that BOXT raises. -/
def boxFlags (free : Nat → Word) (ray : List Word) (b : List Byte) : Word :=
  (List.range 4).foldl (fun f k => f ||| (boxChild free ray b k).2) 0

/-! ### Triangles (R89, R323) -/

abbrev Vec3 := Int × Int × Int
def vec (f : Nat → Word) (i : Nat) : Vec3 := (fx (f i), fx (f (i + 1)), fx (f (i + 2)))
def dot (a b : Vec3) : Int := a.1 * b.1 + a.2.1 * b.2.1 + a.2.2 * b.2.2
def cross (a b : Vec3) : Vec3 := (a.2.1 * b.2.2 - a.2.2 * b.2.1, a.2.2 * b.1 - a.1 * b.2.2, a.1 * b.2.1 - a.2.1 * b.1)
def minus (a b : Vec3) : Vec3 := (a.1 - b.1, a.2.1 - b.2.1, a.2.2 - b.2.2)

/-- n / d < the FP32 value w, possibly infinite, for d > 0; never, when w is no number. -/
def below (n : Int) (d : Nat) (w : Word) : Bool :=
  if Fp.isNan32 w then false
  else if Fp.isInf32 w then !w.getLsbD 31 else decide (n * 2 ^ 149 < fx w * d)

/-- An accepted triangle: the exact t, u, v as numerators over a positive denominator, and whether it shows its back. -/
structure TriHit where
  t : Int
  u : Int
  v : Int
  den : Nat
  back : Bool
deriving DecidableEq, Repr

/-- The outcome of a triangle's geometric test; open where the spec states none, with the back flag where it does. -/
inductive TriTest
  | miss
  | hit (h : TriHit)
  | unstated (back : Option Bool)
deriving DecidableEq, Repr

/-- The geometric test of one triangle against the ray's interval (R323). -/
def triTest (ray : List Word) (b : List Byte) (tmax : Word) : TriTest :=
  let w := wordAt b
  let number := fun (i : Nat) => (List.range 3).all fun a => Fp.finite32 (ray.getD (i + a) 0)
  let d := vec (fun i => ray.getD i 0) 3
  let o := vec (fun i => ray.getD i 0) 0
  let (v0, e1, e2) := (vec (fun i => w (4 * i)) 0, vec (fun i => w (4 * i)) 3, vec (fun i => w (4 * i)) 6)
  let den := dot d (cross e1 e2)
  let p := minus v0 o
  let sg : Int := if den < 0 then -1 else 1
  let t := sg * dot p (cross e1 e2)
  let u := -sg * dot d (cross p e2)
  let v := -sg * dot d (cross e1 p)
  let n := den.natAbs
  let double := byteAt b 45 / 2 % 2 == 1
  if ¬ number 3 then .unstated none
  else if den = 0 ∨ (¬ double ∧ 0 < den) then .miss
  else if ¬ number 0 then .unstated (some (decide (0 < den)))
  else if u < 0 ∨ v < 0 ∨ (n : Int) < u + v ∨ below t n (ray.getD 6 0) ∨ (¬ Fp.isNan32 tmax ∧ ¬ below t n tmax) then .miss
  else .hit { t, u, v, den := n, back := decide (0 < den) }

/-- What TRIT leaves: the ray with its best hit, and the result word. -/
structure TriRun where
  ray : List Word
  acc : Nat := 0
  term : Bool := false
  cand : Nat := 0
  flags : Word := 0
deriving DecidableEq, Repr

/-- A triangle that the ray does not test: its mask does not meet the ray's, or a word of it is not finite (R323). -/
def triSkipped (ray : List Word) (b : List Byte) : Bool :=
  byteAt b 44 &&& flagOf ray 29 22 == 0 || !(List.range 9).all fun i => Fp.finite32 (wordAt b (4 * i))

/-- A triangle of the run is hit at a parameter t, with v and u as FP16 and the back flag (R323). -/
def TriRun.take (r : TriRun) (j : Nat) (b : List Byte) (t uv : Word) (back : Bool) (flags : Word) : TriRun :=
  if byteAt b 45 % 2 = 0 then { r with cand := r.cand ||| 2 ^ j }
  else
    let ray := setWords r.ray 7 [t]
    let ray := setWords ray 10 [wordAt b 36, if Ray.inst ray then ray.getD 20 0 else 0xffffffff, uv]
    { r with
      ray := setFlag ray 11 11 (bit back), acc := r.acc + 1, term := flagOf ray 31 30 == 1, flags := r.flags ||| flags }

/-- One triangle of the run (R323). Where the ray's words give the test no result, whether it hits, and t, u and v, are free values. -/
def triStep (free : Nat → Word) (r : TriRun) (j : Nat) (b : List Byte) : TriRun :=
  if r.term ∨ triSkipped r.ray b then r
  else
    match triTest r.ray b (r.ray.getD 7 0) with
    | .miss => r
    | .hit h =>
      let half := fun (x : Int) => Fp.roundVal Fp.f16 .rne 0 (x < 0) x.natAbs h.den 0
      let t := Fp.roundVal Fp.f32 .rne 0 (h.t < 0) h.t.natAbs h.den 0
      r.take j b (w32 t.1) (w32 ((half h.v).1 * 65536 + (half h.u).1)) h.back (t.2 ||| (half h.v).2 ||| (half h.u).2)
    | .unstated back =>
      if (free (4 * j)).getLsbD 0 then
        r.take j b (free (4 * j + 1)) (free (4 * j + 2)) (back.getD ((free (4 * j + 3)).getLsbD 0)) 0
      else r

/-- TRIT over a run of triangles (R323). -/
def triRun (free : Nat → Word) (ray : List Word) (tris : List (List Byte)) : TriRun :=
  tris.zipIdx.foldl (fun r (b, j) => triStep free r j b) { ray }
def TriRun.result (r : TriRun) : Word := w32 (r.cand * 65536 + bit r.term * 32 + r.acc)

/-! ### Instances (R90, R325) -/

/-- Origin and direction in object space, each word with the flags of its rounding; none when an operand is not finite (R325). -/
def objectSpace (ray : List Word) (b : List Byte) : List (Word × Word) :=
  let x := fun i j => wordAt b (16 * i + 4 * j)
  let r := fun i => ray.getD i 0
  let finite := (List.range 12).all (fun i => Fp.finite32 (wordAt b (4 * i))) && (List.range 6).all fun i => Fp.finite32 (r i)
  if ¬ finite then []
  else
    let row := fun (i base : Nat) => fx (x i 0) * fx (r base) + fx (x i 1) * fx (r (base + 1)) + fx (x i 2) * fx (r (base + 2))
    ((List.range 3).map fun i => roundFx .rne (row i 0 + fx (x i 3) * 2 ^ 149) (-298))
      ++ (List.range 3).map fun i => roundFx .rne (row i 3) (-298)

/-- Origin and direction in object space; none when a word is not finite or the direction is zero (R325). -/
def enterSpace (ray : List Word) (b : List Byte) : Option (List Word) :=
  let od := (objectSpace ray b).map (·.1)
  if od.all Fp.finite32 ∧ (od.drop 3).any (fun w => w.toNat % 2 ^ 31 ≠ 0) then some od else none

/-- The flags that RXF raises. -/
def spaceFlags (ray : List Word) (b : List Byte) : Word := (objectSpace ray b).foldl (fun f p => f ||| p.2) 0

/-! ### The part of RAYFWD that follows the push (R324) -/

inductive FwdEnd
  | send | exit | hold
deriving DecidableEq, Repr

/-- The ordering key of a key word (R324). -/
def orderKey (k : Word) : Word := k &&& 0x7ffff800

/-- Pending entries 0 to n − 1 of a ray: treelet ID and key word. -/
def Ray.entries (ray : List Word) (n : Nat) : List (Word × Word) :=
  (List.range n).map fun k => (ray.getD (14 + 2 * k) 0, ray.getD (15 + 2 * k) 0)

/-- The ray with its pending entries, of which c places exist. -/
def Ray.setEntries (ray : List Word) (c : Nat) (es : List (Word × Word)) : List Word :=
  setFlag (setWords ray 14 ((List.range c).flatMap fun k => [((es[k]?).map (·.1)).getD 0, ((es[k]?).map (·.2)).getD 0]))
    21 19 es.length

/-- Push, prune, sort and choose (R324); a Send's or an exit's hop is counted by the sender. -/
def forwardRay (ray : List Word) (q : List (Word × Word)) : List Word × FwdEnd :=
  let c := if Ray.inst ray then 3 else 4
  let tmax := ray.getD 7 0
  let live := (Ray.entries ray (min (Ray.depth ray) c) ++ q).filter fun e =>
    !(!Fp.isNan32 tmax && !Fp.isNan32 (orderKey e.2) && Fp.le32 tmax (orderKey e.2))
  let order := sortBy (fun (x y : Word × Word) => Fp.lt32 (orderKey x.2) (orderKey y.2)) live
  let ray := if c < order.length then setFlag ray 17 17 1 else ray
  let ray := setFlag ray 10 10 0
  match order.take c with
  | e :: rest =>
    let ray := (Ray.setEntries ray c rest).set 9 e.1
    (if e.2.getLsbD 31 then (setFlag ray 10 10 1).set 21 e.2 else ray, .send)
  | [] =>
    let ray := Ray.setEntries ray c []
    if flagOf ray 17 17 = 1 then
      let ray := setFlag ray 17 17 0
      if flagOf ray 15 13 = 7 then (setFlag (setFlag ray 12 12 1) 16 16 1, .hold)
      else
        let ray := setFlag ray 15 13 (flagOf ray 15 13 + 1)
        (ray.set 9 (if Ray.inst ray then ray.getD 21 0 else ray.getD 9 0 &&& 0xff000000), .send)
    else if Ray.inst ray then (ray, .exit)
    else (setFlag ray 16 16 1, .hold)

end Sys2Proof.Machine
end

