-- ==== Sys2Proof/Machine/Network.lean ====
section
/-! DEFINITION. The lattice (R378 to R391): output arbitration and links. Link 8r + p is the directed link that leaves router r by
port p; link 2¹⁶ + 2p + h is half h (0 a, 1 b) of reach port p, which stands in the place of a row's closing link (R369). -/

namespace Sys2Proof.Machine

/-- Flits sent on a link and not acknowledged (R385). -/
def Link.unacked (k : Link) : Nat := (k.window.map fun x => x.packet.flits).sum - k.got

/-- Those of a virtual network. -/
def Link.inFifo (k : Link) (vn : Nat) : Nat :=
  ((k.window.filter fun x => x.packet.vn = vn).map fun x => x.packet.flits).sum
    - if (k.window.head?).any fun x => x.packet.vn == vn then k.got else 0

namespace State

/-- Weight of a channel at a router's die; 0 acts as 1 (R381). -/
def weight (s : State) (r chan : Nat) : Nat :=
  max 1 (s.field (dieOff (s.dieOf r) 8) (chan % 2 * 30 + chan / 2 * 5 + 4) (chan % 2 * 30 + chan / 2 * 5))

/-- The directed link's far end. -/
def farEnd (s : State) (l : Nat) : Nat × Nat := s.neighbour (l / 8) (l % 8)

/-- A link between two dies (R368). -/
def isWelt (s : State) (l : Nat) : Bool := decide (l < 2 ^ 16) && s.dieOf (l / 8) != s.dieOf (s.farEnd l).1

/-- A link of the package, or a reach half of the product. -/
def hasLink (s : State) (l : Nat) : Bool := decide (l < 2 ^ 16) || decide ((l - 2 ^ 16) / 2 < s.product.reachPorts)

/-- A link is in service (R386, R390). -/
def linkUp (s : State) (l : Nat) : Bool := if l < 2 ^ 16 then (s.link l).up else s.hasLink l && s.halfUp (l - 2 ^ 16)

/-- A head's downstream buffer condition (R375): its sink takes it, or the next router has the buffers. Those of another package are
not to be seen from this one. -/
def buffered (s : State) (r o : Nat) (x : Standing) : Bool :=
  if 4 ≤ o ∨ (s.reachHalf r o).isSome then true
  else
    let (nr, ni) := s.neighbour r o
    decide ((if x.input < 4 ∧ x.input % 2 = o % 2 then 1 else 2) ≤ s.freeBuffers nr ni x.chan)

/-- The FIFO of a welt, or of a reach half, has room for the whole packet on its virtual network (R384). -/
def fifoRoom (s : State) (l : Nat) (p : Packet) : Bool :=
  (decide (l < 2 ^ 16) && !s.isWelt l) || decide ((s.link l).inFifo p.vn + p.flits ≤ 16)

/-- A head may be granted: its buffer condition holds, and its link is up and takes it. -/
def eligible (s : State) (r o : Nat) (x : Standing) : Bool :=
  s.buffered r o x && (decide (4 ≤ o) || s.linkUp (s.portLink r o) && s.fifoRoom (s.portLink r o) x.packet)

/-- The last flit of the previous packet has left: what is sent and not acknowledged lies within the send window (R379, R385). -/
def portFree (s : State) (r o : Nat) : Bool :=
  let l := s.portLink r o
  decide (4 ≤ o) || decide ((s.link l).unacked ≤ if 2 ^ 16 ≤ l then 512 else if s.isWelt l then 64 else 16)

/-- The counter of `link_err` of a router's die (R390): 0 corrected, 1 re-sends, 2 poisoned, 3 discarded. -/
def countLink (s : State) (r i : Nat) : State := s.bumpField (dieOff (s.dieOf r) 0x20) (16 * i + 15) (16 * i)

/-- A re-send of a link (1) or a packet poisoned on it (2) is counted, of a reach half in its `reach_status`. -/
def countFault (s : State) (l i : Nat) : State :=
  if l < 2 ^ 16 then s.countLink (l / 8) i
  else if i = 1 then s.bumpField (reachOff ((l - 2 ^ 16) / 2)) 19 12 else s.bumpField (reachOff ((l - 2 ^ 16) / 2)) 11 4

/-- A packet leaves the lattice at its destination (R387): a poisoned ray or hit turns into a hit of status 3 of its home, a poisoned
copy or reflected store keeps its poison, a poisoned end notice is delivered as it is, and a poisoned control, directory or
collective message is discarded. -/
def eject (s : State) (r : Nat) (p : Packet) : State :=
  match p.cargo, p.poison with
  | .far .., _ => s
  | .here msg, none => s.post msg
  | .here msg, some i =>
    let lost := fun (ray : List Word) =>
      let home := (s.physical (wf32 (ray.getD 8 0) 19 10)).getD r
      s.post (.hitArrival home (lostHit ray 3))
    match msg with
    | .rayArrival _ w | .directoryRayArrival _ _ w | .sendexitArrival _ w => lost w
    | .hitArrival c w => s.post (.hitArrival c (w.set 7 (w32 (setBits (w.getD 7 0).toNat 31 29 3))))
    | .endNotice c n => s.post (.endNotice c n)
    | .reflectedCopyArrival x => s.post (.reflectedCopyArrival (poisonCopy x i))
    | .reflectedStoreSequence n =>
      ({ s with rstores := s.rstores.map fun x => if x.id = n / 256 then { x with poison := true } else x } : State).post
        (.reflectedStoreSequence n)
    | _ => s.countLink r 3

/-- The grant of R379 among the heads of an output. -/
def grant (s : State) (r o : Nat) : Option (Standing × OutPort) :=
  let hs := s.heads r o
  let out := ((s.router r).outs.look o).getD {}
  -- a promoted head without its buffers holds back the heads of its channel that are not promoted before it (R380)
  let held := fun (x : Standing) => hs.any fun y => y.promoted.isSome && !s.buffered r o y && y.chan == x.chan &&
    (x.promoted.isNone || decide (y.promoted.getD 0 < x.promoted.getD 0))
  let ok := if s.portFree r o then hs.filter fun x => s.eligible r o x && !held x else []
  let early := fun (a b : Standing) => decide (a.promoted.getD 0 < b.promoted.getD 0) ||
    (a.promoted == b.promoted && decide (a.input < b.input))
  let rr := fun (v : Nat) => out.rr.getD v 5
  let choice := fun (v : Nat) =>
    pickBest (fun (a b : Standing) => decide ((a.input + 5 - rr v) % 6 < (b.input + 5 - rr v) % 6)) (ok.filter fun x => x.chan = v)
  let done := fun (x : Standing) (credit : List Nat) =>
    let v := x.chan
    let c := credit.getD v 0 - x.packet.flits
    (x, { out with
      credit := credit.set v c
      vptr := if 0 < c then v else (v + 1) % 12
      rr := ((List.range 12).map fun u => if u = v then x.input else rr u) })
  let credit := if out.credit.isEmpty then List.replicate 12 0 else out.credit
  match pickBest early (ok.filter fun x => x.promoted.isSome) with
  | some x => some (done x credit)
  | none =>
    let r' := (List.range 12).filter fun v => (choice v).isSome
    let credit := if r'.any fun v => decide (0 < credit.getD v 0) then credit else (List.range 12).map fun v => s.weight r v
    (((List.range 12).map fun i => (out.vptr + i) % 12).find? fun v => r'.contains v && decide (0 < credit.getD v 0)).bind fun v =>
      (choice v).map fun x => done x credit

/-- The buffer that a packet held is free (R373): the router behind may send, or a unit injects, and the next head of the input
stands. -/
def vacate (s : State) (r : Nat) (x : Standing) : State :=
  if x.input < 4 then let (up, p) := s.neighbour r x.input; s.postOnce (.outputArbitration up p) else s.inject r x.input x.chan

end State

namespace State

/-- The packets that wait for a broken reach half are discarded and counted, and R132 applies to their paths (R389): those sent and
not acknowledged, and those that stand at its router. -/
def dropBroken (s : State) (l : Nat) : State :=
  let (r, port) := s.linkSource l
  let k := s.link l
  let t := s.router r
  let lost := k.window ++ t.standing.filter fun x => s.outPort r x.packet == port
  let s := (s.setLink l { k with window := [], got := 0, fails := 0 }).setRouter r
    { t with standing := t.standing.filter fun x => s.outPort r x.packet != port }
  lost.foldl (fun (s : State) x =>
    let s := (s.bumpField (reachOff ((l - 2 ^ 16) / 2)) 3 0).vacate r x
    match x.packet.cargo with
    | .far _ _ _ path => s.lostPath path
    | .here _ => s) s

end State

/-- OUTPUT_ARBITRATION (R379, R380): one grant; the packet goes on its link, or to its sink. At a broken reach half packets are
discarded instead (R389). -/
def execOutputArbitration (r port : Nat) (s : State) : Host.Outcome State Fault Refusal :=
  let link := s.portLink r port
  if 2 ^ 16 ≤ link ∧ (s.link link).broken then .next (s.dropBroken link)
  else
  match s.grant r port with
  | none => .next s
  | some (x, out) =>
    let waiting := (s.heads r port).filter fun y => y ≠ x
    let t := s.router r
    -- ageing and promotion of the heads that lost
    let (standing, n) := (t.standing.erase x).foldl (fun (a : List Standing × Nat) y =>
      -- a head that lost: none of its input and channel stands before it; those promoted by one grant are promoted together
      if s.outPort r y.packet = port ∧ ¬ y.beside x ∧ ¬ a.1.any y.beside then
        (if y.age + 1 = 64 ∧ y.promoted.isNone then (a.1 ++ [{ y with age := 64, promoted := some t.promotions }], t.promotions + 1)
         else (a.1 ++ [{ y with age := y.age + 1 }], a.2))
      else (a.1 ++ [y], a.2)) ([], t.promotions)
    let s := s.setRouter r { t with standing, promotions := n, outs := t.outs.put port out }
    let s := if port < 4 then
        (s.setLink link { s.link link with
          window := (s.link link).window ++ [x], nextSeq := ((s.link link).nextSeq + x.packet.flits) % 1024 }).posts
            (List.replicate x.packet.flits (.flitReceive link .good))
      else (s.eject r x.packet).vacate r x
    let s := match (s.router r).standing.find? fun y => y.input = x.input && y.chan = x.chan with
      | some y => s.postOnce (.outputArbitration r (s.outPort r y.packet))
      | none => s
    .next (if waiting.isEmpty then s else s.postOnce (.outputArbitration r port))

namespace State

/-- The flit that a link has to bring next is NAKed, or its round-trip timer has run out (R386): re-sent, poisoned with the later
flits of its packet at the second failure, and at the third the link goes down. -/
def nakLink (s : State) (l : Nat) : State :=
  let k := s.link l
  match k.window with
  | [] => s
  | x :: rest =>
    let p := x.packet
    if k.fails = 0 then ((s.countFault l 1).setLink l { k with fails := 1 }).post (.flitReceive l .good)
    else if k.fails = 1 then
      let s := if p.poison.isSome then s.countFault l 1 else (s.countFault l 1).countFault l 2
      (s.setLink l { k with
        fails := 2, window := { x with packet := { p with poison := some (min k.got (p.poison.getD k.got)) } } :: rest }).post
          (.flitReceive l .good)
    else (s.setLink l { k with fails := 0, up := false }).post (.linkDown l)

/-- A packet leaves the package by a reach half (R387): a poisoned copy keeps its poison, and another poisoned message is discarded by
its consumer. -/
def leave (s : State) (p : Packet) : State :=
  match p.cargo, p.poison with
  | .far _ _ out _, none => s.emit out
  | .far _ _ (.copy dev x) _, some i => s.emit (.copy dev (poisonCopy x i))
  | _, _ => s

/-- The next flit of a link has arrived and is acknowledged (R385): with the last of its packet, the packet stands at the next router,
or has left the package, its upstream buffer is free, and the port that sent it may arbitrate. -/
def takeFlit (s : State) (l : Nat) : State :=
  let k := s.link l
  let (r, port) := s.linkSource l
  match k.window with
  | [] => s
  | x :: rest =>
    let next : Link := { k with fails := 0, expect := (k.expect + 1) % 1024 }
    let s := if k.got + 1 < x.packet.flits then s.setLink l { next with got := k.got + 1 }
      else
        let s := s.setLink l { next with got := 0, window := rest }
        let s := if l < 2 ^ 16 then let (nr, ni) := s.farEnd l; s.stand nr ni x.packet else s.leave x.packet
        s.vacate r x
    s.postOnce (.outputArbitration r port)

end State

/-- FLIT_RECEIVE (R385, R386): the next flit of a link arrives, corrected or not, or is discarded and NAKed: its check is bad, or its
number is not the one expected. -/
def execFlitReceive (link : Nat) (chk : FlitCheck) (s : State) : Host.Outcome State Fault Refusal :=
  if ¬ s.linkUp link ∨ (s.link link).window.isEmpty then .next s
  else if chk = .bad then .next (s.nakLink link)
  else .next ((if chk = .corrected ∧ link < 2 ^ 16 then s.countLink (s.farEnd link).1 0 else s).takeFlit link)

/-- NAK (R386): it names the flit that the receiver expects, which is the oldest not acknowledged; a NAK of another number comes from
no receiver and is ignored. -/
def execNak (link seq : Nat) (s : State) : Host.Outcome State Fault Refusal :=
  .next (if s.hasLink link ∧ seq = (s.link link).expect then s.nakLink link else s)

/-- ROUND_TRIP_TIMER_EXPIRY (R386). -/
def execRoundTripTimerExpiry (link : Nat) (s : State) : Host.Outcome State Fault Refusal :=
  .next (if s.hasLink link then s.nakLink link else s)

/-- LINK_DOWN (R386, R388): a welt or on-die link retrains once; down again within 1 s it is fatal. A reach half leaves
service and retrains (R389). -/
def execLinkDown (link : Nat) (s : State) : Host.Outcome State Fault Refusal :=
  if 2 ^ 16 ≤ link ∧ s.product.reachPorts ≤ (link - 2 ^ 16) / 2 then .next s
  else if 2 ^ 16 ≤ link then
    let b := if link % 2 = 0 then 31 else 30
    .next (s.setField (State.reachOff ((link - 2 ^ 16) / 2)) b b 0)
  else
    let k := s.link link
    let r := link / 8
    let again := k.downAt.any fun t => decide (s.cc < t + 600000000)
    let s := s.setLink link { k with up := false, downAt := some s.cc }
    .next (if again then s.post (.fatalError 0x0100 (s.dieOf r) (s.logical r)) else s)

/-- LINK_TRAINING_COMPLETE (R388, R389): the highest common version, at present 1.0; an end with none stays down, and a
broken reach half until the host restores it. -/
def execLinkTrainingComplete (link major _minor : Nat) (s : State) : Host.Outcome State Fault Refusal :=
  if major = 0 ∨ s.hasLink link = false ∨ (s.link link).broken then .next s
  else
    let k := s.link link
    let (r, port) := s.linkSource link
    let s := if link < 2 ^ 16 then s.setLink link { k with up := true }
      else
        let b := if link % 2 = 0 then 31 else 30
        let off := State.reachOff ((link - 2 ^ 16) / 2)
        ((s.setField off b b 1).setField off 27 24 1).setField off 23 20 0
    .next ((s.posts (List.replicate k.unacked (.flitReceive link .good))).postOnce (.outputArbitration r port))

/-- WELT_RETRAIN_TIMEOUT (R386): fatal, unless training has completed. -/
def execWeltRetrainTimeout (link : Nat) (s : State) : Host.Outcome State Fault Refusal :=
  .next (if (s.link link).up then s else s.post (.fatalError 0x0100 (s.dieOf (link / 8)) (s.logical (link / 8))))

/-- REACH_LINK_BROKEN (R389): 10 ms down. The packets that wait are discarded and counted, and R132 applies to their paths. -/
def execReachLinkBroken (link : Nat) (s : State) : Host.Outcome State Fault Refusal :=
  if link < 2 ^ 16 ∨ s.hasLink link = false ∨ s.linkUp link then .next s
  else .next (((s.setField (State.reachOff ((link - 2 ^ 16) / 2)) 29 29 1).setLink link { s.link link with broken := true }).dropBroken link)

/-- REACH_RETRAIN (R390): broken clears, and both halves train again. -/
def State.retrainReach (s : State) (p : Nat) : State :=
  if s.product.reachPorts ≤ p then s
  else [2 ^ 16 + 2 * p, 2 ^ 16 + 2 * p + 1].foldl (fun (s : State) l => s.setLink l { s.link l with broken := false })
    (s.setField (State.reachOff p) 31 29 0)

/-- The event of `State.retrainReach`. -/
def execReachRetrain (p : Nat) (s : State) : Host.Outcome State Fault Refusal := .next (s.retrainReach p)

end Sys2Proof.Machine
end

