-- ==== Sys2Proof/Machine/Collective.lean ====
section
/-! DEFINITION. The collective unit (R330 to R336): group descriptors, COLL, GET, PUT and encoder inputs (R399). -/

namespace Sys2Proof.Machine

/-! ### Members -/

/-- The resident team of a block of a launch: core, number, team. -/
def State.teamAt (s : State) (q l b i : Nat) : Option (Nat × Nat × Team) :=
  s.cores.findSome? fun (cc, k) =>
    (k.teams.find? fun (_, y) => y.queue == q && y.launch == l && y.block == b && y.index == i).map fun p => (cc, p)

/-- Quadword k of a group descriptor in a team's core store. -/
def State.groupQ (s : State) (c base off k : Nat) : DWord := (s.core c).store64 (base + off + 8 * k)

/-- A group descriptor passes its checks (R330). -/
def State.groupOk (s : State) (c base limit off : Nat) : Bool :=
  let q := s.groupQ c base off 0
  off % 64 == 0 && inAlloc limit off 8 && qf q 63 48 == 0 && qf q 31 24 == 0 && qf q 15 7 == 0 &&
  decide (2 ≤ qf q 6 0 ∧ qf q 6 0 ≤ 64) && inAlloc limit off (8 + 8 * qf q 6 0) && decide (qf q 23 16 < qf q 6 0) &&
  (List.range (qf q 6 0)).all fun k => qf (s.groupQ c base off (k + 1)) 62 36 == 0

/-! ### COLL (R331, R332) -/

/-- The fields of a COLL parameter block: dtype, operation, elements, source, destination. -/
structure CollBlock where
  group : Nat
  dtype : Nat
  op : Nat
  count : Nat
  src : Nat
  dst : Nat
deriving DecidableEq, Repr

def collBlock (b : List Byte) : CollBlock :=
  { group := bytesAt b 0 4, dtype := bits (bytesAt b 4 1) 7 5, op := bits (bytesAt b 4 1) 4 3, count := bytesAt b 8 4,
    src := bytesAt b 12 4, dst := bytesAt b 16 4 }

def CollBlock.size (x : CollBlock) : Nat := if x.dtype ≤ 2 then 4 else 2

/-- Bytes read at a member, and bytes written there, with n members (R331). -/
def collBytes (code n : Nat) (x : CollBlock) : Nat × Nat :=
  let e := x.count * x.size
  match code with
  | 0 => (e, n * e)
  | 1 => (n * e, e)
  | 2 => (n * e, n * e)
  | _ => (0, 0)

namespace State

/-- The checks of a COLL at its own member. -/
def collOk (s : State) (c : Nat) (q : Cmd) (b : List Byte) : Bool :=
  let (base, limit) := s.cmdSpan c q
  let x := collBlock b
  let tmo := bits (bytesAt b 5 1) 4 0
  let n := qf (s.groupQ c base x.group 0) 6 0
  let (r, w) := collBytes q.code n x
  s.groupOk c base limit x.group && bits (bytesAt b 4 1) 2 0 == 0 && bits (bytesAt b 5 1) 7 5 == 0 && !anySet b 6 2 &&
  decide (x.dtype ≤ 4) && (q.code ≠ 1 || decide (x.op ≤ 2)) && (tmo == 0 || decide (10 ≤ tmo)) &&
  (q.code == 3 || (decide (x.count ≤ 2 ^ 20) && x.src % x.size == 0 && x.dst % x.size == 0 && inAlloc limit x.src r && inAlloc limit x.dst w)) &&
  !anySet b 20 28 && !anySet b 52 12 && (List.range n).all fun k => qf (s.groupQ c base x.group (k + 1)) 63 63 == 0

/-- Coordinator, tag and comparison key of a joined command, and whether its rank names the issuing team (R332). The operation
counts for `.rs` only, and the count for all but `.bar` (R331). -/
def collIdent (s : State) (c : Nat) (q : Cmd) : List Nat × Nat × List Nat × Nat × Bool :=
  let base := (s.cmdSpan c q).1
  let x := collBlock q.block
  let t := s.team c q.team
  let g := s.groupQ c base x.group 0
  let m := fun (k : Nat) => s.groupQ c base x.group (k + 1)
  let rank := qf g 23 16
  ([t.queue, t.launch, qf (m 0) 31 0, qf (m 0) 35 32], qf g 47 32, [qf g 6 0, q.code, if q.code = 1 then x.op else 0, x.dtype, if q.code = 3 then 0 else x.count], rank,
    decide (qf (m rank) 31 0 = t.block ∧ qf (m rank) 35 32 = t.index))

/-- Start a COLL (R332): checks, and the join on VN5. -/
def startColl (s : State) (c n : Nat) (q : Cmd) : State :=
  let base := (s.cmdSpan c q).1
  let b := (s.core c).readStore (base + q.desc) 64
  let s := s.modCmd c n fun q => { q with state := .active, cond := 0, acquired := true, block := b }
  if ¬ s.collOk c q b then s.endCmd c n 1 5
  else
    let t := s.team c q.team
    let m0 := s.groupQ c base (bytesAt b 0 4) 1
    match s.teamAt t.queue t.launch (qf m0 31 0) (qf m0 35 32) with
    | some (cc, _, _) => s.send c cc 5 1 (.collJoin c n)
    | none => s.post (.collJoin c n)

/-- End the joined members of an instance with one code. -/
def endMembers (s : State) (i : CollInst) (code cause : Nat) : State :=
  i.members.foldl (fun (s : State) m => s.endCmd m.1 m.2.1 code cause) s

/-- Replace an instance; one whose members have all joined and ended is forgotten. -/
def putInst (s : State) (i : CollInst) : State :=
  let rest := s.colls.filter fun x => ¬ (x.coord = i.coord ∧ x.tag = i.tag ∧ x.inst = i.inst)
  let n := i.key.headD 0
  let gone := i.members.length = n ∧ (2 ≤ i.verdict ∨ i.done = n)
  { s with colls := if gone then rest else rest ++ [i] }

def instOf (s : State) (coord : List Nat) (tag inst : Nat) : Option CollInst :=
  s.colls.find? fun x => x.coord == coord && x.tag == tag && x.inst == inst

end State

/-- COLL_JOIN (R332): the coordinator compares a join with the first, and commits when every member has joined. -/
def execCollJoin (c n : Nat) (s : State) : Host.Outcome State Fault Refusal :=
  match s.cmd? c n with
  | none => .next s
  | some q =>
    if q.state ≠ .active ∨ q.major ≠ 0x79 then .next s
    else
      let (coord, tag, key, rank, mine) := s.collIdent c q
      let i := (s.instOf coord tag q.inst).getD { coord, tag, inst := q.inst, key }
      let i' := { i with members := i.members ++ [(c, n, rank)] }
      if i.verdict = 2 then .next ((s.endCmd c n 5 8).putInst i')
      else if i.verdict = 3 then .next ((s.endCmd c n 1 5).putInst i')
      else if i.key ≠ key ∨ ¬ mine ∨ i.members.any (fun m => m.2.2 == rank) then
        .next ((s.endMembers i' 1 5).putInst { i' with verdict := 3 })
      else if i'.members.length = key.headD 0 then
        -- every source is read at the commit, before any destination byte is written
        let src := i'.members.map fun m =>
          match s.cmd? m.1 m.2.1 with
          | some y => (m.2.2, (s.core m.1).readStore ((s.cmdSpan m.1 y).1 + (collBlock y.block).src)
              (collBytes y.code (key.headD 0) (collBlock y.block)).1)
          | none => (m.2.2, [])
        let sources := src.foldl (fun (a : AMap (List Byte)) p => a.put p.1 p.2) []
        let s := i'.members.foldl (fun (s : State) m => (s.modCmd m.1 m.2.1 fun y => { y with asked := true }).post (.collComplete m.1 m.2.1)) s
        .next (s.putInst { i' with verdict := 1, sources })
      else .next (s.putInst i')

/-- COLL_TIMEOUT (R332): the time-out of a member whose unit has taken its command aborts an instance that is not committed. -/
def execCollTimeout (c n : Nat) (s : State) : Host.Outcome State Fault Refusal :=
  match s.cmd? c n with
  | none => .next s
  | some q =>
    if q.state ≠ .active ∨ q.major ≠ 0x79 ∨ q.asked then .next s
    else
      let (coord, tag, key, rank, _) := s.collIdent c q
      let i := (s.instOf coord tag q.inst).getD { coord, tag, inst := q.inst, key }
      if i.verdict ≠ 0 then .next s
      else
        let i := if i.members.any (fun m => m.1 == c && m.2.1 == n) then i else { i with members := i.members ++ [(c, n, rank)] }
        .next ((s.endMembers i 5 8).putInst { i with verdict := 2 })

/-! #### Reduction -/

/-- Combine two elements of dtype 0 or 1. -/
def reduceInt (dtype op : Nat) (a b : Word) : Word :=
  match op with
  | 0 => a + b
  | 1 => if dtype = 0 then Alu.min a b else Alu.minu a b
  | _ => if dtype = 0 then Alu.max a b else Alu.maxu a b

/-- Combine two elements in FP32 (R331). -/
def reduceFp (op : Nat) (a b : Word) : Word × Word :=
  match op with
  | 0 => Fp.add a b
  | 1 => Fp.minMax false a b
  | _ => Fp.minMax true a b

/-- Element of a dtype as a word, widened exactly to FP32 for a float, with its flags. -/
def collElem (dtype v : Nat) : Word × Word :=
  match dtype with
  | 3 => Fp.convert .f32 .bf16 .rne 0 (w32 v)
  | 4 => Fp.convert .f32 .f16 .rne 0 (w32 v)
  | _ => (w32 v, 0)

/-- The reduction of element values given in the order that the unit chose: the stored value and the flags. -/
def reduceAll (dtype op : Nat) (vs : List Nat) : Nat × Word :=
  let es := vs.map (collElem dtype)
  let f0 := es.foldl (fun (f : Word) e => f ||| e.2) 0
  match es with
  | [] => (0, 0)
  | e :: t =>
    if dtype ≤ 1 then ((t.foldl (fun (a : Word) y => reduceInt dtype op a y.1) e.1).toNat, 0)
    else
      let r := t.foldl (fun (a : Word × Word) y => let z := reduceFp op a.1 y.1; (z.1, a.2 ||| z.2)) (e.1, f0)
      match dtype with
      | 3 => let z := Fp.convert .bf16 .f32 .rne 0 r.1; (z.1.toNat % 2 ^ 16, r.2 ||| z.2)
      | 4 => let z := Fp.convert .f16 .f32 .rne 0 r.1; (z.1.toNat % 2 ^ 16, r.2 ||| z.2)
      | _ => (if Fp.isNan32 r.1 then Fp.f32.nan else r.1.toNat, r.2 ||| flIf (Fp.isSig32 r.1) flInvalid)

/-- An order of the ranks, by free words: the unit's choice (R331, R151). -/
def freeOrder (free n : Nat) : List Nat :=
  sortBy (fun a b => decide ((Config.freeWord (free + a)).toNat < (Config.freeWord (free + b)).toNat)) (List.range n)

/-- The bytes that a committed member writes, and the flags (R331). -/
def collResult (free code rank : Nat) (n : Nat) (x : CollBlock) (src : AMap (List Byte)) : List Byte × Word :=
  let e := x.size
  let of := fun (j : Nat) => (src.look j).getD []
  match code with
  | 0 => ((List.range n).flatMap fun j => of j, 0)
  | 1 =>
    (List.range x.count).foldl (fun (a : List Byte × Word) i =>
      let vs := (freeOrder (free + 64 * i) n).map fun j => bytesAt (of j) ((rank * x.count + i) * e) e
      let r := reduceAll x.dtype x.op vs
      (a.1 ++ leBytes e r.1, a.2 ||| r.2)) ([], 0)
  | 2 => ((List.range n).flatMap fun j => ((of j).drop (rank * x.count * e)).take (x.count * e), 0)
  | _ => ([], 0)

/-- COLL_COMPLETE (R332): a committed member writes its destination; then status and counter. -/
def execCollComplete (c n : Nat) (s : State) : Host.Outcome State Fault Refusal :=
  match s.cmd? c n with
  | none => .next s
  | some q =>
    let (base, _) := s.cmdSpan c q
    let (coord, tag, _, rank, _) := s.collIdent c q
    if q.state = .active ∧ q.asked then
      match s.instOf coord tag q.inst with
      | none => .next s
      | some i =>
        let x := collBlock q.block
        let (bs, fl) := collResult s.free q.code rank (i.key.headD 0) x i.sources
        let s := { s with free := s.free + 64 * x.count }.modCore c fun k => if bs.isEmpty then k else k.writeStore (base + x.dst) bs
        .next (((s.modCmd c n fun q => { q with flags := fl }).endCmd c n).putInst { i with done := i.done + 1 })
    else if q.state ≠ .committed then .next s
    else
      let st := q.outcome + bit (q.flags.getLsbD 2) * 2 ^ 8 + bit (q.flags.getLsbD 4) * 2 ^ 9
      .next ((s.modCore c fun k => k.writeStore (base + q.desc + 48) (leBytes 4 st)).signal c n)

/-! ### GET and PUT (R333 to R336) -/

structure PeerBlock where
  group : Nat
  member : Nat
  mode : Nat
  rctr : Bool
  eof : Bool
  w : Nat
  length : Nat
  local_ : Nat
  remote : Nat
  count : Nat
  idx : Nat
  rctrOff : Nat
deriving DecidableEq, Repr

def peerBlock (b : List Byte) : PeerBlock :=
  let f := bytesAt b 6 1
  { group := bytesAt b 0 4, member := bytesAt b 4 2, mode := bits f 7 6, rctr := f.testBit 5, eof := f.testBit 4, w := bytesAt b 7 1,
    length := bytesAt b 8 4, local_ := bytesAt b 12 4, remote := bytesAt b 16 4, count := bytesAt b 20 4, idx := bytesAt b 24 4,
    rctrOff := bytesAt b 28 4 }

/-- Positions of a command: bytes in mode 0, indices otherwise. -/
def PeerBlock.total (x : PeerBlock) : Nat := if x.mode = 0 then x.length else x.count
/-- Bytes of the local range. -/
def PeerBlock.span (x : PeerBlock) : Nat :=
  match x.mode with
  | 0 => x.length
  | 1 => x.count * x.length
  | _ => (x.w * x.count + 7) / 8

namespace State

/-- Encoder and stream that a member names (R330, R336). -/
def encoderOf (m : DWord) (remote : Nat) : Nat × Nat := (2 * qf m 5 0 + qf m 8 8, remote / 2 ^ 28)

/-- Bytes of a stream's frame input (R399). -/
def frameBytes (s : State) (e st : Nat) : Nat :=
  let q := s.ctlQ (encOff e st 0)
  qf q 47 32 * qf q 63 48 * 3 / 2 * (1 + qf q 29 29)

/-- The checks behind BLOCK (R335). -/
def peerOk (s : State) (c : Nat) (q : Cmd) (b : List Byte) : Bool :=
  let (base, limit) := s.cmdSpan c q
  let x := peerBlock b
  let g := s.groupQ c base x.group 0
  let m := s.groupQ c base x.group (x.member + 1)
  let t := s.team c q.team
  let put := q.major == 0x66
  let words := ((s.launches.find? fun l => l.queue = t.queue ∧ l.index = t.launch).map (·.words)).getD []
  let enc := qf m 63 63 == 1
  let (e, st) := encoderOf m x.remote
  s.groupOk c base limit x.group && decide (x.member < qf g 6 0) && x.member ≠ qf g 23 16 && x.mode ≠ 3 &&
  (!x.rctr || (put && x.rctrOff % 4 == 0)) && (!x.eof || (put && enc)) && bits (bytesAt b 6 1) 3 0 == 0 &&
  (if x.mode = 2 then decide (1 ≤ x.w ∧ x.w ≤ 8) else x.w == 0) &&
  (match x.mode with
    | 0 => decide (x.length ≤ 2 ^ 24)
    | 1 => decide (1 ≤ x.length ∧ x.length ≤ 4096)
    | _ => true) &&
  (x.mode == 0 || (decide (x.count ≤ 65536) && x.idx % 4 == 0 && inAlloc limit x.idx (4 * x.count))) &&
  inAlloc limit x.local_ x.span && !anySet b 32 16 && !anySet b 52 4 && !anySet b 60 4 &&
  (if enc then
    put && x.mode == 0 && qf m 35 32 == 0 && qf m 31 9 == 0 && qf m 7 6 == 0 && decide (qf m 5 0 < s.product.dies) &&
    qf (s.ctlQ (encOff e st 0)) 31 31 == 1 && qf (s.ctlQ (encOff e st 0)) 7 0 == q.ctx
   else decide (qf m 31 0 < (words.getD 1 0).toNat))

/-- The peer of a GET or PUT: its core and team when it is resident; else whether to wait for it (R335). A peer of the issuer's
own block, which is placed and saved with it, is never waited for. -/
def peerOf (s : State) (c : Nat) (q : Cmd) : Option (Nat × Team) × Bool :=
  let t := s.team c q.team
  let x := peerBlock q.block
  let m := s.groupQ c (s.cmdSpan c q).1 x.group (x.member + 1)
  let b := qf m 31 0
  match s.teamAt t.queue t.launch b (qf m 35 32) with
  | some (cc, _, y) => (some (cc, y), true)
  | none =>
    let listed := s.dies.any fun (_, d) =>
      (d.lists.any fun (k, l) => k == t.queue && l.any fun r => r.launch == t.launch && r.block == b) ||
      d.placed.any fun p => p.queue == t.queue && p.launch == t.launch && p.block == b
    (none, b ≠ t.block && (listed || s.launches.any fun l => l.queue == t.queue && l.index == t.launch && decide (l.next ≤ b)))

/-- Start a GET or PUT. -/
def startPeer (s : State) (c n : Nat) (q : Cmd) : State :=
  let (base, _) := s.cmdSpan c q
  let b := (s.core c).readStore (base + q.desc) 64
  let p := bytesAt b 56 4
  let s := s.modCmd c n fun q =>
    { q with state := .active, cond := 0, acquired := true, block := b, progress := if p.testBit 31 then bits p 30 0 else 0 }
  if s.peerOk c q b then s.post (.peerAccess c n) else s.endCmd c n 1 5

/-- The next piece of a command, on its peer: none when it leaves the peer's allocation. A piece of mode 0 ends at a word of its
destination, so that each word is written at once (R145). -/
def peerStep (s : State) (c : Nat) (q : Cmd) (cc : Nat) (y : Team) : Option (State × Nat) :=
  let x := peerBlock q.block
  let base := (s.cmdSpan c q).1
  let put := q.major = 0x66
  let j := q.progress
  let i := bytesAt ((s.core c).readStore (base + x.idx + 4 * j) 4) 0 4
  if x.mode = 2 then
    let r := (x.remote + i * x.w) % 2 ^ 26
    let l := (base + x.local_) * 8 + x.w * j
    if y.size < (r + x.w + 7) / 8 then none
    else if put then some (s.modCore cc fun k => k.writeBits (8 * y.base + r) x.w ((s.core c).readBits l x.w), 1)
    else some (s.modCore c fun k => k.writeBits l x.w ((s.core cc).readBits (8 * y.base + r) x.w), 1)
  else
    let r := if x.mode = 0 then x.remote + j else x.remote + i * x.length
    let l := base + x.local_ + (if x.mode = 0 then j else j * x.length)
    let m := if x.mode = 0 then min (48 - (if put then y.base + r else l) % 8) (x.length - j) else x.length
    if y.size < r + m then none
    else if put then some (s.modCore cc fun k => k.writeStore (y.base + r) ((s.core c).readStore l m), if x.mode = 0 then m else 1)
    else some (s.modCore c fun k => k.writeStore l ((s.core cc).readStore (y.base + r) m), if x.mode = 0 then m else 1)

def enc (s : State) (e st : Nat) : EncStream := (s.encoders.look (16 * e + st)).getD {}
def setEnc (s : State) (e st : Nat) (x : EncStream) : State := { s with encoders := s.encoders.put (16 * e + st) x }

/-- A piece of a PUT to an encoder (R336), and with eof set the frame's start after the last byte. A frame input takes what is written
until then. -/
def encStep (s : State) (c n : Nat) (q : Cmd) : State :=
  let x := peerBlock q.block
  let base := (s.cmdSpan c q).1
  let (e, st) := encoderOf (s.groupQ c base x.group (x.member + 1)) x.remote
  let u := s.enc e st
  match u.filling.or ((List.range 2).find? fun i => u.encoding ≠ some i && !(u.frames.getD i ([], false)).2) with
  | none => (s.modCmd c n fun q => { q with asked := true }).post (.peerAccess c n)
  | some i =>
    let m := min 48 (x.length - q.progress)
    let f := u.frames.getD i ([], false)
    if s.frameBytes e st < x.remote % 2 ^ 28 + q.progress + m then s.endCmd c n 2 5
    else
      let bs := (s.core c).readStore (base + x.local_ + q.progress) m
      let last := x.length ≤ q.progress + m
      let f := (Mem.write (n := 8) f.1 (x.remote % 2 ^ 28 + q.progress) bs, last && x.eof)
      let s := s.setEnc e st { u with frames := u.frames.set i f, filling := if last && x.eof then none else some i }
      let s := s.modCmd c n fun q => { q with progress := q.progress + m, asked := false }
      if last then (if x.eof then s.post (.encoderFrameStart e st) else s).endCmd c n else s.post (.peerAccess c n)

end State

/-- PEER_ACCESS (R334 to R336): the next piece, at the peer's memory port or an encoder; a peer that is not resident is waited
for, or has retired. -/
def execPeerAccess (c n : Nat) (s : State) : Host.Outcome State Fault Refusal :=
  match s.cmd? c n with
  | none => .next s
  | some q =>
    let x := peerBlock q.block
    let m := s.groupQ c (s.cmdSpan c q).1 x.group (x.member + 1)
    if q.state ≠ .active then .next s
    else if qf m 63 63 = 1 then .next (s.encStep c n q)
    else
      match s.peerOf c q with
      | (none, true) => .next ((s.modCmd c n fun q => { q with asked := true }).post (.peerAccess c n))
      | (none, false) => .next (s.endCmd c n 3 5)
      | (some (cc, y), _) =>
        if x.total ≤ q.progress then
          if ¬ x.rctr then .next (s.endCmd c n)
          else if y.size < x.rctrOff + 4 then .next (s.endCmd c n 2 5)
          else .next ((s.bumpCounter cc (y.base + x.rctrOff)).endCmd c n)
        else
          match s.peerStep c q cc y with
          | none => .next (s.endCmd c n 2 5)
          | some (s, k) => .next ((s.modCmd c n fun q => { q with progress := q.progress + k, asked := false }).post (.peerAccess c n))

/-- PEER_WAIT_TIMEOUT (R335, R336): a command that waits for its peer, or for a frame input, ends with TIMEOUT. -/
def execPeerWaitTimeout (c n : Nat) (s : State) : Host.Outcome State Fault Refusal :=
  match s.cmd? c n with
  | none => .next s
  | some q => .next (if q.state = .active ∧ q.asked ∧ (q.major = 0x65 ∨ q.major = 0x66) then s.endCmd c n 5 8 else s)

/-- GET_PUT_COMPLETE (R335). -/
def execGetPutComplete (c n : Nat) (s : State) : Host.Outcome State Fault Refusal :=
  match s.cmd? c n with
  | none => .next s
  | some q =>
    if q.state ≠ .committed then .next s
    else
      let base := (s.cmdSpan c q).1
      .next ((s.modCore c fun k => (k.writeStore (base + q.desc + 48) (leBytes 4 q.outcome)).writeStore
        (base + q.desc + 56) (leBytes 4 (q.progress % 2 ^ 31))).signal c n)

/-! ### Encoders (R336, R399) -/

namespace State

/-- Put an encoded frame that waits into its bitstream ring, through the translation of the stream's context; a frame that
finds the ring full is dropped. -/
def writeFrame : Nat → State → Nat → Nat → State
  | 0, s, _, _ => s
  | f + 1, s, e, st =>
    let u := s.enc e st
    let q0 := s.ctlQ (encOff e st 0)
    let ring := qf (s.ctlQ (encOff e st 2)) 31 0 * 4096
    let va := (s.ctlQ (encOff e st 1)).toNat + u.ringUsed % (max ring 1)
    let m := min u.out.length (4096 - va % 4096)
    if u.out.isEmpty then s
    else
      match s.engXlate (s.agentCore (e / 2)) 6 (qf q0 7 0) va true (.encoderFrameStart e st) with
      | .wait s => s
      | .fail _ s => s.setEnc e st { u with out := [] }
      | .ok ap off s =>
        if s.targetWaits ap off then s.post (.encoderFrameStart e st)
        else if s.readable ap off then
          writeFrame f ((s.targetWrite ap off (u.out.take m)).setEnc e st { u with out := u.out.drop m, ringUsed := u.ringUsed + m }) e st
        else s.setEnc e st { u with out := [] }

end State

/-- ENCODER_FRAME_START (R336): an encoded frame that waits is written first; then the encoder takes a full frame input. -/
def execEncoderFrameStart (e st : Nat) (s : State) : Host.Outcome State Fault Refusal :=
  let s := s.writeFrame ((s.enc e st).out.length + 1) e st
  let u := s.enc e st
  match u.encoding, (List.range 2).find? fun i => (u.frames.getD i ([], false)).2 with
  | none, some i =>
    let bytes := Mem.read (n := 8) (u.frames.getD i ([], false)).1 0 (s.frameBytes e st)
    .next ((s.setEnc e st { u with encoding := some i }).emit (.encode e st bytes))
  | _, _ => .next s

/-- ENCODER_FRAME_DONE (R399): the encoded frame, behind its 4-byte length, enters the bitstream ring, or is dropped. -/
def execEncoderFrameDone (e st : Nat) (bytes : List Byte) (s : State) : Host.Outcome State Fault Refusal :=
  let u := s.enc e st
  match u.encoding with
  | none => .next s
  | some i =>
    let ring := qf (s.ctlQ (State.encOff e st 2)) 31 0 * 4096
    let full := ring < u.ringUsed + u.out.length + 4 + bytes.length
    let u := { u with encoding := none, frames := u.frames.set i ((u.frames.getD i ([], false)).1, false),
                      out := if full then u.out else u.out ++ leBytes 4 bytes.length ++ bytes }
    let s := s.setEnc e st u
    let s := s.setField (State.encOff e st 2) 63 32 ((s.field (State.encOff e st 2) 63 32 + 1) % 2 ^ 32)
    let s := if full then s.setField (State.encOff e st 3) 31 31 1 else s
    .next (s.postOnce (.encoderFrameStart e st))

/-- ENCODER_STREAM_CONFIG (R399): a write of quadword 0; one that sets valid beyond the encoder's rate, or with a frame rate or
size out of range, is refused. -/
def State.configStream (s : State) (e st : Nat) (v : DWord) : State :=
  let rate := fun (q : DWord) => if qf q 31 31 = 1 then qf q 47 32 * qf q 63 48 * qf q 15 8 else 0
  let sum := rate v + ((List.range 16).filter (· ≠ st)).foldl (fun a i => a + rate (s.ctlQ (State.encOff e i 0))) 0
  let w := qf v 47 32
  let h := qf v 63 48
  let ok := qf v 31 31 = 0 ∨ (sum ≤ 16 * 1920 * 1088 * 60 ∧ 1 ≤ qf v 15 8 ∧ qf v 15 8 ≤ 120 ∧ 64 ≤ w ∧ w ≤ 3840 ∧ w % 2 = 0 ∧ 64 ≤ h ∧ h ≤ 2160 ∧ h % 2 = 0)
  if 2 * s.product.dies ≤ e ∨ 16 ≤ st then s
  else if ok then (((s.setCtl (State.encOff e st 0) (v &&& 0xffffffffe000ffff)).setField (State.encOff e st 3) 30 30 0).setEnc e st {})
  else ((s.setCtl (State.encOff e st 0) (v &&& 0xffffffff6000ffff)).setField (State.encOff e st 3) 30 30 1)

/-- The event of `State.configStream`. -/
def execEncoderStreamConfig (e st : Nat) (v : DWord) (s : State) : Host.Outcome State Fault Refusal := .next (s.configStream e st v)

end Sys2Proof.Machine
end

