-- ==== Sys2Proof/Machine/Take.lean ====
section
/-! DEFINITION. An engine takes a queued command (R282, R305, R307, R308). -/

namespace Sys2Proof.Machine

/-- Commands that an engine holds at once: 4 of the copy engine (R308), 1 of the sequencer (R282). -/
def engineRoom (eng active : Nat) : Bool :=
  match eng with
  | 0 => decide (active < 4)
  | 2 => active == 0
  | _ => true

/-- Start a command on its engine. -/
def State.startCmd (s : State) (c n : Nat) (q : Cmd) : State :=
  match engineOf q.major with
  | 0 => s.startCopy c n q
  | 1 => if q.major = 0x79 then s.startColl c n q else s.startPeer c n q
  | 2 => s.startMatrix c n q
  | _ => s.startBag c n q

/-- ENGINE_TAKE_COMMAND (R307): the oldest queued command of the engine whose conditions hold starts; the unmet condition of
each other is noted, and the engine looks again. -/
def execEngineTakeCommand (c eng : Nat) (s : State) : Host.Outcome State Fault Refusal :=
  let k := s.core c
  let mine := k.eq.filter fun (_, q) => engineOf q.major == eng
  let queued := mine.filter fun (_, q) => q.state = .queued && !(k.teams.look q.team).any (·.saving)
  let s := queued.foldl (fun (s : State) p => s.modCmd c p.1 fun q => { q with cond := s.unmet c p.1 p.2 }) s
  if queued.isEmpty then .next s
  else if ¬ engineRoom eng (mine.filter fun (_, q) => q.state ≠ .queued).length then .next (s.post (.engineTakeCommand c eng))
  else
    match queued.find? fun (n, q) => s.unmet c n q == 0 with
    | none => .next (s.post (.engineTakeCommand c eng))
    | some (n, q) =>
      -- the acquire of the flag, on the issuing core's first-level cache (R46, R140, R143)
      let s := if q.acq ∧ ¬ q.acquired then s.acquire c q.scope else s
      let s := s.startCmd c n q
      .next (if queued.length = 1 then s else s.postOnce (.engineTakeCommand c eng))

end Sys2Proof.Machine
end

