-- ==== Sys2Proof/Machine/System.lean ====
section
/-! DEFINITION. System instructions and special registers (R362 to R364), control messages (R366), boundary traps (R340),
DRAINST (R352), the traps of waits and units (R172, R361), and the supervisor's restart (R345). -/

namespace Sys2Proof.Machine

/-! ### Special registers: reads (R157, R158, R25, R28, R34, R39, R80, R81, R281, R306, R341, R347, R351) -/

/-- Records of a group in the store-fault queue. -/
def Core.faultsOf (k : Core) (uid : Nat) : List SfRecord := k.sfq.filter fun r => r.uid = uid

/-- Commands of a group in the engine queue, in issue order. -/
def Core.commandsOf (k : Core) (uid : Nat) : List (Nat × Cmd) := k.eq.filter fun (_, q) => q.uid = uid

/-- Loads of overlays that have their place and are not complete (R68, R81). -/
def Core.loading (k : Core) : Nat := (k.records.filter fun (_, r) => !r.resident && r.placed).length

/-- Instruction-store slots that no copy holds (R81). -/
def Core.freeOvSlots (k : Core) : Nat := 256 - k.records.foldl (fun a (_, r) => if r.placed then a + r.slots else a) 0

/-- A granule is being reclaimed (R39, R45). -/
def Core.reclaimBusy (k : Core) : Bool := k.reclaimWaits

/-- A slot of the treelet pool is in use (R39). -/
def Core.poolBusy (k : Core) : Bool := k.slots.any fun (_, p) => p.state ≠ .empty

/-- `SR.STORE_MAP` (R39). -/
def Core.storeMap (k : Core) : Word :=
  w32 (bit k.reclaimBusy * 2 ^ 15 + k.lent.length * 2 ^ 9 + bit k.poolBusy * 2 ^ 8 + k.poolSlots)

/-- `SR.XPOOL` (R34). -/
def Core.xpool (k : Core) (g : Group) (t : Team) : Word :=
  w32 (g.heldChunks.length * 2 ^ 30 + t.held * 2 ^ 20 + k.unreserved * 2 ^ 10
    + (992 - k.groups.foldl (fun a (_, g) => a + g.heldChunks.length) 0))

/-- `SR.EQSTAT` (R306). -/
def Core.eqstat (k : Core) (uid : Nat) : Word :=
  let mine := k.commandsOf uid
  w32 ((mine.filter (·.2.priv)).length * 2 ^ 30 + (mine.filter fun q => !q.2.priv).length * 2 ^ 21
    + (256 - (k.eq.filter fun (_, q) => !q.priv).length))

/-- `SR.MXSTAT` (R281). -/
def Core.mxstat (k : Core) (t : Team) : Word :=
  w32 (bit k.narrow * 2 ^ 31 + bit (k.eq.any fun (_, q) => engineOf q.major == 2 && q.state ≠ .queued) * 2 ^ 30
    + (t.bands.foldl (fun a (b, _) => a + 2 ^ (16 + b)) 0) + (8 - k.bandsUsed.length))

/-- A group is blocked: no thread is ready and no trap is to be taken (R160). -/
def Core.blocked (k : Core) (gid : Nat) (g : Group) : Bool := (k.ready gid g).isEmpty && (g.pending.isEmpty || g.trap.inHandler)

/-- A live thread is parked or stands in `OVWAIT`, if it waits at all (R77). -/
def Thread.parked (t : Thread) : Bool :=
  !t.live || match t.wait with
    | some (.park _ _) | some (.ovwait _) => true
    | some _ => false
    | none => t.held

/-- The condition of R77: a load waits for space, and every thread of every resident group is parked. -/
def Core.exhausted (k : Core) : Bool :=
  k.loadQ.any (·.stuck) &&
    k.groups.all fun (i, g) => i == supGid || (k.blocked i g && g.threads.all (·.parked))

/-- `SR.ISTORE` (R81). -/
def Core.istoreStat (k : Core) : Word :=
  w32 (bit k.exhausted * 2 ^ 21 + k.loading * 2 ^ 18 + min k.records.length 256 * 2 ^ 9 + k.freeOvSlots)

/-- A word of the oldest record of a list of bytes. -/
def recordWord (r : Option (List Byte)) (j : Nat) : Word := w32 (bytesAt (r.getD []) (4 * j) 4)

/-- The value that a read of special register n returns to a group (R364). -/
def State.srValue (s : State) (x : Ctx) (n : Nat) : Word :=
  let k := s.core x.core
  let g := x.g
  let t := s.team x.core g.team
  if n = 0x000 then g.tid
  else if n = 0x001 then g.block
  else if n = 0x002 then
    w32 (s.device * 2 ^ 20 + s.logical x.core * 2 ^ 10 + s.coreY x.core * 2 ^ 5 + s.coreX x.core)
  else if n = 0x003 then g.arith
  else if n = 0x004 then g.seed
  else if n = 0x005 then k.xpool g t
  else if n = 0x006 then k.eqstat g.uid
  else if n = 0x007 then k.mxstat t
  else if n = 0x008 then (let o := (k.ovstat.look g.ctx).getD (0, 0); w32 (o.1 * 2 ^ 16 + o.2))
  else if n = 0x009 then (s.hintDrops.look g.ctx).getD 0
  else if 0x00a ≤ n ∧ n ≤ 0x00d then g.emul.getD (n - 0x00a) 0
  else if n = 0x010 then g.trap.tvec
  else if n = 0x011 then w32 (bit g.trap.inHandler * 2 ^ 31 + bit (!g.pending.isEmpty) * 2 ^ 30)
  else if n = 0x012 then g.trap.tcause
  else if n = 0x013 then g.trap.tpc
  else if n = 0x014 then g.trap.tinfo
  else if n = 0x015 then g.trap.taddrl
  else if n = 0x016 then g.trap.taddrh
  else if n = 0x017 then g.trap.tlanes
  else if n = 0x018 then g.trap.ttag
  else if n = 0x019 then w32 (k.faultsOf g.uid).length
  else if n = 0x01b then g.eqsel
  else if n = 0x01c then
    match (k.commandsOf g.uid)[wf32 g.eqsel 7 0]? with
    | none => 0
    | some (m, q) =>
      w32 (q.major * 2 ^ 25 + (if q.state = .queued then s.unmet x.core m q else q.cond) * 2 ^ 22 + q.desc / 64)
  else if n = 0x01d then g.trap.tdesc
  else if 0x020 ≤ n ∧ n ≤ 0x02b then recordWord ((k.faultsOf g.uid).head?.map (·.bytes)) (n - 0x020)
  else if n = 0x100 then w32 (bit k.dlogMerging * 2 ^ 31 + k.dlogFill * 2 ^ 11 + k.dlogNext)
  else if n = 0x101 then k.storeMap
  else if n = 0x102 then k.istoreStat
  else if n = 0x103 then w32 (k.ctlIn.length * 2 ^ 16 + k.srec.length)
  else if n = 0x105 then k.gresume
  else if n = 0x106 then k.wdog
  else if 0x110 ≤ n ∧ n ≤ 0x127 then (k.srec.headD []).getD (n - 0x110) 0
  else 0

/-- What the read clears: the RC fields of `SR.OVSTAT` and `SR.HINT_DROPS` (R28, R80, R363). -/
def State.srClear (s : State) (x : Ctx) (n : Nat) : State :=
  if n = 0x008 then s.modCore x.core fun k => { k with ovstat := k.ovstat.drop x.g.ctx }
  else if n = 0x009 then { s with hintDrops := s.hintDrops.drop x.g.ctx }
  else s

/-- Registers of the supervisor (R364). -/
def srSupervisor (n : Nat) : Bool := decide (0x100 ≤ n)

/-- Registers with an RW or W1C field (R363). -/
def srWritable (n : Nat) : Bool := [0x003, 0x004, 0x010, 0x01a, 0x01b, 0x101, 0x104, 0x105, 0x106].contains n

/-- `RDSR` (R363). -/
def execRdsr (d : SReg) (n : BitVec 11) (s : State) : Host.Outcome State Fault Refusal :=
  run (.rdsr d n) (fun x s =>
    if srSupervisor n.toNat ∧ x.gid ≠ supGid then prot 4
    else .done ((s.srClear x n.toNat).writeS x d.toNat (s.srValue x n.toNat))) s

/-! ### Special registers: writes -/

namespace State

/-- A write of `SR.SEED` (R251). -/
def writeSeed (s : State) (x : Ctx) (v : Word) : State :=
  s.modGroup x.core x.gid fun g => { g with seed := v, gens := genSeed v }

/-- A write of `SR.ARITH` (R247, R248). -/
def writeArith (s : State) (x : Ctx) (v : Word) : State :=
  s.modGroup x.core x.gid fun g => { g with arith := v &&& 0x001f003f }

/-- Set a core's pool size, if R39 lets the write take effect; lent granules that the pool will cover are reclaimed first, and with
fills to them in flight the size follows the last (R45). -/
def setPool (s : State) (c n : Nat) : State × Bool :=
  let k := s.core c
  let n := min n 64
  if k.poolBusy ∨ k.teams.any (fun (_, t) => decide (t.size ≠ 0 ∧ t.base < n * 65536)) then (s, false)
  else
    let before := k.lent
    let (k, ok) := k.reclaimRange 0 (n * 65536)
    let k := { k with poolNext := some n }
    (s.setCore c (if ok then (({ k with poolSlots := n, poolNext := none } : Core).relend before) else k), true)

/-- A write of `SR.STORE_MAP` (R39). -/
def writeStoreMap (s : State) (c : Nat) (v : Word) : State := (s.setPool c (wf32 v 6 0)).1

/-- A write of `SR.SRPOP`: the oldest record goes, and a waiting raiser's record enters (R346, R347). -/
def popRecord (s : State) (c : Nat) (v : Word) : State :=
  if v.getLsbD 0 then
    s.modCore c fun k =>
      let all := k.srec.drop 1 ++ k.srecWait
      { k with srec := all.take 32, srecWait := all.drop 32 }
  else s

/-- A write of `SR.GRESUME` (R344, R347). -/
def writeGresume (s : State) (c : Nat) (v : Word) : State :=
  let s := s.modCore c fun k => { k with gresume := v &&& 0x3ff }
  let gid := wf32 v 9 0
  if v.getLsbD 31 ∧ (s.group c gid).escalated then
    let s := ((s.holdAll c gid false).modGroup c gid fun g => { g with escalated := false }).enterAgain c gid
    if s.wantsTrap c gid then s.postOnce (.boundaryTrapTake c gid) else s
  else s

/-- A write of `SR.SFPOP`: the group's oldest record goes, and held pieces become records (R351). -/
def popFault (s : State) (c : Nat) (uid : Nat) (v : Word) : State :=
  if v.getLsbD 0 then
    match (s.core c).faultsOf uid with
    | [] => s
    | r :: _ => ((s.modCore c fun k => { k with sfq := k.sfq.erase r }).syncSfq c).admitFaults c
  else s

/-- The write of a special register by its number (R363). -/
def writeSr (s : State) (x : Ctx) (n : Nat) (v : Word) : State :=
  if n = 0x003 then s.writeArith x v
  else if n = 0x004 then s.writeSeed x v
  else if n = 0x010 then s.modGroup x.core x.gid fun g => { g with trap := { g.trap with tvec := v &&& 0xffffbfff } }
  else if n = 0x01a then s.popFault x.core x.g.uid v
  else if n = 0x01b then s.modGroup x.core x.gid fun g => { g with eqsel := v &&& 0xff }
  else if n = 0x101 then s.writeStoreMap x.core v
  else if n = 0x104 then s.popRecord x.core v
  else if n = 0x105 then s.writeGresume x.core v
  else if n = 0x106 then s.modCore x.core fun k => { k with wdog := (k.wdog &&& 0x3fffffe0) ||| (v &&& 0x8000001f) }
  else s

end State

/-- `WRSR` (R363). -/
def execWrsr (n : BitVec 11) (a : SReg) (s : State) : Host.Outcome State Fault Refusal :=
  run (.wrsr n a) (fun x s =>
    if srSupervisor n.toNat ∧ x.gid ≠ supGid then prot 4
    else if ¬ srWritable n.toNat then prot 3
    else .done (s.writeSr x n.toNat ((s.core x.core).getS x.gid a.toNat))) s

/-- A write that a step performs for the issuing thread, without moving it. -/
def asIssuer (f : Ctx → State → State) (s : State) : Host.Outcome State Fault Refusal :=
  match s.ctx? with
  | none => .fault .noIssuer
  | some x => .next (f x s)

/-- SEED_WRITE (R251). -/
def execSeedWrite (v : Word) (s : State) : Host.Outcome State Fault Refusal := asIssuer (fun x s => s.writeSeed x v) s
/-- ARITH_WRITE (R248). -/
def execArithWrite (v : Word) (s : State) : Host.Outcome State Fault Refusal := asIssuer (fun x s => s.writeArith x v) s
/-- STORE_MAP_WRITE (R39). -/
def execStoreMapWrite (v : Word) (s : State) : Host.Outcome State Fault Refusal := asIssuer (fun x s => s.writeStoreMap x.core v) s
/-- SRPOP (R347). -/
def execSrpop (v : Word) (s : State) : Host.Outcome State Fault Refusal := asIssuer (fun x s => s.popRecord x.core v) s
/-- GRESUME (R344, R347). -/
def execGresume (v : Word) (s : State) : Host.Outcome State Fault Refusal := asIssuer (fun x s => s.writeGresume x.core v) s
/-- SFPOP (R351). -/
def execSfpop (v : Word) (s : State) : Host.Outcome State Fault Refusal := asIssuer (fun x s => s.popFault x.core x.g.uid v) s

/-! ### Traps (R340, R345, R362, R172, R361) -/

/-- `TRAP` (R362): codes below 1,024 go to the user handler; the others call the supervisor, and the group is held at the next
instruction. -/
def execTrap (code : BitVec 11) (s : State) : Host.Outcome State Fault Refusal :=
  run (.trap code) (fun x s =>
    let t := mkTrap 0x0c code.toNat 0 code.toNat
    if code.toNat < 1024 then .trap t
    else .moved ((s.advance x).escalate x.core x.gid { t with pc := x.pc, lanes := x.lanes })) s

/-- UNDEFINED_ENCODING (R213 to R215): cause 0x01, precise. -/
def execUndefinedEncoding (w lit : Word) (s : State) : Host.Outcome State Fault Refusal :=
  asIssuer (fun x s => s.preciseTrap { x with word := w, lit := lit } (mkTrap 1 0)) s

/-- The thread stands behind an acquire that has not taken its value. -/
def Thread.behind (t : Thread) : Bool :=
  match t.wait with
  | some (.order _) => true
  | _ => false

/-- BOUNDARY_TRAP_TAKE (R340): with no handler running the group takes its oldest pending trap; the victims are the lanes of
the raising instruction that are still in m0, once none of them stands behind an acquire (R140, R342). A failed load under its threads is taken first (R71). A store fault counts the group's records and names the oldest (R339, R351). -/
def execBoundaryTrapTake (c gid : Nat) (s : State) : Host.Outcome State Fault Refusal :=
  match s.group? c gid with
  | none => .next s
  | some g =>
    if g.trap.inHandler ∨ g.escalated ∨ g.ending ∨ (s.team c g.team).saving then .next s
    else if (s.failedAt c gid).isSome then
      let s := s.takeFailed c gid
      .next (if s.wantsTrap c gid then s.postOnce (.boundaryTrapTake c gid) else s)
    else
      match g.pending with
      | [] => .next s
      | t :: rest =>
        let rs := (s.core c).faultsOf g.uid
        let t := if t.cause = 4 ∧ t.info.getLsbD 31 = false then
            { t with info := w32 rs.length, addrL := recordWord (rs.head?.map (·.bytes)) 2, addrH := recordWord (rs.head?.map (·.bytes)) 3 }
          else t
        let live := t.lanes &&& g.m0
        if (lanesOf live).any fun i => (g.threads.getD i {}).behind then .next (s.post (.boundaryTrapTake c gid)) else
        let s := (s.modGroup c gid fun g => { g with pending := rest }).unlockOp c t
        .next (s.takeTrap c gid t live false fun i => (g.threads.getD i {}).pc)

/-- SUPERVISOR_TRAP (R345): the die agent restarts the thread at its firmware entry. -/
def execSupervisorTrap (c _cause : Nat) (s : State) : Host.Outcome State Fault Refusal :=
  .next (if ((s.core c).groups.look supGid).isSome then s.restartSupervisor c else s)

/-- `DRAINST` (R352): waits until the stores that the group made before the bundle first performed it have been accepted or have
become records. -/
def execDrainst (s : State) : Host.Outcome State Fault Refusal :=
  run .drainst (fun x s =>
    let s := s.joinFence x .core
    if s.storesBefore x then .wait s .drain else .done (s.closeFences x)) s

/-- The range that the XACQ at a PC names. -/
def Core.xacqRange (k : Core) (ctx : Nat) (pc : Word) : Nat :=
  match k.fetch ctx pc with
  | .word w _ => wf32 w 1 0
  | .absent | .fault => 0

/-- The exhaustion trap of the XACQ of range r at which a group waits (R172): the waiting bundle takes cause 0x07, and its request
leaves the queue, unless another bundle waits with it. A bundle that its group's handler holds takes it, and escalates it, when no
other waits. The bundle waits no more, so that an XACQ performed again requests again. -/
def State.xacqTrap (s : State) (c gid r : Nat) : State :=
  let k := s.core c
  let g := s.group c gid
  let at_ := g.threads.zipIdx.filter fun (t, _) => t.live && t.wait == some Wait.xacq && k.xacqRange g.ctx t.pc == r
  let waiting := at_.filter (fun x => !x.1.held) ++ at_.filter (·.1.held)
  match waiting.head? with
  | none => s
  | some (t, _) =>
    let lanes := maskOf ((waiting.filter fun x => x.1.pc == t.pc).map (·.2))
    let others := waiting.any fun x => x.1.pc ≠ t.pc
    let s := if others then s else s.modCore c fun k => { k with acquireQ := k.acquireQ.erase (gid, r) }
    let s := s.modGroup c gid fun g => g.onLanes lanes fun _ t => { t with wait := none }
    s.takeTrap c gid { mkTrap 7 r (s.poolAddr c g.team) with pc := t.pc, lanes } lanes true fun _ => t.pc

/-- XACQ_TIMEOUT (R172): an XACQ has waited 2¹⁶ cc; base set and range make the event's number. -/
def execXacqTimeout (c n : Nat) (s : State) : Host.Outcome State Fault Refusal := .next (s.xacqTrap c (n % 1024) (n / 1024))

/-- XACQ_DEADLOCK_DETECT (R172): every resident group is blocked and the acquire queue is not empty. -/
def execXacqDeadlockDetect (c : Nat) (s : State) : Host.Outcome State Fault Refusal :=
  let k := s.core c
  match k.acquireQ with
  | [] => .next s
  | (gid, r) :: _ => .next (if k.groups.all (fun (i, g) => i = supGid || k.blocked i g) then s.xacqTrap c gid r else s)

/-- A unit of a core has something to do (R361): a pipe a ready group, an engine a command that waits on no condition, the memory port
an access. -/
def Core.unitBusy (k : Core) (kind i : Nat) : Bool :=
  let pipe := fun (lo hi : Nat) (uniform : Bool) => k.groups.any fun (gid, g) =>
    decide (lo ≤ gid ∧ gid < hi) && pipeOf gid % 8 == i && (k.ready gid g).any fun p => p.uniform == uniform
  match kind with
  | 0 => pipe 0 512 false
  | 1 => pipe 0 512 true || (i == 0 && pipe supGid (supGid + 1) true)
  | 2 => pipe 512 supGid true
  | 3 => if i = 3 then !k.clicker.isEmpty else k.eq.any fun (_, q) => engineOf q.major == i && q.state != .committed && q.cond == 0
  | _ => !k.portQ.isEmpty

/-- WATCHDOG_TRIP (R361): a unit that has something to do has done nothing for the time of SR.WDOG. Cause 0x0e to the supervisor, and
the unit's suspect bit. -/
def execWatchdogTrip (c kind i : Nat) (s : State) : Host.Outcome State Fault Refusal :=
  let k := s.core c
  let place := if kind = 0 ∧ i < 8 then some (5 + i) else if kind = 1 ∧ i < 8 then some (13 + i)
    else if kind = 2 ∧ i < 4 then some (21 + i) else if kind = 3 ∧ i < 4 then some (25 + i)
    else if kind = 4 ∧ i = 0 then some 29 else none
  match place with
  | none => .next s
  | some b =>
    if ¬ k.wdog.getLsbD 31 ∨ k.unitBusy kind i = false then .next s
    else
      let cycles := 2 ^ max 16 (wf32 k.wdog 4 0)
      let s := s.modCore c fun k => { k with wdog := k.wdog ||| w32 (2 ^ b) }
      .next (s.postRecord c (supRecord (mkTrap 0x0e (16 * kind + i) cycles) false false 0 0x3ff 0 []))

/-! ### Control messages (R366, R415) -/

namespace State

/-- The supervisor's CTLSEND completes: its message has been accepted. -/
def ctlDone (s : State) (c : Nat) : State :=
  let go := fun (t : Thread) => if t.wait == some Wait.ctlsend then { t with wait := none, pc := t.pc + 1 } else t
  s.modGroup c supGid fun g => { g with threads := g.threads.map go, issued := if g.threads.any (·.wait == some .ctlsend) then [] else g.issued }

/-- The source word of a message from a core (R366). -/
def coreSource (s : State) (c : Nat) : Nat := s.device * 2 ^ 10 + s.logical c

/-- Words of a mailbox from byte b (R397). -/
def mailWords (s : State) (m b : Nat) : List Word :=
  let q := fun i => s.ctlQ (mailOff m (b / 8 + i))
  [loWord (q 0), hiWord (q 0), loWord (q 1), hiWord (q 1)]

/-- A message to core c has been accepted: its sender goes on, or its mailbox is free again (R366, R397). -/
def ctlAccepted (s : State) (c src : Nat) (msg : List Word) : State :=
  match bits src 31 30 with
  | 0 => match s.physical (bits src 9 0) with
    | some p => s.ctlDone p
    | none => s
  | 3 => if bits src 29 29 = 1 then s else s.ctlDone (s.neighbour c (bits src 1 0)).1
  | 2 =>
    match (List.range 256).find? fun m => s.field (mailOff m 6) 31 30 == 2 && s.physical (s.field (mailOff m 6) 9 0) == some c
        && s.mailWords m 32 == msg with
    | some m => s.setField (mailOff m 6) 31 31 0
    | none => s
  | _ => s

/-- Messages that the boot ROM of a core has accepted and not answered (R366, R415). -/
def romInbox (s : State) (c : Nat) : Nat := s.agenda.countP fun e => match e with
  | .disc t _ _ | .report t _ | .img t _ _ => t == c
  | _ => false

/-- A message reaches a core: its inbox takes it or refuses it; a core without a supervisor answers by its boot ROM (R366,
R415). -/
def ctlArrive (s : State) (c src : Nat) (msg : List Word) : State :=
  let k := s.core c
  let w0 := (msg.headD 0).toNat
  if (k.groups.look supGid).isNone then
    if 16 ≤ s.romInbox c then s.post (.controlMessageRetry c src msg) else
    let s := s.ctlAccepted c src msg
    if bits src 29 29 = 1 then s.post (.report c [w32 (0x02008000 + bits w0 9 0), 0, 0, 0])
    else match bits w0 31 24 with
      | 1 => s.post (.disc c (bits src 1 0) (bits w0 9 0))
      | 2 => s.post (.report c msg)
      | 5 => s.post (.img c ((s.physical (bits src 9 0)).getD 0) msg)
      | _ => s
  else if k.ctlIn.length < 16 then
    (s.modCore c fun k => ({ k with ctlIn := k.ctlIn ++ [(w32 src, msg)] } : Core).wake fun (w : Wait) => w == .halt || w == .ctlrecv).ctlAccepted
      c src msg
  else s.post (.controlMessageRetry c src msg)

/-- Send a control message from the unit behind a port of core c to core t with a source word (R366); a fused-off core's router
answers. -/
def ctlTo (s : State) (c t src : Nat) (msg : List Word) (port : Nat := 4) : State :=
  s.send c t 5 1 (.controlMessageArrival t src msg) false port

end State

/-- CONTROL_MESSAGE_ARRIVAL (R366). -/
def execControlMessageArrival (c src : Nat) (msg : Words) (s : State) : Host.Outcome State Fault Refusal :=
  .next (s.ctlArrive c src msg)

/-- CONTROL_MESSAGE_RETRY (R366): 64 hc have passed. -/
def execControlMessageRetry (c src : Nat) (msg : Words) (s : State) : Host.Outcome State Fault Refusal :=
  .next (s.ctlArrive c src msg)

/-- `CTLSEND` (R366), on the supervisor thread alone (R345). -/
def execCtlsend (a b : SReg) (s : State) : Host.Outcome State Fault Refusal :=
  run (.ctlsend a b) (fun x s =>
    let k := s.asIssued x
    let dst := (k.getS x.gid b.toNat).toNat
    let msg := (List.range 4).map fun i => k.getS x.gid (a.toNat + i)
    if x.gid ≠ supGid then prot 4
    else
      match bits dst 31 30 with
      | 0 =>
        match s.physical (bits dst 9 0) with
        | none => prot 3 dst
        | some t =>
          if bits dst 29 22 ≠ 0 ∨ bits dst 21 10 ≠ s.device then prot 3 dst
          -- kind 0 routes once `core_map` has been published (R417)
          else if s.boot.running ∧ s.field 8 28 24 = 4 then .wait s .drain
          else .wait (s.ctlTo x.core t (s.coreSource x.core) msg) .ctlsend
      | 1 =>
        if bits dst 29 2 ≠ 0 then prot 3 dst
        else
          let (t, p) := s.neighbour x.core (bits dst 1 0)
          if s.fused.contains t then
            .done (s.post (.controlMessageArrival x.core (0xe0000000 + bits dst 1 0) msg))
          else .wait (s.ctlTo x.core t (0xc0000000 + p) msg) .ctlsend
      | 2 =>
        if bits dst 29 6 ≠ 0 ∨ s.product.dies ≤ bits dst 5 0 then prot 3 dst
        else
          let w0 := (msg.headD 0).toNat
          .done (if bits dst 5 0 ≠ 0 then s
            else if bits w0 31 24 = 4 then s.send x.core (s.agentCore 0) 5 1 (.mapDone (bits w0 9 0))
            else if bits w0 31 24 = 7 then s.send x.core (s.agentCore 0) 5 1 .booted
            else s)
      | _ =>
        if bits dst 29 8 ≠ 0 then prot 3 dst
        else .wait (s.post (.mailboxArrival (bits dst 7 0) (s.logical x.core) msg)) .ctlsend) s

/-- `CTLRECV` (R366), on the supervisor thread alone (R345). -/
def execCtlrecv (d : SReg) (s : State) : Host.Outcome State Fault Refusal :=
  run (.ctlrecv d) (fun x s =>
    if x.gid ≠ supGid then prot 4
    else
      match (s.core x.core).ctlIn with
      | [] => .wait s .ctlrecv
      | (src, msg) :: rest =>
        let s := s.modCore x.core fun k => { k with ctlIn := rest }
        .done (s.writeSs x d.toNat (src :: msg))) s

end Sys2Proof.Machine
end

