-- ==== Sys2Proof/Machine/Overlay.lean ====
section
/-! DEFINITION. The residency unit of the instruction store (R65 to R81): placement and eviction, sharing, loads, failures,
exhaustion. -/

namespace Sys2Proof.Machine

/-- Pages of a range, translated. -/
inductive Pages
  | ok (l : List (Ap × Nat)) (s : State)
  | fail (code va : Nat) (s : State)
  | wait (s : State)

/-- What the entry and the pages of an overlay give (R65, R66): slots, no_share and the pages, or a cause with its TINFO and
address, or a fault that holds the load. -/
inductive OvRead
  | ok (n : Nat) (noShare : Bool) (pages : List (Nat × Ap × Nat)) (image : Nat)
  | fail (cause info addr : Nat)
  | wait
deriving DecidableEq, Repr

namespace State

/-- Translate n pages of 4 KiB from va for reading. -/
def xlatePages (s : State) (c eng ctx va : Nat) (who : Instr) : Nat → Pages
  | 0 => .ok [] s
  | n + 1 =>
    match s.xlatePages c eng ctx va who n with
    | .ok l s =>
      match s.xlate c eng ctx (va + 4096 * n) false false (.ev who) with
      | .ok ap off s => .ok (l ++ [(ap, off)]) s
      | .fail code s => .fail code (va + 4096 * n) s
      | .wait s => .wait s
    | r => r

end State

/-- The apertures that an overlay may lie in (R66). -/
def codeAp : Ap → Bool
  | .hbm | .cap => true
  | .store | .window | .control | .outside => false

/-- TINFO of a load failure and, above it, its address (R66, R339). -/
def failInfo (info addr : Nat) : Nat := addr * 2 ^ 32 + info

namespace State

/-- Base and count of a context's overlay table (R64). -/
def ovtBase (s : State) (ctx : Nat) : Nat := qf (s.ctxQ ctx 0) 56 3 * 8
def ovtCount (s : State) (ctx : Nat) : Nat := qf (s.ctxQ ctx 1) 16 0
def shareDomain (s : State) (ctx : Nat) : Nat := qf (s.ctxQ ctx 1) 40 33

end State

/-- An overlay table entry that names an image (R65): slots, no_share and the image's address. -/
def ovEntry (q : Nat) : Option (Nat × Bool × Nat) :=
  if q.testBit 63 ∧ bits q 61 49 = 0 then some (bits q 48 45 + 1, q.testBit 62, bits q 44 0 * 4096) else none

/-! ### Placement (R72 to R75) -/

/-- A copy may be evicted (R72). -/
def OvRecord.evictable (r : OvRecord) : Bool := r.resident && r.pins == 0 && r.occupancy == 0

/-- The copies that overlap a run of slots. -/
def Core.overlapping (k : Core) (first n : Nat) : List (Nat × OvRecord) :=
  k.records.filter fun (_, r) => r.placed && decide (r.first < first + n ∧ first < r.first + r.slots)

/-- The key of a run (R72): the newest stamp, shifted by one so that 0 is the stamp −1 of a copy without an owner. -/
def runKey (rs : List (Nat × OvRecord)) : Nat := rs.foldl (fun a (_, r) => max a (if r.owner.isNone then 0 else r.stamp + 1)) 0

/-- The run that a request of n slots takes, with the copies to evict (R72). -/
def Core.chooseRun (k : Core) (n : Nat) : Option (Nat × List (Nat × OvRecord)) :=
  let runs := (List.range (257 - n)).map fun f => (f, k.overlapping f n)
  match runs.find? fun r => r.2.isEmpty with
  | some r => some r
  | none =>
    let size := fun (rs : List (Nat × OvRecord)) => rs.foldl (fun a (_, r) => a + r.slots) 0
    pickBest (fun (a b : Nat × List (Nat × OvRecord)) =>
      decide (runKey a.2 < runKey b.2) || (runKey a.2 == runKey b.2 &&
        (decide (size a.2 < size b.2) || (size a.2 == size b.2 && decide (a.1 < b.1)))))
      (runs.filter fun r => r.2.all fun x => x.2.evictable)

/-- Evict copies. -/
def Core.evict (k : Core) (rs : List (Nat × OvRecord)) : Core := rs.foldl (fun (k : Core) r => { k with records := k.records.drop r.1 }) k

/-- Make the quota allow n more slots for a context: evict its evictable copies, oldest first, none if that does not help
(R74). -/
def Core.fitQuota (k : Core) (ctx n quota : Nat) : Option Core :=
  let mine := sortBy (fun (a b : Nat × OvRecord) => decide (a.2.stamp < b.2.stamp))
    (k.records.filter fun (_, r) => r.owner == some ctx && r.evictable)
  let k := mine.foldl (fun (k' : Core) r => if k'.charge ctx + n ≤ quota then k' else k'.evict [r]) k
  if k.charge ctx + n ≤ quota then some k else none

/-- A copy that a request may share (R75). -/
def Core.shareable (k : Core) (domain n : Nat) (noShare : Bool) (pages : List (Nat × Ap × Nat)) : Option (Nat × OvRecord) :=
  if domain = 0 ∨ noShare then none
  else k.records.find? fun (_, r) =>
    r.placed && r.share == domain && !r.noShare && r.slots == n && r.pages == pages && decide (r.aliases.length < 8)

/-- The threads that wait for a copy of (context, overlay ID) go on. -/
def Core.wakeOv (k : Core) (ctx id : Nat) : Core :=
  { k with groups := k.groups.map fun (i, g) =>
      (i, if g.ctx = ctx then g.wakeIf (fun w => match w with
        | .park j _ => j == id
        | .ovwait j => j == id
        | _ => false) else g) }

/-- A request joins an existing copy (R75): its own record goes, and its pins and its occupancy become the copy's, which threads
that wait enter. -/
def Core.join (k : Core) (own : Nat) (r : OvRecord) (n : Nat) (x : OvRecord) (ctx id quota cc : Nat) : Core :=
  let k := ({ k with records := (k.records.drop own).put n { x with aliases := x.aliases ++ [(ctx, id)] } } : Core).recount
  let k := if r.entered then k.enterOv ctx id quota cc else k
  if x.resident then k.wakeOv ctx id else k

namespace State

/-- Cause 0x06 to the supervisor with the loads concerned (R77, R346). -/
def raiseExhaustion (s : State) (c : Nat) (qs : List OvReq) : State :=
  let payload := (qs.take 8).flatMap fun q =>
    [w32 (q.ctx * 2 ^ 24 + (q.slots - 1) * 2 ^ 16 + q.id), w32 ((s.core c).charge q.ctx * 2 ^ 16 + s.slotQuota q.ctx)]
  s.postRecord c (supRecord (mkTrap 6 qs.length) false false 0 0x3ff 0 payload)

/-- The request at the head of the load queue leaves it, and the next is looked at. -/
def nextLoad (s : State) (c : Nat) : State :=
  let s := s.modCore c fun k => { k with loadQ := k.loadQ.drop 1 }
  s.retryLoads c

/-- The head of the load queue with its entry read: refuse, share, or place (R66, R72, R74, R75). -/
def placeLoad (s : State) (c : Nat) (q : OvReq) (n : Nat) (noShare : Bool) (pages : List (Nat × Ap × Nat)) (image : Nat := 0) : State :=
  let k := s.core c
  let quota := s.slotQuota q.ctx
  let own := (k.records.look q.recNo).getD {}
  match k.shareable (s.shareDomain q.ctx) n noShare pages with
  | some (j, x) => (s.setCore c (k.join q.recNo own j x q.ctx q.id quota s.cc)).nextLoad c
  | none =>
    let fitted := k.fitQuota q.ctx n quota
    match fitted.bind fun k => (k.chooseRun n).map fun r => (k.evict r.2, r.1) with
    | none =>
      let k := fitted.getD k
      let head := (k.loadQ.take 1).map fun h => { h with slots := n, stuck := true }
      (s.setCore c { k with loadQ := head ++ k.loadQ.drop 1 }).postOnce (.overlayExhaustion c)
    | some (k, first) =>
      let r := { own with first, slots := n, share := s.shareDomain q.ctx, noShare, pages, image, owner := some q.ctx, placed := true }
      let k := ({ k with records := k.records.put q.recNo r, ovExhausted := false } : Core).countOv q.ctx 0 1
      ((s.setCore c k).nextLoad c).post (.overlayLoadComplete c q.recNo)

/-- Read the table entry of a request and translate its image (R65, R66). -/
def readEntry (s : State) (c : Nat) (q : OvReq) : State × OvRead :=
  let who := Instr.overlayPlacement c
  let va := s.ovtBase q.ctx + 8 * q.id
  if s.ovtCount q.ctx ≤ q.id then (s, .fail 5 3 va)
  else
    match s.xlate c 2 q.ctx va false false (.ev who) with
    | .wait s => (s, .wait)
    | .fail code s => (s, .fail 3 (0x200 + code) va)
    | .ok ap off s =>
      if ¬ codeAp ap ∨ ¬ s.readable ap off then ({ s with free := s.free + 1 }, .fail 3 (0x200 + s.freeCode) va)
      else
        if s.targetWaits ap off then (s.postOnce who, .wait) else
        let (s, bs, bad) := s.homeRead ap off 8
        if bad then (s, .fail 0x0b 0x200 va)
        else
          match ovEntry (leNat bs) with
          | none => (s, .fail 5 3 va)
          | some (n, noShare, image) =>
            match s.xlatePages c 2 q.ctx image who n with
            | .wait s => (s, .wait)
            | .fail code va s => (s, .fail 3 (0x200 + code) va)
            | .ok pages s =>
              match pages.zipIdx.find? fun (p, _) => !codeAp p.1 || !s.readable p.1 p.2 with
              | some (_, i) => ({ s with free := s.free + 1 }, .fail 3 (0x200 + s.freeCode) (image + 4096 * i))
              | none => (s, .ok n noShare (pages.zipIdx.map fun (p, i) => (s.usedLink c 2 q.ctx (image + 4096 * i), p)) image)

/-- A request's table entry has been read: its slots are known (R77, R238). -/
def noteSlots (s : State) (c : Nat) (q : OvReq) (n : Nat) : State :=
  s.modCore c fun k => { k with
    records := k.records.upd q.recNo fun r => if r.placed then r else { r with slots := n }
    loadQ := k.loadQ.map fun h => if h.recNo = q.recNo then { h with slots := n } else h }

/-- Requests behind the head read their entries and translate their images; those that match a copy share it without waiting for
space (R67, R75). -/
def shareBehind (s : State) (c : Nat) : State :=
  ((s.core c).loadQ.drop 1).foldl (fun s q =>
    match s.readEntry c q with
    | (s', .ok n noShare pages _) =>
      let k := s'.core c
      match k.shareable (s'.shareDomain q.ctx) n noShare pages with
      | some (j, x) =>
        let k := k.join q.recNo ((k.records.look q.recNo).getD {}) j x q.ctx q.id (s'.slotQuota q.ctx) s'.cc
        s'.setCore c { k with loadQ := k.loadQ.filter fun h => h.recNo ≠ q.recNo }
      | none => s'.noteSlots c q n
    | (s', .wait) => s'
    | (_, .fail _ _ _) => s) s

end State

/-- OVERLAY_PLACEMENT (R65, R66, R68, R72): requests that match a copy share it; with fewer than 4 loads in flight, the
request at the head of the queue has its table entry read and its image translated, and is refused or placed. -/
def execOverlayPlacement (c : Nat) (s : State) : Host.Outcome State Fault Refusal :=
  let s := s.shareBehind c
  let k := s.core c
  match k.loadQ with
  | [] => .next s
  | q :: _ =>
    if 4 ≤ k.loading then .next s
    else
      match s.readEntry c q with
      | (s, .wait) => .next s
      | (s, .fail cause info addr) => .next (s.nextLoad c |>.post (.overlayLoadFail c q.recNo cause (failInfo info addr)))
      | (s, .ok n noShare pages image) =>
        let s := s.noteSlots c q n
        if s.slotQuota q.ctx < n ∧ ((s.core c).shareable (s.shareDomain q.ctx) n noShare pages).isNone then
          let req := { q with slots := n }
          let s := s.modCore c fun k => { k with refused := k.refused ++ [req], records := k.records.drop q.recNo }
          .next ((s.nextLoad c).raiseExhaustion c [req])
        else .next (s.placeLoad c q n noShare pages image)

/-- Read a block of n bytes at its home. -/
def State.readBlock (s : State) (ap : Ap) (off n : Nat) : State × List Byte :=
  let (s, bs, _) := s.homeRead ap off n
  (s, bs)

/-- Read blocks of n bytes at their homes: the bytes, and the offset of the first block that is poisoned. -/
def State.readBlocks (s : State) (n : Nat) (pages : List (Ap × Nat)) : State × List Byte × Option Nat :=
  pages.foldl (fun (a : State × List Byte × Option Nat) p =>
    let (s, b, x) := a.1.homeRead p.1 p.2 n
    (s, a.2.1 ++ b, if x ∧ a.2.2.isNone then some a.2.1.length else a.2.2)) (s, [], none)

/-- OVERLAY_LOAD_COMPLETE (R67): the image is written, the copy turns Resident and its waiters go on; poison fails the load
(R66). -/
def execOverlayLoadComplete (c ld : Nat) (s : State) : Host.Outcome State Fault Refusal :=
  match (s.core c).records.look ld with
  | none => .next s
  | some r =>
    if r.resident ∨ ¬ r.placed then .next s
    else if r.pages.any fun p => s.targetWaits p.2.1 p.2.2 then .next (s.post (.overlayLoadComplete c ld))
    else
      let (s, bs, bad) := s.readBlocks 4096 (r.pages.map (·.2))
      match bad with
      | some i => .next (s.post (.overlayLoadFail c ld 0x0b (failInfo 0x200 (r.image + i))))
      | none =>
        let k := s.core c
        let clock := if r.entered then k.entryClock + 1 else k.entryClock
        let k := { k with
          istore := Mem.write (n := 32) k.istore (r.first * 1024) (State.wordsOf bs)
          entryClock := clock
          records := k.records.put ld { r with
            resident := true
            stamp := if r.entered then clock.toNat else r.stamp
            enteredAt := if r.entered then some s.cc else none } }
        .next ((s.setCore c (r.aliases.foldl (fun (k : Core) a => k.wakeOv a.1 a.2) k)).retryLoads c)

/-! ### Failure (R66, R71) -/

namespace State

/-- The threads of a group that wait for one of the failed IDs leave their wait with the failure cause: at a CALLO the push is
undone and the thread stands at the CALLO again; at a trap entry the trap being entered escalates; elsewhere the thread stands where
it would have fetched. Held threads take the cause when they are released. -/
def failThreads (s : State) (c gid : Nat) (ids : List Nat) (cause info addr : Nat) : State :=
  let g := s.group c gid
  let mine := g.threads.zipIdx.filter fun (t, _) => t.live && match t.wait with
    | some (.park id _) | some (.ovwait id) => ids.contains id
    | _ => false
  let entering := mine.filter fun (t, _) => match t.wait with
    | some (.park _ .trapEntry) => true
    | _ => false
  let s := mine.foldl (fun (s : State) (t, i) => match t.wait with
    | some (.park _ .trapEntry) => s
    | some (.park _ (.callo pc)) => (s.dropLink c gid (maskOf [i])).modGroup c gid fun g => g.onLanes (maskOf [i]) fun _ th =>
        { th with pc, wait := some (.failed { mkTrap cause info t.pc.toNat with pc }) }
    | _ => s.modGroup c gid fun g => g.onLanes (maskOf [i]) fun _ th =>
        { th with wait := some (.failed { mkTrap cause info addr with pc := t.pc }) }) s
  if entering.isEmpty then s.modCore c Core.recount
  else
    let lanes := maskOf (entering.map (·.2))
    let tops := entering.map fun (_, i) => (i, s.linkTop c gid i)
    let r := g.trap
    let back := fun (i : Nat) => if r.tcause.getLsbD 31 then r.tpc else ((tops.find? fun p => p.1 = i).map (·.2)).getD r.tpc
    let s := s.dropLink c gid lanes
    let s := s.modGroup c gid fun g => { g.onLanes lanes (fun i t => { t with pc := back i, wait := none, victim := false }) with
      trap := { r with inHandler := false } }
    let t : Trap := { cause := wf32 r.tcause 7 0, code := wf32 r.tcause 26 16, pc := r.tpc, info := r.tinfo, addrL := r.taddrl,
                      addrH := r.taddrh, lanes := r.tlanes, desc := r.tdesc }
    (s.modCore c Core.recount).escalate c gid t

end State

/-- OVERLAY_LOAD_FAIL (R66, R67, R71): the run is freed, and every waiter takes the cause, precisely. -/
def execOverlayLoadFail (c ld cause info : Nat) (s : State) : Host.Outcome State Fault Refusal :=
  match (s.core c).records.look ld with
  | none => .next s
  | some r =>
    let s := s.modCore c fun k => { k with records := k.records.drop ld }
    let s := ((s.core c).groups).foldl (fun (s : State) (gid, g) =>
      let ids := (r.aliases.filter fun a => a.1 = g.ctx).map (·.2)
      (s.failThreads c gid ids cause (info % 2 ^ 32) (info / 2 ^ 32)).takeFailed c gid) s
    let s := ((s.core c).groups).foldl (fun (s : State) (gid, _) =>
      if s.wantsTrap c gid then s.postOnce (.boundaryTrapTake c gid) else s) s
    .next (s.retryLoads c)

/-! ### Exhaustion (R77) -/

/-- OVERLAY_EXHAUSTION (R77): cause 0x06 once while the condition holds. -/
def execOverlayExhaustion (c : Nat) (s : State) : Host.Outcome State Fault Refusal :=
  let k := s.core c
  let waiting := if k.loadQ.any (·.stuck) then k.loadQ.filter fun q => 0 < q.slots else []
  if waiting.isEmpty then .next s
  else if ¬ k.exhausted then .next ((s.setCore c { k with ovExhausted := false }).post (.overlayExhaustion c))
  else if k.ovExhausted then .next (s.post (.overlayExhaustion c))
  else .next (((s.setCore c { k with ovExhausted := true }).raiseExhaustion c waiting).post (.overlayExhaustion c))

/-- QUOTA_RECHECK (R77): a refused request that now fits its context's quota is queued as an ordinary load, with the threads
that stand in the overlay. -/
def State.recheckQuota (s : State) (c : Nat) : State :=
  let k := s.core c
  let (fit, rest) := k.refused.partition fun q => decide (q.slots ≤ s.slotQuota q.ctx)
  let s := s.setCore c { k with refused := rest }
  (fit.foldl (fun (s : State) q =>
    let n := k.standing [(q.ctx, q.id)]
    let s := s.requestOv c q.ctx q.id
    if n = 0 then s else s.modCore c fun k => k.enterOv q.ctx q.id (s.slotQuota q.ctx) s.cc) s)

/-- The event of `State.recheckQuota`. -/
def execQuotaRecheck (c : Nat) (s : State) : Host.Outcome State Fault Refusal := .next (s.recheckQuota c)

end Sys2Proof.Machine
end

