-- ==== Sys2Proof/Machine/Treelets.lean ====
section
/-! DEFINITION. Treelets (R82 to R105): routing, inboxes and spill rings, the ownership directory, pool slots, fills, retirement
of scenes. -/

namespace Sys2Proof.Machine

/-! ### Spill rings (R104, R105) -/

def rayChunk : Nat := 682
def hitChunk : Nat := 1364

/-- Chunks that a ring of entries needs. -/
def Spill.need (sp : Spill) (cap : Nat) : Nat := if sp.entries.isEmpty then 0 else (sp.taken + sp.entries.length + cap - 1) / cap

/-- Take the oldest entry. -/
def Spill.pop (sp : Spill) (cap : Nat) : Option (List Word × Spill) :=
  match sp.entries with
  | [] => none
  | e :: rest => some (e, { sp with entries := rest, taken := if rest.isEmpty then 0 else (sp.taken + 1) % cap })

namespace State

/-- A chunk for die d: from its own stack, else from the first die that has one (R105). -/
def takeChunk (s : State) (d : Nat) : State × Option Nat :=
  match (d :: List.range s.product.dies).find? fun e => !(s.die e).spillFree.isEmpty with
  | none => (s, none)
  | some e =>
    let x := s.die e
    (s.setDie e { x with spillFree := x.spillFree.drop 1 }, x.spillFree.head?)

/-- The bytes of a ring in its chunks of the spill pool (R105): in each a header of 64 bytes, with the number of the next chunk, the
entries written and the entries taken in its first three words, and the entries behind it. -/
def laySpill (s : State) (sp : Spill) (cap : Nat) : State :=
  let words := if cap = rayChunk then 24 else 12
  let at_ := fun (i : Nat) => s.product.hbmBytes - reservedBytes + 65536 * sp.chunks.getD i 0
  let all := sp.taken + sp.entries.length
  let heads := (List.range sp.chunks.length).map fun i =>
    (at_ i, leBytes 4 (sp.chunks.getD (i + 1) 0) ++ leBytes 4 (min cap (all - i * cap)) ++ leBytes 4 (if i = 0 then sp.taken else 0)
      ++ leBytes 52 0)
  let rows := sp.entries.zipIdx.map fun (e, j) =>
    (at_ ((sp.taken + j) / cap) + 64 + 4 * words * ((sp.taken + j) % cap), (e.take words).flatMap fun (w : Word) => leBytes 4 w.toNat)
  (heads ++ rows).foldl (fun (s : State) p => s.homeWrite .hbm p.1 p.2) s

/-- Make a ring of die d hold the chunks that it needs: a drained head chunk and spare chunks return to the die's stack. The ring's
entries and headers lie in its chunks. -/
def fitChunks (s : State) (d : Nat) (old sp : Spill) (cap : Nat) : State × Spill :=
  -- a pop that emptied the head chunk gives that chunk back
  let (gone, kept) := if sp.taken = 0 ∧ old.taken ≠ 0 then (sp.chunks.take 1, sp.chunks.drop 1) else ([], sp.chunks)
  let n := sp.need cap
  let s := s.modDie d fun x => { x with spillFree := gone ++ kept.drop n ++ x.spillFree }
  let (s, sp) := (List.range (n - kept.length)).foldl (fun (a : State × Spill) _ =>
    match a.1.takeChunk d with
    | (s, some i) => (s, { a.2 with chunks := a.2.chunks ++ [i] })
    | (s, none) => (s, a.2)) (s, { sp with chunks := kept.take n })
  (s.laySpill sp cap, sp)

end State

/-! ### Names and places (R82, R83, R94) -/

def sceneOf (tid : Nat) : Nat := tid / 2 ^ 24 % 256
def numberOf (tid : Nat) : Nat := tid % 2 ^ 24
def PoolSlot.tid (p : PoolSlot) : Nat := p.scene * 2 ^ 24 + p.number
def treeHash (tid : Nat) : Nat := tid * 0x9e3779b1 % 2 ^ 32
/-- The home set of a treelet ID (R94). -/
def homeSet (tid : Nat) : Nat := treeHash tid % 8192

namespace State

/-- The home die of a treelet ID (R94). -/
def homeDie (s : State) (tid : Nat) : Nat :=
  match s.product with
  | .rilide16 => treeHash tid / 2 ^ 28
  | .rilide64 | .module64 => treeHash tid / 2 ^ 26

def sceneValid (s : State) (sc : Nat) : Bool := s.field (sceneOff sc 0) 63 63 == 1
def sceneCtx (s : State) (sc : Nat) : Nat := s.field (sceneOff sc 1) 63 56
def sceneCount (s : State) (sc : Nat) : Nat := s.field (sceneOff sc 1) 23 0
/-- A scene ID that rays may use: registered, and neither being retired nor retired since (R85). -/
def sceneLive (s : State) (sc : Nat) : Bool := s.sceneValid sc && !s.retiring.contains sc && !s.retired.contains sc
/-- Record a failed fill or a fatal index read (R83). -/
def sceneFault (s : State) (tid cause : Nat) : State :=
  (s.setField (sceneOff (sceneOf tid) 1) 55 48 cause).setField (sceneOff (sceneOf tid) 1) 47 24 (numberOf tid)

/-- The physical core of a home word (R315). -/
def homeCore (s : State) (home : Word) : Nat := (s.physical (wf32 home 19 10)).getD 0

/-- The nearest of some owners for a ray, as seen from a core (R99). -/
def nearest (s : State) (from_ : Nat) (owners : List Nat) (home : Word) : Option Nat :=
  let best := owners.foldl (fun a o => min a (s.hops from_ o)) 1000
  let tied := owners.filter fun o => s.hops from_ o = best
  let t := home.toNat
  tied[(t ^^^ t / 2 ^ 11 ^^^ t / 2 ^ 22) % max 1 tied.length]?

/-- Send a ray to its treelet from a core: to the nearest owner in the map cache, else to the home (R99, R100). A ray that has come
through an instance record names the context of that record's scene, and a target in a scene of another one goes to the home, which
returns it (R90, R325). -/
def routeRay (s : State) (c : Nat) (ray : List Word) (from_ : Option Nat := none) : State :=
  let tid := Ray.tid ray
  let d := s.homeDie tid
  let msg := ray.take 24 ++ [w32 (c + (from_.map fun x => (x + 1) * 2 ^ 16).getD 0)]
  let k := s.core c
  let foreign := from_.any fun x => s.sceneCtx (sceneOf tid) != x
  match k.mapCache.find? fun e => !foreign && e.1 == tid with
  | some e =>
    let s := s.setCore c { k with mapCache := e :: k.mapCache.filter fun y => y.1 ≠ tid }
    match s.nearest c (e.2.filterMap s.physical) (ray.getD 8 0) with
    | some o => s.send c o 2 2 (.rayArrival o msg)
    | none => s.send c (s.agentCore d) 2 2 (.directoryRayArrival d 0 msg)
  | none => s.send c (s.agentCore d) 2 2 (.directoryRayArrival d 0 msg)

/-- A ray goes to the inbox spill ring with a mark: the slot that accepted it plus 1, or that it is to be forwarded (R104). -/
def spillRay (s : State) (c mark : Nat) (ray : List Word) : State :=
  let k := s.core c
  let sp := { k.inboxSpill with entries := k.inboxSpill.entries ++ [ray.take 25 ++ [w32 mark]] }
  let (s, sp) := s.fitChunks (s.dieOf c) k.inboxSpill sp rayChunk
  (s.modCore c fun k => { k with inboxSpill := sp }).postOnce (.spillRefill c false)

/-- A core forwards a ray that it does not own to the home (R93); while the injection queue is full the ray goes to the inbox spill
ring (R377). A ray whose fill has failed here says so (R102). -/
def forwardHome (s : State) (c : Nat) (ray : List Word) (failed : Bool := false) : State :=
  let d := s.homeDie (Ray.tid ray)
  let who := c + 1 + (if failed then 2048 else 0)
  let msg := Instr.directoryRayArrival d who ray
  if c = s.agentCore d ∨ s.injects c 4 { src := c, dst := s.agentCore d, vn := 2, bulk := false, flits := 2, cargo := .here msg } then
    s.send c (s.agentCore d) 2 2 msg
  else s.spillRay c (if failed then 2048 else 0) ray

end State

/-! ### A core's slots and inbox (R92, R93, R103, R104) -/

/-- The slot that takes rays for a treelet, and whether it is only reserved for it while another treelet drains (R93, R98). -/
def Core.slotFor (k : Core) (tid : Nat) : Option (Nat × Bool) :=
  match k.slots.find? fun (_, p) => p.tid == tid && (p.state == .filling || p.state == .resident) with
  | some (j, _) => some (j, false)
  | none => (k.slots.find? fun (_, p) => p.state == .draining && p.next.any fun n => n.1 == tid).map fun (j, _) => (j, true)

def Core.modSlot (k : Core) (j : Nat) (f : PoolSlot → PoolSlot) : Core := { k with slots := k.slots.upd j f }

/-- A ray enters the inbox: the lowest free place of it in the core store takes its bytes (R38, R103). -/
def Core.pushRay (k : Core) (r : InRay) : Core :=
  let p := (firstFree 512 fun i => k.inbox.any fun x => x.place == i).getD 0
  ({ k with inbox := k.inbox ++ [{ r with place := p }] } : Core).writeStore (0x5ea000 + 96 * p)
    ((r.words.take 24).flatMap fun w => leBytes 4 w.toNat)

/-- A hit enters the hit queue: its places in the core store are taken in turn (R38, R103). -/
def Core.pushHit (k : Core) (h : List Word) : Core :=
  ({ k with hitQ := k.hitQ ++ [h] } : Core).writeStore (0x5f6000 + 48 * ((k.hitHead + k.hitQ.length) % 512)) (h.flatMap fun w => leBytes 4 w.toNat)

/-- The clicker takes the oldest hit (R200). -/
def Core.popHit (k : Core) : Core := { k with hitQ := k.hitQ.drop 1, hitHead := (k.hitHead + 1) % 512 }

/-- The slot of a ray's treelet is resident (R103). -/
def Core.deliverable (k : Core) (r : InRay) : Bool :=
  match r.slot with
  | none => false
  | some j => (k.slots.look j).any fun p => p.state == .resident && p.tid == Ray.tid r.words

namespace State

/-- A ray leaves the slot that accepted it: once a draining slot has no use left, SLOT_DRAINED follows (R92, R98). -/
def releaseSlot (s : State) (c j tid : Nat) : State :=
  let s := s.modCore c fun k => k.modSlot j fun p =>
    if p.tid = tid then { p with uses := p.uses - 1 } else { p with nextUses := p.nextUses - 1 }
  if ((s.core c).slots.look j).any fun p => p.state == .draining && p.uses == 0 then s.postOnce (.slotDrained c j) else s

/-- Put a ray into the inbox, or into its spill ring (R93, R104). -/
def enqueueRay (s : State) (c : Nat) (r : InRay) : State :=
  let k := s.core c
  if k.inbox.length < 512 ∧ k.inboxSpill.entries.isEmpty then
    s.setCore c ((k.pushRay r).wake fun (w : Wait) => w == .rayrecv)
  else
    s.spillRay c ((r.slot.map (· + 1)).getD 0) r.words

/-- Rays at the head of the inbox whose slot drains are forwarded (R93). -/
def cleanInbox : Nat → State → Nat → State
  | 0, s, _ => s
  | n + 1, s, c =>
    match (s.core c).inbox with
    | { slot := some j, words, .. } :: rest =>
      if ((s.core c).slots.look j).any fun p => p.state == .draining && p.tid == Ray.tid words then
        let s := s.modCore c fun k => { k with inbox := rest }
        cleanInbox n (((s.releaseSlot c j (Ray.tid words)).forwardHome c words).postOnce (.spillRefill c false)) c
      else s
    | _ => s

/-- The head of the inbox may have changed. -/
def inboxHead (s : State) (c : Nat) : State :=
  let s := cleanInbox 512 s c
  s.modCore c fun k => k.wake fun (w : Wait) => w == .rayrecv

/-- Begin to drain a slot: leaving to the treelet's home, then DRAINED when its uses end (R98). -/
def startDrain (s : State) (c j : Nat) (next : Option (Nat × Nat × Bool)) : State :=
  match (s.core c).slots.look j with
  | none => s
  | some p =>
    let s := s.modCore c fun k => k.modSlot j fun p => { p with state := .draining, next, nextUses := 0 }
    let d := s.homeDie p.tid
    let s := s.send c (s.agentCore d) 5 1 (.leaving d p.tid (partNo 1024 (s.logical c) j))
    let s := if p.uses = 0 then s.postOnce (.slotDrained c j) else s
    s.inboxHead c

end State

/-- RAY_ARRIVAL (R93, R97). -/
def execRayArrival (c : Nat) (ray : Words) (s : State) : Host.Outcome State Fault Refusal :=
  let tid := Ray.tid ray
  match (s.core c).slotFor tid with
  | none => .next (s.forwardHome c ray)
  | some (j, reserved) =>
    let k := s.core c
    let n := (k.accepted.look j).getD 0 + 1
    let k := { (k.modSlot j fun p => if reserved then { p with nextUses := p.nextUses + 1 }
        else { p with uses := p.uses + 1, heat := min 0xffff (p.heat + 1) }) with
      accepted := k.accepted.put j (n % 64) }
    let s := s.setCore c k
    let d := s.homeDie tid
    let s := if n = 64 then s.send c (s.agentCore d) 5 1 (.heatReport d tid 64) else s
    .next (s.enqueueRay c { slot := some j, words := ray })

/-- SPILL_REFILL (R104): free places of the inbox or of the hit queue are filled from the ring, oldest first. -/
def execSpillRefill (c : Nat) (hits : Bool) (s : State) : Host.Outcome State Fault Refusal :=
  let k := s.core c
  let d := s.dieOf c
  if hits then
    match k.hitSpill.pop hitChunk with
    | none => .next s
    | some (h, sp) =>
      if 512 ≤ k.hitQ.length then .next s
      else
        let (s, sp') := s.fitChunks d k.hitSpill sp hitChunk
        .next (((s.modCore c fun k => { k.pushHit h with hitSpill := sp' }).postOnce (.clickerTake c)).post (.spillRefill c true))
  else
    match k.inboxSpill.pop rayChunk with
    | none => .next s
    | some (r, sp) =>
      if 512 ≤ k.inbox.length then .next s
      else
        let (s, sp') := s.fitChunks d k.inboxSpill sp rayChunk
        let s := s.modCore c fun k => { k with inboxSpill := sp' }
        let n := (r.getD 25 0).toNat
        let r := r.take 25
        let holds := (k.slots.look (n - 1)).any fun p => p.tid == Ray.tid r || p.next.any fun m => m.1 == Ray.tid r
        let s := if Ray.done r ∨ (n ≠ 0 ∧ holds) then
            (s.modCore c fun k => k.pushRay { slot := if Ray.done r then none else some (n - 1), words := r }).inboxHead c
          else s.forwardHome c r (failed := decide (n = 2048))
        .next (s.post (.spillRefill c false))

/-! ### The directory (R95 to R101) -/

/-- The home's state of an entry (R96). -/
def DirEntry.available (e : DirEntry) : List Nat := (e.owners.filter fun o => !o.2.2.1 && !o.2.2.2).map (·.1)
def DirEntry.filling (e : DirEntry) : List Nat := (e.owners.filter fun o => o.2.2.1).map (·.1)
def DirEntry.drainOwner (e : DirEntry) (is : Nat × Nat × Bool × Bool → Bool) : DirEntry :=
  { e with owners := e.owners.map fun o => if is o then (o.1, o.2.1, o.2.2.1, true) else o }
/-- An owner of an entry has a number: core and slot (R94). -/
def ownerIs (owner : Nat) (o : Nat × Nat × Bool × Bool) : Bool := partNo 1024 o.1 o.2.1 == owner

namespace State

def dirSet (s : State) (d tid : Nat) : List DirEntry := ((s.die d).dir.look (homeSet tid)).getD []
def dirEntry (s : State) (d tid : Nat) : Option DirEntry := (s.dirSet d tid).find? fun e => e.tid = tid
def setDirSet (s : State) (d tid : Nat) (l : List DirEntry) : State :=
  s.modDie d fun x => { x with dir := if l.isEmpty then x.dir.drop (homeSet tid) else x.dir.put (homeSet tid) l }
def modEntry (s : State) (d tid : Nat) (f : DirEntry → DirEntry) : State :=
  s.setDirSet d tid ((s.dirSet d tid).map fun e => if e.tid = tid then f e else e)

/-- Return a ray to its home as a hit of status 2 or 3 (R96, R318). -/
def returnRay (s : State) (d : Nat) (ray : List Word) (status : Nat) : State :=
  let home := s.homeCore (ray.getD 8 0)
  s.send (s.agentCore d) home 3 1 (.hitArrival home (lostHit ray status)) (port := 5)

/-- Append a ray to the die's holding ring, with the core that forwarded it (R96). -/
def holdRay (s : State) (d : Nat) (ray : List Word) (fwd : Nat) : State :=
  let x := s.die d
  let sp := { x.holding with entries := x.holding.entries ++ [ray.take 25 ++ [w32 fwd]] }
  let (s, sp) := s.fitChunks d x.holding sp rayChunk
  s.modDie d fun x => { x with holding := sp }

/-- Take the held rays of a treelet out of the ring. -/
def takeHeld (s : State) (d tid : Nat) : State × List (List Word) :=
  let x := s.die d
  let (mine, rest) := x.holding.entries.partition fun r => Ray.tid r == tid
  if mine.isEmpty then (s, [])
  else
    let sp := { x.holding with entries := rest, taken := if rest.isEmpty then 0 else x.holding.taken }
    let (s, sp) := s.fitChunks d { x.holding with taken := 0 } sp rayChunk
    (s.modDie d fun x => { x with holding := sp }, mine)

/-- Ask for a placement, at the die that is tried first (R98). -/
def askPlacement (s : State) (d tid : Nat) (replica : Bool) (at_ : Nat) : State :=
  (s.modEntry d tid fun e => { e with placing := true }).send (s.agentCore d) (s.agentCore at_) 5 1
    (.placementRequest at_ tid d replica) (port := 5)

/-- Dies that a replica placement tries, in order (R98). -/
def replicaDies (s : State) (e : DirEntry) : List Nat :=
  let w := s.product.dieCols
  match (e.owners.head?).bind fun o => s.physical o.1 with
  | none => []
  | some p =>
    let (a, b) := (s.dieOf p % w, s.dieOf p / w)
    let taken := e.owners.filterMap fun o => (s.physical o.1).map s.dieOf
    ([((a + w / 2) % w, b), (a, (b + w / 2) % w), ((a + w / 2) % w, (b + w / 2) % w)].map fun (x, y) => y * w + x).filter
      fun t => !taken.contains t

/-- A replica is granted once the heat reaches the threshold (R96, R97). -/
def checkReplica (s : State) (d tid : Nat) : State :=
  let th := s.field (dieOff d 0x18) 15 0
  match s.dirEntry d tid with
  | none => s
  | some e =>
    if th = 0 ∨ e.heat < th ∨ e.available.isEmpty ∨ ¬ e.filling.isEmpty ∨ 4 ≤ e.owners.length ∨ e.placing
        ∨ s.field (sceneOff (sceneOf tid) 0) 62 62 = 1 then s
    else
      match s.replicaDies e with
      | [] => s.modEntry d tid fun e => { e with heat := 0 }
      | t :: _ => (s.modEntry d tid fun e => { e with heat := 0 }).askPlacement d tid true t

/-- The home routes a ray to an owner, and tells the core that made the stale or missing choice (R96, R100). While its injection queue
is full the ray goes to the holding ring (R377). -/
def homeRoute (s : State) (d fwd : Nat) (ray : List Word) (owners told : List Nat) : State :=
  let agent := s.agentCore d
  match s.nearest agent (owners.filterMap s.physical) (ray.getD 8 0) with
  | none => s
  | some o =>
    let msg := Instr.rayArrival o (ray.take 25)
    if o ≠ agent ∧ ¬ s.injects agent 5 { src := agent, dst := o, vn := 2, bulk := false, flits := 2, cargo := .here msg } then
      (s.holdRay d ray fwd).postOnce (.indexEntryRead d (Ray.tid ray))
    else
    let s := s.send agent o 2 2 msg (port := 5)
    let asker := (ray.getD 24 0).toNat % 2 ^ 16
    s.send agent asker 5 1 (.mapUpdate asker (Ray.tid ray) told) (port := 5)

/-- A ray at its home, with a directory entry (R96, R102); fwd is 0, or the forwarding core plus 1, and 2,048 more where its fill has
failed: such a ray waits for that event. -/
def dirRay (s : State) (d fwd : Nat) (ray : List Word) (e : DirEntry) : State :=
  let tid := e.tid
  let from_ := if fwd = 0 then none else some (s.logical (fwd % 2048 - 1))
  let mine := fun (l : Nat) => from_ == some l
  let fills := e.filling.any mine
  if e.failed then s.returnRay d ray 3
  else if 2048 ≤ fwd ∧ fills then s.holdRay d ray fwd
  else
    let alone := (e.owners.filter fun o => !o.2.2.2).map (·.1)
    let e := match from_ with
      | some l => if alone = [l] ∧ ¬ fills then e.drainOwner (·.1 == l) else e
      | none => e
    let s := s.modEntry d tid fun _ => e
    let choice := e.available.filter fun l => !mine l
    let filler := (e.filling.filter fun l => !mine l).take 1
    if ¬ choice.isEmpty then s.homeRoute d fwd ray choice e.available
    else if ¬ filler.isEmpty then s.homeRoute d fwd ray filler (if e.available.isEmpty then filler else e.available)
    else if fills ∨ e.placing then s.holdRay d ray fwd
    else if e.owners.length < 4 then (s.holdRay d ray fwd).askPlacement d tid false d
    else s.holdRay d ray fwd

/-- Held rays of a treelet are tried again after an event of its entry (R96). -/
def retryHeld (s : State) (d tid : Nat) : State :=
  let (s, rays) := s.takeHeld d tid
  rays.foldl (fun (s : State) ray =>
    match s.dirEntry d tid with
    | some e => s.dirRay d (ray.getD 25 0).toNat ray e
    | none => (s.holdRay d ray (ray.getD 25 0).toNat).postOnce (.indexEntryRead d tid)) s

/-- A die may offer a slot again: held rays whose entry has no owner to take them are tried again (R106). -/
def retryPlacements (s : State) : State :=
  s.dies.foldl (fun (s : State) (d, x) => (x.holding.entries.map Ray.tid).dedup.foldl (fun (s : State) t =>
    if (s.dirEntry d t).any fun e => !e.placing && e.available.isEmpty && e.filling.isEmpty then s.retryHeld d t else s) s) s

/-- Every held ray of a treelet returns as a hit. -/
def returnHeld (s : State) (d tid status : Nat) : State :=
  let (s, rays) := s.takeHeld d tid
  rays.foldl (fun (s : State) ray => s.returnRay d ray status) s

/-- Held rays that have no entry yet ask for their index entry again: a way of a set may be free (R101). -/
def retryIndex (s : State) (d : Nat) (sets : Nat → Bool) : State :=
  let waiting := ((s.die d).holding.entries.map Ray.tid).filter fun t => sets (homeSet t) && (s.dirEntry d t).isNone
  waiting.dedup.foldl (fun (s : State) t => s.postOnce (.indexEntryRead d t)) s

def retrySet (s : State) (d tid : Nat) : State := s.retryIndex d (· == homeSet tid)

/-- A way that is to be reused (R101): the slots of its owners drain once they are resident, and it is free when no owner is
left. -/
def settleWay (s : State) (d tid : Nat) : State :=
  match s.dirEntry d tid with
  | none => s
  | some e =>
    if ¬ e.leavingWay then s
    else if e.owners.isEmpty then s.setDirSet d tid ((s.dirSet d tid).filter fun x => x.tid ≠ tid)
    else e.owners.foldl (fun (s : State) o => match s.physical o.1 with
      | some p =>
        if ((s.core p).slots.look o.2.1).any fun q => q.state == .resident && q.tid == tid then s.startDrain p o.2.1 none else s
      | none => s) s

/-- Make room for an entry in a set (R101): none while ways drain. -/
def makeWay (s : State) (d tid : Nat) : State × Bool :=
  let l := s.dirSet d tid
  let cooler := fun (a b : DirEntry) => decide (a.heat < b.heat)
  if l.length < 8 then (s, true)
  else
    match pickBest cooler (l.filter fun e => e.owners.isEmpty && !e.placing) with
    | some e => (s.setDirSet d tid (l.filter fun x => x.tid ≠ e.tid), true)
    | none =>
      if l.any (·.leavingWay) then (s, false)
      else
        match pickBest cooler (l.filter fun e => !e.pinned && !e.available.isEmpty) with
        | none => (s, false)
        | some e => ((s.modEntry d e.tid fun e => { e with leavingWay := true }).settleWay d e.tid, false)

end State

/-- DIRECTORY_RAY_ARRIVAL (R85, R90, R96, R97): fwd is 0 after a map cache miss, else the forwarding core plus 1. -/
def execDirectoryRayArrival (d fwd : Nat) (ray : Words) (s : State) : Host.Outcome State Fault Refusal :=
  let tid := Ray.tid ray
  let sc := sceneOf tid
  let from_ := (ray.getD 24 0).toNat / 2 ^ 16
  if ¬ s.sceneLive sc ∨ (from_ ≠ 0 ∧ s.sceneCtx sc + 1 ≠ from_) then .next (s.returnRay d ray 2)
  else
    match s.dirEntry d tid with
    | some e =>
      let e := if fwd = 0 then { e with heat := min 0xffff (e.heat + 1) } else e
      .next (((s.modEntry d tid fun _ => e).dirRay d fwd ray e).checkReplica d tid)
    | none =>
      if s.sceneCount sc ≤ numberOf tid then .next (s.returnRay d ray 2)
      else .next ((s.holdRay d ray fwd).postOnce (.indexEntryRead d tid))

/-- INDEX_ENTRY_READ (R84, R96, R101): the entry of a treelet that rays wait for is created from the scene's index, which the die agent
reads as R14 lets a load read it. -/
def execIndexEntryRead (d tid : Nat) (s : State) : Host.Outcome State Fault Refusal :=
  let sc := sceneOf tid
  if (s.dirEntry d tid).isSome then .next (s.retryHeld d tid)
  else if ¬ (s.die d).holding.entries.any (fun r => Ray.tid r == tid) then .next s
  else if ¬ s.sceneLive sc ∨ s.sceneCount sc ≤ numberOf tid then .next (s.returnHeld d tid 2)
  else
    let va := s.field (State.sceneOff sc 0) 56 3 * 8 + 8 * numberOf tid
    match s.xlate (s.agentCore d) 6 (s.sceneCtx sc) va false false (.ev (.indexEntryRead d tid)) with
    | .wait s => .next s
    | .fail _ s => .next ((s.sceneFault tid 3).returnHeld d tid 3)
    | .ok ap off s =>
      if ¬ s.readable ap off then .next ((s.sceneFault tid 3).returnHeld d tid 3)
      else if s.targetWaits ap off then .next (s.post (.indexEntryRead d tid))
      else
        let (s, bs, bad) := s.targetRead ap off 8
        let q := leNat bs
        if bad then .next ((s.sceneFault tid 0x0b).returnHeld d tid 3)
        else if ¬ q.testBit 63 ∨ bits q 61 57 ≠ 0 ∨ bits q 5 0 ≠ 0 then .next (s.returnHeld d tid 2)
        else
          match s.makeWay d tid with
          | (s, false) => .next s
          | (s, true) =>
            let missed := ((s.die d).holding.entries.filter fun r => Ray.tid r == tid && r.getD 25 0 == 0).length
            let e : DirEntry := { tid, pinned := q.testBit 62, image := bits q 56 6 * 64, heat := min 0xffff missed }
            .next ((s.setDirSet d tid (s.dirSet d tid ++ [e])).retryHeld d tid)

/-- The slot that a die's slot table offers (R98): an empty one, else the coolest resident one that is not pinned. -/
def State.pickSlot (s : State) (d : Nat) : Option (Nat × Nat) :=
  let all := (s.dieCores d).flatMap fun c => (List.range (s.core c).poolSlots).map fun j => (c, j)
  let rec_ := fun (x : Nat × Nat) => (s.core x.1).slots.look x.2
  match all.find? fun x => (rec_ x).isNone with
  | some x => some x
  | none => pickBest (fun (a b : Nat × Nat) => decide (((rec_ a).map (·.heat)).getD 0 < ((rec_ b).map (·.heat)).getD 0))
      (all.filter fun x => (rec_ x).any fun p => p.state == .resident && !p.pinned)

/-- PLACEMENT_REQUEST (R98): die d offers a slot, which is reserved at once, or the next die is tried. -/
def execPlacementRequest (d tid home : Nat) (replica : Bool) (s : State) : Host.Outcome State Fault Refusal :=
  match s.dirEntry home tid with
  | none => .next s
  | some e =>
    if ¬ e.placing ∨ 4 ≤ e.owners.length then .next (s.modEntry home tid fun e => { e with placing := false })
    else
      match s.pickSlot d with
      | some (c, j) =>
        let next := (tid, e.image, e.pinned)
        let s := match (s.core c).slots.look j with
          | some _ => s.startDrain c j (some next)
          | none =>
            let p : PoolSlot := { scene := sceneOf tid, number := numberOf tid, state := .filling, pinned := e.pinned, next := some next }
            (s.modCore c fun k => { k with slots := k.slots.put j p }).post (.treeletFillComplete c j)
        let s := s.modEntry home tid fun e => { e with placing := false, owners := e.owners ++ [(s.logical c, j, true, false)] }
        .next (s.retryHeld home tid)
      | none =>
        let give := s.modEntry home tid fun e => { e with placing := false }
        if replica then
          match ((s.replicaDies e).dropWhile fun x => x ≠ d).drop 1 with
          | t :: _ => .next (s.askPlacement home tid true t)
          | [] => .next (give.retryHeld home tid)
        else
          let t := (d + 1) % s.product.dies
          .next (if t = home then give else s.askPlacement home tid false t)

/-- SLOT_DRAINED (R98): the last use of a draining slot has ended; DRAINED goes to the home and the fill begins. -/
def execSlotDrained (c slot : Nat) (s : State) : Host.Outcome State Fault Refusal :=
  match (s.core c).slots.look slot with
  | none => .next s
  | some p =>
    if p.state ≠ .draining ∨ p.uses ≠ 0 then .next s
    else
      let d := s.homeDie p.tid
      let s := s.send c (s.agentCore d) 5 1 (.drained d p.tid (partNo 1024 (s.logical c) slot))
      match p.next with
      | none => .next (s.modCore c fun k => { k with slots := k.slots.drop slot, accepted := k.accepted.drop slot }).retryPlacements
      | some (tid, _, pinned) =>
        let q : PoolSlot := { scene := sceneOf tid, number := numberOf tid, state := .filling, pinned, uses := p.nextUses,
                              heat := min 0xffff p.nextUses, next := p.next }
        .next ((s.modCore c fun k => { k with slots := k.slots.put slot q }).post (.treeletFillComplete c slot))

/-- The header of an image is in order, for the treelet number requested (R86, R91). -/
def headerOk (b : List Byte) (number : Nat) : Bool :=
  let n := bytesAt b 8 2
  let m := bytesAt b 10 2
  bytesAt b 1 3 == 0xb4c701 && bytesAt b 4 4 == number && decide (1 ≤ n ∧ n ≤ 1023 ∧ m ≤ 1364 ∧ 64 + 64 * n + 48 * m ≤ 65536)
    && decide (bytesAt b 12 4 < 2 ^ 31) && !anySet b 40 24

/-- Bytes of an image by its header (R86). -/
def imageSize (b : List Byte) : Nat := 64 + 64 * bytesAt b 8 2 + 48 * bytesAt b 10 2

namespace State

/-- Read n bytes of an image from va, pages of HBM alone (R91): a wait, a cause, or the bytes. -/
def readImage : Nat → State → Nat → Nat → Instr → Nat → Nat → EngAcc
  | 0, s, _, _, _, _, _ => .ok s []
  | fuel + 1, s, c, ctx, who, va, n =>
    if n = 0 then .ok s []
    else
      let m := min n (4096 - va % 4096)
      match s.xlate c 5 ctx va false false (.ev who) with
      | .wait s => .wait s
      | .fail code s => .fault s 3 code
      | .ok ap off s =>
        if ap ≠ .hbm ∨ ¬ s.readable ap off then .fault s 3 0
        else
          let (s, bs, bad) := s.homeRead ap off m
          if bad then .poison s
          else
            match readImage fuel s c ctx who (va + m) (n - m) with
            | .ok s rest => .ok s (bs ++ rest)
            | r => r

/-- A fill fails (R91, R96, R102): the slot is empty again, its home is told, and the rays accepted for it go there. -/
def failFill (s : State) (c j tid cause : Nat) : State :=
  let k := s.core c
  let (mine, rest) := k.inbox.partition fun r => r.slot == some j && Ray.tid r.words == tid
  let s := s.setCore c { k with slots := k.slots.drop j, accepted := k.accepted.drop j, inbox := rest }
  let d := s.homeDie tid
  let s := s.send c (s.agentCore d) 5 1 (.fillFailed d tid (partNo 1024 (s.logical c) j) cause)
  let s := mine.foldl (fun (s : State) r => s.forwardHome c r.words (failed := true)) s
  ((s.inboxHead c).postOnce (.spillRefill c false)).retryPlacements

end State

/-- TREELET_FILL_COMPLETE (R91, R92): the header is validated, the image is written, and the slot turns resident. -/
def execTreeletFillComplete (c slot : Nat) (s : State) : Host.Outcome State Fault Refusal :=
  match (s.core c).slots.look slot with
  | none => .next s
  | some p =>
    match p.state, p.next with
    | .filling, some (tid, image, _) =>
      let who := Instr.treeletFillComplete c slot
      let ctx := s.sceneCtx (sceneOf tid)
      match State.readImage 2 s c ctx who image 64 with
      | .wait s => .next s
      | .poison s => .next (s.failFill c slot tid 0x0b)
      | .fault s _ _ | .window s => .next (s.failFill c slot tid 3)
      | .ok s head =>
        if ¬ headerOk head (numberOf tid) then .next (s.failFill c slot tid 5)
        else
          match State.readImage 18 s c ctx who image (imageSize head) with
          | .wait s => .next s
          | .poison s => .next (s.failFill c slot tid 0x0b)
          | .fault s _ _ | .window s => .next (s.failFill c slot tid 3)
          | .ok s bs =>
            let s := s.modCore c fun k => (k.writeForeign (slot * 65536) bs).modSlot slot fun p => { p with state := .resident, next := none }
            let d := s.homeDie tid
            .next ((s.send c (s.agentCore d) 5 1 (.filled d tid (partNo 1024 (s.logical c) slot))).inboxHead c).retryPlacements
    | _, _ => .next s

/-- The rays that wait for an event of an entry are tried again, and its way may become free (R96, R101). -/
def State.entryEvent (s : State) (d tid : Nat) : State := ((s.retryHeld d tid).settleWay d tid).retrySet d tid

/-- FILLED (R96). -/
def execFilled (d tid owner : Nat) (s : State) : Host.Outcome State Fault Refusal :=
  .next (((s.modEntry d tid fun e => { e with
    owners := e.owners.map fun o => if ownerIs owner o then (o.1, o.2.1, false, o.2.2.2) else o }).entryEvent d tid).checkReplica d tid)

/-- FILL_FAILED (R96). -/
def execFillFailed (d tid owner cause : Nat) (s : State) : Host.Outcome State Fault Refusal :=
  match s.dirEntry d tid with
  | none => .next s
  | some _ =>
    .next (((s.modEntry d tid fun e => { e with owners := e.owners.filter fun o => !ownerIs owner o, failed := true }).sceneFault tid
      cause).entryEvent d tid)

/-- LEAVING (R96). -/
def execLeaving (d tid owner : Nat) (s : State) : Host.Outcome State Fault Refusal :=
  .next ((s.modEntry d tid fun e => e.drainOwner (ownerIs owner)).entryEvent d tid)

/-- Owner k is removed; where its slot has been placed anew for the treelet meanwhile, the draining one (R96). -/
def DirEntry.removeOwner (e : DirEntry) (owner : Nat) : DirEntry :=
  let drained := e.owners.any fun o => ownerIs owner o && o.2.2.2
  { e with owners := e.owners.filter fun o => !(ownerIs owner o && (o.2.2.2 || !drained)) }

/-- DRAINED (R96, R101). -/
def execDrained (d tid owner : Nat) (s : State) : Host.Outcome State Fault Refusal :=
  .next ((s.modEntry d tid fun e => e.removeOwner owner).entryEvent d tid)

/-- HEAT_REPORT (R97). -/
def execHeatReport (d tid n : Nat) (s : State) : Host.Outcome State Fault Refusal :=
  .next (((s.modEntry d tid fun e => { e with heat := min 0xffff (e.heat + n) }).entryEvent d tid).checkReplica d tid)

/-- HEAT_DECAY (R97): a decay period has passed on die d, an event of each of its entries (R96). -/
def execHeatDecay (d : Nat) (s : State) : Host.Outcome State Fault Refusal :=
  let s := s.modDie d fun x => { x with dir := x.dir.map fun (i, l) => (i, l.map fun e => { e with heat := e.heat / 2 }) }
  .next ((s.dieCores d).foldl (fun (s : State) c =>
    s.modCore c fun k => { k with slots := k.slots.map fun (j, p) => (j, { p with heat := p.heat / 2 }) }) s).retryPlacements

/-- MAP_UPDATE (R100): the entry becomes the most recently used of 256. -/
def execMapUpdate (c tid : Nat) (owners : List Nat) (s : State) : Host.Outcome State Fault Refusal :=
  .next (s.modCore c fun k => { k with mapCache := ((tid, owners.take 4) :: k.mapCache.filter fun e => e.1 ≠ tid).take 256 })

/-- POOL_REBALANCE (R105): die agents pass a free chunk from d to d2. -/
def execPoolRebalance (d d2 : Nat) (s : State) : Host.Outcome State Fault Refusal :=
  match (s.die d).spillFree with
  | [] => .next s
  | i :: rest => .next ((s.modDie d fun x => { x with spillFree := rest }).modDie d2 fun x => { x with spillFree := i :: x.spillFree })

/-! ### Retiring a scene (R85, R396) -/

namespace State

/-- A host command ends (R396). -/
def hostDone (s : State) (result : Nat) : State :=
  ((s.setField 0x30 63 63 0).setField 0x30 58 56 result).emit (.msix 0 0)

end State

/-- RETIRE_SCENE (R85, R396): host_cmd op 2. -/
def State.retireScene (s : State) (scene : Nat) : State :=
  if s.field 0x30 63 63 = 1 ∨ 256 ≤ scene then s
  else
    let s := ((s.setField 0x30 63 60 (8 + 2)).setField 0x30 58 56 0).setField 0x30 7 0 scene
    let s := { s with retiring := scene :: s.retiring, retired := s.retired.erase scene }
    let s := { s with cores := s.cores.map fun (i, k) => (i, { k with mapCache := k.mapCache.filter fun e => sceneOf e.1 ≠ scene }) }
    let s := (List.range s.product.dies).foldl (fun (s : State) d =>
      (((s.die d).holding.entries.map Ray.tid).dedup.filter fun t => sceneOf t == scene).foldl
        (fun (s : State) t => s.returnHeld d t 2) s) s
    (s.post (.sceneRetireComplete scene))

/-- The event of `State.retireScene`. -/
def execRetireScene (scene : Nat) (s : State) : Host.Outcome State Fault Refusal := .next (s.retireScene scene)

/-- SCENE_RETIRE_COMPLETE (R85): resident slots of the scene drain and entries without owners go; the command completes when
the last slot is free. -/
def execSceneRetireComplete (scene : Nat) (s : State) : Host.Outcome State Fault Refusal :=
  if ¬ s.retiring.contains scene then .next s
  else
    let s := s.present.foldl (fun (s : State) c => (s.core c).slots.foldl (fun (s : State) (j, p) =>
      if p.scene = scene ∧ p.state = .resident then s.startDrain c j none else s) s) s
    let keep := fun (e : DirEntry) => !(sceneOf e.tid == scene && e.owners.isEmpty && !e.placing)
    let strip := fun (x : Die) => { x with dir := x.dir.map fun (i, l) => (i, l.filter keep) }
    let s := { s with dies := s.dies.map fun (d, x) => (d, strip x) }
    let busy := s.present.any (fun c => (s.core c).slots.any fun (_, p) => p.scene == scene || p.next.any fun (n : Nat × Nat × Bool) => sceneOf n.1 == scene)
      || s.dies.any fun (_, x) => x.dir.any fun (_, l) => l.any fun e => sceneOf e.tid == scene
    .next (if busy then s.post (.sceneRetireComplete scene)
      else
        let s := s.dies.foldl (fun (s : State) (d, _) => s.retryIndex d fun _ => true) s
        ({ s with retiring := s.retiring.erase scene, retired := scene :: s.retired } : State).hostDone 0)

end Sys2Proof.Machine
end

