-- ==== Sys2Proof/Machine/Rays.lean ====
section
/-! DEFINITION. Ray instructions (R319 to R327), and hits, end notices and exits at the home core (R317, R318, R326). -/

namespace Sys2Proof.Machine

/-! ### Home slots (R103, R317) -/

namespace State

/-- Start of the home save table in the HBM aperture (R317, R404). -/
def saveTable (s : State) : Nat := s.product.hbmBytes - reservedBytes + s.product.spillChunks * 65536
/-- The save record of a home slot of a core. -/
def saveRecord (s : State) (c slot : Nat) : Nat := s.saveTable + 64 * (1024 * s.logical c + slot)

/-- A home slot is free again (R317). -/
def freeHome (s : State) (c slot : Nat) : State :=
  s.modCore c fun k => ({ k with homeUsed := k.homeUsed.erase slot } : Core).wake fun (w : Wait) => w == .raysend

/-- The stage of the die whose hits a core without a stage takes part in (R198, R204). -/
def hitStage (s : State) (d : Nat) : Nat := s.field (dieOff d 0) 19 16

end State

/-! ### RAYSEND (R320) -/

/-- The checks of one ray (R320). -/
def rayBad (s : State) (x : Ctx) (ray : List Word) : Bool :=
  let r := fun i => ray.getD i 0
  let d := s.dieOf x.core
  let st := s.hitStage d
  let entryBad := fun k => Fp.isNan32 (r (15 + 2 * k)) || (r (15 + 2 * k)).getLsbD 31
  (List.range 6).any (fun i => !Fp.finite32 (r i)) || (List.range 3).all (fun i => (r (3 + i)).toNat % 2 ^ 31 == 0)
    || Fp.isNan32 (r 6) || Fp.lt32 (r 6) 0 || Fp.isNan32 (r 7) || Fp.lt32 (r 7) (r 6)
    || decide (1 < flagOf ray 31 30 ∨ 4 < Ray.depth ray) || (List.range (Ray.depth ray)).any entryBad
    || (s.sceneValid (sceneOf (Ray.tid ray)) && s.sceneCtx (sceneOf (Ray.tid ray)) ≠ x.g.ctx)
    || ((s.core x.core).stage.isNone &&
        (s.field (State.stageOff d st 0) 63 63 == 0 || !((s.die d).stages.look st).any fun y => y.ctx == x.g.ctx))

/-- Send one ray from its home (R320). -/
def State.launchRay (s : State) (c : Nat) (ray : List Word) : State :=
  let k := s.core c
  match firstFree 1024 k.homeUsed.contains with
  | none => s
  | some slot =>
    let serial := k.raySerial
    let s := s.setCore c { k with homeUsed := slot :: k.homeUsed, raySerial := serial + 1 }
    let s := s.homeWrite .hbm (s.saveRecord c slot + 60) (leBytes 4 serial.toNat)
    let ray := ray.set 8 (w32 (s.device * 2 ^ 20 + s.logical c * 2 ^ 10 + slot))
    let ray := setWords ray 10 [0xffffffff, 0xffffffff, 0, ray.getD 13 0 &&& 0xfff80000]
    s.routeRay c ray

/-- The rays of a bundle, in ascending lane order (R320). -/
def raysend (rays : List (List Word)) (x : Ctx) (s : State) : Res :=
  if rays.any (rayBad s x) then prot 3
  else if 1024 < (s.core x.core).homeUsed.length + rays.length then .wait s .raysend
  else .done (rays.foldl (fun (s : State) r => s.launchRay x.core r) s)

/-- `RAYSEND`, lane form (R320). -/
def execRaysendLane (m : MReg) (a : VReg) (s : State) : Host.Outcome State Fault Refusal :=
  run (.raysendLane m a) (fun x s =>
    let k := s.core x.core
    raysend ((lanesOf (x.active m)).map fun l => (List.range 24).map fun i => k.getV x.g x.gid (a.toNat + i) l) x s) s

/-- The 24 registers of a ray block. -/
def rayBlock (s : State) (x : Ctx) (b : Nat) : List Word := (List.range 24).map fun i => (s.asIssued x).getS x.gid (b + i)

/-- `RAYSEND`, uniform form (R320). -/
def execRaysendUniform (a : SReg) (s : State) : Host.Outcome State Fault Refusal :=
  run (.raysendUniform a) (fun x s => raysend [rayBlock s x a.toNat] x s) s

/-! ### The held ray (R319) -/

/-- A traversal-only instruction: cause 0x01 elsewhere; `holds` says that it needs a held ray, `going` that the ray must not be
done (R319, R447). -/
def traversal (holds going : Bool) (b : Nat) (x : Ctx) (s : State) (f : HeldRay → List Word → Res) : Res :=
  if x.gid < 512 ∨ x.gid = supGid then .trap (mkTrap 1 0)
  else
    match x.g.ray with
    | none => if holds then prot 7 else f { base := 0, home := 0, slot := none } []
    | some h =>
      let ray := rayBlock s x b
      if ¬ holds ∨ (going ∧ (h.slot.isNone ∨ Ray.done ray)) then prot 7 else f h ray

namespace State

/-- The visit ends: the slot is released and the thread holds no ray (R92, R319). -/
def endVisit (s : State) (x : Ctx) (h : HeldRay) (tid : Nat) : State :=
  let s := s.modGroup x.core x.gid fun g => { g with ray := none }
  match h.slot with
  | some j => s.releaseSlot x.core j tid
  | none => s

/-- The treelet that a pool slot holds. -/
def slotTid (s : State) (c : Nat) (h : HeldRay) : Nat := (h.slot.bind fun j => ((s.core c).slots.look j).map (·.tid)).getD 0

/-- Write back a block (R324, R325). -/
def writeRay (s : State) (x : Ctx) (b : Nat) (ray : List Word) : State := s.writeSs x b (ray.take 24)

/-- Send the held ray on, or home through its exit (R324, R326). -/
def sendOn (s : State) (x : Ctx) (h : HeldRay) (b : Nat) (ray : List Word) (exit : Bool) (from_ : Option Nat := none) : State :=
  let ray := addHop ray
  let s := s.writeRay x b ray
  let out := ray.set 8 h.home
  let s := s.endVisit x h (s.slotTid x.core h)
  if exit then
    let c := s.homeCore h.home
    s.send x.core c 2 2 (.sendexitArrival c out)
  else s.routeRay x.core out from_

/-- n bytes of the bound treelet's image from byte i, with poison. -/
def image (s : State) (c : Nat) (h : HeldRay) (i n : Nat) : List Byte × Bool :=
  let a := h.slot.getD 0 * 65536 + i
  ((s.core c).readStore a n, (s.core c).storeBad a n)

/-- Nodes and record slots of the bound treelet (R86). -/
def imageCounts (s : State) (c : Nat) (h : HeldRay) : Nat × Nat :=
  let b := (s.image c h 0 16).1
  if h.slot.isNone then (0, 0) else (bytesAt b 8 2, bytesAt b 10 2)

/-- A read of the image from byte i met poison: cause 0x0b at the next boundary, nothing written. The address is that of the core
store. -/
def imagePoison (s : State) (x : Ctx) (h : HeldRay) (i : Nat) : Res :=
  .done (s.pendTrap x.core x.gid x.g.uid x.g.ctx { mkTrap 0x0b 0 (h.slot.getD 0 * 65536 + i) with pc := x.pc, lanes := x.lanes })

/-- Fresh free words (R322, R323: no result is stated for operands that are not numbers). -/
def freeWords (s : State) (n : Nat) : List Word := (List.range n).map fun i => Config.freeWord (s.free + i)
def spendFree (s : State) (n : Nat) : State := { s with free := s.free + n }

end State

/-- Words 0 to 7 of a ray are numbers, words 0 to 5 finite: R322 and R323 state every result. -/
def rayNumbers (ray : List Word) : Bool :=
  (List.range 6).all (fun i => Fp.finite32 (ray.getD i 0)) && !Fp.isNan32 (ray.getD 6 0) && !Fp.isNan32 (ray.getD 7 0)

/-- `RAYRECV` (R321): the oldest deliverable ray of the inbox, or a done ray at its head. -/
def execRayrecv (d : SReg) (s : State) : Host.Outcome State Fault Refusal :=
  run (.rayrecv d) (fun x s =>
    traversal false false d.toNat x s fun _ _ =>
      let k := s.core x.core
      let i := if (k.inbox.head?).any (fun r => r.slot.isNone) then some 0 else k.inbox.findIdx? k.deliverable
      match i.bind fun i => (k.inbox[i]?).map fun r => (i, r) with
      | none => .wait s .rayrecv
      | some (i, r) =>
        let s := s.setCore x.core { k with inbox := k.inbox.eraseIdx i }
        let s := s.modGroup x.core x.gid fun g => { g with ray := some { base := d.toNat, home := r.words.getD 8 0, slot := r.slot } }
        let s := s.writeSs x d.toNat (r.words.take 24)
        let s := s.inboxHead x.core
        .done (if (s.core x.core).inboxSpill.entries.isEmpty then s else s.postOnce (.spillRefill x.core false))) s

/-- A pair that RAYFWD pushes, as a pending entry; none when it fails a check (R324). -/
def pushed (n m : Nat) (ray : List Word) (ref t : Word) : Option (Word × Word) :=
  if Fp.isNan32 t ∨ t.getLsbD 31 ∨ badRef n m ref then none
  else match wf32 ref 31 30 with
    | 2 => some ((ray.getD 9 0 &&& 0xff000000) ||| (ref &&& 0x00ffffff), t)
    | 3 => if Ray.inst ray then none else some (ray.getD 9 0, 0x80000000 ||| (t &&& 0x7ffff800) ||| (ref &&& 0x7ff))
    | _ => none

/-- `RAYFWD` (R324). -/
def execRayfwd (n : BitVec 3) (a b : SReg) (s : State) : Host.Outcome State Fault Refusal :=
  run (.rayfwd n a b) (fun x s =>
    traversal true false b.toNat x s fun h ray =>
      let (nodes, slots) := s.imageCounts x.core h
      let k := s.core x.core
      let q := (List.range n.toNat).map fun j =>
        pushed nodes slots ray (k.getS x.gid (a.toNat + 2 * j)) (k.getS x.gid (a.toNat + 2 * j + 1))
      if q.any (·.isNone) then prot 3
      else
        match forwardRay ray (q.filterMap id) with
        | (ray, .send) => .done (s.sendOn x h b.toNat ray false)
        | (ray, .exit) => .done (s.sendOn x h b.toNat ray true)
        | (ray, .hold) => .done (s.writeRay x b.toNat ray)) s

/-- `HITSEND` (R327). -/
def execHitsend (a b : SReg) (s : State) : Host.Outcome State Fault Refusal :=
  run (.hitsend a b) (fun x s =>
    traversal true false b.toNat x s fun h ray =>
      let status := if flagOf ray 12 12 = 1 then 4 else if ray.getD 10 0 = 0xffffffff then 1 else 0
      let hit := hitOf (ray.set 8 h.home) status ((s.core x.core).getS x.gid a.toNat)
      let c := s.homeCore h.home
      .done ((s.endVisit x h (s.slotTid x.core h)).send x.core c 3 1 (.hitArrival c hit))) s

/-- `RAYEND` (R327). -/
def execRayend (b : SReg) (s : State) : Host.Outcome State Fault Refusal :=
  run (.rayend b) (fun x s =>
    traversal true false b.toNat x s fun h _ =>
      let c := s.homeCore h.home
      .done ((s.endVisit x h (s.slotTid x.core h)).send x.core c 3 1 (.endNotice c (wf32 h.home 9 0)))) s

/-- `BOXT` (R322). -/
def execBoxt (d a b : SReg) (s : State) : Host.Outcome State Fault Refusal :=
  run (.boxt d a b) (fun x s =>
    traversal true true b.toNat x s fun h ray =>
      let v := ((s.core x.core).getS x.gid a.toNat).toNat
      let (n, m) := s.imageCounts x.core h
      if 1024 ≤ v ∨ n ≤ v then prot 3 v
      else
        let (node, bad) := s.image x.core h (64 + 64 * v) 64
        if bad then s.imagePoison x h (64 + 64 * v)
        else if badNode n m node then prot 3 v
        else
          let stated := rayNumbers ray && (List.range 3).all fun i => Fp.finite32 (wordAt node (4 * i))
          let free := fun (i : Nat) => Config.freeWord (s.free + i)
          let s := if stated then s else s.spendFree 64
          .done ((s.writeSs x d.toNat (boxResult free ray node)).raiseFlags x x.lanes (boxFlags free ray node))) s

/-- `TRIT` (R323). -/
def execTrit (d a b : SReg) (s : State) : Host.Outcome State Fault Refusal :=
  run (.trit d a b) (fun x s =>
    traversal true true b.toNat x s fun h ray =>
      let ref := (s.core x.core).getS x.gid a.toNat
      let (n, m) := s.imageCounts x.core h
      if wf32 ref 31 30 ≠ 1 ∨ badRef n m ref then prot 3
      else
        let tris := (List.range (wf32 ref 14 11 + 1)).map fun j => s.image x.core h (64 + 64 * n + 48 * (wf32 ref 10 0 + j)) 48
        if tris.any (·.2) then s.imagePoison x h (64 + 64 * n + 48 * wf32 ref 10 0)
        else if tris.any (fun t => decide (2 ^ 10 ≤ bytesAt t.1 44 4)) then prot 3
        else
          let r := triRun (fun i => Config.freeWord (s.free + i)) ray (tris.map (·.1))
          let s := if rayNumbers ray then s else s.spendFree 64
          .done (((s.writeRay x b.toNat r.ray).writeS x d.toNat r.result).raiseFlags x x.lanes r.flags)) s

/-- `RXF` (R325). -/
def execRxf (d a b : SReg) (s : State) : Host.Outcome State Fault Refusal :=
  run (.rxf d a b) (fun x s =>
    traversal true true b.toNat x s fun h ray =>
      let ref := (s.core x.core).getS x.gid a.toNat
      let (n, m) := s.imageCounts x.core h
      if wf32 ref 31 30 ≠ 3 ∨ badRef n m ref then prot 3
      else
        let (r, bad) := s.image x.core h (64 + 64 * n + 48 * wf32 ref 10 0) 96
        if bad then s.imagePoison x h (64 + 64 * n + 48 * wf32 ref 10 0)
        else if anySet r 57 39 then prot 3
        else
          let ray := setFlag ray 10 10 0
          let stay := fun (v : Nat) => Res.done ((s.writeRay x b.toNat ray).writeS x d.toNat (w32 v))
          let mask := flagOf ray 29 22
          if Ray.inst ray then stay 1
          else if byteAt r 56 &&& mask = 0 then stay 2
          else
            match enterSpace ray r with
            | none => .done (((s.writeRay x b.toNat ray).writeS x d.toNat 3).raiseFlags x x.lanes (spaceFlags ray r))
            | some od =>
              let fl := spaceFlags ray r
              let home := s.homeCore h.home
              let at_ := s.saveRecord home (wf32 h.home 9 0)
              let saved := ((ray.take 6) ++ ((ray.drop 14).take 8)).flatMap fun (w : Word) => leBytes 4 w.toNat
              let s := s.homeWrite .hbm at_ (saved ++ [BitVec.ofNat 8 mask, BitVec.ofNat 8 (Ray.depth ray + 8 * flagOf ray 17 17), 0, 0])
              let ray := setWords ray 0 od
              let ray := setFlag (setFlag (setFlag (setFlag ray 29 22 (byteAt r 56 &&& mask)) 18 18 1) 17 17 0) 21 19 0
              let ray := setWords ray 14 [0, 0, 0, 0, 0, 0, wordAt r 52, wordAt r 48]
              let ray := ray.set 9 (wordAt r 48)
              .done (((s.writeS x d.toNat 0).raiseFlags x x.lanes fl).sendOn x h b.toNat ray false (some (s.sceneCtx (sceneOf (s.slotTid x.core h)))))) s

/-! ### At the home core -/

/-- HIT_ARRIVAL (R103, R104, R318): the serial is filled in, and the hit queue or its spill ring takes the hit. -/
def execHitArrival (c : Nat) (hit : Words) (s : State) : Host.Outcome State Fault Refusal :=
  let slot := wf32 (hit.getD 0 0) 9 0
  let (s, bs, _) := s.homeRead .hbm (s.saveRecord c slot + 60) 4
  let hit := hit.set 10 (w32 (leNat bs))
  let k := s.core c
  if k.hitQ.length < 512 ∧ k.hitSpill.entries.isEmpty then
    .next ((s.setCore c (k.pushHit hit)).postOnce (.clickerTake c))
  else
    let (s, sp) := s.fitChunks (s.dieOf c) k.hitSpill { k.hitSpill with entries := k.hitSpill.entries ++ [hit] } hitChunk
    .next (((s.modCore c fun k => { k with hitSpill := sp }).postOnce (.spillRefill c true)).postOnce (.clickerTake c))

/-- END_NOTICE (R317, R327). -/
def execEndNotice (c slot : Nat) (s : State) : Host.Outcome State Fault Refusal := .next (s.freeHome c slot)

/-- SENDEXIT_ARRIVAL (R326): the ray leaves its instance at its home, and goes on or waits there as a done ray. -/
def execSendexitArrival (c : Nat) (ray : Words) (s : State) : Host.Outcome State Fault Refusal :=
  let (s, bs, _) := s.homeRead .hbm (s.saveRecord c (wf32 (ray.getD 8 0) 9 0)) 64
  let ws := (List.range 14).map fun i => wordAt bs (4 * i)
  let depth := byteAt bs 57 % 8
  let ray := setWords (setWords ray 0 (ws.take 6)) 14 ((ws.drop 6).zipIdx.map fun (w, i) => if i < 2 * depth then w else 0)
  let ray := setFlag (setFlag (setFlag ray 29 22 (byteAt bs 56)) 21 19 depth) 17 17 (byteAt bs 57 / 8 % 2)
  let ray := setFlag (setFlag ray 18 18 0) 10 10 0
  match forwardRay ray [] with
  | (ray, .hold) => .next (s.enqueueRay c { slot := none, words := ray.take 24 ++ [w32 c] })
  | (ray, _) => .next (s.routeRay c (addHop ray))

end Sys2Proof.Machine
end

