-- ==== Sys2Proof/Machine/Place.lean ====
section
/-! DEFINITION. Placing teams and starting groups (R184, R192 to R196, R33, R35, R40), and the arbiter's account (R188 to
R191). -/

namespace Sys2Proof.Machine

/-! ### Room on a core (R192) -/

/-- The lowest free range of n from a below top, the taken ranges standing in rising order. -/
def gapIn : List (Nat × Nat) → Nat → Nat → Nat → Option Nat
  | [], a, n, top => if a + n ≤ top then some a else none
  | (lo, hi) :: t, a, n, top => if a + n ≤ lo then some a else gapIn t (max a hi) n top

/-- Bytes of the allocation of a declaration (R40, R183). -/
def declStore (d : DWord) : Nat := (qf d 48 26 + 255) / 256 * 256
/-- Bytes of lane bank of a team of n groups (R35). -/
def declBank (n : Nat) (d : DWord) : Nat := n * (16 * qf d 7 0)

/-- Where an allocation of n bytes goes: above the pool and below granule 63 (R40). -/
def Core.storeGap (k : Core) (n : Nat) : Option Nat :=
  if n = 0 then some 0
  else
    let used := (k.teams.filter fun (_, t) => t.size ≠ 0).map fun (_, t) => (t.base, t.base + t.size)
    gapIn (sortBy (fun a b => decide (a.1 < b.1)) used) (max k.poolSlots (k.poolNext.getD 0) * 65536) n 0x5e8000

/-- Where a lane bank range of n bytes goes (R35). -/
def Core.bankGap (k : Core) (n : Nat) : Option Nat :=
  if n = 0 then some 0
  else
    let used := (k.teams.filter fun (_, t) => decide (0 < t.window ∧ t.kind ≠ .traversal)).map fun (_, t) =>
      (t.bankBase, t.bankBase + t.groups * t.window)
    gapIn (sortBy (fun a b => decide (a.1 < b.1)) used) 0 n 65536

/-- Base sets that no team and no group holds. -/
def Core.freeSets (k : Core) : List Nat :=
  let used := k.teams.flatMap (fun (_, t) => t.sets) ++ k.groups.map (·.1)
  (List.range 512).filter fun i => !used.contains i

/-- Sum of the reserves of the resident teams (R31). -/
def Core.reserves (k : Core) : Nat := k.teams.foldl (fun a (_, t) => a + t.reserve) 0

/-- The core can take a team of n groups with a declaration; `sets` base sets of it are needed (R192, R196). -/
def Core.canTake (k : Core) (n sets : Nat) (decl : DWord) : Bool :=
  decide (sets ≤ k.freeSets.length) && decide (k.reserves + qf decl 25 16 ≤ 992) && (k.storeGap (declStore decl)).isSome
    && (k.bankGap (declBank n decl)).isSome
    && decide ((k.teams.filter fun (_, t) => t.kind ≠ .traversal).length < 16) && !k.leaving

/-- The core can take a traversal team (R195). -/
def Core.canTraverse (k : Core) (decl : DWord) : Bool :=
  k.teams.all (fun (_, t) => t.kind ≠ .traversal) && (k.storeGap (declStore decl)).isSome

/-- The team would fit if the core were empty (R185 code 6, R193). -/
def Core.couldTake (k : Core) (n : Nat) (decl : DWord) : Bool :=
  decide (declStore decl + k.poolSlots * 65536 ≤ 0x5e8000 ∧ declBank n decl ≤ 65536 ∧ n ≤ 512)

/-! ### The last holder of a range (R33) -/

/-- The allocation of a team is cleared when another context, or something that is no context, wrote part of it last (R33,
R40). -/
def Core.takeStore (k : Core) (lo hi ctx : Nat) : Core :=
  let k := if heldBy k.storeHolder lo hi ctx then k
    else ({ k with store := Mem.clear k.store lo hi, storePoison := k.storePoison.filter fun p => decide (p < lo ∨ hi ≤ p) } : Core).wake
      (Wait.watches lo hi)
  { k with storeHolder := markHeld k.storeHolder lo hi ctx }

/-- So is its range of every lane bank (R35). -/
def Core.takeBanks (k : Core) (lo hi ctx : Nat) : Core :=
  let k := if heldBy k.bankHolder lo hi ctx then k
    else { k with banks := k.banks.filter fun (x : Host.Cell) => decide (x.1 % 65536 < lo ∨ hi ≤ x.1 % 65536) }
  { k with bankHolder := markHeld k.bankHolder lo hi ctx }

/-- Rows of a base set, or the engine's own registers of a thread, are cleared when another context held them last (R33). -/
def Core.takeSet (k : Core) (gid ctx : Nat) : Core :=
  let k := if k.rfHolder.look gid = some ctx then k
    else if gid < 512 then { k with rf := Mem.clear k.rf (17 * gid * 32) (17 * (gid + 1) * 32) }
    else { k with rf := Mem.clear k.rf (sPlace gid 0) (sPlace gid 0 + 32) }
  { k with rfHolder := k.rfHolder.put gid ctx }

namespace State

/-- Reclaim what an allocation on a core needs; whether it is free, every fill to it having landed (R40, R45). -/
def reclaimFor (s : State) (c : Nat) (decl : DWord) : State × Bool :=
  let k := s.core c
  let size := declStore decl
  let base := (k.storeGap size).getD 0
  if size = 0 then (s, true)
  else
    let (k, ok) := (k.relend k.lent).reclaimRange base (base + size)
    (s.setCore c k, ok)

/-- The same for every core of a block. -/
def reclaimAll (s : State) (cores : List Nat) (decl : DWord) : State × Bool :=
  cores.foldl (fun a c => let (s, ok) := a.1.reclaimFor c decl; (s, a.2 && ok)) (s, true)

/-- When nothing on a die waits for a reclaim any more, granules that were given up and that no allocation took are lent again (R42,
R45). -/
def settleReclaims (s : State) (d : Nat) : State :=
  let cs := s.dieCores d
  if cs.any fun c => (s.core c).reclaimWaits then s
  else (cs.filter fun c => !(s.core c).reclaiming.isEmpty && (s.core c).poolNext.isNone && (s.core c).nextStage.isNone).foldl
    (fun (s : State) c => s.modCore c fun k => k.relend k.lent) s

/-- PLACING a team on a core that can take it (R35, R40, R45, R174, R184, R224): the lent granules of its allocation are reclaimed,
its ranges cleared, then the ring images and the barrier array written, all before a thread of it runs. `fresh` is false for a restored team, whose store follows. -/
def placeTeam (s : State) (c : Nat) (t : Team) (sets : Nat) (images : List (Nat × List Byte)) (fresh : Bool) : State × Nat :=
  let k := s.core c
  let size := declStore t.decl
  let base := (k.storeGap size).getD 0
  let bytes := if t.kind = .traversal then 0 else declBank t.groups t.decl
  let bank := (k.bankGap bytes).getD 0
  let before := k.lent
  let k := if size = 0 then k else (k.reclaimRange base (base + size)).1
  let k := if size = 0 then k else k.takeStore base (base + size) t.ctx
  let k := if bytes = 0 then k else k.takeBanks bank (bank + bytes) t.ctx
  let n := max 1 k.nextTeam
  let t := { t with base, size, bankBase := bank, sets := k.freeSets.take sets, held := 0, retired := t.retired, bands := [], saving := false }
  let k := { k with teams := k.teams.put n t, nextTeam := n + 1 }
  let expected := match t.kind with
    | .grid => t.groups
    | .traversal => 64
    | .stage => 0
  let k := if fresh then
      let k := images.foldl (fun (k : Core) i => k.writeStore (base + i.1) i.2) k
      (List.range t.barriers).foldl (fun (k : Core) j => k.putStore64 (base + 8 * j) (BitVec.ofNat 64 expected)) k
    else k
  (s.setCore c (k.grantScan.relend before), n)

/-- Threads that start enter the copy of their overlay, which is requested when none is Resident (R70, R71, R79). -/
def enterStart (s : State) (c gid ctx : Nat) (lanes pc : Word) : State :=
  let id := overlayOf pc
  let needs := ((s.core c).resident? ctx id).isNone ∧ wf32 pc 15 14 = 0
  let s := if needs then s.requestOv c ctx id else s
  let s := s.modCore c fun k => k.recount.enterOv ctx id (s.slotQuota ctx) s.cc
  if needs then s.parkOn c gid lanes id .start else s

/-- STARTING a group (R159, R194, R195, R329, R140): base set and masks, its threads at the entry, the acquire of a start.
`args` gives v1 and up of each lane. -/
def startGroup (s : State) (c n gid : Nat) (t : Team) (idx kind : Nat) (lanes entry s4 s5 : Word) (args : List (List Word)) : State :=
  let tid : Word := w32 (kind * 2 ^ 18 + t.index * 2 ^ 14 + idx * 2 ^ 5)
  let k := (s.core c).takeSet gid t.ctx
  let count := if gid < 512 then 32 else 1
  let g : Group := {
    uid := 1024 * k.nextUid + c, ctx := t.ctx, team := n, tid
    block := if t.kind = .grid then w32 t.block else 0
    m0 := lanes
    threads := (List.range count).map fun i => { pc := entry, live := lanes.getLsbD i }
    gens := genSeed 0
    startCc := s.cc }
  let k := { k with nextUid := k.nextUid + 1, groups := k.groups.put gid g }
  let k := ((t.args.take 4) ++ [s4, s5]).zipIdx.foldl (fun (k : Core) (w, j) => k.setS gid j w) k
  let k := if gid < 512 then (List.range 32).foldl (fun (k : Core) l => k.setV g gid 0 l (tid + w32 l)) k else k
  let k := args.zipIdx.foldl (fun (k : Core) (ws, l) => ws.zipIdx.foldl (fun (k : Core) (w, j) => k.setV g gid (1 + j) l w) k) k
  ((s.setCore c (k.l1Acquire .sys)).enterStart c gid t.ctx lanes entry)

/-! ### The arbiter's account (R188 to R191) -/

def arb (s : State) (d q : Nat) : ArbQueue := ((s.die d).arb.look q).getD {}
def setArb (s : State) (d q : Nat) (a : ArbQueue) : State := s.modDie d fun x => { x with arb := x.arb.put q a }
/-- The block list of a queue at a die. -/
def blocksAt (s : State) (d q : Nat) : List BlockRef := ((s.die d).lists.look q).getD []

/-- The deficit saturates (R189). -/
def satDeficit (x : Int) : Int := max x (-(2 ^ 47))

/-- The round quantum of a queue in cc (R180). -/
def quantum (s : State) (q : Nat) : Int := 4096 * (max 1 (s.field (lqOff q 1) 63 48) : Nat)

/-- A queue with no block listed and no charge held keeps no positive deficit (R191). -/
def trimDeficit (s : State) (d q : Nat) : State :=
  let a := s.arb d q
  if (s.blocksAt d q).isEmpty ∧ a.held = 0 ∧ 0 < a.deficit then s.setArb d q { a with deficit := 0 } else s

/-- Place (R190): n groups are charged. -/
def chargeGroups (s : State) (d q n : Nat) : State :=
  let a := s.arb d q
  let deficit := satDeficit (a.deficit - 4096 * n)
  let s := s.setArb d q { a with deficit, held := a.held + 4096 * n }
  if q = (s.die d).ptr ∧ deficit ≤ 0 then s.modDie d fun x => { x with ptr := (q + 1) % 256 } else s

/-- Settle (R190): one group, with its resident cycles. -/
def settleGroup (s : State) (d q cycles : Nat) : State :=
  let a := s.arb d q
  (s.setArb d q { a with deficit := satDeficit (a.deficit + 4096 - cycles), held := a.held - 4096 }).trimDeficit d q

/-- The launch of a number. -/
def launch? (s : State) (l : Nat) : Option Launch := s.launches.find? fun x => x.index = l
def modLaunch (s : State) (l : Nat) (f : Launch → Launch) : State :=
  { s with launches := s.launches.map fun x => if x.index = l then f x else x }

end State

/-! ### Fields of a launch record (R182) -/

def Launch.w (l : Launch) (i : Nat) : Word := l.words.getD i 0
def Launch.kind (l : Launch) : Nat := wf32 (l.w 0) 31 30
def Launch.teams (l : Launch) : Nat := wf32 (l.w 0) 29 26 + 1
def Launch.groups (l : Launch) : Nat := wf32 (l.w 0) 25 17 + 1
def Launch.stage (l : Launch) : Nat := wf32 (l.w 0) 16 13
def Launch.decl (l : Launch) : DWord := l.w 3 ++ l.w 2
def Launch.budget (l : Launch) : Nat := (l.w 5).toNat
/-- The dies of die_mask, ascending. -/
def Launch.dies (l : Launch) : List Nat := (List.range 64).filter fun i => (l.w 7 ++ l.w 6).getLsbD i
def Launch.initIdx (l : Launch) : Nat := wf32 (l.w 15) 15 0
/-- The die of a block (R186). -/
def Launch.dieOf (l : Launch) (b : Nat) : Nat := l.dies.getD (b % l.dies.length) 0
/-- Its resident team of an index, not yet placed. -/
def Launch.team (l : Launch) (b i : Nat) : Team :=
  { kind := if l.kind = 0 then .grid else if l.kind = 1 then .traversal else .stage
    ctx := l.ctx, queue := l.queue, launch := l.index, block := b, index := i
    groups := if l.kind = 1 then 64 else l.groups
    decl := l.decl, entry := l.w 4, tag := l.w 14, args := [l.w 8, l.w 9, l.w 10, l.w 11], blockCount := l.w 1, stage := l.stage }

namespace State

/-- The launch has blocks that are still to come to a die, listed there, or placed there. -/
def launchAt (s : State) (d : Nat) (l : Launch) : Bool :=
  (s.blocksAt d l.queue).any (fun r => r.launch == l.index) || (s.arb d l.queue).coming.contains l.index || (s.die d).placed.any (fun p => p.launch == l.index)
    || (!l.failed && (List.range l.dies.length).any fun j => decide (l.next + j < l.total ∧ l.dieOf (l.next + j) = d))

/-- The countdown of a launch stops when its last team on a die has retired (R188). -/
def disarm (s : State) (d : Nat) (l : Launch) : State :=
  if s.launchAt d l then s
  else s.setArb d l.queue (let a := s.arb d l.queue; { a with armed := a.armed.filter fun x => x.1 ≠ l.index })

/-! ### Ring images (R184) -/

/-- The images of a launch, read through a die's translation caches: none when an entry or an image is refused. -/
def readImages (s : State) (d : Nat) (l : Launch) (who : Instr) : EngAcc :=
  let i := l.initIdx
  let c := s.agentCore d
  let bad := fun (s : State) => EngAcc.fault s 5 0
  if i = 0 then .ok s []
  else if qf (s.ctxQ l.ctx 4) 35 20 < i then bad s
  else
    match State.engReadAll 2 s c 6 l.ctx who true 0 (qf (s.ctxQ l.ctx 7) 56 4 * 16 + 16 * (i - 1)) 16 with
    | .ok s e =>
      let q0 := bytesAt e 0 8
      let n := bits (bytesAt e 8 8) 9 0
      if bits q0 63 57 ≠ 0 ∨ bits q0 3 0 ≠ 0 ∨ bits (bytesAt e 8 8) 63 10 ≠ 0 ∨ n = 0 then bad s
      else State.engReadAll (48 * n / 4096 + 2) s c 6 l.ctx who true 0 q0 (48 * n)
    | r => r

end State

/-- The images as (offset, descriptor) pairs, in order. -/
def imagesOf (bs : List Byte) : List (Nat × List Byte) :=
  (List.range (bs.length / 48)).map fun j => (bytesAt bs (48 * j) 4, (bs.drop (48 * j + 16)).take 32)

/-- An image passes the checks of R185 code 10: no reserved bit set, above the barrier array, within the allocation. -/
def imageOk (decl : DWord) (b : List Byte) : Bool :=
  let off := bytesAt b 0 4
  let q0 := bytesAt b 16 8
  let slots := bits q0 22 0
  let n := bits q0 63 48 * (bits q0 39 32 + 1) * 16
  let low := 8 * qf decl 15 11
  let q2 := bytesAt b 32 8
  off % 32 == 0 && !anySet b 4 12 && bits q0 47 40 == 0 && bits q0 31 23 == 0 && bits q2 63 10 == 0 && bits q2 7 6 == 0
    && !anySet b 40 8 && decide (low ≤ off ∧ off + 32 ≤ declStore decl) && decide (low ≤ slots ∧ slots + n ≤ declStore decl)

end Sys2Proof.Machine
end

