-- ==== Sys2Proof/Machine/Groups.lean ====
section
/-! DEFINITION. The end of groups, teams, blocks and launches (R149, R177, R187, R191, R235), stage teams (R196, R199), and TERMG
(R353). -/

namespace Sys2Proof.Machine

namespace State

/-! ### Stage teams (R196, R199) -/

/-- A core of the die's reservation (R193). -/
def reservedCore (s : State) (d c : Nat) : Bool := (s.die d).reserved.any fun r => r.2.2.2.contains c

/-- The place of a core among its die's present cores. -/
def corePlace (s : State) (c : Nat) : Nat := ((s.dieCores (s.dieOf c)).filter (· < c)).length

/-- A core that serves no stage joins one, if the stage team fits there; while the ring images are being read the core keeps the
stage in mind (R184, R196, R199). -/
def joinStage (s : State) (c st : Nat) : State :=
  let d := s.dieOf c
  let k := s.core c
  let out := fun (s : State) => s.modCore c fun k => ({ k with nextStage := none } : Core).relend k.lent
  match (s.die d).stages.look st with
  | none => out s
  | some y =>
    if y.retiring ∨ k.stage.isSome ∨ (s.launch? y.launch).any (fun l => decide (s.slotQuota y.ctx < l.entrySlots)) ∨ ¬ k.canTake y.groups 0 y.decl ∨ s.reservedCore d c then out s
    else
      match s.launch? y.launch with
      | none => out s
      | some l =>
        match s.readImages d l (.clickerTake c) with
        | .ok s bs =>
          let b := l.dies.idxOf d
          let (s, free) := s.reclaimFor c y.decl
          if ¬ free then s.modCore c fun k => { k with nextStage := some st } else
          let (s, n) := s.placeTeam c (l.team b (s.corePlace c)) 0 (imagesOf bs) true
          let s := s.modCore c fun k => { k with stage := some st, leaving := false, nextStage := none }
          let s := s.modDie d fun x => { x with placed := x.placed.map fun p =>
            if p.launch = l.index then { p with teams := p.teams ++ [(s.logical c, n)] } else p }
          s.postOnce (.clickerTake c)
        | .wait s => s.modCore c fun k => { k with nextStage := some st }
        | .poison s | .fault s _ _ | .window s => out s

/-- A slot's group is formed: its overlay is requested when it is absent, and the launch follows (R79, R200). -/
def formSlot (s : State) (c id : Nat) : State :=
  match (s.core c).clicker.find? fun f => f.id == id && !f.formed with
  | none => s
  | some f =>
    let s := s.modCore c fun k => { k with clicker := k.clicker.map fun g => if g.id = id then { g with formed := true } else g }
    let absent := ((s.core c).resident? f.ctx (overlayOf f.entry)).isNone ∧ wf32 f.entry 15 14 = 0
    let s := if absent then s.requestOv c f.ctx (overlayOf f.entry) else s
    s.postOnce (.formedGroupLaunch c)

/-- A core leaves its stage: it draws no more items and every group forming on it forms (R199, R200). A core that is leaving already
keeps the stage that it goes to. -/
def leaveStage (s : State) (c : Nat) (next : Option Nat) : State :=
  let s := s.modCore c fun k => { k with leaving := true, nextStage := if k.leaving then next.or k.nextStage else next }
  let s := (s.core c).clicker.foldl (fun (s : State) f => s.formSlot c f.id) s
  (s.postOnce (.formedGroupLaunch c)).postOnce (.groupEnd c 0)

/-! ### Launches (R187) -/

/-- Add 1 to a 64-bit word of memory as one atomic at its home (R187). -/
def addOne (s : State) (ap : Ap) (off : Nat) : State :=
  let (s, bs, bad) := s.targetRead ap off 8
  if bad then s else s.targetWrite ap off (leBytes 8 (leNat bs + 1))

/-- A launch whose blocks have all retired completes: the word at done_va, then done_index. -/
def completeLaunch (s : State) (l : Launch) (who : Instr) : State :=
  let va := (l.w 13 ++ l.w 12).toNat
  let fin := fun (s : State) =>
    ({ s with launches := s.launches.filter fun x => x.index ≠ l.index } : State).setField (lqOff l.queue 3) 63 32
      (s.field (lqOff l.queue 3) 63 32 + 1)
  if va = 0 then fin s
  else
    match s.xlate (s.agentCore (l.queue % s.product.dies)) 6 l.ctx va true false (.ev who) with
    | .ok ap off s =>
      if s.targetWaits ap off then s.post who else fin (if s.readable ap off then s.addOne ap off else s)
    | .fail _ s => fin s
    | .wait s => s

/-- Complete every launch that can be. -/
def completeLaunches (s : State) (who : Instr) : State :=
  (s.launches.filter fun l => l.distributed && !l.failed && l.retired == l.total).foldl (fun (s : State) l => s.completeLaunch l who) s

/-- A block retires with its last team; a stage's block when its stage is retired too (R187, R196). -/
def retireBlock (s : State) (d : Nat) (p : PlacedBlock) : State :=
  let s := s.modDie d fun x => { x with placed := x.placed.filter fun y => y.order ≠ p.order, noVictim := [] }
  let s := s.modLaunch p.launch fun l => { l with retired := l.retired + 1 }
  let s := match s.launch? p.launch with
    | some l => s.disarm d l
    | none => s
  (s.trimDeficit d p.queue).postOnce (.placementOpportunity d)

/-! ### Teams (R187) -/

/-- A team can retire: its groups have, and its commands have completed (R187, R199, R304). -/
def teamDone (s : State) (c n : Nat) (t : Team) : Bool :=
  let k := s.core c
  !(k.groups.any fun (_, g) => g.team == n) && !(k.eq.any fun (_, q) => q.team == n) && !(k.eqWait.any fun q => q.team == n) &&
    match t.kind with
    | .grid | .traversal => decide (t.groups ≤ t.retired)
    | .stage => k.leaving && k.clicker.isEmpty

/-- What a core frees when a team leaves it (R187, R74, R280). -/
def dropTeam (s : State) (c n : Nat) (t : Team) : State :=
  let s := s.modCore c fun k =>
    let teams := k.teams.drop n
    let before := k.lent
    Core.relend (before := before) { k with
      teams
      bandsUsed := k.bandsUsed.filter fun b => t.bands.all fun p => p.2 ≠ b
      arrayW := if k.arrayW = some n then none else k.arrayW
      collCount := k.collCount.filter fun x => x.1 ≠ n
      records := if teams.any (fun (_, y) => y.ctx = t.ctx) then k.records
        else k.records.map fun (i, r) => (i, if r.owner = some t.ctx then { r with owner := none } else r) }
  let s := (s.modCore c fun k => k.grantScan).retryLoads c
  let s := if (s.core c).clicker.any (·.formed) then s.postOnce (.formedGroupLaunch c) else s
  if (s.core c).eq.any fun (_, q) => engineOf q.major == 2 && q.state == .queued then s.postOnce (.engineTakeCommand c 2) else s

/-- A team retires; its block follows with its last team, and a core that left its stage goes on to the next. -/
def retireTeam (s : State) (c n : Nat) (t : Team) : State :=
  let d := s.dieOf c
  let s := s.dropTeam c n t
  let me := (s.logical c, n)
  let s := s.modDie d fun x => { x with
    noVictim := []
    placed := x.placed.map fun p => { p with teams := p.teams.filter (· ≠ me) } }
  let s := match t.kind with
    | .stage =>
      let next := (s.core c).nextStage
      let s := s.modCore c fun k => { k with stage := none, leaving := false, nextStage := none }
      match next with
      | some st => s.joinStage c st
      | none => s
    | .grid | .traversal => s
  let s := match (s.die d).placed.find? fun p => p.launch == t.launch && p.block == t.block with
    | some p =>
      let stays := t.kind = TeamKind.stage ∧ (s.die d).stages.any fun (_, y) => y.launch == t.launch && !y.retiring
      if p.teams.isEmpty ∧ ¬ stays then
        (s.modDie d fun x => { x with stages := x.stages.filter fun y => y.2.launch ≠ t.launch }).retireBlock d p
      else s
    | none => s
  s.postOnce (.placementOpportunity d)

/-- Retire every team of a core that can. -/
def retireTeams (s : State) (c : Nat) : State :=
  (s.core c).teams.foldl (fun (s : State) p => if s.teamDone c p.1 p.2 then s.retireTeam c p.1 p.2 else s) s

/-! ### Groups (R177, R235) -/

/-- A group that ends is withdrawn from every object of its team's barrier array (R177). -/
def withdrawBarriers (s : State) (c : Nat) (g : Group) : State :=
  let t := s.team c g.team
  (List.range t.barriers).foldl (fun (s : State) j =>
    let a := t.base + 8 * j
    let w := (s.core c).store64 a
    let gen := qf w 63 48
    let e := (qf w 15 0 + 65535) % 65536
    let n := if g.arrival (barrierId false (8 * j)) = some gen then (qf w 31 16 + 65535) % 65536 else qf w 31 16
    let w := qset (qset w 15 0 e) 31 16 n
    let w := if 0 < e ∧ e ≤ n then qset (qset w 31 16 0) 63 48 ((gen + 1) % 65536) else w
    s.modCore c fun k => k.putStore64 a w) s

/-- The loads of an ending group have landed, its ring releases are done, and its end release has completed (R140, R235). -/
def groupSettled (s : State) (c : Nat) (g : Group) : Bool :=
  let k := s.core c
  !(k.memops.any fun (_, o) => o.uid == g.uid) && !(k.releases.any fun r => r.uid == g.uid)
    && s.marksDone c g.uid 0xffffffff .sys k.nextSb k.nextOp s.nextRstore

/-- A group gives up its pins and chunks (R69, R171). -/
def freeHoldings (s : State) (c gid : Nat) (g : Group) : State :=
  let s := (s.modGroup c gid fun g => { g with pins := [] }).modCore c Core.recount
  let s := s.modCore c fun k => [1, 2, 3].foldl (fun (k : Core) r => k.releaseChunk gid r) k
  s.modCore c fun k => { k with acquireQ := k.acquireQ.filter fun q => q.1 ≠ gid }

/-- A group retires (R187, R189, R235): one that ended by EXIT gives up its pins, chunks and barrier arrivals now, and one ended by
TERMG has done so (R353); its store-fault records leave the queue. -/
def retireGroup (s : State) (c gid : Nat) (g : Group) : State :=
  let t := s.team c g.team
  let s := if (s.core c).killed.contains g.uid then s else (s.freeHoldings c gid g).withdrawBarriers c g
  let s := s.modCore c fun k => ({ k with
    groups := k.groups.drop gid
    sfq := k.sfq.filter fun r => r.uid ≠ g.uid
    sfqWait := k.sfqWait.filter fun r => r.uid ≠ g.uid } : Core).recount
  let s := s.admitFaults c
  let s := s.modTeam c g.team fun t => { t with retired := t.retired + 1 }
  let s := (s.settleGroup (s.dieOf c) t.queue (s.cc - g.startCc)).retryLoads c
  let s := if t.kind = .stage then s.postOnce (.formedGroupLaunch c) else s
  s.postOnce (.placementOpportunity (s.dieOf c))

end State

/-- GROUP_END (R235, R187): an ended group that has settled retires; then every team, block and launch that can. -/
def execGroupEnd (c gid : Nat) (s : State) : Host.Outcome State Fault Refusal :=
  let rest := fun (s : State) => (s.retireTeams c).completeLaunches (.groupEnd c gid)
  match s.group? c gid with
  | none => .next (rest s)
  | some g =>
    if ¬ g.ending then .next (rest s)
    else if s.groupSettled c g then .next (rest (s.retireGroup c gid g))
    else .next (s.post (.groupEnd c gid))

/-! ### TERMG (R353) -/

namespace State

/-- The outstanding accesses of a group are forgotten, with their operand log entries and the waiters of the fault table. -/
def dropOps (s : State) (c uid : Nat) : State :=
  let k := s.core c
  let gone := (k.memops.filter fun (_, o) => o.uid == uid).map (·.1)
  let mine := fun (w : Waiter) => match w with
    | .ev (.translationRequest c' op _) => c' == c && gone.contains op
    | _ => false
  let s := s.setCore c { k with
    memops := k.memops.filter fun (i, _) => !gone.contains i
    opLog := k.opLog.filter fun (_, l) => !gone.contains l.op
    logStall := k.logStall.filter fun x => !gone.contains x.1 }
  let s := s.admitLog c
  let d := s.dieOf c
  let met := (s.die d).faults.filter fun (_, f) => f.waiters.any mine
  met.foldl (fun (s : State) p =>
    let f := { p.2 with waiters := p.2.waiters.filter fun w => !mine w }
    let s := s.modDie d fun x => { x with faults := x.faults.put p.1 f }
    if f.state ≠ .outstanding ∧ f.waiters.isEmpty then s.freeFault d p.1 else s) s

/-- The ray of a traversal thread goes home as a hit of status 3 (R353). -/
def dropRay (s : State) (c gid : Nat) (h : HeldRay) : State :=
  let ray := ((List.range 24).map fun i => (s.core c).getS gid (h.base + i)).set 8 h.home
  let home := s.homeCore h.home
  let s := s.modGroup c gid fun g => { g with ray := none }
  let s := match h.slot with
    | some j => s.releaseSlot c j (s.slotTid c h)
    | none => s
  s.send c home 3 1 (.hitArrival home (lostHit ray 3))

/-- End a group at once (R353); one already ended is left alone. -/
def killGroup (s : State) (c gid : Nat) : State :=
  match s.group? c gid with
  | none => s
  | some g =>
    if g.ending ∨ gid = supGid then s
    else
      let s := (s.dropOps c g.uid).modCore c fun k => ({ k with
        killed := g.uid :: k.killed
        sbuf := k.sbuf.filter fun (_, e) => !(e.uid == g.uid && e.ticket.isSome)
        sfq := k.sfq.filter fun r => r.uid ≠ g.uid
        sfqWait := k.sfqWait.filter fun r => r.uid ≠ g.uid
        acquireQ := k.acquireQ.filter fun q => q.1 ≠ gid
        ringWaits := k.ringWaits.filter fun w => w.gid ≠ gid } : Core).wake fun (w : Wait) => match w with
          | .ring _ _ => true
          | _ => false
      let s := (s.syncSfq c).admitFaults c
      let s := { s with fences := s.fences.filter fun f => ¬ (f.2.core = c ∧ f.2.uid = g.uid ∧ f.2.resume.isNone) }
      let s := match g.ray with
        | some h => s.dropRay c gid h
        | none => s
      let s := s.modGroup c gid fun g => { g with
        threads := g.threads.map fun t => { t with live := false, held := false, victim := false, wait := none, depth := 0 }
        m0 := 0, pending := [], locks := [], issued := [], escalated := false, ending := true
        trap := { g.trap with inHandler := false } }
      (((s.freeHoldings c gid g).withdrawBarriers c g).retryLoads c).postOnce (.groupEnd c gid)

/-- The group that an operand of TERMG names for the issuing thread: none when the value names nothing (R353). -/
def termTarget (s : State) (x : Ctx) (a : Nat) : Option (Option Nat) :=
  if x.gid = supGid then (if a < 576 then some (some a) else none)
  else if a = 0xffffffff then some (some x.gid)
  else if a < (s.team x.core x.g.team).groups then
    some (((s.core x.core).groups.find? fun (_, g) => g.team == x.g.team && g.index == a).map (·.1))
  else none

end State

/-- `TERMG` (R353). -/
def execTermg (a : SReg) (s : State) : Host.Outcome State Fault Refusal :=
  run (.termg a) (fun x s =>
    let v := ((s.core x.core).getS x.gid a.toNat).toNat
    match s.termTarget x v with
    | none => prot 3 v
    | some none => .done s
    | some (some gid) => if gid = x.gid then .moved (s.killGroup x.core gid) else .done (s.killGroup x.core gid)) s

end Sys2Proof.Machine
end

