-- ==== Sys2Proof/Machine/Stages.lean ====
section
/-! DEFINITION. Stages: SPAWN and the stage queues (R198, R328), the clicker (R169, R200, R201), the governor (R199) and the end of a
stage (R197). -/

namespace Sys2Proof.Machine

namespace State

/-! ### Stage registers (R197, R204) -/

def stageValid (s : State) (d st : Nat) : Bool := s.field (stageOff d st 0) 63 63 == 1
def stage? (s : State) (d st : Nat) : Option Stage := (s.die d).stages.look st
def modStage (s : State) (d st : Nat) (f : Stage → Stage) : State := s.modDie d fun x => { x with stages := x.stages.upd st f }
/-- Partial-group wait; 0 acts as 1 (R204). -/
def clickWait (s : State) (d : Nat) : Nat := max 1 (s.field (dieOff d 0) 15 0)
/-- Slots of a stage's spill ring, and the virtual address of its slot i (R197). -/
def spillSlots (s : State) (d st : Nat) : Nat := s.field (stageOff d st 3) 31 0
def spillAddr (s : State) (d st i : Nat) : Nat := s.field (stageOff d st 2) 56 6 * 64 + 16 * (i % max 1 (s.spillSlots d st))
/-- Items on their way to a stage's queue. -/
def incoming (s : State) (d st : Nat) : Nat :=
  (s.agenda.filter fun i => match i with
    | .itemEnqueue d' st' item => d' == d && st' == st && !item.isEmpty
    | _ => false).length
/-- Items of a stage, queued, spilled or about to be (R197). -/
def stageItems (s : State) (d st : Nat) : Nat := ((s.stage? d st).map fun y => y.items.length + y.spilling.length + y.spillCount).getD 0
/-- Places left in a stage's queue and spill ring (R198). -/
def stageRoom (s : State) (d st : Nat) : Nat := 4096 + s.spillSlots d st - (s.stageItems d st + s.incoming d st)
/-- Cores that serve a stage (R197). -/
def stageCores (s : State) (d st : Nat) : List Nat := (s.dieCores d).filter fun c => (s.core c).stage == some st && !(s.core c).leaving

/-- The clickers of a stage look for work. -/
def clickAll (s : State) (d st : Nat) : State := (s.stageCores d st).foldl (fun (s : State) c => s.postOnce (.clickerTake c)) s

end State

/-! ### SPAWN (R328) -/

/-- An item to spawn: its stage operand and its four words. -/
abbrev Spawned := Word × List Word

/-- The check of one item (R328). -/
def spawnBad (s : State) (x : Ctx) (i : Spawned) : Bool :=
  let d := s.dieOf x.core
  let st := i.1.toNat
  decide (16 ≤ st) || !s.stageValid d st || !(s.stage? d st).any (fun y => y.ctx == x.g.ctx) || wf32 (i.2.getD 0 0) 15 14 != 0

/-- The items of a bundle, in ascending lane order; the bundle waits until all of them find room (R198, R328). -/
def spawn (items : List Spawned) (x : Ctx) (s : State) : Res :=
  let d := s.dieOf x.core
  match items.find? (spawnBad s x) with
  | some i => prot 3 i.1.toNat
  | none =>
    if (List.range 16).any fun st => decide (s.stageRoom d st < (items.filter fun i => i.1.toNat = st).length) then .wait s .spawn
    else .done (s.posts (items.map fun i =>
      let entry := ((s.stage? d i.1.toNat).map (·.entry)).getD 0
      .itemEnqueue d i.1.toNat (if i.2.getD 0 0 = 0 then i.2.set 0 entry else i.2)))

/-- `SPAWN`, lane form (R328). -/
def execSpawnLane (m : MReg) (a : VReg) (b : VLit) (s : State) : Host.Outcome State Fault Refusal :=
  run (.spawnLane m a b) (fun x s =>
    let k := s.asIssued x
    spawn ((lanesOf (x.active m)).map fun l =>
      (k.vlit x.g x.gid l b, (List.range 4).map fun i => k.getV x.g x.gid (a.toNat + i) l)) x s) s

/-- `SPAWN`, uniform form (R328). -/
def execSpawnUniform (a : SReg) (b : USrc) (s : State) : Host.Outcome State Fault Refusal :=
  run (.spawnUniform a b) (fun x s =>
    let k := s.asIssued x
    spawn [(k.usrc x.gid b, (List.range 4).map fun i => k.getS x.gid (a.toNat + i))] x s) s

/-! ### Stage queues (R198) -/

/-- The oldest item that waits for the spill ring is written there, or enters the queue when nothing is spilled any more (R198). -/
def State.spillItem (s : State) (d st : Nat) (y : Stage) : State :=
  let who : Instr := .itemEnqueue d st []
  match y.spilling with
  | [] => s
  | item :: rest =>
    if y.spillCount = 0 ∧ y.items.length < 4096 then
      ((s.modStage d st fun y => { y with items := y.items ++ [{ words := item, since := s.cc }], spilling := rest }).clickAll d st).postOnce who
    else if s.spillSlots d st ≤ y.spillCount then s
    else
      match s.engWrite (s.agentCore d) 6 y.ctx 0 who 0 true 0 (s.spillAddr d st (y.spillHead + y.spillCount))
          (item.flatMap fun (w : Word) => leBytes 4 w.toNat) with
      | .ok s _ => (s.modStage d st fun y => { y with spilling := rest, spillCount := y.spillCount + 1 }).postOnce who
      | .wait s => s
      | .poison s | .fault s _ _ | .window s => s.post who

/-- ITEM_ENQUEUE (R198): an item enters the die agent's queue, or goes to the spill ring behind 4,096 items and behind the items that
wait for it; the empty item moves items between the queue and the ring, oldest first. -/
def execItemEnqueue (d st : Nat) (item : Words) (s : State) : Host.Outcome State Fault Refusal :=
  match s.stage? d st with
  | none => .next s
  | some y =>
    let who : Instr := .itemEnqueue d st []
    if ¬ item.isEmpty then
      if y.spillCount = 0 ∧ y.spilling = [] ∧ y.items.length < 4096 then
        .next ((s.modStage d st fun y => { y with items := y.items ++ [{ words := item, since := s.cc }] }).clickAll d st)
      else .next ((s.modStage d st fun y => { y with spilling := y.spilling ++ [item] }).postOnce who)
    else if y.spillCount = 0 ∨ 4096 ≤ y.items.length then .next (s.spillItem d st y)
    else
      match s.engRead (s.agentCore d) 6 y.ctx who true 0 (s.spillAddr d st y.spillHead) 16 with
      | .ok s bs =>
        let s := s.modStage d st fun y => { y with
          items := y.items ++ [{ words := (List.range 4).map fun i => wordAt bs (4 * i), since := s.cc }]
          spillHead := y.spillHead + 1
          spillCount := y.spillCount - 1 }
        .next ((s.clickAll d st).postOnce who)
      | .wait s => .next s
      | .poison s | .fault s _ _ | .window s => .next (s.post who)

/-! ### The clicker (R200, R201) -/

/-- A copy of an entry's overlay is Resident on the core (R201). -/
def Core.entryResident (k : Core) (ctx : Nat) (pc : Word) : Bool := (k.resident? ctx (overlayOf pc)).isSome

/-- The forming slot that an entry joins: the youngest with room (R200). -/
def Core.formFor (k : Core) (ctx : Nat) (entry : Word) : Option FormSlot :=
  pickBest (fun a b => decide (b.id < a.id))
    (k.clicker.filter fun f => !f.formed && f.ctx == ctx && f.entry == entry && decide (f.lanes.length < 32))

namespace State

/-- A lane joins the slot of its entry, or a free slot; with neither, the oldest slot forms and nothing is taken (R200). The
answer says whether the lane was taken. A lane with a trap takes a slot of its own (R198). -/
def joinSlot (s : State) (c ctx : Nat) (entry : Word) (words : List Word) (trap : Option Trap) : State × Bool :=
  let k := s.core c
  match if trap.isSome then none else k.formFor ctx entry with
  | some f =>
    let lanes := f.lanes ++ [words]
    let s := s.setCore c { k with clicker := k.clicker.map fun g => if g.id = f.id then { g with lanes } else g }
    (if lanes.length = 32 then s.formSlot c f.id else s, true)
  | none =>
    if k.clicker.length < 32 then
      let f : FormSlot := { id := k.nextForm, ctx, entry, lanes := [words], trap, since := s.cc }
      let s := s.setCore c { k with clicker := k.clicker ++ [f], nextForm := k.nextForm + 1 }
      (if trap.isSome then s.formSlot c f.id else s, true)
    else
      match pickBest (fun (a b : FormSlot) => decide (a.id < b.id)) (k.clicker.filter fun f => !f.formed) with
      | some f => ((s.formSlot c f.id).postOnce (.clickerTake c), false)
      | none => (s, false)

/-- The item that a clicker takes, among the 64 oldest (R201): its position. -/
def pickItem (s : State) (c : Nat) (y : Stage) : Option Nat :=
  let k := s.core c
  let late := 4 * s.clickWait (s.dieOf c)
  let cls := fun (i : Item) =>
    let pc := i.words.headD 0
    if late < s.cc - i.since then 0
    else if k.entryResident y.ctx pc then 1
    else if (k.formFor y.ctx pc).isSome then 2
    else 3
  (pickBest (fun (a b : Item × Nat) => decide (cls a.1 < cls b.1)) ((y.items.take 64).zipIdx)).map (·.2)

end State

/-- CLICKER_TAKE (R201): the hit queue first, whose shade word is then read, and else an item of the stage queue. -/
def execClickerTake (c : Nat) (s : State) : Host.Outcome State Fault Refusal :=
  let k := s.core c
  let d := s.dieOf c
  match k.stage with
  | none => .next (match k.nextStage with
    | some st => s.joinStage c st
    | none => s)
  | some st =>
    match s.stage? d st with
    | none => .next s
    | some y =>
      if k.leaving ∨ (k.clicker.length = 32 ∧ k.clicker.all (·.formed)) then .next s
      else if ¬ k.hitQ.isEmpty then .next (s.postOnce (.shadeWordRead c))
      else
        match (s.pickItem c y).bind fun i => (y.items[i]?).map fun it => (i, it) with
        | none => .next s
        | some (i, it) =>
          match s.joinSlot c y.ctx (it.words.headD 0) (it.words.drop 1) none with
          | (s, false) => .next s
          | (s, true) =>
            let s := s.modStage d st fun y => { y with items := y.items.eraseIdx i }
            let s := (s.dieCores d).foldl (fun (s : State) c => s.modCore c fun k => k.wake fun (w : Wait) => w == .spawn) s
            .next ((if y.spillCount + y.spilling.length = 0 then s else s.postOnce (.itemEnqueue d st [])).postOnce (.clickerTake c))

/-- SHADE_WORD_READ (R198): the word of the shade table for the hit at the head, and the hit's entry into a slot. A word that cannot
be read puts the hit into a group of its own at the default entry, with the trap. -/
def execShadeWordRead (c : Nat) (s : State) : Host.Outcome State Fault Refusal :=
  let k := s.core c
  let d := s.dieOf c
  match k.stage.bind fun st => (s.stage? d st).map fun y => (st, y), k.hitQ with
  | some (st, y), hit :: _ =>
    if k.leaving then .next s
    else
      let va := s.field (State.stageOff d st 1) 56 3 * 8 + 4 * (wf32 (hit.getD 4 0) 7 0)
      let take := fun (s : State) (entry : Word) (trap : Option Trap) =>
        match s.joinSlot c y.ctx entry hit trap with
        | (s, false) => s
        | (s, true) =>
          let s := (s.modCore c Core.popHit).freeHome c (wf32 (hit.getD 0 0) 9 0)
          (if (s.core c).hitSpill.entries.isEmpty then s else s.postOnce (.spillRefill c true)).postOnce (.clickerTake c)
      let lost := fun (s : State) (cause info : Nat) => take s y.entry (some { mkTrap cause info va with pc := y.entry, lanes := 1 })
      .next (match s.engRead c 0 y.ctx (.shadeWordRead c) true 0 va 4 with
        | .ok s bs => take s (w32 (leNat bs)) none
        | .wait s => s
        | .poison s => lost s 0x0b 0
        | .fault s 0x0b _ => lost s 0x0b 0
        | .fault s _ resp => lost s 3 resp
        | .window s => lost s 3 0)
  | _, _ => .next s

/-- CLICK_WAIT_EXPIRY (R200): a slot forms once click_wait cc have passed since its first item. -/
def execClickWaitExpiry (c slot : Nat) (s : State) : Host.Outcome State Fault Refusal :=
  match (s.core c).clicker.find? fun f => f.id == slot with
  | none => .next s
  | some f => .next (if s.cc < f.since + s.clickWait (s.dieOf c) then s else s.formSlot c slot)

/-- Order of formed groups (R201). -/
def FormSlot.class (k : Core) (f : FormSlot) : Nat :=
  2 * bit (decide (f.lanes.length < 32)) + bit (!k.entryResident f.ctx f.entry)

/-- FORMED_GROUP_LAUNCH (R169, R174, R196, R200, R329): the first formed group starts in the stage team, on the lowest free base set
and the lowest free group index. -/
def execFormedGroupLaunch (c : Nat) (s : State) : Host.Outcome State Fault Refusal :=
  let k := s.core c
  let best := pickBest (fun (a b : FormSlot) => decide (a.class k < b.class k) || (a.class k == b.class k && decide (a.id < b.id)))
    (k.clicker.filter (·.formed))
  match best, k.teams.find? (fun (_, t) => t.kind == .stage), k.freeSets with
  | some f, some (n, t), gid :: _ =>
    let mine := (k.groups.filter fun (_, g) => g.team == n).map fun (_, g) => g.index
    match firstFree t.groups mine.contains with
    | none => .next s
    | some idx =>
      let count := f.lanes.length
      let lanes : Word := maskOf (List.range count)
      let s := s.setCore c { k with clicker := k.clicker.filter fun g => g.id ≠ f.id }
      let s := (List.range t.barriers).foldl (fun (s : State) j => s.modCore c fun k =>
        let a := t.base + 8 * j
        k.putStore64 a (qset (k.store64 a) 15 0 (qf (k.store64 a) 15 0 + 1))) s
      let s := s.startGroup c n gid t idx 1 lanes f.entry (w32 t.stage) (w32 count) f.lanes
      let s := s.chargeGroups (s.dieOf c) t.queue 1
      let s := match f.trap with
        | some x => s.pendTrap c gid (s.group c gid).uid f.ctx x
        | none => s
      let s := s.postOnce (.clickerTake c)
      .next (if (s.core c).clicker.any (·.formed) then s.postOnce (.formedGroupLaunch c) else s)
  | _, _, _ => .next s

/-! ### The governor (R199) -/

namespace State

/-- A core may be a donor (R199 item 3). -/
def canGive (s : State) (d c : Nat) : Bool :=
  let k := s.core c
  k.hitQ.isEmpty && k.hitSpill.entries.isEmpty && k.homeUsed.isEmpty && k.lastMove.all (fun m => decide (m + 16 ≤ (s.die d).period))
    && k.nextStage.isNone && !k.leaving

/-- The core that a stage is given: one serving no stage, else one of a quiet stage (R199 item 2). -/
def donor (s : State) (d st : Nat) : Option Nat :=
  let cs := (s.dieCores d).filter (s.canGive d)
  match cs.find? fun c => (s.core c).stage.isNone with
  | some c => some c
  | none =>
    let quiet := (List.range 16).filter fun e => e ≠ st && s.stageValid d e
      && decide (s.stageItems d e < s.field (stageOff d e 0) 31 16)
      && decide (s.field (stageOff d e 0) 62 58 < (s.stageCores d e).length) && cs.any fun c => (s.core c).stage == some e
    match pickBest (fun a b => decide (s.stageItems d a < s.stageItems d b)) quiet with
    | none => none
    | some e =>
      let busy := fun (c : Nat) => ((s.core c).groups.filter fun g => decide (g.1 < 512)).length
      pickBest (fun a b => decide (busy a < busy b) || (busy a == busy b && decide (b < a)))
        (cs.filter fun c => (s.core c).stage == some e)

end State

/-- STAGE_GOVERNOR_PERIOD (R198, R199). -/
def execStageGovernorPeriod (d : Nat) (s : State) : Host.Outcome State Fault Refusal :=
  let s := s.modDie d fun x => { x with period := x.period + 1 }
  let joins := (s.dieCores d).filter fun c =>
    let k := s.core c
    k.stage.isNone && k.nextStage.isNone && (!k.hitQ.isEmpty || !k.hitSpill.entries.isEmpty)
  let s := joins.foldl (fun (s : State) c => s.joinStage c (s.hitStage d)) s
  let live := (List.range 16).filter fun st => s.stageValid d st
  let high := fun (st : Nat) => decide (s.field (State.stageOff d st 0) 47 32 < s.stageItems d st)
  let asks := live.filter fun st =>
    high st && (s.stage? d st).any (·.lastOver) &&
      decide ((s.stageCores d st).length < max (s.field (State.stageOff d st 0) 57 53) (s.field (State.stageOff d st 0) 62 58))
  let s' := live.foldl (fun (s : State) st => s.modStage d st fun y => { y with lastOver := high st }) s
  match pickBest (fun a b => decide (s.stageItems d b < s.stageItems d a)) asks with
  | none => .next s'
  | some st =>
    match s.donor d st with
    | none => .next s'
    | some c =>
      let s := s'.modCore c fun k => { k with lastMove := some (s'.die d).period }
      .next (if (s.core c).stage.isNone then s.joinStage c st else s.leaveStage c (some st))

/-! ### The end of a stage (R197) -/

/-- STAGE_RETIRE (R197): a write of valid = 0, ignored while the stage has items or forming groups, or while it is the hit stage and
a core of the die holds a hit or a home slot. -/
def State.retireStage (s : State) (d st : Nat) : State :=
  let cs := s.dieCores d
  let forming := cs.any fun c => (s.core c).stage == some st && !(s.core c).clicker.isEmpty
  let hits := s.hitStage d = st ∧ cs.any fun c =>
    !(s.core c).hitQ.isEmpty || !(s.core c).hitSpill.entries.isEmpty || !(s.core c).homeUsed.isEmpty
  if ¬ s.stageValid d st ∨ 0 < s.stageItems d st + s.incoming d st ∨ forming ∨ hits then s
  else
    let s := (s.setField (State.stageOff d st 0) 63 63 0).modStage d st fun y => { y with retiring := true }
    let s := cs.foldl (fun (s : State) c =>
      if (s.core c).stage = some st then s.leaveStage c none
      else if (s.core c).nextStage = some st then s.modCore c fun k => { k with nextStage := none } else s) s
    match s.stage? d st with
    | none => s
    | some y =>
      -- a stage without a team retires at once, one still listed at the die too
      let gone := (s.die d).placed.find? fun (p : PlacedBlock) => p.launch == y.launch && p.teams.isEmpty
      let listed := (s.blocksAt d y.queue).any fun r => r.launch == y.launch
      let drop := fun (s : State) => s.modDie d fun x => { x with stages := x.stages.drop st }
      ((match gone with
        | some p => (drop s).retireBlock d p
        | none =>
          if listed then
            let s := s.modDie d fun x => { x with
              lists := x.lists.upd y.queue fun l => l.filter fun r => r.launch ≠ y.launch
              placed := x.placed ++ [({ queue := y.queue, launch := y.launch, block := 0, teams := [], order := x.placeOrder } : PlacedBlock)]
              placeOrder := x.placeOrder + 1 }
            match (s.die d).placed.find? fun (p : PlacedBlock) => p.launch == y.launch with
            | some p => ((drop s).retireBlock d p).postOnce (.blockDistribution y.queue)
            | none => s
          else s).postOnce (.groupEnd (s.agentCore d) 0))

/-- The event of `State.retireStage`. -/
def execStageRetire (d st : Nat) (s : State) : Host.Outcome State Fault Refusal := .next (s.retireStage d st)

end Sys2Proof.Machine
end

