-- ==== Sys2Proof/Machine/Save.lean ====
section
/-! DEFINITION. Saving and restoring the teams of a block (R291, R313, R332, R335, R355 to R360). -/

namespace Sys2Proof.Machine

/-! ### Image space (R355 to R357) -/

/-- The groups of a team on its core, by base set. -/
def Core.groupsOf (k : Core) (n : Nat) : List (Nat × Group) := k.groups.filter fun (_, g) => g.team == n

/-- Pages that a team's image may need: its fixed sections, three chunks a group, and full entry sections (R357). -/
def imagePages (t : Team) : Nat :=
  (512 + t.groups * 4096 + 3 * t.groups * 2048 + (t.size + 511) / 512 * 512 + 32 * (t.groups * t.window) + 8 * 16384 + 64 * 96
    + 64 * 48 + (2 * t.groups + 256) * 64 + 4095) / 4096

namespace State

/-- Base, and pages, of a context's save area (R355). -/
def saveBase (s : State) (ctx : Nat) : Nat := qf (s.ctxQ ctx 2) 56 12 * 4096
def savePages (s : State) (ctx : Nat) : Nat := qf (s.ctxQ ctx 3) 31 0

/-- The parts of a context's save area in use, as ranges of its pages. -/
def savedRanges (s : State) (ctx : Nat) : List (Nat × Nat) :=
  s.dies.flatMap fun (_, x) =>
    let kept := x.lists.flatMap fun (_, l) => l.flatMap fun r => (r.saved.filter fun i => i.team.ctx == ctx).map fun i =>
      (i.page, i.page + i.pages.length)
    let open_ := match x.saving with
      | some j => if ((s.launch? j.launch).map (·.ctx)) = some ctx then j.ranges.map fun r => (r.2.2.1, r.2.2.1 + r.2.2.2) else []
      | none => []
    kept ++ open_

/-- Allot image space for the teams of a block: none when the save area has too little room (R356). -/
def allotImages (s : State) (ctx : Nat) (p : PlacedBlock) : Option (List (Nat × Nat × Nat × Nat)) :=
  p.teams.foldl (fun (a : Option (List (Nat × Nat × Nat × Nat))) q =>
    match a, s.physical q.1 with
    | some l, some c =>
      let pages := imagePages (s.team c q.2)
      let used := s.savedRanges ctx ++ l.map fun r => (r.2.2.1, r.2.2.1 + r.2.2.2)
      (gapIn (sortBy (fun a b => decide (a.1 < b.1)) used) 0 pages (s.savePages ctx)).map fun at_ => l ++ [(c, q.2, at_, pages)]
    | _, _ => none) (some [])

/-- Translate n pages from va for writing; only memory pages serve. -/
def xlateSave (s : State) (c ctx va : Nat) (who : Instr) : Nat → Pages
  | 0 => .ok [] s
  | n + 1 =>
    match s.xlateSave c ctx va who n with
    | .ok l s =>
      match s.xlate c 6 ctx (va + 4096 * n) true false (.ev who) with
      | .ok ap off s => if codeAp ap && s.readable ap off then .ok (l ++ [(ap, off)]) s else .fail 0 (va + 4096 * n) s
      | .fail code s => .fail code (va + 4096 * n) s
      | .wait s => .wait s
    | r => r

/-- The pages of every team of a save. -/
def xlateRanges (s : State) (d ctx : Nat) (who : Instr) : List (Nat × Nat × Nat × Nat) → Option (State × List (List (Ap × Nat))) × State
  | [] => (some (s, []), s)
  | r :: t =>
    match s.xlateSave (s.agentCore d) ctx (s.saveBase ctx + 4096 * r.2.2.1) who r.2.2.2 with
    | .ok l s =>
      match xlateRanges s d ctx who t with
      | (some (s', ls), _) => (some (s', l :: ls), s')
      | r => r
    | .fail _ _ s => (none, s)
    | .wait s => (some (s, []), s)

/-! ### Stopping (R356) -/

/-- A command stops at its step boundary: its progress word says resume, and it keeps its slot (R291, R313, R335). -/
def checkpoint (s : State) (c n : Nat) (word hi : Nat) : State :=
  match s.cmd? c n with
  | none => s
  | some q =>
    let a := (s.cmdSpan c q).1 + q.desc + 56
    let s := s.modCmd c n fun q => { q with state := .queued, cond := 0, acquired := true, parties := [], up := none, asked := false, inner := 0, carry := [], record := [] }
    s.modCore c fun k => if q.major ≤ 0x62 then k.writeStore a (leBytes 4 word ++ leBytes 4 (2 ^ 31 + hi))
      else k.writeStore a (leBytes 4 (2 ^ 31 + word))

/-- A collective command that has not committed is withdrawn and stays queued unchanged (R332). -/
def withdrawColl (s : State) (c n : Nat) (q : Cmd) : State :=
  let (coord, tag, _, _, _) := s.collIdent c q
  let s := s.modCmd c n fun q => { q with state := .queued, acquired := q.acquired }
  let leave := fun (i : CollInst) =>
    if i.coord = coord ∧ i.tag = tag ∧ i.inst = q.inst then { i with members := i.members.filter fun m => ¬ (m.1 = c ∧ m.2.1 = n) } else i
  { s with colls := s.colls.map leave }

/-- Stop one active command of a team being saved, if it stands at a boundary where its rule lets it stop. -/
def stopCmd (s : State) (c n : Nat) (q : Cmd) : State :=
  if q.state ≠ .active then s
  else if q.major = 0x60 then s.checkpoint c n q.progress 0
  else if q.major = 0x61 then (if q.inner = 0 then s.checkpoint c n q.progress 0 else s)
  else if q.major = 0x62 then (if q.asked ∨ ¬ q.data.isEmpty then s else s.checkpoint c n q.inner (q.recIndex % 65536))
  else if q.major = 0x68 then
    -- every party of a multicast stops at the same row
    let root := s.feeder 16 c n
    let all := root :: s.fedBy 16 root.1 root.2
    all.dedup.foldl (fun (s : State) p =>
      match s.cmd? p.1 p.2 with
      | some y => if y.state = .active then (s.checkpoint p.1 p.2 (y.progress % 128) 0).postOnce (.engineTakeCommand p.1 2) else s
      | none => s) s
  else if q.major = 0x65 ∨ q.major = 0x66 then s.checkpoint c n (q.progress % 2 ^ 31) 0
  else if q.major = 0x79 then (if q.asked then s else s.withdrawColl c n q)
  else s

end State

/-- A lane of an access stands in the operand log. -/
def Core.logged (k : Core) (n lane : Nat) : Bool := k.opLog.any fun (_, l) => l.op == n && l.lanes.getLsbD lane

/-- The lanes of an instruction whose accesses stand behind others and have not been made (R136, R301). -/
def Core.heldLanes (k : Core) (n : Nat) (o : MemOp) : List Nat :=
  (o.lanes.filter fun a => !a.taken && !a.translated && !k.logged n a.lane && k.heldBack n o a &&
    ((o.together a.lane).head?.any fun l => l == a.lane)).map (·.lane)

namespace State

/-- Every lane of an access has its value, stands in the operand log, or is held behind others (R356). -/
def opRests (k : Core) (n : Nat) (o : MemOp) : Bool :=
  let held := (k.heldLanes n o).flatMap o.together
  (match o.kind with
    | .pref _ => true
    | .load _ _ | .atom _ _ _ _ | .qapp _ _ => false) ||
  o.lanes.all fun a => a.done || a.trap.isSome || k.logged n a.lane || held.contains a.lane

/-- A team has come to rest: its stores are accepted, its loads complete or logged, its commands queued (R149, R356). -/
def teamRests (s : State) (c n : Nat) : Bool :=
  let k := s.core c
  let gs := k.groupsOf n
  let mine := fun (uid : Nat) => gs.any fun p => p.2.uid == uid
  gs.all (fun p => !p.2.ending) && !(k.sbuf.any fun (_, e) => mine e.uid && e.ticket.isNone) && !(k.releases.any fun r => mine r.uid)
    && k.memops.all (fun (i, o) => !mine o.uid || opRests k i o) && k.eq.all fun (_, q) => q.team ≠ n || q.state == .queued

end State

/-! ### The image (R357, R358) -/

namespace State

/-- Bytes that the spec gives no value. -/
def freeBytes (s : State) (n : Nat) : State × List Byte :=
  (s.spendFree ((n + 3) / 4), ((s.freeWords ((n + 3) / 4)).flatMap fun w => leBytes 4 w.toNat).take n)

/-- Words as bytes. -/
def bytesOf (ws : List Word) : List Byte := ws.flatMap fun w => leBytes 4 w.toNat

/-- Pad or cut to a length. -/
def fit (n : Nat) (bs : List Byte) : List Byte := (bs ++ List.replicate (n - bs.length) 0).take n

/-- A number by which an image names what a thread waits for (R358). -/
def waitKind : Option Wait → Nat
  | none => 0
  | some w => match w with
    | .barrier _ => 1 | .blockBarrier _ => 2 | .counter _ => 3 | .xacq => 4 | .ovwait _ => 5 | .ring _ _ => 6 | .park _ _ => 7
    | .failed _ => 8 | .raysend => 9 | .spawn => 10 | .rayrecv => 11 | .halt => 12 | .ctlsend => 13 | .ctlrecv => 14 | .drain => 15
    | .xlate => 16 | .order _ => 17 | .engine => 18 | .yield _ _ => 19

/-- Numbers as bytes, each in a number of bytes. -/
def leFields (l : List (Nat × Nat)) : List Byte := l.flatMap fun f => leBytes f.1 f.2

/-- A thread entry of a group record (R358). -/
def threadRecord (t : Thread) : List Byte :=
  leBytes 4 t.pc.toNat ++ bytesOf (t.link.take 4) ++
    leFields [(4, t.depth % 1024 + bit t.live * 2 ^ 10 + bit t.victim * 2 ^ 11 + bit t.held * 2 ^ 12), (8, waitKind t.wait)]

/-- A group record (R358). Of bytes 3,732 to 3,835 the spec says only that they hold the chunk holdings and the pending traps. -/
def groupRecord (k : Core) (gid : Nat) (g : Group) : List Byte :=
  let pins := fit 16 (g.pins.flatMap fun p => leFields [(2, p.1), (2, p.2)])
  let arrivals := fit 256 (g.arrivals.flatMap fun p => leFields [(8, p.1), (8, p.2)])
  let r := g.trap
  let status : Word := w32 (bit r.inHandler * 2 ^ 31 + bit (!g.pending.isEmpty) * 2 ^ 30)
  let holds := leFields [(4, (maskOf ((g.chunks.zipIdx.filter fun c => c.1.isSome).map (·.2))).toNat + 8 * g.pending.length)]
  let traps := (g.pending.take 4).flatMap fun t =>
    leFields [(1, t.cause), (3, t.desc.toNat), (4, t.info.toNat), (4, t.addrL.toNat), (4, t.addrH.toNat), (4, t.lanes.toNat), (4, t.pc.toNat)]
  bytesOf (k.rf.read (17 * gid * 32) (17 * 32)) ++ g.threads.flatMap threadRecord ++ bytesOf g.masks
    ++ (g.awl.flatMap fun b => leBytes 8 b.toNat) ++ pins ++ arrivals ++ bytesOf g.gens
    ++ bytesOf ([g.tid, g.block, g.arith, g.seed] ++ g.emul
      ++ [r.tvec, status, r.tcause, r.tpc, r.tinfo, r.taddrl, r.taddrh, r.tlanes, r.ttag, r.tdesc])
    ++ fit 104 (holds ++ traps) ++ List.replicate 260 0

/-- What a group record says of its group (R358, R359). -/
def readRecord (b : List Byte) (g : Group) : Group :=
  let w := fun (i : Nat) => w32 (leNat ((b.drop i).take 4))
  let n := fun (i k : Nat) => leNat ((b.drop i).take k)
  let thread := fun (p : Thread × Nat) =>
    let o := 2176 + 32 * p.2
    { p.1 with
      pc := w o
      link := (List.range 4).map fun j => w (o + 4 + 4 * j)
      depth := bits (n (o + 20) 4) 9 0
      live := (n (o + 20) 4).testBit 10
      victim := (n (o + 20) 4).testBit 11
      held := (n (o + 20) 4).testBit 12 }
  { g with
    threads := g.threads.zipIdx.map thread
    masks := (List.range 7).map fun j => w (3200 + 4 * j)
    awl := (List.range 4).map fun j => BitVec.ofNat 64 (n (3228 + 8 * j) 8)
    pins := ((List.range 4).map fun j => (n (3260 + 4 * j) 2, n (3262 + 4 * j) 2)).filter fun p => p.2 ≠ 0
    arrivals := (List.range g.arrivals.length).map fun j => (n (3276 + 16 * j) 8, n (3284 + 16 * j) 8)
    gens := (List.range g.gens.length).map fun j => w (3532 + 4 * j)
    tid := w 3660, block := w 3664, arith := w 3668, seed := w 3672
    emul := (List.range 4).map fun j => w (3676 + 4 * j)
    trap := { tvec := w 3692, inHandler := (w 3696).getLsbD 31, tcause := w 3700, tpc := w 3704, tinfo := w 3708, taddrl := w 3712,
              taddrh := w 3716, tlanes := w 3720, ttag := w 3724, tdesc := w 3728 } }

/-- The fields of an image's header, from byte 0 (R357); the rest of its 512 bytes the spec gives no content. -/
def imageHeader (s : State) (c n : Nat) (t : Team) (gs : List (Nat × Group)) (logs faults cmds : Nat) : List Byte :=
  let k := s.core c
  let w := t.wrec.getD { src := 0, addr := 0, scales := 0, km1 := 0, colsm1 := 0 }
  let o := (k.ovstat.look t.ctx).getD (0, 0)
  leFields [(2, 0x51c7), (1, 1), (1, 0), (1, t.ctx), (1, t.queue), (1, t.index), (1, (maskOf (t.bands.map (·.1))).toNat), (4, t.block), (2, t.groups),
    (2, n), (8, t.decl.toNat), (8, w.addr), (8, w.scales), (2, w.km1), (2, w.colsm1), (2, w.src), (2, bit t.wrec.isSome),
    (4, ((s.hintDrops.look t.ctx).getD 0).toNat), (2, o.2), (2, o.1), (4, (gs.map fun p => p.2.heldChunks.length).sum),
    (4, t.size), (4, t.bands.length), (4, logs), (4, faults), (4, cmds)]

/-- A command slot of an image (R357): state, flags and unmet condition, behind what the command was issued with. -/
def slotFields (g : Nat) (q : Cmd) : List Byte :=
  let st := match q.state with
    | .queued => 0
    | .active => 1
    | .committed => 2
  leFields [(1, q.major), (1, q.code), (1, st), (1, bit q.acq + 2 * bit q.rel + 4 * bit q.priv + 8 * bit q.acquired), (1, q.scope.code.toNat),
    (1, q.cond), (2, g), (4, q.desc), (4, q.ctr), (4, q.lanes.toNat), (4, q.pc.toNat)]

/-- Registers of a chunk as bytes. -/
def chunkBytes (k : Core) (i : Nat) : List Byte := bytesOf (k.rf.read ((8704 + 16 * i) * 32) 512)

/-- The bytes of a team's image (R357). -/
def teamImage (s : State) (c n : Nat) (t : Team) : State × List Byte :=
  let k := s.core c
  let gs := k.groupsOf n
  let sorted := (List.range t.groups).filterMap fun i => gs.find? fun p => p.2.index == i
  let records := (List.range t.groups).flatMap fun i =>
    match gs.find? fun p => p.2.index == i with
    | some (gid, g) => groupRecord k gid g
    | none => List.replicate 4096 0
  let chunks := sorted.flatMap fun p => p.2.heldChunks.flatMap (chunkBytes k)
  let store := fit ((t.size + 511) / 512 * 512) (k.readStore t.base t.size)
  let banks := (List.range 32).flatMap fun b => k.readBank b t.bankBase (t.groups * t.window)
  let bands := t.bands.flatMap fun p => bytesOf (k.acc.read (p.2 * 4096) 4096)
  let mine := fun (uid : Nat) => gs.any fun p => p.2.uid == uid
  let logs := k.opLog.flatMap fun (_, l) => match k.memops.look l.op with
    | some o => if mine o.uid then logImage o l else []
    | none => []
  let faults := (k.sfq.filter fun r => mine r.uid).flatMap (·.bytes)
  let cmds := (k.eq.filter fun (_, q) => q.team == n).map (·.2)
  let head := s.imageHeader c n t gs (logs.length / 96) (faults.length / 48) cmds.length
  let (s, free) := s.freeBytes (512 - head.length)
  let (s, slots) := cmds.foldl (fun (a : State × List Byte) q =>
    let f := slotFields (((gs.find? fun p => p.2.uid == q.uid).map (·.2.index)).getD 0) q
    let (s, rest) := a.1.freeBytes (64 - f.length)
    (s, a.2 ++ f ++ rest)) (s, [])
  (s, head ++ free ++ records ++ chunks ++ store ++ banks ++ bands ++ logs ++ faults ++ slots)

/-- The header of an image names a version that the device implements (R357, R407). -/
def imageKnown (s : State) (i : TeamImage) : Bool :=
  match i.pages with
  | (ap, off) :: _ => let b := (s.readBlock ap off 4).2; b.take 3 == [0xc7, 0x51, 1]
  | [] => false

/-- Write bytes to the pages of an image. -/
def writePages : State → List (Ap × Nat) → List Byte → State
  | s, [], _ => s
  | s, (ap, off) :: t, bs => if bs.isEmpty then s else writePages (s.homeWrite ap off (bs.take 4096)) t (bs.drop 4096)

/-- Read the pages of an image back. -/
def readPages : State → List (Ap × Nat) → State × List Byte
  | s, [] => (s, [])
  | s, (ap, off) :: t =>
    let r := s.readBlock ap off 4096
    let q := readPages r.1 t
    (q.1, r.2 ++ q.2)

/-- A log entry's lanes wait in the fault table under the saved entry's number (R354, R360). -/
def saveWaiter (s : State) (c : Nat) (l : SavedLog) : State :=
  s.modDie (s.dieOf c) fun x => { x with faults := x.faults.upd l.ft fun f => { f with
    waiters := .saved l.n :: f.waiters.filter fun w => match w with
      | .ev (.translationRequest c' op lane) => !(c' == c && op == l.op && l.lanes.getLsbD lane)
      | _ => true } }

/-- SAVING a team at rest: its image is written and its resources are freed as at retirement, each group settled (R356). -/
def saveTeam (s : State) (c n page : Nat) (pages : List (Ap × Nat)) : State × TeamImage :=
  let t := s.team c n
  let (s, bytes) := s.teamImage c n t
  let s := s.writePages pages bytes
  let k := s.core c
  let gs := k.groupsOf n
  let mine := fun (uid : Nat) => gs.any fun p => p.2.uid == uid
  let ops := k.memops.filter fun (_, o) => mine o.uid
  let keep := ops.filter fun (_, o) => match o.kind with
    | .pref _ => false
    | _ => true
  let logs : List SavedLog := ((k.opLog.filter fun (_, l) => keep.any fun p => p.1 == l.op).map (·.2)).zipIdx.map fun (l, i) =>
    { n := s.nextLaunch + i, op := l.op, lanes := l.lanes, page := l.page, ft := l.ft }
  let alone := k.teams.all fun (m, y) => m = n || y.ctx ≠ t.ctx
  let image : TeamImage := {
    page, pages, team := t
    groups := (List.range t.groups).filterMap fun i => (gs.find? fun p => p.2.index == i).map (·.2)
    memops := keep, logs, held := keep.flatMap fun p => (k.heldLanes p.1 p.2).map fun l => (p.1, l)
    tickets := (k.sbuf.filter fun (_, e) => mine e.uid).map (·.2)
    sfq := k.sfq.filter fun r => mine r.uid
    cmds := (k.eq.filter fun (_, q) => q.team == n).map fun (j, q) => { q with was := some (c, j) }
    colls := (k.collCount.filter fun x => x.1 = n).map (·.2)
    ovstat := if alone then (k.ovstat.look t.ctx).getD (0, 0) else (0, 0) }
  let s := logs.foldl (fun (s : State) l => s.saveWaiter c l) { s with nextLaunch := s.nextLaunch + logs.length }
  let s := gs.foldl (fun (s : State) p =>
    let (gid, g) := p
    let s := s.freeHoldings c gid g
    s.settleGroup (s.dieOf c) t.queue (s.cc - g.startCc)) s
  let s := s.modCore c fun k => ({ k with
    groups := k.groups.filter fun (_, g) => g.team ≠ n
    memops := k.memops.filter fun (i, _) => !ops.any fun p => p.1 == i
    opLog := k.opLog.filter fun (_, l) => !ops.any fun p => p.1 == l.op
    sbuf := k.sbuf.filter fun (_, e) => !mine e.uid
    sfq := k.sfq.filter fun r => !mine r.uid
    eq := k.eq.filter fun (_, q) => q.team ≠ n
    ringWaits := k.ringWaits.filter fun w => !gs.any fun p => p.1 == w.gid
    ovstat := if alone then k.ovstat.drop t.ctx else k.ovstat } : Core).recount
  let s := { s with fences := s.fences.filter fun f => ¬ (f.2.core = c ∧ mine f.2.uid ∧ f.2.resume.isNone) }
  (((s.syncSfq c).admitFaults c).dropTeam c n t, image)

end State

/-- TEAM_SAVE (R202, R356): the save under way on a die goes on. -/
def execTeamSave (d blk : Nat) (s : State) : Host.Outcome State Fault Refusal :=
  match (s.die d).saving with
  | none => .next s
  | some j =>
    if j.block ≠ blk then .next s
    else
      let quit := fun (s : State) => (s.modDie d fun x => { x with saving := none }).postOnce (.placementOpportunity d)
      let again := fun (s : State) => s.post (.teamSave d blk)
      match (s.die d).placed.find? fun p => p.launch == j.launch && p.block == j.block with
      | none => .next (quit s)
      | some p =>
        let ctx := ((s.launch? j.launch).map (·.ctx)).getD 0
        if ¬ j.stopped then
          match s.xlateRanges d ctx (.teamSave d blk) j.ranges with
          | (none, s) => .next (quit (s.modDie d fun x => { x with noVictim := (j.queue, j.launch, j.block) :: x.noVictim }))
          | (some (s, ls), _) =>
            if ls.length = j.ranges.length then
              let s := s.modDie d fun x => { x with saving := some { j with stopped := true, pages := ls } }
              .next (again (j.ranges.foldl (fun (s : State) r => s.modTeam r.1 r.2.1 fun t => { t with saving := true }) s))
            else .next s
        else
          let s := j.ranges.foldl (fun (s : State) r =>
            ((s.core r.1).eq.filter fun (_, q) => q.team == r.2.1).foldl (fun (s : State) q => s.stopCmd r.1 q.1 q.2) s) s
          let here := (j.ranges.zip j.pages).filter fun r => p.teams.contains (s.logical r.1.1, r.1.2.1)
          if (here.all fun r => s.teamRests r.1.1 r.1.2.1) && here.all (fun r => r.2.all fun p => !s.targetWaits p.1 p.2) then
            let (s, images) := here.foldl (fun (a : State × List TeamImage) r =>
              let (s, i) := a.1.saveTeam r.1.1 r.1.2.1 r.1.2.2.1 r.2
              (s, a.2 ++ [i])) (s, [])
            let ref : BlockRef := { launch := j.launch, block := j.block, saved := images }
            let s := s.modDie d fun x => { x with
              placed := x.placed.filter fun y => y.order ≠ p.order
              lists := x.lists.put j.queue (ref :: (x.lists.look j.queue).getD []) }
            .next (quit s)
          else .next (again s)

/-! ### Restoring (R359, R360) -/

/-- A core can take a saved team: R192 with the chunks and bands that the team holds. -/
def Core.canRestore (k : Core) (i : TeamImage) : Bool :=
  let held := (i.groups.map fun g => g.heldChunks.length).sum
  k.canTake i.team.groups i.team.groups i.team.decl && decide (max i.team.reserve held ≤ k.unreserved + i.team.reserve)
    && decide (held ≤ 992 - (k.groups.map fun g => g.2.heldChunks.length).sum) && decide (k.bandsUsed.length + i.team.bands.length ≤ 8)

namespace State

/-- The threads of a restored group enter the copies under their PCs, and park, as threads that resume, where the copy is absent
(R71, R78). A thread whose load had failed keeps its trap. -/
def restoreThreads (s : State) (c gid : Nat) (g : Group) : State :=
  let live := g.threads.zipIdx.filter fun p => p.1.live
  ((live.map fun p => overlayOf p.1.pc).dedup).foldl (fun (s : State) id =>
    let here := live.filter fun p => overlayOf p.1.pc == id
    let stays := here.any fun p => wf32 p.1.pc 15 14 == 0
    let needs := ((s.core c).resident? g.ctx id).isNone ∧ stays
    let s := if needs then s.requestOv c g.ctx id else s
    let s := s.modCore c fun k => k.recount.enterOv g.ctx id (s.slotQuota g.ctx) s.cc
    let lanes := maskOf ((here.filter fun p => wf32 p.1.pc 15 14 == 0 && match p.1.wait with
      | some (.failed _) => false
      | _ => true).map (·.2))
    if needs ∧ lanes ≠ 0 then s.parkOn c gid lanes id .start else s) s

/-- One group of an image starts again on a base set, its chunks granted afresh; the answer gives what is left of the chunk
section. -/
def restoreGroup (s : State) (c n gid : Nat) (g : Group) (record chunks : List Byte) : State × List Byte :=
  let k := s.core c
  let g := readRecord record g
  let held := g.chunks
  let g' : Group := { g with
    team := n, chunks := [none, none, none], issued := [], startCc := s.cc, laneIssues := 0, uniIssues := 0, lastLane := 0, lastUni := 0
    threads := g.threads.map fun t => { t with laneWait := 0, uniWait := 0, wait := match t.wait with
      | some (.failed x) => some (.failed x)
      | _ => none } }
  let k := { k with
    rfHolder := k.rfHolder.put gid g.ctx
    rf := k.rf.write (17 * gid * 32) (wordsOf (record.take 2176))
    groups := k.groups.put gid g' }
  let (k, chunks) := (held.zipIdx).foldl (fun (a : Core × List Byte) h =>
    if h.1.isNone then a
    else
      match a.1.freeChunk with
      | none => a
      | some i =>
        let k := a.1.grant gid (h.2 + 1) i
        ({ k with rf := k.rf.write ((8704 + 16 * i) * 32) (wordsOf (a.2.take 2048)) }, a.2.drop 2048)) (k, chunks)
  let s := (s.setCore c k).restoreThreads c gid g
  let s := (g.pins.foldl (fun (s : State) p => s.requestOv c g.ctx p.1) s).modCore c Core.recount
  (if s.wantsTrap c gid then s.postOnce (.boundaryTrapTake c gid) else s, chunks)

/-- A log entry enters again (R360): it replays, fails or waits as its fault table entry says. -/
def restoreLog (s : State) (c op : Nat) (l : SavedLog) : State :=
  let d := s.dieOf c
  let lanes := match (s.core c).memops.look op with
    | some o => (lanesOf l.lanes).filter fun i => (o.together i).head? == some i
    | none => []
  let evs := lanes.map fun lane => Instr.translationRequest c op lane
  let place := fun (s : State) => lanes.foldl (fun (s : State) lane => s.logFault c op lane l.ft) s
  match (s.die d).faults.look l.ft with
  | none => s.posts evs
  | some f =>
    let rest := f.waiters.filter fun w => w ≠ .saved l.n
    let set := fun (s : State) (ws : List Waiter) => s.modDie d fun x => { x with faults := x.faults.put l.ft { f with waiters := ws } }
    let s := place s
    match f.state with
    | .outstanding => set s (rest ++ evs.map .ev)
    | .success => (let s := set s rest; if rest.isEmpty then s.freeFault d l.ft else s).posts evs
    | .failed =>
      let s := let s := set s rest; if rest.isEmpty then s.freeFault d l.ft else s
      evs.foldl (fun (s : State) e => s.failWaiter d f.ctx f.page f.response (.ev e)) s

/-- RESTORING a team on a core that can take it (R359). -/
def restoreTeam (s : State) (d c : Nat) (i : TeamImage) : State × Nat :=
  let t0 := i.team
  let (s, bytes) := s.readPages i.pages
  let (s, n) := s.placeTeam c t0 t0.groups [] false
  let t := s.team c n
  let records := (bytes.drop 512).take (t.groups * 4096)
  let rest := bytes.drop (512 + t.groups * 4096)
  let s := s.modCore c fun k => { k with teams := k.teams.upd n fun t => { t with wrec := t0.wrec, retired := t0.retired } }
  let setOf := fun (g : Group) => t.sets.getD g.index 0
  let gidOf := fun (u : Nat) => ((i.groups.find? fun g => g.uid == u).map setOf).getD 0
  let (s, rest) := i.groups.foldl (fun (a : State × List Byte) g =>
    a.1.restoreGroup c n (setOf g) g (records.drop (4096 * g.index)) a.2) (s, rest)
  let store := rest.take t.size
  let rest := rest.drop ((t.size + 511) / 512 * 512)
  let w := t.groups * t.window
  let s := s.modCore c fun k => (if t.size = 0 then k else k.writeStore t.base store)
  let s := s.modCore c fun k => (List.range 32).foldl (fun (k : Core) b => k.writeBank b t.bankBase ((rest.drop (b * w)).take w)) k
  let rest := rest.drop (32 * w)
  let s := (t0.bands.zipIdx).foldl (fun (s : State) b =>
    match firstFree 8 (s.core c).bandsUsed.contains with
    | none => s
    | some p => (s.modCore c fun k => { k with
        bandsUsed := p :: k.bandsUsed
        acc := k.acc.write (p * 4096) (wordsOf ((rest.drop (16384 * b.2)).take 16384)) }).modTeam c n fun t => { t with bands := t.bands.put b.1.1 p }) s
  let rest := rest.drop (16384 * t0.bands.length)
  let faults := rest.drop (96 * i.logs.length)
  let logAt := fun (l : SavedLog) (j : Nat) =>
    { l with lanes := w32 (leNat ((rest.drop (96 * j + 12)).take 4)), page := leNat ((rest.drop (96 * j + 16)).take 8),
             ft := leNat ((rest.drop (96 * j + 26)).take 2) % 512 }
  -- accesses, their log entries, store-fault records and commands
  let base := (s.core c).nextOp
  let opOf := fun (o : Nat) => base + (i.memops.findIdx fun p => p.1 == o)
  let s := s.modCore c fun k => i.memops.foldl (fun (k : Core) p =>
    { k with memops := k.memops.put k.nextOp { p.2 with gid := gidOf p.2.uid, mark := 0 }, nextOp := k.nextOp + 1 }) k
  let s := i.tickets.foldl (fun (s : State) e =>
    s.modCore c fun k => { k with
      sbuf := k.sbuf.put k.nextSb { e with gid := gidOf e.uid, instr := k.nextSb }
      nextSb := k.nextSb + 1 }) s
  let s := i.groups.foldl (fun (s : State) g => s.modGroup c (setOf g) fun x =>
    let behind := fun (p : Thread × Thread) => match p.1.wait, p.2.wait with
      | none, some (.order o) => { p.1 with wait := some (.order (opOf o)) }
      | _, _ => p.1
    let trap := fun (t : Trap) => { t with op := t.op.bind fun o => if i.memops.any (fun p => p.1 == o) then some (opOf o) else none }
    { x with threads := (x.threads.zip g.threads).map behind, pending := x.pending.map trap }) s
  let s := i.logs.zipIdx.foldl (fun (s : State) l => s.restoreLog c (opOf l.1.op) (logAt l.1 l.2)) s
  let s := s.posts (i.held.map fun p => .translationRequest c (opOf p.1) p.2)
  let s := s.modCore c fun k => { k with
    sfqWait := k.sfqWait ++ i.sfq.zipIdx.map fun r => { r.1 with gid := gidOf r.1.uid, bytes := (faults.drop (48 * r.2)).take 48 }
    collCount := k.collCount ++ i.colls.map fun x => (n, x)
    eqWait := k.eqWait ++ i.cmds.map fun q =>
      { q with gid := gidOf q.uid, team := n, sbMark := k.nextSb, opMark := k.nextOp }
    ovstat := if i.ovstat = (0, 0) then k.ovstat
      else let o := (k.ovstat.look t.ctx).getD (0, 0); k.ovstat.put t.ctx (min (o.1 + i.ovstat.1) 0xffff, min (o.2 + i.ovstat.2) 0xffff) }
  let s := i.cmds.foldl (fun (s : State) _ => s.admitCmds c) (s.admitFaults c)
  ((s.modCore c fun k => k.l1Acquire .die).chargeGroups d t.queue i.groups.length, n)

end State

end Sys2Proof.Machine
end

