-- ==== Sys2Proof/Machine/Launch.lean ====
section
/-! DEFINITION. Launch queues and records (R180 to R186), the launch arbiter (R188 to R193), placement (R192 to R196) and the choice of
a victim (R202). -/

namespace Sys2Proof.Machine

namespace State

/-! ### Queues (R180, R181, R185) -/

/-- A queue stops with an error. -/
def stopQueue (s : State) (q code : Nat) : State := (s.setField (lqOff q 0) 63 63 0).setField (lqOff q 2) 31 24 code
/-- The launch whose blocks a queue distributes now. -/
def current (s : State) (q : Nat) : Option Launch := s.launches.find? fun l => l.queue == q && !l.distributed && !l.failed
/-- The record at read_index. -/
def recordAt (s : State) (q : Nat) : State × List Word :=
  let at_ := s.field (lqOff q 0) 40 6 * 64 + 64 * (s.field (lqOff q 2) 63 32 % 2 ^ s.field (lqOff q 0) 61 56)
  let (s, bs, _) := s.homeRead .hbm at_ 64
  (s, wordsOf bs)
/-- A queue may fetch: bring-up has completed and no fatal error stands, it is enabled, a record is there, and no launch of it
is being distributed (R181, R400). -/
def mayFetch (s : State) (q : Nat) : Bool :=
  s.field 8 31 30 == 1 && s.field (lqOff q 0) 63 63 == 1 && s.field (lqOff q 1) 31 0 ≠ s.field (lqOff q 2) 63 32 && (s.current q).isNone

end State

/-- write_index − read_index exceeds the size of a queue (R181). -/
def State.overrun (s : State) (q : Nat) : Bool :=
  decide (2 ^ s.field (State.lqOff q 0) 61 56 < (s.field (State.lqOff q 1) 31 0 + 2 ^ 32 - s.field (State.lqOff q 2) 63 32) % 2 ^ 32)

/-- LAUNCH_QUEUE_DOORBELL (R181): a write of write_index; one that overruns an enabled queue stops it. -/
def State.ringDoorbell (s : State) (q : Nat) (v : Word) : State :=
  if 256 ≤ q then s
  else
    let s := s.setField (State.lqOff q 1) 31 0 v.toNat
    if s.field (State.lqOff q 0) 63 63 = 1 ∧ s.overrun q then s.stopQueue q 9 else s.post (.launchRecordFetch q)

/-- The event of `State.ringDoorbell`. -/
def execLaunchQueueDoorbell (q : Nat) (v : Word) (s : State) : Host.Outcome State Fault Refusal := .next (s.ringDoorbell q v)

/-- LAUNCH_QUEUE_ENABLE (R181, R185): a write of quadword 0 with enable = 1. -/
def State.enableQueue (s : State) (q : Nat) (qw0 : DWord) : State :=
  if 256 ≤ q then s
  else
    let s := s.setCtl (State.lqOff q 0) (qw0 &&& 0xffff01ffffffffc0)
    let n := qf qw0 61 56
    if n < 4 ∨ 20 < n then (s.stopQueue q 9)
    else (((s.setField (State.lqOff q 0) 63 63 1).setField (State.lqOff q 2) 31 24 0).post (.launchRecordFetch q))

/-- The event of `State.enableQueue`. -/
def execLaunchQueueEnable (q : Nat) (qw0 : DWord) (s : State) : Host.Outcome State Fault Refusal := .next (s.enableQueue q qw0)

/-! ### The checks of a record (R185) -/

/-- A launch as its record describes it. -/
def State.launchOf (s : State) (q : Nat) (words : List Word) : Launch :=
  let l : Launch := { queue := q, index := s.nextLaunch, ctx := s.field (State.lqOff q 0) 55 48, words }
  { l with total := if l.kind = 0 then (l.w 1).toNat else l.dies.length }

/-- Codes 1 to 6, 0 for none. -/
def State.checkRecord (s : State) (l : Launch) : Nat :=
  let w0 := l.w 0
  let d := l.decl
  let bc := (l.w 1).toNat
  let window := qf d 7 0
  if wf32 w0 7 4 ≠ 1 then 1
  else if l.kind = 3 ∨ wf32 w0 12 8 ≠ 0 ∨ wf32 (l.w 15) 31 16 ≠ 0 ∨ (l.kind ≠ 2 ∧ l.stage ≠ 0) ∨ (l.kind = 0 ∧ 2048 < l.teams * l.groups)
      ∨ (l.kind ≠ 0 ∧ (bc ≠ 1 ∨ l.teams ≠ 1)) ∨ (l.kind = 1 ∧ (l.groups ≠ 1 ∨ qf d 25 16 ≠ 0 ∨ window ≠ 0))
      ∨ (l.kind = 2 ∧ l.dies.any fun e => s.stageValid e l.stage) then 2
  else if bc = 0 then 3
  else if l.dies.isEmpty ∨ l.dies.any fun e => decide (s.product.dies ≤ e) then 4
  else if 992 < qf d 25 16 ∨ 16 < qf d 15 11 ∨ 128 < window ∨ qf d 48 26 < 8 * qf d 15 11 ∨ qf d 63 49 ≠ 0 ∨ qf d 10 8 ≠ 0 then 5
  else if l.dies.any fun e => !(s.dieCores e).any fun c => (s.core c).couldTake l.groups d then 6
  else 0

/-- What the check of the entry overlay finds (R185 codes 7 and 8): a code and the overlay's slots, or a wait for a translation. -/
def State.checkEntry (s : State) (l : Launch) (who : Instr) : Option (Nat × Nat) × State :=
  let id := overlayOf (l.w 4)
  if s.ovtCount l.ctx ≤ id then (some (7, 0), s)
  else if qf (s.ctxQ l.ctx 4) 63 63 = 0 then (some (8, 0), s)
  else
    match s.engRead (s.agentCore (l.queue % s.product.dies)) 6 l.ctx who true 0 (s.ovtBase l.ctx + 8 * id) 8 with
    | .ok s bs => match ovEntry (leNat bs) with
      | some (n, _, _) => (if n ≤ s.slotQuota l.ctx then some (0, n) else some (7, 0), s)
      | none => (some (7, 0), s)
    | .wait s => (none, s)
    | .poison s | .fault s _ _ | .window s => (some (7, 0), s)

/-- A record that passed its checks becomes a launch, and its distribution starts. -/
def State.acceptLaunch (s : State) (l : Launch) : State :=
  ({ s with launches := s.launches ++ [{ l with index := s.nextLaunch }], nextLaunch := s.nextLaunch + 1 } : State).post
    (.blockDistribution l.queue)

/-- LAUNCH_RECORD_FETCH (R181, R185). -/
def execLaunchRecordFetch (q : Nat) (s : State) : Host.Outcome State Fault Refusal :=
  if ¬ s.mayFetch q then .next s
  else if s.overrun q then .next (s.stopQueue q 9)
  else
    let (s, words) := s.recordAt q
    let l := s.launchOf q words
    match s.checkRecord l with
    | 0 =>
      match s.checkEntry l (.launchRecordFetch q) with
      | (none, s) => .next s
      | (some (0, n), s) => .next (if l.initIdx = 0 then s.acceptLaunch { l with entrySlots := n } else s.postOnce (.teamInitRead (partNo 256 q n)))
      | (some (code, _), s) => .next (s.stopQueue q code)
    | code => .next (s.stopQueue q code)

/-- TEAM_INIT_READ (R184, R185 code 10): the team init entry and every image of the record, whose entry overlay has some slots: queue
and slots make the event's number. -/
def execTeamInitRead (n : Nat) (s : State) : Host.Outcome State Fault Refusal :=
  let q := n % 256
  let slots := n / 256
  if ¬ s.mayFetch q then .next s
  else
    let (s, words) := s.recordAt q
    let l := s.launchOf q words
    .next (match s.readImages (q % s.product.dies) l (.teamInitRead n) with
      | .ok s bs =>
        if (List.range (bs.length / 48)).all fun j => imageOk l.decl ((bs.drop (48 * j)).take 48) then s.acceptLaunch { l with entrySlots := slots }
        else s.stopQueue q 10
      | .wait s => s
      | .poison s | .fault s _ _ | .window s => s.stopQueue q 10)

/-! ### Distribution (R186, R188, R196) -/

/-- A launch arms its budget at a die when its first block arrives (R188). -/
def State.arm (s : State) (d : Nat) (l : Launch) : State :=
  let a := s.arb d l.queue
  if l.budget = 0 ∨ a.armed.any fun x => x.1 == l.index then s
  else s.setArb d l.queue { a with armed := a.armed ++ [(l.index, s.cc + l.budget, false)] }

/-- A stage launch defines its stage on a die (R196). -/
def State.defineStage (s : State) (d : Nat) (l : Launch) : State :=
  let y : Stage := { ctx := l.ctx, queue := l.queue, launch := l.index, groups := l.groups, decl := l.decl, entry := l.w 4, tag := l.w 14,
                     args := [l.w 8, l.w 9, l.w 10, l.w 11], initIdx := l.initIdx }
  (s.modDie d fun x => { x with stages := x.stages.put l.stage y }).setField (State.stageOff d l.stage 0) 63 63 1

/-- A block that has come to a die enters the list of its queue there (R186), which arms the launch's budget and defines its stage; one
of a discarded launch leaves its place to the next. -/
def State.listBlock (s : State) (d q l b : Nat) : State :=
  let a := s.arb d q
  let s := s.setArb d q { a with coming := a.coming.erase l }
  match s.launch? l with
  | none => s
  | some l =>
    if l.failed then s.postOnce (.blockDistribution q)
    else
      let s := s.modDie d fun x => { x with lists := x.lists.put q (((x.lists.look q).getD []) ++ [{ launch := l.index, block := b }]) }
      let s := s.arm d l
      let s := if l.kind = 2 then s.defineStage d l else s
      s.postOnce (.placementOpportunity d)

/-- The number of the event by which a block of a launch arrives at a die for a queue. -/
def blockMsg (q d l b : Nat) : Nat := partNo 256 q (1 + partNo 64 d (partNo (2 ^ 32) b l))

/-- BLOCK_DISTRIBUTION (R181, R186): the next block of a queue's launch goes to its die as a message on VN5, or waits while the list
there is full; after the last block read_index advances. A number that holds a place of `blockMsg` is the message that arrives. -/
def execBlockDistribution (n : Nat) (s : State) : Host.Outcome State Fault Refusal :=
  let q := n % 256
  match n / 256 with
  | place + 1 => .next (s.listBlock (place % 64) q (place / 64 / 2 ^ 32) (place / 64 % 2 ^ 32))
  | 0 =>
    match s.current q with
    | none => .next s
    | some l =>
      let home := s.agentCore (q % s.product.dies)
      if l.total ≤ l.next then
        let s := s.modLaunch l.index fun l => { l with distributed := true }
        let s := s.setField (State.lqOff q 2) 63 32 (s.field (State.lqOff q 2) 63 32 + 1)
        .next ((s.post (.launchRecordFetch q)).postOnce (.groupEnd home 0))
      else
        let d := l.dieOf l.next
        let a := s.arb d q
        if 64 ≤ (s.blocksAt d q).length + a.coming.length then .next s
        else
          let s := s.setArb d q { a with coming := a.coming ++ [l.index] }
          let s := s.modLaunch l.index fun l => { l with next := l.next + 1 }
          .next ((s.send home (s.agentCore d) 5 1 (.blockDistribution (blockMsg q d l.index l.next)) true 5).post (.blockDistribution q))

namespace State

/-! ### The arbiter (R188 to R193) -/

/-- remaining(q) of a queue that is armed at a die (R188). -/
def remaining (s : State) (d q : Nat) : Option Nat :=
  match s.blocksAt d q with
  | [] => none
  | r :: _ => ((s.arb d q).armed.find? fun x => x.1 = r.launch).map fun x => x.2.1 - s.cc

/-- Queues with a block listed at a die, ascending. -/
def listedQueues (s : State) (d : Nat) : List Nat := ((s.die d).lists.filter fun p => !p.2.isEmpty).map (·.1)

/-- A core is free of the reservation of another block (R193). -/
def openTo (s : State) (d c : Nat) (r : BlockRef) : Bool :=
  !(s.die d).reserved.any fun x => x.2.2.2.contains c && !(x.2.1 == r.launch && x.2.2.1 == r.block)

/-- The cores that the head block of a queue can be placed on now (R79, R192, R195, R196). -/
def coresFor (s : State) (d : Nat) (r : BlockRef) (l : Launch) : Option (List Nat) :=
  let cs := (s.dieCores d).filter fun c => s.openTo d c r
  if s.slotQuota l.ctx < l.entrySlots then none
  else if ¬ r.saved.isEmpty then
    let fit := fun (a : Option (List Nat)) (i : TeamImage) => a.bind fun used =>
      (cs.find? fun c => !used.contains c && (s.core c).canRestore i).map fun c => used ++ [c]
    if r.saved.any fun i => i.pages.any (fun p => s.targetWaits p.1 p.2) || !s.imageKnown i then none else r.saved.foldl fit (some [])
  else if l.kind = 0 then
    let ok := cs.filter fun c => (s.core c).canTake l.groups l.groups l.decl
    if l.teams ≤ ok.length then some (ok.take l.teams) else none
  else if l.kind = 1 then
    let all := s.dieCores d
    if cs.length = all.length ∧ ¬ all.isEmpty ∧ all.all (fun c => (s.core c).canTraverse l.decl) then some all else none
  else
    let n := s.field (stageOff d l.stage 0) 62 58
    let ok := cs.filter fun c => (s.core c).stage.isNone && (s.core c).nextStage.isNone && (s.core c).canTake l.groups 0 l.decl
    if n ≤ ok.length then some (ok.take n) else none

/-- Arbitrate (R190): the queue chosen among the candidates, with its deficits and pointer. -/
def arbitrate (s : State) (d : Nat) (cand listed : List Nat) : Option (Nat × State) :=
  let urgent := cand.filterMap fun q =>
    match s.remaining d q with
    | some r => if 0 ≤ (s.arb d q).deficit + (s.arb d q).held then some (q, r) else none
    | none => none
  match pickBest (fun (a b : Nat × Nat) => decide (a.2 < b.2) || (a.2 == b.2 && decide (a.1 < b.1))) urgent with
  | some (q, _) => some (q, s)
  | none =>
    let scan := fun (s : State) =>
      ((List.range 256).map fun i => ((s.die d).ptr + i) % 256).find? fun q => cand.contains q && decide (0 < (s.arb d q).deficit)
    let take := fun (s : State) => (scan s).map fun q => (q, s.modDie d fun x => { x with ptr := q })
    match take s with
    | some r => some r
    | none =>
      -- the number of rounds until some candidate's deficit is above 0
      let need := fun (q : Nat) => ((-(s.arb d q).deficit) / s.quantum q + 1).toNat
      let rounds := cand.foldl (fun a q => min a (need q)) (cand.foldl (fun a q => max a (need q)) 1)
      let give := fun (s : State) (q : Nat) =>
        let a := s.arb d q
        s.setArb d q { a with deficit := min (a.deficit + rounds * s.quantum q) (s.quantum q) }
      take (listed.foldl give s)

/-- Discard the blocks of a launch that are not placed, on every die, and stop its queue (R185): what comes to the head of a list is
looked at. -/
def failLaunch (s : State) (l : Launch) (code : Nat) : State :=
  let s := s.stopQueue l.queue code
  let s := s.modLaunch l.index fun l => { l with failed := true }
  let keep := fun (r : BlockRef) => r.launch ≠ l.index || !r.saved.isEmpty
  let clean := fun (x : Die) => { x with lists := x.lists.map fun p => (p.1, p.2.filter keep) }
  let s := { s with dies := s.dies.map fun p => (p.1, clean p.2) }
  let s := l.dies.foldl (fun (s : State) d => (s.disarm d { l with failed := true }).trimDeficit d l.queue) s
  let s := (List.range s.product.dies).foldl (fun (s : State) d => s.postOnce (.placementOpportunity d)) s
  s.postOnce (.blockDistribution l.queue)

/-- A reservation is held until its block is placed or discarded; then it passes to the next block in order of age (R193). -/
def nextReservation (s : State) (d : Nat) : State :=
  let x := s.die d
  let listed := fun (q l b : Nat) => (s.blocksAt d q).any fun r => r.launch == l && r.block == b
  let stale : Bool := match x.reserved with
    | some (q, l, b, _) => !listed q l b
    | none => true
  if ¬ stale then s
  else
    let queue := x.reserveQ.filter fun r => listed r.1 r.2.1 r.2.2
    match queue with
    | [] => s.setDie d { x with reserved := none, reserveQ := [] }
    | (q, l, b) :: rest =>
      let cores := match s.launch? l with
        | none => []
        | some y =>
          let could := (s.dieCores d).filter fun c => (s.core c).couldTake y.groups y.decl
          if y.kind = 0 then could.take y.teams
          else if y.kind = 1 then s.dieCores d
          else could.take (s.field (stageOff d y.stage 0) 62 58)
      s.setDie d { x with reserved := some (q, l, b, cores), reserveQ := rest }

/-- PLACE the head block of a queue on cores (R191 to R196, R203). -/
def placeBlock (s : State) (d q : Nat) (r : BlockRef) (l : Launch) (cores : List Nat) (images : List (Nat × List Byte)) : State :=
  let x := s.die d
  let order := x.placeOrder
  let s := s.setDie d { x with
    lists := x.lists.upd q (·.drop 1)
    placed := x.placed ++ [{ queue := q, launch := l.index, block := r.block, teams := [], order }]
    placeOrder := order + 1
    noVictim := [] }
  let into := fun (s : State) (c n : Nat) => s.modDie d fun x => { x with placed := x.placed.map fun p =>
    if p.order = order then { p with teams := p.teams ++ [(s.logical c, n)] } else p }
  let s := if ¬ r.saved.isEmpty then
      (cores.zip r.saved).foldl (fun (s : State) p => let (s, n) := s.restoreTeam d p.1 p.2; into s p.1 n) s
    else
      cores.zipIdx.foldl (fun (s : State) p =>
        let (c, j) := p
        let t := l.team r.block (if l.kind = 0 then j else s.corePlace c)
        let (s, n) := s.placeTeam c t (if l.kind = 0 then l.groups else 0) images true
        let t := s.team c n
        let s := into s c n
        if l.kind = 0 then
          (List.range l.groups).foldl (fun (s : State) i =>
            s.startGroup c n (t.sets.getD i 0) t i 0 0xffffffff t.entry (w32 r.block) t.blockCount []) (s.chargeGroups d q l.groups)
        else if l.kind = 1 then
          (List.range 64).foldl (fun (s : State) i => s.startGroup c n (512 + i) t i 2 1 t.entry (w32 i) t.blockCount [])
            (s.chargeGroups d q 64)
        else (s.modCore c fun k => { k with stage := some l.stage, leaving := false }).postOnce (.clickerTake c)) s
  let s := (s.trimDeficit d q).nextReservation d
  (s.postOnce (.placementOpportunity d)).postOnce (.blockDistribution q)

/-- The block that a requester pre-empts (R202), with its image space. -/
def victim (s : State) (d rem : Nat) : Option (PlacedBlock × List (Nat × Nat × Nat × Nat)) :=
  let ok := (s.die d).placed.filterMap fun p =>
    match s.launch? p.launch with
    | none => none
    | some l =>
      let exempt := s.field (lqOff p.queue 0) 62 62 = 1 ∨ (s.remaining d p.queue).any (fun r => decide (r ≤ rem))
      if l.kind ≠ 0 ∨ exempt ∨ p.teams.isEmpty ∨ s.savePages l.ctx = 0 ∨ (s.die d).noVictim.contains (p.queue, p.launch, p.block) then none
      else (s.allotImages l.ctx p).map fun r => (p, r)
  pickBest (fun a b =>
    let x := (s.arb d a.1.queue).deficit
    let y := (s.arb d b.1.queue).deficit
    decide (x < y) || (x == y && decide (b.1.order < a.1.order))) ok

/-- An armed queue whose head block cannot be placed may make the arbiter order a save (R202). -/
def preempt (s : State) (d : Nat) : State :=
  let ctl := dieOff d 0
  if s.field ctl 41 41 = 0 ∨ (s.die d).saving.isSome then s
  else
    let stuck := fun (q : Nat) => (s.blocksAt d q).head?.any fun r => (s.launch? r.launch).any fun l => (s.coresFor d r l).isNone
    let asks := ((s.listedQueues d).filter stuck).filterMap fun q =>
      match s.remaining d q with
      | some r => if 0 ≤ (s.arb d q).deficit + (s.arb d q).held ∧ r < 2 ^ s.field ctl 40 36 then some (q, r) else none
      | none => none
    match pickBest (fun (a b : Nat × Nat) => decide (a.2 < b.2) || (a.2 == b.2 && decide (a.1 < b.1))) asks with
    | none => s
    | some (_, rem) =>
      match s.victim d rem with
      | none => s
      | some (p, ranges) =>
        (s.modDie d fun x => { x with saving := some { queue := p.queue, launch := p.launch, block := p.block, ranges } }).post
          (.teamSave d p.block)

/-- Blocks at the head of a list that no core of the die could take any more (R185). -/
def tooLarge (s : State) (d : Nat) : List Launch :=
  (s.listedQueues d).filterMap fun q =>
    match s.blocksAt d q with
    | r :: _ => (s.launch? r.launch).filter fun l =>
        r.saved.isEmpty && !(s.dieCores d).any fun c => (s.core c).couldTake l.groups l.decl
    | [] => none

end State

/-- PLACEMENT_OPPORTUNITY (R190, R191, R202): a save may be ordered; the arbiter chooses a queue and its head block is placed, but no
saved block returns before the choice of victims has ended; with no candidate, blocks that have become too large are discarded. -/
def execPlacementOpportunity (d : Nat) (s : State) : Host.Outcome State Fault Refusal :=
  let s := (s.die d).arb.foldl (fun (s : State) p => s.trimDeficit d p.1) s
  let s := (s.nextReservation d).preempt d
  let listed := s.listedQueues d
  let cand := listed.filterMap fun q =>
    match s.blocksAt d q with
    | r :: _ => match s.launch? r.launch with
      | some l => if ¬ r.saved.isEmpty ∧ (s.die d).saving.isSome then none else (s.coresFor d r l).map fun cs => (q, r, l, cs)
      | none => none
    | [] => none
  match s.arbitrate d (cand.map (·.1)) listed with
  | none => .next (((s.tooLarge d).foldl (fun (s : State) l => s.failLaunch l 6) s).settleReclaims d)
  | some (q, s') =>
    match cand.find? fun x => x.1 == q with
    | none => .next s
    | some (_, r, l, cs) =>
      -- reclaim finishes before the placement does; the last fill to land is the next opportunity (R40, R45)
      let (t, ok) := s'.reclaimAll cs (l.team r.block 0).decl
      if ¬ ok then .next t
      else if ¬ r.saved.isEmpty then .next ((t.placeBlock d q r l cs []).settleReclaims d)
      else
        match t.readImages d l (.placementOpportunity d) with
        | .ok s bs => .next ((s.placeBlock d q r l cs (imagesOf bs)).settleReclaims d)
        | .wait s => .next s
        | .poison s | .fault s _ _ | .window s => .next ((s.failLaunch l 10).postOnce (.placementOpportunity d))

/-- RESERVATION_TIMER (R193): the head block of a queue has stayed unplaceable for 2^reserve_log2 cc. -/
def execReservationTimer (d q : Nat) (s : State) : Host.Outcome State Fault Refusal :=
  match s.blocksAt d q with
  | [] => .next s
  | r :: _ =>
    match s.launch? r.launch with
    | none => .next s
    | some l =>
      if (s.coresFor d r l).isSome ∨ (s.die d).reserved.any (fun x => x.2.1 == r.launch && x.2.2.1 == r.block)
          ∨ (s.die d).reserveQ.contains (q, r.launch, r.block) then .next s
      else .next ((s.modDie d fun x => { x with reserveQ := x.reserveQ ++ [(q, r.launch, r.block)] }).nextReservation d)

/-- BUDGET_EXPIRY (R188): the countdown of an armed launch of a queue reaches 0, and its miss is counted once. -/
def execBudgetExpiry (d q : Nat) (s : State) : Host.Outcome State Fault Refusal :=
  let a := s.arb d q
  match pickBest (fun (x y : Nat × Nat × Bool) => decide (x.2.1 < y.2.1)) (a.armed.filter fun x => !x.2.2) with
  | none => .next s
  | some x =>
    let s := s.setArb d q { a with armed := a.armed.map fun y => if y.1 = x.1 then (x.1, min x.2.1 s.cc, true) else y }
    .next ((s.bumpField (State.lqOff q 2) 15 0).postOnce (.placementOpportunity d))

end Sys2Proof.Machine
end

