-- ==== Sys2Proof/Machine/Dirty.lean ====
section
/-! DEFINITION. The merge of dirty-page logs into the contexts' bitmaps in host memory (R23 to R27), and harvests (R26, R396). -/

namespace Sys2Proof.Machine

/-! ### The covered range (R27) -/

/-- The first covered page of a context, and the number of covered pages. -/
def State.cover (s : State) (ctx : Nat) : Nat × Nat :=
  let q := s.ctxQ ctx 5
  (qf q 44 0, 2 ^ min 45 (qf q 61 56))

/-- Address of the bitmap of a context. -/
def State.bitmapBase (s : State) (ctx : Nat) : Nat := qf (s.ctxQ ctx 6) 56 3 * 8

/-- Set the sticky outside bit of a context. -/
def State.setOutside (s : State) (ctx : Nat) : State := s.setField (State.ctxOff ctx 5) 62 62 1

/-- Quadword 5 may enable bitmap writes: cover_vpn [5:0] is zero, and AtomicOp requests are enabled for every
function. -/
def State.coverOk (s : State) (qw5 : DWord) : Bool := qf qw5 5 0 == 0 && s.noAtomics.isEmpty

/-- A write of quadword 5 of a context: its RW fields are taken, en = 1 refused where R27 refuses it; outside is sticky, and
a write of 0 clears it. -/
def State.writeCover (s : State) (i : Nat) (qw5 : DWord) : State :=
  if 256 ≤ i then s
  else
    let old := s.ctxQ i 5
    let v := qset (qw5 &&& 0xff001fffffffffff) 62 62 (min (qf old 62 62) (qf qw5 62 62))
    s.setCtl (State.ctxOff i 5) (if qf qw5 63 63 = 1 ∧ s.coverOk qw5 = false then qset v 63 63 0 else v)

/-- BITMAP_ENABLE_WRITE (R27). -/
def execBitmapEnableWrite (i : Nat) (qw5 : DWord) (s : State) : Host.Outcome State Fault Refusal := .next (s.writeCover i qw5)

/-! ### Log entries (R24) -/

/-- Pages of 4 KiB that a log entry covers, by its size field. -/
def logPages (size : Nat) : Nat := if size = 0 then 1 else if size = 1 then 512 else 262144

/-- The bits that the pages lo to hi − 1 of a covered range set, by word of the bitmap. -/
def wordBits (lo hi : Nat) : List (Nat × Nat) :=
  if hi ≤ lo then []
  else (List.range ((hi - 1) / 64 + 1 - lo / 64)).map fun j =>
    let w := lo / 64 + j
    let a := max lo (64 * w) - 64 * w
    let b := min hi (64 * w + 64) - 64 * w
    (w, 2 ^ b - 2 ^ a)

namespace State

/-- Add bits of one word to the updates that a merge asks for: all the bits of one word form one sequence (R27). -/
def addBits (jobs : List BitmapJob) (j : BitmapJob) : List BitmapJob :=
  if jobs.any fun x => x.ctx == j.ctx && x.addr == j.addr then
    jobs.map fun x => if x.ctx = j.ctx ∧ x.addr = j.addr then { x with bits := x.bits ||| j.bits } else x
  else jobs ++ [j]

/-- What merging one valid entry asks for: the updates so far, and the contexts whose outside bit is set. -/
def mergeEntry (s : State) (c : Nat) (a : State × List BitmapJob) (q : DWord) : State × List BitmapJob :=
  let ctx := qf q 52 45
  let q5 := s.ctxQ ctx 5
  if qf q 63 63 = 0 ∨ qf q5 63 63 = 0 then a
  else if s.noAtomics.contains (s.hostLink (s.dieOf c)) then (a.1.setOutside ctx, a.2)
  else
    let (first, count) := s.cover ctx
    let v := qf q 44 0
    let n := logPages (qf q 54 53)
    let lo := max v first
    let hi := min (v + n) (first + count)
    let t := if first ≤ v ∧ v + n ≤ first + count then a.1 else a.1.setOutside ctx
    (t, (wordBits (lo - first) (hi - first)).foldl (fun jobs p =>
      addBits jobs { core := c, ctx, addr := s.bitmapBase ctx + 8 * p.1, bits := BitVec.ofNat 64 p.2, cmp := 0 }) a.2)

/-- Bitmap updates of a die, oldest first. -/
def dieJobs (s : State) (d : Nat) : List (Nat × BitmapJob) := s.bitmaps.filter fun p => s.dieOf p.2.core = d

/-- Send the request of a die's oldest update (R27). -/
def sendCas (s : State) (d : Nat) : State :=
  match s.dieJobs d with
  | [] => s
  | (_, j) :: _ => s.emit (.bitmapCas d (s.pasid j.ctx) j.addr j.cmp (j.cmp ||| j.bits))

/-- Queue the updates of a merge at a die; with none under way the first request leaves at once. -/
def queueJobs (s : State) (d : Nat) (jobs : List BitmapJob) : State :=
  let idle := (s.dieJobs d).isEmpty
  let s := jobs.foldl (fun (s : State) j =>
    { s with bitmaps := s.bitmaps.put s.nextBitmap j, nextBitmap := s.nextBitmap + 1 }) s
  if idle ∧ ¬ jobs.isEmpty then s.sendCas d else s

/-- Slot of the log entry n places after the oldest (R25). -/
def logSlot (k : Core) (n : Nat) : Nat := (k.dlogNext + 1024 - k.dlogFill + n) % 1024

/-- A merge whose updates are all complete ends: valid is cleared in the merged entries, fill falls, and writes that waited for
a slot go on (R26). -/
def endMerge (s : State) (c : Nat) : State :=
  let k := s.core c
  if ¬ k.dlogMerging ∨ s.bitmaps.any fun p => p.2.core == c then s
  else
    let clear := fun (k : Core) (n : Nat) =>
      let at_ := 0x5e8000 + 8 * logSlot k n
      k.writeStore (at_ + 7) [Mem.get (n := 8) k.store (at_ + 7) &&& 0x7f]
    let k' := (List.range k.dlogTaken).foldl clear k
    let waiting := k.dlogWait
    let s := s.setCore c { k' with dlogFill := k.dlogFill - k.dlogTaken, dlogTaken := 0, dlogMerging := false, dlogWait := [] }
    let s := s.releaseAll waiting
    if 512 ≤ (s.core c).dlogFill then s.postOnce (.dirtyLogMerge c) else s

/-- MERGE: the die agent takes every entry of a core's log that no merge has taken (R26). -/
def mergeLog (s : State) (c : Nat) : State :=
  let k := s.core c
  if k.dlogFill ≤ k.dlogTaken then s
  else
    let qs := (List.range (k.dlogFill - k.dlogTaken)).map fun n => k.store64 (0x5e8000 + 8 * logSlot k (k.dlogTaken + n))
    let (t, jobs) := qs.foldl (s.mergeEntry c) (s, [])
    let t := t.modCore c fun k => { k with dlogTaken := k.dlogFill, dlogMerging := true }
    (t.queueJobs (s.dieOf c) jobs).endMerge c

/-- The oldest update of a die is over, and its next one starts. -/
def nextJob (s : State) (d : Nat) : State :=
  match s.dieJobs d with
  | [] => s
  | (i, j) :: _ => (({ s with bitmaps := s.bitmaps.drop i } : State).sendCas d).endMerge j.core

/-- A bitmap request that the host refuses or does not complete sets outside (R27). -/
def failJob (s : State) (d : Nat) : State :=
  match s.dieJobs d with
  | [] => s
  | (_, j) :: _ => (s.setOutside j.ctx).nextJob d

end State

/-- DIRTY_LOG_MERGE (R26). -/
def execDirtyLogMerge (c : Nat) (s : State) : Host.Outcome State Fault Refusal := .next (s.mergeLog c)

/-- BITMAP_CAS_COMPLETION (R27): the word that die d updates is done when the returned value is the compare value; else the
request is sent again with the returned value. -/
def execBitmapCasCompletion (d : Nat) (r : HostEnd) (s : State) : Host.Outcome State Fault Refusal :=
  match s.dieJobs d, r with
  | [], _ => .next s
  | _, .error => .next (s.failJob d)
  | (i, j) :: _, .ok bs =>
    let v : DWord := BitVec.ofNat 64 (leNat (bs.take 8))
    .next (if v = j.cmp then s.nextJob d
      else ({ s with bitmaps := s.bitmaps.put i { j with cmp := v } } : State).sendCas d)

/-! ### Harvests (R26, R396) -/

/-- Every cached entry of a context loses its dirty-logged bit (R26). -/
def State.rearm (s : State) (ctx : Nat) : State :=
  let clean := fun (e : TEntry) => if e.ctx = ctx then { e with dirty := false } else e
  { s with
    dies := s.dies.map fun (d, x) => (d, { x with dcache := x.dcache.map fun (a, b, e) => (a, b, clean e) })
    cores := s.cores.map fun (c, k) => (c, { k with tcache := k.tcache.map fun (i, l) => (i, l.map clean) }) }

/-- Start a harvest: every log of every die is merged; the command stays busy (R396). -/
def State.startHarvest (s : State) (ctx : Nat) (rearm : Bool) : State :=
  if s.field 0x30 63 63 = 1 then s
  else
    let s := ((s.setField 0x30 63 60 (8 + 1)).setField 0x30 59 56 (8 * bit rearm)).setField 0x30 15 8 (ctx % 256)
    let s := (s.cores.map (·.1)).foldl (fun (s : State) c => s.mergeLog c) s
    ({ s with harvest := some (ctx % 256, rearm) } : State).post .harvestComplete

/-- HARVEST (R26): host_cmd op 1. -/
def execHarvest (ctx : Nat) (rearm : Bool) (s : State) : Host.Outcome State Fault Refusal := .next (s.startHarvest ctx rearm)

/-- HARVEST_COMPLETE (R26, R27): after every bitmap request of the merges, and after the re-arming that the command asks for. -/
def execHarvestComplete (s : State) : Host.Outcome State Fault Refusal :=
  match s.harvest with
  | none => .next s
  | some (ctx, rearm) =>
    if ¬ s.bitmaps.isEmpty then .next (s.post .harvestComplete)
    else
      let s := if rearm then s.rearm ctx else s
      .next (({ s with harvest := none } : State).hostDone 0)

end Sys2Proof.Machine
end

