-- ==== Sys2Proof/Machine/Power.lean ====
section
/-! DEFINITION. The hedges (R382, R383), the power alarm (R398, R399) and fatal errors (R405, R406). -/

namespace Sys2Proof.Machine

namespace State

/-! ### Hedges -/

def hedgeOff (d : Nat) : Nat := dieOff d 0x10

/-- Cap(): the highest step the governor may choose (R382). -/
def hedgeCap (s : State) (d : Nat) : Nat :=
  let m := s.field (hedgeOff d) 22 20
  if s.alarm then min m 3 else m

/-- capped follows the alarm while it limits the step (R383). -/
def syncCapped (s : State) (d : Nat) : State :=
  s.setField (hedgeOff d) 23 23 (bit (decide (s.hedgeCap d < s.field (hedgeOff d) 22 20)))

/-- A hedge moves to a step; the change is under way until it completes (R382). -/
def setStep (s : State) (d step : Nat) : State :=
  if s.field (hedgeOff d) 30 28 = step then s
  else ((s.setField (hedgeOff d) 30 28 step).setField (hedgeOff d) 27 27 1).postOnce (.hedgeChangeComplete d)

/-- What the governor decides at a sample: the step it moves to, if it moves (R382). -/
def hedgeMove (s : State) (d occ : Nat) : Option Nat :=
  let q := s.ctlQ (hedgeOff d)
  let step := qf q 30 28
  let held := (s.die d).hedgeHeld + 1
  if qf q 31 31 = 1 ∧ qf q 7 0 < qf q 15 8 ∧ max 1 (qf q 19 16) ≤ held then
    (if qf q 15 8 < occ ∧ step < s.hedgeCap d then some (step + 1)
     else if (occ < qf q 7 0 ∧ qf q 26 24 < step) ∨ s.hedgeCap d < step then some (step - 1)
     else none)
  else none

end State

/-- HEDGE_GOVERNOR_SAMPLE (R382): `occ` is the mean occupancy over the 4,096 hc of the sample, 0 to 255. -/
def execHedgeGovernorSample (d occ : Nat) (s : State) : Host.Outcome State Fault Refusal :=
  if 255 < occ then .next s else
  match s.hedgeMove d occ with
  | some step => .next ((s.modDie d fun x => { x with hedgeHeld := 0 }).setStep d step)
  | none => .next (s.modDie d fun x => { x with hedgeHeld := x.hedgeHeld + 1 })

/-- HEDGE_CHANGE_COMPLETE (R382). -/
def execHedgeChangeComplete (d : Nat) (s : State) : Host.Outcome State Fault Refusal :=
  .next (s.setField (State.hedgeOff d) 27 27 0)

/-- A write of `hedge_ctl`: its step is taken when the write leaves gov_en at 0 (R383). -/
def State.writeHedge (s : State) (d : Nat) (v : Word) : State :=
  let q := s.ctlQ (State.hedgeOff d)
  let s := s.setCtl (State.hedgeOff d) ((q &&& 0xffffffff78800000) ||| (BitVec.setWidth 64 v &&& 0x877fffff))
  let s := if v.getLsbD 31 then s else s.setStep d (wf32 v 30 28)
  s.syncCapped d

/-- HEDGE_CTL_WRITE (R383). -/
def execHedgeCtlWrite (d : Nat) (v : Word) (s : State) : Host.Outcome State Fault Refusal := .next (s.writeHedge d v)

/-! ### The power alarm -/

/-- Every hedge's capped bit follows the alarm. -/
def State.syncAllCapped (s : State) : State := (List.range s.product.dies).foldl (fun (s : State) d => s.syncCapped d) s

namespace State

/-- The alarm sources that hold by the last reading of the sensors (R399): [2] pin, [1] power, [0] temperature. -/
def alarmSources (s : State) : Nat :=
  let ctl := s.ctlQ 0x10
  let now := s.ctlQ 0x18
  bit (s.pin && qf ctl 0 0 == 1) * 4 + bit (decide (qf ctl 63 48 < qf now 63 48)) * 2 + bit (decide (qf ctl 47 40 ≤ qf now 47 40))

/-- The sources are compared with the limits anew; the alarm holds from the first that holds until it clears. -/
def senseAlarm (s : State) : State :=
  let now := s.alarmSources
  let s := s.setField 0x18 2 0 now
  if now = 0 then s else (s.setField 8 29 29 1).syncAllCapped

end State

/-- POWER_ALARM_RAISE (R398, R399): a reading of the sensors, in the layout of `pwr_status`: power, temperature and hottest die, and in
[2] the board's pin. -/
def execPowerAlarmRaise (reading : Nat) (s : State) : Host.Outcome State Fault Refusal :=
  .next ({ s.setField 0x18 63 32 (bits reading 63 32) with pin := bits reading 2 2 == 1 } : State).senseAlarm

/-- POWER_ALARM_CLEAR (R399): 1 ms has passed; the alarm clears when power and temperature lie within their margins and no pin is
asserted. -/
def execPowerAlarmClear (s : State) : Host.Outcome State Fault Refusal :=
  let limit := s.field 0x10 63 48
  if s.field 0x18 63 48 ≤ limit - limit / 16 ∧ s.field 0x18 47 40 + 5 ≤ s.field 0x10 47 40 ∧ s.pin = false then
    .next (((s.setField 0x18 2 0 0).setField 8 29 29 0).syncAllCapped)
  else .next s

/-! ### Fatal errors -/

/-- Aperture offset of the reserved region (R12, R404). -/
def State.reservedBase (s : State) : Nat := s.product.hbmBytes - reservedBytes
/-- The crash area (R404). -/
def State.crashBase (s : State) : Nat := s.reservedBase + gib 1

/-- The quadwords of a fault table entry as the host reads them (R354). -/
def FaultEntry.quads (f : FaultEntry) : List Nat :=
  let state := match f.state with
    | .outstanding => 0
    | .success => 1
    | .failed => 2
  let waiters := (f.waiters.map fun w => match w with
    | .ev (.translationRequest c op _) => (0, c, op)
    | .ev _ => (1, 0, 0)
    | .thr c g => (2, c, g)
    | .saved n => (3, n, 0)).foldl (fun (a : List (Nat × Nat × Nat)) x => if x.1 = 0 ∧ a.contains x then a else x :: a) []
  [2 ^ 63 + state * 2 ^ 61 + bit f.write * 2 ^ 60 + f.source * 2 ^ 58 + f.ctx * 2 ^ 50 + f.page / 4096,
   waiters.length % 2 ^ 16 * 2 ^ 48 + f.response * 2 ^ 40 + f.prg]

/-- The two quadwords of entry i of a die's fault table. -/
def State.faultQ (s : State) (d i : Nat) : List Nat := (((s.die d).faults.look i).map (·.quads)).getD [0, 0]

/-- The crash image (R405): the fields of its header in the order of the rule, a word each, then free bytes to 4 KiB; of each core
the supervisor records, SR.WDOG, the store-fault records and the engine queue, whose bytes are free; and the fault tables. -/
def State.crashImage (s : State) (cause die lcore : Nat) : State × List Byte :=
  let head := leBytes 2 0x5c7a ++ leBytes 2 1 ++ leBytes 4 cause ++ leBytes 4 (die + lcore * 2 ^ 16) ++ leBytes 4 (s.field 8 31 0)
  let (s, pad) := s.freeBytes (4096 - head.length)
  let one := fun (a : State × List Byte) (c : Nat) =>
    let k := a.1.core c
    let (t, eq) := a.1.freeBytes (64 * k.eq.length)
    (t, a.2 ++ ((k.srec.flatMap fun r => r.flatMap fun w => leBytes 4 w.toNat) ++ leBytes 4 k.wdog.toNat ++ k.sfq.flatMap (·.bytes) ++ eq))
  let (s, cores) := s.present.foldl one (s, [])
  let tables := (List.range s.product.dies).flatMap fun d => (List.range 512).flatMap fun i => (s.faultQ d i).flatMap (leBytes 8)
  (s, head ++ pad ++ cores ++ tables)

/-- dev_status fatal, its cause, and MSI-X vector 0 of the PF (R405). -/
def State.signalFatal (s : State) (cause : Nat) : State := ((s.setField 8 31 31 1).setField 8 15 0 cause).emit (.msix 0 0)

/-- Every core stops issuing (R405). -/
def State.stopCores (s : State) : State :=
  s.present.foldl (fun (s : State) c => s.modCore c fun k => { k with stopped := true }) s

/-- FATAL_ERROR (R405, R406): every core stops; when the events before it have run the crash image is written and the host is told.
A further error adds nothing. -/
def execFatalError (cause die lcore : Nat) (s : State) : Host.Outcome State Fault Refusal :=
  match s.fatal with
  | none => .next (({ s.stopCores with fatal := some (cause, die, lcore) } : State).post (.fatalError cause die lcore))
  | some f =>
    if f ≠ (cause, die, lcore) ∨ s.field 8 31 31 = 1 then .next s
    else
      let (s, image) := s.crashImage cause die lcore
      let s := s.homeWrite .hbm s.crashBase image
      .next (({ s with boot := { s.boot with crashUnread := true } } : State).signalFatal cause)

/-- CRASH_WRITE_TIMEOUT (R406): the image has not been written within 100 ms; fatal is set with an invalid header, whose magic is any
other value. -/
def execCrashWriteTimeout (s : State) : Host.Outcome State Fault Refusal :=
  match s.fatal with
  | none => .next s
  | some (cause, _, _) =>
    if s.field 8 31 31 = 1 then .next s
    else
      let magic := (Config.freeWord s.free).toNat % 2 ^ 16
      let s := { s with free := s.free + 1 }.homeWrite .hbm s.crashBase (leBytes 2 (if magic = 0x5c7a then 0 else magic))
      .next (s.signalFatal cause)

/-- THERMAL_TRIP (R399, R405). No core is named by the rule: its number is free. -/
def execThermalTrip (d : Nat) (s : State) : Host.Outcome State Fault Refusal :=
  .next (({ s with free := s.free + 1 } : State).post (.fatalError 0x0101 d ((Config.freeWord s.free).toNat % 1024)))

end Sys2Proof.Machine
end

