-- ==== Sys2Proof/Machine/Boot.lean ====
section
/-! DEFINITION. Reset and bring-up (R400, R402, R404), the boot ROM and the boot messages (R413 to R417). -/

namespace Sys2Proof.Machine

/-! ### The firmware image -/

/-- Bytes of the code image, which is firmware overlay 0x0000, and of boot overlay 0x0001 behind it (R413). -/
def codeBytes : Nat := 16384
def bootBytes : Nat := 4096
/-- Where a core keeps the code image (R413). -/
def codeBase : Nat := 0x10000

/-- Place a firmware overlay in slots of a core's instruction store, resident and pinned (R345). -/
def Core.placeFirmware (k : Core) (id first slots : Nat) (words : List Word) : Core :=
  let n := k.nextRec
  { k with
    istore := Mem.write (k.istore.clear (first * 1024) ((first + slots) * 1024)) (first * 1024) (words.take (slots * 1024))
    records := k.records.put n { resident := true, placed := true, first, slots, aliases := [(255, id)], pins := 1, firmware := true }
    nextRec := n + 1 }

/-- The registers and waits of a supervisor thread that starts at a logical PC (R345). -/
def supervisorAt (uid : Nat) (pc : Word) : Group :=
  { uid, ctx := 255, m0 := 1, gens := genSeed 0, threads := [{ pc, live := true }] }

namespace State

/-- Start the supervisor thread of a core at a logical PC. -/
def startSupervisor (s : State) (c : Nat) (pc : Word) : State :=
  let s := s.modCore c fun k => { k with groups := k.groups.put supGid (supervisorAt (1024 * k.nextUid + c) pc), nextUid := k.nextUid + 1 }
  s.modCore c fun k => k.recount.enterOv 255 (overlayOf pc) (s.slotQuota 255) s.cc

/-! ### Messages of the boot ROM -/

/-- A neighbour message of core c (R366): a fused-off core's router answers with the fused bit. -/
def sendNear (s : State) (c port : Nat) (msg : List Word) : State :=
  let (t, p) := s.neighbour c port
  if s.fused.contains t then s.post (.controlMessageArrival c (0xe0000000 + port) msg)
  else s.ctlTo c t (0xc0000000 + p) msg

/-- A message of die agent 0 to the root (R414). -/
def toRoot (s : State) (op low : Nat) : State :=
  (s.physical 0).elim s fun root => s.ctlTo (s.agentCore 0) root 0x40000000 [w32 (op * 2 ^ 24 + low), 0, 0, 0] 5

/-- boot_step and boot_error of dev_status (R395). -/
def bootStep (s : State) : Nat := s.field 8 28 24
def setStepNo (s : State) (n : Nat) : State := s.setField 8 28 24 n
def setBootError (s : State) (n : Nat) : State := s.setField 8 23 16 n

/-- Bring-up is over: a host command that asked for it ends (R396). -/
def endStaging (s : State) (result : Nat) : State := if s.field 0x30 63 60 = 8 + 3 then s.hostDone result else s

/-- Bring-up stops at an error (R400). What result a command that asked for it gives is stated nowhere: it is free. -/
def bootError (s : State) (code : Nat) : State :=
  ({ s with free := s.free + 1 }.setBootError code).endStaging (bit ((Config.freeWord s.free).getLsbD 0))

/-- Bring-up fails while its firmware runs: boot_error, and FAIL to the root (R417). -/
def failBoot (s : State) (code : Nat) : State :=
  ({ s with boot := { s.boot with running := false } }.bootError code).toRoot 3 code

end State

/-- DISC (R415): the first sets the parent; the core floods its other neighbours and reports itself. -/
def execDisc (c port idx : Nat) (s : State) : Host.Outcome State Fault Refusal :=
  if (s.core c).coord.isSome then .next s
  else
    let s := s.modCore c fun k => { k with coord := some idx, parent := some port }
    let s := ((List.range 4).filter (· ≠ port)).foldl (fun (s : State) p =>
      s.sendNear c p [w32 (2 ^ 24 + (s.neighbour idx p).1), 0, 0, 0]) s
    .next (s.sendNear c port [w32 (2 * 2 ^ 24 + idx), 0, 0, 0])

/-- REPORT (R415): forwarded unchanged to the parent. -/
def execReport (c : Nat) (msg : Words) (s : State) : Host.Outcome State Fault Refusal :=
  match (s.core c).parent with
  | none => .next s
  | some p => .next (s.sendNear c p msg)

/-- IMG from core p (R415): copy the image from p's core store, send IMG on to the children, then ACK to logical core 0. -/
def execImg (c p : Nat) (msg : Words) (s : State) : Host.Outcome State Fault Refusal :=
  let off := (msg.getD 1 0).toNat
  let len := (msg.getD 2 0).toNat
  let n := wf32 (msg.getD 0 0) 9 0
  let l := s.logical c
  let s := s.modCore c fun k => k.writeStore off ((s.core p).readStore off len)
  let tell := fun (s : State) (t : Nat) (m : List Word) => (s.physical t).elim s fun q => s.ctlTo c q (s.coreSource c) m
  let s := ((List.range 4).filter fun j => decide (4 * l + 1 + j < n)).foldl (fun (s : State) j => tell s (4 * l + 1 + j) msg) s
  .next (tell s 0 [w32 (6 * 2 ^ 24 + l), 0, 0, 0])

/-! ### Die agent 0 (R417) -/

namespace State

/-- The `core_map` entry of a physical core as the fuses give it (R402). -/
def mapEntry (s : State) (i : Nat) : Nat := if s.fused.contains i then 0x4000 else 0x8000 + s.logical i

/-- Aperture offset of the map table (R413). -/
def mapBase (s : State) : Nat := s.reservedBase + 0x3f000000

/-- The map table as the root wrote it. -/
def mapTable (s : State) : State × List Nat :=
  let (s, bs, _) := s.homeRead .hbm s.mapBase (2 * s.product.cores)
  (s, (List.range s.product.cores).map fun i => leNat ((bs.drop (2 * i)).take 2))

end State

/-- MAP_DONE (R417): die agent 0 compares the table with the fuse maps, once the stores of the root have been accepted; it publishes
`core_map`, which is read from the table from then on, and answers, or sends FAIL with error 4. -/
def execMapDone (n : Nat) (s : State) : Host.Outcome State Fault Refusal :=
  if ¬ s.boot.running ∨ s.bootStep ≠ 4 then .next s
  else if ((s.physical 0).map fun r => (s.core r).sbuf.isEmpty) = some false then .next (s.post (.mapDone n))
  else
    let (s, t) := s.mapTable
    .next (if t = (List.range s.product.cores).map s.mapEntry then
        ((s.physical 0).elim s fun r => s.modCore r fun k => k.wake fun w => w == .drain).setStepNo 5 |>.toRoot 4 n
      else s.failBoot 4)

/-- BOOT_TIMER_EXPIRY (R417): before MAP_DONE error 4, before BOOTED error 5. -/
def execBootTimerExpiry (s : State) : Host.Outcome State Fault Refusal :=
  .next (if s.boot.running then s.failBoot (if s.bootStep = 4 then 4 else 5) else s)

/-- IMAGE_DELIVERY_TIMEOUT (R400): an acknowledgement is missing after 100 ms in step 5. -/
def execImageDeliveryTimeout (s : State) : Host.Outcome State Fault Refusal :=
  .next (if s.boot.running ∧ s.bootStep = 5 then s.failBoot 5 else s)

namespace State

/-- Step 6 (R400, R404, R105): the chunks of the spill pool go to the dies' stacks, and the crash area is cleared unless the host has
still to read it. -/
def layOut (s : State) : State :=
  let n := s.product.dies
  let s := (List.range n).foldl (fun (s : State) d => s.modDie d fun x =>
    { x with spillFree := (List.range (s.product.spillChunks / n)).map fun j => j * n + d }) s
  if s.boot.crashUnread then s
  else
    let inArea := fun (cell : Host.Cell) => decide (s.crashBase ≤ cell.1 ∧ cell.1 < s.product.hbmBytes)
    { s with hbm := s.hbm.filter fun cell => !(inArea (s.hbmOffset cell.1, cell.2)) }

end State

/-- BOOTED (R417, R400): step 5 ends; every supervisor starts at the firmware entry; steps 6 and 7. -/
def execBooted (s : State) : Host.Outcome State Fault Refusal :=
  if ¬ s.boot.running ∨ s.bootStep ≠ 5 then .next s
  else
    let s := { s with boot := { s.boot with running := false } }
    let start := fun (s : State) (c : Nat) =>
      (s.modCore c fun k => k.placeFirmware 0 0 (codeBytes / 4096) (State.wordsOf (k.readStore codeBase codeBytes))).startSupervisor c 0
    let s := s.present.foldl start s
    let s := (s.setStepNo 6).layOut
    .next ((((s.setField 0 15 0 s.present.length).setStepNo 7).setField 8 30 30 1).endStaging 0)

/-! ### `hbm_split` (R59) -/

namespace State

/-- A context is live (R59). -/
def anyLive (s : State) : Bool :=
  (List.range 256).any fun i => s.field (lqOff i 0) 63 63 == 1 || s.field (winOff i 0) 63 63 == 1 || s.field (sceneOff i 0) 63 63 == 1
    || decide (i = 0) && s.cores.any fun p => !p.2.teams.isEmpty

/-- A write of `hbm_split`: refused, or the relocation of the reserved region starts. -/
def writeSplit (s : State) (v : Nat) : State :=
  if 8192 < v % 2 ^ 14 ∨ s.field 0x20 31 31 = 1 ∨ s.anyLive then s.setField 0x20 30 30 1
  else ({ s with splitNext := v % 2 ^ 14 }.setField 0x20 31 30 2).post .hbmSplitRelocateDone

/-- Every slice line written back and dropped, so that memory holds what the copy moves. -/
def settleSlices (s : State) : State :=
  s.dies.foldl (fun (s : State) (d, _) => (s.die d).slices.foldl (fun (s : State) (sl, _) =>
    let s := ((s.slice d sl).misses.flatMap (·.2)).foldl (fun (s : State) r =>
      if r.ap = .cap then s else s.settleLine (s.homeOf r.ap r.off)) s
    let s := (s.slice d sl).lines.foldl (fun (s : State) l => s.writeBack d l) s
    s.setSlice d sl { s.slice d sl with lines := [] }) s) s

/-- The copy of the reserved region is complete: its bytes stand where the new split puts them, and the split applies. -/
def relocate (s : State) : State :=
  let s := s.settleSlices
  let t := ((s.setField 0x20 13 0 s.splitNext).setField 0x20 31 31 0)
  let base := s.reservedBase
  let held := s.hbm.filter fun cell => decide (base ≤ s.hbmOffset cell.1)
  let bad := s.hbmPoison.filter fun k => decide (base ≤ s.hbmOffset k)
  let kept := s.hbm.filter fun cell => decide (t.hbmOffset cell.1 < base)
  let keptBad := s.hbmPoison.filter fun k => decide (t.hbmOffset k < base)
  { t with
    hbm := held.foldl (fun (m : Memory) cell => Mem.set (n := 8) m (t.hbmKey (s.hbmOffset cell.1)) cell.2) kept
    hbmPoison := keptBad ++ bad.map fun k => t.hbmKey (s.hbmOffset k)
    cores := t.cores.map fun p => (p.1, { p.2 with l1 := p.2.l1.filter fun (l : L1Line) => (s.classify l.line).1 ≠ .hbm }) }

end State

/-- HBM_SPLIT_WRITE (R59). -/
def execHbmSplitWrite (v : Word) (s : State) : Host.Outcome State Fault Refusal := .next (s.writeSplit v.toNat)

/-- HBM_SPLIT_RELOCATE_DONE (R59). -/
def execHbmSplitRelocateDone (s : State) : Host.Outcome State Fault Refusal :=
  .next (if s.field 0x20 31 31 = 1 then s.relocate else s)

/-! ### Reset (R400, R405) -/

namespace State

/-- What a reset leaves: the state after reset, with the product, the fuses, the board's flash, the memories outside the package's
control, and what the model itself counts. Memory holds what its slices held, and the reserved region follows `hbm_split` to its reset
value (R404). -/
def afterReset (s : State) : State :=
  let s := if s.field 0x20 13 0 = 8192 then s.settleSlices else ({ s with splitNext := 8192 } : State).relocate
  { reset with
    product := s.product, fused := s.fused, hbm := s.hbm, hbmPoison := s.hbmPoison, cap := s.cap, capPoison := s.capPoison,
    flash := s.flash, attest := s.attest, bars := s.bars, pri := s.pri, hostQ := s.hostQ, noAtomics := s.noAtomics, pin := s.pin,
    boot := { crashUnread := s.boot.crashUnread }, outbox := s.outbox, cc := s.cc, turn := s.turn, free := s.free }

/-- The firmware image: from the board's flash, or from staging (R400 step 2, R404). -/
def firmware (s : State) (staging : Bool) : State × List Byte :=
  if staging then s.readBlock .hbm (s.reservedBase + 2 ^ 29) (codeBytes + bootBytes)
  else (s, (List.range (codeBytes + bootBytes)).map fun i => s.flash.getD i 0)

/-- Bring-up from step 1 to the start of step 4 (R400, R413): the verdict of step 3 is 0, or the error that stops bring-up there.
The firmware version of `dev_ident`, which stands in a header that no rule lays out, is a free value (R395). -/
def bringUp (s : State) (staging : Bool) (verdict : Nat) : State :=
  let s := (s.setStepNo 1).setStepNo 2
  let (s, image) := s.firmware staging
  let s := (s.physical 0).elim s fun root => s.modCore root fun k => k.writeStore codeBase (image.take codeBytes)
  let s := s.setStepNo 3
  if verdict ≠ 0 then s.bootError (verdict % 4)
  else
    match s.physical 0 with
    | none => s.bootError 4
    | some root =>
      let s := s.modCore root fun k => k.placeFirmware 1 (codeBytes / 4096) 1 (wordsOf (image.drop codeBytes))
      let s := { s with boot := { s.boot with running := true }, free := s.free + 1 }.setStepNo 4
      let s := s.setField 0 31 16 ((Config.freeWord (s.free - 1)).toNat % 2 ^ 16)
      s.startSupervisor root 0x00010000

end State

/-- FUNDAMENTAL_RESET (R400): power-on or a PCIe Fundamental Reset. `verdict` is what step 3 finds: 0, or error 1, 2 or 3. -/
def execFundamentalReset (verdict : Nat) (s : State) : Host.Outcome State Fault Refusal :=
  .next (s.afterReset.bringUp false verdict)

/-- SECONDARY_BUS_RESET (R405): recovers the device as a Fundamental Reset does. -/
def execSecondaryBusReset (verdict : Nat) (s : State) : Host.Outcome State Fault Refusal :=
  .next (s.afterReset.bringUp false verdict)

/-- host_cmd op 3: bring-up runs again from the staged image (R396, R400); what step 3 finds in it is free. The command stays busy
until bring-up ends. After a fatal error it starts nothing: only a reset recovers the device (R405). -/
def State.bootStaging (s : State) : State :=
  if s.field 0x30 63 63 = 1 ∨ s.fatal.isSome then s
  else
    let v := (Config.freeWord s.free).toNat % 4
    let cmd := (s.ctlQ 0x30 &&& 0x080000000000ffff) ||| 0xb000000000000000
    (({ s with free := s.free + 1 } : State).afterReset.setCtl 0x30 cmd).bringUp true v

/-- BOOT_FROM_STAGING (R400). -/
def execBootFromStaging (s : State) : Host.Outcome State Fault Refusal := .next s.bootStaging

end Sys2Proof.Machine
end

