-- ==== Sys2Proof/Machine/Control.lean ====
section
/-! DEFINITION. Control flow (R231 to R236), YIELD (R242) and ERET (R343). -/

namespace Sys2Proof.Machine

/-- A target within the current overlay. -/
def Ctx.inOverlay (x : Ctx) (t : BitVec 14) : Word := x.pc.extractLsb' 16 16 ++ (0#2 ++ t)

namespace State

/-- The bundle goes to a PC of its overlay. -/
def jump (s : State) (x : Ctx) (pc : Word) : State :=
  s.modGroup x.core x.gid fun g => g.onLanes x.lanes fun _ t => { t with pc, wait := none }

/-- Some thread of the bundle has no room for a push (R232). -/
def linkFull (s : State) (x : Ctx) : Bool :=
  (lanesOf x.lanes).any fun i => decide (s.linkMax x.core x.gid ≤ (x.g.threads.getD i {}).depth)

/-- Some thread of the bundle has an empty link stack (R232). -/
def linkEmpty (x : Ctx) : Bool := (lanesOf x.lanes).any fun i => (x.g.threads.getD i {}).depth == 0

/-- PopAll (R232): each thread goes on at the logical PC that it pops, leaving and entering copies as R70 states and parking
as R71 states. -/
def popAll (s : State) (x : Ctx) : State :=
  let tops := (lanesOf x.lanes).map fun l => (l, s.linkTop x.core x.gid l)
  let s := s.dropLink x.core x.gid x.lanes
  let targets := tops.foldl (fun a p => if a.contains p.2 then a else a ++ [p.2]) []
  targets.foldl (fun s pc =>
    s.moveTo x.core x.gid (maskOf ((tops.filter fun p => p.2 = pc).map (·.1))) pc .ret) s

end State

/-- A branch: the target when the condition holds, else the next instruction (R231). -/
def branch (i : Instr) (t : BitVec 14) (c : Core → Ctx → Bool) : State → Host.Outcome State Fault Refusal :=
  run i fun x s => if c (s.core x.core) x then .moved (s.jump x (x.inOverlay t)) else .done s

/-- `BR` (R231). -/
def execBr (t : BitVec 14) (s : State) : Host.Outcome State Fault Refusal :=
  branch (.br t) t (fun _ _ => true) s

/-- `BRC` (R231). -/
def execBrc (cc : Cc) (d a : SReg) (t : BitVec 14) (s : State) : Host.Outcome State Fault Refusal :=
  branch (.brc cc d a t) t (fun k x => Alu.cc cc (k.getS x.gid d.toNat) (k.getS x.gid a.toNat)) s

/-- `BRZ` (R231). -/
def execBrz (d : SReg) (t : BitVec 14) (s : State) : Host.Outcome State Fault Refusal :=
  branch (.brz d t) t (fun k x => k.getS x.gid d.toNat == 0) s

/-- `BRNZ` (R231). -/
def execBrnz (d : SReg) (t : BitVec 14) (s : State) : Host.Outcome State Fault Refusal :=
  branch (.brnz d t) t (fun k x => k.getS x.gid d.toNat != 0) s

/-- The condition of BRM over the live lanes of a mask (R231). -/
def brmHolds (c : BrmCond) (mk m0 : Word) : Bool :=
  let x := mk &&& m0
  match c with
  | .any => x != 0
  | .all => x == m0
  | .none => x == 0

/-- `BRM` (R231). -/
def execBrm (c : BrmCond) (k : MReg) (t : BitVec 14) (s : State) : Host.Outcome State Fault Refusal :=
  branch (.brm c k t) t (fun _ x => brmHolds c (x.g.mask k.toNat) x.g.m0) s

/-- Push the return PC on every link stack of the bundle, all or none (R232), then go on. -/
def call (x : Ctx) (s : State) (go : State → State) : Res :=
  if s.linkFull x then prot 7 else .moved (go (s.pushLink x.core x.gid x.lanes fun _ => x.pc + w32 x.len))

/-- A register target whose bits [31:14] are set is refused (R233). -/
def farTarget (a : Word) : Bool := wf32 a 31 14 != 0

/-- `JMPR` (R233). -/
def execJmpr (a : SReg) (s : State) : Host.Outcome State Fault Refusal :=
  run (.jmpr a) (fun x s =>
    let v := (s.core x.core).getS x.gid a.toNat
    if farTarget v then prot 3 v.toNat else .moved (s.jump x (x.inOverlay (v.truncate 14)))) s

/-- `CALL` (R233). -/
def execCall (t : BitVec 14) (s : State) : Host.Outcome State Fault Refusal :=
  run (.call t) (fun x s => call x s fun s => s.jump x (x.inOverlay t)) s

/-- `CALLR` (R233). -/
def execCallr (a : SReg) (s : State) : Host.Outcome State Fault Refusal :=
  run (.callr a) (fun x s =>
    let v := (s.core x.core).getS x.gid a.toNat
    if farTarget v then prot 3 v.toNat else call x s fun s => s.jump x (x.inOverlay (v.truncate 14))) s

/-- CALLO (R234): the push, then the move into the target's copy, or the park on it (R71). -/
def callOverlay (x : Ctx) (s : State) (t : Word) : Res :=
  if wf32 t 15 14 ≠ 0 then prot 3 t.toNat
  else call x s fun s => s.moveTo x.core x.gid x.lanes t (.callo x.pc)

/-- `CALLO`, register form (R234). -/
def execCallo (a : SReg) (s : State) : Host.Outcome State Fault Refusal :=
  run (.callo a) (fun x s => callOverlay x s ((s.core x.core).getS x.gid a.toNat)) s

/-- `CALLO`, literal form (R234). -/
def execCalloLiteral (t : Word) (s : State) : Host.Outcome State Fault Refusal :=
  run (.calloLiteral t) (fun x s => callOverlay x s t) s

/-- `RET` (R233). -/
def execRet (s : State) : Host.Outcome State Fault Refusal :=
  run .ret (fun x s => if State.linkEmpty x then prot 7 else .moved (s.popAll x)) s

/-- `EXIT` (R235): the threads end, their occupancy is withdrawn and their lanes leave m0; GROUP_END follows the last. -/
def execExit (s : State) : Host.Outcome State Fault Refusal :=
  run .exit (fun x s =>
    if x.gid = supGid ∨ (512 ≤ x.gid ∧ x.g.ray.isSome) then prot 7
    else
      let s := s.modGroup x.core x.gid fun g =>
        { g.onLanes x.lanes (fun _ t => { t with live := false, wait := none }) with
          m0 := g.m0 &&& ~~~x.lanes
          ending := (g.m0 &&& ~~~x.lanes) == 0 }
      let s := (s.modCore x.core Core.recount).retryLoads x.core
      .moved (if (s.group x.core x.gid).ending then s.postOnce (.groupEnd x.core x.gid) else s)) s

/-- `ELECT` (R236): the lowest lane of the bundle. -/
def execElect (d : SReg) (s : State) : Host.Outcome State Fault Refusal :=
  run (.elect d) (fun x s => .done (s.writeS x d.toNat (w32 ((lanesOf x.lanes).headD 0)))) s

/-- Other groups of a pipe with a ready uniform thread (R242). -/
def Core.rivals (k : Core) (gid : Nat) : List Nat :=
  (k.groups.filter fun (i, g) => i ≠ gid && pipeOf i = pipeOf gid && (k.ready i g).any (·.uniform)).map (·.1)

/-- `YIELD` (R242, R244). -/
def execYield (s : State) : Host.Outcome State Fault Refusal :=
  run .yield (fun x s =>
    let who := (s.core x.core).rivals x.gid
    let s' := s.advance x
    .moved (if who.isEmpty then s' else s'.pauseAt x (.yield who (s.cc + if x.gid < 512 ∨ x.gid = supGid then 64 else 16)))) s

/-- `ERET` (R343): each thread of the bundle returns to its resume point and stays held; after the last victim in_handler
clears, every held thread is released, and the next pending trap is taken. -/
def execEret (s : State) : Host.Outcome State Fault Refusal :=
  run .eret (fun x s =>
    if ¬ x.g.trap.inHandler ∨ State.linkEmpty x then prot 7
    else
      let s := s.popAll x
      let s := s.modGroup x.core x.gid fun g => g.onLanes x.lanes fun _ t => { t with victim := false, held := true }
      let g := s.group x.core x.gid
      .moved (if g.threads.any (fun t => t.live && t.victim) then s
        else
          let s := s.holdAll x.core x.gid false
          let s := s.modGroup x.core x.gid fun g => { g with trap := { g.trap with inHandler := false } }
          let s := s.enterAgain x.core x.gid
          if s.wantsTrap x.core x.gid then s.postOnce (.boundaryTrapTake x.core x.gid) else s)) s

end Sys2Proof.Machine
end

