-- ==== Sys2Proof/Machine/HostSide.lean ====
section
/-! DEFINITION. What the host does to the device: writes and reads of the control space (R392 to R399), host commands, mailboxes,
attestation (R401), and host-link requests that are not completed in time (R27). -/

namespace Sys2Proof.Machine

namespace State

/-! ### Ownership (R393) -/

/-- The function that owns a context, a launch queue or a mailbox. -/
def contextOwner (s : State) (i : Nat) : Nat := qf (s.ctxQ i 4) 61 56
def queueOwner (s : State) (q : Nat) : Nat := s.contextOwner (s.field (lqOff q 0) 55 48)
def mailOwner (m : Nat) : Nat := if m < 64 then m else 0

/-- A function may access an offset: the PF all of the control space, a VF its own queues, contexts and mailboxes. -/
def mayAccess (s : State) (fn off : Nat) : Bool :=
  fn == 0 ||
  (decide (0x100000 ≤ off ∧ off < 0x102000) && s.queueOwner ((off - 0x100000) / 32) == fn) ||
  (decide (0x110000 ≤ off ∧ off < 0x114000) && s.contextOwner ((off - 0x110000) / 64) == fn) ||
  (decide (0x10000 ≤ off ∧ off < 0x14000) && (off - 0x10000) / 64 == fn)

end State

/-! ### The fields that a plain write changes -/

/-- RW fields of a quadword of the control space that its own event does not decide (R394 and the tables that it names). -/
def plainMask (p : Product) (off : Nat) : Nat :=
  if off = 0x10 then 0xffffff0000000001
  else if off = 0x30 then 0xffff
  else if 0x100 ≤ off ∧ off < 0x300 then 0x8fff
  else if 0x10000 ≤ off ∧ off < 0x14000 then
    (if off % 64 = 32 ∨ off % 64 = 40 then 2 ^ 64 - 1 else if off % 64 = 48 then 0xc00003ff else 0)
  else if 0x100000 ≤ off ∧ off < 0x102000 then
    (if off % 32 = 0 then 0x7fff01ffffffffc0 else if off % 32 = 8 then 0xffff000000000000 else 0)
  else if 0x110000 ≤ off ∧ off < 0x114000 then
    match off % 64 / 8 with
    | 0 => 0x01fffffffffffff8
    | 1 => 0x000001ffff01ffff
    | 2 => 0x01fffffffffff000
    | 3 => 0xffffffff
    | 4 => 0xbf00000ffff00000
    | 6 => 0x01fffffffffffff8
    | 7 => 0x01fffffffffffff0
    | _ => 0
  else if 0x120000 ≤ off ∧ off < 0x121000 then (if off % 16 = 0 then 0xc1fffffffffffff8 else 0xff00000000ffffff)
  else if 0x130000 ≤ off ∧ off < 0x134000 then
    (if 8 ≤ off % 64 ∧ off % 64 < 48 then 2 ^ 64 - 1 else 0)
  else if 0x140000 ≤ off ∧ off < 0x141000 then (if off % 16 = 0 then 0xbfc001fffffff000 else 0xfff800001fffffff)
  else if 0x200000 ≤ off ∧ off < 0x200000 + 0x10000 * p.dies then
    let r := off % 0x10000
    if r = 0 then 0x3fff80fffff
    else if r = 8 then 2 ^ 60 - 1
    else if r = 0x18 then 0x00f0ffff
    else if 0x100 ≤ r ∧ r < 0x300 then
      (if r % 32 = 0 then 0x7fe0ffffffff0000 else if r % 32 = 8 then 0x01fffffffffffff8
       else if r % 32 = 16 then 0x01ffffffffffffc0 else 0xffffffff)
    else 0
  else if 0x600000 ≤ off ∧ off < 0x620000 ∧ p = .module64 then (if off % 16 = 8 then 0xffffffffffffffff else 0)
  else if 0x800000 ≤ off ∧ off < 0x800000 + 1024 * (2 * p.dies) then
    (if off % 64 = 8 then 0xfffffffffffff000 else if off % 64 = 16 then 0xffffffff else 0)
  else 0

/-- The bits of a quadword that an access of 4 or 8 bytes at an offset writes. -/
def writtenBits (off bytes : Nat) : Nat :=
  if bytes = 8 then 2 ^ 64 - 1 else if off % 8 = 4 then 2 ^ 64 - 2 ^ 32 else 2 ^ 32 - 1

namespace State

/-- Take the plain fields of a write. -/
def putPlain (s : State) (off : Nat) (m v : DWord) : State :=
  let p := BitVec.ofNat 64 (plainMask s.product off) &&& m
  if p = 0 then s else s.setCtl off ((s.ctlQ off &&& ~~~p) ||| (v &&& p))

/-! ### Host commands (R396) -/

/-- host_cmd op 4 (R396, R39): the pool size of every present core; refused when some core ignored it. -/
def setPoolAll (s : State) (n : Nat) : State :=
  if s.field 0x30 63 63 = 1 then s
  else
    let s := (s.setField 0x30 62 60 4).setField 0x30 7 0 (n % 128)
    let (s, ok) := s.present.foldl (fun (a : State × Bool) c => let (t, b) := a.1.setPool c (n % 128); (t, a.2 && b)) (s, true)
    s.hostDone (bit !ok)

/-- A write of `host_cmd`; while a command runs it is ignored. -/
def writeHostCmd (s : State) (v : DWord) : State :=
  if s.field 0x30 63 63 = 1 then s
  else
    let s := s.setCtl 0x30 ((s.ctlQ 0x30 &&& 0x0700000000000000) ||| (v &&& 0x780000000000ffff))
    match qf v 62 60 with
    | 1 => s.startHarvest (qf v 15 8) (qf v 59 59 == 1)
    | 2 => s.retireScene (qf v 7 0)
    | 3 => s.bootStaging
    | 4 => s.setPoolAll (qf v 6 0)
    | _ => s

/-! ### Mailboxes (R397) -/

/-- SEND: the message of a mailbox goes to the supervisor or the die agent that its control word names; send clears on acceptance.
Mailbox 0 carries nothing but HELLO before HELLO has been answered. -/
def sendMail (s : State) (m : Nat) : State :=
  let w := s.field (mailOff m 6) 31 0
  let msg := s.mailWords m 32
  if m = 0 ∧ s.mailHello.isNone then s
  else if bits w 30 30 = 1 then
    (if bits w 9 0 < s.product.dies then s.setField (mailOff m 6) 31 31 0 else s)
  else
    match s.physical (bits w 9 0) with
    | none => s
    | some c => if ((s.core c).groups.look supGid).isNone then s else s.ctlTo s.hostCore c 0x80000000 msg 5

/-- The host sets the send bit of a mailbox. -/
def setSend (s : State) (m : Nat) : State :=
  if 256 ≤ m then s else (s.setField (mailOff m 6) 31 31 1).sendMail m

/-- A message for the host (R397): a full mailbox refuses it, and it is tried again; else it fills the mailbox, the function's vector
is raised, and a supervisor's CTLSEND completes. Sources from 1,024 stand for firmware of the device. -/
def mailIn (s : State) (m lcore : Nat) (msg : List Word) : State :=
  if 256 ≤ m then s
  else if s.field (mailOff m 2) 31 31 = 1 then s.post (.mailboxArrival m lcore msg)
  else
    let w := fun i => (msg.getD i 0).toNat
    let s := (s.setCtl (mailOff m 0) (BitVec.ofNat 64 (w 0 + w 1 * 2 ^ 32))).setCtl (mailOff m 1) (BitVec.ofNat 64 (w 2 + w 3 * 2 ^ 32))
    let s := (s.setField (mailOff m 2) 31 31 1).setField (mailOff m 2) 9 0 lcore
    let s := s.emit (if m < 255 then .msix (mailOwner m) (m + 1) else .msix (mailOwner m) 0)
    match (if lcore < 1024 then s.physical lcore else none) with
    | some c => s.ctlDone c
    | none => s

/-- Four free words: an answer of firmware whose words no rule gives. -/
def freeMessage (s : State) : State × List Word := (s.spendFree 4, s.freeWords 4)

/-! ### The control space (R393 to R399) -/

/-- A path or a launch is live (R395): a window entry is armed, or a launch has not completed. -/
def pathOrLaunch (s : State) : Bool :=
  (List.range 256).any (fun i => s.field (winOff i 0) 63 63 == 1) || s.launches.any fun l => l.retired < l.total && !l.failed

/-- What a write does beyond its plain fields: the registers with events of their own, and what other writes set off. `m` are the bits
written, `v` their values and `w` the quadword with them in place. -/
def writeEffect (s : State) (off : Nat) (m v w : DWord) : State :=
  let hit := fun (b : Nat) => m.getLsbD b
  if off = 0 then (if hit 63 ∧ s.pathOrLaunch = false then s.setField 0 63 52 (qf v 63 52) else s)
  else if off = 0x10 then s.senseAlarm
  else if off = 0x20 then (if hit 0 then s.writeSplit (qf v 31 0) else s)
  else if off = 0x28 then
    (if ¬ hit 0 then s else s.setCtl 0x28 ((v &&& 0x3f3f) ||| (if qf v 31 31 = 1 ∧ qf v 13 8 ≠ 0 then 0x80000000 else 0)))
  else if off = 0x30 then (if hit 63 then s.writeHostCmd w else s)
  else if 0x400 ≤ off ∧ off < 0x400 + 8 * s.product.reachPorts then (if hit 28 ∧ qf v 28 28 = 1 then s.retrainReach ((off - 0x400) / 8) else s)
  else if 0x10000 ≤ off ∧ off < 0x14000 then
    let i := (off - 0x10000) / 64
    if off % 64 = 16 then (if hit 31 ∧ qf v 31 31 = 1 then s.setField off 31 31 0 else s)
    else if off % 64 = 48 then (if hit 31 ∧ qf v 31 31 = 1 then s.setSend i else s)
    else s
  else if 0x100000 ≤ off ∧ off < 0x102000 then
    let q := (off - 0x100000) / 32
    if off % 32 = 0 then (if qf w 63 63 = 1 then (if hit 63 then s.enableQueue q w else s) else s.setField off 63 63 0)
    else if off % 32 = 8 then (if hit 0 then s.ringDoorbell q (loWord v) else s)
    else s
  else if 0x110000 ≤ off ∧ off < 0x114000 then
    let i := (off - 0x110000) / 64
    match off % 64 / 8 with
    | 1 => s.cores.foldl (fun (s : State) p => s.recheckQuota p.1) s
    | 4 => if hit 0 ∧ qf v 19 0 ≠ s.field off 19 0 then s.assignPasid i (qf v 19 0) else s
    | 5 => s.writeCover i w
    | _ => s
  else if 0x120000 ≤ off ∧ off < 0x121000 then (if off % 16 = 0 then
      ({ s with retired := s.retired.erase ((off - 0x120000) / 16) } : State).setField (off + 8) 55 48 0 else s)
  else if 0x130000 ≤ off ∧ off < 0x134000 then
    (if off % 64 ≠ 0 then s
     else if qf w 63 63 = 1 then (if hit 63 then s.armWindow ((off - 0x130000) / 64) w else s)
     else s.disarmWindow ((off - 0x130000) / 64) w)
  else if 0x140000 ≤ off ∧ off < 0x141000 then
    -- a receive entry that is cleared serves no path armed before (R132)
    (if off % 16 = 0 ∧ qf w 63 63 = 0 then { s with rxPaths := s.rxPaths.map fun p =>
        if p.rx = (off - 0x140000) / 16 then { p with broken := true } else p } else s)
  else if 0x200000 ≤ off ∧ off < 0x200000 + 0x10000 * s.product.dies then
    let d := (off - 0x200000) / 0x10000
    let r := off % 0x10000
    if r = 0x10 then (if hit 0 then s.writeHedge d (loWord v) else s)
    else if 0x100 ≤ r ∧ r < 0x300 ∧ r % 32 = 0 then (if hit 63 ∧ qf v 63 63 = 0 then s.retireStage d ((r - 0x100) / 32) else s)
    else s
  else if 0x600000 ≤ off ∧ off < 0x620000 then
    (if off % 16 = 0 then s.registerTable ((off - 0x600000) / 4096) ((off - 0x600000) / 16 % 256) w else s)
  else if 0x800000 ≤ off ∧ off < 0x800000 + 2048 * s.product.dies then
    (if off % 64 = 0 then s.configStream ((off - 0x800000) / 1024) ((off - 0x800000) / 64 % 16) w else s)
  else s

/-- Writes that are ignored as a whole: of quadwords 1 to 5 of an armed or busy mapping entry (R125), and of `host_cmd` while a command
runs (R396). -/
def frozen (s : State) (off : Nat) : Bool :=
  off == 0x30 && s.field 0x30 63 63 == 1 || decide (0x130000 ≤ off ∧ off < 0x134000 ∧ off % 64 ≠ 0) &&
    (s.field (off / 64 * 64) 63 63 == 1 || s.field (off / 64 * 64 + 56) 31 0 ≠ 0)

/-- A write of the control space by a function: aligned accesses of 4 or 8 bytes; a VF never writes a function field (R393, R394). -/
def writeControl (s : State) (fn off bytes : Nat) (v : DWord) : State :=
  let at_ := off / 8 * 8
  if ¬ ((bytes = 4 ∨ bytes = 8) ∧ off % bytes = 0 ∧ off < 0x4000000) ∨ s.mayAccess fn off = false ∨ s.frozen at_ then s
  else
    let v := if off % 8 = 4 then v <<< 32 else v
    let m : DWord := BitVec.ofNat 64 (writtenBits off bytes)
    let m := if fn ≠ 0 ∧ 0x110000 ≤ at_ ∧ at_ < 0x114000 ∧ at_ % 64 = 32 then m &&& 0xc0ffffffffffffff else m
    let w := (s.ctlQ at_ &&& ~~~m) ||| (v &&& m)
    (s.putPlain at_ m v).writeEffect at_ m v w

/-- Fields of a quadword that a read clears (R394). -/
def readClears (s : State) (off : Nat) : Nat :=
  if 0x400 ≤ off ∧ off < 0x400 + 8 * s.product.reachPorts then 0xfffff
  else if 0x800 ≤ off ∧ off < 0x900 then 0xff
  else if 0x100000 ≤ off ∧ off < 0x102000 ∧ off % 32 = 16 then 0xffff
  else if 0x130000 ≤ off ∧ off < 0x134000 ∧ off % 64 = 56 then 0xffffffff00000000
  else if 0x140000 ≤ off ∧ off < 0x141000 ∧ off % 16 = 8 then 0x7f800000000
  else if 0x200000 ≤ off ∧ off < 0x200000 + 0x10000 * s.product.dies ∧ off % 0x10000 = 0x20 then 2 ^ 64 - 1
  else 0

/-- The state of the arbiter as the host reads it (R189). -/
def arbRead (s : State) (d q half : Nat) : Nat :=
  let a := s.arb d q
  if half = 0 then a.held % 2 ^ 32 * 2 ^ 32 + ((s.remaining d q).getD 0) % 2 ^ 32
  else ((a.deficit % 2 ^ 48).toNat) * 2 ^ 16

/-- The fields of a stage register that the machine computes: its cores and its occupancy (R197). -/
def stageRead (s : State) (d st : Nat) (q : DWord) : DWord :=
  qset (qset q 52 48 ((s.dieCores d).filter fun c => (s.core c).stage == some st).length) 15 0 (min (s.stageItems d st) 0xffff)

/-- The value of a quadword of the control space, and the state after the read: `core_map` is read from the map table once it has been
published (R413, R417). The reserved bits of a table descriptor and of quadword 1 of a
mapping entry, which its registration and its arm check, read as 0 (R113, R123). -/
def readControl (s : State) (off : Nat) : State × DWord :=
  let q := s.ctlQ off
  let r := off % 0x10000
  let d := (off - 0x200000) / 0x10000
  if 0x20000 ≤ off ∧ off < 0x20000 + 2 * s.product.cores then
    (if s.bootStep < 5 then (s, 0)
     else let (s, bs, _) := s.homeRead .hbm (s.mapBase + (off - 0x20000)) 8; (s, BitVec.ofNat 64 (leNat bs)))
  else if 0x200000 ≤ off ∧ off < 0x200000 + 0x10000 * s.product.dies then
    (if 0x100 ≤ r ∧ r < 0x300 ∧ r % 32 = 0 then (s, s.stageRead d ((r - 0x100) / 32) q)
     else if 0x1000 ≤ r ∧ r < 0x2000 then (s, BitVec.ofNat 64 (s.arbRead d ((r - 0x1000) / 16) (r / 8 % 2)))
     else if 0x2000 ≤ r ∧ r < 0x4000 then (s, BitVec.ofNat 64 ((s.faultQ d ((r - 0x2000) / 16)).getD (r / 8 % 2) 0))
     else (s, q))
  else if 0x600000 ≤ off ∧ off < 0x620000 ∧ off % 16 = 8 then (s, q &&& 0xff000000ffffffff)
  else if 0x130000 ≤ off ∧ off < 0x134000 ∧ off % 64 = 8 then (s, q &&& 0xff0000000fffffff)
  else (s, q)

end State

/-- REGISTER_WRITE (R363, R394): a write of the control space by function `fn`. -/
def execRegisterWrite (fn off bytes : Nat) (v : DWord) (s : State) : Host.Outcome State Fault Refusal :=
  .next (s.writeControl fn off bytes v)

/-- HOST_REGISTER_READ (R393, R394): the quadword, or the word, at an offset; the RC fields that the read covers are cleared, and a
read of dev_status lets bring-up clear the crash area (R405). The size stands in the offset: an access of 4 bytes in the first word of a
quadword is that of offset + 64 MiB. -/
def execHostRegisterRead (fn off : Nat) (s : State) : Host.Outcome State Fault Refusal :=
  let low : Bool := decide (0x4000000 ≤ off)
  let off := if low then off - 0x4000000 else off
  let at_ := off / 8 * 8
  if off % (if low then 8 else 4) ≠ 0 ∨ 0x4000000 ≤ off ∨ s.mayAccess fn off = false then .next (s.emit (.read fn off 0))
  else
    let high : Bool := off % 8 == 4
    let (s, q) := s.readControl at_
    let q := if low then q &&& 0xffffffff else q
    let clear : DWord := BitVec.ofNat 64 (s.readClears at_) &&&
      (if high then 0xffffffff00000000 else if low then 0xffffffff else 0xffffffffffffffff)
    let s := if clear = 0 then s else s.setCtl at_ (s.ctlQ at_ &&& ~~~clear)
    let s := if at_ = 8 then { s with boot := { s.boot with crashUnread := false } } else s
    .next (s.emit (.read fn off (if high then q >>> 32 else q)))

/-- SET_POOL_SIZE (R396): host_cmd op 4. -/
def execSetPoolSize (n : Nat) (s : State) : Host.Outcome State Fault Refusal := .next (s.setPoolAll n)

/-- MAILBOX_SEND (R397). -/
def execMailboxSend (m : Nat) (s : State) : Host.Outcome State Fault Refusal := .next (s.setSend m)

/-- MAILBOX_ARRIVAL (R366, R397). -/
def execMailboxArrival (m lcore : Nat) (msg : Words) (s : State) : Host.Outcome State Fault Refusal := .next (s.mailIn m lcore msg)

/-- HELLO (R397, R407): the highest major version of both sides, at present 1 with minor 0; with none the mailbox stays down. The
words of the answer are free. -/
def execHello (major _minor : Nat) (s : State) : Host.Outcome State Fault Refusal :=
  if major = 0 then .next s
  else
    let (s, msg) := s.freeMessage
    .next (({ s with mailHello := some (1, 0) } : State).mailIn 0 1024 msg)

/-- ATTESTATION (R401): the key index advances before the signature leaves; at 2²⁰ the request is refused through mailbox 0, in
words that are free. Before HELLO has been answered firmware refuses it. The digest of the firmware and the signature, of 2,820 bytes,
are free. -/
def execAttestation (nonce : Words) (s : State) : Host.Outcome State Fault Refusal :=
  if s.mailHello.isNone then .next s
  else if 2 ^ 20 ≤ s.attest then
    let (s, msg) := s.freeMessage
    .next (s.mailIn 0 1024 msg)
  else
    let digest := s.freeWords 8
    let (s, signature) := (s.spendFree 8).freeBytes 2820
    .next (({ s with attest := s.attest + 1 } : State).emit (.attest nonce digest s.attest (s.field 0 31 16) s.fused signature))

/-- HOST_COMPLETION_TIMEOUT (R27, R311): what die d asked of its host link is not completed in time: its bitmap update sets outside,
and the transfer records that wait for the host fail. -/
def execHostCompletionTimeout (d : Nat) (s : State) : Host.Outcome State Fault Refusal :=
  let s := s.failJob d
  .next ((s.dieCores d).foldl (fun (s : State) c => (s.core c).eq.foldl (fun (s : State) p =>
    if p.2.asked ∧ p.2.major = 0x62 then s.failRecord c p.1 else s) s) s)

/-! ### Accesses of the host through the memory apertures (R11, R12, R13, R150) -/

namespace State

/-- A host access can be served: the link of its capacity buffer is not down (R110). -/
def hostReady (s : State) (h : HostAccess) : Bool :=
  match s.classify h.phys with
  | (.cap, off) => !s.targetWaits .cap off
  | _ => true

/-- A host access to a place that the device has not: a read gets an Unsupported Request completion, a posted write nothing. -/
def hostRefuse (s : State) (h : HostAccess) : State :=
  match h.data with
  | none => s.emit (.completion h.tag none false)
  | some _ => s

/-- A HOST ACCESS (none after bring-up has failed, R400): HBM, its reserved region too, and the capacity tier at the home slice, a core store at its core's memory port
(R12, R13, R134, R150). -/
def serveHost (s : State) (h : HostAccess) : State :=
  let access := fun (ap : Ap) (off : Nat) => match h.data with
    | none => let (s, bs, bad) := s.targetRead ap off h.len; s.emit (.completion h.tag (some bs) bad)
    | some bs => s.targetWrite ap off bs
  if s.field 8 23 16 ≠ 0 then s.hostRefuse h
  else
  match s.classify h.phys with
  | (.hbm, off) => if off + max h.len (h.data.map List.length |>.getD 0) ≤ s.product.hbmBytes then access .hbm off else s.hostRefuse h
  | (.cap, off) => if s.offline (off / 2 ^ 39) ∧ h.data.isSome then s else access .cap off
  | (.store, off) => if (s.storeTarget off).isSome then access .store off else s.hostRefuse h
  | (.window, _) | (.control, _) | (.outside, _) => s.hostRefuse h

/-- The oldest host access, when it can be served, and those behind it. -/
def nextHost (s : State) : Option State :=
  match s.hostQ with
  | [] => none
  | h :: rest => if s.hostReady h then some (({ s with hostQ := rest } : State).serveHost h) else none

/-- A write of the control space by the host, which stands behind its earlier accesses (R149). -/
def hostWrite : Instr → Bool
  | .registerWrite .. | .launchQueueDoorbell .. => true
  | _ => false

/-- The oldest event, and those that are left: while accesses of the host wait, its writes of the control space wait behind them
(R149). -/
def nextEvent (s : State) : Option (Instr × List Instr) :=
  match s.agenda.zipIdx.find? fun p => s.hostQ.isEmpty || !hostWrite p.1 with
  | some (e, i) => some (e, s.agenda.eraseIdx i)
  | none => none

end State

end Sys2Proof.Machine
end

