-- ==== Sys2Proof/Machine/Uniform.lean ====
section
/-! DEFINITION. Uniform integer and logic instructions (R225 to R230). -/

namespace Sys2Proof.Machine

/-- The form of R227: sD from the old sD, sA and the second operand. -/
def uniMap (i : Instr) (d a : SReg) (b : USrc) (f : Word → Word → Word → Word) : State → Host.Outcome State Fault Refusal :=
  run i fun x s =>
    let k := s.core x.core
    .done (s.writeS x d.toNat (f (k.getS x.gid d.toNat) (k.getS x.gid a.toNat) (k.usrc x.gid b)))

/-- The logic form of R229, over s and m registers. -/
def logicMap (i : Instr) (d a : XReg) (b : XSrc) (f : Word → Word → Word) : State → Host.Outcome State Fault Refusal :=
  run i fun x s =>
    let k := s.core x.core
    .done (s.writeX x d (f (k.xreg x.g x.gid a) (k.xsrc x.g x.gid b)))

/-- `ADD` (R227, R228). -/
def execAddUniform (d a : SReg) (b : USrc) (s : State) : Host.Outcome State Fault Refusal :=
  uniMap (.addUniform d a b) d a b (fun _ a b => a + b) s

/-- `SUB` (R227, R228). -/
def execSubUniform (d a : SReg) (b : USrc) (s : State) : Host.Outcome State Fault Refusal :=
  uniMap (.subUniform d a b) d a b (fun _ a b => a - b) s

/-- `MUL` (R227, R228). -/
def execMulUniform (d a : SReg) (b : USrc) (s : State) : Host.Outcome State Fault Refusal :=
  uniMap (.mulUniform d a b) d a b (fun _ a b => a * b) s

/-- `MULHI` (R227, R228). -/
def execMulhiUniform (d a : SReg) (b : USrc) (s : State) : Host.Outcome State Fault Refusal :=
  uniMap (.mulhiUniform d a b) d a b (fun _ a b => Alu.mulhi a b) s

/-- `MULHU` (R227, R228). -/
def execMulhuUniform (d a : SReg) (b : USrc) (s : State) : Host.Outcome State Fault Refusal :=
  uniMap (.mulhuUniform d a b) d a b (fun _ a b => Alu.mulhu a b) s

/-- `DIV` (R227, R228). -/
def execDiv (d a : SReg) (b : USrc) (s : State) : Host.Outcome State Fault Refusal :=
  uniMap (.div d a b) d a b (fun _ a b => Alu.div a b) s

/-- `DIVU` (R227, R228). -/
def execDivu (d a : SReg) (b : USrc) (s : State) : Host.Outcome State Fault Refusal :=
  uniMap (.divu d a b) d a b (fun _ a b => Alu.divu a b) s

/-- `REM` (R227, R228). -/
def execRem (d a : SReg) (b : USrc) (s : State) : Host.Outcome State Fault Refusal :=
  uniMap (.rem d a b) d a b (fun _ a b => Alu.rem a b) s

/-- `REMU` (R227, R228). -/
def execRemu (d a : SReg) (b : USrc) (s : State) : Host.Outcome State Fault Refusal :=
  uniMap (.remu d a b) d a b (fun _ a b => Alu.remu a b) s

/-- `SHL` (R227, R228). -/
def execShlUniform (d a : SReg) (b : USrc) (s : State) : Host.Outcome State Fault Refusal :=
  uniMap (.shlUniform d a b) d a b (fun _ a b => Alu.shl a b) s

/-- `SHR` (R227, R228). -/
def execShrUniform (d a : SReg) (b : USrc) (s : State) : Host.Outcome State Fault Refusal :=
  uniMap (.shrUniform d a b) d a b (fun _ a b => Alu.shr a b) s

/-- `SAR` (R227, R228). -/
def execSarUniform (d a : SReg) (b : USrc) (s : State) : Host.Outcome State Fault Refusal :=
  uniMap (.sarUniform d a b) d a b (fun _ a b => Alu.sar a b) s

/-- `MIN` (R227, R228). -/
def execMinUniform (d a : SReg) (b : USrc) (s : State) : Host.Outcome State Fault Refusal :=
  uniMap (.minUniform d a b) d a b (fun _ a b => Alu.min a b) s

/-- `MINU` (R227, R228). -/
def execMinuUniform (d a : SReg) (b : USrc) (s : State) : Host.Outcome State Fault Refusal :=
  uniMap (.minuUniform d a b) d a b (fun _ a b => Alu.minu a b) s

/-- `MAX` (R227, R228). -/
def execMaxUniform (d a : SReg) (b : USrc) (s : State) : Host.Outcome State Fault Refusal :=
  uniMap (.maxUniform d a b) d a b (fun _ a b => Alu.max a b) s

/-- `MAXU` (R227, R228). -/
def execMaxuUniform (d a : SReg) (b : USrc) (s : State) : Host.Outcome State Fault Refusal :=
  uniMap (.maxuUniform d a b) d a b (fun _ a b => Alu.maxu a b) s

/-- `SEL` (R229). -/
def execSelUniform (d a : SReg) (b : USrc) (s : State) : Host.Outcome State Fault Refusal :=
  uniMap (.selUniform d a b) d a b (fun d a b => if d = 0 then b else a) s

/-- `BFX` (R229). -/
def execBfxUniform (d a : SReg) (b : USrc) (s : State) : Host.Outcome State Fault Refusal :=
  uniMap (.bfxUniform d a b) d a b (fun _ a b => Alu.bfx a b) s

/-- `BFI` (R229). -/
def execBfiUniform (d a : SReg) (b : USrc) (s : State) : Host.Outcome State Fault Refusal :=
  uniMap (.bfiUniform d a b) d a b (fun d a b => Alu.bfi d a b) s

/-- `CMP` (R229). -/
def execCmpUniform (cc : Cc) (d a : SReg) (b : USrc) (s : State) : Host.Outcome State Fault Refusal :=
  uniMap (.cmpUniform cc d a b) d a b (fun _ a b => w32 (bit (Alu.cc cc a b))) s

/-- `AND` (R227, R229). -/
def execAndUniform (d a : XReg) (b : XSrc) (s : State) : Host.Outcome State Fault Refusal :=
  logicMap (.andUniform d a b) d a b (fun a b => a &&& b) s

/-- `OR` (R227, R229). -/
def execOrUniform (d a : XReg) (b : XSrc) (s : State) : Host.Outcome State Fault Refusal :=
  logicMap (.orUniform d a b) d a b (fun a b => a ||| b) s

/-- `XOR` (R227, R229). -/
def execXorUniform (d a : XReg) (b : XSrc) (s : State) : Host.Outcome State Fault Refusal :=
  logicMap (.xorUniform d a b) d a b (fun a b => a ^^^ b) s

/-- `CLZ` (R229). -/
def execClzUniform (d : SReg) (a : XReg) (s : State) : Host.Outcome State Fault Refusal :=
  logicMap (.clzUniform d a) (.s d) a (.lit 0) (fun a _ => Alu.clz a) s

/-- `POPC` (R229). -/
def execPopcUniform (d : SReg) (a : XReg) (s : State) : Host.Outcome State Fault Refusal :=
  logicMap (.popcUniform d a) (.s d) a (.lit 0) (fun a _ => Alu.popc a) s

/-- `ADDI` (R227): imm11 sign-extended. -/
def execAddi (d a : SReg) (i : BitVec 11) (s : State) : Host.Outcome State Fault Refusal :=
  uniMap (.addi d a i) d a (.lit (i.signExtend 32)) (fun _ a b => a + b) s

/-- `ANDI` (R227): imm11 sign-extended. -/
def execAndi (d a : SReg) (i : BitVec 11) (s : State) : Host.Outcome State Fault Refusal :=
  uniMap (.andi d a i) d a (.lit (i.signExtend 32)) (fun _ a b => a &&& b) s

/-- `ORI` (R227): imm11 sign-extended. -/
def execOri (d a : SReg) (i : BitVec 11) (s : State) : Host.Outcome State Fault Refusal :=
  uniMap (.ori d a i) d a (.lit (i.signExtend 32)) (fun _ a b => a ||| b) s

/-- `XORI` (R227): imm11 sign-extended. -/
def execXori (d a : SReg) (i : BitVec 11) (s : State) : Host.Outcome State Fault Refusal :=
  uniMap (.xori d a i) d a (.lit (i.signExtend 32)) (fun _ a b => a ^^^ b) s

/-- `SHLI` (R227): imm11 zero-extended. -/
def execShli (d a : SReg) (i : BitVec 11) (s : State) : Host.Outcome State Fault Refusal :=
  uniMap (.shli d a i) d a (.lit (i.zeroExtend 32)) (fun _ a b => Alu.shl a b) s

/-- `SHRI` (R227): imm11 zero-extended. -/
def execShri (d a : SReg) (i : BitVec 11) (s : State) : Host.Outcome State Fault Refusal :=
  uniMap (.shri d a i) d a (.lit (i.zeroExtend 32)) (fun _ a b => Alu.shr a b) s

/-- `SARI` (R227): imm11 zero-extended. -/
def execSari (d a : SReg) (i : BitVec 11) (s : State) : Host.Outcome State Fault Refusal :=
  uniMap (.sari d a i) d a (.lit (i.zeroExtend 32)) (fun _ a b => Alu.sar a b) s

/-- `MOV` (R229): s and m registers, or an even pair and an awl register, whose reserved bits a write discards (R51). -/
def execMovUniform (f : MovForm) (s : State) : Host.Outcome State Fault Refusal :=
  run (.movUniform f) (fun x s =>
    let k := s.core x.core
    match f with
    | .reg d a => .done (s.writeX x d (k.xreg x.g x.gid a))
    | .toAwl b p =>
      .done (s.modGroup x.core x.gid fun g => { g with awl := g.awl.set b.toNat (k.getS64 x.gid p.toNat &&& awlMask) })
    | .fromAwl p b =>
      let q := x.g.awl.getD b.toNat 0
      .done (s.writeSs x p.toNat [loWord q, hiWord q])) s

/-- `MOVI` (R229): imm17 sign-extended, or the literal. -/
def execMoviUniform (d : SReg) (i : Imm17) (s : State) : Host.Outcome State Fault Refusal :=
  run (.moviUniform d i) (fun x s =>
    .done (s.writeS x d.toNat (match i with
      | .short i => i.signExtend 32
      | .lit w => w))) s

/-- `MOVHI` (R229): the high half; the low half is unchanged. -/
def execMovhi (d : SReg) (i : BitVec 16) (s : State) : Host.Outcome State Fault Refusal :=
  run (.movhi d i) (fun x s =>
    .done (s.writeS x d.toNat (i ++ ((s.core x.core).getS x.gid d.toNat).extractLsb' 0 16))) s

/-- `RDLANE` (R230): the element of lane b[4:0], whether or not its thread is live. -/
def execRdlane (d : SReg) (a : VReg) (b : USrc) (s : State) : Host.Outcome State Fault Refusal :=
  run (.rdlane d a b) (fun x s =>
    let k := s.core x.core
    if x.gid = supGid ∧ a.toNat < 16 then
      .done (({ s with free := s.free + 1 } : State).writeS x d.toNat (Config.freeWord s.free))
    else .done (s.writeS x d.toNat (k.getV x.g x.gid a.toNat (wf32 (k.usrc x.gid b) 4 0)))) s

/-- `NOP` (R236): only the PC changes. -/
def execNop (s : State) : Host.Outcome State Fault Refusal :=
  run .nop (fun _ s => .done s) s

end Sys2Proof.Machine
end

