-- ==== Sys2Proof/Machine/Dispatch.lean ====
section
/-! DEFINITION. The dispatch: one arm for each row of the opcode table. -/

namespace Sys2Proof.Machine

/-- Perform one instruction or one event. -/
def exec (i : Instr) (s : State) : Host.Outcome State Fault Refusal :=
  match i with
  | .addLane m d a b => Sys2Proof.Machine.execAddLane m d a b s
  | .subLane m d a b => Sys2Proof.Machine.execSubLane m d a b s
  | .mulLane m d a b => Sys2Proof.Machine.execMulLane m d a b s
  | .mulhiLane m d a b => Sys2Proof.Machine.execMulhiLane m d a b s
  | .mulhuLane m d a b => Sys2Proof.Machine.execMulhuLane m d a b s
  | .mad m d a b => Sys2Proof.Machine.execMad m d a b s
  | .abs m d a => Sys2Proof.Machine.execAbs m d a s
  | .neg m d a => Sys2Proof.Machine.execNeg m d a s
  | .andLane m d a b => Sys2Proof.Machine.execAndLane m d a b s
  | .orLane m d a b => Sys2Proof.Machine.execOrLane m d a b s
  | .xorLane m d a b => Sys2Proof.Machine.execXorLane m d a b s
  | .shlLane m d a b => Sys2Proof.Machine.execShlLane m d a b s
  | .shrLane m d a b => Sys2Proof.Machine.execShrLane m d a b s
  | .sarLane m d a b => Sys2Proof.Machine.execSarLane m d a b s
  | .minLane m d a b => Sys2Proof.Machine.execMinLane m d a b s
  | .minuLane m d a b => Sys2Proof.Machine.execMinuLane m d a b s
  | .maxLane m d a b => Sys2Proof.Machine.execMaxLane m d a b s
  | .maxuLane m d a b => Sys2Proof.Machine.execMaxuLane m d a b s
  | .cmpLane m cc md a b => Sys2Proof.Machine.execCmpLane m cc md a b s
  | .selLane m d a b => Sys2Proof.Machine.execSelLane m d a b s
  | .movLane m d a => Sys2Proof.Machine.execMovLane m d a s
  | .moviLane m d ix => Sys2Proof.Machine.execMoviLane m d ix s
  | .clzLane m d a => Sys2Proof.Machine.execClzLane m d a s
  | .popcLane m d a => Sys2Proof.Machine.execPopcLane m d a s
  | .bfxLane m d a b => Sys2Proof.Machine.execBfxLane m d a b s
  | .bfiLane m d a b => Sys2Proof.Machine.execBfiLane m d a b s
  | .fadd m d a b => Sys2Proof.Machine.execFadd m d a b s
  | .fsub m d a b => Sys2Proof.Machine.execFsub m d a b s
  | .fmul m d a b => Sys2Proof.Machine.execFmul m d a b s
  | .ffma m d a b => Sys2Proof.Machine.execFfma m d a b s
  | .fmin m d a b => Sys2Proof.Machine.execFmin m d a b s
  | .fmax m d a b => Sys2Proof.Machine.execFmax m d a b s
  | .fcmp m cc md a b => Sys2Proof.Machine.execFcmp m cc md a b s
  | .frcp m d a => Sys2Proof.Machine.execFrcp m d a s
  | .frsq m d a => Sys2Proof.Machine.execFrsq m d a s
  | .fex2 m d a => Sys2Proof.Machine.execFex2 m d a s
  | .flg2 m d a => Sys2Proof.Machine.execFlg2 m d a s
  | .fsqrt m d a => Sys2Proof.Machine.execFsqrt m d a s
  | .fdiv m d a b => Sys2Proof.Machine.execFdiv m d a b s
  | .hadd2 m d a b => Sys2Proof.Machine.execHadd2 m d a b s
  | .hmul2 m d a b => Sys2Proof.Machine.execHmul2 m d a b s
  | .hfma2 m d a b => Sys2Proof.Machine.execHfma2 m d a b s
  | .hadd2Bf m d a b => Sys2Proof.Machine.execHadd2Bf m d a b s
  | .hmul2Bf m d a b => Sys2Proof.Machine.execHmul2Bf m d a b s
  | .hfma2Bf m d a b => Sys2Proof.Machine.execHfma2Bf m d a b s
  | .fcvt m d a dst src r => Sys2Proof.Machine.execFcvt m d a dst src r s
  | .shfl m mode d a b => Sys2Proof.Machine.execShfl m mode d a b s
  | .vote m mode d a => Sys2Proof.Machine.execVote m mode d a s
  | .redg m op d a => Sys2Proof.Machine.execRedg m op d a s
  | .scan m op d a => Sys2Proof.Machine.execScan m op d a s
  | .topk m nz d a k => Sys2Proof.Machine.execTopk m nz d a k s
  | .raysendLane m a => Sys2Proof.Machine.execRaysendLane m a s
  | .spawnLane m a b => Sys2Proof.Machine.execSpawnLane m a b s
  | .qapp m d a sc o off => Sys2Proof.Machine.execQapp m d a sc o off s
  | .pref m kind a off => Sys2Proof.Machine.execPref m kind a off s
  | .ld m d a w off => Sys2Proof.Machine.execLd m d a w off s
  | .st m d a w off => Sys2Proof.Machine.execSt m d a w off s
  | .ldlLane m d a w off => Sys2Proof.Machine.execLdlLane m d a w off s
  | .stlLane m d a w off => Sys2Proof.Machine.execStlLane m d a w off s
  | .ldp m d a w off => Sys2Proof.Machine.execLdp m d a w off s
  | .stp m d a w off => Sys2Proof.Machine.execStp m d a w off s
  | .ldb m d k nm1 sx => Sys2Proof.Machine.execLdb m d k nm1 sx s
  | .stb m d k nm1 => Sys2Proof.Machine.execStb m d k nm1 s
  | .atomLane m sp op d a sc o off => Sys2Proof.Machine.execAtomLane m sp op d a sc o off s
  | .casLane m sp d a sc o off => Sys2Proof.Machine.execCasLane m sp d a sc o off s
  | .atomExchLane m sp d a sc o off => Sys2Proof.Machine.execAtomExchLane m sp d a sc o off s
  | .bdot m f d a b bsel => Sys2Proof.Machine.execBdot m f d a b bsel s
  | .bscl m f d a b bsel => Sys2Proof.Machine.execBscl m f d a b bsel s
  | .qnt m f d a b bsel r => Sys2Proof.Machine.execQnt m f d a b bsel r s
  | .deq m f d a b bsel => Sys2Proof.Machine.execDeq m f d a b bsel s
  | .nop => Sys2Proof.Machine.execNop s
  | .addUniform d a b => Sys2Proof.Machine.execAddUniform d a b s
  | .subUniform d a b => Sys2Proof.Machine.execSubUniform d a b s
  | .mulUniform d a b => Sys2Proof.Machine.execMulUniform d a b s
  | .mulhiUniform d a b => Sys2Proof.Machine.execMulhiUniform d a b s
  | .mulhuUniform d a b => Sys2Proof.Machine.execMulhuUniform d a b s
  | .div d a b => Sys2Proof.Machine.execDiv d a b s
  | .divu d a b => Sys2Proof.Machine.execDivu d a b s
  | .rem d a b => Sys2Proof.Machine.execRem d a b s
  | .remu d a b => Sys2Proof.Machine.execRemu d a b s
  | .andUniform d a b => Sys2Proof.Machine.execAndUniform d a b s
  | .orUniform d a b => Sys2Proof.Machine.execOrUniform d a b s
  | .xorUniform d a b => Sys2Proof.Machine.execXorUniform d a b s
  | .shlUniform d a b => Sys2Proof.Machine.execShlUniform d a b s
  | .shrUniform d a b => Sys2Proof.Machine.execShrUniform d a b s
  | .sarUniform d a b => Sys2Proof.Machine.execSarUniform d a b s
  | .minUniform d a b => Sys2Proof.Machine.execMinUniform d a b s
  | .minuUniform d a b => Sys2Proof.Machine.execMinuUniform d a b s
  | .maxUniform d a b => Sys2Proof.Machine.execMaxUniform d a b s
  | .maxuUniform d a b => Sys2Proof.Machine.execMaxuUniform d a b s
  | .cmpUniform cc d a b => Sys2Proof.Machine.execCmpUniform cc d a b s
  | .selUniform d a b => Sys2Proof.Machine.execSelUniform d a b s
  | .movUniform f => Sys2Proof.Machine.execMovUniform f s
  | .moviUniform d ix => Sys2Proof.Machine.execMoviUniform d ix s
  | .clzUniform d a => Sys2Proof.Machine.execClzUniform d a s
  | .popcUniform d a => Sys2Proof.Machine.execPopcUniform d a s
  | .bfxUniform d a b => Sys2Proof.Machine.execBfxUniform d a b s
  | .bfiUniform d a b => Sys2Proof.Machine.execBfiUniform d a b s
  | .rdlane d a b => Sys2Proof.Machine.execRdlane d a b s
  | .movhi d ix => Sys2Proof.Machine.execMovhi d ix s
  | .addi d a ix => Sys2Proof.Machine.execAddi d a ix s
  | .andi d a ix => Sys2Proof.Machine.execAndi d a ix s
  | .ori d a ix => Sys2Proof.Machine.execOri d a ix s
  | .xori d a ix => Sys2Proof.Machine.execXori d a ix s
  | .shli d a ix => Sys2Proof.Machine.execShli d a ix s
  | .shri d a ix => Sys2Proof.Machine.execShri d a ix s
  | .sari d a ix => Sys2Proof.Machine.execSari d a ix s
  | .br t => Sys2Proof.Machine.execBr t s
  | .brc cc d a t => Sys2Proof.Machine.execBrc cc d a t s
  | .brz d t => Sys2Proof.Machine.execBrz d t s
  | .brnz d t => Sys2Proof.Machine.execBrnz d t s
  | .brm c k t => Sys2Proof.Machine.execBrm c k t s
  | .jmpr a => Sys2Proof.Machine.execJmpr a s
  | .call t => Sys2Proof.Machine.execCall t s
  | .callr a => Sys2Proof.Machine.execCallr a s
  | .ret => Sys2Proof.Machine.execRet s
  | .callo a => Sys2Proof.Machine.execCallo a s
  | .calloLiteral t => Sys2Proof.Machine.execCalloLiteral t s
  | .exit => Sys2Proof.Machine.execExit s
  | .elect d => Sys2Proof.Machine.execElect d s
  | .ovld d id => Sys2Proof.Machine.execOvld d id s
  | .ovwait a => Sys2Proof.Machine.execOvwait a s
  | .ovrel a => Sys2Proof.Machine.execOvrel a s
  | .ovqry d id => Sys2Proof.Machine.execOvqry d id s
  | .bara blk d a => Sys2Proof.Machine.execBara blk d a s
  | .barw blk a b => Sys2Proof.Machine.execBarw blk a b s
  | .fence sc => Sys2Proof.Machine.execFence sc s
  | .waitc sc a b => Sys2Proof.Machine.execWaitc sc a b s
  | .yield => Sys2Proof.Machine.execYield s
  | .xacq k => Sys2Proof.Machine.execXacq k s
  | .xrel k => Sys2Proof.Machine.execXrel k s
  | .halt => Sys2Proof.Machine.execHalt s
  | .ctlsend a b => Sys2Proof.Machine.execCtlsend a b s
  | .ctlrecv d => Sys2Proof.Machine.execCtlrecv d s
  | .lds d a w off => Sys2Proof.Machine.execLds d a w off s
  | .sts d a w off => Sys2Proof.Machine.execSts d a w off s
  | .ldlUniform d a w off => Sys2Proof.Machine.execLdlUniform d a w off s
  | .stlUniform d a w off => Sys2Proof.Machine.execStlUniform d a w off s
  | .atomUniform sp op d a sc o off => Sys2Proof.Machine.execAtomUniform sp op d a sc o off s
  | .casUniform sp d a sc o off => Sys2Proof.Machine.execCasUniform sp d a sc o off s
  | .atomExchUniform sp d a sc o off => Sys2Proof.Machine.execAtomExchUniform sp d a sc o off s
  | .cpy e => Sys2Proof.Machine.execCpy e s
  | .cpysl e => Sys2Proof.Machine.execCpysl e s
  | .chain e => Sys2Proof.Machine.execChain e s
  | .cbwaitProd d a n => Sys2Proof.Machine.execCbwaitProd d a n s
  | .cbwaitCons d a n => Sys2Proof.Machine.execCbwaitCons d a n s
  | .cbrelProd a n => Sys2Proof.Machine.execCbrelProd a n s
  | .cbrelCons a n => Sys2Proof.Machine.execCbrelCons a n s
  | .get e => Sys2Proof.Machine.execGet e s
  | .put e => Sys2Proof.Machine.execPut e s
  | .bagq e => Sys2Proof.Machine.execBagq e s
  | .mma c e => Sys2Proof.Machine.execMma c e s
  | .accld e => Sys2Proof.Machine.execAccld e s
  | .accst e => Sys2Proof.Machine.execAccst e s
  | .rfence sc => Sys2Proof.Machine.execRfence sc s
  | .raysendUniform a => Sys2Proof.Machine.execRaysendUniform a s
  | .rayrecv d => Sys2Proof.Machine.execRayrecv d s
  | .rayfwd n a b => Sys2Proof.Machine.execRayfwd n a b s
  | .hitsend a b => Sys2Proof.Machine.execHitsend a b s
  | .rayend b => Sys2Proof.Machine.execRayend b s
  | .boxt d a b => Sys2Proof.Machine.execBoxt d a b s
  | .trit d a b => Sys2Proof.Machine.execTrit d a b s
  | .rxf d a b => Sys2Proof.Machine.execRxf d a b s
  | .spawnUniform a b => Sys2Proof.Machine.execSpawnUniform a b s
  | .collAg e => Sys2Proof.Machine.execCollAg e s
  | .collRs e => Sys2Proof.Machine.execCollRs e s
  | .collA2a e => Sys2Proof.Machine.execCollA2a e s
  | .collBar e => Sys2Proof.Machine.execCollBar e s
  | .trap code => Sys2Proof.Machine.execTrap code s
  | .eret => Sys2Proof.Machine.execEret s
  | .rdsr d n => Sys2Proof.Machine.execRdsr d n s
  | .wrsr n a => Sys2Proof.Machine.execWrsr n a s
  | .drainst => Sys2Proof.Machine.execDrainst s
  | .termg a => Sys2Proof.Machine.execTermg a s
  | .undefinedEncoding w lit => Sys2Proof.Machine.execUndefinedEncoding w lit s
  | .seedWrite v => Sys2Proof.Machine.execSeedWrite v s
  | .arithWrite v => Sys2Proof.Machine.execArithWrite v s
  | .storeMapWrite v => Sys2Proof.Machine.execStoreMapWrite v s
  | .srpop v => Sys2Proof.Machine.execSrpop v s
  | .gresume v => Sys2Proof.Machine.execGresume v s
  | .sfpop v => Sys2Proof.Machine.execSfpop v s
  | .registerWrite fn off bytes v => Sys2Proof.Machine.execRegisterWrite fn off bytes v s
  | .launchQueueDoorbell q v => Sys2Proof.Machine.execLaunchQueueDoorbell q v s
  | .launchQueueEnable q qw0 => Sys2Proof.Machine.execLaunchQueueEnable q qw0 s
  | .launchRecordFetch q => Sys2Proof.Machine.execLaunchRecordFetch q s
  | .teamInitRead q => Sys2Proof.Machine.execTeamInitRead q s
  | .blockDistribution q => Sys2Proof.Machine.execBlockDistribution q s
  | .placementOpportunity d => Sys2Proof.Machine.execPlacementOpportunity d s
  | .granuleReclaim c g => Sys2Proof.Machine.execGranuleReclaim c g s
  | .reservationTimer d q => Sys2Proof.Machine.execReservationTimer d q s
  | .budgetExpiry d q => Sys2Proof.Machine.execBudgetExpiry d q s
  | .teamSave d blk => Sys2Proof.Machine.execTeamSave d blk s
  | .groupEnd c gid => Sys2Proof.Machine.execGroupEnd c gid s
  | .stageRetire d st => Sys2Proof.Machine.execStageRetire d st s
  | .itemEnqueue d st item => Sys2Proof.Machine.execItemEnqueue d st item s
  | .stageGovernorPeriod d => Sys2Proof.Machine.execStageGovernorPeriod d s
  | .clickerTake c => Sys2Proof.Machine.execClickerTake c s
  | .shadeWordRead c => Sys2Proof.Machine.execShadeWordRead c s
  | .clickWaitExpiry c slot => Sys2Proof.Machine.execClickWaitExpiry c slot s
  | .formedGroupLaunch c => Sys2Proof.Machine.execFormedGroupLaunch c s
  | .xacqTimeout c gid => Sys2Proof.Machine.execXacqTimeout c gid s
  | .xacqDeadlockDetect c => Sys2Proof.Machine.execXacqDeadlockDetect c s
  | .barrierNotify c ctx va => Sys2Proof.Machine.execBarrierNotify c ctx va s
  | .boundaryTrapTake c gid => Sys2Proof.Machine.execBoundaryTrapTake c gid s
  | .supervisorTrap c cause => Sys2Proof.Machine.execSupervisorTrap c cause s
  | .translationRequest c op lane => Sys2Proof.Machine.execTranslationRequest c op lane s
  | .atsCompletion d ix g => Sys2Proof.Machine.execAtsCompletion d ix g s
  | .atsTimeout d ix => Sys2Proof.Machine.execAtsTimeout d ix s
  | .priResponse d ix code => Sys2Proof.Machine.execPriResponse d ix code s
  | .operandLogReplay c ix => Sys2Proof.Machine.execOperandLogReplay c ix s
  | .priDisable => Sys2Proof.Machine.execPriDisable s
  | .atsInvalidation tag pasid va size => Sys2Proof.Machine.execAtsInvalidation tag pasid va size s
  | .invalidationComplete tag => Sys2Proof.Machine.execInvalidationComplete tag s
  | .contextPasidAssign ix pasid => Sys2Proof.Machine.execContextPasidAssign ix pasid s
  | .dirtyLogMerge c => Sys2Proof.Machine.execDirtyLogMerge c s
  | .bitmapCasCompletion d r => Sys2Proof.Machine.execBitmapCasCompletion d r s
  | .bitmapEnableWrite ix qw5 => Sys2Proof.Machine.execBitmapEnableWrite ix qw5 s
  | .harvest ctx rearm => Sys2Proof.Machine.execHarvest ctx rearm s
  | .harvestComplete => Sys2Proof.Machine.execHarvestComplete s
  | .retireScene scene => Sys2Proof.Machine.execRetireScene scene s
  | .sceneRetireComplete scene => Sys2Proof.Machine.execSceneRetireComplete scene s
  | .bootFromStaging => Sys2Proof.Machine.execBootFromStaging s
  | .setPoolSize n => Sys2Proof.Machine.execSetPoolSize n s
  | .hbmSplitWrite v => Sys2Proof.Machine.execHbmSplitWrite v s
  | .hbmSplitRelocateDone => Sys2Proof.Machine.execHbmSplitRelocateDone s
  | .storeBufferDrain c pipe ix => Sys2Proof.Machine.execStoreBufferDrain c pipe ix s
  | .sliceRequest d sl => Sys2Proof.Machine.execSliceRequest d sl s
  | .sliceFill d sl ix => Sys2Proof.Machine.execSliceFill d sl ix s
  | .capacityWriteAccept d sl => Sys2Proof.Machine.execCapacityWriteAccept d sl s
  | .loadReply c op lane => Sys2Proof.Machine.execLoadReply c op lane s
  | .l1Fill c ix => Sys2Proof.Machine.execL1Fill c ix s
  | .coreStoreApertureAccess c => Sys2Proof.Machine.execCoreStoreApertureAccess c s
  | .remoteSubbyteStore c addr n v => Sys2Proof.Machine.execRemoteSubbyteStore c addr n v s
  | .patrolScrub c => Sys2Proof.Machine.execPatrolScrub c s
  | .overlayPlacement c => Sys2Proof.Machine.execOverlayPlacement c s
  | .overlayLoadComplete c ld => Sys2Proof.Machine.execOverlayLoadComplete c ld s
  | .overlayLoadFail c ld cause info => Sys2Proof.Machine.execOverlayLoadFail c ld cause info s
  | .overlayExhaustion c => Sys2Proof.Machine.execOverlayExhaustion c s
  | .quotaRecheck c => Sys2Proof.Machine.execQuotaRecheck c s
  | .rayArrival c ray => Sys2Proof.Machine.execRayArrival c ray s
  | .directoryRayArrival d fwd ray => Sys2Proof.Machine.execDirectoryRayArrival d fwd ray s
  | .indexEntryRead d tid => Sys2Proof.Machine.execIndexEntryRead d tid s
  | .placementRequest d tid home replica => Sys2Proof.Machine.execPlacementRequest d tid home replica s
  | .slotDrained c slot => Sys2Proof.Machine.execSlotDrained c slot s
  | .treeletFillComplete c slot => Sys2Proof.Machine.execTreeletFillComplete c slot s
  | .filled d tid owner => Sys2Proof.Machine.execFilled d tid owner s
  | .fillFailed d tid owner cause => Sys2Proof.Machine.execFillFailed d tid owner cause s
  | .leaving d tid owner => Sys2Proof.Machine.execLeaving d tid owner s
  | .drained d tid owner => Sys2Proof.Machine.execDrained d tid owner s
  | .heatReport d tid n => Sys2Proof.Machine.execHeatReport d tid n s
  | .heatDecay d => Sys2Proof.Machine.execHeatDecay d s
  | .mapUpdate c tid owners => Sys2Proof.Machine.execMapUpdate c tid owners s
  | .spillRefill c hits => Sys2Proof.Machine.execSpillRefill c hits s
  | .poolRebalance d d2 => Sys2Proof.Machine.execPoolRebalance d d2 s
  | .hitArrival c hit => Sys2Proof.Machine.execHitArrival c hit s
  | .endNotice c slot => Sys2Proof.Machine.execEndNotice c slot s
  | .sendexitArrival c ray => Sys2Proof.Machine.execSendexitArrival c ray s
  | .capacityLinkTraining b major minor => Sys2Proof.Machine.execCapacityLinkTraining b major minor s
  | .capacityReplayFail b => Sys2Proof.Machine.execCapacityReplayFail b s
  | .capacityRetrainTimeout b => Sys2Proof.Machine.execCapacityRetrainTimeout b s
  | .tableRegister b t qw0 => Sys2Proof.Machine.execTableRegister b t qw0 s
  | .bagQueryExecute c cmd => Sys2Proof.Machine.execBagQueryExecute c cmd s
  | .bagQueryReply c cmd => Sys2Proof.Machine.execBagQueryReply c cmd s
  | .windowArm e qw0 => Sys2Proof.Machine.execWindowArm e qw0 s
  | .windowDisarm e qw0 => Sys2Proof.Machine.execWindowDisarm e qw0 s
  | .armReceive a => Sys2Proof.Machine.execArmReceive a s
  | .armReply e k ok major minor => Sys2Proof.Machine.execArmReply e k ok major minor s
  | .reflectedStoreSequence e => Sys2Proof.Machine.execReflectedStoreSequence e s
  | .reflectedCopyArrival x => Sys2Proof.Machine.execReflectedCopyArrival x s
  | .copyAcknowledge e k seq => Sys2Proof.Machine.execCopyAcknowledge e k seq s
  | .nack e k seq => Sys2Proof.Machine.execNack e k seq s
  | .pathUnreachableTimeout e k => Sys2Proof.Machine.execPathUnreachableTimeout e k s
  | .rfenceMarker f c => Sys2Proof.Machine.execRfenceMarker f c s
  | .engineTakeCommand c eng => Sys2Proof.Machine.execEngineTakeCommand c eng s
  | .engineSelfWait c gid => Sys2Proof.Machine.execEngineSelfWait c gid s
  | .copyStep c cmd => Sys2Proof.Machine.execCopyStep c cmd s
  | .transferRecord c cmd r => Sys2Proof.Machine.execTransferRecord c cmd r s
  | .copyComplete c cmd => Sys2Proof.Machine.execCopyComplete c cmd s
  | .mmaRow c cmd => Sys2Proof.Machine.execMmaRow c cmd s
  | .matrixCommandComplete c cmd => Sys2Proof.Machine.execMatrixCommandComplete c cmd s
  | .multicastJoin c cmd => Sys2Proof.Machine.execMulticastJoin c cmd s
  | .multicastTimeout c cmd => Sys2Proof.Machine.execMulticastTimeout c cmd s
  | .collJoin c cmd => Sys2Proof.Machine.execCollJoin c cmd s
  | .collTimeout c cmd => Sys2Proof.Machine.execCollTimeout c cmd s
  | .collComplete c cmd => Sys2Proof.Machine.execCollComplete c cmd s
  | .peerAccess c cmd => Sys2Proof.Machine.execPeerAccess c cmd s
  | .peerWaitTimeout c cmd => Sys2Proof.Machine.execPeerWaitTimeout c cmd s
  | .getPutComplete c cmd => Sys2Proof.Machine.execGetPutComplete c cmd s
  | .encoderFrameStart e st => Sys2Proof.Machine.execEncoderFrameStart e st s
  | .encoderFrameDone e st bytes => Sys2Proof.Machine.execEncoderFrameDone e st bytes s
  | .encoderStreamConfig e st v => Sys2Proof.Machine.execEncoderStreamConfig e st v s
  | .watchdogTrip c kind ix => Sys2Proof.Machine.execWatchdogTrip c kind ix s
  | .controlMessageArrival c src msg => Sys2Proof.Machine.execControlMessageArrival c src msg s
  | .controlMessageRetry c src msg => Sys2Proof.Machine.execControlMessageRetry c src msg s
  | .mailboxSend m => Sys2Proof.Machine.execMailboxSend m s
  | .mailboxArrival m lcore msg => Sys2Proof.Machine.execMailboxArrival m lcore msg s
  | .hello major minor => Sys2Proof.Machine.execHello major minor s
  | .attestation nonce => Sys2Proof.Machine.execAttestation nonce s
  | .flitReceive link chk => Sys2Proof.Machine.execFlitReceive link chk s
  | .nak link seq => Sys2Proof.Machine.execNak link seq s
  | .roundTripTimerExpiry link => Sys2Proof.Machine.execRoundTripTimerExpiry link s
  | .linkDown link => Sys2Proof.Machine.execLinkDown link s
  | .linkTrainingComplete link major minor => Sys2Proof.Machine.execLinkTrainingComplete link major minor s
  | .weltRetrainTimeout link => Sys2Proof.Machine.execWeltRetrainTimeout link s
  | .reachLinkBroken link => Sys2Proof.Machine.execReachLinkBroken link s
  | .reachRetrain p => Sys2Proof.Machine.execReachRetrain p s
  | .outputArbitration r port => Sys2Proof.Machine.execOutputArbitration r port s
  | .hedgeGovernorSample d occ => Sys2Proof.Machine.execHedgeGovernorSample d occ s
  | .hedgeChangeComplete d => Sys2Proof.Machine.execHedgeChangeComplete d s
  | .hedgeCtlWrite d v => Sys2Proof.Machine.execHedgeCtlWrite d v s
  | .powerAlarmRaise reading => Sys2Proof.Machine.execPowerAlarmRaise reading s
  | .powerAlarmClear => Sys2Proof.Machine.execPowerAlarmClear s
  | .thermalTrip d => Sys2Proof.Machine.execThermalTrip d s
  | .fatalError cause die lcore => Sys2Proof.Machine.execFatalError cause die lcore s
  | .crashWriteTimeout => Sys2Proof.Machine.execCrashWriteTimeout s
  | .fundamentalReset verdict => Sys2Proof.Machine.execFundamentalReset verdict s
  | .secondaryBusReset verdict => Sys2Proof.Machine.execSecondaryBusReset verdict s
  | .disc c port idx => Sys2Proof.Machine.execDisc c port idx s
  | .report c msg => Sys2Proof.Machine.execReport c msg s
  | .img c p msg => Sys2Proof.Machine.execImg c p msg s
  | .mapDone n => Sys2Proof.Machine.execMapDone n s
  | .booted => Sys2Proof.Machine.execBooted s
  | .bootTimerExpiry => Sys2Proof.Machine.execBootTimerExpiry s
  | .imageDeliveryTimeout => Sys2Proof.Machine.execImageDeliveryTimeout s
  | .hostCompletionTimeout d => Sys2Proof.Machine.execHostCompletionTimeout d s
  | .priReenable => Sys2Proof.Machine.execPriReenable s
  | .capacityLinkReenable b => Sys2Proof.Machine.execCapacityLinkReenable b s
  | .hostRegisterRead fn off => Sys2Proof.Machine.execHostRegisterRead fn off s

end Sys2Proof.Machine
end

