-- ==== Sys2Proof/Machine/Step.lean ====
section
/-! DEFINITION. One step of the machine: the second instruction of a dual issue (R162), else the oldest access of the host that
can be served (R150), else a bundle that waited and is ready (R165), else in turn the oldest waiting event and the next issue of a pipe; and the placing of one word where the next step fetches it. -/

namespace Sys2Proof.Machine

/-- Perform the instruction of a bundle (R214). -/
def runBundle (u : Cur) (s : State) : Host.Outcome State Fault Refusal :=
  if s.fetchFaults u then .next s.fetchTrap else exec u.instr s

/-- Perform the oldest event. -/
def runEvent (e : Instr) (rest : List Instr) (s : State) : Host.Outcome State Fault Refusal :=
  exec e { s with agenda := rest, cur := none, turn := true }

/-- Issue on a pipe: choose the bundles and perform the first. -/
def runIssue (x : Candidate) (s : State) : Host.Outcome State Fault Refusal :=
  let s := { (s.issue x).tick with turn := false }
  match s.cur with
  | some u => runBundle u s
  | none => .next s

/-- ONE STEP. -/
def step (s : State) : Host.Outcome State Fault Refusal :=
  match s.second with
  | some u => runBundle u { s with cur := some u, second := none }
  | none =>
    match s.nextHost with
    | some s' => .next s'
    | none =>
      match s.nextResume with
      | some u => runBundle u (s.resume u)
      | none =>
        match s.turn, s.nextEvent, s.nextIssue with
        | false, some (e, rest), _ => runEvent e rest s
        | true, some (e, rest), none => runEvent e rest s.idle
        | _, _, some x => runIssue x s
        | _, none, none => .next s.idle

/-- s with one instruction where the next step fetches it: core 0 holds a group at base set 0 whose 32 threads stand at
word 0 of overlay 1 of context 1, whose copy holds the word and, after it, a literal of zeros. -/
def State.withFetchWord (s : State) (nbits w : Nat) : State :=
  let word := BitVec.ofNat 32 (w % 2 ^ nbits)
  let lit := BitVec.ofNat 32 (w % 2 ^ nbits / 2 ^ 32)
  let pc : Word := 0x00010000
  let g : Group := { ctx := 1, team := 0, m0 := 0xffffffff, gens := genSeed 0,
                     threads := List.replicate 32 { pc, live := true } }
  let t : Team := { ctx := 1, groups := 1, size := 4096, decl := BitVec.ofNat 64 (4096 * 2 ^ 26 + 16) }
  let r : OvRecord := { resident := true, slots := 1, aliases := [(1, 1)], occupancy := 32, owner := some 1, placed := true }
  let k := s.core 0
  let k := { k with
    istore := Mem.write k.istore 0 [word, lit]
    records := [(0, r)], nextRec := 1, teams := [(0, t)], nextTeam := 1, groups := [(0, g)], nextUid := 1, stopped := false }
  { s.setCore 0 k with second := none, turn := true }

end Sys2Proof.Machine
end

