-- ==== Sys2Proof/Safety.lean ====
section
/-! DEFINITION. What a step keeps: the invariants that claims are stated in. -/

namespace Sys2Proof.Machine

/-- Every byte store and word store of a core is in canonical form. -/
def Core.memWf (k : Core) : Bool :=
  Mem.wf k.rf && Memory.wf k.banks && Memory.wf k.store && Mem.wf k.istore && Mem.wf k.acc

/-- Every sparse storage of the package is in canonical form. -/
def State.memWf (s : State) : Bool :=
  Memory.wf s.hbm && Memory.wf s.cap && s.cores.all fun p => p.2.memWf

/-- A step ended in a next state: the machine neither stopped nor refused. -/
def Safe (s : State) : Prop := ∃ t, step s = .next t

end Sys2Proof.Machine
end

