-- ==== Sys2Proof/Certificates/Slice0/Obligations.lean ====
section
/-! DEFINITION. The statements for the provers, each with the names it is said in. -/

namespace Sys2Proof
namespace Claims

open Machine

/-! ### Vocabulary -/

/-- The bundle x performs the word i: `cur` names it, the word is an instruction on its thread (R213, R345), and its group holds
every register range that the word names (R32). -/
def Runs (i : Instr) (s : State) (x : Ctx) : Prop :=
  s.ctx? = some x ∧ i.barred x.gid = false ∧ unheld x.g x.gid i.vregs = []

/-- t is s but for one lane register of x's group: the element of each lane of `lanes` is f of the lane, and every other word
of the register file keeps its value (R253). -/
def WritesLanes (s : State) (x : Ctx) (lanes : Word) (d : VReg) (f : Nat → Word) (t : State) : Prop :=
  ∃ row rf, x.g.vRow x.gid d.toNat = some row ∧ t = s.setCore x.core { s.core x.core with rf } ∧
    ∀ a, Mem.get (n := 32) rf a =
      if a / 32 = row ∧ lanes.getLsbD (a % 32) = true then f (a % 32) else Mem.get (n := 32) (s.core x.core).rf a

/-- t is s but for n consecutive lane registers of x's group from d: the element of lane l of the j-th is f j l where that is
given, and every other word of the register file keeps its value. -/
def WritesRows (s : State) (x : Ctx) (d : VReg) (n : Nat) (f : Nat → Nat → Option Word) (t : State) : Prop :=
  ∃ row rf, x.g.vRow x.gid d.toNat = some row ∧ t = s.setCore x.core { s.core x.core with rf } ∧
    ∀ a, Mem.get (n := 32) rf a =
      ((if row ≤ a / 32 ∧ a / 32 < row + n then f (a / 32 - row) (a % 32) else none).getD
        (Mem.get (n := 32) (s.core x.core).rf a))

/-- t is s but for consecutive uniform registers of x's thread from s d, which hold ws. -/
def WritesUniform (s : State) (x : Ctx) (d : Nat) (ws : List Word) (t : State) : Prop :=
  ∃ rf, t = s.setCore x.core { s.core x.core with rf } ∧
    ∀ a, Mem.get (n := 32) rf a =
      if sPlace x.gid d ≤ a ∧ a < sPlace x.gid d + ws.length then ws.getD (a - sPlace x.gid d) 0
      else Mem.get (n := 32) (s.core x.core).rf a

/-- The conditions of CMP (R210). -/
def holds : Cc → Word → Word → Bool
  | .eq, a, b => a == b
  | .ne, a, b => a != b
  | .lt, a, b => a.slt b
  | .ge, a, b => b.sle a
  | .ltu, a, b => a.ult b
  | .geu, a, b => b.ule a

/-- A lane's element of a v register of x's group. -/
def elem (s : State) (x : Ctx) (r : VReg) (l : Nat) : Word := (s.core x.core).getV x.g x.gid r.toNat l
/-- A lane's value of the last source: v register, s register or literal. -/
def last (s : State) (x : Ctx) (b : LaneSrc) (l : Nat) : Word := (s.core x.core).lsrc x.g x.gid l b

/-! ### Integer results, from the tables of R227 to R229, R254 and R255 -/

namespace Int32

/-- Bits [63:32] of the signed product. -/
def mulhi (a b : Word) : Word := BitVec.ofInt 32 ((a.toInt * b.toInt).fdiv (2 ^ 32))
/-- Bits [63:32] of the unsigned product. -/
def mulhu (a b : Word) : Word := BitVec.ofNat 32 (a.toNat * b.toNat / 2 ^ 32)
/-- The signed quotient truncated toward zero, the borderline cases as R228 has them. -/
def quot (a b : Word) : Word := if b = 0 then 0xffffffff else BitVec.ofInt 32 (a.toInt.tdiv b.toInt)
def quotu (a b : Word) : Word := if b = 0 then 0xffffffff else BitVec.ofNat 32 (a.toNat / b.toNat)
/-- The signed remainder, with the sign of a. -/
def rem (a b : Word) : Word := if b = 0 then a else BitVec.ofInt 32 (a.toInt.tmod b.toInt)
def remu (a b : Word) : Word := if b = 0 then a else BitVec.ofNat 32 (a.toNat % b.toNat)
/-- Shifts: the amount is unsigned and not reduced. -/
def shl (a b : Word) : Word := BitVec.ofNat 32 (a.toNat * 2 ^ b.toNat)
def shr (a b : Word) : Word := BitVec.ofNat 32 (a.toNat / 2 ^ b.toNat)
def sar (a b : Word) : Word := BitVec.ofInt 32 (a.toInt.fdiv (2 ^ b.toNat))
def min (a b : Word) : Word := if a.toInt ≤ b.toInt then a else b
def minu (a b : Word) : Word := if a.toNat ≤ b.toNat then a else b
def max (a b : Word) : Word := if b.toInt ≤ a.toInt then a else b
def maxu (a b : Word) : Word := if b.toNat ≤ a.toNat then a else b
/-- BFX: bits p + w − 1 to p of a, for p = b[4:0] and w = min(b[13:8], 32), those above bit 31 reading 0. -/
def field (a b : Word) : Word := BitVec.ofNat 32 (a.toNat >>> (b.toNat % 32) % 2 ^ Nat.min (b.toNat / 256 % 64) 32)
/-- BFI: (d AND NOT (M << p)) OR ((a AND M) << p) in 64 bits, for M = 2^w − 1 and the same p and w. -/
def insert (d a b : Word) : Word :=
  let p := b.toNat % 32
  let m := BitVec.ofNat 64 (2 ^ Nat.min (b.toNat / 256 % 64) 32 - 1)
  (((d.zeroExtend 64) &&& ~~~(m <<< p)) ||| (((a.zeroExtend 64) &&& m) <<< p)).truncate 32
/-- The number of zeros above the highest 1 bit. -/
def leading (a : Word) : Word := BitVec.ofNat 32 ((List.range 32).takeWhile fun j => !a.getLsbD (31 - j)).length
def ones (a : Word) : Word := BitVec.ofNat 32 ((List.range 32).filter fun j => a.getLsbD j).length
/-- A 32-bit value of a signed or an unsigned field. -/
def signed {n : Nat} (v : BitVec n) : Word := BitVec.ofInt 32 v.toInt
def unsigned {n : Nat} (v : BitVec n) : Word := BitVec.ofNat 32 v.toNat

end Int32

/-- The lane integer operations of R254 and R255, as functions of d, a and b. -/
def integer : Instr → Option (MReg × VReg × VReg × LaneSrc × (Word → Word → Word → Word))
  | .addLane m d a b => some (m, d, a, b, fun _ a b => a + b)
  | .subLane m d a b => some (m, d, a, b, fun _ a b => a - b)
  | .mulLane m d a b => some (m, d, a, b, fun _ a b => a * b)
  | .mulhiLane m d a b => some (m, d, a, b, fun _ => Int32.mulhi)
  | .mulhuLane m d a b => some (m, d, a, b, fun _ => Int32.mulhu)
  | .mad m d a b => some (m, d, a, b, fun d a b => a * b + d)
  | .andLane m d a b => some (m, d, a, b, fun _ a b => a &&& b)
  | .orLane m d a b => some (m, d, a, b, fun _ a b => a ||| b)
  | .xorLane m d a b => some (m, d, a, b, fun _ a b => a ^^^ b)
  | .shlLane m d a b => some (m, d, a, b, fun _ => Int32.shl)
  | .shrLane m d a b => some (m, d, a, b, fun _ => Int32.shr)
  | .sarLane m d a b => some (m, d, a, b, fun _ => Int32.sar)
  | .minLane m d a b => some (m, d, a, b, fun _ => Int32.min)
  | .minuLane m d a b => some (m, d, a, b, fun _ => Int32.minu)
  | .maxLane m d a b => some (m, d, a, b, fun _ => Int32.max)
  | .maxuLane m d a b => some (m, d, a, b, fun _ => Int32.maxu)
  | .bfxLane m d a b => some (m, d, a, b, fun _ => Int32.field)
  | .bfiLane m d a b => some (m, d, a, b, Int32.insert)
  | .abs m d a => some (m, d, a, .lit 0, fun _ a _ => BitVec.ofNat 32 a.toInt.natAbs)
  | .neg m d a => some (m, d, a, .lit 0, fun _ a _ => -a)
  | .movLane m d a => some (m, d, a, .lit 0, fun _ a _ => a)
  | .clzLane m d a => some (m, d, a, .lit 0, fun _ a _ => Int32.leading a)
  | .popcLane m d a => some (m, d, a, .lit 0, fun _ a _ => Int32.ones a)
  | .moviLane m d (.short v) => some (m, d, d, .lit 0, fun _ _ _ => Int32.signed v)
  | .moviLane m d (.lit w) => some (m, d, d, .lit 0, fun _ _ _ => w)
  | _ => none

/-- The core with the s registers as x's instruction read them when it was issued: one that waits goes by those (R165). -/
def issued (s : State) (x : Ctx) : Core := s.asIssued x
/-- A uniform register as x's instruction read it when it was issued, and its second operand (R165, R225). -/
def sreg (s : State) (x : Ctx) (r : SReg) : Word := (issued s x).getS x.gid r.toNat
def slast (s : State) (x : Ctx) : USrc → Word
  | .s r => sreg s x r
  | .lit w => w

/-- A uniform register of x's thread. -/
def ureg (s : State) (x : Ctx) (r : SReg) : Word := (s.core x.core).getS x.gid r.toNat
/-- The second operand of a uniform instruction (R225). -/
def ulast (s : State) (x : Ctx) : USrc → Word
  | .s r => ureg s x r
  | .lit w => w
def xval (s : State) (x : Ctx) : XReg → Word
  | .s r => ureg s x r
  | .m r => x.g.mask r.toNat
def xlast (s : State) (x : Ctx) : XSrc → Word
  | .s r => ureg s x r
  | .m r => x.g.mask r.toNat
  | .lit w => w

/-- The value that a uniform integer instruction writes to its s register (R227 to R230, R236). -/
def uniform (s : State) (x : Ctx) : Instr → Option (SReg × Word)
  | .addUniform d a b => some (d, ureg s x a + ulast s x b)
  | .subUniform d a b => some (d, ureg s x a - ulast s x b)
  | .mulUniform d a b => some (d, ureg s x a * ulast s x b)
  | .mulhiUniform d a b => some (d, Int32.mulhi (ureg s x a) (ulast s x b))
  | .mulhuUniform d a b => some (d, Int32.mulhu (ureg s x a) (ulast s x b))
  | .div d a b => some (d, Int32.quot (ureg s x a) (ulast s x b))
  | .divu d a b => some (d, Int32.quotu (ureg s x a) (ulast s x b))
  | .rem d a b => some (d, Int32.rem (ureg s x a) (ulast s x b))
  | .remu d a b => some (d, Int32.remu (ureg s x a) (ulast s x b))
  | .shlUniform d a b => some (d, Int32.shl (ureg s x a) (ulast s x b))
  | .shrUniform d a b => some (d, Int32.shr (ureg s x a) (ulast s x b))
  | .sarUniform d a b => some (d, Int32.sar (ureg s x a) (ulast s x b))
  | .minUniform d a b => some (d, Int32.min (ureg s x a) (ulast s x b))
  | .minuUniform d a b => some (d, Int32.minu (ureg s x a) (ulast s x b))
  | .maxUniform d a b => some (d, Int32.max (ureg s x a) (ulast s x b))
  | .maxuUniform d a b => some (d, Int32.maxu (ureg s x a) (ulast s x b))
  | .selUniform d a b => some (d, if ureg s x d ≠ 0 then ureg s x a else ulast s x b)
  | .cmpUniform c d a b => some (d, if holds c (ureg s x a) (ulast s x b) then 1 else 0)
  | .bfxUniform d a b => some (d, Int32.field (ureg s x a) (ulast s x b))
  | .bfiUniform d a b => some (d, Int32.insert (ureg s x d) (ureg s x a) (ulast s x b))
  | .clzUniform d a => some (d, Int32.leading (xval s x a))
  | .popcUniform d a => some (d, Int32.ones (xval s x a))
  | .addi d a v => some (d, ureg s x a + Int32.signed v)
  | .andi d a v => some (d, ureg s x a &&& Int32.signed v)
  | .ori d a v => some (d, ureg s x a ||| Int32.signed v)
  | .xori d a v => some (d, ureg s x a ^^^ Int32.signed v)
  | .shli d a v => some (d, Int32.shl (ureg s x a) (Int32.unsigned v))
  | .shri d a v => some (d, Int32.shr (ureg s x a) (Int32.unsigned v))
  | .sari d a v => some (d, Int32.sar (ureg s x a) (Int32.unsigned v))
  | .moviUniform d (.short v) => some (d, Int32.signed v)
  | .moviUniform d (.lit w) => some (d, w)
  | .movhi d v => some (d, BitVec.ofNat 32 (v.toNat * 65536 + (ureg s x d).toNat % 65536))
  | .rdlane d a b => if x.gid = supGid ∧ a.toNat < 16 then none else some (d, elem s x a ((ulast s x b).toNat % 32))
  | .elect d => some (d, BitVec.ofNat 32 (((List.range 32).find? fun l => x.lanes.getLsbD l).getD 0))
  | _ => none

/-- The value that AND, OR, XOR and MOV write to an s or m register (R227, R229). -/
def logic (s : State) (x : Ctx) : Instr → Option (XReg × Word)
  | .andUniform d a b => some (d, xval s x a &&& xlast s x b)
  | .orUniform d a b => some (d, xval s x a ||| xlast s x b)
  | .xorUniform d a b => some (d, xval s x a ^^^ xlast s x b)
  | .movUniform (.reg d a) => some (d, xval s x a)
  | _ => none

/-! ### Control flow -/

/-- The bundle of x goes on at a PC. -/
def goesTo (s : State) (x : Ctx) (pc : Word) : State :=
  s.modGroup x.core x.gid fun g => g.onLanes x.lanes fun _ t => { t with pc, wait := none }

/-- Word t of the overlay that x executes. -/
def within (x : Ctx) (t : Nat) : Word := BitVec.ofNat 32 (x.pc.toNat / 65536 * 65536 + t)

/-- Target and condition of the branches (R231). -/
def branches (s : State) (x : Ctx) : Instr → Option (BitVec 14 × Bool)
  | .br t => some (t, true)
  | .brc c a b t => some (t, holds c (ureg s x a) (ureg s x b))
  | .brz a t => some (t, ureg s x a == 0)
  | .brnz a t => some (t, ureg s x a != 0)
  | .brm .any k t => some (t, x.g.mask k.toNat &&& x.g.m0 != 0)
  | .brm .all k t => some (t, x.g.mask k.toNat &&& x.g.m0 == x.g.m0)
  | .brm .none k t => some (t, x.g.mask k.toNat &&& x.g.m0 == 0)
  | _ => none

/-- A thread of a group by its lane. -/
def thread (s : State) (x : Ctx) (l : Nat) : Thread := (s.group x.core x.gid).threads.getD l {}

/-- The bundle's link stacks after a push of ret on each (R232): entries 0 to 3 in the core, deeper ones in the lane private
window, at w − 4 (d − 3) for the depth d before the push. -/
def pushed (s : State) (x : Ctx) (ret : Word) : State :=
  let team := s.team x.core x.g.team
  let w := team.windowOf x.gid
  let depth := fun l => (x.g.threads.getD l {}).depth
  (s.modCore x.core fun k => (lanesOf x.lanes).foldl (fun (k : Core) l =>
      if depth l < 4 then k
      else k.writeBank l (team.windowBase x.g + w - 4 * (depth l - 3)) (leBytes 4 ret.toNat)) k).modGroup x.core x.gid fun g =>
    g.onLanes x.lanes fun _ t =>
      { t with link := if t.depth < 4 then t.link.set t.depth ret else t.link, depth := t.depth + 1 }

/-- A thread of the bundle has no room for a push (R232). -/
def full (s : State) (x : Ctx) : Prop :=
  ∃ l ∈ lanesOf x.lanes, 4 + (s.team x.core x.g.team).windowOf x.gid / 4 ≤ (x.g.threads.getD l {}).depth

/-- A thread of the bundle has an empty link stack (R232). -/
def bare (x : Ctx) : Prop := ∃ l ∈ lanesOf x.lanes, (x.g.threads.getD l {}).depth = 0

/-- The logical PC that a call goes to, and whether it may name another overlay (R233, R234). -/
def calls (s : State) (x : Ctx) : Instr → Option (Word × Bool)
  | .call t => some (BitVec.ofNat 32 t.toNat, false)
  | .callr a => some (ureg s x a, false)
  | .callo a => some (ureg s x a, true)
  | .calloLiteral t => some (t, true)
  | _ => none

/-! ### Memory accesses (R293 to R299) -/

/-- The spaces of R7. -/
inductive Space
  | global | store | lanes | bits
deriving DecidableEq, Repr

/-- The accesses of an instruction: who makes them, their size in bytes (for `bits` the element width), the address of each
lane, and the space. -/
structure Access where
  side : Side
  size : Nat
  addr : Nat → Nat
  space : Space

/-- Addresses of an access with a 64-bit base, a 32-bit base, and an awl base (R294, R52). -/
def addr64 (k : Core) (x : Ctx) (sd : Side) (a : Nat) (off : Int) (l : Nat) : Nat := ea64 (k.elem64 x sd a l) off
def addr32 (k : Core) (x : Ctx) (sd : Side) (a : Nat) (off : Int) (l : Nat) : Nat := ea32 (k.elem32 x sd a l) off
def addrBit (x : Ctx) (k : BReg) (l : Nat) : Nat := awlAddr (x.g.awl.getD k.toNat 0) l

/-- The accesses that an atomic or an append makes. -/
def atomAccess (s : State) (x : Ctx) (sd : Side) (sp : AtomSpace) (a : Nat) (off : TOff) : Access :=
  { side := sd, size := if sp.wide then 8 else 4,
    addr := if sp.store then addr32 (issued s x) x sd a (TOff.val off) else addr64 (issued s x) x sd a (TOff.val off),
    space := if sp.store then .store else .global }

/-- The accesses of the memory instructions that R294 checks. -/
def access (s : State) (x : Ctx) : Instr → Option Access
  | .ld m _ a w o | .st m _ a w o => some ⟨x.laneSide m, w.bytes, addr64 (issued s x) x (x.laneSide m) a.toNat (Off.val w.bytes o), .global⟩
  | .lds _ a w o | .sts _ a w o => some ⟨x.uniSide, w.bytes, addr64 (issued s x) x x.uniSide a.toNat (Off.val w.bytes o), .global⟩
  | .ldlLane m _ a w o | .stlLane m _ a w o =>
    some ⟨x.laneSide m, w.bytes, addr32 (issued s x) x (x.laneSide m) a.toNat (Off.val w.bytes o), .store⟩
  | .ldlUniform _ a w o | .stlUniform _ a w o =>
    some ⟨x.uniSide, w.bytes, addr32 (issued s x) x x.uniSide a.toNat (Off.val w.bytes o), .store⟩
  | .ldp m _ a w o | .stp m _ a w o =>
    some ⟨x.laneSide m, w.bytes, addr32 (s.core x.core) x (x.laneSide m) a.toNat (Off.val w.bytes o), .lanes⟩
  | .ldb m _ k n _ | .stb m _ k n => some ⟨x.laneSide m, n.toNat + 1, addrBit x k, .bits⟩
  | .atomLane m sp _ _ a _ _ off | .casLane m sp _ a _ _ off | .atomExchLane m sp _ a _ _ off =>
    some (atomAccess s x (x.laneSide m) sp a.toNat off)
  | .atomUniform sp _ _ a _ _ off | .casUniform sp _ a _ _ off | .atomExchUniform sp _ a _ _ off =>
    some (atomAccess s x x.uniSide sp a.toNat off)
  | .qapp m _ a _ _ off => some ⟨x.laneSide m, 16, addr64 (issued s x) x (x.laneSide m) a.toNat (TOff.val off), .global⟩
  | _ => none

/-- The sub code of the bounds check that an address fails: 0 for its form (R7), 1 for the allocation, the window or, on the
supervisor thread, the populated memory (R8, R9, R345). -/
def beyond (s : State) (x : Ctx) (space : Space) (size a : Nat) : Option Nat :=
  let limit := (s.span x).2
  match space with
  | .global =>
    if x.gid = supGid then (if a + size ≤ s.product.hbmBytes then none else some 1)
    else if 2 ^ 57 ≤ a then some 0 else none
  | .store => if 2 ^ 23 ≤ a then some 0 else if a + size ≤ limit then none else some 1
  | .lanes =>
    if 2 ^ 16 ≤ a then some 0
    else if a + size ≤ (s.team x.core x.g.team).windowOf x.gid then none else some 1
  | .bits => if 2 ^ 26 ≤ a then some 0 else if (a + size + 7) / 8 ≤ limit then none else some 1

/-- Every access of the instruction is aligned and within its bounds. -/
def Clear (s : State) (x : Ctx) (acc : Access) : Prop :=
  ∀ l ∈ acc.side.lanes, (acc.space ≠ .bits → acc.addr l % acc.size = 0) ∧ beyond s x acc.space acc.size (acc.addr l) = none

/-- A core-store access stands behind an earlier access of its group through the core-store aperture to one of its bytes (R135, R136). -/
def Behind (s : State) (x : Ctx) (acc : Access) : Prop :=
  ∃ l ∈ acc.side.lanes, match acc.space with
    | .store => s.ownPending x.core x.g.uid ((s.span x).1 + acc.addr l) acc.size = true
    | .bits => s.ownPending x.core x.g.uid ((s.span x).1 + acc.addr l / 8) ((acc.size + 14) / 8) = true
    | .global | .lanes => False

/-- A byte of the registers that a store reads, low register first. -/
def dataByte (k : Core) (x : Ctx) (sd : Side) (d l j : Nat) : Byte :=
  (k.elem32 x sd (d + j / 4) l).extractLsb' (8 * (j % 4)) 8

/-- The byte that a store leaves at an address: that of the highest lane that names it. -/
def lastTo (lanes : List Nat) (lo : Nat → Nat) (n : Nat) (data : Nat → Nat → Byte) (b : Nat) : Option Byte :=
  (lanes.reverse.find? fun l => decide (lo l ≤ b ∧ b < lo l + n)).map fun l => data l (b - lo l)

/-- The j-th register of a load of given bytes (R295). -/
def loaded (w : Width) (byte : Nat → Byte) (j : Nat) : Word :=
  match w with
  | .b8 => (byte 0).zeroExtend 32
  | .s8 => (byte 0).signExtend 32
  | .b16 => (byte 1 ++ byte 0).zeroExtend 32
  | .s16 => (byte 1 ++ byte 0).signExtend 32
  | _ => byte (4 * j + 3) ++ byte (4 * j + 2) ++ byte (4 * j + 1) ++ byte (4 * j)

/-- t is s but for the destination registers of an access from register d, n of them: the j-th in lane l is f j l. -/
def Delivers (s : State) (x : Ctx) (sd : Side) (d n : Nat) (f : Nat → Nat → Option Word) (t : State) : Prop :=
  if sd.uniform then
    if ∀ j < n, (f j 0).isSome then WritesUniform s x d ((List.range n).map fun j => (f j 0).getD 0) t else t = s
  else WritesRows s x (BitVec.ofNat 6 d) n f t

/-- The storage that a bank access reads or writes: core store at the allocation, or the lane's bank at its window. -/
def bankByte (s : State) (x : Ctx) (space : Space) (l a : Nat) : Byte :=
  let team := s.team x.core x.g.team
  if space = .lanes then Mem.get (n := 8) (s.core x.core).banks (l * 65536 + (team.windowBase x.g + a))
  else Mem.get (n := 8) (s.core x.core).store ((s.span x).1 + a)

/-- The destination, its width, and the first poisoned-byte test of the loads from banks. -/
def bankLoad : Instr → Option (Nat × Width)
  | .ldlLane _ d _ w _ | .ldp _ d _ w _ => some (d.toNat, w)
  | .ldlUniform d _ w _ => some (d.toNat, w)
  | _ => none
/-- The data register and width of the stores to the core store. -/
def coreStore : Instr → Option (Nat × Width)
  | .stlLane _ d _ w _ => some (d.toNat, w)
  | .stlUniform d _ w _ => some (d.toNat, w)
  | _ => none
def globalLoad : Instr → Option (Nat × Width)
  | .ld _ d _ w _ => some (d.toNat, w)
  | .lds d _ w _ => some (d.toNat, w)
  | _ => none
def globalStore : Instr → Option (Nat × Width)
  | .st _ d _ w _ => some (d.toNat, w)
  | .sts d _ w _ => some (d.toNat, w)
  | _ => none

/-- k and k' differ at most in the core store, its poison, and the waits of threads. -/
def StoreOnly (k k' : Core) : Prop :=
  ∃ store storePoison groups, k' = { k with store, storePoison, groups } ∧
    groups.map (·.1) = k.groups.map (·.1) ∧
    ∀ gid, (AMap.look gid groups).map calm = (AMap.look gid k.groups).map calm
where
  /-- The group but for what its threads wait for. -/
  calm (g : Machine.Group) : Machine.Group := { g with threads := g.threads.map fun t => { t with wait := none } }

/-- k and k' differ as by StoreOnly; a write by the supervisor thread also leaves no context the holder of the bytes (R33). -/
def StoreBy (gid : Nat) (k k' : Core) : Prop :=
  ∃ storeHolder, StoreOnly { k with storeHolder } k' ∧ (gid ≠ supGid → storeHolder = k.storeHolder)

/-- The operation, the operand registers and the destination of the atomics: their order, scope and space. -/
def atomic : Instr → Option (Rmw × Nat × Nat × AtomSpace × Scope × Order)
  | .atomLane _ sp op d _ sc o _ => some (.op op, 1, d.toNat, sp, sc, o)
  | .casLane _ sp d _ sc o _ => some (.cas, 2, d.toNat, sp, sc, o)
  | .atomExchLane _ sp d _ sc o _ => some (.exch, 1, d.toNat, sp, sc, o)
  | .atomUniform sp op d _ sc o _ => some (.op op, 1, d.toNat, sp, sc, o)
  | .casUniform sp d _ sc o _ => some (.cas, 2, d.toNat, sp, sc, o)
  | .atomExchUniform sp d _ sc o _ => some (.exch, 1, d.toNat, sp, sc, o)
  | _ => none

/-- The value an atomic leaves, of n bits, from the old value and the operands (R298). -/
def combined (n : Nat) : Rmw → BitVec n → BitVec n → BitVec n → BitVec n
  | .op .add, v, x, _ => v + x
  | .op .and, v, x, _ => v &&& x
  | .op .or, v, x, _ => v ||| x
  | .op .xor, v, x, _ => v ^^^ x
  | .op .min, v, x, _ => if x.slt v then x else v
  | .op .max, v, x, _ => if v.slt x then x else v
  | .op .minu, v, x, _ => if x.ult v then x else v
  | .op .maxu, v, x, _ => if v.ult x then x else v
  | .exch, _, x, _ => x
  | .cas, v, x, y => if v = x then y else v

/-- The little-endian value of n bits at an address. -/
def valueAt (n : Nat) (m : Nat → Byte) (a : Nat) : BitVec n :=
  BitVec.ofNat n (leNat ((List.range (n / 8)).map fun j => m (a + j)))

/-- Lanes in ascending order, each one locked read-modify-write of n bits (R141): the bytes left, and the value that each lane
received. -/
def lockedEach (n : Nat) (r : Rmw) (addr : Nat → Nat) (x y : Nat → BitVec n) :
    List Nat → (Nat → Byte) → (Nat → Byte) × (Nat → BitVec n)
  | [], m => (m, fun _ => 0)
  | l :: t, m =>
    let old := valueAt n m (addr l)
    let new := combined n r old (x l) (y l)
    let m' := fun b => if addr l ≤ b ∧ b < addr l + n / 8 then new.extractLsb' (8 * (b - addr l)) 8 else m b
    let rest := lockedEach n r addr x y t m'
    (rest.1, fun j => if j = l then old else rest.2 j)

/-- The operand value of n bits in consecutive registers. -/
def operand (n : Nat) (k : Core) (x : Ctx) (sd : Side) (r l : Nat) : BitVec n :=
  valueAt n (fun j => dataByte k x sd r l j) 0

/-! ### Synchronisation (R47 to R50, R69, R131, R139, R170 to R176, R237 to R241, R303) -/

/-- The ID or token operand of the overlay instructions. -/
def ovOperand (s : State) (x : Ctx) : OvSrc → Word
  | .reg r => ureg s x r
  | .lit w => w

/-- A precise protection trap of the instruction. -/
def protects (s : State) (x : Ctx) (sub : Nat) (addr : Nat := 0) : State := s.preciseTrap x (mkTrap 5 sub addr)

/-- The word of a barrier after an arrival that counts (R174, R175): the last expected arrival starts a new generation. -/
def arrived (w : DWord) : DWord :=
  let gen := w.extractLsb' 48 16
  let n := (w.extractLsb' 16 16).toNat + 1
  if (w.extractLsb' 0 16).toNat ≤ n then (gen + 1) ++ (0#16 ++ (0#16 ++ w.extractLsb' 0 16))
  else gen ++ (0#16 ++ (BitVec.ofNat 16 n ++ w.extractLsb' 0 16))

/-- A barrier word that BARA accepts (R174, R175). -/
def soundBarrier (w : DWord) : Prop := w.extractLsb' 0 16 ≠ 0 ∧ w.extractLsb' 32 16 = 0

/-- k' is k but for the 8 bytes of the core store at an address, which hold w, and the waits of threads. -/
def PutsQuad (k : Core) (a : Nat) (w : DWord) (k' : Core) : Prop :=
  StoreOnly k k' ∧ k'.store64 a = w ∧
    ∀ b, b < a ∨ a + 8 ≤ b → Mem.get (n := 8) k'.store b = Mem.get (n := 8) k.store b

/-- Quadword 1 of a ring after a wait took slots: the counter of its direction and the index (R47, R48). -/
def taken (cons : Bool) (q1 : DWord) (left index : Nat) : DWord :=
  if cons then BitVec.ofNat 16 left ++ (q1.extractLsb' 32 16 ++ (BitVec.ofNat 16 index ++ q1.extractLsb' 0 16))
  else q1.extractLsb' 48 16 ++ (BitVec.ofNat 16 left ++ (q1.extractLsb' 16 16 ++ BitVec.ofNat 16 index))

/-- Quadword 1 of a ring after a release set a counter (R47, R48). -/
def given (cons : Bool) (q1 : DWord) (v : Nat) : DWord :=
  if cons then q1.extractLsb' 48 16 ++ (BitVec.ofNat 16 v ++ q1.extractLsb' 0 32)
  else BitVec.ofNat 16 v ++ q1.extractLsb' 0 48

/-- The operand checks of the ring instructions pass, and quadword 1 is consistent (R47, R50, R303): the descriptor at team-relative
offset a, the count n, and quadword 0 as the action has read it. -/
def RingReady (s : State) (x : Ctx) (a n : Nat) (q0 : DWord) : Prop :=
  let k := s.core x.core
  let d := (s.span x).1 + a
  let q1 := k.store64 (d + 8)
  let count := (q0.extractLsb' 48 16).toNat
  a % 32 = 0 ∧ a < 2 ^ 23 ∧ a + 32 ≤ (s.span x).2 ∧ (q0.extractLsb' 0 4).toNat = 0 ∧
  (q0.extractLsb' 0 23).toNat + count * ((q0.extractLsb' 32 8).toNat + 1) * 16 ≤ (s.span x).2 ∧
  1 ≤ n ∧ n ≤ count ∧
  (q1.extractLsb' 48 16).toNat + (q1.extractLsb' 32 16).toNat ≤ count ∧ (q1.extractLsb' 0 16).toNat < count ∧
  (q1.extractLsb' 16 16).toNat < count ∧ k.storePoison = []

/-! ### Special registers (R157, R158, R363, R364) and traps (R339 to R346) -/

/-- A word of the oldest store-fault record of x's group, 0 when there is none (R351). -/
def faultWord (s : State) (x : Ctx) (j : Nat) : Word :=
  match (s.core x.core).sfq.find? fun r => r.uid == x.g.uid with
  | none => 0
  | some r => w32 (leNat ((List.range 4).map fun i => r.bytes.getD (4 * j + i) 0))

/-- What a read of a register of R364 returns; none for a number that R364 does not list, whose word is no instruction (R213). -/
def registerRead (s : State) (x : Ctx) (n : Nat) : Option Word :=
  let k := s.core x.core
  let tr := x.g.trap
  let team := s.team x.core x.g.team
  let flag := fun (b : Bool) (at_ : Nat) => if b then 2 ^ at_ else 0
  let chunks := fun (g : Group) => g.chunks.countP (·.isSome)
  let mine := k.eq.filter fun p => p.2.uid = x.g.uid
  match n with
  | 0x000 => some x.g.tid
  | 0x001 => some x.g.block
  | 0x002 => some (w32 (s.device * 2 ^ 20 + s.logical x.core * 2 ^ 10 + s.coreY x.core * 2 ^ 5 + s.coreX x.core))
  | 0x003 => some x.g.arith
  | 0x004 => some x.g.seed
  | 0x005 => some (w32 (chunks x.g * 2 ^ 30 + team.held * 2 ^ 20 + k.unreserved * 2 ^ 10 + (992 - (k.groups.map fun p => chunks p.2).sum)))
  | 0x006 => some (w32 (mine.countP (fun p => p.2.priv) * 2 ^ 30 + mine.countP (fun p => !p.2.priv) * 2 ^ 21 +
      (256 - k.eq.countP fun p => !p.2.priv)))
  | 0x007 => some (w32 (flag k.narrow 31 + flag (k.eq.any fun p => engineOf p.2.major == 2 && p.2.state ≠ .queued) 30 +
      (team.bands.map fun p => 2 ^ (16 + p.1)).sum + (8 - k.bandsUsed.length)))
  | 0x008 => some (let o := (k.ovstat.look x.g.ctx).getD (0, 0); w32 (o.1 * 2 ^ 16 + o.2))
  | 0x009 => some ((s.hintDrops.look x.g.ctx).getD 0)
  | 0x00a => some (x.g.emul.getD 0 0)
  | 0x00b => some (x.g.emul.getD 1 0)
  | 0x00c => some (x.g.emul.getD 2 0)
  | 0x00d => some (x.g.emul.getD 3 0)
  | 0x010 => some tr.tvec
  | 0x011 => some (w32 (flag tr.inHandler 31 + flag (decide (x.g.pending ≠ [])) 30))
  | 0x012 => some tr.tcause
  | 0x013 => some tr.tpc
  | 0x014 => some tr.tinfo
  | 0x015 => some tr.taddrl
  | 0x016 => some tr.taddrh
  | 0x017 => some tr.tlanes
  | 0x018 => some tr.ttag
  | 0x019 => some (w32 (k.sfq.countP fun r => r.uid = x.g.uid))
  | 0x01a => some 0
  | 0x01b => some x.g.eqsel
  | 0x01c => some (match mine[x.g.eqsel.toNat % 256]? with
      | none => 0
      | some (m, q) =>
        w32 (q.major * 2 ^ 25 + (if q.state = .queued then s.unmet x.core m q else q.cond) * 2 ^ 22 + q.desc / 64))
  | 0x01d => some tr.tdesc
  | 0x100 => some (w32 (flag k.dlogMerging 31 + k.dlogFill * 2 ^ 11 + k.dlogNext))
  | 0x101 => some (w32 (flag k.reclaimWaits 15 + k.lent.length * 2 ^ 9 + flag (k.slots.any fun p => p.2.state ≠ .empty) 8 + k.poolSlots))
  | 0x102 => some (w32 (flag k.exhausted 21 + k.records.countP (fun p => !p.2.resident && p.2.placed) * 2 ^ 18 +
      Nat.min k.records.length 256 * 2 ^ 9 + (256 - ((k.records.filter fun p => p.2.placed).map fun p => p.2.slots).sum)))
  | 0x103 => some (w32 (k.ctlIn.length * 2 ^ 16 + k.srec.length))
  | 0x104 => some 0
  | 0x105 => some k.gresume
  | 0x106 => some k.wdog
  | n =>
    if 0x020 ≤ n ∧ n ≤ 0x02b then some (faultWord s x (n - 0x020))
    else if 0x110 ≤ n ∧ n ≤ 0x127 then some ((k.srec.headD []).getD (n - 0x110) 0)
    else none

/-- t is s after a write of v to register n by the thread of x (R39, R247, R251, R344, R347, R351). -/
def Written (s : State) (x : Ctx) (n : Nat) (v : Word) (t : State) : Prop :=
  let k := s.core x.core
  match n with
  | 0x003 => t = s.modGroup x.core x.gid fun g => { g with arith := v &&& 0x001f003f }
  | 0x004 => ∃ gens : List Word, t = (s.modGroup x.core x.gid fun g => { g with seed := v, gens := gens }) ∧ gens.length = 32 ∧
      ∀ l < 32, gens.getD l 0 = (let g := v ^^^ BitVec.ofNat 32 (0x9e3779b9 * (l + 1)); if g = 0 then 0x6d2b79f5 else g)
  | 0x010 => t = s.modGroup x.core x.gid fun g => { g with trap := { g.trap with tvec := v &&& 0xffffbfff } }
  | 0x01a =>
    if v.getLsbD 0 then
      match k.sfq.find? fun r => r.uid == x.g.uid with
      | none => t = s
      | some r => (∃ more, (t.core x.core).sfq = k.sfq.erase r ++ more) ∧ (t.core x.core).rf = k.rf
    else t = s
  | 0x01b => t = s.modGroup x.core x.gid fun g => { g with eqsel := v &&& 0xff }
  | 0x101 =>
    let slots := Nat.min (v.toNat % 128) 64
    if k.slots.any (fun (_, p) => p.state ≠ .empty) ∨ k.teams.any (fun (_, m) => decide (m.size ≠ 0 ∧ m.base < slots * 65536))
    then t = s
    else
      let gone := k.lent.filter fun g => decide (g * 98304 < slots * 65536)
      let landing := k.l1fills.any fun (_, f) => (k.reclaiming ++ gone).contains f.way
      ∃ poolSlots poolNext reclaiming l1 l1ptr l1fills,
        t = s.setCore x.core { k with poolSlots, poolNext, reclaiming, l1, l1ptr, l1fills } ∧
        (landing = false → poolSlots = slots ∧ poolNext = none) ∧
        (landing = true → poolSlots = k.poolSlots ∧ poolNext = some slots) ∧
        ∀ y ∈ l1, y ∈ k.l1 ∧ y.way ∉ gone
  | 0x104 =>
    t = if v.getLsbD 0 then s.setCore x.core { k with
        srec := (k.srec.drop 1 ++ k.srecWait).take 32, srecWait := (k.srec.drop 1 ++ k.srecWait).drop 32 } else s
  | 0x105 =>
    (t.core x.core).gresume = v &&& 0x3ff ∧ (t.core x.core).rf = k.rf ∧
    (v.getLsbD 31 = false ∨ (s.group x.core (v.toNat % 1024)).escalated = false →
      t = s.setCore x.core { k with gresume := v &&& 0x3ff }) ∧
    (v.getLsbD 31 = true → s.group? x.core (v.toNat % 1024) ≠ none → (s.group x.core (v.toNat % 1024)).escalated = true →
      (t.group x.core (v.toNat % 1024)).escalated = false ∧
      ∀ th ∈ (t.group x.core (v.toNat % 1024)).threads, th.held = false)
  | 0x106 => t = s.setCore x.core { k with wdog := (k.wdog &&& 0x3fffffe0) ||| (v &&& 0x8000001f) }
  | _ => False

/-- The registers with a writable field (R363). -/
def writable : List Nat := [0x003, 0x004, 0x010, 0x01a, 0x01b, 0x101, 0x104, 0x105, 0x106]

/-- The oldest store-fault record of a group, as words (R346, R350). -/
def oldestFault (s : State) (c uid : Nat) : List Word :=
  match (s.core c).sfq.find? fun r => r.uid == uid with
  | some r => (List.range 12).map fun j => w32 (leNat ((r.bytes.drop (4 * j)).take 4))
  | none => []

/-- The 24 words of the supervisor record of an escalated trap (R344, R346): cause with the escalated and the double bit,
context and base set, PC, TINFO, TADDR, TLANES, TTAG, and for store faults the oldest record of the group. -/
def escalation (s : State) (c gid : Nat) (t : Trap) : List Word :=
  let g := s.group c gid
  [w32 (t.cause + 256 + if g.trap.inHandler then 512 else 0), w32 (g.ctx * 2 ^ 24 + gid), t.pc, t.info, t.addrL, t.addrH,
   t.lanes, (s.team c g.team).tag] ++
    ((if t.cause = 4 ∧ t.info.getLsbD 31 = false then oldestFault s c g.uid else []) ++ List.replicate 16 0).take 16

/-- t is s with the trap escalated (R344, R346): the group held whole, and one record posted, or waiting with 32 queued. -/
def Escalated (s : State) (c gid : Nat) (tr : Trap) (t : State) : Prop :=
  let k := s.core c
  (∀ th ∈ (t.group c gid).threads, th.held = true) ∧ (t.group c gid).escalated = true ∧
  (t.core c).srec ++ (t.core c).srecWait =
    (if k.srec.length < 32 then k.srec ++ [escalation s c gid tr] ++ k.srecWait
     else k.srec ++ (k.srecWait ++ [escalation s c gid tr])) ∧
  (t.core c).rf = k.rf ∧ (t.core c).store = k.store ∧ (t.core c).banks = k.banks

/-- t is s with the trap taken by the group's handler (R342): the trap registers hold its cause, the victims' resume points
are pushed and they go on at TVEC, and every other thread is held. -/
def Handled (s : State) (c gid : Nat) (tr : Trap) (victims : Word) (precise : Bool) (t : State) : Prop :=
  let g := s.group c gid
  let g' := t.group c gid
  g'.trap = { g.trap with
    inHandler := true, tcause := w32 ((if precise then 2 ^ 31 else 0) + tr.code * 2 ^ 16 + tr.cause),
    tpc := tr.pc, tinfo := tr.info, taddrl := tr.addrL, taddrh := tr.addrH, tlanes := victims, tdesc := tr.desc,
    ttag := (s.team c g.team).tag } ∧
  (∀ l < g.threads.length, victims.getLsbD l = true →
    let th := g'.threads.getD l {}
    th.pc = g.trap.tvec &&& 0xffff3fff ∧ th.victim = true ∧ th.held = false ∧ th.depth = (g.threads.getD l {}).depth + 1) ∧
  (∀ l < g.threads.length, victims.getLsbD l = false →
    g'.threads.getD l {} = { g.threads.getD l {} with held := true, laneWait := 0, uniWait := 0 }) ∧
  (t.core c).rf = (s.core c).rf ∧ (t.core c).store = (s.core c).store

/-- The conditions under which R342 escalates a trap of victims V. -/
def escalates (s : State) (c gid : Nat) (victims : Word) : Prop :=
  let g := s.group c gid
  victims = 0 ∨ g.trap.tvec.getLsbD 15 = false ∨ g.trap.inHandler = true ∨
    ∃ l ∈ lanesOf victims, 4 + (s.team c g.team).windowOf gid / 4 ≤ (g.threads.getD l {}).depth

/-! ### Floating point results of each lane (R258 to R261), as functions of d, a and b: the value and its flags -/

def float : Instr → Option (MReg × VReg × VReg × LaneSrc × (Word → Word → Word → Word × Word))
  | .fadd m d a b => some (m, d, a, b, fun _ a b => Fp.add a b)
  | .fsub m d a b => some (m, d, a, b, fun _ a b => Fp.sub a b)
  | .fmul m d a b => some (m, d, a, b, fun _ a b => Fp.mul a b)
  | .ffma m d a b => some (m, d, a, b, fun d a b => Fp.fma a b d)
  | .fmin m d a b => some (m, d, a, b, fun _ a b => Fp.minMax false a b)
  | .fmax m d a b => some (m, d, a, b, fun _ a b => Fp.minMax true a b)
  | .fdiv m d a b => some (m, d, a, b, fun _ a b => Fp.div a b)
  | .frcp m d a => some (m, d, a, .lit 0, fun _ a _ => Fp.rcp a)
  | .frsq m d a => some (m, d, a, .lit 0, fun _ a _ => Fp.rsq a)
  | .fex2 m d a => some (m, d, a, .lit 0, fun _ a _ => Fp.ex2 a)
  | .flg2 m d a => some (m, d, a, .lit 0, fun _ a _ => Fp.lg2 a)
  | .fsqrt m d a => some (m, d, a, .lit 0, fun _ a _ => Fp.sqrt a)
  | .hadd2 m d a b => some (m, d, a, b, halves Fp.f16 false fun x y _ => Fp.addVal Fp.f16 x y)
  | .hmul2 m d a b => some (m, d, a, b, halves Fp.f16 false fun x y _ => Fp.mulVal Fp.f16 x y)
  | .hfma2 m d a b => some (m, d, a, b, halves Fp.f16 false (Fp.fmaVal Fp.f16))
  | .hadd2Bf m d a b => some (m, d, a, b, halves Fp.bf16 true fun x y _ => Fp.addVal Fp.bf16 x y)
  | .hmul2Bf m d a b => some (m, d, a, b, halves Fp.bf16 true fun x y _ => Fp.mulVal Fp.bf16 x y)
  | .hfma2Bf m d a b => some (m, d, a, b, halves Fp.bf16 true (Fp.fmaVal Fp.bf16))
  | _ => none
where
  /-- Each half alone, [15:0] and [31:16]; the flags of both. -/
  halves (f : Fp.Fmt) (flush : Bool) (op : Fp.Val → Fp.Val → Fp.Val → Nat × Word) (d a b : Word) : Word × Word :=
    let lo := Fp.half f flush op (a.toNat % 65536) (b.toNat % 65536) (d.toNat % 65536)
    let hi := Fp.half f flush op (a.toNat / 65536) (b.toNat / 65536) (d.toNat / 65536)
    (BitVec.ofNat 32 (hi.1 * 65536 + lo.1), lo.2 ||| hi.2)

/-! ### Group data (R265 to R269) -/

/-- The element that SHFL gives lane l, from the element of the source lane when that lane is in Active (R266). -/
def shuffled (act : Word) (mode : ShflMode) (a : Nat → Word) (k : Word) (l : Nat) : Word :=
  let src : Int := match mode with
    | .idx => k.toNat % 32
    | .up => (l : Int) - k.toNat
    | .down => (l : Int) + k.toNat
    | .xor => ((l ^^^ k.toNat % 32 : Nat) : Int)
  if 0 ≤ src ∧ src ≤ 31 ∧ act.getLsbD src.toNat = true then a src.toNat else a l

/-- The sum, minimum or maximum of a over lanes in ascending order; 0 over none. -/
def reduced (op : RedOp) (a : Nat → Word) : List Nat → Word
  | [] => 0
  | [l] => a l
  | l :: j :: t =>
    let r := reduced op a (j :: t)
    match op with
    | .add => a l + r
    | .min => if (a l).toInt ≤ r.toInt then a l else r
    | .max => if r.toInt ≤ (a l).toInt then a l else r

/-- What VOTE writes to every lane of Active (R267). -/
def voted (act : Word) (mode : VoteMode) (a : Nat → Word) : Word :=
  let v := BitVec.ofNat 32 ((lanesOf act).foldl (fun n l => n + if a l = 0 then 0 else 2 ^ l) 0)
  match mode with
  | .ballot => v
  | .any => if v = 0 then 0 else 1
  | .all => if v = act then 1 else 0
  | .eq => if (∀ i ∈ lanesOf act, ∀ j ∈ lanesOf act, a i = a j) then 1 else 0

/-- The results of the group-data instructions of one destination, for each lane of Active. -/
def together (s : State) (x : Ctx) : Instr → Option (MReg × VReg × (Word → Nat → Word))
  | .shfl m mode d a b => some (m, d, fun act l => shuffled act mode (elem s x a) (vlast b l) l)
  | .vote m mode d a => some (m, d, fun act _ => voted act mode (elem s x a))
  | .redg m op d a => some (m, d, fun act _ => reduced op (elem s x a) (lanesOf act))
  | .scan m .add d a => some (m, d, fun act l => reduced .add (elem s x a) ((lanesOf act).filter (· ≤ l)))
  | .scan m .xadd d a => some (m, d, fun act l => reduced .add (elem s x a) ((lanesOf act).filter (· < l)))
  | .scan m .min d a => some (m, d, fun act l => reduced .min (elem s x a) ((lanesOf act).filter (· ≤ l)))
  | .scan m .max d a => some (m, d, fun act l => reduced .max (elem s x a) ((lanesOf act).filter (· ≤ l)))
  | _ => none
where
  vlast (b : VLit) (l : Nat) : Word := match b with
    | .v r => elem s x r l
    | .lit w => w

/-- Major and S of the group-data instructions of one destination (R266 to R268). -/
def groupCode : Instr → Option (Nat × Nat)
  | .shfl _ .idx _ _ _ => some (0x40, 0)
  | .shfl _ .up _ _ _ => some (0x40, 1)
  | .shfl _ .down _ _ _ => some (0x40, 2)
  | .shfl _ .xor _ _ _ => some (0x40, 3)
  | .vote _ .ballot _ _ => some (0x41, 0)
  | .vote _ .any _ _ => some (0x41, 1)
  | .vote _ .all _ _ => some (0x41, 2)
  | .vote _ .eq _ _ => some (0x41, 3)
  | .redg _ .add _ _ => some (0x42, 0)
  | .redg _ .min _ _ => some (0x42, 1)
  | .redg _ .max _ _ => some (0x42, 2)
  | .scan _ .add _ _ => some (0x43, 0)
  | .scan _ .xadd _ _ => some (0x43, 1)
  | .scan _ .min _ _ => some (0x43, 2)
  | .scan _ .max _ _ => some (0x43, 3)
  | _ => none

/-- The order of TOPK's candidates: greater first, −0 below +0, equal values by ascending lane (R269). -/
def above (a : Nat → Word) (i j : Nat) : Prop :=
  Fp.key (a j).toNat < Fp.key (a i).toNat ∨ (a i = a j ∧ i < j)

/-- What TOPK writes to lane l: the candidate of the lane's slot, its value in vD and its lane in vD+1; a fill; or nothing. -/
def topped (nz : Bool) (a : Nat → Word) (out order : List Nat) (k : Nat) (j l : Nat) : Option Word :=
  match (out.take (min k 32)).findIdx? (· == l) with
  | none => none
  | some slot => match order[slot]? with
    | some src => some (if j = 0 then a src else BitVec.ofNat 32 src)
    | none => if nz then some (if j = 0 then 0xff800000 else 0xffff) else none

/-! ### Block formats (R270 to R278) -/

/-- The scale byte bsel of a scale register's element. -/
def scaleByte (w : Word) (bsel : BitVec 2) : Nat := w.toNat / 2 ^ (8 * bsel.toNat) % 256

/-- The element of register number r in a lane of x's group. -/
def at_ (s : State) (x : Ctx) (r l : Nat) : Word := (s.core x.core).getV x.g x.gid r l

/-- The element of a lane of vD that BDOT, BSCL and DEQ write, with its flags, when the lanes ls are Active, the first the
lowest (R275 to R277): m(L) is the mantissa of n bits that the lane holds. -/
def blockResult (s : State) (x : Ctx) : Instr → Option (MReg × VReg × (List Nat → Nat → Word × Word))
  | .bdot m f d a b bsel => some (m, d, fun ls l =>
    let n := Fp.BFmtBits f
    let ex := scaleByte (at_ s x b.toNat (ls.headD 0)) bsel
    let ey := scaleByte (at_ s x (b.toNat + 1) (ls.headD 0)) bsel
    if ex = 255 ∨ ey = 255 then (0x7fc00000, flInvalid)
    else
      let t := (ls.map fun j => Fp.mantissa n (at_ s x a.toNat j) * Fp.mantissa n (at_ s x (a.toNat + 1) j)).sum
      match Fp.unpack Fp.f32 (at_ s x d.toNat l).toNat with
      | .nan sig => (0x7fc00000, if sig then flInvalid else 0)
      | .inf neg => (if neg then 0xff800000 else 0x7f800000, 0)
      | .fin neg md e =>
        let p : Int := (ex : Int) + ey - 254 - 2 * ((n : Int) - 2)
        let lo := min e p
        let sum := (if neg then -1 else 1) * (md : Int) * 2 ^ (e - lo).toNat + t * 2 ^ (p - lo).toNat
        let r := Fp.roundInt Fp.f32 .rne 0 sum lo false
        (BitVec.ofNat 32 r.1, r.2))
  | .bscl m f d a b bsel => some (m, d, fun ls l =>
    let n := Fp.BFmtBits f
    let eo := scaleByte (at_ s x b.toNat (ls.headD 0)) bsel
    let en := scaleByte (at_ s x (b.toNat + 1) (ls.headD 0)) bsel
    if eo = 255 ∨ en = 255 then (0, flInvalid)
    else
      let mx : Int := 2 ^ (n - 1) - 1
      let q := Fp.mantissa n (at_ s x a.toNat l)
      let r := nearest (q * 2 ^ (eo - en)) (2 ^ (en - eo))
      let c := max (-mx) (min mx r)
      (BitVec.ofInt 32 c,
        flIf (c ≠ r) flOverflow ||| flIf (c * 2 ^ (en - eo) ≠ q * 2 ^ (eo - en)) flInexact |||
          flIf (q ≠ 0 ∧ c = 0) flUnderflow))
  | .deq m f d a b bsel => some (m, d, fun ls l =>
    let n := Fp.BFmtBits f
    let e := scaleByte (at_ s x b.toNat (ls.headD 0)) bsel
    if e = 255 then (0x7fc00000, flInvalid)
    else
      let v := Fp.mantissa n (at_ s x a.toNat l)
      if e = 254 ∧ v = -(2 ^ (n - 1)) then (0xff800000, flOverflow)
      else (BitVec.ofNat 32 (Fp.roundInt Fp.f32 .rz 0 v ((e : Int) - 127 - ((n : Int) - 2)) false).1, 0))
  | _ => none
where
  /-- p / q rounded to the nearest integer, a tie to even. -/
  nearest (p : Int) (q : Nat) : Int :=
    let k := p.fdiv q
    let r := p - k * q
    if 2 * r < q ∨ (2 * r = q ∧ k % 2 = 0) then k else k + 1

/-- The magnitude of a finite FP32 value in units of 2^−149. -/
def magnitude (w : Word) : Nat :=
  match Fp.unpack Fp.f32 w.toNat with
  | .fin _ m e => m * 2 ^ (e + 149).toNat
  | _ => 0

/-- E is the scale byte that QNT gives the values of some lanes (R274): 255 with a NaN, 254 without a finite value, else the
exponent of the largest finite magnitude, never below 0. -/
def ScaleOf (ls : List Nat) (a : Nat → Word) (scale : Nat) : Prop :=
  if ls.any (fun l => Fp.isNan32 (a l)) then scale = 255
  else if ls.all (fun l => !Fp.finite32 (a l)) then scale = 254
  else (∀ l ∈ ls, Fp.finite32 (a l) = true → magnitude (a l) < 2 ^ (scale + 23)) ∧
    (scale ≠ 0 → ∃ l ∈ ls, Fp.finite32 (a l) = true ∧ 2 ^ (scale + 22) ≤ magnitude (a l))

/-- The mantissa of a lane under a scale, with its flags, no lane holding a NaN (R274). -/
def quantised (n scale : Nat) (mode : RMode) (draw : Nat) (a : Word) : Int × Word :=
  let mx : Int := 2 ^ (n - 1) - 1
  match Fp.unpack Fp.f32 a.toNat with
  | .fin neg m e =>
    let u := e - ((scale : Int) - 127 - ((n : Int) - 2))
    let q := Fp.rint mode neg draw (m * 2 ^ u.toNat) (2 ^ (-u).toNat)
    let r : Int := if neg then -(q.1 : Int) else q.1
    let c := max (-mx) (min mx r)
    (c, flIf (q.2 || decide (c ≠ r)) flInexact ||| flIf (m ≠ 0 ∧ c = 0) flUnderflow)
  | _ => (if a.getLsbD 31 then -mx - 1 else mx, flOverflow)

/-- The number of values that TOPK is asked for. -/
def wanted (s : State) (x : Ctx) : TopkK → Nat
  | .imm km1 => km1.toNat + 1
  | .reg r => ((s.core x.core).getS x.gid r.toNat).toNat

/-- The OR of the flags of the lanes of a mask. -/
def flagsOf (lanes : Word) (f : Nat → Word) : Word := (lanesOf lanes).foldl (fun acc l => acc ||| f l) 0

/-! ### Engine commands (R304), rays (R319 to R327) and items (R328) -/

/-- Major, code and operands of the engine commands (R304, R308, R331, R333, R337). -/
def command : Instr → Option (Nat × Nat × EngOps)
  | .cpy e => some (0x60, 0, e)
  | .cpysl e => some (0x61, 0, e)
  | .chain e => some (0x62, 0, e)
  | .get e => some (0x65, 0, e)
  | .put e => some (0x66, 0, e)
  | .bagq e => some (0x67, 0, e)
  | .mma c e => some (0x68, c.code.toNat, e)
  | .accld e => some (0x69, 0, e)
  | .accst e => some (0x6a, 0, e)
  | .collAg e => some (0x79, 0, e)
  | .collRs e => some (0x79, 1, e)
  | .collA2a e => some (0x79, 2, e)
  | .collBar e => some (0x79, 3, e)
  | _ => none

/-- The engine that executes a command by its major: 0 copy, 1 collective unit, 2 matrix sequencer, 3 memory port (R304). -/
def engineFor : Nat → Nat
  | 0x60 | 0x61 | 0x62 => 0
  | 0x65 | 0x66 | 0x79 => 1
  | 0x67 => 3
  | _ => 2

/-- The instructions of the traversal threads (R319): whether they need a held ray, whether it must not be done, and the
register of the ray block. -/
def traversalWord : Instr → Option (Bool × Bool × SReg)
  | .rayrecv d => some (false, false, d)
  | .rayfwd _ _ b | .hitsend _ b | .rayend b => some (true, false, b)
  | .boxt _ _ b | .trit _ _ b | .rxf _ _ b => some (true, true, b)
  | _ => none

/-- The 24 words of a ray block in the registers of a thread. -/
def block (s : State) (x : Ctx) (b : SReg) : List Word := (List.range 24).map fun i => (issued s x).getS x.gid (b.toNat + i)

/-- The thread of x is a traversal thread. -/
def traverses (x : Ctx) : Prop := 512 ≤ x.gid ∧ x.gid ≠ supGid

/-- n bytes of the treelet that a held ray is bound to, from byte i of its image (R86, R92). -/
def imageBytes (s : State) (x : Ctx) (slot i n : Nat) : List Byte :=
  (List.range n).map fun j => Mem.get (n := 8) (s.core x.core).store (slot * 65536 + i + j)

/-- Nodes and slots of the bound treelet (R86). -/
def nodesOf (s : State) (x : Ctx) (slot : Nat) : Nat := leNat (imageBytes s x slot 8 2)
def slotsOf (s : State) (x : Ctx) (slot : Nat) : Nat := leNat (imageBytes s x slot 10 2)

/-- The rays that RAYSEND sends, in ascending lane order, and the items that SPAWN makes: stage and words. -/
def raysOf (s : State) (x : Ctx) : Instr → Option (List (List Word))
  | .raysendLane m a => some ((lanesOf (x.active m)).map fun l => (List.range 24).map fun i => at_ s x (a.toNat + i) l)
  | .raysendUniform a => some [block s x a]
  | _ => none
def itemsOf (s : State) (x : Ctx) : Instr → Option (List (Word × List Word))
  | .spawnLane m a b => some ((lanesOf (x.active m)).map fun l =>
      (match b with
        | .v r => (issued s x).getV x.g x.gid r.toNat l
        | .lit w => w, (List.range 4).map fun i => (issued s x).getV x.g x.gid (a.toNat + i) l))
  | .spawnUniform a b => some [(slast s x b, (List.range 4).map fun i => (issued s x).getS x.gid (a.toNat + i))]
  | _ => none

/-- A ray that RAYSEND refuses (R320). -/
def refusedRay (s : State) (x : Ctx) (ray : List Word) : Prop :=
  let w := fun i => ray.getD i 0
  let flags := (w 13).toNat
  let depth := flags / 2 ^ 19 % 8
  let scene := (w 9).toNat / 2 ^ 24
  let stage := s.field (State.dieOff (s.dieOf x.core) 0) 19 16
  (∃ i < 6, Fp.finite32 (w i) = false) ∨ (∀ i < 3, (w (3 + i)).toNat % 2 ^ 31 = 0) ∨
  Fp.isNan32 (w 6) = true ∨ Fp.lt32 (w 6) 0 = true ∨ Fp.isNan32 (w 7) = true ∨ Fp.lt32 (w 7) (w 6) = true ∨
  1 < flags / 2 ^ 30 ∨ 4 < depth ∨
  (∃ k < depth, Fp.isNan32 (w (15 + 2 * k)) = true ∨ (w (15 + 2 * k)).getLsbD 31 = true) ∨
  (s.field (State.sceneOff scene 0) 63 63 = 1 ∧ s.field (State.sceneOff scene 1) 63 56 ≠ x.g.ctx) ∨
  ((s.core x.core).stage = none ∧ (s.field (State.stageOff (s.dieOf x.core) stage 0) 63 63 = 0 ∨
    ∀ y, (s.die (s.dieOf x.core)).stages.look stage = some y → y.ctx ≠ x.g.ctx))

/-- t is s after a ray has left core c (R320): the lowest free home slot is taken, and its save record keeps the serial; the ray goes
with its home word, no primitive, no hit and no instance, and of its flags the caller's. -/
def launched (c : Nat) (s : State) (ray : List Word) : State :=
  let k := s.core c
  match (List.range 1024).find? fun j => !k.homeUsed.contains j with
  | none => s
  | some slot =>
    ((s.setCore c { k with homeUsed := slot :: k.homeUsed, raySerial := k.raySerial + 1 }).homeWrite .hbm (s.saveRecord c slot + 60)
      (leBytes 4 k.raySerial.toNat)).routeRay c ((List.range 24).map fun j =>
        if j = 8 then w32 (s.device * 2 ^ 20 + s.logical c * 2 ^ 10 + slot)
        else if j = 10 ∨ j = 11 then 0xffffffff
        else if j = 12 then 0
        else if j = 13 then ray.getD 13 0 &&& 0xfff80000
        else ray.getD j 0)

/-- An item that SPAWN refuses (R328). -/
def refusedItem (s : State) (x : Ctx) (i : Word × List Word) : Prop :=
  16 ≤ i.1.toNat ∨ s.field (State.stageOff (s.dieOf x.core) i.1.toNat 0) 63 63 = 0 ∨
  (∀ y, (s.die (s.dieOf x.core)).stages.look i.1.toNat = some y → y.ctx ≠ x.g.ctx) ∨
  (i.2.getD 0 0).toNat / 2 ^ 14 % 4 ≠ 0

/-! ### Steps that no instruction word names -/

/-- The translation that an ATS completion gives (R16, R17). -/
def entryOf (s : State) (m : Miss) (g : AtsGrant) (ap : Ap) (off : Nat) : TEntry :=
  { ctx := m.ctx, page := m.page / g.pageSize * g.pageSize, size := g.pageSize, read := g.read, write := g.write, ap, off,
    dirty := false, link := s.linkOf g.phys }

end Claims
end Sys2Proof

open Sys2Proof Sys2Proof.Machine Sys2Proof.Claims

/-! ### Lane instructions -/

/-- R253 to R255: every lane of Active gets the result, every other register element and all other state stay, and the bundle
goes on at the next instruction. -/
def Obligations.LaneIntegerResults : Prop :=
  ∀ i s x m d a b f, Runs i s x → s.memWf = true → integer i = some (m, d, a, b, f) →
    ∃ t, WritesLanes s x (x.active m) d (fun l => f (elem s x d l) (elem s x a l) (last s x b l)) t ∧
      exec i s = .next (t.advance x)

/-- R257: SEL writes every executing lane, whatever its mask, with a where the lane's bit of mk is 1 and b elsewhere; its word has
major 0x11 and mk in M. -/
def Obligations.LaneSelect : Prop :=
  (∀ s x m d a b, Runs (.selLane m d a b) s x → s.memWf = true →
    ∃ t, WritesLanes s x x.lanes d
        (fun l => if (x.g.mask m.toNat).getLsbD l then elem s x a l else last s x b l) t ∧
      exec (.selLane m d a b) s = .next (t.advance x)) ∧
  ∀ m d a b, ∃ w rest, encode (.selLane m d a b) = w :: rest ∧ (w.extractLsb' 24 8).toNat = 0x11 ∧ w.extractLsb' 20 3 = m

/-- R256: bit L of md is 1 when lane L is in Active and a cc b holds, and 0 otherwise.
R260: FCMP writes its mask as CMP does and raises the flags of its condition. -/
def Obligations.MasksFromComparisons : Prop :=
  (∀ s x m cc md a b, Runs (.cmpLane m cc md a b) s x →
    ∃ v : Word, (∀ l, v.getLsbD l = ((x.active m).getLsbD l && Claims.holds cc (elem s x a l) (last s x b l))) ∧
      exec (.cmpLane m cc md a b) s = .next ((s.writeMask x md v).advance x)) ∧
  (∀ s x m cc md a b, Runs (.fcmp m cc md a b) s x →
    ∃ v : Word, (∀ l, v.getLsbD l = ((x.active m).getLsbD l && (Fp.cmp cc (elem s x a l) (last s x b l)).1)) ∧
      exec (.fcmp m cc md a b) s = .next (((s.writeMask x md v).raiseFlags x (x.active m)
        (flagsOf (x.active m) fun l => (Fp.cmp cc (elem s x a l) (last s x b l)).2)).advance x))

/-- R258 to R261, R248: every lane of Active gets the value, and the flags of the lanes of Active are raised together.
Where the rules leave a choice it is the model's: values within a bound (log 11). -/
def Obligations.LaneFloatResults : Prop :=
  ∀ i s x m d a b f, Runs i s x → s.memWf = true → float i = some (m, d, a, b, f) →
    ∃ t, WritesLanes s x (x.active m) d (fun l => (f (elem s x d l) (elem s x a l) (last s x b l)).1) t ∧
      exec i s = .next ((t.raiseFlags x (x.active m)
        (flagsOf (x.active m) fun l => (f (elem s x d l) (elem s x a l) (last s x b l)).2)).advance x)

/-- R262 to R264, R252: FCVT converts each lane of Active under its rounding mode; mode 4 steps the generator of each lane of
Active once and draws from it. -/
def Obligations.LaneConversion : Prop :=
  ∀ s x m d a dst src r, Runs (.fcvt m d a dst src r) s x → s.memWf = true →
    ∃ t, WritesLanes (if CvtRnd.mode r = .sr then s.stepGens x (x.active m) else s) x (x.active m) d
        (fun l => (Fp.convert dst src (CvtRnd.mode r) (x.draw l) (elem s x a l)).1) t ∧
      exec (.fcvt m d a dst src r) s = .next ((t.raiseFlags x (x.active m)
        (flagsOf (x.active m) fun l => (Fp.convert dst src (CvtRnd.mode r) (x.draw l) (elem s x a l)).2)).advance x)

/-- R266 to R268: SHFL, VOTE, REDG and SCAN give each lane of Active its result from the elements that the lanes held before; their
words have majors 0x40 to 0x43 and the operation in S. -/
def Obligations.GroupDataResults : Prop :=
  (∀ i s x m d f, Runs i s x → s.memWf = true → together s x i = some (m, d, f) →
    ∃ t, WritesLanes s x (x.active m) d (f (x.active m)) t ∧ exec i s = .next (t.advance x)) ∧
  ∀ i major code, groupCode i = some (major, code) → ∃ w rest, encode i = w :: rest ∧ (w.extractLsb' 24 7).toNat = major ∧
    w.getLsbD 31 = false ∧ (w.extractLsb' 0 2).toNat = code

/-- R269: TOPK writes the k largest values and their lanes to the lanes of Active in ascending order; a register k above 32
counts as 32 and sets kclamp.
Where the rules leave a choice it is the model's: an empty Active (log 45). -/
def Obligations.LargestValues : Prop :=
  ∀ s x m nz d a k, Runs (.topk m nz d a k) s x → s.memWf = true → d.toNat % 2 = 0 →
    ∃ order t,
      order.Perm ((lanesOf (x.active m)).filter fun l => !Fp.isNan32 (elem s x a l)) ∧ order.Pairwise (above (elem s x a)) ∧
      WritesRows s x d 2 (topped nz (elem s x a) (lanesOf (x.active m)) order (wanted s x k)) t ∧
      exec (.topk m nz d a k) s = .next
        (((if 32 < wanted s x k ∧ x.active m ≠ 0 then
            t.modGroup x.core x.gid fun g => { g with arith := g.arith ||| 0x20 } else t).raiseFlags x (x.active m)
          (flagsOf (x.active m) fun l => flIf (Fp.isSig32 (elem s x a l)) flInvalid)).advance x)

/-- R275 to R278: BDOT, BSCL and DEQ write each lane of Active and raise the flags of the lanes together; with Active empty nothing
is written.
R274, R278: QNT writes the mantissas of one block to vD and its scale byte to byte bsel of vB, in every lane of Active. -/
def Obligations.BlockFormats : Prop :=
  (∀ i s x m d f, Runs i s x → s.memWf = true → blockResult s x i = some (m, d, f) →
    if x.active m = 0 then exec i s = .next (s.advance x)
    else ∃ t, WritesLanes s x (x.active m) d (fun l => (f (lanesOf (x.active m)) l).1) t ∧
      exec i s = .next ((t.raiseFlags x (x.active m)
        (flagsOf (x.active m) fun l => (f (lanesOf (x.active m)) l).2)).advance x)) ∧
  (∀ s x m f d a b bsel r, Runs (.qnt m f d a b bsel r) s x → s.memWf = true →
    if x.active m = 0 then exec (.qnt m f d a b bsel r) s = .next (s.advance x)
    else
      let mantissaOf := fun (scale l : Nat) =>
        if scale = 255 then ((0 : Int), flInvalid)
        else quantised (Fp.BFmtBits f) scale (r.getD .rne) (x.draw l) (elem s x a l)
      ∃ scale t u,
      ScaleOf (lanesOf (x.active m)) (elem s x a) scale ∧
      WritesLanes (if r.getD .rne = .sr then s.stepGens x (x.active m) else s) x (x.active m) d
        (fun l => BitVec.ofInt 32 (mantissaOf scale l).1) t ∧
      WritesLanes t x (x.active m) b (fun l => BitVec.ofNat 32 (setBits (elem s x b l).toNat (8 * bsel.toNat + 7)
        (8 * bsel.toNat) scale)) u ∧
      exec (.qnt m f d a b bsel r) s = .next ((u.raiseFlags x (x.active m)
        (flagsOf (x.active m) fun l => (mantissaOf scale l).2)).advance x))

/-! ### Uniform integer instructions -/

/-- R227 to R230, R236: one uniform register gets the result; every other register and all other state stay. RDLANE of v0 to v15 on
the supervisor thread, which the rules give no such registers, gets a free value.
R227, R229: AND, OR, XOR and MOV over s and m registers write an s register or a mask.
R229, R51: MOV bk, sP writes the pair into bk and discards the reserved bits; MOV sP, bk writes bk into the pair. -/
def Obligations.UniformResults : Prop :=
  (∀ i s x d v, Runs i s x → s.memWf = true → uniform s x i = some (d, v) →
    ∃ t, WritesUniform s x d.toNat [v] t ∧ exec i s = .next (t.advance x)) ∧
  (∀ s x d a b, Runs (.rdlane d a b) s x → s.memWf = true → x.gid = supGid → a.toNat < 16 →
    ∃ v t, WritesUniform { s with free := s.free + 1 } x d.toNat [v] t ∧ exec (.rdlane d a b) s = .next (t.advance x)) ∧
  (∀ i s x d v, Runs i s x → s.memWf = true → logic s x i = some (d, v) →
    match d with
    | .s r => ∃ t, WritesUniform s x r.toNat [v] t ∧ exec i s = .next (t.advance x)
    | .m r => exec i s = .next ((s.writeMask x r v).advance x)) ∧
  (∀ s x (b : BReg) (p : SReg),
    (Runs (.movUniform (.toAwl b p)) s x →
      let pair : DWord := (s.core x.core).getS x.gid (p.toNat + 1) ++ (s.core x.core).getS x.gid p.toNat
      exec (.movUniform (.toAwl b p)) s = .next ((s.modGroup x.core x.gid fun g =>
        { g with awl := g.awl.set b.toNat (pair &&& 0x03ffffff03ffffff) }).advance x)) ∧
    (Runs (.movUniform (.fromAwl p b)) s x → s.memWf = true → p.toNat % 2 = 0 →
      ∃ t, WritesUniform s x p.toNat
          [(x.g.awl.getD b.toNat 0).extractLsb' 0 32, (x.g.awl.getD b.toNat 0).extractLsb' 32 32] t ∧
        exec (.movUniform (.fromAwl p b)) s = .next (t.advance x)))

/-- R228: the borderline cases of the uniform integer instructions: division by zero and of −2³¹ by −1, shifts by 32 or more, the
product of −2³¹ with itself, and results that wrap. None traps or sets a flag. -/
def Obligations.BorderlineCases : Prop :=
  ∀ s x d a b, s.memWf = true →
    let va := ureg s x a
    let vb := ulast s x b
    let gives := fun (i : Instr) (v : Word) => Runs i s x → ∃ t, WritesUniform s x d.toNat [v] t ∧ exec i s = .next (t.advance x)
    (vb = 0 → gives (.div d a b) 0xffffffff ∧ gives (.divu d a b) 0xffffffff ∧ gives (.rem d a b) va ∧ gives (.remu d a b) va) ∧
    (va = 0x80000000 → vb = 0xffffffff → gives (.div d a b) 0x80000000 ∧ gives (.rem d a b) 0) ∧
    (32 ≤ vb.toNat → gives (.shlUniform d a b) 0 ∧ gives (.shrUniform d a b) 0 ∧
      gives (.sarUniform d a b) (if va.getLsbD 31 then 0xffffffff else 0)) ∧
    (∀ v : BitVec 11, 32 ≤ v.toNat → gives (.shli d a v) 0 ∧ gives (.shri d a v) 0 ∧
      gives (.sari d a v) (if va.getLsbD 31 then 0xffffffff else 0)) ∧
    (va = 0x80000000 → vb = 0x80000000 → gives (.mulhiUniform d a b) 0x40000000) ∧
    gives (.addUniform d a b) (BitVec.ofNat 32 ((va.toNat + vb.toNat) % 2 ^ 32)) ∧
    gives (.subUniform d a b) (BitVec.ofInt 32 (va.toInt - vb.toInt)) ∧
    gives (.mulUniform d a b) (BitVec.ofNat 32 (va.toNat * vb.toNat % 2 ^ 32))

/-! ### Control flow -/

/-- R231: a branch whose condition holds goes to its target in the current overlay, and any other goes on.
R233: JMPR goes to word a of the overlay, and traps with cause 5 when a[31:14] is not 0.
Where the rules leave a choice it is the model's: TADDR (log 36). -/
def Obligations.Jumps : Prop :=
  (∀ i s x t taken, Runs i s x → branches s x i = some (t, taken) →
    exec i s = .next (if taken then goesTo s x (within x t.toNat) else s.advance x)) ∧
  (∀ s x a, Runs (.jmpr a) s x →
    exec (.jmpr a) s = .next (if (ureg s x a).toNat < 16384 then goesTo s x (within x (ureg s x a).toNat)
      else s.preciseTrap x (mkTrap 5 3 (ureg s x a).toNat)))

/-- R232 to R234: a call whose target is in range and whose threads have room pushes the next PC on every link stack of the bundle
and goes to the target; CALLO moves to the target overlay's copy.
R232 to R234: a call out of range, or with a full link stack, traps with cause 5 and changes nothing else.
Where the rules leave a choice it is the model's: TADDR (log 36). -/
def Obligations.Calls : Prop :=
  (∀ i s x target far, Runs i s x → calls s x i = some (target, far) → ¬ full s x →
    (if far then target.extractLsb' 14 2 = 0 else target.toNat < 16384) →
    exec i s = .next (if far then (pushed s x (x.pc + w32 x.len)).moveTo x.core x.gid x.lanes target (.callo x.pc)
      else goesTo (pushed s x (x.pc + w32 x.len)) x (within x target.toNat))) ∧
  (∀ i s x target far, Runs i s x → calls s x i = some (target, far) →
    let out := if far then target.extractLsb' 14 2 ≠ 0 else 16384 ≤ target.toNat
    (out → exec i s = .next (s.preciseTrap x (mkTrap 5 3 target.toNat))) ∧
    (¬ out → full s x → exec i s = .next (s.preciseTrap x (mkTrap 5 7))))

/-- R232, R233: RET pops each thread's link stack and the thread goes on at the PC it popped; with an empty stack the bundle
traps with cause 5. Registers, core store and lane banks stay. -/
def Obligations.ReturnPopsEachThread : Prop :=
  ∀ s x, Runs .ret s x →
    (bare x → exec .ret s = .next (s.preciseTrap x (mkTrap 5 7))) ∧
    (¬ bare x → ∃ t : State, exec .ret s = .next t ∧
      (∀ l ∈ lanesOf x.lanes, l < x.g.threads.length →
        (thread t x l).pc = s.linkTop x.core x.gid l ∧ (thread t x l).depth = (thread s x l).depth - 1) ∧
      (t.core x.core).rf = (s.core x.core).rf ∧ (t.core x.core).store = (s.core x.core).store ∧
      (t.core x.core).banks = (s.core x.core).banks)

/-- R235: EXIT ends every thread of the bundle: its lane leaves m0 and its occupancy is withdrawn, each copy counting the threads
that still stand in it; when m0 becomes 0 the group is ending. -/
def Obligations.ExitEndsThreads : Prop :=
  ∀ s x, Runs .exit s x → x.gid ≠ supGid → (512 ≤ x.gid → x.g.ray = none) →
    ∃ t : State, exec .exit s = .next t ∧
      (t.group x.core x.gid).m0 = x.g.m0 &&& ~~~x.lanes ∧
      (t.group x.core x.gid).ending = decide (x.g.m0 &&& ~~~x.lanes = 0) ∧
      (∀ l, x.lanes.getLsbD l = true → (thread t x l).live = false) ∧
      (∀ l, x.lanes.getLsbD l = false → thread t x l = thread s x l) ∧
      (x.g.m0 &&& ~~~x.lanes = 0 → Instr.groupEnd x.core x.gid ∈ t.agenda) ∧
      (t.core x.core).records = ({ s.core x.core with groups := (t.core x.core).groups } : Core).recount.records ∧
      (t.core x.core).rf = (s.core x.core).rf ∧ (t.core x.core).store = (s.core x.core).store

/-- R236, R242: NOP changes nothing except the PC. YIELD changes nothing except the PC and the readiness of its threads: they are
ready at once when no other group of their pipe has a ready uniform bundle, and else wait for those groups, each until its next
uniform issue or until it has no ready bundle any more, and for 64 cycles at most, or 16 on a traversal thread.
Where the rules leave a choice it is the model's: the clock (log 1). -/
def Obligations.YieldAndNop : Prop :=
  (∀ s x, Runs .nop s x → exec .nop s = .next (s.advance x)) ∧
  (∀ s x, Runs .yield s x →
    let k := s.core x.core
    let rivals := (k.groups.filter fun p => p.1 ≠ x.gid ∧ pipeOf p.1 = pipeOf x.gid ∧ (k.ready p.1 p.2).any (·.uniform) = true).map (·.1)
    let bound := s.cc + if 512 ≤ x.gid ∧ x.gid ≠ supGid then 16 else 64
    exec .yield s = .next (s.modGroup x.core x.gid fun g => g.onLanes x.lanes fun _ t =>
      { t with pc := x.pc + w32 x.len, wait := if rivals = [] then none else some (.yield rivals bound) })) ∧
  (∀ (s : State) c gid l,
    let k := s.core c
    let th := (s.group c gid).threads.getD l {}
    let ready := fun j => (k.groups.look j).any fun h => (k.ready j h).any (·.uniform)
    ∀ who bound, th.wait = some (.yield who bound) →
      ((s.tick.group c gid).threads.getD l {}).wait =
        if (∀ j ∈ who, ready j = false) ∨ bound ≤ s.cc + 1 then none else some (.yield (who.filter ready) bound))

/-- R343: ERET without in_handler traps with cause 5; in a handler each thread of the bundle pops its resume point and is no
victim any more; while a victim is left every thread of the bundle stays held, and after the last one in_handler clears and
no thread is held. -/
def Obligations.ReturnFromTrap : Prop :=
  ∀ s x, Runs .eret s x →
    (x.g.trap.inHandler = false → exec .eret s = .next (s.preciseTrap x (mkTrap 5 7))) ∧
    (x.g.trap.inHandler = true → ¬ bare x → ∃ t : State, exec .eret s = .next t ∧
      (∀ l ∈ lanesOf x.lanes, l < x.g.threads.length →
        (thread t x l).pc = s.linkTop x.core x.gid l ∧ (thread t x l).depth = (thread s x l).depth - 1 ∧
        (thread t x l).victim = false) ∧
      (let left := ∃ l < x.g.threads.length, x.lanes.getLsbD l = false ∧ (thread s x l).live = true ∧
         (thread s x l).victim = true
       (left → (t.group x.core x.gid).trap.inHandler = true ∧ ∀ l ∈ lanesOf x.lanes, l < x.g.threads.length →
          (thread t x l).held = true) ∧
       (¬ left → (t.group x.core x.gid).trap.inHandler = false ∧ ∀ l < x.g.threads.length, (thread t x l).held = false)) ∧
      (t.core x.core).rf = (s.core x.core).rf)

/-! ### Memory instructions -/

/-- R294: a misaligned access of any lane traps with cause 2 at the lowest such lane, before any lane accesses memory; `LDB` and
`STB` have no alignment rule.
R294, R7 to R9: with every access aligned, one beyond its space or allocation traps with cause 5 at the lowest such lane.
Where the rules leave a choice it is the model's: the address of a bit access (log 36), the space of a supervisor (log 24). -/
def Obligations.AddressTraps : Prop :=
  (∀ i s x acc l, Runs i s x → access s x i = some acc → acc.space ≠ .bits → l ∈ acc.side.lanes →
    acc.addr l % acc.size ≠ 0 → (∀ j ∈ acc.side.lanes, j < l → acc.addr j % acc.size = 0) →
    exec i s = .next (s.preciseTrap x (mkTrap 2 acc.size (acc.addr l)))) ∧
  (∀ i s x acc l sub, Runs i s x → access s x i = some acc →
    (acc.space ≠ .bits → ∀ j ∈ acc.side.lanes, acc.addr j % acc.size = 0) → l ∈ acc.side.lanes →
    beyond s x acc.space acc.size (acc.addr l) = some sub →
    (∀ j ∈ acc.side.lanes, j < l → beyond s x acc.space acc.size (acc.addr j) = none) →
    exec i s = .next (s.preciseTrap x (mkTrap 5 sub (acc.addr l))))

/-- R293, R295: LDL and LDP write each lane's destination registers from its bytes; a lane whose bytes are poisoned keeps its
registers, and the group takes cause 0x0b. LDL waits while an earlier access of its group through the core-store aperture to one of its
bytes is not performed.
Where the rules leave a choice it is the model's: one trap for each load (log 23). -/
def Obligations.BankLoads : Prop :=
  ∀ i s x acc d w, Runs i s x → s.memWf = true → access s x i = some acc → bankLoad i = some (d, w) → d % w.regs = 0 →
    Clear s x acc →
    let bad := fun l => acc.space = .store ∧ (s.core x.core).storeBad ((s.span x).1 + acc.addr l) w.bytes = true
    (Behind s x acc → exec i s = .next (s.waitAt x .drain)) ∧
    (¬ Behind s x acc →
      ∃ t, Delivers s x acc.side d w.regs (fun j l => if l ∈ acc.side.lanes ∧ ¬ bad l then
          some (loaded w (fun b => bankByte s x acc.space l (acc.addr l + b)) j) else none) t ∧
      ((∀ l ∈ acc.side.lanes, ¬ bad l) → exec i s = .next (t.advance x)) ∧
      (∀ l ∈ acc.side.lanes, bad l → (∀ j ∈ acc.side.lanes, j < l → ¬ bad j) →
        exec i s = .next ((t.pendTrap x.core x.gid x.g.uid x.g.ctx
          { mkTrap 0x0b 0 (acc.addr l) with pc := x.pc, lanes := acc.side.victims }).advance x)))

/-- R293, R296, R137: STL writes the bytes that its lanes name, the highest lane's where several name one, and every other byte of
the core store, every register and every bank stays. It waits while an earlier access of its group through the core-store aperture to
one of its bytes is not performed.
R293, R9: STP writes each lane's bytes to its own bank, and every other byte of the banks stays. -/
def Obligations.LocalStores : Prop :=
  (∀ i s x acc d w, Runs i s x → s.memWf = true → access s x i = some acc → coreStore i = some (d, w) → Clear s x acc →
    (Behind s x acc → exec i s = .next (s.waitAt x .drain)) ∧
    (¬ Behind s x acc → ∃ k', StoreBy x.gid (s.core x.core) k' ∧ exec i s = .next ((s.setCore x.core k').advance x) ∧
      ∀ b, Mem.get (n := 8) k'.store b =
        ((lastTo acc.side.lanes (fun l => (s.span x).1 + acc.addr l) w.bytes (dataByte (issued s x) x acc.side d) b).getD
          (Mem.get (n := 8) (s.core x.core).store b)))) ∧
  (∀ s x m d a w o acc, Runs (.stp m d a w o) s x → s.memWf = true → access s x (.stp m d a w o) = some acc → Clear s x acc →
    let team := s.team x.core x.g.team
    ∃ banks, exec (.stp m d a w o) s = .next ((s.setCore x.core { s.core x.core with banks }).advance x) ∧
      ∀ b, Mem.get (n := 8) banks b =
        ((lastTo acc.side.lanes (fun l => l * 65536 + (team.windowBase x.g + acc.addr l)) w.bytes
          (dataByte (s.core x.core) x acc.side d.toNat) b).getD (Mem.get (n := 8) (s.core x.core).banks b)))

/-- R297, R52, R53: LDB gives each lane of Active the n bits at its bit address, zero- or sign-extended; STB replaces exactly
the n bits at each lane's bit address, lane by lane. Both wait as LDL and STL do. -/
def Obligations.BitElements : Prop :=
  ∀ s x m d k n, s.memWf = true →
    let w := n.toNat + 1
    let base := (s.span x).1 * 8
    let bit := fun (st : Memory) (b : Nat) => (Mem.get (n := 8) st (b / 8)).getLsbD (b % 8)
    (∀ sx acc, Runs (.ldb m d k n sx) s x → access s x (.ldb m d k n sx) = some acc → Clear s x acc →
      (Behind s x acc → exec (.ldb m d k n sx) s = .next (s.waitAt x .drain)) ∧
      (¬ Behind s x acc → d.toNat % Named.bitRegs n = 0 → (s.core x.core).storePoison = [] →
        ∃ (t : State) (v : Nat → DWord),
        (∀ l j, (v l).getLsbD j = if j < w then bit (s.core x.core).store (base + acc.addr l + j)
          else decide (j < 64) && sx && bit (s.core x.core).store (base + acc.addr l + w - 1)) ∧
        Delivers s x acc.side d.toNat (Named.bitRegs n) (fun j l => if l ∈ acc.side.lanes then
          some ((v l).extractLsb' (32 * j) 32) else none) t ∧
        exec (.ldb m d k n sx) s = .next (t.advance x))) ∧
    (∀ acc, Runs (.stb m d k n) s x → access s x (.stb m d k n) = some acc → Clear s x acc →
      (Behind s x acc → exec (.stb m d k n) s = .next (s.waitAt x .drain)) ∧
      (¬ Behind s x acc → ∃ k', StoreBy x.gid (s.core x.core) k' ∧ exec (.stb m d k n) s = .next ((s.setCore x.core k').advance x) ∧
        ∀ b, bit k'.store b =
          match acc.side.lanes.reverse.find? fun l => decide (base + acc.addr l ≤ b ∧ b < base + acc.addr l + w) with
          | some l => (dataByte (s.core x.core) x acc.side d.toNat l ((b - base - acc.addr l) / 8)).getLsbD
              ((b - base - acc.addr l) % 8)
          | none => bit (s.core x.core).store b))

/-- R293, R295, R160: a global load whose addresses pass its checks starts one access a lane: its destination is locked, each lane's
translation is requested, and no register or byte changes yet. With no lane in Active it does nothing.
R298, R299, R140: a global atomic whose checks pass waits until its release allows; then it starts one read-modify-write for
each location that its lanes name, the lowest lane speaking for it, and with an acquire the bundle stands behind it. With no lane in
Active it does nothing.
R349: both wait while a fault waits for the operand log.
Where the rules leave a choice it is the model's: the place of atomics (log 18), the thread behind an acquire (log 98). -/
def Obligations.GlobalLoadsAndAtomics : Prop :=
  (∀ i s x acc d w, Runs i s x → access s x i = some acc → globalLoad i = some (d, w) → Clear s x acc →
    if acc.side.lanes = [] then exec i s = .next (s.advance x)
    else if (s.core x.core).logStall ≠ [] then exec i s = .next (s.waitAt x .xlate)
    else ∃ o : MemOp, ∃ locks,
      o.lanes.map (fun a => (a.lane, a.va, a.done)) = acc.side.lanes.map (fun l => (l, acc.addr l, false)) ∧
      o.kind = .load w.bytes (w == .s8 || w == .s16) ∧ o.dst = acc.side.reg d ∧ o.regs = w.regs ∧
      o.uid = x.g.uid ∧ o.gid = x.gid ∧ o.ctx = x.g.ctx ∧ o.pc = x.pc ∧ o.victims = acc.side.victims ∧
      locks = (List.range w.regs).map (fun j => acc.side.reg d + j) ∧
      exec i s = .next ((((s.setCore x.core { s.core x.core with
            memops := (s.core x.core).memops.put (s.core x.core).nextOp o
            nextOp := (s.core x.core).nextOp + 1 }).modGroup x.core x.gid fun g =>
              (s.core x.core).settleWaits { g with locks := g.locks ++ locks }).posts
          (acc.side.lanes.map fun l => .translationRequest x.core (s.core x.core).nextOp l)).advance x)) ∧
  (∀ i s x acc r ops d sp sc o, Runs i s x → access s x i = some acc → atomic i = some (r, ops, d, sp, sc, o) →
    acc.space = .global → Clear s x acc →
    (acc.side.lanes = [] → exec i s = .next (s.advance x)) ∧
    (acc.side.lanes ≠ [] → (s.core x.core).logStall ≠ [] → exec i s = .next (s.waitAt x .xlate)) ∧
    (acc.side.lanes ≠ [] → (s.core x.core).logStall = [] → Order.releases o = true → s.released x sc = false →
      exec i s = .next (s.waitAt x .drain)) ∧
    (acc.side.lanes ≠ [] → (s.core x.core).logStall = [] → (Order.releases o = true → s.released x sc = true) → ∃ op : MemOp, ∃ lead : List Nat,
      op.lanes.map (fun a => (a.lane, a.va)) = acc.side.lanes.map (fun l => (l, acc.addr l)) ∧
      (∀ l ∈ acc.side.lanes, ∃ a ∈ op.lanes, a.lane = l ∧ a.x.length = ops * acc.size ∧
        ∀ j < ops * acc.size, a.x.getD j 0 = dataByte (issued s x) x acc.side d l j) ∧
      op.kind = .atom r acc.size sc o ∧ op.dst = acc.side.reg d ∧ op.uid = x.g.uid ∧ op.ctx = x.g.ctx ∧
      (∀ l, l ∈ lead ↔ l ∈ acc.side.lanes ∧ ∀ j ∈ acc.side.lanes, acc.addr j = acc.addr l → l ≤ j) ∧
      let t := ((s.setCore x.core { s.core x.core with
            memops := (s.core x.core).memops.put (s.core x.core).nextOp op
            nextOp := (s.core x.core).nextOp + 1 }).modGroup x.core x.gid fun g =>
              (s.core x.core).settleWaits
                { g with locks := g.locks ++ (List.range (acc.size / 4)).map fun j => acc.side.reg d + j }).posts
          (lead.map fun l => .translationRequest x.core (s.core x.core).nextOp l)
      exec i s = .next (if Order.acquires o then t.advanceBehind x (s.core x.core).nextOp else t.advance x)))

/-- R296, R137: a global store takes one store-buffer entry for each distinct 48-byte sector that its lanes touch, holding the
bytes of the sector, the highest lane's where several name one; with too few free entries it is not issued. -/
def Obligations.GlobalStoresEnterTheBuffer : Prop :=
  ∀ i s x acc d w, Runs i s x → access s x i = some acc → globalStore i = some (d, w) → Clear s x acc →
    let stored := lastTo acc.side.lanes acc.addr w.bytes (dataByte (issued s x) x acc.side d)
    let k := s.core x.core
    ∃ secs : List Nat, secs.Pairwise (· < ·) ∧ (∀ q, q ∈ secs ↔ ∃ a, a / 48 = q ∧ (stored a).isSome = true) ∧
      (k.sbFree (pipeOf x.gid) < secs.length → exec i s = .next (s.waitAt x .drain)) ∧
      (secs.length ≤ k.sbFree (pipeOf x.gid) → ∃ t : State, exec i s = .next (t.advance x) ∧
        (t.core x.core).nextSb = k.nextSb + secs.length ∧
        (∀ j, j < k.nextSb ∨ k.nextSb + secs.length ≤ j → (t.core x.core).sbuf.look j = k.sbuf.look j) ∧
        (∀ j q, secs[j]? = some q → ∃ e, (t.core x.core).sbuf.look (k.nextSb + j) = some e ∧
          e.uid = x.g.uid ∧ e.ctx = x.g.ctx ∧ e.pipe = pipeOf x.gid ∧ e.victims = acc.side.victims ∧
          (∀ a v, (∃ y ∈ e.bytes, y.va = a ∧ y.val = v) ↔ (a / 48 = q ∧ stored a = some v)) ∧
          Instr.storeBufferDrain x.core (pipeOf x.gid) (k.nextSb + j) ∈ t.agenda) ∧
        { t with agenda := s.agenda, cores := s.cores } = s ∧
        { t.core x.core with sbuf := k.sbuf, nextSb := k.nextSb } = k)

/-- R141, R298: a core-store atomic is one locked read-modify-write for each lane in ascending order; each lane receives the
value it found. It waits for its release, and while an earlier access of its group through the core-store aperture to one of its
bytes is not performed (R135, R136); with no lane in Active it does nothing. -/
def Obligations.CoreStoreAtomics : Prop :=
  ∀ i s x acc r ops d sp sc o, Runs i s x → s.memWf = true → access s x i = some acc →
    atomic i = some (r, ops, d, sp, sc, o) → acc.space = .store → Clear s x acc →
    let waits := Behind s x acc ∨ (Order.releases o = true ∧ s.released x sc = false)
    (acc.side.lanes = [] → exec i s = .next (s.advance x)) ∧
    (acc.side.lanes ≠ [] → waits → exec i s = .next (s.waitAt x .drain)) ∧
    (acc.side.lanes ≠ [] → ¬ waits → (s.core x.core).storePoison = [] → d % (acc.size / 4) = 0 →
      let n := 8 * acc.size
      let out := lockedEach n r (fun l => (s.span x).1 + acc.addr l) (operand n (issued s x) x acc.side d)
        (operand n (issued s x) x acc.side (d + acc.size / 4)) acc.side.lanes (Mem.get (n := 8) (s.core x.core).store)
      ∃ k' t, StoreBy x.gid (s.core x.core) k' ∧ (∀ b, Mem.get (n := 8) k'.store b = out.1 b) ∧
        Delivers ((s.setCore x.core k').acquire x.core (if Order.acquires o then sc else .grp)) x acc.side d (acc.size / 4)
          (fun j l => if l ∈ acc.side.lanes then some ((out.2 l).extractLsb' (32 * j) 32) else none) t ∧
        exec i s = .next (t.advance x))

/-- R302, R28: PREF completes in every state and for every operand, and traps on no address: the lowest lane of each sector makes one
hint, which starts, or, where its address fails the form check, counts as one dropped hint of the context. It writes no register and
no store, and locks none.
R300, R301: a ticket append whose checks pass waits for a store-buffer entry a lane and for its release, and while a fault waits for
the operand log; then it completes: it reserves one entry for each lane of Active and starts one read-modify-write for each header, and
with an acquire the bundle stands behind it. With no lane in Active it does nothing.
Where the rules leave a choice it is the model's: the thread behind an acquire (log 98). -/
def Obligations.HintsAndAppends : Prop :=
  (∀ s x m kind a off, Runs (.pref m kind a off) s x →
    let addr := addr64 (s.core x.core) x (x.laneSide m) a.toNat (Off.val 1 off)
    let hints := (lanesOf (x.active m)).filter fun l =>
      (lanesOf (x.active m)).all fun j => decide (addr j / 48 ≠ addr l / 48 ∨ l ≤ j)
    let lead := hints.filter fun l => decide (addr l < 2 ^ 57)
    let bad := hints.length - lead.length
    ∃ t : State, exec (.pref m kind a off) s = .next (t.advance x) ∧
      (bad ≠ 0 → (t.hintDrops.look x.g.ctx).map BitVec.toNat =
        some (min (((s.hintDrops.look x.g.ctx).getD 0).toNat + bad) 0xffffffff)) ∧
      (bad = 0 → t.hintDrops = s.hintDrops) ∧
      t.agenda = s.agenda ++ lead.map (fun l => .translationRequest x.core (s.core x.core).nextOp l) ∧
      (lead ≠ [] → ∃ op, (t.core x.core).memops.look (s.core x.core).nextOp = some op ∧ op.kind = .pref kind ∧
        op.lanes.map (fun a => (a.lane, a.va)) = lead.map (fun l => (l, addr l))) ∧
      (t.core x.core).rf = (s.core x.core).rf ∧ (t.core x.core).store = (s.core x.core).store ∧
      (t.group x.core x.gid).locks = x.g.locks) ∧
  (∀ s x m d a sc o off acc, Runs (.qapp m d a sc o off) s x → access s x (.qapp m d a sc o off) = some acc → Clear s x acc →
    let k := s.core x.core
    let lanes := acc.side.lanes
    let room := lanes.length ≤ k.sbFree (pipeOf x.gid)
    let allowed := Order.releases o = true → s.released x sc = true
    (lanes = [] → exec (.qapp m d a sc o off) s = .next (s.advance x)) ∧
    (lanes ≠ [] → k.logStall ≠ [] → exec (.qapp m d a sc o off) s = .next (s.waitAt x .xlate)) ∧
    (lanes ≠ [] → k.logStall = [] → ¬ room ∨ ¬ allowed → exec (.qapp m d a sc o off) s = .next (s.waitAt x .drain)) ∧
    (lanes ≠ [] → k.logStall = [] → room → allowed → ∃ t : State,
      exec (.qapp m d a sc o off) s = .next (if Order.acquires o then t.advanceBehind x k.nextOp else t.advance x) ∧
      (t.core x.core).nextSb = k.nextSb + lanes.length ∧
      (∀ j l, lanes[j]? = some l → ∃ e, (t.core x.core).sbuf.look (k.nextSb + j) = some e ∧ e.bytes = [] ∧
        e.ticket = some (x.g.uid * 64 + l)) ∧
      (∀ j, j < k.nextSb ∨ k.nextSb + lanes.length ≤ j → (t.core x.core).sbuf.look j = k.sbuf.look j) ∧
      (∃ op, (t.core x.core).memops.look k.nextOp = some op ∧ op.kind = .qapp sc o ∧
        op.lanes.map (fun a => (a.lane, a.va)) = lanes.map (fun l => (l, acc.addr l))) ∧
      (∀ l ∈ lanes, (∀ j ∈ lanes, acc.addr j = acc.addr l → l ≤ j) → Instr.translationRequest x.core k.nextOp l ∈ t.agenda) ∧
      (t.core x.core).rf = k.rf ∧ (t.core x.core).store = k.store))

/-! ### Synchronisation -/

/-- R69, R237, R238: OVLD pins an ID and writes its token, OVREL drops a pin, OVWAIT goes on when the copy is Resident, and
OVQRY writes the state word, whose slot count lies in 1 to 16 and is free until the table entry has been read; the limits of R69
and invalid IDs and tokens trap with cause 5.
Where the rules leave a choice it is the model's: TADDR (log 36). -/
def Obligations.OverlayInstructions : Prop :=
  ∀ s x, s.memWf = true →
    (∀ d id, Runs (.ovld d id) s x →
      let v := ovOperand s x id
      let pins := x.g.pinCount v.toNat
      let refused := pins = 255 ∨ (pins = 0 ∧ 4 ≤ x.g.pins.length)
      (65536 ≤ v.toNat → exec (.ovld d id) s = .next (protects s x 3 v.toNat)) ∧
      (v.toNat < 65536 → refused → exec (.ovld d id) s = .next (protects s x 7 v.toNat)) ∧
      (v.toNat < 65536 → ¬ refused → ∃ u t, WritesUniform u x d.toNat [0x80000000 + v] t ∧
        exec (.ovld d id) s = .next (t.advance x) ∧ (u.core x.core).rf = (s.core x.core).rf ∧
        (u.group x.core x.gid).pinCount v.toNat = pins + 1 ∧
        (((u.core x.core).copy? x.g.ctx v.toNat).isSome ∨
          ∃ q ∈ (u.core x.core).refused, q.ctx = x.g.ctx ∧ q.id = v.toNat))) ∧
    (∀ a, Runs (.ovwait a) s x →
      let v := sreg s x a
      let id := v.toNat % 65536
      (v.toNat / 65536 ≠ 0x8000 → exec (.ovwait a) s = .next (protects s x 3 v.toNat)) ∧
      (v.toNat / 65536 = 0x8000 →
        exec (.ovwait a) s = .next (if ((s.core x.core).resident? x.g.ctx id).isSome then s.advance x
          else (s.requestOv x.core x.g.ctx id).waitAt x (.ovwait id)))) ∧
    (∀ a, Runs (.ovrel a) s x →
      let v := ureg s x a
      let id := v.toNat % 65536
      let pins := x.g.pinCount id
      (v.toNat / 65536 ≠ 0x8000 → exec (.ovrel a) s = .next (protects s x 3 v.toNat)) ∧
      (v.toNat / 65536 = 0x8000 → pins = 0 → exec (.ovrel a) s = .next (protects s x 7 v.toNat)) ∧
      (v.toNat / 65536 = 0x8000 → pins ≠ 0 → ∃ t : State, exec (.ovrel a) s = .next (t.advance x) ∧
        (t.group x.core x.gid).pinCount id = pins - 1 ∧ (t.core x.core).rf = (s.core x.core).rf)) ∧
    (∀ d id, Runs (.ovqry d id) s x →
      let v := ovOperand s x id
      (65536 ≤ v.toNat → exec (.ovqry d id) s = .next (protects s x 3 v.toNat)) ∧
      (v.toNat < 65536 → ∃ (n : Nat) (t : State), exec (.ovqry d id) s = .next (t.advance x) ∧
        (match (s.core x.core).copy? x.g.ctx v.toNat with
          | none => n = 0
          | some (_, r) => ∃ slots, n = slots * 32 + (if r.resident then 2 else 1) ∧
            if r.slots = 0 then 1 ≤ slots ∧ slots ≤ 16 else slots = r.slots) ∧
        WritesUniform { s with free := s.free + 1 } x d.toNat [BitVec.ofNat 32 (x.g.pinCount v.toNat * 65536 + n)] t))

/-- R170, R171: XACQ of a held range and XREL of a released one do nothing; with no other request waiting, XACQ of a grantable range
takes a chunk that no group held, and else waits in the queue, and is complete when its request has been granted; XREL of a range
that no outstanding result names gives its chunk up, and waits while one does.
R213, R345, R170, R339: a lane word on the traversal or supervisor thread takes cause 0x01, as RDLANE, XACQ and XREL do on a
traversal thread, and an instruction that names a register
of one range that its group does not hold takes cause 0x07 with the range in TINFO.
Where the rules leave a choice it is the model's: several ranges (log 97). -/
def Obligations.RangesHeld : Prop :=
  (∀ s x (r : BitVec 2), r ≠ 0 →
    let held := fun (g : Machine.Group) => g.chunks.getD (r.toNat - 1) none
    let k := s.core x.core
    let named := (∃ q ∈ x.g.locks, 16 * r.toNat ≤ q ∧ q < 16 * r.toNat + 16) ∨ ∃ p ∈ k.memops, p.2.uid = x.g.uid ∧
      p.2.uniform = false ∧ p.2.kind.hint = false ∧ p.2.dst < 16 * r.toNat + 16 ∧ 16 * r.toNat < p.2.dst + p.2.regs
    x.g.chunks.length = 3 →
    (Runs (.xacq r) s x →
      ((held x.g).isSome → exec (.xacq r) s = .next (s.advance x)) ∧
      (x.latch.isSome → (x.gid, r.toNat) ∉ k.acquireQ → exec (.xacq r) s = .next (s.advance x)) ∧
      (held x.g = none → x.latch = none → k.acquireQ = [] → k.grantable x.g.team = true → (∃ c < 992, ∀ p ∈ k.groups, some c ∉ p.2.chunks) →
        ∃ (t : State) (c : Nat), exec (.xacq r) s = .next (t.advance x) ∧ held (t.group x.core x.gid) = some c ∧ c < 992 ∧
          (∀ p ∈ k.groups, some c ∉ p.2.chunks) ∧ (t.core x.core).acquireQ = []) ∧
      (held x.g = none → x.latch = none → k.acquireQ = [] → k.grantable x.g.team = false →
        ∃ t : State, exec (.xacq r) s = .next (t.waitAt x .xacq) ∧ (t.core x.core).acquireQ = [(x.gid, r.toNat)] ∧
          (t.core x.core).rf = k.rf)) ∧
    (Runs (.xrel r) s x →
      (held x.g = none → exec (.xrel r) s = .next (s.advance x)) ∧
      ((held x.g).isSome → ¬ named → k.acquireQ = [] →
        ∃ t : State, exec (.xrel r) s = .next (t.advance x) ∧ held (t.group x.core x.gid) = none ∧ (t.core x.core).rf = k.rf) ∧
      ((held x.g).isSome → named →
        exec (.xrel r) s = .next (s.waitAt x .drain)))) ∧
  (∀ i s x, s.ctx? = some x → Instr.isEvent i = false →
    (i.laneOnly = true → 512 ≤ x.gid → (x.gid = supGid → ∀ r, i ≠ .xacq r ∧ i ≠ .xrel r ∧ ∀ d a b, i ≠ .rdlane d a b) →
      exec i s = .next (s.preciseTrap x (mkTrap 1 0))) ∧
    (∀ k, i.barred x.gid = false → unheld x.g x.gid i.vregs = [k] →
      exec i s = .next (s.preciseTrap x (mkTrap 7 (4 + k) (s.poolAddr x.core x.g.team)))))

/-- R174, R175, R239: BARA on a team barrier traps on a bad offset or word; it waits for its release at `.core`; the first arrival
of the group in a generation counts in the word and in the arrival table, a further one does not; the generation is written to
sD.
R175, R239: BARA.blk on a block barrier whose address translates to HBM or the capacity tier arrives at its word as one
read-modify-write there, which the core's first-level cache follows; it waits while the tier's link is down or the home slice has no
place for its miss (R57), and any other target traps with cause 5.
R176, R239: BARW goes on with an acquire when the generation differs from its token, and else waits for the next write to the
word; a token with bits [31:16] traps with cause 5.
Where the rules leave a choice it is the model's: the order and kind of checks (logs 99, 100). -/
def Obligations.BarrierArrivals : Prop :=
  (∀ s x d a, Runs (.bara false d a) s x → s.memWf = true →
    let k := s.core x.core
    let v := (sreg s x a).toNat
    let addr := (s.span x).1 + v
    let w := k.store64 addr
    let gen := (w.extractLsb' 48 16).toNat
    let good := v % 8 = 0 ∧ v < 8 * (s.team x.core x.g.team).barriers
    (v % 8 ≠ 0 → exec (.bara false d a) s = .next (s.preciseTrap x (mkTrap 2 8 v))) ∧
    (v % 8 = 0 → 8 * (s.team x.core x.g.team).barriers ≤ v → exec (.bara false d a) s = .next (protects s x 1 v)) ∧
    (good → s.released x .core = false → exec (.bara false d a) s = .next (s.waitAt x .drain)) ∧
    (good → s.released x .core = true → ¬ soundBarrier w → exec (.bara false d a) s = .next (protects s x 3 v)) ∧
    (good → s.released x .core = true → soundBarrier w → x.g.arrival v = some gen →
      ∃ t, WritesUniform s x d.toNat [BitVec.ofNat 32 gen] t ∧ exec (.bara false d a) s = .next (t.advance x)) ∧
    (good → s.released x .core = true → soundBarrier w → x.g.arrival v ≠ some gen →
      ∃ k' t, PutsQuad k addr (arrived w) k' ∧
        WritesUniform ((s.setCore x.core k').modGroup x.core x.gid fun g => g.arrive v gen) x d.toNat [BitVec.ofNat 32 gen] t ∧
        exec (.bara false d a) s = .next (t.advance x))) ∧
  (∀ s x d a ap off s1, Runs (.bara true d a) s x →
    let v := ((issued s x).getS64 x.gid a.toNat).toNat
    v % 8 = 0 → beyond s x .global 8 v = none → s.released x .die = true → uniXlate x s v true = .ok ap off s1 →
    (barrierTarget s1 x ap off = false → exec (.bara true d a) s = .next (protects s x 2 v)) ∧
    (barrierTarget s1 x ap off = true → s1.targetWaits ap off = true →
      exec (.bara true d a) s = .next (s1.waitAt x .xlate)) ∧
    (∀ s2 bs, barrierTarget s1 x ap off = true → s1.targetWaits ap off = false →
      s1.homeRead ap off 8 = (s2, bs, false) →
      let w := BitVec.ofNat 64 (leNat bs)
      let gen := (w.extractLsb' 48 16).toNat
      (¬ soundBarrier w → exec (.bara true d a) s = .next (protects s x 3 v)) ∧
      (soundBarrier w → x.g.arrival (2 ^ 64 + v) = some gen →
        exec (.bara true d a) s = .next ((s2.writeS x d.toNat (BitVec.ofNat 32 gen)).advance x)) ∧
      (soundBarrier w → x.g.arrival (2 ^ 64 + v) ≠ some gen →
        let bytes := (leBytes 8 (arrived w).toNat).zipIdx.map fun (b, i) => (off + i, b)
        let link := s2.usedLink x.core (if x.gid < 512 then 0 else 1) x.g.ctx v
        exec (.bara true d a) s = .next ((((((s2.homeWrite ap off (leBytes 8 (arrived w).toNat)).modCore x.core fun k =>
          (k.l1Store s2 x.g.ctx link ap bytes).passFills ap off).modGroup x.core x.gid fun g =>
            g.arrive (2 ^ 64 + v) gen)).writeS x d.toNat (BitVec.ofNat 32 gen)).advance x)))) ∧
  (∀ s x a b, 
    (Runs (.barw false a b) s x →
      let v := (sreg s x a).toNat
      let tok := (sreg s x b).toNat
      let addr := (s.span x).1 + v
      v % 8 = 0 → v < 8 * (s.team x.core x.g.team).barriers →
      (65536 ≤ tok → exec (.barw false a b) s = .next (protects s x 3 tok)) ∧
      (tok < 65536 → exec (.barw false a b) s = .next
        (if (((s.core x.core).store64 addr).extractLsb' 48 16).toNat ≠ tok then (s.acquire x.core .core).advance x
         else s.waitAt x (.barrier addr)))) ∧
    (Runs (.barw true a b) s x → ∀ ap off s1 s2 bs,
      let v := ((issued s x).getS64 x.gid a.toNat).toNat
      let tok := (sreg s x b).toNat
      v % 8 = 0 → beyond s x .global 8 v = none → tok < 65536 → uniXlate x s v false = .ok ap off s1 →
      barrierTarget s1 x ap off = true → s1.targetWaits ap off = false →
      s1.homeRead ap off 8 = (s2, bs, false) →
      exec (.barw true a b) s = .next
        (if leNat bs / 2 ^ 48 % 2 ^ 16 ≠ tok then (s2.acquire x.core .die).advance x
         else ({ s2 with blockWaits := s2.blockWaits ++ [(ap, off, x.core, x.g.ctx, v)] } : State).waitAt x (.blockBarrier v))))

/-- R241, R365: WAITC goes on with an acquire when the counter, running freely modulo 2³², has reached its operand, and else
waits for a write to it; HALT waits until a record or a control message is queued, and on any other thread traps with
cause 5. -/
def Obligations.CounterWaitAndHalt : Prop :=
  ∀ s x,
    (∀ sc a b, Runs (.waitc sc a b) s x →
      let v := (sreg s x a).toNat
      let addr := (s.span x).1 + v
      (v % 4 ≠ 0 → exec (.waitc sc a b) s = .next (s.preciseTrap x (mkTrap 2 4 v))) ∧
      (v % 4 = 0 → ∀ sub, beyond s x .store 4 v = some sub → exec (.waitc sc a b) s = .next (protects s x sub v)) ∧
      (v % 4 = 0 → beyond s x .store 4 v = none → exec (.waitc sc a b) s = .next
        (if (BitVec.ofNat 32 ((s.core x.core).store32 addr) - slast s x b).toNat < 2 ^ 31 then (s.acquire x.core sc).advance x
         else s.waitAt x (.counter addr)))) ∧
    (Runs .halt s x →
      (x.gid ≠ supGid → exec .halt s = .next (protects s x 4)) ∧
      (x.gid = supGid → exec .halt s = .next
        (if (s.core x.core).srec = [] ∧ (s.core x.core).ctlIn = [] then s.waitAt x .halt else s.advance x)))

/-- R48, R49, R303: CBWAIT takes n slots that are there, when no earlier wait of its direction stands before it: sD gets the index
of the first, the counter falls and the index moves on modulo slot_count; a consumer then acquires at cons_scope. Else the
bundle joins the descriptor's waits. An action that waits goes by quadwords 0 and 2 as it first read them, for the threads that
began it (R50, R165).
R48, R303: CBREL lets its bundle go on; when no earlier one waits and the accesses before it are performed at its scope, n slots
are published or returned at once, never above slot_count, beyond which the counter stands at slot_count and overflow is set.
Else the release waits with its marks.
Where the rules leave a choice it is the model's: the list of releases (log 51). -/
def Obligations.RingSlots : Prop :=
  (∀ s x cons d a b, Runs (if cons then .cbwaitCons d a b else .cbwaitProd d a b) s x → s.memWf = true →
    let k := s.core x.core
    let v := (sreg s x a).toNat
    let n := (slast s x b).toNat
    let desc := (s.span x).1 + v
    let q1 := k.store64 (desc + 8)
    let mine := ringMine s x desc cons
    let y := { x with lanes := (mine.map fun w => w.lanes &&& x.lanes).getD x.lanes }
    let q0 := (mine.map (·.q0)).getD (k.store64 desc)
    let q2 := (mine.map (·.q2)).getD (k.store64 (desc + 16))
    let count := (q0.extractLsb' 48 16).toNat
    let there := (q1.extractLsb' (if cons then 48 else 32) 16).toNat
    let first := (q1.extractLsb' (if cons then 16 else 0) 16).toNat
    let ahead := k.ringWaits.find? fun w => w.desc == desc && w.cons == cons
    RingReady s x v n q0 → (∀ r ∈ k.releases, ¬ (r.uid = x.g.uid ∧ r.desc = desc)) →
    ((ahead = none ∨ ahead = mine) → n ≤ there →
      ∃ k' t, PutsQuad { k with ringWaits := k.ringWaits.filter fun w => some w ≠ mine } (desc + 8)
          (taken cons q1 (there - n) ((first + n) % count)) k' ∧
        WritesUniform (s.setCore x.core k') x d.toNat [BitVec.ofNat 32 first] t ∧
        exec (if cons then .cbwaitCons d a b else .cbwaitProd d a b) s = .next
          ((if cons then t.acquire x.core (scopeOf (q2.extractLsb' 3 3).toNat) else t).advance y)) ∧
    (¬ (ahead = none ∨ ahead = mine) ∨ there < n →
      let own : RingWait := { desc, cons, gid := x.gid, pc := x.pc, lanes := x.lanes, q0, q2 }
      exec (if cons then .cbwaitCons d a b else .cbwaitProd d a b) s = .next
        ((s.setCore x.core { k with ringWaits := if mine.isSome then k.ringWaits else k.ringWaits ++ [own] }).waitAt y
          (.ring desc cons)))) ∧
  (∀ s x cons a b, Runs (if cons then .cbrelCons a b else .cbrelProd a b) s x → s.memWf = true →
    let k := s.core x.core
    let v := (ureg s x a).toNat
    let n := (ulast s x b).toNat
    let desc := (s.span x).1 + v
    let q1 := k.store64 (desc + 8)
    let q2 := k.store64 (desc + 16)
    let count := ((k.store64 desc).extractLsb' 48 16).toNat
    let now := (q1.extractLsb' (if cons then 32 else 48) 16).toNat + n
    let sc := scopeOf (q2.extractLsb' (if cons then 3 else 0) 3).toNat
    RingReady s x v n (k.store64 desc) → k.releases = [] →
    (s.marksDone x.core x.g.uid x.lanes sc k.nextSb k.nextOp s.nextRstore = true →
      ∃ k', StoreOnly k k' ∧ exec (if cons then .cbrelCons a b else .cbrelProd a b) s = .next ((s.setCore x.core k').advance x) ∧
        k'.store64 (desc + 8) = given cons q1 (min now count) ∧
        k'.store64 (desc + 16) = (if count < now then q2 ||| 0x100 else q2) ∧
        ∀ y, y < desc + 8 ∨ desc + 24 ≤ y → Mem.get (n := 8) k'.store y = Mem.get (n := 8) k.store y) ∧
    (s.marksDone x.core x.g.uid x.lanes sc k.nextSb k.nextOp s.nextRstore = false →
      ∃ r : RingRel, r.desc = desc ∧ r.n = n ∧ r.cons = cons ∧ r.uid = x.g.uid ∧ r.lanes = x.lanes ∧ r.scope = sc ∧
        r.q0 = k.store64 desc ∧ r.q2 = q2 ∧
        exec (if cons then .cbrelCons a b else .cbrelProd a b) s =
          .next ((s.setCore x.core { k with releases := [r] }).advance x)))

/-- R139, R240, R131: FENCE waits until the bundle's accesses are performed at its scope; then it completes: it acquires there and goes
on, with cause 0x10 pending at `.sys` when a reflected store of the bundle's threads was discarded.
R131, R337: RFENCE opens a fence for those threads of its bundle that stand at none; it completes, with an acquire at its scope, when its
ordinary accesses are performed there and every reflected store that the bundle's fences cover is applied or discarded, with cause
0x10 pending when one was discarded; until then it waits.
With no access of the core and no reflected store outstanding each of them completes at once, RFENCE at `.grp` and `.core`, whose markers
have no other core to reach.
Where the rules leave a choice it is the model's: discards reported again (log 50). -/
def Obligations.FencesWait : Prop :=
  (∀ s x sc, Runs (.fence sc) s x →
    let bad := (s.sequenced.find? fun q => q.bad.isSome && q.uid == x.g.uid && q.lanes &&& x.lanes != 0).bind (·.bad)
    (s.fenced x sc = false → exec (.fence sc) s = .next (s.waitAt x .drain)) ∧
    (s.fenced x sc = true → sc ≠ .sys ∨ bad = none → exec (.fence sc) s = .next ((s.acquire x.core sc).advance x)) ∧
    (∀ e dev seq, s.fenced x sc = true → sc = .sys → bad = some (e, dev, seq) →
      exec (.fence sc) s = .next (((s.acquire x.core sc).pendTrap x.core x.gid x.g.uid x.g.ctx
        { mkTrap 0x10 (2 ^ 31 + dev * 256 + e) seq with pc := x.pc, lanes := x.lanes }).advance x))) ∧
  (∀ s x sc, Runs (.rfence sc) s x →
    let mine := fun (f : RFence) => f.core == x.core && f.gid == x.gid && f.uid == x.g.uid && f.pc == x.pc && f.resume.isNone &&
      (f.lanes &&& x.lanes) != 0
    let joined := ∀ l, x.lanes.getLsbD l = true → ∃ p ∈ s.fences, mine p.2 = true ∧ p.2.lanes.getLsbD l = true
    let clear := ∀ p ∈ s.fences, mine p.2 = true → s.fenceClear p.2 = true
    let t : State := { s with fences := s.fences.filter fun p => !mine p.2 }
    (joined → s.fenced x sc = true → clear → (∀ p ∈ s.fences, mine p.2 = true → s.fenceBad p.2 = none) →
      exec (.rfence sc) s = .next ((t.acquire x.core sc).advance x)) ∧
    (∀ before n f after e dev seq, joined → s.fenced x sc = true → clear → s.fences = before ++ (n, f) :: after → mine f = true →
      (∀ p ∈ before, mine p.2 = true → s.fenceBad p.2 = none) → s.fenceBad f = some (e, dev, seq) →
      exec (.rfence sc) s = .next (((t.acquire x.core sc).pendTrap x.core x.gid x.g.uid x.g.ctx
        { mkTrap 0x10 (2 ^ 31 + dev * 256 + e) seq with pc := x.pc, lanes := x.lanes }).advance x)) ∧
    (joined → s.fenced x sc = false ∨ ¬ clear → exec (.rfence sc) s = .next (s.waitAt x .drain)) ∧
    ((∀ p ∈ s.fences, mine p.2 = false) → x.lanes ≠ 0 → s.fenced x sc = false →
      ∃ t : State, exec (.rfence sc) s = .next (t.waitAt x .drain) ∧
        ∃ f, t.fences.look s.nextFence = some f ∧ mine f = true ∧ f.scope = sc ∧ f.lanes = x.lanes)) ∧
  ∀ s x sc, (s.core x.core).memops = [] → (s.core x.core).sbuf = [] → (s.core x.core).atoms = [] → s.rstores = [] → s.sequenced = [] →
    s.released x sc = true ∧ s.fenced x sc = true ∧
    (Runs (.fence sc) s x → exec (.fence sc) s = .next ((s.acquire x.core sc).advance x)) ∧
    (Runs (.rfence sc) s x → sc = .grp ∨ sc = .core → s.fences = [] →
      ∃ n, exec (.rfence sc) s = .next ((({ s with nextFence := n } : State).acquire x.core sc).advance x))

/-! ### System instructions and traps -/

/-- R363, R364: RDSR writes the register's value to sD, and a read of SR.OVSTAT or SR.HINT_DROPS clears it; a supervisor register
read by another thread takes cause 5, sub 4.
R363, with R39, R247, R251, R341, R344, R347 and R351: WRSR writes the RW fields of its register and applies its W1C fields; a
supervisor register written by another thread takes cause 5 sub 4, and a register without such a field sub 3. The write steps do
the same for the issuing thread.
Where the rules leave a choice it is the model's: SR.PCORE and SR.EQREC (log 61), TADDR (log 36). -/
def Obligations.SystemRegisters : Prop :=
  (∀ s x d n, Runs (.rdsr d n) s x → s.memWf = true →
    (0x100 ≤ n.toNat → x.gid ≠ supGid → exec (.rdsr d n) s = .next (protects s x 4)) ∧
    (∀ v, n.toNat < 0x100 ∨ x.gid = supGid → registerRead s x n.toNat = some v → ∃ t,
      WritesUniform (match n.toNat with
        | 0x008 => s.setCore x.core { s.core x.core with ovstat := (s.core x.core).ovstat.drop x.g.ctx }
        | 0x009 => { s with hintDrops := s.hintDrops.drop x.g.ctx }
        | _ => s) x d.toNat [v] t ∧ exec (.rdsr d n) s = .next (t.advance x))) ∧
  ((∀ s x n a, Runs (.wrsr n a) s x → s.memWf = true →
    let other := 0x100 ≤ n.toNat ∧ x.gid ≠ supGid
    (other → exec (.wrsr n a) s = .next (protects s x 4)) ∧
    (¬ other → n.toNat ∉ writable → exec (.wrsr n a) s = .next (protects s x 3)) ∧
    (¬ other → n.toNat ∈ writable → ∃ t : State, exec (.wrsr n a) s = .next (t.advance x) ∧
      Written s x n.toNat (ureg s x a) t)) ∧
  (∀ s x v i n, s.ctx? = some x → s.memWf = true →
    (i, n) ∈ [(Instr.arithWrite v, 0x003), (.seedWrite v, 0x004), (.sfpop v, 0x01a), (.storeMapWrite v, 0x101),
      (.srpop v, 0x104), (.gresume v, 0x105)] →
    ∃ t : State, exec i s = .next t ∧ Written s x n v t))

/-- R342, R344, R346: taking a trap pushes the victims' resume points, loads the trap registers and goes on at TVEC with
every other thread held; it escalates instead without victims, with TVEC disabled, in a handler, or with a full link
stack. -/
def Obligations.TrapEntry : Prop :=
  ∀ s c gid tr victims precise resume g, gid ≠ supGid → s.group? c gid = some g → s.memWf = true →
    (s.team c g.team).windowBase g + (s.team c g.team).windowOf gid ≤ 65536 →
    (escalates s c gid victims → Escalated s c gid { tr with lanes := victims } (s.takeTrap c gid tr victims precise resume)) ∧
    (¬ escalates s c gid victims → Handled s c gid tr victims precise (s.takeTrap c gid tr victims precise resume) ∧
      ∀ l ∈ lanesOf victims, l < g.threads.length →
        (s.takeTrap c gid tr victims precise resume).linkTop c gid l = resume l)

/-- R362, R213 to R215, R352, R340, R345: TRAP raises cause 0x0c with its code, below 1,024 for the handler with the next
instruction as resume point, and else as a call of the supervisor; a word that is no instruction raises cause 0x01 and loads
the SR.EMUL registers; DRAINST waits for the group's stores; at a boundary a group out of a handler takes its oldest pending
trap, with the lanes still in m0 as victims, once it has taken, one bundle after another, the failed overlay loads under its
threads (R71) and none of those lanes stands behind an acquire (R140); a load's trap frees its destination (R295); a trap of the supervisor restarts it.
Where the rules leave a choice it is the model's: values of open fields (log 6). -/
def Obligations.TrapInstructions : Prop :=
  (∀ s x code, Runs (.trap code) s x → x.quiet = false → s.second = none → x.gid ≠ supGid →
    let tr : Trap := { mkTrap 0x0c code.toNat 0 code.toNat with pc := x.pc, lanes := x.lanes }
    (code.toNat < 1024 → exec (.trap code) s = .next (s.takeTrap x.core x.gid tr x.lanes true fun _ => x.pc + w32 x.len)) ∧
    (1024 ≤ code.toNat → ∃ t : State, exec (.trap code) s = .next t ∧ Escalated (s.advance x) x.core x.gid tr t)) ∧
  (∀ s x w lit, s.ctx? = some x → x.quiet = false → s.second = none →
    let f := fieldsOf w
    let y : Ctx := { x with word := w, lit := lit }
    exec (.undefinedEncoding w lit) s = .next ((s.modGroup x.core x.gid fun g => { g with
        emul := [w, if f.l then lit else 0,
          f.d ++ (f.a ++ (f.b ++ (f.s ++ (f.me ++ (BitVec.ofBool f.l ++ (BitVec.ofBool f.set ++ f.major)))))),
          if f.set then x.lanes else x.lanes &&& x.g.mask f.me.toNat] }).takeTrap x.core x.gid
      { mkTrap 1 0 with pc := x.pc, lanes := x.lanes } x.lanes true fun _ => x.pc + w32 y.len)) ∧
  (∀ s x, Runs .drainst s x →
    let k := s.core x.core
    let u := s.joinFence x .core
    (u.storesBefore x = true → exec .drainst s = .next (u.waitAt x .drain)) ∧
    (u.storesBefore x = false → exec .drainst s = .next ((u.closeFences x).advance x)) ∧
    ((∀ p ∈ k.sbuf, p.2.uid ≠ x.g.uid) → u.storesBefore x = false) ∧
    (x.lanes ≠ 0 → (∀ f ∈ s.fences, State.standsAt x f.2 = false) →
      (u.storesBefore x = true ↔ ∃ p ∈ k.sbuf, p.2.uid = x.g.uid ∧ p.1 < k.nextSb)) ∧
    (∀ n f, s.fences = [(n, f)] → State.standsAt x f = true → f.lanes = x.lanes →
      (u.storesBefore x = true ↔ ∃ p ∈ k.sbuf, p.2.uid = x.g.uid ∧ ∃ m ∈ f.marks, p.1 < m.2.1)) ∧
    ∃ fs n, u.closeFences x = { s with fences := fs, nextFence := n }) ∧
  (∀ s c gid g t rest, s.group? c gid = some g → g.trap.inHandler = false → g.escalated = false → g.ending = false →
    (s.team c g.team).saving = false →
    (∀ tr lanes, s.failedAt c gid = some (tr, lanes) →
      let u := (s.modGroup c gid fun g => g.onLanes lanes fun _ th => { th with wait := none }).takeTrap c gid { tr with lanes } lanes true
        fun _ => tr.pc
      exec (.boundaryTrapTake c gid) s = .next (if u.wantsTrap c gid then u.postOnce (.boundaryTrapTake c gid) else u)) ∧
    (s.failedAt c gid = none → g.pending = t :: rest → (∃ l ∈ lanesOf (t.lanes &&& g.m0), (g.threads.getD l {}).behind = true) →
      exec (.boundaryTrapTake c gid) s = .next (s.post (.boundaryTrapTake c gid))) ∧
    (s.failedAt c gid = none → g.pending = t :: rest → t.cause ≠ 4 →
      (∀ l ∈ lanesOf (t.lanes &&& g.m0), (g.threads.getD l {}).behind = false) →
      exec (.boundaryTrapTake c gid) s = .next (((s.modGroup c gid fun g => { g with pending := rest }).unlockOp c t).takeTrap c gid t
        (t.lanes &&& g.m0) false fun i => (g.threads.getD i {}).pc))) ∧
  (∀ s c cause g, s.group? c supGid = some g →
    ∃ t : State, exec (.supervisorTrap c cause) s = .next t ∧ (t.group c supGid).trap = {} ∧
      (t.group c supGid).pending = [] ∧ ((t.group c supGid).threads.getD 0 {}).pc = 0 ∧
      ∀ th ∈ (t.group c supGid).threads, th.depth = 0 ∧ th.held = false)

/-- R345, R366: CTLSEND and CTLRECV trap outside the supervisor thread; CTLSEND sends its four words to the core, neighbour or
mailbox that the destination names and waits until they are accepted, and traps on a destination that does not exist; one to a core by
its logical index waits during bring-up until the core map has been published (R417); a
message enters the inbox of a core while it holds fewer than 16, and its receiver and its sender wait no more, and it is retried
otherwise; CTLRECV writes the oldest message
with its source word.
Where the rules leave a choice it is the model's: messages without a stated effect (log 60), TADDR (log 36). -/
def Obligations.ControlMessages : Prop :=
  (∀ s x a b, Runs (.ctlsend a b) s x →
    let dst := (sreg s x b).toNat
    let low := dst % 2 ^ 30
    let msg := (List.range 4).map fun i => (issued s x).getS x.gid (a.toNat + i)
    let me := s.device * 2 ^ 10 + s.logical x.core
    let bad := Host.Outcome.next (protects s x 3 dst)
    (x.gid ≠ supGid → exec (.ctlsend a b) s = .next (protects s x 4)) ∧
    (x.gid = supGid → dst / 2 ^ 30 = 0 → exec (.ctlsend a b) s =
      match s.physical (dst % 1024) with
      | some t => if low / 2 ^ 22 = 0 ∧ low / 2 ^ 10 % 2 ^ 12 = s.device then
          .next (if s.boot.running = true ∧ s.bootStep = 4 then s.waitAt x .drain
            else (s.send x.core t 5 1 (.controlMessageArrival t me msg)).waitAt x .ctlsend) else bad
      | none => bad) ∧
    (x.gid = supGid → dst / 2 ^ 30 = 1 → exec (.ctlsend a b) s =
      let (t, p) := s.neighbour x.core (dst % 4)
      if 4 ≤ low then bad
      else if t ∈ s.fused then .next ((s.post (.controlMessageArrival x.core (0xe0000000 + dst % 4) msg)).advance x)
      else .next ((s.send x.core t 5 1 (.controlMessageArrival t (0xc0000000 + p) msg)).waitAt x .ctlsend)) ∧
    (x.gid = supGid → dst / 2 ^ 30 = 2 → exec (.ctlsend a b) s = if 64 ≤ low ∨ s.product.dies ≤ low then bad
      else
        let w := (msg.getD 0 0).toNat
        .next ((if low = 0 ∧ w / 2 ^ 24 = 4 then s.send x.core (s.agentCore 0) 5 1 (.mapDone (w % 1024))
          else if low = 0 ∧ w / 2 ^ 24 = 7 then s.send x.core (s.agentCore 0) 5 1 .booted else s).advance x)) ∧
    (x.gid = supGid → dst / 2 ^ 30 = 3 → exec (.ctlsend a b) s = if 256 ≤ low then bad
      else .next ((s.post (.mailboxArrival low (s.logical x.core) msg)).waitAt x .ctlsend))) ∧
  (∀ s c src msg g i, (s.core c).groups.look supGid = some g →
    i = .controlMessageArrival c src msg ∨ i = .controlMessageRetry c src msg →
    ((s.core c).ctlIn.length < 16 → ∃ t : State, exec i s = .next t ∧
      (t.core c).ctlIn = (s.core c).ctlIn ++ [(w32 src, msg)] ∧ (t.core c).rf = (s.core c).rf ∧ (t.core c).store = (s.core c).store ∧
      t.agenda = s.agenda ∧ (∀ th ∈ (t.group c supGid).threads, th.wait ≠ some .halt ∧ th.wait ≠ some .ctlrecv) ∧
      ∀ from_, (if src / 2 ^ 30 % 4 = 0 then s.physical (src % 1024)
          else if src / 2 ^ 29 % 8 = 6 then some (s.neighbour c (src % 4)).1 else none) = some from_ →
        ∀ th ∈ (t.group from_ supGid).threads, th.wait ≠ some .ctlsend) ∧
    (16 ≤ (s.core c).ctlIn.length → exec i s = .next (s.post (.controlMessageRetry c src msg)))) ∧
  (∀ s x d, Runs (.ctlrecv d) s x → s.memWf = true →
    (x.gid ≠ supGid → exec (.ctlrecv d) s = .next (protects s x 4)) ∧
    (x.gid = supGid → (s.core x.core).ctlIn = [] → exec (.ctlrecv d) s = .next (s.waitAt x .ctlrecv)) ∧
    (∀ src msg rest, x.gid = supGid → (s.core x.core).ctlIn = (src, msg) :: rest →
      ∃ t, WritesUniform (s.setCore x.core { s.core x.core with ctlIn := rest }) x d.toNat (src :: msg) t ∧
        exec (.ctlrecv d) s = .next (t.advance x)))

/-- R353: TERMG ends the group that its operand names (a base set for the supervisor; the own group or an index of the team
otherwise): its threads end and its held traps go; a value that names no group of the team does nothing, and one outside the
team traps with cause 5.
Where the rules leave a choice it is the model's: accesses of an ended group (log 58), TADDR (log 36). -/
def Obligations.GroupTermination : Prop :=
  ∀ s x a, Runs (.termg a) s x →
    let v := (ureg s x a).toNat
    let outside := if x.gid = supGid then 576 ≤ v else v ≠ 0xffffffff ∧ (s.team x.core x.g.team).groups ≤ v
    let named : Option Nat :=
      if x.gid = supGid then some v else if v = 0xffffffff then some x.gid
      else ((s.core x.core).groups.find? fun p => p.2.team == x.g.team && p.2.index == v).map (·.1)
    (outside → exec (.termg a) s = .next (protects s x 3 v)) ∧
    (¬ outside → named = none → exec (.termg a) s = .next (s.advance x)) ∧
    (∀ gid g, ¬ outside → named = some gid → s.group? x.core gid = some g → gid ≠ supGid → g.ending = false → g.ray = none →
      ∃ t : State, exec (.termg a) s = .next t ∧ (t.group x.core gid).ending = true ∧ (t.group x.core gid).m0 = 0 ∧
        (t.group x.core gid).pending = [] ∧ (∀ th ∈ (t.group x.core gid).threads, th.live = false) ∧
        (t.group x.core gid).pins = [] ∧ g.uid ∈ (t.core x.core).killed ∧ Instr.groupEnd x.core gid ∈ t.agenda ∧ (t.core x.core).rf = (s.core x.core).rf)

/-! ### Engines, rays, items -/

/-- R304: a command whose descriptor or counter is misaligned takes cause 2, and one beyond the allocation cause 5; otherwise it
takes one of the two private slots of its base set or traversal thread, or one of the 256 of the pool, and stands in its engine's
queue, and with no slot free its bundle waits. A COLL has the next instance number of its tag (R332).
Where the rules leave a choice it is the model's: the counter of BAGQ (log 47), the tag of a COLL at its issue (log 155). -/
def Obligations.EngineCommandsIssue : Prop :=
  ∀ i s x major code e, Runs i s x → command i = some (major, code, e) →
    let k := s.core x.core
    let desc := (sreg s x e.a).toNat
    let ctr := (slast s x e.b).toNat
    let own := x.gid ≠ supGid ∧ k.eq.countP (fun p => p.2.gid = x.gid && p.2.priv) < 2
    let pool := k.eq.countP fun p => !p.2.priv
    let clear := desc % 64 = 0 ∧ ctr % 4 = 0 ∧ beyond s x .store 64 desc = none ∧ beyond s x .store 4 ctr = none
    (desc % 64 ≠ 0 → exec i s = .next (s.preciseTrap x (mkTrap 2 64 desc))) ∧
    (desc % 64 = 0 → ctr % 4 ≠ 0 → exec i s = .next (s.preciseTrap x (mkTrap 2 4 ctr))) ∧
    (∀ sub, desc % 64 = 0 → ctr % 4 = 0 → beyond s x .store 64 desc = some sub → exec i s = .next (protects s x sub desc)) ∧
    (∀ sub, desc % 64 = 0 → ctr % 4 = 0 → beyond s x .store 64 desc = none → beyond s x .store 4 ctr = some sub →
      exec i s = .next (protects s x sub ctr)) ∧
    (clear → ¬ own → 256 ≤ pool → exec i s = .next (s.waitAt x .engine)) ∧
    (clear → own ∨ pool < 256 →
      let tag := k.collTag (s.span x).1 desc
      let before := ((k.collCount.find? fun y => y.1 = x.g.team ∧ y.2.1 = tag).map (·.2.2)).getD 0
      let q : Cmd := { uid := x.g.uid, gid := x.gid, team := x.g.team, ctx := x.g.ctx, major, code, desc, ctr,
                       scope := if e.acq || e.rel then e.scope else .core, acq := e.acq, rel := e.rel, lanes := x.lanes,
                       pc := x.pc, priv := decide own, inst := if major = 0x79 then before else 0,
                       sbMark := (s.marksOf x).1, opMark := (s.marksOf x).2.1, rsMark := (s.marksOf x).2.2 }
      exec i s = .next (((s.setCore x.core { k with
          eq := k.eq.put k.nextCmd q, nextCmd := k.nextCmd + 1
          collCount := if major = 0x79 then
              (x.g.team, tag, before + 1) :: k.collCount.filter fun y => ¬ (y.1 = x.g.team ∧ y.2.1 = tag)
            else k.collCount }).postOnce
        (.engineTakeCommand x.core (engineFor major))).advance x))

/-- R320: RAYSEND with a ray that fails a check traps with cause 5 before anything is sent; it waits for as many free home slots as
it has rays; then each ray, in ascending lane order, takes a slot and a serial and is sent to its treelet, and the source registers
stay.
R328, R198: SPAWN traps with cause 5 on the first item whose stage is none of its context's or whose entry is no PC, waits until
its stages have room for every item, and then puts one item a lane into the queues, with the stage's entry where word 0 is 0.
Where the rules leave a choice it is the model's: a SPAWN without room (log 67), TADDR (log 36). -/
def Obligations.RaysAndItemsLeave : Prop :=
  (∀ i s x rays, Runs i s x → s.memWf = true → raysOf s x i = some rays →
    let k := s.core x.core
    ((∃ r ∈ rays, refusedRay s x r) → exec i s = .next (protects s x 3)) ∧
    ((∀ r ∈ rays, ¬ refusedRay s x r) → 1024 < k.homeUsed.length + rays.length → exec i s = .next (s.waitAt x .raysend)) ∧
    ((∀ r ∈ rays, ¬ refusedRay s x r) → k.homeUsed.length + rays.length ≤ 1024 →
      ∃ t : State, t = rays.foldl (launched x.core) s ∧ exec i s = .next (t.advance x) ∧
        (∃ slots : List Nat, (t.core x.core).homeUsed = slots ++ k.homeUsed ∧ slots.length = rays.length ∧ slots.Nodup ∧
          ∀ j ∈ slots, j < 1024 ∧ j ∉ k.homeUsed) ∧
        (t.core x.core).raySerial = k.raySerial + BitVec.ofNat 32 rays.length ∧ (t.core x.core).rf = k.rf)) ∧
  (∀ i s x items, Runs i s x → itemsOf s x i = some items →
    let d := s.dieOf x.core
    let crowded := ∃ st < 16, s.stageRoom d st < items.countP fun y => y.1.toNat = st
    (∀ early y rest, items = early ++ y :: rest → refusedItem s x y → (∀ z ∈ early, ¬ refusedItem s x z) →
      exec i s = .next (protects s x 3 y.1.toNat)) ∧
    ((∀ y ∈ items, ¬ refusedItem s x y) → crowded → exec i s = .next (s.waitAt x .spawn)) ∧
    ((∀ y ∈ items, ¬ refusedItem s x y) → ¬ crowded → exec i s = .next ((s.posts (items.map fun y =>
      .itemEnqueue d y.1.toNat (if y.2.getD 0 0 = 0 then
        y.2.set 0 ((((s.die d).stages.look y.1.toNat).map (·.entry)).getD 0) else y.2))).advance x)))

/-- R319, R321, R324, R327: the ray instructions are no instructions off the traversal threads, and all but RAYRECV need a held ray,
RAYRECV none. RAYRECV takes the oldest deliverable ray of the inbox into its block; RAYFWD pushes its pairs and sends the ray on
or keeps it; HITSEND sends the hit and RAYEND the end notice to the ray's home, and both end the hold.
R322, R323, R325: with a held ray and a bound treelet without poison, BOXT writes the references and entries of the boxes it enters to
eight registers; TRIT tests the run of its leaf and writes the ray and its result word; RXF writes 1 in an instance, 2 on masks that
do not meet, 3 on a point or direction it cannot take along, and else 0, and sends the ray into the instance. Each raises the flags of
its roundings (R5). A bad node or reference traps with cause 5.
Where the rules leave a choice it is the model's: TADDR (log 36), free results (log 38), a depth above C (log 39). -/
def Obligations.TraversalInstructions : Prop :=
  ((∀ i s x needs going b, Runs i s x → traversalWord i = some (needs, going, b) →
    (¬ traverses x → exec i s = .next (s.preciseTrap x (mkTrap 1 0))) ∧
    (traverses x → needs = x.g.ray.isNone → exec i s = .next (protects s x 7)) ∧
    (∀ h, traverses x → x.g.ray = some h → going = true → h.slot = none ∨ Ray.done (block s x b) = true →
      exec i s = .next (protects s x 7))) ∧
  (∀ s x d, Runs (.rayrecv d) s x → traverses x → x.g.ray = none → s.memWf = true →
    let k := s.core x.core
    ((∀ r ∈ k.inbox, r.slot ≠ none ∧ k.deliverable r = false) → exec (.rayrecv d) s = .next (s.waitAt x .rayrecv)) ∧
    (∀ early r rest, k.inbox = early ++ r :: rest → 24 ≤ r.words.length →
      (if r.slot = none then early = []
       else k.deliverable r = true ∧ (∀ y ∈ early, k.deliverable y = false) ∧ ∀ y ∈ early.head?, y.slot ≠ none) →
      ∃ t, WritesUniform ((s.setCore x.core { k with inbox := early ++ rest }).modGroup x.core x.gid fun g => { g with
            ray := some { base := d.toNat, home := r.words.getD 8 0, slot := r.slot } })
          x d.toNat (r.words.take 24) t ∧
        exec (.rayrecv d) s = .next ((let u := t.inboxHead x.core
          if (u.core x.core).inboxSpill.entries = [] then u else u.postOnce (.spillRefill x.core false)).advance x))) ∧
  (∀ s x h n a b, x.g.ray = some h → traverses x →
    let ray := block s x b
    let home := s.homeCore h.home
    let ended := s.endVisit x h (s.slotTid x.core h)
    let overflow := (ray.getD 13 0).getLsbD 12
    let status := if overflow then 4 else if ray.getD 10 0 = 0xffffffff then 1 else 0
    let (nodes, slots) := s.imageCounts x.core h
    let pairs := (List.range n.toNat).map fun j =>
      Machine.pushed nodes slots ray (ureg s x (a + 2 * BitVec.ofNat 5 j)) (ureg s x (a + 2 * BitVec.ofNat 5 j + 1))
    (Runs (.hitsend a b) s x → exec (.hitsend a b) s =
      .next ((ended.send x.core home 3 1 (.hitArrival home (hitOf (ray.set 8 h.home) status (ureg s x a)))).advance x)) ∧
    (Runs (.rayend b) s x → exec (.rayend b) s =
      .next ((ended.send x.core home 3 1 (.endNotice home (h.home.toNat % 1024))).advance x)) ∧
    (Runs (.rayfwd n a b) s x → a.toNat + 2 * n.toNat ≤ 32 →
      (none ∈ pairs → exec (.rayfwd n a b) s = .next (protects s x 3)) ∧
      (none ∉ pairs → exec (.rayfwd n a b) s = .next (match forwardRay ray (pairs.filterMap id) with
        | (ray, .send) => (s.sendOn x h b.toNat ray false).advance x
        | (ray, .exit) => (s.sendOn x h b.toNat ray true).advance x
        | (ray, .hold) => (s.writeRay x b.toNat ray).advance x))))) ∧
  (∀ s x h slot d a b, x.g.ray = some h → h.slot = some slot → traverses x → s.memWf = true →
    (s.core x.core).storePoison = [] →
    let ray := block s x b
    let v := (ureg s x a).toNat
    let nodes := nodesOf s x slot
    let slots := slotsOf s x slot
    let free := fun (i : Nat) => Config.freeWord (s.free + i)
    Ray.done ray = false →
    (Runs (.boxt d a b) s x →
      let node := imageBytes s x slot (64 + 64 * v) 64
      (1024 ≤ v ∨ nodes ≤ v ∨ badNode nodes slots node = true → exec (.boxt d a b) s = .next (protects s x 3 v)) ∧
      let stated := rayNumbers ray = true ∧ ∀ j < 3, Fp.finite32 (Machine.wordAt node (4 * j)) = true
      (v < 1024 → v < nodes → badNode nodes slots node = false →
        ∃ u t, (stated → u = s) ∧ (¬ stated → u = s.spendFree 64) ∧ WritesUniform u x d.toNat (boxResult free ray node) t ∧
          exec (.boxt d a b) s = .next ((t.raiseFlags x x.lanes (boxFlags free ray node)).advance x))) ∧
    (Runs (.trit d a b) s x → b.toNat + 24 ≤ 32 →
      let tri := fun j => imageBytes s x slot (64 + 64 * nodes + 48 * (v % 2 ^ 11 + j)) 48
      let tris := (List.range (v / 2 ^ 11 % 16 + 1)).map tri
      let bad := v / 2 ^ 30 ≠ 1 ∨ badRef nodes slots (ureg s x a) = true ∨ ∃ y ∈ tris, 2 ^ 10 ≤ leNat (y.drop 44)
      (bad → exec (.trit d a b) s = .next (protects s x 3)) ∧
      let r := triRun free ray tris
      (¬ bad → ∃ u t, WritesUniform (if rayNumbers ray then s else s.spendFree 64) x b.toNat r.ray u ∧
        WritesUniform u x d.toNat [r.result] t ∧
        exec (.trit d a b) s = .next ((t.raiseFlags x x.lanes r.flags).advance x))) ∧
    (Runs (.rxf d a b) s x → b.toNat + 24 ≤ 32 → d.toNat < b.toNat ∨ b.toNat + 24 ≤ d.toNat →
      let r := imageBytes s x slot (64 + 64 * nodes + 48 * (v % 2 ^ 11)) 96
      let bad := v / 2 ^ 30 ≠ 3 ∨ badRef nodes slots (ureg s x a) = true ∨ ∃ j, 57 ≤ j ∧ j < 96 ∧ r.getD j 0 ≠ 0
      let meets := byteAt r 56 &&& flagOf ray 29 22 ≠ 0
      let kept := if Ray.inst ray then some 1 else if ¬ meets then some 2 else if enterSpace ray r = none then some 3 else none
      (bad → exec (.rxf d a b) s = .next (protects s x 3)) ∧
      (∀ n, ¬ bad → kept = some n → ∃ u t, WritesUniform s x b.toNat (setFlag ray 10 10 0) u ∧
        WritesUniform u x d.toNat [BitVec.ofNat 32 n] t ∧
        exec (.rxf d a b) s = .next ((if n = 3 then t.raiseFlags x x.lanes (spaceFlags ray r) else t).advance x)) ∧
      (∀ od, ¬ bad → kept = none → enterSpace ray r = some od →
        let mask := flagOf ray 29 22
        let saved := ((ray.take 6 ++ (ray.drop 14).take 8).flatMap fun w => leBytes 4 w.toNat) ++
          [BitVec.ofNat 8 mask, BitVec.ofNat 8 (Ray.depth ray + 8 * flagOf ray 17 17), 0, 0]
        let flags := (setFlag (setFlag (setFlag (setFlag (setFlag ray 10 10 0) 29 22 (byteAt r 56 &&& mask)) 18 18 1) 17 17 0) 21 19 0).getD 13 0
        let inside := (List.range 24).map fun j =>
          if j < 6 then od.getD j 0 else if j = 9 ∨ j = 21 then Machine.wordAt r 48 else if j = 13 then flags
          else if 14 ≤ j ∧ j < 20 then 0 else if j = 20 then Machine.wordAt r 52 else ray.getD j 0
        ∃ t, WritesUniform (s.homeWrite .hbm (s.saveRecord (s.homeCore h.home) (h.home.toNat % 1024)) saved) x d.toNat [0] t ∧
          exec (.rxf d a b) s = .next
            (((t.raiseFlags x x.lanes (spaceFlags ray r)).sendOn x h b.toNat inside false (some (s.sceneCtx (sceneOf (s.slotTid x.core h))))).advance x))))

/-! ### Steps of the machine that no instruction word names -/

/-- R17 to R20, R10, R349: an ATS completion fills the die's translation cache and closes its request, and one whose page meets a
range that was invalidated since is asked again; a time-out or a PRI response other than success fails every access that waits; a
success repeats the ATS request; replayed lanes ask for their translations; an invalidation goes to every die agent, which removes the
entries of its range from its die's caches, and whose outstanding requests of the context remember it, and it completes when every
agent has done so and no access through the entries is in flight; a new PASID empties a context's entries.
R14, R17, R28, R141, R295, R302: a lane's access that stands behind nothing and whose translation is there goes on to the first-level
cache, its home, a memory port or, for an atomic at `.grp` or `.core`, the core's atomic unit; one to a forbidden target fails with
cause 5 and a fatal fault with cause 3; a hint that cannot be served is dropped and counted. When the last lane's data is there the
destination registers take their values and are free again.
Where the rules leave a choice it is the model's: response codes (logs 13, 14). -/
def Obligations.TranslatedAccesses : Prop :=
  ((∀ (s : State) d i g m, (s.die d).misses.look i = some m →
    let page := m.page / g.pageSize * g.pageSize
    let stale := ∃ r ∈ m.stale, page < r.2 ∧ r.1 < page + g.pageSize
    (stale → exec (.atsCompletion d i g) s =
      .next ((s.modDie d fun x => { x with misses := x.misses.put i { m with stale := [] } }).emit
        (.ats d i (s.field (State.ctxOff m.ctx 4) 19 0) m.page m.write))) ∧
    (¬ stale → m.fault = none → ∃ t : State, exec (.atsCompletion d i g) s = .next t ∧
      (t.die d).misses.look i = none ∧ ∀ ap off, s.classify (g.phys / g.pageSize * g.pageSize) = (ap, off) →
      (g.read || g.write) = true → ∃ set way, (set, way, entryOf s m g ap off) ∈ (t.die d).dcache) ∧
    (∃ t : State, exec (.atsTimeout d i) s = .next t ∧ (t.die d).misses.look i = none ∧
      ∀ w ∈ m.waiters, w.1.isSaved = false →
        ({ who := w.1, ctx := m.ctx, page := m.page, code := if w.2.2 then 0x100 else 0xff } : XFail) ∈ (t.die d).xfails)) ∧
  (∀ (s : State) d i f, (s.die d).faults.look i = some f → f.state = .outstanding →
    ((∃ w ∈ f.waiters, w.isSaved = false) → (∃ j < 256, (s.die d).misses.look j = none) →
      ∃ (t : State) (j : Nat) (m : Miss), exec (.priResponse d i 0) s = .next t ∧ (s.die d).misses.look j = none ∧
        (t.die d).misses.look j = some m ∧ m.ctx = f.ctx ∧ m.page = f.page ∧ m.write = f.write ∧ m.fault = some i ∧
        m.waiters.map (·.1) = f.waiters.filter (fun w => !w.isSaved) ∧
        (t.die d).faults.look i = some { f with state := .success, response := 0 }) ∧
    (∃ t : State, exec (.priResponse d i 15) s = .next t ∧ t.priEnable d = false) ∧
    (∀ code, code ≠ 0 → code ≠ 15 → ∃ t : State, exec (.priResponse d i code) s = .next t ∧
      (∀ w ∈ f.waiters, w.isSaved = false →
        ({ who := w, ctx := f.ctx, page := f.page, code } : XFail) ∈ (t.die d).xfails) ∧
      ∀ f', (t.die d).faults.look i = some f' → f'.state = .failed)) ∧
  (∀ s, ∃ t : State, exec .priDisable s = .next t ∧ t.pri.look s.priWrite.1 = none ∧
    ∀ c, (t.core c).rf = (s.core c).rf ∧ (t.core c).store = (s.core c).store) ∧
  (∀ (s : State), exec .priReenable s = .next (((List.range s.product.dies).filter fun d => s.hostLink d == s.priWrite.1).foldl
    State.retryMisses { s with pri := s.pri.put s.priWrite.1 s.priWrite.2 })) ∧
  (∀ (s : State) c i l, (s.core c).opLog.look i = some l →
    exec (.operandLogReplay c i) s = .next (s.posts ((lanesOf l.lanes).map fun lane => .translationRequest c l.op lane))) ∧
  (∀ (s : State) tag pasid va size, ∃ t : State, exec (.atsInvalidation tag pasid va size) s = .next t ∧
    t.invals.look (tag % 32) = some { pasid, va, size, left := List.range s.product.dies } ∧
    Instr.invalidationComplete (tag % 32) ∈ t.agenda) ∧
  (∀ (s : State) tag d v, tag < 32 → s.invals.look tag = some v → ∃ t : State,
    exec (.invalidationComplete (invalTag tag d)) s = .next t ∧
    t.invals.look tag = some { v with left := v.left.filter (· ≠ d) } ∧
    ∀ ctx ∈ s.contextsOf v.pasid,
      (∀ e : TEntry, e.ctx = ctx → e.page < v.va + v.size → v.va < e.page + e.size →
        (∀ set way, (set, way, e) ∉ (t.die d).dcache) ∧
        ∀ c eng l, s.dieOf c = d → (t.core c).tcache.look eng = some l → e ∉ l) ∧
      ∀ i m, (s.die d).misses.look i = some m → m.ctx = ctx →
        ∃ m', (t.die d).misses.look i = some m' ∧ (v.va, v.va + v.size) ∈ m'.stale) ∧
  (∀ (s : State) tag v, tag < 32 → s.invals.look tag = some v →
    exec (.invalidationComplete tag) s = .next
      (if v.left ≠ [] ∨ (∃ ctx ∈ s.contextsOf v.pasid, s.accessesIn ctx v.va (v.va + v.size) = true)
      then s.post (.invalidationComplete tag) else { s with invals := s.invals.drop tag }.emit (.invalidated tag))) ∧
  (∀ (s : State) i pasid, i < 255 → ∃ t : State, exec (.contextPasidAssign i pasid) s = .next t ∧
    t.field (State.ctxOff i 4) 19 0 = pasid % 2 ^ 20 ∧
    ∀ e : TEntry, e.ctx = i → e.page < 2 ^ 57 → 0 < e.page + e.size →
      (∀ d set way, (set, way, e) ∉ (t.die d).dcache) ∧ ∀ c eng l, (t.core c).tcache.look eng = some l → e ∉ l)) ∧
  ((∀ (s : State) c op lane o a, (s.core c).memops.look op = some o → o.lanes.find? (fun b => b.lane = lane) = some a →
    (s.core c).heldBack op o a = true → exec (.translationRequest c op lane) s = .next (s.post (.translationRequest c op lane))) ∧
  (∀ (s : State) c op lane o a, (s.core c).memops.look op = some o → o.lanes.find? (fun b => b.lane = lane) = some a → o.ctx ≠ 255 →
    (s.core c).heldBack op o a = false →
    let eng := if 512 ≤ o.gid then 1 else 0
    let who : Waiter := .ev (.translationRequest c op lane)
    let counted := fun (u : State) => u.hintDrops.put o.ctx ((fun n : Word => if n = 0xffffffff then n else n + 1)
      ((u.hintDrops.look o.ctx).getD 0))
    let onWay := fun (v : State) (ap : Ap) (off : Nat) (fwd : List (Nat × Byte)) => v.modCore c fun k =>
      ({ k with
        memops := k.memops.upd op fun o => { o with lanes := o.lanes.map fun b => if b.lane = lane then
          { b with ap, off, fwd, link := v.usedLink c eng o.ctx a.va, translated := true } else b } } : Core).observe o a.va fwd
        (if o.uniform then o.victims else maskOf [lane])
    (∀ n sx, o.kind = .load n sx →
      (∀ code u, s.xlate c eng o.ctx a.va false false who = .fail code u →
        exec (.translationRequest c op lane) s = .next ((u.logDone c op lane).failLane c op lane (mkTrap 3 code a.va))) ∧
      (∀ u, s.xlate c eng o.ctx a.va false false who = .wait u → exec (.translationRequest c op lane) s = .next u) ∧
      (∀ ap off u, s.xlate c eng o.ctx a.va false false who = .ok ap off u →
        let v := u.logDone c op lane
        let w := onWay v ap off ((v.core c).forward o a.va n)
        exec (.translationRequest c op lane) s = .next
          (if v.readable ap off = false then v.failLane c op lane (mkTrap 5 2 a.va)
           else if ap = .store then w.request { ap, off, kind := .read n, client := .direct c op lane }
           else w.loadLine c op lane o.ctx (v.usedLink c eng o.ctx a.va) ap off n))) ∧
    (∀ r n sc ord ap off u, o.kind = .atom r n sc ord → s.xlate c eng o.ctx a.va true false who = .ok ap off u →
      let v := u.logDone c op lane
      let w := onWay v ap off []
      v.readable ap off = true →
      (ap = .store ∨ (sc ≠ .grp ∧ sc ≠ .core) →
        exec (.translationRequest c op lane) s = .next (w.request { ap, off, kind := .rmw, client := .atom c op lane })) ∧
      (ap ≠ .store → sc = .grp ∨ sc = .core → exec (.translationRequest c op lane) s = .next
        (if (v.core c).atoms.any fun h => h.ap == ap && h.off / 16 == off / 16 then v.post (.translationRequest c op lane)
         else (w.modCore c fun k => { k with atoms := k.atoms ++ [{ ap, off, op, lane }] }).request
           { ap, off, kind := .read n, client := .unit c op lane }))) ∧
    (∀ kind u, o.kind = .pref kind → s.xlate c eng o.ctx a.va false true who = .fail 0x100 u → o.lanes = [a] →
      ∃ t : State, exec (.translationRequest c op lane) s = .next t ∧ t.hintDrops = counted u ∧
        (t.core c).memops.look op = none)) ∧
  (∀ (s : State) c op lane o, (s.core c).memops.look op = some o → (∃ b ∈ o.lanes, b.lane ≠ lane ∧ b.done = false) →
    exec (.loadReply c op lane) s = .next (s.modCore c fun k => { k with memops := k.memops.upd op fun o =>
      { o with lanes := o.lanes.map fun b => if b.lane = lane then { b with done := true } else b } })) ∧
  (∀ (s : State) c op lane o g n sx, (s.core c).memops.look op = some o → (∀ b ∈ o.lanes, b.lane = lane ∨ b.done = true) →
    o.kind = .load n sx → s.group? c o.gid = some g → g.uid = o.uid → s.memWf = true →
    (o.lanes.map (·.lane)).Nodup → (∀ b ∈ o.lanes, b.lane < 32) →
    (if o.uniform then 64 ≤ o.dst ∧ o.lanes.map (·.lane) = [0]
      else o.gid < 512 ∧ (g.vRow o.gid o.dst).isSome ∧ o.dst < 64 ∧ o.dst % 16 + o.regs ≤ 16) →
    ∃ t u : State, exec (.loadReply c op lane) s = .next t ∧ (t.core c).rf = (u.core c).rf ∧
      (t.core c).memops.look op = none ∧
      (t.group c o.gid).locks =
        (if o.unlocked then g.locks else (List.range o.regs).foldl (fun l j => l.erase (o.dst + j)) g.locks) ∧
      Delivers s { core := c, gid := o.gid, lanes := 0, pc := 0, word := 0, lit := 0, quiet := false, g }
        { uniform := o.uniform, lanes := [], victims := 0 } (if o.uniform then o.dst - 64 else o.dst) o.regs
        (fun j l => (o.lanes.find? fun b => b.lane = l && b.trap.isNone).map fun b => (loadWords o.regs sx b.data).getD j 0) u))

/-- R13, R42, R43, R45, R53, R56, R57, R107, R109, R112, R120, R129, R135, R176, R296: a home slice takes one request at a time, behind
the miss of its line and with its sector filled first, and none with 128 waiting for memory; a miss entry's requests are served in
their order, each when it can be; a
capacity write waits for its buffer; a fill enters the first-level cache unless it may only deliver; a memory port serves its requests
in order; a store-buffer entry leaves when its page is translated and its group's earlier accesses to its bytes are done; a remote
sub-byte store replaces exactly its bits; a reclaimed granule holds no line, and with no fill to such a granule in flight what waits for it goes on; a notified core's waits on a
barrier look again; a patrol scrub leaves every byte as it is.
Where the rules leave a choice it is the model's: which core's request is next, fills and store buffers (logs 19, 21, 22). -/
def Obligations.MemorySteps : Prop :=
  (∀ (s u : State) d sl i r, s.oneOf (s.slice d sl).arriving = (u, i) → (s.slice d sl).queue[i]? = some r →
    let x := s.slice d sl
    let rest := x.queue.eraseIdx i
    let line := fun (q : Req) => let h := u.homeOf q.ap q.off; (h.cap, h.buf, h.line)
    let shut := 128 ≤ x.missUse ∨ ∃ w, x.capWait = some w ∧ line w = line r
    let behind := x.misses.find? fun m => m.2.any fun q => line q == line r
    (shut → exec (.sliceRequest d sl) s = .next (u.post (.sliceRequest d sl))) ∧
    (∀ j l, ¬ shut → behind = some (j, l) → exec (.sliceRequest d sl) s =
      .next (u.setSlice d sl { x with queue := rest, misses := x.misses.put j (l ++ [r]) })) ∧
    (¬ shut → behind = none →
      (u.needsFill r = true → exec (.sliceRequest d sl) s = .next ((u.setSlice d sl
        { x with queue := rest, misses := x.misses.put x.nextMiss [r], nextMiss := x.nextMiss + 1 }).post
          (.sliceFill d sl x.nextMiss))) ∧
      (u.needsFill r = false → r.ap ≠ .cap ∨ (∃ n, r.kind = .read n) ∨ (r.kind = .rmw ∧ u.capDown (r.off / 2 ^ 39) = false) →
        exec (.sliceRequest d sl) s = .next ((u.setSlice d sl { x with queue := rest }).serve r)) ∧
      (u.needsFill r = false → r.ap = .cap → r.kind = .rmw → u.capDown (r.off / 2 ^ 39) = true →
        exec (.sliceRequest d sl) s = .next (u.post (.sliceRequest d sl))) ∧
      (∀ bs, r.kind = .write bs → r.ap = .cap → exec (.sliceRequest d sl) s = .next (if x.capWait = none then
        (u.setSlice d sl { x with queue := rest, capWait := some r }).post (.capacityWriteAccept d sl) else u.post (.sliceRequest d sl))))) ∧
  (∀ (s : State) d sl i r rest, (s.slice d sl).misses.look i = some (r :: rest) →
    let x := s.slice d sl
    let h := s.homeOf r.ap r.off
    let write := r.ap = .cap ∧ ∃ bs, r.kind = .write bs
    let shut := (∃ q, x.capWait = some q ∧ (let g := s.homeOf q.ap q.off; (g.cap, g.buf, g.line)) = (h.cap, h.buf, h.line)) ∨
      (write ∧ x.capWait ≠ none) ∨ (¬ write ∧ r.ap = .cap ∧ s.capDown (r.off / 2 ^ 39) = true)
    let left := if rest = [] then x.misses.drop i else x.misses.put i rest
    let again := fun (u : State) => if rest = [] then u else u.post (.sliceFill d sl i)
    (shut → exec (.sliceFill d sl i) s = .next (s.post (.sliceFill d sl i))) ∧
    (¬ shut → write → exec (.sliceFill d sl i) s =
      .next (again ((s.setSlice d sl { x with misses := left, capWait := some r }).post (.capacityWriteAccept d sl)))) ∧
    (¬ shut → ¬ write →
      let u := s.setSlice d sl { x with misses := left }
      exec (.sliceFill d sl i) s = .next (again ((if u.needsFill r then u.fillSector h else u).serve r)))) ∧
  (∀ (s : State) d sl r, (s.slice d sl).capWait = some r →
    let u := s.setSlice d sl { s.slice d sl with capWait := none }
    let lost := ∃ bs, r.kind = .write bs ∧ ∃ b ∈ bs, s.wordBad (s.homeOf .cap b.va) = true
    (s.capDown (r.off / 2 ^ 39) = true → exec (.capacityWriteAccept d sl) s = .next (s.post (.capacityWriteAccept d sl))) ∧
    (s.capDown (r.off / 2 ^ 39) = false → s.offline (r.off / 2 ^ 39) = false → ¬ lost →
      exec (.capacityWriteAccept d sl) s = .next (u.serve r)) ∧
    (∀ c key page, s.capDown (r.off / 2 ^ 39) = false → s.offline (r.off / 2 ^ 39) = true ∨ lost → r.client = .store c key page →
      exec (.capacityWriteAccept d sl) s = .next ((u.storeFault c key page 4 3 0 0).retireEntry c key))) ∧
  (∀ (s : State) c i f, (s.core c).l1fills.look i = some f →
    let k := s.core c
    let enters := f.install = true ∧ (∀ b ∈ f.poison, b = false) ∧ (∀ e ∈ k.sbuf, (f.ap, f.off) ∉ e.2.sectors) ∧
      ∀ h ∈ k.atoms, h.ap = f.ap → sectorBase h.ap h.off ≠ f.off
    let mine := fun (y : L1Line) => y.way == f.way && y.ctx == f.ctx && y.line == f.line
    ∃ t : State, exec (.l1Fill c i) s = .next t ∧ (t.core c).l1fills.look i = none ∧ (t.core c).rf = k.rf ∧
      (¬ enters → (∀ y ∈ (t.core c).l1, y ∈ k.l1) ∧ (k.reclaimWaits = false → (t.core c).l1 = k.l1)) ∧
      (enters → (∀ y ∈ (t.core c).l1, mine y = true → f.sector < y.valid.length → y.valid.getD f.sector false = true) ∧
        (s.memWf = true → ∀ y, k.l1.find? mine = some y → ∀ j < f.data.length,
          Mem.get (n := 8) (t.core c).store (lineBase y.way y.set + 48 * f.sector + j) = f.data.getD j 0))) ∧
  (∀ (s : State) c r rest, (s.core c).portQ = r :: rest →
    let k := s.core c
    let u := s.setCore c { k with portQ := rest }
    let a := r.off % 0x800000
    (∀ n, r.kind = .read n → exec (.coreStoreApertureAccess c) s =
      .next (u.answer r (k.readStore a n) ((List.range n).map fun i => k.storeBad (a + i) 1))) ∧
    (∀ bs, r.kind = .write bs →
      let v := u.modCore c fun k => bs.foldl (fun (k : Core) b => k.writeForeign (b.va % 0x800000) [b.val]) k
      exec (.coreStoreApertureAccess c) s = .next (match r.client with
        | .store cc key _ => v.acceptStore cc key .store bs
        | _ => v))) ∧
  (∀ (s : State) c pipe i e, (s.core c).sbuf.look i = some e →
    let eng := if 512 ≤ e.gid then 1 else 0
    let held := e.ticket.isSome = true ∨ (s.core c).behindTicket e.uid i e.victims = true ∨ (∃ p ∈ (s.core c).sbuf, p.1 < i ∧ p.2.uid = e.uid ∧ ∃ b ∈ p.2.bytes, ∃ y ∈ e.bytes, y.va = b.va) ∨
      ∃ b ∈ e.bytes, (s.core c).behindOps e.uid e.opMark b.va 1 = true
    (held → exec (.storeBufferDrain c pipe i) s = .next s) ∧
    (∀ page u, ¬ held → e.faults = [] → e.ctx ≠ 255 → e.bytes ≠ [] → (∀ b ∈ e.bytes, b.va / 4096 * 4096 = page ∧ b.sent = false) →
      page < 2 ^ 57 →
      (∀ ap off, ap ≠ .window → s.xlate c eng e.ctx page true false (.ev (.storeBufferDrain c pipe i)) = .ok ap off u →
        exec (.storeBufferDrain c pipe i) s = .next (u.sendPiece c i page ap off)) ∧
      (∀ off, s.xlate c eng e.ctx page true false (.ev (.storeBufferDrain c pipe i)) = .ok .window off u →
        let early := ∃ p ∈ (u.core c).sbuf, p.1 < e.instr ∧ p.2.uid = e.uid ∧ (p.2.ticket.isSome = true ∨ ∃ b ∈ p.2.bytes, b.sent = false)
        (early → exec (.storeBufferDrain c pipe i) s = .next u) ∧
        (¬ early → u.windowOf e.ctx off = none →
          exec (.storeBufferDrain c pipe i) s = .next (u.windowFault c e.uid e.instr page))))) ∧
  (∀ (s : State) c a n (v : DWord), 0 < n → n ≤ 64 → (a + n + 7) / 8 ≤ 0x600000 → s.memWf = true →
    let bit := fun (st : Memory) (b : Nat) => (Mem.get (n := 8) st (b / 8)).getLsbD (b % 8)
    ∃ k', StoreBy supGid (s.core c) k' ∧ exec (.remoteSubbyteStore c a n v) s = .next (s.setCore c k') ∧
      ∀ b, bit k'.store b = if a ≤ b ∧ b < a + n then v.getLsbD (b - a) else bit (s.core c).store b) ∧
  (∀ (s : State) c g,
    let k := s.core c
    let after := fun (k : Core) => if k.reclaimWaits then s.setCore c k else (s.setCore c k).postOnce (.placementOpportunity (s.dieOf c))
    (g ∉ k.lent → exec (.granuleReclaim c g) s = .next (after k)) ∧
    (g ∈ k.lent → ∃ k', exec (.granuleReclaim c g) s = .next (after k') ∧ g ∈ k'.reclaiming ∧ g ∉ k'.lent ∧ k'.l1ptr = [] ∧
      (∀ y, y ∈ k'.l1 ↔ y ∈ k.l1 ∧ y.way ≠ g) ∧
      k'.l1fills = k.l1fills.map (fun p => (p.1, if p.2.way = g then { p.2 with install := false } else p.2)) ∧
      { k' with l1 := k.l1, l1fills := k.l1fills, l1ptr := k.l1ptr, reclaiming := k.reclaiming } = k)) ∧
  (∀ (s : State) c ctx va, ∃ t : State, exec (.barrierNotify c ctx va) s = .next t ∧
    (∀ w, w ∈ t.blockWaits ↔ w ∈ s.blockWaits ∧ ¬ (w.2.2.1 = c ∧ w.2.2.2.1 = ctx ∧ w.2.2.2.2 = va)) ∧
    (∀ p ∈ (t.core c).groups, p.2.ctx = ctx → ∀ th ∈ p.2.threads, th.wait ≠ some (.blockBarrier va)) ∧
    (t.core c).rf = (s.core c).rf ∧ (t.core c).store = (s.core c).store) ∧
  ∀ (s : State) c, ∃ t : State, exec (.patrolScrub c) s = .next t ∧ t.hbm = s.hbm ∧ t.cap = s.cap ∧
    ∀ c', (t.core c').rf = (s.core c').rf ∧ (t.core c').store = (s.core c').store ∧ (t.core c').istore = (s.core c').istore

/-- R65 to R68, R71, R72, R75, R77, R110: the head of a core's load queue whose table entry and pages translate is placed, or refused
with cause 6 beyond its quota, after a request behind it that matches a copy has joined that copy, and no placed copy overlaps its
slots; a complete load fills its slots with the image and turns resident; a failed one leaves; exhaustion posts cause 6 once, with up
to 8 of the loads that wait; a refused request that fits its quota again is requested.
Where the rules leave a choice it is the model's: failed loads (logs 59, 94). -/
def Obligations.OverlaySteps : Prop :=
  (∀ (s : State) c q rest ap off s1 s2 s3 bs n noShare image pages,
    let s0 := s.shareBehind c
    let va := s0.ovtBase q.ctx + 8 * q.id
    let who := Instr.overlayPlacement c
    (s0.core c).loadQ = q :: rest → (s0.core c).loading < 4 →
    q.id < s0.ovtCount q.ctx → s0.xlate c 2 q.ctx va false false (.ev who) = .ok ap off s1 → codeAp ap = true →
    s1.readable ap off = true → s1.targetWaits ap off = false → s1.homeRead ap off 8 = (s2, bs, false) →
    ovEntry (leNat bs) = some (n, noShare, image) → s2.xlatePages c 2 q.ctx image who n = .ok pages s3 →
    (∀ p ∈ pages, codeAp p.1 = true ∧ s3.readable p.1 p.2 = true) →
    let pages := pages.zipIdx.map fun (p, i) => (s3.usedLink c 2 q.ctx (image + 4096 * i), p)
    let v := s3.noteSlots c q n
    let req := { q with slots := n }
    (n ≤ s3.slotQuota q.ctx → exec (.overlayPlacement c) s = .next (v.placeLoad c q n noShare pages image)) ∧
    (s3.slotQuota q.ctx < n → (v.core c).shareable (v.shareDomain q.ctx) n noShare pages = none →
      exec (.overlayPlacement c) s = .next (((v.modCore c fun k => { k with
        refused := k.refused ++ [req], records := k.records.drop q.recNo }).nextLoad c).raiseExhaustion c [req]))) ∧
  (∀ (s : State) c, (s.core c).loadQ.length ≤ 1 → s.shareBehind c = s) ∧
  (∀ (s : State) c q0 q u n noShare pages image j x, (s.core c).loadQ = [q0, q] → s.readEntry c q = (u, .ok n noShare pages image) →
    (u.core c).shareable (u.shareDomain q.ctx) n noShare pages = some (j, x) →
    let t := (s.shareBehind c).core c
    (∀ h, h ∈ t.loadQ ↔ h ∈ (u.core c).loadQ ∧ h.recNo ≠ q.recNo) ∧
    ∃ r, t.records.look j = some r ∧ r.aliases = x.aliases ++ [(q.ctx, q.id)]) ∧
  (∀ (s : State) c q n noShare pages image k first gone, (s.core c).shareable (s.shareDomain q.ctx) n noShare pages = none →
    (s.core c).fitQuota q.ctx n (s.slotQuota q.ctx) = some k → k.chooseRun n = some (first, gone) → n ≤ 256 →
    let t := s.placeLoad c q n noShare pages image
    ∃ r, (t.core c).records.look q.recNo = some r ∧ r.placed = true ∧ r.first = first ∧
      r.slots = n ∧ r.pages = pages ∧ r.image = image ∧ r.owner = some q.ctx ∧ first + n ≤ 256 ∧
      ∀ j y, j ≠ q.recNo → (t.core c).records.look j = some y → y.placed = true →
        y.first + y.slots ≤ first ∨ first + n ≤ y.first) ∧
  (∀ (s : State) c ld r s1 bs, (s.core c).records.look ld = some r → r.resident = false → r.placed = true →
    (∀ p ∈ r.pages, s.targetWaits p.2.1 p.2.2 = false) → s.readBlocks 4096 (r.pages.map (·.2)) = (s1, bs, none) → s1.memWf = true →
    ∃ (t : State) (r' : OvRecord), exec (.overlayLoadComplete c ld) s = .next t ∧ (t.core c).records.look ld = some r' ∧
      r'.resident = true ∧ r'.first = r.first ∧
      (∀ j < (State.wordsOf bs).length, Mem.get (n := 32) (t.core c).istore (r.first * 1024 + j) = (State.wordsOf bs).getD j 0) ∧
      (∀ a, a < r.first * 1024 ∨ r.first * 1024 + (State.wordsOf bs).length ≤ a →
        Mem.get (n := 32) (t.core c).istore a = Mem.get (n := 32) (s1.core c).istore a) ∧
      ∀ al ∈ r.aliases, ∀ p ∈ (t.core c).groups, p.2.ctx = al.1 → ∀ th ∈ p.2.threads, ∀ w, th.wait ≠ some (.park al.2 w) ∧
        th.wait ≠ some (.ovwait al.2)) ∧
  (∀ (s : State) c ld cause info r, (s.core c).records.look ld = some r → ld < (s.core c).nextRec →
    ∃ t : State, exec (.overlayLoadFail c ld cause info) s = .next t ∧ (t.core c).records.look ld = none) ∧
  (∀ (s : State) c, (∃ q ∈ (s.core c).loadQ, 0 < q.slots) → (s.core c).exhausted = true → (s.core c).ovExhausted = false →
    (s.core c).srec.length < 32 →
    let waiting := (s.core c).loadQ.filter fun q => 0 < q.slots
    ∃ (t : State) (r : List Word), exec (.overlayExhaustion c) s = .next t ∧
      (t.core c).ovExhausted = true ∧ (t.core c).srec = (s.core c).srec ++ [r] ∧ r.getD 0 0 = 6 ∧
      r.getD 3 0 = w32 waiting.length ∧
      ∀ j < 8, ∀ q, waiting[j]? = some q → r.getD (8 + 2 * j) 0 = w32 (q.ctx * 2 ^ 24 + (q.slots - 1) * 2 ^ 16 + q.id)) ∧
  (∀ (s : State) c, ∃ t : State, exec (.quotaRecheck c) s = .next t ∧
    (∀ q, q ∈ (t.core c).refused ↔ q ∈ (s.core c).refused ∧ s.slotQuota q.ctx < q.slots) ∧
    ((∀ p ∈ (s.core c).records, p.1 < (s.core c).nextRec) → ∀ q ∈ (s.core c).refused, q.slots ≤ s.slotQuota q.ctx →
      ((t.core c).copy? q.ctx q.id).isSome ∨ ∃ y ∈ (t.core c).refused, y.ctx = q.ctx ∧ y.id = q.id) ∧
    (t.core c).rf = (s.core c).rf)

/-- R121, R123, R125 to R133: arming a window entry makes it valid with a new epoch and its paths arming, or flags a refusal; a
destination accepts an ARM, and with it the lower of the versions, or refuses it; a reply turns a path live or refused; disarming ends its live paths; a store of the window is sequenced, or faults when it lies in
no window of its context; a copy in sequence is applied and acknowledged, one ahead waits, one behind is discarded, and one that its
window does not take is answered by a NACK; an acknowledgement closes
its store, a NACK breaks the path, silence makes it unreachable; a marker reaches its core.
Where the rules leave a choice it is the model's: versions and path numbers (logs 53, 54), copies ahead of sequence (log 29). -/
def Obligations.WindowSteps : Prop :=
  (∀ (s : State) e qw0, e < 256 → (s.ctlQ (State.winOff e 0)).getLsbD 63 = false →
    (s.armRefused e qw0 = true → ∃ q : DWord, exec (.windowArm e qw0) s = .next (s.setCtl (State.winOff e 0) q) ∧
      q.getLsbD 63 = false ∧ q.getLsbD 33 = true) ∧
    (s.armRefused e qw0 = false → ∃ t : State, exec (.windowArm e qw0) s = .next t ∧
      t.field (State.winOff e 0) 63 63 = 1 ∧ t.field (State.winOff e 0) 33 33 = 0 ∧
      t.field (State.winOff e 0) 53 46 = (s.field (State.winOff e 0) 53 46 + 1) % 256 ∧
      ∀ k ∈ State.pathsOf qw0, t.pathState e k = 1)) ∧
  (∀ (s : State) e qw0, e < 256 → ∃ t : State, exec (.windowDisarm e qw0) s = .next t ∧
    t.field (State.winOff e 0) 63 63 = 0 ∧ ∀ k < 9, t.pathState e k =
      if s.pathState e k = 1 ∨ s.pathState e k = 2 then 0 else s.pathState e k) ∧
  (∀ (s : State) (a : ArmMsg),
    let q0 := s.ctlQ (State.rxOff a.rx 0)
    let q1 := s.ctlQ (State.rxOff a.rx 1)
    let old := fun (p : RxPath) => p.src = a.srcDev ∧ p.entry = a.entry ∧ p.rx = a.rx
    let own := qf q0 61 58
    let ok := qf q0 63 63 = 1 ∧ (qf q1 63 63 = 1 ∨ qf q1 62 51 = a.srcDev) ∧ 1 ≤ a.major ∧ 1 ≤ own ∧ a.pages ≤ qf q1 28 0 ∧
      (qf q0 40 12 + qf q1 28 0) * 4096 ≤ s.product.hbmBytes - 4 * 2 ^ 30 ∧ ((∃ p ∈ s.rxPaths, old p) ∨ s.rxPaths.length < 1024)
    let minor := (if a.major = own then Nat.min a.minor (qf q0 57 54) else if a.major < own then a.minor else qf q0 57 54) % 16
    (¬ ok → exec (.armReceive a) s =
      .next (s.sendFar (s.agentCore 0) a.srcDev (.armReply a.srcDev a.entry a.dest false (qf q1 50 47) (qf q1 46 43)))) ∧
    (ok → ∃ t : State, exec (.armReceive a) s =
        .next (t.sendFar (s.agentCore 0) a.srcDev (.armReply a.srcDev a.entry a.dest true (Nat.min a.major own) minor)) ∧
      t.field (State.rxOff a.rx 1) 50 47 = Nat.min a.major own ∧ t.field (State.rxOff a.rx 1) 46 43 = minor ∧
      ∀ p, p ∈ t.rxPaths ↔ (p ∈ s.rxPaths ∧ ¬ old p) ∨
        p = { src := a.srcDev, entry := a.entry, rx := a.rx, k := a.dest, epoch := a.epoch, expect := 1 })) ∧
  (∀ (s : State) e k major minor,
    (s.pathState e k = 1 → exec (.armReply e k true major minor) s = .next (s.setPathState e k 2) ∧
      exec (.armReply e k false major minor) s = .next ((s.setPathState e k 3).flushPath e k)) ∧
    (s.pathState e k = 0 → exec (.armReply e k true major minor) s = .next s ∧
      exec (.armReply e k false major minor) s = .next (s.flushPath e k))) ∧
  (∀ (s : State) e id r, e < 256 → s.rstores.find? (fun y => y.entry == e && y.id == id) = some r →
    let arrival := Instr.reflectedStoreSequence (partNo 256 e id)
    let inside := s.field (State.winOff e 0) 63 63 = 1 ∧ qf (s.ctlQ (State.winOff e 1)) 63 56 = r.ctx ∧
      ∀ b ∈ r.bytes, b.va < qf (s.ctlQ (State.winOff e 1)) 27 0 * 4096
    let u : State := { s with rstores := s.rstores.filter fun y => y.id ≠ r.id }
    let drain := fun (y : SbEntry) => { y with bytes := y.bytes.filter fun b => ¬ (b.sent ∧ r.vas.contains b.va) }
    (∀ c key page, r.client = .store c key page →
      (inside → exec arrival s =
        .next (((((u.sequence r).core c).sbuf.filter fun p => p.2.uid == r.uid && p.2.instr == key).foldl (fun (w : State) p =>
          (w.modCore c fun k => { k with sbuf := k.sbuf.upd p.1 drain }).retireEntry c p.1) (u.sequence r)).settled r.core r.uid)) ∧
      let pages := (page :: r.vas.map fun a => a / 4096 * 4096).dedup
      let beside := fun (y : RStore) => y.uid = r.uid ∧ (∃ p, y.client = .store c key p) ∧ ∀ a ∈ y.vas, a / 4096 * 4096 ∈ pages
      ∀ stays : RStore → Bool, (∀ y, stays y = true ↔ y.id ≠ r.id ∧ ¬ beside y) → ¬ inside → exec arrival s =
        .next ((pages.foldl (fun (w : State) page => w.windowFault c r.uid key page)
          { s with rstores := s.rstores.filter stays }).settled r.core r.uid)) ∧
    (∀ c n, r.client = .cmd c n → exec arrival s = .next
      ((if inside then (u.sequence r).cmdWindow r.client false else u.cmdWindow r.client true (r.vas.headD 0)).settled r.core r.uid))) ∧
  (∀ (s : State) (y : Copy) p,
    s.rxPaths.find? (fun q => q.src == y.srcDev && q.entry == y.entry && q.rx == y.rx && q.epoch == y.epoch) = some p →
    let q0 := s.ctlQ (State.rxOff y.rx 0)
    let extent := y.mask.foldl (fun a i => max a (y.offset + i + 1)) y.offset
    let good := p.broken = false ∧ qf q0 63 63 ≠ 0 ∧ extent ≤ s.field (State.rxOff y.rx 1) 28 0 * 4096 ∧ y.poisonHdr = false
    let next := fun (n : RxPath) => ({ s with rxPaths := s.rxPaths.map fun q => if q = p then n else q } : State)
    let home := s.agentCore (s.hbmHome (qf q0 40 12 * 4096 + y.offset)).1
    let answer := fun (u : State) (ack : Bool) =>
      if y.srcDev = s.device then
        u.send home (s.agentCore (y.entry % s.product.dies)) 5 1 (.copyAcknowledge y.entry p.k (if ack then y.seq else 2 ^ 32 + y.seq))
      else u.sendFar home y.srcDev (if ack then .ack y.srcDev y.entry p.k y.seq else .nack y.srcDev y.entry p.k y.seq)
    (p.expect = y.seq → exec (.reflectedCopyArrival y) s = .next (if good then
        answer (y.mask.foldl (fun (u : State) i => u.homeWrite .hbm (qf q0 40 12 * 4096 + y.offset + i) [y.data.getD i 0] y.poisonData)
          (next { p with expect := (y.seq + 1) % 2 ^ 32 })) true
      else answer ((next { p with broken := true }).bumpField (State.rxOff y.rx 1) 42 35) false)) ∧
    (∀ ahead, p.broken = false → 0 < ahead → ahead < 2 ^ 32 → y.seq < 2 ^ 32 → y.seq = (p.expect + ahead) % 2 ^ 32 → p.expect < 2 ^ 32 →
      exec (.reflectedCopyArrival y) s = .next (if ahead < 2 ^ 31 then s.post (.reflectedCopyArrival y) else s))) ∧
  (∀ (s : State) e k seq q, s.sequenced.find? (fun q => q.entry == e && q.paths.contains (k, seq, 0)) = some q →
    q.paths = [(k, seq, 0)] → q.bad = none →
    (seq < 2 ^ 32 → exec (.copyAcknowledge e k (2 ^ 32 + seq)) s = exec (.nack e k seq) s ∧ ∃ t : State, exec (.copyAcknowledge e k seq) s = .next t ∧ t.sequenced = s.sequenced.erase q ∧
      t.field (State.winOff e 7) 31 0 = s.field (State.winOff e 7) 31 0 - 1) ∧
    (k < 9 → s.pathState e k < 3 → ∃ t : State, exec (.nack e k seq) s = .next t ∧ t.pathState e k = 4 ∧
      ∃ q' ∈ t.sequenced, q'.id = q.id ∧ q'.paths = [(k, seq, 2)] ∧ q'.bad ≠ none)) ∧
  (∀ (s : State) e k, s.pathState e k = 1 ∨ s.pathState e k = 2 ∨
      (s.pathState e k = 0 ∧ ∃ q ∈ s.sequenced, q.entry = e ∧ ∃ p ∈ q.paths, p.1 = k ∧ p.2.2 = 0) →
    ∃ t : State, exec (.pathUnreachableTimeout e k) s = .next t ∧ t.pathState e k = 5) ∧
  ∀ (s : State) f c y, s.fences.look f = some y → c ∈ y.markers → ∃ t : State, exec (.rfenceMarker f c) s = .next t ∧
    t.fences.look f = some { y with markers := y.markers.erase c, marks := y.marks ++ [s.markAt c] }

/-- R369, R370, R373 to R375, R379, R380, R384 to R390: the header holds its fields at their places; a granted head is eligible and
yields to the earliest promoted, and leaves its input for its link or its sink, keeping its buffer until it is acknowledged; the
next flit of a link is acknowledged, and with the last of its packet the packet stands in an input buffer of the next router; a bad
check or the round-trip timer sends a flit again, poisoned at the second failure, and takes the link down at the third; links go
down, train and fail as their layer says; a reach half takes the place of a row's closing link; a packet for another package travels
the row ring towards it, by the direction that its ends fix, and is discarded when no valid entry names its device or the half is
broken.
Where the rules leave a choice it is the model's: timers and the clock (logs 1, 31), NAK numbers (log 34), promoted heads (log 137),
reach links and the core of another package that a message goes to (log 138). -/
def Obligations.NetworkSteps : Prop :=
  (∀ (h : FlitHeader) (c : BitVec 16),
    let b := h.bits c
    b.extractLsb' 116 12 = h.dstDev ∧ b.extractLsb' 111 5 = h.dstX ∧ b.extractLsb' 106 5 = h.dstY ∧ b.extractLsb' 103 3 = h.sink ∧
    b.extractLsb' 100 3 = h.vn ∧ b.getLsbD 99 = h.bulk ∧ b.extractLsb' 97 2 = h.lenM1 ∧ b.extractLsb' 95 2 = h.index ∧
    b.getLsbD 94 = h.poison ∧ b.extractLsb' 82 12 = h.srcDev ∧ b.extractLsb' 77 5 = h.srcX ∧ b.extractLsb' 72 5 = h.srcY ∧
    b.extractLsb' 64 8 = h.kind ∧ b.extractLsb' 44 20 = h.tag ∧ b.extractLsb' 34 10 = h.seq ∧ b.extractLsb' 24 10 = h.ack ∧
    b.extractLsb' 20 4 = h.creditVc ∧ b.extractLsb' 16 4 = 0 ∧ b.extractLsb' 0 16 = c) ∧
  (∀ (s : State) r o h out, s.grant r o = some (h, out) →
    let early := fun (n m : Option Nat) => ∃ i, n = some i ∧ i ≤ m.getD 0
    h ∈ s.heads r o ∧ s.eligible r o h = true ∧ s.portFree r o = true ∧
    (∀ y ∈ s.heads r o, y.promoted ≠ none → y.chan = h.chan → s.buffered r o y = false → early h.promoted y.promoted) ∧
    ∀ y ∈ s.heads r o, y.promoted ≠ none → s.eligible r o y = true →
      (∀ z ∈ s.heads r o, z.promoted ≠ none → z.chan = y.chan → s.buffered r o z = true) →
      early h.promoted y.promoted ∧ (h.promoted = y.promoted → h.input ≤ y.input)) ∧
  (∀ (s : State) r port h out, s.grant r port = some (h, out) → r < s.product.cores →
    let link := s.portLink r port
    (2 ^ 16 ≤ link → (s.link link).broken = false) → ∃ t : State, exec (.outputArbitration r port) s = .next t ∧
      (t.router r).standing.length + (t.router r).outside.length + 1 = (s.router r).standing.length + (s.router r).outside.length ∧
      (port < 4 → (t.link link).window = (s.link link).window ++ [h] ∧ t.taken r h.input h.chan = s.taken r h.input h.chan) ∧
      (4 ≤ port → ∀ msg, h.packet.poison = none → h.packet.cargo = .here msg → msg ∈ t.agenda)) ∧
  (∀ (s : State) r port, (s.field 0x28 31 31 = 0 → s.portLink r port = 8 * r + port) ∧
    ∀ y (fwd : Bool), s.field 0x28 31 31 = 1 →
      let r := s.coreAt (if fwd then 4 else 0) y
      let port := s.ringPort r true fwd
      s.portLink r port = 2 ^ 16 + 2 * y + (if fwd then 1 else 0) ∧ s.linkSource (s.portLink r port) = (r, port)) ∧
  (∀ (s : State) l x rest, (s.link l).window = x :: rest → s.hasLink l = true →
    let k := s.link l
    let (r, port) := s.linkSource l
    let p := x.packet
    let far := s.neighbour r port
    let next : Link := { k with fails := 0, expect := (k.expect + 1) % 1024 }
    let arrive := fun (u : State) => if l < 2 ^ 16 then u.stand far.1 far.2 p else u.leave p
    let onward := fun (u : State) => (if k.got + 1 < p.flits then u.setLink l { next with got := k.got + 1 }
      else (arrive (u.setLink l { next with got := 0, window := rest })).vacate r x).postOnce (.outputArbitration r port)
    let first := match p.poison with
      | none => k.got
      | some i => Nat.min k.got i
    let again := if k.fails = 0 then ((s.countFault l 1).setLink l { k with fails := 1 }).post (.flitReceive l .good)
      else if k.fails = 1 then ((if p.poison = none then (s.countFault l 1).countFault l 2 else s.countFault l 1).setLink l
        { k with fails := 2, window := { x with packet := { p with poison := some first } } :: rest }).post
          (.flitReceive l .good)
      else (s.setLink l { k with fails := 0, up := false }).post (.linkDown l)
    (s.linkUp l = true → exec (.flitReceive l .good) s = .next (onward s)) ∧
    (s.linkUp l = true → exec (.flitReceive l .corrected) s = .next (onward (if l < 2 ^ 16 then s.countLink far.1 0 else s))) ∧
    (s.linkUp l = true → exec (.flitReceive l .bad) s = .next again) ∧
    (s.linkUp l = false → ∀ check, exec (.flitReceive l check) s = .next s) ∧
    (∀ seq, exec (.nak l seq) s = .next (if seq = k.expect then again else s)) ∧ exec (.roundTripTimerExpiry l) s = .next again) ∧
  (∀ (s : State) p out dev fwd path, p.cargo = .far dev fwd out path → p.poison = none → s.leave p = s.emit out) ∧
  (∀ (s : State) l, l < 2 ^ 16 →
    let k := s.link l
    let down := s.setLink l { k with up := false, downAt := some s.cc }
    let fatal := Instr.fatalError 0x0100 (s.dieOf (l / 8)) (s.logical (l / 8))
    s.linkSource l = (l / 8, l % 8) ∧ s.linkUp l = k.up ∧
    ((∀ at_, k.downAt = some at_ → at_ + 600000000 ≤ s.cc) → exec (.linkDown l) s = .next down) ∧
    (∀ at_, k.downAt = some at_ → s.cc < at_ + 600000000 → exec (.linkDown l) s = .next (down.post fatal)) ∧
    (∀ major minor, 0 < major → k.broken = false → exec (.linkTrainingComplete l major minor) s = .next
      (((s.setLink l { k with up := true }).posts (List.replicate k.unacked (.flitReceive l .good))).postOnce
        (.outputArbitration (l / 8) (l % 8)))) ∧
    exec (.weltRetrainTimeout l) s = .next (if k.up then s else s.post fatal)) ∧
  (∀ (s : State) p (b : Bool),
    let l := 2 ^ 16 + 2 * p + if b then 1 else 0
    let off := State.reachOff p
    let half := if b then 30 else 31
    let k := s.link l
    let src := s.linkSource l
    let trained := ((s.setField off half half 1).setField off 27 24 1).setField off 23 20 0
    (p < s.product.reachPorts → s.linkUp l = decide (s.field off half half = 1) ∧
      exec (.linkDown l) s = .next (s.setField off half half 0) ∧
      (∀ major minor, 0 < major → exec (.linkTrainingComplete l major minor) s = .next (if k.broken then s else
        (trained.posts (List.replicate k.unacked (.flitReceive l .good))).postOnce (.outputArbitration src.1 src.2))) ∧
      (s.field off half half = 1 → exec (.reachLinkBroken l) s = .next s) ∧
      (s.field off half half ≠ 1 → ∃ t : State, exec (.reachLinkBroken l) s = .next t ∧ t.field off 29 29 = 1 ∧
        (t.link l).broken = true ∧ (t.link l).window = [] ∧ t.outbox = s.outbox ∧
        ∀ q ∈ k.window, ∀ dev fwd out e k, q.packet.cargo = .far dev fwd out (some (e, k)) → e < 256 → k < 9 →
          s.pathState e k = 1 ∨ s.pathState e k = 2 → t.pathState e k = 5) ∧
      (∃ t : State, exec (.reachRetrain p) s = .next t ∧ t.ctl = (s.setField off 31 29 0).ctl ∧ t.link l = { k with broken := false } ∧
        t.agenda = s.agenda)) ∧
    (s.product.reachPorts ≤ p → ∀ i major minor seq, i ∈ [Instr.linkDown l, .linkTrainingComplete l major minor,
      .reachLinkBroken l, .reachRetrain p, .flitReceive l .good, .nak l seq, .roundTripTimerExpiry l] →
      exec i s = .next s)) ∧
  (∀ (s : State) c dev out path flits,
    ((qf (s.ctlQ 0x28) 31 31 = 0 ∨ ∀ j ≤ qf (s.ctlQ 0x28) 13 8, qf (s.ctlQ (0x100 + 8 * j)) 15 15 = 0 ∨ qf (s.ctlQ (0x100 + 8 * j)) 11 0 ≠ dev) →
      s.sendFar c dev out path flits = s) ∧
    (∀ j, s.ringPlace dev = some j →
      let n := s.product.width
      let pos := ringPos s.product.dieCols
      let dst := Config.farCore dev out.place % s.product.cores
      let fwd := (State.ringHops s.rowRing (n * s.field 0x28 5 0 + pos (s.coreX c)) (n * j + pos (s.coreX dst))).2
      let p := fun (vn : Nat) (bulk : Bool) => ({ src := c, dst, vn, bulk, flits, cargo := .far dev fwd out path } : Packet)
      (∀ vn bulk r, s.outPort r (p vn bulk) = s.ringPort r true fwd) ∧
      (∀ d y, out = .copy d y → s.sendFar c dev out path flits = s.enter 5 (p 4 true)) ∧
      (∀ d e k seq, out = .ack d e k seq ∨ out = .nack d e k seq → s.sendFar c dev out path flits = s.enter 4 (p 5 false)) ∧
      (∀ d a e k ok x y, out = .arm d a ∨ out = .armReply d e k ok x y → s.sendFar c dev out path flits = s.enter 5 (p 5 false)))) ∧
  (∀ (s : State) port p, s.injects p.src port p = true → s.enter port p = s.stand p.src port p) ∧
  ∀ (s : State) port p, s.injects p.src port p = false → ∃ x, s.enter port p = s.setRouter p.src x ∧
    x.standing = (s.router p.src).standing ∧ x.outside = (s.router p.src).outside ++ [(port, p)]

/-- R46, R131, R145, R305, R307, R308, R310 to R313: the oldest queued command of an engine whose conditions hold starts, after the
acquire that its flag asks for; a stalled bundle whose commands all wait takes cause 9; a core-store copy step moves at most 4 KiB and
whole destination words, with every source byte read before a byte is written, downwards over an overlap, and holds bytes of a word
that is not whole yet; a transfer record is read once and moved; a complete copy writes its status, which reports a window write that
was lost, and progress words, and signals by its counter or its ring.
Where the rules leave a choice it is the model's: the place of CHAIN lists (log 46), one step per event (logs 1, 30). -/
def Obligations.CopySteps : Prop :=
  (∀ (s : State) c eng n q, (s.core c).eq = [(n, q)] → engineOf q.major = eng → q.state = .queued →
    ((s.core c).teams.look q.team).any (·.saving) = false →
    let u := s.modCmd c n fun q => { q with cond := 0 }
    s.unmet c n q = 0 → u.unmet c n q = 0 →
    exec (.engineTakeCommand c eng) s = .next ((if q.acq ∧ ¬ q.acquired then u.acquire c q.scope else u).startCmd c n q)) ∧
  (∀ (s : State) c gid th l,
    let k := s.core c
    let g := s.group c gid
    let stalled := g.threads.zipIdx.filter fun p => p.1.live && !p.1.held && p.1.wait == some Wait.engine
    let mine := k.eq.filter fun p => p.2.uid = g.uid
    let lanes := maskOf ((stalled.filter fun p => p.1.pc == th.pc).map (·.2))
    stalled.head? = some (th, l) → (∀ p ∈ mine, if p.2.state = .queued then s.unmet c p.1 p.2 ≠ 0 else p.2.cond ≠ 0) →
    exec (.engineSelfWait c gid) s =
      .next (s.takeTrap c gid { mkTrap 9 mine.length with pc := th.pc, lanes } lanes true fun _ => th.pc)) ∧
  (∀ (s : State) c n q, s.cmd? c n = some q → q.state = .active → q.major = 0x60 →
    let d := copyDesc false q.block
    let base := (s.cmdSpan c q).1
    (d.length ≤ q.progress → exec (.copyStep c n) s = .next (s.endCmd c n)) ∧
    (q.progress < d.length → d.srcGlobal = false → d.dstGlobal = false → (s.core c).storePoison = [] → s.memWf = true →
      let rest := d.length - q.progress
      let held := q.carry.length
      let down := d.srcAt 0 < d.dstAt 0 ∧ d.dstAt 0 < d.srcAt 0 + d.length
      let source := fun (j : Nat) => Mem.get (n := 8) (s.core c).store (base + d.srcAt 0 + j)
      held ≤ rest → (∀ j < held, q.carry.getD j 0 = source (if down then rest - held + j else q.progress + j)) →
      ∃ (t : State) (q' : Cmd) (m : Nat), exec (.copyStep c n) s = .next t ∧ t.cmd? c n = some q' ∧
        { q' with carry := q.carry } = { q with progress := q.progress + m } ∧ m ≤ 4096 ∧ m ≤ rest ∧
        (0 < m ∨ held < q'.carry.length) ∧
        (m < rest → (if down then d.dstAt 0 + rest - m else d.dstAt 0 + q.progress + m) % 8 = 0 ∨ m = 0) ∧
        Instr.copyStep c n ∈ t.agenda ∧ (t.core c).rf = (s.core c).rf ∧
        let first := if down then rest - m else q.progress
        ∀ a, Mem.get (n := 8) (t.core c).store a =
          if base + d.dstAt 0 + first ≤ a ∧ a < base + d.dstAt 0 + first + m then source (a - (base + d.dstAt 0))
          else Mem.get (n := 8) (s.core c).store a)) ∧
  (∀ (s : State) c n q r, s.cmd? c n = some q → q.state = .active → q.asked = false →
    let at_ := bytesAt q.block 8 8 + 32 * q.recIndex
    let limit := (s.cmdSpan c q).2
    (bytesAt q.block 4 4 ≤ q.recIndex → exec (.transferRecord c n r) s = .next (s.endCmd c n)) ∧
    (∀ u b y, q.recIndex < bytesAt q.block 4 4 →
      (if q.record = [] then
        s.engRead c 0 q.ctx (.transferRecord c n (.ok [])) ((bytesAt q.block 0 4).testBit 30) (s.cmdSpan c q).1 at_ 32 = .ok u b
      else u = s ∧ b = q.record) →
      u.cmd? c n = some q →
      let v := u.modCmd c n fun q => { q with record := b }
      (recordOf limit b = some y → exec (.transferRecord c n r) s = .next (v.recordStep c n { q with record := b } y)) ∧
      (recordOf limit b = none → exec (.transferRecord c n r) s = .next (v.endCmd c n 1 5)))) ∧
  (∀ (s : State) c n q, s.cmd? c n = some q → q.state = .committed → s.windowOpen c n q.rel = false → q.asked = false →
    q.major ≠ 0x62 →
    let desc := (s.cmdSpan c q).1 + q.desc
    let ring := (s.cmdSpan c q).1 + q.ctr
    let late := s.lateWindow c n q 4
    let lost := q.window = true ∨ ∃ y ∈ s.sequenced, y.client = .cmd c n ∧ y.bad ≠ none
    let out := (s.modCore c fun k => { k with eq := k.eq.put n late }).modCore c fun k =>
      (k.writeStore (desc + 52) (leBytes 4 late.outcome)).writeStore (desc + 56) (leBytes 8 q.progress)
    (q.outcome ≠ 0 ∨ ¬ lost → late = q) ∧ (q.outcome = 0 → lost → late.outcome = 4 ∧ late.cause = 0x10) ∧
    exec (.copyComplete c n) s = .next (out.copySignal c n late) ∧
    ((bytesAt q.block 0 4).testBit 26 = false → out.copySignal c n late = (out.bumpCounter c ring).finishCmd c n) ∧
    (∀ k, (bytesAt q.block 0 4).testBit 26 = true → q.ctr % 32 = 0 → q.ctr + 32 ≤ (s.cmdSpan c q).2 →
      ringValid ((out.core c).ringQ ring 0) (s.cmdSpan c q).2 = true →
      (out.core c).ringGive ring ((out.core c).ringQ ring 0) 1 false = some k →
      out.copySignal c n late = (out.setCore c k).finishCmd c n))

/-- R131, R280, R285 to R288: with its W loaded a matrix command accumulates one row a step, at a multicast's sender with every
command that its copies reach, and ends after the last; a multicast starts when every receiver has joined, ends with code 5 when its
time-out comes first, and with code 1 when its mask names its own team; a complete command writes its status, which reports a window write that was lost,
and MMA its progress, and signals.
Where the rules leave a choice it is the model's: the codes of a failed multicast (log 49). -/
def Obligations.MatrixSteps : Prop :=
  (∀ (s : State) c n q, s.cmd? c n = some q → q.state = .active → q.major = 0x68 → q.cond = 0 →
    let m := mmaBlock q.code q.block
    let who := Instr.mmaRow c n
    let fed := s.fedBy 16 c n
    let ready := fun (u : State) => (u.modCmd c n fun q => { q with asked := true }).post who
    let own : WRecord := { src := m.wSrc, addr := m.w, scales := m.ws, km1 := m.km1, colsm1 := m.cols - 1 }
    (q.asked = true → m.rows ≤ q.progress → exec (.mmaRow c n) s = .next ((s.letGo c n).endCmd c n)) ∧
    (q.asked = false → m.wLoad = false →
      ((s.team c q.team).wrec = none → exec (.mmaRow c n) s = .next (s.endCmd c n 2 5)) ∧
      ((s.team c q.team).wrec ≠ none → (s.core c).arrayW = some q.team → exec (.mmaRow c n) s = .next (ready s))) ∧
    (∀ u ws, q.asked = false → m.wLoad = true → m.wSrc ≠ 3 → (∀ p ∈ fed, ∀ y, s.cmd? p.1 p.2 = some y → y.cond = 0) →
      s.loadW c q who own = .ok u ws → exec (.mmaRow c n) s = .next (ready (State.giveW 16 u c n ws own))) ∧
    (s.fed c n = [] → s.letGo c n = s ∧ fed = [] ∧ ∀ ws, State.giveW 16 s c n ws own = s) ∧
    (∀ u v sm ss, s.readOperand c q who m.sSrc m.s (q.progress * m.pitch) (4 * m.n * kBlocks m.km1) = .ok u sm →
      u.readOperand c q who m.sSrc m.ss (kBlocks m.km1 * q.progress) (kBlocks m.km1) = .ok v ss →
      s.readRow c q who = .ok v (sm ++ ss)) ∧
    (q.asked = true → q.progress < m.rows →
      (q.up ≠ none → exec (.mmaRow c n) s = .next s) ∧
      (∀ v row w rows, q.up = none → (∀ p ∈ fed, ∀ y, s.cmd? p.1 p.2 = some y → y.cond = 0 ∧ y.asked = true) →
        s.readRow c q who = .ok v row → v.readParties who [((c, n), row)] fed = (w, rows, none) →
        exec (.mmaRow c n) s = .next ((rows.foldl (fun (u : State) r =>
          if r.1 = (c, n) then u.computeRow c n q (r.2.take (State.rowLen q)) (r.2.drop (State.rowLen q))
          else u.partyRow r.1 r.2) w).post who)))) ∧
  (∀ (s : State) c n q sm ss, s.memWf = true →
    let m := mmaBlock q.code q.block
    let t := s.team c q.team
    let k := s.core c
    let kbW := match t.wrec with
      | some r => kBlocks r.km1
      | none => kBlocks m.km1
    let loaded := match t.wrec with
      | some r => r.colsm1 + 1
      | none => m.cols
    let cut := kbW * 32 * loaded
    let row := State.accKey t (m.accRow + q.progress)
    ∀ a, (row ≤ a → a < row + m.cols → a < row + loaded → Mem.get (n := 32) ((s.computeRow c n q sm ss).core c).acc a =
        (State.outputOf m kbW sm ss (k.arrayData.take cut) (k.arrayData.drop cut) (a - row)
          (if m.accZero then 0 else Mem.get (n := 32) k.acc a)).1) ∧
      (a < row ∨ row + m.cols ≤ a → Mem.get (n := 32) ((s.computeRow c n q sm ss).core c).acc a = Mem.get (n := 32) k.acc a)) ∧
  (∀ (s : State) c n q, s.cmd? c n = some q → q.state = .active → q.cond = 4 →
    let m := mmaBlock q.code q.block
    exec (.multicastTimeout c n) s = .next (s.endParties c n 5 8 0 0) ∧ (s.fed c n = [] → s.endParties c n 5 8 0 0 = s.endCmd c n 5 8) ∧
    let sent := s.modCmd c n fun q => { q with parties := [] }
    (m.send = true → q.parties = [] → (s.team c q.team).index < 16 →
      (m.mask = 0 → m.receives = false → exec (.multicastJoin c n) s =
        .next ((sent.modCmd c n fun q => { q with cond := 0 }).post (.mmaRow c n))) ∧
      (m.mask = 2 ^ (s.team c q.team).index → exec (.multicastJoin c n) s = .next (sent.endParties c n 1 5 0 0)))) ∧
  (∀ (s : State) c n q, s.cmd? c n = some q →
    (q.state = .active → q.major ≠ 0x68 → exec (.matrixCommandComplete c n) s = .next (s.accStep c n q)) ∧
    (q.state = .committed → s.windowOpen c n q.rel = false →
      let desc := (s.cmdSpan c q).1 + q.desc
      let late := s.lateWindow c n q 3
      let lost := q.window = true ∨ ∃ y ∈ s.sequenced, y.client = .cmd c n ∧ y.bad ≠ none
      let u := (s.modCore c fun k => { k with eq := k.eq.put n late }).modCore c fun k =>
        k.writeStore (desc + 48) (leBytes 4 (late.outcome + statusFlags q.flags))
      (q.outcome ≠ 0 ∨ ¬ lost → late = q) ∧ (q.outcome = 0 → lost → late.outcome = 3 ∧ late.cause = 0x10) ∧
      exec (.matrixCommandComplete c n) s = .next ((if q.major = 0x68 then
        u.modCore c fun k => k.writeStore (desc + 56) (leBytes 4 (q.progress % 128)) else u).signal c n)))

/-- R113, R116 to R118, R331 to R336, R399: the joins of a collective commit when the last member has joined, and a time-out
before that aborts; a committed member writes its bytes; a GET or PUT moves piece by piece and a wait for its peer may time
out; encoders take, finish and configure streams; a table registers or is refused; a bag query pools its rows and answers.
Where the rules leave a choice it is the model's: pieces and order of peers and collectives (logs 25, 26, 28), rings of encoders
(log 27). -/
def Obligations.UnitSteps : Prop :=
  (∀ (s : State) c n q coord tag key rank, s.cmd? c n = some q → q.state = .active → q.major = 0x79 →
    s.collIdent c q = (coord, tag, key, rank, true) →
    let i := (s.instOf coord tag q.inst).getD { coord, tag, inst := q.inst, key }
    let i' := { i with members := i.members ++ [(c, n, rank)] }
    (i.verdict < 2 → i.key = key → (∀ m ∈ i.members, m.2.2 ≠ rank) → i'.members.length ≠ key.headD 0 →
      exec (.collJoin c n) s = .next (s.putInst i')) ∧
    (i.verdict < 2 → i.key = key → (∀ m ∈ i.members, m.2.2 ≠ rank) → i'.members.length = key.headD 0 →
      ∃ t : State, exec (.collJoin c n) s = .next t ∧ ∀ m ∈ i'.members, Instr.collComplete m.1 m.2.1 ∈ t.agenda ∧
        ∀ y, s.cmd? m.1 m.2.1 = some y → t.cmd? m.1 m.2.1 = some { y with asked := true }) ∧
    (q.asked = false → i.verdict = 0 → (∀ m ∈ i.members, ¬ (m.1 = c ∧ m.2.1 = n)) →
      exec (.collTimeout c n) s = .next ((s.endMembers i' 5 8).putInst { i' with verdict := 2 }))) ∧
  (∀ (s : State) c n q coord tag key rank mine i bs fl, s.cmd? c n = some q → q.state = .active → q.asked = true →
    s.collIdent c q = (coord, tag, key, rank, mine) → s.instOf coord tag q.inst = some i →
    collResult s.free q.code rank (i.key.headD 0) (collBlock q.block) i.sources = (bs, fl) → bs ≠ [] →
    exec (.collComplete c n) s = .next ((((({ s with free := s.free + 64 * (collBlock q.block).count } : State).modCore c fun k =>
      k.writeStore ((s.cmdSpan c q).1 + (collBlock q.block).dst) bs).modCmd c n fun q => { q with flags := fl }).endCmd c n).putInst
        { i with done := i.done + 1 })) ∧
  (∀ (s : State) c n q, s.cmd? c n = some q → q.state = .committed →
    let desc := (s.cmdSpan c q).1 + q.desc
    let flags := (if q.flags.getLsbD 2 then 2 ^ 8 else 0) + if q.flags.getLsbD 4 then 2 ^ 9 else 0
    exec (.collComplete c n) s =
      .next ((s.modCore c fun k => k.writeStore (desc + 48) (leBytes 4 (q.outcome + flags))).signal c n) ∧
    exec (.getPutComplete c n) s = .next ((s.modCore c fun k => (k.writeStore (desc + 48) (leBytes 4 q.outcome)).writeStore
      (desc + 56) (leBytes 4 (q.progress % 2 ^ 31))).signal c n)) ∧
  (∀ (s : State) c n q, s.cmd? c n = some q → q.state = .active →
    let y := peerBlock q.block
    (qf (s.groupQ c (s.cmdSpan c q).1 y.group (y.member + 1)) 63 63 = 0 →
      (s.peerOf c q = (none, false) → exec (.peerAccess c n) s = .next (s.endCmd c n 3 5)) ∧
      (∀ cc m b, s.peerOf c q = (some (cc, m), b) → y.total ≤ q.progress → y.rctr = false →
        exec (.peerAccess c n) s = .next (s.endCmd c n)) ∧
      (∀ cc m b u k, s.peerOf c q = (some (cc, m), b) → q.progress < y.total → s.peerStep c q cc m = some (u, k) →
        exec (.peerAccess c n) s =
          .next ((u.modCmd c n fun q => { q with progress := q.progress + k, asked := false }).post (.peerAccess c n)))) ∧
    (q.asked = true → q.major = 0x65 ∨ q.major = 0x66 → exec (.peerWaitTimeout c n) s = .next (s.endCmd c n 5 8))) ∧
  (∀ (s : State) e st i, (s.enc e st).out = [] → (s.enc e st).encoding = none →
    (List.range 2).find? (fun i => ((s.enc e st).frames.getD i ([], false)).2) = some i →
    exec (.encoderFrameStart e st) s = .next ((s.setEnc e st { s.enc e st with encoding := some i }).emit
      (.encode e st (Mem.read (n := 8) ((s.enc e st).frames.getD i ([], false)).1 0 (s.frameBytes e st))))) ∧
  (∀ (s : State) e st i bytes, (s.enc e st).encoding = some i →
    let u := s.enc e st
    let ring := qf (s.ctlQ (State.encOff e st 2)) 31 0 * 4096
    let room := u.ringUsed + u.out.length + 4 + bytes.length ≤ ring
    ∃ t : State, exec (.encoderFrameDone e st bytes) s = .next t ∧ (t.enc e st).encoding = none ∧
      (t.enc e st).out = (if room then u.out ++ leBytes 4 bytes.length ++ bytes else u.out) ∧
      (¬ room → t.field (State.encOff e st 3) 31 31 = 1) ∧
      t.field (State.encOff e st 2) 63 32 = (s.field (State.encOff e st 2) 63 32 + 1) % 2 ^ 32) ∧
  (∀ (s : State) e st (v : DWord), e < 2 * s.product.dies → st < 16 → v.getLsbD 31 = false →
    ∃ t : State, exec (.encoderStreamConfig e st v) s = .next t ∧ t.field (State.encOff e st 0) 31 31 = 0 ∧
      t.field (State.encOff e st 3) 30 30 = 0) ∧
  (∀ (s : State) b t (v : DWord), b < s.buffers → t < 256 →
    let old := s.ctlQ (State.capTableOff b t 0)
    let fields := v &&& 0x7e3fe07fffffffff
    let refused := tableRefused v (s.ctlQ (State.capTableOff b t 1)) = true
    exec (.tableRegister b t v) s = .next (s.setCtl (State.capTableOff b t 0)
      (if v.getLsbD 63 = false then fields ||| (old &&& 0x8000000000)
        else if refused then fields ||| 0x8000000000 else fields ||| 0x8000000000000000))) ∧
  (∀ (s : State) c n q, s.cmd? c n = some q → q.state = .active →
    let y := bagBlock q.block
    let base := (s.cmdSpan c q).1
    let q0 := s.ctlQ (State.capTableOff y.buffer y.table 0)
    let q1 := s.ctlQ (State.capTableOff y.buffer y.table 1)
    let idx := fun p => (s.core c).store32 (base + y.idx + 4 * p)
    let first := (s.core c).store32 (base + y.starts)
    let outside := (List.range y.count).filter fun p => decide (first ≤ p ∧ qf q1 31 0 ≤ idx p)
    let waits := s.bagWaits c n y.buffer = true
    (waits → exec (.bagQueryExecute c n) s = .next (s.post (.bagQueryExecute c n))) ∧
    (¬ waits → s.offline y.buffer = true → exec (.bagQueryExecute c n) s = .next (s.endCmd c n 4 0x0f)) ∧
    (¬ waits → s.offline y.buffer = false → s.capDown y.buffer = true →
      exec (.bagQueryExecute c n) s = .next (s.post (.bagQueryExecute c n))) ∧
    (¬ waits → s.offline y.buffer = false → s.capDown y.buffer = false → qf q0 63 63 = 0 ∨ qf q1 63 56 ≠ q.ctx →
      exec (.bagQueryExecute c n) s = .next (s.endCmd c n 3 0x0f)) ∧
    (¬ waits → s.offline y.buffer = false → s.capDown y.buffer = false → qf q0 63 63 = 1 → qf q1 63 56 = q.ctx → s.capPoison = [] →
      1 ≤ y.bags → ∃ (t : State) (r : Cmd), exec (.bagQueryExecute c n) s = .next t ∧ t.cmd? c n = some r ∧
        r.state = .committed ∧ r.progress = outside.length ∧ r.inner = outside.headD 0xffffffff ∧
        r.outcome = (if outside = [] then 0 else 1) ∧ r.recIndex = y.bags * outPitch (qf q0 53 45 + 1) y.bf16)) ∧
  (∀ (s : State) c n q, s.cmd? c n = some q → q.state = .committed → q.outcome ≤ 1 →
    let y := bagBlock q.block
    let base := (s.cmdSpan c q).1
    let flags := (if q.flags.getLsbD 4 then 2 ^ 8 else 0) + if q.flags.getLsbD 2 then 2 ^ 9 else 0
    y.out + q.recIndex ≤ (s.cmdSpan c q).2 → exec (.bagQueryReply c n) s =
      .next ((((s.modCmd c n fun _ => q).modCore c fun k => k.writeStore (base + y.out) q.data).modCore c fun k =>
        k.writeStore (base + q.desc + 32) (leBytes 4 (q.outcome + flags) ++ leBytes 4 q.progress ++ leBytes 4 q.inner)).signalAt c n
          (if y.ctr % 4 = 0 ∧ y.ctr + 4 ≤ (s.cmdSpan c q).2 then y.ctr else q.ctr)))

/-- R82, R93, R96, R99 to R104, R317, R326, R377: a ray goes to the inbox of the core that holds its treelet, else to its home, or to
the spill ring while the injection queue is full; a home
returns it, holds it until its index entry has been read, routes it to an owner or asks for a placement; the map cache takes updates, a ring gives its oldest entry back, and a
hit, an end and a returning ray reach the home of the ray.
Where the rules leave a choice it is the model's: places of queued entries (log 35), their order (log 104). -/
def Obligations.RayRouting : Prop :=
  (∀ (s : State) c ray, (s.core c).slotFor (Ray.tid ray) = none → exec (.rayArrival c ray) s = .next (s.forwardHome c ray)) ∧
  (∀ (s : State) c ray j, let k := s.core c
    k.slotFor (Ray.tid ray) = some (j, false) → k.inbox.length < 512 → k.inboxSpill.entries = [] → 24 ≤ ray.length → s.memWf = true →
    ∃ t : State, ∃ p < 512, exec (.rayArrival c ray) s = .next t ∧ (∀ r ∈ k.inbox, r.place ≠ p) ∧
      (t.core c).inbox = k.inbox ++ [{ slot := some j, words := ray, place := p }] ∧
      (t.core c).slots.look j = (k.slots.look j).map (fun p => { p with uses := p.uses + 1, heat := min 0xffff (p.heat + 1) }) ∧
      (∀ a, Mem.get (n := 8) (t.core c).store a =
        if 0x5ea000 + 96 * p ≤ a ∧ a < 0x5ea000 + 96 * p + 96 then
          (ray.getD ((a - 0x5ea000 - 96 * p) / 4) 0).extractLsb' (8 * ((a - 0x5ea000) % 4)) 8 else Mem.get (n := 8) k.store a) ∧
      (t.core c).rf = k.rf ∧ t.hbm = s.hbm) ∧
  (∀ (s : State) d fwd ray, let tid := Ray.tid ray
    let sc := sceneOf tid
    let from_ := (ray.getD 24 0).toNat / 2 ^ 16
    let live := s.sceneValid sc = true ∧ sc ∉ s.retiring ∧ sc ∉ s.retired ∧ (from_ = 0 ∨ from_ = s.sceneCtx sc + 1)
    (¬ live → exec (.directoryRayArrival d fwd ray) s = .next (s.returnRay d ray 2)) ∧
    (live → s.dirEntry d tid = none →
      exec (.directoryRayArrival d fwd ray) s =
        .next (if numberOf tid < s.sceneCount sc then
          (s.holdRay d ray fwd).postOnce (.indexEntryRead d tid) else s.returnRay d ray 2)) ∧
    (∀ e, live → s.dirEntry d tid = some e → e.failed = true →
      exec (.directoryRayArrival d (fwd + 1) ray) s =
        .next (((s.modEntry d tid fun _ => e).returnRay d ray 3).checkReplica d tid))) ∧
  (∀ (s : State) d ray e, e.failed = false →
    let u := s.modEntry d e.tid fun _ => e
    (e.available ≠ [] → s.dirRay d 0 ray e = u.homeRoute d 0 ray e.available e.available) ∧
    (∀ f rest, e.available = [] → e.filling = f :: rest → s.dirRay d 0 ray e = u.homeRoute d 0 ray [f] [f]) ∧
    (e.available = [] → e.filling = [] →
      (e.placing = true → s.dirRay d 0 ray e = u.holdRay d ray 0) ∧
      (e.placing = false → e.owners.length < 4 → s.dirRay d 0 ray e = (u.holdRay d ray 0).askPlacement d e.tid false d))) ∧
  (∀ (s : State) c ray, let d := s.homeDie (Ray.tid ray)
    let msg := Instr.directoryRayArrival d (c + 1) ray
    let room := s.injects c 4 { src := c, dst := s.agentCore d, vn := 2, bulk := false, flits := 2, cargo := .here msg }
    s.forwardHome c ray = if c = s.agentCore d ∨ room = true then s.send c (s.agentCore d) 2 2 msg else s.spillRay c 0 ray) ∧
  (∀ (s : State) d tid, s.dirEntry d tid = none → (∃ r ∈ (s.die d).holding.entries, Ray.tid r = tid) →
    let sc := sceneOf tid
    let va := s.field (State.sceneOff sc 0) 56 3 * 8 + 8 * numberOf tid
    let ok := s.sceneValid sc = true ∧ sc ∉ s.retiring ∧ sc ∉ s.retired ∧ numberOf tid < s.sceneCount sc
    (¬ ok → exec (.indexEntryRead d tid) s = .next (s.returnHeld d tid 2)) ∧
    (∀ u v ap off bs, ok → s.xlate (s.agentCore d) 6 (s.sceneCtx sc) va false false (.ev (.indexEntryRead d tid)) = .ok ap off u →
      (u.readable ap off = false → exec (.indexEntryRead d tid) s = .next ((u.sceneFault tid 3).returnHeld d tid 3)) ∧
      (u.readable ap off = true → u.targetWaits ap off = false → u.targetRead ap off 8 = (v, bs, false) →
      let q := leNat bs
      (q.testBit 63 = false ∨ bits q 61 57 ≠ 0 ∨ bits q 5 0 ≠ 0 → exec (.indexEntryRead d tid) s = .next (v.returnHeld d tid 2)) ∧
      (q.testBit 63 = true → bits q 61 57 = 0 → bits q 5 0 = 0 → (v.dirSet d tid).length < 8 →
        let missed := ((v.die d).holding.entries.filter fun r => Ray.tid r == tid && r.getD 25 0 == 0).length
        exec (.indexEntryRead d tid) s = .next ((v.setDirSet d tid (v.dirSet d tid ++
          [{ tid, pinned := q.testBit 62, image := bits q 56 6 * 64, heat := min 0xffff missed }])).retryHeld d tid))))) ∧
  (∀ (s : State) c tid owners, exec (.mapUpdate c tid owners) s =
    .next (s.modCore c fun k => { k with mapCache := ((tid, owners.take 4) :: k.mapCache.filter fun e => e.1 ≠ tid).take 256 })) ∧
  (∀ (s : State) c, let k := s.core c
    let left := fun (sp : Spill) (rest : List (List Word)) (cap : Nat) =>
      { sp with entries := rest, taken := if rest = [] then 0 else (sp.taken + 1) % cap }
    (∀ h rest u sp, k.hitSpill.entries = h :: rest → k.hitQ.length < 512 →
      s.fitChunks (s.dieOf c) k.hitSpill (left k.hitSpill rest 1364) 1364 = (u, sp) → sp.entries = rest ∧
      exec (.spillRefill c true) s = .next (((u.modCore c fun k => { k.pushHit h with hitSpill := sp }).postOnce
        (.clickerTake c)).post (.spillRefill c true))) ∧
    (∀ r rest u sp, k.inboxSpill.entries = r :: rest → k.inbox.length < 512 → Ray.done (r.take 25) = true →
      s.fitChunks (s.dieOf c) k.inboxSpill (left k.inboxSpill rest 682) 682 = (u, sp) → sp.entries = rest ∧
      exec (.spillRefill c false) s = .next ((((u.modCore c fun k => { k with inboxSpill := sp }).modCore c fun k =>
        k.pushRay { slot := none, words := r.take 25 }).inboxHead c).post (.spillRefill c false)))) ∧
  (∀ (k : Core) (h : List Word), Mem.wf (n := 8) k.store = true → h.length = 12 → let p := (k.hitHead + k.hitQ.length) % 512
    (k.pushHit h).hitQ = k.hitQ ++ [h] ∧ ∀ a, Mem.get (n := 8) (k.pushHit h).store a =
      if 0x5f6000 + 48 * p ≤ a ∧ a < 0x5f6000 + 48 * p + 48 then
        (h.getD ((a - 0x5f6000 - 48 * p) / 4) 0).extractLsb' (8 * ((a - 0x5f6000) % 4)) 8 else Mem.get (n := 8) k.store a) ∧
  (∀ (s : State) c hit u bs bad, s.homeRead .hbm (s.saveRecord c (wf32 (hit.getD 0 0) 9 0) + 60) 4 = (u, bs, bad) →
    (u.core c).hitQ.length < 512 → (u.core c).hitSpill.entries = [] →
    exec (.hitArrival c hit) s = .next ((u.modCore c fun k => k.pushHit (hit.set 10 (w32 (leNat bs)))).postOnce (.clickerTake c))) ∧
  (∀ (s : State) c slot, exec (.endNotice c slot) s = .next (s.freeHome c slot)) ∧
  (∀ (s : State) c (ray : List Word) u bs bad, ray.length = 25 → s.homeRead .hbm (s.saveRecord c (wf32 (ray.getD 8 0) 9 0)) 64 = (u, bs, bad) →
    ∃ ray' : List Word, (ray'.take 6 = (List.range 6).map fun i => Machine.wordAt bs (4 * i)) ∧ Ray.done ray' = Ray.done ray ∧
      exec (.sendexitArrival c ray) s = .next (match forwardRay ray' [] with
        | (y, .hold) => u.enqueueRay c { slot := none, words := y.take 24 ++ [w32 c] }
        | (y, _) => u.routeRay c (addHop y)))

/-- R85, R91, R92, R96 to R98, R101, R105, R396: a slot is reserved, drains, fills and turns resident; the directory follows; heat rises
and halves; a chunk passes to another die; a retired scene leaves no map-cache entry, and its command completes when nothing of
the scene is left.
Where the rules leave a choice it is the model's: placements (logs 40 to 43). -/
def Obligations.TreeletSteps : Prop :=
  (∀ (s : State) d tid home r e c j, s.dirEntry home tid = some e → e.placing = true → e.owners.length < 4 →
    s.pickSlot d = some (c, j) → (s.core c).slots.look j = none →
    let p : PoolSlot := { scene := sceneOf tid, number := numberOf tid, state := .filling, pinned := e.pinned, next := some (tid, e.image, e.pinned) }
    let u := (s.modCore c fun k => { k with slots := k.slots.put j p }).post (.treeletFillComplete c j)
    exec (.placementRequest d tid home r) s = .next ((u.modEntry home tid fun e => { e with
      placing := false, owners := e.owners ++ [(u.logical c, j, true, false)] }).retryHeld home tid)) ∧
  (∀ (s : State) c j p, (s.core c).slots.look j = some p → p.state = .draining → p.uses = 0 →
    let d := s.homeDie p.tid
    let u := s.send c (s.agentCore d) 5 1 (.drained d p.tid (partNo 1024 (s.logical c) j))
    (p.next = none → exec (.slotDrained c j) s =
      .next (u.modCore c fun k => { k with slots := k.slots.drop j, accepted := k.accepted.drop j }).retryPlacements) ∧
    (∀ tid image pin, p.next = some (tid, image, pin) →
      let q : PoolSlot := { scene := sceneOf tid, number := numberOf tid, state := .filling, pinned := pin, uses := p.nextUses, heat := min 0xffff p.nextUses, next := p.next }
      exec (.slotDrained c j) s = .next ((u.modCore c fun k => { k with slots := k.slots.put j q }).post (.treeletFillComplete c j)))) ∧
  (∀ (s : State) c j p tid image pin, (s.core c).slots.look j = some p → p.state = .filling → p.next = some (tid, image, pin) →
    let ctx := s.sceneCtx (sceneOf tid)
    let who := Instr.treeletFillComplete c j
    ∀ u v head bs, State.readImage 2 s c ctx who image 64 = .ok u head →
      (headerOk head (numberOf tid) = false → exec (.treeletFillComplete c j) s = .next (u.failFill c j tid 5)) ∧
      (headerOk head (numberOf tid) = true → State.readImage 18 u c ctx who image (imageSize head) = .ok v bs →
        exec (.treeletFillComplete c j) s = .next ((((v.modCore c fun k => (k.writeForeign (j * 65536) bs).modSlot j fun p =>
          { p with state := .resident, next := none }).send c (s.agentCore (s.homeDie tid)) 5 1
            (.filled (s.homeDie tid) tid (partNo 1024 (s.logical c) j))).inboxHead c).retryPlacements))) ∧
  (∀ a b l j, a < 1024 → l < 1024 → (partNo 1024 a b = partNo 1024 l j ↔ a = l ∧ b = j)) ∧
  (∀ (s : State) d tid owner n cause,
    exec (.filled d tid owner) s = .next (((s.modEntry d tid fun e => { e with owners := e.owners.map fun o =>
      if (partNo 1024 o.1 o.2.1) = owner then (o.1, o.2.1, false, o.2.2.2) else o }).entryEvent d tid).checkReplica d tid) ∧
    (s.dirEntry d tid ≠ none → exec (.fillFailed d tid owner cause) s = .next (((s.modEntry d tid fun e => { e with
      owners := e.owners.filter fun o => partNo 1024 o.1 o.2.1 ≠ owner, failed := true }).sceneFault tid cause).entryEvent d tid)) ∧
    exec (.leaving d tid owner) s = .next ((s.modEntry d tid fun e => { e with owners := e.owners.map fun o =>
      if (partNo 1024 o.1 o.2.1) = owner then (o.1, o.2.1, o.2.2.1, true) else o }).entryEvent d tid) ∧
    exec (.drained d tid owner) s = .next ((s.modEntry d tid fun e => e.removeOwner owner).entryEvent d tid) ∧
    exec (.heatReport d tid n) s =
      .next (((s.modEntry d tid fun e => { e with heat := min 0xffff (e.heat + n) }).entryEvent d tid).checkReplica d tid)) ∧
  (∀ (e : DirEntry) owner, let is := fun (o : Nat × Nat × Bool × Bool) => partNo 1024 o.1 o.2.1 = owner
    (∀ o, o ∈ (e.removeOwner owner).owners ↔
      o ∈ e.owners ∧ ¬ (is o ∧ (o.2.2.2 = true ∨ ∀ p ∈ e.owners, is p → p.2.2.2 = false))) ∧
    { e.removeOwner owner with owners := e.owners } = e) ∧
  (∀ (s : State) d tid e, s.dirEntry d tid = some e → (∀ r ∈ (s.die d).holding.entries, Ray.tid r ≠ tid) →
    (e.leavingWay = false → s.entryEvent d tid = s.retrySet d tid) ∧
    (e.leavingWay = true → e.owners = [] → s.entryEvent d tid =
      (s.setDirSet d tid ((s.dirSet d tid).filter fun x => x.tid ≠ tid)).retrySet d tid)) ∧
  (∀ (s : State) d, ∃ t : State, exec (.heatDecay d) s = .next t.retryPlacements ∧
    (t.die d).dir = (s.die d).dir.map (fun (i, l) => (i, l.map fun e => { e with heat := e.heat / 2 })) ∧
    ∀ c ∈ s.dieCores d, (t.core c).slots = (s.core c).slots.map (fun (j, p) => (j, { p with heat := p.heat / 2 }))) ∧
  (∀ (s : State), (∀ x ∈ s.dies, ∀ r ∈ x.2.holding.entries, (s.dirEntry x.1 (Ray.tid r)).all (fun e =>
    e.placing || !e.available.isEmpty || !e.filling.isEmpty) = true) → s.retryPlacements = s) ∧
  (∀ (s : State) d e i rest, (s.die d).spillFree = i :: rest → d ≠ e →
    ∃ t : State, exec (.poolRebalance d e) s = .next t ∧ (t.die d).spillFree = rest ∧
      (t.die e).spillFree = i :: (s.die e).spillFree ∧ t.cores = s.cores ∧ t.hbm = s.hbm) ∧
  (∀ (s : State) sc, sc < 256 → s.field 0x30 63 63 = 0 →
    let held := fun (s : State) d => ((s.die d).holding.entries.map Ray.tid).dedup.filter fun t => sceneOf t = sc
    ∃ u : State, exec (.retireScene sc) s = .next (((List.range s.product.dies).foldl (fun (u : State) d =>
        (held u d).foldl (fun (u : State) t => u.returnHeld d t 2) u) u).post (.sceneRetireComplete sc)) ∧
      u.retiring = sc :: s.retiring ∧ u.retired = s.retired.erase sc ∧ u.field 0x30 63 63 = 1 ∧ u.dies = s.dies ∧ u.hbm = s.hbm ∧
      ∀ k ∈ u.cores, ∀ e ∈ k.2.mapCache, sceneOf e.1 ≠ sc) ∧
  (∀ (s : State) sc, sc ∈ s.retiring → s.cores.all (fun k => k.2.slots.isEmpty) = true →
    s.dies.all (fun x => x.2.dir.all fun l => l.2.all fun e => sceneOf e.tid != sc) = true →
    (∀ x ∈ s.dies, x.2.holding.entries = []) →
    exec (.sceneRetireComplete sc) s =
      .next (({ s with retiring := s.retiring.erase sc, retired := sc :: s.retired } : State).hostDone 0))

/-- R196 to R201, R328, R187, R235: an item joins its stage's queue and the clickers look for work; a clicker takes hits first,
and an item once it has a slot for it; the shade word gives a hit its entry; a full or late slot forms and starts as a group;
the governor's period passes; an idle stage is retired; an ended group that has settled leaves its core.
Where the rules leave a choice it is the model's: items and samples (logs 67, 68, 76). -/
def Obligations.StageSteps : Prop :=
  (∀ (s : State) d st item y, s.stage? d st = some y → item ≠ [] →
    let who := Instr.itemEnqueue d st []
    let enter := fun y : Stage => { y with items := y.items ++ [{ words := item, since := s.cc }] }
    let full := y.spillCount ≠ 0 ∨ 4096 ≤ y.items.length
    (¬ full → y.spilling = [] → exec (.itemEnqueue d st item) s = .next ((s.modStage d st enter).clickAll d st)) ∧
    (full ∨ y.spilling ≠ [] →
      exec (.itemEnqueue d st item) s = .next ((s.modStage d st fun y => { y with spilling := y.spilling ++ [item] }).postOnce who)) ∧
    (∀ rest, y.spilling = item :: rest →
      (¬ full → exec who s = .next (((s.modStage d st fun y => { enter y with spilling := rest }).clickAll d st).postOnce who)) ∧
      (4096 ≤ y.items.length → s.spillSlots d st ≤ y.spillCount → exec who s = .next s) ∧
      (∀ u b, 4096 ≤ y.items.length → y.spillCount < s.spillSlots d st →
        s.engWrite (s.agentCore d) 6 y.ctx 0 who 0 true 0 (s.spillAddr d st (y.spillHead + y.spillCount))
          (item.flatMap fun (w : Word) => leBytes 4 w.toNat) = .ok u b →
        exec who s = .next ((u.modStage d st fun y => { y with spilling := rest, spillCount := y.spillCount + 1 }).postOnce who)))) ∧
  (∀ (s : State) c st y, let k := s.core c
    let d := s.dieOf c
    k.stage = some st → s.stage? d st = some y → k.leaving = false → k.clicker.length < 32 →
    (k.hitQ ≠ [] → exec (.clickerTake c) s = .next (s.postOnce (.shadeWordRead c))) ∧
    (∀ i it, k.hitQ = [] → s.pickItem c y = some i → y.items[i]? = some it →
      ∃ t : State, exec (.clickerTake c) s = .next t ∧ (t.stage? d st).map (·.items) = some (y.items.eraseIdx i) ∧
        (∃ f ∈ (t.core c).clicker, f.ctx = y.ctx ∧ f.entry = it.words.headD 0 ∧ it.words.drop 1 ∈ f.lanes) ∧
        Instr.clickerTake c ∈ t.agenda)) ∧
  (∀ (s : State) c st y hit rest u bs, let k := s.core c
    let d := s.dieOf c
    k.stage = some st → s.stage? d st = some y → k.leaving = false → k.hitQ = hit :: rest →
    s.engRead c 0 y.ctx (.shadeWordRead c) true 0 (s.field (State.stageOff d st 1) 56 3 * 8 + 4 * wf32 (hit.getD 4 0) 7 0) 4 = .ok u bs →
    (u.core c).clicker.length < 32 →
    ∃ t : State, exec (.shadeWordRead c) s = .next t ∧ (t.core c).hitQ = (u.core c).hitQ.drop 1 ∧
      (∃ f ∈ (t.core c).clicker, f.ctx = y.ctx ∧ f.entry = w32 (leNat bs) ∧ hit ∈ f.lanes)) ∧
  (∀ (s : State) c id f, (s.core c).clicker.find? (fun f => f.id == id) = some f →
    exec (.clickWaitExpiry c id) s =
      .next (if s.cc < f.since + max 1 (s.field (State.dieOff (s.dieOf c) 0) 15 0) then s else s.formSlot c id) ∧
    ∀ f ∈ ((s.formSlot c id).core c).clicker, f.id = id → f.formed = true) ∧
  (∀ (s : State) c f n team gid more idx, let k := s.core c
    k.clicker.filter (·.formed) = [f] → f.trap = none → k.teams.find? (fun p => p.2.kind == .stage) = some (n, team) →
    k.freeSets = gid :: more →
    firstFree team.groups ((k.groups.filter fun p => p.2.team == n).map fun p => p.2.index).contains = some idx →
    idx < 512 →
    ∃ t : State, exec (.formedGroupLaunch c) s = .next t ∧ (∀ f' ∈ (t.core c).clicker, f'.id ≠ f.id) ∧
      ∃ g, t.group? c gid = some g ∧ g.team = n ∧ g.ctx = team.ctx ∧ g.ending = false ∧
        g.threads.map (·.live) = (List.range 32).map (fun l => decide (l < f.lanes.length)) ∧
        ∀ th ∈ g.threads, th.pc = f.entry) ∧
  (∀ (s : State) d, (∀ c ∈ s.dieCores d, (s.core c).hitQ = [] ∧ (s.core c).hitSpill.entries = []) →
    (∀ st < 16, s.stageValid d st = true → s.stageItems d st ≤ s.field (State.stageOff d st 0) 47 32) →
    ∃ t : State, exec (.stageGovernorPeriod d) s = .next t ∧ (t.die d).period = (s.die d).period + 1 ∧ t.cores = s.cores ∧
      ∀ st < 16, t.stage? d st = (s.stage? d st).map (fun y => if s.stageValid d st = true then { y with lastOver := false } else y)) ∧
  (∀ (s : State) d st,
    (0 < s.stageItems d st + s.incoming d st → exec (.stageRetire d st) s = .next s) ∧
    (s.stageItems d st + s.incoming d st = 0 → (∀ c ∈ s.dieCores d, (s.core c).stage = some st → (s.core c).clicker = []) →
      s.hitStage d ≠ st → ∃ t : State, exec (.stageRetire d st) s = .next t ∧ t.stageValid d st = false)) ∧
  (∀ (s : State) c gid g, s.group? c gid = some g → g.ending = true →
    (s.groupSettled c g = false → exec (.groupEnd c gid) s = .next (s.post (.groupEnd c gid))) ∧
    (s.groupSettled c g = true → (s.retireGroup c gid g).group? c gid = none ∧
      exec (.groupEnd c gid) s = .next (((s.retireGroup c gid g).retireTeams c).completeLaunches (.groupEnd c gid))))

/-- R180, R181, R184 to R186, R393, R394: a host write takes the plain fields of a context, a write by a function without
access changes nothing, a read answers and clears the fields that it clears; a doorbell moves write_index, or stops a queue that it overruns with code 9, an enable starts a queue
or stops it with code 9; a record is checked, becomes a launch, and its blocks go to the lists of their dies.
Where the rules leave a choice it is the model's: writes of half a register (log 92). -/
def Obligations.LaunchSteps : Prop :=
  (∀ (s : State) fn off bytes v, s.mayAccess fn off = false →
    exec (.registerWrite fn off bytes v) s = .next s ∧ (off < 0x4000000 → exec (.hostRegisterRead fn off) s = .next (s.emit (.read fn off 0)))) ∧
  (∀ (s : State) i (v : DWord), i < 256 → let off := 0x110000 + 64 * i
    exec (.registerWrite 0 off 8 v) s =
      .next (s.setCtl off ((s.ctlQ off &&& ~~~0x01fffffffffffff8) ||| (v &&& 0x01fffffffffffff8)))) ∧
  (∀ (s : State) i, i < 256 →
    let ctx := 0x110000 + 64 * i
    let lq := 0x100000 + 32 * i + 16
    exec (.hostRegisterRead 0 ctx) s = .next (s.emit (.read 0 ctx (s.ctlQ ctx))) ∧
    exec (.hostRegisterRead 0 lq) s =
      .next ((s.setCtl lq (s.ctlQ lq &&& 0xffffffffffff0000)).emit (.read 0 lq (s.ctlQ lq)))) ∧
  (∀ (s : State) q (v : Word) (qw : DWord), q < 256 →
    let w := s.setField (State.lqOff q 1) 31 0 v.toNat
    exec (.launchQueueDoorbell q v) s = .next (
      if s.field (State.lqOff q 0) 63 63 = 1 ∧
        2 ^ s.field (State.lqOff q 0) 61 56 < (v.toNat + 2 ^ 32 - s.field (State.lqOff q 2) 63 32) % 2 ^ 32 then w.stopQueue q 9
      else w.post (.launchRecordFetch q)) ∧
    let u := s.setCtl (State.lqOff q 0) (qw &&& 0xffff01ffffffffc0)
    exec (.launchQueueEnable q qw) s = .next (if 4 ≤ qf qw 61 56 ∧ qf qw 61 56 ≤ 20 then
      ((u.setField (State.lqOff q 0) 63 63 1).setField (State.lqOff q 2) 31 24 0).post (.launchRecordFetch q)
      else u.stopQueue q 9)) ∧
  (∀ (s : State) q,
    let n := (s.field (State.lqOff q 1) 31 0 + 2 ^ 32 - s.field (State.lqOff q 2) 63 32) % 2 ^ 32
    (s.mayFetch q = false → exec (.launchRecordFetch q) s = .next s ∧ (q < 256 → ∀ n, exec (.teamInitRead (partNo 256 q n)) s = .next s)) ∧
    (s.mayFetch q = true → 2 ^ s.field (State.lqOff q 0) 61 56 < n → exec (.launchRecordFetch q) s = .next (s.stopQueue q 9)) ∧
    (∀ u ws, s.mayFetch q = true → n ≤ 2 ^ s.field (State.lqOff q 0) 61 56 → s.recordAt q = (u, ws) →
      let l := u.launchOf q ws
      (u.checkRecord l ≠ 0 → exec (.launchRecordFetch q) s = .next (u.stopQueue q (u.checkRecord l))) ∧
      (∀ w code slots, u.checkRecord l = 0 → u.checkEntry l (.launchRecordFetch q) = (some (code, slots), w) →
        exec (.launchRecordFetch q) s = .next (if code ≠ 0 then w.stopQueue q code
          else if l.initIdx = 0 then w.acceptLaunch { l with entrySlots := slots } else w.postOnce (.teamInitRead (partNo 256 q slots))))) ∧
    (∀ u ws w bs slots, q < 256 → s.mayFetch q = true → s.recordAt q = (u, ws) →
      u.readImages (q % u.product.dies) (u.launchOf q ws) (.teamInitRead (partNo 256 q slots)) = .ok w bs →
      exec (.teamInitRead (partNo 256 q slots)) s = .next (if ((List.range (bs.length / 48)).all fun j =>
        imageOk (u.launchOf q ws).decl ((bs.drop (48 * j)).take 48)) = true then
          w.acceptLaunch { u.launchOf q ws with entrySlots := slots } else w.stopQueue q 10))) ∧
  (∀ (s : State) q l, q < 256 → s.current q = some l →
    (l.total ≤ l.next →
      let u := s.modLaunch l.index fun l => { l with distributed := true }
      exec (.blockDistribution q) s = .next (((u.setField (State.lqOff q 2) 63 32 (u.field (State.lqOff q 2) 63 32 + 1)).post
        (.launchRecordFetch q)).postOnce (.groupEnd (u.agentCore (q % u.product.dies)) 0))) ∧
    (l.next < l.total →
      let d := l.dieOf l.next
      let a := s.arb d q
      (64 ≤ (s.blocksAt d q).length + a.coming.length → exec (.blockDistribution q) s = .next s) ∧
      ((s.blocksAt d q).length + a.coming.length < 64 → exec (.blockDistribution q) s =
        .next ((((s.setArb d q { a with coming := a.coming ++ [l.index] }).modLaunch l.index fun l => { l with next := l.next + 1 }).send
          (s.agentCore (q % s.product.dies)) (s.agentCore d) 5 1 (.blockDistribution (blockMsg q d l.index l.next)) true 5).post
            (.blockDistribution q))))) ∧
  (∀ (s : State) d q l b, d < 64 → q < 256 → b < 2 ^ 32 →
    let a := s.arb d q
    let u := s.setArb d q { a with coming := a.coming.erase l }
    (∀ y, s.launch? l = some y → y.failed = true → exec (.blockDistribution (blockMsg q d l b)) s = .next (u.postOnce (.blockDistribution q))) ∧
    (∀ y, s.launch? l = some y → y.failed = false → ∃ t : State, exec (.blockDistribution (blockMsg q d l b)) s = .next t ∧
      t.blocksAt d q = s.blocksAt d q ++ [{ launch := y.index, block := b }] ∧ Instr.placementOpportunity d ∈ t.agenda ∧
      t.cores = s.cores ∧ t.hbm = s.hbm))

/-- R172, R188, R190, R193, R202, R356, R361: the arbiter takes the only queue that can be placed; an unplaceable head block is
given the reservation; a budget that expires counts one miss; a save stops its teams and, with them at rest, puts the block back
at the head of its list; an XACQ that waits too long, or in a deadlock, traps with cause 7; a watchdog reports a unit that has something to do.
Where the rules leave a choice it is the model's: the order of reservations and saves (logs 73, 74). -/
def Obligations.PlacementSteps : Prop :=
  (∀ (s : State) d q r rest l cs, (s.die d).arb = [] → (s.die d).reserved = none → (s.die d).reserveQ = [] → q < 256 →
    s.listedQueues d = [q] → s.blocksAt d q = r :: rest → s.launch? r.launch = some l → s.coresFor d r l = some cs →
    r.saved = [] → l.initIdx = 0 →
    ∃ u : State, exec (.placementOpportunity d) s = .next (let free := u.reclaimAll cs l.decl
        if free.2 = true then (free.1.placeBlock d q r l cs []).settleReclaims d else free.1) ∧
      u.cores = s.cores ∧ (u.die d).ptr = q ∧ (u.arb d q).deficit = s.quantum q ∧ u.hbm = s.hbm) ∧
  (∀ (s : State) d q r rest l, s.blocksAt d q = r :: rest → s.launch? r.launch = some l → s.coresFor d r l = none →
    (s.die d).reserved = none → (s.die d).reserveQ = [] → l.kind = 0 →
    ∃ t : State, exec (.reservationTimer d q) s = .next t ∧ t.cores = s.cores ∧
      (t.die d).reserved = some (q, r.launch, r.block,
        ((s.dieCores d).filter fun c => (s.core c).couldTake l.groups l.decl).take l.teams)) ∧
  (∀ (s : State) d q l at_, (s.arb d q).armed = [(l, at_, false)] →
    exec (.budgetExpiry d q) s = .next (((s.setArb d q { s.arb d q with armed := [(l, min at_ s.cc, true)] }).bumpField
      (State.lqOff q 2) 15 0).postOnce (.placementOpportunity d))) ∧
  (∀ (s : State) d j p, (s.die d).saving = some j →
    (s.die d).placed.find? (fun p => p.launch == j.launch && p.block == j.block) = some p →
    (∀ u v ls, j.stopped = false →
      s.xlateRanges d (((s.launch? j.launch).map (·.ctx)).getD 0) (.teamSave d j.block) j.ranges = (some (v, ls), u) →
      ls.length = j.ranges.length →
      ∃ t : State, exec (.teamSave d j.block) s = .next t ∧ (t.die d).saving = some { j with stopped := true, pages := ls } ∧
        Instr.teamSave d j.block ∈ t.agenda) ∧
    (let here := (j.ranges.zip j.pages).filter fun r => p.teams.contains (s.logical r.1.1, r.1.2.1)
     j.stopped = true → (∀ r ∈ j.ranges, (s.core r.1).eq = []) →
      (∀ r ∈ here, s.teamRests r.1.1 r.1.2.1 = true ∧ ∀ y ∈ r.2, s.targetWaits y.1 y.2 = false) →
      ∃ t : State, exec (.teamSave d j.block) s = .next t ∧ (t.die d).saving = none ∧ ∃ images : List TeamImage,
        images.length = here.length ∧
        t.blocksAt d j.queue = { launch := j.launch, block := j.block, saved := images } :: s.blocksAt d j.queue)) ∧
  (∀ (s : State) c gid r th l, let k := s.core c
    let g := s.group c gid
    let here := g.threads.zipIdx.filter fun p => p.1.live && p.1.wait == some Wait.xacq && k.xacqRange g.ctx p.1.pc == r
    let waiting := here.filter (fun p => !p.1.held) ++ here.filter (·.1.held)
    let lanes := maskOf ((waiting.filter fun p => p.1.pc == th.pc).map (·.2))
    waiting.head? = some (th, l) →
    let u := if ∃ p ∈ waiting, p.1.pc ≠ th.pc then s else s.modCore c fun k => { k with acquireQ := k.acquireQ.erase (gid, r) }
    let v := u.modGroup c gid fun g => g.onLanes lanes fun _ t => { t with wait := none }
    let t := v.takeTrap c gid { mkTrap 7 r (v.poolAddr c g.team) with pc := th.pc, lanes } lanes true fun _ => th.pc
    (gid < 1024 → exec (.xacqTimeout c (partNo 1024 gid r)) s = .next t) ∧
    (∀ rest, k.acquireQ = (gid, r) :: rest → (∀ p ∈ k.groups, p.1 = supGid ∨ k.blocked p.1 p.2 = true) →
      exec (.xacqDeadlockDetect c) s = .next t)) ∧
  (∀ (s : State) c i, (s.core c).wdog.getLsbD 31 = true → i < 8 →
    let cycles := 2 ^ max 16 (wf32 (s.core c).wdog 4 0)
    let ready := fun (uniform : Bool) => ∃ p ∈ (s.core c).groups, p.1 < 512 ∧ pipeOf p.1 = i ∧
      ∃ y ∈ (s.core c).ready p.1 p.2, y.uniform = uniform
    (ready false → exec (.watchdogTrip c 0 i) s = .next ((s.modCore c fun k => { k with wdog := k.wdog ||| w32 (2 ^ (5 + i)) }).postRecord c
      (supRecord (mkTrap 0x0e i cycles) false false 0 0x3ff 0 []))) ∧
    (¬ ready false → exec (.watchdogTrip c 0 i) s = .next s) ∧
    (ready true → exec (.watchdogTrip c 1 i) s = .next ((s.modCore c fun k => { k with wdog := k.wdog ||| w32 (2 ^ (13 + i)) }).postRecord c
      (supRecord (mkTrap 0x0e (16 + i) cycles) false false 0 0x3ff 0 [])))) ∧
  (∀ (s : State) c kind i, (s.core c).wdog.getLsbD 31 = false → exec (.watchdogTrip c kind i) s = .next s)

/-- R23 to R27, R39, R394, R396, R397, R401, R407: a dirty-log entry that lies in the covered range asks for one bitmap update,
which is repeated until the compare value matches; a write of the cover and a harvest; the pool size of every core; mailboxes,
HELLO and attestation; a host-link request that is not completed in time.
Where the rules leave a choice it is the model's: versions and answers (logs 54, 93), the order of merges (log 79). -/
def Obligations.HostSteps : Prop :=
  (∀ (s : State) c, let k := s.core c
    (k.dlogFill ≤ k.dlogTaken → exec (.dirtyLogMerge c) s = .next s) ∧
    (∀ (q : DWord), k.dlogFill = 1 → k.dlogTaken = 0 → q = k.store64 (0x5e8000 + 8 * ((k.dlogNext + 1023) % 1024)) →
      let ctx := qf q 52 45
      let first := (s.cover ctx).1
      let page := qf q 44 0
      qf q 63 63 = 1 → qf q 54 53 = 0 → s.field (State.ctxOff ctx 5) 63 63 = 1 → s.hostLink (s.dieOf c) ∉ s.noAtomics → first ≤ page →
      page < first + (s.cover ctx).2 → s.dieJobs (s.dieOf c) = [] →
      ∃ t : State, exec (.dirtyLogMerge c) s = .next t ∧ (t.core c).store = k.store ∧ (t.core c).dlogMerging = true ∧
        t.outbox = s.outbox ++ [.bitmapCas (s.dieOf c) (s.pasid ctx) (s.bitmapBase ctx + 8 * ((page - first) / 64)) 0
          (BitVec.ofNat 64 (2 ^ ((page - first) % 64)))])) ∧
  (∀ (s : State) d i j rest, s.dieJobs d = (i, j) :: rest →
    exec (.bitmapCasCompletion d .error) s = .next ((s.setOutside j.ctx).nextJob d) ∧
    ∀ bs, let v : DWord := BitVec.ofNat 64 (leNat (bs.take 8))
      exec (.bitmapCasCompletion d (.ok bs)) s = .next (if v = j.cmp then s.nextJob d
        else ({ s with bitmaps := s.bitmaps.put i { j with cmp := v } } : State).sendCas d)) ∧
  (∀ (s : State) d, (∀ c ∈ s.dieCores d, (s.core c).eq = []) → exec (.hostCompletionTimeout d) s = .next (s.failJob d)) ∧
  (∀ (s : State) i (v : DWord), i < 256 → ∃ t : State, exec (.bitmapEnableWrite i v) s = .next t ∧ t.cores = s.cores ∧
    t.field (State.ctxOff i 5) 63 63 = (if v.getLsbD 63 = true ∧ qf v 5 0 = 0 ∧ s.noAtomics = [] then 1 else 0) ∧
    t.field (State.ctxOff i 5) 62 62 = (if v.getLsbD 62 = true then s.field (State.ctxOff i 5) 62 62 else 0) ∧
    t.field (State.ctxOff i 5) 44 0 = qf v 44 0 ∧ t.field (State.ctxOff i 5) 61 56 = qf v 61 56) ∧
  (∀ (s : State) ctx b, (s.field 0x30 63 63 = 1 → exec (.harvest ctx b) s = .next s) ∧
    (s.field 0x30 63 63 = 0 → ∃ t : State, exec (.harvest ctx b) s = .next t ∧ t.harvest = some (ctx % 256, b) ∧
      Instr.harvestComplete ∈ t.agenda)) ∧
  (∀ (s : State) ctx b, s.harvest = some (ctx, b) →
    exec .harvestComplete s = .next (if s.bitmaps = [] then
      ({ (if b = true then s.rearm ctx else s) with harvest := none } : State).hostDone 0 else s.post .harvestComplete)) ∧
  (∀ (s : State) n, s.field 0x30 63 63 = 0 → (∀ c ∈ s.present, (s.core c).poolBusy = false ∧ (s.core c).teams = []) →
    ∃ t : State, exec (.setPoolSize n) s = .next t ∧ t.field 0x30 58 56 = 0 ∧ t.field 0x30 63 63 = 0 ∧
      ∀ c ∈ s.present, let k := t.core c
        (k.poolSlots = min (n % 128) 64 ∧ k.poolNext = none) ∨
        (k.poolSlots = (s.core c).poolSlots ∧ k.poolNext = some (min (n % 128) 64) ∧ k.reclaimWaits = true)) ∧
  (∀ (s : State) m, m < 256 → let u := s.setField (State.mailOff m 6) 31 31 1
    exec (.mailboxSend m) s = .next (u.sendMail m) ∧
    ∀ c, (m ≠ 0 ∨ s.mailHello ≠ none) → bits (u.field (State.mailOff m 6) 31 0) 30 30 = 0 →
      s.physical (bits (u.field (State.mailOff m 6) 31 0) 9 0) = some c → (s.core c).groups.look supGid ≠ none →
      exec (.mailboxSend m) s = .next (u.ctlTo u.hostCore c 0x80000000 (u.mailWords m 32) 5)) ∧
  (∀ (s : State) m l msg, m < 256 →
    (s.field (State.mailOff m 2) 31 31 = 1 → exec (.mailboxArrival m l msg) s = .next (s.post (.mailboxArrival m l msg))) ∧
    (s.field (State.mailOff m 2) 31 31 = 0 → ∃ t : State, exec (.mailboxArrival m l msg) s = .next t ∧
      t.mailWords m 0 = (List.range 4).map (fun i => msg.getD i 0) ∧ t.field (State.mailOff m 2) 31 31 = 1 ∧
      t.field (State.mailOff m 2) 9 0 = l % 1024 ∧
      t.outbox = s.outbox ++ [.msix (if m < 64 then m else 0) (if m < 255 then m + 1 else 0)])) ∧
  (∀ (s : State) major minor, (major = 0 → exec (.hello major minor) s = .next s) ∧
    (major ≠ 0 → ∃ t : State, exec (.hello major minor) s = .next t ∧ t.mailHello = some (1, 0))) ∧
  (∀ (s : State) nonce, (s.mailHello = none → exec (.attestation nonce) s = .next s) ∧
    (s.mailHello ≠ none → s.attest < 2 ^ 20 → ∃ (t : State) (digest : List Word) (signature : List Byte),
      exec (.attestation nonce) s = .next t ∧ t.attest = s.attest + 1 ∧ digest.length = 8 ∧ signature.length = 2820 ∧
      t.outbox = s.outbox ++ [.attest nonce digest s.attest (s.field 0 31 16) s.fused signature]))

/-- R110, R382, R383, R399, R405, R406: a hedge moves one step at a sample that asks for it, and takes the step of a host write;
the power alarm holds from a reading beyond its limits until one within the margins; a thermal trip is a fatal error; a fatal error stops every core; the links of the capacity buffers.
Where the rules leave a choice it is the model's: capped, telemetry and the crash image (logs 81, 82, 84). -/
def Obligations.PowerSteps : Prop :=
  (∀ (s : State) d occ, let off := State.hedgeOff d
    let step := s.field off 30 28
    let held := (s.die d).hedgeHeld + 1
    let on := s.field off 31 31 = 1 ∧ s.field off 7 0 < s.field off 15 8 ∧ max 1 (s.field off 19 16) ≤ held
    (255 < occ → exec (.hedgeGovernorSample d occ) s = .next s) ∧
    (on → s.field off 15 8 < occ → occ ≤ 255 → step < s.hedgeCap d → ∃ t : State, exec (.hedgeGovernorSample d occ) s = .next t ∧
      t.field off 30 28 = step + 1 ∧ t.field off 27 27 = 1 ∧ (t.die d).hedgeHeld = 0) ∧
    (on → occ < s.field off 7 0 → s.field off 26 24 < step → ∃ t : State, exec (.hedgeGovernorSample d occ) s = .next t ∧
      t.field off 30 28 = step - 1 ∧ t.field off 27 27 = 1) ∧
    (¬ on → occ ≤ 255 → exec (.hedgeGovernorSample d occ) s = .next (s.modDie d fun x => { x with hedgeHeld := x.hedgeHeld + 1 }))) ∧
  (∀ (s : State) d (v : Word), exec (.hedgeChangeComplete d) s = .next (s.setField (State.hedgeOff d) 27 27 0) ∧
    ∃ t : State, exec (.hedgeCtlWrite d v) s = .next t ∧ t.field (State.hedgeOff d) 31 31 = wf32 v 31 31 ∧
      t.field (State.hedgeOff d) 30 28 = (if v.getLsbD 31 = true then s.field (State.hedgeOff d) 30 28 else wf32 v 30 28) ∧
      t.field (State.hedgeOff d) 22 0 = wf32 v 22 0 ∧ t.field (State.hedgeOff d) 26 24 = wf32 v 26 24) ∧
  (∀ (s : State) reading,
    let ctl := s.ctlQ 0x10
    let pin := bits reading 2 2 = 1 ∧ qf ctl 0 0 = 1
    let power := qf ctl 63 48 < bits reading 63 48
    let hot := qf ctl 47 40 ≤ bits reading 47 40
    ∃ t : State, exec (.powerAlarmRaise reading) s = .next t ∧ t.pin = decide (bits reading 2 2 = 1) ∧
      t.field 0x18 63 32 = bits reading 63 32 ∧
      t.field 0x18 2 0 = (if pin then 4 else 0) + (if power then 2 else 0) + (if hot then 1 else 0) ∧
      t.field 8 29 29 = if pin ∨ power ∨ hot then 1 else s.field 8 29 29) ∧
  (∀ (s : State), let limit := s.field 0x10 63 48
    exec .powerAlarmClear s = .next (
      if s.field 0x18 63 48 ≤ limit - limit / 16 ∧ s.field 0x18 47 40 + 5 ≤ s.field 0x10 47 40 ∧ s.pin = false then
        ((s.setField 0x18 2 0 0).setField 8 29 29 0).syncAllCapped else s)) ∧
  (∀ (s : State) d, ∃ core < 1024, exec (.thermalTrip d) s =
    .next (({ s with free := s.free + 1 } : State).post (.fatalError 0x0101 d core))) ∧
  (∀ (s : State) cause die core,
    (s.fatal = none → ∃ t : State, exec (.fatalError cause die core) s = .next t ∧ t.fatal = some (cause, die, core) ∧
      (∀ c ∈ s.present, (t.core c).stopped = true) ∧ Instr.fatalError cause die core ∈ t.agenda) ∧
    (s.fatal = some (cause, die, core) → s.field 8 31 31 = 0 → ∃ t : State, exec (.fatalError cause die core) s = .next t ∧
      t.field 8 31 31 = 1 ∧ t.field 8 15 0 = cause % 2 ^ 16) ∧
    (s.fatal = some (cause, die, core) → (s.field 8 31 31 = 1 → exec .crashWriteTimeout s = .next s) ∧
      (s.field 8 31 31 = 0 → ∃ magic < 2 ^ 16, magic ≠ 0x5c7a ∧
        let u := ({ s with free := s.free + 1 } : State).homeWrite .hbm s.crashBase (leBytes 2 magic)
        exec .crashWriteTimeout s = .next (((u.setField 8 31 31 1).setField 8 15 0 cause).emit (.msix 0 0))))) ∧
  (∀ (s : State) b major minor, b < s.buffers → let off := State.capLinkOff b
    (s.offline b = false → exec (.capacityLinkTraining b major minor) s = .next (if major = 0 then
      (s.setField off 31 31 0).setField off 30 30 1 else ((s.setField off 31 31 1).setField off 23 16 1).setField off 15 8 0).wakeLink) ∧
    exec (.capacityReplayFail b) s = .next ((s.setField off 31 31 0).bumpField off 7 0) ∧
    exec (.capacityRetrainTimeout b) s = .next (if s.field off 31 31 = 1 then s else (s.setField off 30 30 1).wakeLink) ∧
    (s.offline b = true → exec (.capacityLinkReenable b) s = .next ((s.setField off 31 30 0).bumpField off 7 0))) ∧
  (∀ (s : State) c gid, ∀ th ∈ (s.wakeLink.group c gid).threads, th.wait ≠ some Wait.xlate)

/-- R59, R400, R402, R404, R405, R413 to R417: a reset runs bring-up to the start of the root's firmware, or stops at step 3 with
its error; DISC, REPORT and IMG; MAP_DONE publishes the map, which the host reads as the table in HBM holds it; BOOTED starts every supervisor and completes bring-up; the timers of
bring-up; a write of `hbm_split`.
Where the rules leave a choice it is the model's: verdicts, images and what survives (logs 86, 87, 89). -/
def Obligations.BootSteps : Prop :=
  (∀ (s : State) v root, s.physical 0 = some root →
    (∃ t : State, exec (.fundamentalReset 0) s = .next t ∧ exec (.secondaryBusReset 0) s = .next t ∧ t.bootStep = 4 ∧
      t.boot.running = true ∧ t.hbm = s.afterReset.hbm ∧ ∃ g, t.group? root supGid = some g ∧ g.ctx = 255 ∧
        g.threads.map (·.pc) = [0x00010000] ∧ g.threads.map (·.live) = [true]) ∧
    (1 ≤ v → v < 4 → ∃ t : State, exec (.fundamentalReset v) s = .next t ∧ exec (.secondaryBusReset v) s = .next t ∧
      t.bootStep = 3 ∧ t.field 8 23 16 = v ∧ t.boot.running = false)) ∧
  (∀ (s : State), (s.fatal ≠ none → exec .bootFromStaging s = .next s) ∧ (s.field 0x30 63 63 = 0 → s.fatal = none →
    let u := ({ s with free := s.free + 1 } : State).afterReset
    ∃ v < 4, exec .bootFromStaging s =
      .next ((u.setCtl 0x30 ((s.ctlQ 0x30 &&& 0x080000000000ffff) ||| 0xb000000000000000)).bringUp true v))) ∧
  (∀ (s : State) c p i msg,
    ((s.core c).coord ≠ none → exec (.disc c p i) s = .next s) ∧
    ((s.core c).coord = none → ∃ t : State, exec (.disc c p i) s = .next t ∧ (t.core c).coord = some i ∧ (t.core c).parent = some p) ∧
    (∀ q, (s.core c).parent = some q → exec (.report c msg) s = .next (s.sendNear c q msg))) ∧
  (∀ (s : State) c p msg, (s.core c).store = [] → (s.core p).storePoison = [] → s.memWf = true →
    let off := (msg.getD 1 0).toNat
    ∃ t : State, exec (.img c p msg) s = .next t ∧ ∀ a, Mem.get (n := 8) (t.core c).store a =
      if off ≤ a ∧ a < off + (msg.getD 2 0).toNat then Mem.get (n := 8) (s.core p).store a else 0) ∧
  (∀ (s : State) n root u tab, s.boot.running = true → s.bootStep = 4 → s.physical 0 = some root → (s.core root).sbuf = [] →
    s.mapTable = (u, tab) → exec (.mapDone n) s = .next (if tab = (List.range u.product.cores).map u.mapEntry then
      ((u.modCore root fun k => k.wake fun w => w == .drain).setStepNo 5).toRoot 4 n else u.failBoot 4)) ∧
  (∀ (s : State) j u bs bad, 4 * j < s.product.cores → let off := 0x20000 + 8 * j
    s.homeRead .hbm (s.mapBase + 8 * j) 8 = (u, bs, bad) → exec (.hostRegisterRead 0 off) s =
      .next (if s.bootStep < 5 then s.emit (.read 0 off 0) else u.emit (.read 0 off (BitVec.ofNat 64 (leNat bs))))) ∧
  (∀ (s : State), (s.boot.running = true →
      exec .bootTimerExpiry s = .next (s.failBoot (if s.bootStep = 4 then 4 else 5)) ∧
      exec .imageDeliveryTimeout s = .next (if s.bootStep = 5 then s.failBoot 5 else s)) ∧
    (s.boot.running = false → exec .bootTimerExpiry s = .next s ∧ exec .imageDeliveryTimeout s = .next s)) ∧
  (∀ (s : State), s.boot.running = true → s.bootStep = 5 → ∃ t : State, exec .booted s = .next t ∧ t.bootStep = 7 ∧
    t.boot.running = false ∧ t.field 8 30 30 = 1 ∧ t.field 0 15 0 = s.present.length % 2 ^ 16 ∧
    ∀ c ∈ s.present, ∃ g, t.group? c supGid = some g ∧ g.ctx = 255 ∧ g.threads.map (·.pc) = [0]) ∧
  (∀ (s : State) (v : Word),
    let n := v.toNat % 2 ^ 14
    exec (.hbmSplitWrite v) s = .next (if 8192 < n ∨ s.field 0x20 31 31 = 1 ∨ s.anyLive = true then s.setField 0x20 30 30 1
      else ({ s with splitNext := n }.setField 0x20 31 30 2).post .hbmSplitRelocateDone)) ∧
  (∀ (s : State), (s.field 0x20 31 31 = 0 → exec .hbmSplitRelocateDone s = .next s) ∧
    (s.field 0x20 31 31 = 1 → ∃ t : State, exec .hbmSplitRelocateDone s = .next t ∧ t.field 0x20 31 31 = 0 ∧
      t.field 0x20 13 0 = s.splitNext % 2 ^ 14))

/-- R160 to R163, R206, R213, R214: the issue of a bundle whose word at its PC decodes to an instruction performs that
instruction, after the issue has been counted, with the register files and memories as they were; the second bundle of a dual
issue follows in the next step; a bundle that waited goes on before new issues; a waiting event is performed in its turn, and an access of
the host that can be served before all but a second bundle.
Where the rules leave a choice it is the model's: the order of events and issues (log 2), the second slot in the very next step
(log 101). -/
def Obligations.StepRunsDecoded : Prop :=
  (∀ (s : State) x u w lit i, s.second = none → s.nextHost = none → s.nextResume = none → (s.turn = true ∨ s.nextEvent = none) →
    s.nextIssue = some x →
    let g := s.group x.core x.gid
    choose x.uniform (if x.uniform then g.uniIssues else g.laneIssues) ((s.core x.core).ready x.gid g) ≠ [] →
    let v := { (s.issue x).tick with turn := false }
    v.cur = some u → (s.core u.core).fetch (s.group u.core u.gid).ctx u.pc = .word w lit → decode w lit = .ok i →
    step s = exec i v ∧ u.core = x.core ∧ u.gid = x.gid ∧ v.cc = s.cc + 1 ∧ v.hbm = s.hbm ∧ v.cap = s.cap ∧ v.ctl = s.ctl ∧
      v.agenda = s.agenda ∧ ∀ c, (v.core c).rf = (s.core c).rf ∧ (v.core c).store = (s.core c).store ∧
        (v.core c).banks = (s.core c).banks ∧ (v.core c).istore = (s.core c).istore) ∧
  (∀ (s : State) u i, s.second = some u → s.fetchFaults u = false → decode u.word u.lit = .ok i →
    step s = exec i { s with cur := some u, second := none }) ∧
  (∀ (s : State) u i, s.second = none → s.nextHost = none → s.nextResume = some u → (s.resume u).fetchFaults u = false →
    decode u.word u.lit = .ok i → step s = exec i (s.resume u)) ∧
  (∀ (s : State) e rest, s.second = none → s.nextHost = none → s.nextResume = none → s.nextEvent = some (e, rest) →
    (s.turn = false → step s = exec e { s with agenda := rest, cur := none, turn := true }) ∧
    (s.turn = true → s.nextIssue = none → step s = exec e { s.idle with agenda := rest, cur := none, turn := true })) ∧
  (∀ (s : State) e rest, s.agenda = e :: rest → s.hostQ = [] ∨ State.hostWrite e = false → s.nextEvent = some (e, rest)) ∧
  (∀ (s : State) h rest, s.second = none → s.hostQ = h :: rest → s.hostReady h = true →
    step s = .next (({ s with hostQ := rest } : State).serveHost h)) ∧
  (∀ (s : State) h rest t, s.second = none → s.hostQ = h :: rest → s.hostReady h = false → s.nextResume = none →
    s.turn = false → s.nextEvent = none → s.nextIssue = none → step s = .next t → t.hostQ = s.hostQ ∧ t.cc = s.cc + 1)

/-- R205 to R213: words of the spec's own encodings decode to the instructions that they stand for, and the all-zero word to
none. -/
def Obligations.EncodingWords : Prop :=
  (decode 0x81018620 0).toOption = some (.addUniform 6 6 (.s 8)) ∧
  (decode 0xa17042fd 0).toOption = some (.addi 1 2 (-3)) ∧
  (decode 0xb1b0d600 0x30).toOption = some (.brc .ge 3 22 0x30) ∧
  (decode 0x3800c2a1 0).toOption = some (.fcvt 0 3 2 .s32 .f32 (.field 1)) ∧
  (decode 0x5600d00d 0).toOption = some (.ldb 0 3 1 3 true) ∧
  (decode 0xe0300827 0).toOption = some (.cpy { scope := .pkg, a := 8, b := .s 9, acq := true, rel := true }) ∧
  (decode 0xfa400005 0).toOption = some (.trap 0x405) ∧
  (decode 0xfc00c012 0).toOption = some (.rdsr 3 0x12) ∧
  (decode 0x80000000 0).toOption = some .nop ∧
  (decode 0 0).toOption = none

/-- R205 to R213: decoding and encoding agree. The words of every well-formed instruction that is no event, with every operand
at every value that its encoding admits, decode to that instruction, and its L bit says whether a literal word is among them; and
whatever decodes is well-formed and is no event. -/
def Obligations.DecodeEncode : Prop :=
  (∀ i, WellFormed i = true → i.isEvent = false →
    (∃ w, encode i = [w] ∧ hasLiteral w = false ∧ ∀ lit, decode w lit = .ok i) ∨
    (∃ w lit, encode i = [w, lit] ∧ hasLiteral w = true ∧ decode w lit = .ok i)) ∧
  (∀ w lit i, decode w lit = .ok i → WellFormed i = true ∧ i.isEvent = false)

/-- R59, R189, R361, R394, R400: what the spec says of the machine right after reset: the split is 8,192, no register of the
control space has been written, no core holds a team or group, the arbiter's pointers are 0, watchdogs are on with limit 20, bring-up
has not begun and no fatal error stands; and every memory has its canonical form.
Where the rules leave a choice it is the model's: the product (log 3), the canonical form (log 103). -/
def Obligations.ResetValues : Prop :=
  State.reset.field 0x20 13 0 = 8192 ∧ State.reset.field 8 31 30 = 0 ∧ State.reset.bootStep = 0 ∧ State.reset.fatal = none ∧
  (∀ c, (State.reset.core c).groups = [] ∧ (State.reset.core c).teams = [] ∧ (State.reset.core c).wdog = 0x80000014 ∧
    (State.reset.core c).sbuf = [] ∧ (State.reset.core c).eq = []) ∧
  (∀ d, (State.reset.die d).ptr = 0 ∧ (State.reset.die d).arb = [] ∧ (State.reset.die d).faults = []) ∧
  (∀ q < 256, State.reset.field (State.lqOff q 0) 63 63 = 0 ∧ State.reset.field (State.lqOff q 1) 63 48 = 0x100) ∧
  State.reset.memWf = true ∧ State.reset.agenda = []

/-- The memories of the device keep their canonical form under every step (the register files, core stores, lane banks,
instruction stores, accumulators, HBM and the capacity tier), from every state that has it.
Where the rules leave a choice it is the model's: the canonical form (log 103). -/
def Obligations.StepKeepsMemWf : Prop :=
  ∀ s t : State, s.memWf = true → step s = .next t → t.memWf = true

/-- No instruction and no event is refused, and the only fault is that of a word performed with no group to perform it, which
no issue forms: with a current thread every instruction has a next state.
Where the rules leave a choice it is the model's: the fault of a word without a group (log 102). -/
def Obligations.EveryInstructionCompletes : Prop :=
  (∀ i (s : State) r, exec i s ≠ .refused r) ∧
  (∀ i (s : State) f, exec i s = .fault f → s.ctx? = none) ∧
  (∀ i (s : State) x, s.ctx? = some x → ∃ t : State, exec i s = .next t)
end

