-- ==== Sys2Proof/Laws/State.lean ====
section
/-! SUPPORT. What the updates of the state leave alone: one lemma for each field and update. -/

namespace Sys2Proof.Machine.State

/-! ### setCore -/

@[simp] theorem setCore_product (s : State) (c : Nat) (k : Core) : (s.setCore c k).product = s.product := rfl
@[simp] theorem setCore_fused (s : State) (c : Nat) (k : Core) : (s.setCore c k).fused = s.fused := rfl
@[simp] theorem setCore_hbm (s : State) (c : Nat) (k : Core) : (s.setCore c k).hbm = s.hbm := rfl
@[simp] theorem setCore_hbmPoison (s : State) (c : Nat) (k : Core) : (s.setCore c k).hbmPoison = s.hbmPoison := rfl
@[simp] theorem setCore_cap (s : State) (c : Nat) (k : Core) : (s.setCore c k).cap = s.cap := rfl
@[simp] theorem setCore_capPoison (s : State) (c : Nat) (k : Core) : (s.setCore c k).capPoison = s.capPoison := rfl
@[simp] theorem setCore_ctl (s : State) (c : Nat) (k : Core) : (s.setCore c k).ctl = s.ctl := rfl
@[simp] theorem setCore_bars (s : State) (c : Nat) (k : Core) : (s.setCore c k).bars = s.bars := rfl
@[simp] theorem setCore_pri (s : State) (c : Nat) (k : Core) : (s.setCore c k).pri = s.pri := rfl
@[simp] theorem setCore_priWrite (s : State) (c : Nat) (k : Core) : (s.setCore c k).priWrite = s.priWrite := rfl
@[simp] theorem setCore_hostQ (s : State) (c : Nat) (k : Core) : (s.setCore c k).hostQ = s.hostQ := rfl
@[simp] theorem setCore_noAtomics (s : State) (c : Nat) (k : Core) : (s.setCore c k).noAtomics = s.noAtomics := rfl
@[simp] theorem setCore_dies (s : State) (c : Nat) (k : Core) : (s.setCore c k).dies = s.dies := rfl
@[simp] theorem setCore_routers (s : State) (c : Nat) (k : Core) : (s.setCore c k).routers = s.routers := rfl
@[simp] theorem setCore_links (s : State) (c : Nat) (k : Core) : (s.setCore c k).links = s.links := rfl
@[simp] theorem setCore_launches (s : State) (c : Nat) (k : Core) : (s.setCore c k).launches = s.launches := rfl
@[simp] theorem setCore_nextLaunch (s : State) (c : Nat) (k : Core) : (s.setCore c k).nextLaunch = s.nextLaunch := rfl
@[simp] theorem setCore_hintDrops (s : State) (c : Nat) (k : Core) : (s.setCore c k).hintDrops = s.hintDrops := rfl
@[simp] theorem setCore_paths (s : State) (c : Nat) (k : Core) : (s.setCore c k).paths = s.paths := rfl
@[simp] theorem setCore_blockWaits (s : State) (c : Nat) (k : Core) : (s.setCore c k).blockWaits = s.blockWaits := rfl
@[simp] theorem setCore_rstores (s : State) (c : Nat) (k : Core) : (s.setCore c k).rstores = s.rstores := rfl
@[simp] theorem setCore_nextRstore (s : State) (c : Nat) (k : Core) : (s.setCore c k).nextRstore = s.nextRstore := rfl
@[simp] theorem setCore_sequenced (s : State) (c : Nat) (k : Core) : (s.setCore c k).sequenced = s.sequenced := rfl
@[simp] theorem setCore_rxPaths (s : State) (c : Nat) (k : Core) : (s.setCore c k).rxPaths = s.rxPaths := rfl
@[simp] theorem setCore_fences (s : State) (c : Nat) (k : Core) : (s.setCore c k).fences = s.fences := rfl
@[simp] theorem setCore_nextFence (s : State) (c : Nat) (k : Core) : (s.setCore c k).nextFence = s.nextFence := rfl
@[simp] theorem setCore_colls (s : State) (c : Nat) (k : Core) : (s.setCore c k).colls = s.colls := rfl
@[simp] theorem setCore_encoders (s : State) (c : Nat) (k : Core) : (s.setCore c k).encoders = s.encoders := rfl
@[simp] theorem setCore_bitmaps (s : State) (c : Nat) (k : Core) : (s.setCore c k).bitmaps = s.bitmaps := rfl
@[simp] theorem setCore_nextBitmap (s : State) (c : Nat) (k : Core) : (s.setCore c k).nextBitmap = s.nextBitmap := rfl
@[simp] theorem setCore_invals (s : State) (c : Nat) (k : Core) : (s.setCore c k).invals = s.invals := rfl
@[simp] theorem setCore_harvest (s : State) (c : Nat) (k : Core) : (s.setCore c k).harvest = s.harvest := rfl
@[simp] theorem setCore_retiring (s : State) (c : Nat) (k : Core) : (s.setCore c k).retiring = s.retiring := rfl
@[simp] theorem setCore_retired (s : State) (c : Nat) (k : Core) : (s.setCore c k).retired = s.retired := rfl
@[simp] theorem setCore_splitNext (s : State) (c : Nat) (k : Core) : (s.setCore c k).splitNext = s.splitNext := rfl
@[simp] theorem setCore_mailHello (s : State) (c : Nat) (k : Core) : (s.setCore c k).mailHello = s.mailHello := rfl
@[simp] theorem setCore_pin (s : State) (c : Nat) (k : Core) : (s.setCore c k).pin = s.pin := rfl
@[simp] theorem setCore_attest (s : State) (c : Nat) (k : Core) : (s.setCore c k).attest = s.attest := rfl
@[simp] theorem setCore_flash (s : State) (c : Nat) (k : Core) : (s.setCore c k).flash = s.flash := rfl
@[simp] theorem setCore_boot (s : State) (c : Nat) (k : Core) : (s.setCore c k).boot = s.boot := rfl
@[simp] theorem setCore_fatal (s : State) (c : Nat) (k : Core) : (s.setCore c k).fatal = s.fatal := rfl
@[simp] theorem setCore_agenda (s : State) (c : Nat) (k : Core) : (s.setCore c k).agenda = s.agenda := rfl
@[simp] theorem setCore_outbox (s : State) (c : Nat) (k : Core) : (s.setCore c k).outbox = s.outbox := rfl
@[simp] theorem setCore_cc (s : State) (c : Nat) (k : Core) : (s.setCore c k).cc = s.cc := rfl
@[simp] theorem setCore_cur (s : State) (c : Nat) (k : Core) : (s.setCore c k).cur = s.cur := rfl
@[simp] theorem setCore_second (s : State) (c : Nat) (k : Core) : (s.setCore c k).second = s.second := rfl
@[simp] theorem setCore_turn (s : State) (c : Nat) (k : Core) : (s.setCore c k).turn = s.turn := rfl
@[simp] theorem setCore_free (s : State) (c : Nat) (k : Core) : (s.setCore c k).free = s.free := rfl

/-! ### modCore -/

@[simp] theorem modCore_product (s : State) (c : Nat) (f : Core → Core) : (s.modCore c f).product = s.product := rfl
@[simp] theorem modCore_fused (s : State) (c : Nat) (f : Core → Core) : (s.modCore c f).fused = s.fused := rfl
@[simp] theorem modCore_hbm (s : State) (c : Nat) (f : Core → Core) : (s.modCore c f).hbm = s.hbm := rfl
@[simp] theorem modCore_hbmPoison (s : State) (c : Nat) (f : Core → Core) : (s.modCore c f).hbmPoison = s.hbmPoison := rfl
@[simp] theorem modCore_cap (s : State) (c : Nat) (f : Core → Core) : (s.modCore c f).cap = s.cap := rfl
@[simp] theorem modCore_capPoison (s : State) (c : Nat) (f : Core → Core) : (s.modCore c f).capPoison = s.capPoison := rfl
@[simp] theorem modCore_ctl (s : State) (c : Nat) (f : Core → Core) : (s.modCore c f).ctl = s.ctl := rfl
@[simp] theorem modCore_bars (s : State) (c : Nat) (f : Core → Core) : (s.modCore c f).bars = s.bars := rfl
@[simp] theorem modCore_pri (s : State) (c : Nat) (f : Core → Core) : (s.modCore c f).pri = s.pri := rfl
@[simp] theorem modCore_priWrite (s : State) (c : Nat) (f : Core → Core) : (s.modCore c f).priWrite = s.priWrite := rfl
@[simp] theorem modCore_hostQ (s : State) (c : Nat) (f : Core → Core) : (s.modCore c f).hostQ = s.hostQ := rfl
@[simp] theorem modCore_noAtomics (s : State) (c : Nat) (f : Core → Core) : (s.modCore c f).noAtomics = s.noAtomics := rfl
@[simp] theorem modCore_dies (s : State) (c : Nat) (f : Core → Core) : (s.modCore c f).dies = s.dies := rfl
@[simp] theorem modCore_routers (s : State) (c : Nat) (f : Core → Core) : (s.modCore c f).routers = s.routers := rfl
@[simp] theorem modCore_links (s : State) (c : Nat) (f : Core → Core) : (s.modCore c f).links = s.links := rfl
@[simp] theorem modCore_launches (s : State) (c : Nat) (f : Core → Core) : (s.modCore c f).launches = s.launches := rfl
@[simp] theorem modCore_nextLaunch (s : State) (c : Nat) (f : Core → Core) : (s.modCore c f).nextLaunch = s.nextLaunch := rfl
@[simp] theorem modCore_hintDrops (s : State) (c : Nat) (f : Core → Core) : (s.modCore c f).hintDrops = s.hintDrops := rfl
@[simp] theorem modCore_paths (s : State) (c : Nat) (f : Core → Core) : (s.modCore c f).paths = s.paths := rfl
@[simp] theorem modCore_blockWaits (s : State) (c : Nat) (f : Core → Core) : (s.modCore c f).blockWaits = s.blockWaits := rfl
@[simp] theorem modCore_rstores (s : State) (c : Nat) (f : Core → Core) : (s.modCore c f).rstores = s.rstores := rfl
@[simp] theorem modCore_nextRstore (s : State) (c : Nat) (f : Core → Core) : (s.modCore c f).nextRstore = s.nextRstore := rfl
@[simp] theorem modCore_sequenced (s : State) (c : Nat) (f : Core → Core) : (s.modCore c f).sequenced = s.sequenced := rfl
@[simp] theorem modCore_rxPaths (s : State) (c : Nat) (f : Core → Core) : (s.modCore c f).rxPaths = s.rxPaths := rfl
@[simp] theorem modCore_fences (s : State) (c : Nat) (f : Core → Core) : (s.modCore c f).fences = s.fences := rfl
@[simp] theorem modCore_nextFence (s : State) (c : Nat) (f : Core → Core) : (s.modCore c f).nextFence = s.nextFence := rfl
@[simp] theorem modCore_colls (s : State) (c : Nat) (f : Core → Core) : (s.modCore c f).colls = s.colls := rfl
@[simp] theorem modCore_encoders (s : State) (c : Nat) (f : Core → Core) : (s.modCore c f).encoders = s.encoders := rfl
@[simp] theorem modCore_bitmaps (s : State) (c : Nat) (f : Core → Core) : (s.modCore c f).bitmaps = s.bitmaps := rfl
@[simp] theorem modCore_nextBitmap (s : State) (c : Nat) (f : Core → Core) : (s.modCore c f).nextBitmap = s.nextBitmap := rfl
@[simp] theorem modCore_invals (s : State) (c : Nat) (f : Core → Core) : (s.modCore c f).invals = s.invals := rfl
@[simp] theorem modCore_harvest (s : State) (c : Nat) (f : Core → Core) : (s.modCore c f).harvest = s.harvest := rfl
@[simp] theorem modCore_retiring (s : State) (c : Nat) (f : Core → Core) : (s.modCore c f).retiring = s.retiring := rfl
@[simp] theorem modCore_retired (s : State) (c : Nat) (f : Core → Core) : (s.modCore c f).retired = s.retired := rfl
@[simp] theorem modCore_splitNext (s : State) (c : Nat) (f : Core → Core) : (s.modCore c f).splitNext = s.splitNext := rfl
@[simp] theorem modCore_mailHello (s : State) (c : Nat) (f : Core → Core) : (s.modCore c f).mailHello = s.mailHello := rfl
@[simp] theorem modCore_pin (s : State) (c : Nat) (f : Core → Core) : (s.modCore c f).pin = s.pin := rfl
@[simp] theorem modCore_attest (s : State) (c : Nat) (f : Core → Core) : (s.modCore c f).attest = s.attest := rfl
@[simp] theorem modCore_flash (s : State) (c : Nat) (f : Core → Core) : (s.modCore c f).flash = s.flash := rfl
@[simp] theorem modCore_boot (s : State) (c : Nat) (f : Core → Core) : (s.modCore c f).boot = s.boot := rfl
@[simp] theorem modCore_fatal (s : State) (c : Nat) (f : Core → Core) : (s.modCore c f).fatal = s.fatal := rfl
@[simp] theorem modCore_agenda (s : State) (c : Nat) (f : Core → Core) : (s.modCore c f).agenda = s.agenda := rfl
@[simp] theorem modCore_outbox (s : State) (c : Nat) (f : Core → Core) : (s.modCore c f).outbox = s.outbox := rfl
@[simp] theorem modCore_cc (s : State) (c : Nat) (f : Core → Core) : (s.modCore c f).cc = s.cc := rfl
@[simp] theorem modCore_cur (s : State) (c : Nat) (f : Core → Core) : (s.modCore c f).cur = s.cur := rfl
@[simp] theorem modCore_second (s : State) (c : Nat) (f : Core → Core) : (s.modCore c f).second = s.second := rfl
@[simp] theorem modCore_turn (s : State) (c : Nat) (f : Core → Core) : (s.modCore c f).turn = s.turn := rfl
@[simp] theorem modCore_free (s : State) (c : Nat) (f : Core → Core) : (s.modCore c f).free = s.free := rfl

/-! ### setDie -/

@[simp] theorem setDie_product (s : State) (d : Nat) (x : Die) : (s.setDie d x).product = s.product := rfl
@[simp] theorem setDie_fused (s : State) (d : Nat) (x : Die) : (s.setDie d x).fused = s.fused := rfl
@[simp] theorem setDie_hbm (s : State) (d : Nat) (x : Die) : (s.setDie d x).hbm = s.hbm := rfl
@[simp] theorem setDie_hbmPoison (s : State) (d : Nat) (x : Die) : (s.setDie d x).hbmPoison = s.hbmPoison := rfl
@[simp] theorem setDie_cap (s : State) (d : Nat) (x : Die) : (s.setDie d x).cap = s.cap := rfl
@[simp] theorem setDie_capPoison (s : State) (d : Nat) (x : Die) : (s.setDie d x).capPoison = s.capPoison := rfl
@[simp] theorem setDie_ctl (s : State) (d : Nat) (x : Die) : (s.setDie d x).ctl = s.ctl := rfl
@[simp] theorem setDie_bars (s : State) (d : Nat) (x : Die) : (s.setDie d x).bars = s.bars := rfl
@[simp] theorem setDie_pri (s : State) (d : Nat) (x : Die) : (s.setDie d x).pri = s.pri := rfl
@[simp] theorem setDie_priWrite (s : State) (d : Nat) (x : Die) : (s.setDie d x).priWrite = s.priWrite := rfl
@[simp] theorem setDie_hostQ (s : State) (d : Nat) (x : Die) : (s.setDie d x).hostQ = s.hostQ := rfl
@[simp] theorem setDie_noAtomics (s : State) (d : Nat) (x : Die) : (s.setDie d x).noAtomics = s.noAtomics := rfl
@[simp] theorem setDie_cores (s : State) (d : Nat) (x : Die) : (s.setDie d x).cores = s.cores := rfl
@[simp] theorem setDie_routers (s : State) (d : Nat) (x : Die) : (s.setDie d x).routers = s.routers := rfl
@[simp] theorem setDie_links (s : State) (d : Nat) (x : Die) : (s.setDie d x).links = s.links := rfl
@[simp] theorem setDie_launches (s : State) (d : Nat) (x : Die) : (s.setDie d x).launches = s.launches := rfl
@[simp] theorem setDie_nextLaunch (s : State) (d : Nat) (x : Die) : (s.setDie d x).nextLaunch = s.nextLaunch := rfl
@[simp] theorem setDie_hintDrops (s : State) (d : Nat) (x : Die) : (s.setDie d x).hintDrops = s.hintDrops := rfl
@[simp] theorem setDie_paths (s : State) (d : Nat) (x : Die) : (s.setDie d x).paths = s.paths := rfl
@[simp] theorem setDie_blockWaits (s : State) (d : Nat) (x : Die) : (s.setDie d x).blockWaits = s.blockWaits := rfl
@[simp] theorem setDie_rstores (s : State) (d : Nat) (x : Die) : (s.setDie d x).rstores = s.rstores := rfl
@[simp] theorem setDie_nextRstore (s : State) (d : Nat) (x : Die) : (s.setDie d x).nextRstore = s.nextRstore := rfl
@[simp] theorem setDie_sequenced (s : State) (d : Nat) (x : Die) : (s.setDie d x).sequenced = s.sequenced := rfl
@[simp] theorem setDie_rxPaths (s : State) (d : Nat) (x : Die) : (s.setDie d x).rxPaths = s.rxPaths := rfl
@[simp] theorem setDie_fences (s : State) (d : Nat) (x : Die) : (s.setDie d x).fences = s.fences := rfl
@[simp] theorem setDie_nextFence (s : State) (d : Nat) (x : Die) : (s.setDie d x).nextFence = s.nextFence := rfl
@[simp] theorem setDie_colls (s : State) (d : Nat) (x : Die) : (s.setDie d x).colls = s.colls := rfl
@[simp] theorem setDie_encoders (s : State) (d : Nat) (x : Die) : (s.setDie d x).encoders = s.encoders := rfl
@[simp] theorem setDie_bitmaps (s : State) (d : Nat) (x : Die) : (s.setDie d x).bitmaps = s.bitmaps := rfl
@[simp] theorem setDie_nextBitmap (s : State) (d : Nat) (x : Die) : (s.setDie d x).nextBitmap = s.nextBitmap := rfl
@[simp] theorem setDie_invals (s : State) (d : Nat) (x : Die) : (s.setDie d x).invals = s.invals := rfl
@[simp] theorem setDie_harvest (s : State) (d : Nat) (x : Die) : (s.setDie d x).harvest = s.harvest := rfl
@[simp] theorem setDie_retiring (s : State) (d : Nat) (x : Die) : (s.setDie d x).retiring = s.retiring := rfl
@[simp] theorem setDie_retired (s : State) (d : Nat) (x : Die) : (s.setDie d x).retired = s.retired := rfl
@[simp] theorem setDie_splitNext (s : State) (d : Nat) (x : Die) : (s.setDie d x).splitNext = s.splitNext := rfl
@[simp] theorem setDie_mailHello (s : State) (d : Nat) (x : Die) : (s.setDie d x).mailHello = s.mailHello := rfl
@[simp] theorem setDie_pin (s : State) (d : Nat) (x : Die) : (s.setDie d x).pin = s.pin := rfl
@[simp] theorem setDie_attest (s : State) (d : Nat) (x : Die) : (s.setDie d x).attest = s.attest := rfl
@[simp] theorem setDie_flash (s : State) (d : Nat) (x : Die) : (s.setDie d x).flash = s.flash := rfl
@[simp] theorem setDie_boot (s : State) (d : Nat) (x : Die) : (s.setDie d x).boot = s.boot := rfl
@[simp] theorem setDie_fatal (s : State) (d : Nat) (x : Die) : (s.setDie d x).fatal = s.fatal := rfl
@[simp] theorem setDie_agenda (s : State) (d : Nat) (x : Die) : (s.setDie d x).agenda = s.agenda := rfl
@[simp] theorem setDie_outbox (s : State) (d : Nat) (x : Die) : (s.setDie d x).outbox = s.outbox := rfl
@[simp] theorem setDie_cc (s : State) (d : Nat) (x : Die) : (s.setDie d x).cc = s.cc := rfl
@[simp] theorem setDie_cur (s : State) (d : Nat) (x : Die) : (s.setDie d x).cur = s.cur := rfl
@[simp] theorem setDie_second (s : State) (d : Nat) (x : Die) : (s.setDie d x).second = s.second := rfl
@[simp] theorem setDie_turn (s : State) (d : Nat) (x : Die) : (s.setDie d x).turn = s.turn := rfl
@[simp] theorem setDie_free (s : State) (d : Nat) (x : Die) : (s.setDie d x).free = s.free := rfl

/-! ### modDie -/

@[simp] theorem modDie_product (s : State) (d : Nat) (f : Die → Die) : (s.modDie d f).product = s.product := rfl
@[simp] theorem modDie_fused (s : State) (d : Nat) (f : Die → Die) : (s.modDie d f).fused = s.fused := rfl
@[simp] theorem modDie_hbm (s : State) (d : Nat) (f : Die → Die) : (s.modDie d f).hbm = s.hbm := rfl
@[simp] theorem modDie_hbmPoison (s : State) (d : Nat) (f : Die → Die) : (s.modDie d f).hbmPoison = s.hbmPoison := rfl
@[simp] theorem modDie_cap (s : State) (d : Nat) (f : Die → Die) : (s.modDie d f).cap = s.cap := rfl
@[simp] theorem modDie_capPoison (s : State) (d : Nat) (f : Die → Die) : (s.modDie d f).capPoison = s.capPoison := rfl
@[simp] theorem modDie_ctl (s : State) (d : Nat) (f : Die → Die) : (s.modDie d f).ctl = s.ctl := rfl
@[simp] theorem modDie_bars (s : State) (d : Nat) (f : Die → Die) : (s.modDie d f).bars = s.bars := rfl
@[simp] theorem modDie_pri (s : State) (d : Nat) (f : Die → Die) : (s.modDie d f).pri = s.pri := rfl
@[simp] theorem modDie_priWrite (s : State) (d : Nat) (f : Die → Die) : (s.modDie d f).priWrite = s.priWrite := rfl
@[simp] theorem modDie_hostQ (s : State) (d : Nat) (f : Die → Die) : (s.modDie d f).hostQ = s.hostQ := rfl
@[simp] theorem modDie_noAtomics (s : State) (d : Nat) (f : Die → Die) : (s.modDie d f).noAtomics = s.noAtomics := rfl
@[simp] theorem modDie_cores (s : State) (d : Nat) (f : Die → Die) : (s.modDie d f).cores = s.cores := rfl
@[simp] theorem modDie_routers (s : State) (d : Nat) (f : Die → Die) : (s.modDie d f).routers = s.routers := rfl
@[simp] theorem modDie_links (s : State) (d : Nat) (f : Die → Die) : (s.modDie d f).links = s.links := rfl
@[simp] theorem modDie_launches (s : State) (d : Nat) (f : Die → Die) : (s.modDie d f).launches = s.launches := rfl
@[simp] theorem modDie_nextLaunch (s : State) (d : Nat) (f : Die → Die) : (s.modDie d f).nextLaunch = s.nextLaunch := rfl
@[simp] theorem modDie_hintDrops (s : State) (d : Nat) (f : Die → Die) : (s.modDie d f).hintDrops = s.hintDrops := rfl
@[simp] theorem modDie_paths (s : State) (d : Nat) (f : Die → Die) : (s.modDie d f).paths = s.paths := rfl
@[simp] theorem modDie_blockWaits (s : State) (d : Nat) (f : Die → Die) : (s.modDie d f).blockWaits = s.blockWaits := rfl
@[simp] theorem modDie_rstores (s : State) (d : Nat) (f : Die → Die) : (s.modDie d f).rstores = s.rstores := rfl
@[simp] theorem modDie_nextRstore (s : State) (d : Nat) (f : Die → Die) : (s.modDie d f).nextRstore = s.nextRstore := rfl
@[simp] theorem modDie_sequenced (s : State) (d : Nat) (f : Die → Die) : (s.modDie d f).sequenced = s.sequenced := rfl
@[simp] theorem modDie_rxPaths (s : State) (d : Nat) (f : Die → Die) : (s.modDie d f).rxPaths = s.rxPaths := rfl
@[simp] theorem modDie_fences (s : State) (d : Nat) (f : Die → Die) : (s.modDie d f).fences = s.fences := rfl
@[simp] theorem modDie_nextFence (s : State) (d : Nat) (f : Die → Die) : (s.modDie d f).nextFence = s.nextFence := rfl
@[simp] theorem modDie_colls (s : State) (d : Nat) (f : Die → Die) : (s.modDie d f).colls = s.colls := rfl
@[simp] theorem modDie_encoders (s : State) (d : Nat) (f : Die → Die) : (s.modDie d f).encoders = s.encoders := rfl
@[simp] theorem modDie_bitmaps (s : State) (d : Nat) (f : Die → Die) : (s.modDie d f).bitmaps = s.bitmaps := rfl
@[simp] theorem modDie_nextBitmap (s : State) (d : Nat) (f : Die → Die) : (s.modDie d f).nextBitmap = s.nextBitmap := rfl
@[simp] theorem modDie_invals (s : State) (d : Nat) (f : Die → Die) : (s.modDie d f).invals = s.invals := rfl
@[simp] theorem modDie_harvest (s : State) (d : Nat) (f : Die → Die) : (s.modDie d f).harvest = s.harvest := rfl
@[simp] theorem modDie_retiring (s : State) (d : Nat) (f : Die → Die) : (s.modDie d f).retiring = s.retiring := rfl
@[simp] theorem modDie_retired (s : State) (d : Nat) (f : Die → Die) : (s.modDie d f).retired = s.retired := rfl
@[simp] theorem modDie_splitNext (s : State) (d : Nat) (f : Die → Die) : (s.modDie d f).splitNext = s.splitNext := rfl
@[simp] theorem modDie_mailHello (s : State) (d : Nat) (f : Die → Die) : (s.modDie d f).mailHello = s.mailHello := rfl
@[simp] theorem modDie_pin (s : State) (d : Nat) (f : Die → Die) : (s.modDie d f).pin = s.pin := rfl
@[simp] theorem modDie_attest (s : State) (d : Nat) (f : Die → Die) : (s.modDie d f).attest = s.attest := rfl
@[simp] theorem modDie_flash (s : State) (d : Nat) (f : Die → Die) : (s.modDie d f).flash = s.flash := rfl
@[simp] theorem modDie_boot (s : State) (d : Nat) (f : Die → Die) : (s.modDie d f).boot = s.boot := rfl
@[simp] theorem modDie_fatal (s : State) (d : Nat) (f : Die → Die) : (s.modDie d f).fatal = s.fatal := rfl
@[simp] theorem modDie_agenda (s : State) (d : Nat) (f : Die → Die) : (s.modDie d f).agenda = s.agenda := rfl
@[simp] theorem modDie_outbox (s : State) (d : Nat) (f : Die → Die) : (s.modDie d f).outbox = s.outbox := rfl
@[simp] theorem modDie_cc (s : State) (d : Nat) (f : Die → Die) : (s.modDie d f).cc = s.cc := rfl
@[simp] theorem modDie_cur (s : State) (d : Nat) (f : Die → Die) : (s.modDie d f).cur = s.cur := rfl
@[simp] theorem modDie_second (s : State) (d : Nat) (f : Die → Die) : (s.modDie d f).second = s.second := rfl
@[simp] theorem modDie_turn (s : State) (d : Nat) (f : Die → Die) : (s.modDie d f).turn = s.turn := rfl
@[simp] theorem modDie_free (s : State) (d : Nat) (f : Die → Die) : (s.modDie d f).free = s.free := rfl

/-! ### setGroup -/

@[simp] theorem setGroup_product (s : State) (c gid : Nat) (g : Group) : (s.setGroup c gid g).product = s.product := rfl
@[simp] theorem setGroup_fused (s : State) (c gid : Nat) (g : Group) : (s.setGroup c gid g).fused = s.fused := rfl
@[simp] theorem setGroup_hbm (s : State) (c gid : Nat) (g : Group) : (s.setGroup c gid g).hbm = s.hbm := rfl
@[simp] theorem setGroup_hbmPoison (s : State) (c gid : Nat) (g : Group) : (s.setGroup c gid g).hbmPoison = s.hbmPoison := rfl
@[simp] theorem setGroup_cap (s : State) (c gid : Nat) (g : Group) : (s.setGroup c gid g).cap = s.cap := rfl
@[simp] theorem setGroup_capPoison (s : State) (c gid : Nat) (g : Group) : (s.setGroup c gid g).capPoison = s.capPoison := rfl
@[simp] theorem setGroup_ctl (s : State) (c gid : Nat) (g : Group) : (s.setGroup c gid g).ctl = s.ctl := rfl
@[simp] theorem setGroup_bars (s : State) (c gid : Nat) (g : Group) : (s.setGroup c gid g).bars = s.bars := rfl
@[simp] theorem setGroup_pri (s : State) (c gid : Nat) (g : Group) : (s.setGroup c gid g).pri = s.pri := rfl
@[simp] theorem setGroup_priWrite (s : State) (c gid : Nat) (g : Group) : (s.setGroup c gid g).priWrite = s.priWrite := rfl
@[simp] theorem setGroup_hostQ (s : State) (c gid : Nat) (g : Group) : (s.setGroup c gid g).hostQ = s.hostQ := rfl
@[simp] theorem setGroup_noAtomics (s : State) (c gid : Nat) (g : Group) : (s.setGroup c gid g).noAtomics = s.noAtomics := rfl
@[simp] theorem setGroup_dies (s : State) (c gid : Nat) (g : Group) : (s.setGroup c gid g).dies = s.dies := rfl
@[simp] theorem setGroup_routers (s : State) (c gid : Nat) (g : Group) : (s.setGroup c gid g).routers = s.routers := rfl
@[simp] theorem setGroup_links (s : State) (c gid : Nat) (g : Group) : (s.setGroup c gid g).links = s.links := rfl
@[simp] theorem setGroup_launches (s : State) (c gid : Nat) (g : Group) : (s.setGroup c gid g).launches = s.launches := rfl
@[simp] theorem setGroup_nextLaunch (s : State) (c gid : Nat) (g : Group) : (s.setGroup c gid g).nextLaunch = s.nextLaunch := rfl
@[simp] theorem setGroup_hintDrops (s : State) (c gid : Nat) (g : Group) : (s.setGroup c gid g).hintDrops = s.hintDrops := rfl
@[simp] theorem setGroup_paths (s : State) (c gid : Nat) (g : Group) : (s.setGroup c gid g).paths = s.paths := rfl
@[simp] theorem setGroup_blockWaits (s : State) (c gid : Nat) (g : Group) : (s.setGroup c gid g).blockWaits = s.blockWaits := rfl
@[simp] theorem setGroup_rstores (s : State) (c gid : Nat) (g : Group) : (s.setGroup c gid g).rstores = s.rstores := rfl
@[simp] theorem setGroup_nextRstore (s : State) (c gid : Nat) (g : Group) : (s.setGroup c gid g).nextRstore = s.nextRstore := rfl
@[simp] theorem setGroup_sequenced (s : State) (c gid : Nat) (g : Group) : (s.setGroup c gid g).sequenced = s.sequenced := rfl
@[simp] theorem setGroup_rxPaths (s : State) (c gid : Nat) (g : Group) : (s.setGroup c gid g).rxPaths = s.rxPaths := rfl
@[simp] theorem setGroup_fences (s : State) (c gid : Nat) (g : Group) : (s.setGroup c gid g).fences = s.fences := rfl
@[simp] theorem setGroup_nextFence (s : State) (c gid : Nat) (g : Group) : (s.setGroup c gid g).nextFence = s.nextFence := rfl
@[simp] theorem setGroup_colls (s : State) (c gid : Nat) (g : Group) : (s.setGroup c gid g).colls = s.colls := rfl
@[simp] theorem setGroup_encoders (s : State) (c gid : Nat) (g : Group) : (s.setGroup c gid g).encoders = s.encoders := rfl
@[simp] theorem setGroup_bitmaps (s : State) (c gid : Nat) (g : Group) : (s.setGroup c gid g).bitmaps = s.bitmaps := rfl
@[simp] theorem setGroup_nextBitmap (s : State) (c gid : Nat) (g : Group) : (s.setGroup c gid g).nextBitmap = s.nextBitmap := rfl
@[simp] theorem setGroup_invals (s : State) (c gid : Nat) (g : Group) : (s.setGroup c gid g).invals = s.invals := rfl
@[simp] theorem setGroup_harvest (s : State) (c gid : Nat) (g : Group) : (s.setGroup c gid g).harvest = s.harvest := rfl
@[simp] theorem setGroup_retiring (s : State) (c gid : Nat) (g : Group) : (s.setGroup c gid g).retiring = s.retiring := rfl
@[simp] theorem setGroup_retired (s : State) (c gid : Nat) (g : Group) : (s.setGroup c gid g).retired = s.retired := rfl
@[simp] theorem setGroup_splitNext (s : State) (c gid : Nat) (g : Group) : (s.setGroup c gid g).splitNext = s.splitNext := rfl
@[simp] theorem setGroup_mailHello (s : State) (c gid : Nat) (g : Group) : (s.setGroup c gid g).mailHello = s.mailHello := rfl
@[simp] theorem setGroup_pin (s : State) (c gid : Nat) (g : Group) : (s.setGroup c gid g).pin = s.pin := rfl
@[simp] theorem setGroup_attest (s : State) (c gid : Nat) (g : Group) : (s.setGroup c gid g).attest = s.attest := rfl
@[simp] theorem setGroup_flash (s : State) (c gid : Nat) (g : Group) : (s.setGroup c gid g).flash = s.flash := rfl
@[simp] theorem setGroup_boot (s : State) (c gid : Nat) (g : Group) : (s.setGroup c gid g).boot = s.boot := rfl
@[simp] theorem setGroup_fatal (s : State) (c gid : Nat) (g : Group) : (s.setGroup c gid g).fatal = s.fatal := rfl
@[simp] theorem setGroup_agenda (s : State) (c gid : Nat) (g : Group) : (s.setGroup c gid g).agenda = s.agenda := rfl
@[simp] theorem setGroup_outbox (s : State) (c gid : Nat) (g : Group) : (s.setGroup c gid g).outbox = s.outbox := rfl
@[simp] theorem setGroup_cc (s : State) (c gid : Nat) (g : Group) : (s.setGroup c gid g).cc = s.cc := rfl
@[simp] theorem setGroup_cur (s : State) (c gid : Nat) (g : Group) : (s.setGroup c gid g).cur = s.cur := rfl
@[simp] theorem setGroup_second (s : State) (c gid : Nat) (g : Group) : (s.setGroup c gid g).second = s.second := rfl
@[simp] theorem setGroup_turn (s : State) (c gid : Nat) (g : Group) : (s.setGroup c gid g).turn = s.turn := rfl
@[simp] theorem setGroup_free (s : State) (c gid : Nat) (g : Group) : (s.setGroup c gid g).free = s.free := rfl

/-! ### modGroup -/

@[simp] theorem modGroup_product (s : State) (c gid : Nat) (f : Group → Group) : (s.modGroup c gid f).product = s.product := rfl
@[simp] theorem modGroup_fused (s : State) (c gid : Nat) (f : Group → Group) : (s.modGroup c gid f).fused = s.fused := rfl
@[simp] theorem modGroup_hbm (s : State) (c gid : Nat) (f : Group → Group) : (s.modGroup c gid f).hbm = s.hbm := rfl
@[simp] theorem modGroup_hbmPoison (s : State) (c gid : Nat) (f : Group → Group) : (s.modGroup c gid f).hbmPoison = s.hbmPoison := rfl
@[simp] theorem modGroup_cap (s : State) (c gid : Nat) (f : Group → Group) : (s.modGroup c gid f).cap = s.cap := rfl
@[simp] theorem modGroup_capPoison (s : State) (c gid : Nat) (f : Group → Group) : (s.modGroup c gid f).capPoison = s.capPoison := rfl
@[simp] theorem modGroup_ctl (s : State) (c gid : Nat) (f : Group → Group) : (s.modGroup c gid f).ctl = s.ctl := rfl
@[simp] theorem modGroup_bars (s : State) (c gid : Nat) (f : Group → Group) : (s.modGroup c gid f).bars = s.bars := rfl
@[simp] theorem modGroup_pri (s : State) (c gid : Nat) (f : Group → Group) : (s.modGroup c gid f).pri = s.pri := rfl
@[simp] theorem modGroup_priWrite (s : State) (c gid : Nat) (f : Group → Group) : (s.modGroup c gid f).priWrite = s.priWrite := rfl
@[simp] theorem modGroup_hostQ (s : State) (c gid : Nat) (f : Group → Group) : (s.modGroup c gid f).hostQ = s.hostQ := rfl
@[simp] theorem modGroup_noAtomics (s : State) (c gid : Nat) (f : Group → Group) : (s.modGroup c gid f).noAtomics = s.noAtomics := rfl
@[simp] theorem modGroup_dies (s : State) (c gid : Nat) (f : Group → Group) : (s.modGroup c gid f).dies = s.dies := rfl
@[simp] theorem modGroup_routers (s : State) (c gid : Nat) (f : Group → Group) : (s.modGroup c gid f).routers = s.routers := rfl
@[simp] theorem modGroup_links (s : State) (c gid : Nat) (f : Group → Group) : (s.modGroup c gid f).links = s.links := rfl
@[simp] theorem modGroup_launches (s : State) (c gid : Nat) (f : Group → Group) : (s.modGroup c gid f).launches = s.launches := rfl
@[simp] theorem modGroup_nextLaunch (s : State) (c gid : Nat) (f : Group → Group) : (s.modGroup c gid f).nextLaunch = s.nextLaunch := rfl
@[simp] theorem modGroup_hintDrops (s : State) (c gid : Nat) (f : Group → Group) : (s.modGroup c gid f).hintDrops = s.hintDrops := rfl
@[simp] theorem modGroup_paths (s : State) (c gid : Nat) (f : Group → Group) : (s.modGroup c gid f).paths = s.paths := rfl
@[simp] theorem modGroup_blockWaits (s : State) (c gid : Nat) (f : Group → Group) : (s.modGroup c gid f).blockWaits = s.blockWaits := rfl
@[simp] theorem modGroup_rstores (s : State) (c gid : Nat) (f : Group → Group) : (s.modGroup c gid f).rstores = s.rstores := rfl
@[simp] theorem modGroup_nextRstore (s : State) (c gid : Nat) (f : Group → Group) : (s.modGroup c gid f).nextRstore = s.nextRstore := rfl
@[simp] theorem modGroup_sequenced (s : State) (c gid : Nat) (f : Group → Group) : (s.modGroup c gid f).sequenced = s.sequenced := rfl
@[simp] theorem modGroup_rxPaths (s : State) (c gid : Nat) (f : Group → Group) : (s.modGroup c gid f).rxPaths = s.rxPaths := rfl
@[simp] theorem modGroup_fences (s : State) (c gid : Nat) (f : Group → Group) : (s.modGroup c gid f).fences = s.fences := rfl
@[simp] theorem modGroup_nextFence (s : State) (c gid : Nat) (f : Group → Group) : (s.modGroup c gid f).nextFence = s.nextFence := rfl
@[simp] theorem modGroup_colls (s : State) (c gid : Nat) (f : Group → Group) : (s.modGroup c gid f).colls = s.colls := rfl
@[simp] theorem modGroup_encoders (s : State) (c gid : Nat) (f : Group → Group) : (s.modGroup c gid f).encoders = s.encoders := rfl
@[simp] theorem modGroup_bitmaps (s : State) (c gid : Nat) (f : Group → Group) : (s.modGroup c gid f).bitmaps = s.bitmaps := rfl
@[simp] theorem modGroup_nextBitmap (s : State) (c gid : Nat) (f : Group → Group) : (s.modGroup c gid f).nextBitmap = s.nextBitmap := rfl
@[simp] theorem modGroup_invals (s : State) (c gid : Nat) (f : Group → Group) : (s.modGroup c gid f).invals = s.invals := rfl
@[simp] theorem modGroup_harvest (s : State) (c gid : Nat) (f : Group → Group) : (s.modGroup c gid f).harvest = s.harvest := rfl
@[simp] theorem modGroup_retiring (s : State) (c gid : Nat) (f : Group → Group) : (s.modGroup c gid f).retiring = s.retiring := rfl
@[simp] theorem modGroup_retired (s : State) (c gid : Nat) (f : Group → Group) : (s.modGroup c gid f).retired = s.retired := rfl
@[simp] theorem modGroup_splitNext (s : State) (c gid : Nat) (f : Group → Group) : (s.modGroup c gid f).splitNext = s.splitNext := rfl
@[simp] theorem modGroup_mailHello (s : State) (c gid : Nat) (f : Group → Group) : (s.modGroup c gid f).mailHello = s.mailHello := rfl
@[simp] theorem modGroup_pin (s : State) (c gid : Nat) (f : Group → Group) : (s.modGroup c gid f).pin = s.pin := rfl
@[simp] theorem modGroup_attest (s : State) (c gid : Nat) (f : Group → Group) : (s.modGroup c gid f).attest = s.attest := rfl
@[simp] theorem modGroup_flash (s : State) (c gid : Nat) (f : Group → Group) : (s.modGroup c gid f).flash = s.flash := rfl
@[simp] theorem modGroup_boot (s : State) (c gid : Nat) (f : Group → Group) : (s.modGroup c gid f).boot = s.boot := rfl
@[simp] theorem modGroup_fatal (s : State) (c gid : Nat) (f : Group → Group) : (s.modGroup c gid f).fatal = s.fatal := rfl
@[simp] theorem modGroup_agenda (s : State) (c gid : Nat) (f : Group → Group) : (s.modGroup c gid f).agenda = s.agenda := rfl
@[simp] theorem modGroup_outbox (s : State) (c gid : Nat) (f : Group → Group) : (s.modGroup c gid f).outbox = s.outbox := rfl
@[simp] theorem modGroup_cc (s : State) (c gid : Nat) (f : Group → Group) : (s.modGroup c gid f).cc = s.cc := rfl
@[simp] theorem modGroup_cur (s : State) (c gid : Nat) (f : Group → Group) : (s.modGroup c gid f).cur = s.cur := rfl
@[simp] theorem modGroup_second (s : State) (c gid : Nat) (f : Group → Group) : (s.modGroup c gid f).second = s.second := rfl
@[simp] theorem modGroup_turn (s : State) (c gid : Nat) (f : Group → Group) : (s.modGroup c gid f).turn = s.turn := rfl
@[simp] theorem modGroup_free (s : State) (c gid : Nat) (f : Group → Group) : (s.modGroup c gid f).free = s.free := rfl

/-! ### modTeam -/

@[simp] theorem modTeam_product (s : State) (c t : Nat) (f : Team → Team) : (s.modTeam c t f).product = s.product := rfl
@[simp] theorem modTeam_fused (s : State) (c t : Nat) (f : Team → Team) : (s.modTeam c t f).fused = s.fused := rfl
@[simp] theorem modTeam_hbm (s : State) (c t : Nat) (f : Team → Team) : (s.modTeam c t f).hbm = s.hbm := rfl
@[simp] theorem modTeam_hbmPoison (s : State) (c t : Nat) (f : Team → Team) : (s.modTeam c t f).hbmPoison = s.hbmPoison := rfl
@[simp] theorem modTeam_cap (s : State) (c t : Nat) (f : Team → Team) : (s.modTeam c t f).cap = s.cap := rfl
@[simp] theorem modTeam_capPoison (s : State) (c t : Nat) (f : Team → Team) : (s.modTeam c t f).capPoison = s.capPoison := rfl
@[simp] theorem modTeam_ctl (s : State) (c t : Nat) (f : Team → Team) : (s.modTeam c t f).ctl = s.ctl := rfl
@[simp] theorem modTeam_bars (s : State) (c t : Nat) (f : Team → Team) : (s.modTeam c t f).bars = s.bars := rfl
@[simp] theorem modTeam_pri (s : State) (c t : Nat) (f : Team → Team) : (s.modTeam c t f).pri = s.pri := rfl
@[simp] theorem modTeam_priWrite (s : State) (c t : Nat) (f : Team → Team) : (s.modTeam c t f).priWrite = s.priWrite := rfl
@[simp] theorem modTeam_hostQ (s : State) (c t : Nat) (f : Team → Team) : (s.modTeam c t f).hostQ = s.hostQ := rfl
@[simp] theorem modTeam_noAtomics (s : State) (c t : Nat) (f : Team → Team) : (s.modTeam c t f).noAtomics = s.noAtomics := rfl
@[simp] theorem modTeam_dies (s : State) (c t : Nat) (f : Team → Team) : (s.modTeam c t f).dies = s.dies := rfl
@[simp] theorem modTeam_routers (s : State) (c t : Nat) (f : Team → Team) : (s.modTeam c t f).routers = s.routers := rfl
@[simp] theorem modTeam_links (s : State) (c t : Nat) (f : Team → Team) : (s.modTeam c t f).links = s.links := rfl
@[simp] theorem modTeam_launches (s : State) (c t : Nat) (f : Team → Team) : (s.modTeam c t f).launches = s.launches := rfl
@[simp] theorem modTeam_nextLaunch (s : State) (c t : Nat) (f : Team → Team) : (s.modTeam c t f).nextLaunch = s.nextLaunch := rfl
@[simp] theorem modTeam_hintDrops (s : State) (c t : Nat) (f : Team → Team) : (s.modTeam c t f).hintDrops = s.hintDrops := rfl
@[simp] theorem modTeam_paths (s : State) (c t : Nat) (f : Team → Team) : (s.modTeam c t f).paths = s.paths := rfl
@[simp] theorem modTeam_blockWaits (s : State) (c t : Nat) (f : Team → Team) : (s.modTeam c t f).blockWaits = s.blockWaits := rfl
@[simp] theorem modTeam_rstores (s : State) (c t : Nat) (f : Team → Team) : (s.modTeam c t f).rstores = s.rstores := rfl
@[simp] theorem modTeam_nextRstore (s : State) (c t : Nat) (f : Team → Team) : (s.modTeam c t f).nextRstore = s.nextRstore := rfl
@[simp] theorem modTeam_sequenced (s : State) (c t : Nat) (f : Team → Team) : (s.modTeam c t f).sequenced = s.sequenced := rfl
@[simp] theorem modTeam_rxPaths (s : State) (c t : Nat) (f : Team → Team) : (s.modTeam c t f).rxPaths = s.rxPaths := rfl
@[simp] theorem modTeam_fences (s : State) (c t : Nat) (f : Team → Team) : (s.modTeam c t f).fences = s.fences := rfl
@[simp] theorem modTeam_nextFence (s : State) (c t : Nat) (f : Team → Team) : (s.modTeam c t f).nextFence = s.nextFence := rfl
@[simp] theorem modTeam_colls (s : State) (c t : Nat) (f : Team → Team) : (s.modTeam c t f).colls = s.colls := rfl
@[simp] theorem modTeam_encoders (s : State) (c t : Nat) (f : Team → Team) : (s.modTeam c t f).encoders = s.encoders := rfl
@[simp] theorem modTeam_bitmaps (s : State) (c t : Nat) (f : Team → Team) : (s.modTeam c t f).bitmaps = s.bitmaps := rfl
@[simp] theorem modTeam_nextBitmap (s : State) (c t : Nat) (f : Team → Team) : (s.modTeam c t f).nextBitmap = s.nextBitmap := rfl
@[simp] theorem modTeam_invals (s : State) (c t : Nat) (f : Team → Team) : (s.modTeam c t f).invals = s.invals := rfl
@[simp] theorem modTeam_harvest (s : State) (c t : Nat) (f : Team → Team) : (s.modTeam c t f).harvest = s.harvest := rfl
@[simp] theorem modTeam_retiring (s : State) (c t : Nat) (f : Team → Team) : (s.modTeam c t f).retiring = s.retiring := rfl
@[simp] theorem modTeam_retired (s : State) (c t : Nat) (f : Team → Team) : (s.modTeam c t f).retired = s.retired := rfl
@[simp] theorem modTeam_splitNext (s : State) (c t : Nat) (f : Team → Team) : (s.modTeam c t f).splitNext = s.splitNext := rfl
@[simp] theorem modTeam_mailHello (s : State) (c t : Nat) (f : Team → Team) : (s.modTeam c t f).mailHello = s.mailHello := rfl
@[simp] theorem modTeam_pin (s : State) (c t : Nat) (f : Team → Team) : (s.modTeam c t f).pin = s.pin := rfl
@[simp] theorem modTeam_attest (s : State) (c t : Nat) (f : Team → Team) : (s.modTeam c t f).attest = s.attest := rfl
@[simp] theorem modTeam_flash (s : State) (c t : Nat) (f : Team → Team) : (s.modTeam c t f).flash = s.flash := rfl
@[simp] theorem modTeam_boot (s : State) (c t : Nat) (f : Team → Team) : (s.modTeam c t f).boot = s.boot := rfl
@[simp] theorem modTeam_fatal (s : State) (c t : Nat) (f : Team → Team) : (s.modTeam c t f).fatal = s.fatal := rfl
@[simp] theorem modTeam_agenda (s : State) (c t : Nat) (f : Team → Team) : (s.modTeam c t f).agenda = s.agenda := rfl
@[simp] theorem modTeam_outbox (s : State) (c t : Nat) (f : Team → Team) : (s.modTeam c t f).outbox = s.outbox := rfl
@[simp] theorem modTeam_cc (s : State) (c t : Nat) (f : Team → Team) : (s.modTeam c t f).cc = s.cc := rfl
@[simp] theorem modTeam_cur (s : State) (c t : Nat) (f : Team → Team) : (s.modTeam c t f).cur = s.cur := rfl
@[simp] theorem modTeam_second (s : State) (c t : Nat) (f : Team → Team) : (s.modTeam c t f).second = s.second := rfl
@[simp] theorem modTeam_turn (s : State) (c t : Nat) (f : Team → Team) : (s.modTeam c t f).turn = s.turn := rfl
@[simp] theorem modTeam_free (s : State) (c t : Nat) (f : Team → Team) : (s.modTeam c t f).free = s.free := rfl

/-! ### setCtl -/

@[simp] theorem setCtl_product (s : State) (off : Nat) (v : DWord) : (s.setCtl off v).product = s.product := rfl
@[simp] theorem setCtl_fused (s : State) (off : Nat) (v : DWord) : (s.setCtl off v).fused = s.fused := rfl
@[simp] theorem setCtl_hbm (s : State) (off : Nat) (v : DWord) : (s.setCtl off v).hbm = s.hbm := rfl
@[simp] theorem setCtl_hbmPoison (s : State) (off : Nat) (v : DWord) : (s.setCtl off v).hbmPoison = s.hbmPoison := rfl
@[simp] theorem setCtl_cap (s : State) (off : Nat) (v : DWord) : (s.setCtl off v).cap = s.cap := rfl
@[simp] theorem setCtl_capPoison (s : State) (off : Nat) (v : DWord) : (s.setCtl off v).capPoison = s.capPoison := rfl
@[simp] theorem setCtl_bars (s : State) (off : Nat) (v : DWord) : (s.setCtl off v).bars = s.bars := rfl
@[simp] theorem setCtl_pri (s : State) (off : Nat) (v : DWord) : (s.setCtl off v).pri = s.pri := rfl
@[simp] theorem setCtl_priWrite (s : State) (off : Nat) (v : DWord) : (s.setCtl off v).priWrite = s.priWrite := rfl
@[simp] theorem setCtl_hostQ (s : State) (off : Nat) (v : DWord) : (s.setCtl off v).hostQ = s.hostQ := rfl
@[simp] theorem setCtl_noAtomics (s : State) (off : Nat) (v : DWord) : (s.setCtl off v).noAtomics = s.noAtomics := rfl
@[simp] theorem setCtl_cores (s : State) (off : Nat) (v : DWord) : (s.setCtl off v).cores = s.cores := rfl
@[simp] theorem setCtl_dies (s : State) (off : Nat) (v : DWord) : (s.setCtl off v).dies = s.dies := rfl
@[simp] theorem setCtl_routers (s : State) (off : Nat) (v : DWord) : (s.setCtl off v).routers = s.routers := rfl
@[simp] theorem setCtl_links (s : State) (off : Nat) (v : DWord) : (s.setCtl off v).links = s.links := rfl
@[simp] theorem setCtl_launches (s : State) (off : Nat) (v : DWord) : (s.setCtl off v).launches = s.launches := rfl
@[simp] theorem setCtl_nextLaunch (s : State) (off : Nat) (v : DWord) : (s.setCtl off v).nextLaunch = s.nextLaunch := rfl
@[simp] theorem setCtl_hintDrops (s : State) (off : Nat) (v : DWord) : (s.setCtl off v).hintDrops = s.hintDrops := rfl
@[simp] theorem setCtl_paths (s : State) (off : Nat) (v : DWord) : (s.setCtl off v).paths = s.paths := rfl
@[simp] theorem setCtl_blockWaits (s : State) (off : Nat) (v : DWord) : (s.setCtl off v).blockWaits = s.blockWaits := rfl
@[simp] theorem setCtl_rstores (s : State) (off : Nat) (v : DWord) : (s.setCtl off v).rstores = s.rstores := rfl
@[simp] theorem setCtl_nextRstore (s : State) (off : Nat) (v : DWord) : (s.setCtl off v).nextRstore = s.nextRstore := rfl
@[simp] theorem setCtl_sequenced (s : State) (off : Nat) (v : DWord) : (s.setCtl off v).sequenced = s.sequenced := rfl
@[simp] theorem setCtl_rxPaths (s : State) (off : Nat) (v : DWord) : (s.setCtl off v).rxPaths = s.rxPaths := rfl
@[simp] theorem setCtl_fences (s : State) (off : Nat) (v : DWord) : (s.setCtl off v).fences = s.fences := rfl
@[simp] theorem setCtl_nextFence (s : State) (off : Nat) (v : DWord) : (s.setCtl off v).nextFence = s.nextFence := rfl
@[simp] theorem setCtl_colls (s : State) (off : Nat) (v : DWord) : (s.setCtl off v).colls = s.colls := rfl
@[simp] theorem setCtl_encoders (s : State) (off : Nat) (v : DWord) : (s.setCtl off v).encoders = s.encoders := rfl
@[simp] theorem setCtl_bitmaps (s : State) (off : Nat) (v : DWord) : (s.setCtl off v).bitmaps = s.bitmaps := rfl
@[simp] theorem setCtl_nextBitmap (s : State) (off : Nat) (v : DWord) : (s.setCtl off v).nextBitmap = s.nextBitmap := rfl
@[simp] theorem setCtl_invals (s : State) (off : Nat) (v : DWord) : (s.setCtl off v).invals = s.invals := rfl
@[simp] theorem setCtl_harvest (s : State) (off : Nat) (v : DWord) : (s.setCtl off v).harvest = s.harvest := rfl
@[simp] theorem setCtl_retiring (s : State) (off : Nat) (v : DWord) : (s.setCtl off v).retiring = s.retiring := rfl
@[simp] theorem setCtl_retired (s : State) (off : Nat) (v : DWord) : (s.setCtl off v).retired = s.retired := rfl
@[simp] theorem setCtl_splitNext (s : State) (off : Nat) (v : DWord) : (s.setCtl off v).splitNext = s.splitNext := rfl
@[simp] theorem setCtl_mailHello (s : State) (off : Nat) (v : DWord) : (s.setCtl off v).mailHello = s.mailHello := rfl
@[simp] theorem setCtl_pin (s : State) (off : Nat) (v : DWord) : (s.setCtl off v).pin = s.pin := rfl
@[simp] theorem setCtl_attest (s : State) (off : Nat) (v : DWord) : (s.setCtl off v).attest = s.attest := rfl
@[simp] theorem setCtl_flash (s : State) (off : Nat) (v : DWord) : (s.setCtl off v).flash = s.flash := rfl
@[simp] theorem setCtl_boot (s : State) (off : Nat) (v : DWord) : (s.setCtl off v).boot = s.boot := rfl
@[simp] theorem setCtl_fatal (s : State) (off : Nat) (v : DWord) : (s.setCtl off v).fatal = s.fatal := rfl
@[simp] theorem setCtl_agenda (s : State) (off : Nat) (v : DWord) : (s.setCtl off v).agenda = s.agenda := rfl
@[simp] theorem setCtl_outbox (s : State) (off : Nat) (v : DWord) : (s.setCtl off v).outbox = s.outbox := rfl
@[simp] theorem setCtl_cc (s : State) (off : Nat) (v : DWord) : (s.setCtl off v).cc = s.cc := rfl
@[simp] theorem setCtl_cur (s : State) (off : Nat) (v : DWord) : (s.setCtl off v).cur = s.cur := rfl
@[simp] theorem setCtl_second (s : State) (off : Nat) (v : DWord) : (s.setCtl off v).second = s.second := rfl
@[simp] theorem setCtl_turn (s : State) (off : Nat) (v : DWord) : (s.setCtl off v).turn = s.turn := rfl
@[simp] theorem setCtl_free (s : State) (off : Nat) (v : DWord) : (s.setCtl off v).free = s.free := rfl

/-! ### setField -/

@[simp] theorem setField_product (s : State) (off hi lo x : Nat) : (s.setField off hi lo x).product = s.product := rfl
@[simp] theorem setField_fused (s : State) (off hi lo x : Nat) : (s.setField off hi lo x).fused = s.fused := rfl
@[simp] theorem setField_hbm (s : State) (off hi lo x : Nat) : (s.setField off hi lo x).hbm = s.hbm := rfl
@[simp] theorem setField_hbmPoison (s : State) (off hi lo x : Nat) : (s.setField off hi lo x).hbmPoison = s.hbmPoison := rfl
@[simp] theorem setField_cap (s : State) (off hi lo x : Nat) : (s.setField off hi lo x).cap = s.cap := rfl
@[simp] theorem setField_capPoison (s : State) (off hi lo x : Nat) : (s.setField off hi lo x).capPoison = s.capPoison := rfl
@[simp] theorem setField_bars (s : State) (off hi lo x : Nat) : (s.setField off hi lo x).bars = s.bars := rfl
@[simp] theorem setField_pri (s : State) (off hi lo x : Nat) : (s.setField off hi lo x).pri = s.pri := rfl
@[simp] theorem setField_priWrite (s : State) (off hi lo x : Nat) : (s.setField off hi lo x).priWrite = s.priWrite := rfl
@[simp] theorem setField_hostQ (s : State) (off hi lo x : Nat) : (s.setField off hi lo x).hostQ = s.hostQ := rfl
@[simp] theorem setField_noAtomics (s : State) (off hi lo x : Nat) : (s.setField off hi lo x).noAtomics = s.noAtomics := rfl
@[simp] theorem setField_cores (s : State) (off hi lo x : Nat) : (s.setField off hi lo x).cores = s.cores := rfl
@[simp] theorem setField_dies (s : State) (off hi lo x : Nat) : (s.setField off hi lo x).dies = s.dies := rfl
@[simp] theorem setField_routers (s : State) (off hi lo x : Nat) : (s.setField off hi lo x).routers = s.routers := rfl
@[simp] theorem setField_links (s : State) (off hi lo x : Nat) : (s.setField off hi lo x).links = s.links := rfl
@[simp] theorem setField_launches (s : State) (off hi lo x : Nat) : (s.setField off hi lo x).launches = s.launches := rfl
@[simp] theorem setField_nextLaunch (s : State) (off hi lo x : Nat) : (s.setField off hi lo x).nextLaunch = s.nextLaunch := rfl
@[simp] theorem setField_hintDrops (s : State) (off hi lo x : Nat) : (s.setField off hi lo x).hintDrops = s.hintDrops := rfl
@[simp] theorem setField_paths (s : State) (off hi lo x : Nat) : (s.setField off hi lo x).paths = s.paths := rfl
@[simp] theorem setField_blockWaits (s : State) (off hi lo x : Nat) : (s.setField off hi lo x).blockWaits = s.blockWaits := rfl
@[simp] theorem setField_rstores (s : State) (off hi lo x : Nat) : (s.setField off hi lo x).rstores = s.rstores := rfl
@[simp] theorem setField_nextRstore (s : State) (off hi lo x : Nat) : (s.setField off hi lo x).nextRstore = s.nextRstore := rfl
@[simp] theorem setField_sequenced (s : State) (off hi lo x : Nat) : (s.setField off hi lo x).sequenced = s.sequenced := rfl
@[simp] theorem setField_rxPaths (s : State) (off hi lo x : Nat) : (s.setField off hi lo x).rxPaths = s.rxPaths := rfl
@[simp] theorem setField_fences (s : State) (off hi lo x : Nat) : (s.setField off hi lo x).fences = s.fences := rfl
@[simp] theorem setField_nextFence (s : State) (off hi lo x : Nat) : (s.setField off hi lo x).nextFence = s.nextFence := rfl
@[simp] theorem setField_colls (s : State) (off hi lo x : Nat) : (s.setField off hi lo x).colls = s.colls := rfl
@[simp] theorem setField_encoders (s : State) (off hi lo x : Nat) : (s.setField off hi lo x).encoders = s.encoders := rfl
@[simp] theorem setField_bitmaps (s : State) (off hi lo x : Nat) : (s.setField off hi lo x).bitmaps = s.bitmaps := rfl
@[simp] theorem setField_nextBitmap (s : State) (off hi lo x : Nat) : (s.setField off hi lo x).nextBitmap = s.nextBitmap := rfl
@[simp] theorem setField_invals (s : State) (off hi lo x : Nat) : (s.setField off hi lo x).invals = s.invals := rfl
@[simp] theorem setField_harvest (s : State) (off hi lo x : Nat) : (s.setField off hi lo x).harvest = s.harvest := rfl
@[simp] theorem setField_retiring (s : State) (off hi lo x : Nat) : (s.setField off hi lo x).retiring = s.retiring := rfl
@[simp] theorem setField_retired (s : State) (off hi lo x : Nat) : (s.setField off hi lo x).retired = s.retired := rfl
@[simp] theorem setField_splitNext (s : State) (off hi lo x : Nat) : (s.setField off hi lo x).splitNext = s.splitNext := rfl
@[simp] theorem setField_mailHello (s : State) (off hi lo x : Nat) : (s.setField off hi lo x).mailHello = s.mailHello := rfl
@[simp] theorem setField_pin (s : State) (off hi lo x : Nat) : (s.setField off hi lo x).pin = s.pin := rfl
@[simp] theorem setField_attest (s : State) (off hi lo x : Nat) : (s.setField off hi lo x).attest = s.attest := rfl
@[simp] theorem setField_flash (s : State) (off hi lo x : Nat) : (s.setField off hi lo x).flash = s.flash := rfl
@[simp] theorem setField_boot (s : State) (off hi lo x : Nat) : (s.setField off hi lo x).boot = s.boot := rfl
@[simp] theorem setField_fatal (s : State) (off hi lo x : Nat) : (s.setField off hi lo x).fatal = s.fatal := rfl
@[simp] theorem setField_agenda (s : State) (off hi lo x : Nat) : (s.setField off hi lo x).agenda = s.agenda := rfl
@[simp] theorem setField_outbox (s : State) (off hi lo x : Nat) : (s.setField off hi lo x).outbox = s.outbox := rfl
@[simp] theorem setField_cc (s : State) (off hi lo x : Nat) : (s.setField off hi lo x).cc = s.cc := rfl
@[simp] theorem setField_cur (s : State) (off hi lo x : Nat) : (s.setField off hi lo x).cur = s.cur := rfl
@[simp] theorem setField_second (s : State) (off hi lo x : Nat) : (s.setField off hi lo x).second = s.second := rfl
@[simp] theorem setField_turn (s : State) (off hi lo x : Nat) : (s.setField off hi lo x).turn = s.turn := rfl
@[simp] theorem setField_free (s : State) (off hi lo x : Nat) : (s.setField off hi lo x).free = s.free := rfl

/-! ### post -/

@[simp] theorem post_product (s : State) (i : Instr) : (s.post i).product = s.product := rfl
@[simp] theorem post_fused (s : State) (i : Instr) : (s.post i).fused = s.fused := rfl
@[simp] theorem post_hbm (s : State) (i : Instr) : (s.post i).hbm = s.hbm := rfl
@[simp] theorem post_hbmPoison (s : State) (i : Instr) : (s.post i).hbmPoison = s.hbmPoison := rfl
@[simp] theorem post_cap (s : State) (i : Instr) : (s.post i).cap = s.cap := rfl
@[simp] theorem post_capPoison (s : State) (i : Instr) : (s.post i).capPoison = s.capPoison := rfl
@[simp] theorem post_ctl (s : State) (i : Instr) : (s.post i).ctl = s.ctl := rfl
@[simp] theorem post_bars (s : State) (i : Instr) : (s.post i).bars = s.bars := rfl
@[simp] theorem post_pri (s : State) (i : Instr) : (s.post i).pri = s.pri := rfl
@[simp] theorem post_priWrite (s : State) (i : Instr) : (s.post i).priWrite = s.priWrite := rfl
@[simp] theorem post_hostQ (s : State) (i : Instr) : (s.post i).hostQ = s.hostQ := rfl
@[simp] theorem post_noAtomics (s : State) (i : Instr) : (s.post i).noAtomics = s.noAtomics := rfl
@[simp] theorem post_cores (s : State) (i : Instr) : (s.post i).cores = s.cores := rfl
@[simp] theorem post_dies (s : State) (i : Instr) : (s.post i).dies = s.dies := rfl
@[simp] theorem post_routers (s : State) (i : Instr) : (s.post i).routers = s.routers := rfl
@[simp] theorem post_links (s : State) (i : Instr) : (s.post i).links = s.links := rfl
@[simp] theorem post_launches (s : State) (i : Instr) : (s.post i).launches = s.launches := rfl
@[simp] theorem post_nextLaunch (s : State) (i : Instr) : (s.post i).nextLaunch = s.nextLaunch := rfl
@[simp] theorem post_hintDrops (s : State) (i : Instr) : (s.post i).hintDrops = s.hintDrops := rfl
@[simp] theorem post_paths (s : State) (i : Instr) : (s.post i).paths = s.paths := rfl
@[simp] theorem post_blockWaits (s : State) (i : Instr) : (s.post i).blockWaits = s.blockWaits := rfl
@[simp] theorem post_rstores (s : State) (i : Instr) : (s.post i).rstores = s.rstores := rfl
@[simp] theorem post_nextRstore (s : State) (i : Instr) : (s.post i).nextRstore = s.nextRstore := rfl
@[simp] theorem post_sequenced (s : State) (i : Instr) : (s.post i).sequenced = s.sequenced := rfl
@[simp] theorem post_rxPaths (s : State) (i : Instr) : (s.post i).rxPaths = s.rxPaths := rfl
@[simp] theorem post_fences (s : State) (i : Instr) : (s.post i).fences = s.fences := rfl
@[simp] theorem post_nextFence (s : State) (i : Instr) : (s.post i).nextFence = s.nextFence := rfl
@[simp] theorem post_colls (s : State) (i : Instr) : (s.post i).colls = s.colls := rfl
@[simp] theorem post_encoders (s : State) (i : Instr) : (s.post i).encoders = s.encoders := rfl
@[simp] theorem post_bitmaps (s : State) (i : Instr) : (s.post i).bitmaps = s.bitmaps := rfl
@[simp] theorem post_nextBitmap (s : State) (i : Instr) : (s.post i).nextBitmap = s.nextBitmap := rfl
@[simp] theorem post_invals (s : State) (i : Instr) : (s.post i).invals = s.invals := rfl
@[simp] theorem post_harvest (s : State) (i : Instr) : (s.post i).harvest = s.harvest := rfl
@[simp] theorem post_retiring (s : State) (i : Instr) : (s.post i).retiring = s.retiring := rfl
@[simp] theorem post_retired (s : State) (i : Instr) : (s.post i).retired = s.retired := rfl
@[simp] theorem post_splitNext (s : State) (i : Instr) : (s.post i).splitNext = s.splitNext := rfl
@[simp] theorem post_mailHello (s : State) (i : Instr) : (s.post i).mailHello = s.mailHello := rfl
@[simp] theorem post_pin (s : State) (i : Instr) : (s.post i).pin = s.pin := rfl
@[simp] theorem post_attest (s : State) (i : Instr) : (s.post i).attest = s.attest := rfl
@[simp] theorem post_flash (s : State) (i : Instr) : (s.post i).flash = s.flash := rfl
@[simp] theorem post_boot (s : State) (i : Instr) : (s.post i).boot = s.boot := rfl
@[simp] theorem post_fatal (s : State) (i : Instr) : (s.post i).fatal = s.fatal := rfl
@[simp] theorem post_outbox (s : State) (i : Instr) : (s.post i).outbox = s.outbox := rfl
@[simp] theorem post_cc (s : State) (i : Instr) : (s.post i).cc = s.cc := rfl
@[simp] theorem post_cur (s : State) (i : Instr) : (s.post i).cur = s.cur := rfl
@[simp] theorem post_second (s : State) (i : Instr) : (s.post i).second = s.second := rfl
@[simp] theorem post_turn (s : State) (i : Instr) : (s.post i).turn = s.turn := rfl
@[simp] theorem post_free (s : State) (i : Instr) : (s.post i).free = s.free := rfl

/-! ### posts -/

@[simp] theorem posts_product (s : State) (is : List Instr) : (s.posts is).product = s.product := rfl
@[simp] theorem posts_fused (s : State) (is : List Instr) : (s.posts is).fused = s.fused := rfl
@[simp] theorem posts_hbm (s : State) (is : List Instr) : (s.posts is).hbm = s.hbm := rfl
@[simp] theorem posts_hbmPoison (s : State) (is : List Instr) : (s.posts is).hbmPoison = s.hbmPoison := rfl
@[simp] theorem posts_cap (s : State) (is : List Instr) : (s.posts is).cap = s.cap := rfl
@[simp] theorem posts_capPoison (s : State) (is : List Instr) : (s.posts is).capPoison = s.capPoison := rfl
@[simp] theorem posts_ctl (s : State) (is : List Instr) : (s.posts is).ctl = s.ctl := rfl
@[simp] theorem posts_bars (s : State) (is : List Instr) : (s.posts is).bars = s.bars := rfl
@[simp] theorem posts_pri (s : State) (is : List Instr) : (s.posts is).pri = s.pri := rfl
@[simp] theorem posts_priWrite (s : State) (is : List Instr) : (s.posts is).priWrite = s.priWrite := rfl
@[simp] theorem posts_hostQ (s : State) (is : List Instr) : (s.posts is).hostQ = s.hostQ := rfl
@[simp] theorem posts_noAtomics (s : State) (is : List Instr) : (s.posts is).noAtomics = s.noAtomics := rfl
@[simp] theorem posts_cores (s : State) (is : List Instr) : (s.posts is).cores = s.cores := rfl
@[simp] theorem posts_dies (s : State) (is : List Instr) : (s.posts is).dies = s.dies := rfl
@[simp] theorem posts_routers (s : State) (is : List Instr) : (s.posts is).routers = s.routers := rfl
@[simp] theorem posts_links (s : State) (is : List Instr) : (s.posts is).links = s.links := rfl
@[simp] theorem posts_launches (s : State) (is : List Instr) : (s.posts is).launches = s.launches := rfl
@[simp] theorem posts_nextLaunch (s : State) (is : List Instr) : (s.posts is).nextLaunch = s.nextLaunch := rfl
@[simp] theorem posts_hintDrops (s : State) (is : List Instr) : (s.posts is).hintDrops = s.hintDrops := rfl
@[simp] theorem posts_paths (s : State) (is : List Instr) : (s.posts is).paths = s.paths := rfl
@[simp] theorem posts_blockWaits (s : State) (is : List Instr) : (s.posts is).blockWaits = s.blockWaits := rfl
@[simp] theorem posts_rstores (s : State) (is : List Instr) : (s.posts is).rstores = s.rstores := rfl
@[simp] theorem posts_nextRstore (s : State) (is : List Instr) : (s.posts is).nextRstore = s.nextRstore := rfl
@[simp] theorem posts_sequenced (s : State) (is : List Instr) : (s.posts is).sequenced = s.sequenced := rfl
@[simp] theorem posts_rxPaths (s : State) (is : List Instr) : (s.posts is).rxPaths = s.rxPaths := rfl
@[simp] theorem posts_fences (s : State) (is : List Instr) : (s.posts is).fences = s.fences := rfl
@[simp] theorem posts_nextFence (s : State) (is : List Instr) : (s.posts is).nextFence = s.nextFence := rfl
@[simp] theorem posts_colls (s : State) (is : List Instr) : (s.posts is).colls = s.colls := rfl
@[simp] theorem posts_encoders (s : State) (is : List Instr) : (s.posts is).encoders = s.encoders := rfl
@[simp] theorem posts_bitmaps (s : State) (is : List Instr) : (s.posts is).bitmaps = s.bitmaps := rfl
@[simp] theorem posts_nextBitmap (s : State) (is : List Instr) : (s.posts is).nextBitmap = s.nextBitmap := rfl
@[simp] theorem posts_invals (s : State) (is : List Instr) : (s.posts is).invals = s.invals := rfl
@[simp] theorem posts_harvest (s : State) (is : List Instr) : (s.posts is).harvest = s.harvest := rfl
@[simp] theorem posts_retiring (s : State) (is : List Instr) : (s.posts is).retiring = s.retiring := rfl
@[simp] theorem posts_retired (s : State) (is : List Instr) : (s.posts is).retired = s.retired := rfl
@[simp] theorem posts_splitNext (s : State) (is : List Instr) : (s.posts is).splitNext = s.splitNext := rfl
@[simp] theorem posts_mailHello (s : State) (is : List Instr) : (s.posts is).mailHello = s.mailHello := rfl
@[simp] theorem posts_pin (s : State) (is : List Instr) : (s.posts is).pin = s.pin := rfl
@[simp] theorem posts_attest (s : State) (is : List Instr) : (s.posts is).attest = s.attest := rfl
@[simp] theorem posts_flash (s : State) (is : List Instr) : (s.posts is).flash = s.flash := rfl
@[simp] theorem posts_boot (s : State) (is : List Instr) : (s.posts is).boot = s.boot := rfl
@[simp] theorem posts_fatal (s : State) (is : List Instr) : (s.posts is).fatal = s.fatal := rfl
@[simp] theorem posts_outbox (s : State) (is : List Instr) : (s.posts is).outbox = s.outbox := rfl
@[simp] theorem posts_cc (s : State) (is : List Instr) : (s.posts is).cc = s.cc := rfl
@[simp] theorem posts_cur (s : State) (is : List Instr) : (s.posts is).cur = s.cur := rfl
@[simp] theorem posts_second (s : State) (is : List Instr) : (s.posts is).second = s.second := rfl
@[simp] theorem posts_turn (s : State) (is : List Instr) : (s.posts is).turn = s.turn := rfl
@[simp] theorem posts_free (s : State) (is : List Instr) : (s.posts is).free = s.free := rfl

/-! ### emit -/

@[simp] theorem emit_product (s : State) (o : Out) : (s.emit o).product = s.product := rfl
@[simp] theorem emit_fused (s : State) (o : Out) : (s.emit o).fused = s.fused := rfl
@[simp] theorem emit_hbm (s : State) (o : Out) : (s.emit o).hbm = s.hbm := rfl
@[simp] theorem emit_hbmPoison (s : State) (o : Out) : (s.emit o).hbmPoison = s.hbmPoison := rfl
@[simp] theorem emit_cap (s : State) (o : Out) : (s.emit o).cap = s.cap := rfl
@[simp] theorem emit_capPoison (s : State) (o : Out) : (s.emit o).capPoison = s.capPoison := rfl
@[simp] theorem emit_ctl (s : State) (o : Out) : (s.emit o).ctl = s.ctl := rfl
@[simp] theorem emit_bars (s : State) (o : Out) : (s.emit o).bars = s.bars := rfl
@[simp] theorem emit_pri (s : State) (o : Out) : (s.emit o).pri = s.pri := rfl
@[simp] theorem emit_priWrite (s : State) (o : Out) : (s.emit o).priWrite = s.priWrite := rfl
@[simp] theorem emit_hostQ (s : State) (o : Out) : (s.emit o).hostQ = s.hostQ := rfl
@[simp] theorem emit_noAtomics (s : State) (o : Out) : (s.emit o).noAtomics = s.noAtomics := rfl
@[simp] theorem emit_cores (s : State) (o : Out) : (s.emit o).cores = s.cores := rfl
@[simp] theorem emit_dies (s : State) (o : Out) : (s.emit o).dies = s.dies := rfl
@[simp] theorem emit_routers (s : State) (o : Out) : (s.emit o).routers = s.routers := rfl
@[simp] theorem emit_links (s : State) (o : Out) : (s.emit o).links = s.links := rfl
@[simp] theorem emit_launches (s : State) (o : Out) : (s.emit o).launches = s.launches := rfl
@[simp] theorem emit_nextLaunch (s : State) (o : Out) : (s.emit o).nextLaunch = s.nextLaunch := rfl
@[simp] theorem emit_hintDrops (s : State) (o : Out) : (s.emit o).hintDrops = s.hintDrops := rfl
@[simp] theorem emit_paths (s : State) (o : Out) : (s.emit o).paths = s.paths := rfl
@[simp] theorem emit_blockWaits (s : State) (o : Out) : (s.emit o).blockWaits = s.blockWaits := rfl
@[simp] theorem emit_rstores (s : State) (o : Out) : (s.emit o).rstores = s.rstores := rfl
@[simp] theorem emit_nextRstore (s : State) (o : Out) : (s.emit o).nextRstore = s.nextRstore := rfl
@[simp] theorem emit_sequenced (s : State) (o : Out) : (s.emit o).sequenced = s.sequenced := rfl
@[simp] theorem emit_rxPaths (s : State) (o : Out) : (s.emit o).rxPaths = s.rxPaths := rfl
@[simp] theorem emit_fences (s : State) (o : Out) : (s.emit o).fences = s.fences := rfl
@[simp] theorem emit_nextFence (s : State) (o : Out) : (s.emit o).nextFence = s.nextFence := rfl
@[simp] theorem emit_colls (s : State) (o : Out) : (s.emit o).colls = s.colls := rfl
@[simp] theorem emit_encoders (s : State) (o : Out) : (s.emit o).encoders = s.encoders := rfl
@[simp] theorem emit_bitmaps (s : State) (o : Out) : (s.emit o).bitmaps = s.bitmaps := rfl
@[simp] theorem emit_nextBitmap (s : State) (o : Out) : (s.emit o).nextBitmap = s.nextBitmap := rfl
@[simp] theorem emit_invals (s : State) (o : Out) : (s.emit o).invals = s.invals := rfl
@[simp] theorem emit_harvest (s : State) (o : Out) : (s.emit o).harvest = s.harvest := rfl
@[simp] theorem emit_retiring (s : State) (o : Out) : (s.emit o).retiring = s.retiring := rfl
@[simp] theorem emit_retired (s : State) (o : Out) : (s.emit o).retired = s.retired := rfl
@[simp] theorem emit_splitNext (s : State) (o : Out) : (s.emit o).splitNext = s.splitNext := rfl
@[simp] theorem emit_mailHello (s : State) (o : Out) : (s.emit o).mailHello = s.mailHello := rfl
@[simp] theorem emit_pin (s : State) (o : Out) : (s.emit o).pin = s.pin := rfl
@[simp] theorem emit_attest (s : State) (o : Out) : (s.emit o).attest = s.attest := rfl
@[simp] theorem emit_flash (s : State) (o : Out) : (s.emit o).flash = s.flash := rfl
@[simp] theorem emit_boot (s : State) (o : Out) : (s.emit o).boot = s.boot := rfl
@[simp] theorem emit_fatal (s : State) (o : Out) : (s.emit o).fatal = s.fatal := rfl
@[simp] theorem emit_agenda (s : State) (o : Out) : (s.emit o).agenda = s.agenda := rfl
@[simp] theorem emit_cc (s : State) (o : Out) : (s.emit o).cc = s.cc := rfl
@[simp] theorem emit_cur (s : State) (o : Out) : (s.emit o).cur = s.cur := rfl
@[simp] theorem emit_second (s : State) (o : Out) : (s.emit o).second = s.second := rfl
@[simp] theorem emit_turn (s : State) (o : Out) : (s.emit o).turn = s.turn := rfl
@[simp] theorem emit_free (s : State) (o : Out) : (s.emit o).free = s.free := rfl

/-! ### advance -/

@[simp] theorem advance_product (s : State) (x : Ctx) : (s.advance x).product = s.product := rfl
@[simp] theorem advance_fused (s : State) (x : Ctx) : (s.advance x).fused = s.fused := rfl
@[simp] theorem advance_hbm (s : State) (x : Ctx) : (s.advance x).hbm = s.hbm := rfl
@[simp] theorem advance_hbmPoison (s : State) (x : Ctx) : (s.advance x).hbmPoison = s.hbmPoison := rfl
@[simp] theorem advance_cap (s : State) (x : Ctx) : (s.advance x).cap = s.cap := rfl
@[simp] theorem advance_capPoison (s : State) (x : Ctx) : (s.advance x).capPoison = s.capPoison := rfl
@[simp] theorem advance_ctl (s : State) (x : Ctx) : (s.advance x).ctl = s.ctl := rfl
@[simp] theorem advance_bars (s : State) (x : Ctx) : (s.advance x).bars = s.bars := rfl
@[simp] theorem advance_pri (s : State) (x : Ctx) : (s.advance x).pri = s.pri := rfl
@[simp] theorem advance_priWrite (s : State) (x : Ctx) : (s.advance x).priWrite = s.priWrite := rfl
@[simp] theorem advance_hostQ (s : State) (x : Ctx) : (s.advance x).hostQ = s.hostQ := rfl
@[simp] theorem advance_noAtomics (s : State) (x : Ctx) : (s.advance x).noAtomics = s.noAtomics := rfl
@[simp] theorem advance_dies (s : State) (x : Ctx) : (s.advance x).dies = s.dies := rfl
@[simp] theorem advance_routers (s : State) (x : Ctx) : (s.advance x).routers = s.routers := rfl
@[simp] theorem advance_links (s : State) (x : Ctx) : (s.advance x).links = s.links := rfl
@[simp] theorem advance_launches (s : State) (x : Ctx) : (s.advance x).launches = s.launches := rfl
@[simp] theorem advance_nextLaunch (s : State) (x : Ctx) : (s.advance x).nextLaunch = s.nextLaunch := rfl
@[simp] theorem advance_hintDrops (s : State) (x : Ctx) : (s.advance x).hintDrops = s.hintDrops := rfl
@[simp] theorem advance_paths (s : State) (x : Ctx) : (s.advance x).paths = s.paths := rfl
@[simp] theorem advance_blockWaits (s : State) (x : Ctx) : (s.advance x).blockWaits = s.blockWaits := rfl
@[simp] theorem advance_rstores (s : State) (x : Ctx) : (s.advance x).rstores = s.rstores := rfl
@[simp] theorem advance_nextRstore (s : State) (x : Ctx) : (s.advance x).nextRstore = s.nextRstore := rfl
@[simp] theorem advance_sequenced (s : State) (x : Ctx) : (s.advance x).sequenced = s.sequenced := rfl
@[simp] theorem advance_rxPaths (s : State) (x : Ctx) : (s.advance x).rxPaths = s.rxPaths := rfl
@[simp] theorem advance_fences (s : State) (x : Ctx) : (s.advance x).fences = s.fences := rfl
@[simp] theorem advance_nextFence (s : State) (x : Ctx) : (s.advance x).nextFence = s.nextFence := rfl
@[simp] theorem advance_colls (s : State) (x : Ctx) : (s.advance x).colls = s.colls := rfl
@[simp] theorem advance_encoders (s : State) (x : Ctx) : (s.advance x).encoders = s.encoders := rfl
@[simp] theorem advance_bitmaps (s : State) (x : Ctx) : (s.advance x).bitmaps = s.bitmaps := rfl
@[simp] theorem advance_nextBitmap (s : State) (x : Ctx) : (s.advance x).nextBitmap = s.nextBitmap := rfl
@[simp] theorem advance_invals (s : State) (x : Ctx) : (s.advance x).invals = s.invals := rfl
@[simp] theorem advance_harvest (s : State) (x : Ctx) : (s.advance x).harvest = s.harvest := rfl
@[simp] theorem advance_retiring (s : State) (x : Ctx) : (s.advance x).retiring = s.retiring := rfl
@[simp] theorem advance_retired (s : State) (x : Ctx) : (s.advance x).retired = s.retired := rfl
@[simp] theorem advance_splitNext (s : State) (x : Ctx) : (s.advance x).splitNext = s.splitNext := rfl
@[simp] theorem advance_mailHello (s : State) (x : Ctx) : (s.advance x).mailHello = s.mailHello := rfl
@[simp] theorem advance_pin (s : State) (x : Ctx) : (s.advance x).pin = s.pin := rfl
@[simp] theorem advance_attest (s : State) (x : Ctx) : (s.advance x).attest = s.attest := rfl
@[simp] theorem advance_flash (s : State) (x : Ctx) : (s.advance x).flash = s.flash := rfl
@[simp] theorem advance_boot (s : State) (x : Ctx) : (s.advance x).boot = s.boot := rfl
@[simp] theorem advance_fatal (s : State) (x : Ctx) : (s.advance x).fatal = s.fatal := rfl
@[simp] theorem advance_agenda (s : State) (x : Ctx) : (s.advance x).agenda = s.agenda := rfl
@[simp] theorem advance_outbox (s : State) (x : Ctx) : (s.advance x).outbox = s.outbox := rfl
@[simp] theorem advance_cc (s : State) (x : Ctx) : (s.advance x).cc = s.cc := rfl
@[simp] theorem advance_cur (s : State) (x : Ctx) : (s.advance x).cur = s.cur := rfl
@[simp] theorem advance_second (s : State) (x : Ctx) : (s.advance x).second = s.second := rfl
@[simp] theorem advance_turn (s : State) (x : Ctx) : (s.advance x).turn = s.turn := rfl
@[simp] theorem advance_free (s : State) (x : Ctx) : (s.advance x).free = s.free := rfl

/-! ### waitAt -/

@[simp] theorem waitAt_product (s : State) (x : Ctx) (w : Wait) : (s.waitAt x w).product = s.product := rfl
@[simp] theorem waitAt_fused (s : State) (x : Ctx) (w : Wait) : (s.waitAt x w).fused = s.fused := rfl
@[simp] theorem waitAt_hbm (s : State) (x : Ctx) (w : Wait) : (s.waitAt x w).hbm = s.hbm := rfl
@[simp] theorem waitAt_hbmPoison (s : State) (x : Ctx) (w : Wait) : (s.waitAt x w).hbmPoison = s.hbmPoison := rfl
@[simp] theorem waitAt_cap (s : State) (x : Ctx) (w : Wait) : (s.waitAt x w).cap = s.cap := rfl
@[simp] theorem waitAt_capPoison (s : State) (x : Ctx) (w : Wait) : (s.waitAt x w).capPoison = s.capPoison := rfl
@[simp] theorem waitAt_ctl (s : State) (x : Ctx) (w : Wait) : (s.waitAt x w).ctl = s.ctl := rfl
@[simp] theorem waitAt_bars (s : State) (x : Ctx) (w : Wait) : (s.waitAt x w).bars = s.bars := rfl
@[simp] theorem waitAt_pri (s : State) (x : Ctx) (w : Wait) : (s.waitAt x w).pri = s.pri := rfl
@[simp] theorem waitAt_priWrite (s : State) (x : Ctx) (w : Wait) : (s.waitAt x w).priWrite = s.priWrite := rfl
@[simp] theorem waitAt_hostQ (s : State) (x : Ctx) (w : Wait) : (s.waitAt x w).hostQ = s.hostQ := rfl
@[simp] theorem waitAt_noAtomics (s : State) (x : Ctx) (w : Wait) : (s.waitAt x w).noAtomics = s.noAtomics := rfl
@[simp] theorem waitAt_dies (s : State) (x : Ctx) (w : Wait) : (s.waitAt x w).dies = s.dies := rfl
@[simp] theorem waitAt_routers (s : State) (x : Ctx) (w : Wait) : (s.waitAt x w).routers = s.routers := rfl
@[simp] theorem waitAt_links (s : State) (x : Ctx) (w : Wait) : (s.waitAt x w).links = s.links := rfl
@[simp] theorem waitAt_launches (s : State) (x : Ctx) (w : Wait) : (s.waitAt x w).launches = s.launches := rfl
@[simp] theorem waitAt_nextLaunch (s : State) (x : Ctx) (w : Wait) : (s.waitAt x w).nextLaunch = s.nextLaunch := rfl
@[simp] theorem waitAt_hintDrops (s : State) (x : Ctx) (w : Wait) : (s.waitAt x w).hintDrops = s.hintDrops := rfl
@[simp] theorem waitAt_paths (s : State) (x : Ctx) (w : Wait) : (s.waitAt x w).paths = s.paths := rfl
@[simp] theorem waitAt_blockWaits (s : State) (x : Ctx) (w : Wait) : (s.waitAt x w).blockWaits = s.blockWaits := rfl
@[simp] theorem waitAt_rstores (s : State) (x : Ctx) (w : Wait) : (s.waitAt x w).rstores = s.rstores := rfl
@[simp] theorem waitAt_nextRstore (s : State) (x : Ctx) (w : Wait) : (s.waitAt x w).nextRstore = s.nextRstore := rfl
@[simp] theorem waitAt_sequenced (s : State) (x : Ctx) (w : Wait) : (s.waitAt x w).sequenced = s.sequenced := rfl
@[simp] theorem waitAt_rxPaths (s : State) (x : Ctx) (w : Wait) : (s.waitAt x w).rxPaths = s.rxPaths := rfl
@[simp] theorem waitAt_fences (s : State) (x : Ctx) (w : Wait) : (s.waitAt x w).fences = s.fences := rfl
@[simp] theorem waitAt_nextFence (s : State) (x : Ctx) (w : Wait) : (s.waitAt x w).nextFence = s.nextFence := rfl
@[simp] theorem waitAt_colls (s : State) (x : Ctx) (w : Wait) : (s.waitAt x w).colls = s.colls := rfl
@[simp] theorem waitAt_encoders (s : State) (x : Ctx) (w : Wait) : (s.waitAt x w).encoders = s.encoders := rfl
@[simp] theorem waitAt_bitmaps (s : State) (x : Ctx) (w : Wait) : (s.waitAt x w).bitmaps = s.bitmaps := rfl
@[simp] theorem waitAt_nextBitmap (s : State) (x : Ctx) (w : Wait) : (s.waitAt x w).nextBitmap = s.nextBitmap := rfl
@[simp] theorem waitAt_invals (s : State) (x : Ctx) (w : Wait) : (s.waitAt x w).invals = s.invals := rfl
@[simp] theorem waitAt_harvest (s : State) (x : Ctx) (w : Wait) : (s.waitAt x w).harvest = s.harvest := rfl
@[simp] theorem waitAt_retiring (s : State) (x : Ctx) (w : Wait) : (s.waitAt x w).retiring = s.retiring := rfl
@[simp] theorem waitAt_retired (s : State) (x : Ctx) (w : Wait) : (s.waitAt x w).retired = s.retired := rfl
@[simp] theorem waitAt_splitNext (s : State) (x : Ctx) (w : Wait) : (s.waitAt x w).splitNext = s.splitNext := rfl
@[simp] theorem waitAt_mailHello (s : State) (x : Ctx) (w : Wait) : (s.waitAt x w).mailHello = s.mailHello := rfl
@[simp] theorem waitAt_pin (s : State) (x : Ctx) (w : Wait) : (s.waitAt x w).pin = s.pin := rfl
@[simp] theorem waitAt_attest (s : State) (x : Ctx) (w : Wait) : (s.waitAt x w).attest = s.attest := rfl
@[simp] theorem waitAt_flash (s : State) (x : Ctx) (w : Wait) : (s.waitAt x w).flash = s.flash := rfl
@[simp] theorem waitAt_boot (s : State) (x : Ctx) (w : Wait) : (s.waitAt x w).boot = s.boot := rfl
@[simp] theorem waitAt_fatal (s : State) (x : Ctx) (w : Wait) : (s.waitAt x w).fatal = s.fatal := rfl
@[simp] theorem waitAt_agenda (s : State) (x : Ctx) (w : Wait) : (s.waitAt x w).agenda = s.agenda := rfl
@[simp] theorem waitAt_outbox (s : State) (x : Ctx) (w : Wait) : (s.waitAt x w).outbox = s.outbox := rfl
@[simp] theorem waitAt_cc (s : State) (x : Ctx) (w : Wait) : (s.waitAt x w).cc = s.cc := rfl
@[simp] theorem waitAt_cur (s : State) (x : Ctx) (w : Wait) : (s.waitAt x w).cur = s.cur := rfl
@[simp] theorem waitAt_second (s : State) (x : Ctx) (w : Wait) : (s.waitAt x w).second = s.second := rfl
@[simp] theorem waitAt_turn (s : State) (x : Ctx) (w : Wait) : (s.waitAt x w).turn = s.turn := rfl
@[simp] theorem waitAt_free (s : State) (x : Ctx) (w : Wait) : (s.waitAt x w).free = s.free := rfl

/-! ### writeS -/

@[simp] theorem writeS_product (s : State) (x : Ctx) (d : Nat) (w : Word) : (s.writeS x d w).product = s.product := rfl
@[simp] theorem writeS_fused (s : State) (x : Ctx) (d : Nat) (w : Word) : (s.writeS x d w).fused = s.fused := rfl
@[simp] theorem writeS_hbm (s : State) (x : Ctx) (d : Nat) (w : Word) : (s.writeS x d w).hbm = s.hbm := rfl
@[simp] theorem writeS_hbmPoison (s : State) (x : Ctx) (d : Nat) (w : Word) : (s.writeS x d w).hbmPoison = s.hbmPoison := rfl
@[simp] theorem writeS_cap (s : State) (x : Ctx) (d : Nat) (w : Word) : (s.writeS x d w).cap = s.cap := rfl
@[simp] theorem writeS_capPoison (s : State) (x : Ctx) (d : Nat) (w : Word) : (s.writeS x d w).capPoison = s.capPoison := rfl
@[simp] theorem writeS_ctl (s : State) (x : Ctx) (d : Nat) (w : Word) : (s.writeS x d w).ctl = s.ctl := rfl
@[simp] theorem writeS_bars (s : State) (x : Ctx) (d : Nat) (w : Word) : (s.writeS x d w).bars = s.bars := rfl
@[simp] theorem writeS_pri (s : State) (x : Ctx) (d : Nat) (w : Word) : (s.writeS x d w).pri = s.pri := rfl
@[simp] theorem writeS_priWrite (s : State) (x : Ctx) (d : Nat) (w : Word) : (s.writeS x d w).priWrite = s.priWrite := rfl
@[simp] theorem writeS_hostQ (s : State) (x : Ctx) (d : Nat) (w : Word) : (s.writeS x d w).hostQ = s.hostQ := rfl
@[simp] theorem writeS_noAtomics (s : State) (x : Ctx) (d : Nat) (w : Word) : (s.writeS x d w).noAtomics = s.noAtomics := rfl
@[simp] theorem writeS_dies (s : State) (x : Ctx) (d : Nat) (w : Word) : (s.writeS x d w).dies = s.dies := rfl
@[simp] theorem writeS_routers (s : State) (x : Ctx) (d : Nat) (w : Word) : (s.writeS x d w).routers = s.routers := rfl
@[simp] theorem writeS_links (s : State) (x : Ctx) (d : Nat) (w : Word) : (s.writeS x d w).links = s.links := rfl
@[simp] theorem writeS_launches (s : State) (x : Ctx) (d : Nat) (w : Word) : (s.writeS x d w).launches = s.launches := rfl
@[simp] theorem writeS_nextLaunch (s : State) (x : Ctx) (d : Nat) (w : Word) : (s.writeS x d w).nextLaunch = s.nextLaunch := rfl
@[simp] theorem writeS_hintDrops (s : State) (x : Ctx) (d : Nat) (w : Word) : (s.writeS x d w).hintDrops = s.hintDrops := rfl
@[simp] theorem writeS_paths (s : State) (x : Ctx) (d : Nat) (w : Word) : (s.writeS x d w).paths = s.paths := rfl
@[simp] theorem writeS_blockWaits (s : State) (x : Ctx) (d : Nat) (w : Word) : (s.writeS x d w).blockWaits = s.blockWaits := rfl
@[simp] theorem writeS_rstores (s : State) (x : Ctx) (d : Nat) (w : Word) : (s.writeS x d w).rstores = s.rstores := rfl
@[simp] theorem writeS_nextRstore (s : State) (x : Ctx) (d : Nat) (w : Word) : (s.writeS x d w).nextRstore = s.nextRstore := rfl
@[simp] theorem writeS_sequenced (s : State) (x : Ctx) (d : Nat) (w : Word) : (s.writeS x d w).sequenced = s.sequenced := rfl
@[simp] theorem writeS_rxPaths (s : State) (x : Ctx) (d : Nat) (w : Word) : (s.writeS x d w).rxPaths = s.rxPaths := rfl
@[simp] theorem writeS_fences (s : State) (x : Ctx) (d : Nat) (w : Word) : (s.writeS x d w).fences = s.fences := rfl
@[simp] theorem writeS_nextFence (s : State) (x : Ctx) (d : Nat) (w : Word) : (s.writeS x d w).nextFence = s.nextFence := rfl
@[simp] theorem writeS_colls (s : State) (x : Ctx) (d : Nat) (w : Word) : (s.writeS x d w).colls = s.colls := rfl
@[simp] theorem writeS_encoders (s : State) (x : Ctx) (d : Nat) (w : Word) : (s.writeS x d w).encoders = s.encoders := rfl
@[simp] theorem writeS_bitmaps (s : State) (x : Ctx) (d : Nat) (w : Word) : (s.writeS x d w).bitmaps = s.bitmaps := rfl
@[simp] theorem writeS_nextBitmap (s : State) (x : Ctx) (d : Nat) (w : Word) : (s.writeS x d w).nextBitmap = s.nextBitmap := rfl
@[simp] theorem writeS_invals (s : State) (x : Ctx) (d : Nat) (w : Word) : (s.writeS x d w).invals = s.invals := rfl
@[simp] theorem writeS_harvest (s : State) (x : Ctx) (d : Nat) (w : Word) : (s.writeS x d w).harvest = s.harvest := rfl
@[simp] theorem writeS_retiring (s : State) (x : Ctx) (d : Nat) (w : Word) : (s.writeS x d w).retiring = s.retiring := rfl
@[simp] theorem writeS_retired (s : State) (x : Ctx) (d : Nat) (w : Word) : (s.writeS x d w).retired = s.retired := rfl
@[simp] theorem writeS_splitNext (s : State) (x : Ctx) (d : Nat) (w : Word) : (s.writeS x d w).splitNext = s.splitNext := rfl
@[simp] theorem writeS_mailHello (s : State) (x : Ctx) (d : Nat) (w : Word) : (s.writeS x d w).mailHello = s.mailHello := rfl
@[simp] theorem writeS_pin (s : State) (x : Ctx) (d : Nat) (w : Word) : (s.writeS x d w).pin = s.pin := rfl
@[simp] theorem writeS_attest (s : State) (x : Ctx) (d : Nat) (w : Word) : (s.writeS x d w).attest = s.attest := rfl
@[simp] theorem writeS_flash (s : State) (x : Ctx) (d : Nat) (w : Word) : (s.writeS x d w).flash = s.flash := rfl
@[simp] theorem writeS_boot (s : State) (x : Ctx) (d : Nat) (w : Word) : (s.writeS x d w).boot = s.boot := rfl
@[simp] theorem writeS_fatal (s : State) (x : Ctx) (d : Nat) (w : Word) : (s.writeS x d w).fatal = s.fatal := rfl
@[simp] theorem writeS_agenda (s : State) (x : Ctx) (d : Nat) (w : Word) : (s.writeS x d w).agenda = s.agenda := rfl
@[simp] theorem writeS_outbox (s : State) (x : Ctx) (d : Nat) (w : Word) : (s.writeS x d w).outbox = s.outbox := rfl
@[simp] theorem writeS_cc (s : State) (x : Ctx) (d : Nat) (w : Word) : (s.writeS x d w).cc = s.cc := rfl
@[simp] theorem writeS_cur (s : State) (x : Ctx) (d : Nat) (w : Word) : (s.writeS x d w).cur = s.cur := rfl
@[simp] theorem writeS_second (s : State) (x : Ctx) (d : Nat) (w : Word) : (s.writeS x d w).second = s.second := rfl
@[simp] theorem writeS_turn (s : State) (x : Ctx) (d : Nat) (w : Word) : (s.writeS x d w).turn = s.turn := rfl
@[simp] theorem writeS_free (s : State) (x : Ctx) (d : Nat) (w : Word) : (s.writeS x d w).free = s.free := rfl

/-! ### writeLanes -/

@[simp] theorem writeLanes_product (s : State) (x : Ctx) (ls : Word) (d : VReg) (f : Nat → Word) : (s.writeLanes x ls d f).product = s.product := rfl
@[simp] theorem writeLanes_fused (s : State) (x : Ctx) (ls : Word) (d : VReg) (f : Nat → Word) : (s.writeLanes x ls d f).fused = s.fused := rfl
@[simp] theorem writeLanes_hbm (s : State) (x : Ctx) (ls : Word) (d : VReg) (f : Nat → Word) : (s.writeLanes x ls d f).hbm = s.hbm := rfl
@[simp] theorem writeLanes_hbmPoison (s : State) (x : Ctx) (ls : Word) (d : VReg) (f : Nat → Word) : (s.writeLanes x ls d f).hbmPoison = s.hbmPoison := rfl
@[simp] theorem writeLanes_cap (s : State) (x : Ctx) (ls : Word) (d : VReg) (f : Nat → Word) : (s.writeLanes x ls d f).cap = s.cap := rfl
@[simp] theorem writeLanes_capPoison (s : State) (x : Ctx) (ls : Word) (d : VReg) (f : Nat → Word) : (s.writeLanes x ls d f).capPoison = s.capPoison := rfl
@[simp] theorem writeLanes_ctl (s : State) (x : Ctx) (ls : Word) (d : VReg) (f : Nat → Word) : (s.writeLanes x ls d f).ctl = s.ctl := rfl
@[simp] theorem writeLanes_bars (s : State) (x : Ctx) (ls : Word) (d : VReg) (f : Nat → Word) : (s.writeLanes x ls d f).bars = s.bars := rfl
@[simp] theorem writeLanes_pri (s : State) (x : Ctx) (ls : Word) (d : VReg) (f : Nat → Word) : (s.writeLanes x ls d f).pri = s.pri := rfl
@[simp] theorem writeLanes_priWrite (s : State) (x : Ctx) (ls : Word) (d : VReg) (f : Nat → Word) : (s.writeLanes x ls d f).priWrite = s.priWrite := rfl
@[simp] theorem writeLanes_hostQ (s : State) (x : Ctx) (ls : Word) (d : VReg) (f : Nat → Word) : (s.writeLanes x ls d f).hostQ = s.hostQ := rfl
@[simp] theorem writeLanes_noAtomics (s : State) (x : Ctx) (ls : Word) (d : VReg) (f : Nat → Word) : (s.writeLanes x ls d f).noAtomics = s.noAtomics := rfl
@[simp] theorem writeLanes_dies (s : State) (x : Ctx) (ls : Word) (d : VReg) (f : Nat → Word) : (s.writeLanes x ls d f).dies = s.dies := rfl
@[simp] theorem writeLanes_routers (s : State) (x : Ctx) (ls : Word) (d : VReg) (f : Nat → Word) : (s.writeLanes x ls d f).routers = s.routers := rfl
@[simp] theorem writeLanes_links (s : State) (x : Ctx) (ls : Word) (d : VReg) (f : Nat → Word) : (s.writeLanes x ls d f).links = s.links := rfl
@[simp] theorem writeLanes_launches (s : State) (x : Ctx) (ls : Word) (d : VReg) (f : Nat → Word) : (s.writeLanes x ls d f).launches = s.launches := rfl
@[simp] theorem writeLanes_nextLaunch (s : State) (x : Ctx) (ls : Word) (d : VReg) (f : Nat → Word) : (s.writeLanes x ls d f).nextLaunch = s.nextLaunch := rfl
@[simp] theorem writeLanes_hintDrops (s : State) (x : Ctx) (ls : Word) (d : VReg) (f : Nat → Word) : (s.writeLanes x ls d f).hintDrops = s.hintDrops := rfl
@[simp] theorem writeLanes_paths (s : State) (x : Ctx) (ls : Word) (d : VReg) (f : Nat → Word) : (s.writeLanes x ls d f).paths = s.paths := rfl
@[simp] theorem writeLanes_blockWaits (s : State) (x : Ctx) (ls : Word) (d : VReg) (f : Nat → Word) : (s.writeLanes x ls d f).blockWaits = s.blockWaits := rfl
@[simp] theorem writeLanes_rstores (s : State) (x : Ctx) (ls : Word) (d : VReg) (f : Nat → Word) : (s.writeLanes x ls d f).rstores = s.rstores := rfl
@[simp] theorem writeLanes_nextRstore (s : State) (x : Ctx) (ls : Word) (d : VReg) (f : Nat → Word) : (s.writeLanes x ls d f).nextRstore = s.nextRstore := rfl
@[simp] theorem writeLanes_sequenced (s : State) (x : Ctx) (ls : Word) (d : VReg) (f : Nat → Word) : (s.writeLanes x ls d f).sequenced = s.sequenced := rfl
@[simp] theorem writeLanes_rxPaths (s : State) (x : Ctx) (ls : Word) (d : VReg) (f : Nat → Word) : (s.writeLanes x ls d f).rxPaths = s.rxPaths := rfl
@[simp] theorem writeLanes_fences (s : State) (x : Ctx) (ls : Word) (d : VReg) (f : Nat → Word) : (s.writeLanes x ls d f).fences = s.fences := rfl
@[simp] theorem writeLanes_nextFence (s : State) (x : Ctx) (ls : Word) (d : VReg) (f : Nat → Word) : (s.writeLanes x ls d f).nextFence = s.nextFence := rfl
@[simp] theorem writeLanes_colls (s : State) (x : Ctx) (ls : Word) (d : VReg) (f : Nat → Word) : (s.writeLanes x ls d f).colls = s.colls := rfl
@[simp] theorem writeLanes_encoders (s : State) (x : Ctx) (ls : Word) (d : VReg) (f : Nat → Word) : (s.writeLanes x ls d f).encoders = s.encoders := rfl
@[simp] theorem writeLanes_bitmaps (s : State) (x : Ctx) (ls : Word) (d : VReg) (f : Nat → Word) : (s.writeLanes x ls d f).bitmaps = s.bitmaps := rfl
@[simp] theorem writeLanes_nextBitmap (s : State) (x : Ctx) (ls : Word) (d : VReg) (f : Nat → Word) : (s.writeLanes x ls d f).nextBitmap = s.nextBitmap := rfl
@[simp] theorem writeLanes_invals (s : State) (x : Ctx) (ls : Word) (d : VReg) (f : Nat → Word) : (s.writeLanes x ls d f).invals = s.invals := rfl
@[simp] theorem writeLanes_harvest (s : State) (x : Ctx) (ls : Word) (d : VReg) (f : Nat → Word) : (s.writeLanes x ls d f).harvest = s.harvest := rfl
@[simp] theorem writeLanes_retiring (s : State) (x : Ctx) (ls : Word) (d : VReg) (f : Nat → Word) : (s.writeLanes x ls d f).retiring = s.retiring := rfl
@[simp] theorem writeLanes_retired (s : State) (x : Ctx) (ls : Word) (d : VReg) (f : Nat → Word) : (s.writeLanes x ls d f).retired = s.retired := rfl
@[simp] theorem writeLanes_splitNext (s : State) (x : Ctx) (ls : Word) (d : VReg) (f : Nat → Word) : (s.writeLanes x ls d f).splitNext = s.splitNext := rfl
@[simp] theorem writeLanes_mailHello (s : State) (x : Ctx) (ls : Word) (d : VReg) (f : Nat → Word) : (s.writeLanes x ls d f).mailHello = s.mailHello := rfl
@[simp] theorem writeLanes_pin (s : State) (x : Ctx) (ls : Word) (d : VReg) (f : Nat → Word) : (s.writeLanes x ls d f).pin = s.pin := rfl
@[simp] theorem writeLanes_attest (s : State) (x : Ctx) (ls : Word) (d : VReg) (f : Nat → Word) : (s.writeLanes x ls d f).attest = s.attest := rfl
@[simp] theorem writeLanes_flash (s : State) (x : Ctx) (ls : Word) (d : VReg) (f : Nat → Word) : (s.writeLanes x ls d f).flash = s.flash := rfl
@[simp] theorem writeLanes_boot (s : State) (x : Ctx) (ls : Word) (d : VReg) (f : Nat → Word) : (s.writeLanes x ls d f).boot = s.boot := rfl
@[simp] theorem writeLanes_fatal (s : State) (x : Ctx) (ls : Word) (d : VReg) (f : Nat → Word) : (s.writeLanes x ls d f).fatal = s.fatal := rfl
@[simp] theorem writeLanes_agenda (s : State) (x : Ctx) (ls : Word) (d : VReg) (f : Nat → Word) : (s.writeLanes x ls d f).agenda = s.agenda := rfl
@[simp] theorem writeLanes_outbox (s : State) (x : Ctx) (ls : Word) (d : VReg) (f : Nat → Word) : (s.writeLanes x ls d f).outbox = s.outbox := rfl
@[simp] theorem writeLanes_cc (s : State) (x : Ctx) (ls : Word) (d : VReg) (f : Nat → Word) : (s.writeLanes x ls d f).cc = s.cc := rfl
@[simp] theorem writeLanes_cur (s : State) (x : Ctx) (ls : Word) (d : VReg) (f : Nat → Word) : (s.writeLanes x ls d f).cur = s.cur := rfl
@[simp] theorem writeLanes_second (s : State) (x : Ctx) (ls : Word) (d : VReg) (f : Nat → Word) : (s.writeLanes x ls d f).second = s.second := rfl
@[simp] theorem writeLanes_turn (s : State) (x : Ctx) (ls : Word) (d : VReg) (f : Nat → Word) : (s.writeLanes x ls d f).turn = s.turn := rfl
@[simp] theorem writeLanes_free (s : State) (x : Ctx) (ls : Word) (d : VReg) (f : Nat → Word) : (s.writeLanes x ls d f).free = s.free := rfl

end Sys2Proof.Machine.State
end

