-- ==== Sys2Proof/Laws/Storage.lean ====
section
/-! SUPPORT. Numbered records and sparse storage: what a read finds after a write, and that every operation keeps the
canonical form of a storage, in which equal contents are equal lists. -/

namespace Sys2Proof.Machine

/-! ### Numbered records -/

namespace AMap
variable {α : Type}

@[simp] theorem look_nil (k : Nat) : look k ([] : AMap α) = none := rfl

@[simp] theorem look_put (j k : Nat) (x : α) (m : AMap α) : look j (put k x m) = if k = j then some x else look j m := by
  induction m with
  | nil => simp [put, look]
  | cons p t ih => grind [put, look]

@[simp] theorem look_upd (j k : Nat) (f : α → α) (m : AMap α) :
    look j (upd k f m) = if k = j then (look j m).map f else look j m := by
  induction m with
  | nil => simp [upd]
  | cons p t ih =>
    simp only [upd, List.map_cons] at ih ⊢
    grind [look]

@[simp] theorem look_drop (j k : Nat) (m : AMap α) : look j (drop k m) = if k = j then none else look j m := by
  induction m with
  | nil => simp [drop]
  | cons p t ih => grind [drop, look]

theorem mem_of_look {k : Nat} {x : α} {m : AMap α} (h : look k m = some x) : (k, x) ∈ m := by
  induction m with
  | nil => simp at h
  | cons p t ih => grind [look]

/-- A test that every record passes is kept by putting a record that passes it. -/
theorem all_put {p : Nat × α → Bool} {k : Nat} {x : α} {m : AMap α} (hm : m.all p = true) (hx : p (k, x) = true) :
    (put k x m).all p = true := by
  induction m with
  | nil => simpa [put] using hx
  | cons q t ih => grind [put]

theorem all_upd {p : Nat × α → Bool} {k : Nat} {f : α → α} {m : AMap α} (hm : m.all p = true)
    (hf : ∀ x, p (k, x) = true → p (k, f x) = true) : (upd k f m).all p = true := by
  induction m with
  | nil => simp [upd]
  | cons q t ih =>
    simp only [upd, List.map_cons, List.all_cons, Bool.and_eq_true] at hm ih ⊢
    grind

end AMap

/-! ### Sparse storage -/

namespace Mem
variable {n : Nat}

@[simp] theorem get_nil (a : Nat) : get ([] : Mem n) a = 0 := rfl

theorem wfFrom_mono {lo lo' : Nat} {m : Mem n} (h : wfFrom lo m = true) (hl : lo' ≤ lo) : wfFrom lo' m = true := by
  cases m with
  | nil => rfl
  | cons c t => grind [wfFrom]

theorem get_below {lo a : Nat} {m : Mem n} (h : wfFrom lo m = true) (ha : a < lo) : get m a = 0 := by
  induction m generalizing lo with
  | nil => rfl
  | cons c t ih => grind [wfFrom, get]

theorem wfFrom_set {lo a : Nat} {m : Mem n} {v : BitVec n} (h : wfFrom lo m = true) (ha : lo ≤ a) :
    wfFrom lo (set m a v) = true := by
  induction m generalizing lo with
  | nil => grind [wfFrom, set]
  | cons c t ih => grind [wfFrom, set, wfFrom_mono]

/-- Writing a cell keeps the canonical form. -/
@[simp] theorem wf_set {m : Mem n} {a : Nat} {v : BitVec n} (h : wf m = true) : wf (set m a v) = true :=
  wfFrom_set h (Nat.zero_le a)

/-- Writing cells keeps the canonical form. -/
@[simp] theorem wf_write {m : Mem n} {a : Nat} {vs : List (BitVec n)} (h : wf m = true) : wf (write m a vs) = true := by
  induction vs generalizing m a with
  | nil => exact h
  | cons v t ih => exact ih (wf_set h)

theorem wfFrom_filter {lo : Nat} {m : Mem n} {p : Nat × BitVec n → Bool} (h : wfFrom lo m = true) :
    wfFrom lo (m.filter p) = true := by
  induction m generalizing lo with
  | nil => rfl
  | cons c t ih => grind [wfFrom, wfFrom_mono]

/-- Clearing cells keeps the canonical form. -/
@[simp] theorem wf_clear {m : Mem n} {lo hi : Nat} (h : wf m = true) : wf (clear m lo hi) = true := wfFrom_filter h

@[simp] theorem wf_filter {m : Mem n} {p : Nat × BitVec n → Bool} (h : wf m = true) : wf (m.filter p) = true :=
  wfFrom_filter h

theorem get_set_from {lo a b : Nat} {m : Mem n} {v : BitVec n} (h : wfFrom lo m = true) :
    get (set m a v) b = if a = b then v else get m b := by
  induction m generalizing lo with
  | nil => grind [get, set]
  | cons c t ih => grind [wfFrom, get, set, get_below]

/-- A read after a write of one cell: the value written there, and what stood elsewhere. -/
theorem get_set {a b : Nat} {m : Mem n} {v : BitVec n} (h : wf m = true) :
    get (set m a v) b = if a = b then v else get m b := get_set_from h

/-- A read after a write of consecutive cells. -/
theorem get_write {a b : Nat} {m : Mem n} {vs : List (BitVec n)} (h : wf m = true) :
    get (write m a vs) b = if a ≤ b then vs.getD (b - a) (get m b) else get m b := by
  induction vs generalizing m a with
  | nil => simp [write]
  | cons v t ih =>
    rw [write, ih (wf_set h), get_set h]
    rcases Nat.lt_trichotomy a b with hab | hab | hab
    · have e : b - a = (b - (a + 1)) + 1 := by omega
      simp [Nat.ne_of_lt hab, Nat.succ_le_of_lt hab, Nat.le_of_lt hab, e]
    · subst hab; simp
    · simp [Nat.ne_of_gt hab, Nat.not_le_of_gt hab, Nat.not_le_of_gt (Nat.lt_succ_of_lt hab)]

/-- A write leaves every other cell alone. -/
theorem get_write_other {a b : Nat} {m : Mem n} {vs : List (BitVec n)} (h : wf m = true) (hb : b < a ∨ a + vs.length ≤ b) :
    get (write m a vs) b = get m b := by
  rw [get_write h]
  rcases hb with hb | hb
  · simp [Nat.not_le_of_gt hb]
  · have : vs.length ≤ b - a := by omega
    simp [List.getD, List.getElem?_eq_none this]

/-- Reading back what was written. -/
theorem read_write {a : Nat} {m : Mem n} {vs : List (BitVec n)} (h : wf m = true) : read (write m a vs) a vs.length = vs := by
  apply List.ext_getElem
  · simp [read]
  · intro i h1 h2
    simp [read, get_write h, h2]

theorem get_pos_of_mem {lo a : Nat} {m : Mem n} (h : wfFrom lo m = true) (hm : get m a ≠ 0) : lo ≤ a := by
  by_contra hc
  exact hm (get_below h (Nat.lt_of_not_le hc))

theorem ext_from {lo : Nat} {m m' : Mem n} (h : wfFrom lo m = true) (h' : wfFrom lo m' = true)
    (e : ∀ a, get m a = get m' a) : m = m' := by
  induction m generalizing lo m' with
  | nil =>
    cases m' with
    | nil => rfl
    | cons c t =>
      have := e c.1
      grind [wfFrom, get]
  | cons c t ih =>
    cases m' with
    | nil =>
      have := e c.1
      grind [wfFrom, get]
    | cons c' t' =>
      obtain ⟨k, b⟩ := c
      obtain ⟨k', b'⟩ := c'
      simp only [wfFrom, Bool.and_eq_true, decide_eq_true_eq] at h h'
      have hk : k = k' := by
        rcases Nat.lt_trichotomy k k' with hlt | heq | hgt
        · have := e k
          have z : get t' k = 0 := get_below h'.2 (by omega)
          grind [get]
        · exact heq
        · have := e k'
          have z : get t k' = 0 := get_below h.2 (by omega)
          grind [get]
      subst hk
      have hb : b = b' := by simpa [get] using e k
      subst hb
      have ht : t = t' := ih h.2 h'.2 fun a => by
        by_cases ha : k = a
        · subst ha
          rw [get_below h.2 (Nat.lt_succ_self k), get_below h'.2 (Nat.lt_succ_self k)]
        · simpa [get, ha] using e a
      rw [ht]

/-- Equal contents are equal data. -/
theorem ext {m m' : Mem n} (h : wf m = true) (h' : wf m' = true) (e : ∀ a, get m a = get m' a) : m = m' :=
  ext_from h h' e

end Mem

end Sys2Proof.Machine
end

