-- ==== Sys2Proof/Laws/Access.lean ====
section
/-! SUPPORT. What the shared operations answer: reading a unit after a unit was written, performing a word, and the writes of
lane and uniform registers. -/

namespace Sys2Proof.Machine

/-! ### Units -/

namespace State

@[simp] theorem core_setCore (s : State) (c d : Nat) (k : Core) : (s.setCore c k).core d = if c = d then k else s.core d := by
  unfold State.core State.setCore
  dsimp only
  rw [AMap.look_put]
  split <;> rfl

theorem core_modCore (s : State) (c d : Nat) (f : Core → Core) :
    (s.modCore c f).core d = if c = d then f (s.core c) else s.core d := core_setCore _ _ _ _

@[simp] theorem core_modCore_same (s : State) (c : Nat) (f : Core → Core) : (s.modCore c f).core c = f (s.core c) := by
  simp [core_modCore]

@[simp] theorem die_setDie (s : State) (c d : Nat) (x : Die) : (s.setDie c x).die d = if c = d then x else s.die d := by
  unfold State.die State.setDie
  dsimp only
  rw [AMap.look_put]
  split <;> rfl

theorem die_modDie (s : State) (c d : Nat) (f : Die → Die) :
    (s.modDie c f).die d = if c = d then f (s.die c) else s.die d := die_setDie _ _ _ _

@[simp] theorem die_modDie_same (s : State) (d : Nat) (f : Die → Die) : (s.modDie d f).die d = f (s.die d) := by
  simp [die_modDie]

@[simp] theorem core_setDie (s : State) (d c : Nat) (x : Die) : (s.setDie d x).core c = s.core c := rfl
@[simp] theorem core_modDie (s : State) (d c : Nat) (f : Die → Die) : (s.modDie d f).core c = s.core c := rfl
@[simp] theorem die_setCore (s : State) (c d : Nat) (k : Core) : (s.setCore c k).die d = s.die d := rfl
@[simp] theorem die_modCore (s : State) (c d : Nat) (f : Core → Core) : (s.modCore c f).die d = s.die d := rfl
@[simp] theorem core_post (s : State) (i : Instr) (c : Nat) : (s.post i).core c = s.core c := rfl
@[simp] theorem core_posts (s : State) (is : List Instr) (c : Nat) : (s.posts is).core c = s.core c := rfl
@[simp] theorem core_emit (s : State) (o : Out) (c : Nat) : (s.emit o).core c = s.core c := rfl
@[simp] theorem die_post (s : State) (i : Instr) (d : Nat) : (s.post i).die d = s.die d := rfl
@[simp] theorem die_emit (s : State) (o : Out) (d : Nat) : (s.emit o).die d = s.die d := rfl
@[simp] theorem core_setCtl (s : State) (off : Nat) (v : DWord) (c : Nat) : (s.setCtl off v).core c = s.core c := rfl
@[simp] theorem core_setField (s : State) (off hi lo x c : Nat) : (s.setField off hi lo x).core c = s.core c := rfl

/-- A group after an update of it. -/
theorem group?_modGroup (s : State) (c gid : Nat) (f : Group → Group) :
    (s.modGroup c gid f).group? c gid = (s.group? c gid).map f := by
  unfold State.group? State.modGroup
  rw [core_modCore_same]
  simp

theorem group_modGroup {s : State} {c gid : Nat} {g : Group} (h : s.group? c gid = some g) (f : Group → Group) :
    (s.modGroup c gid f).group c gid = f g := by
  unfold State.group
  rw [group?_modGroup, h]
  rfl

/-- A control register field read after it was written. -/
theorem ctlQ_setCtl (s : State) (a b : Nat) (v : DWord) : (s.setCtl a v).ctlQ b = if a = b then v else s.ctlQ b := by
  unfold State.ctlQ State.setCtl
  dsimp only
  rw [AMap.look_put]
  split <;> rfl

end State

/-! ### Performing a word -/

/-- A lane word is barred on no base set, and another word nowhere. -/
theorem barred_of_lane {i : Instr} {gid : Nat} (hl : i.laneOnly = true → gid < 512) : i.barred gid = false := by
  unfold Instr.barred
  cases h : i.laneOnly with
  | false => rfl
  | true =>
    have : ¬ 512 ≤ gid := by have := hl h; omega
    simp [this]

/-- A word whose bundle is there, on a thread that it is an instruction for and with its registers held, is its meaning. -/
theorem run_eq {i : Instr} {s : State} {x : Ctx} (hx : s.ctx? = some x) (hl : i.laneOnly = true → x.gid < 512)
    (hv : unheld x.g x.gid i.vregs = []) (body : Ctx → State → Res) : run i body s = .next (s.finish x (body x s)) := by
  unfold run perform
  rw [hx]
  have h : i.barred x.gid = false := barred_of_lane hl
  simp only [h, Bool.false_eq_true, if_false, hv]

/-- The group of the bundle that performs, with the masks as they were at the issue. -/
theorem ctx_group {s : State} {x : Ctx} (hx : s.ctx? = some x) :
    ∃ g, s.group? x.core x.gid = some g ∧ x.g = { g with masks := x.g.masks, awl := x.g.awl } := by
  unfold State.ctx? at hx
  split at hx
  · cases hx
  · split at hx
    · cases hx
    · rename_i g hg
      cases hx
      exact ⟨g, hg, by dsimp only; split <;> rfl⟩

/-- A register whose range is held has a row. -/
theorem vRow_of_held {g : Group} {gid r : Nat} {vs : List Nat} (h : unheld g gid vs = []) (hg : gid < 512) (hr : r ∈ vs) :
    ∃ row, g.vRow gid r = some row := by
  unfold unheld at h
  rw [if_pos (Or.inl hg)] at h
  cases e : g.vRow gid r with
  | some row => exact ⟨row, rfl⟩
  | none =>
    have : r / 16 ∈ ((vs.filter fun r => (g.vRow gid r).isNone).map fun r => r / 16).dedup := by
      rw [List.mem_dedup, List.mem_map]
      exact ⟨r, List.mem_filter.2 ⟨hr, by simp [e]⟩, rfl⟩
    rw [h] at this
    cases this

/-! ### Register writes -/

theorem mem_lanesOf {m : Word} {l : Nat} : l ∈ lanesOf m ↔ m.getLsbD l = true := by
  unfold lanesOf
  rw [List.mem_filter, List.mem_range]
  refine ⟨fun h => h.2, fun h => ⟨?_, h⟩⟩
  by_contra hl
  rw [BitVec.getLsbD_of_ge _ _ (by omega)] at h
  cases h

theorem lanesOf_lt {m : Word} {l : Nat} (h : l ∈ lanesOf m) : l < 32 := List.mem_range.1 (List.mem_filter.1 h).1

/-- Writing one register of some lanes: the register file and nothing else, one word of the row in each lane. -/
theorem putLanes_spec (k : Core) (g : Group) (gid d : Nat) (row : Nat) (hrow : g.vRow gid d = some row) (f : Nat → Word)
    (ls : List Nat) (hls : ∀ l ∈ ls, l < 32) (hk : Mem.wf (n := 32) k.rf = true) :
    ∃ rf, k.putLanes g gid ls d 1 (fun l _ => f l) = { k with rf } ∧ Mem.wf (n := 32) rf = true ∧
      ∀ a, Mem.get (n := 32) rf a = if a / 32 = row ∧ a % 32 ∈ ls then f (a % 32) else Mem.get (n := 32) k.rf a := by
  unfold Core.putLanes
  simp only [List.range_one, List.foldl_cons, List.foldl_nil, Nat.add_zero]
  induction ls generalizing k with
  | nil => exact ⟨k.rf, rfl, hk, fun a => by simp⟩
  | cons l t ih =>
    have hl : l < 32 := hls l (by simp)
    have e : k.setV g gid d l (f l) = { k with rf := k.rf.set (row * 32 + l) (f l) } := by
      unfold Core.setV
      rw [hrow]
    rw [List.foldl_cons, e]
    obtain ⟨rf, h1, h2, h3⟩ := ih { k with rf := k.rf.set (row * 32 + l) (f l) } (fun j hj => hls j (by simp [hj])) (Mem.wf_set hk)
    refine ⟨rf, h1, h2, fun a => ?_⟩
    rw [h3 a]
    dsimp only
    rw [Mem.get_set hk]
    by_cases ha : a / 32 = row
    · by_cases hat : a % 32 ∈ t
      · simp [ha, hat]
      · by_cases hal : a % 32 = l
        · have : row * 32 + l = a := by omega
          simp [ha, hal, this]
        · have : row * 32 + l ≠ a := by omega
          simp [hat, hal, this]
    · have : row * 32 + l ≠ a := by omega
      simp [ha, this]

/-- Writing one lane register: exactly the lanes of the mask change. -/
theorem writeLanes_spec (s : State) (x : Ctx) (lanes : Word) (d : VReg) (f : Nat → Word) {row : Nat}
    (hrow : x.g.vRow x.gid d.toNat = some row) (hk : Mem.wf (n := 32) (s.core x.core).rf = true) :
    ∃ rf, s.writeLanes x lanes d f = s.setCore x.core { s.core x.core with rf } ∧ Mem.wf (n := 32) rf = true ∧
      ∀ a, Mem.get (n := 32) rf a =
        if a / 32 = row ∧ lanes.getLsbD (a % 32) = true then f (a % 32) else Mem.get (n := 32) (s.core x.core).rf a := by
  obtain ⟨rf, h1, h2, h3⟩ := putLanes_spec (s.core x.core) x.g x.gid d.toNat row hrow f (lanesOf lanes)
    (fun _ h => lanesOf_lt h) hk
  refine ⟨rf, ?_, h2, fun a => ?_⟩
  · exact congrArg (s.setCore x.core) h1
  · rw [h3 a]
    simp only [mem_lanesOf]

end Sys2Proof.Machine
end

