-- ==== Sys2Proof/Laws/Canon.lean ====
section
/-! SUPPORT. The canonical form of storage (`State.memWf`): what it says of each storage, and that the basic updates keep it. -/

namespace Sys2Proof.Machine

/-! ### Cores -/

@[simp ↓] theorem Core.rf_wf {k : Core} (h : k.memWf = true) : Mem.wf k.rf = true := by simp_all [Core.memWf]
@[simp ↓] theorem Core.banks_wf {k : Core} (h : k.memWf = true) : Mem.wf (n := 8) k.banks = true := by
  simp_all [Core.memWf, Memory.wf]
@[simp ↓] theorem Core.store_wf {k : Core} (h : k.memWf = true) : Mem.wf (n := 8) k.store = true := by
  simp_all [Core.memWf, Memory.wf]
@[simp ↓] theorem Core.istore_wf {k : Core} (h : k.memWf = true) : Mem.wf k.istore = true := by simp_all [Core.memWf]
@[simp ↓] theorem Core.acc_wf {k : Core} (h : k.memWf = true) : Mem.wf k.acc = true := by simp_all [Core.memWf]

/-- A core record whose storages are in canonical form. -/
@[simp ↓] theorem Core.mk_memWf
    {rf rfHolder chunkHolder bankHolder storeHolder banks store storePoison istore records nextRec entryClock loadQ refused
    ovExhausted ovstat teams nextTeam groups nextUid killed acquireQ ringWaits releases sbuf nextSb l1 l1ptr
    reclaiming poolNext l1fills nextFill tcache memops atoms nextOp opLog logStall sfq dlogNext dlogFill dlogTaken
    dlogMerging dlogWait poolSlots slots inbox inboxSpill hitQ hitHead hitSpill homeUsed raySerial mapCache accepted
    clicker nextForm eq nextCmd eqWait sfqWait acc bandsUsed arrayW arrayData narrow collCount srec srecWait ctlIn
    gresume wdog stage leaving nextStage lastMove portQ coord parent stopped}
    (h1 : Mem.wf rf = true) (h2 : Mem.wf (n := 8) banks = true) (h3 : Mem.wf (n := 8) store = true)
    (h4 : Mem.wf istore = true) (h5 : Mem.wf acc = true) :
    (Core.mk rf rfHolder chunkHolder bankHolder storeHolder banks store storePoison istore records nextRec entryClock loadQ refused
    ovExhausted ovstat teams nextTeam groups nextUid killed acquireQ ringWaits releases sbuf nextSb l1 l1ptr
    reclaiming poolNext l1fills nextFill tcache memops atoms nextOp opLog logStall sfq dlogNext dlogFill dlogTaken
    dlogMerging dlogWait poolSlots slots inbox inboxSpill hitQ hitHead hitSpill homeUsed raySerial mapCache accepted
    clicker nextForm eq nextCmd eqWait sfqWait acc bandsUsed arrayW arrayData narrow collCount srec srecWait ctlIn
    gresume wdog stage leaving nextStage lastMove portQ coord parent stopped).memWf = true := by
  simp only [Core.memWf, Memory.wf, h1, h2, h3, h4, h5, Bool.and_self]

/-! ### The package -/

theorem State.memWf_iff (s : State) : s.memWf = true ↔
    Mem.wf (n := 8) s.hbm = true ∧ Mem.wf (n := 8) s.cap = true ∧ s.cores.all (fun p => p.2.memWf) = true := by
  simp only [State.memWf, Memory.wf, Bool.and_eq_true, and_assoc]

@[simp ↓] theorem State.hbm_wf {s : State} (h : s.memWf = true) : Mem.wf (n := 8) s.hbm = true := ((memWf_iff s).1 h).1
@[simp ↓] theorem State.cap_wf {s : State} (h : s.memWf = true) : Mem.wf (n := 8) s.cap = true := ((memWf_iff s).1 h).2.1
@[simp ↓] theorem State.cores_wf {s : State} (h : s.memWf = true) : s.cores.all (fun p => p.2.memWf) = true :=
  ((memWf_iff s).1 h).2.2

/-- A state whose storages are in canonical form. -/
@[simp ↓] theorem State.mk_memWf
    {product fused hbm hbmPoison cap capPoison ctl bars pri priWrite hostQ noAtomics cores dies routers links launches nextLaunch
    hintDrops paths blockWaits rstores nextRstore sequenced rxPaths fences nextFence colls encoders bitmaps nextBitmap
    invals harvest retiring retired splitNext mailHello pin attest flash boot fatal agenda outbox cc cur second turn free}
    (h1 : Mem.wf (n := 8) hbm = true) (h2 : Mem.wf (n := 8) cap = true) (h3 : cores.all (fun p => p.2.memWf) = true) :
    (State.mk product fused hbm hbmPoison cap capPoison ctl bars pri priWrite hostQ noAtomics cores dies routers links launches nextLaunch
    hintDrops paths blockWaits rstores nextRstore sequenced rxPaths fences nextFence colls encoders bitmaps nextBitmap
    invals harvest retiring retired splitNext mailHello pin attest flash boot fatal agenda outbox cc cur second turn free).memWf = true :=
  (State.memWf_iff _).2 ⟨h1, h2, h3⟩

@[simp ↓] theorem State.core_memWf {s : State} (h : s.memWf = true) (c : Nat) : (s.core c).memWf = true := by
  unfold State.core
  cases e : s.cores.look c with
  | none => rfl
  | some k => exact List.all_eq_true.1 (State.cores_wf h) _ (AMap.mem_of_look e)

@[simp ↓] theorem State.setCore_memWf {s : State} (h : s.memWf = true) {k : Core} (hk : k.memWf = true) (c : Nat) :
    (s.setCore c k).memWf = true := by
  rw [State.memWf_iff] at h ⊢
  exact ⟨h.1, h.2.1, AMap.all_put h.2.2 hk⟩

@[simp ↓] theorem State.modCore_memWf {s : State} (h : s.memWf = true) {f : Core → Core}
    (hf : ∀ k : Core, k.memWf = true → (f k).memWf = true) (c : Nat) : (s.modCore c f).memWf = true :=
  State.setCore_memWf h (hf _ (State.core_memWf h c)) c

theorem State.memWf_of_same {s t : State} (h : s.memWf = true) (e1 : t.hbm = s.hbm) (e2 : t.cap = s.cap)
    (e3 : t.cores = s.cores) : t.memWf = true := by
  rw [State.memWf_iff] at h ⊢
  rw [e1, e2, e3]
  exact h

/-- Changing every core keeps the canonical form when the change of one core does. -/
@[simp ↓] theorem State.mapCores_wf {l : AMap Core} (h : l.all (fun p => p.2.memWf) = true) {f : Nat × Core → Nat × Core}
    (hf : ∀ p : Nat × Core, p.2.memWf = true → (f p).2.memWf = true) : (l.map f).all (fun p => p.2.memWf) = true := by
  rw [List.all_eq_true] at h ⊢
  intro p hp
  obtain ⟨q, hq, rfl⟩ := List.mem_map.1 hp
  exact hf q (h q hq)

@[simp ↓] theorem State.nil_wf : ([] : AMap Core).all (fun p => p.2.memWf) = true := rfl
@[simp ↓] theorem Mem.nil_wf (n : Nat) : Mem.wf ([] : Mem n) = true := rfl

/-! ### Folds and choices -/

@[simp ↓] theorem State.ite_memWf {c : Prop} [Decidable c] {s t : State} (hs : s.memWf = true) (ht : t.memWf = true) :
    (if c then s else t).memWf = true := by
  split <;> assumption

@[simp ↓] theorem Core.ite_memWf {c : Prop} [Decidable c] {k q : Core} (hk : k.memWf = true) (hq : q.memWf = true) :
    (if c then k else q).memWf = true := by
  split <;> assumption

@[simp ↓] theorem State.foldl_memWf {α : Type} {s : State} (h : s.memWf = true) {f : State → α → State}
    (hf : ∀ s a, State.memWf s = true → (f s a).memWf = true) (l : List α) : (l.foldl f s).memWf = true := by
  induction l generalizing s with
  | nil => exact h
  | cons a t ih => exact ih (hf _ _ h)

@[simp ↓] theorem Core.foldl_memWf {α : Type} {k : Core} (h : k.memWf = true) {f : Core → α → Core}
    (hf : ∀ k a, Core.memWf k = true → (f k a).memWf = true) (l : List α) : (l.foldl f k).memWf = true := by
  induction l generalizing k with
  | nil => exact h
  | cons a t ih => exact ih (hf _ _ h)

@[simp ↓] theorem State.foldlFst_memWf {α β : Type} {p : State × β} (h : p.1.memWf = true) {f : State × β → α → State × β}
    (hf : ∀ p a, p.1.memWf = true → (f p a).1.memWf = true) (l : List α) : (l.foldl f p).1.memWf = true := by
  induction l generalizing p with
  | nil => exact h
  | cons a t ih => exact ih (hf _ _ h)

@[simp ↓] theorem Core.foldlFst_memWf {α β : Type} {p : Core × β} (h : p.1.memWf = true) {f : Core × β → α → Core × β}
    (hf : ∀ p a, p.1.memWf = true → (f p a).1.memWf = true) (l : List α) : (l.foldl f p).1.memWf = true := by
  induction l generalizing p with
  | nil => exact h
  | cons a t ih => exact ih (hf _ _ h)

@[simp ↓] theorem State.iteFst_memWf {β : Type} {c : Prop} [Decidable c] {p q : State × β} (hp : p.1.memWf = true)
    (hq : q.1.memWf = true) : (if c then p else q).1.memWf = true := by
  split <;> assumption

@[simp ↓] theorem Core.iteFst_memWf {β : Type} {c : Prop} [Decidable c] {p q : Core × β} (hp : p.1.memWf = true)
    (hq : q.1.memWf = true) : (if c then p else q).1.memWf = true := by
  split <;> assumption

/-- What a meaning answers keeps the canonical form. -/
def Res.memWf : Res → Bool
  | .done s | .moved s | .wait s _ => s.memWf
  | .trap _ => true

@[simp ↓] theorem Res.done_memWf {s : State} (h : s.memWf = true) : (Res.done s).memWf = true := h
@[simp ↓] theorem Res.moved_memWf {s : State} (h : s.memWf = true) : (Res.moved s).memWf = true := h
@[simp ↓] theorem Res.wait_memWf {s : State} (h : s.memWf = true) (w : Wait) : (Res.wait s w).memWf = true := h
@[simp ↓] theorem Res.trap_memWf (t : Trap) : (Res.trap t).memWf = true := rfl
@[simp ↓] theorem prot_memWf (sub addr : Nat) : (prot sub addr).memWf = true := rfl
@[simp ↓] theorem misaligned_memWf (size addr : Nat) : (misaligned size addr).memWf = true := rfl
@[simp ↓] theorem Res.ite_memWf {c : Prop} [Decidable c] {k q : Res} (hk : k.memWf = true) (hq : q.memWf = true) :
    (if c then k else q).memWf = true := by
  split <;> assumption

/-- What a translation answers keeps the canonical form. -/
def Xl.memWf : Xl → Bool
  | .ok _ _ s | .fail _ s | .wait s => s.memWf

@[simp ↓] theorem Xl.ok_memWf {s : State} (h : s.memWf = true) (ap : Ap) (off : Nat) : (Xl.ok ap off s).memWf = true := h
@[simp ↓] theorem Xl.fail_memWf {s : State} (h : s.memWf = true) (code : Nat) : (Xl.fail code s).memWf = true := h
@[simp ↓] theorem Xl.wait_memWf {s : State} (h : s.memWf = true) : (Xl.wait s).memWf = true := h

/-- What an engine's access answers keeps the canonical form. -/
def EngAcc.memWf : EngAcc → Bool
  | .ok s _ | .poison s | .fault s _ _ | .window s | .wait s => s.memWf

@[simp ↓] theorem EngAcc.ok_memWf {s : State} (h : s.memWf = true) (bs : List Byte) : (EngAcc.ok s bs).memWf = true := h
@[simp ↓] theorem EngAcc.poison_memWf {s : State} (h : s.memWf = true) : (EngAcc.poison s).memWf = true := h
@[simp ↓] theorem EngAcc.fault_memWf {s : State} (h : s.memWf = true) (c r : Nat) : (EngAcc.fault s c r).memWf = true := h
@[simp ↓] theorem EngAcc.window_memWf {s : State} (h : s.memWf = true) : (EngAcc.window s).memWf = true := h
@[simp ↓] theorem EngAcc.wait_memWf {s : State} (h : s.memWf = true) : (EngAcc.wait s).memWf = true := h

@[simp ↓] theorem Xl.ite_memWf {c : Prop} [Decidable c] {k q : Xl} (hk : k.memWf = true) (hq : q.memWf = true) :
    (if c then k else q).memWf = true := by
  split <;> assumption

@[simp ↓] theorem EngAcc.ite_memWf {c : Prop} [Decidable c] {k q : EngAcc} (hk : k.memWf = true) (hq : q.memWf = true) :
    (if c then k else q).memWf = true := by
  split <;> assumption

/-! ### The state inside an answer -/

theorem Xl.ok_of_eq {x : Xl} {ap : Ap} {off : Nat} {s : State} (h : x.memWf = true) (e : x = .ok ap off s) : s.memWf = true := by
  rw [e] at h; exact h
theorem Xl.fail_of_eq {x : Xl} {code : Nat} {s : State} (h : x.memWf = true) (e : x = .fail code s) : s.memWf = true := by
  rw [e] at h; exact h
theorem Xl.wait_of_eq {x : Xl} {s : State} (h : x.memWf = true) (e : x = .wait s) : s.memWf = true := by
  rw [e] at h; exact h
theorem EngAcc.ok_of_eq {x : EngAcc} {bs : List Byte} {s : State} (h : x.memWf = true) (e : x = .ok s bs) : s.memWf = true := by
  rw [e] at h; exact h
theorem EngAcc.poison_of_eq {x : EngAcc} {s : State} (h : x.memWf = true) (e : x = .poison s) : s.memWf = true := by
  rw [e] at h; exact h
theorem EngAcc.fault_of_eq {x : EngAcc} {s : State} {c r : Nat} (h : x.memWf = true) (e : x = .fault s c r) : s.memWf = true := by
  rw [e] at h; exact h
theorem EngAcc.window_of_eq {x : EngAcc} {s : State} (h : x.memWf = true) (e : x = .window s) : s.memWf = true := by
  rw [e] at h; exact h
theorem EngAcc.wait_of_eq {x : EngAcc} {s : State} (h : x.memWf = true) (e : x = .wait s) : s.memWf = true := by
  rw [e] at h; exact h
theorem State.fst_of_eq {β : Type} {p : State × β} {s : State} {b : β} (h : p.1.memWf = true) (e : p = (s, b)) : s.memWf = true := by
  rw [e] at h; exact h
theorem Core.fst_of_eq {β : Type} {p : Core × β} {k : Core} {b : β} (h : p.1.memWf = true) (e : p = (k, b)) : k.memWf = true := by
  rw [e] at h; exact h
theorem State.getD_memWf {o : Option State} {s : State} (h : ∀ q, o = some q → q.memWf = true) (hs : s.memWf = true) :
    (o.getD s).memWf = true := by
  cases o with
  | none => exact hs
  | some q => exact h q rfl

/-- The state that an outcome goes on in, if it goes on, is in canonical form. -/
def outMemWf : Host.Outcome State Fault Refusal → Bool
  | .next s => s.memWf
  | .fault _ | .refused _ => true

@[simp ↓] theorem outMemWf_next {s : State} (h : s.memWf = true) : outMemWf (.next s) = true := h
@[simp ↓] theorem outMemWf_fault (f : Fault) : outMemWf (.fault f) = true := rfl
@[simp ↓] theorem outMemWf_ite {c : Prop} [Decidable c] {k q : Host.Outcome State Fault Refusal} (hk : outMemWf k = true)
    (hq : outMemWf q = true) : outMemWf (if c then k else q) = true := by
  split <;> assumption

end Sys2Proof.Machine
end

