-- ==== Sys2Proof/Laws/CanonOps.lean ====
section
/-! SUPPORT. The named operations keep the canonical form of storage. -/

set_option linter.unusedSimpArgs false

namespace Sys2Proof.Machine

@[simp ↓] theorem State.setDie_memWf (s : State) (d : Nat) (x : Die) (hs : s.memWf = true) :
    (State.setDie s d x).memWf = true := by
  unfold State.setDie
  simp +contextual (maxDischargeDepth := 60) only [↓Core.acc_wf, ↓Core.banks_wf, ↓Core.istore_wf, ↓Core.mk_memWf, ↓Core.rf_wf, ↓Core.store_wf, ↓State.cap_wf, ↓State.cores_wf, ↓State.hbm_wf, ↓State.mk_memWf, hs, implies_true]

@[simp ↓] theorem State.modDie_memWf (s : State) (d : Nat) (f : Die → Die) (hs : s.memWf = true) :
    (State.modDie s d f).memWf = true := by
  unfold State.modDie
  simp +contextual (maxDischargeDepth := 60) only [↓State.setDie_memWf, hs, implies_true]

@[simp ↓] theorem State.setGroup_memWf (s : State) (c gid : Nat) (g : Group) (hs : s.memWf = true) :
    (State.setGroup s c gid g).memWf = true := by
  unfold State.setGroup
  simp +contextual (maxDischargeDepth := 60) only [↓Core.acc_wf, ↓Core.banks_wf, ↓Core.istore_wf, ↓Core.mk_memWf, ↓Core.rf_wf, ↓Core.store_wf, ↓State.cap_wf, ↓State.cores_wf, ↓State.hbm_wf, ↓State.mk_memWf, ↓State.modCore_memWf, hs, implies_true]

@[simp ↓] theorem State.modGroup_memWf (s : State) (c gid : Nat) (f : Group → Group) (hs : s.memWf = true) :
    (State.modGroup s c gid f).memWf = true := by
  unfold State.modGroup
  simp +contextual (maxDischargeDepth := 60) only [↓Core.acc_wf, ↓Core.banks_wf, ↓Core.istore_wf, ↓Core.mk_memWf, ↓Core.rf_wf, ↓Core.store_wf, ↓State.cap_wf, ↓State.cores_wf, ↓State.hbm_wf, ↓State.mk_memWf, ↓State.modCore_memWf, hs, implies_true]

@[simp ↓] theorem State.modTeam_memWf (s : State) (c t : Nat) (f : Team → Team) (hs : s.memWf = true) :
    (State.modTeam s c t f).memWf = true := by
  unfold State.modTeam
  simp +contextual (maxDischargeDepth := 60) only [↓Core.acc_wf, ↓Core.banks_wf, ↓Core.istore_wf, ↓Core.mk_memWf, ↓Core.rf_wf, ↓Core.store_wf, ↓State.cap_wf, ↓State.cores_wf, ↓State.hbm_wf, ↓State.mk_memWf, ↓State.modCore_memWf, hs, implies_true]

@[simp ↓] theorem State.post_memWf (s : State) (i : Instr) (hs : s.memWf = true) :
    (State.post s i).memWf = true := by
  unfold State.post
  simp +contextual (maxDischargeDepth := 60) only [↓Core.acc_wf, ↓Core.banks_wf, ↓Core.istore_wf, ↓Core.mk_memWf, ↓Core.rf_wf, ↓Core.store_wf, ↓State.cap_wf, ↓State.cores_wf, ↓State.hbm_wf, ↓State.mk_memWf, hs, implies_true]

@[simp ↓] theorem State.posts_memWf (s : State) (is : List Instr) (hs : s.memWf = true) :
    (State.posts s is).memWf = true := by
  unfold State.posts
  simp +contextual (maxDischargeDepth := 60) only [↓Core.acc_wf, ↓Core.banks_wf, ↓Core.istore_wf, ↓Core.mk_memWf, ↓Core.rf_wf, ↓Core.store_wf, ↓State.cap_wf, ↓State.cores_wf, ↓State.hbm_wf, ↓State.mk_memWf, hs, implies_true]

@[simp ↓] theorem State.postOnce_memWf (s : State) (i : Instr) (hs : s.memWf = true) :
    (State.postOnce s i).memWf = true := by
  unfold State.postOnce
  simp +contextual (maxDischargeDepth := 60) only [↓Core.iteFst_memWf, ↓Core.ite_memWf, ↓Res.ite_memWf, ↓State.iteFst_memWf, ↓State.ite_memWf, ↓State.post_memWf, hs, implies_true]

@[simp ↓] theorem State.emit_memWf (s : State) (o : Out) (hs : s.memWf = true) :
    (State.emit s o).memWf = true := by
  unfold State.emit
  simp +contextual (maxDischargeDepth := 60) only [↓Core.acc_wf, ↓Core.banks_wf, ↓Core.istore_wf, ↓Core.mk_memWf, ↓Core.rf_wf, ↓Core.store_wf, ↓State.cap_wf, ↓State.cores_wf, ↓State.hbm_wf, ↓State.mk_memWf, hs, implies_true]

@[simp ↓] theorem State.setCtl_memWf (s : State) (off : Nat) (v : DWord) (hs : s.memWf = true) :
    (State.setCtl s off v).memWf = true := by
  unfold State.setCtl
  simp +contextual (maxDischargeDepth := 60) only [↓Core.acc_wf, ↓Core.banks_wf, ↓Core.istore_wf, ↓Core.mk_memWf, ↓Core.rf_wf, ↓Core.store_wf, ↓State.cap_wf, ↓State.cores_wf, ↓State.hbm_wf, ↓State.mk_memWf, hs, implies_true]

@[simp ↓] theorem State.setField_memWf (s : State) (off hi lo x : Nat) (hs : s.memWf = true) :
    (State.setField s off hi lo x).memWf = true := by
  unfold State.setField
  simp +contextual (maxDischargeDepth := 60) only [↓State.setCtl_memWf, hs, implies_true]

@[simp ↓] theorem State.bumpField_memWf (s : State) (off hi lo : Nat) (hs : s.memWf = true) :
    (State.bumpField s off hi lo).memWf = true := by
  unfold State.bumpField
  simp +contextual (maxDischargeDepth := 60) only [↓State.setField_memWf, hs, implies_true]

@[simp ↓] theorem Core.setV_memWf (k : Core) (g : Group) (gid r lane : Nat) (w : Word) (hk : k.memWf = true) :
    (Core.setV k g gid r lane w).memWf = true := by
  unfold Core.setV
  (try dsimp only)
  repeat' first | with_reducible assumption | with_reducible rfl | (intro _) | with_reducible apply Core.acc_wf | with_reducible apply Core.banks_wf | with_reducible apply Core.istore_wf | with_reducible apply Core.rf_wf | with_reducible apply Core.store_wf | with_reducible apply Mem.wf_clear | with_reducible apply Mem.wf_filter | with_reducible apply Mem.wf_set | with_reducible apply Mem.wf_write | with_reducible apply State.cap_wf | with_reducible apply State.cores_wf | with_reducible apply State.hbm_wf | (refine State.fst_of_eq ?_ (by with_reducible assumption)) | (refine Core.fst_of_eq ?_ (by with_reducible assumption)) | split | (with_reducible refine State.mk_memWf ?_ ?_ ?_) | (with_reducible refine Core.mk_memWf ?_ ?_ ?_ ?_ ?_)

@[simp ↓] theorem Core.setS_memWf (k : Core) (gid j : Nat) (w : Word) (hk : k.memWf = true) :
    (Core.setS k gid j w).memWf = true := by
  unfold Core.setS
  simp +contextual (maxDischargeDepth := 60) only [↓Core.acc_wf, ↓Core.banks_wf, ↓Core.istore_wf, ↓Core.mk_memWf, ↓Core.rf_wf, ↓Core.store_wf, ↓Mem.wf_clear, ↓Mem.wf_filter, ↓Mem.wf_set, ↓Mem.wf_write, ↓State.cap_wf, ↓State.cores_wf, ↓State.hbm_wf, ↓State.mk_memWf, hk, implies_true]

@[simp ↓] theorem Core.wake_memWf (k : Core) (p : Wait → Bool) (hk : k.memWf = true) :
    (Core.wake k p).memWf = true := by
  unfold Core.wake
  simp +contextual (maxDischargeDepth := 60) only [↓Core.acc_wf, ↓Core.banks_wf, ↓Core.istore_wf, ↓Core.mk_memWf, ↓Core.rf_wf, ↓Core.store_wf, ↓State.cap_wf, ↓State.cores_wf, ↓State.hbm_wf, ↓State.mk_memWf, hk, implies_true]

@[simp ↓] theorem Core.writeStore_memWf (k : Core) (a : Nat) (bs : List Byte) (hk : k.memWf = true) :
    (Core.writeStore k a bs).memWf = true := by
  unfold Core.writeStore
  simp +contextual (maxDischargeDepth := 60) only [↓Core.acc_wf, ↓Core.banks_wf, ↓Core.istore_wf, ↓Core.mk_memWf, ↓Core.rf_wf, ↓Core.store_wf, ↓Core.wake_memWf, ↓Mem.wf_clear, ↓Mem.wf_filter, ↓Mem.wf_set, ↓Mem.wf_write, ↓State.cap_wf, ↓State.cores_wf, ↓State.hbm_wf, ↓State.mk_memWf, hk, implies_true]

@[simp ↓] theorem Core.putStore32_memWf (k : Core) (a v : Nat) (hk : k.memWf = true) :
    (Core.putStore32 k a v).memWf = true := by
  unfold Core.putStore32
  simp +contextual (maxDischargeDepth := 60) only [↓Core.writeStore_memWf, hk, implies_true]

@[simp ↓] theorem Core.putStore64_memWf (k : Core) (a : Nat) (v : DWord) (hk : k.memWf = true) :
    (Core.putStore64 k a v).memWf = true := by
  unfold Core.putStore64
  simp +contextual (maxDischargeDepth := 60) only [↓Core.writeStore_memWf, hk, implies_true]

@[simp ↓] theorem Core.disown_memWf (k : Core) (lo hi : Nat) (hk : k.memWf = true) :
    (Core.disown k lo hi).memWf = true := by
  unfold Core.disown
  simp +contextual (maxDischargeDepth := 60) only [↓Core.acc_wf, ↓Core.banks_wf, ↓Core.istore_wf, ↓Core.iteFst_memWf, ↓Core.ite_memWf, ↓Core.mk_memWf, ↓Core.rf_wf, ↓Core.store_wf, ↓Res.ite_memWf, ↓State.cap_wf, ↓State.cores_wf, ↓State.hbm_wf, ↓State.iteFst_memWf, ↓State.ite_memWf, ↓State.mk_memWf, hk, implies_true]

@[simp ↓] theorem Core.writeForeign_memWf (k : Core) (a : Nat) (bs : List Byte) (hk : k.memWf = true) :
    (Core.writeForeign k a bs).memWf = true := by
  unfold Core.writeForeign
  simp +contextual (maxDischargeDepth := 60) only [↓Core.disown_memWf, ↓Core.writeStore_memWf, hk, implies_true]

@[simp ↓] theorem Core.storeBy_memWf (k : Core) (gid a : Nat) (bs : List Byte) (hk : k.memWf = true) :
    (Core.storeBy k gid a bs).memWf = true := by
  unfold Core.storeBy
  simp +contextual (maxDischargeDepth := 60) only [↓Core.iteFst_memWf, ↓Core.ite_memWf, ↓Core.writeForeign_memWf, ↓Core.writeStore_memWf, ↓Res.ite_memWf, ↓State.iteFst_memWf, ↓State.ite_memWf, hk, implies_true]

@[simp ↓] theorem Core.writeBank_memWf (k : Core) (b a : Nat) (bs : List Byte) (hk : k.memWf = true) :
    (Core.writeBank k b a bs).memWf = true := by
  unfold Core.writeBank
  simp +contextual (maxDischargeDepth := 60) only [↓Core.acc_wf, ↓Core.banks_wf, ↓Core.istore_wf, ↓Core.mk_memWf, ↓Core.rf_wf, ↓Core.store_wf, ↓Mem.wf_clear, ↓Mem.wf_filter, ↓Mem.wf_set, ↓Mem.wf_write, ↓State.cap_wf, ↓State.cores_wf, ↓State.hbm_wf, ↓State.mk_memWf, hk, implies_true]

@[simp ↓] theorem Core.recount_memWf (k : Core) (hk : k.memWf = true) :
    (Core.recount k).memWf = true := by
  unfold Core.recount
  simp +contextual (maxDischargeDepth := 60) only [↓Core.acc_wf, ↓Core.banks_wf, ↓Core.istore_wf, ↓Core.mk_memWf, ↓Core.rf_wf, ↓Core.store_wf, ↓State.cap_wf, ↓State.cores_wf, ↓State.hbm_wf, ↓State.mk_memWf, hk, implies_true]

@[simp ↓] theorem Core.enterOv_memWf (k : Core) (ctx id quota cc : Nat) (hk : k.memWf = true) :
    (Core.enterOv k ctx id quota cc).memWf = true := by
  unfold Core.enterOv
  (try dsimp only)
  repeat' first | with_reducible assumption | with_reducible rfl | (intro _) | with_reducible apply Core.acc_wf | with_reducible apply Core.banks_wf | with_reducible apply Core.istore_wf | with_reducible apply Core.iteFst_memWf | with_reducible apply Core.ite_memWf | with_reducible apply Core.rf_wf | with_reducible apply Core.store_wf | with_reducible apply Res.ite_memWf | with_reducible apply State.cap_wf | with_reducible apply State.cores_wf | with_reducible apply State.hbm_wf | with_reducible apply State.iteFst_memWf | with_reducible apply State.ite_memWf | (refine State.fst_of_eq ?_ (by with_reducible assumption)) | (refine Core.fst_of_eq ?_ (by with_reducible assumption)) | split | (with_reducible refine State.mk_memWf ?_ ?_ ?_) | (with_reducible refine Core.mk_memWf ?_ ?_ ?_ ?_ ?_)

@[simp ↓] theorem Core.countOv_memWf (k : Core) (ctx parks loads : Nat) (hk : k.memWf = true) :
    (Core.countOv k ctx parks loads).memWf = true := by
  unfold Core.countOv
  simp +contextual (maxDischargeDepth := 60) only [↓Core.acc_wf, ↓Core.banks_wf, ↓Core.istore_wf, ↓Core.mk_memWf, ↓Core.rf_wf, ↓Core.store_wf, ↓State.cap_wf, ↓State.cores_wf, ↓State.hbm_wf, ↓State.mk_memWf, hk, implies_true]

@[simp ↓] theorem State.requestOv_memWf (s : State) (c ctx id : Nat) (hs : s.memWf = true) :
    (State.requestOv s c ctx id).memWf = true := by
  unfold State.requestOv
  simp +contextual (maxDischargeDepth := 60) only [↓Core.acc_wf, ↓Core.banks_wf, ↓Core.istore_wf, ↓Core.iteFst_memWf, ↓Core.ite_memWf, ↓Core.mk_memWf, ↓Core.recount_memWf, ↓Core.rf_wf, ↓Core.store_wf, ↓Res.ite_memWf, ↓State.cap_wf, ↓State.core_memWf, ↓State.cores_wf, ↓State.hbm_wf, ↓State.iteFst_memWf, ↓State.ite_memWf, ↓State.mk_memWf, ↓State.post_memWf, ↓State.setCore_memWf, hs, implies_true]

@[simp ↓] theorem State.wakeFences_memWf (s : State) (hs : s.memWf = true) :
    (State.wakeFences s).memWf = true := by
  unfold State.wakeFences
  refine State.foldl_memWf hs (fun s f h => ?_) _
  split
  · exact State.postOnce_memWf _ _ h
  · exact State.modGroup_memWf _ _ _ _ h

@[simp ↓] theorem State.retryLoads_memWf (s : State) (c : Nat) (hs : s.memWf = true) :
    (State.retryLoads s c).memWf = true := by
  unfold State.retryLoads
  simp +contextual (maxDischargeDepth := 60) only [↓Core.iteFst_memWf, ↓Core.ite_memWf, ↓Res.ite_memWf, ↓State.core_memWf, ↓State.iteFst_memWf, ↓State.ite_memWf, ↓State.postOnce_memWf, hs, implies_true]

@[simp ↓] theorem State.parkOn_memWf (s : State) (c gid : Nat) (lanes : Word) (id : Nat) (w : ParkAt) (hs : s.memWf = true) :
    (State.parkOn s c gid lanes id w).memWf = true := by
  unfold State.parkOn
  simp +contextual (maxDischargeDepth := 60) only [↓Core.acc_wf, ↓Core.banks_wf, ↓Core.countOv_memWf, ↓Core.istore_wf, ↓Core.iteFst_memWf, ↓Core.ite_memWf, ↓Core.mk_memWf, ↓Core.rf_wf, ↓Core.store_wf, ↓Res.done_memWf, ↓Res.ite_memWf, ↓Res.moved_memWf, ↓Res.trap_memWf, ↓Res.wait_memWf, ↓State.cap_wf, ↓State.core_memWf, ↓State.cores_wf, ↓State.hbm_wf, ↓State.iteFst_memWf, ↓State.ite_memWf, ↓State.mk_memWf, ↓State.modCore_memWf, ↓State.modGroup_memWf, ↓State.requestOv_memWf, ↓misaligned_memWf, ↓prot_memWf, hs, implies_true]

@[simp ↓] theorem State.moveTo_memWf (s : State) (c gid : Nat) (lanes : Word) (pc : Word) (w : ParkAt) (hs : s.memWf = true) :
    (State.moveTo s c gid lanes pc w).memWf = true := by
  unfold State.moveTo
  simp +contextual (maxDischargeDepth := 60) only [↓Core.acc_wf, ↓Core.banks_wf, ↓Core.enterOv_memWf, ↓Core.istore_wf, ↓Core.iteFst_memWf, ↓Core.ite_memWf, ↓Core.mk_memWf, ↓Core.recount_memWf, ↓Core.rf_wf, ↓Core.store_wf, ↓Mem.wf_clear, ↓Mem.wf_filter, ↓Mem.wf_set, ↓Mem.wf_write, ↓Res.done_memWf, ↓Res.ite_memWf, ↓Res.moved_memWf, ↓Res.trap_memWf, ↓Res.wait_memWf, ↓State.cap_wf, ↓State.core_memWf, ↓State.cores_wf, ↓State.hbm_wf, ↓State.iteFst_memWf, ↓State.ite_memWf, ↓State.mk_memWf, ↓State.modCore_memWf, ↓State.modGroup_memWf, ↓State.parkOn_memWf, ↓State.requestOv_memWf, ↓State.retryLoads_memWf, ↓misaligned_memWf, ↓prot_memWf, hs, implies_true]

@[simp ↓] theorem State.enterAgain_memWf (s : State) (c gid : Nat) (hs : s.memWf = true) :
    (State.enterAgain s c gid).memWf = true := by
  unfold State.enterAgain
  simp +contextual (maxDischargeDepth := 60) only [↓Core.enterOv_memWf, ↓Core.foldlFst_memWf, ↓Core.foldl_memWf, ↓Mem.wf_clear, ↓Mem.wf_filter, ↓Mem.wf_set, ↓Mem.wf_write, ↓Res.done_memWf, ↓Res.moved_memWf, ↓Res.trap_memWf, ↓Res.wait_memWf, ↓State.core_memWf, ↓State.foldlFst_memWf, ↓State.foldl_memWf, ↓State.modCore_memWf, ↓State.parkOn_memWf, ↓State.requestOv_memWf, ↓misaligned_memWf, ↓prot_memWf, hs, implies_true]

@[simp ↓] theorem State.postRecord_memWf (s : State) (c : Nat) (r : List Word) (hs : s.memWf = true) :
    (State.postRecord s c r).memWf = true := by
  unfold State.postRecord
  simp +contextual (maxDischargeDepth := 60) only [↓Core.acc_wf, ↓Core.banks_wf, ↓Core.istore_wf, ↓Core.iteFst_memWf, ↓Core.ite_memWf, ↓Core.mk_memWf, ↓Core.rf_wf, ↓Core.store_wf, ↓Core.wake_memWf, ↓Res.ite_memWf, ↓State.cap_wf, ↓State.cores_wf, ↓State.hbm_wf, ↓State.iteFst_memWf, ↓State.ite_memWf, ↓State.mk_memWf, ↓State.modCore_memWf, hs, implies_true]

@[simp ↓] theorem State.holdAll_memWf (s : State) (c gid : Nat) (b : Bool) (hs : s.memWf = true) :
    (State.holdAll s c gid b).memWf = true := by
  unfold State.holdAll
  simp +contextual (maxDischargeDepth := 60) only [↓Core.acc_wf, ↓Core.banks_wf, ↓Core.istore_wf, ↓Core.mk_memWf, ↓Core.rf_wf, ↓Core.store_wf, ↓State.cap_wf, ↓State.cores_wf, ↓State.hbm_wf, ↓State.mk_memWf, ↓State.modGroup_memWf, hs, implies_true]

@[simp ↓] theorem State.restartSupervisor_memWf (s : State) (c : Nat) (hs : s.memWf = true) :
    (State.restartSupervisor s c).memWf = true := by
  unfold State.restartSupervisor
  simp +contextual (maxDischargeDepth := 60) only [↓Core.acc_wf, ↓Core.banks_wf, ↓Core.istore_wf, ↓Core.mk_memWf, ↓Core.rf_wf, ↓Core.store_wf, ↓Res.done_memWf, ↓Res.moved_memWf, ↓Res.trap_memWf, ↓Res.wait_memWf, ↓State.cap_wf, ↓State.cores_wf, ↓State.hbm_wf, ↓State.mk_memWf, ↓State.modGroup_memWf, ↓State.moveTo_memWf, ↓misaligned_memWf, ↓prot_memWf, hs, implies_true]

@[simp ↓] theorem State.escalate_memWf (s : State) (c gid : Nat) (t : Trap) (hs : s.memWf = true) :
    (State.escalate s c gid t).memWf = true := by
  unfold State.escalate
  simp +contextual (maxDischargeDepth := 60) only [↓Core.acc_wf, ↓Core.banks_wf, ↓Core.istore_wf, ↓Core.iteFst_memWf, ↓Core.ite_memWf, ↓Core.mk_memWf, ↓Core.rf_wf, ↓Core.store_wf, ↓Res.done_memWf, ↓Res.ite_memWf, ↓Res.moved_memWf, ↓Res.trap_memWf, ↓Res.wait_memWf, ↓State.cap_wf, ↓State.cores_wf, ↓State.hbm_wf, ↓State.holdAll_memWf, ↓State.iteFst_memWf, ↓State.ite_memWf, ↓State.mk_memWf, ↓State.modGroup_memWf, ↓State.postRecord_memWf, ↓State.restartSupervisor_memWf, ↓misaligned_memWf, ↓prot_memWf, hs, implies_true]

@[simp ↓] theorem State.pushLink_memWf (s : State) (c gid : Nat) (lanes : Word) (ret : Nat → Word) (hs : s.memWf = true) :
    (State.pushLink s c gid lanes ret).memWf = true := by
  unfold State.pushLink
  simp +contextual (maxDischargeDepth := 60) only [↓Core.acc_wf, ↓Core.banks_wf, ↓Core.foldlFst_memWf, ↓Core.foldl_memWf, ↓Core.istore_wf, ↓Core.iteFst_memWf, ↓Core.ite_memWf, ↓Core.mk_memWf, ↓Core.rf_wf, ↓Core.store_wf, ↓Core.writeBank_memWf, ↓Mem.wf_clear, ↓Mem.wf_filter, ↓Mem.wf_set, ↓Mem.wf_write, ↓Res.ite_memWf, ↓State.cap_wf, ↓State.cores_wf, ↓State.foldlFst_memWf, ↓State.foldl_memWf, ↓State.hbm_wf, ↓State.iteFst_memWf, ↓State.ite_memWf, ↓State.mk_memWf, ↓State.modCore_memWf, ↓State.modGroup_memWf, hs, implies_true]

@[simp ↓] theorem State.dropLink_memWf (s : State) (c gid : Nat) (lanes : Word) (hs : s.memWf = true) :
    (State.dropLink s c gid lanes).memWf = true := by
  unfold State.dropLink
  simp +contextual (maxDischargeDepth := 60) only [↓Core.acc_wf, ↓Core.banks_wf, ↓Core.istore_wf, ↓Core.mk_memWf, ↓Core.rf_wf, ↓Core.store_wf, ↓State.cap_wf, ↓State.cores_wf, ↓State.hbm_wf, ↓State.mk_memWf, ↓State.modGroup_memWf, hs, implies_true]

@[simp ↓] theorem State.forgetFences_memWf (s : State) (c uid : Nat) (lanes : Word) (hs : s.memWf = true) :
    (State.forgetFences s c uid lanes).memWf = true := by
  unfold State.forgetFences
  simp +contextual (maxDischargeDepth := 60) only [↓Core.acc_wf, ↓Core.banks_wf, ↓Core.istore_wf, ↓Core.iteFst_memWf, ↓Core.ite_memWf, ↓Core.mk_memWf, ↓Core.rf_wf, ↓Core.store_wf, ↓Mem.wf_clear, ↓Mem.wf_filter, ↓Mem.wf_set, ↓Mem.wf_write, ↓Res.ite_memWf, ↓State.cap_wf, ↓State.core_memWf, ↓State.cores_wf, ↓State.hbm_wf, ↓State.iteFst_memWf, ↓State.ite_memWf, ↓State.mk_memWf, hs, implies_true]

@[simp ↓] theorem State.takeTrap_memWf (s : State) (c gid : Nat) (t : Trap) (victims : Word) (precise : Bool) (resume : Nat → Word) (hs : s.memWf = true) :
    (State.takeTrap s c gid t victims precise resume).memWf = true := by
  unfold State.takeTrap
  simp +contextual (maxDischargeDepth := 60) only [↓Core.acc_wf, ↓Core.banks_wf, ↓Core.istore_wf, ↓Core.iteFst_memWf, ↓Core.ite_memWf, ↓Core.mk_memWf, ↓Core.rf_wf, ↓Core.store_wf, ↓Res.done_memWf, ↓Res.ite_memWf, ↓Res.moved_memWf, ↓Res.trap_memWf, ↓Res.wait_memWf, ↓State.cap_wf, ↓State.cores_wf, ↓State.escalate_memWf, ↓State.forgetFences_memWf, ↓State.hbm_wf, ↓State.iteFst_memWf, ↓State.ite_memWf, ↓State.mk_memWf, ↓State.modGroup_memWf, ↓State.moveTo_memWf, ↓State.pushLink_memWf, ↓State.restartSupervisor_memWf, ↓misaligned_memWf, ↓prot_memWf, hs, implies_true]

@[simp ↓] theorem State.takeFailed_memWf (s : State) (c gid : Nat) (hs : s.memWf = true) :
    (State.takeFailed s c gid).memWf = true := by
  unfold State.takeFailed
  (try dsimp only)
  repeat' first | with_reducible assumption | with_reducible rfl | (intro _) | with_reducible apply Core.acc_wf | with_reducible apply Core.banks_wf | with_reducible apply Core.istore_wf | with_reducible apply Core.rf_wf | with_reducible apply Core.store_wf | with_reducible apply Res.done_memWf | with_reducible apply Res.moved_memWf | with_reducible apply Res.trap_memWf | with_reducible apply Res.wait_memWf | with_reducible apply State.cap_wf | with_reducible apply State.cores_wf | with_reducible apply State.hbm_wf | with_reducible apply State.modGroup_memWf | with_reducible apply State.takeTrap_memWf | with_reducible apply misaligned_memWf | with_reducible apply prot_memWf | (refine State.fst_of_eq ?_ (by with_reducible assumption)) | (refine Core.fst_of_eq ?_ (by with_reducible assumption)) | split | (with_reducible refine State.mk_memWf ?_ ?_ ?_) | (with_reducible refine Core.mk_memWf ?_ ?_ ?_ ?_ ?_)

@[simp ↓] theorem State.pendTrap_memWf (s : State) (c gid uid ctx : Nat) (t : Trap) (payload : List Word) (team : Nat) (hs : s.memWf = true) :
    (State.pendTrap s c gid uid ctx t payload team).memWf = true := by
  unfold State.pendTrap
  (try dsimp only)
  repeat' first | with_reducible assumption | with_reducible rfl | (intro _) | with_reducible apply Core.acc_wf | with_reducible apply Core.banks_wf | with_reducible apply Core.istore_wf | with_reducible apply Core.iteFst_memWf | with_reducible apply Core.ite_memWf | with_reducible apply Core.rf_wf | with_reducible apply Core.store_wf | with_reducible apply Res.ite_memWf | with_reducible apply State.cap_wf | with_reducible apply State.core_memWf | with_reducible apply State.cores_wf | with_reducible apply State.hbm_wf | with_reducible apply State.iteFst_memWf | with_reducible apply State.ite_memWf | with_reducible apply State.modGroup_memWf | with_reducible apply State.postOnce_memWf | with_reducible apply State.postRecord_memWf | (refine State.fst_of_eq ?_ (by with_reducible assumption)) | (refine Core.fst_of_eq ?_ (by with_reducible assumption)) | split | (with_reducible refine State.mk_memWf ?_ ?_ ?_) | (with_reducible refine Core.mk_memWf ?_ ?_ ?_ ?_ ?_)

@[simp ↓] theorem Core.ringFlag_memWf (k : Core) (d b : Nat) (hk : k.memWf = true) :
    (Core.ringFlag k d b).memWf = true := by
  unfold Core.ringFlag
  simp +contextual (maxDischargeDepth := 60) only [↓Core.putStore64_memWf, hk, implies_true]

theorem Core.ringGive_memWf (k : Core) (d : Nat) (q0 : DWord) (n : Nat) (cons : Bool) (hk : k.memWf = true) :
    ∀ q, Core.ringGive k d q0 n cons = some q → q.memWf = true := by
  intro q e
  unfold Core.ringGive at e
  grind [Core.putStore64_memWf, Core.ringFlag_memWf]

@[simp ↓] theorem Core.ringTake_memWf (k : Core) (d : Nat) (q0 : DWord) (n : Nat) (cons : Bool) (hk : k.memWf = true) :
    (Core.ringTake k d q0 n cons).1.memWf = true := by
  unfold Core.ringTake
  simp +contextual (maxDischargeDepth := 60) only [↓Core.iteFst_memWf, ↓Core.ite_memWf, ↓Core.putStore64_memWf, ↓Res.ite_memWf, ↓State.iteFst_memWf, ↓State.ite_memWf, hk, implies_true]

@[simp ↓] theorem State.tryRelease_memWf (s : State) (c : Nat) (r : RingRel) (hs : s.memWf = true) :
    (State.tryRelease s c r).memWf = true := by
  unfold State.tryRelease
  have h := State.core_memWf hs c
  extract_lets k first
  split
  · exact hs
  · rename_i k1 _ _
    have hk : k1.memWf = true := Core.mk_memWf (Core.rf_wf h) (Core.banks_wf h) (Core.store_wf h) (Core.istore_wf h) (Core.acc_wf h)
    split
    · exact State.setCore_memWf hs (Core.wake_memWf _ _ (Core.ringGive_memWf _ _ _ _ _ hk _ ‹_›)) c
    · exact State.pendTrap_memWf _ _ _ _ _ _ _ _
        (State.setCore_memWf hs (Core.wake_memWf _ _ (Core.ringFlag_memWf _ _ _ hk)) c)

@[simp ↓] theorem State.ringReleases_memWf (s : State) (c : Nat) (hs : s.memWf = true) :
    (State.ringReleases s c).memWf = true := by
  unfold State.ringReleases
  simp +contextual (maxDischargeDepth := 60) only [↓Core.foldlFst_memWf, ↓Core.foldl_memWf, ↓State.core_memWf, ↓State.foldlFst_memWf, ↓State.foldl_memWf, ↓State.tryRelease_memWf, hs, implies_true]

@[simp ↓] theorem State.asIssued_memWf (s : State) (x : Ctx) (hs : s.memWf = true) :
    (State.asIssued s x).memWf = true := by
  unfold State.asIssued
  (try dsimp only)
  repeat' first | with_reducible assumption | with_reducible rfl | (intro _) | with_reducible apply Core.acc_wf | with_reducible apply Core.banks_wf | with_reducible apply Core.foldlFst_memWf | with_reducible apply Core.foldl_memWf | with_reducible apply Core.istore_wf | with_reducible apply Core.rf_wf | with_reducible apply Core.setS_memWf | with_reducible apply Core.store_wf | with_reducible apply State.cap_wf | with_reducible apply State.core_memWf | with_reducible apply State.cores_wf | with_reducible apply State.foldlFst_memWf | with_reducible apply State.foldl_memWf | with_reducible apply State.hbm_wf | (refine State.fst_of_eq ?_ (by with_reducible assumption)) | (refine Core.fst_of_eq ?_ (by with_reducible assumption)) | split | (with_reducible refine State.mk_memWf ?_ ?_ ?_) | (with_reducible refine Core.mk_memWf ?_ ?_ ?_ ?_ ?_)

@[simp ↓] theorem State.advance_memWf (s : State) (x : Ctx) (hs : s.memWf = true) :
    (State.advance s x).memWf = true := by
  unfold State.advance
  simp +contextual (maxDischargeDepth := 60) only [↓Core.acc_wf, ↓Core.banks_wf, ↓Core.istore_wf, ↓Core.mk_memWf, ↓Core.rf_wf, ↓Core.store_wf, ↓Res.done_memWf, ↓Res.moved_memWf, ↓Res.trap_memWf, ↓Res.wait_memWf, ↓State.cap_wf, ↓State.core_memWf, ↓State.cores_wf, ↓State.hbm_wf, ↓State.mk_memWf, ↓State.modGroup_memWf, ↓misaligned_memWf, ↓prot_memWf, hs, implies_true]

@[simp ↓] theorem State.advanceBehind_memWf (s : State) (x : Ctx) (op : Nat) (hs : s.memWf = true) :
    (State.advanceBehind s x op).memWf = true := by
  unfold State.advanceBehind
  simp +contextual (maxDischargeDepth := 60) only [↓Core.acc_wf, ↓Core.banks_wf, ↓Core.istore_wf, ↓Core.mk_memWf, ↓Core.rf_wf, ↓Core.store_wf, ↓Res.done_memWf, ↓Res.moved_memWf, ↓Res.trap_memWf, ↓Res.wait_memWf, ↓State.cap_wf, ↓State.core_memWf, ↓State.cores_wf, ↓State.hbm_wf, ↓State.mk_memWf, ↓State.modGroup_memWf, ↓misaligned_memWf, ↓prot_memWf, hs, implies_true]

@[simp ↓] theorem State.pauseAt_memWf (s : State) (x : Ctx) (w : Wait) (hs : s.memWf = true) :
    (State.pauseAt s x w).memWf = true := by
  unfold State.pauseAt
  simp +contextual (maxDischargeDepth := 60) only [↓Core.acc_wf, ↓Core.banks_wf, ↓Core.istore_wf, ↓Core.mk_memWf, ↓Core.rf_wf, ↓Core.store_wf, ↓Res.done_memWf, ↓Res.moved_memWf, ↓Res.trap_memWf, ↓Res.wait_memWf, ↓State.cap_wf, ↓State.core_memWf, ↓State.cores_wf, ↓State.hbm_wf, ↓State.mk_memWf, ↓State.modGroup_memWf, ↓misaligned_memWf, ↓prot_memWf, hs, implies_true]

@[simp ↓] theorem State.waitAt_memWf (s : State) (x : Ctx) (w : Wait) (hs : s.memWf = true) :
    (State.waitAt s x w).memWf = true := by
  unfold State.waitAt
  simp +contextual (maxDischargeDepth := 60) only [↓Core.acc_wf, ↓Core.banks_wf, ↓Core.istore_wf, ↓Core.mk_memWf, ↓Core.rf_wf, ↓Core.store_wf, ↓State.cap_wf, ↓State.core_memWf, ↓State.cores_wf, ↓State.hbm_wf, ↓State.mk_memWf, ↓State.modGroup_memWf, ↓State.pauseAt_memWf, hs, implies_true]

@[simp ↓] theorem State.loadEmul_memWf (s : State) (x : Ctx) (hs : s.memWf = true) :
    (State.loadEmul s x).memWf = true := by
  unfold State.loadEmul
  simp +contextual (maxDischargeDepth := 60) only [↓Core.acc_wf, ↓Core.banks_wf, ↓Core.istore_wf, ↓Core.iteFst_memWf, ↓Core.ite_memWf, ↓Core.mk_memWf, ↓Core.rf_wf, ↓Core.store_wf, ↓Mem.wf_clear, ↓Mem.wf_filter, ↓Mem.wf_set, ↓Mem.wf_write, ↓Res.ite_memWf, ↓State.cap_wf, ↓State.core_memWf, ↓State.cores_wf, ↓State.hbm_wf, ↓State.iteFst_memWf, ↓State.ite_memWf, ↓State.mk_memWf, ↓State.modGroup_memWf, hs, implies_true]

@[simp ↓] theorem State.preciseTrap_memWf (s : State) (x : Ctx) (t : Trap) (hs : s.memWf = true) :
    (State.preciseTrap s x t).memWf = true := by
  unfold State.preciseTrap
  (try dsimp only)
  repeat' first | with_reducible assumption | with_reducible rfl | (intro _) | with_reducible apply Core.acc_wf | with_reducible apply Core.banks_wf | with_reducible apply Core.istore_wf | with_reducible apply Core.iteFst_memWf | with_reducible apply Core.ite_memWf | with_reducible apply Core.rf_wf | with_reducible apply Core.store_wf | with_reducible apply Res.ite_memWf | with_reducible apply State.cap_wf | with_reducible apply State.core_memWf | with_reducible apply State.cores_wf | with_reducible apply State.hbm_wf | with_reducible apply State.iteFst_memWf | with_reducible apply State.ite_memWf | with_reducible apply State.loadEmul_memWf | with_reducible apply State.takeTrap_memWf | with_reducible apply outMemWf_fault | with_reducible apply outMemWf_ite | with_reducible apply outMemWf_next | (refine State.fst_of_eq ?_ (by with_reducible assumption)) | (refine Core.fst_of_eq ?_ (by with_reducible assumption)) | split | (with_reducible refine State.mk_memWf ?_ ?_ ?_) | (with_reducible refine Core.mk_memWf ?_ ?_ ?_ ?_ ?_)

@[simp ↓] theorem State.finish_memWf (s : State) (x : Ctx) (r : Res) (hs : s.memWf = true) (hr : r.memWf = true) :
    (State.finish s x r).memWf = true := by
  unfold State.finish
  cases r with
  | done s' => exact State.advance_memWf _ _ hr
  | moved s' => exact hr
  | wait s' w => exact State.waitAt_memWf _ _ _ hr
  | trap t => exact State.preciseTrap_memWf _ _ _ hs

@[simp ↓] theorem State.oneOf_memWf (s : State) (r : List Nat) (hs : s.memWf = true) :
    (State.oneOf s r).1.memWf = true := by
  unfold State.oneOf
  (try dsimp only)
  repeat' first | with_reducible assumption | with_reducible rfl | (intro _) | with_reducible apply State.getD_memWf | with_reducible apply Core.acc_wf | with_reducible apply Core.banks_wf | with_reducible apply Core.istore_wf | with_reducible apply Core.rf_wf | with_reducible apply Core.store_wf | with_reducible apply State.cap_wf | with_reducible apply State.cores_wf | with_reducible apply State.hbm_wf | (refine State.fst_of_eq ?_ (by with_reducible assumption)) | (refine Core.fst_of_eq ?_ (by with_reducible assumption)) | split | (with_reducible refine State.mk_memWf ?_ ?_ ?_) | (with_reducible refine Core.mk_memWf ?_ ?_ ?_ ?_ ?_)

@[simp ↓] theorem perform_memWf (barred : Nat → Bool) (vs : List Nat) (body : Ctx → State → Res) (s : State) (hbody : ∀ x s, State.memWf s = true → (body x s).memWf = true) (hs : s.memWf = true) :
    outMemWf (perform barred vs body s) = true := by
  unfold perform
  split
  · rfl
  · split
    · exact State.finish_memWf _ _ _ hs rfl
    · split
      · exact State.finish_memWf _ _ _ hs (hbody _ _ hs)
      · exact State.finish_memWf _ _ _ (State.oneOf_memWf _ _ hs) rfl

end Sys2Proof.Machine
end

