-- ==== Sys2Proof/Laws/CanonLane.lean ====
section
/-! SUPPORT. The instructions over registers and control flow keep the canonical form of storage. -/

set_option linter.unusedSimpArgs false

namespace Sys2Proof.Machine

@[simp ↓] theorem State.raiseFlags_memWf (s : State) (x : Ctx) (active fl : Word) (hs : s.memWf = true) :
    (State.raiseFlags s x active fl).memWf = true := by
  unfold State.raiseFlags
  (try dsimp only)
  repeat' first | with_reducible assumption | with_reducible rfl | (intro _) | with_reducible apply State.getD_memWf | with_reducible apply Core.acc_wf | with_reducible apply Core.banks_wf | with_reducible apply Core.istore_wf | with_reducible apply Core.iteFst_memWf | with_reducible apply Core.ite_memWf | with_reducible apply Core.rf_wf | with_reducible apply Core.store_wf | with_reducible apply Res.ite_memWf | with_reducible apply State.cap_wf | with_reducible apply State.core_memWf | with_reducible apply State.cores_wf | with_reducible apply State.hbm_wf | with_reducible apply State.iteFst_memWf | with_reducible apply State.ite_memWf | with_reducible apply State.modGroup_memWf | with_reducible apply State.pendTrap_memWf | (refine EngAcc.ok_of_eq ?_ (by with_reducible assumption)) | (refine EngAcc.poison_of_eq ?_ (by with_reducible assumption)) | (refine EngAcc.fault_of_eq ?_ (by with_reducible assumption)) | (refine EngAcc.window_of_eq ?_ (by with_reducible assumption)) | (refine EngAcc.wait_of_eq ?_ (by with_reducible assumption)) | (refine State.fst_of_eq ?_ (by with_reducible assumption)) | (refine Core.fst_of_eq ?_ (by with_reducible assumption)) | split | (with_reducible refine State.mk_memWf ?_ ?_ ?_) | (with_reducible refine Core.mk_memWf ?_ ?_ ?_ ?_ ?_)

@[simp ↓] theorem Core.putLanes_memWf (k : Core) (g : Group) (gid : Nat) (lanes : List Nat) (d n : Nat) (f : Nat → Nat → Word) (hk : k.memWf = true) :
    (Core.putLanes k g gid lanes d n f).memWf = true := by
  unfold Core.putLanes
  simp +contextual (maxDischargeDepth := 60) only [↓Core.foldlFst_memWf, ↓Core.foldl_memWf, ↓Core.setV_memWf, ↓State.foldlFst_memWf, ↓State.foldl_memWf, hk, implies_true]

@[simp ↓] theorem State.writeLanes_memWf (s : State) (x : Ctx) (lanes : Word) (d : VReg) (f : Nat → Word) (hs : s.memWf = true) :
    (State.writeLanes s x lanes d f).memWf = true := by
  unfold State.writeLanes
  simp +contextual (maxDischargeDepth := 60) only [↓Core.putLanes_memWf, ↓State.core_memWf, ↓State.modCore_memWf, hs, implies_true]

@[simp ↓] theorem State.writeS_memWf (s : State) (x : Ctx) (d : Nat) (w : Word) (hs : s.memWf = true) :
    (State.writeS s x d w).memWf = true := by
  unfold State.writeS
  simp +contextual (maxDischargeDepth := 60) only [↓Core.setS_memWf, ↓State.core_memWf, ↓State.modCore_memWf, hs, implies_true]

@[simp ↓] theorem State.writeSs_memWf (s : State) (x : Ctx) (d : Nat) (ws : List Word) (hs : s.memWf = true) :
    (State.writeSs s x d ws).memWf = true := by
  unfold State.writeSs
  simp +contextual (maxDischargeDepth := 60) only [↓Core.foldlFst_memWf, ↓Core.foldl_memWf, ↓Core.setS_memWf, ↓State.core_memWf, ↓State.foldlFst_memWf, ↓State.foldl_memWf, ↓State.modCore_memWf, hs, implies_true]

@[simp ↓] theorem State.writeMask_memWf (s : State) (x : Ctx) (md : MReg) (w : Word) (hs : s.memWf = true) :
    (State.writeMask s x md w).memWf = true := by
  unfold State.writeMask
  (try dsimp only)
  repeat' first | with_reducible assumption | with_reducible rfl | (intro _) | with_reducible apply Core.acc_wf | with_reducible apply Core.banks_wf | with_reducible apply Core.istore_wf | with_reducible apply Core.iteFst_memWf | with_reducible apply Core.ite_memWf | with_reducible apply Core.rf_wf | with_reducible apply Core.store_wf | with_reducible apply Res.ite_memWf | with_reducible apply State.cap_wf | with_reducible apply State.core_memWf | with_reducible apply State.cores_wf | with_reducible apply State.hbm_wf | with_reducible apply State.iteFst_memWf | with_reducible apply State.ite_memWf | with_reducible apply State.modGroup_memWf | (refine EngAcc.ok_of_eq ?_ (by with_reducible assumption)) | (refine EngAcc.poison_of_eq ?_ (by with_reducible assumption)) | (refine EngAcc.fault_of_eq ?_ (by with_reducible assumption)) | (refine EngAcc.window_of_eq ?_ (by with_reducible assumption)) | (refine EngAcc.wait_of_eq ?_ (by with_reducible assumption)) | (refine State.fst_of_eq ?_ (by with_reducible assumption)) | (refine Core.fst_of_eq ?_ (by with_reducible assumption)) | split | (with_reducible refine State.mk_memWf ?_ ?_ ?_) | (with_reducible refine Core.mk_memWf ?_ ?_ ?_ ?_ ?_)

@[simp ↓] theorem State.writeX_memWf (s : State) (x : Ctx) (d : XReg) (w : Word) (hs : s.memWf = true) :
    (State.writeX s x d w).memWf = true := by
  unfold State.writeX
  (try dsimp only)
  repeat' first | with_reducible assumption | with_reducible rfl | (intro _) | with_reducible apply Core.acc_wf | with_reducible apply Core.banks_wf | with_reducible apply Core.istore_wf | with_reducible apply Core.rf_wf | with_reducible apply Core.store_wf | with_reducible apply State.cap_wf | with_reducible apply State.cores_wf | with_reducible apply State.hbm_wf | with_reducible apply State.writeMask_memWf | with_reducible apply State.writeS_memWf | (refine EngAcc.ok_of_eq ?_ (by with_reducible assumption)) | (refine EngAcc.poison_of_eq ?_ (by with_reducible assumption)) | (refine EngAcc.fault_of_eq ?_ (by with_reducible assumption)) | (refine EngAcc.window_of_eq ?_ (by with_reducible assumption)) | (refine EngAcc.wait_of_eq ?_ (by with_reducible assumption)) | (refine State.fst_of_eq ?_ (by with_reducible assumption)) | (refine Core.fst_of_eq ?_ (by with_reducible assumption)) | split | (with_reducible refine State.mk_memWf ?_ ?_ ?_) | (with_reducible refine Core.mk_memWf ?_ ?_ ?_ ?_ ?_)

@[simp ↓] theorem run_memWf (i : Instr) (body : Ctx → State → Res) (s : State) (hbody : ∀ x s, State.memWf s = true → (body x s).memWf = true) (hs : s.memWf = true) :
    outMemWf (run i body s) = true := by
  unfold run
  simp +contextual (maxDischargeDepth := 60) only [↓perform_memWf, hbody, hs, implies_true]

@[simp ↓] theorem Core.passYield_memWf (k : Core) (by_ : Option Nat) (cc : Nat) (hk : k.memWf = true) :
    (Core.passYield k by_ cc).memWf = true := by
  unfold Core.passYield
  simp +contextual (maxDischargeDepth := 60) only [↓Core.acc_wf, ↓Core.banks_wf, ↓Core.istore_wf, ↓Core.iteFst_memWf, ↓Core.ite_memWf, ↓Core.mk_memWf, ↓Core.rf_wf, ↓Core.store_wf, ↓Mem.wf_clear, ↓Mem.wf_filter, ↓Mem.wf_set, ↓Mem.wf_write, ↓Res.done_memWf, ↓Res.ite_memWf, ↓Res.moved_memWf, ↓Res.trap_memWf, ↓Res.wait_memWf, ↓State.cap_wf, ↓State.cores_wf, ↓State.hbm_wf, ↓State.iteFst_memWf, ↓State.ite_memWf, ↓State.mk_memWf, ↓misaligned_memWf, ↓prot_memWf, hk, implies_true]

@[simp ↓] theorem State.tick_memWf (s : State) (hs : s.memWf = true) :
    (State.tick s).memWf = true := by
  unfold State.tick
  refine State.mk_memWf (State.hbm_wf hs) (State.cap_wf hs) ?_
  rw [List.all_eq_true]
  intro p hp
  obtain ⟨q, hq, rfl⟩ := List.mem_map.1 hp
  exact Core.passYield_memWf _ _ _ (List.all_eq_true.1 (State.cores_wf hs) q hq)

@[simp ↓] theorem State.countIssue_memWf (s : State) (x : Candidate) (ps chosen : List PcClass) (hs : s.memWf = true) :
    (State.countIssue s x ps chosen).memWf = true := by
  unfold State.countIssue
  simp +contextual (maxDischargeDepth := 60) only [↓Core.acc_wf, ↓Core.banks_wf, ↓Core.istore_wf, ↓Core.iteFst_memWf, ↓Core.ite_memWf, ↓Core.mk_memWf, ↓Core.passYield_memWf, ↓Core.rf_wf, ↓Core.store_wf, ↓Res.ite_memWf, ↓State.cap_wf, ↓State.core_memWf, ↓State.cores_wf, ↓State.hbm_wf, ↓State.iteFst_memWf, ↓State.ite_memWf, ↓State.mk_memWf, ↓State.modCore_memWf, ↓State.modGroup_memWf, hs, implies_true]

@[simp ↓] theorem State.issue_memWf (s : State) (x : Candidate) (hs : s.memWf = true) :
    (State.issue s x).memWf = true := by
  unfold State.issue
  (try dsimp only)
  repeat' first | with_reducible assumption | with_reducible rfl | (intro _) | with_reducible apply Core.acc_wf | with_reducible apply Core.banks_wf | with_reducible apply Core.istore_wf | with_reducible apply Core.iteFst_memWf | with_reducible apply Core.ite_memWf | with_reducible apply Core.rf_wf | with_reducible apply Core.store_wf | with_reducible apply Res.ite_memWf | with_reducible apply State.cap_wf | with_reducible apply State.core_memWf | with_reducible apply State.cores_wf | with_reducible apply State.countIssue_memWf | with_reducible apply State.hbm_wf | with_reducible apply State.iteFst_memWf | with_reducible apply State.ite_memWf | (refine EngAcc.ok_of_eq ?_ (by with_reducible assumption)) | (refine EngAcc.poison_of_eq ?_ (by with_reducible assumption)) | (refine EngAcc.fault_of_eq ?_ (by with_reducible assumption)) | (refine EngAcc.window_of_eq ?_ (by with_reducible assumption)) | (refine EngAcc.wait_of_eq ?_ (by with_reducible assumption)) | (refine State.fst_of_eq ?_ (by with_reducible assumption)) | (refine Core.fst_of_eq ?_ (by with_reducible assumption)) | split | (with_reducible refine State.mk_memWf ?_ ?_ ?_) | (with_reducible refine Core.mk_memWf ?_ ?_ ?_ ?_ ?_)

@[simp ↓] theorem State.resume_memWf (s : State) (u : Cur) (hs : s.memWf = true) :
    (State.resume s u).memWf = true := by
  unfold State.resume
  simp +contextual (maxDischargeDepth := 60) only [↓Core.acc_wf, ↓Core.banks_wf, ↓Core.istore_wf, ↓Core.mk_memWf, ↓Core.rf_wf, ↓Core.store_wf, ↓State.cap_wf, ↓State.core_memWf, ↓State.cores_wf, ↓State.hbm_wf, ↓State.mk_memWf, ↓State.modGroup_memWf, hs, implies_true]

@[simp ↓] theorem State.fetchTrap_memWf (s : State) (hs : s.memWf = true) :
    (State.fetchTrap s).memWf = true := by
  unfold State.fetchTrap
  (try dsimp only)
  repeat' first | with_reducible assumption | with_reducible rfl | (intro _) | with_reducible apply Core.acc_wf | with_reducible apply Core.banks_wf | with_reducible apply Core.istore_wf | with_reducible apply Core.rf_wf | with_reducible apply Core.store_wf | with_reducible apply State.cap_wf | with_reducible apply State.cores_wf | with_reducible apply State.hbm_wf | with_reducible apply State.preciseTrap_memWf | (refine EngAcc.ok_of_eq ?_ (by with_reducible assumption)) | (refine EngAcc.poison_of_eq ?_ (by with_reducible assumption)) | (refine EngAcc.fault_of_eq ?_ (by with_reducible assumption)) | (refine EngAcc.window_of_eq ?_ (by with_reducible assumption)) | (refine EngAcc.wait_of_eq ?_ (by with_reducible assumption)) | (refine State.fst_of_eq ?_ (by with_reducible assumption)) | (refine Core.fst_of_eq ?_ (by with_reducible assumption)) | split | (with_reducible refine State.mk_memWf ?_ ?_ ?_) | (with_reducible refine Core.mk_memWf ?_ ?_ ?_ ?_ ?_)

@[simp ↓] theorem State.idle_memWf (s : State) (hs : s.memWf = true) :
    (State.idle s).memWf = true := by
  unfold State.idle
  exact State.tick_memWf _ hs

@[simp ↓] theorem laneMap_memWf (i : Instr) (m : MReg) (d a : VReg) (b : LaneSrc) (f : Word → Word → Word → Word) (s : State) (hs : s.memWf = true) :
    outMemWf (laneMap i m d a b f s) = true := by
  unfold laneMap
  simp +contextual (maxDischargeDepth := 60) only [↓Res.done_memWf, ↓Res.moved_memWf, ↓Res.trap_memWf, ↓Res.wait_memWf, ↓State.core_memWf, ↓State.writeLanes_memWf, ↓misaligned_memWf, ↓prot_memWf, ↓run_memWf, hs, implies_true]

@[simp ↓] theorem execAddLane_memWf (m : MReg) (d a : VReg) (b : LaneSrc) (s : State) (hs : s.memWf = true) :
    outMemWf (execAddLane m d a b s) = true := by
  unfold execAddLane
  simp +contextual (maxDischargeDepth := 60) only [↓laneMap_memWf, hs, implies_true]

@[simp ↓] theorem execSubLane_memWf (m : MReg) (d a : VReg) (b : LaneSrc) (s : State) (hs : s.memWf = true) :
    outMemWf (execSubLane m d a b s) = true := by
  unfold execSubLane
  simp +contextual (maxDischargeDepth := 60) only [↓laneMap_memWf, hs, implies_true]

@[simp ↓] theorem execMulLane_memWf (m : MReg) (d a : VReg) (b : LaneSrc) (s : State) (hs : s.memWf = true) :
    outMemWf (execMulLane m d a b s) = true := by
  unfold execMulLane
  simp +contextual (maxDischargeDepth := 60) only [↓laneMap_memWf, hs, implies_true]

@[simp ↓] theorem execMulhiLane_memWf (m : MReg) (d a : VReg) (b : LaneSrc) (s : State) (hs : s.memWf = true) :
    outMemWf (execMulhiLane m d a b s) = true := by
  unfold execMulhiLane
  simp +contextual (maxDischargeDepth := 60) only [↓laneMap_memWf, hs, implies_true]

@[simp ↓] theorem execMulhuLane_memWf (m : MReg) (d a : VReg) (b : LaneSrc) (s : State) (hs : s.memWf = true) :
    outMemWf (execMulhuLane m d a b s) = true := by
  unfold execMulhuLane
  simp +contextual (maxDischargeDepth := 60) only [↓laneMap_memWf, hs, implies_true]

@[simp ↓] theorem execMad_memWf (m : MReg) (d a : VReg) (b : LaneSrc) (s : State) (hs : s.memWf = true) :
    outMemWf (execMad m d a b s) = true := by
  unfold execMad
  simp +contextual (maxDischargeDepth := 60) only [↓laneMap_memWf, hs, implies_true]

@[simp ↓] theorem execAndLane_memWf (m : MReg) (d a : VReg) (b : LaneSrc) (s : State) (hs : s.memWf = true) :
    outMemWf (execAndLane m d a b s) = true := by
  unfold execAndLane
  simp +contextual (maxDischargeDepth := 60) only [↓laneMap_memWf, hs, implies_true]

@[simp ↓] theorem execOrLane_memWf (m : MReg) (d a : VReg) (b : LaneSrc) (s : State) (hs : s.memWf = true) :
    outMemWf (execOrLane m d a b s) = true := by
  unfold execOrLane
  simp +contextual (maxDischargeDepth := 60) only [↓laneMap_memWf, hs, implies_true]

@[simp ↓] theorem execXorLane_memWf (m : MReg) (d a : VReg) (b : LaneSrc) (s : State) (hs : s.memWf = true) :
    outMemWf (execXorLane m d a b s) = true := by
  unfold execXorLane
  simp +contextual (maxDischargeDepth := 60) only [↓laneMap_memWf, hs, implies_true]

@[simp ↓] theorem execShlLane_memWf (m : MReg) (d a : VReg) (b : LaneSrc) (s : State) (hs : s.memWf = true) :
    outMemWf (execShlLane m d a b s) = true := by
  unfold execShlLane
  simp +contextual (maxDischargeDepth := 60) only [↓laneMap_memWf, hs, implies_true]

@[simp ↓] theorem execShrLane_memWf (m : MReg) (d a : VReg) (b : LaneSrc) (s : State) (hs : s.memWf = true) :
    outMemWf (execShrLane m d a b s) = true := by
  unfold execShrLane
  simp +contextual (maxDischargeDepth := 60) only [↓laneMap_memWf, hs, implies_true]

@[simp ↓] theorem execSarLane_memWf (m : MReg) (d a : VReg) (b : LaneSrc) (s : State) (hs : s.memWf = true) :
    outMemWf (execSarLane m d a b s) = true := by
  unfold execSarLane
  simp +contextual (maxDischargeDepth := 60) only [↓laneMap_memWf, hs, implies_true]

@[simp ↓] theorem execMinLane_memWf (m : MReg) (d a : VReg) (b : LaneSrc) (s : State) (hs : s.memWf = true) :
    outMemWf (execMinLane m d a b s) = true := by
  unfold execMinLane
  simp +contextual (maxDischargeDepth := 60) only [↓laneMap_memWf, hs, implies_true]

@[simp ↓] theorem execMinuLane_memWf (m : MReg) (d a : VReg) (b : LaneSrc) (s : State) (hs : s.memWf = true) :
    outMemWf (execMinuLane m d a b s) = true := by
  unfold execMinuLane
  simp +contextual (maxDischargeDepth := 60) only [↓laneMap_memWf, hs, implies_true]

@[simp ↓] theorem execMaxLane_memWf (m : MReg) (d a : VReg) (b : LaneSrc) (s : State) (hs : s.memWf = true) :
    outMemWf (execMaxLane m d a b s) = true := by
  unfold execMaxLane
  simp +contextual (maxDischargeDepth := 60) only [↓laneMap_memWf, hs, implies_true]

@[simp ↓] theorem execMaxuLane_memWf (m : MReg) (d a : VReg) (b : LaneSrc) (s : State) (hs : s.memWf = true) :
    outMemWf (execMaxuLane m d a b s) = true := by
  unfold execMaxuLane
  simp +contextual (maxDischargeDepth := 60) only [↓laneMap_memWf, hs, implies_true]

@[simp ↓] theorem execBfxLane_memWf (m : MReg) (d a : VReg) (b : LaneSrc) (s : State) (hs : s.memWf = true) :
    outMemWf (execBfxLane m d a b s) = true := by
  unfold execBfxLane
  simp +contextual (maxDischargeDepth := 60) only [↓laneMap_memWf, hs, implies_true]

@[simp ↓] theorem execBfiLane_memWf (m : MReg) (d a : VReg) (b : LaneSrc) (s : State) (hs : s.memWf = true) :
    outMemWf (execBfiLane m d a b s) = true := by
  unfold execBfiLane
  simp +contextual (maxDischargeDepth := 60) only [↓laneMap_memWf, hs, implies_true]

@[simp ↓] theorem execAbs_memWf (m : MReg) (d a : VReg) (s : State) (hs : s.memWf = true) :
    outMemWf (execAbs m d a s) = true := by
  unfold execAbs
  simp +contextual (maxDischargeDepth := 60) only [↓laneMap_memWf, hs, implies_true]

@[simp ↓] theorem execNeg_memWf (m : MReg) (d a : VReg) (s : State) (hs : s.memWf = true) :
    outMemWf (execNeg m d a s) = true := by
  unfold execNeg
  simp +contextual (maxDischargeDepth := 60) only [↓laneMap_memWf, hs, implies_true]

@[simp ↓] theorem execMovLane_memWf (m : MReg) (d a : VReg) (s : State) (hs : s.memWf = true) :
    outMemWf (execMovLane m d a s) = true := by
  unfold execMovLane
  simp +contextual (maxDischargeDepth := 60) only [↓laneMap_memWf, hs, implies_true]

@[simp ↓] theorem execClzLane_memWf (m : MReg) (d a : VReg) (s : State) (hs : s.memWf = true) :
    outMemWf (execClzLane m d a s) = true := by
  unfold execClzLane
  simp +contextual (maxDischargeDepth := 60) only [↓laneMap_memWf, hs, implies_true]

@[simp ↓] theorem execPopcLane_memWf (m : MReg) (d a : VReg) (s : State) (hs : s.memWf = true) :
    outMemWf (execPopcLane m d a s) = true := by
  unfold execPopcLane
  simp +contextual (maxDischargeDepth := 60) only [↓laneMap_memWf, hs, implies_true]

@[simp ↓] theorem execMoviLane_memWf (m : MReg) (d : VReg) (i : Imm14) (s : State) (hs : s.memWf = true) :
    outMemWf (execMoviLane m d i s) = true := by
  unfold execMoviLane
  simp +contextual (maxDischargeDepth := 60) only [↓Core.acc_wf, ↓Core.banks_wf, ↓Core.istore_wf, ↓Core.mk_memWf, ↓Core.rf_wf, ↓Core.store_wf, ↓State.cap_wf, ↓State.cores_wf, ↓State.hbm_wf, ↓State.mk_memWf, ↓laneMap_memWf, hs, implies_true]

@[simp ↓] theorem execCmpLane_memWf (m : MReg) (cc : Cc) (md : MReg) (a : VReg) (b : LaneSrc) (s : State) (hs : s.memWf = true) :
    outMemWf (execCmpLane m cc md a b s) = true := by
  unfold execCmpLane
  simp +contextual (maxDischargeDepth := 60) only [↓Res.done_memWf, ↓Res.moved_memWf, ↓Res.trap_memWf, ↓Res.wait_memWf, ↓State.core_memWf, ↓State.writeMask_memWf, ↓misaligned_memWf, ↓prot_memWf, ↓run_memWf, hs, implies_true]

@[simp ↓] theorem execSelLane_memWf (m : MReg) (d a : VReg) (b : LaneSrc) (s : State) (hs : s.memWf = true) :
    outMemWf (execSelLane m d a b s) = true := by
  unfold execSelLane
  simp +contextual (maxDischargeDepth := 60) only [↓Core.iteFst_memWf, ↓Core.ite_memWf, ↓Res.done_memWf, ↓Res.ite_memWf, ↓Res.moved_memWf, ↓Res.trap_memWf, ↓Res.wait_memWf, ↓State.core_memWf, ↓State.iteFst_memWf, ↓State.ite_memWf, ↓State.writeLanes_memWf, ↓misaligned_memWf, ↓prot_memWf, ↓run_memWf, hs, implies_true]

@[simp ↓] theorem laneFp_memWf (i : Instr) (m : MReg) (d a : VReg) (b : LaneSrc) (f : Word → Word → Word → Word × Word) (s : State) (hs : s.memWf = true) :
    outMemWf (laneFp i m d a b f s) = true := by
  unfold laneFp
  simp +contextual (maxDischargeDepth := 60) only [↓Core.foldlFst_memWf, ↓Core.foldl_memWf, ↓Res.done_memWf, ↓Res.moved_memWf, ↓Res.trap_memWf, ↓Res.wait_memWf, ↓State.core_memWf, ↓State.foldlFst_memWf, ↓State.foldl_memWf, ↓State.raiseFlags_memWf, ↓State.writeLanes_memWf, ↓misaligned_memWf, ↓prot_memWf, ↓run_memWf, hs, implies_true]

@[simp ↓] theorem State.stepGens_memWf (s : State) (x : Ctx) (lanes : Word) (hs : s.memWf = true) :
    (State.stepGens s x lanes).memWf = true := by
  unfold State.stepGens
  simp +contextual (maxDischargeDepth := 60) only [↓Core.acc_wf, ↓Core.banks_wf, ↓Core.istore_wf, ↓Core.iteFst_memWf, ↓Core.ite_memWf, ↓Core.mk_memWf, ↓Core.rf_wf, ↓Core.store_wf, ↓Res.ite_memWf, ↓State.cap_wf, ↓State.core_memWf, ↓State.cores_wf, ↓State.hbm_wf, ↓State.iteFst_memWf, ↓State.ite_memWf, ↓State.mk_memWf, ↓State.modGroup_memWf, hs, implies_true]

@[simp ↓] theorem execFadd_memWf (m : MReg) (d a : VReg) (b : LaneSrc) (s : State) (hs : s.memWf = true) :
    outMemWf (execFadd m d a b s) = true := by
  unfold execFadd
  simp +contextual (maxDischargeDepth := 60) only [↓laneFp_memWf, hs, implies_true]

@[simp ↓] theorem execFsub_memWf (m : MReg) (d a : VReg) (b : LaneSrc) (s : State) (hs : s.memWf = true) :
    outMemWf (execFsub m d a b s) = true := by
  unfold execFsub
  simp +contextual (maxDischargeDepth := 60) only [↓laneFp_memWf, hs, implies_true]

@[simp ↓] theorem execFmul_memWf (m : MReg) (d a : VReg) (b : LaneSrc) (s : State) (hs : s.memWf = true) :
    outMemWf (execFmul m d a b s) = true := by
  unfold execFmul
  simp +contextual (maxDischargeDepth := 60) only [↓laneFp_memWf, hs, implies_true]

@[simp ↓] theorem execFfma_memWf (m : MReg) (d a : VReg) (b : LaneSrc) (s : State) (hs : s.memWf = true) :
    outMemWf (execFfma m d a b s) = true := by
  unfold execFfma
  simp +contextual (maxDischargeDepth := 60) only [↓laneFp_memWf, hs, implies_true]

@[simp ↓] theorem execFmin_memWf (m : MReg) (d a : VReg) (b : LaneSrc) (s : State) (hs : s.memWf = true) :
    outMemWf (execFmin m d a b s) = true := by
  unfold execFmin
  simp +contextual (maxDischargeDepth := 60) only [↓laneFp_memWf, hs, implies_true]

@[simp ↓] theorem execFmax_memWf (m : MReg) (d a : VReg) (b : LaneSrc) (s : State) (hs : s.memWf = true) :
    outMemWf (execFmax m d a b s) = true := by
  unfold execFmax
  simp +contextual (maxDischargeDepth := 60) only [↓laneFp_memWf, hs, implies_true]

@[simp ↓] theorem execFdiv_memWf (m : MReg) (d a : VReg) (b : LaneSrc) (s : State) (hs : s.memWf = true) :
    outMemWf (execFdiv m d a b s) = true := by
  unfold execFdiv
  simp +contextual (maxDischargeDepth := 60) only [↓laneFp_memWf, hs, implies_true]

@[simp ↓] theorem execHadd2_memWf (m : MReg) (d a : VReg) (b : LaneSrc) (s : State) (hs : s.memWf = true) :
    outMemWf (execHadd2 m d a b s) = true := by
  unfold execHadd2
  simp +contextual (maxDischargeDepth := 60) only [↓laneFp_memWf, hs, implies_true]

@[simp ↓] theorem execHmul2_memWf (m : MReg) (d a : VReg) (b : LaneSrc) (s : State) (hs : s.memWf = true) :
    outMemWf (execHmul2 m d a b s) = true := by
  unfold execHmul2
  simp +contextual (maxDischargeDepth := 60) only [↓laneFp_memWf, hs, implies_true]

@[simp ↓] theorem execHfma2_memWf (m : MReg) (d a : VReg) (b : LaneSrc) (s : State) (hs : s.memWf = true) :
    outMemWf (execHfma2 m d a b s) = true := by
  unfold execHfma2
  simp +contextual (maxDischargeDepth := 60) only [↓laneFp_memWf, hs, implies_true]

@[simp ↓] theorem execHadd2Bf_memWf (m : MReg) (d a : VReg) (b : LaneSrc) (s : State) (hs : s.memWf = true) :
    outMemWf (execHadd2Bf m d a b s) = true := by
  unfold execHadd2Bf
  simp +contextual (maxDischargeDepth := 60) only [↓laneFp_memWf, hs, implies_true]

@[simp ↓] theorem execHmul2Bf_memWf (m : MReg) (d a : VReg) (b : LaneSrc) (s : State) (hs : s.memWf = true) :
    outMemWf (execHmul2Bf m d a b s) = true := by
  unfold execHmul2Bf
  simp +contextual (maxDischargeDepth := 60) only [↓laneFp_memWf, hs, implies_true]

@[simp ↓] theorem execHfma2Bf_memWf (m : MReg) (d a : VReg) (b : LaneSrc) (s : State) (hs : s.memWf = true) :
    outMemWf (execHfma2Bf m d a b s) = true := by
  unfold execHfma2Bf
  simp +contextual (maxDischargeDepth := 60) only [↓laneFp_memWf, hs, implies_true]

@[simp ↓] theorem execFrcp_memWf (m : MReg) (d a : VReg) (s : State) (hs : s.memWf = true) :
    outMemWf (execFrcp m d a s) = true := by
  unfold execFrcp
  simp +contextual (maxDischargeDepth := 60) only [↓laneFp_memWf, hs, implies_true]

@[simp ↓] theorem execFrsq_memWf (m : MReg) (d a : VReg) (s : State) (hs : s.memWf = true) :
    outMemWf (execFrsq m d a s) = true := by
  unfold execFrsq
  simp +contextual (maxDischargeDepth := 60) only [↓laneFp_memWf, hs, implies_true]

@[simp ↓] theorem execFex2_memWf (m : MReg) (d a : VReg) (s : State) (hs : s.memWf = true) :
    outMemWf (execFex2 m d a s) = true := by
  unfold execFex2
  simp +contextual (maxDischargeDepth := 60) only [↓laneFp_memWf, hs, implies_true]

@[simp ↓] theorem execFlg2_memWf (m : MReg) (d a : VReg) (s : State) (hs : s.memWf = true) :
    outMemWf (execFlg2 m d a s) = true := by
  unfold execFlg2
  simp +contextual (maxDischargeDepth := 60) only [↓laneFp_memWf, hs, implies_true]

@[simp ↓] theorem execFsqrt_memWf (m : MReg) (d a : VReg) (s : State) (hs : s.memWf = true) :
    outMemWf (execFsqrt m d a s) = true := by
  unfold execFsqrt
  simp +contextual (maxDischargeDepth := 60) only [↓laneFp_memWf, hs, implies_true]

@[simp ↓] theorem execFcmp_memWf (m : MReg) (cc : FCc) (md : MReg) (a : VReg) (b : LaneSrc) (s : State) (hs : s.memWf = true) :
    outMemWf (execFcmp m cc md a b s) = true := by
  unfold execFcmp
  simp +contextual (maxDischargeDepth := 60) only [↓Core.foldlFst_memWf, ↓Core.foldl_memWf, ↓Res.done_memWf, ↓Res.moved_memWf, ↓Res.trap_memWf, ↓Res.wait_memWf, ↓State.core_memWf, ↓State.foldlFst_memWf, ↓State.foldl_memWf, ↓State.raiseFlags_memWf, ↓State.writeMask_memWf, ↓misaligned_memWf, ↓prot_memWf, ↓run_memWf, hs, implies_true]

@[simp ↓] theorem execFcvt_memWf (m : MReg) (d a : VReg) (dst src : CvtFmt) (r : CvtRnd) (s : State) (hs : s.memWf = true) :
    outMemWf (execFcvt m d a dst src r s) = true := by
  unfold execFcvt
  simp +contextual (maxDischargeDepth := 60) only [↓Core.foldlFst_memWf, ↓Core.foldl_memWf, ↓Core.iteFst_memWf, ↓Core.ite_memWf, ↓Res.done_memWf, ↓Res.ite_memWf, ↓Res.moved_memWf, ↓Res.trap_memWf, ↓Res.wait_memWf, ↓State.core_memWf, ↓State.foldlFst_memWf, ↓State.foldl_memWf, ↓State.iteFst_memWf, ↓State.ite_memWf, ↓State.raiseFlags_memWf, ↓State.stepGens_memWf, ↓State.writeLanes_memWf, ↓misaligned_memWf, ↓prot_memWf, ↓run_memWf, hs, implies_true]

@[simp ↓] theorem groupMap_memWf (i : Instr) (m : MReg) (d a : VReg) (f : List Nat → (Nat → Word) → Nat → Word) (s : State) (hs : s.memWf = true) :
    outMemWf (groupMap i m d a f s) = true := by
  unfold groupMap
  simp +contextual (maxDischargeDepth := 60) only [↓Res.done_memWf, ↓Res.moved_memWf, ↓Res.trap_memWf, ↓Res.wait_memWf, ↓State.core_memWf, ↓State.writeLanes_memWf, ↓misaligned_memWf, ↓prot_memWf, ↓run_memWf, hs, implies_true]

@[simp ↓] theorem execShfl_memWf (m : MReg) (mode : ShflMode) (d a : VReg) (b : VLit) (s : State) (hs : s.memWf = true) :
    outMemWf (execShfl m mode d a b s) = true := by
  unfold execShfl
  simp +contextual (maxDischargeDepth := 60) only [↓Core.iteFst_memWf, ↓Core.ite_memWf, ↓Res.done_memWf, ↓Res.ite_memWf, ↓Res.moved_memWf, ↓Res.trap_memWf, ↓Res.wait_memWf, ↓State.core_memWf, ↓State.iteFst_memWf, ↓State.ite_memWf, ↓State.writeLanes_memWf, ↓misaligned_memWf, ↓prot_memWf, ↓run_memWf, hs, implies_true]

@[simp ↓] theorem execVote_memWf (m : MReg) (mode : VoteMode) (d a : VReg) (s : State) (hs : s.memWf = true) :
    outMemWf (execVote m mode d a s) = true := by
  unfold execVote
  simp +contextual (maxDischargeDepth := 60) only [↓Core.acc_wf, ↓Core.banks_wf, ↓Core.istore_wf, ↓Core.mk_memWf, ↓Core.rf_wf, ↓Core.store_wf, ↓Mem.wf_clear, ↓Mem.wf_filter, ↓Mem.wf_set, ↓Mem.wf_write, ↓State.cap_wf, ↓State.cores_wf, ↓State.hbm_wf, ↓State.mk_memWf, ↓groupMap_memWf, hs, implies_true]

@[simp ↓] theorem execRedg_memWf (m : MReg) (op : RedOp) (d a : VReg) (s : State) (hs : s.memWf = true) :
    outMemWf (execRedg m op d a s) = true := by
  unfold execRedg
  simp +contextual (maxDischargeDepth := 60) only [↓groupMap_memWf, hs, implies_true]

@[simp ↓] theorem execScan_memWf (m : MReg) (op : ScanOp) (d a : VReg) (s : State) (hs : s.memWf = true) :
    outMemWf (execScan m op d a s) = true := by
  unfold execScan
  simp +contextual (maxDischargeDepth := 60) only [↓Core.acc_wf, ↓Core.banks_wf, ↓Core.istore_wf, ↓Core.mk_memWf, ↓Core.rf_wf, ↓Core.store_wf, ↓Mem.wf_clear, ↓Mem.wf_filter, ↓Mem.wf_set, ↓Mem.wf_write, ↓State.cap_wf, ↓State.cores_wf, ↓State.hbm_wf, ↓State.mk_memWf, ↓groupMap_memWf, hs, implies_true]

@[simp ↓] theorem execTopk_memWf (m : MReg) (nz : Bool) (d a : VReg) (k : TopkK) (s : State) (hs : s.memWf = true) :
    outMemWf (execTopk m nz d a k s) = true := by
  unfold execTopk
  refine run_memWf _ _ _ (fun x s h => ?_) hs
  dsimp only
  refine Res.done_memWf (State.raiseFlags_memWf _ _ _ _ ?_)
  have h1 : ∀ (s : State) (l : Nat) (v w : Word), s.memWf = true → (s.modCore x.core fun q =>
      (q.setV x.g x.gid d.toNat l v).setV x.g x.gid (d.toNat + 1) l w).memWf = true := fun s l v w h =>
    State.modCore_memWf h (fun k hk => Core.setV_memWf _ _ _ _ _ _ (Core.setV_memWf _ _ _ _ _ _ hk)) _
  refine State.ite_memWf (State.modGroup_memWf _ _ _ _ ?_) ?_
  all_goals
    refine State.foldl_memWf h (fun s p h => ?_) _
    split
    · exact h1 _ _ _ _ h
    · exact State.ite_memWf (h1 _ _ _ _ h) h

@[simp ↓] theorem blockMap_memWf (i : Instr) (m : MReg) (d : VReg) (f : Core → Ctx → List Nat → Nat → Word × Word) (s : State) (hs : s.memWf = true) :
    outMemWf (blockMap i m d f s) = true := by
  unfold blockMap
  simp +contextual (maxDischargeDepth := 60) only [↓Core.foldlFst_memWf, ↓Core.foldl_memWf, ↓Core.iteFst_memWf, ↓Core.ite_memWf, ↓Res.done_memWf, ↓Res.ite_memWf, ↓Res.moved_memWf, ↓Res.trap_memWf, ↓Res.wait_memWf, ↓State.core_memWf, ↓State.foldlFst_memWf, ↓State.foldl_memWf, ↓State.iteFst_memWf, ↓State.ite_memWf, ↓State.raiseFlags_memWf, ↓State.writeLanes_memWf, ↓misaligned_memWf, ↓prot_memWf, ↓run_memWf, hs, implies_true]

@[simp ↓] theorem execBdot_memWf (m : MReg) (f : BFmt) (d a b : VReg) (bsel : BitVec 2) (s : State) (hs : s.memWf = true) :
    outMemWf (execBdot m f d a b bsel s) = true := by
  unfold execBdot
  simp +contextual (maxDischargeDepth := 60) only [↓Core.acc_wf, ↓Core.banks_wf, ↓Core.foldlFst_memWf, ↓Core.foldl_memWf, ↓Core.istore_wf, ↓Core.iteFst_memWf, ↓Core.ite_memWf, ↓Core.mk_memWf, ↓Core.rf_wf, ↓Core.store_wf, ↓Res.ite_memWf, ↓State.cap_wf, ↓State.cores_wf, ↓State.foldlFst_memWf, ↓State.foldl_memWf, ↓State.hbm_wf, ↓State.iteFst_memWf, ↓State.ite_memWf, ↓State.mk_memWf, ↓blockMap_memWf, hs, implies_true]

@[simp ↓] theorem execBscl_memWf (m : MReg) (f : BFmt) (d a b : VReg) (bsel : BitVec 2) (s : State) (hs : s.memWf = true) :
    outMemWf (execBscl m f d a b bsel s) = true := by
  unfold execBscl
  simp +contextual (maxDischargeDepth := 60) only [↓Core.iteFst_memWf, ↓Core.ite_memWf, ↓Res.ite_memWf, ↓State.iteFst_memWf, ↓State.ite_memWf, ↓blockMap_memWf, hs, implies_true]

@[simp ↓] theorem execDeq_memWf (m : MReg) (f : BFmt) (d a b : VReg) (bsel : BitVec 2) (s : State) (hs : s.memWf = true) :
    outMemWf (execDeq m f d a b bsel s) = true := by
  unfold execDeq
  simp +contextual (maxDischargeDepth := 60) only [↓Core.iteFst_memWf, ↓Core.ite_memWf, ↓Res.ite_memWf, ↓State.iteFst_memWf, ↓State.ite_memWf, ↓blockMap_memWf, hs, implies_true]

@[simp ↓] theorem execQnt_memWf (m : MReg) (f : BFmt) (d a b : VReg) (bsel : BitVec 2) (r : Option RMode) (s : State) (hs : s.memWf = true) :
    outMemWf (execQnt m f d a b bsel r s) = true := by
  unfold execQnt
  simp +contextual (maxDischargeDepth := 60) only [↓Core.foldlFst_memWf, ↓Core.foldl_memWf, ↓Core.iteFst_memWf, ↓Core.ite_memWf, ↓Res.done_memWf, ↓Res.ite_memWf, ↓Res.moved_memWf, ↓Res.trap_memWf, ↓Res.wait_memWf, ↓State.core_memWf, ↓State.foldlFst_memWf, ↓State.foldl_memWf, ↓State.iteFst_memWf, ↓State.ite_memWf, ↓State.raiseFlags_memWf, ↓State.stepGens_memWf, ↓State.writeLanes_memWf, ↓misaligned_memWf, ↓prot_memWf, ↓run_memWf, hs, implies_true]

@[simp ↓] theorem uniMap_memWf (i : Instr) (d a : SReg) (b : USrc) (f : Word → Word → Word → Word) (s : State) (hs : s.memWf = true) :
    outMemWf (uniMap i d a b f s) = true := by
  unfold uniMap
  simp +contextual (maxDischargeDepth := 60) only [↓Res.done_memWf, ↓Res.moved_memWf, ↓Res.trap_memWf, ↓Res.wait_memWf, ↓State.core_memWf, ↓State.writeS_memWf, ↓misaligned_memWf, ↓prot_memWf, ↓run_memWf, hs, implies_true]

@[simp ↓] theorem logicMap_memWf (i : Instr) (d a : XReg) (b : XSrc) (f : Word → Word → Word) (s : State) (hs : s.memWf = true) :
    outMemWf (logicMap i d a b f s) = true := by
  unfold logicMap
  simp +contextual (maxDischargeDepth := 60) only [↓Res.done_memWf, ↓Res.moved_memWf, ↓Res.trap_memWf, ↓Res.wait_memWf, ↓State.core_memWf, ↓State.writeX_memWf, ↓misaligned_memWf, ↓prot_memWf, ↓run_memWf, hs, implies_true]

@[simp ↓] theorem execAddUniform_memWf (d a : SReg) (b : USrc) (s : State) (hs : s.memWf = true) :
    outMemWf (execAddUniform d a b s) = true := by
  unfold execAddUniform
  simp +contextual (maxDischargeDepth := 60) only [↓uniMap_memWf, hs, implies_true]

@[simp ↓] theorem execSubUniform_memWf (d a : SReg) (b : USrc) (s : State) (hs : s.memWf = true) :
    outMemWf (execSubUniform d a b s) = true := by
  unfold execSubUniform
  simp +contextual (maxDischargeDepth := 60) only [↓uniMap_memWf, hs, implies_true]

@[simp ↓] theorem execMulUniform_memWf (d a : SReg) (b : USrc) (s : State) (hs : s.memWf = true) :
    outMemWf (execMulUniform d a b s) = true := by
  unfold execMulUniform
  simp +contextual (maxDischargeDepth := 60) only [↓uniMap_memWf, hs, implies_true]

@[simp ↓] theorem execMulhiUniform_memWf (d a : SReg) (b : USrc) (s : State) (hs : s.memWf = true) :
    outMemWf (execMulhiUniform d a b s) = true := by
  unfold execMulhiUniform
  simp +contextual (maxDischargeDepth := 60) only [↓uniMap_memWf, hs, implies_true]

@[simp ↓] theorem execMulhuUniform_memWf (d a : SReg) (b : USrc) (s : State) (hs : s.memWf = true) :
    outMemWf (execMulhuUniform d a b s) = true := by
  unfold execMulhuUniform
  simp +contextual (maxDischargeDepth := 60) only [↓uniMap_memWf, hs, implies_true]

@[simp ↓] theorem execDiv_memWf (d a : SReg) (b : USrc) (s : State) (hs : s.memWf = true) :
    outMemWf (execDiv d a b s) = true := by
  unfold execDiv
  simp +contextual (maxDischargeDepth := 60) only [↓uniMap_memWf, hs, implies_true]

@[simp ↓] theorem execDivu_memWf (d a : SReg) (b : USrc) (s : State) (hs : s.memWf = true) :
    outMemWf (execDivu d a b s) = true := by
  unfold execDivu
  simp +contextual (maxDischargeDepth := 60) only [↓uniMap_memWf, hs, implies_true]

@[simp ↓] theorem execRem_memWf (d a : SReg) (b : USrc) (s : State) (hs : s.memWf = true) :
    outMemWf (execRem d a b s) = true := by
  unfold execRem
  simp +contextual (maxDischargeDepth := 60) only [↓uniMap_memWf, hs, implies_true]

@[simp ↓] theorem execRemu_memWf (d a : SReg) (b : USrc) (s : State) (hs : s.memWf = true) :
    outMemWf (execRemu d a b s) = true := by
  unfold execRemu
  simp +contextual (maxDischargeDepth := 60) only [↓uniMap_memWf, hs, implies_true]

@[simp ↓] theorem execShlUniform_memWf (d a : SReg) (b : USrc) (s : State) (hs : s.memWf = true) :
    outMemWf (execShlUniform d a b s) = true := by
  unfold execShlUniform
  simp +contextual (maxDischargeDepth := 60) only [↓uniMap_memWf, hs, implies_true]

@[simp ↓] theorem execShrUniform_memWf (d a : SReg) (b : USrc) (s : State) (hs : s.memWf = true) :
    outMemWf (execShrUniform d a b s) = true := by
  unfold execShrUniform
  simp +contextual (maxDischargeDepth := 60) only [↓uniMap_memWf, hs, implies_true]

@[simp ↓] theorem execSarUniform_memWf (d a : SReg) (b : USrc) (s : State) (hs : s.memWf = true) :
    outMemWf (execSarUniform d a b s) = true := by
  unfold execSarUniform
  simp +contextual (maxDischargeDepth := 60) only [↓uniMap_memWf, hs, implies_true]

@[simp ↓] theorem execMinUniform_memWf (d a : SReg) (b : USrc) (s : State) (hs : s.memWf = true) :
    outMemWf (execMinUniform d a b s) = true := by
  unfold execMinUniform
  simp +contextual (maxDischargeDepth := 60) only [↓uniMap_memWf, hs, implies_true]

@[simp ↓] theorem execMinuUniform_memWf (d a : SReg) (b : USrc) (s : State) (hs : s.memWf = true) :
    outMemWf (execMinuUniform d a b s) = true := by
  unfold execMinuUniform
  simp +contextual (maxDischargeDepth := 60) only [↓uniMap_memWf, hs, implies_true]

@[simp ↓] theorem execMaxUniform_memWf (d a : SReg) (b : USrc) (s : State) (hs : s.memWf = true) :
    outMemWf (execMaxUniform d a b s) = true := by
  unfold execMaxUniform
  simp +contextual (maxDischargeDepth := 60) only [↓uniMap_memWf, hs, implies_true]

@[simp ↓] theorem execMaxuUniform_memWf (d a : SReg) (b : USrc) (s : State) (hs : s.memWf = true) :
    outMemWf (execMaxuUniform d a b s) = true := by
  unfold execMaxuUniform
  simp +contextual (maxDischargeDepth := 60) only [↓uniMap_memWf, hs, implies_true]

@[simp ↓] theorem execSelUniform_memWf (d a : SReg) (b : USrc) (s : State) (hs : s.memWf = true) :
    outMemWf (execSelUniform d a b s) = true := by
  unfold execSelUniform
  simp +contextual (maxDischargeDepth := 60) only [↓Core.iteFst_memWf, ↓Core.ite_memWf, ↓Res.ite_memWf, ↓State.iteFst_memWf, ↓State.ite_memWf, ↓uniMap_memWf, hs, implies_true]

@[simp ↓] theorem execBfxUniform_memWf (d a : SReg) (b : USrc) (s : State) (hs : s.memWf = true) :
    outMemWf (execBfxUniform d a b s) = true := by
  unfold execBfxUniform
  simp +contextual (maxDischargeDepth := 60) only [↓uniMap_memWf, hs, implies_true]

@[simp ↓] theorem execBfiUniform_memWf (d a : SReg) (b : USrc) (s : State) (hs : s.memWf = true) :
    outMemWf (execBfiUniform d a b s) = true := by
  unfold execBfiUniform
  simp +contextual (maxDischargeDepth := 60) only [↓uniMap_memWf, hs, implies_true]

@[simp ↓] theorem execCmpUniform_memWf (cc : Cc) (d a : SReg) (b : USrc) (s : State) (hs : s.memWf = true) :
    outMemWf (execCmpUniform cc d a b s) = true := by
  unfold execCmpUniform
  simp +contextual (maxDischargeDepth := 60) only [↓uniMap_memWf, hs, implies_true]

@[simp ↓] theorem execAndUniform_memWf (d a : XReg) (b : XSrc) (s : State) (hs : s.memWf = true) :
    outMemWf (execAndUniform d a b s) = true := by
  unfold execAndUniform
  simp +contextual (maxDischargeDepth := 60) only [↓logicMap_memWf, hs, implies_true]

@[simp ↓] theorem execOrUniform_memWf (d a : XReg) (b : XSrc) (s : State) (hs : s.memWf = true) :
    outMemWf (execOrUniform d a b s) = true := by
  unfold execOrUniform
  simp +contextual (maxDischargeDepth := 60) only [↓logicMap_memWf, hs, implies_true]

@[simp ↓] theorem execXorUniform_memWf (d a : XReg) (b : XSrc) (s : State) (hs : s.memWf = true) :
    outMemWf (execXorUniform d a b s) = true := by
  unfold execXorUniform
  simp +contextual (maxDischargeDepth := 60) only [↓logicMap_memWf, hs, implies_true]

@[simp ↓] theorem execClzUniform_memWf (d : SReg) (a : XReg) (s : State) (hs : s.memWf = true) :
    outMemWf (execClzUniform d a s) = true := by
  unfold execClzUniform
  simp +contextual (maxDischargeDepth := 60) only [↓logicMap_memWf, hs, implies_true]

@[simp ↓] theorem execPopcUniform_memWf (d : SReg) (a : XReg) (s : State) (hs : s.memWf = true) :
    outMemWf (execPopcUniform d a s) = true := by
  unfold execPopcUniform
  simp +contextual (maxDischargeDepth := 60) only [↓logicMap_memWf, hs, implies_true]

@[simp ↓] theorem execAddi_memWf (d a : SReg) (i : BitVec 11) (s : State) (hs : s.memWf = true) :
    outMemWf (execAddi d a i s) = true := by
  unfold execAddi
  simp +contextual (maxDischargeDepth := 60) only [↓uniMap_memWf, hs, implies_true]

@[simp ↓] theorem execAndi_memWf (d a : SReg) (i : BitVec 11) (s : State) (hs : s.memWf = true) :
    outMemWf (execAndi d a i s) = true := by
  unfold execAndi
  simp +contextual (maxDischargeDepth := 60) only [↓uniMap_memWf, hs, implies_true]

@[simp ↓] theorem execOri_memWf (d a : SReg) (i : BitVec 11) (s : State) (hs : s.memWf = true) :
    outMemWf (execOri d a i s) = true := by
  unfold execOri
  simp +contextual (maxDischargeDepth := 60) only [↓uniMap_memWf, hs, implies_true]

@[simp ↓] theorem execXori_memWf (d a : SReg) (i : BitVec 11) (s : State) (hs : s.memWf = true) :
    outMemWf (execXori d a i s) = true := by
  unfold execXori
  simp +contextual (maxDischargeDepth := 60) only [↓uniMap_memWf, hs, implies_true]

@[simp ↓] theorem execShli_memWf (d a : SReg) (i : BitVec 11) (s : State) (hs : s.memWf = true) :
    outMemWf (execShli d a i s) = true := by
  unfold execShli
  simp +contextual (maxDischargeDepth := 60) only [↓uniMap_memWf, hs, implies_true]

@[simp ↓] theorem execShri_memWf (d a : SReg) (i : BitVec 11) (s : State) (hs : s.memWf = true) :
    outMemWf (execShri d a i s) = true := by
  unfold execShri
  simp +contextual (maxDischargeDepth := 60) only [↓uniMap_memWf, hs, implies_true]

@[simp ↓] theorem execSari_memWf (d a : SReg) (i : BitVec 11) (s : State) (hs : s.memWf = true) :
    outMemWf (execSari d a i s) = true := by
  unfold execSari
  simp +contextual (maxDischargeDepth := 60) only [↓uniMap_memWf, hs, implies_true]

@[simp ↓] theorem execMovUniform_memWf (f : MovForm) (s : State) (hs : s.memWf = true) :
    outMemWf (execMovUniform f s) = true := by
  unfold execMovUniform
  refine run_memWf _ _ _ (fun x s h => ?_) hs
  (try dsimp only)
  repeat' first | with_reducible assumption | with_reducible rfl | (intro _) | with_reducible apply State.getD_memWf | with_reducible apply Core.acc_wf | with_reducible apply Core.banks_wf | with_reducible apply Core.istore_wf | with_reducible apply Core.rf_wf | with_reducible apply Core.store_wf | with_reducible apply Mem.wf_clear | with_reducible apply Mem.wf_filter | with_reducible apply Mem.wf_set | with_reducible apply Mem.wf_write | with_reducible apply Res.done_memWf | with_reducible apply Res.moved_memWf | with_reducible apply Res.trap_memWf | with_reducible apply Res.wait_memWf | with_reducible apply State.cap_wf | with_reducible apply State.core_memWf | with_reducible apply State.cores_wf | with_reducible apply State.hbm_wf | with_reducible apply State.modGroup_memWf | with_reducible apply State.writeSs_memWf | with_reducible apply State.writeX_memWf | with_reducible apply misaligned_memWf | with_reducible apply prot_memWf | (refine EngAcc.ok_of_eq ?_ (by with_reducible assumption)) | (refine EngAcc.poison_of_eq ?_ (by with_reducible assumption)) | (refine EngAcc.fault_of_eq ?_ (by with_reducible assumption)) | (refine EngAcc.window_of_eq ?_ (by with_reducible assumption)) | (refine EngAcc.wait_of_eq ?_ (by with_reducible assumption)) | (refine Pages.ok_of_eq ?_ (by with_reducible assumption)) | (refine Pages.fail_of_eq ?_ (by with_reducible assumption)) | (refine Pages.wait_of_eq ?_ (by with_reducible assumption)) | (refine State.fst_of_eq ?_ (by with_reducible assumption)) | (refine Core.fst_of_eq ?_ (by with_reducible assumption)) | split | (with_reducible refine State.mk_memWf ?_ ?_ ?_) | (with_reducible refine Core.mk_memWf ?_ ?_ ?_ ?_ ?_)

@[simp ↓] theorem execMoviUniform_memWf (d : SReg) (i : Imm17) (s : State) (hs : s.memWf = true) :
    outMemWf (execMoviUniform d i s) = true := by
  unfold execMoviUniform
  simp +contextual (maxDischargeDepth := 60) only [↓Core.acc_wf, ↓Core.banks_wf, ↓Core.istore_wf, ↓Core.mk_memWf, ↓Core.rf_wf, ↓Core.store_wf, ↓Res.done_memWf, ↓Res.moved_memWf, ↓Res.trap_memWf, ↓Res.wait_memWf, ↓State.cap_wf, ↓State.cores_wf, ↓State.hbm_wf, ↓State.mk_memWf, ↓State.writeS_memWf, ↓misaligned_memWf, ↓prot_memWf, ↓run_memWf, hs, implies_true]

@[simp ↓] theorem execMovhi_memWf (d : SReg) (i : BitVec 16) (s : State) (hs : s.memWf = true) :
    outMemWf (execMovhi d i s) = true := by
  unfold execMovhi
  simp +contextual (maxDischargeDepth := 60) only [↓Res.done_memWf, ↓Res.moved_memWf, ↓Res.trap_memWf, ↓Res.wait_memWf, ↓State.core_memWf, ↓State.writeS_memWf, ↓misaligned_memWf, ↓prot_memWf, ↓run_memWf, hs, implies_true]

@[simp ↓] theorem execRdlane_memWf (d : SReg) (a : VReg) (b : USrc) (s : State) (hs : s.memWf = true) :
    outMemWf (execRdlane d a b s) = true := by
  unfold execRdlane
  simp +contextual (maxDischargeDepth := 60) only [↓Core.acc_wf, ↓Core.banks_wf, ↓Core.istore_wf, ↓Core.iteFst_memWf, ↓Core.ite_memWf, ↓Core.mk_memWf, ↓Core.rf_wf, ↓Core.store_wf, ↓Res.done_memWf, ↓Res.ite_memWf, ↓Res.moved_memWf, ↓Res.trap_memWf, ↓Res.wait_memWf, ↓State.cap_wf, ↓State.core_memWf, ↓State.cores_wf, ↓State.hbm_wf, ↓State.iteFst_memWf, ↓State.ite_memWf, ↓State.mk_memWf, ↓State.writeS_memWf, ↓misaligned_memWf, ↓prot_memWf, ↓run_memWf, hs, implies_true]

@[simp ↓] theorem execNop_memWf (s : State) (hs : s.memWf = true) :
    outMemWf (execNop s) = true := by
  unfold execNop
  simp +contextual (maxDischargeDepth := 60) only [↓Res.done_memWf, ↓Res.moved_memWf, ↓Res.trap_memWf, ↓Res.wait_memWf, ↓misaligned_memWf, ↓prot_memWf, ↓run_memWf, hs, implies_true]

@[simp ↓] theorem State.jump_memWf (s : State) (x : Ctx) (pc : Word) (hs : s.memWf = true) :
    (State.jump s x pc).memWf = true := by
  unfold State.jump
  simp +contextual (maxDischargeDepth := 60) only [↓Core.acc_wf, ↓Core.banks_wf, ↓Core.istore_wf, ↓Core.mk_memWf, ↓Core.rf_wf, ↓Core.store_wf, ↓Res.done_memWf, ↓Res.moved_memWf, ↓Res.trap_memWf, ↓Res.wait_memWf, ↓State.cap_wf, ↓State.core_memWf, ↓State.cores_wf, ↓State.hbm_wf, ↓State.mk_memWf, ↓State.modGroup_memWf, ↓misaligned_memWf, ↓prot_memWf, hs, implies_true]

@[simp ↓] theorem State.popAll_memWf (s : State) (x : Ctx) (hs : s.memWf = true) :
    (State.popAll s x).memWf = true := by
  unfold State.popAll
  simp +contextual (maxDischargeDepth := 60) only [↓Core.foldlFst_memWf, ↓Core.foldl_memWf, ↓Core.iteFst_memWf, ↓Core.ite_memWf, ↓Mem.wf_clear, ↓Mem.wf_filter, ↓Mem.wf_set, ↓Mem.wf_write, ↓Res.ite_memWf, ↓State.core_memWf, ↓State.dropLink_memWf, ↓State.foldlFst_memWf, ↓State.foldl_memWf, ↓State.iteFst_memWf, ↓State.ite_memWf, ↓State.moveTo_memWf, hs, implies_true]

@[simp ↓] theorem branch_memWf (i : Instr) (t : BitVec 14) (c : Core → Ctx → Bool) (s : State) (hs : s.memWf = true) :
    outMemWf (branch i t c s) = true := by
  unfold branch
  simp +contextual (maxDischargeDepth := 60) only [↓Core.iteFst_memWf, ↓Core.ite_memWf, ↓Res.done_memWf, ↓Res.ite_memWf, ↓Res.moved_memWf, ↓Res.trap_memWf, ↓Res.wait_memWf, ↓State.core_memWf, ↓State.iteFst_memWf, ↓State.ite_memWf, ↓State.jump_memWf, ↓misaligned_memWf, ↓prot_memWf, ↓run_memWf, hs, implies_true]

@[simp ↓] theorem execBr_memWf (t : BitVec 14) (s : State) (hs : s.memWf = true) :
    outMemWf (execBr t s) = true := by
  unfold execBr
  simp +contextual (maxDischargeDepth := 60) only [↓branch_memWf, hs, implies_true]

@[simp ↓] theorem execBrc_memWf (cc : Cc) (d a : SReg) (t : BitVec 14) (s : State) (hs : s.memWf = true) :
    outMemWf (execBrc cc d a t s) = true := by
  unfold execBrc
  simp +contextual (maxDischargeDepth := 60) only [↓branch_memWf, hs, implies_true]

@[simp ↓] theorem execBrz_memWf (d : SReg) (t : BitVec 14) (s : State) (hs : s.memWf = true) :
    outMemWf (execBrz d t s) = true := by
  unfold execBrz
  simp +contextual (maxDischargeDepth := 60) only [↓branch_memWf, hs, implies_true]

@[simp ↓] theorem execBrnz_memWf (d : SReg) (t : BitVec 14) (s : State) (hs : s.memWf = true) :
    outMemWf (execBrnz d t s) = true := by
  unfold execBrnz
  simp +contextual (maxDischargeDepth := 60) only [↓branch_memWf, hs, implies_true]

@[simp ↓] theorem execBrm_memWf (c : BrmCond) (k : MReg) (t : BitVec 14) (s : State) (hs : s.memWf = true) :
    outMemWf (execBrm c k t s) = true := by
  unfold execBrm
  simp +contextual (maxDischargeDepth := 60) only [↓branch_memWf, hs, implies_true]

@[simp ↓] theorem call_memWf (x : Ctx) (s : State) (go : State → State) (hs : s.memWf = true) (hgo : ∀ s : State, s.memWf = true → (go s).memWf = true) :
    (call x s go).memWf = true := by
  unfold call
  repeat' split
  all_goals first | assumption | rfl | (simp +contextual (maxDischargeDepth := 60) only [↓Core.iteFst_memWf, ↓Core.ite_memWf, ↓Res.done_memWf, ↓Res.ite_memWf, ↓Res.moved_memWf, ↓Res.trap_memWf, ↓Res.wait_memWf, ↓State.core_memWf, ↓State.iteFst_memWf, ↓State.ite_memWf, ↓State.pushLink_memWf, ↓misaligned_memWf, ↓prot_memWf, hs, hgo, implies_true])

@[simp ↓] theorem execJmpr_memWf (a : SReg) (s : State) (hs : s.memWf = true) :
    outMemWf (execJmpr a s) = true := by
  unfold execJmpr
  refine run_memWf _ _ _ (fun x s h => ?_) hs
  (try dsimp only)
  repeat' first | with_reducible assumption | with_reducible rfl | (intro _) | with_reducible apply Core.iteFst_memWf | with_reducible apply Core.ite_memWf | with_reducible apply Res.done_memWf | with_reducible apply Res.ite_memWf | with_reducible apply Res.moved_memWf | with_reducible apply Res.trap_memWf | with_reducible apply Res.wait_memWf | with_reducible apply State.core_memWf | with_reducible apply State.iteFst_memWf | with_reducible apply State.ite_memWf | with_reducible apply State.jump_memWf | with_reducible apply misaligned_memWf | with_reducible apply prot_memWf | (refine EngAcc.ok_of_eq ?_ (by with_reducible assumption)) | (refine EngAcc.poison_of_eq ?_ (by with_reducible assumption)) | (refine EngAcc.fault_of_eq ?_ (by with_reducible assumption)) | (refine EngAcc.window_of_eq ?_ (by with_reducible assumption)) | (refine EngAcc.wait_of_eq ?_ (by with_reducible assumption)) | (refine Pages.ok_of_eq ?_ (by with_reducible assumption)) | (refine Pages.fail_of_eq ?_ (by with_reducible assumption)) | (refine Pages.wait_of_eq ?_ (by with_reducible assumption)) | (refine State.fst_of_eq ?_ (by with_reducible assumption)) | (refine Core.fst_of_eq ?_ (by with_reducible assumption)) | split | (with_reducible refine State.mk_memWf ?_ ?_ ?_) | (with_reducible refine Core.mk_memWf ?_ ?_ ?_ ?_ ?_)

@[simp ↓] theorem execCall_memWf (t : BitVec 14) (s : State) (hs : s.memWf = true) :
    outMemWf (execCall t s) = true := by
  unfold execCall
  simp +contextual (maxDischargeDepth := 60) only [↓State.jump_memWf, ↓call_memWf, ↓run_memWf, hs, implies_true]

@[simp ↓] theorem execCallr_memWf (a : SReg) (s : State) (hs : s.memWf = true) :
    outMemWf (execCallr a s) = true := by
  unfold execCallr
  refine run_memWf _ _ _ (fun x s h => ?_) hs
  (try dsimp only)
  repeat' first | with_reducible assumption | with_reducible rfl | (intro _) | with_reducible apply Core.iteFst_memWf | with_reducible apply Core.ite_memWf | with_reducible apply Res.done_memWf | with_reducible apply Res.ite_memWf | with_reducible apply Res.moved_memWf | with_reducible apply Res.trap_memWf | with_reducible apply Res.wait_memWf | with_reducible apply State.core_memWf | with_reducible apply State.iteFst_memWf | with_reducible apply State.ite_memWf | with_reducible apply State.jump_memWf | with_reducible apply call_memWf | with_reducible apply misaligned_memWf | with_reducible apply prot_memWf | (refine EngAcc.ok_of_eq ?_ (by with_reducible assumption)) | (refine EngAcc.poison_of_eq ?_ (by with_reducible assumption)) | (refine EngAcc.fault_of_eq ?_ (by with_reducible assumption)) | (refine EngAcc.window_of_eq ?_ (by with_reducible assumption)) | (refine EngAcc.wait_of_eq ?_ (by with_reducible assumption)) | (refine Pages.ok_of_eq ?_ (by with_reducible assumption)) | (refine Pages.fail_of_eq ?_ (by with_reducible assumption)) | (refine Pages.wait_of_eq ?_ (by with_reducible assumption)) | (refine State.fst_of_eq ?_ (by with_reducible assumption)) | (refine Core.fst_of_eq ?_ (by with_reducible assumption)) | split | (with_reducible refine State.mk_memWf ?_ ?_ ?_) | (with_reducible refine Core.mk_memWf ?_ ?_ ?_ ?_ ?_)

@[simp ↓] theorem callOverlay_memWf (x : Ctx) (s : State) (t : Word) (hs : s.memWf = true) :
    (callOverlay x s t).memWf = true := by
  unfold callOverlay
  (try dsimp only)
  repeat' first | with_reducible assumption | with_reducible rfl | (intro _) | with_reducible apply Core.iteFst_memWf | with_reducible apply Core.ite_memWf | with_reducible apply Res.done_memWf | with_reducible apply Res.ite_memWf | with_reducible apply Res.moved_memWf | with_reducible apply Res.trap_memWf | with_reducible apply Res.wait_memWf | with_reducible apply State.core_memWf | with_reducible apply State.iteFst_memWf | with_reducible apply State.ite_memWf | with_reducible apply State.moveTo_memWf | with_reducible apply call_memWf | with_reducible apply misaligned_memWf | with_reducible apply prot_memWf | (refine EngAcc.ok_of_eq ?_ (by with_reducible assumption)) | (refine EngAcc.poison_of_eq ?_ (by with_reducible assumption)) | (refine EngAcc.fault_of_eq ?_ (by with_reducible assumption)) | (refine EngAcc.window_of_eq ?_ (by with_reducible assumption)) | (refine EngAcc.wait_of_eq ?_ (by with_reducible assumption)) | (refine Pages.ok_of_eq ?_ (by with_reducible assumption)) | (refine Pages.fail_of_eq ?_ (by with_reducible assumption)) | (refine Pages.wait_of_eq ?_ (by with_reducible assumption)) | (refine State.fst_of_eq ?_ (by with_reducible assumption)) | (refine Core.fst_of_eq ?_ (by with_reducible assumption)) | split | (with_reducible refine State.mk_memWf ?_ ?_ ?_) | (with_reducible refine Core.mk_memWf ?_ ?_ ?_ ?_ ?_)

@[simp ↓] theorem execCallo_memWf (a : SReg) (s : State) (hs : s.memWf = true) :
    outMemWf (execCallo a s) = true := by
  unfold execCallo
  simp +contextual (maxDischargeDepth := 60) only [↓State.core_memWf, ↓callOverlay_memWf, ↓run_memWf, hs, implies_true]

@[simp ↓] theorem execCalloLiteral_memWf (t : Word) (s : State) (hs : s.memWf = true) :
    outMemWf (execCalloLiteral t s) = true := by
  unfold execCalloLiteral
  simp +contextual (maxDischargeDepth := 60) only [↓callOverlay_memWf, ↓run_memWf, hs, implies_true]

@[simp ↓] theorem execRet_memWf (s : State) (hs : s.memWf = true) :
    outMemWf (execRet s) = true := by
  unfold execRet
  refine run_memWf _ _ _ (fun x s h => ?_) hs
  split
  · rfl
  · exact State.popAll_memWf _ _ h

@[simp ↓] theorem execExit_memWf (s : State) (hs : s.memWf = true) :
    outMemWf (execExit s) = true := by
  unfold execExit
  refine run_memWf _ _ _ (fun x s h => ?_) hs
  (try dsimp only)
  repeat' first | with_reducible assumption | with_reducible rfl | (intro _) | with_reducible apply Core.acc_wf | with_reducible apply Core.banks_wf | with_reducible apply Core.istore_wf | with_reducible apply Core.iteFst_memWf | with_reducible apply Core.ite_memWf | with_reducible apply Core.recount_memWf | with_reducible apply Core.rf_wf | with_reducible apply Core.store_wf | with_reducible apply Res.done_memWf | with_reducible apply Res.ite_memWf | with_reducible apply Res.moved_memWf | with_reducible apply Res.trap_memWf | with_reducible apply Res.wait_memWf | with_reducible apply State.cap_wf | with_reducible apply State.core_memWf | with_reducible apply State.cores_wf | with_reducible apply State.hbm_wf | with_reducible apply State.iteFst_memWf | with_reducible apply State.ite_memWf | with_reducible apply State.modCore_memWf | with_reducible apply State.modGroup_memWf | with_reducible apply State.postOnce_memWf | with_reducible apply State.retryLoads_memWf | with_reducible apply misaligned_memWf | with_reducible apply prot_memWf | (refine EngAcc.ok_of_eq ?_ (by with_reducible assumption)) | (refine EngAcc.poison_of_eq ?_ (by with_reducible assumption)) | (refine EngAcc.fault_of_eq ?_ (by with_reducible assumption)) | (refine EngAcc.window_of_eq ?_ (by with_reducible assumption)) | (refine EngAcc.wait_of_eq ?_ (by with_reducible assumption)) | (refine Pages.ok_of_eq ?_ (by with_reducible assumption)) | (refine Pages.fail_of_eq ?_ (by with_reducible assumption)) | (refine Pages.wait_of_eq ?_ (by with_reducible assumption)) | (refine State.fst_of_eq ?_ (by with_reducible assumption)) | (refine Core.fst_of_eq ?_ (by with_reducible assumption)) | split | (with_reducible refine State.mk_memWf ?_ ?_ ?_) | (with_reducible refine Core.mk_memWf ?_ ?_ ?_ ?_ ?_)

@[simp ↓] theorem execElect_memWf (d : SReg) (s : State) (hs : s.memWf = true) :
    outMemWf (execElect d s) = true := by
  unfold execElect
  simp +contextual (maxDischargeDepth := 60) only [↓Res.done_memWf, ↓Res.moved_memWf, ↓Res.trap_memWf, ↓Res.wait_memWf, ↓State.writeS_memWf, ↓misaligned_memWf, ↓prot_memWf, ↓run_memWf, hs, implies_true]

@[simp ↓] theorem execYield_memWf (s : State) (hs : s.memWf = true) :
    outMemWf (execYield s) = true := by
  unfold execYield
  simp +contextual (maxDischargeDepth := 60) only [↓Core.iteFst_memWf, ↓Core.ite_memWf, ↓Res.done_memWf, ↓Res.ite_memWf, ↓Res.moved_memWf, ↓Res.trap_memWf, ↓Res.wait_memWf, ↓State.advance_memWf, ↓State.core_memWf, ↓State.iteFst_memWf, ↓State.ite_memWf, ↓State.pauseAt_memWf, ↓misaligned_memWf, ↓prot_memWf, ↓run_memWf, hs, implies_true]

@[simp ↓] theorem execEret_memWf (s : State) (hs : s.memWf = true) :
    outMemWf (execEret s) = true := by
  unfold execEret
  refine run_memWf _ _ _ (fun x s h => ?_) hs
  split
  · rfl
  · extract_lets s1 s2 g
    have h2 : s2.memWf = true := State.modGroup_memWf _ _ _ _ (State.popAll_memWf s x h)
    show State.memWf _ = true
    split
    · exact h2
    · have h5 := State.enterAgain_memWf _ x.core x.gid (State.modGroup_memWf _ x.core x.gid (fun g => { g with trap := { g.trap with inHandler := false } }) (State.holdAll_memWf _ x.core x.gid false h2))
      split
      · exact State.postOnce_memWf _ _ h5
      · exact h5

end Sys2Proof.Machine
end

