-- ==== Sys2Proof/Laws/CanonXlate.lean ====
section
/-! SUPPORT. Translation and its events keep the canonical form of storage. -/

set_option linter.unusedSimpArgs false

namespace Sys2Proof.Machine

@[simp ↓] theorem State.setRouter_memWf (s : State) (r : Nat) (x : Router) (hs : s.memWf = true) :
    (State.setRouter s r x).memWf = true := by
  unfold State.setRouter
  simp +contextual (maxDischargeDepth := 60) only [↓Core.acc_wf, ↓Core.banks_wf, ↓Core.istore_wf, ↓Core.mk_memWf, ↓Core.rf_wf, ↓Core.store_wf, ↓State.cap_wf, ↓State.cores_wf, ↓State.hbm_wf, ↓State.mk_memWf, hs, implies_true]

@[simp ↓] theorem State.setLink_memWf (s : State) (l : Nat) (x : Link) (hs : s.memWf = true) :
    (State.setLink s l x).memWf = true := by
  unfold State.setLink
  simp +contextual (maxDischargeDepth := 60) only [↓Core.acc_wf, ↓Core.banks_wf, ↓Core.istore_wf, ↓Core.mk_memWf, ↓Core.rf_wf, ↓Core.store_wf, ↓State.cap_wf, ↓State.cores_wf, ↓State.hbm_wf, ↓State.mk_memWf, hs, implies_true]

@[simp ↓] theorem State.stand_memWf (s : State) (r input : Nat) (p : Packet) (hs : s.memWf = true) :
    (State.stand s r input p).memWf = true := by
  unfold State.stand
  simp +contextual (maxDischargeDepth := 60) only [↓Core.acc_wf, ↓Core.banks_wf, ↓Core.istore_wf, ↓Core.mk_memWf, ↓Core.rf_wf, ↓Core.store_wf, ↓State.cap_wf, ↓State.cores_wf, ↓State.hbm_wf, ↓State.mk_memWf, ↓State.postOnce_memWf, ↓State.setRouter_memWf, hs, implies_true]

@[simp ↓] theorem State.enter_memWf (s : State) (port : Nat) (p : Packet) (hs : s.memWf = true) :
    (State.enter s port p).memWf = true := by
  unfold State.enter
  simp +contextual (maxDischargeDepth := 60) only [↓Core.acc_wf, ↓Core.banks_wf, ↓Core.istore_wf, ↓Core.iteFst_memWf, ↓Core.ite_memWf, ↓Core.mk_memWf, ↓Core.rf_wf, ↓Core.store_wf, ↓Res.ite_memWf, ↓State.cap_wf, ↓State.cores_wf, ↓State.hbm_wf, ↓State.iteFst_memWf, ↓State.ite_memWf, ↓State.mk_memWf, ↓State.setRouter_memWf, ↓State.stand_memWf, hs, implies_true]

@[simp ↓] theorem State.send_memWf (s : State) (src dst vn flits : Nat) (msg : Instr) (bulk : Bool) (port : Nat) (hs : s.memWf = true) :
    (State.send s src dst vn flits msg bulk port).memWf = true := by
  unfold State.send
  simp +contextual (maxDischargeDepth := 60) only [↓Core.iteFst_memWf, ↓Core.ite_memWf, ↓Res.ite_memWf, ↓State.enter_memWf, ↓State.iteFst_memWf, ↓State.ite_memWf, ↓State.post_memWf, hs, implies_true]

@[simp ↓] theorem State.inject_memWf (s : State) (r port chan : Nat) (hs : s.memWf = true) :
    (State.inject s r port chan).memWf = true := by
  unfold State.inject
  (try dsimp only)
  repeat' first | with_reducible assumption | with_reducible rfl | (intro _) | with_reducible apply Core.acc_wf | with_reducible apply Core.banks_wf | with_reducible apply Core.istore_wf | with_reducible apply Core.iteFst_memWf | with_reducible apply Core.ite_memWf | with_reducible apply Core.rf_wf | with_reducible apply Core.store_wf | with_reducible apply Res.ite_memWf | with_reducible apply State.cap_wf | with_reducible apply State.cores_wf | with_reducible apply State.hbm_wf | with_reducible apply State.iteFst_memWf | with_reducible apply State.ite_memWf | with_reducible apply State.setRouter_memWf | with_reducible apply State.stand_memWf | (refine EngAcc.ok_of_eq ?_ (by with_reducible assumption)) | (refine EngAcc.poison_of_eq ?_ (by with_reducible assumption)) | (refine EngAcc.fault_of_eq ?_ (by with_reducible assumption)) | (refine EngAcc.window_of_eq ?_ (by with_reducible assumption)) | (refine EngAcc.wait_of_eq ?_ (by with_reducible assumption)) | (refine Pages.ok_of_eq ?_ (by with_reducible assumption)) | (refine Pages.fail_of_eq ?_ (by with_reducible assumption)) | (refine Pages.wait_of_eq ?_ (by with_reducible assumption)) | (refine State.fst_of_eq ?_ (by with_reducible assumption)) | (refine Core.fst_of_eq ?_ (by with_reducible assumption)) | split | (with_reducible refine State.mk_memWf ?_ ?_ ?_) | (with_reducible refine Core.mk_memWf ?_ ?_ ?_ ?_ ?_)

@[simp ↓] theorem State.sendFar_memWf (s : State) (c dev : Nat) (out : Out) (path : Option (Nat × Nat)) (flits : Nat) (hs : s.memWf = true) :
    (State.sendFar s c dev out path flits).memWf = true := by
  unfold State.sendFar
  (try dsimp only)
  repeat' first | with_reducible assumption | with_reducible rfl | (intro _) | with_reducible apply Core.acc_wf | with_reducible apply Core.banks_wf | with_reducible apply Core.istore_wf | with_reducible apply Core.rf_wf | with_reducible apply Core.store_wf | with_reducible apply State.cap_wf | with_reducible apply State.cores_wf | with_reducible apply State.enter_memWf | with_reducible apply State.hbm_wf | with_reducible apply State.mapCores_wf | (refine EngAcc.ok_of_eq ?_ (by with_reducible assumption)) | (refine EngAcc.poison_of_eq ?_ (by with_reducible assumption)) | (refine EngAcc.fault_of_eq ?_ (by with_reducible assumption)) | (refine EngAcc.window_of_eq ?_ (by with_reducible assumption)) | (refine EngAcc.wait_of_eq ?_ (by with_reducible assumption)) | (refine Pages.ok_of_eq ?_ (by with_reducible assumption)) | (refine Pages.fail_of_eq ?_ (by with_reducible assumption)) | (refine Pages.wait_of_eq ?_ (by with_reducible assumption)) | (refine State.fst_of_eq ?_ (by with_reducible assumption)) | (refine Core.fst_of_eq ?_ (by with_reducible assumption)) | split | (with_reducible refine State.mk_memWf ?_ ?_ ?_) | (with_reducible refine Core.mk_memWf ?_ ?_ ?_ ?_ ?_)

@[simp ↓] theorem State.release_memWf (s : State) (r : Waiter) (hs : s.memWf = true) :
    (State.release s r).memWf = true := by
  unfold State.release
  (try dsimp only)
  repeat' first | with_reducible assumption | with_reducible rfl | (intro _) | with_reducible apply Core.acc_wf | with_reducible apply Core.banks_wf | with_reducible apply Core.istore_wf | with_reducible apply Core.iteFst_memWf | with_reducible apply Core.ite_memWf | with_reducible apply Core.rf_wf | with_reducible apply Core.store_wf | with_reducible apply Res.done_memWf | with_reducible apply Res.ite_memWf | with_reducible apply Res.moved_memWf | with_reducible apply Res.trap_memWf | with_reducible apply Res.wait_memWf | with_reducible apply State.cap_wf | with_reducible apply State.cores_wf | with_reducible apply State.hbm_wf | with_reducible apply State.iteFst_memWf | with_reducible apply State.ite_memWf | with_reducible apply State.modCore_memWf | with_reducible apply State.postOnce_memWf | with_reducible apply Xl.fail_memWf | with_reducible apply Xl.ite_memWf | with_reducible apply Xl.ok_memWf | with_reducible apply Xl.wait_memWf | with_reducible apply misaligned_memWf | with_reducible apply prot_memWf | (refine Xl.ok_of_eq ?_ (by with_reducible assumption)) | (refine Xl.fail_of_eq ?_ (by with_reducible assumption)) | (refine Xl.wait_of_eq ?_ (by with_reducible assumption)) | (refine State.fst_of_eq ?_ (by with_reducible assumption)) | (refine Core.fst_of_eq ?_ (by with_reducible assumption)) | split | (with_reducible refine State.mk_memWf ?_ ?_ ?_) | (with_reducible refine Core.mk_memWf ?_ ?_ ?_ ?_ ?_)

@[simp ↓] theorem State.releaseAll_memWf (s : State) (ws : List Waiter) (hs : s.memWf = true) :
    (State.releaseAll s ws).memWf = true := by
  unfold State.releaseAll
  simp +contextual (maxDischargeDepth := 60) only [↓Core.foldlFst_memWf, ↓Core.foldl_memWf, ↓State.foldlFst_memWf, ↓State.foldl_memWf, ↓State.release_memWf, ↓Xl.fail_memWf, ↓Xl.ite_memWf, ↓Xl.ok_memWf, ↓Xl.wait_memWf, hs, implies_true]

@[simp ↓] theorem State.dirtyAppend_memWf (s : State) (c : Nat) (e : TEntry) (hs : s.memWf = true) :
    (State.dirtyAppend s c e).memWf = true := by
  unfold State.dirtyAppend
  simp +contextual (maxDischargeDepth := 60) only [↓Core.acc_wf, ↓Core.banks_wf, ↓Core.istore_wf, ↓Core.iteFst_memWf, ↓Core.ite_memWf, ↓Core.mk_memWf, ↓Core.rf_wf, ↓Core.store_wf, ↓Core.writeStore_memWf, ↓Res.ite_memWf, ↓State.cap_wf, ↓State.core_memWf, ↓State.cores_wf, ↓State.hbm_wf, ↓State.iteFst_memWf, ↓State.ite_memWf, ↓State.mk_memWf, ↓State.postOnce_memWf, ↓State.setCore_memWf, ↓Xl.fail_memWf, ↓Xl.ite_memWf, ↓Xl.ok_memWf, ↓Xl.wait_memWf, hs, implies_true]

@[simp ↓] theorem State.markDirty_memWf (s : State) (c : Nat) (e : TEntry) (hs : s.memWf = true) :
    (State.markDirty s c e).memWf = true := by
  unfold State.markDirty
  simp +contextual (maxDischargeDepth := 60) only [↓Core.acc_wf, ↓Core.banks_wf, ↓Core.istore_wf, ↓Core.iteFst_memWf, ↓Core.ite_memWf, ↓Core.mk_memWf, ↓Core.rf_wf, ↓Core.store_wf, ↓Res.ite_memWf, ↓State.cap_wf, ↓State.cores_wf, ↓State.hbm_wf, ↓State.iteFst_memWf, ↓State.ite_memWf, ↓State.mk_memWf, ↓State.modCore_memWf, ↓State.modDie_memWf, ↓Xl.fail_memWf, ↓Xl.ite_memWf, ↓Xl.ok_memWf, ↓Xl.wait_memWf, hs, implies_true]

@[simp ↓] theorem State.sendAts_memWf (s : State) (d i ctx page : Nat) (write : Bool) (hs : s.memWf = true) :
    (State.sendAts s d i ctx page write).memWf = true := by
  unfold State.sendAts
  simp +contextual (maxDischargeDepth := 60) only [↓Mem.wf_clear, ↓Mem.wf_filter, ↓Mem.wf_set, ↓Mem.wf_write, ↓State.emit_memWf, ↓Xl.fail_memWf, ↓Xl.ite_memWf, ↓Xl.ok_memWf, ↓Xl.wait_memWf, hs, implies_true]

@[simp ↓] theorem State.joinMiss_memWf (s : State) (d ctx page : Nat) (write hint : Bool) (who : Waiter) (hs : s.memWf = true) :
    (State.joinMiss s d ctx page write hint who).memWf = true := by
  unfold State.joinMiss
  (try dsimp only)
  repeat' first | with_reducible assumption | with_reducible rfl | (intro _) | with_reducible apply Core.acc_wf | with_reducible apply Core.banks_wf | with_reducible apply Core.istore_wf | with_reducible apply Core.rf_wf | with_reducible apply Core.store_wf | with_reducible apply Mem.wf_clear | with_reducible apply Mem.wf_filter | with_reducible apply Mem.wf_set | with_reducible apply Mem.wf_write | with_reducible apply State.cap_wf | with_reducible apply State.cores_wf | with_reducible apply State.hbm_wf | with_reducible apply State.sendAts_memWf | with_reducible apply State.setDie_memWf | with_reducible apply Xl.fail_memWf | with_reducible apply Xl.ite_memWf | with_reducible apply Xl.ok_memWf | with_reducible apply Xl.wait_memWf | (refine State.fst_of_eq ?_ (by with_reducible assumption)) | (refine Core.fst_of_eq ?_ (by with_reducible assumption)) | split | (with_reducible refine State.mk_memWf ?_ ?_ ?_) | (with_reducible refine Core.mk_memWf ?_ ?_ ?_ ?_ ?_)

@[simp ↓] theorem State.xlate_memWf (s : State) (c eng ctx va : Nat) (write hint : Bool) (who : Waiter) (hs : s.memWf = true) :
    (State.xlate s c eng ctx va write hint who).memWf = true := by
  unfold State.xlate
  (try dsimp only)
  repeat' first | with_reducible assumption | with_reducible rfl | (intro _) | with_reducible apply State.getD_memWf | with_reducible apply Core.acc_wf | with_reducible apply Core.banks_wf | with_reducible apply Core.istore_wf | with_reducible apply Core.iteFst_memWf | with_reducible apply Core.ite_memWf | with_reducible apply Core.rf_wf | with_reducible apply Core.store_wf | with_reducible apply Mem.wf_clear | with_reducible apply Mem.wf_filter | with_reducible apply Mem.wf_set | with_reducible apply Mem.wf_write | with_reducible apply Res.done_memWf | with_reducible apply Res.ite_memWf | with_reducible apply Res.moved_memWf | with_reducible apply Res.trap_memWf | with_reducible apply Res.wait_memWf | with_reducible apply State.cap_wf | with_reducible apply State.core_memWf | with_reducible apply State.cores_wf | with_reducible apply State.dirtyAppend_memWf | with_reducible apply State.hbm_wf | with_reducible apply State.iteFst_memWf | with_reducible apply State.ite_memWf | with_reducible apply State.joinMiss_memWf | with_reducible apply State.markDirty_memWf | with_reducible apply State.modCore_memWf | with_reducible apply State.setCore_memWf | with_reducible apply State.setDie_memWf | with_reducible apply Xl.fail_memWf | with_reducible apply Xl.ite_memWf | with_reducible apply Xl.ok_memWf | with_reducible apply Xl.wait_memWf | with_reducible apply misaligned_memWf | with_reducible apply prot_memWf | (refine Xl.ok_of_eq ?_ (by with_reducible assumption)) | (refine Xl.fail_of_eq ?_ (by with_reducible assumption)) | (refine Xl.wait_of_eq ?_ (by with_reducible assumption)) | (refine State.fst_of_eq ?_ (by with_reducible assumption)) | (refine Core.fst_of_eq ?_ (by with_reducible assumption)) | split | (with_reducible refine State.mk_memWf ?_ ?_ ?_) | (with_reducible refine Core.mk_memWf ?_ ?_ ?_ ?_ ?_)

@[simp ↓] theorem State.logFault_memWf (s : State) (c op lane ft : Nat) (hs : s.memWf = true) :
    (State.logFault s c op lane ft).memWf = true := by
  unfold State.logFault
  (try dsimp only)
  repeat' first | with_reducible assumption | with_reducible rfl | (intro _) | with_reducible apply State.getD_memWf | with_reducible apply Core.acc_wf | with_reducible apply Core.banks_wf | with_reducible apply Core.istore_wf | with_reducible apply Core.rf_wf | with_reducible apply Core.store_wf | with_reducible apply Core.writeStore_memWf | with_reducible apply Mem.wf_clear | with_reducible apply Mem.wf_filter | with_reducible apply Mem.wf_set | with_reducible apply Mem.wf_write | with_reducible apply State.cap_wf | with_reducible apply State.core_memWf | with_reducible apply State.cores_wf | with_reducible apply State.hbm_wf | with_reducible apply State.setCore_memWf | with_reducible apply Xl.fail_memWf | with_reducible apply Xl.ite_memWf | with_reducible apply Xl.ok_memWf | with_reducible apply Xl.wait_memWf | (refine State.fst_of_eq ?_ (by with_reducible assumption)) | (refine Core.fst_of_eq ?_ (by with_reducible assumption)) | split | (with_reducible refine State.mk_memWf ?_ ?_ ?_) | (with_reducible refine Core.mk_memWf ?_ ?_ ?_ ?_ ?_)

@[simp ↓] theorem State.admitLog_memWf (s : State) (c : Nat) (hs : s.memWf = true) :
    (State.admitLog s c).memWf = true := by
  unfold State.admitLog
  simp +contextual (maxDischargeDepth := 60) only [↓Core.acc_wf, ↓Core.banks_wf, ↓Core.foldlFst_memWf, ↓Core.foldl_memWf, ↓Core.istore_wf, ↓Core.mk_memWf, ↓Core.rf_wf, ↓Core.store_wf, ↓State.cap_wf, ↓State.core_memWf, ↓State.cores_wf, ↓State.foldlFst_memWf, ↓State.foldl_memWf, ↓State.hbm_wf, ↓State.logFault_memWf, ↓State.mk_memWf, ↓State.modCore_memWf, ↓Xl.fail_memWf, ↓Xl.ite_memWf, ↓Xl.ok_memWf, ↓Xl.wait_memWf, hs, implies_true]

@[simp ↓] theorem State.logDone_memWf (s : State) (c op lane : Nat) (hs : s.memWf = true) :
    (State.logDone s c op lane).memWf = true := by
  unfold State.logDone
  (try dsimp only)
  repeat' first | with_reducible assumption | with_reducible rfl | (intro _) | with_reducible apply State.getD_memWf | with_reducible apply Core.acc_wf | with_reducible apply Core.banks_wf | with_reducible apply Core.istore_wf | with_reducible apply Core.iteFst_memWf | with_reducible apply Core.ite_memWf | with_reducible apply Core.rf_wf | with_reducible apply Core.store_wf | with_reducible apply Core.writeStore_memWf | with_reducible apply Mem.wf_clear | with_reducible apply Mem.wf_filter | with_reducible apply Mem.wf_set | with_reducible apply Mem.wf_write | with_reducible apply Res.ite_memWf | with_reducible apply State.admitLog_memWf | with_reducible apply State.cap_wf | with_reducible apply State.core_memWf | with_reducible apply State.cores_wf | with_reducible apply State.hbm_wf | with_reducible apply State.iteFst_memWf | with_reducible apply State.ite_memWf | with_reducible apply State.setCore_memWf | with_reducible apply Xl.fail_memWf | with_reducible apply Xl.ite_memWf | with_reducible apply Xl.ok_memWf | with_reducible apply Xl.wait_memWf | (refine State.fst_of_eq ?_ (by with_reducible assumption)) | (refine Core.fst_of_eq ?_ (by with_reducible assumption)) | split | (with_reducible refine State.mk_memWf ?_ ?_ ?_) | (with_reducible refine Core.mk_memWf ?_ ?_ ?_ ?_ ?_)

@[simp ↓] theorem State.failWaiter_memWf (s : State) (d ctx page code : Nat) (who : Waiter) (hs : s.memWf = true) :
    (State.failWaiter s d ctx page code who).memWf = true := by
  unfold State.failWaiter
  simp +contextual (maxDischargeDepth := 60) only [↓Core.acc_wf, ↓Core.banks_wf, ↓Core.istore_wf, ↓Core.iteFst_memWf, ↓Core.ite_memWf, ↓Core.mk_memWf, ↓Core.rf_wf, ↓Core.store_wf, ↓Res.ite_memWf, ↓State.cap_wf, ↓State.cores_wf, ↓State.hbm_wf, ↓State.iteFst_memWf, ↓State.ite_memWf, ↓State.mk_memWf, ↓State.modDie_memWf, ↓State.release_memWf, ↓Xl.fail_memWf, ↓Xl.ite_memWf, ↓Xl.ok_memWf, ↓Xl.wait_memWf, hs, implies_true]

@[simp ↓] theorem State.pageFault_memWf (s : State) (d ctx page : Nat) (write : Bool) (who : Waiter) (hs : s.memWf = true) :
    (State.pageFault s d ctx page write who).memWf = true := by
  unfold State.pageFault
  (try dsimp only)
  repeat' split
  all_goals first | with_reducible assumption | with_reducible rfl | (simp +contextual (maxDischargeDepth := 60) only [↓Core.acc_wf, ↓Core.banks_wf, ↓Core.istore_wf, ↓Core.iteFst_memWf, ↓Core.ite_memWf, ↓Core.mk_memWf, ↓Core.rf_wf, ↓Core.store_wf, ↓Mem.wf_clear, ↓Mem.wf_filter, ↓Mem.wf_set, ↓Mem.wf_write, ↓Res.ite_memWf, ↓State.cap_wf, ↓State.cores_wf, ↓State.emit_memWf, ↓State.hbm_wf, ↓State.iteFst_memWf, ↓State.ite_memWf, ↓State.logFault_memWf, ↓State.mk_memWf, ↓State.setDie_memWf, ↓Xl.fail_memWf, ↓Xl.ite_memWf, ↓Xl.ok_memWf, ↓Xl.wait_memWf, hs, implies_true]) | grind [Core.iteFst_memWf, State.emit_memWf, State.iteFst_memWf, State.logFault_memWf, State.setDie_memWf, Xl.fail_memWf, Xl.ok_memWf, Xl.wait_memWf, Xl.memWf, EngAcc.memWf]

@[simp ↓] theorem State.retryMisses_memWf (s : State) (d : Nat) (hs : s.memWf = true) :
    (State.retryMisses s d).memWf = true := by
  unfold State.retryMisses
  simp +contextual (maxDischargeDepth := 60) only [↓Core.acc_wf, ↓Core.banks_wf, ↓Core.istore_wf, ↓Core.mk_memWf, ↓Core.rf_wf, ↓Core.store_wf, ↓State.cap_wf, ↓State.cores_wf, ↓State.hbm_wf, ↓State.mk_memWf, ↓State.modDie_memWf, ↓State.releaseAll_memWf, ↓Xl.fail_memWf, ↓Xl.ite_memWf, ↓Xl.ok_memWf, ↓Xl.wait_memWf, hs, implies_true]

@[simp ↓] theorem State.freeFault_memWf (s : State) (d i : Nat) (hs : s.memWf = true) :
    (State.freeFault s d i).memWf = true := by
  unfold State.freeFault
  simp +contextual (maxDischargeDepth := 60) only [↓Core.acc_wf, ↓Core.banks_wf, ↓Core.foldlFst_memWf, ↓Core.foldl_memWf, ↓Core.istore_wf, ↓Core.iteFst_memWf, ↓Core.ite_memWf, ↓Core.mk_memWf, ↓Core.rf_wf, ↓Core.store_wf, ↓Mem.wf_clear, ↓Mem.wf_filter, ↓Mem.wf_set, ↓Mem.wf_write, ↓Res.ite_memWf, ↓State.cap_wf, ↓State.cores_wf, ↓State.foldlFst_memWf, ↓State.foldl_memWf, ↓State.hbm_wf, ↓State.iteFst_memWf, ↓State.ite_memWf, ↓State.mk_memWf, ↓State.retryMisses_memWf, ↓State.setDie_memWf, ↓Xl.fail_memWf, ↓Xl.ite_memWf, ↓Xl.ok_memWf, ↓Xl.wait_memWf, hs, implies_true]

@[simp ↓] theorem State.failFault_memWf (s : State) (d i code : Nat) (hs : s.memWf = true) :
    (State.failFault s d i code).memWf = true := by
  unfold State.failFault
  (try dsimp only)
  repeat' first | with_reducible assumption | with_reducible rfl | (intro _) | with_reducible apply Core.acc_wf | with_reducible apply Core.banks_wf | with_reducible apply Core.foldlFst_memWf | with_reducible apply Core.foldl_memWf | with_reducible apply Core.istore_wf | with_reducible apply Core.rf_wf | with_reducible apply Core.store_wf | with_reducible apply State.cap_wf | with_reducible apply State.cores_wf | with_reducible apply State.failWaiter_memWf | with_reducible apply State.foldlFst_memWf | with_reducible apply State.foldl_memWf | with_reducible apply State.freeFault_memWf | with_reducible apply State.hbm_wf | with_reducible apply State.modDie_memWf | with_reducible apply Xl.fail_memWf | with_reducible apply Xl.ite_memWf | with_reducible apply Xl.ok_memWf | with_reducible apply Xl.wait_memWf | (refine State.fst_of_eq ?_ (by with_reducible assumption)) | (refine Core.fst_of_eq ?_ (by with_reducible assumption)) | split | (with_reducible refine State.mk_memWf ?_ ?_ ?_) | (with_reducible refine Core.mk_memWf ?_ ?_ ?_ ?_ ?_)

@[simp ↓] theorem State.serveWaiter_memWf (s : State) (d : Nat) (m : Miss) (granted : Bool → Bool) (w : Waiter × Bool × Bool) (hs : s.memWf = true) :
    (State.serveWaiter s d m granted w).memWf = true := by
  unfold State.serveWaiter
  simp +contextual (maxDischargeDepth := 60) only [↓Core.acc_wf, ↓Core.banks_wf, ↓Core.istore_wf, ↓Core.iteFst_memWf, ↓Core.ite_memWf, ↓Core.mk_memWf, ↓Core.rf_wf, ↓Core.store_wf, ↓Mem.wf_clear, ↓Mem.wf_filter, ↓Mem.wf_set, ↓Mem.wf_write, ↓Res.ite_memWf, ↓State.cap_wf, ↓State.cores_wf, ↓State.failWaiter_memWf, ↓State.hbm_wf, ↓State.iteFst_memWf, ↓State.ite_memWf, ↓State.mk_memWf, ↓State.pageFault_memWf, ↓State.release_memWf, ↓Xl.fail_memWf, ↓Xl.ite_memWf, ↓Xl.ok_memWf, ↓Xl.wait_memWf, hs, implies_true]

@[simp ↓] theorem State.replay_memWf (s : State) (who : Waiter) (hs : s.memWf = true) :
    (State.replay s who).memWf = true := by
  unfold State.replay
  (try dsimp only)
  repeat' first | with_reducible assumption | with_reducible rfl | (intro _) | with_reducible apply Core.acc_wf | with_reducible apply Core.banks_wf | with_reducible apply Core.istore_wf | with_reducible apply Core.rf_wf | with_reducible apply Core.store_wf | with_reducible apply State.cap_wf | with_reducible apply State.core_memWf | with_reducible apply State.cores_wf | with_reducible apply State.hbm_wf | with_reducible apply State.postOnce_memWf | with_reducible apply State.release_memWf | with_reducible apply Xl.fail_memWf | with_reducible apply Xl.ite_memWf | with_reducible apply Xl.ok_memWf | with_reducible apply Xl.wait_memWf | (refine State.fst_of_eq ?_ (by with_reducible assumption)) | (refine Core.fst_of_eq ?_ (by with_reducible assumption)) | split | (with_reducible refine State.mk_memWf ?_ ?_ ?_) | (with_reducible refine Core.mk_memWf ?_ ?_ ?_ ?_ ?_)

@[simp ↓] theorem execAtsCompletion_memWf (d i : Nat) (g : AtsGrant) (s : State) (hs : s.memWf = true) :
    outMemWf (execAtsCompletion d i g s) = true := by
  unfold execAtsCompletion
  (try dsimp only)
  repeat' first | with_reducible assumption | with_reducible rfl | (intro _) | with_reducible apply Core.acc_wf | with_reducible apply Core.banks_wf | with_reducible apply Core.foldlFst_memWf | with_reducible apply Core.foldl_memWf | with_reducible apply Core.istore_wf | with_reducible apply Core.iteFst_memWf | with_reducible apply Core.ite_memWf | with_reducible apply Core.rf_wf | with_reducible apply Core.store_wf | with_reducible apply Mem.wf_clear | with_reducible apply Mem.wf_filter | with_reducible apply Mem.wf_set | with_reducible apply Mem.wf_write | with_reducible apply Res.ite_memWf | with_reducible apply State.cap_wf | with_reducible apply State.cores_wf | with_reducible apply State.emit_memWf | with_reducible apply State.failFault_memWf | with_reducible apply State.foldlFst_memWf | with_reducible apply State.foldl_memWf | with_reducible apply State.freeFault_memWf | with_reducible apply State.hbm_wf | with_reducible apply State.iteFst_memWf | with_reducible apply State.ite_memWf | with_reducible apply State.modDie_memWf | with_reducible apply State.releaseAll_memWf | with_reducible apply State.replay_memWf | with_reducible apply State.sendAts_memWf | with_reducible apply State.serveWaiter_memWf | with_reducible apply Xl.fail_memWf | with_reducible apply Xl.ite_memWf | with_reducible apply Xl.ok_memWf | with_reducible apply Xl.wait_memWf | with_reducible apply outMemWf_fault | with_reducible apply outMemWf_ite | with_reducible apply outMemWf_next | (refine State.fst_of_eq ?_ (by with_reducible assumption)) | (refine Core.fst_of_eq ?_ (by with_reducible assumption)) | split | (with_reducible refine State.mk_memWf ?_ ?_ ?_) | (with_reducible refine Core.mk_memWf ?_ ?_ ?_ ?_ ?_)

@[simp ↓] theorem execAtsTimeout_memWf (d i : Nat) (s : State) (hs : s.memWf = true) :
    outMemWf (execAtsTimeout d i s) = true := by
  unfold execAtsTimeout
  (try dsimp only)
  repeat' first | with_reducible assumption | with_reducible rfl | (intro _) | with_reducible apply Core.acc_wf | with_reducible apply Core.banks_wf | with_reducible apply Core.foldlFst_memWf | with_reducible apply Core.foldl_memWf | with_reducible apply Core.istore_wf | with_reducible apply Core.iteFst_memWf | with_reducible apply Core.ite_memWf | with_reducible apply Core.rf_wf | with_reducible apply Core.store_wf | with_reducible apply Res.ite_memWf | with_reducible apply State.cap_wf | with_reducible apply State.cores_wf | with_reducible apply State.failWaiter_memWf | with_reducible apply State.foldlFst_memWf | with_reducible apply State.foldl_memWf | with_reducible apply State.freeFault_memWf | with_reducible apply State.hbm_wf | with_reducible apply State.iteFst_memWf | with_reducible apply State.ite_memWf | with_reducible apply State.modDie_memWf | with_reducible apply State.retryMisses_memWf | with_reducible apply Xl.fail_memWf | with_reducible apply Xl.ite_memWf | with_reducible apply Xl.ok_memWf | with_reducible apply Xl.wait_memWf | with_reducible apply outMemWf_fault | with_reducible apply outMemWf_ite | with_reducible apply outMemWf_next | (refine State.fst_of_eq ?_ (by with_reducible assumption)) | (refine Core.fst_of_eq ?_ (by with_reducible assumption)) | split | (with_reducible refine State.mk_memWf ?_ ?_ ?_) | (with_reducible refine Core.mk_memWf ?_ ?_ ?_ ?_ ?_)

@[simp ↓] theorem State.failAll_memWf (s : State) (fn code : Nat) (hs : s.memWf = true) :
    (State.failAll s fn code).memWf = true := by
  unfold State.failAll
  simp +contextual (maxDischargeDepth := 60) only [↓Core.acc_wf, ↓Core.banks_wf, ↓Core.foldlFst_memWf, ↓Core.foldl_memWf, ↓Core.istore_wf, ↓Core.mk_memWf, ↓Core.rf_wf, ↓Core.store_wf, ↓Mem.wf_clear, ↓Mem.wf_filter, ↓Mem.wf_set, ↓Mem.wf_write, ↓State.cap_wf, ↓State.cores_wf, ↓State.failFault_memWf, ↓State.foldlFst_memWf, ↓State.foldl_memWf, ↓State.hbm_wf, ↓State.mk_memWf, ↓Xl.fail_memWf, ↓Xl.ite_memWf, ↓Xl.ok_memWf, ↓Xl.wait_memWf, hs, implies_true]

@[simp ↓] theorem execPriResponse_memWf (d i code : Nat) (s : State) (hs : s.memWf = true) :
    outMemWf (execPriResponse d i code s) = true := by
  unfold execPriResponse
  (try dsimp only)
  repeat' first | with_reducible assumption | with_reducible rfl | (intro _) | with_reducible apply Core.acc_wf | with_reducible apply Core.banks_wf | with_reducible apply Core.istore_wf | with_reducible apply Core.iteFst_memWf | with_reducible apply Core.ite_memWf | with_reducible apply Core.rf_wf | with_reducible apply Core.store_wf | with_reducible apply Mem.wf_clear | with_reducible apply Mem.wf_filter | with_reducible apply Mem.wf_set | with_reducible apply Mem.wf_write | with_reducible apply Res.ite_memWf | with_reducible apply State.cap_wf | with_reducible apply State.cores_wf | with_reducible apply State.failAll_memWf | with_reducible apply State.failFault_memWf | with_reducible apply State.freeFault_memWf | with_reducible apply State.hbm_wf | with_reducible apply State.iteFst_memWf | with_reducible apply State.ite_memWf | with_reducible apply State.modDie_memWf | with_reducible apply State.post_memWf | with_reducible apply State.sendAts_memWf | with_reducible apply State.setDie_memWf | with_reducible apply Xl.fail_memWf | with_reducible apply Xl.ite_memWf | with_reducible apply Xl.ok_memWf | with_reducible apply Xl.wait_memWf | with_reducible apply outMemWf_fault | with_reducible apply outMemWf_ite | with_reducible apply outMemWf_next | (refine State.fst_of_eq ?_ (by with_reducible assumption)) | (refine Core.fst_of_eq ?_ (by with_reducible assumption)) | split | (with_reducible refine State.mk_memWf ?_ ?_ ?_) | (with_reducible refine Core.mk_memWf ?_ ?_ ?_ ?_ ?_)

@[simp ↓] theorem execPriDisable_memWf (s : State) (hs : s.memWf = true) :
    outMemWf (execPriDisable s) = true := by
  unfold execPriDisable
  simp +contextual (maxDischargeDepth := 60) only [↓State.failAll_memWf, ↓Xl.fail_memWf, ↓Xl.ite_memWf, ↓Xl.ok_memWf, ↓Xl.wait_memWf, ↓outMemWf_fault, ↓outMemWf_ite, ↓outMemWf_next, hs, implies_true]

@[simp ↓] theorem execPriReenable_memWf (s : State) (hs : s.memWf = true) :
    outMemWf (execPriReenable s) = true := by
  unfold execPriReenable
  simp +contextual (maxDischargeDepth := 60) only [↓Core.acc_wf, ↓Core.banks_wf, ↓Core.foldlFst_memWf, ↓Core.foldl_memWf, ↓Core.istore_wf, ↓Core.mk_memWf, ↓Core.rf_wf, ↓Core.store_wf, ↓Mem.wf_clear, ↓Mem.wf_filter, ↓Mem.wf_set, ↓Mem.wf_write, ↓State.cap_wf, ↓State.cores_wf, ↓State.foldlFst_memWf, ↓State.foldl_memWf, ↓State.hbm_wf, ↓State.mk_memWf, ↓State.retryMisses_memWf, ↓Xl.fail_memWf, ↓Xl.ite_memWf, ↓Xl.ok_memWf, ↓Xl.wait_memWf, ↓outMemWf_fault, ↓outMemWf_ite, ↓outMemWf_next, hs, implies_true]

@[simp ↓] theorem execOperandLogReplay_memWf (c i : Nat) (s : State) (hs : s.memWf = true) :
    outMemWf (execOperandLogReplay c i s) = true := by
  unfold execOperandLogReplay
  (try dsimp only)
  repeat' first | with_reducible assumption | with_reducible rfl | (intro _) | with_reducible apply Core.acc_wf | with_reducible apply Core.banks_wf | with_reducible apply Core.istore_wf | with_reducible apply Core.rf_wf | with_reducible apply Core.store_wf | with_reducible apply State.cap_wf | with_reducible apply State.core_memWf | with_reducible apply State.cores_wf | with_reducible apply State.hbm_wf | with_reducible apply State.posts_memWf | with_reducible apply Xl.fail_memWf | with_reducible apply Xl.ite_memWf | with_reducible apply Xl.ok_memWf | with_reducible apply Xl.wait_memWf | with_reducible apply outMemWf_fault | with_reducible apply outMemWf_ite | with_reducible apply outMemWf_next | (refine State.fst_of_eq ?_ (by with_reducible assumption)) | (refine Core.fst_of_eq ?_ (by with_reducible assumption)) | split | (with_reducible refine State.mk_memWf ?_ ?_ ?_) | (with_reducible refine Core.mk_memWf ?_ ?_ ?_ ?_ ?_)

@[simp ↓] theorem State.invalidateOn_memWf (s : State) (on : Nat → Bool) (ctx lo hi : Nat) (hs : s.memWf = true) :
    (State.invalidateOn s on ctx lo hi).memWf = true := by
  unfold State.invalidateOn
  simp +contextual (maxDischargeDepth := 60) only [↓Core.acc_wf, ↓Core.banks_wf, ↓Core.istore_wf, ↓Core.iteFst_memWf, ↓Core.ite_memWf, ↓Core.mk_memWf, ↓Core.rf_wf, ↓Core.store_wf, ↓Mem.nil_wf, ↓Mem.wf_clear, ↓Mem.wf_filter, ↓Mem.wf_set, ↓Mem.wf_write, ↓Res.ite_memWf, ↓State.cap_wf, ↓State.cores_wf, ↓State.hbm_wf, ↓State.iteFst_memWf, ↓State.ite_memWf, ↓State.mapCores_wf, ↓State.mk_memWf, ↓State.nil_wf, ↓Xl.fail_memWf, ↓Xl.ite_memWf, ↓Xl.ok_memWf, ↓Xl.wait_memWf, hs, implies_true]

@[simp ↓] theorem State.invalidate_memWf (s : State) (ctx lo hi : Nat) (hs : s.memWf = true) :
    (State.invalidate s ctx lo hi).memWf = true := by
  unfold State.invalidate
  exact State.mk_memWf (State.hbm_wf hs) (State.cap_wf hs) (State.mapCores_wf (State.cores_wf hs) fun p hp => hp)

@[simp ↓] theorem execAtsInvalidation_memWf (tag pasid va size : Nat) (s : State) (hs : s.memWf = true) :
    outMemWf (execAtsInvalidation tag pasid va size s) = true := by
  unfold execAtsInvalidation
  simp +contextual (maxDischargeDepth := 60) only [↓Core.acc_wf, ↓Core.banks_wf, ↓Core.foldlFst_memWf, ↓Core.foldl_memWf, ↓Core.istore_wf, ↓Core.mk_memWf, ↓Core.rf_wf, ↓Core.store_wf, ↓State.cap_wf, ↓State.cores_wf, ↓State.foldlFst_memWf, ↓State.foldl_memWf, ↓State.hbm_wf, ↓State.mk_memWf, ↓State.postOnce_memWf, ↓State.send_memWf, ↓Xl.fail_memWf, ↓Xl.ite_memWf, ↓Xl.ok_memWf, ↓Xl.wait_memWf, ↓outMemWf_fault, ↓outMemWf_ite, ↓outMemWf_next, hs, implies_true]

@[simp ↓] theorem State.invalidateDie_memWf (s : State) (tag d : Nat) (hs : s.memWf = true) :
    (State.invalidateDie s tag d).memWf = true := by
  unfold State.invalidateDie
  (try dsimp only)
  repeat' first | with_reducible assumption | with_reducible rfl | (intro _) | with_reducible apply Core.acc_wf | with_reducible apply Core.banks_wf | with_reducible apply Core.foldlFst_memWf | with_reducible apply Core.foldl_memWf | with_reducible apply Core.istore_wf | with_reducible apply Core.rf_wf | with_reducible apply Core.store_wf | with_reducible apply Mem.wf_clear | with_reducible apply Mem.wf_filter | with_reducible apply Mem.wf_set | with_reducible apply Mem.wf_write | with_reducible apply State.cap_wf | with_reducible apply State.cores_wf | with_reducible apply State.foldlFst_memWf | with_reducible apply State.foldl_memWf | with_reducible apply State.hbm_wf | with_reducible apply State.invalidateOn_memWf | with_reducible apply Xl.fail_memWf | with_reducible apply Xl.ite_memWf | with_reducible apply Xl.ok_memWf | with_reducible apply Xl.wait_memWf | (refine State.fst_of_eq ?_ (by with_reducible assumption)) | (refine Core.fst_of_eq ?_ (by with_reducible assumption)) | split | (with_reducible refine State.mk_memWf ?_ ?_ ?_) | (with_reducible refine Core.mk_memWf ?_ ?_ ?_ ?_ ?_)

@[simp ↓] theorem execInvalidationComplete_memWf (tag : Nat) (s : State) (hs : s.memWf = true) :
    outMemWf (execInvalidationComplete tag s) = true := by
  unfold execInvalidationComplete
  (try dsimp only)
  repeat' first | with_reducible assumption | with_reducible rfl | (intro _) | with_reducible apply Core.acc_wf | with_reducible apply Core.banks_wf | with_reducible apply Core.istore_wf | with_reducible apply Core.iteFst_memWf | with_reducible apply Core.ite_memWf | with_reducible apply Core.rf_wf | with_reducible apply Core.store_wf | with_reducible apply Res.ite_memWf | with_reducible apply State.cap_wf | with_reducible apply State.cores_wf | with_reducible apply State.emit_memWf | with_reducible apply State.hbm_wf | with_reducible apply State.invalidateDie_memWf | with_reducible apply State.iteFst_memWf | with_reducible apply State.ite_memWf | with_reducible apply State.post_memWf | with_reducible apply Xl.fail_memWf | with_reducible apply Xl.ite_memWf | with_reducible apply Xl.ok_memWf | with_reducible apply Xl.wait_memWf | with_reducible apply outMemWf_fault | with_reducible apply outMemWf_ite | with_reducible apply outMemWf_next | (refine State.fst_of_eq ?_ (by with_reducible assumption)) | (refine Core.fst_of_eq ?_ (by with_reducible assumption)) | split | (with_reducible refine State.mk_memWf ?_ ?_ ?_) | (with_reducible refine Core.mk_memWf ?_ ?_ ?_ ?_ ?_)

@[simp ↓] theorem State.assignPasid_memWf (s : State) (i pasid : Nat) (hs : s.memWf = true) :
    (State.assignPasid s i pasid).memWf = true := by
  unfold State.assignPasid
  simp +contextual (maxDischargeDepth := 60) only [↓State.invalidate_memWf, ↓State.setField_memWf, ↓Xl.fail_memWf, ↓Xl.ite_memWf, ↓Xl.ok_memWf, ↓Xl.wait_memWf, hs, implies_true]

@[simp ↓] theorem execContextPasidAssign_memWf (i pasid : Nat) (s : State) (hs : s.memWf = true) :
    outMemWf (execContextPasidAssign i pasid s) = true := by
  unfold execContextPasidAssign
  simp +contextual (maxDischargeDepth := 60) only [↓State.assignPasid_memWf, ↓Xl.fail_memWf, ↓Xl.ite_memWf, ↓Xl.ok_memWf, ↓Xl.wait_memWf, ↓outMemWf_fault, ↓outMemWf_ite, ↓outMemWf_next, hs, implies_true]

end Sys2Proof.Machine
end

