-- ==== Sys2Proof/Laws/CanonMemory.lean ====
section
/-! SUPPORT. The memory system and its events keep the canonical form of storage. -/

set_option linter.unusedSimpArgs false

namespace Sys2Proof.Machine

@[simp ↓] theorem State.rawPut_memWf (s : State) (h : Home) (i : Nat) (b : Byte) (bad : Bool) (hs : s.memWf = true) :
    (State.rawPut s h i b bad).memWf = true := by
  unfold State.rawPut
  simp +contextual (maxDischargeDepth := 60) only [↓Core.acc_wf, ↓Core.banks_wf, ↓Core.istore_wf, ↓Core.iteFst_memWf, ↓Core.ite_memWf, ↓Core.mk_memWf, ↓Core.rf_wf, ↓Core.store_wf, ↓Mem.wf_clear, ↓Mem.wf_filter, ↓Mem.wf_set, ↓Mem.wf_write, ↓Res.ite_memWf, ↓State.cap_wf, ↓State.cores_wf, ↓State.hbm_wf, ↓State.iteFst_memWf, ↓State.ite_memWf, ↓State.mk_memWf, ↓Xl.fail_memWf, ↓Xl.ite_memWf, ↓Xl.ok_memWf, ↓Xl.wait_memWf, hs, implies_true]

@[simp ↓] theorem State.setSlice_memWf (s : State) (d sl : Nat) (x : Slice) (hs : s.memWf = true) :
    (State.setSlice s d sl x).memWf = true := by
  unfold State.setSlice
  simp +contextual (maxDischargeDepth := 60) only [↓Core.acc_wf, ↓Core.banks_wf, ↓Core.istore_wf, ↓Core.mk_memWf, ↓Core.rf_wf, ↓Core.store_wf, ↓State.cap_wf, ↓State.cores_wf, ↓State.hbm_wf, ↓State.mk_memWf, ↓State.modDie_memWf, ↓Xl.fail_memWf, ↓Xl.ite_memWf, ↓Xl.ok_memWf, ↓Xl.wait_memWf, hs, implies_true]

@[simp ↓] theorem State.writeBack_memWf (s : State) (d : Nat) (l : SLine) (hs : s.memWf = true) :
    (State.writeBack s d l).memWf = true := by
  unfold State.writeBack
  (try dsimp only)
  repeat' first | with_reducible assumption | with_reducible rfl | (intro _) | with_reducible apply State.getD_memWf | with_reducible apply Core.acc_wf | with_reducible apply Core.banks_wf | with_reducible apply Core.foldlFst_memWf | with_reducible apply Core.foldl_memWf | with_reducible apply Core.istore_wf | with_reducible apply Core.iteFst_memWf | with_reducible apply Core.ite_memWf | with_reducible apply Core.rf_wf | with_reducible apply Core.store_wf | with_reducible apply Res.ite_memWf | with_reducible apply State.cap_wf | with_reducible apply State.cores_wf | with_reducible apply State.foldlFst_memWf | with_reducible apply State.foldl_memWf | with_reducible apply State.hbm_wf | with_reducible apply State.iteFst_memWf | with_reducible apply State.ite_memWf | with_reducible apply State.rawPut_memWf | with_reducible apply Xl.fail_memWf | with_reducible apply Xl.ite_memWf | with_reducible apply Xl.ok_memWf | with_reducible apply Xl.wait_memWf | (refine State.fst_of_eq ?_ (by with_reducible assumption)) | (refine Core.fst_of_eq ?_ (by with_reducible assumption)) | split | (with_reducible refine State.mk_memWf ?_ ?_ ?_) | (with_reducible refine Core.mk_memWf ?_ ?_ ?_ ?_ ?_)

@[simp ↓] theorem State.touchLine_memWf (s : State) (h : Home) (hs : s.memWf = true) :
    (State.touchLine s h).memWf = true := by
  unfold State.touchLine
  (try dsimp only)
  repeat' first | with_reducible assumption | with_reducible rfl | (intro _) | with_reducible apply State.getD_memWf | with_reducible apply Core.acc_wf | with_reducible apply Core.banks_wf | with_reducible apply Core.istore_wf | with_reducible apply Core.rf_wf | with_reducible apply Core.store_wf | with_reducible apply Mem.wf_clear | with_reducible apply Mem.wf_filter | with_reducible apply Mem.wf_set | with_reducible apply Mem.wf_write | with_reducible apply State.cap_wf | with_reducible apply State.cores_wf | with_reducible apply State.hbm_wf | with_reducible apply State.setSlice_memWf | with_reducible apply Xl.fail_memWf | with_reducible apply Xl.ite_memWf | with_reducible apply Xl.ok_memWf | with_reducible apply Xl.wait_memWf | (refine State.fst_of_eq ?_ (by with_reducible assumption)) | (refine Core.fst_of_eq ?_ (by with_reducible assumption)) | split | (with_reducible refine State.mk_memWf ?_ ?_ ?_) | (with_reducible refine Core.mk_memWf ?_ ?_ ?_ ?_ ?_)

@[simp ↓] theorem State.putSector_memWf (s : State) (h : Home) (q : Sector) (hs : s.memWf = true) :
    (State.putSector s h q).memWf = true := by
  unfold State.putSector
  (try dsimp only)
  repeat' first | with_reducible assumption | with_reducible rfl | (intro _) | with_reducible apply State.getD_memWf | with_reducible apply Core.acc_wf | with_reducible apply Core.banks_wf | with_reducible apply Core.istore_wf | with_reducible apply Core.iteFst_memWf | with_reducible apply Core.ite_memWf | with_reducible apply Core.rf_wf | with_reducible apply Core.store_wf | with_reducible apply Mem.wf_clear | with_reducible apply Mem.wf_filter | with_reducible apply Mem.wf_set | with_reducible apply Mem.wf_write | with_reducible apply Res.ite_memWf | with_reducible apply State.cap_wf | with_reducible apply State.cores_wf | with_reducible apply State.hbm_wf | with_reducible apply State.iteFst_memWf | with_reducible apply State.ite_memWf | with_reducible apply State.setSlice_memWf | with_reducible apply State.writeBack_memWf | with_reducible apply Xl.fail_memWf | with_reducible apply Xl.ite_memWf | with_reducible apply Xl.ok_memWf | with_reducible apply Xl.wait_memWf | (refine State.fst_of_eq ?_ (by with_reducible assumption)) | (refine Core.fst_of_eq ?_ (by with_reducible assumption)) | split | (with_reducible refine State.mk_memWf ?_ ?_ ?_) | (with_reducible refine Core.mk_memWf ?_ ?_ ?_ ?_ ?_)

@[simp ↓] theorem State.fillSector_memWf (s : State) (h : Home) (hs : s.memWf = true) :
    (State.fillSector s h).memWf = true := by
  unfold State.fillSector
  simp +contextual (maxDischargeDepth := 60) only [↓Core.acc_wf, ↓Core.banks_wf, ↓Core.istore_wf, ↓Core.iteFst_memWf, ↓Core.ite_memWf, ↓Core.mk_memWf, ↓Core.rf_wf, ↓Core.store_wf, ↓Res.ite_memWf, ↓State.cap_wf, ↓State.cores_wf, ↓State.hbm_wf, ↓State.iteFst_memWf, ↓State.ite_memWf, ↓State.mk_memWf, ↓State.putSector_memWf, ↓Xl.fail_memWf, ↓Xl.ite_memWf, ↓Xl.ok_memWf, ↓Xl.wait_memWf, hs, implies_true]

@[simp ↓] theorem State.mergeSector_memWf (s : State) (h : Home) (bs : List (Nat × Byte)) (bad : Bool) (hs : s.memWf = true) :
    (State.mergeSector s h bs bad).memWf = true := by
  unfold State.mergeSector
  (try dsimp only)
  repeat' first | with_reducible assumption | with_reducible rfl | (intro _) | with_reducible apply State.getD_memWf | with_reducible apply Core.acc_wf | with_reducible apply Core.banks_wf | with_reducible apply Core.foldlFst_memWf | with_reducible apply Core.foldl_memWf | with_reducible apply Core.istore_wf | with_reducible apply Core.iteFst_memWf | with_reducible apply Core.ite_memWf | with_reducible apply Core.rf_wf | with_reducible apply Core.store_wf | with_reducible apply Res.ite_memWf | with_reducible apply State.cap_wf | with_reducible apply State.cores_wf | with_reducible apply State.foldlFst_memWf | with_reducible apply State.foldl_memWf | with_reducible apply State.hbm_wf | with_reducible apply State.iteFst_memWf | with_reducible apply State.ite_memWf | with_reducible apply State.putSector_memWf | with_reducible apply State.rawPut_memWf | with_reducible apply Xl.fail_memWf | with_reducible apply Xl.ite_memWf | with_reducible apply Xl.ok_memWf | with_reducible apply Xl.wait_memWf | (refine State.fst_of_eq ?_ (by with_reducible assumption)) | (refine Core.fst_of_eq ?_ (by with_reducible assumption)) | split | (with_reducible refine State.mk_memWf ?_ ?_ ?_) | (with_reducible refine Core.mk_memWf ?_ ?_ ?_ ?_ ?_)

@[simp ↓] theorem Core.l1Acquire_memWf (k : Core) (sc : Scope) (hk : k.memWf = true) :
    (Core.l1Acquire k sc).memWf = true := by
  unfold Core.l1Acquire
  (try dsimp only)
  repeat' first | with_reducible assumption | with_reducible rfl | (intro _) | with_reducible apply Core.acc_wf | with_reducible apply Core.banks_wf | with_reducible apply Core.istore_wf | with_reducible apply Core.rf_wf | with_reducible apply Core.store_wf | with_reducible apply State.cap_wf | with_reducible apply State.core_memWf | with_reducible apply State.cores_wf | with_reducible apply State.hbm_wf | with_reducible apply Xl.fail_memWf | with_reducible apply Xl.ite_memWf | with_reducible apply Xl.ok_memWf | with_reducible apply Xl.wait_memWf | (refine State.fst_of_eq ?_ (by with_reducible assumption)) | (refine Core.fst_of_eq ?_ (by with_reducible assumption)) | split | (with_reducible refine State.mk_memWf ?_ ?_ ?_) | (with_reducible refine Core.mk_memWf ?_ ?_ ?_ ?_ ?_)

@[simp ↓] theorem Core.reclaim_memWf (k : Core) (g : Nat) (hk : k.memWf = true) :
    (Core.reclaim k g).memWf = true := by
  unfold Core.reclaim
  simp +contextual (maxDischargeDepth := 60) only [↓Core.acc_wf, ↓Core.banks_wf, ↓Core.istore_wf, ↓Core.iteFst_memWf, ↓Core.ite_memWf, ↓Core.mk_memWf, ↓Core.rf_wf, ↓Core.store_wf, ↓Mem.wf_clear, ↓Mem.wf_filter, ↓Mem.wf_set, ↓Mem.wf_write, ↓Res.ite_memWf, ↓State.cap_wf, ↓State.cores_wf, ↓State.hbm_wf, ↓State.iteFst_memWf, ↓State.ite_memWf, ↓State.mk_memWf, ↓Xl.fail_memWf, ↓Xl.ite_memWf, ↓Xl.ok_memWf, ↓Xl.wait_memWf, hk, implies_true]

@[simp ↓] theorem Core.reclaimRange_memWf (k : Core) (lo hi : Nat) (hk : k.memWf = true) :
    (Core.reclaimRange k lo hi).1.memWf = true := by
  unfold Core.reclaimRange
  simp +contextual (maxDischargeDepth := 60) only [↓Core.foldlFst_memWf, ↓Core.foldl_memWf, ↓Core.reclaim_memWf, ↓Mem.wf_clear, ↓Mem.wf_filter, ↓Mem.wf_set, ↓Mem.wf_write, ↓State.foldlFst_memWf, ↓State.foldl_memWf, ↓Xl.fail_memWf, ↓Xl.ite_memWf, ↓Xl.ok_memWf, ↓Xl.wait_memWf, hk, implies_true]

@[simp ↓] theorem Core.relend_memWf (k : Core) (before : List Nat) (hk : k.memWf = true) :
    (Core.relend k before).memWf = true := by
  unfold Core.relend
  simp +contextual (maxDischargeDepth := 60) only [↓Core.acc_wf, ↓Core.banks_wf, ↓Core.istore_wf, ↓Core.iteFst_memWf, ↓Core.ite_memWf, ↓Core.mk_memWf, ↓Core.rf_wf, ↓Core.store_wf, ↓Mem.wf_clear, ↓Mem.wf_filter, ↓Mem.wf_set, ↓Mem.wf_write, ↓Res.ite_memWf, ↓State.cap_wf, ↓State.cores_wf, ↓State.hbm_wf, ↓State.iteFst_memWf, ↓State.ite_memWf, ↓State.mk_memWf, ↓Xl.fail_memWf, ↓Xl.ite_memWf, ↓Xl.ok_memWf, ↓Xl.wait_memWf, hk, implies_true]

@[simp ↓] theorem Core.reclaimed_memWf (k : Core) (hk : k.memWf = true) :
    (Core.reclaimed k).memWf = true := by
  unfold Core.reclaimed
  (try dsimp only)
  repeat' first | with_reducible assumption | with_reducible rfl | (intro _) | with_reducible apply Core.acc_wf | with_reducible apply Core.banks_wf | with_reducible apply Core.istore_wf | with_reducible apply Core.iteFst_memWf | with_reducible apply Core.ite_memWf | with_reducible apply Core.relend_memWf | with_reducible apply Core.rf_wf | with_reducible apply Core.store_wf | with_reducible apply Res.ite_memWf | with_reducible apply State.cap_wf | with_reducible apply State.cores_wf | with_reducible apply State.hbm_wf | with_reducible apply State.iteFst_memWf | with_reducible apply State.ite_memWf | with_reducible apply Xl.fail_memWf | with_reducible apply Xl.ite_memWf | with_reducible apply Xl.ok_memWf | with_reducible apply Xl.wait_memWf | (refine State.fst_of_eq ?_ (by with_reducible assumption)) | (refine Core.fst_of_eq ?_ (by with_reducible assumption)) | split | (with_reducible refine State.mk_memWf ?_ ?_ ?_) | (with_reducible refine Core.mk_memWf ?_ ?_ ?_ ?_ ?_)

theorem Core.l1Victim_memWf (k : Core) (set : Nat) (hk : k.memWf = true) : (Core.l1Victim k set).2.memWf = true := by
  unfold Core.l1Victim
  dsimp only
  repeat' split
  all_goals first | exact hk | simp only [↓Core.mk_memWf, ↓Core.rf_wf, ↓Core.banks_wf, ↓Core.store_wf, ↓Core.istore_wf, ↓Core.acc_wf, hk]

@[simp ↓] theorem Core.l1Store_memWf (k : Core) (s : State) (ctx link : Nat) (ap : Ap) (bs : List (Nat × Byte)) (hk : k.memWf = true) (hs : s.memWf = true) :
    (Core.l1Store k s ctx link ap bs).memWf = true := by
  unfold Core.l1Store
  (try dsimp only)
  repeat' first | with_reducible assumption | with_reducible rfl | (intro _) | with_reducible apply State.getD_memWf | with_reducible apply Core.acc_wf | with_reducible apply Core.banks_wf | with_reducible apply Core.foldlFst_memWf | with_reducible apply Core.foldl_memWf | with_reducible apply Core.istore_wf | with_reducible apply Core.rf_wf | with_reducible apply Core.store_wf | with_reducible apply Core.writeStore_memWf | with_reducible apply Mem.wf_clear | with_reducible apply Mem.wf_filter | with_reducible apply Mem.wf_set | with_reducible apply Mem.wf_write | with_reducible apply State.cap_wf | with_reducible apply State.cores_wf | with_reducible apply State.foldlFst_memWf | with_reducible apply State.foldl_memWf | with_reducible apply State.hbm_wf | with_reducible apply Xl.fail_memWf | with_reducible apply Xl.ite_memWf | with_reducible apply Xl.ok_memWf | with_reducible apply Xl.wait_memWf | (refine State.fst_of_eq ?_ (by with_reducible assumption)) | (refine Core.fst_of_eq ?_ (by with_reducible assumption)) | split | (with_reducible refine State.mk_memWf ?_ ?_ ?_) | (with_reducible refine Core.mk_memWf ?_ ?_ ?_ ?_ ?_)

@[simp ↓] theorem Core.passFills_memWf (k : Core) (ap : Ap) (off : Nat) (hk : k.memWf = true) :
    (Core.passFills k ap off).memWf = true := by
  unfold Core.passFills
  simp +contextual (maxDischargeDepth := 60) only [↓Core.acc_wf, ↓Core.banks_wf, ↓Core.istore_wf, ↓Core.iteFst_memWf, ↓Core.ite_memWf, ↓Core.mk_memWf, ↓Core.rf_wf, ↓Core.store_wf, ↓Res.ite_memWf, ↓State.cap_wf, ↓State.cores_wf, ↓State.hbm_wf, ↓State.iteFst_memWf, ↓State.ite_memWf, ↓State.mk_memWf, ↓Xl.fail_memWf, ↓Xl.ite_memWf, ↓Xl.ok_memWf, ↓Xl.wait_memWf, hk, implies_true]

@[simp ↓] theorem Core.modOp_memWf (k : Core) (op : Nat) (f : MemOp → MemOp) (hk : k.memWf = true) :
    (Core.modOp k op f).memWf = true := by
  unfold Core.modOp
  simp +contextual (maxDischargeDepth := 60) only [↓Core.acc_wf, ↓Core.banks_wf, ↓Core.istore_wf, ↓Core.mk_memWf, ↓Core.rf_wf, ↓Core.store_wf, ↓State.cap_wf, ↓State.cores_wf, ↓State.hbm_wf, ↓State.mk_memWf, ↓Xl.fail_memWf, ↓Xl.ite_memWf, ↓Xl.ok_memWf, ↓Xl.wait_memWf, hk, implies_true]

@[simp ↓] theorem Core.observe_memWf (k : Core) (o : MemOp) (va : Nat) (fwd : List (Nat × Byte)) (who : Word) (hk : k.memWf = true) :
    (Core.observe k o va fwd who).memWf = true := by
  unfold Core.observe
  simp +contextual (maxDischargeDepth := 60) only [↓Core.acc_wf, ↓Core.banks_wf, ↓Core.istore_wf, ↓Core.iteFst_memWf, ↓Core.ite_memWf, ↓Core.mk_memWf, ↓Core.rf_wf, ↓Core.store_wf, ↓Res.ite_memWf, ↓State.cap_wf, ↓State.cores_wf, ↓State.hbm_wf, ↓State.iteFst_memWf, ↓State.ite_memWf, ↓State.mk_memWf, ↓Xl.fail_memWf, ↓Xl.ite_memWf, ↓Xl.ok_memWf, ↓Xl.wait_memWf, hk, implies_true]

@[simp ↓] theorem State.syncSfq_memWf (s : State) (c : Nat) (hs : s.memWf = true) :
    (State.syncSfq s c).memWf = true := by
  unfold State.syncSfq
  simp +contextual (maxDischargeDepth := 60) only [↓Core.acc_wf, ↓Core.banks_wf, ↓Core.istore_wf, ↓Core.mk_memWf, ↓Core.rf_wf, ↓Core.store_wf, ↓Core.wake_memWf, ↓Core.writeStore_memWf, ↓Mem.wf_clear, ↓Mem.wf_filter, ↓Mem.wf_set, ↓Mem.wf_write, ↓State.cap_wf, ↓State.cores_wf, ↓State.hbm_wf, ↓State.mk_memWf, ↓State.modCore_memWf, ↓Xl.fail_memWf, ↓Xl.ite_memWf, ↓Xl.ok_memWf, ↓Xl.wait_memWf, hs, implies_true]

@[simp ↓] theorem State.enterRecord_memWf (s : State) (c key page : Nat) (e : SbEntry) (t : Trap) (r : List Byte) (hs : s.memWf = true) :
    (State.enterRecord s c key page e t r).memWf = true := by
  unfold State.enterRecord
  simp +contextual (maxDischargeDepth := 60) only [↓Core.acc_wf, ↓Core.banks_wf, ↓Core.istore_wf, ↓Core.iteFst_memWf, ↓Core.ite_memWf, ↓Core.mk_memWf, ↓Core.rf_wf, ↓Core.store_wf, ↓Mem.wf_clear, ↓Mem.wf_filter, ↓Mem.wf_set, ↓Mem.wf_write, ↓Res.ite_memWf, ↓State.cap_wf, ↓State.cores_wf, ↓State.hbm_wf, ↓State.iteFst_memWf, ↓State.ite_memWf, ↓State.mk_memWf, ↓State.modCore_memWf, ↓State.pendTrap_memWf, ↓State.syncSfq_memWf, ↓Xl.fail_memWf, ↓Xl.ite_memWf, ↓Xl.ok_memWf, ↓Xl.wait_memWf, hs, implies_true]

@[simp ↓] theorem State.storeFault_memWf (s : State) (c key page : Nat) (cause cls sub code : Nat) (hs : s.memWf = true) :
    (State.storeFault s c key page cause cls sub code).memWf = true := by
  unfold State.storeFault
  (try dsimp only)
  repeat' first | with_reducible assumption | with_reducible rfl | (intro _) | with_reducible apply State.getD_memWf | with_reducible apply Core.acc_wf | with_reducible apply Core.banks_wf | with_reducible apply Core.foldlFst_memWf | with_reducible apply Core.foldl_memWf | with_reducible apply Core.istore_wf | with_reducible apply Core.iteFst_memWf | with_reducible apply Core.ite_memWf | with_reducible apply Core.rf_wf | with_reducible apply Core.store_wf | with_reducible apply Mem.wf_clear | with_reducible apply Mem.wf_filter | with_reducible apply Mem.wf_set | with_reducible apply Mem.wf_write | with_reducible apply Res.ite_memWf | with_reducible apply State.cap_wf | with_reducible apply State.core_memWf | with_reducible apply State.cores_wf | with_reducible apply State.enterRecord_memWf | with_reducible apply State.foldlFst_memWf | with_reducible apply State.foldl_memWf | with_reducible apply State.hbm_wf | with_reducible apply State.iteFst_memWf | with_reducible apply State.ite_memWf | with_reducible apply State.modCore_memWf | with_reducible apply Xl.fail_memWf | with_reducible apply Xl.ite_memWf | with_reducible apply Xl.ok_memWf | with_reducible apply Xl.wait_memWf | (refine State.fst_of_eq ?_ (by with_reducible assumption)) | (refine Core.fst_of_eq ?_ (by with_reducible assumption)) | split | (with_reducible refine State.mk_memWf ?_ ?_ ?_) | (with_reducible refine Core.mk_memWf ?_ ?_ ?_ ?_ ?_)

@[simp ↓] theorem State.retireEntry_memWf (s : State) (c key : Nat) (hs : s.memWf = true) :
    (State.retireEntry s c key).memWf = true := by
  unfold State.retireEntry
  (try dsimp only)
  repeat' first | with_reducible assumption | with_reducible rfl | (intro _) | with_reducible apply Core.acc_wf | with_reducible apply Core.banks_wf | with_reducible apply Core.foldlFst_memWf | with_reducible apply Core.foldl_memWf | with_reducible apply Core.istore_wf | with_reducible apply Core.iteFst_memWf | with_reducible apply Core.ite_memWf | with_reducible apply Core.rf_wf | with_reducible apply Core.store_wf | with_reducible apply Core.wake_memWf | with_reducible apply Res.ite_memWf | with_reducible apply State.cap_wf | with_reducible apply State.core_memWf | with_reducible apply State.cores_wf | with_reducible apply State.foldlFst_memWf | with_reducible apply State.foldl_memWf | with_reducible apply State.hbm_wf | with_reducible apply State.iteFst_memWf | with_reducible apply State.ite_memWf | with_reducible apply State.modCore_memWf | with_reducible apply State.postOnce_memWf | with_reducible apply State.ringReleases_memWf | with_reducible apply State.wakeFences_memWf | with_reducible apply Xl.fail_memWf | with_reducible apply Xl.ite_memWf | with_reducible apply Xl.ok_memWf | with_reducible apply Xl.wait_memWf | (refine State.fst_of_eq ?_ (by with_reducible assumption)) | (refine Core.fst_of_eq ?_ (by with_reducible assumption)) | split | (with_reducible refine State.mk_memWf ?_ ?_ ?_) | (with_reducible refine Core.mk_memWf ?_ ?_ ?_ ?_ ?_)

@[simp ↓] theorem State.acceptStore_memWf (s : State) (c key : Nat) (ap : Ap) (bs : List SByte) (hs : s.memWf = true) :
    (State.acceptStore s c key ap bs).memWf = true := by
  unfold State.acceptStore
  (try dsimp only)
  repeat' first | with_reducible assumption | with_reducible rfl | (intro _) | with_reducible apply Core.acc_wf | with_reducible apply Core.banks_wf | with_reducible apply Core.istore_wf | with_reducible apply Core.passFills_memWf | with_reducible apply Core.rf_wf | with_reducible apply Core.store_wf | with_reducible apply Mem.wf_clear | with_reducible apply Mem.wf_filter | with_reducible apply Mem.wf_set | with_reducible apply Mem.wf_write | with_reducible apply State.cap_wf | with_reducible apply State.cores_wf | with_reducible apply State.hbm_wf | with_reducible apply State.modCore_memWf | with_reducible apply State.retireEntry_memWf | with_reducible apply Xl.fail_memWf | with_reducible apply Xl.ite_memWf | with_reducible apply Xl.ok_memWf | with_reducible apply Xl.wait_memWf | (refine State.fst_of_eq ?_ (by with_reducible assumption)) | (refine Core.fst_of_eq ?_ (by with_reducible assumption)) | split | (with_reducible refine State.mk_memWf ?_ ?_ ?_) | (with_reducible refine Core.mk_memWf ?_ ?_ ?_ ?_ ?_)

@[simp ↓] theorem State.dropTicket_memWf (s : State) (c : Nat) (o : MemOp) (lane : Nat) (hs : s.memWf = true) :
    (State.dropTicket s c o lane).memWf = true := by
  unfold State.dropTicket
  (try dsimp only)
  repeat' first | with_reducible assumption | with_reducible rfl | (intro _) | with_reducible apply Core.acc_wf | with_reducible apply Core.banks_wf | with_reducible apply Core.istore_wf | with_reducible apply Core.rf_wf | with_reducible apply Core.store_wf | with_reducible apply State.cap_wf | with_reducible apply State.core_memWf | with_reducible apply State.cores_wf | with_reducible apply State.hbm_wf | with_reducible apply State.retireEntry_memWf | with_reducible apply Xl.fail_memWf | with_reducible apply Xl.ite_memWf | with_reducible apply Xl.ok_memWf | with_reducible apply Xl.wait_memWf | (refine State.fst_of_eq ?_ (by with_reducible assumption)) | (refine Core.fst_of_eq ?_ (by with_reducible assumption)) | split | (with_reducible refine State.mk_memWf ?_ ?_ ?_) | (with_reducible refine Core.mk_memWf ?_ ?_ ?_ ?_ ?_)

@[simp ↓] theorem State.laneTaken_memWf (s : State) (c op lane : Nat) (hs : s.memWf = true) :
    (State.laneTaken s c op lane).memWf = true := by
  unfold State.laneTaken
  (try dsimp only)
  repeat' first | with_reducible assumption | with_reducible rfl | (intro _) | with_reducible apply Core.acc_wf | with_reducible apply Core.banks_wf | with_reducible apply Core.foldlFst_memWf | with_reducible apply Core.foldl_memWf | with_reducible apply Core.istore_wf | with_reducible apply Core.iteFst_memWf | with_reducible apply Core.ite_memWf | with_reducible apply Core.rf_wf | with_reducible apply Core.store_wf | with_reducible apply Res.ite_memWf | with_reducible apply State.cap_wf | with_reducible apply State.core_memWf | with_reducible apply State.cores_wf | with_reducible apply State.foldlFst_memWf | with_reducible apply State.foldl_memWf | with_reducible apply State.hbm_wf | with_reducible apply State.iteFst_memWf | with_reducible apply State.ite_memWf | with_reducible apply State.postOnce_memWf | with_reducible apply Xl.fail_memWf | with_reducible apply Xl.ite_memWf | with_reducible apply Xl.ok_memWf | with_reducible apply Xl.wait_memWf | (refine State.fst_of_eq ?_ (by with_reducible assumption)) | (refine Core.fst_of_eq ?_ (by with_reducible assumption)) | split | (with_reducible refine State.mk_memWf ?_ ?_ ?_) | (with_reducible refine Core.mk_memWf ?_ ?_ ?_ ?_ ?_)

@[simp ↓] theorem State.failLane_memWf (s : State) (c op lane : Nat) (t : Trap) (hs : s.memWf = true) :
    (State.failLane s c op lane t).memWf = true := by
  unfold State.failLane
  (try dsimp only)
  repeat' first | with_reducible assumption | with_reducible rfl | (intro _) | with_reducible apply Core.acc_wf | with_reducible apply Core.banks_wf | with_reducible apply Core.istore_wf | with_reducible apply Core.iteFst_memWf | with_reducible apply Core.ite_memWf | with_reducible apply Core.modOp_memWf | with_reducible apply Core.rf_wf | with_reducible apply Core.store_wf | with_reducible apply Res.done_memWf | with_reducible apply Res.ite_memWf | with_reducible apply Res.moved_memWf | with_reducible apply Res.trap_memWf | with_reducible apply Res.wait_memWf | with_reducible apply State.cap_wf | with_reducible apply State.core_memWf | with_reducible apply State.cores_wf | with_reducible apply State.dropTicket_memWf | with_reducible apply State.hbm_wf | with_reducible apply State.iteFst_memWf | with_reducible apply State.ite_memWf | with_reducible apply State.laneTaken_memWf | with_reducible apply State.modCore_memWf | with_reducible apply State.pendTrap_memWf | with_reducible apply Xl.fail_memWf | with_reducible apply Xl.ite_memWf | with_reducible apply Xl.ok_memWf | with_reducible apply Xl.wait_memWf | with_reducible apply misaligned_memWf | with_reducible apply prot_memWf | (refine State.fst_of_eq ?_ (by with_reducible assumption)) | (refine Core.fst_of_eq ?_ (by with_reducible assumption)) | split | (with_reducible refine State.mk_memWf ?_ ?_ ?_) | (with_reducible refine Core.mk_memWf ?_ ?_ ?_ ?_ ?_)

@[simp ↓] theorem State.giveLane_memWf (s : State) (c op lane : Nat) (data : List Byte) (bad : Bool) (hs : s.memWf = true) :
    (State.giveLane s c op lane data bad).memWf = true := by
  unfold State.giveLane
  (try dsimp only)
  repeat' first | with_reducible assumption | with_reducible rfl | (intro _) | with_reducible apply Core.acc_wf | with_reducible apply Core.banks_wf | with_reducible apply Core.istore_wf | with_reducible apply Core.iteFst_memWf | with_reducible apply Core.ite_memWf | with_reducible apply Core.modOp_memWf | with_reducible apply Core.rf_wf | with_reducible apply Core.store_wf | with_reducible apply Res.ite_memWf | with_reducible apply State.cap_wf | with_reducible apply State.core_memWf | with_reducible apply State.cores_wf | with_reducible apply State.failLane_memWf | with_reducible apply State.hbm_wf | with_reducible apply State.iteFst_memWf | with_reducible apply State.ite_memWf | with_reducible apply State.laneTaken_memWf | with_reducible apply State.modCore_memWf | with_reducible apply Xl.fail_memWf | with_reducible apply Xl.ite_memWf | with_reducible apply Xl.ok_memWf | with_reducible apply Xl.wait_memWf | (refine State.fst_of_eq ?_ (by with_reducible assumption)) | (refine Core.fst_of_eq ?_ (by with_reducible assumption)) | split | (with_reducible refine State.mk_memWf ?_ ?_ ?_) | (with_reducible refine Core.mk_memWf ?_ ?_ ?_ ?_ ?_)

@[simp ↓] theorem State.unlockOp_memWf (s : State) (c : Nat) (t : Trap) (hs : s.memWf = true) :
    (State.unlockOp s c t).memWf = true := by
  unfold State.unlockOp
  (try dsimp only)
  repeat' first | with_reducible assumption | with_reducible rfl | (intro _) | with_reducible apply Core.acc_wf | with_reducible apply Core.banks_wf | with_reducible apply Core.istore_wf | with_reducible apply Core.modOp_memWf | with_reducible apply Core.rf_wf | with_reducible apply Core.store_wf | with_reducible apply State.cap_wf | with_reducible apply State.core_memWf | with_reducible apply State.cores_wf | with_reducible apply State.hbm_wf | with_reducible apply State.modCore_memWf | with_reducible apply State.modGroup_memWf | with_reducible apply Xl.fail_memWf | with_reducible apply Xl.ite_memWf | with_reducible apply Xl.ok_memWf | with_reducible apply Xl.wait_memWf | (refine State.fst_of_eq ?_ (by with_reducible assumption)) | (refine Core.fst_of_eq ?_ (by with_reducible assumption)) | split | (with_reducible refine State.mk_memWf ?_ ?_ ?_) | (with_reducible refine Core.mk_memWf ?_ ?_ ?_ ?_ ?_)

@[simp ↓] theorem State.finishOp_memWf (s : State) (c op : Nat) (hs : s.memWf = true) :
    (State.finishOp s c op).memWf = true := by
  unfold State.finishOp
  (try dsimp only)
  repeat' first | with_reducible assumption | with_reducible rfl | (intro _) | with_reducible apply Core.acc_wf | with_reducible apply Core.banks_wf | with_reducible apply Core.foldlFst_memWf | with_reducible apply Core.foldl_memWf | with_reducible apply Core.istore_wf | with_reducible apply Core.iteFst_memWf | with_reducible apply Core.ite_memWf | with_reducible apply Core.l1Acquire_memWf | with_reducible apply Core.rf_wf | with_reducible apply Core.setS_memWf | with_reducible apply Core.setV_memWf | with_reducible apply Core.store_wf | with_reducible apply Core.wake_memWf | with_reducible apply Res.done_memWf | with_reducible apply Res.ite_memWf | with_reducible apply Res.moved_memWf | with_reducible apply Res.trap_memWf | with_reducible apply Res.wait_memWf | with_reducible apply State.cap_wf | with_reducible apply State.core_memWf | with_reducible apply State.cores_wf | with_reducible apply State.foldlFst_memWf | with_reducible apply State.foldl_memWf | with_reducible apply State.hbm_wf | with_reducible apply State.iteFst_memWf | with_reducible apply State.ite_memWf | with_reducible apply State.modCore_memWf | with_reducible apply State.modGroup_memWf | with_reducible apply State.postOnce_memWf | with_reducible apply State.ringReleases_memWf | with_reducible apply Xl.fail_memWf | with_reducible apply Xl.ite_memWf | with_reducible apply Xl.ok_memWf | with_reducible apply Xl.wait_memWf | with_reducible apply misaligned_memWf | with_reducible apply prot_memWf | (refine State.fst_of_eq ?_ (by with_reducible assumption)) | (refine Core.fst_of_eq ?_ (by with_reducible assumption)) | split | (with_reducible refine State.mk_memWf ?_ ?_ ?_) | (with_reducible refine Core.mk_memWf ?_ ?_ ?_ ?_ ?_)

@[simp ↓] theorem State.request_memWf (s : State) (r : Req) (hs : s.memWf = true) :
    (State.request s r).memWf = true := by
  unfold State.request
  (try dsimp only)
  repeat' first | with_reducible assumption | with_reducible rfl | (intro _) | with_reducible apply Core.acc_wf | with_reducible apply Core.banks_wf | with_reducible apply Core.istore_wf | with_reducible apply Core.rf_wf | with_reducible apply Core.store_wf | with_reducible apply State.cap_wf | with_reducible apply State.cores_wf | with_reducible apply State.hbm_wf | with_reducible apply State.modCore_memWf | with_reducible apply State.post_memWf | with_reducible apply State.setSlice_memWf | with_reducible apply Xl.fail_memWf | with_reducible apply Xl.ite_memWf | with_reducible apply Xl.ok_memWf | with_reducible apply Xl.wait_memWf | (refine State.fst_of_eq ?_ (by with_reducible assumption)) | (refine Core.fst_of_eq ?_ (by with_reducible assumption)) | split | (with_reducible refine State.mk_memWf ?_ ?_ ?_) | (with_reducible refine Core.mk_memWf ?_ ?_ ?_ ?_ ?_)

@[simp ↓] theorem State.rmwAt_memWf (s : State) (cl : Client) (old : List Byte) (bad : Bool) (hs : s.memWf = true) :
    (State.rmwAt s cl old bad).1.memWf = true := by
  unfold State.rmwAt
  (try dsimp only)
  repeat' first | with_reducible assumption | with_reducible rfl | (intro _) | with_reducible apply State.getD_memWf | with_reducible apply Core.acc_wf | with_reducible apply Core.banks_wf | with_reducible apply Core.foldlFst_memWf | with_reducible apply Core.foldl_memWf | with_reducible apply Core.istore_wf | with_reducible apply Core.iteFst_memWf | with_reducible apply Core.ite_memWf | with_reducible apply Core.rf_wf | with_reducible apply Core.store_wf | with_reducible apply Mem.wf_clear | with_reducible apply Mem.wf_filter | with_reducible apply Mem.wf_set | with_reducible apply Mem.wf_write | with_reducible apply Res.done_memWf | with_reducible apply Res.ite_memWf | with_reducible apply Res.moved_memWf | with_reducible apply Res.trap_memWf | with_reducible apply Res.wait_memWf | with_reducible apply State.cap_wf | with_reducible apply State.core_memWf | with_reducible apply State.cores_wf | with_reducible apply State.dropTicket_memWf | with_reducible apply State.failLane_memWf | with_reducible apply State.foldlFst_memWf | with_reducible apply State.foldl_memWf | with_reducible apply State.giveLane_memWf | with_reducible apply State.hbm_wf | with_reducible apply State.iteFst_memWf | with_reducible apply State.ite_memWf | with_reducible apply State.modCore_memWf | with_reducible apply State.post_memWf | with_reducible apply Xl.fail_memWf | with_reducible apply Xl.ite_memWf | with_reducible apply Xl.ok_memWf | with_reducible apply Xl.wait_memWf | with_reducible apply misaligned_memWf | with_reducible apply prot_memWf | (refine State.fst_of_eq ?_ (by with_reducible assumption)) | (refine Core.fst_of_eq ?_ (by with_reducible assumption)) | split | (with_reducible refine State.mk_memWf ?_ ?_ ?_) | (with_reducible refine Core.mk_memWf ?_ ?_ ?_ ?_ ?_)

@[simp ↓] theorem State.dropAtom_memWf (s : State) (c op lane : Nat) (hs : s.memWf = true) :
    (State.dropAtom s c op lane).memWf = true := by
  unfold State.dropAtom
  simp +contextual (maxDischargeDepth := 60) only [↓Core.acc_wf, ↓Core.banks_wf, ↓Core.istore_wf, ↓Core.mk_memWf, ↓Core.rf_wf, ↓Core.store_wf, ↓Mem.wf_clear, ↓Mem.wf_filter, ↓Mem.wf_set, ↓Mem.wf_write, ↓State.cap_wf, ↓State.cores_wf, ↓State.hbm_wf, ↓State.mk_memWf, ↓State.modCore_memWf, ↓Xl.fail_memWf, ↓Xl.ite_memWf, ↓Xl.ok_memWf, ↓Xl.wait_memWf, hs, implies_true]

@[simp ↓] theorem State.unitRead_memWf (s : State) (c op lane : Nat) (old : List Byte) (bad : Bool) (hs : s.memWf = true) :
    (State.unitRead s c op lane old bad).memWf = true := by
  unfold State.unitRead
  (try dsimp only)
  repeat' first | with_reducible assumption | with_reducible rfl | (intro _) | with_reducible apply Core.acc_wf | with_reducible apply Core.banks_wf | with_reducible apply Core.istore_wf | with_reducible apply Core.iteFst_memWf | with_reducible apply Core.ite_memWf | with_reducible apply Core.l1Store_memWf | with_reducible apply Core.rf_wf | with_reducible apply Core.store_wf | with_reducible apply Mem.wf_clear | with_reducible apply Mem.wf_filter | with_reducible apply Mem.wf_set | with_reducible apply Mem.wf_write | with_reducible apply Res.ite_memWf | with_reducible apply State.cap_wf | with_reducible apply State.core_memWf | with_reducible apply State.cores_wf | with_reducible apply State.dropAtom_memWf | with_reducible apply State.hbm_wf | with_reducible apply State.iteFst_memWf | with_reducible apply State.ite_memWf | with_reducible apply State.modCore_memWf | with_reducible apply State.request_memWf | with_reducible apply State.rmwAt_memWf | with_reducible apply Xl.fail_memWf | with_reducible apply Xl.ite_memWf | with_reducible apply Xl.ok_memWf | with_reducible apply Xl.wait_memWf | (refine State.fst_of_eq ?_ (by with_reducible assumption)) | (refine Core.fst_of_eq ?_ (by with_reducible assumption)) | split | (with_reducible refine State.mk_memWf ?_ ?_ ?_) | (with_reducible refine Core.mk_memWf ?_ ?_ ?_ ?_ ?_)

@[simp ↓] theorem State.unitWritten_memWf (s : State) (c op lane : Nat) (lost : Bool) (hs : s.memWf = true) :
    (State.unitWritten s c op lane lost).memWf = true := by
  unfold State.unitWritten
  (try dsimp only)
  repeat' first | with_reducible assumption | with_reducible rfl | (intro _) | with_reducible apply State.getD_memWf | with_reducible apply Core.acc_wf | with_reducible apply Core.banks_wf | with_reducible apply Core.istore_wf | with_reducible apply Core.iteFst_memWf | with_reducible apply Core.ite_memWf | with_reducible apply Core.passFills_memWf | with_reducible apply Core.rf_wf | with_reducible apply Core.store_wf | with_reducible apply Res.ite_memWf | with_reducible apply State.cap_wf | with_reducible apply State.core_memWf | with_reducible apply State.cores_wf | with_reducible apply State.dropAtom_memWf | with_reducible apply State.hbm_wf | with_reducible apply State.iteFst_memWf | with_reducible apply State.ite_memWf | with_reducible apply State.modCore_memWf | with_reducible apply State.rmwAt_memWf | with_reducible apply Xl.fail_memWf | with_reducible apply Xl.ite_memWf | with_reducible apply Xl.ok_memWf | with_reducible apply Xl.wait_memWf | (refine State.fst_of_eq ?_ (by with_reducible assumption)) | (refine Core.fst_of_eq ?_ (by with_reducible assumption)) | split | (with_reducible refine State.mk_memWf ?_ ?_ ?_) | (with_reducible refine Core.mk_memWf ?_ ?_ ?_ ?_ ?_)

@[simp ↓] theorem State.answer_memWf (s : State) (r : Req) (data : List Byte) (bad : List Bool) (hs : s.memWf = true) :
    (State.answer s r data bad).memWf = true := by
  unfold State.answer
  (try dsimp only)
  repeat' first | with_reducible assumption | with_reducible rfl | (intro _) | with_reducible apply Core.acc_wf | with_reducible apply Core.banks_wf | with_reducible apply Core.istore_wf | with_reducible apply Core.rf_wf | with_reducible apply Core.store_wf | with_reducible apply State.cap_wf | with_reducible apply State.cores_wf | with_reducible apply State.giveLane_memWf | with_reducible apply State.hbm_wf | with_reducible apply State.modCore_memWf | with_reducible apply State.post_memWf | with_reducible apply State.unitRead_memWf | with_reducible apply Xl.fail_memWf | with_reducible apply Xl.ite_memWf | with_reducible apply Xl.ok_memWf | with_reducible apply Xl.wait_memWf | (refine State.fst_of_eq ?_ (by with_reducible assumption)) | (refine Core.fst_of_eq ?_ (by with_reducible assumption)) | split | (with_reducible refine State.mk_memWf ?_ ?_ ?_) | (with_reducible refine Core.mk_memWf ?_ ?_ ?_ ?_ ?_)

@[simp ↓] theorem State.notifyBlock_memWf (s : State) (ap : Ap) (off len : Nat) (hs : s.memWf = true) :
    (State.notifyBlock s ap off len).memWf = true := by
  unfold State.notifyBlock
  simp +contextual (maxDischargeDepth := 60) only [↓Core.foldlFst_memWf, ↓Core.foldl_memWf, ↓Core.iteFst_memWf, ↓Core.ite_memWf, ↓Res.ite_memWf, ↓State.foldlFst_memWf, ↓State.foldl_memWf, ↓State.iteFst_memWf, ↓State.ite_memWf, ↓State.postOnce_memWf, ↓Xl.fail_memWf, ↓Xl.ite_memWf, ↓Xl.ok_memWf, ↓Xl.wait_memWf, hs, implies_true]

@[simp ↓] theorem State.serve_memWf (s : State) (r : Req) (hs : s.memWf = true) :
    (State.serve s r).memWf = true := by
  unfold State.serve
  (try dsimp only)
  repeat' first | with_reducible assumption | with_reducible rfl | (intro _) | with_reducible apply State.getD_memWf | with_reducible apply Core.acc_wf | with_reducible apply Core.banks_wf | with_reducible apply Core.foldlFst_memWf | with_reducible apply Core.foldl_memWf | with_reducible apply Core.istore_wf | with_reducible apply Core.iteFst_memWf | with_reducible apply Core.ite_memWf | with_reducible apply Core.l1Store_memWf | with_reducible apply Core.passFills_memWf | with_reducible apply Core.rf_wf | with_reducible apply Core.store_wf | with_reducible apply Mem.wf_clear | with_reducible apply Mem.wf_filter | with_reducible apply Mem.wf_set | with_reducible apply Mem.wf_write | with_reducible apply Res.ite_memWf | with_reducible apply State.acceptStore_memWf | with_reducible apply State.answer_memWf | with_reducible apply State.cap_wf | with_reducible apply State.core_memWf | with_reducible apply State.cores_wf | with_reducible apply State.foldlFst_memWf | with_reducible apply State.foldl_memWf | with_reducible apply State.hbm_wf | with_reducible apply State.iteFst_memWf | with_reducible apply State.ite_memWf | with_reducible apply State.mergeSector_memWf | with_reducible apply State.modCore_memWf | with_reducible apply State.notifyBlock_memWf | with_reducible apply State.rmwAt_memWf | with_reducible apply State.touchLine_memWf | with_reducible apply State.unitWritten_memWf | with_reducible apply Xl.fail_memWf | with_reducible apply Xl.ite_memWf | with_reducible apply Xl.ok_memWf | with_reducible apply Xl.wait_memWf | (refine State.fst_of_eq ?_ (by with_reducible assumption)) | (refine Core.fst_of_eq ?_ (by with_reducible assumption)) | split | (with_reducible refine State.mk_memWf ?_ ?_ ?_) | (with_reducible refine Core.mk_memWf ?_ ?_ ?_ ?_ ?_)

@[simp ↓] theorem State.meetBuffer_memWf (s : State) (r : Req) (hs : s.memWf = true) :
    (State.meetBuffer s r).memWf = true := by
  unfold State.meetBuffer
  (try dsimp only)
  repeat' first | with_reducible assumption | with_reducible rfl | (intro _) | with_reducible apply Core.acc_wf | with_reducible apply Core.banks_wf | with_reducible apply Core.istore_wf | with_reducible apply Core.iteFst_memWf | with_reducible apply Core.ite_memWf | with_reducible apply Core.rf_wf | with_reducible apply Core.store_wf | with_reducible apply Mem.wf_clear | with_reducible apply Mem.wf_filter | with_reducible apply Mem.wf_set | with_reducible apply Mem.wf_write | with_reducible apply Res.ite_memWf | with_reducible apply State.cap_wf | with_reducible apply State.cores_wf | with_reducible apply State.hbm_wf | with_reducible apply State.iteFst_memWf | with_reducible apply State.ite_memWf | with_reducible apply State.retireEntry_memWf | with_reducible apply State.serve_memWf | with_reducible apply State.storeFault_memWf | with_reducible apply State.unitWritten_memWf | with_reducible apply Xl.fail_memWf | with_reducible apply Xl.ite_memWf | with_reducible apply Xl.ok_memWf | with_reducible apply Xl.wait_memWf | (refine State.fst_of_eq ?_ (by with_reducible assumption)) | (refine Core.fst_of_eq ?_ (by with_reducible assumption)) | split | (with_reducible refine State.mk_memWf ?_ ?_ ?_) | (with_reducible refine Core.mk_memWf ?_ ?_ ?_ ?_ ?_)

@[simp ↓] theorem State.settleLine_memWf (s : State) (h : Home) (hs : s.memWf = true) :
    (State.settleLine s h).memWf = true := by
  unfold State.settleLine
  (try dsimp only)
  repeat' first | with_reducible assumption | with_reducible rfl | (intro _) | with_reducible apply Core.acc_wf | with_reducible apply Core.banks_wf | with_reducible apply Core.foldlFst_memWf | with_reducible apply Core.foldl_memWf | with_reducible apply Core.istore_wf | with_reducible apply Core.iteFst_memWf | with_reducible apply Core.ite_memWf | with_reducible apply Core.rf_wf | with_reducible apply Core.store_wf | with_reducible apply Mem.wf_clear | with_reducible apply Mem.wf_filter | with_reducible apply Mem.wf_set | with_reducible apply Mem.wf_write | with_reducible apply Res.ite_memWf | with_reducible apply State.cap_wf | with_reducible apply State.cores_wf | with_reducible apply State.fillSector_memWf | with_reducible apply State.foldlFst_memWf | with_reducible apply State.foldl_memWf | with_reducible apply State.hbm_wf | with_reducible apply State.iteFst_memWf | with_reducible apply State.ite_memWf | with_reducible apply State.meetBuffer_memWf | with_reducible apply State.serve_memWf | with_reducible apply State.setSlice_memWf | with_reducible apply Xl.fail_memWf | with_reducible apply Xl.ite_memWf | with_reducible apply Xl.ok_memWf | with_reducible apply Xl.wait_memWf | (refine State.fst_of_eq ?_ (by with_reducible assumption)) | (refine Core.fst_of_eq ?_ (by with_reducible assumption)) | split | (with_reducible refine State.mk_memWf ?_ ?_ ?_) | (with_reducible refine Core.mk_memWf ?_ ?_ ?_ ?_ ?_)

@[simp ↓] theorem State.homeRead_memWf (s : State) (ap : Ap) (off n : Nat) (hs : s.memWf = true) :
    (State.homeRead s ap off n).1.memWf = true := by
  unfold State.homeRead
  simp +contextual (maxDischargeDepth := 60) only [↓Core.foldlFst_memWf, ↓Core.foldl_memWf, ↓Core.iteFst_memWf, ↓Core.ite_memWf, ↓Res.ite_memWf, ↓State.fillSector_memWf, ↓State.foldlFst_memWf, ↓State.foldl_memWf, ↓State.iteFst_memWf, ↓State.ite_memWf, ↓State.settleLine_memWf, ↓State.touchLine_memWf, ↓Xl.fail_memWf, ↓Xl.ite_memWf, ↓Xl.ok_memWf, ↓Xl.wait_memWf, hs, implies_true]

@[simp ↓] theorem State.homeWrite_memWf (s : State) (ap : Ap) (off : Nat) (bs : List Byte) (bad : Bool) (hs : s.memWf = true) :
    (State.homeWrite s ap off bs bad).memWf = true := by
  unfold State.homeWrite
  simp +contextual (maxDischargeDepth := 60) only [↓Core.foldlFst_memWf, ↓Core.foldl_memWf, ↓Core.iteFst_memWf, ↓Core.ite_memWf, ↓Res.ite_memWf, ↓State.foldlFst_memWf, ↓State.foldl_memWf, ↓State.iteFst_memWf, ↓State.ite_memWf, ↓State.mergeSector_memWf, ↓State.notifyBlock_memWf, ↓State.settleLine_memWf, ↓Xl.fail_memWf, ↓Xl.ite_memWf, ↓Xl.ok_memWf, ↓Xl.wait_memWf, hs, implies_true]

@[simp ↓] theorem State.targetRead_memWf (s : State) (ap : Ap) (off n : Nat) (hs : s.memWf = true) :
    (State.targetRead s ap off n).1.memWf = true := by
  unfold State.targetRead
  (try dsimp only)
  repeat' first | with_reducible assumption | with_reducible rfl | (intro _) | with_reducible apply Core.acc_wf | with_reducible apply Core.banks_wf | with_reducible apply Core.istore_wf | with_reducible apply Core.rf_wf | with_reducible apply Core.store_wf | with_reducible apply State.cap_wf | with_reducible apply State.core_memWf | with_reducible apply State.cores_wf | with_reducible apply State.hbm_wf | with_reducible apply State.homeRead_memWf | with_reducible apply Xl.fail_memWf | with_reducible apply Xl.ite_memWf | with_reducible apply Xl.ok_memWf | with_reducible apply Xl.wait_memWf | (refine State.fst_of_eq ?_ (by with_reducible assumption)) | (refine Core.fst_of_eq ?_ (by with_reducible assumption)) | split | (with_reducible refine State.mk_memWf ?_ ?_ ?_) | (with_reducible refine Core.mk_memWf ?_ ?_ ?_ ?_ ?_)

@[simp ↓] theorem State.targetWrite_memWf (s : State) (ap : Ap) (off : Nat) (bs : List Byte) (hs : s.memWf = true) :
    (State.targetWrite s ap off bs).memWf = true := by
  unfold State.targetWrite
  (try dsimp only)
  repeat' first | with_reducible assumption | with_reducible rfl | (intro _) | with_reducible apply Core.acc_wf | with_reducible apply Core.banks_wf | with_reducible apply Core.istore_wf | with_reducible apply Core.rf_wf | with_reducible apply Core.store_wf | with_reducible apply Core.writeForeign_memWf | with_reducible apply State.cap_wf | with_reducible apply State.cores_wf | with_reducible apply State.hbm_wf | with_reducible apply State.homeWrite_memWf | with_reducible apply State.modCore_memWf | with_reducible apply Xl.fail_memWf | with_reducible apply Xl.ite_memWf | with_reducible apply Xl.ok_memWf | with_reducible apply Xl.wait_memWf | (refine State.fst_of_eq ?_ (by with_reducible assumption)) | (refine Core.fst_of_eq ?_ (by with_reducible assumption)) | split | (with_reducible refine State.mk_memWf ?_ ?_ ?_) | (with_reducible refine Core.mk_memWf ?_ ?_ ?_ ?_ ?_)

@[simp ↓] theorem execSliceRequest_memWf (d sl : Nat) (s : State) (hs : s.memWf = true) :
    outMemWf (execSliceRequest d sl s) = true := by
  unfold execSliceRequest
  (try dsimp only)
  repeat' first | with_reducible assumption | with_reducible rfl | (intro _) | with_reducible apply Core.acc_wf | with_reducible apply Core.banks_wf | with_reducible apply Core.istore_wf | with_reducible apply Core.iteFst_memWf | with_reducible apply Core.ite_memWf | with_reducible apply Core.rf_wf | with_reducible apply Core.store_wf | with_reducible apply Mem.wf_clear | with_reducible apply Mem.wf_filter | with_reducible apply Mem.wf_set | with_reducible apply Mem.wf_write | with_reducible apply Res.ite_memWf | with_reducible apply State.cap_wf | with_reducible apply State.cores_wf | with_reducible apply State.hbm_wf | with_reducible apply State.iteFst_memWf | with_reducible apply State.ite_memWf | with_reducible apply State.oneOf_memWf | with_reducible apply State.post_memWf | with_reducible apply State.serve_memWf | with_reducible apply State.setSlice_memWf | with_reducible apply Xl.fail_memWf | with_reducible apply Xl.ite_memWf | with_reducible apply Xl.ok_memWf | with_reducible apply Xl.wait_memWf | with_reducible apply outMemWf_fault | with_reducible apply outMemWf_ite | with_reducible apply outMemWf_next | (refine State.fst_of_eq ?_ (by with_reducible assumption)) | (refine Core.fst_of_eq ?_ (by with_reducible assumption)) | split | (with_reducible refine State.mk_memWf ?_ ?_ ?_) | (with_reducible refine Core.mk_memWf ?_ ?_ ?_ ?_ ?_)

@[simp ↓] theorem execSliceFill_memWf (d sl i : Nat) (s : State) (hs : s.memWf = true) :
    outMemWf (execSliceFill d sl i s) = true := by
  unfold execSliceFill
  (try dsimp only)
  repeat' first | with_reducible assumption | with_reducible rfl | (intro _) | with_reducible apply Core.acc_wf | with_reducible apply Core.banks_wf | with_reducible apply Core.istore_wf | with_reducible apply Core.iteFst_memWf | with_reducible apply Core.ite_memWf | with_reducible apply Core.rf_wf | with_reducible apply Core.store_wf | with_reducible apply Res.ite_memWf | with_reducible apply State.cap_wf | with_reducible apply State.cores_wf | with_reducible apply State.fillSector_memWf | with_reducible apply State.hbm_wf | with_reducible apply State.iteFst_memWf | with_reducible apply State.ite_memWf | with_reducible apply State.post_memWf | with_reducible apply State.serve_memWf | with_reducible apply State.setSlice_memWf | with_reducible apply Xl.fail_memWf | with_reducible apply Xl.ite_memWf | with_reducible apply Xl.ok_memWf | with_reducible apply Xl.wait_memWf | with_reducible apply outMemWf_fault | with_reducible apply outMemWf_ite | with_reducible apply outMemWf_next | (refine State.fst_of_eq ?_ (by with_reducible assumption)) | (refine Core.fst_of_eq ?_ (by with_reducible assumption)) | split | (with_reducible refine State.mk_memWf ?_ ?_ ?_) | (with_reducible refine Core.mk_memWf ?_ ?_ ?_ ?_ ?_)

@[simp ↓] theorem execCapacityWriteAccept_memWf (d sl : Nat) (s : State) (hs : s.memWf = true) :
    outMemWf (execCapacityWriteAccept d sl s) = true := by
  unfold execCapacityWriteAccept
  (try dsimp only)
  repeat' first | with_reducible assumption | with_reducible rfl | (intro _) | with_reducible apply Core.acc_wf | with_reducible apply Core.banks_wf | with_reducible apply Core.istore_wf | with_reducible apply Core.iteFst_memWf | with_reducible apply Core.ite_memWf | with_reducible apply Core.rf_wf | with_reducible apply Core.store_wf | with_reducible apply Res.ite_memWf | with_reducible apply State.cap_wf | with_reducible apply State.cores_wf | with_reducible apply State.hbm_wf | with_reducible apply State.iteFst_memWf | with_reducible apply State.ite_memWf | with_reducible apply State.meetBuffer_memWf | with_reducible apply State.post_memWf | with_reducible apply State.setSlice_memWf | with_reducible apply Xl.fail_memWf | with_reducible apply Xl.ite_memWf | with_reducible apply Xl.ok_memWf | with_reducible apply Xl.wait_memWf | with_reducible apply outMemWf_fault | with_reducible apply outMemWf_ite | with_reducible apply outMemWf_next | (refine State.fst_of_eq ?_ (by with_reducible assumption)) | (refine Core.fst_of_eq ?_ (by with_reducible assumption)) | split | (with_reducible refine State.mk_memWf ?_ ?_ ?_) | (with_reducible refine Core.mk_memWf ?_ ?_ ?_ ?_ ?_)

@[simp ↓] theorem State.finishHint_memWf (s : State) (c op lane : Nat) (hs : s.memWf = true) :
    (State.finishHint s c op lane).memWf = true := by
  unfold State.finishHint
  (try dsimp only)
  repeat' first | with_reducible assumption | with_reducible rfl | (intro _) | with_reducible apply Core.acc_wf | with_reducible apply Core.banks_wf | with_reducible apply Core.istore_wf | with_reducible apply Core.iteFst_memWf | with_reducible apply Core.ite_memWf | with_reducible apply Core.rf_wf | with_reducible apply Core.store_wf | with_reducible apply Mem.wf_clear | with_reducible apply Mem.wf_filter | with_reducible apply Mem.wf_set | with_reducible apply Mem.wf_write | with_reducible apply Res.ite_memWf | with_reducible apply State.cap_wf | with_reducible apply State.core_memWf | with_reducible apply State.cores_wf | with_reducible apply State.hbm_wf | with_reducible apply State.iteFst_memWf | with_reducible apply State.ite_memWf | with_reducible apply State.modCore_memWf | with_reducible apply Xl.fail_memWf | with_reducible apply Xl.ite_memWf | with_reducible apply Xl.ok_memWf | with_reducible apply Xl.wait_memWf | (refine State.fst_of_eq ?_ (by with_reducible assumption)) | (refine Core.fst_of_eq ?_ (by with_reducible assumption)) | split | (with_reducible refine State.mk_memWf ?_ ?_ ?_) | (with_reducible refine Core.mk_memWf ?_ ?_ ?_ ?_ ?_)

theorem State.missLine_memWf (s : State) (c ctx link : Nat) (ap : Ap) (off : Nat) (waiters : List (Nat × Nat)) (hs : s.memWf = true) :
    ∀ q, State.missLine s c ctx link ap off waiters = some q → q.memWf = true := by
  intro q e
  unfold State.missLine at e
  dsimp only at e
  have hk := State.core_memWf hs c
  have hv := Core.l1Victim_memWf (s.core c) (s.l1Place link ap off).2 hk
  obtain ⟨way, -, rfl⟩ := Option.map_eq_some_iff.1 e
  refine State.request_memWf _ _ (State.setCore_memWf hs ?_ c)
  split <;> split <;> simp_all only [↓Core.mk_memWf, ↓Core.rf_wf, ↓Core.banks_wf, ↓Core.store_wf, ↓Core.istore_wf, ↓Core.acc_wf]

@[simp ↓] theorem State.loadLine_memWf (s : State) (c op lane ctx link : Nat) (ap : Ap) (off n : Nat) (hs : s.memWf = true) :
    (State.loadLine s c op lane ctx link ap off n).memWf = true := by
  unfold State.loadLine
  (try dsimp only)
  repeat' first | with_reducible assumption | with_reducible rfl | (intro _) | with_reducible apply State.getD_memWf | with_reducible apply Core.acc_wf | with_reducible apply Core.banks_wf | with_reducible apply Core.istore_wf | with_reducible apply Core.rf_wf | with_reducible apply Core.store_wf | with_reducible apply State.cap_wf | with_reducible apply State.core_memWf | with_reducible apply State.cores_wf | with_reducible apply State.giveLane_memWf | with_reducible apply State.hbm_wf | with_reducible apply State.request_memWf | with_reducible apply State.setCore_memWf | with_reducible apply Xl.fail_memWf | with_reducible apply Xl.ite_memWf | with_reducible apply Xl.ok_memWf | with_reducible apply Xl.wait_memWf | (refine State.fst_of_eq ?_ (by with_reducible assumption)) | (refine Core.fst_of_eq ?_ (by with_reducible assumption)) | (refine State.missLine_memWf _ _ _ _ _ _ _ ?_ _ (by with_reducible assumption)) | split | (with_reducible refine State.mk_memWf ?_ ?_ ?_) | (with_reducible refine Core.mk_memWf ?_ ?_ ?_ ?_ ?_)

@[simp ↓] theorem State.takeHint_memWf (s : State) (c : Nat) (o : MemOp) (link : Nat) (ap : Ap) (off : Nat) (hs : s.memWf = true) :
    (State.takeHint s c o link ap off).memWf = true := by
  unfold State.takeHint
  (try dsimp only)
  repeat' first | with_reducible assumption | with_reducible rfl | (intro _) | with_reducible apply State.getD_memWf | with_reducible apply Core.acc_wf | with_reducible apply Core.banks_wf | with_reducible apply Core.foldlFst_memWf | with_reducible apply Core.foldl_memWf | with_reducible apply Core.istore_wf | with_reducible apply Core.iteFst_memWf | with_reducible apply Core.ite_memWf | with_reducible apply Core.rf_wf | with_reducible apply Core.store_wf | with_reducible apply Mem.wf_clear | with_reducible apply Mem.wf_filter | with_reducible apply Mem.wf_set | with_reducible apply Mem.wf_write | with_reducible apply Res.ite_memWf | with_reducible apply State.cap_wf | with_reducible apply State.cores_wf | with_reducible apply State.fillSector_memWf | with_reducible apply State.foldlFst_memWf | with_reducible apply State.foldl_memWf | with_reducible apply State.hbm_wf | with_reducible apply State.iteFst_memWf | with_reducible apply State.ite_memWf | with_reducible apply State.setSlice_memWf | with_reducible apply State.settleLine_memWf | with_reducible apply Xl.fail_memWf | with_reducible apply Xl.ite_memWf | with_reducible apply Xl.ok_memWf | with_reducible apply Xl.wait_memWf | (refine State.fst_of_eq ?_ (by with_reducible assumption)) | (refine Core.fst_of_eq ?_ (by with_reducible assumption)) | (refine State.missLine_memWf _ _ _ _ _ _ _ ?_ _ (by with_reducible assumption)) | split | (with_reducible refine State.mk_memWf ?_ ?_ ?_) | (with_reducible refine Core.mk_memWf ?_ ?_ ?_ ?_ ?_)

@[simp ↓] theorem State.dropHints_memWf (s : State) (ctx n : Nat) (hs : s.memWf = true) :
    (State.dropHints s ctx n).memWf = true := by
  unfold State.dropHints
  simp +contextual (maxDischargeDepth := 60) only [↓Core.acc_wf, ↓Core.banks_wf, ↓Core.istore_wf, ↓Core.iteFst_memWf, ↓Core.ite_memWf, ↓Core.mk_memWf, ↓Core.rf_wf, ↓Core.store_wf, ↓Res.ite_memWf, ↓State.cap_wf, ↓State.cores_wf, ↓State.hbm_wf, ↓State.iteFst_memWf, ↓State.ite_memWf, ↓State.mk_memWf, ↓Xl.fail_memWf, ↓Xl.ite_memWf, ↓Xl.ok_memWf, ↓Xl.wait_memWf, hs, implies_true]

@[simp ↓] theorem State.hintAt_memWf (s : State) (c op lane : Nat) (o : MemOp) (link : Nat) (ap : Ap) (off : Nat) (hs : s.memWf = true) :
    (State.hintAt s c op lane o link ap off).memWf = true := by
  unfold State.hintAt
  simp +contextual (maxDischargeDepth := 60) only [↓Core.acc_wf, ↓Core.banks_wf, ↓Core.istore_wf, ↓Core.iteFst_memWf, ↓Core.ite_memWf, ↓Core.mk_memWf, ↓Core.rf_wf, ↓Core.store_wf, ↓Res.ite_memWf, ↓State.cap_wf, ↓State.cores_wf, ↓State.dropHints_memWf, ↓State.finishHint_memWf, ↓State.hbm_wf, ↓State.iteFst_memWf, ↓State.ite_memWf, ↓State.mk_memWf, ↓State.post_memWf, ↓State.takeHint_memWf, ↓Xl.fail_memWf, ↓Xl.ite_memWf, ↓Xl.ok_memWf, ↓Xl.wait_memWf, hs, implies_true]

@[simp ↓] theorem State.accessAt_memWf (s : State) (c op lane : Nat) (o : MemOp) (a : LaneAcc) (link : Nat) (ap : Ap) (off : Nat) (hs : s.memWf = true) :
    (State.accessAt s c op lane o a link ap off).memWf = true := by
  unfold State.accessAt
  simp +contextual (maxDischargeDepth := 60) only [↓Core.acc_wf, ↓Core.banks_wf, ↓Core.istore_wf, ↓Core.iteFst_memWf, ↓Core.ite_memWf, ↓Core.mk_memWf, ↓Core.modOp_memWf, ↓Core.observe_memWf, ↓Core.rf_wf, ↓Core.store_wf, ↓Res.ite_memWf, ↓State.cap_wf, ↓State.core_memWf, ↓State.cores_wf, ↓State.hbm_wf, ↓State.iteFst_memWf, ↓State.ite_memWf, ↓State.loadLine_memWf, ↓State.mk_memWf, ↓State.modCore_memWf, ↓State.post_memWf, ↓State.request_memWf, ↓Xl.fail_memWf, ↓Xl.ite_memWf, ↓Xl.ok_memWf, ↓Xl.wait_memWf, hs, implies_true]

@[simp ↓] theorem execTranslationRequest_memWf (c op lane : Nat) (s : State) (hs : s.memWf = true) :
    outMemWf (execTranslationRequest c op lane s) = true := by
  unfold execTranslationRequest
  (try dsimp only)
  repeat' first | with_reducible assumption | with_reducible rfl | (intro _) | with_reducible apply Core.acc_wf | with_reducible apply Core.banks_wf | with_reducible apply Core.foldlFst_memWf | with_reducible apply Core.foldl_memWf | with_reducible apply Core.istore_wf | with_reducible apply Core.iteFst_memWf | with_reducible apply Core.ite_memWf | with_reducible apply Core.rf_wf | with_reducible apply Core.store_wf | with_reducible apply Res.done_memWf | with_reducible apply Res.ite_memWf | with_reducible apply Res.moved_memWf | with_reducible apply Res.trap_memWf | with_reducible apply Res.wait_memWf | with_reducible apply State.accessAt_memWf | with_reducible apply State.cap_wf | with_reducible apply State.core_memWf | with_reducible apply State.cores_wf | with_reducible apply State.dropHints_memWf | with_reducible apply State.failLane_memWf | with_reducible apply State.finishHint_memWf | with_reducible apply State.foldlFst_memWf | with_reducible apply State.foldl_memWf | with_reducible apply State.hbm_wf | with_reducible apply State.hintAt_memWf | with_reducible apply State.iteFst_memWf | with_reducible apply State.ite_memWf | with_reducible apply State.logDone_memWf | with_reducible apply State.post_memWf | with_reducible apply State.xlate_memWf | with_reducible apply Xl.fail_memWf | with_reducible apply Xl.ite_memWf | with_reducible apply Xl.ok_memWf | with_reducible apply Xl.wait_memWf | with_reducible apply misaligned_memWf | with_reducible apply outMemWf_fault | with_reducible apply outMemWf_ite | with_reducible apply outMemWf_next | with_reducible apply prot_memWf | (refine Xl.ok_of_eq ?_ (by with_reducible assumption)) | (refine Xl.fail_of_eq ?_ (by with_reducible assumption)) | (refine Xl.wait_of_eq ?_ (by with_reducible assumption)) | (refine State.fst_of_eq ?_ (by with_reducible assumption)) | (refine Core.fst_of_eq ?_ (by with_reducible assumption)) | split | (with_reducible refine State.mk_memWf ?_ ?_ ?_) | (with_reducible refine Core.mk_memWf ?_ ?_ ?_ ?_ ?_)

@[simp ↓] theorem execL1Fill_memWf (c i : Nat) (s : State) (hs : s.memWf = true) :
    outMemWf (execL1Fill c i s) = true := by
  unfold execL1Fill
  (try dsimp only)
  repeat' first | with_reducible assumption | with_reducible rfl | (intro _) | with_reducible apply Core.acc_wf | with_reducible apply Core.banks_wf | with_reducible apply Core.foldlFst_memWf | with_reducible apply Core.foldl_memWf | with_reducible apply Core.istore_wf | with_reducible apply Core.iteFst_memWf | with_reducible apply Core.ite_memWf | with_reducible apply Core.reclaimed_memWf | with_reducible apply Core.rf_wf | with_reducible apply Core.store_wf | with_reducible apply Core.writeForeign_memWf | with_reducible apply Mem.wf_clear | with_reducible apply Mem.wf_filter | with_reducible apply Mem.wf_set | with_reducible apply Mem.wf_write | with_reducible apply Res.ite_memWf | with_reducible apply State.cap_wf | with_reducible apply State.core_memWf | with_reducible apply State.cores_wf | with_reducible apply State.foldlFst_memWf | with_reducible apply State.foldl_memWf | with_reducible apply State.giveLane_memWf | with_reducible apply State.hbm_wf | with_reducible apply State.iteFst_memWf | with_reducible apply State.ite_memWf | with_reducible apply State.postOnce_memWf | with_reducible apply State.setCore_memWf | with_reducible apply Xl.fail_memWf | with_reducible apply Xl.ite_memWf | with_reducible apply Xl.ok_memWf | with_reducible apply Xl.wait_memWf | with_reducible apply outMemWf_fault | with_reducible apply outMemWf_ite | with_reducible apply outMemWf_next | (refine State.fst_of_eq ?_ (by with_reducible assumption)) | (refine Core.fst_of_eq ?_ (by with_reducible assumption)) | split | (with_reducible refine State.mk_memWf ?_ ?_ ?_) | (with_reducible refine Core.mk_memWf ?_ ?_ ?_ ?_ ?_)

@[simp ↓] theorem execLoadReply_memWf (c op lane : Nat) (s : State) (hs : s.memWf = true) :
    outMemWf (execLoadReply c op lane s) = true := by
  unfold execLoadReply
  (try dsimp only)
  repeat' first | with_reducible assumption | with_reducible rfl | (intro _) | with_reducible apply Core.acc_wf | with_reducible apply Core.banks_wf | with_reducible apply Core.istore_wf | with_reducible apply Core.iteFst_memWf | with_reducible apply Core.ite_memWf | with_reducible apply Core.modOp_memWf | with_reducible apply Core.rf_wf | with_reducible apply Core.store_wf | with_reducible apply Res.done_memWf | with_reducible apply Res.ite_memWf | with_reducible apply Res.moved_memWf | with_reducible apply Res.trap_memWf | with_reducible apply Res.wait_memWf | with_reducible apply State.cap_wf | with_reducible apply State.core_memWf | with_reducible apply State.cores_wf | with_reducible apply State.finishOp_memWf | with_reducible apply State.hbm_wf | with_reducible apply State.iteFst_memWf | with_reducible apply State.ite_memWf | with_reducible apply State.modCore_memWf | with_reducible apply Xl.fail_memWf | with_reducible apply Xl.ite_memWf | with_reducible apply Xl.ok_memWf | with_reducible apply Xl.wait_memWf | with_reducible apply misaligned_memWf | with_reducible apply outMemWf_fault | with_reducible apply outMemWf_ite | with_reducible apply outMemWf_next | with_reducible apply prot_memWf | (refine State.fst_of_eq ?_ (by with_reducible assumption)) | (refine Core.fst_of_eq ?_ (by with_reducible assumption)) | split | (with_reducible refine State.mk_memWf ?_ ?_ ?_) | (with_reducible refine Core.mk_memWf ?_ ?_ ?_ ?_ ?_)

@[simp ↓] theorem execCoreStoreApertureAccess_memWf (c : Nat) (s : State) (hs : s.memWf = true) :
    outMemWf (execCoreStoreApertureAccess c s) = true := by
  unfold execCoreStoreApertureAccess
  (try dsimp only)
  repeat' first | with_reducible assumption | with_reducible rfl | (intro _) | with_reducible apply Core.acc_wf | with_reducible apply Core.banks_wf | with_reducible apply Core.foldlFst_memWf | with_reducible apply Core.foldl_memWf | with_reducible apply Core.istore_wf | with_reducible apply Core.rf_wf | with_reducible apply Core.store_wf | with_reducible apply Core.writeForeign_memWf | with_reducible apply Mem.wf_clear | with_reducible apply Mem.wf_filter | with_reducible apply Mem.wf_set | with_reducible apply Mem.wf_write | with_reducible apply State.acceptStore_memWf | with_reducible apply State.answer_memWf | with_reducible apply State.cap_wf | with_reducible apply State.core_memWf | with_reducible apply State.cores_wf | with_reducible apply State.foldlFst_memWf | with_reducible apply State.foldl_memWf | with_reducible apply State.hbm_wf | with_reducible apply State.modCore_memWf | with_reducible apply State.rmwAt_memWf | with_reducible apply State.setCore_memWf | with_reducible apply Xl.fail_memWf | with_reducible apply Xl.ite_memWf | with_reducible apply Xl.ok_memWf | with_reducible apply Xl.wait_memWf | with_reducible apply outMemWf_fault | with_reducible apply outMemWf_ite | with_reducible apply outMemWf_next | (refine State.fst_of_eq ?_ (by with_reducible assumption)) | (refine Core.fst_of_eq ?_ (by with_reducible assumption)) | split | (with_reducible refine State.mk_memWf ?_ ?_ ?_) | (with_reducible refine Core.mk_memWf ?_ ?_ ?_ ?_ ?_)

@[simp ↓] theorem State.windowFault_memWf (s : State) (c uid instr page : Nat) (hs : s.memWf = true) :
    (State.windowFault s c uid instr page).memWf = true := by
  unfold State.windowFault
  simp +contextual (maxDischargeDepth := 60) only [↓Core.foldlFst_memWf, ↓Core.foldl_memWf, ↓Core.iteFst_memWf, ↓Core.ite_memWf, ↓Res.ite_memWf, ↓State.core_memWf, ↓State.foldlFst_memWf, ↓State.foldl_memWf, ↓State.iteFst_memWf, ↓State.ite_memWf, ↓State.retireEntry_memWf, ↓State.storeFault_memWf, ↓Xl.fail_memWf, ↓Xl.ite_memWf, ↓Xl.ok_memWf, ↓Xl.wait_memWf, hs, implies_true]

@[simp ↓] theorem State.sendWindow_memWf (s : State) (c : Nat) (e : SbEntry) (pages : List (Nat × Nat × Nat)) (hs : s.memWf = true) :
    (State.sendWindow s c e pages).memWf = true := by
  unfold State.sendWindow
  simp +contextual (maxDischargeDepth := 60) only [↓Core.acc_wf, ↓Core.banks_wf, ↓Core.foldlFst_memWf, ↓Core.foldl_memWf, ↓Core.istore_wf, ↓Core.iteFst_memWf, ↓Core.ite_memWf, ↓Core.mk_memWf, ↓Core.rf_wf, ↓Core.store_wf, ↓Mem.wf_clear, ↓Mem.wf_filter, ↓Mem.wf_set, ↓Mem.wf_write, ↓Res.ite_memWf, ↓State.cap_wf, ↓State.core_memWf, ↓State.cores_wf, ↓State.foldlFst_memWf, ↓State.foldl_memWf, ↓State.hbm_wf, ↓State.iteFst_memWf, ↓State.ite_memWf, ↓State.mk_memWf, ↓State.modCore_memWf, ↓State.send_memWf, ↓State.wakeFences_memWf, ↓Xl.fail_memWf, ↓Xl.ite_memWf, ↓Xl.ok_memWf, ↓Xl.wait_memWf, hs, implies_true]

@[simp ↓] theorem State.windowPages_memWf (s : State) (c : Nat) (e : SbEntry) (who : Waiter) (hs : s.memWf = true) :
    (State.windowPages s c e who).1.memWf = true := by
  unfold State.windowPages
  (try dsimp only)
  repeat' first | with_reducible assumption | with_reducible rfl | (intro _) | with_reducible apply Core.acc_wf | with_reducible apply Core.banks_wf | with_reducible apply Core.foldlFst_memWf | with_reducible apply Core.foldl_memWf | with_reducible apply Core.istore_wf | with_reducible apply Core.iteFst_memWf | with_reducible apply Core.ite_memWf | with_reducible apply Core.rf_wf | with_reducible apply Core.store_wf | with_reducible apply Mem.wf_clear | with_reducible apply Mem.wf_filter | with_reducible apply Mem.wf_set | with_reducible apply Mem.wf_write | with_reducible apply Res.done_memWf | with_reducible apply Res.ite_memWf | with_reducible apply Res.moved_memWf | with_reducible apply Res.trap_memWf | with_reducible apply Res.wait_memWf | with_reducible apply State.cap_wf | with_reducible apply State.core_memWf | with_reducible apply State.cores_wf | with_reducible apply State.foldlFst_memWf | with_reducible apply State.foldl_memWf | with_reducible apply State.hbm_wf | with_reducible apply State.iteFst_memWf | with_reducible apply State.ite_memWf | with_reducible apply State.xlate_memWf | with_reducible apply Xl.fail_memWf | with_reducible apply Xl.ite_memWf | with_reducible apply Xl.ok_memWf | with_reducible apply Xl.wait_memWf | with_reducible apply misaligned_memWf | with_reducible apply prot_memWf | (refine Xl.ok_of_eq ?_ (by with_reducible assumption)) | (refine Xl.fail_of_eq ?_ (by with_reducible assumption)) | (refine Xl.wait_of_eq ?_ (by with_reducible assumption)) | (refine State.fst_of_eq ?_ (by with_reducible assumption)) | (refine Core.fst_of_eq ?_ (by with_reducible assumption)) | split | (with_reducible refine State.mk_memWf ?_ ?_ ?_) | (with_reducible refine Core.mk_memWf ?_ ?_ ?_ ?_ ?_)

@[simp ↓] theorem State.sendPiece_memWf (s : State) (c key page : Nat) (ap : Ap) (off : Nat) (hs : s.memWf = true) :
    (State.sendPiece s c key page ap off).memWf = true := by
  unfold State.sendPiece
  (try dsimp only)
  repeat' first | with_reducible assumption | with_reducible rfl | (intro _) | with_reducible apply Core.acc_wf | with_reducible apply Core.banks_wf | with_reducible apply Core.foldlFst_memWf | with_reducible apply Core.foldl_memWf | with_reducible apply Core.istore_wf | with_reducible apply Core.iteFst_memWf | with_reducible apply Core.ite_memWf | with_reducible apply Core.l1Store_memWf | with_reducible apply Core.rf_wf | with_reducible apply Core.store_wf | with_reducible apply Mem.wf_clear | with_reducible apply Mem.wf_filter | with_reducible apply Mem.wf_set | with_reducible apply Mem.wf_write | with_reducible apply Res.done_memWf | with_reducible apply Res.ite_memWf | with_reducible apply Res.moved_memWf | with_reducible apply Res.trap_memWf | with_reducible apply Res.wait_memWf | with_reducible apply State.cap_wf | with_reducible apply State.core_memWf | with_reducible apply State.cores_wf | with_reducible apply State.foldlFst_memWf | with_reducible apply State.foldl_memWf | with_reducible apply State.hbm_wf | with_reducible apply State.iteFst_memWf | with_reducible apply State.ite_memWf | with_reducible apply State.modCore_memWf | with_reducible apply State.request_memWf | with_reducible apply State.retireEntry_memWf | with_reducible apply State.storeFault_memWf | with_reducible apply Xl.fail_memWf | with_reducible apply Xl.ite_memWf | with_reducible apply Xl.ok_memWf | with_reducible apply Xl.wait_memWf | with_reducible apply misaligned_memWf | with_reducible apply prot_memWf | (refine State.fst_of_eq ?_ (by with_reducible assumption)) | (refine Core.fst_of_eq ?_ (by with_reducible assumption)) | split | (with_reducible refine State.mk_memWf ?_ ?_ ?_) | (with_reducible refine Core.mk_memWf ?_ ?_ ?_ ?_ ?_)

@[simp ↓] theorem execStoreBufferDrain_memWf (c pipe i : Nat) (s : State) (hs : s.memWf = true) :
    outMemWf (execStoreBufferDrain c pipe i s) = true := by
  unfold execStoreBufferDrain
  (try dsimp only)
  repeat' first | with_reducible assumption | with_reducible rfl | (intro _) | with_reducible apply Core.acc_wf | with_reducible apply Core.banks_wf | with_reducible apply Core.foldlFst_memWf | with_reducible apply Core.foldl_memWf | with_reducible apply Core.istore_wf | with_reducible apply Core.iteFst_memWf | with_reducible apply Core.ite_memWf | with_reducible apply Core.rf_wf | with_reducible apply Core.store_wf | with_reducible apply Mem.wf_clear | with_reducible apply Mem.wf_filter | with_reducible apply Mem.wf_set | with_reducible apply Mem.wf_write | with_reducible apply Res.done_memWf | with_reducible apply Res.ite_memWf | with_reducible apply Res.moved_memWf | with_reducible apply Res.trap_memWf | with_reducible apply Res.wait_memWf | with_reducible apply State.cap_wf | with_reducible apply State.core_memWf | with_reducible apply State.cores_wf | with_reducible apply State.foldlFst_memWf | with_reducible apply State.foldl_memWf | with_reducible apply State.hbm_wf | with_reducible apply State.iteFst_memWf | with_reducible apply State.ite_memWf | with_reducible apply State.retireEntry_memWf | with_reducible apply State.sendPiece_memWf | with_reducible apply State.sendWindow_memWf | with_reducible apply State.storeFault_memWf | with_reducible apply State.windowFault_memWf | with_reducible apply State.windowPages_memWf | with_reducible apply State.xlate_memWf | with_reducible apply Xl.fail_memWf | with_reducible apply Xl.ite_memWf | with_reducible apply Xl.ok_memWf | with_reducible apply Xl.wait_memWf | with_reducible apply misaligned_memWf | with_reducible apply outMemWf_fault | with_reducible apply outMemWf_ite | with_reducible apply outMemWf_next | with_reducible apply prot_memWf | (refine Xl.ok_of_eq ?_ (by with_reducible assumption)) | (refine Xl.fail_of_eq ?_ (by with_reducible assumption)) | (refine Xl.wait_of_eq ?_ (by with_reducible assumption)) | (refine State.fst_of_eq ?_ (by with_reducible assumption)) | (refine Core.fst_of_eq ?_ (by with_reducible assumption)) | split | (with_reducible refine State.mk_memWf ?_ ?_ ?_) | (with_reducible refine Core.mk_memWf ?_ ?_ ?_ ?_ ?_)

@[simp ↓] theorem State.admitFaults_memWf (s : State) (c : Nat) (hs : s.memWf = true) :
    (State.admitFaults s c).memWf = true := by
  unfold State.admitFaults
  simp +contextual (maxDischargeDepth := 60) only [↓Core.acc_wf, ↓Core.banks_wf, ↓Core.foldlFst_memWf, ↓Core.foldl_memWf, ↓Core.istore_wf, ↓Core.iteFst_memWf, ↓Core.ite_memWf, ↓Core.mk_memWf, ↓Core.rf_wf, ↓Core.store_wf, ↓Res.ite_memWf, ↓State.cap_wf, ↓State.core_memWf, ↓State.cores_wf, ↓State.enterRecord_memWf, ↓State.foldlFst_memWf, ↓State.foldl_memWf, ↓State.hbm_wf, ↓State.iteFst_memWf, ↓State.ite_memWf, ↓State.mk_memWf, ↓State.modCore_memWf, ↓State.retireEntry_memWf, ↓State.syncSfq_memWf, ↓Xl.fail_memWf, ↓Xl.ite_memWf, ↓Xl.ok_memWf, ↓Xl.wait_memWf, hs, implies_true]

@[simp ↓] theorem Core.writeBits_memWf (k : Core) (a n v : Nat) (hk : k.memWf = true) :
    (Core.writeBits k a n v).memWf = true := by
  unfold Core.writeBits
  simp +contextual (maxDischargeDepth := 60) only [↓Core.writeStore_memWf, ↓Xl.fail_memWf, ↓Xl.ite_memWf, ↓Xl.ok_memWf, ↓Xl.wait_memWf, hk, implies_true]

@[simp ↓] theorem Core.writeBitsForeign_memWf (k : Core) (a n v : Nat) (hk : k.memWf = true) :
    (Core.writeBitsForeign k a n v).memWf = true := by
  unfold Core.writeBitsForeign
  simp +contextual (maxDischargeDepth := 60) only [↓Core.disown_memWf, ↓Core.writeBits_memWf, ↓Xl.fail_memWf, ↓Xl.ite_memWf, ↓Xl.ok_memWf, ↓Xl.wait_memWf, hk, implies_true]

@[simp ↓] theorem execRemoteSubbyteStore_memWf (c addr n : Nat) (v : DWord) (s : State) (hs : s.memWf = true) :
    outMemWf (execRemoteSubbyteStore c addr n v s) = true := by
  unfold execRemoteSubbyteStore
  simp +contextual (maxDischargeDepth := 60) only [↓Core.iteFst_memWf, ↓Core.ite_memWf, ↓Core.writeBitsForeign_memWf, ↓Res.ite_memWf, ↓State.iteFst_memWf, ↓State.ite_memWf, ↓State.modCore_memWf, ↓Xl.fail_memWf, ↓Xl.ite_memWf, ↓Xl.ok_memWf, ↓Xl.wait_memWf, ↓outMemWf_fault, ↓outMemWf_ite, ↓outMemWf_next, hs, implies_true]

@[simp ↓] theorem State.arrayError_memWf (s : State) (c kind at' : Nat) (hs : s.memWf = true) :
    (State.arrayError s c kind at').memWf = true := by
  unfold State.arrayError
  (try dsimp only)
  repeat' first | with_reducible assumption | with_reducible rfl | (intro _) | with_reducible apply Core.acc_wf | with_reducible apply Core.banks_wf | with_reducible apply Core.istore_wf | with_reducible apply Core.iteFst_memWf | with_reducible apply Core.ite_memWf | with_reducible apply Core.rf_wf | with_reducible apply Core.store_wf | with_reducible apply Res.ite_memWf | with_reducible apply State.bumpField_memWf | with_reducible apply State.cap_wf | with_reducible apply State.cores_wf | with_reducible apply State.hbm_wf | with_reducible apply State.iteFst_memWf | with_reducible apply State.ite_memWf | with_reducible apply State.modCore_memWf | with_reducible apply State.post_memWf | with_reducible apply Xl.fail_memWf | with_reducible apply Xl.ite_memWf | with_reducible apply Xl.ok_memWf | with_reducible apply Xl.wait_memWf | (refine State.fst_of_eq ?_ (by with_reducible assumption)) | (refine Core.fst_of_eq ?_ (by with_reducible assumption)) | split | (with_reducible refine State.mk_memWf ?_ ?_ ?_) | (with_reducible refine Core.mk_memWf ?_ ?_ ?_ ?_ ?_)

@[simp ↓] theorem execPatrolScrub_memWf (c : Nat) (s : State) (hs : s.memWf = true) :
    outMemWf (execPatrolScrub c s) = true := by
  unfold execPatrolScrub
  simp +contextual (maxDischargeDepth := 60) only [↓Core.acc_wf, ↓Core.banks_wf, ↓Core.istore_wf, ↓Core.mk_memWf, ↓Core.rf_wf, ↓Core.store_wf, ↓State.arrayError_memWf, ↓State.cap_wf, ↓State.cores_wf, ↓State.hbm_wf, ↓State.mk_memWf, ↓Xl.fail_memWf, ↓Xl.ite_memWf, ↓Xl.ok_memWf, ↓Xl.wait_memWf, ↓outMemWf_fault, ↓outMemWf_ite, ↓outMemWf_next, hs, implies_true]

@[simp ↓] theorem execGranuleReclaim_memWf (c g : Nat) (s : State) (hs : s.memWf = true) :
    outMemWf (execGranuleReclaim c g s) = true := by
  unfold execGranuleReclaim
  simp +contextual (maxDischargeDepth := 60) only [↓Core.iteFst_memWf, ↓Core.ite_memWf, ↓Core.reclaim_memWf, ↓Res.ite_memWf, ↓State.core_memWf, ↓State.iteFst_memWf, ↓State.ite_memWf, ↓State.modCore_memWf, ↓State.postOnce_memWf, ↓Xl.fail_memWf, ↓Xl.ite_memWf, ↓Xl.ok_memWf, ↓Xl.wait_memWf, ↓outMemWf_fault, ↓outMemWf_ite, ↓outMemWf_next, hs, implies_true]

@[simp ↓] theorem execBarrierNotify_memWf (c ctx va : Nat) (s : State) (hs : s.memWf = true) :
    outMemWf (execBarrierNotify c ctx va s) = true := by
  unfold execBarrierNotify
  simp +contextual (maxDischargeDepth := 60) only [↓Core.acc_wf, ↓Core.banks_wf, ↓Core.istore_wf, ↓Core.iteFst_memWf, ↓Core.ite_memWf, ↓Core.mk_memWf, ↓Core.rf_wf, ↓Core.store_wf, ↓Mem.wf_clear, ↓Mem.wf_filter, ↓Mem.wf_set, ↓Mem.wf_write, ↓Res.ite_memWf, ↓State.cap_wf, ↓State.cores_wf, ↓State.hbm_wf, ↓State.iteFst_memWf, ↓State.ite_memWf, ↓State.mk_memWf, ↓State.modCore_memWf, ↓Xl.fail_memWf, ↓Xl.ite_memWf, ↓Xl.ok_memWf, ↓Xl.wait_memWf, ↓outMemWf_fault, ↓outMemWf_ite, ↓outMemWf_next, hs, implies_true]

end Sys2Proof.Machine
end

