-- ==== Sys2Proof/Laws/CanonMemInstr.lean ====
section
/-! SUPPORT. The memory and synchronisation instructions keep the canonical form of storage. -/

set_option linter.unusedSimpArgs false

namespace Sys2Proof.Machine

@[simp ↓] theorem Core.putElem_memWf (k : Core) (x : Ctx) (sd : Side) (r lane : Nat) (ws : List Word) (hk : k.memWf = true) :
    (Core.putElem k x sd r lane ws).memWf = true := by
  unfold Core.putElem
  simp +contextual (maxDischargeDepth := 60) only [↓Core.foldlFst_memWf, ↓Core.foldl_memWf, ↓Core.iteFst_memWf, ↓Core.ite_memWf, ↓Core.setS_memWf, ↓Core.setV_memWf, ↓Res.ite_memWf, ↓State.foldlFst_memWf, ↓State.foldl_memWf, ↓State.iteFst_memWf, ↓State.ite_memWf, hk, implies_true]

@[simp ↓] theorem State.startOp_memWf (s : State) (x : Ctx) (sd : Side) (kind : MemKind) (dst regs : Nat) (accs : List LaneAcc) (go : List Nat) (hs : s.memWf = true) :
    (State.startOp s x sd kind dst regs accs go).memWf = true := by
  unfold State.startOp
  simp +contextual (maxDischargeDepth := 60) only [↓Core.acc_wf, ↓Core.banks_wf, ↓Core.istore_wf, ↓Core.mk_memWf, ↓Core.rf_wf, ↓Core.store_wf, ↓State.cap_wf, ↓State.core_memWf, ↓State.cores_wf, ↓State.hbm_wf, ↓State.mk_memWf, ↓State.modGroup_memWf, ↓State.posts_memWf, ↓State.setCore_memWf, hs, implies_true]

@[simp ↓] theorem State.acquire_memWf (s : State) (c : Nat) (sc : Scope) (hs : s.memWf = true) :
    (State.acquire s c sc).memWf = true := by
  unfold State.acquire
  simp +contextual (maxDischargeDepth := 60) only [↓Core.l1Acquire_memWf, ↓State.modCore_memWf, hs, implies_true]

@[simp ↓] theorem State.doneOrBehind_memWf (o : Order) (x : Ctx) (op : Nat) (s : State) (hs : s.memWf = true) :
    (State.doneOrBehind o x op s).memWf = true := by
  unfold State.doneOrBehind
  simp +contextual (maxDischargeDepth := 60) only [↓Core.iteFst_memWf, ↓Core.ite_memWf, ↓Res.done_memWf, ↓Res.ite_memWf, ↓Res.moved_memWf, ↓Res.trap_memWf, ↓Res.wait_memWf, ↓State.advanceBehind_memWf, ↓State.iteFst_memWf, ↓State.ite_memWf, ↓misaligned_memWf, ↓prot_memWf, hs, implies_true]

@[simp ↓] theorem globalLoad_memWf (sd : Side) (w : Width) (d a : Nat) (off : Off) (x : Ctx) (s : State) (hs : s.memWf = true) :
    (globalLoad sd w d a off x s).memWf = true := by
  unfold globalLoad
  (try dsimp only)
  repeat' first | with_reducible assumption | with_reducible rfl | (intro _) | with_reducible apply Core.acc_wf | with_reducible apply Core.banks_wf | with_reducible apply Core.istore_wf | with_reducible apply Core.iteFst_memWf | with_reducible apply Core.ite_memWf | with_reducible apply Core.rf_wf | with_reducible apply Core.store_wf | with_reducible apply Res.done_memWf | with_reducible apply Res.ite_memWf | with_reducible apply Res.moved_memWf | with_reducible apply Res.trap_memWf | with_reducible apply Res.wait_memWf | with_reducible apply State.asIssued_memWf | with_reducible apply State.cap_wf | with_reducible apply State.cores_wf | with_reducible apply State.hbm_wf | with_reducible apply State.iteFst_memWf | with_reducible apply State.ite_memWf | with_reducible apply State.startOp_memWf | with_reducible apply State.xlate_memWf | with_reducible apply misaligned_memWf | with_reducible apply prot_memWf | (refine Xl.ok_of_eq ?_ (by with_reducible assumption)) | (refine Xl.fail_of_eq ?_ (by with_reducible assumption)) | (refine Xl.wait_of_eq ?_ (by with_reducible assumption)) | (refine State.fst_of_eq ?_ (by with_reducible assumption)) | (refine Core.fst_of_eq ?_ (by with_reducible assumption)) | split | (with_reducible refine State.mk_memWf ?_ ?_ ?_) | (with_reducible refine Core.mk_memWf ?_ ?_ ?_ ?_ ?_)

@[simp ↓] theorem State.enterStore_memWf (s : State) (x : Ctx) (sd : Side) (w : Width) (bytes : List SByte) (hs : s.memWf = true) :
    (State.enterStore s x sd w bytes).memWf = true := by
  unfold State.enterStore
  simp +contextual (maxDischargeDepth := 60) only [↓Core.acc_wf, ↓Core.banks_wf, ↓Core.foldlFst_memWf, ↓Core.foldl_memWf, ↓Core.istore_wf, ↓Core.mk_memWf, ↓Core.rf_wf, ↓Core.store_wf, ↓Mem.wf_clear, ↓Mem.wf_filter, ↓Mem.wf_set, ↓Mem.wf_write, ↓State.cap_wf, ↓State.core_memWf, ↓State.cores_wf, ↓State.foldlFst_memWf, ↓State.foldl_memWf, ↓State.hbm_wf, ↓State.mk_memWf, ↓State.post_memWf, ↓State.setCore_memWf, hs, implies_true]

@[simp ↓] theorem globalStore_memWf (sd : Side) (w : Width) (d a : Nat) (off : Off) (x : Ctx) (s : State) (hs : s.memWf = true) :
    (globalStore sd w d a off x s).memWf = true := by
  unfold globalStore
  (try dsimp only)
  repeat' first | with_reducible assumption | with_reducible rfl | (intro _) | with_reducible apply Core.acc_wf | with_reducible apply Core.banks_wf | with_reducible apply Core.istore_wf | with_reducible apply Core.iteFst_memWf | with_reducible apply Core.ite_memWf | with_reducible apply Core.rf_wf | with_reducible apply Core.store_wf | with_reducible apply Res.done_memWf | with_reducible apply Res.ite_memWf | with_reducible apply Res.moved_memWf | with_reducible apply Res.trap_memWf | with_reducible apply Res.wait_memWf | with_reducible apply State.asIssued_memWf | with_reducible apply State.cap_wf | with_reducible apply State.cores_wf | with_reducible apply State.enterStore_memWf | with_reducible apply State.hbm_wf | with_reducible apply State.iteFst_memWf | with_reducible apply State.ite_memWf | with_reducible apply misaligned_memWf | with_reducible apply prot_memWf | (refine Xl.ok_of_eq ?_ (by with_reducible assumption)) | (refine Xl.fail_of_eq ?_ (by with_reducible assumption)) | (refine Xl.wait_of_eq ?_ (by with_reducible assumption)) | (refine State.fst_of_eq ?_ (by with_reducible assumption)) | (refine Core.fst_of_eq ?_ (by with_reducible assumption)) | split | (with_reducible refine State.mk_memWf ?_ ?_ ?_) | (with_reducible refine Core.mk_memWf ?_ ?_ ?_ ?_ ?_)

@[simp ↓] theorem deliver_memWf (sd : Side) (d : Nat) (x : Ctx) (s : State) (read : Nat → List Word) (bad : Nat → Option Nat) (hs : s.memWf = true) :
    (deliver sd d x s read bad).memWf = true := by
  unfold deliver
  (try dsimp only)
  repeat' first | with_reducible assumption | with_reducible rfl | (intro _) | with_reducible apply Core.acc_wf | with_reducible apply Core.banks_wf | with_reducible apply Core.foldlFst_memWf | with_reducible apply Core.foldl_memWf | with_reducible apply Core.istore_wf | with_reducible apply Core.iteFst_memWf | with_reducible apply Core.ite_memWf | with_reducible apply Core.putElem_memWf | with_reducible apply Core.rf_wf | with_reducible apply Core.store_wf | with_reducible apply Res.done_memWf | with_reducible apply Res.ite_memWf | with_reducible apply Res.moved_memWf | with_reducible apply Res.trap_memWf | with_reducible apply Res.wait_memWf | with_reducible apply State.cap_wf | with_reducible apply State.core_memWf | with_reducible apply State.cores_wf | with_reducible apply State.foldlFst_memWf | with_reducible apply State.foldl_memWf | with_reducible apply State.hbm_wf | with_reducible apply State.iteFst_memWf | with_reducible apply State.ite_memWf | with_reducible apply State.modCore_memWf | with_reducible apply State.pendTrap_memWf | with_reducible apply misaligned_memWf | with_reducible apply prot_memWf | (refine State.fst_of_eq ?_ (by with_reducible assumption)) | (refine Core.fst_of_eq ?_ (by with_reducible assumption)) | split | (with_reducible refine State.mk_memWf ?_ ?_ ?_) | (with_reducible refine Core.mk_memWf ?_ ?_ ?_ ?_ ?_)

@[simp ↓] theorem storeLoad_memWf (sd : Side) (w : Width) (d a : Nat) (off : Off) (x : Ctx) (s : State) (hs : s.memWf = true) :
    (storeLoad sd w d a off x s).memWf = true := by
  unfold storeLoad
  (try dsimp only)
  repeat' first | with_reducible assumption | with_reducible rfl | (intro _) | with_reducible apply Core.acc_wf | with_reducible apply Core.banks_wf | with_reducible apply Core.istore_wf | with_reducible apply Core.iteFst_memWf | with_reducible apply Core.ite_memWf | with_reducible apply Core.rf_wf | with_reducible apply Core.store_wf | with_reducible apply Res.done_memWf | with_reducible apply Res.ite_memWf | with_reducible apply Res.moved_memWf | with_reducible apply Res.trap_memWf | with_reducible apply Res.wait_memWf | with_reducible apply State.asIssued_memWf | with_reducible apply State.cap_wf | with_reducible apply State.cores_wf | with_reducible apply State.hbm_wf | with_reducible apply State.iteFst_memWf | with_reducible apply State.ite_memWf | with_reducible apply deliver_memWf | with_reducible apply misaligned_memWf | with_reducible apply prot_memWf | (refine Xl.ok_of_eq ?_ (by with_reducible assumption)) | (refine Xl.fail_of_eq ?_ (by with_reducible assumption)) | (refine Xl.wait_of_eq ?_ (by with_reducible assumption)) | (refine State.fst_of_eq ?_ (by with_reducible assumption)) | (refine Core.fst_of_eq ?_ (by with_reducible assumption)) | split | (with_reducible refine State.mk_memWf ?_ ?_ ?_) | (with_reducible refine Core.mk_memWf ?_ ?_ ?_ ?_ ?_)

@[simp ↓] theorem storeStore_memWf (sd : Side) (w : Width) (d a : Nat) (off : Off) (x : Ctx) (s : State) (hs : s.memWf = true) :
    (storeStore sd w d a off x s).memWf = true := by
  unfold storeStore
  (try dsimp only)
  repeat' first | with_reducible assumption | with_reducible rfl | (intro _) | with_reducible apply Core.acc_wf | with_reducible apply Core.banks_wf | with_reducible apply Core.foldlFst_memWf | with_reducible apply Core.foldl_memWf | with_reducible apply Core.istore_wf | with_reducible apply Core.iteFst_memWf | with_reducible apply Core.ite_memWf | with_reducible apply Core.rf_wf | with_reducible apply Core.storeBy_memWf | with_reducible apply Core.store_wf | with_reducible apply Res.done_memWf | with_reducible apply Res.ite_memWf | with_reducible apply Res.moved_memWf | with_reducible apply Res.trap_memWf | with_reducible apply Res.wait_memWf | with_reducible apply State.asIssued_memWf | with_reducible apply State.cap_wf | with_reducible apply State.core_memWf | with_reducible apply State.cores_wf | with_reducible apply State.foldlFst_memWf | with_reducible apply State.foldl_memWf | with_reducible apply State.hbm_wf | with_reducible apply State.iteFst_memWf | with_reducible apply State.ite_memWf | with_reducible apply State.modCore_memWf | with_reducible apply misaligned_memWf | with_reducible apply prot_memWf | (refine Xl.ok_of_eq ?_ (by with_reducible assumption)) | (refine Xl.fail_of_eq ?_ (by with_reducible assumption)) | (refine Xl.wait_of_eq ?_ (by with_reducible assumption)) | (refine State.fst_of_eq ?_ (by with_reducible assumption)) | (refine Core.fst_of_eq ?_ (by with_reducible assumption)) | split | (with_reducible refine State.mk_memWf ?_ ?_ ?_) | (with_reducible refine Core.mk_memWf ?_ ?_ ?_ ?_ ?_)

@[simp ↓] theorem privateLoad_memWf (sd : Side) (w : Width) (d a : Nat) (off : Off) (x : Ctx) (s : State) (hs : s.memWf = true) :
    (privateLoad sd w d a off x s).memWf = true := by
  unfold privateLoad
  (try dsimp only)
  repeat' first | with_reducible assumption | with_reducible rfl | (intro _) | with_reducible apply Core.acc_wf | with_reducible apply Core.banks_wf | with_reducible apply Core.istore_wf | with_reducible apply Core.rf_wf | with_reducible apply Core.store_wf | with_reducible apply Res.done_memWf | with_reducible apply Res.moved_memWf | with_reducible apply Res.trap_memWf | with_reducible apply Res.wait_memWf | with_reducible apply State.cap_wf | with_reducible apply State.core_memWf | with_reducible apply State.cores_wf | with_reducible apply State.hbm_wf | with_reducible apply deliver_memWf | with_reducible apply misaligned_memWf | with_reducible apply prot_memWf | (refine State.fst_of_eq ?_ (by with_reducible assumption)) | (refine Core.fst_of_eq ?_ (by with_reducible assumption)) | split | (with_reducible refine State.mk_memWf ?_ ?_ ?_) | (with_reducible refine Core.mk_memWf ?_ ?_ ?_ ?_ ?_)

@[simp ↓] theorem privateStore_memWf (sd : Side) (w : Width) (d a : Nat) (off : Off) (x : Ctx) (s : State) (hs : s.memWf = true) :
    (privateStore sd w d a off x s).memWf = true := by
  unfold privateStore
  (try dsimp only)
  repeat' first | with_reducible assumption | with_reducible rfl | (intro _) | with_reducible apply Core.acc_wf | with_reducible apply Core.banks_wf | with_reducible apply Core.foldlFst_memWf | with_reducible apply Core.foldl_memWf | with_reducible apply Core.istore_wf | with_reducible apply Core.rf_wf | with_reducible apply Core.store_wf | with_reducible apply Core.writeBank_memWf | with_reducible apply Res.done_memWf | with_reducible apply Res.moved_memWf | with_reducible apply Res.trap_memWf | with_reducible apply Res.wait_memWf | with_reducible apply State.cap_wf | with_reducible apply State.core_memWf | with_reducible apply State.cores_wf | with_reducible apply State.foldlFst_memWf | with_reducible apply State.foldl_memWf | with_reducible apply State.hbm_wf | with_reducible apply State.modCore_memWf | with_reducible apply misaligned_memWf | with_reducible apply prot_memWf | (refine State.fst_of_eq ?_ (by with_reducible assumption)) | (refine Core.fst_of_eq ?_ (by with_reducible assumption)) | split | (with_reducible refine State.mk_memWf ?_ ?_ ?_) | (with_reducible refine Core.mk_memWf ?_ ?_ ?_ ?_ ?_)

@[simp ↓] theorem execLd_memWf (m : MReg) (d a : VReg) (w : Width) (off : Off) (s : State) (hs : s.memWf = true) :
    outMemWf (execLd m d a w off s) = true := by
  unfold execLd
  simp +contextual (maxDischargeDepth := 60) only [↓globalLoad_memWf, ↓run_memWf, hs, implies_true]

@[simp ↓] theorem execSt_memWf (m : MReg) (d a : VReg) (w : Width) (off : Off) (s : State) (hs : s.memWf = true) :
    outMemWf (execSt m d a w off s) = true := by
  unfold execSt
  simp +contextual (maxDischargeDepth := 60) only [↓globalStore_memWf, ↓run_memWf, hs, implies_true]

@[simp ↓] theorem execLds_memWf (d a : SReg) (w : Width) (off : Off) (s : State) (hs : s.memWf = true) :
    outMemWf (execLds d a w off s) = true := by
  unfold execLds
  simp +contextual (maxDischargeDepth := 60) only [↓globalLoad_memWf, ↓run_memWf, hs, implies_true]

@[simp ↓] theorem execSts_memWf (d a : SReg) (w : Width) (off : Off) (s : State) (hs : s.memWf = true) :
    outMemWf (execSts d a w off s) = true := by
  unfold execSts
  simp +contextual (maxDischargeDepth := 60) only [↓globalStore_memWf, ↓run_memWf, hs, implies_true]

@[simp ↓] theorem execLdlLane_memWf (m : MReg) (d a : VReg) (w : Width) (off : Off) (s : State) (hs : s.memWf = true) :
    outMemWf (execLdlLane m d a w off s) = true := by
  unfold execLdlLane
  simp +contextual (maxDischargeDepth := 60) only [↓run_memWf, ↓storeLoad_memWf, hs, implies_true]

@[simp ↓] theorem execStlLane_memWf (m : MReg) (d a : VReg) (w : Width) (off : Off) (s : State) (hs : s.memWf = true) :
    outMemWf (execStlLane m d a w off s) = true := by
  unfold execStlLane
  simp +contextual (maxDischargeDepth := 60) only [↓run_memWf, ↓storeStore_memWf, hs, implies_true]

@[simp ↓] theorem execLdlUniform_memWf (d a : SReg) (w : Width) (off : Off) (s : State) (hs : s.memWf = true) :
    outMemWf (execLdlUniform d a w off s) = true := by
  unfold execLdlUniform
  simp +contextual (maxDischargeDepth := 60) only [↓run_memWf, ↓storeLoad_memWf, hs, implies_true]

@[simp ↓] theorem execStlUniform_memWf (d a : SReg) (w : Width) (off : Off) (s : State) (hs : s.memWf = true) :
    outMemWf (execStlUniform d a w off s) = true := by
  unfold execStlUniform
  simp +contextual (maxDischargeDepth := 60) only [↓run_memWf, ↓storeStore_memWf, hs, implies_true]

@[simp ↓] theorem execLdp_memWf (m : MReg) (d a : VReg) (w : Width) (off : Off) (s : State) (hs : s.memWf = true) :
    outMemWf (execLdp m d a w off s) = true := by
  unfold execLdp
  simp +contextual (maxDischargeDepth := 60) only [↓privateLoad_memWf, ↓run_memWf, hs, implies_true]

@[simp ↓] theorem execStp_memWf (m : MReg) (d a : VReg) (w : Width) (off : Off) (s : State) (hs : s.memWf = true) :
    outMemWf (execStp m d a w off s) = true := by
  unfold execStp
  simp +contextual (maxDischargeDepth := 60) only [↓privateStore_memWf, ↓run_memWf, hs, implies_true]

@[simp ↓] theorem execLdb_memWf (m : MReg) (d : VReg) (k : BReg) (nm1 : BitVec 6) (sx : Bool) (s : State) (hs : s.memWf = true) :
    outMemWf (execLdb m d k nm1 sx s) = true := by
  unfold execLdb
  refine run_memWf _ _ _ (fun x s h => ?_) hs
  (try dsimp only)
  repeat' first | with_reducible assumption | with_reducible rfl | (intro _) | with_reducible apply State.getD_memWf | with_reducible apply Core.acc_wf | with_reducible apply Core.banks_wf | with_reducible apply Core.istore_wf | with_reducible apply Core.iteFst_memWf | with_reducible apply Core.ite_memWf | with_reducible apply Core.rf_wf | with_reducible apply Core.store_wf | with_reducible apply Res.done_memWf | with_reducible apply Res.ite_memWf | with_reducible apply Res.moved_memWf | with_reducible apply Res.trap_memWf | with_reducible apply Res.wait_memWf | with_reducible apply State.cap_wf | with_reducible apply State.core_memWf | with_reducible apply State.cores_wf | with_reducible apply State.hbm_wf | with_reducible apply State.iteFst_memWf | with_reducible apply State.ite_memWf | with_reducible apply deliver_memWf | with_reducible apply misaligned_memWf | with_reducible apply prot_memWf | (refine Xl.ok_of_eq ?_ (by with_reducible assumption)) | (refine Xl.fail_of_eq ?_ (by with_reducible assumption)) | (refine Xl.wait_of_eq ?_ (by with_reducible assumption)) | (refine State.fst_of_eq ?_ (by with_reducible assumption)) | (refine Core.fst_of_eq ?_ (by with_reducible assumption)) | split | (with_reducible refine State.mk_memWf ?_ ?_ ?_) | (with_reducible refine Core.mk_memWf ?_ ?_ ?_ ?_ ?_)

@[simp ↓] theorem execStb_memWf (m : MReg) (d : VReg) (k : BReg) (nm1 : BitVec 6) (s : State) (hs : s.memWf = true) :
    outMemWf (execStb m d k nm1 s) = true := by
  unfold execStb
  refine run_memWf _ _ _ (fun x s h => ?_) hs
  (try dsimp only)
  repeat' first | with_reducible assumption | with_reducible rfl | (intro _) | with_reducible apply State.getD_memWf | with_reducible apply Core.acc_wf | with_reducible apply Core.banks_wf | with_reducible apply Core.foldlFst_memWf | with_reducible apply Core.foldl_memWf | with_reducible apply Core.istore_wf | with_reducible apply Core.iteFst_memWf | with_reducible apply Core.ite_memWf | with_reducible apply Core.rf_wf | with_reducible apply Core.store_wf | with_reducible apply Core.writeBitsForeign_memWf | with_reducible apply Core.writeBits_memWf | with_reducible apply Res.done_memWf | with_reducible apply Res.ite_memWf | with_reducible apply Res.moved_memWf | with_reducible apply Res.trap_memWf | with_reducible apply Res.wait_memWf | with_reducible apply State.cap_wf | with_reducible apply State.core_memWf | with_reducible apply State.cores_wf | with_reducible apply State.foldlFst_memWf | with_reducible apply State.foldl_memWf | with_reducible apply State.hbm_wf | with_reducible apply State.iteFst_memWf | with_reducible apply State.ite_memWf | with_reducible apply State.modCore_memWf | with_reducible apply misaligned_memWf | with_reducible apply prot_memWf | (refine Xl.ok_of_eq ?_ (by with_reducible assumption)) | (refine Xl.fail_of_eq ?_ (by with_reducible assumption)) | (refine Xl.wait_of_eq ?_ (by with_reducible assumption)) | (refine State.fst_of_eq ?_ (by with_reducible assumption)) | (refine Core.fst_of_eq ?_ (by with_reducible assumption)) | split | (with_reducible refine State.mk_memWf ?_ ?_ ?_) | (with_reducible refine Core.mk_memWf ?_ ?_ ?_ ?_ ?_)

@[simp ↓] theorem globalAtom_memWf (sd : Side) (r : Rmw) (wide : Bool) (ops d a : Nat) (sc : Scope) (o : Order) (off : TOff) (x : Ctx) (s : State) (hs : s.memWf = true) :
    (globalAtom sd r wide ops d a sc o off x s).memWf = true := by
  unfold globalAtom
  (try dsimp only)
  repeat' first | with_reducible assumption | with_reducible rfl | (intro _) | with_reducible apply Core.acc_wf | with_reducible apply Core.banks_wf | with_reducible apply Core.istore_wf | with_reducible apply Core.iteFst_memWf | with_reducible apply Core.ite_memWf | with_reducible apply Core.rf_wf | with_reducible apply Core.store_wf | with_reducible apply Res.done_memWf | with_reducible apply Res.ite_memWf | with_reducible apply Res.moved_memWf | with_reducible apply Res.trap_memWf | with_reducible apply Res.wait_memWf | with_reducible apply State.asIssued_memWf | with_reducible apply State.cap_wf | with_reducible apply State.cores_wf | with_reducible apply State.doneOrBehind_memWf | with_reducible apply State.hbm_wf | with_reducible apply State.iteFst_memWf | with_reducible apply State.ite_memWf | with_reducible apply State.startOp_memWf | with_reducible apply State.xlate_memWf | with_reducible apply misaligned_memWf | with_reducible apply prot_memWf | (refine Xl.ok_of_eq ?_ (by with_reducible assumption)) | (refine Xl.fail_of_eq ?_ (by with_reducible assumption)) | (refine Xl.wait_of_eq ?_ (by with_reducible assumption)) | (refine State.fst_of_eq ?_ (by with_reducible assumption)) | (refine Core.fst_of_eq ?_ (by with_reducible assumption)) | split | (with_reducible refine State.mk_memWf ?_ ?_ ?_) | (with_reducible refine Core.mk_memWf ?_ ?_ ?_ ?_ ?_)

@[simp ↓] theorem storeAtom_memWf (sd : Side) (r : Rmw) (wide : Bool) (ops d a : Nat) (sc : Scope) (o : Order) (off : TOff) (x : Ctx) (s : State) (hs : s.memWf = true) :
    (storeAtom sd r wide ops d a sc o off x s).memWf = true := by
  unfold storeAtom
  (try dsimp only)
  repeat' first | with_reducible assumption | with_reducible rfl | (intro _) | with_reducible apply State.getD_memWf | with_reducible apply Core.acc_wf | with_reducible apply Core.banks_wf | with_reducible apply Core.foldlFst_memWf | with_reducible apply Core.foldl_memWf | with_reducible apply Core.istore_wf | with_reducible apply Core.iteFst_memWf | with_reducible apply Core.ite_memWf | with_reducible apply Core.rf_wf | with_reducible apply Core.storeBy_memWf | with_reducible apply Core.store_wf | with_reducible apply Res.done_memWf | with_reducible apply Res.ite_memWf | with_reducible apply Res.moved_memWf | with_reducible apply Res.trap_memWf | with_reducible apply Res.wait_memWf | with_reducible apply State.acquire_memWf | with_reducible apply State.asIssued_memWf | with_reducible apply State.cap_wf | with_reducible apply State.core_memWf | with_reducible apply State.cores_wf | with_reducible apply State.foldlFst_memWf | with_reducible apply State.foldl_memWf | with_reducible apply State.hbm_wf | with_reducible apply State.iteFst_memWf | with_reducible apply State.ite_memWf | with_reducible apply State.setCore_memWf | with_reducible apply deliver_memWf | with_reducible apply misaligned_memWf | with_reducible apply prot_memWf | (refine Xl.ok_of_eq ?_ (by with_reducible assumption)) | (refine Xl.fail_of_eq ?_ (by with_reducible assumption)) | (refine Xl.wait_of_eq ?_ (by with_reducible assumption)) | (refine State.fst_of_eq ?_ (by with_reducible assumption)) | (refine Core.fst_of_eq ?_ (by with_reducible assumption)) | split | (with_reducible refine State.mk_memWf ?_ ?_ ?_) | (with_reducible refine Core.mk_memWf ?_ ?_ ?_ ?_ ?_)

@[simp ↓] theorem atomOf_memWf (sd : Side) (sp : AtomSpace) (r : Rmw) (ops d a : Nat) (sc : Scope) (o : Order) (off : TOff) (x : Ctx) (s : State) (hs : s.memWf = true) :
    (atomOf sd sp r ops d a sc o off x s).memWf = true := by
  unfold atomOf
  simp +contextual (maxDischargeDepth := 60) only [↓Core.iteFst_memWf, ↓Core.ite_memWf, ↓Res.ite_memWf, ↓State.iteFst_memWf, ↓State.ite_memWf, ↓globalAtom_memWf, ↓storeAtom_memWf, hs, implies_true]

@[simp ↓] theorem execAtomLane_memWf (m : MReg) (sp : AtomSpace) (op : AtomOp) (d a : VReg) (sc : Scope) (o : Order) (off : TOff) (s : State) (hs : s.memWf = true) :
    outMemWf (execAtomLane m sp op d a sc o off s) = true := by
  unfold execAtomLane
  simp +contextual (maxDischargeDepth := 60) only [↓atomOf_memWf, ↓run_memWf, hs, implies_true]

@[simp ↓] theorem execCasLane_memWf (m : MReg) (sp : AtomSpace) (d a : VReg) (sc : Scope) (o : Order) (off : TOff) (s : State) (hs : s.memWf = true) :
    outMemWf (execCasLane m sp d a sc o off s) = true := by
  unfold execCasLane
  simp +contextual (maxDischargeDepth := 60) only [↓atomOf_memWf, ↓run_memWf, hs, implies_true]

@[simp ↓] theorem execAtomExchLane_memWf (m : MReg) (sp : AtomSpace) (d a : VReg) (sc : Scope) (o : Order) (off : TOff) (s : State) (hs : s.memWf = true) :
    outMemWf (execAtomExchLane m sp d a sc o off s) = true := by
  unfold execAtomExchLane
  simp +contextual (maxDischargeDepth := 60) only [↓atomOf_memWf, ↓run_memWf, hs, implies_true]

@[simp ↓] theorem execAtomUniform_memWf (sp : AtomSpace) (op : AtomOp) (d a : SReg) (sc : Scope) (o : Order) (off : TOff) (s : State) (hs : s.memWf = true) :
    outMemWf (execAtomUniform sp op d a sc o off s) = true := by
  unfold execAtomUniform
  simp +contextual (maxDischargeDepth := 60) only [↓atomOf_memWf, ↓run_memWf, hs, implies_true]

@[simp ↓] theorem execCasUniform_memWf (sp : AtomSpace) (d a : SReg) (sc : Scope) (o : Order) (off : TOff) (s : State) (hs : s.memWf = true) :
    outMemWf (execCasUniform sp d a sc o off s) = true := by
  unfold execCasUniform
  simp +contextual (maxDischargeDepth := 60) only [↓atomOf_memWf, ↓run_memWf, hs, implies_true]

@[simp ↓] theorem execAtomExchUniform_memWf (sp : AtomSpace) (d a : SReg) (sc : Scope) (o : Order) (off : TOff) (s : State) (hs : s.memWf = true) :
    outMemWf (execAtomExchUniform sp d a sc o off s) = true := by
  unfold execAtomExchUniform
  simp +contextual (maxDischargeDepth := 60) only [↓atomOf_memWf, ↓run_memWf, hs, implies_true]

@[simp ↓] theorem execQapp_memWf (m : MReg) (d a : VReg) (sc : Scope) (o : Order) (off : TOff) (s : State) (hs : s.memWf = true) :
    outMemWf (execQapp m d a sc o off s) = true := by
  unfold execQapp
  refine run_memWf _ _ _ (fun x s h => ?_) hs
  (try dsimp only)
  repeat' first | with_reducible assumption | with_reducible rfl | (intro _) | with_reducible apply Core.acc_wf | with_reducible apply Core.banks_wf | with_reducible apply Core.foldlFst_memWf | with_reducible apply Core.foldl_memWf | with_reducible apply Core.istore_wf | with_reducible apply Core.iteFst_memWf | with_reducible apply Core.ite_memWf | with_reducible apply Core.rf_wf | with_reducible apply Core.store_wf | with_reducible apply Res.done_memWf | with_reducible apply Res.ite_memWf | with_reducible apply Res.moved_memWf | with_reducible apply Res.trap_memWf | with_reducible apply Res.wait_memWf | with_reducible apply State.asIssued_memWf | with_reducible apply State.cap_wf | with_reducible apply State.core_memWf | with_reducible apply State.cores_wf | with_reducible apply State.doneOrBehind_memWf | with_reducible apply State.foldlFst_memWf | with_reducible apply State.foldl_memWf | with_reducible apply State.hbm_wf | with_reducible apply State.iteFst_memWf | with_reducible apply State.ite_memWf | with_reducible apply State.modCore_memWf | with_reducible apply State.startOp_memWf | with_reducible apply State.xlate_memWf | with_reducible apply misaligned_memWf | with_reducible apply prot_memWf | (refine Xl.ok_of_eq ?_ (by with_reducible assumption)) | (refine Xl.fail_of_eq ?_ (by with_reducible assumption)) | (refine Xl.wait_of_eq ?_ (by with_reducible assumption)) | (refine State.fst_of_eq ?_ (by with_reducible assumption)) | (refine Core.fst_of_eq ?_ (by with_reducible assumption)) | split | (with_reducible refine State.mk_memWf ?_ ?_ ?_) | (with_reducible refine Core.mk_memWf ?_ ?_ ?_ ?_ ?_)

@[simp ↓] theorem execPref_memWf (m : MReg) (kind : PrefKind) (a : VReg) (off : Off) (s : State) (hs : s.memWf = true) :
    outMemWf (execPref m kind a off s) = true := by
  unfold execPref
  simp +contextual (maxDischargeDepth := 60) only [↓Core.iteFst_memWf, ↓Core.ite_memWf, ↓Mem.wf_clear, ↓Mem.wf_filter, ↓Mem.wf_set, ↓Mem.wf_write, ↓Res.done_memWf, ↓Res.ite_memWf, ↓Res.moved_memWf, ↓Res.trap_memWf, ↓Res.wait_memWf, ↓State.core_memWf, ↓State.dropHints_memWf, ↓State.iteFst_memWf, ↓State.ite_memWf, ↓State.startOp_memWf, ↓misaligned_memWf, ↓prot_memWf, ↓run_memWf, hs, implies_true]

@[simp ↓] theorem execOvld_memWf (d : SReg) (id : OvSrc) (s : State) (hs : s.memWf = true) :
    outMemWf (execOvld d id s) = true := by
  unfold execOvld
  refine run_memWf _ _ _ (fun x s h => ?_) hs
  (try dsimp only)
  repeat' first | with_reducible assumption | with_reducible rfl | (intro _) | with_reducible apply Core.iteFst_memWf | with_reducible apply Core.ite_memWf | with_reducible apply Core.recount_memWf | with_reducible apply Res.done_memWf | with_reducible apply Res.ite_memWf | with_reducible apply Res.moved_memWf | with_reducible apply Res.trap_memWf | with_reducible apply Res.wait_memWf | with_reducible apply State.core_memWf | with_reducible apply State.iteFst_memWf | with_reducible apply State.ite_memWf | with_reducible apply State.modCore_memWf | with_reducible apply State.modGroup_memWf | with_reducible apply State.requestOv_memWf | with_reducible apply State.writeS_memWf | with_reducible apply Xl.fail_memWf | with_reducible apply Xl.ite_memWf | with_reducible apply Xl.ok_memWf | with_reducible apply Xl.wait_memWf | with_reducible apply misaligned_memWf | with_reducible apply prot_memWf | (refine State.fst_of_eq ?_ (by with_reducible assumption)) | (refine Core.fst_of_eq ?_ (by with_reducible assumption)) | split | (with_reducible refine State.mk_memWf ?_ ?_ ?_) | (with_reducible refine Core.mk_memWf ?_ ?_ ?_ ?_ ?_)

@[simp ↓] theorem execOvwait_memWf (a : SReg) (s : State) (hs : s.memWf = true) :
    outMemWf (execOvwait a s) = true := by
  unfold execOvwait
  refine run_memWf _ _ _ (fun x s h => ?_) hs
  (try dsimp only)
  repeat' first | with_reducible assumption | with_reducible rfl | (intro _) | with_reducible apply Core.iteFst_memWf | with_reducible apply Core.ite_memWf | with_reducible apply Res.done_memWf | with_reducible apply Res.ite_memWf | with_reducible apply Res.moved_memWf | with_reducible apply Res.trap_memWf | with_reducible apply Res.wait_memWf | with_reducible apply State.asIssued_memWf | with_reducible apply State.core_memWf | with_reducible apply State.iteFst_memWf | with_reducible apply State.ite_memWf | with_reducible apply State.requestOv_memWf | with_reducible apply Xl.fail_memWf | with_reducible apply Xl.ite_memWf | with_reducible apply Xl.ok_memWf | with_reducible apply Xl.wait_memWf | with_reducible apply misaligned_memWf | with_reducible apply prot_memWf | (refine Xl.ok_of_eq ?_ (by with_reducible assumption)) | (refine Xl.fail_of_eq ?_ (by with_reducible assumption)) | (refine Xl.wait_of_eq ?_ (by with_reducible assumption)) | (refine State.fst_of_eq ?_ (by with_reducible assumption)) | (refine Core.fst_of_eq ?_ (by with_reducible assumption)) | split | (with_reducible refine State.mk_memWf ?_ ?_ ?_) | (with_reducible refine Core.mk_memWf ?_ ?_ ?_ ?_ ?_)

@[simp ↓] theorem execOvrel_memWf (a : SReg) (s : State) (hs : s.memWf = true) :
    outMemWf (execOvrel a s) = true := by
  unfold execOvrel
  refine run_memWf _ _ _ (fun x s h => ?_) hs
  (try dsimp only)
  repeat' first | with_reducible assumption | with_reducible rfl | (intro _) | with_reducible apply Core.iteFst_memWf | with_reducible apply Core.ite_memWf | with_reducible apply Core.recount_memWf | with_reducible apply Res.done_memWf | with_reducible apply Res.ite_memWf | with_reducible apply Res.moved_memWf | with_reducible apply Res.trap_memWf | with_reducible apply Res.wait_memWf | with_reducible apply State.core_memWf | with_reducible apply State.iteFst_memWf | with_reducible apply State.ite_memWf | with_reducible apply State.modCore_memWf | with_reducible apply State.modGroup_memWf | with_reducible apply State.retryLoads_memWf | with_reducible apply Xl.fail_memWf | with_reducible apply Xl.ite_memWf | with_reducible apply Xl.ok_memWf | with_reducible apply Xl.wait_memWf | with_reducible apply misaligned_memWf | with_reducible apply prot_memWf | (refine State.fst_of_eq ?_ (by with_reducible assumption)) | (refine Core.fst_of_eq ?_ (by with_reducible assumption)) | split | (with_reducible refine State.mk_memWf ?_ ?_ ?_) | (with_reducible refine Core.mk_memWf ?_ ?_ ?_ ?_ ?_)

@[simp ↓] theorem execOvqry_memWf (d : SReg) (id : OvSrc) (s : State) (hs : s.memWf = true) :
    outMemWf (execOvqry d id s) = true := by
  unfold execOvqry
  refine run_memWf _ _ _ (fun x s h => ?_) hs
  (try dsimp only)
  repeat' first | with_reducible assumption | with_reducible rfl | (intro _) | with_reducible apply Core.acc_wf | with_reducible apply Core.banks_wf | with_reducible apply Core.istore_wf | with_reducible apply Core.iteFst_memWf | with_reducible apply Core.ite_memWf | with_reducible apply Core.rf_wf | with_reducible apply Core.store_wf | with_reducible apply Res.done_memWf | with_reducible apply Res.ite_memWf | with_reducible apply Res.moved_memWf | with_reducible apply Res.trap_memWf | with_reducible apply Res.wait_memWf | with_reducible apply State.cap_wf | with_reducible apply State.core_memWf | with_reducible apply State.cores_wf | with_reducible apply State.hbm_wf | with_reducible apply State.iteFst_memWf | with_reducible apply State.ite_memWf | with_reducible apply State.writeS_memWf | with_reducible apply Xl.fail_memWf | with_reducible apply Xl.ite_memWf | with_reducible apply Xl.ok_memWf | with_reducible apply Xl.wait_memWf | with_reducible apply misaligned_memWf | with_reducible apply prot_memWf | (refine State.fst_of_eq ?_ (by with_reducible assumption)) | (refine Core.fst_of_eq ?_ (by with_reducible assumption)) | split | (with_reducible refine State.mk_memWf ?_ ?_ ?_) | (with_reducible refine Core.mk_memWf ?_ ?_ ?_ ?_ ?_)

@[simp ↓] theorem Core.grant_memWf (k : Core) (gid r c : Nat) (hk : k.memWf = true) :
    (Core.grant k gid r c).memWf = true := by
  unfold Core.grant
  (try dsimp only)
  repeat' first | with_reducible assumption | with_reducible rfl | (intro _) | with_reducible apply Core.acc_wf | with_reducible apply Core.banks_wf | with_reducible apply Core.istore_wf | with_reducible apply Core.iteFst_memWf | with_reducible apply Core.ite_memWf | with_reducible apply Core.rf_wf | with_reducible apply Core.store_wf | with_reducible apply Mem.wf_clear | with_reducible apply Mem.wf_filter | with_reducible apply Mem.wf_set | with_reducible apply Mem.wf_write | with_reducible apply Res.ite_memWf | with_reducible apply State.cap_wf | with_reducible apply State.cores_wf | with_reducible apply State.hbm_wf | with_reducible apply State.iteFst_memWf | with_reducible apply State.ite_memWf | with_reducible apply Xl.fail_memWf | with_reducible apply Xl.ite_memWf | with_reducible apply Xl.ok_memWf | with_reducible apply Xl.wait_memWf | (refine State.fst_of_eq ?_ (by with_reducible assumption)) | (refine Core.fst_of_eq ?_ (by with_reducible assumption)) | split | (with_reducible refine State.mk_memWf ?_ ?_ ?_) | (with_reducible refine Core.mk_memWf ?_ ?_ ?_ ?_ ?_)

@[simp ↓] theorem Core.grantScan_memWf (k : Core) (hk : k.memWf = true) :
    (Core.grantScan k).memWf = true := by
  unfold Core.grantScan
  (try dsimp only)
  repeat' first | with_reducible assumption | with_reducible rfl | (intro _) | with_reducible apply Core.acc_wf | with_reducible apply Core.banks_wf | with_reducible apply Core.foldlFst_memWf | with_reducible apply Core.foldl_memWf | with_reducible apply Core.grant_memWf | with_reducible apply Core.istore_wf | with_reducible apply Core.iteFst_memWf | with_reducible apply Core.ite_memWf | with_reducible apply Core.rf_wf | with_reducible apply Core.store_wf | with_reducible apply Res.ite_memWf | with_reducible apply State.cap_wf | with_reducible apply State.cores_wf | with_reducible apply State.foldlFst_memWf | with_reducible apply State.foldl_memWf | with_reducible apply State.hbm_wf | with_reducible apply State.iteFst_memWf | with_reducible apply State.ite_memWf | with_reducible apply Xl.fail_memWf | with_reducible apply Xl.ite_memWf | with_reducible apply Xl.ok_memWf | with_reducible apply Xl.wait_memWf | (refine State.fst_of_eq ?_ (by with_reducible assumption)) | (refine Core.fst_of_eq ?_ (by with_reducible assumption)) | split | (with_reducible refine State.mk_memWf ?_ ?_ ?_) | (with_reducible refine Core.mk_memWf ?_ ?_ ?_ ?_ ?_)

@[simp ↓] theorem execXacq_memWf (r : BitVec 2) (s : State) (hs : s.memWf = true) :
    outMemWf (execXacq r s) = true := by
  unfold execXacq
  simp +contextual (maxDischargeDepth := 60) only [↓Core.acc_wf, ↓Core.banks_wf, ↓Core.grantScan_memWf, ↓Core.istore_wf, ↓Core.iteFst_memWf, ↓Core.ite_memWf, ↓Core.mk_memWf, ↓Core.rf_wf, ↓Core.store_wf, ↓Res.done_memWf, ↓Res.ite_memWf, ↓Res.moved_memWf, ↓Res.trap_memWf, ↓Res.wait_memWf, ↓State.cap_wf, ↓State.core_memWf, ↓State.cores_wf, ↓State.hbm_wf, ↓State.iteFst_memWf, ↓State.ite_memWf, ↓State.mk_memWf, ↓State.modCore_memWf, ↓Xl.fail_memWf, ↓Xl.ite_memWf, ↓Xl.ok_memWf, ↓Xl.wait_memWf, ↓misaligned_memWf, ↓prot_memWf, ↓run_memWf, hs, implies_true]

@[simp ↓] theorem Core.releaseChunk_memWf (k : Core) (gid r : Nat) (hk : k.memWf = true) :
    (Core.releaseChunk k gid r).memWf = true := by
  unfold Core.releaseChunk
  (try dsimp only)
  repeat' first | with_reducible assumption | with_reducible rfl | (intro _) | with_reducible apply State.getD_memWf | with_reducible apply Core.acc_wf | with_reducible apply Core.banks_wf | with_reducible apply Core.grantScan_memWf | with_reducible apply Core.istore_wf | with_reducible apply Core.iteFst_memWf | with_reducible apply Core.ite_memWf | with_reducible apply Core.rf_wf | with_reducible apply Core.store_wf | with_reducible apply Mem.wf_clear | with_reducible apply Mem.wf_filter | with_reducible apply Mem.wf_set | with_reducible apply Mem.wf_write | with_reducible apply Res.ite_memWf | with_reducible apply State.cap_wf | with_reducible apply State.cores_wf | with_reducible apply State.hbm_wf | with_reducible apply State.iteFst_memWf | with_reducible apply State.ite_memWf | with_reducible apply Xl.fail_memWf | with_reducible apply Xl.ite_memWf | with_reducible apply Xl.ok_memWf | with_reducible apply Xl.wait_memWf | (refine State.fst_of_eq ?_ (by with_reducible assumption)) | (refine Core.fst_of_eq ?_ (by with_reducible assumption)) | split | (with_reducible refine State.mk_memWf ?_ ?_ ?_) | (with_reducible refine Core.mk_memWf ?_ ?_ ?_ ?_ ?_)

@[simp ↓] theorem execXrel_memWf (r : BitVec 2) (s : State) (hs : s.memWf = true) :
    outMemWf (execXrel r s) = true := by
  unfold execXrel
  simp +contextual (maxDischargeDepth := 60) only [↓Core.iteFst_memWf, ↓Core.ite_memWf, ↓Core.releaseChunk_memWf, ↓Res.done_memWf, ↓Res.ite_memWf, ↓Res.moved_memWf, ↓Res.trap_memWf, ↓Res.wait_memWf, ↓State.core_memWf, ↓State.iteFst_memWf, ↓State.ite_memWf, ↓State.modCore_memWf, ↓Xl.fail_memWf, ↓Xl.ite_memWf, ↓Xl.ok_memWf, ↓Xl.wait_memWf, ↓misaligned_memWf, ↓prot_memWf, ↓run_memWf, hs, implies_true]

@[simp ↓] theorem uniXlate_memWf (x : Ctx) (s : State) (va : Nat) (write : Bool) (hs : s.memWf = true) :
    (uniXlate x s va write).memWf = true := by
  unfold uniXlate
  simp +contextual (maxDischargeDepth := 60) only [↓Core.iteFst_memWf, ↓Core.ite_memWf, ↓Mem.wf_clear, ↓Mem.wf_filter, ↓Mem.wf_set, ↓Mem.wf_write, ↓Res.ite_memWf, ↓State.core_memWf, ↓State.iteFst_memWf, ↓State.ite_memWf, ↓State.xlate_memWf, ↓Xl.fail_memWf, ↓Xl.ite_memWf, ↓Xl.ok_memWf, ↓Xl.wait_memWf, hs, implies_true]

@[simp ↓] theorem fatalAt_memWf (x : Ctx) (s : State) (code va : Nat) (cause : Nat) (hs : s.memWf = true) :
    (fatalAt x s code va cause).memWf = true := by
  unfold fatalAt
  simp +contextual (maxDischargeDepth := 60) only [↓Core.acc_wf, ↓Core.banks_wf, ↓Core.istore_wf, ↓Core.mk_memWf, ↓Core.rf_wf, ↓Core.store_wf, ↓Res.done_memWf, ↓Res.moved_memWf, ↓Res.trap_memWf, ↓Res.wait_memWf, ↓State.cap_wf, ↓State.core_memWf, ↓State.cores_wf, ↓State.hbm_wf, ↓State.mk_memWf, ↓State.pendTrap_memWf, ↓Xl.fail_memWf, ↓Xl.ite_memWf, ↓Xl.ok_memWf, ↓Xl.wait_memWf, ↓misaligned_memWf, ↓prot_memWf, hs, implies_true]

@[simp ↓] theorem execBara_memWf (blk : Bool) (d a : SReg) (s : State) (hs : s.memWf = true) :
    outMemWf (execBara blk d a s) = true := by
  unfold execBara
  refine run_memWf _ _ _ (fun x s h => ?_) hs
  (try dsimp only)
  repeat' first | with_reducible assumption | with_reducible rfl | (intro _) | with_reducible apply Core.acc_wf | with_reducible apply Core.banks_wf | with_reducible apply Core.istore_wf | with_reducible apply Core.iteFst_memWf | with_reducible apply Core.ite_memWf | with_reducible apply Core.l1Store_memWf | with_reducible apply Core.passFills_memWf | with_reducible apply Core.putStore64_memWf | with_reducible apply Core.rf_wf | with_reducible apply Core.store_wf | with_reducible apply Res.done_memWf | with_reducible apply Res.ite_memWf | with_reducible apply Res.moved_memWf | with_reducible apply Res.trap_memWf | with_reducible apply Res.wait_memWf | with_reducible apply State.asIssued_memWf | with_reducible apply State.cap_wf | with_reducible apply State.core_memWf | with_reducible apply State.cores_wf | with_reducible apply State.hbm_wf | with_reducible apply State.homeRead_memWf | with_reducible apply State.homeWrite_memWf | with_reducible apply State.iteFst_memWf | with_reducible apply State.ite_memWf | with_reducible apply State.modCore_memWf | with_reducible apply State.modGroup_memWf | with_reducible apply State.writeS_memWf | with_reducible apply State.xlate_memWf | with_reducible apply Xl.fail_memWf | with_reducible apply Xl.ite_memWf | with_reducible apply Xl.ok_memWf | with_reducible apply Xl.wait_memWf | with_reducible apply fatalAt_memWf | with_reducible apply misaligned_memWf | with_reducible apply prot_memWf | with_reducible apply uniXlate_memWf | (refine Xl.ok_of_eq ?_ (by with_reducible assumption)) | (refine Xl.fail_of_eq ?_ (by with_reducible assumption)) | (refine Xl.wait_of_eq ?_ (by with_reducible assumption)) | (refine State.fst_of_eq ?_ (by with_reducible assumption)) | (refine Core.fst_of_eq ?_ (by with_reducible assumption)) | split | (with_reducible refine State.mk_memWf ?_ ?_ ?_) | (with_reducible refine Core.mk_memWf ?_ ?_ ?_ ?_ ?_)

@[simp ↓] theorem execBarw_memWf (blk : Bool) (a b : SReg) (s : State) (hs : s.memWf = true) :
    outMemWf (execBarw blk a b s) = true := by
  unfold execBarw
  refine run_memWf _ _ _ (fun x s h => ?_) hs
  (try dsimp only)
  repeat' first | with_reducible assumption | with_reducible rfl | (intro _) | with_reducible apply Core.acc_wf | with_reducible apply Core.banks_wf | with_reducible apply Core.istore_wf | with_reducible apply Core.iteFst_memWf | with_reducible apply Core.ite_memWf | with_reducible apply Core.rf_wf | with_reducible apply Core.store_wf | with_reducible apply Res.done_memWf | with_reducible apply Res.ite_memWf | with_reducible apply Res.moved_memWf | with_reducible apply Res.trap_memWf | with_reducible apply Res.wait_memWf | with_reducible apply State.acquire_memWf | with_reducible apply State.asIssued_memWf | with_reducible apply State.cap_wf | with_reducible apply State.core_memWf | with_reducible apply State.cores_wf | with_reducible apply State.hbm_wf | with_reducible apply State.homeRead_memWf | with_reducible apply State.iteFst_memWf | with_reducible apply State.ite_memWf | with_reducible apply State.xlate_memWf | with_reducible apply Xl.fail_memWf | with_reducible apply Xl.ite_memWf | with_reducible apply Xl.ok_memWf | with_reducible apply Xl.wait_memWf | with_reducible apply fatalAt_memWf | with_reducible apply misaligned_memWf | with_reducible apply prot_memWf | with_reducible apply uniXlate_memWf | (refine Xl.ok_of_eq ?_ (by with_reducible assumption)) | (refine Xl.fail_of_eq ?_ (by with_reducible assumption)) | (refine Xl.wait_of_eq ?_ (by with_reducible assumption)) | (refine State.fst_of_eq ?_ (by with_reducible assumption)) | (refine Core.fst_of_eq ?_ (by with_reducible assumption)) | split | (with_reducible refine State.mk_memWf ?_ ?_ ?_) | (with_reducible refine Core.mk_memWf ?_ ?_ ?_ ?_ ?_)

@[simp ↓] theorem execWaitc_memWf (sc : Scope) (a : SReg) (b : USrc) (s : State) (hs : s.memWf = true) :
    outMemWf (execWaitc sc a b s) = true := by
  unfold execWaitc
  refine run_memWf _ _ _ (fun x s h => ?_) hs
  (try dsimp only)
  repeat' first | with_reducible assumption | with_reducible rfl | (intro _) | with_reducible apply Core.acc_wf | with_reducible apply Core.banks_wf | with_reducible apply Core.istore_wf | with_reducible apply Core.iteFst_memWf | with_reducible apply Core.ite_memWf | with_reducible apply Core.rf_wf | with_reducible apply Core.store_wf | with_reducible apply Res.done_memWf | with_reducible apply Res.ite_memWf | with_reducible apply Res.moved_memWf | with_reducible apply Res.trap_memWf | with_reducible apply Res.wait_memWf | with_reducible apply State.acquire_memWf | with_reducible apply State.asIssued_memWf | with_reducible apply State.cap_wf | with_reducible apply State.core_memWf | with_reducible apply State.cores_wf | with_reducible apply State.hbm_wf | with_reducible apply State.iteFst_memWf | with_reducible apply State.ite_memWf | with_reducible apply Xl.fail_memWf | with_reducible apply Xl.ite_memWf | with_reducible apply Xl.ok_memWf | with_reducible apply Xl.wait_memWf | with_reducible apply misaligned_memWf | with_reducible apply prot_memWf | (refine Xl.ok_of_eq ?_ (by with_reducible assumption)) | (refine Xl.fail_of_eq ?_ (by with_reducible assumption)) | (refine Xl.wait_of_eq ?_ (by with_reducible assumption)) | (refine State.fst_of_eq ?_ (by with_reducible assumption)) | (refine Core.fst_of_eq ?_ (by with_reducible assumption)) | split | (with_reducible refine State.mk_memWf ?_ ?_ ?_) | (with_reducible refine Core.mk_memWf ?_ ?_ ?_ ?_ ?_)

@[simp ↓] theorem execHalt_memWf (s : State) (hs : s.memWf = true) :
    outMemWf (execHalt s) = true := by
  unfold execHalt
  refine run_memWf _ _ _ (fun x s h => ?_) hs
  (try dsimp only)
  repeat' first | with_reducible assumption | with_reducible rfl | (intro _) | with_reducible apply Core.iteFst_memWf | with_reducible apply Core.ite_memWf | with_reducible apply Res.done_memWf | with_reducible apply Res.ite_memWf | with_reducible apply Res.moved_memWf | with_reducible apply Res.trap_memWf | with_reducible apply Res.wait_memWf | with_reducible apply State.core_memWf | with_reducible apply State.iteFst_memWf | with_reducible apply State.ite_memWf | with_reducible apply Xl.fail_memWf | with_reducible apply Xl.ite_memWf | with_reducible apply Xl.ok_memWf | with_reducible apply Xl.wait_memWf | with_reducible apply misaligned_memWf | with_reducible apply prot_memWf | (refine Xl.ok_of_eq ?_ (by with_reducible assumption)) | (refine Xl.fail_of_eq ?_ (by with_reducible assumption)) | (refine Xl.wait_of_eq ?_ (by with_reducible assumption)) | (refine State.fst_of_eq ?_ (by with_reducible assumption)) | (refine Core.fst_of_eq ?_ (by with_reducible assumption)) | split | (with_reducible refine State.mk_memWf ?_ ?_ ?_) | (with_reducible refine Core.mk_memWf ?_ ?_ ?_ ?_ ?_)

end Sys2Proof.Machine
end

