-- ==== Sys2Proof/Laws/CanonWindows.lean ====
section
/-! SUPPORT. Windows, fences and rings keep the canonical form of storage. -/

set_option linter.unusedSimpArgs false

namespace Sys2Proof.Machine

@[simp ↓] theorem State.setPathState_memWf (s : State) (e k v : Nat) (hs : s.memWf = true) :
    (State.setPathState s e k v).memWf = true := by
  unfold State.setPathState
  simp +contextual (maxDischargeDepth := 60) only [↓Core.iteFst_memWf, ↓Core.ite_memWf, ↓Res.ite_memWf, ↓State.iteFst_memWf, ↓State.ite_memWf, ↓State.setField_memWf, hs, implies_true]

@[simp ↓] theorem State.setPath_memWf (s : State) (e k : Nat) (p : Path) (hs : s.memWf = true) :
    (State.setPath s e k p).memWf = true := by
  unfold State.setPath
  simp +contextual (maxDischargeDepth := 60) only [↓Core.acc_wf, ↓Core.banks_wf, ↓Core.istore_wf, ↓Core.mk_memWf, ↓Core.rf_wf, ↓Core.store_wf, ↓State.cap_wf, ↓State.cores_wf, ↓State.hbm_wf, ↓State.mk_memWf, hs, implies_true]

@[simp ↓] theorem State.settled_memWf (s : State) (c uid : Nat) (hs : s.memWf = true) :
    (State.settled s c uid).memWf = true := by
  unfold State.settled
  simp +contextual (maxDischargeDepth := 60) only [↓Core.wake_memWf, ↓State.modCore_memWf, ↓State.ringReleases_memWf, ↓State.wakeFences_memWf, hs, implies_true]

@[simp ↓] theorem State.cmdWindow_memWf (s : State) (cl : Client) (bad : Bool) (addr : Nat) (hs : s.memWf = true) :
    (State.cmdWindow s cl bad addr).memWf = true := by
  unfold State.cmdWindow
  (try dsimp only)
  repeat' first | with_reducible assumption | with_reducible rfl | (intro _) | with_reducible apply Core.acc_wf | with_reducible apply Core.banks_wf | with_reducible apply Core.istore_wf | with_reducible apply Core.iteFst_memWf | with_reducible apply Core.ite_memWf | with_reducible apply Core.rf_wf | with_reducible apply Core.store_wf | with_reducible apply Res.ite_memWf | with_reducible apply State.cap_wf | with_reducible apply State.core_memWf | with_reducible apply State.cores_wf | with_reducible apply State.hbm_wf | with_reducible apply State.iteFst_memWf | with_reducible apply State.ite_memWf | with_reducible apply State.modCore_memWf | with_reducible apply State.postOnce_memWf | (refine EngAcc.ok_of_eq ?_ (by with_reducible assumption)) | (refine EngAcc.poison_of_eq ?_ (by with_reducible assumption)) | (refine EngAcc.fault_of_eq ?_ (by with_reducible assumption)) | (refine EngAcc.window_of_eq ?_ (by with_reducible assumption)) | (refine EngAcc.wait_of_eq ?_ (by with_reducible assumption)) | (refine State.fst_of_eq ?_ (by with_reducible assumption)) | (refine Core.fst_of_eq ?_ (by with_reducible assumption)) | split | (with_reducible refine State.mk_memWf ?_ ?_ ?_) | (with_reducible refine Core.mk_memWf ?_ ?_ ?_ ?_ ?_)

@[simp ↓] theorem State.resolve_memWf (s : State) (e k seq : Nat) (lost : Bool) (hs : s.memWf = true) :
    (State.resolve s e k seq lost).memWf = true := by
  unfold State.resolve
  (try dsimp only)
  repeat' first | with_reducible assumption | with_reducible rfl | (intro _) | with_reducible apply State.getD_memWf | with_reducible apply Core.acc_wf | with_reducible apply Core.banks_wf | with_reducible apply Core.istore_wf | with_reducible apply Core.iteFst_memWf | with_reducible apply Core.ite_memWf | with_reducible apply Core.rf_wf | with_reducible apply Core.store_wf | with_reducible apply Res.ite_memWf | with_reducible apply State.cap_wf | with_reducible apply State.cmdWindow_memWf | with_reducible apply State.core_memWf | with_reducible apply State.cores_wf | with_reducible apply State.hbm_wf | with_reducible apply State.iteFst_memWf | with_reducible apply State.ite_memWf | with_reducible apply State.setField_memWf | with_reducible apply State.setPath_memWf | with_reducible apply State.settled_memWf | (refine EngAcc.ok_of_eq ?_ (by with_reducible assumption)) | (refine EngAcc.poison_of_eq ?_ (by with_reducible assumption)) | (refine EngAcc.fault_of_eq ?_ (by with_reducible assumption)) | (refine EngAcc.window_of_eq ?_ (by with_reducible assumption)) | (refine EngAcc.wait_of_eq ?_ (by with_reducible assumption)) | (refine State.fst_of_eq ?_ (by with_reducible assumption)) | (refine Core.fst_of_eq ?_ (by with_reducible assumption)) | split | (with_reducible refine State.mk_memWf ?_ ?_ ?_) | (with_reducible refine Core.mk_memWf ?_ ?_ ?_ ?_ ?_)

@[simp ↓] theorem State.flushPath_memWf (s : State) (e k : Nat) (hs : s.memWf = true) :
    (State.flushPath s e k).memWf = true := by
  unfold State.flushPath
  simp +contextual (maxDischargeDepth := 60) only [↓Core.foldlFst_memWf, ↓Core.foldl_memWf, ↓Core.iteFst_memWf, ↓Core.ite_memWf, ↓Res.ite_memWf, ↓State.bumpField_memWf, ↓State.foldlFst_memWf, ↓State.foldl_memWf, ↓State.iteFst_memWf, ↓State.ite_memWf, ↓State.resolve_memWf, hs, implies_true]

@[simp ↓] theorem State.ackCopy_memWf (s : State) (e k seq : Nat) (hs : s.memWf = true) :
    (State.ackCopy s e k seq).memWf = true := by
  unfold State.ackCopy
  simp +contextual (maxDischargeDepth := 60) only [↓State.resolve_memWf, hs, implies_true]

@[simp ↓] theorem State.nackCopy_memWf (s : State) (e k seq : Nat) (hs : s.memWf = true) :
    (State.nackCopy s e k seq).memWf = true := by
  unfold State.nackCopy
  simp +contextual (maxDischargeDepth := 60) only [↓Core.iteFst_memWf, ↓Core.ite_memWf, ↓Res.ite_memWf, ↓State.iteFst_memWf, ↓State.ite_memWf, ↓State.resolve_memWf, ↓State.setPathState_memWf, hs, implies_true]

@[simp ↓] theorem State.unreachable_memWf (s : State) (e k : Nat) (hs : s.memWf = true) :
    (State.unreachable s e k).memWf = true := by
  unfold State.unreachable
  simp +contextual (maxDischargeDepth := 60) only [↓Core.iteFst_memWf, ↓Core.ite_memWf, ↓Res.ite_memWf, ↓State.flushPath_memWf, ↓State.iteFst_memWf, ↓State.ite_memWf, ↓State.setPathState_memWf, hs, implies_true]

@[simp ↓] theorem State.lostPath_memWf (s : State) (path : Option (Nat × Nat)) (hs : s.memWf = true) :
    (State.lostPath s path).memWf = true := by
  unfold State.lostPath
  (try dsimp only)
  repeat' first | with_reducible assumption | with_reducible rfl | (intro _) | with_reducible apply Core.acc_wf | with_reducible apply Core.banks_wf | with_reducible apply Core.istore_wf | with_reducible apply Core.rf_wf | with_reducible apply Core.store_wf | with_reducible apply State.cap_wf | with_reducible apply State.cores_wf | with_reducible apply State.hbm_wf | with_reducible apply State.unreachable_memWf | (refine EngAcc.ok_of_eq ?_ (by with_reducible assumption)) | (refine EngAcc.poison_of_eq ?_ (by with_reducible assumption)) | (refine EngAcc.fault_of_eq ?_ (by with_reducible assumption)) | (refine EngAcc.window_of_eq ?_ (by with_reducible assumption)) | (refine EngAcc.wait_of_eq ?_ (by with_reducible assumption)) | (refine State.fst_of_eq ?_ (by with_reducible assumption)) | (refine Core.fst_of_eq ?_ (by with_reducible assumption)) | split | (with_reducible refine State.mk_memWf ?_ ?_ ?_) | (with_reducible refine Core.mk_memWf ?_ ?_ ?_ ?_ ?_)

@[simp ↓] theorem State.recvArm_memWf (s : State) (a : ArmMsg) (hs : s.memWf = true) :
    (State.recvArm s a).1.memWf = true := by
  unfold State.recvArm
  simp +contextual (maxDischargeDepth := 60) only [↓Core.acc_wf, ↓Core.banks_wf, ↓Core.istore_wf, ↓Core.iteFst_memWf, ↓Core.ite_memWf, ↓Core.mk_memWf, ↓Core.rf_wf, ↓Core.store_wf, ↓Mem.wf_clear, ↓Mem.wf_filter, ↓Mem.wf_set, ↓Mem.wf_write, ↓Res.ite_memWf, ↓State.cap_wf, ↓State.cores_wf, ↓State.hbm_wf, ↓State.iteFst_memWf, ↓State.ite_memWf, ↓State.mk_memWf, ↓State.setField_memWf, hs, implies_true]

@[simp ↓] theorem State.sendArm_memWf (s : State) (e k : Nat) (hs : s.memWf = true) :
    (State.sendArm s e k).memWf = true := by
  unfold State.sendArm
  simp +contextual (maxDischargeDepth := 60) only [↓Core.iteFst_memWf, ↓Core.ite_memWf, ↓Res.ite_memWf, ↓State.iteFst_memWf, ↓State.ite_memWf, ↓State.post_memWf, ↓State.recvArm_memWf, ↓State.sendFar_memWf, ↓State.setPathState_memWf, ↓State.setPath_memWf, hs, implies_true]

@[simp ↓] theorem State.armWindow_memWf (s : State) (e : Nat) (qw0 : DWord) (hs : s.memWf = true) :
    (State.armWindow s e qw0).memWf = true := by
  unfold State.armWindow
  simp +contextual (maxDischargeDepth := 60) only [↓Core.foldlFst_memWf, ↓Core.foldl_memWf, ↓Core.iteFst_memWf, ↓Core.ite_memWf, ↓Res.ite_memWf, ↓State.foldlFst_memWf, ↓State.foldl_memWf, ↓State.iteFst_memWf, ↓State.ite_memWf, ↓State.sendArm_memWf, ↓State.setCtl_memWf, ↓State.setField_memWf, hs, implies_true]

@[simp ↓] theorem execWindowArm_memWf (e : Nat) (qw0 : DWord) (s : State) (hs : s.memWf = true) :
    outMemWf (execWindowArm e qw0 s) = true := by
  unfold execWindowArm
  simp +contextual (maxDischargeDepth := 60) only [↓State.armWindow_memWf, ↓outMemWf_fault, ↓outMemWf_ite, ↓outMemWf_next, hs, implies_true]

@[simp ↓] theorem State.disarmWindow_memWf (s : State) (e : Nat) (qw0 : DWord) (hs : s.memWf = true) :
    (State.disarmWindow s e qw0).memWf = true := by
  unfold State.disarmWindow
  simp +contextual (maxDischargeDepth := 60) only [↓Core.foldlFst_memWf, ↓Core.foldl_memWf, ↓Core.iteFst_memWf, ↓Core.ite_memWf, ↓Res.ite_memWf, ↓State.foldlFst_memWf, ↓State.foldl_memWf, ↓State.iteFst_memWf, ↓State.ite_memWf, ↓State.setCtl_memWf, ↓State.setPathState_memWf, hs, implies_true]

@[simp ↓] theorem execWindowDisarm_memWf (e : Nat) (qw0 : DWord) (s : State) (hs : s.memWf = true) :
    outMemWf (execWindowDisarm e qw0 s) = true := by
  unfold execWindowDisarm
  simp +contextual (maxDischargeDepth := 60) only [↓State.disarmWindow_memWf, ↓outMemWf_fault, ↓outMemWf_ite, ↓outMemWf_next, hs, implies_true]

@[simp ↓] theorem execArmReceive_memWf (a : ArmMsg) (s : State) (hs : s.memWf = true) :
    outMemWf (execArmReceive a s) = true := by
  unfold execArmReceive
  simp +contextual (maxDischargeDepth := 60) only [↓State.recvArm_memWf, ↓State.sendFar_memWf, ↓outMemWf_fault, ↓outMemWf_ite, ↓outMemWf_next, hs, implies_true]

@[simp ↓] theorem execArmReply_memWf (e k : Nat) (ok : Bool) (_major _minor : Nat) (s : State) (hs : s.memWf = true) :
    outMemWf (execArmReply e k ok _major _minor s) = true := by
  unfold execArmReply
  simp +contextual (maxDischargeDepth := 60) only [↓Core.iteFst_memWf, ↓Core.ite_memWf, ↓Res.ite_memWf, ↓State.flushPath_memWf, ↓State.iteFst_memWf, ↓State.ite_memWf, ↓State.setPathState_memWf, ↓outMemWf_fault, ↓outMemWf_ite, ↓outMemWf_next, hs, implies_true]

@[simp ↓] theorem State.sendCopy_memWf (s : State) (r : RStore) (k seq : Nat) (hs : s.memWf = true) :
    (State.sendCopy s r k seq).memWf = true := by
  unfold State.sendCopy
  simp +contextual (maxDischargeDepth := 60) only [↓Core.iteFst_memWf, ↓Core.ite_memWf, ↓Mem.wf_clear, ↓Mem.wf_filter, ↓Mem.wf_set, ↓Mem.wf_write, ↓Res.ite_memWf, ↓State.iteFst_memWf, ↓State.ite_memWf, ↓State.sendFar_memWf, ↓State.send_memWf, hs, implies_true]

@[simp ↓] theorem State.sequence_memWf (s : State) (r : RStore) (hs : s.memWf = true) :
    (State.sequence s r).memWf = true := by
  unfold State.sequence
  simp +contextual (maxDischargeDepth := 60) only [↓Core.acc_wf, ↓Core.banks_wf, ↓Core.foldlFst_memWf, ↓Core.foldl_memWf, ↓Core.istore_wf, ↓Core.iteFst_memWf, ↓Core.ite_memWf, ↓Core.mk_memWf, ↓Core.rf_wf, ↓Core.store_wf, ↓Res.ite_memWf, ↓State.bumpField_memWf, ↓State.cap_wf, ↓State.core_memWf, ↓State.cores_wf, ↓State.foldlFst_memWf, ↓State.foldl_memWf, ↓State.hbm_wf, ↓State.iteFst_memWf, ↓State.ite_memWf, ↓State.mk_memWf, ↓State.resolve_memWf, ↓State.sendCopy_memWf, ↓State.setField_memWf, ↓State.setPath_memWf, hs, implies_true]

@[simp ↓] theorem execReflectedStoreSequence_memWf (n : Nat) (s : State) (hs : s.memWf = true) :
    outMemWf (execReflectedStoreSequence n s) = true := by
  unfold execReflectedStoreSequence
  (try dsimp only)
  repeat' first | with_reducible assumption | with_reducible rfl | (intro _) | with_reducible apply Core.acc_wf | with_reducible apply Core.banks_wf | with_reducible apply Core.foldlFst_memWf | with_reducible apply Core.foldl_memWf | with_reducible apply Core.istore_wf | with_reducible apply Core.rf_wf | with_reducible apply Core.store_wf | with_reducible apply Mem.wf_clear | with_reducible apply Mem.wf_filter | with_reducible apply Mem.wf_set | with_reducible apply Mem.wf_write | with_reducible apply State.cap_wf | with_reducible apply State.cmdWindow_memWf | with_reducible apply State.core_memWf | with_reducible apply State.cores_wf | with_reducible apply State.foldlFst_memWf | with_reducible apply State.foldl_memWf | with_reducible apply State.hbm_wf | with_reducible apply State.modCore_memWf | with_reducible apply State.retireEntry_memWf | with_reducible apply State.sequence_memWf | with_reducible apply State.settled_memWf | with_reducible apply State.windowFault_memWf | with_reducible apply outMemWf_fault | with_reducible apply outMemWf_ite | with_reducible apply outMemWf_next | (refine EngAcc.ok_of_eq ?_ (by with_reducible assumption)) | (refine EngAcc.poison_of_eq ?_ (by with_reducible assumption)) | (refine EngAcc.fault_of_eq ?_ (by with_reducible assumption)) | (refine EngAcc.window_of_eq ?_ (by with_reducible assumption)) | (refine EngAcc.wait_of_eq ?_ (by with_reducible assumption)) | (refine State.fst_of_eq ?_ (by with_reducible assumption)) | (refine Core.fst_of_eq ?_ (by with_reducible assumption)) | split | (with_reducible refine State.mk_memWf ?_ ?_ ?_) | (with_reducible refine Core.mk_memWf ?_ ?_ ?_ ?_ ?_)

@[simp ↓] theorem execCopyAcknowledge_memWf (e k seq : Nat) (s : State) (hs : s.memWf = true) :
    outMemWf (execCopyAcknowledge e k seq s) = true := by
  unfold execCopyAcknowledge
  simp +contextual (maxDischargeDepth := 60) only [↓Core.iteFst_memWf, ↓Core.ite_memWf, ↓Res.ite_memWf, ↓State.ackCopy_memWf, ↓State.iteFst_memWf, ↓State.ite_memWf, ↓State.nackCopy_memWf, ↓outMemWf_fault, ↓outMemWf_ite, ↓outMemWf_next, hs, implies_true]

@[simp ↓] theorem execNack_memWf (e k seq : Nat) (s : State) (hs : s.memWf = true) :
    outMemWf (execNack e k seq s) = true := by
  unfold execNack
  simp +contextual (maxDischargeDepth := 60) only [↓State.nackCopy_memWf, ↓outMemWf_fault, ↓outMemWf_ite, ↓outMemWf_next, hs, implies_true]

@[simp ↓] theorem execPathUnreachableTimeout_memWf (e k : Nat) (s : State) (hs : s.memWf = true) :
    outMemWf (execPathUnreachableTimeout e k s) = true := by
  unfold execPathUnreachableTimeout
  simp +contextual (maxDischargeDepth := 60) only [↓State.unreachable_memWf, ↓outMemWf_fault, ↓outMemWf_ite, ↓outMemWf_next, hs, implies_true]

@[simp ↓] theorem execReflectedCopyArrival_memWf (x : Copy) (s : State) (hs : s.memWf = true) :
    outMemWf (execReflectedCopyArrival x s) = true := by
  unfold execReflectedCopyArrival
  (try dsimp only)
  repeat' first | with_reducible assumption | with_reducible rfl | (intro _) | with_reducible apply State.getD_memWf | with_reducible apply Core.acc_wf | with_reducible apply Core.banks_wf | with_reducible apply Core.foldlFst_memWf | with_reducible apply Core.foldl_memWf | with_reducible apply Core.istore_wf | with_reducible apply Core.iteFst_memWf | with_reducible apply Core.ite_memWf | with_reducible apply Core.rf_wf | with_reducible apply Core.store_wf | with_reducible apply Res.ite_memWf | with_reducible apply State.bumpField_memWf | with_reducible apply State.cap_wf | with_reducible apply State.cores_wf | with_reducible apply State.foldlFst_memWf | with_reducible apply State.foldl_memWf | with_reducible apply State.hbm_wf | with_reducible apply State.homeWrite_memWf | with_reducible apply State.iteFst_memWf | with_reducible apply State.ite_memWf | with_reducible apply State.post_memWf | with_reducible apply State.sendFar_memWf | with_reducible apply State.send_memWf | with_reducible apply outMemWf_fault | with_reducible apply outMemWf_ite | with_reducible apply outMemWf_next | (refine EngAcc.ok_of_eq ?_ (by with_reducible assumption)) | (refine EngAcc.poison_of_eq ?_ (by with_reducible assumption)) | (refine EngAcc.fault_of_eq ?_ (by with_reducible assumption)) | (refine EngAcc.window_of_eq ?_ (by with_reducible assumption)) | (refine EngAcc.wait_of_eq ?_ (by with_reducible assumption)) | (refine State.fst_of_eq ?_ (by with_reducible assumption)) | (refine Core.fst_of_eq ?_ (by with_reducible assumption)) | split | (with_reducible refine State.mk_memWf ?_ ?_ ?_) | (with_reducible refine Core.mk_memWf ?_ ?_ ?_ ?_ ?_)

@[simp ↓] theorem State.openFence_memWf (s : State) (f : RFence) (hs : s.memWf = true) :
    (State.openFence s f).memWf = true := by
  unfold State.openFence
  simp +contextual (maxDischargeDepth := 60) only [↓Core.acc_wf, ↓Core.banks_wf, ↓Core.istore_wf, ↓Core.mk_memWf, ↓Core.rf_wf, ↓Core.store_wf, ↓Mem.wf_clear, ↓Mem.wf_filter, ↓Mem.wf_set, ↓Mem.wf_write, ↓State.cap_wf, ↓State.core_memWf, ↓State.cores_wf, ↓State.hbm_wf, ↓State.mk_memWf, ↓State.posts_memWf, hs, implies_true]

@[simp ↓] theorem State.joinFence_memWf (s : State) (x : Ctx) (sc : Scope) (hs : s.memWf = true) :
    (State.joinFence s x sc).memWf = true := by
  unfold State.joinFence
  simp +contextual (maxDischargeDepth := 60) only [↓Core.foldlFst_memWf, ↓Core.foldl_memWf, ↓Core.iteFst_memWf, ↓Core.ite_memWf, ↓Res.ite_memWf, ↓State.core_memWf, ↓State.foldlFst_memWf, ↓State.foldl_memWf, ↓State.iteFst_memWf, ↓State.ite_memWf, ↓State.openFence_memWf, hs, implies_true]

@[simp ↓] theorem State.closeFences_memWf (s : State) (x : Ctx) (hs : s.memWf = true) :
    (State.closeFences s x).memWf = true := by
  unfold State.closeFences
  simp +contextual (maxDischargeDepth := 60) only [↓Core.acc_wf, ↓Core.banks_wf, ↓Core.istore_wf, ↓Core.mk_memWf, ↓Core.rf_wf, ↓Core.store_wf, ↓Mem.wf_clear, ↓Mem.wf_filter, ↓Mem.wf_set, ↓Mem.wf_write, ↓State.cap_wf, ↓State.cores_wf, ↓State.hbm_wf, ↓State.mk_memWf, hs, implies_true]

@[simp ↓] theorem execRfenceMarker_memWf (f c : Nat) (s : State) (hs : s.memWf = true) :
    outMemWf (execRfenceMarker f c s) = true := by
  unfold execRfenceMarker
  simp +contextual (maxDischargeDepth := 60) only [↓Core.acc_wf, ↓Core.banks_wf, ↓Core.istore_wf, ↓Core.iteFst_memWf, ↓Core.ite_memWf, ↓Core.mk_memWf, ↓Core.rf_wf, ↓Core.store_wf, ↓Res.ite_memWf, ↓State.cap_wf, ↓State.cores_wf, ↓State.hbm_wf, ↓State.iteFst_memWf, ↓State.ite_memWf, ↓State.mk_memWf, ↓State.wakeFences_memWf, ↓outMemWf_fault, ↓outMemWf_ite, ↓outMemWf_next, hs, implies_true]

@[simp ↓] theorem execFence_memWf (sc : Scope) (s : State) (hs : s.memWf = true) :
    outMemWf (execFence sc s) = true := by
  unfold execFence
  refine run_memWf _ _ _ (fun x s h => ?_) hs
  (try dsimp only)
  repeat' first | with_reducible assumption | with_reducible rfl | (intro _) | with_reducible apply Core.acc_wf | with_reducible apply Core.banks_wf | with_reducible apply Core.istore_wf | with_reducible apply Core.iteFst_memWf | with_reducible apply Core.ite_memWf | with_reducible apply Core.rf_wf | with_reducible apply Core.store_wf | with_reducible apply Res.done_memWf | with_reducible apply Res.ite_memWf | with_reducible apply Res.moved_memWf | with_reducible apply Res.trap_memWf | with_reducible apply Res.wait_memWf | with_reducible apply State.acquire_memWf | with_reducible apply State.cap_wf | with_reducible apply State.core_memWf | with_reducible apply State.cores_wf | with_reducible apply State.hbm_wf | with_reducible apply State.iteFst_memWf | with_reducible apply State.ite_memWf | with_reducible apply State.pendTrap_memWf | with_reducible apply misaligned_memWf | with_reducible apply prot_memWf | (refine Xl.ok_of_eq ?_ (by with_reducible assumption)) | (refine Xl.fail_of_eq ?_ (by with_reducible assumption)) | (refine Xl.wait_of_eq ?_ (by with_reducible assumption)) | (refine EngAcc.ok_of_eq ?_ (by with_reducible assumption)) | (refine EngAcc.poison_of_eq ?_ (by with_reducible assumption)) | (refine EngAcc.fault_of_eq ?_ (by with_reducible assumption)) | (refine EngAcc.window_of_eq ?_ (by with_reducible assumption)) | (refine EngAcc.wait_of_eq ?_ (by with_reducible assumption)) | (refine State.fst_of_eq ?_ (by with_reducible assumption)) | (refine Core.fst_of_eq ?_ (by with_reducible assumption)) | split | (with_reducible refine State.mk_memWf ?_ ?_ ?_) | (with_reducible refine Core.mk_memWf ?_ ?_ ?_ ?_ ?_)

@[simp ↓] theorem execRfence_memWf (sc : Scope) (s : State) (hs : s.memWf = true) :
    outMemWf (execRfence sc s) = true := by
  unfold execRfence
  refine run_memWf _ _ _ (fun x s h => ?_) hs
  (try dsimp only)
  repeat' first | with_reducible assumption | with_reducible rfl | (intro _) | with_reducible apply Core.acc_wf | with_reducible apply Core.banks_wf | with_reducible apply Core.istore_wf | with_reducible apply Core.iteFst_memWf | with_reducible apply Core.ite_memWf | with_reducible apply Core.rf_wf | with_reducible apply Core.store_wf | with_reducible apply Mem.wf_clear | with_reducible apply Mem.wf_filter | with_reducible apply Mem.wf_set | with_reducible apply Mem.wf_write | with_reducible apply Res.done_memWf | with_reducible apply Res.ite_memWf | with_reducible apply Res.moved_memWf | with_reducible apply Res.trap_memWf | with_reducible apply Res.wait_memWf | with_reducible apply State.acquire_memWf | with_reducible apply State.cap_wf | with_reducible apply State.closeFences_memWf | with_reducible apply State.core_memWf | with_reducible apply State.cores_wf | with_reducible apply State.hbm_wf | with_reducible apply State.iteFst_memWf | with_reducible apply State.ite_memWf | with_reducible apply State.joinFence_memWf | with_reducible apply State.pendTrap_memWf | with_reducible apply misaligned_memWf | with_reducible apply prot_memWf | (refine Xl.ok_of_eq ?_ (by with_reducible assumption)) | (refine Xl.fail_of_eq ?_ (by with_reducible assumption)) | (refine Xl.wait_of_eq ?_ (by with_reducible assumption)) | (refine EngAcc.ok_of_eq ?_ (by with_reducible assumption)) | (refine EngAcc.poison_of_eq ?_ (by with_reducible assumption)) | (refine EngAcc.fault_of_eq ?_ (by with_reducible assumption)) | (refine EngAcc.window_of_eq ?_ (by with_reducible assumption)) | (refine EngAcc.wait_of_eq ?_ (by with_reducible assumption)) | (refine State.fst_of_eq ?_ (by with_reducible assumption)) | (refine Core.fst_of_eq ?_ (by with_reducible assumption)) | split | (with_reducible refine State.mk_memWf ?_ ?_ ?_) | (with_reducible refine Core.mk_memWf ?_ ?_ ?_ ?_ ?_)

@[simp ↓] theorem ringBroken_memWf (s : State) (x : Ctx) (d v : Nat) (me : Option RingWait) (hs : s.memWf = true) :
    (ringBroken s x d v me).memWf = true := by
  unfold ringBroken
  simp +contextual (maxDischargeDepth := 60) only [↓Core.acc_wf, ↓Core.banks_wf, ↓Core.istore_wf, ↓Core.mk_memWf, ↓Core.rf_wf, ↓Core.ringFlag_memWf, ↓Core.store_wf, ↓Mem.wf_clear, ↓Mem.wf_filter, ↓Mem.wf_set, ↓Mem.wf_write, ↓Res.done_memWf, ↓Res.moved_memWf, ↓Res.trap_memWf, ↓Res.wait_memWf, ↓State.cap_wf, ↓State.core_memWf, ↓State.cores_wf, ↓State.hbm_wf, ↓State.mk_memWf, ↓State.modCore_memWf, ↓State.preciseTrap_memWf, ↓misaligned_memWf, ↓prot_memWf, hs, implies_true]

@[simp ↓] theorem cbwait_memWf (cons : Bool) (d a : SReg) (n : USrc) (x : Ctx) (s : State) (hs : s.memWf = true) :
    (cbwait cons d a n x s).memWf = true := by
  unfold cbwait
  (try dsimp only)
  repeat' first | with_reducible assumption | with_reducible rfl | (intro _) | with_reducible apply State.getD_memWf | with_reducible apply Core.acc_wf | with_reducible apply Core.banks_wf | with_reducible apply Core.istore_wf | with_reducible apply Core.iteFst_memWf | with_reducible apply Core.ite_memWf | with_reducible apply Core.rf_wf | with_reducible apply Core.ringTake_memWf | with_reducible apply Core.store_wf | with_reducible apply Mem.wf_clear | with_reducible apply Mem.wf_filter | with_reducible apply Mem.wf_set | with_reducible apply Mem.wf_write | with_reducible apply Res.done_memWf | with_reducible apply Res.ite_memWf | with_reducible apply Res.moved_memWf | with_reducible apply Res.trap_memWf | with_reducible apply Res.wait_memWf | with_reducible apply State.acquire_memWf | with_reducible apply State.advance_memWf | with_reducible apply State.asIssued_memWf | with_reducible apply State.cap_wf | with_reducible apply State.core_memWf | with_reducible apply State.cores_wf | with_reducible apply State.hbm_wf | with_reducible apply State.iteFst_memWf | with_reducible apply State.ite_memWf | with_reducible apply State.pendTrap_memWf | with_reducible apply State.preciseTrap_memWf | with_reducible apply State.setCore_memWf | with_reducible apply State.waitAt_memWf | with_reducible apply State.writeS_memWf | with_reducible apply misaligned_memWf | with_reducible apply prot_memWf | with_reducible apply ringBroken_memWf | (refine EngAcc.ok_of_eq ?_ (by with_reducible assumption)) | (refine EngAcc.poison_of_eq ?_ (by with_reducible assumption)) | (refine EngAcc.fault_of_eq ?_ (by with_reducible assumption)) | (refine EngAcc.window_of_eq ?_ (by with_reducible assumption)) | (refine EngAcc.wait_of_eq ?_ (by with_reducible assumption)) | (refine State.fst_of_eq ?_ (by with_reducible assumption)) | (refine Core.fst_of_eq ?_ (by with_reducible assumption)) | split | (with_reducible refine State.mk_memWf ?_ ?_ ?_) | (with_reducible refine Core.mk_memWf ?_ ?_ ?_ ?_ ?_)

@[simp ↓] theorem cbrel_memWf (cons : Bool) (a : SReg) (n : USrc) (x : Ctx) (s : State) (hs : s.memWf = true) :
    (cbrel cons a n x s).memWf = true := by
  unfold cbrel
  (try dsimp only)
  repeat' first | with_reducible assumption | with_reducible rfl | (intro _) | with_reducible apply Core.acc_wf | with_reducible apply Core.banks_wf | with_reducible apply Core.istore_wf | with_reducible apply Core.iteFst_memWf | with_reducible apply Core.ite_memWf | with_reducible apply Core.rf_wf | with_reducible apply Core.store_wf | with_reducible apply Res.done_memWf | with_reducible apply Res.ite_memWf | with_reducible apply Res.moved_memWf | with_reducible apply Res.trap_memWf | with_reducible apply Res.wait_memWf | with_reducible apply State.cap_wf | with_reducible apply State.core_memWf | with_reducible apply State.cores_wf | with_reducible apply State.hbm_wf | with_reducible apply State.iteFst_memWf | with_reducible apply State.ite_memWf | with_reducible apply State.ringReleases_memWf | with_reducible apply State.setCore_memWf | with_reducible apply fatalAt_memWf | with_reducible apply misaligned_memWf | with_reducible apply prot_memWf | with_reducible apply ringBroken_memWf | (refine EngAcc.ok_of_eq ?_ (by with_reducible assumption)) | (refine EngAcc.poison_of_eq ?_ (by with_reducible assumption)) | (refine EngAcc.fault_of_eq ?_ (by with_reducible assumption)) | (refine EngAcc.window_of_eq ?_ (by with_reducible assumption)) | (refine EngAcc.wait_of_eq ?_ (by with_reducible assumption)) | (refine State.fst_of_eq ?_ (by with_reducible assumption)) | (refine Core.fst_of_eq ?_ (by with_reducible assumption)) | split | (with_reducible refine State.mk_memWf ?_ ?_ ?_) | (with_reducible refine Core.mk_memWf ?_ ?_ ?_ ?_ ?_)

@[simp ↓] theorem execCbwaitProd_memWf (d a : SReg) (n : USrc) (s : State) (hs : s.memWf = true) :
    outMemWf (execCbwaitProd d a n s) = true := by
  unfold execCbwaitProd
  simp +contextual (maxDischargeDepth := 60) only [↓cbwait_memWf, ↓run_memWf, hs, implies_true]

@[simp ↓] theorem execCbwaitCons_memWf (d a : SReg) (n : USrc) (s : State) (hs : s.memWf = true) :
    outMemWf (execCbwaitCons d a n s) = true := by
  unfold execCbwaitCons
  simp +contextual (maxDischargeDepth := 60) only [↓cbwait_memWf, ↓run_memWf, hs, implies_true]

@[simp ↓] theorem execCbrelProd_memWf (a : SReg) (n : USrc) (s : State) (hs : s.memWf = true) :
    outMemWf (execCbrelProd a n s) = true := by
  unfold execCbrelProd
  simp +contextual (maxDischargeDepth := 60) only [↓cbrel_memWf, ↓run_memWf, hs, implies_true]

@[simp ↓] theorem execCbrelCons_memWf (a : SReg) (n : USrc) (s : State) (hs : s.memWf = true) :
    outMemWf (execCbrelCons a n s) = true := by
  unfold execCbrelCons
  simp +contextual (maxDischargeDepth := 60) only [↓cbrel_memWf, ↓run_memWf, hs, implies_true]

end Sys2Proof.Machine
end

