-- ==== Sys2Proof/Laws/CanonEngines.lean ====
section
/-! SUPPORT. Engine commands keep the canonical form of storage. -/

set_option linter.unusedSimpArgs false

namespace Sys2Proof.Machine

@[simp ↓] theorem Core.countColl_memWf (k : Core) (team tag : Nat) (hk : k.memWf = true) : (k.countColl team tag).2.memWf = true :=
  Core.mk_memWf (Core.rf_wf hk) (Core.banks_wf hk) (Core.store_wf hk) (Core.istore_wf hk) (Core.acc_wf hk)

@[simp ↓] theorem engineIssue_memWf (major code : Nat) (e : EngOps) (x : Ctx) (s : State) (hs : s.memWf = true) :
    (engineIssue major code e x s).memWf = true := by
  unfold engineIssue
  dsimp only
  split
  · exact Res.trap_memWf _
  · split
    · exact Res.wait_memWf hs _
    · rename_i priv _
      have hk : (if major = 0x79 then ((s.core x.core).countColl x.g.team
          ((s.core x.core).collTag (s.span x).1 ((s.asIssued x).getS x.gid e.a.toNat).toNat)) else (0, s.core x.core)).2.memWf = true := by
        split
        · exact Core.countColl_memWf _ _ _ (State.core_memWf hs _)
        · exact State.core_memWf hs _
      exact Res.done_memWf (State.postOnce_memWf _ _ (State.setCore_memWf hs (Core.mk_memWf (Core.rf_wf hk) (Core.banks_wf hk)
        (Core.store_wf hk) (Core.istore_wf hk) (Core.acc_wf hk)) _))

@[simp ↓] theorem execCpy_memWf (e : EngOps) (s : State) (hs : s.memWf = true) :
    outMemWf (execCpy e s) = true := by
  unfold execCpy
  simp +contextual (maxDischargeDepth := 60) only [↓EngAcc.fault_memWf, ↓EngAcc.ite_memWf, ↓EngAcc.ok_memWf, ↓EngAcc.poison_memWf, ↓EngAcc.wait_memWf, ↓EngAcc.window_memWf, ↓Xl.fail_memWf, ↓Xl.ite_memWf, ↓Xl.ok_memWf, ↓Xl.wait_memWf, ↓engineIssue_memWf, ↓run_memWf, hs, implies_true]

@[simp ↓] theorem execCpysl_memWf (e : EngOps) (s : State) (hs : s.memWf = true) :
    outMemWf (execCpysl e s) = true := by
  unfold execCpysl
  simp +contextual (maxDischargeDepth := 60) only [↓EngAcc.fault_memWf, ↓EngAcc.ite_memWf, ↓EngAcc.ok_memWf, ↓EngAcc.poison_memWf, ↓EngAcc.wait_memWf, ↓EngAcc.window_memWf, ↓Xl.fail_memWf, ↓Xl.ite_memWf, ↓Xl.ok_memWf, ↓Xl.wait_memWf, ↓engineIssue_memWf, ↓run_memWf, hs, implies_true]

@[simp ↓] theorem execChain_memWf (e : EngOps) (s : State) (hs : s.memWf = true) :
    outMemWf (execChain e s) = true := by
  unfold execChain
  simp +contextual (maxDischargeDepth := 60) only [↓EngAcc.fault_memWf, ↓EngAcc.ite_memWf, ↓EngAcc.ok_memWf, ↓EngAcc.poison_memWf, ↓EngAcc.wait_memWf, ↓EngAcc.window_memWf, ↓Xl.fail_memWf, ↓Xl.ite_memWf, ↓Xl.ok_memWf, ↓Xl.wait_memWf, ↓engineIssue_memWf, ↓run_memWf, hs, implies_true]

@[simp ↓] theorem execGet_memWf (e : EngOps) (s : State) (hs : s.memWf = true) :
    outMemWf (execGet e s) = true := by
  unfold execGet
  simp +contextual (maxDischargeDepth := 60) only [↓EngAcc.fault_memWf, ↓EngAcc.ite_memWf, ↓EngAcc.ok_memWf, ↓EngAcc.poison_memWf, ↓EngAcc.wait_memWf, ↓EngAcc.window_memWf, ↓Xl.fail_memWf, ↓Xl.ite_memWf, ↓Xl.ok_memWf, ↓Xl.wait_memWf, ↓engineIssue_memWf, ↓run_memWf, hs, implies_true]

@[simp ↓] theorem execPut_memWf (e : EngOps) (s : State) (hs : s.memWf = true) :
    outMemWf (execPut e s) = true := by
  unfold execPut
  simp +contextual (maxDischargeDepth := 60) only [↓EngAcc.fault_memWf, ↓EngAcc.ite_memWf, ↓EngAcc.ok_memWf, ↓EngAcc.poison_memWf, ↓EngAcc.wait_memWf, ↓EngAcc.window_memWf, ↓Xl.fail_memWf, ↓Xl.ite_memWf, ↓Xl.ok_memWf, ↓Xl.wait_memWf, ↓engineIssue_memWf, ↓run_memWf, hs, implies_true]

@[simp ↓] theorem execBagq_memWf (e : EngOps) (s : State) (hs : s.memWf = true) :
    outMemWf (execBagq e s) = true := by
  unfold execBagq
  simp +contextual (maxDischargeDepth := 60) only [↓EngAcc.fault_memWf, ↓EngAcc.ite_memWf, ↓EngAcc.ok_memWf, ↓EngAcc.poison_memWf, ↓EngAcc.wait_memWf, ↓EngAcc.window_memWf, ↓Xl.fail_memWf, ↓Xl.ite_memWf, ↓Xl.ok_memWf, ↓Xl.wait_memWf, ↓engineIssue_memWf, ↓run_memWf, hs, implies_true]

@[simp ↓] theorem execMma_memWf (c : MmaCode) (e : EngOps) (s : State) (hs : s.memWf = true) :
    outMemWf (execMma c e s) = true := by
  unfold execMma
  simp +contextual (maxDischargeDepth := 60) only [↓EngAcc.fault_memWf, ↓EngAcc.ite_memWf, ↓EngAcc.ok_memWf, ↓EngAcc.poison_memWf, ↓EngAcc.wait_memWf, ↓EngAcc.window_memWf, ↓Xl.fail_memWf, ↓Xl.ite_memWf, ↓Xl.ok_memWf, ↓Xl.wait_memWf, ↓engineIssue_memWf, ↓run_memWf, hs, implies_true]

@[simp ↓] theorem execAccld_memWf (e : EngOps) (s : State) (hs : s.memWf = true) :
    outMemWf (execAccld e s) = true := by
  unfold execAccld
  simp +contextual (maxDischargeDepth := 60) only [↓EngAcc.fault_memWf, ↓EngAcc.ite_memWf, ↓EngAcc.ok_memWf, ↓EngAcc.poison_memWf, ↓EngAcc.wait_memWf, ↓EngAcc.window_memWf, ↓Xl.fail_memWf, ↓Xl.ite_memWf, ↓Xl.ok_memWf, ↓Xl.wait_memWf, ↓engineIssue_memWf, ↓run_memWf, hs, implies_true]

@[simp ↓] theorem execAccst_memWf (e : EngOps) (s : State) (hs : s.memWf = true) :
    outMemWf (execAccst e s) = true := by
  unfold execAccst
  simp +contextual (maxDischargeDepth := 60) only [↓EngAcc.fault_memWf, ↓EngAcc.ite_memWf, ↓EngAcc.ok_memWf, ↓EngAcc.poison_memWf, ↓EngAcc.wait_memWf, ↓EngAcc.window_memWf, ↓Xl.fail_memWf, ↓Xl.ite_memWf, ↓Xl.ok_memWf, ↓Xl.wait_memWf, ↓engineIssue_memWf, ↓run_memWf, hs, implies_true]

@[simp ↓] theorem execCollAg_memWf (e : EngOps) (s : State) (hs : s.memWf = true) :
    outMemWf (execCollAg e s) = true := by
  unfold execCollAg
  simp +contextual (maxDischargeDepth := 60) only [↓EngAcc.fault_memWf, ↓EngAcc.ite_memWf, ↓EngAcc.ok_memWf, ↓EngAcc.poison_memWf, ↓EngAcc.wait_memWf, ↓EngAcc.window_memWf, ↓Xl.fail_memWf, ↓Xl.ite_memWf, ↓Xl.ok_memWf, ↓Xl.wait_memWf, ↓engineIssue_memWf, ↓run_memWf, hs, implies_true]

@[simp ↓] theorem execCollRs_memWf (e : EngOps) (s : State) (hs : s.memWf = true) :
    outMemWf (execCollRs e s) = true := by
  unfold execCollRs
  simp +contextual (maxDischargeDepth := 60) only [↓EngAcc.fault_memWf, ↓EngAcc.ite_memWf, ↓EngAcc.ok_memWf, ↓EngAcc.poison_memWf, ↓EngAcc.wait_memWf, ↓EngAcc.window_memWf, ↓Xl.fail_memWf, ↓Xl.ite_memWf, ↓Xl.ok_memWf, ↓Xl.wait_memWf, ↓engineIssue_memWf, ↓run_memWf, hs, implies_true]

@[simp ↓] theorem execCollA2a_memWf (e : EngOps) (s : State) (hs : s.memWf = true) :
    outMemWf (execCollA2a e s) = true := by
  unfold execCollA2a
  simp +contextual (maxDischargeDepth := 60) only [↓EngAcc.fault_memWf, ↓EngAcc.ite_memWf, ↓EngAcc.ok_memWf, ↓EngAcc.poison_memWf, ↓EngAcc.wait_memWf, ↓EngAcc.window_memWf, ↓Xl.fail_memWf, ↓Xl.ite_memWf, ↓Xl.ok_memWf, ↓Xl.wait_memWf, ↓engineIssue_memWf, ↓run_memWf, hs, implies_true]

@[simp ↓] theorem execCollBar_memWf (e : EngOps) (s : State) (hs : s.memWf = true) :
    outMemWf (execCollBar e s) = true := by
  unfold execCollBar
  simp +contextual (maxDischargeDepth := 60) only [↓EngAcc.fault_memWf, ↓EngAcc.ite_memWf, ↓EngAcc.ok_memWf, ↓EngAcc.poison_memWf, ↓EngAcc.wait_memWf, ↓EngAcc.window_memWf, ↓Xl.fail_memWf, ↓Xl.ite_memWf, ↓Xl.ok_memWf, ↓Xl.wait_memWf, ↓engineIssue_memWf, ↓run_memWf, hs, implies_true]

@[simp ↓] theorem State.engXlate_memWf (s : State) (c eng ctx va : Nat) (write : Bool) (who : Instr) (hs : s.memWf = true) :
    (State.engXlate s c eng ctx va write who).memWf = true := by
  unfold State.engXlate
  simp +contextual (maxDischargeDepth := 60) only [↓Core.iteFst_memWf, ↓Core.ite_memWf, ↓EngAcc.fault_memWf, ↓EngAcc.ite_memWf, ↓EngAcc.ok_memWf, ↓EngAcc.poison_memWf, ↓EngAcc.wait_memWf, ↓EngAcc.window_memWf, ↓Mem.wf_clear, ↓Mem.wf_filter, ↓Mem.wf_set, ↓Mem.wf_write, ↓Res.ite_memWf, ↓State.iteFst_memWf, ↓State.ite_memWf, ↓State.xlate_memWf, ↓Xl.fail_memWf, ↓Xl.ite_memWf, ↓Xl.ok_memWf, ↓Xl.wait_memWf, hs, implies_true]

@[simp ↓] theorem State.engRead_memWf (s : State) (c eng ctx : Nat) (who : Instr) (global : Bool) (base addr n : Nat) (hs : s.memWf = true) :
    (State.engRead s c eng ctx who global base addr n).memWf = true := by
  unfold State.engRead
  (try dsimp only)
  repeat' first | with_reducible assumption | with_reducible rfl | (intro _) | with_reducible apply Core.acc_wf | with_reducible apply Core.banks_wf | with_reducible apply Core.istore_wf | with_reducible apply Core.iteFst_memWf | with_reducible apply Core.ite_memWf | with_reducible apply Core.rf_wf | with_reducible apply Core.store_wf | with_reducible apply EngAcc.fault_memWf | with_reducible apply EngAcc.ite_memWf | with_reducible apply EngAcc.ok_memWf | with_reducible apply EngAcc.poison_memWf | with_reducible apply EngAcc.wait_memWf | with_reducible apply EngAcc.window_memWf | with_reducible apply Res.done_memWf | with_reducible apply Res.ite_memWf | with_reducible apply Res.moved_memWf | with_reducible apply Res.trap_memWf | with_reducible apply Res.wait_memWf | with_reducible apply State.cap_wf | with_reducible apply State.core_memWf | with_reducible apply State.cores_wf | with_reducible apply State.engXlate_memWf | with_reducible apply State.hbm_wf | with_reducible apply State.iteFst_memWf | with_reducible apply State.ite_memWf | with_reducible apply State.post_memWf | with_reducible apply State.targetRead_memWf | with_reducible apply Xl.fail_memWf | with_reducible apply Xl.ite_memWf | with_reducible apply Xl.ok_memWf | with_reducible apply Xl.wait_memWf | with_reducible apply misaligned_memWf | with_reducible apply prot_memWf | (refine Xl.ok_of_eq ?_ (by with_reducible assumption)) | (refine Xl.fail_of_eq ?_ (by with_reducible assumption)) | (refine Xl.wait_of_eq ?_ (by with_reducible assumption)) | (refine EngAcc.ok_of_eq ?_ (by with_reducible assumption)) | (refine EngAcc.poison_of_eq ?_ (by with_reducible assumption)) | (refine EngAcc.fault_of_eq ?_ (by with_reducible assumption)) | (refine EngAcc.window_of_eq ?_ (by with_reducible assumption)) | (refine EngAcc.wait_of_eq ?_ (by with_reducible assumption)) | (refine State.fst_of_eq ?_ (by with_reducible assumption)) | (refine Core.fst_of_eq ?_ (by with_reducible assumption)) | split | (with_reducible refine State.mk_memWf ?_ ?_ ?_) | (with_reducible refine Core.mk_memWf ?_ ?_ ?_ ?_ ?_)

@[simp ↓] theorem State.engWrite_memWf (s : State) (c eng ctx uid : Nat) (who : Instr) (n : Nat) (global : Bool) (base addr : Nat) (bs : List Byte) (hs : s.memWf = true) :
    (State.engWrite s c eng ctx uid who n global base addr bs).memWf = true := by
  unfold State.engWrite
  (try dsimp only)
  repeat' first | with_reducible assumption | with_reducible rfl | (intro _) | with_reducible apply State.getD_memWf | with_reducible apply Core.acc_wf | with_reducible apply Core.banks_wf | with_reducible apply Core.foldlFst_memWf | with_reducible apply Core.foldl_memWf | with_reducible apply Core.istore_wf | with_reducible apply Core.iteFst_memWf | with_reducible apply Core.ite_memWf | with_reducible apply Core.rf_wf | with_reducible apply Core.store_wf | with_reducible apply Core.writeStore_memWf | with_reducible apply EngAcc.fault_memWf | with_reducible apply EngAcc.ite_memWf | with_reducible apply EngAcc.ok_memWf | with_reducible apply EngAcc.poison_memWf | with_reducible apply EngAcc.wait_memWf | with_reducible apply EngAcc.window_memWf | with_reducible apply Mem.wf_clear | with_reducible apply Mem.wf_filter | with_reducible apply Mem.wf_set | with_reducible apply Mem.wf_write | with_reducible apply Res.done_memWf | with_reducible apply Res.ite_memWf | with_reducible apply Res.moved_memWf | with_reducible apply Res.trap_memWf | with_reducible apply Res.wait_memWf | with_reducible apply State.cap_wf | with_reducible apply State.core_memWf | with_reducible apply State.cores_wf | with_reducible apply State.engXlate_memWf | with_reducible apply State.foldlFst_memWf | with_reducible apply State.foldl_memWf | with_reducible apply State.hbm_wf | with_reducible apply State.iteFst_memWf | with_reducible apply State.ite_memWf | with_reducible apply State.modCore_memWf | with_reducible apply State.post_memWf | with_reducible apply State.send_memWf | with_reducible apply State.targetWrite_memWf | with_reducible apply Xl.fail_memWf | with_reducible apply Xl.ite_memWf | with_reducible apply Xl.ok_memWf | with_reducible apply Xl.wait_memWf | with_reducible apply misaligned_memWf | with_reducible apply prot_memWf | (refine Xl.ok_of_eq ?_ (by with_reducible assumption)) | (refine Xl.fail_of_eq ?_ (by with_reducible assumption)) | (refine Xl.wait_of_eq ?_ (by with_reducible assumption)) | (refine EngAcc.ok_of_eq ?_ (by with_reducible assumption)) | (refine EngAcc.poison_of_eq ?_ (by with_reducible assumption)) | (refine EngAcc.fault_of_eq ?_ (by with_reducible assumption)) | (refine EngAcc.window_of_eq ?_ (by with_reducible assumption)) | (refine EngAcc.wait_of_eq ?_ (by with_reducible assumption)) | (refine State.fst_of_eq ?_ (by with_reducible assumption)) | (refine Core.fst_of_eq ?_ (by with_reducible assumption)) | split | (with_reducible refine State.mk_memWf ?_ ?_ ?_) | (with_reducible refine Core.mk_memWf ?_ ?_ ?_ ?_ ?_)

@[simp ↓] theorem State.modCmd_memWf (s : State) (c n : Nat) (f : Cmd → Cmd) (hs : s.memWf = true) :
    (State.modCmd s c n f).memWf = true := by
  unfold State.modCmd
  simp +contextual (maxDischargeDepth := 60) only [↓Core.acc_wf, ↓Core.banks_wf, ↓Core.istore_wf, ↓Core.mk_memWf, ↓Core.rf_wf, ↓Core.store_wf, ↓EngAcc.fault_memWf, ↓EngAcc.ite_memWf, ↓EngAcc.ok_memWf, ↓EngAcc.poison_memWf, ↓EngAcc.wait_memWf, ↓EngAcc.window_memWf, ↓State.cap_wf, ↓State.cores_wf, ↓State.hbm_wf, ↓State.mk_memWf, ↓State.modCore_memWf, ↓Xl.fail_memWf, ↓Xl.ite_memWf, ↓Xl.ok_memWf, ↓Xl.wait_memWf, hs, implies_true]

@[simp ↓] theorem State.endCmd_memWf (s : State) (c n : Nat) (outcome cause : Nat) (addr resp : Nat) (hs : s.memWf = true) :
    (State.endCmd s c n outcome cause addr resp).memWf = true := by
  unfold State.endCmd
  (try dsimp only)
  repeat' first | with_reducible assumption | with_reducible rfl | (intro _) | with_reducible apply Core.acc_wf | with_reducible apply Core.banks_wf | with_reducible apply Core.istore_wf | with_reducible apply Core.rf_wf | with_reducible apply Core.store_wf | with_reducible apply EngAcc.fault_memWf | with_reducible apply EngAcc.ite_memWf | with_reducible apply EngAcc.ok_memWf | with_reducible apply EngAcc.poison_memWf | with_reducible apply EngAcc.wait_memWf | with_reducible apply EngAcc.window_memWf | with_reducible apply State.cap_wf | with_reducible apply State.cores_wf | with_reducible apply State.hbm_wf | with_reducible apply State.modCmd_memWf | with_reducible apply State.postOnce_memWf | with_reducible apply Xl.fail_memWf | with_reducible apply Xl.ite_memWf | with_reducible apply Xl.ok_memWf | with_reducible apply Xl.wait_memWf | (refine EngAcc.ok_of_eq ?_ (by with_reducible assumption)) | (refine EngAcc.poison_of_eq ?_ (by with_reducible assumption)) | (refine EngAcc.fault_of_eq ?_ (by with_reducible assumption)) | (refine EngAcc.window_of_eq ?_ (by with_reducible assumption)) | (refine EngAcc.wait_of_eq ?_ (by with_reducible assumption)) | (refine State.fst_of_eq ?_ (by with_reducible assumption)) | (refine Core.fst_of_eq ?_ (by with_reducible assumption)) | split | (with_reducible refine State.mk_memWf ?_ ?_ ?_) | (with_reducible refine Core.mk_memWf ?_ ?_ ?_ ?_ ?_)

@[simp ↓] theorem State.failAcc_memWf (s : State) (c n : Nat) (faultCode poisonCode windowCode addr : Nat) (r : EngAcc) (hs : s.memWf = true) (hr : r.memWf = true) :
    (State.failAcc s c n faultCode poisonCode windowCode addr r).memWf = true := by
  unfold State.failAcc
  (try dsimp only)
  repeat' split
  all_goals first | with_reducible assumption | with_reducible rfl | (simp +contextual (maxDischargeDepth := 60) only [↓EngAcc.fault_memWf, ↓EngAcc.ite_memWf, ↓EngAcc.ok_memWf, ↓EngAcc.poison_memWf, ↓EngAcc.wait_memWf, ↓EngAcc.window_memWf, ↓Res.done_memWf, ↓Res.moved_memWf, ↓Res.trap_memWf, ↓Res.wait_memWf, ↓State.endCmd_memWf, ↓Xl.fail_memWf, ↓Xl.ite_memWf, ↓Xl.ok_memWf, ↓Xl.wait_memWf, ↓misaligned_memWf, ↓prot_memWf, hs, hr, implies_true]) | grind [EngAcc.fault_memWf, EngAcc.ok_memWf, EngAcc.poison_memWf, EngAcc.wait_memWf, EngAcc.window_memWf, Res.done_memWf, Res.moved_memWf, Res.trap_memWf, Res.wait_memWf, State.endCmd_memWf, Xl.fail_memWf, Xl.ok_memWf, Xl.wait_memWf, misaligned_memWf, prot_memWf, Xl.memWf, EngAcc.memWf]

@[simp ↓] theorem State.renameCmd_memWf (s : State) (was : Option (Nat × Nat)) (c n : Nat) (hs : s.memWf = true) :
    (State.renameCmd s was c n).memWf = true := by
  unfold State.renameCmd
  (try dsimp only)
  repeat' first | with_reducible assumption | with_reducible rfl | (intro _) | with_reducible apply Core.acc_wf | with_reducible apply Core.banks_wf | with_reducible apply Core.istore_wf | with_reducible apply Core.iteFst_memWf | with_reducible apply Core.ite_memWf | with_reducible apply Core.rf_wf | with_reducible apply Core.store_wf | with_reducible apply EngAcc.fault_memWf | with_reducible apply EngAcc.ite_memWf | with_reducible apply EngAcc.ok_memWf | with_reducible apply EngAcc.poison_memWf | with_reducible apply EngAcc.wait_memWf | with_reducible apply EngAcc.window_memWf | with_reducible apply Res.ite_memWf | with_reducible apply State.cap_wf | with_reducible apply State.cores_wf | with_reducible apply State.hbm_wf | with_reducible apply State.iteFst_memWf | with_reducible apply State.ite_memWf | with_reducible apply Xl.fail_memWf | with_reducible apply Xl.ite_memWf | with_reducible apply Xl.ok_memWf | with_reducible apply Xl.wait_memWf | (refine EngAcc.ok_of_eq ?_ (by with_reducible assumption)) | (refine EngAcc.poison_of_eq ?_ (by with_reducible assumption)) | (refine EngAcc.fault_of_eq ?_ (by with_reducible assumption)) | (refine EngAcc.window_of_eq ?_ (by with_reducible assumption)) | (refine EngAcc.wait_of_eq ?_ (by with_reducible assumption)) | (refine State.fst_of_eq ?_ (by with_reducible assumption)) | (refine Core.fst_of_eq ?_ (by with_reducible assumption)) | split | (with_reducible refine State.mk_memWf ?_ ?_ ?_) | (with_reducible refine Core.mk_memWf ?_ ?_ ?_ ?_ ?_)

@[simp ↓] theorem State.admitCmds_memWf (s : State) (c : Nat) (hs : s.memWf = true) :
    (State.admitCmds s c).memWf = true := by
  unfold State.admitCmds
  (try dsimp only)
  repeat' first | with_reducible assumption | with_reducible rfl | (intro _) | with_reducible apply Core.acc_wf | with_reducible apply Core.banks_wf | with_reducible apply Core.istore_wf | with_reducible apply Core.iteFst_memWf | with_reducible apply Core.ite_memWf | with_reducible apply Core.rf_wf | with_reducible apply Core.store_wf | with_reducible apply EngAcc.fault_memWf | with_reducible apply EngAcc.ite_memWf | with_reducible apply EngAcc.ok_memWf | with_reducible apply EngAcc.poison_memWf | with_reducible apply EngAcc.wait_memWf | with_reducible apply EngAcc.window_memWf | with_reducible apply Mem.wf_clear | with_reducible apply Mem.wf_filter | with_reducible apply Mem.wf_set | with_reducible apply Mem.wf_write | with_reducible apply Res.ite_memWf | with_reducible apply State.cap_wf | with_reducible apply State.core_memWf | with_reducible apply State.cores_wf | with_reducible apply State.hbm_wf | with_reducible apply State.iteFst_memWf | with_reducible apply State.ite_memWf | with_reducible apply State.modCore_memWf | with_reducible apply State.postOnce_memWf | with_reducible apply State.renameCmd_memWf | with_reducible apply Xl.fail_memWf | with_reducible apply Xl.ite_memWf | with_reducible apply Xl.ok_memWf | with_reducible apply Xl.wait_memWf | (refine EngAcc.ok_of_eq ?_ (by with_reducible assumption)) | (refine EngAcc.poison_of_eq ?_ (by with_reducible assumption)) | (refine EngAcc.fault_of_eq ?_ (by with_reducible assumption)) | (refine EngAcc.window_of_eq ?_ (by with_reducible assumption)) | (refine EngAcc.wait_of_eq ?_ (by with_reducible assumption)) | (refine State.fst_of_eq ?_ (by with_reducible assumption)) | (refine Core.fst_of_eq ?_ (by with_reducible assumption)) | split | (with_reducible refine State.mk_memWf ?_ ?_ ?_) | (with_reducible refine Core.mk_memWf ?_ ?_ ?_ ?_ ?_)

@[simp ↓] theorem State.finishCmd_memWf (s : State) (c n : Nat) (extra : List Trap) (hs : s.memWf = true) :
    (State.finishCmd s c n extra).memWf = true := by
  unfold State.finishCmd
  (try dsimp only)
  repeat' split
  all_goals first | with_reducible assumption | with_reducible rfl | (simp +contextual (maxDischargeDepth := 60) only [↓Core.acc_wf, ↓Core.banks_wf, ↓Core.foldlFst_memWf, ↓Core.foldl_memWf, ↓Core.istore_wf, ↓Core.iteFst_memWf, ↓Core.ite_memWf, ↓Core.mk_memWf, ↓Core.rf_wf, ↓Core.store_wf, ↓Core.wake_memWf, ↓EngAcc.fault_memWf, ↓EngAcc.ite_memWf, ↓EngAcc.ok_memWf, ↓EngAcc.poison_memWf, ↓EngAcc.wait_memWf, ↓EngAcc.window_memWf, ↓Res.ite_memWf, ↓State.admitCmds_memWf, ↓State.cap_wf, ↓State.core_memWf, ↓State.cores_wf, ↓State.foldlFst_memWf, ↓State.foldl_memWf, ↓State.hbm_wf, ↓State.iteFst_memWf, ↓State.ite_memWf, ↓State.mk_memWf, ↓State.modCore_memWf, ↓State.pendTrap_memWf, ↓State.postOnce_memWf, ↓Xl.fail_memWf, ↓Xl.ite_memWf, ↓Xl.ok_memWf, ↓Xl.wait_memWf, hs, implies_true]) | grind [Core.iteFst_memWf, Core.wake_memWf, EngAcc.fault_memWf, EngAcc.ok_memWf, EngAcc.poison_memWf, EngAcc.wait_memWf, EngAcc.window_memWf, State.admitCmds_memWf, State.core_memWf, State.iteFst_memWf, State.pendTrap_memWf, State.postOnce_memWf, Xl.fail_memWf, Xl.ok_memWf, Xl.wait_memWf, Xl.memWf, EngAcc.memWf]

@[simp ↓] theorem State.bumpCounter_memWf (s : State) (c a : Nat) (hs : s.memWf = true) :
    (State.bumpCounter s c a).memWf = true := by
  unfold State.bumpCounter
  simp +contextual (maxDischargeDepth := 60) only [↓Core.putStore32_memWf, ↓EngAcc.fault_memWf, ↓EngAcc.ite_memWf, ↓EngAcc.ok_memWf, ↓EngAcc.poison_memWf, ↓EngAcc.wait_memWf, ↓EngAcc.window_memWf, ↓State.modCore_memWf, ↓Xl.fail_memWf, ↓Xl.ite_memWf, ↓Xl.ok_memWf, ↓Xl.wait_memWf, hs, implies_true]

@[simp ↓] theorem State.signalAt_memWf (s : State) (c n ctr : Nat) (hs : s.memWf = true) :
    (State.signalAt s c n ctr).memWf = true := by
  unfold State.signalAt
  repeat' split
  all_goals first | assumption | rfl | (simp +contextual (maxDischargeDepth := 60) only [↓Core.acc_wf, ↓Core.banks_wf, ↓Core.istore_wf, ↓Core.mk_memWf, ↓Core.rf_wf, ↓Core.store_wf, ↓EngAcc.fault_memWf, ↓EngAcc.ite_memWf, ↓EngAcc.ok_memWf, ↓EngAcc.poison_memWf, ↓EngAcc.wait_memWf, ↓EngAcc.window_memWf, ↓State.bumpCounter_memWf, ↓State.cap_wf, ↓State.cores_wf, ↓State.finishCmd_memWf, ↓State.hbm_wf, ↓State.mk_memWf, ↓Xl.fail_memWf, ↓Xl.ite_memWf, ↓Xl.ok_memWf, ↓Xl.wait_memWf, hs, implies_true])

@[simp ↓] theorem State.signal_memWf (s : State) (c n : Nat) (hs : s.memWf = true) :
    (State.signal s c n).memWf = true := by
  unfold State.signal
  simp +contextual (maxDischargeDepth := 60) only [↓EngAcc.fault_memWf, ↓EngAcc.ite_memWf, ↓EngAcc.ok_memWf, ↓EngAcc.poison_memWf, ↓EngAcc.wait_memWf, ↓EngAcc.window_memWf, ↓State.signalAt_memWf, ↓Xl.fail_memWf, ↓Xl.ite_memWf, ↓Xl.ok_memWf, ↓Xl.wait_memWf, hs, implies_true]

@[simp ↓] theorem State.allotBands_memWf (s : State) (c : Nat) (q : Cmd) (b : List Byte) (hs : s.memWf = true) :
    (State.allotBands s c q b).memWf = true := by
  unfold State.allotBands
  (try dsimp only)
  repeat' first | with_reducible assumption | with_reducible rfl | (intro _) | with_reducible apply Core.acc_wf | with_reducible apply Core.banks_wf | with_reducible apply Core.foldlFst_memWf | with_reducible apply Core.foldl_memWf | with_reducible apply Core.istore_wf | with_reducible apply Core.iteFst_memWf | with_reducible apply Core.ite_memWf | with_reducible apply Core.rf_wf | with_reducible apply Core.store_wf | with_reducible apply EngAcc.fault_memWf | with_reducible apply EngAcc.ite_memWf | with_reducible apply EngAcc.ok_memWf | with_reducible apply EngAcc.poison_memWf | with_reducible apply EngAcc.wait_memWf | with_reducible apply EngAcc.window_memWf | with_reducible apply Mem.wf_clear | with_reducible apply Mem.wf_filter | with_reducible apply Mem.wf_set | with_reducible apply Mem.wf_write | with_reducible apply Res.ite_memWf | with_reducible apply State.cap_wf | with_reducible apply State.core_memWf | with_reducible apply State.cores_wf | with_reducible apply State.foldlFst_memWf | with_reducible apply State.foldl_memWf | with_reducible apply State.hbm_wf | with_reducible apply State.iteFst_memWf | with_reducible apply State.ite_memWf | with_reducible apply State.modTeam_memWf | with_reducible apply State.setCore_memWf | with_reducible apply Xl.fail_memWf | with_reducible apply Xl.ite_memWf | with_reducible apply Xl.ok_memWf | with_reducible apply Xl.wait_memWf | (refine EngAcc.ok_of_eq ?_ (by with_reducible assumption)) | (refine EngAcc.poison_of_eq ?_ (by with_reducible assumption)) | (refine EngAcc.fault_of_eq ?_ (by with_reducible assumption)) | (refine EngAcc.window_of_eq ?_ (by with_reducible assumption)) | (refine EngAcc.wait_of_eq ?_ (by with_reducible assumption)) | (refine State.fst_of_eq ?_ (by with_reducible assumption)) | (refine Core.fst_of_eq ?_ (by with_reducible assumption)) | split | (with_reducible refine State.mk_memWf ?_ ?_ ?_) | (with_reducible refine Core.mk_memWf ?_ ?_ ?_ ?_ ?_)

@[simp ↓] theorem execEngineSelfWait_memWf (c gid : Nat) (s : State) (hs : s.memWf = true) :
    outMemWf (execEngineSelfWait c gid s) = true := by
  unfold execEngineSelfWait
  (try dsimp only)
  repeat' first | with_reducible assumption | with_reducible rfl | (intro _) | with_reducible apply Core.acc_wf | with_reducible apply Core.banks_wf | with_reducible apply Core.istore_wf | with_reducible apply Core.iteFst_memWf | with_reducible apply Core.ite_memWf | with_reducible apply Core.rf_wf | with_reducible apply Core.store_wf | with_reducible apply EngAcc.fault_memWf | with_reducible apply EngAcc.ite_memWf | with_reducible apply EngAcc.ok_memWf | with_reducible apply EngAcc.poison_memWf | with_reducible apply EngAcc.wait_memWf | with_reducible apply EngAcc.window_memWf | with_reducible apply Mem.wf_clear | with_reducible apply Mem.wf_filter | with_reducible apply Mem.wf_set | with_reducible apply Mem.wf_write | with_reducible apply Res.done_memWf | with_reducible apply Res.ite_memWf | with_reducible apply Res.moved_memWf | with_reducible apply Res.trap_memWf | with_reducible apply Res.wait_memWf | with_reducible apply State.cap_wf | with_reducible apply State.core_memWf | with_reducible apply State.cores_wf | with_reducible apply State.hbm_wf | with_reducible apply State.iteFst_memWf | with_reducible apply State.ite_memWf | with_reducible apply State.takeTrap_memWf | with_reducible apply Xl.fail_memWf | with_reducible apply Xl.ite_memWf | with_reducible apply Xl.ok_memWf | with_reducible apply Xl.wait_memWf | with_reducible apply misaligned_memWf | with_reducible apply outMemWf_fault | with_reducible apply outMemWf_ite | with_reducible apply outMemWf_next | with_reducible apply prot_memWf | (refine Xl.ok_of_eq ?_ (by with_reducible assumption)) | (refine Xl.fail_of_eq ?_ (by with_reducible assumption)) | (refine Xl.wait_of_eq ?_ (by with_reducible assumption)) | (refine EngAcc.ok_of_eq ?_ (by with_reducible assumption)) | (refine EngAcc.poison_of_eq ?_ (by with_reducible assumption)) | (refine EngAcc.fault_of_eq ?_ (by with_reducible assumption)) | (refine EngAcc.window_of_eq ?_ (by with_reducible assumption)) | (refine EngAcc.wait_of_eq ?_ (by with_reducible assumption)) | (refine State.fst_of_eq ?_ (by with_reducible assumption)) | (refine Core.fst_of_eq ?_ (by with_reducible assumption)) | split | (with_reducible refine State.mk_memWf ?_ ?_ ?_) | (with_reducible refine Core.mk_memWf ?_ ?_ ?_ ?_ ?_)

@[simp ↓] theorem State.startCopy_memWf (s : State) (c n : Nat) (q : Cmd) (hs : s.memWf = true) :
    (State.startCopy s c n q).memWf = true := by
  unfold State.startCopy
  simp +contextual (maxDischargeDepth := 60) only [↓Core.acc_wf, ↓Core.banks_wf, ↓Core.istore_wf, ↓Core.iteFst_memWf, ↓Core.ite_memWf, ↓Core.mk_memWf, ↓Core.rf_wf, ↓Core.store_wf, ↓EngAcc.fault_memWf, ↓EngAcc.ite_memWf, ↓EngAcc.ok_memWf, ↓EngAcc.poison_memWf, ↓EngAcc.wait_memWf, ↓EngAcc.window_memWf, ↓Res.ite_memWf, ↓State.cap_wf, ↓State.core_memWf, ↓State.cores_wf, ↓State.endCmd_memWf, ↓State.hbm_wf, ↓State.iteFst_memWf, ↓State.ite_memWf, ↓State.mk_memWf, ↓State.modCmd_memWf, ↓State.post_memWf, ↓State.resume_memWf, ↓Xl.fail_memWf, ↓Xl.ite_memWf, ↓Xl.ok_memWf, ↓Xl.wait_memWf, hs, implies_true]

@[simp ↓] theorem execCopyStep_memWf (c n : Nat) (s : State) (hs : s.memWf = true) :
    outMemWf (execCopyStep c n s) = true := by
  unfold execCopyStep
  (try dsimp only)
  repeat' first | with_reducible assumption | with_reducible rfl | (intro _) | with_reducible apply Core.acc_wf | with_reducible apply Core.banks_wf | with_reducible apply Core.istore_wf | with_reducible apply Core.iteFst_memWf | with_reducible apply Core.ite_memWf | with_reducible apply Core.rf_wf | with_reducible apply Core.store_wf | with_reducible apply EngAcc.fault_memWf | with_reducible apply EngAcc.ite_memWf | with_reducible apply EngAcc.ok_memWf | with_reducible apply EngAcc.poison_memWf | with_reducible apply EngAcc.wait_memWf | with_reducible apply EngAcc.window_memWf | with_reducible apply Mem.wf_clear | with_reducible apply Mem.wf_filter | with_reducible apply Mem.wf_set | with_reducible apply Mem.wf_write | with_reducible apply Res.done_memWf | with_reducible apply Res.ite_memWf | with_reducible apply Res.moved_memWf | with_reducible apply Res.trap_memWf | with_reducible apply Res.wait_memWf | with_reducible apply State.cap_wf | with_reducible apply State.cores_wf | with_reducible apply State.endCmd_memWf | with_reducible apply State.engRead_memWf | with_reducible apply State.engWrite_memWf | with_reducible apply State.failAcc_memWf | with_reducible apply State.hbm_wf | with_reducible apply State.iteFst_memWf | with_reducible apply State.ite_memWf | with_reducible apply State.modCmd_memWf | with_reducible apply State.post_memWf | with_reducible apply Xl.fail_memWf | with_reducible apply Xl.ite_memWf | with_reducible apply Xl.ok_memWf | with_reducible apply Xl.wait_memWf | with_reducible apply misaligned_memWf | with_reducible apply outMemWf_fault | with_reducible apply outMemWf_ite | with_reducible apply outMemWf_next | with_reducible apply prot_memWf | (refine Xl.ok_of_eq ?_ (by with_reducible assumption)) | (refine Xl.fail_of_eq ?_ (by with_reducible assumption)) | (refine Xl.wait_of_eq ?_ (by with_reducible assumption)) | (refine EngAcc.ok_of_eq ?_ (by with_reducible assumption)) | (refine EngAcc.poison_of_eq ?_ (by with_reducible assumption)) | (refine EngAcc.fault_of_eq ?_ (by with_reducible assumption)) | (refine EngAcc.window_of_eq ?_ (by with_reducible assumption)) | (refine EngAcc.wait_of_eq ?_ (by with_reducible assumption)) | (refine State.fst_of_eq ?_ (by with_reducible assumption)) | (refine Core.fst_of_eq ?_ (by with_reducible assumption)) | split | (with_reducible refine State.mk_memWf ?_ ?_ ?_) | (with_reducible refine Core.mk_memWf ?_ ?_ ?_ ?_ ?_)

@[simp ↓] theorem State.recordStep_memWf (s : State) (c n : Nat) (q : Cmd) (r : Bool × Bool × Nat × Nat × Nat) (hs : s.memWf = true) :
    (State.recordStep s c n q r).memWf = true := by
  unfold State.recordStep
  (try dsimp only)
  repeat' first | with_reducible assumption | with_reducible rfl | (intro _) | with_reducible apply Core.acc_wf | with_reducible apply Core.banks_wf | with_reducible apply Core.istore_wf | with_reducible apply Core.iteFst_memWf | with_reducible apply Core.ite_memWf | with_reducible apply Core.rf_wf | with_reducible apply Core.store_wf | with_reducible apply EngAcc.fault_memWf | with_reducible apply EngAcc.ite_memWf | with_reducible apply EngAcc.ok_memWf | with_reducible apply EngAcc.poison_memWf | with_reducible apply EngAcc.wait_memWf | with_reducible apply EngAcc.window_memWf | with_reducible apply Mem.wf_clear | with_reducible apply Mem.wf_filter | with_reducible apply Mem.wf_set | with_reducible apply Mem.wf_write | with_reducible apply Res.done_memWf | with_reducible apply Res.ite_memWf | with_reducible apply Res.moved_memWf | with_reducible apply Res.trap_memWf | with_reducible apply Res.wait_memWf | with_reducible apply State.cap_wf | with_reducible apply State.cores_wf | with_reducible apply State.emit_memWf | with_reducible apply State.engRead_memWf | with_reducible apply State.engWrite_memWf | with_reducible apply State.failAcc_memWf | with_reducible apply State.hbm_wf | with_reducible apply State.iteFst_memWf | with_reducible apply State.ite_memWf | with_reducible apply State.modCmd_memWf | with_reducible apply State.post_memWf | with_reducible apply Xl.fail_memWf | with_reducible apply Xl.ite_memWf | with_reducible apply Xl.ok_memWf | with_reducible apply Xl.wait_memWf | with_reducible apply misaligned_memWf | with_reducible apply prot_memWf | (refine Xl.ok_of_eq ?_ (by with_reducible assumption)) | (refine Xl.fail_of_eq ?_ (by with_reducible assumption)) | (refine Xl.wait_of_eq ?_ (by with_reducible assumption)) | (refine EngAcc.ok_of_eq ?_ (by with_reducible assumption)) | (refine EngAcc.poison_of_eq ?_ (by with_reducible assumption)) | (refine EngAcc.fault_of_eq ?_ (by with_reducible assumption)) | (refine EngAcc.window_of_eq ?_ (by with_reducible assumption)) | (refine EngAcc.wait_of_eq ?_ (by with_reducible assumption)) | (refine State.fst_of_eq ?_ (by with_reducible assumption)) | (refine Core.fst_of_eq ?_ (by with_reducible assumption)) | split | (with_reducible refine State.mk_memWf ?_ ?_ ?_) | (with_reducible refine Core.mk_memWf ?_ ?_ ?_ ?_ ?_)

@[simp ↓] theorem State.failRecord_memWf (s : State) (c n : Nat) (hs : s.memWf = true) :
    (State.failRecord s c n).memWf = true := by
  unfold State.failRecord
  (try dsimp only)
  repeat' first | with_reducible assumption | with_reducible rfl | (intro _) | with_reducible apply Core.acc_wf | with_reducible apply Core.banks_wf | with_reducible apply Core.istore_wf | with_reducible apply Core.iteFst_memWf | with_reducible apply Core.ite_memWf | with_reducible apply Core.rf_wf | with_reducible apply Core.store_wf | with_reducible apply EngAcc.fault_memWf | with_reducible apply EngAcc.ite_memWf | with_reducible apply EngAcc.ok_memWf | with_reducible apply EngAcc.poison_memWf | with_reducible apply EngAcc.wait_memWf | with_reducible apply EngAcc.window_memWf | with_reducible apply Res.ite_memWf | with_reducible apply State.cap_wf | with_reducible apply State.cores_wf | with_reducible apply State.endCmd_memWf | with_reducible apply State.hbm_wf | with_reducible apply State.iteFst_memWf | with_reducible apply State.ite_memWf | with_reducible apply State.modCmd_memWf | with_reducible apply State.postOnce_memWf | with_reducible apply Xl.fail_memWf | with_reducible apply Xl.ite_memWf | with_reducible apply Xl.ok_memWf | with_reducible apply Xl.wait_memWf | (refine EngAcc.ok_of_eq ?_ (by with_reducible assumption)) | (refine EngAcc.poison_of_eq ?_ (by with_reducible assumption)) | (refine EngAcc.fault_of_eq ?_ (by with_reducible assumption)) | (refine EngAcc.window_of_eq ?_ (by with_reducible assumption)) | (refine EngAcc.wait_of_eq ?_ (by with_reducible assumption)) | (refine State.fst_of_eq ?_ (by with_reducible assumption)) | (refine Core.fst_of_eq ?_ (by with_reducible assumption)) | split | (with_reducible refine State.mk_memWf ?_ ?_ ?_) | (with_reducible refine Core.mk_memWf ?_ ?_ ?_ ?_ ?_)

@[simp ↓] theorem execTransferRecord_memWf (c n : Nat) (r : HostEnd) (s : State) (hs : s.memWf = true) :
    outMemWf (execTransferRecord c n r s) = true := by
  unfold execTransferRecord
  (try dsimp only)
  repeat' first | with_reducible assumption | with_reducible rfl | (intro _) | with_reducible apply Core.acc_wf | with_reducible apply Core.banks_wf | with_reducible apply Core.istore_wf | with_reducible apply Core.iteFst_memWf | with_reducible apply Core.ite_memWf | with_reducible apply Core.rf_wf | with_reducible apply Core.store_wf | with_reducible apply EngAcc.fault_memWf | with_reducible apply EngAcc.ite_memWf | with_reducible apply EngAcc.ok_memWf | with_reducible apply EngAcc.poison_memWf | with_reducible apply EngAcc.wait_memWf | with_reducible apply EngAcc.window_memWf | with_reducible apply Res.ite_memWf | with_reducible apply State.cap_wf | with_reducible apply State.cores_wf | with_reducible apply State.endCmd_memWf | with_reducible apply State.engRead_memWf | with_reducible apply State.failAcc_memWf | with_reducible apply State.failRecord_memWf | with_reducible apply State.hbm_wf | with_reducible apply State.iteFst_memWf | with_reducible apply State.ite_memWf | with_reducible apply State.modCmd_memWf | with_reducible apply State.postOnce_memWf | with_reducible apply State.recordStep_memWf | with_reducible apply Xl.fail_memWf | with_reducible apply Xl.ite_memWf | with_reducible apply Xl.ok_memWf | with_reducible apply Xl.wait_memWf | with_reducible apply outMemWf_fault | with_reducible apply outMemWf_ite | with_reducible apply outMemWf_next | (refine Xl.ok_of_eq ?_ (by with_reducible assumption)) | (refine Xl.fail_of_eq ?_ (by with_reducible assumption)) | (refine Xl.wait_of_eq ?_ (by with_reducible assumption)) | (refine EngAcc.ok_of_eq ?_ (by with_reducible assumption)) | (refine EngAcc.poison_of_eq ?_ (by with_reducible assumption)) | (refine EngAcc.fault_of_eq ?_ (by with_reducible assumption)) | (refine EngAcc.window_of_eq ?_ (by with_reducible assumption)) | (refine EngAcc.wait_of_eq ?_ (by with_reducible assumption)) | (refine State.fst_of_eq ?_ (by with_reducible assumption)) | (refine Core.fst_of_eq ?_ (by with_reducible assumption)) | split | (with_reducible refine State.mk_memWf ?_ ?_ ?_) | (with_reducible refine Core.mk_memWf ?_ ?_ ?_ ?_ ?_)

@[simp ↓] theorem State.copySignal_memWf (s : State) (c n : Nat) (q : Cmd) (hs : s.memWf = true) :
    (State.copySignal s c n q).memWf = true := by
  unfold State.copySignal
  dsimp only
  split
  · split
    · exact State.finishCmd_memWf _ _ _ _ hs
    · split
      · exact State.finishCmd_memWf _ _ _ _ (State.setCore_memWf hs
          (Core.ringGive_memWf _ _ _ _ _ (State.core_memWf hs _) _ (by with_reducible assumption)) _)
      · exact State.finishCmd_memWf _ _ _ _ (State.setCore_memWf hs (Core.ringFlag_memWf _ _ _ (State.core_memWf hs _)) _)
  · exact State.finishCmd_memWf _ _ _ _ (State.bumpCounter_memWf _ _ _ hs)

@[simp ↓] theorem execCopyComplete_memWf (c n : Nat) (s : State) (hs : s.memWf = true) :
    outMemWf (execCopyComplete c n s) = true := by
  unfold execCopyComplete
  (try dsimp only)
  repeat' first | with_reducible assumption | with_reducible rfl | (intro _) | with_reducible apply Core.acc_wf | with_reducible apply Core.banks_wf | with_reducible apply Core.istore_wf | with_reducible apply Core.iteFst_memWf | with_reducible apply Core.ite_memWf | with_reducible apply Core.rf_wf | with_reducible apply Core.store_wf | with_reducible apply Core.writeStore_memWf | with_reducible apply EngAcc.fault_memWf | with_reducible apply EngAcc.ite_memWf | with_reducible apply EngAcc.ok_memWf | with_reducible apply EngAcc.poison_memWf | with_reducible apply EngAcc.wait_memWf | with_reducible apply EngAcc.window_memWf | with_reducible apply Res.ite_memWf | with_reducible apply State.cap_wf | with_reducible apply State.copySignal_memWf | with_reducible apply State.cores_wf | with_reducible apply State.emit_memWf | with_reducible apply State.hbm_wf | with_reducible apply State.iteFst_memWf | with_reducible apply State.ite_memWf | with_reducible apply State.modCmd_memWf | with_reducible apply State.modCore_memWf | with_reducible apply Xl.fail_memWf | with_reducible apply Xl.ite_memWf | with_reducible apply Xl.ok_memWf | with_reducible apply Xl.wait_memWf | with_reducible apply outMemWf_fault | with_reducible apply outMemWf_ite | with_reducible apply outMemWf_next | (refine EngAcc.ok_of_eq ?_ (by with_reducible assumption)) | (refine EngAcc.poison_of_eq ?_ (by with_reducible assumption)) | (refine EngAcc.fault_of_eq ?_ (by with_reducible assumption)) | (refine EngAcc.window_of_eq ?_ (by with_reducible assumption)) | (refine EngAcc.wait_of_eq ?_ (by with_reducible assumption)) | (refine State.fst_of_eq ?_ (by with_reducible assumption)) | (refine Core.fst_of_eq ?_ (by with_reducible assumption)) | split | (with_reducible refine State.mk_memWf ?_ ?_ ?_) | (with_reducible refine Core.mk_memWf ?_ ?_ ?_ ?_ ?_)

@[simp ↓] theorem State.engReadAll_memWf (f : Nat) (s : State) (c eng ctx : Nat) (who : Instr) (global : Bool) (base addr n : Nat)
    (hs : s.memWf = true) : (State.engReadAll f s c eng ctx who global base addr n).memWf = true := by
  induction f generalizing s addr n with
  | zero => exact hs
  | succ f ih =>
    unfold State.engReadAll
    dsimp only
    generalize (if global = true then min n (4096 - addr % 4096) else n) = m
    have h := State.engRead_memWf s c eng ctx who global base addr m hs
    split
    · have hs' := EngAcc.ok_of_eq h ‹_›
      split
      · exact hs'
      · have h2 := ih _ (addr + m) (n - m) hs'
        split
        · exact EngAcc.ok_of_eq h2 ‹_›
        · exact h2
    · exact h

@[simp ↓] theorem State.readOperand_memWf (s : State) (c : Nat) (q : Cmd) (who : Instr) (src quad at_ n : Nat) (hs : s.memWf = true) :
    (State.readOperand s c q who src quad at_ n).memWf = true := by
  unfold State.readOperand
  (try dsimp only)
  repeat' first | with_reducible assumption | with_reducible rfl | (intro _) | with_reducible apply Core.acc_wf | with_reducible apply Core.banks_wf | with_reducible apply Core.istore_wf | with_reducible apply Core.rf_wf | with_reducible apply Core.store_wf | with_reducible apply EngAcc.fault_memWf | with_reducible apply EngAcc.ite_memWf | with_reducible apply EngAcc.ok_memWf | with_reducible apply EngAcc.poison_memWf | with_reducible apply EngAcc.wait_memWf | with_reducible apply EngAcc.window_memWf | with_reducible apply State.cap_wf | with_reducible apply State.cores_wf | with_reducible apply State.engReadAll_memWf | with_reducible apply State.hbm_wf | with_reducible apply Xl.fail_memWf | with_reducible apply Xl.ite_memWf | with_reducible apply Xl.ok_memWf | with_reducible apply Xl.wait_memWf | (refine EngAcc.ok_of_eq ?_ (by with_reducible assumption)) | (refine EngAcc.poison_of_eq ?_ (by with_reducible assumption)) | (refine EngAcc.fault_of_eq ?_ (by with_reducible assumption)) | (refine EngAcc.window_of_eq ?_ (by with_reducible assumption)) | (refine EngAcc.wait_of_eq ?_ (by with_reducible assumption)) | (refine State.fst_of_eq ?_ (by with_reducible assumption)) | (refine Core.fst_of_eq ?_ (by with_reducible assumption)) | split | (with_reducible refine State.mk_memWf ?_ ?_ ?_) | (with_reducible refine Core.mk_memWf ?_ ?_ ?_ ?_ ?_)

@[simp ↓] theorem State.startMatrix_memWf (s : State) (c n : Nat) (q : Cmd) (hs : s.memWf = true) :
    (State.startMatrix s c n q).memWf = true := by
  unfold State.startMatrix
  simp +contextual (maxDischargeDepth := 60) only [↓Core.acc_wf, ↓Core.banks_wf, ↓Core.istore_wf, ↓Core.iteFst_memWf, ↓Core.ite_memWf, ↓Core.mk_memWf, ↓Core.rf_wf, ↓Core.store_wf, ↓EngAcc.fault_memWf, ↓EngAcc.ite_memWf, ↓EngAcc.ok_memWf, ↓EngAcc.poison_memWf, ↓EngAcc.wait_memWf, ↓EngAcc.window_memWf, ↓Res.ite_memWf, ↓State.allotBands_memWf, ↓State.cap_wf, ↓State.core_memWf, ↓State.cores_wf, ↓State.endCmd_memWf, ↓State.hbm_wf, ↓State.iteFst_memWf, ↓State.ite_memWf, ↓State.mk_memWf, ↓State.modCmd_memWf, ↓State.post_memWf, ↓State.resume_memWf, ↓State.send_memWf, ↓Xl.fail_memWf, ↓Xl.ite_memWf, ↓Xl.ok_memWf, ↓Xl.wait_memWf, hs, implies_true]

@[simp ↓] theorem State.computeRow_memWf (s : State) (c n : Nat) (q : Cmd) (sm ss : List Byte) (hs : s.memWf = true) :
    (State.computeRow s c n q sm ss).memWf = true := by
  unfold State.computeRow
  simp +contextual (maxDischargeDepth := 60) only [↓Core.acc_wf, ↓Core.banks_wf, ↓Core.foldlFst_memWf, ↓Core.foldl_memWf, ↓Core.istore_wf, ↓Core.iteFst_memWf, ↓Core.ite_memWf, ↓Core.mk_memWf, ↓Core.rf_wf, ↓Core.store_wf, ↓EngAcc.fault_memWf, ↓EngAcc.ite_memWf, ↓EngAcc.ok_memWf, ↓EngAcc.poison_memWf, ↓EngAcc.wait_memWf, ↓EngAcc.window_memWf, ↓Mem.wf_clear, ↓Mem.wf_filter, ↓Mem.wf_set, ↓Mem.wf_write, ↓Res.ite_memWf, ↓State.cap_wf, ↓State.core_memWf, ↓State.cores_wf, ↓State.foldlFst_memWf, ↓State.foldl_memWf, ↓State.hbm_wf, ↓State.iteFst_memWf, ↓State.ite_memWf, ↓State.mk_memWf, ↓State.modCmd_memWf, ↓State.setCore_memWf, ↓Xl.fail_memWf, ↓Xl.ite_memWf, ↓Xl.ok_memWf, ↓Xl.wait_memWf, hs, implies_true]

@[simp ↓] theorem State.loadW_memWf (s : State) (c : Nat) (q : Cmd) (who : Instr) (r : WRecord) (hs : s.memWf = true) :
    (State.loadW s c q who r).memWf = true := by
  unfold State.loadW
  (try dsimp only)
  repeat' first | with_reducible assumption | with_reducible rfl | (intro _) | with_reducible apply Core.acc_wf | with_reducible apply Core.banks_wf | with_reducible apply Core.istore_wf | with_reducible apply Core.rf_wf | with_reducible apply Core.store_wf | with_reducible apply EngAcc.fault_memWf | with_reducible apply EngAcc.ite_memWf | with_reducible apply EngAcc.ok_memWf | with_reducible apply EngAcc.poison_memWf | with_reducible apply EngAcc.wait_memWf | with_reducible apply EngAcc.window_memWf | with_reducible apply State.cap_wf | with_reducible apply State.cores_wf | with_reducible apply State.hbm_wf | with_reducible apply State.modCore_memWf | with_reducible apply State.modTeam_memWf | with_reducible apply State.readOperand_memWf | with_reducible apply Xl.fail_memWf | with_reducible apply Xl.ite_memWf | with_reducible apply Xl.ok_memWf | with_reducible apply Xl.wait_memWf | (refine Xl.ok_of_eq ?_ (by with_reducible assumption)) | (refine Xl.fail_of_eq ?_ (by with_reducible assumption)) | (refine Xl.wait_of_eq ?_ (by with_reducible assumption)) | (refine EngAcc.ok_of_eq ?_ (by with_reducible assumption)) | (refine EngAcc.poison_of_eq ?_ (by with_reducible assumption)) | (refine EngAcc.fault_of_eq ?_ (by with_reducible assumption)) | (refine EngAcc.window_of_eq ?_ (by with_reducible assumption)) | (refine EngAcc.wait_of_eq ?_ (by with_reducible assumption)) | (refine State.fst_of_eq ?_ (by with_reducible assumption)) | (refine Core.fst_of_eq ?_ (by with_reducible assumption)) | split | (with_reducible refine State.mk_memWf ?_ ?_ ?_) | (with_reducible refine Core.mk_memWf ?_ ?_ ?_ ?_ ?_)

@[simp ↓] theorem State.endParties_memWf (s : State) (c n : Nat) (outcome cause addr resp : Nat) (hs : s.memWf = true) :
    (State.endParties s c n outcome cause addr resp).memWf = true := by
  unfold State.endParties
  simp +contextual (maxDischargeDepth := 60) only [↓Core.foldlFst_memWf, ↓Core.foldl_memWf, ↓EngAcc.fault_memWf, ↓EngAcc.ite_memWf, ↓EngAcc.ok_memWf, ↓EngAcc.poison_memWf, ↓EngAcc.wait_memWf, ↓EngAcc.window_memWf, ↓State.endCmd_memWf, ↓State.foldlFst_memWf, ↓State.foldl_memWf, ↓Xl.fail_memWf, ↓Xl.ite_memWf, ↓Xl.ok_memWf, ↓Xl.wait_memWf, hs, implies_true]

@[simp ↓] theorem State.failRow_memWf (s : State) (c n addr : Nat) (r : EngAcc) (hs : s.memWf = true) (hr : r.memWf = true) :
    (State.failRow s c n addr r).memWf = true := by
  unfold State.failRow
  (try dsimp only)
  repeat' split
  all_goals first | with_reducible assumption | with_reducible rfl | (simp +contextual (maxDischargeDepth := 60) only [↓EngAcc.fault_memWf, ↓EngAcc.ite_memWf, ↓EngAcc.ok_memWf, ↓EngAcc.poison_memWf, ↓EngAcc.wait_memWf, ↓EngAcc.window_memWf, ↓Res.done_memWf, ↓Res.moved_memWf, ↓Res.trap_memWf, ↓Res.wait_memWf, ↓State.endParties_memWf, ↓Xl.fail_memWf, ↓Xl.ite_memWf, ↓Xl.ok_memWf, ↓Xl.wait_memWf, ↓misaligned_memWf, ↓prot_memWf, hs, hr, implies_true]) | grind [EngAcc.fault_memWf, EngAcc.ok_memWf, EngAcc.poison_memWf, EngAcc.wait_memWf, EngAcc.window_memWf, Res.done_memWf, Res.moved_memWf, Res.trap_memWf, Res.wait_memWf, State.endParties_memWf, Xl.fail_memWf, Xl.ok_memWf, Xl.wait_memWf, misaligned_memWf, prot_memWf, Xl.memWf, EngAcc.memWf]

@[simp ↓] theorem State.readRow_memWf (s : State) (c : Nat) (q : Cmd) (who : Instr) (hs : s.memWf = true) :
    (State.readRow s c q who).memWf = true := by
  unfold State.readRow
  (try dsimp only)
  repeat' first | with_reducible assumption | with_reducible rfl | (intro _) | with_reducible apply Core.acc_wf | with_reducible apply Core.banks_wf | with_reducible apply Core.istore_wf | with_reducible apply Core.rf_wf | with_reducible apply Core.store_wf | with_reducible apply EngAcc.fault_memWf | with_reducible apply EngAcc.ite_memWf | with_reducible apply EngAcc.ok_memWf | with_reducible apply EngAcc.poison_memWf | with_reducible apply EngAcc.wait_memWf | with_reducible apply EngAcc.window_memWf | with_reducible apply State.cap_wf | with_reducible apply State.cores_wf | with_reducible apply State.hbm_wf | with_reducible apply State.readOperand_memWf | with_reducible apply Xl.fail_memWf | with_reducible apply Xl.ite_memWf | with_reducible apply Xl.ok_memWf | with_reducible apply Xl.wait_memWf | (refine Xl.ok_of_eq ?_ (by with_reducible assumption)) | (refine Xl.fail_of_eq ?_ (by with_reducible assumption)) | (refine Xl.wait_of_eq ?_ (by with_reducible assumption)) | (refine EngAcc.ok_of_eq ?_ (by with_reducible assumption)) | (refine EngAcc.poison_of_eq ?_ (by with_reducible assumption)) | (refine EngAcc.fault_of_eq ?_ (by with_reducible assumption)) | (refine EngAcc.window_of_eq ?_ (by with_reducible assumption)) | (refine EngAcc.wait_of_eq ?_ (by with_reducible assumption)) | (refine State.fst_of_eq ?_ (by with_reducible assumption)) | (refine Core.fst_of_eq ?_ (by with_reducible assumption)) | split | (with_reducible refine State.mk_memWf ?_ ?_ ?_) | (with_reducible refine Core.mk_memWf ?_ ?_ ?_ ?_ ?_)

theorem State.readParties_memWf (s : State) (who : Instr) (rows : List ((Nat × Nat) × List Byte)) (ps : List (Nat × Nat))
    (hs : s.memWf = true) : (State.readParties s who rows ps).1.memWf = true ∧
      ∀ p e, (State.readParties s who rows ps).2.2 = some (p, e) → e.memWf = true := by
  induction ps generalizing s rows with
  | nil => exact ⟨hs, fun _ _ h => by simp [State.readParties] at h⟩
  | cons p t ih =>
    unfold State.readParties
    split
    · exact ih s _ hs
    · rename_i y _
      dsimp only
      split
      · exact ih s _ hs
      · have h : EngAcc.memWf (if (mmaBlock y.code y.block).sSrc = 3 then
            .ok s (((rows.find? fun r => some r.1 == y.up).map (·.2)).getD []) else s.readRow p.1 y who) = true := by
          split
          · exact hs
          · exact State.readRow_memWf _ _ _ _ hs
        split
        · exact ih _ _ (EngAcc.ok_of_eq h ‹_›)
        · refine ⟨hs, fun p' e' h' => ?_⟩
          obtain ⟨-, rfl⟩ := Prod.mk.inj (Option.some.inj h')
          exact h

@[simp ↓] theorem State.letGo_memWf (s : State) (c n : Nat) (hs : s.memWf = true) :
    (State.letGo s c n).memWf = true := by
  unfold State.letGo
  simp +contextual (maxDischargeDepth := 60) only [↓Core.acc_wf, ↓Core.banks_wf, ↓Core.foldlFst_memWf, ↓Core.foldl_memWf, ↓Core.istore_wf, ↓Core.mk_memWf, ↓Core.rf_wf, ↓Core.store_wf, ↓EngAcc.fault_memWf, ↓EngAcc.ite_memWf, ↓EngAcc.ok_memWf, ↓EngAcc.poison_memWf, ↓EngAcc.wait_memWf, ↓EngAcc.window_memWf, ↓State.cap_wf, ↓State.cores_wf, ↓State.foldlFst_memWf, ↓State.foldl_memWf, ↓State.hbm_wf, ↓State.mk_memWf, ↓State.modCmd_memWf, ↓State.post_memWf, ↓Xl.fail_memWf, ↓Xl.ite_memWf, ↓Xl.ok_memWf, ↓Xl.wait_memWf, hs, implies_true]

@[simp ↓] theorem State.partyRow_memWf (s : State) (p : Nat × Nat) (row : List Byte) (hs : s.memWf = true) :
    (State.partyRow s p row).memWf = true := by
  unfold State.partyRow
  (try dsimp only)
  repeat' first | with_reducible assumption | with_reducible rfl | (intro _) | with_reducible apply Core.acc_wf | with_reducible apply Core.banks_wf | with_reducible apply Core.istore_wf | with_reducible apply Core.iteFst_memWf | with_reducible apply Core.ite_memWf | with_reducible apply Core.rf_wf | with_reducible apply Core.store_wf | with_reducible apply EngAcc.fault_memWf | with_reducible apply EngAcc.ite_memWf | with_reducible apply EngAcc.ok_memWf | with_reducible apply EngAcc.poison_memWf | with_reducible apply EngAcc.wait_memWf | with_reducible apply EngAcc.window_memWf | with_reducible apply Res.ite_memWf | with_reducible apply State.cap_wf | with_reducible apply State.computeRow_memWf | with_reducible apply State.cores_wf | with_reducible apply State.endCmd_memWf | with_reducible apply State.hbm_wf | with_reducible apply State.iteFst_memWf | with_reducible apply State.ite_memWf | with_reducible apply State.letGo_memWf | with_reducible apply Xl.fail_memWf | with_reducible apply Xl.ite_memWf | with_reducible apply Xl.ok_memWf | with_reducible apply Xl.wait_memWf | (refine EngAcc.ok_of_eq ?_ (by with_reducible assumption)) | (refine EngAcc.poison_of_eq ?_ (by with_reducible assumption)) | (refine EngAcc.fault_of_eq ?_ (by with_reducible assumption)) | (refine EngAcc.window_of_eq ?_ (by with_reducible assumption)) | (refine EngAcc.wait_of_eq ?_ (by with_reducible assumption)) | (refine State.fst_of_eq ?_ (by with_reducible assumption)) | (refine Core.fst_of_eq ?_ (by with_reducible assumption)) | split | (with_reducible refine State.mk_memWf ?_ ?_ ?_) | (with_reducible refine Core.mk_memWf ?_ ?_ ?_ ?_ ?_)

theorem State.giveW_memWf (f : Nat) (s : State) (c n : Nat) (ws : List Byte) (own : WRecord) (hs : s.memWf = true) :
    (State.giveW f s c n ws own).memWf = true := by
  induction f generalizing s c n with
  | zero => exact hs
  | succ f ih =>
    refine State.foldl_memWf hs (fun s p hh => ?_) _
    split
    · exact hh
    · dsimp only
      split
      · exact hh
      · exact ih _ _ _ (State.post_memWf _ _ (State.modCmd_memWf _ _ _ _ (State.modTeam_memWf _ _ _ _ (State.modCore_memWf hh
          (fun k hk => Core.mk_memWf (Core.rf_wf hk) (Core.banks_wf hk) (Core.store_wf hk) (Core.istore_wf hk)
            (Core.acc_wf hk)) _))))

@[simp ↓] theorem execMmaRow_memWf (c n : Nat) (s : State) (hs : s.memWf = true) :
    outMemWf (execMmaRow c n s) = true := by
  unfold execMmaRow
  split
  · exact hs
  · rename_i q hq
    extract_lets m who t own held
    split
    · exact hs
    · split
      · rename_i ready _ _ _
        have hr : ∀ s : State, s.memWf = true → (ready s).memWf = true := fun s h =>
          State.post_memWf _ _ (State.modCmd_memWf _ _ _ _ h)
        split
        · exact hs
        · split
          · split
            · exact State.post_memWf _ _ hs
            · have h := State.loadW_memWf s c q who own hs
              split
              · exact outMemWf_next (hr _ (State.giveW_memWf _ _ _ _ _ _ (EngAcc.ok_of_eq h ‹_›)))
              · exact outMemWf_next (State.failRow_memWf _ _ _ _ _ hs h)
          · split
            · exact outMemWf_next (State.endCmd_memWf _ _ _ _ _ _ _ hs)
            · rename_i r _
              split
              · exact outMemWf_next (hr _ hs)
              · have h := State.loadW_memWf s c q who r hs
                split
                · exact outMemWf_next (hr _ (EngAcc.ok_of_eq h ‹_›))
                · exact outMemWf_next (State.failRow_memWf _ _ _ _ _ hs h)
      · split
        · exact outMemWf_next (State.endCmd_memWf _ _ _ _ _ _ _ (State.letGo_memWf _ _ _ hs))
        · split
          · exact hs
          · split
            · exact outMemWf_next (State.post_memWf _ _ hs)
            · have h := State.readRow_memWf s c q who hs
              split
              · rename_i s1 row _
                have h1 := EngAcc.ok_of_eq h ‹_›
                have hp := State.readParties_memWf s1 who [((c, n), row)] (s.fedBy 16 c n) h1
                split
                · refine outMemWf_next (State.post_memWf _ _ (State.foldl_memWf (State.fst_of_eq hp.1 ‹_›) (fun s r hh => ?_) _))
                  split
                  · exact State.computeRow_memWf _ _ _ _ _ _ hh
                  · exact State.partyRow_memWf _ _ _ hh
                · exact outMemWf_next (EngAcc.wait_of_eq (hp.2 _ _ (congrArg (fun x : State × List _ × Option _ => x.2.2) ‹_›)) rfl)
                · exact outMemWf_next (State.post_memWf _ _ (State.failRow_memWf _ _ _ _ _ h1
                    (hp.2 _ _ (congrArg (fun x : State × List _ × Option _ => x.2.2) ‹_›))))
              · exact outMemWf_next (State.failRow_memWf _ _ _ _ _ hs h)

@[simp ↓] theorem execMulticastJoin_memWf (c n : Nat) (s : State) (hs : s.memWf = true) :
    outMemWf (execMulticastJoin c n s) = true := by
  unfold execMulticastJoin
  (try dsimp only)
  repeat' first | with_reducible assumption | with_reducible rfl | (intro _) | with_reducible apply State.getD_memWf | with_reducible apply Core.acc_wf | with_reducible apply Core.banks_wf | with_reducible apply Core.foldlFst_memWf | with_reducible apply Core.foldl_memWf | with_reducible apply Core.istore_wf | with_reducible apply Core.iteFst_memWf | with_reducible apply Core.ite_memWf | with_reducible apply Core.rf_wf | with_reducible apply Core.store_wf | with_reducible apply EngAcc.fault_memWf | with_reducible apply EngAcc.ite_memWf | with_reducible apply EngAcc.ok_memWf | with_reducible apply EngAcc.poison_memWf | with_reducible apply EngAcc.wait_memWf | with_reducible apply EngAcc.window_memWf | with_reducible apply Res.ite_memWf | with_reducible apply State.cap_wf | with_reducible apply State.cores_wf | with_reducible apply State.endParties_memWf | with_reducible apply State.foldlFst_memWf | with_reducible apply State.foldl_memWf | with_reducible apply State.hbm_wf | with_reducible apply State.iteFst_memWf | with_reducible apply State.ite_memWf | with_reducible apply State.mapCores_wf | with_reducible apply State.modCmd_memWf | with_reducible apply State.post_memWf | with_reducible apply State.send_memWf | with_reducible apply Xl.fail_memWf | with_reducible apply Xl.ite_memWf | with_reducible apply Xl.ok_memWf | with_reducible apply Xl.wait_memWf | with_reducible apply outMemWf_fault | with_reducible apply outMemWf_ite | with_reducible apply outMemWf_next | (refine EngAcc.ok_of_eq ?_ (by with_reducible assumption)) | (refine EngAcc.poison_of_eq ?_ (by with_reducible assumption)) | (refine EngAcc.fault_of_eq ?_ (by with_reducible assumption)) | (refine EngAcc.window_of_eq ?_ (by with_reducible assumption)) | (refine EngAcc.wait_of_eq ?_ (by with_reducible assumption)) | (refine State.fst_of_eq ?_ (by with_reducible assumption)) | (refine Core.fst_of_eq ?_ (by with_reducible assumption)) | split | (with_reducible refine State.mk_memWf ?_ ?_ ?_) | (with_reducible refine Core.mk_memWf ?_ ?_ ?_ ?_ ?_)

@[simp ↓] theorem execMulticastTimeout_memWf (c n : Nat) (s : State) (hs : s.memWf = true) :
    outMemWf (execMulticastTimeout c n s) = true := by
  unfold execMulticastTimeout
  (try dsimp only)
  repeat' first | with_reducible assumption | with_reducible rfl | (intro _) | with_reducible apply Core.acc_wf | with_reducible apply Core.banks_wf | with_reducible apply Core.istore_wf | with_reducible apply Core.iteFst_memWf | with_reducible apply Core.ite_memWf | with_reducible apply Core.rf_wf | with_reducible apply Core.store_wf | with_reducible apply EngAcc.fault_memWf | with_reducible apply EngAcc.ite_memWf | with_reducible apply EngAcc.ok_memWf | with_reducible apply EngAcc.poison_memWf | with_reducible apply EngAcc.wait_memWf | with_reducible apply EngAcc.window_memWf | with_reducible apply Res.ite_memWf | with_reducible apply State.cap_wf | with_reducible apply State.cores_wf | with_reducible apply State.endParties_memWf | with_reducible apply State.hbm_wf | with_reducible apply State.iteFst_memWf | with_reducible apply State.ite_memWf | with_reducible apply Xl.fail_memWf | with_reducible apply Xl.ite_memWf | with_reducible apply Xl.ok_memWf | with_reducible apply Xl.wait_memWf | with_reducible apply outMemWf_fault | with_reducible apply outMemWf_ite | with_reducible apply outMemWf_next | (refine EngAcc.ok_of_eq ?_ (by with_reducible assumption)) | (refine EngAcc.poison_of_eq ?_ (by with_reducible assumption)) | (refine EngAcc.fault_of_eq ?_ (by with_reducible assumption)) | (refine EngAcc.window_of_eq ?_ (by with_reducible assumption)) | (refine EngAcc.wait_of_eq ?_ (by with_reducible assumption)) | (refine State.fst_of_eq ?_ (by with_reducible assumption)) | (refine Core.fst_of_eq ?_ (by with_reducible assumption)) | split | (with_reducible refine State.mk_memWf ?_ ?_ ?_) | (with_reducible refine Core.mk_memWf ?_ ?_ ?_ ?_ ?_)

@[simp ↓] theorem State.accStep_memWf (s : State) (c n : Nat) (q : Cmd) (hs : s.memWf = true) :
    (State.accStep s c n q).memWf = true := by
  unfold State.accStep
  (try dsimp only)
  repeat' first | with_reducible assumption | with_reducible rfl | (intro _) | with_reducible apply State.getD_memWf | with_reducible apply Core.acc_wf | with_reducible apply Core.banks_wf | with_reducible apply Core.foldlFst_memWf | with_reducible apply Core.foldl_memWf | with_reducible apply Core.istore_wf | with_reducible apply Core.iteFst_memWf | with_reducible apply Core.ite_memWf | with_reducible apply Core.rf_wf | with_reducible apply Core.store_wf | with_reducible apply EngAcc.fault_memWf | with_reducible apply EngAcc.ite_memWf | with_reducible apply EngAcc.ok_memWf | with_reducible apply EngAcc.poison_memWf | with_reducible apply EngAcc.wait_memWf | with_reducible apply EngAcc.window_memWf | with_reducible apply Mem.wf_clear | with_reducible apply Mem.wf_filter | with_reducible apply Mem.wf_set | with_reducible apply Mem.wf_write | with_reducible apply Res.ite_memWf | with_reducible apply State.cap_wf | with_reducible apply State.core_memWf | with_reducible apply State.cores_wf | with_reducible apply State.endCmd_memWf | with_reducible apply State.engReadAll_memWf | with_reducible apply State.engWrite_memWf | with_reducible apply State.failAcc_memWf | with_reducible apply State.foldlFst_memWf | with_reducible apply State.foldl_memWf | with_reducible apply State.hbm_wf | with_reducible apply State.iteFst_memWf | with_reducible apply State.ite_memWf | with_reducible apply State.modCmd_memWf | with_reducible apply State.modCore_memWf | with_reducible apply State.post_memWf | with_reducible apply Xl.fail_memWf | with_reducible apply Xl.ite_memWf | with_reducible apply Xl.ok_memWf | with_reducible apply Xl.wait_memWf | (refine Xl.ok_of_eq ?_ (by with_reducible assumption)) | (refine Xl.fail_of_eq ?_ (by with_reducible assumption)) | (refine Xl.wait_of_eq ?_ (by with_reducible assumption)) | (refine EngAcc.ok_of_eq ?_ (by with_reducible assumption)) | (refine EngAcc.poison_of_eq ?_ (by with_reducible assumption)) | (refine EngAcc.fault_of_eq ?_ (by with_reducible assumption)) | (refine EngAcc.window_of_eq ?_ (by with_reducible assumption)) | (refine EngAcc.wait_of_eq ?_ (by with_reducible assumption)) | (refine State.fst_of_eq ?_ (by with_reducible assumption)) | (refine Core.fst_of_eq ?_ (by with_reducible assumption)) | split | (with_reducible refine State.mk_memWf ?_ ?_ ?_) | (with_reducible refine Core.mk_memWf ?_ ?_ ?_ ?_ ?_)

@[simp ↓] theorem execMatrixCommandComplete_memWf (c n : Nat) (s : State) (hs : s.memWf = true) :
    outMemWf (execMatrixCommandComplete c n s) = true := by
  unfold execMatrixCommandComplete
  (try dsimp only)
  repeat' first | with_reducible assumption | with_reducible rfl | (intro _) | with_reducible apply Core.acc_wf | with_reducible apply Core.banks_wf | with_reducible apply Core.istore_wf | with_reducible apply Core.iteFst_memWf | with_reducible apply Core.ite_memWf | with_reducible apply Core.rf_wf | with_reducible apply Core.store_wf | with_reducible apply Core.writeStore_memWf | with_reducible apply EngAcc.fault_memWf | with_reducible apply EngAcc.ite_memWf | with_reducible apply EngAcc.ok_memWf | with_reducible apply EngAcc.poison_memWf | with_reducible apply EngAcc.wait_memWf | with_reducible apply EngAcc.window_memWf | with_reducible apply Res.ite_memWf | with_reducible apply State.accStep_memWf | with_reducible apply State.cap_wf | with_reducible apply State.cores_wf | with_reducible apply State.hbm_wf | with_reducible apply State.iteFst_memWf | with_reducible apply State.ite_memWf | with_reducible apply State.modCore_memWf | with_reducible apply State.signal_memWf | with_reducible apply Xl.fail_memWf | with_reducible apply Xl.ite_memWf | with_reducible apply Xl.ok_memWf | with_reducible apply Xl.wait_memWf | with_reducible apply outMemWf_fault | with_reducible apply outMemWf_ite | with_reducible apply outMemWf_next | (refine EngAcc.ok_of_eq ?_ (by with_reducible assumption)) | (refine EngAcc.poison_of_eq ?_ (by with_reducible assumption)) | (refine EngAcc.fault_of_eq ?_ (by with_reducible assumption)) | (refine EngAcc.window_of_eq ?_ (by with_reducible assumption)) | (refine EngAcc.wait_of_eq ?_ (by with_reducible assumption)) | (refine State.fst_of_eq ?_ (by with_reducible assumption)) | (refine Core.fst_of_eq ?_ (by with_reducible assumption)) | split | (with_reducible refine State.mk_memWf ?_ ?_ ?_) | (with_reducible refine Core.mk_memWf ?_ ?_ ?_ ?_ ?_)

end Sys2Proof.Machine
end

