-- ==== Sys2Proof/Laws/CanonNetwork.lean ====
section
/-! SUPPORT. The lattice, collectives and bag queries keep the canonical form of storage. -/

set_option linter.unusedSimpArgs false

namespace Sys2Proof.Machine

@[simp ↓] theorem State.countLink_memWf (s : State) (r i : Nat) (hs : s.memWf = true) :
    (State.countLink s r i).memWf = true := by
  unfold State.countLink
  simp +contextual (maxDischargeDepth := 60) only [↓State.bumpField_memWf, hs, implies_true]

@[simp ↓] theorem State.countFault_memWf (s : State) (l i : Nat) (hs : s.memWf = true) :
    (State.countFault s l i).memWf = true := by
  unfold State.countFault
  simp +contextual (maxDischargeDepth := 60) only [↓Core.iteFst_memWf, ↓Core.ite_memWf, ↓Res.ite_memWf, ↓State.bumpField_memWf, ↓State.countLink_memWf, ↓State.iteFst_memWf, ↓State.ite_memWf, hs, implies_true]

@[simp ↓] theorem State.eject_memWf (s : State) (r : Nat) (p : Packet) (hs : s.memWf = true) :
    (State.eject s r p).memWf = true := by
  unfold State.eject
  (try dsimp only)
  repeat' first | with_reducible assumption | with_reducible rfl | (intro _) | with_reducible apply State.getD_memWf | with_reducible apply Core.acc_wf | with_reducible apply Core.banks_wf | with_reducible apply Core.istore_wf | with_reducible apply Core.iteFst_memWf | with_reducible apply Core.ite_memWf | with_reducible apply Core.rf_wf | with_reducible apply Core.store_wf | with_reducible apply Mem.wf_clear | with_reducible apply Mem.wf_filter | with_reducible apply Mem.wf_set | with_reducible apply Mem.wf_write | with_reducible apply Res.ite_memWf | with_reducible apply State.cap_wf | with_reducible apply State.cores_wf | with_reducible apply State.countLink_memWf | with_reducible apply State.hbm_wf | with_reducible apply State.iteFst_memWf | with_reducible apply State.ite_memWf | with_reducible apply State.post_memWf | (refine EngAcc.ok_of_eq ?_ (by with_reducible assumption)) | (refine EngAcc.poison_of_eq ?_ (by with_reducible assumption)) | (refine EngAcc.fault_of_eq ?_ (by with_reducible assumption)) | (refine EngAcc.window_of_eq ?_ (by with_reducible assumption)) | (refine EngAcc.wait_of_eq ?_ (by with_reducible assumption)) | (refine State.fst_of_eq ?_ (by with_reducible assumption)) | (refine Core.fst_of_eq ?_ (by with_reducible assumption)) | split | (with_reducible refine State.mk_memWf ?_ ?_ ?_) | (with_reducible refine Core.mk_memWf ?_ ?_ ?_ ?_ ?_)

@[simp ↓] theorem State.vacate_memWf (s : State) (r : Nat) (x : Standing) (hs : s.memWf = true) :
    (State.vacate s r x).memWf = true := by
  unfold State.vacate
  simp +contextual (maxDischargeDepth := 60) only [↓Core.iteFst_memWf, ↓Core.ite_memWf, ↓Res.ite_memWf, ↓State.inject_memWf, ↓State.iteFst_memWf, ↓State.ite_memWf, ↓State.postOnce_memWf, hs, implies_true]

@[simp ↓] theorem State.dropBroken_memWf (s : State) (l : Nat) (hs : s.memWf = true) :
    (State.dropBroken s l).memWf = true := by
  unfold State.dropBroken
  (try dsimp only)
  repeat' first | with_reducible assumption | with_reducible rfl | (intro _) | with_reducible apply Core.acc_wf | with_reducible apply Core.banks_wf | with_reducible apply Core.foldlFst_memWf | with_reducible apply Core.foldl_memWf | with_reducible apply Core.istore_wf | with_reducible apply Core.rf_wf | with_reducible apply Core.store_wf | with_reducible apply Mem.wf_clear | with_reducible apply Mem.wf_filter | with_reducible apply Mem.wf_set | with_reducible apply Mem.wf_write | with_reducible apply State.bumpField_memWf | with_reducible apply State.cap_wf | with_reducible apply State.cores_wf | with_reducible apply State.foldlFst_memWf | with_reducible apply State.foldl_memWf | with_reducible apply State.hbm_wf | with_reducible apply State.lostPath_memWf | with_reducible apply State.setLink_memWf | with_reducible apply State.setRouter_memWf | with_reducible apply State.vacate_memWf | (refine EngAcc.ok_of_eq ?_ (by with_reducible assumption)) | (refine EngAcc.poison_of_eq ?_ (by with_reducible assumption)) | (refine EngAcc.fault_of_eq ?_ (by with_reducible assumption)) | (refine EngAcc.window_of_eq ?_ (by with_reducible assumption)) | (refine EngAcc.wait_of_eq ?_ (by with_reducible assumption)) | (refine State.fst_of_eq ?_ (by with_reducible assumption)) | (refine Core.fst_of_eq ?_ (by with_reducible assumption)) | split | (with_reducible refine State.mk_memWf ?_ ?_ ?_) | (with_reducible refine Core.mk_memWf ?_ ?_ ?_ ?_ ?_)

@[simp ↓] theorem execOutputArbitration_memWf (r port : Nat) (s : State) (hs : s.memWf = true) :
    outMemWf (execOutputArbitration r port s) = true := by
  unfold execOutputArbitration
  (try dsimp only)
  repeat' first | with_reducible assumption | with_reducible rfl | (intro _) | with_reducible apply Core.acc_wf | with_reducible apply Core.banks_wf | with_reducible apply Core.foldlFst_memWf | with_reducible apply Core.foldl_memWf | with_reducible apply Core.grant_memWf | with_reducible apply Core.istore_wf | with_reducible apply Core.iteFst_memWf | with_reducible apply Core.ite_memWf | with_reducible apply Core.rf_wf | with_reducible apply Core.store_wf | with_reducible apply Mem.wf_clear | with_reducible apply Mem.wf_filter | with_reducible apply Mem.wf_set | with_reducible apply Mem.wf_write | with_reducible apply Res.ite_memWf | with_reducible apply State.cap_wf | with_reducible apply State.cores_wf | with_reducible apply State.dropBroken_memWf | with_reducible apply State.eject_memWf | with_reducible apply State.foldlFst_memWf | with_reducible apply State.foldl_memWf | with_reducible apply State.hbm_wf | with_reducible apply State.iteFst_memWf | with_reducible apply State.ite_memWf | with_reducible apply State.postOnce_memWf | with_reducible apply State.posts_memWf | with_reducible apply State.setLink_memWf | with_reducible apply State.setRouter_memWf | with_reducible apply State.vacate_memWf | with_reducible apply outMemWf_fault | with_reducible apply outMemWf_ite | with_reducible apply outMemWf_next | (refine EngAcc.ok_of_eq ?_ (by with_reducible assumption)) | (refine EngAcc.poison_of_eq ?_ (by with_reducible assumption)) | (refine EngAcc.fault_of_eq ?_ (by with_reducible assumption)) | (refine EngAcc.window_of_eq ?_ (by with_reducible assumption)) | (refine EngAcc.wait_of_eq ?_ (by with_reducible assumption)) | (refine State.fst_of_eq ?_ (by with_reducible assumption)) | (refine Core.fst_of_eq ?_ (by with_reducible assumption)) | split | (with_reducible refine State.mk_memWf ?_ ?_ ?_) | (with_reducible refine Core.mk_memWf ?_ ?_ ?_ ?_ ?_)

@[simp ↓] theorem State.nakLink_memWf (s : State) (l : Nat) (hs : s.memWf = true) :
    (State.nakLink s l).memWf = true := by
  unfold State.nakLink
  (try dsimp only)
  repeat' first | with_reducible assumption | with_reducible rfl | (intro _) | with_reducible apply State.getD_memWf | with_reducible apply Core.acc_wf | with_reducible apply Core.banks_wf | with_reducible apply Core.istore_wf | with_reducible apply Core.iteFst_memWf | with_reducible apply Core.ite_memWf | with_reducible apply Core.rf_wf | with_reducible apply Core.store_wf | with_reducible apply Res.ite_memWf | with_reducible apply State.cap_wf | with_reducible apply State.cores_wf | with_reducible apply State.countFault_memWf | with_reducible apply State.hbm_wf | with_reducible apply State.iteFst_memWf | with_reducible apply State.ite_memWf | with_reducible apply State.post_memWf | with_reducible apply State.setLink_memWf | (refine EngAcc.ok_of_eq ?_ (by with_reducible assumption)) | (refine EngAcc.poison_of_eq ?_ (by with_reducible assumption)) | (refine EngAcc.fault_of_eq ?_ (by with_reducible assumption)) | (refine EngAcc.window_of_eq ?_ (by with_reducible assumption)) | (refine EngAcc.wait_of_eq ?_ (by with_reducible assumption)) | (refine State.fst_of_eq ?_ (by with_reducible assumption)) | (refine Core.fst_of_eq ?_ (by with_reducible assumption)) | split | (with_reducible refine State.mk_memWf ?_ ?_ ?_) | (with_reducible refine Core.mk_memWf ?_ ?_ ?_ ?_ ?_)

@[simp ↓] theorem State.leave_memWf (s : State) (p : Packet) (hs : s.memWf = true) :
    (State.leave s p).memWf = true := by
  unfold State.leave
  (try dsimp only)
  repeat' first | with_reducible assumption | with_reducible rfl | (intro _) | with_reducible apply Core.acc_wf | with_reducible apply Core.banks_wf | with_reducible apply Core.istore_wf | with_reducible apply Core.rf_wf | with_reducible apply Core.store_wf | with_reducible apply State.cap_wf | with_reducible apply State.cores_wf | with_reducible apply State.emit_memWf | with_reducible apply State.hbm_wf | (refine EngAcc.ok_of_eq ?_ (by with_reducible assumption)) | (refine EngAcc.poison_of_eq ?_ (by with_reducible assumption)) | (refine EngAcc.fault_of_eq ?_ (by with_reducible assumption)) | (refine EngAcc.window_of_eq ?_ (by with_reducible assumption)) | (refine EngAcc.wait_of_eq ?_ (by with_reducible assumption)) | (refine State.fst_of_eq ?_ (by with_reducible assumption)) | (refine Core.fst_of_eq ?_ (by with_reducible assumption)) | split | (with_reducible refine State.mk_memWf ?_ ?_ ?_) | (with_reducible refine Core.mk_memWf ?_ ?_ ?_ ?_ ?_)

@[simp ↓] theorem State.takeFlit_memWf (s : State) (l : Nat) (hs : s.memWf = true) :
    (State.takeFlit s l).memWf = true := by
  unfold State.takeFlit
  (try dsimp only)
  repeat' first | with_reducible assumption | with_reducible rfl | (intro _) | with_reducible apply Core.acc_wf | with_reducible apply Core.banks_wf | with_reducible apply Core.istore_wf | with_reducible apply Core.iteFst_memWf | with_reducible apply Core.ite_memWf | with_reducible apply Core.rf_wf | with_reducible apply Core.store_wf | with_reducible apply Res.ite_memWf | with_reducible apply State.cap_wf | with_reducible apply State.cores_wf | with_reducible apply State.hbm_wf | with_reducible apply State.iteFst_memWf | with_reducible apply State.ite_memWf | with_reducible apply State.leave_memWf | with_reducible apply State.postOnce_memWf | with_reducible apply State.setLink_memWf | with_reducible apply State.stand_memWf | with_reducible apply State.vacate_memWf | with_reducible apply outMemWf_fault | with_reducible apply outMemWf_ite | with_reducible apply outMemWf_next | (refine EngAcc.ok_of_eq ?_ (by with_reducible assumption)) | (refine EngAcc.poison_of_eq ?_ (by with_reducible assumption)) | (refine EngAcc.fault_of_eq ?_ (by with_reducible assumption)) | (refine EngAcc.window_of_eq ?_ (by with_reducible assumption)) | (refine EngAcc.wait_of_eq ?_ (by with_reducible assumption)) | (refine State.fst_of_eq ?_ (by with_reducible assumption)) | (refine Core.fst_of_eq ?_ (by with_reducible assumption)) | split | (with_reducible refine State.mk_memWf ?_ ?_ ?_) | (with_reducible refine Core.mk_memWf ?_ ?_ ?_ ?_ ?_)

@[simp ↓] theorem execFlitReceive_memWf (link : Nat) (chk : FlitCheck) (s : State) (hs : s.memWf = true) :
    outMemWf (execFlitReceive link chk s) = true := by
  unfold execFlitReceive
  simp +contextual (maxDischargeDepth := 60) only [↓Core.iteFst_memWf, ↓Core.ite_memWf, ↓Res.ite_memWf, ↓State.countLink_memWf, ↓State.iteFst_memWf, ↓State.ite_memWf, ↓State.nakLink_memWf, ↓State.takeFlit_memWf, ↓outMemWf_fault, ↓outMemWf_ite, ↓outMemWf_next, hs, implies_true]

@[simp ↓] theorem execNak_memWf (link seq : Nat) (s : State) (hs : s.memWf = true) :
    outMemWf (execNak link seq s) = true := by
  unfold execNak
  simp +contextual (maxDischargeDepth := 60) only [↓Core.iteFst_memWf, ↓Core.ite_memWf, ↓Res.ite_memWf, ↓State.iteFst_memWf, ↓State.ite_memWf, ↓State.nakLink_memWf, ↓outMemWf_fault, ↓outMemWf_ite, ↓outMemWf_next, hs, implies_true]

@[simp ↓] theorem execRoundTripTimerExpiry_memWf (link : Nat) (s : State) (hs : s.memWf = true) :
    outMemWf (execRoundTripTimerExpiry link s) = true := by
  unfold execRoundTripTimerExpiry
  simp +contextual (maxDischargeDepth := 60) only [↓Core.iteFst_memWf, ↓Core.ite_memWf, ↓Res.ite_memWf, ↓State.iteFst_memWf, ↓State.ite_memWf, ↓State.nakLink_memWf, ↓outMemWf_fault, ↓outMemWf_ite, ↓outMemWf_next, hs, implies_true]

@[simp ↓] theorem execLinkDown_memWf (link : Nat) (s : State) (hs : s.memWf = true) :
    outMemWf (execLinkDown link s) = true := by
  unfold execLinkDown
  simp +contextual (maxDischargeDepth := 60) only [↓Core.acc_wf, ↓Core.banks_wf, ↓Core.istore_wf, ↓Core.iteFst_memWf, ↓Core.ite_memWf, ↓Core.mk_memWf, ↓Core.rf_wf, ↓Core.store_wf, ↓Res.ite_memWf, ↓State.cap_wf, ↓State.cores_wf, ↓State.hbm_wf, ↓State.iteFst_memWf, ↓State.ite_memWf, ↓State.mk_memWf, ↓State.post_memWf, ↓State.setField_memWf, ↓State.setLink_memWf, ↓outMemWf_fault, ↓outMemWf_ite, ↓outMemWf_next, hs, implies_true]

@[simp ↓] theorem execLinkTrainingComplete_memWf (link major _minor : Nat) (s : State) (hs : s.memWf = true) :
    outMemWf (execLinkTrainingComplete link major _minor s) = true := by
  unfold execLinkTrainingComplete
  simp +contextual (maxDischargeDepth := 60) only [↓Core.acc_wf, ↓Core.banks_wf, ↓Core.istore_wf, ↓Core.iteFst_memWf, ↓Core.ite_memWf, ↓Core.mk_memWf, ↓Core.rf_wf, ↓Core.store_wf, ↓Res.ite_memWf, ↓State.cap_wf, ↓State.cores_wf, ↓State.hbm_wf, ↓State.iteFst_memWf, ↓State.ite_memWf, ↓State.mk_memWf, ↓State.postOnce_memWf, ↓State.posts_memWf, ↓State.setField_memWf, ↓State.setLink_memWf, ↓outMemWf_fault, ↓outMemWf_ite, ↓outMemWf_next, hs, implies_true]

@[simp ↓] theorem execWeltRetrainTimeout_memWf (link : Nat) (s : State) (hs : s.memWf = true) :
    outMemWf (execWeltRetrainTimeout link s) = true := by
  unfold execWeltRetrainTimeout
  simp +contextual (maxDischargeDepth := 60) only [↓Core.iteFst_memWf, ↓Core.ite_memWf, ↓Res.ite_memWf, ↓State.iteFst_memWf, ↓State.ite_memWf, ↓State.post_memWf, ↓outMemWf_fault, ↓outMemWf_ite, ↓outMemWf_next, hs, implies_true]

@[simp ↓] theorem execReachLinkBroken_memWf (link : Nat) (s : State) (hs : s.memWf = true) :
    outMemWf (execReachLinkBroken link s) = true := by
  unfold execReachLinkBroken
  simp +contextual (maxDischargeDepth := 60) only [↓Core.acc_wf, ↓Core.banks_wf, ↓Core.istore_wf, ↓Core.iteFst_memWf, ↓Core.ite_memWf, ↓Core.mk_memWf, ↓Core.rf_wf, ↓Core.store_wf, ↓Res.ite_memWf, ↓State.cap_wf, ↓State.cores_wf, ↓State.dropBroken_memWf, ↓State.hbm_wf, ↓State.iteFst_memWf, ↓State.ite_memWf, ↓State.mk_memWf, ↓State.setField_memWf, ↓State.setLink_memWf, ↓outMemWf_fault, ↓outMemWf_ite, ↓outMemWf_next, hs, implies_true]

@[simp ↓] theorem State.retrainReach_memWf (s : State) (p : Nat) (hs : s.memWf = true) :
    (State.retrainReach s p).memWf = true := by
  unfold State.retrainReach
  simp +contextual (maxDischargeDepth := 60) only [↓Core.acc_wf, ↓Core.banks_wf, ↓Core.foldlFst_memWf, ↓Core.foldl_memWf, ↓Core.istore_wf, ↓Core.iteFst_memWf, ↓Core.ite_memWf, ↓Core.mk_memWf, ↓Core.rf_wf, ↓Core.store_wf, ↓Res.ite_memWf, ↓State.cap_wf, ↓State.cores_wf, ↓State.foldlFst_memWf, ↓State.foldl_memWf, ↓State.hbm_wf, ↓State.iteFst_memWf, ↓State.ite_memWf, ↓State.mk_memWf, ↓State.setField_memWf, ↓State.setLink_memWf, hs, implies_true]

@[simp ↓] theorem execReachRetrain_memWf (p : Nat) (s : State) (hs : s.memWf = true) :
    outMemWf (execReachRetrain p s) = true := by
  unfold execReachRetrain
  simp +contextual (maxDischargeDepth := 60) only [↓State.retrainReach_memWf, ↓outMemWf_fault, ↓outMemWf_ite, ↓outMemWf_next, hs, implies_true]

@[simp ↓] theorem State.startColl_memWf (s : State) (c n : Nat) (q : Cmd) (hs : s.memWf = true) :
    (State.startColl s c n q).memWf = true := by
  unfold State.startColl
  (try dsimp only)
  repeat' first | with_reducible assumption | with_reducible rfl | (intro _) | with_reducible apply Core.acc_wf | with_reducible apply Core.banks_wf | with_reducible apply Core.istore_wf | with_reducible apply Core.iteFst_memWf | with_reducible apply Core.ite_memWf | with_reducible apply Core.rf_wf | with_reducible apply Core.store_wf | with_reducible apply EngAcc.fault_memWf | with_reducible apply EngAcc.ite_memWf | with_reducible apply EngAcc.ok_memWf | with_reducible apply EngAcc.poison_memWf | with_reducible apply EngAcc.wait_memWf | with_reducible apply EngAcc.window_memWf | with_reducible apply Res.ite_memWf | with_reducible apply State.cap_wf | with_reducible apply State.core_memWf | with_reducible apply State.cores_wf | with_reducible apply State.endCmd_memWf | with_reducible apply State.hbm_wf | with_reducible apply State.iteFst_memWf | with_reducible apply State.ite_memWf | with_reducible apply State.modCmd_memWf | with_reducible apply State.post_memWf | with_reducible apply State.send_memWf | with_reducible apply Xl.fail_memWf | with_reducible apply Xl.ite_memWf | with_reducible apply Xl.ok_memWf | with_reducible apply Xl.wait_memWf | (refine EngAcc.ok_of_eq ?_ (by with_reducible assumption)) | (refine EngAcc.poison_of_eq ?_ (by with_reducible assumption)) | (refine EngAcc.fault_of_eq ?_ (by with_reducible assumption)) | (refine EngAcc.window_of_eq ?_ (by with_reducible assumption)) | (refine EngAcc.wait_of_eq ?_ (by with_reducible assumption)) | (refine State.fst_of_eq ?_ (by with_reducible assumption)) | (refine Core.fst_of_eq ?_ (by with_reducible assumption)) | split | (with_reducible refine State.mk_memWf ?_ ?_ ?_) | (with_reducible refine Core.mk_memWf ?_ ?_ ?_ ?_ ?_)

@[simp ↓] theorem State.endMembers_memWf (s : State) (i : CollInst) (code cause : Nat) (hs : s.memWf = true) :
    (State.endMembers s i code cause).memWf = true := by
  unfold State.endMembers
  simp +contextual (maxDischargeDepth := 60) only [↓Core.foldlFst_memWf, ↓Core.foldl_memWf, ↓EngAcc.fault_memWf, ↓EngAcc.ite_memWf, ↓EngAcc.ok_memWf, ↓EngAcc.poison_memWf, ↓EngAcc.wait_memWf, ↓EngAcc.window_memWf, ↓State.endCmd_memWf, ↓State.foldlFst_memWf, ↓State.foldl_memWf, ↓Xl.fail_memWf, ↓Xl.ite_memWf, ↓Xl.ok_memWf, ↓Xl.wait_memWf, hs, implies_true]

@[simp ↓] theorem State.putInst_memWf (s : State) (i : CollInst) (hs : s.memWf = true) :
    (State.putInst s i).memWf = true := by
  unfold State.putInst
  simp +contextual (maxDischargeDepth := 60) only [↓Core.acc_wf, ↓Core.banks_wf, ↓Core.istore_wf, ↓Core.iteFst_memWf, ↓Core.ite_memWf, ↓Core.mk_memWf, ↓Core.rf_wf, ↓Core.store_wf, ↓EngAcc.fault_memWf, ↓EngAcc.ite_memWf, ↓EngAcc.ok_memWf, ↓EngAcc.poison_memWf, ↓EngAcc.wait_memWf, ↓EngAcc.window_memWf, ↓Mem.wf_clear, ↓Mem.wf_filter, ↓Mem.wf_set, ↓Mem.wf_write, ↓Res.done_memWf, ↓Res.ite_memWf, ↓Res.moved_memWf, ↓Res.trap_memWf, ↓Res.wait_memWf, ↓State.cap_wf, ↓State.cores_wf, ↓State.hbm_wf, ↓State.iteFst_memWf, ↓State.ite_memWf, ↓State.mk_memWf, ↓Xl.fail_memWf, ↓Xl.ite_memWf, ↓Xl.ok_memWf, ↓Xl.wait_memWf, ↓misaligned_memWf, ↓prot_memWf, hs, implies_true]

@[simp ↓] theorem execCollJoin_memWf (c n : Nat) (s : State) (hs : s.memWf = true) :
    outMemWf (execCollJoin c n s) = true := by
  unfold execCollJoin
  (try dsimp only)
  repeat' first | with_reducible assumption | with_reducible rfl | (intro _) | with_reducible apply State.getD_memWf | with_reducible apply Core.acc_wf | with_reducible apply Core.banks_wf | with_reducible apply Core.foldlFst_memWf | with_reducible apply Core.foldl_memWf | with_reducible apply Core.istore_wf | with_reducible apply Core.iteFst_memWf | with_reducible apply Core.ite_memWf | with_reducible apply Core.rf_wf | with_reducible apply Core.store_wf | with_reducible apply EngAcc.fault_memWf | with_reducible apply EngAcc.ite_memWf | with_reducible apply EngAcc.ok_memWf | with_reducible apply EngAcc.poison_memWf | with_reducible apply EngAcc.wait_memWf | with_reducible apply EngAcc.window_memWf | with_reducible apply Res.ite_memWf | with_reducible apply State.cap_wf | with_reducible apply State.core_memWf | with_reducible apply State.cores_wf | with_reducible apply State.endCmd_memWf | with_reducible apply State.endMembers_memWf | with_reducible apply State.foldlFst_memWf | with_reducible apply State.foldl_memWf | with_reducible apply State.hbm_wf | with_reducible apply State.iteFst_memWf | with_reducible apply State.ite_memWf | with_reducible apply State.modCmd_memWf | with_reducible apply State.post_memWf | with_reducible apply State.putInst_memWf | with_reducible apply Xl.fail_memWf | with_reducible apply Xl.ite_memWf | with_reducible apply Xl.ok_memWf | with_reducible apply Xl.wait_memWf | with_reducible apply outMemWf_fault | with_reducible apply outMemWf_ite | with_reducible apply outMemWf_next | (refine EngAcc.ok_of_eq ?_ (by with_reducible assumption)) | (refine EngAcc.poison_of_eq ?_ (by with_reducible assumption)) | (refine EngAcc.fault_of_eq ?_ (by with_reducible assumption)) | (refine EngAcc.window_of_eq ?_ (by with_reducible assumption)) | (refine EngAcc.wait_of_eq ?_ (by with_reducible assumption)) | (refine State.fst_of_eq ?_ (by with_reducible assumption)) | (refine Core.fst_of_eq ?_ (by with_reducible assumption)) | split | (with_reducible refine State.mk_memWf ?_ ?_ ?_) | (with_reducible refine Core.mk_memWf ?_ ?_ ?_ ?_ ?_)

@[simp ↓] theorem execCollTimeout_memWf (c n : Nat) (s : State) (hs : s.memWf = true) :
    outMemWf (execCollTimeout c n s) = true := by
  unfold execCollTimeout
  (try dsimp only)
  repeat' first | with_reducible assumption | with_reducible rfl | (intro _) | with_reducible apply State.getD_memWf | with_reducible apply Core.acc_wf | with_reducible apply Core.banks_wf | with_reducible apply Core.istore_wf | with_reducible apply Core.iteFst_memWf | with_reducible apply Core.ite_memWf | with_reducible apply Core.rf_wf | with_reducible apply Core.store_wf | with_reducible apply EngAcc.fault_memWf | with_reducible apply EngAcc.ite_memWf | with_reducible apply EngAcc.ok_memWf | with_reducible apply EngAcc.poison_memWf | with_reducible apply EngAcc.wait_memWf | with_reducible apply EngAcc.window_memWf | with_reducible apply Res.ite_memWf | with_reducible apply State.cap_wf | with_reducible apply State.cores_wf | with_reducible apply State.endMembers_memWf | with_reducible apply State.hbm_wf | with_reducible apply State.iteFst_memWf | with_reducible apply State.ite_memWf | with_reducible apply State.putInst_memWf | with_reducible apply Xl.fail_memWf | with_reducible apply Xl.ite_memWf | with_reducible apply Xl.ok_memWf | with_reducible apply Xl.wait_memWf | with_reducible apply outMemWf_fault | with_reducible apply outMemWf_ite | with_reducible apply outMemWf_next | (refine EngAcc.ok_of_eq ?_ (by with_reducible assumption)) | (refine EngAcc.poison_of_eq ?_ (by with_reducible assumption)) | (refine EngAcc.fault_of_eq ?_ (by with_reducible assumption)) | (refine EngAcc.window_of_eq ?_ (by with_reducible assumption)) | (refine EngAcc.wait_of_eq ?_ (by with_reducible assumption)) | (refine State.fst_of_eq ?_ (by with_reducible assumption)) | (refine Core.fst_of_eq ?_ (by with_reducible assumption)) | split | (with_reducible refine State.mk_memWf ?_ ?_ ?_) | (with_reducible refine Core.mk_memWf ?_ ?_ ?_ ?_ ?_)

@[simp ↓] theorem execCollComplete_memWf (c n : Nat) (s : State) (hs : s.memWf = true) :
    outMemWf (execCollComplete c n s) = true := by
  unfold execCollComplete
  (try dsimp only)
  repeat' first | with_reducible assumption | with_reducible rfl | (intro _) | with_reducible apply Core.acc_wf | with_reducible apply Core.banks_wf | with_reducible apply Core.istore_wf | with_reducible apply Core.iteFst_memWf | with_reducible apply Core.ite_memWf | with_reducible apply Core.rf_wf | with_reducible apply Core.store_wf | with_reducible apply Core.writeStore_memWf | with_reducible apply EngAcc.fault_memWf | with_reducible apply EngAcc.ite_memWf | with_reducible apply EngAcc.ok_memWf | with_reducible apply EngAcc.poison_memWf | with_reducible apply EngAcc.wait_memWf | with_reducible apply EngAcc.window_memWf | with_reducible apply Res.done_memWf | with_reducible apply Res.ite_memWf | with_reducible apply Res.moved_memWf | with_reducible apply Res.trap_memWf | with_reducible apply Res.wait_memWf | with_reducible apply State.cap_wf | with_reducible apply State.cores_wf | with_reducible apply State.endCmd_memWf | with_reducible apply State.hbm_wf | with_reducible apply State.iteFst_memWf | with_reducible apply State.ite_memWf | with_reducible apply State.modCmd_memWf | with_reducible apply State.modCore_memWf | with_reducible apply State.putInst_memWf | with_reducible apply State.signal_memWf | with_reducible apply Xl.fail_memWf | with_reducible apply Xl.ite_memWf | with_reducible apply Xl.ok_memWf | with_reducible apply Xl.wait_memWf | with_reducible apply misaligned_memWf | with_reducible apply outMemWf_fault | with_reducible apply outMemWf_ite | with_reducible apply outMemWf_next | with_reducible apply prot_memWf | (refine EngAcc.ok_of_eq ?_ (by with_reducible assumption)) | (refine EngAcc.poison_of_eq ?_ (by with_reducible assumption)) | (refine EngAcc.fault_of_eq ?_ (by with_reducible assumption)) | (refine EngAcc.window_of_eq ?_ (by with_reducible assumption)) | (refine EngAcc.wait_of_eq ?_ (by with_reducible assumption)) | (refine State.fst_of_eq ?_ (by with_reducible assumption)) | (refine Core.fst_of_eq ?_ (by with_reducible assumption)) | split | (with_reducible refine State.mk_memWf ?_ ?_ ?_) | (with_reducible refine Core.mk_memWf ?_ ?_ ?_ ?_ ?_)

@[simp ↓] theorem State.startPeer_memWf (s : State) (c n : Nat) (q : Cmd) (hs : s.memWf = true) :
    (State.startPeer s c n q).memWf = true := by
  unfold State.startPeer
  simp +contextual (maxDischargeDepth := 60) only [↓Core.acc_wf, ↓Core.banks_wf, ↓Core.istore_wf, ↓Core.iteFst_memWf, ↓Core.ite_memWf, ↓Core.mk_memWf, ↓Core.rf_wf, ↓Core.store_wf, ↓EngAcc.fault_memWf, ↓EngAcc.ite_memWf, ↓EngAcc.ok_memWf, ↓EngAcc.poison_memWf, ↓EngAcc.wait_memWf, ↓EngAcc.window_memWf, ↓Res.ite_memWf, ↓State.cap_wf, ↓State.core_memWf, ↓State.cores_wf, ↓State.endCmd_memWf, ↓State.hbm_wf, ↓State.iteFst_memWf, ↓State.ite_memWf, ↓State.mk_memWf, ↓State.modCmd_memWf, ↓State.post_memWf, ↓Xl.fail_memWf, ↓Xl.ite_memWf, ↓Xl.ok_memWf, ↓Xl.wait_memWf, hs, implies_true]

/-- A step of a peer transfer, if it is made, keeps the canonical form. -/
def stepMemWf : Option (State × Nat) → Bool
  | none => true
  | some p => p.1.memWf

theorem stepMemWf_ite {c : Prop} [Decidable c] {a b : Option (State × Nat)} (ha : stepMemWf a = true) (hb : stepMemWf b = true) :
    stepMemWf (if c then a else b) = true := by
  split <;> assumption

theorem stepMemWf_some {s : State} {n : Nat} (h : s.memWf = true) : stepMemWf (some (s, n)) = true := h

theorem stepMemWf_of_eq {o : Option (State × Nat)} {s : State} {n : Nat} (h : stepMemWf o = true) (e : o = some (s, n)) :
    s.memWf = true := by
  rw [e] at h; exact h

theorem State.peerStep_memWf (s : State) (c : Nat) (q : Cmd) (cc : Nat) (y : Team) (hs : s.memWf = true) :
    stepMemWf (State.peerStep s c q cc y) = true := by
  have hb : ∀ (c a n v : Nat), (s.modCore c fun k => k.writeBits a n v).memWf = true := fun c _ _ _ =>
    State.modCore_memWf hs (fun _ hk => Core.writeBits_memWf _ _ _ _ hk) c
  have hw : ∀ (c a : Nat) (bs : List Byte), (s.modCore c fun k => k.writeStore a bs).memWf = true := fun c _ _ =>
    State.modCore_memWf hs (fun _ hk => Core.writeStore_memWf _ _ _ hk) c
  unfold State.peerStep
  refine stepMemWf_ite (stepMemWf_ite rfl (stepMemWf_ite ?_ ?_)) (stepMemWf_ite rfl (stepMemWf_ite ?_ ?_))
  · exact stepMemWf_some (hb _ _ _ _)
  · exact stepMemWf_some (hb _ _ _ _)
  · exact stepMemWf_some (hw _ _ _)
  · exact stepMemWf_some (hw _ _ _)

@[simp ↓] theorem State.setEnc_memWf (s : State) (e st : Nat) (x : EncStream) (hs : s.memWf = true) :
    (State.setEnc s e st x).memWf = true := by
  unfold State.setEnc
  simp +contextual (maxDischargeDepth := 60) only [↓Core.acc_wf, ↓Core.banks_wf, ↓Core.istore_wf, ↓Core.mk_memWf, ↓Core.rf_wf, ↓Core.store_wf, ↓EngAcc.fault_memWf, ↓EngAcc.ite_memWf, ↓EngAcc.ok_memWf, ↓EngAcc.poison_memWf, ↓EngAcc.wait_memWf, ↓EngAcc.window_memWf, ↓State.cap_wf, ↓State.cores_wf, ↓State.hbm_wf, ↓State.mk_memWf, ↓Xl.fail_memWf, ↓Xl.ite_memWf, ↓Xl.ok_memWf, ↓Xl.wait_memWf, hs, implies_true]

@[simp ↓] theorem State.encStep_memWf (s : State) (c n : Nat) (q : Cmd) (hs : s.memWf = true) :
    (State.encStep s c n q).memWf = true := by
  unfold State.encStep
  (try dsimp only)
  repeat' first | with_reducible assumption | with_reducible rfl | (intro _) | with_reducible apply State.getD_memWf | with_reducible apply Core.acc_wf | with_reducible apply Core.banks_wf | with_reducible apply Core.istore_wf | with_reducible apply Core.iteFst_memWf | with_reducible apply Core.ite_memWf | with_reducible apply Core.rf_wf | with_reducible apply Core.store_wf | with_reducible apply EngAcc.fault_memWf | with_reducible apply EngAcc.ite_memWf | with_reducible apply EngAcc.ok_memWf | with_reducible apply EngAcc.poison_memWf | with_reducible apply EngAcc.wait_memWf | with_reducible apply EngAcc.window_memWf | with_reducible apply Mem.wf_clear | with_reducible apply Mem.wf_filter | with_reducible apply Mem.wf_set | with_reducible apply Mem.wf_write | with_reducible apply Res.ite_memWf | with_reducible apply State.cap_wf | with_reducible apply State.core_memWf | with_reducible apply State.cores_wf | with_reducible apply State.endCmd_memWf | with_reducible apply State.hbm_wf | with_reducible apply State.iteFst_memWf | with_reducible apply State.ite_memWf | with_reducible apply State.modCmd_memWf | with_reducible apply State.post_memWf | with_reducible apply State.setEnc_memWf | with_reducible apply Xl.fail_memWf | with_reducible apply Xl.ite_memWf | with_reducible apply Xl.ok_memWf | with_reducible apply Xl.wait_memWf | (refine EngAcc.ok_of_eq ?_ (by with_reducible assumption)) | (refine EngAcc.poison_of_eq ?_ (by with_reducible assumption)) | (refine EngAcc.fault_of_eq ?_ (by with_reducible assumption)) | (refine EngAcc.window_of_eq ?_ (by with_reducible assumption)) | (refine EngAcc.wait_of_eq ?_ (by with_reducible assumption)) | (refine State.fst_of_eq ?_ (by with_reducible assumption)) | (refine Core.fst_of_eq ?_ (by with_reducible assumption)) | split | (with_reducible refine State.mk_memWf ?_ ?_ ?_) | (with_reducible refine Core.mk_memWf ?_ ?_ ?_ ?_ ?_)

@[simp ↓] theorem execPeerAccess_memWf (c n : Nat) (s : State) (hs : s.memWf = true) :
    outMemWf (execPeerAccess c n s) = true := by
  unfold execPeerAccess
  split
  · exact hs
  · rename_i q _
    extract_lets x m
    split
    · exact hs
    · split
      · exact outMemWf_next (State.encStep_memWf _ _ _ _ hs)
      · split
        · exact outMemWf_next (State.post_memWf _ _ (State.modCmd_memWf _ _ _ _ hs))
        · exact outMemWf_next (State.endCmd_memWf _ _ _ _ _ _ _ hs)
        · split
          · split
            · exact outMemWf_next (State.endCmd_memWf _ _ _ _ _ _ _ hs)
            · split
              · exact outMemWf_next (State.endCmd_memWf _ _ _ _ _ _ _ hs)
              · exact outMemWf_next (State.endCmd_memWf _ _ _ _ _ _ _ (State.bumpCounter_memWf _ _ _ hs))
          · split
            · exact outMemWf_next (State.endCmd_memWf _ _ _ _ _ _ _ hs)
            · exact outMemWf_next (State.post_memWf _ _ (State.modCmd_memWf _ _ _ _
                (stepMemWf_of_eq (State.peerStep_memWf _ _ _ _ _ hs) ‹_›)))

@[simp ↓] theorem execPeerWaitTimeout_memWf (c n : Nat) (s : State) (hs : s.memWf = true) :
    outMemWf (execPeerWaitTimeout c n s) = true := by
  unfold execPeerWaitTimeout
  (try dsimp only)
  repeat' first | with_reducible assumption | with_reducible rfl | (intro _) | with_reducible apply Core.acc_wf | with_reducible apply Core.banks_wf | with_reducible apply Core.istore_wf | with_reducible apply Core.iteFst_memWf | with_reducible apply Core.ite_memWf | with_reducible apply Core.rf_wf | with_reducible apply Core.store_wf | with_reducible apply EngAcc.fault_memWf | with_reducible apply EngAcc.ite_memWf | with_reducible apply EngAcc.ok_memWf | with_reducible apply EngAcc.poison_memWf | with_reducible apply EngAcc.wait_memWf | with_reducible apply EngAcc.window_memWf | with_reducible apply Res.ite_memWf | with_reducible apply State.cap_wf | with_reducible apply State.cores_wf | with_reducible apply State.endCmd_memWf | with_reducible apply State.hbm_wf | with_reducible apply State.iteFst_memWf | with_reducible apply State.ite_memWf | with_reducible apply Xl.fail_memWf | with_reducible apply Xl.ite_memWf | with_reducible apply Xl.ok_memWf | with_reducible apply Xl.wait_memWf | with_reducible apply outMemWf_fault | with_reducible apply outMemWf_ite | with_reducible apply outMemWf_next | (refine EngAcc.ok_of_eq ?_ (by with_reducible assumption)) | (refine EngAcc.poison_of_eq ?_ (by with_reducible assumption)) | (refine EngAcc.fault_of_eq ?_ (by with_reducible assumption)) | (refine EngAcc.window_of_eq ?_ (by with_reducible assumption)) | (refine EngAcc.wait_of_eq ?_ (by with_reducible assumption)) | (refine State.fst_of_eq ?_ (by with_reducible assumption)) | (refine Core.fst_of_eq ?_ (by with_reducible assumption)) | split | (with_reducible refine State.mk_memWf ?_ ?_ ?_) | (with_reducible refine Core.mk_memWf ?_ ?_ ?_ ?_ ?_)

@[simp ↓] theorem execGetPutComplete_memWf (c n : Nat) (s : State) (hs : s.memWf = true) :
    outMemWf (execGetPutComplete c n s) = true := by
  unfold execGetPutComplete
  (try dsimp only)
  repeat' first | with_reducible assumption | with_reducible rfl | (intro _) | with_reducible apply Core.acc_wf | with_reducible apply Core.banks_wf | with_reducible apply Core.istore_wf | with_reducible apply Core.iteFst_memWf | with_reducible apply Core.ite_memWf | with_reducible apply Core.rf_wf | with_reducible apply Core.store_wf | with_reducible apply Core.writeStore_memWf | with_reducible apply EngAcc.fault_memWf | with_reducible apply EngAcc.ite_memWf | with_reducible apply EngAcc.ok_memWf | with_reducible apply EngAcc.poison_memWf | with_reducible apply EngAcc.wait_memWf | with_reducible apply EngAcc.window_memWf | with_reducible apply Res.ite_memWf | with_reducible apply State.cap_wf | with_reducible apply State.cores_wf | with_reducible apply State.hbm_wf | with_reducible apply State.iteFst_memWf | with_reducible apply State.ite_memWf | with_reducible apply State.modCore_memWf | with_reducible apply State.signal_memWf | with_reducible apply Xl.fail_memWf | with_reducible apply Xl.ite_memWf | with_reducible apply Xl.ok_memWf | with_reducible apply Xl.wait_memWf | with_reducible apply outMemWf_fault | with_reducible apply outMemWf_ite | with_reducible apply outMemWf_next | (refine EngAcc.ok_of_eq ?_ (by with_reducible assumption)) | (refine EngAcc.poison_of_eq ?_ (by with_reducible assumption)) | (refine EngAcc.fault_of_eq ?_ (by with_reducible assumption)) | (refine EngAcc.window_of_eq ?_ (by with_reducible assumption)) | (refine EngAcc.wait_of_eq ?_ (by with_reducible assumption)) | (refine State.fst_of_eq ?_ (by with_reducible assumption)) | (refine Core.fst_of_eq ?_ (by with_reducible assumption)) | split | (with_reducible refine State.mk_memWf ?_ ?_ ?_) | (with_reducible refine Core.mk_memWf ?_ ?_ ?_ ?_ ?_)

@[simp ↓] theorem State.writeFrame_memWf (f : Nat) (s : State) (e st : Nat) (hs : s.memWf = true) :
    (State.writeFrame f s e st).memWf = true := by
  induction f generalizing s with
  | zero => exact hs
  | succ f ih =>
    unfold State.writeFrame
    dsimp only
    split
    · exact hs
    · have h := State.engXlate_memWf s (s.agentCore (e / 2)) 6 (qf (s.ctlQ (encOff e st 0)) 7 0)
        ((s.ctlQ (encOff e st 1)).toNat + (s.enc e st).ringUsed % max (qf (s.ctlQ (encOff e st 2)) 31 0 * 4096) 1) true
        (.encoderFrameStart e st) hs
      split
      · exact Xl.wait_of_eq h ‹_›
      · exact State.setEnc_memWf _ _ _ _ (Xl.fail_of_eq h ‹_›)
      · have hs' := Xl.ok_of_eq h ‹_›
        split
        · exact State.post_memWf _ _ hs'
        · split
          · exact ih _ (State.setEnc_memWf _ _ _ _ (State.targetWrite_memWf _ _ _ _ hs'))
          · exact State.setEnc_memWf _ _ _ _ hs'

@[simp ↓] theorem execEncoderFrameStart_memWf (e st : Nat) (s : State) (hs : s.memWf = true) :
    outMemWf (execEncoderFrameStart e st s) = true := by
  unfold execEncoderFrameStart
  (try dsimp only)
  repeat' first | with_reducible assumption | with_reducible rfl | (intro _) | with_reducible apply State.getD_memWf | with_reducible apply Core.acc_wf | with_reducible apply Core.banks_wf | with_reducible apply Core.istore_wf | with_reducible apply Core.rf_wf | with_reducible apply Core.store_wf | with_reducible apply EngAcc.fault_memWf | with_reducible apply EngAcc.ite_memWf | with_reducible apply EngAcc.ok_memWf | with_reducible apply EngAcc.poison_memWf | with_reducible apply EngAcc.wait_memWf | with_reducible apply EngAcc.window_memWf | with_reducible apply Mem.wf_clear | with_reducible apply Mem.wf_filter | with_reducible apply Mem.wf_set | with_reducible apply Mem.wf_write | with_reducible apply State.cap_wf | with_reducible apply State.cores_wf | with_reducible apply State.emit_memWf | with_reducible apply State.hbm_wf | with_reducible apply State.setEnc_memWf | with_reducible apply State.writeFrame_memWf | with_reducible apply Xl.fail_memWf | with_reducible apply Xl.ite_memWf | with_reducible apply Xl.ok_memWf | with_reducible apply Xl.wait_memWf | with_reducible apply outMemWf_fault | with_reducible apply outMemWf_ite | with_reducible apply outMemWf_next | (refine EngAcc.ok_of_eq ?_ (by with_reducible assumption)) | (refine EngAcc.poison_of_eq ?_ (by with_reducible assumption)) | (refine EngAcc.fault_of_eq ?_ (by with_reducible assumption)) | (refine EngAcc.window_of_eq ?_ (by with_reducible assumption)) | (refine EngAcc.wait_of_eq ?_ (by with_reducible assumption)) | (refine State.fst_of_eq ?_ (by with_reducible assumption)) | (refine Core.fst_of_eq ?_ (by with_reducible assumption)) | split | (with_reducible refine State.mk_memWf ?_ ?_ ?_) | (with_reducible refine Core.mk_memWf ?_ ?_ ?_ ?_ ?_)

@[simp ↓] theorem execEncoderFrameDone_memWf (e st : Nat) (bytes : List Byte) (s : State) (hs : s.memWf = true) :
    outMemWf (execEncoderFrameDone e st bytes s) = true := by
  unfold execEncoderFrameDone
  (try dsimp only)
  repeat' first | with_reducible assumption | with_reducible rfl | (intro _) | with_reducible apply State.getD_memWf | with_reducible apply Core.acc_wf | with_reducible apply Core.banks_wf | with_reducible apply Core.istore_wf | with_reducible apply Core.iteFst_memWf | with_reducible apply Core.ite_memWf | with_reducible apply Core.rf_wf | with_reducible apply Core.store_wf | with_reducible apply EngAcc.fault_memWf | with_reducible apply EngAcc.ite_memWf | with_reducible apply EngAcc.ok_memWf | with_reducible apply EngAcc.poison_memWf | with_reducible apply EngAcc.wait_memWf | with_reducible apply EngAcc.window_memWf | with_reducible apply Mem.wf_clear | with_reducible apply Mem.wf_filter | with_reducible apply Mem.wf_set | with_reducible apply Mem.wf_write | with_reducible apply Res.ite_memWf | with_reducible apply State.cap_wf | with_reducible apply State.cores_wf | with_reducible apply State.hbm_wf | with_reducible apply State.iteFst_memWf | with_reducible apply State.ite_memWf | with_reducible apply State.postOnce_memWf | with_reducible apply State.setEnc_memWf | with_reducible apply State.setField_memWf | with_reducible apply Xl.fail_memWf | with_reducible apply Xl.ite_memWf | with_reducible apply Xl.ok_memWf | with_reducible apply Xl.wait_memWf | with_reducible apply outMemWf_fault | with_reducible apply outMemWf_ite | with_reducible apply outMemWf_next | (refine EngAcc.ok_of_eq ?_ (by with_reducible assumption)) | (refine EngAcc.poison_of_eq ?_ (by with_reducible assumption)) | (refine EngAcc.fault_of_eq ?_ (by with_reducible assumption)) | (refine EngAcc.window_of_eq ?_ (by with_reducible assumption)) | (refine EngAcc.wait_of_eq ?_ (by with_reducible assumption)) | (refine State.fst_of_eq ?_ (by with_reducible assumption)) | (refine Core.fst_of_eq ?_ (by with_reducible assumption)) | split | (with_reducible refine State.mk_memWf ?_ ?_ ?_) | (with_reducible refine Core.mk_memWf ?_ ?_ ?_ ?_ ?_)

@[simp ↓] theorem State.configStream_memWf (s : State) (e st : Nat) (v : DWord) (hs : s.memWf = true) :
    (State.configStream s e st v).memWf = true := by
  unfold State.configStream
  simp +contextual (maxDischargeDepth := 60) only [↓Core.foldlFst_memWf, ↓Core.foldl_memWf, ↓Core.iteFst_memWf, ↓Core.ite_memWf, ↓EngAcc.fault_memWf, ↓EngAcc.ite_memWf, ↓EngAcc.ok_memWf, ↓EngAcc.poison_memWf, ↓EngAcc.wait_memWf, ↓EngAcc.window_memWf, ↓Mem.wf_clear, ↓Mem.wf_filter, ↓Mem.wf_set, ↓Mem.wf_write, ↓Res.ite_memWf, ↓State.foldlFst_memWf, ↓State.foldl_memWf, ↓State.iteFst_memWf, ↓State.ite_memWf, ↓State.setCtl_memWf, ↓State.setEnc_memWf, ↓State.setField_memWf, ↓Xl.fail_memWf, ↓Xl.ite_memWf, ↓Xl.ok_memWf, ↓Xl.wait_memWf, hs, implies_true]

@[simp ↓] theorem execEncoderStreamConfig_memWf (e st : Nat) (v : DWord) (s : State) (hs : s.memWf = true) :
    outMemWf (execEncoderStreamConfig e st v s) = true := by
  unfold execEncoderStreamConfig
  simp +contextual (maxDischargeDepth := 60) only [↓EngAcc.fault_memWf, ↓EngAcc.ite_memWf, ↓EngAcc.ok_memWf, ↓EngAcc.poison_memWf, ↓EngAcc.wait_memWf, ↓EngAcc.window_memWf, ↓State.configStream_memWf, ↓Xl.fail_memWf, ↓Xl.ite_memWf, ↓Xl.ok_memWf, ↓Xl.wait_memWf, ↓outMemWf_fault, ↓outMemWf_ite, ↓outMemWf_next, hs, implies_true]

@[simp ↓] theorem State.wakeLink_memWf (s : State) (hs : s.memWf = true) :
    (State.wakeLink s).memWf = true := by
  unfold State.wakeLink
  simp +contextual (maxDischargeDepth := 60) only [↓Core.acc_wf, ↓Core.banks_wf, ↓Core.foldlFst_memWf, ↓Core.foldl_memWf, ↓Core.istore_wf, ↓Core.iteFst_memWf, ↓Core.ite_memWf, ↓Core.mk_memWf, ↓Core.rf_wf, ↓Core.store_wf, ↓Core.wake_memWf, ↓EngAcc.fault_memWf, ↓EngAcc.ite_memWf, ↓EngAcc.ok_memWf, ↓EngAcc.poison_memWf, ↓EngAcc.wait_memWf, ↓EngAcc.window_memWf, ↓Mem.nil_wf, ↓Res.ite_memWf, ↓State.cap_wf, ↓State.cores_wf, ↓State.foldlFst_memWf, ↓State.foldl_memWf, ↓State.hbm_wf, ↓State.iteFst_memWf, ↓State.ite_memWf, ↓State.mapCores_wf, ↓State.mk_memWf, ↓State.nil_wf, ↓State.postOnce_memWf, ↓State.xlate_memWf, ↓Xl.fail_memWf, ↓Xl.ite_memWf, ↓Xl.ok_memWf, ↓Xl.wait_memWf, hs, implies_true]

@[simp ↓] theorem execCapacityLinkTraining_memWf (b major _minor : Nat) (s : State) (hs : s.memWf = true) :
    outMemWf (execCapacityLinkTraining b major _minor s) = true := by
  unfold execCapacityLinkTraining
  simp +contextual (maxDischargeDepth := 60) only [↓Core.iteFst_memWf, ↓Core.ite_memWf, ↓EngAcc.fault_memWf, ↓EngAcc.ite_memWf, ↓EngAcc.ok_memWf, ↓EngAcc.poison_memWf, ↓EngAcc.wait_memWf, ↓EngAcc.window_memWf, ↓Res.ite_memWf, ↓State.iteFst_memWf, ↓State.ite_memWf, ↓State.setField_memWf, ↓State.wakeLink_memWf, ↓Xl.fail_memWf, ↓Xl.ite_memWf, ↓Xl.ok_memWf, ↓Xl.wait_memWf, ↓outMemWf_fault, ↓outMemWf_ite, ↓outMemWf_next, hs, implies_true]

@[simp ↓] theorem execCapacityReplayFail_memWf (b : Nat) (s : State) (hs : s.memWf = true) :
    outMemWf (execCapacityReplayFail b s) = true := by
  unfold execCapacityReplayFail
  simp +contextual (maxDischargeDepth := 60) only [↓Core.iteFst_memWf, ↓Core.ite_memWf, ↓EngAcc.fault_memWf, ↓EngAcc.ite_memWf, ↓EngAcc.ok_memWf, ↓EngAcc.poison_memWf, ↓EngAcc.wait_memWf, ↓EngAcc.window_memWf, ↓Res.ite_memWf, ↓State.bumpField_memWf, ↓State.iteFst_memWf, ↓State.ite_memWf, ↓State.setField_memWf, ↓Xl.fail_memWf, ↓Xl.ite_memWf, ↓Xl.ok_memWf, ↓Xl.wait_memWf, ↓outMemWf_fault, ↓outMemWf_ite, ↓outMemWf_next, hs, implies_true]

@[simp ↓] theorem execCapacityRetrainTimeout_memWf (b : Nat) (s : State) (hs : s.memWf = true) :
    outMemWf (execCapacityRetrainTimeout b s) = true := by
  unfold execCapacityRetrainTimeout
  simp +contextual (maxDischargeDepth := 60) only [↓Core.iteFst_memWf, ↓Core.ite_memWf, ↓EngAcc.fault_memWf, ↓EngAcc.ite_memWf, ↓EngAcc.ok_memWf, ↓EngAcc.poison_memWf, ↓EngAcc.wait_memWf, ↓EngAcc.window_memWf, ↓Res.ite_memWf, ↓State.iteFst_memWf, ↓State.ite_memWf, ↓State.setField_memWf, ↓State.wakeLink_memWf, ↓Xl.fail_memWf, ↓Xl.ite_memWf, ↓Xl.ok_memWf, ↓Xl.wait_memWf, ↓outMemWf_fault, ↓outMemWf_ite, ↓outMemWf_next, hs, implies_true]

@[simp ↓] theorem execCapacityLinkReenable_memWf (b : Nat) (s : State) (hs : s.memWf = true) :
    outMemWf (execCapacityLinkReenable b s) = true := by
  unfold execCapacityLinkReenable
  simp +contextual (maxDischargeDepth := 60) only [↓Core.iteFst_memWf, ↓Core.ite_memWf, ↓EngAcc.fault_memWf, ↓EngAcc.ite_memWf, ↓EngAcc.ok_memWf, ↓EngAcc.poison_memWf, ↓EngAcc.wait_memWf, ↓EngAcc.window_memWf, ↓Res.ite_memWf, ↓State.bumpField_memWf, ↓State.iteFst_memWf, ↓State.ite_memWf, ↓State.setField_memWf, ↓Xl.fail_memWf, ↓Xl.ite_memWf, ↓Xl.ok_memWf, ↓Xl.wait_memWf, ↓outMemWf_fault, ↓outMemWf_ite, ↓outMemWf_next, hs, implies_true]

@[simp ↓] theorem State.registerTable_memWf (s : State) (b t : Nat) (qw0 : DWord) (hs : s.memWf = true) :
    (State.registerTable s b t qw0).memWf = true := by
  unfold State.registerTable
  simp +contextual (maxDischargeDepth := 60) only [↓Core.iteFst_memWf, ↓Core.ite_memWf, ↓EngAcc.fault_memWf, ↓EngAcc.ite_memWf, ↓EngAcc.ok_memWf, ↓EngAcc.poison_memWf, ↓EngAcc.wait_memWf, ↓EngAcc.window_memWf, ↓Res.ite_memWf, ↓State.iteFst_memWf, ↓State.ite_memWf, ↓State.setCtl_memWf, ↓Xl.fail_memWf, ↓Xl.ite_memWf, ↓Xl.ok_memWf, ↓Xl.wait_memWf, hs, implies_true]

@[simp ↓] theorem execTableRegister_memWf (b t : Nat) (qw0 : DWord) (s : State) (hs : s.memWf = true) :
    outMemWf (execTableRegister b t qw0 s) = true := by
  unfold execTableRegister
  simp +contextual (maxDischargeDepth := 60) only [↓EngAcc.fault_memWf, ↓EngAcc.ite_memWf, ↓EngAcc.ok_memWf, ↓EngAcc.poison_memWf, ↓EngAcc.wait_memWf, ↓EngAcc.window_memWf, ↓State.registerTable_memWf, ↓Xl.fail_memWf, ↓Xl.ite_memWf, ↓Xl.ok_memWf, ↓Xl.wait_memWf, ↓outMemWf_fault, ↓outMemWf_ite, ↓outMemWf_next, hs, implies_true]

@[simp ↓] theorem State.startBag_memWf (s : State) (c n : Nat) (q : Cmd) (hs : s.memWf = true) :
    (State.startBag s c n q).memWf = true := by
  unfold State.startBag
  simp +contextual (maxDischargeDepth := 60) only [↓Core.acc_wf, ↓Core.banks_wf, ↓Core.foldlFst_memWf, ↓Core.foldl_memWf, ↓Core.istore_wf, ↓Core.iteFst_memWf, ↓Core.ite_memWf, ↓Core.mk_memWf, ↓Core.rf_wf, ↓Core.store_wf, ↓EngAcc.fault_memWf, ↓EngAcc.ite_memWf, ↓EngAcc.ok_memWf, ↓EngAcc.poison_memWf, ↓EngAcc.wait_memWf, ↓EngAcc.window_memWf, ↓Res.ite_memWf, ↓State.cap_wf, ↓State.core_memWf, ↓State.cores_wf, ↓State.endCmd_memWf, ↓State.foldlFst_memWf, ↓State.foldl_memWf, ↓State.hbm_wf, ↓State.iteFst_memWf, ↓State.ite_memWf, ↓State.mk_memWf, ↓State.modCmd_memWf, ↓State.post_memWf, ↓Xl.fail_memWf, ↓Xl.ite_memWf, ↓Xl.ok_memWf, ↓Xl.wait_memWf, hs, implies_true]

@[simp ↓] theorem execBagQueryExecute_memWf (c n : Nat) (s : State) (hs : s.memWf = true) :
    outMemWf (execBagQueryExecute c n s) = true := by
  unfold execBagQueryExecute
  (try dsimp only)
  repeat' first | with_reducible assumption | with_reducible rfl | (intro _) | with_reducible apply State.getD_memWf | with_reducible apply Core.acc_wf | with_reducible apply Core.banks_wf | with_reducible apply Core.foldlFst_memWf | with_reducible apply Core.foldl_memWf | with_reducible apply Core.istore_wf | with_reducible apply Core.iteFst_memWf | with_reducible apply Core.ite_memWf | with_reducible apply Core.rf_wf | with_reducible apply Core.store_wf | with_reducible apply EngAcc.fault_memWf | with_reducible apply EngAcc.ite_memWf | with_reducible apply EngAcc.ok_memWf | with_reducible apply EngAcc.poison_memWf | with_reducible apply EngAcc.wait_memWf | with_reducible apply EngAcc.window_memWf | with_reducible apply Mem.wf_clear | with_reducible apply Mem.wf_filter | with_reducible apply Mem.wf_set | with_reducible apply Mem.wf_write | with_reducible apply Res.ite_memWf | with_reducible apply State.cap_wf | with_reducible apply State.cores_wf | with_reducible apply State.endCmd_memWf | with_reducible apply State.foldlFst_memWf | with_reducible apply State.foldl_memWf | with_reducible apply State.hbm_wf | with_reducible apply State.iteFst_memWf | with_reducible apply State.ite_memWf | with_reducible apply State.modCmd_memWf | with_reducible apply State.post_memWf | with_reducible apply Xl.fail_memWf | with_reducible apply Xl.ite_memWf | with_reducible apply Xl.ok_memWf | with_reducible apply Xl.wait_memWf | with_reducible apply outMemWf_fault | with_reducible apply outMemWf_ite | with_reducible apply outMemWf_next | (refine EngAcc.ok_of_eq ?_ (by with_reducible assumption)) | (refine EngAcc.poison_of_eq ?_ (by with_reducible assumption)) | (refine EngAcc.fault_of_eq ?_ (by with_reducible assumption)) | (refine EngAcc.window_of_eq ?_ (by with_reducible assumption)) | (refine EngAcc.wait_of_eq ?_ (by with_reducible assumption)) | (refine State.fst_of_eq ?_ (by with_reducible assumption)) | (refine Core.fst_of_eq ?_ (by with_reducible assumption)) | split | (with_reducible refine State.mk_memWf ?_ ?_ ?_) | (with_reducible refine Core.mk_memWf ?_ ?_ ?_ ?_ ?_)

@[simp ↓] theorem execBagQueryReply_memWf (c n : Nat) (s : State) (hs : s.memWf = true) :
    outMemWf (execBagQueryReply c n s) = true := by
  unfold execBagQueryReply
  (try dsimp only)
  repeat' first | with_reducible assumption | with_reducible rfl | (intro _) | with_reducible apply Core.acc_wf | with_reducible apply Core.banks_wf | with_reducible apply Core.istore_wf | with_reducible apply Core.iteFst_memWf | with_reducible apply Core.ite_memWf | with_reducible apply Core.rf_wf | with_reducible apply Core.store_wf | with_reducible apply Core.writeStore_memWf | with_reducible apply EngAcc.fault_memWf | with_reducible apply EngAcc.ite_memWf | with_reducible apply EngAcc.ok_memWf | with_reducible apply EngAcc.poison_memWf | with_reducible apply EngAcc.wait_memWf | with_reducible apply EngAcc.window_memWf | with_reducible apply Res.ite_memWf | with_reducible apply State.cap_wf | with_reducible apply State.cores_wf | with_reducible apply State.hbm_wf | with_reducible apply State.iteFst_memWf | with_reducible apply State.ite_memWf | with_reducible apply State.modCmd_memWf | with_reducible apply State.modCore_memWf | with_reducible apply State.signalAt_memWf | with_reducible apply Xl.fail_memWf | with_reducible apply Xl.ite_memWf | with_reducible apply Xl.ok_memWf | with_reducible apply Xl.wait_memWf | with_reducible apply outMemWf_fault | with_reducible apply outMemWf_ite | with_reducible apply outMemWf_next | (refine EngAcc.ok_of_eq ?_ (by with_reducible assumption)) | (refine EngAcc.poison_of_eq ?_ (by with_reducible assumption)) | (refine EngAcc.fault_of_eq ?_ (by with_reducible assumption)) | (refine EngAcc.window_of_eq ?_ (by with_reducible assumption)) | (refine EngAcc.wait_of_eq ?_ (by with_reducible assumption)) | (refine State.fst_of_eq ?_ (by with_reducible assumption)) | (refine Core.fst_of_eq ?_ (by with_reducible assumption)) | split | (with_reducible refine State.mk_memWf ?_ ?_ ?_) | (with_reducible refine Core.mk_memWf ?_ ?_ ?_ ?_ ?_)

@[simp ↓] theorem State.startCmd_memWf (s : State) (c n : Nat) (q : Cmd) (hs : s.memWf = true) :
    (State.startCmd s c n q).memWf = true := by
  unfold State.startCmd
  (try dsimp only)
  repeat' first | with_reducible assumption | with_reducible rfl | (intro _) | with_reducible apply Core.acc_wf | with_reducible apply Core.banks_wf | with_reducible apply Core.istore_wf | with_reducible apply Core.iteFst_memWf | with_reducible apply Core.ite_memWf | with_reducible apply Core.rf_wf | with_reducible apply Core.store_wf | with_reducible apply Res.ite_memWf | with_reducible apply State.cap_wf | with_reducible apply State.cores_wf | with_reducible apply State.hbm_wf | with_reducible apply State.iteFst_memWf | with_reducible apply State.ite_memWf | with_reducible apply State.startBag_memWf | with_reducible apply State.startColl_memWf | with_reducible apply State.startCopy_memWf | with_reducible apply State.startMatrix_memWf | with_reducible apply State.startPeer_memWf | (refine EngAcc.ok_of_eq ?_ (by with_reducible assumption)) | (refine EngAcc.poison_of_eq ?_ (by with_reducible assumption)) | (refine EngAcc.fault_of_eq ?_ (by with_reducible assumption)) | (refine EngAcc.window_of_eq ?_ (by with_reducible assumption)) | (refine EngAcc.wait_of_eq ?_ (by with_reducible assumption)) | (refine State.fst_of_eq ?_ (by with_reducible assumption)) | (refine Core.fst_of_eq ?_ (by with_reducible assumption)) | split | (with_reducible refine State.mk_memWf ?_ ?_ ?_) | (with_reducible refine Core.mk_memWf ?_ ?_ ?_ ?_ ?_)

@[simp ↓] theorem execEngineTakeCommand_memWf (c eng : Nat) (s : State) (hs : s.memWf = true) :
    outMemWf (execEngineTakeCommand c eng s) = true := by
  unfold execEngineTakeCommand
  (try dsimp only)
  repeat' first | with_reducible assumption | with_reducible rfl | (intro _) | with_reducible apply Core.acc_wf | with_reducible apply Core.banks_wf | with_reducible apply Core.foldlFst_memWf | with_reducible apply Core.foldl_memWf | with_reducible apply Core.istore_wf | with_reducible apply Core.iteFst_memWf | with_reducible apply Core.ite_memWf | with_reducible apply Core.rf_wf | with_reducible apply Core.store_wf | with_reducible apply Mem.wf_clear | with_reducible apply Mem.wf_filter | with_reducible apply Mem.wf_set | with_reducible apply Mem.wf_write | with_reducible apply Res.ite_memWf | with_reducible apply State.acquire_memWf | with_reducible apply State.cap_wf | with_reducible apply State.core_memWf | with_reducible apply State.cores_wf | with_reducible apply State.foldlFst_memWf | with_reducible apply State.foldl_memWf | with_reducible apply State.hbm_wf | with_reducible apply State.iteFst_memWf | with_reducible apply State.ite_memWf | with_reducible apply State.modCmd_memWf | with_reducible apply State.postOnce_memWf | with_reducible apply State.post_memWf | with_reducible apply State.startCmd_memWf | with_reducible apply outMemWf_fault | with_reducible apply outMemWf_ite | with_reducible apply outMemWf_next | (refine EngAcc.ok_of_eq ?_ (by with_reducible assumption)) | (refine EngAcc.poison_of_eq ?_ (by with_reducible assumption)) | (refine EngAcc.fault_of_eq ?_ (by with_reducible assumption)) | (refine EngAcc.window_of_eq ?_ (by with_reducible assumption)) | (refine EngAcc.wait_of_eq ?_ (by with_reducible assumption)) | (refine State.fst_of_eq ?_ (by with_reducible assumption)) | (refine Core.fst_of_eq ?_ (by with_reducible assumption)) | split | (with_reducible refine State.mk_memWf ?_ ?_ ?_) | (with_reducible refine Core.mk_memWf ?_ ?_ ?_ ?_ ?_)

end Sys2Proof.Machine
end

