-- ==== Sys2Proof/Laws/CanonSystem.lean ====
section
/-! SUPPORT. System instructions and overlays keep the canonical form of storage. -/

set_option linter.unusedSimpArgs false

namespace Sys2Proof.Machine

@[simp ↓] theorem State.srClear_memWf (s : State) (x : Ctx) (n : Nat) (hs : s.memWf = true) :
    (State.srClear s x n).memWf = true := by
  unfold State.srClear
  simp +contextual (maxDischargeDepth := 60) only [↓Core.acc_wf, ↓Core.banks_wf, ↓Core.istore_wf, ↓Core.iteFst_memWf, ↓Core.ite_memWf, ↓Core.mk_memWf, ↓Core.rf_wf, ↓Core.store_wf, ↓Res.ite_memWf, ↓State.cap_wf, ↓State.core_memWf, ↓State.cores_wf, ↓State.hbm_wf, ↓State.iteFst_memWf, ↓State.ite_memWf, ↓State.mk_memWf, ↓State.modCore_memWf, hs, implies_true]

@[simp ↓] theorem execRdsr_memWf (d : SReg) (n : BitVec 11) (s : State) (hs : s.memWf = true) :
    outMemWf (execRdsr d n s) = true := by
  unfold execRdsr
  refine run_memWf _ _ _ (fun x s h => ?_) hs
  (try dsimp only)
  repeat' first | with_reducible assumption | with_reducible rfl | (intro _) | with_reducible apply Core.iteFst_memWf | with_reducible apply Core.ite_memWf | with_reducible apply Res.done_memWf | with_reducible apply Res.ite_memWf | with_reducible apply Res.moved_memWf | with_reducible apply Res.trap_memWf | with_reducible apply Res.wait_memWf | with_reducible apply State.iteFst_memWf | with_reducible apply State.ite_memWf | with_reducible apply State.srClear_memWf | with_reducible apply State.writeS_memWf | with_reducible apply misaligned_memWf | with_reducible apply prot_memWf | (refine EngAcc.ok_of_eq ?_ (by with_reducible assumption)) | (refine EngAcc.poison_of_eq ?_ (by with_reducible assumption)) | (refine EngAcc.fault_of_eq ?_ (by with_reducible assumption)) | (refine EngAcc.window_of_eq ?_ (by with_reducible assumption)) | (refine EngAcc.wait_of_eq ?_ (by with_reducible assumption)) | (refine State.fst_of_eq ?_ (by with_reducible assumption)) | (refine Core.fst_of_eq ?_ (by with_reducible assumption)) | split | (with_reducible refine State.mk_memWf ?_ ?_ ?_) | (with_reducible refine Core.mk_memWf ?_ ?_ ?_ ?_ ?_)

@[simp ↓] theorem State.writeSeed_memWf (s : State) (x : Ctx) (v : Word) (hs : s.memWf = true) :
    (State.writeSeed s x v).memWf = true := by
  unfold State.writeSeed
  simp +contextual (maxDischargeDepth := 60) only [↓Core.acc_wf, ↓Core.banks_wf, ↓Core.istore_wf, ↓Core.mk_memWf, ↓Core.rf_wf, ↓Core.store_wf, ↓State.cap_wf, ↓State.core_memWf, ↓State.cores_wf, ↓State.hbm_wf, ↓State.mk_memWf, ↓State.modGroup_memWf, hs, implies_true]

@[simp ↓] theorem State.writeArith_memWf (s : State) (x : Ctx) (v : Word) (hs : s.memWf = true) :
    (State.writeArith s x v).memWf = true := by
  unfold State.writeArith
  simp +contextual (maxDischargeDepth := 60) only [↓Core.acc_wf, ↓Core.banks_wf, ↓Core.istore_wf, ↓Core.mk_memWf, ↓Core.rf_wf, ↓Core.store_wf, ↓State.cap_wf, ↓State.core_memWf, ↓State.cores_wf, ↓State.hbm_wf, ↓State.mk_memWf, ↓State.modGroup_memWf, hs, implies_true]

@[simp ↓] theorem State.setPool_memWf (s : State) (c n : Nat) (hs : s.memWf = true) :
    (State.setPool s c n).1.memWf = true := by
  unfold State.setPool
  simp +contextual (maxDischargeDepth := 60) only [↓Core.acc_wf, ↓Core.banks_wf, ↓Core.istore_wf, ↓Core.iteFst_memWf, ↓Core.ite_memWf, ↓Core.mk_memWf, ↓Core.reclaimRange_memWf, ↓Core.relend_memWf, ↓Core.rf_wf, ↓Core.store_wf, ↓Res.ite_memWf, ↓State.cap_wf, ↓State.core_memWf, ↓State.cores_wf, ↓State.hbm_wf, ↓State.iteFst_memWf, ↓State.ite_memWf, ↓State.mk_memWf, ↓State.setCore_memWf, hs, implies_true]

@[simp ↓] theorem State.writeStoreMap_memWf (s : State) (c : Nat) (v : Word) (hs : s.memWf = true) :
    (State.writeStoreMap s c v).memWf = true := by
  unfold State.writeStoreMap
  simp +contextual (maxDischargeDepth := 60) only [↓State.setPool_memWf, hs, implies_true]

@[simp ↓] theorem State.popRecord_memWf (s : State) (c : Nat) (v : Word) (hs : s.memWf = true) :
    (State.popRecord s c v).memWf = true := by
  unfold State.popRecord
  simp +contextual (maxDischargeDepth := 60) only [↓Core.acc_wf, ↓Core.banks_wf, ↓Core.istore_wf, ↓Core.iteFst_memWf, ↓Core.ite_memWf, ↓Core.mk_memWf, ↓Core.rf_wf, ↓Core.store_wf, ↓Res.ite_memWf, ↓State.cap_wf, ↓State.cores_wf, ↓State.hbm_wf, ↓State.iteFst_memWf, ↓State.ite_memWf, ↓State.mk_memWf, ↓State.modCore_memWf, hs, implies_true]

@[simp ↓] theorem State.writeGresume_memWf (s : State) (c : Nat) (v : Word) (hs : s.memWf = true) :
    (State.writeGresume s c v).memWf = true := by
  unfold State.writeGresume
  simp +contextual (maxDischargeDepth := 60) only [↓Core.acc_wf, ↓Core.banks_wf, ↓Core.istore_wf, ↓Core.iteFst_memWf, ↓Core.ite_memWf, ↓Core.mk_memWf, ↓Core.rf_wf, ↓Core.store_wf, ↓Res.ite_memWf, ↓State.cap_wf, ↓State.cores_wf, ↓State.enterAgain_memWf, ↓State.hbm_wf, ↓State.holdAll_memWf, ↓State.iteFst_memWf, ↓State.ite_memWf, ↓State.mk_memWf, ↓State.modCore_memWf, ↓State.modGroup_memWf, ↓State.postOnce_memWf, hs, implies_true]

@[simp ↓] theorem State.popFault_memWf (s : State) (c : Nat) (uid : Nat) (v : Word) (hs : s.memWf = true) :
    (State.popFault s c uid v).memWf = true := by
  unfold State.popFault
  (try dsimp only)
  repeat' first | with_reducible assumption | with_reducible rfl | (intro _) | with_reducible apply Core.acc_wf | with_reducible apply Core.banks_wf | with_reducible apply Core.istore_wf | with_reducible apply Core.iteFst_memWf | with_reducible apply Core.ite_memWf | with_reducible apply Core.rf_wf | with_reducible apply Core.store_wf | with_reducible apply Res.ite_memWf | with_reducible apply State.admitFaults_memWf | with_reducible apply State.cap_wf | with_reducible apply State.core_memWf | with_reducible apply State.cores_wf | with_reducible apply State.hbm_wf | with_reducible apply State.iteFst_memWf | with_reducible apply State.ite_memWf | with_reducible apply State.modCore_memWf | with_reducible apply State.syncSfq_memWf | (refine EngAcc.ok_of_eq ?_ (by with_reducible assumption)) | (refine EngAcc.poison_of_eq ?_ (by with_reducible assumption)) | (refine EngAcc.fault_of_eq ?_ (by with_reducible assumption)) | (refine EngAcc.window_of_eq ?_ (by with_reducible assumption)) | (refine EngAcc.wait_of_eq ?_ (by with_reducible assumption)) | (refine State.fst_of_eq ?_ (by with_reducible assumption)) | (refine Core.fst_of_eq ?_ (by with_reducible assumption)) | split | (with_reducible refine State.mk_memWf ?_ ?_ ?_) | (with_reducible refine Core.mk_memWf ?_ ?_ ?_ ?_ ?_)

@[simp ↓] theorem State.writeSr_memWf (s : State) (x : Ctx) (n : Nat) (v : Word) (hs : s.memWf = true) :
    (State.writeSr s x n v).memWf = true := by
  unfold State.writeSr
  simp +contextual (maxDischargeDepth := 60) only [↓Core.acc_wf, ↓Core.banks_wf, ↓Core.istore_wf, ↓Core.iteFst_memWf, ↓Core.ite_memWf, ↓Core.mk_memWf, ↓Core.rf_wf, ↓Core.store_wf, ↓Res.done_memWf, ↓Res.ite_memWf, ↓Res.moved_memWf, ↓Res.trap_memWf, ↓Res.wait_memWf, ↓State.cap_wf, ↓State.core_memWf, ↓State.cores_wf, ↓State.hbm_wf, ↓State.iteFst_memWf, ↓State.ite_memWf, ↓State.mk_memWf, ↓State.modCore_memWf, ↓State.modGroup_memWf, ↓State.popFault_memWf, ↓State.popRecord_memWf, ↓State.writeArith_memWf, ↓State.writeGresume_memWf, ↓State.writeSeed_memWf, ↓State.writeStoreMap_memWf, ↓misaligned_memWf, ↓prot_memWf, hs, implies_true]

@[simp ↓] theorem execWrsr_memWf (n : BitVec 11) (a : SReg) (s : State) (hs : s.memWf = true) :
    outMemWf (execWrsr n a s) = true := by
  unfold execWrsr
  refine run_memWf _ _ _ (fun x s h => ?_) hs
  (try dsimp only)
  repeat' first | with_reducible assumption | with_reducible rfl | (intro _) | with_reducible apply Core.iteFst_memWf | with_reducible apply Core.ite_memWf | with_reducible apply Res.done_memWf | with_reducible apply Res.ite_memWf | with_reducible apply Res.moved_memWf | with_reducible apply Res.trap_memWf | with_reducible apply Res.wait_memWf | with_reducible apply State.core_memWf | with_reducible apply State.iteFst_memWf | with_reducible apply State.ite_memWf | with_reducible apply State.writeSr_memWf | with_reducible apply misaligned_memWf | with_reducible apply prot_memWf | (refine EngAcc.ok_of_eq ?_ (by with_reducible assumption)) | (refine EngAcc.poison_of_eq ?_ (by with_reducible assumption)) | (refine EngAcc.fault_of_eq ?_ (by with_reducible assumption)) | (refine EngAcc.window_of_eq ?_ (by with_reducible assumption)) | (refine EngAcc.wait_of_eq ?_ (by with_reducible assumption)) | (refine State.fst_of_eq ?_ (by with_reducible assumption)) | (refine Core.fst_of_eq ?_ (by with_reducible assumption)) | split | (with_reducible refine State.mk_memWf ?_ ?_ ?_) | (with_reducible refine Core.mk_memWf ?_ ?_ ?_ ?_ ?_)

@[simp ↓] theorem asIssuer_memWf (f : Ctx → State → State) (s : State)
    (hf : ∀ x s, State.memWf s = true → (f x s).memWf = true) (hs : s.memWf = true) : outMemWf (asIssuer f s) = true := by
  unfold asIssuer
  split
  · rfl
  · exact hf _ _ hs

@[simp ↓] theorem execSeedWrite_memWf (v : Word) (s : State) (hs : s.memWf = true) :
    outMemWf (execSeedWrite v s) = true := by
  unfold execSeedWrite
  simp +contextual (maxDischargeDepth := 60) only [↓State.writeSeed_memWf, ↓asIssuer_memWf, hs, implies_true]

@[simp ↓] theorem execArithWrite_memWf (v : Word) (s : State) (hs : s.memWf = true) :
    outMemWf (execArithWrite v s) = true := by
  unfold execArithWrite
  simp +contextual (maxDischargeDepth := 60) only [↓State.writeArith_memWf, ↓asIssuer_memWf, hs, implies_true]

@[simp ↓] theorem execStoreMapWrite_memWf (v : Word) (s : State) (hs : s.memWf = true) :
    outMemWf (execStoreMapWrite v s) = true := by
  unfold execStoreMapWrite
  simp +contextual (maxDischargeDepth := 60) only [↓State.core_memWf, ↓State.writeStoreMap_memWf, ↓asIssuer_memWf, hs, implies_true]

@[simp ↓] theorem execSrpop_memWf (v : Word) (s : State) (hs : s.memWf = true) :
    outMemWf (execSrpop v s) = true := by
  unfold execSrpop
  simp +contextual (maxDischargeDepth := 60) only [↓State.core_memWf, ↓State.popRecord_memWf, ↓asIssuer_memWf, hs, implies_true]

@[simp ↓] theorem execGresume_memWf (v : Word) (s : State) (hs : s.memWf = true) :
    outMemWf (execGresume v s) = true := by
  unfold execGresume
  simp +contextual (maxDischargeDepth := 60) only [↓State.core_memWf, ↓State.writeGresume_memWf, ↓asIssuer_memWf, hs, implies_true]

@[simp ↓] theorem execSfpop_memWf (v : Word) (s : State) (hs : s.memWf = true) :
    outMemWf (execSfpop v s) = true := by
  unfold execSfpop
  simp +contextual (maxDischargeDepth := 60) only [↓State.core_memWf, ↓State.popFault_memWf, ↓asIssuer_memWf, hs, implies_true]

@[simp ↓] theorem execTrap_memWf (code : BitVec 11) (s : State) (hs : s.memWf = true) :
    outMemWf (execTrap code s) = true := by
  unfold execTrap
  refine run_memWf _ _ _ (fun x s h => ?_) hs
  (try dsimp only)
  repeat' first | with_reducible assumption | with_reducible rfl | (intro _) | with_reducible apply Core.acc_wf | with_reducible apply Core.banks_wf | with_reducible apply Core.istore_wf | with_reducible apply Core.iteFst_memWf | with_reducible apply Core.ite_memWf | with_reducible apply Core.rf_wf | with_reducible apply Core.store_wf | with_reducible apply Res.done_memWf | with_reducible apply Res.ite_memWf | with_reducible apply Res.moved_memWf | with_reducible apply Res.trap_memWf | with_reducible apply Res.wait_memWf | with_reducible apply State.advance_memWf | with_reducible apply State.cap_wf | with_reducible apply State.core_memWf | with_reducible apply State.cores_wf | with_reducible apply State.escalate_memWf | with_reducible apply State.hbm_wf | with_reducible apply State.iteFst_memWf | with_reducible apply State.ite_memWf | with_reducible apply misaligned_memWf | with_reducible apply prot_memWf | (refine EngAcc.ok_of_eq ?_ (by with_reducible assumption)) | (refine EngAcc.poison_of_eq ?_ (by with_reducible assumption)) | (refine EngAcc.fault_of_eq ?_ (by with_reducible assumption)) | (refine EngAcc.window_of_eq ?_ (by with_reducible assumption)) | (refine EngAcc.wait_of_eq ?_ (by with_reducible assumption)) | (refine State.fst_of_eq ?_ (by with_reducible assumption)) | (refine Core.fst_of_eq ?_ (by with_reducible assumption)) | split | (with_reducible refine State.mk_memWf ?_ ?_ ?_) | (with_reducible refine Core.mk_memWf ?_ ?_ ?_ ?_ ?_)

@[simp ↓] theorem execUndefinedEncoding_memWf (w lit : Word) (s : State) (hs : s.memWf = true) :
    outMemWf (execUndefinedEncoding w lit s) = true := by
  unfold execUndefinedEncoding
  simp +contextual (maxDischargeDepth := 60) only [↓Core.acc_wf, ↓Core.banks_wf, ↓Core.istore_wf, ↓Core.mk_memWf, ↓Core.rf_wf, ↓Core.store_wf, ↓State.cap_wf, ↓State.cores_wf, ↓State.hbm_wf, ↓State.mk_memWf, ↓State.preciseTrap_memWf, ↓asIssuer_memWf, hs, implies_true]

@[simp ↓] theorem execBoundaryTrapTake_memWf (c gid : Nat) (s : State) (hs : s.memWf = true) :
    outMemWf (execBoundaryTrapTake c gid s) = true := by
  unfold execBoundaryTrapTake
  (try dsimp only)
  repeat' first | with_reducible assumption | with_reducible rfl | (intro _) | with_reducible apply State.getD_memWf | with_reducible apply Core.acc_wf | with_reducible apply Core.banks_wf | with_reducible apply Core.istore_wf | with_reducible apply Core.iteFst_memWf | with_reducible apply Core.ite_memWf | with_reducible apply Core.rf_wf | with_reducible apply Core.store_wf | with_reducible apply Res.done_memWf | with_reducible apply Res.ite_memWf | with_reducible apply Res.moved_memWf | with_reducible apply Res.trap_memWf | with_reducible apply Res.wait_memWf | with_reducible apply State.cap_wf | with_reducible apply State.core_memWf | with_reducible apply State.cores_wf | with_reducible apply State.hbm_wf | with_reducible apply State.iteFst_memWf | with_reducible apply State.ite_memWf | with_reducible apply State.modGroup_memWf | with_reducible apply State.postOnce_memWf | with_reducible apply State.post_memWf | with_reducible apply State.takeFailed_memWf | with_reducible apply State.takeTrap_memWf | with_reducible apply State.unlockOp_memWf | with_reducible apply misaligned_memWf | with_reducible apply outMemWf_fault | with_reducible apply outMemWf_ite | with_reducible apply outMemWf_next | with_reducible apply prot_memWf | (refine EngAcc.ok_of_eq ?_ (by with_reducible assumption)) | (refine EngAcc.poison_of_eq ?_ (by with_reducible assumption)) | (refine EngAcc.fault_of_eq ?_ (by with_reducible assumption)) | (refine EngAcc.window_of_eq ?_ (by with_reducible assumption)) | (refine EngAcc.wait_of_eq ?_ (by with_reducible assumption)) | (refine State.fst_of_eq ?_ (by with_reducible assumption)) | (refine Core.fst_of_eq ?_ (by with_reducible assumption)) | split | (with_reducible refine State.mk_memWf ?_ ?_ ?_) | (with_reducible refine Core.mk_memWf ?_ ?_ ?_ ?_ ?_)

@[simp ↓] theorem execSupervisorTrap_memWf (c _cause : Nat) (s : State) (hs : s.memWf = true) :
    outMemWf (execSupervisorTrap c _cause s) = true := by
  unfold execSupervisorTrap
  simp +contextual (maxDischargeDepth := 60) only [↓Core.iteFst_memWf, ↓Core.ite_memWf, ↓Res.ite_memWf, ↓State.core_memWf, ↓State.iteFst_memWf, ↓State.ite_memWf, ↓State.restartSupervisor_memWf, ↓outMemWf_fault, ↓outMemWf_ite, ↓outMemWf_next, hs, implies_true]

@[simp ↓] theorem execDrainst_memWf (s : State) (hs : s.memWf = true) :
    outMemWf (execDrainst s) = true := by
  unfold execDrainst
  simp +contextual (maxDischargeDepth := 60) only [↓Core.iteFst_memWf, ↓Core.ite_memWf, ↓Res.done_memWf, ↓Res.ite_memWf, ↓Res.moved_memWf, ↓Res.trap_memWf, ↓Res.wait_memWf, ↓State.closeFences_memWf, ↓State.core_memWf, ↓State.iteFst_memWf, ↓State.ite_memWf, ↓State.joinFence_memWf, ↓misaligned_memWf, ↓prot_memWf, ↓run_memWf, hs, implies_true]

@[simp ↓] theorem State.xacqTrap_memWf (s : State) (c gid r : Nat) (hs : s.memWf = true) :
    (State.xacqTrap s c gid r).memWf = true := by
  unfold State.xacqTrap
  (try dsimp only)
  repeat' first | with_reducible assumption | with_reducible rfl | (intro _) | with_reducible apply Core.acc_wf | with_reducible apply Core.banks_wf | with_reducible apply Core.istore_wf | with_reducible apply Core.iteFst_memWf | with_reducible apply Core.ite_memWf | with_reducible apply Core.rf_wf | with_reducible apply Core.store_wf | with_reducible apply Mem.wf_clear | with_reducible apply Mem.wf_filter | with_reducible apply Mem.wf_set | with_reducible apply Mem.wf_write | with_reducible apply Res.done_memWf | with_reducible apply Res.ite_memWf | with_reducible apply Res.moved_memWf | with_reducible apply Res.trap_memWf | with_reducible apply Res.wait_memWf | with_reducible apply State.cap_wf | with_reducible apply State.core_memWf | with_reducible apply State.cores_wf | with_reducible apply State.hbm_wf | with_reducible apply State.iteFst_memWf | with_reducible apply State.ite_memWf | with_reducible apply State.modCore_memWf | with_reducible apply State.modGroup_memWf | with_reducible apply State.takeTrap_memWf | with_reducible apply misaligned_memWf | with_reducible apply prot_memWf | (refine Xl.ok_of_eq ?_ (by with_reducible assumption)) | (refine Xl.fail_of_eq ?_ (by with_reducible assumption)) | (refine Xl.wait_of_eq ?_ (by with_reducible assumption)) | (refine EngAcc.ok_of_eq ?_ (by with_reducible assumption)) | (refine EngAcc.poison_of_eq ?_ (by with_reducible assumption)) | (refine EngAcc.fault_of_eq ?_ (by with_reducible assumption)) | (refine EngAcc.window_of_eq ?_ (by with_reducible assumption)) | (refine EngAcc.wait_of_eq ?_ (by with_reducible assumption)) | (refine State.fst_of_eq ?_ (by with_reducible assumption)) | (refine Core.fst_of_eq ?_ (by with_reducible assumption)) | split | (with_reducible refine State.mk_memWf ?_ ?_ ?_) | (with_reducible refine Core.mk_memWf ?_ ?_ ?_ ?_ ?_)

@[simp ↓] theorem execXacqTimeout_memWf (c n : Nat) (s : State) (hs : s.memWf = true) :
    outMemWf (execXacqTimeout c n s) = true := by
  unfold execXacqTimeout
  simp +contextual (maxDischargeDepth := 60) only [↓State.xacqTrap_memWf, ↓outMemWf_fault, ↓outMemWf_ite, ↓outMemWf_next, hs, implies_true]

@[simp ↓] theorem execXacqDeadlockDetect_memWf (c : Nat) (s : State) (hs : s.memWf = true) :
    outMemWf (execXacqDeadlockDetect c s) = true := by
  unfold execXacqDeadlockDetect
  (try dsimp only)
  repeat' first | with_reducible assumption | with_reducible rfl | (intro _) | with_reducible apply Core.acc_wf | with_reducible apply Core.banks_wf | with_reducible apply Core.istore_wf | with_reducible apply Core.iteFst_memWf | with_reducible apply Core.ite_memWf | with_reducible apply Core.rf_wf | with_reducible apply Core.store_wf | with_reducible apply Res.ite_memWf | with_reducible apply State.cap_wf | with_reducible apply State.core_memWf | with_reducible apply State.cores_wf | with_reducible apply State.hbm_wf | with_reducible apply State.iteFst_memWf | with_reducible apply State.ite_memWf | with_reducible apply State.xacqTrap_memWf | with_reducible apply outMemWf_fault | with_reducible apply outMemWf_ite | with_reducible apply outMemWf_next | (refine EngAcc.ok_of_eq ?_ (by with_reducible assumption)) | (refine EngAcc.poison_of_eq ?_ (by with_reducible assumption)) | (refine EngAcc.fault_of_eq ?_ (by with_reducible assumption)) | (refine EngAcc.window_of_eq ?_ (by with_reducible assumption)) | (refine EngAcc.wait_of_eq ?_ (by with_reducible assumption)) | (refine State.fst_of_eq ?_ (by with_reducible assumption)) | (refine Core.fst_of_eq ?_ (by with_reducible assumption)) | split | (with_reducible refine State.mk_memWf ?_ ?_ ?_) | (with_reducible refine Core.mk_memWf ?_ ?_ ?_ ?_ ?_)

@[simp ↓] theorem execWatchdogTrip_memWf (c kind i : Nat) (s : State) (hs : s.memWf = true) :
    outMemWf (execWatchdogTrip c kind i s) = true := by
  unfold execWatchdogTrip
  (try dsimp only)
  repeat' first | with_reducible assumption | with_reducible rfl | (intro _) | with_reducible apply Core.acc_wf | with_reducible apply Core.banks_wf | with_reducible apply Core.istore_wf | with_reducible apply Core.iteFst_memWf | with_reducible apply Core.ite_memWf | with_reducible apply Core.rf_wf | with_reducible apply Core.store_wf | with_reducible apply Res.ite_memWf | with_reducible apply State.cap_wf | with_reducible apply State.core_memWf | with_reducible apply State.cores_wf | with_reducible apply State.hbm_wf | with_reducible apply State.iteFst_memWf | with_reducible apply State.ite_memWf | with_reducible apply State.modCore_memWf | with_reducible apply State.postRecord_memWf | with_reducible apply outMemWf_fault | with_reducible apply outMemWf_ite | with_reducible apply outMemWf_next | (refine EngAcc.ok_of_eq ?_ (by with_reducible assumption)) | (refine EngAcc.poison_of_eq ?_ (by with_reducible assumption)) | (refine EngAcc.fault_of_eq ?_ (by with_reducible assumption)) | (refine EngAcc.window_of_eq ?_ (by with_reducible assumption)) | (refine EngAcc.wait_of_eq ?_ (by with_reducible assumption)) | (refine State.fst_of_eq ?_ (by with_reducible assumption)) | (refine Core.fst_of_eq ?_ (by with_reducible assumption)) | split | (with_reducible refine State.mk_memWf ?_ ?_ ?_) | (with_reducible refine Core.mk_memWf ?_ ?_ ?_ ?_ ?_)

@[simp ↓] theorem State.ctlDone_memWf (s : State) (c : Nat) (hs : s.memWf = true) :
    (State.ctlDone s c).memWf = true := by
  unfold State.ctlDone
  simp +contextual (maxDischargeDepth := 60) only [↓Core.acc_wf, ↓Core.banks_wf, ↓Core.istore_wf, ↓Core.iteFst_memWf, ↓Core.ite_memWf, ↓Core.mk_memWf, ↓Core.rf_wf, ↓Core.store_wf, ↓Res.done_memWf, ↓Res.ite_memWf, ↓Res.moved_memWf, ↓Res.trap_memWf, ↓Res.wait_memWf, ↓State.cap_wf, ↓State.cores_wf, ↓State.hbm_wf, ↓State.iteFst_memWf, ↓State.ite_memWf, ↓State.mk_memWf, ↓State.modGroup_memWf, ↓misaligned_memWf, ↓prot_memWf, hs, implies_true]

@[simp ↓] theorem State.ctlAccepted_memWf (s : State) (c src : Nat) (msg : List Word) (hs : s.memWf = true) :
    (State.ctlAccepted s c src msg).memWf = true := by
  unfold State.ctlAccepted
  (try dsimp only)
  repeat' first | with_reducible assumption | with_reducible rfl | (intro _) | with_reducible apply Core.acc_wf | with_reducible apply Core.banks_wf | with_reducible apply Core.istore_wf | with_reducible apply Core.iteFst_memWf | with_reducible apply Core.ite_memWf | with_reducible apply Core.rf_wf | with_reducible apply Core.store_wf | with_reducible apply Res.ite_memWf | with_reducible apply State.cap_wf | with_reducible apply State.cores_wf | with_reducible apply State.ctlDone_memWf | with_reducible apply State.hbm_wf | with_reducible apply State.iteFst_memWf | with_reducible apply State.ite_memWf | with_reducible apply State.setField_memWf | (refine EngAcc.ok_of_eq ?_ (by with_reducible assumption)) | (refine EngAcc.poison_of_eq ?_ (by with_reducible assumption)) | (refine EngAcc.fault_of_eq ?_ (by with_reducible assumption)) | (refine EngAcc.window_of_eq ?_ (by with_reducible assumption)) | (refine EngAcc.wait_of_eq ?_ (by with_reducible assumption)) | (refine State.fst_of_eq ?_ (by with_reducible assumption)) | (refine Core.fst_of_eq ?_ (by with_reducible assumption)) | split | (with_reducible refine State.mk_memWf ?_ ?_ ?_) | (with_reducible refine Core.mk_memWf ?_ ?_ ?_ ?_ ?_)

@[simp ↓] theorem State.ctlArrive_memWf (s : State) (c src : Nat) (msg : List Word) (hs : s.memWf = true) :
    (State.ctlArrive s c src msg).memWf = true := by
  unfold State.ctlArrive
  (try dsimp only)
  repeat' first | with_reducible assumption | with_reducible rfl | (intro _) | with_reducible apply State.getD_memWf | with_reducible apply Core.acc_wf | with_reducible apply Core.banks_wf | with_reducible apply Core.istore_wf | with_reducible apply Core.iteFst_memWf | with_reducible apply Core.ite_memWf | with_reducible apply Core.rf_wf | with_reducible apply Core.store_wf | with_reducible apply Core.wake_memWf | with_reducible apply Res.ite_memWf | with_reducible apply State.cap_wf | with_reducible apply State.core_memWf | with_reducible apply State.cores_wf | with_reducible apply State.ctlAccepted_memWf | with_reducible apply State.hbm_wf | with_reducible apply State.iteFst_memWf | with_reducible apply State.ite_memWf | with_reducible apply State.modCore_memWf | with_reducible apply State.post_memWf | (refine EngAcc.ok_of_eq ?_ (by with_reducible assumption)) | (refine EngAcc.poison_of_eq ?_ (by with_reducible assumption)) | (refine EngAcc.fault_of_eq ?_ (by with_reducible assumption)) | (refine EngAcc.window_of_eq ?_ (by with_reducible assumption)) | (refine EngAcc.wait_of_eq ?_ (by with_reducible assumption)) | (refine State.fst_of_eq ?_ (by with_reducible assumption)) | (refine Core.fst_of_eq ?_ (by with_reducible assumption)) | split | (with_reducible refine State.mk_memWf ?_ ?_ ?_) | (with_reducible refine Core.mk_memWf ?_ ?_ ?_ ?_ ?_)

@[simp ↓] theorem State.ctlTo_memWf (s : State) (c t src : Nat) (msg : List Word) (port : Nat) (hs : s.memWf = true) :
    (State.ctlTo s c t src msg port).memWf = true := by
  unfold State.ctlTo
  simp +contextual (maxDischargeDepth := 60) only [↓State.send_memWf, hs, implies_true]

@[simp ↓] theorem execControlMessageArrival_memWf (c src : Nat) (msg : Words) (s : State) (hs : s.memWf = true) :
    outMemWf (execControlMessageArrival c src msg s) = true := by
  unfold execControlMessageArrival
  simp +contextual (maxDischargeDepth := 60) only [↓State.ctlArrive_memWf, ↓outMemWf_fault, ↓outMemWf_ite, ↓outMemWf_next, hs, implies_true]

@[simp ↓] theorem execControlMessageRetry_memWf (c src : Nat) (msg : Words) (s : State) (hs : s.memWf = true) :
    outMemWf (execControlMessageRetry c src msg s) = true := by
  unfold execControlMessageRetry
  simp +contextual (maxDischargeDepth := 60) only [↓State.ctlArrive_memWf, ↓outMemWf_fault, ↓outMemWf_ite, ↓outMemWf_next, hs, implies_true]

@[simp ↓] theorem execCtlsend_memWf (a b : SReg) (s : State) (hs : s.memWf = true) :
    outMemWf (execCtlsend a b s) = true := by
  unfold execCtlsend
  refine run_memWf _ _ _ (fun x s h => ?_) hs
  (try dsimp only)
  repeat' first | with_reducible assumption | with_reducible rfl | (intro _) | with_reducible apply Core.acc_wf | with_reducible apply Core.banks_wf | with_reducible apply Core.istore_wf | with_reducible apply Core.iteFst_memWf | with_reducible apply Core.ite_memWf | with_reducible apply Core.rf_wf | with_reducible apply Core.store_wf | with_reducible apply Res.done_memWf | with_reducible apply Res.ite_memWf | with_reducible apply Res.moved_memWf | with_reducible apply Res.trap_memWf | with_reducible apply Res.wait_memWf | with_reducible apply State.asIssued_memWf | with_reducible apply State.cap_wf | with_reducible apply State.core_memWf | with_reducible apply State.cores_wf | with_reducible apply State.ctlTo_memWf | with_reducible apply State.hbm_wf | with_reducible apply State.iteFst_memWf | with_reducible apply State.ite_memWf | with_reducible apply State.post_memWf | with_reducible apply State.send_memWf | with_reducible apply misaligned_memWf | with_reducible apply prot_memWf | (refine Xl.ok_of_eq ?_ (by with_reducible assumption)) | (refine Xl.fail_of_eq ?_ (by with_reducible assumption)) | (refine Xl.wait_of_eq ?_ (by with_reducible assumption)) | (refine EngAcc.ok_of_eq ?_ (by with_reducible assumption)) | (refine EngAcc.poison_of_eq ?_ (by with_reducible assumption)) | (refine EngAcc.fault_of_eq ?_ (by with_reducible assumption)) | (refine EngAcc.window_of_eq ?_ (by with_reducible assumption)) | (refine EngAcc.wait_of_eq ?_ (by with_reducible assumption)) | (refine State.fst_of_eq ?_ (by with_reducible assumption)) | (refine Core.fst_of_eq ?_ (by with_reducible assumption)) | split | (with_reducible refine State.mk_memWf ?_ ?_ ?_) | (with_reducible refine Core.mk_memWf ?_ ?_ ?_ ?_ ?_)

@[simp ↓] theorem execCtlrecv_memWf (d : SReg) (s : State) (hs : s.memWf = true) :
    outMemWf (execCtlrecv d s) = true := by
  unfold execCtlrecv
  refine run_memWf _ _ _ (fun x s h => ?_) hs
  (try dsimp only)
  repeat' first | with_reducible assumption | with_reducible rfl | (intro _) | with_reducible apply Core.acc_wf | with_reducible apply Core.banks_wf | with_reducible apply Core.istore_wf | with_reducible apply Core.iteFst_memWf | with_reducible apply Core.ite_memWf | with_reducible apply Core.rf_wf | with_reducible apply Core.store_wf | with_reducible apply Res.done_memWf | with_reducible apply Res.ite_memWf | with_reducible apply Res.moved_memWf | with_reducible apply Res.trap_memWf | with_reducible apply Res.wait_memWf | with_reducible apply State.cap_wf | with_reducible apply State.core_memWf | with_reducible apply State.cores_wf | with_reducible apply State.hbm_wf | with_reducible apply State.iteFst_memWf | with_reducible apply State.ite_memWf | with_reducible apply State.modCore_memWf | with_reducible apply State.writeSs_memWf | with_reducible apply misaligned_memWf | with_reducible apply prot_memWf | (refine Xl.ok_of_eq ?_ (by with_reducible assumption)) | (refine Xl.fail_of_eq ?_ (by with_reducible assumption)) | (refine Xl.wait_of_eq ?_ (by with_reducible assumption)) | (refine EngAcc.ok_of_eq ?_ (by with_reducible assumption)) | (refine EngAcc.poison_of_eq ?_ (by with_reducible assumption)) | (refine EngAcc.fault_of_eq ?_ (by with_reducible assumption)) | (refine EngAcc.window_of_eq ?_ (by with_reducible assumption)) | (refine EngAcc.wait_of_eq ?_ (by with_reducible assumption)) | (refine State.fst_of_eq ?_ (by with_reducible assumption)) | (refine Core.fst_of_eq ?_ (by with_reducible assumption)) | split | (with_reducible refine State.mk_memWf ?_ ?_ ?_) | (with_reducible refine Core.mk_memWf ?_ ?_ ?_ ?_ ?_)

/-- The state in the answer of a translation of pages is in canonical form. -/
def Pages.memWf : Pages → Bool
  | .ok _ s | .fail _ _ s | .wait s => s.memWf

theorem Pages.ok_of_eq {x : Pages} {l : List (Ap × Nat)} {s : State} (h : x.memWf = true) (e : x = .ok l s) : s.memWf = true := by
  rw [e] at h; exact h
theorem Pages.fail_of_eq {x : Pages} {code va : Nat} {s : State} (h : x.memWf = true) (e : x = .fail code va s) : s.memWf = true := by
  rw [e] at h; exact h
theorem Pages.wait_of_eq {x : Pages} {s : State} (h : x.memWf = true) (e : x = .wait s) : s.memWf = true := by
  rw [e] at h; exact h

@[simp ↓] theorem State.xlatePages_memWf (s : State) (c eng ctx va : Nat) (who : Instr) (n : Nat) (hs : s.memWf = true) :
    (State.xlatePages s c eng ctx va who n).memWf = true := by
  induction n with
  | zero => exact hs
  | succ n ih =>
    unfold State.xlatePages
    split
    · have h := State.xlate_memWf _ c eng ctx (va + 4096 * n) false false (.ev who) (Pages.ok_of_eq ih ‹_›)
      split
      · exact Xl.ok_of_eq h ‹_›
      · exact Xl.fail_of_eq h ‹_›
      · exact Xl.wait_of_eq h ‹_›
    · exact ih

@[simp ↓] theorem Core.evict_memWf (k : Core) (rs : List (Nat × OvRecord)) (hk : k.memWf = true) :
    (Core.evict k rs).memWf = true := by
  unfold Core.evict
  simp +contextual (maxDischargeDepth := 60) only [↓Core.acc_wf, ↓Core.banks_wf, ↓Core.foldlFst_memWf, ↓Core.foldl_memWf, ↓Core.istore_wf, ↓Core.mk_memWf, ↓Core.rf_wf, ↓Core.store_wf, ↓EngAcc.fault_memWf, ↓EngAcc.ite_memWf, ↓EngAcc.ok_memWf, ↓EngAcc.poison_memWf, ↓EngAcc.wait_memWf, ↓EngAcc.window_memWf, ↓State.cap_wf, ↓State.cores_wf, ↓State.foldlFst_memWf, ↓State.foldl_memWf, ↓State.hbm_wf, ↓State.mk_memWf, ↓Xl.fail_memWf, ↓Xl.ite_memWf, ↓Xl.ok_memWf, ↓Xl.wait_memWf, hk, implies_true]

theorem Core.fitQuota_memWf (k : Core) (ctx n quota : Nat) (hk : k.memWf = true) :
    ∀ q, Core.fitQuota k ctx n quota = some q → q.memWf = true := by
  intro q e
  unfold Core.fitQuota at e
  dsimp only at e
  split at e
  · obtain rfl := Option.some.inj e
    refine Core.foldl_memWf hk (fun k' r h => ?_) _
    split
    · exact h
    · exact Core.evict_memWf _ _ h
  · exact absurd e (by simp)

@[simp ↓] theorem Core.wakeOv_memWf (k : Core) (ctx id : Nat) (hk : k.memWf = true) :
    (Core.wakeOv k ctx id).memWf = true := by
  unfold Core.wakeOv
  simp +contextual (maxDischargeDepth := 60) only [↓Core.acc_wf, ↓Core.banks_wf, ↓Core.istore_wf, ↓Core.iteFst_memWf, ↓Core.ite_memWf, ↓Core.mk_memWf, ↓Core.rf_wf, ↓Core.store_wf, ↓EngAcc.fault_memWf, ↓EngAcc.ite_memWf, ↓EngAcc.ok_memWf, ↓EngAcc.poison_memWf, ↓EngAcc.wait_memWf, ↓EngAcc.window_memWf, ↓Res.ite_memWf, ↓State.cap_wf, ↓State.cores_wf, ↓State.hbm_wf, ↓State.iteFst_memWf, ↓State.ite_memWf, ↓State.mk_memWf, ↓Xl.fail_memWf, ↓Xl.ite_memWf, ↓Xl.ok_memWf, ↓Xl.wait_memWf, hk, implies_true]

@[simp ↓] theorem Core.join_memWf (k : Core) (own : Nat) (r : OvRecord) (n : Nat) (x : OvRecord) (ctx id quota cc : Nat) (hk : k.memWf = true) :
    (Core.join k own r n x ctx id quota cc).memWf = true := by
  unfold Core.join
  simp +contextual (maxDischargeDepth := 60) only [↓Core.acc_wf, ↓Core.banks_wf, ↓Core.enterOv_memWf, ↓Core.istore_wf, ↓Core.iteFst_memWf, ↓Core.ite_memWf, ↓Core.mk_memWf, ↓Core.recount_memWf, ↓Core.rf_wf, ↓Core.store_wf, ↓Core.wakeOv_memWf, ↓EngAcc.fault_memWf, ↓EngAcc.ite_memWf, ↓EngAcc.ok_memWf, ↓EngAcc.poison_memWf, ↓EngAcc.wait_memWf, ↓EngAcc.window_memWf, ↓Res.ite_memWf, ↓State.cap_wf, ↓State.cores_wf, ↓State.hbm_wf, ↓State.iteFst_memWf, ↓State.ite_memWf, ↓State.mk_memWf, ↓Xl.fail_memWf, ↓Xl.ite_memWf, ↓Xl.ok_memWf, ↓Xl.wait_memWf, hk, implies_true]

@[simp ↓] theorem State.raiseExhaustion_memWf (s : State) (c : Nat) (qs : List OvReq) (hs : s.memWf = true) :
    (State.raiseExhaustion s c qs).memWf = true := by
  unfold State.raiseExhaustion
  simp +contextual (maxDischargeDepth := 60) only [↓EngAcc.fault_memWf, ↓EngAcc.ite_memWf, ↓EngAcc.ok_memWf, ↓EngAcc.poison_memWf, ↓EngAcc.wait_memWf, ↓EngAcc.window_memWf, ↓State.core_memWf, ↓State.postRecord_memWf, ↓Xl.fail_memWf, ↓Xl.ite_memWf, ↓Xl.ok_memWf, ↓Xl.wait_memWf, hs, implies_true]

@[simp ↓] theorem State.nextLoad_memWf (s : State) (c : Nat) (hs : s.memWf = true) :
    (State.nextLoad s c).memWf = true := by
  unfold State.nextLoad
  simp +contextual (maxDischargeDepth := 60) only [↓Core.acc_wf, ↓Core.banks_wf, ↓Core.istore_wf, ↓Core.mk_memWf, ↓Core.rf_wf, ↓Core.store_wf, ↓EngAcc.fault_memWf, ↓EngAcc.ite_memWf, ↓EngAcc.ok_memWf, ↓EngAcc.poison_memWf, ↓EngAcc.wait_memWf, ↓EngAcc.window_memWf, ↓State.cap_wf, ↓State.cores_wf, ↓State.hbm_wf, ↓State.mk_memWf, ↓State.modCore_memWf, ↓State.retryLoads_memWf, ↓Xl.fail_memWf, ↓Xl.ite_memWf, ↓Xl.ok_memWf, ↓Xl.wait_memWf, hs, implies_true]

@[simp ↓] theorem State.placeLoad_memWf (s : State) (c : Nat) (q : OvReq) (n : Nat) (noShare : Bool) (pages : List (Nat × Ap × Nat)) (image : Nat) (hs : s.memWf = true) :
    (State.placeLoad s c q n noShare pages image).memWf = true := by
  unfold State.placeLoad
  dsimp only
  have hk := State.core_memWf hs c
  split
  · exact State.nextLoad_memWf _ _ (State.setCore_memWf hs (Core.join_memWf _ _ _ _ _ _ _ _ _ hk) c)
  · have hf : (((s.core c).fitQuota q.ctx n (s.slotQuota q.ctx)).getD (s.core c)).memWf = true := by
      cases e : (s.core c).fitQuota q.ctx n (s.slotQuota q.ctx) with
      | none => exact hk
      | some k' => exact Core.fitQuota_memWf _ _ _ _ hk _ e
    split
    · exact State.postOnce_memWf _ _ (State.setCore_memWf hs
        (Core.mk_memWf (Core.rf_wf hf) (Core.banks_wf hf) (Core.store_wf hf) (Core.istore_wf hf) (Core.acc_wf hf)) c)
    · rename_i k first e
      obtain ⟨k', e1, e2⟩ := Option.bind_eq_some_iff.1 e
      obtain ⟨r, -, e3⟩ := Option.map_eq_some_iff.1 e2
      have h1 := Core.evict_memWf k' r.2 (Core.fitQuota_memWf _ _ _ _ hk _ e1)
      rw [(Prod.mk.inj e3).1] at h1
      exact State.post_memWf _ _ (State.nextLoad_memWf _ _ (State.setCore_memWf hs (Core.countOv_memWf _ _ _ _
        (Core.mk_memWf (Core.rf_wf h1) (Core.banks_wf h1) (Core.store_wf h1) (Core.istore_wf h1) (Core.acc_wf h1))) c))

@[simp ↓] theorem State.readEntry_memWf (s : State) (c : Nat) (q : OvReq) (hs : s.memWf = true) :
    (State.readEntry s c q).1.memWf = true := by
  unfold State.readEntry
  (try dsimp only)
  repeat' first | with_reducible assumption | with_reducible rfl | (intro _) | with_reducible apply Core.acc_wf | with_reducible apply Core.banks_wf | with_reducible apply Core.istore_wf | with_reducible apply Core.iteFst_memWf | with_reducible apply Core.ite_memWf | with_reducible apply Core.rf_wf | with_reducible apply Core.store_wf | with_reducible apply EngAcc.fault_memWf | with_reducible apply EngAcc.ite_memWf | with_reducible apply EngAcc.ok_memWf | with_reducible apply EngAcc.poison_memWf | with_reducible apply EngAcc.wait_memWf | with_reducible apply EngAcc.window_memWf | with_reducible apply Res.done_memWf | with_reducible apply Res.ite_memWf | with_reducible apply Res.moved_memWf | with_reducible apply Res.trap_memWf | with_reducible apply Res.wait_memWf | with_reducible apply State.cap_wf | with_reducible apply State.cores_wf | with_reducible apply State.hbm_wf | with_reducible apply State.homeRead_memWf | with_reducible apply State.iteFst_memWf | with_reducible apply State.ite_memWf | with_reducible apply State.postOnce_memWf | with_reducible apply State.xlatePages_memWf | with_reducible apply State.xlate_memWf | with_reducible apply Xl.fail_memWf | with_reducible apply Xl.ite_memWf | with_reducible apply Xl.ok_memWf | with_reducible apply Xl.wait_memWf | with_reducible apply misaligned_memWf | with_reducible apply prot_memWf | (refine Xl.ok_of_eq ?_ (by with_reducible assumption)) | (refine Xl.fail_of_eq ?_ (by with_reducible assumption)) | (refine Xl.wait_of_eq ?_ (by with_reducible assumption)) | (refine EngAcc.ok_of_eq ?_ (by with_reducible assumption)) | (refine EngAcc.poison_of_eq ?_ (by with_reducible assumption)) | (refine EngAcc.fault_of_eq ?_ (by with_reducible assumption)) | (refine EngAcc.window_of_eq ?_ (by with_reducible assumption)) | (refine EngAcc.wait_of_eq ?_ (by with_reducible assumption)) | (refine Pages.ok_of_eq ?_ (by with_reducible assumption)) | (refine Pages.fail_of_eq ?_ (by with_reducible assumption)) | (refine Pages.wait_of_eq ?_ (by with_reducible assumption)) | (refine State.fst_of_eq ?_ (by with_reducible assumption)) | (refine Core.fst_of_eq ?_ (by with_reducible assumption)) | split | (with_reducible refine State.mk_memWf ?_ ?_ ?_) | (with_reducible refine Core.mk_memWf ?_ ?_ ?_ ?_ ?_)

@[simp ↓] theorem State.noteSlots_memWf (s : State) (c : Nat) (q : OvReq) (n : Nat) (hs : s.memWf = true) :
    (State.noteSlots s c q n).memWf = true := by
  unfold State.noteSlots
  simp +contextual (maxDischargeDepth := 60) only [↓Core.acc_wf, ↓Core.banks_wf, ↓Core.istore_wf, ↓Core.iteFst_memWf, ↓Core.ite_memWf, ↓Core.mk_memWf, ↓Core.rf_wf, ↓Core.store_wf, ↓EngAcc.fault_memWf, ↓EngAcc.ite_memWf, ↓EngAcc.ok_memWf, ↓EngAcc.poison_memWf, ↓EngAcc.wait_memWf, ↓EngAcc.window_memWf, ↓Res.ite_memWf, ↓State.cap_wf, ↓State.cores_wf, ↓State.hbm_wf, ↓State.iteFst_memWf, ↓State.ite_memWf, ↓State.mk_memWf, ↓State.modCore_memWf, ↓Xl.fail_memWf, ↓Xl.ite_memWf, ↓Xl.ok_memWf, ↓Xl.wait_memWf, hs, implies_true]

@[simp ↓] theorem State.shareBehind_memWf (s : State) (c : Nat) (hs : s.memWf = true) :
    (State.shareBehind s c).memWf = true := by
  unfold State.shareBehind
  (try dsimp only)
  repeat' first | with_reducible assumption | with_reducible rfl | (intro _) | with_reducible apply State.getD_memWf | with_reducible apply Core.acc_wf | with_reducible apply Core.banks_wf | with_reducible apply Core.foldlFst_memWf | with_reducible apply Core.foldl_memWf | with_reducible apply Core.istore_wf | with_reducible apply Core.join_memWf | with_reducible apply Core.rf_wf | with_reducible apply Core.store_wf | with_reducible apply EngAcc.fault_memWf | with_reducible apply EngAcc.ite_memWf | with_reducible apply EngAcc.ok_memWf | with_reducible apply EngAcc.poison_memWf | with_reducible apply EngAcc.wait_memWf | with_reducible apply EngAcc.window_memWf | with_reducible apply Mem.wf_clear | with_reducible apply Mem.wf_filter | with_reducible apply Mem.wf_set | with_reducible apply Mem.wf_write | with_reducible apply Res.done_memWf | with_reducible apply Res.moved_memWf | with_reducible apply Res.trap_memWf | with_reducible apply Res.wait_memWf | with_reducible apply State.cap_wf | with_reducible apply State.core_memWf | with_reducible apply State.cores_wf | with_reducible apply State.foldlFst_memWf | with_reducible apply State.foldl_memWf | with_reducible apply State.hbm_wf | with_reducible apply State.noteSlots_memWf | with_reducible apply State.readEntry_memWf | with_reducible apply State.setCore_memWf | with_reducible apply Xl.fail_memWf | with_reducible apply Xl.ite_memWf | with_reducible apply Xl.ok_memWf | with_reducible apply Xl.wait_memWf | with_reducible apply misaligned_memWf | with_reducible apply prot_memWf | (refine Xl.ok_of_eq ?_ (by with_reducible assumption)) | (refine Xl.fail_of_eq ?_ (by with_reducible assumption)) | (refine Xl.wait_of_eq ?_ (by with_reducible assumption)) | (refine EngAcc.ok_of_eq ?_ (by with_reducible assumption)) | (refine EngAcc.poison_of_eq ?_ (by with_reducible assumption)) | (refine EngAcc.fault_of_eq ?_ (by with_reducible assumption)) | (refine EngAcc.window_of_eq ?_ (by with_reducible assumption)) | (refine EngAcc.wait_of_eq ?_ (by with_reducible assumption)) | (refine Pages.ok_of_eq ?_ (by with_reducible assumption)) | (refine Pages.fail_of_eq ?_ (by with_reducible assumption)) | (refine Pages.wait_of_eq ?_ (by with_reducible assumption)) | (refine State.fst_of_eq ?_ (by with_reducible assumption)) | (refine Core.fst_of_eq ?_ (by with_reducible assumption)) | split | (with_reducible refine State.mk_memWf ?_ ?_ ?_) | (with_reducible refine Core.mk_memWf ?_ ?_ ?_ ?_ ?_)

@[simp ↓] theorem execOverlayPlacement_memWf (c : Nat) (s : State) (hs : s.memWf = true) :
    outMemWf (execOverlayPlacement c s) = true := by
  unfold execOverlayPlacement
  (try dsimp only)
  repeat' first | with_reducible assumption | with_reducible rfl | (intro _) | with_reducible apply Core.acc_wf | with_reducible apply Core.banks_wf | with_reducible apply Core.istore_wf | with_reducible apply Core.iteFst_memWf | with_reducible apply Core.ite_memWf | with_reducible apply Core.rf_wf | with_reducible apply Core.store_wf | with_reducible apply EngAcc.fault_memWf | with_reducible apply EngAcc.ite_memWf | with_reducible apply EngAcc.ok_memWf | with_reducible apply EngAcc.poison_memWf | with_reducible apply EngAcc.wait_memWf | with_reducible apply EngAcc.window_memWf | with_reducible apply Res.done_memWf | with_reducible apply Res.ite_memWf | with_reducible apply Res.moved_memWf | with_reducible apply Res.trap_memWf | with_reducible apply Res.wait_memWf | with_reducible apply State.cap_wf | with_reducible apply State.core_memWf | with_reducible apply State.cores_wf | with_reducible apply State.hbm_wf | with_reducible apply State.iteFst_memWf | with_reducible apply State.ite_memWf | with_reducible apply State.modCore_memWf | with_reducible apply State.nextLoad_memWf | with_reducible apply State.noteSlots_memWf | with_reducible apply State.placeLoad_memWf | with_reducible apply State.post_memWf | with_reducible apply State.raiseExhaustion_memWf | with_reducible apply State.readEntry_memWf | with_reducible apply State.shareBehind_memWf | with_reducible apply Xl.fail_memWf | with_reducible apply Xl.ite_memWf | with_reducible apply Xl.ok_memWf | with_reducible apply Xl.wait_memWf | with_reducible apply misaligned_memWf | with_reducible apply outMemWf_fault | with_reducible apply outMemWf_ite | with_reducible apply outMemWf_next | with_reducible apply prot_memWf | (refine Xl.ok_of_eq ?_ (by with_reducible assumption)) | (refine Xl.fail_of_eq ?_ (by with_reducible assumption)) | (refine Xl.wait_of_eq ?_ (by with_reducible assumption)) | (refine EngAcc.ok_of_eq ?_ (by with_reducible assumption)) | (refine EngAcc.poison_of_eq ?_ (by with_reducible assumption)) | (refine EngAcc.fault_of_eq ?_ (by with_reducible assumption)) | (refine EngAcc.window_of_eq ?_ (by with_reducible assumption)) | (refine EngAcc.wait_of_eq ?_ (by with_reducible assumption)) | (refine Pages.ok_of_eq ?_ (by with_reducible assumption)) | (refine Pages.fail_of_eq ?_ (by with_reducible assumption)) | (refine Pages.wait_of_eq ?_ (by with_reducible assumption)) | (refine State.fst_of_eq ?_ (by with_reducible assumption)) | (refine Core.fst_of_eq ?_ (by with_reducible assumption)) | split | (with_reducible refine State.mk_memWf ?_ ?_ ?_) | (with_reducible refine Core.mk_memWf ?_ ?_ ?_ ?_ ?_)

@[simp ↓] theorem State.readBlock_memWf (s : State) (ap : Ap) (off n : Nat) (hs : s.memWf = true) :
    (State.readBlock s ap off n).1.memWf = true := by
  unfold State.readBlock
  simp +contextual (maxDischargeDepth := 60) only [↓EngAcc.fault_memWf, ↓EngAcc.ite_memWf, ↓EngAcc.ok_memWf, ↓EngAcc.poison_memWf, ↓EngAcc.wait_memWf, ↓EngAcc.window_memWf, ↓State.homeRead_memWf, ↓Xl.fail_memWf, ↓Xl.ite_memWf, ↓Xl.ok_memWf, ↓Xl.wait_memWf, hs, implies_true]

@[simp ↓] theorem State.readBlocks_memWf (s : State) (n : Nat) (pages : List (Ap × Nat)) (hs : s.memWf = true) :
    (State.readBlocks s n pages).1.memWf = true := by
  unfold State.readBlocks
  simp +contextual (maxDischargeDepth := 60) only [↓Core.foldlFst_memWf, ↓Core.foldl_memWf, ↓Core.iteFst_memWf, ↓Core.ite_memWf, ↓EngAcc.fault_memWf, ↓EngAcc.ite_memWf, ↓EngAcc.ok_memWf, ↓EngAcc.poison_memWf, ↓EngAcc.wait_memWf, ↓EngAcc.window_memWf, ↓Res.ite_memWf, ↓State.foldlFst_memWf, ↓State.foldl_memWf, ↓State.homeRead_memWf, ↓State.iteFst_memWf, ↓State.ite_memWf, ↓Xl.fail_memWf, ↓Xl.ite_memWf, ↓Xl.ok_memWf, ↓Xl.wait_memWf, hs, implies_true]

@[simp ↓] theorem execOverlayLoadComplete_memWf (c ld : Nat) (s : State) (hs : s.memWf = true) :
    outMemWf (execOverlayLoadComplete c ld s) = true := by
  unfold execOverlayLoadComplete
  (try dsimp only)
  repeat' first | with_reducible assumption | with_reducible rfl | (intro _) | with_reducible apply Core.acc_wf | with_reducible apply Core.banks_wf | with_reducible apply Core.foldlFst_memWf | with_reducible apply Core.foldl_memWf | with_reducible apply Core.istore_wf | with_reducible apply Core.iteFst_memWf | with_reducible apply Core.ite_memWf | with_reducible apply Core.rf_wf | with_reducible apply Core.store_wf | with_reducible apply Core.wakeOv_memWf | with_reducible apply EngAcc.fault_memWf | with_reducible apply EngAcc.ite_memWf | with_reducible apply EngAcc.ok_memWf | with_reducible apply EngAcc.poison_memWf | with_reducible apply EngAcc.wait_memWf | with_reducible apply EngAcc.window_memWf | with_reducible apply Mem.wf_clear | with_reducible apply Mem.wf_filter | with_reducible apply Mem.wf_set | with_reducible apply Mem.wf_write | with_reducible apply Res.ite_memWf | with_reducible apply State.cap_wf | with_reducible apply State.core_memWf | with_reducible apply State.cores_wf | with_reducible apply State.foldlFst_memWf | with_reducible apply State.foldl_memWf | with_reducible apply State.hbm_wf | with_reducible apply State.iteFst_memWf | with_reducible apply State.ite_memWf | with_reducible apply State.post_memWf | with_reducible apply State.readBlocks_memWf | with_reducible apply State.retryLoads_memWf | with_reducible apply State.setCore_memWf | with_reducible apply Xl.fail_memWf | with_reducible apply Xl.ite_memWf | with_reducible apply Xl.ok_memWf | with_reducible apply Xl.wait_memWf | with_reducible apply outMemWf_fault | with_reducible apply outMemWf_ite | with_reducible apply outMemWf_next | (refine EngAcc.ok_of_eq ?_ (by with_reducible assumption)) | (refine EngAcc.poison_of_eq ?_ (by with_reducible assumption)) | (refine EngAcc.fault_of_eq ?_ (by with_reducible assumption)) | (refine EngAcc.window_of_eq ?_ (by with_reducible assumption)) | (refine EngAcc.wait_of_eq ?_ (by with_reducible assumption)) | (refine Pages.ok_of_eq ?_ (by with_reducible assumption)) | (refine Pages.fail_of_eq ?_ (by with_reducible assumption)) | (refine Pages.wait_of_eq ?_ (by with_reducible assumption)) | (refine State.fst_of_eq ?_ (by with_reducible assumption)) | (refine Core.fst_of_eq ?_ (by with_reducible assumption)) | split | (with_reducible refine State.mk_memWf ?_ ?_ ?_) | (with_reducible refine Core.mk_memWf ?_ ?_ ?_ ?_ ?_)

@[simp ↓] theorem State.failThreads_memWf (s : State) (c gid : Nat) (ids : List Nat) (cause info addr : Nat) (hs : s.memWf = true) :
    (State.failThreads s c gid ids cause info addr).memWf = true := by
  unfold State.failThreads
  (try dsimp only)
  repeat' first | with_reducible assumption | with_reducible rfl | (intro _) | with_reducible apply State.getD_memWf | with_reducible apply Core.acc_wf | with_reducible apply Core.banks_wf | with_reducible apply Core.foldlFst_memWf | with_reducible apply Core.foldl_memWf | with_reducible apply Core.istore_wf | with_reducible apply Core.iteFst_memWf | with_reducible apply Core.ite_memWf | with_reducible apply Core.recount_memWf | with_reducible apply Core.rf_wf | with_reducible apply Core.store_wf | with_reducible apply EngAcc.fault_memWf | with_reducible apply EngAcc.ite_memWf | with_reducible apply EngAcc.ok_memWf | with_reducible apply EngAcc.poison_memWf | with_reducible apply EngAcc.wait_memWf | with_reducible apply EngAcc.window_memWf | with_reducible apply Mem.wf_clear | with_reducible apply Mem.wf_filter | with_reducible apply Mem.wf_set | with_reducible apply Mem.wf_write | with_reducible apply Res.done_memWf | with_reducible apply Res.ite_memWf | with_reducible apply Res.moved_memWf | with_reducible apply Res.trap_memWf | with_reducible apply Res.wait_memWf | with_reducible apply State.cap_wf | with_reducible apply State.cores_wf | with_reducible apply State.dropLink_memWf | with_reducible apply State.escalate_memWf | with_reducible apply State.foldlFst_memWf | with_reducible apply State.foldl_memWf | with_reducible apply State.hbm_wf | with_reducible apply State.iteFst_memWf | with_reducible apply State.ite_memWf | with_reducible apply State.modCore_memWf | with_reducible apply State.modGroup_memWf | with_reducible apply Xl.fail_memWf | with_reducible apply Xl.ite_memWf | with_reducible apply Xl.ok_memWf | with_reducible apply Xl.wait_memWf | with_reducible apply misaligned_memWf | with_reducible apply prot_memWf | (refine Xl.ok_of_eq ?_ (by with_reducible assumption)) | (refine Xl.fail_of_eq ?_ (by with_reducible assumption)) | (refine Xl.wait_of_eq ?_ (by with_reducible assumption)) | (refine EngAcc.ok_of_eq ?_ (by with_reducible assumption)) | (refine EngAcc.poison_of_eq ?_ (by with_reducible assumption)) | (refine EngAcc.fault_of_eq ?_ (by with_reducible assumption)) | (refine EngAcc.window_of_eq ?_ (by with_reducible assumption)) | (refine EngAcc.wait_of_eq ?_ (by with_reducible assumption)) | (refine Pages.ok_of_eq ?_ (by with_reducible assumption)) | (refine Pages.fail_of_eq ?_ (by with_reducible assumption)) | (refine Pages.wait_of_eq ?_ (by with_reducible assumption)) | (refine State.fst_of_eq ?_ (by with_reducible assumption)) | (refine Core.fst_of_eq ?_ (by with_reducible assumption)) | split | (with_reducible refine State.mk_memWf ?_ ?_ ?_) | (with_reducible refine Core.mk_memWf ?_ ?_ ?_ ?_ ?_)

@[simp ↓] theorem execOverlayLoadFail_memWf (c ld cause info : Nat) (s : State) (hs : s.memWf = true) :
    outMemWf (execOverlayLoadFail c ld cause info s) = true := by
  unfold execOverlayLoadFail
  (try dsimp only)
  repeat' first | with_reducible assumption | with_reducible rfl | (intro _) | with_reducible apply Core.acc_wf | with_reducible apply Core.banks_wf | with_reducible apply Core.foldlFst_memWf | with_reducible apply Core.foldl_memWf | with_reducible apply Core.istore_wf | with_reducible apply Core.iteFst_memWf | with_reducible apply Core.ite_memWf | with_reducible apply Core.rf_wf | with_reducible apply Core.store_wf | with_reducible apply EngAcc.fault_memWf | with_reducible apply EngAcc.ite_memWf | with_reducible apply EngAcc.ok_memWf | with_reducible apply EngAcc.poison_memWf | with_reducible apply EngAcc.wait_memWf | with_reducible apply EngAcc.window_memWf | with_reducible apply Mem.wf_clear | with_reducible apply Mem.wf_filter | with_reducible apply Mem.wf_set | with_reducible apply Mem.wf_write | with_reducible apply Res.ite_memWf | with_reducible apply State.cap_wf | with_reducible apply State.core_memWf | with_reducible apply State.cores_wf | with_reducible apply State.failThreads_memWf | with_reducible apply State.foldlFst_memWf | with_reducible apply State.foldl_memWf | with_reducible apply State.hbm_wf | with_reducible apply State.iteFst_memWf | with_reducible apply State.ite_memWf | with_reducible apply State.modCore_memWf | with_reducible apply State.postOnce_memWf | with_reducible apply State.retryLoads_memWf | with_reducible apply State.takeFailed_memWf | with_reducible apply Xl.fail_memWf | with_reducible apply Xl.ite_memWf | with_reducible apply Xl.ok_memWf | with_reducible apply Xl.wait_memWf | with_reducible apply outMemWf_fault | with_reducible apply outMemWf_ite | with_reducible apply outMemWf_next | (refine EngAcc.ok_of_eq ?_ (by with_reducible assumption)) | (refine EngAcc.poison_of_eq ?_ (by with_reducible assumption)) | (refine EngAcc.fault_of_eq ?_ (by with_reducible assumption)) | (refine EngAcc.window_of_eq ?_ (by with_reducible assumption)) | (refine EngAcc.wait_of_eq ?_ (by with_reducible assumption)) | (refine Pages.ok_of_eq ?_ (by with_reducible assumption)) | (refine Pages.fail_of_eq ?_ (by with_reducible assumption)) | (refine Pages.wait_of_eq ?_ (by with_reducible assumption)) | (refine State.fst_of_eq ?_ (by with_reducible assumption)) | (refine Core.fst_of_eq ?_ (by with_reducible assumption)) | split | (with_reducible refine State.mk_memWf ?_ ?_ ?_) | (with_reducible refine Core.mk_memWf ?_ ?_ ?_ ?_ ?_)

@[simp ↓] theorem execOverlayExhaustion_memWf (c : Nat) (s : State) (hs : s.memWf = true) :
    outMemWf (execOverlayExhaustion c s) = true := by
  unfold execOverlayExhaustion
  simp +contextual (maxDischargeDepth := 60) only [↓Core.acc_wf, ↓Core.banks_wf, ↓Core.istore_wf, ↓Core.iteFst_memWf, ↓Core.ite_memWf, ↓Core.mk_memWf, ↓Core.rf_wf, ↓Core.store_wf, ↓EngAcc.fault_memWf, ↓EngAcc.ite_memWf, ↓EngAcc.ok_memWf, ↓EngAcc.poison_memWf, ↓EngAcc.wait_memWf, ↓EngAcc.window_memWf, ↓Mem.wf_clear, ↓Mem.wf_filter, ↓Mem.wf_set, ↓Mem.wf_write, ↓Res.ite_memWf, ↓State.cap_wf, ↓State.core_memWf, ↓State.cores_wf, ↓State.hbm_wf, ↓State.iteFst_memWf, ↓State.ite_memWf, ↓State.mk_memWf, ↓State.post_memWf, ↓State.raiseExhaustion_memWf, ↓State.setCore_memWf, ↓Xl.fail_memWf, ↓Xl.ite_memWf, ↓Xl.ok_memWf, ↓Xl.wait_memWf, ↓outMemWf_fault, ↓outMemWf_ite, ↓outMemWf_next, hs, implies_true]

@[simp ↓] theorem State.recheckQuota_memWf (s : State) (c : Nat) (hs : s.memWf = true) :
    (State.recheckQuota s c).memWf = true := by
  unfold State.recheckQuota
  simp +contextual (maxDischargeDepth := 60) only [↓Core.acc_wf, ↓Core.banks_wf, ↓Core.enterOv_memWf, ↓Core.foldlFst_memWf, ↓Core.foldl_memWf, ↓Core.istore_wf, ↓Core.iteFst_memWf, ↓Core.ite_memWf, ↓Core.mk_memWf, ↓Core.rf_wf, ↓Core.store_wf, ↓EngAcc.fault_memWf, ↓EngAcc.ite_memWf, ↓EngAcc.ok_memWf, ↓EngAcc.poison_memWf, ↓EngAcc.wait_memWf, ↓EngAcc.window_memWf, ↓Res.ite_memWf, ↓State.cap_wf, ↓State.core_memWf, ↓State.cores_wf, ↓State.foldlFst_memWf, ↓State.foldl_memWf, ↓State.hbm_wf, ↓State.iteFst_memWf, ↓State.ite_memWf, ↓State.mk_memWf, ↓State.modCore_memWf, ↓State.requestOv_memWf, ↓State.setCore_memWf, ↓Xl.fail_memWf, ↓Xl.ite_memWf, ↓Xl.ok_memWf, ↓Xl.wait_memWf, hs, implies_true]

@[simp ↓] theorem execQuotaRecheck_memWf (c : Nat) (s : State) (hs : s.memWf = true) :
    outMemWf (execQuotaRecheck c s) = true := by
  unfold execQuotaRecheck
  simp +contextual (maxDischargeDepth := 60) only [↓EngAcc.fault_memWf, ↓EngAcc.ite_memWf, ↓EngAcc.ok_memWf, ↓EngAcc.poison_memWf, ↓EngAcc.wait_memWf, ↓EngAcc.window_memWf, ↓State.recheckQuota_memWf, ↓Xl.fail_memWf, ↓Xl.ite_memWf, ↓Xl.ok_memWf, ↓Xl.wait_memWf, ↓outMemWf_fault, ↓outMemWf_ite, ↓outMemWf_next, hs, implies_true]

end Sys2Proof.Machine
end

