-- ==== Sys2Proof/Laws/CanonRays.lean ====
section
/-! SUPPORT. Treelets and rays keep the canonical form of storage. -/

set_option linter.unusedSimpArgs false

namespace Sys2Proof.Machine

@[simp ↓] theorem State.takeChunk_memWf (s : State) (d : Nat) (hs : s.memWf = true) :
    (State.takeChunk s d).1.memWf = true := by
  unfold State.takeChunk
  (try dsimp only)
  repeat' first | with_reducible assumption | with_reducible rfl | (intro _) | with_reducible apply Core.acc_wf | with_reducible apply Core.banks_wf | with_reducible apply Core.istore_wf | with_reducible apply Core.rf_wf | with_reducible apply Core.store_wf | with_reducible apply State.cap_wf | with_reducible apply State.cores_wf | with_reducible apply State.hbm_wf | with_reducible apply State.setDie_memWf | (refine EngAcc.ok_of_eq ?_ (by with_reducible assumption)) | (refine EngAcc.poison_of_eq ?_ (by with_reducible assumption)) | (refine EngAcc.fault_of_eq ?_ (by with_reducible assumption)) | (refine EngAcc.window_of_eq ?_ (by with_reducible assumption)) | (refine EngAcc.wait_of_eq ?_ (by with_reducible assumption)) | (refine Pages.ok_of_eq ?_ (by with_reducible assumption)) | (refine Pages.fail_of_eq ?_ (by with_reducible assumption)) | (refine Pages.wait_of_eq ?_ (by with_reducible assumption)) | (refine State.fst_of_eq ?_ (by with_reducible assumption)) | (refine Core.fst_of_eq ?_ (by with_reducible assumption)) | split | (with_reducible refine State.mk_memWf ?_ ?_ ?_) | (with_reducible refine Core.mk_memWf ?_ ?_ ?_ ?_ ?_)

@[simp ↓] theorem State.laySpill_memWf (s : State) (sp : Spill) (cap : Nat) (hs : s.memWf = true) :
    (State.laySpill s sp cap).memWf = true := by
  unfold State.laySpill
  simp +contextual (maxDischargeDepth := 60) only [↓Core.foldlFst_memWf, ↓Core.foldl_memWf, ↓Core.iteFst_memWf, ↓Core.ite_memWf, ↓Res.ite_memWf, ↓State.foldlFst_memWf, ↓State.foldl_memWf, ↓State.homeWrite_memWf, ↓State.iteFst_memWf, ↓State.ite_memWf, hs, implies_true]

@[simp ↓] theorem State.fitChunks_memWf (s : State) (d : Nat) (old sp : Spill) (cap : Nat) (hs : s.memWf = true) :
    (State.fitChunks s d old sp cap).1.memWf = true := by
  unfold State.fitChunks
  (try dsimp only)
  repeat' first | with_reducible assumption | with_reducible rfl | (intro _) | with_reducible apply Core.acc_wf | with_reducible apply Core.banks_wf | with_reducible apply Core.foldlFst_memWf | with_reducible apply Core.foldl_memWf | with_reducible apply Core.istore_wf | with_reducible apply Core.iteFst_memWf | with_reducible apply Core.ite_memWf | with_reducible apply Core.rf_wf | with_reducible apply Core.store_wf | with_reducible apply Res.ite_memWf | with_reducible apply State.cap_wf | with_reducible apply State.cores_wf | with_reducible apply State.foldlFst_memWf | with_reducible apply State.foldl_memWf | with_reducible apply State.hbm_wf | with_reducible apply State.iteFst_memWf | with_reducible apply State.ite_memWf | with_reducible apply State.laySpill_memWf | with_reducible apply State.modDie_memWf | with_reducible apply State.takeChunk_memWf | (refine EngAcc.ok_of_eq ?_ (by with_reducible assumption)) | (refine EngAcc.poison_of_eq ?_ (by with_reducible assumption)) | (refine EngAcc.fault_of_eq ?_ (by with_reducible assumption)) | (refine EngAcc.window_of_eq ?_ (by with_reducible assumption)) | (refine EngAcc.wait_of_eq ?_ (by with_reducible assumption)) | (refine Pages.ok_of_eq ?_ (by with_reducible assumption)) | (refine Pages.fail_of_eq ?_ (by with_reducible assumption)) | (refine Pages.wait_of_eq ?_ (by with_reducible assumption)) | (refine State.fst_of_eq ?_ (by with_reducible assumption)) | (refine Core.fst_of_eq ?_ (by with_reducible assumption)) | split | (with_reducible refine State.mk_memWf ?_ ?_ ?_) | (with_reducible refine Core.mk_memWf ?_ ?_ ?_ ?_ ?_)

@[simp ↓] theorem State.sceneFault_memWf (s : State) (tid cause : Nat) (hs : s.memWf = true) :
    (State.sceneFault s tid cause).memWf = true := by
  unfold State.sceneFault
  simp +contextual (maxDischargeDepth := 60) only [↓State.setField_memWf, hs, implies_true]

@[simp ↓] theorem State.routeRay_memWf (s : State) (c : Nat) (ray : List Word) (from_ : Option Nat) (hs : s.memWf = true) :
    (State.routeRay s c ray from_).memWf = true := by
  unfold State.routeRay
  (try dsimp only)
  repeat' first | with_reducible assumption | with_reducible rfl | (intro _) | with_reducible apply State.getD_memWf | with_reducible apply Core.acc_wf | with_reducible apply Core.banks_wf | with_reducible apply Core.istore_wf | with_reducible apply Core.rf_wf | with_reducible apply Core.store_wf | with_reducible apply Mem.wf_clear | with_reducible apply Mem.wf_filter | with_reducible apply Mem.wf_set | with_reducible apply Mem.wf_write | with_reducible apply State.cap_wf | with_reducible apply State.core_memWf | with_reducible apply State.cores_wf | with_reducible apply State.hbm_wf | with_reducible apply State.send_memWf | with_reducible apply State.setCore_memWf | (refine EngAcc.ok_of_eq ?_ (by with_reducible assumption)) | (refine EngAcc.poison_of_eq ?_ (by with_reducible assumption)) | (refine EngAcc.fault_of_eq ?_ (by with_reducible assumption)) | (refine EngAcc.window_of_eq ?_ (by with_reducible assumption)) | (refine EngAcc.wait_of_eq ?_ (by with_reducible assumption)) | (refine Pages.ok_of_eq ?_ (by with_reducible assumption)) | (refine Pages.fail_of_eq ?_ (by with_reducible assumption)) | (refine Pages.wait_of_eq ?_ (by with_reducible assumption)) | (refine State.fst_of_eq ?_ (by with_reducible assumption)) | (refine Core.fst_of_eq ?_ (by with_reducible assumption)) | split | (with_reducible refine State.mk_memWf ?_ ?_ ?_) | (with_reducible refine Core.mk_memWf ?_ ?_ ?_ ?_ ?_)

@[simp ↓] theorem State.spillRay_memWf (s : State) (c mark : Nat) (ray : List Word) (hs : s.memWf = true) :
    (State.spillRay s c mark ray).memWf = true := by
  unfold State.spillRay
  simp +contextual (maxDischargeDepth := 60) only [↓Core.acc_wf, ↓Core.banks_wf, ↓Core.istore_wf, ↓Core.mk_memWf, ↓Core.rf_wf, ↓Core.store_wf, ↓State.cap_wf, ↓State.core_memWf, ↓State.cores_wf, ↓State.fitChunks_memWf, ↓State.hbm_wf, ↓State.mk_memWf, ↓State.modCore_memWf, ↓State.postOnce_memWf, hs, implies_true]

@[simp ↓] theorem State.forwardHome_memWf (s : State) (c : Nat) (ray : List Word) (failed : Bool) (hs : s.memWf = true) :
    (State.forwardHome s c ray failed).memWf = true := by
  unfold State.forwardHome
  simp +contextual (maxDischargeDepth := 60) only [↓Core.iteFst_memWf, ↓Core.ite_memWf, ↓Res.ite_memWf, ↓State.iteFst_memWf, ↓State.ite_memWf, ↓State.send_memWf, ↓State.spillRay_memWf, hs, implies_true]

@[simp ↓] theorem Core.modSlot_memWf (k : Core) (j : Nat) (f : PoolSlot → PoolSlot) (hk : k.memWf = true) :
    (Core.modSlot k j f).memWf = true := by
  unfold Core.modSlot
  simp +contextual (maxDischargeDepth := 60) only [↓Core.acc_wf, ↓Core.banks_wf, ↓Core.istore_wf, ↓Core.mk_memWf, ↓Core.rf_wf, ↓Core.store_wf, ↓State.cap_wf, ↓State.cores_wf, ↓State.hbm_wf, ↓State.mk_memWf, hk, implies_true]

@[simp ↓] theorem Core.pushRay_memWf (k : Core) (r : InRay) (hk : k.memWf = true) :
    (Core.pushRay k r).memWf = true := by
  unfold Core.pushRay
  simp +contextual (maxDischargeDepth := 60) only [↓Core.acc_wf, ↓Core.banks_wf, ↓Core.istore_wf, ↓Core.mk_memWf, ↓Core.rf_wf, ↓Core.store_wf, ↓Core.writeStore_memWf, ↓State.cap_wf, ↓State.cores_wf, ↓State.hbm_wf, ↓State.mk_memWf, hk, implies_true]

@[simp ↓] theorem Core.pushHit_memWf (k : Core) (h : List Word) (hk : k.memWf = true) :
    (Core.pushHit k h).memWf = true := by
  unfold Core.pushHit
  simp +contextual (maxDischargeDepth := 60) only [↓Core.acc_wf, ↓Core.banks_wf, ↓Core.istore_wf, ↓Core.mk_memWf, ↓Core.rf_wf, ↓Core.store_wf, ↓Core.writeStore_memWf, ↓State.cap_wf, ↓State.cores_wf, ↓State.hbm_wf, ↓State.mk_memWf, hk, implies_true]

@[simp ↓] theorem Core.popHit_memWf (k : Core) (hk : k.memWf = true) :
    (Core.popHit k).memWf = true := by
  unfold Core.popHit
  simp +contextual (maxDischargeDepth := 60) only [↓Core.acc_wf, ↓Core.banks_wf, ↓Core.istore_wf, ↓Core.mk_memWf, ↓Core.rf_wf, ↓Core.store_wf, ↓State.cap_wf, ↓State.cores_wf, ↓State.hbm_wf, ↓State.mk_memWf, hk, implies_true]

@[simp ↓] theorem State.releaseSlot_memWf (s : State) (c j tid : Nat) (hs : s.memWf = true) :
    (State.releaseSlot s c j tid).memWf = true := by
  unfold State.releaseSlot
  simp +contextual (maxDischargeDepth := 60) only [↓Core.acc_wf, ↓Core.banks_wf, ↓Core.istore_wf, ↓Core.iteFst_memWf, ↓Core.ite_memWf, ↓Core.mk_memWf, ↓Core.modSlot_memWf, ↓Core.rf_wf, ↓Core.store_wf, ↓Res.ite_memWf, ↓State.cap_wf, ↓State.core_memWf, ↓State.cores_wf, ↓State.hbm_wf, ↓State.iteFst_memWf, ↓State.ite_memWf, ↓State.mk_memWf, ↓State.modCore_memWf, ↓State.postOnce_memWf, hs, implies_true]

@[simp ↓] theorem State.enqueueRay_memWf (s : State) (c : Nat) (r : InRay) (hs : s.memWf = true) :
    (State.enqueueRay s c r).memWf = true := by
  unfold State.enqueueRay
  simp +contextual (maxDischargeDepth := 60) only [↓Core.iteFst_memWf, ↓Core.ite_memWf, ↓Core.pushRay_memWf, ↓Core.wake_memWf, ↓Res.ite_memWf, ↓State.core_memWf, ↓State.iteFst_memWf, ↓State.ite_memWf, ↓State.setCore_memWf, ↓State.spillRay_memWf, hs, implies_true]

@[simp ↓] theorem State.cleanInbox_memWf (n : Nat) (s : State) (c : Nat) (hs : s.memWf = true) : (State.cleanInbox n s c).memWf = true := by
  induction n generalizing s with
  | zero => exact hs
  | succ n ih =>
    unfold State.cleanInbox
    split
    · split
      · refine ih _ (State.postOnce_memWf _ _ (State.forwardHome_memWf _ _ _ _ (State.releaseSlot_memWf _ _ _ _
          (State.modCore_memWf hs (fun k hk => ?_) _))))
        exact Core.mk_memWf (Core.rf_wf hk) (Core.banks_wf hk) (Core.store_wf hk) (Core.istore_wf hk) (Core.acc_wf hk)
      · exact hs
    · exact hs

@[simp ↓] theorem State.inboxHead_memWf (s : State) (c : Nat) (hs : s.memWf = true) :
    (State.inboxHead s c).memWf = true := by
  unfold State.inboxHead
  simp +contextual (maxDischargeDepth := 60) only [↓Core.wake_memWf, ↓State.cleanInbox_memWf, ↓State.modCore_memWf, hs, implies_true]

@[simp ↓] theorem State.startDrain_memWf (s : State) (c j : Nat) (next : Option (Nat × Nat × Bool)) (hs : s.memWf = true) :
    (State.startDrain s c j next).memWf = true := by
  unfold State.startDrain
  (try dsimp only)
  repeat' first | with_reducible assumption | with_reducible rfl | (intro _) | with_reducible apply Core.acc_wf | with_reducible apply Core.banks_wf | with_reducible apply Core.istore_wf | with_reducible apply Core.iteFst_memWf | with_reducible apply Core.ite_memWf | with_reducible apply Core.modSlot_memWf | with_reducible apply Core.rf_wf | with_reducible apply Core.store_wf | with_reducible apply Res.ite_memWf | with_reducible apply State.cap_wf | with_reducible apply State.core_memWf | with_reducible apply State.cores_wf | with_reducible apply State.hbm_wf | with_reducible apply State.inboxHead_memWf | with_reducible apply State.iteFst_memWf | with_reducible apply State.ite_memWf | with_reducible apply State.modCore_memWf | with_reducible apply State.postOnce_memWf | with_reducible apply State.send_memWf | with_reducible apply outMemWf_fault | with_reducible apply outMemWf_ite | with_reducible apply outMemWf_next | (refine EngAcc.ok_of_eq ?_ (by with_reducible assumption)) | (refine EngAcc.poison_of_eq ?_ (by with_reducible assumption)) | (refine EngAcc.fault_of_eq ?_ (by with_reducible assumption)) | (refine EngAcc.window_of_eq ?_ (by with_reducible assumption)) | (refine EngAcc.wait_of_eq ?_ (by with_reducible assumption)) | (refine Pages.ok_of_eq ?_ (by with_reducible assumption)) | (refine Pages.fail_of_eq ?_ (by with_reducible assumption)) | (refine Pages.wait_of_eq ?_ (by with_reducible assumption)) | (refine State.fst_of_eq ?_ (by with_reducible assumption)) | (refine Core.fst_of_eq ?_ (by with_reducible assumption)) | split | (with_reducible refine State.mk_memWf ?_ ?_ ?_) | (with_reducible refine Core.mk_memWf ?_ ?_ ?_ ?_ ?_)

@[simp ↓] theorem execRayArrival_memWf (c : Nat) (ray : Words) (s : State) (hs : s.memWf = true) :
    outMemWf (execRayArrival c ray s) = true := by
  unfold execRayArrival
  (try dsimp only)
  repeat' first | with_reducible assumption | with_reducible rfl | (intro _) | with_reducible apply State.getD_memWf | with_reducible apply Core.acc_wf | with_reducible apply Core.banks_wf | with_reducible apply Core.istore_wf | with_reducible apply Core.iteFst_memWf | with_reducible apply Core.ite_memWf | with_reducible apply Core.modSlot_memWf | with_reducible apply Core.rf_wf | with_reducible apply Core.store_wf | with_reducible apply Res.ite_memWf | with_reducible apply State.cap_wf | with_reducible apply State.core_memWf | with_reducible apply State.cores_wf | with_reducible apply State.enqueueRay_memWf | with_reducible apply State.forwardHome_memWf | with_reducible apply State.hbm_wf | with_reducible apply State.iteFst_memWf | with_reducible apply State.ite_memWf | with_reducible apply State.send_memWf | with_reducible apply State.setCore_memWf | with_reducible apply outMemWf_fault | with_reducible apply outMemWf_ite | with_reducible apply outMemWf_next | (refine EngAcc.ok_of_eq ?_ (by with_reducible assumption)) | (refine EngAcc.poison_of_eq ?_ (by with_reducible assumption)) | (refine EngAcc.fault_of_eq ?_ (by with_reducible assumption)) | (refine EngAcc.window_of_eq ?_ (by with_reducible assumption)) | (refine EngAcc.wait_of_eq ?_ (by with_reducible assumption)) | (refine Pages.ok_of_eq ?_ (by with_reducible assumption)) | (refine Pages.fail_of_eq ?_ (by with_reducible assumption)) | (refine Pages.wait_of_eq ?_ (by with_reducible assumption)) | (refine State.fst_of_eq ?_ (by with_reducible assumption)) | (refine Core.fst_of_eq ?_ (by with_reducible assumption)) | split | (with_reducible refine State.mk_memWf ?_ ?_ ?_) | (with_reducible refine Core.mk_memWf ?_ ?_ ?_ ?_ ?_)

@[simp ↓] theorem execSpillRefill_memWf (c : Nat) (hits : Bool) (s : State) (hs : s.memWf = true) :
    outMemWf (execSpillRefill c hits s) = true := by
  unfold execSpillRefill
  (try dsimp only)
  repeat' first | with_reducible assumption | with_reducible rfl | (intro _) | with_reducible apply State.getD_memWf | with_reducible apply Core.acc_wf | with_reducible apply Core.banks_wf | with_reducible apply Core.istore_wf | with_reducible apply Core.iteFst_memWf | with_reducible apply Core.ite_memWf | with_reducible apply Core.pushHit_memWf | with_reducible apply Core.pushRay_memWf | with_reducible apply Core.rf_wf | with_reducible apply Core.store_wf | with_reducible apply Res.done_memWf | with_reducible apply Res.ite_memWf | with_reducible apply Res.moved_memWf | with_reducible apply Res.trap_memWf | with_reducible apply Res.wait_memWf | with_reducible apply State.cap_wf | with_reducible apply State.core_memWf | with_reducible apply State.cores_wf | with_reducible apply State.fitChunks_memWf | with_reducible apply State.forwardHome_memWf | with_reducible apply State.hbm_wf | with_reducible apply State.inboxHead_memWf | with_reducible apply State.iteFst_memWf | with_reducible apply State.ite_memWf | with_reducible apply State.modCore_memWf | with_reducible apply State.postOnce_memWf | with_reducible apply State.post_memWf | with_reducible apply misaligned_memWf | with_reducible apply outMemWf_fault | with_reducible apply outMemWf_ite | with_reducible apply outMemWf_next | with_reducible apply prot_memWf | (refine EngAcc.ok_of_eq ?_ (by with_reducible assumption)) | (refine EngAcc.poison_of_eq ?_ (by with_reducible assumption)) | (refine EngAcc.fault_of_eq ?_ (by with_reducible assumption)) | (refine EngAcc.window_of_eq ?_ (by with_reducible assumption)) | (refine EngAcc.wait_of_eq ?_ (by with_reducible assumption)) | (refine Pages.ok_of_eq ?_ (by with_reducible assumption)) | (refine Pages.fail_of_eq ?_ (by with_reducible assumption)) | (refine Pages.wait_of_eq ?_ (by with_reducible assumption)) | (refine State.fst_of_eq ?_ (by with_reducible assumption)) | (refine Core.fst_of_eq ?_ (by with_reducible assumption)) | split | (with_reducible refine State.mk_memWf ?_ ?_ ?_) | (with_reducible refine Core.mk_memWf ?_ ?_ ?_ ?_ ?_)

@[simp ↓] theorem State.setDirSet_memWf (s : State) (d tid : Nat) (l : List DirEntry) (hs : s.memWf = true) :
    (State.setDirSet s d tid l).memWf = true := by
  unfold State.setDirSet
  simp +contextual (maxDischargeDepth := 60) only [↓Core.acc_wf, ↓Core.banks_wf, ↓Core.istore_wf, ↓Core.iteFst_memWf, ↓Core.ite_memWf, ↓Core.mk_memWf, ↓Core.rf_wf, ↓Core.store_wf, ↓Res.ite_memWf, ↓State.cap_wf, ↓State.cores_wf, ↓State.hbm_wf, ↓State.iteFst_memWf, ↓State.ite_memWf, ↓State.mk_memWf, ↓State.modDie_memWf, hs, implies_true]

@[simp ↓] theorem State.modEntry_memWf (s : State) (d tid : Nat) (f : DirEntry → DirEntry) (hs : s.memWf = true) :
    (State.modEntry s d tid f).memWf = true := by
  unfold State.modEntry
  simp +contextual (maxDischargeDepth := 60) only [↓Core.iteFst_memWf, ↓Core.ite_memWf, ↓Res.ite_memWf, ↓State.iteFst_memWf, ↓State.ite_memWf, ↓State.setDirSet_memWf, hs, implies_true]

@[simp ↓] theorem State.returnRay_memWf (s : State) (d : Nat) (ray : List Word) (status : Nat) (hs : s.memWf = true) :
    (State.returnRay s d ray status).memWf = true := by
  unfold State.returnRay
  simp +contextual (maxDischargeDepth := 60) only [↓State.send_memWf, hs, implies_true]

@[simp ↓] theorem State.holdRay_memWf (s : State) (d : Nat) (ray : List Word) (fwd : Nat) (hs : s.memWf = true) :
    (State.holdRay s d ray fwd).memWf = true := by
  unfold State.holdRay
  simp +contextual (maxDischargeDepth := 60) only [↓Core.acc_wf, ↓Core.banks_wf, ↓Core.istore_wf, ↓Core.mk_memWf, ↓Core.rf_wf, ↓Core.store_wf, ↓State.cap_wf, ↓State.cores_wf, ↓State.fitChunks_memWf, ↓State.hbm_wf, ↓State.mk_memWf, ↓State.modDie_memWf, hs, implies_true]

@[simp ↓] theorem State.takeHeld_memWf (s : State) (d tid : Nat) (hs : s.memWf = true) :
    (State.takeHeld s d tid).1.memWf = true := by
  unfold State.takeHeld
  simp +contextual (maxDischargeDepth := 60) only [↓Core.acc_wf, ↓Core.banks_wf, ↓Core.istore_wf, ↓Core.iteFst_memWf, ↓Core.ite_memWf, ↓Core.mk_memWf, ↓Core.rf_wf, ↓Core.store_wf, ↓Res.ite_memWf, ↓State.cap_wf, ↓State.cores_wf, ↓State.fitChunks_memWf, ↓State.hbm_wf, ↓State.iteFst_memWf, ↓State.ite_memWf, ↓State.mk_memWf, ↓State.modDie_memWf, hs, implies_true]

@[simp ↓] theorem State.askPlacement_memWf (s : State) (d tid : Nat) (replica : Bool) (at_ : Nat) (hs : s.memWf = true) :
    (State.askPlacement s d tid replica at_).memWf = true := by
  unfold State.askPlacement
  simp +contextual (maxDischargeDepth := 60) only [↓Core.acc_wf, ↓Core.banks_wf, ↓Core.istore_wf, ↓Core.mk_memWf, ↓Core.rf_wf, ↓Core.store_wf, ↓State.cap_wf, ↓State.cores_wf, ↓State.hbm_wf, ↓State.mk_memWf, ↓State.modEntry_memWf, ↓State.send_memWf, hs, implies_true]

@[simp ↓] theorem State.checkReplica_memWf (s : State) (d tid : Nat) (hs : s.memWf = true) :
    (State.checkReplica s d tid).memWf = true := by
  unfold State.checkReplica
  (try dsimp only)
  repeat' first | with_reducible assumption | with_reducible rfl | (intro _) | with_reducible apply Core.acc_wf | with_reducible apply Core.banks_wf | with_reducible apply Core.istore_wf | with_reducible apply Core.iteFst_memWf | with_reducible apply Core.ite_memWf | with_reducible apply Core.rf_wf | with_reducible apply Core.store_wf | with_reducible apply Res.ite_memWf | with_reducible apply State.askPlacement_memWf | with_reducible apply State.cap_wf | with_reducible apply State.cores_wf | with_reducible apply State.hbm_wf | with_reducible apply State.iteFst_memWf | with_reducible apply State.ite_memWf | with_reducible apply State.modEntry_memWf | (refine EngAcc.ok_of_eq ?_ (by with_reducible assumption)) | (refine EngAcc.poison_of_eq ?_ (by with_reducible assumption)) | (refine EngAcc.fault_of_eq ?_ (by with_reducible assumption)) | (refine EngAcc.window_of_eq ?_ (by with_reducible assumption)) | (refine EngAcc.wait_of_eq ?_ (by with_reducible assumption)) | (refine Pages.ok_of_eq ?_ (by with_reducible assumption)) | (refine Pages.fail_of_eq ?_ (by with_reducible assumption)) | (refine Pages.wait_of_eq ?_ (by with_reducible assumption)) | (refine State.fst_of_eq ?_ (by with_reducible assumption)) | (refine Core.fst_of_eq ?_ (by with_reducible assumption)) | split | (with_reducible refine State.mk_memWf ?_ ?_ ?_) | (with_reducible refine Core.mk_memWf ?_ ?_ ?_ ?_ ?_)

@[simp ↓] theorem State.homeRoute_memWf (s : State) (d fwd : Nat) (ray : List Word) (owners told : List Nat) (hs : s.memWf = true) :
    (State.homeRoute s d fwd ray owners told).memWf = true := by
  unfold State.homeRoute
  (try dsimp only)
  repeat' first | with_reducible assumption | with_reducible rfl | (intro _) | with_reducible apply State.getD_memWf | with_reducible apply Core.acc_wf | with_reducible apply Core.banks_wf | with_reducible apply Core.istore_wf | with_reducible apply Core.iteFst_memWf | with_reducible apply Core.ite_memWf | with_reducible apply Core.rf_wf | with_reducible apply Core.store_wf | with_reducible apply Res.ite_memWf | with_reducible apply State.cap_wf | with_reducible apply State.cores_wf | with_reducible apply State.hbm_wf | with_reducible apply State.holdRay_memWf | with_reducible apply State.iteFst_memWf | with_reducible apply State.ite_memWf | with_reducible apply State.postOnce_memWf | with_reducible apply State.send_memWf | (refine EngAcc.ok_of_eq ?_ (by with_reducible assumption)) | (refine EngAcc.poison_of_eq ?_ (by with_reducible assumption)) | (refine EngAcc.fault_of_eq ?_ (by with_reducible assumption)) | (refine EngAcc.window_of_eq ?_ (by with_reducible assumption)) | (refine EngAcc.wait_of_eq ?_ (by with_reducible assumption)) | (refine Pages.ok_of_eq ?_ (by with_reducible assumption)) | (refine Pages.fail_of_eq ?_ (by with_reducible assumption)) | (refine Pages.wait_of_eq ?_ (by with_reducible assumption)) | (refine State.fst_of_eq ?_ (by with_reducible assumption)) | (refine Core.fst_of_eq ?_ (by with_reducible assumption)) | split | (with_reducible refine State.mk_memWf ?_ ?_ ?_) | (with_reducible refine Core.mk_memWf ?_ ?_ ?_ ?_ ?_)

@[simp ↓] theorem State.dirRay_memWf (s : State) (d fwd : Nat) (ray : List Word) (e : DirEntry) (hs : s.memWf = true) :
    (State.dirRay s d fwd ray e).memWf = true := by
  unfold State.dirRay
  simp +contextual (maxDischargeDepth := 60) only [↓Core.acc_wf, ↓Core.banks_wf, ↓Core.istore_wf, ↓Core.iteFst_memWf, ↓Core.ite_memWf, ↓Core.mk_memWf, ↓Core.rf_wf, ↓Core.store_wf, ↓Mem.wf_clear, ↓Mem.wf_filter, ↓Mem.wf_set, ↓Mem.wf_write, ↓Res.ite_memWf, ↓State.askPlacement_memWf, ↓State.cap_wf, ↓State.cores_wf, ↓State.hbm_wf, ↓State.holdRay_memWf, ↓State.homeRoute_memWf, ↓State.iteFst_memWf, ↓State.ite_memWf, ↓State.mk_memWf, ↓State.modEntry_memWf, ↓State.returnRay_memWf, hs, implies_true]

@[simp ↓] theorem State.retryHeld_memWf (s : State) (d tid : Nat) (hs : s.memWf = true) :
    (State.retryHeld s d tid).memWf = true := by
  unfold State.retryHeld
  (try dsimp only)
  repeat' first | with_reducible assumption | with_reducible rfl | (intro _) | with_reducible apply State.getD_memWf | with_reducible apply Core.acc_wf | with_reducible apply Core.banks_wf | with_reducible apply Core.foldlFst_memWf | with_reducible apply Core.foldl_memWf | with_reducible apply Core.istore_wf | with_reducible apply Core.rf_wf | with_reducible apply Core.store_wf | with_reducible apply State.cap_wf | with_reducible apply State.cores_wf | with_reducible apply State.dirRay_memWf | with_reducible apply State.foldlFst_memWf | with_reducible apply State.foldl_memWf | with_reducible apply State.hbm_wf | with_reducible apply State.holdRay_memWf | with_reducible apply State.postOnce_memWf | with_reducible apply State.takeHeld_memWf | (refine EngAcc.ok_of_eq ?_ (by with_reducible assumption)) | (refine EngAcc.poison_of_eq ?_ (by with_reducible assumption)) | (refine EngAcc.fault_of_eq ?_ (by with_reducible assumption)) | (refine EngAcc.window_of_eq ?_ (by with_reducible assumption)) | (refine EngAcc.wait_of_eq ?_ (by with_reducible assumption)) | (refine Pages.ok_of_eq ?_ (by with_reducible assumption)) | (refine Pages.fail_of_eq ?_ (by with_reducible assumption)) | (refine Pages.wait_of_eq ?_ (by with_reducible assumption)) | (refine State.fst_of_eq ?_ (by with_reducible assumption)) | (refine Core.fst_of_eq ?_ (by with_reducible assumption)) | split | (with_reducible refine State.mk_memWf ?_ ?_ ?_) | (with_reducible refine Core.mk_memWf ?_ ?_ ?_ ?_ ?_)

@[simp ↓] theorem State.retryPlacements_memWf (s : State) (hs : s.memWf = true) :
    (State.retryPlacements s).memWf = true := by
  unfold State.retryPlacements
  simp +contextual (maxDischargeDepth := 60) only [↓Core.foldlFst_memWf, ↓Core.foldl_memWf, ↓Core.iteFst_memWf, ↓Core.ite_memWf, ↓Res.ite_memWf, ↓State.foldlFst_memWf, ↓State.foldl_memWf, ↓State.iteFst_memWf, ↓State.ite_memWf, ↓State.retryHeld_memWf, hs, implies_true]

@[simp ↓] theorem State.returnHeld_memWf (s : State) (d tid status : Nat) (hs : s.memWf = true) :
    (State.returnHeld s d tid status).memWf = true := by
  unfold State.returnHeld
  simp +contextual (maxDischargeDepth := 60) only [↓Core.foldlFst_memWf, ↓Core.foldl_memWf, ↓State.foldlFst_memWf, ↓State.foldl_memWf, ↓State.returnRay_memWf, ↓State.takeHeld_memWf, hs, implies_true]

@[simp ↓] theorem State.retryIndex_memWf (s : State) (d : Nat) (sets : Nat → Bool) (hs : s.memWf = true) :
    (State.retryIndex s d sets).memWf = true := by
  unfold State.retryIndex
  simp +contextual (maxDischargeDepth := 60) only [↓Core.foldlFst_memWf, ↓Core.foldl_memWf, ↓Mem.wf_clear, ↓Mem.wf_filter, ↓Mem.wf_set, ↓Mem.wf_write, ↓State.foldlFst_memWf, ↓State.foldl_memWf, ↓State.postOnce_memWf, hs, implies_true]

@[simp ↓] theorem State.retrySet_memWf (s : State) (d tid : Nat) (hs : s.memWf = true) :
    (State.retrySet s d tid).memWf = true := by
  unfold State.retrySet
  simp +contextual (maxDischargeDepth := 60) only [↓State.retryIndex_memWf, hs, implies_true]

@[simp ↓] theorem State.settleWay_memWf (s : State) (d tid : Nat) (hs : s.memWf = true) :
    (State.settleWay s d tid).memWf = true := by
  unfold State.settleWay
  (try dsimp only)
  repeat' first | with_reducible assumption | with_reducible rfl | (intro _) | with_reducible apply Core.acc_wf | with_reducible apply Core.banks_wf | with_reducible apply Core.foldlFst_memWf | with_reducible apply Core.foldl_memWf | with_reducible apply Core.istore_wf | with_reducible apply Core.iteFst_memWf | with_reducible apply Core.ite_memWf | with_reducible apply Core.rf_wf | with_reducible apply Core.store_wf | with_reducible apply Mem.wf_clear | with_reducible apply Mem.wf_filter | with_reducible apply Mem.wf_set | with_reducible apply Mem.wf_write | with_reducible apply Res.ite_memWf | with_reducible apply State.cap_wf | with_reducible apply State.core_memWf | with_reducible apply State.cores_wf | with_reducible apply State.foldlFst_memWf | with_reducible apply State.foldl_memWf | with_reducible apply State.hbm_wf | with_reducible apply State.iteFst_memWf | with_reducible apply State.ite_memWf | with_reducible apply State.setDirSet_memWf | with_reducible apply State.startDrain_memWf | (refine EngAcc.ok_of_eq ?_ (by with_reducible assumption)) | (refine EngAcc.poison_of_eq ?_ (by with_reducible assumption)) | (refine EngAcc.fault_of_eq ?_ (by with_reducible assumption)) | (refine EngAcc.window_of_eq ?_ (by with_reducible assumption)) | (refine EngAcc.wait_of_eq ?_ (by with_reducible assumption)) | (refine Pages.ok_of_eq ?_ (by with_reducible assumption)) | (refine Pages.fail_of_eq ?_ (by with_reducible assumption)) | (refine Pages.wait_of_eq ?_ (by with_reducible assumption)) | (refine State.fst_of_eq ?_ (by with_reducible assumption)) | (refine Core.fst_of_eq ?_ (by with_reducible assumption)) | split | (with_reducible refine State.mk_memWf ?_ ?_ ?_) | (with_reducible refine Core.mk_memWf ?_ ?_ ?_ ?_ ?_)

@[simp ↓] theorem State.makeWay_memWf (s : State) (d tid : Nat) (hs : s.memWf = true) :
    (State.makeWay s d tid).1.memWf = true := by
  unfold State.makeWay
  (try dsimp only)
  repeat' first | with_reducible assumption | with_reducible rfl | (intro _) | with_reducible apply Core.acc_wf | with_reducible apply Core.banks_wf | with_reducible apply Core.istore_wf | with_reducible apply Core.iteFst_memWf | with_reducible apply Core.ite_memWf | with_reducible apply Core.rf_wf | with_reducible apply Core.store_wf | with_reducible apply Mem.wf_clear | with_reducible apply Mem.wf_filter | with_reducible apply Mem.wf_set | with_reducible apply Mem.wf_write | with_reducible apply Res.ite_memWf | with_reducible apply State.cap_wf | with_reducible apply State.cores_wf | with_reducible apply State.hbm_wf | with_reducible apply State.iteFst_memWf | with_reducible apply State.ite_memWf | with_reducible apply State.modEntry_memWf | with_reducible apply State.setDirSet_memWf | with_reducible apply State.settleWay_memWf | (refine EngAcc.ok_of_eq ?_ (by with_reducible assumption)) | (refine EngAcc.poison_of_eq ?_ (by with_reducible assumption)) | (refine EngAcc.fault_of_eq ?_ (by with_reducible assumption)) | (refine EngAcc.window_of_eq ?_ (by with_reducible assumption)) | (refine EngAcc.wait_of_eq ?_ (by with_reducible assumption)) | (refine Pages.ok_of_eq ?_ (by with_reducible assumption)) | (refine Pages.fail_of_eq ?_ (by with_reducible assumption)) | (refine Pages.wait_of_eq ?_ (by with_reducible assumption)) | (refine State.fst_of_eq ?_ (by with_reducible assumption)) | (refine Core.fst_of_eq ?_ (by with_reducible assumption)) | split | (with_reducible refine State.mk_memWf ?_ ?_ ?_) | (with_reducible refine Core.mk_memWf ?_ ?_ ?_ ?_ ?_)

@[simp ↓] theorem execDirectoryRayArrival_memWf (d fwd : Nat) (ray : Words) (s : State) (hs : s.memWf = true) :
    outMemWf (execDirectoryRayArrival d fwd ray s) = true := by
  unfold execDirectoryRayArrival
  (try dsimp only)
  repeat' first | with_reducible assumption | with_reducible rfl | (intro _) | with_reducible apply State.getD_memWf | with_reducible apply Core.acc_wf | with_reducible apply Core.banks_wf | with_reducible apply Core.istore_wf | with_reducible apply Core.iteFst_memWf | with_reducible apply Core.ite_memWf | with_reducible apply Core.rf_wf | with_reducible apply Core.store_wf | with_reducible apply Res.ite_memWf | with_reducible apply State.cap_wf | with_reducible apply State.checkReplica_memWf | with_reducible apply State.cores_wf | with_reducible apply State.dirRay_memWf | with_reducible apply State.hbm_wf | with_reducible apply State.holdRay_memWf | with_reducible apply State.iteFst_memWf | with_reducible apply State.ite_memWf | with_reducible apply State.modEntry_memWf | with_reducible apply State.postOnce_memWf | with_reducible apply State.returnRay_memWf | with_reducible apply outMemWf_fault | with_reducible apply outMemWf_ite | with_reducible apply outMemWf_next | (refine EngAcc.ok_of_eq ?_ (by with_reducible assumption)) | (refine EngAcc.poison_of_eq ?_ (by with_reducible assumption)) | (refine EngAcc.fault_of_eq ?_ (by with_reducible assumption)) | (refine EngAcc.window_of_eq ?_ (by with_reducible assumption)) | (refine EngAcc.wait_of_eq ?_ (by with_reducible assumption)) | (refine Pages.ok_of_eq ?_ (by with_reducible assumption)) | (refine Pages.fail_of_eq ?_ (by with_reducible assumption)) | (refine Pages.wait_of_eq ?_ (by with_reducible assumption)) | (refine State.fst_of_eq ?_ (by with_reducible assumption)) | (refine Core.fst_of_eq ?_ (by with_reducible assumption)) | split | (with_reducible refine State.mk_memWf ?_ ?_ ?_) | (with_reducible refine Core.mk_memWf ?_ ?_ ?_ ?_ ?_)

@[simp ↓] theorem execIndexEntryRead_memWf (d tid : Nat) (s : State) (hs : s.memWf = true) :
    outMemWf (execIndexEntryRead d tid s) = true := by
  unfold execIndexEntryRead
  (try dsimp only)
  repeat' first | with_reducible assumption | with_reducible rfl | (intro _) | with_reducible apply State.getD_memWf | with_reducible apply Core.acc_wf | with_reducible apply Core.banks_wf | with_reducible apply Core.istore_wf | with_reducible apply Core.iteFst_memWf | with_reducible apply Core.ite_memWf | with_reducible apply Core.rf_wf | with_reducible apply Core.store_wf | with_reducible apply Mem.wf_clear | with_reducible apply Mem.wf_filter | with_reducible apply Mem.wf_set | with_reducible apply Mem.wf_write | with_reducible apply Res.done_memWf | with_reducible apply Res.ite_memWf | with_reducible apply Res.moved_memWf | with_reducible apply Res.trap_memWf | with_reducible apply Res.wait_memWf | with_reducible apply State.cap_wf | with_reducible apply State.cores_wf | with_reducible apply State.hbm_wf | with_reducible apply State.iteFst_memWf | with_reducible apply State.ite_memWf | with_reducible apply State.makeWay_memWf | with_reducible apply State.post_memWf | with_reducible apply State.retryHeld_memWf | with_reducible apply State.returnHeld_memWf | with_reducible apply State.sceneFault_memWf | with_reducible apply State.setDirSet_memWf | with_reducible apply State.targetRead_memWf | with_reducible apply State.xlate_memWf | with_reducible apply misaligned_memWf | with_reducible apply outMemWf_fault | with_reducible apply outMemWf_ite | with_reducible apply outMemWf_next | with_reducible apply prot_memWf | (refine Xl.ok_of_eq ?_ (by with_reducible assumption)) | (refine Xl.fail_of_eq ?_ (by with_reducible assumption)) | (refine Xl.wait_of_eq ?_ (by with_reducible assumption)) | (refine EngAcc.ok_of_eq ?_ (by with_reducible assumption)) | (refine EngAcc.poison_of_eq ?_ (by with_reducible assumption)) | (refine EngAcc.fault_of_eq ?_ (by with_reducible assumption)) | (refine EngAcc.window_of_eq ?_ (by with_reducible assumption)) | (refine EngAcc.wait_of_eq ?_ (by with_reducible assumption)) | (refine Pages.ok_of_eq ?_ (by with_reducible assumption)) | (refine Pages.fail_of_eq ?_ (by with_reducible assumption)) | (refine Pages.wait_of_eq ?_ (by with_reducible assumption)) | (refine State.fst_of_eq ?_ (by with_reducible assumption)) | (refine Core.fst_of_eq ?_ (by with_reducible assumption)) | split | (with_reducible refine State.mk_memWf ?_ ?_ ?_) | (with_reducible refine Core.mk_memWf ?_ ?_ ?_ ?_ ?_)

@[simp ↓] theorem execPlacementRequest_memWf (d tid home : Nat) (replica : Bool) (s : State) (hs : s.memWf = true) :
    outMemWf (execPlacementRequest d tid home replica s) = true := by
  unfold execPlacementRequest
  (try dsimp only)
  repeat' first | with_reducible assumption | with_reducible rfl | (intro _) | with_reducible apply Core.acc_wf | with_reducible apply Core.banks_wf | with_reducible apply Core.istore_wf | with_reducible apply Core.iteFst_memWf | with_reducible apply Core.ite_memWf | with_reducible apply Core.rf_wf | with_reducible apply Core.store_wf | with_reducible apply Res.ite_memWf | with_reducible apply State.askPlacement_memWf | with_reducible apply State.cap_wf | with_reducible apply State.core_memWf | with_reducible apply State.cores_wf | with_reducible apply State.hbm_wf | with_reducible apply State.iteFst_memWf | with_reducible apply State.ite_memWf | with_reducible apply State.modCore_memWf | with_reducible apply State.modEntry_memWf | with_reducible apply State.post_memWf | with_reducible apply State.retryHeld_memWf | with_reducible apply State.startDrain_memWf | with_reducible apply outMemWf_fault | with_reducible apply outMemWf_ite | with_reducible apply outMemWf_next | (refine EngAcc.ok_of_eq ?_ (by with_reducible assumption)) | (refine EngAcc.poison_of_eq ?_ (by with_reducible assumption)) | (refine EngAcc.fault_of_eq ?_ (by with_reducible assumption)) | (refine EngAcc.window_of_eq ?_ (by with_reducible assumption)) | (refine EngAcc.wait_of_eq ?_ (by with_reducible assumption)) | (refine Pages.ok_of_eq ?_ (by with_reducible assumption)) | (refine Pages.fail_of_eq ?_ (by with_reducible assumption)) | (refine Pages.wait_of_eq ?_ (by with_reducible assumption)) | (refine State.fst_of_eq ?_ (by with_reducible assumption)) | (refine Core.fst_of_eq ?_ (by with_reducible assumption)) | split | (with_reducible refine State.mk_memWf ?_ ?_ ?_) | (with_reducible refine Core.mk_memWf ?_ ?_ ?_ ?_ ?_)

@[simp ↓] theorem execSlotDrained_memWf (c slot : Nat) (s : State) (hs : s.memWf = true) :
    outMemWf (execSlotDrained c slot s) = true := by
  unfold execSlotDrained
  (try dsimp only)
  repeat' first | with_reducible assumption | with_reducible rfl | (intro _) | with_reducible apply Core.acc_wf | with_reducible apply Core.banks_wf | with_reducible apply Core.istore_wf | with_reducible apply Core.iteFst_memWf | with_reducible apply Core.ite_memWf | with_reducible apply Core.rf_wf | with_reducible apply Core.store_wf | with_reducible apply Res.ite_memWf | with_reducible apply State.cap_wf | with_reducible apply State.core_memWf | with_reducible apply State.cores_wf | with_reducible apply State.hbm_wf | with_reducible apply State.iteFst_memWf | with_reducible apply State.ite_memWf | with_reducible apply State.modCore_memWf | with_reducible apply State.post_memWf | with_reducible apply State.retryPlacements_memWf | with_reducible apply State.send_memWf | with_reducible apply outMemWf_fault | with_reducible apply outMemWf_ite | with_reducible apply outMemWf_next | (refine EngAcc.ok_of_eq ?_ (by with_reducible assumption)) | (refine EngAcc.poison_of_eq ?_ (by with_reducible assumption)) | (refine EngAcc.fault_of_eq ?_ (by with_reducible assumption)) | (refine EngAcc.window_of_eq ?_ (by with_reducible assumption)) | (refine EngAcc.wait_of_eq ?_ (by with_reducible assumption)) | (refine Pages.ok_of_eq ?_ (by with_reducible assumption)) | (refine Pages.fail_of_eq ?_ (by with_reducible assumption)) | (refine Pages.wait_of_eq ?_ (by with_reducible assumption)) | (refine State.fst_of_eq ?_ (by with_reducible assumption)) | (refine Core.fst_of_eq ?_ (by with_reducible assumption)) | split | (with_reducible refine State.mk_memWf ?_ ?_ ?_) | (with_reducible refine Core.mk_memWf ?_ ?_ ?_ ?_ ?_)

@[simp ↓] theorem State.readImage_memWf (f : Nat) (s : State) (c ctx : Nat) (who : Instr) (va n : Nat) (hs : s.memWf = true) :
    (State.readImage f s c ctx who va n).memWf = true := by
  induction f generalizing s va n with
  | zero => exact hs
  | succ f ih =>
    unfold State.readImage
    dsimp only
    split
    · exact hs
    · generalize min n (4096 - va % 4096) = m
      have h := State.xlate_memWf s c 5 ctx va false false (.ev who) hs
      split
      · exact Xl.wait_of_eq h ‹_›
      · exact Xl.fail_of_eq h ‹_›
      · rename_i ap off s1 e
        have h1 := Xl.ok_of_eq h e
        have h2 := State.homeRead_memWf s1 ap off m h1
        split
        · exact h1
        · split
          · exact h2
          · have h3 := ih _ (va + m) (n - m) h2
            split
            · exact EngAcc.ok_of_eq h3 ‹_›
            · exact h3

@[simp ↓] theorem State.failFill_memWf (s : State) (c j tid cause : Nat) (hs : s.memWf = true) :
    (State.failFill s c j tid cause).memWf = true := by
  unfold State.failFill
  simp +contextual (maxDischargeDepth := 60) only [↓Core.acc_wf, ↓Core.banks_wf, ↓Core.foldlFst_memWf, ↓Core.foldl_memWf, ↓Core.istore_wf, ↓Core.mk_memWf, ↓Core.rf_wf, ↓Core.store_wf, ↓State.cap_wf, ↓State.core_memWf, ↓State.cores_wf, ↓State.foldlFst_memWf, ↓State.foldl_memWf, ↓State.forwardHome_memWf, ↓State.hbm_wf, ↓State.inboxHead_memWf, ↓State.mk_memWf, ↓State.postOnce_memWf, ↓State.retryPlacements_memWf, ↓State.send_memWf, ↓State.setCore_memWf, hs, implies_true]

@[simp ↓] theorem execTreeletFillComplete_memWf (c slot : Nat) (s : State) (hs : s.memWf = true) :
    outMemWf (execTreeletFillComplete c slot s) = true := by
  unfold execTreeletFillComplete
  (try dsimp only)
  repeat' first | with_reducible assumption | with_reducible rfl | (intro _) | with_reducible apply Core.acc_wf | with_reducible apply Core.banks_wf | with_reducible apply Core.istore_wf | with_reducible apply Core.iteFst_memWf | with_reducible apply Core.ite_memWf | with_reducible apply Core.modSlot_memWf | with_reducible apply Core.rf_wf | with_reducible apply Core.store_wf | with_reducible apply Core.writeForeign_memWf | with_reducible apply Res.done_memWf | with_reducible apply Res.ite_memWf | with_reducible apply Res.moved_memWf | with_reducible apply Res.trap_memWf | with_reducible apply Res.wait_memWf | with_reducible apply State.cap_wf | with_reducible apply State.core_memWf | with_reducible apply State.cores_wf | with_reducible apply State.failFill_memWf | with_reducible apply State.hbm_wf | with_reducible apply State.inboxHead_memWf | with_reducible apply State.iteFst_memWf | with_reducible apply State.ite_memWf | with_reducible apply State.modCore_memWf | with_reducible apply State.readImage_memWf | with_reducible apply State.retryPlacements_memWf | with_reducible apply State.send_memWf | with_reducible apply misaligned_memWf | with_reducible apply outMemWf_fault | with_reducible apply outMemWf_ite | with_reducible apply outMemWf_next | with_reducible apply prot_memWf | (refine Xl.ok_of_eq ?_ (by with_reducible assumption)) | (refine Xl.fail_of_eq ?_ (by with_reducible assumption)) | (refine Xl.wait_of_eq ?_ (by with_reducible assumption)) | (refine EngAcc.ok_of_eq ?_ (by with_reducible assumption)) | (refine EngAcc.poison_of_eq ?_ (by with_reducible assumption)) | (refine EngAcc.fault_of_eq ?_ (by with_reducible assumption)) | (refine EngAcc.window_of_eq ?_ (by with_reducible assumption)) | (refine EngAcc.wait_of_eq ?_ (by with_reducible assumption)) | (refine Pages.ok_of_eq ?_ (by with_reducible assumption)) | (refine Pages.fail_of_eq ?_ (by with_reducible assumption)) | (refine Pages.wait_of_eq ?_ (by with_reducible assumption)) | (refine State.fst_of_eq ?_ (by with_reducible assumption)) | (refine Core.fst_of_eq ?_ (by with_reducible assumption)) | split | (with_reducible refine State.mk_memWf ?_ ?_ ?_) | (with_reducible refine Core.mk_memWf ?_ ?_ ?_ ?_ ?_)

@[simp ↓] theorem State.entryEvent_memWf (s : State) (d tid : Nat) (hs : s.memWf = true) :
    (State.entryEvent s d tid).memWf = true := by
  unfold State.entryEvent
  simp +contextual (maxDischargeDepth := 60) only [↓State.retryHeld_memWf, ↓State.retrySet_memWf, ↓State.settleWay_memWf, hs, implies_true]

@[simp ↓] theorem execFilled_memWf (d tid owner : Nat) (s : State) (hs : s.memWf = true) :
    outMemWf (execFilled d tid owner s) = true := by
  unfold execFilled
  simp +contextual (maxDischargeDepth := 60) only [↓Core.acc_wf, ↓Core.banks_wf, ↓Core.istore_wf, ↓Core.iteFst_memWf, ↓Core.ite_memWf, ↓Core.mk_memWf, ↓Core.rf_wf, ↓Core.store_wf, ↓Res.ite_memWf, ↓State.cap_wf, ↓State.checkReplica_memWf, ↓State.cores_wf, ↓State.entryEvent_memWf, ↓State.hbm_wf, ↓State.iteFst_memWf, ↓State.ite_memWf, ↓State.mk_memWf, ↓State.modEntry_memWf, ↓outMemWf_fault, ↓outMemWf_ite, ↓outMemWf_next, hs, implies_true]

@[simp ↓] theorem execFillFailed_memWf (d tid owner cause : Nat) (s : State) (hs : s.memWf = true) :
    outMemWf (execFillFailed d tid owner cause s) = true := by
  unfold execFillFailed
  (try dsimp only)
  repeat' first | with_reducible assumption | with_reducible rfl | (intro _) | with_reducible apply Core.acc_wf | with_reducible apply Core.banks_wf | with_reducible apply Core.istore_wf | with_reducible apply Core.rf_wf | with_reducible apply Core.store_wf | with_reducible apply Mem.wf_clear | with_reducible apply Mem.wf_filter | with_reducible apply Mem.wf_set | with_reducible apply Mem.wf_write | with_reducible apply State.cap_wf | with_reducible apply State.cores_wf | with_reducible apply State.entryEvent_memWf | with_reducible apply State.hbm_wf | with_reducible apply State.modEntry_memWf | with_reducible apply State.sceneFault_memWf | with_reducible apply outMemWf_fault | with_reducible apply outMemWf_ite | with_reducible apply outMemWf_next | (refine EngAcc.ok_of_eq ?_ (by with_reducible assumption)) | (refine EngAcc.poison_of_eq ?_ (by with_reducible assumption)) | (refine EngAcc.fault_of_eq ?_ (by with_reducible assumption)) | (refine EngAcc.window_of_eq ?_ (by with_reducible assumption)) | (refine EngAcc.wait_of_eq ?_ (by with_reducible assumption)) | (refine Pages.ok_of_eq ?_ (by with_reducible assumption)) | (refine Pages.fail_of_eq ?_ (by with_reducible assumption)) | (refine Pages.wait_of_eq ?_ (by with_reducible assumption)) | (refine State.fst_of_eq ?_ (by with_reducible assumption)) | (refine Core.fst_of_eq ?_ (by with_reducible assumption)) | split | (with_reducible refine State.mk_memWf ?_ ?_ ?_) | (with_reducible refine Core.mk_memWf ?_ ?_ ?_ ?_ ?_)

@[simp ↓] theorem execLeaving_memWf (d tid owner : Nat) (s : State) (hs : s.memWf = true) :
    outMemWf (execLeaving d tid owner s) = true := by
  unfold execLeaving
  simp +contextual (maxDischargeDepth := 60) only [↓State.entryEvent_memWf, ↓State.modEntry_memWf, ↓outMemWf_fault, ↓outMemWf_ite, ↓outMemWf_next, hs, implies_true]

@[simp ↓] theorem execDrained_memWf (d tid owner : Nat) (s : State) (hs : s.memWf = true) :
    outMemWf (execDrained d tid owner s) = true := by
  unfold execDrained
  simp +contextual (maxDischargeDepth := 60) only [↓State.entryEvent_memWf, ↓State.modEntry_memWf, ↓outMemWf_fault, ↓outMemWf_ite, ↓outMemWf_next, hs, implies_true]

@[simp ↓] theorem execHeatReport_memWf (d tid n : Nat) (s : State) (hs : s.memWf = true) :
    outMemWf (execHeatReport d tid n s) = true := by
  unfold execHeatReport
  simp +contextual (maxDischargeDepth := 60) only [↓Core.acc_wf, ↓Core.banks_wf, ↓Core.istore_wf, ↓Core.mk_memWf, ↓Core.rf_wf, ↓Core.store_wf, ↓State.cap_wf, ↓State.checkReplica_memWf, ↓State.cores_wf, ↓State.entryEvent_memWf, ↓State.hbm_wf, ↓State.mk_memWf, ↓State.modEntry_memWf, ↓outMemWf_fault, ↓outMemWf_ite, ↓outMemWf_next, hs, implies_true]

@[simp ↓] theorem execHeatDecay_memWf (d : Nat) (s : State) (hs : s.memWf = true) :
    outMemWf (execHeatDecay d s) = true := by
  unfold execHeatDecay
  simp +contextual (maxDischargeDepth := 60) only [↓Core.acc_wf, ↓Core.banks_wf, ↓Core.foldlFst_memWf, ↓Core.foldl_memWf, ↓Core.istore_wf, ↓Core.mk_memWf, ↓Core.rf_wf, ↓Core.store_wf, ↓State.cap_wf, ↓State.cores_wf, ↓State.foldlFst_memWf, ↓State.foldl_memWf, ↓State.hbm_wf, ↓State.mk_memWf, ↓State.modCore_memWf, ↓State.modDie_memWf, ↓State.retryPlacements_memWf, ↓outMemWf_fault, ↓outMemWf_ite, ↓outMemWf_next, hs, implies_true]

@[simp ↓] theorem execMapUpdate_memWf (c tid : Nat) (owners : List Nat) (s : State) (hs : s.memWf = true) :
    outMemWf (execMapUpdate c tid owners s) = true := by
  unfold execMapUpdate
  simp +contextual (maxDischargeDepth := 60) only [↓Core.acc_wf, ↓Core.banks_wf, ↓Core.istore_wf, ↓Core.mk_memWf, ↓Core.rf_wf, ↓Core.store_wf, ↓Mem.wf_clear, ↓Mem.wf_filter, ↓Mem.wf_set, ↓Mem.wf_write, ↓State.cap_wf, ↓State.cores_wf, ↓State.hbm_wf, ↓State.mk_memWf, ↓State.modCore_memWf, ↓outMemWf_fault, ↓outMemWf_ite, ↓outMemWf_next, hs, implies_true]

@[simp ↓] theorem execPoolRebalance_memWf (d d2 : Nat) (s : State) (hs : s.memWf = true) :
    outMemWf (execPoolRebalance d d2 s) = true := by
  unfold execPoolRebalance
  (try dsimp only)
  repeat' first | with_reducible assumption | with_reducible rfl | (intro _) | with_reducible apply Core.acc_wf | with_reducible apply Core.banks_wf | with_reducible apply Core.istore_wf | with_reducible apply Core.rf_wf | with_reducible apply Core.store_wf | with_reducible apply State.cap_wf | with_reducible apply State.cores_wf | with_reducible apply State.hbm_wf | with_reducible apply State.modDie_memWf | with_reducible apply outMemWf_fault | with_reducible apply outMemWf_ite | with_reducible apply outMemWf_next | (refine EngAcc.ok_of_eq ?_ (by with_reducible assumption)) | (refine EngAcc.poison_of_eq ?_ (by with_reducible assumption)) | (refine EngAcc.fault_of_eq ?_ (by with_reducible assumption)) | (refine EngAcc.window_of_eq ?_ (by with_reducible assumption)) | (refine EngAcc.wait_of_eq ?_ (by with_reducible assumption)) | (refine Pages.ok_of_eq ?_ (by with_reducible assumption)) | (refine Pages.fail_of_eq ?_ (by with_reducible assumption)) | (refine Pages.wait_of_eq ?_ (by with_reducible assumption)) | (refine State.fst_of_eq ?_ (by with_reducible assumption)) | (refine Core.fst_of_eq ?_ (by with_reducible assumption)) | split | (with_reducible refine State.mk_memWf ?_ ?_ ?_) | (with_reducible refine Core.mk_memWf ?_ ?_ ?_ ?_ ?_)

@[simp ↓] theorem State.hostDone_memWf (s : State) (result : Nat) (hs : s.memWf = true) :
    (State.hostDone s result).memWf = true := by
  unfold State.hostDone
  simp +contextual (maxDischargeDepth := 60) only [↓State.emit_memWf, ↓State.setField_memWf, hs, implies_true]

@[simp ↓] theorem State.retireScene_memWf (s : State) (scene : Nat) (hs : s.memWf = true) :
    (State.retireScene s scene).memWf = true := by
  unfold State.retireScene
  simp +contextual (maxDischargeDepth := 60) only [↓Core.acc_wf, ↓Core.banks_wf, ↓Core.foldlFst_memWf, ↓Core.foldl_memWf, ↓Core.istore_wf, ↓Core.iteFst_memWf, ↓Core.ite_memWf, ↓Core.mk_memWf, ↓Core.rf_wf, ↓Core.store_wf, ↓Mem.nil_wf, ↓Mem.wf_clear, ↓Mem.wf_filter, ↓Mem.wf_set, ↓Mem.wf_write, ↓Res.ite_memWf, ↓State.cap_wf, ↓State.cores_wf, ↓State.foldlFst_memWf, ↓State.foldl_memWf, ↓State.hbm_wf, ↓State.iteFst_memWf, ↓State.ite_memWf, ↓State.mapCores_wf, ↓State.mk_memWf, ↓State.nil_wf, ↓State.post_memWf, ↓State.returnHeld_memWf, ↓State.setField_memWf, hs, implies_true]

@[simp ↓] theorem execRetireScene_memWf (scene : Nat) (s : State) (hs : s.memWf = true) :
    outMemWf (execRetireScene scene s) = true := by
  unfold execRetireScene
  simp +contextual (maxDischargeDepth := 60) only [↓State.retireScene_memWf, ↓outMemWf_fault, ↓outMemWf_ite, ↓outMemWf_next, hs, implies_true]

@[simp ↓] theorem execSceneRetireComplete_memWf (scene : Nat) (s : State) (hs : s.memWf = true) :
    outMemWf (execSceneRetireComplete scene s) = true := by
  unfold execSceneRetireComplete
  simp +contextual (maxDischargeDepth := 60) only [↓Core.acc_wf, ↓Core.banks_wf, ↓Core.foldlFst_memWf, ↓Core.foldl_memWf, ↓Core.istore_wf, ↓Core.iteFst_memWf, ↓Core.ite_memWf, ↓Core.mk_memWf, ↓Core.rf_wf, ↓Core.store_wf, ↓Mem.wf_clear, ↓Mem.wf_filter, ↓Mem.wf_set, ↓Mem.wf_write, ↓Res.ite_memWf, ↓State.cap_wf, ↓State.core_memWf, ↓State.cores_wf, ↓State.foldlFst_memWf, ↓State.foldl_memWf, ↓State.hbm_wf, ↓State.hostDone_memWf, ↓State.iteFst_memWf, ↓State.ite_memWf, ↓State.mk_memWf, ↓State.post_memWf, ↓State.retryIndex_memWf, ↓State.startDrain_memWf, ↓outMemWf_fault, ↓outMemWf_ite, ↓outMemWf_next, hs, implies_true]

@[simp ↓] theorem State.freeHome_memWf (s : State) (c slot : Nat) (hs : s.memWf = true) :
    (State.freeHome s c slot).memWf = true := by
  unfold State.freeHome
  simp +contextual (maxDischargeDepth := 60) only [↓Core.acc_wf, ↓Core.banks_wf, ↓Core.istore_wf, ↓Core.mk_memWf, ↓Core.rf_wf, ↓Core.store_wf, ↓Core.wake_memWf, ↓State.cap_wf, ↓State.cores_wf, ↓State.hbm_wf, ↓State.mk_memWf, ↓State.modCore_memWf, hs, implies_true]

@[simp ↓] theorem State.launchRay_memWf (s : State) (c : Nat) (ray : List Word) (hs : s.memWf = true) :
    (State.launchRay s c ray).memWf = true := by
  unfold State.launchRay
  (try dsimp only)
  repeat' split
  all_goals first | with_reducible assumption | with_reducible rfl | (simp +contextual (maxDischargeDepth := 60) only [↓Core.acc_wf, ↓Core.banks_wf, ↓Core.istore_wf, ↓Core.mk_memWf, ↓Core.rf_wf, ↓Core.store_wf, ↓Mem.wf_clear, ↓Mem.wf_filter, ↓Mem.wf_set, ↓Mem.wf_write, ↓State.cap_wf, ↓State.core_memWf, ↓State.cores_wf, ↓State.hbm_wf, ↓State.homeWrite_memWf, ↓State.mk_memWf, ↓State.routeRay_memWf, ↓State.setCore_memWf, hs, implies_true]) | grind [State.core_memWf, State.routeRay_memWf, State.setCore_memWf, Xl.memWf, EngAcc.memWf]

@[simp ↓] theorem raysend_memWf (rays : List (List Word)) (x : Ctx) (s : State) (hs : s.memWf = true) :
    (raysend rays x s).memWf = true := by
  unfold raysend
  (try dsimp only)
  repeat' first | with_reducible assumption | with_reducible rfl | (intro _) | with_reducible apply Core.foldlFst_memWf | with_reducible apply Core.foldl_memWf | with_reducible apply Core.iteFst_memWf | with_reducible apply Core.ite_memWf | with_reducible apply Res.done_memWf | with_reducible apply Res.ite_memWf | with_reducible apply Res.moved_memWf | with_reducible apply Res.trap_memWf | with_reducible apply Res.wait_memWf | with_reducible apply State.core_memWf | with_reducible apply State.foldlFst_memWf | with_reducible apply State.foldl_memWf | with_reducible apply State.iteFst_memWf | with_reducible apply State.ite_memWf | with_reducible apply State.launchRay_memWf | with_reducible apply misaligned_memWf | with_reducible apply prot_memWf | (refine Xl.ok_of_eq ?_ (by with_reducible assumption)) | (refine Xl.fail_of_eq ?_ (by with_reducible assumption)) | (refine Xl.wait_of_eq ?_ (by with_reducible assumption)) | (refine EngAcc.ok_of_eq ?_ (by with_reducible assumption)) | (refine EngAcc.poison_of_eq ?_ (by with_reducible assumption)) | (refine EngAcc.fault_of_eq ?_ (by with_reducible assumption)) | (refine EngAcc.window_of_eq ?_ (by with_reducible assumption)) | (refine EngAcc.wait_of_eq ?_ (by with_reducible assumption)) | (refine Pages.ok_of_eq ?_ (by with_reducible assumption)) | (refine Pages.fail_of_eq ?_ (by with_reducible assumption)) | (refine Pages.wait_of_eq ?_ (by with_reducible assumption)) | (refine State.fst_of_eq ?_ (by with_reducible assumption)) | (refine Core.fst_of_eq ?_ (by with_reducible assumption)) | split | (with_reducible refine State.mk_memWf ?_ ?_ ?_) | (with_reducible refine Core.mk_memWf ?_ ?_ ?_ ?_ ?_)

@[simp ↓] theorem execRaysendLane_memWf (m : MReg) (a : VReg) (s : State) (hs : s.memWf = true) :
    outMemWf (execRaysendLane m a s) = true := by
  unfold execRaysendLane
  simp +contextual (maxDischargeDepth := 60) only [↓State.core_memWf, ↓raysend_memWf, ↓run_memWf, hs, implies_true]

@[simp ↓] theorem execRaysendUniform_memWf (a : SReg) (s : State) (hs : s.memWf = true) :
    outMemWf (execRaysendUniform a s) = true := by
  unfold execRaysendUniform
  simp +contextual (maxDischargeDepth := 60) only [↓raysend_memWf, ↓run_memWf, hs, implies_true]

@[simp ↓] theorem traversal_memWf (holds going : Bool) (b : Nat) (x : Ctx) (s : State) (f : HeldRay → List Word → Res)
    (hf : ∀ h r, (f h r).memWf = true) : (traversal holds going b x s f).memWf = true := by
  unfold traversal
  split
  · rfl
  · split
    · split
      · rfl
      · exact hf _ _
    · dsimp only
      split
      · rfl
      · exact hf _ _

@[simp ↓] theorem State.endVisit_memWf (s : State) (x : Ctx) (h : HeldRay) (tid : Nat) (hs : s.memWf = true) :
    (State.endVisit s x h tid).memWf = true := by
  unfold State.endVisit
  (try dsimp only)
  repeat' first | with_reducible assumption | with_reducible rfl | (intro _) | with_reducible apply Core.acc_wf | with_reducible apply Core.banks_wf | with_reducible apply Core.istore_wf | with_reducible apply Core.rf_wf | with_reducible apply Core.store_wf | with_reducible apply State.cap_wf | with_reducible apply State.core_memWf | with_reducible apply State.cores_wf | with_reducible apply State.hbm_wf | with_reducible apply State.modGroup_memWf | with_reducible apply State.releaseSlot_memWf | (refine EngAcc.ok_of_eq ?_ (by with_reducible assumption)) | (refine EngAcc.poison_of_eq ?_ (by with_reducible assumption)) | (refine EngAcc.fault_of_eq ?_ (by with_reducible assumption)) | (refine EngAcc.window_of_eq ?_ (by with_reducible assumption)) | (refine EngAcc.wait_of_eq ?_ (by with_reducible assumption)) | (refine Pages.ok_of_eq ?_ (by with_reducible assumption)) | (refine Pages.fail_of_eq ?_ (by with_reducible assumption)) | (refine Pages.wait_of_eq ?_ (by with_reducible assumption)) | (refine State.fst_of_eq ?_ (by with_reducible assumption)) | (refine Core.fst_of_eq ?_ (by with_reducible assumption)) | split | (with_reducible refine State.mk_memWf ?_ ?_ ?_) | (with_reducible refine Core.mk_memWf ?_ ?_ ?_ ?_ ?_)

@[simp ↓] theorem State.writeRay_memWf (s : State) (x : Ctx) (b : Nat) (ray : List Word) (hs : s.memWf = true) :
    (State.writeRay s x b ray).memWf = true := by
  unfold State.writeRay
  simp +contextual (maxDischargeDepth := 60) only [↓State.writeSs_memWf, hs, implies_true]

@[simp ↓] theorem State.sendOn_memWf (s : State) (x : Ctx) (h : HeldRay) (b : Nat) (ray : List Word) (exit : Bool) (from_ : Option Nat) (hs : s.memWf = true) :
    (State.sendOn s x h b ray exit from_).memWf = true := by
  unfold State.sendOn
  simp +contextual (maxDischargeDepth := 60) only [↓Core.iteFst_memWf, ↓Core.ite_memWf, ↓Mem.wf_clear, ↓Mem.wf_filter, ↓Mem.wf_set, ↓Mem.wf_write, ↓Res.ite_memWf, ↓State.core_memWf, ↓State.endVisit_memWf, ↓State.iteFst_memWf, ↓State.ite_memWf, ↓State.routeRay_memWf, ↓State.send_memWf, ↓State.writeRay_memWf, hs, implies_true]

@[simp ↓] theorem State.imagePoison_memWf (s : State) (x : Ctx) (h : HeldRay) (i : Nat) (hs : s.memWf = true) :
    (State.imagePoison s x h i).memWf = true := by
  unfold State.imagePoison
  simp +contextual (maxDischargeDepth := 60) only [↓Core.acc_wf, ↓Core.banks_wf, ↓Core.istore_wf, ↓Core.mk_memWf, ↓Core.rf_wf, ↓Core.store_wf, ↓Res.done_memWf, ↓Res.moved_memWf, ↓Res.trap_memWf, ↓Res.wait_memWf, ↓State.cap_wf, ↓State.core_memWf, ↓State.cores_wf, ↓State.hbm_wf, ↓State.mk_memWf, ↓State.pendTrap_memWf, ↓misaligned_memWf, ↓prot_memWf, hs, implies_true]

@[simp ↓] theorem State.spendFree_memWf (s : State) (n : Nat) (hs : s.memWf = true) :
    (State.spendFree s n).memWf = true := by
  unfold State.spendFree
  simp +contextual (maxDischargeDepth := 60) only [↓Core.acc_wf, ↓Core.banks_wf, ↓Core.istore_wf, ↓Core.mk_memWf, ↓Core.rf_wf, ↓Core.store_wf, ↓State.cap_wf, ↓State.cores_wf, ↓State.hbm_wf, ↓State.mk_memWf, hs, implies_true]

@[simp ↓] theorem execRayrecv_memWf (d : SReg) (s : State) (hs : s.memWf = true) :
    outMemWf (execRayrecv d s) = true := by
  unfold execRayrecv
  refine run_memWf _ _ _ (fun x s h => ?_) hs
  (try dsimp only)
  repeat' first | with_reducible assumption | with_reducible rfl | (intro _) | with_reducible apply State.getD_memWf | with_reducible apply Core.acc_wf | with_reducible apply Core.banks_wf | with_reducible apply Core.istore_wf | with_reducible apply Core.iteFst_memWf | with_reducible apply Core.ite_memWf | with_reducible apply Core.rf_wf | with_reducible apply Core.store_wf | with_reducible apply Res.done_memWf | with_reducible apply Res.ite_memWf | with_reducible apply Res.moved_memWf | with_reducible apply Res.trap_memWf | with_reducible apply Res.wait_memWf | with_reducible apply State.cap_wf | with_reducible apply State.core_memWf | with_reducible apply State.cores_wf | with_reducible apply State.hbm_wf | with_reducible apply State.inboxHead_memWf | with_reducible apply State.iteFst_memWf | with_reducible apply State.ite_memWf | with_reducible apply State.modGroup_memWf | with_reducible apply State.postOnce_memWf | with_reducible apply State.setCore_memWf | with_reducible apply State.writeSs_memWf | with_reducible apply misaligned_memWf | with_reducible apply prot_memWf | with_reducible apply traversal_memWf | (refine Xl.ok_of_eq ?_ (by with_reducible assumption)) | (refine Xl.fail_of_eq ?_ (by with_reducible assumption)) | (refine Xl.wait_of_eq ?_ (by with_reducible assumption)) | (refine EngAcc.ok_of_eq ?_ (by with_reducible assumption)) | (refine EngAcc.poison_of_eq ?_ (by with_reducible assumption)) | (refine EngAcc.fault_of_eq ?_ (by with_reducible assumption)) | (refine EngAcc.window_of_eq ?_ (by with_reducible assumption)) | (refine EngAcc.wait_of_eq ?_ (by with_reducible assumption)) | (refine Pages.ok_of_eq ?_ (by with_reducible assumption)) | (refine Pages.fail_of_eq ?_ (by with_reducible assumption)) | (refine Pages.wait_of_eq ?_ (by with_reducible assumption)) | (refine State.fst_of_eq ?_ (by with_reducible assumption)) | (refine Core.fst_of_eq ?_ (by with_reducible assumption)) | split | (with_reducible refine State.mk_memWf ?_ ?_ ?_) | (with_reducible refine Core.mk_memWf ?_ ?_ ?_ ?_ ?_)

@[simp ↓] theorem execRayfwd_memWf (n : BitVec 3) (a b : SReg) (s : State) (hs : s.memWf = true) :
    outMemWf (execRayfwd n a b s) = true := by
  unfold execRayfwd
  refine run_memWf _ _ _ (fun x s h => ?_) hs
  (try dsimp only)
  repeat' first | with_reducible assumption | with_reducible rfl | (intro _) | with_reducible apply Core.acc_wf | with_reducible apply Core.banks_wf | with_reducible apply Core.istore_wf | with_reducible apply Core.iteFst_memWf | with_reducible apply Core.ite_memWf | with_reducible apply Core.rf_wf | with_reducible apply Core.store_wf | with_reducible apply Res.done_memWf | with_reducible apply Res.ite_memWf | with_reducible apply Res.moved_memWf | with_reducible apply Res.trap_memWf | with_reducible apply Res.wait_memWf | with_reducible apply State.cap_wf | with_reducible apply State.core_memWf | with_reducible apply State.cores_wf | with_reducible apply State.hbm_wf | with_reducible apply State.iteFst_memWf | with_reducible apply State.ite_memWf | with_reducible apply State.sendOn_memWf | with_reducible apply State.send_memWf | with_reducible apply State.writeRay_memWf | with_reducible apply misaligned_memWf | with_reducible apply prot_memWf | with_reducible apply traversal_memWf | (refine EngAcc.ok_of_eq ?_ (by with_reducible assumption)) | (refine EngAcc.poison_of_eq ?_ (by with_reducible assumption)) | (refine EngAcc.fault_of_eq ?_ (by with_reducible assumption)) | (refine EngAcc.window_of_eq ?_ (by with_reducible assumption)) | (refine EngAcc.wait_of_eq ?_ (by with_reducible assumption)) | (refine Pages.ok_of_eq ?_ (by with_reducible assumption)) | (refine Pages.fail_of_eq ?_ (by with_reducible assumption)) | (refine Pages.wait_of_eq ?_ (by with_reducible assumption)) | (refine State.fst_of_eq ?_ (by with_reducible assumption)) | (refine Core.fst_of_eq ?_ (by with_reducible assumption)) | split | (with_reducible refine State.mk_memWf ?_ ?_ ?_) | (with_reducible refine Core.mk_memWf ?_ ?_ ?_ ?_ ?_)

@[simp ↓] theorem execHitsend_memWf (a b : SReg) (s : State) (hs : s.memWf = true) :
    outMemWf (execHitsend a b s) = true := by
  unfold execHitsend
  simp +contextual (maxDischargeDepth := 60) only [↓Core.iteFst_memWf, ↓Core.ite_memWf, ↓Mem.wf_clear, ↓Mem.wf_filter, ↓Mem.wf_set, ↓Mem.wf_write, ↓Res.done_memWf, ↓Res.ite_memWf, ↓Res.moved_memWf, ↓Res.trap_memWf, ↓Res.wait_memWf, ↓State.core_memWf, ↓State.endVisit_memWf, ↓State.iteFst_memWf, ↓State.ite_memWf, ↓State.send_memWf, ↓misaligned_memWf, ↓prot_memWf, ↓run_memWf, ↓traversal_memWf, hs, implies_true]

@[simp ↓] theorem execRayend_memWf (b : SReg) (s : State) (hs : s.memWf = true) :
    outMemWf (execRayend b s) = true := by
  unfold execRayend
  simp +contextual (maxDischargeDepth := 60) only [↓Res.done_memWf, ↓Res.moved_memWf, ↓Res.trap_memWf, ↓Res.wait_memWf, ↓State.core_memWf, ↓State.endVisit_memWf, ↓State.send_memWf, ↓misaligned_memWf, ↓prot_memWf, ↓run_memWf, ↓traversal_memWf, hs, implies_true]

@[simp ↓] theorem execBoxt_memWf (d a b : SReg) (s : State) (hs : s.memWf = true) :
    outMemWf (execBoxt d a b s) = true := by
  unfold execBoxt
  refine run_memWf _ _ _ (fun x s h => ?_) hs
  (try dsimp only)
  repeat' first | with_reducible assumption | with_reducible rfl | (intro _) | with_reducible apply Core.iteFst_memWf | with_reducible apply Core.ite_memWf | with_reducible apply Res.done_memWf | with_reducible apply Res.ite_memWf | with_reducible apply Res.moved_memWf | with_reducible apply Res.trap_memWf | with_reducible apply Res.wait_memWf | with_reducible apply State.core_memWf | with_reducible apply State.imagePoison_memWf | with_reducible apply State.iteFst_memWf | with_reducible apply State.ite_memWf | with_reducible apply State.raiseFlags_memWf | with_reducible apply State.spendFree_memWf | with_reducible apply State.writeSs_memWf | with_reducible apply misaligned_memWf | with_reducible apply prot_memWf | with_reducible apply traversal_memWf | (refine EngAcc.ok_of_eq ?_ (by with_reducible assumption)) | (refine EngAcc.poison_of_eq ?_ (by with_reducible assumption)) | (refine EngAcc.fault_of_eq ?_ (by with_reducible assumption)) | (refine EngAcc.window_of_eq ?_ (by with_reducible assumption)) | (refine EngAcc.wait_of_eq ?_ (by with_reducible assumption)) | (refine Pages.ok_of_eq ?_ (by with_reducible assumption)) | (refine Pages.fail_of_eq ?_ (by with_reducible assumption)) | (refine Pages.wait_of_eq ?_ (by with_reducible assumption)) | (refine State.fst_of_eq ?_ (by with_reducible assumption)) | (refine Core.fst_of_eq ?_ (by with_reducible assumption)) | split | (with_reducible refine State.mk_memWf ?_ ?_ ?_) | (with_reducible refine Core.mk_memWf ?_ ?_ ?_ ?_ ?_)

@[simp ↓] theorem execTrit_memWf (d a b : SReg) (s : State) (hs : s.memWf = true) :
    outMemWf (execTrit d a b s) = true := by
  unfold execTrit
  refine run_memWf _ _ _ (fun x s h => ?_) hs
  (try dsimp only)
  repeat' first | with_reducible assumption | with_reducible rfl | (intro _) | with_reducible apply Core.iteFst_memWf | with_reducible apply Core.ite_memWf | with_reducible apply Res.done_memWf | with_reducible apply Res.ite_memWf | with_reducible apply Res.moved_memWf | with_reducible apply Res.trap_memWf | with_reducible apply Res.wait_memWf | with_reducible apply State.core_memWf | with_reducible apply State.imagePoison_memWf | with_reducible apply State.iteFst_memWf | with_reducible apply State.ite_memWf | with_reducible apply State.raiseFlags_memWf | with_reducible apply State.spendFree_memWf | with_reducible apply State.writeRay_memWf | with_reducible apply State.writeS_memWf | with_reducible apply misaligned_memWf | with_reducible apply prot_memWf | with_reducible apply traversal_memWf | (refine EngAcc.ok_of_eq ?_ (by with_reducible assumption)) | (refine EngAcc.poison_of_eq ?_ (by with_reducible assumption)) | (refine EngAcc.fault_of_eq ?_ (by with_reducible assumption)) | (refine EngAcc.window_of_eq ?_ (by with_reducible assumption)) | (refine EngAcc.wait_of_eq ?_ (by with_reducible assumption)) | (refine Pages.ok_of_eq ?_ (by with_reducible assumption)) | (refine Pages.fail_of_eq ?_ (by with_reducible assumption)) | (refine Pages.wait_of_eq ?_ (by with_reducible assumption)) | (refine State.fst_of_eq ?_ (by with_reducible assumption)) | (refine Core.fst_of_eq ?_ (by with_reducible assumption)) | split | (with_reducible refine State.mk_memWf ?_ ?_ ?_) | (with_reducible refine Core.mk_memWf ?_ ?_ ?_ ?_ ?_)

@[simp ↓] theorem execRxf_memWf (d a b : SReg) (s : State) (hs : s.memWf = true) :
    outMemWf (execRxf d a b s) = true := by
  unfold execRxf
  refine run_memWf _ _ _ (fun x s h => ?_) hs
  refine traversal_memWf _ _ _ _ _ _ (fun hr ray => ?_)
  dsimp only
  split
  · exact prot_memWf _ _
  · split
    · exact State.imagePoison_memWf _ _ _ _ h
    · split
      · exact prot_memWf _ _
      · split
        · exact Res.done_memWf (State.writeS_memWf _ _ _ _ (State.writeRay_memWf _ _ _ _ h))
        · split
          · exact Res.done_memWf (State.writeS_memWf _ _ _ _ (State.writeRay_memWf _ _ _ _ h))
          · split
            · exact Res.done_memWf (State.raiseFlags_memWf _ _ _ _ (State.writeS_memWf _ _ _ _ (State.writeRay_memWf _ _ _ _ h)))
            · exact Res.done_memWf (State.sendOn_memWf _ _ _ _ _ _ _ (State.raiseFlags_memWf _ _ _ _
                (State.writeS_memWf _ _ _ _ (State.homeWrite_memWf _ _ _ _ _ h))))

@[simp ↓] theorem execHitArrival_memWf (c : Nat) (hit : Words) (s : State) (hs : s.memWf = true) :
    outMemWf (execHitArrival c hit s) = true := by
  unfold execHitArrival
  have h1 := State.homeRead_memWf s .hbm (s.saveRecord c (wf32 (hit.getD 0 0) 9 0) + 60) 4 hs
  extract_lets
  split
  rename_i s1 bs x e
  have h2 := State.fst_of_eq h1 e
  clear e h1
  extract_lets hit' k
  have hk : k.memWf = true := State.core_memWf h2 c
  split
  · exact State.postOnce_memWf _ _ (State.setCore_memWf h2 (Core.pushHit_memWf _ _ hk) c)
  · split
    rename_i s3 sp e
    have h3 := State.fst_of_eq (State.fitChunks_memWf _ _ _ _ _ h2) e
    refine State.postOnce_memWf _ _ (State.postOnce_memWf _ _ (State.modCore_memWf h3 (fun k hk => ?_) _))
    exact Core.mk_memWf (Core.rf_wf hk) (Core.banks_wf hk) (Core.store_wf hk) (Core.istore_wf hk) (Core.acc_wf hk)

@[simp ↓] theorem execEndNotice_memWf (c slot : Nat) (s : State) (hs : s.memWf = true) :
    outMemWf (execEndNotice c slot s) = true := by
  unfold execEndNotice
  simp +contextual (maxDischargeDepth := 60) only [↓State.freeHome_memWf, ↓outMemWf_fault, ↓outMemWf_ite, ↓outMemWf_next, hs, implies_true]

@[simp ↓] theorem execSendexitArrival_memWf (c : Nat) (ray : Words) (s : State) (hs : s.memWf = true) :
    outMemWf (execSendexitArrival c ray s) = true := by
  unfold execSendexitArrival
  (try dsimp only)
  repeat' first | with_reducible assumption | with_reducible rfl | (intro _) | with_reducible apply State.getD_memWf | with_reducible apply Core.acc_wf | with_reducible apply Core.banks_wf | with_reducible apply Core.istore_wf | with_reducible apply Core.iteFst_memWf | with_reducible apply Core.ite_memWf | with_reducible apply Core.rf_wf | with_reducible apply Core.store_wf | with_reducible apply Res.ite_memWf | with_reducible apply State.cap_wf | with_reducible apply State.cores_wf | with_reducible apply State.enqueueRay_memWf | with_reducible apply State.hbm_wf | with_reducible apply State.homeRead_memWf | with_reducible apply State.iteFst_memWf | with_reducible apply State.ite_memWf | with_reducible apply State.routeRay_memWf | with_reducible apply outMemWf_fault | with_reducible apply outMemWf_ite | with_reducible apply outMemWf_next | (refine EngAcc.ok_of_eq ?_ (by with_reducible assumption)) | (refine EngAcc.poison_of_eq ?_ (by with_reducible assumption)) | (refine EngAcc.fault_of_eq ?_ (by with_reducible assumption)) | (refine EngAcc.window_of_eq ?_ (by with_reducible assumption)) | (refine EngAcc.wait_of_eq ?_ (by with_reducible assumption)) | (refine Pages.ok_of_eq ?_ (by with_reducible assumption)) | (refine Pages.fail_of_eq ?_ (by with_reducible assumption)) | (refine Pages.wait_of_eq ?_ (by with_reducible assumption)) | (refine State.fst_of_eq ?_ (by with_reducible assumption)) | (refine Core.fst_of_eq ?_ (by with_reducible assumption)) | split | (with_reducible refine State.mk_memWf ?_ ?_ ?_) | (with_reducible refine Core.mk_memWf ?_ ?_ ?_ ?_ ?_)

end Sys2Proof.Machine
end

