-- ==== Sys2Proof/Laws/CanonPlace.lean ====
section
/-! SUPPORT. Placement, groups and stages keep the canonical form of storage. -/

set_option linter.unusedSimpArgs false

namespace Sys2Proof.Machine

@[simp ↓] theorem Core.takeStore_memWf (k : Core) (lo hi ctx : Nat) (hk : k.memWf = true) :
    (Core.takeStore k lo hi ctx).memWf = true := by
  unfold Core.takeStore
  simp +contextual (maxDischargeDepth := 60) only [↓Core.acc_wf, ↓Core.banks_wf, ↓Core.istore_wf, ↓Core.iteFst_memWf, ↓Core.ite_memWf, ↓Core.mk_memWf, ↓Core.rf_wf, ↓Core.store_wf, ↓Core.wake_memWf, ↓EngAcc.fault_memWf, ↓EngAcc.ite_memWf, ↓EngAcc.ok_memWf, ↓EngAcc.poison_memWf, ↓EngAcc.wait_memWf, ↓EngAcc.window_memWf, ↓Mem.wf_clear, ↓Mem.wf_filter, ↓Mem.wf_set, ↓Mem.wf_write, ↓Res.ite_memWf, ↓State.cap_wf, ↓State.cores_wf, ↓State.hbm_wf, ↓State.iteFst_memWf, ↓State.ite_memWf, ↓State.mk_memWf, ↓Xl.fail_memWf, ↓Xl.ite_memWf, ↓Xl.ok_memWf, ↓Xl.wait_memWf, hk, implies_true]

@[simp ↓] theorem Core.takeBanks_memWf (k : Core) (lo hi ctx : Nat) (hk : k.memWf = true) :
    (Core.takeBanks k lo hi ctx).memWf = true := by
  unfold Core.takeBanks
  simp +contextual (maxDischargeDepth := 60) only [↓Core.acc_wf, ↓Core.banks_wf, ↓Core.istore_wf, ↓Core.iteFst_memWf, ↓Core.ite_memWf, ↓Core.mk_memWf, ↓Core.rf_wf, ↓Core.store_wf, ↓EngAcc.fault_memWf, ↓EngAcc.ite_memWf, ↓EngAcc.ok_memWf, ↓EngAcc.poison_memWf, ↓EngAcc.wait_memWf, ↓EngAcc.window_memWf, ↓Mem.wf_clear, ↓Mem.wf_filter, ↓Mem.wf_set, ↓Mem.wf_write, ↓Res.ite_memWf, ↓State.cap_wf, ↓State.cores_wf, ↓State.hbm_wf, ↓State.iteFst_memWf, ↓State.ite_memWf, ↓State.mk_memWf, ↓Xl.fail_memWf, ↓Xl.ite_memWf, ↓Xl.ok_memWf, ↓Xl.wait_memWf, hk, implies_true]

@[simp ↓] theorem Core.takeSet_memWf (k : Core) (gid ctx : Nat) (hk : k.memWf = true) :
    (Core.takeSet k gid ctx).memWf = true := by
  unfold Core.takeSet
  simp +contextual (maxDischargeDepth := 60) only [↓Core.acc_wf, ↓Core.banks_wf, ↓Core.istore_wf, ↓Core.iteFst_memWf, ↓Core.ite_memWf, ↓Core.mk_memWf, ↓Core.rf_wf, ↓Core.store_wf, ↓EngAcc.fault_memWf, ↓EngAcc.ite_memWf, ↓EngAcc.ok_memWf, ↓EngAcc.poison_memWf, ↓EngAcc.wait_memWf, ↓EngAcc.window_memWf, ↓Mem.wf_clear, ↓Mem.wf_filter, ↓Mem.wf_set, ↓Mem.wf_write, ↓Res.ite_memWf, ↓State.cap_wf, ↓State.cores_wf, ↓State.hbm_wf, ↓State.iteFst_memWf, ↓State.ite_memWf, ↓State.mk_memWf, ↓Xl.fail_memWf, ↓Xl.ite_memWf, ↓Xl.ok_memWf, ↓Xl.wait_memWf, hk, implies_true]

@[simp ↓] theorem State.reclaimFor_memWf (s : State) (c : Nat) (decl : DWord) (hs : s.memWf = true) :
    (State.reclaimFor s c decl).1.memWf = true := by
  unfold State.reclaimFor
  simp +contextual (maxDischargeDepth := 60) only [↓Core.iteFst_memWf, ↓Core.ite_memWf, ↓Core.reclaimRange_memWf, ↓Core.relend_memWf, ↓EngAcc.fault_memWf, ↓EngAcc.ite_memWf, ↓EngAcc.ok_memWf, ↓EngAcc.poison_memWf, ↓EngAcc.wait_memWf, ↓EngAcc.window_memWf, ↓Res.ite_memWf, ↓State.core_memWf, ↓State.iteFst_memWf, ↓State.ite_memWf, ↓State.setCore_memWf, ↓Xl.fail_memWf, ↓Xl.ite_memWf, ↓Xl.ok_memWf, ↓Xl.wait_memWf, hs, implies_true]

@[simp ↓] theorem State.reclaimAll_memWf (s : State) (cores : List Nat) (decl : DWord) (hs : s.memWf = true) :
    (State.reclaimAll s cores decl).1.memWf = true := by
  unfold State.reclaimAll
  simp +contextual (maxDischargeDepth := 60) only [↓Core.foldlFst_memWf, ↓Core.foldl_memWf, ↓EngAcc.fault_memWf, ↓EngAcc.ite_memWf, ↓EngAcc.ok_memWf, ↓EngAcc.poison_memWf, ↓EngAcc.wait_memWf, ↓EngAcc.window_memWf, ↓Mem.nil_wf, ↓State.foldlFst_memWf, ↓State.foldl_memWf, ↓State.mapCores_wf, ↓State.nil_wf, ↓State.reclaimFor_memWf, ↓Xl.fail_memWf, ↓Xl.ite_memWf, ↓Xl.ok_memWf, ↓Xl.wait_memWf, hs, implies_true]

@[simp ↓] theorem State.settleReclaims_memWf (s : State) (d : Nat) (hs : s.memWf = true) :
    (State.settleReclaims s d).memWf = true := by
  unfold State.settleReclaims
  simp +contextual (maxDischargeDepth := 60) only [↓Core.foldlFst_memWf, ↓Core.foldl_memWf, ↓Core.iteFst_memWf, ↓Core.ite_memWf, ↓Core.relend_memWf, ↓EngAcc.fault_memWf, ↓EngAcc.ite_memWf, ↓EngAcc.ok_memWf, ↓EngAcc.poison_memWf, ↓EngAcc.wait_memWf, ↓EngAcc.window_memWf, ↓Mem.wf_clear, ↓Mem.wf_filter, ↓Mem.wf_set, ↓Mem.wf_write, ↓Res.ite_memWf, ↓State.core_memWf, ↓State.foldlFst_memWf, ↓State.foldl_memWf, ↓State.iteFst_memWf, ↓State.ite_memWf, ↓State.modCore_memWf, ↓Xl.fail_memWf, ↓Xl.ite_memWf, ↓Xl.ok_memWf, ↓Xl.wait_memWf, hs, implies_true]

@[simp ↓] theorem State.placeTeam_memWf (s : State) (c : Nat) (t : Team) (sets : Nat) (images : List (Nat × List Byte)) (fresh : Bool) (hs : s.memWf = true) :
    (State.placeTeam s c t sets images fresh).1.memWf = true := by
  unfold State.placeTeam
  simp +contextual (maxDischargeDepth := 60) only [↓Core.acc_wf, ↓Core.banks_wf, ↓Core.foldlFst_memWf, ↓Core.foldl_memWf, ↓Core.grantScan_memWf, ↓Core.istore_wf, ↓Core.iteFst_memWf, ↓Core.ite_memWf, ↓Core.mk_memWf, ↓Core.putStore64_memWf, ↓Core.reclaimRange_memWf, ↓Core.relend_memWf, ↓Core.rf_wf, ↓Core.store_wf, ↓Core.takeBanks_memWf, ↓Core.takeStore_memWf, ↓Core.writeStore_memWf, ↓EngAcc.fault_memWf, ↓EngAcc.ite_memWf, ↓EngAcc.ok_memWf, ↓EngAcc.poison_memWf, ↓EngAcc.wait_memWf, ↓EngAcc.window_memWf, ↓Res.ite_memWf, ↓State.cap_wf, ↓State.core_memWf, ↓State.cores_wf, ↓State.foldlFst_memWf, ↓State.foldl_memWf, ↓State.hbm_wf, ↓State.iteFst_memWf, ↓State.ite_memWf, ↓State.mk_memWf, ↓State.setCore_memWf, ↓Xl.fail_memWf, ↓Xl.ite_memWf, ↓Xl.ok_memWf, ↓Xl.wait_memWf, ↓traversal_memWf, hs, implies_true]

@[simp ↓] theorem State.enterStart_memWf (s : State) (c gid ctx : Nat) (lanes pc : Word) (hs : s.memWf = true) :
    (State.enterStart s c gid ctx lanes pc).memWf = true := by
  unfold State.enterStart
  simp +contextual (maxDischargeDepth := 60) only [↓Core.enterOv_memWf, ↓Core.iteFst_memWf, ↓Core.ite_memWf, ↓Core.recount_memWf, ↓EngAcc.fault_memWf, ↓EngAcc.ite_memWf, ↓EngAcc.ok_memWf, ↓EngAcc.poison_memWf, ↓EngAcc.wait_memWf, ↓EngAcc.window_memWf, ↓Res.ite_memWf, ↓State.core_memWf, ↓State.iteFst_memWf, ↓State.ite_memWf, ↓State.modCore_memWf, ↓State.parkOn_memWf, ↓State.requestOv_memWf, ↓Xl.fail_memWf, ↓Xl.ite_memWf, ↓Xl.ok_memWf, ↓Xl.wait_memWf, hs, implies_true]

@[simp ↓] theorem State.startGroup_memWf (s : State) (c n gid : Nat) (t : Team) (idx kind : Nat) (lanes entry s4 s5 : Word) (args : List (List Word)) (hs : s.memWf = true) :
    (State.startGroup s c n gid t idx kind lanes entry s4 s5 args).memWf = true := by
  unfold State.startGroup
  simp +contextual (maxDischargeDepth := 60) only [↓Core.acc_wf, ↓Core.banks_wf, ↓Core.foldlFst_memWf, ↓Core.foldl_memWf, ↓Core.istore_wf, ↓Core.iteFst_memWf, ↓Core.ite_memWf, ↓Core.l1Acquire_memWf, ↓Core.mk_memWf, ↓Core.rf_wf, ↓Core.setS_memWf, ↓Core.setV_memWf, ↓Core.store_wf, ↓Core.takeSet_memWf, ↓EngAcc.fault_memWf, ↓EngAcc.ite_memWf, ↓EngAcc.ok_memWf, ↓EngAcc.poison_memWf, ↓EngAcc.wait_memWf, ↓EngAcc.window_memWf, ↓Res.ite_memWf, ↓State.cap_wf, ↓State.core_memWf, ↓State.cores_wf, ↓State.enterStart_memWf, ↓State.foldlFst_memWf, ↓State.foldl_memWf, ↓State.hbm_wf, ↓State.iteFst_memWf, ↓State.ite_memWf, ↓State.mk_memWf, ↓State.setCore_memWf, ↓Xl.fail_memWf, ↓Xl.ite_memWf, ↓Xl.ok_memWf, ↓Xl.wait_memWf, hs, implies_true]

@[simp ↓] theorem State.setArb_memWf (s : State) (d q : Nat) (a : ArbQueue) (hs : s.memWf = true) :
    (State.setArb s d q a).memWf = true := by
  unfold State.setArb
  simp +contextual (maxDischargeDepth := 60) only [↓Core.acc_wf, ↓Core.banks_wf, ↓Core.istore_wf, ↓Core.mk_memWf, ↓Core.rf_wf, ↓Core.store_wf, ↓EngAcc.fault_memWf, ↓EngAcc.ite_memWf, ↓EngAcc.ok_memWf, ↓EngAcc.poison_memWf, ↓EngAcc.wait_memWf, ↓EngAcc.window_memWf, ↓State.cap_wf, ↓State.cores_wf, ↓State.hbm_wf, ↓State.mk_memWf, ↓State.modDie_memWf, ↓Xl.fail_memWf, ↓Xl.ite_memWf, ↓Xl.ok_memWf, ↓Xl.wait_memWf, hs, implies_true]

@[simp ↓] theorem State.trimDeficit_memWf (s : State) (d q : Nat) (hs : s.memWf = true) :
    (State.trimDeficit s d q).memWf = true := by
  unfold State.trimDeficit
  simp +contextual (maxDischargeDepth := 60) only [↓Core.acc_wf, ↓Core.banks_wf, ↓Core.istore_wf, ↓Core.iteFst_memWf, ↓Core.ite_memWf, ↓Core.mk_memWf, ↓Core.rf_wf, ↓Core.store_wf, ↓EngAcc.fault_memWf, ↓EngAcc.ite_memWf, ↓EngAcc.ok_memWf, ↓EngAcc.poison_memWf, ↓EngAcc.wait_memWf, ↓EngAcc.window_memWf, ↓Res.ite_memWf, ↓State.cap_wf, ↓State.cores_wf, ↓State.hbm_wf, ↓State.iteFst_memWf, ↓State.ite_memWf, ↓State.mk_memWf, ↓State.setArb_memWf, ↓Xl.fail_memWf, ↓Xl.ite_memWf, ↓Xl.ok_memWf, ↓Xl.wait_memWf, hs, implies_true]

@[simp ↓] theorem State.chargeGroups_memWf (s : State) (d q n : Nat) (hs : s.memWf = true) :
    (State.chargeGroups s d q n).memWf = true := by
  unfold State.chargeGroups
  simp +contextual (maxDischargeDepth := 60) only [↓Core.acc_wf, ↓Core.banks_wf, ↓Core.istore_wf, ↓Core.iteFst_memWf, ↓Core.ite_memWf, ↓Core.mk_memWf, ↓Core.rf_wf, ↓Core.store_wf, ↓EngAcc.fault_memWf, ↓EngAcc.ite_memWf, ↓EngAcc.ok_memWf, ↓EngAcc.poison_memWf, ↓EngAcc.wait_memWf, ↓EngAcc.window_memWf, ↓Res.ite_memWf, ↓State.cap_wf, ↓State.cores_wf, ↓State.hbm_wf, ↓State.iteFst_memWf, ↓State.ite_memWf, ↓State.mk_memWf, ↓State.modDie_memWf, ↓State.setArb_memWf, ↓Xl.fail_memWf, ↓Xl.ite_memWf, ↓Xl.ok_memWf, ↓Xl.wait_memWf, hs, implies_true]

@[simp ↓] theorem State.settleGroup_memWf (s : State) (d q cycles : Nat) (hs : s.memWf = true) :
    (State.settleGroup s d q cycles).memWf = true := by
  unfold State.settleGroup
  simp +contextual (maxDischargeDepth := 60) only [↓Core.acc_wf, ↓Core.banks_wf, ↓Core.istore_wf, ↓Core.mk_memWf, ↓Core.rf_wf, ↓Core.store_wf, ↓EngAcc.fault_memWf, ↓EngAcc.ite_memWf, ↓EngAcc.ok_memWf, ↓EngAcc.poison_memWf, ↓EngAcc.wait_memWf, ↓EngAcc.window_memWf, ↓State.cap_wf, ↓State.cores_wf, ↓State.hbm_wf, ↓State.mk_memWf, ↓State.setArb_memWf, ↓State.trimDeficit_memWf, ↓Xl.fail_memWf, ↓Xl.ite_memWf, ↓Xl.ok_memWf, ↓Xl.wait_memWf, hs, implies_true]

@[simp ↓] theorem State.modLaunch_memWf (s : State) (l : Nat) (f : Launch → Launch) (hs : s.memWf = true) :
    (State.modLaunch s l f).memWf = true := by
  unfold State.modLaunch
  simp +contextual (maxDischargeDepth := 60) only [↓Core.acc_wf, ↓Core.banks_wf, ↓Core.istore_wf, ↓Core.iteFst_memWf, ↓Core.ite_memWf, ↓Core.mk_memWf, ↓Core.rf_wf, ↓Core.store_wf, ↓EngAcc.fault_memWf, ↓EngAcc.ite_memWf, ↓EngAcc.ok_memWf, ↓EngAcc.poison_memWf, ↓EngAcc.wait_memWf, ↓EngAcc.window_memWf, ↓Res.ite_memWf, ↓State.cap_wf, ↓State.cores_wf, ↓State.hbm_wf, ↓State.iteFst_memWf, ↓State.ite_memWf, ↓State.mk_memWf, ↓Xl.fail_memWf, ↓Xl.ite_memWf, ↓Xl.ok_memWf, ↓Xl.wait_memWf, hs, implies_true]

@[simp ↓] theorem State.disarm_memWf (s : State) (d : Nat) (l : Launch) (hs : s.memWf = true) :
    (State.disarm s d l).memWf = true := by
  unfold State.disarm
  simp +contextual (maxDischargeDepth := 60) only [↓Core.acc_wf, ↓Core.banks_wf, ↓Core.istore_wf, ↓Core.iteFst_memWf, ↓Core.ite_memWf, ↓Core.mk_memWf, ↓Core.rf_wf, ↓Core.store_wf, ↓EngAcc.fault_memWf, ↓EngAcc.ite_memWf, ↓EngAcc.ok_memWf, ↓EngAcc.poison_memWf, ↓EngAcc.wait_memWf, ↓EngAcc.window_memWf, ↓Mem.wf_clear, ↓Mem.wf_filter, ↓Mem.wf_set, ↓Mem.wf_write, ↓Res.ite_memWf, ↓State.cap_wf, ↓State.cores_wf, ↓State.hbm_wf, ↓State.iteFst_memWf, ↓State.ite_memWf, ↓State.mk_memWf, ↓State.setArb_memWf, ↓Xl.fail_memWf, ↓Xl.ite_memWf, ↓Xl.ok_memWf, ↓Xl.wait_memWf, hs, implies_true]

@[simp ↓] theorem State.readImages_memWf (s : State) (d : Nat) (l : Launch) (who : Instr) (hs : s.memWf = true) :
    (State.readImages s d l who).memWf = true := by
  unfold State.readImages
  (try dsimp only)
  repeat' first | with_reducible assumption | with_reducible rfl | (intro _) | with_reducible apply Core.acc_wf | with_reducible apply Core.banks_wf | with_reducible apply Core.istore_wf | with_reducible apply Core.iteFst_memWf | with_reducible apply Core.ite_memWf | with_reducible apply Core.rf_wf | with_reducible apply Core.store_wf | with_reducible apply EngAcc.fault_memWf | with_reducible apply EngAcc.ite_memWf | with_reducible apply EngAcc.ok_memWf | with_reducible apply EngAcc.poison_memWf | with_reducible apply EngAcc.wait_memWf | with_reducible apply EngAcc.window_memWf | with_reducible apply Res.ite_memWf | with_reducible apply State.cap_wf | with_reducible apply State.cores_wf | with_reducible apply State.engReadAll_memWf | with_reducible apply State.hbm_wf | with_reducible apply State.iteFst_memWf | with_reducible apply State.ite_memWf | with_reducible apply Xl.fail_memWf | with_reducible apply Xl.ite_memWf | with_reducible apply Xl.ok_memWf | with_reducible apply Xl.wait_memWf | (refine Xl.ok_of_eq ?_ (by with_reducible assumption)) | (refine Xl.fail_of_eq ?_ (by with_reducible assumption)) | (refine Xl.wait_of_eq ?_ (by with_reducible assumption)) | (refine EngAcc.ok_of_eq ?_ (by with_reducible assumption)) | (refine EngAcc.poison_of_eq ?_ (by with_reducible assumption)) | (refine EngAcc.fault_of_eq ?_ (by with_reducible assumption)) | (refine EngAcc.window_of_eq ?_ (by with_reducible assumption)) | (refine EngAcc.wait_of_eq ?_ (by with_reducible assumption)) | (refine Pages.ok_of_eq ?_ (by with_reducible assumption)) | (refine Pages.fail_of_eq ?_ (by with_reducible assumption)) | (refine Pages.wait_of_eq ?_ (by with_reducible assumption)) | (refine State.fst_of_eq ?_ (by with_reducible assumption)) | (refine Core.fst_of_eq ?_ (by with_reducible assumption)) | split | (with_reducible refine State.mk_memWf ?_ ?_ ?_) | (with_reducible refine Core.mk_memWf ?_ ?_ ?_ ?_ ?_)

@[simp ↓] theorem State.joinStage_memWf (s : State) (c st : Nat) (hs : s.memWf = true) :
    (State.joinStage s c st).memWf = true := by
  unfold State.joinStage
  (try dsimp only)
  repeat' first | with_reducible assumption | with_reducible rfl | (intro _) | with_reducible apply Core.acc_wf | with_reducible apply Core.banks_wf | with_reducible apply Core.istore_wf | with_reducible apply Core.iteFst_memWf | with_reducible apply Core.ite_memWf | with_reducible apply Core.relend_memWf | with_reducible apply Core.rf_wf | with_reducible apply Core.store_wf | with_reducible apply EngAcc.fault_memWf | with_reducible apply EngAcc.ite_memWf | with_reducible apply EngAcc.ok_memWf | with_reducible apply EngAcc.poison_memWf | with_reducible apply EngAcc.wait_memWf | with_reducible apply EngAcc.window_memWf | with_reducible apply Res.done_memWf | with_reducible apply Res.ite_memWf | with_reducible apply Res.moved_memWf | with_reducible apply Res.trap_memWf | with_reducible apply Res.wait_memWf | with_reducible apply State.cap_wf | with_reducible apply State.core_memWf | with_reducible apply State.cores_wf | with_reducible apply State.hbm_wf | with_reducible apply State.iteFst_memWf | with_reducible apply State.ite_memWf | with_reducible apply State.modCore_memWf | with_reducible apply State.modDie_memWf | with_reducible apply State.placeTeam_memWf | with_reducible apply State.postOnce_memWf | with_reducible apply State.readImages_memWf | with_reducible apply State.reclaimFor_memWf | with_reducible apply Xl.fail_memWf | with_reducible apply Xl.ite_memWf | with_reducible apply Xl.ok_memWf | with_reducible apply Xl.wait_memWf | with_reducible apply misaligned_memWf | with_reducible apply prot_memWf | (refine Xl.ok_of_eq ?_ (by with_reducible assumption)) | (refine Xl.fail_of_eq ?_ (by with_reducible assumption)) | (refine Xl.wait_of_eq ?_ (by with_reducible assumption)) | (refine EngAcc.ok_of_eq ?_ (by with_reducible assumption)) | (refine EngAcc.poison_of_eq ?_ (by with_reducible assumption)) | (refine EngAcc.fault_of_eq ?_ (by with_reducible assumption)) | (refine EngAcc.window_of_eq ?_ (by with_reducible assumption)) | (refine EngAcc.wait_of_eq ?_ (by with_reducible assumption)) | (refine Pages.ok_of_eq ?_ (by with_reducible assumption)) | (refine Pages.fail_of_eq ?_ (by with_reducible assumption)) | (refine Pages.wait_of_eq ?_ (by with_reducible assumption)) | (refine State.fst_of_eq ?_ (by with_reducible assumption)) | (refine Core.fst_of_eq ?_ (by with_reducible assumption)) | split | (with_reducible refine State.mk_memWf ?_ ?_ ?_) | (with_reducible refine Core.mk_memWf ?_ ?_ ?_ ?_ ?_)

@[simp ↓] theorem State.formSlot_memWf (s : State) (c id : Nat) (hs : s.memWf = true) :
    (State.formSlot s c id).memWf = true := by
  unfold State.formSlot
  (try dsimp only)
  repeat' first | with_reducible assumption | with_reducible rfl | (intro _) | with_reducible apply Core.acc_wf | with_reducible apply Core.banks_wf | with_reducible apply Core.istore_wf | with_reducible apply Core.iteFst_memWf | with_reducible apply Core.ite_memWf | with_reducible apply Core.rf_wf | with_reducible apply Core.store_wf | with_reducible apply EngAcc.fault_memWf | with_reducible apply EngAcc.ite_memWf | with_reducible apply EngAcc.ok_memWf | with_reducible apply EngAcc.poison_memWf | with_reducible apply EngAcc.wait_memWf | with_reducible apply EngAcc.window_memWf | with_reducible apply Res.ite_memWf | with_reducible apply State.cap_wf | with_reducible apply State.core_memWf | with_reducible apply State.cores_wf | with_reducible apply State.hbm_wf | with_reducible apply State.iteFst_memWf | with_reducible apply State.ite_memWf | with_reducible apply State.modCore_memWf | with_reducible apply State.postOnce_memWf | with_reducible apply State.requestOv_memWf | with_reducible apply Xl.fail_memWf | with_reducible apply Xl.ite_memWf | with_reducible apply Xl.ok_memWf | with_reducible apply Xl.wait_memWf | (refine EngAcc.ok_of_eq ?_ (by with_reducible assumption)) | (refine EngAcc.poison_of_eq ?_ (by with_reducible assumption)) | (refine EngAcc.fault_of_eq ?_ (by with_reducible assumption)) | (refine EngAcc.window_of_eq ?_ (by with_reducible assumption)) | (refine EngAcc.wait_of_eq ?_ (by with_reducible assumption)) | (refine Pages.ok_of_eq ?_ (by with_reducible assumption)) | (refine Pages.fail_of_eq ?_ (by with_reducible assumption)) | (refine Pages.wait_of_eq ?_ (by with_reducible assumption)) | (refine State.fst_of_eq ?_ (by with_reducible assumption)) | (refine Core.fst_of_eq ?_ (by with_reducible assumption)) | split | (with_reducible refine State.mk_memWf ?_ ?_ ?_) | (with_reducible refine Core.mk_memWf ?_ ?_ ?_ ?_ ?_)

@[simp ↓] theorem State.leaveStage_memWf (s : State) (c : Nat) (next : Option Nat) (hs : s.memWf = true) :
    (State.leaveStage s c next).memWf = true := by
  unfold State.leaveStage
  simp +contextual (maxDischargeDepth := 60) only [↓Core.acc_wf, ↓Core.banks_wf, ↓Core.foldlFst_memWf, ↓Core.foldl_memWf, ↓Core.istore_wf, ↓Core.iteFst_memWf, ↓Core.ite_memWf, ↓Core.mk_memWf, ↓Core.rf_wf, ↓Core.store_wf, ↓EngAcc.fault_memWf, ↓EngAcc.ite_memWf, ↓EngAcc.ok_memWf, ↓EngAcc.poison_memWf, ↓EngAcc.wait_memWf, ↓EngAcc.window_memWf, ↓Res.ite_memWf, ↓State.cap_wf, ↓State.core_memWf, ↓State.cores_wf, ↓State.foldlFst_memWf, ↓State.foldl_memWf, ↓State.formSlot_memWf, ↓State.hbm_wf, ↓State.iteFst_memWf, ↓State.ite_memWf, ↓State.mk_memWf, ↓State.modCore_memWf, ↓State.postOnce_memWf, ↓Xl.fail_memWf, ↓Xl.ite_memWf, ↓Xl.ok_memWf, ↓Xl.wait_memWf, ↓outMemWf_fault, ↓outMemWf_ite, ↓outMemWf_next, hs, implies_true]

@[simp ↓] theorem State.addOne_memWf (s : State) (ap : Ap) (off : Nat) (hs : s.memWf = true) :
    (State.addOne s ap off).memWf = true := by
  unfold State.addOne
  simp +contextual (maxDischargeDepth := 60) only [↓Core.iteFst_memWf, ↓Core.ite_memWf, ↓EngAcc.fault_memWf, ↓EngAcc.ite_memWf, ↓EngAcc.ok_memWf, ↓EngAcc.poison_memWf, ↓EngAcc.wait_memWf, ↓EngAcc.window_memWf, ↓Res.ite_memWf, ↓State.iteFst_memWf, ↓State.ite_memWf, ↓State.targetRead_memWf, ↓State.targetWrite_memWf, ↓Xl.fail_memWf, ↓Xl.ite_memWf, ↓Xl.ok_memWf, ↓Xl.wait_memWf, hs, implies_true]

@[simp ↓] theorem State.completeLaunch_memWf (s : State) (l : Launch) (who : Instr) (hs : s.memWf = true) :
    (State.completeLaunch s l who).memWf = true := by
  unfold State.completeLaunch
  (try dsimp only)
  repeat' first | with_reducible assumption | with_reducible rfl | (intro _) | with_reducible apply Core.acc_wf | with_reducible apply Core.banks_wf | with_reducible apply Core.istore_wf | with_reducible apply Core.iteFst_memWf | with_reducible apply Core.ite_memWf | with_reducible apply Core.rf_wf | with_reducible apply Core.store_wf | with_reducible apply EngAcc.fault_memWf | with_reducible apply EngAcc.ite_memWf | with_reducible apply EngAcc.ok_memWf | with_reducible apply EngAcc.poison_memWf | with_reducible apply EngAcc.wait_memWf | with_reducible apply EngAcc.window_memWf | with_reducible apply Mem.wf_clear | with_reducible apply Mem.wf_filter | with_reducible apply Mem.wf_set | with_reducible apply Mem.wf_write | with_reducible apply Res.done_memWf | with_reducible apply Res.ite_memWf | with_reducible apply Res.moved_memWf | with_reducible apply Res.trap_memWf | with_reducible apply Res.wait_memWf | with_reducible apply State.addOne_memWf | with_reducible apply State.cap_wf | with_reducible apply State.cores_wf | with_reducible apply State.hbm_wf | with_reducible apply State.iteFst_memWf | with_reducible apply State.ite_memWf | with_reducible apply State.post_memWf | with_reducible apply State.setField_memWf | with_reducible apply State.xlate_memWf | with_reducible apply Xl.fail_memWf | with_reducible apply Xl.ite_memWf | with_reducible apply Xl.ok_memWf | with_reducible apply Xl.wait_memWf | with_reducible apply misaligned_memWf | with_reducible apply prot_memWf | (refine Xl.ok_of_eq ?_ (by with_reducible assumption)) | (refine Xl.fail_of_eq ?_ (by with_reducible assumption)) | (refine Xl.wait_of_eq ?_ (by with_reducible assumption)) | (refine EngAcc.ok_of_eq ?_ (by with_reducible assumption)) | (refine EngAcc.poison_of_eq ?_ (by with_reducible assumption)) | (refine EngAcc.fault_of_eq ?_ (by with_reducible assumption)) | (refine EngAcc.window_of_eq ?_ (by with_reducible assumption)) | (refine EngAcc.wait_of_eq ?_ (by with_reducible assumption)) | (refine Pages.ok_of_eq ?_ (by with_reducible assumption)) | (refine Pages.fail_of_eq ?_ (by with_reducible assumption)) | (refine Pages.wait_of_eq ?_ (by with_reducible assumption)) | (refine State.fst_of_eq ?_ (by with_reducible assumption)) | (refine Core.fst_of_eq ?_ (by with_reducible assumption)) | split | (with_reducible refine State.mk_memWf ?_ ?_ ?_) | (with_reducible refine Core.mk_memWf ?_ ?_ ?_ ?_ ?_)

@[simp ↓] theorem State.completeLaunches_memWf (s : State) (who : Instr) (hs : s.memWf = true) :
    (State.completeLaunches s who).memWf = true := by
  unfold State.completeLaunches
  simp +contextual (maxDischargeDepth := 60) only [↓Core.foldlFst_memWf, ↓Core.foldl_memWf, ↓EngAcc.fault_memWf, ↓EngAcc.ite_memWf, ↓EngAcc.ok_memWf, ↓EngAcc.poison_memWf, ↓EngAcc.wait_memWf, ↓EngAcc.window_memWf, ↓Mem.wf_clear, ↓Mem.wf_filter, ↓Mem.wf_set, ↓Mem.wf_write, ↓State.completeLaunch_memWf, ↓State.foldlFst_memWf, ↓State.foldl_memWf, ↓Xl.fail_memWf, ↓Xl.ite_memWf, ↓Xl.ok_memWf, ↓Xl.wait_memWf, hs, implies_true]

@[simp ↓] theorem State.retireBlock_memWf (s : State) (d : Nat) (p : PlacedBlock) (hs : s.memWf = true) :
    (State.retireBlock s d p).memWf = true := by
  unfold State.retireBlock
  (try dsimp only)
  repeat' first | with_reducible assumption | with_reducible rfl | (intro _) | with_reducible apply Core.acc_wf | with_reducible apply Core.banks_wf | with_reducible apply Core.istore_wf | with_reducible apply Core.rf_wf | with_reducible apply Core.store_wf | with_reducible apply EngAcc.fault_memWf | with_reducible apply EngAcc.ite_memWf | with_reducible apply EngAcc.ok_memWf | with_reducible apply EngAcc.poison_memWf | with_reducible apply EngAcc.wait_memWf | with_reducible apply EngAcc.window_memWf | with_reducible apply Mem.wf_clear | with_reducible apply Mem.wf_filter | with_reducible apply Mem.wf_set | with_reducible apply Mem.wf_write | with_reducible apply State.cap_wf | with_reducible apply State.cores_wf | with_reducible apply State.disarm_memWf | with_reducible apply State.hbm_wf | with_reducible apply State.modDie_memWf | with_reducible apply State.modLaunch_memWf | with_reducible apply State.postOnce_memWf | with_reducible apply State.trimDeficit_memWf | with_reducible apply Xl.fail_memWf | with_reducible apply Xl.ite_memWf | with_reducible apply Xl.ok_memWf | with_reducible apply Xl.wait_memWf | (refine EngAcc.ok_of_eq ?_ (by with_reducible assumption)) | (refine EngAcc.poison_of_eq ?_ (by with_reducible assumption)) | (refine EngAcc.fault_of_eq ?_ (by with_reducible assumption)) | (refine EngAcc.window_of_eq ?_ (by with_reducible assumption)) | (refine EngAcc.wait_of_eq ?_ (by with_reducible assumption)) | (refine Pages.ok_of_eq ?_ (by with_reducible assumption)) | (refine Pages.fail_of_eq ?_ (by with_reducible assumption)) | (refine Pages.wait_of_eq ?_ (by with_reducible assumption)) | (refine State.fst_of_eq ?_ (by with_reducible assumption)) | (refine Core.fst_of_eq ?_ (by with_reducible assumption)) | split | (with_reducible refine State.mk_memWf ?_ ?_ ?_) | (with_reducible refine Core.mk_memWf ?_ ?_ ?_ ?_ ?_)

@[simp ↓] theorem State.dropTeam_memWf (s : State) (c n : Nat) (t : Team) (hs : s.memWf = true) :
    (State.dropTeam s c n t).memWf = true := by
  unfold State.dropTeam
  simp +contextual (maxDischargeDepth := 60) only [↓Core.acc_wf, ↓Core.banks_wf, ↓Core.grantScan_memWf, ↓Core.istore_wf, ↓Core.iteFst_memWf, ↓Core.ite_memWf, ↓Core.mk_memWf, ↓Core.relend_memWf, ↓Core.rf_wf, ↓Core.store_wf, ↓EngAcc.fault_memWf, ↓EngAcc.ite_memWf, ↓EngAcc.ok_memWf, ↓EngAcc.poison_memWf, ↓EngAcc.wait_memWf, ↓EngAcc.window_memWf, ↓Mem.wf_clear, ↓Mem.wf_filter, ↓Mem.wf_set, ↓Mem.wf_write, ↓Res.ite_memWf, ↓State.cap_wf, ↓State.core_memWf, ↓State.cores_wf, ↓State.hbm_wf, ↓State.iteFst_memWf, ↓State.ite_memWf, ↓State.mk_memWf, ↓State.modCore_memWf, ↓State.postOnce_memWf, ↓State.retryLoads_memWf, ↓Xl.fail_memWf, ↓Xl.ite_memWf, ↓Xl.ok_memWf, ↓Xl.wait_memWf, hs, implies_true]

@[simp ↓] theorem State.retireTeam_memWf (s : State) (c n : Nat) (t : Team) (hs : s.memWf = true) :
    (State.retireTeam s c n t).memWf = true := by
  unfold State.retireTeam
  (try dsimp only)
  repeat' split
  all_goals first | with_reducible assumption | with_reducible rfl | (simp +contextual (maxDischargeDepth := 60) only [↓Core.acc_wf, ↓Core.banks_wf, ↓Core.istore_wf, ↓Core.iteFst_memWf, ↓Core.ite_memWf, ↓Core.mk_memWf, ↓Core.rf_wf, ↓Core.store_wf, ↓EngAcc.fault_memWf, ↓EngAcc.ite_memWf, ↓EngAcc.ok_memWf, ↓EngAcc.poison_memWf, ↓EngAcc.wait_memWf, ↓EngAcc.window_memWf, ↓Mem.wf_clear, ↓Mem.wf_filter, ↓Mem.wf_set, ↓Mem.wf_write, ↓Res.ite_memWf, ↓State.cap_wf, ↓State.core_memWf, ↓State.cores_wf, ↓State.dropTeam_memWf, ↓State.hbm_wf, ↓State.iteFst_memWf, ↓State.ite_memWf, ↓State.joinStage_memWf, ↓State.mk_memWf, ↓State.modCore_memWf, ↓State.modDie_memWf, ↓State.postOnce_memWf, ↓State.retireBlock_memWf, ↓Xl.fail_memWf, ↓Xl.ite_memWf, ↓Xl.ok_memWf, ↓Xl.wait_memWf, ↓outMemWf_fault, ↓outMemWf_ite, ↓outMemWf_next, ↓traversal_memWf, hs, implies_true]) | grind [Core.iteFst_memWf, EngAcc.fault_memWf, EngAcc.ok_memWf, EngAcc.poison_memWf, EngAcc.wait_memWf, EngAcc.window_memWf, State.core_memWf, State.dropTeam_memWf, State.iteFst_memWf, State.joinStage_memWf, State.modDie_memWf, State.postOnce_memWf, State.retireBlock_memWf, Xl.fail_memWf, Xl.ok_memWf, Xl.wait_memWf, traversal_memWf, Xl.memWf, EngAcc.memWf]

@[simp ↓] theorem State.retireTeams_memWf (s : State) (c : Nat) (hs : s.memWf = true) :
    (State.retireTeams s c).memWf = true := by
  unfold State.retireTeams
  simp +contextual (maxDischargeDepth := 60) only [↓Core.foldlFst_memWf, ↓Core.foldl_memWf, ↓Core.iteFst_memWf, ↓Core.ite_memWf, ↓EngAcc.fault_memWf, ↓EngAcc.ite_memWf, ↓EngAcc.ok_memWf, ↓EngAcc.poison_memWf, ↓EngAcc.wait_memWf, ↓EngAcc.window_memWf, ↓Res.ite_memWf, ↓State.core_memWf, ↓State.foldlFst_memWf, ↓State.foldl_memWf, ↓State.iteFst_memWf, ↓State.ite_memWf, ↓State.retireTeam_memWf, ↓Xl.fail_memWf, ↓Xl.ite_memWf, ↓Xl.ok_memWf, ↓Xl.wait_memWf, hs, implies_true]

@[simp ↓] theorem State.withdrawBarriers_memWf (s : State) (c : Nat) (g : Group) (hs : s.memWf = true) :
    (State.withdrawBarriers s c g).memWf = true := by
  unfold State.withdrawBarriers
  simp +contextual (maxDischargeDepth := 60) only [↓Core.foldlFst_memWf, ↓Core.foldl_memWf, ↓Core.iteFst_memWf, ↓Core.ite_memWf, ↓Core.putStore64_memWf, ↓EngAcc.fault_memWf, ↓EngAcc.ite_memWf, ↓EngAcc.ok_memWf, ↓EngAcc.poison_memWf, ↓EngAcc.wait_memWf, ↓EngAcc.window_memWf, ↓Res.ite_memWf, ↓State.core_memWf, ↓State.foldlFst_memWf, ↓State.foldl_memWf, ↓State.iteFst_memWf, ↓State.ite_memWf, ↓State.modCore_memWf, ↓Xl.fail_memWf, ↓Xl.ite_memWf, ↓Xl.ok_memWf, ↓Xl.wait_memWf, hs, implies_true]

@[simp ↓] theorem State.freeHoldings_memWf (s : State) (c gid : Nat) (g : Group) (hs : s.memWf = true) :
    (State.freeHoldings s c gid g).memWf = true := by
  unfold State.freeHoldings
  simp +contextual (maxDischargeDepth := 60) only [↓Core.acc_wf, ↓Core.banks_wf, ↓Core.foldlFst_memWf, ↓Core.foldl_memWf, ↓Core.istore_wf, ↓Core.mk_memWf, ↓Core.recount_memWf, ↓Core.releaseChunk_memWf, ↓Core.rf_wf, ↓Core.store_wf, ↓EngAcc.fault_memWf, ↓EngAcc.ite_memWf, ↓EngAcc.ok_memWf, ↓EngAcc.poison_memWf, ↓EngAcc.wait_memWf, ↓EngAcc.window_memWf, ↓Mem.wf_clear, ↓Mem.wf_filter, ↓Mem.wf_set, ↓Mem.wf_write, ↓State.cap_wf, ↓State.cores_wf, ↓State.foldlFst_memWf, ↓State.foldl_memWf, ↓State.hbm_wf, ↓State.mk_memWf, ↓State.modCore_memWf, ↓State.modGroup_memWf, ↓Xl.fail_memWf, ↓Xl.ite_memWf, ↓Xl.ok_memWf, ↓Xl.wait_memWf, hs, implies_true]

@[simp ↓] theorem State.retireGroup_memWf (s : State) (c gid : Nat) (g : Group) (hs : s.memWf = true) :
    (State.retireGroup s c gid g).memWf = true := by
  unfold State.retireGroup
  simp +contextual (maxDischargeDepth := 60) only [↓Core.acc_wf, ↓Core.banks_wf, ↓Core.istore_wf, ↓Core.iteFst_memWf, ↓Core.ite_memWf, ↓Core.mk_memWf, ↓Core.recount_memWf, ↓Core.rf_wf, ↓Core.store_wf, ↓EngAcc.fault_memWf, ↓EngAcc.ite_memWf, ↓EngAcc.ok_memWf, ↓EngAcc.poison_memWf, ↓EngAcc.wait_memWf, ↓EngAcc.window_memWf, ↓Mem.wf_clear, ↓Mem.wf_filter, ↓Mem.wf_set, ↓Mem.wf_write, ↓Res.ite_memWf, ↓State.admitFaults_memWf, ↓State.cap_wf, ↓State.core_memWf, ↓State.cores_wf, ↓State.freeHoldings_memWf, ↓State.hbm_wf, ↓State.iteFst_memWf, ↓State.ite_memWf, ↓State.mk_memWf, ↓State.modCore_memWf, ↓State.modTeam_memWf, ↓State.postOnce_memWf, ↓State.retryLoads_memWf, ↓State.settleGroup_memWf, ↓State.withdrawBarriers_memWf, ↓Xl.fail_memWf, ↓Xl.ite_memWf, ↓Xl.ok_memWf, ↓Xl.wait_memWf, hs, implies_true]

@[simp ↓] theorem execGroupEnd_memWf (c gid : Nat) (s : State) (hs : s.memWf = true) :
    outMemWf (execGroupEnd c gid s) = true := by
  unfold execGroupEnd
  (try dsimp only)
  repeat' first | with_reducible assumption | with_reducible rfl | (intro _) | with_reducible apply Core.acc_wf | with_reducible apply Core.banks_wf | with_reducible apply Core.istore_wf | with_reducible apply Core.iteFst_memWf | with_reducible apply Core.ite_memWf | with_reducible apply Core.rf_wf | with_reducible apply Core.store_wf | with_reducible apply EngAcc.fault_memWf | with_reducible apply EngAcc.ite_memWf | with_reducible apply EngAcc.ok_memWf | with_reducible apply EngAcc.poison_memWf | with_reducible apply EngAcc.wait_memWf | with_reducible apply EngAcc.window_memWf | with_reducible apply Res.ite_memWf | with_reducible apply State.cap_wf | with_reducible apply State.completeLaunches_memWf | with_reducible apply State.cores_wf | with_reducible apply State.hbm_wf | with_reducible apply State.iteFst_memWf | with_reducible apply State.ite_memWf | with_reducible apply State.post_memWf | with_reducible apply State.retireGroup_memWf | with_reducible apply State.retireTeams_memWf | with_reducible apply Xl.fail_memWf | with_reducible apply Xl.ite_memWf | with_reducible apply Xl.ok_memWf | with_reducible apply Xl.wait_memWf | with_reducible apply outMemWf_fault | with_reducible apply outMemWf_ite | with_reducible apply outMemWf_next | (refine EngAcc.ok_of_eq ?_ (by with_reducible assumption)) | (refine EngAcc.poison_of_eq ?_ (by with_reducible assumption)) | (refine EngAcc.fault_of_eq ?_ (by with_reducible assumption)) | (refine EngAcc.window_of_eq ?_ (by with_reducible assumption)) | (refine EngAcc.wait_of_eq ?_ (by with_reducible assumption)) | (refine Pages.ok_of_eq ?_ (by with_reducible assumption)) | (refine Pages.fail_of_eq ?_ (by with_reducible assumption)) | (refine Pages.wait_of_eq ?_ (by with_reducible assumption)) | (refine State.fst_of_eq ?_ (by with_reducible assumption)) | (refine Core.fst_of_eq ?_ (by with_reducible assumption)) | split | (with_reducible refine State.mk_memWf ?_ ?_ ?_) | (with_reducible refine Core.mk_memWf ?_ ?_ ?_ ?_ ?_)

@[simp ↓] theorem State.dropOps_memWf (s : State) (c uid : Nat) (hs : s.memWf = true) :
    (State.dropOps s c uid).memWf = true := by
  unfold State.dropOps
  simp +contextual (maxDischargeDepth := 60) only [↓Core.acc_wf, ↓Core.banks_wf, ↓Core.foldlFst_memWf, ↓Core.foldl_memWf, ↓Core.istore_wf, ↓Core.iteFst_memWf, ↓Core.ite_memWf, ↓Core.mk_memWf, ↓Core.rf_wf, ↓Core.store_wf, ↓EngAcc.fault_memWf, ↓EngAcc.ite_memWf, ↓EngAcc.ok_memWf, ↓EngAcc.poison_memWf, ↓EngAcc.wait_memWf, ↓EngAcc.window_memWf, ↓Mem.wf_clear, ↓Mem.wf_filter, ↓Mem.wf_set, ↓Mem.wf_write, ↓Res.ite_memWf, ↓State.admitLog_memWf, ↓State.cap_wf, ↓State.core_memWf, ↓State.cores_wf, ↓State.foldlFst_memWf, ↓State.foldl_memWf, ↓State.freeFault_memWf, ↓State.hbm_wf, ↓State.iteFst_memWf, ↓State.ite_memWf, ↓State.mk_memWf, ↓State.modDie_memWf, ↓State.setCore_memWf, ↓Xl.fail_memWf, ↓Xl.ite_memWf, ↓Xl.ok_memWf, ↓Xl.wait_memWf, hs, implies_true]

@[simp ↓] theorem State.dropRay_memWf (s : State) (c gid : Nat) (h : HeldRay) (hs : s.memWf = true) :
    (State.dropRay s c gid h).memWf = true := by
  unfold State.dropRay
  (try dsimp only)
  repeat' first | with_reducible assumption | with_reducible rfl | (intro _) | with_reducible apply Core.acc_wf | with_reducible apply Core.banks_wf | with_reducible apply Core.istore_wf | with_reducible apply Core.rf_wf | with_reducible apply Core.store_wf | with_reducible apply EngAcc.fault_memWf | with_reducible apply EngAcc.ite_memWf | with_reducible apply EngAcc.ok_memWf | with_reducible apply EngAcc.poison_memWf | with_reducible apply EngAcc.wait_memWf | with_reducible apply EngAcc.window_memWf | with_reducible apply Mem.wf_clear | with_reducible apply Mem.wf_filter | with_reducible apply Mem.wf_set | with_reducible apply Mem.wf_write | with_reducible apply State.cap_wf | with_reducible apply State.core_memWf | with_reducible apply State.cores_wf | with_reducible apply State.hbm_wf | with_reducible apply State.modGroup_memWf | with_reducible apply State.releaseSlot_memWf | with_reducible apply State.send_memWf | with_reducible apply Xl.fail_memWf | with_reducible apply Xl.ite_memWf | with_reducible apply Xl.ok_memWf | with_reducible apply Xl.wait_memWf | (refine EngAcc.ok_of_eq ?_ (by with_reducible assumption)) | (refine EngAcc.poison_of_eq ?_ (by with_reducible assumption)) | (refine EngAcc.fault_of_eq ?_ (by with_reducible assumption)) | (refine EngAcc.window_of_eq ?_ (by with_reducible assumption)) | (refine EngAcc.wait_of_eq ?_ (by with_reducible assumption)) | (refine Pages.ok_of_eq ?_ (by with_reducible assumption)) | (refine Pages.fail_of_eq ?_ (by with_reducible assumption)) | (refine Pages.wait_of_eq ?_ (by with_reducible assumption)) | (refine State.fst_of_eq ?_ (by with_reducible assumption)) | (refine Core.fst_of_eq ?_ (by with_reducible assumption)) | split | (with_reducible refine State.mk_memWf ?_ ?_ ?_) | (with_reducible refine Core.mk_memWf ?_ ?_ ?_ ?_ ?_)

@[simp ↓] theorem State.killGroup_memWf (s : State) (c gid : Nat) (hs : s.memWf = true) :
    (State.killGroup s c gid).memWf = true := by
  unfold State.killGroup
  repeat' split
  all_goals first | assumption | rfl | (simp +contextual (maxDischargeDepth := 60) only [↓Core.acc_wf, ↓Core.banks_wf, ↓Core.istore_wf, ↓Core.iteFst_memWf, ↓Core.ite_memWf, ↓Core.mk_memWf, ↓Core.rf_wf, ↓Core.store_wf, ↓Core.wake_memWf, ↓EngAcc.fault_memWf, ↓EngAcc.ite_memWf, ↓EngAcc.ok_memWf, ↓EngAcc.poison_memWf, ↓EngAcc.wait_memWf, ↓EngAcc.window_memWf, ↓Mem.wf_clear, ↓Mem.wf_filter, ↓Mem.wf_set, ↓Mem.wf_write, ↓Res.done_memWf, ↓Res.ite_memWf, ↓Res.moved_memWf, ↓Res.trap_memWf, ↓Res.wait_memWf, ↓State.admitFaults_memWf, ↓State.cap_wf, ↓State.core_memWf, ↓State.cores_wf, ↓State.dropOps_memWf, ↓State.dropRay_memWf, ↓State.freeHoldings_memWf, ↓State.hbm_wf, ↓State.iteFst_memWf, ↓State.ite_memWf, ↓State.mk_memWf, ↓State.modCore_memWf, ↓State.modGroup_memWf, ↓State.postOnce_memWf, ↓State.resume_memWf, ↓State.retryLoads_memWf, ↓State.syncSfq_memWf, ↓State.withdrawBarriers_memWf, ↓Xl.fail_memWf, ↓Xl.ite_memWf, ↓Xl.ok_memWf, ↓Xl.wait_memWf, ↓misaligned_memWf, ↓prot_memWf, hs, implies_true])

@[simp ↓] theorem execTermg_memWf (a : SReg) (s : State) (hs : s.memWf = true) :
    outMemWf (execTermg a s) = true := by
  unfold execTermg
  refine run_memWf _ _ _ (fun x s h => ?_) hs
  (try dsimp only)
  repeat' first | with_reducible assumption | with_reducible rfl | (intro _) | with_reducible apply Core.acc_wf | with_reducible apply Core.banks_wf | with_reducible apply Core.istore_wf | with_reducible apply Core.iteFst_memWf | with_reducible apply Core.ite_memWf | with_reducible apply Core.rf_wf | with_reducible apply Core.store_wf | with_reducible apply EngAcc.fault_memWf | with_reducible apply EngAcc.ite_memWf | with_reducible apply EngAcc.ok_memWf | with_reducible apply EngAcc.poison_memWf | with_reducible apply EngAcc.wait_memWf | with_reducible apply EngAcc.window_memWf | with_reducible apply Res.done_memWf | with_reducible apply Res.ite_memWf | with_reducible apply Res.moved_memWf | with_reducible apply Res.trap_memWf | with_reducible apply Res.wait_memWf | with_reducible apply State.cap_wf | with_reducible apply State.core_memWf | with_reducible apply State.cores_wf | with_reducible apply State.hbm_wf | with_reducible apply State.iteFst_memWf | with_reducible apply State.ite_memWf | with_reducible apply State.killGroup_memWf | with_reducible apply Xl.fail_memWf | with_reducible apply Xl.ite_memWf | with_reducible apply Xl.ok_memWf | with_reducible apply Xl.wait_memWf | with_reducible apply misaligned_memWf | with_reducible apply prot_memWf | (refine EngAcc.ok_of_eq ?_ (by with_reducible assumption)) | (refine EngAcc.poison_of_eq ?_ (by with_reducible assumption)) | (refine EngAcc.fault_of_eq ?_ (by with_reducible assumption)) | (refine EngAcc.window_of_eq ?_ (by with_reducible assumption)) | (refine EngAcc.wait_of_eq ?_ (by with_reducible assumption)) | (refine Pages.ok_of_eq ?_ (by with_reducible assumption)) | (refine Pages.fail_of_eq ?_ (by with_reducible assumption)) | (refine Pages.wait_of_eq ?_ (by with_reducible assumption)) | (refine State.fst_of_eq ?_ (by with_reducible assumption)) | (refine Core.fst_of_eq ?_ (by with_reducible assumption)) | split | (with_reducible refine State.mk_memWf ?_ ?_ ?_) | (with_reducible refine Core.mk_memWf ?_ ?_ ?_ ?_ ?_)

@[simp ↓] theorem State.modStage_memWf (s : State) (d st : Nat) (f : Stage → Stage) (hs : s.memWf = true) :
    (State.modStage s d st f).memWf = true := by
  unfold State.modStage
  simp +contextual (maxDischargeDepth := 60) only [↓Core.acc_wf, ↓Core.banks_wf, ↓Core.istore_wf, ↓Core.mk_memWf, ↓Core.rf_wf, ↓Core.store_wf, ↓State.cap_wf, ↓State.cores_wf, ↓State.hbm_wf, ↓State.mk_memWf, ↓State.modDie_memWf, hs, implies_true]

@[simp ↓] theorem State.clickAll_memWf (s : State) (d st : Nat) (hs : s.memWf = true) :
    (State.clickAll s d st).memWf = true := by
  unfold State.clickAll
  simp +contextual (maxDischargeDepth := 60) only [↓Core.foldlFst_memWf, ↓Core.foldl_memWf, ↓State.foldlFst_memWf, ↓State.foldl_memWf, ↓State.postOnce_memWf, hs, implies_true]

@[simp ↓] theorem spawn_memWf (items : List Spawned) (x : Ctx) (s : State) (hs : s.memWf = true) :
    (spawn items x s).memWf = true := by
  unfold spawn
  (try dsimp only)
  repeat' first | with_reducible assumption | with_reducible rfl | (intro _) | with_reducible apply State.getD_memWf | with_reducible apply Core.acc_wf | with_reducible apply Core.banks_wf | with_reducible apply Core.istore_wf | with_reducible apply Core.iteFst_memWf | with_reducible apply Core.ite_memWf | with_reducible apply Core.rf_wf | with_reducible apply Core.store_wf | with_reducible apply Mem.wf_clear | with_reducible apply Mem.wf_filter | with_reducible apply Mem.wf_set | with_reducible apply Mem.wf_write | with_reducible apply Res.done_memWf | with_reducible apply Res.ite_memWf | with_reducible apply Res.moved_memWf | with_reducible apply Res.trap_memWf | with_reducible apply Res.wait_memWf | with_reducible apply State.cap_wf | with_reducible apply State.core_memWf | with_reducible apply State.cores_wf | with_reducible apply State.hbm_wf | with_reducible apply State.iteFst_memWf | with_reducible apply State.ite_memWf | with_reducible apply State.posts_memWf | with_reducible apply misaligned_memWf | with_reducible apply prot_memWf | (refine Xl.ok_of_eq ?_ (by with_reducible assumption)) | (refine Xl.fail_of_eq ?_ (by with_reducible assumption)) | (refine Xl.wait_of_eq ?_ (by with_reducible assumption)) | (refine EngAcc.ok_of_eq ?_ (by with_reducible assumption)) | (refine EngAcc.poison_of_eq ?_ (by with_reducible assumption)) | (refine EngAcc.fault_of_eq ?_ (by with_reducible assumption)) | (refine EngAcc.window_of_eq ?_ (by with_reducible assumption)) | (refine EngAcc.wait_of_eq ?_ (by with_reducible assumption)) | (refine Pages.ok_of_eq ?_ (by with_reducible assumption)) | (refine Pages.fail_of_eq ?_ (by with_reducible assumption)) | (refine Pages.wait_of_eq ?_ (by with_reducible assumption)) | (refine State.fst_of_eq ?_ (by with_reducible assumption)) | (refine Core.fst_of_eq ?_ (by with_reducible assumption)) | split | (with_reducible refine State.mk_memWf ?_ ?_ ?_) | (with_reducible refine Core.mk_memWf ?_ ?_ ?_ ?_ ?_)

@[simp ↓] theorem execSpawnLane_memWf (m : MReg) (a : VReg) (b : VLit) (s : State) (hs : s.memWf = true) :
    outMemWf (execSpawnLane m a b s) = true := by
  unfold execSpawnLane
  simp +contextual (maxDischargeDepth := 60) only [↓State.asIssued_memWf, ↓run_memWf, ↓spawn_memWf, hs, implies_true]

@[simp ↓] theorem execSpawnUniform_memWf (a : SReg) (b : USrc) (s : State) (hs : s.memWf = true) :
    outMemWf (execSpawnUniform a b s) = true := by
  unfold execSpawnUniform
  simp +contextual (maxDischargeDepth := 60) only [↓State.asIssued_memWf, ↓run_memWf, ↓spawn_memWf, hs, implies_true]

@[simp ↓] theorem State.spillItem_memWf (s : State) (d st : Nat) (y : Stage) (hs : s.memWf = true) :
    (State.spillItem s d st y).memWf = true := by
  unfold State.spillItem
  (try dsimp only)
  repeat' first | with_reducible assumption | with_reducible rfl | (intro _) | with_reducible apply Core.acc_wf | with_reducible apply Core.banks_wf | with_reducible apply Core.istore_wf | with_reducible apply Core.iteFst_memWf | with_reducible apply Core.ite_memWf | with_reducible apply Core.rf_wf | with_reducible apply Core.store_wf | with_reducible apply Res.done_memWf | with_reducible apply Res.ite_memWf | with_reducible apply Res.moved_memWf | with_reducible apply Res.trap_memWf | with_reducible apply Res.wait_memWf | with_reducible apply State.cap_wf | with_reducible apply State.clickAll_memWf | with_reducible apply State.cores_wf | with_reducible apply State.engWrite_memWf | with_reducible apply State.hbm_wf | with_reducible apply State.iteFst_memWf | with_reducible apply State.ite_memWf | with_reducible apply State.modStage_memWf | with_reducible apply State.postOnce_memWf | with_reducible apply State.post_memWf | with_reducible apply misaligned_memWf | with_reducible apply prot_memWf | (refine Xl.ok_of_eq ?_ (by with_reducible assumption)) | (refine Xl.fail_of_eq ?_ (by with_reducible assumption)) | (refine Xl.wait_of_eq ?_ (by with_reducible assumption)) | (refine EngAcc.ok_of_eq ?_ (by with_reducible assumption)) | (refine EngAcc.poison_of_eq ?_ (by with_reducible assumption)) | (refine EngAcc.fault_of_eq ?_ (by with_reducible assumption)) | (refine EngAcc.window_of_eq ?_ (by with_reducible assumption)) | (refine EngAcc.wait_of_eq ?_ (by with_reducible assumption)) | (refine Pages.ok_of_eq ?_ (by with_reducible assumption)) | (refine Pages.fail_of_eq ?_ (by with_reducible assumption)) | (refine Pages.wait_of_eq ?_ (by with_reducible assumption)) | (refine State.fst_of_eq ?_ (by with_reducible assumption)) | (refine Core.fst_of_eq ?_ (by with_reducible assumption)) | split | (with_reducible refine State.mk_memWf ?_ ?_ ?_) | (with_reducible refine Core.mk_memWf ?_ ?_ ?_ ?_ ?_)

@[simp ↓] theorem execItemEnqueue_memWf (d st : Nat) (item : Words) (s : State) (hs : s.memWf = true) :
    outMemWf (execItemEnqueue d st item s) = true := by
  unfold execItemEnqueue
  (try dsimp only)
  repeat' first | with_reducible assumption | with_reducible rfl | (intro _) | with_reducible apply Core.acc_wf | with_reducible apply Core.banks_wf | with_reducible apply Core.istore_wf | with_reducible apply Core.iteFst_memWf | with_reducible apply Core.ite_memWf | with_reducible apply Core.rf_wf | with_reducible apply Core.store_wf | with_reducible apply Res.done_memWf | with_reducible apply Res.ite_memWf | with_reducible apply Res.moved_memWf | with_reducible apply Res.trap_memWf | with_reducible apply Res.wait_memWf | with_reducible apply State.cap_wf | with_reducible apply State.clickAll_memWf | with_reducible apply State.cores_wf | with_reducible apply State.engRead_memWf | with_reducible apply State.hbm_wf | with_reducible apply State.iteFst_memWf | with_reducible apply State.ite_memWf | with_reducible apply State.modStage_memWf | with_reducible apply State.postOnce_memWf | with_reducible apply State.post_memWf | with_reducible apply State.spillItem_memWf | with_reducible apply misaligned_memWf | with_reducible apply outMemWf_fault | with_reducible apply outMemWf_ite | with_reducible apply outMemWf_next | with_reducible apply prot_memWf | (refine Xl.ok_of_eq ?_ (by with_reducible assumption)) | (refine Xl.fail_of_eq ?_ (by with_reducible assumption)) | (refine Xl.wait_of_eq ?_ (by with_reducible assumption)) | (refine EngAcc.ok_of_eq ?_ (by with_reducible assumption)) | (refine EngAcc.poison_of_eq ?_ (by with_reducible assumption)) | (refine EngAcc.fault_of_eq ?_ (by with_reducible assumption)) | (refine EngAcc.window_of_eq ?_ (by with_reducible assumption)) | (refine EngAcc.wait_of_eq ?_ (by with_reducible assumption)) | (refine Pages.ok_of_eq ?_ (by with_reducible assumption)) | (refine Pages.fail_of_eq ?_ (by with_reducible assumption)) | (refine Pages.wait_of_eq ?_ (by with_reducible assumption)) | (refine State.fst_of_eq ?_ (by with_reducible assumption)) | (refine Core.fst_of_eq ?_ (by with_reducible assumption)) | split | (with_reducible refine State.mk_memWf ?_ ?_ ?_) | (with_reducible refine Core.mk_memWf ?_ ?_ ?_ ?_ ?_)

@[simp ↓] theorem State.joinSlot_memWf (s : State) (c ctx : Nat) (entry : Word) (words : List Word) (trap : Option Trap) (hs : s.memWf = true) :
    (State.joinSlot s c ctx entry words trap).1.memWf = true := by
  unfold State.joinSlot
  (try dsimp only)
  repeat' first | with_reducible assumption | with_reducible rfl | (intro _) | with_reducible apply Core.acc_wf | with_reducible apply Core.banks_wf | with_reducible apply Core.istore_wf | with_reducible apply Core.iteFst_memWf | with_reducible apply Core.ite_memWf | with_reducible apply Core.rf_wf | with_reducible apply Core.store_wf | with_reducible apply Mem.wf_clear | with_reducible apply Mem.wf_filter | with_reducible apply Mem.wf_set | with_reducible apply Mem.wf_write | with_reducible apply Res.done_memWf | with_reducible apply Res.ite_memWf | with_reducible apply Res.moved_memWf | with_reducible apply Res.trap_memWf | with_reducible apply Res.wait_memWf | with_reducible apply State.cap_wf | with_reducible apply State.core_memWf | with_reducible apply State.cores_wf | with_reducible apply State.formSlot_memWf | with_reducible apply State.hbm_wf | with_reducible apply State.iteFst_memWf | with_reducible apply State.ite_memWf | with_reducible apply State.postOnce_memWf | with_reducible apply State.setCore_memWf | with_reducible apply misaligned_memWf | with_reducible apply prot_memWf | (refine EngAcc.ok_of_eq ?_ (by with_reducible assumption)) | (refine EngAcc.poison_of_eq ?_ (by with_reducible assumption)) | (refine EngAcc.fault_of_eq ?_ (by with_reducible assumption)) | (refine EngAcc.window_of_eq ?_ (by with_reducible assumption)) | (refine EngAcc.wait_of_eq ?_ (by with_reducible assumption)) | (refine Pages.ok_of_eq ?_ (by with_reducible assumption)) | (refine Pages.fail_of_eq ?_ (by with_reducible assumption)) | (refine Pages.wait_of_eq ?_ (by with_reducible assumption)) | (refine State.fst_of_eq ?_ (by with_reducible assumption)) | (refine Core.fst_of_eq ?_ (by with_reducible assumption)) | split | (with_reducible refine State.mk_memWf ?_ ?_ ?_) | (with_reducible refine Core.mk_memWf ?_ ?_ ?_ ?_ ?_)

@[simp ↓] theorem execClickerTake_memWf (c : Nat) (s : State) (hs : s.memWf = true) :
    outMemWf (execClickerTake c s) = true := by
  unfold execClickerTake
  (try dsimp only)
  repeat' first | with_reducible assumption | with_reducible rfl | (intro _) | with_reducible apply Core.acc_wf | with_reducible apply Core.banks_wf | with_reducible apply Core.foldlFst_memWf | with_reducible apply Core.foldl_memWf | with_reducible apply Core.istore_wf | with_reducible apply Core.iteFst_memWf | with_reducible apply Core.ite_memWf | with_reducible apply Core.rf_wf | with_reducible apply Core.store_wf | with_reducible apply Core.wake_memWf | with_reducible apply Res.ite_memWf | with_reducible apply State.cap_wf | with_reducible apply State.core_memWf | with_reducible apply State.cores_wf | with_reducible apply State.foldlFst_memWf | with_reducible apply State.foldl_memWf | with_reducible apply State.hbm_wf | with_reducible apply State.iteFst_memWf | with_reducible apply State.ite_memWf | with_reducible apply State.joinSlot_memWf | with_reducible apply State.joinStage_memWf | with_reducible apply State.modCore_memWf | with_reducible apply State.modStage_memWf | with_reducible apply State.postOnce_memWf | with_reducible apply outMemWf_fault | with_reducible apply outMemWf_ite | with_reducible apply outMemWf_next | with_reducible apply spawn_memWf | (refine EngAcc.ok_of_eq ?_ (by with_reducible assumption)) | (refine EngAcc.poison_of_eq ?_ (by with_reducible assumption)) | (refine EngAcc.fault_of_eq ?_ (by with_reducible assumption)) | (refine EngAcc.window_of_eq ?_ (by with_reducible assumption)) | (refine EngAcc.wait_of_eq ?_ (by with_reducible assumption)) | (refine Pages.ok_of_eq ?_ (by with_reducible assumption)) | (refine Pages.fail_of_eq ?_ (by with_reducible assumption)) | (refine Pages.wait_of_eq ?_ (by with_reducible assumption)) | (refine State.fst_of_eq ?_ (by with_reducible assumption)) | (refine Core.fst_of_eq ?_ (by with_reducible assumption)) | split | (with_reducible refine State.mk_memWf ?_ ?_ ?_) | (with_reducible refine Core.mk_memWf ?_ ?_ ?_ ?_ ?_)

@[simp ↓] theorem execShadeWordRead_memWf (c : Nat) (s : State) (hs : s.memWf = true) :
    outMemWf (execShadeWordRead c s) = true := by
  unfold execShadeWordRead
  extract_lets k d
  split
  · split
    · exact hs
    · extract_lets va take lost
      have ht : ∀ (s : State) entry trap, s.memWf = true → (take s entry trap).memWf = true := by
        intro s entry trap h
        have hj := fun ctx hit => State.joinSlot_memWf s c ctx entry hit trap h
        dsimp only [take]
        split
        · exact State.fst_of_eq (hj _ _) ‹_›
        · refine State.postOnce_memWf _ _ (State.ite_memWf ?_ (State.postOnce_memWf _ _ ?_)) <;>
            exact State.freeHome_memWf _ _ _ (State.modCore_memWf (State.fst_of_eq (hj _ _) ‹_›)
              (fun k hk => Core.popHit_memWf k hk) _)
      have he := fun who ctx va => State.engRead_memWf s c 0 ctx who true 0 va 4 hs
      split
      · exact ht _ _ _ (EngAcc.ok_of_eq (he _ _ _) ‹_›)
      · exact EngAcc.wait_of_eq (he _ _ _) ‹_›
      · exact ht _ _ _ (EngAcc.poison_of_eq (he _ _ _) ‹_›)
      · exact ht _ _ _ (EngAcc.fault_of_eq (he _ _ _) ‹_›)
      · exact ht _ _ _ (EngAcc.fault_of_eq (he _ _ _) ‹_›)
      · exact ht _ _ _ (EngAcc.window_of_eq (he _ _ _) ‹_›)
  · exact hs

@[simp ↓] theorem execClickWaitExpiry_memWf (c slot : Nat) (s : State) (hs : s.memWf = true) :
    outMemWf (execClickWaitExpiry c slot s) = true := by
  unfold execClickWaitExpiry
  (try dsimp only)
  repeat' first | with_reducible assumption | with_reducible rfl | (intro _) | with_reducible apply Core.acc_wf | with_reducible apply Core.banks_wf | with_reducible apply Core.istore_wf | with_reducible apply Core.iteFst_memWf | with_reducible apply Core.ite_memWf | with_reducible apply Core.rf_wf | with_reducible apply Core.store_wf | with_reducible apply Res.ite_memWf | with_reducible apply State.cap_wf | with_reducible apply State.core_memWf | with_reducible apply State.cores_wf | with_reducible apply State.formSlot_memWf | with_reducible apply State.hbm_wf | with_reducible apply State.iteFst_memWf | with_reducible apply State.ite_memWf | with_reducible apply outMemWf_fault | with_reducible apply outMemWf_ite | with_reducible apply outMemWf_next | (refine EngAcc.ok_of_eq ?_ (by with_reducible assumption)) | (refine EngAcc.poison_of_eq ?_ (by with_reducible assumption)) | (refine EngAcc.fault_of_eq ?_ (by with_reducible assumption)) | (refine EngAcc.window_of_eq ?_ (by with_reducible assumption)) | (refine EngAcc.wait_of_eq ?_ (by with_reducible assumption)) | (refine Pages.ok_of_eq ?_ (by with_reducible assumption)) | (refine Pages.fail_of_eq ?_ (by with_reducible assumption)) | (refine Pages.wait_of_eq ?_ (by with_reducible assumption)) | (refine State.fst_of_eq ?_ (by with_reducible assumption)) | (refine Core.fst_of_eq ?_ (by with_reducible assumption)) | split | (with_reducible refine State.mk_memWf ?_ ?_ ?_) | (with_reducible refine Core.mk_memWf ?_ ?_ ?_ ?_ ?_)

@[simp ↓] theorem execFormedGroupLaunch_memWf (c : Nat) (s : State) (hs : s.memWf = true) :
    outMemWf (execFormedGroupLaunch c s) = true := by
  unfold execFormedGroupLaunch
  (try dsimp only)
  repeat' first | with_reducible assumption | with_reducible rfl | (intro _) | with_reducible apply Core.acc_wf | with_reducible apply Core.banks_wf | with_reducible apply Core.foldlFst_memWf | with_reducible apply Core.foldl_memWf | with_reducible apply Core.istore_wf | with_reducible apply Core.iteFst_memWf | with_reducible apply Core.ite_memWf | with_reducible apply Core.putStore64_memWf | with_reducible apply Core.rf_wf | with_reducible apply Core.store_wf | with_reducible apply Mem.wf_clear | with_reducible apply Mem.wf_filter | with_reducible apply Mem.wf_set | with_reducible apply Mem.wf_write | with_reducible apply Res.done_memWf | with_reducible apply Res.ite_memWf | with_reducible apply Res.moved_memWf | with_reducible apply Res.trap_memWf | with_reducible apply Res.wait_memWf | with_reducible apply State.cap_wf | with_reducible apply State.chargeGroups_memWf | with_reducible apply State.core_memWf | with_reducible apply State.cores_wf | with_reducible apply State.foldlFst_memWf | with_reducible apply State.foldl_memWf | with_reducible apply State.hbm_wf | with_reducible apply State.iteFst_memWf | with_reducible apply State.ite_memWf | with_reducible apply State.modCore_memWf | with_reducible apply State.pendTrap_memWf | with_reducible apply State.postOnce_memWf | with_reducible apply State.setCore_memWf | with_reducible apply State.startGroup_memWf | with_reducible apply misaligned_memWf | with_reducible apply outMemWf_fault | with_reducible apply outMemWf_ite | with_reducible apply outMemWf_next | with_reducible apply prot_memWf | (refine EngAcc.ok_of_eq ?_ (by with_reducible assumption)) | (refine EngAcc.poison_of_eq ?_ (by with_reducible assumption)) | (refine EngAcc.fault_of_eq ?_ (by with_reducible assumption)) | (refine EngAcc.window_of_eq ?_ (by with_reducible assumption)) | (refine EngAcc.wait_of_eq ?_ (by with_reducible assumption)) | (refine Pages.ok_of_eq ?_ (by with_reducible assumption)) | (refine Pages.fail_of_eq ?_ (by with_reducible assumption)) | (refine Pages.wait_of_eq ?_ (by with_reducible assumption)) | (refine State.fst_of_eq ?_ (by with_reducible assumption)) | (refine Core.fst_of_eq ?_ (by with_reducible assumption)) | split | (with_reducible refine State.mk_memWf ?_ ?_ ?_) | (with_reducible refine Core.mk_memWf ?_ ?_ ?_ ?_ ?_)

@[simp ↓] theorem execStageGovernorPeriod_memWf (d : Nat) (s : State) (hs : s.memWf = true) :
    outMemWf (execStageGovernorPeriod d s) = true := by
  unfold execStageGovernorPeriod
  (try dsimp only)
  repeat' split
  all_goals first | with_reducible assumption | with_reducible rfl | (simp +contextual (maxDischargeDepth := 60) only [↓Core.acc_wf, ↓Core.banks_wf, ↓Core.foldlFst_memWf, ↓Core.foldl_memWf, ↓Core.istore_wf, ↓Core.iteFst_memWf, ↓Core.ite_memWf, ↓Core.mk_memWf, ↓Core.rf_wf, ↓Core.store_wf, ↓Mem.wf_clear, ↓Mem.wf_filter, ↓Mem.wf_set, ↓Mem.wf_write, ↓Res.ite_memWf, ↓State.cap_wf, ↓State.core_memWf, ↓State.cores_wf, ↓State.foldlFst_memWf, ↓State.foldl_memWf, ↓State.hbm_wf, ↓State.iteFst_memWf, ↓State.ite_memWf, ↓State.joinStage_memWf, ↓State.leaveStage_memWf, ↓State.mk_memWf, ↓State.modCore_memWf, ↓State.modDie_memWf, ↓State.modStage_memWf, ↓outMemWf_fault, ↓outMemWf_ite, ↓outMemWf_next, hs, implies_true]) | grind [Core.iteFst_memWf, State.core_memWf, State.iteFst_memWf, State.joinStage_memWf, State.leaveStage_memWf, State.modDie_memWf, State.modStage_memWf, Xl.memWf, EngAcc.memWf]

@[simp ↓] theorem State.retireStage_memWf (s : State) (d st : Nat) (hs : s.memWf = true) :
    (State.retireStage s d st).memWf = true := by
  unfold State.retireStage
  (try dsimp only)
  repeat' split
  all_goals first | with_reducible assumption | with_reducible rfl | (simp +contextual (maxDischargeDepth := 60) only [↓Core.acc_wf, ↓Core.banks_wf, ↓Core.foldlFst_memWf, ↓Core.foldl_memWf, ↓Core.istore_wf, ↓Core.iteFst_memWf, ↓Core.ite_memWf, ↓Core.mk_memWf, ↓Core.rf_wf, ↓Core.store_wf, ↓Mem.wf_clear, ↓Mem.wf_filter, ↓Mem.wf_set, ↓Mem.wf_write, ↓Res.ite_memWf, ↓State.cap_wf, ↓State.core_memWf, ↓State.cores_wf, ↓State.foldlFst_memWf, ↓State.foldl_memWf, ↓State.hbm_wf, ↓State.iteFst_memWf, ↓State.ite_memWf, ↓State.leaveStage_memWf, ↓State.mk_memWf, ↓State.modCore_memWf, ↓State.modDie_memWf, ↓State.modStage_memWf, ↓State.postOnce_memWf, ↓State.retireBlock_memWf, ↓State.setField_memWf, hs, implies_true]) | grind [Core.iteFst_memWf, State.core_memWf, State.iteFst_memWf, State.leaveStage_memWf, State.modDie_memWf, State.modStage_memWf, State.postOnce_memWf, State.retireBlock_memWf, State.setField_memWf, Xl.memWf, EngAcc.memWf]

@[simp ↓] theorem execStageRetire_memWf (d st : Nat) (s : State) (hs : s.memWf = true) :
    outMemWf (execStageRetire d st s) = true := by
  unfold execStageRetire
  simp +contextual (maxDischargeDepth := 60) only [↓State.retireStage_memWf, ↓outMemWf_fault, ↓outMemWf_ite, ↓outMemWf_next, hs, implies_true]

end Sys2Proof.Machine
end

