-- ==== Sys2Proof/Laws/CanonSave.lean ====
section
/-! SUPPORT. Saves, launches and the dirty log keep the canonical form of storage. -/

set_option linter.unusedSimpArgs false

namespace Sys2Proof.Machine

@[simp ↓] theorem State.xlateSave_memWf (s : State) (c ctx va : Nat) (who : Instr) (n : Nat) (hs : s.memWf = true) :
    (State.xlateSave s c ctx va who n).memWf = true := by
  induction n with
  | zero => exact hs
  | succ n ih =>
    unfold State.xlateSave
    split
    · have h := State.xlate_memWf _ c 6 ctx (va + 4096 * n) true false (.ev who) (Pages.ok_of_eq ih ‹_›)
      split
      · split <;> exact Xl.ok_of_eq h ‹_›
      · exact Xl.fail_of_eq h ‹_›
      · exact Xl.wait_of_eq h ‹_›
    · exact ih

theorem State.xlateRanges_memWf (s : State) (d ctx : Nat) (who : Instr) (l : List (Nat × Nat × Nat × Nat)) (hs : s.memWf = true) :
    (State.xlateRanges s d ctx who l).2.memWf = true ∧
      ∀ t ls, (State.xlateRanges s d ctx who l).1 = some (t, ls) → t.memWf = true := by
  induction l generalizing s with
  | nil =>
    refine ⟨hs, fun t ls e => ?_⟩
    cases e
    exact hs
  | cons r t ih =>
    unfold State.xlateRanges
    have h := State.xlateSave_memWf s (s.agentCore d) ctx (s.saveBase ctx + 4096 * r.2.2.1) who r.2.2.2 hs
    split
    · have h1 := ih _ (Pages.ok_of_eq h ‹_›)
      split
      · rename_i s' ls' x e
        rw [e] at h1
        refine ⟨h1.2 _ _ rfl, fun t ls e => ?_⟩
        cases e
        exact h1.2 _ _ rfl
      · exact h1
    · exact ⟨Pages.fail_of_eq h ‹_›, fun t ls e => by cases e⟩
    · have h1 := Pages.wait_of_eq h ‹_›
      refine ⟨h1, fun t ls e => ?_⟩
      cases e
      exact h1

@[simp ↓] theorem State.checkpoint_memWf (s : State) (c n : Nat) (word hi : Nat) (hs : s.memWf = true) :
    (State.checkpoint s c n word hi).memWf = true := by
  unfold State.checkpoint
  (try dsimp only)
  repeat' first | with_reducible assumption | with_reducible rfl | (intro _) | with_reducible apply Core.acc_wf | with_reducible apply Core.banks_wf | with_reducible apply Core.istore_wf | with_reducible apply Core.iteFst_memWf | with_reducible apply Core.ite_memWf | with_reducible apply Core.rf_wf | with_reducible apply Core.store_wf | with_reducible apply Core.writeStore_memWf | with_reducible apply EngAcc.fault_memWf | with_reducible apply EngAcc.ite_memWf | with_reducible apply EngAcc.ok_memWf | with_reducible apply EngAcc.poison_memWf | with_reducible apply EngAcc.wait_memWf | with_reducible apply EngAcc.window_memWf | with_reducible apply Res.ite_memWf | with_reducible apply State.cap_wf | with_reducible apply State.cores_wf | with_reducible apply State.hbm_wf | with_reducible apply State.iteFst_memWf | with_reducible apply State.ite_memWf | with_reducible apply State.modCmd_memWf | with_reducible apply State.modCore_memWf | with_reducible apply Xl.fail_memWf | with_reducible apply Xl.ite_memWf | with_reducible apply Xl.ok_memWf | with_reducible apply Xl.wait_memWf | (refine EngAcc.ok_of_eq ?_ (by with_reducible assumption)) | (refine EngAcc.poison_of_eq ?_ (by with_reducible assumption)) | (refine EngAcc.fault_of_eq ?_ (by with_reducible assumption)) | (refine EngAcc.window_of_eq ?_ (by with_reducible assumption)) | (refine EngAcc.wait_of_eq ?_ (by with_reducible assumption)) | (refine Pages.ok_of_eq ?_ (by with_reducible assumption)) | (refine Pages.fail_of_eq ?_ (by with_reducible assumption)) | (refine Pages.wait_of_eq ?_ (by with_reducible assumption)) | (refine State.fst_of_eq ?_ (by with_reducible assumption)) | (refine Core.fst_of_eq ?_ (by with_reducible assumption)) | split | (with_reducible refine State.mk_memWf ?_ ?_ ?_) | (with_reducible refine Core.mk_memWf ?_ ?_ ?_ ?_ ?_)

@[simp ↓] theorem State.withdrawColl_memWf (s : State) (c n : Nat) (q : Cmd) (hs : s.memWf = true) :
    (State.withdrawColl s c n q).memWf = true := by
  unfold State.withdrawColl
  simp +contextual (maxDischargeDepth := 60) only [↓Core.acc_wf, ↓Core.banks_wf, ↓Core.istore_wf, ↓Core.iteFst_memWf, ↓Core.ite_memWf, ↓Core.mk_memWf, ↓Core.rf_wf, ↓Core.store_wf, ↓EngAcc.fault_memWf, ↓EngAcc.ite_memWf, ↓EngAcc.ok_memWf, ↓EngAcc.poison_memWf, ↓EngAcc.wait_memWf, ↓EngAcc.window_memWf, ↓Mem.wf_clear, ↓Mem.wf_filter, ↓Mem.wf_set, ↓Mem.wf_write, ↓Res.ite_memWf, ↓State.cap_wf, ↓State.cores_wf, ↓State.hbm_wf, ↓State.iteFst_memWf, ↓State.ite_memWf, ↓State.leave_memWf, ↓State.mk_memWf, ↓State.modCmd_memWf, ↓Xl.fail_memWf, ↓Xl.ite_memWf, ↓Xl.ok_memWf, ↓Xl.wait_memWf, hs, implies_true]

@[simp ↓] theorem State.stopCmd_memWf (s : State) (c n : Nat) (q : Cmd) (hs : s.memWf = true) :
    (State.stopCmd s c n q).memWf = true := by
  unfold State.stopCmd
  (try dsimp only)
  repeat' first | with_reducible assumption | with_reducible rfl | (intro _) | with_reducible apply Core.acc_wf | with_reducible apply Core.banks_wf | with_reducible apply Core.foldlFst_memWf | with_reducible apply Core.foldl_memWf | with_reducible apply Core.istore_wf | with_reducible apply Core.iteFst_memWf | with_reducible apply Core.ite_memWf | with_reducible apply Core.rf_wf | with_reducible apply Core.store_wf | with_reducible apply EngAcc.fault_memWf | with_reducible apply EngAcc.ite_memWf | with_reducible apply EngAcc.ok_memWf | with_reducible apply EngAcc.poison_memWf | with_reducible apply EngAcc.wait_memWf | with_reducible apply EngAcc.window_memWf | with_reducible apply Res.ite_memWf | with_reducible apply State.cap_wf | with_reducible apply State.checkpoint_memWf | with_reducible apply State.cores_wf | with_reducible apply State.foldlFst_memWf | with_reducible apply State.foldl_memWf | with_reducible apply State.hbm_wf | with_reducible apply State.iteFst_memWf | with_reducible apply State.ite_memWf | with_reducible apply State.postOnce_memWf | with_reducible apply State.withdrawColl_memWf | with_reducible apply Xl.fail_memWf | with_reducible apply Xl.ite_memWf | with_reducible apply Xl.ok_memWf | with_reducible apply Xl.wait_memWf | (refine EngAcc.ok_of_eq ?_ (by with_reducible assumption)) | (refine EngAcc.poison_of_eq ?_ (by with_reducible assumption)) | (refine EngAcc.fault_of_eq ?_ (by with_reducible assumption)) | (refine EngAcc.window_of_eq ?_ (by with_reducible assumption)) | (refine EngAcc.wait_of_eq ?_ (by with_reducible assumption)) | (refine Pages.ok_of_eq ?_ (by with_reducible assumption)) | (refine Pages.fail_of_eq ?_ (by with_reducible assumption)) | (refine Pages.wait_of_eq ?_ (by with_reducible assumption)) | (refine State.fst_of_eq ?_ (by with_reducible assumption)) | (refine Core.fst_of_eq ?_ (by with_reducible assumption)) | split | (with_reducible refine State.mk_memWf ?_ ?_ ?_) | (with_reducible refine Core.mk_memWf ?_ ?_ ?_ ?_ ?_)

@[simp ↓] theorem State.freeBytes_memWf (s : State) (n : Nat) (hs : s.memWf = true) :
    (State.freeBytes s n).1.memWf = true := by
  unfold State.freeBytes
  simp +contextual (maxDischargeDepth := 60) only [↓EngAcc.fault_memWf, ↓EngAcc.ite_memWf, ↓EngAcc.ok_memWf, ↓EngAcc.poison_memWf, ↓EngAcc.wait_memWf, ↓EngAcc.window_memWf, ↓State.spendFree_memWf, ↓Xl.fail_memWf, ↓Xl.ite_memWf, ↓Xl.ok_memWf, ↓Xl.wait_memWf, hs, implies_true]

@[simp ↓] theorem State.teamImage_memWf (s : State) (c n : Nat) (t : Team) (hs : s.memWf = true) :
    (State.teamImage s c n t).1.memWf = true := by
  unfold State.teamImage
  simp +contextual (maxDischargeDepth := 60) only [↓Core.acc_wf, ↓Core.banks_wf, ↓Core.foldlFst_memWf, ↓Core.foldl_memWf, ↓Core.istore_wf, ↓Core.iteFst_memWf, ↓Core.ite_memWf, ↓Core.mk_memWf, ↓Core.rf_wf, ↓Core.store_wf, ↓EngAcc.fault_memWf, ↓EngAcc.ite_memWf, ↓EngAcc.ok_memWf, ↓EngAcc.poison_memWf, ↓EngAcc.wait_memWf, ↓EngAcc.window_memWf, ↓Mem.wf_clear, ↓Mem.wf_filter, ↓Mem.wf_set, ↓Mem.wf_write, ↓Res.ite_memWf, ↓State.cap_wf, ↓State.core_memWf, ↓State.cores_wf, ↓State.foldlFst_memWf, ↓State.foldl_memWf, ↓State.freeBytes_memWf, ↓State.hbm_wf, ↓State.iteFst_memWf, ↓State.ite_memWf, ↓State.mk_memWf, ↓Xl.fail_memWf, ↓Xl.ite_memWf, ↓Xl.ok_memWf, ↓Xl.wait_memWf, hs, implies_true]

@[simp ↓] theorem State.writePages_memWf (s : State) (l : List (Ap × Nat)) (bs : List Byte) (hs : s.memWf = true) :
    (State.writePages s l bs).memWf = true := by
  induction l generalizing s bs with
  | nil => exact hs
  | cons a t ih =>
    unfold State.writePages
    split
    · exact hs
    · exact ih _ _ (State.homeWrite_memWf _ _ _ _ _ hs)

theorem State.readPages_cons (s : State) (ap : Ap) (off n : Nat) (t : List (Ap × Nat)) (h : n = 4096) :
    State.readPages s ((ap, off) :: t) = ((State.readPages (s.readBlock ap off n).1 t).1,
      (s.readBlock ap off n).2 ++ (State.readPages (s.readBlock ap off n).1 t).2) := by
  subst h
  rw [State.readPages]

@[simp ↓] theorem State.readPages_memWf (s : State) (l : List (Ap × Nat)) (hs : s.memWf = true) :
    (State.readPages s l).1.memWf = true := by
  induction l generalizing s with
  | nil => exact hs
  | cons a t ih =>
    obtain ⟨ap, off⟩ := a
    rw [State.readPages_cons s ap off _ t rfl]
    generalize 4096 = n
    exact ih _ (State.readBlock_memWf _ _ _ _ hs)

@[simp ↓] theorem State.saveWaiter_memWf (s : State) (c : Nat) (l : SavedLog) (hs : s.memWf = true) :
    (State.saveWaiter s c l).memWf = true := by
  unfold State.saveWaiter
  simp +contextual (maxDischargeDepth := 60) only [↓Core.acc_wf, ↓Core.banks_wf, ↓Core.istore_wf, ↓Core.mk_memWf, ↓Core.rf_wf, ↓Core.store_wf, ↓EngAcc.fault_memWf, ↓EngAcc.ite_memWf, ↓EngAcc.ok_memWf, ↓EngAcc.poison_memWf, ↓EngAcc.wait_memWf, ↓EngAcc.window_memWf, ↓Mem.wf_clear, ↓Mem.wf_filter, ↓Mem.wf_set, ↓Mem.wf_write, ↓State.cap_wf, ↓State.cores_wf, ↓State.hbm_wf, ↓State.mk_memWf, ↓State.modDie_memWf, ↓Xl.fail_memWf, ↓Xl.ite_memWf, ↓Xl.ok_memWf, ↓Xl.wait_memWf, hs, implies_true]

@[simp ↓] theorem State.saveTeam_memWf (s : State) (c n page : Nat) (pages : List (Ap × Nat)) (hs : s.memWf = true) :
    (State.saveTeam s c n page pages).1.memWf = true := by
  unfold State.saveTeam
  extract_lets t
  split
  rename_i s1 bytes e
  have h1 := State.fst_of_eq (State.teamImage_memWf _ _ _ _ hs) e
  clear e
  extract_lets s2 k gs mine ops keep logs alone image s3 s4 s5 s6
  have h2 : s2.memWf = true := State.writePages_memWf _ _ _ h1
  have h3 : s3.memWf = true := by
    refine State.foldl_memWf ?_ (fun s l h => State.saveWaiter_memWf _ _ _ h) _
    exact State.mk_memWf (State.hbm_wf h2) (State.cap_wf h2) (State.cores_wf h2)
  have h4 : s4.memWf = true := by
    refine State.foldl_memWf h3 (fun s p h => ?_) _
    refine State.settleGroup_memWf _ _ _ _ (State.freeHoldings_memWf _ _ _ _ h)
  have h5 : s5.memWf = true := State.modCore_memWf h4 (fun k hk =>
    Core.recount_memWf _ (Core.mk_memWf (Core.rf_wf hk) (Core.banks_wf hk) (Core.store_wf hk) (Core.istore_wf hk) (Core.acc_wf hk))) _
  have h6 : s6.memWf = true := State.mk_memWf (State.hbm_wf h5) (State.cap_wf h5) (State.cores_wf h5)
  clear_value s6 image
  dsimp only
  exact State.dropTeam_memWf _ _ _ _ (State.admitFaults_memWf _ _ (State.syncSfq_memWf _ _ h6))

@[simp ↓] theorem execTeamSave_memWf (d blk : Nat) (s : State) (hs : s.memWf = true) :
    outMemWf (execTeamSave d blk s) = true := by
  unfold execTeamSave
  have hq : ∀ s : State, s.memWf = true → outMemWf (.next ((s.modDie d fun x => { x with saving := none }).postOnce (.placementOpportunity d))) = true :=
    fun s h => State.postOnce_memWf _ _ (State.modDie_memWf _ _ _ h)
  split
  · exact hs
  · rename_i j _
    split
    · exact hs
    · extract_lets quit again ctx s1
      split
      · exact hq _ hs
      · extract_lets here
        split
        · have h := State.xlateRanges_memWf s d ctx (.teamSave d blk) j.ranges hs
          split
          · rename_i s1 e
            rw [e] at h
            exact hq _ (State.modDie_memWf _ _ _ h.1)
          · rename_i s1 ls x e
            rw [e] at h
            have h1 := h.2 _ _ rfl
            split
            · extract_lets s2
              refine State.post_memWf _ _ (State.foldl_memWf (State.modDie_memWf _ _ _ h1) (fun s r h => ?_) _)
              exact State.modTeam_memWf _ _ _ _ h
            · exact h1
        · have h1 : s1.memWf = true := State.foldl_memWf hs
            (fun s r h => State.foldl_memWf h (fun s q h => State.stopCmd_memWf _ _ _ _ h) _) _
          split
          · split
            rename_i s2 images e
            have h2 : s2.memWf = true := by
              refine State.fst_of_eq (State.foldlFst_memWf (p := (s1, [])) h1 (fun a r h => ?_) _) e
              have h2 := State.saveTeam_memWf a.1 r.1.1 r.1.2.1 r.1.2.2.1 r.2 h
              split
              exact State.fst_of_eq h2 ‹_›
            exact hq _ (State.modDie_memWf _ _ _ h2)
          · exact State.post_memWf _ _ h1

@[simp ↓] theorem State.restoreThreads_memWf (s : State) (c gid : Nat) (g : Group) (hs : s.memWf = true) :
    (State.restoreThreads s c gid g).memWf = true := by
  unfold State.restoreThreads
  simp +contextual (maxDischargeDepth := 60) only [↓Core.acc_wf, ↓Core.banks_wf, ↓Core.enterOv_memWf, ↓Core.foldlFst_memWf, ↓Core.foldl_memWf, ↓Core.istore_wf, ↓Core.iteFst_memWf, ↓Core.ite_memWf, ↓Core.mk_memWf, ↓Core.recount_memWf, ↓Core.rf_wf, ↓Core.store_wf, ↓EngAcc.fault_memWf, ↓EngAcc.ite_memWf, ↓EngAcc.ok_memWf, ↓EngAcc.poison_memWf, ↓EngAcc.wait_memWf, ↓EngAcc.window_memWf, ↓Mem.wf_clear, ↓Mem.wf_filter, ↓Mem.wf_set, ↓Mem.wf_write, ↓Res.done_memWf, ↓Res.ite_memWf, ↓Res.moved_memWf, ↓Res.trap_memWf, ↓Res.wait_memWf, ↓State.cap_wf, ↓State.core_memWf, ↓State.cores_wf, ↓State.foldlFst_memWf, ↓State.foldl_memWf, ↓State.hbm_wf, ↓State.iteFst_memWf, ↓State.ite_memWf, ↓State.mk_memWf, ↓State.modCore_memWf, ↓State.parkOn_memWf, ↓State.requestOv_memWf, ↓Xl.fail_memWf, ↓Xl.ite_memWf, ↓Xl.ok_memWf, ↓Xl.wait_memWf, ↓misaligned_memWf, ↓prot_memWf, hs, implies_true]

@[simp ↓] theorem State.restoreGroup_memWf (s : State) (c n gid : Nat) (g : Group) (record chunks : List Byte) (hs : s.memWf = true) :
    (State.restoreGroup s c n gid g record chunks).1.memWf = true := by
  unfold State.restoreGroup
  extract_lets k gr held g' k1
  have hk := State.core_memWf hs c
  have h1 : k1.memWf = true := Core.mk_memWf (Mem.wf_write (Core.rf_wf hk)) (Core.banks_wf hk) (Core.store_wf hk) (Core.istore_wf hk)
    (Core.acc_wf hk)
  split
  rename_i k2 left e
  have h2 : k2.memWf = true := by
    refine Core.fst_of_eq (Core.foldlFst_memWf (p := (k1, chunks)) h1 (fun a b h => ?_) _) e
    split
    · exact h
    · split
      · exact h
      · have hg := Core.grant_memWf a.1 gid (b.2 + 1) ‹Nat› h
        exact Core.mk_memWf (Mem.wf_write (Core.rf_wf hg)) (Core.banks_wf hg) (Core.store_wf hg) (Core.istore_wf hg) (Core.acc_wf hg)
  clear e
  extract_lets s1 s2
  have h3 : s1.memWf = true := State.restoreThreads_memWf _ _ _ _ (State.setCore_memWf hs h2 c)
  have h4 : s2.memWf = true := State.modCore_memWf (State.foldl_memWf h3 (fun s p h => State.requestOv_memWf _ _ _ _ h) _)
    (fun k hk => Core.recount_memWf _ hk) _
  exact State.ite_memWf (State.postOnce_memWf _ _ h4) h4

@[simp ↓] theorem State.restoreLog_memWf (s : State) (c op : Nat) (l : SavedLog) (hs : s.memWf = true) :
    (State.restoreLog s c op l).memWf = true := by
  unfold State.restoreLog
  (try dsimp only)
  repeat' first | with_reducible assumption | with_reducible rfl | (intro _) | with_reducible apply Core.acc_wf | with_reducible apply Core.banks_wf | with_reducible apply Core.foldlFst_memWf | with_reducible apply Core.foldl_memWf | with_reducible apply Core.istore_wf | with_reducible apply Core.iteFst_memWf | with_reducible apply Core.ite_memWf | with_reducible apply Core.rf_wf | with_reducible apply Core.store_wf | with_reducible apply EngAcc.fault_memWf | with_reducible apply EngAcc.ite_memWf | with_reducible apply EngAcc.ok_memWf | with_reducible apply EngAcc.poison_memWf | with_reducible apply EngAcc.wait_memWf | with_reducible apply EngAcc.window_memWf | with_reducible apply Mem.wf_clear | with_reducible apply Mem.wf_filter | with_reducible apply Mem.wf_set | with_reducible apply Mem.wf_write | with_reducible apply Res.ite_memWf | with_reducible apply State.cap_wf | with_reducible apply State.core_memWf | with_reducible apply State.cores_wf | with_reducible apply State.failWaiter_memWf | with_reducible apply State.foldlFst_memWf | with_reducible apply State.foldl_memWf | with_reducible apply State.freeFault_memWf | with_reducible apply State.hbm_wf | with_reducible apply State.iteFst_memWf | with_reducible apply State.ite_memWf | with_reducible apply State.logFault_memWf | with_reducible apply State.modDie_memWf | with_reducible apply State.posts_memWf | with_reducible apply Xl.fail_memWf | with_reducible apply Xl.ite_memWf | with_reducible apply Xl.ok_memWf | with_reducible apply Xl.wait_memWf | (refine EngAcc.ok_of_eq ?_ (by with_reducible assumption)) | (refine EngAcc.poison_of_eq ?_ (by with_reducible assumption)) | (refine EngAcc.fault_of_eq ?_ (by with_reducible assumption)) | (refine EngAcc.window_of_eq ?_ (by with_reducible assumption)) | (refine EngAcc.wait_of_eq ?_ (by with_reducible assumption)) | (refine Pages.ok_of_eq ?_ (by with_reducible assumption)) | (refine Pages.fail_of_eq ?_ (by with_reducible assumption)) | (refine Pages.wait_of_eq ?_ (by with_reducible assumption)) | (refine State.fst_of_eq ?_ (by with_reducible assumption)) | (refine Core.fst_of_eq ?_ (by with_reducible assumption)) | split | (with_reducible refine State.mk_memWf ?_ ?_ ?_) | (with_reducible refine Core.mk_memWf ?_ ?_ ?_ ?_ ?_)

@[simp ↓] theorem State.restoreTeam_memWf (s : State) (d c : Nat) (i : TeamImage) (hs : s.memWf = true) :
    (State.restoreTeam s d c i).1.memWf = true := by
  unfold State.restoreTeam
  extract_lets t0
  split
  rename_i s1 bytes e1
  have h1 := State.fst_of_eq (State.readPages_memWf _ _ hs) e1
  split
  rename_i s2 n e2
  have h2 := State.fst_of_eq (State.placeTeam_memWf _ _ _ _ _ _ h1) e2
  clear e1 e2
  have hm : ∀ (s : State) (f : Core → Core), s.memWf = true → (∀ k : Core, k.memWf = true → (f k).memWf = true) → (s.modCore c f).memWf = true :=
    fun s f h hf => State.modCore_memWf h hf c
  have hmk : ∀ k : Core, k.memWf = true → Mem.wf k.rf = true ∧ Mem.wf (n := 8) k.banks = true ∧ Mem.wf (n := 8) k.store = true ∧
      Mem.wf k.istore = true ∧ Mem.wf k.acc = true := fun k hk =>
    ⟨Core.rf_wf hk, Core.banks_wf hk, Core.store_wf hk, Core.istore_wf hk, Core.acc_wf hk⟩
  extract_lets t records rest s3 setOf gidOf
  have h3 : s3.memWf = true := hm _ _ h2 fun k hk => have h := hmk k hk; Core.mk_memWf h.1 h.2.1 h.2.2.1 h.2.2.2.1 h.2.2.2.2
  split
  rename_i s4 rest4 e4
  have h4 : s4.memWf = true := by
    refine State.fst_of_eq (State.foldlFst_memWf (p := (s3, rest)) h3 (fun a g h => ?_) _) e4
    exact State.restoreGroup_memWf a.1 c n (setOf g) g (records.drop (4096 * g.index)) a.2 h
  clear e4
  extract_lets store rest5 s5 s6 rest6 s7 rest7 faults logAt base opOf s8 s9 behind trap s10 s11 s12 s13 s14
  have h5 : s5.memWf = true := hm _ _ h4 fun k hk => Core.ite_memWf hk (Core.writeStore_memWf _ _ _ hk)
  have h6 : s6.memWf = true := hm _ _ h5 fun k hk => Core.foldl_memWf hk (fun k b hk => Core.writeBank_memWf _ _ _ _ hk) _
  have h7 : s7.memWf = true := by
    refine State.foldl_memWf h6 (fun s b h => ?_) _
    split
    · exact h
    · exact State.modTeam_memWf _ _ _ _ (hm _ _ h fun k hk => have h := hmk k hk; Core.mk_memWf h.1 h.2.1 h.2.2.1 h.2.2.2.1 (Mem.wf_write h.2.2.2.2))
  have h8 : s8.memWf = true := hm _ _ h7 fun k hk => Core.foldl_memWf hk
    (fun k b hk => have h := hmk k hk; Core.mk_memWf h.1 h.2.1 h.2.2.1 h.2.2.2.1 h.2.2.2.2) _
  have h9 : s9.memWf = true := State.foldl_memWf h8
    (fun s b h => hm _ _ h fun k hk => have h := hmk k hk; Core.mk_memWf h.1 h.2.1 h.2.2.1 h.2.2.2.1 h.2.2.2.2) _
  have h10 : s10.memWf = true := State.foldl_memWf h9 (fun s b h => State.modGroup_memWf _ _ _ _ h) _
  have h11 : s11.memWf = true := State.foldl_memWf h10 (fun s b h => State.restoreLog_memWf _ _ _ _ h) _
  have h12 : s12.memWf = true := State.posts_memWf _ _ h11
  have h13 : s13.memWf = true := hm _ _ h12 fun k hk => have h := hmk k hk; Core.mk_memWf h.1 h.2.1 h.2.2.1 h.2.2.2.1 h.2.2.2.2
  have h14 : s14.memWf = true := State.foldl_memWf (State.admitFaults_memWf _ _ h13) (fun s b h => State.admitCmds_memWf _ _ h) _
  clear_value s14
  exact State.chargeGroups_memWf _ _ _ _ (hm _ _ h14 fun k hk => Core.l1Acquire_memWf _ _ hk)

@[simp ↓] theorem State.stopQueue_memWf (s : State) (q code : Nat) (hs : s.memWf = true) :
    (State.stopQueue s q code).memWf = true := by
  unfold State.stopQueue
  simp +contextual (maxDischargeDepth := 60) only [↓EngAcc.fault_memWf, ↓EngAcc.ite_memWf, ↓EngAcc.ok_memWf, ↓EngAcc.poison_memWf, ↓EngAcc.wait_memWf, ↓EngAcc.window_memWf, ↓State.setField_memWf, ↓Xl.fail_memWf, ↓Xl.ite_memWf, ↓Xl.ok_memWf, ↓Xl.wait_memWf, hs, implies_true]

@[simp ↓] theorem State.recordAt_memWf (s : State) (q : Nat) (hs : s.memWf = true) :
    (State.recordAt s q).1.memWf = true := by
  unfold State.recordAt
  simp +contextual (maxDischargeDepth := 60) only [↓EngAcc.fault_memWf, ↓EngAcc.ite_memWf, ↓EngAcc.ok_memWf, ↓EngAcc.poison_memWf, ↓EngAcc.wait_memWf, ↓EngAcc.window_memWf, ↓State.homeRead_memWf, ↓Xl.fail_memWf, ↓Xl.ite_memWf, ↓Xl.ok_memWf, ↓Xl.wait_memWf, hs, implies_true]

@[simp ↓] theorem State.ringDoorbell_memWf (s : State) (q : Nat) (v : Word) (hs : s.memWf = true) :
    (State.ringDoorbell s q v).memWf = true := by
  unfold State.ringDoorbell
  simp +contextual (maxDischargeDepth := 60) only [↓Core.iteFst_memWf, ↓Core.ite_memWf, ↓EngAcc.fault_memWf, ↓EngAcc.ite_memWf, ↓EngAcc.ok_memWf, ↓EngAcc.poison_memWf, ↓EngAcc.wait_memWf, ↓EngAcc.window_memWf, ↓Res.ite_memWf, ↓State.iteFst_memWf, ↓State.ite_memWf, ↓State.post_memWf, ↓State.setField_memWf, ↓State.stopQueue_memWf, ↓Xl.fail_memWf, ↓Xl.ite_memWf, ↓Xl.ok_memWf, ↓Xl.wait_memWf, hs, implies_true]

@[simp ↓] theorem execLaunchQueueDoorbell_memWf (q : Nat) (v : Word) (s : State) (hs : s.memWf = true) :
    outMemWf (execLaunchQueueDoorbell q v s) = true := by
  unfold execLaunchQueueDoorbell
  simp +contextual (maxDischargeDepth := 60) only [↓EngAcc.fault_memWf, ↓EngAcc.ite_memWf, ↓EngAcc.ok_memWf, ↓EngAcc.poison_memWf, ↓EngAcc.wait_memWf, ↓EngAcc.window_memWf, ↓State.ringDoorbell_memWf, ↓Xl.fail_memWf, ↓Xl.ite_memWf, ↓Xl.ok_memWf, ↓Xl.wait_memWf, ↓outMemWf_fault, ↓outMemWf_ite, ↓outMemWf_next, hs, implies_true]

@[simp ↓] theorem State.enableQueue_memWf (s : State) (q : Nat) (qw0 : DWord) (hs : s.memWf = true) :
    (State.enableQueue s q qw0).memWf = true := by
  unfold State.enableQueue
  simp +contextual (maxDischargeDepth := 60) only [↓Core.iteFst_memWf, ↓Core.ite_memWf, ↓EngAcc.fault_memWf, ↓EngAcc.ite_memWf, ↓EngAcc.ok_memWf, ↓EngAcc.poison_memWf, ↓EngAcc.wait_memWf, ↓EngAcc.window_memWf, ↓Res.ite_memWf, ↓State.iteFst_memWf, ↓State.ite_memWf, ↓State.post_memWf, ↓State.setCtl_memWf, ↓State.setField_memWf, ↓State.stopQueue_memWf, ↓Xl.fail_memWf, ↓Xl.ite_memWf, ↓Xl.ok_memWf, ↓Xl.wait_memWf, hs, implies_true]

@[simp ↓] theorem execLaunchQueueEnable_memWf (q : Nat) (qw0 : DWord) (s : State) (hs : s.memWf = true) :
    outMemWf (execLaunchQueueEnable q qw0 s) = true := by
  unfold execLaunchQueueEnable
  simp +contextual (maxDischargeDepth := 60) only [↓EngAcc.fault_memWf, ↓EngAcc.ite_memWf, ↓EngAcc.ok_memWf, ↓EngAcc.poison_memWf, ↓EngAcc.wait_memWf, ↓EngAcc.window_memWf, ↓State.enableQueue_memWf, ↓Xl.fail_memWf, ↓Xl.ite_memWf, ↓Xl.ok_memWf, ↓Xl.wait_memWf, ↓outMemWf_fault, ↓outMemWf_ite, ↓outMemWf_next, hs, implies_true]

@[simp ↓] theorem State.checkEntry_memWf (s : State) (l : Launch) (who : Instr) (hs : s.memWf = true) :
    (State.checkEntry s l who).2.memWf = true := by
  unfold State.checkEntry
  extract_lets id
  split
  · exact hs
  · split
    · exact hs
    · have h := State.engRead_memWf s (s.agentCore (l.queue % s.product.dies)) 6 l.ctx who true 0 (s.ovtBase l.ctx + 8 * id) 8 hs
      split
      · split <;> exact EngAcc.ok_of_eq h ‹_›
      · exact EngAcc.wait_of_eq h ‹_›
      · exact EngAcc.poison_of_eq h ‹_›
      · exact EngAcc.fault_of_eq h ‹_›
      · exact EngAcc.window_of_eq h ‹_›

@[simp ↓] theorem State.acceptLaunch_memWf (s : State) (l : Launch) (hs : s.memWf = true) :
    (State.acceptLaunch s l).memWf = true := by
  unfold State.acceptLaunch
  simp +contextual (maxDischargeDepth := 60) only [↓Core.acc_wf, ↓Core.banks_wf, ↓Core.istore_wf, ↓Core.mk_memWf, ↓Core.rf_wf, ↓Core.store_wf, ↓EngAcc.fault_memWf, ↓EngAcc.ite_memWf, ↓EngAcc.ok_memWf, ↓EngAcc.poison_memWf, ↓EngAcc.wait_memWf, ↓EngAcc.window_memWf, ↓State.cap_wf, ↓State.cores_wf, ↓State.hbm_wf, ↓State.mk_memWf, ↓State.post_memWf, ↓Xl.fail_memWf, ↓Xl.ite_memWf, ↓Xl.ok_memWf, ↓Xl.wait_memWf, hs, implies_true]

@[simp ↓] theorem execLaunchRecordFetch_memWf (q : Nat) (s : State) (hs : s.memWf = true) :
    outMemWf (execLaunchRecordFetch q s) = true := by
  unfold execLaunchRecordFetch
  split
  · exact hs
  · split
    · exact State.stopQueue_memWf _ _ _ hs
    · split
      rename_i s1 words e
      have h1 := State.fst_of_eq (State.recordAt_memWf _ _ hs) e
      clear e
      extract_lets l
      split
      · have h2 := State.checkEntry_memWf s1 l (.launchRecordFetch q) h1
        split
        · rename_i e; rw [e] at h2; exact h2
        · rename_i e
          rw [e] at h2
          split
          · exact State.acceptLaunch_memWf _ _ h2
          · exact State.postOnce_memWf _ _ h2
        · rename_i e; rw [e] at h2; exact State.stopQueue_memWf _ _ _ h2
      · exact State.stopQueue_memWf _ _ _ h1

@[simp ↓] theorem execTeamInitRead_memWf (n : Nat) (s : State) (hs : s.memWf = true) :
    outMemWf (execTeamInitRead n s) = true := by
  unfold execTeamInitRead
  (try dsimp only)
  repeat' first | with_reducible assumption | with_reducible rfl | (intro _) | with_reducible apply Core.acc_wf | with_reducible apply Core.banks_wf | with_reducible apply Core.istore_wf | with_reducible apply Core.iteFst_memWf | with_reducible apply Core.ite_memWf | with_reducible apply Core.rf_wf | with_reducible apply Core.store_wf | with_reducible apply EngAcc.fault_memWf | with_reducible apply EngAcc.ite_memWf | with_reducible apply EngAcc.ok_memWf | with_reducible apply EngAcc.poison_memWf | with_reducible apply EngAcc.wait_memWf | with_reducible apply EngAcc.window_memWf | with_reducible apply Res.done_memWf | with_reducible apply Res.ite_memWf | with_reducible apply Res.moved_memWf | with_reducible apply Res.trap_memWf | with_reducible apply Res.wait_memWf | with_reducible apply State.acceptLaunch_memWf | with_reducible apply State.cap_wf | with_reducible apply State.cores_wf | with_reducible apply State.hbm_wf | with_reducible apply State.iteFst_memWf | with_reducible apply State.ite_memWf | with_reducible apply State.readImages_memWf | with_reducible apply State.recordAt_memWf | with_reducible apply State.stopQueue_memWf | with_reducible apply Xl.fail_memWf | with_reducible apply Xl.ite_memWf | with_reducible apply Xl.ok_memWf | with_reducible apply Xl.wait_memWf | with_reducible apply misaligned_memWf | with_reducible apply outMemWf_fault | with_reducible apply outMemWf_ite | with_reducible apply outMemWf_next | with_reducible apply prot_memWf | (refine Xl.ok_of_eq ?_ (by with_reducible assumption)) | (refine Xl.fail_of_eq ?_ (by with_reducible assumption)) | (refine Xl.wait_of_eq ?_ (by with_reducible assumption)) | (refine EngAcc.ok_of_eq ?_ (by with_reducible assumption)) | (refine EngAcc.poison_of_eq ?_ (by with_reducible assumption)) | (refine EngAcc.fault_of_eq ?_ (by with_reducible assumption)) | (refine EngAcc.window_of_eq ?_ (by with_reducible assumption)) | (refine EngAcc.wait_of_eq ?_ (by with_reducible assumption)) | (refine Pages.ok_of_eq ?_ (by with_reducible assumption)) | (refine Pages.fail_of_eq ?_ (by with_reducible assumption)) | (refine Pages.wait_of_eq ?_ (by with_reducible assumption)) | (refine State.fst_of_eq ?_ (by with_reducible assumption)) | (refine Core.fst_of_eq ?_ (by with_reducible assumption)) | split | (with_reducible refine State.mk_memWf ?_ ?_ ?_) | (with_reducible refine Core.mk_memWf ?_ ?_ ?_ ?_ ?_)

@[simp ↓] theorem State.arm_memWf (s : State) (d : Nat) (l : Launch) (hs : s.memWf = true) :
    (State.arm s d l).memWf = true := by
  unfold State.arm
  simp +contextual (maxDischargeDepth := 60) only [↓Core.acc_wf, ↓Core.banks_wf, ↓Core.istore_wf, ↓Core.iteFst_memWf, ↓Core.ite_memWf, ↓Core.mk_memWf, ↓Core.rf_wf, ↓Core.store_wf, ↓EngAcc.fault_memWf, ↓EngAcc.ite_memWf, ↓EngAcc.ok_memWf, ↓EngAcc.poison_memWf, ↓EngAcc.wait_memWf, ↓EngAcc.window_memWf, ↓Res.ite_memWf, ↓State.cap_wf, ↓State.cores_wf, ↓State.hbm_wf, ↓State.iteFst_memWf, ↓State.ite_memWf, ↓State.mk_memWf, ↓State.setArb_memWf, ↓Xl.fail_memWf, ↓Xl.ite_memWf, ↓Xl.ok_memWf, ↓Xl.wait_memWf, hs, implies_true]

@[simp ↓] theorem State.defineStage_memWf (s : State) (d : Nat) (l : Launch) (hs : s.memWf = true) :
    (State.defineStage s d l).memWf = true := by
  unfold State.defineStage
  simp +contextual (maxDischargeDepth := 60) only [↓Core.acc_wf, ↓Core.banks_wf, ↓Core.istore_wf, ↓Core.mk_memWf, ↓Core.rf_wf, ↓Core.store_wf, ↓EngAcc.fault_memWf, ↓EngAcc.ite_memWf, ↓EngAcc.ok_memWf, ↓EngAcc.poison_memWf, ↓EngAcc.wait_memWf, ↓EngAcc.window_memWf, ↓State.cap_wf, ↓State.cores_wf, ↓State.hbm_wf, ↓State.mk_memWf, ↓State.modDie_memWf, ↓State.setField_memWf, ↓Xl.fail_memWf, ↓Xl.ite_memWf, ↓Xl.ok_memWf, ↓Xl.wait_memWf, hs, implies_true]

@[simp ↓] theorem State.listBlock_memWf (s : State) (d q l b : Nat) (hs : s.memWf = true) :
    (State.listBlock s d q l b).memWf = true := by
  unfold State.listBlock
  (try dsimp only)
  repeat' first | with_reducible assumption | with_reducible rfl | (intro _) | with_reducible apply State.getD_memWf | with_reducible apply Core.acc_wf | with_reducible apply Core.banks_wf | with_reducible apply Core.istore_wf | with_reducible apply Core.iteFst_memWf | with_reducible apply Core.ite_memWf | with_reducible apply Core.rf_wf | with_reducible apply Core.store_wf | with_reducible apply EngAcc.fault_memWf | with_reducible apply EngAcc.ite_memWf | with_reducible apply EngAcc.ok_memWf | with_reducible apply EngAcc.poison_memWf | with_reducible apply EngAcc.wait_memWf | with_reducible apply EngAcc.window_memWf | with_reducible apply Res.ite_memWf | with_reducible apply State.arm_memWf | with_reducible apply State.cap_wf | with_reducible apply State.cores_wf | with_reducible apply State.defineStage_memWf | with_reducible apply State.hbm_wf | with_reducible apply State.iteFst_memWf | with_reducible apply State.ite_memWf | with_reducible apply State.modDie_memWf | with_reducible apply State.postOnce_memWf | with_reducible apply State.setArb_memWf | with_reducible apply Xl.fail_memWf | with_reducible apply Xl.ite_memWf | with_reducible apply Xl.ok_memWf | with_reducible apply Xl.wait_memWf | (refine EngAcc.ok_of_eq ?_ (by with_reducible assumption)) | (refine EngAcc.poison_of_eq ?_ (by with_reducible assumption)) | (refine EngAcc.fault_of_eq ?_ (by with_reducible assumption)) | (refine EngAcc.window_of_eq ?_ (by with_reducible assumption)) | (refine EngAcc.wait_of_eq ?_ (by with_reducible assumption)) | (refine Pages.ok_of_eq ?_ (by with_reducible assumption)) | (refine Pages.fail_of_eq ?_ (by with_reducible assumption)) | (refine Pages.wait_of_eq ?_ (by with_reducible assumption)) | (refine State.fst_of_eq ?_ (by with_reducible assumption)) | (refine Core.fst_of_eq ?_ (by with_reducible assumption)) | split | (with_reducible refine State.mk_memWf ?_ ?_ ?_) | (with_reducible refine Core.mk_memWf ?_ ?_ ?_ ?_ ?_)

@[simp ↓] theorem execBlockDistribution_memWf (n : Nat) (s : State) (hs : s.memWf = true) :
    outMemWf (execBlockDistribution n s) = true := by
  unfold execBlockDistribution
  (try dsimp only)
  repeat' first | with_reducible assumption | with_reducible rfl | (intro _) | with_reducible apply Core.acc_wf | with_reducible apply Core.banks_wf | with_reducible apply Core.istore_wf | with_reducible apply Core.iteFst_memWf | with_reducible apply Core.ite_memWf | with_reducible apply Core.rf_wf | with_reducible apply Core.store_wf | with_reducible apply EngAcc.fault_memWf | with_reducible apply EngAcc.ite_memWf | with_reducible apply EngAcc.ok_memWf | with_reducible apply EngAcc.poison_memWf | with_reducible apply EngAcc.wait_memWf | with_reducible apply EngAcc.window_memWf | with_reducible apply Res.ite_memWf | with_reducible apply State.cap_wf | with_reducible apply State.cores_wf | with_reducible apply State.hbm_wf | with_reducible apply State.iteFst_memWf | with_reducible apply State.ite_memWf | with_reducible apply State.listBlock_memWf | with_reducible apply State.modLaunch_memWf | with_reducible apply State.postOnce_memWf | with_reducible apply State.post_memWf | with_reducible apply State.send_memWf | with_reducible apply State.setArb_memWf | with_reducible apply State.setField_memWf | with_reducible apply Xl.fail_memWf | with_reducible apply Xl.ite_memWf | with_reducible apply Xl.ok_memWf | with_reducible apply Xl.wait_memWf | with_reducible apply outMemWf_fault | with_reducible apply outMemWf_ite | with_reducible apply outMemWf_next | (refine EngAcc.ok_of_eq ?_ (by with_reducible assumption)) | (refine EngAcc.poison_of_eq ?_ (by with_reducible assumption)) | (refine EngAcc.fault_of_eq ?_ (by with_reducible assumption)) | (refine EngAcc.window_of_eq ?_ (by with_reducible assumption)) | (refine EngAcc.wait_of_eq ?_ (by with_reducible assumption)) | (refine Pages.ok_of_eq ?_ (by with_reducible assumption)) | (refine Pages.fail_of_eq ?_ (by with_reducible assumption)) | (refine Pages.wait_of_eq ?_ (by with_reducible assumption)) | (refine State.fst_of_eq ?_ (by with_reducible assumption)) | (refine Core.fst_of_eq ?_ (by with_reducible assumption)) | split | (with_reducible refine State.mk_memWf ?_ ?_ ?_) | (with_reducible refine Core.mk_memWf ?_ ?_ ?_ ?_ ?_)

theorem State.arbitrate_memWf (s : State) (d : Nat) (cand listed : List Nat) (hs : s.memWf = true) :
    ∀ r, State.arbitrate s d cand listed = some r → r.2.memWf = true := by
  intro r e
  unfold State.arbitrate at e
  extract_lets urgent scan take need rounds give at e
  have ht : ∀ (s : State) r, s.memWf = true → take s = some r → r.2.memWf = true := by
    intro s r h e
    obtain ⟨q, -, rfl⟩ := Option.map_eq_some_iff.1 e
    exact State.modDie_memWf _ _ _ h
  split at e
  · obtain rfl := Option.some.inj e
    exact hs
  · split at e
    · obtain rfl := Option.some.inj e
      exact ht _ _ hs ‹_›
    · exact ht _ _ (State.foldl_memWf hs (fun s q h => State.setArb_memWf _ _ _ _ h) _) e

@[simp ↓] theorem State.failLaunch_memWf (s : State) (l : Launch) (code : Nat) (hs : s.memWf = true) :
    (State.failLaunch s l code).memWf = true := by
  unfold State.failLaunch
  simp +contextual (maxDischargeDepth := 60) only [↓Core.acc_wf, ↓Core.banks_wf, ↓Core.foldlFst_memWf, ↓Core.foldl_memWf, ↓Core.istore_wf, ↓Core.mk_memWf, ↓Core.rf_wf, ↓Core.store_wf, ↓EngAcc.fault_memWf, ↓EngAcc.ite_memWf, ↓EngAcc.ok_memWf, ↓EngAcc.poison_memWf, ↓EngAcc.wait_memWf, ↓EngAcc.window_memWf, ↓Mem.wf_clear, ↓Mem.wf_filter, ↓Mem.wf_set, ↓Mem.wf_write, ↓State.cap_wf, ↓State.cores_wf, ↓State.disarm_memWf, ↓State.foldlFst_memWf, ↓State.foldl_memWf, ↓State.hbm_wf, ↓State.mk_memWf, ↓State.modLaunch_memWf, ↓State.postOnce_memWf, ↓State.stopQueue_memWf, ↓State.trimDeficit_memWf, ↓Xl.fail_memWf, ↓Xl.ite_memWf, ↓Xl.ok_memWf, ↓Xl.wait_memWf, hs, implies_true]

@[simp ↓] theorem State.nextReservation_memWf (s : State) (d : Nat) (hs : s.memWf = true) :
    (State.nextReservation s d).memWf = true := by
  unfold State.nextReservation
  (try dsimp only)
  repeat' first | with_reducible assumption | with_reducible rfl | (intro _) | with_reducible apply Core.acc_wf | with_reducible apply Core.banks_wf | with_reducible apply Core.istore_wf | with_reducible apply Core.iteFst_memWf | with_reducible apply Core.ite_memWf | with_reducible apply Core.rf_wf | with_reducible apply Core.store_wf | with_reducible apply EngAcc.fault_memWf | with_reducible apply EngAcc.ite_memWf | with_reducible apply EngAcc.ok_memWf | with_reducible apply EngAcc.poison_memWf | with_reducible apply EngAcc.wait_memWf | with_reducible apply EngAcc.window_memWf | with_reducible apply Mem.wf_clear | with_reducible apply Mem.wf_filter | with_reducible apply Mem.wf_set | with_reducible apply Mem.wf_write | with_reducible apply Res.ite_memWf | with_reducible apply State.cap_wf | with_reducible apply State.core_memWf | with_reducible apply State.cores_wf | with_reducible apply State.hbm_wf | with_reducible apply State.iteFst_memWf | with_reducible apply State.ite_memWf | with_reducible apply State.mapCores_wf | with_reducible apply State.setDie_memWf | with_reducible apply Xl.fail_memWf | with_reducible apply Xl.ite_memWf | with_reducible apply Xl.ok_memWf | with_reducible apply Xl.wait_memWf | (refine EngAcc.ok_of_eq ?_ (by with_reducible assumption)) | (refine EngAcc.poison_of_eq ?_ (by with_reducible assumption)) | (refine EngAcc.fault_of_eq ?_ (by with_reducible assumption)) | (refine EngAcc.window_of_eq ?_ (by with_reducible assumption)) | (refine EngAcc.wait_of_eq ?_ (by with_reducible assumption)) | (refine Pages.ok_of_eq ?_ (by with_reducible assumption)) | (refine Pages.fail_of_eq ?_ (by with_reducible assumption)) | (refine Pages.wait_of_eq ?_ (by with_reducible assumption)) | (refine State.fst_of_eq ?_ (by with_reducible assumption)) | (refine Core.fst_of_eq ?_ (by with_reducible assumption)) | split | (with_reducible refine State.mk_memWf ?_ ?_ ?_) | (with_reducible refine Core.mk_memWf ?_ ?_ ?_ ?_ ?_)

@[simp ↓] theorem State.placeBlock_memWf (s : State) (d q : Nat) (r : BlockRef) (l : Launch) (cores : List Nat) (images : List (Nat × List Byte)) (hs : s.memWf = true) :
    (State.placeBlock s d q r l cores images).memWf = true := by
  unfold State.placeBlock
  simp +contextual (maxDischargeDepth := 60) only [↓Core.acc_wf, ↓Core.banks_wf, ↓Core.foldlFst_memWf, ↓Core.foldl_memWf, ↓Core.istore_wf, ↓Core.iteFst_memWf, ↓Core.ite_memWf, ↓Core.mk_memWf, ↓Core.rf_wf, ↓Core.store_wf, ↓EngAcc.fault_memWf, ↓EngAcc.ite_memWf, ↓EngAcc.ok_memWf, ↓EngAcc.poison_memWf, ↓EngAcc.wait_memWf, ↓EngAcc.window_memWf, ↓Mem.nil_wf, ↓Res.ite_memWf, ↓State.cap_wf, ↓State.chargeGroups_memWf, ↓State.cores_wf, ↓State.foldlFst_memWf, ↓State.foldl_memWf, ↓State.hbm_wf, ↓State.iteFst_memWf, ↓State.ite_memWf, ↓State.mapCores_wf, ↓State.mk_memWf, ↓State.modCore_memWf, ↓State.modDie_memWf, ↓State.nextReservation_memWf, ↓State.nil_wf, ↓State.placeTeam_memWf, ↓State.postOnce_memWf, ↓State.restoreTeam_memWf, ↓State.setDie_memWf, ↓State.startGroup_memWf, ↓State.trimDeficit_memWf, ↓Xl.fail_memWf, ↓Xl.ite_memWf, ↓Xl.ok_memWf, ↓Xl.wait_memWf, hs, implies_true]

@[simp ↓] theorem State.preempt_memWf (s : State) (d : Nat) (hs : s.memWf = true) :
    (State.preempt s d).memWf = true := by
  unfold State.preempt
  (try dsimp only)
  repeat' first | with_reducible assumption | with_reducible rfl | (intro _) | with_reducible apply Core.acc_wf | with_reducible apply Core.banks_wf | with_reducible apply Core.istore_wf | with_reducible apply Core.iteFst_memWf | with_reducible apply Core.ite_memWf | with_reducible apply Core.rf_wf | with_reducible apply Core.store_wf | with_reducible apply EngAcc.fault_memWf | with_reducible apply EngAcc.ite_memWf | with_reducible apply EngAcc.ok_memWf | with_reducible apply EngAcc.poison_memWf | with_reducible apply EngAcc.wait_memWf | with_reducible apply EngAcc.window_memWf | with_reducible apply Mem.wf_clear | with_reducible apply Mem.wf_filter | with_reducible apply Mem.wf_set | with_reducible apply Mem.wf_write | with_reducible apply Res.ite_memWf | with_reducible apply State.cap_wf | with_reducible apply State.cores_wf | with_reducible apply State.hbm_wf | with_reducible apply State.iteFst_memWf | with_reducible apply State.ite_memWf | with_reducible apply State.modDie_memWf | with_reducible apply State.post_memWf | with_reducible apply Xl.fail_memWf | with_reducible apply Xl.ite_memWf | with_reducible apply Xl.ok_memWf | with_reducible apply Xl.wait_memWf | (refine EngAcc.ok_of_eq ?_ (by with_reducible assumption)) | (refine EngAcc.poison_of_eq ?_ (by with_reducible assumption)) | (refine EngAcc.fault_of_eq ?_ (by with_reducible assumption)) | (refine EngAcc.window_of_eq ?_ (by with_reducible assumption)) | (refine EngAcc.wait_of_eq ?_ (by with_reducible assumption)) | (refine Pages.ok_of_eq ?_ (by with_reducible assumption)) | (refine Pages.fail_of_eq ?_ (by with_reducible assumption)) | (refine Pages.wait_of_eq ?_ (by with_reducible assumption)) | (refine State.fst_of_eq ?_ (by with_reducible assumption)) | (refine Core.fst_of_eq ?_ (by with_reducible assumption)) | split | (with_reducible refine State.mk_memWf ?_ ?_ ?_) | (with_reducible refine Core.mk_memWf ?_ ?_ ?_ ?_ ?_)

@[simp ↓] theorem execPlacementOpportunity_memWf (d : Nat) (s : State) (hs : s.memWf = true) :
    outMemWf (execPlacementOpportunity d s) = true := by
  unfold execPlacementOpportunity
  extract_lets s1 s2 listed cand
  have h1 : s1.memWf = true := State.foldl_memWf hs (fun s p h => State.trimDeficit_memWf _ _ _ h) _
  have h2 : s2.memWf = true := State.preempt_memWf _ _ (State.nextReservation_memWf _ _ h1)
  clear_value s2
  split
  · exact outMemWf_next (State.settleReclaims_memWf _ _ (State.foldl_memWf h2 (fun s l h => State.failLaunch_memWf _ _ _ h) _))
  · rename_i q s' e
    have h3 := State.arbitrate_memWf _ _ _ _ h2 _ e
    split
    · exact h2
    · split
      rename_i t ok e1
      have h4 := State.fst_of_eq (State.reclaimAll_memWf _ _ _ h3) e1
      split
      · exact h4
      · split
        · exact outMemWf_next (State.settleReclaims_memWf _ _ (State.placeBlock_memWf _ _ _ _ _ _ _ h4))
        · have h5 := fun l => State.readImages_memWf _ d l (.placementOpportunity d) h4
          split
          · exact outMemWf_next (State.settleReclaims_memWf _ _ (State.placeBlock_memWf _ _ _ _ _ _ _ (EngAcc.ok_of_eq (h5 _) ‹_›)))
          · exact EngAcc.wait_of_eq (h5 _) ‹_›
          · exact outMemWf_next (State.postOnce_memWf _ _ (State.failLaunch_memWf _ _ _ (EngAcc.poison_of_eq (h5 _) ‹_›)))
          · exact outMemWf_next (State.postOnce_memWf _ _ (State.failLaunch_memWf _ _ _ (EngAcc.fault_of_eq (h5 _) ‹_›)))
          · exact outMemWf_next (State.postOnce_memWf _ _ (State.failLaunch_memWf _ _ _ (EngAcc.window_of_eq (h5 _) ‹_›)))

@[simp ↓] theorem execReservationTimer_memWf (d q : Nat) (s : State) (hs : s.memWf = true) :
    outMemWf (execReservationTimer d q s) = true := by
  unfold execReservationTimer
  (try dsimp only)
  repeat' first | with_reducible assumption | with_reducible rfl | (intro _) | with_reducible apply Core.acc_wf | with_reducible apply Core.banks_wf | with_reducible apply Core.istore_wf | with_reducible apply Core.iteFst_memWf | with_reducible apply Core.ite_memWf | with_reducible apply Core.rf_wf | with_reducible apply Core.store_wf | with_reducible apply EngAcc.fault_memWf | with_reducible apply EngAcc.ite_memWf | with_reducible apply EngAcc.ok_memWf | with_reducible apply EngAcc.poison_memWf | with_reducible apply EngAcc.wait_memWf | with_reducible apply EngAcc.window_memWf | with_reducible apply Res.ite_memWf | with_reducible apply State.cap_wf | with_reducible apply State.cores_wf | with_reducible apply State.hbm_wf | with_reducible apply State.iteFst_memWf | with_reducible apply State.ite_memWf | with_reducible apply State.modDie_memWf | with_reducible apply State.nextReservation_memWf | with_reducible apply Xl.fail_memWf | with_reducible apply Xl.ite_memWf | with_reducible apply Xl.ok_memWf | with_reducible apply Xl.wait_memWf | with_reducible apply outMemWf_fault | with_reducible apply outMemWf_ite | with_reducible apply outMemWf_next | (refine EngAcc.ok_of_eq ?_ (by with_reducible assumption)) | (refine EngAcc.poison_of_eq ?_ (by with_reducible assumption)) | (refine EngAcc.fault_of_eq ?_ (by with_reducible assumption)) | (refine EngAcc.window_of_eq ?_ (by with_reducible assumption)) | (refine EngAcc.wait_of_eq ?_ (by with_reducible assumption)) | (refine Pages.ok_of_eq ?_ (by with_reducible assumption)) | (refine Pages.fail_of_eq ?_ (by with_reducible assumption)) | (refine Pages.wait_of_eq ?_ (by with_reducible assumption)) | (refine State.fst_of_eq ?_ (by with_reducible assumption)) | (refine Core.fst_of_eq ?_ (by with_reducible assumption)) | split | (with_reducible refine State.mk_memWf ?_ ?_ ?_) | (with_reducible refine Core.mk_memWf ?_ ?_ ?_ ?_ ?_)

@[simp ↓] theorem execBudgetExpiry_memWf (d q : Nat) (s : State) (hs : s.memWf = true) :
    outMemWf (execBudgetExpiry d q s) = true := by
  unfold execBudgetExpiry
  (try dsimp only)
  repeat' first | with_reducible assumption | with_reducible rfl | (intro _) | with_reducible apply Core.acc_wf | with_reducible apply Core.banks_wf | with_reducible apply Core.istore_wf | with_reducible apply Core.iteFst_memWf | with_reducible apply Core.ite_memWf | with_reducible apply Core.rf_wf | with_reducible apply Core.store_wf | with_reducible apply EngAcc.fault_memWf | with_reducible apply EngAcc.ite_memWf | with_reducible apply EngAcc.ok_memWf | with_reducible apply EngAcc.poison_memWf | with_reducible apply EngAcc.wait_memWf | with_reducible apply EngAcc.window_memWf | with_reducible apply Mem.wf_clear | with_reducible apply Mem.wf_filter | with_reducible apply Mem.wf_set | with_reducible apply Mem.wf_write | with_reducible apply Res.ite_memWf | with_reducible apply State.bumpField_memWf | with_reducible apply State.cap_wf | with_reducible apply State.cores_wf | with_reducible apply State.hbm_wf | with_reducible apply State.iteFst_memWf | with_reducible apply State.ite_memWf | with_reducible apply State.postOnce_memWf | with_reducible apply State.setArb_memWf | with_reducible apply Xl.fail_memWf | with_reducible apply Xl.ite_memWf | with_reducible apply Xl.ok_memWf | with_reducible apply Xl.wait_memWf | with_reducible apply outMemWf_fault | with_reducible apply outMemWf_ite | with_reducible apply outMemWf_next | (refine EngAcc.ok_of_eq ?_ (by with_reducible assumption)) | (refine EngAcc.poison_of_eq ?_ (by with_reducible assumption)) | (refine EngAcc.fault_of_eq ?_ (by with_reducible assumption)) | (refine EngAcc.window_of_eq ?_ (by with_reducible assumption)) | (refine EngAcc.wait_of_eq ?_ (by with_reducible assumption)) | (refine Pages.ok_of_eq ?_ (by with_reducible assumption)) | (refine Pages.fail_of_eq ?_ (by with_reducible assumption)) | (refine Pages.wait_of_eq ?_ (by with_reducible assumption)) | (refine State.fst_of_eq ?_ (by with_reducible assumption)) | (refine Core.fst_of_eq ?_ (by with_reducible assumption)) | split | (with_reducible refine State.mk_memWf ?_ ?_ ?_) | (with_reducible refine Core.mk_memWf ?_ ?_ ?_ ?_ ?_)

@[simp ↓] theorem State.setOutside_memWf (s : State) (ctx : Nat) (hs : s.memWf = true) :
    (State.setOutside s ctx).memWf = true := by
  unfold State.setOutside
  simp +contextual (maxDischargeDepth := 60) only [↓EngAcc.fault_memWf, ↓EngAcc.ite_memWf, ↓EngAcc.ok_memWf, ↓EngAcc.poison_memWf, ↓EngAcc.wait_memWf, ↓EngAcc.window_memWf, ↓State.setField_memWf, ↓Xl.fail_memWf, ↓Xl.ite_memWf, ↓Xl.ok_memWf, ↓Xl.wait_memWf, hs, implies_true]

@[simp ↓] theorem State.writeCover_memWf (s : State) (i : Nat) (qw5 : DWord) (hs : s.memWf = true) :
    (State.writeCover s i qw5).memWf = true := by
  unfold State.writeCover
  simp +contextual (maxDischargeDepth := 60) only [↓Core.iteFst_memWf, ↓Core.ite_memWf, ↓EngAcc.fault_memWf, ↓EngAcc.ite_memWf, ↓EngAcc.ok_memWf, ↓EngAcc.poison_memWf, ↓EngAcc.wait_memWf, ↓EngAcc.window_memWf, ↓Res.ite_memWf, ↓State.iteFst_memWf, ↓State.ite_memWf, ↓State.setCtl_memWf, ↓Xl.fail_memWf, ↓Xl.ite_memWf, ↓Xl.ok_memWf, ↓Xl.wait_memWf, hs, implies_true]

@[simp ↓] theorem execBitmapEnableWrite_memWf (i : Nat) (qw5 : DWord) (s : State) (hs : s.memWf = true) :
    outMemWf (execBitmapEnableWrite i qw5 s) = true := by
  unfold execBitmapEnableWrite
  simp +contextual (maxDischargeDepth := 60) only [↓EngAcc.fault_memWf, ↓EngAcc.ite_memWf, ↓EngAcc.ok_memWf, ↓EngAcc.poison_memWf, ↓EngAcc.wait_memWf, ↓EngAcc.window_memWf, ↓State.writeCover_memWf, ↓Xl.fail_memWf, ↓Xl.ite_memWf, ↓Xl.ok_memWf, ↓Xl.wait_memWf, ↓outMemWf_fault, ↓outMemWf_ite, ↓outMemWf_next, hs, implies_true]

@[simp ↓] theorem State.mergeEntry_memWf (s : State) (c : Nat) (a : State × List BitmapJob) (q : DWord) (ha : a.1.memWf = true) :
    (State.mergeEntry s c a q).1.memWf = true := by
  unfold State.mergeEntry
  extract_lets ctx q5
  split
  · exact ha
  · split
    · exact State.setOutside_memWf _ _ ha
    · split
      exact State.ite_memWf ha (State.setOutside_memWf _ _ ha)

@[simp ↓] theorem State.sendCas_memWf (s : State) (d : Nat) (hs : s.memWf = true) :
    (State.sendCas s d).memWf = true := by
  unfold State.sendCas
  (try dsimp only)
  repeat' first | with_reducible assumption | with_reducible rfl | (intro _) | with_reducible apply Core.acc_wf | with_reducible apply Core.banks_wf | with_reducible apply Core.istore_wf | with_reducible apply Core.rf_wf | with_reducible apply Core.store_wf | with_reducible apply EngAcc.fault_memWf | with_reducible apply EngAcc.ite_memWf | with_reducible apply EngAcc.ok_memWf | with_reducible apply EngAcc.poison_memWf | with_reducible apply EngAcc.wait_memWf | with_reducible apply EngAcc.window_memWf | with_reducible apply State.cap_wf | with_reducible apply State.cores_wf | with_reducible apply State.emit_memWf | with_reducible apply State.hbm_wf | with_reducible apply Xl.fail_memWf | with_reducible apply Xl.ite_memWf | with_reducible apply Xl.ok_memWf | with_reducible apply Xl.wait_memWf | (refine EngAcc.ok_of_eq ?_ (by with_reducible assumption)) | (refine EngAcc.poison_of_eq ?_ (by with_reducible assumption)) | (refine EngAcc.fault_of_eq ?_ (by with_reducible assumption)) | (refine EngAcc.window_of_eq ?_ (by with_reducible assumption)) | (refine EngAcc.wait_of_eq ?_ (by with_reducible assumption)) | (refine Pages.ok_of_eq ?_ (by with_reducible assumption)) | (refine Pages.fail_of_eq ?_ (by with_reducible assumption)) | (refine Pages.wait_of_eq ?_ (by with_reducible assumption)) | (refine State.fst_of_eq ?_ (by with_reducible assumption)) | (refine Core.fst_of_eq ?_ (by with_reducible assumption)) | split | (with_reducible refine State.mk_memWf ?_ ?_ ?_) | (with_reducible refine Core.mk_memWf ?_ ?_ ?_ ?_ ?_)

@[simp ↓] theorem State.queueJobs_memWf (s : State) (d : Nat) (jobs : List BitmapJob) (hs : s.memWf = true) :
    (State.queueJobs s d jobs).memWf = true := by
  unfold State.queueJobs
  simp +contextual (maxDischargeDepth := 60) only [↓Core.acc_wf, ↓Core.banks_wf, ↓Core.foldlFst_memWf, ↓Core.foldl_memWf, ↓Core.istore_wf, ↓Core.iteFst_memWf, ↓Core.ite_memWf, ↓Core.mk_memWf, ↓Core.rf_wf, ↓Core.store_wf, ↓EngAcc.fault_memWf, ↓EngAcc.ite_memWf, ↓EngAcc.ok_memWf, ↓EngAcc.poison_memWf, ↓EngAcc.wait_memWf, ↓EngAcc.window_memWf, ↓Res.ite_memWf, ↓State.cap_wf, ↓State.cores_wf, ↓State.foldlFst_memWf, ↓State.foldl_memWf, ↓State.hbm_wf, ↓State.idle_memWf, ↓State.iteFst_memWf, ↓State.ite_memWf, ↓State.mk_memWf, ↓State.sendCas_memWf, ↓Xl.fail_memWf, ↓Xl.ite_memWf, ↓Xl.ok_memWf, ↓Xl.wait_memWf, hs, implies_true]

@[simp ↓] theorem State.endMerge_memWf (s : State) (c : Nat) (hs : s.memWf = true) :
    (State.endMerge s c).memWf = true := by
  unfold State.endMerge
  simp +contextual (maxDischargeDepth := 60) only [↓Core.acc_wf, ↓Core.banks_wf, ↓Core.foldlFst_memWf, ↓Core.foldl_memWf, ↓Core.istore_wf, ↓Core.iteFst_memWf, ↓Core.ite_memWf, ↓Core.mk_memWf, ↓Core.rf_wf, ↓Core.store_wf, ↓Core.writeStore_memWf, ↓EngAcc.fault_memWf, ↓EngAcc.ite_memWf, ↓EngAcc.ok_memWf, ↓EngAcc.poison_memWf, ↓EngAcc.wait_memWf, ↓EngAcc.window_memWf, ↓Mem.wf_clear, ↓Mem.wf_filter, ↓Mem.wf_set, ↓Mem.wf_write, ↓Res.ite_memWf, ↓State.cap_wf, ↓State.core_memWf, ↓State.cores_wf, ↓State.foldlFst_memWf, ↓State.foldl_memWf, ↓State.hbm_wf, ↓State.iteFst_memWf, ↓State.ite_memWf, ↓State.mk_memWf, ↓State.postOnce_memWf, ↓State.releaseAll_memWf, ↓State.setCore_memWf, ↓Xl.fail_memWf, ↓Xl.ite_memWf, ↓Xl.ok_memWf, ↓Xl.wait_memWf, hs, implies_true]

@[simp ↓] theorem State.mergeLog_memWf (s : State) (c : Nat) (hs : s.memWf = true) :
    (State.mergeLog s c).memWf = true := by
  unfold State.mergeLog
  simp +contextual (maxDischargeDepth := 60) only [↓Core.acc_wf, ↓Core.banks_wf, ↓Core.foldlFst_memWf, ↓Core.foldl_memWf, ↓Core.istore_wf, ↓Core.iteFst_memWf, ↓Core.ite_memWf, ↓Core.mk_memWf, ↓Core.rf_wf, ↓Core.store_wf, ↓EngAcc.fault_memWf, ↓EngAcc.ite_memWf, ↓EngAcc.ok_memWf, ↓EngAcc.poison_memWf, ↓EngAcc.wait_memWf, ↓EngAcc.window_memWf, ↓Res.ite_memWf, ↓State.cap_wf, ↓State.core_memWf, ↓State.cores_wf, ↓State.endMerge_memWf, ↓State.foldlFst_memWf, ↓State.foldl_memWf, ↓State.hbm_wf, ↓State.iteFst_memWf, ↓State.ite_memWf, ↓State.mergeEntry_memWf, ↓State.mk_memWf, ↓State.modCore_memWf, ↓State.queueJobs_memWf, ↓Xl.fail_memWf, ↓Xl.ite_memWf, ↓Xl.ok_memWf, ↓Xl.wait_memWf, hs, implies_true]

@[simp ↓] theorem State.nextJob_memWf (s : State) (d : Nat) (hs : s.memWf = true) :
    (State.nextJob s d).memWf = true := by
  unfold State.nextJob
  (try dsimp only)
  repeat' first | with_reducible assumption | with_reducible rfl | (intro _) | with_reducible apply Core.acc_wf | with_reducible apply Core.banks_wf | with_reducible apply Core.istore_wf | with_reducible apply Core.rf_wf | with_reducible apply Core.store_wf | with_reducible apply EngAcc.fault_memWf | with_reducible apply EngAcc.ite_memWf | with_reducible apply EngAcc.ok_memWf | with_reducible apply EngAcc.poison_memWf | with_reducible apply EngAcc.wait_memWf | with_reducible apply EngAcc.window_memWf | with_reducible apply State.cap_wf | with_reducible apply State.core_memWf | with_reducible apply State.cores_wf | with_reducible apply State.endMerge_memWf | with_reducible apply State.hbm_wf | with_reducible apply State.sendCas_memWf | with_reducible apply Xl.fail_memWf | with_reducible apply Xl.ite_memWf | with_reducible apply Xl.ok_memWf | with_reducible apply Xl.wait_memWf | (refine EngAcc.ok_of_eq ?_ (by with_reducible assumption)) | (refine EngAcc.poison_of_eq ?_ (by with_reducible assumption)) | (refine EngAcc.fault_of_eq ?_ (by with_reducible assumption)) | (refine EngAcc.window_of_eq ?_ (by with_reducible assumption)) | (refine EngAcc.wait_of_eq ?_ (by with_reducible assumption)) | (refine Pages.ok_of_eq ?_ (by with_reducible assumption)) | (refine Pages.fail_of_eq ?_ (by with_reducible assumption)) | (refine Pages.wait_of_eq ?_ (by with_reducible assumption)) | (refine State.fst_of_eq ?_ (by with_reducible assumption)) | (refine Core.fst_of_eq ?_ (by with_reducible assumption)) | split | (with_reducible refine State.mk_memWf ?_ ?_ ?_) | (with_reducible refine Core.mk_memWf ?_ ?_ ?_ ?_ ?_)

@[simp ↓] theorem State.failJob_memWf (s : State) (d : Nat) (hs : s.memWf = true) :
    (State.failJob s d).memWf = true := by
  unfold State.failJob
  (try dsimp only)
  repeat' first | with_reducible assumption | with_reducible rfl | (intro _) | with_reducible apply Core.acc_wf | with_reducible apply Core.banks_wf | with_reducible apply Core.istore_wf | with_reducible apply Core.rf_wf | with_reducible apply Core.store_wf | with_reducible apply EngAcc.fault_memWf | with_reducible apply EngAcc.ite_memWf | with_reducible apply EngAcc.ok_memWf | with_reducible apply EngAcc.poison_memWf | with_reducible apply EngAcc.wait_memWf | with_reducible apply EngAcc.window_memWf | with_reducible apply State.cap_wf | with_reducible apply State.cores_wf | with_reducible apply State.hbm_wf | with_reducible apply State.nextJob_memWf | with_reducible apply State.setOutside_memWf | with_reducible apply Xl.fail_memWf | with_reducible apply Xl.ite_memWf | with_reducible apply Xl.ok_memWf | with_reducible apply Xl.wait_memWf | (refine EngAcc.ok_of_eq ?_ (by with_reducible assumption)) | (refine EngAcc.poison_of_eq ?_ (by with_reducible assumption)) | (refine EngAcc.fault_of_eq ?_ (by with_reducible assumption)) | (refine EngAcc.window_of_eq ?_ (by with_reducible assumption)) | (refine EngAcc.wait_of_eq ?_ (by with_reducible assumption)) | (refine Pages.ok_of_eq ?_ (by with_reducible assumption)) | (refine Pages.fail_of_eq ?_ (by with_reducible assumption)) | (refine Pages.wait_of_eq ?_ (by with_reducible assumption)) | (refine State.fst_of_eq ?_ (by with_reducible assumption)) | (refine Core.fst_of_eq ?_ (by with_reducible assumption)) | split | (with_reducible refine State.mk_memWf ?_ ?_ ?_) | (with_reducible refine Core.mk_memWf ?_ ?_ ?_ ?_ ?_)

@[simp ↓] theorem execDirtyLogMerge_memWf (c : Nat) (s : State) (hs : s.memWf = true) :
    outMemWf (execDirtyLogMerge c s) = true := by
  unfold execDirtyLogMerge
  simp +contextual (maxDischargeDepth := 60) only [↓EngAcc.fault_memWf, ↓EngAcc.ite_memWf, ↓EngAcc.ok_memWf, ↓EngAcc.poison_memWf, ↓EngAcc.wait_memWf, ↓EngAcc.window_memWf, ↓State.mergeLog_memWf, ↓Xl.fail_memWf, ↓Xl.ite_memWf, ↓Xl.ok_memWf, ↓Xl.wait_memWf, ↓outMemWf_fault, ↓outMemWf_ite, ↓outMemWf_next, hs, implies_true]

@[simp ↓] theorem execBitmapCasCompletion_memWf (d : Nat) (r : HostEnd) (s : State) (hs : s.memWf = true) :
    outMemWf (execBitmapCasCompletion d r s) = true := by
  unfold execBitmapCasCompletion
  (try dsimp only)
  repeat' first | with_reducible assumption | with_reducible rfl | (intro _) | with_reducible apply Core.acc_wf | with_reducible apply Core.banks_wf | with_reducible apply Core.istore_wf | with_reducible apply Core.iteFst_memWf | with_reducible apply Core.ite_memWf | with_reducible apply Core.rf_wf | with_reducible apply Core.store_wf | with_reducible apply EngAcc.fault_memWf | with_reducible apply EngAcc.ite_memWf | with_reducible apply EngAcc.ok_memWf | with_reducible apply EngAcc.poison_memWf | with_reducible apply EngAcc.wait_memWf | with_reducible apply EngAcc.window_memWf | with_reducible apply Res.ite_memWf | with_reducible apply State.cap_wf | with_reducible apply State.cores_wf | with_reducible apply State.failJob_memWf | with_reducible apply State.hbm_wf | with_reducible apply State.iteFst_memWf | with_reducible apply State.ite_memWf | with_reducible apply State.nextJob_memWf | with_reducible apply State.sendCas_memWf | with_reducible apply Xl.fail_memWf | with_reducible apply Xl.ite_memWf | with_reducible apply Xl.ok_memWf | with_reducible apply Xl.wait_memWf | with_reducible apply outMemWf_fault | with_reducible apply outMemWf_ite | with_reducible apply outMemWf_next | (refine Xl.ok_of_eq ?_ (by with_reducible assumption)) | (refine Xl.fail_of_eq ?_ (by with_reducible assumption)) | (refine Xl.wait_of_eq ?_ (by with_reducible assumption)) | (refine EngAcc.ok_of_eq ?_ (by with_reducible assumption)) | (refine EngAcc.poison_of_eq ?_ (by with_reducible assumption)) | (refine EngAcc.fault_of_eq ?_ (by with_reducible assumption)) | (refine EngAcc.window_of_eq ?_ (by with_reducible assumption)) | (refine EngAcc.wait_of_eq ?_ (by with_reducible assumption)) | (refine Pages.ok_of_eq ?_ (by with_reducible assumption)) | (refine Pages.fail_of_eq ?_ (by with_reducible assumption)) | (refine Pages.wait_of_eq ?_ (by with_reducible assumption)) | (refine State.fst_of_eq ?_ (by with_reducible assumption)) | (refine Core.fst_of_eq ?_ (by with_reducible assumption)) | split | (with_reducible refine State.mk_memWf ?_ ?_ ?_) | (with_reducible refine Core.mk_memWf ?_ ?_ ?_ ?_ ?_)

@[simp ↓] theorem State.rearm_memWf (s : State) (ctx : Nat) (hs : s.memWf = true) :
    (State.rearm s ctx).memWf = true := by
  unfold State.rearm
  simp +contextual (maxDischargeDepth := 60) only [↓Core.acc_wf, ↓Core.banks_wf, ↓Core.istore_wf, ↓Core.iteFst_memWf, ↓Core.ite_memWf, ↓Core.mk_memWf, ↓Core.rf_wf, ↓Core.store_wf, ↓EngAcc.fault_memWf, ↓EngAcc.ite_memWf, ↓EngAcc.ok_memWf, ↓EngAcc.poison_memWf, ↓EngAcc.wait_memWf, ↓EngAcc.window_memWf, ↓Mem.nil_wf, ↓Res.ite_memWf, ↓State.cap_wf, ↓State.cores_wf, ↓State.hbm_wf, ↓State.iteFst_memWf, ↓State.ite_memWf, ↓State.mapCores_wf, ↓State.mk_memWf, ↓State.nil_wf, ↓Xl.fail_memWf, ↓Xl.ite_memWf, ↓Xl.ok_memWf, ↓Xl.wait_memWf, hs, implies_true]

@[simp ↓] theorem State.startHarvest_memWf (s : State) (ctx : Nat) (rearm : Bool) (hs : s.memWf = true) :
    (State.startHarvest s ctx rearm).memWf = true := by
  unfold State.startHarvest
  simp +contextual (maxDischargeDepth := 60) only [↓Core.acc_wf, ↓Core.banks_wf, ↓Core.foldlFst_memWf, ↓Core.foldl_memWf, ↓Core.istore_wf, ↓Core.iteFst_memWf, ↓Core.ite_memWf, ↓Core.mk_memWf, ↓Core.rf_wf, ↓Core.store_wf, ↓EngAcc.fault_memWf, ↓EngAcc.ite_memWf, ↓EngAcc.ok_memWf, ↓EngAcc.poison_memWf, ↓EngAcc.wait_memWf, ↓EngAcc.window_memWf, ↓Mem.nil_wf, ↓Res.ite_memWf, ↓State.cap_wf, ↓State.cores_wf, ↓State.foldlFst_memWf, ↓State.foldl_memWf, ↓State.hbm_wf, ↓State.iteFst_memWf, ↓State.ite_memWf, ↓State.mapCores_wf, ↓State.mergeLog_memWf, ↓State.mk_memWf, ↓State.nil_wf, ↓State.post_memWf, ↓State.rearm_memWf, ↓State.setField_memWf, ↓Xl.fail_memWf, ↓Xl.ite_memWf, ↓Xl.ok_memWf, ↓Xl.wait_memWf, hs, implies_true]

@[simp ↓] theorem execHarvest_memWf (ctx : Nat) (rearm : Bool) (s : State) (hs : s.memWf = true) :
    outMemWf (execHarvest ctx rearm s) = true := by
  unfold execHarvest
  simp +contextual (maxDischargeDepth := 60) only [↓EngAcc.fault_memWf, ↓EngAcc.ite_memWf, ↓EngAcc.ok_memWf, ↓EngAcc.poison_memWf, ↓EngAcc.wait_memWf, ↓EngAcc.window_memWf, ↓State.rearm_memWf, ↓State.startHarvest_memWf, ↓Xl.fail_memWf, ↓Xl.ite_memWf, ↓Xl.ok_memWf, ↓Xl.wait_memWf, ↓outMemWf_fault, ↓outMemWf_ite, ↓outMemWf_next, hs, implies_true]

@[simp ↓] theorem execHarvestComplete_memWf (s : State) (hs : s.memWf = true) :
    outMemWf (execHarvestComplete s) = true := by
  unfold execHarvestComplete
  (try dsimp only)
  repeat' first | with_reducible assumption | with_reducible rfl | (intro _) | with_reducible apply Core.acc_wf | with_reducible apply Core.banks_wf | with_reducible apply Core.istore_wf | with_reducible apply Core.iteFst_memWf | with_reducible apply Core.ite_memWf | with_reducible apply Core.rf_wf | with_reducible apply Core.store_wf | with_reducible apply EngAcc.fault_memWf | with_reducible apply EngAcc.ite_memWf | with_reducible apply EngAcc.ok_memWf | with_reducible apply EngAcc.poison_memWf | with_reducible apply EngAcc.wait_memWf | with_reducible apply EngAcc.window_memWf | with_reducible apply Res.ite_memWf | with_reducible apply State.cap_wf | with_reducible apply State.cores_wf | with_reducible apply State.hbm_wf | with_reducible apply State.hostDone_memWf | with_reducible apply State.iteFst_memWf | with_reducible apply State.ite_memWf | with_reducible apply State.post_memWf | with_reducible apply State.rearm_memWf | with_reducible apply Xl.fail_memWf | with_reducible apply Xl.ite_memWf | with_reducible apply Xl.ok_memWf | with_reducible apply Xl.wait_memWf | with_reducible apply outMemWf_fault | with_reducible apply outMemWf_ite | with_reducible apply outMemWf_next | (refine EngAcc.ok_of_eq ?_ (by with_reducible assumption)) | (refine EngAcc.poison_of_eq ?_ (by with_reducible assumption)) | (refine EngAcc.fault_of_eq ?_ (by with_reducible assumption)) | (refine EngAcc.window_of_eq ?_ (by with_reducible assumption)) | (refine EngAcc.wait_of_eq ?_ (by with_reducible assumption)) | (refine Pages.ok_of_eq ?_ (by with_reducible assumption)) | (refine Pages.fail_of_eq ?_ (by with_reducible assumption)) | (refine Pages.wait_of_eq ?_ (by with_reducible assumption)) | (refine State.fst_of_eq ?_ (by with_reducible assumption)) | (refine Core.fst_of_eq ?_ (by with_reducible assumption)) | split | (with_reducible refine State.mk_memWf ?_ ?_ ?_) | (with_reducible refine Core.mk_memWf ?_ ?_ ?_ ?_ ?_)

end Sys2Proof.Machine
end

