-- ==== Sys2Proof/Laws/CanonHost.lean ====
section
/-! SUPPORT. Power, bring-up and the host side keep the canonical form of storage. -/

set_option linter.unusedSimpArgs false

namespace Sys2Proof.Machine

@[simp ↓] theorem State.syncCapped_memWf (s : State) (d : Nat) (hs : s.memWf = true) :
    (State.syncCapped s d).memWf = true := by
  unfold State.syncCapped
  simp +contextual (maxDischargeDepth := 60) only [↓State.setField_memWf, hs, implies_true]

@[simp ↓] theorem State.setStep_memWf (s : State) (d step : Nat) (hs : s.memWf = true) :
    (State.setStep s d step).memWf = true := by
  unfold State.setStep
  simp +contextual (maxDischargeDepth := 60) only [↓Core.iteFst_memWf, ↓Core.ite_memWf, ↓Res.ite_memWf, ↓State.iteFst_memWf, ↓State.ite_memWf, ↓State.postOnce_memWf, ↓State.setField_memWf, hs, implies_true]

@[simp ↓] theorem execHedgeGovernorSample_memWf (d occ : Nat) (s : State) (hs : s.memWf = true) :
    outMemWf (execHedgeGovernorSample d occ s) = true := by
  unfold execHedgeGovernorSample
  (try dsimp only)
  repeat' first | with_reducible assumption | with_reducible rfl | (intro _) | with_reducible apply Core.acc_wf | with_reducible apply Core.banks_wf | with_reducible apply Core.istore_wf | with_reducible apply Core.iteFst_memWf | with_reducible apply Core.ite_memWf | with_reducible apply Core.rf_wf | with_reducible apply Core.store_wf | with_reducible apply Res.ite_memWf | with_reducible apply State.cap_wf | with_reducible apply State.cores_wf | with_reducible apply State.hbm_wf | with_reducible apply State.iteFst_memWf | with_reducible apply State.ite_memWf | with_reducible apply State.modDie_memWf | with_reducible apply State.setStep_memWf | with_reducible apply outMemWf_fault | with_reducible apply outMemWf_ite | with_reducible apply outMemWf_next | (refine EngAcc.ok_of_eq ?_ (by with_reducible assumption)) | (refine EngAcc.poison_of_eq ?_ (by with_reducible assumption)) | (refine EngAcc.fault_of_eq ?_ (by with_reducible assumption)) | (refine EngAcc.window_of_eq ?_ (by with_reducible assumption)) | (refine EngAcc.wait_of_eq ?_ (by with_reducible assumption)) | (refine Pages.ok_of_eq ?_ (by with_reducible assumption)) | (refine Pages.fail_of_eq ?_ (by with_reducible assumption)) | (refine Pages.wait_of_eq ?_ (by with_reducible assumption)) | (refine State.fst_of_eq ?_ (by with_reducible assumption)) | (refine Core.fst_of_eq ?_ (by with_reducible assumption)) | split | (with_reducible refine State.mk_memWf ?_ ?_ ?_) | (with_reducible refine Core.mk_memWf ?_ ?_ ?_ ?_ ?_)

@[simp ↓] theorem execHedgeChangeComplete_memWf (d : Nat) (s : State) (hs : s.memWf = true) :
    outMemWf (execHedgeChangeComplete d s) = true := by
  unfold execHedgeChangeComplete
  simp +contextual (maxDischargeDepth := 60) only [↓State.setField_memWf, ↓outMemWf_fault, ↓outMemWf_ite, ↓outMemWf_next, hs, implies_true]

@[simp ↓] theorem State.writeHedge_memWf (s : State) (d : Nat) (v : Word) (hs : s.memWf = true) :
    (State.writeHedge s d v).memWf = true := by
  unfold State.writeHedge
  simp +contextual (maxDischargeDepth := 60) only [↓Core.iteFst_memWf, ↓Core.ite_memWf, ↓Res.ite_memWf, ↓State.iteFst_memWf, ↓State.ite_memWf, ↓State.setCtl_memWf, ↓State.setStep_memWf, ↓State.syncCapped_memWf, hs, implies_true]

@[simp ↓] theorem execHedgeCtlWrite_memWf (d : Nat) (v : Word) (s : State) (hs : s.memWf = true) :
    outMemWf (execHedgeCtlWrite d v s) = true := by
  unfold execHedgeCtlWrite
  simp +contextual (maxDischargeDepth := 60) only [↓State.writeHedge_memWf, ↓outMemWf_fault, ↓outMemWf_ite, ↓outMemWf_next, hs, implies_true]

@[simp ↓] theorem State.syncAllCapped_memWf (s : State) (hs : s.memWf = true) :
    (State.syncAllCapped s).memWf = true := by
  unfold State.syncAllCapped
  simp +contextual (maxDischargeDepth := 60) only [↓Core.foldlFst_memWf, ↓Core.foldl_memWf, ↓State.foldlFst_memWf, ↓State.foldl_memWf, ↓State.syncCapped_memWf, hs, implies_true]

@[simp ↓] theorem State.senseAlarm_memWf (s : State) (hs : s.memWf = true) :
    (State.senseAlarm s).memWf = true := by
  unfold State.senseAlarm
  simp +contextual (maxDischargeDepth := 60) only [↓Core.iteFst_memWf, ↓Core.ite_memWf, ↓Res.ite_memWf, ↓State.iteFst_memWf, ↓State.ite_memWf, ↓State.setField_memWf, ↓State.syncAllCapped_memWf, hs, implies_true]

@[simp ↓] theorem execPowerAlarmRaise_memWf (reading : Nat) (s : State) (hs : s.memWf = true) :
    outMemWf (execPowerAlarmRaise reading s) = true := by
  unfold execPowerAlarmRaise
  simp +contextual (maxDischargeDepth := 60) only [↓Core.acc_wf, ↓Core.banks_wf, ↓Core.istore_wf, ↓Core.mk_memWf, ↓Core.rf_wf, ↓Core.store_wf, ↓State.cap_wf, ↓State.cores_wf, ↓State.hbm_wf, ↓State.mk_memWf, ↓State.senseAlarm_memWf, ↓State.setField_memWf, ↓outMemWf_fault, ↓outMemWf_ite, ↓outMemWf_next, hs, implies_true]

@[simp ↓] theorem execPowerAlarmClear_memWf (s : State) (hs : s.memWf = true) :
    outMemWf (execPowerAlarmClear s) = true := by
  unfold execPowerAlarmClear
  simp +contextual (maxDischargeDepth := 60) only [↓Core.iteFst_memWf, ↓Core.ite_memWf, ↓Res.ite_memWf, ↓State.iteFst_memWf, ↓State.ite_memWf, ↓State.setField_memWf, ↓State.syncAllCapped_memWf, ↓outMemWf_fault, ↓outMemWf_ite, ↓outMemWf_next, hs, implies_true]

@[simp ↓] theorem State.crashImage_memWf (s : State) (cause die lcore : Nat) (hs : s.memWf = true) :
    (State.crashImage s cause die lcore).1.memWf = true := by
  unfold State.crashImage
  simp +contextual (maxDischargeDepth := 60) only [↓Core.foldlFst_memWf, ↓Core.foldl_memWf, ↓Mem.nil_wf, ↓State.core_memWf, ↓State.foldlFst_memWf, ↓State.foldl_memWf, ↓State.freeBytes_memWf, ↓State.mapCores_wf, ↓State.nil_wf, hs, implies_true]

@[simp ↓] theorem State.signalFatal_memWf (s : State) (cause : Nat) (hs : s.memWf = true) :
    (State.signalFatal s cause).memWf = true := by
  unfold State.signalFatal
  simp +contextual (maxDischargeDepth := 60) only [↓State.emit_memWf, ↓State.setField_memWf, hs, implies_true]

@[simp ↓] theorem State.stopCores_memWf (s : State) (hs : s.memWf = true) :
    (State.stopCores s).memWf = true := by
  unfold State.stopCores
  simp +contextual (maxDischargeDepth := 60) only [↓Core.acc_wf, ↓Core.banks_wf, ↓Core.foldlFst_memWf, ↓Core.foldl_memWf, ↓Core.istore_wf, ↓Core.mk_memWf, ↓Core.rf_wf, ↓Core.store_wf, ↓State.cap_wf, ↓State.cores_wf, ↓State.foldlFst_memWf, ↓State.foldl_memWf, ↓State.hbm_wf, ↓State.mk_memWf, ↓State.modCore_memWf, hs, implies_true]

@[simp ↓] theorem execFatalError_memWf (cause die lcore : Nat) (s : State) (hs : s.memWf = true) :
    outMemWf (execFatalError cause die lcore s) = true := by
  unfold execFatalError
  (try dsimp only)
  repeat' split
  all_goals first | with_reducible assumption | with_reducible rfl | (simp +contextual (maxDischargeDepth := 60) only [↓Core.acc_wf, ↓Core.banks_wf, ↓Core.istore_wf, ↓Core.iteFst_memWf, ↓Core.ite_memWf, ↓Core.mk_memWf, ↓Core.rf_wf, ↓Core.store_wf, ↓Res.ite_memWf, ↓State.cap_wf, ↓State.cores_wf, ↓State.crashImage_memWf, ↓State.hbm_wf, ↓State.homeWrite_memWf, ↓State.iteFst_memWf, ↓State.ite_memWf, ↓State.mk_memWf, ↓State.post_memWf, ↓State.signalFatal_memWf, ↓State.stopCores_memWf, ↓outMemWf_fault, ↓outMemWf_ite, ↓outMemWf_next, hs, implies_true]) | grind [Core.iteFst_memWf, State.crashImage_memWf, State.iteFst_memWf, State.post_memWf, State.signalFatal_memWf, State.stopCores_memWf, Xl.memWf, EngAcc.memWf]

@[simp ↓] theorem execCrashWriteTimeout_memWf (s : State) (hs : s.memWf = true) :
    outMemWf (execCrashWriteTimeout s) = true := by
  unfold execCrashWriteTimeout
  (try dsimp only)
  repeat' first | with_reducible assumption | with_reducible rfl | (intro _) | with_reducible apply Core.acc_wf | with_reducible apply Core.banks_wf | with_reducible apply Core.istore_wf | with_reducible apply Core.iteFst_memWf | with_reducible apply Core.ite_memWf | with_reducible apply Core.rf_wf | with_reducible apply Core.store_wf | with_reducible apply Res.ite_memWf | with_reducible apply State.cap_wf | with_reducible apply State.cores_wf | with_reducible apply State.hbm_wf | with_reducible apply State.homeWrite_memWf | with_reducible apply State.iteFst_memWf | with_reducible apply State.ite_memWf | with_reducible apply State.signalFatal_memWf | with_reducible apply outMemWf_fault | with_reducible apply outMemWf_ite | with_reducible apply outMemWf_next | (refine EngAcc.ok_of_eq ?_ (by with_reducible assumption)) | (refine EngAcc.poison_of_eq ?_ (by with_reducible assumption)) | (refine EngAcc.fault_of_eq ?_ (by with_reducible assumption)) | (refine EngAcc.window_of_eq ?_ (by with_reducible assumption)) | (refine EngAcc.wait_of_eq ?_ (by with_reducible assumption)) | (refine Pages.ok_of_eq ?_ (by with_reducible assumption)) | (refine Pages.fail_of_eq ?_ (by with_reducible assumption)) | (refine Pages.wait_of_eq ?_ (by with_reducible assumption)) | (refine State.fst_of_eq ?_ (by with_reducible assumption)) | (refine Core.fst_of_eq ?_ (by with_reducible assumption)) | split | (with_reducible refine State.mk_memWf ?_ ?_ ?_) | (with_reducible refine Core.mk_memWf ?_ ?_ ?_ ?_ ?_)

@[simp ↓] theorem execThermalTrip_memWf (d : Nat) (s : State) (hs : s.memWf = true) :
    outMemWf (execThermalTrip d s) = true := by
  unfold execThermalTrip
  simp +contextual (maxDischargeDepth := 60) only [↓Core.acc_wf, ↓Core.banks_wf, ↓Core.istore_wf, ↓Core.mk_memWf, ↓Core.rf_wf, ↓Core.store_wf, ↓State.cap_wf, ↓State.cores_wf, ↓State.hbm_wf, ↓State.mk_memWf, ↓State.post_memWf, ↓outMemWf_fault, ↓outMemWf_ite, ↓outMemWf_next, hs, implies_true]

@[simp ↓] theorem Core.placeFirmware_memWf (k : Core) (id first slots : Nat) (words : List Word) (hk : k.memWf = true) :
    (Core.placeFirmware k id first slots words).memWf = true := by
  unfold Core.placeFirmware
  simp +contextual (maxDischargeDepth := 60) only [↓Core.acc_wf, ↓Core.banks_wf, ↓Core.istore_wf, ↓Core.mk_memWf, ↓Core.rf_wf, ↓Core.store_wf, ↓Mem.wf_clear, ↓Mem.wf_filter, ↓Mem.wf_set, ↓Mem.wf_write, ↓State.cap_wf, ↓State.cores_wf, ↓State.hbm_wf, ↓State.mk_memWf, hk, implies_true]

@[simp ↓] theorem State.startSupervisor_memWf (s : State) (c : Nat) (pc : Word) (hs : s.memWf = true) :
    (State.startSupervisor s c pc).memWf = true := by
  unfold State.startSupervisor
  simp +contextual (maxDischargeDepth := 60) only [↓Core.acc_wf, ↓Core.banks_wf, ↓Core.enterOv_memWf, ↓Core.istore_wf, ↓Core.mk_memWf, ↓Core.recount_memWf, ↓Core.rf_wf, ↓Core.store_wf, ↓State.cap_wf, ↓State.cores_wf, ↓State.hbm_wf, ↓State.mk_memWf, ↓State.modCore_memWf, hs, implies_true]

@[simp ↓] theorem State.sendNear_memWf (s : State) (c port : Nat) (msg : List Word) (hs : s.memWf = true) :
    (State.sendNear s c port msg).memWf = true := by
  unfold State.sendNear
  simp +contextual (maxDischargeDepth := 60) only [↓Core.iteFst_memWf, ↓Core.ite_memWf, ↓Res.ite_memWf, ↓State.ctlTo_memWf, ↓State.iteFst_memWf, ↓State.ite_memWf, ↓State.post_memWf, hs, implies_true]

@[simp ↓] theorem State.toRoot_memWf (s : State) (op low : Nat) (hs : s.memWf = true) :
    (State.toRoot s op low).memWf = true := by
  unfold State.toRoot
  cases s.physical 0 with
  | none => exact hs
  | some root => exact State.ctlTo_memWf _ _ _ _ _ _ hs

@[simp ↓] theorem State.setStepNo_memWf (s : State) (n : Nat) (hs : s.memWf = true) :
    (State.setStepNo s n).memWf = true := by
  unfold State.setStepNo
  simp +contextual (maxDischargeDepth := 60) only [↓State.setField_memWf, hs, implies_true]

@[simp ↓] theorem State.setBootError_memWf (s : State) (n : Nat) (hs : s.memWf = true) :
    (State.setBootError s n).memWf = true := by
  unfold State.setBootError
  simp +contextual (maxDischargeDepth := 60) only [↓State.setField_memWf, hs, implies_true]

@[simp ↓] theorem State.endStaging_memWf (s : State) (result : Nat) (hs : s.memWf = true) :
    (State.endStaging s result).memWf = true := by
  unfold State.endStaging
  simp +contextual (maxDischargeDepth := 60) only [↓Core.iteFst_memWf, ↓Core.ite_memWf, ↓Res.ite_memWf, ↓State.hostDone_memWf, ↓State.iteFst_memWf, ↓State.ite_memWf, hs, implies_true]

@[simp ↓] theorem State.bootError_memWf (s : State) (code : Nat) (hs : s.memWf = true) :
    (State.bootError s code).memWf = true := by
  unfold State.bootError
  simp +contextual (maxDischargeDepth := 60) only [↓Core.acc_wf, ↓Core.banks_wf, ↓Core.istore_wf, ↓Core.mk_memWf, ↓Core.rf_wf, ↓Core.store_wf, ↓State.cap_wf, ↓State.cores_wf, ↓State.endStaging_memWf, ↓State.hbm_wf, ↓State.mk_memWf, ↓State.setBootError_memWf, hs, implies_true]

@[simp ↓] theorem State.failBoot_memWf (s : State) (code : Nat) (hs : s.memWf = true) :
    (State.failBoot s code).memWf = true := by
  unfold State.failBoot
  simp +contextual (maxDischargeDepth := 60) only [↓Core.acc_wf, ↓Core.banks_wf, ↓Core.istore_wf, ↓Core.mk_memWf, ↓Core.rf_wf, ↓Core.store_wf, ↓State.bootError_memWf, ↓State.cap_wf, ↓State.cores_wf, ↓State.hbm_wf, ↓State.mk_memWf, ↓State.toRoot_memWf, hs, implies_true]

@[simp ↓] theorem execDisc_memWf (c port idx : Nat) (s : State) (hs : s.memWf = true) :
    outMemWf (execDisc c port idx s) = true := by
  unfold execDisc
  simp +contextual (maxDischargeDepth := 60) only [↓Core.acc_wf, ↓Core.banks_wf, ↓Core.foldlFst_memWf, ↓Core.foldl_memWf, ↓Core.istore_wf, ↓Core.iteFst_memWf, ↓Core.ite_memWf, ↓Core.mk_memWf, ↓Core.rf_wf, ↓Core.store_wf, ↓Mem.wf_clear, ↓Mem.wf_filter, ↓Mem.wf_set, ↓Mem.wf_write, ↓Res.ite_memWf, ↓State.cap_wf, ↓State.core_memWf, ↓State.cores_wf, ↓State.foldlFst_memWf, ↓State.foldl_memWf, ↓State.hbm_wf, ↓State.iteFst_memWf, ↓State.ite_memWf, ↓State.mk_memWf, ↓State.modCore_memWf, ↓State.sendNear_memWf, ↓outMemWf_fault, ↓outMemWf_ite, ↓outMemWf_next, hs, implies_true]

@[simp ↓] theorem execReport_memWf (c : Nat) (msg : Words) (s : State) (hs : s.memWf = true) :
    outMemWf (execReport c msg s) = true := by
  unfold execReport
  (try dsimp only)
  repeat' first | with_reducible assumption | with_reducible rfl | (intro _) | with_reducible apply Core.acc_wf | with_reducible apply Core.banks_wf | with_reducible apply Core.istore_wf | with_reducible apply Core.rf_wf | with_reducible apply Core.store_wf | with_reducible apply State.cap_wf | with_reducible apply State.core_memWf | with_reducible apply State.cores_wf | with_reducible apply State.hbm_wf | with_reducible apply State.sendNear_memWf | with_reducible apply outMemWf_fault | with_reducible apply outMemWf_ite | with_reducible apply outMemWf_next | (refine EngAcc.ok_of_eq ?_ (by with_reducible assumption)) | (refine EngAcc.poison_of_eq ?_ (by with_reducible assumption)) | (refine EngAcc.fault_of_eq ?_ (by with_reducible assumption)) | (refine EngAcc.window_of_eq ?_ (by with_reducible assumption)) | (refine EngAcc.wait_of_eq ?_ (by with_reducible assumption)) | (refine Pages.ok_of_eq ?_ (by with_reducible assumption)) | (refine Pages.fail_of_eq ?_ (by with_reducible assumption)) | (refine Pages.wait_of_eq ?_ (by with_reducible assumption)) | (refine State.fst_of_eq ?_ (by with_reducible assumption)) | (refine Core.fst_of_eq ?_ (by with_reducible assumption)) | split | (with_reducible refine State.mk_memWf ?_ ?_ ?_) | (with_reducible refine Core.mk_memWf ?_ ?_ ?_ ?_ ?_)

@[simp ↓] theorem execImg_memWf (c p : Nat) (msg : Words) (s : State) (hs : s.memWf = true) :
    outMemWf (execImg c p msg s) = true := by
  have tell : ∀ (u : State) (t : Nat) (m : List Word), u.memWf = true →
      ((u.physical t).elim u fun q => u.ctlTo c q (u.coreSource c) m).memWf = true := by
    intro u t m hu
    cases u.physical t with
    | none => exact hu
    | some q => exact State.ctlTo_memWf _ _ _ _ _ _ hu
  have h := State.modCore_memWf hs
    (f := fun k => k.writeStore (msg.getD 1 0).toNat ((s.core p).readStore (msg.getD 1 0).toNat (msg.getD 2 0).toNat))
    (fun k hk => Core.writeStore_memWf k _ _ hk) c
  unfold execImg
  exact tell _ _ _ (State.foldl_memWf h (fun u j hu => tell _ _ _ hu) _)

@[simp ↓] theorem State.mapTable_memWf (s : State) (hs : s.memWf = true) :
    (State.mapTable s).1.memWf = true := by
  unfold State.mapTable
  simp +contextual (maxDischargeDepth := 60) only [↓Mem.nil_wf, ↓State.homeRead_memWf, ↓State.mapCores_wf, ↓State.nil_wf, hs, implies_true]

@[simp ↓] theorem execMapDone_memWf (n : Nat) (s : State) (hs : s.memWf = true) :
    outMemWf (execMapDone n s) = true := by
  unfold execMapDone
  split
  · exact hs
  · split
    · exact State.post_memWf _ _ hs
    · split
      rename_i s1 t e
      have h1 : s1.memWf = true := State.fst_of_eq (State.mapTable_memWf _ hs) e
      clear e
      split
      · refine outMemWf_next (State.toRoot_memWf _ _ _ (State.setStepNo_memWf _ _ ?_))
        cases s1.physical 0 with
        | none => exact h1
        | some r => exact State.modCore_memWf h1 (fun k hk => Core.wake_memWf _ _ hk) _
      · exact outMemWf_next (State.failBoot_memWf _ _ h1)

@[simp ↓] theorem execBootTimerExpiry_memWf (s : State) (hs : s.memWf = true) :
    outMemWf (execBootTimerExpiry s) = true := by
  unfold execBootTimerExpiry
  simp +contextual (maxDischargeDepth := 60) only [↓Core.iteFst_memWf, ↓Core.ite_memWf, ↓Res.ite_memWf, ↓State.failBoot_memWf, ↓State.iteFst_memWf, ↓State.ite_memWf, ↓outMemWf_fault, ↓outMemWf_ite, ↓outMemWf_next, hs, implies_true]

@[simp ↓] theorem execImageDeliveryTimeout_memWf (s : State) (hs : s.memWf = true) :
    outMemWf (execImageDeliveryTimeout s) = true := by
  unfold execImageDeliveryTimeout
  simp +contextual (maxDischargeDepth := 60) only [↓Core.iteFst_memWf, ↓Core.ite_memWf, ↓Res.ite_memWf, ↓State.failBoot_memWf, ↓State.iteFst_memWf, ↓State.ite_memWf, ↓outMemWf_fault, ↓outMemWf_ite, ↓outMemWf_next, hs, implies_true]

@[simp ↓] theorem State.layOut_memWf (s : State) (hs : s.memWf = true) :
    (State.layOut s).memWf = true := by
  unfold State.layOut
  simp +contextual (maxDischargeDepth := 60) only [↓Core.acc_wf, ↓Core.banks_wf, ↓Core.foldlFst_memWf, ↓Core.foldl_memWf, ↓Core.istore_wf, ↓Core.iteFst_memWf, ↓Core.ite_memWf, ↓Core.mk_memWf, ↓Core.rf_wf, ↓Core.store_wf, ↓Mem.wf_clear, ↓Mem.wf_filter, ↓Mem.wf_set, ↓Mem.wf_write, ↓Res.ite_memWf, ↓State.cap_wf, ↓State.cores_wf, ↓State.foldlFst_memWf, ↓State.foldl_memWf, ↓State.hbm_wf, ↓State.iteFst_memWf, ↓State.ite_memWf, ↓State.mk_memWf, ↓State.modDie_memWf, hs, implies_true]

@[simp ↓] theorem execBooted_memWf (s : State) (hs : s.memWf = true) :
    outMemWf (execBooted s) = true := by
  unfold execBooted
  simp +contextual (maxDischargeDepth := 60) only [↓Core.acc_wf, ↓Core.banks_wf, ↓Core.foldlFst_memWf, ↓Core.foldl_memWf, ↓Core.istore_wf, ↓Core.iteFst_memWf, ↓Core.ite_memWf, ↓Core.mk_memWf, ↓Core.placeFirmware_memWf, ↓Core.rf_wf, ↓Core.store_wf, ↓Res.ite_memWf, ↓State.cap_wf, ↓State.cores_wf, ↓State.endStaging_memWf, ↓State.foldlFst_memWf, ↓State.foldl_memWf, ↓State.hbm_wf, ↓State.iteFst_memWf, ↓State.ite_memWf, ↓State.layOut_memWf, ↓State.mk_memWf, ↓State.modCore_memWf, ↓State.setField_memWf, ↓State.setStepNo_memWf, ↓State.startSupervisor_memWf, ↓outMemWf_fault, ↓outMemWf_ite, ↓outMemWf_next, hs, implies_true]

@[simp ↓] theorem State.writeSplit_memWf (s : State) (v : Nat) (hs : s.memWf = true) :
    (State.writeSplit s v).memWf = true := by
  unfold State.writeSplit
  simp +contextual (maxDischargeDepth := 60) only [↓Core.acc_wf, ↓Core.banks_wf, ↓Core.istore_wf, ↓Core.iteFst_memWf, ↓Core.ite_memWf, ↓Core.mk_memWf, ↓Core.rf_wf, ↓Core.store_wf, ↓Res.ite_memWf, ↓State.cap_wf, ↓State.cores_wf, ↓State.hbm_wf, ↓State.iteFst_memWf, ↓State.ite_memWf, ↓State.mk_memWf, ↓State.post_memWf, ↓State.setField_memWf, hs, implies_true]

@[simp ↓] theorem State.settleSlices_memWf (s : State) (hs : s.memWf = true) :
    (State.settleSlices s).memWf = true := by
  unfold State.settleSlices
  simp +contextual (maxDischargeDepth := 60) only [↓Core.acc_wf, ↓Core.banks_wf, ↓Core.foldlFst_memWf, ↓Core.foldl_memWf, ↓Core.istore_wf, ↓Core.iteFst_memWf, ↓Core.ite_memWf, ↓Core.mk_memWf, ↓Core.rf_wf, ↓Core.store_wf, ↓Res.ite_memWf, ↓State.cap_wf, ↓State.cores_wf, ↓State.foldlFst_memWf, ↓State.foldl_memWf, ↓State.hbm_wf, ↓State.iteFst_memWf, ↓State.ite_memWf, ↓State.mk_memWf, ↓State.setSlice_memWf, ↓State.settleLine_memWf, ↓State.writeBack_memWf, hs, implies_true]

@[simp ↓] theorem State.relocate_memWf (s : State) (hs : s.memWf = true) : (State.relocate s).memWf = true := by
  have h1 := State.settleSlices_memWf s hs
  have h2 := State.setField_memWf _ 0x20 31 31 0 (State.setField_memWf _ 0x20 13 0 (State.settleSlices s).splitNext h1)
  unfold State.relocate
  refine State.mk_memWf ?_ (State.cap_wf h2) ?_
  · refine List.foldlRecOn _ _ (motive := fun m => Mem.wf (n := 8) m = true) (Mem.wf_filter (State.hbm_wf h1)) ?_
    intro m hm cell _
    exact Mem.wf_set hm
  · have h3 := State.cores_wf h2
    rw [List.all_eq_true] at h3 ⊢
    intro q hq
    obtain ⟨p, hp, rfl⟩ := List.mem_map.1 hq
    exact h3 p hp

@[simp ↓] theorem execHbmSplitWrite_memWf (v : Word) (s : State) (hs : s.memWf = true) :
    outMemWf (execHbmSplitWrite v s) = true := by
  unfold execHbmSplitWrite
  simp +contextual (maxDischargeDepth := 60) only [↓State.writeSplit_memWf, ↓outMemWf_fault, ↓outMemWf_ite, ↓outMemWf_next, hs, implies_true]

@[simp ↓] theorem execHbmSplitRelocateDone_memWf (s : State) (hs : s.memWf = true) :
    outMemWf (execHbmSplitRelocateDone s) = true := by
  unfold execHbmSplitRelocateDone
  simp +contextual (maxDischargeDepth := 60) only [↓Core.iteFst_memWf, ↓Core.ite_memWf, ↓Res.ite_memWf, ↓State.iteFst_memWf, ↓State.ite_memWf, ↓State.relocate_memWf, ↓outMemWf_fault, ↓outMemWf_ite, ↓outMemWf_next, hs, implies_true]

@[simp ↓] theorem State.afterReset_memWf (s : State) (hs : s.memWf = true) : (State.afterReset s).memWf = true := by
  unfold State.afterReset
  have h : (if s.field 0x20 13 0 = 8192 then s.settleSlices else ({ s with splitNext := 8192 } : State).relocate).memWf = true :=
    State.ite_memWf (State.settleSlices_memWf _ hs)
      (State.relocate_memWf _ (State.mk_memWf (State.hbm_wf hs) (State.cap_wf hs) (State.cores_wf hs)))
  exact State.mk_memWf (State.hbm_wf h) (State.cap_wf h) rfl

@[simp ↓] theorem State.firmware_memWf (s : State) (staging : Bool) (hs : s.memWf = true) :
    (State.firmware s staging).1.memWf = true := by
  unfold State.firmware
  generalize codeBytes + bootBytes = n
  split
  · exact State.readBlock_memWf _ _ _ _ hs
  · exact hs

@[simp ↓] theorem State.bringUp_memWf (s : State) (staging : Bool) (verdict : Nat) (hs : s.memWf = true) :
    (State.bringUp s staging verdict).memWf = true := by
  unfold State.bringUp
  extract_lets s0
  have h0 : s0.memWf = true := State.setStepNo_memWf _ _ (State.setStepNo_memWf _ _ hs)
  clear_value s0
  split
  rename_i s1 image e
  have h1 : s1.memWf = true := State.fst_of_eq (State.firmware_memWf _ staging h0) e
  clear e
  extract_lets s2 s3
  have h2 : s2.memWf = true := by
    dsimp only [s2]
    cases s1.physical 0 with
    | none => exact h1
    | some r => exact State.modCore_memWf h1 (fun k hk => Core.writeStore_memWf _ _ _ hk) _
  have h3 : s3.memWf = true := State.setStepNo_memWf _ _ h2
  clear_value s3
  split
  · exact State.bootError_memWf _ _ h3
  · split
    · exact State.bootError_memWf _ _ h3
    · have h4 := State.modCore_memWf h3 (f := fun k => k.placeFirmware 1 (codeBytes / 4096) 1 (wordsOf (image.drop codeBytes)))
        (fun k hk => Core.placeFirmware_memWf _ _ _ _ _ hk)
      exact State.startSupervisor_memWf _ _ _ (State.setField_memWf _ _ _ _ _ (State.setStepNo_memWf _ _
        (State.mk_memWf (State.hbm_wf (h4 _)) (State.cap_wf (h4 _)) (State.cores_wf (h4 _)))))

@[simp ↓] theorem execFundamentalReset_memWf (verdict : Nat) (s : State) (hs : s.memWf = true) :
    outMemWf (execFundamentalReset verdict s) = true := by
  unfold execFundamentalReset
  simp +contextual (maxDischargeDepth := 60) only [↓State.afterReset_memWf, ↓State.bringUp_memWf, ↓outMemWf_fault, ↓outMemWf_ite, ↓outMemWf_next, hs, implies_true]

@[simp ↓] theorem execSecondaryBusReset_memWf (verdict : Nat) (s : State) (hs : s.memWf = true) :
    outMemWf (execSecondaryBusReset verdict s) = true := by
  unfold execSecondaryBusReset
  simp +contextual (maxDischargeDepth := 60) only [↓State.afterReset_memWf, ↓State.bringUp_memWf, ↓outMemWf_fault, ↓outMemWf_ite, ↓outMemWf_next, hs, implies_true]

@[simp ↓] theorem State.bootStaging_memWf (s : State) (hs : s.memWf = true) :
    (State.bootStaging s).memWf = true := by
  unfold State.bootStaging
  simp +contextual (maxDischargeDepth := 60) only [↓Core.acc_wf, ↓Core.banks_wf, ↓Core.istore_wf, ↓Core.iteFst_memWf, ↓Core.ite_memWf, ↓Core.mk_memWf, ↓Core.rf_wf, ↓Core.store_wf, ↓Res.ite_memWf, ↓State.afterReset_memWf, ↓State.bringUp_memWf, ↓State.cap_wf, ↓State.cores_wf, ↓State.hbm_wf, ↓State.iteFst_memWf, ↓State.ite_memWf, ↓State.mk_memWf, ↓State.setCtl_memWf, hs, implies_true]

@[simp ↓] theorem execBootFromStaging_memWf (s : State) (hs : s.memWf = true) :
    outMemWf (execBootFromStaging s) = true := by
  unfold execBootFromStaging
  simp +contextual (maxDischargeDepth := 60) only [↓State.bootStaging_memWf, ↓outMemWf_fault, ↓outMemWf_ite, ↓outMemWf_next, hs, implies_true]

@[simp ↓] theorem State.putPlain_memWf (s : State) (off : Nat) (m v : DWord) (hs : s.memWf = true) :
    (State.putPlain s off m v).memWf = true := by
  unfold State.putPlain
  simp +contextual (maxDischargeDepth := 60) only [↓Core.iteFst_memWf, ↓Core.ite_memWf, ↓Res.ite_memWf, ↓State.iteFst_memWf, ↓State.ite_memWf, ↓State.setCtl_memWf, hs, implies_true]

@[simp ↓] theorem State.setPoolAll_memWf (s : State) (n : Nat) (hs : s.memWf = true) :
    (State.setPoolAll s n).memWf = true := by
  unfold State.setPoolAll
  simp +contextual (maxDischargeDepth := 60) only [↓Core.foldlFst_memWf, ↓Core.foldl_memWf, ↓Core.iteFst_memWf, ↓Core.ite_memWf, ↓Res.ite_memWf, ↓State.foldlFst_memWf, ↓State.foldl_memWf, ↓State.hostDone_memWf, ↓State.iteFst_memWf, ↓State.ite_memWf, ↓State.setField_memWf, ↓State.setPool_memWf, hs, implies_true]

@[simp ↓] theorem State.writeHostCmd_memWf (s : State) (v : DWord) (hs : s.memWf = true) :
    (State.writeHostCmd s v).memWf = true := by
  unfold State.writeHostCmd
  (try dsimp only)
  repeat' first | with_reducible assumption | with_reducible rfl | (intro _) | with_reducible apply Core.acc_wf | with_reducible apply Core.banks_wf | with_reducible apply Core.istore_wf | with_reducible apply Core.iteFst_memWf | with_reducible apply Core.ite_memWf | with_reducible apply Core.rf_wf | with_reducible apply Core.store_wf | with_reducible apply Res.ite_memWf | with_reducible apply State.bootStaging_memWf | with_reducible apply State.cap_wf | with_reducible apply State.cores_wf | with_reducible apply State.hbm_wf | with_reducible apply State.iteFst_memWf | with_reducible apply State.ite_memWf | with_reducible apply State.retireScene_memWf | with_reducible apply State.setCtl_memWf | with_reducible apply State.setPoolAll_memWf | with_reducible apply State.startHarvest_memWf | (refine EngAcc.ok_of_eq ?_ (by with_reducible assumption)) | (refine EngAcc.poison_of_eq ?_ (by with_reducible assumption)) | (refine EngAcc.fault_of_eq ?_ (by with_reducible assumption)) | (refine EngAcc.window_of_eq ?_ (by with_reducible assumption)) | (refine EngAcc.wait_of_eq ?_ (by with_reducible assumption)) | (refine Pages.ok_of_eq ?_ (by with_reducible assumption)) | (refine Pages.fail_of_eq ?_ (by with_reducible assumption)) | (refine Pages.wait_of_eq ?_ (by with_reducible assumption)) | (refine State.fst_of_eq ?_ (by with_reducible assumption)) | (refine Core.fst_of_eq ?_ (by with_reducible assumption)) | split | (with_reducible refine State.mk_memWf ?_ ?_ ?_) | (with_reducible refine Core.mk_memWf ?_ ?_ ?_ ?_ ?_)

@[simp ↓] theorem State.sendMail_memWf (s : State) (m : Nat) (hs : s.memWf = true) :
    (State.sendMail s m).memWf = true := by
  unfold State.sendMail
  (try dsimp only)
  repeat' first | with_reducible assumption | with_reducible rfl | (intro _) | with_reducible apply Core.acc_wf | with_reducible apply Core.banks_wf | with_reducible apply Core.istore_wf | with_reducible apply Core.iteFst_memWf | with_reducible apply Core.ite_memWf | with_reducible apply Core.rf_wf | with_reducible apply Core.store_wf | with_reducible apply Res.ite_memWf | with_reducible apply State.cap_wf | with_reducible apply State.core_memWf | with_reducible apply State.cores_wf | with_reducible apply State.ctlTo_memWf | with_reducible apply State.hbm_wf | with_reducible apply State.iteFst_memWf | with_reducible apply State.ite_memWf | with_reducible apply State.setField_memWf | (refine EngAcc.ok_of_eq ?_ (by with_reducible assumption)) | (refine EngAcc.poison_of_eq ?_ (by with_reducible assumption)) | (refine EngAcc.fault_of_eq ?_ (by with_reducible assumption)) | (refine EngAcc.window_of_eq ?_ (by with_reducible assumption)) | (refine EngAcc.wait_of_eq ?_ (by with_reducible assumption)) | (refine Pages.ok_of_eq ?_ (by with_reducible assumption)) | (refine Pages.fail_of_eq ?_ (by with_reducible assumption)) | (refine Pages.wait_of_eq ?_ (by with_reducible assumption)) | (refine State.fst_of_eq ?_ (by with_reducible assumption)) | (refine Core.fst_of_eq ?_ (by with_reducible assumption)) | split | (with_reducible refine State.mk_memWf ?_ ?_ ?_) | (with_reducible refine Core.mk_memWf ?_ ?_ ?_ ?_ ?_)

@[simp ↓] theorem State.setSend_memWf (s : State) (m : Nat) (hs : s.memWf = true) :
    (State.setSend s m).memWf = true := by
  unfold State.setSend
  simp +contextual (maxDischargeDepth := 60) only [↓Core.iteFst_memWf, ↓Core.ite_memWf, ↓Res.ite_memWf, ↓State.iteFst_memWf, ↓State.ite_memWf, ↓State.sendMail_memWf, ↓State.setField_memWf, hs, implies_true]

@[simp ↓] theorem State.mailIn_memWf (s : State) (m lcore : Nat) (msg : List Word) (hs : s.memWf = true) :
    (State.mailIn s m lcore msg).memWf = true := by
  unfold State.mailIn
  (try dsimp only)
  repeat' first | with_reducible assumption | with_reducible rfl | (intro _) | with_reducible apply State.getD_memWf | with_reducible apply Core.acc_wf | with_reducible apply Core.banks_wf | with_reducible apply Core.istore_wf | with_reducible apply Core.iteFst_memWf | with_reducible apply Core.ite_memWf | with_reducible apply Core.rf_wf | with_reducible apply Core.store_wf | with_reducible apply Res.ite_memWf | with_reducible apply State.cap_wf | with_reducible apply State.cores_wf | with_reducible apply State.ctlDone_memWf | with_reducible apply State.emit_memWf | with_reducible apply State.hbm_wf | with_reducible apply State.iteFst_memWf | with_reducible apply State.ite_memWf | with_reducible apply State.post_memWf | with_reducible apply State.setCtl_memWf | with_reducible apply State.setField_memWf | (refine EngAcc.ok_of_eq ?_ (by with_reducible assumption)) | (refine EngAcc.poison_of_eq ?_ (by with_reducible assumption)) | (refine EngAcc.fault_of_eq ?_ (by with_reducible assumption)) | (refine EngAcc.window_of_eq ?_ (by with_reducible assumption)) | (refine EngAcc.wait_of_eq ?_ (by with_reducible assumption)) | (refine Pages.ok_of_eq ?_ (by with_reducible assumption)) | (refine Pages.fail_of_eq ?_ (by with_reducible assumption)) | (refine Pages.wait_of_eq ?_ (by with_reducible assumption)) | (refine State.fst_of_eq ?_ (by with_reducible assumption)) | (refine Core.fst_of_eq ?_ (by with_reducible assumption)) | split | (with_reducible refine State.mk_memWf ?_ ?_ ?_) | (with_reducible refine Core.mk_memWf ?_ ?_ ?_ ?_ ?_)

@[simp ↓] theorem State.freeMessage_memWf (s : State) (hs : s.memWf = true) :
    (State.freeMessage s).1.memWf = true := by
  unfold State.freeMessage
  simp +contextual (maxDischargeDepth := 60) only [↓State.spendFree_memWf, hs, implies_true]

@[simp ↓] theorem State.writeEffect_memWf (s : State) (off : Nat) (m v w : DWord) (hs : s.memWf = true) :
    (State.writeEffect s off m v w).memWf = true := by
  unfold State.writeEffect
  (try dsimp only)
  repeat' first | with_reducible assumption | with_reducible rfl | (intro _) | with_reducible apply Core.acc_wf | with_reducible apply Core.banks_wf | with_reducible apply Core.foldlFst_memWf | with_reducible apply Core.foldl_memWf | with_reducible apply Core.istore_wf | with_reducible apply Core.iteFst_memWf | with_reducible apply Core.ite_memWf | with_reducible apply Core.rf_wf | with_reducible apply Core.store_wf | with_reducible apply Res.ite_memWf | with_reducible apply State.armWindow_memWf | with_reducible apply State.assignPasid_memWf | with_reducible apply State.cap_wf | with_reducible apply State.configStream_memWf | with_reducible apply State.cores_wf | with_reducible apply State.disarmWindow_memWf | with_reducible apply State.enableQueue_memWf | with_reducible apply State.foldlFst_memWf | with_reducible apply State.foldl_memWf | with_reducible apply State.hbm_wf | with_reducible apply State.iteFst_memWf | with_reducible apply State.ite_memWf | with_reducible apply State.mapCores_wf | with_reducible apply State.recheckQuota_memWf | with_reducible apply State.registerTable_memWf | with_reducible apply State.retireStage_memWf | with_reducible apply State.retrainReach_memWf | with_reducible apply State.ringDoorbell_memWf | with_reducible apply State.senseAlarm_memWf | with_reducible apply State.setCtl_memWf | with_reducible apply State.setField_memWf | with_reducible apply State.setSend_memWf | with_reducible apply State.writeCover_memWf | with_reducible apply State.writeHedge_memWf | with_reducible apply State.writeHostCmd_memWf | with_reducible apply State.writeSplit_memWf | (refine EngAcc.ok_of_eq ?_ (by with_reducible assumption)) | (refine EngAcc.poison_of_eq ?_ (by with_reducible assumption)) | (refine EngAcc.fault_of_eq ?_ (by with_reducible assumption)) | (refine EngAcc.window_of_eq ?_ (by with_reducible assumption)) | (refine EngAcc.wait_of_eq ?_ (by with_reducible assumption)) | (refine Pages.ok_of_eq ?_ (by with_reducible assumption)) | (refine Pages.fail_of_eq ?_ (by with_reducible assumption)) | (refine Pages.wait_of_eq ?_ (by with_reducible assumption)) | (refine State.fst_of_eq ?_ (by with_reducible assumption)) | (refine Core.fst_of_eq ?_ (by with_reducible assumption)) | split | (with_reducible refine State.mk_memWf ?_ ?_ ?_) | (with_reducible refine Core.mk_memWf ?_ ?_ ?_ ?_ ?_)

@[simp ↓] theorem State.writeControl_memWf (s : State) (fn off bytes : Nat) (v : DWord) (hs : s.memWf = true) :
    (State.writeControl s fn off bytes v).memWf = true := by
  unfold State.writeControl
  simp +contextual (maxDischargeDepth := 60) only [↓Core.iteFst_memWf, ↓Core.ite_memWf, ↓Res.ite_memWf, ↓State.iteFst_memWf, ↓State.ite_memWf, ↓State.putPlain_memWf, ↓State.writeEffect_memWf, hs, implies_true]

@[simp ↓] theorem State.readControl_memWf (s : State) (off : Nat) (hs : s.memWf = true) :
    (State.readControl s off).1.memWf = true := by
  unfold State.readControl
  simp +contextual (maxDischargeDepth := 60) only [↓Core.iteFst_memWf, ↓Core.ite_memWf, ↓Mem.nil_wf, ↓Res.ite_memWf, ↓State.homeRead_memWf, ↓State.iteFst_memWf, ↓State.ite_memWf, ↓State.mapCores_wf, ↓State.nil_wf, hs, implies_true]

@[simp ↓] theorem execRegisterWrite_memWf (fn off bytes : Nat) (v : DWord) (s : State) (hs : s.memWf = true) :
    outMemWf (execRegisterWrite fn off bytes v s) = true := by
  unfold execRegisterWrite
  simp +contextual (maxDischargeDepth := 60) only [↓State.writeControl_memWf, ↓outMemWf_fault, ↓outMemWf_ite, ↓outMemWf_next, hs, implies_true]

@[simp ↓] theorem execHostRegisterRead_memWf (fn off : Nat) (s : State) (hs : s.memWf = true) :
    outMemWf (execHostRegisterRead fn off s) = true := by
  unfold execHostRegisterRead
  simp +contextual (maxDischargeDepth := 60) only [↓Core.acc_wf, ↓Core.banks_wf, ↓Core.istore_wf, ↓Core.iteFst_memWf, ↓Core.ite_memWf, ↓Core.mk_memWf, ↓Core.rf_wf, ↓Core.store_wf, ↓Mem.wf_clear, ↓Mem.wf_filter, ↓Mem.wf_set, ↓Mem.wf_write, ↓Res.ite_memWf, ↓State.cap_wf, ↓State.cores_wf, ↓State.emit_memWf, ↓State.hbm_wf, ↓State.iteFst_memWf, ↓State.ite_memWf, ↓State.mk_memWf, ↓State.readControl_memWf, ↓State.setCtl_memWf, ↓outMemWf_fault, ↓outMemWf_ite, ↓outMemWf_next, hs, implies_true]

@[simp ↓] theorem execSetPoolSize_memWf (n : Nat) (s : State) (hs : s.memWf = true) :
    outMemWf (execSetPoolSize n s) = true := by
  unfold execSetPoolSize
  simp +contextual (maxDischargeDepth := 60) only [↓State.setPoolAll_memWf, ↓outMemWf_fault, ↓outMemWf_ite, ↓outMemWf_next, hs, implies_true]

@[simp ↓] theorem execMailboxSend_memWf (m : Nat) (s : State) (hs : s.memWf = true) :
    outMemWf (execMailboxSend m s) = true := by
  unfold execMailboxSend
  simp +contextual (maxDischargeDepth := 60) only [↓State.setSend_memWf, ↓outMemWf_fault, ↓outMemWf_ite, ↓outMemWf_next, hs, implies_true]

@[simp ↓] theorem execMailboxArrival_memWf (m lcore : Nat) (msg : Words) (s : State) (hs : s.memWf = true) :
    outMemWf (execMailboxArrival m lcore msg s) = true := by
  unfold execMailboxArrival
  simp +contextual (maxDischargeDepth := 60) only [↓State.mailIn_memWf, ↓outMemWf_fault, ↓outMemWf_ite, ↓outMemWf_next, hs, implies_true]

@[simp ↓] theorem execHello_memWf (major _minor : Nat) (s : State) (hs : s.memWf = true) :
    outMemWf (execHello major _minor s) = true := by
  unfold execHello
  simp +contextual (maxDischargeDepth := 60) only [↓Core.acc_wf, ↓Core.banks_wf, ↓Core.istore_wf, ↓Core.iteFst_memWf, ↓Core.ite_memWf, ↓Core.mk_memWf, ↓Core.rf_wf, ↓Core.store_wf, ↓Res.ite_memWf, ↓State.cap_wf, ↓State.cores_wf, ↓State.freeMessage_memWf, ↓State.hbm_wf, ↓State.iteFst_memWf, ↓State.ite_memWf, ↓State.mailIn_memWf, ↓State.mk_memWf, ↓outMemWf_fault, ↓outMemWf_ite, ↓outMemWf_next, hs, implies_true]

@[simp ↓] theorem execAttestation_memWf (nonce : Words) (s : State) (hs : s.memWf = true) :
    outMemWf (execAttestation nonce s) = true := by
  unfold execAttestation
  simp +contextual (maxDischargeDepth := 60) only [↓Core.acc_wf, ↓Core.banks_wf, ↓Core.istore_wf, ↓Core.iteFst_memWf, ↓Core.ite_memWf, ↓Core.mk_memWf, ↓Core.rf_wf, ↓Core.store_wf, ↓Res.ite_memWf, ↓State.cap_wf, ↓State.cores_wf, ↓State.emit_memWf, ↓State.freeBytes_memWf, ↓State.freeMessage_memWf, ↓State.hbm_wf, ↓State.iteFst_memWf, ↓State.ite_memWf, ↓State.mailIn_memWf, ↓State.mk_memWf, ↓State.spendFree_memWf, ↓outMemWf_fault, ↓outMemWf_ite, ↓outMemWf_next, hs, implies_true]

@[simp ↓] theorem execHostCompletionTimeout_memWf (d : Nat) (s : State) (hs : s.memWf = true) :
    outMemWf (execHostCompletionTimeout d s) = true := by
  unfold execHostCompletionTimeout
  simp +contextual (maxDischargeDepth := 60) only [↓Core.foldlFst_memWf, ↓Core.foldl_memWf, ↓Core.iteFst_memWf, ↓Core.ite_memWf, ↓Res.ite_memWf, ↓State.core_memWf, ↓State.failJob_memWf, ↓State.failRecord_memWf, ↓State.foldlFst_memWf, ↓State.foldl_memWf, ↓State.iteFst_memWf, ↓State.ite_memWf, ↓outMemWf_fault, ↓outMemWf_ite, ↓outMemWf_next, hs, implies_true]

@[simp ↓] theorem State.hostRefuse_memWf (s : State) (h : HostAccess) (hs : s.memWf = true) :
    (State.hostRefuse s h).memWf = true := by
  unfold State.hostRefuse
  (try dsimp only)
  repeat' first | with_reducible assumption | with_reducible rfl | (intro _) | with_reducible apply Core.acc_wf | with_reducible apply Core.banks_wf | with_reducible apply Core.istore_wf | with_reducible apply Core.rf_wf | with_reducible apply Core.store_wf | with_reducible apply State.cap_wf | with_reducible apply State.cores_wf | with_reducible apply State.emit_memWf | with_reducible apply State.hbm_wf | (refine EngAcc.ok_of_eq ?_ (by with_reducible assumption)) | (refine EngAcc.poison_of_eq ?_ (by with_reducible assumption)) | (refine EngAcc.fault_of_eq ?_ (by with_reducible assumption)) | (refine EngAcc.window_of_eq ?_ (by with_reducible assumption)) | (refine EngAcc.wait_of_eq ?_ (by with_reducible assumption)) | (refine Pages.ok_of_eq ?_ (by with_reducible assumption)) | (refine Pages.fail_of_eq ?_ (by with_reducible assumption)) | (refine Pages.wait_of_eq ?_ (by with_reducible assumption)) | (refine State.fst_of_eq ?_ (by with_reducible assumption)) | (refine Core.fst_of_eq ?_ (by with_reducible assumption)) | split | (with_reducible refine State.mk_memWf ?_ ?_ ?_) | (with_reducible refine Core.mk_memWf ?_ ?_ ?_ ?_ ?_)

@[simp ↓] theorem State.serveHost_memWf (s : State) (h : HostAccess) (hs : s.memWf = true) :
    (State.serveHost s h).memWf = true := by
  unfold State.serveHost
  (try dsimp only)
  repeat' first | with_reducible assumption | with_reducible rfl | (intro _) | with_reducible apply State.getD_memWf | with_reducible apply Core.acc_wf | with_reducible apply Core.banks_wf | with_reducible apply Core.istore_wf | with_reducible apply Core.iteFst_memWf | with_reducible apply Core.ite_memWf | with_reducible apply Core.rf_wf | with_reducible apply Core.store_wf | with_reducible apply Res.ite_memWf | with_reducible apply State.cap_wf | with_reducible apply State.cores_wf | with_reducible apply State.emit_memWf | with_reducible apply State.hbm_wf | with_reducible apply State.hostRefuse_memWf | with_reducible apply State.iteFst_memWf | with_reducible apply State.ite_memWf | with_reducible apply State.targetRead_memWf | with_reducible apply State.targetWrite_memWf | (refine EngAcc.ok_of_eq ?_ (by with_reducible assumption)) | (refine EngAcc.poison_of_eq ?_ (by with_reducible assumption)) | (refine EngAcc.fault_of_eq ?_ (by with_reducible assumption)) | (refine EngAcc.window_of_eq ?_ (by with_reducible assumption)) | (refine EngAcc.wait_of_eq ?_ (by with_reducible assumption)) | (refine Pages.ok_of_eq ?_ (by with_reducible assumption)) | (refine Pages.fail_of_eq ?_ (by with_reducible assumption)) | (refine Pages.wait_of_eq ?_ (by with_reducible assumption)) | (refine State.fst_of_eq ?_ (by with_reducible assumption)) | (refine Core.fst_of_eq ?_ (by with_reducible assumption)) | split | (with_reducible refine State.mk_memWf ?_ ?_ ?_) | (with_reducible refine Core.mk_memWf ?_ ?_ ?_ ?_ ?_)

theorem State.nextHost_memWf (s : State) (hs : s.memWf = true) :
    ∀ q, State.nextHost s = some q → q.memWf = true := by
  unfold State.nextHost
  intro q hq
  split at hq
  · cases hq
  · split at hq
    · cases hq; exact State.serveHost_memWf _ _ (State.mk_memWf (State.hbm_wf hs) (State.cap_wf hs) (State.cores_wf hs))
    · cases hq

end Sys2Proof.Machine
end

