-- ==== Sys2Proof/Laws/Moves.lean ====
section
/-! SUPPORT. What threads moving to a logical PC changes (R70, R71, R232): the threads of their lanes, never storage. -/

namespace Sys2Proof.Machine

theorem AMap.put_put {α : Type} (k : Nat) (x y : α) (m : AMap α) : AMap.put k x (AMap.put k y m) = AMap.put k x m := by
  induction m with
  | nil => simp [AMap.put]
  | cons p t ih =>
    obtain ⟨j, z⟩ := p
    simp only [AMap.put]
    by_cases h1 : k < j
    · simp [h1, AMap.put]
    · by_cases h2 : k = j
      · simp [h2, AMap.put]
      · simp [h1, h2, AMap.put, ih]

/-- The banks and stores of a core. -/
def Core.storage (k : Core) : Mem 32 × Memory × Memory × Mem 32 × Mem 32 := (k.rf, k.banks, k.store, k.istore, k.acc)

@[simp] theorem Core.storage_recount (k : Core) : k.recount.storage = k.storage := rfl
@[simp] theorem Core.groups_recount (k : Core) : k.recount.groups = k.groups := rfl
@[simp] theorem Core.storage_enterOv (k : Core) (ctx id q cc : Nat) : (k.enterOv ctx id q cc).storage = k.storage := by
  unfold Core.enterOv; split; · rfl
  dsimp only; split; · rfl
  split <;> rfl
@[simp] theorem Core.groups_enterOv (k : Core) (ctx id q cc : Nat) : (k.enterOv ctx id q cc).groups = k.groups := by
  unfold Core.enterOv; split; · rfl
  dsimp only; split; · rfl
  split <;> rfl
@[simp] theorem Core.storage_countOv (k : Core) (ctx p l : Nat) : (k.countOv ctx p l).storage = k.storage := rfl
@[simp] theorem Core.groups_countOv (k : Core) (ctx p l : Nat) : (k.countOv ctx p l).groups = k.groups := rfl

namespace State

theorem group?_eq (s : State) (c gid : Nat) : s.group? c gid = (s.core c).groups.look gid := rfl

/-- Two updates of one group are one. -/
theorem modGroup_modGroup (s : State) (c gid : Nat) (f f' : Group → Group) :
    (s.modGroup c gid f).modGroup c gid f' = s.modGroup c gid fun g => f' (f g) := by
  unfold State.modGroup State.modCore
  rw [core_setCore, if_pos rfl]
  unfold State.setCore
  dsimp only
  rw [AMap.put_put]
  congr 3
  unfold AMap.upd
  rw [List.map_map]
  congr 1
  funext p
  dsimp only [Function.comp]
  split <;> simp_all

@[simp] theorem storage_modGroup (s : State) (c gid d : Nat) (f : Group → Group) :
    ((s.modGroup c gid f).core d).storage = (s.core d).storage := by
  unfold State.modGroup
  rw [core_modCore]
  split
  · rename_i h; subst h; rfl
  · rfl

theorem storage_modCore (s : State) (c d : Nat) (f : Core → Core) (h : ∀ k, (f k).storage = k.storage) :
    ((s.modCore c f).core d).storage = (s.core d).storage := by
  rw [core_modCore]
  split
  · rename_i h'; subst h'; exact h _
  · rfl

theorem group?_modCore (s : State) (c d gid : Nat) (f : Core → Core) (h : ∀ k, (f k).groups = k.groups) :
    (s.modCore c f).group? d gid = s.group? d gid := by
  unfold State.group?
  rw [core_modCore]
  split
  · rename_i h'; subst h'; rw [h]
  · rfl

@[simp] theorem storage_post (s : State) (i : Instr) (d : Nat) : ((s.post i).core d).storage = (s.core d).storage := rfl

@[simp] theorem storage_postOnce (s : State) (i : Instr) (d : Nat) : ((s.postOnce i).core d).storage = (s.core d).storage := by
  unfold State.postOnce; split <;> rfl

@[simp] theorem group?_postOnce (s : State) (i : Instr) (c gid : Nat) : (s.postOnce i).group? c gid = s.group? c gid := by
  unfold State.postOnce; split <;> rfl

@[simp] theorem storage_requestOv (s : State) (c ctx id d : Nat) : ((s.requestOv c ctx id).core d).storage = (s.core d).storage := by
  unfold State.requestOv
  extract_lets k0 n0 pins0 k1
  split
  · rfl
  · rw [storage_post, core_setCore]
    split
    · rename_i h; subst h; rfl
    · rfl

@[simp] theorem group?_requestOv (s : State) (c ctx id d gid : Nat) : (s.requestOv c ctx id).group? d gid = s.group? d gid := by
  unfold State.requestOv
  extract_lets k0 n0 pins0 k1
  split
  · rfl
  · unfold State.group?
    rw [core_post, core_setCore]
    split
    · rename_i h; subst h; rfl
    · rfl

@[simp] theorem storage_retryLoads (s : State) (c d : Nat) : ((s.retryLoads c).core d).storage = (s.core d).storage := by
  unfold State.retryLoads; split <;> simp

@[simp] theorem group?_retryLoads (s : State) (c d gid : Nat) : (s.retryLoads c).group? d gid = s.group? d gid := by
  unfold State.retryLoads; split <;> simp

@[simp] theorem storage_parkOn (s : State) (c gid : Nat) (lanes : Word) (id : Nat) (w : ParkAt) (d : Nat) :
    ((s.parkOn c gid lanes id w).core d).storage = (s.core d).storage := by
  unfold State.parkOn
  dsimp only
  split
  · rfl
  · rw [storage_modGroup, storage_modCore _ _ _ _ (by simp), storage_requestOv]

@[simp] theorem storage_moveTo (s : State) (c gid : Nat) (lanes pc : Word) (w : ParkAt) (d : Nat) :
    ((s.moveTo c gid lanes pc w).core d).storage = (s.core d).storage := by
  unfold State.moveTo
  extract_lets g movers leaving s1 s2 needs s3 s4 s5
  have h1 : (s1.core d).storage = (s.core d).storage := storage_modGroup _ _ _ _ _
  have h2 : (s2.core d).storage = (s1.core d).storage := storage_modCore _ _ _ _ Core.storage_recount
  have h3 : (s3.core d).storage = (s2.core d).storage := by
    show (State.core (if needs then _ else _) d).storage = _
    split <;> simp
  have h4 : (s4.core d).storage = (s3.core d).storage := by
    show (State.core (if leaving.isEmpty then _ else _) d).storage = _
    split
    · rfl
    · exact storage_modCore _ _ _ _ (by simp)
  have h5 : (s5.core d).storage = (s4.core d).storage := by
    show (State.core (if leaving.isEmpty then _ else _) d).storage = _
    split <;> simp
  split <;> simp [h1, h2, h3, h4, h5]

/-- Threads that look for their overlay's copy stay ready, or park. -/
theorem group?_parkOn {s : State} {c gid : Nat} {g : Group} (h : s.group? c gid = some g) (lanes : Word) (id : Nat) (w : ParkAt) :
    (s.parkOn c gid lanes id w).group? c gid = some g ∨
      (s.parkOn c gid lanes id w).group? c gid = some (g.onLanes lanes fun _ t => { t with wait := some (.park id w) }) := by
  unfold State.parkOn
  dsimp only
  split
  · exact .inl h
  · refine .inr ?_
    rw [group?_modGroup, group?_modCore _ _ _ _ _ (by simp), group?_requestOv, h]
    rfl

/-- The threads of a group that moves to a PC: those of the lanes stand there, ready or parked, at no issued instruction. -/
theorem group?_moveTo {s : State} {c gid : Nat} {g : Group} (h : s.group? c gid = some g) (lanes pc : Word) (w : ParkAt) :
    ∃ wt, (s.moveTo c gid lanes pc w).group? c gid =
      some ((g.unlatch lanes).onLanes lanes fun _ t => { t with pc, wait := wt, laneWait := 0, uniWait := 0 }) := by
  unfold State.moveTo
  extract_lets g0 movers leaving s1 s2 needs s3 s4 s5
  have h1 : s1.group? c gid = some ((g.unlatch lanes).onLanes lanes fun _ t => { t with pc, wait := none, laneWait := 0, uniWait := 0 }) := by
    show (s.modGroup c gid _).group? c gid = _
    rw [group?_modGroup, h]
    rfl
  have h2 : s2.group? c gid = s1.group? c gid := group?_modCore _ _ _ _ _ Core.groups_recount
  have h3 : s3.group? c gid = s2.group? c gid := by
    show State.group? (if needs then _ else _) c gid = _
    split <;> simp
  have h4 : s4.group? c gid = s3.group? c gid := by
    show State.group? (if leaving.isEmpty then _ else _) c gid = _
    split
    · rfl
    · exact group?_modCore _ _ _ _ _ (by simp)
  have h5 : s5.group? c gid = s4.group? c gid := by
    show State.group? (if leaving.isEmpty then _ else _) c gid = _
    split <;> simp
  have h6 : s5.group? c gid = some ((g.unlatch lanes).onLanes lanes fun _ t => { t with pc, wait := none, laneWait := 0, uniWait := 0 }) := by
    rw [h5, h4, h3, h2, h1]
  split
  · rcases group?_parkOn h6 lanes (overlayOf pc) w with h7 | h7
    · exact ⟨none, h7⟩
    · refine ⟨some (.park (overlayOf pc) w), ?_⟩
      rw [h7]
      unfold Group.onLanes
      simp only [Option.some.injEq]
      congr 1
      apply List.ext_getElem
      · simp
      · intro i _ _
        simp only [List.getElem_mapIdx]
        split <;> simp_all
  · exact ⟨none, h6⟩

end State
end Sys2Proof.Machine
end

