-- ==== Sys2Proof/Tests/Slice0.lean ====
section
/-! SUPPORT. Tests: the operand rules of WellFormed, words of every instruction's encoding, a state and operands for the hypotheses of
each statement, and small single steps whose results stand in the spec. -/

namespace Sys2Proof
namespace Tests

-- One proof after another: each holds a kernel evaluation.
set_option Elab.async false

open Machine Claims

/-! ### Operand rules (R207, R210, R213): each of these terms breaks one -/

theorem test_ill_formed_registers : ([
    .cmpLane 0 .eq 0 1 (.v 2), .fcmp 0 .ord 0 1 (.v 2), .topk 0 true 9 4 (.imm 7), .spawnLane 0 6 (.v 1),
    .qapp 0 1 3 .die .none .zero, .pref 0 .l1 5 (.off5 0), .ld 0 1 5 .b32 (.off5 0), .ld 0 1 4 .b64 (.off5 0),
    .ld 0 2 4 .b128 (.off5 0), .st 0 6 5 .b8 (.off5 0), .ldlLane 0 3 1 .b64 (.off5 0), .stlLane 0 6 1 .b128 (.off5 0),
    .ldp 0 1 1 .b128 (.off5 0), .stp 0 1 1 .b64 (.off5 0), .ldb 0 3 0 32 true, .stb 0 3 0 63,
    .atomLane 0 ⟨false, false⟩ .add 1 3 .die .none .zero, .atomLane 0 ⟨true, true⟩ .add 1 3 .core .none .zero,
    .casLane 0 ⟨true, false⟩ 2 4 .die .none .zero, .atomExchLane 0 ⟨false, false⟩ 1 5 .die .none .zero,
    .bdot 0 .b4 1 3 4 0, .bscl 0 .b4 1 2 5 0, .qnt 0 .b4 3 2 3 0 none,
    .andUniform (.m 0) (.s 1) (.s 2), .orUniform (.m 0) (.s 1) (.s 2), .xorUniform (.m 0) (.s 1) (.s 2),
    .movUniform (.reg (.m 0) (.s 1)), .movUniform (.toAwl 1 3), .movUniform (.fromAwl 3 1),
    .bara true 1 3, .barw true 3 1, .ctlsend 6 1, .ctlsend 4 6, .ctlrecv 28,
    .lds 1 3 .b32 (.off5 0), .sts 2 4 .b128 (.off5 0), .ldlUniform 3 1 .b64 (.off5 0), .stlUniform 2 1 .b128 (.off5 0),
    .atomUniform ⟨false, false⟩ .add 1 3 .die .none .zero, .casUniform ⟨false, true⟩ 1 3 .core .none .zero,
    .atomExchUniform ⟨true, true⟩ 1 3 .core .none .zero, .spawnUniform 6 (.s 1)
  ] : List Instr).all (fun i => !WellFormed i) = true := by decide +kernel

theorem test_ill_formed_values : ([
    .fcvt 0 3 2 .f16 .f16 (.field 0), .fcvt 0 3 2 .s32 .f32 (.lit .sr), .raysendLane 0 4, .raysendLane 0 48,
    .st 0 4 2 .s8 (.off5 0), .stlLane 0 4 2 .s16 (.off5 0), .stp 0 4 2 .s8 (.off5 0), .sts 4 2 .s16 (.off5 0),
    .stlUniform 4 2 .s8 (.off5 0), .xacq 0, .xrel 0, .raysendUniform 16, .rayrecv 1, .rayfwd 5 0 8, .rayfwd 1 8 8,
    .rayfwd 1 1 8, .rayfwd 1 0 4, .hitsend 8 8, .hitsend 1 3, .rayend 24, .boxt 8 3 8, .boxt 0 3 0, .boxt 0 3 1, .trit 31 3 8,
    .trit 1 3 2, .rxf 23 1 0, .rxf 24 1 7, .rdsr 1 0xe, .rdsr 1 0x1e, .wrsr 0x128 1
  ] : List Instr).all (fun i => !WellFormed i) = true := by decide +kernel

theorem test_well_formed : ([
    .cmpLane 0 .eq 7 1 (.v 2), .topk 0 true 62 4 (.imm 31), .raysendLane 0 40, .ldb 0 3 0 31 true, .ldb 0 62 0 63 true,
    .xrel 3, .ctlsend 4 8, .ctlrecv 27, .rayfwd 4 0 8, .rayfwd 4 24 0, .hitsend 7 8, .boxt 24 3 0, .boxt 0 3 8, .rdsr 1 0xd,
    .wrsr 0x127 1, .fcvt 0 3 2 .f16 .f32 (.lit .sr)
  ] : List Instr).all (fun i => WellFormed i) = true := by decide +kernel

/-! ### Encodings: words formed field by field from spec/opcode_table.json and R205 to R213 -/

/-- A word and a literal decode to the instruction. -/
def Decodes (p : Word × Word × Instr) : Bool := (decode p.1 p.2.1).toOption == some p.2.2

/-- R205 to R208, R211: lane integer words. -/
theorem test_words_laneInteger : ([
    (0x01329484, 0x0, .addLane 3 10 20 (.v 33)),
    (0x027fc17a, 0x0, .subLane 7 63 1 (.s 30)),
    (0x03817e00, 0x80000001, .mulLane 0 5 62 (.lit 0x80000001)),
    (0x04329490, 0x0, .mulhiLane 3 10 20 (.v 36)),
    (0x047fc16f, 0x0, .mulhuLane 7 63 1 (.s 27)),
    (0x05817e00, 0x80000001, .mad 0 5 62 (.lit 0x80000001)),
    (0x0832949c, 0x0, .andLane 3 10 20 (.v 39)),
    (0x097fc162, 0x0, .orLane 7 63 1 (.s 24)),
    (0x0a817e00, 0x80000001, .xorLane 0 5 62 (.lit 0x80000001)),
    (0x0b3294a8, 0x0, .shlLane 3 10 20 (.v 42)),
    (0x0c7fc156, 0x0, .shrLane 7 63 1 (.s 21)),
    (0x0d817e00, 0x80000001, .sarLane 0 5 62 (.lit 0x80000001)),
    (0x0e3294b4, 0x0, .minLane 3 10 20 (.v 45)),
    (0x0e7fc14b, 0x0, .minuLane 7 63 1 (.s 18)),
    (0x0f817e00, 0x80000001, .maxLane 0 5 62 (.lit 0x80000001)),
    (0x0f3294c1, 0x0, .maxuLane 3 10 20 (.v 48)),
    (0x167fc13e, 0x0, .bfxLane 7 63 1 (.s 15)),
    (0x17817e00, 0x80000001, .bfiLane 0 5 62 (.lit 0x80000001)),
    (0x06226100, 0x0, .abs 2 9 33),
    (0x07226100, 0x0, .neg 2 9 33),
    (0x12226100, 0x0, .movLane 2 9 33),
    (0x14226100, 0x0, .clzLane 2 9 33),
    (0x15226100, 0x0, .popcLane 2 9 33),
    (0x101b8c12, 0x0, .cmpLane 1 .geu 6 12 (.s 4)),
    (0x11420928, 0x0, .selLane 4 8 9 (.v 10)),
    (0x1321e001, 0x0, .moviLane 2 7 (.short 0x2001)),
    (0x1381c000, 0x5, .moviLane 0 7 (.lit 5))] : List (Word × Word × Instr)).all Decodes = true := by decide +kernel

/-- R210, R211, R262: lane floating point words. -/
theorem test_words_laneFloat : ([
    (0x205a29a8, 0x0, .fadd 5 40 41 (.v 42)),
    (0x21004212, 0x0, .fsub 0 1 2 (.s 4)),
    (0x2297e000, 0x3f800000, .fmul 1 31 32 (.lit 0x3f800000)),
    (0x235a29b4, 0x0, .ffma 5 40 41 (.v 45)),
    (0x2400421e, 0x0, .fmin 0 1 2 (.s 7)),
    (0x2597e000, 0x3f800000, .fmax 1 31 32 (.lit 0x3f800000)),
    (0x2c5a29c0, 0x0, .fdiv 5 40 41 (.v 48)),
    (0x3000422a, 0x0, .hadd2 0 1 2 (.s 10)),
    (0x3197e000, 0x3f800000, .hmul2 1 31 32 (.lit 0x3f800000)),
    (0x325a29cc, 0x0, .hfma2 5 40 41 (.v 51)),
    (0x34004236, 0x0, .hadd2Bf 0 1 2 (.s 13)),
    (0x3597e000, 0x3f800000, .hmul2Bf 1 31 32 (.lit 0x3f800000)),
    (0x365a29d8, 0x0, .hfma2Bf 5 40 41 (.v 54)),
    (0x27226100, 0x0, .frcp 2 9 33),
    (0x28226100, 0x0, .frsq 2 9 33),
    (0x29226100, 0x0, .fex2 2 9 33),
    (0x2a226100, 0x0, .flg2 2 9 33),
    (0x2b226100, 0x0, .fsqrt 2 9 33),
    (0x262ac414, 0x0, .fcmp 2 .unord 3 4 (.v 5)),
    (0x3800c260, 0x0, .fcvt 0 3 2 .e4m3 .f32 (.field 0)),
    (0x381f3dea, 0x0, .fcvt 1 60 61 .s16 .bf16 (.field 2)),
    (0x3880c220, 0x4, .fcvt 0 3 2 .f16 .f32 (.lit .sr))] : List (Word × Word × Instr)).all Decodes = true := by decide +kernel

/-- R211: group data and block format words. -/
theorem test_words_groupAndBlock : ([
    (0x4011051a, 0x0, .shfl 1 .down 4 5 (.v 6)),
    (0x41310503, 0x0, .vote 3 .eq 4 5),
    (0x42310502, 0x0, .redg 3 .max 4 5),
    (0x43310501, 0x0, .scan 3 .xadd 4 5),
    (0x4422041f, 0x0, .topk 2 true 8 4 (.imm 7)),
    (0x4402047c, 0x0, .topk 0 false 8 4 (.reg 31)),
    (0x6314144b, 0x0, .bdot 1 .b5 16 20 18 3),
    (0x6b14144b, 0x0, .bscl 1 .b5 16 20 18 3),
    (0x7b14144b, 0x0, .deq 1 .b5 16 20 18 3),
    (0x76041148, 0x0, .qnt 0 .b8 16 17 18 0 none),
    (0x70a4114a, 0x2, .qnt 2 .b2 16 17 18 2 (some .ru))] : List (Word × Word × Instr)).all Decodes = true := by decide +kernel

/-- R208, R210, R211: lane message and memory words. -/
theorem test_words_laneMemory : ([
    (0x48102800, 0x0, .raysendLane 1 40),
    (0x49a00c00, 0x9, .spawnLane 2 12 (.lit 9)),
    (0x4a129450, 0x0, .qapp 1 10 20 .die .rel .zero),
    (0x4b10d41f, 0x0, .pref 1 .evict 20 (.off5 31)),
    (0x50131481, 0x0, .ld 1 12 20 .b128 (.off5 1)),
    (0x51831460, 0xfffffff0, .st 0 12 20 .b64 (.lit 0xfffffff0)),
    (0x5210d5c2, 0x0, .ldlLane 1 3 21 .s16 (.off5 2)),
    (0x5320d503, 0x0, .stlLane 2 3 21 .b8 (.off5 3)),
    (0x5430d5a4, 0x0, .ldp 3 3 21 .s8 (.off5 4)),
    (0x5540d525, 0x0, .stp 4 3 21 .b16 (.off5 5)),
    (0x5600d00d, 0x0, .ldb 0 3 1 3 true),
    (0x577ff07c, 0x0, .stb 7 63 3 31),
    (0x5912949f, 0x0, .atomLane 1 ⟨true, false⟩ .maxu 10 20 .sys .ar .zero),
    (0x5a82d503, 0x8, .atomLane 0 ⟨false, true⟩ .xor 11 21 .grp .none (.lit 8)),
    (0x5f121528, 0x0, .casLane 1 ⟨true, true⟩ 8 21 .core .acq .zero),
    (0x5c125471, 0x0, .atomExchLane 1 ⟨false, false⟩ 9 20 .pkg .rel .zero)] : List (Word × Word × Instr)).all Decodes = true := by decide +kernel

/-- R209, R212: uniform integer words. -/
theorem test_words_uniformInteger : ([
    (0x81078200, 0x0, .addUniform 30 2 (.s 0)),
    (0x8280dd00, 0x12345678, .subUniform 3 29 (.lit 0x12345678)),
    (0x83078208, 0x0, .mulUniform 30 2 (.s 2)),
    (0x8480dd00, 0x12345678, .mulhiUniform 3 29 (.lit 0x12345678)),
    (0x84078211, 0x0, .mulhuUniform 30 2 (.s 4)),
    (0x8580dd00, 0x12345678, .div 3 29 (.lit 0x12345678)),
    (0x85078219, 0x0, .divu 30 2 (.s 6)),
    (0x8680dd00, 0x12345678, .rem 3 29 (.lit 0x12345678)),
    (0x86078221, 0x0, .remu 30 2 (.s 8)),
    (0x8880dd00, 0x12345678, .andUniform (.s 3) (.s 29) (.lit 0x12345678)),
    (0x89078228, 0x0, .orUniform (.s 30) (.s 2) (.s 10)),
    (0x8a80dd00, 0x12345678, .xorUniform (.s 3) (.s 29) (.lit 0x12345678)),
    (0x8b078230, 0x0, .shlUniform 30 2 (.s 12)),
    (0x8c80dd00, 0x12345678, .shrUniform 3 29 (.lit 0x12345678)),
    (0x8d078238, 0x0, .sarUniform 30 2 (.s 14)),
    (0x8e80dd00, 0x12345678, .minUniform 3 29 (.lit 0x12345678)),
    (0x8e078241, 0x0, .minuUniform 30 2 (.s 16)),
    (0x8f80dd00, 0x12345678, .maxUniform 3 29 (.lit 0x12345678)),
    (0x8f078249, 0x0, .maxuUniform 30 2 (.s 18)),
    (0x9180dd00, 0x12345678, .selUniform 3 29 (.lit 0x12345678)),
    (0x96078250, 0x0, .bfxUniform 30 2 (.s 20)),
    (0x9780dd00, 0x12345678, .bfiUniform 3 29 (.lit 0x12345678)),
    (0x88084480, 0x0, .andUniform (.m 1) (.s 4) (.m 0)),
    (0x9040420c, 0x0, .cmpUniform .ltu 1 2 (.s 3)),
    (0x9209df00, 0x0, .movUniform (.reg (.m 7) (.s 31))),
    (0x920a9e00, 0x0, .movUniform (.toAwl 2 30)),
    (0x9207ab00, 0x0, .movUniform (.fromAwl 30 3)),
    (0x9371bfff, 0x0, .moviUniform 6 (.short 0x1ffff)),
    (0x93818000, 0x80000000, .moviUniform 6 (.lit 0x80000000)),
    (0x94016400, 0x0, .clzUniform 5 (.m 4)),
    (0x95014400, 0x0, .popcUniform 5 (.s 4)),
    (0x98017f18, 0x0, .rdlane 5 63 (.s 6)),
    (0x99216bcd, 0x0, .movhi 5 0xabcd),
    (0xa17146fd, 0x0, .addi 5 6 0x7fd),
    (0xa87146fd, 0x0, .andi 5 6 0x7fd),
    (0xa97146fd, 0x0, .ori 5 6 0x7fd),
    (0xaa7146fd, 0x0, .xori 5 6 0x7fd),
    (0xab01461f, 0x0, .shli 5 6 31),
    (0xac01461f, 0x0, .shri 5 6 31),
    (0xad01461f, 0x0, .sari 5 6 31)] : List (Word × Word × Instr)).all Decodes = true := by decide +kernel

/-- R209, R212, R213: control, overlay and synchronisation words. -/
theorem test_words_control : ([
    (0x80000000, 0x0, .nop),
    (0xb0003fff, 0x0, .br 0x3fff),
    (0xb600000a, 0x0, .call 10),
    (0xb1b0d600, 0x30, .brc .ge 3 22 0x30),
    (0xb2012000, 0x0, .brz 4 0x2000),
    (0xb307c001, 0x0, .brnz 31 1),
    (0xb4508009, 0x0, .brm .none 5 9),
    (0xb5000700, 0x0, .jmpr 7),
    (0xb7001f00, 0x0, .callr 31),
    (0xb8000000, 0x0, .ret),
    (0xb9000900, 0x0, .callo 9),
    (0xb9800000, 0x20003, .calloLiteral 0x00020003),
    (0xba000000, 0x0, .exit),
    (0xbb044000, 0x0, .elect 17),
    (0xc0004200, 0x0, .ovld 1 (.reg 2)),
    (0xc3804000, 0xffff, .ovqry 1 (.lit 0xffff)),
    (0xc1000300, 0x0, .ovwait 3),
    (0xc2000400, 0x0, .ovrel 4),
    (0xc4014601, 0x0, .bara true 5 6),
    (0xc5000720, 0x0, .barw false 7 8),
    (0xc6400000, 0x0, .fence .sys),
    (0xeb000000, 0x0, .rfence .grp),
    (0xc7a00300, 0x5, .waitc .die 3 (.lit 5)),
    (0xc8000000, 0x0, .yield),
    (0xc9000003, 0x0, .xacq 3),
    (0xca000001, 0x0, .xrel 1),
    (0xcc000000, 0x0, .halt),
    (0xcd000454, 0x0, .ctlsend 4 21),
    (0xce020000, 0x0, .ctlrecv 8)] : List (Word × Word × Instr)).all Decodes = true := by decide +kernel

/-- R209, R212: uniform memory, engine and ring words. -/
theorem test_words_uniformMemoryAndEngines : ([
    (0xd0020a83, 0x0, .lds 8 10 .b128 (.off5 3)),
    (0xd1065c20, 0x0, .sts 25 28 .b16 (.off5 0)),
    (0xd2820aa0, 0x64, .ldlUniform 8 10 .s8 (.lit 100)),
    (0xd3020b41, 0x0, .stlUniform 8 11 .b32 (.off5 1)),
    (0xd800c46e, 0x0, .atomUniform ⟨false, false⟩ .minu 3 4 .pkg .acq .zero),
    (0xdf810520, 0x10, .casUniform ⟨true, true⟩ 4 5 .core .none (.lit 16)),
    (0xde010501, 0x0, .atomExchUniform ⟨false, true⟩ 4 5 .grp .none .zero),
    (0xe0300827, 0x0, .cpy { scope := .pkg, a := 8, b := .s 9, acq := true, rel := true }),
    (0xe1900a01, 0x40, .cpysl { scope := .core, a := 10, b := .lit 64, acq := false, rel := true }),
    (0xe2300827, 0x0, .chain { scope := .pkg, a := 8, b := .s 9, acq := true, rel := true }),
    (0xe5900a01, 0x40, .get { scope := .core, a := 10, b := .lit 64, acq := false, rel := true }),
    (0xe6300827, 0x0, .put { scope := .pkg, a := 8, b := .s 9, acq := true, rel := true }),
    (0xe7900a01, 0x40, .bagq { scope := .core, a := 10, b := .lit 64, acq := false, rel := true }),
    (0xe9300827, 0x0, .accld { scope := .pkg, a := 8, b := .s 9, acq := true, rel := true }),
    (0xea900a01, 0x40, .accst { scope := .core, a := 10, b := .lit 64, acq := false, rel := true }),
    (0xf9300827, 0x0, .collAg { scope := .pkg, a := 8, b := .s 9, acq := true, rel := true }),
    (0xf9904a01, 0x40, .collRs { scope := .core, a := 10, b := .lit 64, acq := false, rel := true }),
    (0xf9308827, 0x0, .collA2a { scope := .pkg, a := 8, b := .s 9, acq := true, rel := true }),
    (0xf990ca01, 0x40, .collBar { scope := .core, a := 10, b := .lit 64, acq := false, rel := true }),
    (0xe8420826, 0x0, .mma .s16 { scope := .sys, a := 8, b := .s 9, acq := true, rel := false }),
    (0xe300420c, 0x0, .cbwaitProd 1 2 (.s 3)),
    (0xe3804201, 0x4, .cbwaitCons 1 2 (.lit 4)),
    (0xe400020c, 0x0, .cbrelProd 2 (.s 3)),
    (0xe4800201, 0x4, .cbrelCons 2 (.lit 4))] : List (Word × Word × Instr)).all Decodes = true := by decide +kernel

/-- R212, R319, R362, R363: ray, item and system words. -/
theorem test_words_raysAndSystem : ([
    (0xf0000800, 0x0, .raysendUniform 8),
    (0xf1020000, 0x0, .rayrecv 8),
    (0xf200c020, 0x0, .rayfwd 3 0 8),
    (0xf3000420, 0x0, .hitsend 4 8),
    (0xf4000000, 0x0, .rayend 0),
    (0xf5000320, 0x0, .boxt 0 3 8),
    (0xf6004320, 0x0, .trit 1 3 8),
    (0xf7061900, 0x0, .rxf 24 25 0),
    (0xf800040c, 0x0, .spawnUniform 4 (.s 3)),
    (0xfa400005, 0x0, .trap 0x405),
    (0xfb000000, 0x0, .eret),
    (0xfc00c012, 0x0, .rdsr 3 0x12),
    (0xfd100104, 0x0, .wrsr 0x104 1),
    (0xfe000000, 0x0, .drainst),
    (0xff001f00, 0x0, .termg 31)] : List (Word × Word × Instr)).all Decodes = true := by decide +kernel

/-- Words that R213 rejects: the all-zero word, an unassigned major, a reserved condition, a fixed field, m0 as a destination, a
literal on a format without one, a register above v63's kind, and a width that no store has. -/
theorem test_words_rejected : ([0, 0x1f000000, 0xb400c001, 0x80000001, 0x10000100, 0x86f00000, 0xa1800000, 0x810080b0,
    0x51008ca0] : List Word).all (fun w => (decode w 0).toOption == none) = true := by decide +kernel

/-! ### Sample states -/

/-- A group of context 1 on core 0, whose bundle stands at a word: `ss` are uniform registers of its thread 0. -/
def sample (gid : Nat) (ss : List (Nat × Word)) (fg : Machine.Group → Machine.Group := id) (fk : Core → Core := id)
    (ft : Team → Team := id) (word : Word := 0x80000000) : State :=
  let s := State.reset.withFetchWord 32 word.toNat
  let k := s.core 0
  let g := (k.groups.look 0).getD {}
  let g := fg (if gid < 512 then g else { g with threads := g.threads.take 1, m0 := 1 })
  let k := fk { k with groups := [(gid, g)], teams := [(0, ft ((k.teams.look 0).getD {}))] }
  let k := ss.foldl (fun (k : Core) p => k.setS gid p.1 p.2) k
  { s.setCore 0 k with cur := some { core := 0, gid, lanes := g.m0, pc := 0x10000, word, lit := 0 } }

/-- The bundle that a state performs. -/
def cx (s : State) : Ctx := s.ctx?.getD ⟨0, 0, 0, 0, 0, 0, false, none, {}⟩

/-- The test of `Runs`. -/
def ready (i : Instr) (s : State) : Bool :=
  match s.ctx? with
  | some x => !i.barred x.gid && (unheld x.g x.gid i.vregs).isEmpty
  | none => false

theorem runs {i : Instr} {s : State} (h : ready i s = true) : Runs i s (cx s) := by
  unfold ready at h
  unfold Runs cx
  cases hc : s.ctx? with
  | none => simp [hc] at h
  | some x =>
    simp only [hc, Bool.and_eq_true, Bool.not_eq_true', List.isEmpty_iff] at h
    exact ⟨rfl, h.1, h.2⟩

/-- The state that a meaning answers. -/
def after (o : Host.Outcome State Fault Refusal) : State :=
  match o with
  | .next t => t
  | _ => State.reset

def lane : State := sample 0 []
def sup : State := sample 576 []

/-! ### A state and operands for the hypotheses of each statement -/

theorem witness_LaneIntegerResults : ∃ m d a b f, Runs (.addLane 0 10 2 (.v 15)) lane (cx lane) ∧ lane.memWf = true ∧
    integer (.addLane 0 10 2 (.v 15)) = some (m, d, a, b, f) :=
  ⟨_, _, _, _, _, runs (by decide +kernel), by decide +kernel, rfl⟩

theorem witness_LaneSelect : Runs (.selLane 1 10 2 (.s 15)) lane (cx lane) ∧ lane.memWf = true :=
  ⟨runs (by decide +kernel), by decide +kernel⟩

theorem witness_MasksFromComparisons : Runs (.cmpLane 0 .geu 7 2 (.lit 5)) lane (cx lane) ∧
    Runs (.fcmp 0 .unord 7 2 (.lit 5)) lane (cx lane) :=
  ⟨runs (by decide +kernel), runs (by decide +kernel)⟩

theorem witness_LaneFloatResults : ∃ m d a b f, Runs (.ffma 0 1 2 (.v 3)) lane (cx lane) ∧ lane.memWf = true ∧
    float (.ffma 0 1 2 (.v 3)) = some (m, d, a, b, f) :=
  ⟨_, _, _, _, _, runs (by decide +kernel), by decide +kernel, rfl⟩

theorem witness_LaneConversion : Runs (.fcvt 0 1 2 .f16 .f32 (.lit .sr)) lane (cx lane) ∧ lane.memWf = true :=
  ⟨runs (by decide +kernel), by decide +kernel⟩

theorem witness_GroupDataResults : ∃ m d f, Runs (.scan 0 .xadd 1 2) lane (cx lane) ∧ lane.memWf = true ∧
    together lane (cx lane) (.scan 0 .xadd 1 2) = some (m, d, f) ∧ groupCode (.scan 0 .xadd 1 2) = some (0x43, 1) :=
  ⟨_, _, _, runs (by decide +kernel), by decide +kernel, rfl, rfl⟩

theorem witness_LargestValues : Runs (.topk 0 true 8 4 (.reg 5)) lane (cx lane) ∧ lane.memWf = true ∧ (8 : VReg).toNat % 2 = 0 :=
  ⟨runs (by decide +kernel), by decide +kernel, rfl⟩

/-- Active empty, as m1 is 0, and all lanes. -/
theorem witness_BlockFormats : (∃ m d f, Runs (.bdot 1 .b4 1 2 4 0) lane (cx lane) ∧ lane.memWf = true ∧
      blockResult lane (cx lane) (.bdot 1 .b4 1 2 4 0) = some (m, d, f) ∧ (cx lane).active 1 = 0) ∧
    Runs (.qnt 0 .b8 1 2 3 3 none) lane (cx lane) ∧ (cx lane).active 0 ≠ 0 :=
  ⟨⟨_, _, _, runs (by decide +kernel), by decide +kernel, rfl, by decide +kernel⟩, runs (by decide +kernel), by decide +kernel⟩

theorem witness_UniformResults :
    (∃ d v, Runs (.div 1 2 (.lit 0)) lane (cx lane) ∧ lane.memWf = true ∧ uniform lane (cx lane) (.div 1 2 (.lit 0)) = some (d, v)) ∧
    (∃ d v, Runs (.xorUniform (.m 7) (.s 2) (.m 0)) lane (cx lane) ∧
      logic lane (cx lane) (.xorUniform (.m 7) (.s 2) (.m 0)) = some (d, v)) ∧
    Runs (.movUniform (.toAwl 3 30)) lane (cx lane) ∧ Runs (.movUniform (.fromAwl 30 3)) lane (cx lane) ∧ (30 : SReg).toNat % 2 = 0 :=
  ⟨⟨_, _, runs (by decide +kernel), by decide +kernel, rfl⟩, ⟨_, _, runs (by decide +kernel), rfl⟩, runs (by decide +kernel),
    runs (by decide +kernel), rfl⟩

/-- Divisors 0 and −1, amounts 32, and the two extremes. -/
theorem witness_BorderlineCases : lane.memWf = true ∧
    (∀ i ∈ [Instr.div 1 2 (.lit 0), .divu 1 2 (.lit 0), .rem 1 2 (.lit 0), .remu 1 2 (.lit 0), .shlUniform 1 2 (.lit 32), .shrUniform 1 2 (.lit 32),
      .sarUniform 1 2 (.lit 32), .shli 1 2 32, .shri 1 2 32, .sari 1 2 32, .addUniform 1 2 (.lit 1), .subUniform 1 2 (.lit 1),
      .mulUniform 1 2 (.lit 2)], Runs i lane (cx lane)) ∧
    (let s := sample 0 [(2, 0x80000000)]; ureg s (cx s) 2 = 0x80000000 ∧ Runs (.div 1 2 (.lit 0xffffffff)) s (cx s) ∧
      Runs (.rem 1 2 (.lit 0xffffffff)) s (cx s) ∧ Runs (.mulhiUniform 1 2 (.lit 0x80000000)) s (cx s)) ∧ 32 ≤ (32 : BitVec 11).toNat := by
  refine ⟨by decide +kernel, ?_, ⟨by decide +kernel, runs (by decide +kernel), runs (by decide +kernel), runs (by decide +kernel)⟩, by decide⟩
  intro i hi
  simp only [List.mem_cons, List.not_mem_nil, or_false] at hi
  rcases hi with rfl | rfl | rfl | rfl | rfl | rfl | rfl | rfl | rfl | rfl | rfl | rfl | rfl <;> exact runs (by decide +kernel)

theorem witness_Jumps : (∃ t b, Runs (.brz 1 0x3fff) lane (cx lane) ∧ branches lane (cx lane) (.brz 1 0x3fff) = some (t, b)) ∧
    Runs (.jmpr 1) lane (cx lane) ∧ (let s := sample 0 [(1, 16384)]; Runs (.jmpr 1) s (cx s) ∧ (ureg s (cx s) 1).toNat = 16384) :=
  ⟨⟨_, _, runs (by decide +kernel), rfl⟩, runs (by decide +kernel), runs (by decide +kernel), by decide +kernel⟩

/-- Depth 4 with 4 bytes of window is the last push that has room, and depth 5 has none. -/
def deep (d : Nat) (v : Word) : State :=
  sample 0 [(1, v)] (fun g => { g with threads := g.threads.map fun t => { t with depth := d } })
    (ft := fun t => { t with decl := BitVec.ofNat 64 (4096 * 2 ^ 26 + 1) })

theorem witness_Calls :
    (Runs (.callr 1) (deep 7 16383) (cx (deep 7 16383)) ∧
      calls (deep 7 16383) (cx (deep 7 16383)) (.callr 1) = some (16383, false) ∧ ¬ full (deep 7 16383) (cx (deep 7 16383))) ∧
    (Runs (.callo 1) (deep 0 0x00020003) (cx (deep 0 0x00020003)) ∧
      calls (deep 0 0x00020003) (cx (deep 0 0x00020003)) (.callo 1) = some (0x00020003, true) ∧
      (0x00020003 : Word).extractLsb' 14 2 = 0) ∧
    (Runs (.callr 1) (deep 0 16384) (cx (deep 0 16384)) ∧
      calls (deep 0 16384) (cx (deep 0 16384)) (.callr 1) = some (16384, false)) ∧
    Runs (.callr 1) (deep 8 3) (cx (deep 8 3)) ∧ full (deep 8 3) (cx (deep 8 3)) := by
  refine ⟨⟨runs ?_, ?_, ?_⟩, ⟨runs ?_, ?_, ?_⟩, ⟨runs ?_, ?_⟩, runs ?_, ?_⟩
  all_goals (try unfold full); decide +kernel

theorem witness_ReturnPopsEachThread : (Runs .ret lane (cx lane) ∧ bare (cx lane)) ∧
    Runs .ret (deep 1 0) (cx (deep 1 0)) ∧ ¬ bare (cx (deep 1 0)) := by
  refine ⟨⟨runs ?_, ?_⟩, runs ?_, ?_⟩
  all_goals (try unfold bare); decide +kernel

/-- A traversal thread, which holds the ray that `ray` says. -/
def trav (ray : Option HeldRay) (ss : List (Nat × Word)) (fk : Core → Core := id) : State :=
  sample 512 ss (fun g => { g with ray }) fk

theorem witness_ExitEndsThreads : (Runs .exit lane (cx lane) ∧ (cx lane).gid ≠ supGid) ∧
    Runs .exit (trav none []) (cx (trav none [])) ∧ (cx (trav none [])).gid ≠ supGid ∧ (cx (trav none [])).g.ray = none :=
  ⟨⟨runs (by decide +kernel), by decide +kernel⟩, runs (by decide +kernel), by decide +kernel, by decide +kernel⟩

theorem witness_YieldAndNop : Runs .nop lane (cx lane) ∧ Runs .yield lane (cx lane) :=
  ⟨runs (by decide +kernel), runs (by decide +kernel)⟩

/-- In a handler, with a resume point on every link stack. -/
def handling : State := sample 0 [] fun g =>
  { g with threads := g.threads.map (fun t => { t with depth := 1, victim := true }), trap := { g.trap with inHandler := true } }

theorem witness_ReturnFromTrap : (Runs .eret lane (cx lane) ∧ (cx lane).g.trap.inHandler = false) ∧
    Runs .eret handling (cx handling) ∧ (cx handling).g.trap.inHandler = true ∧ ¬ bare (cx handling) := by
  refine ⟨⟨runs ?_, ?_⟩, runs ?_, ?_, ?_⟩
  all_goals (try unfold bare); decide +kernel

/-! Memory: a misaligned address, the first address beyond the allocation of 4,096 bytes, and the last word within it. -/

theorem witness_AddressTraps :
    (let s := sample 0 [(1, 2)]; ∃ acc, Runs (.ldlUniform 2 1 .b32 (.off5 0)) s (cx s) ∧
      access s (cx s) (.ldlUniform 2 1 .b32 (.off5 0)) = some acc ∧ acc.space ≠ .bits ∧ 0 ∈ acc.side.lanes ∧
      acc.addr 0 % acc.size ≠ 0 ∧ ∀ j ∈ acc.side.lanes, j < 0 → acc.addr j % acc.size = 0) ∧
    (let s := sample 0 [(1, 4096)]; ∃ acc, Runs (.ldlUniform 2 1 .b32 (.off5 0)) s (cx s) ∧
      access s (cx s) (.ldlUniform 2 1 .b32 (.off5 0)) = some acc ∧ (∀ j ∈ acc.side.lanes, acc.addr j % acc.size = 0) ∧
      0 ∈ acc.side.lanes ∧ beyond s (cx s) acc.space acc.size (acc.addr 0) = some 1) :=
  ⟨⟨_, runs (by decide +kernel), rfl, by decide +kernel, by decide +kernel, by decide +kernel, by decide +kernel⟩,
    ⟨_, runs (by decide +kernel), rfl, by decide +kernel, by decide +kernel, by decide +kernel⟩⟩

/-- The last word of the allocation; poison there for the second clause. -/
def last : State := sample 0 [(1, 4092)]
def lastBad : State := sample 0 [(1, 4092)] (fk := fun k => { k with storePoison := [4095] })

theorem witness_BankLoads : ∃ acc d w, Runs (.ldlUniform 2 1 .b32 (.off5 0)) last (cx last) ∧ last.memWf = true ∧
    access last (cx last) (.ldlUniform 2 1 .b32 (.off5 0)) = some acc ∧ bankLoad (.ldlUniform 2 1 .b32 (.off5 0)) = some (d, w) ∧
    d % w.regs = 0 ∧ Clear last (cx last) acc :=
  ⟨_, _, _, runs (by decide +kernel), by decide +kernel, rfl, rfl, by decide +kernel, by unfold Clear; decide +kernel⟩

theorem witness_BankLoads_poison : ∃ acc, access lastBad (cx lastBad) (.ldlUniform 2 1 .b32 (.off5 0)) = some acc ∧
    0 ∈ acc.side.lanes ∧ acc.space = .store ∧
    (lastBad.core 0).storeBad ((lastBad.span (cx lastBad)).1 + acc.addr 0) 4 = true ∧ Clear lastBad (cx lastBad) acc :=
  ⟨_, rfl, by decide +kernel, rfl, by decide +kernel, by unfold Clear; decide +kernel⟩

theorem witness_LocalStores :
    (∃ acc d w, Runs (.stlUniform 2 1 .b32 (.off5 0)) last (cx last) ∧ last.memWf = true ∧
      access last (cx last) (.stlUniform 2 1 .b32 (.off5 0)) = some acc ∧ coreStore (.stlUniform 2 1 .b32 (.off5 0)) = some (d, w) ∧
      Clear last (cx last) acc) ∧
    ∃ acc, Runs (.stp 0 2 1 .b32 (.off5 0)) lane (cx lane) ∧ access lane (cx lane) (.stp 0 2 1 .b32 (.off5 0)) = some acc ∧
      Clear lane (cx lane) acc :=
  ⟨⟨_, _, _, runs (by decide +kernel), by decide +kernel, rfl, rfl, by unfold Clear; decide +kernel⟩,
    ⟨_, runs (by decide +kernel), rfl, by unfold Clear; decide +kernel⟩⟩

theorem witness_BitElements : lane.memWf = true ∧
    (∃ acc, Runs (.ldb 0 2 1 63 true) lane (cx lane) ∧ access lane (cx lane) (.ldb 0 2 1 63 true) = some acc ∧ Clear lane (cx lane) acc ∧
      (2 : VReg).toNat % Named.bitRegs 63 = 0 ∧ (lane.core 0).storePoison = []) ∧
    ∃ acc, Runs (.stb 0 2 1 0) lane (cx lane) ∧ access lane (cx lane) (.stb 0 2 1 0) = some acc ∧ Clear lane (cx lane) acc :=
  ⟨by decide +kernel, ⟨_, runs (by decide +kernel), rfl, by unfold Clear; decide +kernel, by decide +kernel, by decide +kernel⟩,
    ⟨_, runs (by decide +kernel), rfl, by unfold Clear; decide +kernel⟩⟩

/-- The last address of the space of R7 is 2⁵⁷ − 1. -/
def far : State := sample 0 [(2, 0xfffffff0), (3, 0x01ffffff)]

theorem witness_GlobalLoadsAndAtomics :
    (∃ acc d w, Runs (.lds 4 2 .b128 (.off5 0)) far (cx far) ∧ access far (cx far) (.lds 4 2 .b128 (.off5 0)) = some acc ∧
      globalLoad (.lds 4 2 .b128 (.off5 0)) = some (d, w) ∧ Clear far (cx far) acc ∧ (far.core 0).logStall = [] ∧ acc.side.lanes ≠ []) ∧
    ∃ acc r ops d sp sc o, Runs (.atomUniform ⟨false, false⟩ .add 4 2 .die .ar .zero) far (cx far) ∧
      access far (cx far) (.atomUniform ⟨false, false⟩ .add 4 2 .die .ar .zero) = some acc ∧
      atomic (.atomUniform ⟨false, false⟩ .add 4 2 .die .ar .zero) = some (r, ops, d, sp, sc, o) ∧ acc.space = .global ∧
      Clear far (cx far) acc ∧ acc.side.lanes ≠ [] ∧ far.released (cx far) sc = true :=
  ⟨⟨_, _, _, runs (by decide +kernel), rfl, rfl, by unfold Clear; decide +kernel, by decide +kernel, by decide +kernel⟩,
    ⟨_, _, _, _, _, _, _, runs (by decide +kernel), rfl, rfl, rfl, by unfold Clear; decide +kernel, by decide +kernel,
      by decide +kernel⟩⟩

theorem witness_GlobalStoresEnterTheBuffer : ∃ acc d w, Runs (.sts 4 2 .b128 (.off5 0)) far (cx far) ∧
    access far (cx far) (.sts 4 2 .b128 (.off5 0)) = some acc ∧ globalStore (.sts 4 2 .b128 (.off5 0)) = some (d, w) ∧
    Clear far (cx far) acc :=
  ⟨_, _, _, runs (by decide +kernel), rfl, rfl, by unfold Clear; decide +kernel⟩

theorem witness_CoreStoreAtomics : ∃ acc r ops d sp sc o, Runs (.casUniform ⟨false, true⟩ 4 1 .core .acq .zero) last (cx last) ∧
    last.memWf = true ∧ access last (cx last) (.casUniform ⟨false, true⟩ 4 1 .core .acq .zero) = some acc ∧
    atomic (.casUniform ⟨false, true⟩ 4 1 .core .acq .zero) = some (r, ops, d, sp, sc, o) ∧ acc.space = .store ∧
    Clear last (cx last) acc ∧ acc.side.lanes ≠ [] ∧ (last.core 0).storePoison = [] ∧ d % (acc.size / 4) = 0 :=
  ⟨_, _, _, _, _, _, _, runs (by decide +kernel), by decide +kernel, rfl, rfl, rfl, by unfold Clear; decide +kernel,
    by decide +kernel, by decide +kernel, by decide +kernel⟩

theorem witness_HintsAndAppends : Runs (.pref 0 .evict 2 (.off5 0)) lane (cx lane) ∧
    ∃ acc, Runs (.qapp 0 4 2 .die .rel .zero) lane (cx lane) ∧ access lane (cx lane) (.qapp 0 4 2 .die .rel .zero) = some acc ∧
      Clear lane (cx lane) acc ∧ (lane.core 0).logStall = [] ∧ acc.side.lanes ≠ [] ∧
      acc.side.lanes.length ≤ (lane.core 0).sbFree (pipeOf 0) ∧ lane.released (cx lane) .die = true :=
  ⟨runs (by decide +kernel), ⟨_, runs (by decide +kernel), rfl, by unfold Clear; decide +kernel, by decide +kernel, by decide +kernel,
    by decide +kernel, by decide +kernel⟩⟩

/-! Synchronisation: pins, chunks, barrier words, ring descriptors. -/

/-- Token of overlay 3 with no pin; 255 pins of overlay 3; four other pins. -/
def token (pins : List (Nat × Nat)) : State := sample 0 [(1, 0x80000003), (2, 3), (3, 65536), (4, 65535)] fun g => { g with pins }

theorem witness_OverlayInstructions : lane.memWf = true ∧
    (Runs (.ovld 5 (.reg 3)) (token []) (cx (token [])) ∧ 65536 ≤ (ovOperand (token []) (cx (token [])) (.reg 3)).toNat) ∧
    (Runs (.ovld 5 (.reg 2)) (token [(3, 255)]) (cx (token [(3, 255)])) ∧ (cx (token [(3, 255)])).g.pinCount 3 = 255) ∧
    (Runs (.ovld 5 (.reg 4)) (token []) (cx (token [])) ∧ (ovOperand (token []) (cx (token [])) (.reg 4)).toNat = 65535 ∧
      (cx (token [])).g.pinCount 65535 = 0) ∧
    (Runs (.ovwait 2) (token []) (cx (token [])) ∧ (ureg (token []) (cx (token [])) 2).toNat / 65536 ≠ 0x8000) ∧
    (Runs (.ovrel 1) (token []) (cx (token [])) ∧ (ureg (token []) (cx (token [])) 1).toNat / 65536 = 0x8000) ∧
    (Runs (.ovrel 1) (token [(3, 1)]) (cx (token [(3, 1)])) ∧ (cx (token [(3, 1)])).g.pinCount 3 ≠ 0) ∧
    Runs (.ovqry 5 (.reg 4)) (token []) (cx (token [])) := by
  refine ⟨?_, ⟨runs ?_, ?_⟩, ⟨runs ?_, ?_⟩, ⟨runs ?_, ?_, ?_⟩, ⟨runs ?_, ?_⟩, ⟨runs ?_, ?_⟩, ⟨runs ?_, ?_⟩, runs ?_⟩ <;> decide +kernel

/-- A group with the chunks, locks and reserve given. -/
def chunks (chunks : List (Option Nat)) (locks : List Nat) (reserve : Nat) : State :=
  sample 0 [] (fun g => { g with chunks, locks }) (ft := fun t => { t with decl := BitVec.ofNat 64 (4096 * 2 ^ 26 + reserve * 2 ^ 16) })
def none3 : State := chunks [none, none, none] [] 3
def held3 : State := chunks [some 0, none, none] [] 3
def inUse : State := chunks [some 0, none, none] [31] 3

theorem witness_RangesHeld : (3 : BitVec 2) ≠ 0 ∧ (cx none3).g.chunks.length = 3 ∧
    (Runs (.xacq 1) held3 (cx held3) ∧ ((cx held3).g.chunks.getD 0 none).isSome = true) ∧
    (Runs (.xacq 3) none3 (cx none3) ∧ (none3.core 0).acquireQ = [] ∧ (none3.core 0).grantable (cx none3).g.team = true ∧
      ∀ p ∈ (none3.core 0).groups, some 0 ∉ p.2.chunks) ∧
    (Runs (.xrel 2) none3 (cx none3) ∧ (cx none3).g.chunks.getD 1 none = none) ∧
    (Runs (.xrel 1) held3 (cx held3) ∧ ∀ q ∈ (cx held3).g.locks, q < 16 ∨ 32 ≤ q) ∧
    (Runs (.xrel 1) inUse (cx inUse) ∧ ∃ q ∈ (cx inUse).g.locks, 16 ≤ q ∧ q < 32) ∧
    ((trav none []).ctx? = some (cx (trav none [])) ∧ 512 ≤ (cx (trav none [])).gid ∧ Instr.laneOnly (.nop) = false ∧
      Instr.laneOnly (.addLane 0 1 2 (.v 3)) = true) ∧
    unheld (cx none3).g 0 (Instr.vregs (.addLane 0 16 2 (.v 31))) = [1] := by
  refine ⟨?_, ?_, ⟨runs ?_, ?_⟩, ⟨runs ?_, ?_, ?_, ?_⟩, ⟨runs ?_, ?_⟩, ⟨runs ?_, ?_⟩, ⟨runs ?_, ?_⟩, ⟨?_, ?_, ?_, ?_⟩, ?_⟩ <;> decide +kernel

/-- No chunk left: with all 992 held by other groups the request waits. -/
theorem witness_RangesHeld_none : (none3.core 0).groups.length = 1 ∧
    ({ none3.core 0 with teams := [(0, { groups := 1 }), (1, { decl := BitVec.ofNat 64 (992 * 2 ^ 16) })] } : Core).grantable 0 = false := by
  decide +kernel

/-- A barrier array of two words; the first holds `w`. -/
def barrier (w : DWord) (a b : Word) (arrivals : List (Nat × Nat)) : State :=
  sample 0 [(1, a), (2, b)] (fun g => { g with arrivals }) (fun k => k.putStore64 0 w)
    (fun t => { t with decl := BitVec.ofNat 64 (4096 * 2 ^ 26 + 2 * 2 ^ 11) })

theorem witness_BarrierArrivals_team :
    (Runs (.bara false 3 1) (barrier 1 4 0 []) (cx (barrier 1 4 0 [])) ∧ (barrier 1 4 0 []).memWf = true) ∧
    (Runs (.bara false 3 1) (barrier 1 16 0 []) (cx (barrier 1 16 0 [])) ∧
      8 * ((barrier 1 16 0 []).team 0 (cx (barrier 1 16 0 [])).g.team).barriers ≤ 16) ∧
    (Runs (.bara false 3 1) (barrier 0 0 0 []) (cx (barrier 0 0 0 [])) ∧ ¬ soundBarrier ((barrier 0 0 0 []).core 0 |>.store64 0)) ∧
    (Runs (.bara false 3 1) (barrier 1 0 0 []) (cx (barrier 1 0 0 [])) ∧ soundBarrier ((barrier 1 0 0 []).core 0 |>.store64 0) ∧
      (barrier 1 0 0 []).released (cx (barrier 1 0 0 [])) .core = true ∧ (cx (barrier 1 0 0 [])).g.arrival 0 ≠ some 0) ∧
    (Runs (.bara false 3 1) (barrier 2 0 0 [(0, 0)]) (cx (barrier 2 0 0 [(0, 0)])) ∧
      (cx (barrier 2 0 0 [(0, 0)])).g.arrival 0 = some 0) ∧
    (Runs (.barw false 1 2) (barrier 1 8 65536 []) (cx (barrier 1 8 65536 [])) ∧
      8 < 8 * ((barrier 1 8 65536 []).team 0 (cx (barrier 1 8 65536 [])).g.team).barriers) ∧
    Runs (.barw false 1 2) (barrier 1 8 65535 []) (cx (barrier 1 8 65535 [])) := by
  refine ⟨⟨runs ?_, ?_⟩, ⟨runs ?_, ?_⟩, ⟨runs ?_, ?_⟩, ⟨runs ?_, ?_, ?_, ?_⟩, ⟨runs ?_, ?_⟩, ⟨runs ?_, ?_⟩, runs ?_⟩
  all_goals (try unfold soundBarrier); decide +kernel

/-- The supervisor thread reads the block barrier at the start of HBM, whose word is w. -/
def blk (w : DWord) (b : Word) (arrivals : List (Nat × Nat)) : State :=
  { sample 576 [(6, b)] fun g => { g with arrivals } with
    hbm := ((leBytes 8 w.toNat).zipIdx.map fun p => (p.2, p.1)).filter fun (p : Host.Cell) => p.2 ≠ 0 }

theorem home_read (s : State) (ap : Ap) (off n : Nat) (h : (s.homeRead ap off n).2.2 = false) :
    s.homeRead ap off n = ((s.homeRead ap off n).1, (s.homeRead ap off n).2.1, false) := Prod.ext rfl (Prod.ext rfl h)

theorem witness_BarrierArrivals_block : ∃ s1 s2 bs, Runs (.bara true 3 4) (blk 1 0 []) (cx (blk 1 0 [])) ∧
    beyond (blk 1 0 []) (cx (blk 1 0 [])) .global 8 0 = none ∧ (blk 1 0 []).released (cx (blk 1 0 [])) .die = true ∧
    uniXlate (cx (blk 1 0 [])) (blk 1 0 []) 0 true = .ok .hbm 0 s1 ∧ barrierTarget s1 (cx (blk 1 0 [])) .hbm 0 = true ∧
    s1.homeRead .hbm 0 8 = (s2, bs, false) ∧ soundBarrier (BitVec.ofNat 64 (leNat bs)) ∧ (cx (blk 1 0 [])).g.arrival (2 ^ 64) ≠ some 0 :=
  ⟨blk 1 0 [], ((blk 1 0 []).homeRead .hbm 0 8).1, ((blk 1 0 []).homeRead .hbm 0 8).2.1, runs (by decide +kernel), by decide +kernel,
    by decide +kernel, rfl, by decide +kernel, home_read _ _ _ _ (by decide +kernel), by unfold soundBarrier; decide +kernel,
    by decide +kernel⟩

/-- A word of 0 is no barrier; a group that has arrived in generation 0; a token for BARW. -/
theorem witness_BarrierArrivals_block2 :
    ¬ soundBarrier (BitVec.ofNat 64 (leNat ((blk 0 0 []).homeRead .hbm 0 8).2.1)) ∧
    (cx (blk 1 0 [(2 ^ 64, 0)])).g.arrival (2 ^ 64) = some 0 ∧
    Runs (.barw true 4 6) (blk 1 65535 []) (cx (blk 1 65535 [])) ∧ (ureg (blk 1 65535 []) (cx (blk 1 65535 [])) 6).toNat < 65536 :=
  ⟨by unfold soundBarrier; decide +kernel, by decide +kernel, runs (by decide +kernel), by decide +kernel⟩

theorem witness_CounterWaitAndHalt :
    (let s := sample 0 [(1, 2)]; Runs (.waitc .grp 1 (.s 2)) s (cx s)) ∧
    (let s := sample 0 [(1, 4096)]; Runs (.waitc .grp 1 (.s 2)) s (cx s) ∧ beyond s (cx s) .store 4 4096 = some 1) ∧
    (Runs (.waitc .grp 1 (.s 2)) Tests.last (cx Tests.last) ∧ beyond Tests.last (cx Tests.last) .store 4 4092 = none) ∧
    Runs .halt lane (cx lane) ∧ (cx lane).gid ≠ supGid ∧ Runs .halt sup (cx sup) ∧ (cx sup).gid = supGid := by
  refine ⟨runs ?_, ⟨runs ?_, ?_⟩, ⟨runs ?_, ?_⟩, runs ?_, ?_, runs ?_, ?_⟩ <;> decide +kernel

/-- A ring of 4 slots of 16 bytes with its descriptor at 32, `free` slots and `full` ones. -/
def ring (free full : Nat) (releases : List RingRel) : State :=
  sample 0 [(1, 32), (2, 4)] id fun k =>
    { (k.putStore64 32 (BitVec.ofNat 64 (4 * 2 ^ 48 + 64))).putStore64 40 (BitVec.ofNat 64 (full * 2 ^ 48 + free * 2 ^ 32)) with releases }

/-- All four slots are free: a producer takes four; a consumer waits; a release of four slots that nothing delays. -/
theorem witness_RingSlots :
    (Runs (.cbwaitProd 3 1 (.s 2)) (ring 4 0 []) (cx (ring 4 0 [])) ∧ RingReady (ring 4 0 []) (cx (ring 4 0 [])) 32 4 (((ring 4 0 []).core 0).store64 32) ∧
      ((ring 4 0 []).core 0).ringWaits = [] ∧ (((ring 4 0 []).core 0).store64 40).extractLsb' 32 16 = 4) ∧
    (Runs (.cbwaitCons 3 1 (.s 2)) (ring 4 0 []) (cx (ring 4 0 [])) ∧ (((ring 4 0 []).core 0).store64 40).extractLsb' 48 16 = 0) ∧
    (Runs (.cbrelProd 1 (.s 2)) (ring 0 0 []) (cx (ring 0 0 [])) ∧ RingReady (ring 0 0 []) (cx (ring 0 0 [])) 32 4 (((ring 0 0 []).core 0).store64 32) ∧
      ((ring 0 0 []).core 0).releases = [] ∧ (ring 0 0 []).marksDone 0 (cx (ring 0 0 [])).g.uid 0xffffffff .core 0 0 0 = true) := by
  refine ⟨⟨runs ?_, ?_, ?_, ?_⟩, ⟨runs ?_, ?_⟩, ⟨runs ?_, ?_, ?_, ?_⟩⟩
  all_goals (try unfold RingReady); decide +kernel

/-- A store of the group that has not been performed. -/
def storing : State := sample 0 [] id fun k => { k with sbuf := [(0, { uid := 0, gid := 0, ctx := 1, pipe := 0, pc := 0, width := 0, uniform := false, bytes := [], victims := 0xffffffff })], nextSb := 1 }

theorem witness_RingSlots_wait : storing.marksDone 0 (cx storing).g.uid 0xffffffff .sys 1 0 0 = false := by decide +kernel

def opened : State :=
  let f : RFence := { core := 0, gid := 0, uid := 0, lanes := 0xffffffff, pc := 0x10000, scope := .sys, markers := [], marks := [] }
  { lane with fences := [(0, f)] }

theorem witness_FencesWait :
    (Runs (.fence .die) storing (cx storing) ∧ storing.fenced (cx storing) .die = false) ∧
    (Runs (.fence .sys) lane (cx lane) ∧ lane.fenced (cx lane) .sys = true ∧ lane.sequenced = []) ∧
    (Runs (.rfence .die) storing (cx storing) ∧ (cx storing).lanes ≠ 0 ∧ storing.fences = []) ∧
    (Runs (.rfence .sys) opened (cx opened) ∧ opened.fenced (cx opened) .sys = true ∧
      opened.fences.all (fun p => opened.fenceClear p.2 && (opened.fenceBad p.2).isNone) = true) := by
  refine ⟨⟨runs ?_, ?_⟩, ⟨runs ?_, ?_, ?_⟩, ⟨runs ?_, ?_, ?_⟩, ⟨runs ?_, ?_, ?_⟩⟩ <;> decide +kernel

/-- A discarded reflected store of the group. -/
theorem witness_FencesWait_bad :
    let q : Sequenced := { bad := some (1, 2, 3), core := 0, uid := 0, id := 0, entry := 0, client := .none, paths := [], lanes := 4 }
    let s : State := { lane with sequenced := [q] }
    Runs (.fence .sys) s (cx s) ∧ s.fenced (cx s) .sys = true ∧
    (s.sequenced.find? fun q => q.bad.isSome && q.uid == (cx s).g.uid && q.lanes &&& (cx s).lanes != 0).bind (·.bad) = some (1, 2, 3) := by
  refine ⟨runs ?_, ?_, ?_⟩ <;> decide +kernel

/-- With nothing outstanding both fences complete at once. -/
theorem witness_FencesWait_idle :
    (lane.core (cx lane).core).memops = [] ∧ (lane.core (cx lane).core).sbuf = [] ∧ (lane.core (cx lane).core).atoms = [] ∧
    lane.rstores = [] ∧ lane.sequenced = [] ∧ lane.fences = [] ∧
    Runs (.fence .pkg) lane (cx lane) ∧ Runs (.rfence .core) lane (cx lane) := by
  refine ⟨?_, ?_, ?_, ?_, ?_, ?_, runs ?_, runs ?_⟩ <;> decide +kernel

/-! Special registers, traps, the supervisor thread. -/

theorem witness_SystemRegisters : lane.memWf = true ∧ sup.memWf = true ∧
    (Runs (.rdsr 5 0x100) lane (cx lane) ∧ (cx lane).gid ≠ supGid) ∧
    Runs (.rdsr 5 0x02b) lane (cx lane) ∧
    (Runs (.rdsr 5 0x127) sup (cx sup) ∧ (cx sup).gid = supGid) ∧
    Runs (.wrsr 0x100 5) lane (cx lane) ∧
    (Runs (.wrsr 0x0ff 5) lane (cx lane) ∧ (0x0ff : Nat) ∉ writable) ∧
    (Runs (.wrsr 0x01b 5) lane (cx lane) ∧ (0x01b : Nat) ∈ writable) ∧
    (Runs (.wrsr 0x106 5) sup (cx sup) ∧ (0x106 : Nat) ∈ writable) ∧
    sup.ctx? = some (cx sup) ∧ (Instr.gresume 0x80000000, 0x105) ∈ [(Instr.arithWrite 0x80000000, 0x003), (.seedWrite 0x80000000, 0x004),
      (.sfpop 0x80000000, 0x01a), (.storeMapWrite 0x80000000, 0x101), (.srpop 0x80000000, 0x104), (.gresume 0x80000000, 0x105)] := by
  refine ⟨?_, ?_, ⟨runs ?_, ?_⟩, runs ?_, ⟨runs ?_, ?_⟩, runs ?_, ⟨runs ?_, ?_⟩, ⟨runs ?_, ?_⟩, ⟨runs ?_, ?_⟩, ?_, ?_⟩ <;> decide +kernel

/-- A handler is set, and every link stack holds d entries. -/
def armed (d : Nat) : State := sample 0 [(1, 575), (2, 1)] (fun g => { g with
  threads := g.threads.map (fun t => { t with depth := d }), trap := { g.trap with tvec := 0x00018000 },
  pending := [{ cause := 7, lanes := 0xffffffff }] })

/-- The last entry with room, and none; the window ends at 65,536 at most. -/
theorem witness_TrapEntry : ∃ g, (armed 67).group? 0 0 = some g ∧ 0 ≠ supGid ∧ (armed 67).memWf = true ∧
    ((armed 67).team 0 g.team).windowBase g + ((armed 67).team 0 g.team).windowOf 0 ≤ 65536 ∧
    ¬ escalates (armed 67) 0 0 1 ∧ escalates (armed 68) 0 0 1 ∧ escalates (armed 67) 0 0 0 ∧ escalates lane 0 0 1 := by
  refine ⟨_, rfl, by decide, by decide +kernel, by decide +kernel, ?_, ?_, ?_, ?_⟩ <;> unfold escalates <;> decide +kernel

theorem witness_TrapInstructions :
    (Runs (.trap 1023) lane (cx lane) ∧ (cx lane).quiet = false ∧ lane.second = none ∧ (1023 : BitVec 32).toNat < 1024) ∧
    (Runs (.trap 1024) lane (cx lane) ∧ 1024 ≤ (1024 : BitVec 32).toNat) ∧
    lane.ctx? = some (cx lane) ∧ (Runs .drainst storing (cx storing) ∧ (cx storing).lanes ≠ 0 ∧ storing.fences = [] ∧
      (∃ p ∈ (storing.core 0).sbuf, p.2.uid = (cx storing).g.uid ∧ p.1 < (storing.core 0).nextSb)) ∧
    (Runs .drainst lane (cx lane) ∧ (lane.core 0).sbuf = []) ∧
    (Runs .drainst opened (cx opened) ∧ ∃ f, opened.fences = [(0, f)] ∧ State.standsAt (cx opened) f = true ∧ f.lanes = (cx opened).lanes) ∧
    (∃ g t, (armed 0).group? 0 0 = some g ∧ g.trap.inHandler = false ∧ g.escalated = false ∧ g.ending = false ∧
      ((armed 0).team 0 g.team).saving = false ∧ g.pending = [t] ∧ t.cause ≠ 4) ∧
    ∃ g, sup.group? 0 supGid = some g := by
  refine ⟨⟨runs ?_, ?_, ?_, ?_⟩, ⟨runs ?_, ?_⟩, ?_, ⟨runs ?_, ?_, ?_, ?_⟩, ⟨runs ?_, ?_⟩, ⟨runs ?_, _, rfl, ?_, ?_⟩,
    ⟨_, _, rfl, ?_, ?_, ?_, ?_, rfl, ?_⟩, _, rfl⟩ <;> decide +kernel

/-- The supervisor thread with a destination in s8 and n messages in its inbox. -/
def mail (dst : Word) (n : Nat) : State :=
  sample 576 [(8, dst)] id fun k => { k with ctlIn := List.replicate n (0xc0000001, [1, 2, 3, 4]) }

theorem witness_ControlMessages :
    (Runs (.ctlsend 4 8) lane (cx lane) ∧ (cx lane).gid ≠ supGid) ∧
    (∀ n ∈ [(0, 0x00000001), (1, 0x40000003), (2, 0x8000003f), (3, 0xc00000ff)], Runs (.ctlsend 4 8) (mail n.2 0) (cx (mail n.2 0)) ∧
      (cx (mail n.2 0)).gid = supGid ∧ (ureg (mail n.2 0) (cx (mail n.2 0)) 8).toNat / 2 ^ 30 = n.1) ∧
    (∃ g, ((mail 0 15).core 0).groups.look supGid = some g) ∧ ((mail 0 15).core 0).ctlIn.length < 16 ∧
    16 ≤ ((mail 0 16).core 0).ctlIn.length ∧
    (Runs (.ctlrecv 27) lane (cx lane) ∧ lane.memWf = true) ∧
    (Runs (.ctlrecv 27) sup (cx sup) ∧ sup.memWf = true ∧ (cx sup).gid = supGid ∧ (sup.core 0).ctlIn = []) ∧
    Runs (.ctlrecv 27) (mail 0 1) (cx (mail 0 1)) ∧ (mail 0 1).memWf = true ∧
      ((mail 0 1).core 0).ctlIn = [(0xc0000001, [1, 2, 3, 4])] := by
  refine ⟨⟨runs ?_, ?_⟩, ?_, ⟨_, rfl⟩, ?_, ?_, ⟨runs ?_, ?_⟩, ⟨runs ?_, ?_, ?_, ?_⟩, runs ?_, ?_, ?_⟩
  case refine_3 =>
    intro n hn
    simp only [List.mem_cons, List.not_mem_nil, or_false] at hn
    rcases hn with rfl | rfl | rfl | rfl <;> exact ⟨runs (by decide +kernel), by decide +kernel, by decide +kernel⟩
  all_goals decide +kernel

/-- Index 1 of a team of two whose second group is not there; index 2 outside the team; the own group; base set 576. -/
theorem witness_GroupTermination :
    (let s := sample 0 [(1, 2)] id id fun t => { t with groups := 2 };
      Runs (.termg 1) s (cx s) ∧ (cx s).gid ≠ supGid ∧ (ureg s (cx s) 1).toNat ≠ 0xffffffff ∧
        (s.team 0 (cx s).g.team).groups ≤ (ureg s (cx s) 1).toNat) ∧
    (let s := sample 0 [(1, 1)] id id fun t => { t with groups := 2 };
      Runs (.termg 1) s (cx s) ∧ (ureg s (cx s) 1).toNat < (s.team 0 (cx s).g.team).groups ∧
        ((s.core 0).groups.find? fun p => p.2.team == (cx s).g.team && p.2.index == 1) = none) ∧
    (let s := sample 0 [(1, 0xffffffff)];
      ∃ g, Runs (.termg 1) s (cx s) ∧ (ureg s (cx s) 1).toNat = 0xffffffff ∧ s.group? 0 0 = some g ∧ (cx s).gid = 0 ∧
        g.ending = false ∧ g.ray = none) ∧
    (let s := sample 576 [(1, 576)]; Runs (.termg 1) s (cx s) ∧ (cx s).gid = supGid ∧ 576 ≤ (ureg s (cx s) 1).toNat) := by
  refine ⟨⟨runs ?_, ?_, ?_, ?_⟩, ⟨runs ?_, ?_, ?_⟩, ⟨_, runs ?_, ?_, rfl, ?_, ?_, ?_⟩, runs ?_, ?_, ?_⟩ <;> decide +kernel

/-! Engines, rays, items. -/

/-- A command of the copy engine with descriptor and counter at the places given; n commands are queued, two of them in private
slots of the group. -/
def commands (desc ctr : Word) (n : Nat) : State :=
  let q : Cmd := { uid := 0, gid := 0, team := 0, ctx := 1, major := 0x60, code := 0, desc := 0, ctr := 0, scope := .core, acq := false,
                   rel := false, lanes := 0, pc := 0, priv := true }
  sample 0 [(1, desc), (2, ctr)] id fun k =>
    { k with eq := (List.range n).map fun i => (i, { q with priv := decide (i < 2) }), nextCmd := n }
def cpy12 : Instr := .cpy { a := 1, b := .s 2, scope := .die, acq := true, rel := true }

theorem witness_EngineCommandsIssue : command cpy12 = some (0x60, 0, { a := 1, b := .s 2, scope := .die, acq := true, rel := true }) ∧
    (∀ p ∈ [((32, 4092, 0) : Word × Word × Nat), (4032, 4094, 0), (4096, 4092, 0), (4032, 4096, 0), (4032, 4092, 258), (4032, 4092, 257),
      (4032, 4092, 1)],
      Runs cpy12 (commands p.1 p.2.1 p.2.2) (cx (commands p.1 p.2.1 p.2.2))) ∧
    beyond (commands 4096 4092 0) (cx (commands 4096 4092 0)) .store 64 4096 = some 1 ∧
    beyond (commands 4032 4096 0) (cx (commands 4032 4096 0)) .store 64 4032 = none ∧
    beyond (commands 4032 4096 0) (cx (commands 4032 4096 0)) .store 4 4096 = some 1 ∧
    beyond (commands 4032 4092 0) (cx (commands 4032 4092 0)) .store 4 4092 = none ∧
    ((commands 4032 4092 258).core 0).eq.countP (fun p => p.2.gid = 0 && p.2.priv) = 2 ∧
    ((commands 4032 4092 258).core 0).eq.countP (fun p => !p.2.priv) = 256 ∧
    ((commands 4032 4092 257).core 0).eq.countP (fun p => !p.2.priv) = 255 ∧
    ((commands 4032 4092 1).core 0).eq.countP (fun p => p.2.gid = 0 && p.2.priv) = 1 := by
  refine ⟨rfl, ?_, ?_, ?_, ?_, ?_, ?_, ?_, ?_, ?_⟩
  case refine_1 =>
    intro p hp
    simp only [List.mem_cons, List.not_mem_nil, or_false] at hp
    rcases hp with rfl | rfl | rfl | rfl | rfl | rfl | rfl <;> exact runs (by decide +kernel)
  all_goals decide +kernel

/-- A ray along x in s0 to s23, n home slots in use, and a core that is a stage's. -/
def rays (dir : Word) (n : Nat) : State := sample 0 [(3, dir), (7, 0x7f800000)] id fun k =>
  { k with homeUsed := List.range n, stage := some 0 }

theorem ray_refused : refusedRay (rays 0 0) (cx (rays 0 0)) (block (rays 0 0) (cx (rays 0 0)) 0) :=
  Or.inr (Or.inl (by decide +kernel))

theorem ray_good (n : Nat) (h : n = 1024 ∨ n = 1023) :
    ¬ refusedRay (rays 0x3f800000 n) (cx (rays 0x3f800000 n)) (block (rays 0x3f800000 n) (cx (rays 0x3f800000 n)) 0) := by
  rcases h with rfl | rfl
  all_goals
    rintro (h | h | h | h | h | h | h | h | h | h | h)
    all_goals first
      | exact absurd h.1 (by decide +kernel)
      | exact absurd h (by decide +kernel)

theorem witness_RaysAndItemsLeave_rays :
    (Runs (.raysendUniform 0) (rays 0 0) (cx (rays 0 0)) ∧ (rays 0 0).memWf = true ∧
      raysOf (rays 0 0) (cx (rays 0 0)) (.raysendUniform 0) = some [block (rays 0 0) (cx (rays 0 0)) 0]) ∧
    (Runs (.raysendUniform 0) (rays 0x3f800000 1024) (cx (rays 0x3f800000 1024)) ∧ (rays 0x3f800000 1024).memWf = true ∧
      ((rays 0x3f800000 1024).core 0).homeUsed.length = 1024) ∧
    Runs (.raysendUniform 0) (rays 0x3f800000 1023) (cx (rays 0x3f800000 1023)) ∧ (rays 0x3f800000 1023).memWf = true ∧
      ((rays 0x3f800000 1023).core 0).homeUsed.length = 1023 := by
  refine ⟨⟨runs ?_, ?_, rfl⟩, ⟨runs ?_, ?_, ?_⟩, runs ?_, ?_, ?_⟩ <;> decide +kernel

/-- A stage of context 1 with n items on die 0, and no room in memory beyond its queue. -/
def staged (st : Word) (n : Nat) : State :=
  let y : Stage := { ctx := 1, queue := 0, launch := 0, groups := 1, decl := 0, entry := 0x10000, tag := 0, args := [], initIdx := 0,
                     items := List.replicate n { words := [], since := 0 } }
  { (sample 0 [(9, st)]).setCtl (State.stageOff 0 15 0) (BitVec.ofNat 64 (2 ^ 63)) with dies := [(0, { stages := [(15, y)] })] }

theorem item_good (n : Nat) (h : n = 4095 ∨ n = 4096) :
    ¬ refusedItem (staged 15 n) (cx (staged 15 n)) (15, [0, 0, 0, 0]) := by
  rcases h with rfl | rfl
  all_goals
    rintro (h | h | h | h)
    all_goals first
      | exact h _ rfl rfl
      | exact absurd h (by decide +kernel)

theorem witness_RaysAndItemsLeave_items :
    (Runs (.spawnUniform 4 (.s 9)) (staged 16 0) (cx (staged 16 0)) ∧
      itemsOf (staged 16 0) (cx (staged 16 0)) (.spawnUniform 4 (.s 9)) = some [(16, [0, 0, 0, 0])] ∧
      refusedItem (staged 16 0) (cx (staged 16 0)) (16, [0, 0, 0, 0])) ∧
    (Runs (.spawnUniform 4 (.s 9)) (staged 15 4096) (cx (staged 15 4096)) ∧
      itemsOf (staged 15 4096) (cx (staged 15 4096)) (.spawnUniform 4 (.s 9)) = some [(15, [0, 0, 0, 0])] ∧
      (staged 15 4096).stageRoom 0 15 < 1) ∧
    Runs (.spawnUniform 4 (.s 9)) (staged 15 4095) (cx (staged 15 4095)) ∧
      itemsOf (staged 15 4095) (cx (staged 15 4095)) (.spawnUniform 4 (.s 9)) = some [(15, [0, 0, 0, 0])] ∧
      (staged 15 4095).stageRoom 0 15 = 1 := by
  refine ⟨⟨runs ?_, ?_, Or.inl ?_⟩, ⟨runs ?_, ?_, ?_⟩, runs ?_, ?_, ?_⟩ <;> decide +kernel

/-! What a translation, an engine access and a page list find. -/

def xlOf : Xl → Option (Ap × Nat × State)
  | .ok ap off s => some (ap, off, s)
  | _ => none

theorem xl_ok {r : Xl} (h : (xlOf r).isSome = true) : ∃ p, xlOf r = some p ∧ r = .ok p.1 p.2.1 p.2.2 := by
  cases r <;> simp_all [xlOf]

def accOf : EngAcc → Option (State × List Byte)
  | .ok s bs => some (s, bs)
  | _ => none

theorem acc_ok {r : EngAcc} (h : (accOf r).isSome = true) : ∃ p, accOf r = some p ∧ r = .ok p.1 p.2 := by
  cases r <;> simp_all [accOf]

/-- Page 0 of context 1 lies at the start of HBM, in engine cache 0, 1 and 2 of core 0. -/
def page0 : TEntry := { ctx := 1, page := 0, size := 4096, read := true, write := true, ap := .hbm, off := 0, dirty := true }
def mapped (fk : Core → Core) (fd : Die → Die := id) (word : Word := 0x80000000) : State :=
  { sample 0 [] id (fun k => fk { k with tcache := [(0, [page0]), (1, [page0]), (2, [page0])] }) id word with dies := [(0, fd {})] }

/-! Traversal threads. -/

/-- A traversal thread that holds the ray in s0 to s23, with a treelet of n nodes and m slots in slot 0. -/
def inTreelet (ref : Word) (n m : Nat) (slot : Option Nat := some 0) (image : List Host.Cell := []) (f : Word := 0) : State :=
  sample 512 [(3, 0x3f800000), (7, 0x7f800000), (13, f), (28, ref)] (fun g => { g with ray := some { base := 0, home := 0, slot } })
    fun k => { k with store := image.foldl (fun (m : Memory) c => Mem.write (n := 8) m c.1 [c.2]) (Mem.write (n := 8) [] 8 (leBytes 2 n ++ leBytes 2 m)),
                      slots := [(0, { state := .resident })] }

/-- An identity instance record whose mask byte is given, at byte 64 of a treelet without nodes. -/
def instance_ (mask : Byte) : List Host.Cell :=
  [(64 + 2, 0x80), (64 + 3, 0x3f), (64 + 22, 0x80), (64 + 23, 0x3f), (64 + 42, 0x80), (64 + 43, 0x3f), (64 + 56, mask)]

theorem witness_TraversalInstructions_holds :
    (Runs (.boxt 24 28 0) lane (cx lane) ∧ traversalWord (.boxt 24 28 0) = some (true, true, 0) ∧ ¬ traverses (cx lane)) ∧
    (Runs (.hitsend 28 0) (trav none []) (cx (trav none [])) ∧ traverses (cx (trav none [])) ∧ (cx (trav none [])).g.ray = none) ∧
    (let s := inTreelet 0 1 0 none; Runs (.boxt 24 28 0) s (cx s) ∧ traverses (cx s) ∧ (cx s).g.ray = some ⟨0, 0, none⟩) ∧
    (let s := inTreelet 0 1 0 (some 0) [] 0x10000; Runs (.boxt 24 28 0) s (cx s) ∧ traverses (cx s) ∧ Ray.done (block s (cx s) 0) = true) := by
  refine ⟨⟨runs ?_, rfl, ?_⟩, ⟨runs ?_, ?_, ?_⟩, ⟨runs ?_, ?_, ?_⟩, runs ?_, ?_, ?_⟩
  all_goals (try unfold traverses); decide +kernel

/-- An inbox whose second ray can be delivered, one with a done ray at its head, and one with none. -/
def boxed (l : List InRay) : State := sample 512 [] id fun k => { k with inbox := l, slots := [(1, { state := .resident })] }
def ray0 : List Word := List.replicate 24 0
def second : State := boxed [⟨some 0, ray0, 0⟩, ⟨some 1, ray0, 0⟩]
def doneFirst : State := boxed [⟨none, ray0, 0⟩, ⟨some 1, ray0, 0⟩]
def undelivered : State := boxed [⟨some 0, ray0, 0⟩]

theorem witness_TraversalInstructions_receive :
    (Runs (.rayrecv 8) undelivered (cx undelivered) ∧ traverses (cx undelivered) ∧ (cx undelivered).g.ray = none ∧
      undelivered.memWf = true ∧ ∀ r ∈ (undelivered.core 0).inbox, r.slot ≠ none ∧ (undelivered.core 0).deliverable r = false) ∧
    (Runs (.rayrecv 8) second (cx second) ∧ traverses (cx second) ∧ (cx second).g.ray = none ∧ second.memWf = true ∧
      (second.core 0).inbox = [⟨some 0, ray0, 0⟩] ++ ⟨some 1, ray0, 0⟩ :: [] ∧ ray0.length = 24 ∧
      (second.core 0).deliverable ⟨some 1, ray0, 0⟩ = true ∧ (second.core 0).deliverable ⟨some 0, ray0, 0⟩ = false) ∧
    (Runs (.rayrecv 8) doneFirst (cx doneFirst) ∧ traverses (cx doneFirst) ∧ (cx doneFirst).g.ray = none ∧ doneFirst.memWf = true ∧
      (doneFirst.core 0).inbox = [] ++ ⟨none, ray0, 0⟩ :: [⟨some 1, ray0, 0⟩]) := by
  refine ⟨⟨runs ?_, ?_, ?_, ?_, ?_⟩, ⟨runs ?_, ?_, ?_, ?_, ?_, ?_, ?_, ?_⟩, runs ?_, ?_, ?_, ?_, ?_⟩
  all_goals (try unfold traverses); decide +kernel

theorem witness_TraversalInstructions_leave : let s := inTreelet 0x80000005 1 0
    (cx s).g.ray = some ⟨0, 0, some 0⟩ ∧ traverses (cx s) ∧ Runs (.hitsend 28 0) s (cx s) ∧ Runs (.rayend 0) s (cx s) ∧
    Runs (.rayfwd 4 24 0) s (cx s) ∧ (24 : SReg).toNat + 2 * (4 : BitVec 3).toNat ≤ 32 ∧
    Machine.pushed 1 0 (block s (cx s) 0) 0x80000005 0 = some (5, 0) ∧ Machine.pushed 1 0 (block s (cx s) 0) 0 0 = none := by
  refine ⟨?_, ?_, runs ?_, runs ?_, runs ?_, ?_, ?_, ?_⟩
  all_goals (try unfold traverses); decide +kernel

/-- What the clauses on BOXT, TRIT and RXF share. -/
def Bound (i : Instr) (s : State) : Prop :=
  Runs i s (cx s) ∧ (cx s).g.ray = some ⟨0, 0, some 0⟩ ∧ traverses (cx s) ∧ s.memWf = true ∧ (s.core 0).storePoison = [] ∧
    Ray.done (block s (cx s) 0) = false ∧ rayNumbers (block s (cx s) 0) = true
theorem bound {i : Instr} {s : State} (h : ready i s = true) (r : (cx s).g.ray = some ⟨0, 0, some 0⟩ ∧ (512 ≤ (cx s).gid ∧ (cx s).gid ≠ supGid) ∧
    s.memWf = true ∧ (s.core 0).storePoison = [] ∧ Ray.done (block s (cx s) 0) = false ∧ rayNumbers (block s (cx s) 0) = true) : Bound i s :=
  ⟨runs h, r.1, r.2.1, r.2.2⟩

/-- The last node of 1,023 and the one after it; the last slot and the one after it; an instance that is entered, one whose mask
does not meet, and a reference that is none. -/
theorem witness_TraversalInstructions_tests :
    (Bound (.boxt 24 28 0) (inTreelet 1022 1023 0) ∧
      badNode 1023 0 (imageBytes (inTreelet 1022 1023 0) (cx (inTreelet 1022 1023 0)) 0 (64 + 64 * 1022) 64) = false ∧
      nodesOf (inTreelet 1022 1023 0) (cx (inTreelet 1022 1023 0)) 0 = 1023) ∧
    Bound (.boxt 24 28 0) (inTreelet 1023 1023 0) ∧
    (Bound (.trit 24 28 0) (inTreelet 0x40000000 0 1) ∧ badRef 0 1 0x40000000 = false ∧
      leNat ((imageBytes (inTreelet 0x40000000 0 1) (cx (inTreelet 0x40000000 0 1)) 0 64 48).drop 44) < 2 ^ 10) ∧
    (Bound (.trit 24 28 0) (inTreelet 0x40000001 0 1) ∧ badRef 0 1 0x40000001 = true) ∧
    (∀ m ∈ [(0 : Byte), 1], let s := inTreelet 0xc0000000 0 2 (some 0) (instance_ m) 0x00400000
      Bound (.rxf 24 28 0) s ∧ badRef 0 2 0xc0000000 = false ∧
        (enterSpace (block s (cx s) 0) (imageBytes s (cx s) 0 64 96)).isSome = true ∧
        (byteAt (imageBytes s (cx s) 0 64 96) 56 &&& flagOf (block s (cx s) 0) 29 22 ≠ 0 ↔ m = 1)) ∧
    Bound (.rxf 24 28 0) (inTreelet 0x80000000 0 2) := by
  refine ⟨⟨bound ?_ ?_, ?_, ?_⟩, bound ?_ ?_, ⟨bound ?_ ?_, ?_, ?_⟩, ⟨bound ?_ ?_, ?_⟩, ?masks, bound ?_ ?_⟩
  case masks =>
    intro m hm
    simp only [List.mem_cons, List.not_mem_nil, or_false] at hm
    rcases hm with rfl | rfl
    · exact ⟨bound (by decide +kernel) (by decide +kernel), by decide +kernel, by decide +kernel, by decide +kernel⟩
    · exact ⟨bound (by decide +kernel) (by decide +kernel), by decide +kernel, by decide +kernel, by decide +kernel⟩
  all_goals decide +kernel

/-! Events: translations. -/

/-- A miss of context 1 that a load and a hint wait for; a fault table entry; a log entry; an invalidation. -/
def missing (late : Bool) : State := mapped (fun k => { k with opLog := [(3, { op := 0, lanes := 5, page := 0, ft := 0 })] }) fun d => { d with
  misses := [(0, { ctx := 1, page := 4096, write := false, stale := if late then [(4096, 8192)] else [], waiters := [(.thr 0 0, false, false), (.thr 0 1, false, true)] })],
  faults := [(7, { ctx := 1, page := 4096, waiters := [.thr 0 0] })] }

theorem witness_TranslatedAccesses_ats :
    (∃ m, ((missing true).die 0).misses.look 0 = some m ∧ ∃ r ∈ m.stale, m.page < r.2 ∧ r.1 < m.page + 4096) ∧
    (∃ m, ((missing false).die 0).misses.look 0 = some m ∧ m.stale = [] ∧ m.fault = none ∧ ∀ w ∈ m.waiters, w.1.isSaved = false) ∧
    (∃ f, ((missing false).die 0).faults.look 7 = some f ∧ f.state = .outstanding ∧ (∃ w ∈ f.waiters, w.isSaved = false) ∧
      ∃ j < 256, ((missing false).die 0).misses.look j = none) ∧
    (∃ l, ((missing false).core 0).opLog.look 3 = some l) ∧
    (let s := lane.setCtl (State.ctxOff 1 4) (BitVec.ofNat 64 (2 ^ 63 + 9)); 1 ∈ s.contextsOf 9) ∧
    let v : Inval := { pasid := 9, va := 0, size := 4096, left := [] }; ({ lane with invals := [(31, v)] } : State).invals.look 31 = some v := by
  refine ⟨⟨_, rfl, ?_⟩, ⟨_, rfl, rfl, rfl, ?_⟩, ⟨_, rfl, rfl, ?_, 255, ?_⟩, ⟨_, rfl⟩, ?_, rfl⟩ <;> decide +kernel

/-- A load of lane 31 of the group, at an address, and the hints of the same lane. -/
def loading (kind : MemKind) (va : Nat) (lanes : List LaneAcc := []) (fd : Die → Die := id) : State := mapped (fun k => { k with
  groups := k.groups.map fun p => (p.1, { p.2 with locks := [63] })
  memops := [(0, { uid := 0, gid := 0, ctx := 1, pc := 0, word := 0, lit := 0, kind, dst := 15, regs := 1, uniform := false,
                   lanes := lanes ++ [{ lane := 31, va }] })] }) fd
def failing (hint : Bool) : Die → Die := fun d => { d with
  xfails := [{ who := .ev (.translationRequest 0 0 31), ctx := 1, page := 0, code := if hint then 0x100 else 3 }] }

theorem witness_TranslatedAccesses_lanes :
    (∃ o a, ((loading (.load 4 false) 4092).core 0).memops.look 0 = some o ∧ o.lanes.find? (fun b => b.lane = 31) = some a ∧ o.ctx ≠ 255 ∧
      o.kind = .load 4 false ∧ o.lanes = [a] ∧
      (∃ p : Ap × Nat × State, (loading (.load 4 false) 4092).xlate 0 0 1 a.va false false (.ev (.translationRequest 0 0 31)) = .ok p.1 p.2.1 p.2.2) ∧
      (∃ u, (loading (.load 4 false) 4096).xlate 0 0 1 4096 false false (.ev (.translationRequest 0 0 31)) = .wait u) ∧
      ∃ u, (loading (.load 4 false) 0 [] (failing false)).xlate 0 0 1 0 false false (.ev (.translationRequest 0 0 31)) = .fail 3 u) ∧
    (∃ u, (loading (.pref .l1) 0 [] (failing true)).xlate 0 0 1 0 false true (.ev (.translationRequest 0 0 31)) = .fail 0x100 u) ∧
    (∃ o, ((loading (.load 4 false) 0 [{ lane := 0, va := 0 }]).core 0).memops.look 0 = some o ∧ ∃ b ∈ o.lanes, b.lane ≠ 31 ∧ b.done = false) ∧
    (∃ o g, ((loading (.load 4 false) 0 [{ lane := 0, va := 0, done := true }]).core 0).memops.look 0 = some o ∧
      (∀ b ∈ o.lanes, b.lane = 31 ∨ b.done = true) ∧ o.kind = .load 4 false ∧
      (loading (.load 4 false) 0 [{ lane := 0, va := 0, done := true }]).group? 0 o.gid = some g ∧ g.uid = o.uid ∧
      (loading (.load 4 false) 0 [{ lane := 0, va := 0, done := true }]).memWf = true ∧ (o.lanes.map (·.lane)).Nodup ∧
      (∀ b ∈ o.lanes, b.lane < 32) ∧ o.uniform = false ∧ o.gid < 512 ∧ (g.vRow o.gid o.dst).isSome = true ∧ o.dst < 64 ∧
      o.dst % 16 + o.regs ≤ 16) := by
  refine ⟨⟨_, _, rfl, rfl, ?_, rfl, rfl, ?hit, ⟨_, rfl⟩, ⟨_, rfl⟩⟩, ⟨_, rfl⟩, ⟨_, rfl, ?_⟩, ⟨_, _, rfl, ?_, rfl, rfl, rfl, ?_, ?_, ?_, rfl, ?_, ?_, ?_, ?_⟩⟩
  case hit =>
    obtain ⟨p, _, h⟩ := xl_ok (r := (loading (.load 4 false) 4092).xlate 0 0 1 4092 false false (.ev (.translationRequest 0 0 31)))
      (by decide +kernel)
    exact ⟨p, h⟩
  all_goals decide +kernel

/-! Events: memory. -/

/-- Slice 0 of die 0 with a queue, misses and a waiting capacity write. -/
def sliced (queue : List Req) (misses : AMap (List Req)) (capWait : Option Req := none) : State :=
  let s := mapped id fun d => { d with slices := [(0, { queue, misses, capWait, nextMiss := 128 })] }
  s.setCtl (State.capLinkOff 0) (BitVec.ofNat 64 (2 ^ 31))
def reading : Req := { ap := .hbm, off := 0, kind := .read 4, client := .none }
def writing : Req := { ap := .hbm, off := 0, kind := .write [], client := .none }
def capWriting : Req := { ap := .cap, off := 0, kind := .write [], client := .none }

theorem witness_MemorySteps_slices :
    ((sliced [reading] [(3, [writing])]).slice 0 0).queue = [reading] ∧
    ((sliced [reading] [(3, [writing])]).slice 0 0).misses.find? (fun m => m.2.any fun q =>
      ((sliced [reading] [(3, [writing])]).homeOf q.ap q.off).line == ((sliced [reading] [(3, [writing])]).homeOf .hbm 0).line) =
        some (3, [writing]) ∧
    (let s := sliced [reading] ((List.range 127).map fun i => (i, [])); (s.slice 0 0).queue = [reading] ∧ s.needsFill reading = true ∧
      (s.slice 0 0).misses.length = 127 ∧ (s.slice 0 0).misses.find? (fun m => m.2.any fun _ => true) = none) ∧
    (let s := sliced [writing] []; (s.slice 0 0).queue = [writing] ∧ s.needsFill writing = false ∧ writing.ap ≠ .cap) ∧
    (let s := sliced [capWriting] []; (s.slice 0 0).queue = [capWriting] ∧ capWriting.ap = .cap ∧ (s.slice 0 0).capWait = none) ∧
    ((sliced [] [(3, [reading, writing])]).slice 0 0).misses.look 3 = some [reading, writing] ∧ reading.ap ≠ .cap ∧
    (let s := sliced [] [] (some capWriting); (s.slice 0 0).capWait = some capWriting ∧ s.capDown 0 = false ∧ s.offline 0 = false) := by
  decide +kernel

/-- A fill of line 0 into granule 5, a request at the memory port, and one store of the group. -/
def filling (install : Bool) (kind : ReqKind) : State := mapped fun k => { k with
  l1fills := [(0, { ctx := 1, ap := .hbm, off := 0, line := 0, sector := 0, way := 5, install, data := List.replicate 48 0, poison := List.replicate 48 false, waiters := [] })]
  portQ := [{ ap := .store, off := 0x7fffff, kind, client := .none }]
  sbuf := [(0, { pipe := 0, uid := 0, gid := 0, ctx := 1, pc := 0, width := 4, uniform := false, bytes := [{ va := 4095, val := 1, lane := 0 }] })] }

theorem witness_MemorySteps_core :
    (∃ f, ((filling true (.read 1)).core 0).l1fills.look 0 = some f ∧ f.install = true ∧ (∀ b ∈ f.poison, b = false) ∧
      ∀ e ∈ ((filling true (.read 1)).core 0).sbuf, (f.ap, f.off) ∉ e.2.sectors) ∧
    (∃ f, ((filling false (.read 1)).core 0).l1fills.look 0 = some f ∧ f.install = false) ∧
    (∃ r, ((filling true (.read 1)).core 0).portQ = [r] ∧ r.kind = .read 1) ∧ (∃ r, ((filling true (.write [])).core 0).portQ = [r] ∧ r.kind = .write []) ∧
    (∃ e, ((filling true (.read 1)).core 0).sbuf = [(0, e)] ∧ e.ticket = none ∧ e.faults = [] ∧ e.ctx ≠ 255 ∧ e.bytes ≠ [] ∧
      (∀ b ∈ e.bytes, b.va / 4096 * 4096 = 0 ∧ b.sent = false) ∧
      ∃ p : Ap × Nat × State, (filling true (.read 1)).xlate 0 0 1 0 true false (.ev (.storeBufferDrain 0 0 0)) = .ok p.1 p.2.1 p.2.2) ∧
    0 < 64 ∧ 64 ≤ 64 ∧ (8 * 0x600000 - 64 + 64 + 7) / 8 ≤ 0x600000 ∧ lane.memWf = true := by
  refine ⟨⟨_, rfl, rfl, ?_, ?_⟩, ⟨_, rfl, rfl⟩, ⟨_, rfl, rfl⟩, ⟨_, rfl, rfl⟩, ⟨_, rfl, rfl, rfl, ?_, ?_, ?_, ?hit⟩, ?_, ?_, ?_, ?_⟩
  case hit =>
    obtain ⟨p, _, h⟩ := xl_ok (r := (filling true (.read 1)).xlate 0 0 1 0 true false (.ev (.storeBufferDrain 0 0 0))) (by decide +kernel)
    exact ⟨p, h⟩
  all_goals decide +kernel

/-! Events: overlays. -/

/-- A load of overlay 0 of context 1, whose table entry lies at address 0 and names one slot at address 0; records given; every
thread parked if `stuck`. -/
def overlays (records : AMap OvRecord := []) (stuck : Bool := false) : State :=
  let s := mapped fun k => { k with
    loadQ := [{ ctx := 1, id := 0, slots := if stuck then 1 else 0, recNo := 1, stuck }], records := k.records ++ records, nextRec := 2
    refused := [{ ctx := 1, id := 4, slots := 256, recNo := 1 }], srec := List.replicate 31 []
    groups := if stuck then k.groups.map fun p => (p.1, { p.2 with threads := p.2.threads.map fun t => { t with wait := some (.park 0 .start) } })
      else k.groups }
  { s.setCtl (State.ctxOff 1 1) 1 with hbm := [(7, 0x80)] }
def placing : Waiter := .ev (.overlayPlacement 0)
def pagesFrom : Pages → Option (List (Ap × Nat) × State)
  | .ok l s => some (l, s)
  | _ => none

theorem witness_OverlaySteps_place : ∃ s1 s2 s3 bs, (overlays).shareBehind 0 = overlays ∧
    ((overlays).core 0).loadQ = [{ ctx := 1, id := 0, slots := 0, recNo := 1 }] ∧ ((overlays).core 0).loading < 4 ∧
    0 < (overlays).ovtCount 1 ∧ (overlays).xlate 0 2 1 ((overlays).ovtBase 1) false false placing = .ok .hbm 0 s1 ∧ codeAp .hbm = true ∧
    s1.readable .hbm 0 = true ∧ s1.homeRead .hbm 0 8 = (s2, bs, false) ∧ ovEntry (leNat bs) = some (1, false, 0) ∧ 1 ≤ s3.slotQuota 1 ∧
    s2.xlatePages 0 2 1 0 (.overlayPlacement 0) 1 = .ok [(.hbm, 0)] s3 ∧ codeAp .hbm = true ∧ s3.readable .hbm 0 = true := by
  obtain ⟨p, hp, h⟩ := xl_ok (r := (overlays).xlate 0 2 1 ((overlays).ovtBase 1) false false placing) (by decide +kernel)
  have e : p = ((xlOf ((overlays).xlate 0 2 1 ((overlays).ovtBase 1) false false placing)).getD (.hbm, 0, overlays)) := by rw [hp]; rfl
  subst e
  have hq : ∃ l u, pagesFrom (((xlOf ((overlays).xlate 0 2 1 ((overlays).ovtBase 1) false false placing)).getD (.hbm, 0, overlays)).2.2.homeRead
      .hbm 0 8 |>.1.xlatePages 0 2 1 0 (.overlayPlacement 0) 1) = some (l, u) ∧ l = [(.hbm, 0)] ∧ u.readable .hbm 0 = true ∧ 1 ≤ u.slotQuota 1 :=
    ⟨_, _, rfl, by decide +kernel, by decide +kernel, by decide +kernel⟩
  obtain ⟨l, u, hu, rfl, hr, hn⟩ := hq
  refine ⟨_, _, u, _, rfl, by decide +kernel, by decide +kernel, by decide +kernel, h, rfl, by decide +kernel, home_read _ _ _ _ (by decide +kernel),
    by decide +kernel, hn, ?_, rfl, hr⟩
  revert hu
  cases State.xlatePages _ 0 2 1 0 (.overlayPlacement 0) 1 <;> simp [pagesFrom]

/-- A second request, for the overlay whose image a placed copy of the same share domain holds. -/
def joining : State :=
  let s := overlays [(0, { slots := 1, placed := true, share := 1, pages := [(0, .hbm, 0)] })]
  (s.setCtl (State.ctxOff 1 1) (BitVec.ofNat 64 (1 + 2 ^ 33))).modCore 0 fun k => { k with
    loadQ := k.loadQ ++ [{ ctx := 1, id := 0, slots := 0, recNo := 3 }] }
def reads (r : OvRead) (n : Nat) (x : Bool) (pages : List (Nat × Ap × Nat)) (image : Nat) : Bool :=
  match r with
  | .ok n' x' pages' image' => decide (n' = n) && x' == x && pages' == pages && decide (image' = image)
  | _ => false
theorem reads_eq {r : OvRead} {n x pages image} (h : reads r n x pages image = true) : r = .ok n x pages image := by
  cases r <;> simp_all [reads]

theorem witness_OverlaySteps_share : ∃ q0 q u x, (joining.core 0).loadQ = [q0, q] ∧ joining.readEntry 0 q = (u, .ok 1 false [(0, .hbm, 0)] 0) ∧
    (u.core 0).shareable (u.shareDomain q.ctx) 1 false [(0, .hbm, 0)] = some (0, x) := by
  have h : reads (joining.readEntry 0 { ctx := 1, id := 0, slots := 0, recNo := 3 }).2 1 false [(0, .hbm, 0)] 0 = true := by decide +kernel
  exact ⟨{ ctx := 1, id := 0, slots := 0, recNo := 1 }, { ctx := 1, id := 0, slots := 0, recNo := 3 }, _,
    { slots := 1, placed := true, share := 1, pages := [(0, .hbm, 0)] }, by decide +kernel, Prod.ext rfl (reads_eq h), by decide +kernel⟩

/-- 255 slots: all but the one of the resident copy; and the other loads. -/
theorem witness_OverlaySteps_rest :
    (let s := overlays; (s.core 0).shareable (s.shareDomain 1) 255 false [] = none ∧
      (((s.core 0).fitQuota 1 255 (s.slotQuota 1)).bind fun k => (k.chooseRun 255).map (·.1)) = some 1) ∧
    (let s := overlays [(1, { slots := 0, placed := true })];
      ∃ r, (s.core 0).records.look 1 = some r ∧ r.resident = false ∧ r.placed = true ∧
        s.readBlocks 4096 (r.pages.map (·.2)) = (s, [], none) ∧ s.memWf = true ∧ 1 < (s.core 0).nextRec) ∧
    (let s := overlays [] true;
      (∃ q ∈ (s.core 0).loadQ, 0 < q.slots) ∧ (s.core 0).exhausted = true ∧ (s.core 0).ovExhausted = false ∧ (s.core 0).srec.length = 31) ∧
    (∀ p ∈ (overlays.core 0).records, p.1 < (overlays.core 0).nextRec) ∧ ∃ q ∈ (overlays.core 0).refused, q.slots ≤ overlays.slotQuota q.ctx := by
  refine ⟨?_, ⟨_, rfl, rfl, rfl, rfl, ?_, ?_⟩, ?_, ?_, ?_⟩ <;> decide +kernel

/-! Events: windows. -/

/-- Entry 255 with one page and path 0 in a state, a reflected store of its window, and a copy that its path has not applied. -/
def windows (state va : Nat) : State :=
  let r : RStore := { entry := 255, core := 0, uid := 0, ctx := 1, off := 0, bytes := [{ va, val := 1, lane := 0 }], id := 0, client := .store 0 0 0 }
  let q : Sequenced := { id := 0, core := 0, uid := 0, entry := 255, client := .none, paths := [(0, 1, 0)] }
  let s := ((lane.setField (State.winOff 255 1) 27 0 1).setField (State.winOff 255 1) 63 56 1).setPathState 255 0 state
  { s with
    rstores := [r]
    sequenced := [q]
    rxPaths := [{ src := 5, entry := 0, rx := 0, k := 0, epoch := 0, expect := 1 }]
    fences := [(0, { core := 0, gid := 0, uid := 0, lanes := 0, pc := 0, scope := .sys, markers := [0], marks := [] })] }
def copied : Copy :=
  { epoch := 0, seq := 1, srcDev := 5, entry := 0, rx := 0, offset := 4095, mask := [0], data := [7], poisonHdr := false, poisonData := false }

theorem witness_WindowSteps :
    ((windows 0 0).ctlQ (State.winOff 255 0)).getLsbD 63 = false ∧ (windows 0 0).armRefused 255 0 = true ∧
    (windows 0 0).armRefused 255 (BitVec.ofNat 64 (2 ^ 42 + 2 ^ 58)) = false ∧ (windows 1 0).pathState 255 0 = 1 ∧
    (windows 2 0).pathState 255 0 = 2 ∧
    (∃ r, (windows 1 4096).rstores.find? (fun y => y.entry == 255) = some r ∧ r.client = .store 0 0 0 ∧
      ((windows 1 4096).setField (State.winOff 255 0) 63 63 1).field (State.winOff 255 0) 63 63 = 1 ∧
      ¬ ∀ b ∈ r.bytes, b.va < qf ((windows 1 4096).ctlQ (State.winOff 255 1)) 27 0 * 4096) ∧
    (let s := (windows 1 4095).setField (State.winOff 255 0) 63 63 1;
      s.field (State.winOff 255 0) 63 63 = 1 ∧ qf (s.ctlQ (State.winOff 255 1)) 63 56 = 1 ∧
        4095 < qf (s.ctlQ (State.winOff 255 1)) 27 0 * 4096) ∧
    (let s := (windows 1 0).setField (State.rxOff 0 0) 63 63 1;
      s.rxPaths.find? (fun q => q.src == copied.srcDev && q.entry == copied.entry && q.rx == copied.rx && q.epoch == copied.epoch) =
        some { src := 5, entry := 0, rx := 0, k := 0, epoch := 0, expect := 1 } ∧ copied.srcDev ≠ s.device ∧
      ¬ 4096 ≤ s.field (State.rxOff 0 1) 28 0 * 4096 ∧ 4096 ≤ (s.setField (State.rxOff 0 1) 28 0 1).field (State.rxOff 0 1) 28 0 * 4096 ∧
      qf (s.ctlQ (State.rxOff 0 0)) 63 63 ≠ 0) ∧
    (∃ q, (windows 1 0).sequenced.find? (fun q => q.entry == 255 && q.paths.contains (0, 1, 0)) = some q ∧ q.paths = [(0, 1, 0)] ∧ q.bad = none) ∧
    ∃ y, (windows 1 0).fences.look 0 = some y ∧ 0 ∈ y.markers := by
  refine ⟨?_, ?_, ?_, ?_, ?_, ⟨_, rfl, rfl, ?_, ?_⟩, ?_, ?_, ⟨_, rfl, rfl, rfl⟩, _, rfl, ?_⟩ <;> decide +kernel

/-! Events: the lattice. -/

/-- A packet stands at the router of core 0, for core 0 itself or for its neighbour on port 0. -/
def packets (dst : Nat) : State :=
  lane.stand 0 2 { src := 7, dst, vn := 5, bulk := false, flits := 1, cargo := .here <| .barrierNotify dst 1 0 }
def linked (up : Bool) (downAt : Option Nat) : State :=
  let p : Packet := { src := 0, dst := 1, vn := 5, bulk := false, flits := 1, cargo := .here <| .barrierNotify 1 1 0 }
  { lane with cc := 600000000, links := [(65535, { up, downAt, window := [{ input := 4, chan := 10, packet := p }] })] }

theorem witness_NetworkSteps :
    (∃ port ≥ 4, ((packets 0).grant 0 port).isSome = true) ∧ (∃ port < 4, ((packets ((lane.neighbour 0 0).1)).grant 0 port).isSome = true) ∧
    (∃ p, ((linked true none).link 65535).window = [p]) ∧ ((linked true none).link 65535).up = true ∧
    (∀ at_, ((linked true (some 0)).link 65535).downAt = some at_ → at_ + 600000000 ≤ (linked true (some 0)).cc) ∧
    ((linked true (some 1)).link 65535).downAt = some 1 ∧ (linked true (some 1)).cc < 1 + 600000000 := by
  refine ⟨?_, ?_, ⟨_, rfl⟩, rfl, ?_, rfl, ?_⟩
  · exact ⟨4, by decide, by decide +kernel⟩
  · exact ⟨0, by decide, by decide +kernel⟩
  · intro a h; cases h; decide +kernel
  · decide +kernel

/-- A promoted head waits for a full router beside one that is not promoted. -/
def crowded : State :=
  let p : Packet := { src := 0, dst := (lane.neighbour 0 0).1, vn := 5, bulk := false, flits := 1, cargo := .here (.barrierNotify 0 1 0) }
  let x : Standing := { input := 4, chan := 10, packet := p }
  { lane with routers := [(0, { standing := [{ x with promoted := some 0, age := 64 }, { x with chan := 2 }, x] })] }
/-- Device 0x300 at place 0 of a reach ring of four packages, with device 5 at place 1; half b of port 0 is up or not, port 0 is marked
broken or not, and n packets of two flits for device 5 wait at the half after f failures. -/
def ringed (up broken : Bool) (n : Nat := 0) (f : Nat := 0) : State :=
  let s := ((lane.setCtl 0x28 0x80000300).setCtl 0x108 0x8005).setField (State.reachOff 0) 30 29 ((if up then 2 else 0) + if broken then 1 else 0)
  let p : Packet := { src := 0, dst := 0, vn := 4, bulk := true, flits := 2, cargo := .far 5 true (.copy 5 copied) (some (255, 0)) }
  (s.setPathState 255 0 2).setLink 65537 { window := List.replicate n { input := 5, chan := 9, packet := p }, fails := f }
/-- A core of the last column has packets for the first column of the next package. -/
def leaving : State :=
  let s := ringed true false
  let r := s.coreAt 4 0
  let p : Packet := { src := r, dst := 0, vn := 4, bulk := true, flits := 2, cargo := .far 5 true (.copy 5 copied) (some (255, 0)) }
  s.stand r 5 p
/-- Every injection buffer of VN4 b at port 5 of core 0 is taken. -/
def filled : State := (List.range 4).foldl (fun (s : State) _ => s.stand 0 5 { src := 0, dst := 0, vn := 4, bulk := true, flits := 2, cargo := .far 5 true (.copy 5 copied) none }) lane

theorem witness_NetworkSteps_rest :
    (∃ h out, crowded.grant 0 0 = some (h, out) ∧ h.promoted = some 0 ∧ ∃ y ∈ crowded.heads 0 0, y.promoted = none) ∧
    (0 < (ringed true false).product.reachPorts ∧ (ringed true false 1).hasLink 65537 = true ∧ (ringed true false 1).linkUp 65537 = true ∧
      ((ringed true false 1).link 65537).window.length = 1 ∧ ((ringed true false 1 1).link 65537).fails = 1 ∧
      ((ringed true false 1 2).link 65537).fails = 2) ∧
    ((ringed false false 1).linkUp 65537 = false ∧ (ringed false false 1).field (State.reachOff 0) 30 30 ≠ 1 ∧
      (ringed false false 1).pathState 255 0 = 2) ∧
    (let s := leaving; let r := s.coreAt 4 0; let port := s.ringPort r true true;
      s.field 0x28 31 31 = 1 ∧ s.portLink r port = 65537 ∧ (s.link 65537).broken = false ∧ (s.grant r port).isSome = true) ∧
    (qf (lane.ctlQ 0x28) 31 31 = 0 ∧ (ringed true false).ringPlace 5 = some 1) ∧
    (∃ p, filled.injects 0 5 p = false ∧ lane.injects 0 5 p = true) ∧ 4 ≤ 65535 - lane.product.reachPorts := by
  refine ⟨⟨_, _, rfl, ?_, ?_⟩, ?_, ?_, ?_, ?_, ⟨{ src := 0, dst := 0, vn := 4, bulk := true, flits := 2, cargo := .here .nop }, ?_⟩, ?_⟩ <;> decide +kernel

/-- R370: the header fields of the worked example of spec/17_network.md, and the places of all of them. -/
theorem test_header :
    (let h := lane.headerOf { src := lane.coreAt 5 2, dst := lane.coreAt 30 29, vn := 0, bulk := false, flits := 1, cargo := .here .nop } 0 0 0 0 0 15;
      h.dstX = 30 ∧ h.dstY = 29 ∧ h.sink = 0 ∧ h.vn = 0 ∧ h.bulk = false ∧ h.lenM1 = 0 ∧ h.srcX = 5 ∧ h.srcY = 2) ∧
    (FlitHeader.bits
      { dstDev := 0xfff, dstX := 0, dstY := 31, sink := 0, vn := 7, bulk := false, lenM1 := 3, index := 0, poison := true,
        srcDev := 0, srcX := 31, srcY := 0, kind := 0xff, tag := 0, seq := 0x3ff, ack := 0, creditVc := 15 } 0xabcd).toNat =
      0xfff07c764003e0ff00000ffc00f0abcd := by decide +kernel

/-- R369, R389: a copy for a device behind a reach link leaves with its second flit; a broken link discards what waits, counts it and
makes the path unreachable. -/
theorem test_reach :
    (after (exec (.flitReceive 65537 .good) (after (exec (.flitReceive 65537 .good) (ringed true false 1))))).outbox = [.copy 5 copied] ∧
    (let t := after (exec (.reachLinkBroken 65537) (ringed false false 2)); t.field (State.reachOff 0) 3 0 = 2 ∧ t.pathState 255 0 = 5) := by
  decide +kernel


/-! Events: engines. -/

/-- One command of the group, with the first words of its block and of the core store. -/
def engine (q : Cmd) (block : List Nat := []) (store : List Nat := []) (wait : Bool := false) : State := mapped fun k => { k with
  eq := [(0, { q with block := block.flatMap (leBytes 4) })], nextCmd := 1
  store := Mem.write (n := 8) [] 0 (store.flatMap (leBytes 4))
  groups := if wait then k.groups.map fun p => (p.1, { p.2 with threads := p.2.threads.map fun t => { t with wait := some .engine } })
    else k.groups }
def cmd (major : Nat) (state : CmdState := .active) : Cmd :=
  { uid := 0, gid := 0, team := 0, ctx := 1, major, code := 0, desc := 64, ctr := 4, scope := .core, acq := false, rel := false,
    lanes := 0, pc := 0, priv := true, state }

theorem witness_CopySteps :
    (let s := engine (cmd 0x60 .queued); ∃ q, (s.core 0).eq = [(0, q)] ∧ engineOf q.major = 0 ∧ q.state = .queued ∧
      ((s.core 0).teams.look q.team).any (·.saving) = false ∧ s.unmet 0 0 q = 0 ∧
      (s.modCmd 0 0 fun q => { q with cond := 0 }).unmet 0 0 q = 0) ∧
    (let s := engine { cmd 0x60 .queued with desc := 0 } [] [0x08000000, 0, 0, 0, 0, 0, 0, 0x08000001] true;
      ((s.group 0 0).threads.zipIdx.filter fun p => p.1.live && !p.1.held && p.1.wait == some Wait.engine).head?.isSome = true ∧
      ∀ p ∈ (s.core 0).eq.filter (fun p => p.2.uid = (s.group 0 0).uid), p.2.state = .queued ∧ s.unmet 0 p.1 p.2 ≠ 0) ∧
    (let s := engine (cmd 0x60); ∃ q, s.cmd? 0 0 = some q ∧ q.state = .active ∧ q.major = 0x60 ∧ (copyDesc false q.block).length ≤ q.progress) ∧
    (let s := engine (cmd 0x60) [0, 4097, 0, 0, 2, 0]; ∃ q, s.cmd? 0 0 = some q ∧ q.state = .active ∧ q.progress < (copyDesc false q.block).length ∧
      (copyDesc false q.block).srcGlobal = false ∧ (copyDesc false q.block).dstGlobal = false ∧ (s.core 0).storePoison = [] ∧ s.memWf = true) ∧
    (let s := engine (cmd 0x62); ∃ q, s.cmd? 0 0 = some q ∧ q.state = .active ∧ q.asked = false ∧ bytesAt q.block 4 4 ≤ q.recIndex) ∧
    (∀ len ∈ [0, 1], let s := engine (cmd 0x62) [0, 1] [0, len];
      ∃ q b, s.cmd? 0 0 = some q ∧ q.recIndex < bytesAt q.block 4 4 ∧
        s.engRead 0 0 q.ctx (.transferRecord 0 0 (.ok [])) ((bytesAt q.block 0 4).testBit 30) (s.cmdSpan 0 q).1 (bytesAt q.block 8 8) 32 = .ok s b ∧
        ((recordOf (s.cmdSpan 0 q).2 b).isSome = true ↔ len = 1)) ∧
    (let s := engine (cmd 0x60 .committed); ∃ q, s.cmd? 0 0 = some q ∧ q.state = .committed ∧ s.windowOpen 0 0 q.rel = false ∧ q.asked = false ∧
      q.window = false ∧ q.major ≠ 0x62 ∧ (bytesAt q.block 0 4).testBit 26 = false) := by
  refine ⟨⟨_, rfl, rfl, rfl, ?_, ?_, ?_⟩, ?_, ⟨_, rfl, rfl, rfl, ?_⟩, ⟨_, rfl, rfl, ?_, ?_, ?_, ?_, ?_⟩, ⟨_, rfl, rfl, rfl, ?_⟩, ?records,
    ⟨_, rfl, rfl, ?_, rfl, rfl, ?_, ?_⟩⟩
  case records =>
    intro n hn
    simp only [List.mem_cons, List.not_mem_nil, or_false] at hn
    rcases hn with rfl | rfl <;> exact ⟨_, _, rfl, by decide +kernel, rfl, by decide +kernel⟩
  all_goals decide +kernel

theorem witness_MatrixSteps :
    (let s := engine { cmd 0x68 with asked := true, progress := 1 } [0x08000000]; ∃ q, s.cmd? 0 0 = some q ∧ q.state = .active ∧ q.major = 0x68 ∧
      q.cond = 0 ∧ q.asked = true ∧ (mmaBlock q.code q.block).rows ≤ q.progress) ∧
    (let s := engine (cmd 0x68) [0x08000000]; ∃ q, s.cmd? 0 0 = some q ∧ q.asked = false ∧ (mmaBlock q.code q.block).wLoad = true ∧
      (mmaBlock q.code q.block).wSrc ≠ 3 ∧ q.up = none ∧ s.fed 0 0 = [] ∧ s.fedBy 16 0 0 = [] ∧
      (accOf (s.loadW 0 q (.mmaRow 0 0) { src := 0, addr := 0, scales := 0, km1 := 0, colsm1 := 0 })).isSome = true) ∧
    (let s := engine { cmd 0x68 with asked := true } [0x08000000]; ∃ q, s.cmd? 0 0 = some q ∧ q.progress < (mmaBlock q.code q.block).rows ∧
      (mmaBlock q.code q.block).sSrc ≠ 3 ∧ (∃ b, s.readOperand 0 q (.mmaRow 0 0) 0 0 0 8 = .ok s b) ∧
      ∃ b, s.readOperand 0 q (.mmaRow 0 0) 0 0 0 1 = .ok s b) ∧
    (let s := engine { cmd 0x68 with cond := 4 } [0x02000000]; ∃ q, s.cmd? 0 0 = some q ∧ q.state = .active ∧ q.cond = 4 ∧
      (mmaBlock q.code q.block).send = true ∧ (mmaBlock q.code q.block).mask = 0 ∧ q.parties = [] ∧
      (mmaBlock q.code q.block).receives = false ∧ (s.team 0 q.team).index < 16) ∧
    (let s := engine (cmd 0x69); ∃ q, s.cmd? 0 0 = some q ∧ q.state = .active ∧ q.major ≠ 0x68) ∧
    (let s := engine (cmd 0x68 .committed); ∃ q, s.cmd? 0 0 = some q ∧ q.state = .committed ∧ s.windowOpen 0 0 q.rel = false) := by
  refine ⟨⟨_, rfl, rfl, rfl, rfl, rfl, ?_⟩, ⟨_, rfl, rfl, ?_, ?_, rfl, ?_, ?_, ?_⟩, ⟨_, rfl, ?_, ?_, ⟨_, rfl⟩, _, rfl⟩, ⟨_, rfl, rfl, rfl, ?_, ?_, rfl, ?_, ?_⟩,
    ⟨_, rfl, rfl, ?_⟩, _, rfl, rfl, ?_⟩ <;> decide +kernel

/-- A collective of n members whose rank 0 is the team, and what member 0's descriptor holds. -/
def collective (n : Nat) (q : Cmd) (block : List Nat) (member : Nat := 0) : State := engine q block [n, 0, member]

theorem witness_UnitSteps_collectives :
    (let s := collective 2 (cmd 0x79) []; ∃ q, s.cmd? 0 0 = some q ∧ q.state = .active ∧ q.asked = false ∧
      (s.collIdent 0 q).2.2.2.2 = true ∧ (s.collIdent 0 q).2.2.1.headD 0 = 2 ∧ s.colls = []) ∧
    (let s := collective 1 (cmd 0x79) []; ∃ q, s.cmd? 0 0 = some q ∧ (s.collIdent 0 q).2.2.2.2 = true ∧
      (s.collIdent 0 q).2.2.1.headD 0 = 1) ∧
    (let i : CollInst := { coord := [0, 0, 0, 0], tag := 0, inst := 0, key := [1, 0, 0, 0, 1], sources := [(0, [1, 2, 3, 4])] }
     let s : State := { collective 1 { cmd 0x79 with asked := true } [0, 0, 1] with colls := [i] };
      ∃ q bs fl, s.cmd? 0 0 = some q ∧ q.asked = true ∧ s.instOf (s.collIdent 0 q).1 (s.collIdent 0 q).2.1 q.inst = some i ∧
        collResult s.free q.code (s.collIdent 0 q).2.2.2.1 (i.key.headD 0) (collBlock q.block) i.sources = (bs, fl) ∧ bs ≠ []) ∧
    ∃ q, (collective 1 (cmd 0x79 .committed) []).cmd? 0 0 = some q ∧ q.state = .committed := by
  refine ⟨⟨_, rfl, rfl, rfl, ?_, ?_, rfl⟩, ⟨_, rfl, ?_, ?_⟩, ⟨_, _, _, rfl, rfl, ?_, rfl, ?_⟩, ⟨_, rfl, rfl⟩⟩ <;> decide +kernel

theorem witness_UnitSteps_peers :
    (let s := collective 2 (cmd 0x65) [] 5; ∃ q, s.cmd? 0 0 = some q ∧ q.state = .active ∧
      qf (s.groupQ 0 (s.cmdSpan 0 q).1 (peerBlock q.block).group ((peerBlock q.block).member + 1)) 63 63 = 0 ∧
      (s.peerOf 0 q).1 = none ∧ (s.peerOf 0 q).2 = false) ∧
    (let s := collective 2 (cmd 0x65) []; ∃ q, s.cmd? 0 0 = some q ∧ (s.peerOf 0 q).1.isSome = true ∧ (peerBlock q.block).total ≤ q.progress ∧
      (peerBlock q.block).rctr = false) ∧
    (let s := collective 2 { cmd 0x65 with asked := true } [0, 0, 49]; ∃ q y, s.cmd? 0 0 = some q ∧ (s.peerOf 0 q).1 = some y ∧ q.asked = true ∧
      q.progress < (peerBlock q.block).total ∧ (s.peerStep 0 q y.1 y.2).isSome = true) := by
  refine ⟨⟨_, rfl, rfl, ?_, ?_, ?_⟩, ⟨_, rfl, ?_, ?_, ?_⟩, ⟨_, _, rfl, rfl, rfl, ?_, ?_⟩⟩ <;> decide +kernel

/-- A stream with its second frame input full, encoding nothing or that frame, and a ring of one page. -/
def encoding (e : Option Nat) (used : Nat) : State :=
  { lane.setField (State.encOff 0 15 2) 31 0 1 with encoders := [(15, { frames := [([], false), ([], true)], encoding := e, ringUsed := used })] }

theorem witness_UnitSteps_encoders :
    ((encoding none 0).enc 0 15).out = [] ∧ ((encoding none 0).enc 0 15).encoding = none ∧
    (List.range 2).find? (fun i => (((encoding none 0).enc 0 15).frames.getD i ([], false)).2) = some 1 ∧
    ((encoding (some 1) 4091).enc 0 15).encoding = some 1 ∧ ((encoding (some 1) 4091).enc 0 15).ringUsed + 0 + 4 + [(1 : Byte)].length = 4096 ∧
    qf ((encoding (some 1) 4092).ctlQ (State.encOff 0 15 2)) 31 0 * 4096 < 4092 + 0 + 4 + [(1 : Byte)].length ∧
    127 < 2 * lane.product.dies ∧ 15 < 16 ∧ (0 : DWord).getLsbD 31 = false := by
  decide +kernel

/-- A device with capacity buffers whose first link is up, and table 0 of context 1 with n rows. -/
def bags (q : Cmd) (block store : List Nat) (valid rows link : Nat) : State :=
  let s := { engine q block store with product := .module64 }
  ((s.setField (State.capLinkOff 0) 31 30 link).setField (State.capTableOff 0 0 0) 63 63 valid).setCtl (State.capTableOff 0 0 1)
    (BitVec.ofNat 64 (2 ^ 56 + rows))
def bagBlock1 : List Nat := [0, 1, 1, 64, 0, 128, 256, 0]

theorem witness_UnitSteps_bags :
    (let s := bags (cmd 0x67) bagBlock1 [] 1 1 1; ∃ q, s.cmd? 0 0 = some q ∧ q.state = .active ∧ s.offline 0 = true) ∧
    (let s := bags (cmd 0x67) bagBlock1 [] 0 1 2; ∃ q, s.cmd? 0 0 = some q ∧ s.offline (bagBlock q.block).buffer = false ∧
      s.capDown (bagBlock q.block).buffer = false ∧ qf (s.ctlQ (State.capTableOff 0 0 0)) 63 63 = 0) ∧
    (let s := bags (cmd 0x67) bagBlock1 [] 1 1 2; ∃ q, s.cmd? 0 0 = some q ∧ s.offline (bagBlock q.block).buffer = false ∧
      s.capDown (bagBlock q.block).buffer = false ∧ qf (s.ctlQ (State.capTableOff 0 0 0)) 63 63 = 1 ∧
      qf (s.ctlQ (State.capTableOff 0 0 1)) 63 56 = q.ctx ∧ s.capPoison = [] ∧ 1 ≤ (bagBlock q.block).bags) ∧
    (let s := bags { cmd 0x67 .committed with outcome := 1, recIndex := 3840 } bagBlock1 [] 1 1 2; ∃ q, s.cmd? 0 0 = some q ∧ q.state = .committed ∧
      q.outcome ≤ 1 ∧ (bagBlock q.block).out + q.recIndex = (s.cmdSpan 0 q).2) ∧
    0 < lane.buffers ∧ (2 ^ 63 : Nat) < 2 ^ 64 ∧ tableRefused (BitVec.ofNat 64 (2 ^ 63)) 0 = true ∧
    tableRefused (BitVec.ofNat 64 (2 ^ 63 + 6 * 2 ^ 57 + 2 ^ 45)) 1 = false := by
  refine ⟨⟨_, rfl, rfl, ?_⟩, ⟨_, rfl, ?_, ?_, ?_⟩, ⟨_, rfl, ?_, ?_, ?_, ?_, ?_, ?_⟩, ⟨_, rfl, rfl, ?_, ?_⟩, ?_, ?_, ?_, ?_⟩ <;> decide +kernel

/-! Events: rays and treelets. -/

/-- Core 0 with pool slots, inbox and hit queue; die 0 with page 0 in its cache, a holding ring, and a directory. -/
def pooled (fk : Core → Core) (fd : Die → Die := id) : State := mapped fk fun d => fd { d with dcache := [(0, 0, page0)] }
def ray (t : Word) (flags : Word := 0) : List Word := ((List.replicate 25 0).set 9 t).set 13 flags

/-- Scene 0 is registered for context 1. -/
def registered (fd : Die → Die) : State :=
  ((pooled id fd).setCtl (State.sceneOff 0 0) (BitVec.ofNat 64 (2 ^ 63))).setCtl (State.sceneOff 0 1) (BitVec.ofNat 64 (2 ^ 56))

theorem witness_RayRouting_arrivals :
    (lane.core 0).slotFor (Ray.tid (ray 5)) = none ∧
    (let s := pooled fun k => { k with slots := [(0, { state := .resident })], inbox := (List.range 511).map (⟨none, [], ·⟩) };
     (s.core 0).slotFor (Ray.tid (ray 0)) = some (0, false) ∧ (s.core 0).inbox.length = 511 ∧ (s.core 0).inboxSpill.entries = [] ∧ 24 ≤ (ray 0).length ∧ s.memWf = true) ∧
    (let s : State := { lane with retiring := [255] }; sceneOf (Ray.tid (ray 0xff000001)) ∈ s.retiring) ∧
    (let s := registered (fun d => { d with dir := [] }); s.dirEntry 0 (Ray.tid (ray 1)) = none ∧ s.sceneValid 0 = true ∧
      0 ∉ s.retiring ∧ 0 ∉ s.retired ∧ ((ray 1).getD 24 0).toNat / 2 ^ 16 = 0 ∧
      ((ray 1).set 24 0x20000 |>.getD 24 0).toNat / 2 ^ 16 = s.sceneCtx 0 + 1 ∧
      ((ray 1).set 24 0x30000 |>.getD 24 0).toNat / 2 ^ 16 ≠ s.sceneCtx 0 + 1) ∧
    (let s := registered fun d => { d with dir := [(homeSet 1, [{ tid := 1, failed := true }])] };
      ∃ e, s.dirEntry 0 (Ray.tid (ray 1)) = some e ∧ e.failed = true ∧ s.sceneValid 0 = true ∧ 0 ∉ s.retiring ∧ 0 ∉ s.retired) ∧
    (let s := pooled fun k => { k with hitQ := List.replicate 511 [], hitSpill := { chunks := [0], entries := [[1]] },
                                       inbox := List.replicate 511 ⟨none, [], 0⟩, inboxSpill := { chunks := [1], entries := [ray 1 0x10000] } };
      (s.core 0).hitSpill.entries = [[1]] ∧ (s.core 0).hitQ.length < 512 ∧ (s.core 0).inboxSpill.entries = [ray 1 0x10000] ∧
        (s.core 0).inbox.length < 512 ∧ Ray.done (ray 1 0x10000) = true) ∧
    (let s := pooled fun k => { k with hitQ := List.replicate 511 [] };
      ((s.homeRead .hbm (s.saveRecord 0 0 + 60) 4).1.core 0).hitQ.length < 512 ∧
        ((s.homeRead .hbm (s.saveRecord 0 0 + 60) 4).1.core 0).hitSpill.entries = []) ∧
    (ray 0).length = 25 := by
  refine ⟨?_, ?_, ?_, ?_, ⟨_, rfl, ?_, ?_, ?_, ?_⟩, ?_, ?_, ?_⟩ <;> decide +kernel

/-- Scene 0 of context 1 has one treelet, whose index entry at address 0 is valid; seven entries share its directory set, and its
ray is held. -/
def index (valid : Nat) (entry : Byte) : State :=
  let s := pooled id fun d => { d with holding := { chunks := [0], entries := [ray 0] },
                                       dir := [(0, (List.range 7).map fun i => { tid := 8192 * (i + 1) })] }
  let s := (s.setCtl (State.sceneOff 0 0) (BitVec.ofNat 64 (valid * 2 ^ 63))).setCtl (State.sceneOff 0 1) (BitVec.ofNat 64 (2 ^ 56 + 1))
  { s with hbm := if entry = 0 then [] else [(7, entry)] }

theorem witness_RayRouting_index :
    (index 0 0x80).dirEntry 0 0 = none ∧ (∃ r ∈ ((index 0 0x80).die 0).holding.entries, Ray.tid r = 0) ∧ (index 0 0x80).sceneValid 0 = false ∧
    ∀ b ∈ [(0 : Byte), 0x80], (index 1 b).sceneValid 0 = true ∧ 0 ∉ (index 1 b).retiring ∧ 0 ∉ (index 1 b).retired ∧ numberOf 0 < (index 1 b).sceneCount 0 ∧
      ∃ p : Ap × Nat × State, (index 1 b).xlate ((index 1 b).agentCore 0) 6 ((index 1 b).sceneCtx 0) 0 false false (.ev (.indexEntryRead 0 0)) =
          .ok p.1 p.2.1 p.2.2 ∧ p.2.2.readable p.1 p.2.1 = true ∧ p.2.2.targetWaits p.1 p.2.1 = false ∧
        (p.2.2.targetRead p.1 p.2.1 8).2.2 = false ∧
        ((leNat (p.2.2.targetRead p.1 p.2.1 8).2.1).testBit 63 = true ↔ b = 0x80) ∧ bits (leNat (p.2.2.targetRead p.1 p.2.1 8).2.1) 61 57 = 0 ∧
        bits (leNat (p.2.2.targetRead p.1 p.2.1 8).2.1) 5 0 = 0 ∧ ((p.2.2.targetRead p.1 p.2.1 8).1.dirSet 0 0).length = 7 := by
  refine ⟨by decide +kernel, ⟨ray 0, by decide +kernel, by decide +kernel⟩, by decide +kernel, ?_⟩
  intro b hb
  simp only [List.mem_cons, List.not_mem_nil, or_false] at hb
  rcases hb with rfl | rfl
  · obtain ⟨p, hp, h⟩ := xl_ok (r := (index 1 0).xlate ((index 1 0).agentCore 0) 6 ((index 1 0).sceneCtx 0) 0 false false
      (.ev (.indexEntryRead 0 0))) (by decide +kernel)
    refine ⟨by decide +kernel, by decide +kernel, by decide +kernel, by decide +kernel, p, h, ?_⟩
    have e : p = ((xlOf ((index 1 0).xlate ((index 1 0).agentCore 0) 6 ((index 1 0).sceneCtx 0) 0 false false
      (.ev (.indexEntryRead 0 0)))).getD (.hbm, 0, index 1 0)) := by rw [hp]; rfl
    subst e; decide +kernel
  · obtain ⟨p, hp, h⟩ := xl_ok (r := (index 1 0x80).xlate ((index 1 0x80).agentCore 0) 6 ((index 1 0x80).sceneCtx 0) 0 false false
      (.ev (.indexEntryRead 0 0))) (by decide +kernel)
    refine ⟨by decide +kernel, by decide +kernel, by decide +kernel, by decide +kernel, p, h, ?_⟩
    have e : p = ((xlOf ((index 1 0x80).xlate ((index 1 0x80).agentCore 0) 6 ((index 1 0x80).sceneCtx 0) 0 false false
      (.ev (.indexEntryRead 0 0)))).getD (.hbm, 0, index 1 0x80)) := by rw [hp]; rfl
    subst e; decide +kernel

/-- A pool of one slot in the state given. -/
def slot (p : Option PoolSlot) (fd : Die → Die := id) : State := pooled (fun k => { k with poolSlots := 1, slots := p.elim [] fun p => [(0, p)] }) fd
/-- Scene 0 belongs to context 1; the image at address 0 has one node if `good`, and else no magic. -/
def image (good : Bool) : State :=
  let s := (slot (some { state := .filling, next := some (0, 0, false) })).setCtl (State.sceneOff 0 1) (BitVec.ofNat 64 (2 ^ 56 + 1))
  { s with hbm := if good then [(1, 0x01), (2, 0xc7), (3, 0xb4), (8, 1)] else [] }

theorem witness_TreeletSteps_slots :
    (let s := slot none fun d => { d with dir := [(0, [{ tid := 0, placing := true, owners := List.replicate 3 (9, 0, false, false) }])] };
      ∃ e, s.dirEntry 0 0 = some e ∧ e.placing = true ∧ e.leavingWay = false ∧ e.owners.length = 3 ∧ s.pickSlot 0 = some (0, 0) ∧ (s.core 0).slots.look 0 = none) ∧
    (∃ p, ((slot (some { state := .draining })).core 0).slots.look 0 = some p ∧ p.state = .draining ∧ p.uses = 0 ∧ p.next = none) ∧
    (∃ p, ((slot (some { state := .draining, next := some (1, 0, true) })).core 0).slots.look 0 = some p ∧ p.state = .draining ∧ p.uses = 0 ∧
      p.next = some (1, 0, true)) ∧
    (∀ g : Bool, let s := image g
      let r := accOf (State.readImage 2 s 0 (s.sceneCtx 0) (.treeletFillComplete 0 0) 0 64)
      (∃ p, (s.core 0).slots.look 0 = some p ∧ p.state = .filling ∧ p.next = some (0, 0, false)) ∧ r.isSome = true ∧
        headerOk (r.getD (s, [])).2 0 = g ∧ (g = true → (accOf (State.readImage 18 (r.getD (s, [])).1 0 (s.sceneCtx 0)
          (.treeletFillComplete 0 0) 0 (imageSize (r.getD (s, [])).2))).isSome = true)) := by
  refine ⟨⟨_, rfl, rfl, rfl, rfl, ?_, ?_⟩, ⟨_, rfl, rfl, rfl, rfl⟩, ⟨_, rfl, rfl, rfl, rfl⟩, ?images⟩
  case images =>
    intro g
    cases g
    · exact ⟨⟨_, rfl, rfl, rfl⟩, by decide +kernel, by decide +kernel, by decide +kernel⟩
    · exact ⟨⟨_, rfl, rfl, rfl⟩, by decide +kernel, by decide +kernel, by decide +kernel⟩
  all_goals decide +kernel

theorem witness_TreeletSteps_directory :
    (let s := slot none fun d => { d with dir := [(0, [{ tid := 0, leavingWay := true, owners := [(5, 0, false, true)] }])] };
      s.dirEntry 0 0 ≠ none ∧
        ((s.modEntry 0 0 fun e => { e with owners := e.owners.filter fun o => ¬ (o.1 = 5 ∧ o.2.2.2) }).dirEntry 0 0).isSome = true) ∧
    (∀ b : Bool, let s := slot none fun d => { d with dir := [(0, [{ tid := 0, leavingWay := b }])] };
      ((s.dirEntry 0 0).map fun e => (e.leavingWay, e.owners)) = some (b, []) ∧ ∀ r ∈ (s.die 0).holding.entries, Ray.tid r ≠ 0) ∧
    (let s := slot none fun d => { d with spillFree := [7, 8] }; (s.die 0).spillFree = 7 :: [8] ∧ 0 ≠ 63) ∧
    255 < 256 ∧ lane.field 0x30 63 63 = 0 ∧
    (let s : State := { lane with retiring := [255] }; 255 ∈ s.retiring ∧ s.cores.all (fun k => k.2.slots.isEmpty) = true ∧
      s.dies.all (fun x => x.2.dir.all fun l => l.2.all fun e => sceneOf e.tid != 255) = true) := by
  refine ⟨?_, fun b => ?_, ?_⟩
  · decide +kernel
  · cases b <;> decide +kernel
  · decide +kernel

/-! Events: stages. -/

/-- Core 0 takes part in stage 15 of die 0, which has n items, with a clicker of m slots; `click` is a slot that is formed. -/
def serving (n m : Nat) (hits : List (List Word) := []) (click : List FormSlot := []) (more : AMap Team := []) : State :=
  let y : Stage := { ctx := 1, queue := 0, launch := 0, groups := 1, decl := 0, entry := 0x10000, tag := 0, args := [], initIdx := 0,
                     items := List.replicate n { words := [0x10000, 1, 2, 3], since := 0 } }
  let s := mapped (fun k => { k with stage := some 15, hitQ := hits, teams := k.teams ++ more,
                                     clicker := click ++ List.replicate m { id := 1, ctx := 2, entry := 0, lanes := [] } })
    fun d => { d with stages := [(15, y)], dcache := [(0, 0, page0)] }
  s.setField (State.stageOff 0 15 0) 63 63 1

theorem witness_StageSteps_items :
    (∃ y, (serving 4095 0).stage? 0 15 = some y ∧ y.spillCount = 0 ∧ y.items.length = 4095) ∧
    (∃ y, (serving 4096 0).stage? 0 15 = some y ∧ y.spillCount = 0 ∧ y.items.length = 4096 ∧ (serving 4096 0).spillSlots 0 15 = 0) ∧
    (∃ y, (serving 1 31 [[]]).stage? 0 15 = some y ∧ ((serving 1 31 [[]]).core 0).stage = some 15 ∧ ((serving 1 31 [[]]).core 0).leaving = false ∧
      ((serving 1 31 [[]]).core 0).clicker.length = 31 ∧ ((serving 1 31 [[]]).core 0).hitQ ≠ []) ∧
    (∃ y, (serving 1 31).stage? 0 15 = some y ∧ ((serving 1 31).core 0).hitQ = [] ∧ (serving 1 31).pickItem 0 y = some 0 ∧
      (y.items[0]?).isSome = true) ∧
    (let hit := List.replicate 12 (0 : Word)
      ∃ q, accOf ((serving 0 31 [hit]).engRead 0 0 1 (.shadeWordRead 0) true 0
        ((serving 0 31 [hit]).field (State.stageOff 0 15 1) 56 3 * 8 + 4 * wf32 (hit.getD 4 0) 7 0) 4) = some q ∧ (q.1.core 0).clicker.length = 31) := by
  refine ⟨⟨_, rfl, rfl, ?_⟩, ⟨_, rfl, rfl, ?_, ?_⟩, ⟨_, rfl, ?_, ?_, ?_, ?_⟩, ⟨_, rfl, ?_, ?_, ?_⟩, ⟨_, rfl, ?_⟩⟩ <;> decide +kernel

/-- A formed slot of 31 lanes and the stage team that starts it; a die at rest; and groups that end, settled or not. -/
theorem witness_StageSteps_groups :
    (let f : FormSlot := { id := 0, ctx := 1, entry := 0x10000, lanes := List.replicate 31 [1, 2, 3], formed := true }
     let s := serving 0 0 [] [f] [(1, { kind := .stage, ctx := 1, groups := 1 })];
      ∃ team, (s.core 0).clicker.filter (·.formed) = [f] ∧ f.trap = none ∧
        (s.core 0).teams.find? (fun p => p.2.kind == .stage) = some (1, team) ∧ (s.core 0).freeSets ≠ [] ∧
        firstFree team.groups (((s.core 0).groups.filter fun p => p.2.team == 1).map fun p => p.2.index).contains = some 0) ∧
    ((∀ c ∈ (serving 0 0).dieCores 0, ((serving 0 0).core c).hitQ = [] ∧ ((serving 0 0).core c).hitSpill.entries = []) ∧
      ∀ st < 16, (serving 0 0).stageValid 0 st = true → (serving 0 0).stageItems 0 st ≤ (serving 0 0).field (State.stageOff 0 st 0) 47 32) ∧
    0 < (serving 1 0).stageItems 0 15 + (serving 1 0).incoming 0 15 ∧
    ((serving 0 0).stageItems 0 15 + (serving 0 0).incoming 0 15 = 0 ∧ (serving 0 0).hitStage 0 ≠ 15 ∧
      ∀ c ∈ (serving 0 0).dieCores 0, ((serving 0 0).core c).stage = some 15 → ((serving 0 0).core c).clicker = []) ∧
    (let s := sample 0 [] fun g => { g with ending := true };
      ∃ g, s.group? 0 0 = some g ∧ g.ending = true ∧ s.groupSettled 0 g = true) ∧
    ∃ g, storing.group? 0 0 = some g ∧ storing.groupSettled 0 g = false := by
  refine ⟨⟨_, ?_, rfl, rfl, ?_, ?_⟩, ⟨?_, ?_⟩, ?_, ⟨?_, ?_, ?_⟩, ⟨_, rfl, rfl, ?_⟩, ⟨_, rfl, ?_⟩⟩ <;> decide +kernel

/-! Events: launches and placement. -/

/-- Queue 255 of context 1, enabled, with n records outstanding in a ring of 16 at address 64; the record there names one block of
one team of one group on die 0, and its entry overlay is valid if `entry` is 0x80. -/
def launching (n : Nat) (version entry : Byte) : State :=
  let s := { mapped id with
    dies := [(63, { dcache := [(0, 0, page0)] })]
    hbm := ((7, entry) :: [(64, version), (68, 1), (88, 1)]).filter fun (p : Host.Cell) => p.2 ≠ 0 }
  let s := (s.setCtl (State.ctxOff 1 1) 1).setField (State.ctxOff 1 4) 63 63 1
  let s := s.setCtl (State.lqOff 255 0) (BitVec.ofNat 64 (2 ^ 63 + 4 * 2 ^ 56 + 2 ^ 48 + 64))
  ((s.setField (State.lqOff 255 1) 31 0 n).setField 8 30 30 1)

theorem witness_LaunchSteps_fetch :
    lane.mayAccess 1 8 = false ∧ 255 < 256 ∧ lane.mayFetch 255 = false ∧
    ((launching 17 0x10 0x80).mayFetch 255 = true ∧ 2 ^ (launching 17 0x10 0x80).field (State.lqOff 255 0) 61 56 < 17) ∧
    (∀ p ∈ [((0x10, 0x80, 0, some (0, 1)) : Byte × Byte × Nat × Option (Nat × Nat)), (0x10, 0, 0, some (7, 0)), (0x20, 0x80, 1, none)],
      let s := launching 16 p.1 p.2.1
      let l := (s.recordAt 255).1.launchOf 255 (s.recordAt 255).2
      s.mayFetch 255 = true ∧ 16 ≤ 2 ^ s.field (State.lqOff 255 0) 61 56 ∧ (s.recordAt 255).1.checkRecord l = p.2.2.1 ∧
        (p.2.2.1 = 0 → ((s.recordAt 255).1.checkEntry l (.launchRecordFetch 255)).1 = p.2.2.2) ∧
        (accOf ((s.recordAt 255).1.readImages (255 % (s.recordAt 255).1.product.dies) l (.teamInitRead (partNo 256 255 1)))).isSome = true) := by
  decide +kernel

/-- A launch of queue 255 with its blocks, of which b have been distributed, and a die list of m blocks. -/
def distributing (b m : Nat) (w0 : Word := 0x10) : State :=
  let l : Launch := { queue := 255, index := 3, ctx := 1, words := [w0, 2, 0, 0, 0, 0, 1, 0], total := 2, next := b }
  { mapped (fun k => { k with groups := k.groups.map fun p => (p.1, { p.2 with threads := p.2.threads.map fun t => { t with wait := some .xacq } })
                              acquireQ := [(0, 0)] })
      (fun d => { d with lists := if m = 0 then [] else [(255, List.replicate m { launch := 3, block := 0 })], dcache := [(0, 0, page0)] }) with
    launches := [l] }

theorem witness_LaunchSteps_distribution :
    (∃ l, (distributing 2 0).current 255 = some l ∧ l.total ≤ l.next) ∧
    (∃ l, (distributing 1 64).current 255 = some l ∧ l.next < l.total ∧ ((distributing 1 64).blocksAt (l.dieOf l.next) 255).length + ((distributing 1 64).arb (l.dieOf l.next) 255).coming.length = 64) ∧
    (∃ l, (distributing 1 63).current 255 = some l ∧ l.next < l.total ∧ ((distributing 1 63).blocksAt (l.dieOf l.next) 255).length + ((distributing 1 63).arb (l.dieOf l.next) 255).coming.length = 63) := by
  refine ⟨⟨_, rfl, ?_⟩, ⟨_, rfl, ?_, ?_⟩, ⟨_, rfl, ?_, ?_⟩⟩ <;> decide +kernel

/-- A save of the placed block, before and after its teams have stopped. -/
def saving (stopped : Bool) : State :=
  let s := distributing 2 0
  s.modDie 0 fun d => { d with
    saving := some { queue := 255, launch := 3, block := 0, ranges := [(0, 0, 0, 1)], stopped, pages := if stopped then [[(.hbm, 0)]] else [] }
    placed := [{ queue := 255, launch := 3, block := 0, teams := [(0, 0)], order := 0 }] }

theorem witness_PlacementSteps :
    (let s := distributing 2 1; ∃ r l, (s.die 0).arb = [] ∧ (s.die 0).reserved = none ∧ (s.die 0).reserveQ = [] ∧ s.listedQueues 0 = [255] ∧
      s.blocksAt 0 255 = [r] ∧ s.launch? r.launch = some l ∧ (s.coresFor 0 r l).isSome = true ∧ r.saved = [] ∧ l.initIdx = 0) ∧
    (let s := distributing 2 1 0x3ffe0010; ∃ r l, s.blocksAt 0 255 = [r] ∧ s.launch? r.launch = some l ∧ (s.coresFor 0 r l) = none ∧
      (s.die 0).reserved = none ∧ (s.die 0).reserveQ = [] ∧ l.kind = 0) ∧
    ({ lane with dies := [(0, { arb := [(255, { armed := [(3, 7, false)] })] })] } : State).arb 0 255 = { armed := [(3, 7, false)] } ∧
    (∃ j p v, ((saving false).die 0).saving = some j ∧ j.stopped = false ∧
      ((saving false).die 0).placed.find? (fun p => p.launch == j.launch && p.block == j.block) = some p ∧
      ((saving false).xlateRanges 0 1 (.teamSave 0 0) j.ranges).1 = some v ∧ v.2.length = j.ranges.length) ∧
    (∃ j p, ((saving true).die 0).saving = some j ∧ j.stopped = true ∧
      ((saving true).die 0).placed.find? (fun p => p.launch == j.launch && p.block == j.block) = some p ∧
      (∀ r ∈ j.ranges, ((saving true).core r.1).eq = []) ∧ ∀ r ∈ j.ranges.zip j.pages, (saving true).teamRests r.1.1 r.1.2.1 = true ∧
        ∀ y ∈ r.2, (saving true).targetWaits y.1 y.2 = false) ∧
    (let s := distributing 2 0
     let here := (s.group 0 0).threads.zipIdx.filter fun p => p.1.live && p.1.wait == some Wait.xacq &&
       (s.core 0).xacqRange (s.group 0 0).ctx p.1.pc == 0
     let waiting := here.filter (fun p => !p.1.held) ++ here.filter (·.1.held)
      ∃ th, waiting.head? = some (th, 0) ∧ (∀ p ∈ waiting, p.1.pc = th.pc) ∧ (s.core 0).acquireQ = (0, 0) :: [] ∧
        ∀ p ∈ (s.core 0).groups, p.1 = supGid ∨ (s.core 0).blocked p.1 p.2 = true) ∧
    (lane.core 0).wdog.getLsbD 31 = true ∧ 7 < 8 ∧ ((sample 0 [] id fun k => { k with wdog := 0x14 }).core 0).wdog.getLsbD 31 = false := by
  refine ⟨⟨_, _, ?_, ?_, ?_, ?_, rfl, rfl, ?_, ?_, ?_⟩, ⟨_, _, rfl, rfl, ?_, ?_, ?_, ?_⟩, ?_, ⟨_, _, _, rfl, rfl, rfl, rfl, ?_⟩,
    ⟨_, _, rfl, rfl, rfl, ?_, ?_⟩, ⟨_, rfl, ?_, ?_, ?_⟩, ?_, ?_, ?_⟩ <;> decide +kernel

/-! Events: the host, power, boot. -/

/-- One entry of the dirty log, page 63 of context 1, whose bitmap covers 64 pages. -/
def dirtied : State :=
  let s := mapped fun k => { k with dlogFill := 1, dlogNext := 0 }
  let s := s.modCore 0 fun k => k.putStore64 (0x5e8000 + 8 * 1023) (BitVec.ofNat 64 (2 ^ 63 + 2 ^ 45 + 63))
  (s.setField (State.ctxOff 1 5) 63 63 1).setField (State.ctxOff 1 5) 61 56 6
def job : BitmapJob := { core := 0, ctx := 1, addr := 0, bits := 1, cmp := 0 }

theorem witness_HostSteps :
    (lane.core 0).dlogFill ≤ (lane.core 0).dlogTaken ∧
    (let k := dirtied.core 0
     let q := k.store64 (0x5e8000 + 8 * ((k.dlogNext + 1023) % 1024));
      k.dlogFill = 1 ∧ k.dlogTaken = 0 ∧ qf q 63 63 = 1 ∧ qf q 54 53 = 0 ∧ dirtied.field (State.ctxOff (qf q 52 45) 5) 63 63 = 1 ∧
        dirtied.hostLink (dirtied.dieOf 0) ∉ dirtied.noAtomics ∧ (dirtied.cover (qf q 52 45)).1 ≤ qf q 44 0 ∧
        qf q 44 0 < (dirtied.cover (qf q 52 45)).1 + (dirtied.cover (qf q 52 45)).2 ∧ dirtied.dieJobs (dirtied.dieOf 0) = []) ∧
    ({ lane with bitmaps := [(4, job)] } : State).dieJobs 0 = [(4, job)] ∧ (∀ c ∈ lane.dieCores 0, (lane.core c).eq = []) ∧
    255 < 256 ∧ (lane.setField 0x30 63 63 1).field 0x30 63 63 = 1 ∧ State.reset.field 0x30 63 63 = 0 ∧
    ({ lane with harvest := some (1, true) } : State).harvest = some (1, true) ∧
    (∀ c ∈ State.reset.present, (State.reset.core c).poolBusy = false ∧ (State.reset.core c).teams = []) ∧
    (let u := sup.setField (State.mailOff 255 6) 31 31 1;
      (255 ≠ 0 ∨ sup.mailHello ≠ none) ∧ bits (u.field (State.mailOff 255 6) 31 0) 30 30 = 0 ∧
        sup.physical (bits (u.field (State.mailOff 255 6) 31 0) 9 0) = some 0 ∧ (sup.core 0).groups.look supGid ≠ none) ∧
    (lane.setField (State.mailOff 255 2) 31 31 1).field (State.mailOff 255 2) 31 31 = 1 ∧ lane.field (State.mailOff 255 2) 31 31 = 0 ∧
    lane.mailHello = none ∧ ({ lane with mailHello := some (1, 0), attest := 1048575 } : State).mailHello ≠ none ∧ 1048575 < 2 ^ 20 := by
  decide +kernel

/-- The governor of die 63 with thresholds 1 and 2, at a step. -/
def hedge (step : Nat) : State := lane.setCtl (State.hedgeOff 63) (BitVec.ofNat 64 (2 ^ 31 + step * 2 ^ 28 + 2 ^ 20 + 2 * 256 + 1))
def fatal (reported : Nat) : State := { lane.setField 8 31 31 reported with fatal := some (0x101, 0, 0) }

theorem witness_PowerSteps :
    (∀ n ∈ [0, 1], let off := State.hedgeOff 63; let s := hedge n
      s.field off 31 31 = 1 ∧ s.field off 7 0 < s.field off 15 8 ∧ max 1 (s.field off 19 16) ≤ (s.die 63).hedgeHeld + 1) ∧
    ((hedge 0).field (State.hedgeOff 63) 15 8 < 3 ∧ (hedge 0).field (State.hedgeOff 63) 30 28 < (hedge 0).hedgeCap 63) ∧
    (0 < (hedge 1).field (State.hedgeOff 63) 7 0 ∧ (hedge 1).field (State.hedgeOff 63) 26 24 < (hedge 1).field (State.hedgeOff 63) 30 28) ∧
    1 < max 1 (lane.field (State.hedgeOff 63) 19 16) ∧ lane.fatal = none ∧
    ((fatal 0).fatal = some (0x101, 0, 0) ∧ (fatal 0).field 8 31 31 = 0) ∧ (fatal 1).field 8 31 31 = 1 ∧
    0 < lane.buffers ∧ lane.offline 0 = false ∧ (lane.setField (State.capLinkOff 0) 30 30 1).offline 0 = true := by
  decide +kernel

/-- Bring-up under way at a step. -/
def booting (step : Nat) : State := { State.reset.setStepNo step with boot := { running := true } }

theorem pair_eta {α β : Type} (p : α × β) : ∃ a b, p = (a, b) := ⟨p.1, p.2, rfl⟩

theorem witness_BootSteps :
    State.reset.physical 0 = some 0 ∧ 3 < 4 ∧ State.reset.field 0x30 63 63 = 0 ∧
    ((sample 0 [] id fun k => { k with coord := some 31, parent := some 3 }).core 0).coord ≠ none ∧
    ((sample 0 [] id fun k => { k with coord := some 31, parent := some 3 }).core 0).parent = some 3 ∧ (lane.core 0).coord = none ∧
    ((lane.core 1).store = [] ∧ (lane.core 0).storePoison = [] ∧ lane.memWf = true) ∧
    ((booting 4).boot.running = true ∧ (booting 4).bootStep = 4 ∧ (booting 4).physical 0 = some 0 ∧ ((booting 4).core 0).sbuf = []) ∧
    (∃ u tab, (booting 4).mapTable = (u, tab)) ∧ State.reset.boot.running = false ∧
    ((booting 5).boot.running = true ∧ (booting 5).bootStep = 5) ∧
    State.reset.field 0x20 31 31 = 0 ∧ (State.reset.setField 0x20 31 31 1).field 0x20 31 31 = 1 := by
  refine ⟨?_, ?_, ?_, ?_, ?_, ?_, ?_, ?_, pair_eta _, ?_, ?_, ?_, ?_⟩ <;> decide +kernel

/-! Steps, encodings, invariants. -/

/-- The first step after reset with one word placed: the word of NOP, of ADD s6, s6, s8, and of BRC.ge s3, s22, 48. -/
theorem witness_StepRunsDecoded : ∀ p ∈ [((0x80000000, .nop) : Nat × Instr), (0x81018620, .addUniform 6 6 (.s 8))],
    let s := State.reset.withFetchWord 32 p.1
    s.second = none ∧ s.nextHost = none ∧ s.nextResume = none ∧ s.turn = true ∧ ∃ x, s.nextIssue = some x ∧
      choose x.uniform (if x.uniform then (s.group x.core x.gid).uniIssues else (s.group x.core x.gid).laneIssues)
        ((s.core x.core).ready x.gid (s.group x.core x.gid)) ≠ [] ∧
      ∃ u, { (s.issue x).tick with turn := false }.cur = some u ∧
        (s.core u.core).fetch (s.group u.core u.gid).ctx u.pc = .word (BitVec.ofNat 32 p.1) 0 ∧
        (decode (BitVec.ofNat 32 p.1) 0).toOption = some p.2 := by
  intro p hp
  simp only [List.mem_cons, List.not_mem_nil, or_false] at hp
  rcases hp with rfl | rfl <;> exact ⟨rfl, rfl, rfl, rfl, _, rfl, by decide +kernel, _, rfl, by decide +kernel, by decide +kernel⟩

theorem witness_StepRunsDecoded_second :
    (∃ u, lane.cur = some u ∧ ({ lane with second := some u } : State).fetchFaults u = false ∧ (decode u.word u.lit).toOption = some .nop) ∧
    (let s : State := { State.reset with agenda := [.priReenable] }; s.second = none ∧ s.nextHost = none ∧ s.nextResume = none ∧ s.nextEvent = some (.priReenable, []) ∧ s.turn = false) := by
  refine ⟨⟨_, rfl, ?_, ?_⟩, rfl, rfl, rfl, rfl, rfl⟩ <;> decide +kernel

theorem witness_DecodeEncode : (WellFormed (.addUniform 6 6 (.lit 8)) = true ∧ Instr.isEvent (.addUniform 6 6 (.lit 8)) = false) ∧
    ∃ i, (decode 0x81018620 0).toOption = some i := by
  refine ⟨?_, _, rfl⟩; decide +kernel

theorem witness_StepKeepsMemWf : let s := State.reset.withFetchWord 32 0xd3018940
    s.memWf = true ∧ ∃ t, step s = .next t := by
  refine ⟨by decide +kernel, after (step (State.reset.withFetchWord 32 0xd3018940)), ?_⟩
  have h : (match step (State.reset.withFetchWord 32 0xd3018940) with | .next _ => true | _ => false) = true := by decide +kernel
  revert h
  unfold after
  cases step (State.reset.withFetchWord 32 0xd3018940) <;> simp

theorem witness_EveryInstructionCompletes : lane.ctx? = some (cx lane) := by decide +kernel

/-! Clauses of the events that the states above do not reach. -/

/-- Buffer 0 with its link in a state, before a slice with a queue, misses and a waiting capacity write. -/
def buffered (link : Nat) (queue : List Req) (misses : AMap (List Req)) (capWait : Option Req := none) (poison : List Nat := []) : State :=
  { (sliced queue misses capWait).setCtl (State.capLinkOff 0) (BitVec.ofNat 64 (link * 2 ^ 30)) with capPoison := poison }
def capReading : Req := { ap := .cap, off := 0, kind := .read 4, client := .none }
def capAdding : Req := { ap := .cap, off := 0, kind := .rmw, client := .none }
def capStoring : Req := { ap := .cap, off := 0, kind := .write [{ va := 0, val := 1, lane := 0 }], client := .store 0 0 0 }

/-- A full slice; a request behind the waiting capacity write of its line; the atomics and writes of the tier; the fills. -/
theorem witness_MemorySteps_tier :
    (let s := buffered 2 [reading] ((List.range 128).map fun i => (i, [writing])); (s.oneOf (s.slice 0 0).arriving).2 = 0 ∧
      (s.slice 0 0).queue[0]? = some reading ∧ 128 ≤ (s.slice 0 0).missUse) ∧
    (let s := buffered 2 [capReading] [] (some capWriting); (s.oneOf (s.slice 0 0).arriving).2 = 0 ∧
      (s.homeOf capReading.ap capReading.off).line = (s.homeOf capWriting.ap capWriting.off).line) ∧
    (∀ link ∈ [0, 2], let s := buffered link [capAdding] []; (s.oneOf (s.slice 0 0).arriving).1.needsFill capAdding = true ∧
      (s.capDown 0 = true ↔ link = 0)) ∧
    (let s := (buffered 0 [capAdding] []).fillSector ((buffered 0 [capAdding] []).homeOf .cap 0); s.needsFill capAdding = false ∧
      s.capDown 0 = true ∧ (s.slice 0 0).queue = [capAdding]) ∧
    (∀ link ∈ [0, 2], let s := buffered link [] [(3, [capReading, capWriting, reading])];
      (s.slice 0 0).misses.look 3 = some (capReading :: [capWriting, reading]) ∧ (s.capDown 0 = true ↔ link = 0)) ∧
    (∀ p ∈ [((0, []) : Nat × List Nat), (1, []), (2, [5])], let s := buffered p.1 [] [] (some capStoring) p.2;
      (s.slice 0 0).capWait = some capStoring ∧ (s.capDown 0 = true ↔ p.1 = 0) ∧ (s.offline 0 = true ↔ p.1 = 1) ∧
        (s.wordBad (s.homeOf .cap 0) = true ↔ p.1 = 2)) := by
  decide +kernel

/-- The core with a load of four bytes outstanding. -/
def loadingAt (va : Nat) : Core := { lane.core 0 with memops :=
    [(0, { uid := 0, gid := 0, ctx := 1, pc := 0, word := 0, lit := 0, kind := .load 4 false, dst := 15, regs := 1, uniform := false,
           lanes := [{ lane := 0, va }] })] }

/-- A store behind a load of its byte, one behind a ticket append, and a window store behind an earlier one. -/
theorem witness_MemorySteps_held :
    ((loadingAt 4094).behindOps 0 1 4095 1 = true ∧ (loadingAt 4096).behindOps 0 1 4095 1 = false) ∧
    (let b : SByte := { va := 4095, val := 1, lane := 0 }
     let e : SbEntry := { pipe := 0, uid := 0, gid := 0, ctx := 1, pc := 0, width := 4, uniform := false, bytes := [b] }
     let s := (filling true (.read 1)).modCore 0 fun k => { k with sbuf := [(0, e), (1, { e with instr := 1 }), (2, { e with ticket := some 0 })] };
      (∃ p ∈ (s.core 0).sbuf, p.1 < 1 ∧ p.2.uid = 0 ∧ ∃ y ∈ p.2.bytes, y.va = b.va) ∧
      (∃ p ∈ (s.core 0).sbuf, p.1 < 1 ∧ p.2.uid = 0 ∧ (p.2.ticket.isSome = true ∨ ∃ y ∈ p.2.bytes, y.sent = false))) ∧
    0 ∉ (lane.core 0).lent ∧ 62 ∈ (lane.core 0).lent := by
  refine ⟨?_, ?_, ?_, ?_⟩ <;> decide +kernel

/-- A receive window that arms and one that does not; a reflected store of a command; a refused path. -/
theorem witness_WindowSteps_arms :
    (let s := ((lane.setField (State.rxOff 3 0) 63 54 0x211).setField (State.rxOff 3 1) 63 63 1).setField (State.rxOff 3 1) 28 0 1
     let a : ArmMsg := { srcDev := 5, entry := 0, dest := 8, rx := 3, epoch := 1, major := 1, minor := 0, pages := 1 }
     qf (s.ctlQ (State.rxOff 3 0)) 63 63 = 1 ∧ qf (s.ctlQ (State.rxOff 3 1)) 63 63 = 1 ∧ 1 ≤ a.major ∧
      1 ≤ qf (s.ctlQ (State.rxOff 3 0)) 61 58 ∧ a.pages ≤ qf (s.ctlQ (State.rxOff 3 1)) 28 0 ∧ s.rxPaths.length < 1024 ∧
      (qf (s.ctlQ (State.rxOff 3 0)) 40 12 + qf (s.ctlQ (State.rxOff 3 1)) 28 0) * 4096 ≤ s.product.hbmBytes - 4 * 2 ^ 30) ∧
    qf (lane.ctlQ (State.rxOff 3 0)) 63 63 = 0 ∧
    (let r : RStore := { entry := 255, core := 0, uid := 0, ctx := 1, off := 0, bytes := [], id := 0, client := .cmd 0 0 }
     let s : State := { windows 1 0 with rstores := [r] }
     s.rstores.find? (fun y => y.entry == 255 && y.id == 0) = some r ∧ r.client = .cmd 0 0 ∧ s.field (State.winOff 255 0) 63 63 = 0) ∧
    (windows 3 0).pathState 255 0 = 3 ∧ ¬ (windows 3 0).pathState 255 0 < 3 := by
  refine ⟨?_, ?_, ⟨rfl, rfl, ?_⟩, ?_, ?_⟩ <;> decide +kernel

/-- Reach ports there and not there. -/
theorem witness_NetworkSteps_reach : 15 < lane.product.reachPorts ∧ lane.product.reachPorts ≤ 32 := by decide +kernel

/-- Window writes of commands that were lost: by the window unit, and by a path. -/
theorem witness_CopySteps_lost :
    (let s := engine { cmd 0x60 .committed with window := true }; ∃ q, s.cmd? 0 0 = some q ∧ q.state = .committed ∧ q.outcome = 0 ∧
      q.window = true ∧ s.windowOpen 0 0 q.rel = false ∧ q.asked = false) ∧
    (let b : Sequenced := { id := 0, core := 0, uid := 0, entry := 1, client := .cmd 0 0, paths := [], bad := some (1, 2, 3) }
     let s : State := { engine (cmd 0x69 .committed) with sequenced := [b] }
     ∃ q, s.cmd? 0 0 = some q ∧ q.outcome = 0 ∧ s.windowOpen 0 0 q.rel = false ∧ ∃ y ∈ s.sequenced, y.client = .cmd 0 0 ∧ y.bad ≠ none) ∧
    (let s := engine { cmd 0x62 with record := List.replicate 32 0 } [0, 1]; ∃ q, s.cmd? 0 0 = some q ∧ q.asked = false ∧
      q.recIndex < bytesAt q.block 4 4 ∧ q.record = List.replicate 32 0) := by
  refine ⟨⟨_, rfl, rfl, rfl, rfl, ?_, rfl⟩, ⟨_, rfl, rfl, ?_, _, List.mem_singleton.mpr rfl, rfl, ?_⟩, _, rfl, rfl, ?_, rfl⟩ <;> decide +kernel

/-- A weight that is kept, of a team without a loaded one and with one; a mask that names the sender. -/
theorem witness_MatrixSteps_weights :
    (let s := engine (cmd 0x68); ∃ q, s.cmd? 0 0 = some q ∧ q.state = .active ∧ q.cond = 0 ∧ q.asked = false ∧
      (mmaBlock q.code q.block).wLoad = false ∧ (s.team 0 q.team).wrec = none) ∧
    (let s := (engine (cmd 0x68)).modCore 0 fun k => { k with arrayW := some 0, teams := k.teams.map fun p =>
        (p.1, { p.2 with wrec := some { src := 0, addr := 0, scales := 0, km1 := 0, colsm1 := 0 } }) }
     ∃ q, s.cmd? 0 0 = some q ∧ (mmaBlock q.code q.block).wLoad = false ∧ (s.team 0 q.team).wrec ≠ none ∧ (s.core 0).arrayW = some q.team) ∧
    (let s := engine { cmd 0x68 with cond := 4 } (0x02000000 :: List.replicate 10 0 ++ [1]); ∃ q, s.cmd? 0 0 = some q ∧
      (mmaBlock q.code q.block).send = true ∧ (mmaBlock q.code q.block).mask = 2 ^ (s.team 0 q.team).index) := by
  refine ⟨⟨_, rfl, rfl, rfl, rfl, ?_, ?_⟩, ⟨_, rfl, ?_, ?_, ?_⟩, _, rfl, ?_, ?_⟩ <;> decide +kernel

/-- Queries that wait, by an earlier one of the core, and that do not. -/
theorem witness_UnitSteps_bags_wait :
    (let s := (bags (cmd 0x67) bagBlock1 [] 1 1 2).modCore 0 fun k => { k with eq := k.eq ++ (k.eq.map fun p => (1, { p.2 with inst := 1 })) }
     s.bagWaits 0 1 0 = true ∧ s.bagWaits 0 0 0 = false) ∧
    (∀ link ∈ [0, 1, 2], let s := bags (cmd 0x67) bagBlock1 [] 1 1 link;
      s.bagWaits 0 0 0 = false ∧ (s.capDown 0 = true ↔ link = 0) ∧ (s.offline 0 = true ↔ link = 1)) ∧
    (tableRefused (BitVec.ofNat 64 0) 0 = true ∨ (BitVec.ofNat 64 0).getLsbD 63 = false) := by
  decide +kernel

/-- Items that wait for the spill ring of a stage: with room in the queue, with a full ring of no slot, and with one. -/
def spilling (n slots : Nat) : State :=
  ((serving n 0).modStage 0 15 fun y => { y with spilling := [[0x10000, 1, 2, 3]] }).setField (State.stageOff 0 15 0) 31 16 slots
theorem witness_StageSteps_spilling :
    (∃ y, (spilling 4095 0).stage? 0 15 = some y ∧ y.spilling = [[0x10000, 1, 2, 3]] ∧ y.spillCount = 0 ∧ y.items.length = 4095) ∧
    (∃ y, (spilling 4096 0).stage? 0 15 = some y ∧ 4096 ≤ y.items.length ∧ (spilling 4096 0).spillSlots 0 15 ≤ y.spillCount) ∧
    (∃ f, ((serving 0 0 [] [{ id := 0, ctx := 1, entry := 0, lanes := [] }]).core 0).clicker.find? (fun f => f.id == 0) = some f) := by
  refine ⟨⟨_, rfl, rfl, rfl, ?_⟩, ⟨_, rfl, ?_, ?_⟩, _, rfl⟩ <;> decide +kernel

/-- A block that arrives at die 0, of a launch and of a failed one. -/
theorem witness_LaunchSteps_arrival :
    (∀ b : Bool, let s : State := { distributing 1 1 with launches := (distributing 1 1).launches.map fun l => { l with failed := b } }
      (s.launch? 3).map (·.failed) = some b) ∧
    (let s := distributing 1 63; ((s.blocksAt 0 255).length + (s.arb 0 255).coming.length = 63)) := by
  refine ⟨fun b => by cases b <;> decide +kernel, by decide +kernel⟩

/-- Host accesses: to HBM, to a buffer whose link retrains, and to a place that the device has not. -/
def hosted (phys : Nat) : State := { lane with product := .module64, hostQ := [{ tag := 1, phys, len := 4 }], agenda := [] }
theorem witness_StepRunsDecoded_host :
    ((hosted (2 ^ 63)).second = none ∧ (hosted (2 ^ 63)).hostQ = { tag := 1, phys := 2 ^ 63, len := 4 } :: [] ∧
      (hosted (2 ^ 63)).hostReady { tag := 1, phys := 2 ^ 63, len := 4 } = true) ∧
    (let a := ((lane.bars.headD (0, 0, 0)).1 + 16384 * 2 ^ 30)
     let s : State := { State.reset with product := .module64, hostQ := [{ tag := 1, phys := a, len := 4 }] }
     s.hostReady { tag := 1, phys := a, len := 4 } = false ∧ s.turn = false ∧ s.agenda = [] ∧ s.nextIssue = none ∧ s.second = none) := by
  decide +kernel

/-- A thread that yields to a group which is ready, to one which is not, and past its bound. -/
def yielding (who : List Nat) (bound : Nat) : State :=
  sample 0 [] (fun g => { g with threads := g.threads.map fun t => { t with wait := some (.yield who bound) } })
theorem witness_YieldAndNop_wait : ∀ p ∈ [(([1], 9) : List Nat × Nat), ([], 9), ([1], 0)],
    ((((yielding p.1 p.2).group 0 0).threads.getD 31 {}).wait = some (.yield p.1 p.2)) := by
  intro p hp
  simp only [List.mem_cons, List.not_mem_nil, or_false] at hp
  rcases hp with rfl | rfl | rfl <;> rfl

theorem witness_UniformResults_lane : Runs (.rdlane 5 15 (.s 3)) sup (cx sup) ∧ sup.memWf = true ∧ (cx sup).gid = supGid ∧ (15 : VReg).toNat < 16 :=
  ⟨runs (by decide +kernel), by decide +kernel, by decide +kernel, by decide⟩

/-- A thread whose overlay's load has failed. -/
theorem witness_TrapInstructions_failed :
    let s := sample 0 [] fun g => { g with threads := g.threads.map fun t => { t with wait := some (.failed { cause := 3 }) } }
    ∃ g, s.group? 0 0 = some g ∧ s.failedAt 0 0 = some ({ cause := 3 }, 0xffffffff) ∧ g.trap.inHandler = false ∧ g.ending = false :=
  ⟨_, rfl, by decide +kernel, rfl, rfl⟩

/-- No ray is held, and a placement that is looked for. -/
theorem witness_TreeletSteps_held : (∀ x ∈ lane.dies, ∀ r ∈ x.2.holding.entries, (lane.dirEntry x.1 (Ray.tid r)).all (fun e =>
      e.placing || !e.available.isEmpty || !e.filling.isEmpty) = true) ∧
    (let s : State := { slot none fun d => { d with holding := {} } with retiring := [255] }; ∀ x ∈ s.dies, x.2.holding.entries = []) := by
  decide +kernel

/-- Misses of a slice whose head is a write of the tier, with a capacity write waiting and with none, and one that is a read. -/
theorem witness_MemorySteps_fills : ∀ w ∈ [none, some capWriting], let s := buffered 2 [] [(3, [capStoring, capReading]), (4, [capReading])] w
    (s.slice 0 0).misses.look 3 = some (capStoring :: [capReading]) ∧ (s.slice 0 0).misses.look 4 = some (capReading :: []) ∧
      (s.slice 0 0).capWait = w ∧ capStoring.ap = .cap ∧ s.capDown 0 = false := by
  intro w hw
  simp only [List.mem_cons, List.not_mem_nil, or_false] at hw
  rcases hw with rfl | rfl <;> exact ⟨rfl, rfl, rfl, rfl, by decide +kernel⟩

/-- A bundle that has issued and waits for nothing more. -/
def resuming : State := sample 0 [] fun g => { g with
  issued := [{ lanes := 0xffffffff, pc := 0x10000, word := 0x80000000, lit := 0, latch := { sregs := [], masks := [], awl := [], sb := 0, op := 0, rs := 0 } }] }
theorem witness_StepRunsDecoded_resume : ∃ u, resuming.second = none ∧ resuming.nextHost = none ∧ resuming.nextResume = some u ∧ u.lanes = 0xffffffff ∧
    (resuming.resume u).fetchFaults u = false ∧ (decode u.word u.lit).toOption = some .nop := by
  refine ⟨_, rfl, rfl, rfl, ?_, ?_, ?_⟩ <;> decide +kernel

/-- A copy one ahead of its path, over the wrap of its number, and one behind; a copy of the device's own path. -/
theorem witness_WindowSteps_sequence : (0 : Nat) = (4294967295 + 1) % 2 ^ 32 ∧ (4294967295 : Nat) = (0 + 4294967295) % 2 ^ 32 ∧
    ({ copied with srcDev := lane.device } : Copy).srcDev = lane.device := by
  decide +kernel

/-- Entries with an owner to go to, with one that fills, with none, and with one that drains. -/
theorem witness_RayRouting_owners : ∀ p ∈ [(([(0, 1, false, false)], [0], []) : List (Nat × Nat × Bool × Bool) × List Nat × List Nat),
    ([(3, 1, true, false)], [], [3]), ([], [], []), ([(3, 1, false, true)], [], [])],
    let e : DirEntry := { tid := 0, owners := p.1 }
    e.failed = false ∧ e.available = p.2.1 ∧ e.filling = p.2.2 ∧ e.placing = false ∧ e.owners.length < 4 := by
  decide +kernel

/-- A signal that is a ring: its descriptor in the pool, with its counter at the first slot. -/
def ringCopy : State := engine { cmd 0x60 .committed with ctr := 32 } [0x04000000] (List.replicate 8 0 ++ [64, 4 * 65536])
theorem witness_CopySteps_ring : ∃ q k, ringCopy.cmd? 0 0 = some q ∧ q.state = .committed ∧ (bytesAt q.block 0 4).testBit 26 = true ∧ q.ctr % 32 = 0 ∧
    q.ctr + 32 ≤ (ringCopy.cmdSpan 0 q).2 ∧
    let ring := (ringCopy.cmdSpan 0 q).1 + q.ctr
    ringValid ((ringCopy.core 0).ringQ ring 0) (ringCopy.cmdSpan 0 q).2 = true ∧
      (ringCopy.core 0).ringGive ring ((ringCopy.core 0).ringQ ring 0) 1 false = some k := by
  refine ⟨_, _, rfl, rfl, ?_, ?_, ?_, ?_, rfl⟩ <;> decide +kernel

/-- A pipe with a ready lane bundle, and one with none. -/
theorem witness_PlacementSteps_watchdog :
    (let s := sample 0 [] (word := 0x3800c2a1); ∃ p ∈ (s.core 0).groups, p.1 < 512 ∧ pipeOf p.1 = 0 ∧ ∃ y ∈ (s.core 0).ready p.1 p.2, y.uniform = false) ∧
    (∃ p ∈ (lane.core 0).groups, p.1 < 512 ∧ pipeOf p.1 = 0 ∧ ∃ y ∈ (lane.core 0).ready p.1 p.2, y.uniform = true) ∧
    ∀ p ∈ (lane.core 0).groups, ∀ y ∈ (lane.core 0).ready p.1 p.2, y.uniform = true := by
  decide +kernel

/-- A fatal error stands, and a core table that is read. -/
theorem witness_BootSteps_fatal : (fatal 0).fatal ≠ none ∧ 4 * 15 < lane.product.cores := by decide +kernel

/-! ### Worked examples of the spec -/

/-- Lane registers filled from lane 0, and the register file of lane state. -/
def withV (regs : List (Nat × List Word)) (fg : Machine.Group → Machine.Group := id) (ss : List (Nat × Word) := []) (fk : Core → Core := id) : State :=
  let s := sample 0 ss fg fk
  s.modCore 0 fun k => regs.foldl (fun (k : Core) r => r.2.zipIdx.foldl (fun (k : Core) w => k.setV ((k.groups.look 0).getD {}) 0 r.1 w.2 w.1) k) k
/-- The lanes of a register after an instruction. -/
def lanes (i : Instr) (s : State) (r : VReg) (n : Nat) : List Word := (List.range n).map (elem (after (exec i s)) (cx s) r)
def sreg (i : Instr) (s : State) (r : SReg) : Word := ureg (after (exec i s)) (cx s) r
/-- A state with m2 = 0xff. -/
def m2 (regs : List (Nat × List Word)) : State := withV regs fun g => { g with masks := [0, 0xff, 0, 0, 0, 0, 0] }
def arithOf (i : Instr) (s : State) : Word := ((after (exec i s)).group 0 0).arith

/-- The overlay `scale` of 10 for lanes 0, 9, 10 and 31: arg0 = 10. -/
theorem test_scale_mask : ((after (exec (.cmpLane 0 .lt 1 2 (.s 0)) (withV [(2, (List.range 32).map (BitVec.ofNat 32))] id [(0, 10)]))).group 0 0).mask 1 =
    0x000003ff := by decide +kernel
theorem test_scale_shift : lanes (.shlLane 0 1 1 (.lit 2)) (withV [(1, [0, 9, 31])]) 1 3 = [0, 36, 124] := by decide +kernel
theorem test_scale_add_masked :
    lanes (.addLane 1 2 2 (.lit 0x100)) (withV [(2, (List.range 32).map (BitVec.ofNat 32))] fun g => { g with masks := [0x3ff, 0, 0, 0, 0, 0, 0] })
      2 32 = (List.range 32).map (fun l => BitVec.ofNat 32 (if l < 10 then l + 256 else l)) := by decide +kernel
theorem test_scale_load : lanes (.ldlLane 0 2 1 .b32 (.off5 8))
    (withV [(1, (List.range 32).map fun l => BitVec.ofNat 32 (4 * l))] id [] fun k =>
      { k with store := Mem.write (n := 8) [] 32 ((List.range 32).flatMap fun l => leBytes 4 (l + 1)) }) 2 32 =
    (List.range 32).map (fun l => BitVec.ofNat 32 (l + 1)) := by decide +kernel
theorem test_scale_store : ((after (exec (.stlLane 2 2 1 .b32 (.off5 8)) (m2 [(1, [0, 4, 8, 12, 16, 20, 24, 28]), (2, [0x100, 0x101, 0x102])]))).core 0).store =
    [(33, 1), (36, 1), (37, 1), (40, 2), (41, 1)] := by decide +kernel

/-- The overlay `sumsq` of 11, in its last round: s6 = 14, s7 = 4. -/
theorem test_sumsq_mul : sreg (.mulUniform 8 7 (.s 7)) (sample 0 [(7, 4)]) 8 = 16 := by decide +kernel
theorem test_sumsq_add : sreg (.addUniform 6 6 (.s 8)) (sample 0 [(6, 14), (8, 16)]) 6 = 30 := by decide +kernel
theorem test_sumsq_addi : sreg (.addi 1 2 (-3)) (sample 0 [(2, 1)]) 1 = 0xfffffffe := by decide +kernel
theorem test_sumsq_store : ((after (exec (.stlUniform 6 9 .b32 (.off5 0)) (sample 0 [(6, 30), (9, 16)]))).core 0).store = [(16, 30)] := by decide +kernel
theorem test_sumsq_call : let t := ((after (exec (.call 10) lane)).group 0 0).threads.getD 31 {}
    t.pc = 0x0001000a ∧ t.depth = 1 ∧ t.link.headD 0 = 0x00010001 := by decide +kernel
theorem test_sumsq_loop : let f := fun i => (((after (exec (.brc .ge 0 7 2) (sample 0 [(0, 4), (7, i)]))).group 0 0).threads.getD 0 {}).pc
    f 4 = 0x00010002 ∧ f 5 = 0x00010001 := by decide +kernel

/-- The zero word takes cause 0x01; its EMUL registers (10). -/
theorem test_zero_word : let t := after (exec (.undefinedEncoding 0 0) (sample 0 [] fun g => { g with trap := { g.trap with tvec := 0x8000 } }))
    (t.group 0 0).trap.tcause = 0x80000001 ∧ (t.group 0 0).emul = [0, 0, 0, 0xffffffff] ∧ (t.group 0 0).trap.inHandler = true := by
  decide +kernel

/-- R228: division by zero, and the overflow of −2³¹ / −1. -/
theorem test_div_corners : (sreg (.div 1 2 (.lit 0)) (sample 0 [(2, 7)]) 1 = 0xffffffff) ∧ (sreg (.rem 1 2 (.lit 0)) (sample 0 [(2, 7)]) 1 = 7) ∧
    sreg (.div 1 2 (.lit 0xffffffff)) (sample 0 [(2, 0x80000000)]) 1 = 0x80000000 ∧
    sreg (.rem 1 2 (.lit 0xffffffff)) (sample 0 [(2, 0x80000000)]) 1 = 0 := by decide +kernel

/-- The conversions of R264. -/
def sources : List Word := [0x3f800000, 0x43e10000, 0x43fa0000, 0xc0200000, 0x3a800000, 0xff800000, 0x7fc00000]
theorem test_fcvt_e4m3 : lanes (.fcvt 0 3 2 .e4m3 .f32 (.field 0)) (withV [(2, sources)]) 3 7 = [0x38, 0x7e, 0x7e, 0xc2, 0, 0xfe, 0x7f] := by
  decide +kernel
theorem test_fcvt_s32 : lanes (.fcvt 0 3 2 .s32 .f32 (.field 1)) (withV [(2, sources)]) 3 7 =
    [1, 0x1c2, 0x1f4, 0xfffffffe, 0, 0x80000000, 0] := by decide +kernel
/-- Their flags, in bits 0 invalid, 2 overflow, 3 underflow, 4 inexact of the group's accrued flags, one source at a time. -/
theorem test_fcvt_flags : (sources.map fun w => arithOf (.fcvt 0 3 2 .e4m3 .f32 (.field 0)) (withV [(2, List.replicate 32 w)])) =
      [0, flInexact, flOverflow ||| flInexact, 0, flUnderflow ||| flInexact, flOverflow ||| flInexact, 0] ∧
    (sources.map fun w => arithOf (.fcvt 0 3 2 .s32 .f32 (.field 1)) (withV [(2, List.replicate 32 w)])) =
      [0, 0, 0, flInexact, flInexact, flInvalid, flInvalid] := by decide +kernel

/-- The case of R269: TOPK.nz v8, v4, 8 ?m2. -/
def candidates : List Word := [0x40000000, 0xbf800000, 0x7fc00000, 0x40a00000, 0x40000000, 0xff800000, 0, 0x40a00000]
theorem test_topk_values : lanes (.topk 2 true 8 4 (.imm 7)) (m2 [(4, candidates)]) 8 9 =
    [0x40a00000, 0x40a00000, 0x40000000, 0x40000000, 0, 0xbf800000, 0xff800000, 0xff800000, 0] := by decide +kernel
theorem test_topk_lanes : lanes (.topk 2 true 8 4 (.imm 7)) (m2 [(4, candidates)]) 9 9 = [3, 7, 0, 4, 6, 1, 5, 0xffff, 0] := by decide +kernel

/-- The block through QNT, DEQ and BDOT (13). -/
def blockValues : List Word := [0x40400000, 0xbf400000, 0x41200000, 0x7f800000, 0x3dcccccd, 0xc0d00000, 0, 0x3fa66666]
def mantissas : List Word := [2, 0, 5, 7, 0, 0xfffffffd, 0, 1]
theorem test_qnt : lanes (.qnt 2 .b4 10 4 12 1 none) (m2 [(4, blockValues)]) 10 9 = mantissas ++ [0] ∧
    lanes (.qnt 2 .b4 10 4 12 1 none) (m2 [(4, blockValues)]) 12 9 = List.replicate 8 0x8200 ++ [0] ∧
    arithOf (.qnt 2 .b4 10 4 12 1 none) (m2 [(4, blockValues)]) = flOverflow ||| flUnderflow ||| flInexact := by decide +kernel
theorem test_deq : lanes (.deq 2 .b4 14 10 12 1) (m2 [(10, mantissas), (12, List.replicate 8 0x8200)]) 14 8 =
    [0x40800000, 0, 0x41200000, 0x41600000, 0, 0xc0c00000, 0, 0x40000000] := by decide +kernel
theorem test_bdot : lanes (.bdot 2 .b4 6 10 12 1)
    (m2 [(10, mantissas), (11, mantissas), (12, List.replicate 8 0x8200), (13, List.replicate 8 0x8200)]) 6 9 =
      List.replicate 8 0x43b00000 ++ [0] := by decide +kernel

/-- The address of R61 with S = 4,096; the hash of R94; the route of 17. -/
theorem test_hbm_home : let s : State := { State.reset.setField 0x20 13 0 4096 with product := .rilide64 }
    (s.homeOf .hbm 0x1234567890).die = 10 ∧ (s.homeOf .hbm 0x1234567890).addr = 1221679248 ∧ (s.homeOf .hbm 0x1234567890).slice = 3 ∧
      (s.homeOf .hbm 0x1234567890).set = 4490 := by decide +kernel
theorem test_tree_hash : treeHash 0x03000041 = 0x3f15e5f1 ∧ homeSet 0x03000041 = 1521 ∧
    State.homeDie { State.reset with product := .rilide64 } 0x03000041 = 15 := by decide +kernel
theorem test_route_hops : let s : State := { State.reset with product := .rilide64 }
    s.hops (s.coreAt 5 2) (s.coreAt 30 29) = 29 ∧ s.hops (s.coreAt 30 29) (s.coreAt 5 2) = 29 := by decide +kernel

/-- The dirty-log entry of 01: vpn 0x7f0001234 of context 5, at slot 17. -/
theorem test_dirty_entry : (((lane.modCore 0 fun k => { k with dlogNext := 17, dlogFill := 17 }).dirtyAppend 0
    { ctx := 5, page := 0x7f0001234000, size := 4096, read := true, write := true, ap := .hbm, off := 0, dirty := false }).core 0).store64
      (0x5e8000 + 8 * 17) = 0x8000a007f0001234 := by decide +kernel

/-- The arm of entry 7 (06), and of its receive window. -/
theorem test_window_arm : let s := (lane.setCtl (State.winOff 7 1) 0x0500000000000010).setCtl (State.winOff 7 2) 0x203
    (after (exec (.windowArm 7 0xc400042400000100) s)).ctlQ (State.winOff 7 0) = 0xc400442400000100 := by decide +kernel

/-- The alarm of 18: a reading of 250 W beyond a limit of 200 W sets capped, and the governor's limit is step 3; at 188 W it clears. -/
theorem test_alarm_cap :
    let s := lane.setCtl 0x10 (BitVec.ofNat 64 (200 * 2 ^ 48 + 100 * 2 ^ 40))
    let t := after (exec (.powerAlarmRaise (250 * 2 ^ 48)) s)
    let u := after (exec .powerAlarmClear (t.setField 0x18 63 48 188))
    t.hedgeCap 0 = 3 ∧ t.field 0x18 2 0 = 2 ∧ t.field 8 29 29 = 1 ∧ (after (exec .powerAlarmClear t)).field 8 29 29 = 1 ∧
      u.field 8 29 29 = 0 ∧ u.field 0x18 2 0 = 0 := by decide +kernel

/-- The run that R72 chooses (03): S goes, slots 250 to 252. -/
theorem test_overlay_run : let r := fun (first slots occupancy stamp : Nat) => ({ resident := true, placed := true, owner := some 1, first, slots,
                                                                                  occupancy, stamp } : OvRecord)
    (({ records := [(0, r 0 240 1 1), (1, r 240 4 0 900), (2, r 244 1 0 100), (3, r 245 3 12 1010), (4, r 248 2 0 950), (5, r 250 2 0 400),
                    (6, r 253 3 0 980)] } : Core).chooseRun 3).map (fun x => (x.1, x.2.map (·.1))) = some (250, [5]) := by decide +kernel

/-- ATOM.add of 14, in the core store: four lanes add 1 to a word that holds 10. -/
def adding : State := withV [(2, List.replicate 4 64), (6, [1, 1, 1, 1])] (fun g => { g with masks := [0xf, 0, 0, 0, 0, 0, 0] }) [] fun k =>
  { k with store := [(64, 10)] }
theorem test_atomic_tickets : lanes (.atomLane 1 ⟨false, true⟩ .add 6 2 .core .none .zero) adding 6 4 = [10, 11, 12, 13] ∧
    ((after (exec (.atomLane 1 ⟨false, true⟩ .add 6 2 .core .none .zero) adding)).core 0).store = [(64, 14)] := by decide +kernel

end Tests
end Sys2Proof
end

section
/-! What a write of memory at its home slice leaves alone. -/

namespace Sys2Proof.Machine

/-- What tells the context of a bound ray's scene: the product, the control space and every core's pool slots. -/
def State.scenery (s : State) : Product × AMap DWord × (Nat → AMap PoolSlot) := (s.product, s.ctl, fun c => (s.core c).slots)

namespace Core

@[simp] theorem slots_wake (k : Core) (p : Wait → Bool) : (k.wake p).slots = k.slots := rfl
@[simp] theorem slots_writeStore (k : Core) (a : Nat) (bs : List Byte) : (k.writeStore a bs).slots = k.slots := rfl
@[simp] theorem slots_putStore64 (k : Core) (a : Nat) (v : DWord) : (k.putStore64 a v).slots = k.slots := rfl
@[simp] theorem slots_ringFlag (k : Core) (d b : Nat) : (k.ringFlag d b).slots = k.slots := rfl
@[simp] theorem slots_passFills (k : Core) (ap : Ap) (off : Nat) : (k.passFills ap off).slots = k.slots := rfl
@[simp] theorem slots_modOp (k : Core) (op : Nat) (f : MemOp → MemOp) : (k.modOp op f).slots = k.slots := rfl

theorem slots_foldl {α : Type} {f : Core → α → Core} (hf : ∀ k a, (f k a).slots = k.slots) (l : List α) (k : Core) :
    (l.foldl f k).slots = k.slots := by
  induction l generalizing k with
  | nil => rfl
  | cons a t ih => rw [List.foldl_cons, ih, hf]

@[simp] theorem slots_l1Store (k : Core) (s : State) (ctx link : Nat) (ap : Ap) (bs : List (Nat × Byte)) :
    (k.l1Store s ctx link ap bs).slots = k.slots := by
  unfold Core.l1Store
  refine slots_foldl (fun k b => ?_) bs k
  dsimp only
  split <;> rfl

theorem slots_ringGive {k k' : Core} {d n : Nat} {q0 : DWord} {cons : Bool} (h : k.ringGive d q0 n cons = some k') :
    k'.slots = k.slots := by
  unfold Core.ringGive at h
  dsimp only at h
  split at h
  · cases h
  · split at h <;> split at h <;> (cases h; rfl)

end Core

namespace State

/-! ### The basic updates -/

theorem scenery_setCore {s : State} {c : Nat} {k : Core} (h : k.slots = (s.core c).slots) : (s.setCore c k).scenery = s.scenery := by
  unfold scenery
  refine congrArg (fun f => (s.product, s.ctl, f)) (funext fun d => ?_)
  rw [core_setCore]
  split
  · rename_i hd; rw [h, hd]
  · rfl

@[simp] theorem scenery_modCore (s : State) (c : Nat) {f : Core → Core} (h : ∀ k, (f k).slots = k.slots) :
    (s.modCore c f).scenery = s.scenery := scenery_setCore (h _)

@[simp] theorem scenery_modGroup (s : State) (c gid : Nat) (f : Group → Group) : (s.modGroup c gid f).scenery = s.scenery :=
  scenery_modCore s c fun _ => rfl
@[simp] theorem scenery_setSlice (s : State) (d sl : Nat) (x : Slice) : (s.setSlice d sl x).scenery = s.scenery := rfl
@[simp] theorem scenery_post (s : State) (i : Instr) : (s.post i).scenery = s.scenery := rfl
@[simp] theorem scenery_postOnce (s : State) (i : Instr) : (s.postOnce i).scenery = s.scenery := by
  unfold State.postOnce; split <;> rfl

theorem scenery_foldl {α : Type} {f : State → α → State} (hf : ∀ s a, (f s a).scenery = s.scenery) (l : List α) (s : State) :
    (l.foldl f s).scenery = s.scenery := by
  induction l generalizing s with
  | nil => rfl
  | cons a t ih => rw [List.foldl_cons, ih, hf]

/-! ### Lines of a slice -/

@[simp] theorem scenery_rawPut (s : State) (h : Home) (i : Nat) (b : Byte) (bad : Bool) : (s.rawPut h i b bad).scenery = s.scenery := by
  unfold State.rawPut; split <;> rfl

@[simp] theorem scenery_writeBack (s : State) (d : Nat) (l : SLine) : (s.writeBack d l).scenery = s.scenery := by
  unfold State.writeBack
  refine scenery_foldl (fun s p => ?_) _ s
  dsimp only
  split <;> try rfl
  all_goals
    refine scenery_foldl (fun s i => ?_) _ s
    split <;> simp

@[simp] theorem scenery_touchLine (s : State) (h : Home) : (s.touchLine h).scenery = s.scenery := by
  unfold State.touchLine; dsimp only; split <;> rfl

@[simp] theorem scenery_putSector (s : State) (h : Home) (q : Sector) : (s.putSector h q).scenery = s.scenery := by
  unfold State.putSector
  dsimp only
  rw [scenery_setSlice]
  split
  · rfl
  · dsimp only
    split <;> simp

@[simp] theorem scenery_fillSector (s : State) (h : Home) : (s.fillSector h).scenery = s.scenery := by
  unfold State.fillSector
  dsimp only
  split
  · rfl
  · exact scenery_putSector _ _ _

@[simp] theorem scenery_mergeSector (s : State) (h : Home) (bs : List (Nat × Byte)) (bad : Bool) :
    (s.mergeSector h bs bad).scenery = s.scenery := by
  unfold State.mergeSector
  dsimp only
  split
  · have hraw := scenery_foldl (f := fun (s : State) (b : Nat × Byte) => s.rawPut { h with addr := h.addr / 48 * 48 } b.1 b.2 bad)
      (fun s b => scenery_rawPut _ _ _ _ _) bs s
    split
    · exact hraw
    · rw [scenery_putSector]; exact hraw
  · split <;> exact scenery_putSector _ _ _

/-! ### Traps, fences and releases -/

@[simp] theorem scenery_postRecord (s : State) (c : Nat) (r : List Word) : (s.postRecord c r).scenery = s.scenery :=
  scenery_modCore s c fun k => by dsimp only; split <;> rfl

@[simp] theorem scenery_pendTrap (s : State) (c gid uid ctx : Nat) (t : Trap) (payload : List Word) (team : Nat) :
    (s.pendTrap c gid uid ctx t payload team).scenery = s.scenery := by
  unfold State.pendTrap
  dsimp only
  repeat' split
  all_goals simp

@[simp] theorem scenery_wakeFences (s : State) : s.wakeFences.scenery = s.scenery := by
  unfold State.wakeFences
  refine scenery_foldl (fun s f => ?_) _ s
  split <;> simp

@[simp] theorem scenery_tryRelease (s : State) (c : Nat) (r : RingRel) : (s.tryRelease c r).scenery = s.scenery := by
  unfold State.tryRelease
  dsimp only
  split
  · rfl
  · split
    · rename_i k' hk
      have hs := Core.slots_ringGive hk
      exact scenery_setCore hs
    · rw [scenery_pendTrap]
      exact scenery_setCore rfl

@[simp] theorem scenery_ringReleases (s : State) (c : Nat) : (s.ringReleases c).scenery = s.scenery :=
  scenery_foldl (fun s r => scenery_tryRelease s c r) _ s

/-! ### Store-buffer entries -/

@[simp] theorem scenery_enterRecord (s : State) (c key page : Nat) (e : SbEntry) (t : Trap) (r : List Byte) :
    (s.enterRecord c key page e t r).scenery = s.scenery := by
  unfold State.enterRecord State.syncSfq
  dsimp only
  rw [scenery_pendTrap]
  exact Eq.trans (scenery_modCore _ _ fun _ => rfl) (scenery_modCore _ _ fun _ => rfl)

@[simp] theorem scenery_storeFault (s : State) (c key page cause cls sub code : Nat) :
    (s.storeFault c key page cause cls sub code).scenery = s.scenery := by
  unfold State.storeFault
  split
  · rfl
  · dsimp only
    split
    · rfl
    · split
      · exact scenery_enterRecord _ _ _ _ _ _ _
      · exact scenery_modCore _ _ fun _ => rfl

@[simp] theorem scenery_retireEntry (s : State) (c key : Nat) : (s.retireEntry c key).scenery = s.scenery := by
  unfold State.retireEntry
  split
  · rfl
  · split
    · rfl
    · extract_lets s1 s2 s3
      have h1 : s1.scenery = s.scenery := scenery_modCore _ _ fun _ => rfl
      have h2 : s2.scenery = s1.scenery := by
        show (State.ringReleases _ _).scenery = _
        rw [scenery_ringReleases, scenery_wakeFences, scenery_modCore]; exact fun _ => rfl
      have h3 : s3.scenery = s2.scenery := scenery_foldl (fun s x => by dsimp only; split <;> simp) _ _
      split <;> simp [h1, h2, h3]

@[simp] theorem scenery_acceptStore (s : State) (c key : Nat) (ap : Ap) (bs : List SByte) :
    (s.acceptStore c key ap bs).scenery = s.scenery := by
  unfold State.acceptStore
  dsimp only
  rw [scenery_retireEntry]
  refine Eq.trans (scenery_modCore _ _ fun _ => rfl) ?_
  split
  · rfl
  · exact scenery_modCore _ _ fun _ => rfl

@[simp] theorem scenery_dropTicket (s : State) (c : Nat) (o : MemOp) (lane : Nat) : (s.dropTicket c o lane).scenery = s.scenery := by
  unfold State.dropTicket
  repeat' split
  all_goals simp

/-! ### Lanes of loads and atomics -/

@[simp] theorem scenery_laneTaken (s : State) (c op lane : Nat) : (s.laneTaken c op lane).scenery = s.scenery := by
  unfold State.laneTaken
  split
  · rfl
  · dsimp only
    rw [scenery_postOnce]
    exact scenery_foldl (fun s x => by split <;> simp) _ s

@[simp] theorem scenery_failLane (s : State) (c op lane : Nat) (t : Trap) : (s.failLane c op lane t).scenery = s.scenery := by
  unfold State.failLane
  split
  · rfl
  · dsimp only
    rw [scenery_laneTaken]
    split
    · rw [scenery_dropTicket, scenery_modCore]; exact fun _ => rfl
    · rw [scenery_pendTrap, scenery_dropTicket, scenery_modCore]; exact fun _ => rfl

@[simp] theorem scenery_giveLane (s : State) (c op lane : Nat) (data : List Byte) (bad : Bool) :
    (s.giveLane c op lane data bad).scenery = s.scenery := by
  unfold State.giveLane
  split
  · rfl
  · split
    · simp
    · rw [scenery_laneTaken, scenery_modCore]; exact fun _ => rfl

@[simp] theorem scenery_rmwAt (s : State) (cl : Client) (old : List Byte) (bad : Bool) : (s.rmwAt cl old bad).1.scenery = s.scenery := by
  unfold State.rmwAt
  split
  · split
    · rfl
    · split
      · rfl
      · dsimp only
        split
        · exact scenery_foldl (fun s b => scenery_failLane _ _ _ _ _) _ s
        · split
          · exact scenery_foldl (fun s b => scenery_giveLane _ _ _ _ _ _) _ s
          · split
            · exact scenery_foldl (fun s b => scenery_failLane _ _ _ _ _) _ s
            · dsimp only
              refine Eq.trans (scenery_foldl (fun s b => ?_) _ _) (scenery_foldl (fun s b => scenery_giveLane _ _ _ _ _ _) _ s)
              split
              · rfl
              · split
                · rw [scenery_post, scenery_modCore]; exact fun _ => rfl
                · simp
          · rfl
  · rfl

@[simp] theorem scenery_dropAtom (s : State) (c op lane : Nat) : (s.dropAtom c op lane).scenery = s.scenery :=
  scenery_modCore s c fun _ => rfl

@[simp] theorem scenery_request (s : State) (r : Req) : (s.request r).scenery = s.scenery := by
  unfold State.request
  split
  · split
    · rw [scenery_post, scenery_modCore]; exact fun _ => rfl
    · rfl
  · simp

@[simp] theorem scenery_unitRead (s : State) (c op lane : Nat) (old : List Byte) (bad : Bool) :
    (s.unitRead c op lane old bad).scenery = s.scenery := by
  unfold State.unitRead
  split
  · simp
  · split
    · rename_i s' e
      rw [scenery_dropAtom, ← scenery_rmwAt s (.atom c op lane) old bad, e]
    · dsimp only
      rw [scenery_request]
      exact Eq.trans (scenery_modCore _ _ fun _ => rfl) (scenery_modCore _ _ fun k => Core.slots_l1Store _ _ _ _ _ _)

@[simp] theorem scenery_unitWritten (s : State) (c op lane : Nat) (lost : Bool) : (s.unitWritten c op lane lost).scenery = s.scenery := by
  unfold State.unitWritten
  split
  · rfl
  · dsimp only
    rw [scenery_dropAtom, scenery_rmwAt, scenery_modCore _ _ fun k => by split <;> rfl]

@[simp] theorem scenery_answer (s : State) (r : Req) (data : List Byte) (bad : List Bool) : (s.answer r data bad).scenery = s.scenery := by
  unfold State.answer
  split
  · rw [scenery_post, scenery_modCore]; exact fun _ => rfl
  · simp
  · simp
  all_goals rfl

/-! ### Requests at a home slice -/

@[simp] theorem scenery_notifyBlock (s : State) (ap : Ap) (off len : Nat) : (s.notifyBlock ap off len).scenery = s.scenery :=
  scenery_foldl (fun s w => by dsimp only; split <;> simp) _ s

@[simp] theorem scenery_serve (s : State) (r : Req) : (s.serve r).scenery = s.scenery := by
  unfold State.serve
  dsimp only
  split
  · split <;> simp
  · split <;> simp
  · have hrmw := scenery_rmwAt s r.client
    split
    · rw [scenery_notifyBlock, scenery_modCore _ _ fun k => by simp, scenery_mergeSector, hrmw]
    · exact hrmw _ _

@[simp] theorem scenery_meetBuffer (s : State) (r : Req) : (s.meetBuffer r).scenery = s.scenery := by
  unfold State.meetBuffer
  extract_lets lost
  split
  · split <;> simp
  · exact scenery_serve s r

@[simp] theorem scenery_settleLine (s : State) (h : Home) : (s.settleLine h).scenery = s.scenery := by
  unfold State.settleLine
  dsimp only
  rw [scenery_foldl]
  · split <;> simp
  · intro s r
    split
    · simp
    · rw [scenery_serve]; split <;> simp

@[simp] theorem scenery_homeWrite (s : State) (ap : Ap) (off : Nat) (bs : List Byte) (bad : Bool) :
    (s.homeWrite ap off bs bad).scenery = s.scenery := by
  unfold State.homeWrite
  dsimp only
  rw [scenery_notifyBlock]
  refine scenery_foldl (fun s b => ?_) _ s
  rw [scenery_mergeSector]
  split <;> simp

/-! ### The context of a bound ray's scene -/

theorem slotTid_of_scenery {s t : State} (h : t.scenery = s.scenery) (c : Nat) (r : HeldRay) : t.slotTid c r = s.slotTid c r := by
  have hc : (t.core c).slots = (s.core c).slots := congrFun (congrArg (·.2.2) h) c
  unfold State.slotTid
  rw [hc]

theorem sceneCtx_of_scenery {s t : State} (h : t.scenery = s.scenery) (sc : Nat) : t.sceneCtx sc = s.sceneCtx sc := by
  have hp : t.product = s.product := congrArg (·.1) h
  have hc : t.ctl = s.ctl := congrArg (·.2.1) h
  unfold State.sceneCtx State.field State.ctlQ
  rw [hp, hc]

end State
end Sys2Proof.Machine
end

section
/-! The registers, the words of a ray and the image of a treelet that the ray instructions go by. -/

namespace Sys2Proof.Machine

/-! ### Words and their fields -/

theorem wf32_31_30 (w : Word) : wf32 w 31 30 = w.toNat / 2 ^ 30 := by
  have := w.isLt
  unfold wf32 bits
  omega

theorem wf32_10_0 (w : Word) : wf32 w 10 0 = w.toNat % 2 ^ 11 := by
  unfold wf32 bits
  rw [Nat.pow_zero, Nat.div_one]

theorem wf32_9_0 (w : Word) : wf32 w 9 0 = w.toNat % 1024 := by
  unfold wf32 bits
  rw [Nat.pow_zero, Nat.div_one]
  rfl

theorem wf32_14_11 (w : Word) : wf32 w 14 11 = w.toNat / 2 ^ 11 % 16 := rfl

/-- A flag of one bit is set when its bit is. -/
theorem wf32_bit_eq_one (w : Word) (i : Nat) : wf32 w i i = 1 ↔ w.getLsbD i = true := by
  unfold wf32 bits
  rw [BitVec.getLsbD, Nat.testBit_eq_decide_div_mod_eq, decide_eq_true_iff]
  simp

/-- Clearing bit 10 leaves the fields above it. -/
theorem wf32_clear_10 (w : Word) {hi lo : Nat} (hlo : 11 ≤ lo) : wf32 (w32 (setBits w.toNat 10 10 0)) hi lo = wf32 w hi lo := by
  have hw := w.isLt
  obtain ⟨k, rfl⟩ := Nat.exists_eq_add_of_le hlo
  have h : (w32 (setBits w.toNat 10 10 0)).toNat / 2 ^ 11 = w.toNat / 2 ^ 11 := by
    unfold w32 setBits bits
    rw [BitVec.toNat_ofNat]
    omega
  unfold wf32 bits
  rw [Nat.pow_add, ← Nat.div_div_eq_div_mul, ← Nat.div_div_eq_div_mul, h]

/-! ### Words of a ray -/

@[simp] theorem length_setFlag (ray : List Word) (hi lo x : Nat) : (setFlag ray hi lo x).length = ray.length := List.length_set

@[simp] theorem getD_setFlag (ray : List Word) (hi lo x j : Nat) :
    (setFlag ray hi lo x).getD j 0 =
      if j = 13 ∧ 13 < ray.length then w32 (setBits (ray.getD 13 0).toNat hi lo x) else ray.getD j 0 := by
  unfold setFlag
  grind

theorem flagOf_clear_10 {ray : List Word} (h : 13 < ray.length) {hi lo : Nat} (hlo : 11 ≤ lo) :
    flagOf (setFlag ray 10 10 0) hi lo = flagOf ray hi lo := by
  unfold flagOf
  rw [getD_setFlag, if_pos ⟨rfl, h⟩, wf32_clear_10 _ hlo]

/-- The words are set one by one, from the first. -/
theorem setWords_cons (ray : List Word) (a : Nat) (w : Word) (ws : List Word) :
    setWords ray a (w :: ws) = setWords (ray.set a w) (a + 1) ws := by
  unfold setWords
  rw [List.zipIdx_cons', List.foldl_cons, List.foldl_map]
  simp only [Nat.add_zero, Nat.add_assoc, Nat.add_comm 1, Prod.map, id]

@[simp] theorem length_setWords (ray : List Word) (a : Nat) (ws : List Word) : (setWords ray a ws).length = ray.length := by
  induction ws generalizing ray a with
  | nil => rfl
  | cons w t ih => rw [setWords_cons, ih, List.length_set]

@[simp] theorem getD_setWords (ray : List Word) (a : Nat) (ws : List Word) (j : Nat) :
    (setWords ray a ws).getD j 0 = if a ≤ j ∧ j < a + ws.length ∧ j < ray.length then ws.getD (j - a) 0 else ray.getD j 0 := by
  induction ws generalizing ray a with
  | nil =>
    rw [if_neg (by simp; omega)]
    rfl
  | cons w t ih =>
    rw [setWords_cons, ih, List.length_set, List.length_cons]
    rcases Nat.lt_trichotomy a j with h | h | h
    · have e : j - a = (j - (a + 1)) + 1 := by omega
      grind
    · subst h; grind
    · grind

/-! ### Triangles keep the number of words -/

@[simp] theorem TriRun.length_take (r : TriRun) (j : Nat) (b : List Byte) (t uv : Word) (back : Bool) (fl : Word) :
    (r.take j b t uv back fl).ray.length = r.ray.length := by
  unfold TriRun.take
  split <;> simp

@[simp] theorem length_triStep (free : Nat → Word) (r : TriRun) (j : Nat) (b : List Byte) :
    (triStep free r j b).ray.length = r.ray.length := by
  unfold triStep
  split
  · rfl
  · split
    · rfl
    · exact TriRun.length_take _ _ _ _ _ _ _
    · split
      · exact TriRun.length_take _ _ _ _ _ _ _
      · rfl

theorem length_triRun (free : Nat → Word) (ray : List Word) (tris : List (List Byte)) :
    (triRun free ray tris).ray.length = ray.length := by
  suffices h : ∀ (l : List (List Byte × Nat)) (r : TriRun),
      (l.foldl (fun r (b, j) => triStep free r j b) r).ray.length = r.ray.length from h _ _
  intro l
  induction l with
  | nil => exact fun r => rfl
  | cons p t ih => exact fun r => (ih _).trans (length_triStep _ _ _ _)

/-! ### Object space -/

/-- Words 0 to 5 of a ray decide where it goes in object space. -/
theorem objectSpace_congr {ray ray' : List Word} (h : ∀ i < 6, ray.getD i 0 = ray'.getD i 0) (b : List Byte) :
    objectSpace ray b = objectSpace ray' b := by
  have hall : ((List.range 6).all fun i => Fp.finite32 (ray.getD i 0)) = (List.range 6).all fun i => Fp.finite32 (ray'.getD i 0) := by
    rw [Bool.eq_iff_iff, List.all_eq_true, List.all_eq_true]
    exact forall₂_congr fun i hi => by rw [h i (List.mem_range.1 hi)]
  unfold objectSpace
  simp only [hall, h 0 (by omega), h 1 (by omega), h 2 (by omega), h 3 (by omega), h 4 (by omega), h 5 (by omega), Nat.zero_add,
    Nat.reduceAdd]

theorem objectSpace_setFlag (ray : List Word) (hi lo x : Nat) (b : List Byte) :
    objectSpace (setFlag ray hi lo x) b = objectSpace ray b :=
  objectSpace_congr (fun i hi => by rw [getD_setFlag, if_neg (by omega)]) b

theorem enterSpace_setFlag (ray : List Word) (hi lo x : Nat) (b : List Byte) :
    enterSpace (setFlag ray hi lo x) b = enterSpace ray b := by
  unfold enterSpace
  rw [objectSpace_setFlag]

theorem spaceFlags_setFlag (ray : List Word) (hi lo x : Nat) (b : List Byte) :
    spaceFlags (setFlag ray hi lo x) b = spaceFlags ray b := by
  unfold spaceFlags
  rw [objectSpace_setFlag]

/-- A ray that enters has six words of object space. -/
theorem length_enterSpace {ray od : List Word} {b : List Byte} (h : enterSpace ray b = some od) : od.length = 6 := by
  unfold enterSpace at h
  dsimp only at h
  split at h
  · cases h
    rename_i hs
    unfold objectSpace at hs ⊢
    dsimp only at hs ⊢
    split
    · rename_i hf
      rw [if_pos hf] at hs
      simp at hs
    · rfl
  · cases h

/-! ### Uniform registers -/

theorem sPlace_add (gid d n : Nat) : sPlace gid (d + n) = sPlace gid d + n := by
  unfold sPlace
  split <;> omega

/-- Setting consecutive uniform registers is one write of the register file. -/
theorem Core.foldl_setS (k : Core) (gid d n : Nat) (ws : List Word) :
    (ws.zipIdx n).foldl (fun (k : Core) p => k.setS gid (d + p.2) p.1) k =
      { k with rf := Mem.write (n := 32) k.rf (sPlace gid d + n) ws } := by
  induction ws generalizing k n with
  | nil => rfl
  | cons w t ih =>
    rw [List.zipIdx_cons, List.foldl_cons, ih, Core.setS, sPlace_add]
    rfl

end Sys2Proof.Machine

namespace Sys2Proof.Claims

open Machine

theorem writesUniform_writeSs {s : State} (hs : s.memWf = true) (x : Ctx) (d : Nat) (ws : List Word) :
    WritesUniform s x d ws (s.writeSs x d ws) := by
  refine ⟨Mem.write (n := 32) (s.core x.core).rf (sPlace x.gid d) ws, ?_, fun a => ?_⟩
  · exact congrArg (s.setCore x.core) (Core.foldl_setS _ _ _ 0 _)
  · rw [Mem.get_write (Core.rf_wf (State.core_memWf hs _))]
    by_cases h1 : sPlace x.gid d ≤ a
    · by_cases h2 : a < sPlace x.gid d + ws.length
      · have h3 : a - sPlace x.gid d < ws.length := by omega
        simp [h1, h2, h3]
      · have h3 : ws.length ≤ a - sPlace x.gid d := by omega
        simp [h1, h2, h3]
    · simp [h1]

theorem writesUniform_writeS {s : State} (hs : s.memWf = true) (x : Ctx) (d : Nat) (w : Word) :
    WritesUniform s x d [w] (s.writeS x d w) := writesUniform_writeSs hs x d [w]

/-- A ray block of 24 words that is written back. -/
theorem writesUniform_writeRay {s : State} (hs : s.memWf = true) (x : Ctx) (b : Nat) {ray : List Word} (h : ray.length = 24) :
    WritesUniform s x b ray (s.writeRay x b ray) := by
  unfold State.writeRay
  rw [List.take_of_length_le (Nat.le_of_eq h)]
  exact writesUniform_writeSs hs x b ray

@[simp] theorem length_block (s : State) (x : Ctx) (b : SReg) : (block s x b).length = 24 := by
  unfold block
  rw [List.length_map, List.length_range]

/-! ### The image of the bound treelet (R86) -/

@[simp] theorem length_imageBytes (s : State) (x : Ctx) (slot i n : Nat) : (imageBytes s x slot i n).length = n := by
  unfold imageBytes
  rw [List.length_map, List.length_range]

/-- Bytes within a range of the image. -/
theorem imageBytes_within (s : State) (x : Ctx) (slot : Nat) {a m i n : Nat} (h : i + n ≤ m) :
    ((imageBytes s x slot a m).drop i).take n = imageBytes s x slot (a + i) n := by
  apply List.ext_getElem
  · simp; omega
  · intro j _ _
    simp [imageBytes, Nat.add_assoc]

theorem bytesAt_imageBytes (s : State) (x : Ctx) (slot : Nat) {a m i n : Nat} (h : i + n ≤ m) :
    bytesAt (imageBytes s x slot a m) i n = leNat (imageBytes s x slot (a + i) n) := by
  unfold bytesAt
  rw [imageBytes_within s x slot h]

theorem bytesAt_to_end {l : List Byte} {i n : Nat} (h : l.length ≤ i + n) : bytesAt l i n = leNat (l.drop i) := by
  unfold bytesAt
  rw [List.take_of_length_le (by rw [List.length_drop]; omega)]

/-- The bytes that the image of a bound treelet without poison gives. -/
theorem image_eq {s : State} {x : Ctx} {h : HeldRay} {slot : Nat} (hslot : h.slot = some slot)
    (hclean : (s.core x.core).storePoison = []) (i n : Nat) : s.image x.core h i n = (imageBytes s x slot i n, false) := by
  unfold State.image Core.readStore Core.storeBad Mem.read imageBytes
  rw [hslot, hclean]
  rfl

theorem imageCounts_eq {s : State} {x : Ctx} {h : HeldRay} {slot : Nat} (hslot : h.slot = some slot)
    (hclean : (s.core x.core).storePoison = []) : s.imageCounts x.core h = (nodesOf s x slot, slotsOf s x slot) := by
  unfold State.imageCounts
  simp only [image_eq hslot hclean, hslot, Option.isNone_some, Bool.false_eq_true, if_false]
  rw [bytesAt_imageBytes _ _ _ (by omega), bytesAt_imageBytes _ _ _ (by omega)]
  rfl

/-- A byte of a range of a block is set. -/
theorem anySet_iff {l : List Byte} {i n : Nat} (h : i + n ≤ l.length) :
    anySet l i n = true ↔ ∃ j, i ≤ j ∧ j < i + n ∧ l.getD j 0 ≠ 0 := by
  unfold anySet
  rw [List.any_eq_true]
  constructor
  · rintro ⟨y, hy, hne⟩
    obtain ⟨j, hj, rfl⟩ := List.mem_iff_getElem.1 hy
    rw [List.length_take, List.length_drop] at hj
    refine ⟨i + j, by omega, by omega, ?_⟩
    rw [List.getD_eq_getElem _ _ (by omega)]
    simpa using hne
  · rintro ⟨j, h1, h2, hne⟩
    rw [List.getD_eq_getElem _ _ (by omega)] at hne
    refine ⟨l[j], List.mem_iff_getElem.2 ⟨j - i, ?_, ?_⟩, by simpa using hne⟩
    · rw [List.length_take, List.length_drop]; omega
    · rw [List.getElem_take, List.getElem_drop]
      congr 1
      omega

end Sys2Proof.Claims
end

section
/-! The instructions of the traversal threads (R319 to R327). -/

namespace Sys2Proof.Claims

open Machine

variable {s : State} {x : Ctx} {h : HeldRay}

/-! ### Performing on the held ray (R319) -/

theorem run_of_runs {i : Instr} (hr : Runs i s x) (body : Ctx → State → Res) : run i body s = .next (s.finish x (body x s)) := by
  obtain ⟨hx, hb, hv⟩ := hr
  unfold run perform
  rw [hx]
  simp only [hb, Bool.false_eq_true, if_false, hv]

section Traversal

variable (needs going : Bool) (b : SReg) (f : HeldRay → List Word → Res)

theorem traversal_elsewhere (ht : ¬ traverses x) : traversal needs going b.toNat x s f = .trap (mkTrap 1 0) := by
  unfold traversal
  rw [if_pos]
  unfold traverses at ht
  omega

/-- On a traversal thread the base set is no bar. -/
theorem not_elsewhere (ht : traverses x) : ¬ (x.gid < 512 ∨ x.gid = supGid) := by
  unfold traverses at ht
  omega

theorem traversal_mismatch (ht : traverses x) (hn : needs = x.g.ray.isNone) : traversal needs going b.toNat x s f = prot 7 := by
  subst hn
  unfold traversal
  rw [if_neg (not_elsewhere ht)]
  cases x.g.ray with
  | none => rfl
  | some h => simp

theorem traversal_resting (ht : traverses x) (hray : x.g.ray = some h) (hg : going = true)
    (hrest : h.slot = none ∨ Ray.done (block s x b) = true) : traversal needs going b.toNat x s f = prot 7 := by
  unfold traversal
  rw [if_neg (not_elsewhere ht), hray]
  refine if_pos (.inr ⟨hg, ?_⟩)
  rcases hrest with hs | hd
  · exact .inl (by rw [hs]; rfl)
  · exact .inr hd

theorem traversal_free (ht : traverses x) (hray : x.g.ray = none) :
    traversal false going b.toNat x s f = f { base := 0, home := 0, slot := none } [] := by
  unfold traversal
  rw [if_neg (not_elsewhere ht), hray]
  rfl

theorem traversal_held (ht : traverses x) (hray : x.g.ray = some h)
    (hgo : going = true → h.slot ≠ none ∧ Ray.done (block s x b) = false) :
    traversal true going b.toNat x s f = f h (block s x b) := by
  unfold traversal
  rw [if_neg (not_elsewhere ht), hray]
  refine if_neg ?_
  rintro (hn | ⟨hg, hs | hd⟩)
  · exact hn rfl
  · exact (hgo hg).1 (Option.isNone_iff_eq_none.1 hs)
  · have hd' := (hgo hg).2
    unfold block at hd'
    exact Bool.false_ne_true (hd'.symm.trans hd)

/-- An instruction that a done ray's thread performs as well. -/
theorem traversal_carried (ht : traverses x) (hray : x.g.ray = some h) :
    traversal true false b.toNat x s f = f h (block s x b) :=
  traversal_held _ _ _ ht hray fun hg => absurd hg Bool.false_ne_true

end Traversal

/-- Every instruction of the traversal threads is a meaning behind the checks of R319. -/
theorem exec_of_traversalWord {i : Instr} {needs going : Bool} {b : SReg} (hi : traversalWord i = some (needs, going, b)) (s : State) :
    ∃ f : Ctx → State → HeldRay → List Word → Res,
      exec i s = run i (fun x s => traversal needs going b.toNat x s (f x s)) s := by
  unfold traversalWord at hi
  split at hi <;> cases hi
  case h_1 => exact ⟨_, show execRayrecv b s = _ from rfl⟩
  case h_2 n a => exact ⟨_, show execRayfwd n a b s = _ from rfl⟩
  case h_3 a => exact ⟨_, show execHitsend a b s = _ from rfl⟩
  case h_4 => exact ⟨_, show execRayend b s = _ from rfl⟩
  case h_5 d a => exact ⟨_, show execBoxt d a b s = _ from rfl⟩
  case h_6 d a => exact ⟨_, show execTrit d a b s = _ from rfl⟩
  case h_7 d a => exact ⟨_, show execRxf d a b s = _ from rfl⟩

/-! ### Receiving a ray (R321) -/

/-- The place in the inbox of the ray that RAYRECV takes: a done ray at the head, or the oldest one that can be delivered. -/
def received (k : Core) : Option Nat :=
  if (k.inbox.head?).any (fun r => r.slot.isNone) then some 0 else k.inbox.findIdx? k.deliverable

theorem received_eq_none {k : Core} (hk : ∀ r ∈ k.inbox, r.slot ≠ none ∧ k.deliverable r = false) : received k = none := by
  unfold received
  rw [if_neg, List.findIdx?_eq_none_iff]
  · exact fun r hr => (hk r hr).2
  · cases hin : k.inbox with
    | nil => simp
    | cons r t =>
      have := (hk r (by simp [hin])).1
      simpa using this

theorem received_eq_length {k : Core} {early rest : List InRay} {r : InRay} (hin : k.inbox = early ++ r :: rest)
    (hr : if r.slot = none then early = []
      else k.deliverable r = true ∧ (∀ y ∈ early, k.deliverable y = false) ∧ ∀ y ∈ early.head?, y.slot ≠ none) :
    received k = some early.length := by
  unfold received
  rw [hin]
  split at hr
  · next hnone =>
    subst hr
    simp [hnone]
  · next hslot =>
    obtain ⟨hd, he, hhead⟩ := hr
    rw [if_neg]
    · rw [List.findIdx?_append, List.findIdx?_eq_none_iff.2 he]
      simp [List.findIdx?_cons, hd]
    · cases early with
      | nil => simpa using hslot
      | cons y t => simpa using hhead y rfl

/-- What RAYRECV answers, from the place of the ray that it takes. -/
theorem exec_rayrecv {d : SReg} (hr : Runs (.rayrecv d) s x) (ht : traverses x) (hray : x.g.ray = none) :
    exec (.rayrecv d) s = .next (s.finish x
      (match (received (s.core x.core)).bind fun i => ((s.core x.core).inbox[i]?).map fun r => (i, r) with
      | none => .wait s .rayrecv
      | some (i, r) =>
        let u := ((((s.setCore x.core { s.core x.core with inbox := (s.core x.core).inbox.eraseIdx i }).modGroup x.core x.gid fun g =>
          { g with ray := some { base := d.toNat, home := r.words.getD 8 0, slot := r.slot } }).writeSs x d.toNat
            (r.words.take 24)).inboxHead x.core)
        .done (if (u.core x.core).inboxSpill.entries.isEmpty then u else u.postOnce (.spillRefill x.core false)))) := by
  show execRayrecv d s = _
  unfold execRayrecv
  rw [run_of_runs hr, traversal_free _ _ _ ht hray]
  rfl

theorem exec_rayrecv_wait {d : SReg} (hr : Runs (.rayrecv d) s x) (ht : traverses x) (hray : x.g.ray = none)
    (hin : ∀ r ∈ (s.core x.core).inbox, r.slot ≠ none ∧ (s.core x.core).deliverable r = false) :
    exec (.rayrecv d) s = .next (s.waitAt x .rayrecv) := by
  rw [exec_rayrecv hr ht hray, received_eq_none hin]
  rfl

theorem exec_rayrecv_take {d : SReg} (hr : Runs (.rayrecv d) s x) (ht : traverses x) (hray : x.g.ray = none) {early rest : List InRay}
    {r : InRay} (hin : (s.core x.core).inbox = early ++ r :: rest)
    (hfirst : if r.slot = none then early = []
      else (s.core x.core).deliverable r = true ∧ (∀ y ∈ early, (s.core x.core).deliverable y = false) ∧ ∀ y ∈ early.head?, y.slot ≠ none) :
    exec (.rayrecv d) s = .next ((let u := ((((s.setCore x.core { s.core x.core with inbox := early ++ rest }).modGroup x.core x.gid fun g =>
          { g with ray := some { base := d.toNat, home := r.words.getD 8 0, slot := r.slot } }).writeSs x d.toNat
            (r.words.take 24)).inboxHead x.core)
        if (u.core x.core).inboxSpill.entries = [] then u else u.postOnce (.spillRefill x.core false)).advance x) := by
  have hplace : (s.core x.core).inbox[early.length]? = some r := by simp [hin]
  have herase : (s.core x.core).inbox.eraseIdx early.length = early ++ rest := by simp [hin, List.eraseIdx_append_of_length_le]
  rw [exec_rayrecv hr ht hray, received_eq_length hin hfirst]
  simp only [Option.bind_some, hplace, Option.map_some, herase, List.isEmpty_iff]
  rfl

/-! ### Leaving (R324, R327) -/

theorem exec_hitsend {a b : SReg} (hr : Runs (.hitsend a b) s x) (ht : traverses x) (hray : x.g.ray = some h) :
    exec (.hitsend a b) s = .next (((s.endVisit x h (s.slotTid x.core h)).send x.core (s.homeCore h.home) 3 1
      (.hitArrival (s.homeCore h.home) (hitOf ((block s x b).set 8 h.home)
        (if ((block s x b).getD 13 0).getLsbD 12 then 4 else if (block s x b).getD 10 0 = 0xffffffff then 1 else 0)
        (ureg s x a)))).advance x) := by
  show execHitsend a b s = _
  unfold execHitsend
  rw [run_of_runs hr, traversal_carried _ _ ht hray]
  dsimp only
  unfold flagOf
  simp only [wf32_bit_eq_one]
  rfl

theorem exec_rayend {b : SReg} (hr : Runs (.rayend b) s x) (ht : traverses x) (hray : x.g.ray = some h) :
    exec (.rayend b) s = .next (((s.endVisit x h (s.slotTid x.core h)).send x.core (s.homeCore h.home) 3 1
      (.endNotice (s.homeCore h.home) (h.home.toNat % 1024))).advance x) := by
  show execRayend b s = _
  unfold execRayend
  rw [run_of_runs hr, traversal_carried _ _ ht hray, wf32_9_0]
  rfl

/-- The pairs that RAYFWD pushes, each none when it fails a check (R324). -/
def pairsOf (s : State) (x : Ctx) (h : HeldRay) (n : BitVec 3) (a b : SReg) : List (Option (Word × Word)) :=
  (List.range n.toNat).map fun j => Machine.pushed (s.imageCounts x.core h).1 (s.imageCounts x.core h).2 (block s x b)
    (ureg s x (a + 2 * BitVec.ofNat 5 j)) (ureg s x (a + 2 * BitVec.ofNat 5 j + 1))

/-- The registers of the pairs, named by their numbers. -/
theorem pairsOf_eq {n : BitVec 3} {a : SReg} (hn : a.toNat + 2 * n.toNat ≤ 32) (b : SReg) :
    pairsOf s x h n a b = (List.range n.toNat).map fun j => Machine.pushed (s.imageCounts x.core h).1 (s.imageCounts x.core h).2
      (block s x b) ((s.core x.core).getS x.gid (a.toNat + 2 * j)) ((s.core x.core).getS x.gid (a.toNat + 2 * j + 1)) := by
  refine List.map_congr_left fun j hj => ?_
  have hj' : j < n.toNat := List.mem_range.1 hj
  have h0 : (a + 2 * BitVec.ofNat 5 j).toNat = a.toNat + 2 * j := by
    have h2 : (2 : SReg).toNat = 2 := rfl
    rw [BitVec.toNat_add, BitVec.toNat_mul, BitVec.toNat_ofNat, h2]
    omega
  have h1 : (a + 2 * BitVec.ofNat 5 j + 1).toNat = a.toNat + 2 * j + 1 := by
    have h2 : (1 : SReg).toNat = 1 := rfl
    rw [BitVec.toNat_add, h0, h2]
    omega
  unfold ureg
  rw [h0, h1]

theorem exec_rayfwd {n : BitVec 3} {a b : SReg} (hr : Runs (.rayfwd n a b) s x) (ht : traverses x) (hray : x.g.ray = some h)
    (hn : a.toNat + 2 * n.toNat ≤ 32) :
    exec (.rayfwd n a b) s = .next (s.finish x (if none ∈ pairsOf s x h n a b then prot 3
      else match forwardRay (block s x b) ((pairsOf s x h n a b).filterMap id) with
        | (ray, .send) => .done (s.sendOn x h b.toNat ray false)
        | (ray, .exit) => .done (s.sendOn x h b.toNat ray true)
        | (ray, .hold) => .done (s.writeRay x b.toNat ray))) := by
  have hany : ∀ q : List (Option (Word × Word)), (q.any (·.isNone) = true) = (none ∈ q) := fun q => by
    simp [List.any_eq_true]
  show execRayfwd n a b s = _
  unfold execRayfwd
  rw [run_of_runs hr, traversal_carried _ _ ht hray, pairsOf_eq hn]
  simp only [hany] <;> rfl

theorem exec_rayfwd_refused {n : BitVec 3} {a b : SReg} (hr : Runs (.rayfwd n a b) s x) (ht : traverses x) (hray : x.g.ray = some h)
    (hn : a.toNat + 2 * n.toNat ≤ 32) (hbad : none ∈ pairsOf s x h n a b) : exec (.rayfwd n a b) s = .next (protects s x 3) := by
  rw [exec_rayfwd hr ht hray hn, if_pos hbad]
  rfl

theorem exec_rayfwd_pushed {n : BitVec 3} {a b : SReg} (hr : Runs (.rayfwd n a b) s x) (ht : traverses x) (hray : x.g.ray = some h)
    (hn : a.toNat + 2 * n.toNat ≤ 32) (hgood : none ∉ pairsOf s x h n a b) :
    exec (.rayfwd n a b) s = .next (match forwardRay (block s x b) ((pairsOf s x h n a b).filterMap id) with
        | (ray, .send) => (s.sendOn x h b.toNat ray false).advance x
        | (ray, .exit) => (s.sendOn x h b.toNat ray true).advance x
        | (ray, .hold) => (s.writeRay x b.toNat ray).advance x) := by
  rw [exec_rayfwd hr ht hray hn, if_neg hgood]
  obtain ⟨ray, e⟩ := forwardRay (block s x b) ((pairsOf s x h n a b).filterMap id)
  cases e <;> rfl

/-! ### Testing against the bound treelet (R322, R323, R325) -/

/-- x holds h, bound to a slot whose treelet has no poisoned byte. -/
structure HoldsBound (s : State) (x : Ctx) (h : HeldRay) (slot : Nat) : Prop where
  ray : x.g.ray = some h
  slot : h.slot = some slot
  traverses : traverses x
  canon : s.memWf = true
  clean : (s.core x.core).storePoison = []

namespace HoldsBound

variable {slot : Nat} {b : SReg}

theorem traversal_eq (hb : HoldsBound s x h slot) (hgo : Ray.done (block s x b) = false) (f : HeldRay → List Word → Res) :
    traversal true true b.toNat x s f = f h (block s x b) :=
  traversal_held _ _ _ hb.traverses hb.ray fun _ => ⟨by simp [hb.slot], hgo⟩

theorem image_eq (hb : HoldsBound s x h slot) (i n : Nat) : s.image x.core h i n = (imageBytes s x slot i n, false) :=
  Claims.image_eq hb.slot hb.clean i n

theorem imageCounts_eq (hb : HoldsBound s x h slot) : s.imageCounts x.core h = (nodesOf s x slot, slotsOf s x slot) :=
  Claims.imageCounts_eq hb.slot hb.clean

end HoldsBound

/-- The node that BOXT names. -/
def nodeBytes (s : State) (x : Ctx) (slot : Nat) (a : SReg) : List Byte := imageBytes s x slot (64 + 64 * (ureg s x a).toNat) 64

/-- R322 states every result of BOXT. -/
def BoxStated (ray : List Word) (node : List Byte) : Prop :=
  rayNumbers ray = true ∧ ∀ j < 3, Fp.finite32 (Machine.wordAt node (4 * j)) = true

/-- The state that BOXT writes its results to: free values are spent where R322 does not state them all. -/
def boxBase (s : State) (ray : List Word) (node : List Byte) : State :=
  if rayNumbers ray && (List.range 3).all fun i => Fp.finite32 (Machine.wordAt node (4 * i)) then s else s.spendFree 64

theorem boxStated_iff (ray : List Word) (node : List Byte) :
    (rayNumbers ray && (List.range 3).all fun i => Fp.finite32 (Machine.wordAt node (4 * i))) = true ↔ BoxStated ray node := by
  simp [BoxStated, List.all_eq_true]

theorem boxBase_stated {ray : List Word} {node : List Byte} (hst : BoxStated ray node) : boxBase s ray node = s :=
  if_pos ((boxStated_iff _ _).2 hst)

theorem boxBase_unstated {ray : List Word} {node : List Byte} (hst : ¬ BoxStated ray node) : boxBase s ray node = s.spendFree 64 :=
  if_neg (mt (boxStated_iff _ _).1 hst)

theorem boxBase_memWf (hs : s.memWf = true) (ray : List Word) (node : List Byte) : (boxBase s ray node).memWf = true :=
  State.ite_memWf hs (State.spendFree_memWf _ _ hs)

/-! ### Entering object space (R325) -/

/-- What RXF does with a good record r, as the model says it. -/
def entersInstance (s : State) (x : Ctx) (h : HeldRay) (d b : SReg) (block : List Word) (r : List Byte) : Res :=
  let ray := setFlag block 10 10 0
  let stay := fun (v : Nat) => Res.done ((s.writeRay x b.toNat ray).writeS x d.toNat (w32 v))
  let mask := flagOf ray 29 22
  if Ray.inst ray then stay 1
  else if byteAt r 56 &&& mask = 0 then stay 2
  else
    match enterSpace ray r with
    | none => .done (((s.writeRay x b.toNat ray).writeS x d.toNat 3).raiseFlags x x.lanes (spaceFlags ray r))
    | some od =>
      let t := s.homeWrite .hbm (s.saveRecord (s.homeCore h.home) (wf32 h.home 9 0))
        (((ray.take 6 ++ (ray.drop 14).take 8).flatMap fun w => leBytes 4 w.toNat) ++
          [BitVec.ofNat 8 mask, BitVec.ofNat 8 (Ray.depth ray + 8 * flagOf ray 17 17), 0, 0])
      .done (((t.writeS x d.toNat 0).raiseFlags x x.lanes (spaceFlags ray r)).sendOn x h b.toNat
        ((setWords (setFlag (setFlag (setFlag (setFlag (setWords ray 0 od) 29 22 (byteAt r 56 &&& mask)) 18 18 1) 17 17 0) 21 19 0)
          14 [0, 0, 0, 0, 0, 0, Machine.wordAt r 52, Machine.wordAt r 48]).set 9 (Machine.wordAt r 48)) false
        (some (t.sceneCtx (sceneOf (t.slotTid x.core h)))))

/-- The result word of RXF with which the ray stays outside, if it does. -/
def staysOut (ray : List Word) (r : List Byte) : Option Nat :=
  if Ray.inst ray then some 1
  else if ¬ (byteAt r 56 &&& flagOf ray 29 22 ≠ 0) then some 2
  else if enterSpace ray r = none then some 3 else none

/-- The words of a ray that has entered by record r, od being its origin and direction in object space. -/
def insideWords (ray : List Word) (r : List Byte) (od : List Word) : List Word :=
  let flags := (setFlag (setFlag (setFlag (setFlag (setFlag ray 10 10 0) 29 22 (byteAt r 56 &&& flagOf ray 29 22)) 18 18 1) 17 17 0)
    21 19 0).getD 13 0
  (List.range 24).map fun j =>
    if j < 6 then od.getD j 0 else if j = 9 ∨ j = 21 then Machine.wordAt r 48 else if j = 13 then flags
    else if 14 ≤ j ∧ j < 20 then 0 else if j = 20 then Machine.wordAt r 52 else ray.getD j 0

/-- What the home keeps of a ray that enters object space (R325). -/
def savedBytes (ray : List Word) : List Byte :=
  ((ray.take 6 ++ (ray.drop 14).take 8).flatMap fun w => leBytes 4 w.toNat) ++
    [BitVec.ofNat 8 (flagOf ray 29 22), BitVec.ofNat 8 (Ray.depth ray + 8 * flagOf ray 17 17), 0, 0]

theorem getD_insideWords (ray od : List Word) (r : List Byte) {j : Nat} (hj : j < 24) : (insideWords ray r od).getD j 0 =
    if j < 6 then od.getD j 0 else if j = 9 ∨ j = 21 then Machine.wordAt r 48
    else if j = 13 then (setFlag (setFlag (setFlag (setFlag (setFlag ray 10 10 0) 29 22 (byteAt r 56 &&& flagOf ray 29 22)) 18 18 1)
      17 17 0) 21 19 0).getD 13 0
    else if 14 ≤ j ∧ j < 20 then 0 else if j = 20 then Machine.wordAt r 52 else ray.getD j 0 := by
  unfold insideWords
  rw [List.getD_eq_getElem _ _ (by simpa using hj), List.getElem_map, List.getElem_range]

theorem insideWords_eq {ray od : List Word} (hray : ray.length = 24) (hod : od.length = 6) (r : List Byte) :
    (setWords (setFlag (setFlag (setFlag (setFlag (setWords (setFlag ray 10 10 0) 0 od) 29 22 (byteAt r 56 &&& flagOf ray 29 22))
      18 18 1) 17 17 0) 21 19 0) 14 [0, 0, 0, 0, 0, 0, Machine.wordAt r 52, Machine.wordAt r 48]).set 9 (Machine.wordAt r 48) = insideWords ray r od := by
  refine List.ext_getElem (by simp [insideWords, hray]) fun j hl hr => ?_
  have hj : j < 24 := by simpa [hray] using hl
  rw [← List.getD_eq_getElem _ 0 hl, ← List.getD_eq_getElem _ 0 hr, getD_insideWords _ _ _ hj]
  show (setWords _ 9 [Machine.wordAt r 48]).getD j 0 = _
  clear hl hr
  rcases eq_or_ne j 13 with rfl | h13
  · simp only [getD_setWords, getD_setFlag, length_setWords, length_setFlag, hray, hod, List.length_cons, List.length_nil,
      Nat.reduceLeDiff, Nat.reduceAdd, Nat.reduceEqDiff, and_true, and_false, if_true, if_false,
      or_self, Nat.reduceLT]
  · simp only [getD_setWords, getD_setFlag, h13, false_and, if_false, length_setWords, length_setFlag, hray, hod, List.length_cons,
      List.length_nil]
    interval_cases j <;> rfl
section Entering

variable {ray : List Word} {r : List Byte} {d b : SReg}

theorem entersInstance_stays (hray : ray.length = 24) {n : Nat} (hn : staysOut ray r = some n) :
    entersInstance s x h d b ray r = .done (if n = 3 then
      ((s.writeRay x b.toNat (setFlag ray 10 10 0)).writeS x d.toNat (BitVec.ofNat 32 n)).raiseFlags x x.lanes (spaceFlags ray r)
      else (s.writeRay x b.toNat (setFlag ray 10 10 0)).writeS x d.toNat (BitVec.ofNat 32 n)) := by
  have hl : 13 < ray.length := by omega
  unfold staysOut Ray.inst at hn
  unfold entersInstance Ray.inst
  simp only [flagOf_clear_10 hl (show 11 ≤ 18 by omega), flagOf_clear_10 hl (show 11 ≤ 22 by omega), enterSpace_setFlag,
    spaceFlags_setFlag]
  split at hn
  · next hi => cases hn; rw [if_pos hi]; rfl
  · next hi =>
    rw [if_neg hi]
    split at hn
    · next hm => cases hn; rw [if_pos (not_not.1 hm)]; rfl
    · next hm =>
      rw [if_neg (not_not.1 hm)]
      split at hn
      · next hs => cases hn; rw [hs]; rfl
      · cases hn

theorem entersInstance_enters (hray : ray.length = 24) (hn : staysOut ray r = none) {od : List Word} (hod : enterSpace ray r = some od) :
    entersInstance s x h d b ray r = .done (((((s.homeWrite .hbm (s.saveRecord (s.homeCore h.home) (h.home.toNat % 1024))
      (savedBytes ray)).writeS x d.toNat 0).raiseFlags x x.lanes (spaceFlags ray r)).sendOn x h b.toNat (insideWords ray r od) false
        (some (s.sceneCtx (sceneOf (s.slotTid x.core h)))))) := by
  have hl : 13 < ray.length := by omega
  unfold staysOut Ray.inst at hn
  rw [← insideWords_eq hray (length_enterSpace hod)]
  unfold entersInstance savedBytes Ray.inst Ray.depth
  have htake : (setFlag ray 10 10 0).take 6 = ray.take 6 := List.take_set_of_le (by omega)
  have hdrop : (setFlag ray 10 10 0).drop 14 = ray.drop 14 := List.drop_set_of_lt (by omega)
  simp only [flagOf_clear_10 hl (show 11 ≤ 18 by omega), flagOf_clear_10 hl (show 11 ≤ 22 by omega),
    flagOf_clear_10 hl (show 11 ≤ 17 by omega), flagOf_clear_10 hl (show 11 ≤ 19 by omega), enterSpace_setFlag,
    spaceFlags_setFlag, htake, hdrop, wf32_9_0, hod,
    State.sceneCtx_of_scenery (State.scenery_homeWrite _ _ _ _ _), State.slotTid_of_scenery (State.scenery_homeWrite _ _ _ _ _)]
  split at hn
  · cases hn
  · next hi =>
    rw [if_neg hi]
    split at hn
    · cases hn
    · next hm => rw [if_neg (not_not.1 hm)]

end Entering

section Bound

variable {slot : Nat} {d a b : SReg}

/-- What BOXT answers, from the words and bytes that it reads. -/
theorem exec_boxt (hb : HoldsBound s x h slot) (hgo : Ray.done (block s x b) = false) (hr : Runs (.boxt d a b) s x) :
    exec (.boxt d a b) s = .next (s.finish x
      (if 1024 ≤ (ureg s x a).toNat ∨ nodesOf s x slot ≤ (ureg s x a).toNat then prot 3 (ureg s x a).toNat
      else if badNode (nodesOf s x slot) (slotsOf s x slot) (nodeBytes s x slot a) = true then prot 3 (ureg s x a).toNat
      else
        .done (((boxBase s (block s x b) (nodeBytes s x slot a)).writeSs x d.toNat
          (boxResult (fun i => Config.freeWord (s.free + i)) (block s x b) (nodeBytes s x slot a))).raiseFlags x x.lanes
            (boxFlags (fun i => Config.freeWord (s.free + i)) (block s x b) (nodeBytes s x slot a))))) := by
  unfold boxBase nodeBytes ureg
  show execBoxt d a b s = _
  unfold execBoxt
  rw [run_of_runs hr, hb.traversal_eq hgo, hb.imageCounts_eq]
  dsimp only
  rw [hb.image_eq]
  simp only [Bool.false_eq_true, if_false]

theorem exec_boxt_bad (hb : HoldsBound s x h slot) (hgo : Ray.done (block s x b) = false) (hr : Runs (.boxt d a b) s x)
    (hbad : 1024 ≤ (ureg s x a).toNat ∨ nodesOf s x slot ≤ (ureg s x a).toNat ∨
      badNode (nodesOf s x slot) (slotsOf s x slot) (nodeBytes s x slot a) = true) :
    exec (.boxt d a b) s = .next (protects s x 3 (ureg s x a).toNat) := by
  rw [exec_boxt hb hgo hr]
  by_cases hrange : 1024 ≤ (ureg s x a).toNat ∨ nodesOf s x slot ≤ (ureg s x a).toNat
  · rw [if_pos hrange]
    rfl
  · have hnode : badNode (nodesOf s x slot) (slotsOf s x slot) (nodeBytes s x slot a) = true := by tauto
    rw [if_neg hrange, if_pos hnode]
    rfl

theorem exec_boxt_good (hb : HoldsBound s x h slot) (hgo : Ray.done (block s x b) = false) (hr : Runs (.boxt d a b) s x)
    (hv : (ureg s x a).toNat < 1024) (hn : (ureg s x a).toNat < nodesOf s x slot)
    (hnode : badNode (nodesOf s x slot) (slotsOf s x slot) (nodeBytes s x slot a) = false) :
    exec (.boxt d a b) s = .next ((((boxBase s (block s x b) (nodeBytes s x slot a)).writeSs x d.toNat
      (boxResult (fun i => Config.freeWord (s.free + i)) (block s x b) (nodeBytes s x slot a))).raiseFlags x x.lanes
        (boxFlags (fun i => Config.freeWord (s.free + i)) (block s x b) (nodeBytes s x slot a))).advance x) := by
  have hrange : ¬ (1024 ≤ (ureg s x a).toNat ∨ nodesOf s x slot ≤ (ureg s x a).toNat) := by omega
  rw [exec_boxt hb hgo hr, if_neg hrange, if_neg (Bool.eq_false_iff.1 hnode)]
  rfl

/-- The triangles of the run that TRIT names. -/
def runBytes (s : State) (x : Ctx) (slot : Nat) (a : SReg) : List (List Byte) :=
  (List.range ((ureg s x a).toNat / 2 ^ 11 % 16 + 1)).map fun j =>
    imageBytes s x slot (64 + 64 * nodesOf s x slot + 48 * ((ureg s x a).toNat % 2 ^ 11 + j)) 48

theorem length_of_mem_runBytes {y : List Byte} (hy : y ∈ runBytes s x slot a) : y.length = 48 := by
  unfold runBytes at hy
  obtain ⟨j, _, rfl⟩ := List.mem_map.1 hy
  exact length_imageBytes _ _ _ _ _

/-- Some triangle of the run has a reserved bit set (R89). -/
theorem runBytes_reserved_iff : ((runBytes s x slot a).any fun y => decide (2 ^ 10 ≤ bytesAt y 44 4)) = true ↔
    ∃ y ∈ runBytes s x slot a, 2 ^ 10 ≤ leNat (y.drop 44) := by
  rw [List.any_eq_true]
  refine exists_congr fun y => and_congr_right fun hy => ?_
  rw [bytesAt_to_end (by rw [length_of_mem_runBytes hy]), decide_eq_true_iff]

/-- What TRIT answers, from the words and bytes that it reads. -/
theorem exec_trit (hb : HoldsBound s x h slot) (hgo : Ray.done (block s x b) = false) (hr : Runs (.trit d a b) s x) :
    exec (.trit d a b) s = .next (s.finish x
      (if (ureg s x a).toNat / 2 ^ 30 ≠ 1 ∨ badRef (nodesOf s x slot) (slotsOf s x slot) (ureg s x a) = true then prot 3
      else if ((runBytes s x slot a).any fun y => decide (2 ^ 10 ≤ bytesAt y 44 4)) = true then prot 3
      else
        let r := triRun (fun i => Config.freeWord (s.free + i)) (block s x b) (runBytes s x slot a)
        .done (((((if rayNumbers (block s x b) then s else s.spendFree 64).writeRay x b.toNat r.ray).writeS x d.toNat
          r.result).raiseFlags x x.lanes r.flags)))) := by
  have hrun : (List.range (wf32 (ureg s x a) 14 11 + 1)).map (fun j =>
      s.image x.core h (64 + 64 * nodesOf s x slot + 48 * (wf32 (ureg s x a) 10 0 + j)) 48) =
      (runBytes s x slot a).map fun y => (y, false) := by
    unfold runBytes
    simp only [hb.image_eq, wf32_14_11, wf32_10_0, List.map_map, Function.comp_def]
  have hnone : ∀ l : List (List Byte), (l.any fun _ => false) = false := fun l => by simp
  unfold ureg at hrun ⊢
  show execTrit d a b s = _
  unfold execTrit
  rw [run_of_runs hr, hb.traversal_eq hgo, hb.imageCounts_eq]
  dsimp only
  rw [hrun, wf32_31_30]
  simp only [List.any_map, List.map_map, Function.comp_def, hnone, Bool.false_eq_true, if_false, List.map_id']

theorem exec_trit_bad (hb : HoldsBound s x h slot) (hgo : Ray.done (block s x b) = false) (hr : Runs (.trit d a b) s x)
    (hbad : (ureg s x a).toNat / 2 ^ 30 ≠ 1 ∨ badRef (nodesOf s x slot) (slotsOf s x slot) (ureg s x a) = true ∨
      ∃ y ∈ runBytes s x slot a, 2 ^ 10 ≤ leNat (y.drop 44)) :
    exec (.trit d a b) s = .next (protects s x 3) := by
  rw [exec_trit hb hgo hr]
  by_cases href : (ureg s x a).toNat / 2 ^ 30 ≠ 1 ∨ badRef (nodesOf s x slot) (slotsOf s x slot) (ureg s x a) = true
  · rw [if_pos href]
    rfl
  · have hrun : ∃ y ∈ runBytes s x slot a, 2 ^ 10 ≤ leNat (y.drop 44) := by tauto
    rw [if_neg href, if_pos (runBytes_reserved_iff.2 hrun)]
    rfl

theorem exec_trit_good (hb : HoldsBound s x h slot) (hgo : Ray.done (block s x b) = false) (hr : Runs (.trit d a b) s x)
    (hgood : ¬ ((ureg s x a).toNat / 2 ^ 30 ≠ 1 ∨ badRef (nodesOf s x slot) (slotsOf s x slot) (ureg s x a) = true ∨
      ∃ y ∈ runBytes s x slot a, 2 ^ 10 ≤ leNat (y.drop 44))) :
    let r := triRun (fun i => Config.freeWord (s.free + i)) (block s x b) (runBytes s x slot a)
    exec (.trit d a b) s = .next (((((if rayNumbers (block s x b) then s else s.spendFree 64).writeRay x b.toNat r.ray).writeS x
      d.toNat r.result).raiseFlags x x.lanes r.flags).advance x) := by
  rw [← or_assoc, not_or, ← runBytes_reserved_iff] at hgood
  obtain ⟨href, hrun⟩ := hgood
  rw [exec_trit hb hgo hr, if_neg href, if_neg hrun]
  rfl

/-- The record that RXF names (R90). -/
def recordBytes (s : State) (x : Ctx) (slot : Nat) (a : SReg) : List Byte :=
  imageBytes s x slot (64 + 64 * nodesOf s x slot + 48 * ((ureg s x a).toNat % 2 ^ 11)) 96

/-- What RXF refuses: another kind of reference, a malformed one, and a record with a reserved byte set (R88, R90). -/
def BadRecord (s : State) (x : Ctx) (slot : Nat) (a : SReg) : Prop :=
  (ureg s x a).toNat / 2 ^ 30 ≠ 3 ∨ badRef (nodesOf s x slot) (slotsOf s x slot) (ureg s x a) = true ∨
    ∃ j, 57 ≤ j ∧ j < 96 ∧ (recordBytes s x slot a).getD j 0 ≠ 0

theorem recordBytes_reserved_iff : anySet (recordBytes s x slot a) 57 39 = true ↔
    ∃ j, 57 ≤ j ∧ j < 96 ∧ (recordBytes s x slot a).getD j 0 ≠ 0 :=
  anySet_iff (Nat.le_of_eq (length_imageBytes _ _ _ _ _).symm)

/-- What RXF answers, from the words and bytes that it reads. -/
theorem exec_rxf (hb : HoldsBound s x h slot) (hgo : Ray.done (block s x b) = false) (hr : Runs (.rxf d a b) s x) :
    exec (.rxf d a b) s = .next (s.finish x
      (if (ureg s x a).toNat / 2 ^ 30 ≠ 3 ∨ badRef (nodesOf s x slot) (slotsOf s x slot) (ureg s x a) = true then prot 3
      else if anySet (recordBytes s x slot a) 57 39 = true then prot 3
      else entersInstance s x h d b (block s x b) (recordBytes s x slot a))) := by
  unfold recordBytes ureg
  show execRxf d a b s = _
  unfold execRxf
  rw [run_of_runs hr, hb.traversal_eq hgo, hb.imageCounts_eq]
  dsimp only
  rw [wf32_31_30, wf32_10_0, hb.image_eq]
  simp only [Bool.false_eq_true, if_false]
  unfold entersInstance
  rfl

theorem exec_rxf_bad (hb : HoldsBound s x h slot) (hgo : Ray.done (block s x b) = false) (hr : Runs (.rxf d a b) s x)
    (hbad : BadRecord s x slot a) : exec (.rxf d a b) s = .next (protects s x 3) := by
  unfold BadRecord at hbad
  rw [exec_rxf hb hgo hr]
  by_cases href : (ureg s x a).toNat / 2 ^ 30 ≠ 3 ∨ badRef (nodesOf s x slot) (slotsOf s x slot) (ureg s x a) = true
  · rw [if_pos href]
    rfl
  · rw [if_neg href, if_pos (recordBytes_reserved_iff.2 (by tauto))]
    rfl

theorem exec_rxf_good (hb : HoldsBound s x h slot) (hgo : Ray.done (block s x b) = false) (hr : Runs (.rxf d a b) s x)
    (hgood : ¬ BadRecord s x slot a) :
    exec (.rxf d a b) s = .next (s.finish x (entersInstance s x h d b (block s x b) (recordBytes s x slot a))) := by
  unfold BadRecord at hgood
  rw [← or_assoc, not_or, ← recordBytes_reserved_iff] at hgood
  obtain ⟨href, hrec⟩ := hgood
  rw [exec_rxf hb hgo hr, if_neg href, if_neg hrec]

theorem exec_rxf_stays (hb : HoldsBound s x h slot) (hgo : Ray.done (block s x b) = false) (hr : Runs (.rxf d a b) s x)
    (hgood : ¬ BadRecord s x slot a) {n : Nat} (hn : staysOut (block s x b) (recordBytes s x slot a) = some n) :
    let t := (s.writeRay x b.toNat (setFlag (block s x b) 10 10 0)).writeS x d.toNat (BitVec.ofNat 32 n)
    exec (.rxf d a b) s = .next ((if n = 3 then
      t.raiseFlags x x.lanes (spaceFlags (block s x b) (recordBytes s x slot a)) else t).advance x) := by
  rw [exec_rxf_good hb hgo hr hgood, entersInstance_stays (length_block s x b) hn]
  rfl

theorem exec_rxf_enters (hb : HoldsBound s x h slot) (hgo : Ray.done (block s x b) = false) (hr : Runs (.rxf d a b) s x)
    (hgood : ¬ BadRecord s x slot a) (hn : staysOut (block s x b) (recordBytes s x slot a) = none) {od : List Word}
    (hod : enterSpace (block s x b) (recordBytes s x slot a) = some od) :
    exec (.rxf d a b) s = .next (((((s.homeWrite .hbm (s.saveRecord (s.homeCore h.home) (h.home.toNat % 1024))
      (savedBytes (block s x b))).writeS x d.toNat 0).raiseFlags x x.lanes (spaceFlags (block s x b) (recordBytes s x slot a))).sendOn x
        h b.toNat (insideWords (block s x b) (recordBytes s x slot a) od) false
        (some (s.sceneCtx (sceneOf (s.slotTid x.core h))))).advance x) := by
  rw [exec_rxf_good hb hgo hr hgood, entersInstance_enters (length_block s x b) hn hod]
  rfl

end Bound

/-! ### The statement -/

/-- The checks of R319. -/
theorem traversal_traps {i : Instr} {needs going : Bool} {b : SReg} (hr : Runs i s x) (hi : traversalWord i = some (needs, going, b)) :
    (¬ traverses x → exec i s = .next (s.preciseTrap x (mkTrap 1 0))) ∧
    (traverses x → needs = x.g.ray.isNone → exec i s = .next (protects s x 7)) ∧
    (∀ h, traverses x → x.g.ray = some h → going = true → h.slot = none ∨ Ray.done (block s x b) = true →
      exec i s = .next (protects s x 7)) := by
  obtain ⟨f, hf⟩ := exec_of_traversalWord hi s
  rw [hf, run_of_runs hr]
  refine ⟨fun ht => ?_, fun ht hn => ?_, fun h ht hray hg hrest => ?_⟩
  · rw [traversal_elsewhere _ _ _ _ ht]
    rfl
  · rw [traversal_mismatch _ _ _ _ ht hn]
    rfl
  · rw [traversal_resting _ _ _ _ ht hray hg hrest]
    rfl

/-- Settles O38, an instruction at a time: the checks of R319, the receipt of a ray, the three words that let it go, and the three
that test it against the bound treelet. -/
theorem traversalInstructions : Obligations.TraversalInstructions := by
  unfold Obligations.TraversalInstructions
  refine ⟨⟨fun i s x needs going b hr hi => traversal_traps hr hi, fun s x d hr ht hray hs => ?_, fun s x h n a b hray ht => ?_⟩,
    fun s x h slot d a b hray hslot ht hs hclean => ?_⟩
  · refine ⟨exec_rayrecv_wait hr ht hray, fun early r rest hin _ hfirst => ⟨_, writesUniform_writeSs ?_ x d.toNat (r.words.take 24),
      exec_rayrecv_take hr ht hray hin hfirst⟩⟩
    exact State.modGroup_memWf _ _ _ _
      (State.setCore_memWf (k := { s.core x.core with inbox := early ++ rest }) hs (State.core_memWf hs x.core) _)
  · exact ⟨fun hr => exec_hitsend hr ht hray, fun hr => exec_rayend hr ht hray,
      fun hr hn => ⟨exec_rayfwd_refused hr ht hray hn, exec_rayfwd_pushed hr ht hray hn⟩⟩
  · have hb : HoldsBound s x h slot := ⟨hray, hslot, ht, hs, hclean⟩
    intro ray v nodes slots free hgo
    refine ⟨fun hr => ⟨exec_boxt_bad hb hgo hr, fun hv hn hnode => ?_⟩, fun hr _ => ⟨exec_trit_bad hb hgo hr, fun hgood => ?_⟩,
      fun hr _ _ => ⟨exec_rxf_bad hb hgo hr, fun n hgood hkept => ?_, fun od hgood hkept hod => ?_⟩⟩
    · exact ⟨_, _, boxBase_stated, boxBase_unstated, writesUniform_writeSs (boxBase_memWf hs _ _) x _ _,
        exec_boxt_good hb hgo hr hv hn hnode⟩
    · have hu : (if rayNumbers ray then s else s.spendFree 64).memWf = true :=
        State.ite_memWf hs (State.spendFree_memWf _ _ hs)
      exact ⟨_, _, writesUniform_writeRay hu x _ ((length_triRun _ _ _).trans (length_block s x b)),
        writesUniform_writeS (State.writeRay_memWf _ _ _ _ hu) x _ _, exec_trit_good hb hgo hr hgood⟩
    · exact ⟨_, _, writesUniform_writeRay hs x _ ((length_setFlag _ _ _ _).trans (length_block s x b)),
        writesUniform_writeS (State.writeRay_memWf _ _ _ _ hs) x _ _,
        exec_rxf_stays hb hgo hr hgood hkept⟩
    · exact ⟨_, writesUniform_writeS (State.homeWrite_memWf _ _ _ _ _ hs) x _ _,
        exec_rxf_enters hb hgo hr hgood hkept hod⟩

end Sys2Proof.Claims
end

section
/-! The checks of a memory access (R294): which trap an access takes, and that one it takes goes before every access. -/

namespace Sys2Proof.Claims

open Machine

variable {s : State} {x : Ctx}

/-! ### The checks of R294 -/

/-- The bounds check of an access at an address, as its space has it (R7 to R9, R345). -/
def boundTrap (s : State) (x : Ctx) (space : Space) (size a : Nat) : Option Trap :=
  match space with
  | .global => globalTrap s x size a
  | .store => storeTrap (s.span x).2 size a
  | .lanes => windowTrap ((s.team x.core x.g.team).windowOf x.gid) size a
  | .bits => bitTrap (s.span x).2 size a

/-- The checks of an access in their order. -/
def accessChecks (s : State) (x : Ctx) (acc : Access) : List (Nat → Option Trap) :=
  (if acc.space = .bits then [] else [fun l => alignTrap acc.size (acc.addr l)]) ++
    [fun l => boundTrap s x acc.space acc.size (acc.addr l)]

/-- The trap that the checks of an access find, if they find one. -/
def accessTrap (s : State) (x : Ctx) (acc : Access) : Option Trap := laneTrap acc.side.lanes (accessChecks s x acc)

theorem boundTrap_eq (space : Space) (size a : Nat) :
    boundTrap s x space size a = (beyond s x space size a).map fun sub => mkTrap 5 sub a := by
  cases space <;>
    grind [boundTrap, beyond, globalTrap, storeTrap, windowTrap, bitTrap, formTrap]

theorem findSome?_lowest {α : Type} {f : Nat → Option α} {ls : List Nat} {l : Nat} (hs : ls.Pairwise (· < ·)) (hl : l ∈ ls)
    (hf : (f l).isSome) (hlow : ∀ j ∈ ls, j < l → f j = none) : ls.findSome? f = f l := by
  induction ls with
  | nil => cases hl
  | cons j t ih =>
    obtain ⟨hj, ht⟩ := List.pairwise_cons.1 hs
    rcases List.mem_cons.1 hl with rfl | hlt
    · obtain ⟨v, hv⟩ := Option.isSome_iff_exists.1 hf
      simp [hv]
    · rw [List.findSome?_cons_of_isNone (by simp [hlow j (by simp) (hj l hlt)])]
      exact ih ht hlt fun i hi => hlow i (by simp [hi])

/-- The lowest misaligned lane decides, whatever the bounds. -/
theorem accessTrap_misaligned {acc : Access} {l : Nat} (hs : acc.side.lanes.Pairwise (· < ·)) (hb : acc.space ≠ .bits)
    (hl : l ∈ acc.side.lanes) (hm : acc.addr l % acc.size ≠ 0) (hlow : ∀ j ∈ acc.side.lanes, j < l → acc.addr j % acc.size = 0) :
    accessTrap s x acc = some (mkTrap 2 acc.size (acc.addr l)) := by
  have hf : alignTrap acc.size (acc.addr l) = some (mkTrap 2 acc.size (acc.addr l)) := if_neg hm
  have := findSome?_lowest (f := fun l => alignTrap acc.size (acc.addr l)) hs hl (by simp [hf]) fun j hj hlt => if_pos (hlow j hj hlt)
  simp [accessTrap, accessChecks, hb, laneTrap, this, hf]

/-- With every access aligned the lowest lane beyond its bounds decides. -/
theorem accessTrap_beyond {acc : Access} {l sub : Nat} (hs : acc.side.lanes.Pairwise (· < ·))
    (ha : acc.space ≠ .bits → ∀ j ∈ acc.side.lanes, acc.addr j % acc.size = 0) (hl : l ∈ acc.side.lanes)
    (hb : beyond s x acc.space acc.size (acc.addr l) = some sub)
    (hlow : ∀ j ∈ acc.side.lanes, j < l → beyond s x acc.space acc.size (acc.addr j) = none) :
    accessTrap s x acc = some (mkTrap 5 sub (acc.addr l)) := by
  have := findSome?_lowest (f := fun l => boundTrap s x acc.space acc.size (acc.addr l)) hs hl
    (by simp [boundTrap_eq, hb]) fun j hj hlt => by simp [boundTrap_eq, hlow j hj hlt]
  have hbound : laneTrap acc.side.lanes [fun l => boundTrap s x acc.space acc.size (acc.addr l)] =
      some (mkTrap 5 sub (acc.addr l)) := by
    rw [laneTrap, this, boundTrap_eq, hb]
    rfl
  unfold accessTrap accessChecks
  split
  · exact hbound
  · next h =>
    have halign : acc.side.lanes.findSome? (fun l => alignTrap acc.size (acc.addr l)) = none :=
      List.findSome?_eq_none_iff.2 fun j hj => if_pos (ha h j hj)
    rw [List.singleton_append, laneTrap, halign]
    exact hbound

theorem accessTrap_clear {acc : Access} (hc : Clear s x acc) : accessTrap s x acc = none := by
  have hbound : acc.side.lanes.findSome? (fun l => boundTrap s x acc.space acc.size (acc.addr l)) = none :=
    List.findSome?_eq_none_iff.2 fun j hj => by simp [boundTrap_eq, (hc j hj).2]
  unfold accessTrap accessChecks
  split
  · simp [laneTrap, hbound]
  · next h =>
    have halign : acc.side.lanes.findSome? (fun l => alignTrap acc.size (acc.addr l)) = none :=
      List.findSome?_eq_none_iff.2 fun j hj => if_pos ((hc j hj).1 h)
    simp [laneTrap, halign, hbound]

/-! ### The memory instructions and their checks -/

theorem lanesOf_sorted (m : Word) : (lanesOf m).Pairwise (· < ·) := List.Pairwise.filter _ List.pairwise_lt_range

/-- The lanes of an access are in ascending order. -/
theorem access_sorted {i : Instr} {acc : Access} (hi : access s x i = some acc) : acc.side.lanes.Pairwise (· < ·) := by
  have hside : (∃ m, acc.side = x.laneSide m) ∨ acc.side = x.uniSide := by
    unfold access at hi
    split at hi <;> cases hi <;> simp [atomAccess]
  rcases hside with ⟨m, h⟩ | h <;> rw [h]
  · exact lanesOf_sorted _
  · exact List.pairwise_singleton _ _

/-- A meaning behind the checks of its access. -/
def checked (o : Option Trap) (rest : Res) : Res :=
  match o with
  | some t => .trap t
  | none => rest

theorem checked_clear {o : Option Trap} {rest : Res} (h : o = none) : checked o rest = rest := by rw [h]; rfl

theorem atomOf_checked (sd : Side) (sp : AtomSpace) (r : Rmw) (ops d a : Nat) (sc : Scope) (o : Order) (off : TOff) :
    ∃ rest, atomOf sd sp r ops d a sc o off x s = checked (accessTrap s x (atomAccess s x sd sp a off)) rest := by
  unfold atomOf atomAccess
  cases sp.store
  · exact ⟨_, rfl⟩
  · exact ⟨_, rfl⟩

/-- Every memory instruction is a meaning behind the checks of its access (R294). -/
theorem exec_of_access {i : Instr} {acc : Access} (hi : access s x i = some acc) :
    ∃ (body : Ctx → State → Res) (rest : Res), exec i s = run i body s ∧ body x s = checked (accessTrap s x acc) rest := by
  unfold access at hi
  split at hi <;> cases hi
  case h_1 m d a w o => exact ⟨_, _, show execLd m d a w o s = _ from rfl, rfl⟩
  case h_2 m d a w o => exact ⟨_, _, show execSt m d a w o s = _ from rfl, rfl⟩
  case h_3 d a w o => exact ⟨_, _, show execLds d a w o s = _ from rfl, rfl⟩
  case h_4 d a w o => exact ⟨_, _, show execSts d a w o s = _ from rfl, rfl⟩
  case h_5 m d a w o => exact ⟨_, _, show execLdlLane m d a w o s = _ from rfl, rfl⟩
  case h_6 m d a w o => exact ⟨_, _, show execStlLane m d a w o s = _ from rfl, rfl⟩
  case h_7 d a w o => exact ⟨_, _, show execLdlUniform d a w o s = _ from rfl, rfl⟩
  case h_8 d a w o => exact ⟨_, _, show execStlUniform d a w o s = _ from rfl, rfl⟩
  case h_9 m d a w o => exact ⟨_, _, show execLdp m d a w o s = _ from rfl, rfl⟩
  case h_10 m d a w o => exact ⟨_, _, show execStp m d a w o s = _ from rfl, rfl⟩
  case h_11 m d k n sx => exact ⟨_, _, show execLdb m d k n sx s = _ from rfl, rfl⟩
  case h_12 m d k n => exact ⟨_, _, show execStb m d k n s = _ from rfl, rfl⟩
  case h_13 m sp op d a sc o off =>
    exact ⟨_, _, show execAtomLane m sp op d a sc o off s = _ from rfl, (atomOf_checked _ _ _ _ _ _ _ _ _).choose_spec⟩
  case h_14 m sp d a sc o off =>
    exact ⟨_, _, show execCasLane m sp d a sc o off s = _ from rfl, (atomOf_checked _ _ _ _ _ _ _ _ _).choose_spec⟩
  case h_15 m sp d a sc o off =>
    exact ⟨_, _, show execAtomExchLane m sp d a sc o off s = _ from rfl, (atomOf_checked _ _ _ _ _ _ _ _ _).choose_spec⟩
  case h_16 sp op d a sc o off =>
    exact ⟨_, _, show execAtomUniform sp op d a sc o off s = _ from rfl, (atomOf_checked _ _ _ _ _ _ _ _ _).choose_spec⟩
  case h_17 sp d a sc o off =>
    exact ⟨_, _, show execCasUniform sp d a sc o off s = _ from rfl, (atomOf_checked _ _ _ _ _ _ _ _ _).choose_spec⟩
  case h_18 sp d a sc o off =>
    exact ⟨_, _, show execAtomExchUniform sp d a sc o off s = _ from rfl, (atomOf_checked _ _ _ _ _ _ _ _ _).choose_spec⟩
  case h_19 m d a sc o off => exact ⟨_, _, show execQapp m d a sc o off s = _ from rfl, rfl⟩

/-- An access that fails a check takes its trap before any lane accesses memory. -/
theorem exec_of_accessTrap {i : Instr} {acc : Access} {t : Trap} (hr : Runs i s x) (hi : access s x i = some acc)
    (ht : accessTrap s x acc = some t) : exec i s = .next (s.preciseTrap x t) := by
  obtain ⟨body, rest, he, hb⟩ := exec_of_access hi
  rw [he, run_of_runs hr, hb, ht]
  rfl

/-- Settles O17: the checks come first, in their order and each over every lane, so that the lowest lane that fails the first of them
that fails decides. -/
theorem addressTraps : Obligations.AddressTraps := by
  unfold Obligations.AddressTraps
  refine ⟨fun i s x acc l hr hi hb hl hm hlow => ?_, fun i s x acc l sub hr hi ha hl hb hlow => ?_⟩
  · exact exec_of_accessTrap hr hi (accessTrap_misaligned (access_sorted hi) hb hl hm hlow)
  · exact exec_of_accessTrap hr hi (accessTrap_beyond (access_sorted hi) ha hl hb hlow)

end Sys2Proof.Claims
end

section
/-! The stores to the core store and to the lane banks (R293, R296): the bytes they write, and what they leave alone. -/

namespace Sys2Proof.Machine

/-! ### The bytes of registers -/

theorem length_leBytes (n v : Nat) : (leBytes n v).length = n := by
  induction n generalizing v with
  | zero => rfl
  | succ n ih => simp [leBytes, ih]

theorem getElem?_leBytes {n v j : Nat} (hj : j < n) : (leBytes n v)[j]? = some (BitVec.ofNat 8 (v / 2 ^ (8 * j))) := by
  induction n generalizing v j with
  | zero => omega
  | succ n ih =>
    cases j with
    | zero => simp [leBytes]
    | succ j =>
      rw [leBytes, List.getElem?_cons_succ, ih (by omega), Nat.div_div_eq_div_mul, Nat.mul_succ, Nat.add_comm (8 * j), Nat.pow_add]

theorem length_wordsBytes (ws : List Word) : (wordsBytes ws).length = 4 * ws.length := by
  induction ws with
  | nil => rfl
  | cons w t ih =>
    have : wordsBytes (w :: t) = leBytes 4 w.toNat ++ wordsBytes t := rfl
    simp [this, ih, length_leBytes]
    omega

/-- A byte of consecutive registers. -/
theorem getElem?_wordsBytes (ws : List Word) (j : Nat) :
    (wordsBytes ws)[j]? = (ws[j / 4]?).map fun w => w.extractLsb' (8 * (j % 4)) 8 := by
  induction ws generalizing j with
  | nil => simp [wordsBytes]
  | cons w t ih =>
    have : wordsBytes (w :: t) = leBytes 4 w.toNat ++ wordsBytes t := rfl
    rw [this]
    rcases Nat.lt_or_ge j 4 with hj | hj
    · rw [List.getElem?_append_left (by rwa [length_leBytes]), getElem?_leBytes hj, Nat.div_eq_of_lt hj, Nat.mod_eq_of_lt hj]
      simp [BitVec.extractLsb', Nat.shiftRight_eq_div_pow]
    · obtain ⟨i, rfl⟩ := Nat.exists_eq_add_of_le' hj
      rw [List.getElem?_append_right (by rw [length_leBytes]; omega), length_leBytes, ih]
      simp

theorem Width.bytes_le (w : Width) : w.bytes ≤ 4 * w.regs := by cases w <;> decide

/-! ### Writes of several lanes -/

/-- A write by each lane of a list, in its order. -/
def Mem.writeEach (m : Memory) (ls : List Nat) (lo : Nat → Nat) (data : Nat → List Byte) : Memory :=
  ls.foldl (fun m l => Mem.write (n := 8) m (lo l) (data l)) m

theorem Mem.wf_writeEach {m : Memory} (hm : Mem.wf (n := 8) m = true) (ls : List Nat) (lo : Nat → Nat) (data : Nat → List Byte) :
    Mem.wf (n := 8) (Mem.writeEach m ls lo data) = true := by
  induction ls generalizing m with
  | nil => exact hm
  | cons l t ih => exact ih (Mem.wf_write hm)

end Sys2Proof.Machine

namespace Sys2Proof.Claims

open Machine

variable {s : State} {x : Ctx}

theorem lastTo_snoc (ls : List Nat) (l : Nat) (lo : Nat → Nat) (n : Nat) (data : Nat → Nat → Byte) (b : Nat) :
    lastTo (ls ++ [l]) lo n data b =
      if lo l ≤ b ∧ b < lo l + n then some (data l (b - lo l)) else lastTo ls lo n data b := by
  unfold lastTo
  rw [List.reverse_append, List.reverse_singleton, List.singleton_append, List.find?_cons]
  by_cases h : lo l ≤ b ∧ b < lo l + n <;> simp [h]

/-- After the writes of several lanes a byte is that of the last lane that names it. -/
theorem get_writeEach {m : Memory} (hm : Mem.wf (n := 8) m = true) (ls : List Nat) (lo : Nat → Nat) {n : Nat}
    {data : Nat → List Byte} {byte : Nat → Nat → Byte} (hd : ∀ l j, (data l)[j]? = if j < n then some (byte l j) else none) (b : Nat) :
    Mem.get (n := 8) (Mem.writeEach m ls lo data) b = (lastTo ls lo n byte b).getD (Mem.get (n := 8) m b) := by
  induction ls using List.reverseRecOn with
  | nil => rfl
  | append_singleton ls l ih =>
    have hcons : Mem.writeEach m (ls ++ [l]) lo data = Mem.write (n := 8) (Mem.writeEach m ls lo data) (lo l) (data l) := by
      simp [Mem.writeEach]
    rw [hcons, Mem.get_write (Mem.wf_writeEach hm ls lo data), lastTo_snoc, ih, List.getD, hd]
    by_cases h1 : lo l ≤ b
    · by_cases h2 : b < lo l + n
      · have : b - lo l < n := by omega
        simp [h1, h2, this]
      · have : ¬ b - lo l < n := by omega
        simp [h1, h2, this]
    · simp [h1]

/-- The bytes that a store of a width reads in a lane. -/
theorem getElem?_storeData (k : Core) (sd : Side) (w : Width) (d l j : Nat) :
    ((wordsBytes (k.elem x sd d w.regs l)).take w.bytes)[j]? = if j < w.bytes then some (dataByte k x sd d l j) else none := by
  rw [List.getElem?_take]
  split
  · next hj =>
    have := Width.bytes_le w
    rw [getElem?_wordsBytes, Core.elem, List.getElem?_map, List.getElem?_range (by omega)]
    rfl
  · rfl

end Sys2Proof.Claims
end

section
/-! What a write of the core store changes beside its bytes: the waits of threads, the poison, and the holder of bytes that no team
holds (R33, R41). -/

namespace Sys2Proof.Machine

theorem AMap.look_map {α β : Type} (k : Nat) (f : α → β) (m : AMap α) : AMap.look k (m.map fun p => (p.1, f p.2)) = (AMap.look k m).map f := by
  induction m with
  | nil => rfl
  | cons p t ih =>
    simp only [List.map_cons, AMap.look, ih]
    split <;> rfl

theorem Core.store_disown (k : Core) (lo hi : Nat) : (k.disown lo hi).store = k.store := by
  unfold Core.disown
  split <;> rfl

theorem Core.store_storeBy (k : Core) (gid a : Nat) (bs : List Byte) :
    (k.storeBy gid a bs).store = Mem.write (n := 8) k.store a bs := by
  unfold Core.storeBy
  split
  · exact Core.store_disown _ _ _
  · rfl

end Sys2Proof.Machine

namespace Sys2Proof.Claims

open Machine

/-! ### Writes of the core store -/

theorem calm_wakeIf (g : Machine.Group) (p : Wait → Bool) : StoreOnly.calm (g.wakeIf p) = StoreOnly.calm g := by
  unfold StoreOnly.calm Group.wakeIf
  simp only [List.map_map]
  congr 1
  refine List.map_congr_left fun t _ => ?_
  dsimp only [Function.comp]
  split <;> rfl

theorem StoreOnly.refl (k : Core) : StoreOnly k k := ⟨k.store, k.storePoison, k.groups, rfl, rfl, fun _ => rfl⟩

theorem StoreOnly.trans {k k' k'' : Core} (h : StoreOnly k k') (h' : StoreOnly k' k'') : StoreOnly k k'' := by
  obtain ⟨store, poison, groups, rfl, hkeys, hcalm⟩ := h
  obtain ⟨store', poison', groups', rfl, hkeys', hcalm'⟩ := h'
  exact ⟨store', poison', groups', rfl, hkeys'.trans hkeys, fun gid => (hcalm' gid).trans (hcalm gid)⟩

theorem storeOnly_wake (k : Core) (p : Wait → Bool) : StoreOnly k (k.wake p) := by
  refine ⟨k.store, k.storePoison, (k.wake p).groups, rfl, ?_, fun gid => ?_⟩
  · simp [Core.wake, Function.comp_def]
  · have hlook : AMap.look gid (k.wake p).groups = (AMap.look gid k.groups).map fun g => g.wakeIf p :=
      AMap.look_map gid (fun g : Machine.Group => g.wakeIf p) k.groups
    rw [hlook, Option.map_map]
    exact congrArg (Option.map · _) (funext fun g => calm_wakeIf g p)

theorem storeOnly_writeStore (k : Core) (a : Nat) (bs : List Byte) : StoreOnly k (k.writeStore a bs) :=
  StoreOnly.trans ⟨_, _, k.groups, rfl, rfl, fun _ => rfl⟩ (storeOnly_wake _ _)

theorem StoreBy.refl (gid : Nat) (k : Core) : StoreBy gid k k := ⟨k.storeHolder, StoreOnly.refl k, fun _ => rfl⟩

/-- The holders play no part in what a write of the store leaves alone. -/
theorem StoreOnly.withHolder {k k' : Core} (h : StoreOnly k k') (storeHolder : List (Nat × Nat × Nat)) :
    StoreOnly { k with storeHolder } { k' with storeHolder } := by
  obtain ⟨store, poison, groups, rfl, hkeys, hcalm⟩ := h
  exact ⟨store, poison, groups, rfl, hkeys, hcalm⟩

theorem StoreBy.trans {gid : Nat} {k k' k'' : Core} (h : StoreBy gid k k') (h' : StoreBy gid k' k'') : StoreBy gid k k'' := by
  obtain ⟨holder, honly, hsame⟩ := h
  obtain ⟨holder', honly', hsame'⟩ := h'
  have hk' : k'.storeHolder = holder := by
    obtain ⟨_, _, _, rfl, _⟩ := honly
    rfl
  exact ⟨holder', (honly.withHolder holder').trans honly', fun hg => (hsame' hg).trans (hk'.trans (hsame hg))⟩

theorem storeBy_writeForeign (k : Core) (a : Nat) (bs : List Byte) : StoreBy supGid k (k.writeForeign a bs) := by
  refine ⟨(k.writeForeign a bs).storeHolder, ?_, fun h => absurd rfl h⟩
  have := (storeOnly_writeStore k a bs).withHolder (k.writeForeign a bs).storeHolder
  rwa [show { k.writeStore a bs with storeHolder := (k.writeForeign a bs).storeHolder } = k.writeForeign a bs by
    unfold Core.writeForeign Core.disown
    split <;> rfl] at this

theorem storeBy_storeBy (k : Core) (gid a : Nat) (bs : List Byte) : StoreBy gid k (k.storeBy gid a bs) := by
  unfold Core.storeBy
  split
  · next h => exact h ▸ storeBy_writeForeign k a bs
  · exact ⟨k.storeHolder, storeOnly_writeStore k a bs, fun _ => rfl⟩

/-- Writes of the store by each of several lanes are one change of the store. -/
theorem storeBy_foldl {gid : Nat} {α : Type} {f : Core → α → Core} (hf : ∀ k a, StoreBy gid k (f k a)) (l : List α) (k : Core) :
    StoreBy gid k (l.foldl f k) := by
  induction l generalizing k with
  | nil => exact StoreBy.refl gid k
  | cons a t ih => exact (hf k a).trans (ih _)

end Sys2Proof.Claims
end

section
/-! The stores to the core store and to the lane banks, as instructions. -/

namespace Sys2Proof.Claims

open Machine

variable {s : State} {x : Ctx}

theorem behind_iff {acc : Access} (h : acc.space = .store) : Behind s x acc ↔
    behindAperture s x acc.side.lanes (fun l => (s.span x).1 + acc.addr l) acc.size = true := by
  simp [Behind, behindAperture, h]

/-- A store to the core store whose access is clear: it waits behind the aperture, or its lanes write in their order. -/
theorem storeStore_clear {sd : Side} {w : Width} {d a : Nat} {off : Off} {acc : Access}
    (hacc : acc = ⟨sd, w.bytes, addr32 (issued s x) x sd a (Off.val w.bytes off), .store⟩) (hc : Clear s x acc) :
    storeStore sd w d a off x s =
      if behindAperture s x sd.lanes (fun l => (s.span x).1 + acc.addr l) w.bytes then .wait s .drain
      else .done (s.modCore x.core fun q => sd.lanes.foldl (fun q l =>
        q.storeBy x.gid ((s.span x).1 + acc.addr l) ((wordsBytes ((issued s x).elem x sd d w.regs l)).take w.bytes)) q) := by
  subst hacc
  exact checked_clear (accessTrap_clear hc)

theorem privateStore_clear {sd : Side} {w : Width} {d a : Nat} {off : Off} {acc : Access}
    (hacc : acc = ⟨sd, w.bytes, addr32 (s.core x.core) x sd a (Off.val w.bytes off), .lanes⟩) (hc : Clear s x acc) :
    privateStore sd w d a off x s = .done (s.modCore x.core fun q => sd.lanes.foldl (fun q l =>
      q.writeBank l ((s.team x.core x.g.team).windowBase x.g + acc.addr l)
        ((wordsBytes ((s.core x.core).elem x sd d w.regs l)).take w.bytes)) q) := by
  subst hacc
  exact checked_clear (accessTrap_clear hc)

theorem store_foldl_storeBy (k : Core) (gid : Nat) (ls : List Nat) (lo : Nat → Nat) (data : Nat → List Byte) :
    (ls.foldl (fun (q : Core) l => q.storeBy gid (lo l) (data l)) k).store = Mem.writeEach k.store ls lo data := by
  induction ls generalizing k with
  | nil => rfl
  | cons l t ih =>
    rw [List.foldl_cons, ih, Core.store_storeBy]
    rfl

theorem foldl_writeBank (k : Core) (ls : List Nat) (at_ : Nat → Nat) (data : Nat → List Byte) :
    ls.foldl (fun (q : Core) l => q.writeBank l (at_ l) (data l)) k =
      { k with banks := Mem.writeEach k.banks ls (fun l => l * 65536 + at_ l) data } := by
  induction ls generalizing k with
  | nil => rfl
  | cons l t ih =>
    rw [List.foldl_cons, ih]
    rfl

/-- The stores to the core store are one meaning on the lanes of their access. -/
theorem exec_of_coreStore {i : Instr} {acc : Access} {d : Nat} {w : Width} (hi : access s x i = some acc)
    (hw : coreStore i = some (d, w)) : ∃ a off, acc = ⟨acc.side, w.bytes, addr32 (issued s x) x acc.side a (Off.val w.bytes off), .store⟩ ∧
      ∃ body : Ctx → State → Res, exec i s = run i body s ∧ body x s = storeStore acc.side w d a off x s := by
  unfold coreStore at hw
  split at hw <;> cases hw <;> cases hi
  case h_1 m d a off => exact ⟨a.toNat, off, rfl, _, show execStlLane m d a w off s = _ from rfl, rfl⟩
  case h_2 d a off => exact ⟨a.toNat, off, rfl, _, show execStlUniform d a w off s = _ from rfl, rfl⟩

/-- Settles O19. STL: the lanes write in ascending order, so that the last write of a byte is the highest lane's. STP: the same in the
banks. -/
theorem localStores : Obligations.LocalStores := by
  unfold Obligations.LocalStores
  refine ⟨fun i s x acc d w hr hs hi hw hc => ?_, fun s x m d a w o acc hr hs hi hc => ?_⟩
  · obtain ⟨a, off, hacc, body, he, hb⟩ := exec_of_coreStore hi hw
    have hsp : acc.space = .store := by rw [hacc]
    have hsz : acc.size = w.bytes := by rw [hacc]
    rw [behind_iff hsp, he, run_of_runs hr, hb, storeStore_clear hacc hc, hsz]
    refine ⟨fun hbe => by rw [if_pos hbe]; rfl, fun hbe => ?_⟩
    rw [if_neg hbe]
    refine ⟨_, storeBy_foldl (fun k l => storeBy_storeBy k _ _ _) _ _, rfl, fun b => ?_⟩
    rw [store_foldl_storeBy]
    exact get_writeEach (Core.store_wf (State.core_memWf hs _)) _ _ (getElem?_storeData _ _ _ _) b
  · cases hi
    refine ⟨_, ?_, get_writeEach (Core.banks_wf (State.core_memWf hs _)) _ _ (getElem?_storeData _ _ _ _)⟩
    show execStp m d a w o s = _
    unfold execStp
    rw [run_of_runs hr, privateStore_clear rfl hc, State.modCore, foldl_writeBank]
    rfl

end Sys2Proof.Claims
end

section
/-! Instructions that stay outstanding: what starting one changes, and the store-buffer entries that it takes (R160, R296, R301). -/

namespace Sys2Proof.Machine

/-- The registers that an instruction has read at its issue stand in for the register file and for nothing else (R165). -/
theorem State.asIssued_eq (s : State) (x : Ctx) : ∃ rf, s.asIssued x = { s.core x.core with rf } := by
  unfold State.asIssued
  split
  · exact ⟨_, rfl⟩
  · next l _ =>
    generalize l.sregs.zipIdx = ps
    generalize s.core x.core = k
    induction ps generalizing k with
    | nil => exact ⟨k.rf, rfl⟩
    | cons p t ih =>
      obtain ⟨rf, h⟩ := ih (k.setS x.gid p.2 p.1)
      exact ⟨rf, h⟩

theorem State.look_dropHints (s : State) (ctx : Nat) {n : Nat} (hn : n ≠ 0) :
    ((s.dropHints ctx n).hintDrops.look ctx).map BitVec.toNat = some (min (((s.hintDrops.look ctx).getD 0).toNat + n) 0xffffffff) := by
  unfold State.dropHints
  rw [if_neg hn]
  simp only [AMap.look_put, if_pos, Option.map_some, w32, BitVec.toNat_ofNat, Option.some.injEq]
  omega

/-- A dropped hint touches its counter alone. -/
theorem State.dropHints_eq (s : State) (ctx n : Nat) : s.dropHints ctx n = { s with hintDrops := (s.dropHints ctx n).hintDrops } := by
  unfold State.dropHints
  dsimp only
  split <;> rfl

/-- The operation that an instruction starts (R160). -/
def startedOp (s : State) (x : Ctx) (sd : Side) (kind : MemKind) (dst regs : Nat) (accs : List LaneAcc) : MemOp :=
  { uid := x.g.uid, gid := x.gid, ctx := x.g.ctx, pc := x.pc, word := x.word, lit := x.lit, kind, dst := sd.reg dst, regs,
    uniform := sd.uniform, lanes := accs, victims := sd.victims, mark := (s.core x.core).nextSb }

/-- The core after an instruction has started: its operation is there, and its destination is locked. -/
theorem State.core_startOp (s : State) (x : Ctx) (sd : Side) (kind : MemKind) (dst regs : Nat) (accs : List LaneAcc) (go : List Nat) :
    (s.startOp x sd kind dst regs accs go).core x.core = { s.core x.core with
      memops := (s.core x.core).memops.put (s.core x.core).nextOp (startedOp s x sd kind dst regs accs)
      nextOp := (s.core x.core).nextOp + 1
      groups := (s.core x.core).groups.upd x.gid fun g =>
        (s.core x.core).settleWaits { g with locks := g.locks ++ (List.range regs).map fun j => sd.reg dst + j } } := by
  unfold State.startOp
  rw [State.core_posts, State.modGroup, State.core_modCore_same, State.core_setCore, if_pos rfl]
  rfl

theorem State.agenda_startOp (s : State) (x : Ctx) (sd : Side) (kind : MemKind) (dst regs : Nat) (accs : List LaneAcc) (go : List Nat) :
    (s.startOp x sd kind dst regs accs go).agenda =
      s.agenda ++ go.map fun l => .translationRequest x.core (s.core x.core).nextOp l := rfl

theorem State.hintDrops_startOp (s : State) (x : Ctx) (sd : Side) (kind : MemKind) (dst regs : Nat) (accs : List LaneAcc) (go : List Nat) :
    (s.startOp x sd kind dst regs accs go).hintDrops = s.hintDrops := rfl

theorem State.group?_startOp (s : State) (x : Ctx) (sd : Side) (kind : MemKind) (dst regs : Nat) (accs : List LaneAcc) (go : List Nat) :
    (s.startOp x sd kind dst regs accs go).group? x.core x.gid = (s.group? x.core x.gid).map fun g =>
      (s.core x.core).settleWaits { g with locks := g.locks ++ (List.range regs).map fun j => sd.reg dst + j } := by
  unfold State.group?
  rw [State.core_startOp, AMap.look_upd, if_pos rfl]

/-- A core takes its next store-buffer entry. -/
def Core.takeEntry (k : Core) (e : Nat → SbEntry) : Core :=
  { k with sbuf := k.sbuf.put k.nextSb (e k.nextSb), nextSb := k.nextSb + 1 }

/-- Entries taken one after another stand under consecutive numbers. -/
theorem Core.foldl_takeEntry (k : Core) {α : Type} (ls : List α) (e : α → Nat → SbEntry) :
    ∃ sbuf, ls.foldl (fun (k : Core) l => k.takeEntry (e l)) k = { k with sbuf, nextSb := k.nextSb + ls.length } ∧
      (∀ j l, ls[j]? = some l → sbuf.look (k.nextSb + j) = some (e l (k.nextSb + j))) ∧
      ∀ j, j < k.nextSb ∨ k.nextSb + ls.length ≤ j → sbuf.look j = k.sbuf.look j := by
  induction ls generalizing k with
  | nil => exact ⟨k.sbuf, rfl, by simp, by simp⟩
  | cons a t ih =>
    obtain ⟨sbuf, hfold, hin, hout⟩ := ih (k.takeEntry (e a))
    have hnext : (k.takeEntry (e a)).nextSb = k.nextSb + 1 := rfl
    have hlook (j : Nat) : (k.takeEntry (e a)).sbuf.look j = if k.nextSb = j then some (e a k.nextSb) else k.sbuf.look j :=
      AMap.look_put _ _ _ _
    rw [hnext] at hin hout
    refine ⟨sbuf, ?_, fun j l hl => ?_, fun j hj => ?_⟩
    · rw [List.foldl_cons, hfold, hnext, List.length_cons, Nat.add_assoc, Nat.add_comm 1]
      rfl
    · cases j with
      | zero =>
        cases hl
        rw [Nat.add_zero, hout _ (by omega), hlook, if_pos rfl]
      | succ j =>
        have := hin j l (by simpa using hl)
        rwa [Nat.add_assoc, Nat.add_comm 1] at this
    · rw [List.length_cons] at hj
      rw [hout j (by omega), hlook, if_neg (by omega)]

end Sys2Proof.Machine
end

section
/-! The hints and the ticket appends (R300 to R302). -/

namespace Sys2Proof.Claims

open Machine

variable {s : State} {x : Ctx}

/-! ### Hints (R302, R28) -/

/-- The lowest lane of each sector that the hints of PREF name (R302). -/
def hintLanes (x : Ctx) (m : MReg) (addr : Nat → Nat) : List Nat :=
  (lanesOf (x.active m)).filter fun l => (lanesOf (x.active m)).all fun j => decide (addr j / 48 ≠ addr l / 48 ∨ l ≤ j)

/-- The hints that start: those whose address passes the form check. -/
def goodHints (x : Ctx) (m : MReg) (addr : Nat → Nat) : List Nat :=
  (hintLanes x m addr).filter fun l => decide (addr l < 2 ^ 57)

/-- The state in which the bad hints of PREF have been dropped. -/
def dropBad (s : State) (x : Ctx) (m : MReg) (addr : Nat → Nat) : State :=
  s.dropHints x.g.ctx ((hintLanes x m addr).length - (goodHints x m addr).length)

/-- The state in which the hints of PREF have started, the others being dropped. -/
def hinted (s : State) (x : Ctx) (m : MReg) (kind : PrefKind) (addr : Nat → Nat) : State :=
  if goodHints x m addr = [] then dropBad s x m addr
  else (dropBad s x m addr).startOp x (x.laneSide m) (.pref kind) 0 0 ((goodHints x m addr).map fun l => { lane := l, va := addr l })
    (goodHints x m addr)

theorem exec_pref {m : MReg} {kind : PrefKind} {a : VReg} {off : Off} (hr : Runs (.pref m kind a off) s x) :
    exec (.pref m kind a off) s = .next
      ((hinted s x m kind (addr64 (s.core x.core) x (x.laneSide m) a.toNat (Off.val 1 off))).advance x) := by
  show execPref m kind a off s = _
  unfold execPref hinted
  rw [run_of_runs hr]
  show Host.Outcome.next (s.finish x (if (goodHints x m (addr64 (s.core x.core) x (x.laneSide m) a.toNat (Off.val 1 off))).isEmpty then .done _ else .done _)) = _
  by_cases h : goodHints x m (addr64 (s.core x.core) x (x.laneSide m) a.toNat (Off.val 1 off)) = []
  · rw [if_pos (List.isEmpty_iff.2 h), if_pos h]
    rfl
  · rw [if_neg (mt List.isEmpty_iff.1 h), if_neg h]
    rfl

section Hinted

variable (m : MReg) (kind : PrefKind) (addr : Nat → Nat)

theorem dropBad_cores : (dropBad s x m addr).cores = s.cores := by
  unfold dropBad
  rw [State.dropHints_eq]

theorem dropBad_agenda : (dropBad s x m addr).agenda = s.agenda := by
  unfold dropBad
  rw [State.dropHints_eq]

theorem dropBad_core (c : Nat) : (dropBad s x m addr).core c = s.core c := by
  unfold State.core
  rw [dropBad_cores]

theorem hinted_hintDrops : (hinted s x m kind addr).hintDrops = (dropBad s x m addr).hintDrops := by
  unfold hinted
  split
  · rfl
  · exact State.hintDrops_startOp _ _ _ _ _ _ _ _

theorem hinted_agenda : (hinted s x m kind addr).agenda =
    s.agenda ++ (goodHints x m addr).map fun l => .translationRequest x.core (s.core x.core).nextOp l := by
  unfold hinted
  split
  · next h => simp [h, dropBad_agenda]
  · rw [State.agenda_startOp, dropBad_agenda, dropBad_core]

/-- The registers, the store and the locks are as they were. -/
theorem hinted_core : ((hinted s x m kind addr).core x.core).rf = (s.core x.core).rf ∧
    ((hinted s x m kind addr).core x.core).store = (s.core x.core).store := by
  unfold hinted
  split
  · simp [dropBad_core]
  · simp [State.core_startOp, dropBad_core]

theorem hinted_locks (hx : s.ctx? = some x) : ((hinted s x m kind addr).group x.core x.gid).locks = x.g.locks := by
  obtain ⟨g, hg, hxg⟩ := ctx_group hx
  have hg' : (dropBad s x m addr).group? x.core x.gid = some g := by
    unfold State.group?
    rw [dropBad_core]
    exact hg
  rw [hxg]
  unfold hinted State.group
  split
  · rw [hg']
    rfl
  · rw [State.group?_startOp, hg']
    exact List.append_nil _

theorem hinted_op (h : goodHints x m addr ≠ []) : ((hinted s x m kind addr).core x.core).memops.look (s.core x.core).nextOp =
    some (startedOp (dropBad s x m addr) x (x.laneSide m) (.pref kind) 0 0
      ((goodHints x m addr).map fun l => { lane := l, va := addr l })) := by
  unfold hinted
  rw [if_neg h, State.core_startOp, dropBad_core]
  exact (AMap.look_put _ _ _ _).trans (if_pos rfl)

end Hinted

/-! ### Ticket appends (R300, R301) -/

/-- The entry that a ticket append reserves for a lane under a number. -/
def ticketEntry (x : Ctx) (m : MReg) (l n : Nat) : SbEntry :=
  { pipe := pipeOf x.gid, uid := x.g.uid, gid := x.gid, ctx := x.g.ctx, pc := x.pc, width := 2, uniform := false,
    victims := (x.laneSide m).victims, bytes := [], ticket := some (x.g.uid * 64 + l), instr := n }

/-- The accesses of a ticket append. -/
def ticketAccs (s : State) (x : Ctx) (m : MReg) (d : VReg) (addr : Nat → Nat) : List LaneAcc :=
  (x.laneSide m).lanes.map fun l =>
    { lane := l, va := addr l, x := wordsBytes ((issued s x).elem x (x.laneSide m) d.toNat 1 l) }

/-- The state in which a ticket append stands outstanding. -/
def appending (s : State) (x : Ctx) (m : MReg) (d : VReg) (sc : Scope) (o : Order) (addr : Nat → Nat) : State :=
  (s.startOp x (x.laneSide m) (.qapp sc o) d.toNat 1 (ticketAccs s x m d addr) (State.leaders (ticketAccs s x m d addr))).modCore
    x.core fun k => (x.laneSide m).lanes.foldl (fun (k : Core) l => k.takeEntry (ticketEntry x m l)) k

theorem exec_qapp {m : MReg} {d a : VReg} {sc : Scope} {o : Order} {off : TOff} {acc : Access} (hr : Runs (.qapp m d a sc o off) s x)
    (hi : access s x (.qapp m d a sc o off) = some acc) (hc : Clear s x acc) :
    exec (.qapp m d a sc o off) s = .next (s.finish x
      (if acc.side.lanes.isEmpty then .done s
      else if ¬ (s.core x.core).logStall.isEmpty then .wait s .xlate
      else if (s.core x.core).sbFree (pipeOf x.gid) < acc.side.lanes.length then .wait s .drain
      else if Order.releases o ∧ ¬ s.released x sc then .wait s .drain
      else State.doneOrBehind o x (s.core x.core).nextOp (appending s x m d sc o acc.addr))) := by
  have ht := accessTrap_clear hc
  cases hi
  show execQapp m d a sc o off s = _
  unfold execQapp
  rw [run_of_runs hr]
  obtain ⟨rf, hrf⟩ := State.asIssued_eq s x
  have hlog : (s.asIssued x).logStall = (s.core x.core).logStall := by rw [hrf]
  have hfree : (s.asIssued x).sbFree (pipeOf x.gid) = (s.core x.core).sbFree (pipeOf x.gid) := by rw [hrf]; rfl
  have hnext : (s.asIssued x).nextOp = (s.core x.core).nextOp := by rw [hrf]
  rw [← hlog, ← hfree, ← hnext]
  refine congrArg (fun r => Host.Outcome.next (s.finish x r)) (checked_clear ht)

section Appending

variable (m : MReg) (d : VReg) (sc : Scope) (o : Order) (addr : Nat → Nat)

/-- An append has one entry of the store buffer for each lane, and its operation; the registers and the store are as they were. -/
theorem core_appending : ∃ sbuf, (appending s x m d sc o addr).core x.core =
    { (s.startOp x (x.laneSide m) (.qapp sc o) d.toNat 1 (ticketAccs s x m d addr)
        (State.leaders (ticketAccs s x m d addr))).core x.core with
      sbuf, nextSb := (s.core x.core).nextSb + (x.laneSide m).lanes.length } ∧
    (∀ j l, (x.laneSide m).lanes[j]? = some l →
      sbuf.look ((s.core x.core).nextSb + j) = some (ticketEntry x m l ((s.core x.core).nextSb + j))) ∧
    ∀ j, j < (s.core x.core).nextSb ∨ (s.core x.core).nextSb + (x.laneSide m).lanes.length ≤ j →
      sbuf.look j = (s.core x.core).sbuf.look j := by
  unfold appending
  rw [State.core_modCore_same, State.core_startOp]
  exact Core.foldl_takeEntry _ _ _

theorem agenda_appending : (appending s x m d sc o addr).agenda = s.agenda ++
    (State.leaders (ticketAccs s x m d addr)).map fun l => .translationRequest x.core (s.core x.core).nextOp l := by
  unfold appending
  rw [State.modCore_agenda, State.agenda_startOp]

/-- The lowest lane that names a header speaks for it. -/
theorem mem_leaders_ticketAccs {l : Nat} (hl : l ∈ (x.laneSide m).lanes)
    (hlow : ∀ j ∈ (x.laneSide m).lanes, addr j = addr l → l ≤ j) : l ∈ State.leaders (ticketAccs s x m d addr) := by
  unfold State.leaders
  refine List.mem_map.2 ⟨{ lane := l, va := addr l, x := wordsBytes ((issued s x).elem x (x.laneSide m) d.toNat 1 l) },
    List.mem_filter.2 ⟨List.mem_map.2 ⟨l, hl, rfl⟩, List.all_eq_true.2 fun b hb => ?_⟩, rfl⟩
  obtain ⟨j, hj, rfl⟩ := List.mem_map.1 hb
  by_cases h : addr j = addr l
  · simp [h, hlow j hj h]
  · simp [h]

end Appending

/-- Settles O24. PREF: the hints are split by the form check, and only their counter and one outstanding operation remain of them.
QAPP: behind the checks of R294 and its waits, one operation and an entry a lane. -/
theorem hintsAndAppends : Obligations.HintsAndAppends := by
  unfold Obligations.HintsAndAppends
  refine ⟨fun s x m kind a off hr => ?_, fun s x m d a sc o off acc hr hi hc => ?_⟩
  · intro addr hints lead bad
    obtain ⟨hrf, hstore⟩ := hinted_core (s := s) (x := x) m kind addr
    refine ⟨_, exec_pref hr, fun hbad => ?_, fun hbad => ?_, hinted_agenda m kind addr, fun hlead =>
      ⟨_, hinted_op m kind addr hlead, rfl, ?_⟩, hrf, hstore, hinted_locks m kind addr hr.1⟩
    · exact (congrArg (fun t => (AMap.look x.g.ctx t).map BitVec.toNat) (hinted_hintDrops m kind addr)).trans
        (State.look_dropHints s x.g.ctx hbad)
    · refine (hinted_hintDrops m kind addr).trans ?_
      show (s.dropHints x.g.ctx bad).hintDrops = _
      rw [hbad]
      rfl
    · exact List.map_map
  · intro k lanes room allowed
    have he := exec_qapp hr hi hc
    refine ⟨fun hl => ?_, fun hl hk => ?_, fun hl hk hw => ?_, fun hl hk hroom hall => ?_⟩
    · rw [he, if_pos (List.isEmpty_iff.2 hl)]
      rfl
    · rw [he, if_neg (mt List.isEmpty_iff.1 hl), if_pos (mt List.isEmpty_iff.1 hk)]
      rfl
    · rw [he, if_neg (mt List.isEmpty_iff.1 hl), if_neg (not_not.2 (List.isEmpty_iff.2 hk))]
      by_cases hf : k.sbFree (pipeOf x.gid) < lanes.length
      · rw [if_pos hf]
        rfl
      · have hrel : Order.releases o = true ∧ ¬ s.released x sc = true :=
          Classical.not_imp.1 (hw.resolve_left (not_not.2 (Nat.le_of_not_lt hf)))
        rw [if_neg hf, if_pos hrel]
        rfl
    · have hside : acc.side = x.laneSide m := by cases hi; rfl
      obtain ⟨sbuf, hcore, hin, hout⟩ := core_appending (s := s) (x := x) m d sc o acc.addr
      rw [← hside] at hin hout
      refine ⟨appending s x m d sc o acc.addr, ?_, ?_, fun j l hl => ?_, fun j hj => ?_, ?_, fun l hl hlow => ?_, ?_, ?_⟩
      · rw [he, if_neg (mt List.isEmpty_iff.1 hl), if_neg (not_not.2 (List.isEmpty_iff.2 hk)), if_neg (Nat.not_lt.2 hroom),
          if_neg (not_and_not_right.2 hall)]
        unfold State.doneOrBehind
        split <;> rfl
      · rw [hcore, ← hside]
      · rw [hcore]
        exact ⟨_, hin j l hl, rfl, rfl⟩
      · rw [hcore]
        exact hout j hj
      · rw [hcore, State.core_startOp]
        refine ⟨_, (AMap.look_put _ _ _ _).trans (if_pos rfl), rfl, ?_⟩
        show _ = acc.side.lanes.map _
        rw [hside]
        exact List.map_map
      · rw [agenda_appending]
        have hlanes : lanes = (x.laneSide m).lanes := congrArg Side.lanes hside
        rw [hlanes] at hl hlow
        exact List.mem_append_right _ (List.mem_map.2 ⟨l, mem_leaders_ticketAccs m d acc.addr hl hlow, rfl⟩)
      · rw [hcore, State.core_startOp]
      · rw [hcore, State.core_startOp]

end Sys2Proof.Claims
end

section
/-! Fields of quadwords and of the control space: what a read finds after a field was replaced (R2, R394). -/

namespace Sys2Proof.Machine

theorem testBit_bits (v hi lo j : Nat) : (bits v hi lo).testBit j = (decide (j < hi + 1 - lo) && v.testBit (lo + j)) := by
  rw [bits, Nat.testBit_mod_two_pow, Nat.testBit_div_two_pow, Nat.add_comm j]

/-- Bits [hi:lo] are the new ones, and every other bit keeps its value. -/
theorem testBit_setBits {hi lo : Nat} (h : lo ≤ hi) (v x j : Nat) :
    (setBits v hi lo x).testBit j = if lo ≤ j ∧ j ≤ hi then x.testBit (j - lo) else v.testBit j := by
  obtain ⟨w, rfl⟩ := Nat.exists_eq_add_of_le h
  have hw : lo + w + 1 - lo = w + 1 := by omega
  have hpow : 2 ^ lo * 2 ^ (w + 1) = 2 ^ (lo + w + 1) := by rw [← Nat.pow_add, Nat.add_assoc]
  have hlow : v % 2 ^ lo < 2 ^ lo := Nat.mod_lt _ (Nat.two_pow_pos _)
  have hset : setBits v (lo + w) lo x =
      2 ^ lo * (2 ^ (w + 1) * (v / 2 ^ lo / 2 ^ (w + 1)) + x % 2 ^ (w + 1)) + v % 2 ^ lo := by
    have h1 := Nat.div_add_mod v (2 ^ lo)
    have h2 := Nat.div_add_mod (v / 2 ^ lo) (2 ^ (w + 1))
    have hv : v = 2 ^ lo * (2 ^ (w + 1) * (v / 2 ^ lo / 2 ^ (w + 1))) + bits v (lo + w) lo * 2 ^ lo + v % 2 ^ lo := by
      conv_lhs => rw [← h1, ← h2]
      rw [bits, hw, Nat.mul_add, Nat.mul_comm (_ % _)]
    rw [setBits, hw, Nat.mul_add, Nat.mul_comm (x % _)]
    omega
  rw [hset, Nat.testBit_two_pow_mul_add _ hlow]
  by_cases h1 : j < lo
  · rw [if_pos h1, if_neg (by omega), Nat.testBit_mod_two_pow]
    simp [h1]
  · rw [if_neg h1, Nat.testBit_two_pow_mul_add _ (Nat.mod_lt _ (Nat.two_pow_pos _))]
    by_cases h2 : j - lo < w + 1
    · rw [if_pos h2, if_pos (by omega), Nat.testBit_mod_two_pow]
      simp [h2]
    · rw [if_neg h2, if_neg (by omega), Nat.testBit_div_two_pow, Nat.testBit_div_two_pow]
      congr 1
      omega

theorem testBit_qf (q : DWord) (hi lo j : Nat) : (qf q hi lo).testBit j = (decide (j < hi + 1 - lo) && q.getLsbD (lo + j)) :=
  testBit_bits _ _ _ _

theorem getLsbD_qset {hi lo : Nat} (h : lo ≤ hi) (hhi : hi < 64) (q : DWord) (x j : Nat) :
    (qset q hi lo x).getLsbD j = if lo ≤ j ∧ j ≤ hi then x.testBit (j - lo) else q.getLsbD j := by
  rw [qset, BitVec.getLsbD_ofNat, testBit_setBits h]
  by_cases hj : j < 64
  · simp [hj, BitVec.getLsbD]
  · have : ¬ (lo ≤ j ∧ j ≤ hi) := by omega
    rw [if_neg this, if_neg this, BitVec.getLsbD_of_ge q j (by omega)]
    simp [hj]

@[simp] theorem qf_qset_same {hi lo : Nat} (h : lo ≤ hi) (hhi : hi < 64) (q : DWord) (x : Nat) :
    qf (qset q hi lo x) hi lo = x % 2 ^ (hi + 1 - lo) := by
  refine Nat.eq_of_testBit_eq fun j => ?_
  rw [testBit_qf, getLsbD_qset h hhi, Nat.testBit_mod_two_pow]
  by_cases hj : j < hi + 1 - lo
  · rw [if_pos (by omega)]
    simp [hj]
  · simp [hj]

theorem qf_qset_disjoint {hi lo hi' lo' : Nat} (h : lo ≤ hi) (hhi : hi < 64) (hd : hi' < lo ∨ hi < lo') (q : DWord) (x : Nat) :
    qf (qset q hi lo x) hi' lo' = qf q hi' lo' := by
  refine Nat.eq_of_testBit_eq fun j => ?_
  rw [testBit_qf, testBit_qf, getLsbD_qset h hhi]
  by_cases hj : j < hi' + 1 - lo'
  · rw [if_neg (by omega)]
  · simp [hj]

/-- A field that a mask keeps. -/
theorem qf_and {hi lo : Nat} {m : DWord} (hm : ∀ j < hi + 1 - lo, m.getLsbD (lo + j) = true) (q : DWord) :
    qf (q &&& m) hi lo = qf q hi lo := by
  refine Nat.eq_of_testBit_eq fun j => ?_
  rw [testBit_qf, testBit_qf, BitVec.getLsbD_and]
  by_cases hj : j < hi + 1 - lo
  · rw [hm j hj, Bool.and_true]
  · simp [hj]

theorem qf_bit (q : DWord) (i : Nat) : qf q i i = if q.getLsbD i then 1 else 0 := by
  refine Nat.eq_of_testBit_eq fun j => ?_
  rw [testBit_qf]
  cases j with
  | zero => cases q.getLsbD i <;> simp
  | succ j => cases q.getLsbD i <;> simp [Nat.testBit_succ]

theorem qf_lt (q : DWord) (hi lo : Nat) : qf q hi lo < 2 ^ (hi + 1 - lo) := Nat.mod_lt _ (Nat.two_pow_pos _)

namespace State

theorem field_setCtl_same (s : State) (off : Nat) (v : DWord) (hi lo : Nat) : (s.setCtl off v).field off hi lo = qf v hi lo := by
  rw [field, ctlQ_setCtl, if_pos rfl]

theorem field_setCtl_other (s : State) {a b : Nat} (h : a ≠ b) (v : DWord) (hi lo : Nat) :
    (s.setCtl a v).field b hi lo = s.field b hi lo := by
  rw [field, ctlQ_setCtl, if_neg h]
  rfl

theorem ctlQ_setField (s : State) (a b hi lo x : Nat) :
    (s.setField a hi lo x).ctlQ b = if a = b then qset (s.ctlQ a) hi lo x else s.ctlQ b := ctlQ_setCtl _ _ _ _

theorem field_setField_same (s : State) (off : Nat) {hi lo : Nat} (h : lo ≤ hi) (hhi : hi < 64) (x : Nat) :
    (s.setField off hi lo x).field off hi lo = x % 2 ^ (hi + 1 - lo) := by
  rw [field, ctlQ_setField, if_pos rfl, qf_qset_same h hhi]

theorem field_setField_disjoint (s : State) (off : Nat) {hi lo hi' lo' : Nat} (h : lo ≤ hi) (hhi : hi < 64) (hd : hi' < lo ∨ hi < lo')
    (x : Nat) : (s.setField off hi lo x).field off hi' lo' = s.field off hi' lo' := by
  rw [field, ctlQ_setField, if_pos rfl, qf_qset_disjoint h hhi hd]
  rfl

theorem field_setField_other (s : State) {a b : Nat} (h : a ≠ b) (hi lo x hi' lo' : Nat) :
    (s.setField a hi lo x).field b hi' lo' = s.field b hi' lo' := field_setCtl_other s h _ _ _

end State
end Sys2Proof.Machine
end

section
/-! What the host asks of a device: bitmap updates, harvests, the pool size, mailboxes and requests that the host does not complete. -/

namespace Sys2Proof.Machine

theorem foldl_eq_self {α β : Type} {f : β → α → β} {b : β} {l : List α} (h : ∀ a ∈ l, f b a = b) : l.foldl f b = b := by
  induction l with
  | nil => rfl
  | cons a t ih => rw [List.foldl_cons, h a (by simp), ih fun x hx => h x (by simp [hx])]

/-! ### The engine queues, which bitmap updates leave alone (R27) -/

/-- The product, its fused-off cores, and the engine queue of every core. -/
def State.engines (s : State) : Product × List Nat × (Nat → AMap Cmd) := (s.product, s.fused, fun c => (s.core c).eq)

namespace State

theorem engines_setCore {s : State} {c : Nat} {k : Core} (h : k.eq = (s.core c).eq) : (s.setCore c k).engines = s.engines := by
  have hq : (fun d => ((s.setCore c k).core d).eq) = fun d => (s.core d).eq := funext fun d => by
    rw [core_setCore]
    split
    · next hd => rw [h, hd]
    · rfl
  unfold engines
  rw [hq]
  rfl

@[simp] theorem engines_modCore (s : State) (c : Nat) {f : Core → Core} (h : ∀ k, (f k).eq = k.eq) :
    (s.modCore c f).engines = s.engines := engines_setCore (h _)

@[simp] theorem engines_postOnce (s : State) (i : Instr) : (s.postOnce i).engines = s.engines := by
  unfold postOnce
  split <;> rfl

@[simp] theorem engines_release (s : State) (w : Waiter) : (s.release w).engines = s.engines := by
  cases w with
  | ev i => exact engines_postOnce s i
  | thr c g => exact engines_modCore s c fun _ => rfl
  | saved _ => rfl

@[simp] theorem engines_releaseAll (s : State) (ws : List Waiter) : (s.releaseAll ws).engines = s.engines := by
  unfold releaseAll
  induction ws generalizing s with
  | nil => rfl
  | cons w t ih => rw [List.foldl_cons, ih, engines_release]

theorem eq_foldl {f : Core → Nat → Core} (h : ∀ k n, (f k n).eq = k.eq) (k : Core) (ns : List Nat) : (ns.foldl f k).eq = k.eq := by
  induction ns generalizing k with
  | nil => rfl
  | cons n t ih => rw [List.foldl_cons, ih, h]

@[simp] theorem engines_endMerge (s : State) (c : Nat) : (s.endMerge c).engines = s.engines := by
  unfold endMerge
  extract_lets k clear k' waiting s₁ s₂
  split
  · rfl
  · have hclear (k : Core) (n : Nat) : (clear k n).eq = k.eq := rfl
    have hk : k'.eq = k.eq := eq_foldl hclear k _
    have h₁ : s₁.engines = s.engines := engines_setCore hk
    have h₂ : s₂.engines = s.engines := (engines_releaseAll s₁ waiting).trans h₁
    split
    · exact (engines_postOnce s₂ _).trans h₂
    · exact h₂

@[simp] theorem engines_sendCas (s : State) (d : Nat) : (s.sendCas d).engines = s.engines := by
  unfold sendCas
  split <;> rfl

@[simp] theorem engines_nextJob (s : State) (d : Nat) : (s.nextJob d).engines = s.engines := by
  unfold nextJob
  split
  · rfl
  · rw [engines_endMerge, engines_sendCas]
    rfl

@[simp] theorem engines_failJob (s : State) (d : Nat) : (s.failJob d).engines = s.engines := by
  unfold failJob
  split
  · rfl
  · rw [engines_nextJob]
    rfl

/-- The transfer records of a die whose cores have no engine command: none fails with a request of the die (R311). -/
theorem hostCompletionTimeout_idle {s : State} {d : Nat} (h : ∀ c ∈ s.dieCores d, (s.core c).eq = []) :
    execHostCompletionTimeout d s = .next (s.failJob d) := by
  have he := engines_failJob s d
  simp only [engines, Prod.mk.injEq] at he
  obtain ⟨hp, hf, hq⟩ := he
  have hdie : (s.failJob d).dieCores d = s.dieCores d := by
    unfold dieCores present dieOf coreY coreX
    rw [hp, hf]
  unfold execHostCompletionTimeout
  dsimp only
  rw [hdie, foldl_eq_self]
  intro c hc
  rw [congrFun hq c, h c hc]
  rfl

/-! ### The pool size (R39, R45) -/

theorem poolSlots_foldl_reclaim (k : Core) (gs : List Nat) : (gs.foldl (fun (k : Core) g => k.reclaim g) k).poolSlots = k.poolSlots := by
  induction gs generalizing k with
  | nil => rfl
  | cons g t ih =>
    rw [List.foldl_cons, ih]
    rfl

theorem pool_relend (k : Core) (before : List Nat) :
    (k.relend before).poolSlots = k.poolSlots ∧ (k.relend before).poolNext = k.poolNext := by
  unfold Core.relend
  extract_lets k'
  have hk : k'.poolSlots = k.poolSlots ∧ k'.poolNext = k.poolNext := by
    show (if k.reclaimWaits then k else { k with reclaiming := [] } : Core).poolSlots = _ ∧
      (if k.reclaimWaits then k else { k with reclaiming := [] } : Core).poolNext = _
    split <;> exact ⟨rfl, rfl⟩
  split <;> exact hk

/-- A write of the pool size has taken effect, or takes it with the last fill to a granule being reclaimed. -/
def Sized (n : Nat) (k k' : Core) : Prop :=
  (k'.poolSlots = min n 64 ∧ k'.poolNext = none) ∨
    (k'.poolSlots = k.poolSlots ∧ k'.poolNext = some (min n 64) ∧ k'.reclaimWaits = true)

/-- What a write of the pool size makes of a core: the size follows the reclaimed granules, at once or with their last fill. -/
def resized (k : Core) (n : Nat) : Core :=
  let before := k.lent
  let (k, ok) := k.reclaimRange 0 (n * 65536)
  let k := { k with poolNext := some n }
  if ok then (({ k with poolSlots := n, poolNext := none } : Core).relend before) else k

theorem sized_resized (k : Core) (n : Nat) : Sized n k (resized k (min n 64)) := by
  have hok : (k.reclaimRange 0 (min n 64 * 65536)).2 = !(k.reclaimRange 0 (min n 64 * 65536)).1.reclaimWaits := rfl
  have hslots : (k.reclaimRange 0 (min n 64 * 65536)).1.poolSlots = k.poolSlots := poolSlots_foldl_reclaim _ _
  unfold resized
  generalize k.reclaimRange 0 (min n 64 * 65536) = r at hok hslots
  obtain ⟨k', ok⟩ := r
  cases ok with
  | true => exact .inl (pool_relend _ _)
  | false =>
    have hw : k'.reclaimWaits = true := by simpa using hok.symm
    exact .inr ⟨hslots, rfl, hw⟩

theorem setPool_free {s : State} {c : Nat} (n : Nat) (hb : (s.core c).poolBusy = false) (ht : (s.core c).teams = []) :
    s.setPool c n = (s.setCore c (resized (s.core c) (min n 64)), true) := by
  unfold setPool resized
  rw [if_neg (by simp [hb, ht])]

/-- The pool size of one more core, and whether every core has taken it so far. -/
def poolStep (n : Nat) (a : State × Bool) (c : Nat) : State × Bool :=
  let (t, b) := a.1.setPool c n
  (t, a.2 && b)

theorem poolStep_free {s : State} {c : Nat} (n : Nat) (hb : (s.core c).poolBusy = false) (ht : (s.core c).teams = []) :
    poolStep n (s, true) c = (s.setCore c (resized (s.core c) (min n 64)), true) := by
  unfold poolStep
  dsimp only
  rw [setPool_free n hb ht, Bool.true_and]

theorem foldl_poolStep_free {s : State} (n : Nat) {cs : List Nat} (hcs : cs.Nodup)
    (h : ∀ c ∈ cs, (s.core c).poolBusy = false ∧ (s.core c).teams = []) :
    (cs.foldl (poolStep n) (s, true)).2 = true ∧
      (∀ c ∈ cs, Sized n (s.core c) ((cs.foldl (poolStep n) (s, true)).1.core c)) ∧
      ∀ c ∉ cs, (cs.foldl (poolStep n) (s, true)).1.core c = s.core c := by
  induction cs generalizing s with
  | nil => exact ⟨rfl, by simp, fun _ _ => rfl⟩
  | cons c t ih =>
    obtain ⟨hc, ht⟩ := List.nodup_cons.1 hcs
    have hsized := sized_resized (s.core c) n
    rw [List.foldl_cons, poolStep_free n (h c (by simp)).1 (h c (by simp)).2]
    generalize resized (s.core c) (min n 64) = k at hsized ⊢
    have hother (d : Nat) (hd : d ≠ c) : (s.setCore c k).core d = s.core d := by
      rw [core_setCore, if_neg (Ne.symm hd)]
    have hmem (d : Nat) (hd : d ∈ t) : d ≠ c := fun e => hc (e ▸ hd)
    obtain ⟨hok, hin, hout⟩ := ih (s := s.setCore c k) ht fun d hd => by
      rw [hother d (hmem d hd)]
      exact h d (by simp [hd])
    refine ⟨hok, fun d hd => ?_, fun d hd => ?_⟩
    · rcases List.mem_cons.1 hd with rfl | hd
      · rw [hout d hc, core_setCore, if_pos rfl]
        exact hsized
      · rw [← hother d (hmem d hd)]
        exact hin d hd
    · rw [List.mem_cons, not_or] at hd
      rw [hout d hd.2, hother d hd.1]

theorem present_nodup (s : State) : s.present.Nodup := List.Nodup.filter _ List.nodup_range

theorem field_hostDone (s : State) (r : Nat) : (s.hostDone r).field 0x30 63 63 = 0 ∧ (s.hostDone r).field 0x30 58 56 = r % 8 := by
  have hemit (t : State) (h l : Nat) : (t.emit (.msix 0 0)).field 0x30 h l = t.field 0x30 h l := rfl
  unfold hostDone
  rw [hemit, hemit, field_setField_disjoint _ _ (by omega) (by omega) (by omega), field_setField_same _ _ (by omega) (by omega),
    field_setField_same _ _ (by omega) (by omega)]
  exact ⟨rfl, rfl⟩

end State
end Sys2Proof.Machine
end

section
namespace Sys2Proof.Machine
/-! ### One page of a dirty log (R26, R27) -/

theorem AMap.filter_put {α : Type} {p : Nat × α → Bool} {i : Nat} {x : α} {m : AMap α} (hm : m.filter p = []) (hx : p (i, x) = true) :
    (m.put i x).filter p = [(i, x)] := by
  induction m with
  | nil => simp [AMap.put, hx]
  | cons a t ih =>
    obtain ⟨j, y⟩ := a
    obtain ⟨hj, ht⟩ : p (j, y) = false ∧ t.filter p = [] := by
      rw [List.filter_cons] at hm
      split at hm
      · exact absurd hm (by simp)
      · next h => exact ⟨by simpa using h, hm⟩
    unfold AMap.put
    split
    · simp [hx, hj, ht]
    · split
      · simp [hx, ht]
      · rw [List.filter_cons_of_neg (by simp [hj]), ih ht]

theorem AMap.mem_put {α : Type} (i : Nat) (x : α) (m : AMap α) : (i, x) ∈ m.put i x := by
  induction m with
  | nil => simp [AMap.put]
  | cons a t ih =>
    obtain ⟨j, y⟩ := a
    unfold AMap.put
    split
    · simp
    · split
      · simp
      · exact List.mem_cons_of_mem _ ih

theorem wordBits_page (p : Nat) : wordBits p (p + 1) = [(p / 64, 2 ^ (p % 64))] := by
  have hlo : max p (64 * (p / 64)) - 64 * (p / 64) = p % 64 := by omega
  have hhi : min (p + 1) (64 * (p / 64) + 64) - 64 * (p / 64) = p % 64 + 1 := by omega
  have hpow : 2 ^ (p % 64 + 1) - 2 ^ (p % 64) = 2 ^ (p % 64) := by
    rw [Nat.pow_succ]
    omega
  unfold wordBits
  rw [if_neg (by omega), show (p + 1 - 1) / 64 + 1 - p / 64 = 1 by omega]
  rw [List.range_one, List.map_singleton]
  dsimp only
  rw [Nat.add_zero, hlo, hhi, hpow]

namespace State

/-- The update that a log entry of one covered page asks for. -/
def pageJob (s : State) (c ctx p : Nat) : BitmapJob :=
  { core := c, ctx, addr := s.bitmapBase ctx + 8 * (p / 64), bits := BitVec.ofNat 64 (2 ^ (p % 64)), cmp := 0 }

theorem mergeEntry_page {s : State} {c : Nat} {q : DWord} (hv : qf q 63 63 = 1) (hsize : qf q 54 53 = 0)
    (hen : s.field (ctxOff (qf q 52 45) 5) 63 63 = 1) (hlink : s.hostLink (s.dieOf c) ∉ s.noAtomics)
    (hlo : (s.cover (qf q 52 45)).1 ≤ qf q 44 0) (hhi : qf q 44 0 < (s.cover (qf q 52 45)).1 + (s.cover (qf q 52 45)).2) :
    s.mergeEntry c (s, []) q = (s, [s.pageJob c (qf q 52 45) (qf q 44 0 - (s.cover (qf q 52 45)).1)]) := by
  have hen' : qf (s.ctxQ (qf q 52 45) 5) 63 63 = 1 := hen
  have hcon : s.noAtomics.contains (s.hostLink (s.dieOf c)) = false := by simpa using hlink
  unfold mergeEntry
  dsimp only
  rw [if_neg (by rw [hv, hen']; decide), if_neg (by rw [hcon]; decide), hsize]
  generalize s.cover (qf q 52 45) = r at hlo hhi ⊢
  obtain ⟨first, count⟩ := r
  generalize qf q 44 0 = page at hlo hhi ⊢
  dsimp only at hlo hhi ⊢
  have hpages : logPages 0 = 1 := rfl
  rw [hpages, if_pos ⟨hlo, by omega⟩, show max page first - first = page - first by omega,
    show min (page + 1) (first + count) - first = page - first + 1 by omega, wordBits_page]
  rfl

theorem sendCas_first {s : State} {d i : Nat} {j : BitmapJob} {rest : List (Nat × BitmapJob)} (h : s.dieJobs d = (i, j) :: rest) :
    s.sendCas d = s.emit (.bitmapCas d (s.pasid j.ctx) j.addr j.cmp (j.cmp ||| j.bits)) := by
  unfold sendCas
  rw [h]

theorem endMerge_pending {s : State} {c i : Nat} {j : BitmapJob} (h : (i, j) ∈ s.bitmaps) (hj : j.core = c) : s.endMerge c = s := by
  unfold endMerge
  exact if_pos (.inr (List.any_eq_true.2 ⟨(i, j), h, by simp [hj]⟩))

/-- A merge of one update, where the die has none under way: its request leaves. -/
theorem queueJobs_single {s : State} {d : Nat} {j : BitmapJob} (h : s.dieJobs d = []) (hd : s.dieOf j.core = d) :
    s.queueJobs d [j] = ({ s with bitmaps := s.bitmaps.put s.nextBitmap j, nextBitmap := s.nextBitmap + 1 } : State).emit
      (.bitmapCas d (s.pasid j.ctx) j.addr j.cmp (j.cmp ||| j.bits)) := by
  have hjobs : ({ s with bitmaps := s.bitmaps.put s.nextBitmap j, nextBitmap := s.nextBitmap + 1 } : State).dieJobs d =
      [(s.nextBitmap, j)] := AMap.filter_put h (decide_eq_true hd)
  unfold queueJobs
  dsimp only
  rw [if_pos (by simp [h]), List.foldl_cons, List.foldl_nil, sendCas_first hjobs]
  rfl

theorem logSlot_oldest {k : Core} (h : k.dlogFill = 1) : logSlot k 0 = (k.dlogNext + 1023) % 1024 := by
  unfold logSlot
  rw [h]
  rfl

/-- The state of a merge of one update, before its request leaves. -/
def merging (s : State) (c : Nat) : State := s.modCore c fun k => { k with dlogTaken := k.dlogFill, dlogMerging := true }

/-- The merge of a log of one entry of one covered page asks for that page's bit. -/
theorem mergeLog_page {s : State} {c p : Nat} {q : DWord} (hfill : (s.core c).dlogFill = 1) (htaken : (s.core c).dlogTaken = 0)
    (hq : q = (s.core c).store64 (0x5e8000 + 8 * (((s.core c).dlogNext + 1023) % 1024))) {ctx : Nat}
    (hmerge : s.mergeEntry c (s, []) q = (s, [s.pageJob c ctx p])) (hidle : s.dieJobs (s.dieOf c) = []) :
    s.mergeLog c = ({ s.merging c with
      bitmaps := s.bitmaps.put s.nextBitmap (s.pageJob c ctx p), nextBitmap := s.nextBitmap + 1 } : State).emit
        (.bitmapCas (s.dieOf c) (s.pasid ctx) (s.bitmapBase ctx + 8 * (p / 64)) 0 (BitVec.ofNat 64 (2 ^ (p % 64)))) := by
  have hqueue := queueJobs_single (s := s.merging c) (d := s.dieOf c) (j := s.pageJob c ctx p) hidle rfl
  have hqs : (List.range ((s.core c).dlogFill - (s.core c).dlogTaken)).map (fun n =>
      (s.core c).store64 (0x5e8000 + 8 * logSlot (s.core c) ((s.core c).dlogTaken + n))) = [q] := by
    rw [hfill, htaken, Nat.sub_zero, List.range_one, List.map_singleton, Nat.add_zero, logSlot_oldest hfill, ← hq]
  have hor : (s.pageJob c ctx p).cmp ||| (s.pageJob c ctx p).bits = BitVec.ofNat 64 (2 ^ (p % 64)) := BitVec.zero_or
  unfold mergeLog
  dsimp only
  rw [if_neg (by omega), hqs, List.foldl_cons, List.foldl_nil, hmerge]
  dsimp only
  rw [← merging, hqueue, hor]
  exact endMerge_pending (i := s.nextBitmap) (j := s.pageJob c ctx p) (AMap.mem_put _ _ _) rfl

end State

end Sys2Proof.Machine
end

section
namespace Sys2Proof.Machine

theorem loWord_pair (a b : Word) : loWord (BitVec.ofNat 64 (a.toNat + b.toNat * 2 ^ 32)) = a := by
  have ha := a.isLt
  refine BitVec.eq_of_toNat_eq ?_
  rw [loWord, BitVec.extractLsb'_toNat, BitVec.toNat_ofNat]
  omega

theorem hiWord_pair (a b : Word) : hiWord (BitVec.ofNat 64 (a.toNat + b.toNat * 2 ^ 32)) = b := by
  have ha := a.isLt
  have hb := b.isLt
  refine BitVec.eq_of_toNat_eq ?_
  rw [hiWord, BitVec.extractLsb'_toNat, BitVec.toNat_ofNat]
  omega

namespace State

/-! ### A write of the cover (R27) -/

/-- A field of quadword 5 that a write takes. -/
theorem field_writeCover {s : State} {i : Nat} (hi : i < 256) (v : DWord) {h l : Nat} (hlh : h < 62)
    (hm : ∀ j < h + 1 - l, (0xff001fffffffffff : DWord).getLsbD (l + j) = true) :
    (s.writeCover i v).field (ctxOff i 5) h l = qf v h l := by
  unfold writeCover
  rw [if_neg (by omega), field_setCtl_same]
  have htaken : qf (qset (v &&& 0xff001fffffffffff) 62 62 (min (qf (s.ctxQ i 5) 62 62) (qf v 62 62))) h l = qf v h l := by
    rw [qf_qset_disjoint (by omega) (by omega) (by omega), qf_and hm]
  split
  · rw [qf_qset_disjoint (by omega) (by omega) (by omega), htaken]
  · exact htaken

theorem enable_writeCover {s : State} {i : Nat} (hi : i < 256) (v : DWord) : (s.writeCover i v).field (ctxOff i 5) 63 63 =
    if v.getLsbD 63 = true ∧ qf v 5 0 = 0 ∧ s.noAtomics = [] then 1 else 0 := by
  have hen : qf v 63 63 = if v.getLsbD 63 then 1 else 0 := qf_bit v 63
  have hok : s.coverOk v = true ↔ qf v 5 0 = 0 ∧ s.noAtomics = [] := by
    unfold coverOk
    simp
  unfold writeCover
  rw [if_neg (by omega), field_setCtl_same]
  split
  · next h =>
    rw [qf_qset_same (by omega) (by omega), if_neg fun hv => by simp [hok.2 hv.2] at h]
    rfl
  · next h =>
    rw [qf_qset_disjoint (by omega) (by omega) (by omega), qf_and (by decide), hen]
    by_cases h63 : v.getLsbD 63 = true
    · have hcov : s.coverOk v = true := by simpa [hen, h63] using h
      rw [if_pos h63, if_pos ⟨h63, hok.1 hcov⟩]
    · rw [if_neg h63, if_neg fun hv => h63 hv.1]

theorem outside_writeCover {s : State} {i : Nat} (hi : i < 256) (v : DWord) : (s.writeCover i v).field (ctxOff i 5) 62 62 =
    if v.getLsbD 62 = true then s.field (ctxOff i 5) 62 62 else 0 := by
  have hold : qf (s.ctxQ i 5) 62 62 < 2 ^ (62 + 1 - 62) := qf_lt _ _ _
  have hq : qf (qset (v &&& 0xff001fffffffffff) 62 62 (min (qf (s.ctxQ i 5) 62 62) (qf v 62 62))) 62 62 =
      if v.getLsbD 62 = true then s.field (ctxOff i 5) 62 62 else 0 := by
    rw [qf_qset_same (by omega) (by omega), qf_bit v]
    split
    · rw [Nat.min_eq_left (by omega), Nat.mod_eq_of_lt hold]
      rfl
    · rw [Nat.min_zero, Nat.zero_mod]
  unfold writeCover
  rw [if_neg (by omega), field_setCtl_same]
  split
  · rw [qf_qset_disjoint (by omega) (by omega) (by omega), hq]
  · exact hq

/-! ### Mailboxes (R397) -/

/-- What a mailbox holds after a message for the host has filled it. -/
def mailFilled (s : State) (m l : Nat) (msg : List Word) : State :=
  (((s.setCtl (mailOff m 0) (BitVec.ofNat 64 ((msg.getD 0 0).toNat + (msg.getD 1 0).toNat * 2 ^ 32))).setCtl (mailOff m 1)
    (BitVec.ofNat 64 ((msg.getD 2 0).toNat + (msg.getD 3 0).toNat * 2 ^ 32))).setField (mailOff m 2) 31 31 1).setField (mailOff m 2) 9 0 l

theorem ctlQ_congr {s t : State} (hctl : t.ctl = s.ctl) (hp : t.product = s.product) : t.ctlQ = s.ctlQ := by
  funext off
  rw [ctlQ, hctl, hp]
  rfl

theorem mailWords_filled (s : State) (m l : Nat) (msg : List Word) :
    (s.mailFilled m l msg).mailWords m 0 = (List.range 4).map fun i => msg.getD i 0 := by
  have h0 : (s.mailFilled m l msg).ctlQ (mailOff m 0) = BitVec.ofNat 64 ((msg.getD 0 0).toNat + (msg.getD 1 0).toNat * 2 ^ 32) := by
    unfold mailFilled mailOff
    rw [ctlQ_setField, if_neg (by omega), ctlQ_setField, if_neg (by omega), ctlQ_setCtl, if_neg (by omega), ctlQ_setCtl, if_pos rfl]
  have h1 : (s.mailFilled m l msg).ctlQ (mailOff m 1) = BitVec.ofNat 64 ((msg.getD 2 0).toNat + (msg.getD 3 0).toNat * 2 ^ 32) := by
    unfold mailFilled mailOff
    rw [ctlQ_setField, if_neg (by omega), ctlQ_setField, if_neg (by omega), ctlQ_setCtl, if_pos rfl]
  have hw : (s.mailFilled m l msg).mailWords m 0 = [loWord ((s.mailFilled m l msg).ctlQ (mailOff m 0)),
    hiWord ((s.mailFilled m l msg).ctlQ (mailOff m 0)), loWord ((s.mailFilled m l msg).ctlQ (mailOff m 1)),
    hiWord ((s.mailFilled m l msg).ctlQ (mailOff m 1))] := rfl
  rw [hw, h0, h1, loWord_pair, hiWord_pair, loWord_pair, hiWord_pair]
  rfl

theorem ctlQ_ctlDone (s : State) (c : Nat) : (s.ctlDone c).ctlQ = s.ctlQ := ctlQ_congr rfl rfl

theorem outbox_ctlDone (s : State) (c : Nat) : (s.ctlDone c).outbox = s.outbox := rfl

theorem ctlQ_emit (s : State) (o : Out) : (s.emit o).ctlQ = s.ctlQ := ctlQ_congr rfl rfl

theorem outbox_emit (s : State) (o : Out) : (s.emit o).outbox = s.outbox ++ [o] := rfl

theorem mailIn_empty {s : State} {m : Nat} (hm : m < 256) (l : Nat) (msg : List Word) (h : s.field (mailOff m 2) 31 31 = 0) :
    (s.mailIn m l msg).ctlQ = (s.mailFilled m l msg).ctlQ ∧
      (s.mailIn m l msg).outbox = s.outbox ++ [.msix (if m < 64 then m else 0) (if m < 255 then m + 1 else 0)] := by
  have hvec : (if m < 255 then Out.msix (mailOwner m) (m + 1) else Out.msix (mailOwner m) 0) =
      .msix (if m < 64 then m else 0) (if m < 255 then m + 1 else 0) := by
    unfold mailOwner
    split <;> rfl
  unfold mailIn
  rw [if_neg (by omega), if_neg (by omega), hvec]
  dsimp only
  have hout : (s.mailFilled m l msg).outbox = s.outbox := rfl
  rw [← mailFilled]
  generalize s.mailFilled m l msg = t at hout
  split
  · next c _ =>
    rw [ctlQ_ctlDone, outbox_ctlDone, ctlQ_emit, outbox_emit, hout]
    exact ⟨rfl, rfl⟩
  · rw [ctlQ_emit, outbox_emit, hout]
    exact ⟨rfl, rfl⟩

theorem mailIn_full {s : State} {m : Nat} (hm : m < 256) (l : Nat) (msg : List Word) (h : s.field (mailOff m 2) 31 31 = 1) :
    s.mailIn m l msg = s.post (.mailboxArrival m l msg) := by
  unfold mailIn
  rw [if_neg (by omega), if_pos h]

theorem mailHello_mailFilled (s : State) (m l : Nat) (msg : List Word) : (s.mailFilled m l msg).mailHello = s.mailHello := rfl

theorem mailHello_ctlDone (s : State) (c : Nat) : (s.ctlDone c).mailHello = s.mailHello := rfl

theorem mailHello_emit (s : State) (o : Out) : (s.emit o).mailHello = s.mailHello := rfl

theorem mailHello_mailIn (s : State) (m l : Nat) (msg : List Word) : (s.mailIn m l msg).mailHello = s.mailHello := by
  unfold mailIn
  split
  · rfl
  · split
    · rfl
    · dsimp only
      rw [← mailFilled, ← mailHello_mailFilled s m l msg]
      generalize s.mailFilled m l msg = t
      split
      · next c _ => exact (mailHello_ctlDone _ c).trans (mailHello_emit _ _)
      · exact mailHello_emit _ _

theorem setSend_lt {s : State} {m : Nat} (h : m < 256) : s.setSend m = (s.setField (mailOff m 6) 31 31 1).sendMail m :=
  if_neg (by omega)

theorem sendMail_supervisor {s : State} {m c : Nat} (hm : m ≠ 0 ∨ s.mailHello ≠ none)
    (hdie : bits (s.field (mailOff m 6) 31 0) 30 30 = 0) (hc : s.physical (bits (s.field (mailOff m 6) 31 0) 9 0) = some c)
    (hsup : (s.core c).groups.look supGid ≠ none) : s.sendMail m = s.ctlTo s.hostCore c 0x80000000 (s.mailWords m 32) 5 := by
  unfold sendMail
  dsimp only
  rw [if_neg (by rcases hm with h | h <;> simp [h]), if_neg (by omega), hc]
  dsimp only
  rw [if_neg (by simpa using hsup)]

/-! ### Free words -/

theorem length_freeWords (s : State) (n : Nat) : (s.freeWords n).length = n := by
  rw [freeWords, List.length_map, List.length_range]

theorem freeBytes_eq (s : State) (n : Nat) :
    ∃ bs : List Byte, bs.length = n ∧ s.freeBytes n = (s.spendFree ((n + 3) / 4), bs) := by
  have hlen : ((s.freeWords ((n + 3) / 4)).flatMap fun w => leBytes 4 w.toNat).length = 4 * ((n + 3) / 4) := by
    rw [List.length_flatMap, List.map_congr_left (g := fun _ => 4) fun w _ => length_leBytes 4 _, List.map_const', List.sum_replicate,
      length_freeWords, smul_eq_mul, Nat.mul_comm]
  refine ⟨_, ?_, rfl⟩
  rw [List.length_take, hlen]
  omega

end State
end Sys2Proof.Machine
end

section
/-! O52: the steps that the host asks for. -/

namespace Sys2Proof.Machine
namespace State

theorem dirtyLogMerge_spec (s : State) (c : Nat) :
    let k := s.core c
    (k.dlogFill ≤ k.dlogTaken → exec (.dirtyLogMerge c) s = .next s) ∧
    (∀ (q : DWord), k.dlogFill = 1 → k.dlogTaken = 0 → q = k.store64 (0x5e8000 + 8 * ((k.dlogNext + 1023) % 1024)) →
      let ctx := qf q 52 45
      let first := (s.cover ctx).1
      let page := qf q 44 0
      qf q 63 63 = 1 → qf q 54 53 = 0 → s.field (State.ctxOff ctx 5) 63 63 = 1 → s.hostLink (s.dieOf c) ∉ s.noAtomics → first ≤ page →
      page < first + (s.cover ctx).2 → s.dieJobs (s.dieOf c) = [] →
      ∃ t : State, exec (.dirtyLogMerge c) s = .next t ∧ (t.core c).store = k.store ∧ (t.core c).dlogMerging = true ∧
        t.outbox = s.outbox ++ [.bitmapCas (s.dieOf c) (s.pasid ctx) (s.bitmapBase ctx + 8 * ((page - first) / 64)) 0
          (BitVec.ofNat 64 (2 ^ ((page - first) % 64)))]) := by
  intro k
  constructor
  · intro h
    exact congrArg Host.Outcome.next (if_pos h)
  · intro q hfill htaken hq ctx first page hv hsize hen hlink hlo hhi hidle
    have hcore : (s.merging c).core c = { k with dlogTaken := k.dlogFill, dlogMerging := true } := core_modCore_same _ _ _
    have hstore : ((s.merging c).core c).store = k.store := by rw [hcore]
    have hmerging : ((s.merging c).core c).dlogMerging = true := by rw [hcore]
    exact ⟨_, congrArg Host.Outcome.next (mergeLog_page hfill htaken hq (mergeEntry_page hv hsize hen hlink hlo hhi) hidle),
      hstore, hmerging, rfl⟩

theorem bitmapCasCompletion_spec {s : State} {d i : Nat} {j : BitmapJob} {rest : List (Nat × BitmapJob)} (h : s.dieJobs d = (i, j) :: rest) :
    exec (.bitmapCasCompletion d .error) s = .next ((s.setOutside j.ctx).nextJob d) ∧
    ∀ bs, let v : DWord := BitVec.ofNat 64 (leNat (bs.take 8))
      exec (.bitmapCasCompletion d (.ok bs)) s = .next (if v = j.cmp then s.nextJob d
        else ({ s with bitmaps := s.bitmaps.put i { j with cmp := v } } : State).sendCas d) := by
  constructor
  · show execBitmapCasCompletion d .error s = _
    unfold execBitmapCasCompletion failJob
    rw [h]
  · intro bs v
    show execBitmapCasCompletion d (.ok bs) s = _
    unfold execBitmapCasCompletion
    rw [h]

theorem harvest_spec (s : State) (ctx : Nat) (b : Bool) :
    (s.field 0x30 63 63 = 1 → exec (.harvest ctx b) s = .next s) ∧
    (s.field 0x30 63 63 = 0 → ∃ t : State, exec (.harvest ctx b) s = .next t ∧ t.harvest = some (ctx % 256, b) ∧
      Instr.harvestComplete ∈ t.agenda) := by
  have hexec : exec (.harvest ctx b) s = .next (s.startHarvest ctx b) := rfl
  rw [hexec]
  unfold startHarvest
  constructor
  · intro h
    rw [if_pos h]
  · intro h
    rw [if_neg (by omega)]
    refine ⟨_, rfl, rfl, ?_⟩
    exact List.mem_append_right _ (List.mem_singleton_self _)

theorem harvestComplete_spec {s : State} {ctx : Nat} {b : Bool} (h : s.harvest = some (ctx, b)) :
    exec .harvestComplete s = .next (if s.bitmaps = [] then
      ({ (if b = true then s.rearm ctx else s) with harvest := none } : State).hostDone 0 else s.post .harvestComplete) := by
  show execHarvestComplete s = _
  unfold execHarvestComplete
  rw [h]
  cases s.bitmaps <;> rfl

/-- The pool size reaches every present core when none holds a slot or has a team. -/
theorem setPoolSize_spec {s : State} (n : Nat) (hidle : s.field 0x30 63 63 = 0)
    (h : ∀ c ∈ s.present, (s.core c).poolBusy = false ∧ (s.core c).teams = []) :
    ∃ t : State, exec (.setPoolSize n) s = .next t ∧ t.field 0x30 58 56 = 0 ∧ t.field 0x30 63 63 = 0 ∧
      ∀ c ∈ s.present, Sized (n % 128) (s.core c) (t.core c) := by
  have hpools := foldl_poolStep_free (s := (s.setField 0x30 62 60 4).setField 0x30 7 0 (n % 128)) (n % 128) (present_nodup s) h
  have hexec : exec (.setPoolSize n) s = .next (s.setPoolAll n) := rfl
  have hall : s.setPoolAll n = ((s.present.foldl (poolStep (n % 128)) ((s.setField 0x30 62 60 4).setField 0x30 7 0 (n % 128), true)).1.hostDone
      (bit !(s.present.foldl (poolStep (n % 128)) ((s.setField 0x30 62 60 4).setField 0x30 7 0 (n % 128), true)).2)) :=
    if_neg (by omega)
  rw [hexec, hall]
  generalize s.present.foldl (poolStep (n % 128)) ((s.setField 0x30 62 60 4).setField 0x30 7 0 (n % 128), true) = r at hpools ⊢
  obtain ⟨hok, hin, -⟩ := hpools
  rw [hok]
  obtain ⟨hbusy, hresult⟩ := field_hostDone r.1 0
  exact ⟨_, rfl, hresult, hbusy, hin⟩

theorem mailboxSend_spec (s : State) {m : Nat} (hm : m < 256) :
    let u := s.setField (State.mailOff m 6) 31 31 1
    exec (.mailboxSend m) s = .next (u.sendMail m) ∧
    ∀ c, (m ≠ 0 ∨ s.mailHello ≠ none) → bits (u.field (State.mailOff m 6) 31 0) 30 30 = 0 →
      s.physical (bits (u.field (State.mailOff m 6) 31 0) 9 0) = some c → (s.core c).groups.look supGid ≠ none →
      exec (.mailboxSend m) s = .next (u.ctlTo u.hostCore c 0x80000000 (u.mailWords m 32) 5) := by
  intro u
  have hexec : exec (.mailboxSend m) s = .next (s.setSend m) := rfl
  rw [hexec, setSend_lt hm]
  exact ⟨rfl, fun c hhello hdie hc hsup => congrArg Host.Outcome.next (sendMail_supervisor (s := u) hhello hdie hc hsup)⟩

theorem mailboxArrival_spec (s : State) {m : Nat} (hm : m < 256) (l : Nat) (msg : List Word) :
    (s.field (State.mailOff m 2) 31 31 = 1 → exec (.mailboxArrival m l msg) s = .next (s.post (.mailboxArrival m l msg))) ∧
    (s.field (State.mailOff m 2) 31 31 = 0 → ∃ t : State, exec (.mailboxArrival m l msg) s = .next t ∧
      t.mailWords m 0 = (List.range 4).map (fun i => msg.getD i 0) ∧ t.field (State.mailOff m 2) 31 31 = 1 ∧
      t.field (State.mailOff m 2) 9 0 = l % 1024 ∧
      t.outbox = s.outbox ++ [.msix (if m < 64 then m else 0) (if m < 255 then m + 1 else 0)]) := by
  have hexec : exec (.mailboxArrival m l msg) s = .next (s.mailIn m l msg) := rfl
  rw [hexec]
  refine ⟨fun h => by rw [mailIn_full hm l msg h], fun h => ?_⟩
  obtain ⟨hctl, hout⟩ := mailIn_empty hm l msg h
  have hfull : (s.mailFilled m l msg).field (mailOff m 2) 31 31 = 1 := by
    rw [mailFilled, field_setField_disjoint _ _ (by omega) (by omega) (by omega), field_setField_same _ _ (by omega) (by omega)]
    rfl
  have hsource : (s.mailFilled m l msg).field (mailOff m 2) 9 0 = l % 1024 := field_setField_same _ _ (by omega) (by omega) _
  refine ⟨_, rfl, ?_, ?_, ?_, hout⟩
  · rw [← mailWords_filled s m l msg, mailWords, hctl]
    rfl
  · rw [field, hctl]
    exact hfull
  · rw [field, hctl]
    exact hsource

theorem hello_spec (s : State) (major minor : Nat) :
    (major = 0 → exec (.hello major minor) s = .next s) ∧
      (major ≠ 0 → ∃ t : State, exec (.hello major minor) s = .next t ∧ t.mailHello = some (1, 0)) := by
  have hexec : exec (.hello major minor) s = execHello major minor s := rfl
  rw [hexec]
  unfold execHello
  refine ⟨fun h => if_pos h, fun h => ⟨_, if_neg h, ?_⟩⟩
  rw [mailHello_mailIn]

theorem attestation_spec (s : State) (nonce : List Word) :
    (s.mailHello = none → exec (.attestation nonce) s = .next s) ∧
    (s.mailHello ≠ none → s.attest < 2 ^ 20 → ∃ (t : State) (digest : List Word) (signature : List Byte),
      exec (.attestation nonce) s = .next t ∧ t.attest = s.attest + 1 ∧ digest.length = 8 ∧ signature.length = 2820 ∧
      t.outbox = s.outbox ++ [.attest nonce digest s.attest (s.field 0 31 16) s.fused signature]) := by
  have hexec : exec (.attestation nonce) s = execAttestation nonce s := rfl
  rw [hexec]
  unfold execAttestation
  refine ⟨fun h => if_pos (by simp [h]), fun h hlt => ?_⟩
  rw [if_neg (by simpa using h), if_neg (by omega)]
  obtain ⟨signature, hlen, hfree⟩ := freeBytes_eq (s.spendFree 8) 2820
  rw [hfree]
  exact ⟨_, s.freeWords 8, signature, rfl, rfl, length_freeWords s 8, hlen, rfl⟩

end State

/-- Settles O52. -/
theorem hostSteps : Obligations.HostSteps := by
  unfold Obligations.HostSteps
  refine ⟨State.dirtyLogMerge_spec, fun s d i j rest h => State.bitmapCasCompletion_spec h, fun s d h => State.hostCompletionTimeout_idle h,
    fun s i v hi => ⟨_, rfl, ?_, State.enable_writeCover hi v, State.outside_writeCover hi v,
      State.field_writeCover hi v (by omega) (by decide), State.field_writeCover hi v (by omega) (by decide)⟩,
    State.harvest_spec, fun s ctx b h => State.harvestComplete_spec h, fun s n hidle h => State.setPoolSize_spec n hidle h,
    fun s m hm => State.mailboxSend_spec s hm, fun s m l msg hm => State.mailboxArrival_spec s hm l msg, State.hello_spec,
    State.attestation_spec⟩
  unfold State.writeCover
  rw [if_neg (by omega)]
  rfl

end Sys2Proof.Machine
end

section
/-! What serves a request for memory: home slices, miss entries, capacity buffers and memory ports. -/

namespace Sys2Proof.Machine
namespace State

theorem slice_oneOf (s : State) (l : List Nat) (d sl : Nat) : (s.oneOf l).1.slice d sl = s.slice d sl := by
  unfold oneOf
  split <;> rfl

/-- The line of its home memory that a request names. -/
def lineOf (s : State) (q : Req) : Bool × Nat × Nat := ((s.homeOf q.ap q.off).cap, (s.homeOf q.ap q.off).buf, (s.homeOf q.ap q.off).line)

theorem sameLine_eq (s : State) (r : Req) : (fun q : Req =>
    (s.homeOf q.ap q.off).cap == (s.homeOf r.ap r.off).cap && (s.homeOf q.ap q.off).buf == (s.homeOf r.ap r.off).buf &&
      (s.homeOf q.ap q.off).line == (s.homeOf r.ap r.off).line) = fun q => s.lineOf q == s.lineOf r := by
  funext q
  rw [Bool.eq_iff_iff]
  simp [lineOf, and_assoc]

/-- A capacity write waits at the buffer of its line. -/
theorem capWait_sameLine (s : State) (w : Option Req) (r : Req) :
    w.any (fun q => s.lineOf q == s.lineOf r) = true ↔ ∃ q, w = some q ∧ s.lineOf q = s.lineOf r := by
  cases w <;> simp

/-- What a slice does with the request that arrives. -/
def arrive (s : State) (d sl i : Nat) (r : Req) : Host.Outcome State Fault Refusal :=
  let x := s.slice d sl
  let rest := x.queue.eraseIdx i
  if 128 ≤ x.missUse ∨ ∃ w, x.capWait = some w ∧ s.lineOf w = s.lineOf r then .next (s.post (.sliceRequest d sl))
  else
    match x.misses.find? fun m => m.2.any fun q => s.lineOf q == s.lineOf r with
    | some (j, l) => .next (s.setSlice d sl { x with queue := rest, misses := x.misses.put j (l ++ [r]) })
    | none =>
      if s.needsFill r then
        .next ((s.setSlice d sl { x with queue := rest, misses := x.misses.put x.nextMiss [r], nextMiss := x.nextMiss + 1 }).post
          (.sliceFill d sl x.nextMiss))
      else
        match r.ap, r.kind, x.capWait with
        | .cap, .write _, none =>
          .next ((s.setSlice d sl { x with queue := rest, capWait := some r }).post (.capacityWriteAccept d sl))
        | .cap, .write _, some _ => .next (s.post (.sliceRequest d sl))
        | .cap, .rmw, _ =>
          if s.capDown (r.off / 2 ^ 39) then .next (s.post (.sliceRequest d sl))
          else .next ((s.setSlice d sl { x with queue := rest }).serve r)
        | _, _, _ => .next ((s.setSlice d sl { x with queue := rest }).serve r)

theorem exec_sliceRequest {s u : State} {d sl i : Nat} {r : Req} (hu : s.oneOf (s.slice d sl).arriving = (u, i))
    (hr : (s.slice d sl).queue[i]? = some r) : exec (.sliceRequest d sl) s = u.arrive d sl i r := by
  have hslice : u.slice d sl = s.slice d sl := by
    have h := slice_oneOf s (s.slice d sl).arriving d sl
    rwa [hu] at h
  have hexec : exec (.sliceRequest d sl) s = execSliceRequest d sl s := rfl
  rw [hexec]
  unfold execSliceRequest arrive
  rw [hu]
  dsimp only
  rw [hslice, hr]
  dsimp only
  rw [sameLine_eq]
  simp only [capWait_sameLine] <;> rfl

theorem sliceRequest_spec {s u : State} {d sl i : Nat} {r : Req} (hu : s.oneOf (s.slice d sl).arriving = (u, i))
    (hr : (s.slice d sl).queue[i]? = some r) :
    let x := s.slice d sl
    let rest := x.queue.eraseIdx i
    let line := fun (q : Req) => let h := u.homeOf q.ap q.off; (h.cap, h.buf, h.line)
    let shut := 128 ≤ x.missUse ∨ ∃ w, x.capWait = some w ∧ line w = line r
    let behind := x.misses.find? fun m => m.2.any fun q => line q == line r
    (shut → exec (.sliceRequest d sl) s = .next (u.post (.sliceRequest d sl))) ∧
    (∀ j l, ¬ shut → behind = some (j, l) → exec (.sliceRequest d sl) s =
      .next (u.setSlice d sl { x with queue := rest, misses := x.misses.put j (l ++ [r]) })) ∧
    (¬ shut → behind = none →
      (u.needsFill r = true → exec (.sliceRequest d sl) s = .next ((u.setSlice d sl
        { x with queue := rest, misses := x.misses.put x.nextMiss [r], nextMiss := x.nextMiss + 1 }).post
          (.sliceFill d sl x.nextMiss))) ∧
      (u.needsFill r = false → r.ap ≠ .cap ∨ (∃ n, r.kind = .read n) ∨ (r.kind = .rmw ∧ u.capDown (r.off / 2 ^ 39) = false) →
        exec (.sliceRequest d sl) s = .next ((u.setSlice d sl { x with queue := rest }).serve r)) ∧
      (u.needsFill r = false → r.ap = .cap → r.kind = .rmw → u.capDown (r.off / 2 ^ 39) = true →
        exec (.sliceRequest d sl) s = .next (u.post (.sliceRequest d sl))) ∧
      (∀ bs, r.kind = .write bs → r.ap = .cap → exec (.sliceRequest d sl) s = .next (if x.capWait = none then
        (u.setSlice d sl { x with queue := rest, capWait := some r }).post (.capacityWriteAccept d sl)
          else u.post (.sliceRequest d sl)))) := by
  intro x rest line shut behind
  have hslice : u.slice d sl = x := by
    have h := slice_oneOf s (s.slice d sl).arriving d sl
    rwa [hu] at h
  rw [exec_sliceRequest hu hr]
  unfold arrive
  dsimp only
  rw [hslice]
  refine ⟨fun h => if_pos h, fun j l h hb => ?_, fun h hb => ?_⟩
  · have hb' : x.misses.find? (fun m => m.2.any fun q => u.lineOf q == u.lineOf r) = some (j, l) := hb
    have hopen : ¬ (128 ≤ x.missUse ∨ ∃ w, x.capWait = some w ∧ u.lineOf w = u.lineOf r) := h
    rw [if_neg hopen, hb']
  have hopen : ¬ (128 ≤ x.missUse ∨ ∃ w, x.capWait = some w ∧ u.lineOf w = u.lineOf r) := h
  have hb' : x.misses.find? (fun m => m.2.any fun q => u.lineOf q == u.lineOf r) = none := hb
  rw [if_neg hopen, hb']
  dsimp only
  refine ⟨fun hf => if_pos hf, fun hf hk => ?_, fun hf hap hk hdown => ?_, fun bs hk hap => ?_⟩
  · rw [if_neg (by simp [hf])]
    split
    · next hap hw _ => simp [hap, hw] at hk
    · next hap hw _ => simp [hap, hw] at hk
    · next hap hrmw =>
      have hdown : u.capDown (r.off / 2 ^ 39) = false := by simpa [hap, hrmw] using hk
      exact if_neg (hdown ▸ Bool.false_ne_true)
    · rfl
  · rw [if_neg (by simp [hf]), hap, hk]
    exact if_pos hdown
  · have hf : u.needsFill r = false := by
      unfold needsFill
      rw [hk]
    rw [if_neg (by simp [hf]), hap, hk]
    cases x.capWait <;> rfl

theorem toBuffer_iff (r : Req) : r.toBuffer = true ↔ r.ap = .cap ∧ ∃ bs, r.kind = .write bs := by
  unfold Req.toBuffer
  split
  · next hap hw => simp [hap, hw]
  · next h => exact ⟨fun hf => by simp at hf, fun ⟨hap, bs, hw⟩ => absurd hw (h bs hap)⟩

theorem sliceFill_spec {s : State} {d sl i : Nat} {r : Req} {rest : List Req} (hr : (s.slice d sl).misses.look i = some (r :: rest)) :
    let x := s.slice d sl
    let h := s.homeOf r.ap r.off
    let write := r.ap = .cap ∧ ∃ bs, r.kind = .write bs
    let shut := (∃ q, x.capWait = some q ∧ (let g := s.homeOf q.ap q.off; (g.cap, g.buf, g.line)) = (h.cap, h.buf, h.line)) ∨
      (write ∧ x.capWait ≠ none) ∨ (¬ write ∧ r.ap = .cap ∧ s.capDown (r.off / 2 ^ 39) = true)
    let left := if rest = [] then x.misses.drop i else x.misses.put i rest
    let again := fun (u : State) => if rest = [] then u else u.post (.sliceFill d sl i)
    (shut → exec (.sliceFill d sl i) s = .next (s.post (.sliceFill d sl i))) ∧
    (¬ shut → write → exec (.sliceFill d sl i) s =
      .next (again ((s.setSlice d sl { x with misses := left, capWait := some r }).post (.capacityWriteAccept d sl)))) ∧
    (¬ shut → ¬ write →
      let u := s.setSlice d sl { x with misses := left }
      exec (.sliceFill d sl i) s = .next (again ((if u.needsFill r then u.fillSector h else u).serve r))) := by
  intro x h write shut left again
  have hempty : rest.isEmpty = true ↔ rest = [] := List.isEmpty_iff
  have hshut : (x.capWait.any (fun q => s.lineOf q == s.lineOf r) ||
      (if r.toBuffer then x.capWait.isSome else r.ap == .cap && s.capDown (r.off / 2 ^ 39))) = true ↔ shut := by
    rw [Bool.or_eq_true, capWait_sameLine]
    refine or_congr Iff.rfl ?_
    by_cases hw : write
    · rw [if_pos ((toBuffer_iff r).2 hw)]
      simp [hw, Option.ne_none_iff_isSome]
    · rw [if_neg (mt (toBuffer_iff r).1 hw)]
      simp [hw]
  have hexec : exec (.sliceFill d sl i) s = execSliceFill d sl i s := rfl
  rw [hexec]
  unfold execSliceFill
  dsimp only
  rw [hr]
  dsimp only
  rw [sameLine_eq]
  refine ⟨fun hs => if_pos (hshut.2 hs), fun hs hw => ?_, fun hs hw => ?_⟩
  · have hbuf := (toBuffer_iff r).2 hw
    rw [if_neg (mt hshut.1 hs), if_pos hbuf, if_pos hbuf]
    simp only [hempty]
    rfl
  · have hbuf := mt (toBuffer_iff r).1 hw
    rw [if_neg (mt hshut.1 hs), if_neg hbuf, if_neg hbuf]
    simp only [hempty]
    rfl

/-- A write loses its buffer: a byte of it lies in an uncorrectable word (R112). -/
def losesWord (s : State) (r : Req) : Prop := ∃ bs, r.kind = .write bs ∧ ∃ b ∈ bs, s.wordBad (s.homeOf .cap b.va) = true

theorem losesWord_iff (s : State) (r : Req) : (match r.kind with
    | .write bs => bs.any fun b => s.wordBad (s.homeOf .cap b.va)
    | .read _ | .rmw => false) = true ↔ s.losesWord r := by
  unfold losesWord
  cases r.kind <;> simp

theorem meetBuffer_accepted {s : State} {r : Req} (ho : s.offline (r.off / 2 ^ 39) = false) (hl : ¬ s.losesWord r) :
    s.meetBuffer r = s.serve r := by
  refine if_neg fun h => ?_
  rw [Bool.or_eq_true, ho] at h
  exact h.elim Bool.false_ne_true fun h => hl ((losesWord_iff s r).1 h)

theorem meetBuffer_lost {s : State} {r : Req} {c key page : Nat} (h : s.offline (r.off / 2 ^ 39) = true ∨ s.losesWord r)
    (hc : r.client = .store c key page) : s.meetBuffer r = (s.storeFault c key page 4 3 0 0).retireEntry c key := by
  unfold meetBuffer
  dsimp only
  rw [if_pos ?_, hc]
  rw [Bool.or_eq_true]
  exact h.imp id (losesWord_iff s r).2

theorem capacityWriteAccept_spec {s : State} {d sl : Nat} {r : Req} (hr : (s.slice d sl).capWait = some r) :
    let u := s.setSlice d sl { s.slice d sl with capWait := none }
    let lost := ∃ bs, r.kind = .write bs ∧ ∃ b ∈ bs, s.wordBad (s.homeOf .cap b.va) = true
    (s.capDown (r.off / 2 ^ 39) = true → exec (.capacityWriteAccept d sl) s = .next (s.post (.capacityWriteAccept d sl))) ∧
    (s.capDown (r.off / 2 ^ 39) = false → s.offline (r.off / 2 ^ 39) = false → ¬ lost →
      exec (.capacityWriteAccept d sl) s = .next (u.serve r)) ∧
    (∀ c key page, s.capDown (r.off / 2 ^ 39) = false → s.offline (r.off / 2 ^ 39) = true ∨ lost → r.client = .store c key page →
      exec (.capacityWriteAccept d sl) s = .next ((u.storeFault c key page 4 3 0 0).retireEntry c key)) := by
  intro u lost
  have hexec : exec (.capacityWriteAccept d sl) s =
      if s.capDown (r.off / 2 ^ 39) then .next (s.post (.capacityWriteAccept d sl)) else .next (u.meetBuffer r) := by
    show execCapacityWriteAccept d sl s = _
    unfold execCapacityWriteAccept
    dsimp only
    rw [hr]
  rw [hexec]
  refine ⟨fun hd => if_pos hd, fun hd ho hl => ?_, fun c key page hd hl hc => ?_⟩
  · rw [if_neg (hd ▸ Bool.false_ne_true)]
    exact congrArg Host.Outcome.next (meetBuffer_accepted (s := u) ho hl)
  · rw [if_neg (hd ▸ Bool.false_ne_true)]
    exact congrArg Host.Outcome.next (meetBuffer_lost (s := u) hl hc)

theorem coreStoreAperture_spec {s : State} {c : Nat} {r : Req} {rest : List Req} (hr : (s.core c).portQ = r :: rest) :
    let k := s.core c
    let u := s.setCore c { k with portQ := rest }
    let a := r.off % 0x800000
    (∀ n, r.kind = .read n → exec (.coreStoreApertureAccess c) s =
      .next (u.answer r (k.readStore a n) ((List.range n).map fun i => k.storeBad (a + i) 1))) ∧
    (∀ bs, r.kind = .write bs →
      let v := u.modCore c fun k => bs.foldl (fun (k : Core) b => k.writeForeign (b.va % 0x800000) [b.val]) k
      exec (.coreStoreApertureAccess c) s = .next (match r.client with
        | .store cc key _ => v.acceptStore cc key .store bs
        | _ => v)) := by
  intro k u a
  have hexec : exec (.coreStoreApertureAccess c) s = execCoreStoreApertureAccess c s := rfl
  rw [hexec]
  unfold execCoreStoreApertureAccess
  dsimp only
  rw [hr]
  dsimp only
  constructor
  · intro n hn
    rw [hn]
  · intro bs hb
    generalize r.kind = kind at hb ⊢
    subst hb
    generalize r.client = client
    cases client <;> rfl

end State
end Sys2Proof.Machine
end

section
/-! Remote sub-byte stores, reclaimed granules, notified barriers and the patrol scrub. -/

namespace Sys2Proof.Machine

/-! ### Bits of the core store (R52, R53) -/

theorem testBit_leNat (bs : List Byte) (i : Nat) : (leNat bs).testBit i = (bs.getD (i / 8) 0).getLsbD (i % 8) := by
  induction bs generalizing i with
  | nil => simp [leNat]
  | cons b t ih =>
    have hb : b.toNat < 2 ^ 8 := b.isLt
    rw [leNat, Nat.add_comm, show (256 : Nat) = 2 ^ 8 from rfl, Nat.testBit_two_pow_mul_add _ hb]
    by_cases hi : i < 8
    · rw [if_pos hi, Nat.div_eq_of_lt hi, Nat.mod_eq_of_lt hi]
      rfl
    · obtain ⟨j, rfl⟩ := Nat.exists_eq_add_of_le' (Nat.le_of_not_lt hi)
      rw [if_neg hi, ih, Nat.add_sub_cancel, Nat.add_div_right j (by omega), Nat.add_mod_right]
      rfl

/-- A bit of the bytes of a number. -/
theorem getLsbD_leBytes {n v j i : Nat} (hj : j < n) (hi : i < 8) (d : Byte) :
    ((leBytes n v).getD j d).getLsbD i = v.testBit (8 * j + i) := by
  rw [List.getD, getElem?_leBytes hj, Option.getD_some, BitVec.getLsbD_ofNat, Nat.testBit_div_two_pow, Nat.add_comm i]
  simp [hi]

/-- Bit b of a memory. -/
def Mem.bit (m : Memory) (b : Nat) : Bool := (Mem.get (n := 8) m (b / 8)).getLsbD (b % 8)

theorem Core.testBit_readStore (k : Core) {a n i : Nat} (hi : i < 8 * n) :
    (leNat (k.readStore a n)).testBit i = Mem.bit k.store (8 * a + i) := by
  have hn : i / 8 < n := by omega
  rw [testBit_leNat, readStore, Mem.read, List.getD, List.getElem?_map, List.getElem?_range hn, Mem.bit,
    show (8 * a + i) / 8 = a + i / 8 by omega, show (8 * a + i) % 8 = i % 8 by omega]
  rfl

/-- The bytes that a write of n bits from bit address a replaces. -/
def Core.bitBytes (k : Core) (a n v : Nat) : List Byte :=
  leBytes ((a % 8 + n + 7) / 8) (setBits (leNat (k.readStore (a / 8) ((a % 8 + n + 7) / 8))) (a % 8 + n - 1) (a % 8) v)

theorem Core.writeBitsForeign_eq (k : Core) (a n v : Nat) : k.writeBitsForeign a n v = k.writeForeign (a / 8) (k.bitBytes a n v) := by
  unfold writeBitsForeign writeForeign writeBits bitBytes
  rw [length_leBytes]

/-- A write of n bits replaces exactly these bits. -/
theorem Core.bit_writeBits {k : Core} (hk : Mem.wf (n := 8) k.store = true) {a n : Nat} (hn : 0 < n) (v b : Nat) :
    Mem.bit (Mem.write (n := 8) k.store (a / 8) (k.bitBytes a n v)) b =
      if a ≤ b ∧ b < a + n then v.testBit (b - a) else Mem.bit k.store b := by
  have hlen : (k.bitBytes a n v).length = (a % 8 + n + 7) / 8 := length_leBytes _ _
  by_cases h : a / 8 ≤ b / 8 ∧ b / 8 < a / 8 + (a % 8 + n + 7) / 8
  · have hj : b / 8 - a / 8 < (a % 8 + n + 7) / 8 := by omega
    have hi : 8 * (b / 8 - a / 8) + b % 8 < 8 * ((a % 8 + n + 7) / 8) := by omega
    rw [Mem.bit, Mem.get_write hk, if_pos h.1, bitBytes, getLsbD_leBytes hj (by omega), testBit_setBits (by omega), testBit_readStore _ hi,
      show 8 * (a / 8) + (8 * (b / 8 - a / 8) + b % 8) = b by omega]
    by_cases hb : a ≤ b ∧ b < a + n
    · rw [if_pos hb, if_pos (by omega), show 8 * (b / 8 - a / 8) + b % 8 - a % 8 = b - a by omega]
    · rw [if_neg hb, if_neg (by omega)]
  · rw [Mem.bit, Mem.get_write_other hk (by rw [hlen]; omega), if_neg (by omega)]
    rfl

end Sys2Proof.Machine

namespace Sys2Proof.Claims

open Machine

theorem remoteSubbyteStore_spec (s : State) (c a n : Nat) (v : DWord) (h0 : 0 < n) (h64 : n ≤ 64) (ha : (a + n + 7) / 8 ≤ 0x600000)
    (hs : s.memWf = true) :
    ∃ k', StoreBy supGid (s.core c) k' ∧ exec (.remoteSubbyteStore c a n v) s = .next (s.setCore c k') ∧
      ∀ b, Mem.bit k'.store b = if a ≤ b ∧ b < a + n then v.getLsbD (b - a) else Mem.bit (s.core c).store b := by
  have hk : Mem.wf (n := 8) (s.core c).store = true := Core.store_wf (State.core_memWf hs c)
  have hexec : exec (.remoteSubbyteStore c a n v) s = .next (s.setCore c ((s.core c).writeBitsForeign a n (v.toNat % 2 ^ n))) :=
    congrArg Host.Outcome.next (if_pos ⟨h0, h64, ha⟩)
  refine ⟨_, storeBy_writeForeign (s.core c) (a / 8) ((s.core c).bitBytes a n (v.toNat % 2 ^ n)), ?_, fun b => ?_⟩
  · rw [hexec, Core.writeBitsForeign_eq]
  · have hstore : ((s.core c).writeForeign (a / 8) ((s.core c).bitBytes a n (v.toNat % 2 ^ n))).store =
        Mem.write (n := 8) (s.core c).store (a / 8) ((s.core c).bitBytes a n (v.toNat % 2 ^ n)) := Core.store_disown _ _ _
    rw [hstore, Core.bit_writeBits hk h0]
    by_cases hb : a ≤ b ∧ b < a + n
    · have hbit : b - a < n := by omega
      rw [if_pos hb, if_pos hb, Nat.testBit_mod_two_pow, decide_eq_true hbit, Bool.true_and]
      rfl
    · rw [if_neg hb, if_neg hb]

/-! ### Reclaimed granules (R45) -/

theorem mem_lent_reclaim (k : Core) (g : Nat) : g ∈ (k.reclaim g).reclaiming ∧ g ∉ (k.reclaim g).lent := by
  have hmem : g ∈ (k.reclaim g).reclaiming := by
    show g ∈ if k.reclaiming.contains g then k.reclaiming else k.reclaiming ++ [g]
    split
    · next h => exact List.contains_iff_mem.1 h
    · exact List.mem_append_right _ (List.mem_singleton_self g)
  refine ⟨hmem, fun h => ?_⟩
  have hnot := (List.mem_filter.1 h).2
  rw [List.contains_iff_mem.2 hmem] at hnot
  simp at hnot

theorem granuleReclaim_spec (s : State) (c g : Nat) :
    let k := s.core c
    let after := fun (k : Core) => if k.reclaimWaits then s.setCore c k else (s.setCore c k).postOnce (.placementOpportunity (s.dieOf c))
    (g ∉ k.lent → exec (.granuleReclaim c g) s = .next (after k)) ∧
    (g ∈ k.lent → ∃ k', exec (.granuleReclaim c g) s = .next (after k') ∧ g ∈ k'.reclaiming ∧ g ∉ k'.lent ∧ k'.l1ptr = [] ∧
      (∀ y, y ∈ k'.l1 ↔ y ∈ k.l1 ∧ y.way ≠ g) ∧
      k'.l1fills = k.l1fills.map (fun p => (p.1, if p.2.way = g then { p.2 with install := false } else p.2)) ∧
      { k' with l1 := k.l1, l1fills := k.l1fills, l1ptr := k.l1ptr, reclaiming := k.reclaiming } = k) := by
  intro k after
  have hexec (k' : Core) (hk' : (if k.lent.contains g then k.reclaim g else k) = k') :
      exec (.granuleReclaim c g) s = .next (after k') := by
    subst hk'
    show execGranuleReclaim c g s = _
    unfold execGranuleReclaim State.modCore
    dsimp only
    rw [State.core_setCore, if_pos rfl]
    rfl
  refine ⟨fun h => hexec k (if_neg (by simpa using h)), fun h => ⟨k.reclaim g, hexec _ (if_pos (by simpa using h)),
    (mem_lent_reclaim k g).1, (mem_lent_reclaim k g).2, rfl, fun y => ?_, rfl, rfl⟩⟩
  simp [Core.reclaim, List.mem_filter]

/-! ### Block barriers and the patrol scrub (R107, R176) -/

theorem wakeIf_clear {g : Machine.Group} {p : Wait → Bool} {w : Wait} (hw : p w = true) : ∀ th ∈ (g.wakeIf p).threads, th.wait ≠ some w := by
  intro th hth heq
  obtain ⟨t, -, rfl⟩ := List.mem_map.1 hth
  split at heq
  · simp at heq
  · next h => exact h (by rw [heq]; simpa using hw)

theorem barrierNotify_spec (s : State) (c ctx va : Nat) :
    ∃ t : State, exec (.barrierNotify c ctx va) s = .next t ∧
    (∀ w, w ∈ t.blockWaits ↔ w ∈ s.blockWaits ∧ ¬ (w.2.2.1 = c ∧ w.2.2.2.1 = ctx ∧ w.2.2.2.2 = va)) ∧
    (∀ p ∈ (t.core c).groups, p.2.ctx = ctx → ∀ th ∈ p.2.threads, th.wait ≠ some (.blockBarrier va)) ∧
    (t.core c).rf = (s.core c).rf ∧ (t.core c).store = (s.core c).store := by
  refine ⟨_, rfl, fun w => ?_, ?_⟩
  · exact List.mem_filter.trans (and_congr Iff.rfl (decide_eq_true_iff))
  · rw [State.core_modCore, if_pos rfl]
    refine ⟨fun p hp hctx => ?_, rfl, rfl⟩
    obtain ⟨q, -, rfl⟩ := List.mem_map.1 hp
    dsimp only at hctx ⊢
    split
    · exact wakeIf_clear (by simp)
    · next h =>
      rw [if_neg h] at hctx
      exact absurd hctx h

theorem arrayError_storage (s : State) (c kind at' : Nat) :
    (s.arrayError c kind at').hbm = s.hbm ∧ (s.arrayError c kind at').cap = s.cap ∧
      ∀ c', ((s.arrayError c kind at').core c').storage = (s.core c').storage := by
  unfold State.arrayError
  dsimp only
  split
  · exact ⟨rfl, rfl, fun _ => rfl⟩
  · have hmod (c' : Nat) := State.storage_modCore s c c' (fun k => { k with storePoison := addPoison k.storePoison (at' % 0xc0000 * 8) 8 }) fun _ => rfl
    split <;> exact ⟨rfl, rfl, hmod⟩
  · exact ⟨rfl, rfl, fun _ => rfl⟩
  · exact ⟨rfl, rfl, fun _ => rfl⟩
  · split <;> exact ⟨rfl, rfl, fun _ => rfl⟩
  · exact ⟨rfl, rfl, fun _ => rfl⟩

theorem patrolScrub_spec (s : State) (c : Nat) :
    ∃ t : State, exec (.patrolScrub c) s = .next t ∧ t.hbm = s.hbm ∧ t.cap = s.cap ∧
    ∀ c', (t.core c').rf = (s.core c').rf ∧ (t.core c').store = (s.core c').store ∧ (t.core c').istore = (s.core c').istore := by
  obtain ⟨hhbm, hcap, hstorage⟩ := arrayError_storage { s with free := s.free + 3 } c ((Config.freeWord (s.free + 0)).toNat % 8)
    ((Config.freeWord (s.free + 1)).toNat * 2 ^ 32 + (Config.freeWord (s.free + 2)).toNat)
  refine ⟨_, rfl, hhbm, hcap, fun c' => ?_⟩
  have h := hstorage c'
  simp only [Core.storage, Prod.mk.injEq] at h
  obtain ⟨hrf, -, hstore, histore, -⟩ := h
  exact ⟨hrf, hstore, histore⟩

end Sys2Proof.Claims
end

section
/-! The drain of a store-buffer entry (R296). -/

namespace Sys2Proof.Machine
namespace State

theorem dedup_all_eq {α : Type} [DecidableEq α] {a : α} {l : List α} (hne : l ≠ []) (h : ∀ x ∈ l, x = a) : l.dedup = [a] := by
  rw [List.eq_replicate_length.2 h, List.replicate_dedup (by simpa using hne)]

/-- The pages of an entry none of whose bytes has left, when they lie on one page. -/
theorem pages_single {e : SbEntry} {page : Nat} (hne : e.bytes ≠ []) (h : ∀ b ∈ e.bytes, b.va / 4096 * 4096 = page ∧ b.sent = false) :
    sortBy (fun a b => decide (a < b)) ((e.bytes.filter fun b => !b.sent).map fun b => b.va / 4096 * 4096).dedup = [page] := by
  have hall : e.bytes.filter (fun b => !b.sent) = e.bytes := List.filter_eq_self.2 fun b hb => by simp [(h b hb).2]
  rw [hall, dedup_all_eq (a := page) (by simpa using hne)]
  · rfl
  · intro p hp
    obtain ⟨b, hb, rfl⟩ := List.mem_map.1 hp
    exact (h b hb).1

theorem storeBufferDrain_spec {s : State} {c i : Nat} (pipe : Nat) {e : SbEntry} (he : (s.core c).sbuf.look i = some e) :
    let eng := if 512 ≤ e.gid then 1 else 0
    let held := e.ticket.isSome = true ∨ (s.core c).behindTicket e.uid i e.victims = true ∨ (∃ p ∈ (s.core c).sbuf, p.1 < i ∧ p.2.uid = e.uid ∧ ∃ b ∈ p.2.bytes, ∃ y ∈ e.bytes, y.va = b.va) ∨
      ∃ b ∈ e.bytes, (s.core c).behindOps e.uid e.opMark b.va 1 = true
    (held → exec (.storeBufferDrain c pipe i) s = .next s) ∧
    (∀ page u, ¬ held → e.faults = [] → e.ctx ≠ 255 → e.bytes ≠ [] → (∀ b ∈ e.bytes, b.va / 4096 * 4096 = page ∧ b.sent = false) →
      page < 2 ^ 57 →
      (∀ ap off, ap ≠ .window → s.xlate c eng e.ctx page true false (.ev (.storeBufferDrain c pipe i)) = .ok ap off u →
        exec (.storeBufferDrain c pipe i) s = .next (u.sendPiece c i page ap off)) ∧
      (∀ off, s.xlate c eng e.ctx page true false (.ev (.storeBufferDrain c pipe i)) = .ok .window off u →
        let early := ∃ p ∈ (u.core c).sbuf, p.1 < e.instr ∧ p.2.uid = e.uid ∧ (p.2.ticket.isSome = true ∨ ∃ b ∈ p.2.bytes, b.sent = false)
        (early → exec (.storeBufferDrain c pipe i) s = .next u) ∧
        (¬ early → u.windowOf e.ctx off = none →
          exec (.storeBufferDrain c pipe i) s = .next (u.windowFault c e.uid e.instr page)))) := by
  intro eng held
  have hheld : (e.ticket.isSome = true ∨ (s.core c).behindTicket e.uid i e.victims = true ∨ (s.core c).sbuf.any (fun (j, x) =>
      decide (j < i) && x.uid == e.uid && x.bytes.any fun b => e.bytes.any fun y => y.va == b.va) = true ∨
      e.bytes.any (fun b => (s.core c).behindOps e.uid e.opMark b.va 1) = true) ↔ held := by
    simp only [held, List.any_eq_true, Bool.and_eq_true, decide_eq_true_iff, beq_iff_eq, and_assoc]
  have hexec : exec (.storeBufferDrain c pipe i) s = execStoreBufferDrain c pipe i s := rfl
  rw [hexec]
  unfold execStoreBufferDrain
  rw [he]
  dsimp only
  refine ⟨fun h => if_pos (hheld.2 h), fun page u h hfaults hctx hne hpage hform => ?_⟩
  have hnofault : ¬ ((s.core c).sbuf.look i).any (fun e => e.faults.any fun f => f.1 = page) = true := by simp [he, hfaults]
  rw [if_neg (mt hheld.1 h), pages_single hne hpage, List.foldl_cons, List.foldl_nil, if_neg hnofault, decide_eq_true hform]
  rw [if_neg (by simp), if_neg hctx]
  refine ⟨fun ap off hap hx => ?_, fun off hx => ?_⟩
  · rw [hx]
    cases ap with
    | window => exact absurd rfl hap
    | hbm | cap | store | control | outside => rfl
  · rw [hx]
    have hearly : (u.core c).sbuf.any (fun x => decide (x.1 < e.instr) && x.2.uid == e.uid && (x.2.ticket.isSome || x.2.bytes.any fun b => !b.sent)) =
        true ↔ ∃ p ∈ (u.core c).sbuf, p.1 < e.instr ∧ p.2.uid = e.uid ∧ (p.2.ticket.isSome = true ∨ ∃ b ∈ p.2.bytes, b.sent = false) := by
      simp only [List.any_eq_true, Bool.and_eq_true, decide_eq_true_iff, beq_iff_eq, and_assoc, Bool.or_eq_true, Bool.not_eq_true']
    dsimp only
    refine ⟨fun h => ?_, fun h hnone => ?_⟩
    · rw [if_pos (hearly.2 h)]
    · rw [if_neg (mt hearly.1 h), if_pos (by simp [hnone])]

end State
end Sys2Proof.Machine
end

section
/-! A fill that lands in the first-level cache (R43, R45, R46, R135), and the lanes that wait for it. -/

namespace Sys2Proof.Machine

/-- What a core stores, with the lines and fills of its first-level cache. -/
def Core.caches (k : Core) : (Mem 32 × Memory × Memory × Mem 32 × Mem 32) × List L1Line × AMap L1Fill := (k.storage, k.l1, k.l1fills)

namespace State

theorem caches_modCore (s : State) (c d : Nat) {f : Core → Core} (h : ∀ k, (f k).caches = k.caches) :
    ((s.modCore c f).core d).caches = (s.core d).caches := by
  rw [core_modCore]
  split
  · next hd => rw [← hd, h]
  · rfl

@[simp] theorem caches_postOnce (s : State) (i : Instr) (d : Nat) : ((s.postOnce i).core d).caches = (s.core d).caches := by
  unfold postOnce
  split <;> rfl

theorem caches_foldl {α : Type} {f : State → α → State} {d : Nat} (hf : ∀ s a, ((f s a).core d).caches = (s.core d).caches) (l : List α)
    (s : State) : ((l.foldl f s).core d).caches = (s.core d).caches := by
  induction l generalizing s with
  | nil => rfl
  | cons a t ih => rw [List.foldl_cons, ih, hf]

@[simp] theorem caches_pendTrap (s : State) (c gid uid ctx : Nat) (t : Trap) (payload : List Word) (team d : Nat) :
    ((s.pendTrap c gid uid ctx t payload team).core d).caches = (s.core d).caches := by
  have hrecord (r : List Word) : ((s.postRecord c r).core d).caches = (s.core d).caches := caches_modCore s c d fun k => by
    split <;> rfl
  unfold pendTrap
  dsimp only
  split
  · split
    · split
      · rfl
      · rw [caches_postOnce]
        exact caches_modCore s c d fun _ => rfl
    · split
      · rfl
      · exact hrecord _
  · split
    · rfl
    · exact hrecord _

@[simp] theorem caches_laneTaken (s : State) (c op lane d : Nat) : ((s.laneTaken c op lane).core d).caches = (s.core d).caches := by
  unfold laneTaken
  split
  · rfl
  · rw [caches_postOnce]
    refine caches_foldl (fun s a => ?_) _ _
    dsimp only
    split
    · exact caches_postOnce _ _ _
    · rfl

/-- A lane of a load takes its bytes, or fails: no storage and no line changes. -/
theorem caches_giveLane {s : State} {c op : Nat} {o : MemOp} (ho : (s.core c).memops.look op = some o) {n : Nat} {sx : Bool}
    (hk : o.kind = .load n sx) (lane : Nat) (data : List Byte) (bad : Bool) (d : Nat) :
    ((s.giveLane c op lane data bad).core d).caches = (s.core d).caches := by
  have hdrop (t : State) : t.dropTicket c o lane = t := by
    unfold dropTicket
    rw [hk]
  unfold giveLane
  split
  · rfl
  · split
    · unfold failLane
      rw [ho]
      dsimp only
      rw [hdrop, caches_laneTaken]
      split
      · exact caches_modCore s c d fun _ => rfl
      · rw [caches_pendTrap]
        exact caches_modCore s c d fun _ => rfl
    · rw [caches_laneTaken]
      exact caches_modCore s c d fun _ => rfl

/-- What a fill gives to a lane that waits for it. -/
def giveWaiter (c : Nat) (f : L1Fill) (s : State) (w : Nat × Nat) : State :=
  match (s.core c).memops.look w.1 with
  | none => s
  | some o =>
    match o.lane? w.2, o.kind with
    | some a, .load n _ =>
      s.giveLane c w.1 w.2 ((f.data.drop (a.off - f.off)).take n) (((f.poison.drop (a.off - f.off)).take n).any id)
    | _, _ => s

theorem caches_giveWaiter (c : Nat) (f : L1Fill) (s : State) (w : Nat × Nat) (d : Nat) :
    ((giveWaiter c f s w).core d).caches = (s.core d).caches := by
  unfold giveWaiter
  split
  · rfl
  · next o ho =>
    split
    · next hk => exact caches_giveLane ho hk _ _ _ d
    · rfl

end State

/-! ### The core after a fill -/

/-- A line of the cache is the fill's. -/
def L1Fill.mine (f : L1Fill) (l : L1Line) : Bool := l.way == f.way && l.ctx == f.ctx && l.line == f.line

/-- A fill may enter the cache: it is meant to, its bytes are sound, and no write or atomic to its sector is on its way. -/
def Core.admits (k : Core) (f : L1Fill) : Bool :=
  f.install && !f.poison.any id && (!k.sbuf.any fun (_, e) => e.sectors.contains (f.ap, f.off)) &&
    !k.atoms.any fun h => h.ap == f.ap && sectorBase h.ap h.off == f.off

/-- The core after fill i has landed. -/
def Core.landed (k : Core) (i : Nat) (f : L1Fill) : Core :=
  let ok := k.admits f
  let k := { k with l1fills := k.l1fills.drop i }
  match (k.l1.find? f.mine).filter fun _ => ok with
  | none => k
  | some l =>
    let k := k.writeForeign (lineBase l.way l.set + 48 * f.sector) f.data
    { k with l1 := k.l1.map fun l => if f.mine l then { l with valid := l.valid.set f.sector true } else l }

/-- A landed fill in its state: with the last fill to a granule being reclaimed, what waits for the granule goes on. -/
def State.fillLanded (s : State) (c : Nat) (busy : Bool) (k : Core) : State :=
  if busy ∧ ¬ k.reclaimWaits then
    let s := (s.setCore c k.reclaimed).postOnce (.placementOpportunity (s.dieOf c))
    if k.nextStage.isSome then s.postOnce (.clickerTake c) else s
  else s.setCore c k

theorem exec_l1Fill {s : State} {c i : Nat} {f : L1Fill} (h : (s.core c).l1fills.look i = some f) :
    exec (.l1Fill c i) s =
      .next (f.waiters.foldl (State.giveWaiter c f) (s.fillLanded c (s.core c).reclaimWaits ((s.core c).landed i f))) := by
  have hexec : exec (.l1Fill c i) s = execL1Fill c i s := rfl
  rw [hexec]
  unfold execL1Fill
  dsimp only
  rw [h]
  rfl

theorem Core.caches_reclaimed (k : Core) : k.reclaimed.storage = k.storage ∧ k.reclaimed.l1fills = k.l1fills ∧ ∀ y ∈ k.reclaimed.l1, y ∈ k.l1 := by
  have hrelend (k : Core) (before : List Nat) : (k.relend before).storage = k.storage ∧ (k.relend before).l1fills = k.l1fills ∧
      ∀ y ∈ (k.relend before).l1, y ∈ k.l1 := by
    unfold Core.relend
    extract_lets k'
    have hk : k'.storage = k.storage ∧ k'.l1fills = k.l1fills ∧ k'.l1 = k.l1 := by
      by_cases hw : k.reclaimWaits = true
      · have hk' : k' = k := if_pos hw
        rw [hk']
        exact ⟨rfl, rfl, rfl⟩
      · have hk' : k' = { k with reclaiming := [] } := if_neg hw
        rw [hk']
        exact ⟨rfl, rfl, rfl⟩
    obtain ⟨hstorage, hfills, hl1⟩ := hk
    split
    · exact ⟨hstorage, hfills, fun y hy => hl1 ▸ hy⟩
    · exact ⟨hstorage, hfills, fun y hy => hl1 ▸ (List.mem_filter.1 hy).1⟩
  unfold Core.reclaimed
  split
  · exact ⟨rfl, rfl, fun _ hy => hy⟩
  · split
    · exact ⟨rfl, rfl, fun _ hy => hy⟩
    · next n _ => exact hrelend { k with poolSlots := n, poolNext := none } _

theorem State.core_fillLanded (s : State) (c : Nat) (busy : Bool) (k : Core) :
    (((s.fillLanded c busy k).core c).storage = k.storage ∧ ((s.fillLanded c busy k).core c).l1fills = k.l1fills ∧
      ∀ y ∈ ((s.fillLanded c busy k).core c).l1, y ∈ k.l1) ∧ (busy = false → (s.fillLanded c busy k).core c = k) := by
  have hcore (k' : Core) : (s.setCore c k').core c = k' := by rw [State.core_setCore, if_pos rfl]
  have honce (t : State) (i : Instr) : (t.postOnce i).core c = t.core c := by
    unfold State.postOnce
    split <;> rfl
  unfold State.fillLanded
  split
  · next hb =>
    refine ⟨?_, fun h => by simp [h] at hb⟩
    dsimp only
    split
    · rw [honce, honce, hcore]
      exact k.caches_reclaimed
    · rw [honce, hcore]
      exact k.caches_reclaimed
  · rw [hcore]
    exact ⟨⟨rfl, rfl, fun _ hy => hy⟩, fun _ => rfl⟩

namespace Core

theorem landed_refused {k : Core} (i : Nat) {f : L1Fill} (h : k.admits f = false) : k.landed i f = { k with l1fills := k.l1fills.drop i } := by
  unfold landed
  dsimp only
  rw [h]
  cases k.l1.find? f.mine <;> rfl

theorem landed_absent {k : Core} (i : Nat) {f : L1Fill} (h : k.l1.find? f.mine = none) : k.landed i f = { k with l1fills := k.l1fills.drop i } := by
  unfold landed
  dsimp only
  rw [h]
  rfl

/-- The core after a fill has entered a line. -/
def entered (k : Core) (i : Nat) (f : L1Fill) (l : L1Line) : Core :=
  let k := ({ k with l1fills := k.l1fills.drop i } : Core).writeForeign (lineBase l.way l.set + 48 * f.sector) f.data
  { k with l1 := k.l1.map fun l => if f.mine l then { l with valid := l.valid.set f.sector true } else l }

theorem l1_entered (k : Core) (i : Nat) (f : L1Fill) (l : L1Line) :
    (k.entered i f l).l1 = k.l1.map fun l => if f.mine l then { l with valid := l.valid.set f.sector true } else l := by
  unfold entered writeForeign disown
  dsimp only
  split <;> rfl

theorem landed_present {k : Core} (i : Nat) {f : L1Fill} {l : L1Line} (h : k.admits f = true) (hl : k.l1.find? f.mine = some l) :
    k.landed i f = k.entered i f l := by
  unfold landed entered
  dsimp only
  rw [h, hl]
  rfl

/-- The fill leaves its place, and no register changes. -/
theorem landed_leaves (k : Core) (i : Nat) (f : L1Fill) : (k.landed i f).l1fills.look i = none ∧ (k.landed i f).rf = k.rf := by
  have hdrop : (AMap.drop i k.l1fills).look i = none := by rw [AMap.look_drop, if_pos rfl]
  cases hadmits : k.admits f with
  | false =>
    rw [landed_refused i hadmits]
    exact ⟨hdrop, rfl⟩
  | true =>
    cases hline : k.l1.find? f.mine with
    | none =>
      rw [landed_absent i hline]
      exact ⟨hdrop, rfl⟩
    | some l =>
      rw [landed_present i hadmits hline]
      unfold entered writeForeign disown
      split <;> exact ⟨hdrop, rfl⟩

theorem l1_landed_refused {k : Core} (i : Nat) {f : L1Fill} (h : k.admits f = false) : (k.landed i f).l1 = k.l1 := by
  rw [landed_refused i h]

/-- A fill that is admitted makes its sector valid in its line. -/
theorem valid_landed {k : Core} (i : Nat) {f : L1Fill} (h : k.admits f = true) {y : L1Line} (hy : y ∈ (k.landed i f).l1)
    (hmine : f.mine y = true) (hlt : f.sector < y.valid.length) : y.valid.getD f.sector false = true := by
  cases hline : k.l1.find? f.mine with
  | none =>
    rw [landed_absent i hline] at hy
    exact absurd hmine (List.find?_eq_none.1 hline y hy)
  | some l =>
    rw [landed_present i h hline, l1_entered] at hy
    obtain ⟨z, -, rfl⟩ := List.mem_map.1 hy
    by_cases hz : f.mine z = true
    · rw [if_pos hz] at hlt ⊢
      rw [List.length_set] at hlt
      rw [List.getD, List.getElem?_set_self hlt]
      rfl
    · rw [if_neg hz] at hmine
      exact absurd hmine hz

/-- A fill that is admitted puts its bytes into the place of its line (R42). -/
theorem store_landed {k : Core} (i : Nat) {f : L1Fill} (h : k.admits f = true) (hk : Mem.wf (n := 8) k.store = true) {l : L1Line}
    (hl : k.l1.find? f.mine = some l) {j : Nat} (hj : j < f.data.length) :
    Mem.get (n := 8) (k.landed i f).store (lineBase l.way l.set + 48 * f.sector + j) = f.data.getD j 0 := by
  have hstore : (k.landed i f).store = Mem.write (n := 8) k.store (lineBase l.way l.set + 48 * f.sector) f.data := by
    rw [landed_present i h hl]
    exact store_disown _ _ _
  rw [hstore, Mem.get_write hk, if_pos (by omega), Nat.add_sub_cancel_left, List.getD_eq_getElem _ _ hj, List.getD_eq_getElem _ _ hj]

theorem admits_iff (k : Core) (f : L1Fill) : k.admits f = true ↔
    f.install = true ∧ (∀ b ∈ f.poison, b = false) ∧ (∀ e ∈ k.sbuf, (f.ap, f.off) ∉ e.2.sectors) ∧
      ∀ h ∈ k.atoms, h.ap = f.ap → sectorBase h.ap h.off ≠ f.off := by
  simp [admits, and_assoc]

end Core

theorem l1Fill_spec {s : State} {c i : Nat} {f : L1Fill} (hf : (s.core c).l1fills.look i = some f) :
    let k := s.core c
    let enters := f.install = true ∧ (∀ b ∈ f.poison, b = false) ∧ (∀ e ∈ k.sbuf, (f.ap, f.off) ∉ e.2.sectors) ∧
      ∀ h ∈ k.atoms, h.ap = f.ap → sectorBase h.ap h.off ≠ f.off
    let mine := fun (y : L1Line) => y.way == f.way && y.ctx == f.ctx && y.line == f.line
    ∃ t : State, exec (.l1Fill c i) s = .next t ∧ (t.core c).l1fills.look i = none ∧ (t.core c).rf = k.rf ∧
      (¬ enters → (∀ y ∈ (t.core c).l1, y ∈ k.l1) ∧ (k.reclaimWaits = false → (t.core c).l1 = k.l1)) ∧
      (enters → (∀ y ∈ (t.core c).l1, mine y = true → f.sector < y.valid.length → y.valid.getD f.sector false = true) ∧
        (s.memWf = true → ∀ y, k.l1.find? mine = some y → ∀ j < f.data.length,
          Mem.get (n := 8) (t.core c).store (lineBase y.way y.set + 48 * f.sector + j) = f.data.getD j 0)) := by
  intro k enters mine
  have henters : k.admits f = true ↔ enters := k.admits_iff f
  have hwaiters := State.caches_foldl (d := c) (fun s w => State.caches_giveWaiter c f s w c) f.waiters
    (s.fillLanded c k.reclaimWaits (k.landed i f))
  simp only [Core.caches, Prod.mk.injEq] at hwaiters
  obtain ⟨hstorage, hl1, hfills⟩ := hwaiters
  obtain ⟨⟨hstorage', hfills', hl1'⟩, hkept⟩ := State.core_fillLanded s c k.reclaimWaits (k.landed i f)
  have hrf := congrArg Prod.fst (hstorage.trans hstorage')
  have hstore := congrArg (fun m => m.2.2.1) (hstorage.trans hstorage')
  obtain ⟨hgone, hregs⟩ := k.landed_leaves i f
  refine ⟨_, exec_l1Fill hf, ?_, hrf.trans hregs, fun h => ?_, fun h => ⟨fun y hy hmine hlt => ?_, fun hs y hy j hj => ?_⟩⟩
  · rw [hfills, hfills']
    exact hgone
  · have hrefused : k.admits f = false := Bool.eq_false_iff.2 (mt henters.1 h)
    rw [hl1]
    refine ⟨fun y hy => Core.l1_landed_refused i hrefused ▸ hl1' y hy, fun hw => ?_⟩
    rw [hkept hw, Core.l1_landed_refused i hrefused]
  · rw [hl1] at hy
    exact Core.valid_landed i (henters.2 h) (hl1' y hy) hmine hlt
  · exact (congrArg (fun m => Mem.get (n := 8) m _) hstore).trans
      (Core.store_landed i (henters.2 h) (Core.store_wf (State.core_memWf hs c)) hy hj)

end Sys2Proof.Machine
end

section
/-! O40: what serves requests for memory. -/

namespace Sys2Proof.Machine

/-- Settles O40. -/
theorem memorySteps : Obligations.MemorySteps := by
  unfold Obligations.MemorySteps
  exact ⟨fun s u d sl i r hu hr => State.sliceRequest_spec hu hr, fun s d sl i r rest hr => State.sliceFill_spec hr,
    fun s d sl r hr => State.capacityWriteAccept_spec hr, fun s c i f hf => l1Fill_spec hf,
    fun s c r rest hr => State.coreStoreAperture_spec hr, fun s c pipe i e he => State.storeBufferDrain_spec pipe he,
    Claims.remoteSubbyteStore_spec, Claims.granuleReclaim_spec, Claims.barrierNotify_spec, Claims.patrolScrub_spec⟩

end Sys2Proof.Machine
end

section
/-! O39 as it is written: two outstanding operations that stand under one number. -/

namespace Sys2Proof.Machine

/-- The place that a translation gives. -/
def Xl.place : Xl → Option (Ap × Nat)
  | .ok ap off _ => some (ap, off)
  | _ => none

/-- The state after a translation. -/
def Xl.state : Xl → State
  | .ok _ _ s | .fail _ s | .wait s => s

theorem Xl.eq_ok {r : Xl} {ap : Ap} {off : Nat} (h : r.place = some (ap, off)) : r = .ok ap off r.state := by
  cases r with
  | ok ap' off' s =>
    obtain ⟨rfl, rfl⟩ := Prod.mk.inj (Option.some.inj h)
    rfl
  | fail _ _ => exact nomatch h
  | wait _ => exact nomatch h

/-- Page 0 of context 1, through host link 1. -/
def pageOfLink1 : TEntry := { ctx := 1, page := 0, size := 4096, read := true, write := false, ap := .hbm, off := 0, dirty := true, link := 1 }

/-- A load of 4 bytes at address 0 by lane 0 of a group of a context. -/
def loadOf (ctx : Nat) : MemOp :=
  { uid := 0, gid := 0, ctx, pc := 0, word := 0, lit := 0, kind := .load 4 false, dst := 15, regs := 1, uniform := false,
    lanes := [{ lane := 0, va := 0 }] }

/-- Loads of contexts 1 and 2 stand under number 0 of core 0, whose engine cache holds the page for context 1. -/
def twoLoads : State := State.reset.modCore 0 fun k => { k with tcache := [(0, [pageOfLink1])], memops := [(0, loadOf 1), (0, loadOf 2)] }

/-- The host links of the accesses of core 0 after an event. -/
def linksAfter : Host.Outcome State Fault Refusal → List Nat
  | .next t => (t.core 0).memops.flatMap fun p => p.2.lanes.map (·.link)
  | _ => []

/-- The event notes the link of the access that it makes with every operation of the number. -/
theorem linksAfter_twoLoads : linksAfter (exec (.translationRequest 0 0 0) twoLoads) = [1, 1] := by decide +kernel

/-- Refutes O39: its clause of an access that goes on its way writes into each operation under the number the link of *that*
operation's context (the bound operation hides the one of the access), where the event writes the link of the access; the two differ in
`twoLoads`, where a second operation, of another context, stands under the same number. -/
theorem not_translatedAccesses : ¬ Obligations.TranslatedAccesses := by
  unfold Obligations.TranslatedAccesses
  intro ⟨_, _, h, _⟩
  have hplace : (twoLoads.xlate 0 0 1 0 false false (.ev (.translationRequest 0 0 0))).place = some (.hbm, 0) := by decide +kernel
  have hload := (h twoLoads 0 0 0 (loadOf 1) { lane := 0, va := 0 } (by decide +kernel) (by decide +kernel) (by decide)
    (by decide +kernel)).1 4 false rfl
  have hlinks := congrArg linksAfter (hload.2.2 .hbm 0 _ (Xl.eq_ok hplace))
  rw [linksAfter_twoLoads] at hlinks
  revert hlinks
  decide +kernel

end Sys2Proof.Machine
end

section
/-! The machine right after reset (R400). -/

namespace Sys2Proof.Claims

open Machine

/-- After reset a register of the control space reads as its table says (R394). -/
theorem ctlQ_reset (off : Nat) : State.reset.ctlQ off = State.ctlReset .module64 off := rfl

/-- A launch queue at reset is disabled (R394). -/
theorem ctlReset_lqOff_zero {q : Nat} (hq : q < 256) : State.ctlReset .module64 (State.lqOff q 0) = 0 := by
  unfold State.ctlReset State.lqOff
  have hlo : 0x100000 ≤ 0x100000 + 32 * q + 8 * 0 ∧ 0x100000 + 32 * q + 8 * 0 < 0x102000 := by omega
  have hmod : ¬ (0x100000 + 32 * q + 8 * 0) % 32 = 8 := by omega
  rw [if_neg (by omega), if_neg (by omega), if_neg (by omega), if_pos hlo, if_neg hmod]

/-- Its share is 0x100 (R394). -/
theorem ctlReset_lqOff_one {q : Nat} (hq : q < 256) : State.ctlReset .module64 (State.lqOff q 1) = BitVec.ofNat 64 (0x100 * 2 ^ 48) := by
  unfold State.ctlReset State.lqOff
  have hlo : 0x100000 ≤ 0x100000 + 32 * q + 8 * 1 ∧ 0x100000 + 32 * q + 8 * 1 < 0x102000 := by omega
  have hmod : (0x100000 + 32 * q + 8 * 1) % 32 = 8 := by omega
  rw [if_neg (by omega), if_neg (by omega), if_neg (by omega), if_pos hlo, if_pos hmod]

/-- Settles O58: every unit stands at the defaults of its structure and every register at its reset value. -/
theorem resetValues : Obligations.ResetValues := by
  unfold Obligations.ResetValues
  have hqueue (q : Nat) (hq : q < 256) : State.reset.field (State.lqOff q 0) 63 63 = 0 ∧
      State.reset.field (State.lqOff q 1) 63 48 = 0x100 := by
    unfold State.field
    rw [ctlQ_reset, ctlQ_reset, ctlReset_lqOff_zero hq, ctlReset_lqOff_one hq]
    decide
  exact ⟨by decide, by decide, rfl, rfl, fun _ => ⟨rfl, rfl, rfl, rfl, rfl⟩, fun _ => ⟨rfl, rfl, rfl⟩, hqueue, rfl, rfl⟩

end Sys2Proof.Claims
end

section
/-! The uniform integer and move instructions (R225 to R230, R236). -/

namespace Sys2Proof.Claims

open Machine

/-! ### The operations of the model against the tables of R227 to R229 -/

theorem mulhi_eq (a b : Word) : Alu.mulhi a b = Int32.mulhi a b := by
  unfold Alu.mulhi Int32.mulhi
  rw [Int.fdiv_eq_ediv_of_nonneg _ (by decide)]

theorem shl_eq (a b : Word) : Alu.shl a b = Int32.shl a b := by
  unfold Alu.shl Int32.shl
  apply BitVec.eq_of_toNat_eq
  split
  · rename_i h
    obtain ⟨n, hn⟩ := Nat.exists_eq_add_of_le h
    rw [hn, Nat.pow_add, Nat.mul_left_comm, BitVec.toNat_ofNat, Nat.mul_mod_right]
    rfl
  · rw [BitVec.toNat_shiftLeft, BitVec.toNat_ofNat, Nat.shiftLeft_eq]

theorem shr_eq (a b : Word) : Alu.shr a b = Int32.shr a b := by
  unfold Alu.shr Int32.shr
  apply BitVec.eq_of_toNat_eq
  have hlt : a.toNat / 2 ^ b.toNat < 2 ^ 32 := Nat.lt_of_le_of_lt (Nat.div_le_self _ _) a.isLt
  rw [BitVec.toNat_ofNat, Nat.mod_eq_of_lt hlt]
  split
  · rename_i h
    exact (Nat.div_eq_of_lt (Nat.lt_of_lt_of_le a.isLt (Nat.pow_le_pow_right (by decide) h))).symm
  · rw [BitVec.toNat_ushiftRight, Nat.shiftRight_eq_div_pow]

/-- An arithmetic shift by more than 31 leaves what one by 31 does: the sign. -/
theorem toInt_ediv_two_pow_of_le (a : Word) {n : Nat} (h : 31 ≤ n) : a.toInt / 2 ^ n = a.toInt / 2 ^ 31 := by
  have h1 := BitVec.toInt_lt (x := a)
  have h2 := BitVec.le_toInt (x := a)
  have hp : (2 : Int) ^ 31 ≤ 2 ^ n := pow_le_pow_right₀ (by decide) h
  rcases Int.lt_or_le a.toInt 0 with hneg | hpos
  · rw [Int.ediv_eq_neg_one_of_neg_of_le hneg (by omega), Int.ediv_eq_neg_one_of_neg_of_le hneg (by omega)]
  · rw [Int.ediv_eq_zero_of_lt hpos (by omega), Int.ediv_eq_zero_of_lt hpos (by omega)]

theorem sar_eq (a b : Word) : Alu.sar a b = Int32.sar a b := by
  unfold Alu.sar Int32.sar
  rw [BitVec.sshiftRight_eq, Int.shiftRight_eq_div_pow, Int.fdiv_eq_ediv_of_nonneg _ (by positivity), Nat.cast_pow]
  rcases Nat.le_total b.toNat 31 with h | h
  · rw [Nat.min_eq_left h]
    rfl
  · rw [Nat.min_eq_right h, toInt_ediv_two_pow_of_le a h]
    rfl

theorem min_eq (a b : Word) : Alu.min a b = Int32.min a b := by
  unfold Alu.min Int32.min
  grind

theorem max_eq (a b : Word) : Alu.max a b = Int32.max a b := by
  unfold Alu.max Int32.max
  grind

theorem minu_eq (a b : Word) : Alu.minu a b = Int32.minu a b := by
  unfold Alu.minu Int32.minu
  grind

theorem maxu_eq (a b : Word) : Alu.maxu a b = Int32.maxu a b := by
  unfold Alu.maxu Int32.maxu
  grind

theorem w32_bit_cc (c : Cc) (a b : Word) : w32 (bit (Alu.cc c a b)) = if holds c a b then 1 else 0 := by
  have h : Alu.cc c a b = holds c a b := by
    cases c <;> unfold Alu.cc holds
    case ne => simp [bne, beq_eq_decide]
    all_goals rfl
  rw [h]
  cases holds c a b <;> rfl

theorem bfx_eq (a b : Word) : Alu.bfx a b = Int32.field a b := by
  unfold Alu.bfx Int32.field Alu.field wf32 bits
  rw [Nat.shiftRight_eq_div_pow, Nat.pow_zero, Nat.div_one]
  rfl

theorem bfi_eq (d a b : Word) : Alu.bfi d a b = Int32.insert d a b := by
  unfold Alu.bfi Int32.insert Alu.field wf32 bits
  rw [Nat.pow_zero, Nat.div_one]
  rfl

theorem length_takeWhile_range {p : Nat → Bool} {k n : Nat} (h : k < n) (hp : ∀ j < k, p j = true) (hk : p k = false) :
    ((List.range n).takeWhile p).length = k := by
  obtain ⟨m, rfl⟩ := Nat.exists_eq_add_of_lt h
  rw [Nat.add_assoc, List.range_add, List.takeWhile_append_of_pos fun j hj => hp j (List.mem_range.1 hj), List.range_succ_eq_map,
    List.map_cons, List.takeWhile_cons_of_neg (by simp [hk]), List.append_nil, List.length_range]

theorem clz_eq (a : Word) : Alu.clz a = Int32.leading a := by
  unfold Alu.clz Int32.leading w32
  split
  · rename_i h
    rw [h]
    decide
  · rename_i h
    have h0 : a.toNat ≠ 0 := fun e => h (BitVec.eq_of_toNat_eq e)
    have hlog : a.toNat.log2 < 32 := (Nat.log2_lt h0).2 a.isLt
    rw [length_takeWhile_range (k := 31 - a.toNat.log2) (by omega)]
    · intro j hj
      have hbit : a.toNat.testBit (31 - j) = false :=
        Nat.testBit_lt_two_pow ((Nat.log2_lt h0).1 (by omega))
      rw [BitVec.getLsbD, hbit]
      rfl
    · rw [BitVec.getLsbD, Nat.sub_sub_self (by omega), Nat.testBit_log2 h0]
      rfl

theorem popc_eq (a : Word) : Alu.popc a = Int32.ones a := rfl

theorem movhi_eq (d : Word) (v : BitVec 16) : v ++ d.extractLsb' 0 16 = BitVec.ofNat 32 (v.toNat * 65536 + d.toNat % 65536) := by
  apply BitVec.eq_of_toNat_eq
  have hv := v.isLt
  have hlow : d.toNat >>> 0 % 2 ^ 16 < 2 ^ 16 := Nat.mod_lt _ (by decide)
  rw [BitVec.toNat_append, BitVec.extractLsb'_toNat, ← Nat.shiftLeft_add_eq_or_of_lt hlow, Nat.shiftLeft_eq, BitVec.toNat_ofNat,
    Nat.shiftRight_zero]
  omega

theorem zeroExtend_eq (v : BitVec 11) : v.zeroExtend 32 = Int32.unsigned v :=
  BitVec.eq_of_toNat_eq (by rw [BitVec.toNat_setWidth]; rfl)

theorem wf32_4_0 (w : Word) : wf32 w 4 0 = w.toNat % 32 := by
  unfold wf32 bits
  rw [Nat.pow_zero, Nat.div_one]
  rfl

theorem headD_lanesOf (m : Word) : (lanesOf m).headD 0 = ((List.range 32).find? fun l => m.getLsbD l).getD 0 := by
  unfold lanesOf
  rw [List.headD_eq_head?_getD, List.head?_filter]

/-! ### Performing them -/

variable {s : State} {x : Ctx} {i : Instr}

theorem run_of_done {body : Ctx → State → Res} {t : State} (hr : Runs i s x) (hb : body x s = .done t) :
    run i body s = .next (t.advance x) := by
  rw [run_of_runs hr, hb]
  rfl

theorem uniMap_eq (hr : Runs i s x) (d a : SReg) (b : USrc) (f : Word → Word → Word → Word) :
    uniMap i d a b f s = .next ((s.writeS x d.toNat (f (ureg s x d) (ureg s x a) (ulast s x b))).advance x) := by
  cases b <;> exact run_of_done hr rfl

theorem logicMap_eq (hr : Runs i s x) (d a : XReg) (b : XSrc) (f : Word → Word → Word) :
    logicMap i d a b f s = .next ((s.writeX x d (f (xval s x a) (xlast s x b))).advance x) := by
  cases a <;> cases b <;> exact run_of_done hr rfl

/-- An instruction of the tables writes its value to its one register. -/
theorem exec_of_uniform {d : SReg} {v : Word} (hr : Runs i s x) (hu : uniform s x i = some (d, v)) :
    exec i s = .next ((s.writeS x d.toNat v).advance x) := by
  unfold uniform at hu
  simp only [← mulhi_eq, ← shl_eq, ← shr_eq, ← sar_eq, ← min_eq, ← max_eq, ← minu_eq, ← maxu_eq, ← bfx_eq, ← bfi_eq,
    ← w32_bit_cc, ← clz_eq, ← popc_eq, ← movhi_eq, ← headD_lanesOf,
    ← zeroExtend_eq, ← wf32_4_0, ite_not] at hu
  split at hu
  all_goals try cases hu
  case h_1 a b => exact show execAddUniform d a b s = _ from uniMap_eq hr d a b _
  case h_2 a b => exact show execSubUniform d a b s = _ from uniMap_eq hr d a b _
  case h_3 a b => exact show execMulUniform d a b s = _ from uniMap_eq hr d a b _
  case h_4 a b => exact show execMulhiUniform d a b s = _ from uniMap_eq hr d a b _
  case h_5 a b => exact show execMulhuUniform d a b s = _ from uniMap_eq hr d a b _
  case h_6 a b => exact show execDiv d a b s = _ from uniMap_eq hr d a b _
  case h_7 a b => exact show execDivu d a b s = _ from uniMap_eq hr d a b _
  case h_8 a b => exact show execRem d a b s = _ from uniMap_eq hr d a b _
  case h_9 a b => exact show execRemu d a b s = _ from uniMap_eq hr d a b _
  case h_10 a b => exact show execShlUniform d a b s = _ from uniMap_eq hr d a b _
  case h_11 a b => exact show execShrUniform d a b s = _ from uniMap_eq hr d a b _
  case h_12 a b => exact show execSarUniform d a b s = _ from uniMap_eq hr d a b _
  case h_13 a b => exact show execMinUniform d a b s = _ from uniMap_eq hr d a b _
  case h_14 a b => exact show execMinuUniform d a b s = _ from uniMap_eq hr d a b _
  case h_15 a b => exact show execMaxUniform d a b s = _ from uniMap_eq hr d a b _
  case h_16 a b => exact show execMaxuUniform d a b s = _ from uniMap_eq hr d a b _
  case h_17 a b => exact show execSelUniform d a b s = _ from uniMap_eq hr d a b _
  case h_18 c a b => exact show execCmpUniform c d a b s = _ from uniMap_eq hr d a b _
  case h_19 a b => exact show execBfxUniform d a b s = _ from uniMap_eq hr d a b _
  case h_20 a b => exact show execBfiUniform d a b s = _ from uniMap_eq hr d a b _
  case h_21 a => exact show execClzUniform d a s = _ from logicMap_eq hr (.s d) a (.lit 0) _
  case h_22 a => exact show execPopcUniform d a s = _ from logicMap_eq hr (.s d) a (.lit 0) _
  case h_23 a i => exact show execAddi d a i s = _ from uniMap_eq hr d a (.lit _) _
  case h_24 a i => exact show execAndi d a i s = _ from uniMap_eq hr d a (.lit _) _
  case h_25 a i => exact show execOri d a i s = _ from uniMap_eq hr d a (.lit _) _
  case h_26 a i => exact show execXori d a i s = _ from uniMap_eq hr d a (.lit _) _
  case h_27 a i => exact show execShli d a i s = _ from uniMap_eq hr d a (.lit (i.zeroExtend 32)) _
  case h_28 a i => exact show execShri d a i s = _ from uniMap_eq hr d a (.lit (i.zeroExtend 32)) _
  case h_29 a i => exact show execSari d a i s = _ from uniMap_eq hr d a (.lit (i.zeroExtend 32)) _
  case h_30 i => exact show execMoviUniform d (.short i) s = _ from run_of_done hr rfl
  case h_31 => exact show execMoviUniform d (.lit v) s = _ from run_of_done hr rfl
  case h_32 i => exact show execMovhi d i s = _ from run_of_done hr rfl
  case h_33 d' a b =>
    split at hu
    · cases hu
    · next hsup =>
      cases hu
      exact show execRdlane d a b s = _ from run_of_done hr ((if_neg hsup).trans (by cases b <;> rfl))
  case h_34 => exact show execElect d s = _ from run_of_done hr rfl

/-- The forms over s and m registers write their value to their register or mask. -/
theorem exec_of_logic {d : XReg} {v : Word} (hr : Runs i s x) (hl : logic s x i = some (d, v)) :
    exec i s = .next ((s.writeX x d v).advance x) := by
  unfold logic at hl
  split at hl <;> cases hl
  case h_1 a b => exact show execAndUniform d a b s = _ from logicMap_eq hr d a b _
  case h_2 a b => exact show execOrUniform d a b s = _ from logicMap_eq hr d a b _
  case h_3 a b => exact show execXorUniform d a b s = _ from logicMap_eq hr d a b _
  case h_4 a => exact show execMovUniform (.reg d a) s = _ from run_of_done hr rfl

/-- Settles O9, a kind of destination at a time: one s register, an s register or a mask, an awl register, a pair. -/
theorem uniformResults : Obligations.UniformResults := by
  unfold Obligations.UniformResults
  refine ⟨fun i s x d v hr hs hu => ?_, fun s x d a b hr hs hsup ha => ?_, fun i s x d v hr hs hl => ?_,
    fun s x b p => ⟨fun hr => ?_, fun hr hs _ => ?_⟩⟩
  · exact ⟨_, writesUniform_writeS hs x d.toNat v, exec_of_uniform hr hu⟩
  · exact ⟨Config.freeWord s.free, _, writesUniform_writeS (s := { s with free := s.free + 1 }) hs x d.toNat _,
      show execRdlane d a b s = _ from run_of_done hr (if_pos ⟨hsup, ha⟩)⟩
  · have he := exec_of_logic hr hl
    cases d with
    | s r => exact ⟨_, writesUniform_writeS hs x r.toNat v, he⟩
    | m r => exact he
  · exact show execMovUniform (.toAwl b p) s = _ from run_of_done hr rfl
  · exact ⟨_, writesUniform_writeSs hs x p.toNat _, show execMovUniform (.fromAwl p b) s = _ from run_of_done hr rfl⟩

end Sys2Proof.Claims
end

section
/-! Quadwords of the core store, and their fields as bit vectors (R2, R3, R41). -/

namespace Sys2Proof.Machine

/-! ### Fields of a quadword -/

theorem qf_eq_extract (q : DWord) {hi lo n : Nat} (h : hi + 1 - lo = n) : qf q hi lo = (q.extractLsb' lo n).toNat := by
  rw [qf, bits, h, BitVec.extractLsb'_toNat, Nat.shiftRight_eq_div_pow]

theorem qf_63_48 (q : DWord) : qf q 63 48 = (q.extractLsb' 48 16).toNat := qf_eq_extract q rfl
theorem qf_47_32 (q : DWord) : qf q 47 32 = (q.extractLsb' 32 16).toNat := qf_eq_extract q rfl
theorem qf_31_16 (q : DWord) : qf q 31 16 = (q.extractLsb' 16 16).toNat := qf_eq_extract q rfl
theorem qf_15_0 (q : DWord) : qf q 15 0 = (q.extractLsb' 0 16).toNat := qf_eq_extract q rfl

/-- A quadword is known by its bits. -/
theorem qset_eq_of_bits {hi lo x : Nat} (h : lo ≤ hi) (hhi : hi < 64) {q r : DWord}
    (hr : ∀ j < 64, r.getLsbD j = if lo ≤ j ∧ j ≤ hi then x.testBit (j - lo) else q.getLsbD j) : qset q hi lo x = r :=
  BitVec.eq_of_getLsbD_eq fun j hj => by rw [getLsbD_qset h hhi, hr j hj]

/-! ### Writing a core twice -/

theorem State.setCore_setCore (s : State) (c : Nat) (k k' : Core) : (s.setCore c k).setCore c k' = s.setCore c k' := by
  unfold State.setCore
  dsimp only
  rw [AMap.put_put]

/-! ### Reading and writing a quadword -/

theorem leNat_leBytes (n v : Nat) : leNat (leBytes n v) = v % 256 ^ n := by
  induction n generalizing v with
  | zero => exact (Nat.mod_one v).symm
  | succ n ih =>
    rw [Nat.pow_succ', Nat.mod_mul, leBytes, leNat, ih, BitVec.toNat_ofNat]

theorem Core.store64_putStore64 {k : Core} (hk : Mem.wf (n := 8) k.store = true) (a : Nat) (v : DWord) :
    (k.putStore64 a v).store64 a = v := by
  have hread : (k.putStore64 a v).readStore a 8 = leBytes 8 v.toNat := Mem.read_write hk
  rw [Core.store64, hread, leNat_leBytes, Nat.mod_eq_of_lt (b := 256 ^ 8) v.isLt, BitVec.ofNat_toNat, BitVec.setWidth_eq]

theorem Core.get_putStore64_other {k : Core} (hk : Mem.wf (n := 8) k.store = true) {a b : Nat} (v : DWord) (hb : b < a ∨ a + 8 ≤ b) :
    Mem.get (n := 8) (k.putStore64 a v).store b = Mem.get (n := 8) k.store b := Mem.get_write_other hk hb

/-- A quadword is that of its bytes. -/
theorem Core.store64_congr {k k' : Core} {a : Nat} (h : ∀ b, a ≤ b → b < a + 8 → Mem.get (n := 8) k'.store b = Mem.get (n := 8) k.store b) :
    k'.store64 a = k.store64 a := by
  unfold Core.store64 Core.readStore Mem.read
  refine congrArg (fun bs => BitVec.ofNat 64 (leNat bs)) (List.map_congr_left fun i hi => ?_)
  have := List.mem_range.1 hi
  exact h _ (by omega) (by omega)

theorem Core.store64_putStore64_other {k : Core} (hk : Mem.wf (n := 8) k.store = true) {a b : Nat} (v : DWord) (hb : b + 8 ≤ a ∨ a + 8 ≤ b) :
    (k.putStore64 a v).store64 b = k.store64 b :=
  Core.store64_congr fun c h1 h2 => Core.get_putStore64_other hk v (by omega)

/-- What an instruction has read at its issue is registers: the core store is as it stands. -/
theorem Core.store64_asIssued (s : State) (x : Ctx) (a : Nat) : (s.asIssued x).store64 a = (s.core x.core).store64 a := by
  obtain ⟨rf, h⟩ := State.asIssued_eq s x
  rw [h]
  rfl

end Sys2Proof.Machine

namespace Sys2Proof.Claims

open Machine

theorem putsQuad_putStore64 {k : Core} (hk : Mem.wf (n := 8) k.store = true) (a : Nat) (v : DWord) :
    PutsQuad k a v (k.putStore64 a v) :=
  ⟨storeOnly_writeStore k a _, Core.store64_putStore64 hk a v, fun _ hb => Core.get_putStore64_other hk v hb⟩

end Sys2Proof.Claims
end

section
/-! The barriers (R174 to R176, R239). -/

namespace Sys2Proof.Claims

open Machine

variable {s : State} {x : Ctx}

/-! ### The words of a barrier -/

theorem not_soundBarrier_iff (w : DWord) : ¬ soundBarrier w ↔ qf w 15 0 = 0 ∨ qf w 47 32 ≠ 0 := by
  rw [qf_15_0, qf_47_32, soundBarrier, not_and_or, not_not]
  refine or_congr ⟨fun h => by rw [h]; rfl, fun h => BitVec.eq_of_toNat_eq h⟩ (not_congr ⟨fun h => by rw [h]; rfl, fun h => BitVec.eq_of_toNat_eq h⟩)

theorem getLsbD_of_sound {w : DWord} (h : w.extractLsb' 32 16 = 0) {j : Nat} (h1 : 32 ≤ j) (h2 : j < 48) : w.getLsbD j = false := by
  have := congrArg (fun v : BitVec 16 => v.getLsbD (j - 32)) h
  simpa [BitVec.getLsbD_extractLsb', show j - 32 < 16 by omega, Nat.add_sub_cancel' h1] using this

/-- The arrival that counts within its generation. -/
theorem qset_count {w : DWord} (h : w.extractLsb' 32 16 = 0) (n : Nat) :
    qset w 31 16 n = w.extractLsb' 48 16 ++ (0#16 ++ (BitVec.ofNat 16 n ++ w.extractLsb' 0 16)) := by
  refine qset_eq_of_bits (by decide) (by decide) fun j hj => ?_
  have hz := @getLsbD_of_sound w h j
  simp only [BitVec.getLsbD_append, BitVec.getLsbD_extractLsb', BitVec.getLsbD_ofNat]
  grind

/-- The arrival that starts a new generation. -/
theorem qset_generation {w : DWord} (h : w.extractLsb' 32 16 = 0) :
    qset (qset w 31 16 0) 63 48 ((qf w 63 48 + 1) % 65536) =
      (w.extractLsb' 48 16 + 1) ++ (0#16 ++ (0#16 ++ w.extractLsb' 0 16)) := by
  refine qset_eq_of_bits (by decide) (by decide) fun j hj => ?_
  have hg : BitVec.ofNat 16 ((qf w 63 48 + 1) % 65536) = w.extractLsb' 48 16 + 1 := by
    apply BitVec.eq_of_toNat_eq
    rw [qf_63_48, BitVec.toNat_ofNat, BitVec.toNat_add]
    exact Nat.mod_mod _ _
  have hg' := congrArg (fun v : BitVec 16 => v.getLsbD (j - 48)) hg
  simp only [BitVec.getLsbD_ofNat] at hg'
  rw [qset_count h, BitVec.getLsbD_append, ← hg']
  simp only [BitVec.getLsbD_append, BitVec.getLsbD_extractLsb']
  grind

theorem arrived_eq {w : DWord} (h : w.extractLsb' 32 16 = 0) : arrived w =
    if qf w 15 0 ≤ qf w 31 16 + 1 then qset (qset w 31 16 0) 63 48 ((qf w 63 48 + 1) % 65536) else qset w 31 16 (qf w 31 16 + 1) := by
  rw [qset_generation h, qset_count h, qf_15_0, qf_31_16]
  rfl

/-- What BARA finds in a barrier word (R175): a word that fails its checks, an arrival that its group has made, or one that counts. -/
theorem barArrive_unsound {w : DWord} (h : ¬ soundBarrier w) (entry : Option Nat) : barArrive w entry = none :=
  if_pos ((not_soundBarrier_iff w).1 h)

theorem barArrive_again {w : DWord} (h : soundBarrier w) {entry : Option Nat} (he : entry = some (w.extractLsb' 48 16).toNat) :
    barArrive w entry = some (w, (w.extractLsb' 48 16).toNat, false) := by
  rw [← qf_63_48] at he ⊢
  unfold barArrive
  rw [if_neg (mt (not_soundBarrier_iff w).2 (not_not.2 h)), if_pos he]

theorem barArrive_counts {w : DWord} (h : soundBarrier w) {entry : Option Nat} (he : entry ≠ some (w.extractLsb' 48 16).toNat) :
    barArrive w entry = some (arrived w, (w.extractLsb' 48 16).toNat, true) := by
  rw [← qf_63_48] at he ⊢
  rw [arrived_eq h.2]
  unfold barArrive
  rw [if_neg (mt (not_soundBarrier_iff w).2 (not_not.2 h)), if_neg he]
  dsimp only
  split <;> rfl

/-! ### The checks of their operand (R239) -/

theorem barTrap_misaligned {v : Nat} (blk : Bool) (h8 : v % 8 ≠ 0) : barTrap s x blk v = some (mkTrap 2 8 v) := if_pos h8

theorem barTrap_block {v : Nat} (h8 : v % 8 = 0) (hv : beyond s x .global 8 v = none) : barTrap s x true v = none := by
  have hg : globalTrap s x 8 v = none := by
    rw [show globalTrap s x 8 v = boundTrap s x .global 8 v from rfl, boundTrap_eq, hv]
    rfl
  unfold barTrap
  rw [if_neg (not_not.2 h8), if_pos rfl, hg]

theorem barTrap_beyond {v : Nat} (h8 : v % 8 = 0) (hv : 8 * (s.team x.core x.g.team).barriers ≤ v) :
    barTrap s x false v = some (mkTrap 5 1 v) := by
  unfold barTrap
  rw [if_neg (not_not.2 h8), if_neg Bool.false_ne_true, if_pos hv]

theorem barTrap_team {v : Nat} (h8 : v % 8 = 0) (hv : v < 8 * (s.team x.core x.g.team).barriers) : barTrap s x false v = none := by
  unfold barTrap
  rw [if_neg (not_not.2 h8), if_neg Bool.false_ne_true, if_neg (Nat.not_le_of_lt hv)]

theorem barOperand_team (s : State) (x : Ctx) (a : SReg) : barOperand (issued s x) x false a = (sreg s x a).toNat := rfl

theorem barOperand_block (s : State) (x : Ctx) (a : SReg) :
    barOperand (issued s x) x true a = ((issued s x).getS64 x.gid a.toNat).toNat := rfl

/-! ### Arrivals (R175, R239) -/

/-- What BARA does once it has read the word of a team barrier at `v`. -/
def arriveTeam (s : State) (x : Ctx) (d : SReg) (v : Nat) : Option (DWord × Nat × Bool) → Res
  | none => prot 3 v
  | some (w, g, counted) =>
    .done ((if counted then (s.modCore x.core fun k => k.putStore64 ((s.span x).1 + v) w).modGroup x.core x.gid fun y => y.arrive v g
      else s).writeS x d.toNat (w32 g))

/-- What BARA.blk does once it has read the word of a block barrier at `v`, in the state after the read. -/
def arriveBlock (s : State) (x : Ctx) (d : SReg) (v : Nat) (ap : Ap) (off : Nat) : Option (DWord × Nat × Bool) → Res
  | none => prot 3 v
  | some (w, g, counted) =>
    .done ((if counted then ((s.homeWrite ap off (leBytes 8 w.toNat)).modCore x.core fun k =>
        (k.l1Store s x.g.ctx (s.usedLink x.core (if x.gid < 512 then 0 else 1) x.g.ctx v) ap
          ((leBytes 8 w.toNat).zipIdx.map fun (b, i) => (off + i, b))).passFills ap off).modGroup x.core x.gid fun y => y.arrive (2 ^ 64 + v) g
      else s).writeS x d.toNat (w32 g))

section Bara

variable {blk : Bool} {d a : SReg}

theorem exec_bara_trap (hr : Runs (.bara blk d a) s x) {t : Trap} (ht : barTrap s x blk (barOperand (issued s x) x blk a) = some t) :
    exec (.bara blk d a) s = .next (s.preciseTrap x t) := by
  show execBara blk d a s = _
  unfold execBara issued at *
  rw [run_of_runs hr]
  simp only [ht]
  rfl

theorem exec_bara_unreleased (hr : Runs (.bara blk d a) s x) (ht : barTrap s x blk (barOperand (issued s x) x blk a) = none)
    (hrel : s.released x (if blk then .die else .core) = false) : exec (.bara blk d a) s = .next (s.waitAt x .drain) := by
  show execBara blk d a s = _
  unfold execBara issued at *
  rw [run_of_runs hr]
  simp only [ht, hrel, Bool.false_eq_true, not_false_eq_true, if_true]
  rfl

theorem exec_bara_team (hr : Runs (.bara false d a) s x) {v : Nat} (hv : barOperand (issued s x) x false a = v)
    (ht : barTrap s x false v = none) (hrel : s.released x .core = true) :
    exec (.bara false d a) s = .next (s.finish x (arriveTeam s x d v
      (barArrive ((s.core x.core).store64 ((s.span x).1 + v)) (x.g.arrival v)))) := by
  show execBara false d a s = _
  unfold execBara issued at *
  rw [run_of_runs hr]
  have hid : barrierId false v = v := rfl
  simp only [hv, ht, hrel, hid, Core.store64_asIssued, Bool.false_eq_true, not_true_eq_false, if_false]
  generalize barArrive _ _ = arrival
  cases arrival <;> rfl

/-- BARA.blk once it may arrive, by what the translation of its address answers. -/
theorem exec_bara_block (hr : Runs (.bara true d a) s x) {v : Nat} (hv : barOperand (issued s x) x true a = v)
    (ht : barTrap s x true v = none) (hrel : s.released x .die = true) {ap : Ap} {off : Nat} {s1 : State}
    (hxl : uniXlate x s v true = .ok ap off s1) :
    exec (.bara true d a) s = .next (s.finish x (if ¬ barrierTarget s1 x ap off then prot 2 v
      else if s1.targetWaits ap off then .wait s1 .xlate
      else if (s1.homeRead ap off 8).2.2 then fatalAt x (s1.homeRead ap off 8).1 0 v 0x0b
      else arriveBlock (s1.homeRead ap off 8).1 x d v ap off
        (barArrive (BitVec.ofNat 64 (leNat (s1.homeRead ap off 8).2.1)) (x.g.arrival (2 ^ 64 + v))))) := by
  show execBara true d a s = _
  unfold execBara issued at *
  rw [run_of_runs hr]
  have hid : barrierId true v = 2 ^ 64 + v := rfl
  simp only [hv, ht, hxl, hrel, hid, not_true_eq_false, if_false, if_true]
  generalize barArrive _ _ = arrival
  cases arrival <;> rfl

end Bara

/-! ### Waits for a generation (R176, R239) -/

section Barw

variable {blk : Bool} {a b : SReg}

theorem exec_barw_team (hr : Runs (.barw false a b) s x) {v : Nat} (hv : barOperand (issued s x) x false a = v)
    (ht : barTrap s x false v = none) :
    exec (.barw false a b) s = .next (s.finish x (if 0x10000 ≤ (sreg s x b).toNat then prot 3 (sreg s x b).toNat
      else if qf ((s.core x.core).store64 ((s.span x).1 + v)) 63 48 ≠ (sreg s x b).toNat then .done (s.acquire x.core .core)
      else .wait s (.barrier ((s.span x).1 + v)))) := by
  show execBarw false a b s = _
  unfold execBarw sreg issued at *
  rw [run_of_runs hr]
  simp only [hv, ht, Core.store64_asIssued, Bool.false_eq_true, if_false]

theorem exec_barw_block (hr : Runs (.barw true a b) s x) {v : Nat} (hv : barOperand (issued s x) x true a = v)
    (ht : barTrap s x true v = none) (htok : (sreg s x b).toNat < 0x10000) {ap : Ap} {off : Nat} {s1 : State}
    (hxl : uniXlate x s v false = .ok ap off s1) :
    exec (.barw true a b) s = .next (s.finish x (if ¬ barrierTarget s1 x ap off then prot 2 v
      else if s1.targetWaits ap off then .wait s1 .xlate
      else if (s1.homeRead ap off 8).2.2 then fatalAt x (s1.homeRead ap off 8).1 0 v 0x0b
      else if bits (leNat (s1.homeRead ap off 8).2.1) 63 48 ≠ (sreg s x b).toNat then .done ((s1.homeRead ap off 8).1.acquire x.core .die)
      else .wait { (s1.homeRead ap off 8).1 with
        blockWaits := (s1.homeRead ap off 8).1.blockWaits ++ [(ap, off, x.core, x.g.ctx, v)] } (.blockBarrier v))) := by
  show execBarw true a b s = _
  unfold execBarw sreg issued at *
  rw [run_of_runs hr]
  simp only [hv, ht, hxl, Nat.not_le_of_lt htok, if_false, if_true]

end Barw

/-- Settles O27. A team barrier: the checks, then the word that the arrival finds. A block barrier: the same behind the translation and
the read at its home slice. BARW: the generation against the token. -/
theorem barrierArrivals : Obligations.BarrierArrivals := by
  unfold Obligations.BarrierArrivals
  refine ⟨fun s x d a hr hs => ?_, fun s x d a ap off s1 hr h8 hb hrel hxl => ?_, fun s x a b => ⟨fun hr h8 hv => ⟨fun htok => ?_, fun htok => ?_⟩,
    fun hr ap off s1 s2 bs h8 hb htok hxl htgt hwait hread => ?_⟩⟩
  · have hk : Mem.wf (n := 8) (s.core x.core).store = true := Core.store_wf (State.core_memWf hs _)
    refine ⟨fun h8 => exec_bara_trap hr (barTrap_misaligned false h8), fun h8 hv => exec_bara_trap hr (barTrap_beyond h8 hv),
      fun hgood hrel => exec_bara_unreleased hr (barTrap_team hgood.1 hgood.2) hrel, fun hgood hrel hw => ?_, fun hgood hrel hw he => ?_,
      fun hgood hrel hw he => ?_⟩
    all_goals rw [exec_bara_team hr (barOperand_team s x a) (barTrap_team hgood.1 hgood.2) hrel]
    · rw [barArrive_unsound hw]
      rfl
    · rw [barArrive_again hw he]
      exact ⟨_, writesUniform_writeS hs x d.toNat _, rfl⟩
    · rw [barArrive_counts hw he]
      refine ⟨_, _, putsQuad_putStore64 hk _ _, writesUniform_writeS ?_ x d.toNat _, rfl⟩
      exact State.modGroup_memWf _ _ _ _ (State.setCore_memWf hs (Core.putStore64_memWf _ _ _ (State.core_memWf hs _)) _)
  · rw [exec_bara_block hr (barOperand_block s x a) (barTrap_block h8 hb) hrel hxl]
    refine ⟨fun htgt => ?_, fun htgt hwait => ?_, fun s2 bs htgt hwait hread => ⟨fun hw => ?_, fun hw he => ?_, fun hw he => ?_⟩⟩
    · rw [htgt]
      rfl
    · rw [htgt, hwait]
      rfl
    all_goals simp only [htgt, hwait, hread, not_true_eq_false, Bool.false_eq_true, if_false]
    · rw [barArrive_unsound hw]
      rfl
    · rw [barArrive_again hw he]
      rfl
    · rw [barArrive_counts hw he]
      rfl
  · rw [exec_barw_team hr (barOperand_team s x a) (barTrap_team h8 hv), if_pos htok]
    rfl
  · rw [exec_barw_team hr (barOperand_team s x a) (barTrap_team h8 hv), if_neg (Nat.not_le_of_lt htok), qf_63_48]
    split <;> rfl
  · rw [exec_barw_block hr (barOperand_block s x a) (barTrap_block h8 hb) htok hxl]
    simp only [htgt, hwait, hread, not_true_eq_false, Bool.false_eq_true, if_false]
    show Host.Outcome.next (s.finish x (if leNat bs / 2 ^ 48 % 2 ^ 16 ≠ (sreg s x b).toNat then _ else _)) = _
    split <;> rfl

end Sys2Proof.Claims
end

section
/-! The rings (R47 to R50, R303). -/

namespace Sys2Proof.Claims

open Machine

variable {s : State} {x : Ctx}

/-! ### The fields of quadword 1 (R47) -/

theorem qset_taken_cons (q : DWord) (left index : Nat) : qset (qset q 63 48 left) 31 16 index = taken true q left index := by
  refine qset_eq_of_bits (by decide) (by decide) fun j hj => ?_
  rw [getLsbD_qset (by decide) (by decide), taken, if_pos rfl]
  simp only [BitVec.getLsbD_append, BitVec.getLsbD_extractLsb', BitVec.getLsbD_ofNat]
  grind

theorem qset_taken_prod (q : DWord) (left index : Nat) : qset (qset q 47 32 left) 15 0 index = taken false q left index := by
  refine qset_eq_of_bits (by decide) (by decide) fun j hj => ?_
  rw [getLsbD_qset (by decide) (by decide), taken, if_neg Bool.false_ne_true]
  simp only [BitVec.getLsbD_append, BitVec.getLsbD_extractLsb', BitVec.getLsbD_ofNat]
  grind

theorem qset_given_cons (q : DWord) (v : Nat) : qset q 47 32 v = given true q v := by
  refine qset_eq_of_bits (by decide) (by decide) fun j hj => ?_
  rw [given, if_pos rfl]
  simp only [BitVec.getLsbD_append, BitVec.getLsbD_extractLsb', BitVec.getLsbD_ofNat]
  grind

theorem qset_given_prod (q : DWord) (v : Nat) : qset q 63 48 v = given false q v := by
  refine qset_eq_of_bits (by decide) (by decide) fun j hj => ?_
  rw [given, if_neg Bool.false_ne_true]
  simp only [BitVec.getLsbD_append, BitVec.getLsbD_extractLsb', BitVec.getLsbD_ofNat]
  grind

theorem qset_overflow (q : DWord) : qset q 8 8 1 = q ||| 0x100 := by
  refine qset_eq_of_bits (by decide) (by decide) fun j hj => ?_
  have hbit : (0x100 : DWord).getLsbD j = decide (j = 8) := by
    interval_cases j <;> rfl
  rw [BitVec.getLsbD_or, hbit]
  by_cases h : j = 8
  · subst h
    simp
  · simp [h, show ¬ (8 ≤ j ∧ j ≤ 8) by omega]

/-! ### Taking and giving slots (R48) -/

theorem ringTake_eq (k : Core) (d : Nat) (q0 : DWord) (n : Nat) (cons : Bool) {q1 : DWord} (hq1 : k.store64 (d + 8) = q1) :
    k.ringTake d q0 n cons =
      (k.putStore64 (d + 8) (taken cons q1 ((q1.extractLsb' (if cons then 48 else 32) 16).toNat - n)
        (((q1.extractLsb' (if cons then 16 else 0) 16).toNat + n) % (q0.extractLsb' 48 16).toNat)),
      (q1.extractLsb' (if cons then 16 else 0) 16).toNat) := by
  have hq : k.ringQ d 1 = q1 := hq1
  unfold Core.ringTake
  cases cons
  · simp only [hq, Bool.false_eq_true, if_false, qset_taken_prod, qf_63_48, qf_47_32, qf_15_0]
  · simp only [hq, if_true, qset_taken_cons, qf_63_48, qf_31_16]

/-- Quadword 1 is consistent with a ring of `count` slots, as the obligation has it (R50). -/
theorem ringSound_of {q0 q1 : DWord} (hsum : (q1.extractLsb' 48 16).toNat + (q1.extractLsb' 32 16).toNat ≤ (q0.extractLsb' 48 16).toNat)
    (hprod : (q1.extractLsb' 0 16).toNat < (q0.extractLsb' 48 16).toNat)
    (hcons : (q1.extractLsb' 16 16).toNat < (q0.extractLsb' 48 16).toNat) : ringSound q0 q1 = true := by
  unfold ringSound
  rw [qf_63_48, qf_63_48, qf_47_32, qf_31_16, qf_15_0]
  exact decide_eq_true ⟨hsum, hprod, hcons⟩

/-- A release that has room leaves its counter at the sum; one that has not leaves it full, with overflow set. -/
theorem ringGive_eq (k : Core) (d : Nat) (q0 : DWord) (n : Nat) (cons : Bool) {q1 : DWord} (hq1 : k.store64 (d + 8) = q1)
    (hsound : ringSound q0 q1 = true) {now : Nat} (hnow : (q1.extractLsb' (if cons then 32 else 48) 16).toNat + n = now) :
    k.ringGive d q0 n cons = some (if (q0.extractLsb' 48 16).toNat < now
      then (k.putStore64 (d + 16) (k.store64 (d + 16) ||| 0x100)).putStore64 (d + 8) (given cons q1 (q0.extractLsb' 48 16).toNat)
      else k.putStore64 (d + 8) (given cons q1 now)) := by
  have hq : k.ringQ d 1 = q1 := hq1
  have hflag : k.ringFlag d 8 = k.putStore64 (d + 16) (k.store64 (d + 16) ||| 0x100) := by
    rw [Core.ringFlag, qset_overflow]
    rfl
  unfold Core.ringGive
  subst hnow
  cases cons
  · simp only [hq, hsound, hflag, Bool.false_eq_true, if_false, not_true_eq_false, qset_given_prod, qf_63_48]
    split <;> rfl
  · simp only [hq, hsound, hflag, if_true, if_false, not_true_eq_false, qset_given_cons, qf_63_48, qf_47_32]
    split <;> rfl

/-! ### The checks of the ring instructions (R303, R50) -/

theorem ringTrap_of_ready {v n : Nat} {q0 : DWord} (h : RingReady s x v n q0) {q : Option DWord}
    (hq : q.getD ((s.core x.core).store64 ((s.span x).1 + v)) = q0) : ringTrap s x v n q = none := by
  obtain ⟨halign, hform, hroom, hzero, hslots, hn, hcount, hsum, hprod, hcons, hpoison⟩ := h
  have hstore : storeTrap (s.span x).2 32 v = none := by
    unfold storeTrap formTrap
    rw [if_pos hform, if_pos hroom]
    rfl
  have hvalid : ringValid q0 (s.span x).2 = true := by
    unfold ringValid
    rw [qf_63_48, qf_eq_extract q0 (hi := 3) (n := 4) rfl, qf_eq_extract q0 (hi := 22) (n := 23) rfl, qf_eq_extract q0 (hi := 39) (n := 8) rfl,
      hzero, decide_eq_true hslots]
    have hne : (q0.extractLsb' 48 16).toNat ≠ 0 := by omega
    rw [decide_eq_true hne]
    rfl
  have hn' : decide (1 ≤ n ∧ n ≤ qf q0 63 48) = true := decide_eq_true ⟨hn, by rwa [qf_63_48]⟩
  have hq' : q.getD ((s.core x.core).ringQ ((s.span x).1 + v) 0) = q0 := hq
  unfold ringTrap alignTrap
  simp only [halign, hstore, hq', hvalid, hn', if_true, Bool.and_self, Option.or_none]

theorem ringSound_of_ready {v n : Nat} {q0 : DWord} (h : RingReady s x v n q0) :
    ringSound q0 ((s.core x.core).store64 ((s.span x).1 + v + 8)) = true := by
  obtain ⟨_, _, _, _, _, _, _, hsum, hprod, hcons, _⟩ := h
  exact ringSound_of hsum hprod hcons

theorem storeBad_of_ready {v n : Nat} {q0 : DWord} (h : RingReady s x v n q0) (a m : Nat) : (s.core x.core).storeBad a m = false := by
  obtain ⟨_, _, _, _, _, _, _, _, _, _, hpoison⟩ := h
  unfold Core.storeBad
  rw [hpoison]
  rfl

/-! ### Waiting for slots (R49) -/

/-- The core without a waiting action. -/
def unwaited (k : Core) (mine : Option RingWait) : Core := { k with ringWaits := k.ringWaits.filter fun w => some w ≠ mine }

/-- The bundle whose threads an action that waits was begun for. -/
def begun (x : Ctx) (mine : Option RingWait) : Ctx := { x with lanes := (mine.map fun w => w.lanes &&& x.lanes).getD x.lanes }

/-- What CBWAIT does with a descriptor whose checks pass, behind no release of its own group: it takes its slots, or waits. -/
theorem cbwait_ready {cons : Bool} {d a : SReg} {b : USrc} {v n desc : Nat} {mine : Option RingWait} {q0 q2 : DWord}
    (hv : (sreg s x a).toNat = v) (hn : (slast s x b).toNat = n) (hdesc : (s.span x).1 + v = desc) (hmine : ringMine s x desc cons = mine)
    (hq0 : (mine.map (·.q0)).getD ((s.core x.core).store64 desc) = q0)
    (hq2 : (mine.map (·.q2)).getD ((s.core x.core).store64 (desc + 16)) = q2) (hready : RingReady s x v n q0)
    (hrel : ∀ r ∈ (s.core x.core).releases, ¬ (r.uid = x.g.uid ∧ r.desc = desc)) :
    cbwait cons d a b x s =
      if (((s.core x.core).ringWaits.find? fun w => w.desc == desc && w.cons == cons).all fun w => some w = mine) ∧
          n ≤ (((s.core x.core).store64 (desc + 8)).extractLsb' (if cons then 48 else 32) 16).toNat then
        let take := (unwaited (s.core x.core) mine).ringTake desc q0 n cons
        let t := (s.setCore x.core take.1).writeS x d.toNat (w32 take.2)
        .moved ((if cons then t.acquire x.core (scopeOf (q2.extractLsb' 3 3).toNat) else t).advance (begun x mine))
      else .moved ((s.setCore x.core (if mine.isSome then s.core x.core else { s.core x.core with ringWaits := (s.core x.core).ringWaits ++
          [{ desc, cons, gid := x.gid, pc := x.pc, lanes := (begun x mine).lanes, q0, q2 }] })).waitAt (begun x mine) (.ring desc cons)) := by
  have husrc : ((s.asIssued x).usrc x.gid b).toNat = n := by rw [← hn]; cases b <;> rfl
  have hvalue : ((s.asIssued x).getS x.gid a.toNat).toNat = v := hv
  have hany : ((s.core x.core).releases.any fun r => r.uid == x.g.uid && r.desc == desc) = false := by
    rw [List.any_eq_false]
    intro r hr
    simpa using hrel r hr
  have hsound : ringSound q0 ((s.core x.core).ringQ desc 1) = true := hdesc ▸ ringSound_of_ready hready
  have hbad := storeBad_of_ready hready desc 32
  have htrap : ringTrap s (begun x mine) v n (mine.map (·.q0)) = none :=
    ringTrap_of_ready (x := begun x mine) hready (by rw [show (s.span (begun x mine)).1 = (s.span x).1 from rfl, hdesc]; exact hq0)
  have hthere : (if cons then qf ((s.core x.core).ringQ desc 1) 63 48 else qf ((s.core x.core).ringQ desc 1) 47 32) =
      (((s.core x.core).store64 (desc + 8)).extractLsb' (if cons then 48 else 32) 16).toNat := by
    cases cons
    · exact qf_47_32 _
    · exact qf_63_48 _
  have hq0' : (mine.map (·.q0)).getD ((s.core x.core).ringQ desc 0) = q0 := hq0
  have hq2' : (mine.map (·.q2)).getD ((s.core x.core).ringQ desc 2) = q2 := hq2
  unfold begun at htrap
  unfold cbwait
  simp only [husrc, hvalue, hdesc, hmine, hany, htrap, hbad, hq0', hq2', hsound, hthere, Bool.false_eq_true, if_false, not_true_eq_false,
    qf_eq_extract q2 (hi := 5) (lo := 3) (n := 3) rfl]
  split
  · rfl
  · split <;> rfl

/-- The bundle joins the waits as it stands, unless an action of its own is there. -/
theorem enqueue_eq {k : Core} (mine : Option RingWait) {w w' : RingWait} (h : mine = none → w = w') :
    (if mine.isSome then k else { k with ringWaits := k.ringWaits ++ [w] }) =
      { k with ringWaits := if mine.isSome then k.ringWaits else k.ringWaits ++ [w'] } := by
  cases mine with
  | none => rw [h rfl]; rfl
  | some _ => rfl

theorem exec_cbwait {cons : Bool} {d a : SReg} {b : USrc} (hr : Runs (if cons then .cbwaitCons d a b else .cbwaitProd d a b) s x) :
    exec (if cons then .cbwaitCons d a b else .cbwaitProd d a b) s = .next (s.finish x (cbwait cons d a b x s)) := by
  cases cons
  · exact show execCbwaitProd d a b s = _ from run_of_runs hr _
  · exact show execCbwaitCons d a b s = _ from run_of_runs hr _

/-- The action that waits longest is the bundle's own, or none waits. -/
theorem first_iff (o mine : Option RingWait) : o.all (fun w => decide (some w = mine)) = true ↔ o = none ∨ o = mine := by
  cases o <;> simp

/-! ### Giving slots (R48, R303) -/

/-- The release that a CBREL starts. -/
def releaseOf (s : State) (x : Ctx) (cons : Bool) (v n : Nat) : RingRel :=
  let desc := (s.span x).1 + v
  let q2 := (s.core x.core).store64 (desc + 16)
  { uid := x.g.uid, gid := x.gid, ctx := x.g.ctx, pc := x.pc, lanes := x.lanes, desc, off := v, n, cons, q0 := (s.core x.core).store64 desc, q2,
    scope := scopeOf (q2.extractLsb' (if cons then 3 else 0) 3).toNat, sb := (s.core x.core).nextSb, op := (s.core x.core).nextOp,
    rs := s.nextRstore }

/-- What CBREL does with a descriptor whose checks pass. -/
theorem cbrel_ready {cons : Bool} {a : SReg} {b : USrc} {v n : Nat} (hv : (ureg s x a).toNat = v) (hn : (ulast s x b).toNat = n)
    (hready : RingReady s x v n ((s.core x.core).store64 ((s.span x).1 + v))) :
    cbrel cons a b x s = .done ((s.setCore x.core { s.core x.core with
      releases := (s.core x.core).releases ++ [releaseOf s x cons v n] }).ringReleases x.core) := by
  have husrc : ((s.core x.core).usrc x.gid b).toNat = n := by rw [← hn]; cases b <;> rfl
  have hvalue : ((s.core x.core).getS x.gid a.toNat).toNat = v := hv
  have hsound : ringSound ((s.core x.core).ringQ ((s.span x).1 + v) 0) ((s.core x.core).ringQ ((s.span x).1 + v) 1) = true :=
    ringSound_of_ready hready
  have hbad := storeBad_of_ready hready ((s.span x).1 + v) 32
  have htrap : ringTrap s x v n = none := ringTrap_of_ready hready rfl
  have hscope (q : DWord) : (if cons then qf q 5 3 else qf q 2 0) = (q.extractLsb' (if cons then 3 else 0) 3).toNat := by
    cases cons
    · exact qf_eq_extract q rfl
    · exact qf_eq_extract q rfl
  unfold cbrel
  simp only [husrc, hvalue, htrap, hbad, hsound, hscope, Bool.false_eq_true, if_false, not_true_eq_false]
  rfl

theorem exec_cbrel {cons : Bool} {a : SReg} {b : USrc} (hr : Runs (if cons then .cbrelCons a b else .cbrelProd a b) s x) :
    exec (if cons then .cbrelCons a b else .cbrelProd a b) s = .next (s.finish x (cbrel cons a b x s)) := by
  cases cons
  · exact show execCbrelProd a b s = _ from run_of_runs hr _
  · exact show execCbrelCons a b s = _ from run_of_runs hr _

/-- Whether the accesses of some threads are performed does not depend on the releases under way. -/
theorem marksDone_releases (c uid : Nat) (lanes : Word) (sc : Scope) (sb op rs : Nat) (releases : List RingRel) :
    (s.setCore c { s.core c with releases }).marksDone c uid lanes sc sb op rs = s.marksDone c uid lanes sc sb op rs := by
  unfold State.marksDone
  rw [State.core_setCore, if_pos rfl]
  rfl

section OnlyRelease

variable {c : Nat} {r : RingRel} (hrel : (s.core c).releases = [])
include hrel

/-- The only release of a core looks whether it can be performed. -/
theorem ringReleases_single : (s.setCore c { s.core c with releases := [r] }).ringReleases c =
    if s.marksDone c r.uid r.lanes r.scope r.sb r.op r.rs then
      match (s.core c).ringGive r.desc r.q0 r.n r.cons with
      | some k => s.setCore c (k.wake fun w => w == .drain)
      | none => (s.setCore c (((s.core c).ringFlag r.desc 9).wake fun w => w == .drain)).pendTrap c r.gid r.uid r.ctx
          { mkTrap 5 3 r.off with pc := r.pc, lanes := r.lanes }
    else s.setCore c { s.core c with releases := [r] } := by
  have hcore : (s.setCore c { s.core c with releases := [r] }).core c = { s.core c with releases := [r] } := by
    rw [State.core_setCore, if_pos rfl]
  have hfirst : ([r].find? fun y => y.uid == r.uid && y.desc == r.desc) = some r := by simp
  have herase : ({ s.core c with releases := [r].erase r } : Core) = s.core c := by
    rw [List.erase_cons_head, ← hrel]
  unfold State.ringReleases
  rw [hcore, List.foldl_cons, List.foldl_nil]
  unfold State.tryRelease
  rw [marksDone_releases, hcore]
  dsimp only
  rw [hfirst, herase]
  simp only [State.setCore_setCore]
  cases s.marksDone c r.uid r.lanes r.scope r.sb r.op r.rs
  · exact if_pos (.inr Bool.false_ne_true)
  · refine (if_neg (by simp)).trans (Eq.trans ?_ (if_pos rfl).symm)
    rfl

theorem ringReleases_performed {k' : Core} (hgive : (s.core c).ringGive r.desc r.q0 r.n r.cons = some k')
    (hdone : s.marksDone c r.uid r.lanes r.scope r.sb r.op r.rs = true) :
    (s.setCore c { s.core c with releases := [r] }).ringReleases c = s.setCore c (k'.wake fun w => w == .drain) := by
  rw [ringReleases_single hrel, if_pos hdone, hgive]

theorem ringReleases_waits (hdone : s.marksDone c r.uid r.lanes r.scope r.sb r.op r.rs = false) :
    (s.setCore c { s.core c with releases := [r] }).ringReleases c = s.setCore c { s.core c with releases := [r] } := by
  rw [ringReleases_single hrel, if_neg (by rw [hdone]; exact Bool.false_ne_true)]

end OnlyRelease

theorem storeOnly_putStore64 (k : Core) (a : Nat) (w : DWord) : StoreOnly k (k.putStore64 a w) := storeOnly_writeStore k a _

/-- What a release leaves: its counter at the sum, or full with overflow set; nothing outside quadwords 1 and 2 changes. -/
theorem ringGive_spec {k : Core} (hk : Mem.wf (n := 8) k.store = true) (d : Nat) (q0 : DWord) (n : Nat) (cons : Bool) {q1 q2 : DWord}
    (hq1 : k.store64 (d + 8) = q1) (hq2 : k.store64 (d + 16) = q2) (hsound : ringSound q0 q1 = true) {now count : Nat}
    (hnow : (q1.extractLsb' (if cons then 32 else 48) 16).toNat + n = now) (hcount : (q0.extractLsb' 48 16).toNat = count) :
    ∃ k', k.ringGive d q0 n cons = some k' ∧ StoreOnly k k' ∧ k'.store64 (d + 8) = given cons q1 (min now count) ∧
      k'.store64 (d + 16) = (if count < now then q2 ||| 0x100 else q2) ∧
      ∀ y, y < d + 8 ∨ d + 24 ≤ y → Mem.get (n := 8) k'.store y = Mem.get (n := 8) k.store y := by
  refine ⟨_, ringGive_eq k d q0 n cons hq1 hsound hnow, ?_⟩
  rw [hcount, hq2]
  by_cases h : count < now
  · have hk' : Mem.wf (n := 8) (k.putStore64 (d + 16) (q2 ||| 0x100)).store = true := Mem.wf_write hk
    rw [if_pos h, if_pos h, Nat.min_eq_right (Nat.le_of_lt h)]
    refine ⟨(storeOnly_putStore64 _ _ _).trans (storeOnly_putStore64 _ _ _), Core.store64_putStore64 hk' _ _, ?_, fun y hy => ?_⟩
    · rw [Core.store64_putStore64_other hk' _ (by omega), Core.store64_putStore64 hk]
    · rw [Core.get_putStore64_other hk' _ (by omega), Core.get_putStore64_other hk _ (by omega)]
  · rw [if_neg h, if_neg h, Nat.min_eq_left (Nat.le_of_not_lt h)]
    refine ⟨storeOnly_putStore64 _ _ _, Core.store64_putStore64 hk _ _, ?_, fun y hy => Core.get_putStore64_other hk _ (by omega)⟩
    rw [Core.store64_putStore64_other hk _ (by omega), hq2]

/-- Settles O29. CBWAIT takes its slots or waits, by the earliest action of its direction and the slots that are there; CBREL starts the one
release of its core, which is performed at once or waits. -/
theorem ringSlots : Obligations.RingSlots := by
  unfold Obligations.RingSlots
  refine ⟨fun s x cons d a b hr hs => ?_, fun s x cons a b hr hs => ?_⟩
  · intro k v n desc q1 mine y q0 q2 count there first ahead hready hrel
    have hk : (unwaited k mine).memWf = true := Core.mk_memWf (Core.rf_wf (State.core_memWf hs _)) (Core.banks_wf (State.core_memWf hs _))
      (Core.store_wf (State.core_memWf hs _)) (Core.istore_wf (State.core_memWf hs _)) (Core.acc_wf (State.core_memWf hs _))
    have hexec := exec_cbwait hr
    rw [cbwait_ready rfl rfl rfl rfl rfl rfl hready hrel] at hexec
    rw [hexec]
    refine ⟨fun hfirst hn => ?_, fun hnot => ?_⟩
    · rw [if_pos ⟨(first_iff _ _).2 hfirst, hn⟩, ringTake_eq (unwaited k mine) desc q0 n cons (q1 := q1) rfl]
      exact ⟨_, _, putsQuad_putStore64 (Core.store_wf hk) _ _,
        writesUniform_writeS (State.setCore_memWf hs (Core.putStore64_memWf _ _ _ hk) _) x d.toNat _, rfl⟩
    · rw [if_neg fun h => hnot.elim (fun h' => h' ((first_iff _ _).1 h.1)) fun h' => Nat.not_le_of_lt h' h.2,
        enqueue_eq mine fun hnone => by rw [show begun x mine = begun x none from congrArg _ hnone]]
      rfl
  · intro k v n desc q1 q2 count now sc hready hrel
    have hk : Mem.wf (n := 8) k.store = true := Core.store_wf (State.core_memWf hs _)
    obtain ⟨k', hgive, honly, hquad1, hquad2, hframe⟩ := ringGive_spec hk desc (k.store64 desc) n cons (q1 := q1) (q2 := q2) rfl rfl
      (ringSound_of_ready hready) (now := now) (count := count) rfl rfl
    have hexec := exec_cbrel hr
    rw [cbrel_ready rfl rfl hready, hrel, List.nil_append] at hexec
    rw [hexec]
    refine ⟨fun hdone => ?_, fun hdone => ?_⟩
    · rw [ringReleases_performed (r := releaseOf s x cons v n) hrel hgive hdone]
      exact ⟨_, honly.trans (storeOnly_wake _ _), rfl, hquad1, hquad2, hframe⟩
    · rw [ringReleases_waits (r := releaseOf s x cons v n) hrel hdone]
      exact ⟨releaseOf s x cons v n, rfl, rfl, rfl, rfl, rfl, rfl, rfl, rfl, rfl⟩

end Sys2Proof.Claims
end

section
/-! The elements of bit space (R52, R53, R297): the bits a load reads and a store replaces, and the lane registers that a load of
several words writes. -/

namespace Sys2Proof.Machine

/-! ### Consecutive registers of several lanes -/

section Rows

variable {x : Ctx} {sd : Side} {d n row : Nat} (hsd : sd.uniform = false) (hrow : ∀ j < n, x.g.vRow x.gid (d + j) = some (row + j))
include hsd hrow

/-- Writing consecutive registers of one lane: the register file and nothing else, one word of each row. -/
theorem putElem_spec {k : Core} (hk : Mem.wf (n := 32) k.rf = true) {l : Nat} (hl : l < 32) (ws : List Word) (hws : ws.length = n) :
    ∃ rf, k.putElem x sd d l ws = { k with rf } ∧ Mem.wf (n := 32) rf = true ∧
      ∀ a, Mem.get (n := 32) rf a = if row ≤ a / 32 ∧ a / 32 < row + n ∧ a % 32 = l then ws.getD (a / 32 - row) 0
        else Mem.get (n := 32) k.rf a := by
  subst hws
  unfold Core.putElem
  induction ws using List.reverseRecOn with
  | nil => exact ⟨k.rf, rfl, hk, fun a => (if_neg (by simp; omega)).symm⟩
  | append_singleton ws w ih =>
    obtain ⟨rf, hput, hwf, hget⟩ := ih fun j hj => hrow j (by simp; omega)
    have hlast : x.g.vRow x.gid (d + ws.length) = some (row + ws.length) := hrow _ (by simp)
    have hset : ({ k with rf } : Core).setV x.g x.gid (d + ws.length) l w = { k with rf := rf.set ((row + ws.length) * 32 + l) w } := by
      unfold Core.setV
      rw [hlast]
    refine ⟨rf.set ((row + ws.length) * 32 + l) w, ?_, Mem.wf_set hwf, fun a => ?_⟩
    · rw [List.zipIdx_append, List.foldl_append, hput]
      simpa [hsd] using hset
    · rw [Mem.get_set hwf, hget, List.length_append, List.length_singleton]
      by_cases hin : row ≤ a / 32 ∧ a / 32 < row + ws.length ∧ a % 32 = l
      · rw [if_neg (by omega), if_pos hin, if_pos (by omega), List.getD_append _ _ _ _ (by omega)]
      · by_cases heq : (row + ws.length) * 32 + l = a
        · rw [if_pos heq, if_pos (by omega), show a / 32 - row = ws.length by omega]
          simp
        · rw [if_neg heq, if_neg hin, if_neg (by omega)]

/-- Writing consecutive registers of several lanes, each lane's words from one function. -/
theorem foldl_putElem_spec {k : Core} (hk : Mem.wf (n := 32) k.rf = true) (ls : List Nat) (hls : ∀ l ∈ ls, l < 32)
    (read : Nat → List Word) (hread : ∀ l, (read l).length = n) :
    ∃ rf, ls.foldl (fun k l => k.putElem x sd d l (read l)) k = { k with rf } ∧ Mem.wf (n := 32) rf = true ∧
      ∀ a, Mem.get (n := 32) rf a = if row ≤ a / 32 ∧ a / 32 < row + n ∧ a % 32 ∈ ls then (read (a % 32)).getD (a / 32 - row) 0
        else Mem.get (n := 32) k.rf a := by
  induction ls using List.reverseRecOn with
  | nil => exact ⟨k.rf, rfl, hk, fun a => (if_neg (by simp)).symm⟩
  | append_singleton ls l ih =>
    obtain ⟨rf, hfold, hwf, hget⟩ := ih fun j hj => hls j (by simp [hj])
    obtain ⟨rf', hput, hwf', hget'⟩ := putElem_spec hsd hrow (k := { k with rf }) hwf (hls l (by simp)) (read l) (hread l)
    refine ⟨rf', by rw [List.foldl_append, hfold]; exact hput, hwf', fun a => ?_⟩
    rw [hget', hget]
    by_cases hl : a % 32 = l
    · subst hl
      grind
    · grind

end Rows

/-! ### Bits -/

/-- The value of n bits at a bit address (R52). -/
theorem Core.testBit_readBits (k : Core) (a n j : Nat) : (k.readBits a n).testBit j = (decide (j < n) && Mem.bit k.store (a + j)) := by
  unfold Core.readBits
  rw [Nat.testBit_mod_two_pow, Nat.testBit_div_two_pow]
  by_cases hj : j < n
  · rw [Core.testBit_readStore _ (by omega), show 8 * (a / 8) + (j + a % 8) = a + j by omega]
  · simp [hj]

theorem Core.readBits_lt (k : Core) (a n : Nat) : k.readBits a n < 2 ^ n := Nat.mod_lt _ (Nat.two_pow_pos _)

/-- The number that an element of n bits extends to in 64 (R297). -/
def extended (n : Nat) (sx : Bool) (v : Nat) : DWord := BitVec.ofNat 64 (if sx ∧ v.testBit (n - 1) then v + (2 ^ 64 - 2 ^ n) else v)

theorem getLsbD_extended {n v : Nat} (hn : n ≤ 64) (hv : v < 2 ^ n) (sx : Bool) (j : Nat) :
    (extended n sx v).getLsbD j = if j < n then v.testBit j else decide (j < 64) && sx && v.testBit (n - 1) := by
  unfold extended
  rw [BitVec.getLsbD_ofNat]
  by_cases hsign : sx = true ∧ v.testBit (n - 1) = true
  · have hsum : v + (2 ^ 64 - 2 ^ n) = 2 ^ n * (2 ^ (64 - n) - 1) + v := by
      rw [Nat.mul_sub, ← Nat.pow_add, Nat.add_sub_cancel' hn, Nat.mul_one, Nat.add_comm]
    rw [if_pos hsign, hsum, Nat.testBit_two_pow_mul_add _ hv, Nat.testBit_two_pow_sub_one, hsign.1, hsign.2]
    by_cases hj : j < n
    · simp [hj, show j < 64 by omega]
    · simp [hj]
      omega
  · rw [if_neg hsign]
    by_cases hj : j < n
    · simp [hj, show j < 64 by omega]
    · rw [if_neg hj, Nat.testBit_lt_two_pow (Nat.lt_of_lt_of_le hv (Nat.pow_le_pow_right (by decide) (Nat.le_of_not_lt hj)))]
      cases sx <;> simp_all

theorem bitWords_eq (n : Nat) (sx : Bool) (v : Nat) :
    bitWords n sx v = (List.range (if n ≤ 32 then 1 else 2)).map fun j => (extended n sx v).extractLsb' (32 * j) 32 := by
  have hlow (u : Nat) : w32 u = (BitVec.ofNat 64 u).extractLsb' 0 32 := by
    apply BitVec.eq_of_toNat_eq
    simp [w32]
  have hhigh (u : Nat) : w32 (u / 2 ^ 32) = (BitVec.ofNat 64 u).extractLsb' 32 32 := by
    apply BitVec.eq_of_toNat_eq
    simp [w32, Nat.shiftRight_eq_div_pow]
    omega
  unfold bitWords extended
  dsimp only
  rw [hlow, hhigh]
  split <;> rfl

/-- Bits of several lanes' elements. -/
theorem bit_foldl_storeBits {k : Core} (hk : Mem.wf (n := 8) k.store = true) (gid : Nat) (ls : List Nat) (lo : Nat → Nat) {n : Nat}
    (hn : 0 < n) (data : Nat → Nat) (b : Nat) :
    Mem.wf (n := 8) (ls.foldl (fun (q : Core) l => q.storeBy gid (lo l / 8) (q.bitBytes (lo l) n (data l))) k).store = true ∧
    Mem.bit (ls.foldl (fun (q : Core) l => q.storeBy gid (lo l / 8) (q.bitBytes (lo l) n (data l))) k).store b =
      ((ls.reverse.find? fun l => decide (lo l ≤ b ∧ b < lo l + n)).map fun l => (data l).testBit (b - lo l)).getD (Mem.bit k.store b) := by
  induction ls using List.reverseRecOn with
  | nil => exact ⟨hk, rfl⟩
  | append_singleton ls l ih =>
    obtain ⟨hwf, hbit⟩ := ih
    rw [List.foldl_append, List.foldl_cons, List.foldl_nil, Core.store_storeBy]
    refine ⟨Mem.wf_write hwf, ?_⟩
    rw [Core.bit_writeBits hwf hn, hbit, List.reverse_append, List.reverse_singleton, List.singleton_append, List.find?_cons]
    by_cases h : lo l ≤ b ∧ b < lo l + n <;> simp [h]

end Sys2Proof.Machine

namespace Sys2Proof.Claims

open Machine

variable {s : State} {x : Ctx} {m : MReg} {d : VReg} {k : BReg} {n : BitVec 6} {acc : Access}

/-- The access of LDB and STB. -/
def bitAccess (x : Ctx) (m : MReg) (k : BReg) (n : BitVec 6) : Access := ⟨x.laneSide m, n.toNat + 1, addrBit x k, .bits⟩

theorem behind_bits_iff : Behind s x (bitAccess x m k n) ↔ behindAperture s x (lanesOf (x.active m))
    (fun l => (s.span x).1 + addrBit x k l / 8) ((n.toNat + 1 + 14) / 8) = true := by
  simp [Behind, bitAccess, behindAperture, Ctx.laneSide]

theorem vRow_succ {g : Machine.Group} {gid r row : Nat} (h : g.vRow gid r = some row) (hr : r % 16 < 15) :
    g.vRow gid (r + 1) = some (row + 1) := by
  have hdiv : (r + 1) / 16 = r / 16 := by omega
  have hmod : (r + 1) % 16 = r % 16 + 1 := by omega
  unfold Group.vRow at *
  by_cases hlow : r < 16
  · rw [if_pos hlow] at h
    rw [if_pos (by omega), ← Option.some.inj h, Nat.add_assoc]
  · rw [if_neg hlow] at h
    rw [if_neg (by omega), hdiv, hmod]
    split at h
    · cases h
    · rw [← Option.some.inj h, ← Nat.add_assoc]

/-- The rows of the registers that an element loads into. -/
theorem vRow_bitRegs {sx : Bool} (hr : Runs (.ldb m d k n sx) s x) (ha : d.toNat % Named.bitRegs n = 0) :
    ∃ row, ∀ j < Named.bitRegs n, x.g.vRow x.gid (d.toNat + j) = some (row + j) := by
  obtain ⟨_, hb, hv⟩ := hr
  have hgid : x.gid < 512 := by simpa [Instr.barred, Instr.laneOnly] using hb
  have hd := d.isLt
  have hregs : Named.bitRegs n = 1 ∨ Named.bitRegs n = 2 := by
    unfold Named.bitRegs
    split <;> simp
  have hmem : d.toNat ∈ (Instr.ldb m d k n sx).vregs := by
    refine List.mem_filter.2 ⟨List.mem_map.2 ⟨0, List.mem_range.2 (by omega), rfl⟩, by simpa using hd⟩
  obtain ⟨row, hrow⟩ := vRow_of_held hv hgid hmem
  refine ⟨row, fun j hj => ?_⟩
  obtain rfl | rfl : j = 0 ∨ j = 1 := by omega
  · exact hrow
  · have heven : d.toNat % 2 = 0 := by
      rcases hregs with h | h <;> rw [h] at ha hj <;> omega
    exact vRow_succ hrow (by omega)

/-- What LDB reads in a lane, extended (R297). -/
def bitValue (s : State) (x : Ctx) (k : BReg) (n : BitVec 6) (sx : Bool) (l : Nat) : DWord :=
  extended (n.toNat + 1) sx ((s.core x.core).readBits ((s.span x).1 * 8 + addrBit x k l) (n.toNat + 1))

/-- LDB whose access is clear: it waits behind the aperture, or delivers each lane's element. -/
theorem exec_ldb {sx : Bool} (hr : Runs (.ldb m d k n sx) s x) (hc : Clear s x (bitAccess x m k n)) :
    exec (.ldb m d k n sx) s = .next (s.finish x (
      if behindAperture s x (lanesOf (x.active m)) (fun l => (s.span x).1 + addrBit x k l / 8) ((n.toNat + 1 + 14) / 8) then .wait s .drain
      else deliver (x.laneSide m) d.toNat x s (fun l => bitWords (n.toNat + 1) sx
          ((s.core x.core).readBits ((s.span x).1 * 8 + addrBit x k l) (n.toNat + 1)))
        fun l => if (s.core x.core).storeBad ((s.span x).1 + addrBit x k l / 8) ((addrBit x k l % 8 + (n.toNat + 1) + 7) / 8)
          then some (addrBit x k l) else none)) := by
  show execLdb m d k n sx s = _
  unfold execLdb
  rw [run_of_runs hr]
  exact congrArg (fun r => Host.Outcome.next (s.finish x r)) (checked_clear (accessTrap_clear hc))

theorem exec_stb (hr : Runs (.stb m d k n) s x) (hc : Clear s x (bitAccess x m k n)) :
    exec (.stb m d k n) s = .next (s.finish x (
      if behindAperture s x (lanesOf (x.active m)) (fun l => (s.span x).1 + addrBit x k l / 8) ((n.toNat + 1 + 14) / 8) then .wait s .drain
      else .done (s.modCore x.core fun q => (lanesOf (x.active m)).foldl (fun q l =>
        (if x.gid = supGid then Core.writeBitsForeign else Core.writeBits) q ((s.span x).1 * 8 + addrBit x k l) (n.toNat + 1)
          (leNat (wordsBytes ((s.core x.core).elem x (x.laneSide m) d.toNat (Named.bitRegs n) l)) % 2 ^ (n.toNat + 1))) q))) := by
  show execStb m d k n s = _
  unfold execStb
  rw [run_of_runs hr]
  exact congrArg (fun r => Host.Outcome.next (s.finish x r)) (checked_clear (accessTrap_clear hc))

/-- Data without poison reaches every lane. -/
theorem deliver_clean (sd : Side) (d : Nat) (read : Nat → List Word) {bad : Nat → Option Nat} (h : ∀ l, bad l = none) :
    deliver sd d x s read bad = .done (s.modCore x.core fun q => sd.lanes.foldl (fun q l => q.putElem x sd d l (read l)) q) := by
  have hnone : sd.lanes.findSome? bad = none := List.findSome?_eq_none_iff.2 fun l _ => h l
  unfold deliver
  simp only [hnone, h, Option.isSome_none, Bool.false_eq_true, if_false]

/-- The bits of a lane's data registers. -/
theorem testBit_elem (c : Core) (sd : Side) (d l : Nat) {j w : Nat} (hw : w ≤ 32 * Named.bitRegs n) (hj : j < w) :
    (leNat (wordsBytes (c.elem x sd d (Named.bitRegs n) l)) % 2 ^ w).testBit j = (dataByte c x sd d l (j / 8)).getLsbD (j % 8) := by
  have hreg : j / 8 / 4 < Named.bitRegs n := by omega
  rw [Nat.testBit_mod_two_pow, decide_eq_true hj, Bool.true_and, testBit_leNat, List.getD, getElem?_wordsBytes, Core.elem,
    List.getElem?_map, List.getElem?_range hreg]
  rfl

/-- Each lane's element is written in the lanes' order, by one locked read-modify-write (R53). -/
theorem writeBits_eq_storeBy (q : Core) (gid a w v : Nat) :
    (if gid = supGid then Core.writeBitsForeign else Core.writeBits) q a w v = q.storeBy gid (a / 8) (q.bitBytes a w v) := by
  unfold Core.storeBy
  split
  · exact Core.writeBitsForeign_eq q a w v
  · rfl

/-- The destination rows after each lane's element was delivered. -/
theorem delivers_bits {sx : Bool} (hs : s.memWf = true) (hr : Runs (.ldb m d k n sx) s x) (ha : d.toNat % Named.bitRegs n = 0) :
    Delivers s x (x.laneSide m) d.toNat (Named.bitRegs n)
      (fun j l => if l ∈ (x.laneSide m).lanes then some ((bitValue s x k n sx l).extractLsb' (32 * j) 32) else none)
      (s.modCore x.core fun q => (x.laneSide m).lanes.foldl (fun q l => q.putElem x (x.laneSide m) d.toNat l
        (bitWords (n.toNat + 1) sx ((s.core x.core).readBits ((s.span x).1 * 8 + addrBit x k l) (n.toNat + 1)))) q) := by
  obtain ⟨row, hrow⟩ := vRow_bitRegs hr ha
  have hread (l : Nat) : bitWords (n.toNat + 1) sx ((s.core x.core).readBits ((s.span x).1 * 8 + addrBit x k l) (n.toNat + 1)) =
      (List.range (Named.bitRegs n)).map fun j => (bitValue s x k n sx l).extractLsb' (32 * j) 32 := by
    rw [bitWords_eq]
    rfl
  simp only [hread]
  obtain ⟨rf, hfold, hwf, hget⟩ := foldl_putElem_spec (sd := x.laneSide m) rfl hrow (Core.rf_wf (State.core_memWf hs x.core))
    (x.laneSide m).lanes (fun _ hl => lanesOf_lt hl)
    (fun l => (List.range (Named.bitRegs n)).map fun j => (bitValue s x k n sx l).extractLsb' (32 * j) 32) (fun _ => by simp)
  refine ⟨row, rf, ?_, congrArg (s.setCore x.core) hfold, fun a => ?_⟩
  · rw [BitVec.ofNat_toNat, BitVec.setWidth_eq]
    exact hrow 0 (by unfold Named.bitRegs; split <;> decide)
  · rw [hget]
    by_cases hin : row ≤ a / 32 ∧ a / 32 < row + Named.bitRegs n
    · have hj : a / 32 - row < Named.bitRegs n := by omega
      by_cases hl : a % 32 ∈ (x.laneSide m).lanes
      · rw [if_pos ⟨hin.1, hin.2, hl⟩, if_pos hin]
        simp [hl, hj]
      · rw [if_neg fun h => hl h.2.2, if_pos hin]
        simp [hl]
    · rw [if_neg fun h => hin ⟨h.1, h.2.1⟩, if_neg hin]
      rfl

/-- Settles O20. LDB: the bits of each lane's element, extended, go to its registers. STB: the lanes write in ascending order, so that a
bit is that of the highest lane whose element holds it. -/
theorem bitElements : Obligations.BitElements := by
  unfold Obligations.BitElements
  intro s x m d k n hs w base bit
  have hw : w ≤ 64 := n.isLt
  refine ⟨fun sx acc hr hi hc => ?_, fun acc hr hi hc => ?_⟩
  all_goals
    obtain rfl : acc = bitAccess x m k n := (Option.some.inj hi).symm
    rw [behind_bits_iff]
  · rw [exec_ldb hr hc]
    refine ⟨fun hbe => by rw [if_pos hbe]; rfl, fun hbe ha hclean => ?_⟩
    rw [if_neg hbe, deliver_clean _ _ _ fun l => by simp [Core.storeBad, hclean]]
    refine ⟨_, bitValue s x k n sx, fun l j => ?_, delivers_bits hs hr ha, rfl⟩
    rw [bitValue, getLsbD_extended hw (Core.readBits_lt _ _ _), Core.testBit_readBits, Core.testBit_readBits]
    rw [decide_eq_true (show n.toNat + 1 - 1 < n.toNat + 1 by omega), Bool.true_and]
    by_cases hj : j < w
    · rw [if_pos hj, if_pos hj, decide_eq_true (show j < n.toNat + 1 from hj), Bool.true_and]
      rfl
    · rw [if_neg hj, if_neg hj]
      rfl
  · rw [exec_stb hr hc]
    refine ⟨fun hbe => by rw [if_pos hbe]; rfl, fun hbe => ?_⟩
    rw [if_neg hbe]
    simp only [writeBits_eq_storeBy]
    refine ⟨_, storeBy_foldl (fun q l => storeBy_storeBy q _ _ _) _ _, rfl, fun b => ?_⟩
    refine (bit_foldl_storeBits (Core.store_wf (State.core_memWf hs _)) _ _ _ (Nat.succ_pos _) _ b).2.trans ?_
    have hregs : w ≤ 32 * Named.bitRegs n := by
      unfold Named.bitRegs
      split <;> omega
    have hlane : ∀ o : Option Nat, (∀ l, o = some l → base + addrBit x k l ≤ b ∧ b < base + addrBit x k l + w) →
        (o.map fun l => (leNat (wordsBytes ((s.core x.core).elem x (x.laneSide m) d.toNat (Named.bitRegs n) l)) % 2 ^ (n.toNat + 1)).testBit
          (b - (base + addrBit x k l))).getD (Mem.bit (s.core x.core).store b) =
        match o with
        | some l => (dataByte (s.core x.core) x (x.laneSide m) d.toNat l ((b - base - addrBit x k l) / 8)).getLsbD
            ((b - base - addrBit x k l) % 8)
        | none => bit (s.core x.core).store b := by
      intro o ho
      cases o with
      | none => rfl
      | some l =>
        have hb := ho l rfl
        rw [Option.map_some, Option.getD_some, testBit_elem _ _ _ _ hregs (by omega), Nat.sub_add_eq]
    exact hlane _ fun l hl =>
      of_decide_eq_true (List.find?_some (p := fun l => decide (base + addrBit x k l ≤ b ∧ b < base + addrBit x k l + w)) hl)

end Sys2Proof.Claims
end

section
/-! ### Special registers: what a read returns (R363, R364) -/

namespace Sys2Proof.Machine

theorem Group.length_heldChunks (g : Group) : g.heldChunks.length = g.chunks.countP (·.isSome) := by
  unfold Group.heldChunks
  rw [List.length_filterMap_eq_countP]
  rfl

theorem foldl_add_eq_sum {α : Type} (f : α → Nat) (l : List α) (a : Nat) :
    l.foldl (fun a x => a + f x) a = a + (l.map f).sum := by
  induction l generalizing a with
  | nil => rfl
  | cons x t ih => rw [List.foldl_cons, ih, List.map_cons, List.sum_cons, Nat.add_assoc]

theorem foldl_filter_add_eq_sum {α : Type} (p : α → Bool) (f : α → Nat) (l : List α) (a : Nat) :
    l.foldl (fun a x => if p x then a + f x else a) a = a + ((l.filter p).map f).sum := by
  rw [← foldl_add_eq_sum, List.foldl_filter]

end Sys2Proof.Machine

namespace Sys2Proof.Claims
open Host Machine

theorem bit_mul (b : Bool) (n : Nat) : bit b * 2 ^ n = if b then 2 ^ n else 0 := by
  cases b
  · exact Nat.zero_mul _
  · exact Nat.one_mul _

theorem bytesAt_eq_pad (bs : List Byte) (j : Nat) :
    bytesAt bs (4 * j) 4 = leNat ((List.range 4).map fun i => bs.getD (4 * j + i) 0) := by
  refine Nat.eq_of_testBit_eq fun i => ?_
  unfold bytesAt
  rw [testBit_leNat, testBit_leNat]
  congr 1
  simp only [List.getD_eq_getElem?_getD, List.getElem?_take, List.getElem?_drop, List.getElem?_map]
  by_cases hi : i / 8 < 4
  · rw [if_pos hi, List.getElem?_range hi]
    rfl
  · rw [if_neg hi, List.getElem?_eq_none (by rw [List.length_range]; omega)]
    rfl

section
variable (s : State) (x : Ctx)

theorem xpool_eq (k : Machine.Core) (g : Group) (t : Team) : k.xpool g t =
    w32 (g.chunks.countP (·.isSome) * 2 ^ 30 + t.held * 2 ^ 20 + k.unreserved * 2 ^ 10 +
      (992 - (k.groups.map fun p => p.2.chunks.countP (·.isSome)).sum)) := by
  unfold Core.xpool
  rw [Group.length_heldChunks, foldl_add_eq_sum (fun p : Nat × Group => p.2.heldChunks.length), Nat.zero_add]
  simp only [Group.length_heldChunks]

theorem eqstat_eq (k : Machine.Core) (uid : Nat) : k.eqstat uid =
    w32 ((k.eq.filter fun p => p.2.uid = uid).countP (fun p => p.2.priv) * 2 ^ 30 +
      (k.eq.filter fun p => p.2.uid = uid).countP (fun p => !p.2.priv) * 2 ^ 21 + (256 - k.eq.countP fun p => !p.2.priv)) := by
  unfold Core.eqstat
  simp only [List.countP_eq_length_filter]
  rfl

theorem mxstat_eq (k : Machine.Core) (t : Team) : k.mxstat t =
    w32 ((if k.narrow then 2 ^ 31 else 0) +
      (if k.eq.any fun p => engineOf p.2.major == 2 && p.2.state ≠ .queued then 2 ^ 30 else 0) +
      (t.bands.map fun p => 2 ^ (16 + p.1)).sum + (8 - k.bandsUsed.length)) := by
  unfold Core.mxstat
  rw [foldl_add_eq_sum (fun p : Nat × Nat => 2 ^ (16 + p.1)), Nat.zero_add, bit_mul, bit_mul]

theorem storeMap_eq (k : Machine.Core) : k.storeMap =
    w32 ((if k.reclaimWaits then 2 ^ 15 else 0) + k.lent.length * 2 ^ 9 +
      (if k.slots.any fun p => p.2.state ≠ .empty then 2 ^ 8 else 0) + k.poolSlots) := by
  unfold Core.storeMap
  rw [bit_mul, bit_mul]
  rfl

theorem istoreStat_eq (k : Machine.Core) : k.istoreStat =
    w32 ((if k.exhausted then 2 ^ 21 else 0) + k.records.countP (fun p => !p.2.resident && p.2.placed) * 2 ^ 18 +
      Nat.min k.records.length 256 * 2 ^ 9 + (256 - ((k.records.filter fun p => p.2.placed).map fun p => p.2.slots).sum)) := by
  unfold Core.istoreStat Core.loading Core.freeOvSlots
  rw [foldl_filter_add_eq_sum (fun p : Nat × OvRecord => p.2.placed) (fun p => p.2.slots), Nat.zero_add, bit_mul,
    List.countP_eq_length_filter]

theorem head?_faultsOf (k : Machine.Core) (uid : Nat) : (k.faultsOf uid).head? = k.sfq.find? fun r => r.uid == uid := by
  unfold Core.faultsOf
  rw [List.head?_filter]
  rfl

theorem recordWord_eq (j : Nat) :
    recordWord (((s.core x.core).faultsOf x.g.uid).head?.map (·.bytes)) j = faultWord s x j := by
  unfold recordWord faultWord
  rw [head?_faultsOf]
  cases (s.core x.core).sfq.find? fun r => r.uid == x.g.uid with
  | none => simp [bytesAt, leNat, w32]
  | some r => exact congrArg w32 (bytesAt_eq_pad r.bytes j)

theorem inHandler_eq (t : TrapRegs) (pending : List Trap) :
    w32 (bit t.inHandler * 2 ^ 31 + bit (!pending.isEmpty) * 2 ^ 30) =
      w32 ((if t.inHandler then 2 ^ 31 else 0) + if decide (pending ≠ []) then 2 ^ 30 else 0) := by
  rw [bit_mul, bit_mul]
  cases pending <;> simp

theorem dlog_eq (k : Machine.Core) : w32 (bit k.dlogMerging * 2 ^ 31 + k.dlogFill * 2 ^ 11 + k.dlogNext) =
    w32 ((if k.dlogMerging then 2 ^ 31 else 0) + k.dlogFill * 2 ^ 11 + k.dlogNext) := by
  rw [bit_mul]

theorem wf32_low (w : Word) (n : Nat) : wf32 w n 0 = w.toNat % 2 ^ (n + 1) := by
  unfold wf32 bits
  rw [Nat.pow_zero, Nat.div_one]
  rfl

/-- What SR.EQREC shows of a command of the engine queue (R306). -/
def commandRecord : Option (Nat × Cmd) → Word
  | none => 0
  | some (m, q) => w32 (q.major * 2 ^ 25 + (if q.state = .queued then s.unmet x.core m q else q.cond) * 2 ^ 22 + q.desc / 64)

theorem srValue_eqrec : s.srValue x 0x01c = commandRecord s x ((s.core x.core).commandsOf x.g.uid)[wf32 x.g.eqsel 7 0]? := rfl

theorem registerRead_eqrec : registerRead s x 0x01c =
    some (commandRecord s x ((s.core x.core).eq.filter fun p => p.2.uid = x.g.uid)[x.g.eqsel.toNat % 256]?) := rfl

theorem srValue_of_registerRead {n : Nat} {v : Word} (h : registerRead s x n = some v) : s.srValue x n = v := by
  unfold registerRead at h
  dsimp only at h
  split at h
  case h_6 => exact (xpool_eq _ _ _).trans (Option.some.inj h)
  case h_7 => exact (eqstat_eq _ _).trans (Option.some.inj h)
  case h_8 => exact (mxstat_eq _ _).trans (Option.some.inj h)
  case h_16 => exact (inHandler_eq _ _).trans (Option.some.inj h)
  case h_24 => exact (congrArg w32 List.countP_eq_length_filter.symm).trans (Option.some.inj h)
  case h_27 => 
    have hsel : wf32 x.g.eqsel 7 0 = x.g.eqsel.toNat % 256 := wf32_low _ 7
    rw [srValue_eqrec, hsel]
    exact Option.some.inj ((registerRead_eqrec s x).symm.trans h)
  case h_29 => exact (dlog_eq _).trans (Option.some.inj h)
  case h_30 => exact (storeMap_eq _).trans (Option.some.inj h)
  case h_31 => exact (istoreStat_eq _).trans (Option.some.inj h)
  case h_36 =>
    split at h
    case isTrue hn =>
      rw [← Option.some.inj h, ← recordWord_eq]
      unfold State.srValue
      simp (disch := omega) only [if_neg, if_pos hn]
    case isFalse hn =>
      split at h
      case isTrue hm =>
        rw [← Option.some.inj h]
        unfold State.srValue
        simp (disch := omega) only [if_neg, if_pos hm]
      case isFalse => exact absurd h (by simp)
  all_goals exact Option.some.inj h
end

section
variable {s : State} {x : Ctx}

theorem exec_rdsr_protected {d : SReg} {n : BitVec 11} (hr : Runs (.rdsr d n) s x) (hn : 0x100 ≤ n.toNat) (hx : x.gid ≠ supGid) :
    exec (.rdsr d n) s = .next (protects s x 4) := by
  show execRdsr d n s = _
  unfold execRdsr
  rw [run_of_runs hr, if_pos ⟨decide_eq_true hn, hx⟩]
  rfl

theorem exec_rdsr {d : SReg} {n : BitVec 11} (hr : Runs (.rdsr d n) s x) (hn : n.toNat < 0x100 ∨ x.gid = supGid) :
    exec (.rdsr d n) s = .next (((s.srClear x n.toNat).writeS x d.toNat (s.srValue x n.toNat)).advance x) := by
  show execRdsr d n s = _
  unfold execRdsr
  refine run_of_done hr (if_neg fun ⟨h, hx⟩ => ?_)
  have := of_decide_eq_true h
  omega

theorem srClear_other {n : Nat} (h8 : n ≠ 0x008) (h9 : n ≠ 0x009) : s.srClear x n = s := by
  unfold State.srClear
  rw [if_neg h8, if_neg h9]
end
end Sys2Proof.Claims
end

section
/-! ### Special registers: what a write leaves (R39, R251, R344, R347, R351) -/

namespace Sys2Proof.Machine

/-! The store map (R39, R45). -/

/-- k' is k with granules being reclaimed, and no line of the cache lies in them (R45). -/
structure Reclaimed (k : Core) (gone : List Nat) (k' : Core) : Prop where
  rest : ∃ reclaiming l1 l1ptr l1fills, k' = { k with reclaiming, l1, l1ptr, l1fills }
  lines : ∀ y ∈ k'.l1, y ∈ k.l1 ∧ y.way ∉ gone
  granules : ∀ w, w ∈ k'.reclaiming ↔ w ∈ k.reclaiming ∨ w ∈ gone
  ways : k'.l1fills.map (·.2.way) = k.l1fills.map (·.2.way)

theorem reclaimed_reclaim (k : Core) (g : Nat) : Reclaimed k [g] (k.reclaim g) where
  rest := ⟨_, _, _, _, rfl⟩
  lines y hy := by
    obtain ⟨hy, hg⟩ := List.mem_filter.1 hy
    exact ⟨hy, by simpa using hg⟩
  granules w := by
    unfold Core.reclaim
    dsimp only
    by_cases hg : g ∈ k.reclaiming
    · rw [if_pos (List.contains_iff_mem.2 hg), List.mem_singleton, or_iff_left_of_imp (by rintro rfl; exact hg)]
    · rw [if_neg (by rwa [List.contains_iff_mem]), List.mem_append]
  ways := by
    unfold Core.reclaim
    dsimp only
    rw [List.map_map]
    refine List.map_congr_left fun f _ => ?_
    dsimp only [Function.comp]
    split <;> rfl

theorem Reclaimed.trans {k k' k'' : Core} {gs gs' : List Nat} (h : Reclaimed k gs k') (h' : Reclaimed k' gs' k'') :
    Reclaimed k (gs ++ gs') k'' where
  rest := by
    obtain ⟨_, _, _, _, rfl⟩ := h.rest
    obtain ⟨_, _, _, _, rfl⟩ := h'.rest
    exact ⟨_, _, _, _, rfl⟩
  lines y hy := by
    obtain ⟨hy', hg'⟩ := h'.lines y hy
    obtain ⟨hk, hg⟩ := h.lines y hy'
    exact ⟨hk, by rw [List.mem_append, not_or]; exact ⟨hg, hg'⟩⟩
  granules w := by rw [h'.granules, h.granules, List.mem_append, or_assoc]
  ways := h'.ways.trans h.ways

theorem reclaimed_foldl (gs : List Nat) (k : Core) : Reclaimed k gs (gs.foldl (fun (k : Core) g => k.reclaim g) k) := by
  induction gs generalizing k with
  | nil => exact ⟨⟨_, _, _, _, rfl⟩, by simp, by simp, rfl⟩
  | cons g t ih => exact (reclaimed_reclaim k g).trans (ih _)

theorem Reclaimed.reclaimWaits {k k' : Core} {gone : List Nat} (h : Reclaimed k gone k') :
    k'.reclaimWaits = k.l1fills.any fun f => (k.reclaiming ++ gone).contains f.2.way := by
  have hways (l : AMap L1Fill) (p : Nat → Bool) : (l.any fun f => p f.2.way) = (l.map (·.2.way)).any p := List.any_map.symm
  have hin : k'.reclaiming.contains = (k.reclaiming ++ gone).contains := by
    funext w
    rw [Bool.eq_iff_iff, List.contains_iff_mem, List.contains_iff_mem, h.granules, List.mem_append]
  show (k'.l1fills.any fun f => k'.reclaiming.contains f.2.way) = _
  rw [hin, hways, hways, h.ways]

/-- The granules below byte n of the core store that are lent (R39). -/
def Core.lentBelow (k : Core) (n : Nat) : List Nat := k.lent.filter fun g => decide (g * 98304 < n)

theorem reclaimed_reclaimRange (k : Core) (n : Nat) : Reclaimed k (k.lentBelow n) (k.reclaimRange 0 n).1 := by
  have hgone : (k.lent.filter fun g => decide (0 < (g + 1) * 98304 ∧ g * 98304 < n)) = k.lentBelow n :=
    List.filter_congr fun g _ => by rw [decide_eq_decide]; omega
  unfold Core.reclaimRange
  rw [hgone]
  exact reclaimed_foldl _ k

theorem relend_rest (k : Core) (before : List Nat) : (∃ reclaiming l1 l1ptr, k.relend before = { k with reclaiming, l1, l1ptr }) ∧
    ∀ y ∈ (k.relend before).l1, y ∈ k.l1 := by
  unfold Core.relend
  dsimp only
  repeat' split
  all_goals exact ⟨⟨_, _, _, rfl⟩, fun y hy => by simp_all⟩

/-- What a write of the pool size leaves of a core (R39, R45). -/
theorem resized_rest (k : Core) (n : Nat) : ∃ poolSlots poolNext reclaiming l1 l1ptr l1fills,
    State.resized k n = { k with poolSlots, poolNext, reclaiming, l1, l1ptr, l1fills } ∧
    ((k.l1fills.any fun f => (k.reclaiming ++ k.lentBelow (n * 65536)).contains f.2.way) = false → poolSlots = n ∧ poolNext = none) ∧
    ((k.l1fills.any fun f => (k.reclaiming ++ k.lentBelow (n * 65536)).contains f.2.way) = true →
      poolSlots = k.poolSlots ∧ poolNext = some n) ∧
    ∀ y ∈ l1, y ∈ k.l1 ∧ y.way ∉ k.lentBelow (n * 65536) := by
  have hrec := reclaimed_reclaimRange k (n * 65536)
  have hok : (k.reclaimRange 0 (n * 65536)).2 = !(k.reclaimRange 0 (n * 65536)).1.reclaimWaits := rfl
  rw [hrec.reclaimWaits] at hok
  unfold State.resized
  generalize k.reclaimRange 0 (n * 65536) = r at hrec hok
  obtain ⟨k', ok⟩ := r
  obtain ⟨⟨reclaiming, l1, l1ptr, l1fills, rfl⟩, hlines, -, -⟩ := hrec
  dsimp only at hok hlines ⊢
  cases hlanding : k.l1fills.any fun f => (k.reclaiming ++ k.lentBelow (n * 65536)).contains f.2.way with
  | false =>
    rw [hok, hlanding]
    obtain ⟨⟨reclaiming', l1', l1ptr', hk⟩, hl1⟩ := relend_rest
      { k with reclaiming, l1, l1ptr, l1fills, poolSlots := n, poolNext := none } k.lent
    refine ⟨n, none, reclaiming', l1', l1ptr', l1fills, (if_pos rfl).trans hk, fun _ => ⟨rfl, rfl⟩, by simp, fun y hy => ?_⟩
    rw [hk] at hl1
    exact hlines y (hl1 y hy)
  | true =>
    rw [hok, hlanding]
    exact ⟨k.poolSlots, some n, reclaiming, l1, l1ptr, l1fills, if_neg Bool.false_ne_true, by simp, fun _ => ⟨rfl, rfl⟩, hlines⟩

end Sys2Proof.Machine
end

section
namespace Sys2Proof.Machine

/-! The generators (R251). -/

theorem length_genSeed (v : Word) : (genSeed v).length = 32 := by
  unfold genSeed
  rw [List.length_map, List.length_range]

theorem getD_genSeed (v : Word) {l : Nat} (hl : l < 32) : (genSeed v).getD l 0 =
    (let g := v ^^^ BitVec.ofNat 32 (0x9e3779b9 * (l + 1)); if g = 0 then 0x6d2b79f5 else g) := by
  unfold genSeed
  rw [List.getD_eq_getElem?_getD, List.getElem?_map, List.getElem?_range hl]
  rfl

/-! The store-fault queue (R351): what an access or a trap leaves of the register file and the queue of a core. -/

/-- The register file and the store-fault queue. -/
def Core.rfSfq (k : Core) : Mem 32 × List SfRecord := (k.rf, k.sfq)

theorem Core.rfSfq_putStore64 (k : Core) (a : Nat) (v : DWord) : (k.putStore64 a v).rfSfq = k.rfSfq := rfl

theorem Core.rfSfq_ringFlag (k : Core) (a b : Nat) : (k.ringFlag a b).rfSfq = k.rfSfq := by
  unfold Core.ringFlag
  exact Core.rfSfq_putStore64 _ _ _

theorem Core.rfSfq_ringGive {k k' : Core} {desc : Nat} {q0 : DWord} {n : Nat} {cons : Bool} (h : k.ringGive desc q0 n cons = some k') :
    k'.rfSfq = k.rfSfq := by
  unfold Core.ringGive at h
  dsimp only at h
  split at h
  · cases h
  · split at h <;> split at h <;> rw [← Option.some.inj h, Core.rfSfq_putStore64]
    all_goals exact Core.rfSfq_ringFlag k desc 8

namespace State

theorem setPool_fst (s : State) (c n : Nat) : (s.setPool c n).1 =
    if (s.core c).poolBusy ∨ (s.core c).teams.any (fun (_, t) => decide (t.size ≠ 0 ∧ t.base < min n 64 * 65536)) then s
    else s.setCore c (resized (s.core c) (min n 64)) := by
  unfold setPool
  dsimp only
  split <;> rfl

theorem rfSfq_setCore {s : State} {c : Nat} {k : Core} (h : k.rfSfq = (s.core c).rfSfq) (d : Nat) :
    ((s.setCore c k).core d).rfSfq = (s.core d).rfSfq := by
  rw [core_setCore]
  split
  · next hd => rw [h, hd]
  · rfl

theorem rfSfq_modCore (s : State) (c d : Nat) {f : Core → Core} (h : ∀ k, (f k).rfSfq = k.rfSfq) :
    ((s.modCore c f).core d).rfSfq = (s.core d).rfSfq := rfSfq_setCore (h _) d

@[simp] theorem rfSfq_modGroup (s : State) (c gid d : Nat) (f : Group → Group) : ((s.modGroup c gid f).core d).rfSfq = (s.core d).rfSfq :=
  rfSfq_modCore _ _ _ fun _ => rfl

@[simp] theorem rfSfq_postOnce (s : State) (i : Instr) (d : Nat) : ((s.postOnce i).core d).rfSfq = (s.core d).rfSfq := by
  unfold postOnce
  split <;> rfl

theorem rfSfq_foldl {α : Type} {f : State → α → State} {d : Nat} (h : ∀ s x, ((f s x).core d).rfSfq = (s.core d).rfSfq) (l : List α) (s : State) :
    ((l.foldl f s).core d).rfSfq = (s.core d).rfSfq := by
  induction l generalizing s with
  | nil => rfl
  | cons x t ih => rw [List.foldl_cons, ih, h]

@[simp] theorem rfSfq_postRecord (s : State) (c d : Nat) (r : List Word) : ((s.postRecord c r).core d).rfSfq = (s.core d).rfSfq :=
  rfSfq_modCore _ _ _ fun k => by dsimp only; split <;> rfl

@[simp] theorem rfSfq_pendTrap (s : State) (c gid uid ctx : Nat) (t : Trap) (payload : List Word) (team d : Nat) :
    ((s.pendTrap c gid uid ctx t payload team).core d).rfSfq = (s.core d).rfSfq := by
  unfold pendTrap
  dsimp only
  repeat' split
  all_goals simp

@[simp] theorem rfSfq_wakeFences (s : State) (d : Nat) : (s.wakeFences.core d).rfSfq = (s.core d).rfSfq :=
  rfSfq_foldl (fun s f => by split <;> simp) _ s

end State

namespace State

@[simp] theorem rfSfq_ringReleases (s : State) (c d : Nat) : ((s.ringReleases c).core d).rfSfq = (s.core d).rfSfq := by
  refine rfSfq_foldl (fun s r => ?_) _ s
  unfold tryRelease
  dsimp only
  have herase : ({ s.core c with releases := (s.core c).releases.erase r } : Core).rfSfq = (s.core c).rfSfq := rfl
  generalize ({ s.core c with releases := (s.core c).releases.erase r } : Core) = k at herase ⊢
  split
  · rfl
  · split
    · next k' hk => exact rfSfq_setCore (k := k'.wake _) ((Core.rfSfq_ringGive hk).trans herase) d
    · rw [rfSfq_pendTrap]
      exact rfSfq_setCore (k := (k.ringFlag r.desc 9).wake _) ((Core.rfSfq_ringFlag k r.desc 9).trans herase) d

@[simp] theorem rfSfq_retireEntry (s : State) (c key d : Nat) : ((s.retireEntry c key).core d).rfSfq = (s.core d).rfSfq := by
  unfold retireEntry
  split
  · rfl
  · split
    · rfl
    · extract_lets s1 s2 s3
      have h1 : (s1.core d).rfSfq = (s.core d).rfSfq := rfSfq_modCore _ _ _ fun _ => rfl
      have h2 : (s2.core d).rfSfq = (s1.core d).rfSfq := by
        show ((State.ringReleases _ _).core d).rfSfq = _
        rw [rfSfq_ringReleases, rfSfq_wakeFences]
        exact rfSfq_modCore _ _ _ fun _ => rfl
      have h3 : (s3.core d).rfSfq = (s2.core d).rfSfq := rfSfq_foldl (fun s x => by dsimp only; split <;> simp) _ _
      split <;> simp [h1, h2, h3]

@[simp] theorem rfSfq_syncSfq (s : State) (c d : Nat) : ((s.syncSfq c).core d).rfSfq = (s.core d).rfSfq :=
  rfSfq_modCore _ _ _ fun _ => rfl

/-! Faulting pieces become records behind those of the queue. -/

/-- t has the register file of s on a core, and its store-fault queue with more records behind (R351). -/
def SfqGrows (d : Nat) (s t : State) : Prop := (∃ more, (t.core d).sfq = (s.core d).sfq ++ more) ∧ (t.core d).rf = (s.core d).rf

theorem sfqGrows_of_rfSfq {d : Nat} {s t : State} (h : (t.core d).rfSfq = (s.core d).rfSfq) : SfqGrows d s t :=
  ⟨⟨[], by rw [List.append_nil]; exact congrArg Prod.snd h⟩, congrArg Prod.fst h⟩

theorem SfqGrows.trans {d : Nat} {s t u : State} (h : SfqGrows d s t) (h' : SfqGrows d t u) : SfqGrows d s u := by
  obtain ⟨⟨a, ha⟩, hrf⟩ := h
  obtain ⟨⟨b, hb⟩, hrf'⟩ := h'
  exact ⟨⟨a ++ b, by rw [hb, ha, List.append_assoc]⟩, hrf'.trans hrf⟩

theorem sfqGrows_foldl {α : Type} {f : State → α → State} {d : Nat} (h : ∀ s x, SfqGrows d s (f s x)) (l : List α) (s : State) :
    SfqGrows d s (l.foldl f s) := by
  induction l generalizing s with
  | nil => exact sfqGrows_of_rfSfq rfl
  | cons x t ih => exact (h s x).trans (ih _)

theorem sfqGrows_modCore (s : State) (c d : Nat) {f : Core → Core} (hsfq : ∃ more, (f (s.core c)).sfq = (s.core c).sfq ++ more)
    (hrf : (f (s.core c)).rf = (s.core c).rf) : SfqGrows d s (s.modCore c f) := by
  unfold SfqGrows
  rw [core_modCore]
  split
  · next h => subst h; exact ⟨hsfq, hrf⟩
  · exact ⟨⟨[], (List.append_nil _).symm⟩, rfl⟩

theorem sfqGrows_enterRecord (s : State) (c key page : Nat) (e : SbEntry) (t : Trap) (r : List Byte) (d : Nat) :
    SfqGrows d s (s.enterRecord c key page e t r) := by
  unfold enterRecord
  extract_lets s1
  have h1 : SfqGrows d s s1 := sfqGrows_modCore _ _ _ (by
    dsimp only
    split
    · exact ⟨_, rfl⟩
    · exact ⟨[], (List.append_nil _).symm⟩) rfl
  exact h1.trans (sfqGrows_of_rfSfq (by simp))

theorem sfqGrows_admitFaults (s : State) (c d : Nat) : SfqGrows d s (s.admitFaults c) := by
  unfold admitFaults
  extract_lets room s1
  have h1 : SfqGrows d s s1 :=
    (sfqGrows_modCore _ _ _ ⟨_, rfl⟩ rfl).trans (sfqGrows_of_rfSfq (rfSfq_syncSfq _ _ _))
  refine h1.trans (sfqGrows_foldl (fun s p => sfqGrows_foldl (fun s f => ?_) _ s) _ _)
  dsimp only
  split
  · exact (sfqGrows_enterRecord _ _ _ _ _ _ _ _).trans (sfqGrows_of_rfSfq (rfSfq_retireEntry _ _ _ _))
  · exact sfqGrows_of_rfSfq rfl

end State
end Sys2Proof.Machine
end

section
namespace Sys2Proof.Machine

/-! Threads that a resumed group enters again (R71, R344): no step of it holds one, and the register file stays. -/

/-- Whether a group's trap is escalated, and which of its threads are held. -/
def Group.holds (g : Group) : Bool × List Bool := (g.escalated, g.threads.map (·.held))

theorem Group.holds_onLanes_wait (g : Group) (lanes : Word) (w : Option Wait) :
    (g.onLanes lanes fun _ t => { t with wait := w }).holds = g.holds := by
  unfold Group.holds Group.onLanes
  dsimp only
  congr 1
  refine List.ext_getElem (by simp) fun i _ _ => ?_
  rw [List.getElem_map, List.getElem_map, List.getElem_mapIdx]
  split <;> rfl

/-- The register file and SR.GRESUME. -/
def Core.rfResume (k : Core) : Mem 32 × Word := (k.rf, k.gresume)

@[simp] theorem Core.rfResume_enterOv (k : Core) (ctx id q cc : Nat) : (k.enterOv ctx id q cc).rfResume = k.rfResume := by
  unfold Core.enterOv
  dsimp only
  repeat' split
  all_goals rfl

namespace State

theorem rfResume_modCore (s : State) (c d : Nat) {f : Core → Core} (h : ∀ k, (f k).rfResume = k.rfResume) :
    ((s.modCore c f).core d).rfResume = (s.core d).rfResume := by
  rw [core_modCore]
  split
  · next hd => rw [h, hd]
  · rfl

@[simp] theorem rfResume_modGroup (s : State) (c gid d : Nat) (f : Group → Group) :
    ((s.modGroup c gid f).core d).rfResume = (s.core d).rfResume := rfResume_modCore _ _ _ fun _ => rfl

@[simp] theorem rfResume_postOnce (s : State) (i : Instr) (d : Nat) : ((s.postOnce i).core d).rfResume = (s.core d).rfResume := by
  unfold postOnce
  split <;> rfl

@[simp] theorem rfResume_requestOv (s : State) (c ctx id d : Nat) : ((s.requestOv c ctx id).core d).rfResume = (s.core d).rfResume := by
  unfold requestOv
  extract_lets k0 n0 k1
  split
  · rfl
  · rw [core_post, core_setCore]
    split
    · next h => subst h; rfl
    · rfl

@[simp] theorem rfResume_parkOn (s : State) (c gid : Nat) (lanes : Word) (id : Nat) (w : ParkAt) (d : Nat) :
    ((s.parkOn c gid lanes id w).core d).rfResume = (s.core d).rfResume := by
  unfold parkOn
  dsimp only
  split
  · rfl
  · rw [rfResume_modGroup, ← rfResume_requestOv s c (s.group c gid).ctx id d]
    exact rfResume_modCore _ _ _ fun _ => rfl

theorem holds_parkOn (s : State) (c gid : Nat) (lanes : Word) (id : Nat) (w : ParkAt) :
    ((s.parkOn c gid lanes id w).group? c gid).map Group.holds = (s.group? c gid).map Group.holds := by
  unfold parkOn
  dsimp only
  split
  · rfl
  · rw [group?_modGroup, group?_modCore _ _ _ _ _ (by simp), group?_requestOv, Option.map_map]
    congr 1
    funext g
    exact g.holds_onLanes_wait lanes _

/-- What enterAgain keeps: the held threads of the group and the stores of every core. -/
theorem enterAgain_keeps (s : State) (c gid d : Nat) :
    ((s.enterAgain c gid).group? c gid).map Group.holds = (s.group? c gid).map Group.holds ∧
      ((s.enterAgain c gid).core d).rfResume = (s.core d).rfResume := by
  unfold enterAgain
  extract_lets g _ at_
  clear_value at_ g
  generalize (at_.map fun (t, _) => overlayOf t.pc).dedup = ids
  induction ids generalizing s with
  | nil => exact ⟨rfl, rfl⟩
  | cons id _ ih =>
    rw [List.foldl_cons]
    extract_lets lanes s1 s2
    have hgroup : s2.group? c gid = s.group? c gid :=
      (group?_modCore _ _ _ _ _ (by simp)).trans (group?_requestOv _ _ _ _ _ _)
    have hcore : (s2.core d).rfResume = (s.core d).rfResume :=
      (rfResume_modCore _ _ _ (by simp)).trans (rfResume_requestOv _ _ _ _ _)
    obtain ⟨hg, hc⟩ := ih (s2.parkOn c gid lanes id .start)
    exact ⟨by rw [hg, holds_parkOn, hgroup], by rw [hc, rfResume_parkOn, hcore]⟩

/-- A group whose threads are released and enter their overlays again, with its escalated trap over (R344). -/
def unescalate (s : State) (c gid : Nat) : State :=
  ((s.holdAll c gid false).modGroup c gid fun g => { g with escalated := false }).enterAgain c gid

theorem rfResume_unescalate (s : State) (c gid d : Nat) : ((s.unescalate c gid).core d).rfResume = (s.core d).rfResume :=
  (enterAgain_keeps _ _ _ _).2.trans ((rfResume_modGroup _ _ _ _ _).trans (rfResume_modGroup _ _ _ _ _))

theorem holds_unescalate {s : State} {c gid : Nat} {g : Group} (hg : s.group? c gid = some g) :
    ((s.unescalate c gid).group c gid).escalated = false ∧ ∀ th ∈ ((s.unescalate c gid).group c gid).threads, th.held = false := by
  have hkeep := (enterAgain_keeps ((s.holdAll c gid false).modGroup c gid fun g => { g with escalated := false }) c gid c).1
  have hheld : ((s.holdAll c gid false).modGroup c gid fun g => { g with escalated := false }).group? c gid =
      some { g with escalated := false, threads := g.threads.map fun t => { t with held := false, laneWait := 0, uniWait := 0 } } := by
    rw [group?_modGroup, holdAll, group?_modGroup, hg]
    rfl
  rw [hheld] at hkeep
  obtain ⟨g', hg', hholds⟩ := Option.map_eq_some_iff.1 hkeep
  have hgroup : (s.unescalate c gid).group c gid = g' := by
    unfold unescalate group
    rw [hg']
    rfl
  obtain ⟨hesc, hths⟩ := Prod.ext_iff.1 hholds
  rw [hgroup]
  refine ⟨hesc, fun th hth => ?_⟩
  have hmem : th.held ∈ g'.holds.2 := List.mem_map_of_mem hth
  rw [hths] at hmem
  obtain ⟨u, hu, h⟩ := List.mem_map.1 hmem
  obtain ⟨_, _, rfl⟩ := List.mem_map.1 hu
  exact h.symm

theorem writeGresume_eq (s : State) (c : Nat) (v : Word) : s.writeGresume c v =
    (let s := s.setCore c { s.core c with gresume := v &&& 0x3ff }
     let t := s.unescalate c (v.toNat % 1024)
     if v.getLsbD 31 ∧ (s.group c (v.toNat % 1024)).escalated then
       if t.wantsTrap c (v.toNat % 1024) then t.postOnce (.boundaryTrapTake c (v.toNat % 1024)) else t
     else s) := by
  unfold writeGresume
  rw [wf32_9_0]
  rfl

theorem group?_setResume (s : State) (c gid : Nat) (w : Word) :
    (s.setCore c { s.core c with gresume := w }).group? c gid = s.group? c gid := by
  unfold group?
  rw [core_setCore, if_pos rfl]

theorem rfResume_writeGresume (s : State) (c : Nat) (v : Word) :
    ((s.writeGresume c v).core c).rfResume = ((s.core c).rf, v &&& 0x3ff) := by
  have hset : ((s.setCore c { s.core c with gresume := v &&& 0x3ff }).core c).rfResume = ((s.core c).rf, v &&& 0x3ff) := by
    rw [core_setCore, if_pos rfl]
    rfl
  rw [writeGresume_eq]
  dsimp only
  split
  · split
    · rw [rfResume_postOnce, rfResume_unescalate, hset]
    · rw [rfResume_unescalate, hset]
  · exact hset

theorem writeGresume_idle {s : State} {c : Nat} {v : Word} (h : v.getLsbD 31 = false ∨ (s.group c (v.toNat % 1024)).escalated = false) :
    s.writeGresume c v = s.setCore c { s.core c with gresume := v &&& 0x3ff } := by
  rw [writeGresume_eq]
  refine if_neg fun ⟨hv, he⟩ => ?_
  rw [group, group?_setResume] at he
  rcases h with h | h
  · exact Bool.false_ne_true (h.symm.trans hv)
  · exact Bool.false_ne_true (h.symm.trans he)

theorem writeGresume_escalated {s : State} {c : Nat} {v : Word} (hv : v.getLsbD 31 = true)
    (hg : s.group? c (v.toNat % 1024) ≠ none) (he : (s.group c (v.toNat % 1024)).escalated = true) :
    ((s.writeGresume c v).group c (v.toNat % 1024)).escalated = false ∧
      ∀ th ∈ ((s.writeGresume c v).group c (v.toNat % 1024)).threads, th.held = false := by
  obtain ⟨g, hg⟩ := Option.ne_none_iff_exists'.1 hg
  rw [writeGresume_eq]
  dsimp only
  rw [if_pos ⟨hv, by rwa [group, group?_setResume]⟩]
  have hresume := holds_unescalate ((group?_setResume s c (v.toNat % 1024) (v &&& 0x3ff)).trans hg)
  split
  · rwa [group, group?_postOnce]
  · exact hresume

end State
end Sys2Proof.Machine
end

section
namespace Sys2Proof.Claims
open Host Machine

section
variable {s : State} {x : Ctx}

theorem written_seed (v : Word) : Written s x 0x004 v (s.writeSeed x v) :=
  ⟨genSeed v, rfl, length_genSeed v, fun _ hl => getD_genSeed v hl⟩

theorem head_faultsOf_cons {k : Machine.Core} {uid : Nat} {r : SfRecord} {rs : List SfRecord} (h : k.faultsOf uid = r :: rs) :
    (k.sfq.find? fun r => r.uid == uid) = some r := by
  rw [← head?_faultsOf, h]
  rfl

/-- A record that is popped leaves the queue, and what enters comes behind (R351). -/
theorem popped_sfq (r : SfRecord) :
    let t := ((s.modCore x.core fun k => { k with sfq := k.sfq.erase r }).syncSfq x.core).admitFaults x.core
    (∃ more, (t.core x.core).sfq = (s.core x.core).sfq.erase r ++ more) ∧ (t.core x.core).rf = (s.core x.core).rf := by
  intro t
  have hgrow : State.SfqGrows x.core (s.modCore x.core fun k => { k with sfq := k.sfq.erase r }) t :=
    (State.sfqGrows_of_rfSfq (State.rfSfq_syncSfq _ _ _)).trans (State.sfqGrows_admitFaults _ _ _)
  unfold State.SfqGrows at hgrow
  rw [State.core_modCore_same] at hgrow
  exact hgrow

theorem written_sfpop (v : Word) : Written s x 0x01a v (s.popFault x.core x.g.uid v) := by
  unfold State.popFault
  by_cases hv : v.getLsbD 0 = true
  · rw [if_pos hv]
    refine (if_pos hv).mpr ?_
    cases hf : (s.core x.core).faultsOf x.g.uid with
    | nil =>
      have hnone : ((s.core x.core).sfq.find? fun r => r.uid == x.g.uid) = none := by rw [← head?_faultsOf, hf]; rfl
      rw [hnone]
    | cons r rs =>
      rw [head_faultsOf_cons hf]
      exact popped_sfq r
  · rw [if_neg hv]
    exact (if_neg hv).mpr rfl

theorem written_storeMap (v : Word) : Written s x 0x101 v (s.writeStoreMap x.core v) := by
  have hslots : min (wf32 v 6 0) 64 = Nat.min (v.toNat % 128) 64 := congrArg (Nat.min · 64) (wf32_low v 6)
  unfold State.writeStoreMap
  rw [State.setPool_fst, hslots]
  split
  · next hbusy =>
    refine (if_pos hbusy).mpr ?_
    rfl
  · next hfree =>
    refine (if_neg hfree).mpr ?_
    obtain ⟨poolSlots, poolNext, reclaiming, l1, l1ptr, l1fills, hk, hdone, hwait, hlines⟩ :=
      resized_rest (s.core x.core) (Nat.min (v.toNat % 128) 64)
    exact ⟨poolSlots, poolNext, reclaiming, l1, l1ptr, l1fills, by rw [hk], hdone, hwait, hlines⟩

theorem written_srpop (v : Word) : Written s x 0x104 v (s.popRecord x.core v) := rfl

theorem written_gresume (v : Word) : Written s x 0x105 v (s.writeGresume x.core v) := by
  obtain ⟨hrf, hg⟩ := Prod.ext_iff.1 (State.rfResume_writeGresume s x.core v)
  exact ⟨hg, hrf, State.writeGresume_idle, State.writeGresume_escalated⟩

theorem written_writeSr {n : Nat} (hn : n ∈ writable) (v : Word) : Written s x n v (s.writeSr x n v) := by
  unfold writable at hn
  simp only [List.mem_cons, List.not_mem_nil, or_false] at hn
  rcases hn with rfl | rfl | rfl | rfl | rfl | rfl | rfl | rfl | rfl
  · rfl
  · exact written_seed v
  · rfl
  · exact written_sfpop v
  · rfl
  · exact written_storeMap v
  · exact written_srpop v
  · exact written_gresume v
  · rfl

theorem srWritable_iff (n : Nat) : srWritable n = true ↔ n ∈ writable := List.contains_iff_mem

theorem not_protected {n : Nat} (h : ¬ (0x100 ≤ n ∧ x.gid ≠ supGid)) : ¬ (srSupervisor n = true ∧ x.gid ≠ supGid) :=
  fun ⟨hs, hx⟩ => h ⟨of_decide_eq_true hs, hx⟩

theorem exec_wrsr_protected {n : BitVec 11} {a : SReg} (hr : Runs (.wrsr n a) s x) (h : 0x100 ≤ n.toNat ∧ x.gid ≠ supGid) :
    exec (.wrsr n a) s = .next (protects s x 4) := by
  show execWrsr n a s = _
  unfold execWrsr
  rw [run_of_runs hr, if_pos ⟨decide_eq_true h.1, h.2⟩]
  rfl

theorem exec_wrsr_fixed {n : BitVec 11} {a : SReg} (hr : Runs (.wrsr n a) s x) (h : ¬ (0x100 ≤ n.toNat ∧ x.gid ≠ supGid))
    (hn : n.toNat ∉ writable) : exec (.wrsr n a) s = .next (protects s x 3) := by
  show execWrsr n a s = _
  unfold execWrsr
  rw [run_of_runs hr, if_neg (not_protected h), if_pos (mt (srWritable_iff _).1 hn)]
  rfl

theorem exec_wrsr {n : BitVec 11} {a : SReg} (hr : Runs (.wrsr n a) s x) (h : ¬ (0x100 ≤ n.toNat ∧ x.gid ≠ supGid))
    (hn : n.toNat ∈ writable) : exec (.wrsr n a) s = .next ((s.writeSr x n.toNat (ureg s x a)).advance x) := by
  show execWrsr n a s = _
  unfold execWrsr
  refine run_of_done hr ((if_neg (not_protected h)).trans (if_neg ?_))
  rw [not_not]
  exact (srWritable_iff _).2 hn

theorem asIssuer_eq (hx : s.ctx? = some x) (f : Ctx → State → State) : asIssuer f s = .next (f x s) := by
  unfold asIssuer
  rw [hx]

end

/-- Settles O31: a read returns what R364 lists and clears its counters; a write leaves what its register's fields say. -/
theorem systemRegisters : Obligations.SystemRegisters := by
  refine ⟨fun s x d n hr hs => ⟨exec_rdsr_protected hr, fun v hn hv => ?_⟩, fun s x n a hr _ => ?_,
    fun s x v i n hx _ hi => ?_⟩
  · refine ⟨(s.srClear x n.toNat).writeS x d.toNat v, ?_, srValue_of_registerRead s x hv ▸ exec_rdsr hr hn⟩
    have hwrites := writesUniform_writeS (State.srClear_memWf s x n.toNat hs) x d.toNat v
    generalize n.toNat = m at hwrites ⊢
    split
    · exact hwrites
    · exact hwrites
    · next h8 h9 => rwa [srClear_other h8 h9] at hwrites ⊢
  · intro other
    exact ⟨exec_wrsr_protected hr, exec_wrsr_fixed hr, fun ho hn => ⟨_, exec_wrsr hr ho hn, written_writeSr hn _⟩⟩
  · simp only [List.mem_cons, List.not_mem_nil, or_false, Prod.mk.injEq] at hi
    rcases hi with ⟨rfl, rfl⟩ | ⟨rfl, rfl⟩ | ⟨rfl, rfl⟩ | ⟨rfl, rfl⟩ | ⟨rfl, rfl⟩ | ⟨rfl, rfl⟩
    · exact ⟨_, asIssuer_eq hx fun x s => s.writeArith x v, rfl⟩
    · exact ⟨_, asIssuer_eq hx fun x s => s.writeSeed x v, written_seed v⟩
    · exact ⟨_, asIssuer_eq hx fun x s => s.popFault x.core x.g.uid v, written_sfpop v⟩
    · exact ⟨_, asIssuer_eq hx fun x s => s.writeStoreMap x.core v, written_storeMap v⟩
    · exact ⟨_, asIssuer_eq hx fun x s => s.popRecord x.core v, written_srpop v⟩
    · exact ⟨_, asIssuer_eq hx fun x s => s.writeGresume x.core v, written_gresume v⟩

end Sys2Proof.Claims
end

section
/-! ### The copy engine's steps (R145, R308, R310) -/

namespace Sys2Proof.Machine

theorem wordsUp_le (a left n : Nat) : wordsUp a left n ≤ n := by
  unfold wordsUp
  split <;> omega

theorem wordsUp_aligned {a left n : Nat} (h : wordsUp a left n < left) : (a + wordsUp a left n) % 8 = 0 ∨ wordsUp a left n = 0 := by
  unfold wordsUp at h ⊢
  by_cases hn : left ≤ n
  · rw [if_pos hn] at h
    omega
  · rw [if_neg hn]
    omega

theorem wordsUp_pos {a left n : Nat} (hn : 0 < n) (h : left ≤ n ∨ 8 ≤ n) : 0 < wordsUp a left n := by
  unfold wordsUp
  split <;> omega

theorem wordsDown_le (e left n : Nat) : wordsDown e left n ≤ n := by
  unfold wordsDown
  split <;> omega

theorem wordsDown_aligned {e left n : Nat} (he : n ≤ e) (h : wordsDown e left n < left) :
    (e - wordsDown e left n) % 8 = 0 ∨ wordsDown e left n = 0 := by
  unfold wordsDown at h ⊢
  by_cases hn : left ≤ n
  · rw [if_pos hn] at h
    omega
  · rw [if_neg hn]
    omega

theorem wordsDown_pos {e left n : Nat} (hn : 0 < n) (h : left ≤ n ∨ 8 ≤ n) : 0 < wordsDown e left n := by
  unfold wordsDown
  split <;> omega

/-- A step of a row in the core store of which `rest` bytes are to come, `held` of them held: the bytes read join those held, the
bytes written are the next ones, and they end at a boundary of words unless they are the last (R145, R308). -/
structure CopyMove.Fits (v : CopyMove) (down : Bool) (dst rest done held : Nat) : Prop where
  read : v.read ≤ rest - held
  readAt : v.readAt = if down then rest - held - v.read else done + held
  write : v.write ≤ held + v.read
  writeAt : v.writeAt = if down then rest - v.write else done
  most : v.write ≤ 4096
  moves : 0 < v.write ∨ 0 < v.read
  aligned : v.write < rest → (if down then dst + rest - v.write else dst + done + v.write) % 8 = 0 ∨ v.write = 0

section
variable {d : CopyDesc} (src dst : Nat) {done held : Nat}

theorem moveUp_fits (hs : d.srcGlobal = false) (hd : d.dstGlobal = false) (hdone : done < d.length) :
    (moveUp d src dst done held).Fits false dst (d.length - done) done held := by
  generalize hv : moveUp d src dst done held = v
  have hwrite : v.write = wordsUp (dst + done) (d.length - done) (min 4096 (held + v.read)) := by
    rw [← hv]
    unfold moveUp stepUp
    simp only [hd, Bool.false_eq_true, if_false]
  have hread : v.read = if 0 < wordsUp (dst + done) (d.length - done) (min 4096 held) then 0
      else wordsUp (src + done + held) (d.length - done - held) (min 4096 (d.length - done - held)) := by
    rw [← hv]
    unfold moveUp stepUp
    simp only [hs, hd, Bool.false_eq_true, if_false]
  have hle := wordsUp_le (dst + done) (d.length - done) (min 4096 (held + v.read))
  have hrle := wordsUp_le (src + done + held) (d.length - done - held) (min 4096 (d.length - done - held))
  have hmoves : 0 < v.write ∨ 0 < v.read := by
    split at hread
    · next h => exact .inl (by rwa [hwrite, hread, Nat.add_zero])
    · next h =>
      have hw := wordsUp_pos (a := dst + done) (left := d.length - done) (n := min 4096 held)
      have hr := wordsUp_pos (a := src + done + held) (left := d.length - done - held) (n := min 4096 (d.length - done - held))
      omega
  exact ⟨by split at hread <;> omega, by rw [← hv]; rfl, by omega, by rw [← hv]; rfl, by omega, hmoves,
    fun h => by rw [hwrite] at h ⊢; exact wordsUp_aligned h⟩

theorem moveDown_fits (hs : d.srcGlobal = false) (hd : d.dstGlobal = false) (hdone : done < d.length) (hheld : held ≤ d.length - done) :
    (moveDown d src dst done held).Fits true dst (d.length - done) done held := by
  generalize hv : moveDown d src dst done held = v
  have hwrite : v.write = wordsDown (dst + (d.length - done)) (d.length - done) (min 4096 (held + v.read)) := by
    rw [← hv]
    unfold moveDown stepDown
    simp only [hd, Bool.false_eq_true, if_false]
  have hread : v.read = if 0 < wordsDown (dst + (d.length - done)) (d.length - done) (min 4096 held) then 0
      else wordsDown (src + (d.length - done - held)) (d.length - done - held) (min 4096 (d.length - done - held)) := by
    rw [← hv]
    unfold moveDown stepDown
    simp only [hs, hd, Bool.false_eq_true, if_false]
  have hle := wordsDown_le (dst + (d.length - done)) (d.length - done) (min 4096 (held + v.read))
  have hrle := wordsDown_le (src + (d.length - done - held)) (d.length - done - held) (min 4096 (d.length - done - held))
  have hmoves : 0 < v.write ∨ 0 < v.read := by
    split at hread
    · next h => exact .inl (by rwa [hwrite, hread, Nat.add_zero])
    · next h =>
      have hw := wordsDown_pos (e := dst + (d.length - done)) (left := d.length - done) (n := min 4096 held)
      have hr := wordsDown_pos (e := src + (d.length - done - held)) (left := d.length - done - held) (n := min 4096 (d.length - done - held))
      omega
  have hrest : v.read ≤ d.length - done - held := by split at hread <;> omega
  exact ⟨hrest, by rw [← hv]; rfl, by omega, by rw [← hv]; rfl, by omega, hmoves,
    fun h => by rw [hwrite] at h ⊢; exact wordsDown_aligned (by omega) h⟩

end

/-! The bytes of a step. -/

/-- n bytes of a source from its byte a on. -/
def bytesFrom (source : Nat → Byte) (a n : Nat) : List Byte := (List.range' a n).map source

@[simp] theorem length_bytesFrom (source : Nat → Byte) (a n : Nat) : (bytesFrom source a n).length = n := by
  rw [bytesFrom, List.length_map, List.length_range']

theorem bytesFrom_append (source : Nat → Byte) (a m n : Nat) : bytesFrom source a m ++ bytesFrom source (a + m) n = bytesFrom source a (m + n) := by
  unfold bytesFrom
  rw [← List.map_append, List.range'_append_1]

theorem bytesFrom_append_of_eq (source : Nat → Byte) {a b m : Nat} (n : Nat) (h : b = a + m) :
    bytesFrom source a m ++ bytesFrom source b n = bytesFrom source a (m + n) := h ▸ bytesFrom_append source a m n

theorem take_bytesFrom (source : Nat → Byte) (a : Nat) {m n : Nat} (h : m ≤ n) : (bytesFrom source a n).take m = bytesFrom source a m := by
  rw [← Nat.add_sub_cancel' h, ← bytesFrom_append, List.take_left' (length_bytesFrom _ _ _)]

theorem drop_bytesFrom (source : Nat → Byte) (a : Nat) {m n : Nat} (h : m ≤ n) : (bytesFrom source a n).drop m = bytesFrom source (a + m) (n - m) := by
  conv_lhs => rw [← Nat.add_sub_cancel' h, ← bytesFrom_append, List.drop_left' (length_bytesFrom _ _ _)]

theorem getD_bytesFrom (source : Nat → Byte) (a n i : Nat) (b : Byte) : (bytesFrom source a n).getD i b = if i < n then source (a + i) else b := by
  unfold bytesFrom
  rw [List.getD_eq_getElem?_getD, List.getElem?_map]
  split
  · next h => rw [List.getElem?_range' h, Nat.one_mul]; rfl
  · next h => rw [List.getElem?_eq_none (by rw [List.length_range']; omega)]; rfl

theorem eq_bytesFrom {bs : List Byte} {source : Nat → Byte} {a : Nat} (h : ∀ j < bs.length, bs.getD j 0 = source (a + j)) :
    bs = bytesFrom source a bs.length := by
  refine List.ext_getElem (length_bytesFrom _ _ _).symm fun j hj _ => ?_
  have hb := h j hj
  have hs := getD_bytesFrom source a bs.length j 0
  rw [if_pos hj] at hs
  rw [List.getD_eq_getElem _ _ hj] at hb
  rw [List.getD_eq_getElem _ _ (by rwa [length_bytesFrom])] at hs
  rw [hb, hs]

theorem readStore_eq_bytesFrom (k : Core) (base a n : Nat) :
    k.readStore (base + a) n = bytesFrom (fun j => Mem.get (n := 8) k.store (base + j)) a n := by
  unfold Core.readStore Mem.read bytesFrom
  rw [List.range'_eq_map_range, List.map_map]
  refine List.map_congr_left fun i _ => ?_
  dsimp only [Function.comp]
  rw [Nat.add_assoc]

end Sys2Proof.Machine
end

section
namespace Sys2Proof.Machine

/-- The bytes that a step has of a row, in the order of their places: those that it reads, and those held. -/
def gathered (down : Bool) (read carry : List Byte) : List Byte := if down then read ++ carry else carry ++ read
/-- Of them, the m that it writes, and those that it holds. -/
def written (down : Bool) (h : List Byte) (m : Nat) : List Byte := if down then h.drop (h.length - m) else h.take m
def kept (down : Bool) (h : List Byte) (m : Nat) : List Byte := if down then h.take (h.length - m) else h.drop m

section
variable {v : CopyMove} {down : Bool} {dst rest done : Nat} {source : Nat → Byte} {carry : List Byte}

/-- The bytes that a step has are consecutive ones of the source: from `done` up, or up to `rest`. -/
theorem gathered_eq_bytesFrom (hv : v.Fits down dst rest done carry.length) (hheld : carry.length ≤ rest)
    (hcarry : ∀ j < carry.length, carry.getD j 0 = source (if down then rest - carry.length + j else done + j)) :
    gathered down (bytesFrom source v.readAt v.read) carry =
      bytesFrom source (if down then rest - carry.length - v.read else done) (carry.length + v.read) := by
  have hread := hv.read
  rw [hv.readAt]
  unfold gathered
  cases down with
  | false =>
    have hbytes : carry = bytesFrom source done carry.length := eq_bytesFrom hcarry
    exact (congrArg (· ++ _) hbytes).trans (bytesFrom_append source done _ _)
  | true =>
    have hbytes : carry = bytesFrom source (rest - carry.length) carry.length := eq_bytesFrom hcarry
    refine (congrArg (_ ++ ·) hbytes).trans ((bytesFrom_append_of_eq source _ ?_).trans (congrArg (bytesFrom source _) (Nat.add_comm _ _)))
    simp only [if_true]
    omega

theorem written_eq_bytesFrom (hv : v.Fits down dst rest done carry.length) (hheld : carry.length ≤ rest)
    (hcarry : ∀ j < carry.length, carry.getD j 0 = source (if down then rest - carry.length + j else done + j)) :
    written down (gathered down (bytesFrom source v.readAt v.read) carry) v.write =
      bytesFrom source (if down then rest - v.write else done) v.write := by
  have hread := hv.read
  have hwrite := hv.write
  rw [gathered_eq_bytesFrom hv hheld hcarry]
  unfold written
  cases down with
  | false => exact take_bytesFrom _ _ hwrite
  | true =>
    simp only [if_true]
    rw [length_bytesFrom, drop_bytesFrom _ _ (by omega)]
    congr 1 <;> omega

theorem length_kept (read carry : List Byte) (m : Nat) (hm : m ≤ carry.length + read.length) :
    (kept down (gathered down read carry) m).length = carry.length + read.length - m := by
  unfold kept gathered
  cases down with
  | false => simp
  | true => simp; omega

end

theorem EngAcc.ite_ok (p : Prop) [Decidable p] (s t : State) (a b : List Byte) :
    (if p then EngAcc.ok s a else .ok t b) = .ok (if p then s else t) (if p then a else b) := by
  split <;> rfl

namespace State

theorem engRead_local {s : State} {c : Nat} (h : (s.core c).storePoison = []) (eng ctx : Nat) (who : Instr) (base addr n : Nat) :
    s.engRead c eng ctx who false base addr n = .ok s ((s.core c).readStore (base + addr) n) := by
  have hbad : (s.core c).storeBad (base + addr) n = false := by rw [Core.storeBad, h]; rfl
  unfold engRead
  rw [if_pos (by simp), hbad]
  rfl

theorem engWrite_local (s : State) (c eng ctx uid : Nat) (who : Instr) (n base addr : Nat) (bs : List Byte) :
    s.engWrite c eng ctx uid who n false base addr bs = .ok (s.modCore c fun k => k.writeStore (base + addr) bs) [] := rfl

/-- The bytes that a copy of the core store has read and holds at a step. -/
def copyBytes (s : State) (c base src : Nat) (q : Cmd) (down : Bool) (v : CopyMove) : List Byte :=
  gathered down (if v.read = 0 then [] else (s.core c).readStore (base + (src + v.readAt)) v.read) q.carry

/-- A step of a copy within the core store, from the row's first source and destination byte (R308, R310). -/
def copied (s : State) (c n base src dst : Nat) (q : Cmd) (down : Bool) (v : CopyMove) : State :=
  let h := s.copyBytes c base src q down v
  ((if v.write = 0 then s else s.modCore c fun k => k.writeStore (base + (dst + v.writeAt)) (written down h v.write)).modCmd c n
    fun y => { y with carry := kept down h v.write, progress := q.progress + v.write }).post (.copyStep c n)

theorem exec_copyStep_local {s : State} {c n : Nat} {q : Cmd} (hq : s.cmd? c n = some q) (hactive : q.state = .active)
    (hmajor : q.major = 0x60) {d : CopyDesc} (hd : copyDesc false q.block = d) (hdone : q.progress < d.length)
    (hs : d.srcGlobal = false) (hdst : d.dstGlobal = false) (hpoison : (s.core c).storePoison = []) {down : Bool}
    (hdown : down = decide (d.srcAt 0 < d.dstAt 0 ∧ d.dstAt 0 < d.srcAt 0 + d.length)) :
    exec (.copyStep c n) s = .next (s.copied c n (s.cmdSpan c q).1 (d.srcAt 0) (d.dstAt 0) q down
      (if down then moveDown d (d.srcAt 0) (d.dstAt 0) q.progress q.carry.length
        else moveUp d (d.srcAt 0) (d.dstAt 0) q.progress q.carry.length)) := by
  show execCopyStep c n s = _
  unfold execCopyStep
  rw [hq]
  have hslice : (q.major = 0x61) = False := by rw [hmajor]; decide
  simp only [hactive, ne_eq, not_true_eq_false, if_false, hslice, decide_false, hd, not_le.2 hdone, hs, hdst, true_and,
    engRead_local hpoison, engWrite_local, List.splitAt_eq, EngAcc.ite_ok, ite_self]
  unfold copied copyBytes gathered written kept
  subst hdown
  by_cases hdir : d.srcAt 0 < d.dstAt 0 ∧ d.dstAt 0 < d.srcAt 0 + d.length
  · simp only [hdir, and_self, decide_true, if_true]
  · simp only [hdir, decide_false, Bool.false_eq_true, if_false]

end State
end Sys2Proof.Machine
end

section
namespace Sys2Proof.Machine.State

/-! ### Commands of the queue -/

@[simp] theorem cmd?_modCmd (s : State) (c n : Nat) (f : Cmd → Cmd) : (s.modCmd c n f).cmd? c n = (s.cmd? c n).map f := by
  unfold cmd? modCmd
  rw [core_modCore_same, AMap.look_upd, if_pos rfl]

@[simp] theorem storage_modCmd (s : State) (c n d : Nat) (f : Cmd → Cmd) : ((s.modCmd c n f).core d).storage = (s.core d).storage :=
  storage_modCore _ _ _ _ fun _ => rfl

/-! ### A step of a copy within the core store -/

/-- A step's write of the core store: of no byte, it writes nothing. -/
def putRow (s : State) (c a : Nat) (bs : List Byte) : State := if bs.length = 0 then s else s.modCore c fun k => k.writeStore a bs

theorem cmd?_putRow (s : State) (c a n : Nat) (bs : List Byte) : (s.putRow c a bs).cmd? c n = s.cmd? c n := by
  unfold putRow
  split
  · rfl
  · unfold cmd?
    rw [core_modCore_same]
    rfl

theorem rf_putRow (s : State) (c a : Nat) (bs : List Byte) : ((s.putRow c a bs).core c).rf = (s.core c).rf := by
  unfold putRow
  split
  · rfl
  · rw [core_modCore_same]
    rfl

theorem get_putRow {s : State} (hs : s.memWf = true) (c a : Nat) (bs : List Byte) (b : Nat) :
    Mem.get (n := 8) ((s.putRow c a bs).core c).store b =
      if a ≤ b ∧ b < a + bs.length then bs.getD (b - a) 0 else Mem.get (n := 8) (s.core c).store b := by
  unfold putRow
  split
  · next h => rw [if_neg (by omega)]
  · rw [core_modCore_same]
    show Mem.get (n := 8) (Mem.write (n := 8) (s.core c).store a bs) b = _
    by_cases hb : a ≤ b ∧ b < a + bs.length
    · have hin : b - a < bs.length := by omega
      rw [if_pos hb, Mem.get_write (Core.store_wf (State.core_memWf hs _)), if_pos hb.1, List.getD_eq_getElem _ _ hin,
        List.getD_eq_getElem _ _ hin]
    · rw [if_neg hb, Mem.get_write_other (Core.store_wf (State.core_memWf hs _)) (by omega)]

section
variable {s : State} {c n base src dst rest : Nat} {q : Cmd} {down : Bool} {v : CopyMove}

theorem copyBytes_eq : s.copyBytes c base src q down v =
    gathered down (bytesFrom (fun j => Mem.get (n := 8) (s.core c).store (base + src + j)) v.readAt v.read) q.carry := by
  unfold copyBytes
  congr 1
  split
  · next h => rw [h]; rfl
  · rw [← readStore_eq_bytesFrom, Nat.add_assoc]

theorem copied_eq (hv : v.Fits down dst rest q.progress q.carry.length) (hheld : q.carry.length ≤ rest)
    (hcarry : ∀ j < q.carry.length, q.carry.getD j 0 =
      Mem.get (n := 8) (s.core c).store (base + src + if down then rest - q.carry.length + j else q.progress + j)) :
    s.copied c n base src dst q down v =
      ((s.putRow c (base + dst + if down then rest - v.write else q.progress)
          (bytesFrom (fun j => Mem.get (n := 8) (s.core c).store (base + src + j)) (if down then rest - v.write else q.progress) v.write)).modCmd
        c n fun y => { y with carry := kept down (s.copyBytes c base src q down v) v.write,
                              progress := q.progress + v.write }).post (.copyStep c n) := by
  unfold copied putRow
  dsimp only
  rw [copyBytes_eq, written_eq_bytesFrom hv hheld hcarry, length_bytesFrom, hv.writeAt, Nat.add_assoc]

end
end Sys2Proof.Machine.State

namespace Sys2Proof.Claims
open Host Machine

/-- What a step of a copy within the core store leaves (R308, R310): it moves m bytes. -/
theorem copied_spec {s : State} {c n base src dst rest : Nat} {q : Cmd} {down : Bool} {v : CopyMove} (hs : s.memWf = true)
    (hq : s.cmd? c n = some q) (hv : v.Fits down dst rest q.progress q.carry.length) (hheld : q.carry.length ≤ rest)
    (hcarry : ∀ j < q.carry.length, q.carry.getD j 0 =
      Mem.get (n := 8) (s.core c).store (base + src + if down then rest - q.carry.length + j else q.progress + j)) :
    ∃ (t : State) (q' : Cmd) (m : Nat), s.copied c n base src dst q down v = t ∧ t.cmd? c n = some q' ∧
      { q' with carry := q.carry } = { q with progress := q.progress + m } ∧ m ≤ 4096 ∧ m ≤ rest ∧
      (0 < m ∨ q.carry.length < q'.carry.length) ∧
      (m < rest → (if down then dst + rest - m else dst + q.progress + m) % 8 = 0 ∨ m = 0) ∧
      Instr.copyStep c n ∈ t.agenda ∧ (t.core c).rf = (s.core c).rf ∧
      ∀ a, Mem.get (n := 8) (t.core c).store a =
        if base + dst + (if down then rest - m else q.progress) ≤ a ∧ a < base + dst + (if down then rest - m else q.progress) + m
        then Mem.get (n := 8) (s.core c).store (base + src + (a - (base + dst)))
        else Mem.get (n := 8) (s.core c).store a := by
  have hread := hv.read
  have hwrite := hv.write
  have hmoves := hv.moves
  refine ⟨_, { q with carry := kept down (s.copyBytes c base src q down v) v.write, progress := q.progress + v.write }, v.write,
    State.copied_eq hv hheld hcarry, ?_, rfl, hv.most, by omega, ?_, hv.aligned, List.mem_append_right _ (List.mem_singleton.2 rfl), ?_,
    fun a => ?_⟩
  · exact (State.cmd?_modCmd _ c n _).trans (by rw [State.cmd?_putRow, hq]; rfl)
  · rcases Nat.eq_zero_or_pos v.write with h | h
    · refine .inr ?_
      show q.carry.length < (kept down (s.copyBytes c base src q down v) v.write).length
      rw [State.copyBytes_eq, length_kept _ _ _ (by rwa [length_bytesFrom]), length_bytesFrom]
      omega
    · exact .inl h
  · exact (congrArg Prod.fst (State.storage_modCmd _ c n c _)).trans (State.rf_putRow _ _ _ _)
  · have hstore (t : State) (f : Cmd → Cmd) : (((t.modCmd c n f).post (.copyStep c n)).core c).store = (t.core c).store :=
      congrArg (·.2.2.1) (State.storage_modCmd t c n c f)
    rw [hstore, State.get_putRow hs, length_bytesFrom]
    generalize (if down = true then rest - v.write else q.progress) = first
    split
    · next ha =>
      rw [getD_bytesFrom, if_pos (by omega)]
      congr 1
      omega
    · rfl

end Sys2Proof.Claims
end

section
namespace Sys2Proof.Claims
open Host Machine

section
variable {s : State} {c n : Nat} {q : Cmd}

theorem engineRoom_zero (eng : Nat) : engineRoom eng 0 = true := by
  unfold engineRoom
  split <;> rfl

/-- The one command of an engine queue, whose conditions hold, starts (R305, R307). -/
theorem exec_take_single (h : (s.core c).eq = [(n, q)]) (hqueued : q.state = .queued)
    (hsaving : ((s.core c).teams.look q.team).any (·.saving) = false) (hmet : s.unmet c n q = 0)
    (hnoted : (s.modCmd c n fun q => { q with cond := 0 }).unmet c n q = 0) :
    exec (.engineTakeCommand c (engineOf q.major)) s =
      .next ((if q.acq ∧ ¬ q.acquired then (s.modCmd c n fun q => { q with cond := 0 }).acquire c q.scope
        else s.modCmd c n fun q => { q with cond := 0 }).startCmd c n q) := by
  show execEngineTakeCommand c (engineOf q.major) s = _
  unfold execEngineTakeCommand
  have hroom : engineRoom (engineOf q.major) ([] : AMap Cmd).length = true := engineRoom_zero _
  simp only [h, List.filter_cons, List.filter_nil, beq_self_eq_true, if_true, hqueued, hsaving, decide_true, Bool.not_false,
    Bool.and_self, List.foldl_cons, List.foldl_nil, hmet, List.isEmpty_cons, Bool.false_eq_true, if_false, ne_eq, not_true_eq_false,
    decide_false, List.find?_cons, hnoted, List.length_singleton, hroom]

theorem any_eq_false_of_waits {mine : List (Nat × Cmd)}
    (h : ∀ p ∈ mine, if p.2.state = .queued then s.unmet c p.1 p.2 ≠ 0 else p.2.cond ≠ 0) :
    (mine.any fun p => if p.2.state = .queued then s.unmet c p.1 p.2 == 0 else p.2.cond == 0) = false := by
  rw [List.any_eq_false]
  intro p hp
  have hw := h p hp
  split at hw
  · next hs => simpa [hs] using hw
  · next hs => simpa [hs] using hw

/-- A stalled bundle whose commands all wait takes cause 9 (R305). -/
theorem exec_selfWait {gid : Nat} {th : Thread} {l : Nat}
    (hhead : ((s.group c gid).threads.zipIdx.filter fun p => p.1.live && !p.1.held && p.1.wait == some Wait.engine).head? = some (th, l))
    (hmine : ∀ p ∈ (s.core c).eq.filter fun p => p.2.uid = (s.group c gid).uid,
      if p.2.state = .queued then s.unmet c p.1 p.2 ≠ 0 else p.2.cond ≠ 0) :
    exec (.engineSelfWait c gid) s = .next (s.takeTrap c gid
      { mkTrap 9 ((s.core c).eq.filter fun p => p.2.uid = (s.group c gid).uid).length with
        pc := th.pc
        lanes := maskOf ((((s.group c gid).threads.zipIdx.filter fun p => p.1.live && !p.1.held && p.1.wait == some Wait.engine).filter
          fun p => p.1.pc == th.pc).map (·.2)) }
      (maskOf ((((s.group c gid).threads.zipIdx.filter fun p => p.1.live && !p.1.held && p.1.wait == some Wait.engine).filter
          fun p => p.1.pc == th.pc).map (·.2))) true fun _ => th.pc) := by
  show execEngineSelfWait c gid s = _
  unfold execEngineSelfWait
  dsimp only
  rw [hhead]
  dsimp only
  rw [any_eq_false_of_waits hmine]
  rfl

/-! Transfer records (R311). -/

theorem exec_record_end (r : HostEnd) (hq : s.cmd? c n = some q) (hactive : q.state = .active) (h : bytesAt q.block 4 4 ≤ q.recIndex) :
    exec (.transferRecord c n r) s = .next (s.endCmd c n) := by
  show execTransferRecord c n r s = _
  unfold execTransferRecord
  simp only [hq, hactive, reduceCtorEq, if_false, ne_eq, not_true_eq_false, h, if_true]

/-- The record that a CHAIN has reached: read, or held from an earlier step (R311). -/
def recordRead (s : State) (c n : Nat) (q : Cmd) : EngAcc :=
  if q.record.isEmpty then
    s.engRead c 0 q.ctx (.transferRecord c n (.ok [])) ((bytesAt q.block 0 4).testBit 30) (s.cmdSpan c q).1
      (bytesAt q.block 8 8 + 32 * q.recIndex) 32
  else .ok s q.record

/-- A record that is there is moved; one with a field out of range ends the command with code 1 (R311, R312). -/
theorem exec_record {u : State} {b : List Byte} (r : HostEnd) (hq : s.cmd? c n = some q) (hactive : q.state = .active)
    (hasked : q.asked = false) (h : q.recIndex < bytesAt q.block 4 4) (hread : recordRead s c n q = .ok u b) (hu : u.cmd? c n = some q) :
    exec (.transferRecord c n r) s = .next ((recordOf (s.cmdSpan c q).2 b).elim
      ((u.modCmd c n fun q => { q with record := b }).endCmd c n 1 5)
      ((u.modCmd c n fun q => { q with record := b }).recordStep c n { q with record := b })) := by
  have hv : (u.modCmd c n fun q => { q with record := b }).cmd? c n = some { q with record := b } := by
    rw [State.cmd?_modCmd, hu]
    rfl
  show execTransferRecord c n r s = _
  unfold recordRead at hread
  unfold execTransferRecord
  simp only [hq, hactive, reduceCtorEq, if_false, ne_eq, not_true_eq_false, not_le.2 h, hasked, hread, hv]
  cases recordOf (s.cmdSpan c q).2 b <;> rfl

end
end Sys2Proof.Claims
end

section
namespace Sys2Proof.Claims
open Host Machine

section
variable {s : State} {c n : Nat} {q : Cmd}

/-- A window write of a command that was turned away, or discarded on a path (R131). -/
def windowLost (s : State) (c n : Nat) (q : Cmd) : Prop :=
  q.window = true ∨ ∃ y ∈ s.sequenced, y.client = .cmd c n ∧ y.bad ≠ none

/-- A late report changes the outcome of a command, and no more of what its completion goes by. -/
theorem lateWindow_rest (s : State) (c n : Nat) (q : Cmd) (code : Nat) :
    ∃ outcome cause addr resp, s.lateWindow c n q code = { q with outcome, cause, addr, resp } := by
  unfold State.lateWindow
  repeat' split
  all_goals exact ⟨_, _, _, _, rfl⟩

theorem find_lost_eq_none (h : ¬ windowLost s c n q) :
    (s.sequenced.find? fun x => x.client == .cmd c n && x.bad.isSome) = none := by
  rw [List.find?_eq_none]
  intro y hy hbad
  rw [Bool.and_eq_true, beq_iff_eq] at hbad
  exact h (.inr ⟨y, hy, hbad.1, Option.isSome_iff_ne_none.1 hbad.2⟩)

theorem lateWindow_same (code : Nat) (h : q.outcome ≠ 0 ∨ ¬ windowLost s c n q) : s.lateWindow c n q code = q := by
  unfold State.lateWindow
  by_cases hout : q.outcome = 0
  · have hlost := h.resolve_left (not_not.2 hout)
    have hwindow : q.window = false := by
      rw [← Bool.not_eq_true]
      exact fun hw => hlost (.inl hw)
    rw [if_neg (not_not.2 hout), find_lost_eq_none hlost, hwindow]
    rfl
  · rw [if_pos hout]

theorem lateWindow_lost (code : Nat) (hout : q.outcome = 0) (h : windowLost s c n q) :
    (s.lateWindow c n q code).outcome = code ∧ (s.lateWindow c n q code).cause = 0x10 := by
  unfold State.lateWindow
  rw [if_neg (not_not.2 hout)]
  cases hbad : (s.sequenced.find? fun x => x.client == .cmd c n && x.bad.isSome).bind (·.bad) with
  | some _ => exact ⟨rfl, rfl⟩
  | none =>
    have hwindow : q.window = true := h.resolve_right fun ⟨y, hy, hclient, hne⟩ => by
      have hfound : (s.sequenced.find? fun x => x.client == .cmd c n && x.bad.isSome).isSome = true := by
        rw [List.find?_isSome]
        exact ⟨y, hy, by simp [hclient, Option.isSome_iff_ne_none.2 hne]⟩
      obtain ⟨z, hz⟩ := Option.isSome_iff_exists.1 hfound
      rw [hz] at hbad
      have hsome := List.find?_some hz
      simp only [Option.bind_some] at hbad
      simp [hbad] at hsome
    dsimp only
    rw [if_pos hwindow]
    exact ⟨rfl, rfl⟩

/-- A command's last status and its status and progress words in the core store (R312). -/
def statusOut (s : State) (c n : Nat) (q late : Cmd) : State :=
  (s.modCore c fun k => { k with eq := k.eq.put n late }).modCore c fun k =>
    (k.writeStore ((s.cmdSpan c q).1 + q.desc + 52) (leBytes 4 late.outcome)).writeStore ((s.cmdSpan c q).1 + q.desc + 56)
      (leBytes 8 q.progress)

theorem exec_copyComplete (hq : s.cmd? c n = some q) (hcommitted : q.state = .committed) (hopen : s.windowOpen c n q.rel = false)
    (hasked : q.asked = false) (hmajor : q.major ≠ 0x62) :
    exec (.copyComplete c n) s =
      .next ((statusOut s c n q (s.lateWindow c n q 4)).copySignal c n (s.lateWindow c n q 4)) := by
  obtain ⟨outcome, cause, addr, resp, hlate⟩ := lateWindow_rest s c n q 4
  show execCopyComplete c n s = _
  unfold execCopyComplete statusOut
  rw [hlate]
  simp only [hq, hcommitted, ne_eq, not_true_eq_false, hopen, hasked, Bool.false_eq_true, or_self, if_false, hmajor, false_and, hlate, Nat.mul_zero, Nat.add_zero]

theorem cmdSpan_statusOut (late : Cmd) (y : Cmd) : (statusOut s c n q late).cmdSpan c y = s.cmdSpan c y := by
  unfold State.cmdSpan State.team statusOut
  rw [State.core_modCore_same, State.core_modCore_same]
  rfl

/-- The signal of a copy counts at its counter (R309, R312). -/
theorem copySignal_counter {late : Cmd} (hlate : late.block = q.block ∧ late.ctr = q.ctr ∧ late.team = q.team ∧ late.gid = q.gid)
    (h : (bytesAt q.block 0 4).testBit 26 = false) (t : State) :
    t.copySignal c n late = (t.bumpCounter c ((t.cmdSpan c q).1 + q.ctr)).finishCmd c n := by
  obtain ⟨hblock, hctr, hteam, hgid⟩ := hlate
  unfold State.copySignal State.cmdSpan
  dsimp only
  rw [hblock, h, hctr, hteam, hgid]
  exact if_neg Bool.false_ne_true

/-- The signal of a copy with `done_ring` publishes a slot of its ring (R309, R50). -/
theorem copySignal_ring {late : Cmd} {k : Machine.Core} {t : State}
    (hlate : late.block = q.block ∧ late.ctr = q.ctr ∧ late.team = q.team ∧ late.gid = q.gid)
    (h : (bytesAt q.block 0 4).testBit 26 = true) (haligned : q.ctr % 32 = 0) (hin : q.ctr + 32 ≤ (t.cmdSpan c q).2)
    (hvalid : ringValid ((t.core c).ringQ ((t.cmdSpan c q).1 + q.ctr) 0) (t.cmdSpan c q).2 = true)
    (hgive : (t.core c).ringGive ((t.cmdSpan c q).1 + q.ctr) ((t.core c).ringQ ((t.cmdSpan c q).1 + q.ctr) 0) 1 false = some k) :
    t.copySignal c n late = (t.setCore c k).finishCmd c n := by
  obtain ⟨hblock, hctr, hteam, hgid⟩ := hlate
  unfold State.cmdSpan at hin hvalid hgive
  unfold State.copySignal State.cmdSpan
  dsimp only
  rw [hblock, h, hctr, hteam, hgid, if_pos rfl, hvalid, if_neg (by simp [haligned, not_lt.2 hin]), hgive]

end

theorem exec_copyStep_end {s : State} {c n : Nat} {q : Cmd} (hq : s.cmd? c n = some q) (hactive : q.state = .active)
    (hmajor : q.major = 0x60) (hdone : (copyDesc false q.block).length ≤ q.progress) :
    exec (.copyStep c n) s = .next (s.endCmd c n) := by
  have hslice : (q.major = 0x61) = False := by rw [hmajor]; decide
  show execCopyStep c n s = _
  unfold execCopyStep
  simp only [hq, hactive, ne_eq, not_true_eq_false, if_false, hslice, decide_false, hdone, if_true]

/-- Settles O44: what an engine takes, moves and reports, clause by clause. -/
theorem copySteps : Obligations.CopySteps := by
  refine ⟨fun s c eng n q heq heng hqueued hsaving => ?_, fun s c gid th l => ?_, fun s c n q hq hactive hmajor => ?_,
    fun s c n q r hq hactive hasked => ?_, fun s c n q hq hcommitted hopen hasked hmajor => ?_⟩
  · intro u hmet hnoted
    subst heng
    exact exec_take_single heq hqueued hsaving hmet hnoted
  · intro k g stalled mine lanes hhead hmine
    exact exec_selfWait hhead hmine
  · intro d base
    refine ⟨fun hdone => ?_, fun hdone hs hd hpoison hwf => ?_⟩
    · exact exec_copyStep_end hq hactive hmajor hdone
    · intro rest held down source hheld hcarry
      have hstep := State.exec_copyStep_local hq hactive hmajor rfl hdone hs hd hpoison rfl
      have hfits : (if decide down then moveDown d (d.srcAt 0) (d.dstAt 0) q.progress held
          else moveUp d (d.srcAt 0) (d.dstAt 0) q.progress held).Fits (decide down) (d.dstAt 0) rest q.progress held := by
        by_cases hdir : down
        · rw [decide_eq_true hdir, if_pos rfl]
          exact moveDown_fits _ _ hs hd hdone hheld
        · rw [decide_eq_false hdir, if_neg Bool.false_ne_true]
          exact moveUp_fits _ _ hs hd hdone
      obtain ⟨t, q', m, ht, hspec⟩ := copied_spec (base := base) (src := d.srcAt 0) hwf hq hfits hheld (by simpa using hcarry)
      rw [ht] at hstep
      exact ⟨t, q', m, hstep, by simpa only [decide_eq_true_eq] using hspec⟩
  · intro at_ limit
    refine ⟨exec_record_end r hq hactive, fun u b y h hread hu => ?_⟩
    have hthere : recordRead s c n q = .ok u b := by
      unfold recordRead
      by_cases hrecord : q.record = []
      · rw [if_pos hrecord] at hread
        rw [hrecord]
        exact hread
      · rw [if_neg hrecord] at hread
        rw [List.isEmpty_eq_false_iff.2 hrecord, hread.1, hread.2]
        rfl
    have hexec := exec_record r hq hactive hasked h hthere hu
    refine ⟨fun hsome => ?_, fun hnone => ?_⟩
    · rw [hexec, hsome]
      rfl
    · rw [hexec, hnone]
      rfl
  · obtain ⟨outcome, cause, addr, resp, hlate⟩ := lateWindow_rest s c n q 4
    intro desc ring late lost out
    have hspan : out.cmdSpan c q = s.cmdSpan c q := cmdSpan_statusOut late q
    have hrest : late.block = q.block ∧ late.ctr = q.ctr ∧ late.team = q.team ∧ late.gid = q.gid := by
      rw [show late = _ from hlate]
      exact ⟨rfl, rfl, rfl, rfl⟩
    refine ⟨lateWindow_same 4, lateWindow_lost 4, exec_copyComplete hq hcommitted hopen hasked hmajor, fun hbit => ?_,
      fun k hbit haligned hin hvalid hgive => ?_⟩
    · exact (copySignal_counter hrest hbit out).trans (by rw [hspan])
    · exact copySignal_ring hrest hbit haligned (hspan ▸ hin) (hspan ▸ hvalid) (hspan ▸ hgive)

end Sys2Proof.Claims
end

section
/-! What an access of memory at its home slice leaves alone: all but the memories, the cores, the dies and the agenda. -/

namespace Sys2Proof.Machine.State

/-- The state but for its memories, cores, dies and agenda, and the block barriers' waits. -/
def rest (s : State) : State :=
  { s with hbm := [], hbmPoison := [], cap := [], capPoison := [], cores := [], dies := [], agenda := [], blockWaits := [] }

@[simp] theorem rest_setCore (s : State) (c : Nat) (k : Core) : (s.setCore c k).rest = s.rest := rfl
@[simp] theorem rest_modCore (s : State) (c : Nat) (f : Core → Core) : (s.modCore c f).rest = s.rest := rfl
@[simp] theorem rest_modGroup (s : State) (c gid : Nat) (f : Group → Group) : (s.modGroup c gid f).rest = s.rest := rfl
@[simp] theorem rest_modDie (s : State) (d : Nat) (f : Die → Die) : (s.modDie d f).rest = s.rest := rfl
@[simp] theorem rest_setSlice (s : State) (d sl : Nat) (x : Slice) : (s.setSlice d sl x).rest = s.rest := rfl
@[simp] theorem rest_post (s : State) (i : Instr) : (s.post i).rest = s.rest := rfl
@[simp] theorem rest_postRecord (s : State) (c : Nat) (r : List Word) : (s.postRecord c r).rest = s.rest := rfl
@[simp] theorem rest_syncSfq (s : State) (c : Nat) : (s.syncSfq c).rest = s.rest := rfl
@[simp] theorem rest_dropAtom (s : State) (c op lane : Nat) : (s.dropAtom c op lane).rest = s.rest := rfl

@[simp] theorem rest_postOnce (s : State) (i : Instr) : (s.postOnce i).rest = s.rest := by
  unfold postOnce
  split <;> rfl

theorem rest_foldl {α : Type} {f : State → α → State} (hf : ∀ s a, (f s a).rest = s.rest) (l : List α) (s : State) :
    (l.foldl f s).rest = s.rest := by
  induction l generalizing s with
  | nil => rfl
  | cons a t ih => rw [List.foldl_cons, ih, hf]

/-! ### Lines of a slice -/

@[simp] theorem rest_rawPut (s : State) (h : Home) (i : Nat) (b : Byte) (bad : Bool) : (s.rawPut h i b bad).rest = s.rest := by
  unfold rawPut
  split <;> rfl

@[simp] theorem rest_writeBack (s : State) (d : Nat) (l : SLine) : (s.writeBack d l).rest = s.rest := by
  unfold writeBack
  refine rest_foldl (fun s p => ?_) _ s
  dsimp only
  split
  case h_1 | h_2 => rfl
  all_goals
    refine rest_foldl (fun s i => ?_) _ s
    split
    · exact rest_rawPut _ _ _ _ _
    · rfl

@[simp] theorem rest_touchLine (s : State) (h : Home) : (s.touchLine h).rest = s.rest := by
  unfold touchLine
  dsimp only
  split <;> rfl

@[simp] theorem rest_putSector (s : State) (h : Home) (q : Sector) : (s.putSector h q).rest = s.rest := by
  unfold putSector
  dsimp only
  rw [rest_setSlice]
  repeat' split
  all_goals simp

@[simp] theorem rest_fillSector (s : State) (h : Home) : (s.fillSector h).rest = s.rest := by
  unfold fillSector
  dsimp only
  split
  · rfl
  · exact rest_putSector _ _ _

@[simp] theorem rest_mergeSector (s : State) (h : Home) (bs : List (Nat × Byte)) (bad : Bool) :
    (s.mergeSector h bs bad).rest = s.rest := by
  unfold mergeSector
  dsimp only
  repeat' split
  · exact rest_foldl (fun s b => rest_rawPut _ _ _ _ _) _ _
  · rw [rest_putSector]
    exact rest_foldl (fun s b => rest_rawPut _ _ _ _ _) _ _
  all_goals exact rest_putSector _ _ _

/-! ### Traps, fences and releases -/

@[simp] theorem rest_pendTrap (s : State) (c gid uid ctx : Nat) (t : Trap) (payload : List Word) (team : Nat) :
    (s.pendTrap c gid uid ctx t payload team).rest = s.rest := by
  unfold pendTrap
  dsimp only
  repeat' split
  all_goals simp

@[simp] theorem rest_wakeFences (s : State) : s.wakeFences.rest = s.rest :=
  rest_foldl (fun s f => by split <;> simp) _ s

@[simp] theorem rest_ringReleases (s : State) (c : Nat) : (s.ringReleases c).rest = s.rest :=
  rest_foldl (fun s r => by
    unfold tryRelease
    dsimp only
    repeat' split
    all_goals simp) _ s

/-! ### Store-buffer entries -/

@[simp] theorem rest_enterRecord (s : State) (c key page : Nat) (e : SbEntry) (t : Trap) (r : List Byte) :
    (s.enterRecord c key page e t r).rest = s.rest := by
  unfold enterRecord
  simp

@[simp] theorem rest_storeFault (s : State) (c key page cause cls sub code : Nat) :
    (s.storeFault c key page cause cls sub code).rest = s.rest := by
  unfold storeFault
  dsimp only
  repeat' split
  all_goals simp

@[simp] theorem rest_retireEntry (s : State) (c key : Nat) : (s.retireEntry c key).rest = s.rest := by
  unfold retireEntry
  split
  · rfl
  · split
    · rfl
    · extract_lets s1 s2 s3
      have h2 : s2.rest = s.rest := by
        show (ringReleases _ _).rest = _
        simp [s1]
      have h3 : s3.rest = s2.rest := rest_foldl (fun s x => by dsimp only; split <;> simp) _ _
      split <;> simp [h2, h3]

@[simp] theorem rest_acceptStore (s : State) (c key : Nat) (ap : Ap) (bs : List SByte) : (s.acceptStore c key ap bs).rest = s.rest := by
  unfold acceptStore
  dsimp only
  rw [rest_retireEntry, rest_modCore]
  split <;> simp

@[simp] theorem rest_dropTicket (s : State) (c : Nat) (o : MemOp) (lane : Nat) : (s.dropTicket c o lane).rest = s.rest := by
  unfold dropTicket
  repeat' split
  all_goals simp

/-! ### Lanes of loads and atomics -/

@[simp] theorem rest_laneTaken (s : State) (c op lane : Nat) : (s.laneTaken c op lane).rest = s.rest := by
  unfold laneTaken
  split
  · rfl
  · dsimp only
    rw [rest_postOnce]
    exact rest_foldl (fun s x => by split <;> simp) _ s

@[simp] theorem rest_failLane (s : State) (c op lane : Nat) (t : Trap) : (s.failLane c op lane t).rest = s.rest := by
  unfold failLane
  dsimp only
  repeat' split
  all_goals simp

@[simp] theorem rest_giveLane (s : State) (c op lane : Nat) (data : List Byte) (bad : Bool) :
    (s.giveLane c op lane data bad).rest = s.rest := by
  unfold giveLane
  repeat' split
  all_goals simp

@[simp] theorem rest_rmwAt (s : State) (cl : Client) (old : List Byte) (bad : Bool) : (s.rmwAt cl old bad).1.rest = s.rest := by
  have hfail (c op : Nat) (t : Trap) (ls : List LaneAcc) (s : State) :
      (ls.foldl (fun s b => s.failLane c op b.lane t) s).rest = s.rest := rest_foldl (fun s b => rest_failLane _ _ _ _ _) ls s
  unfold rmwAt
  split
  case h_1 =>
    split
    · rfl
    · split
      · rfl
      · dsimp only
        split
        · exact hfail _ _ _ _ _
        · split
          · exact rest_foldl (fun s p => rest_giveLane _ _ _ _ _ _) _ s
          · split
            · exact hfail _ _ _ _ _
            · refine (rest_foldl (fun s p => ?_) _ _).trans (rest_foldl (fun s p => rest_giveLane _ _ _ _ _ _) _ s)
              repeat' split
              all_goals simp
          · rfl
  case h_2 => rfl

@[simp] theorem rest_request (s : State) (r : Req) : (s.request r).rest = s.rest := by
  unfold request
  repeat' split
  all_goals simp

@[simp] theorem rest_unitRead (s : State) (c op lane : Nat) (old : List Byte) (bad : Bool) :
    (s.unitRead c op lane old bad).rest = s.rest := by
  have hrmw := rest_rmwAt s (.atom c op lane) old bad
  unfold unitRead
  split
  · simp
  · split
    · next e =>
      rw [e] at hrmw
      exact hrmw
    · simp

@[simp] theorem rest_unitWritten (s : State) (c op lane : Nat) (lost : Bool) : (s.unitWritten c op lane lost).rest = s.rest := by
  unfold unitWritten
  split
  · rfl
  · simp

@[simp] theorem rest_answer (s : State) (r : Req) (data : List Byte) (bad : List Bool) : (s.answer r data bad).rest = s.rest := by
  unfold answer
  split <;> simp

/-! ### Requests at a home slice -/

@[simp] theorem rest_notifyBlock (s : State) (ap : Ap) (off len : Nat) : (s.notifyBlock ap off len).rest = s.rest :=
  rest_foldl (fun s w => by dsimp only; split <;> simp) _ s

@[simp] theorem rest_serve (s : State) (r : Req) : (s.serve r).rest = s.rest := by
  unfold serve
  dsimp only
  split
  · split <;> simp
  · split <;> simp
  · have hrmw := rest_rmwAt s r.client
    split <;> simp [hrmw]

@[simp] theorem rest_meetBuffer (s : State) (r : Req) : (s.meetBuffer r).rest = s.rest := by
  unfold meetBuffer
  extract_lets lost
  split
  · split <;> simp
  · exact rest_serve s r

@[simp] theorem rest_settleLine (s : State) (h : Home) : (s.settleLine h).rest = s.rest := by
  unfold settleLine
  dsimp only
  rw [rest_foldl]
  · split <;> simp
  · intro s r
    repeat' split
    all_goals simp

end Sys2Proof.Machine.State
end

section
namespace Sys2Proof.Machine.State

theorem rest_foldl_fst {α β : Type} {f : State × β → α → State × β} (hf : ∀ p a, (f p a).1.rest = p.1.rest) (l : List α) (p : State × β) :
    (l.foldl f p).1.rest = p.1.rest := by
  induction l generalizing p with
  | nil => rfl
  | cons a t ih => rw [List.foldl_cons, ih, hf]

@[simp] theorem rest_homeRead (s : State) (ap : Ap) (off n : Nat) : (s.homeRead ap off n).1.rest = s.rest := by
  unfold homeRead
  refine rest_foldl_fst (fun p i => ?_) _ _
  dsimp only
  split <;> simp

@[simp] theorem rest_settleSlices (s : State) : s.settleSlices.rest = s.rest := by
  unfold settleSlices
  refine rest_foldl (fun s p => rest_foldl (fun s y => ?_) _ s) _ s
  dsimp only
  rw [rest_setSlice, rest_foldl fun s l => rest_writeBack _ _ _]
  refine rest_foldl (fun s r => ?_) _ s
  split <;> simp

/-! ### What follows of the state's rest -/

section
variable {s t : State} (h : t.rest = s.rest)
include h

theorem product_of_rest : t.product = s.product := by
  show t.rest.product = s.rest.product
  rw [h]
theorem fused_of_rest : t.fused = s.fused := by
  show t.rest.fused = s.rest.fused
  rw [h]
theorem boot_of_rest : t.boot = s.boot := by
  show t.rest.boot = s.rest.boot
  rw [h]
theorem splitNext_of_rest : t.splitNext = s.splitNext := by
  show t.rest.splitNext = s.rest.splitNext
  rw [h]

end

theorem physical_congr {s t : State} (hp : t.product = s.product) (hf : t.fused = s.fused) (l : Nat) : t.physical l = s.physical l := by
  unfold physical present
  rw [hp, hf]

theorem present_congr {s t : State} (hp : t.product = s.product) (hf : t.fused = s.fused) : t.present = s.present := by
  unfold present
  rw [hp, hf]

/-! ### The reset (R400, R404) and the split (R59) -/

theorem product_relocate (s : State) : s.relocate.product = s.product := by
  show s.settleSlices.product = _
  exact product_of_rest (rest_settleSlices s)
theorem fused_relocate (s : State) : s.relocate.fused = s.fused := by
  show s.settleSlices.fused = _
  exact fused_of_rest (rest_settleSlices s)

theorem product_afterReset (s : State) : s.afterReset.product = s.product := by
  show (if s.field 0x20 13 0 = 8192 then s.settleSlices else ({ s with splitNext := 8192 } : State).relocate).product = _
  split
  · exact product_of_rest (rest_settleSlices s)
  · exact product_relocate _

theorem fused_afterReset (s : State) : s.afterReset.fused = s.fused := by
  show (if s.field 0x20 13 0 = 8192 then s.settleSlices else ({ s with splitNext := 8192 } : State).relocate).fused = _
  split
  · exact fused_of_rest (rest_settleSlices s)
  · exact fused_relocate _

theorem physical_afterReset (s : State) (l : Nat) : s.afterReset.physical l = s.physical l :=
  physical_congr (product_afterReset s) (fused_afterReset s) l

theorem field_memories (s : State) (hbm : Memory) (hbmPoison : List Nat) (cores : AMap Core) (off hi lo : Nat) :
    ({ s with hbm, hbmPoison, cores } : State).field off hi lo = s.field off hi lo := rfl

theorem field_relocate (s : State) : s.relocate.field 0x20 31 31 = 0 ∧ s.relocate.field 0x20 13 0 = s.splitNext % 2 ^ 14 := by
  rw [← splitNext_of_rest (rest_settleSlices s)]
  unfold relocate
  generalize s.settleSlices = u
  dsimp only
  constructor
  · rw [field_memories, field_setField_same _ _ (by omega) (by omega)]
    rfl
  · rw [field_memories, field_setField_disjoint _ _ (by omega) (by omega) (by omega), field_setField_same _ _ (by omega) (by omega)]

/-! ### The supervisor's start (R345) -/

theorem group?_startSupervisor (s : State) (c : Nat) (pc : Word) :
    ∃ uid, (s.startSupervisor c pc).group? c supGid = some (supervisorAt uid pc) := by
  unfold startSupervisor
  rw [group?_modCore _ _ _ _ _ (by simp), group?, core_modCore_same, AMap.look_put, if_pos rfl]
  exact ⟨_, rfl⟩

theorem group?_startSupervisor_other (s : State) {c d : Nat} (h : c ≠ d) (pc : Word) (gid : Nat) :
    (s.startSupervisor c pc).group? d gid = s.group? d gid := by
  unfold startSupervisor
  rw [group?_modCore _ _ _ _ _ (by simp), group?, core_modCore, if_neg h]
  rfl

/-! ### Bring-up (R400, R413) -/

theorem field_free (s : State) (n off hi lo : Nat) : ({ s with free := n } : State).field off hi lo = s.field off hi lo := rfl

theorem field_emit (s : State) (o : Out) (off hi lo : Nat) : (s.emit o).field off hi lo = s.field off hi lo := rfl

theorem field_endStaging (s : State) (result : Nat) {off : Nat} (h : off ≠ 0x30) (hi lo : Nat) :
    (s.endStaging result).field off hi lo = s.field off hi lo := by
  unfold endStaging
  split
  · unfold hostDone
    rw [field_emit, field_setField_other _ h.symm, field_setField_other _ h.symm]
  · rfl

theorem boot_endStaging (s : State) (result : Nat) : (s.endStaging result).boot = s.boot := by
  unfold endStaging
  split <;> rfl

theorem cores_endStaging (s : State) (result : Nat) : (s.endStaging result).cores = s.cores := by
  unfold endStaging
  split <;> rfl

@[simp] theorem physical_setStepNo (s : State) (n l : Nat) : (s.setStepNo n).physical l = s.physical l := rfl
@[simp] theorem physical_modCore (s : State) (c l : Nat) (f : Core → Core) : (s.modCore c f).physical l = s.physical l := rfl

/-- The firmware image of the board's flash (R400, step 2). -/
def flashImage (s : State) : List Byte := (List.range (codeBytes + bootBytes)).map fun i => s.flash.getD i 0

theorem firmware_flash (s : State) : s.firmware false = (s, s.flashImage) := rfl

/-- Step 4 of bring-up: the root runs its firmware from the boot overlay (R400, R413). -/
def startRoot (s : State) (root : Nat) : State :=
  let s := { s with boot := { s.boot with running := true }, free := s.free + 1 }.setStepNo 4
  (s.setField 0 31 16 ((Config.freeWord (s.free - 1)).toNat % 2 ^ 16)).startSupervisor root 0x00010000

theorem bringUp_eq_startRoot {s : State} {root : Nat} (h : s.physical 0 = some root) :
    ∃ w : State, s.bringUp false 0 = w.startRoot root ∧ w.hbm = s.hbm := by
  unfold bringUp
  extract_lets s1
  rw [firmware_flash]
  dsimp -zeta only
  extract_lets s2 s3
  have h1 : s1.physical 0 = some root := h
  have h2 : s2 = s1.modCore root fun k => k.writeStore codeBase (s1.flashImage.take codeBytes) := by
    show (s1.physical 0).elim _ _ = _
    rw [h1, Option.elim_some]
  have h3 : s3.physical 0 = some root := by rw [physical_setStepNo, h2, physical_modCore, h1]
  have hhbm : s3.hbm = s.hbm := by
    show s2.hbm = s.hbm
    rw [h2]
    rfl
  clear_value s3
  rw [if_neg (by simp), h3]
  exact ⟨s3.modCore root fun k => k.placeFirmware 1 (codeBytes / 4096) 1 (wordsOf (s1.flashImage.drop codeBytes)), rfl, hhbm⟩

theorem bringUp_eq_bootError (s : State) {v : Nat} (hv : v ≠ 0) :
    ∃ w : State, s.bringUp false v = (w.setStepNo 3).bootError (v % 4) ∧ w.boot = s.boot := by
  unfold bringUp
  extract_lets s1
  rw [firmware_flash]
  dsimp -zeta only
  extract_lets s2 s3
  have hboot : s2.boot = s.boot := by
    show ((s1.physical 0).elim s1 _).boot = _
    cases s1.physical 0 <;> rfl
  rw [if_pos hv]
  exact ⟨s2, rfl, hboot⟩

theorem field_startSupervisor (s : State) (c : Nat) (pc : Word) (off hi lo : Nat) :
    (s.startSupervisor c pc).field off hi lo = s.field off hi lo := rfl

/-- A root that passes step 3 runs its firmware from the boot overlay (R413). -/
theorem bringUp_verified {s : State} {root : Nat} (h : s.physical 0 = some root) :
    (s.bringUp false 0).bootStep = 4 ∧ (s.bringUp false 0).boot.running = true ∧ (s.bringUp false 0).hbm = s.hbm ∧
      ∃ uid, (s.bringUp false 0).group? root supGid = some (supervisorAt uid 0x00010000) := by
  obtain ⟨w, hw, hhbm⟩ := bringUp_eq_startRoot h
  rw [hw]
  refine ⟨?_, rfl, hhbm, group?_startSupervisor _ _ _⟩
  unfold startRoot bootStep
  dsimp only
  rw [field_startSupervisor, field_setField_other _ (by omega)]
  exact field_setField_same _ _ (by omega) (by omega) _

/-- Step 3 ends bring-up with the error that it finds (R400). -/
theorem bringUp_refused {s : State} (hrun : s.boot.running = false) {v : Nat} (hv : 1 ≤ v)
    (hv' : v < 4) :
    (s.bringUp false v).bootStep = 3 ∧ (s.bringUp false v).field 8 23 16 = v ∧ (s.bringUp false v).boot.running = false := by
  obtain ⟨w, hw, hboot⟩ := bringUp_eq_bootError s (v := v) (by omega)
  rw [← hboot] at hrun
  rw [hw]
  unfold bootError bootStep setBootError setStepNo
  rw [field_endStaging _ _ (by omega), field_endStaging _ _ (by omega), boot_endStaging,
    field_setField_disjoint _ _ (by omega) (by omega) (by omega), field_setField_same _ _ (by omega) (by omega)]
  exact ⟨(field_free (w.setField 8 28 24 3) _ 8 28 24).trans (field_setField_same _ _ (by omega) (by omega) _), by omega, hrun⟩

/-! ### Messages of the boot ROM, and the map -/

@[simp] theorem cores_postOnce (s : State) (i : Instr) : (s.postOnce i).cores = s.cores := by
  unfold postOnce
  split <;> rfl

@[simp] theorem cores_send (s : State) (src dst vn flits : Nat) (msg : Instr) (bulk : Bool) (port : Nat) :
    (s.send src dst vn flits msg bulk port).cores = s.cores := by
  unfold send enter stand
  repeat' split
  all_goals simp [post, setRouter]

@[simp] theorem cores_ctlTo (s : State) (c t src : Nat) (msg : List Word) (port : Nat) : (s.ctlTo c t src msg port).cores = s.cores :=
  cores_send _ _ _ _ _ _ _ _

@[simp] theorem cores_sendNear (s : State) (c port : Nat) (msg : List Word) : (s.sendNear c port msg).cores = s.cores := by
  unfold sendNear
  dsimp only
  split
  · rfl
  · exact cores_ctlTo _ _ _ _ _ _

theorem cores_foldl {α : Type} {f : State → α → State} (hf : ∀ s a, (f s a).cores = s.cores) (l : List α) (s : State) :
    (l.foldl f s).cores = s.cores := by
  induction l generalizing s with
  | nil => rfl
  | cons a t ih => rw [List.foldl_cons, ih, hf]

theorem core_of_cores {s t : State} (h : t.cores = s.cores) (c : Nat) : t.core c = s.core c := by
  unfold core
  rw [h]

end Sys2Proof.Machine.State
end

section
namespace Sys2Proof.Machine.State

/-! ### The supervisors' start (R417) -/

/-- A core's supervisor starts at the entry of the firmware that the core holds. -/
def startFirmware (s : State) (c : Nat) : State :=
  (s.modCore c fun k => k.placeFirmware 0 0 (codeBytes / 4096) (wordsOf (k.readStore codeBase codeBytes))).startSupervisor c 0

@[simp] theorem rest_startSupervisor (s : State) (c : Nat) (pc : Word) : (s.startSupervisor c pc).rest = s.rest := by
  unfold startSupervisor
  rw [rest_modCore, rest_modCore]

@[simp] theorem rest_startFirmware (s : State) (c : Nat) : (s.startFirmware c).rest = s.rest := by
  unfold startFirmware
  rw [rest_startSupervisor, rest_modCore]

theorem group?_startFirmware (s : State) (c : Nat) : ∃ uid, (s.startFirmware c).group? c supGid = some (supervisorAt uid 0) :=
  group?_startSupervisor _ _ _

theorem group?_startFirmware_other (s : State) {c d : Nat} (h : c ≠ d) (gid : Nat) :
    (s.startFirmware c).group? d gid = s.group? d gid := by
  unfold startFirmware
  rw [group?_startSupervisor_other _ h, group?, core_modCore, if_neg h]
  rfl

theorem group?_foldl_startFirmware (s : State) (cs : List Nat) :
    ∀ c ∈ cs, ∃ uid, (cs.foldl startFirmware s).group? c supGid = some (supervisorAt uid 0) := by
  induction cs using List.reverseRecOn with
  | nil => simp
  | append_singleton cs d ih =>
    intro c hc
    rw [List.foldl_append, List.foldl_cons, List.foldl_nil]
    by_cases hd : d = c
    · subst hd
      exact group?_startFirmware _ _
    · rw [group?_startFirmware_other _ hd]
      exact ih c ((List.mem_append.1 hc).resolve_right fun h => hd (List.mem_singleton.1 h).symm)

@[simp] theorem rest_layOut (s : State) : s.layOut.rest = s.rest := by
  unfold layOut
  extract_lets n s1
  have h1 : s1.rest = s.rest := rest_foldl (fun s d => rest_modDie _ _ _) _ s
  split
  · exact h1
  · exact h1

theorem cores_layOut (s : State) : s.layOut.cores = s.cores := by
  unfold layOut
  extract_lets n s1
  have h1 : s1.cores = s.cores := by
    refine cores_foldl (fun s d => ?_) _ s
    rfl
  split
  · exact h1
  · exact h1

/-- Bring-up's last step (R400): the number of present cores, and the ready bit. -/
def ready (s : State) : State := ((((s.setField 0 15 0 s.present.length).setStepNo 7).setField 8 30 30 1).endStaging 0)

theorem ready_spec (s : State) : s.ready.bootStep = 7 ∧ s.ready.boot = s.boot ∧ s.ready.field 8 30 30 = 1 ∧
    s.ready.field 0 15 0 = s.present.length % 2 ^ 16 ∧ s.ready.cores = s.cores := by
  unfold ready bootStep
  refine ⟨?_, by rw [boot_endStaging]; rfl, ?_, ?_, by rw [cores_endStaging]; rfl⟩
  · rw [field_endStaging _ _ (by omega), field_setField_disjoint _ _ (by omega) (by omega) (by omega)]
    exact field_setField_same _ _ (by omega) (by omega) _
  · rw [field_endStaging _ _ (by omega), field_setField_same _ _ (by omega) (by omega)]
    rfl
  · rw [field_endStaging _ _ (by omega), field_setField_other _ (by omega), setStepNo, field_setField_other _ (by omega),
      field_setField_same _ _ (by omega) (by omega)]

theorem exec_booted {s : State} (hrun : s.boot.running = true) (hstep : s.bootStep = 5) :
    execBooted s = .next ((({ s with boot := { s.boot with running := false } } : State).present.foldl startFirmware
      { s with boot := { s.boot with running := false } }).setStepNo 6).layOut.ready := by
  unfold execBooted
  rw [if_neg (by simp [hrun, hstep])]
  rfl

end Sys2Proof.Machine.State

namespace Sys2Proof.Claims
open Host Machine

section
variable {s : State}

theorem boot_completes (hrun : s.boot.running = true) (hstep : s.bootStep = 5) :
    ∃ t : State, exec .booted s = .next t ∧ t.bootStep = 7 ∧ t.boot.running = false ∧ t.field 8 30 30 = 1 ∧
      t.field 0 15 0 = s.present.length % 2 ^ 16 ∧
      ∀ c ∈ s.present, ∃ g, t.group? c supGid = some g ∧ g.ctx = 255 ∧ g.threads.map (·.pc) = [0] := by
  refine ⟨_, State.exec_booted hrun hstep, ?_⟩
  generalize hu : ({ s with boot := { s.boot with running := false } } : State) = u
  have hpresent : u.present = s.present := by rw [← hu]; rfl
  have hboot : u.boot.running = false := by rw [← hu]
  have hgroups := State.group?_foldl_startFirmware u u.present
  have hrest : (u.present.foldl State.startFirmware u).rest = u.rest := State.rest_foldl State.rest_startFirmware _ u
  generalize u.present.foldl State.startFirmware u = w at hgroups hrest
  have hlay := State.rest_layOut (w.setStepNo 6)
  have hcores := State.cores_layOut (w.setStepNo 6)
  generalize (w.setStepNo 6).layOut = z at hlay hcores
  obtain ⟨h7, hzboot, hready, hcount, hzcores⟩ := z.ready_spec
  have hwpresent : w.present = u.present := State.present_congr (State.product_of_rest hrest) (State.fused_of_rest hrest)
  have hzpresent : z.present = (w.setStepNo 6).present := State.present_congr (State.product_of_rest hlay) (State.fused_of_rest hlay)
  have hrun' : z.ready.boot.running = false := by
    rw [hzboot, State.boot_of_rest hlay]
    show w.boot.running = false
    rw [State.boot_of_rest hrest, hboot]
  refine ⟨h7, hrun', hready, by rw [hcount, hzpresent, show (w.setStepNo 6).present = w.present from rfl, hwpresent, hpresent], fun c hc => ?_⟩
  obtain ⟨uid, hg⟩ := hgroups c (hpresent ▸ hc)
  have hcore : z.ready.core c = w.core c := State.core_of_cores (hzcores.trans hcores) c
  exact ⟨_, by rw [State.group?, hcore]; exact hg, rfl, rfl⟩

end
end Sys2Proof.Claims
end

section
namespace Sys2Proof.Claims
open Host Machine

section
variable {s : State}

/-! The messages of the boot ROM (R415). -/

theorem disc_first (c p i : Nat) (h : (s.core c).coord = none) :
    ∃ t : State, exec (.disc c p i) s = .next t ∧ (t.core c).coord = some i ∧ (t.core c).parent = some p := by
  show ∃ t : State, execDisc c p i s = .next t ∧ _
  unfold execDisc
  rw [if_neg (by simp [h])]
  refine ⟨_, rfl, ?_⟩
  rw [State.core_of_cores (State.cores_sendNear _ _ _ _) c, State.core_of_cores (State.cores_foldl (fun s q => State.cores_sendNear _ _ _ _) _ _) c,
    State.core_modCore_same]
  exact ⟨rfl, rfl⟩

theorem disc_again (c p i : Nat) (h : (s.core c).coord ≠ none) : exec (.disc c p i) s = .next s := by
  show execDisc c p i s = _
  unfold execDisc
  exact if_pos (Option.isSome_iff_ne_none.2 h)

theorem report_forwarded (c : Nat) (msg : Words) {q : Nat} (h : (s.core c).parent = some q) :
    exec (.report c msg) s = .next (s.sendNear c q msg) := by
  show execReport c msg s = _
  unfold execReport
  rw [h]

theorem getD_readStore (k : Machine.Core) (a n i : Nat) :
    (k.readStore a n).getD i 0 = if i < n then Mem.get (n := 8) k.store (a + i) else 0 := by
  have h := readStore_eq_bytesFrom k 0 a n
  rw [Nat.zero_add] at h
  rw [h, getD_bytesFrom, Nat.zero_add]

theorem cores_tell (s : State) (c t : Nat) (msg : List Word) :
    ((s.physical t).elim s fun q => s.ctlTo c q (s.coreSource c) msg).cores = s.cores := by
  cases s.physical t with
  | none => rfl
  | some q => exact State.cores_ctlTo _ _ _ _ _ _

/-- IMG copies the image from its sender's core store into an empty one (R415). -/
theorem img_copies (c p : Nat) (msg : Words) (hempty : (s.core c).store = []) :
    ∃ t : State, exec (.img c p msg) s = .next t ∧ ∀ a, Mem.get (n := 8) (t.core c).store a =
      if (msg.getD 1 0).toNat ≤ a ∧ a < (msg.getD 1 0).toNat + (msg.getD 2 0).toNat then Mem.get (n := 8) (s.core p).store a else 0 := by
  refine ⟨_, rfl, fun a => ?_⟩
  rw [State.core_of_cores (cores_tell _ _ _ _) c, State.core_of_cores (State.cores_foldl (fun s j => cores_tell _ _ _ _) _ _) c,
    State.core_modCore_same]
  show Mem.get (n := 8) (Mem.write (n := 8) (s.core c).store _ _) a = _
  rw [hempty, Mem.get_write rfl]
  split
  · refine (getD_readStore _ _ _ _).trans ?_
    split
    · rw [if_pos (by omega), Nat.add_sub_cancel' ‹_›]
    · rw [if_neg (by omega)]
  · rw [if_neg (by omega)]
    rfl

/-! The map (R417). -/

theorem mapDone_compares (n : Nat) {root : Nat} {u : State} {tab : List Nat} (hrun : s.boot.running = true) (hstep : s.bootStep = 4)
    (hroot : s.physical 0 = some root) (hsbuf : (s.core root).sbuf = []) (htab : s.mapTable = (u, tab)) :
    exec (.mapDone n) s = .next (if tab = (List.range u.product.cores).map u.mapEntry then
      ((u.modCore root fun k => k.wake fun w => w == .drain).setStepNo 5).toRoot 4 n else u.failBoot 4) := by
  have hu : u = (s.homeRead .hbm s.mapBase (2 * s.product.cores)).1 := (congrArg Prod.fst htab).symm
  have hrest : u.rest = s.rest := hu ▸ State.rest_homeRead _ _ _ _
  have huroot : u.physical 0 = some root :=
    (State.physical_congr (State.product_of_rest hrest) (State.fused_of_rest hrest) 0).trans hroot
  show execMapDone n s = _
  unfold execMapDone
  rw [if_neg (by simp [hrun, hstep]), if_neg (by simp [hroot, hsbuf]), htab]
  dsimp only
  rw [huroot]
  rfl

theorem readClears_coreMap (u : State) {off : Nat} (hlo : 0x20000 ≤ off) (hhi : off < 0x20800) : u.readClears off = 0 := by
  have hports : u.product.reachPorts ≤ 32 := by cases u.product <;> decide
  unfold State.readClears
  rw [if_neg (by omega), if_neg (by omega), if_neg (by omega), if_neg (by omega), if_neg (by omega), if_neg (by omega)]

/-- A read of 8 bytes of `core_map` clears nothing: the host gets the quadword (R394). -/
theorem read_coreMap {off : Nat} (hlo : 0x20000 ≤ off) (hhi : off < 0x20800) (haligned : off % 8 = 0) {u : State} {q : DWord}
    (hread : s.readControl off = (u, q)) : exec (.hostRegisterRead 0 off) s = .next (u.emit (.read 0 off q)) := by
  have hlow : decide (0x4000000 ≤ off) = false := decide_eq_false (by omega)
  have hplace : off / 8 * 8 = off := by omega
  have hhigh : (off % 8 == 4) = false := by rw [haligned]; rfl
  have hbad : ¬ (off % 4 ≠ 0 ∨ 0x4000000 ≤ off ∨ s.mayAccess 0 off = false) := by
    have haccess : s.mayAccess 0 off = true := rfl
    rw [haccess]
    simp only [Bool.true_eq_false, or_false]
    omega
  have h8 : off ≠ 8 := by omega
  show execHostRegisterRead 0 off s = _
  unfold execHostRegisterRead
  simp only [hlow, hplace, hhigh, hbad, Bool.false_eq_true, if_false, hread, readClears_coreMap u hlo hhi, BitVec.ofNat_eq_ofNat, h8]
  rfl

theorem coreMap_read (j : Nat) {u : State} {bs : List Byte} {bad : Bool} (hj : 4 * j < s.product.cores)
    (hread : s.homeRead .hbm (s.mapBase + 8 * j) 8 = (u, bs, bad)) :
    exec (.hostRegisterRead 0 (0x20000 + 8 * j)) s = .next (if s.bootStep < 5 then s.emit (.read 0 (0x20000 + 8 * j) 0)
      else u.emit (.read 0 (0x20000 + 8 * j) (BitVec.ofNat 64 (leNat bs)))) := by
  have hcores : s.product.cores ≤ 1024 := by cases s.product <;> decide
  have hcontrol : s.readControl (0x20000 + 8 * j) = if s.bootStep < 5 then (s, 0) else (u, BitVec.ofNat 64 (leNat bs)) := by
    unfold State.readControl
    dsimp only
    rw [if_pos (by omega), Nat.add_sub_cancel_left, hread]
  split at hcontrol
  · next h => rw [read_coreMap (by omega) (by omega) (by omega) hcontrol, if_pos h]
  · next h => rw [read_coreMap (by omega) (by omega) (by omega) hcontrol, if_neg h]

/-! The timers of bring-up (R400, R417). -/

theorem timer_running (hrun : s.boot.running = true) :
    exec .bootTimerExpiry s = .next (s.failBoot (if s.bootStep = 4 then 4 else 5)) := congrArg Outcome.next (if_pos hrun)

theorem timer_idle (hrun : s.boot.running = false) : exec .bootTimerExpiry s = .next s :=
  congrArg Outcome.next (if_neg (by simp [hrun]))

theorem delivery_running (hrun : s.boot.running = true) :
    exec .imageDeliveryTimeout s = .next (if s.bootStep = 5 then s.failBoot 5 else s) := by
  show Outcome.next (if s.boot.running ∧ s.bootStep = 5 then s.failBoot 5 else s) = _
  simp only [hrun, true_and]

theorem delivery_idle (hrun : s.boot.running = false) : exec .imageDeliveryTimeout s = .next s :=
  congrArg Outcome.next (if_neg (by simp [hrun]))

end

/-- Settles O54: each step of bring-up by the branch of its conditions. -/
theorem bootSteps : Obligations.BootSteps := by
  refine ⟨fun s v root hroot => ?_, fun s => ?_, fun s c p i msg => ?_, fun s c p msg hempty _ _ => ?_,
    fun s n root u tab hrun hstep hroot hsbuf htab => ?_, fun s j u bs bad hj => ?_, fun s => ?_, fun s hrun hstep => ?_,
    fun s v => ?_, fun s => ?_⟩
  · have hphys := (State.physical_afterReset s 0).trans hroot
    refine ⟨?_, fun hv hv' => ?_⟩
    · obtain ⟨h4, hrun, hhbm, uid, hg⟩ := State.bringUp_verified hphys
      exact ⟨_, rfl, rfl, h4, hrun, hhbm, _, hg, rfl, rfl, rfl⟩
    · obtain ⟨h3, herr, hrun⟩ := State.bringUp_refused (s := s.afterReset) rfl hv hv'
      exact ⟨_, rfl, rfl, h3, herr, hrun⟩
  · refine ⟨fun hfatal => ?_, fun hidle hfatal => ?_⟩
    · show Outcome.next s.bootStaging = _
      unfold State.bootStaging
      rw [if_pos (.inr (Option.isSome_iff_ne_none.2 hfatal))]
    · intro u
      refine ⟨(Config.freeWord s.free).toNat % 4, Nat.mod_lt _ (by omega), ?_⟩
      show Outcome.next s.bootStaging = _
      unfold State.bootStaging
      rw [if_neg (by simp [hidle, hfatal])]
  · exact ⟨disc_again c p i, disc_first c p i, fun q => report_forwarded c msg⟩
  · intro off
    exact img_copies c p msg hempty
  · exact mapDone_compares n hrun hstep hroot hsbuf htab
  · intro off hread
    exact coreMap_read j hj hread
  · exact ⟨fun hrun => ⟨timer_running hrun, delivery_running hrun⟩, fun hrun => ⟨timer_idle hrun, delivery_idle hrun⟩⟩
  · exact boot_completes hrun hstep
  · intro n
    rfl
  · refine ⟨fun h => ?_, fun h => ⟨s.relocate, ?_, State.field_relocate s⟩⟩
    · show Outcome.next (if s.field 0x20 31 31 = 1 then s.relocate else s) = _
      rw [if_neg (by omega)]
    · show Outcome.next (if s.field 0x20 31 31 = 1 then s.relocate else s) = _
      rw [if_pos h]

end Sys2Proof.Claims
end

section
/-! The copies of overlays that a core holds, and the pins of its groups (R67, R69). -/

namespace Sys2Proof.Machine

/-! ### Pins of a group -/

theorem Group.pinCount_setPin (g : Group) (id n : Nat) : (g.setPin id n).pinCount id = n := by
  have hrest : (g.pins.filter fun p => p.1 ≠ id).find? (fun p => p.1 = id) = none := by
    simp [List.find?_eq_none]
  unfold Group.setPin Group.pinCount
  dsimp only
  split
  · next hn => rw [hrest, hn]; rfl
  · rw [List.find?_append, hrest]; simp

/-- Masks and awl registers are no part of a group's pins. -/
theorem ctx_pinCount {s : State} {x : Ctx} {g : Group} (hx : s.ctx? = some x) (hg : s.group? x.core x.gid = some g) (id : Nat) :
    x.g.pinCount id = g.pinCount id := by
  obtain ⟨g', hg', hxg⟩ := ctx_group hx
  cases hg.symm.trans hg'
  rw [hxg]
  rfl

/-! ### Copies of a core -/

theorem Core.isSome_copy?_iff {k : Core} {ctx id : Nat} :
    (k.copy? ctx id).isSome = true ↔ ∃ p ∈ k.records, (ctx, id) ∈ p.2.aliases := by
  unfold Core.copy?
  simp

theorem Core.isSome_copy?_recount (k : Core) (ctx id : Nat) : (k.recount.copy? ctx id).isSome = (k.copy? ctx id).isSome := by
  rw [Bool.eq_iff_iff, Core.isSome_copy?_iff, Core.isSome_copy?_iff]
  unfold Core.recount
  simp

namespace State

/-- A copy that is requested has its record, if no refused request stands for it (R67, R77). -/
theorem copy_or_refused_of_requestOv (s : State) (c ctx id : Nat) :
    (((s.requestOv c ctx id).core c).copy? ctx id).isSome = true ∨
      ∃ q ∈ ((s.requestOv c ctx id).core c).refused, q.ctx = ctx ∧ q.id = id := by
  unfold requestOv
  extract_lets k n k'
  split
  · next h => simpa using h
  · left
    rw [core_post, core_setCore, if_pos rfl, Core.isSome_copy?_recount, Core.isSome_copy?_iff]
    exact ⟨(n, { aliases := [(ctx, id)] }), AMap.mem_put _ _ _, List.mem_singleton_self _⟩

/-! ### Changing a pin (R69) -/

/-- The state of OVLD once the group holds another pin of an ID: its copy is counted anew or requested. -/
def pinOv (s : State) (x : Ctx) (id : Nat) : State :=
  let s := s.modGroup x.core x.gid fun g => g.setPin id (g.pinCount id + 1)
  if ((s.core x.core).copy? x.g.ctx id).isSome then s.modCore x.core Core.recount else s.requestOv x.core x.g.ctx id

/-- The state of OVREL once the group holds a pin less of an ID: loads that wait for space are tried again. -/
def unpinOv (s : State) (x : Ctx) (id : Nat) : State :=
  ((s.modGroup x.core x.gid fun g => g.setPin id (g.pinCount id - 1)).modCore x.core Core.recount).retryLoads x.core

theorem memWf_pinOv {s : State} (hs : s.memWf = true) (x : Ctx) (id : Nat) : (s.pinOv x id).memWf = true := by
  have hmod : (s.modGroup x.core x.gid fun g => g.setPin id (g.pinCount id + 1)).memWf = true := modGroup_memWf _ _ _ _ hs
  unfold pinOv
  dsimp only
  split
  · exact modCore_memWf (f := Core.recount) hmod (fun _ hk => hk) _
  · exact requestOv_memWf _ _ _ _ hmod

theorem storage_pinOv (s : State) (x : Ctx) (id d : Nat) : ((s.pinOv x id).core d).storage = (s.core d).storage := by
  unfold pinOv
  dsimp only
  split
  · rw [storage_modCore _ _ _ _ Core.storage_recount, storage_modGroup]
  · rw [storage_requestOv, storage_modGroup]

theorem storage_unpinOv (s : State) (x : Ctx) (id d : Nat) : ((s.unpinOv x id).core d).storage = (s.core d).storage := by
  rw [unpinOv, storage_retryLoads, storage_modCore _ _ _ _ Core.storage_recount, storage_modGroup]

theorem group?_pinOv (s : State) (x : Ctx) (id : Nat) :
    (s.pinOv x id).group? x.core x.gid = (s.group? x.core x.gid).map fun g => g.setPin id (g.pinCount id + 1) := by
  unfold pinOv
  dsimp only
  split
  · rw [group?_modCore _ _ _ _ _ Core.groups_recount, group?_modGroup]
  · rw [group?_requestOv, group?_modGroup]

theorem group?_unpinOv (s : State) (x : Ctx) (id : Nat) :
    (s.unpinOv x id).group? x.core x.gid = (s.group? x.core x.gid).map fun g => g.setPin id (g.pinCount id - 1) := by
  rw [unpinOv, group?_retryLoads, group?_modCore _ _ _ _ _ Core.groups_recount, group?_modGroup]

theorem pinCount_pinOv {s : State} {x : Ctx} (hx : s.ctx? = some x) (id : Nat) :
    ((s.pinOv x id).group x.core x.gid).pinCount id = x.g.pinCount id + 1 := by
  obtain ⟨g, hg, _⟩ := ctx_group hx
  rw [group, group?_pinOv, hg, ctx_pinCount hx hg]
  exact Group.pinCount_setPin _ _ _

theorem pinCount_unpinOv {s : State} {x : Ctx} (hx : s.ctx? = some x) (id : Nat) :
    ((s.unpinOv x id).group x.core x.gid).pinCount id = x.g.pinCount id - 1 := by
  obtain ⟨g, hg, _⟩ := ctx_group hx
  rw [group, group?_unpinOv, hg, ctx_pinCount hx hg]
  exact Group.pinCount_setPin _ _ _

theorem copy_or_refused_of_pinOv (s : State) (x : Ctx) (id : Nat) :
    (((s.pinOv x id).core x.core).copy? x.g.ctx id).isSome = true ∨
      ∃ q ∈ ((s.pinOv x id).core x.core).refused, q.ctx = x.g.ctx ∧ q.id = id := by
  unfold pinOv
  dsimp only
  split
  · next h => left; rwa [core_modCore_same, Core.isSome_copy?_recount]
  · exact copy_or_refused_of_requestOv _ _ _ _

end State
end Sys2Proof.Machine
end

section
namespace Sys2Proof.Claims
open Host Machine

/-! ### The overlay instructions (R237, R238) -/

variable {s : State} {x : Ctx}

theorem ovsrc_eq (s : State) (x : Ctx) (id : OvSrc) : (s.core x.core).ovsrc x.gid id = ovOperand s x id := by
  cases id <;> rfl

theorem wf32_31_16 (w : Word) : wf32 w 31 16 = w.toNat / 65536 := by
  have := w.isLt
  unfold wf32 bits
  omega

theorem wf32_15_0 (w : Word) : wf32 w 15 0 = w.toNat % 65536 := wf32_low w 15

theorem exec_ovld {d : SReg} {id : OvSrc} (hr : Runs (.ovld d id) s x) {i : Nat} (hi : (ovOperand s x id).toNat = i) :
    exec (.ovld d id) s = .next (s.finish x
      (if 65536 ≤ i then prot 3 i
       else if x.g.pinCount i = 255 ∨ (x.g.pinCount i = 0 ∧ 4 ≤ x.g.pins.length) then prot 7 i
       else .done ((s.pinOv x i).writeS x d.toNat (0x80000000 + w32 i)))) := by
  rw [← hi, ← ovsrc_eq]
  exact (run_of_runs hr _ : execOvld d id s = _)

theorem exec_ovwait {a : SReg} (hr : Runs (.ovwait a) s x) {v : Nat} (hv : (sreg s x a).toNat = v) :
    exec (.ovwait a) s = .next (s.finish x
      (if v / 65536 ≠ 0x8000 then prot 3 v
       else if ((s.core x.core).resident? x.g.ctx (v % 65536)).isSome then .done s
       else .wait (s.requestOv x.core x.g.ctx (v % 65536)) (.ovwait (v % 65536)))) := by
  rw [← hv, ← wf32_31_16, ← wf32_15_0]
  exact (run_of_runs hr _ : execOvwait a s = _)

theorem exec_ovrel {a : SReg} (hr : Runs (.ovrel a) s x) {v : Nat} (hv : (ureg s x a).toNat = v) :
    exec (.ovrel a) s = .next (s.finish x
      (if v / 65536 ≠ 0x8000 then prot 3 v
       else if x.g.pinCount (v % 65536) = 0 then prot 7 v
       else .done (s.unpinOv x (v % 65536)))) := by
  rw [← hv, ← wf32_31_16, ← wf32_15_0]
  exact (run_of_runs hr _ : execOvrel a s = _)

theorem exec_ovqry {d : SReg} {id : OvSrc} (hr : Runs (.ovqry d id) s x) {i : Nat} (hi : (ovOperand s x id).toNat = i) :
    exec (.ovqry d id) s = .next (s.finish x
      (if 65536 ≤ i then prot 3 i
       else .done (({ s with free := s.free + 1 } : State).writeS x d.toNat
         ((s.core x.core).ovState x.g i (Config.freeWord s.free))))) := by
  rw [← hi, ← ovsrc_eq]
  exact (run_of_runs hr _ : execOvqry d id s = _)

/-- The fields of the state word below the pin count (R238). -/
theorem ovState_eq (k : Machine.Core) (g : Machine.Group) (id : Nat) (free : Word) :
    ∃ n, k.ovState g id free = BitVec.ofNat 32 (g.pinCount id * 65536 + n) ∧
      match k.copy? g.ctx id with
      | none => n = 0
      | some (_, r) => ∃ slots, n = slots * 32 + (if r.resident then 2 else 1) ∧
        if r.slots = 0 then 1 ≤ slots ∧ slots ≤ 16 else slots = r.slots := by
  unfold Machine.Core.ovState
  cases k.copy? g.ctx id with
  | none => exact ⟨0, congrArg w32 (by omega), rfl⟩
  | some p =>
    refine ⟨_, congrArg (BitVec.ofNat 32) (Nat.add_assoc _ _ _), _, rfl, ?_⟩
    split
    · omega
    · rfl

/-- Settles O25. Each instruction checks its operand, then does its one thing: OVLD pins and writes, OVWAIT goes on or waits, OVREL
unpins, OVQRY writes. -/
theorem overlayInstructions : Obligations.OverlayInstructions := by
  unfold Obligations.OverlayInstructions
  refine fun s x hs => ⟨fun d id hr => ⟨fun hv => ?_, fun hv hrefused => ?_, fun hv hrefused => ?_⟩, fun a hr => ⟨fun hv => ?_, fun hv => ?_⟩,
    fun a hr => ⟨fun hv => ?_, fun hv hpins => ?_, fun hv hpins => ?_⟩, fun d id hr => ⟨fun hv => ?_, fun hv => ?_⟩⟩
  · rw [exec_ovld hr rfl, if_pos hv]; rfl
  · rw [exec_ovld hr rfl, if_neg (Nat.not_le.2 hv), if_pos hrefused]; rfl
  · refine ⟨s.pinOv x (ovOperand s x id).toNat, _, writesUniform_writeS (State.memWf_pinOv hs x _) x d.toNat _, ?_,
      congrArg Prod.fst (State.storage_pinOv s x _ _), State.pinCount_pinOv hr.1 _, State.copy_or_refused_of_pinOv s x _⟩
    rw [exec_ovld hr rfl, if_neg (Nat.not_le.2 hv), if_neg hrefused, w32, BitVec.ofNat_toNat, BitVec.setWidth_eq]
    rfl
  · rw [exec_ovwait hr rfl, if_pos hv]; rfl
  · rw [exec_ovwait hr rfl, if_neg (not_not.2 hv)]
    split <;> rfl
  · rw [exec_ovrel hr rfl, if_pos hv]; rfl
  · rw [exec_ovrel hr rfl, if_neg (not_not.2 hv), if_pos hpins]; rfl
  · refine ⟨s.unpinOv x ((ureg s x a).toNat % 65536), ?_, State.pinCount_unpinOv hr.1 _, congrArg Prod.fst (State.storage_unpinOv s x _ _)⟩
    rw [exec_ovrel hr rfl, if_neg (not_not.2 hv), if_neg hpins]
    rfl
  · rw [exec_ovqry hr rfl, if_pos hv]; rfl
  · obtain ⟨n, hword, hn⟩ := ovState_eq (s.core x.core) x.g (ovOperand s x id).toNat (Config.freeWord s.free)
    refine ⟨n, _, ?_, hn, writesUniform_writeS (s := { s with free := s.free + 1 }) hs x d.toNat _⟩
    rw [exec_ovqry hr rfl, if_neg (Nat.not_le.2 hv), ← hword]
    rfl

end Sys2Proof.Claims
end

section
/-! Traps that the supervisor takes, and its restart (R344 to R346). -/

namespace Sys2Proof.Machine

/-! ### Threads held and started again -/

/-- A group held whole, its trap escalated (R344). -/
def Group.holdEscalated (g : Group) : Group :=
  { g with threads := g.threads.map fun t => { t with held := true, laneWait := 0, uniWait := 0 }, escalated := true }

theorem Group.held_holdEscalated (g : Group) : ∀ th ∈ g.holdEscalated.threads, th.held = true := by
  intro th hth
  obtain ⟨_, _, rfl⟩ := List.mem_map.1 hth
  rfl

theorem Group.held_wakeIf {g : Group} {b : Bool} (h : ∀ th ∈ g.threads, th.held = b) (p : Wait → Bool) :
    ∀ th ∈ (g.wakeIf p).threads, th.held = b := by
  intro th hth
  obtain ⟨u, hu, rfl⟩ := List.mem_map.1 hth
  split <;> exact h u hu

/-- The supervisor's group as its restart leaves it before it enters its firmware (R345). -/
def Group.restarted (g : Group) : Group :=
  { g with trap := {}, pending := [], locks := [], issued := [], escalated := false,
           threads := g.threads.map fun t => { t with held := false, victim := false, wait := none, depth := 0, live := true } }

theorem Group.restarted_threads (g : Group) : ∀ th ∈ g.restarted.threads, th.depth = 0 ∧ th.held = false := by
  intro th hth
  obtain ⟨_, _, rfl⟩ := List.mem_map.1 hth
  exact ⟨rfl, rfl⟩

theorem Group.forall_onLanes {g : Group} {P : Thread → Prop} {f : Nat → Thread → Thread} (h : ∀ th ∈ g.threads, P th)
    (hf : ∀ i th, P th → P (f i th)) (lanes : Word) : ∀ th ∈ (g.onLanes lanes f).threads, P th := by
  intro th hth
  obtain ⟨i, hi, rfl⟩ := List.mem_mapIdx.1 hth
  split
  · exact hf _ _ (h _ (List.getElem_mem hi))
  · exact h _ (List.getElem_mem hi)

namespace State

/-! ### Supervisor records and escalation (R344, R346) -/

theorem team_modGroup (s : State) (c gid t : Nat) (f : Group → Group) : (s.modGroup c gid f).team c t = s.team c t := by
  unfold team modGroup
  rw [core_modCore_same]

theorem group?_postRecord (s : State) (c gid : Nat) (r : List Word) :
    (s.postRecord c r).group? c gid = (s.group? c gid).map fun g => g.wakeIf fun w => w = .halt := by
  unfold postRecord group?
  rw [core_modCore_same, ← AMap.look_map]
  dsimp only
  split <;> rfl

theorem storage_postRecord (s : State) (c d : Nat) (r : List Word) : ((s.postRecord c r).core d).storage = (s.core d).storage :=
  storage_modCore _ _ _ _ fun k => by dsimp only; split <;> rfl

/-- A record joins the queue, or with 32 of them queued those that wait. -/
theorem records_postRecord (s : State) (c : Nat) (r : List Word) :
    ((s.postRecord c r).core c).srec ++ ((s.postRecord c r).core c).srecWait =
      if (s.core c).srec.length < 32 then (s.core c).srec ++ [r] ++ (s.core c).srecWait
      else (s.core c).srec ++ ((s.core c).srecWait ++ [r]) := by
  unfold postRecord
  rw [core_modCore_same]
  dsimp only
  split <;> rfl

/-- The flags of a supervisor record's first word. -/
theorem supRecord_escalation (s : State) (c gid : Nat) (t : Trap) :
    supRecord t true (s.group c gid).trap.inHandler (s.group c gid).ctx gid (s.team c (s.group c gid).team).tag
      (s.trapPayload c (s.group c gid).uid t) = Claims.escalation s c gid t := by
  have hword : ∀ b : Bool, t.cause + 256 * bit true + 512 * bit b = t.cause + 256 + if b = true then 512 else 0 := by
    intro b
    cases b <;> simp [bit]
  unfold supRecord Claims.escalation
  rw [hword]
  rfl

theorem escalate_eq {s : State} {c gid : Nat} (hsup : gid ≠ supGid) (t : Trap) :
    s.escalate c gid t = (s.modGroup c gid Group.holdEscalated).postRecord c (Claims.escalation s c gid t) := by
  unfold escalate holdAll
  rw [if_neg hsup, ← supRecord_escalation]
  dsimp only
  rw [modGroup_modGroup, team_modGroup]
  rfl

theorem escalated_escalate {s : State} {c gid : Nat} {g : Group} (hg : s.group? c gid = some g) (hsup : gid ≠ supGid) (t : Trap) :
    Claims.Escalated s c gid t (s.escalate c gid t) := by
  rw [escalate_eq hsup]
  have hgroup : ((s.modGroup c gid Group.holdEscalated).postRecord c (Claims.escalation s c gid t)).group c gid =
      g.holdEscalated.wakeIf fun w => w = .halt := by
    rw [group, group?_postRecord, group?_modGroup, hg]
    rfl
  have hstore := (storage_postRecord (s.modGroup c gid Group.holdEscalated) c c (Claims.escalation s c gid t)).trans
    (storage_modGroup s c gid c _)
  have hrecords := records_postRecord (s.modGroup c gid Group.holdEscalated) c (Claims.escalation s c gid t)
  generalize (s.modGroup c gid Group.holdEscalated).postRecord c (Claims.escalation s c gid t) = u at hgroup hstore hrecords ⊢
  simp only [Core.storage, Prod.mk.injEq] at hstore
  obtain ⟨hrf, hbanks, hst, -, -⟩ := hstore
  unfold Claims.Escalated
  rw [hgroup]
  refine ⟨Group.held_wakeIf g.held_holdEscalated _, rfl, ?_, hrf, hst, hbanks⟩
  rw [hrecords, modGroup, core_modCore_same]

/-! ### The restart of the supervisor (R345) -/

theorem restartSupervisor_group {s : State} {c : Nat} {g : Group} (hg : s.group? c supGid = some g) :
    let t := s.restartSupervisor c
    (t.group c supGid).trap = {} ∧ (t.group c supGid).pending = [] ∧ ((t.group c supGid).threads.getD 0 {}).pc = 0 ∧
      ∀ th ∈ (t.group c supGid).threads, th.depth = 0 ∧ th.held = false := by
  have hrestarted : (s.modGroup c supGid Group.restarted).group? c supGid = some g.restarted := by rw [group?_modGroup, hg]; rfl
  obtain ⟨wt, hmove⟩ := group?_moveTo hrestarted 1 0 .start
  intro t
  have hgroup : t.group c supGid =
      (g.restarted.unlatch 1).onLanes 1 fun _ t => { t with pc := 0, wait := wt, laneWait := 0, uniWait := 0 } :=
    congrArg (fun g => Option.getD g ({} : Group)) hmove
  rw [hgroup]
  refine ⟨rfl, rfl, ?_, Group.forall_onLanes (g := g.restarted.unlatch 1) g.restarted_threads ?_ 1⟩
  · unfold Group.onLanes
    dsimp only
    cases (g.restarted.unlatch 1).threads <;> simp [List.mapIdx_cons]
  · exact fun _ _ h => h

end State
end Sys2Proof.Machine
end

section
/-! The fences of DRAINST (R131, R352). -/

namespace Sys2Proof.Machine

theorem AMap.mem_of_mem_put {α : Type} {k : Nat} {x : α} {p : Nat × α} {m : AMap α} (h : p ∈ m.put k x) : p = (k, x) ∨ p ∈ m := by
  induction m with
  | nil => exact .inl (List.mem_singleton.1 h)
  | cons q t ih =>
    unfold AMap.put at h
    grind

namespace State

/-- A fence of the core scope for the whole bundle, opened with the marks of its core. -/
def drainFence (s : State) (x : Ctx) : RFence :=
  { core := x.core, gid := x.gid, uid := x.g.uid, scope := .core, lanes := x.lanes, pc := x.pc, markers := [], marks := [s.markAt x.core] }

theorem standsAt_drainFence {s : State} {x : Ctx} (h : x.lanes ≠ 0) : standsAt x (s.drainFence x) = true := by
  unfold standsAt drainFence
  simpa using h

theorem posts_nil (s : State) : s.posts [] = s := by
  show ({ s with agenda := s.agenda ++ [] } : State) = s
  rw [List.append_nil]

/-- A fence of the core scope has no marker to send. -/
theorem openFence_core {f : RFence} (hf : f.scope = .core) (s : State) :
    s.openFence f = { s with fences := s.fences.put s.nextFence { f with markers := [], marks := [s.markAt f.core] },
                             nextFence := s.nextFence + 1 } := by
  unfold openFence
  rw [hf]
  exact posts_nil _

/-- Joining a fence of the core scope changes the fences only. -/
theorem joinFence_core (s : State) (x : Ctx) : ∃ fs n, s.joinFence x .core = { s with fences := fs, nextFence := n } := by
  unfold joinFence
  dsimp only
  split
  · exact ⟨_, _, rfl⟩
  · exact ⟨_, _, openFence_core rfl s⟩

theorem joinFence_none {s : State} {x : Ctx} (hl : x.lanes ≠ 0) (hs : ∀ f ∈ s.fences, standsAt x f.2 = false) :
    s.joinFence x .core = { s with fences := s.fences.put s.nextFence (s.drainFence x), nextFence := s.nextFence + 1 } := by
  have hrest : ∀ (fs : AMap RFence) (m : Word), (∀ f ∈ fs, standsAt x f.2 = false) →
      fs.foldl (fun (m : Word) f => if standsAt x f.2 then m &&& ~~~f.2.lanes else m) m = m := by
    intro fs m h
    induction fs with
    | nil => rfl
    | cons f t ih =>
      rw [List.foldl_cons, h f List.mem_cons_self]
      exact ih fun f hf => h f (List.mem_cons_of_mem _ hf)
  unfold joinFence
  dsimp only
  rw [hrest _ _ hs, if_neg hl]
  exact openFence_core rfl s

theorem joinFence_whole {s : State} {x : Ctx} {n : Nat} {f : RFence} (hs : s.fences = [(n, f)]) (hf : standsAt x f = true)
    (hl : f.lanes = x.lanes) : s.joinFence x .core = s := by
  unfold joinFence
  simp [hs, hf, hl]

theorem storesBefore_iff {s : State} {x : Ctx} : s.storesBefore x = true ↔ ∃ p ∈ (s.core x.core).sbuf, p.2.uid = x.g.uid ∧
    ∃ f ∈ s.fences, standsAt x f.2 = true ∧ ∃ m ∈ f.2.marks, p.1 < m.2.1 := by
  unfold storesBefore
  simp

end State
end Sys2Proof.Machine
end

section
namespace Sys2Proof.Claims
open Host Machine

/-! ### TRAP, undefined words and DRAINST (R362, R213 to R215, R352) -/

section
variable {s : State} {x : Ctx}

theorem preciseTrap_eq (hq : x.quiet = false) (h2 : s.second = none) (t : Trap) :
    s.preciseTrap x t = (if t.cause = 1 then s.loadEmul x else s).takeTrap x.core x.gid { t with pc := x.pc, lanes := x.lanes } x.lanes true
      fun _ => if t.cause = 1 ∨ t.cause = 0xc then x.pc + w32 x.len else x.pc := by
  have hsecond : (if t.cause = 1 then s.loadEmul x else s).second = none := by split <;> exact h2
  unfold State.preciseTrap
  rw [hq]
  dsimp only
  rw [hsecond]
  rfl

theorem exec_trap {code : BitVec 11} (hr : Runs (.trap code) s x) :
    exec (.trap code) s = .next (s.finish x
      (if code.toNat < 1024 then .trap (mkTrap 0x0c code.toNat 0 code.toNat)
       else .moved ((s.advance x).escalate x.core x.gid { mkTrap 0x0c code.toNat 0 code.toNat with pc := x.pc, lanes := x.lanes }))) :=
  (run_of_runs hr _ : execTrap code s = _)

theorem append_fields (d a b : BitVec 6) (s : BitVec 2) (me : BitVec 3) (l set : BitVec 1) (major : BitVec 7) :
    ((((((d ++ a) ++ b) ++ s) ++ me) ++ l) ++ set) ++ major = d ++ (a ++ (b ++ (s ++ (me ++ (l ++ (set ++ major)))))) := by
  apply BitVec.eq_of_getLsbD_eq
  intro i hi
  simp only [BitVec.getLsbD_append]
  grind

theorem exec_drainst (hr : Runs .drainst s x) :
    exec .drainst s = .next (s.finish x
      (if (s.joinFence x .core).storesBefore x then .wait (s.joinFence x .core) .drain
       else .done ((s.joinFence x .core).closeFences x))) :=
  (run_of_runs hr _ : execDrainst s = _)

theorem storesBefore_opened (hl : x.lanes ≠ 0) (hs : ∀ f ∈ s.fences, State.standsAt x f.2 = false) :
    (s.joinFence x .core).storesBefore x = true ↔
      ∃ p ∈ (s.core x.core).sbuf, p.2.uid = x.g.uid ∧ p.1 < (s.core x.core).nextSb := by
  rw [State.joinFence_none hl hs, State.storesBefore_iff]
  refine exists_congr fun p => and_congr_right fun _ => and_congr_right fun _ => ⟨fun ⟨f, hf, hstands, m, hm, hlt⟩ => ?_, fun hlt => ?_⟩
  · rcases AMap.mem_of_mem_put hf with rfl | hf
    · cases List.mem_singleton.1 hm
      exact hlt
    · rw [hs f hf] at hstands
      cases hstands
  · exact ⟨_, AMap.mem_put _ _ _, State.standsAt_drainFence hl, _, List.mem_singleton_self _, hlt⟩

theorem storesBefore_joined {n : Nat} {f : RFence} (hs : s.fences = [(n, f)]) (hf : State.standsAt x f = true) (hl : f.lanes = x.lanes) :
    (s.joinFence x .core).storesBefore x = true ↔
      ∃ p ∈ (s.core x.core).sbuf, p.2.uid = x.g.uid ∧ ∃ m ∈ f.marks, p.1 < m.2.1 := by
  rw [State.joinFence_whole hs hf hl, State.storesBefore_iff, hs]
  simp [hf]

end

/-! ### Boundary traps (R340, R71, R140) -/

section
variable {s : State} {c gid : Nat} {g : Machine.Group}

/-- No handler of the group runs, and it is not held for the supervisor, not ending and not being saved. -/
def TakesBoundary (s : State) (c : Nat) (g : Machine.Group) : Prop :=
  g.trap.inHandler = false ∧ g.escalated = false ∧ g.ending = false ∧ (s.team c g.team).saving = false

theorem not_barred_of_takesBoundary (h : TakesBoundary s c g) :
    ¬ (g.trap.inHandler = true ∨ g.escalated = true ∨ g.ending = true ∨ (s.team c g.team).saving = true) := by
  obtain ⟨h1, h2, h3, h4⟩ := h
  simp [h1, h2, h3, h4]

theorem exec_boundary_failed (hg : s.group? c gid = some g) (ho : TakesBoundary s c g) {tr : Trap} {lanes : Word}
    (hf : s.failedAt c gid = some (tr, lanes)) :
    let u := (s.modGroup c gid fun g => g.onLanes lanes fun _ th => { th with wait := none }).takeTrap c gid { tr with lanes } lanes true
      fun _ => tr.pc
    exec (.boundaryTrapTake c gid) s = .next (if u.wantsTrap c gid then u.postOnce (.boundaryTrapTake c gid) else u) := by
  intro u
  have hu : s.takeFailed c gid = u := by
    unfold State.takeFailed
    rw [hf]
  show execBoundaryTrapTake c gid s = _
  unfold execBoundaryTrapTake
  rw [hg]
  dsimp only
  rw [if_neg (not_barred_of_takesBoundary ho), if_pos (by rw [hf]; rfl), hu]

theorem exec_boundary_behind (hg : s.group? c gid = some g) (ho : TakesBoundary s c g) {t : Trap} {rest : List Trap}
    (hf : s.failedAt c gid = none) (hp : g.pending = t :: rest)
    (hb : ∃ l ∈ lanesOf (t.lanes &&& g.m0), (g.threads.getD l {}).behind = true) :
    exec (.boundaryTrapTake c gid) s = .next (s.post (.boundaryTrapTake c gid)) := by
  show execBoundaryTrapTake c gid s = _
  unfold execBoundaryTrapTake
  rw [hg]
  dsimp only
  rw [if_neg (not_barred_of_takesBoundary ho), if_neg (by simp [hf]), hp]
  obtain ⟨l, hl, hbehind⟩ := hb
  refine if_pos (List.any_eq_true.2 ⟨l, ?_, hbehind⟩)
  split <;> exact hl

theorem exec_boundary_taken (hg : s.group? c gid = some g) (ho : TakesBoundary s c g) {t : Trap} {rest : List Trap}
    (hf : s.failedAt c gid = none) (hp : g.pending = t :: rest) (hcause : t.cause ≠ 4)
    (hb : ∀ l ∈ lanesOf (t.lanes &&& g.m0), (g.threads.getD l {}).behind = false) :
    exec (.boundaryTrapTake c gid) s = .next (((s.modGroup c gid fun g => { g with pending := rest }).unlockOp c t).takeTrap c gid t
      (t.lanes &&& g.m0) false fun i => (g.threads.getD i {}).pc) := by
  show execBoundaryTrapTake c gid s = _
  unfold execBoundaryTrapTake
  rw [hg]
  dsimp only
  rw [if_neg (not_barred_of_takesBoundary ho), if_neg (by simp [hf]), hp]
  dsimp only
  simp only [hcause, false_and, if_false]
  refine if_neg fun hbehind => ?_
  obtain ⟨l, hl, hbehind⟩ := List.any_eq_true.1 hbehind
  exact Bool.false_ne_true ((hb l hl).symm.trans hbehind)

theorem exec_supervisorTrap {cause : Nat} (hg : s.group? c supGid = some g) :
    exec (.supervisorTrap c cause) s = .next (s.restartSupervisor c) :=
  congrArg Outcome.next (if_pos (Option.isSome_of_eq_some hg))

end

/-- Settles O33: the precise traps by what a precise trap does, DRAINST by the fence it joins or opens, the boundary by what it finds
first. -/
theorem trapInstructions : Obligations.TrapInstructions := by
  unfold Obligations.TrapInstructions
  refine ⟨fun s x code hr hq h2 hsup => ⟨fun hcode => ?_, fun hcode => ?_⟩, fun s x w lit hx hq h2 => ?_, fun s x hr => ?_,
    fun s c gid g t rest hg hin hesc hend hsave => ?_, fun s c cause g hg => ⟨_, exec_supervisorTrap hg, State.restartSupervisor_group hg⟩⟩
  · rw [exec_trap hr, if_pos hcode]
    exact congrArg Outcome.next (preciseTrap_eq hq h2 _)
  · obtain ⟨g, hg, _⟩ := ctx_group hr.1
    have hadvanced : (s.advance x).group? x.core x.gid = _ := (State.group?_modGroup s x.core x.gid _).trans (congrArg (Option.map _) hg)
    refine ⟨_, ?_, State.escalated_escalate hadvanced hsup _⟩
    rw [exec_trap hr, if_neg (Nat.not_lt.2 hcode)]
    rfl
  · intro f y
    refine (asIssuer_eq hx fun x s => s.preciseTrap { x with word := w, lit } (mkTrap 1 0)).trans
      (congrArg Outcome.next ((preciseTrap_eq (x := y) hq h2 _).trans ?_))
    rw [← append_fields]
    rfl
  · obtain ⟨fs, n, hu⟩ := State.joinFence_core s x
    refine ⟨fun hb => ?_, fun hb => ?_, fun hnone => ?_, storesBefore_opened, fun _ _ => storesBefore_joined,
      _, n, congrArg (State.closeFences · x) hu⟩
    · rw [exec_drainst hr, if_pos hb]
      rfl
    · rw [exec_drainst hr, if_neg (by simp [hb])]
      rfl
    · refine Bool.eq_false_iff.2 fun hb => ?_
      obtain ⟨p, hp, huid, -⟩ := State.storesBefore_iff.1 hb
      rw [hu] at hp
      exact hnone p hp huid
  · have ho : TakesBoundary s c g := ⟨hin, hesc, hend, hsave⟩
    exact ⟨fun _ _ => exec_boundary_failed hg ho, exec_boundary_behind hg ho, exec_boundary_taken hg ho⟩

end Sys2Proof.Claims
end

section
/-! O41 as it is written: two residency records that stand under one number. -/

namespace Sys2Proof.Machine

/-- A refused request of context 0 for one slot. -/
def refusedReq (id : Nat) : OvReq := { ctx := 0, id, slots := 1, recNo := 0 }

/-- Overlays 1 and 2 of context 0 have their records under number 0 of core 0, requests for both were refused, and a thread stands in
overlay 2. -/
def twoRecords : State := State.reset.modCore 0 fun k => { k with
  records := [(0, { aliases := [(0, 1)] }), (0, { aliases := [(0, 2)] })], nextRec := 1, refused := [refusedReq 1, refusedReq 2],
  groups := [(0, { ctx := 0, threads := [{ pc := 0x20000, live := true }] })] }

/-- The threads in overlay 2 enter its copy, which is written over the first record of its number. -/
theorem copy?_recheck_twoRecords : (((twoRecords.recheckQuota 0).core 0).copy? 0 1).isSome = false := by decide +kernel

theorem refused_recheck_twoRecords : ((twoRecords.recheckQuota 0).core 0).refused = [] := by decide +kernel

/-- Refutes O41: its clause of the requests that fit their quota again asks that records have numbers below the next one, but not
that they have different numbers; in `twoRecords`, where two share number 0, an entry of the second is written in place of the first, and
the overlay of the first is left without a record and without a request. -/
theorem not_overlaySteps : ¬ Obligations.OverlaySteps := by
  unfold Obligations.OverlaySteps
  intro ⟨_, _, _, _, _, _, _, h⟩
  obtain ⟨t, ht, -, hkept, -⟩ := h twoRecords 0
  obtain rfl : twoRecords.recheckQuota 0 = t := Host.Outcome.next.inj ht
  rcases hkept (by decide +kernel) (refusedReq 1) (by decide +kernel) (by decide +kernel) with hcopy | ⟨y, hy, -⟩
  · exact Bool.false_ne_true (copy?_recheck_twoRecords.symm.trans hcopy)
  · rw [refused_recheck_twoRecords] at hy
    exact absurd hy List.not_mem_nil

end Sys2Proof.Machine
end

section
/-! Places of the core store that rays and hits take (R38, R103), and the rings that they spill to (R104, R105). -/

namespace Sys2Proof.Machine

/-! ### The inbox and the hit queue in the core store -/

/-- Fewer users than numbers leave one free. -/
theorem exists_firstFree {α : Type} {n : Nat} {l : List α} (h : l.length < n) (f : α → Nat) :
    ∃ p < n, firstFree n (fun i => l.any fun x => f x == i) = some p ∧ ∀ x ∈ l, f x ≠ p := by
  unfold firstFree
  cases hp : (List.range n).find? fun i => !l.any fun x => f x == i with
  | some p => exact ⟨p, List.mem_range.1 (List.mem_of_find?_eq_some hp), rfl, by simpa using List.find?_some hp⟩
  | none =>
    have hused : List.range n ⊆ l.map f := fun i hi => by simpa using List.find?_eq_none.1 hp i hi
    have hle := (List.subperm_of_subset List.nodup_range hused).length_le
    rw [List.length_range, List.length_map] at hle
    omega

/-- A byte of the core store after words were written to it. -/
theorem Core.get_writeStore_words {k : Core} (hk : Mem.wf (n := 8) k.store = true) (a : Nat) (ws : List Word) (b : Nat) :
    Mem.get (n := 8) (k.writeStore a (wordsBytes ws)).store b = if a ≤ b ∧ b < a + 4 * ws.length then
      (ws.getD ((b - a) / 4) 0).extractLsb' (8 * ((b - a) % 4)) 8 else Mem.get (n := 8) k.store b := by
  show Mem.get (Mem.write k.store a (wordsBytes ws)) b = _
  by_cases hb : a ≤ b ∧ b < a + 4 * ws.length
  · have hw : (b - a) / 4 < ws.length := by omega
    rw [Mem.get_write hk, if_pos hb.1, if_pos hb, List.getD, List.getD, getElem?_wordsBytes, List.getElem?_eq_getElem hw]
    rfl
  · rw [if_neg hb, Mem.get_write_other hk (by rw [length_wordsBytes]; omega)]

theorem Core.get_pushHit {k : Core} (hk : Mem.wf (n := 8) k.store = true) {h : List Word} (hh : h.length = 12) (a : Nat) :
    let p := (k.hitHead + k.hitQ.length) % 512
    Mem.get (n := 8) (k.pushHit h).store a = if 0x5f6000 + 48 * p ≤ a ∧ a < 0x5f6000 + 48 * p + 48 then
      (h.getD ((a - 0x5f6000 - 48 * p) / 4) 0).extractLsb' (8 * ((a - 0x5f6000) % 4)) 8 else Mem.get (n := 8) k.store a := by
  intro p
  refine (Core.get_writeStore_words (k := { k with hitQ := k.hitQ ++ [h] }) hk (0x5f6000 + 48 * p) h a).trans ?_
  rw [hh, Nat.sub_sub a 0x5f6000]
  refine ite_congr rfl (fun ha => ?_) fun _ => rfl
  rw [show (a - (0x5f6000 + 48 * p)) % 4 = (a - 0x5f6000) % 4 by omega]

/-- The inbox has room: the ray takes a place that no other has, and its words stand there. -/
theorem Core.pushRay_spec {k : Core} (hk : Mem.wf (n := 8) k.store = true) (hroom : k.inbox.length < 512) (r : InRay) (hr : 24 ≤ r.words.length) :
    ∃ p < 512, (∀ x ∈ k.inbox, x.place ≠ p) ∧ (k.pushRay r).inbox = k.inbox ++ [{ r with place := p }] ∧
      ∀ a, Mem.get (n := 8) (k.pushRay r).store a = if 0x5ea000 + 96 * p ≤ a ∧ a < 0x5ea000 + 96 * p + 96 then
        (r.words.getD ((a - 0x5ea000 - 96 * p) / 4) 0).extractLsb' (8 * ((a - 0x5ea000) % 4)) 8 else Mem.get (n := 8) k.store a := by
  obtain ⟨p, hp, hfree, hother⟩ := exists_firstFree hroom InRay.place
  have hpush : k.pushRay r = ({ k with inbox := k.inbox ++ [{ r with place := p }] } : Core).writeStore (0x5ea000 + 96 * p)
      (wordsBytes (r.words.take 24)) := by
    unfold pushRay
    rw [hfree]
    rfl
  refine ⟨p, hp, hother, by rw [hpush]; rfl, fun a => ?_⟩
  rw [hpush]
  refine (Core.get_writeStore_words (k := { k with inbox := k.inbox ++ [{ r with place := p }] }) hk (0x5ea000 + 96 * p) _ a).trans ?_
  rw [List.length_take_of_le hr, Nat.sub_sub a 0x5ea000]
  refine ite_congr rfl (fun ha => ?_) fun _ => rfl
  have htake : (a - (0x5ea000 + 96 * p)) / 4 < 24 := by omega
  rw [show (a - (0x5ea000 + 96 * p)) % 4 = (a - 0x5ea000) % 4 by omega, List.getD, List.getD, List.getElem?_take_of_lt htake]

@[simp] theorem Core.inbox_wake (k : Core) (q : Wait → Bool) : (k.wake q).inbox = k.inbox := rfl
@[simp] theorem Core.store_wake (k : Core) (q : Wait → Bool) : (k.wake q).store = k.store := rfl
@[simp] theorem Core.rf_wake (k : Core) (q : Wait → Bool) : (k.wake q).rf = k.rf := rfl
@[simp] theorem Core.slots_pushRay (k : Core) (r : InRay) : (k.pushRay r).slots = k.slots := rfl
@[simp] theorem Core.rf_pushRay (k : Core) (r : InRay) : (k.pushRay r).rf = k.rf := rfl

namespace State

@[simp] theorem hbm_postOnce (s : State) (i : Instr) : (s.postOnce i).hbm = s.hbm := by
  unfold postOnce
  split <;> rfl

/-- A message leaves the memory alone. -/
@[simp] theorem hbm_send (s : State) (src dst vn flits : Nat) (msg : Instr) (bulk : Bool) (port : Nat) :
    (s.send src dst vn flits msg bulk port).hbm = s.hbm := by
  unfold send
  split
  · rfl
  · unfold enter
    dsimp only
    split
    · exact hbm_postOnce _ _
    · rfl

/-- A ray enters an inbox that has room and nothing to take from its spill ring. -/
theorem enqueueRay_room {s : State} {c : Nat} (hroom : (s.core c).inbox.length < 512) (hspill : (s.core c).inboxSpill.entries = [])
    (r : InRay) : s.enqueueRay c r = s.setCore c (((s.core c).pushRay r).wake fun (w : Wait) => w == .rayrecv) := by
  unfold enqueueRay
  rw [if_pos ⟨hroom, by rw [hspill]; rfl⟩]

/-! ### Spill rings (R105) -/

/-- The chunks that a ring is given leave its entries alone. -/
theorem entries_fitChunks (s : State) (d : Nat) (old sp : Spill) (cap : Nat) : (s.fitChunks d old sp cap).2.entries = sp.entries := by
  have hfold {α : Type} {f : State × Spill → α → State × Spill} (hf : ∀ a x, (f a x).2.entries = a.2.entries) (l : List α)
      (a : State × Spill) : (l.foldl f a).2.entries = a.2.entries := by
    induction l generalizing a with
    | nil => rfl
    | cons x t ih => rw [List.foldl_cons, ih, hf]
  unfold fitChunks
  split
  exact hfold (fun a _ => by dsimp only; split <;> rfl) _ _

end State

end Sys2Proof.Machine
end

section
/-! A ray on its way: at the core that it comes to (R82, R93, R377) and at its home (R85, R90, R96, R100). -/

namespace Sys2Proof.Machine

/-- A ray is accepted for a slot: one more use, more heat, and one more ray to report (R92, R97). -/
def Core.acceptRay (k : Core) (j : Nat) : Core :=
  { k.modSlot j fun p => { p with uses := p.uses + 1, heat := min 0xffff (p.heat + 1) } with
    accepted := k.accepted.put j (((k.accepted.look j).getD 0 + 1) % 64) }

theorem Core.look_acceptRay (k : Core) (j : Nat) : (k.acceptRay j).slots.look j =
    (k.slots.look j).map fun p => { p with uses := p.uses + 1, heat := min 0xffff (p.heat + 1) } := by
  unfold acceptRay modSlot
  rw [AMap.look_upd, if_pos rfl]

@[simp] theorem Core.inbox_acceptRay (k : Core) (j : Nat) : (k.acceptRay j).inbox = k.inbox := rfl
@[simp] theorem Core.inboxSpill_acceptRay (k : Core) (j : Nat) : (k.acceptRay j).inboxSpill = k.inboxSpill := rfl
@[simp] theorem Core.store_acceptRay (k : Core) (j : Nat) : (k.acceptRay j).store = k.store := rfl
@[simp] theorem Core.rf_acceptRay (k : Core) (j : Nat) : (k.acceptRay j).rf = k.rf := rfl

namespace State

/-! ### Arrival at a core -/

theorem exec_rayArrival_foreign {s : State} {c : Nat} {ray : Words} (h : (s.core c).slotFor (Ray.tid ray) = none) :
    exec (.rayArrival c ray) s = .next (s.forwardHome c ray) := by
  show execRayArrival c ray s = _
  unfold execRayArrival
  dsimp only
  rw [h]

/-- A slot takes the ray; a report of its heat may go to the home first. -/
theorem exec_rayArrival_accepted {s : State} {c j : Nat} {ray : Words} (h : (s.core c).slotFor (Ray.tid ray) = some (j, false)) :
    ∃ u : State, exec (.rayArrival c ray) s = .next (u.enqueueRay c { slot := some j, words := ray }) ∧
      u.core c = (s.core c).acceptRay j ∧ u.hbm = s.hbm := by
  show ∃ u : State, execRayArrival c ray s = _ ∧ _
  unfold execRayArrival
  dsimp only
  rw [h]
  refine ⟨_, rfl, ?_, ?_⟩
  · refine (core_of_cores (s := s.setCore c ((s.core c).acceptRay j)) ?_ c).trans (by rw [core_setCore, if_pos rfl])
    split
    · exact cores_send _ _ _ _ _ _ _ _
    · rfl
  · split
    · exact hbm_send _ _ _ _ _ _ _ _
    · rfl

theorem forwardHome_eq (s : State) (c : Nat) (ray : List Word) :
    let d := s.homeDie (Ray.tid ray)
    let msg := Instr.directoryRayArrival d (c + 1) ray
    s.forwardHome c ray = if c = s.agentCore d ∨
        s.injects c 4 { src := c, dst := s.agentCore d, vn := 2, bulk := false, flits := 2, cargo := .here msg } = true then
      s.send c (s.agentCore d) 2 2 msg else s.spillRay c 0 ray := rfl

/-! ### Arrival at the home -/

theorem sceneLive_iff {s : State} {sc : Nat} : s.sceneLive sc = true ↔ s.sceneValid sc = true ∧ sc ∉ s.retiring ∧ sc ∉ s.retired := by
  simp [sceneLive, and_assoc]

/-- The scene of the ray may be used, and it is of the context that the ray has come through (R85, R90). -/
def Admits (s : State) (ray : List Word) : Prop :=
  let sc := sceneOf (Ray.tid ray)
  let from_ := (ray.getD 24 0).toNat / 2 ^ 16
  s.sceneValid sc = true ∧ sc ∉ s.retiring ∧ sc ∉ s.retired ∧ (from_ = 0 ∨ from_ = s.sceneCtx sc + 1)

theorem not_admits_iff {s : State} {ray : List Word} : ¬ s.Admits ray ↔
    ¬ s.sceneLive (sceneOf (Ray.tid ray)) ∨ ((ray.getD 24 0).toNat / 2 ^ 16 ≠ 0 ∧
      s.sceneCtx (sceneOf (Ray.tid ray)) + 1 ≠ (ray.getD 24 0).toNat / 2 ^ 16) := by
  have hctx : s.sceneCtx (sceneOf (Ray.tid ray)) + 1 = (ray.getD 24 0).toNat / 2 ^ 16 ↔
      (ray.getD 24 0).toNat / 2 ^ 16 = s.sceneCtx (sceneOf (Ray.tid ray)) + 1 := eq_comm
  rw [sceneLive_iff, Admits, Ne, Ne, hctx]
  tauto

section
variable {s : State} {d fwd : Nat} {ray : Words}

theorem exec_directoryRayArrival_refused (h : ¬ s.Admits ray) :
    exec (.directoryRayArrival d fwd ray) s = .next (s.returnRay d ray 2) := by
  show execDirectoryRayArrival d fwd ray s = _
  unfold execDirectoryRayArrival
  dsimp only
  rw [if_pos (not_admits_iff.1 h)]

theorem exec_directoryRayArrival_absent (h : s.Admits ray) (he : s.dirEntry d (Ray.tid ray) = none) :
    exec (.directoryRayArrival d fwd ray) s =
      .next (if numberOf (Ray.tid ray) < s.sceneCount (sceneOf (Ray.tid ray)) then
        (s.holdRay d ray fwd).postOnce (.indexEntryRead d (Ray.tid ray)) else s.returnRay d ray 2) := by
  show execDirectoryRayArrival d fwd ray s = _
  unfold execDirectoryRayArrival
  dsimp only
  rw [if_neg (not_admits_iff.not_right.1 h), he]
  dsimp only
  by_cases hn : numberOf (Ray.tid ray) < s.sceneCount (sceneOf (Ray.tid ray))
  · rw [if_neg (Nat.not_le_of_gt hn), if_pos hn]
  · rw [if_pos (Nat.le_of_not_gt hn), if_neg hn]

theorem exec_directoryRayArrival_failed {e : DirEntry} (h : s.Admits ray)
    (he : s.dirEntry d (Ray.tid ray) = some e) (hf : e.failed = true) :
    exec (.directoryRayArrival d (fwd + 1) ray) s =
      .next (((s.modEntry d (Ray.tid ray) fun _ => e).returnRay d ray 3).checkReplica d (Ray.tid ray)) := by
  show execDirectoryRayArrival d (fwd + 1) ray s = _
  unfold execDirectoryRayArrival
  dsimp only
  rw [if_neg (not_admits_iff.not_right.1 h), he]
  dsimp only
  rw [if_neg (Nat.succ_ne_zero fwd), dirRay, if_pos hf]

end

/-- A ray that no core forwarded goes to an available owner, else to the first that fills, else it is held, and a placement is asked
for when none is looked for and an owner may be added. -/
theorem dirRay_unforwarded (s : State) (d : Nat) (ray : List Word) {e : DirEntry} (hf : e.failed = false) :
    s.dirRay d 0 ray e =
      let u := s.modEntry d e.tid fun _ => e
      if e.available ≠ [] then u.homeRoute d 0 ray e.available e.available
      else match e.filling with
        | f :: _ => u.homeRoute d 0 ray [f] [f]
        | [] =>
          if e.placing then u.holdRay d ray 0
          else if e.owners.length < 4 then (u.holdRay d ray 0).askPlacement d e.tid false d else u.holdRay d ray 0 := by
  have hall (l : List Nat) : (l.filter fun x => !((none : Option Nat) == some x)) = l := List.filter_eq_self.2 fun _ _ => rfl
  have hnone (l : List Nat) : (l.any fun x => (none : Option Nat) == some x) = false := List.any_eq_false.2 fun _ _ => Bool.false_ne_true
  unfold dirRay
  simp only [hf, if_pos, hall, hnone, Bool.false_eq_true, if_false, and_false, List.isEmpty_iff]
  cases e.available with
  | cons a l => rfl
  | nil =>
    cases e.filling with
    | cons f l => rfl
    | nil => simp

/-! ### The index entry of a held ray -/

/-- The scene of a treelet may be used and has so many treelets (R84, R85). -/
def Indexed (s : State) (tid : Nat) : Prop :=
  s.sceneValid (sceneOf tid) = true ∧ sceneOf tid ∉ s.retiring ∧ sceneOf tid ∉ s.retired ∧ numberOf tid < s.sceneCount (sceneOf tid)

theorem not_indexed_iff {s : State} {tid : Nat} :
    ¬ s.Indexed tid ↔ ¬ s.sceneLive (sceneOf tid) ∨ s.sceneCount (sceneOf tid) ≤ numberOf tid := by
  rw [sceneLive_iff, Indexed, ← Nat.not_lt, ← not_and_or, and_assoc, and_assoc]

section
variable {s : State} {d tid : Nat} (he : s.dirEntry d tid = none) (hheld : ∃ r ∈ (s.die d).holding.entries, Ray.tid r = tid)
include he hheld

theorem exec_indexEntryRead_refused (h : ¬ s.Indexed tid) : exec (.indexEntryRead d tid) s = .next (s.returnHeld d tid 2) := by
  show execIndexEntryRead d tid s = _
  unfold execIndexEntryRead
  dsimp only
  rw [he, if_neg (by simp), if_neg (by simpa using hheld), if_pos (not_indexed_iff.1 h)]

/-- The place of the index entry is known: it cannot be read, or what is read of it is invalid, or it becomes a directory entry where the
set has a way. -/
theorem exec_indexEntryRead_translated {u : State} {ap : Ap} {off : Nat} (h : s.Indexed tid)
    (hx : s.xlate (s.agentCore d) 6 (s.sceneCtx (sceneOf tid)) (s.field (sceneOff (sceneOf tid) 0) 56 3 * 8 + 8 * numberOf tid) false false
      (.ev (.indexEntryRead d tid)) = .ok ap off u) :
    (u.readable ap off = false → exec (.indexEntryRead d tid) s = .next ((u.sceneFault tid 3).returnHeld d tid 3)) ∧
    ∀ v bs, u.readable ap off = true → u.targetWaits ap off = false → u.targetRead ap off 8 = (v, bs, false) →
      let q := leNat bs
      (q.testBit 63 = false ∨ bits q 61 57 ≠ 0 ∨ bits q 5 0 ≠ 0 → exec (.indexEntryRead d tid) s = .next (v.returnHeld d tid 2)) ∧
      (q.testBit 63 = true → bits q 61 57 = 0 → bits q 5 0 = 0 → (v.dirSet d tid).length < 8 →
        let missed := ((v.die d).holding.entries.filter fun r => Ray.tid r == tid && r.getD 25 0 == 0).length
        exec (.indexEntryRead d tid) s = .next ((v.setDirSet d tid (v.dirSet d tid ++
          [{ tid, pinned := q.testBit 62, image := bits q 56 6 * 64, heat := min 0xffff missed }])).retryHeld d tid)) := by
  rw [show exec (.indexEntryRead d tid) s = execIndexEntryRead d tid s from rfl]
  unfold execIndexEntryRead
  dsimp only
  rw [he, if_neg (by simp), if_neg (by simpa using hheld), if_neg (not_indexed_iff.not_right.1 h), hx]
  dsimp only
  refine ⟨fun hr => by rw [if_pos (by simp [hr])], fun v bs hr hw hread => ?_⟩
  rw [if_neg (by simp [hr]), if_neg (by simp [hw]), hread]
  dsimp only
  rw [if_neg Bool.false_ne_true]
  refine ⟨fun hq => by rw [if_pos (by simpa using hq)], fun hv h57 h0 hway => ?_⟩
  rw [if_neg (by simp [hv, h57, h0]), makeWay, if_pos hway]

end
end State
end Sys2Proof.Machine
end

section
/-! Rings, hits and rays that leave object space at the core they come to (R103, R104, R318, R326). -/

namespace Sys2Proof.Machine

/-! ### Fields of a ray that an update leaves alone -/

theorem wf32_setBits_disjoint (w : Word) {hi lo hi' lo' : Nat} (h : lo ≤ hi) (hd : hi' < lo ∨ hi < lo') (hhi : hi' < 32) (x : Nat) :
    wf32 (w32 (setBits w.toNat hi lo x)) hi' lo' = wf32 w hi' lo' := by
  refine Nat.eq_of_testBit_eq fun j => ?_
  rw [wf32, wf32, testBit_bits, testBit_bits, w32, BitVec.toNat_ofNat, Nat.testBit_mod_two_pow, testBit_setBits h]
  by_cases hj : j < hi' + 1 - lo'
  · rw [if_neg (by omega), decide_eq_true (show lo' + j < 32 by omega), Bool.true_and]
  · simp [hj]

theorem flagOf_setFlag_disjoint (ray : List Word) {hi lo hi' lo' : Nat} (h : lo ≤ hi) (hd : hi' < lo ∨ hi < lo') (hhi : hi' < 32) (x : Nat) :
    flagOf (setFlag ray hi lo x) hi' lo' = flagOf ray hi' lo' := by
  unfold flagOf
  rw [getD_setFlag]
  split
  · exact wf32_setBits_disjoint _ h hd hhi x
  · rfl

theorem flagOf_setWords (ray : List Word) {a : Nat} {ws : List Word} (h : 13 < a ∨ a + ws.length ≤ 13) (hi lo : Nat) :
    flagOf (setWords ray a ws) hi lo = flagOf ray hi lo := by
  unfold flagOf
  rw [getD_setWords, if_neg (by omega)]

theorem Ray.done_setFlag (ray : List Word) {hi lo : Nat} (h : lo ≤ hi) (hd : 16 < lo ∨ hi < 16) (x : Nat) :
    Ray.done (setFlag ray hi lo x) = Ray.done ray := by
  unfold Ray.done
  rw [flagOf_setFlag_disjoint ray h hd (by omega)]

theorem Ray.done_setWords (ray : List Word) {a : Nat} {ws : List Word} (h : 13 < a ∨ a + ws.length ≤ 13) :
    Ray.done (setWords ray a ws) = Ray.done ray := by
  unfold Ray.done
  rw [flagOf_setWords ray h]

/-! ### Out of object space (R326) -/

/-- A ray that leaves object space, by its save record: the words and flags that it had before. -/
def leaveObjectSpace (ray : List Word) (bs : List Byte) : List Word :=
  let ws := (List.range 14).map fun i => wordAt bs (4 * i)
  let depth := byteAt bs 57 % 8
  let ray := setWords (setWords ray 0 (ws.take 6)) 14 ((ws.drop 6).zipIdx.map fun (w, i) => if i < 2 * depth then w else 0)
  let ray := setFlag (setFlag (setFlag ray 29 22 (byteAt bs 56)) 21 19 depth) 17 17 (byteAt bs 57 / 8 % 2)
  setFlag (setFlag ray 18 18 0) 10 10 0

theorem done_leaveObjectSpace (ray : List Word) (bs : List Byte) : Ray.done (leaveObjectSpace ray bs) = Ray.done ray := by
  unfold leaveObjectSpace
  dsimp only
  rw [Ray.done_setFlag _ (by omega) (by omega), Ray.done_setFlag _ (by omega) (by omega), Ray.done_setFlag _ (by omega) (by omega),
    Ray.done_setFlag _ (by omega) (by omega), Ray.done_setFlag _ (by omega) (by omega), Ray.done_setWords _ (by omega),
    Ray.done_setWords _ (by simp)]

/-- Origin and direction are those of the save record. -/
theorem take_leaveObjectSpace {ray : List Word} (h : 24 ≤ ray.length) (bs : List Byte) :
    (leaveObjectSpace ray bs).take 6 = (List.range 6).map fun i => wordAt bs (4 * i) := by
  have hlen : (leaveObjectSpace ray bs).length = ray.length := by simp [leaveObjectSpace]
  refine List.ext_getElem (by rw [List.length_take, hlen, List.length_map, List.length_range]; omega) fun j h1 h2 => ?_
  have hj : j < 6 := by simpa using h2
  have hget : (leaveObjectSpace ray bs).getD j 0 = wordAt bs (4 * j) := by
    unfold leaveObjectSpace
    dsimp only
    simp only [getD_setFlag, getD_setWords, show ¬ j = 13 by omega, show ¬ 14 ≤ j by omega, false_and, if_false]
    rw [if_pos (by simp; omega)]
    simp [List.getD, List.getElem?_take_of_lt hj, List.getElem?_range (show j < 14 by omega)]
  rw [List.getElem_take, List.getElem_map, List.getElem_range, ← hget, List.getD_eq_getElem]

/-! ### Rings and hits at a core (R103, R104, R318) -/

/-- What a ring keeps when its oldest entry is taken. -/
def Spill.left (sp : Spill) (rest : List (List Word)) (cap : Nat) : Spill :=
  { sp with entries := rest, taken := if rest = [] then 0 else (sp.taken + 1) % cap }

theorem Spill.pop_eq_some {sp : Spill} {e : List Word} {rest : List (List Word)} (h : sp.entries = e :: rest) (cap : Nat) :
    sp.pop cap = some (e, sp.left rest cap) := by
  unfold pop left
  rw [h]
  simp only [List.isEmpty_iff]

namespace State

section
variable {s u : State} {c : Nat} {rest : List (List Word)} {sp : Spill}

theorem exec_spillRefill_hit {h : List Word} (he : (s.core c).hitSpill.entries = h :: rest) (hroom : (s.core c).hitQ.length < 512)
    (hfit : s.fitChunks (s.dieOf c) (s.core c).hitSpill ((s.core c).hitSpill.left rest 1364) 1364 = (u, sp)) :
    exec (.spillRefill c true) s = .next (((u.modCore c fun k => { k.pushHit h with hitSpill := sp }).postOnce
      (.clickerTake c)).post (.spillRefill c true)) := by
  show execSpillRefill c true s = _
  unfold execSpillRefill
  dsimp only
  rw [if_pos rfl, Spill.pop_eq_some he]
  dsimp only
  rw [if_neg (by omega), show hitChunk = 1364 from rfl, hfit]

theorem exec_spillRefill_done {r : List Word} (he : (s.core c).inboxSpill.entries = r :: rest) (hroom : (s.core c).inbox.length < 512)
    (hdone : Ray.done (r.take 25) = true)
    (hfit : s.fitChunks (s.dieOf c) (s.core c).inboxSpill ((s.core c).inboxSpill.left rest 682) 682 = (u, sp)) :
    exec (.spillRefill c false) s = .next ((((u.modCore c fun k => { k with inboxSpill := sp }).modCore c fun k =>
      k.pushRay { slot := none, words := r.take 25 }).inboxHead c).post (.spillRefill c false)) := by
  show execSpillRefill c false s = _
  unfold execSpillRefill
  dsimp only
  rw [if_neg Bool.false_ne_true, Spill.pop_eq_some he]
  dsimp only
  rw [if_neg (by omega), show rayChunk = 682 from rfl, hfit]
  dsimp only
  rw [if_pos (.inl hdone), if_pos hdone]

theorem exec_hitArrival_room {hit : Words} {bs : List Byte} {bad : Bool}
    (hread : s.homeRead .hbm (s.saveRecord c (wf32 (hit.getD 0 0) 9 0) + 60) 4 = (u, bs, bad)) (hroom : (u.core c).hitQ.length < 512)
    (hspill : (u.core c).hitSpill.entries = []) :
    exec (.hitArrival c hit) s = .next ((u.modCore c fun k => k.pushHit (hit.set 10 (w32 (leNat bs)))).postOnce (.clickerTake c)) := by
  show execHitArrival c hit s = _
  unfold execHitArrival
  extract_lets slot
  rw [show s.homeRead .hbm (s.saveRecord c slot + 60) 4 = _ from hread]
  dsimp only
  rw [if_pos ⟨hroom, by rw [hspill]; rfl⟩, modCore]

theorem exec_sendexitArrival {ray : Words} {bs : List Byte} {bad : Bool}
    (hread : s.homeRead .hbm (s.saveRecord c (wf32 (ray.getD 8 0) 9 0)) 64 = (u, bs, bad)) :
    exec (.sendexitArrival c ray) s = .next (match forwardRay (leaveObjectSpace ray bs) [] with
      | (y, .hold) => u.enqueueRay c { slot := none, words := y.take 24 ++ [w32 c] }
      | (y, _) => u.routeRay c (addHop y)) := by
  show execSendexitArrival c ray s = _
  unfold execSendexitArrival
  rw [hread]
  change (match forwardRay (leaveObjectSpace ray bs) [] with
    | (y, .hold) => _
    | (y, _) => _) = _
  obtain ⟨y, e⟩ := forwardRay (leaveObjectSpace ray bs) []
  cases e <;> rfl

end
end State
end Sys2Proof.Machine
end

section
namespace Sys2Proof.Machine

/-- A ray that an accepting core has room for stands in its inbox, and nothing else of its registers or of memory changes. -/
theorem State.exec_rayArrival_room {s : State} {c j : Nat} {ray : Words} (h : (s.core c).slotFor (Ray.tid ray) = some (j, false))
    (hroom : (s.core c).inbox.length < 512) (hspill : (s.core c).inboxSpill.entries = []) (hlen : 24 ≤ ray.length) (hs : s.memWf = true) :
    ∃ t : State, ∃ p < 512, exec (.rayArrival c ray) s = .next t ∧ (∀ r ∈ (s.core c).inbox, r.place ≠ p) ∧
      (t.core c).inbox = (s.core c).inbox ++ [{ slot := some j, words := ray, place := p }] ∧
      (t.core c).slots.look j = ((s.core c).slots.look j).map (fun p => { p with uses := p.uses + 1, heat := min 0xffff (p.heat + 1) }) ∧
      (∀ a, Mem.get (n := 8) (t.core c).store a =
        if 0x5ea000 + 96 * p ≤ a ∧ a < 0x5ea000 + 96 * p + 96 then
          (ray.getD ((a - 0x5ea000 - 96 * p) / 4) 0).extractLsb' (8 * ((a - 0x5ea000) % 4)) 8
        else Mem.get (n := 8) (s.core c).store a) ∧
      (t.core c).rf = (s.core c).rf ∧ t.hbm = s.hbm := by
  obtain ⟨u, hexec, hcore, hhbm⟩ := exec_rayArrival_accepted h
  obtain ⟨p, hp, hfree, hinbox, hstore⟩ := Core.pushRay_spec (k := (s.core c).acceptRay j)
    (by rw [Core.store_acceptRay]; exact Core.store_wf (core_memWf hs c)) (by rwa [Core.inbox_acceptRay])
    { slot := some j, words := ray } hlen
  rw [enqueueRay_room (by rwa [hcore, Core.inbox_acceptRay]) (by rwa [hcore, Core.inboxSpill_acceptRay]), hcore] at hexec
  rw [Core.inbox_acceptRay] at hfree hinbox
  refine ⟨_, p, hp, hexec, hfree, ?_⟩
  simp only [core_setCore, if_true, Core.inbox_wake, Core.slots_wake, Core.store_wake, Core.rf_wake, Core.slots_pushRay, Core.rf_pushRay,
    Core.rf_acceptRay, Core.look_acceptRay, hinbox, hstore, Core.store_acceptRay, setCore_hbm, hhbm, implies_true, and_self]

/-- Settles O47: a ray at a core with or without its slot; a ray at its home by the scene, the entry and the owners; the index entry by
what is read of it; and rings, hits and exits at the core they come to. -/
theorem rayRouting : Obligations.RayRouting := by
  unfold Obligations.RayRouting
  refine ⟨fun s c ray => State.exec_rayArrival_foreign, fun s c ray j => State.exec_rayArrival_room, ?home, ?owners,
    State.forwardHome_eq, ?index, fun s c tid owners => rfl, ?refill, ?hits, fun s c hit u bs bad => State.exec_hitArrival_room,
    fun s c slot => rfl, ?exit⟩
  case home =>
    intro s d fwd ray tid sc from_ live
    exact ⟨State.exec_directoryRayArrival_refused, State.exec_directoryRayArrival_absent,
      fun e => State.exec_directoryRayArrival_failed⟩
  case owners =>
    intro s d ray e hf u
    have h := State.dirRay_unforwarded s d ray hf
    refine ⟨fun ha => ?_, fun f rest ha hfill => ?_, fun ha hfill => ⟨fun hp => ?_, fun hp hlt => ?_⟩⟩
    · rw [h, if_pos ha]
    · simp [h, ha, hfill, u]
    · simp [h, ha, hfill, hp, u]
    · simp [h, ha, hfill, hp, hlt, u]
  case index =>
    intro s d tid he hheld sc va ok
    refine ⟨State.exec_indexEntryRead_refused he hheld, fun u v ap off bs h hx => ?_⟩
    obtain ⟨hunreadable, hreadable⟩ := State.exec_indexEntryRead_translated he hheld h hx
    exact ⟨hunreadable, hreadable v bs⟩
  case refill =>
    intro s c k left
    refine ⟨fun h rest u sp he hroom hfit => ⟨?_, State.exec_spillRefill_hit he hroom hfit⟩,
      fun r rest u sp he hroom hdone hfit => ⟨?_, State.exec_spillRefill_done he hroom hdone hfit⟩⟩
    · exact (congrArg (·.2.entries) hfit).symm.trans (State.entries_fitChunks _ _ _ _ _)
    · exact (congrArg (·.2.entries) hfit).symm.trans (State.entries_fitChunks _ _ _ _ _)
  case hits =>
    intro k h hk hlen p
    exact ⟨rfl, Core.get_pushHit hk hlen⟩
  case exit =>
    intro s c ray u bs bad hlen hread
    exact ⟨leaveObjectSpace ray bs, take_leaveObjectSpace (by omega) bs, done_leaveObjectSpace ray bs, State.exec_sendexitArrival hread⟩

end Sys2Proof.Machine
end

section
/-! Reading a treelet's image (R91) leaves the places of the package as they are. -/

namespace Sys2Proof.Machine.State

/-- A translation for a read changes caches alone. -/
theorem rest_of_xlate_read {s u : State} {c eng ctx va off : Nat} {hint : Bool} {who : Waiter} {ap : Ap}
    (h : s.xlate c eng ctx va false hint who = .ok ap off u) : u.rest = s.rest := by
  unfold xlate at h
  dsimp only at h
  split at h
  · cases h
  · split at h
    · cases h
    · rw [if_neg (by simp)] at h
      cases h
      repeat' split
      all_goals rfl

theorem rest_of_readImage {fuel : Nat} {s u : State} {c ctx va n : Nat} {who : Instr} {bs : List Byte}
    (h : readImage fuel s c ctx who va n = .ok u bs) : u.rest = s.rest := by
  induction fuel generalizing s va n bs with
  | zero => cases h; rfl
  | succ fuel ih =>
    unfold readImage at h
    split at h
    · cases h; rfl
    · extract_lets m at h
      split at h
      · cases h
      · cases h
      · next ap off s' hx =>
        split at h
        · cases h
        · have hread := rest_homeRead s' ap off m
          generalize s'.homeRead ap off m = r at h hread
          obtain ⟨t, bs', bad⟩ := r
          dsimp only at h
          split at h
          · cases h
          · split at h
            · next hmore =>
              cases h
              exact (ih hmore).trans (hread.trans (rest_of_xlate_read hx))
            · next hno => exact absurd h (hno _ _)

section
variable {s t : State} (hp : t.product = s.product) (hf : t.fused = s.fused)

include hp in
theorem homeDie_congr (tid : Nat) : t.homeDie tid = s.homeDie tid := by
  unfold homeDie
  rw [hp]

include hp in
theorem agentCore_congr (d : Nat) : t.agentCore d = s.agentCore d := by
  unfold agentCore dieCore coreAt
  rw [hp]

include hf in
theorem logical_congr (c : Nat) : t.logical c = s.logical c := by
  unfold logical
  rw [hf]

end
end Sys2Proof.Machine.State
end

section
/-! Pool slots: reserved, drained, filled (R91, R92, R98). -/

namespace Sys2Proof.Machine.State

section
variable {s : State} {c j : Nat} {p : PoolSlot}

/-- An empty slot that a die offers is reserved, and its fill begins. -/
theorem exec_placementRequest_empty {d tid home : Nat} {replica : Bool} {e : DirEntry} (he : s.dirEntry home tid = some e)
    (hp : e.placing = true) (ho : e.owners.length < 4) (hpick : s.pickSlot d = some (c, j)) (hlook : (s.core c).slots.look j = none) :
    let q : PoolSlot :=
      { scene := sceneOf tid, number := numberOf tid, state := .filling, pinned := e.pinned, next := some (tid, e.image, e.pinned) }
    let u := (s.modCore c fun k => { k with slots := k.slots.put j q }).post (.treeletFillComplete c j)
    exec (.placementRequest d tid home replica) s = .next ((u.modEntry home tid fun e => { e with
      placing := false, owners := e.owners ++ [(u.logical c, j, true, false)] }).retryHeld home tid) := by
  intro q u
  show execPlacementRequest d tid home replica s = _
  unfold execPlacementRequest
  rw [he]
  dsimp only
  rw [if_neg (by simp [hp, ho]), hpick]
  dsimp only
  rw [hlook]

/-- The last use of a draining slot has ended: its home is told, and the slot is empty or its fill begins. -/
theorem exec_slotDrained (hlook : (s.core c).slots.look j = some p) (hstate : p.state = .draining) (huses : p.uses = 0) :
    let d := s.homeDie p.tid
    let u := s.send c (s.agentCore d) 5 1 (.drained d p.tid (partNo 1024 (s.logical c) j))
    (p.next = none → exec (.slotDrained c j) s =
      .next (u.modCore c fun k => { k with slots := k.slots.drop j, accepted := k.accepted.drop j }).retryPlacements) ∧
    ∀ tid image pin, p.next = some (tid, image, pin) →
      let q : PoolSlot := { scene := sceneOf tid, number := numberOf tid, state := .filling, pinned := pin, uses := p.nextUses,
                            heat := min 0xffff p.nextUses, next := p.next }
      exec (.slotDrained c j) s = .next ((u.modCore c fun k => { k with slots := k.slots.put j q }).post (.treeletFillComplete c j)) := by
  intro d u
  rw [show exec (.slotDrained c j) s = execSlotDrained c j s from rfl]
  unfold execSlotDrained
  rw [hlook]
  dsimp only
  rw [if_neg (by simp [hstate, huses])]
  refine ⟨fun hnext => by rw [hnext], fun tid image pin hnext => ?_⟩
  simp only [hnext, u, d]

/-- The header of an image has been read: it is refused, or the image follows, and the slot turns resident and its home is told. -/
theorem exec_treeletFillComplete {tid image : Nat} {pin : Bool} {u : State} {head : List Byte} (hlook : (s.core c).slots.look j = some p)
    (hstate : p.state = .filling) (hnext : p.next = some (tid, image, pin))
    (hread : readImage 2 s c (s.sceneCtx (sceneOf tid)) (.treeletFillComplete c j) image 64 = .ok u head) :
    (headerOk head (numberOf tid) = false → exec (.treeletFillComplete c j) s = .next (u.failFill c j tid 5)) ∧
    ∀ v bs, headerOk head (numberOf tid) = true →
      readImage 18 u c (s.sceneCtx (sceneOf tid)) (.treeletFillComplete c j) image (imageSize head) = .ok v bs →
      exec (.treeletFillComplete c j) s = .next ((((v.modCore c fun k => (k.writeForeign (j * 65536) bs).modSlot j fun p =>
        { p with state := .resident, next := none }).send c (s.agentCore (s.homeDie tid)) 5 1
          (.filled (s.homeDie tid) tid (partNo 1024 (s.logical c) j))).inboxHead c).retryPlacements) := by
  rw [show exec (.treeletFillComplete c j) s = execTreeletFillComplete c j s from rfl]
  unfold execTreeletFillComplete
  rw [hlook]
  dsimp only
  rw [hstate, hnext]
  dsimp only
  rw [hread]
  dsimp only
  refine ⟨fun h => by rw [if_pos (by simp [h])], fun v bs h hbody => ?_⟩
  have hrest : v.rest = s.rest := (rest_of_readImage hbody).trans (rest_of_readImage hread)
  rw [if_neg (by simp [h]), hbody]
  dsimp only
  rw [homeDie_congr (t := v.modCore c _) (product_of_rest hrest), agentCore_congr (t := v.modCore c _) (product_of_rest hrest),
    logical_congr (t := v.modCore c _) (fused_of_rest hrest)]

end
end Sys2Proof.Machine.State
end

section
/-! The directory of a die and the rays that it holds (R96, R97, R101). -/

namespace Sys2Proof.Machine

theorem partNo_inj {n a b l j : Nat} (ha : a < n) (hl : l < n) : partNo n a b = partNo n l j ↔ a = l ∧ b = j := by
  unfold partNo
  refine ⟨fun h => ?_, fun ⟨ha, hb⟩ => by rw [ha, hb]⟩
  have hmod := congrArg (· % n) h
  have hdiv := congrArg (· / n) h
  simp only [Nat.add_mul_mod_self_left, Nat.mod_eq_of_lt ha, Nat.mod_eq_of_lt hl] at hmod
  simp only [Nat.add_mul_div_left _ _ (Nat.zero_lt_of_lt ha), Nat.div_eq_of_lt ha, Nat.div_eq_of_lt hl, Nat.zero_add] at hdiv
  exact ⟨hmod, hdiv⟩

/-! ### Owners -/

theorem ownerIs_iff {owner : Nat} {o : Nat × Nat × Bool × Bool} : ownerIs owner o = true ↔ partNo 1024 o.1 o.2.1 = owner := beq_iff_eq

theorem not_ownerIs (owner : Nat) (o : Nat × Nat × Bool × Bool) : (!ownerIs owner o) = decide (partNo 1024 o.1 o.2.1 ≠ owner) := by
  simp [ownerIs, beq_eq_decide]

theorem mem_removeOwner {e : DirEntry} {owner : Nat} {o : Nat × Nat × Bool × Bool} : o ∈ (e.removeOwner owner).owners ↔
    o ∈ e.owners ∧ ¬ (partNo 1024 o.1 o.2.1 = owner ∧
      (o.2.2.2 = true ∨ ∀ p ∈ e.owners, partNo 1024 p.1 p.2.1 = owner → p.2.2.2 = false)) := by
  have hdrained : (e.owners.any fun o => ownerIs owner o && o.2.2.2) = false ↔
      ∀ p ∈ e.owners, partNo 1024 p.1 p.2.1 = owner → p.2.2.2 = false := by
    simp [ownerIs_iff]
  unfold DirEntry.removeOwner
  dsimp only
  rw [List.mem_filter, Bool.not_eq_true', Bool.eq_false_iff, Ne, Bool.and_eq_true, Bool.or_eq_true, ownerIs_iff, Bool.not_eq_true',
    hdrained]

namespace State

section
variable (s : State) (d tid owner : Nat)

theorem exec_filled : exec (.filled d tid owner) s = .next (((s.modEntry d tid fun e => { e with owners := e.owners.map fun o =>
    if (partNo 1024 o.1 o.2.1) = owner then (o.1, o.2.1, false, o.2.2.2) else o }).entryEvent d tid).checkReplica d tid) := by
  show execFilled d tid owner s = _
  simp only [execFilled, ownerIs_iff]

theorem exec_leaving : exec (.leaving d tid owner) s = .next ((s.modEntry d tid fun e => { e with owners := e.owners.map fun o =>
    if (partNo 1024 o.1 o.2.1) = owner then (o.1, o.2.1, o.2.2.1, true) else o }).entryEvent d tid) := by
  show execLeaving d tid owner s = _
  simp only [execLeaving, DirEntry.drainOwner, ownerIs_iff]

theorem exec_fillFailed (cause : Nat) (h : s.dirEntry d tid ≠ none) : exec (.fillFailed d tid owner cause) s =
    .next (((s.modEntry d tid fun e => { e with
      owners := e.owners.filter fun o => partNo 1024 o.1 o.2.1 ≠ owner, failed := true }).sceneFault tid cause).entryEvent d tid) := by
  obtain ⟨e, he⟩ := Option.ne_none_iff_exists'.1 h
  show execFillFailed d tid owner cause s = _
  unfold execFillFailed
  rw [he]
  simp only [not_ownerIs]

end

/-! ### Held rays -/

section
variable {s : State} {d tid : Nat} (h : ∀ r ∈ (s.die d).holding.entries, Ray.tid r ≠ tid)
include h

theorem takeHeld_none : s.takeHeld d tid = (s, []) := by
  have hmine : ((s.die d).holding.entries.filter fun r => Ray.tid r == tid) = [] :=
    List.filter_eq_nil_iff.2 fun r hr => by simpa using h r hr
  unfold takeHeld
  extract_lets x
  rw [List.partition_eq_filter_filter, show (x.holding.entries.filter fun r => Ray.tid r == tid) = [] from hmine]
  rfl

theorem retryHeld_none : s.retryHeld d tid = s := by
  unfold retryHeld
  rw [takeHeld_none h]
  rfl

/-- A way stays whose entry is not being drained. -/
theorem entryEvent_staying {e : DirEntry} (he : s.dirEntry d tid = some e) (hway : e.leavingWay = false) :
    s.entryEvent d tid = s.retrySet d tid := by
  unfold entryEvent settleWay
  rw [retryHeld_none h, he]
  dsimp only
  rw [if_pos (by simp [hway])]

/-- A way that drains is free when its last owner has gone (R101). -/
theorem entryEvent_freed {e : DirEntry} (he : s.dirEntry d tid = some e) (hway : e.leavingWay = true) (ho : e.owners = []) :
    s.entryEvent d tid = (s.setDirSet d tid ((s.dirSet d tid).filter fun x => x.tid ≠ tid)).retrySet d tid := by
  unfold entryEvent settleWay
  rw [retryHeld_none h, he]
  dsimp only
  rw [if_neg (by simp [hway]), if_pos (by rw [ho]; rfl)]

end

theorem retryPlacements_served {s : State} (h : ∀ x ∈ s.dies, ∀ r ∈ x.2.holding.entries, (s.dirEntry x.1 (Ray.tid r)).all (fun e =>
    e.placing || !e.available.isEmpty || !e.filling.isEmpty) = true) : s.retryPlacements = s := by
  unfold retryPlacements
  refine foldl_eq_self fun x hx => foldl_eq_self fun t ht => if_neg ?_
  obtain ⟨r, hr, rfl⟩ := List.mem_map.1 (List.mem_dedup.1 ht)
  have hserved := h x hx r hr
  cases he : s.dirEntry x.1 (Ray.tid r) with
  | none => simp
  | some e =>
    rw [he] at hserved
    simp only [Option.all_some, Bool.or_eq_true, Bool.not_eq_true'] at hserved
    simp only [Option.any_some, Bool.and_eq_true, Bool.not_eq_true', not_and]
    rcases hserved with (hp | ha) | hf
    · simp [hp]
    · simp [ha]
    · simp [hf]

/-! ### Heat (R97) -/

theorem dies_foldl_modCore (f : Core → Core) (cs : List Nat) (s : State) : (cs.foldl (fun (s : State) c => s.modCore c f) s).dies = s.dies := by
  induction cs generalizing s with
  | nil => rfl
  | cons c t ih => rw [List.foldl_cons, ih, modCore_dies]

theorem core_foldl_modCore (f : Core → Core) {cs : List Nat} (hcs : cs.Nodup) (s : State) (c : Nat) :
    (cs.foldl (fun (s : State) c => s.modCore c f) s).core c = if c ∈ cs then f (s.core c) else s.core c := by
  induction cs generalizing s with
  | nil => rfl
  | cons a t ih =>
    obtain ⟨ha, ht⟩ := List.nodup_cons.1 hcs
    rw [List.foldl_cons, ih ht, core_modCore]
    by_cases hc : a = c
    · subst hc
      rw [if_neg ha, if_pos rfl, if_pos List.mem_cons_self]
    · rw [if_neg hc]
      simp [Ne.symm hc]

theorem dieCores_nodup (s : State) (d : Nat) : (s.dieCores d).Nodup := (present_nodup s).filter _

/-- A decay period has passed for the entries of a die's directory. -/
def cooledDir (x : Die) : Die := { x with dir := x.dir.map fun (i, l) => (i, l.map fun e => { e with heat := e.heat / 2 }) }
/-- A decay period has passed for the slots of a core. -/
def cooledSlots (k : Core) : Core := { k with slots := k.slots.map fun (j, p) => (j, { p with heat := p.heat / 2 }) }

theorem exec_heatDecay (s : State) (d : Nat) : ∃ t : State, exec (.heatDecay d) s = .next t.retryPlacements ∧
    (t.die d).dir = (s.die d).dir.map (fun (i, l) => (i, l.map fun e => { e with heat := e.heat / 2 })) ∧
    ∀ c ∈ s.dieCores d, (t.core c).slots = (s.core c).slots.map (fun (j, p) => (j, { p with heat := p.heat / 2 })) := by
  refine ⟨(s.dieCores d).foldl (fun (s : State) c => s.modCore c cooledSlots) (s.modDie d cooledDir), rfl, ?_, fun c hc => ?_⟩
  · rw [die, dies_foldl_modCore]
    exact congrArg Die.dir (die_modDie_same s d cooledDir)
  · rw [core_foldl_modCore _ (dieCores_nodup s d), if_pos hc]
    rfl

/-- A free chunk passes from one die to another (R105). -/
theorem exec_poolRebalance {s : State} {d e i : Nat} {rest : List Nat} (h : (s.die d).spillFree = i :: rest) (hne : d ≠ e) :
    ∃ t : State, exec (.poolRebalance d e) s = .next t ∧ (t.die d).spillFree = rest ∧
      (t.die e).spillFree = i :: (s.die e).spillFree ∧ t.cores = s.cores ∧ t.hbm = s.hbm := by
  refine ⟨(s.modDie d fun x => { x with spillFree := rest }).modDie e fun x => { x with spillFree := i :: x.spillFree }, ?_, ?_, ?_, rfl, rfl⟩
  · show execPoolRebalance d e s = _
    unfold execPoolRebalance
    rw [h]
  · rw [die_modDie, if_neg (Ne.symm hne), die_modDie_same]
  · rw [die_modDie_same, die_modDie, if_neg hne]

end State
end Sys2Proof.Machine
end

section
/-! Retiring a scene (R85, R396). -/

namespace Sys2Proof.Machine.State

/-- The host command of a scene's retirement is busy (R396). -/
def retireCommand (s : State) (sc : Nat) : State := ((s.setField 0x30 63 60 (8 + 2)).setField 0x30 58 56 0).setField 0x30 7 0 sc

theorem field_retireCommand (s : State) (sc : Nat) : (s.retireCommand sc).field 0x30 63 63 = 1 := by
  unfold retireCommand
  rw [field_setField_disjoint _ _ (by omega) (by omega) (by omega), field_setField_disjoint _ _ (by omega) (by omega) (by omega),
    field, ctlQ_setField, if_pos rfl, qf_bit, getLsbD_qset (by omega) (by omega)]
  rfl

/-- The scene is being retired and no map cache names its treelets; its held rays are still there (R85). -/
def forgetScene (s : State) (sc : Nat) : State :=
  { s with
    retiring := sc :: s.retiring
    retired := s.retired.erase sc
    cores := s.cores.map fun (i, k) => (i, { k with mapCache := k.mapCache.filter fun e => sceneOf e.1 ≠ sc }) }

theorem field_forgetScene (s : State) (sc off hi lo : Nat) : (s.forgetScene sc).field off hi lo = s.field off hi lo := rfl

theorem mapCache_forgetScene {s : State} {sc : Nat} : ∀ k ∈ (s.forgetScene sc).cores, ∀ e ∈ k.2.mapCache, sceneOf e.1 ≠ sc := by
  intro k hk e he
  obtain ⟨p, -, rfl⟩ := List.mem_map.1 hk
  simpa using (List.mem_filter.1 he).2

/-- The scene's treelets that rays of a die wait for. -/
def heldOf (sc : Nat) (s : State) (d : Nat) : List Nat := ((s.die d).holding.entries.map Ray.tid).dedup.filter fun t => sceneOf t = sc

theorem retireScene_eq {s : State} {sc : Nat} (hsc : sc < 256) (hidle : s.field 0x30 63 63 = 0) :
    s.retireScene sc = ((List.range s.product.dies).foldl (fun (u : State) d =>
      (heldOf sc u d).foldl (fun (u : State) t => u.returnHeld d t 2) u) ((s.retireCommand sc).forgetScene sc)).post (.sceneRetireComplete sc) := by
  unfold retireScene
  rw [if_neg (by omega)]
  simp only [beq_eq_decide]
  rfl

/-! ### Completion -/

section
variable {s : State} {sc : Nat}

theorem slots_of_allEmpty (h : s.cores.all (fun k => k.2.slots.isEmpty) = true) (c : Nat) : (s.core c).slots = [] := by
  unfold core
  cases hc : s.cores.look c with
  | none => rfl
  | some k => exact List.isEmpty_iff.1 (List.all_eq_true.1 h _ (AMap.mem_of_look hc))

theorem holding_of_allEmpty (h : ∀ x ∈ s.dies, x.2.holding.entries = []) (d : Nat) : (s.die d).holding.entries = [] := by
  unfold die
  cases hd : s.dies.look d with
  | none => rfl
  | some x => exact h _ (AMap.mem_of_look hd)

theorem retryIndex_none {d : Nat} (h : (s.die d).holding.entries = []) (sets : Nat → Bool) : s.retryIndex d sets = s := by
  unfold retryIndex
  rw [h]
  rfl

/-- The entries of the scene that have no owner go (R85). -/
def strip (sc : Nat) (x : Die) : Die :=
  { x with dir := x.dir.map fun (i, l) => (i, l.filter fun e => !(sceneOf e.tid == sc && e.owners.isEmpty && !e.placing)) }

theorem strip_of_absent {x : Die} (h : (x.dir.all fun l => l.2.all fun e => sceneOf e.tid != sc) = true) : strip sc x = x := by
  have hdir : (x.dir.map fun (i, l) => (i, l.filter fun e => !(sceneOf e.tid == sc && e.owners.isEmpty && !e.placing))) = x.dir := by
    refine (List.map_congr_left fun l hl => ?_).trans (List.map_id _)
    refine Prod.ext rfl (List.filter_eq_self.2 fun e he => ?_)
    have hne := List.all_eq_true.1 (List.all_eq_true.1 h l hl) e he
    rw [bne, Bool.not_eq_true'] at hne
    rw [hne]
    rfl
  unfold strip
  rw [hdir]

/-- With no slot in use, no entry of the scene and no held ray, the command completes (R85, R396). -/
theorem exec_sceneRetireComplete_done (hsc : sc ∈ s.retiring) (hslots : s.cores.all (fun k => k.2.slots.isEmpty) = true)
    (hdir : s.dies.all (fun x => x.2.dir.all fun l => l.2.all fun e => sceneOf e.tid != sc) = true)
    (hheld : ∀ x ∈ s.dies, x.2.holding.entries = []) :
    exec (.sceneRetireComplete sc) s =
      .next (({ s with retiring := s.retiring.erase sc, retired := sc :: s.retired } : State).hostDone 0) := by
  have hdrained : (s.present.foldl (fun (s : State) c => (s.core c).slots.foldl (fun (s : State) (j, p) =>
      if p.scene = sc ∧ p.state = .resident then s.startDrain c j none else s) s) s) = s :=
    foldl_eq_self fun c _ => by rw [slots_of_allEmpty hslots c]; rfl
  have hdies : (s.dies.map fun (d, x) => (d, strip sc x)) = s.dies :=
    (List.map_congr_left fun x hx => congrArg (Prod.mk x.1) (strip_of_absent (List.all_eq_true.1 hdir x hx))).trans (List.map_id _)
  have hstripped : ({ s with dies := s.dies.map fun (d, x) => (d, strip sc x) } : State) = s := by rw [hdies]
  have hfree : (s.present.any fun c => (s.core c).slots.any fun (_, p) => p.scene == sc || p.next.any fun (n : Nat × Nat × Bool) =>
      sceneOf n.1 == sc) = false := List.any_eq_false.2 fun c _ => by rw [slots_of_allEmpty hslots c]; simp
  have hgone : (s.dies.any fun (_, x) => x.dir.any fun (_, l) => l.any fun e => sceneOf e.tid == sc) = false := by
    simpa using hdir
  have hretried : (s.dies.foldl (fun (s : State) (d, _) => s.retryIndex d fun _ => true) s) = s :=
    foldl_eq_self fun x _ => retryIndex_none (holding_of_allEmpty hheld x.1) _
  show execSceneRetireComplete sc s = _
  unfold execSceneRetireComplete
  rw [if_neg (by simpa using hsc), hdrained]
  extract_lets s' keep strips t busy u
  have ht : t = s := hstripped
  have hbusy : busy = false := by
    unfold busy
    rw [ht, hfree, hgone]
    rfl
  have hu : u = s := by
    unfold u
    rw [ht, hretried]
  rw [hbusy, if_neg Bool.false_ne_true, hu]

end
end Sys2Proof.Machine.State
end

section
namespace Sys2Proof.Machine

/-- Settles O48: the states of a slot by what its record holds, the directory by its owners, and the retirement of a scene. -/
theorem treeletSteps : Obligations.TreeletSteps := by
  unfold Obligations.TreeletSteps
  refine ⟨fun s d tid home r e c j => State.exec_placementRequest_empty, ?drained, ?filled, fun a b l j => partNo_inj, ?owners,
    fun e owner => ⟨fun o => mem_removeOwner, rfl⟩, ?events, State.exec_heatDecay, fun s => State.retryPlacements_served,
    fun s d e i rest => State.exec_poolRebalance, ?retire, fun s sc => State.exec_sceneRetireComplete_done⟩
  case drained =>
    intro s c j p hlook hstate huses d u
    exact State.exec_slotDrained hlook hstate huses
  case filled =>
    intro s c j p tid image pin hlook hstate hnext ctx who u v head bs hread
    obtain ⟨hrefused, hfilled⟩ := State.exec_treeletFillComplete hlook hstate hnext hread
    exact ⟨hrefused, hfilled v bs⟩
  case owners =>
    intro s d tid owner n cause
    exact ⟨State.exec_filled s d tid owner, State.exec_fillFailed s d tid owner cause, State.exec_leaving s d tid owner, rfl, rfl⟩
  case events =>
    intro s d tid e he hheld
    exact ⟨State.entryEvent_staying hheld he, State.entryEvent_freed hheld he⟩
  case retire =>
    intro s sc hsc hidle held
    exact ⟨(s.retireCommand sc).forgetScene sc, congrArg Host.Outcome.next (State.retireScene_eq hsc hidle), rfl, rfl,
      (State.field_forgetScene _ sc _ _ _).trans (State.field_retireCommand s sc), rfl, rfl, State.mapCache_forgetScene⟩

end Sys2Proof.Machine
end

section
/-! Parts of a field and masked writes of a quadword (R2, R394), and the fields that no event, core or die touches. -/

namespace Sys2Proof.Machine

/-- A field that lies within the one replaced. -/
theorem qf_qset_within {hi lo hi' lo' : Nat} (hlo : lo ≤ lo') (hord : lo' ≤ hi') (hwithin : hi' ≤ hi) (hhi : hi < 64) (q : DWord)
    (x : Nat) : qf (qset q hi lo x) hi' lo' = bits x (hi' - lo) (lo' - lo) := by
  refine Nat.eq_of_testBit_eq fun j => ?_
  rw [testBit_qf, getLsbD_qset (by omega) hhi, testBit_bits, show hi' - lo + 1 - (lo' - lo) = hi' + 1 - lo' by omega]
  by_cases hj : j < hi' + 1 - lo'
  · rw [if_pos (by omega), Nat.sub_add_comm hlo]
  · simp [hj]

/-- A field that a masked write takes from the new value. -/
theorem qf_masked_or {hi lo : Nat} {m m' : DWord} (hm : ∀ j < hi + 1 - lo, m.getLsbD (lo + j) = false ∧ m'.getLsbD (lo + j) = true)
    (q r : DWord) : qf ((q &&& m) ||| (r &&& m')) hi lo = qf r hi lo := by
  refine Nat.eq_of_testBit_eq fun j => ?_
  rw [testBit_qf, testBit_qf, BitVec.getLsbD_or, BitVec.getLsbD_and, BitVec.getLsbD_and]
  by_cases hj : j < hi + 1 - lo
  · simp [hm j hj]
  · simp [hj]

theorem qf_setWidth (v : Word) (hi lo : Nat) : qf (BitVec.setWidth 64 v) hi lo = wf32 v hi lo := by
  rw [qf, BitVec.toNat_setWidth_of_le (by omega)]
  rfl

namespace State

theorem field_congr {s t : State} (hctl : t.ctl = s.ctl) (hp : t.product = s.product) (off hi lo : Nat) : t.field off hi lo = s.field off hi lo :=
  congrArg (qf · hi lo) (congrFun (ctlQ_congr hctl hp) off)

theorem field_of_rest {s t : State} (h : t.rest = s.rest) (off hi lo : Nat) : t.field off hi lo = s.field off hi lo :=
  show t.rest.field off hi lo = s.rest.field off hi lo by rw [h]

@[simp] theorem field_modCore (s : State) (c : Nat) (f : Core → Core) (off hi lo : Nat) : (s.modCore c f).field off hi lo = s.field off hi lo := rfl
@[simp] theorem field_modDie (s : State) (d : Nat) (f : Die → Die) (off hi lo : Nat) : (s.modDie d f).field off hi lo = s.field off hi lo := rfl

@[simp] theorem field_postOnce (s : State) (i : Instr) (off hi lo : Nat) : (s.postOnce i).field off hi lo = s.field off hi lo :=
  field_of_rest (rest_postOnce s i) off hi lo

@[simp] theorem die_setField (s : State) (off hi lo x d : Nat) : (s.setField off hi lo x).die d = s.die d := rfl

@[simp] theorem die_postOnce (s : State) (i : Instr) (d : Nat) : (s.postOnce i).die d = s.die d := by
  unfold postOnce
  split <;> rfl

theorem field_setField_within (s : State) (off : Nat) {hi lo hi' lo' : Nat} (hlo : lo ≤ lo') (hord : lo' ≤ hi') (hwithin : hi' ≤ hi)
    (hhi : hi < 64) (x : Nat) : (s.setField off hi lo x).field off hi' lo' = bits x (hi' - lo) (lo' - lo) := by
  rw [field, ctlQ_setField, if_pos rfl, qf_qset_within hlo hord hwithin hhi]

end State
end Sys2Proof.Machine
end

section
/-! The hedges (R382, R383). -/

namespace Sys2Proof.Machine.State

/-! ### Steps -/

section
variable (s : State) (d : Nat)

@[simp] theorem die_setStep (step : Nat) (e : Nat) : (s.setStep d step).die e = s.die e := by
  unfold setStep
  split
  · rfl
  · rw [die_postOnce, die_setField, die_setField]

theorem field_setStep_step {step : Nat} (h : step < 8) : (s.setStep d step).field (hedgeOff d) 30 28 = step := by
  unfold setStep
  split
  · assumption
  · rw [field_postOnce, field_setField_disjoint _ _ (by omega) (by omega) (by omega), field_setField_same _ _ (by omega) (by omega)]
    exact Nat.mod_eq_of_lt h

/-- A change of the step is under way (R382). -/
theorem field_setStep_changing {step : Nat} (h : s.field (hedgeOff d) 30 28 ≠ step) : (s.setStep d step).field (hedgeOff d) 27 27 = 1 := by
  unfold setStep
  rw [if_neg h, field_postOnce]
  exact field_setField_same _ _ (by omega) (by omega) _

theorem field_setStep_other (step : Nat) {hi lo : Nat} (h : hi < 27 ∨ 30 < lo) :
    (s.setStep d step).field (hedgeOff d) hi lo = s.field (hedgeOff d) hi lo := by
  unfold setStep
  split
  · rfl
  · rw [field_postOnce, field_setField_disjoint _ _ (by omega) (by omega) (by omega),
      field_setField_disjoint _ _ (by omega) (by omega) (by omega)]

/-- `capped` is the only bit that following the alarm writes (R383). -/
theorem field_syncCapped {hi lo : Nat} (h : hi < 23 ∨ 23 < lo) : (s.syncCapped d).field (hedgeOff d) hi lo = s.field (hedgeOff d) hi lo :=
  field_setField_disjoint _ _ (by omega) (by omega) h _

theorem hedgeCap_lt : s.hedgeCap d < 8 := by
  have hm : s.field (hedgeOff d) 22 20 < 8 := qf_lt _ _ _
  unfold hedgeCap
  dsimp only
  split <;> omega

end

/-! ### The governor's samples -/

/-- The governor is on, its thresholds are in order, and it has held its step for long enough (R382). -/
def Governs (s : State) (d : Nat) : Prop :=
  s.field (hedgeOff d) 31 31 = 1 ∧ s.field (hedgeOff d) 7 0 < s.field (hedgeOff d) 15 8 ∧
    max 1 (s.field (hedgeOff d) 19 16) ≤ (s.die d).hedgeHeld + 1

section
variable {s : State} {d occ : Nat}

theorem hedgeMove_idle (h : ¬ s.Governs d) : s.hedgeMove d occ = none := if_neg h

theorem hedgeMove_up (h : s.Governs d) (hocc : s.field (hedgeOff d) 15 8 < occ) (hcap : s.field (hedgeOff d) 30 28 < s.hedgeCap d) :
    s.hedgeMove d occ = some (s.field (hedgeOff d) 30 28 + 1) :=
  (if_pos h).trans (if_pos ⟨hocc, hcap⟩)

theorem hedgeMove_down (h : s.Governs d) (hocc : occ < s.field (hedgeOff d) 7 0) (hmin : s.field (hedgeOff d) 26 24 < s.field (hedgeOff d) 30 28) :
    s.hedgeMove d occ = some (s.field (hedgeOff d) 30 28 - 1) := by
  obtain ⟨-, horder, -⟩ := id h
  have hup : ¬ (s.field (hedgeOff d) 15 8 < occ ∧ s.field (hedgeOff d) 30 28 < s.hedgeCap d) := by omega
  exact (if_pos h).trans ((if_neg hup).trans (if_pos (Or.inl ⟨hocc, hmin⟩)))

theorem exec_hedgeSample_beyond (h : 255 < occ) : exec (.hedgeGovernorSample d occ) s = .next s := if_pos h

theorem exec_hedgeSample_stays (h : occ ≤ 255) (hmove : s.hedgeMove d occ = none) :
    exec (.hedgeGovernorSample d occ) s = .next (s.modDie d fun x => { x with hedgeHeld := x.hedgeHeld + 1 }) := by
  show execHedgeGovernorSample d occ s = _
  unfold execHedgeGovernorSample
  rw [if_neg (by omega), hmove]

theorem exec_hedgeSample_moves {step : Nat} (h : occ ≤ 255) (hmove : s.hedgeMove d occ = some step) (hstep : step < 8)
    (hne : s.field (hedgeOff d) 30 28 ≠ step) : ∃ t : State, exec (.hedgeGovernorSample d occ) s = .next t ∧
      t.field (hedgeOff d) 30 28 = step ∧ t.field (hedgeOff d) 27 27 = 1 ∧ (t.die d).hedgeHeld = 0 := by
  refine ⟨(s.modDie d fun x => { x with hedgeHeld := 0 }).setStep d step, ?_, field_setStep_step _ d hstep,
    field_setStep_changing _ d hne, ?_⟩
  · show execHedgeGovernorSample d occ s = _
    unfold execHedgeGovernorSample
    rw [if_neg (by omega), hmove]
  · rw [die_setStep, die_modDie_same]

end

/-! ### Writes of the host -/

/-- The quadword of a hedge that the host has written: its step and its change flag stay (R383). -/
def hedgeWritten (s : State) (d : Nat) (v : Word) : State :=
  s.setCtl (hedgeOff d) ((s.ctlQ (hedgeOff d) &&& 0xffffffff78800000) ||| (BitVec.setWidth 64 v &&& 0x877fffff))

theorem field_hedgeWritten (s : State) (d : Nat) (v : Word) {hi lo : Nat}
    (hm : ∀ j < hi + 1 - lo, (0xffffffff78800000 : DWord).getLsbD (lo + j) = false ∧ (0x877fffff : DWord).getLsbD (lo + j) = true) :
    (s.hedgeWritten d v).field (hedgeOff d) hi lo = wf32 v hi lo := by
  rw [hedgeWritten, field_setCtl_same, qf_masked_or hm, qf_setWidth]

theorem field_hedgeWritten_step (s : State) (d : Nat) (v : Word) :
    (s.hedgeWritten d v).field (hedgeOff d) 30 28 = s.field (hedgeOff d) 30 28 := by
  rw [hedgeWritten, field_setCtl_same, BitVec.or_comm, qf_masked_or (by decide)]
  rfl

theorem exec_hedgeCtlWrite (s : State) (d : Nat) (v : Word) : exec (.hedgeCtlWrite d v) s =
    .next ((if v.getLsbD 31 then s.hedgeWritten d v else (s.hedgeWritten d v).setStep d (wf32 v 30 28)).syncCapped d) := rfl

theorem hedgeCtlWrite_spec (s : State) (d : Nat) (v : Word) : ∃ t : State, exec (.hedgeCtlWrite d v) s = .next t ∧
    t.field (hedgeOff d) 31 31 = wf32 v 31 31 ∧
    t.field (hedgeOff d) 30 28 = (if v.getLsbD 31 = true then s.field (hedgeOff d) 30 28 else wf32 v 30 28) ∧
    t.field (hedgeOff d) 22 0 = wf32 v 22 0 ∧ t.field (hedgeOff d) 26 24 = wf32 v 26 24 := by
  have hstep : wf32 v 30 28 < 8 := Nat.mod_lt _ (by decide)
  refine ⟨_, exec_hedgeCtlWrite s d v, ?_⟩
  rw [field_syncCapped _ _ (by omega), field_syncCapped _ _ (by omega), field_syncCapped _ _ (by omega), field_syncCapped _ _ (by omega),
    ← field_hedgeWritten s d v (hi := 31) (lo := 31) (by decide), ← field_hedgeWritten s d v (hi := 22) (lo := 0) (by decide),
    ← field_hedgeWritten s d v (hi := 26) (lo := 24) (by decide)]
  split
  · exact ⟨rfl, field_hedgeWritten_step s d v, rfl, rfl⟩
  · exact ⟨field_setStep_other _ _ _ (by omega), field_setStep_step _ _ hstep, field_setStep_other _ _ _ (by omega),
      field_setStep_other _ _ _ (by omega)⟩

end Sys2Proof.Machine.State
end

section
/-! The power alarm (R398, R399). -/

namespace Sys2Proof.Machine.State

/-- A register that is no hedge's stays when the hedges follow the alarm. -/
theorem field_syncAllCapped (s : State) {off : Nat} (h : off < 0x200000) (hi lo : Nat) : s.syncAllCapped.field off hi lo = s.field off hi lo := by
  unfold syncAllCapped
  generalize List.range s.product.dies = ds
  induction ds generalizing s with
  | nil => rfl
  | cons d t ih =>
    rw [List.foldl_cons, ih, syncCapped, field_setField_other _ (by unfold hedgeOff dieOff; omega)]

@[simp] theorem pin_syncAllCapped (s : State) : s.syncAllCapped.pin = s.pin := by
  unfold syncAllCapped
  generalize List.range s.product.dies = ds
  induction ds generalizing s with
  | nil => rfl
  | cons d t ih => exact ih (s.syncCapped d)

/-- The sensors have been read; the alarm does not follow yet. -/
def sensed (s : State) (reading : Nat) : State := { s.setField 0x18 63 32 (bits reading 63 32) with pin := bits reading 2 2 == 1 }

/-- The alarm follows what the comparison found. -/
theorem senseAlarm_spec (s : State) : s.senseAlarm.pin = s.pin ∧ s.senseAlarm.field 0x18 63 32 = s.field 0x18 63 32 ∧
    s.senseAlarm.field 0x18 2 0 = s.alarmSources % 8 ∧
    s.senseAlarm.field 8 29 29 = if s.alarmSources = 0 then s.field 8 29 29 else 1 := by
  have hpower : (s.setField 0x18 2 0 s.alarmSources).field 0x18 63 32 = s.field 0x18 63 32 :=
    field_setField_disjoint _ _ (by omega) (by omega) (by omega) _
  have hsources : (s.setField 0x18 2 0 s.alarmSources).field 0x18 2 0 = s.alarmSources % 8 := field_setField_same _ _ (by omega) (by omega) _
  unfold senseAlarm
  dsimp only
  by_cases h0 : s.alarmSources = 0
  · rw [if_pos h0, if_pos h0]
    exact ⟨rfl, hpower, hsources, field_setField_other _ (by omega) _ _ _ _ _⟩
  · rw [if_neg h0, if_neg h0]
    refine ⟨pin_syncAllCapped _, ?_, ?_, ?_⟩ <;> rw [field_syncAllCapped _ (by omega)]
    · rw [field_setField_other _ (by omega), hpower]
    · rw [field_setField_other _ (by omega), hsources]
    · exact field_setField_same _ _ (by omega) (by omega) _

theorem ctlQ_pin (s : State) (p : Bool) (off : Nat) : ({ s with pin := p } : State).ctlQ off = s.ctlQ off := rfl

theorem sources_eq_zero_iff {p q r : Prop} [Decidable p] [Decidable q] [Decidable r] :
    (if p then 4 else 0) + (if q then 2 else 0) + (if r then 1 else 0) = 0 ↔ ¬ (p ∨ q ∨ r) := by
  split_ifs <;> simp [*]

/-- What the comparison of a reading with the limits finds (R399). -/
theorem alarmSources_sensed (s : State) (reading : Nat) : (s.sensed reading).alarmSources =
    (if bits reading 2 2 = 1 ∧ qf (s.ctlQ 0x10) 0 0 = 1 then 4 else 0) + (if qf (s.ctlQ 0x10) 63 48 < bits reading 63 48 then 2 else 0) +
      (if qf (s.ctlQ 0x10) 47 40 ≤ bits reading 47 40 then 1 else 0) := by
  have hbits {hi lo : Nat} (hlo : 32 ≤ lo) (hord : lo ≤ hi) (hhi : hi ≤ 63) :
      bits (bits reading 63 32) (hi - 32) (lo - 32) = bits reading hi lo := by
    refine Nat.eq_of_testBit_eq fun j => ?_
    rw [testBit_bits, testBit_bits, testBit_bits, show hi - 32 + 1 - (lo - 32) = hi + 1 - lo by omega, show 32 + (lo - 32 + j) = lo + j by omega]
    by_cases hj : j < hi + 1 - lo
    · rw [decide_eq_true (show lo - 32 + j < 63 + 1 - 32 by omega), Bool.true_and]
    · simp [hj]
  have hlimits : (s.sensed reading).ctlQ 0x10 = s.ctlQ 0x10 := (ctlQ_setField _ _ _ _ _ _).trans (if_neg (by omega))
  have hpower : qf ((s.sensed reading).ctlQ 0x18) 63 48 = bits reading 63 48 :=
    (field_setField_within s _ (by omega) (by omega) (by omega) (by omega) _).trans (hbits (by omega) (by omega) (by omega))
  have hhot : qf ((s.sensed reading).ctlQ 0x18) 47 40 = bits reading 47 40 :=
    (field_setField_within s _ (by omega) (by omega) (by omega) (by omega) _).trans (hbits (by omega) (by omega) (by omega))
  unfold alarmSources
  dsimp only
  rw [hlimits, hpower, hhot]
  simp only [bit, sensed, Bool.and_eq_true, beq_iff_eq, decide_eq_true_eq, ite_mul, Nat.one_mul, Nat.zero_mul]

theorem powerAlarmRaise_spec (s : State) (reading : Nat) :
    let ctl := s.ctlQ 0x10
    let pin := bits reading 2 2 = 1 ∧ qf ctl 0 0 = 1
    let power := qf ctl 63 48 < bits reading 63 48
    let hot := qf ctl 47 40 ≤ bits reading 47 40
    ∃ t : State, exec (.powerAlarmRaise reading) s = .next t ∧ t.pin = decide (bits reading 2 2 = 1) ∧
      t.field 0x18 63 32 = bits reading 63 32 ∧
      t.field 0x18 2 0 = (if pin then 4 else 0) + (if power then 2 else 0) + (if hot then 1 else 0) ∧
      t.field 8 29 29 = if pin ∨ power ∨ hot then 1 else s.field 8 29 29 := by
  intro ctl pin power hot
  obtain ⟨hpin, hread, hsources, halarm⟩ := senseAlarm_spec (s.sensed reading)
  rw [alarmSources_sensed] at hsources halarm
  refine ⟨(s.sensed reading).senseAlarm, rfl, hpin, hread.trans ?_, hsources.trans ?_, halarm.trans ?_⟩
  · exact (field_setField_same _ _ (by omega) (by omega) _).trans (Nat.mod_eq_of_lt (Nat.mod_lt _ (by decide)))
  · refine Nat.mod_eq_of_lt ?_
    split_ifs <;> omega
  · have hstatus : (s.sensed reading).field 8 29 29 = s.field 8 29 29 := field_setField_other _ (by omega) _ _ _ _ _
    rw [hstatus]
    simp only [sources_eq_zero_iff, ite_not]
    rfl

theorem exec_powerAlarmClear (s : State) : exec .powerAlarmClear s = .next (
    if s.field 0x18 63 48 ≤ s.field 0x10 63 48 - s.field 0x10 63 48 / 16 ∧ s.field 0x18 47 40 + 5 ≤ s.field 0x10 47 40 ∧ s.pin = false then
      ((s.setField 0x18 2 0 0).setField 8 29 29 0).syncAllCapped else s) := by
  show execPowerAlarmClear s = _
  unfold execPowerAlarmClear
  dsimp only
  split <;> rfl

end Sys2Proof.Machine.State
end

section
/-! Fatal errors (R405, R406). -/

namespace Sys2Proof.Machine.State

section
variable {s : State} {cause die lcore : Nat}

theorem stopped_stopCores (s : State) {c : Nat} (hc : c ∈ s.present) : (s.stopCores.core c).stopped = true := by
  unfold stopCores
  rw [core_foldl_modCore _ (present_nodup s), if_pos hc]

theorem exec_fatalError_first (h : s.fatal = none) : exec (.fatalError cause die lcore) s =
    .next (({ s.stopCores with fatal := some (cause, die, lcore) } : State).post (.fatalError cause die lcore)) := by
  show execFatalError cause die lcore s = _
  unfold execFatalError
  rw [h]

/-- The host is told of a fatal error and its cause (R405). -/
theorem field_signalFatal (s : State) (cause : Nat) :
    (s.signalFatal cause).field 8 31 31 = 1 ∧ (s.signalFatal cause).field 8 15 0 = cause % 2 ^ 16 := by
  unfold signalFatal
  rw [field_emit, field_emit, field_setField_disjoint _ _ (by omega) (by omega) (by omega), field_setField_same _ _ (by omega) (by omega),
    field_setField_same _ _ (by omega) (by omega)]
  exact ⟨rfl, rfl⟩

theorem exec_fatalError_reported (h : s.fatal = some (cause, die, lcore)) (hnew : s.field 8 31 31 = 0) :
    ∃ u : State, exec (.fatalError cause die lcore) s = .next (u.signalFatal cause) := by
  have hgo : ¬ ((cause, die, lcore) ≠ (cause, die, lcore) ∨ s.field 8 31 31 = 1) := by simp [hnew]
  show ∃ u : State, execFatalError cause die lcore s = .next (u.signalFatal cause)
  unfold execFatalError
  rw [h]
  dsimp only
  rw [if_neg hgo]
  exact ⟨_, rfl⟩

theorem exec_crashWriteTimeout_reported (h : s.fatal = some (cause, die, lcore)) (hold : s.field 8 31 31 = 1) :
    exec .crashWriteTimeout s = .next s := by
  show execCrashWriteTimeout s = _
  unfold execCrashWriteTimeout
  rw [h]
  exact if_pos hold

/-- The magic of a header that was not written: any but that of a crash image (R406). -/
def noMagic (s : State) : Nat := if (Config.freeWord s.free).toNat % 2 ^ 16 = 0x5c7a then 0 else (Config.freeWord s.free).toNat % 2 ^ 16

theorem noMagic_spec (s : State) : s.noMagic < 2 ^ 16 ∧ s.noMagic ≠ 0x5c7a := by
  unfold noMagic
  split
  · decide
  · next h => exact ⟨Nat.mod_lt _ (by decide), h⟩

theorem exec_crashWriteTimeout (h : s.fatal = some (cause, die, lcore)) (hnew : s.field 8 31 31 = 0) : exec .crashWriteTimeout s =
    .next ((({ s with free := s.free + 1 } : State).homeWrite .hbm s.crashBase (leBytes 2 s.noMagic)).signalFatal cause) := by
  show execCrashWriteTimeout s = _
  unfold execCrashWriteTimeout
  rw [h]
  exact if_neg (by omega)

end
end Sys2Proof.Machine.State
end

section
/-! The links of the capacity buffers (R110). -/

namespace Sys2Proof.Machine.State

section
variable {s : State} {b : Nat} (hb : b < s.buffers)
include hb

theorem exec_capacityLinkTraining (hon : s.offline b = false) (major minor : Nat) : exec (.capacityLinkTraining b major minor) s =
    .next (if major = 0 then (s.setField (capLinkOff b) 31 31 0).setField (capLinkOff b) 30 30 1
      else ((s.setField (capLinkOff b) 31 31 1).setField (capLinkOff b) 23 16 1).setField (capLinkOff b) 15 8 0).wakeLink := by
  show execCapacityLinkTraining b major minor s = _
  unfold execCapacityLinkTraining
  rw [if_neg (by simp [hon, hb])]
  split <;> rfl

theorem exec_capacityReplayFail : exec (.capacityReplayFail b) s =
    .next ((s.setField (capLinkOff b) 31 31 0).bumpField (capLinkOff b) 7 0) := by
  show execCapacityReplayFail b s = _
  unfold execCapacityReplayFail
  rw [if_neg (by omega)]

theorem exec_capacityRetrainTimeout : exec (.capacityRetrainTimeout b) s =
    .next (if s.field (capLinkOff b) 31 31 = 1 then s else (s.setField (capLinkOff b) 30 30 1).wakeLink) := by
  show execCapacityRetrainTimeout b s = _
  unfold execCapacityRetrainTimeout
  simp only [Nat.not_le.2 hb, false_or]

theorem exec_capacityLinkReenable (hoff : s.offline b = true) : exec (.capacityLinkReenable b) s =
    .next ((s.setField (capLinkOff b) 31 30 0).bumpField (capLinkOff b) 7 0) := by
  show execCapacityLinkReenable b s = _
  unfold execCapacityLinkReenable
  rw [if_neg (by simp [hoff, hb])]

end

theorem core_wakeLink (s : State) (c : Nat) : s.wakeLink.core c = (s.core c).wake fun w => w == Wait.xlate := by
  have hcores : s.wakeLink.cores = s.cores.map fun p => (p.1, p.2.wake fun w => w == Wait.xlate) := by
    unfold wakeLink
    exact cores_foldl (fun s p => by split <;> simp) _ _
  unfold core
  rw [hcores, AMap.look_map c (fun k : Core => k.wake fun w => w == Wait.xlate)]
  cases s.cores.look c <;> rfl

theorem wakeLink_wakes (s : State) (c gid : Nat) : ∀ th ∈ (s.wakeLink.group c gid).threads, th.wait ≠ some Wait.xlate := by
  have hgroup : s.wakeLink.group? c gid = (s.group? c gid).map fun g => g.wakeIf fun w => w == Wait.xlate := by
    unfold group?
    rw [core_wakeLink]
    exact AMap.look_map gid (fun g : Group => g.wakeIf fun w => w == Wait.xlate) _
  unfold group
  rw [hgroup]
  cases s.group? c gid with
  | none => simp
  | some g => exact Claims.wakeIf_clear (by simp)

end Sys2Proof.Machine.State
end

section
namespace Sys2Proof.Machine

/-- Settles O53: the hedges by the field that a change of the step writes, the alarm by what a reading's comparison finds, fatal
errors by their first report, and the capacity links by their registers. -/
theorem powerSteps : Obligations.PowerSteps := by
  unfold Obligations.PowerSteps
  refine ⟨?hedges, fun s d v => ⟨rfl, State.hedgeCtlWrite_spec s d v⟩, State.powerAlarmRaise_spec, State.exec_powerAlarmClear,
    fun s d => ⟨_, Nat.mod_lt _ (by decide), rfl⟩, ?fatal, ?links, State.wakeLink_wakes⟩
  case hedges =>
    intro s d occ off step held on
    have hcap := State.hedgeCap_lt s d
    refine ⟨State.exec_hedgeSample_beyond, fun hon hocc hocc' hstep => ?_, fun hon hocc hstep => ?_,
      fun hoff hocc => State.exec_hedgeSample_stays hocc (State.hedgeMove_idle hoff)⟩
    · exact State.exec_hedgeSample_moves hocc' (State.hedgeMove_up hon hocc hstep) (by omega) (Nat.ne_of_lt (Nat.lt_succ_self _))
    · have hlow : s.field off 7 0 < 2 ^ 8 := qf_lt _ _ _
      have hold : step < 8 := qf_lt _ _ _
      obtain ⟨t, ht, hmoved, hchanging, -⟩ := State.exec_hedgeSample_moves (by omega) (State.hedgeMove_down hon hocc hstep)
        (show step - 1 < 8 by omega) (show step ≠ step - 1 by omega)
      exact ⟨t, ht, hmoved, hchanging⟩
  case fatal =>
    intro s cause die core
    refine ⟨fun h => ?_, fun h hnew => ?_, fun h => ⟨State.exec_crashWriteTimeout_reported h, fun hnew => ?_⟩⟩
    · exact ⟨_, State.exec_fatalError_first h, rfl, fun c hc => State.stopped_stopCores s hc, List.mem_append_right _ (List.mem_singleton.2 rfl)⟩
    · obtain ⟨u, hu⟩ := State.exec_fatalError_reported h hnew
      exact ⟨_, hu, State.field_signalFatal u cause⟩
    · exact ⟨s.noMagic, s.noMagic_spec.1, s.noMagic_spec.2, State.exec_crashWriteTimeout h hnew⟩
  case links =>
    intro s b major minor hb off
    exact ⟨fun hon => State.exec_capacityLinkTraining hb hon major minor, State.exec_capacityReplayFail hb,
      State.exec_capacityRetrainTimeout hb, State.exec_capacityLinkReenable hb⟩

end Sys2Proof.Machine
end

section
/-! Commands that an engine ends, and streams of an encoder: what a read finds after an update. -/

namespace Sys2Proof.Machine.State

theorem cmd?_modCmd_at (s : State) (c n d m : Nat) (f : Cmd → Cmd) :
    (s.modCmd c n f).cmd? d m = if c = d ∧ n = m then (s.cmd? d m).map f else s.cmd? d m := by
  unfold cmd? modCmd
  rw [core_modCore]
  by_cases hc : c = d
  · subst hc
    rw [if_pos rfl, AMap.look_upd]
    simp
  · rw [if_neg hc, if_neg fun h => hc h.1]

@[simp] theorem cmd?_postOnce (s : State) (i : Instr) (c n : Nat) : (s.postOnce i).cmd? c n = s.cmd? c n := by
  unfold postOnce
  split <;> rfl

theorem cmd?_endCmd {s : State} {c n : Nat} {q : Cmd} (h : s.cmd? c n = some q) (outcome cause : Nat) :
    (s.endCmd c n outcome cause).cmd? c n = some { q with state := .committed, outcome, cause, addr := 0, resp := 0 } := by
  unfold endCmd
  rw [h]
  dsimp only
  rw [cmd?_postOnce, cmd?_modCmd, h]
  rfl

theorem enc_of_rest {s t : State} (h : t.rest = s.rest) : t.enc = s.enc :=
  show t.rest.enc = s.rest.enc by rw [h]

@[simp] theorem enc_setEnc (s : State) (e st : Nat) (x : EncStream) : (s.setEnc e st x).enc e st = x := by
  unfold enc setEnc
  rw [AMap.look_put, if_pos rfl]
  rfl

@[simp] theorem enc_setField (s : State) (off hi lo x e st : Nat) : (s.setField off hi lo x).enc e st = s.enc e st := rfl

@[simp] theorem enc_postOnce (s : State) (i : Instr) : (s.postOnce i).enc = s.enc := enc_of_rest (rest_postOnce s i)

@[simp] theorem field_setEnc (s : State) (e st : Nat) (x : EncStream) (off hi lo : Nat) : (s.setEnc e st x).field off hi lo = s.field off hi lo := rfl

end Sys2Proof.Machine.State
end

section
/-! Collectives (R331, R332). -/

namespace Sys2Proof.Machine.State

/-! ### The commit -/

/-- A command that has been told to complete. -/
def told (q : Cmd) : Cmd := { q with asked := true }

/-- The members of a committed collective, told to complete. -/
def commitMembers (s : State) (ms : List (Nat × Nat × Nat)) : State :=
  ms.foldl (fun (s : State) m => (s.modCmd m.1 m.2.1 told).post (.collComplete m.1 m.2.1)) s

theorem agenda_commitMembers (s : State) (ms : List (Nat × Nat × Nat)) :
    (s.commitMembers ms).agenda = s.agenda ++ ms.map fun m => .collComplete m.1 m.2.1 := by
  induction ms generalizing s with
  | nil => exact (List.append_nil _).symm
  | cons m t ih =>
    refine (ih _).trans ?_
    rw [List.map_cons, ← List.singleton_append, ← List.append_assoc]
    rfl

theorem cmd?_commitMembers (s : State) (ms : List (Nat × Nat × Nat)) (c n : Nat) : (s.commitMembers ms).cmd? c n =
    if ∃ m ∈ ms, m.1 = c ∧ m.2.1 = n then (s.cmd? c n).map told else s.cmd? c n := by
  have hagain : told ∘ told = told := rfl
  induction ms generalizing s with
  | nil => rw [if_neg (by simp)]; rfl
  | cons m t ih =>
    have hfirst : ((s.modCmd m.1 m.2.1 told).post (.collComplete m.1 m.2.1)).cmd? c n =
        if m.1 = c ∧ m.2.1 = n then (s.cmd? c n).map told else s.cmd? c n := cmd?_modCmd_at _ _ _ _ _ _
    refine (ih _).trans ?_
    simp only [hfirst, List.mem_cons, exists_eq_or_imp]
    by_cases hm : m.1 = c ∧ m.2.1 = n
    · simp [hm, hagain]
    · simp only [hm, if_false, false_or]

section
variable {s : State} {c n rank : Nat} {q : Cmd} (hq : s.cmd? c n = some q) (hactive : q.state = .active)
include hq hactive

/-! ### Joining (R332) -/

/-- A join that is compared with the first and agrees is kept, and the last one commits. -/
theorem exec_collJoin {coord key : List Nat} {tag : Nat} {i : CollInst} (hmajor : q.major = 0x79)
    (hident : s.collIdent c q = (coord, tag, key, rank, true))
    (hi : (s.instOf coord tag q.inst).getD { coord, tag, inst := q.inst, key } = i) (hopen : i.verdict < 2) (hkey : i.key = key)
    (hrank : ∀ m ∈ i.members, m.2.2 ≠ rank) : ∃ sources, exec (.collJoin c n) s =
      .next (if (i.members ++ [(c, n, rank)]).length = key.headD 0 then
        (s.commitMembers (i.members ++ [(c, n, rank)])).putInst { i with members := i.members ++ [(c, n, rank)], verdict := 1, sources }
      else s.putInst { i with members := i.members ++ [(c, n, rank)] }) := by
  have hagrees : ¬ (i.key ≠ key ∨ ¬ (true = true) ∨ (i.members.any fun m => m.2.2 == rank) = true) := by
    rw [List.any_eq_true]
    rintro (h | h | ⟨m, hm, h⟩)
    · exact h hkey
    · exact h rfl
    · exact hrank m hm (beq_iff_eq.1 h)
  show ∃ _, execCollJoin c n s = _
  unfold execCollJoin
  rw [hq]
  dsimp only
  rw [if_neg (by simp [hactive, hmajor]), hident]
  dsimp only
  rw [hi, if_neg (by omega), if_neg (by omega), if_neg hagrees]
  split
  · exact ⟨_, rfl⟩
  · exact ⟨[], rfl⟩

theorem exec_collTimeout {coord key : List Nat} {tag : Nat} {mine : Bool} {i : CollInst} (hmajor : q.major = 0x79)
    (hident : s.collIdent c q = (coord, tag, key, rank, mine))
    (hi : (s.instOf coord tag q.inst).getD { coord, tag, inst := q.inst, key } = i) (hasked : q.asked = false) (hopen : i.verdict = 0)
    (hnew : ∀ m ∈ i.members, ¬ (m.1 = c ∧ m.2.1 = n)) : exec (.collTimeout c n) s =
      .next ((s.endMembers { i with members := i.members ++ [(c, n, rank)] } 5 8).putInst
        { i with members := i.members ++ [(c, n, rank)], verdict := 2 }) := by
  have hany : ¬ (i.members.any fun m => m.1 == c && m.2.1 == n) = true := by
    rw [List.any_eq_true]
    rintro ⟨m, hm, h⟩
    exact hnew m hm (by simpa using h)
  show execCollTimeout c n s = _
  unfold execCollTimeout
  rw [hq]
  dsimp only
  rw [if_neg (by simp [hactive, hmajor, hasked]), hident]
  dsimp only
  rw [hi, if_neg (by omega), if_neg hany]

/-! ### Completion -/

theorem exec_collComplete_write {coord key : List Nat} {tag : Nat} {mine : Bool} {i : CollInst} {bs : List Byte} {fl : Word}
    (hasked : q.asked = true) (hident : s.collIdent c q = (coord, tag, key, rank, mine)) (hi : s.instOf coord tag q.inst = some i)
    (hresult : collResult s.free q.code rank (i.key.headD 0) (collBlock q.block) i.sources = (bs, fl)) (hbs : bs ≠ []) :
    exec (.collComplete c n) s = .next ((((({ s with free := s.free + 64 * (collBlock q.block).count } : State).modCore c fun k =>
      k.writeStore ((s.cmdSpan c q).1 + (collBlock q.block).dst) bs).modCmd c n fun q => { q with flags := fl }).endCmd c n).putInst
        { i with done := i.done + 1 }) := by
  have hsome : ¬ bs.isEmpty = true := by simpa using hbs
  show execCollComplete c n s = _
  unfold execCollComplete
  rw [hq]
  dsimp only
  rw [hident]
  dsimp only
  rw [if_pos ⟨hactive, hasked⟩, hi]
  dsimp only
  rw [hresult]
  simp only [if_neg hsome]

end

theorem exec_collComplete_status {s : State} {c n : Nat} {q : Cmd} (hq : s.cmd? c n = some q) (hcommitted : q.state = .committed) :
    exec (.collComplete c n) s = .next ((s.modCore c fun k => k.writeStore ((s.cmdSpan c q).1 + q.desc + 48)
      (leBytes 4 (q.outcome + ((if q.flags.getLsbD 2 then 2 ^ 8 else 0) + if q.flags.getLsbD 4 then 2 ^ 9 else 0)))).signal c n) := by
  show execCollComplete c n s = _
  unfold execCollComplete
  rw [hq]
  dsimp only
  rw [if_neg (by simp [hcommitted]), if_neg (by simp [hcommitted]), Claims.bit_mul, Claims.bit_mul, Nat.add_assoc q.outcome]

end Sys2Proof.Machine.State
end

section
/-! GET and PUT (R333 to R336). -/

namespace Sys2Proof.Machine.State

section
variable {s : State} {c n : Nat} {q : Cmd} (hq : s.cmd? c n = some q)
include hq

theorem exec_getPutComplete (hcommitted : q.state = .committed) : exec (.getPutComplete c n) s =
    .next ((s.modCore c fun k => (k.writeStore ((s.cmdSpan c q).1 + q.desc + 48) (leBytes 4 q.outcome)).writeStore
      ((s.cmdSpan c q).1 + q.desc + 56) (leBytes 4 (q.progress % 2 ^ 31))).signal c n) := by
  show execGetPutComplete c n s = _
  unfold execGetPutComplete
  rw [hq]
  exact if_neg (by simp [hcommitted])

variable (hactive : q.state = .active)
include hactive

theorem exec_peerWaitTimeout (hasked : q.asked = true) (hmajor : q.major = 0x65 ∨ q.major = 0x66) :
    exec (.peerWaitTimeout c n) s = .next (s.endCmd c n 5 8) := by
  show execPeerWaitTimeout c n s = _
  unfold execPeerWaitTimeout
  rw [hq]
  exact congrArg _ (if_pos ⟨hactive, hasked, hmajor⟩)

variable (hteam : qf (s.groupQ c (s.cmdSpan c q).1 (peerBlock q.block).group ((peerBlock q.block).member + 1)) 63 63 = 0)
include hteam

/-- A peer that has retired (R335). -/
theorem exec_peerAccess_retired (hpeer : s.peerOf c q = (none, false)) : exec (.peerAccess c n) s = .next (s.endCmd c n 3 5) := by
  show execPeerAccess c n s = _
  unfold execPeerAccess
  rw [hq]
  dsimp only
  rw [if_neg (by simp [hactive]), if_neg (by omega), hpeer]

/-- A resident peer: a piece follows, or the command is at its end (R334). -/
theorem exec_peerAccess_resident {cc : Nat} {m : Team} {b : Bool} (hpeer : s.peerOf c q = (some (cc, m), b)) :
    ((peerBlock q.block).total ≤ q.progress → (peerBlock q.block).rctr = false → exec (.peerAccess c n) s = .next (s.endCmd c n)) ∧
    ∀ u k, q.progress < (peerBlock q.block).total → s.peerStep c q cc m = some (u, k) → exec (.peerAccess c n) s =
      .next ((u.modCmd c n fun q => { q with progress := q.progress + k, asked := false }).post (.peerAccess c n)) := by
  show (_ → _ → execPeerAccess c n s = _) ∧ ∀ u k, _ → _ → execPeerAccess c n s = _
  unfold execPeerAccess
  rw [hq]
  dsimp only
  rw [if_neg (by simp [hactive]), if_neg (by omega), hpeer]
  dsimp only
  refine ⟨fun hend hrctr => ?_, fun u k hmore hstep => ?_⟩
  · rw [if_pos hend, if_pos (by simp [hrctr])]
  · rw [if_neg (by omega), hstep]

end
end Sys2Proof.Machine.State
end

section
/-! The encoders (R336, R399). -/

namespace Sys2Proof.Machine.State

section
variable {s : State} {e st : Nat}

theorem writeFrame_none (h : (s.enc e st).out = []) (fuel : Nat) : s.writeFrame (fuel + 1) e st = s := by
  unfold writeFrame
  dsimp only
  rw [h]
  rfl

theorem exec_encoderFrameStart {i : Nat} (hout : (s.enc e st).out = []) (hidle : (s.enc e st).encoding = none)
    (hfull : (List.range 2).find? (fun i => ((s.enc e st).frames.getD i ([], false)).2) = some i) :
    exec (.encoderFrameStart e st) s = .next ((s.setEnc e st { s.enc e st with encoding := some i }).emit
      (.encode e st (Mem.read (n := 8) ((s.enc e st).frames.getD i ([], false)).1 0 (s.frameBytes e st)))) := by
  show execEncoderFrameStart e st s = _
  unfold execEncoderFrameStart
  rw [writeFrame_none hout]
  dsimp only
  rw [hidle, hfull]

/-- Bytes of a stream's bitstream ring (R399). -/
def ringBytes (s : State) (e st : Nat) : Nat := qf (s.ctlQ (encOff e st 2)) 31 0 * 4096

/-- A stream whose frame input i has been encoded: the frame behind its length enters the ring, or is dropped. -/
def encoded (u : EncStream) (i ring : Nat) (bytes : List Byte) : EncStream :=
  { u with
    encoding := none
    frames := u.frames.set i ((u.frames.getD i ([], false)).1, false)
    out := if ring < u.ringUsed + u.out.length + 4 + bytes.length then u.out else u.out ++ leBytes 4 bytes.length ++ bytes }

/-- The stream's frame counter, and its mark of a dropped frame (R399). -/
def countFrame (s : State) (e st : Nat) (dropped : Prop) [Decidable dropped] : State :=
  let s := s.setField (encOff e st 2) 63 32 ((s.field (encOff e st 2) 63 32 + 1) % 2 ^ 32)
  if dropped then s.setField (encOff e st 3) 31 31 1 else s

theorem exec_encoderFrameDone {i : Nat} (h : (s.enc e st).encoding = some i) (bytes : List Byte) :
    exec (.encoderFrameDone e st bytes) s = .next (((s.setEnc e st (encoded (s.enc e st) i (s.ringBytes e st) bytes)).countFrame e st
      (s.ringBytes e st < (s.enc e st).ringUsed + (s.enc e st).out.length + 4 + bytes.length)).postOnce (.encoderFrameStart e st)) := by
  show execEncoderFrameDone e st bytes s = _
  unfold execEncoderFrameDone
  dsimp only
  rw [h]
  rfl

section
variable (s : State) (e st : Nat) (dropped : Prop) [Decidable dropped]

theorem enc_countFrame : (s.countFrame e st dropped).enc e st = s.enc e st := by
  unfold countFrame
  dsimp only
  split <;> rfl

theorem field_countFrame_dropped (h : dropped) : (s.countFrame e st dropped).field (encOff e st 3) 31 31 = 1 := by
  unfold countFrame
  dsimp only
  rw [if_pos h]
  exact field_setField_same _ _ (by omega) (by omega) _

theorem field_countFrame_count :
    (s.countFrame e st dropped).field (encOff e st 2) 63 32 = (s.field (encOff e st 2) 63 32 + 1) % 2 ^ 32 := by
  have hcount (u : State) : (u.setField (encOff e st 2) 63 32 ((s.field (encOff e st 2) 63 32 + 1) % 2 ^ 32)).field (encOff e st 2) 63 32 =
      (s.field (encOff e st 2) 63 32 + 1) % 2 ^ 32 :=
    (field_setField_same _ _ (by omega) (by omega) _).trans (Nat.mod_mod _ _)
  unfold countFrame
  dsimp only
  split
  · rw [field_setField_other _ (by unfold encOff; omega), hcount]
  · exact hcount s

end

theorem encoderFrameDone_spec {i : Nat} (h : (s.enc e st).encoding = some i) (bytes : List Byte) :
    let u := s.enc e st
    let room := u.ringUsed + u.out.length + 4 + bytes.length ≤ s.ringBytes e st
    ∃ t : State, exec (.encoderFrameDone e st bytes) s = .next t ∧ (t.enc e st).encoding = none ∧
      (t.enc e st).out = (if room then u.out ++ leBytes 4 bytes.length ++ bytes else u.out) ∧
      (¬ room → t.field (encOff e st 3) 31 31 = 1) ∧ t.field (encOff e st 2) 63 32 = (s.field (encOff e st 2) 63 32 + 1) % 2 ^ 32 := by
  intro u room
  refine ⟨_, exec_encoderFrameDone h bytes, ?_⟩
  rw [enc_postOnce, enc_countFrame, enc_setEnc, field_postOnce, field_postOnce, field_countFrame_count, field_setEnc]
  refine ⟨rfl, ?_, fun hfull => field_countFrame_dropped _ _ _ _ (Nat.lt_of_not_le hfull), rfl⟩
  show (if s.ringBytes e st < u.ringUsed + u.out.length + 4 + bytes.length then _ else _) = if room then _ else _
  simp only [room, ← Nat.not_le, ite_not]
  rfl

/-- A stream that is not made valid is configured (R399). -/
theorem configStream_invalid {v : DWord} (he : e < 2 * s.product.dies) (hst : st < 16) (hv : v.getLsbD 31 = false) : s.configStream e st v =
    (((s.setCtl (encOff e st 0) (v &&& 0xffffffffe000ffff)).setField (encOff e st 3) 30 30 0).setEnc e st {}) := by
  unfold configStream
  extract_lets rate sum w h ok
  have hok : ok := Or.inl (by rw [qf_bit, hv]; rfl)
  rw [if_neg (by omega), if_pos hok]

theorem encoderStreamConfig_spec {v : DWord} (he : e < 2 * s.product.dies) (hst : st < 16) (hv : v.getLsbD 31 = false) :
    ∃ t : State, exec (.encoderStreamConfig e st v) s = .next t ∧ t.field (encOff e st 0) 31 31 = 0 ∧ t.field (encOff e st 3) 30 30 = 0 := by
  refine ⟨_, congrArg Host.Outcome.next (configStream_invalid he hst hv), ?_, ?_⟩
  · rw [field_setEnc, field_setField_other _ (by unfold encOff; omega), field_setCtl_same, qf_bit, BitVec.getLsbD_and, hv]
    rfl
  · rw [field_setEnc]
    exact field_setField_same _ _ (by omega) (by omega) _

end
end Sys2Proof.Machine.State
end

section
/-! Tables of the capacity tier (R113). -/

namespace Sys2Proof.Machine

section
variable (v old : DWord)

theorem getLsbD_tableFields {j : Nat} (hj : j < 64) :
    (v &&& 0x7e3fe07fffffffff).getLsbD j = ((v &&& 0xfe3fe07fffffffff).getLsbD j && decide (j ≠ 63)) := by
  have hmask : ∀ j < 64, (0x7e3fe07fffffffff : DWord).getLsbD j = ((0xfe3fe07fffffffff : DWord).getLsbD j && decide (j ≠ 63)) := by decide
  rw [BitVec.getLsbD_and, BitVec.getLsbD_and, hmask j hj, Bool.and_assoc]

theorem regError_eq : (0x8000000000 : DWord) = BitVec.twoPow 64 39 := rfl
theorem tableValid_eq : (0x8000000000000000 : DWord) = BitVec.twoPow 64 63 := rfl

/-- A write of valid = 0 leaves `reg_error` as it was (R113). -/
theorem tableWord_invalid (hv : v.getLsbD 63 = false) : qset (v &&& 0xfe3fe07fffffffff) 39 39 (qf old 39 39) =
    (v &&& 0x7e3fe07fffffffff) ||| (old &&& 0x8000000000) := by
  refine qset_eq_of_bits (by omega) (by omega) fun j hj => ?_
  rw [BitVec.getLsbD_or, BitVec.getLsbD_and (x := old), getLsbD_tableFields v hj, regError_eq, BitVec.getLsbD_twoPow]
  by_cases h39 : j = 39
  · subst h39
    have hold : (qf old 39 39).testBit (39 - 39) = old.getLsbD 39 := testBit_qf old 39 39 0
    have hclear : (v &&& 0xfe3fe07fffffffff).getLsbD 39 = false := by simp
    rw [if_pos (by omega), hold, hclear]
    exact Bool.and_true _
  · rw [if_neg (by omega), decide_eq_false (Ne.symm h39), Bool.and_false, Bool.and_false, Bool.or_false]
    by_cases h63 : j = 63
    · subst h63
      rw [BitVec.getLsbD_and, hv]
      rfl
    · rw [decide_eq_true h63, Bool.and_true]

/-- A refused write of valid = 1 (R113). -/
theorem tableWord_refused : qset (qset (v &&& 0xfe3fe07fffffffff) 63 63 0) 39 39 1 = (v &&& 0x7e3fe07fffffffff) ||| 0x8000000000 := by
  refine qset_eq_of_bits (by omega) (by omega) fun j hj => ?_
  rw [BitVec.getLsbD_or, getLsbD_tableFields v hj, regError_eq, BitVec.getLsbD_twoPow, getLsbD_qset (by omega) (by omega)]
  by_cases h39 : j = 39
  · subst h39
    simp
  · rw [if_neg (by omega), decide_eq_false (Ne.symm h39), Bool.and_false, Bool.or_false]
    by_cases h63 : j = 63
    · subst h63
      simp
    · rw [if_neg (by omega), decide_eq_true h63, Bool.and_true]

/-- A write of valid = 1 that passes the checks (R113). -/
theorem tableWord_valid (hv : v.getLsbD 63 = true) : v &&& 0xfe3fe07fffffffff = (v &&& 0x7e3fe07fffffffff) ||| 0x8000000000000000 := by
  refine BitVec.eq_of_getLsbD_eq fun j hj => ?_
  rw [BitVec.getLsbD_or, getLsbD_tableFields v hj, tableValid_eq, BitVec.getLsbD_twoPow]
  by_cases h63 : j = 63
  · subst h63
    simp [hv]
  · rw [decide_eq_true h63, decide_eq_false (Ne.symm h63), Bool.and_true, Bool.and_false, Bool.or_false]

end

theorem State.exec_tableRegister {s : State} {b t : Nat} (hb : b < s.buffers) (ht : t < 256) (v : DWord) : exec (.tableRegister b t v) s =
    .next (s.setCtl (State.capTableOff b t 0)
      (if v.getLsbD 63 = false then (v &&& 0x7e3fe07fffffffff) ||| (s.ctlQ (State.capTableOff b t 0) &&& 0x8000000000)
        else if tableRefused v (s.ctlQ (State.capTableOff b t 1)) = true then (v &&& 0x7e3fe07fffffffff) ||| 0x8000000000
        else (v &&& 0x7e3fe07fffffffff) ||| 0x8000000000000000)) := by
  have hin : ¬ (s.buffers ≤ b ∨ 256 ≤ t) := by omega
  refine congrArg Host.Outcome.next ?_
  unfold State.registerTable
  rw [if_neg hin]
  dsimp only
  cases hv : v.getLsbD 63 with
  | false => rw [if_pos (by rw [qf_bit, hv]; rfl), if_pos rfl, tableWord_invalid v _ hv]
  | true =>
    have hvalid : qf v 63 63 ≠ 0 := by simp [qf_bit, hv]
    rw [if_neg hvalid, if_neg (c := true = false) Bool.noConfusion, tableWord_refused, tableWord_valid v hv]
    split <;> rfl

end Sys2Proof.Machine
end

section
/-! Bag queries (R115 to R119). -/

namespace Sys2Proof.Machine.State

theorem getD_wordList (s : State) (c a : Nat) {n p : Nat} (h : p < n) : (s.wordList c a n).getD p 0 = (s.core c).store32 (a + 4 * p) := by
  rw [wordList, List.getD_eq_getElem _ _ (by simpa using h)]
  simp

theorem headD_wordList (s : State) (c a : Nat) {n : Nat} (h : 1 ≤ n) : (s.wordList c a n).headD 0 = (s.core c).store32 a := by
  obtain ⟨m, rfl⟩ := Nat.exists_eq_add_of_le' h
  rw [wordList, List.range_succ_eq_map]
  rfl

/-- The positions of a query, from its first bag on, whose index lies outside the table (R116). -/
def bagOutside (s : State) (c : Nat) (q : Cmd) : List Nat :=
  (List.range (bagBlock q.block).count).filter fun p =>
    decide ((s.core c).store32 ((s.cmdSpan c q).1 + (bagBlock q.block).starts) ≤ p ∧
      qf (s.ctlQ (capTableOff (bagBlock q.block).buffer (bagBlock q.block).table 1)) 31 0 ≤
        (s.core c).store32 ((s.cmdSpan c q).1 + (bagBlock q.block).idx + 4 * p))

section
variable {s : State} {c n : Nat} {q : Cmd}

/-- A query waits for its buffer, fails on it or on its table, or is answered; without poison the answer counts the positions
outside the table. -/
theorem exec_bagQueryExecute (hq : s.cmd? c n = some q) (hactive : q.state = .active) :
    let x := bagBlock q.block
    let q0 := s.ctlQ (capTableOff x.buffer x.table 0)
    let q1 := s.ctlQ (capTableOff x.buffer x.table 1)
    ∃ answer, exec (.bagQueryExecute c n) s =
      (if s.bagWaits c n x.buffer then .next (s.post (.bagQueryExecute c n))
      else if s.offline x.buffer then .next (s.endCmd c n 4 0x0f)
      else if s.capDown x.buffer then .next (s.post (.bagQueryExecute c n))
      else if qf q0 63 63 = 0 ∨ qf q1 63 56 ≠ q.ctx then .next (s.endCmd c n 3 0x0f)
      else answer) ∧
      (s.capPoison = [] → 1 ≤ x.bags → ∃ data flags cause, answer = .next ((s.modCmd c n fun y => { y with
        data
        flags
        recIndex := x.bags * outPitch (qf q0 53 45 + 1) x.bf16
        progress := (s.bagOutside c q).length
        inner := (s.bagOutside c q).headD 0xffffffff }).endCmd c n (if s.bagOutside c q = [] then 0 else 1) cause)) := by
  intro x q0 q1
  show ∃ answer, execBagQueryExecute c n s = _ ∧ _
  unfold execBagQueryExecute
  rw [hq]
  dsimp -zeta only
  extract_lets base dim format len idx wgt starts rowAt used out bad bag vec e outs data fl s'
  rw [if_neg (by simp [hactive])]
  refine ⟨_, rfl, fun hpoison hbags => ?_⟩
  have hbad : ¬ bad = true := by simp [bad, hpoison]
  have hout : out = s.bagOutside c q := by
    unfold out used bagOutside
    rw [List.filter_filter]
    refine List.filter_congr fun p hp => ?_
    rw [show idx.getD p 0 = _ from getD_wordList s c _ (List.mem_range.1 hp), show starts.headD 0 = _ from headD_wordList s c _ hbags,
      Bool.decide_and, Bool.and_comm]
  rw [if_neg hbad]
  unfold s'
  rw [hout]
  cases hnone : s.bagOutside c q with
  | nil => exact ⟨data, fl, 0, rfl⟩
  | cons p ps => exact ⟨data, fl, _, rfl⟩

theorem exec_bagQueryReply (hq : s.cmd? c n = some q) (hcommitted : q.state = .committed) (houtcome : q.outcome ≤ 1)
    (hfits : (bagBlock q.block).out + q.recIndex ≤ (s.cmdSpan c q).2) : exec (.bagQueryReply c n) s =
      .next ((((s.modCmd c n fun _ => q).modCore c fun k => k.writeStore ((s.cmdSpan c q).1 + (bagBlock q.block).out) q.data).modCore c fun k =>
        k.writeStore ((s.cmdSpan c q).1 + q.desc + 32)
          (leBytes 4 (q.outcome + ((if q.flags.getLsbD 4 then 2 ^ 8 else 0) + if q.flags.getLsbD 2 then 2 ^ 9 else 0)) ++
            leBytes 4 q.progress ++ leBytes 4 q.inner)).signalAt c n
          (if (bagBlock q.block).ctr % 4 = 0 ∧ (bagBlock q.block).ctr + 4 ≤ (s.cmdSpan c q).2 then (bagBlock q.block).ctr else q.ctr)) := by
  have hin : inAlloc (s.cmdSpan c q).2 (bagBlock q.block).out q.recIndex = true := decide_eq_true hfits
  show execBagQueryReply c n s = _
  unfold execBagQueryReply
  rw [hq]
  dsimp only
  rw [if_neg (by simp [hcommitted]), hin, if_neg (c := q.outcome ≤ 1 ∧ _) (by simp), if_pos houtcome, Claims.bit_mul, Claims.bit_mul,
    Nat.add_assoc q.outcome]
  simp only [inAlloc, decide_eq_true_eq]

end
end Sys2Proof.Machine.State
end

section
namespace Sys2Proof.Machine

/-- Settles O46: the events of the collective unit, of peers and encoders, and of the capacity tier by what each does with its
command, its stream or its register. -/
theorem unitSteps : Obligations.UnitSteps := by
  unfold Obligations.UnitSteps
  refine ⟨?joins, ?writes, ?statuses, ?peers, fun s e st i => State.exec_encoderFrameStart, fun s e st i bytes h =>
    State.encoderFrameDone_spec h bytes, fun s e st v => State.encoderStreamConfig_spec, fun s b t v hb ht => State.exec_tableRegister hb ht v,
    ?queries, fun s c n q hq hcommitted houtcome => State.exec_bagQueryReply hq hcommitted houtcome⟩
  case joins =>
    intro s c n q coord tag key rank hq hactive hmajor hident i i'
    refine ⟨fun hopen hkey hrank hmore => ?_, fun hopen hkey hrank hall => ?_, State.exec_collTimeout hq hactive hmajor hident rfl⟩
    · obtain ⟨sources, h⟩ := State.exec_collJoin hq hactive hmajor hident rfl hopen hkey hrank
      exact h.trans (congrArg Host.Outcome.next (if_neg hmore))
    · obtain ⟨sources, h⟩ := State.exec_collJoin hq hactive hmajor hident rfl hopen hkey hrank
      refine ⟨_, h.trans (congrArg Host.Outcome.next (if_pos hall)), fun m hm => ⟨?_, fun y hy => ?_⟩⟩
      · show _ ∈ (s.commitMembers i'.members).agenda
        rw [State.agenda_commitMembers]
        exact List.mem_append_right _ (List.mem_map.2 ⟨m, hm, rfl⟩)
      · show (s.commitMembers i'.members).cmd? m.1 m.2.1 = _
        rw [State.cmd?_commitMembers, if_pos ⟨m, hm, rfl, rfl⟩, hy]
        rfl
  case writes =>
    intro s c n q coord tag key rank mine i bs fl hq hactive hasked hident hi hresult hbs
    exact State.exec_collComplete_write hq hactive hasked hident hi hresult hbs
  case statuses =>
    intro s c n q hq hcommitted
    exact ⟨State.exec_collComplete_status hq hcommitted, State.exec_getPutComplete hq hcommitted⟩
  case peers =>
    intro s c n q hq hactive y
    refine ⟨fun hteam => ⟨State.exec_peerAccess_retired hq hactive hteam, fun cc m b hpeer => ?_, fun cc m b u k hpeer => ?_⟩,
      State.exec_peerWaitTimeout hq hactive⟩
    · exact (State.exec_peerAccess_resident hq hactive hteam hpeer).1
    · exact (State.exec_peerAccess_resident hq hactive hteam hpeer).2 u k
  case queries =>
    intro s c n q hq hactive y base q0 q1 idx first outside waits
    obtain ⟨answer, hexec, hanswer⟩ := State.exec_bagQueryExecute hq hactive
    rw [hexec]
    refine ⟨fun hw => if_pos hw, fun hw hoff => ?_, fun hw hon hdown => ?_, fun hw hon hup hbad => ?_,
      fun hw hon hup hvalid hctx hpoison hbags => ?_⟩
    · rw [if_neg hw, if_pos hoff]
    · rw [if_neg hw, if_neg (Bool.eq_false_iff.1 hon), if_pos hdown]
    · rw [if_neg hw, if_neg (Bool.eq_false_iff.1 hon), if_neg (Bool.eq_false_iff.1 hup), if_pos hbad]
    · have hsound : ¬ (qf q0 63 63 = 0 ∨ qf q1 63 56 ≠ q.ctx) := by omega
      obtain ⟨data, flags, cause, h⟩ := hanswer hpoison hbags
      rw [if_neg hw, if_neg (Bool.eq_false_iff.1 hon), if_neg (Bool.eq_false_iff.1 hup), if_neg hsound, h]
      refine ⟨_, _, rfl, State.cmd?_endCmd ((State.cmd?_modCmd _ _ _ _).trans (congrArg _ hq)) _ _, rfl, rfl, rfl, rfl, rfl⟩

end Sys2Proof.Machine
end

section
/-! The fences (R131, R139, R240, R337): which one a bundle opens, and when it goes on. -/

namespace Sys2Proof.Machine.State

/-! ### Fences that a bundle joins or opens (R131) -/

/-- The threads of a mask that stand at none of the fences. -/
def unfenced (x : Ctx) (fs : AMap RFence) (m : Word) : Word :=
  fs.foldl (fun (m : Word) f => if standsAt x f.2 then m &&& ~~~f.2.lanes else m) m

theorem joinFence_eq (s : State) (x : Ctx) (sc : Scope) : s.joinFence x sc =
    if unfenced x s.fences x.lanes = 0 then s
    else s.openFence { core := x.core, gid := x.gid, uid := x.g.uid, scope := sc, lanes := unfenced x s.fences x.lanes, pc := x.pc,
                       markers := [], marks := [] } := rfl

theorem getLsbD_unfenced (x : Ctx) (fs : AMap RFence) (m : Word) (l : Nat) : (unfenced x fs m).getLsbD l = true ↔
    m.getLsbD l = true ∧ ∀ f ∈ fs, standsAt x f.2 = true → f.2.lanes.getLsbD l = false := by
  induction fs generalizing m with
  | nil => simp [unfenced]
  | cons f t ih =>
    have hstep : unfenced x (f :: t) m = unfenced x t (if standsAt x f.2 then m &&& ~~~f.2.lanes else m) := rfl
    rw [hstep, ih, List.forall_mem_cons]
    by_cases hf : standsAt x f.2 = true
    · have hl : m.getLsbD l = true → l < 32 := fun h => BitVec.lt_of_getLsbD h
      simp only [hf, if_true, BitVec.getLsbD_and, BitVec.getLsbD_not, Bool.and_eq_true, decide_eq_true_eq, Bool.not_eq_true', forall_const]
      tauto
    · simp [hf]

/-- No fence is opened for threads that stand at one already. -/
theorem joinFence_joined {s : State} {x : Ctx} (sc : Scope)
    (h : ∀ l, x.lanes.getLsbD l = true → ∃ f ∈ s.fences, standsAt x f.2 = true ∧ f.2.lanes.getLsbD l = true) : s.joinFence x sc = s := by
  have hnone : unfenced x s.fences x.lanes = 0 := by
    refine BitVec.eq_of_getLsbD_eq fun l _ => ?_
    rw [BitVec.ofNat_eq_ofNat, BitVec.getLsbD_zero, ← Bool.not_eq_true, getLsbD_unfenced]
    rintro ⟨hl, hfree⟩
    obtain ⟨f, hf, hstands, hlane⟩ := h l hl
    rw [hfree f hf hstands] at hlane
    cases hlane
  rw [joinFence_eq, if_pos hnone]

theorem unfenced_all {x : Ctx} {fs : AMap RFence} (h : ∀ f ∈ fs, standsAt x f.2 = false) (m : Word) : unfenced x fs m = m := by
  refine BitVec.eq_of_getLsbD_eq fun l _ => Bool.eq_iff_iff.2 ((getLsbD_unfenced x fs m l).trans ⟨And.left, fun hm => ⟨hm, fun f hf hs => ?_⟩⟩)
  rw [h f hf] at hs
  cases hs

/-- The fence of a whole bundle at a scope. -/
def wholeFence (s : State) (x : Ctx) (sc : Scope) (markers : List Nat) : RFence :=
  { core := x.core, gid := x.gid, uid := x.g.uid, scope := sc, lanes := x.lanes, pc := x.pc, markers, marks := [s.markAt x.core] }

theorem standsAt_wholeFence {x : Ctx} (h : x.lanes ≠ 0) (s : State) (sc : Scope) (markers : List Nat) :
    standsAt x (s.wholeFence x sc markers) = true := by
  unfold standsAt wholeFence
  simpa using h

/-- A bundle whose threads stand at no fence opens one, whose markers are sent. -/
theorem joinFence_opens {s : State} {x : Ctx} (sc : Scope) (hl : x.lanes ≠ 0) (hs : ∀ f ∈ s.fences, standsAt x f.2 = false) :
    ∃ markers sent, (sc = .grp ∨ sc = .core → markers = [] ∧ sent = []) ∧
      s.joinFence x sc = { s with fences := s.fences.put s.nextFence (s.wholeFence x sc markers), nextFence := s.nextFence + 1,
                                  agenda := s.agenda ++ sent } := by
  rw [joinFence_eq, unfenced_all hs, if_neg hl]
  refine ⟨_, _, ?_, rfl⟩
  rintro (rfl | rfl) <;> exact ⟨rfl, rfl⟩

/-- The one fence that a bundle may open where there is none, at a scope without markers. -/
theorem joinFence_first {s : State} {x : Ctx} {sc : Scope} (hsc : sc = .grp ∨ sc = .core) (hs : s.fences = []) :
    ∃ fs n, s.joinFence x sc = { s with fences := fs, nextFence := n } ∧
      ∀ f ∈ fs, standsAt x f.2 = true ∧ f.2.markers = [] ∧ f.2.marks = [s.markAt x.core] := by
  by_cases hl : x.lanes = 0
  · refine ⟨s.fences, s.nextFence, joinFence_joined sc fun l h => ?_, by simp [hs]⟩
    rw [hl, BitVec.ofNat_eq_ofNat, BitVec.getLsbD_zero] at h
    cases h
  · obtain ⟨markers, sent, hnone, hjoin⟩ := joinFence_opens sc hl (s := s) (by simp [hs])
    obtain ⟨rfl, rfl⟩ := hnone hsc
    rw [hs, List.append_nil] at hjoin
    refine ⟨_, _, hjoin, fun f hf => ?_⟩
    obtain rfl := List.mem_singleton.1 hf
    exact ⟨standsAt_wholeFence hl s sc [], rfl, rfl⟩

/-! ### The conditions of a fence (R139, R240) -/

/-- A scope's accesses are performed in a core that has none outstanding. -/
theorem released_idle {s : State} {x : Ctx} (sc : Scope) (hops : (s.core x.core).memops = []) (hbuf : (s.core x.core).sbuf = [])
    (hatoms : (s.core x.core).atoms = []) (hstores : s.rstores = []) (hsequenced : s.sequenced = []) : s.released x sc = true := by
  unfold released marksDone
  dsimp only
  rw [hops, hbuf, hatoms, hstores, hsequenced]
  cases sc <;> rfl

/-- A fence without markers is clear when no store of its core and no reflected store is outstanding. -/
theorem fenceClear_idle {s : State} {f : RFence} (hmarkers : f.markers = []) (hmarks : ∀ m ∈ f.marks, (s.core m.1).sbuf = [])
    (hstores : s.rstores = []) (hsequenced : s.sequenced = []) : s.fenceClear f = true := by
  unfold fenceClear
  rw [hmarkers, hstores, hsequenced]
  have hall : (f.marks.all fun (c, sb, _) => !(s.core c).sbuf.any fun (key, e) =>
      decide (key < sb) && (f.scope ≠ .grp || e.uid == f.uid) && (e.ticket.isSome || e.bytes.any fun b => !b.sent)) = true := by
    refine List.all_eq_true.2 fun m hm => ?_
    dsimp only
    rw [hmarks m hm]
    rfl
  rw [hall]
  rfl

end Sys2Proof.Machine.State

namespace Sys2Proof.Claims
open Host Machine

section
variable {s : State} {x : Ctx} {sc : Scope}

/-! ### FENCE and RFENCE (R240, R337) -/

/-- The trap of a discarded reflected store pends for the bundle, where there is one (R131). -/
def discardTrap (s : State) (x : Ctx) : Option (Nat × Nat × Nat) → State
  | some b => s.pendTrap x.core x.gid x.g.uid x.g.ctx { State.pathTrap b with pc := x.pc, lanes := x.lanes }
  | none => s

/-- The first reflected store of the bundle's threads that was discarded. -/
def discarded (s : State) (x : Ctx) : Option (Nat × Nat × Nat) :=
  (s.sequenced.find? fun q => q.bad.isSome && q.uid == x.g.uid && q.lanes &&& x.lanes != 0).bind (·.bad)

theorem exec_fence_wait (hr : Runs (.fence sc) s x) (h : s.fenced x sc = false) : exec (.fence sc) s = .next (s.waitAt x .drain) := by
  refine (run_of_runs hr _ : execFence sc s = _).trans ?_
  dsimp only
  rw [h]
  rfl

theorem exec_fence_done (hr : Runs (.fence sc) s x) (h : s.fenced x sc = true) : exec (.fence sc) s =
    .next ((discardTrap (s.acquire x.core sc) x (if sc = .sys then discarded s x else none)).advance x) := by
  refine (run_of_runs hr _ : execFence sc s = _).trans ?_
  have hfind : (s.sequenced.find? fun q => q.bad.isSome && State.ofThreads x.g.uid x.lanes q.uid q.lanes).bind (·.bad) = discarded s x := by
    unfold discarded State.ofThreads
    simp only [Bool.and_assoc]
  dsimp only
  rw [h, hfind]
  rfl

theorem all_filter_iff {α : Type} {l : List α} {p q : α → Bool} : (l.filter p).all q = true ↔ ∀ y ∈ l, p y = true → q y = true := by
  simp only [List.all_eq_true, List.mem_filter, and_imp]

theorem exec_rfence_wait (hr : Runs (.rfence sc) s x) (h : (s.joinFence x sc).fenced x sc = false ∨
      ¬ ∀ f ∈ (s.joinFence x sc).fences, State.standsAt x f.2 = true → (s.joinFence x sc).fenceClear f.2 = true) :
    exec (.rfence sc) s = .next ((s.joinFence x sc).waitAt x .drain) := by
  refine (run_of_runs hr _ : execRfence sc s = _).trans ?_
  dsimp only
  rw [if_neg]
  · rfl
  · rw [Bool.and_eq_true, all_filter_iff]
    rintro ⟨hf, hclear⟩
    rcases h with h | h
    · exact Bool.false_ne_true (h.symm.trans hf)
    · exact h hclear

theorem exec_rfence_done (hr : Runs (.rfence sc) s x) (h : (s.joinFence x sc).fenced x sc = true)
    (hclear : ∀ f ∈ (s.joinFence x sc).fences, State.standsAt x f.2 = true → (s.joinFence x sc).fenceClear f.2 = true) :
    exec (.rfence sc) s = .next ((discardTrap (((s.joinFence x sc).closeFences x).acquire x.core sc) x
      (((s.joinFence x sc).fences.filter fun f => State.standsAt x f.2).findSome? fun f => (s.joinFence x sc).fenceBad f.2)).advance x) := by
  refine (run_of_runs hr _ : execRfence sc s = _).trans ?_
  dsimp only
  rw [if_pos]
  · rfl
  · rw [h, Bool.true_and, all_filter_iff]
    exact hclear

/-- An RFENCE whose threads stand at fences already opens none. -/
theorem exec_rfence_joined (hr : Runs (.rfence sc) s x)
    (hjoined : ∀ l, x.lanes.getLsbD l = true → ∃ f ∈ s.fences, State.standsAt x f.2 = true ∧ f.2.lanes.getLsbD l = true)
    (h : s.fenced x sc = true) (hclear : ∀ f ∈ s.fences, State.standsAt x f.2 = true → s.fenceClear f.2 = true) :
    exec (.rfence sc) s = .next ((discardTrap ((s.closeFences x).acquire x.core sc) x
      ((s.fences.filter fun f => State.standsAt x f.2).findSome? fun f => s.fenceBad f.2)).advance x) := by
  have hjoin := State.joinFence_joined sc hjoined
  exact (exec_rfence_done hr (by rwa [hjoin]) (by rwa [hjoin])).trans (by rw [hjoin])

theorem findSome?_fenceBad_none {fs : AMap RFence} (h : ∀ p ∈ fs, State.standsAt x p.2 = true → s.fenceBad p.2 = none) :
    (fs.filter fun f => State.standsAt x f.2).findSome? (fun f => s.fenceBad f.2) = none := by
  rw [List.findSome?_eq_none_iff]
  intro p hp
  obtain ⟨hp, hstands⟩ := List.mem_filter.1 hp
  exact h p hp hstands

/-- Of the fences of a bundle the first with a discarded store gives the trap. -/
theorem findSome?_fenceBad_first {before after : AMap RFence} {n : Nat} {f : RFence} {b : Nat × Nat × Nat}
    (hs : s.fences = before ++ (n, f) :: after) (hf : State.standsAt x f = true)
    (hbefore : ∀ p ∈ before, State.standsAt x p.2 = true → s.fenceBad p.2 = none) (hbad : s.fenceBad f = some b) :
    (s.fences.filter fun f => State.standsAt x f.2).findSome? (fun f => s.fenceBad f.2) = some b := by
  rw [hs, List.filter_append, List.filter_cons_of_pos (p := fun f : Nat × RFence => State.standsAt x f.2) hf, List.findSome?_append,
    findSome?_fenceBad_none hbefore, List.findSome?_cons, hbad]
  rfl

/-- With nothing outstanding an RFENCE at `.grp` or `.core` opens a fence that is clear at once, and closes it. -/
theorem exec_rfence_idle (hr : Runs (.rfence sc) s x) (hsc : sc = .grp ∨ sc = .core) (hops : (s.core x.core).memops = [])
    (hbuf : (s.core x.core).sbuf = []) (hatoms : (s.core x.core).atoms = []) (hstores : s.rstores = []) (hsequenced : s.sequenced = [])
    (hfences : s.fences = []) :
    ∃ n, exec (.rfence sc) s = .next ((({ s with nextFence := n } : State).acquire x.core sc).advance x) := by
  obtain ⟨fs, n, hjoin, hopened⟩ := State.joinFence_first hsc hfences
  have hbad : ∀ f, (s.joinFence x sc).fenceBad f = none := fun f => by
    rw [hjoin, State.fenceBad]
    exact congrArg (Option.bind · _) (congrArg (List.find? _) hsequenced)
  have hclosed : (s.joinFence x sc).closeFences x = { s with nextFence := n } := by
    have hnone : fs.filter (fun f => !State.standsAt x f.2) = s.fences := by
      rw [hfences, List.filter_eq_nil_iff]
      intro f hf
      simp [(hopened f hf).1]
    rw [hjoin]
    exact congrArg (fun fs => ({ s with fences := fs, nextFence := n } : State)) hnone
  refine ⟨n, (exec_rfence_done hr ?_ fun f hf _ => ?_).trans ?_⟩
  · rw [hjoin]
    exact State.released_idle sc hops hbuf hatoms hstores hsequenced
  · rw [hjoin] at hf ⊢
    obtain ⟨-, hmarkers, hmarks⟩ := hopened f hf
    refine State.fenceClear_idle hmarkers (fun m hm => ?_) hstores hsequenced
    rw [hmarks, List.mem_singleton] at hm
    rw [hm]
    exact hbuf
  · rw [hclosed, List.findSome?_eq_none_iff.2 fun f _ => hbad f.2]
    rfl

end

/-- Settles O30: a FENCE and an RFENCE wait or go on by the conditions of their scope, an RFENCE by those of its fences too. -/
theorem fencesWait : Obligations.FencesWait := by
  unfold Obligations.FencesWait
  refine ⟨fun s x sc hr => ⟨exec_fence_wait hr, fun hf hbad => ?_, fun e dev seq hf hsys hbad => ?_⟩,
    fun s x sc hr => ⟨fun hjoined hf hclear hbad => ?_, fun before n f after e dev seq hjoined hf hclear hs hmine hbefore hbad => ?_,
      fun hjoined h => ?_, fun hnone hl hf => ?_⟩,
    fun s x sc hops hbuf hatoms hstores hsequenced => ?_⟩
  · rw [exec_fence_done hr hf]
    rcases hbad with hsc | hbad
    · rw [if_neg hsc]
      rfl
    · rw [show discarded s x = none from hbad, ite_self]
      rfl
  · rw [exec_fence_done hr hf, if_pos hsys, show discarded s x = some (e, dev, seq) from hbad]
    rfl
  · rw [exec_rfence_joined hr hjoined hf hclear, findSome?_fenceBad_none hbad]
    rfl
  · rw [exec_rfence_joined hr hjoined hf hclear, findSome?_fenceBad_first hs hmine hbefore hbad]
    rfl
  · have hjoin := State.joinFence_joined sc hjoined
    exact (exec_rfence_wait hr (by rwa [hjoin])).trans (by rw [hjoin])
  · obtain ⟨markers, sent, -, hjoin⟩ := State.joinFence_opens sc hl fun f h => hnone f h
    refine ⟨_, exec_rfence_wait hr (.inl ?_), s.wholeFence x sc markers, ?_, State.standsAt_wholeFence hl s sc markers, rfl, rfl⟩
    · rw [hjoin]
      exact hf
    · rw [hjoin]
      exact (AMap.look_put _ _ _ _).trans (if_pos rfl)
  · have hf : s.fenced x sc = true := State.released_idle sc hops hbuf hatoms hstores hsequenced
    refine ⟨hf, hf, fun hr => ?_, fun hr hsc hfences => exec_rfence_idle hr hsc hops hbuf hatoms hstores hsequenced hfences⟩
    have hnone : discarded s x = none := by
      unfold discarded
      rw [hsequenced]
      rfl
    rw [exec_fence_done hr hf, hnone, ite_self]
    rfl

end Sys2Proof.Claims
end

section
/-! O42 as it is written: a path number beyond those that the path states have a field for (R123, R126). -/

namespace Sys2Proof.Machine

namespace State

/-- A quadword has no bits from 64 on, so the state of a path numbered from 16 on reads 0. -/
theorem pathState_of_ge {k : Nat} (hk : 16 ≤ k) (s : State) (e : Nat) : s.pathState e k = 0 := by
  have hlow : (s.ctlQ (winOff e 6)).toNat / 2 ^ (4 * k) = 0 :=
    Nat.div_eq_of_lt (Nat.lt_of_lt_of_le (BitVec.isLt _) (Nat.pow_le_pow_right (by decide) (by omega)))
  rw [pathState, if_neg (by omega), field, qf, bits, hlow, Nat.zero_mod]

end State

/-- A store of entry 0 whose copy waits for its answer on path 16. -/
def strayStore : Sequenced := { id := 0, core := 0, uid := 0, entry := 0, client := .none, paths := [(16, 1, 0)] }

/-- Right after reset, with that store sequenced. -/
def strayPath : State := { State.reset with sequenced := [strayStore] }

/-- Refutes O42: its clause of a path that cannot be reached asks of every path number that a path with open copies reads unreachable
(5) afterwards, but an entry has states for paths 0 to 8 alone; in `strayPath` a copy waits on path 16, whose state reads 0 before and after. -/
theorem not_windowSteps : ¬ Obligations.WindowSteps := by
  unfold Obligations.WindowSteps
  intro ⟨_, _, _, _, _, _, _, hunreachable, _⟩
  have hidle : strayPath.pathState 0 16 = 0 := State.pathState_of_ge (le_refl _) _ _
  obtain ⟨t, -, ht⟩ := hunreachable strayPath 0 16
    (.inr (.inr ⟨hidle, strayStore, List.mem_singleton_self _, rfl, (16, 1, 0), List.mem_singleton_self _, rfl, rfl⟩))
  rw [State.pathState_of_ge (le_refl _)] at ht
  cases ht

end Sys2Proof.Machine
end

section
/-! What a command of the matrix engine reads and writes in the core: its rows, its parties and its status (R285 to R288). -/

namespace Sys2Proof.Machine.State

/-! ### Commands without receivers (R285) -/

section
variable {s : State} {c n : Nat} (h : s.fed c n = [])
include h

theorem fedBy_alone (f : Nat) : fedBy f s c n = [] := by
  cases f with
  | zero => rfl
  | succ f => rw [fedBy, h, List.flatMap_nil]

theorem letGo_alone : s.letGo c n = s := by
  rw [letGo, h, List.foldl_nil]

theorem giveW_alone (f : Nat) (ws : List Byte) (own : WRecord) : giveW f s c n ws own = s := by
  cases f with
  | zero => rfl
  | succ f => rw [giveW, h, List.foldl_nil]

theorem endParties_alone (outcome cause addr resp : Nat) :
    s.endParties c n outcome cause addr resp = s.endCmd c n outcome cause addr resp := by
  rw [endParties, fedBy_alone h, List.foldl_nil]

end

/-! ### One row (R284, R286) -/

theorem readRow_ok {s u v : State} {c : Nat} {q : Cmd} {who : Instr} {sm ss : List Byte}
    (hsm : s.readOperand c q who (mmaBlock q.code q.block).sSrc (mmaBlock q.code q.block).s
      (q.progress * (mmaBlock q.code q.block).pitch) (rowLen q) = .ok u sm)
    (hss : u.readOperand c q who (mmaBlock q.code q.block).sSrc (mmaBlock q.code q.block).ss
      (kBlocks (mmaBlock q.code q.block).km1 * q.progress) (kBlocks (mmaBlock q.code q.block).km1) = .ok v ss) :
    s.readRow c q who = .ok v (sm ++ ss) := by
  unfold readRow
  dsimp only
  rw [hsm]
  dsimp only
  rw [hss]

/-- K blocks and columns of the W that is loaded for a command's team, or that the command names (R279, R290). -/
def weightBlocks (s : State) (c : Nat) (q : Cmd) : Nat :=
  match (s.team c q.team).wrec with
  | some r => kBlocks r.km1
  | none => kBlocks (mmaBlock q.code q.block).km1
def weightCols (s : State) (c : Nat) (q : Cmd) : Nat :=
  match (s.team c q.team).wrec with
  | some r => r.colsm1 + 1
  | none => (mmaBlock q.code q.block).cols

/-- Key of the accumulator row that a command adds to next. -/
def nextRow (s : State) (c : Nat) (q : Cmd) : Nat := accKey (s.team c q.team) ((mmaBlock q.code q.block).accRow + q.progress)

/-- What a column of that row becomes, with its flags (R286). -/
def rowOutput (s : State) (c : Nat) (q : Cmd) (sm ss : List Byte) (col : Nat) : Word × Word :=
  let m := mmaBlock q.code q.block
  let cut := s.weightBlocks c q * 32 * s.weightCols c q
  if s.weightCols c q ≤ col then (Config.freeWord (s.free + 2 * col), Config.freeWord (s.free + 2 * col + 1) &&& 0x17)
  else outputOf m (s.weightBlocks c q) sm ss ((s.core c).arrayData.take cut) ((s.core c).arrayData.drop cut) col
    (if m.accZero then 0 else (s.core c).acc.get (s.nextRow c q + col))

theorem rowOutput_loaded {s : State} {c : Nat} {q : Cmd} (sm ss : List Byte) {col : Nat} (h : col < s.weightCols c q) :
    s.rowOutput c q sm ss col = outputOf (mmaBlock q.code q.block) (s.weightBlocks c q) sm ss
      ((s.core c).arrayData.take (s.weightBlocks c q * 32 * s.weightCols c q))
      ((s.core c).arrayData.drop (s.weightBlocks c q * 32 * s.weightCols c q)) col
      (if (mmaBlock q.code q.block).accZero then 0 else (s.core c).acc.get (s.nextRow c q + col)) :=
  if_neg (Nat.not_le.2 h)

/-- The accumulators after a row: its columns are written, and no other cell. -/
theorem acc_computeRow (s : State) (c n : Nat) (q : Cmd) (sm ss : List Byte) : ((s.computeRow c n q sm ss).core c).acc =
    (s.core c).acc.write (s.nextRow c q) ((List.range (mmaBlock q.code q.block).cols).map fun col => (s.rowOutput c q sm ss col).1) := by
  unfold computeRow modCmd
  rw [core_modCore_same]
  dsimp only
  rw [core_setCore, if_pos rfl]
  dsimp only
  rw [List.map_map]
  rfl

theorem get_acc_computeRow {s : State} (hs : s.memWf = true) (c n : Nat) (q : Cmd) (sm ss : List Byte) {col : Nat}
    (hcol : col < (mmaBlock q.code q.block).cols) :
    Mem.get (n := 32) ((s.computeRow c n q sm ss).core c).acc (s.nextRow c q + col) = (s.rowOutput c q sm ss col).1 := by
  rw [acc_computeRow, Mem.get_write (Core.acc_wf (core_memWf hs c)), if_pos (Nat.le_add_right _ _), Nat.add_sub_cancel_left]
  rw [List.getD, List.getElem?_map, List.getElem?_range hcol]
  rfl

theorem get_acc_computeRow_other {s : State} (hs : s.memWf = true) (c n : Nat) (q : Cmd) (sm ss : List Byte) {a : Nat}
    (ha : a < s.nextRow c q ∨ s.nextRow c q + (mmaBlock q.code q.block).cols ≤ a) :
    Mem.get (n := 32) ((s.computeRow c n q sm ss).core c).acc a = Mem.get (n := 32) (s.core c).acc a := by
  rw [acc_computeRow]
  exact Mem.get_write_other (Core.acc_wf (core_memWf hs c)) (by simpa using ha)

end Sys2Proof.Machine.State
end

section
/-! The events of the matrix engine (R285 to R288). -/

namespace Sys2Proof.Claims
open Host Machine

section
variable {s : State} {c n : Nat} {q : Cmd}

/-! ### Rows (R286) -/

/-- The load of W that a command's block names. -/
def ownWeights (q : Cmd) : WRecord :=
  { src := (mmaBlock q.code q.block).wSrc, addr := (mmaBlock q.code q.block).w, scales := (mmaBlock q.code q.block).ws,
    km1 := (mmaBlock q.code q.block).km1, colsm1 := (mmaBlock q.code q.block).cols - 1 }

/-- A command whose W is loaded goes on with its rows. -/
def weighted (s : State) (c n : Nat) : State := (s.modCmd c n fun q => { q with asked := true }).post (.mmaRow c n)

/-- A command of the matrix sequencer that has started and joined its parties. -/
structure Computes (s : State) (c n : Nat) (q : Cmd) : Prop where
  present : s.cmd? c n = some q
  active : q.state = .active
  major : q.major = 0x68
  joined : q.cond = 0

theorem exec_mmaRow_ended (h : Computes s c n q) (hasked : q.asked = true) (hrows : (mmaBlock q.code q.block).rows ≤ q.progress) :
    exec (.mmaRow c n) s = .next ((s.letGo c n).endCmd c n) := by
  show execMmaRow c n s = _
  simp [execMmaRow, h.present, h.active, h.major, h.joined, hasked, hrows]

theorem exec_mmaRow_unweighted (h : Computes s c n q) (hasked : q.asked = false) (hload : (mmaBlock q.code q.block).wLoad = false)
    (hrec : (s.team c q.team).wrec = none) : exec (.mmaRow c n) s = .next (s.endCmd c n 2 5) := by
  show execMmaRow c n s = _
  simp [execMmaRow, h.present, h.active, h.major, h.joined, hasked, hload, hrec]

theorem exec_mmaRow_kept (h : Computes s c n q) (hasked : q.asked = false) (hload : (mmaBlock q.code q.block).wLoad = false)
    (hrec : (s.team c q.team).wrec ≠ none) (harray : (s.core c).arrayW = some q.team) :
    exec (.mmaRow c n) s = .next (weighted s c n) := by
  obtain ⟨r, hr⟩ := Option.ne_none_iff_exists'.1 hrec
  show execMmaRow c n s = _
  simp [execMmaRow, h.present, h.active, h.major, h.joined, hasked, hload, hr, harray, weighted]

theorem exec_mmaRow_loaded (h : Computes s c n q) (hasked : q.asked = false) (hload : (mmaBlock q.code q.block).wLoad = true)
    (hsrc : (mmaBlock q.code q.block).wSrc ≠ 3) (hfed : ∀ p ∈ State.fedBy 16 s c n, ∀ y, s.cmd? p.1 p.2 = some y → y.cond = 0) {u : State}
    {ws : List Byte} (hw : s.loadW c q (.mmaRow c n) (ownWeights q) = .ok u ws) :
    exec (.mmaRow c n) s = .next (weighted (State.giveW 16 u c n ws (ownWeights q)) c n) := by
  have hheld : ((State.fedBy 16 s c n).any fun p => (s.cmd? p.1 p.2).any fun y => decide (y.cond ≠ 0)) = false :=
    List.any_eq_false.2 fun p hp => by
      rw [Bool.not_eq_true, Option.any_eq_false_iff_get]
      exact fun hy => decide_eq_false (not_not.2 (hfed p hp _ (Option.some_get hy).symm))
  unfold ownWeights at hw
  show execMmaRow c n s = _
  simp only [execMmaRow, h.present, h.active, h.major, h.joined, hasked, hload, hsrc, hheld, hw, ne_eq, not_true_eq_false, or_self,
    if_false, Bool.false_eq_true, not_false_eq_true, if_true, and_false]
  rfl

theorem exec_mmaRow_fed (h : Computes s c n q) (hasked : q.asked = true) (hrows : q.progress < (mmaBlock q.code q.block).rows)
    (hup : q.up ≠ none) : exec (.mmaRow c n) s = .next s := by
  show execMmaRow c n s = _
  simp [execMmaRow, h.present, h.active, h.major, h.joined, hasked, Nat.not_le.2 hrows, Option.isSome_iff_ne_none.2 hup]

theorem exec_mmaRow_row (h : Computes s c n q) (hasked : q.asked = true) (hrows : q.progress < (mmaBlock q.code q.block).rows)
    (hup : q.up = none) (hfed : ∀ p ∈ State.fedBy 16 s c n, ∀ y, s.cmd? p.1 p.2 = some y → y.cond = 0 ∧ y.asked = true) {v w : State}
    {row : List Byte} {rows : List ((Nat × Nat) × List Byte)} (hrow : s.readRow c q (.mmaRow c n) = .ok v row)
    (hparties : v.readParties (.mmaRow c n) [((c, n), row)] (State.fedBy 16 s c n) = (w, rows, none)) :
    exec (.mmaRow c n) s = .next ((rows.foldl (fun (u : State) r =>
      if r.1 = (c, n) then u.computeRow c n q (r.2.take (State.rowLen q)) (r.2.drop (State.rowLen q)) else u.partyRow r.1 r.2) w).post
        (.mmaRow c n)) := by
  have hready : ((State.fedBy 16 s c n).any fun p =>
      ((s.cmd? p.1 p.2).any fun y => decide (y.cond ≠ 0)) || (s.cmd? p.1 p.2).any fun y => !y.asked) = false := List.any_eq_false.2 fun p hp => by
    cases hy : s.cmd? p.1 p.2 with
    | none => exact Bool.false_ne_true
    | some y => simp [hfed p hp y hy]
  show execMmaRow c n s = _
  simp only [execMmaRow, h.present, h.active, h.major, h.joined, hasked, Nat.not_le.2 hrows, hup, hready, hrow, hparties, ne_eq,
    not_true_eq_false, or_self, if_false, Bool.false_eq_true, Option.isSome_none]

/-! ### Multicasts (R285) -/

theorem exec_multicastTimeout (hq : s.cmd? c n = some q) (hactive : q.state = .active) (hcond : q.cond = 4) :
    exec (.multicastTimeout c n) s = .next (s.endParties c n 5 8 0 0) := by
  show execMulticastTimeout c n s = _
  simp [execMulticastTimeout, hq, hactive, hcond]

/-- A mask that names no team but the sender's has no receiver to find. -/
theorem filterMap_masked {β : Type} {mask me : Nat} (h : ∀ i, i ≠ me → mask.testBit i = false) (f : Nat → β) (l : List Nat) :
    l.filterMap (fun i => if mask.testBit i && i != me then some (f i) else none) = [] := by
  refine List.filterMap_eq_nil_iff.2 fun i _ => if_neg fun hi => ?_
  rw [Bool.and_eq_true, bne_iff_ne] at hi
  exact Bool.false_ne_true ((h i hi.2).symm.trans hi.1)

/-- A sender whose mask names no other team has no receiver to wait for: it ends when the mask names its own, and else starts as soon as
it has joined a sender that it receives from. -/
theorem exec_multicastJoin_alone (hq : s.cmd? c n = some q) (hactive : q.state = .active) (hcond : q.cond = 4)
    (hsend : (mmaBlock q.code q.block).send = true) (hparties : q.parties = [])
    (hmask : ∀ i, i ≠ (s.team c q.team).index → (mmaBlock q.code q.block).mask.testBit i = false) :
    let sent := s.modCmd c n fun q => { q with parties := [] }
    exec (.multicastJoin c n) s = .next (if (mmaBlock q.code q.block).mask.testBit (s.team c q.team).index then sent.endParties c n 1 5 0 0
      else if State.joined q then (sent.modCmd c n fun q => { q with cond := 0 }).post (.mmaRow c n) else sent) := by
  have hjoined : ((s.modCmd c n fun q => { q with parties := [] }).cmd? c n).any State.joined = State.joined q := by
    rw [State.cmd?_modCmd, hq, ← hparties]
    rfl
  show execMulticastJoin c n s = _
  unfold execMulticastJoin
  rw [hq]
  dsimp only
  rw [if_neg (by simp [hactive, hcond]), if_neg (by simp [hsend, hparties]), filterMap_masked hmask]
  simp only [List.any_nil, Bool.false_eq_true, if_false, List.filterMap_nil, Bool.or_false, List.foldl_nil, List.foldl_cons, hjoined]
  split <;> rfl

/-! ### Completion (R287, R288, R131) -/

theorem exec_matrixCommandComplete_step (hq : s.cmd? c n = some q) (hactive : q.state = .active) (hmajor : q.major ≠ 0x68) :
    exec (.matrixCommandComplete c n) s = .next (s.accStep c n q) := by
  show execMatrixCommandComplete c n s = _
  simp [execMatrixCommandComplete, hq, hactive, hmajor]

/-- A command's last status and the flags of its rows in the core store (R287). -/
def matrixOut (s : State) (c n : Nat) (q late : Cmd) : State :=
  (s.modCore c fun k => { k with eq := k.eq.put n late }).modCore c fun k =>
    k.writeStore ((s.cmdSpan c q).1 + q.desc + 48) (leBytes 4 (late.outcome + statusFlags q.flags))

theorem exec_matrixCommandComplete (hq : s.cmd? c n = some q) (hcommitted : q.state = .committed) (hopen : s.windowOpen c n q.rel = false) :
    exec (.matrixCommandComplete c n) s = .next ((if q.major = 0x68 then
        (matrixOut s c n q (s.lateWindow c n q 3)).modCore c fun k =>
          k.writeStore ((s.cmdSpan c q).1 + q.desc + 56) (leBytes 4 (q.progress % 128))
      else matrixOut s c n q (s.lateWindow c n q 3)).signal c n) := by
  obtain ⟨outcome, cause, addr, resp, hlate⟩ := lateWindow_rest s c n q 3
  show execMatrixCommandComplete c n s = _
  unfold execMatrixCommandComplete matrixOut
  rw [hlate]
  simp only [hq, hcommitted, ne_eq, not_true_eq_false, hopen, Bool.false_eq_true, or_self, if_false, hlate, reduceCtorEq, false_and]

end

/-- Settles O45: the rows and joins of the matrix engine's commands by what their blocks name, the accumulators after a row, and the
status that a completion writes. -/
theorem matrixSteps : Obligations.MatrixSteps := by
  unfold Obligations.MatrixSteps
  refine ⟨fun s c n q hq hactive hmajor hcond => ?rows, fun s c n q sm ss hs => ?accumulators,
    fun s c n q hq hactive hcond => ⟨exec_multicastTimeout hq hactive hcond, fun h => State.endParties_alone h 5 8 0 0, ?joins⟩,
    fun s c n q hq => ⟨exec_matrixCommandComplete_step hq, fun hcommitted hopen =>
      ⟨lateWindow_same 3, lateWindow_lost 3, exec_matrixCommandComplete hq hcommitted hopen⟩⟩⟩
  case rows =>
    have h : Computes s c n q := ⟨hq, hactive, hmajor, hcond⟩
    exact ⟨exec_mmaRow_ended h, fun hasked hload => ⟨exec_mmaRow_unweighted h hasked hload, exec_mmaRow_kept h hasked hload⟩,
      fun u ws hasked hload hsrc hfed => exec_mmaRow_loaded h hasked hload hsrc hfed,
      fun hfed => ⟨State.letGo_alone hfed, State.fedBy_alone hfed 16, fun ws => State.giveW_alone hfed 16 ws _⟩,
      fun u v sm ss => State.readRow_ok,
      fun hasked hrows => ⟨exec_mmaRow_fed h hasked hrows, fun v row w rows hup hfed => exec_mmaRow_row h hasked hrows hup hfed⟩⟩
  case accumulators =>
    refine fun a => ⟨fun hle hlt hloaded => ?_, State.get_acc_computeRow_other hs c n q sm ss⟩
    obtain ⟨col, rfl⟩ := Nat.exists_eq_add_of_le hle
    refine (State.get_acc_computeRow hs c n q sm ss (Nat.add_lt_add_iff_left.1 hlt)).trans ?_
    rw [State.rowOutput_loaded sm ss (Nat.add_lt_add_iff_left.1 hloaded), Nat.add_sub_cancel_left]
    rfl
  case joins =>
    intro sent hsend hparties _
    have hjoin := exec_multicastJoin_alone hq hactive hcond hsend hparties
    refine ⟨fun hmask hreceives => ?_, fun hmask => ?_⟩
    · have hjoined : State.joined q = true := by simp [State.joined, hmask, hreceives]
      rw [hmask] at hjoin
      simpa [hjoined] using hjoin
    · refine (hjoin fun i hi => ?_).trans (congrArg Outcome.next (if_pos ?_))
      · rw [hmask, Nat.testBit_two_pow]
        exact decide_eq_false hi.symm
      · rw [hmask, Nat.testBit_two_pow_self]

end Sys2Proof.Claims
end

section
/-! What an instruction has read at its issue, and the lanes of an outstanding instruction that speak for their locations (R165, R299). -/

namespace Sys2Proof.Machine

@[simp] theorem State.logStall_asIssued (s : State) (x : Ctx) : (s.asIssued x).logStall = (s.core x.core).logStall := by
  obtain ⟨rf, h⟩ := State.asIssued_eq s x
  rw [h]

@[simp] theorem State.nextOp_asIssued (s : State) (x : Ctx) : (s.asIssued x).nextOp = (s.core x.core).nextOp := by
  obtain ⟨rf, h⟩ := State.asIssued_eq s x
  rw [h]

@[simp] theorem State.sbFree_asIssued (s : State) (x : Ctx) (pipe : Nat) : (s.asIssued x).sbFree pipe = (s.core x.core).sbFree pipe := by
  obtain ⟨rf, h⟩ := State.asIssued_eq s x
  rw [h]
  rfl

/-- The lowest lane of each location speaks for it. -/
theorem State.mem_leaders {accs : List LaneAcc} {l : Nat} :
    l ∈ State.leaders accs ↔ ∃ a ∈ accs, a.lane = l ∧ ∀ b ∈ accs, b.va = a.va → l ≤ b.lane := by
  unfold State.leaders
  simp only [List.mem_map, List.mem_filter, List.all_eq_true, Bool.or_eq_true, decide_eq_true_eq]
  constructor
  · rintro ⟨a, ⟨ha, hall⟩, rfl⟩
    exact ⟨a, ha, rfl, fun b hb heq => (hall b hb).resolve_left (not_not.2 heq)⟩
  · rintro ⟨a, ha, rfl, hall⟩
    exact ⟨a, ⟨ha, fun b hb => or_iff_not_imp_left.2 fun hne => hall b hb (not_not.1 hne)⟩, rfl⟩

end Sys2Proof.Machine

namespace Sys2Proof.Claims

open Machine

variable {s : State} {x : Ctx} {acc : Access}

/-! ### Global loads (R293, R295) -/

/-- The global loads are one meaning on the lanes of their access. -/
theorem exec_of_globalLoad {i : Instr} {d : Nat} {w : Width} (hi : access s x i = some acc) (hw : globalLoad i = some (d, w)) :
    ∃ a off, acc = ⟨acc.side, w.bytes, addr64 (issued s x) x acc.side a (Off.val w.bytes off), .global⟩ ∧
      ∃ body : Ctx → State → Res, exec i s = run i body s ∧ body x s = Machine.globalLoad acc.side w d a off x s := by
  unfold globalLoad at hw
  split at hw <;> cases hw <;> cases hi
  case h_1 m d a off => exact ⟨a.toNat, off, rfl, _, show execLd m d a w off s = _ from rfl, rfl⟩
  case h_2 d a off => exact ⟨a.toNat, off, rfl, _, show execLds d a w off s = _ from rfl, rfl⟩

/-- The accesses of a global load. -/
def loadAccs (acc : Access) : List LaneAcc := acc.side.lanes.map fun l => { lane := l, va := acc.addr l }

/-- A global load whose access is clear does nothing without lanes, waits for the operand log, or starts its accesses. -/
theorem globalLoad_clear {w : Width} {d a : Nat} {off : Off}
    (hacc : acc = ⟨acc.side, w.bytes, addr64 (issued s x) x acc.side a (Off.val w.bytes off), .global⟩) (hc : Clear s x acc) :
    Machine.globalLoad acc.side w d a off x s =
      if acc.side.lanes.isEmpty then .done s
      else if ¬ (s.core x.core).logStall.isEmpty then .wait s .xlate
      else .done (s.startOp x acc.side (.load w.bytes (w == .s8 || w == .s16)) d w.regs (loadAccs acc) acc.side.lanes) := by
  have ht := accessTrap_clear hc
  rw [hacc] at ht ⊢
  rw [← State.logStall_asIssued]
  cases w <;> exact checked_clear ht

/-! ### Global atomics (R298, R299) -/

/-- The atomics are one meaning on the lanes of their access. -/
theorem exec_of_atomic {i : Instr} {r : Rmw} {ops d : Nat} {sp : AtomSpace} {sc : Scope} {o : Order} (hi : access s x i = some acc)
    (ha : atomic i = some (r, ops, d, sp, sc, o)) : ∃ a off, acc = atomAccess s x acc.side sp a off ∧
      ∃ body : Ctx → State → Res, exec i s = run i body s ∧ body x s = atomOf acc.side sp r ops d a sc o off x s := by
  unfold atomic at ha
  split at ha <;> cases ha <;> cases hi
  case h_1 m op d a off => exact ⟨a.toNat, off, rfl, _, show execAtomLane m sp op d a sc o off s = _ from rfl, rfl⟩
  case h_2 m d a off => exact ⟨a.toNat, off, rfl, _, show execCasLane m sp d a sc o off s = _ from rfl, rfl⟩
  case h_3 m d a off => exact ⟨a.toNat, off, rfl, _, show execAtomExchLane m sp d a sc o off s = _ from rfl, rfl⟩
  case h_4 op d a off => exact ⟨a.toNat, off, rfl, _, show execAtomUniform sp op d a sc o off s = _ from rfl, rfl⟩
  case h_5 d a off => exact ⟨a.toNat, off, rfl, _, show execCasUniform sp d a sc o off s = _ from rfl, rfl⟩
  case h_6 d a off => exact ⟨a.toNat, off, rfl, _, show execAtomExchUniform sp d a sc o off s = _ from rfl, rfl⟩

theorem atomAccess_size (sd : Side) (sp : AtomSpace) (a : Nat) (off : TOff) :
    (atomAccess s x sd sp a off).size = 4 * sp.dataRegs := by
  unfold atomAccess AtomSpace.dataRegs
  cases sp.wide <;> rfl

theorem atomAccess_global {sd : Side} {sp : AtomSpace} {a : Nat} {off : TOff} :
    (atomAccess s x sd sp a off).space = .global ↔ sp.store = false := by
  unfold atomAccess
  cases sp.store <;> simp

/-- The accesses of a global atomic, each with its lane's operands. -/
def atomAccs (s : State) (x : Ctx) (acc : Access) (ops d : Nat) : List LaneAcc :=
  acc.side.lanes.map fun l =>
    { lane := l, va := acc.addr l, x := wordsBytes ((issued s x).elem x acc.side d (ops * (acc.size / 4)) l) }

/-- A global atomic whose access is clear does nothing without lanes, waits for the operand log or its release, or starts. -/
theorem atomOf_global {sp : AtomSpace} {r : Rmw} {ops d a : Nat} {sc : Scope} {o : Order} {off : TOff}
    (hacc : acc = atomAccess s x acc.side sp a off) (hsp : acc.space = .global) (hc : Clear s x acc) :
    atomOf acc.side sp r ops d a sc o off x s =
      if acc.side.lanes.isEmpty then .done s
      else if ¬ (s.core x.core).logStall.isEmpty then .wait s .xlate
      else if Order.releases o ∧ ¬ s.released x sc then .wait s .drain
      else State.doneOrBehind o x (s.core x.core).nextOp (s.startOp x acc.side (.atom r acc.size sc o) d (acc.size / 4)
        (atomAccs s x acc ops d) (State.leaders (atomAccs s x acc ops d))) := by
  have ht := accessTrap_clear hc
  rw [hacc] at hsp ht ⊢
  have hst := atomAccess_global.1 hsp
  rw [← State.logStall_asIssued, ← State.nextOp_asIssued, atomOf, if_neg (by simp [hst])]
  simp only [atomAccess, hst, Bool.false_eq_true, if_false] at ht ⊢
  exact checked_clear ht

theorem mem_leaders_atomAccs {ops d l : Nat} : l ∈ State.leaders (atomAccs s x acc ops d) ↔
    l ∈ acc.side.lanes ∧ ∀ j ∈ acc.side.lanes, acc.addr j = acc.addr l → l ≤ j := by
  simp [State.mem_leaders, atomAccs]

/-- The bytes of a lane's consecutive registers. -/
theorem getD_wordsBytes_elem (k : Core) (sd : Side) {d n l j : Nat} (hj : j < 4 * n) :
    (wordsBytes (k.elem x sd d n l)).getD j 0 = dataByte k x sd d l j := by
  rw [List.getD, getElem?_wordsBytes, Core.elem, List.getElem?_map, List.getElem?_range (by omega)]
  rfl

@[simp] theorem length_elem (k : Core) (sd : Side) (d n l : Nat) : (k.elem x sd d n l).length = n := by
  simp [Core.elem]

/-- Each lane's access holds its operands, low register first. -/
theorem mem_atomAccs {ops d l : Nat} (hsize : acc.size % 4 = 0) (hl : l ∈ acc.side.lanes) :
    ∃ a ∈ atomAccs s x acc ops d, a.lane = l ∧ a.x.length = ops * acc.size ∧
      ∀ j < ops * acc.size, a.x.getD j 0 = dataByte (issued s x) x acc.side d l j := by
  have hbytes : 4 * (ops * (acc.size / 4)) = ops * acc.size := by
    rw [Nat.mul_left_comm, Nat.mul_div_cancel' (Nat.dvd_of_mod_eq_zero hsize)]
  refine ⟨_, List.mem_map.2 ⟨l, hl, rfl⟩, rfl, ?_, fun j hj => getD_wordsBytes_elem _ _ (hbytes ▸ hj)⟩
  rw [length_wordsBytes, length_elem, hbytes]

/-- Settles O21. A load: its one operation has an access a lane. An atomic: behind its waits, its one operation has an access a lane
too, and the lowest lane of each location asks for the translation. -/
theorem globalLoadsAndAtomics : Obligations.GlobalLoadsAndAtomics := by
  unfold Obligations.GlobalLoadsAndAtomics
  refine ⟨fun i s x acc d w hr hi hw hc => ?load, fun i s x acc r ops d sp sc o hr hi ha hsp hc => ?atomic⟩
  case load =>
    obtain ⟨a, off, hacc, body, he, hb⟩ := exec_of_globalLoad hi hw
    rw [he, run_of_runs hr, hb, globalLoad_clear hacc hc]
    simp only [List.isEmpty_iff]
    split
    · rfl
    · split
      · rfl
      · refine ⟨startedOp s x acc.side _ d w.regs (loadAccs acc), _, ?_, rfl, rfl, rfl, rfl, rfl, rfl, rfl, rfl, rfl, rfl⟩
        exact List.map_map
  case atomic =>
    obtain ⟨a, off, hacc, body, he, hb⟩ := exec_of_atomic hi ha
    have hsize : acc.size % 4 = 0 := by rw [hacc, atomAccess_size, Nat.mul_mod_right]
    rw [he, run_of_runs hr, hb, atomOf_global hacc hsp hc]
    simp only [List.isEmpty_iff]
    refine ⟨fun hl => ?_, fun hl hk => ?_, fun hl hk ho hrel => ?_, fun hl hk hall => ?_⟩
    · rw [if_pos hl]
      rfl
    · rw [if_neg hl, if_pos hk]
      rfl
    · rw [if_neg hl, if_neg (not_not.2 hk), if_pos ⟨ho, Bool.eq_false_iff.1 hrel⟩]
      rfl
    · rw [if_neg hl, if_neg (not_not.2 hk), if_neg (not_and_not_right.2 hall)]
      refine ⟨startedOp s x acc.side (.atom r acc.size sc o) d (acc.size / 4) (atomAccs s x acc ops d),
        State.leaders (atomAccs s x acc ops d), List.map_map, fun l hl => mem_atomAccs hsize hl, rfl, rfl, rfl, rfl,
        fun l => mem_leaders_atomAccs, ?_⟩
      unfold State.doneOrBehind
      split <;> rfl

end Sys2Proof.Claims
end

section
/-! The bytes of a global store and the sectors that they lie in (R137, R296). -/

namespace Sys2Proof.Machine

/-! ### Sorting -/

theorem insertBy_perm {α : Type} (lt : α → α → Bool) (x : α) (l : List α) : (insertBy lt x l).Perm (x :: l) := by
  induction l with
  | nil => exact .refl _
  | cons y t ih =>
    unfold insertBy
    split
    · exact .refl _
    · exact (ih.cons y).trans (.swap x y t)

theorem foldl_insertBy_perm {α : Type} (lt : α → α → Bool) (l acc : List α) :
    (l.foldl (fun acc x => insertBy lt x acc) acc).Perm (l ++ acc) := by
  induction l generalizing acc with
  | nil => exact .refl _
  | cons x t ih => exact (ih _).trans (((insertBy_perm lt x acc).append_left t).trans List.perm_middle)

theorem sortBy_perm {α : Type} (lt : α → α → Bool) (l : List α) : (sortBy lt l).Perm l := by
  simpa [sortBy] using foldl_insertBy_perm lt l []

theorem insertBy_sorted {x : Nat} {l : List Nat} (h : l.Pairwise (· ≤ ·)) :
    (insertBy (fun a b => decide (a < b)) x l).Pairwise (· ≤ ·) := by
  induction l with
  | nil => exact List.pairwise_singleton _ _
  | cons y t ih =>
    obtain ⟨hy, ht⟩ := List.pairwise_cons.1 h
    unfold insertBy
    split
    · next hlt =>
      have hxy : x ≤ y := Nat.le_of_lt (of_decide_eq_true hlt)
      exact List.pairwise_cons.2 ⟨fun z hz => by
        rcases List.mem_cons.1 hz with rfl | hz
        · exact hxy
        · exact hxy.trans (hy z hz), h⟩
    · next hge =>
      have hyx : y ≤ x := Nat.le_of_not_lt (by simpa using hge)
      refine List.pairwise_cons.2 ⟨fun z hz => ?_, ih ht⟩
      rcases List.mem_cons.1 ((insertBy_perm _ x t).mem_iff.1 hz) with rfl | hz
      · exact hyx
      · exact hy z hz

theorem sortBy_sorted (l : List Nat) : (sortBy (fun a b => decide (a < b)) l).Pairwise (· ≤ ·) :=
  List.foldlRecOn l _ List.Pairwise.nil fun _ h _ _ => insertBy_sorted h

/-- Distinct numbers, sorted, rise strictly. -/
theorem sortBy_strict {l : List Nat} (h : l.Nodup) : (sortBy (fun a b => decide (a < b)) l).Pairwise (· < ·) :=
  ((sortBy_sorted l).and ((sortBy_perm _ l).nodup_iff.2 h)).imp fun h => Nat.lt_of_le_of_ne h.1 h.2

/-! ### The bytes of a store -/

/-- The sectors of virtual addresses that bytes lie in, in ascending order. -/
def storeSectors (bytes : List SByte) : List Nat := sortBy (fun a b => decide (a < b)) (bytes.map fun b => b.va / 48).dedup

theorem storeSectors_strict (bytes : List SByte) : (storeSectors bytes).Pairwise (· < ·) := sortBy_strict (List.nodup_dedup _)

theorem mem_storeSectors {bytes : List SByte} {q : Nat} : q ∈ storeSectors bytes ↔ ∃ y ∈ bytes, y.va / 48 = q := by
  rw [storeSectors, (sortBy_perm _ _).mem_iff, List.mem_dedup, List.mem_map]

theorem length_storeSectors (bytes : List SByte) : (storeSectors bytes).length = ((bytes.map fun b => b.va / 48).dedup).length :=
  (sortBy_perm _ _).length_eq

/-- The byte that a lane stores at a place of its data. -/
def storedByte (ea : Nat → Nat) (l j : Nat) (v : Byte) : SByte := { va := ea l + j, val := v, lane := l }

/-- Every byte that a lane names, before the highest lane's are chosen. -/
theorem mem_allBytes {lanes : List Nat} {ea : Nat → Nat} {data : Nat → List Byte} {y : SByte} :
    y ∈ (lanes.flatMap fun l => (data l).zipIdx.map fun (b, i) => ({ va := ea l + i, val := b, lane := l } : SByte)) ↔
      ∃ l ∈ lanes, ∃ j v, (data l)[j]? = some v ∧ storedByte ea l j v = y := by
  simp only [List.mem_flatMap, List.mem_map, Prod.exists, List.mk_mem_zipIdx_iff_getElem?]
  exact exists_congr fun l => and_congr_right fun _ => exists_comm

end Sys2Proof.Machine

namespace Sys2Proof.Claims

open Machine

/-- The byte left at an address is that of the one lane that names it with none above. -/
theorem lastTo_eq_some {ls : List Nat} (hs : ls.Pairwise (· < ·)) {lo : Nat → Nat} {n : Nat} {byte : Nat → Nat → Byte}
    {b : Nat} {v : Byte} : lastTo ls lo n byte b = some v ↔
      ∃ l ∈ ls, (lo l ≤ b ∧ b < lo l + n) ∧ byte l (b - lo l) = v ∧ ∀ j ∈ ls, lo j ≤ b ∧ b < lo j + n → j ≤ l := by
  induction ls using List.reverseRecOn with
  | nil => simp [lastTo]
  | append_singleton ls l ih =>
    obtain ⟨hls, -, hlt⟩ := List.pairwise_append.1 hs
    have hbelow : ∀ j ∈ ls, j < l := fun j hj => hlt j hj l (List.mem_singleton_self l)
    rw [lastTo_snoc]
    by_cases h : lo l ≤ b ∧ b < lo l + n
    · rw [if_pos h, Option.some_inj]
      constructor
      · rintro rfl
        refine ⟨l, by simp, h, rfl, fun j hj _ => ?_⟩
        rcases List.mem_append.1 hj with hj | hj
        · exact Nat.le_of_lt (hbelow j hj)
        · exact Nat.le_of_eq (List.mem_singleton.1 hj)
      · rintro ⟨j, hj, -, hv, hmax⟩
        have hlj : l ≤ j := hmax l (by simp) h
        rcases List.mem_append.1 hj with hj | hj
        · exact absurd (hbelow j hj) (Nat.not_lt.2 hlj)
        · rwa [← List.mem_singleton.1 hj]
    · rw [if_neg h, ih hls]
      constructor
      · rintro ⟨j, hj, hb, hv, hmax⟩
        refine ⟨j, by simp [hj], hb, hv, fun i hi hib => ?_⟩
        rcases List.mem_append.1 hi with hi | hi
        · exact hmax i hi hib
        · exact absurd (List.mem_singleton.1 hi ▸ hib) h
      · rintro ⟨j, hj, hb, hv, hmax⟩
        rcases List.mem_append.1 hj with hj | hj
        · exact ⟨j, hj, hb, hv, fun i hi => hmax i (by simp [hi])⟩
        · exact absurd (List.mem_singleton.1 hj ▸ hb) h

/-- The bytes of a store are, at each address, the byte of the highest lane that names it (R137). -/
theorem storeBytes_at {ls : List Nat} (hs : ls.Pairwise (· < ·)) {ea : Nat → Nat} {n : Nat} {data : Nat → List Byte}
    {byte : Nat → Nat → Byte} (hd : ∀ l j, (data l)[j]? = if j < n then some (byte l j) else none) (a : Nat) (v : Byte) :
    (∃ y ∈ storeBytes ls ea data, y.va = a ∧ y.val = v) ↔ lastTo ls ea n byte a = some v := by
  have hat {l j : Nat} {v : Byte} : (data l)[j]? = some v ↔ j < n ∧ byte l j = v := by
    rw [hd]
    split <;> simp [*]
  unfold storeBytes
  simp only [List.mem_filter, List.all_eq_true, mem_allBytes, hat, Bool.or_eq_true, decide_eq_true_eq, lastTo_eq_some hs]
  constructor
  · rintro ⟨_, ⟨⟨l, hl, j, _, ⟨hj, rfl⟩, rfl⟩, hmax⟩, rfl, rfl⟩
    refine ⟨l, hl, ⟨Nat.le_add_right _ _, Nat.add_lt_add_left hj _⟩, congrArg (byte l) (Nat.add_sub_cancel_left _ _), ?_⟩
    intro i hi (hb : ea i ≤ ea l + j ∧ ea l + j < ea i + n)
    have hall := hmax (storedByte ea i (ea l + j - ea i) (byte i (ea l + j - ea i))) ⟨i, hi, _, _, ⟨by omega, rfl⟩, rfl⟩
    exact hall.resolve_left (not_not.2 (Nat.add_sub_of_le hb.1))
  · rintro ⟨l, hl, hb, rfl, hmax⟩
    have hva : ea l + (a - ea l) = a := Nat.add_sub_of_le hb.1
    refine ⟨storedByte ea l (a - ea l) _, ⟨⟨l, hl, _, _, ⟨by omega, rfl⟩, rfl⟩, ?_⟩, hva, rfl⟩
    rintro _ ⟨i, hi, j, _, ⟨hj, rfl⟩, rfl⟩
    refine or_iff_not_imp_left.2 fun hne => hmax i hi ?_
    have : ea i + j = a := (not_not.1 hne).trans hva
    omega

end Sys2Proof.Claims
end

section
/-! A global store in the store buffer (R296). -/

namespace Sys2Proof.Machine

/-- The entry of a store for one sector. -/
def sectorEntry (x : Ctx) (sd : Side) (w : Width) (bytes : List SByte) (mark first sec : Nat) : SbEntry :=
  { pipe := pipeOf x.gid, uid := x.g.uid, gid := x.gid, ctx := x.g.ctx, pc := x.pc, width := w.code.toNat, uniform := sd.uniform,
    victims := sd.victims, opMark := mark, instr := first, bytes := bytes.filter fun b => b.va / 48 = sec }

/-- A store takes the entry of one sector. -/
def State.enterSector (s : State) (x : Ctx) (sd : Side) (w : Width) (bytes : List SByte) (first sec : Nat) : State :=
  let k := s.core x.core
  (s.setCore x.core (k.takeEntry fun _ => sectorEntry x sd w bytes k.nextOp first sec)).post
    (.storeBufferDrain x.core (pipeOf x.gid) k.nextSb)

section Enter

variable (s : State) (x : Ctx) (sd : Side) (w : Width) (bytes : List SByte) (first : Nat)

theorem State.core_enterSector (sec : Nat) : (s.enterSector x sd w bytes first sec).core x.core =
    (s.core x.core).takeEntry fun _ => sectorEntry x sd w bytes (s.core x.core).nextOp first sec := by
  unfold State.enterSector
  rw [State.core_post, State.core_setCore, if_pos rfl]

theorem State.agenda_enterSector (sec : Nat) : (s.enterSector x sd w bytes first sec).agenda =
    s.agenda ++ [.storeBufferDrain x.core (pipeOf x.gid) (s.core x.core).nextSb] := rfl

/-- Entries of sectors taken one after another are entries of the core, each with a drain posted, and nothing else changes. -/
theorem State.foldl_enterSector (secs : List Nat) :
    let t := secs.foldl (fun t sec => t.enterSector x sd w bytes first sec) s
    (t.core x.core = secs.foldl (fun (k : Core) sec => k.takeEntry fun _ => sectorEntry x sd w bytes (s.core x.core).nextOp first sec)
      (s.core x.core)) ∧
    (∀ j < secs.length, Instr.storeBufferDrain x.core (pipeOf x.gid) ((s.core x.core).nextSb + j) ∈ t.agenda) ∧
    { t with agenda := s.agenda, cores := s.cores } = s := by
  induction secs using List.reverseRecOn with
  | nil => exact ⟨rfl, by simp, rfl⟩
  | append_singleton secs sec ih =>
    obtain ⟨hcore, hdrains, hrest⟩ := ih
    obtain ⟨sbuf, hfold, -, -⟩ := Core.foldl_takeEntry (s.core x.core) secs
      fun sec _ => sectorEntry x sd w bytes (s.core x.core).nextOp first sec
    rw [hfold] at hcore
    simp only [List.foldl_append, List.foldl_cons, List.foldl_nil]
    refine ⟨?_, fun j hj => ?_, hrest⟩
    · rw [State.core_enterSector, hcore, hfold]
    · rw [List.length_append, List.length_singleton] at hj
      rw [State.agenda_enterSector, hcore]
      rcases Nat.lt_succ_iff_lt_or_eq.1 hj with hj | rfl
      · exact List.mem_append_left _ (hdrains j hj)
      · exact List.mem_append_right _ (List.mem_singleton_self _)

end Enter

end Sys2Proof.Machine

namespace Sys2Proof.Claims

open Machine

variable {s : State} {x : Ctx} {acc : Access} {d : Nat} {w : Width}

/-- The global stores are one meaning on the lanes of their access. -/
theorem exec_of_globalStore {i : Instr} (hi : access s x i = some acc) (hw : globalStore i = some (d, w)) :
    ∃ a off, acc = ⟨acc.side, w.bytes, addr64 (issued s x) x acc.side a (Off.val w.bytes off), .global⟩ ∧
      ∃ body : Ctx → State → Res, exec i s = run i body s ∧ body x s = Machine.globalStore acc.side w d a off x s := by
  unfold globalStore at hw
  split at hw <;> cases hw <;> cases hi
  case h_1 m d a off => exact ⟨a.toNat, off, rfl, _, show execSt m d a w off s = _ from rfl, rfl⟩
  case h_2 d a off => exact ⟨a.toNat, off, rfl, _, show execSts d a w off s = _ from rfl, rfl⟩

/-- The bytes that a global store leaves. -/
def globalBytes (s : State) (x : Ctx) (acc : Access) (d : Nat) (w : Width) : List SByte :=
  storeBytes acc.side.lanes acc.addr fun l => (wordsBytes ((issued s x).elem x acc.side d w.regs l)).take w.bytes
/-- The state in which the bytes of a global store stand in the store buffer. -/
def entered (s : State) (x : Ctx) (acc : Access) (d : Nat) (w : Width) : State :=
  (storeSectors (globalBytes s x acc d w)).foldl
    (fun t sec => t.enterSector x acc.side w (globalBytes s x acc d w) (s.core x.core).nextSb sec) s

/-- A global store whose access is clear waits for room, or takes an entry a sector. -/
theorem globalStore_clear {a : Nat} {off : Off}
    (hacc : acc = ⟨acc.side, w.bytes, addr64 (issued s x) x acc.side a (Off.val w.bytes off), .global⟩) (hc : Clear s x acc) :
    Machine.globalStore acc.side w d a off x s =
      if (s.core x.core).sbFree (pipeOf x.gid) < (storeSectors (globalBytes s x acc d w)).length then .wait s .drain
      else .done (entered s x acc d w) := by
  have ht := accessTrap_clear hc
  rw [length_storeSectors, ← State.sbFree_asIssued]
  unfold entered globalBytes
  rw [hacc] at ht ⊢
  exact checked_clear ht

/-- Settles O22: the bytes of the store are split by their sectors, and each sector takes the next entry. -/
theorem globalStoresEnterTheBuffer : Obligations.GlobalStoresEnterTheBuffer := by
  unfold Obligations.GlobalStoresEnterTheBuffer
  intro i s x acc d w hr hi hw hc stored k
  obtain ⟨a, off, hacc, body, he, hb⟩ := exec_of_globalStore hi hw
  have hbyte : ∀ a v, (∃ y ∈ globalBytes s x acc d w, y.va = a ∧ y.val = v) ↔ stored a = some v :=
    storeBytes_at (access_sorted hi) (getElem?_storeData _ _ _ _)
  obtain ⟨hcore, hdrains, hrest⟩ := State.foldl_enterSector s x acc.side w (globalBytes s x acc d w) k.nextSb
    (storeSectors (globalBytes s x acc d w))
  obtain ⟨sbuf, hfold, hin, hout⟩ := Core.foldl_takeEntry k (storeSectors (globalBytes s x acc d w))
    fun sec _ => sectorEntry x acc.side w (globalBytes s x acc d w) k.nextOp k.nextSb sec
  replace hcore : (entered s x acc d w).core x.core = _ := hcore.trans hfold
  rw [he, run_of_runs hr, hb, globalStore_clear hacc hc]
  refine ⟨storeSectors (globalBytes s x acc d w), storeSectors_strict _, fun q => ?_, fun hfull => ?_, fun hroom =>
    ⟨entered s x acc d w, ?_, by rw [hcore], by rw [hcore]; exact hout, fun j q hq => ?_, hrest, by rw [hcore]⟩⟩
  · rw [mem_storeSectors]
    constructor
    · rintro ⟨y, hy, hq⟩
      exact ⟨y.va, hq, Option.isSome_iff_exists.2 ⟨y.val, (hbyte _ _).1 ⟨y, hy, rfl, rfl⟩⟩⟩
    · rintro ⟨a, hq, ha⟩
      obtain ⟨v, hv⟩ := Option.isSome_iff_exists.1 ha
      obtain ⟨y, hy, rfl, -⟩ := (hbyte a v).2 hv
      exact ⟨y, hy, hq⟩
  · rw [if_pos hfull]
    rfl
  · rw [if_neg (Nat.not_lt.2 hroom)]
    rfl
  · refine ⟨_, by rw [hcore]; exact hin j q hq, rfl, rfl, rfl, rfl, fun a v => ?_,
      hdrains j (List.getElem?_eq_some_iff.1 hq).1⟩
    rw [← hbyte]
    simp only [sectorEntry, List.mem_filter, decide_eq_true_eq]
    constructor
    · rintro ⟨y, ⟨hy, hq⟩, rfl, rfl⟩
      exact ⟨hq, y, hy, rfl, rfl⟩
    · rintro ⟨hq, y, hy, rfl, rfl⟩
      exact ⟨y, ⟨hy, hq⟩, rfl, rfl⟩

end Sys2Proof.Claims
end

section
/-! Locked read-modify-writes of the core store (R141, R298): values of several bytes as bit vectors, and what each lane leaves. -/

namespace Sys2Proof.Machine

/-! ### The operation (R298) -/

theorem toInt_of_halves {n : Nat} (hn : 0 < n) (v : BitVec n) :
    (if v.toNat < 2 ^ (n - 1) then (v.toNat : Int) else (v.toNat : Int) - 2 ^ n) = v.toInt := by
  obtain ⟨k, rfl⟩ := Nat.exists_eq_add_of_le' hn
  rw [BitVec.toInt_eq_toNat_cond, Nat.add_sub_cancel, Nat.pow_succ, Nat.mul_comm]
  simp only [Nat.mul_lt_mul_right (show 0 < 2 by decide), Nat.cast_pow, Nat.cast_mul, Nat.cast_ofNat, pow_succ]

end Sys2Proof.Machine

namespace Sys2Proof.Claims

open Machine

theorem apply_eq_combined {n : Nat} (hn : 0 < n) (r : Rmw) (v x y : BitVec n) :
    r.apply n v.toNat x.toNat y.toNat = (combined n r v x y).toNat := by
  cases r with
  | op o =>
    cases o
    case add => exact (BitVec.toNat_add v x).symm
    case and => exact (BitVec.toNat_and v x).symm
    case or => exact (BitVec.toNat_or v x).symm
    case xor => exact (BitVec.toNat_xor v x).symm
    case min =>
      simp only [Rmw.apply, combined, toInt_of_halves hn, BitVec.slt_iff_toInt_lt]
      split <;> rfl
    case max =>
      simp only [Rmw.apply, combined, toInt_of_halves hn, BitVec.slt_iff_toInt_lt]
      split <;> rfl
    case minu =>
      simp only [Rmw.apply, combined, BitVec.ult_iff_lt, BitVec.lt_def]
      split <;> rfl
    case maxu =>
      simp only [Rmw.apply, combined, BitVec.ult_iff_lt, BitVec.lt_def]
      split <;> rfl
  | exch => rfl
  | cas =>
    simp only [Rmw.apply, combined, BitVec.toNat_inj]
    split <;> rfl

/-- Only a compare-and-swap has a second operand. -/
theorem apply_congr {n : Nat} {r : Rmw} (hr : r ≠ .cas) (old x y y' : Nat) : r.apply n old x y = r.apply n old x y' := by
  cases r with
  | op o => cases o <;> rfl
  | exch => rfl
  | cas => exact absurd rfl hr

/-! ### Values of several bytes -/

variable {x : Ctx}

theorem leNat_lt (bs : List Byte) : leNat bs < 2 ^ (8 * bs.length) := by
  refine Nat.lt_pow_two_of_testBit _ fun i hi => ?_
  rw [testBit_leNat, List.getD_eq_default _ _ (by omega)]
  exact BitVec.getLsbD_zero

theorem toNat_valueAt (size : Nat) (m : Nat → Byte) (a : Nat) :
    (valueAt (8 * size) m a).toNat = leNat ((List.range size).map fun j => m (a + j)) := by
  unfold valueAt
  rw [Nat.mul_div_cancel_left size (by decide), BitVec.toNat_ofNat, Nat.mod_eq_of_lt]
  simpa using leNat_lt ((List.range size).map fun j => m (a + j))

theorem toNat_valueAt_store (k : Core) (a size : Nat) :
    (valueAt (8 * size) (Mem.get (n := 8) k.store) a).toNat = leNat (k.readStore a size) := toNat_valueAt _ _ _

/-- A byte of a value. -/
theorem extractLsb'_valueAt {size j : Nat} (hj : j < size) (m : Nat → Byte) (a : Nat) :
    (valueAt (8 * size) m a).extractLsb' (8 * j) 8 = m (a + j) := by
  refine BitVec.eq_of_getLsbD_eq fun i hi => ?_
  rw [BitVec.getLsbD_extractLsb', decide_eq_true hi, Bool.true_and, ← BitVec.testBit_toNat, toNat_valueAt, testBit_leNat, List.getD,
    List.getElem?_map, List.getElem?_range (by omega), show (8 * j + i) / 8 = j by omega, show (8 * j + i) % 8 = i by omega]
  rfl

/-- The value of consecutive registers, from some byte of a longer run of them. -/
theorem toNat_operand (k : Core) (sd : Side) {d n l size skip : Nat} (hskip : skip % 4 = 0) (hn : skip + size ≤ 4 * n) :
    (operand (8 * size) k x sd (d + skip / 4) l).toNat = leNat (((wordsBytes (k.elem x sd d n l)).drop skip).take size) := by
  rw [operand, toNat_valueAt]
  refine congrArg leNat (List.ext_getElem? fun j => ?_)
  rw [List.getElem?_take, List.getElem?_drop, getElem?_wordsBytes]
  by_cases hj : j < size
  · rw [if_pos hj, List.getElem?_map, List.getElem?_range hj, Core.elem, List.getElem?_map, List.getElem?_range (by omega)]
    simp only [Option.map_some, Nat.zero_add, dataByte, show (skip + j) / 4 = skip / 4 + j / 4 by omega,
      show (skip + j) % 4 = j % 4 by omega, Nat.add_assoc]
    rfl
  · rw [if_neg hj]
    simp [hj]

/-- The operands of a lane make the new value (R298): a compare-and-swap has two, every other operation one. -/
theorem apply_operands (k : Core) (sd : Side) {r : Rmw} {ops d l size : Nat} (hops : r = .cas ∧ ops = 2 ∨ r ≠ .cas ∧ ops = 1)
    (hsize : size % 4 = 0) (hpos : 0 < size) (v : BitVec (8 * size)) :
    let bs := wordsBytes (k.elem x sd d (ops * (size / 4)) l)
    r.apply (8 * size) v.toNat (leNat (bs.take size)) (leNat (bs.drop size)) =
      (combined (8 * size) r v (operand (8 * size) k x sd d l) (operand (8 * size) k x sd (d + size / 4) l)).toNat := by
  intro bs
  have hwords : 4 * (ops * (size / 4)) = ops * size := by
    rw [Nat.mul_left_comm, Nat.mul_div_cancel' (Nat.dvd_of_mod_eq_zero hsize)]
  have hone : size ≤ ops * size := Nat.le_mul_of_pos_left _ (by omega)
  have hfirst : (operand (8 * size) k x sd d l).toNat = leNat (bs.take size) :=
    toNat_operand (skip := 0) k sd rfl (by omega)
  rw [← apply_eq_combined (by omega), hfirst]
  rcases hops with ⟨-, rfl⟩ | ⟨hr, rfl⟩
  · have hlen : (bs.drop size).length ≤ size := by
      rw [List.length_drop, length_wordsBytes, length_elem]
      omega
    rw [toNat_operand k sd hsize (show size + size ≤ 4 * (2 * (size / 4)) by omega), List.take_of_length_le hlen]
  · exact apply_congr hr _ _ _ _

/-- The bytes of a core store after a value was written over some of them. -/
def putValue {size : Nat} (m : Nat → Byte) (a : Nat) (new : BitVec (8 * size)) (b : Nat) : Byte :=
  if a ≤ b ∧ b < a + size then new.extractLsb' (8 * (b - a)) 8 else m b

theorem putValue_valueAt {size : Nat} (m : Nat → Byte) (a : Nat) : putValue m a (valueAt (8 * size) m a) = m := by
  funext b
  unfold putValue
  split
  · next h => rw [extractLsb'_valueAt (by omega), Nat.add_sub_of_le h.1]
  · rfl

theorem get_storeBy_value {k : Core} (hk : k.memWf = true) (gid : Nat) {size : Nat} (a : Nat) (new : BitVec (8 * size)) :
    Mem.get (n := 8) (k.storeBy gid a (leBytes size new.toNat)).store = putValue (Mem.get (n := 8) k.store) a new := by
  funext b
  unfold putValue
  rw [Core.store_storeBy, Mem.get_write (Core.store_wf hk)]
  by_cases h : a ≤ b
  · rw [if_pos h, List.getD]
    by_cases hb : b < a + size
    · rw [if_pos ⟨h, hb⟩, getElem?_leBytes (by omega), Option.getD_some]
      apply BitVec.eq_of_toNat_eq
      simp [Nat.shiftRight_eq_div_pow]
    · rw [if_neg fun hc => hb hc.2, List.getElem?_eq_none (by rw [length_leBytes]; omega)]
      rfl
  · rw [if_neg h, if_neg fun hc => h hc.1]

/-! ### The lanes of an atomic, one after another (R141) -/

theorem lockedEach_cons {size : Nat} (r : Rmw) (addr : Nat → Nat) (u v : Nat → BitVec (8 * size)) (l : Nat) (t : List Nat)
    (m : Nat → Byte) : lockedEach (8 * size) r addr u v (l :: t) m =
      let old := valueAt (8 * size) m (addr l)
      let rest := lockedEach (8 * size) r addr u v t (putValue m (addr l) (combined (8 * size) r old (u l) (v l)))
      (rest.1, fun j => if j = l then old else rest.2 j) := by
  rw [lockedEach, Nat.mul_div_cancel_left size (by decide)]
  rfl

/-- One lane's locked read-modify-write: the core after it, and what the lanes up to it have found. -/
def rmwLane (r : Rmw) (gid size : Nat) (addr : Nat → Nat) (data : Nat → List Byte) (p : Core × List (Nat × Option Nat)) (l : Nat) :
    Core × List (Nat × Option Nat) :=
  if p.1.storeBad (addr l) size then (p.1, p.2 ++ [(l, none)])
  else
    let old := leNat (p.1.readStore (addr l) size)
    let new := r.apply (8 * size) old (leNat ((data l).take size)) (leNat ((data l).drop size))
    (if new = old then p.1 else p.1.storeBy gid (addr l) (leBytes size new), p.2 ++ [(l, some old)])

/-- What a lane has found, if it is among those that have. -/
def foundBy (got : List (Nat × Option Nat)) (l : Nat) : Option Nat := (got.find? fun p => p.1 = l).bind (·.2)

theorem foundBy_map {ls : List Nat} (f : Nat → Nat) {l : Nat} (hl : l ∈ ls) :
    foundBy (ls.map fun j => (j, some (f j))) l = some (f l) := by
  have hfind : ls.find? (fun j => decide (j = l)) = some l := by
    obtain ⟨j, hj⟩ := Option.isSome_iff_exists.1 (List.find?_isSome.2 ⟨l, hl, decide_eq_true rfl⟩ :
      (ls.find? fun j => decide (j = l)).isSome)
    rw [hj, of_decide_eq_true (List.find?_some (p := fun j => decide (j = l)) hj)]
  unfold foundBy
  rw [List.find?_map]
  show (Option.map _ (ls.find? fun j => decide (j = l))).bind _ = _
  rw [hfind]
  rfl

theorem storePoison_storeBy {k : Core} (hk : k.storePoison = []) (gid a : Nat) (bs : List Byte) :
    (k.storeBy gid a bs).storePoison = [] := by
  have hwrite : (k.writeStore a bs).storePoison = [] := by simp [Core.writeStore, Core.wake, hk]
  unfold Core.storeBy Core.writeForeign Core.disown
  split
  · split <;> exact hwrite
  · exact hwrite

section Locked

variable {r : Rmw} {gid size : Nat} {addr : Nat → Nat} {data : Nat → List Byte} {u v : Nat → BitVec (8 * size)}
  (hdata : ∀ l (old : BitVec (8 * size)), r.apply (8 * size) old.toNat (leNat ((data l).take size)) (leNat ((data l).drop size)) =
    (combined (8 * size) r old (u l) (v l)).toNat)

include hdata in
/-- On a core store without poison a lane finds the value there and leaves the new one. -/
theorem rmwLane_clean {q : Core} (hq : q.memWf = true) (hclean : q.storePoison = []) (got : List (Nat × Option Nat)) (l : Nat) :
    let old := valueAt (8 * size) (Mem.get (n := 8) q.store) (addr l)
    ∃ q', rmwLane r gid size addr data (q, got) l = (q', got ++ [(l, some old.toNat)]) ∧ StoreBy gid q q' ∧ q'.memWf = true ∧
      q'.storePoison = [] ∧
      Mem.get (n := 8) q'.store = putValue (Mem.get (n := 8) q.store) (addr l) (combined (8 * size) r old (u l) (v l)) := by
  intro old
  have hgood : ¬ q.storeBad (addr l) size = true := by simp [Core.storeBad, hclean]
  unfold rmwLane
  dsimp only
  rw [if_neg hgood, ← toNat_valueAt_store, hdata]
  by_cases hsame : combined (8 * size) r old (u l) (v l) = old
  · exact ⟨q, by rw [if_pos (congrArg BitVec.toNat hsame)], StoreBy.refl gid q, hq, hclean, by rw [hsame, putValue_valueAt]⟩
  · exact ⟨_, by rw [if_neg (mt BitVec.toNat_inj.1 hsame)], storeBy_storeBy q gid _ _, Core.storeBy_memWf q gid _ _ hq,
      storePoison_storeBy hclean gid _ _, get_storeBy_value hq gid _ _⟩

include hdata in
/-- The lanes of an atomic act in their order, each on what those before it have left. -/
theorem foldl_rmwLane {ls : List Nat} (hls : ls.Nodup) {q : Core} (hq : q.memWf = true) (hclean : q.storePoison = [])
    (got : List (Nat × Option Nat)) :
    let out := lockedEach (8 * size) r addr u v ls (Mem.get (n := 8) q.store)
    ∃ q', ls.foldl (rmwLane r gid size addr data) (q, got) = (q', got ++ ls.map fun l => (l, some (out.2 l).toNat)) ∧
      StoreBy gid q q' ∧ q'.memWf = true ∧ Mem.get (n := 8) q'.store = out.1 := by
  induction ls generalizing q got with
  | nil => exact ⟨q, by simp, StoreBy.refl gid q, hq, rfl⟩
  | cons l t ih =>
    obtain ⟨hl, ht⟩ := List.nodup_cons.1 hls
    obtain ⟨q₁, hstep, hby, hwf, hclean₁, hget⟩ := rmwLane_clean (gid := gid) (addr := addr) hdata hq hclean got l
    obtain ⟨q', hfold, hby', hwf', hget'⟩ := ih ht hwf hclean₁
      (got ++ [(l, some (valueAt (8 * size) (Mem.get (n := 8) q.store) (addr l)).toNat)])
    rw [hget] at hfold hget'
    rw [lockedEach_cons]
    intro out
    refine ⟨q', ?_, hby.trans hby', hwf', hget'⟩
    rw [List.foldl_cons, hstep, hfold, List.append_assoc, List.map_cons]
    refine congrArg (fun m => (q', got ++ m)) (congrArg₂ List.cons ?_ (List.map_congr_left fun j hj => ?_))
    · simp [out]
    · have hne : j ≠ l := fun h => hl (h ▸ hj)
      simp [out, hne]

end Locked

end Sys2Proof.Claims
end

section
/-! The core-store atomics, as instructions (R135, R136, R141, R298). -/

namespace Sys2Proof.Claims

open Machine

variable {s : State} {x : Ctx} {acc : Access}

/-! ### Delivering each lane's value -/

/-- The registers that an access from register d writes, n of them, have rows: those of the thread, or consecutive ones of a lane. -/
def HasRows (x : Ctx) (sd : Side) (d n : Nat) : Prop :=
  sd = x.uniSide ∨ ∃ m row, sd = x.laneSide m ∧ d < 64 ∧ ∀ j < n, x.g.vRow x.gid (d + j) = some (row + j)

/-- One or two aligned registers whose range is held have consecutive rows. -/
theorem vRow_aligned {vs : List Nat} (h : unheld x.g x.gid vs = []) (hg : x.gid < 512) {d n : Nat} (hn : n = 1 ∨ n = 2)
    (ha : d % n = 0) (hd : d ∈ vs) : ∃ row, ∀ j < n, x.g.vRow x.gid (d + j) = some (row + j) := by
  obtain ⟨row, hrow⟩ := vRow_of_held h hg hd
  refine ⟨row, fun j hj => ?_⟩
  rcases hn with rfl | rfl
  · rwa [Nat.lt_one_iff.1 hj]
  · obtain rfl | rfl : j = 0 ∨ j = 1 := by omega
    · exact hrow
    · exact vRow_succ hrow (by omega)

theorem hasRows_lane {i : Instr} (hv : unheld x.g x.gid i.vregs = []) (hg : x.gid < 512) (m : MReg) {d : VReg} {n : Nat}
    (hn : n = 1 ∨ n = 2) (ha : d.toNat % n = 0) (hd : d.toNat ∈ i.named) : HasRows x (x.laneSide m) d.toNat n := by
  obtain ⟨row, hrow⟩ := vRow_aligned hv hg hn ha (List.mem_filter.2 ⟨hd, decide_eq_true d.isLt⟩)
  exact .inr ⟨m, row, rfl, d.isLt, hrow⟩

/-- Words delivered to each lane of an access stand in its destination registers, and nothing else changes. -/
theorem delivers_putElem (hs : s.memWf = true) {sd : Side} {d n : Nat} (hn : 0 < n) (hrows : HasRows x sd d n)
    (word : Nat → Nat → Word) :
    Delivers s x sd d n (fun j l => if l ∈ sd.lanes then some (word j l) else none)
      (s.modCore x.core fun q => sd.lanes.foldl (fun q l => q.putElem x sd d l ((List.range n).map fun j => word j l)) q) := by
  rcases hrows with rfl | ⟨m, row, rfl, hd, hrow⟩
  · have hword : (List.range n).map (fun j => ((if 0 ∈ x.uniSide.lanes then some (word j 0) else none) : Option Word).getD 0) =
        (List.range n).map fun j => word j 0 := List.map_congr_left fun j _ => by simp [Ctx.uniSide]
    unfold Delivers
    rw [if_pos (show x.uniSide.uniform = true from rfl), if_pos fun j _ => by simp [Ctx.uniSide]]
    dsimp only
    rw [hword]
    exact writesUniform_writeSs hs x d _
  · obtain ⟨rf, hfold, hwf, hget⟩ := foldl_putElem_spec (sd := x.laneSide m) rfl hrow (Core.rf_wf (State.core_memWf hs x.core))
      (x.laneSide m).lanes (fun _ hl => lanesOf_lt hl) (fun l => (List.range n).map fun j => word j l) (fun _ => by simp)
    refine ⟨row, rf, ?_, congrArg (s.setCore x.core) hfold, fun a => ?_⟩
    · rw [BitVec.toNat_ofNat, Nat.mod_eq_of_lt hd]
      exact hrow 0 hn
    · rw [hget]
      by_cases hin : row ≤ a / 32 ∧ a / 32 < row + n
      · have hj : a / 32 - row < n := by omega
        by_cases hl : a % 32 ∈ (x.laneSide m).lanes
        · rw [if_pos ⟨hin.1, hin.2, hl⟩, if_pos hin]
          simp [hl, hj]
        · rw [if_neg fun h => hl h.2.2, if_pos hin]
          simp [hl]
      · rw [if_neg fun h => hin ⟨h.1, h.2.1⟩, if_neg hin]
        rfl

/-- What is read without poison in the lanes of an access reaches each of them. -/
theorem deliver_lanes {sd : Side} {d : Nat} {read read' : Nat → List Word} {bad : Nat → Option Nat}
    (h : ∀ l ∈ sd.lanes, bad l = none ∧ read l = read' l) : deliver sd d x s read bad =
      .done (s.modCore x.core fun q => sd.lanes.foldl (fun q l => q.putElem x sd d l (read' l)) q) := by
  have hnone : sd.lanes.findSome? bad = none := List.findSome?_eq_none_iff.2 fun l hl => (h l hl).1
  have hfold (q : Core) : sd.lanes.foldl (fun k l => if (bad l).isSome then k else k.putElem x sd d l (read l)) q =
      sd.lanes.foldl (fun q l => q.putElem x sd d l (read' l)) q :=
    List.foldl_ext _ _ _ fun q l hl => by simp [(h l hl).1, (h l hl).2]
  unfold deliver
  simp only [hnone, hfold]

/-- The registers of a value of several bytes. -/
theorem loadWords_leBytes {size : Nat} (v : BitVec (8 * size)) :
    loadWords (size / 4) false (leBytes size v.toNat) = (List.range (size / 4)).map fun j => v.extractLsb' (32 * j) 32 := by
  have hv : v.toNat % 256 ^ size = v.toNat := by
    rw [show (256 : Nat) = 2 ^ 8 from rfl, ← Nat.pow_mul]
    exact Nat.mod_eq_of_lt v.isLt
  unfold loadWords
  rw [leNat_leBytes, hv]
  simp only [Bool.false_eq_true, false_and, if_false]
  refine List.map_congr_left fun j _ => BitVec.eq_of_toNat_eq ?_
  rw [w32, BitVec.toNat_ofNat, BitVec.extractLsb'_toNat, Nat.shiftRight_eq_div_pow]

/-! ### The instructions -/

theorem atomAccess_store {sd : Side} {sp : AtomSpace} {a : Nat} {off : TOff} :
    (atomAccess s x sd sp a off).space = .store ↔ sp.store = true := by
  unfold atomAccess
  cases sp.store <;> simp

/-- What the lanes of a core-store atomic leave and find. -/
def lockedLanes (s : State) (x : Ctx) (acc : Access) (r : Rmw) (ops d : Nat) : Core × List (Nat × Option Nat) :=
  acc.side.lanes.foldl (rmwLane r x.gid acc.size (fun l => (s.span x).1 + acc.addr l) fun l =>
    wordsBytes ((issued s x).elem x acc.side d (ops * (acc.size / 4)) l)) (s.core x.core, [])

/-- A core-store atomic whose access is clear does nothing without lanes, waits, or has its lanes act and find their values. -/
theorem atomOf_store {sp : AtomSpace} {r : Rmw} {ops d a : Nat} {sc : Scope} {o : Order} {off : TOff}
    (hacc : acc = atomAccess s x acc.side sp a off) (hsp : acc.space = .store) (hc : Clear s x acc) :
    atomOf acc.side sp r ops d a sc o off x s =
      if acc.side.lanes.isEmpty then .done s
      else if behindAperture s x acc.side.lanes (fun l => (s.span x).1 + acc.addr l) acc.size ∨
        (Order.releases o ∧ ¬ s.released x sc) then .wait s .drain
      else
        deliver acc.side d x
          (if Order.acquires o then (s.setCore x.core (lockedLanes s x acc r ops d).1).acquire x.core sc
            else s.setCore x.core (lockedLanes s x acc r ops d).1)
          (fun l => loadWords (acc.size / 4) false (leBytes acc.size ((foundBy (lockedLanes s x acc r ops d).2 l).getD 0)))
          fun l => if (foundBy (lockedLanes s x acc r ops d).2 l).isNone then some (acc.addr l) else none := by
  have ht := accessTrap_clear hc
  unfold lockedLanes
  rw [hacc] at hsp ht ⊢
  have hst := atomAccess_store.1 hsp
  rw [atomOf, if_pos hst]
  simp only [atomAccess, hst, if_true] at ht ⊢
  exact checked_clear ht

theorem dataRegs_cases (sp : AtomSpace) : sp.dataRegs = 1 ∨ sp.dataRegs = 2 := by
  unfold AtomSpace.dataRegs
  cases sp.wide <;> simp

theorem mem_named_v (r : VReg) {n : Nat} (hn : 0 < n) : r.toNat ∈ Named.v n r :=
  List.mem_map.2 ⟨0, List.mem_range.2 hn, rfl⟩

/-- The destination of an atomic has rows. -/
theorem hasRows_of_atomic {i : Instr} {r : Rmw} {ops d : Nat} {sp : AtomSpace} {sc : Scope} {o : Order} (hr : Runs i s x)
    (hi : access s x i = some acc) (ha : atomic i = some (r, ops, d, sp, sc, o)) (hd : d % sp.dataRegs = 0) :
    HasRows x acc.side d sp.dataRegs := by
  have hregs := dataRegs_cases sp
  have hpos : 0 < sp.dataRegs := by omega
  obtain ⟨-, hb, hv⟩ := hr
  unfold atomic at ha
  split at ha <;> cases ha <;> cases hi
  case h_1 m op d a off =>
    exact hasRows_lane hv (by simpa [Instr.barred, Instr.laneOnly] using hb) m hregs hd (List.mem_append_left _ (mem_named_v d hpos))
  case h_2 m d a off =>
    exact hasRows_lane hv (by simpa [Instr.barred, Instr.laneOnly] using hb) m hregs hd
      (List.mem_append_left _ (mem_named_v d (Nat.mul_pos (by decide) hpos)))
  case h_3 m d a off =>
    exact hasRows_lane hv (by simpa [Instr.barred, Instr.laneOnly] using hb) m hregs hd (List.mem_append_left _ (mem_named_v d hpos))
  case h_4 => exact .inl rfl
  case h_5 => exact .inl rfl
  case h_6 => exact .inl rfl

/-- A compare-and-swap has two operands, every other atomic one. -/
theorem operands_of_atomic {i : Instr} {r : Rmw} {ops d : Nat} {sp : AtomSpace} {sc : Scope} {o : Order}
    (ha : atomic i = some (r, ops, d, sp, sc, o)) : r = .cas ∧ ops = 2 ∨ r ≠ .cas ∧ ops = 1 := by
  unfold atomic at ha
  split at ha <;> cases ha <;> simp

/-- An acquire within the group leaves everything as it is (R140). -/
theorem acquire_setCore (s : State) (c : Nat) (k : Core) (sc : Scope) (b : Bool) :
    (if b then (s.setCore c k).acquire c sc else s.setCore c k) = (s.setCore c k).acquire c (if b then sc else .grp) := by
  cases b
  · show s.setCore c k = (s.setCore c k).setCore c ((s.setCore c k).core c)
    rw [State.core_setCore, if_pos rfl, State.setCore_setCore]
  · rfl

/-- Settles O23: the lanes act one after another on the core store, and what each has found is delivered to its registers. -/
theorem coreStoreAtomics : Obligations.CoreStoreAtomics := by
  unfold Obligations.CoreStoreAtomics
  intro i s x acc r ops d sp sc o hr hs hi ha hsp hc waits
  obtain ⟨a, off, hacc, body, he, hb⟩ := exec_of_atomic hi ha
  have hsize : acc.size = 4 * sp.dataRegs := by rw [hacc, atomAccess_size]
  have hregs := dataRegs_cases sp
  have hwaits : waits ↔ (behindAperture s x acc.side.lanes (fun l => (s.span x).1 + acc.addr l) acc.size = true ∨
      (Order.releases o = true ∧ ¬ s.released x sc = true)) := by
    simp only [waits, behind_iff hsp, Bool.not_eq_true]
  rw [he, run_of_runs hr, hb, atomOf_store hacc hsp hc]
  refine ⟨fun hl => ?_, fun hl hw => ?_, fun hl hw hclean hd => ?_⟩
  · rw [if_pos (List.isEmpty_iff.2 hl)]
    rfl
  · rw [if_neg (mt List.isEmpty_iff.1 hl), if_pos (hwaits.1 hw)]
    rfl
  · intro n out
    have hk := State.core_memWf hs x.core
    have hfour : acc.size / 4 = sp.dataRegs := by omega
    obtain ⟨k', hfold, hby, hwf, hget⟩ := foldl_rmwLane (gid := x.gid) (addr := fun l => (s.span x).1 + acc.addr l)
      (fun l old => apply_operands (issued s x) acc.side (d := d) (l := l) (size := acc.size) (operands_of_atomic ha)
        (by omega) (by omega) old)
      ((access_sorted hi).imp Nat.ne_of_lt) hk hclean []
    replace hfold : lockedLanes s x acc r ops d = (k', acc.side.lanes.map fun l => (l, some (out.2 l).toNat)) := hfold
    rw [if_neg (mt List.isEmpty_iff.1 hl), if_neg (mt hwaits.2 hw), hfold, acquire_setCore]
    refine ⟨k', _, hby, congrFun hget, delivers_putElem (State.acquire_memWf _ _ _ (State.setCore_memWf hs hwf _))
      (by omega) (hfour ▸ hasRows_of_atomic hr hi ha (hfour ▸ hd)) fun j l => (out.2 l).extractLsb' (32 * j) 32, ?_⟩
    rw [deliver_lanes fun l hl => ⟨by rw [foundBy_map _ hl]; rfl, ?_⟩]
    · rfl
    · rw [foundBy_map _ hl, Option.getD_some, loadWords_leBytes]

end Sys2Proof.Claims
end

section
/-! The steps of the machine (R160 to R163, R206, R213, R214): the bundle that an issue forms, what counting the issue and the passing of time
leave of a core, and which work a step performs. -/

namespace Sys2Proof.Machine

/-! ### The bundle of an issue (R161 to R163) -/

theorem pickBest_mem {α : Type} {better : α → α → Bool} {l : List α} {a : α} (h : pickBest better l = some a) : a ∈ l := by
  cases l with
  | nil => cases h
  | cons b t =>
    cases h
    induction t generalizing b with
    | nil => exact List.mem_cons_self
    | cons c t ih =>
      rw [List.foldl_cons]
      rcases List.mem_cons.1 (ih (if better c b = true then c else b)) with hbest | hrest
      · rw [hbest]
        split <;> simp
      · exact List.mem_cons_of_mem _ (List.mem_cons_of_mem _ hrest)

/-- The first PC of an issue is one of the ready ones. -/
theorem mem_of_choose {uniform : Bool} {n : Nat} {ps rest : List PcClass} {p : PcClass} (h : choose uniform n ps = p :: rest) : p ∈ ps := by
  unfold choose at h
  dsimp only at h
  split at h
  · exact (List.mem_filter.1 (pickBest_mem (Option.mem_toList.1 (h ▸ List.mem_cons_self)))).1
  · split at h
    · cases h
    · next hbest =>
      obtain ⟨rfl, -⟩ := List.cons.inj h
      exact (List.mem_filter.1 (pickBest_mem hbest)).1

/-- A ready PC carries what a fetch at it finds. -/
theorem Core.fetch_of_mem_ready {k : Core} {gid : Nat} {g : Group} {p : PcClass} (h : p ∈ k.ready gid g) : p.fetch = k.fetch g.ctx p.pc := by
  unfold ready at h
  split at h
  · cases h
  · obtain ⟨pc, -, hpc⟩ := List.mem_filterMap.1 h
    dsimp only at hpc
    split at hpc
    · cases hpc; rfl
    · cases hpc

theorem PcClass.cur_word {p : PcClass} {w lit : Word} (h : p.fetch = .word w lit) (c gid : Nat) :
    p.cur c gid = { core := c, gid, lanes := p.lanes, pc := p.pc, word := w, lit } := by
  unfold cur
  rw [h]

theorem PcClass.cur_place (p : PcClass) (c gid : Nat) : (p.cur c gid).core = c ∧ (p.cur c gid).gid = gid ∧ (p.cur c gid).pc = p.pc := by
  unfold cur
  split <;> exact ⟨rfl, rfl, rfl⟩

/-- Whether or not a second bundle issues, the first does. -/
theorem Core.fitting_cons (k : Core) (gid : Nat) (g : Group) (p : PcClass) (ps : List PcClass) : ∃ rest, k.fitting gid g (p :: ps) = p :: rest := by
  cases ps with
  | nil => exact ⟨[], rfl⟩
  | cons q rest =>
    simp only [fitting]
    split
    · exact ⟨_, rfl⟩
    · exact ⟨_, rfl⟩

/-! ### What the count of an issue and the passing of time leave -/

/-- A core that differs in its groups alone, each still of its context. -/
def Core.Counted (k k' : Core) : Prop :=
  ∃ groups, k' = { k with groups } ∧ ∀ gid, ((AMap.look gid groups).map (·.ctx)) = (k.groups.look gid).map (·.ctx)

namespace Core.Counted

theorem refl (k : Core) : Counted k k := ⟨k.groups, rfl, fun _ => rfl⟩

theorem trans {k k' k'' : Core} (h : Counted k k') (h' : Counted k' k'') : Counted k k'' := by
  obtain ⟨groups, rfl, hctx⟩ := h
  obtain ⟨groups', rfl, hctx'⟩ := h'
  exact ⟨groups', rfl, fun gid => (hctx' gid).trans (hctx gid)⟩

theorem fetch {k k' : Core} (h : Counted k k') : k'.fetch = k.fetch := by
  obtain ⟨groups, rfl, -⟩ := h
  rfl

theorem storage {k k' : Core} (h : Counted k k') : k'.storage = k.storage := by
  obtain ⟨groups, rfl, -⟩ := h
  rfl

theorem ctx {k k' : Core} (h : Counted k k') (gid : Nat) : ((k'.groups.look gid).getD {}).ctx = ((k.groups.look gid).getD {}).ctx := by
  obtain ⟨groups, rfl, hctx⟩ := h
  have e := hctx gid
  revert e
  dsimp only
  cases AMap.look gid groups <;> cases k.groups.look gid <;> simp

end Core.Counted

/-- A change of every group that leaves each its number and its context. -/
theorem AMap.look_ctx {f : Nat × Group → Nat × Group} (hf : ∀ p, (f p).1 = p.1 ∧ (f p).2.ctx = p.2.ctx) (gid : Nat) (m : AMap Group) :
    (AMap.look gid (m.map f)).map (·.ctx) = (AMap.look gid m).map (·.ctx) := by
  induction m with
  | nil => rfl
  | cons p t ih =>
    obtain ⟨hnum, hctx⟩ := hf p
    simp only [List.map_cons, AMap.look, hnum]
    split
    · exact congrArg some hctx
    · exact ih

theorem Core.counted_passYield (k : Core) (by_ : Option Nat) (cc : Nat) : k.Counted (k.passYield by_ cc) :=
  ⟨_, rfl, fun gid => by
    refine AMap.look_ctx ?_ gid k.groups
    exact fun _ => ⟨rfl, rfl⟩⟩

theorem Core.counted_upd (k : Core) (gid : Nat) {f : Group → Group} (hf : ∀ g, (f g).ctx = g.ctx) :
    k.Counted { k with groups := k.groups.upd gid f } :=
  ⟨_, rfl, fun i => AMap.look_ctx (fun p => by split; exacts [⟨rfl, hf p.2⟩, ⟨rfl, rfl⟩]) i k.groups⟩

namespace State

theorem counted_modCore (s : State) (c d : Nat) {f : Core → Core} (hf : ∀ k : Core, k.Counted (f k)) : (s.core d).Counted ((s.modCore c f).core d) := by
  rw [core_modCore]
  split
  · next h => subst h; exact hf _
  · exact .refl _

theorem counted_countIssue (s : State) (x : Candidate) (ps chosen : List PcClass) (c : Nat) :
    (s.core c).Counted ((s.countIssue x ps chosen).core c) := by
  unfold countIssue
  refine .trans (counted_modCore s x.core c fun k => k.counted_upd x.gid fun g => ?_) (counted_modCore _ x.core c fun k => ?_)
  · dsimp only
    split <;> rfl
  · split
    · exact k.counted_passYield _ _
    · exact .refl _

theorem counted_tick (s : State) (c : Nat) : (s.core c).Counted (s.tick.core c) := by
  show ((s.cores.look c).getD {}).Counted ((AMap.look c (s.cores.map fun p => (p.1, p.2.passYield none (s.cc + 1)))).getD {})
  rw [AMap.look_map c fun k : Core => k.passYield none (s.cc + 1)]
  cases s.cores.look c with
  | none => exact .refl _
  | some k => exact k.counted_passYield none (s.cc + 1)

/-- What an issue is: its count, and the bundle of the first PC that was chosen. -/
theorem issue_eq {s : State} {x : Candidate} (h : choose x.uniform (if x.uniform then (s.group x.core x.gid).uniIssues
      else (s.group x.core x.gid).laneIssues) ((s.core x.core).ready x.gid (s.group x.core x.gid)) ≠ []) :
    ∃ p ∈ (s.core x.core).ready x.gid (s.group x.core x.gid), ∃ ps chosen second,
      s.issue x = { s.countIssue x ps chosen with cur := some (p.cur x.core x.gid), second } := by
  obtain ⟨p, rest, hp⟩ := List.exists_cons_of_ne_nil h
  obtain ⟨more, hfit⟩ := (s.core x.core).fitting_cons x.gid (s.group x.core x.gid) p rest
  refine ⟨p, mem_of_choose hp, ?_⟩
  unfold issue
  dsimp only
  rw [hp, hfit]
  cases more with
  | nil => exact ⟨_, _, _, rfl⟩
  | cons q more => exact ⟨_, _, _, rfl⟩

end State

/-! ### The work of a step -/

section
variable {s : State} {u : Cur} {i : Instr}

/-- A bundle whose fetch does not fault performs the instruction that its word decodes to. -/
theorem runBundle_eq (hfetch : s.fetchFaults u = false) (hi : decode u.word u.lit = .ok i) : runBundle u s = exec i s := by
  unfold runBundle Cur.instr
  rw [hfetch, hi]
  rfl

theorem runIssue_eq {x : Candidate} (hu : (s.issue x).tick.cur = some u) : runIssue x s = runBundle u { (s.issue x).tick with turn := false } := by
  unfold runIssue
  dsimp only
  split
  · next hcur => rw [hu] at hcur; cases hcur; rfl
  · next hcur => rw [hu] at hcur; cases hcur

theorem step_second (h : s.second = some u) : step s = runBundle u { s with cur := some u, second := none } := by
  unfold step
  rw [h]

theorem step_host {t : State} (hsecond : s.second = none) (hhost : s.nextHost = some t) : step s = .next t := by
  unfold step
  rw [hsecond, hhost]

theorem step_resume (hsecond : s.second = none) (hhost : s.nextHost = none) (h : s.nextResume = some u) :
    step s = runBundle u (s.resume u) := by
  unfold step
  rw [hsecond, hhost, h]

section
variable (hsecond : s.second = none) (hhost : s.nextHost = none) (hresume : s.nextResume = none)
include hsecond hhost hresume

theorem step_event {e : Instr} {rest : List Instr} (hturn : s.turn = false) (he : s.nextEvent = some (e, rest)) : step s = runEvent e rest s := by
  unfold step
  rw [hsecond, hhost, hresume, hturn, he]

theorem step_event_idle {e : Instr} {rest : List Instr} (hturn : s.turn = true) (he : s.nextEvent = some (e, rest)) (hissue : s.nextIssue = none) :
    step s = runEvent e rest s.idle := by
  unfold step
  rw [hsecond, hhost, hresume, hturn, he, hissue]

theorem step_issue {x : Candidate} (hturn : s.turn = true ∨ s.nextEvent = none) (hissue : s.nextIssue = some x) : step s = runIssue x s := by
  unfold step
  rw [hsecond, hhost, hresume, hissue]
  cases ht : s.turn with
  | true => cases s.nextEvent <;> rfl
  | false => rw [hturn.resolve_left (by simp [ht])]

theorem step_idle (he : s.nextEvent = none) (hissue : s.nextIssue = none) : step s = .next s.idle := by
  unfold step
  rw [hsecond, hhost, hresume, he, hissue]
  cases s.turn <;> rfl

end

theorem nextHost_cons {h : HostAccess} {rest : List HostAccess} (hq : s.hostQ = h :: rest) :
    s.nextHost = if s.hostReady h then some (({ s with hostQ := rest } : State).serveHost h) else none := by
  unfold State.nextHost
  rw [hq]

/-- The oldest event is the next, unless it is a write of the control space behind an access of the host (R149). -/
theorem nextEvent_cons {e : Instr} {rest : List Instr} (ha : s.agenda = e :: rest) (he : s.hostQ = [] ∨ State.hostWrite e = false) :
    s.nextEvent = some (e, rest) := by
  unfold State.nextEvent
  have hfirst : (s.hostQ.isEmpty || !State.hostWrite e) = true := by rcases he with he | he <;> simp [he]
  simp only [ha, List.zipIdx_cons, List.find?_cons, hfirst]
  rfl

end

/-- What an issue and the tick of the clock leave for its bundle: all but its count, and the bundle's word as the fetch finds it. -/
theorem runIssue_spec {s : State} {x : Candidate} {u : Cur} {w lit : Word} {i : Instr}
    (h : choose x.uniform (if x.uniform then (s.group x.core x.gid).uniIssues else (s.group x.core x.gid).laneIssues)
      ((s.core x.core).ready x.gid (s.group x.core x.gid)) ≠ [])
    (hu : (s.issue x).tick.cur = some u) (hf : (s.core u.core).fetch (s.group u.core u.gid).ctx u.pc = .word w lit) (hi : decode w lit = .ok i) :
    let v := { (s.issue x).tick with turn := false }
    runIssue x s = exec i v ∧ u.core = x.core ∧ u.gid = x.gid ∧ v.cc = s.cc + 1 ∧ v.hbm = s.hbm ∧ v.cap = s.cap ∧ v.ctl = s.ctl ∧
      v.agenda = s.agenda ∧ ∀ c, (v.core c).rf = (s.core c).rf ∧ (v.core c).store = (s.core c).store ∧
        (v.core c).banks = (s.core c).banks ∧ (v.core c).istore = (s.core c).istore := by
  intro v
  obtain ⟨p, hp, ps, chosen, second, hissue⟩ := State.issue_eq h
  obtain ⟨hcore, hgid, hpc⟩ := p.cur_place x.core x.gid
  have hcur : u = p.cur x.core x.gid := by rw [hissue] at hu; exact (Option.some.inj hu).symm
  rw [← hcur] at hcore hgid hpc
  have hcounted : ∀ c, (s.core c).Counted (v.core c) := fun c => by
    refine .trans ?_ (State.counted_tick (s.issue x) c)
    rw [hissue]
    exact State.counted_countIssue s x ps chosen c
  have hfetch : v.fetchFaults u = false := by
    have hctx : (v.group u.core u.gid).ctx = (s.group u.core u.gid).ctx := (hcounted u.core).ctx u.gid
    unfold State.fetchFaults
    rw [(hcounted u.core).fetch, hctx, hf]
    rfl
  have hword : decode u.word u.lit = .ok i := by
    rw [hcore, hgid, hpc, ← Core.fetch_of_mem_ready hp] at hf
    rw [hcur, PcClass.cur_word hf]
    exact hi
  have hrest : v.cc = s.cc + 1 ∧ v.hbm = s.hbm ∧ v.cap = s.cap ∧ v.ctl = s.ctl ∧ v.agenda = s.agenda := by
    show (s.issue x).cc + 1 = _ ∧ (s.issue x).hbm = _ ∧ (s.issue x).cap = _ ∧ (s.issue x).ctl = _ ∧ (s.issue x).agenda = _
    rw [hissue]
    exact ⟨rfl, rfl, rfl, rfl, rfl⟩
  obtain ⟨hcc, hhbm, hcap, hctl, hagenda⟩ := hrest
  refine ⟨(runIssue_eq hu).trans (runBundle_eq hfetch hword), hcore, hgid, hcc, hhbm, hcap, hctl, hagenda, fun c => ?_⟩
  have hst := (hcounted c).storage
  simp only [Core.storage, Prod.mk.injEq] at hst
  obtain ⟨hrf, hbanks, hstore, histore, -⟩ := hst
  exact ⟨hrf, hstore, hbanks, histore⟩

/-- Settles O55, a kind of work at a time: an issue, a second bundle, a bundle that waited, an event, an access of the host, none. -/
theorem stepRunsDecoded : Obligations.StepRunsDecoded := by
  unfold Obligations.StepRunsDecoded
  refine ⟨fun s x u w lit i hsecond hhost hresume hturn hissue => ?_, fun s u i hsecond hfetch hi => ?_, fun s u i hsecond hhost hresume hfetch hi => ?_,
    fun s e rest hsecond hhost hresume he => ⟨fun hturn => ?_, fun hturn hissue => ?_⟩, fun s e rest => nextEvent_cons,
    fun s h rest hsecond hq hready => ?_, fun s h rest t hsecond hq hready hresume hturn he hissue ht => ?_⟩
  · intro g hchosen v hu hf hi
    rw [step_issue hsecond hhost hresume hturn hissue]
    exact runIssue_spec hchosen hu hf hi
  · rw [step_second hsecond]
    exact runBundle_eq hfetch hi
  · rw [step_resume hsecond hhost hresume]
    exact runBundle_eq hfetch hi
  · exact step_event hsecond hhost hresume hturn he
  · exact step_event_idle hsecond hhost hresume hturn he hissue
  · exact step_host hsecond (by rw [nextHost_cons hq, if_pos hready])
  · have hhost : s.nextHost = none := by rw [nextHost_cons hq, if_neg (by simp [hready])]
    rw [step_idle hsecond hhost hresume he hissue] at ht
    cases ht
    exact ⟨rfl, rfl⟩

end Sys2Proof.Machine
end

section
/-! The register ranges of a group (R31 to R33, R170, R171), and the two traps that come before a word's meaning (R32, R213, R345). -/

namespace Sys2Proof.Machine

/-! ### Chunks of the pool (R31, R170) -/

namespace Core

/-- The core with one request in its acquire queue. -/
def asking (k : Core) (gid r : Nat) : Core := { k with acquireQ := [(gid, r)] }

theorem heldBy_none_iff (k : Core) (c : Nat) :
    (k.groups.any fun p => p.2.heldChunks.contains c) = false ↔ ∀ p ∈ k.groups, some c ∉ p.2.chunks := by
  simp [Group.heldChunks]

/-- The chunk that the pool gives is one of its 992 and no group's. -/
theorem freeChunk_free {k : Core} {c : Nat} (h : k.freeChunk = some c) : c < 992 ∧ ∀ p ∈ k.groups, some c ∉ p.2.chunks := by
  unfold freeChunk firstFree at h
  have hfree := List.find?_some h
  refine ⟨List.mem_range.1 (List.mem_of_find?_eq_some h), (k.heldBy_none_iff c).1 ?_⟩
  simpa only [Bool.not_eq_true'] using hfree

theorem exists_freeChunk {k : Core} (h : ∃ c < 992, ∀ p ∈ k.groups, some c ∉ p.2.chunks) : ∃ c, k.freeChunk = some c := by
  obtain ⟨c, hc, hfree⟩ := h
  unfold freeChunk firstFree
  refine Option.isSome_iff_exists.1 (List.find?_isSome.2 ⟨c, List.mem_range.2 hc, ?_⟩)
  rw [Bool.not_eq_true']
  exact (k.heldBy_none_iff c).2 hfree

section
variable {k : Core} {gid r : Nat} {g : Group} (hg : k.groups.look gid = some g)
include hg

/-- A granted group holds the chunk in its range. -/
theorem look_grant (c : Nat) : AMap.look gid (k.grant gid r c).groups = some { g.wakeIf (· == .xacq) with chunks := g.chunks.set (r - 1) (some c) } := by
  unfold grant
  rw [hg]
  simp only [AMap.look_put, if_true]

/-- The scan of one request: a grant when the pool has a chunk and R31 lets the team have it. -/
theorem grantScan_asking : (k.asking gid r).grantScan = match k.freeChunk with
    | some c => if k.grantable g.team then { (k.asking gid r).grant gid r c with acquireQ := [] } else k.asking gid r
    | none => k.asking gid r := by
  unfold grantScan asking
  rw [List.foldl_cons, List.foldl_nil]
  dsimp only
  rw [hg, List.erase_cons_head]
  cases hfree : k.freeChunk with
  | none => rw [show freeChunk { k with acquireQ := [(gid, r)] } = none from hfree]
  | some c => rw [show freeChunk { k with acquireQ := [(gid, r)] } = some c from hfree]; rfl

theorem grantScan_grants {c : Nat} (hc : k.freeChunk = some c) (hgr : k.grantable g.team = true) :
    (k.asking gid r).grantScan = { (k.asking gid r).grant gid r c with acquireQ := [] } := by
  rw [grantScan_asking hg, hc]
  exact if_pos hgr

theorem grantScan_refuses (hgr : k.grantable g.team = false) : (k.asking gid r).grantScan = k.asking gid r := by
  rw [grantScan_asking hg]
  cases k.freeChunk with
  | none => rfl
  | some c => exact if_neg (by simp [hgr])

/-- With no request waiting, a released chunk goes back to the pool (R171). -/
theorem releaseChunk_idle (hq : k.acquireQ = []) (hheld : (g.chunks.getD (r - 1) none).isSome) :
    k.releaseChunk gid r = { k with
      groups := k.groups.put gid { g with chunks := g.chunks.set (r - 1) none }
      teams := k.teams.upd g.team fun t => { t with held := t.held - 1 } } := by
  unfold releaseChunk
  rw [hg]
  dsimp only
  rw [if_neg (by simpa using Option.isSome_iff_ne_none.1 hheld)]
  unfold grantScan
  dsimp only
  rw [hq]
  rfl

end
end Core

/-! ### The traps before a word's meaning (R32, R213, R345) -/

/-- Every word of the instruction set is performed behind the check of its thread and of its ranges. -/
theorem exec_eq_run {i : Instr} (h : i.isEvent = false) : ∃ body, ∀ s, exec i s = run i body s := by
  cases i <;> cases h
  all_goals exact ⟨_, fun _ => rfl⟩

theorem barred_of_laneOnly {i : Instr} {gid : Nat} (hl : i.laneOnly = true) (hg : 512 ≤ gid)
    (hsup : gid = supGid → ∀ r, i ≠ .xacq r ∧ i ≠ .xrel r ∧ ∀ d a b, i ≠ .rdlane d a b) : i.barred gid = true := by
  unfold Instr.barred
  rw [hl, decide_eq_true hg]
  split
  · next d a b => exact bne_iff_ne.2 fun he => (hsup he 0).2.2 d a b rfl
  · next r => exact bne_iff_ne.2 fun he => (hsup he r).1 rfl
  · next r => exact bne_iff_ne.2 fun he => (hsup he r).2.1 rfl
  · rfl

section
variable {s : State} {x : Ctx} {i : Instr} (hx : s.ctx? = some x) (hi : i.isEvent = false)
include hx hi

theorem exec_of_barred (hb : i.barred x.gid = true) : exec i s = .next (s.preciseTrap x (mkTrap 1 0)) := by
  obtain ⟨body, hbody⟩ := exec_eq_run hi
  rw [hbody]
  unfold run perform
  rw [hx]
  exact if_pos hb

theorem exec_of_unheld {k : Nat} (hb : i.barred x.gid = false) (hk : unheld x.g x.gid i.vregs = [k]) :
    exec i s = .next (s.preciseTrap x (mkTrap 7 (4 + k) (s.poolAddr x.core x.g.team))) := by
  obtain ⟨body, hbody⟩ := exec_eq_run hi
  rw [hbody]
  unfold run perform
  rw [hx]
  dsimp only
  rw [if_neg (by simp [hb]), hk]
  rfl

end

end Sys2Proof.Machine

namespace Sys2Proof.Claims
open Machine

/-! ### XACQ and XREL (R170, R171) -/

section
variable {s : State} {x : Ctx} {r : BitVec 2}

/-- The core with the request of the bundle in its queue, after the scan that the request begins (R170). -/
def requested (s : State) (x : Ctx) (n : Nat) : State :=
  s.setCore x.core ((s.core x.core).asking x.gid n).grantScan

theorem getD_set_self {α : Type} {l : List α} {i : Nat} (h : i < l.length) (a d : α) : (l.set i a).getD i d = a := by
  rw [List.getD_eq_getElem?_getD, List.getElem?_set_self h, Option.getD_some]

/-- The group of a bundle holds what the bundle sees it hold. -/
theorem group_of_ctx (hx : s.ctx? = some x) : ∃ g, (s.core x.core).groups.look x.gid = some g ∧ g.chunks = x.g.chunks ∧ g.team = x.g.team := by
  obtain ⟨g, hg, he⟩ := ctx_group hx
  exact ⟨g, hg, by rw [he], by rw [he]⟩

theorem exec_xacq_done (hr : Runs (.xacq r) s x)
    (h : (x.g.chunks.getD (r.toNat - 1) none).isSome ∨ (x.latch.isSome ∧ (x.gid, r.toNat) ∉ (s.core x.core).acquireQ)) :
    exec (.xacq r) s = .next (s.advance x) := by
  show execXacq r s = _
  unfold execXacq
  rw [run_of_runs hr]
  dsimp only
  rw [if_pos (by simpa using h)]
  rfl

theorem exec_xacq_request (hr : Runs (.xacq r) s x) (hheld : x.g.chunks.getD (r.toNat - 1) none = none) (hlatch : x.latch = none)
    (hq : (s.core x.core).acquireQ = []) : exec (.xacq r) s =
      .next (if (((requested s x r.toNat).group x.core x.gid).chunks.getD (r.toNat - 1) none).isSome then (requested s x r.toNat).advance x
        else (requested s x r.toNat).waitAt x .xacq) := by
  have hreq : (s.modCore x.core fun k =>
      (if k.acquireQ.contains (x.gid, r.toNat) then k else { k with acquireQ := k.acquireQ ++ [(x.gid, r.toNat)] }).grantScan) =
      requested s x r.toNat := by
    unfold State.modCore requested Core.asking
    dsimp only
    rw [hq]
    rfl
  have hnot : ¬ ((x.g.chunks.getD (r.toNat - 1) none).isSome ∨ (x.latch.isSome ∧ ¬ (s.core x.core).acquireQ.contains (x.gid, r.toNat))) := by
    rw [hheld, hlatch]
    simp
  show execXacq r s = _
  unfold execXacq
  rw [run_of_runs hr]
  dsimp only
  rw [if_neg hnot, hreq]
  split <;> rfl

theorem core_requested (s : State) (x : Ctx) (n : Nat) : (requested s x n).core x.core = ((s.core x.core).asking x.gid n).grantScan :=
  (State.core_setCore _ _ _ _).trans (if_pos rfl)

theorem exec_xacq_granted (hr : Runs (.xacq r) s x) (hlen : x.g.chunks.length = 3)
    (hheld : x.g.chunks.getD (r.toNat - 1) none = none) (hlatch : x.latch = none)
    (hq : (s.core x.core).acquireQ = []) (hgr : (s.core x.core).grantable x.g.team = true)
    (hfree : ∃ c < 992, ∀ p ∈ (s.core x.core).groups, some c ∉ p.2.chunks) :
    ∃ (t : State) (c : Nat), exec (.xacq r) s = .next (t.advance x) ∧ (t.group x.core x.gid).chunks.getD (r.toNat - 1) none = some c ∧ c < 992 ∧
      (∀ p ∈ (s.core x.core).groups, some c ∉ p.2.chunks) ∧ (t.core x.core).acquireQ = [] := by
  obtain ⟨g, hg, hchunks, hteam⟩ := group_of_ctx hr.1
  obtain ⟨c, hc⟩ := Core.exists_freeChunk hfree
  obtain ⟨hlt, hnone⟩ := Core.freeChunk_free hc
  have hcore := (core_requested s x r.toNat).trans (Core.grantScan_grants hg hc (by rw [hteam]; exact hgr))
  have hholds : ((requested s x r.toNat).group x.core x.gid).chunks.getD (r.toNat - 1) none = some c := by
    unfold State.group State.group?
    rw [hcore]
    dsimp only
    rw [Core.look_grant (k := (s.core x.core).asking x.gid r.toNat) hg, Option.getD_some]
    exact getD_set_self (by rw [hchunks, hlen]; omega) _ _
  refine ⟨requested s x r.toNat, c, ?_, hholds, hlt, hnone, by rw [hcore]⟩
  rw [exec_xacq_request hr hheld hlatch hq, if_pos (by rw [hholds]; rfl)]

theorem exec_xacq_waits (hr : Runs (.xacq r) s x) (hheld : x.g.chunks.getD (r.toNat - 1) none = none) (hlatch : x.latch = none)
    (hq : (s.core x.core).acquireQ = []) (hgr : (s.core x.core).grantable x.g.team = false) :
    ∃ t : State, exec (.xacq r) s = .next (t.waitAt x .xacq) ∧ (t.core x.core).acquireQ = [(x.gid, r.toNat)] ∧
      (t.core x.core).rf = (s.core x.core).rf := by
  obtain ⟨g, hg, hchunks, hteam⟩ := group_of_ctx hr.1
  have hcore := (core_requested s x r.toNat).trans (Core.grantScan_refuses hg (by rw [hteam]; exact hgr))
  have hholds : ((requested s x r.toNat).group x.core x.gid).chunks.getD (r.toNat - 1) none = none := by
    have hsame : (requested s x r.toNat).group x.core x.gid = g := by
      unfold State.group State.group?
      rw [hcore]
      exact congrArg (Option.getD · {}) hg
    rw [hsame, hchunks, hheld]
  refine ⟨requested s x r.toNat, ?_, by rw [hcore]; rfl, by rw [hcore]; rfl⟩
  rw [exec_xacq_request hr hheld hlatch hq, if_neg (by rw [hholds]; simp)]

theorem exec_xrel_unheld (hr : Runs (.xrel r) s x) (hheld : x.g.chunks.getD (r.toNat - 1) none = none) :
    exec (.xrel r) s = .next (s.advance x) := by
  show execXrel r s = _
  unfold execXrel
  rw [run_of_runs hr]
  dsimp only
  rw [if_pos (by rw [hheld]; rfl)]
  rfl

end

/-- An outstanding result names a register of a range: one that a lock holds, or a destination of an access (R171). -/
def namesRange (s : State) (x : Ctx) (n : Nat) : Prop :=
  (∃ q ∈ x.g.locks, 16 * n ≤ q ∧ q < 16 * n + 16) ∨ ∃ p ∈ (s.core x.core).memops, p.2.uid = x.g.uid ∧
    p.2.uniform = false ∧ p.2.kind.hint = false ∧ p.2.dst < 16 * n + 16 ∧ 16 * n < p.2.dst + p.2.regs

section
variable {s : State} {x : Ctx} {r : BitVec 2} (hr : Runs (.xrel r) s x) (hheld : (x.g.chunks.getD (r.toNat - 1) none).isSome)
include hr hheld

theorem exec_xrel_held [Decidable (namesRange s x r.toNat)] : exec (.xrel r) s = .next (if namesRange s x r.toNat then s.waitAt x .drain
    else (s.modCore x.core fun k => k.releaseChunk x.gid r.toNat).advance x) := by
  have hnames : (x.g.locks.any (fun q => decide (16 * r.toNat ≤ q ∧ q < 16 * r.toNat + 16)) ∨ (s.core x.core).memops.any (fun p =>
      p.2.uid == x.g.uid && !p.2.uniform && !p.2.kind.hint && decide (p.2.dst < 16 * r.toNat + 16 ∧ 16 * r.toNat < p.2.dst + p.2.regs))) ↔
      namesRange s x r.toNat := by
    simp only [namesRange, List.any_eq_true, Bool.and_eq_true, decide_eq_true_eq, beq_iff_eq, Bool.not_eq_true', and_assoc]
  show execXrel r s = _
  unfold execXrel
  rw [run_of_runs hr]
  dsimp only
  rw [if_neg (by simpa using Option.isSome_iff_ne_none.1 hheld)]
  simp only [hnames]
  split <;> rfl

theorem exec_xrel_named (hn : namesRange s x r.toNat) : exec (.xrel r) s = .next (s.waitAt x .drain) := by
  classical
  rw [exec_xrel_held hr hheld, if_pos hn]

theorem exec_xrel_released (hlen : x.g.chunks.length = 3) (hn : ¬ namesRange s x r.toNat) (hq : (s.core x.core).acquireQ = []) :
    ∃ t : State, exec (.xrel r) s = .next (t.advance x) ∧ (t.group x.core x.gid).chunks.getD (r.toNat - 1) none = none ∧
      (t.core x.core).rf = (s.core x.core).rf := by
  classical
  obtain ⟨g, hg, hchunks, -⟩ := group_of_ctx hr.1
  have hcore := Core.releaseChunk_idle hg hq (r := r.toNat) (by rw [hchunks]; exact hheld)
  refine ⟨s.modCore x.core fun k => k.releaseChunk x.gid r.toNat, ?_, ?_, ?_⟩
  · rw [exec_xrel_held hr hheld, if_neg hn]
  · unfold State.group State.group?
    rw [State.core_modCore_same, hcore]
    dsimp only
    rw [AMap.look_put, if_pos rfl, Option.getD_some]
    exact getD_set_self (by rw [hchunks, hlen]; omega) _ _
  · rw [State.core_modCore_same, hcore]

end

/-- Settles O26: an XACQ by what its group holds and what the pool has, an XREL by what names its range, and the traps before a word's
meaning by the word's thread and ranges. -/
theorem rangesHeld : Obligations.RangesHeld := by
  unfold Obligations.RangesHeld
  refine ⟨?_, fun i s x hx hi => ⟨fun hl hg hsup => exec_of_barred hx hi (barred_of_laneOnly hl hg hsup), fun k => exec_of_unheld hx hi⟩⟩
  intro s x r _ held k named hlen
  refine ⟨fun hr => ⟨?_, ?_, ?_, ?_⟩, fun hr => ⟨?_, ?_, ?_⟩⟩
  · exact fun hheld => exec_xacq_done hr (.inl hheld)
  · exact fun hlatch hout => exec_xacq_done hr (.inr ⟨hlatch, hout⟩)
  · exact exec_xacq_granted hr hlen
  · exact exec_xacq_waits hr
  · exact exec_xrel_unheld hr
  · exact fun hheld hn hq => exec_xrel_released hr hheld hlen hn hq
  · exact exec_xrel_named hr

end Sys2Proof.Claims
end

section
/-! The small steps of the launch arbiter (R188, R193), the exhaustion trap of XACQ (R172) and the watchdogs (R361). -/

namespace Sys2Proof.Machine

namespace State
variable {s : State} {d q : Nat}

/-! ### Reservations and budgets (R188, R193) -/

/-- With no reservation held, the first block that waits for one takes it, with the cores that could hold its teams. -/
theorem reserved_nextReservation {l b : Nat} {y : Launch} (hres : (s.die d).reserved = none) (hq : (s.die d).reserveQ = [(q, l, b)])
    (hlisted : (s.blocksAt d q).any (fun r => r.launch == l && r.block == b) = true) (hy : s.launch? l = some y) (hkind : y.kind = 0) :
    ((s.nextReservation d).die d).reserved =
      some (q, l, b, ((s.dieCores d).filter fun c => (s.core c).couldTake y.groups y.decl).take y.teams) := by
  unfold nextReservation
  dsimp only
  rw [hres, hq]
  simp [hlisted, hy, hkind]

theorem cores_nextReservation (s : State) (d : Nat) : (s.nextReservation d).cores = s.cores := by
  unfold nextReservation
  dsimp only
  repeat' split
  all_goals rfl

theorem exec_reservationTimer {r : BlockRef} {rest : List BlockRef} {l : Launch} (hr : s.blocksAt d q = r :: rest)
    (hl : s.launch? r.launch = some l) (hcs : s.coresFor d r l = none) (hres : (s.die d).reserved = none) (hq : (s.die d).reserveQ = []) :
    exec (.reservationTimer d q) s =
      .next ((s.modDie d fun x => { x with reserveQ := x.reserveQ ++ [(q, r.launch, r.block)] }).nextReservation d) := by
  show execReservationTimer d q s = _
  unfold execReservationTimer
  rw [hr]
  dsimp only
  rw [hl]
  dsimp only
  rw [if_neg (by simp [hcs, hres, hq])]

theorem reservationTimer_spec {r : BlockRef} {rest : List BlockRef} {l : Launch} (hr : s.blocksAt d q = r :: rest)
    (hl : s.launch? r.launch = some l) (hcs : s.coresFor d r l = none) (hres : (s.die d).reserved = none) (hq : (s.die d).reserveQ = [])
    (hkind : l.kind = 0) :
    ∃ t : State, exec (.reservationTimer d q) s = .next t ∧ t.cores = s.cores ∧ (t.die d).reserved =
      some (q, r.launch, r.block, ((s.dieCores d).filter fun c => (s.core c).couldTake l.groups l.decl).take l.teams) := by
  refine ⟨_, exec_reservationTimer hr hl hcs hres hq, cores_nextReservation _ d, ?_⟩
  refine reserved_nextReservation (by rw [die_modDie_same]; exact hres) (by rw [die_modDie_same, hq]; rfl) ?_ hl hkind
  unfold blocksAt at hr ⊢
  rw [die_modDie_same, hr]
  simp

theorem exec_budgetExpiry {l at_ : Nat} (h : (s.arb d q).armed = [(l, at_, false)]) :
    exec (.budgetExpiry d q) s = .next (((s.setArb d q { s.arb d q with armed := [(l, min at_ s.cc, true)] }).bumpField
      (lqOff q 2) 15 0).postOnce (.placementOpportunity d)) := by
  show execBudgetExpiry d q s = _
  unfold execBudgetExpiry
  dsimp only
  rw [h]
  simp [pickBest]

end State

/-! ### The exhaustion trap of XACQ (R172) -/

section
variable {s : State} {c gid r : Nat}

/-- The threads of a group that wait at the XACQ of a range, with their lanes: those that a handler holds come last. -/
def State.atXacq (s : State) (c gid r : Nat) : List (Thread × Nat) :=
  let here := (s.group c gid).threads.zipIdx.filter fun p =>
    p.1.live && p.1.wait == some Wait.xacq && (s.core c).xacqRange (s.group c gid).ctx p.1.pc == r
  here.filter (fun p => !p.1.held) ++ here.filter (·.1.held)

/-- The state whose bundle at a PC of some lanes waits at its XACQ no more, its request gone when no other bundle waits with it. -/
def State.leftXacq (s : State) (c gid r : Nat) (pc lanes : Word) : State :=
  (if ∃ p ∈ s.atXacq c gid r, p.1.pc ≠ pc then s else s.modCore c fun k => { k with acquireQ := k.acquireQ.erase (gid, r) }).modGroup c gid
    fun g => g.onLanes lanes fun _ t => { t with wait := none }

theorem State.xacqTrap_eq {th : Thread} {l : Nat} {lanes : Word} (h : (s.atXacq c gid r).head? = some (th, l))
    (hlanes : maskOf (((s.atXacq c gid r).filter fun p => p.1.pc == th.pc).map (·.2)) = lanes) :
    s.xacqTrap c gid r = (s.leftXacq c gid r th.pc lanes).takeTrap c gid
      { mkTrap 7 r ((s.leftXacq c gid r th.pc lanes).poolAddr c (s.group c gid).team) with pc := th.pc, lanes } lanes true fun _ => th.pc := by
  unfold xacqTrap
  extract_lets k g here waiting
  have hw : waiting = s.atXacq c gid r := rfl
  clear_value waiting
  subst hw
  rw [h]
  dsimp only
  rw [hlanes]
  have hothers : ((s.atXacq c gid r).any fun p => decide (p.1.pc ≠ th.pc)) = true ↔ ∃ p ∈ s.atXacq c gid r, p.1.pc ≠ th.pc := by simp
  rw [if_congr hothers rfl rfl]
  rfl

theorem exec_xacqTimeout (h : gid < 1024) : exec (.xacqTimeout c (partNo 1024 gid r)) s = .next (s.xacqTrap c gid r) := by
  show execXacqTimeout c (partNo 1024 gid r) s = _
  unfold execXacqTimeout partNo
  rw [Nat.add_mul_mod_self_left, Nat.mod_eq_of_lt h, Nat.add_mul_div_left _ _ (by omega), Nat.div_eq_of_lt h, Nat.zero_add]

theorem exec_xacqDeadlockDetect {rest : List (Nat × Nat)} (hq : (s.core c).acquireQ = (gid, r) :: rest)
    (hblocked : ∀ p ∈ (s.core c).groups, p.1 = supGid ∨ (s.core c).blocked p.1 p.2 = true) :
    exec (.xacqDeadlockDetect c) s = .next (s.xacqTrap c gid r) := by
  show execXacqDeadlockDetect c s = _
  unfold execXacqDeadlockDetect
  dsimp only
  rw [hq]
  dsimp only
  rw [if_pos (by simpa using hblocked)]

end

/-! ### Watchdogs (R361) -/

section
variable {k : Core} {i : Nat}

theorem pipeOf_lane {gid : Nat} (h : gid < 512) : pipeOf gid % 8 = pipeOf gid := by
  unfold pipeOf
  rw [if_pos h]
  omega

theorem Core.unitBusy_lanePipe : k.unitBusy 0 i = true ↔
    ∃ p ∈ k.groups, p.1 < 512 ∧ pipeOf p.1 = i ∧ ∃ y ∈ k.ready p.1 p.2, y.uniform = false := by
  unfold unitBusy
  simp only [List.any_eq_true, Bool.and_eq_true, decide_eq_true_eq, beq_iff_eq, Nat.zero_le, true_and, and_assoc]
  refine exists_congr fun p => and_congr_right fun _ => and_congr_right fun hp => ?_
  rw [pipeOf_lane hp]

theorem Core.unitBusy_uniformPipe (h : ∃ p ∈ k.groups, p.1 < 512 ∧ pipeOf p.1 = i ∧ ∃ y ∈ k.ready p.1 p.2, y.uniform = true) :
    k.unitBusy 1 i = true := by
  obtain ⟨p, hp, hlane, hpipe, y, hy, huni⟩ := h
  unfold unitBusy
  simp only [Bool.or_eq_true, List.any_eq_true, Bool.and_eq_true, decide_eq_true_eq, beq_iff_eq]
  exact .inl ⟨p, hp, ⟨⟨Nat.zero_le _, hlane⟩, (pipeOf_lane hlane).trans hpipe⟩, y, hy, huni⟩

end

section
variable {s : State} {c : Nat}

theorem exec_watchdogTrip_off (kind i : Nat) (h : (s.core c).wdog.getLsbD 31 = false) : exec (.watchdogTrip c kind i) s = .next s := by
  show execWatchdogTrip c kind i s = _
  unfold execWatchdogTrip
  dsimp only
  split
  · rfl
  · rw [if_pos (.inl (by rw [h]; exact Bool.false_ne_true))]

/-- The watchdog of a pipe of a lane group: the lane pipes are kind 0, the uniform pipes kind 1. -/
theorem exec_watchdogTrip_pipe {kind i : Nat} (hkind : kind < 2) (hi : i < 8) : exec (.watchdogTrip c kind i) s =
    .next (if ¬ (s.core c).wdog.getLsbD 31 ∨ (s.core c).unitBusy kind i = false then s else
      (s.modCore c fun k => { k with wdog := k.wdog ||| w32 (2 ^ (5 + 8 * kind + i)) }).postRecord c
        (supRecord (mkTrap 0x0e (16 * kind + i) (2 ^ max 16 (wf32 (s.core c).wdog 4 0))) false false 0 0x3ff 0 [])) := by
  have hplace : (if kind = 0 ∧ i < 8 then some (5 + i) else if kind = 1 ∧ i < 8 then some (13 + i)
      else if kind = 2 ∧ i < 4 then some (21 + i) else if kind = 3 ∧ i < 4 then some (25 + i)
      else if kind = 4 ∧ i = 0 then some 29 else none) = some (5 + 8 * kind + i) := by
    rcases (by omega : kind = 0 ∨ kind = 1) with rfl | rfl
    · rw [if_pos ⟨rfl, hi⟩]
    · rw [if_neg (by omega), if_pos ⟨rfl, hi⟩]
  show execWatchdogTrip c kind i s = _
  unfold execWatchdogTrip
  dsimp only
  rw [hplace]
  dsimp only
  split <;> rfl

end
end Sys2Proof.Machine
end

section
/-! A placement with one queue to take (R188 to R192): the arbiter's round, and the events around it. -/

namespace Sys2Proof.Machine.State

section
variable {s : State} {d q : Nat}

theorem quantum_pos (s : State) (q : Nat) : 0 < s.quantum q := by
  unfold quantum
  omega

theorem arb_of_fresh (h : (s.die d).arb = []) (i : Nat) : s.arb d i = {} := by
  unfold arb
  rw [h]
  rfl

theorem arb_setArb (s : State) (d q i : Nat) (a : ArbQueue) : (s.setArb d q a).arb d i = if q = i then a else s.arb d i := by
  unfold arb setArb
  rw [die_modDie_same]
  dsimp only
  rw [AMap.look_put]
  split <;> rfl

/-- A fresh arbiter counts down for no queue. -/
theorem remaining_of_fresh (h : (s.die d).arb = []) (i : Nat) : s.remaining d i = none := by
  unfold remaining
  split
  · rfl
  · rw [arb_of_fresh h]; rfl

/-- The round robin of the arbiter from its pointer (R190). -/
def scan (s : State) (d : Nat) (cand : List Nat) : Option Nat :=
  ((List.range 256).map fun i => ((s.die d).ptr + i) % 256).find? fun q => cand.contains q && decide (0 < (s.arb d q).deficit)

theorem scan_none {cand : List Nat} (h : ∀ i ∈ cand, (s.arb d i).deficit ≤ 0) : s.scan d cand = none := by
  unfold scan
  refine List.find?_eq_none.2 fun i _ hi => ?_
  simp only [Bool.and_eq_true, List.contains_iff_mem, decide_eq_true_eq] at hi
  exact absurd (h i hi.1) (by omega)

theorem scan_single (hq : q < 256) (h : 0 < (s.arb d q).deficit) : s.scan d [q] = some q := by
  have hfound : (s.scan d [q]).isSome := by
    refine List.find?_isSome.2 ⟨q, List.mem_map.2 ⟨(q + 256 - (s.die d).ptr % 256) % 256, List.mem_range.2 (by omega), by omega⟩, ?_⟩
    simp [h]
  obtain ⟨i, hi⟩ := Option.isSome_iff_exists.1 hfound
  have hcand := List.find?_some hi
  simp only [Bool.and_eq_true, List.contains_iff_mem, List.mem_singleton] at hcand
  rw [hi, hcand.1]

/-- A fresh arbiter takes its only candidate in the first round, with a deficit of one quantum (R190). -/
theorem arbitrate_single (hfresh : (s.die d).arb = []) (hq : q < 256) : s.arbitrate d [q] [q] =
    some (q, (s.setArb d q { deficit := s.quantum q }).modDie d fun x => { x with ptr := q }) := by
  have hneed : ((-(s.arb d q).deficit) / s.quantum q + 1).toNat = 1 := by rw [arb_of_fresh hfresh]; simp
  have hgiven : min ((s.arb d q).deficit + (1 : Nat) * s.quantum q) (s.quantum q) = s.quantum q := by rw [arb_of_fresh hfresh]; simp
  have hnone : s.scan d [q] = none := scan_none fun i _ => by rw [arb_of_fresh hfresh]
  have hsome : (s.setArb d q { s.arb d q with deficit := s.quantum q }).scan d [q] = some q :=
    scan_single hq (by rw [arb_setArb, if_pos rfl]; exact s.quantum_pos q)
  unfold arbitrate
  rw [List.filterMap_cons, remaining_of_fresh hfresh]
  dsimp only [List.filterMap_nil, pickBest]
  rw [show (((List.range 256).map fun i => ((s.die d).ptr + i) % 256).find? fun i => [q].contains i && decide (0 < (s.arb d i).deficit)) = none
    from hnone]
  dsimp only [Option.map_none, List.foldl_cons, List.foldl_nil]
  simp only [hneed, Nat.max_self, Nat.min_self, hgiven]
  refine (congrArg (Option.map _) hsome).trans ?_
  rw [arb_of_fresh hfresh]
  rfl

/-! ### The placement (R190 to R193, R202) -/

theorem die_setDie_self (s : State) (d e : Nat) : (s.setDie d (s.die d)).die e = s.die e := by
  rw [die_setDie]
  split
  · next h => rw [h]
  · rfl

/-- With no reservation and none that waits, there is none to pass on. -/
theorem nextReservation_none (hres : (s.die d).reserved = none) (hq : (s.die d).reserveQ = []) : s.nextReservation d = s.setDie d (s.die d) := by
  unfold nextReservation
  dsimp only
  rw [hres, hq]
  dsimp only
  rw [if_neg (by simp), List.filter_nil]
  exact congrArg (s.setDie d) (by cases hx : s.die d; simp_all)

theorem field_setDie (s : State) (d : Nat) (x : Die) (off hi lo : Nat) : (s.setDie d x).field off hi lo = s.field off hi lo := rfl

theorem coresFor_setDie_self {r : BlockRef} (hr : r.saved = []) (l : Launch) : (s.setDie d (s.die d)).coresFor d r l = s.coresFor d r l := by
  have hopen : (fun c => (s.setDie d (s.die d)).openTo d c r) = fun c => s.openTo d c r := by
    funext c
    unfold openTo
    rw [die_setDie_self]
  have hcores : (s.setDie d (s.die d)).dieCores d = s.dieCores d := rfl
  have hquota : (s.setDie d (s.die d)).slotQuota l.ctx = s.slotQuota l.ctx := rfl
  unfold coresFor
  rw [hopen, hr, hcores, hquota]
  dsimp only
  simp only [List.isEmpty_nil, not_true_eq_false, if_false, core_setDie, field_setDie]
  rfl

section
variable {r : BlockRef} {rest : List BlockRef} {l : Launch} {cs : List Nat} (hlisted : s.listedQueues d = [q]) (hr : s.blocksAt d q = r :: rest)
  (hl : s.launch? r.launch = some l) (hcs : s.coresFor d r l = some cs)
include hlisted hr hl hcs

/-- No save is ordered while every head block can be placed (R202). -/
theorem preempt_placeable : s.preempt d = s := by
  unfold preempt
  dsimp only
  split
  · rfl
  · rw [hlisted, List.filter_cons_of_neg (by simp [hr, hl, hcs])]
    rfl

theorem exec_placementOpportunity_single (hfresh : (s.die d).arb = []) (hres : (s.die d).reserved = none) (hwait : (s.die d).reserveQ = [])
    (hq : q < 256) (hsaved : r.saved = []) (hinit : l.initIdx = 0) :
    let u := ((s.setDie d (s.die d)).setArb d q { deficit := s.quantum q }).modDie d fun x => { x with ptr := q }
    let free := u.reclaimAll cs l.decl
    exec (.placementOpportunity d) s = .next (if free.2 = true then (free.1.placeBlock d q r l cs []).settleReclaims d else free.1) := by
  intro u free
  have hdie := s.die_setDie_self d d
  have hlisted' : (s.setDie d (s.die d)).listedQueues d = [q] := by unfold listedQueues; rw [hdie]; exact hlisted
  have hr' : (s.setDie d (s.die d)).blocksAt d q = r :: rest := by unfold blocksAt; rw [hdie]; exact hr
  have hcs' : (s.setDie d (s.die d)).coresFor d r l = some cs := (coresFor_setDie_self hsaved l).trans hcs
  have hpre : (s.setDie d (s.die d)).preempt d = s.setDie d (s.die d) := preempt_placeable hlisted' hr' hl hcs'
  have harb : (s.setDie d (s.die d)).arbitrate d [q] [q] = some (q, u) := arbitrate_single (by rw [hdie]; exact hfresh) hq
  have hl' : (s.setDie d (s.die d)).launch? r.launch = some l := hl
  have hread (t : State) : t.readImages d l (.placementOpportunity d) = .ok t [] := by
    unfold readImages
    dsimp only
    rw [if_pos hinit]
  show execPlacementOpportunity d s = _
  unfold execPlacementOpportunity
  rw [hfresh, List.foldl_nil]
  dsimp only
  rw [nextReservation_none hres hwait, hpre, hlisted', List.filterMap_cons, hr']
  dsimp only
  rw [hl']
  dsimp only
  rw [if_neg (by simp [hsaved]), hcs']
  dsimp only [Option.map_some, List.filterMap_nil]
  rw [List.map_cons, List.map_nil, harb]
  dsimp only
  rw [List.find?_cons_of_pos (by simp)]
  dsimp only
  rw [hread, show (l.team r.block 0).decl = l.decl from rfl]
  dsimp only
  by_cases hfree : free.2 = true
  · rw [if_pos hfree, if_neg (by simpa using hfree), if_neg (by simp [hsaved])]
    rfl
  · rw [if_neg hfree, if_pos hfree]

end
end
end Sys2Proof.Machine.State
end

section
/-! What an access of memory at its home slice, and what the save of a team leave alone: the block lists of the dies. -/

namespace Sys2Proof.Machine.State

/-- The block lists of every die. -/
def blockLists (s : State) (d : Nat) : AMap (List BlockRef) := (s.die d).lists

theorem blockLists_setDie {s : State} {d : Nat} {x : Die} (h : x.lists = (s.die d).lists) : (s.setDie d x).blockLists = s.blockLists := by
  funext e
  unfold blockLists
  rw [die_setDie]
  split
  next heq => rw [h, heq]
  next => rfl

@[simp] theorem blockLists_modDie (s : State) (d : Nat) {f : Die → Die} (h : ∀ x, (f x).lists = x.lists) :
    (s.modDie d f).blockLists = s.blockLists := blockLists_setDie (h _)
@[simp] theorem blockLists_setSlice (s : State) (d sl : Nat) (x : Slice) : (s.setSlice d sl x).blockLists = s.blockLists :=
  blockLists_modDie s d fun _ => rfl

@[simp] theorem blockLists_setCore (s : State) (c : Nat) (k : Core) : (s.setCore c k).blockLists = s.blockLists := rfl
@[simp] theorem blockLists_modCore (s : State) (c : Nat) (f : Core → Core) : (s.modCore c f).blockLists = s.blockLists := rfl
@[simp] theorem blockLists_modGroup (s : State) (c gid : Nat) (f : Group → Group) : (s.modGroup c gid f).blockLists = s.blockLists := rfl
@[simp] theorem blockLists_post (s : State) (i : Instr) : (s.post i).blockLists = s.blockLists := rfl
@[simp] theorem blockLists_postRecord (s : State) (c : Nat) (r : List Word) : (s.postRecord c r).blockLists = s.blockLists := rfl
@[simp] theorem blockLists_syncSfq (s : State) (c : Nat) : (s.syncSfq c).blockLists = s.blockLists := rfl
@[simp] theorem blockLists_dropAtom (s : State) (c op lane : Nat) : (s.dropAtom c op lane).blockLists = s.blockLists := rfl

@[simp] theorem blockLists_postOnce (s : State) (i : Instr) : (s.postOnce i).blockLists = s.blockLists := by
  unfold postOnce
  split <;> rfl

theorem blockLists_foldl {α : Type} {f : State → α → State} (hf : ∀ s a, (f s a).blockLists = s.blockLists) (l : List α) (s : State) :
    (l.foldl f s).blockLists = s.blockLists := by
  induction l generalizing s with
  | nil => rfl
  | cons a t ih => rw [List.foldl_cons, ih, hf]

/-! ### Lines of a slice -/

@[simp] theorem blockLists_rawPut (s : State) (h : Home) (i : Nat) (b : Byte) (bad : Bool) : (s.rawPut h i b bad).blockLists = s.blockLists := by
  unfold rawPut
  split <;> rfl

@[simp] theorem blockLists_writeBack (s : State) (d : Nat) (l : SLine) : (s.writeBack d l).blockLists = s.blockLists := by
  unfold writeBack
  refine blockLists_foldl (fun s p => ?_) _ s
  dsimp only
  split
  case h_1 | h_2 => rfl
  all_goals
    refine blockLists_foldl (fun s i => ?_) _ s
    split
    · exact blockLists_rawPut _ _ _ _ _
    · rfl

@[simp] theorem blockLists_touchLine (s : State) (h : Home) : (s.touchLine h).blockLists = s.blockLists := by
  unfold touchLine
  dsimp only
  split <;> simp

@[simp] theorem blockLists_putSector (s : State) (h : Home) (q : Sector) : (s.putSector h q).blockLists = s.blockLists := by
  unfold putSector
  dsimp only
  repeat' split
  all_goals simp

@[simp] theorem blockLists_fillSector (s : State) (h : Home) : (s.fillSector h).blockLists = s.blockLists := by
  unfold fillSector
  dsimp only
  split
  · rfl
  · exact blockLists_putSector _ _ _

@[simp] theorem blockLists_mergeSector (s : State) (h : Home) (bs : List (Nat × Byte)) (bad : Bool) :
    (s.mergeSector h bs bad).blockLists = s.blockLists := by
  unfold mergeSector
  dsimp only
  repeat' split
  · exact blockLists_foldl (fun s b => blockLists_rawPut _ _ _ _ _) _ _
  · rw [blockLists_putSector]
    exact blockLists_foldl (fun s b => blockLists_rawPut _ _ _ _ _) _ _
  all_goals exact blockLists_putSector _ _ _

/-! ### Traps, fences and releases -/

@[simp] theorem blockLists_pendTrap (s : State) (c gid uid ctx : Nat) (t : Trap) (payload : List Word) (team : Nat) :
    (s.pendTrap c gid uid ctx t payload team).blockLists = s.blockLists := by
  unfold pendTrap
  dsimp only
  repeat' split
  all_goals simp

@[simp] theorem blockLists_wakeFences (s : State) : s.wakeFences.blockLists = s.blockLists :=
  blockLists_foldl (fun s f => by split <;> simp) _ s

@[simp] theorem blockLists_ringReleases (s : State) (c : Nat) : (s.ringReleases c).blockLists = s.blockLists :=
  blockLists_foldl (fun s r => by
    unfold tryRelease
    dsimp only
    repeat' split
    all_goals simp) _ s

/-! ### Store-buffer entries -/

@[simp] theorem blockLists_enterRecord (s : State) (c key page : Nat) (e : SbEntry) (t : Trap) (r : List Byte) :
    (s.enterRecord c key page e t r).blockLists = s.blockLists := by
  unfold enterRecord
  simp

@[simp] theorem blockLists_storeFault (s : State) (c key page cause cls sub code : Nat) :
    (s.storeFault c key page cause cls sub code).blockLists = s.blockLists := by
  unfold storeFault
  dsimp only
  repeat' split
  all_goals simp

@[simp] theorem blockLists_retireEntry (s : State) (c key : Nat) : (s.retireEntry c key).blockLists = s.blockLists := by
  unfold retireEntry
  split
  · rfl
  · split
    · rfl
    · extract_lets s1 s2 s3
      have h2 : s2.blockLists = s.blockLists := by
        show (ringReleases _ _).blockLists = _
        simp [s1]
      have h3 : s3.blockLists = s2.blockLists := blockLists_foldl (fun s x => by dsimp only; split <;> simp) _ _
      split <;> simp [h2, h3]

@[simp] theorem blockLists_acceptStore (s : State) (c key : Nat) (ap : Ap) (bs : List SByte) :
    (s.acceptStore c key ap bs).blockLists = s.blockLists := by
  unfold acceptStore
  dsimp only
  rw [blockLists_retireEntry, blockLists_modCore]
  split <;> simp

@[simp] theorem blockLists_dropTicket (s : State) (c : Nat) (o : MemOp) (lane : Nat) : (s.dropTicket c o lane).blockLists = s.blockLists := by
  unfold dropTicket
  repeat' split
  all_goals simp

/-! ### Lanes of loads and atomics -/

@[simp] theorem blockLists_laneTaken (s : State) (c op lane : Nat) : (s.laneTaken c op lane).blockLists = s.blockLists := by
  unfold laneTaken
  split
  · rfl
  · dsimp only
    rw [blockLists_postOnce]
    exact blockLists_foldl (fun s x => by split <;> simp) _ s

@[simp] theorem blockLists_failLane (s : State) (c op lane : Nat) (t : Trap) : (s.failLane c op lane t).blockLists = s.blockLists := by
  unfold failLane
  dsimp only
  repeat' split
  all_goals simp

@[simp] theorem blockLists_giveLane (s : State) (c op lane : Nat) (data : List Byte) (bad : Bool) :
    (s.giveLane c op lane data bad).blockLists = s.blockLists := by
  unfold giveLane
  repeat' split
  all_goals simp

@[simp] theorem blockLists_rmwAt (s : State) (cl : Client) (old : List Byte) (bad : Bool) : (s.rmwAt cl old bad).1.blockLists = s.blockLists := by
  have hfail (c op : Nat) (t : Trap) (ls : List LaneAcc) (s : State) :
      (ls.foldl (fun s b => s.failLane c op b.lane t) s).blockLists = s.blockLists := blockLists_foldl (fun s b => blockLists_failLane _ _ _ _ _) ls s
  unfold rmwAt
  split
  case h_1 =>
    split
    · rfl
    · split
      · rfl
      · dsimp only
        split
        · exact hfail _ _ _ _ _
        · split
          · exact blockLists_foldl (fun s p => blockLists_giveLane _ _ _ _ _ _) _ s
          · split
            · exact hfail _ _ _ _ _
            · refine (blockLists_foldl (fun s p => ?_) _ _).trans (blockLists_foldl (fun s p => blockLists_giveLane _ _ _ _ _ _) _ s)
              repeat' split
              all_goals simp
          · rfl
  case h_2 => rfl

@[simp] theorem blockLists_request (s : State) (r : Req) : (s.request r).blockLists = s.blockLists := by
  unfold request
  repeat' split
  all_goals simp

@[simp] theorem blockLists_unitRead (s : State) (c op lane : Nat) (old : List Byte) (bad : Bool) :
    (s.unitRead c op lane old bad).blockLists = s.blockLists := by
  have hrmw := blockLists_rmwAt s (.atom c op lane) old bad
  unfold unitRead
  split
  · simp
  · split
    · next e =>
      rw [e] at hrmw
      exact hrmw
    · simp

@[simp] theorem blockLists_unitWritten (s : State) (c op lane : Nat) (lost : Bool) : (s.unitWritten c op lane lost).blockLists = s.blockLists := by
  unfold unitWritten
  split
  · rfl
  · simp

@[simp] theorem blockLists_answer (s : State) (r : Req) (data : List Byte) (bad : List Bool) : (s.answer r data bad).blockLists = s.blockLists := by
  unfold answer
  split <;> simp

/-! ### Requests at a home slice -/

@[simp] theorem blockLists_notifyBlock (s : State) (ap : Ap) (off len : Nat) : (s.notifyBlock ap off len).blockLists = s.blockLists :=
  blockLists_foldl (fun s w => by dsimp only; split <;> simp) _ s

@[simp] theorem blockLists_serve (s : State) (r : Req) : (s.serve r).blockLists = s.blockLists := by
  unfold serve
  dsimp only
  split
  · split <;> simp
  · split <;> simp
  · have hrmw := blockLists_rmwAt s r.client
    split <;> simp [hrmw]

@[simp] theorem blockLists_meetBuffer (s : State) (r : Req) : (s.meetBuffer r).blockLists = s.blockLists := by
  unfold meetBuffer
  extract_lets lost
  split
  · split <;> simp
  · exact blockLists_serve s r

@[simp] theorem blockLists_settleLine (s : State) (h : Home) : (s.settleLine h).blockLists = s.blockLists := by
  unfold settleLine
  dsimp only
  rw [blockLists_foldl]
  · split <;> simp
  · intro s r
    repeat' split
    all_goals simp


@[simp] theorem blockLists_homeWrite (s : State) (ap : Ap) (off : Nat) (bs : List Byte) (bad : Bool) :
    (s.homeWrite ap off bs bad).blockLists = s.blockLists := by
  unfold homeWrite
  dsimp only
  rw [blockLists_notifyBlock]
  refine blockLists_foldl (fun s b => ?_) _ s
  rw [blockLists_mergeSector]
  split <;> simp

end Sys2Proof.Machine.State
end

section
/-! A team save (R356): it stops the teams of its block, and with them at rest writes their images and lists the block again. -/

namespace Sys2Proof.Machine.State

/-! ### What the save of one team leaves alone -/

@[simp] theorem blockLists_freeBytes (s : State) (n : Nat) : (s.freeBytes n).1.blockLists = s.blockLists := rfl

theorem blockLists_foldl_fst {α β : Type} {f : State × β → α → State × β} (hf : ∀ p a, (f p a).1.blockLists = p.1.blockLists)
    (l : List α) (p : State × β) : (l.foldl f p).1.blockLists = p.1.blockLists := by
  induction l generalizing p with
  | nil => rfl
  | cons a t ih => rw [List.foldl_cons, ih, hf]

@[simp] theorem blockLists_teamImage (s : State) (c n : Nat) (t : Team) : (s.teamImage c n t).1.blockLists = s.blockLists := by
  unfold teamImage
  dsimp only
  refine (blockLists_foldl_fst (fun p q => ?_) _ _).trans (blockLists_freeBytes s _)
  exact blockLists_freeBytes _ _

@[simp] theorem blockLists_writePages (s : State) (pages : List (Ap × Nat)) (bs : List Byte) :
    (s.writePages pages bs).blockLists = s.blockLists := by
  induction pages generalizing s bs with
  | nil => rfl
  | cons p t ih =>
    rw [writePages]
    split
    · rfl
    · rw [ih, blockLists_homeWrite]

@[simp] theorem blockLists_saveWaiter (s : State) (c : Nat) (l : SavedLog) : (s.saveWaiter c l).blockLists = s.blockLists :=
  blockLists_modDie s _ fun _ => rfl

@[simp] theorem blockLists_setArb (s : State) (d q : Nat) (a : ArbQueue) : (s.setArb d q a).blockLists = s.blockLists :=
  blockLists_modDie s d fun _ => rfl

@[simp] theorem blockLists_settleGroup (s : State) (d q cycles : Nat) : (s.settleGroup d q cycles).blockLists = s.blockLists := by
  unfold settleGroup trimDeficit
  dsimp only
  split <;> simp

@[simp] theorem blockLists_freeHoldings (s : State) (c gid : Nat) (g : Group) : (s.freeHoldings c gid g).blockLists = s.blockLists := rfl

@[simp] theorem blockLists_admitFaults (s : State) (c : Nat) : (s.admitFaults c).blockLists = s.blockLists := by
  unfold admitFaults
  dsimp only
  refine (blockLists_foldl (fun s p => blockLists_foldl (fun s e => ?_) _ s) _ _).trans (by simp)
  split <;> simp

@[simp] theorem blockLists_retryLoads (s : State) (c : Nat) : (s.retryLoads c).blockLists = s.blockLists := by
  unfold retryLoads
  split <;> simp

@[simp] theorem blockLists_dropTeam (s : State) (c n : Nat) (t : Team) : (s.dropTeam c n t).blockLists = s.blockLists := by
  unfold dropTeam
  extract_lets s1 s2 s3
  have h2 : s2.blockLists = s.blockLists := by simp [s2, s1]
  have h3 : s3.blockLists = s.blockLists := by
    simp only [s3]
    split <;> simp [h2]
  split <;> simp [h3]

theorem blockLists_fences (s : State) (fences : List (Nat × RFence)) : ({ s with fences } : State).blockLists = s.blockLists := rfl
theorem blockLists_nextLaunch (s : State) (nextLaunch : Nat) : ({ s with nextLaunch } : State).blockLists = s.blockLists := rfl

@[simp] theorem blockLists_saveTeam (s : State) (c n page : Nat) (pages : List (Ap × Nat)) :
    (s.saveTeam c n page pages).1.blockLists = s.blockLists := by
  unfold saveTeam
  dsimp only
  rw [blockLists_dropTeam, blockLists_admitFaults, blockLists_syncSfq, blockLists_fences, blockLists_modCore,
    blockLists_foldl fun s p => by rw [blockLists_settleGroup, blockLists_freeHoldings],
    blockLists_foldl fun s l => blockLists_saveWaiter s c l, blockLists_nextLaunch, blockLists_writePages, blockLists_teamImage]

/-! ### The save of a block -/

theorem die_foldl {α : Type} {f : State → α → State} {d : Nat} (hf : ∀ s a, (f s a).die d = s.die d) (l : List α) (s : State) :
    (l.foldl f s).die d = s.die d := by
  induction l generalizing s with
  | nil => rfl
  | cons a t ih => rw [List.foldl_cons, ih, hf]

/-- The images of the teams of a save, written one after another. -/
def saveTeams (s : State) (here : List ((Nat × Nat × Nat × Nat) × List (Ap × Nat))) : State × List TeamImage :=
  here.foldl (fun a r => ((a.1.saveTeam r.1.1 r.1.2.1 r.1.2.2.1 r.2).1, a.2 ++ [(a.1.saveTeam r.1.1 r.1.2.1 r.1.2.2.1 r.2).2])) (s, [])

@[simp] theorem blockLists_saveTeams (s : State) (here : List ((Nat × Nat × Nat × Nat) × List (Ap × Nat))) :
    (s.saveTeams here).1.blockLists = s.blockLists := by
  unfold saveTeams
  rw [blockLists_foldl_fst fun a r => by dsimp only; rw [blockLists_saveTeam]]

/-- A fold that appends one element a step appends as many as it takes steps. -/
theorem length_foldl_append {α β : Type} {f : State × List β → α → State × List β} (hf : ∀ a r, (f a r).2.length = a.2.length + 1)
    (l : List α) (a : State × List β) : (l.foldl f a).2.length = a.2.length + l.length := by
  induction l generalizing a with
  | nil => rfl
  | cons r t ih => rw [List.foldl_cons, ih, hf, List.length_cons]; omega

theorem length_saveTeams (s : State) (here : List ((Nat × Nat × Nat × Nat) × List (Ap × Nat))) :
    (s.saveTeams here).2.length = here.length := by
  unfold saveTeams
  rw [length_foldl_append fun _ _ => List.length_append]
  exact Nat.zero_add _

/-- With no command of the teams in the queues of their cores, there is none to stop. -/
theorem foldl_stopCmd_idle (s : State) (ranges : List (Nat × Nat × Nat × Nat)) (h : ∀ r ∈ ranges, (s.core r.1).eq = []) :
    ranges.foldl (fun (s : State) r => ((s.core r.1).eq.filter fun (_, q) => q.team == r.2.1).foldl
      (fun (s : State) q => s.stopCmd r.1 q.1 q.2) s) s = s := by
  induction ranges with
  | nil => rfl
  | cons r t ih =>
    obtain ⟨hr, ht⟩ := List.forall_mem_cons.1 h
    rw [List.foldl_cons, hr]
    exact ih ht

section
variable {s : State} {d : Nat} {j : SaveJob} {p : PlacedBlock} (hsaving : (s.die d).saving = some j)
  (hplaced : (s.die d).placed.find? (fun p => p.launch == j.launch && p.block == j.block) = some p)
include hsaving hplaced

/-- A save whose pages are all translated stops its teams, and goes on (R356). -/
theorem exec_teamSave_stops {u v : State} {ls : List (List (Ap × Nat))} (hstopped : j.stopped = false)
    (hpages : s.xlateRanges d (((s.launch? j.launch).map (·.ctx)).getD 0) (.teamSave d j.block) j.ranges = (some (v, ls), u))
    (hlen : ls.length = j.ranges.length) :
    ∃ t : State, exec (.teamSave d j.block) s = .next t ∧ (t.die d).saving = some { j with stopped := true, pages := ls } ∧
      Instr.teamSave d j.block ∈ t.agenda := by
  refine ⟨(j.ranges.foldl (fun (s : State) r => s.modTeam r.1 r.2.1 fun t => { t with saving := true })
    (v.modDie d fun x => { x with saving := some { j with stopped := true, pages := ls } })).post (.teamSave d j.block), ?_, ?_, ?_⟩
  · show execTeamSave d j.block s = _
    unfold execTeamSave
    rw [hsaving]
    dsimp only
    rw [if_neg (by simp), hplaced]
    dsimp only
    rw [if_pos (by simp [hstopped]), hpages]
    dsimp only
    rw [if_pos hlen]
  · rw [die_post, die_foldl fun _ _ => by rfl, die_modDie_same]
  · exact List.mem_append_right _ (List.mem_singleton.2 rfl)

/-- A save whose teams rest writes their images, takes the block off the placed ones and lists it, first, with the images (R356). -/
theorem exec_teamSave_writes (hstopped : j.stopped = true) (hidle : ∀ r ∈ j.ranges, (s.core r.1).eq = [])
    {here : List ((Nat × Nat × Nat × Nat) × List (Ap × Nat))}
    (hhere : ((j.ranges.zip j.pages).filter fun r => p.teams.contains (s.logical r.1.1, r.1.2.1)) = here)
    (hrests : ∀ r ∈ here, s.teamRests r.1.1 r.1.2.1 = true ∧ ∀ y ∈ r.2, s.targetWaits y.1 y.2 = false) :
    let u := (s.saveTeams here).1
    let ref : BlockRef := { launch := j.launch, block := j.block, saved := (s.saveTeams here).2 }
    exec (.teamSave d j.block) s = .next (((u.modDie d fun x => { x with
      placed := x.placed.filter fun y => y.order ≠ p.order
      lists := x.lists.put j.queue (ref :: (x.lists.look j.queue).getD []) }).modDie d fun x => { x with saving := none }).postOnce
        (.placementOpportunity d)) := by
  have hready : ((here.all fun r => s.teamRests r.1.1 r.1.2.1) && here.all fun r => r.2.all fun p => !s.targetWaits p.1 p.2) = true := by
    rw [Bool.and_eq_true, List.all_eq_true, List.all_eq_true]
    exact ⟨fun r hr => (hrests r hr).1, fun r hr => List.all_eq_true.2 fun y hy => by rw [(hrests r hr).2 y hy]; rfl⟩
  show execTeamSave d j.block s = _
  unfold execTeamSave
  rw [hsaving]
  dsimp only
  rw [if_neg (by simp), hplaced]
  dsimp only
  rw [if_neg (by simp [hstopped]), foldl_stopCmd_idle s j.ranges hidle, hhere, if_pos hready]
  rfl

theorem teamSave_writes (hstopped : j.stopped = true) (hidle : ∀ r ∈ j.ranges, (s.core r.1).eq = [])
    {here : List ((Nat × Nat × Nat × Nat) × List (Ap × Nat))}
    (hhere : ((j.ranges.zip j.pages).filter fun r => p.teams.contains (s.logical r.1.1, r.1.2.1)) = here)
    (hrests : ∀ r ∈ here, s.teamRests r.1.1 r.1.2.1 = true ∧ ∀ y ∈ r.2, s.targetWaits y.1 y.2 = false) :
    ∃ t : State, exec (.teamSave d j.block) s = .next t ∧ (t.die d).saving = none ∧ ∃ images : List TeamImage,
      images.length = here.length ∧
      t.blocksAt d j.queue = { launch := j.launch, block := j.block, saved := images } :: s.blocksAt d j.queue := by
  have hlists : ((s.saveTeams here).1.die d).lists = (s.die d).lists := congrFun (s.blockLists_saveTeams here) d
  refine ⟨_, exec_teamSave_writes hsaving hplaced hstopped hidle hhere hrests, ?_, (s.saveTeams here).2, s.length_saveTeams here, ?_⟩
  · rw [die_postOnce, die_modDie_same]
  · unfold blocksAt
    rw [die_postOnce, die_modDie_same, die_modDie_same]
    dsimp only
    rw [AMap.look_put, if_pos rfl, hlists]
    rfl

end

end Sys2Proof.Machine.State
end

section
namespace Sys2Proof.Claims
open Machine

/-- Settles O51: the arbiter's round with one candidate, a fold over the teams of a save that leaves every block list as it is, and one
rule for each timer. -/
theorem placementSteps : Obligations.PlacementSteps := by
  unfold Obligations.PlacementSteps
  refine ⟨fun s d q r rest l cs hfresh hres hwait hq hlisted hr hl hcs hsaved hinit => ?_,
    fun s d q r rest l hr hl hcs hres hwait hkind => State.reservationTimer_spec hr hl hcs hres hwait hkind,
    fun s d q l at_ harmed => State.exec_budgetExpiry harmed,
    fun s d j p hsaving hplaced => ⟨fun u v ls hstopped hpages hlen => ?_, fun hstopped hidle hrests => ?_⟩,
    ?_, ?_, fun s c kind i hoff => exec_watchdogTrip_off kind i hoff⟩
  · refine ⟨_, State.exec_placementOpportunity_single hlisted hr hl hcs hfresh hres hwait hq hsaved hinit, rfl, ?_, ?_, rfl⟩
    · rw [State.die_modDie_same]
    · unfold State.arb State.setArb
      rw [State.die_modDie_same, State.die_modDie_same]
      dsimp only
      rw [AMap.look_put, if_pos rfl]
      rfl
  · exact State.exec_teamSave_stops hsaving hplaced hstopped hpages hlen
  · exact State.teamSave_writes hsaving hplaced hstopped hidle rfl hrests
  · intro s c gid r th l k g here waiting lanes hhead u v t
    have htrap : s.xacqTrap c gid r = t := State.xacqTrap_eq hhead rfl
    exact ⟨fun hgid => htrap ▸ exec_xacqTimeout hgid, fun rest hq hblocked => htrap ▸ exec_xacqDeadlockDetect hq hblocked⟩
  · intro s c i hon hi cycles ready
    have hlane := exec_watchdogTrip_pipe (s := s) (c := c) Nat.zero_lt_two hi
    have huniform := exec_watchdogTrip_pipe (s := s) (c := c) Nat.one_lt_two hi
    rw [Nat.mul_zero, Nat.zero_add] at hlane
    refine ⟨fun hready => hlane.trans ?_, fun hidle => hlane.trans ?_, fun hready => huniform.trans ?_⟩
    · rw [if_neg (by rw [Core.unitBusy_lanePipe.2 hready]; simp [hon])]
    · rw [if_pos (.inr (Bool.eq_false_iff.2 fun hbusy => hidle (Core.unitBusy_lanePipe.1 hbusy)))]
    · rw [if_neg (by rw [Core.unitBusy_uniformPipe hready]; simp [hon])]

end Sys2Proof.Claims
end

section
/-! What the service of memory accesses and the requests of overlays leave alone at every core: all but the named fields of
`Core.aside`, of the groups their numbers too. -/

namespace Sys2Proof.Machine

namespace Core

/-- A core but for what its waits, its memory accesses, its store-fault records and its overlay copies write; of its groups the numbers
alone. -/
def aside (k : Core) : Core :=
  { k with
    groups := k.groups.map fun p => (p.1, {})
    store := [], storePoison := [], srec := [], srecWait := [], sfq := [], sfqWait := [], sbuf := [], memops := [], atoms := [], l1 := []
    l1fills := [], portQ := [], releases := [], records := [], nextRec := 0, loadQ := [], entryClock := 0, ovstat := [], mapCache := [] }

@[simp] theorem aside_wake (k : Core) (p : Wait → Bool) : (k.wake p).aside = k.aside := by
  unfold wake aside
  simp

@[simp] theorem aside_writeStore (k : Core) (a : Nat) (bs : List Byte) : (k.writeStore a bs).aside = k.aside :=
  aside_wake { k with
    store := Mem.write (n := 8) k.store a bs
    storePoison := k.storePoison.filter fun p => decide (p < a ∨ a + bs.length ≤ p) } _

@[simp] theorem aside_putStore64 (k : Core) (a : Nat) (v : DWord) : (k.putStore64 a v).aside = k.aside := aside_writeStore _ _ _
@[simp] theorem aside_ringFlag (k : Core) (d b : Nat) : (k.ringFlag d b).aside = k.aside := aside_writeStore _ _ _
@[simp] theorem aside_passFills (k : Core) (ap : Ap) (off : Nat) : (k.passFills ap off).aside = k.aside := by unfold passFills aside; rfl
@[simp] theorem aside_modOp (k : Core) (op : Nat) (f : MemOp → MemOp) : (k.modOp op f).aside = k.aside := by unfold modOp aside; rfl
@[simp] theorem aside_recount (k : Core) : k.recount.aside = k.aside := by unfold recount aside; rfl
@[simp] theorem aside_countOv (k : Core) (ctx parks loads : Nat) : (k.countOv ctx parks loads).aside = k.aside := by unfold countOv aside; rfl

@[simp] theorem aside_enterOv (k : Core) (ctx id q cc : Nat) : (k.enterOv ctx id q cc).aside = k.aside := by
  unfold enterOv
  dsimp only
  repeat' split
  all_goals rfl

theorem aside_foldl {α : Type} {f : Core → α → Core} (hf : ∀ k a, (f k a).aside = k.aside) (l : List α) (k : Core) :
    (l.foldl f k).aside = k.aside := by
  induction l generalizing k with
  | nil => rfl
  | cons a t ih => rw [List.foldl_cons, ih, hf]

@[simp] theorem aside_l1Store (k : Core) (s : State) (ctx link : Nat) (ap : Ap) (bs : List (Nat × Byte)) :
    (k.l1Store s ctx link ap bs).aside = k.aside := by
  unfold l1Store
  refine aside_foldl (fun k b => ?_) bs k
  dsimp only
  split
  · rfl
  · exact aside_writeStore _ _ _

theorem aside_ringGive {k k' : Core} {d n : Nat} {q0 : DWord} {cons : Bool} (h : k.ringGive d q0 n cons = some k') :
    k'.aside = k.aside := by
  unfold ringGive at h
  dsimp only at h
  split at h
  · cases h
  · split at h <;> split at h <;> (cases h; simp)

end Core

namespace State

/-- What stands aside at every core. -/
def asides (s : State) (c : Nat) : Core := (s.core c).aside

/-! ### The basic updates -/

theorem asides_setCore {s : State} {c : Nat} {k : Core} (h : k.aside = (s.core c).aside) : (s.setCore c k).asides = s.asides := by
  funext d
  unfold asides
  rw [core_setCore]
  split
  next hd => rw [h, hd]
  next => rfl

@[simp] theorem asides_modCore (s : State) (c : Nat) {f : Core → Core} (h : ∀ k, (f k).aside = k.aside) :
    (s.modCore c f).asides = s.asides := asides_setCore (h _)

@[simp] theorem asides_modGroup (s : State) (c gid : Nat) (f : Group → Group) : (s.modGroup c gid f).asides = s.asides := by
  refine asides_modCore s c fun k => ?_
  have h : (k.groups.upd gid f).map (fun p => (p.1, ({} : Group))) = k.groups.map fun p => (p.1, {}) := by
    unfold AMap.upd
    rw [List.map_map]
    refine List.map_congr_left fun p _ => ?_
    dsimp only [Function.comp]
    split <;> rfl
  exact congrArg (fun gs => ({ k.aside with groups := gs } : Core)) h

theorem asides_of_cores {s t : State} (h : t.cores = s.cores) : t.asides = s.asides := by
  funext c
  unfold asides
  rw [core_of_cores h]

@[simp] theorem asides_setSlice (s : State) (d sl : Nat) (x : Slice) : (s.setSlice d sl x).asides = s.asides := rfl
@[simp] theorem asides_post (s : State) (i : Instr) : (s.post i).asides = s.asides := rfl
@[simp] theorem asides_postOnce (s : State) (i : Instr) : (s.postOnce i).asides = s.asides := asides_of_cores (cores_postOnce s i)

@[simp] theorem asides_postRecord (s : State) (c : Nat) (r : List Word) : (s.postRecord c r).asides = s.asides :=
  asides_modCore s c fun k => by
    dsimp only
    rw [Core.aside_wake]
    split <;> rfl

@[simp] theorem asides_syncSfq (s : State) (c : Nat) : (s.syncSfq c).asides = s.asides :=
  asides_modCore s c fun k => by
    dsimp only
    rw [Core.aside_wake, Core.aside_writeStore]
    rfl

@[simp] theorem asides_dropAtom (s : State) (c op lane : Nat) : (s.dropAtom c op lane).asides = s.asides :=
  asides_modCore s c fun _ => rfl

theorem asides_foldl {α : Type} {f : State → α → State} (hf : ∀ s a, (f s a).asides = s.asides) (l : List α) (s : State) :
    (l.foldl f s).asides = s.asides := by
  induction l generalizing s with
  | nil => rfl
  | cons a t ih => rw [List.foldl_cons, ih, hf]

/-! ### Lines of a slice -/

@[simp] theorem asides_rawPut (s : State) (h : Home) (i : Nat) (b : Byte) (bad : Bool) : (s.rawPut h i b bad).asides = s.asides := by
  unfold rawPut
  split <;> rfl

@[simp] theorem asides_writeBack (s : State) (d : Nat) (l : SLine) : (s.writeBack d l).asides = s.asides := by
  unfold writeBack
  refine asides_foldl (fun s p => ?_) _ s
  dsimp only
  split
  case h_1 | h_2 => rfl
  all_goals
    refine asides_foldl (fun s i => ?_) _ s
    split
    · exact asides_rawPut _ _ _ _ _
    · rfl

@[simp] theorem asides_touchLine (s : State) (h : Home) : (s.touchLine h).asides = s.asides := by
  unfold touchLine
  dsimp only
  split <;> rfl

@[simp] theorem asides_putSector (s : State) (h : Home) (q : Sector) : (s.putSector h q).asides = s.asides := by
  unfold putSector
  dsimp only
  rw [asides_setSlice]
  repeat' split
  all_goals simp

@[simp] theorem asides_fillSector (s : State) (h : Home) : (s.fillSector h).asides = s.asides := by
  unfold fillSector
  dsimp only
  split
  · rfl
  · exact asides_putSector _ _ _

@[simp] theorem asides_mergeSector (s : State) (h : Home) (bs : List (Nat × Byte)) (bad : Bool) :
    (s.mergeSector h bs bad).asides = s.asides := by
  unfold mergeSector
  dsimp only
  repeat' split
  · exact asides_foldl (fun s b => asides_rawPut _ _ _ _ _) _ _
  · rw [asides_putSector]
    exact asides_foldl (fun s b => asides_rawPut _ _ _ _ _) _ _
  all_goals exact asides_putSector _ _ _

/-! ### Traps, fences and releases -/

@[simp] theorem asides_pendTrap (s : State) (c gid uid ctx : Nat) (t : Trap) (payload : List Word) (team : Nat) :
    (s.pendTrap c gid uid ctx t payload team).asides = s.asides := by
  unfold pendTrap
  dsimp only
  repeat' split
  all_goals simp

@[simp] theorem asides_wakeFences (s : State) : s.wakeFences.asides = s.asides :=
  asides_foldl (fun s f => by split <;> simp) _ s

@[simp] theorem asides_tryRelease (s : State) (c : Nat) (r : RingRel) : (s.tryRelease c r).asides = s.asides := by
  unfold tryRelease
  dsimp only
  split
  · rfl
  · split
    · next k' hk =>
      exact asides_setCore ((Core.aside_wake _ _).trans ((Core.aside_ringGive hk).trans rfl))
    · rw [asides_pendTrap]
      exact asides_setCore ((Core.aside_wake _ _).trans ((Core.aside_ringFlag _ _ _).trans rfl))

@[simp] theorem asides_ringReleases (s : State) (c : Nat) : (s.ringReleases c).asides = s.asides :=
  asides_foldl (fun s r => asides_tryRelease s c r) _ s

/-! ### Store-buffer entries -/

@[simp] theorem asides_enterRecord (s : State) (c key page : Nat) (e : SbEntry) (t : Trap) (r : List Byte) :
    (s.enterRecord c key page e t r).asides = s.asides := by
  unfold enterRecord
  dsimp only
  rw [asides_pendTrap, asides_syncSfq]
  exact asides_modCore _ _ (fun _ => by rfl)

@[simp] theorem asides_storeFault (s : State) (c key page cause cls sub code : Nat) :
    (s.storeFault c key page cause cls sub code).asides = s.asides := by
  unfold storeFault
  split
  · rfl
  · dsimp only
    split
    · rfl
    · split
      · exact asides_enterRecord _ _ _ _ _ _ _
      · exact asides_modCore _ _ (fun _ => by rfl)

@[simp] theorem asides_retireEntry (s : State) (c key : Nat) : (s.retireEntry c key).asides = s.asides := by
  unfold retireEntry
  split
  · rfl
  · split
    · rfl
    · extract_lets s1 s2 s3
      have h1 : s1.asides = s.asides := asides_modCore _ _ (fun _ => by rfl)
      have h2 : s2.asides = s1.asides := by
        show (ringReleases _ _).asides = _
        rw [asides_ringReleases, asides_wakeFences, asides_modCore _ _ fun k => k.aside_wake _]
      have h3 : s3.asides = s2.asides := asides_foldl (fun s x => by dsimp only; split <;> simp) _ _
      split <;> simp [h1, h2, h3]

@[simp] theorem asides_acceptStore (s : State) (c key : Nat) (ap : Ap) (bs : List SByte) :
    (s.acceptStore c key ap bs).asides = s.asides := by
  unfold acceptStore
  dsimp only
  rw [asides_retireEntry, asides_modCore _ _ (fun _ => by rfl)]
  split
  · rfl
  · exact asides_modCore _ _ (fun _ => by rfl)

@[simp] theorem asides_dropTicket (s : State) (c : Nat) (o : MemOp) (lane : Nat) : (s.dropTicket c o lane).asides = s.asides := by
  unfold dropTicket
  repeat' split
  all_goals simp

@[simp] theorem asides_admitFaults (s : State) (c : Nat) : (s.admitFaults c).asides = s.asides := by
  unfold admitFaults
  dsimp only
  refine (asides_foldl (fun s p => asides_foldl (fun s e => ?_) _ s) _ _).trans ?_
  · split <;> simp
  · rw [asides_syncSfq]
    exact asides_modCore _ _ (fun _ => by rfl)

/-! ### Lanes of loads and atomics -/

@[simp] theorem asides_laneTaken (s : State) (c op lane : Nat) : (s.laneTaken c op lane).asides = s.asides := by
  unfold laneTaken
  split
  · rfl
  · dsimp only
    rw [asides_postOnce]
    exact asides_foldl (fun s x => by split <;> simp) _ s

@[simp] theorem asides_failLane (s : State) (c op lane : Nat) (t : Trap) : (s.failLane c op lane t).asides = s.asides := by
  unfold failLane
  dsimp only
  repeat' split
  all_goals simp

@[simp] theorem asides_giveLane (s : State) (c op lane : Nat) (data : List Byte) (bad : Bool) :
    (s.giveLane c op lane data bad).asides = s.asides := by
  unfold giveLane
  repeat' split
  all_goals simp

@[simp] theorem asides_rmwAt (s : State) (cl : Client) (old : List Byte) (bad : Bool) : (s.rmwAt cl old bad).1.asides = s.asides := by
  have hfail (c op : Nat) (t : Trap) (ls : List LaneAcc) (s : State) :
      (ls.foldl (fun s b => s.failLane c op b.lane t) s).asides = s.asides := asides_foldl (fun s b => asides_failLane _ _ _ _ _) ls s
  unfold rmwAt
  split
  case h_1 =>
    split
    · rfl
    · split
      · rfl
      · dsimp only
        split
        · exact hfail _ _ _ _ _
        · split
          · exact asides_foldl (fun s p => asides_giveLane _ _ _ _ _ _) _ s
          · split
            · exact hfail _ _ _ _ _
            · refine (asides_foldl (fun s p => ?_) _ _).trans (asides_foldl (fun s p => asides_giveLane _ _ _ _ _ _) _ s)
              split
              · rfl
              · split
                · rw [asides_post, asides_modCore _ _ (fun _ => by rfl)]
                · exact asides_dropTicket _ _ _ _
          · rfl
  case h_2 => rfl

@[simp] theorem asides_request (s : State) (r : Req) : (s.request r).asides = s.asides := by
  unfold request
  repeat' split
  · rw [asides_post, asides_modCore _ _ (fun _ => by rfl)]
  all_goals simp

@[simp] theorem asides_unitRead (s : State) (c op lane : Nat) (old : List Byte) (bad : Bool) :
    (s.unitRead c op lane old bad).asides = s.asides := by
  have hrmw := asides_rmwAt s (.atom c op lane) old bad
  unfold unitRead
  split
  · simp
  · split
    · next e =>
      rw [e] at hrmw
      rw [asides_dropAtom, ← hrmw]
    · dsimp only
      rw [asides_request, asides_modCore _ _ (fun _ => by rfl), asides_modCore _ _ fun k => k.aside_l1Store _ _ _ _ _]

@[simp] theorem asides_unitWritten (s : State) (c op lane : Nat) (lost : Bool) : (s.unitWritten c op lane lost).asides = s.asides := by
  unfold unitWritten
  split
  · rfl
  · dsimp only
    rw [asides_dropAtom, asides_rmwAt, asides_modCore _ _ fun k => by split <;> rfl]

@[simp] theorem asides_answer (s : State) (r : Req) (data : List Byte) (bad : List Bool) : (s.answer r data bad).asides = s.asides := by
  unfold answer
  split
  · rw [asides_post, asides_modCore _ _ (fun _ => by rfl)]
  all_goals simp

/-! ### Requests at a home slice -/

@[simp] theorem asides_notifyBlock (s : State) (ap : Ap) (off len : Nat) : (s.notifyBlock ap off len).asides = s.asides :=
  asides_foldl (fun s w => by dsimp only; split <;> simp) _ s

@[simp] theorem asides_serve (s : State) (r : Req) : (s.serve r).asides = s.asides := by
  unfold serve
  dsimp only
  split
  · split <;> simp
  · split <;> simp
  · have hrmw := asides_rmwAt s r.client
    split <;> simp [hrmw]

@[simp] theorem asides_meetBuffer (s : State) (r : Req) : (s.meetBuffer r).asides = s.asides := by
  unfold meetBuffer
  extract_lets lost
  split
  · split <;> simp
  · exact asides_serve s r

@[simp] theorem asides_settleLine (s : State) (h : Home) : (s.settleLine h).asides = s.asides := by
  unfold settleLine
  dsimp only
  rw [asides_foldl]
  · split <;> simp
  · intro s r
    repeat' split
    all_goals simp

@[simp] theorem asides_homeWrite (s : State) (ap : Ap) (off : Nat) (bs : List Byte) (bad : Bool) :
    (s.homeWrite ap off bs bad).asides = s.asides := by
  unfold homeWrite
  dsimp only
  rw [asides_notifyBlock]
  refine asides_foldl (fun s b => ?_) _ s
  rw [asides_mergeSector]
  split <;> simp

@[simp] theorem rest_homeWrite (s : State) (ap : Ap) (off : Nat) (bs : List Byte) (bad : Bool) :
    (s.homeWrite ap off bs bad).rest = s.rest := by
  unfold homeWrite
  dsimp only
  rw [rest_notifyBlock]
  refine rest_foldl (fun s b => ?_) _ s
  rw [rest_mergeSector]
  split <;> simp

/-! ### Overlays -/

@[simp] theorem asides_requestOv (s : State) (c ctx id : Nat) : (s.requestOv c ctx id).asides = s.asides := by
  unfold requestOv
  dsimp only
  split
  · rfl
  · exact asides_setCore rfl

@[simp] theorem asides_retryLoads (s : State) (c : Nat) : (s.retryLoads c).asides = s.asides := by
  unfold retryLoads
  split <;> simp

@[simp] theorem asides_parkOn (s : State) (c gid : Nat) (lanes : Word) (id : Nat) (w : ParkAt) :
    (s.parkOn c gid lanes id w).asides = s.asides := by
  unfold parkOn
  dsimp only
  split
  · rfl
  · rw [asides_modGroup, asides_modCore _ _ (fun _ => by rfl), asides_requestOv]

/-! ### What follows of what stands aside -/

section
variable {s t : State} (h : t.asides = s.asides) (c : Nat)
include h

theorem rf_of_asides : (t.core c).rf = (s.core c).rf := show (t.asides c).rf = (s.asides c).rf by rw [h]
theorem homeUsed_of_asides : (t.core c).homeUsed = (s.core c).homeUsed := show (t.asides c).homeUsed = (s.asides c).homeUsed by rw [h]
theorem raySerial_of_asides : (t.core c).raySerial = (s.core c).raySerial := show (t.asides c).raySerial = (s.asides c).raySerial by rw [h]
theorem hitQ_of_asides : (t.core c).hitQ = (s.core c).hitQ := show (t.asides c).hitQ = (s.asides c).hitQ by rw [h]
theorem clicker_of_asides : (t.core c).clicker = (s.core c).clicker := show (t.asides c).clicker = (s.asides c).clicker by rw [h]

/-- The same groups are resident. -/
theorem group?_isSome_of_asides (gid : Nat) : (t.group? c gid).isSome = (s.group? c gid).isSome := by
  have hlook (k : Core) : (k.aside.groups.look gid).isSome = (k.groups.look gid).isSome := by
    rw [show k.aside.groups = k.groups.map fun p => (p.1, {}) from rfl, AMap.look_map gid fun _ => ({} : Group), Option.isSome_map]
  have hgroups : (t.core c).aside.groups = (s.core c).aside.groups := show (t.asides c).groups = (s.asides c).groups by rw [h]
  rw [group?, group?, ← hlook (t.core c), hgroups, hlook]

end
end State
end Sys2Proof.Machine
end

section
/-! Rays that leave their home core (R320) and items that SPAWN puts into the queues of their stages (R198, R328). -/

namespace Sys2Proof.Machine.State

@[simp] theorem asides_routeRay (s : State) (c : Nat) (ray : List Word) (from_ : Option Nat) :
    (s.routeRay c ray from_).asides = s.asides := by
  have hsend (t : State) (src dst vn flits : Nat) (msg : Instr) : (t.send src dst vn flits msg).asides = t.asides :=
    asides_of_cores (cores_send _ _ _ _ _ _ _ _)
  unfold routeRay
  dsimp only
  split
  · split
    · exact (hsend _ _ _ _ _ _).trans (asides_setCore (by rfl))
    · exact (hsend _ _ _ _ _ _).trans (asides_setCore (by rfl))
  · exact hsend _ _ _ _ _ _

end Sys2Proof.Machine.State

namespace Sys2Proof.Claims
open Host Machine

variable {s : State} {x : Ctx}

/-! ### The checks of a ray (R320) -/

theorem field_eq_one_or_zero (s : State) (off i : Nat) : s.field off i i = 0 ∨ s.field off i i = 1 := by
  have h : s.field off i i < 2 ^ (i + 1 - i) := qf_lt _ _ _
  rw [Nat.add_sub_cancel_left] at h
  omega

theorem rayBad_iff (s : State) (x : Ctx) (ray : List Word) : rayBad s x ray = true ↔ refusedRay s x ray := by
  have hscene : sceneOf (Ray.tid ray) = (ray.getD 9 0).toNat / 2 ^ 24 := by
    have := (ray.getD 9 0).isLt
    unfold sceneOf Ray.tid
    omega
  have hdepth : Ray.depth ray = (ray.getD 13 0).toNat / 2 ^ 19 % 8 := rfl
  have hmode : flagOf ray 31 30 = (ray.getD 13 0).toNat / 2 ^ 30 := wf32_31_30 _
  have hstage (d : Nat) (y : Option Stage) : (y.any fun y => y.ctx == d) = false ↔ ∀ z, y = some z → z.ctx ≠ d := by
    cases y <;> simp
  unfold rayBad refusedRay
  dsimp only
  simp only [Bool.or_eq_true, Bool.and_eq_true, Bool.not_eq_true', decide_eq_true_eq, List.any_eq_true, List.all_eq_true, List.mem_range,
    hscene, hdepth, hmode, hstage, State.sceneValid, State.sceneCtx, State.hitStage, beq_iff_eq, Option.isNone_iff_eq_none, or_assoc]

theorem any_rayBad (s : State) (x : Ctx) (rays : List (List Word)) : rays.any (rayBad s x) = true ↔ ∃ r ∈ rays, refusedRay s x r := by
  simp only [List.any_eq_true, rayBad_iff]

/-! ### A ray leaves (R320) -/

/-- The words of a ray that leaves, word by word. -/
theorem launched_words {ray : List Word} (h : ray.length = 24) (home : Word) :
    setWords (ray.set 8 home) 10 [0xffffffff, 0xffffffff, 0, (ray.set 8 home).getD 13 0 &&& 0xfff80000] =
      (List.range 24).map fun j =>
        if j = 8 then home
        else if j = 10 ∨ j = 11 then 0xffffffff
        else if j = 12 then 0
        else if j = 13 then ray.getD 13 0 &&& 0xfff80000
        else ray.getD j 0 := by
  refine List.ext_getElem (by simp [h]) fun j hj hj' => ?_
  have hlt : j < 24 := by simpa using hj'
  have hget := getD_setWords (ray.set 8 home) 10 [0xffffffff, 0xffffffff, 0, (ray.set 8 home).getD 13 0 &&& 0xfff80000] j
  rw [List.getD_eq_getElem _ _ hj] at hget
  rw [hget, List.getElem_map, List.getElem_range]
  interval_cases j <;> simp [h]

/-- The home word of a ray (R315) lies in what an access at a home slice leaves alone. -/
theorem homeWord_congr {s t : State} (h : t.rest = s.rest) (c slot : Nat) :
    w32 (t.device * 2 ^ 20 + t.logical c * 2 ^ 10 + slot) = w32 (s.device * 2 ^ 20 + s.logical c * 2 ^ 10 + slot) := by
  rw [show t.device = s.device from State.field_of_rest h 0 63 52, State.logical_congr (State.fused_of_rest h)]

theorem launchRay_eq (s : State) (c : Nat) {ray : List Word} (h : ray.length = 24) : s.launchRay c ray = launched c s ray := by
  unfold State.launchRay launched firstFree
  dsimp only
  cases (List.range 1024).find? fun j => !(s.core c).homeUsed.contains j with
  | none => rfl
  | some slot =>
    dsimp only
    rw [launched_words h, homeWord_congr ((State.rest_homeWrite (s.setCore c _) _ _ _ _).trans (State.rest_setCore s c _))]
    rfl

theorem foldl_launchRay {rays : List (List Word)} (h : ∀ r ∈ rays, r.length = 24) (s : State) (c : Nat) :
    rays.foldl (fun s r => s.launchRay c r) s = rays.foldl (launched c) s :=
  List.foldl_ext _ _ _ fun s r hr => launchRay_eq s c (h r hr)

/-! ### What the rays of an instruction take at their home (R320) -/

theorem asides_launched {s : State} {c slot : Nat} (ray : List Word)
    (hfree : (List.range 1024).find? (fun j => !(s.core c).homeUsed.contains j) = some slot) :
    (launched c s ray).asides =
      (s.setCore c { s.core c with homeUsed := slot :: (s.core c).homeUsed, raySerial := (s.core c).raySerial + 1 }).asides := by
  unfold launched
  dsimp only
  rw [hfree]
  exact (State.asides_routeRay _ _ _ _).trans (State.asides_homeWrite _ _ _ _ _)

/-- A ray that leaves takes a free home slot and a serial, and no register. -/
theorem launched_takes {s : State} {c : Nat} (ray : List Word) (hroom : (s.core c).homeUsed.length < 1024) :
    ∃ slot < 1024, slot ∉ (s.core c).homeUsed ∧ ((launched c s ray).core c).homeUsed = slot :: (s.core c).homeUsed ∧
      ((launched c s ray).core c).raySerial = (s.core c).raySerial + 1 ∧ ((launched c s ray).core c).rf = (s.core c).rf := by
  obtain ⟨slot, hlt, hfirst, hnot⟩ := exists_firstFree hroom id
  have hmem : slot ∉ (s.core c).homeUsed := fun h => hnot slot h rfl
  have hfree : (List.range 1024).find? (fun j => !(s.core c).homeUsed.contains j) = some slot := by
    rw [← hfirst]
    exact congrArg (List.find? · _) (funext fun j => by rw [List.contains_eq_any_beq]; simp only [id, Bool.beq_comm])
  have hasides := asides_launched ray hfree
  rw [State.homeUsed_of_asides hasides, State.raySerial_of_asides hasides, State.rf_of_asides hasides, State.core_setCore, if_pos rfl]
  exact ⟨slot, hlt, hmem, rfl, rfl, rfl⟩

theorem foldl_launched_takes (c : Nat) (rays : List (List Word)) : ∀ {s : State}, (s.core c).homeUsed.length + rays.length ≤ 1024 →
    let t := rays.foldl (launched c) s
    (∃ slots : List Nat, (t.core c).homeUsed = slots ++ (s.core c).homeUsed ∧ slots.length = rays.length ∧ slots.Nodup ∧
      ∀ j ∈ slots, j < 1024 ∧ j ∉ (s.core c).homeUsed) ∧
    (t.core c).raySerial = (s.core c).raySerial + BitVec.ofNat 32 rays.length ∧ (t.core c).rf = (s.core c).rf := by
  induction rays with
  | nil => exact fun _ => ⟨⟨[], rfl, rfl, List.nodup_nil, by simp⟩, (BitVec.add_zero _).symm, rfl⟩
  | cons ray rays ih =>
    intro s hroom
    rw [List.length_cons] at hroom
    obtain ⟨slot, hlt, hnot, hused, hserial, hrf⟩ := launched_takes (s := s) (c := c) ray (by omega)
    obtain ⟨⟨slots, hslots, hlen, hnodup, hfree⟩, hserial', hrf'⟩ := ih (s := launched c s ray) (by rw [hused, List.length_cons]; omega)
    rw [hused] at hslots hfree
    refine ⟨⟨slots ++ [slot], by rw [List.foldl_cons, hslots, List.append_assoc]; rfl, by rw [List.length_append, hlen]; rfl, ?_, ?_⟩, ?_, ?_⟩
    · refine List.nodup_append'.2 ⟨hnodup, List.nodup_singleton _, fun j hj hj' => (hfree j hj).2 ?_⟩
      rw [List.mem_singleton.1 hj']
      exact List.mem_cons_self
    · intro j hj
      rcases List.mem_append.1 hj with hj | hj
      · exact ⟨(hfree j hj).1, fun h => (hfree j hj).2 (List.mem_cons_of_mem _ h)⟩
      · rw [List.mem_singleton.1 hj]
        exact ⟨hlt, hnot⟩
    · rw [List.foldl_cons, hserial', hserial, List.length_cons, Nat.add_comm rays.length, BitVec.ofNat_add, BitVec.add_assoc]
      rfl
    · rw [List.foldl_cons, hrf', hrf]

/-! ### RAYSEND (R320) -/

theorem exec_of_raysOf {i : Instr} {rays : List (List Word)} (hr : Runs i s x) (h : raysOf s x i = some rays) :
    exec i s = .next (s.finish x (raysend rays x s)) := by
  unfold raysOf at h
  split at h
  · cases h
    show execRaysendLane _ _ s = _
    unfold execRaysendLane
    rw [run_of_runs hr]
    rfl
  · cases h
    show execRaysendUniform _ s = _
    unfold execRaysendUniform
    rw [run_of_runs hr]
    rfl
  · cases h

theorem length_of_raysOf {i : Instr} {rays : List (List Word)} (h : raysOf s x i = some rays) : ∀ r ∈ rays, r.length = 24 := by
  unfold raysOf at h
  split at h
  · cases h
    intro r hr
    obtain ⟨l, -, rfl⟩ := List.mem_map.1 hr
    rw [List.length_map, List.length_range]
  · cases h
    intro r hr
    rw [List.mem_singleton.1 hr, length_block]
  · cases h

/-! ### SPAWN (R198, R328) -/

theorem spawnBad_iff (s : State) (x : Ctx) (y : Spawned) : spawnBad s x y = true ↔ refusedItem s x y := by
  have hvalid (d st : Nat) : s.stageValid d st = false ↔ s.field (State.stageOff d st 0) 63 63 = 0 := by
    unfold State.stageValid
    rcases field_eq_one_or_zero s (State.stageOff d st 0) 63 with h | h <;> simp [h]
  have hstage (c : Nat) (z : Option Stage) : (z.any fun z => z.ctx == c) = false ↔ ∀ w, z = some w → w.ctx ≠ c := by
    cases z <;> simp
  have hentry : wf32 (y.2.getD 0 0) 15 14 = (y.2.getD 0 0).toNat / 2 ^ 14 % 4 := rfl
  unfold spawnBad refusedItem
  dsimp only
  simp only [Bool.or_eq_true, Bool.not_eq_true', decide_eq_true_eq, bne_iff_ne, hvalid, hstage, hentry, State.stage?, or_assoc]

theorem exec_of_itemsOf {i : Instr} {items : List Spawned} (hr : Runs i s x) (h : itemsOf s x i = some items) :
    exec i s = .next (s.finish x (spawn items x s)) := by
  unfold itemsOf at h
  split at h
  · next m a b =>
    cases h
    show execSpawnLane _ _ _ s = _
    unfold execSpawnLane
    rw [run_of_runs hr]
    cases b <;> rfl
  · next a b =>
    cases h
    show execSpawnUniform _ _ s = _
    unfold execSpawnUniform
    rw [run_of_runs hr]
    cases b <;> rfl
  · cases h

theorem spawn_refused (early rest : List Spawned) {y : Spawned} (hy : refusedItem s x y) (hearly : ∀ z ∈ early, ¬ refusedItem s x z) :
    spawn (early ++ y :: rest) x s = prot 3 y.1.toNat := by
  have hfind : (early ++ y :: rest).find? (spawnBad s x) = some y := by
    rw [List.find?_append, List.find?_eq_none.2 fun z hz => mt (spawnBad_iff s x z).1 (hearly z hz),
      List.find?_cons_of_pos ((spawnBad_iff s x y).2 hy)]
    rfl
  unfold spawn
  rw [hfind]

theorem crowded_iff (s : State) (d : Nat) (items : List Spawned) :
    ((List.range 16).any fun st => decide (s.stageRoom d st < (items.filter fun y => y.1.toNat = st).length)) = true ↔
      ∃ st < 16, s.stageRoom d st < items.countP fun y => y.1.toNat = st := by
  simp only [List.any_eq_true, List.mem_range, decide_eq_true_eq, List.countP_eq_length_filter]

section
variable {items : List Spawned} (h : ∀ y ∈ items, ¬ refusedItem s x y)
include h

theorem none_spawnBad : items.find? (spawnBad s x) = none :=
  List.find?_eq_none.2 fun z hz => mt (spawnBad_iff s x z).1 (h z hz)

theorem spawn_crowded (hcrowded : ∃ st < 16, s.stageRoom (s.dieOf x.core) st < items.countP fun y => y.1.toNat = st) :
    spawn items x s = .wait s .spawn := by
  unfold spawn
  rw [none_spawnBad h]
  exact if_pos ((crowded_iff _ _ _).2 hcrowded)

theorem spawn_puts (hroom : ¬ ∃ st < 16, s.stageRoom (s.dieOf x.core) st < items.countP fun y => y.1.toNat = st) :
    spawn items x s = .done (s.posts (items.map fun y => .itemEnqueue (s.dieOf x.core) y.1.toNat
      (if y.2.getD 0 0 = 0 then y.2.set 0 ((((s.die (s.dieOf x.core)).stages.look y.1.toNat).map (·.entry)).getD 0) else y.2))) := by
  unfold spawn
  rw [none_spawnBad h]
  exact if_neg (mt (crowded_iff _ _ _).1 hroom)

end

/-- Settles O37: the checks of R320 and R328 by their conditions, and the slots that the rays take by induction on the rays. -/
theorem raysAndItemsLeave : Obligations.RaysAndItemsLeave := by
  unfold Obligations.RaysAndItemsLeave
  refine ⟨fun i s x rays hr _ hrays => ?_, fun i s x items hr hitems => ?_⟩
  · have hexec := exec_of_raysOf hr hrays
    unfold raysend at hexec
    refine ⟨fun hbad => ?_, fun hgood hfull => ?_, fun hgood hroom => ?_⟩
    · rw [if_pos ((any_rayBad s x rays).2 hbad)] at hexec
      exact hexec
    · rw [if_neg (by rw [any_rayBad]; simpa using hgood), if_pos hfull] at hexec
      exact hexec
    · rw [if_neg (by rw [any_rayBad]; simpa using hgood), if_neg (by omega), foldl_launchRay (length_of_raysOf hrays)] at hexec
      exact ⟨_, rfl, hexec, foldl_launched_takes x.core rays hroom⟩
  · have hexec := exec_of_itemsOf hr hitems
    refine ⟨fun early y rest heq hy hearly => ?_, fun hgood hcrowded => ?_, fun hgood hroom => ?_⟩
    · rw [heq, spawn_refused early rest hy hearly] at hexec
      exact hexec
    · rw [spawn_crowded hgood hcrowded] at hexec
      exact hexec
    · rw [spawn_puts hgood hroom] at hexec
      exact hexec

end Sys2Proof.Claims
end

section
/-! Launch queues, their records, and the blocks that go to the dies (R180, R181, R184 to R186, R393, R394). -/

namespace Sys2Proof.Machine

/-! The unit and the part that an event's number names. -/

theorem partNo_mod {n i : Nat} (h : i < n) (k : Nat) : partNo n i k % n = i := by
  unfold partNo
  rw [Nat.add_mul_mod_self_left, Nat.mod_eq_of_lt h]

theorem partNo_div {n i : Nat} (h : i < n) (k : Nat) : partNo n i k / n = k := by
  unfold partNo
  rw [Nat.add_mul_div_left _ _ (Nat.zero_lt_of_lt h), Nat.div_eq_of_lt h, Nat.zero_add]

namespace State

section
variable {s : State}

/-! ### Registers of the host (R393, R394) -/

theorem writeControl_of_noAccess {fn off : Nat} (bytes : Nat) (v : DWord) (h : s.mayAccess fn off = false) :
    s.writeControl fn off bytes v = s := by
  unfold writeControl
  exact if_pos (.inr (.inl h))

theorem hostRead_of_noAccess {fn off : Nat} (h : s.mayAccess fn off = false) (hoff : off < 0x4000000) :
    execHostRegisterRead fn off s = .next (s.emit (.read fn off 0)) := by
  have hlow : decide (0x4000000 ≤ off) = false := decide_eq_false (by omega)
  unfold execHostRegisterRead
  simp only [hlow, Bool.false_eq_true, if_false]
  exact if_pos (.inr (.inr h))

/-- Quadword 0 of a context holds plain fields alone (R394). -/
theorem plainMask_ctx0 (p : Product) {i : Nat} (hi : i < 256) : plainMask p (0x110000 + 64 * i) = 0x01fffffffffffff8 := by
  have hword : (0x110000 + 64 * i) % 64 / 8 = 0 := by omega
  unfold plainMask
  rw [if_neg (by omega), if_neg (by omega), if_neg (by omega), if_neg (by omega), if_neg (by omega), if_pos (by omega), hword]
  rfl

theorem writeEffect_ctx0 {i : Nat} (hi : i < 256) (m v w : DWord) : s.writeEffect (0x110000 + 64 * i) m v w = s := by
  have hports : s.product.reachPorts ≤ 32 := by cases s.product <;> decide
  have hword : (0x110000 + 64 * i) % 64 / 8 = 0 := by omega
  unfold writeEffect
  dsimp only
  rw [if_neg (by omega), if_neg (by omega), if_neg (by omega), if_neg (by omega), if_neg (by omega), if_neg (by omega),
    if_neg (by omega), if_neg (by omega), if_pos (by omega), hword]
  rfl

theorem write_ctx0 {i : Nat} (hi : i < 256) (v : DWord) :
    s.writeControl 0 (0x110000 + 64 * i) 8 v = s.setCtl (0x110000 + 64 * i)
      ((s.ctlQ (0x110000 + 64 * i) &&& ~~~0x01fffffffffffff8) ||| (v &&& 0x01fffffffffffff8)) := by
  have hplace : (0x110000 + 64 * i) / 8 * 8 = 0x110000 + 64 * i := by omega
  have hfree : s.frozen (0x110000 + 64 * i) = false := by
    have h30 : (0x110000 + 64 * i == 0x30) = false := beq_false_of_ne (by omega)
    unfold frozen
    rw [h30, decide_eq_false (by omega)]
    rfl
  unfold writeControl
  dsimp only
  rw [hplace, if_neg (by simp [hfree, show s.mayAccess 0 (0x110000 + 64 * i) = true from rfl]; omega), writeEffect_ctx0 hi, if_neg (by omega),
    if_neg (by omega)]
  unfold putPlain writtenBits
  rw [plainMask_ctx0 _ hi, if_pos rfl]
  exact if_neg (by decide)

/-- A read of 8 bytes by the PF, of a quadword that only holds what it holds (R394). -/
theorem read_quadword {off : Nat} (hlo : 0x100000 ≤ off) (hhi : off < 0x114000) (haligned : off % 8 = 0) :
    execHostRegisterRead 0 off s = .next ((if BitVec.ofNat 64 (s.readClears off) = 0 then s else
      s.setCtl off (s.ctlQ off &&& ~~~BitVec.ofNat 64 (s.readClears off))).emit (.read 0 off (s.ctlQ off))) := by
  have hlow : decide (0x4000000 ≤ off) = false := decide_eq_false (by omega)
  have hplace : off / 8 * 8 = off := by omega
  have hhigh : (off % 8 == 4) = false := by rw [haligned]; rfl
  have hcores : s.product.cores ≤ 1024 := by cases s.product <;> decide
  have hcontrol : s.readControl off = (s, s.ctlQ off) := by
    unfold readControl
    dsimp only
    rw [if_neg (by omega), if_neg (by omega), if_neg (by omega), if_neg (by omega)]
  have hall (x : DWord) : x &&& 0xffffffffffffffff = x := BitVec.and_allOnes
  unfold execHostRegisterRead
  simp only [hlow, hplace, hhigh, Bool.false_eq_true, if_false, hcontrol, hall]
  rw [if_neg (by simp [show s.mayAccess 0 off = true from rfl]; omega), if_neg (by omega)]

theorem readClears_ctx0 {i : Nat} (hi : i < 256) : s.readClears (0x110000 + 64 * i) = 0 := by
  have hports : s.product.reachPorts ≤ 32 := by cases s.product <;> decide
  unfold readClears
  rw [if_neg (by omega), if_neg (by omega), if_neg (by omega), if_neg (by omega), if_neg (by omega), if_neg (by omega)]

theorem readClears_lq2 {q : Nat} (hq : q < 256) : s.readClears (0x100000 + 32 * q + 16) = 0xffff := by
  have hports : s.product.reachPorts ≤ 32 := by cases s.product <;> decide
  unfold readClears
  rw [if_neg (by omega), if_neg (by omega), if_pos (by omega)]

theorem read_ctx0 {i : Nat} (hi : i < 256) : execHostRegisterRead 0 (0x110000 + 64 * i) s =
    .next (s.emit (.read 0 (0x110000 + 64 * i) (s.ctlQ (0x110000 + 64 * i)))) := by
  rw [read_quadword (by omega) (by omega) (by omega), readClears_ctx0 hi]
  rfl

theorem read_lq2 {q : Nat} (hq : q < 256) : execHostRegisterRead 0 (0x100000 + 32 * q + 16) s =
    .next ((s.setCtl (0x100000 + 32 * q + 16) (s.ctlQ (0x100000 + 32 * q + 16) &&& 0xffffffffffff0000)).emit
      (.read 0 (0x100000 + 32 * q + 16) (s.ctlQ (0x100000 + 32 * q + 16)))) := by
  rw [read_quadword (by omega) (by omega) (by omega), readClears_lq2 hq]
  rfl

/-! ### Doorbells and enables (R181, R185) -/

theorem lqOff_ne {q i j : Nat} (h : i ≠ j) : lqOff q i ≠ lqOff q j := by
  unfold lqOff
  omega

theorem ringDoorbell_eq {q : Nat} (hq : q < 256) (v : Word) : s.ringDoorbell q v =
    if s.field (lqOff q 0) 63 63 = 1 ∧
        2 ^ s.field (lqOff q 0) 61 56 < (v.toNat + 2 ^ 32 - s.field (lqOff q 2) 63 32) % 2 ^ 32 then
      (s.setField (lqOff q 1) 31 0 v.toNat).stopQueue q 9
    else (s.setField (lqOff q 1) 31 0 v.toNat).post (.launchRecordFetch q) := by
  unfold ringDoorbell overrun
  rw [if_neg (by omega)]
  simp only [decide_eq_true_eq]
  rw [field_setField_same _ _ (by omega) (by omega), field_setField_other _ (lqOff_ne (by omega)), field_setField_other _ (lqOff_ne (by omega)),
    field_setField_other _ (lqOff_ne (by omega)), Nat.mod_eq_of_lt v.isLt]

theorem enableQueue_eq {q : Nat} (hq : q < 256) (qw : DWord) : s.enableQueue q qw =
    let u := s.setCtl (lqOff q 0) (qw &&& 0xffff01ffffffffc0)
    if 4 ≤ qf qw 61 56 ∧ qf qw 61 56 ≤ 20 then
      ((u.setField (lqOff q 0) 63 63 1).setField (lqOff q 2) 31 24 0).post (.launchRecordFetch q)
    else u.stopQueue q 9 := by
  unfold enableQueue
  rw [if_neg (by omega)]
  dsimp only
  split
  · rw [if_neg (by omega)]
  · rw [if_pos (by omega)]

/-! ### Records (R181, R184, R185) -/

section
variable {q : Nat}

theorem fetch_idle (h : s.mayFetch q = false) : execLaunchRecordFetch q s = .next s := by
  unfold execLaunchRecordFetch
  rw [if_pos (by simp [h])]

theorem fetch_overrun (h : s.mayFetch q = true) (hover : s.overrun q = true) : execLaunchRecordFetch q s = .next (s.stopQueue q 9) := by
  unfold execLaunchRecordFetch
  rw [if_neg (by simp [h]), if_pos hover]

section
variable {u : State} {ws : List Word} (hf : s.mayFetch q = true) (hread : s.recordAt q = (u, ws))
include hf hread

section
variable (hroom : s.overrun q = false)
include hroom

theorem fetch_refused (hcheck : u.checkRecord (u.launchOf q ws) ≠ 0) :
    execLaunchRecordFetch q s = .next (u.stopQueue q (u.checkRecord (u.launchOf q ws))) := by
  unfold execLaunchRecordFetch
  rw [if_neg (by simp [hf]), if_neg (by simp [hroom]), hread]
  dsimp only
  split
  next h0 => exact absurd h0 hcheck
  next => rfl

theorem fetch_checked {w : State} {code slots : Nat} (hcheck : u.checkRecord (u.launchOf q ws) = 0)
    (hentry : u.checkEntry (u.launchOf q ws) (.launchRecordFetch q) = (some (code, slots), w)) :
    execLaunchRecordFetch q s = .next (if code ≠ 0 then w.stopQueue q code
      else if (u.launchOf q ws).initIdx = 0 then w.acceptLaunch { u.launchOf q ws with entrySlots := slots }
      else w.postOnce (.teamInitRead (partNo 256 q slots))) := by
  unfold execLaunchRecordFetch
  rw [if_neg (by simp [hf]), if_neg (by simp [hroom]), hread]
  dsimp only
  rw [hcheck]
  simp only [hentry]
  cases code with
  | zero => rfl
  | succ code => rfl

end

theorem teamInit_read (hq : q < 256) {w : State} {bs : List Byte} {slots : Nat}
    (himages : u.readImages (q % u.product.dies) (u.launchOf q ws) (.teamInitRead (partNo 256 q slots)) = .ok w bs) :
    execTeamInitRead (partNo 256 q slots) s = .next (if ((List.range (bs.length / 48)).all fun j =>
        imageOk (u.launchOf q ws).decl ((bs.drop (48 * j)).take 48)) = true then
      w.acceptLaunch { u.launchOf q ws with entrySlots := slots } else w.stopQueue q 10) := by
  unfold execTeamInitRead
  dsimp only
  rw [partNo_mod hq, partNo_div hq, if_neg (by simp [hf]), hread]
  dsimp only
  rw [himages]

end

theorem teamInit_idle (hq : q < 256) (h : s.mayFetch q = false) (n : Nat) : execTeamInitRead (partNo 256 q n) s = .next s := by
  unfold execTeamInitRead
  dsimp only
  rw [partNo_mod hq, if_pos (by simp [h])]

/-! ### Distribution (R186) -/

theorem listBlock_failed {d l b : Nat} {y : Launch} (hy : s.launch? l = some y) (hfailed : y.failed = true) :
    s.listBlock d q l b = (s.setArb d q { s.arb d q with coming := (s.arb d q).coming.erase l }).postOnce (.blockDistribution q) := by
  have hlaunch (a : ArbQueue) : (s.setArb d q a).launch? l = some y := hy
  unfold listBlock
  dsimp only
  rw [hlaunch]
  exact if_pos hfailed

/-- What the events of a die's agent leave alone of its lists. -/
theorem blocksAt_of_die {t : State} {d : Nat} (h : (t.die d).lists = (s.die d).lists) (q : Nat) : t.blocksAt d q = s.blocksAt d q := by
  unfold blocksAt
  rw [h]

theorem lists_setArb (d q : Nat) (a : ArbQueue) : ((s.setArb d q a).die d).lists = (s.die d).lists := by
  unfold setArb
  rw [die_modDie_same]

theorem lists_arm (d : Nat) (l : Launch) : ((s.arm d l).die d).lists = (s.die d).lists := by
  unfold arm
  dsimp only
  split
  · rfl
  · exact lists_setArb _ _ _

theorem lists_defineStage (d : Nat) (l : Launch) : ((s.defineStage d l).die d).lists = (s.die d).lists := by
  unfold defineStage
  dsimp only
  rw [die_setField, die_modDie_same]

theorem blocksAt_enlist (d : Nat) (r : BlockRef) :
    (s.modDie d fun x => { x with lists := x.lists.put q (((x.lists.look q).getD []) ++ [r]) }).blocksAt d q = s.blocksAt d q ++ [r] := by
  unfold blocksAt
  rw [die_modDie_same]
  dsimp only
  rw [AMap.look_put, if_pos rfl]
  rfl

theorem cores_arm (d : Nat) (l : Launch) : (s.arm d l).cores = s.cores := by
  unfold arm
  dsimp only
  split <;> rfl

theorem hbm_arm (d : Nat) (l : Launch) : (s.arm d l).hbm = s.hbm := by
  unfold arm
  dsimp only
  split <;> rfl

theorem mem_agenda_postOnce (i : Instr) : i ∈ (s.postOnce i).agenda := by
  unfold postOnce
  split
  next h => exact List.contains_iff_mem.1 h
  next => exact List.mem_append_right _ (List.mem_singleton_self i)

theorem listBlock_listed {d l b : Nat} {y : Launch} (hy : s.launch? l = some y) (hlive : y.failed = false) :
    (s.listBlock d q l b).blocksAt d q = s.blocksAt d q ++ [{ launch := y.index, block := b }] ∧
      Instr.placementOpportunity d ∈ (s.listBlock d q l b).agenda ∧ (s.listBlock d q l b).cores = s.cores ∧
      (s.listBlock d q l b).hbm = s.hbm := by
  have hlaunch (a : ArbQueue) : (s.setArb d q a).launch? l = some y := hy
  unfold listBlock
  dsimp only
  rw [hlaunch]
  dsimp only
  rw [if_neg (by simp [hlive])]
  refine ⟨?_, mem_agenda_postOnce _, ?_, ?_⟩
  · rw [blocksAt_of_die (congrArg Die.lists (die_postOnce _ _ _))]
    split
    · rw [blocksAt_of_die (lists_defineStage _ _), blocksAt_of_die (lists_arm _ _), blocksAt_enlist, blocksAt_of_die (lists_setArb _ _ _)]
    · rw [blocksAt_of_die (lists_arm _ _), blocksAt_enlist, blocksAt_of_die (lists_setArb _ _ _)]
  · rw [cores_postOnce]
    split
    · exact cores_arm _ _
    · exact cores_arm _ _
  · rw [hbm_postOnce]
    split
    · exact hbm_arm _ _
    · exact hbm_arm _ _

/-- The number of an arriving block names its queue, die, block and launch. -/
theorem distribution_arrives {d l b : Nat} (hd : d < 64) (hq : q < 256) (hb : b < 2 ^ 32) :
    execBlockDistribution (blockMsg q d l b) s = .next (s.listBlock d q l b) := by
  have hhigh : blockMsg q d l b / 256 = partNo 64 d (partNo (2 ^ 32) b l) + 1 := (partNo_div hq _).trans (Nat.add_comm _ _)
  unfold execBlockDistribution
  dsimp only
  rw [show blockMsg q d l b % 256 = q from partNo_mod hq _, hhigh]
  dsimp only
  rw [partNo_mod hd, partNo_div hd, partNo_div hb, partNo_mod hb]

section
variable {l : Launch} (hq : q < 256) (hl : s.current q = some l)
include hq hl

theorem distribution_eq : execBlockDistribution q s = .next (
    let d := l.dieOf l.next
    let a := s.arb d q
    if l.total ≤ l.next then
      let u := s.modLaunch l.index fun l => { l with distributed := true }
      ((u.setField (lqOff q 2) 63 32 (u.field (lqOff q 2) 63 32 + 1)).post (.launchRecordFetch q)).postOnce
        (.groupEnd (u.agentCore (q % u.product.dies)) 0)
    else if 64 ≤ (s.blocksAt d q).length + a.coming.length then s
    else (((s.setArb d q { a with coming := a.coming ++ [l.index] }).modLaunch l.index fun l => { l with next := l.next + 1 }).send
      (s.agentCore (q % s.product.dies)) (s.agentCore d) 5 1 (.blockDistribution (blockMsg q d l.index l.next)) true 5).post
        (.blockDistribution q)) := by
  unfold execBlockDistribution
  dsimp only
  rw [Nat.div_eq_of_lt hq, Nat.mod_eq_of_lt hq]
  dsimp only
  rw [hl]
  dsimp only
  split
  · rfl
  · split <;> rfl

end
end
end
end State
end Sys2Proof.Machine

namespace Sys2Proof.Claims
open Machine

/-- Settles O50: each event by the branch of its conditions; the number of an arriving block names its queue, die, block and launch. -/
theorem launchSteps : Obligations.LaunchSteps := by
  unfold Obligations.LaunchSteps
  refine ⟨fun s fn off bytes v h => ⟨?_, State.hostRead_of_noAccess h⟩, fun s i v hi => ?_, fun s i hi => ⟨State.read_ctx0 hi, State.read_lq2 hi⟩,
    fun s q v qw hq => ⟨?_, ?_⟩, fun s q => ⟨fun h => ⟨State.fetch_idle h, fun hq => State.teamInit_idle hq h⟩, fun h hn => ?_, fun u ws h hn hread => ?_,
      fun u ws w bs slots hq h hread himages => State.teamInit_read h hread hq himages⟩,
    fun s q l hq hl => ⟨fun h => ?_, fun h => ⟨fun hfull => ?_, fun hroom => ?_⟩⟩,
    fun s d q l b hd hq hb => ⟨fun y hy hfailed => ?_, fun y hy hlive => ⟨_, State.distribution_arrives hd hq hb, State.listBlock_listed hy hlive⟩⟩⟩
  · exact congrArg Host.Outcome.next (State.writeControl_of_noAccess bytes v h)
  · exact congrArg Host.Outcome.next (State.write_ctx0 hi v)
  · exact congrArg Host.Outcome.next (State.ringDoorbell_eq hq v)
  · exact congrArg Host.Outcome.next (State.enableQueue_eq hq qw)
  · exact State.fetch_overrun h (decide_eq_true hn)
  · have hroom : s.overrun q = false := decide_eq_false (by omega)
    exact ⟨State.fetch_refused h hread hroom, fun w code slots => State.fetch_checked h hread hroom⟩
  · exact (State.distribution_eq hq hl).trans (congrArg Host.Outcome.next (if_pos h))
  · exact (State.distribution_eq hq hl).trans (congrArg Host.Outcome.next ((if_neg (by omega)).trans (if_pos hfull)))
  · exact (State.distribution_eq hq hl).trans (congrArg Host.Outcome.next ((if_neg (by omega)).trans (if_neg (by omega))))
  · exact (State.distribution_arrives hd hq hb).trans (congrArg Host.Outcome.next (State.listBlock_failed hy hfailed))

end Sys2Proof.Claims
end

section
/-! Stage queues, their clickers and the groups that these form (R198, R200, R201). -/

namespace Sys2Proof.Machine.State

section
variable {s : State}

/-! ### Items (R198) -/

section
variable {d st : Nat} {y : Stage} (hy : s.stage? d st = some y)
include hy

theorem itemEnqueue_enters {item : List Word} (hitem : item ≠ []) (h : y.spillCount = 0 ∧ y.spilling = [] ∧ y.items.length < 4096) :
    execItemEnqueue d st item s =
      .next ((s.modStage d st fun y => { y with items := y.items ++ [{ words := item, since := s.cc }] }).clickAll d st) := by
  unfold execItemEnqueue
  rw [hy]
  dsimp only
  rw [if_pos (by simpa using hitem), if_pos h]

theorem itemEnqueue_spills {item : List Word} (hitem : item ≠ []) (h : ¬ (y.spillCount = 0 ∧ y.spilling = [] ∧ y.items.length < 4096)) :
    execItemEnqueue d st item s =
      .next ((s.modStage d st fun y => { y with spilling := y.spilling ++ [item] }).postOnce (.itemEnqueue d st [])) := by
  unfold execItemEnqueue
  rw [hy]
  dsimp only
  rw [if_pos (by simpa using hitem), if_neg h]

theorem itemEnqueue_moves (h : y.spillCount = 0 ∨ 4096 ≤ y.items.length) : execItemEnqueue d st [] s = .next (s.spillItem d st y) := by
  unfold execItemEnqueue
  rw [hy]
  dsimp only
  rw [if_neg (by simp), if_pos h]

end

section
variable {d st : Nat} {y : Stage} {item : List Word} {rest : List (List Word)} (hspill : y.spilling = item :: rest)
include hspill

theorem spillItem_enters (h : y.spillCount = 0 ∧ y.items.length < 4096) : s.spillItem d st y =
    ((s.modStage d st fun y => { y with items := y.items ++ [{ words := item, since := s.cc }], spilling := rest }).clickAll d st).postOnce
      (.itemEnqueue d st []) := by
  unfold spillItem
  rw [hspill]
  exact if_pos h

theorem spillItem_waits (h : 4096 ≤ y.items.length) (hfull : s.spillSlots d st ≤ y.spillCount) : s.spillItem d st y = s := by
  unfold spillItem
  rw [hspill]
  dsimp only
  rw [if_neg (by omega), if_pos hfull]

theorem spillItem_writes (h : 4096 ≤ y.items.length) (hroom : y.spillCount < s.spillSlots d st) {u : State} {b : List Byte}
    (hwrite : s.engWrite (s.agentCore d) 6 y.ctx 0 (.itemEnqueue d st []) 0 true 0 (s.spillAddr d st (y.spillHead + y.spillCount))
      (item.flatMap fun (w : Word) => leBytes 4 w.toNat) = .ok u b) :
    s.spillItem d st y =
      (u.modStage d st fun y => { y with spilling := rest, spillCount := y.spillCount + 1 }).postOnce (.itemEnqueue d st []) := by
  unfold spillItem
  rw [hspill]
  dsimp only
  rw [if_neg (by omega), if_neg (by omega), hwrite]

end

/-! ### The stages of a die, and what stands aside at one core -/

theorem stage?_of_die {t : State} {d : Nat} (h : t.die d = s.die d) (st : Nat) : t.stage? d st = s.stage? d st := by
  unfold stage?
  rw [h]

theorem stage?_modStage (s : State) (d st e : Nat) (f : Stage → Stage) :
    (s.modStage d st f).stage? d e = if st = e then (s.stage? d e).map f else s.stage? d e := by
  unfold stage? modStage
  rw [die_modDie_same, AMap.look_upd]

@[simp] theorem asides_modStage (s : State) (d st : Nat) (f : Stage → Stage) : (s.modStage d st f).asides = s.asides := rfl

theorem asides_setCore_update (s : State) (c : Nat) (k : Core) : (s.setCore c k).asides = Function.update s.asides c k.aside := by
  funext d
  unfold asides
  rw [core_setCore, Function.update_apply]
  by_cases h : c = d
  · rw [if_pos h, if_pos h.symm]
  · rw [if_neg h, if_neg (Ne.symm h)]

theorem asides_modCore_update (s : State) (c : Nat) (f : Core → Core) :
    (s.modCore c f).asides = Function.update s.asides c (f (s.core c)).aside := asides_setCore_update _ _ _

@[simp] theorem die_requestOv (s : State) (c ctx id d : Nat) : (s.requestOv c ctx id).die d = s.die d := by
  unfold requestOv
  dsimp only
  split <;> rfl

end

/-! ### Forming slots (R200) -/

end Sys2Proof.Machine.State

namespace Sys2Proof.Machine

/-- The slot of a number is formed. -/
def FormSlot.form (id : Nat) (f : FormSlot) : FormSlot := if f.id = id then { f with formed := true } else f

namespace State

section
variable {s : State} {c : Nat}

theorem map_form_of_formed {l : List FormSlot} {id : Nat} (h : l.find? (fun f => f.id == id && !f.formed) = none) :
    l.map (FormSlot.form id) = l := by
  have hformed := List.find?_eq_none.1 h
  refine (List.map_congr_left fun f hf => ?_).trans (List.map_id l)
  have hfalse := hformed f hf
  unfold FormSlot.form
  split
  · next hid =>
    have hf : f.formed = true := by simpa [hid] using hfalse
    rw [← hf]
    rfl
  · rfl

/-- A slot that forms changes its mark alone of what stands aside. -/
theorem asides_formSlot (s : State) (c id : Nat) : (s.formSlot c id).asides =
    (s.modCore c fun k => { k with clicker := k.clicker.map (FormSlot.form id) }).asides := by
  unfold formSlot
  split
  next hnone =>
    rw [asides_modCore_update, map_form_of_formed hnone]
    exact (Function.update_eq_self c s.asides).symm
  next =>
    dsimp only
    rw [asides_postOnce]
    split
    · rw [asides_requestOv]
      rfl
    · rfl

@[simp] theorem die_formSlot (s : State) (c id d : Nat) : (s.formSlot c id).die d = s.die d := by
  unfold formSlot
  split
  · rfl
  · dsimp only
    rw [die_postOnce]
    split
    · rw [die_requestOv, die_modCore]
    · rw [die_modCore]

theorem clicker_formSlot (s : State) (c id : Nat) : ((s.formSlot c id).core c).clicker = (s.core c).clicker.map (FormSlot.form id) := by
  rw [clicker_of_asides (asides_formSlot s c id), core_modCore_same]

theorem formed_of_formSlot {id : Nat} {f : FormSlot} (hf : f ∈ ((s.formSlot c id).core c).clicker) (hid : f.id = id) : f.formed = true := by
  rw [clicker_formSlot] at hf
  obtain ⟨g, -, rfl⟩ := List.mem_map.1 hf
  unfold FormSlot.form at hid ⊢
  split
  · rfl
  · next h => rw [if_neg h] at hid; exact absurd hid h

/-! ### Lanes join slots (R200) -/

/-- What a lane that joins leaves behind: its words stand in a slot of its context and entry, and else the slots alone change. -/
structure Joined (s : State) (c ctx : Nat) (entry : Word) (words : List Word) (t : State) : Prop where
  die (d : Nat) : t.die d = s.die d
  asides : ∃ clicker nextForm, t.asides = Function.update s.asides c { (s.core c).aside with clicker, nextForm }
  slot : ∃ f ∈ (t.core c).clicker, f.ctx = ctx ∧ f.entry = entry ∧ words ∈ f.lanes

theorem Joined.hitQ {ctx : Nat} {entry : Word} {words : List Word} {t : State} (h : Joined s c ctx entry words t) :
    (t.core c).hitQ = (s.core c).hitQ := by
  obtain ⟨clicker, nextForm, hasides⟩ := h.asides
  show (t.asides c).hitQ = _
  rw [hasides, Function.update_self]
  rfl

theorem Joined.formSlot {ctx : Nat} {entry : Word} {words : List Word} {t : State} (h : Joined s c ctx entry words t) (id : Nat) :
    Joined s c ctx entry words (t.formSlot c id) where
  die d := (die_formSlot t c id d).trans (h.die d)
  asides := by
    obtain ⟨clicker, nextForm, hasides⟩ := h.asides
    have hcore : (t.core c).aside = { (s.core c).aside with clicker, nextForm } := by
      show t.asides c = _
      rw [hasides, Function.update_self]
    refine ⟨(t.core c).clicker.map (FormSlot.form id), nextForm, ?_⟩
    rw [asides_formSlot, asides_modCore_update, hasides, Function.update_idem]
    exact congrArg (fun k : Core => Function.update s.asides c { k with clicker := (t.core c).clicker.map (FormSlot.form id) }) hcore
  slot := by
    obtain ⟨f, hf, hctx, hentry, hwords⟩ := h.slot
    refine ⟨f.form id, clicker_formSlot t c id ▸ List.mem_map_of_mem hf, ?_⟩
    unfold FormSlot.form
    split <;> exact ⟨hctx, hentry, hwords⟩

theorem Joined.of_setCore {ctx nextForm : Nat} {entry : Word} {words : List Word} {clicker : List FormSlot} {f : FormSlot}
    (hf : f ∈ clicker) (hctx : f.ctx = ctx) (hentry : f.entry = entry) (hwords : words ∈ f.lanes) :
    Joined s c ctx entry words (s.setCore c { s.core c with clicker, nextForm }) where
  die _ := rfl
  asides := ⟨clicker, nextForm, asides_setCore_update _ _ _⟩
  slot := ⟨f, by rw [core_setCore, if_pos rfl]; exact hf, hctx, hentry, hwords⟩

theorem joinSlot_joins (s : State) (c ctx : Nat) (entry : Word) (words : List Word) (hroom : (s.core c).clicker.length < 32) :
    ∃ t, s.joinSlot c ctx entry words none = (t, true) ∧ Joined s c ctx entry words t := by
  unfold joinSlot
  dsimp only
  rw [if_neg (by simp)]
  cases hfor : (s.core c).formFor ctx entry with
  | some f =>
    have hf := pickBest_mem hfor
    simp only [List.mem_filter, Bool.and_eq_true, beq_iff_eq] at hf
    obtain ⟨hmem, ⟨⟨-, hctx⟩, hentry⟩, -⟩ := hf
    have hjoined : Joined s c ctx entry words (s.setCore c { s.core c with clicker := (s.core c).clicker.map fun g =>
        if g.id = f.id then { g with lanes := f.lanes ++ [words] } else g }) := by
      refine Joined.of_setCore (f := { f with lanes := f.lanes ++ [words] }) ?_ hctx hentry (by simp)
      exact List.mem_map.2 ⟨f, hmem, if_pos rfl⟩
    dsimp only
    refine ⟨_, rfl, ?_⟩
    split
    · exact hjoined.formSlot f.id
    · exact hjoined
  | none =>
    dsimp only
    rw [if_pos hroom]
    refine ⟨_, rfl, ?_⟩
    rw [if_neg (by simp)]
    exact Joined.of_setCore (List.mem_append_right _ (List.mem_singleton_self _)) rfl rfl (List.mem_singleton_self _)

end
end State
end Sys2Proof.Machine
end

section
/-! The clicker takes hits and items (R198, R201), and its groups start (R169, R200). -/

namespace Sys2Proof.Machine.State

/-- A clicker with a free slot on a core that stays can take. -/
theorem clicker_takes {k : Core} (hstays : k.leaving = false) (hroom : k.clicker.length < 32) :
    ¬ (k.leaving = true ∨ k.clicker.length = 32 ∧ k.clicker.all (·.formed) = true) := by
  rintro (h | ⟨h, -⟩)
  · rw [hstays] at h
    cases h
  · omega

section
variable {s : State} {c st : Nat} {y : Stage} (hstage : (s.core c).stage = some st) (hy : s.stage? (s.dieOf c) st = some y)
  (hstays : (s.core c).leaving = false)
include hstage hy hstays

section
variable (hroom : (s.core c).clicker.length < 32)
include hroom

theorem clickerTake_hit (hhit : (s.core c).hitQ ≠ []) : execClickerTake c s = .next (s.postOnce (.shadeWordRead c)) := by
  unfold execClickerTake
  dsimp only
  rw [hstage]
  dsimp only
  rw [hy]
  dsimp only
  rw [if_neg (clicker_takes hstays hroom), if_pos (by simpa using hhit)]

/-- What a clicker does after an item has joined a slot: the item leaves its queue, and SPAWN and the clicker look again. -/
theorem clickerTake_item {i : Nat} {it : Item} (hnohit : (s.core c).hitQ = []) (hpick : s.pickItem c y = some i)
    (hit : y.items[i]? = some it) : ∃ t u : State, Joined s c y.ctx (it.words.headD 0) (it.words.drop 1) t ∧
      u.asides = t.asides ∧ (∀ d, u.die d = (t.modStage (s.dieOf c) st fun y => { y with items := y.items.eraseIdx i }).die d) ∧
      execClickerTake c s = .next (u.postOnce (.clickerTake c)) := by
  obtain ⟨t, hjoin, hjoined⟩ := joinSlot_joins s c y.ctx (it.words.headD 0) (it.words.drop 1) hroom
  unfold execClickerTake
  dsimp only
  rw [hstage]
  dsimp only
  rw [hy]
  dsimp only
  rw [if_neg (clicker_takes hstays hroom), if_neg (by simp [hnohit]), hpick]
  dsimp only [Option.bind]
  rw [hit]
  dsimp only [Option.map]
  rw [hjoin]
  refine ⟨t, _, hjoined, ?_, fun d => ?_, rfl⟩
  · have hwake := asides_foldl (f := fun (s : State) c => s.modCore c fun k => k.wake fun (w : Wait) => w == .spawn)
      (fun s c => asides_modCore s c fun k => k.aside_wake _)
    split
    · rw [hwake, asides_modStage]
    · rw [asides_postOnce, hwake, asides_modStage]
  · have hwake := die_foldl (f := fun (s : State) c => s.modCore c fun k => k.wake fun (w : Wait) => w == .spawn) (d := d)
      (fun s c => die_modCore s c d _)
    split
    · exact hwake _ _
    · rw [die_postOnce]
      exact hwake _ _

end

/-- A hit whose shade word has been read joins a slot of the entry that the word names, and leaves the queue and its home slot. -/
theorem shadeWordRead_joins {hit : List Word} {rest : List (List Word)} {u : State} {bs : List Byte}
    (hhit : (s.core c).hitQ = hit :: rest)
    (hread : s.engRead c 0 y.ctx (.shadeWordRead c) true 0
      (s.field (stageOff (s.dieOf c) st 1) 56 3 * 8 + 4 * wf32 (hit.getD 4 0) 7 0) 4 = .ok u bs)
    (hroom : (u.core c).clicker.length < 32) :
    ∃ v t, Joined u c y.ctx (w32 (leNat bs)) hit v ∧
      t.asides = ((v.modCore c Core.popHit).freeHome c (wf32 (hit.getD 0 0) 9 0)).asides ∧ execShadeWordRead c s = .next t := by
  obtain ⟨v, hjoin, hjoined⟩ := joinSlot_joins u c y.ctx (w32 (leNat bs)) hit hroom
  unfold execShadeWordRead
  dsimp only
  rw [hstage, hhit]
  dsimp only [Option.bind]
  rw [hy]
  dsimp only [Option.map]
  rw [if_neg (by simp [hstays]), hread]
  dsimp only
  rw [hjoin]
  refine ⟨v, _, hjoined, ?_, rfl⟩
  dsimp only
  rw [asides_postOnce]
  split
  · rfl
  · rw [asides_postOnce]

end

theorem freed_hit (v : State) (c slot : Nat) : (((v.modCore c Core.popHit).freeHome c slot).asides c).hitQ = (v.core c).hitQ.drop 1 ∧
    (((v.modCore c Core.popHit).freeHome c slot).asides c).clicker = (v.core c).clicker := by
  unfold freeHome
  rw [asides_modCore_update, Function.update_self, Core.aside_wake, core_modCore_same]
  exact ⟨rfl, rfl⟩

end Sys2Proof.Machine.State
end

section
/-! A formed group starts (R169, R174, R196, R200). -/

namespace Sys2Proof.Machine

theorem maskOf_concat (ls : List Nat) (l : Nat) : maskOf (ls ++ [l]) = maskOf ls ||| (1#32) <<< l := by
  unfold maskOf
  rw [List.foldl_append]
  rfl

/-- The mask of the lowest lanes. -/
theorem getLsbD_maskOf_range (n : Nat) {i : Nat} (hi : i < 32) : (maskOf (List.range n)).getLsbD i = decide (i < n) := by
  induction n with
  | zero => simp [maskOf]
  | succ n ih =>
    rw [List.range_succ, maskOf_concat, BitVec.getLsbD_or, ih, BitVec.getLsbD_shiftLeft, BitVec.getLsbD_one]
    rcases Nat.lt_trichotomy i n with h | h | h
    · simp [h, hi, Nat.lt_succ_of_lt h]
    · simp [h]
      omega
    · have : ¬ i < n + 1 := by omega
      have : ¬ i < n := by omega
      have : i - n ≠ 0 := by omega
      simp [*]

theorem mem_freeSets {k : Core} {gid : Nat} (h : gid ∈ k.freeSets) : gid < 512 := by
  unfold Core.freeSets at h
  exact List.mem_range.1 (List.mem_filter.1 h).1

namespace Core

/-- What the set-up of a group's registers leaves alone: the groups and the forming slots. -/
def stands (k : Core) : AMap Group × List FormSlot := (k.groups, k.clicker)

@[simp] theorem stands_setS (k : Core) (gid j : Nat) (w : Word) : (k.setS gid j w).stands = k.stands := rfl

@[simp] theorem stands_setV (k : Core) (g : Group) (gid r l : Nat) (w : Word) : (k.setV g gid r l w).stands = k.stands := by
  unfold setV
  split <;> rfl

@[simp] theorem stands_takeSet (k : Core) (gid ctx : Nat) : (k.takeSet gid ctx).stands = k.stands := by
  unfold takeSet
  dsimp only
  split
  · rfl
  · split <;> rfl

theorem stands_foldl {α : Type} {f : Core → α → Core} (hf : ∀ k a, (f k a).stands = k.stands) (l : List α) (k : Core) :
    (l.foldl f k).stands = k.stands := by
  induction l generalizing k with
  | nil => rfl
  | cons a t ih => rw [List.foldl_cons, ih, hf]

end Core

namespace State

/-- A group as it starts on a base set, all its threads at the entry. -/
structure Started (g : Group) (n ctx : Nat) (lanes entry : Word) : Prop where
  team : g.team = n
  ctx : g.ctx = ctx
  running : g.ending = false
  live : g.threads.map (·.live) = (List.range 32).map fun i => lanes.getLsbD i
  entry : ∀ th ∈ g.threads, th.pc = entry

theorem Started.park {g : Group} {n ctx : Nat} {lanes entry : Word} (h : Started g n ctx lanes entry) (ls : Word) (w : Option Wait) :
    Started (g.onLanes ls fun _ t => { t with wait := w }) n ctx lanes entry where
  team := h.team
  ctx := h.ctx
  running := h.running
  live := by
    rw [← h.live]
    refine List.ext_getElem (by simp [Group.onLanes]) fun i hi hi' => ?_
    simp only [Group.onLanes, List.getElem_map, List.getElem_mapIdx]
    split <;> rfl
  entry th hth := by
    obtain ⟨i, hi, rfl⟩ := List.mem_mapIdx.1 hth
    split
    · exact h.entry g.threads[i] (List.getElem_mem hi)
    · exact h.entry g.threads[i] (List.getElem_mem hi)

theorem group?_enterStart {s : State} {c gid n ctx ctx' : Nat} {g : Group} {lanes entry : Word} (hg : s.group? c gid = some g)
    (h : Started g n ctx lanes entry) (ls pc : Word) :
    ∃ g', (s.enterStart c gid ctx' ls pc).group? c gid = some g' ∧ Started g' n ctx lanes entry := by
  unfold enterStart
  extract_lets id needs s1 s2
  have h1 : s1.group? c gid = s.group? c gid := by
    show State.group? (if needs then _ else _) c gid = _
    split
    · exact group?_requestOv _ _ _ _ _ _
    · rfl
  have h2 : s2.group? c gid = some g :=
    (group?_modCore _ _ _ _ _ fun k => (Core.groups_enterOv _ _ _ _ _).trans k.groups_recount).trans (h1.trans hg)
  split
  · rcases group?_parkOn h2 ls id .start with h3 | h3
    · exact ⟨g, h3, h⟩
    · exact ⟨_, h3, h.park ls _⟩
  · exact ⟨g, h2, h⟩

@[simp] theorem asides_enterStart (s : State) (c gid ctx : Nat) (lanes pc : Word) : (s.enterStart c gid ctx lanes pc).asides = s.asides := by
  unfold enterStart
  extract_lets id needs s1 s2
  have h1 : s1.asides = s.asides := by
    show State.asides (if needs then _ else _) = _
    split
    · exact asides_requestOv _ _ _ _
    · rfl
  have h2 : s2.asides = s1.asides := asides_modCore _ _ fun k => (Core.aside_enterOv _ _ _ _ _).trans (Core.aside_recount _)
  split
  · rw [asides_parkOn, h2, h1]
  · rw [h2, h1]

/-- Starting a group puts it on its base set, and leaves the forming slots. -/
theorem startGroup_starts (s : State) (c n : Nat) {gid : Nat} (hgid : gid < 512) (t : Team) (idx kind : Nat) (lanes entry s4 s5 : Word)
    (args : List (List Word)) :
    (∃ g, (s.startGroup c n gid t idx kind lanes entry s4 s5 args).group? c gid = some g ∧ Started g n t.ctx lanes entry) ∧
      ((s.startGroup c n gid t idx kind lanes entry s4 s5 args).core c).clicker = (s.core c).clicker := by
  unfold startGroup
  extract_lets tid k count g k1 k2 k3 k4
  have hstarted : Started g n t.ctx lanes entry := by
    refine ⟨rfl, rfl, rfl, ?_, fun th hth => ?_⟩
    · show ((List.range (if gid < 512 then 32 else 1)).map _).map _ = _
      rw [if_pos hgid, List.map_map]
      rfl
    · obtain ⟨i, -, rfl⟩ := List.mem_map.1 hth
      rfl
  have hk : k.stands = (s.core c).stands := Core.stands_takeSet _ _ _
  have h2 : k2.stands = k1.stands := Core.stands_foldl (fun k p => Core.stands_setS _ _ _ _) _ _
  have h3 : k3.stands = k2.stands := by
    show Core.stands (if gid < 512 then _ else _) = _
    rw [if_pos hgid]
    exact Core.stands_foldl (fun k l => Core.stands_setV _ _ _ _ _ _) _ _
  have h4 : k4.stands = k3.stands := Core.stands_foldl (fun k p => Core.stands_foldl (fun k q => Core.stands_setV _ _ _ _ _ _) _ _) _ _
  have hstands : k4.stands = k1.stands := h4.trans (h3.trans h2)
  have hgroup : (s.setCore c (k4.l1Acquire .sys)).group? c gid = some g := by
    unfold group?
    rw [core_setCore, if_pos rfl]
    show k4.stands.1.look gid = _
    rw [hstands]
    exact (AMap.look_put _ _ _ _).trans (if_pos rfl)
  refine ⟨group?_enterStart hgroup hstarted lanes entry, ?_⟩
  rw [clicker_of_asides (asides_enterStart _ _ _ _ _ _), core_setCore, if_pos rfl]
  show k4.stands.2 = (s.core c).stands.2
  rw [hstands, ← hk]
  rfl

/-- The account of the arbiter is the die's. -/
@[simp] theorem cores_chargeGroups (s : State) (d q n : Nat) : (s.chargeGroups d q n).cores = s.cores := by
  unfold chargeGroups
  dsimp only
  split <;> rfl

theorem cores_postTwice (s : State) (p : Prop) [Decidable p] (i j : Instr) :
    (if p then (s.postOnce i).postOnce j else s.postOnce i).cores = s.cores := by
  split
  · rw [cores_postOnce, cores_postOnce]
  · exact cores_postOnce _ _

section
variable {s : State} {c n gid idx : Nat} {f : FormSlot} {team : Team} {more : List Nat}
  (hformed : (s.core c).clicker.filter (·.formed) = [f]) (htrap : f.trap = none)
  (hteam : (s.core c).teams.find? (fun p => p.2.kind == .stage) = some (n, team)) (hset : (s.core c).freeSets = gid :: more)
  (hidx : firstFree team.groups (((s.core c).groups.filter fun p => p.2.team == n).map fun p => p.2.index).contains = some idx)
include hformed htrap hteam hset hidx

/-- The only formed slot gives its place to the group that starts, which its team's barriers expect. -/
theorem formedGroupLaunch_eq : ∃ u t : State,
    u.asides = (s.setCore c { s.core c with clicker := (s.core c).clicker.filter fun f' => f'.id ≠ f.id }).asides ∧
    execFormedGroupLaunch c s = .next t ∧
    t.cores = (u.startGroup c n gid team idx 1 (maskOf (List.range f.lanes.length)) f.entry (w32 team.stage) (w32 f.lanes.length)
      f.lanes).cores := by
  unfold execFormedGroupLaunch
  dsimp only
  rw [hformed, hteam, hset]
  dsimp only [pickBest, List.foldl_nil]
  rw [hidx]
  dsimp only
  rw [htrap]
  refine ⟨_, _, ?_, rfl, (cores_postTwice _ _ _ _).trans (cores_chargeGroups _ _ _ _)⟩
  exact asides_foldl (fun s j => asides_modCore s c fun k => k.aside_putStore64 _ _) _ _

theorem formedGroupLaunch_starts : ∃ t : State, execFormedGroupLaunch c s = .next t ∧ (∀ f' ∈ (t.core c).clicker, f'.id ≠ f.id) ∧
    ∃ g, t.group? c gid = some g ∧ Started g n team.ctx (maskOf (List.range f.lanes.length)) f.entry := by
  obtain ⟨u, t, hasides, hexec, hcores⟩ := formedGroupLaunch_eq hformed htrap hteam hset hidx
  have hgid : gid < 512 := mem_freeSets (hset ▸ List.mem_cons_self)
  obtain ⟨⟨g, hg, hstarted⟩, hclicker⟩ := startGroup_starts u c n hgid team idx 1 (maskOf (List.range f.lanes.length)) f.entry
    (w32 team.stage) (w32 f.lanes.length) f.lanes
  have hcore := core_of_cores hcores c
  refine ⟨t, hexec, fun f' hf' => ?_, g, ?_, hstarted⟩
  · rw [hcore, hclicker, clicker_of_asides hasides, core_setCore, if_pos rfl] at hf'
    simpa using (List.mem_filter.1 hf').2
  · rw [group?, hcore]
    exact hg

end

end State
end Sys2Proof.Machine
end

section
/-! The governor's period (R199), the end of a stage (R197) and of a group (R187, R235). -/

namespace Sys2Proof.Machine.State

/-! ### The governor (R199) -/

section
variable {s : State} {d : Nat}

/-- The sample of a stage that is not over its high mark. -/
def calm (y : Stage) : Stage := { y with lastOver := false }

/-- A period of the governor of die d that moves no core: the valid stages take their samples. -/
def passPeriod (s : State) (d : Nat) : State :=
  ((List.range 16).filter fun st => s.stageValid d st).foldl (fun s st => s.modStage d st calm)
    (s.modDie d fun x => { x with period := x.period + 1 })

theorem stage?_foldl_calm (l : List Nat) (s : State) (st : Nat) :
    (l.foldl (fun s e => s.modStage d e calm) s).stage? d st = if st ∈ l then (s.stage? d st).map calm else s.stage? d st := by
  induction l generalizing s with
  | nil => rfl
  | cons e l ih =>
    rw [List.foldl_cons, ih, stage?_modStage]
    by_cases he : e = st
    · rw [if_pos he, if_pos (List.mem_cons.2 (.inl he.symm)), Option.map_map, show calm ∘ calm = calm from rfl, ite_self]
    · rw [if_neg he]
      simp [Ne.symm he]

theorem stage?_passPeriod (s : State) (d : Nat) {st : Nat} (hst : st < 16) :
    (s.passPeriod d).stage? d st = (s.stage? d st).map fun y => if s.stageValid d st = true then calm y else y := by
  have hstage : (s.modDie d fun x => { x with period := x.period + 1 }).stage? d st = s.stage? d st := by
    unfold stage?
    rw [die_modDie_same]
  unfold passPeriod
  rw [stage?_foldl_calm, hstage]
  by_cases hvalid : s.stageValid d st = true
  · rw [if_pos (List.mem_filter.2 ⟨List.mem_range.2 hst, hvalid⟩)]
    simp only [hvalid, if_true]
  · rw [if_neg fun hmem => hvalid (List.mem_filter.1 hmem).2]
    simp [hvalid]

theorem period_passPeriod (s : State) (d : Nat) : ((s.passPeriod d).die d).period = (s.die d).period + 1 := by
  have hfold (l : List Nat) (s : State) : ((l.foldl (fun s e => s.modStage d e calm) s).die d).period = (s.die d).period := by
    induction l generalizing s with
    | nil => rfl
    | cons e l ih => rw [List.foldl_cons, ih, modStage, die_modDie_same]
  unfold passPeriod
  rw [hfold, die_modDie_same]

theorem cores_passPeriod (s : State) (d : Nat) : (s.passPeriod d).cores = s.cores :=
  cores_foldl (f := fun s e => s.modStage d e calm) (fun _ _ => rfl) _ _

/-- A period in which no core has a hit to go to and no stage is over its high mark moves no core. -/
theorem stageGovernorPeriod_quiet (hhits : ∀ c ∈ s.dieCores d, (s.core c).hitQ = [] ∧ (s.core c).hitSpill.entries = [])
    (hlow : ∀ st < 16, s.stageValid d st = true → s.stageItems d st ≤ s.field (stageOff d st 0) 47 32) :
    execStageGovernorPeriod d s = .next (s.passPeriod d) := by
  unfold execStageGovernorPeriod
  extract_lets s1 joins s2 live high asks s'
  have hjoins : joins = [] := List.filter_eq_nil_iff.2 fun c hc => by
    obtain ⟨hq, hspill⟩ := hhits c hc
    have hcore : s1.core c = s.core c := rfl
    simp [hcore, hq, hspill]
  have hs2 : s2 = s1 := by
    show joins.foldl _ s1 = s1
    rw [hjoins]
    rfl
  have hitems (st : Nat) : s2.stageItems d st = s.stageItems d st := by
    rw [hs2]
    unfold stageItems stage?
    rw [show s1.die d = _ from die_modDie_same _ _ _]
  have hlive : live = (List.range 16).filter fun st => s.stageValid d st := by
    show List.filter (fun st => s2.stageValid d st) _ = _
    rw [hs2]
    rfl
  have hhigh : ∀ st ∈ live, high st = false := fun st hst => by
    rw [hlive] at hst
    obtain ⟨hlt, hvalid⟩ := List.mem_filter.1 hst
    have hle := hlow st (List.mem_range.1 hlt) hvalid
    have hfield : s2.field (stageOff d st 0) 47 32 = s.field (stageOff d st 0) 47 32 := by
      rw [hs2]
      rfl
    refine decide_eq_false ?_
    rw [hitems, hfield]
    omega
  have hasks : asks = [] := List.filter_eq_nil_iff.2 fun st hst => by simp [hhigh st hst]
  rw [hasks]
  refine congrArg Host.Outcome.next ?_
  show live.foldl _ s2 = _
  rw [passPeriod, ← hlive, hs2]
  exact List.foldl_ext _ _ _ fun s st hst => by rw [hhigh st hst]; rfl

end

/-! ### A stage retires (R197) -/

@[simp] theorem scenery_requestOv (s : State) (c ctx id : Nat) : (s.requestOv c ctx id).scenery = s.scenery := by
  unfold requestOv
  dsimp only
  split
  · rfl
  · rw [scenery_post, scenery_setCore (by rfl)]

@[simp] theorem scenery_formSlot (s : State) (c id : Nat) : (s.formSlot c id).scenery = s.scenery := by
  unfold formSlot
  split
  · rfl
  · dsimp only
    rw [scenery_postOnce]
    split
    · rw [scenery_requestOv, scenery_modCore _ _ (fun _ => by rfl)]
    · rw [scenery_modCore _ _ (fun _ => by rfl)]

@[simp] theorem scenery_leaveStage (s : State) (c : Nat) (next : Option Nat) : (s.leaveStage c next).scenery = s.scenery := by
  unfold leaveStage
  dsimp only
  rw [scenery_postOnce, scenery_postOnce, scenery_foldl fun s f => scenery_formSlot _ _ _, scenery_modCore _ _ (fun _ => by rfl)]

@[simp] theorem scenery_modDie (s : State) (d : Nat) (f : Die → Die) : (s.modDie d f).scenery = s.scenery := rfl
@[simp] theorem scenery_setArb (s : State) (d q : Nat) (a : ArbQueue) : (s.setArb d q a).scenery = s.scenery := rfl
@[simp] theorem scenery_modLaunch (s : State) (l : Nat) (f : Launch → Launch) : (s.modLaunch l f).scenery = s.scenery := rfl

@[simp] theorem scenery_trimDeficit (s : State) (d q : Nat) : (s.trimDeficit d q).scenery = s.scenery := by
  unfold trimDeficit
  dsimp only
  split <;> rfl

@[simp] theorem scenery_disarm (s : State) (d : Nat) (l : Launch) : (s.disarm d l).scenery = s.scenery := by
  unfold disarm
  split <;> rfl

@[simp] theorem scenery_retireBlock (s : State) (d : Nat) (p : PlacedBlock) : (s.retireBlock d p).scenery = s.scenery := by
  unfold retireBlock
  dsimp only
  rw [scenery_postOnce, scenery_trimDeficit]
  split
  · rw [scenery_disarm, scenery_modLaunch, scenery_modDie]
  · rw [scenery_modLaunch, scenery_modDie]

section
variable {s : State} {d st : Nat}

/-- Of the control space a stage that retires clears its valid bit alone. -/
theorem scenery_retireStage (hvalid : s.stageValid d st = true) (hitems : s.stageItems d st + s.incoming d st = 0)
    (hforming : ∀ c ∈ s.dieCores d, (s.core c).stage = some st → (s.core c).clicker = []) (hhit : s.hitStage d ≠ st) :
    (s.retireStage d st).scenery = (s.setField (stageOff d st 0) 63 63 0).scenery := by
  unfold retireStage
  extract_lets cs forming hits s1 s2 drop
  have hnot : forming = false := List.any_eq_false.2 fun c hc => by
    by_cases h : (s.core c).stage = some st
    · simp [hforming c hc h]
    · simp [h]
  have hs2 : s2.scenery = s1.scenery := scenery_foldl (fun s c => by
    split
    · exact scenery_leaveStage _ _ _
    · split
      · exact scenery_modCore _ _ (fun _ => by rfl)
      · rfl) _ _
  have hs1 : s1.scenery = (s.setField (stageOff d st 0) 63 63 0).scenery := rfl
  rw [← hs1, ← hs2, if_neg (by simp [hvalid, hitems, hnot, hits, hhit])]
  split
  · rfl
  · extract_lets gone listed s3
    have hdrop (s : State) : (drop s).scenery = s.scenery := rfl
    rw [scenery_postOnce]
    clear_value gone listed
    split
    · rw [scenery_retireBlock, hdrop]
    · split
      · split
        · rw [scenery_postOnce, scenery_retireBlock, hdrop, scenery_modDie]
        · rfl
      · rfl

theorem stageValid_retireStage (hitems : s.stageItems d st + s.incoming d st = 0)
    (hforming : ∀ c ∈ s.dieCores d, (s.core c).stage = some st → (s.core c).clicker = []) (hhit : s.hitStage d ≠ st) :
    (s.retireStage d st).stageValid d st = false := by
  by_cases hvalid : s.stageValid d st = true
  · have h := scenery_retireStage hvalid hitems hforming hhit
    have hctl : (s.retireStage d st).ctl = (s.setField (stageOff d st 0) 63 63 0).ctl := congrArg (·.2.1) h
    have hproduct : (s.retireStage d st).product = s.product := congrArg Prod.fst h
    unfold stageValid
    rw [field_congr hctl hproduct, field_setField_same _ _ (by omega) (by omega)]
    rfl
  · unfold retireStage
    dsimp only
    rw [if_pos (.inl hvalid)]
    simpa using hvalid

theorem retireStage_busy (h : 0 < s.stageItems d st + s.incoming d st) : s.retireStage d st = s := by
  unfold retireStage
  exact if_pos (.inr (.inl h))

end

/-! ### A group leaves its core (R187, R235) -/

theorem group?_settleGroup (s : State) (d q cycles c gid : Nat) : (s.settleGroup d q cycles).group? c gid = s.group? c gid := by
  unfold settleGroup trimDeficit
  dsimp only
  split <;> rfl

theorem group?_retireGroup (s : State) (c gid : Nat) (g : Group) : (s.retireGroup c gid g).group? c gid = none := by
  unfold retireGroup
  extract_lets t s1 s2 s3 s4 s5 s6
  have h2 : s2.group? c gid = none := by
    show AMap.look gid (State.core (s1.modCore c _) c).groups = none
    rw [core_modCore_same]
    exact (AMap.look_drop _ _ _).trans (if_pos rfl)
  have h3 : s3.group? c gid = none := by
    rw [← Option.not_isSome_iff_eq_none, group?_isSome_of_asides (asides_admitFaults s2 c), h2]
    simp
  have h4 : s4.group? c gid = none := by
    show (s3.modCore c _).group? c gid = none
    rw [group?_modCore _ _ _ _ _ (fun _ => by rfl), h3]
  have h5 : s5.group? c gid = none := (group?_retryLoads _ _ _ _).trans ((group?_settleGroup _ _ _ _ _ _).trans h4)
  have h6 : s6.group? c gid = none := by
    show State.group? (if t.kind = .stage then _ else _) c gid = none
    split
    · rw [group?_postOnce, h5]
    · exact h5
  rw [group?_postOnce, h6]

end Sys2Proof.Machine.State

namespace Sys2Proof.Claims
open Machine

/-- Settles O49: each event by the branch of its conditions; what stands aside of a lane that joins and of a group that starts is told
by their own lemmas. -/
theorem stageSteps : Obligations.StageSteps := by
  unfold Obligations.StageSteps
  refine ⟨fun s d st item y hy hitem => ⟨fun hfull hspilling => ?_, fun h => ?_, fun rest hspilling => ⟨fun hfull => ?_, fun h hfull => ?_,
      fun u b h hroom hwrite => ?_⟩⟩,
    fun s c st y hstage hy hstays hroom => ⟨State.clickerTake_hit hstage hy hstays hroom, fun i it hnohit hpick hit => ?_⟩,
    fun s c st y hit rest u bs hstage hy hstays hhit hread hroom => ?_,
    fun s c id f hf => ⟨?_, fun f hf => State.formed_of_formSlot hf⟩,
    fun s c f n team gid more idx hformed htrap hteam hset hidx _ => ?_,
    fun s d hhits hlow => ⟨_, State.stageGovernorPeriod_quiet hhits hlow, State.period_passPeriod s d, State.cores_passPeriod s d,
      fun st hst => State.stage?_passPeriod s d hst⟩,
    fun s d st => ⟨fun h => ?_, fun h hforming hhit => ⟨_, rfl, State.stageValid_retireStage h hforming hhit⟩⟩,
    fun s c gid g hg hending => ⟨fun h => ?_, fun h => ⟨State.group?_retireGroup s c gid g, ?_⟩⟩⟩
  · exact State.itemEnqueue_enters hy hitem ⟨by omega, hspilling, by omega⟩
  · exact State.itemEnqueue_spills hy hitem fun ⟨hcount, hnone, hroom⟩ => h.elim (by omega) fun hsome => hsome hnone
  · exact (State.itemEnqueue_moves hy (by omega)).trans (congrArg Host.Outcome.next (State.spillItem_enters hspilling (by omega)))
  · exact (State.itemEnqueue_moves hy (.inr h)).trans (congrArg Host.Outcome.next (State.spillItem_waits hspilling h hfull))
  · exact (State.itemEnqueue_moves hy (.inr h)).trans (congrArg Host.Outcome.next (State.spillItem_writes hspilling h hroom hwrite))
  · obtain ⟨t, u, hjoined, hasides, hdie, hexec⟩ := State.clickerTake_item hstage hy hstays hroom hnohit hpick hit
    refine ⟨_, hexec, ?_, ?_, State.mem_agenda_postOnce _⟩
    · have hdies : (u.postOnce (.clickerTake c)).die (s.dieOf c) =
          (t.modStage (s.dieOf c) st fun y => { y with items := y.items.eraseIdx i }).die (s.dieOf c) :=
        (State.die_postOnce _ _ _).trans (hdie _)
      rw [State.stage?_of_die hdies, State.stage?_modStage, if_pos rfl, State.stage?_of_die (hjoined.die _), hy]
      rfl
    · rw [State.clicker_of_asides ((State.asides_postOnce _ _).trans hasides)]
      exact hjoined.slot
  · obtain ⟨v, t, hjoined, hasides, hexec⟩ := State.shadeWordRead_joins hstage hy hstays hhit hread hroom
    obtain ⟨hhitQ, hclicker⟩ := State.freed_hit v c (wf32 (hit.getD 0 0) 9 0)
    refine ⟨t, hexec, ?_, ?_⟩
    · rw [State.hitQ_of_asides hasides, ← hjoined.hitQ]
      exact hhitQ
    · rw [State.clicker_of_asides hasides]
      exact hclicker ▸ hjoined.slot
  · show execClickWaitExpiry c id s = _
    unfold execClickWaitExpiry
    rw [hf]
    rfl
  · obtain ⟨t, hexec, hothers, g, hg, hstarted⟩ := State.formedGroupLaunch_starts hformed htrap hteam hset hidx
    refine ⟨t, hexec, hothers, g, hg, hstarted.team, hstarted.ctx, hstarted.running, hstarted.live.trans ?_, hstarted.entry⟩
    exact List.map_congr_left fun i hi => getLsbD_maskOf_range _ (List.mem_range.1 hi)
  · exact congrArg Host.Outcome.next (State.retireStage_busy h)
  · show execGroupEnd c gid s = _
    unfold execGroupEnd
    dsimp only
    rw [hg]
    dsimp only
    rw [if_neg (by simp [hending]), if_neg (by simp [h])]
  · show execGroupEnd c gid s = _
    unfold execGroupEnd
    dsimp only
    rw [hg]
    dsimp only
    rw [if_neg (by simp [hending]), if_pos h]

end Sys2Proof.Claims
end
